-- ==== Sys2Proof/Word.lean ====
section
/-! DEFINITION. Word.lean: the word types and their plainest conversions. -/

namespace Sys2Proof

/-- One byte of memory (the smallest addressable unit, R27). -/
abbrev Byte := BitVec 8

/-- A 64-bit word: a lane of a vector register, an address register, a register of the BAR layout. -/
abbrev Word64 := BitVec 64

/-- A partial map from numbers, kept as a list of keys strictly rising with no entry equal to what
an unlisted key reads as (Machine/Ops.lean, Table.put). -/
abbrev Table (α : Type) := List (Nat × α)

/-- Memory: bytes by address, in the canonical form of a Table. -/
abbrev Memory := List Host.Cell

/-- A signed number read from the low w bits of a natural number, two's complement. -/
def sext (w n : Nat) : Int :=
  let m := n % 2 ^ w
  if m < 2 ^ (w - 1) then (m : Int) else (m : Int) - (2 ^ w : Nat)

/-- A signed number wrapped to w bits, as the natural number its bits spell. -/
def wrapNat (w : Nat) (i : Int) : Nat := (i % ((2 ^ w : Nat) : Int)).toNat

/-- Bits [hi:lo] of n. -/
def bits (n hi lo : Nat) : Nat := n / 2 ^ lo % 2 ^ (hi + 1 - lo)

/-- Bit k of n. -/
def bit (n k : Nat) : Bool := n.testBit k

/-- The number of bits needed to write n in binary (0 for 0). -/
def bitLen (n : Nat) : Nat := if n = 0 then 0 else n.log2 + 1

/-- One boolean as 0 or 1. -/
def b2n (b : Bool) : Nat := if b then 1 else 0

end Sys2Proof
end

