-- ==== Sys2Proof/Syntax.lean ====
section
/-! DEFINITION. Syntax.lean: the commands of the module, one constructor of `Instr` per row of
spec/opcode_table.json, and the operands they carry. Where the spec gives a command's arguments no
byte layout (R380), the arguments are operands of the constructor; what another agent decides
(a packet, a peer's answer, a test's outcome, a sensor's reading) is an operand too. -/

namespace Sys2Proof

/-- A mailbox: function number 0 to 43 (R371) and mailbox 0 to 3. -/
structure Mbox where
  func : Nat
  box  : Nat
  deriving DecidableEq, Repr

/-- What a module of a block answers to steps 2 to 4 of R324: a status of R383, SUCCESS when it is free (step 2), its
check of the bundle has passed (step 3) and the bundle fits (step 4), and what the response is to name of a failure.
A module that does not answer is not free. taken are the ranges of memory that other moorings hold there (R161). -/
structure Answer where
  node   : Nat
  status : Nat
  info   : List Nat
  taken  : List (Nat × Nat)
  deriving DecidableEq, Repr

/-- The source of a BUNDLE_LOAD (R380): an address, or a flash object by name. -/
inductive BundleSrc where
  | addr  (a : Nat)
  | flash (name : BitVec 256)
  deriving DecidableEq, Repr

/-- A serving mooring that MOORING_LEND opens (R333, R372): its descriptor's bytes and its owner. -/
structure LendItem where
  desc : List Byte
  ownerNode : Nat
  ownerFunc : Nat
  deriving DecidableEq, Repr

/-- The items of FAULT_POLICY (R354), times in microseconds; none keeps the value in force. -/
structure PolicyItems where
  beaconUs       : Option Nat
  lanternHangUs  : Option Nat
  towerHangUs    : Option Nat
  lanternResets  : Option Nat
  lanternWinUs   : Option Nat
  towerResets    : Option Nat
  towerWinUs     : Option Nat
  transientLimit : Option Nat
  transientWinUs : Option Nat
  eccBurst       : Option Nat
  probeUs        : Option Nat
  deriving DecidableEq, Repr

/-- The fields of a vector instruction besides OP (R122). -/
structure VFields where
  vd  : Nat
  va  : Nat
  vb  : Nat
  vc  : Nat
  mask : Nat
  imm : BitVec 24
  deriving DecidableEq, Repr

/-- A DMA channel: one of a lantern's four (R170) or one of the 16 system channels (R171). -/
inductive Chan where
  | lantern (l c : Nat)
  | system (n : Nat)
  deriving DecidableEq, Repr

/-- An engine whose access met an error at its target (R136, R188). -/
inductive EngineRef where
  | dma (c : Chan)
  | vector (lantern : Nat)
  deriving DecidableEq, Repr

/-- A rail of R409. -/
inductive Rail where
  | vstby | vpll | vio | vser | vnand | vnandq | vdd1 | vdd2h | vdd2l | vddq
  | vcmp (tower : Nat)
  | vsrm (tower : Nat)
  deriving DecidableEq, Repr

/-- What the bring-up checks of one tower find: physical lanterns that fail, and whether anything
outside the lanterns fails (R433 stage 0x06, R436 stage 0x12, R438). -/
structure TowerTest where
  failed : List Nat
  fabric : Bool
  deriving DecidableEq, Repr

/-- What stages 0x01 to 0x06 meet (R433): does the PLL lock, does the PUF reconstruct, the W straps
(R465), the carrier record's bytes if the identity memory answers (R466), tower 0's tests. -/
structure BringUp where
  pllLocks : Bool
  pufOk    : Bool
  posW     : Nat
  carrier  : Option (List Byte)
  tower0   : TowerTest
  deriving DecidableEq, Repr

/-- One two-way time exchange of R282: our send time, the peer's receive time, the peer's send time and our receive
time, in units of 2^-16 ns. -/
structure Exchange where
  t1 : Nat
  t2 : Nat
  t3 : Nat
  t4 : Nat
  deriving DecidableEq, Repr

/-- The outcome of training one link (R259): lanes that pass PRBS31 in both directions at each rate,
whether stages 1 and 4 succeed at each rate, and the time exchanges of stage 5. -/
structure LinkTrain where
  pass224 : BitVec 16
  pass112 : BitVec 16
  pass56  : BitVec 16
  lock224 : Bool
  lock112 : Bool
  lock56  : Bool
  exchanges : List Exchange
  deriving DecidableEq, Repr

/-- What a neighbour reports at stage 0x16 (R467). -/
structure Neighbour where
  port  : Nat
  node  : Nat
  sizes : List Nat
  deriving DecidableEq, Repr

/-- What the stages from early light to full light meet (R436), with the head-wait limit and the stream timeout that
are set there, in microseconds (R272, R279). -/
structure FullInputs where
  lpddrOk    : Bool
  towers     : List TowerTest
  links      : List (Option LinkTrain)
  neighbours : List Neighbour
  rootTime   : Option Nat
  headWaitUs : Option Nat
  streamUs   : Option Nat
  stale      : Bool
  deriving DecidableEq, Repr

/-- A part that a test covers (R348, R350). -/
inductive Part where
  | lantern (l : Nat)
  | storeBank (l bank : Nat)
  | accArray (l : Nat)
  | gradArray (l : Nat)
  | sramSub (tower sub : Nat)
  | dram (addr : Nat)
  | port (p : Nat)
  | device (d : Nat)
  deriving DecidableEq, Repr

/-- The unit of a compute reset (R341). -/
inductive ResetUnit where
  | lantern (l : Nat)
  | tower (t : Nat)
  deriving DecidableEq, Repr

/-- A domain that keeps a daymark (R345). -/
inductive Domain where
  | lantern (l : Nat)
  | tower (t : Nat)
  | shore (c : Nat)
  | keeper
  | mooring (id : Nat)
  deriving DecidableEq, Repr

/-- What a test says (R349): of a failure, the lines of bonded SRAM or the pages of LPDDR5X that failed it (R350). -/
inductive TestResult where
  | pass | fail (places : List Nat) | errorDuring
  deriving DecidableEq, Repr

/-- What a probe meets (R362): the answer of a member, or silence. -/
inductive ProbeAnswer where
  | silent | outOfService | free | daymark (d : Nat)
  deriving DecidableEq, Repr

/-- A packet (R263, R264): the header's fields, the payload's bytes and the trailer. Two things that R264 gives no bits
stand beside the header: the daymark of the requesting domain, which a request carries (R346), and the port by which a
packet of a ring of two leaves its source (R295). -/
structure Packet where
  typ     : Nat
  cls     : Nat
  esc     : Bool
  dl      : Bool
  resent  : Bool
  start   : Bool
  dmk     : Nat
  dest    : Nat
  src     : Nat
  daymark : Nat
  mooring : Nat
  tag     : Nat
  seq     : Nat
  hops    : Nat
  rlen    : Nat
  hcrc    : Nat
  arg     : Nat
  payload : List Byte
  trailer : Nat
  domain  : Nat
  via     : Option Nat
  deriving DecidableEq, Repr

/-- The fields of a control flit (R262); times in units of 2^-16 ns. -/
structure ControlFlit where
  on     : BitVec 8
  cseq   : Nat
  tx     : Nat
  ecseq  : Nat
  erx    : Nat
  dist   : Nat
  root   : Nat
  deriving DecidableEq, Repr

/-- One entry of the light list (R275) but for HITS. -/
structure LightEntry where
  value     : Nat
  mask      : Nat
  matchPort : Nat
  port      : Nat
  action    : Nat
  deriving DecidableEq, Repr

/-- A ladder of a job (R206, R209): rung, demotion count and window, and rung and window without the verdict last
applied, which the step after it goes by (R211). -/
structure JobLadder where
  rung   : Nat
  count  : Nat
  window : List Int
  prevRung : Nat
  prevWindow : List Int
  deriving DecidableEq, Repr

/-- The state of a job that moves with the anchor's Keeper (R329): step counter, last committed step, the step that
shard headers are compared with, L, the clean count, the ladders. -/
structure JobState where
  step      : Nat
  committed : Option Nat
  refStep   : Option Nat
  lscale    : Nat
  clean     : Nat
  ladders   : List JobLadder
  deriving DecidableEq, Repr

/-- A new map of a mooring (R322, R324, R328, R335): why it is sent (the opcode, 0 for an adoption), the daymark, the
descriptor's bytes, substitutions, the nodes lost with the holders of their copies, the job's state, the bundle's
image and seed, the owner. -/
structure MapMsg where
  mooring   : Nat
  why       : Nat
  daymark   : Nat
  desc      : List Byte
  subs      : List (Nat × Nat)
  lost      : List (Nat × Nat)
  job       : JobState
  image     : List Byte
  seed      : Nat
  ownerNode : Nat
  ownerFunc : Nat
  /-- ranges that other moorings hold on each module (R161) -/
  told      : List (Nat × List (Nat × Nat))
  /-- tensors reserved at the largest size for the rest of the job (R169); roles that have left their axes (R327) -/
  raised    : List Nat
  departed  : List Nat
  /-- the map that the pieces come from; the old map in force until the first commit, if any, and its members lost since
  (R331) -/
  fromDesc  : List Byte
  fromSubs  : List (Nat × Nat)
  oldDesc   : List Byte
  oldSubs   : List (Nat × Nat)
  oldLost   : List (Nat × Nat)
  deriving DecidableEq, Repr

/-- A command forwarded to an anchor (R316), with what the modules it asks answer; a run in progress that an earlier anchor
hands over, with the steps committed of it. -/
inductive FwdCmd where
  | run (first count position : Nat)
  | resume (first count position done : Nat)
  | close
  | status
  | membership (opcode : Nat) (desc : List Byte) (answers : List Answer)
  | lend (desc : List Byte) (serving : List LendItem) (answers : List Answer)
  deriving DecidableEq, Repr

/-- What a Keeper-to-Keeper message says (R265); the spec gives the payload no layout. -/
inductive KeeperMsg where
  | timeRoot (node : Option Nat)
  | probe (mooring : Nat)
  | probeAnswer (mooring node : Nat) (a : ProbeAnswer)
  | ringChange (mooring axis effective : Nat) (brk : Option Nat)
  | neighbour (port node : Nat) (sizes : List Nat)
  | forward (node func tag mooring deadline : Nat) (cmd : FwdCmd)
  | abortForwarded (node func tag status : Nat)
  | forwardReply (func tag status : Nat) (result : List Byte) (detail : Nat)
  | forwardStep (func tag status flags step daymark : Nat)
  | stagingFull (func tag : Nat)
  | stagingRoom (func tag : Nat)
  | forwardAnswer (func tag status flags detail daymark : Nat)
  | newMap (x : MapMsg)
  | openAsk (x : MapMsg) (lent : Nat)
  | openAnswer (lent mooring : Nat) (a : Answer)
  | opened (mooring node status : Nat)
  | raise (mooring tensor : Nat)
  | faultAsk (mooring : Nat)
  | faultDone (mooring node : Nat)
  | askPoint (mooring lost : Nat)
  | pointIs (mooring lost holder : Nat) (point : Option Nat)
  | oldMap (mooring : Nat)
  | permuted (mooring node bytes : Nat)
  | permuteFailed (mooring node : Nat)
  | goOn (mooring : Nat) (leaving : List Nat)
  | pause (mooring : Nat)
  | release (mooring : Nat)
  | startRun (mooring first count position : Nat)
  | stopRun (mooring status : Nat)
  | stopWork (mooring : Nat)
  | undoStep (mooring step : Nat)
  | bypass (node : Nat)
  | elected (mooring lost : Nat)
  | redirect (lost lightship : Nat)
  | savePart (mooring : Nat) (name : BitVec 256) (job : JobState)
  | savedPart (mooring node : Nat) (name : BitVec 256) (status : Nat)
  | restorePart (x : MapMsg) (name : BitVec 256)
  | restoreHere (mooring : Nat) (name : BitVec 256) (job : JobState) (asker : Nat)
  | deletePart (mooring : Nat) (name : BitVec 256)
  | tensorWrite (mooring tensor offset asker func tag : Nat) (bytes : List Byte)
  | tensorRead (mooring tensor offset len step asker func tag : Nat)
  | tensorAnswer (func tag status : Nat) (bytes : List Byte)
  | event (code mooring node unit detail time step daymark func : Nat)
  | suspect (mooring node : Nat)
  | routerOnly (mooring node : Nat)
  | servingEnd (mooring node step flags : Nat) (bad fault : Bool)
  | servingDecided (mooring step : Nat) (fault : Bool)
  | slotShows (mooring func run committed daymark : Nat)
  | slotGone (mooring func : Nat)
  | tenderInstalled (mooring step node : Nat)
  | tenderAnnounced (mooring step : Nat)
  deriving DecidableEq, Repr

/-- Where a scrub, a patrol or an access looks (R91, R142, R143): a line of a scrubbed tier; a data word and its tag of an
accumulator bank or gradient buffer; a bank of the store. -/
inductive ScrubPlace where
  | line (addr : Nat)
  | accWord (lantern : Nat) (grad : Bool) (word column : Nat)
  | bank (lantern bank : Nat)
  deriving DecidableEq, Repr

/-- What it finds there: a number of corrected errors; an uncorrectable one; that the place was not wholly scrubbed within
100 ms. -/
inductive ScrubFound where
  | corrected (n : Nat)
  | uncorrectable
  | late
  deriving DecidableEq, Repr

/-- What a retention scan finds of one stored object (R148, R145). -/
structure ScanItem where
  name : BitVec 256
  weak : Bool
  lost : Bool
  deriving DecidableEq, Repr

/-- What a retention scan reads (R142, R148): the objects with something to say, the corrected errors by flash die, and
whether the whole user area was read. -/
structure ScanResult where
  items : List ScanItem
  dies  : List (Nat × Nat)
  whole : Bool
  deriving DecidableEq, Repr

/-- What failed in a flash operation (R145). -/
inductive FlashOp where
  | program | erase
  deriving DecidableEq, Repr

/-- A result of one BIST unit (R450): kind, tower or die, index, signature. -/
structure BistResult where
  kind      : Nat
  die       : Nat
  index     : Nat
  signature : Nat
  deriving DecidableEq, Repr

/-- A power effecter of R473. -/
inductive Effecter where
  | cap | peakCap | slew
  deriving DecidableEq, Repr

/-- A sensor sample (R423), temperatures in units of 0.1 degC: the highest reading of each tower's
dies, of each I/O die, the coolant inlet and outlet (R431). -/
structure Temps where
  towers : List Int
  io     : List Int
  inlet  : Int
  outlet : Int
  deriving DecidableEq, Repr

/-- The commands: one constructor per row of spec/opcode_table.json, in the table's order. -/
inductive Instr where
  | nop (m : Mbox)
  | identify (m : Mbox)
  | cqBind (m : Mbox) (qid typ base log2n vector modCount modTime : Nat)
  | cqUnbind (m : Mbox) (qid : Nat)
  | hwinOpen (m : Mbox) (addr len : Nat) (rd wr : Bool)
  | hwinClose (m : Mbox) (idx : Nat)
  | abort (m : Mbox) (tag : Nat) (func : Option Nat)
  | bundleLoad (m : Mbox) (src : BundleSrc) (len seed : Nat)
  | bundleUnload (m : Mbox) (handle : Nat)
  | bundleStore (m : Mbox) (handle : Nat) (name : BitVec 256)
  | mooringOpen (m : Mbox) (answers : List Answer)
  | mooringGrow (m : Mbox) (answers : List Answer)
  | mooringShrink (m : Mbox) (answers : List Answer)
  | mooringMove (m : Mbox) (answers : List Answer)
  | mooringLend (m : Mbox) (serving : List LendItem) (answers : List Answer)
  | mooringClose (m : Mbox)
  | mooringStatus (m : Mbox)
  | runSteps (m : Mbox) (first count position : Nat)
  | tensorWrite (m : Mbox) (tensor node offset len src : Nat)
  | tensorRead (m : Mbox) (tensor node offset len dst step : Nat)
  | snapshotSave (m : Mbox) (name : BitVec 256)
  | snapshotRestore (m : Mbox) (name : BitVec 256) (holders : List Answer)
  | snapshotDelete (m : Mbox) (name : BitVec 256)
  | shoreStart (m : Mbox) (cores img imgLen entry : Nat) (windows : List (Nat × Nat))
  | shoreStop (m : Mbox) (core : Option Nat)
  | selftest (m : Mbox)
  | returnToService (m : Mbox)
  | faultPolicy (m : Mbox) (mooring : Option Nat) (items : PolicyItems)
  | setSplit (m : Mbox) (n : Nat)
  | timeRoot (m : Mbox) (node : Option Nat)
  | telemetryRead (m : Mbox) (group first count : Nat)
  | eventLogRead (m : Mbox) (first last : Nat)
  | powerSet (m : Mbox)
  | attest (m : Mbox) (nonce : BitVec 256)
  | fwWrite (m : Mbox) (addr len slot : Nat)
  | fwActivate (m : Mbox) (slot : Nat)
  | debugMode (m : Mbox) (v : Nat)
  | accTagRead (m : Mbox) (lantern : Nat) (grad : Bool) (col ncols entry nentries : Nat)
  | queueHeadWrite (func q value : Nat)
  | intStatusClear (func : Nat) (value raised : BitVec 64)
  | registerWrite (func offset : Nat) (data : List Byte)
  | moderationTimer (func q : Nat)
  | deadlineExpiry (func tag : Nat)
  | forwardTimeout (func tag : Nat)
  | perstN
  | pfFlr
  | vfFlr (vfs : List Nat) (clearEnable : Bool)
  | busMasterEnableClear (func : Nat)
  | memorySpaceEnableClear (func : Nat)
  | powerGood (b : BringUp)
  | bringupRetry (b : BringUp)
  | earlyLight
  | fullLight (f : FullInputs)
  | inputStageStart
  | inputVoltageChange (mv : Nat)
  | pwrEn (level : Bool)
  | railFault (r : Rail)
  | ballastSample (currentMa : Nat)
  | governorTick (watts : Nat) (sectors : List Nat)
  | thermalSample (t : Temps)
  | hardwareThermalTrip
  | fillHoldExpiry (lantern : Nat)
  | pwrBrakeAssert
  | pwrBrakeRelease
  | referenceLost
  | referenceRestored (ppm : Nat)
  | ppsPulse (intervalNs widthNs : Nat)
  | ppsTimeout
  | watchdogMiss
  | keeperRestart
  | trialFirmwareConfirm
  | heartbeatTick
  | snapshotCreditGrow
  | retentionScan (r : ScanResult)
  | memoryScrub (place : ScrubPlace) (found : ScrubFound)
  | correctedEccBurst (p : Part)
  | stepStart (mooring : Nat)
  | schedEnd (lantern : Nat)
  | endRetire (lantern : Nat)
  | lens (lantern : Nat)
  | chain (lantern : Nat)
  | dma (lantern : Nat)
  | wait (lantern : Nat)
  | waitSatisfied (lantern : Nat)
  | coll (lantern : Nat)
  | hold (lantern : Nat)
  | update (lantern : Nat)
  | pass (lantern : Nat) (residueErrors : List Nat)
  | drain (lantern : Nat)
  | drainStart (lantern : Nat)
  | tileLoadStart (lantern : Nat)
  | tileRelease (lantern : Nat)
  | lensDescriptorRetire (lantern : Nat)
  | lensClockChange (lantern : Nat)
  | bindingStart (lantern : Nat)
  | chainRowStart (lantern : Nat)
  | bindingRetire (lantern : Nat)
  | loadArrival (lantern : Nat)
  | vMov (lantern : Nat) (f : VFields)
  | vLdi (lantern : Nat) (f : VFields)
  | vSetg (lantern : Nat) (f : VFields)
  | vScale (lantern : Nat) (f : VFields)
  | vGetg (lantern : Nat) (f : VFields)
  | vSel (lantern : Nat) (f : VFields)
  | vNop (lantern : Nat) (f : VFields)
  | vAdd (lantern : Nat) (f : VFields)
  | vSub (lantern : Nat) (f : VFields)
  | vNeg (lantern : Nat) (f : VFields)
  | vAbs (lantern : Nat) (f : VFields)
  | vMul (lantern : Nat) (f : VFields)
  | vMulsh (lantern : Nat) (f : VFields)
  | vMadd (lantern : Nat) (f : VFields)
  | vMsub (lantern : Nat) (f : VFields)
  | vMin (lantern : Nat) (f : VFields)
  | vMax (lantern : Nat) (f : VFields)
  | vClamp (lantern : Nat) (f : VFields)
  | vAddi (lantern : Nat) (f : VFields)
  | vMuli (lantern : Nat) (f : VFields)
  | vResc (lantern : Nat) (f : VFields)
  | vRescf (lantern : Nat) (f : VFields)
  | vAlign (lantern : Nat) (f : VFields)
  | vNorm (lantern : Nat) (f : VFields)
  | vAnd (lantern : Nat) (f : VFields)
  | vOr (lantern : Nat) (f : VFields)
  | vXor (lantern : Nat) (f : VFields)
  | vNot (lantern : Nat) (f : VFields)
  | vShli (lantern : Nat) (f : VFields)
  | vShra (lantern : Nat) (f : VFields)
  | vShrl (lantern : Nat) (f : VFields)
  | vCeq (lantern : Nat) (f : VFields)
  | vCne (lantern : Nat) (f : VFields)
  | vClt (lantern : Nat) (f : VFields)
  | vCle (lantern : Nat) (f : VFields)
  | vCgt (lantern : Nat) (f : VFields)
  | vCge (lantern : Nat) (f : VFields)
  | vCsat (lantern : Nat) (f : VFields)
  | vMand (lantern : Nat) (f : VFields)
  | vMor (lantern : Nat) (f : VFields)
  | vMnot (lantern : Nat) (f : VFields)
  | vTlu (lantern : Nat) (f : VFields)
  | vRecip (lantern : Nat) (f : VFields)
  | vRsqrt (lantern : Nat) (f : VFields)
  | vLog2i (lantern : Nat) (f : VFields)
  | vRand (lantern : Nat) (f : VFields)
  | vRbits (lantern : Nat) (f : VFields)
  | vReq (lantern : Nat) (f : VFields)
  | vReqr (lantern : Nat) (f : VFields)
  | vRec (lantern : Nat) (f : VFields)
  | vRjam (lantern : Nat) (f : VFields)
  | vRadd (lantern : Nat) (f : VFields)
  | vMergeAdd (lantern : Nat) (f : VFields)
  | vMergeRead (lantern : Nat) (f : VFields)
  | vMergeTake (lantern : Nat) (f : VFields)
  | vRsum (lantern : Nat) (f : VFields)
  | vRmax (lantern : Nat) (f : VFields)
  | vRmin (lantern : Nat) (f : VFields)
  | vRcnt (lantern : Nat) (f : VFields)
  | vLdb (lantern : Nat) (f : VFields)
  | vStb (lantern : Nat) (f : VFields)
  | vLdw (lantern : Nat) (f : VFields)
  | vStw (lantern : Nat) (f : VFields)
  | vLdr (lantern : Nat) (f : VFields)
  | vStr (lantern : Nat) (f : VFields)
  | move (c : Chan)
  | loop (c : Chan)
  | dmaWait (c : Chan)
  | dmaWaitSatisfied (c : Chan)
  | signal (c : Chan)
  | signalIncrement (c : Chan)
  | move3 (c : Chan)
  | channelStop (c : Chan)
  | reduceScatter (lantern slot : Nat)
  | allGather (lantern slot : Nat)
  | allReduce (lantern slot : Nat)
  | broadcast (lantern slot : Nat)
  | send (lantern slot : Nat)
  | recv (lantern slot : Nat)
  | allToAllV (lantern slot : Nat)
  | permute (mooring : Nat)
  | collectiveComplete (lantern slot : Nat)
  | verdictContribution (mooring : Nat)
  | verdict (mooring : Nat) (p : Option Packet)
  | verdictTimerExpiry (mooring : Nat)
  | tenderInstall (mooring kept : Nat)
  | tenderAnnounce (mooring : Nat)
  | servingStepEnd (mooring : Nat)
  | beaconSample (lantern : Nat)
  | computeResetDone (u : ResetUnit)
  | resetHangLimit (u : ResetUnit)
  | targetedTestResult (p : Part) (r : TestResult)
  | daymarkAdvance (d : Domain)
  | probeTimeout (mooring node : Nat) (a : ProbeAnswer)
  | shoreAccessFault (core addr : Nat)
  | codewordReceive (port : Nat) (lanes : List (List Nat))
  | controlFlit (port : Nat) (f : ControlFlit) (arrival : Nat)
  | lossOfLock (port : Nat)
  | controlFlitTimeout (port : Nat)
  | linkTrainingDone (port : Nat) (t : LinkTrain)
  | retrainTimer (port : Nat)
  | packetHop (inPort : Option Nat) (p : Packet)
  | headWaitTimeout (port vc : Nat)
  | lightListInstall (entries : List LightEntry) (known : List (Nat × List LightEntry))
  | peerWrite (p : Packet)
  | peerRead (p : Packet)
  | peerData (p : Packet)
  | peerDone (p : Packet)
  | collPacket (p : Packet)
  | keeperMsg (p : Packet) (msg : KeeperMsg)
  | ack (p : Packet)
  | nak (p : Packet)
  | ackTimer (src cls : Nat)
  | streamTimeout (dest cls : Nat)
  | timeServoTick
  | holdoverTimeout
  | rootReselect
  | pldmEffecterWrite (e : Effecter) (value : Nat)
  | pldmFirmwareUpdate (image : List Byte) (slot : Nat) (activate : Bool) (tower0 : TowerTest)
  | mctpControl (msg : List Byte)
  | getVersion
  | getCapabilities
  | negotiateAlgorithms (sm2 sm3 : Bool)
  | getDigests
  | getCertificate (slot offset len : Nat)
  | challenge (slot : Nat) (nonce : BitVec 256)
  | getMeasurements (op : Nat) (signed : Bool) (nonce : BitVec 256)
  | dmaDescriptorRetire (c : Chan)
  | flashProgramOrEraseDone (op : FlashOp) (ok : Bool)
  | fullBistGroupEnd (results : List BistResult)
  | linkDownReport (mooring reporter member : Nat)
  | hostWindowError (e : EngineRef)
  | busMasterEnableSet (func : Nat)
  | memorySpaceEnableSet (func : Nat)
  | vfEnableSet
  | perstNRelease
  deriving DecidableEq, Repr

end Sys2Proof
end

