-- ==== Sys2Proof/WellFormed.lean ====
section
/-! DEFINITION. WellFormed.lean: which commands name things the module has: functions 0 to 43, mailboxes
0 to 3, queues 0 to 15 (R371), lanterns 0 to 191 (R9), towers, ports, channels, shore cores, and vector
instruction fields in their widths (R122). A command that fails is not one the part can meet. -/

namespace Sys2Proof

/-- A mailbox of a function (R371). -/
def Mbox.ok (m : Mbox) : Bool := decide (m.func < 44) && decide (m.box < 4)

/-- The fields of a vector instruction in their widths (R122). -/
def VFields.ok (f : VFields) : Bool :=
  decide (f.vd < 64) && decide (f.va < 64) && decide (f.vb < 64) && decide (f.vc < 64) && decide (f.mask < 16)

/-- A channel the module has (R170, R171). -/
def Chan.ok : Chan → Bool
  | .lantern l c => decide (l < 192) && decide (c < 4)
  | .system n => decide (n < 16)

/-- A packet whose fields fit their widths (R264). -/
def Packet.ok (p : Packet) : Bool :=
  decide (p.typ < 256) && decide (p.cls < 4) && decide (p.dmk < 4) && decide (p.dest < 2 ^ 18) &&
  decide (p.src < 2 ^ 18) && decide (p.payload.length ≤ 2048) && decide (p.daymark < 2 ^ 32) &&
  decide (p.mooring < 2 ^ 16) && decide (p.tag < 4096) && decide (p.seq < 2 ^ 32) &&
  decide (p.hops < 256) && decide (p.rlen < 4096) && decide (p.hcrc < 2 ^ 16) && decide (p.arg < 2 ^ 64) &&
  decide (p.domain < 2 ^ 32)

/-- A unit of a compute reset (R341). -/
def ResetUnit.ok : ResetUnit → Bool
  | .lantern l => decide (l < 192)
  | .tower t => decide (t < 4)

/-- The checks of one command's operands. -/
def Instr.wf : Instr → Bool
  | .nop m | .identify m | .cqUnbind m _ | .hwinOpen m _ _ _ _ | .hwinClose m _ | .abort m _ _ => m.ok
  | .cqBind m _ _ _ _ _ _ _ => m.ok
  | .bundleLoad m _ _ _ | .bundleUnload m _ | .bundleStore m _ _ => m.ok
  | .mooringOpen m _ | .mooringGrow m _ | .mooringShrink m _ | .mooringMove m _ => m.ok
  | .mooringLend m _ _ | .mooringClose m | .mooringStatus m | .runSteps m _ _ _ => m.ok
  | .tensorWrite m _ _ _ _ _ | .tensorRead m _ _ _ _ _ _ => m.ok
  | .snapshotSave m _ | .snapshotRestore m _ _ | .snapshotDelete m _ => m.ok
  | .shoreStart m _ _ _ _ _ | .shoreStop m _ | .selftest m | .returnToService m => m.ok
  | .faultPolicy m _ _ | .setSplit m _ | .timeRoot m _ | .telemetryRead m _ _ _ => m.ok
  | .eventLogRead m _ _ | .powerSet m | .attest m _ | .fwWrite m _ _ _ | .fwActivate m _ => m.ok
  | .debugMode m _ | .accTagRead m _ _ _ _ _ _ => m.ok
  | .queueHeadWrite f q _ | .moderationTimer f q => decide (f < 44) && decide (q < 16)
  | .intStatusClear f _ _ | .registerWrite f _ _ => decide (f < 44)
  | .deadlineExpiry f _ | .forwardTimeout f _ => decide (f < 44)
  | .perstN | .pfFlr | .perstNRelease | .vfEnableSet => true
  | .vfFlr vfs _ => vfs.all (fun v => decide (1 ≤ v) && decide (v < 32))
  | .busMasterEnableClear f | .memorySpaceEnableClear f | .busMasterEnableSet f
  | .memorySpaceEnableSet f => decide (f < 32)
  | .powerGood _ | .bringupRetry _ | .earlyLight | .fullLight _ | .inputStageStart
  | .inputVoltageChange _ | .pwrEn _ | .railFault _ | .ballastSample _ | .governorTick _ _
  | .thermalSample _ | .hardwareThermalTrip => true
  | .fillHoldExpiry l => decide (l < 192)
  | .pwrBrakeAssert | .pwrBrakeRelease | .referenceLost | .referenceRestored _ | .ppsPulse _ _
  | .ppsTimeout | .watchdogMiss | .keeperRestart | .trialFirmwareConfirm | .heartbeatTick
  | .snapshotCreditGrow | .retentionScan _ | .memoryScrub _ _ | .correctedEccBurst _ => true
  | .stepStart _ => true
  | .schedEnd l | .endRetire l | .lens l | .chain l | .dma l | .wait l | .waitSatisfied l | .coll l
  | .hold l | .update l | .pass l _ | .drain l | .drainStart l | .tileLoadStart l | .tileRelease l
  | .lensDescriptorRetire l | .lensClockChange l | .bindingStart l | .chainRowStart l
  | .bindingRetire l | .loadArrival l => decide (l < 192)
  | .vMov l f | .vLdi l f | .vSetg l f | .vScale l f | .vGetg l f | .vSel l f | .vNop l f | .vAdd l f
  | .vSub l f | .vNeg l f | .vAbs l f | .vMul l f | .vMulsh l f | .vMadd l f | .vMsub l f | .vMin l f
  | .vMax l f | .vClamp l f | .vAddi l f | .vMuli l f | .vResc l f | .vRescf l f | .vAlign l f
  | .vNorm l f | .vAnd l f | .vOr l f | .vXor l f | .vNot l f | .vShli l f | .vShra l f | .vShrl l f
  | .vCeq l f | .vCne l f | .vClt l f | .vCle l f | .vCgt l f | .vCge l f | .vCsat l f | .vMand l f
  | .vMor l f | .vMnot l f | .vTlu l f | .vRecip l f | .vRsqrt l f | .vLog2i l f | .vRand l f
  | .vRbits l f | .vReq l f | .vReqr l f | .vRec l f | .vRjam l f | .vRadd l f | .vMergeAdd l f
  | .vMergeRead l f | .vMergeTake l f | .vRsum l f | .vRmax l f | .vRmin l f | .vRcnt l f
  | .vLdb l f | .vStb l f | .vLdw l f | .vStw l f | .vLdr l f | .vStr l f => decide (l < 192) && f.ok
  | .move c | .loop c | .dmaWait c | .dmaWaitSatisfied c | .signal c | .signalIncrement c | .move3 c
  | .channelStop c | .dmaDescriptorRetire c => c.ok
  | .reduceScatter l k | .allGather l k | .allReduce l k | .broadcast l k | .send l k | .recv l k
  | .allToAllV l k | .collectiveComplete l k => decide (l < 192) && decide (k < 4)
  | .permute _ | .verdictContribution _ | .verdict _ _ | .verdictTimerExpiry _ | .tenderInstall _ _
  | .tenderAnnounce _ | .servingStepEnd _ => true
  | .beaconSample l => decide (l < 192)
  | .computeResetDone u | .resetHangLimit u => u.ok
  | .targetedTestResult _ _ | .daymarkAdvance _ | .probeTimeout _ _ _ => true
  | .shoreAccessFault c _ => decide (c < 12)
  | .codewordReceive p ls => decide (p < 8) && ls.all (fun l => l.all (fun x => decide (x < 1024)))
  | .controlFlit p _ _ | .lossOfLock p | .controlFlitTimeout p | .linkTrainingDone p _
  | .retrainTimer p => decide (p < 8)
  | .packetHop q p => p.ok && (match q with | none => true | some n => decide (n < 8))
  | .headWaitTimeout p v => decide (p < 8) && decide (v < 8)
  | .lightListInstall es _ => decide (es.length ≤ 256)
  | .peerWrite p | .peerRead p | .peerData p | .peerDone p | .collPacket p | .keeperMsg p _ | .ack p
  | .nak p => p.ok
  | .ackTimer _ _ | .streamTimeout _ _ | .timeServoTick | .holdoverTimeout | .rootReselect => true
  | .pldmEffecterWrite _ _ | .pldmFirmwareUpdate _ _ _ _ | .mctpControl _ => true
  | .getVersion | .getCapabilities | .negotiateAlgorithms _ _ | .getDigests | .getCertificate _ _ _
  | .challenge _ _ | .getMeasurements _ _ _ => true
  | .flashProgramOrEraseDone _ _ | .fullBistGroupEnd _ | .linkDownReport _ _ _ | .hostWindowError _ => true

end Sys2Proof
end

