-- ==== Sys2Proof/Decode.lean ====
section
/-! DEFINITION. Decode.lean: the commands that words of spec/opcode_table.json spell. The table gives
every row an empty list of fields, so no word spells a command (notes/assumptions/11.md). -/

namespace Sys2Proof

/-- The command that a word of nbits bits spells by the table's bits: none, since the table gives no row
any bits. -/
def decodeTableWord (_nbits _w : Nat) : Option Instr := none

end Sys2Proof
end

