-- ==== Sys2Proof/Config.lean ====
section
/-! DEFINITION. Config.lean: what the spec leaves to the part or to outside it. Every constant here is
opaque: nothing can be proved about its value, so a claim holds whatever it is. -/

namespace Sys2Proof.Config

/-- The value of the n-th draw of something the spec leaves open (notes/assumptions/8.md). -/
opaque freeValue : Nat → BitVec 64

/-- What a byte of host memory reads as before the module has written it (notes/assumptions/3.md). -/
opaque hostByte : Nat → BitVec 8

/-- SM3 of a string of bytes (R442, R454): named by the spec, not defined in it. -/
opaque sm3 : List (BitVec 8) → BitVec 256

/-- Does an SM2 signature over a digest verify under a public key (R442, R448)? -/
opaque sm2Verify : List (BitVec 8) → BitVec 256 → List (BitVec 8) → Bool

/-- The SM2 signature of a message under the module's identity key (R439, R456): 64 bytes by R442. -/
opaque sm2Sign : List (BitVec 8) → BitVec 512

/-- The public key of the identity (R439), 64 bytes. -/
opaque identityKey : Nat → BitVec 8

/-- Byte i of the identity certificate chain of a slot (R453); its length. -/
opaque certByte : Nat → Nat → BitVec 8
opaque certLength : Nat → BitVec 16

/-- The digests of the public keys in fuses (R440, R442, R448): firmware keys, by index. -/
opaque fusedKeyDigest : Nat → BitVec 256

/-- The digest of the boot ROM (R454). -/
opaque romDigest : BitVec 256

/-- The digest of the configuration record's factory part (R440, R454): its certificate and trim are not in the spec. -/
opaque factoryDigest : BitVec 256

/-- The exponent of a reduction over a scope whose lanes are all SAT (R122, R133): the spec lets no lane choose it
(notes/assumptions/28.md). -/
opaque allSatExp : List Int → BitVec 16

/-- The second moment of the diagonal rule where the trace of the statistics is zero (R250), of the mantissas and exponents of
its two factors: the spec states no result there (notes/assumptions/8.md). -/
opaque diagonalOpen : Int → Int → Int → Int → BitVec 64

/-- The version of an owned tensor for which no shard header is kept (R228, R242): the spec gives it none
(notes/assumptions/8.md). -/
opaque openVersion : Nat → BitVec 64

/-- The bank of its lantern's store that holds the lens descriptor of a schedule slot: R348 speaks of it, no rule says where
it lies (notes/assumptions/41.md). -/
opaque descriptorBank : Nat → Nat → BitVec 5

/-- What the cable at a port names itself by, read from its identity memory (R469): the cable lies outside the module. -/
opaque cableType : Nat → BitVec 64

/-- The width at which the PCIe link has trained (R470): 16 lanes, or 8; the host's side has its part in it. -/
opaque pcieWidth : BitVec 8

/-- Bytes of a flash block (R145): the spec gives no size. -/
opaque flashBlock : Nat

end Sys2Proof.Config
end

