-- ==== Sys2Proof/Machine/State.lean ====
section
/-! DEFINITION. Machine/State.lean: everything the spec gives the module, as plain data, and the state
right after reset. Each field's docstring names its rule and its reset value; "choice 0" marks a value
the spec does not give (notes/assumptions/1.md). The state after reset is the module before power:
input off, PWR_EN low, flash as delivered. -/

namespace Sys2Proof.Machine

/-! ### Data formats -/

/-- Block formats (R25). -/
inductive Fmt where
  | b4 | b8 | b16 | b32
  deriving DecidableEq, Repr

/-- Accumulator formats (R88); `refused` is code 0b11 of R56. -/
inductive AccFmt where
  | acc32 | acc16 | acc48 | refused
  deriving DecidableEq, Repr

/-- Operand pairs of a pass (R53). -/
inductive Pair where
  | b4b4 | b8b4 | b8b8 | b16b8
  deriving DecidableEq, Repr

/-- DEST of a lens descriptor (R56). -/
inductive LDest where
  | bank | grad | gradT | refused
  deriving DecidableEq, Repr

/-- A partial record (R93): value v * 2^x + r * 2^(x - 32), overflow, inexact, empty. -/
structure Rec where
  v : Int
  r : Nat
  x : Int
  o : Bool
  i : Bool
  z : Bool
  deriving DecidableEq, Repr

/-- The empty record (R93: Z resets to 1). -/
def Rec.empty : Rec := ⟨0, 0, 0, false, false, true⟩

/-- A lens op descriptor, decoded (R56); `rsv` says that every reserved field is zero. -/
structure LensDesc where
  opcode    : Nat
  pair      : Pair
  acc       : AccFmt
  dest      : LDest
  cross     : Bool
  newTile   : Bool
  accInit   : Bool
  endTok    : Bool
  drain     : Bool
  tailTrim  : Bool
  maskEn    : Bool
  slot      : Nat
  m         : Nat
  validM    : Nat
  validN    : Nat
  wsrc      : Nat
  wscale    : Nat
  abase     : Nat
  ringLines : Nat
  start     : Nat
  ascale    : Nat
  maskTbl   : Nat
  accBase   : Nat
  tensor    : Nat
  rsv       : Bool
  deriving DecidableEq, Repr

/-- A weight tile (R52): its format, its register words by 128 * row + column, its scale bytes by
128 * block + column, and the store offsets it was read from. -/
structure Tile where
  b8     : Bool
  words  : Table (BitVec 32)
  scales : Table Byte
  wsrc   : Nat
  wscale : Nat
  deriving DecidableEq, Repr

/-- One descriptor in the lens (R58). -/
structure LensJob where
  /-- the descriptor -/
  desc     : LensDesc
  /-- schedule index: the order of R102 -/
  order    : Nat
  /-- the PHASE of its schedule entry (R153) -/
  phase    : Nat
  /-- its NEWTILE load has finished (R67) -/
  loaded   : Bool
  /-- it has started (a PASS has streamed and written its sums, a DRAIN reads) -/
  started  : Bool
  /-- a PASS whose end token has been released (R66) -/
  released : Bool
  /-- its drain has been requested and has started (R81) -/
  draining : Bool
  /-- rows its drain has put into the drain queue -/
  drained  : Nat
  /-- it failed a check at issue (R57) -/
  bad      : Bool
  /-- it has retired (R58); kept until its tile is released -/
  retired  : Bool
  /-- the lens step in which it was issued (R67) -/
  issued   : Nat
  /-- a PASS that has streamed: the lens step in which its last column sum is written (R58, R66) -/
  wrote    : Nat
  deriving DecidableEq, Repr

/-- A row in the drain queue (R81): the draining job's schedule index, the row number, whether the
drain marks it masked, its valid lanes (R117) and its 128 records. -/
structure DrainRow where
  order  : Nat
  row    : Nat
  masked : Bool
  valid  : BitVec 128
  recs   : List Rec
  deriving DecidableEq, Repr

/-- The lens counters of R85, 64 bits each; reset 0. -/
structure LensCounters where
  active    : Nat
  freeze    : Nat
  drainHold : Nat
  zeroFed   : Nat
  trimmed   : Nat
  checked   : Nat
  unchecked : Nat
  mismatch  : Nat
  clockChg  : Nat
  acc16Slow : Nat
  deriving DecidableEq, Repr

/-- A function table (R127): its header and its segments (base, slope). -/
structure FTable where
  fw   : Nat
  sh   : Nat
  lo   : Int
  outg : Int
  segs : List (Int × Int)
  deriving DecidableEq, Repr

/-- A vector instruction (R122): OP and the other fields. -/
structure VIns where
  op  : Nat
  f   : VFields
  rsv : Bool
  deriving DecidableEq, Repr

/-- A chain program (R121). -/
structure Chain where
  body   : List VIns
  tail   : List VIns
  tables : List FTable
  carry  : BitVec 16
  keep   : Bool
  deriving DecidableEq, Repr

/-- A chain binding (R116); `rsv` says that every reserved field is zero. -/
structure Binding where
  chain      : Nat
  source     : Nat
  rows       : Nat
  tensor     : Nat
  idxBase    : Nat
  rowStride  : Nat
  laneStride : Nat
  mrowBase   : Nat
  mrowStep   : Nat
  validN     : Nat
  abase      : List Nat
  astep      : List Int
  rsv        : Bool
  deriving DecidableEq, Repr

/-- One lane of a vector register (R112, R113): 64 bits and a SAT bit. -/
structure Lane where
  bits : BitVec 64
  sat  : Bool
  deriving DecidableEq, Repr

/-- A vector register (R112): 128 lanes and a group exponent for each of the four lane groups. -/
structure VReg where
  lanes : List Lane
  g     : List Int
  deriving DecidableEq, Repr

/-- A register with all lanes zero, SAT bits clear and exponents 0 (R114). -/
def VReg.zero : VReg := ⟨List.replicate 128 ⟨0, false⟩, [0, 0, 0, 0]⟩

/-- What a queued vector load does when its data arrive (R135). -/
inductive LoadKind where
  | blocks (fmt : Fmt)
  | words
  | recs
  deriving DecidableEq, Repr

/-- A vector load in the load queue (R135): destination, kind, the lanes it writes, the instruction index,
the carrier-peer tags still awaited, the bytes read so far by their offset in the row (scale bytes from
2^20 on), the offsets that poisoned lines fed, and whether an access failed at its target. -/
structure VLoad where
  vd    : Nat
  kind  : LoadKind
  wmask : BitVec 128
  index : Nat
  tags  : List Nat
  data  : Memory
  bad   : List (Nat × Nat)
  fail  : Bool
  deriving DecidableEq, Repr

/-- What a vector store writes: pieces at module addresses (R135); the row and the index of its instruction (R136). -/
structure VStore where
  pieces : List (Nat × List Byte)
  row    : Nat
  index  : Nat
  deriving DecidableEq, Repr

/-- What makes a binding the binding of an UPDATE entry (R238): the update descriptor's index, the
touched rows (each with the lanes of its touched blocks), the part of CLASS 0x04 it runs. -/
structure UpdateRun where
  desc : Nat
  rows : List (Nat × BitVec 128)
  kind : Nat
  deriving DecidableEq, Repr

/-- A binding waiting in the queue of four, or running (R117, R154). -/
structure BindJob where
  bind    : Binding
  chain   : Chain
  order   : Nat
  phase   : Nat
  slot    : Nat
  /-- schedule index of the drain it consumes, if its SOURCE is a drain -/
  drainOf : Option Nat
  /-- rows of the binding: the drain's, ROWS, or the update's -/
  nrows   : Nat
  update  : Option UpdateRun
  /-- ladder index whose statistics its sites report (R208) -/
  ladder  : Option Nat
  /-- a phantom unit block: every row masked (R162) -/
  phantom : Bool
  /-- firmware work, which runs privileged with this seed (R23, R139); none for the work of a bundle -/
  priv    : Option Nat
  deriving DecidableEq, Repr

/-- The vector engine of a lantern (R112-R139). -/
structure VEngine where
  /-- v0 to v63, 128 lanes of 64 bits with SAT bits and four int16 exponents [R112; reset R341: zero] -/
  regs    : List VReg
  /-- m0 to m7, one bit per lane [R112, R114; reset choice 0] -/
  masks   : List (BitVec 128)
  /-- a0 to a7, 64 bits [R112, R117; reset choice 0] -/
  addr    : List Nat
  /-- the running binding [R117; reset none] -/
  cur     : Option BindJob
  /-- chain index whose tables are loaded [R127; reset none] -/
  tabOf   : Option Nat
  /-- the loaded function tables [R127; reset empty] -/
  tables  : List FTable
  /-- number of the row in hand [R117; reset 0] -/
  row     : Nat
  /-- rows started so far, masked rows included [R117; reset 0] -/
  rowsRun : Nat
  /-- rows of the binding, known from its drain or its ROWS field [R117; reset 0] -/
  nrows   : Nat
  /-- instructions of the row not yet issued, when a load holds issue [R135; reset empty] -/
  todo    : List VIns
  /-- index of the next instruction [R136; reset 0] -/
  index   : Nat
  /-- the row in hand is an update row whose results are not stored yet [R238; reset false] -/
  unstored : Bool
  /-- the tail has run [R117; reset false] -/
  tailRun : Bool
  /-- element index of lane 0 in the row, none when LANE_STRIDE = 0 [R117; reset none] -/
  idx     : Option Nat
  /-- logical index step from lane to lane [R117; reset 0] -/
  lstride : Nat
  /-- merge entry base of the row [R117; reset 0] -/
  mbase   : Nat
  /-- flag word of the binding [R137; reset 0] -/
  flags   : BitVec 16
  /-- GTOP of the binding's sites [R208; reset -32768] -/
  gtop    : Int
  /-- GHALF [R208; reset 0] -/
  ghalf   : Bool
  /-- GSAT [R208; reset 0] -/
  gsat    : Bool
  /-- load queue of 16 rows [R135; reset empty] -/
  loadQ   : List VLoad
  /-- store queue of 16 rows [R115; reset empty] -/
  storeQ  : List VStore
  /-- tags of carrier-peer writes not yet answered by PEER_DONE [R119, R281; reset empty] -/
  peerTags : List Nat
  deriving DecidableEq, Repr

/-! ### DMA -/

/-- MOVE, decoded (R176). -/
structure MoveDesc where
  ring     : Bool
  shift    : Nat
  lane     : Nat
  step2    : Bool
  compress : Nat
  cfmt     : Fmt
  sreg     : Nat
  dreg     : Nat
  tensor   : Nat
  src      : Nat
  dst      : Nat
  slen     : Nat
  scnt     : Nat
  dstart   : Nat
  dlen     : Nat
  dcnt     : Nat
  sstride  : Nat
  dstride  : Nat
  idxBase  : Nat
  scaleS   : Nat
  scaleD   : Nat
  rsv      : Bool
  deriving DecidableEq, Repr

/-- MOVE3, decoded (R184). -/
structure Move3Desc where
  sreg  : Nat
  dreg  : Nat
  len   : Nat
  src   : Nat
  dst   : Nat
  c     : List Nat
  sstep : List Int
  dstep : List Int
  rsv   : Bool
  deriving DecidableEq, Repr

/-- A DMA descriptor (R174). -/
inductive DmaDesc where
  | move (d : MoveDesc)
  | loop (target count : Nat) (adv : List Nat) (ladv : Nat) (wadv : Int) (iadv : Nat) (rsv : Bool)
  | wait (passes : Bool) (cnt : Nat) (value : Int) (rsv : Bool)
  | signal (cnt inc lantern : Nat) (rsv : Bool)
  | move3 (d : Move3Desc)
  | other (opcode : Nat)
  deriving DecidableEq, Repr

/-- A program in a channel's queue (R173): its descriptors, its index in the bundle, the SLOT that
started it, and whether it is the Keeper's own work. -/
structure DmaProg where
  descs : List DmaDesc
  index : Nat
  slot  : Nat
  priv  : Bool
  deriving DecidableEq, Repr

/-- A MOVE or MOVE3 that has not been performed yet: the descriptor with absolute addresses (bases, LOFF and
IOFF added), the bytes read so far by their place in the stream (scale bytes from 2^40 on), what poisoned
lines fed (first and last + 1 place, line), and whether a host window is one of its sides. -/
structure DmaJob where
  desc : DmaDesc
  data : Memory
  bad  : List (Nat × Nat × Nat)
  host : Bool
  deriving DecidableEq, Repr

/-- A MOVE or MOVE3 that has issued and not retired (R186): the program's number on its channel, its index
and SLOT, whether it is the Keeper's, the descriptor's index, the tags of carrier-peer accesses still
outstanding, and the transfer when it is not performed yet. One found bad has retired; it stays while writes that it
sent are not acknowledged, for the fence of R183. -/
structure DmaFlight where
  serial : Nat
  prog : Nat
  slot : Nat
  priv : Bool
  desc : Nat
  tags : List Nat
  job  : Option DmaJob
  bad  : Bool
  deriving DecidableEq, Repr

/-- Modes of a channel (R172). -/
inductive ChanMode where
  | normal | startup | test | recovery
  deriving DecidableEq, Repr

/-- A DMA channel (R170-R195). -/
structure DmaChan where
  /-- mode, set only by the Keeper [R172; reset NORMAL: choice] -/
  mode    : ChanMode
  /-- queue of two programs, the first running [R154, R173; reset empty] -/
  queue   : List DmaProg
  /-- next descriptor of the first program [R186; reset 0] -/
  pc      : Nat
  /-- base registers B0 to B3, uint64 (sums kept exact: R181) [R175; reset 0] -/
  base    : List Nat
  /-- ring offset LOFF, uint13 [R175; reset 0] -/
  loff    : Nat
  /-- wait offset WOFF, int32 [R175; reset 0] -/
  woff    : Int
  /-- index offset IOFF, uint64 [R175; reset 0] -/
  ioff    : Nat
  /-- repeats already made by each entered LOOP, by its descriptor index [R181; reset empty] -/
  reps    : Table Nat
  /-- the channel is held by the WAIT at pc [R182; reset false] -/
  waiting : Bool
  /-- the SIGNAL at pc waits for earlier writes [R183; reset false] -/
  signalling : Bool
  /-- issued descriptors not yet retired, oldest first [R186; reset empty] -/
  flights : List DmaFlight
  /-- number of the running program: programs begun before it [R186; reset 0] -/
  serial   : Nat
  /-- bad descriptors of the Keeper's program in hand, and whether one met an address error, for the command's record
  [R187, R191; reset 0] -/
  cmdBad  : Nat
  cmdAddr : Bool
  /-- counters of R195: retired, bad per cause 1 to 10, bytes read, written, WAIT, stops, packed in, out [reset 0] -/
  counters : List Nat
  deriving DecidableEq, Repr

/-! ### Collective engine -/

/-- A collective descriptor (R292). -/
structure CollDesc where
  op      : Nat
  role    : Nat
  dfmt    : Nat
  req     : Bool
  vers    : Bool
  peer    : Int
  tensor  : Nat
  src     : Nat
  dst     : Nat
  count   : Nat
  unit    : Nat
  reqctl  : BitVec 24
  paired  : Nat
  idxBase : Nat
  lens    : Nat
  cap     : Nat
  rsv     : Bool
  deriving DecidableEq, Repr

/-- A collective in hand on one engine (R290). -/
structure CollInst where
  /-- the descriptor with its addresses resolved -/
  desc     : CollDesc
  /-- descriptor index (DESC of R294) -/
  index    : Nat
  /-- instance number within the step, mod 4096 (INST of R294) -/
  inst     : Nat
  /-- replica index j and REPLICAS of its role (R290) -/
  replica  : Nat
  replicas : Nat
  /-- where the scale bytes of source and destination lie (R27) -/
  srcScale : Nat
  dstScale : Nat
  /-- the engine has begun to read its source and to send -/
  started  : Bool
  /-- number of the stage in hand (R297, R303) -/
  stage    : Nat
  /-- packets of the stage still to arrive here -/
  due      : Nat
  /-- running sums that wait for the other side of a line: position, came from below, records -/
  sides    : List (Nat × Bool × List Rec)
  /-- this member's results of the reduction: first element, records -/
  results  : List (Nat × List Rec)
  /-- shard versions known: owner's index, version (R299) -/
  vers     : List (Nat × Nat)
  /-- version packets arrived from below and from above in the stage -/
  versIn   : Nat × Nat
  /-- lengths received by ALL_TO_ALL_V: source member, units (R303) -/
  lengths  : List (Nat × Nat)
  /-- units that this engine has not written for want of room (R303) -/
  cut      : Nat
  /-- flags of R137 -/
  flags    : BitVec 16
  /-- packets of the stage that have arrived: POS and the node that sent each (R294) -/
  seen     : List (Nat × Nat)
  /-- schedule index of its entry, which R254's order goes by -/
  order    : Nat
  /-- bytes read from carrier peers, and bytes written to them, by module address (R19, R290) -/
  buf      : Memory
  /-- ranges asked for at carrier peers before it begins: address and bytes -/
  asked    : List (Nat × Nat)
  /-- tags of its carrier-peer accesses not yet answered (R281) -/
  tags     : List Nat
  deriving DecidableEq, Repr

/-! ### A lantern -/

/-- One schedule entry (R153). -/
structure SchedEntry where
  kind  : Nat
  chan  : Nat
  slot  : Nat
  phase : Nat
  arg   : Nat
  /-- the entry stands in a phantom unit block (R162) -/
  phantom : Bool
  deriving DecidableEq, Repr

/-- An allocation window (R23). -/
inductive Window where
  | span (base len : Nat)
  | stores (first last : Nat)
  | peer (w : Window) (wFirst wLast : Nat)
  deriving DecidableEq, Repr

/-- Where a compute reset stands (R342): not in reset, or in reset since a time, whether a targeted
test holds it between phases 4 and 5 (R348), and whether it is held (R355). -/
structure ResetState where
  active : Bool
  since  : Nat
  test   : Bool
  held   : Bool
  deriving DecidableEq, Repr

/-- A lantern, by logical index. -/
structure Lantern where
  /-- physical position 0 to 49 in its tower, none when unfilled [R9, R11; reset: configuration record at POWER_GOOD] -/
  phys     : Option Nat
  /-- fault flag [R57, R212; reset choice 0] -/
  fault    : Bool
  /-- compute reset in progress [R342; reset none] -/
  rst      : ResetState
  /-- mooring whose work it runs, if any [R154; reset none] -/
  mooring  : Option Nat
  /-- schedule memory, at most 4,096 entries, region 0x40 [R154; reset empty: choice] -/
  sched    : List SchedEntry
  /-- which of the replicas that run on it in turn is running [R163; reset 0] -/
  turn     : Nat
  /-- next schedule entry [R154; reset 0] -/
  pc       : Nat
  /-- the lantern has been started on a step [R199; reset false] -/
  running  : Bool
  /-- issue held at a WAIT entry [R154; reset false] -/
  waiting  : Bool
  /-- issue held at the HOLD entry [R220; reset false] -/
  holding  : Bool
  /-- issue held at an UPDATE entry [R219, R359; reset false] -/
  updHold  : Bool
  /-- END has issued [R154; reset false] -/
  endIssued : Bool
  /-- END has retired [R154; reset false] -/
  endRetired : Bool
  /-- event counters 0 to 15, 32 bits [R155; reset 0] -/
  events   : List Nat
  /-- passes-read count, 32 bits [R182; reset 0] -/
  passesRead : Nat
  /-- allocation windows, at most 16 [R23, R161; reset none] -/
  windows  : List Window
  /-- lens queue of eight descriptors, in issue order [R58; reset empty] -/
  lensQ    : List LensJob
  /-- stationary tile [R52; reset none: R341] -/
  tile     : Option Tile
  /-- tile in the shadow registers [R67; reset none] -/
  shadow   : Option Tile
  /-- the loader is writing the shadow registers for the job of this schedule index [R67; reset none] -/
  loading  : Option Nat
  /-- lens runs on the /4 output, the gallery clock [R17; reset: /8, choice] -/
  fastClk  : Bool
  /-- the latest lens step that has surely passed: of the last pass's start, of the last write that retired a pass, of the
  lens being empty; for R67 [reset 0] -/
  lensStep : Nat
  /-- steps for which the next pass has been held at the write stage so far [R82; reset 0] -/
  heldSteps : Nat
  /-- lens steps since the engine's reset; start of the stationary tile's pass; end of the last load; the step
  from which the lens is empty; the pass in flight was a cross read, was acc16 [R67, R69, R73; reset 0] -/
  lensNow  : Nat
  passStart : Nat
  loadEnd  : Nat
  emptyFrom : Nat
  lastMode : Bool × Bool
  /-- lens counters of R85, 64 bits [R85; reset 0] -/
  lensCnt  : LensCounters
  /-- accumulator data words by 128 * word + column, 32 bits [R87; reset 0: R91] -/
  acc      : Table (BitVec 32)
  /-- accumulator tags, 48 bits [R89; reset 0x1000_0010_0000] -/
  accTag   : Table (BitVec 48)
  /-- gradient-buffer data by 128 * entry + column, 48 bits [R87; reset 0: R91] -/
  grad     : Table (BitVec 48)
  /-- gradient-buffer tags, 48 bits [R89; reset 0x1000_0010_0000] -/
  gradTag  : Table (BitVec 48)
  /-- drain queue of 32 rows [R81; reset empty] -/
  drainQ   : List DrainRow
  /-- vector engine [R112] -/
  vec      : VEngine
  /-- queue of four bindings [R154; reset empty] -/
  bindQ    : List BindJob
  /-- DMA channels 0 to 3 [R170] -/
  dma      : List DmaChan
  /-- collective instances in hand, at most four [R290; reset empty] -/
  coll     : List CollInst
  /-- issues of each collective descriptor in this step [R294; reset empty] -/
  collCnt  : Table Nat
  /-- packets held for instances not yet issued, at most 64 [R290; reset empty] -/
  collHeld : List Packet
  /-- all-to-all units truncated, 64 bits [R303; reset 0] -/
  truncated : Nat
  /-- beacon counters lens, vector, DMA, 32 bits [R337; reset 0] -/
  beacon   : List Nat
  /-- values at the last sample, and samples without change while work was in hand, per counter and for WAIT [R338; reset 0] -/
  sampled  : List Nat
  still    : List Nat
  /-- per engine, consecutive samples at which it stood waiting on something outside the lantern [R339; reset 0] -/
  waits    : List Nat
  /-- domain daymark, 32 bits [R345; reset 1] -/
  daymark  : Nat
  /-- hold-line stall, 64 bits [R221; reset 0] -/
  stall    : Nat
  /-- isophase fill running; fill steps; throttle steps [R416, R420, R431; reset 0] -/
  filling  : Bool
  fillSteps : Nat
  throttle : Nat
  /-- governor level in force, 0 to 5, or 7 for B [R420, R421; reset 0] -/
  level    : Nat
  /-- fault counters of R368 at lantern scope: fog WAIT, fog ENGINE, resets, escalations, logic BIST runs, passes, fails, transients of logic BIST, hang overruns, transients of the MBIST of store banks, accumulator arrays, gradient buffers [reset 0] -/
  fcnt     : List Nat
  deriving DecidableEq, Repr

/-! ### Registers of the host interface -/

/-- A request accepted from a mailbox (R377): the header and the arguments as copied. -/
structure Request where
  opcode   : Nat
  rirq     : Bool
  arglen   : Nat
  cq       : Nat
  tag      : Nat
  mooring  : Nat
  deadline : Nat
  out      : Nat
  outlen   : Nat
  seq      : Nat
  /-- the header agrees with the seal and its reserved fields and VERSION are right (R374, R377) -/
  ok       : Bool
  /-- its place in the order of acceptance (R390) -/
  serial   : Nat
  args     : List Byte
  deriving DecidableEq, Repr

/-- A mailbox (R373-R378, R398). -/
structure Mailbox where
  /-- REQ_BODY, bytes 0 to 4087 [R398; reset 0] -/
  reqBody  : Memory
  /-- REQ_SEAL [R398; reset 0] -/
  reqSeal  : Nat
  /-- RESP_BODY, response header and result [R398; reset 0] -/
  respBody : Memory
  /-- RESP_SEQ [R398; reset 0] -/
  respSeq  : Nat
  /-- RESP_LEN [R398; reset 0] -/
  respLen  : Nat
  /-- last accepted SEQ [R375; reset 0] -/
  lastSeq  : Nat
  /-- the accepted request that awaits its response; PENDING of R402 [R377; reset none] -/
  req      : Option Request
  /-- a seal written before the Keeper examines mailboxes [R407; reset false] -/
  unseen   : Bool
  deriving DecidableEq, Repr

/-- A queue's register block and the Keeper's own books of it (R399, R192, R385, R389). -/
structure Queue where
  /-- BOUND, 1 bit [R399; reset 0] -/
  bound    : Bool
  /-- TYPE: event queue, 1 bit [R399; reset 0] -/
  event    : Bool
  /-- LOG2N, 5 bits [R399; reset 0] -/
  log2n    : Nat
  /-- VECTOR, 6 bits [R399; reset 0] -/
  vector   : Nat
  /-- BASE, 64 bits [R399; reset 0] -/
  base     : Nat
  /-- PROD, 32 bits [R399; reset 0] -/
  prod     : Nat
  /-- HEAD, 32 bits [R399; reset 0] -/
  head     : Nat
  /-- BADHEAD, W1C [R399; reset 0] -/
  badHead  : Bool
  /-- records in completion staging, oldest first, at most 4,096; STAGING, STAGING_FULL and STAGED of R399 [R193, R389; reset empty] -/
  staged   : List (BitVec 256)
  /-- MOD_COUNT, 9 bits [R399; reset 0] -/
  modCount : Nat
  /-- MOD_TIME, 10 bits [R399; reset 0] -/
  modTime  : Nat
  /-- records written that no interrupt has announced [R385; reset 0] -/
  unannounced : Nat
  /-- event records discarded and the time of the first [R389; reset 0] -/
  lost     : Nat
  lostTime : Nat
  deriving DecidableEq, Repr

/-- One entry of an attestation log (R455). -/
structure AttEntry where
  typ     : Nat
  mooring : Nat
  time    : Nat
  digest  : BitVec 256
  signer  : BitVec 256
  deriving DecidableEq, Repr

/-- A function's registers and books (R371, R393-R405). -/
structure Func where
  /-- mailboxes 0 to 3 [R371] -/
  mbox     : List Mailbox
  /-- queues 0 to 15 [R399] -/
  queues   : List Queue
  /-- INT_STATUS, W1C, 64 bits [R402; reset 0] -/
  intStatus : BitVec 64
  /-- MSI-X table, 1 KiB, by byte offset [R393; reset PRESUMED: the PCIe format's, every vector masked] -/
  msixTable : Memory
  /-- MSI-X pending bits, 64 bits [R393; reset 0: choice] -/
  pba      : BitVec 64
  /-- Bus Master Enable, Memory Space Enable, and for a VF: present (VF Enable) [R471, R397; reset 0] -/
  bme      : Bool
  mse      : Bool
  present  : Bool
  /-- view accesses of R5, lost seals of R377, privilege refusals of R372, 64 bits [R381; reset 0] -/
  viewAcc  : Nat
  lostSeals : Nat
  privRef  : Nat
  /-- events raised while no event queue is bound [R388; reset 0] -/
  unheard  : Nat
  /-- attestation log and chain head [R455; reset empty, H0 = 0] -/
  attLog   : List AttEntry
  attHead  : BitVec 256
  /-- the last 65,536 completion records, newest first: the tag of a reported operation, none for a step
  record [R190; reset empty] -/
  reported : List (Option Nat)
  /-- mooring slots 0 to 7: the id of the mooring that each shows; of one whose block this module is not in, RUN, COMMITTED
  and DAYMARK as its anchor has told them [R405; reset none] -/
  slots    : List (Option Nat)
  shown    : List (Nat × Nat × Nat × Nat)
  deriving DecidableEq, Repr

/-! ### Keeper -/

/-- An open host window (R380, R22). -/
structure HWin where
  idx   : Nat
  owner : Nat
  addr  : Nat
  len   : Nat
  rd    : Bool
  wr    : Bool
  deriving DecidableEq, Repr

/-- A tensor-table entry (R151) without the Keeper's words 5 to 7. -/
structure Tensor where
  id     : Nat
  fmt    : Nat
  layout : Nat
  rank   : Nat
  baxis  : Nat
  kind   : Nat
  save   : Nat
  role   : Nat
  sdim   : Nat
  dims   : List Nat
  group  : Nat
  stage  : Nat
  rsv    : Bool
  deriving DecidableEq, Repr

/-- A role record (R153). -/
structure Role where
  role     : Nat
  replicas : Nat
  units    : Nat
  unitLen  : Nat
  pre      : Nat
  post     : Nat
  entries  : List SchedEntry
  rsv      : Bool
  deriving DecidableEq, Repr

/-- A hint (R156). -/
structure Hint where
  typ    : Nat
  target : Nat
  value  : Nat
  deriving DecidableEq, Repr

/-- An update descriptor (R233). -/
structure UpdDesc where
  cls    : Nat
  flags  : Nat
  group  : Nat
  chain  : Nat
  param  : Nat
  grad   : Nat
  states : List Nat
  touch  : Nat
  stats  : Nat
  rsv    : Bool
  deriving DecidableEq, Repr

/-- A parameter group record (R234). -/
structure Group where
  group  : Nat
  lr     : Nat
  wd     : Nat
  b1     : Nat
  b2     : Nat
  epsx   : Int
  period : Nat
  damp   : Int
  pstart : Nat
  rsv    : Bool
  deriving DecidableEq, Repr

/-- A curve record (R235). -/
structure Curve where
  curve : Nat
  exp   : Int
  mode  : Nat
  pts   : List (Nat × Int)
  rsv   : Bool
  deriving DecidableEq, Repr

/-- A ladder record (R206). -/
structure LadderRec where
  rung0   : Nat
  rmin    : Nat
  rmax    : Nat
  tensor  : Nat
  role    : Nat
  first8  : Nat
  count8  : Nat
  first16 : Nat
  count16 : Nat
  rsv     : Bool
  deriving DecidableEq, Repr

/-- A bundle as its bytes decode (R149-R156, R206, R233-R235, R292). -/
structure Parsed where
  lstart   : Nat
  raise    : Nat
  tensors  : List Tensor
  lens     : List LensDesc
  chains   : List Chain
  bindings : List Binding
  dma      : List (List DmaDesc)
  roles    : List Role
  colls    : List CollDesc
  updates  : List UpdDesc
  groups   : List Group
  curves   : List Curve
  ladders  : List LadderRec
  hints    : List Hint
  signer   : Nat
  deriving DecidableEq, Repr

/-- A loaded bundle (R148-R157, R380): handle, owner, job seed, image length and digest, contents. -/
structure Bundle where
  handle : Nat
  owner  : Nat
  seed   : Nat
  length : Nat
  digest : BitVec 256
  image  : List Byte
  p      : Parsed
  deriving DecidableEq, Repr

/-- The fault policy (R354), times in microseconds. -/
structure Policy where
  lanternHang  : Nat
  towerHang    : Nat
  lanternResets : Nat
  lanternWin   : Nat
  towerResets  : Nat
  towerWin     : Nat
  transient    : Nat
  transientWin : Nat
  eccBurst     : Nat
  probe        : Nat
  deriving DecidableEq, Repr

/-- Long commands that outlive the step that accepts them (R380, R391). A copy runs as a program of a system channel, which
had retired a number of descriptors before it, between the module and an outer address (R171). A LEND whose members have left opens its serving moorings in turn:
the opcode's items still to be opened, whether the first is opening, its members that have answered, what they hold, and the
moorings opened (R324, R333). -/
inductive OpKind where
  | run (first count position : Nat)
  | close
  | membership (opcode : Nat) (desc : List Byte) (answers : List Answer) (serving : List LendItem)
  | snapshot (name : BitVec 256)
  | selftest
  | returnToService
  | restore
  | tensorRead (dst len : Nat)
  | copy (chan start addr : Nat)
  | forwarded
  | lendOpens (items : List LendItem) (opening : Bool) (heard : List Answer) (opened : List Nat)
  deriving DecidableEq, Repr

/-- An accepted long command (R190, R380). A command forwarded from node n stands at the anchor under function
64 * (n + 1) + f. -/
structure LongOp where
  func    : Nat
  tag     : Nat
  opcode  : Nat
  cq      : Nat
  mooring : Nat
  out     : Nat
  outlen  : Nat
  deadline : Nat
  kind    : OpKind
  /-- units retired: steps committed, groups run, bytes moved -/
  units   : Nat
  /-- OR of the flags of its step records (R191) -/
  flags   : BitVec 16
  /-- the mooring that a MOORING_OPEN has opened, whose daymark its record shows (R191) -/
  opened  : Option Nat
  /-- the status with which it ends at the anchor that runs it, once that is asked for (R226) -/
  ending  : Option Nat
  /-- a run whose record queue's staging is full (R193): where the record goes, the anchor told so; at the anchor, the
  module that told it -/
  paused  : Option Nat
  deriving DecidableEq, Repr

/-- What ECC counters are kept for (R142, R368): a bank of a lantern store, an accumulator array, a gradient buffer, a
1 MiB sub-array of bonded SRAM, an LPDDR5X device. -/
inductive EccUnit where
  | bank (lantern bank : Nat)
  | acc (lantern : Nat)
  | grad (lantern : Nat)
  | sram (tower sub : Nat)
  | device (d : Nat)
  | flash (die : Nat)
  deriving DecidableEq, Repr

/-- A read of carrier peers that the Keeper makes for a command (R19, R281): address and bytes, tags awaited, data by
address, whether a piece failed. -/
structure KeeperIo where
  addr : Nat
  n    : Nat
  tags : List Nat
  data : Memory
  fail : Bool
  deriving DecidableEq, Repr

/-- Keeper firmware's own books. -/
structure Keeper where
  /-- host windows [R380; reset none] -/
  hwins    : List HWin
  /-- loaded bundles, at most 16 [R148; reset none] -/
  bundles  : List Bundle
  /-- next bundle handle [R380; reset 1: choice] -/
  nextHandle : Nat
  /-- outstanding long commands, oldest first [R190; reset none] -/
  ops      : List LongOp
  /-- SPLIT [R320; reset 1] -/
  split    : Nat
  /-- fault policy [R354; reset the defaults] -/
  policy   : Policy
  /-- debug mode [R110; reset off] -/
  debug    : Bool
  /-- writes to region 0x30 ignored, by function [R111, R406; reset 0] -/
  debugWrites : List Nat
  /-- hints ignored [R156; reset 0] -/
  hintsIgnored : Nat
  /-- starts of compute resets, for the sliding windows [R353; reset none] -/
  resetLog : List (ResetUnit × Nat)
  /-- passes of tests, for the transient limit [R349; reset none] -/
  transients : List (Part × Nat)
  /-- Keeper domain daymark [R345; reset 1] -/
  daymark  : Nat
  /-- time of the last advance of each domain [R345; reset none] -/
  lastAdv  : List (Domain × Nat)
  /-- advances that wait for 1 ms to pass [R345; reset none] -/
  owed     : List Domain
  /-- firmware restart pending (FW_ACTIVATE: 10 ms later) [R445; reset false] -/
  restartDue : Bool
  /-- mooring ids closed, when, and with which daymark [R317, R323; reset none] -/
  closed   : List (Nat × Nat × Nat)
  /-- requests accepted so far (the model's own) [R390; reset 0] -/
  serial   : Nat
  /-- parts under test whose unit stays in use: banks of a store, sub-arrays of SRAM, rows of LPDDR5X [R348; reset none] -/
  tests    : List Part
  /-- forwarded commands awaiting an anchor's answer: mailbox and tag [R392; reset none] -/
  forwards : List (Mbox × Nat)
  /-- counters of R368 at module scope: router-only entries, restarts, spare pages north, south, daymark drops, probes, lost declarations, elections, adoptions, tender refreshes, tender bytes, step reruns, state-lost stops; index 4 is not used [reset 0] -/
  mcnt     : List Nat
  /-- daymark drops by the kind of the domain: lantern, tower, shore core, Keeper, mooring [R368; reset 0] -/
  dmDrops  : List Nat
  /-- ECC counters of each unit that has any: corrected, uncorrectable, MBIST runs, passes, fails [R142, R368; reset 0] -/
  ecc      : List (EccUnit × List Nat)
  /-- the module leaves service when these moorings have reached a committed boundary [R350; reset none] -/
  leaveAt  : Option (List Nat)
  /-- late scrubs [R142; reset 0] -/
  lateScrubs : Nat
  /-- full BIST: group in hand (0 none, 1 to 3), results so far, whether a unit has failed that no spare replaces [R449 to
  R451; reset none] -/
  bistGroup : Nat
  bistDone  : List BistResult
  bistBad   : Bool
  /-- reads of carrier peers that commands await [R19, R281; reset none] -/
  io       : List KeeperIo
  deriving DecidableEq, Repr

/-! ### Moorings -/

/-- One axis entry of a sector table (R287). -/
structure AxisEnt where
  role   : Nat
  extent : Nat
  origin : Nat
  ring   : Bool
  deriving DecidableEq, Repr

/-- A mooring descriptor (R319). -/
structure MDesc where
  id         : Nat
  kind       : Nat
  split      : Nat
  sector     : Nat
  onloss     : Nat
  replayMax  : Nat
  verdictMs  : Nat
  bundle     : Nat
  sMooring   : Nat
  axes       : List AxisEnt
  lightships : List Nat
  rsv        : Bool
  deriving DecidableEq, Repr

/-- Where the Keeper has put one tensor's local shard (R151, R158-R161): mantissa and scale addresses,
elements, bytes of its mantissa array; a second copy for KIND 9 and 10 of a training mooring (R218). -/
structure Placed where
  mbase : Nat
  sbase : Nat
  elems : Nat
  mbytes : Nat
  sbytes : Nat
  alt   : Option (Nat × Nat)
  deriving DecidableEq, Repr

/-- A replica's place (R160-R163): role index, replica number, lantern, first unit and number of units, and how many of them
are no padded heads (R307). -/
structure Replica where
  role    : Nat
  j       : Nat
  lantern : Nat
  first   : Nat
  units   : Nat
  live    : Nat
  deriving DecidableEq, Repr

/-- A placed bundle (R158-R164). -/
structure Placement where
  tensors  : List Placed
  replicas : List Replica
  regions  : List (Nat × Nat)
  /-- undo area of each update descriptor (R239): base address -/
  undo     : List Nat
  /-- area of each kept copy and its staging (R358): base address -/
  tender   : List Nat
  deriving DecidableEq, Repr

/-- A gradient ladder (R205-R211). -/
structure Ladder where
  rung    : Nat
  count   : Nat
  window  : List Int
  /-- rung and window without the verdict last applied (R211) -/
  prevRung : Nat
  prevWindow : List Int
  /-- statistics of the running step: GTOP, GHALF, GSAT -/
  gtop    : Int
  ghalf   : Bool
  gsat    : Bool
  /-- rung, window and exponent fixed for the running step -/
  curRung : Nat
  curWindow : List Int
  efix    : Option Nat
  deriving DecidableEq, Repr

/-- The bits of a verdict and its ladder entries (R212, R213). -/
structure Verdict where
  overflow : Bool
  fault    : Bool
  version  : Bool
  notExact : Bool
  unf      : Bool
  tcl      : Bool
  lads     : List (Int × Bool × Bool)
  deriving DecidableEq, Repr

/-- A shard header (R242). -/
structure ShardHdr where
  tensor  : Nat
  step    : Nat
  gen     : Nat
  group   : Nat
  owner   : Nat
  blocks  : Nat
  deriving DecidableEq, Repr

/-- An undo copy of one block that lies in the undo area (R239): the tensor, the block, the step and GEN of its tag, the
addresses of the block's mantissas and scale byte, those of their copies, the address of the tag, mantissa bytes. -/
structure Undo where
  tensor : Nat
  block  : Nat
  step   : Nat
  gen    : Nat
  home   : Nat × Nat
  copy   : Nat × Nat
  tag    : Nat
  len    : Nat
  /-- undone by its own tag: a state that is not a row state -/
  own    : Bool
  deriving DecidableEq, Repr

/-- A piece of a tensor as it travels between modules or is kept for another: the tensor's index in the table, the
number of the block (or of the element, where elements move one by one) in the whole tensor, its bytes. -/
structure Piece where
  tensor : Nat
  key    : Nat
  bytes  : List Byte
  deriving DecidableEq, Repr

/-- A tender copy kept for another member (R357, R358): at which block position it stands, its tender point, the base of its
area and the bytes of the kept state (the staging follows the copy), the pieces installed there, by tensor and number, and
the headers; the same of the staging of the refresh under way, with the step that its end marker gave. -/
structure TenderCopy where
  pos     : Nat
  point   : Option Nat
  /-- where its area stands, and the bytes of the kept state, whose staging follows it -/
  base    : Nat
  size    : Nat
  /-- installed there: tensor and number of each piece; the headers; the same of the staging -/
  pieces  : List (Nat × Nat)
  headers : List ShardHdr
  staging : List (Nat × Nat)
  stagedHdrs : List ShardHdr
  /-- the refresh under way replaces the whole copy -/
  whole   : Bool
  staged  : Option Nat
  /-- keys told of the data packet to come: tensor and key (notes/assumptions/19.md) -/
  keys    : List (Nat × Nat)
  deriving DecidableEq, Repr

/-- A map in force on a module: descriptor, substitutions, place, headers, the rings that run as lines, the roles that have
left an axis, the acting anchor. -/
structure WasMap where
  desc     : MDesc
  subs     : List (Nat × Nat)
  place    : Placement
  headers  : List ShardHdr
  lines    : List (Nat × Nat × Nat)
  departed : List Nat
  acting   : Option Nat
  deriving DecidableEq, Repr

/-- Where the pieces of a permute come from (R304, R458). -/
inductive MoveFrom where
  | map (desc : MDesc) (subs : List (Nat × Nat)) (place : Placement) (headers : List ShardHdr)
  | snapshot (name : BitVec 256)
  deriving DecidableEq, Repr

/-- A permute in hand on this module (R304, R305, R328): why (an opcode of R380, 0 for an adoption), the old map, lost
nodes with the holders of their copies, whether it has begun, what this module is still owed, pieces that wait for
the rest of their block, bytes moved, who awaits its end, and at that module the members done and the bytes they
moved; the map that was in force before it, none on a module that joins; keys told of the data packets to come, by node and
tensor (notes/assumptions/19.md). -/
structure Moving where
  why     : Nat
  source  : MoveFrom
  lost    : List (Nat × Nat)
  begun   : Bool
  want    : List (Nat × Nat)
  loose   : List Piece
  bytes   : Nat
  asker   : Nat
  doneBy  : List Nat
  total   : Nat
  /-- a stream that it uses has failed (R305) -/
  failed  : Bool
  /-- the map in force before it, none on a module that joins -/
  was     : Option WasMap
  /-- keys told of the data packets to come, by node and tensor -/
  keys    : List (Nat × Nat × Nat)
  deriving DecidableEq, Repr

/-- A job's control state before a commit (R224): last committed and reference step, L, the clean count, the ladders. -/
structure Before where
  committed : Option Nat
  refStep   : Option Nat
  lscale    : Nat
  clean     : Nat
  ladders   : List Ladder
  deriving DecidableEq, Repr

/-- Run state of a mooring slot (R405). -/
inductive RunState where
  | idle | running | stopping | stopped
  deriving DecidableEq, Repr

/-- What is known of the step that follows the one whose verdict is awaited: a contribution with FAULT or VERSION leaves at
once, whatever is outstanding (R214), and the step may be replayed before the earlier verdict comes (R224). -/
structure Ahead where
  /-- own contribution, with the step's flags and BAD -/
  contrib  : Option Verdict
  flags    : BitVec 16
  bad      : Bool
  /-- contributions received from children: node and verdict -/
  children : List (Nat × Verdict)
  /-- its verdict, kept until the earlier one has come: the step has been replayed as often as it may -/
  verdict  : Option Verdict
  /-- replays of it; one of them was for a fault -/
  replays  : Nat
  faulted  : Bool
  /-- its verdict timer runs (R215) -/
  timer    : Bool
  deriving DecidableEq, Repr

/-- What waits for the mooring's daymark to advance (R345): a verdict on a step, the end of the run with a status, what is
pending at a committed boundary, an adoption. -/
inductive EpochDue where
  | verdict (step : Nat) (v : Verdict)
  | stop (status : Nat)
  | boundary
  | adopt
  deriving DecidableEq, Repr

/-- A mooring open on this module. -/
structure Mooring where
  /-- the step in hand may pass its hold line: its L and its ladder controls are written [R220; reset false] -/
  holdOpen : Bool
  /-- the step after the one whose verdict is awaited (the model's own) [R214, R224; reset blank] -/
  ahead    : Ahead
  /-- descriptor in force [R319] -/
  desc     : MDesc
  /-- owner: node id and function [R372] -/
  ownerNode : Nat
  ownerFunc : Nat
  /-- opened through a VF function of this or another module [R110] -/
  daymark  : Nat
  /-- epochs begun [R322] -/
  epoch    : Nat
  /-- substitutions: lost node, lightship [R335] -/
  subs     : List (Nat × Nat)
  /-- acting anchor, when the anchor was lost [R363] -/
  acting   : Option Nat
  /-- beacon window in microseconds [R354; reset 200,000] -/
  beaconUs : Nat
  /-- ranges that other moorings held on each module when the map was placed, as the modules told them [R161] -/
  told     : List (Nat × List (Nat × Nat))
  /-- bundle handle [R319] -/
  bundle   : Nat
  place    : Placement
  /-- job step counter of the step in hand [R196; reset 0] -/
  step     : Nat
  /-- a step has been started and not decided -/
  stepOn   : Bool
  /-- the step in hand waits for its verdict (its update is provisional) [R216] -/
  provisional : Option Nat
  /-- last committed step [R405; none before any] -/
  committed : Option Nat
  /-- steps whose copies of outputs and statistics can be read [R218; none] -/
  readable : List Nat
  /-- highest step of the run that has started [R226; none] -/
  lastBegun : Option Nat
  /-- run state of the slot [R405] -/
  run      : RunState
  /-- status that stopped the run [R386] -/
  stopWith : Nat
  /-- steps decided in this run, committed in this run [R386] -/
  decided  : Nat
  runCommitted : Nat
  /-- replays of the step in hand [R225] -/
  replays  : Nat
  /-- a fault has made the step in hand run again [R191: FAULT of its record] -/
  faulted  : Bool
  /-- input position of the run [R224, R380] -/
  position : Nat
  /-- steps that the run is to decide [R380] -/
  runCount : Nat
  /-- the committed step that shard headers are compared with; state has been loaded and no run has begun since
  [R243; reset none, false] -/
  refStep  : Option Nat
  loaded   : Bool
  /-- loss-scale exponent L, clean steps, raise interval [R45, R46] -/
  lscale   : Nat
  clean    : Nat
  raise    : Nat
  /-- L with which the step's seed gradient is scaled [R47] -/
  stepL    : Nat
  ladders  : List Ladder
  /-- own contribution formed and sent [R214] -/
  contrib  : Option Verdict
  /-- flags and BAD of the step whose verdict is awaited, for its record [R191, R222] -/
  sentFlags : BitVec 16
  sentBad  : Bool
  /-- bits gathered from bindings, lanterns and collectives of the step [R212] -/
  gathered : Verdict
  /-- flags of the step's work for the record, phases included [R212, R474] -/
  flags    : BitVec 16
  bad      : Bool
  /-- contributions received from children: node and verdict [R310] -/
  children : List (Nat × Verdict)
  /-- combined contribution already forwarded [R310] -/
  forwarded : Bool
  /-- verdict timer running [R215] -/
  timer    : Bool
  /-- shard headers of owned shards [R242] -/
  headers  : List ShardHdr
  /-- versions received by gathers of the step: tensor, owner, version [R228] -/
  versions : List (Nat × Nat × Nat)
  /-- undo copies [R239] -/
  undo     : List Undo
  /-- saved UPDATE_STEP of each shard at the step's first write [R240] -/
  undoHdr  : List (Nat × Nat)
  /-- rows whose moment row has run in this step, and tiles whose work has: update descriptor and row or tile [R249;
  reset none] -/
  moments  : List (Nat × Nat)
  tiles    : List (Nat × Nat)
  /-- lanterns whose binding of an update descriptor has started in this step: descriptor and lantern; descriptors of the
  factored class whose part before the rows has run [R248, R249, R290; reset none] -/
  begun    : List (Nat × Nat)
  factored : List Nat
  /-- tiles on the diagonal rule, by descriptor and tile; as the step in hand found them [R250] -/
  diag     : List (Nat × Nat)
  diagSaved : Option (List (Nat × Nat))
  /-- uses of each rung of the singular-block ladder, by tensor and rung [R250] -/
  rungs    : List (Nat × Nat × Nat)
  /-- copies kept for other members [R357] -/
  tender   : List TenderCopy
  /-- all copies of the last commit are announced; at the root, the members that have installed theirs [R359] -/
  announced : Bool
  installedBy : List Nat
  /-- rings that run as lines: axis, break, effective step, active [R313] -/
  lines    : List (Nat × Nat × Nat)
  /-- reservations raised to the largest size: tensor ids [R169] -/
  raised   : List Nat
  /-- rereserve on replay: tensors whose stream passed its reservation in this step [R169] -/
  overLimit : List Nat
  /-- permute in hand [R304, R305] -/
  moving   : Option Moving
  /-- no further step starts: a command waits for a committed boundary [R227] -/
  paused   : Bool
  /-- owned state has come from outside an update: the next refresh sends all of it [R331] -/
  tenderFull : Bool
  /-- members of the old map that leave at the first commit of the new epoch [R328] -/
  leaving  : List Nat
  /-- the old map and the old tender copies, in force until the first commit of the new epoch [R331] -/
  oldMap   : Option MoveFrom
  oldTender : List TenderCopy
  /-- members of the old map lost since, with the nodes that keep their copies [R331; reset none] -/
  oldLost  : List (Nat × Nat)
  /-- a snapshot being saved, and the members whose parts are saved [R227, R457] -/
  saving   : Option (BitVec 256)
  savedBy  : List Nat
  /-- the job's control state as the verdict on the last committed step found it [R224, R364; none] -/
  before   : Option Before
  /-- a committed step that runs again, whose record has been written [R226, R364; none] -/
  rerun    : Option Nat
  /-- members lost and not replaced, with the nodes that keep their copies [R335, R361] -/
  lostNodes : List (Nat × Nat)
  /-- losses that await a lightship: lost node, the node that keeps its copy, the lightship found; the listed lightships
  still to be tried, the first being asked [R335, R364; none] -/
  recovering : List (Nat × Nat × Option Nat)
  ships    : List Nat
  /-- the lost anchor whose stand-in this member is electing [R363; none] -/
  electing : Option Nat
  /-- probes sent and not answered: nodes [R362] -/
  probing  : List Nat
  /-- roles that have left their axes: they come back only through a new open [R327; reset none] -/
  departed : List Nat
  /-- what waits until the daymark may advance, in order [R345; reset none] -/
  due      : List EpochDue
  /-- members whose handling of a fault the pending command awaits; the node that awaits this module's [R227; reset none] -/
  handling : List Nat
  handlingFor : Option Nat
  /-- how the other members' serving step has ended: node, flags, BAD, fault [R474; reset none] -/
  ends     : List (Nat × BitVec 16 × Bool × Bool)
  /-- losses whose tender point is being read from the keeper of the copy: lost node, keeper [R364; reset none] -/
  asking   : List (Nat × Nat)
  /-- this module has said to its parent that the kept copies of its subtree are installed [R310, R359;
  reset none] -/
  reported : Bool
  /-- poisoned lines whose event this step has raised [R143; reset none] -/
  poisonSeen : List Nat
  deriving DecidableEq, Repr

/-! ### Power, boot, flash -/

/-- Power, energy and heat (R408-R431). -/
structure Power where
  /-- input voltage in mV [R408; reset 0: choice] -/
  vin       : Nat
  /-- input stage on; orderly power-down has happened and the stage waits for R408's start condition [R408; reset off] -/
  inputOn   : Bool
  /-- PWR_EN level [R463; reset low: pull-down] -/
  pwrEn     : Bool
  /-- rails in regulation, in the order in which they rose; power-good asserted [R409; reset none, false] -/
  rails     : List Rail
  powerGood : Bool
  /-- faulted rails [R410; reset none] -/
  faulted   : List Rail
  /-- compute rails at 0.80 V (full light) rather than 0.70 V [R409, R436; reset false] -/
  rails080  : Bool
  /-- last sampled input current in mA; each tower's ballast in W, and for how many samples of 10 us it has been engaged
  without a break [R414; reset 0] -/
  iin       : Nat
  ballast   : List Nat
  ballastFor : List Nat
  /-- slew limit in units of 0.25 A/ms [R413, R430; reset 16] -/
  slew      : Nat
  /-- CAP, PEAK_CAP in W [R422, R430; reset 1500, 2000] -/
  cap       : Nat
  peakCap   : Nat
  /-- trimming enabled [R430; reset 0] -/
  trim      : Bool
  /-- guaranteed shares set by POWER_SET, all zero for an even division [R430; reset 0] -/
  share     : List Nat
  /-- peak credit in mJ [R422; reset 20 kJ at power-good] -/
  credit    : Nat
  /-- 1 ms average input power and sector powers in W [R422, R431; reset 0] -/
  pin       : Nat
  psect     : List Nat
  /-- power level of each sector and ms below 0.92 of the limit [R422; reset 0] -/
  plevel    : List Nat
  belowMs   : List Nat
  /-- thermal level of each tower; samples of 100 us at or above 104 degC, below 100 degC, at or above 110 degC [R423; reset 0] -/
  tlevel    : List Nat
  hotFor    : List Nat
  coolFor   : List Nat
  tripFor   : List Nat
  /-- samples the I/O dies stood at 110 degC; I/O limit in force [R423; reset 0] -/
  ioTripFor : Nat
  ioHot     : Bool
  /-- latest readings in 0.1 degC: towers, I/O dies, inlet, outlet [R431; reset choice 0] -/
  temps     : Temps
  /-- hardware trip: off until the input is removed [R423; reset false] -/
  tripped   : Bool
  /-- PWR_BRAKE_N asserted [R424; reset false] -/
  brake     : Bool
  /-- BRAKES, STEPS, ENERGY (mJ), counters [R431; reset 0] -/
  brakes    : Nat
  steps     : Nat
  energy    : Nat
  /-- reference lost [R429; reset false] -/
  refLost   : Bool
  /-- root post-divider divides by 2 [R427; reset false] -/
  fullClk   : Bool
  deriving DecidableEq, Repr

/-- Service state and identity of the module (R404, R406, R433-R438). -/
structure Boot where
  /-- STATE: 0 starting, 1 early light, 2 full light, 3 router-only [R404; live, 0 before bring-up] -/
  state    : Nat
  /-- STAGE [R406; live, 0] -/
  stage    : Nat
  /-- BRINGUP_FAIL [R438; live, 0] -/
  fail     : Nat
  /-- bring-up halted; ROM recovery [R438, R446; reset false] -/
  halted   : Bool
  recovery : Bool
  /-- router-only mode is to be entered at full light [R438; reset false] -/
  routerAtFull : Bool
  /-- towers not held in reset that serve: TOWERS of R406 [R406; live, none] -/
  towers   : List Bool
  /-- towers held in compute reset [R355; reset none] -/
  held     : List Bool
  /-- LPDDR, LINKS of R406 [R406; live, 0] -/
  lpddr    : Bool
  links    : Bool
  /-- module time at power-good, in ns; below 0 where module time was set back since [R406; reset 0] -/
  pgTime   : Int
  /-- W, X, Y, Z coordinates and axis sizes [R466; reset 0 and 1: choice] -/
  coords   : List Nat
  sizes    : List Nat
  /-- the carrier record is missing [R466; reset false] -/
  noCarrier : Bool
  /-- FW_VERSION, FW_SLOT, HEARTBEAT, RESTARTS [R404; live, 0] -/
  fwVersion : Nat
  fwSlot   : Nat
  heartbeat : Nat
  restarts : Nat
  /-- the firmware is running [R356; reset false] -/
  keeperUp : Bool
  /-- running firmware is on trial [R443; reset false] -/
  trial    : Bool
  /-- identity derived [R439; reset false] -/
  identity : Bool
  /-- MOD_ALERT_N driven low [R463; reset false] -/
  alert    : Bool
  /-- PERST_N asserted [R463, R471; reset false: pull-up] -/
  perst    : Bool
  /-- an SPDM requester has negotiated SM2 and SM3 [R453; reset false] -/
  spdmAlgs : Bool
  deriving DecidableEq, Repr

/-- A copy of the configuration record (R440, R441): does its factory part verify, does its field part,
and the fields. -/
structure ConfigRec where
  factoryOk : Bool
  fieldOk   : Bool
  gen       : Nat
  active    : Nat
  pending   : Option Nat
  tries     : Nat
  svnFloor  : Nat
  /-- dark spares and retired positions, as (tower, position) (DARK of R440) -/
  dark      : List (Nat × Nat)
  retired   : List (Nat × Nat)
  /-- logical indices left unfilled when a tower had no dark spare (R11) -/
  gaps      : List Nat
  /-- bonded SRAM slices 64 t + k with the spare lines each uses (R350) -/
  spareLines : List (Nat × Nat)
  /-- LPDDR5X pages, by number, that a spare page replaces (R350) -/
  pageRemap  : List Nat
  dark0     : List (Nat × Nat)
  svn0      : Nat
  idpub     : Nat
  golden    : List Nat
  deriving DecidableEq, Repr

/-- A firmware image in a slot (R442): header fields, the whole image's digest, and whether its key and
signature verify (settled when it is written; notes/assumptions/9.md). -/
structure FwImage where
  version : Nat
  svn     : Nat
  length  : Nat
  digest  : BitVec 256
  sigOk   : Bool
  deriving DecidableEq, Repr

/-- What a flash object holds (R457). -/
inductive ObjBody where
  | snapshot (mooring : Nat) (job : JobState) (headers : List ShardHdr) (sectors : List AxisEnt) (pieces : List Piece)
  | bundle (image : List Byte)
  deriving DecidableEq, Repr

/-- A flash object of the user area (R144, R457). -/
structure FlashObj where
  name  : BitVec 256
  owner : Nat
  wg    : Nat
  size  : Nat
  lost  : Bool
  body  : ObjBody
  deriving DecidableEq, Repr

/-- An event as the flash log keeps it (R387, R388). -/
structure Event where
  time    : Nat
  code    : Nat
  mooring : Nat
  node    : Nat
  step    : Nat
  unit    : Nat
  daymark : Nat
  detail  : Nat
  /-- the longer description that only the log holds -/
  more    : List Nat
  deriving DecidableEq, Repr

/-- Flash (R144-R148, R440-R445). -/
structure Flash where
  /-- the two copies of the configuration record [R440; as delivered: one valid copy, GEN 1, dark 48 and 49: choice] -/
  rec0     : ConfigRec
  rec1     : ConfigRec
  /-- which copy is in use [R441; reset copy 0] -/
  use1     : Bool
  /-- firmware slots A and B [R144; as delivered: image in A, none in B: choice] -/
  slotA    : Option FwImage
  slotB    : Option FwImage
  /-- everything written to the event log, oldest first; its ring of 4 GiB holds the last 2^27 records, logRing [R144;
  reset empty] -/
  log      : List Event
  /-- PUF helper data, 1 MiB, by byte [R144; no command of the model writes it; as delivered: zero, choice] -/
  puf      : Memory
  /-- the user area is to be read before anything is written to it [R148; reset false] -/
  unread   : Bool
  /-- user area [R144; reset empty] -/
  objs     : List FlashObj
  /-- write generations by name [R457; reset empty] -/
  wgs      : List (BitVec 256 × Nat)
  /-- spare pool in bytes; user area read-only; degraded event raised [R145; reset 1,019 GiB, about what R144 gives] -/
  spare    : Nat
  readOnly : Bool
  degraded : Bool
  /-- snapshot credit in bytes [R147; reset 8 TiB at first power-on] -/
  credit   : Nat
  /-- blocks rewritten by the retention scan [R148; reset 0] -/
  rewrites : Nat
  /-- wear: bytes programmed since first power-on, blocks retired [R145, R146, R381; reset 0] -/
  written  : Nat
  retiredBlocks : Nat
  /-- module time of the last growth of the credit, in ns (the model's own) [R147; reset 0] -/
  grownAt  : Nat
  deriving DecidableEq, Repr

/-- One tower (R7, R341). -/
structure Tower where
  /-- domain daymark [R345; reset 1] -/
  daymark : Nat
  /-- compute reset in progress [R342; reset none] -/
  rst     : ResetState
  /-- tower resets, escalations [R368; reset 0] -/
  resets  : Nat
  escalations : Nat
  deriving DecidableEq, Repr

/-! ### Links -/

/-- A light-list entry with HITS (R275). -/
structure BankEntry where
  e    : LightEntry
  hits : Nat
  deriving DecidableEq, Repr

/-- A codeword as the receiver has it after FEC decoding (R256, R261): correctable or not, symbols
corrected on each lane, the header's SOP bits and CWSEQ, and its ten flits of 64 bytes. -/
structure Codeword where
  ok        : Bool
  corrected : List Nat
  sop       : BitVec 10
  cwseq     : Nat
  flits     : List (List Byte)
  deriving DecidableEq, Repr

/-- What a router decides for a packet (R274): deliver, leave by a port with or without ESC set, or
drop counted under a drop counter of R285. -/
inductive Hop where
  | deliver
  | out (port : Nat) (esc : Bool)
  | drop (cause : Nat)
  deriving DecidableEq, Repr

/-- A packet that waits in the router: its route, whether the route has been chosen a second time (R274), how many of
its flits lie in the skid (R268), and its place in the order of arrival (R271). -/
structure HeldPacket where
  pkt   : Packet
  hop   : Hop
  again : Bool
  skid  : Nat
  seen  : Nat
  deriving DecidableEq, Repr

/-- What becomes of a packet in arrival: dropped with the rest of its flits, held with its route until it may start, or
leaving by a port as its flits come (R261, R266, R269). -/
inductive Fate where
  | dead
  | held (hop : Hop)
  | going (port : Nat) (esc : Bool)
  deriving DecidableEq, Repr

/-- A packet being received (R261, R263): its flits so far, how many it needs, its input VC, how many of its flits
lie in the skid, whether its route has been chosen a second time, and what becomes of it. -/
structure Assembly where
  flits : List (List Byte)
  need  : Nat
  vc    : Nat
  skid  : Nat
  again : Bool
  fate  : Fate
  deriving DecidableEq, Repr

/-- A port (R256-R285). -/
structure Port where
  /-- link up; training [R259, R260; reset false] -/
  up       : Bool
  training : Bool
  /-- lanes in use, first lane, lane rate in Gb/s, round trip in ns [R258, R259; reset 0] -/
  lanes    : Nat
  firstLane : Nat
  rate     : Nat
  rtt      : Nat
  /-- cause that holds the port down: 0, 2 mismatch, 3 carrier record missing, 4 a light list that failed its check [R276, R466, R467; reset 0] -/
  heldBy   : Nat
  /-- the default sidestep of R274 stands in until the Keeper's list is installed -/
  listDue  : Bool
  /-- ON byte last reported by the next hop [R262, R269; reset 0: choice] -/
  peerOn   : BitVec 8
  /-- input VCs, packets waiting, oldest first [R267; reset empty] -/
  vcs      : List (List HeldPacket)
  /-- packets that have begun to wait in its VCs (the model's own count, for their order) -/
  seen     : Nat
  /-- VCs off by their own occupancy, 33 flits until 8 [R270; reset none] -/
  off      : BitVec 8
  /-- packet being received [R261; reset none] -/
  asm      : Option Assembly
  /-- next CWSEQ expected and codewords mod 5 [R256, R257; reset 0] -/
  cwseq    : Nat
  cwmod    : Nat
  /-- times of the latest uncorrectable codewords, at most 8, newest first [R260; reset none] -/
  burst    : List Nat
  /-- CSEQ of the latest control flit received and its arrival; our CSEQ; send times of our last 64 [R282; reset 0] -/
  rxCseq   : Nat
  rxAt     : Nat
  txCseq   : Nat
  txTimes  : List (Nat × Nat)
  /-- link delay and peer offset of the last 64 exchanges, in 2^-16 ns [R282; reset empty] -/
  delays   : List Int
  offsets  : List Int
  /-- DIST and ROOT the neighbour reports [R262, R283; reset 255, 0] -/
  dist     : Nat
  root     : Nat
  /-- packets that have started on this port, oldest first (the model's own record) -/
  tx       : List Packet
  /-- flits that wait for the next codewords, each with its SOP bit [R256, R263; reset empty] -/
  txFlits  : List (Bool × List Byte)
  /-- input port whose packet in arrival leaves by this port as its flits come [R269; reset none] -/
  owner    : Option Nat
  /-- codewords sent since the link came up [R256, R257; reset 0] -/
  txWords  : Nat
  /-- the symbols of the latest codeword sent, by active lane [R256; reset none] -/
  wire     : List (List Nat)
  /-- deficit round robin: the group in turn, the deficit of each group in bytes, the input served last [R271; reset 0: choice] -/
  turn     : Nat
  deficit  : List Nat
  lastIn   : Nat
  /-- counters of R285: packets in, bytes in, packets out, bytes out, codewords corrected, uncorrected, trainings, link-downs, stomped forwarded [reset 0] -/
  cnt      : List Nat
  /-- symbols corrected per lane [R285; reset 0] -/
  symbols  : List Nat
  /-- drops: header, malformed, HOPS, light-list, unroutable, head wait, overrun, mid-packet [R285; reset 0] -/
  drops    : List Nat
  /-- watermark per VC in flits [R285; reset 0] -/
  marks    : List Nat
  /-- OFF stall per VC in gc [R285; reset 0] -/
  stall    : List Nat
  deriving DecidableEq, Repr

/-- A stream this module sends (R277-R280). -/
structure SrcStream where
  dest    : Nat
  cls     : Nat
  next    : Nat
  fresh   : Bool
  /-- copies kept until acknowledged, oldest first, with the tower whose store holds them (R280) -/
  unacked : List (Nat × Packet)
  /-- packets held back by the limit of 128 or a full store (R280) -/
  held    : List (Nat × Packet)
  expiries : Nat
  /-- doublings of the timeout -/
  backoff : Nat
  deriving DecidableEq, Repr

/-- A stream this module receives (R277-R279). -/
structure DstStream where
  src     : Nat
  cls     : Nat
  expect  : Nat
  /-- packets delivered since the last ACK -/
  sinceAck : Nat
  /-- time in ns of the NAK sent since a packet with the expected SEQ arrived, if any (R279) -/
  nakAt   : Option Nat
  deriving DecidableEq, Repr

/-- Who awaits a carrier-peer answer (R281). -/
inductive PeerFor where
  | dmaRead (c : Chan) (key skip left : Nat)
  | dmaWrite (c : Chan) (addr : Nat)
  | vecLoad (lantern key skip left : Nat)
  | vecStore (lantern row index : Nat)
  | coll (lantern key skip left : Nat)
  | shore (core : Nat)
  | keeper (key skip left : Nat)
  deriving DecidableEq, Repr

/-- An outstanding carrier-peer request (R281, R346): tag, bytes, who awaits it, and the requesting domain. -/
structure PeerReq where
  tag  : Nat
  len  : Nat
  who  : PeerFor
  dom  : Domain
  deriving DecidableEq, Repr

/-- The router and the module's end of the streams (R255-R286). -/
structure Router where
  /-- ports 0 to 7 [R273] -/
  ports    : List Port
  /-- the two banks of the light list and the active one [R275, R276; reset empty] -/
  bank0    : List BankEntry
  bank1    : List BankEntry
  active1  : Bool
  /-- the light lists of other modules that the Keeper knows of [R276; reset none] -/
  known    : List (Nat × List LightEntry)
  /-- packets delivered here and not yet handled [R274; reset empty] -/
  arrived  : List Packet
  src      : List SrcStream
  dst      : List DstStream
  /-- source, class and time in ns of the RESTART NAK sent for a stream that is not held [R277, R279; reset none] -/
  restarts : List (Nat × Nat × Nat)
  /-- outstanding carrier-peer requests; next tag [R264, R281; reset none, 0] -/
  reqs     : List PeerReq
  nextTag  : Nat
  /-- carrier-peer redirects: lost node, lightship [R365; reset none] -/
  redirect : List (Nat × Nat)
  /-- counters of R286: sent, resent, acknowledged, NAKs sent, received, timeouts, failed streams, discards CRC, stomped, duplicate, out of order, endpoint full, daymark [reset 0] -/
  cnt      : List Nat
  /-- resend-store watermark per tower in bytes [R280, R286; reset 0] -/
  resendMark : List Nat
  /-- packets made here that wait for an output port to be on [R269; reset none] -/
  waiting  : List HeldPacket
  /-- packets and bytes that have turned between a north and a south port by bridges N0, V02, S2 and by N1, V13, S3 (the
  model's own record) [R255; reset 0] -/
  crossed  : List Nat
  /-- head-wait limit and stream timeout in us, set at full light [R272, R279; reset 2,000 and 50] -/
  headWait : Nat
  streamUs : Nat
  deriving DecidableEq, Repr

/-- Module time (R282-R284, R468). -/
structure TimeState where
  /-- module time in units of 2^-16 ns [R283; reset 0: choice] -/
  now      : Nat
  /-- time root named by TIME_ROOT [R284; reset none] -/
  named    : Option Nat
  /-- root followed; parent port; DIST reported [R283; reset self, none, 255: choice] -/
  root     : Nat
  parent   : Option Nat
  dist     : Nat
  /-- free running without a parent; the event has been raised [R283; reset false] -/
  holdover : Bool
  raised   : Bool
  /-- time spent free running, in us [R283, R286; reset 0] -/
  freeUs   : Nat
  /-- the first lock has been made [R283; reset false] -/
  locked   : Bool
  /-- valid pulses in a row; the root steers to the pulse [R468; reset 0, false] -/
  pulses   : Nat
  steering : Bool
  /-- what the root still has to slew so that pulses fall on whole seconds, in 2^-16 ns [R468; reset 0] -/
  adjust   : Int
  deriving DecidableEq, Repr

/-- A shore core (R369, R370). -/
structure ShoreCore where
  /-- mooring it is lent to [R370; reset none] -/
  lent    : Option Nat
  /-- guest running; entry point; image address and length; its digest [R370, R380; reset none] -/
  running : Bool
  entry   : Nat
  image   : Nat
  imgLen  : Nat
  /-- memory windows the hypervisor maps: base, length [R370; reset none] -/
  maps    : List (Nat × Nat)
  /-- windows that SHORE_START asked for; one on an output or a statistic is mapped while a copy can be read
  [R218, R370, R380; reset none] -/
  asked   : List (Nat × Nat)
  /-- domain daymark [R345; reset 1] -/
  daymark : Nat
  /-- registers x1 to x31 of RV64, private memory, a timer interrupt pending; what a guest executes is its own [R369, R370;
  reset 0: choice] -/
  regs    : List (BitVec 64)
  priv    : Memory
  timer   : Bool
  /-- access faults delivered: faulting addresses, newest first [R370; reset none] -/
  faults  : List Nat
  deriving DecidableEq, Repr

/-- What the module has sent to the outside by interfaces that keep no register of it (the model's own
record, newest last): MSI-X messages (function, vector), what Keeper-to-Keeper messages say and to
which node (R265 gives their payload no layout), DOE and MCTP answers. -/
structure Outputs where
  msix : List (Nat × Nat)
  kmsg : List (Nat × KeeperMsg)
  doe  : List (List Byte)
  mctp : List (List Byte)
  deriving DecidableEq, Repr

/-- The module. -/
structure State where
  /-- commands waiting, first in first out (the model's own) [reset empty] -/
  pending  : List Instr
  power    : Power
  boot     : Boot
  flash    : Flash
  /-- functions 0 to 43 [R371] -/
  funcs    : List Func
  keeper   : Keeper
  /-- moorings open on this module, in the order of opening [R315; reset none] -/
  moorings : List Mooring
  /-- lanterns 0 to 191 by logical index [R9] -/
  lanterns : List Lantern
  /-- towers 0 to 3 [R7] -/
  towers   : List Tower
  /-- system DMA channels 0 to 15 [R171] -/
  sysChans : List DmaChan
  /-- bytes of regions 0x00, 0x10, 0x20 and 0x40 by local module address [R20; unlisted reads 0] -/
  mem      : Memory
  /-- poisoned 64-byte lines by address, ascending [R143; reset none] -/
  poison   : List Nat
  /-- host memory by PCIe address, outside the module [R23; unlisted is a free value] -/
  host     : Memory
  router   : Router
  time     : TimeState
  /-- shore cores 0 to 11 [R369] -/
  shore    : List ShoreCore
  out      : Outputs
  /-- draws made from the free values of Config (the model's own) [reset 0: choice] -/
  free     : Nat
  deriving DecidableEq, Repr

/-! ### Reset -/

def VEngine.reset : VEngine :=
  { regs := List.replicate 64 VReg.zero, masks := List.replicate 8 0, addr := List.replicate 8 0,
    cur := none, tabOf := none, tables := [], row := 0, rowsRun := 0, nrows := 0, todo := [],
    index := 0, unstored := false, tailRun := false, idx := none, lstride := 0, mbase := 0, flags := 0, gtop := -32768,
    ghalf := false, gsat := false, loadQ := [], storeQ := [], peerTags := [] }

def DmaChan.reset : DmaChan :=
  { mode := .normal, queue := [], pc := 0, base := [0, 0, 0, 0], loff := 0, woff := 0, ioff := 0,
    reps := [], waiting := false, signalling := false, flights := [], serial := 0, cmdBad := 0, cmdAddr := false,
    counters := List.replicate 17 0 }

def Lantern.reset : Lantern :=
  { phys := none, fault := false, rst := ⟨false, 0, false, false⟩, mooring := none, sched := [], turn := 0,
    pc := 0, running := false, waiting := false, holding := false, updHold := false,
    endIssued := false, endRetired := false, events := List.replicate 16 0, passesRead := 0,
    windows := [], lensQ := [], tile := none, shadow := none, loading := none, fastClk := false,
    lensStep := 0, heldSteps := 0, lensNow := 0, passStart := 0, loadEnd := 0, emptyFrom := 0, lastMode := (false, false), lensCnt := ⟨0, 0, 0, 0, 0, 0, 0, 0, 0, 0⟩,
    acc := [], accTag := [], grad := [], gradTag := [], drainQ := [], vec := VEngine.reset,
    bindQ := [], dma := List.replicate 4 DmaChan.reset, coll := [], collCnt := [], collHeld := [],
    truncated := 0, beacon := [0, 0, 0], sampled := [0, 0, 0], still := [0, 0, 0, 0], waits := [0, 0, 0],
    daymark := 1, stall := 0, filling := false, fillSteps := 0, throttle := 0, level := 0,
    fcnt := List.replicate 12 0 }

def Mailbox.reset : Mailbox :=
  { reqBody := [], reqSeal := 0, respBody := [], respSeq := 0, respLen := 0, lastSeq := 0,
    req := none, unseen := false }

def Queue.reset : Queue :=
  { bound := false, event := false, log2n := 0, vector := 0, base := 0, prod := 0, head := 0,
    badHead := false, staged := [], modCount := 0, modTime := 0, unannounced := 0, lost := 0,
    lostTime := 0 }

def Func.reset : Func :=
  { mbox := List.replicate 4 Mailbox.reset, queues := List.replicate 16 Queue.reset, intStatus := 0,
    msixTable := (List.range 64).map (fun v => (16 * v + 12, 1)), pba := 0, bme := false, mse := false, present := false, viewAcc := 0,
    lostSeals := 0, privRef := 0, unheard := 0, attLog := [], attHead := 0, reported := [],
    slots := List.replicate 8 none, shown := [] }

def Policy.reset : Policy :=
  { lanternHang := 5000, towerHang := 60000, lanternResets := 3, lanternWin := 600000000,
    towerResets := 4, towerWin := 3600000000, transient := 8, transientWin := 86400000000,
    eccBurst := 16, probe := 250000 }

def Keeper.reset : Keeper :=
  { hwins := [], bundles := [], nextHandle := 1, ops := [], split := 1, policy := Policy.reset,
    debug := false, debugWrites := List.replicate 44 0, io := [], hintsIgnored := 0, resetLog := [], transients := [],
    daymark := 1, lastAdv := [], owed := [], restartDue := false, closed := [], serial := 0, tests := [], forwards := [],
    mcnt := List.replicate 13 0, dmDrops := [0, 0, 0, 0, 0], ecc := [], leaveAt := none, lateScrubs := 0, bistGroup := 0,
    bistDone := [], bistBad := false }

def Power.reset : Power :=
  { vin := 0, inputOn := false, pwrEn := false, rails := [], powerGood := false, faulted := [],
    rails080 := false, iin := 0, ballast := [0, 0, 0, 0], ballastFor := [0, 0, 0, 0], slew := 16, cap := 1500, peakCap := 2000,
    trim := false, share := [0, 0, 0, 0], credit := 20000000, pin := 0, psect := [0, 0, 0, 0],
    plevel := [0, 0, 0, 0], belowMs := [0, 0, 0, 0], tlevel := [0, 0, 0, 0], hotFor := [0, 0, 0, 0],
    coolFor := [0, 0, 0, 0], tripFor := [0, 0, 0, 0], ioTripFor := 0, ioHot := false,
    temps := ⟨[0, 0, 0, 0], [0, 0], 0, 0⟩, tripped := false, brake := false, brakes := 0, steps := 0,
    energy := 0, refLost := false, fullClk := false }

def Boot.reset : Boot :=
  { state := 0, stage := 0, fail := 0, halted := false, recovery := false, routerAtFull := false,
    towers := List.replicate 4 false, held := List.replicate 4 false, lpddr := false, links := false,
    pgTime := 0, coords := [0, 0, 0, 0], sizes := [1, 1, 1, 1], noCarrier := false, fwVersion := 0,
    fwSlot := 0, heartbeat := 0, restarts := 0, keeperUp := false, trial := false, identity := false,
    alert := false, perst := false, spdmAlgs := false }

/-- The dark positions at delivery: 48 and 49 of each tower (DESIGN CHOICE, notes/assumptions/1.md). -/
def darkDelivered : List (Nat × Nat) :=
  [(0, 48), (0, 49), (1, 48), (1, 49), (2, 48), (2, 49), (3, 48), (3, 49)]

def ConfigRec.delivered : ConfigRec :=
  { factoryOk := true, fieldOk := true, gen := 1, active := 0, pending := none, tries := 0,
    svnFloor := 0, dark := darkDelivered, retired := [], gaps := [], spareLines := [], pageRemap := [], dark0 := darkDelivered,
    svn0 := 0, idpub := 0, golden := [] }

def Flash.delivered : Flash :=
  { rec0 := ConfigRec.delivered, rec1 := { ConfigRec.delivered with fieldOk := false, gen := 0 },
    use1 := false, slotA := some ⟨1, 0, 0, 0, true⟩, slotB := none, log := [], puf := [], unread := false, objs := [],
    wgs := [], spare := 1019 * 2 ^ 30, readOnly := false, degraded := false, credit := 8 * 2 ^ 40,
    rewrites := 0, written := 0, retiredBlocks := 0, grownAt := 0 }

def Tower.reset : Tower :=
  { daymark := 1, rst := ⟨false, 0, false, false⟩, resets := 0, escalations := 0 }

def Port.reset : Port :=
  { up := false, training := false, lanes := 0, firstLane := 0, rate := 0, rtt := 0, heldBy := 0,
    listDue := false, peerOn := 0, vcs := List.replicate 8 [], seen := 0, off := 0, asm := none, cwseq := 0,
    cwmod := 0, burst := [], rxCseq := 0, rxAt := 0, txCseq := 0, txTimes := [],
    delays := [], offsets := [], dist := 255, root := 0, tx := [], txFlits := [], owner := none, txWords := 0, wire := [], turn := 0,
    deficit := List.replicate 4 0, lastIn := 0, stall := List.replicate 8 0, cnt := List.replicate 9 0,
    symbols := List.replicate 16 0, drops := List.replicate 8 0, marks := List.replicate 8 0 }

def Router.reset : Router :=
  { ports := List.replicate 8 Port.reset, bank0 := [], bank1 := [], active1 := false, known := [], arrived := [],
    src := [], dst := [], restarts := [], reqs := [], nextTag := 0, redirect := [], cnt := List.replicate 13 0,
    resendMark := [0, 0, 0, 0], waiting := [], crossed := [0, 0, 0, 0], headWait := 2000, streamUs := 50 }

def TimeState.reset : TimeState :=
  { now := 0, named := none, root := 0, parent := none, dist := 255, holdover := false,
    raised := false, freeUs := 0, locked := false, pulses := 0, steering := false, adjust := 0 }

def ShoreCore.reset : ShoreCore :=
  { lent := none, running := false, entry := 0, image := 0, imgLen := 0, maps := [], asked := [], daymark := 1,
    regs := List.replicate 31 0, priv := [], timer := false, faults := [] }

/-- The state right after reset: the module unpowered, every register at its reset value. -/
def State.reset : State :=
  { pending := [], power := Power.reset, boot := Boot.reset, flash := Flash.delivered,
    funcs := List.replicate 44 Func.reset, keeper := Keeper.reset, moorings := [],
    lanterns := List.replicate 192 Lantern.reset, towers := List.replicate 4 Tower.reset,
    sysChans := List.replicate 16 DmaChan.reset, mem := [], poison := [], host := [],
    router := Router.reset, time := TimeState.reset, shore := List.replicate 12 ShoreCore.reset,
    out := ⟨[], [], [], []⟩, free := 0 }

/-! ### How a step can stop -/

/-- Reasons a command ends the run. -/
inductive Fault where
  /-- Raised by INPUT_VOLTAGE_CHANGE above 70 V: R408 says the module may be
  damaged and gives nothing further. Safe: the run stops. -/
  | inputBeyondMaximum
  deriving DecidableEq, Repr

/-- Reasons a command has no meaning. -/
inductive Refusal where
  /-- Raised by an arm of exec that has no meaning yet. Safe: the run stops. -/
  | notModelled (mnemonic : String)
  deriving DecidableEq, Repr

end Sys2Proof.Machine
end

