-- ==== Sys2Proof/Machine/Ops.lean ====
section
/-! DEFINITION. Machine/Ops.lean: the named operations over tables, memories and lists, byte order, and
reading and changing one part of the state. -/

namespace Sys2Proof.Machine

/-! ### Tables -/

/-- The value of key n in a table whose unlisted keys read as d. -/
def tget {α : Type} (d : α) : Table α → Nat → α
  | [], _ => d
  | (k, v) :: t, n => if n < k then d else if k = n then v else tget d t n

/-- Write v at key n, keeping the canonical form: keys strictly rising, no entry equal to d. -/
def tput {α : Type} [DecidableEq α] (d : α) : Table α → Nat → α → Table α
  | [], n, v => if v = d then [] else [(n, v)]
  | (k, w) :: t, n, v =>
    if n < k then (if v = d then (k, w) :: t else (n, v) :: (k, w) :: t)
    else if k = n then (if v = d then t else (n, v) :: t)
    else (k, w) :: tput d t n v

/-- Remove the entries of keys lo to hi - 1: they read as the default again. -/
def tclear {α : Type} (t : Table α) (lo hi : Nat) : Table α :=
  t.filter (fun p => decide (p.1 < lo ∨ hi ≤ p.1))

/-- Keys strictly rising from lo on, and no entry equal to d. -/
def tableOkFrom {α : Type} [DecidableEq α] (d : α) : Nat → Table α → Bool
  | _, [] => true
  | lo, (k, v) :: t => decide (lo ≤ k) && decide (v ≠ d) && tableOkFrom d (k + 1) t

/-- The canonical form of a table. -/
def tableOk {α : Type} [DecidableEq α] (d : α) (t : Table α) : Bool := tableOkFrom d 0 t

/-- The canonical form of a memory (unlisted bytes read 0). -/
def memoryWf (m : Memory) : Bool := tableOk (0 : Byte) m

/-! ### Bytes -/

/-- Byte a of a memory. -/
def byteAt (m : Memory) (a : Nat) : Byte := tget 0 m a

/-- Memory with byte a replaced. -/
def setByte (m : Memory) (a : Nat) (b : Byte) : Memory := tput 0 m a b

/-- The n bytes from address a. -/
def bytesAt (m : Memory) (a : Nat) : Nat → List Byte
  | 0 => []
  | n + 1 => byteAt m a :: bytesAt m (a + 1) n

/-- Memory with the bytes bs from address a on. -/
def setBytes (m : Memory) (a : Nat) : List Byte → Memory
  | [] => m
  | b :: bs => setBytes (setByte m a b) (a + 1) bs

/-- The bytes of a list of (address, byte) pairs written in order. -/
def setCells (m : Memory) : List (Nat × Byte) → Memory
  | [] => m
  | (a, b) :: cs => setCells (setByte m a b) cs

/-- The number that bytes spell, little-endian (R27). -/
def leNat : List Byte → Nat
  | [] => 0
  | b :: bs => b.toNat + 256 * leNat bs

/-- The n little-endian bytes of a number. -/
def natLE : Nat → Nat → List Byte
  | 0, _ => []
  | n + 1, v => BitVec.ofNat 8 v :: natLE n (v / 256)

/-- The n little-endian bytes of a signed number. -/
def intLE (n : Nat) (v : Int) : List Byte := natLE n (wrapNat (8 * n) v)

/-- The number that n bytes at offset o of a list spell, little-endian; missing bytes read 0. -/
def leAt (bs : List Byte) (o n : Nat) : Nat := leNat ((bs.drop o).take n)

/-- Addresses a, a + 1, ... paired with bytes. -/
def cellsAt (a : Nat) : List Byte → List (Nat × Byte)
  | [] => []
  | b :: bs => (a, b) :: cellsAt (a + 1) bs

/-! ### Lists -/

/-- One counter of a list of counters advanced by n. -/
def bump (l : List Nat) (i n : Nat) : List Nat := l.modify i (· + n)

/-- A list with element i replaced. -/
def setAt {α : Type} (l : List α) (i : Nat) (x : α) : List α := l.modify i (fun _ => x)

/-- A number inserted in an ascending list without repeats. -/
def insertAsc : List Nat → Nat → List Nat
  | [], n => [n]
  | k :: t, n => if n < k then n :: k :: t else if k = n then k :: t else k :: insertAsc t n

/-- Everything of xs up to and with the first element that p holds of, and the rest. -/
def takeThrough {α : Type} (p : α → Bool) : List α → List α × List α
  | [] => ([], [])
  | x :: xs => if p x then ([x], xs) else let r := takeThrough p xs; (x :: r.1, r.2)

/-- The first element of a list, with its index, that p holds of. -/
def findIdx {α : Type} (p : α → Bool) : List α → Option Nat
  | [] => none
  | x :: xs => if p x then some 0 else (findIdx p xs).map (· + 1)

/-- The sum of a list. -/
def sumNat (l : List Nat) : Nat := l.foldl (· + ·) 0

/-- 64-bit word k of an entry. -/
def word64 (e : List Byte) (k : Nat) : Nat := leAt e (8 * k) 8

/-- The product of a list. -/
def prodNat (l : List Nat) : Nat := l.foldl (· * ·) 1

/-- a over b, rounded up. -/
def ceilDiv (a b : Nat) : Nat := (a + b - 1) / b

/-- The greatest of a list of numbers, 0 for none. -/
def maxNat (l : List Nat) : Nat := l.foldl max 0

/-! ### Parts of the state -/

/-- Lantern l, by logical index. -/
def lanternAt (s : State) (l : Nat) : Lantern := s.lanterns.getD l Lantern.reset

/-- Change lantern l. -/
def modLantern (s : State) (l : Nat) (f : Lantern → Lantern) : State :=
  { s with lanterns := s.lanterns.modify l f }

/-- Change the vector engine of lantern l. -/
def modVec (s : State) (l : Nat) (f : VEngine → VEngine) : State :=
  modLantern s l (fun x => { x with vec := f x.vec })

/-- Tower t (R7). -/
def towerAt (s : State) (t : Nat) : Tower := s.towers.getD t Tower.reset

def modTower (s : State) (t : Nat) (f : Tower → Tower) : State :=
  { s with towers := s.towers.modify t f }

/-- DMA channel c (R170, R171). -/
def chanAt (s : State) : Chan → DmaChan
  | .lantern l c => (lanternAt s l).dma.getD c DmaChan.reset
  | .system n => s.sysChans.getD n DmaChan.reset

def modChan (s : State) (c : Chan) (f : DmaChan → DmaChan) : State :=
  match c with
  | .lantern l k => modLantern s l (fun x => { x with dma := x.dma.modify k f })
  | .system n => { s with sysChans := s.sysChans.modify n f }

/-- Function f (R371). -/
def funcAt (s : State) (f : Nat) : Func := s.funcs.getD f Func.reset

def modFunc (s : State) (i : Nat) (f : Func → Func) : State :=
  { s with funcs := s.funcs.modify i f }

def mboxAt (s : State) (m : Mbox) : Mailbox := (funcAt s m.func).mbox.getD m.box Mailbox.reset

def modMbox (s : State) (m : Mbox) (f : Mailbox → Mailbox) : State :=
  modFunc s m.func (fun x => { x with mbox := x.mbox.modify m.box f })

def queueAt (s : State) (f q : Nat) : Queue := (funcAt s f).queues.getD q Queue.reset

def modQueue (s : State) (i q : Nat) (f : Queue → Queue) : State :=
  modFunc s i (fun x => { x with queues := x.queues.modify q f })

def portAt (s : State) (p : Nat) : Port := s.router.ports.getD p Port.reset

def modRouter (s : State) (f : Router → Router) : State := { s with router := f s.router }

def modPort (s : State) (p : Nat) (f : Port → Port) : State :=
  modRouter s (fun r => { r with ports := r.ports.modify p f })

def modKeeper (s : State) (f : Keeper → Keeper) : State := { s with keeper := f s.keeper }

def modPower (s : State) (f : Power → Power) : State := { s with power := f s.power }

def modBoot (s : State) (f : Boot → Boot) : State := { s with boot := f s.boot }

def modFlash (s : State) (f : Flash → Flash) : State := { s with flash := f s.flash }

def modTime (s : State) (f : TimeState → TimeState) : State := { s with time := f s.time }

/-- The mooring with an id, if it is open on this module. -/
def mooringAt (s : State) (id : Nat) : Option Mooring :=
  s.moorings.find? (fun m => m.desc.id == id)

/-- Change the mooring with an id. -/
def modMooring (s : State) (id : Nat) (f : Mooring → Mooring) : State :=
  { s with moorings := s.moorings.map (fun m => if m.desc.id = id then f m else m) }

def modShore (s : State) (c : Nat) (f : ShoreCore → ShoreCore) : State :=
  { s with shore := s.shore.modify c f }

/-- Draw a value that the spec leaves open: the value and the state with the next draw due
(notes/assumptions/8.md). -/
def drawFree (s : State) : BitVec 64 × State :=
  (Config.freeValue s.free, { s with free := s.free + 1 })

/-- Module time in nanoseconds (R282, R283): time is kept in units of 2^-16 ns. -/
def nowNs (s : State) : Nat := s.time.now / 65536

/-- A node id (R264): (w << 15) | (x << 10) | (y << 5) | z. -/
def nodeOf (coords : List Nat) : Nat :=
  coords.getD 0 0 % 8 * 32768 + coords.getD 1 0 % 32 * 1024 + coords.getD 2 0 % 32 * 32 + coords.getD 3 0 % 32

/-- The coordinates w, x, y, z of a node id (R264). -/
def coordsOf (n : Nat) : List Nat := [n / 32768 % 8, n / 1024 % 32, n / 32 % 32, n % 32]

/-- This module's node id (R466). -/
def selfNode (s : State) : Nat := nodeOf s.boot.coords

end Sys2Proof.Machine
end

