-- ==== Sys2Proof/Machine/Arith.lean ====
section
/-! DEFINITION. Machine/Arith.lean: block-scaled integers, requantisation, rounding, the keyed
generator, partial records and accumulator entries (R24 to R45, R87 to R109). -/

namespace Sys2Proof.Machine

/-! ### Formats (R25) -/

/-- Magnitude bits of a format (R35). -/
def fmtBits : Fmt → Nat
  | .b4 => 3
  | .b8 => 7
  | .b16 => 15
  | .b32 => 31

/-- Largest mantissa (R35: mmax). -/
def fmtMax (f : Fmt) : Int := (2 ^ fmtBits f : Nat) - 1

/-- The SAT code, for B32 the pattern of an invalid block (R25, R26). -/
def satCode (f : Fmt) : Int := -((2 ^ fmtBits f : Nat) : Int)

/-- Bytes of one block's mantissas (R25). -/
def blockBytes : Fmt → Nat
  | .b4 => 16
  | .b8 => 32
  | .b16 => 64
  | .b32 => 128

/-- The format that a two-bit code names: 0 B4, 1 B8, 2 B16, 3 B32 (R126, R151). -/
def fmtOf (n : Nat) : Fmt :=
  match n % 4 with
  | 0 => .b4
  | 1 => .b8
  | 2 => .b16
  | _ => .b32

/-- Element i of the mantissa bytes of a block (R27). -/
def mantissaAt (f : Fmt) (bs : List Byte) (i : Nat) : Int :=
  match f with
  | .b4 => sext 4 ((bs.getD (i / 2) 0).toNat / 16 ^ (i % 2))
  | .b8 => sext 8 (bs.getD i 0).toNat
  | .b16 => sext 16 (leAt bs (2 * i) 2)
  | .b32 => sext 32 (leAt bs (4 * i) 4)

/-- The mantissa bytes of a list of elements, element 0 at the lowest address (R27). -/
def mantissaBytes (f : Fmt) (ms : List Int) : List Byte :=
  match f with
  | .b4 => (List.range (ms.length / 2)).map (fun j =>
      BitVec.ofNat 8 (wrapNat 4 (ms.getD (2 * j) 0) + 16 * wrapNat 4 (ms.getD (2 * j + 1) 0)))
  | .b8 => ms.map (fun m => BitVec.ofNat 8 (wrapNat 8 m))
  | .b16 => (ms.map (intLE 2)).flatten
  | .b32 => (ms.map (intLE 4)).flatten

/-- An element of a block as it reads (R26): its value's mantissa and whether it is SAT. -/
def readElem (f : Fmt) (e : Nat) (m : Int) : Int × Bool :=
  if e = 0 then (0, false)
  else if e = 255 then (0, true)
  else if f ≠ .b32 ∧ m = satCode f then (0, true)
  else (m, false)

/-! ### Rounding (R38) -/

/-- Shift a right by s places with rounding: nearest-even, or stochastic with the draw u (R38). -/
def shiftRound (a : Int) (s : Int) (sr : Bool) (u : Nat) : Int :=
  if s ≤ 0 then
    if a = 0 then 0
    else if s < -62 then a * ((2 ^ 63 : Nat) : Int)
    else a * ((2 ^ (-s).toNat : Nat) : Int)
  else
    let k := min s.toNat 127
    let d : Int := ((2 ^ k : Nat) : Int)
    let q := a / d
    let r := (a % d).toNat
    if sr then
      let t := u / 2 ^ 32 % 2 ^ 32
      if k ≤ 32 then (if t / 2 ^ (32 - k) < r then q + 1 else q)
      else (if t < r / 2 ^ (k - 32) then q + 1 else q)
    else
      let half := 2 ^ (k - 1)
      if half < r ∨ (r = half ∧ q % 2 = 1) then q + 1 else q

/-! ### The keyed generator (R40) -/

/-- mix64 of R40. -/
def mix64 (x : BitVec 64) : BitVec 64 :=
  let x := x ^^^ (x >>> 31)
  let x := x * 0x9E6C63D0676A9A99#64
  let x := x ^^^ (x >>> 27)
  let x := x * 0xC2B75B3F1D4E8A35#64
  x ^^^ (x >>> 33)

/-- The draw of one element (R40). -/
def draw (seed tensor step use index : Nat) : BitVec 64 :=
  let k1 := mix64 (BitVec.ofNat 64 seed ^^^ BitVec.ofNat 64 (tensor % 2 ^ 32 * 2 ^ 32) ^^^ BitVec.ofNat 64 (use % 256))
  let k2 := mix64 (k1 + BitVec.ofNat 64 (step % 2 ^ 48))
  let x := k2 + BitVec.ofNat 64 index * 0xA4D31E796C85F2B3#64
  mix64 (mix64 x ^^^ k2)

/-- Use codes that an SR requantisation may name (R42). -/
def useAssigned (use : Nat) : Bool := (1 ≤ use && use ≤ 8) || (16 ≤ use && use ≤ 255)

/-! ### Requantisation (R33 to R37) -/

/-- One block of requantisation's output: mantissas, scale byte, SAT and UNF conditions (R35, R36). -/
structure ReqOut where
  m   : List Int
  e   : Nat
  sat : Bool
  unf : Bool
  deriving DecidableEq, Repr

/-- The block whose elements are all SAT (R37). -/
def invalidBlock (f : Fmt) (n : Nat) (unf : Bool) : ReqOut :=
  ⟨List.replicate n (satCode f), 255, true, unf⟩

/-- The elements shifted by s, a SAT element as none. -/
def reqShift (a : List (Int × Bool)) (u : List Nat) (s : Int) (sr : Bool) : List (Option Int) :=
  a.zipIdx.map (fun p => if p.1.2 then none else some (shiftRound p.1.1 s sr (u.getD p.2 0)))

/-- Is an element out of the format's range? -/
def reqOver (f : Fmt) (t : List (Option Int)) : Bool :=
  t.any (fun x => match x with | none => false | some v => decide (fmtMax f < (v.natAbs : Int)))

/-- The last steps of R35: SAT codes, conditions and canonical form. -/
def reqFinish (f : Fmt) (a : List (Int × Bool)) (t : List (Option Int)) (e16 : Nat) (clamped : Bool) :
    ReqOut :=
  let m := t.map (fun x => match x with
    | none => satCode f
    | some v => if fmtMax f < (v.natAbs : Int) then satCode f else v)
  let isSat := t.map (fun x => match x with
    | none => true
    | some v => decide (fmtMax f < (v.natAbs : Int)))
  let condSat := isSat.any id
  let unf := clamped && ((a.zip m).any (fun p => !p.1.2 && decide (p.1.1 ≠ 0) && decide (p.2 = 0)))
  if isSat.all id || (decide (f = .b32) && condSat) then invalidBlock f a.length unf
  else
    let allZero := (isSat.zip m).all (fun p => p.1 || decide (p.2 = 0))
    let e := if allZero then (if condSat then 127 else 0) else e16
    ⟨m, e, condSat, unf⟩

/-- Requantisation (R35): fixed is e_fix in FIXED mode, none in MAXFIT; u holds one draw per element. The exponents of the
pseudocode, e_in + n - nb + h + 127 and e16 - 127 - e_in, are computed exactly, as R34 reads: R124 lets e_in reach 32,767 in
magnitude, and that they do not wrap at the int16 of their declarations is the model's choice (DESIGN CHOICE,
notes/assumptions/36.md). -/
def requantise (a : List (Int × Bool)) (ein : Int) (f : Fmt) (fixed : Option Nat) (h : Nat) (sr : Bool)
    (u : List Nat) : ReqOut :=
  let h := if f = .b4 then min h 1 else h
  let condSat := a.any (·.2)
  if a.all (·.2) || (decide (f = .b32) && condSat) then invalidBlock f a.length false
  else
    match fixed with
    | some e =>
      if e = 0 ∨ 255 ≤ e then invalidBlock f a.length false
      else reqFinish f a (reqShift a u ((e : Int) - 127 - ein) sr) e false
    | none =>
      let big := maxNat (a.map (fun p => if p.2 then 0 else p.1.natAbs))
      if big = 0 then
        ⟨a.map (fun p => if p.2 then satCode f else 0), (if condSat then 127 else 0), condSat, false⟩
      else
        let e0 : Int := ein + bitLen big - fmtBits f + h + 127
        let clamped := decide (e0 < 1)
        let e1 : Int := if clamped then 1 else e0
        if 254 < e1 then invalidBlock f a.length false
        else
          let t1 := reqShift a u (e1 - 127 - ein) sr
          if reqOver f t1 then
            if 254 < e1 + 1 then invalidBlock f a.length false
            else reqFinish f a (reqShift a u (e1 + 1 - 127 - ein) sr) (e1 + 1).toNat clamped
          else reqFinish f a t1 e1.toNat clamped

/-! ### Records (R93 to R95, R103, R108) -/

/-- The 16 bytes of a record (R93). -/
def recBytes (p : Rec) : List Byte :=
  intLE 8 p.v ++ natLE 4 p.r ++ intLE 2 p.x ++
    [BitVec.ofNat 8 (b2n p.o + 2 * b2n p.i + 4 * b2n p.z), 0]

/-- The record that 16 bytes spell (R93). -/
def recOfBytes (bs : List Byte) : Rec :=
  let fl := (bs.getD 14 0).toNat
  ⟨sext 64 (leAt bs 0 8), leAt bs 8 4, sext 16 (leAt bs 12 2), bit fl 0, bit fl 1, bit fl 2⟩

/-- One input of padd aligned to exponent x: the shifted value and whether a bit was lost (R95). -/
def paddPart (p : Rec) (x : Int) : Int × Bool :=
  let w : Int := p.v * ((2 ^ 32 : Nat) : Int) + p.r
  let d : Int := ((2 ^ (min (x - p.x) 127).toNat : Nat) : Int)
  let t := w / d
  (t, decide (t * d ≠ w))

/-- A sum wrapped to 96 bits, two's complement. -/
def wrap96 (s : Int) : Int := sext 96 (wrapNat 96 s)

/-- The compensated sum (R95). -/
def padd (a b : Rec) : Rec :=
  let o := a.o || b.o
  let i := a.i || b.i
  if a.z && b.z then ⟨0, 0, 0, o, i, true⟩
  else if a.z then ⟨b.v, b.r, b.x, o, i, false⟩
  else if b.z then ⟨a.v, a.r, a.x, o, i, false⟩
  else
    let x := max a.x b.x
    let ta := paddPart a x
    let tb := paddPart b x
    let s := ta.1 + tb.1
    let wraps := decide (s < -((2 ^ 95 : Nat) : Int)) || decide (((2 ^ 95 : Nat) : Int) - 1 < s)
    let s := if wraps then wrap96 s else s
    ⟨s / ((2 ^ 32 : Nat) : Int), (s % ((2 ^ 32 : Nat) : Int)).toNat, x, o || wraps,
      i || ta.2 || tb.2, false⟩

/-- The record of an element of a block (R94). -/
def recOfElem (f : Fmt) (e : Nat) (m : Int) : Rec :=
  let v := readElem f e m
  if v.2 then ⟨0, 0, 0, true, false, false⟩
  else if e = 0 then Rec.empty
  else ⟨v.1, 0, (e : Int) - 127, false, false, false⟩

/-- jam of R103. -/
def jam (w : Int) (d : Int) : Int :=
  if d ≤ 0 then w * ((2 ^ (-d).toNat : Nat) : Int)
  else
    let k : Int := ((2 ^ (min d 127).toNat : Nat) : Int)
    let q := w / k
    if q * k ≠ w ∧ q % 2 = 0 then q + 1 else q

/-- to_requant of R103: the a_i, sat_i and e_in of R33. -/
def toRequant (p : List Rec) : List (Int × Bool) × Int :=
  let live := p.filter (fun r => !r.o && !r.z)
  match live with
  | [] => (p.map (fun r => (0, r.o)), 0)
  | r0 :: rs =>
    let xh := rs.foldl (fun m r => max m r.x) r0.x
    let g := p.map (fun r => if r.o || r.z then (0 : Int)
      else jam (r.v * ((2 ^ 32 : Nat) : Int) + r.r) (xh - r.x - 32))
    let n := bitLen (maxNat (g.map Int.natAbs))
    let k : Int := ((n - 62 : Nat) : Int)
    ((p.zip g).map (fun q => ((if q.1.o || q.1.z then 0 else jam q.2 k), q.1.o)), xh - 64 + k)

/-- The value of a record as an integer times 2^(x - 32); an empty record counts as 0 (R108). -/
def recScaled (p : Rec) : Int := if p.z then 0 else p.v * ((2 ^ 32 : Nat) : Int) + p.r

/-- Is the exact value of a below that of b (R108)? -/
def recLt (a b : Rec) : Bool :=
  let x := min a.x b.x
  decide (recScaled a * ((2 ^ (a.x - x).toNat : Nat) : Int) < recScaled b * ((2 ^ (b.x - x).toNat : Nat) : Int))

/-- A winner record (R109). -/
structure Winner where
  r   : Rec
  idx : Nat
  deriving DecidableEq, Repr

/-- The 24 bytes of a winner record (R109). -/
def winnerBytes (w : Winner) : List Byte := recBytes w.r ++ natLE 8 w.idx

/-- The winner record that 24 bytes spell (R109). -/
def winnerOfBytes (bs : List Byte) : Winner := ⟨recOfBytes (bs.take 16), leAt bs 16 8⟩

/-- The winner over an empty set (R108). -/
def Winner.none : Winner := ⟨Rec.empty, 2 ^ 64 - 1⟩

/-- The better of two candidates by R108; useMax for a maximum. -/
def winner (useMax : Bool) (a b : Winner) : Winner :=
  let i := a.r.i || b.r.i
  let pick : Winner :=
    if a.idx = 2 ^ 64 - 1 ∧ a.r.z then b
    else if b.idx = 2 ^ 64 - 1 ∧ b.r.z then a
    else if a.r.o && b.r.o then (if a.idx ≤ b.idx then a else b)
    else if a.r.o then a
    else if b.r.o then b
    else if (if useMax then recLt a.r b.r else recLt b.r a.r) then b
    else if (if useMax then recLt b.r a.r else recLt a.r b.r) then a
    else if a.idx ≤ b.idx then a else b
  ⟨{ pick.r with i := i }, pick.idx⟩

/-! ### Accumulator entries (R88 to R91, R94) -/

/-- Where an entry lives and in which format (R88). -/
inductive EntryFmt where
  | acc32 | acc16 | acc48 | grad
  deriving DecidableEq, Repr

/-- Integer width of an entry's D (R88). -/
def entryWidth : EntryFmt → Nat
  | .acc32 => 32
  | .acc16 => 16
  | .acc48 => 48
  | .grad => 48

/-- Fraction bits f of an entry (R88). -/
def entryFrac : EntryFmt → Nat
  | .acc16 => 8
  | _ => 32

/-- Entries per column (R88). -/
def entryCount : EntryFmt → Nat
  | .acc32 => 1024
  | .acc16 => 2048
  | .acc48 => 512
  | .grad => 1024

/-- The empty tag (R89). -/
def emptyTag : BitVec 48 := 0x100000100000#48

/-- A record from D, C (f bits), X and the flags of an entry (R94). -/
def recOfEntry (w f : Nat) (d c x : Nat) (o i z : Bool) : Rec :=
  ⟨sext w d, c * 2 ^ (32 - f), sext 10 x, o, i, z⟩

/-- The fields D, C, X and flags that a record narrows to (R94): width w, fraction f. -/
structure EntryBits where
  d : Nat
  c : Nat
  x : Nat
  o : Bool
  i : Bool
  z : Bool
  deriving DecidableEq, Repr

/-- Narrowing of a record to an entry (R94). The rule gives no bits for an exponent outside -512 to 511: the tag keeps it
modulo 2^10 (DESIGN CHOICE, notes/assumptions/36.md). -/
def narrow (w f : Nat) (p : Rec) : EntryBits :=
  ⟨wrapNat w p.v, p.r / 2 ^ (32 - f), wrapNat 10 p.x,
    p.o || decide (p.v < -((2 ^ (w - 1) : Nat) : Int)) || decide (((2 ^ (w - 1) : Nat) : Int) ≤ p.v),
    p.i || decide (p.r % 2 ^ (32 - f) ≠ 0), p.z⟩

/-- The tag of an acc32 or acc48 entry (R89). -/
def tag32 (b : EntryBits) : BitVec 48 :=
  BitVec.ofNat 48 (b.c % 2 ^ 32 + 2 ^ 32 * b.x + 2 ^ 42 * b2n b.o + 2 ^ 43 * b2n b.i + 2 ^ 44 * b2n b.z)

/-- Half a tag: an acc16 entry (R89). -/
def tag16 (b : EntryBits) : Nat :=
  b.c % 2 ^ 8 + 2 ^ 8 * b.x + 2 ^ 18 * b2n b.o + 2 ^ 19 * b2n b.i + 2 ^ 20 * b2n b.z

/-- Key of a word of a column in acc, accTag, grad and gradTag. -/
def accKey (w c : Nat) : Nat := 128 * w + c

/-- Entry e of column c as a record, in a format (R88, R89, R94). -/
def entryRec (x : Lantern) (k : EntryFmt) (e c : Nat) : Rec :=
  match k with
  | .acc32 =>
    let t := (tget emptyTag x.accTag (accKey e c)).toNat
    recOfEntry 32 32 (tget 0 x.acc (accKey e c)).toNat (bits t 31 0) (bits t 41 32) (bit t 42) (bit t 43) (bit t 44)
  | .acc16 =>
    let t := (tget emptyTag x.accTag (accKey (e / 2) c)).toNat / 2 ^ (24 * (e % 2))
    let d := (tget 0 x.acc (accKey (e / 2) c)).toNat / 2 ^ (16 * (e % 2))
    recOfEntry 16 8 (bits d 15 0) (bits t 7 0) (bits t 17 8) (bit t 18) (bit t 19) (bit t 20)
  | .acc48 =>
    let t := (tget emptyTag x.accTag (accKey (2 * e) c)).toNat
    let d := (tget 0 x.acc (accKey (2 * e) c)).toNat + 2 ^ 32 * bits (tget 0 x.acc (accKey (2 * e + 1) c)).toNat 15 0
    recOfEntry 48 32 d (bits t 31 0) (bits t 41 32) (bit t 42) (bit t 43) (bit t 44)
  | .grad =>
    let t := (tget emptyTag x.gradTag (accKey e c)).toNat
    recOfEntry 48 32 (tget 0 x.grad (accKey e c)).toNat (bits t 31 0) (bits t 41 32) (bit t 42) (bit t 43) (bit t 44)

/-- Replace bits [lo+n-1:lo] of a number. -/
def replaceBits (old lo n new : Nat) : Nat :=
  old % 2 ^ lo + new % 2 ^ n * 2 ^ lo + old / 2 ^ (lo + n) * 2 ^ (lo + n)

/-- Write an entry's bits in a format (R88, R89). -/
def putEntryBits (x : Lantern) (k : EntryFmt) (e c : Nat) (b : EntryBits) : Lantern :=
  match k with
  | .acc32 =>
    { x with acc := tput 0 x.acc (accKey e c) (BitVec.ofNat 32 b.d),
             accTag := tput emptyTag x.accTag (accKey e c) (tag32 b) }
  | .acc16 =>
    let key := accKey (e / 2) c
    let d := (tget 0 x.acc key).toNat
    let t := (tget emptyTag x.accTag key).toNat
    { x with acc := tput 0 x.acc key (BitVec.ofNat 32 (replaceBits d (16 * (e % 2)) 16 b.d)),
             accTag := tput emptyTag x.accTag key (BitVec.ofNat 48 (replaceBits t (24 * (e % 2)) 24 (tag16 b))) }
  | .acc48 =>
    let k0 := accKey (2 * e) c
    let k1 := accKey (2 * e + 1) c
    let top := bits b.d 47 32 + (if bit b.d 47 then 0xFFFF0000 else 0)
    { x with acc := tput 0 (tput 0 x.acc k0 (BitVec.ofNat 32 b.d)) k1 (BitVec.ofNat 32 top),
             accTag := tput emptyTag (tput emptyTag x.accTag k0 (tag32 b)) k1 0 }
  | .grad =>
    { x with grad := tput 0 x.grad (accKey e c) (BitVec.ofNat 48 b.d),
             gradTag := tput emptyTag x.gradTag (accKey e c) (tag32 b) }

/-- Write a record into an entry, narrowed (R94, R97, R101). -/
def putEntry (x : Lantern) (k : EntryFmt) (e c : Nat) (p : Rec) : Lantern :=
  putEntryBits x k e c (narrow (entryWidth k) (entryFrac k) p)

/-- Set an entry to empty (R78, R101). -/
def emptyEntry (x : Lantern) (k : EntryFmt) (e c : Nat) : Lantern :=
  putEntryBits x k e c ⟨0, 0, 0, false, false, true⟩

/-- The entry's new record when it absorbs a column sum (R97): the first of a pass with ACC_INIT
replaces it, any other adds. -/
def absorb (x : Lantern) (k : EntryFmt) (e c : Nat) (cs : Rec) (replace : Bool) : Lantern :=
  if replace then putEntry x k e c cs else putEntry x k e c (padd (entryRec x k e c) cs)

end Sys2Proof.Machine
end

