-- ==== Sys2Proof/Machine/Packet.lean ====
section
/-! DEFINITION. Machine/Packet.lean: cyclic redundancy checks, the bytes of a packet and of a control
flit, and the header checks (R261 to R266). -/

namespace Sys2Proof.Machine

/-! ### Cyclic redundancy checks -/

/-- n shifts of a w-bit CRC register, most significant bit first. -/
def crcShift (w poly : Nat) : Nat → Nat → Nat
  | 0, c => c
  | n + 1, c => crcShift w poly n (if bit c (w - 1) then (c * 2 % 2 ^ w) ^^^ poly else c * 2 % 2 ^ w)

/-- A CRC over bytes, most significant bit first, no reflection. -/
def crcBytes (w poly : Nat) (c : Nat) : List Byte → Nat
  | [] => c
  | b :: bs => crcBytes w poly (crcShift w poly 8 (c ^^^ (b.toNat * 2 ^ (w - 8)))) bs

/-- The CRC-16 of R266: polynomial 0x1021, initial value 0xFFFF. -/
def crc16 (bs : List Byte) : Nat := crcBytes 16 0x1021 0xFFFF bs

/-- The CRC-64 of R266: ECMA-182, initial value and final XOR all ones. -/
def crc64 (bs : List Byte) : Nat :=
  crcBytes 64 0x42F0E1EBA9EA3693 (2 ^ 64 - 1) bs ^^^ (2 ^ 64 - 1)

/-! ### Packets (R263 to R265) -/

/-- Packet types of R265 by code: class, sequenced, daymark kind. -/
def packetKind (typ : Nat) : Option (Nat × Bool × Nat) :=
  if typ = 0x01 then some (0, true, 1)
  else if typ = 0x02 then some (0, true, 1)
  else if typ = 0x03 then some (1, true, 2)
  else if typ = 0x04 then some (1, true, 2)
  else if typ = 0x08 then some (2, true, 1)
  else if typ = 0x09 then some (1, true, 1)
  else if typ = 0x0A then some (0, true, 0)
  else if typ = 0x10 then some (1, false, 0)
  else if typ = 0x11 then some (1, false, 0)
  else none

/-- The trailer of a stomped packet (R261). -/
def stompTrailer : Nat := 0x53544F4D53544F4D

/-- The 256-bit header as a number (R264). -/
def headerNat (p : Packet) : Nat :=
  p.typ % 2 ^ 8 + p.cls % 4 * 2 ^ 8 + b2n p.esc * 2 ^ 10 + b2n p.dl * 2 ^ 11 + b2n p.resent * 2 ^ 12 +
  b2n p.start * 2 ^ 13 + p.dmk % 4 * 2 ^ 14 + p.dest % 2 ^ 18 * 2 ^ 16 + p.src % 2 ^ 18 * 2 ^ 34 +
  p.payload.length % 2 ^ 12 * 2 ^ 52 + p.daymark % 2 ^ 32 * 2 ^ 64 + p.mooring % 2 ^ 16 * 2 ^ 96 +
  p.tag % 2 ^ 12 * 2 ^ 112 + p.seq % 2 ^ 32 * 2 ^ 124 + p.hops % 2 ^ 8 * 2 ^ 156 +
  p.rlen % 2 ^ 12 * 2 ^ 164 + p.hcrc % 2 ^ 16 * 2 ^ 176 + p.arg % 2 ^ 64 * 2 ^ 192

/-- The header check of a packet (R266): HCRC taken as zero. -/
def headerCrc (p : Packet) : Nat := crc16 (natLE 32 (headerNat { p with hcrc := 0 }))

/-- The CRC-64 of a packet (R266): the fields marked * of R264 taken as zero. -/
def packetCrc (p : Packet) : Nat :=
  crc64 (natLE 32 (headerNat { p with esc := false, dl := false, hops := 0, hcrc := 0 }) ++ p.payload)

/-- The packet with its header check computed anew. -/
def sealHeader (p : Packet) : Packet := { p with hcrc := headerCrc p }

/-- A packet as its source finishes it: HOPS 96, both checks (R264, R266). -/
def finishPacket (p : Packet) : Packet :=
  let q := { p with hops := 96, esc := false, dl := false }
  sealHeader { q with trailer := packetCrc q }

/-- A packet with nothing in it yet. -/
def Packet.blank : Packet :=
  ⟨0, 0, false, false, false, false, 0, 0, 0, 0, 0xFFFF, 0, 0, 96, 0, 0, 0, [], 0, 0, none⟩

/-- The packet of 32 header bytes, with a given payload and trailer (R264). The header gives the daymark of the requesting
domain no bits (notes/assumptions/17.md): a packet read from its bytes has DAYMARK in its place. -/
def packetOfHeader (h : Nat) (payload : List Byte) (trailer : Nat) : Packet :=
  { typ := bits h 7 0, cls := bits h 9 8, esc := bit h 10, dl := bit h 11, resent := bit h 12,
    start := bit h 13, dmk := bits h 15 14, dest := bits h 33 16, src := bits h 51 34,
    daymark := bits h 95 64, mooring := bits h 111 96, tag := bits h 123 112, seq := bits h 155 124,
    hops := bits h 163 156, rlen := bits h 175 164, hcrc := bits h 191 176, arg := bits h 255 192,
    payload := payload, trailer := trailer, domain := bits h 95 64, via := none }

/-- LEN of a packet from its first flit (R264). -/
def lenOf (bs : List Byte) : Nat := bits (leNat (bs.take 32)) 63 52

/-- The packet that header, payload and trailer bytes spell (R263, R264). -/
def packetOfBytes (bs : List Byte) : Packet :=
  packetOfHeader (leNat (bs.take 32)) ((bs.drop 32).take (lenOf bs)) (leAt bs (32 + lenOf bs) 8)

/-- The header of a packet whose payload has not come: a payload of LEN zeros stands for it (R266). -/
def headOf (flit : List Byte) : Packet :=
  packetOfHeader (leNat (flit.take 32)) (List.replicate (lenOf flit) 0) 0

/-- The bytes of a packet (R263). -/
def packetBytesOf (p : Packet) : List Byte := natLE 32 (headerNat p) ++ p.payload ++ natLE 8 p.trailer

/-- Flits of a packet with a payload of n bytes (R263). -/
def flitsOf (n : Nat) : Nat := (40 + n + 63) / 64

/-- Flit i of bytes, zero-padded to 64 (R263). -/
def flitAt (bs : List Byte) (i : Nat) : List Byte :=
  let f := (bs.drop (64 * i)).take 64
  f ++ List.replicate (64 - f.length) 0

/-- The flits of a packet with their SOP bits: set on the first (R256, R263). -/
def packetFlitsOf (p : Packet) : List (Bool × List Byte) :=
  (List.range (flitsOf p.payload.length)).map (fun i => (decide (i = 0), flitAt (packetBytesOf p) i))

/-! ### Control flits (R262) -/

/-- The 64 bytes of a control flit (R262). -/
def controlBytes (f : ControlFlit) : List Byte :=
  [f.on] ++ List.replicate 3 0 ++ natLE 4 f.cseq ++ natLE 8 (f.tx / 65536) ++ natLE 2 (f.tx % 65536) ++ List.replicate 2 0 ++
  natLE 4 f.ecseq ++ natLE 8 (f.erx / 65536) ++ natLE 2 (f.erx % 65536) ++ natLE 1 f.dist ++ [0] ++ natLE 4 (f.root % 2 ^ 18) ++
  List.replicate 24 0

/-- The control flit that 64 bytes spell (R262). -/
def controlOfBytes (bs : List Byte) : ControlFlit :=
  { on := bs.getD 0 0, cseq := leAt bs 4 4, tx := leAt bs 8 8 * 65536 + leAt bs 16 2, ecseq := leAt bs 20 4,
    erx := leAt bs 24 8 * 65536 + leAt bs 32 2, dist := leAt bs 34 1, root := leAt bs 36 4 % 2 ^ 18 }

/-- The per-hop checks of R265 and R266: none when the packet passes, else the drop counter
(0 header, 1 malformed) that counts it. -/
def headerDrop (p : Packet) : Option Nat :=
  if p.hcrc ≠ headerCrc p then some 0
  else match packetKind p.typ with
    | none => some 1
    | some (cls, _, dmk) =>
      if p.cls ≠ cls ∨ p.dmk ≠ dmk ∨ 2048 < p.payload.length ∨ p.payload.length % 8 ≠ 0 then some 0
      else none

/-- The virtual channel a packet travels on (R267). -/
def vcOf (p : Packet) : Nat := if p.esc then 6 + b2n p.dl else 2 * p.cls + b2n p.dl

end Sys2Proof.Machine
end

