-- ==== Sys2Proof/Machine/Fec.lean ====
section
/-! DEFINITION. Machine/Fec.lean: the codewords of a lane set: RS(544,514) over 10-bit symbols, the codeword header and
its ten flits, and the dealing of symbols over the lanes (R256, R261). R256 names the code by IEEE 802.3; the field
polynomial x^10 + x^3 + 1, the generator's roots and the order of symbols are taken from that standard (PRESUMED,
notes/assumptions/38.md). -/

namespace Sys2Proof.Machine

/-! ### The field of 1,024 elements -/

/-- Multiplication by x in GF(2^10), modulo x^10 + x^3 + 1. -/
def gfDouble (a : Nat) : Nat := if 512 ≤ a then (2 * a) ^^^ 1033 else 2 * a

/-- The product of a and the lowest n bits of b in GF(2^10). -/
def gfMulBits : Nat → Nat → Nat → Nat
  | 0, _, _ => 0
  | n + 1, a, b =>
    if a = 0 ∨ b = 0 then 0
    else
      let r := gfMulBits n (gfDouble a) (b / 2)
      if b % 2 = 1 then r ^^^ a else r

def gfMul (a b : Nat) : Nat := gfMulBits 10 a b

/-- a to the power of the lowest n bits of e. -/
def gfPowBits : Nat → Nat → Nat → Nat
  | 0, _, _ => 1
  | n + 1, a, e =>
    let r := gfPowBits n (gfMul a a) (e / 2)
    if e % 2 = 1 then gfMul r a else r

/-- The primitive element 2 to the power of e. -/
def gfExp (e : Nat) : Nat := gfPowBits 10 2 (e % 1023)

/-- The inverse of an element other than 0. -/
def gfInv (a : Nat) : Nat := gfPowBits 10 a 1022

/-- The value at x of the polynomial whose coefficients are listed from the lowest. -/
def polyAt (p : List Nat) (x : Nat) : Nat := p.foldr (fun c r => gfMul r x ^^^ c) 0

/-- The sum of two polynomials, lowest coefficient first. -/
def polyAdd (p q : List Nat) : List Nat :=
  (List.range (max p.length q.length)).map (fun i => p.getD i 0 ^^^ q.getD i 0)

/-- The first n coefficients of a product. -/
def polyMulMod (n : Nat) (p q : List Nat) : List Nat :=
  (List.range n).map (fun k => (List.range (k + 1)).foldl (fun r i => r ^^^ gfMul (p.getD i 0) (q.getD (k - i) 0)) 0)

/-! ### The code (R256) -/

/-- The parity symbols of a codeword. -/
def rsParity : Nat := 30

/-- The generator polynomial without its leading coefficient, highest first: the product of x + 2^j for j below 30. -/
def rsGenerator : List Nat :=
  ((List.range rsParity).foldl (fun g j => polyMulMod (g.length + 1) g [gfExp j, 1]) [1]).reverse.drop 1

/-- The codeword of 514 message symbols, first symbol first: the message, then the 30 parity symbols. -/
def rsEncode (m : List Nat) : List Nat :=
  let g := rsGenerator
  m ++ m.foldl (fun r x =>
    let f := x ^^^ r.getD 0 0
    if f = 0 then r.drop 1 ++ [0] else (List.range rsParity).map (fun i => r.getD (i + 1) 0 ^^^ gfMul f (g.getD i 0)))
    (List.replicate rsParity 0)

/-- The syndromes of 544 received symbols. -/
def rsSyndromes (c : List Nat) : List Nat :=
  (List.range rsParity).map (fun j => c.foldl (fun r x => gfMul r (gfExp j) ^^^ x) 0)

/-- The Berlekamp-Massey iteration: error locator, its predecessor, its length, the shift, the last discrepancy. -/
structure RsSearch where
  loc  : List Nat
  prev : List Nat
  len  : Nat
  gap  : Nat
  disc : Nat
  deriving DecidableEq, Repr

def rsSearchStep (syn : List Nat) (r : RsSearch) (k : Nat) : RsSearch :=
  let d := (List.range (r.len + 1)).foldl (fun a i => a ^^^ gfMul (r.loc.getD i 0) (if i ≤ k then syn.getD (k - i) 0 else 0)) 0
  if d = 0 then { r with gap := r.gap + 1 }
  else
    let f := gfMul d (gfInv r.disc)
    let loc := polyAdd r.loc (List.replicate r.gap 0 ++ r.prev.map (gfMul f))
    if 2 * r.len ≤ k then ⟨loc, r.loc, k + 1 - r.len, 1, d⟩ else { r with loc := loc, gap := r.gap + 1 }

/-- The error locator that the syndromes give. -/
def rsLocator (syn : List Nat) : RsSearch := (List.range rsParity).foldl (rsSearchStep syn) ⟨[1], [1], 0, 1, 1⟩

/-- The error at symbol k when the locator has a root there (Forney's formula). -/
def rsErrorAt (loc omega : List Nat) (k : Nat) : Nat :=
  let x := gfExp (543 - k)
  let y := gfInv x
  let slope := (List.range loc.length).foldl (fun r i => if i % 2 = 1 then r ^^^ gfMul (loc.getD i 0) (gfPowBits 10 y (i - 1)) else r) 0
  gfMul x (gfMul (polyAt omega y) (gfInv slope))

/-- The codeword within 15 symbols of 544 received ones, and the places corrected; none when there is none (R261). -/
def rsDecode (c : List Nat) : Option (List Nat × List Nat) :=
  let syn := rsSyndromes c
  if syn.all (· == 0) then some (c, [])
  else
    let r := rsLocator syn
    let at_ := (List.range 544).filter (fun k => decide (polyAt r.loc (gfInv (gfExp (543 - k))) = 0))
    let omega := polyMulMod rsParity syn r.loc
    let fixed := c.zipIdx.map (fun q => if at_.contains q.2 then q.1 ^^^ rsErrorAt r.loc omega q.2 else q.1)
    if r.len ≤ 15 ∧ at_.length = r.len ∧ (rsSyndromes fixed).all (· == 0) then some (fixed, at_) else none

/-! ### Header, flits and lanes (R256) -/

/-- The 20-bit codeword header: SOP, CWSEQ, and zero. -/
def codewordHeader (sop : BitVec 10) (cwseq : Nat) : Nat := sop.toNat + cwseq % 16 * 2 ^ 10

/-- n symbols of a number, lowest bits first. -/
def symbolsOf : Nat → Nat → List Nat
  | 0, _ => []
  | n + 1, w => w % 1024 :: symbolsOf n (w / 1024)

/-- The 514 message symbols: the header, then ten flits, flit 0 first. -/
def messageSymbols (sop : BitVec 10) (cwseq : Nat) (flits : List (List Byte)) : List Nat :=
  symbolsOf 514 (codewordHeader sop cwseq + leNat (flits.flatten.take 640) * 2 ^ 20)

/-- Symbols dealt round-robin over n lanes, from lane 0 on. -/
def dealSymbols (n : Nat) (c : List Nat) : List (List Nat) :=
  (List.range n).map (fun l => (c.zipIdx.filter (fun q => decide (q.2 % n = l))).map (·.1))

/-- The 544 symbols that lanes received, in the order in which they were dealt. -/
def gatherSymbols (lanes : List (List Nat)) : List Nat :=
  (List.range 544).map (fun k => (lanes.getD (k % max lanes.length 1) []).getD (k / max lanes.length 1) 0)

/-- The codeword that leaves, by lane (R256). -/
def codewordLanes (n : Nat) (sop : BitVec 10) (cwseq : Nat) (flits : List (List Byte)) : List (List Nat) :=
  dealSymbols n (rsEncode (messageSymbols sop cwseq flits))

/-- What a receiver has of a codeword after FEC decoding (R256, R261): first is the first active lane. -/
def receivedCodeword (first : Nat) (lanes : List (List Nat)) : Codeword :=
  match rsDecode (gatherSymbols lanes) with
  | none => ⟨false, [], 0, 0, []⟩
  | some (c, fixed) =>
    let w := (c.take 514).foldr (fun x r => x + 1024 * r) 0
    ⟨true,
      (List.range 16).map (fun l => (fixed.filter (fun k => decide (first + k % max lanes.length 1 = l))).length),
      BitVec.ofNat 10 (bits w 9 0), bits w 13 10,
      (List.range 10).map (fun i => natLE 64 (w / 2 ^ (20 + 512 * i) % 2 ^ 512))⟩

end Sys2Proof.Machine
end

