-- ==== Sys2Proof/Machine/Route.lean ====
section
/-! DEFINITION. Machine/Route.lean: the router's decision for a packet, its start on an output port, and
the source end of the end-to-end streams (R255, R267 to R280). -/

namespace Sys2Proof.Machine

/-- Advance a counter of a port (R285): cnt, or drops. -/
def bumpPort (s : State) (p i n : Nat) : State := modPort s p (fun x => { x with cnt := bump x.cnt i n })

def bumpDrop (s : State) (p i : Nat) : State := modPort s p (fun x => { x with drops := bump x.drops i 1 })

/-- Advance an end-to-end counter (R286). -/
def bumpEnd (s : State) (i n : Nat) : State := modRouter s (fun r => { r with cnt := bump r.cnt i n })

/-! ### Where a packet goes -/

/-- base_port of R273 over the axes from number a on: none means local. -/
def basePortFrom (a : Nat) : List Nat → List Nat → List Nat → Option Nat
  | c :: cs, d :: ds, n :: ns =>
    if c = d then basePortFrom (a + 1) cs ds ns
    else
      let n := max n 1
      let fwd := (d + n - c % n) % n
      if fwd ≤ n - fwd then some (2 * a) else some (2 * a + 1)
  | _, _, _ => none

/-- The port that dimension order gives a destination, none when it is this module (R273). -/
def basePort (s : State) (dest : Nat) : Option Nat :=
  basePortFrom 0 s.boot.coords (coordsOf dest) s.boot.sizes

/-- Is a port's link a dateline link (R273)? -/
def isDateline (s : State) (port : Nat) : Bool :=
  let a := port / 2
  let n := s.boot.sizes.getD a 1
  let c := s.boot.coords.getD a 0
  decide (1 < n) && (if port % 2 = 0 then decide (c = n - 1) else decide (c = 0))

/-- The default sidestep of a port (R275): the + port of the next axis with a size above 1. -/
def defaultSidestep (s : State) (port : Nat) : Option Nat :=
  let a := port / 2
  (([1, 2, 3].map (fun k => (a + k) % 4)).find? (fun b => decide (1 < s.boot.sizes.getD b 1))).map (2 * ·)

/-- Every node of the torus. -/
def allNodes (s : State) : List Nat :=
  let n (a : Nat) : List Nat := List.range (s.boot.sizes.getD a 1)
  (n 3).flatMap (fun z => (n 2).flatMap (fun y => (n 1).flatMap (fun x => (n 0).map (fun w => nodeOf [w, x, y, z]))))

/-- The bank of the light list in use (R276). -/
def lightList (s : State) : List BankEntry :=
  if s.router.active1 then s.router.bank1 else s.router.bank0

/-- Does a light-list entry decide a packet's hop (R274)? -/
def lightMatches (e : LightEntry) (base dest : Nat) : Bool :=
  (decide (e.action = 1) || decide (e.action = 2)) &&
  (decide (e.matchPort = 8) || decide (e.matchPort = base)) &&
  decide (Nat.land dest e.mask = e.value)

/-- The decision of R274 and the light-list entry that took it, if any. via is the port that the source gives a packet of
a ring of two (R295), in place of the tie rule of R273. An entry with ACTION 1 whose PORT is down makes the packet
unroutable: step 3 speaks of the port of step 2 only (DESIGN CHOICE, notes/assumptions/37.md). -/
def chooseHop (s : State) (dest : Nat) (via : Option Nat) : Hop × Option Nat :=
  match (basePort s dest).map (fun b => via.getD b) with
  | none => (.deliver, none)
  | some base =>
    match findIdx (fun b => lightMatches b.e base dest) (lightList s) with
    | some i =>
      let e := ((lightList s).getD i ⟨⟨0, 0, 0, 0, 0⟩, 0⟩).e
      if e.action = 2 then (.drop 3, some i)
      else if (portAt s e.port).up then (.out e.port true, some i)
      else (.drop 4, some i)
    | none =>
      if (portAt s base).up then (.out base false, none)
      else match defaultSidestep s base with
        | some q => if (portAt s q).up then (.out q true, none) else (.drop 4, none)
        | none => (.drop 4, none)

/-- HITS of the entry that decided (R275). -/
def countHit (s : State) (hit : Option Nat) : State :=
  match hit with
  | none => s
  | some i => modRouter s (fun r =>
      if r.active1 then { r with bank1 := r.bank1.modify i (fun b => { b with hits := b.hits + 1 }) }
      else { r with bank0 := r.bank0.modify i (fun b => { b with hits := b.hits + 1 }) })

/-- The packet as it leaves by a port (R273: hop_vc; R266: HCRC computed anew). -/
def leaveBy (s : State) (inAxis : Option Nat) (p : Packet) (out : Nat) (esc : Bool) : Packet :=
  let dl0 := if inAxis = some (out / 2) then p.dl else false
  let dl := dl0 || isDateline s out
  sealHeader { p with esc := p.esc || esc, dl := dl }

/-- May a packet start on a port and VC (R269): the next hop has the VC on, no packet is in mid-send on the port, and the
next codeword has room (R263: a packet is never interleaved with another)? -/
def mayStart (s : State) (port vc : Nat) : Bool :=
  let x := portAt s port
  x.up && x.peerOn.getLsbD vc && decide (x.txFlits.length < 10) && x.owner.isNone

/-- Can a tower not carry bridge traffic (R355): is it held in reset with a rail of its own faulted (R410)? What else
could stop it the spec does not say (DEDUCED, notes/assumptions/35.md). -/
def bridgeless (s : State) (t : Nat) : Bool :=
  s.boot.held.getD t false && [Rail.vcmp t, Rail.vsrm t].any (fun r => s.power.faulted.contains r)

/-- A path of R255 with a tower that carries no bridge traffic: path 0 leads by towers 0 and 2, path 1 by towers 1 and 3. -/
def pathCut (s : State) (k : Nat) : Bool := bridgeless s k || bridgeless s (k + 2)

/-- The path of a packet that turns between a north port (W, X) and a south port (Y, Z), by bit 0 of DEST (R255): 0 is
bridges N0, V02 and S2, 1 is bridges N1, V13 and S3. While a tower of that path cannot carry it, it takes the other (R355). -/
def crossPath (s : State) (inPort out dest : Nat) : Option Nat :=
  if inPort / 4 = out / 4 then none
  else
    let k := dest % 2
    some (if pathCut s k && !pathCut s (1 - k) then 1 - k else k)

/-- Count a packet on the path it turns by, if it turns (R8, R255). -/
def noteCross (s : State) (src : Option Nat) (out : Nat) (p : Packet) : State :=
  match src.bind (fun i => crossPath s i out p.dest) with
  | none => s
  | some k => modRouter s (fun r => { r with crossed := bump (bump r.crossed (2 * k) 1) (2 * k + 1) p.payload.length })

/-- A packet that a port sends is counted (R285). -/
def noteSent (s : State) (port : Nat) (p : Packet) : State :=
  modPort s port (fun x => { x with
    tx := x.tx ++ [p],
    cnt := bump (bump (bump x.cnt 2 1) 3 p.payload.length) 8 (b2n (decide (p.trailer = stompTrailer))) })

/-- Start a packet on a port: its flits join those that wait for the next codewords (R256, R269). src is the input port
it came by, none for a packet made here. -/
def sendBy (s : State) (src : Option Nat) (port : Nat) (p : Packet) : State :=
  noteCross (noteSent (modPort s port (fun x => { x with txFlits := x.txFlits ++ packetFlitsOf p })) port p) src port p

/-- Bytes that a packet takes on the wire. -/
def wireBytes (q : Packet) : Nat := 64 * flitsOf q.payload.length

/-- The quantum of a group (R271). -/
def quantum : Nat := 2112

/-- A port's arbitration after a packet of a group that alone was ready there: the groups passed keep no deficit, and the
packet's group pays from its deficit, or from its next quantum (R271). -/
def turnTo (x : Port) (g src n : Nat) : Port :=
  let own := x.deficit.getD g 0
  if g = x.turn ∧ n ≤ own then { x with deficit := setAt x.deficit g (own - n), lastIn := src }
  else
    let far (k : Nat) : Nat := (k + 4 - x.turn) % 4
    let reach := if g = x.turn then 4 else far g
    { x with
      turn := g
      deficit := (List.range 4).map (fun k =>
        if k = g then own + quantum - n else if far k < reach then 0 else x.deficit.getD k 0)
      lastIn := src }

/-- Does a packet made here wait for a port and VC? -/
def waitsAhead (s : State) (port vc : Nat) : Bool :=
  s.router.waiting.any (fun h => match h.hop with
    | .out o esc => decide (o = port) && decide (vcOf (leaveBy s none h.pkt o esc) = vc)
    | _ => false)

/-- A packet made on this module enters the router, its route chosen (R274): delivered, dropped, started, or left waiting
for its output (R269). -/
def inject (s : State) (p : Packet) : State :=
  let c := chooseHop s p.dest p.via
  let s1 := countHit s c.2
  match c.1 with
  | .deliver => modRouter s1 (fun r => { r with arrived := r.arrived ++ [p] })
  | .drop cause => bumpDrop s1 ((basePort s p.dest).getD 0) cause
  | .out o esc =>
    let q := leaveBy s none p o esc
    if mayStart s o (vcOf q) && !waitsAhead s o (vcOf q) then
      sendBy (modPort s1 o (fun x => turnTo x (vcOf q / 2) 8 (wireBytes q))) none o q
    else modRouter s1 (fun r => { r with waiting := r.waiting ++ [⟨p, .out o esc, false, 0, 0⟩] })

/-! ### Streams this module sends (R277 to R280) -/

/-- Bytes a packet takes in the resend store. -/
def packetBytes (p : Packet) : Nat := 40 + p.payload.length

/-- Bytes of a tower's resend store in use (R280). -/
def resendUsed (s : State) (tower : Nat) : Nat :=
  sumNat (s.router.src.map (fun st =>
    sumNat (st.unacked.map (fun q => if q.1 = tower then packetBytes q.2 else 0))))

/-- The size of a tower's resend store (R158, R280). -/
def resendSize : Nat := 8 * 2 ^ 20

def streamAt (s : State) (dest cls : Nat) : Option SrcStream :=
  s.router.src.find? (fun t => t.dest == dest && t.cls == cls)

def modStream (s : State) (dest cls : Nat) (f : SrcStream → SrcStream) : State :=
  modRouter s (fun r => { r with src := r.src.map (fun t => if t.dest = dest ∧ t.cls = cls then f t else t) })

/-- A stream just opened: its first packet carries START (R277). -/
def newStream (dest cls : Nat) : SrcStream :=
  ⟨dest, cls, 0, true, [], [], 0, 0⟩

/-- The stream to a destination exists. -/
def openStream (s : State) (dest cls : Nat) : State :=
  match streamAt s dest cls with
  | some _ => s
  | none => modRouter s (fun r => { r with src := r.src ++ [newStream dest cls] })

/-- May another packet of a stream leave (R280: at most 128 unacknowledged, room in the store)? -/
def mayCopy (s : State) (t : SrcStream) (tower : Nat) (p : Packet) : Bool :=
  decide (t.unacked.length < 128) && decide (resendUsed s tower + packetBytes p ≤ resendSize)

/-- Number a packet, copy it into the resend store and send it (R277, R280). -/
def emitSeq (s : State) (tower : Nat) (t : SrcStream) (p : Packet) : State :=
  let q := finishPacket { p with seq := t.next, start := t.fresh, resent := false }
  let s1 := modStream s t.dest t.cls (fun x =>
    { x with next := (t.next + 1) % 2 ^ 32, fresh := false, unacked := x.unacked ++ [(tower, q)] })
  let s2 := modRouter s1 (fun r => { r with
    resendMark := r.resendMark.modify tower (fun m => max m (resendUsed s1 tower)) })
  inject (bumpEnd s2 0 1) q

/-- Send a sequenced packet (R277, R280); a packet over the limit is held back. -/
def sendSeq (s : State) (tower : Nat) (p : Packet) : State :=
  let p := { p with src := selfNode s }
  let s1 := openStream s p.dest p.cls
  match streamAt s1 p.dest p.cls with
  | none => s1
  | some t =>
    if t.held.isEmpty && mayCopy s1 t tower p then emitSeq s1 tower t p
    else modStream s1 p.dest p.cls (fun x => { x with held := x.held ++ [(tower, p)] })

/-- Send the packets that a stream holds back, as far as the limits allow (R280). -/
def releaseHeld (dest cls : Nat) : Nat → State → State
  | 0, s => s
  | n + 1, s =>
    match streamAt s dest cls with
    | none => s
    | some t =>
      match t.held with
      | [] => s
      | (tower, p) :: rest =>
        if mayCopy s t tower p then
          releaseHeld dest cls n (emitSeq (modStream s dest cls (fun x => { x with held := rest })) tower t p)
        else s

/-- Room in a store, or in a stream, lets every stream send what it holds back (R280), in the order in which the streams
were opened. -/
def releaseAll (s : State) : State :=
  s.router.src.foldl (fun s t => releaseHeld t.dest t.cls t.held.length s) s

/-- Send several sequenced packets in order. -/
def sendAll (s : State) (tower : Nat) : List Packet → State
  | [] => s
  | p :: ps => sendAll (sendSeq s tower p) tower ps

/-- The node of carrier peer w (R19), after the redirects of R365. -/
def peerNode (s : State) (w : Nat) : Nat :=
  let n := nodeOf (w :: s.boot.coords.drop 1)
  match s.router.redirect.find? (fun r => r.1 == n) with
  | some r => r.2
  | none => n

/-- Send a Keeper-to-Keeper message to a node other than this one (R265). The spec gives the payload no
layout: the packet carries none, and what it says is kept beside it in out.kmsg. -/
def tellNode (s : State) (dest : Nat) (m : KeeperMsg) : State :=
  if dest = selfNode s then s
  else
    let s1 := { s with out := { s.out with kmsg := s.out.kmsg ++ [(dest, m)] } }
    sendSeq s1 0 { Packet.blank with typ := 0x0A, cls := 0, dest := dest }

/-- Send a message to each of several nodes. -/
def tellNodes (s : State) (m : KeeperMsg) : List Nat → State
  | [] => s
  | n :: ns => tellNodes (tellNode s n m) m ns

end Sys2Proof.Machine
end

