-- ==== Sys2Proof/Machine/Graph.lean ====
section
/-! DEFINITION. Machine/Graph.lean: the channel dependency graph of the escape VCs over the torus, as a Keeper computes it
from the light lists it knows of (R273, R274, R276). -/

namespace Sys2Proof.Machine

/-- The node that a port of a node leads to (R273). -/
def nodeBeyond (sizes : List Nat) (n port : Nat) : Nat :=
  let a := port / 2
  let k := max (sizes.getD a 1) 1
  let c := (coordsOf n).getD a 0
  nodeOf (setAt (coordsOf n) a (if port % 2 = 0 then (c + 1) % k else (c + k - 1) % k))

/-- Is a port of a node a dateline link (R273)? -/
def datelineOf (sizes : List Nat) (n port : Nat) : Bool :=
  let k := sizes.getD (port / 2) 1
  let c := (coordsOf n).getD (port / 2) 0
  decide (1 < k) && (if port % 2 = 0 then decide (c = k - 1) else decide (c = 0))

/-- The port by which a packet for a destination leaves a node, and whether a light list turns it aside; none when it is
delivered or dropped there (R273, R274). -/
def hopAt (sizes : List Nat) (lists : List (Nat × List LightEntry)) (n dest : Nat) : Option (Nat × Bool) :=
  match basePortFrom 0 (coordsOf n) (coordsOf dest) sizes with
  | none => none
  | some base =>
    match ((lists.find? (fun l => l.1 == n)).map (·.2)).getD [] |>.find? (fun e => lightMatches e base dest) with
    | none => some (base, false)
    | some e => if e.action = 2 then none else some (e.port, true)

/-- A channel of the escape VCs: node, port, dateline state. -/
def channelOf (n port : Nat) (dl : Bool) : Nat := n * 16 + port * 2 + b2n dl

/-- The dependencies of a packet on the escape VCs, from the channel it holds on: at most n more hops. -/
def escapeWalk (sizes : List Nat) (lists : List (Nat × List LightEntry)) (dest : Nat) : Nat → Nat → Nat → Bool → List (Nat × Nat)
  | 0, _, _, _ => []
  | k + 1, n, port, dl =>
    let m := nodeBeyond sizes n port
    match hopAt sizes lists m dest with
    | none => []
    | some (q, _) =>
      let dl1 := (if q / 2 = port / 2 then dl else false) || datelineOf sizes m q
      (channelOf n port dl, channelOf m q dl1) :: escapeWalk sizes lists dest k m q dl1

/-- The dependencies of every packet that a light list turns aside: from each node that has a list, to each destination,
with either dateline state in which it may have come, over the 96 hops of HOPS. -/
def escapeEdges (sizes : List Nat) (lists : List (Nat × List LightEntry)) (dests : List Nat) : List (Nat × Nat) :=
  (lists.flatMap (fun l => dests.flatMap (fun d =>
    match hopAt sizes lists l.1 d with
    | some (p, true) => [false, true].flatMap (fun b => escapeWalk sizes lists d 96 l.1 p (b || datelineOf sizes l.1 p))
    | _ => []))).eraseDups

/-- The dependencies whose first channel depends on no other taken away, n times. -/
def peelEdges : Nat → List (Nat × Nat) → List (Nat × Nat)
  | 0, es => es
  | n + 1, es => peelEdges n (es.filter (fun e => es.any (fun f => f.2 == e.1)))

/-- Does a set of entries leave the graph of the escape VCs free of cycles, with the lists of the other modules that the
Keeper knows (R276)? -/
def escapeAcyclic (s : State) (entries : List LightEntry) (known : List (Nat × List LightEntry)) : Bool :=
  let es := escapeEdges s.boot.sizes ((selfNode s, entries) :: known.filter (fun l => l.1 != selfNode s)) (allNodes s)
  (peelEdges es.length es).isEmpty

end Sys2Proof.Machine
end

