-- ==== Sys2Proof/Machine/Mem.lean ====
section
/-! DEFINITION. Machine/Mem.lean: module addresses and their checks, reads and writes of the module's
memories, poison and host windows (R12, R13, R18 to R23, R111, R143). -/

namespace Sys2Proof.Machine

/-! ### Addresses (R18, R20) -/

/-- Regions of R20. -/
inductive Region where
  | lpddr | sram | store | acc | keeper
  deriving DecidableEq, Repr

/-- The region of a local address, bits [55:0]. -/
def regionOf (a : Nat) : Option Region :=
  match bits a 55 48 with
  | 0x00 => some .lpddr
  | 0x10 => some .sram
  | 0x20 => some .store
  | 0x30 => some .acc
  | 0x40 => some .keeper
  | _ => none

/-- The local address of an offset in a region. -/
def localAddr (region off : Nat) : Nat := region * 2 ^ 48 + off

/-- The local address of an offset in a lantern's store (R20). -/
def storeAddr (l off : Nat) : Nat := localAddr 0x20 (l * 2 ^ 40 + off)

/-- Check 5 of R22 for an access of n bytes at a local address: every byte lies in the region's valid
range. The range of region 0x40 is set by the firmware; the model lets it be the whole offset field
(notes/assumptions/10.md). -/
def inRange (r : Region) (a n : Nat) : Bool :=
  let off := bits a 47 0
  match r with
  | .lpddr => decide (off + n ≤ 0xC000000000)
  | .sram => decide (off + n ≤ 0x300000000)
  | .store => decide (bits off 47 40 < 192) && decide (off % 2 ^ 40 + n ≤ 0x400000)
  | .acc => decide (bits off 47 40 < 192) &&
      (let o := off % 2 ^ 40
       decide (o + n ≤ 0x80000) || (decide (0x100000 ≤ o) && decide (o + n ≤ 0x100000 + 0xC0000)))
  | .keeper => decide (off + n ≤ 2 ^ 40)

/-- The context an access is issued in (R22, R23, R370). -/
inductive Ctx where
  | priv
  | lantern (l : Nat)
  | shore (c : Nat)
  deriving DecidableEq, Repr

/-- Does a window cover n bytes at a local address; viaW is the W coordinate when the access was named
through a carrier-peer address (R23)? A W range whose last coordinate lies below its first wraps past the end of the
axis. -/
def windowCovers (a n : Nat) (viaW : Option Nat) (isPeer : Bool) : Window → Bool
  | .span base len => !isPeer && decide (base ≤ a) && decide (a + n ≤ base + len)
  | .stores first last => !isPeer && decide (regionOf a = some .store) &&
      decide (first ≤ bits a 47 40) && decide (bits a 47 40 ≤ last)
  | .peer w lo hi => (match viaW with
      | some x => (if lo ≤ hi then decide (lo ≤ x) && decide (x ≤ hi) else decide (lo ≤ x) || decide (x ≤ hi)) &&
          windowCovers a n none false w
      | none => false)

/-- Check 9 of R22. -/
def windowOk (s : State) (ctx : Ctx) (a n : Nat) (viaW : Option Nat) (isPeer : Bool) : Bool :=
  match ctx with
  | .priv => true
  | .lantern l =>
    ((lanternAt s l).windows.any (windowCovers a n viaW isPeer)) ||
      (!isPeer && decide (regionOf a = some .store) && decide (bits a 47 40 = l))
  | .shore c => !isPeer && ((s.shore.getD c ShoreCore.reset).maps.any
      (fun m => decide (m.1 ≤ a) && decide (a + n ≤ m.1 + m.2)))

/-- What an address names (R18, R19). -/
inductive Target where
  | mem (a : Nat)
  | peer (w a : Nat)
  | host (win off : Nat)
  deriving DecidableEq, Repr

/-- Is a lantern index that of an enabled logical lantern (R11)? -/
def enabledLantern (s : State) (l : Nat) : Bool := (lanternAt s l).phys.isSome

/-- Checks 4 to 9 of R22 for a local address; the checks that depend on the peer's own state (6, 7)
are made by the peer. -/
def localOk (s : State) (ctx : Ctx) (a n : Nat) (viaW : Option Nat) (isPeer : Bool) : Bool :=
  match regionOf a with
  | none => false
  | some r =>
    inRange r a n &&
    (isPeer || !(r == .store || r == .acc) || enabledLantern s (bits a 47 40)) &&
    (isPeer || !(r == .acc) || s.keeper.debug) &&
    (!(r == .keeper) || decide (ctx = .priv)) &&
    windowOk s ctx a n viaW isPeer

/-- The checks of R22 for an access of n bytes, in order: what it names, or none for an address error. -/
def checkAddr (s : State) (ctx : Ctx) (addr n : Nat) (write : Bool) : Option Target :=
  if 2 ^ 64 ≤ addr then none
  else
    let a := bits addr 55 0
    match bits addr 63 61 with
    | 0 => if bits addr 60 56 = 0 ∧ localOk s ctx a n none false then some (.mem a) else none
    | 1 =>
      let w := bits addr 60 58
      if bits addr 57 56 ≠ 0 ∨ s.boot.sizes.getD 0 1 ≤ w then none
      else if w = s.boot.coords.getD 0 0 then
        (if localOk s ctx a n (some w) false then some (.mem a) else none)
      else if localOk s ctx a n (some w) true then some (.peer w a) else none
    | 7 =>
      let idx := bits addr 55 48
      let off := bits addr 47 0
      if bits addr 60 56 ≠ 0 ∨ ctx ≠ .priv then none
      else match s.keeper.hwins.find? (fun h => h.idx == idx) with
        | none => none
        | some h => if off + n ≤ h.len ∧ (if write then h.wr else h.rd) then some (.host idx off) else none
    | _ => none

/-! ### Poison (R143) -/

/-- The 64-byte line of an address. -/
def lineOf (a : Nat) : Nat := a - a % 64

/-- The lines that n bytes at an address touch. -/
def linesOf (a n : Nat) : List Nat :=
  if n = 0 then [] else (List.range ((lineOf (a + n - 1) - lineOf a) / 64 + 1)).map (fun i => lineOf a + 64 * i)

/-- Does a read of n bytes at a local address meet a poisoned line? -/
def isPoisoned (s : State) (a n : Nat) : Bool :=
  s.poison.any (fun p => decide (lineOf a ≤ p) && decide (p < a + n))

/-- Mark a line poisoned. -/
def addPoison (s : State) (line : Nat) : State := { s with poison := insertAsc s.poison (lineOf line) }

/-! ### Reads and writes -/

/-- A byte of region 0x30: the accumulator data arrays of a lantern (R111). -/
def accByte (x : Lantern) (o : Nat) : Byte :=
  if o < 0x80000 then
    BitVec.ofNat 8 ((tget 0 x.acc (accKey (o / 512) (o % 512 / 4))).toNat / 256 ^ (o % 4))
  else
    let g := o - 0x100000
    BitVec.ofNat 8 ((tget 0 x.grad (accKey (g / 768) (g % 768 / 6))).toNat / 256 ^ (g % 6))

/-- One byte at a local address. -/
def readByte (s : State) (a : Nat) : Byte :=
  if bits a 55 48 = 0x30 then accByte (lanternAt s (bits a 47 40)) (a % 2 ^ 40) else byteAt s.mem a

/-- n bytes from a local address. -/
def readMem (s : State) (a : Nat) : Nat → List Byte
  | 0 => []
  | n + 1 => readByte s a :: readMem s (a + 1) n

/-- Write bytes at a local address, one 64-byte piece at a time: a piece that covers part of a poisoned
line is dropped and the line stays poisoned; a whole line clears its poison (R143). -/
def writeLine (s : State) (line a : Nat) (bs : List Byte) : State :=
  let lo := max line a
  let hi := min (line + 64) (a + bs.length)
  if s.poison.contains line ∧ ¬ (lo = line ∧ hi = line + 64) then s
  else { s with
    mem := setBytes s.mem lo ((bs.drop (lo - a)).take (hi - lo)),
    poison := s.poison.filter (· != line) }

def writeLines (s : State) (a : Nat) (bs : List Byte) : List Nat → State
  | [] => s
  | l :: ls => writeLines (writeLine s l a bs) a bs ls

/-- Write bytes at a local address. Writes to region 0x30 are ignored, and counted for the physical function unless a
command's function is known (R111, R406). -/
def writeMem (s : State) (a : Nat) (bs : List Byte) : State :=
  if bits a 55 48 = 0x30 then modKeeper s (fun k => { k with debugWrites := bump k.debugWrites 0 1 })
  else writeLines s a bs (linesOf a bs.length)

/-- Is any line that a write touches poisoned and only partly written (POISON_WRITE of R188)? -/
def partialPoison (s : State) (a n : Nat) : Bool :=
  (linesOf a n).any (fun l => s.poison.contains l && !(decide (a ≤ l) && decide (l + 64 ≤ a + n)))

/-- Clear a range of local addresses to zero, poison included. -/
def clearMem (s : State) (lo hi : Nat) : State :=
  { s with mem := tclear s.mem lo hi,
           poison := s.poison.filter (fun p => decide (p < lo) || decide (hi ≤ p)) }

/-- Of the cells of a write that fails, those of the 64-byte lines that hold new data: which lines do is open (R187). -/
def openLines (cells : List (Nat × Byte)) : List Nat → State → List (Nat × Byte) × State
  | [], s => ([], s)
  | l :: ls, s =>
    let d := drawFree s
    let r := openLines cells ls d.2
    ((if d.1.getLsbD 0 then cells.filter (fun c => decide (lineOf c.1 = l)) else []) ++ r.1, r.2)

/-- The cells of a failed write that are new, each 64-byte line wholly new or wholly old (R187). -/
def openCells (s : State) (cells : List (Nat × Byte)) : List (Nat × Byte) × State :=
  openLines cells ((cells.map (fun c => lineOf c.1)).foldl insertAsc []) s

/-! ### Host memory -/

/-- A byte of host memory: what the module or the host's driver wrote last, else the free value of
Config (notes/assumptions/3.md). -/
def hostByteAt (s : State) (a : Nat) : Byte :=
  match s.host.find? (fun c => c.1 == a) with
  | some c => c.2
  | none => Config.hostByte a

def hostRead (s : State) (a : Nat) : Nat → List Byte
  | 0 => []
  | n + 1 => hostByteAt s a :: hostRead s (a + 1) n

/-- A byte put into the list of written host bytes, keys rising. -/
def hostPut : Memory → Nat → Byte → Memory
  | [], a, b => [(a, b)]
  | (k, v) :: t, a, b =>
    if a < k then (a, b) :: (k, v) :: t else if k = a then (a, b) :: t else (k, v) :: hostPut t a b

def hostPuts (m : Memory) (a : Nat) : List Byte → Memory
  | [] => m
  | b :: bs => hostPuts (hostPut m a b) (a + 1) bs

def hostWrite (s : State) (a : Nat) (bs : List Byte) : State := { s with host := hostPuts s.host a bs }

/-- The host window of an index. -/
def hwinAt (s : State) (idx : Nat) : Option HWin := s.keeper.hwins.find? (fun h => h.idx == idx)

/-- May accesses go through a host window: the owner's Bus Master Enable is set, the PCIe function is
not in reset (R471)? -/
def hostUp (s : State) (owner : Nat) : Bool := (funcAt s owner).bme && !s.boot.perst

/-- Why a transfer went bad (causes of R188 used here). -/
def causeAddress : Nat := 1
def causePoison : Nat := 2
def causePoisonWrite : Nat := 3
def causeHost : Nat := 4
def causePeer : Nat := 5

/-! ### Carrier peers (R19, R281) -/

/-- Daymark of a mooring, 0 when it is not open here. -/
def mooringDaymark (s : State) (id : Nat) : Nat := ((mooringAt s id).map (·.daymark)).getD 0

/-- The current daymark of a domain. -/
def domainDaymark (s : State) : Domain → Nat
  | .lantern l => (lanternAt s l).daymark
  | .tower t => (towerAt s t).daymark
  | .shore c => (s.shore.getD c ShoreCore.reset).daymark
  | .keeper => s.keeper.daymark
  | .mooring id => mooringDaymark s id

/-- The packets that an access of n bytes at an address is split into: at line boundaries, at most 2,048
bytes each (R281). -/
def peerPieces : Nat → Nat → Nat → List (Nat × Nat)
  | 0, _, _ => []
  | fuel + 1, a, n =>
    if n = 0 then []
    else
      let k := min n (2048 - a % 64)
      (a, k) :: peerPieces fuel (a + k) (n - k)

/-- A tag that no outstanding request holds (R264: 12 bits). -/
def freshTag (s : State) : Nat :=
  (((List.range 4096).map (fun i => (s.router.nextTag + i) % 4096)).find?
    (fun t => s.router.reqs.all (fun r => r.tag != t))).getD (s.router.nextTag % 4096)

/-- Note an outstanding request. -/
def noteReq (s : State) (tag len : Nat) (who : PeerFor) (dom : Domain) : State :=
  modRouter s (fun r => { r with
    nextTag := (tag + 1) % 4096, reqs := r.reqs ++ [⟨tag, len, who, dom⟩] })

/-- Ask a carrier peer for n bytes at its local address: LEN and RLEN count whole 8-byte words (R264), so the
words that cover the bytes are asked for. -/
def peerRead (s : State) (tower mooring : Nat) (dom : Domain) (w a n : Nat) (who : PeerFor) : State × Nat :=
  let tag := freshTag s
  let lo := a - a % 8
  let len := (a + n - lo + 7) / 8 * 8
  let s1 := noteReq s tag len who dom
  (sendSeq s1 tower { Packet.blank with
    typ := 0x02, cls := 0, dmk := 1, dest := peerNode s w, daymark := mooringDaymark s mooring,
    mooring := mooring, tag := tag, rlen := len, arg := lo, domain := domainDaymark s dom }, tag)

/-- n bytes that the spec leaves open. -/
def freeBytes : Nat → State → List Byte × State
  | 0, s => ([], s)
  | n + 1, s =>
    let d := drawFree s
    let r := freeBytes n d.2
    ((d.1.setWidth 8) :: r.1, r.2)

/-- Write bytes at a carrier peer's local address. LEN counts whole 8-byte words (R264); what the bytes beside
the access in its first and last word become at the target is open (notes/assumptions/15.md). -/
def peerWrite (s : State) (tower mooring : Nat) (dom : Domain) (w a : Nat) (bs : List Byte) (who : PeerFor) :
    State × Nat :=
  let tag := freshTag s
  let f := freeBytes (a % 8) s
  let b := freeBytes ((8 - (a + bs.length) % 8) % 8) f.2
  let s1 := noteReq b.2 tag bs.length who dom
  (sendSeq s1 tower { Packet.blank with
    typ := 0x01, cls := 0, dmk := 1, dest := peerNode s w, daymark := mooringDaymark s mooring,
    mooring := mooring, tag := tag, arg := a - a % 8, payload := f.1 ++ bs ++ b.1, domain := domainDaymark s dom }, tag)

/-- Ask for several pieces in order: the state and the tags. -/
def peerReads (s : State) (tower mooring : Nat) (dom : Domain) (w : Nat) (who : Nat → PeerFor) :
    List (Nat × Nat) → State × List Nat
  | [] => (s, [])
  | p :: ps =>
    let r := peerRead s tower mooring dom w p.1 p.2 (who p.1)
    let t := peerReads r.1 tower mooring dom w who ps
    (t.1, r.2 :: t.2)

/-- Write several pieces of a run of bytes in order; base is the address of the first byte. -/
def peerWrites (s : State) (tower mooring : Nat) (dom : Domain) (w base : Nat) (bs : List Byte) (who : Nat → PeerFor) :
    List (Nat × Nat) → State × List Nat
  | [] => (s, [])
  | p :: ps =>
    let r := peerWrite s tower mooring dom w p.1 ((bs.drop (p.1 - base)).take p.2) (who p.1)
    let t := peerWrites r.1 tower mooring dom w base bs who ps
    (t.1, r.2 :: t.2)

/-! ### The Keeper's own accesses (R19, R22) -/

/-- Privileged read of n bytes at a module address by the Keeper for a command: the bytes, or a cause of R188. What lies at
a carrier peer is not read at once: readThen asks for it. -/
def keeperRead (s : State) (addr n : Nat) : Except Nat (List Byte) :=
  match checkAddr s .priv addr n false with
  | none => .error causeAddress
  | some (.mem a) => if isPoisoned s a n then .error causePoison else .ok (readMem s a n)
  | some (.peer _ _) => .error causePeer
  | some (.host idx off) =>
    match hwinAt s idx with
    | none => .error causeAddress
    | some h => if hostUp s h.owner then .ok (hostRead s (h.addr + off) n) else .error causeHost

/-- A write to region 0x30 is ignored and counted for its function (R111, R406). -/
def countDebug (s : State) (f : Nat) : State :=
  modKeeper s (fun k => { k with debugWrites := bump k.debugWrites f 1 })

/-- Privileged write by the Keeper for a function's command: the state after, or a cause of R188. Writes at a carrier peer
are sent; their PEER_DONEs are not awaited (notes/assumptions/15.md). -/
def keeperWrite (s : State) (f addr : Nat) (bs : List Byte) : Except Nat State :=
  match checkAddr s .priv addr bs.length true with
  | none => .error causeAddress
  | some (.mem a) => .ok (if bits a 55 48 = 0x30 then countDebug s f else writeMem s a bs)
  | some (.peer w a) => .ok (peerWrites s 0 0xFFFF .keeper w a bs (fun _ => .keeper 0 0 0) (peerPieces (bs.length + 1) a bs.length)).1
  | some (.host idx off) =>
    match hwinAt s idx with
    | none => .error causeAddress
    | some h => if hostUp s h.owner then .ok (hostWrite s (h.addr + off) bs) else .error causeHost

end Sys2Proof.Machine
end

