-- ==== Sys2Proof/Machine/Queues.lean ====
section
/-! DEFINITION. Machine/Queues.lean: completion and event queues, interrupts, completion records and
events (R190 to R194, R384 to R389, R399 to R403). -/

namespace Sys2Proof.Machine

/-! ### Interrupts (R194, R385, R402) -/

/-- Is a vector masked in a function's MSI-X table (R393)? -/
def vectorMasked (f : Func) (v : Nat) : Bool := (byteAt f.msixTable (16 * v + 12)).getLsbD 0

/-- Raise vector v of a function: INT_STATUS always (R402); the message when the function is a PCIe
function, may master the bus and the vector is not masked (R393, R471); a masked vector is pending. -/
def raiseVector (s : State) (f v : Nat) : State :=
  let x := funcAt s f
  let s1 := modFunc s f (fun y => { y with intStatus := y.intStatus ||| (1#64 <<< v) })
  if 32 ≤ f ∨ 64 ≤ v then s1
  else if vectorMasked x v then modFunc s1 f (fun y => { y with pba := y.pba ||| (1#64 <<< v) })
  else if hostUp s f then { s1 with out := { s1.out with msix := s1.out.msix ++ [(f, v)] } }
  else s1

/-! ### Rings (R192, R193) -/

/-- The number of slots of a queue's ring (R192). -/
def ringSize (q : Queue) : Nat := 2 ^ q.log2n

/-- Is there a slot for another record (R192: P - C < 2^n)? -/
def ringRoom (q : Queue) : Bool := decide ((q.prod + 2 ^ 32 - q.head) % 2 ^ 32 < ringSize q)

/-- A record with the PHASE of producer count P (R192). -/
def withPhase (rec n p : Nat) : Nat :=
  replaceBits rec 127 1 (1 - p / 2 ^ n % 2)

/-- Write one record into the ring, if its memory can be reached (R192, R471); then count it and raise
the vector when moderation says so (R385). -/
def ringWrite (s : State) (f qi : Nat) (rec : Nat) : Option State :=
  let q := queueAt s f qi
  match keeperWrite s f (q.base + 32 * (q.prod % ringSize q)) (natLE 32 (withPhase rec q.log2n q.prod)) with
  | .error _ => none
  | .ok s1 =>
    let s2 := modQueue s1 f qi (fun x => { x with prod := (x.prod + 1) % 2 ^ 32, unannounced := x.unannounced + 1 })
    if q.modTime = 0 ∨ q.modCount ≤ q.unannounced + 1 then
      some (raiseVector (modQueue s2 f qi (fun x => { x with unannounced := 0 })) f q.vector)
    else some s2

/-- An event record (R387), PHASE clear. -/
def eventNat (node : Nat) (e : Event) : Nat :=
  e.time % 2 ^ 64 + e.code % 2 ^ 16 * 2 ^ 64 + e.mooring % 2 ^ 16 * 2 ^ 80 + node % 2 ^ 18 * 2 ^ 96 +
  e.step % 2 ^ 48 * 2 ^ 128 + e.unit % 2 ^ 16 * 2 ^ 176 + e.daymark % 2 ^ 32 * 2 ^ 192 +
  e.detail % 2 ^ 32 * 2 ^ 224

/-- The events-lost event of a queue (R389); its record goes into the event log too (R387). -/
def lostEvent (s : State) (q : Queue) : Event :=
  ⟨q.lostTime, 0x0050, 0xFFFF, selfNode s, 0, 0, s.keeper.daymark, min q.lost (2 ^ 32 - 1), []⟩

/-- Move records from staging into the ring while there is room; first the events-lost record, when
events were discarded (R193, R389). -/
def drainQueue : Nat → State → Nat → Nat → State
  | 0, s, _, _ => s
  | n + 1, s, f, qi =>
    let q := queueAt s f qi
    if !ringRoom q then s
    else if 0 < q.lost then
      match ringWrite s f qi (eventNat (selfNode s) (lostEvent s q)) with
      | none => s
      | some s1 => drainQueue n (modQueue (modFlash s1 (fun y => { y with log := y.log ++ [lostEvent s q], written := y.written + 32 })) f qi
          (fun x => { x with lost := 0 })) f qi
    else match q.staged with
      | [] => s
      | rec :: rest =>
        match ringWrite s f qi rec.toNat with
        | none => s
        | some s1 => drainQueue n (modQueue s1 f qi (fun x => { x with staged := rest })) f qi

/-- Move what can move. -/
def flushQueue (s : State) (f qi : Nat) : State :=
  let q := queueAt s f qi
  if q.bound then drainQueue (q.staged.length + 1) s f qi else s

/-- Move what can move in every queue of a function. -/
def flushFunc (s : State) (f : Nat) : State :=
  (List.range 16).foldl (fun s q => flushQueue s f q) s

/-! ### Completion records (R191) -/

/-- A completion record (R191), PHASE clear. -/
def completionNat (tag opcode status flags mooring step daymark detail : Nat) : Nat :=
  tag % 2 ^ 64 + opcode % 2 ^ 16 * 2 ^ 64 + status % 2 ^ 8 * 2 ^ 80 + flags % 2 ^ 16 * 2 ^ 88 +
  mooring % 2 ^ 16 * 2 ^ 104 + step % 2 ^ 48 * 2 ^ 128 + daymark % 2 ^ 32 * 2 ^ 192 +
  min detail (2 ^ 32 - 1) * 2 ^ 224

/-- Is queue q of function f bound as a completion queue (R384)? -/
def completionBound (s : State) (f q : Nat) : Bool := (queueAt s f q).bound && !(queueAt s f q).event

/-- Accept a completion record into a queue's record order (R190, R193): no record is lost. Beyond the 4,096 that staging
holds, the records of commands accepted before it was full wait in order for their place in it (DESIGN CHOICE,
notes/assumptions/37.md). -/
def postRecord (s : State) (f q : Nat) (tag : Option Nat) (rec : Nat) : State :=
  if completionBound s f q then
    let s1 := modQueue s f q (fun x => { x with staged := x.staged ++ [BitVec.ofNat 256 rec] })
    flushQueue (modFunc s1 f (fun x => { x with reported := (tag :: x.reported).take 65536 })) f q
  else s

/-- The outstanding long command of a function with a tag (R391). -/
def opAt (s : State) (f tag : Nat) : Option LongOp :=
  s.keeper.ops.find? (fun o => o.func == f && o.tag == tag)

def dropOp (s : State) (f tag : Nat) : State :=
  modKeeper s (fun k => { k with ops := k.ops.filter (fun o => !(o.func == f && o.tag == tag)) })

def modOp (s : State) (f tag : Nat) (g : LongOp → LongOp) : State :=
  modKeeper s (fun k => { k with ops := k.ops.map (fun o => if o.func = f ∧ o.tag = tag then g o else o) })

/-- An operation's one report (R190): its completion record, after which it is no longer outstanding. The report of a
command that another module forwarded goes back to that module (R316). -/
def finishOp (s : State) (f tag status flags detail : Nat) : State :=
  match opAt s f tag with
  | none => s
  | some o =>
    let dm := mooringDaymark s (o.opened.getD o.mooring)
    let s1 := dropOp s f tag
    if 64 ≤ f then tellNode s1 (f / 64 - 1) (.forwardAnswer (f % 64) tag status flags detail dm)
    else postRecord s1 f o.cq (some tag) (completionNat tag o.opcode status flags o.mooring 0 dm detail)

/-- The mooring that an accepted command has opened: its record carries that mooring's daymark (R191). -/
def nameOpened (s : State) (f tag id : Nat) : State := modOp s f tag (fun o => { o with opened := some id })

/-- A step record of a RUN_STEPS (R386), or its way to the module that forwarded the command. -/
def stepRecord (s : State) (o : LongOp) (status flags step : Nat) : State :=
  let dm := mooringDaymark s o.mooring
  if 64 ≤ o.func then tellNode s (o.func / 64 - 1) (.forwardStep (o.func % 64) o.tag status flags step dm)
  else postRecord s o.func o.cq none (completionNat o.tag 0x0031 status flags o.mooring step dm 0)

/-- A step record, and the report, of a command that an anchor runs for this module (R316). -/
def forwardedStep (s : State) (f tag status flags step dm : Nat) : State :=
  match opAt s f tag with
  | none => s
  | some o =>
    let s1 := modOp s f tag (fun q => { q with units := q.units + (if status = 0 then 1 else 0) })
    postRecord s1 f o.cq none (completionNat tag 0x0031 status flags o.mooring step dm 0)

def forwardedEnd (s : State) (f tag status flags detail dm : Nat) : State :=
  match opAt s f tag with
  | none => s
  | some o =>
    postRecord (dropOp s f tag) f o.cq (some tag) (completionNat tag o.opcode status flags o.mooring 0 dm detail)

/-- Room in completion staging is told to the anchors that were told there is none (R193). -/
def tellRoom (s : State) (f : Nat) : State :=
  (s.keeper.ops.filter (fun o => o.func == f && o.paused.isSome && decide ((queueAt s f o.cq).staged.length < 4096))).foldl
    (fun s o => tellNode (modOp s f o.tag (fun q => { q with paused := none })) (o.paused.getD 0) (.stagingRoom f o.tag)) s

/-- The anchor at a node learns that staging is full here for a run it has in hand (R193). -/
def tellFull (s : State) (f tag node : Nat) : State :=
  match opAt s f tag with
  | none => s
  | some o =>
    if o.paused.isSome ∨ (queueAt s f o.cq).staged.length < 4096 then s
    else tellNode (modOp s f tag (fun q => { q with paused := some node })) node (.stagingFull f tag)

/-! ### Events (R387 to R389) -/

/-- Put an event into one event queue of a function: staged, or discarded and counted when staging is
full (R389). -/
def postEventTo (s : State) (f q : Nat) (e : Event) : State :=
  let x := queueAt s f q
  if 4096 ≤ x.staged.length then
    modQueue s f q (fun y => { y with lost := y.lost + 1, lostTime := if y.lost = 0 then e.time else y.lostTime })
  else
    flushQueue (modQueue s f q (fun y => { y with
      staged := y.staged ++ [BitVec.ofNat 256 (eventNat e.node e)] })) f q

/-- The event queues of a function. -/
def eventQueues (s : State) (f : Nat) : List Nat :=
  (List.range 16).filter (fun q => (queueAt s f q).bound && (queueAt s f q).event)

/-- Put an event into every event queue of a function; without one it is counted (R388). -/
def postEvent (s : State) (f : Nat) (e : Event) : State :=
  match eventQueues s f with
  | [] => modFunc s f (fun x => { x with unheard := x.unheard + 1 })
  | qs => qs.foldl (fun s q => postEventTo s f q e) s

/-- Event codes of R388. -/
def evLensDescriptor : Nat := 0x0001
def evResidue : Nat := 0x0002
def evEcc : Nat := 0x0003
def evAddress : Nat := 0x0004
def evDma : Nat := 0x0005
def evFog : Nat := 0x0006
def evReset : Nat := 0x0007
def evSelfTest : Nat := 0x0008
def evRepair : Nat := 0x0009
def evRouterOnly : Nat := 0x000A
def evRestart : Nat := 0x000B
def evVerdictLate : Nat := 0x0010
def evFloor : Nat := 0x0011
def evStepMismatch : Nat := 0x0012
def evSingular : Nat := 0x0013
def evTruncation : Nat := 0x0014
def evRerun : Nat := 0x0015
def evMemberLost : Nat := 0x0016
def evLightship : Nat := 0x0017
def evRoute : Nat := 0x0020
def evPeer : Nat := 0x0021
def evTime : Nat := 0x0022
def evLink : Nat := 0x0023
def evFlash : Nat := 0x0030
def evObjectLost : Nat := 0x0031
def evPower : Nat := 0x0040
def evThermal : Nat := 0x0041

/-- Deliver an event of mooring scope to the owner's queues and the PF's, or carry it to the owner's
node (R388). -/
def deliverEvent (s : State) (e : Event) (owner : Option (Nat × Nat)) : State :=
  let s1 := postEvent s 0 e
  match owner with
  | none => s1
  | some (node, f) =>
    if node = selfNode s then (if f = 0 then s1 else postEvent s1 f e)
    else tellNode s1 node (.event e.code e.mooring e.node e.unit e.detail e.time e.step e.daymark f)

/-- Raise an event of a domain (R387, R388): always into the flash log, and into the queues its scope names. An
event with a mooring has scope M and that mooring's daymark; one outside a mooring has scope P and the domain's. -/
def raiseEventIn (s : State) (dom : Domain) (code : Nat) (mooring : Option Nat) (unit detail : Nat) (more : List Nat) : State :=
  let m := mooring.bind (mooringAt s)
  let e : Event := ⟨nowNs s, code, mooring.getD 0xFFFF, selfNode s, (m.map (·.step)).getD 0, unit,
    (m.map (·.daymark)).getD (domainDaymark s dom), detail, more⟩
  let s1 := modFlash s (fun x => { x with log := x.log ++ [e], written := x.written + 32 })
  deliverEvent s1 e (m.map (fun y => (y.ownerNode, y.ownerFunc)))

/-- An event that the Keeper's domain raises where no mooring does. -/
def raiseEventMore (s : State) (code : Nat) (mooring : Option Nat) (unit detail : Nat) (more : List Nat) : State :=
  raiseEventIn s .keeper code mooring unit detail more

/-- An event without a longer description. -/
def raiseEvent (s : State) (code : Nat) (mooring : Option Nat) (unit detail : Nat) : State :=
  raiseEventMore s code mooring unit detail []

/-- Raise an event of scope P that names a mooring only to report it (R388). -/
def raiseEventP (s : State) (code : Nat) (unit detail : Nat) : State := raiseEvent s code none unit detail

/-- The mooring whose work a lantern runs (R154). -/
def lanternMooring (s : State) (l : Nat) : Option Nat := (lanternAt s l).mooring

/-- An event of a lantern: of its mooring, or outside one of its own domain (R387). -/
def lanternEvent (s : State) (code l unit detail : Nat) (more : List Nat) : State :=
  raiseEventIn s (.lantern l) code (lanternMooring s l) unit detail more

/-- Set a lantern's fault flag, which enters the verdict of its step (R212). -/
def setFault (s : State) (l : Nat) : State := modLantern s l (fun x => { x with fault := true })

end Sys2Proof.Machine
end

