-- ==== Sys2Proof/Machine/Keeper.lean ====
section
/-! DEFINITION. Machine/Keeper.lean: how the Keeper takes a request and answers it: seals, checks, responses
and long commands (R369 to R383, R390 to R392, R407). -/

namespace Sys2Proof.Machine

/-! ### Status codes (R383) -/

def stSuccess : Nat := 0x00
def stAccepted : Nat := 0x01
def stAlreadyComplete : Nat := 0x02
def stAborted : Nat := 0x03
def stUnknownTag : Nat := 0x04
def stTimedOut : Nat := 0x05
def stBadHeader : Nat := 0x10
def stBadOpcode : Nat := 0x11
def stField : Nat := 0x12
def stPrivilege : Nat := 0x13
def stNoMooring : Nat := 0x14
def stBusy : Nat := 0x15
def stNotReady : Nat := 0x16
def stQueueFull : Nat := 0x17
def stNoQueue : Nat := 0x18
def stDebugConflict : Nat := 0x19
def stBundleRefused : Nat := 0x20
def stSignature : Nat := 0x21
def stPlacement : Nat := 0x22
def stWearBudget : Nat := 0x23
def stFlashReadonly : Nat := 0x24
def stObjectLost : Nat := 0x25
def stNotCommitted : Nat := 0x26
def stStepSkipped : Nat := 0x30
def stReplayLimit : Nat := 0x31
def stFloor : Nat := 0x32
def stStepWrap : Nat := 0x33
def stStateLost : Nat := 0x34
def stFault : Nat := 0x35
def stOutOfService : Nat := 0x36
def stRestarted : Nat := 0x37

/-! ### Commands (R372, R380, R382) -/

/-- Privilege classes (R372); G is TELEMETRY_READ's, the class of the group it reads (R381). -/
inductive CmdClass where
  | A | T | O | D | G
  deriving DecidableEq, Repr

/-- A row of R380: class, whether the command is long, whether early light accepts it (R382). -/
structure CmdInfo where
  cls   : CmdClass
  long  : Bool
  early : Bool
  deriving DecidableEq, Repr

/-- The command table of R380 with the list of R382. -/
def cmdInfo (op : Nat) : Option CmdInfo :=
  if op = 0x0001 then some ⟨.A, false, true⟩
  else if op = 0x0002 then some ⟨.A, false, true⟩
  else if op = 0x0003 then some ⟨.A, false, true⟩
  else if op = 0x0004 then some ⟨.A, false, true⟩
  else if op = 0x0005 then some ⟨.A, false, true⟩
  else if op = 0x0006 then some ⟨.A, false, true⟩
  else if op = 0x0007 then some ⟨.A, false, true⟩
  else if op = 0x0010 then some ⟨.A, true, true⟩
  else if op = 0x0011 then some ⟨.A, false, false⟩
  else if op = 0x0012 then some ⟨.A, true, false⟩
  else if op = 0x0020 then some ⟨.A, true, true⟩
  else if op = 0x0021 then some ⟨.O, true, false⟩
  else if op = 0x0022 then some ⟨.O, true, false⟩
  else if op = 0x0023 then some ⟨.O, true, false⟩
  else if op = 0x0024 then some ⟨.O, true, false⟩
  else if op = 0x0025 then some ⟨.T, true, true⟩
  else if op = 0x0026 then some ⟨.T, false, false⟩
  else if op = 0x0030 then some ⟨.T, true, true⟩
  else if op = 0x0040 then some ⟨.T, true, false⟩
  else if op = 0x0041 then some ⟨.T, true, false⟩
  else if op = 0x0042 then some ⟨.T, true, false⟩
  else if op = 0x0043 then some ⟨.T, true, false⟩
  else if op = 0x0044 then some ⟨.T, false, false⟩
  else if op = 0x0050 then some ⟨.T, true, false⟩
  else if op = 0x0051 then some ⟨.T, false, false⟩
  else if op = 0x0060 then some ⟨.O, true, true⟩
  else if op = 0x0061 then some ⟨.O, true, false⟩
  else if op = 0x0062 then some ⟨.O, false, false⟩
  else if op = 0x0063 then some ⟨.O, false, false⟩
  else if op = 0x0064 then some ⟨.O, false, false⟩
  else if op = 0x0070 then some ⟨.G, false, true⟩
  else if op = 0x0071 then some ⟨.O, true, false⟩
  else if op = 0x0080 then some ⟨.O, false, false⟩
  else if op = 0x0090 then some ⟨.A, false, true⟩
  else if op = 0x0091 then some ⟨.O, true, false⟩
  else if op = 0x0092 then some ⟨.O, true, false⟩
  else if op = 0x00A0 then some ⟨.O, false, false⟩
  else if op = 0x00A1 then some ⟨.D, false, false⟩
  else none

/-- May a function post a class T command for a mooring (R372): the PF; the owner; a shore function only for the mooring its
core is lent to? -/
def mayPostT (s : State) (f : Nat) (m : Mooring) : Bool :=
  decide (f = 0) ||
  (if 32 ≤ f then decide ((s.shore.getD (f - 32) ShoreCore.reset).lent = some m.desc.id)
   else decide (m.ownerNode = selfNode s) && decide (m.ownerFunc = f))

/-- The privilege check of one class (R372), after the mooring is known to be open for class T. -/
def classOk (s : State) (f : Nat) (cls : CmdClass) (mooring : Nat) : Bool :=
  match cls with
  | .A => true
  | .G => true
  | .O => decide (f = 0)
  | .D => decide (f = 0) && s.keeper.debug
  | .T => match mooringAt s mooring with
    | none => false
    | some m => mayPostT s f m

/-- Is every tag of a long command of the function outstanding no more (R391)? -/
def tagFree (s : State) (f tag : Nat) : Bool := (opAt s f tag).isNone

/-- Is the configured torus geometry larger than the Keeper accepts (R3)? -/
def oversize (s : State) : Bool := decide (65536 < s.boot.sizes.foldl (· * ·) 1)

/-- The checks every command meets before its own (R372, R374, R377, R382, R384, R391, R193): the status
that refuses it, or none. The order is the model's (notes/assumptions/12.md). -/
def commandCheck (s : State) (f : Nat) (r : Request) : Option Nat :=
  if !r.ok then some stBadHeader
  else match cmdInfo r.opcode with
    | none => some stBadOpcode
    | some c =>
      if s.boot.state = 1 ∧ !c.early then some stNotReady
      else if s.boot.state = 3 ∧ !(c.cls == .O || c.cls == .G || (c.cls == .A && r.opcode != 0x0020)) then
        some stOutOfService
      else if r.opcode = 0x0020 ∧ oversize s then some stOutOfService
      else if c.cls = .T ∧ (mooringAt s r.mooring).isNone then some stNoMooring
      else if !classOk s f c.cls r.mooring then some stPrivilege
      else if c.long then
        if !completionBound s f r.cq then some stNoQueue
        else if 4096 ≤ (queueAt s f r.cq).staged.length then some stQueueFull
        else if !tagFree s f r.tag then some stField
        else none
      else none

/-! ### Responses (R373, R378) -/

/-- The response header (R378). -/
def responseHeader (seq opcode status tag reslen outlen detail : Nat) : List Byte :=
  natLE 4 seq ++ natLE 2 opcode ++ natLE 1 status ++ [0] ++ natLE 8 tag ++ natLE 4 reslen ++
  natLE 4 outlen ++ natLE 8 detail

/-- Bytes as the body of a mailbox slot. -/
def slotOf (bs : List Byte) : Memory := setBytes [] 0 bs

/-- Write the response of a request and seal it (R373, R378): the result's first 4,056 bytes in the slot; a
longer one goes whole to the OUT buffer as far as OUTLEN allows. RIRQ raises vector 0 (R374). -/
def answer (s : State) (m : Mbox) (r : Request) (status : Nat) (result : List Byte) (detail : Nat) : State :=
  let part := result.take 4056
  let w : State × Nat :=
    if 4056 < result.length ∧ r.out ≠ 0 then
      let bs := result.take r.outlen
      match keeperWrite s m.func r.out bs with
      | .ok s1 => (s1, bs.length)
      | .error _ => (s, 0)
    else (s, 0)
  let s1 := modMbox w.1 m (fun x => { x with
    respBody := slotOf (responseHeader r.seq r.opcode status r.tag part.length w.2 detail ++ part),
    respSeq := r.seq, respLen := part.length, req := none })
  let s2 := if status = stPrivilege then modFunc s1 m.func (fun x => { x with privRef := x.privRef + 1 }) else s1
  if r.rirq then raiseVector s2 m.func 0 else s2

/-! ### Taking a seal (R375, R377, R407) -/

/-- The request that a slot's body and a seal spell (R373 to R375). -/
def requestOf (x : Mailbox) (sw : Nat) : Request :=
  let h := bytesAt x.reqBody 0 64
  let arglen := leAt h 4 2
  let opcode := leAt h 0 2
  { opcode := opcode, rirq := bit (leAt h 3 1) 0, arglen := arglen, cq := leAt h 6 1, tag := leAt h 8 8,
    mooring := leAt h 16 2, deadline := leAt h 20 4, out := leAt h 24 8, outlen := leAt h 32 4,
    seq := bits sw 31 0,
    ok := decide (bits sw 47 32 = arglen) && decide (bits sw 63 48 = opcode ^^^ 0xA5A5) &&
      decide (leAt h 2 1 = 1) && decide (leAt h 3 1 < 2) && decide (leAt h 7 1 = 0) &&
      decide (leAt h 18 2 = 0) && decide (leNat (h.drop 36) = 0) && decide (arglen ≤ 4024) &&
      decide (arglen % 8 = 0),
    serial := 0,
    args := bytesAt x.reqBody 64 (min arglen 4024) }

/-- The Keeper takes a seal (R377): ignored and counted as lost while a request is pending or when SEQ is
not the next; else accepted, and answered at once when the header is bad or the opcode unknown. -/
def takeSeal (s : State) (m : Mbox) (sw : Nat) : State :=
  let x := mboxAt s m
  if x.req.isSome ∨ bits sw 31 0 ≠ (x.lastSeq + 1) % 2 ^ 32 then
    modFunc s m.func (fun y => { y with lostSeals := y.lostSeals + 1 })
  else
    let r := { requestOf x sw with serial := s.keeper.serial }
    let s1 := modMbox (modKeeper s (fun k => { k with serial := k.serial + 1 })) m (fun y =>
      { y with lastSeq := r.seq, req := some r, unseen := false })
    if !r.ok then answer s1 m r stBadHeader [] 0
    else if (cmdInfo r.opcode).isNone then answer s1 m r stBadOpcode [] 0
    else s1

/-- May the Keeper examine mailboxes (R407)? -/
def keeperExamines (s : State) : Bool := s.boot.keeperUp && decide (s.boot.state ≠ 0)

/-- A seal word is written (R377, R407): taken at once, or kept until the Keeper examines. -/
def writeSeal (s : State) (m : Mbox) (sw : Nat) : State :=
  let s1 := modMbox s m (fun y => { y with reqSeal := sw })
  if keeperExamines s then takeSeal s1 m sw else modMbox s1 m (fun y => { y with unseen := true })

/-- Examine one mailbox: act on its last seal (R407). -/
def examineBox (s : State) (m : Mbox) : State :=
  if (mboxAt s m).unseen then takeSeal (modMbox s m (fun y => { y with unseen := false })) m (mboxAt s m).reqSeal
  else s

/-- Examine every request slot once (R407). -/
def examineAll (s : State) : State :=
  (List.range 44).foldl (fun s f => (List.range 4).foldl (fun s k => examineBox s ⟨f, k⟩) s) s

/-! ### The shape of a command's meaning -/

/-- The mooring that a request names (R390): in its header, or in the descriptor of an open. -/
def requestMooring (r : Request) : Option Nat :=
  if r.opcode = 0x0020 then some (leNat (r.args.take 2))
  else if 0x0021 ≤ r.opcode ∧ r.opcode ≤ 0x0024 ∨ (cmdInfo r.opcode).map (·.cls) = some .T then some r.mooring
  else none

/-- Is no earlier request on the same mooring still to start (R390)? One that has gone to the mooring's anchor has started. -/
def firstInLine (s : State) (r : Request) : Bool :=
  match requestMooring r with
  | none => true
  | some id => s.funcs.zipIdx.all (fun f => f.1.mbox.zipIdx.all (fun x => match x.1.req with
      | none => true
      | some q => decide (r.serial ≤ q.serial) || decide (requestMooring q ≠ some id) ||
          s.keeper.forwards.contains (⟨f.2, x.2⟩, q.tag)))

/-- Run a command: on the request of a mailbox whose opcode is op. A request that the shared checks
refuse is answered with their status; else act gives the state after. With no such request, while one before it on the
same mooring is still to start (R390), or while the firmware is not running, nothing happens (notes/assumptions/6.md). -/
def runCommand (s : State) (m : Mbox) (op : Nat) (act : Request → State → State) : State :=
  match (mboxAt s m).req with
  | none => s
  | some r =>
    if r.opcode ≠ op ∨ !keeperExamines s ∨ !firstInLine s r then s
    else match commandCheck s m.func r with
      | some st => answer s m r st [] 0
      | none => act r s

/-- Answer a request with a status and nothing else. -/
def refuse (m : Mbox) (r : Request) (status : Nat) (s : State) : State := answer s m r status [] 0

/-- A long command as its request is accepted (R380). -/
def opOf (m : Mbox) (r : Request) (kind : OpKind) : LongOp :=
  { func := m.func, tag := r.tag, opcode := r.opcode, cq := r.cq, mooring := r.mooring, out := r.out,
    outlen := r.outlen, deadline := r.deadline, kind := kind, units := 0, flags := 0, opened := none, ending := none, paused := none }

/-- Accept a long command (R380): the response says so and the operation is outstanding. -/
def acceptLong (s : State) (m : Mbox) (r : Request) (kind : OpKind) : State :=
  modKeeper (answer s m r stAccepted [] 0) (fun k => { k with ops := k.ops ++ [opOf m r kind] })

/-- A long command that is accepted and ends in the same step: its response, its effect, its record. -/
def longAtOnce (s : State) (m : Mbox) (r : Request) (status flags detail : Nat) (effect : State → State) : State :=
  finishOp (effect (acceptLong s m r .forwarded)) m.func r.tag status flags detail

/-- Results are packed in 64-bit little-endian words (notes/assumptions/7.md). -/
def words (l : List Nat) : List Byte := (l.map (natLE 8)).flatten

/-- The anchor of a mooring: the acting anchor, else the module at index (0, 0, 0, 0) (R316, R363). -/
def originNode (d : MDesc) : Nat := nodeOf (d.axes.map (·.origin))

end Sys2Proof.Machine
end

