-- ==== Sys2Proof/Machine/Registers.lean ====
section
/-! DEFINITION. Machine/Registers.lean: writes of the directly accessed registers, moderation, the enables of
PCIe functions, and the commands over queues and host windows (R4, R5, R380, R384, R385, R393 to R407,
R471). -/

namespace Sys2Proof.Machine

/-! ### Who can reach the registers -/

/-- Does an access by a function reach its register block: Memory Space Enable set, the VF enabled and the
PCIe controller out of reset (R471, R397); a shore function while its core runs a guest (R396)? -/
def barReaches (s : State) (f : Nat) : Bool :=
  if f < 32 then (funcAt s f).mse && !s.boot.perst && (decide (f = 0) || (funcAt s f).present)
  else decide (f < 44) && (s.shore.getD (f - 32) ShoreCore.reset).running

/-- Count a view access of R5. -/
def countView (s : State) (f : Nat) : State := modFunc s f (fun x => { x with viewAcc := x.viewAcc + 1 })

/-! ### HEAD (R400) -/

/-- A write of HEAD: accepted when it does not pass the producer, else BADHEAD; ignored while unbound.
An accepted head lets staged records move (R193). -/
def writeHead (s : State) (f q v : Nat) : State :=
  let x := queueAt s f q
  if !x.bound then s
  else if (v + 2 ^ 32 - x.head) % 2 ^ 32 ≤ (x.prod + 2 ^ 32 - x.head) % 2 ^ 32 then
    tellRoom (flushQueue (modQueue s f q (fun y => { y with head := v })) f q) f
  else modQueue s f q (fun y => { y with badHead := true })

/-- QUEUE_HEAD_WRITE (R400). -/
def execQueueHeadWrite (func q value : Nat) (s : State) : Host.Outcome State Fault Refusal :=
  .next (if barReaches s func then writeHead s func q (value % 2 ^ 32) else s)

/-! ### INT_STATUS (R402, R403) -/

/-- Clear bits of INT_STATUS. -/
def clearStatus (s : State) (f : Nat) (v : BitVec 64) : State :=
  modFunc s f (fun x => { x with intStatus := x.intStatus &&& ~~~v })

/-- Raise every vector of a set, in ascending order. -/
def raiseSet (s : State) (f : Nat) (v : BitVec 64) : State :=
  (List.range 64).foldl (fun s k => if v.getLsbD k then raiseVector s f k else s) s

/-- INT_STATUS_CLEAR (R403): ones clear bits; a vector the Keeper raises in the same gc stays set. -/
def execIntStatusClear (func : Nat) (value raised : BitVec 64) (s : State) : Host.Outcome State Fault Refusal :=
  .next (raiseSet (if barReaches s func then clearStatus s func value else s) func raised)

/-! ### Other registers -/

/-- Send the messages of vectors that are pending and no longer masked (R393). -/
def sendUnmasked (s : State) (f : Nat) : State :=
  (List.range 64).foldl (fun s v =>
    let x := funcAt s f
    if x.pba.getLsbD v && !vectorMasked x v && hostUp s f then
      modFunc { s with out := { s.out with msix := s.out.msix ++ [(f, v)] } } f
        (fun y => { y with pba := y.pba &&& ~~~(1#64 <<< v) })
    else s) s

/-- The bytes of a write that fall in [lo, hi) of an address range, with the address of the first. -/
def clipWrite (a : Nat) (bs : List Byte) (lo hi : Nat) : Nat × List Byte :=
  (max a lo, (bs.drop (lo - a)).take (hi - max a lo))

/-- A write in a mailbox (R398): the request body, and the seal word, whose write hands the request over;
the response half is read-only. -/
def writeMailbox (s : State) (f off : Nat) (bs : List Byte) : State :=
  let k := off / 0x2000
  let o := off % 0x2000
  let body := clipWrite o bs 0 0xFF8
  let sw := clipWrite o bs 0xFF8 0x1000
  let m : Mbox := ⟨f, k⟩
  let s1 := modMbox s m (fun x => { x with reqBody := setBytes x.reqBody body.1 body.2 })
  if sw.2.isEmpty then s1
  else
    let old := natLE 8 (mboxAt s1 m).reqSeal
    let i := sw.1 - 0xFF8
    writeSeal s1 m (leNat (old.take i ++ sw.2 ++ old.drop (i + sw.2.length)))

/-- A write in a queue's register block (R399): HEAD and BADHEAD only. -/
def writeQueueReg (s : State) (f off : Nat) (bs : List Byte) : State :=
  let q := (off - 0x8000) / 0x40
  let o := (off - 0x8000) % 0x40
  if o = 0x18 then writeHead s f q (leNat (bs.take 4))
  else if o = 0x20 ∧ bit (leNat bs) 0 then modQueue s f q (fun x => { x with badHead := false })
  else s

/-- A write in the function block (R402): INT_STATUS only. -/
def writeFuncReg (s : State) (f off : Nat) (bs : List Byte) : State :=
  let o := off - 0x9000
  if o < 8 then clearStatus s f (BitVec.ofNat 64 (leNat bs * 2 ^ (8 * o))) else s

/-- A write outside the mailboxes in the function layout, aligned and of 4 or 8 bytes (R393, R394). -/
def writeLayout (s : State) (f off : Nat) (bs : List Byte) : State :=
  if off < 0x8400 then writeQueueReg s f off bs
  else if 0x9000 ≤ off ∧ off < 0x9020 then writeFuncReg s f off bs
  else if 0xB000 ≤ off ∧ off < 0xB020 ∧ f ≠ 0 then countView s f
  else if 0xC000 ≤ off ∧ off < 0xC400 ∧ f < 32 then
    sendUnmasked (modFunc s f (fun x => { x with msixTable := setBytes x.msixTable (off - 0xC000) bs })) f
  else s

/-- The register blocks of the function layout outside the mailboxes (R393). -/
def registerBlocks : List (Nat × Nat) :=
  [(0x8000, 0x8400), (0x9000, 0x9020), (0xA000, 0xA120), (0xB000, 0xB020), (0xC000, 0xC400), (0xD000, 0xD008)]

/-- Do n bytes from an offset on reach a register block (R394)? -/
def inRegisterBlock (off n : Nat) : Bool := registerBlocks.any (fun b => decide (b.1 < off + n) && decide (off < b.2))

/-- Where a shore function's register block stands, in guest-physical addresses (R396). -/
def shoreBlock : Nat := 0x10000000

/-- A shore core meets an access fault (R370). -/
def shoreFault (s : State) (core addr : Nat) : State :=
  modShore s core (fun x => { x with faults := addr :: x.faults })

/-- A register write by a function at an offset of its BAR (R4, R5, R393 to R399). -/
def writeReg (s : State) (f off : Nat) (bs : List Byte) : State :=
  if 0x10000 ≤ off then
    if 32 ≤ f then shoreFault s (f - 32) (shoreBlock + off)
    else if f = 0 ∧ 0x200000 ≤ off ∧ off < 0x3F0000 then countView s 0
    else s
  else if off < 0x8000 then writeMailbox s f off (bs.take (0x2000 - off % 0x2000))
  else if (bs.length = 4 ∨ bs.length = 8) ∧ off % bs.length = 0 then writeLayout s f off bs
  else if inRegisterBlock off bs.length then countView s f
  else s

/-- REGISTER_WRITE (R4, R394, R398). -/
def execRegisterWrite (func offset : Nat) (data : List Byte) (s : State) : Host.Outcome State Fault Refusal :=
  .next (if barReaches s func then writeReg s func offset data else s)

/-- MODERATION_TIMER (R385): MOD_TIME has passed since the oldest unannounced record. -/
def execModerationTimer (func q : Nat) (s : State) : Host.Outcome State Fault Refusal :=
  let x := queueAt s func q
  .next (if x.bound ∧ 0 < x.unannounced then
      raiseVector (modQueue s func q (fun y => { y with unannounced := 0 })) func x.vector
    else s)

/-! ### Enables of a PCIe function (R397, R471) -/

/-- BUS_MASTER_ENABLE_CLEAR (R471). -/
def execBusMasterEnableClear (func : Nat) (s : State) : Host.Outcome State Fault Refusal :=
  .next (modFunc s func (fun x => { x with bme := false }))

/-- BUS_MASTER_ENABLE_SET (R471): staged records move and pending interrupts are sent. -/
def execBusMasterEnableSet (func : Nat) (s : State) : Host.Outcome State Fault Refusal :=
  .next (sendUnmasked (flushFunc (modFunc s func (fun x => { x with bme := true })) func) func)

/-- MEMORY_SPACE_ENABLE_CLEAR (R471). -/
def execMemorySpaceEnableClear (func : Nat) (s : State) : Host.Outcome State Fault Refusal :=
  .next (modFunc s func (fun x => { x with mse := false }))

/-- MEMORY_SPACE_ENABLE_SET (R471). -/
def execMemorySpaceEnableSet (func : Nat) (s : State) : Host.Outcome State Fault Refusal :=
  .next (modFunc s func (fun x => { x with mse := true }))

/-- VF_ENABLE_SET (R397): the virtual functions appear. -/
def execVfEnableSet (s : State) : Host.Outcome State Fault Refusal :=
  .next { s with funcs := s.funcs.zipIdx.map (fun p =>
    if 1 ≤ p.2 ∧ p.2 < 32 then { p.1 with present := true } else p.1) }

/-- PERST_N_RELEASE (R463, R471). -/
def execPerstNRelease (s : State) : Host.Outcome State Fault Refusal :=
  .next (modBoot s (fun b => { b with perst := false }))

/-! ### NOP and IDENTIFY (R380) -/

/-- NOP (R380). -/
def execNop (m : Mbox) (s : State) : Host.Outcome State Fault Refusal :=
  .next (runCommand s m 0x0001 (fun r s => answer s m r stSuccess [] 0))

/-- Enabled logical lanterns of a tower (R11). -/
def enabledCount (s : State) (tower : Nat) : Nat :=
  ((List.range 48).filter (fun i => enabledLantern s (48 * tower + i))).length

/-- The eight characters of the part number, AL960-LC. -/
def partNumber : List Byte := [0x41, 0x4C, 0x39, 0x36, 0x30, 0x2D, 0x4C, 0x43]

/-- What IDENTIFY returns, and telemetry group 0x01 among the rest (R380, R381), packed by notes/assumptions/7.md. -/
def identityBytes (s : State) : List Byte :=
  partNumber ++ words ([s.boot.fwVersion, s.boot.fwSlot, selfNode s] ++ (List.range 4).map (fun i => s.boot.coords.getD i 0) ++
    [s.keeper.split, s.boot.state] ++ (List.range 4).map (enabledCount s))

/-- IDENTIFY (R380). -/
def execIdentify (m : Mbox) (s : State) : Host.Outcome State Fault Refusal :=
  .next (runCommand s m 0x0002 (fun r s => answer s m r stSuccess (identityBytes s) 0))

/-! ### Queues and host windows (R380, R384) -/

/-- Does a span of local addresses lie in a region that placement gave a mooring (R161)? -/
def inPlacement (m : Mooring) (a n : Nat) : Bool :=
  m.place.regions.any (fun r => decide (r.1 ≤ a) && decide (a + n ≤ r.1 + r.2))

/-- May a function put a ring of n bytes at a base (R384): a window of its own, a region of a mooring that it owns, the
memory of its guest? -/
def ringPlaceOk (s : State) (f base n : Nat) : Bool :=
  match checkAddr s .priv base n true with
  | some (.host idx _) => (s.keeper.hwins.any (fun h => h.idx == idx && h.owner == f))
  | some (.mem a) =>
    (decide (32 ≤ f) && (s.shore.getD (f - 32) ShoreCore.reset).maps.any
      (fun w => decide (w.1 ≤ a) && decide (a + n ≤ w.1 + w.2))) ||
    s.moorings.any (fun m => decide (m.ownerNode = selfNode s) && decide (m.ownerFunc = f) && inPlacement m a n)
  | _ => false

/-- CQ_BIND (R384, R401): checks, then the register block as the binding sets it. -/
def execCqBind (m : Mbox) (qid typ base log2n vector modCount modTime : Nat) (s : State) :
    Host.Outcome State Fault Refusal :=
  .next (runCommand s m 0x0003 (fun r s =>
    if qid < 16 ∧ typ < 2 ∧ 6 ≤ log2n ∧ log2n ≤ 16 ∧ 1 ≤ vector ∧ vector ≤ 63 ∧ 1 ≤ modCount ∧
        modCount ≤ 256 ∧ modTime ≤ 1000 ∧ base % (32 * 2 ^ log2n) = 0 ∧
        ringPlaceOk s m.func base (32 * 2 ^ log2n) then
      answer (modQueue s m.func qid (fun _ => { Queue.reset with
        bound := true, event := decide (typ = 1), log2n := log2n, vector := vector, base := base,
        modCount := modCount, modTime := modTime })) m r stSuccess [] 0
    else answer s m r stField [] 0))

/-- Does an accepted command name queue q of function f (R380)? -/
def queueNamed (s : State) (f q : Nat) : Bool := s.keeper.ops.any (fun o => o.func == f && o.cq == q)

/-- CQ_UNBIND (R401): busy while an accepted command names the queue, else back to reset values. -/
def execCqUnbind (m : Mbox) (qid : Nat) (s : State) : Host.Outcome State Fault Refusal :=
  .next (runCommand s m 0x0004 (fun r s =>
    if 16 ≤ qid then answer s m r stField [] 0
    else if queueNamed s m.func qid then answer s m r stBusy [] 0
    else answer (modQueue s m.func qid (fun _ => Queue.reset)) m r stSuccess [] 0))

/-- The lowest window index not open (R380), at most 255. -/
def freeWindow (s : State) : Option Nat :=
  (List.range 256).find? (fun i => (hwinAt s i).isNone)

/-- Windows that a function holds. -/
def windowCount (s : State) (f : Nat) : Nat := (s.keeper.hwins.filter (fun h => h.owner == f)).length

/-- HWIN_OPEN (R380): a length that is a multiple of 4 KiB up to 2^48; a VF may hold 8 windows. A shore
guest has no host window (R370). -/
def execHwinOpen (m : Mbox) (addr len : Nat) (rd wr : Bool) (s : State) : Host.Outcome State Fault Refusal :=
  .next (runCommand s m 0x0005 (fun r s =>
    if 32 ≤ m.func then answer s m r stPrivilege [] 0
    else if len = 0 ∨ 2 ^ 48 < len ∨ len % 4096 ≠ 0 ∨ 2 ^ 64 < addr + len then answer s m r stField [] 0
    else if 0 < m.func ∧ 8 ≤ windowCount s m.func then answer s m r stBusy [] 0
    else match freeWindow s with
      | none => answer s m r stBusy [] 0
      | some i => answer (modKeeper s (fun k => { k with hwins := k.hwins ++ [⟨i, m.func, addr, len, rd, wr⟩] }))
          m r stSuccess (words [i]) i))

/-- Does a module address name a host window? -/
def namesWindow (addr idx : Nat) : Bool := decide (bits addr 63 61 = 7) && decide (bits addr 55 48 = idx)

/-- Does an accepted command use a host window: its OUT buffer, the outer end of its copy, the destination of its read? -/
def opUses (o : LongOp) (idx : Nat) : Bool :=
  namesWindow o.out idx || (match o.kind with
    | .copy _ _ a => namesWindow a idx
    | .tensorRead a _ => namesWindow a idx
    | _ => false)

/-- Is a host window in use by an accepted command or a bound queue (R380)? -/
def windowBusy (s : State) (idx : Nat) : Bool :=
  s.keeper.ops.any (fun o => opUses o idx) ||
  s.funcs.any (fun f => f.queues.any (fun q => q.bound && namesWindow q.base idx))

/-- HWIN_CLOSE (R380). -/
def execHwinClose (m : Mbox) (idx : Nat) (s : State) : Host.Outcome State Fault Refusal :=
  .next (runCommand s m 0x0006 (fun r s =>
    match hwinAt s idx with
    | none => answer s m r stField [] 0
    | some h =>
      if h.owner ≠ m.func then answer s m r stPrivilege [] 0
      else if windowBusy s idx then answer s m r stBusy [] 0
      else answer (modKeeper s (fun k => { k with hwins := k.hwins.filter (fun h => h.idx != idx) })) m r stSuccess [] 0))

/-- RUN of a mooring slot (R405). -/
def slotRunCode : RunState → Nat
  | .idle => 0
  | .running => 1
  | .stopping => 2
  | .stopped => 3

end Sys2Proof.Machine
end

