-- ==== Sys2Proof/Machine/Stream.lean ====
section
/-! DEFINITION. Machine/Stream.lean: the data of a DMA transfer: what a descriptor reads, how its stream is packed, what it
writes where, and which pieces a bad or interrupted one leaves (R165 to R168, R177 to R180, R184, R187). -/

namespace Sys2Proof.Machine

/-! ### What channels and lanterns work for (R22, R154, R170, R171, R346) -/

/-- The bundle that a lantern's mooring runs. -/
def bundleAt (s : State) (handle : Nat) : Option Bundle :=
  s.keeper.bundles.find? (fun b => b.handle == handle)

/-- The mooring and the bundle whose work a lantern runs. -/
def lanternJob (s : State) (l : Nat) : Option (Mooring × Bundle) :=
  ((lanternAt s l).mooring.bind (mooringAt s)).bind (fun m => (bundleAt s m.bundle).map (fun b => (m, b)))

/-- The tower whose resend store holds what a lantern sends (R280). -/
def lanternTower (l : Nat) : Nat := l / 48

/-- The lantern of a channel, if it has one (R170, R171). -/
def chanLantern : Chan → Option Nat
  | .lantern l _ => some l
  | .system _ => none

/-- The number of a channel among its lantern's four or the sixteen. -/
def chanIndex : Chan → Nat
  | .lantern _ c => c
  | .system n => n

/-- The context that a program's accesses are issued in (R22, R171). -/
def chanCtx (c : Chan) (priv : Bool) : Ctx :=
  match c with
  | .lantern l _ => if priv then .priv else .lantern l
  | .system _ => .priv

/-- The domain whose daymark a channel's requests keep (R345, R346). -/
def chanDomain : Chan → Domain
  | .lantern l _ => .lantern l
  | .system _ => .keeper

/-- Mooring of a channel's work, if any. -/
def chanMooring (s : State) (c : Chan) : Option Nat := (chanLantern c).bind (lanternMooring s)

/-- Advance a counter of R195. -/
def bumpChan (s : State) (c : Chan) (i n : Nat) : State :=
  modChan s c (fun x => { x with counters := bump x.counters i n })

/-- Pieces that touch are one piece. -/
def joinPieces : List (Nat × List Byte) → List (Nat × List Byte)
  | [] => []
  | p :: rest =>
    match joinPieces rest with
    | [] => [p]
    | q :: qs => if p.1 + p.2.length = q.1 then (p.1, p.2 ++ q.2) :: qs else p :: q :: qs

/-! ### Causes of R187 beyond those of an access -/

def causeOverLimit : Nat := 6

def causeMalformed : Nat := 7

def causeMode : Nat := 8

def causeField : Nat := 9

def causeCounter : Nat := 10

/-! ### Geometry (R177 to R180, R184) -/

/-- Bytes of a lane (R176). -/
def moveLane (d : MoveDesc) : Nat := 2 ^ d.lane

/-- Ring lines per source line. -/
def phases (d : MoveDesc) : Nat := if d.step2 then 2 else 1

/-- h(r) of R179. -/
def skewOf (d : MoveDesc) (r : Nat) : Nat := if d.shift = 1 then r else r / 4

/-- Ring lines from the first to the last that a MOVE touches, before wrapping (R179). -/
def ringRun (d : MoveDesc) : Nat :=
  phases d * (d.scnt - 1) + 1 + (if d.shift = 0 then 0 else phases d - 1 + skewOf d 127)

/-- The ring lines that a MOVE touches; s0 stands in DSTART. -/
def ringLinesOf (d : MoveDesc) : List Nat :=
  ((List.range (min (ringRun d) (2 * d.dcnt))).filter (fun k => decide (d.shift ≠ 0) || decide (k % phases d = 0))).map
    (fun k => (d.dstart + k) % d.dcnt)

/-- Blocks that a packing MOVE carries. -/
def moveBlocks (d : MoveDesc) : Nat :=
  if d.compress = 2 then d.dlen * d.dcnt / blockBytes d.cfmt else d.slen * d.scnt / blockBytes d.cfmt

/-- Runs of a MOVE3 in order: source and destination offsets (R184). -/
def move3Runs (d : Move3Desc) : List (Int × Int) :=
  let c (k : Nat) : Nat := d.c.getD k 0
  let off (st : List Int) (i2 i1 i0 : Nat) : Int := i0 * st.getD 0 0 + i1 * st.getD 1 0 + i2 * st.getD 2 0
  (List.range (c 2)).flatMap (fun i2 => (List.range (c 1)).flatMap (fun i1 => (List.range (c 0)).map (fun i0 =>
    (off d.sstep i2 i1 i0, off d.dstep i2 i1 i0))))

/-- Lowest byte and length of one side of a MOVE3, from the corners of its index space (R178). -/
def move3Span (d : Move3Desc) (base : Nat) (st : List Int) : Option (Nat × Nat) :=
  let ext (k : Nat) : Int := ((d.c.getD k 1 : Int) - 1) * st.getD k 0
  let lo : Int := base + min 0 (ext 0) + min 0 (ext 1) + min 0 (ext 2)
  let hi : Int := base + max 0 (ext 0) + max 0 (ext 1) + max 0 (ext 2) + d.len
  if lo < 0 then none else some (lo.toNat, (hi - lo).toNat)

/-- Smallest of a list, given its first. -/
def minOf (a : Nat) (l : List Nat) : Nat := l.foldl min a

/-- The spans of a descriptor with absolute addresses (R178): lowest byte, bytes, and whether it is written;
none when an address falls below zero. -/
def dmaSpans : DmaDesc → Option (List (Nat × Nat × Bool))
  | .move d =>
    let src := if d.compress = 3 then (d.src, d.slen, false) else (d.src, (d.scnt - 1) * d.sstride + d.slen, false)
    let dst :=
      if d.ring then
        let ls := ringLinesOf d
        let lo := minOf (d.dcnt - 1) ls
        (d.dst + lo * d.dstride, (maxNat ls - lo) * d.dstride + d.dlen, true)
      else if d.compress = 3 then (d.dst, d.dlen, true)
      else (d.dst, (d.dcnt - 1) * d.dstride + d.dlen, true)
    some ([src, dst] ++
      (if d.compress = 1 ∨ d.compress = 3 then [(d.scaleS, moveBlocks d, false)] else []) ++
      (if d.compress = 2 ∨ d.compress = 3 then [(d.scaleD, moveBlocks d, true)] else []))
  | .move3 d =>
    match move3Span d d.src d.sstep, move3Span d d.dst d.dstep with
    | some a, some b => some [(a.1, a.2, false), (b.1, b.2, true)]
    | _, _ => none
  | _ => some []

/-- Place of the first scale byte in a transfer's stream. -/
def scalePlace : Nat := 2 ^ 40

/-- What a descriptor reads: address, bytes, place in the stream (R177, R180, R184). -/
def dmaReads : DmaDesc → List (Nat × Nat × Nat)
  | .move d =>
    (List.range d.scnt).map (fun i => (d.src + i * (if d.compress = 3 then 0 else d.sstride), d.slen, i * d.slen)) ++
    (if d.compress = 1 ∨ d.compress = 3 then [(d.scaleS, moveBlocks d, scalePlace)] else [])
  | .move3 d => (move3Runs d).zipIdx.map (fun r => (((d.src : Int) + r.1.1).toNat, d.len, r.2 * d.len))
  | _ => []

/-- Where an uncompressed transfer writes its stream, in order: address, place, bytes (R177, R179, R184). -/
def dmaWrites : DmaDesc → List (Nat × Nat × Nat)
  | .move d =>
    if !d.ring then (List.range d.dcnt).map (fun j => (d.dst + j * d.dstride, j * d.dlen, d.dlen))
    else
      let line (k : Nat) : Nat := d.dst + (d.dstart + k) % d.dcnt * d.dstride
      (List.range d.scnt).flatMap (fun n =>
        if d.shift = 0 then [(line (phases d * n), n * d.slen, d.slen)]
        else (List.range (phases d)).flatMap (fun p => (List.range 128).map (fun r =>
          let lb := moveLane d
          (line (phases d * n + p + skewOf d r) + lb * r, n * d.slen + lb * (phases d * r + p), lb))))
  | .move3 d => (move3Runs d).zipIdx.map (fun r => (((d.dst : Int) + r.1.2).toNat, r.2 * d.len, d.len))
  | _ => []

/-! ### Packing (R165 to R168) -/

/-- Bytes that a transfer reads. -/
def readCount (d : DmaDesc) : Nat := sumNat ((dmaReads d).map (·.2.1))

/-- Does a block read as invalid (R26): scale byte 0xFF, whatever its mantissas hold? -/
def blockInvalid (e : Nat) : Bool := decide (e = 255)

/-- Is a block left out of a frame (R165): its scale byte is 0, or all its elements are zero? -/
def blockAbsent (e : Nat) (ms : List Int) : Bool := !blockInvalid e && (decide (e = 0) || ms.all (· == 0))

/-- A block's scale byte and codes in the canonical form of R37, its values kept (R167). -/
def canonBlock (f : Fmt) (e : Nat) (ms : List Int) : Nat × List Int :=
  if blockInvalid e ∨ (f ≠ .b32 ∧ ms.all (· == satCode f)) then (255, List.replicate 32 (satCode f))
  else if e = 0 ∨ ms.all (· == 0) then (0, List.replicate 32 0)
  else if f ≠ .b32 ∧ ms.all (fun m => m == 0 || m == satCode f) then (127, ms)
  else (e, ms)

/-- Width of a mantissa code as two's complement (R166). -/
def codeWidth (m : Int) : Nat := if 0 ≤ m then bitLen m.toNat + 1 else bitLen (-m - 1).toNat + 1

/-- The width W of a block (R166): the smallest at which every code fits, at least 1. -/
def packWidth (ms : List Int) : Nat := max 1 (maxNat (ms.map codeWidth))

/-- 32 codes of w bits each, packed from bit 0 (R165). -/
def packCodes (w : Nat) (ms : List Int) : List Byte :=
  natLE (4 * w) (ms.reverse.foldl (fun n m => n * 2 ^ w + wrapNat w m) 0)

/-- Zero bytes up to a multiple of 16. -/
def padTo16 (bs : List Byte) : List Byte := bs ++ List.replicate ((16 - bs.length % 16) % 16) 0

/-- A frame of blocks (scale byte, codes) (R165). -/
def packFrame (blocks : List (Nat × List Int)) : List Byte :=
  let here := blocks.map (fun b => !blockAbsent b.1 b.2)
  let body := (blocks.filter (fun b => !blockAbsent b.1 b.2)).flatMap (fun b =>
    if blockInvalid b.1 then [BitVec.ofNat 8 b.1, 0]
    else
      let w := packWidth b.2
      [BitVec.ofNat 8 b.1, BitVec.ofNat 8 w] ++ packCodes w b.2)
  let present := here.reverse.foldl (fun n b => 2 * n + b2n b) 0
  let len := (8 + body.length + 15) / 16
  padTo16 (natLE 4 present ++ natLE 2 len ++ [0, 0] ++ body)

/-- Bits of a format's code (R25). -/
def codeBits (f : Fmt) : Nat := fmtBits f + 1

/-- Largest frame of k blocks (R166). -/
def frameMax (f : Fmt) (k : Nat) : Nat := ceilDiv (8 + k * (2 + 4 * codeBits f)) 16 * 16

/-- Largest stream of n blocks. -/
def streamMax (f : Fmt) (n : Nat) : Nat := n / 32 * frameMax f 32 + (if n % 32 = 0 then 0 else frameMax f (n % 32))

/-- The frames of a list of blocks, 32 to a frame. -/
def packFrames : Nat → List (Nat × List Int) → List Byte
  | 0, _ => []
  | n + 1, bs => if bs.isEmpty then [] else packFrame (bs.take 32) ++ packFrames n (bs.drop 32)

/-- One present block of a frame at an offset: its bytes and codes, or none when its width is none of the
format's. -/
def unpackBlock (f : Fmt) (bs : List Byte) (o : Nat) : Option (Nat × Nat × List Int) :=
  let e := leAt bs o 1
  let w := leAt bs (o + 1) 1
  if w = 0 then some (2, 255, List.replicate 32 (satCode f))
  else if codeBits f < w then none
  else
    let n := leAt bs (o + 2) (4 * w)
    some (2 + 4 * w, e, (List.range 32).map (fun i => sext w (n / 2 ^ (w * i))))

/-- The n blocks of a frame from block b on: the offset after them and the blocks (R165, R167). -/
def unpackBlocks (f : Fmt) (bs : List Byte) (present : Nat) : Nat → Nat → Nat → Option (Nat × List (Nat × List Int))
  | 0, _, o => some (o, [])
  | n + 1, b, o =>
    if bit present b then
      match unpackBlock f bs o with
      | none => none
      | some (k, e, ms) => (unpackBlocks f bs present n (b + 1) (o + k)).map (fun r => (r.1, canonBlock f e ms :: r.2))
    else (unpackBlocks f bs present n (b + 1) o).map (fun r => (r.1, (0, List.replicate 32 0) :: r.2))

/-- What unpacking gives: the blocks, the stream bytes used, and whether it ended well (R180). -/
structure Unpacked where
  blocks : List (Nat × List Int)
  used   : Nat
  ok     : Bool

/-- Read frames until n blocks have come (R180): a frame that passes the stream's end, or whose LEN disagrees
with its contents, ends it; so does one with a PRESENT bit beyond the blocks that remain, of which the rule does not speak
(DESIGN CHOICE, notes/assumptions/37.md). -/
def unpackFrames (f : Fmt) : Nat → List Byte → Nat → Unpacked
  | 0, _, n => ⟨[], 0, decide (n = 0)⟩
  | fuel + 1, bs, n =>
    if n = 0 then ⟨[], 0, true⟩
    else if bs.length < 8 then ⟨[], bs.length, false⟩
    else
      let present := leAt bs 0 4
      let len := 16 * leAt bs 4 2
      let k := min 32 n
      match unpackBlocks f bs present k 0 8 with
      | none => ⟨[], min len bs.length, false⟩
      | some (o, blocks) =>
        if bs.length < len ∨ (o + 15) / 16 * 16 ≠ len ∨ 2 ^ k ≤ present then ⟨[], min (max o len) bs.length, false⟩
        else
          let r := unpackFrames f fuel (bs.drop len) (n - k)
          ⟨blocks ++ r.blocks, len + r.used, r.ok⟩

/-! ### What a transfer writes -/

/-- What a transfer writes: pieces in order (address, bytes, whether a poisoned line fed them), the cause that
the data itself gives, and the stream bytes that count as read. -/
structure DmaOut where
  pieces : List (Nat × List Byte × Bool)
  cause  : Nat
  used   : Nat

/-- Did a poisoned line feed n bytes at a place of the stream? -/
def placeBad (j : DmaJob) (k n : Nat) : Bool := j.bad.any (fun r => decide (r.1 < k + n) && decide (k < r.2.1))

/-- Block i of a packing MOVE's source: scale byte and codes. -/
def srcBlock (d : MoveDesc) (j : DmaJob) (i : Nat) : Nat × List Int :=
  let b := blockBytes d.cfmt
  ((byteAt j.data (scalePlace + i)).toNat, (List.range 32).map (mantissaAt d.cfmt (bytesAt j.data (i * b) b)))

def srcBlockBad (d : MoveDesc) (j : DmaJob) (i : Nat) : Bool :=
  placeBad j (i * blockBytes d.cfmt) (blockBytes d.cfmt) || placeBad j (scalePlace + i) 1

/-- Blocks before the first that a poisoned line fed. -/
def goodBlocks (d : MoveDesc) (j : DmaJob) : Nat :=
  ((List.range (moveBlocks d)).find? (srcBlockBad d j)).getD (moveBlocks d)

/-- Bytes of a stream laid into destination lines (R177). -/
def intoLines (d : MoveDesc) (bs : List Byte) : List (Nat × List Byte × Bool) :=
  (List.range d.dcnt).map (fun i => (d.dst + i * d.dstride, (bs.drop (i * d.dlen)).take d.dlen, false))

/-- Lossless pack (R165, R180). -/
def packOut (d : MoveDesc) (j : DmaJob) : DmaOut :=
  let n := goodBlocks d j
  let whole := decide (n = moveBlocks d)
  let k := if whole then n else n / 32 * 32
  let bs := packFrames (k + 1) ((List.range k).map (srcBlock d j))
  let tooLong := decide (d.dlen < bs.length)
  ⟨[(d.dst, bs.take d.dlen, false)], if tooLong then causeOverLimit else if whole then 0 else causePoison,
    d.slen * d.scnt + moveBlocks d⟩

/-- Lossless unpack (R167, R180): the stream's poisoned bytes matter as far as it is read. -/
def unpackOut (d : MoveDesc) (j : DmaJob) : DmaOut :=
  let lim := minOf d.slen (j.bad.map (·.1))
  let u := unpackFrames d.cfmt (moveBlocks d + 1) (bytesAt j.data 0 d.slen) (moveBlocks d)
  let poisoned := placeBad j 0 u.used
  let v := if poisoned then unpackFrames d.cfmt (moveBlocks d + 1) (bytesAt j.data 0 lim) (moveBlocks d) else u
  let ms := v.blocks.flatMap (fun b => mantissaBytes d.cfmt b.2)
  ⟨(intoLines d ms).filter (fun p => !p.2.1.isEmpty) ++ [(d.scaleD, v.blocks.map (fun b => BitVec.ofNat 8 b.1), false)],
    if poisoned then causePoison else if u.ok then 0 else causeMalformed, u.used⟩

/-- Lossy pack (R168, R180): every block requantised to B4 with draws of use code 0x04. -/
def lossyOut (d : MoveDesc) (j : DmaJob) (seed step : Nat) : DmaOut :=
  let out (i : Nat) : ReqOut :=
    let b := srcBlock d j i
    requantise (b.2.map (readElem d.cfmt b.1)) ((b.1 : Int) - 127) .b4 none 0 true
      ((List.range 32).map (fun e => (draw seed d.tensor step 4 ((d.idxBase + 32 * i + e) % 2 ^ 64)).toNat))
  let idx := List.range (moveBlocks d)
  ⟨idx.map (fun i => (d.dst + 16 * i, mantissaBytes .b4 (out i).m, srcBlockBad d j i)) ++
    idx.map (fun i => (d.scaleD + i, [BitVec.ofNat 8 (out i).e], srcBlockBad d j i)),
    if idx.any (srcBlockBad d j) then causePoison else 0, d.slen + moveBlocks d⟩

/-- An uncompressed transfer. -/
def plainOut (d : DmaDesc) (j : DmaJob) : DmaOut :=
  ⟨(dmaWrites d).map (fun w => (w.1, bytesAt j.data w.2.1 w.2.2, placeBad j w.2.1 w.2.2)),
    if j.bad.isEmpty then 0 else causePoison, readCount d⟩

def dmaOut (s : State) (c : Chan) (j : DmaJob) : DmaOut :=
  match j.desc with
  | .move d =>
    if d.compress = 1 then packOut d j
    else if d.compress = 2 then unpackOut d j
    else if d.compress = 3 then
      let w := (chanLantern c).bind (lanternJob s)
      lossyOut d j ((w.map (·.2.seed)).getD 0) ((w.map (·.1.step)).getD 0)
    else plainOut j.desc j
  | d => plainOut d j

/-- The address that feeds place k of an uncompressed transfer's stream. -/
def sourceOf (reads : List (Nat × Nat × Nat)) (k : Nat) : Nat :=
  match reads.find? (fun r => decide (r.2.2 ≤ k) && decide (k < r.2.2 + r.2.1)) with
  | some r => r.1 + (k - r.2.2)
  | none => 0

/-- Bytes written by a transfer whose source and destination overlap: each byte is what its source held before
the descriptor, or what the descriptor wrote there earlier; which is open. -/
def overlapBytes (s : State) (reads : List (Nat × Nat × Nat)) :
    List (Nat × Nat × Byte) → List (Nat × Byte) → State × List (Nat × Byte)
  | [], done => (s, done.reverse)
  | (a, k, b) :: rest, done =>
    match done.find? (fun w => decide (w.1 % 2 ^ 56 = sourceOf reads k % 2 ^ 56)) with
    | none => overlapBytes s reads rest ((a, b) :: done)
    | some w =>
      let f := drawFree s
      overlapBytes f.2 reads rest ((a, if f.1.getLsbD 0 then w.2 else b) :: done)

/-- Do the local sides of an uncompressed transfer overlap? -/
def sidesOverlap (s : State) (ctx : Ctx) (d : DmaDesc) : Bool :=
  match dmaSpans d with
  | some [a, b] =>
    (match checkAddr s ctx a.1 a.2.1 false, checkAddr s ctx b.1 b.2.1 true with
    | some (.mem x), some (.mem y) => decide (x < y + b.2.1) && decide (y < x + a.2.1)
    | _, _ => false)
  | _ => false

/-- The pieces with R177's choices made. -/
def overlapPieces (s : State) (ctx : Ctx) (j : DmaJob) (o : DmaOut) : State × DmaOut :=
  if sidesOverlap s ctx j.desc && o.pieces.all (fun p => !p.2.2) then
    let bytes := (dmaWrites j.desc).flatMap (fun w => (List.range w.2.2).map (fun i =>
      (w.1 + i, w.2.1 + i, byteAt j.data (w.2.1 + i))))
    let r := overlapBytes s (dmaReads j.desc) bytes []
    (r.1, { o with pieces := r.2.map (fun b => (b.1, [b.2], false)) })
  else (s, o)

/-! ### Writing (R187) -/

/-- A write in progress: state, tags of carrier-peer writes, bytes written, cause met and the failing address. -/
structure Writing where
  s     : State
  tags  : List Nat
  count : Nat
  cause : Nat
  addr  : Nat

/-- Write one piece at its target. -/
def writePiece (c : Chan) (ctx : Ctx) (w : Writing) (p : Nat × List Byte) : Writing :=
  let n := p.2.length
  match checkAddr w.s ctx p.1 n true with
  | some (.mem a) => { w with s := writeMem w.s a p.2, count := w.count + n }
  | some (.peer k a) =>
    let t := peerWrites w.s (lanternTower ((chanLantern c).getD 0)) ((chanMooring w.s c).getD 0xFFFF) (chanDomain c) k a
      p.2 (fun y => .dmaWrite c (p.1 + (y - a))) (peerPieces (n + 1) a n)
    { w with s := t.1, tags := w.tags ++ t.2, count := w.count + n }
  | some (.host idx off) =>
    (match hwinAt w.s idx with
    | some h =>
      if hostUp w.s h.owner then { w with s := hostWrite w.s (h.addr + off) p.2, count := w.count + n }
      else { w with cause := causeHost, addr := p.1 }
    | none => { w with cause := causeAddress, addr := p.1 })
  | none => { w with cause := causeAddress, addr := p.1 }

/-- Does a piece's write reach part of a poisoned line (R143)? -/
def pieceDropped (s : State) (ctx : Ctx) (p : Nat × List Byte) : Bool :=
  match checkAddr s ctx p.1 p.2.length true with
  | some (.mem a) => partialPoison s a p.2.length
  | _ => false

/-- A run of bytes cut at 64-byte lines. -/
def cutLines : Nat → Nat → List Byte → List (Nat × List Byte)
  | 0, _, _ => []
  | fuel + 1, a, bs =>
    if bs.isEmpty then []
    else (a, bs.take (64 - a % 64)) :: cutLines fuel (a + (64 - a % 64)) (bs.drop (64 - a % 64))

/-- The lines that a poisoned or missing part of the source feeds. -/
def fedBad (pieces : List (Nat × List Byte × Bool)) : List Nat :=
  (pieces.filter (fun p => p.2.2)).flatMap (fun p => linesOf p.1 p.2.1.length)

/-- The pieces of a bad descriptor (R187): each 64-byte piece of the destination holds its old contents or the moved data,
which is open; one fed by a poisoned line or dropped at one keeps its old contents. -/
def writeSome (c : Chan) (ctx : Ctx) (w : Writing) (pieces : List (Nat × List Byte × Bool)) : Writing :=
  let spoiled := fedBad pieces
  let cells := ((pieces.filter (fun p => !p.2.2)).flatMap (fun p => cellsAt p.1 p.2.1)).filter (fun x => !spoiled.contains (lineOf x.1))
  let r := openCells w.s cells
  let runs := (joinPieces (r.1.map (fun x => (x.1, [x.2])))).flatMap (fun p => cutLines (p.2.length + 1) p.1 p.2)
  runs.foldl (fun w p => if pieceDropped w.s ctx p then w else writePiece c ctx w p) { w with s := r.2 }

/-- What stands for the line of a part of the source that was not fetched. -/
def noLine : Nat := 2 ^ 64

/-- A transfer some places of whose stream were not fetched. -/
def lackParts (j : DmaJob) (lost : List (Nat × Nat)) : DmaJob :=
  { j with bad := j.bad ++ lost.map (fun r => (r.1, r.1 + r.2, noLine)) }

/-- The place in the stream and the bytes that a carrier-peer read asks for. -/
def reqPlace (r : PeerReq) : Option (Nat × Nat) :=
  match r.who with
  | .dmaRead _ key skip left => some (key, min left (r.len - skip))
  | _ => none

/-- The places that the outstanding reads of a flight would fill. -/
def awaited (s : State) (tags : List Nat) : List (Nat × Nat) :=
  tags.filterMap (fun t => (s.router.reqs.find? (fun r => r.tag == t)).bind reqPlace)

end Sys2Proof.Machine
end

