-- ==== Sys2Proof/Machine/Recover.lean ====
section
/-! DEFINITION. Machine/Recover.lean: daymarks, compute resets, retirement of lanterns, router-only mode,
release of moorings and loss of power (R10, R11, R341 to R356, R410, R441). -/

namespace Sys2Proof.Machine

/-! ### The configuration record (R440, R441) -/

/-- The copy of the configuration record in use. -/
def configRec (s : State) : ConfigRec := if s.flash.use1 then s.flash.rec1 else s.flash.rec0

/-- Change the field part: the other copy takes it with GEN raised by one, and is then in use (R441). -/
def setConfig (s : State) (f : ConfigRec → ConfigRec) : State :=
  let r := { f (configRec s) with gen := (configRec s).gen + 1, factoryOk := true, fieldOk := true }
  if s.flash.use1 then modFlash s (fun x => { x with rec0 := r, use1 := false })
  else modFlash s (fun x => { x with rec1 := r, use1 := true })

/-! ### Daymarks (R345) -/

/-- The next value of a daymark: one more, skipping 0 (R345). -/
def nextDaymark (d : Nat) : Nat := if (d + 1) % 2 ^ 32 = 0 then 1 else (d + 1) % 2 ^ 32

/-- A domain's daymark stepped. -/
def stepDaymark (s : State) : Domain → State
  | .lantern l => modLantern s l (fun x => { x with daymark := nextDaymark x.daymark })
  | .tower t => modTower s t (fun x => { x with daymark := nextDaymark x.daymark })
  | .shore c => modShore s c (fun x => { x with daymark := nextDaymark x.daymark })
  | .keeper => modKeeper s (fun k => { k with daymark := nextDaymark k.daymark })
  | .mooring id => modMooring s id (fun m => { m with daymark := nextDaymark m.daymark })

/-- Time of the last advance of a domain's daymark, if any. -/
def lastAdvance (s : State) (d : Domain) : Option Nat :=
  (s.keeper.lastAdv.find? (fun p => p.1 == d)).map (·.2)

/-- May a daymark advance now: 1 ms has passed since its last advance (R345)? -/
def mayAdvance (s : State) (d : Domain) : Bool :=
  match lastAdvance s d with
  | none => true
  | some t => decide (t + 1000000 ≤ nowNs s)

/-- Note that a domain's daymark has advanced now. -/
def noteAdvance (s : State) (d : Domain) : State :=
  modKeeper s (fun k => { k with lastAdv := (d, nowNs s) :: k.lastAdv.filter (fun p => p.1 != d) })

/-- Advance a daymark now and note when. -/
def advanceNow (s : State) (d : Domain) : State := noteAdvance (stepDaymark s d) d

/-- Advance a daymark, or owe the advance until 1 ms has passed (R345): the reset that asks for it goes no further until
then. -/
def advanceDaymark (s : State) (d : Domain) : State :=
  if mayAdvance s d && !s.keeper.owed.contains d then advanceNow s d
  else modKeeper s (fun k => { k with owed := k.owed ++ [d] })

/-- An owed advance takes place once 1 ms has passed. -/
def advanceOwed (s : State) (d : Domain) : State :=
  if s.keeper.owed.contains d && mayAdvance s d then
    modKeeper (advanceNow s d) (fun k => { k with owed := k.owed.erase d })
  else s

/-- dm_compare of R346. -/
inductive DmOrder where
  | equal | older | newer
  deriving DecidableEq, Repr

def dmCompare (p c : Nat) : DmOrder :=
  let d := (c + 2 ^ 32 - p % 2 ^ 32) % 2 ^ 32
  if d = 0 then .equal else if d ≤ 2 ^ 31 then .older else .newer

/-! ### Lanterns losing their work -/

/-- The registers of a channel as a program starts (R175): all zero, no LOOP entered (R181). -/
def clearChanRegs (x : DmaChan) : DmaChan :=
  { x with pc := 0, base := [0, 0, 0, 0], loff := 0, woff := 0, ioff := 0, reps := [], waiting := false,
           signalling := false }

/-- A lantern whose engines have dropped everything in hand (R342, R343). -/
def dropWork (x : Lantern) : Lantern :=
  { x with running := false, waiting := false, holding := false, updHold := false, lensQ := [], loading := none,
           drainQ := [], bindQ := [], coll := [], collHeld := [], filling := false,
           vec := { x.vec with cur := none, todo := [], loadQ := [], storeQ := [], peerTags := [] },
           dma := x.dma.map (fun c => { clearChanRegs c with queue := [], flights := [] }) }

/-- The modes of a lantern's channels change where no program is queued (R172). The spec names the modes and says when the
Keeper may change one, not when it does (DESIGN CHOICE, notes/assumptions/37.md). -/
def setModes (md : ChanMode) (x : Lantern) : Lantern :=
  { x with dma := x.dma.map (fun c => if c.queue.isEmpty then { c with mode := md } else c) }

/-- A lantern after the scan and clear phases of a compute reset (R91, R341): engines, registers, tables,
flags, counters of the step and accumulators as at reset; identity, store, telemetry and daymark kept. -/
def clearLantern (x : Lantern) : Lantern :=
  let y := dropWork x
  { y with pc := 0, endIssued := false, endRetired := false, events := List.replicate 16 0, passesRead := 0,
           tile := none, shadow := none, lensStep := 0, heldSteps := 0, lensNow := 0, passStart := 0, loadEnd := 0, emptyFrom := 0,
           lastMode := (false, false), acc := [], accTag := [], grad := [], gradTag := [],
           vec := VEngine.reset, collCnt := [], sampled := [0, 0, 0], still := [0, 0, 0, 0], waits := [0, 0, 0],
           beacon := [0, 0, 0],
           dma := y.dma.map (fun c => { DmaChan.reset with mode := c.mode, counters := c.counters }) }

/-- Logical lanterns of a tower (R9). -/
def towerLanterns (t : Nat) : List Nat := (List.range 48).map (fun i => 48 * t + i)

/-- Advance one lantern counter of R368. -/
def bumpLantern (s : State) (l i : Nat) : State := modLantern s l (fun x => { x with fcnt := bump x.fcnt i 1 })

/-- Advance one module counter of R368. -/
def bumpModule (s : State) (i n : Nat) : State := modKeeper s (fun k => { k with mcnt := bump k.mcnt i n })

/-- A transfer that a reset ends mid-descriptor (R342): each piece of its destination is in one of the states of R187, which
is open. -/
def cutFlight (c : Chan) (s : State) (f : DmaFlight) : State :=
  match f.job with
  | none => s
  | some j0 =>
    let j := lackParts j0 (awaited s f.tags)
    (writeSome c (chanCtx c f.priv) ⟨s, [], 0, 0, 0⟩ (dmaOut s c j).pieces).s

/-- The transfers of a lantern's channels end mid-descriptor. -/
def cutFlights (s : State) (l : Nat) : State :=
  [0, 1, 2, 3].foldl (fun s c => (chanAt s (.lantern l c)).flights.foldl (cutFlight (.lantern l c)) s) s

/-- Phases 1 and 2 of a reset on one lantern (R342, R343): work dropped, daymark advanced, the fault flag
set for the mooring's step in hand (R212), which may have retired its END here. -/
def stopLantern (s : State) (l : Nat) : State :=
  let x := lanternAt s l
  let s1 := modLantern (cutFlights s l) l (fun y => { dropWork y with
    fault := y.fault || (y.running && y.mooring.isSome) || ((y.mooring.bind (mooringAt s)).map (·.stepOn)).getD false,
    rst := ⟨true, nowNs s, y.rst.test, y.rst.held⟩ })
  if x.phys.isSome then advanceDaymark s1 (.lantern l) else s1

/-! ### Retirement (R10, R11, R350) -/

/-- The lantern that a part belongs to. -/
def partLantern : Part → Option Nat
  | .lantern l => some l
  | .storeBank l _ => some l
  | .accArray l => some l
  | .gradArray l => some l
  | _ => none

/-- Clear a lantern's store to zero (R10). -/
def clearStore (s : State) (l : Nat) : State := clearMem s (storeAddr l 0) (storeAddr l 0x400000)

/-- Retire a lantern to dark: a spare of its tower takes its index, cleared; the retired position goes
into the configuration record. Without a spare the index stays unfilled (R10, R11). -/
def retireLantern (s : State) (l : Nat) : State :=
  let t := l / 48
  match (lanternAt s l).phys with
  | none => s
  | some p =>
    match (configRec s).dark.find? (fun d => d.1 == t) with
    | some d =>
      let s1 := clearStore s l
      let s2 := modLantern s1 l (fun x => { clearLantern x with phys := some d.2, fcnt := List.replicate 12 0, rst := { x.rst with test := false } })
      let s3 := setConfig s2 (fun r => { r with dark := r.dark.erase d, retired := r.retired ++ [(t, p)] })
      let s4 := modKeeper s3 (fun k => { k with
        resetLog := k.resetLog.filter (fun e => e.1 != .lantern l)
        tests := k.tests.filter (fun q => partLantern q != some l)
        transients := k.transients.filter (fun e => partLantern e.1 != some l) })
      raiseEventIn (advanceDaymark s4 (.lantern l)) (.lantern l) evRepair none l p []
    | none =>
      let s1 := modLantern s l (fun x => { clearLantern x with phys := none, rst := { x.rst with test := false } })
      raiseEventIn (setConfig s1 (fun r => { r with retired := r.retired ++ [(t, p)], gaps := r.gaps ++ [l] })) (.lantern l) evRepair none l p []

/-! ### Router-only mode (R355) -/

/-- Hold a tower in compute reset. -/
def holdTower (s : State) (t : Nat) : State :=
  let s1 := (towerLanterns t).foldl (fun s l =>
    modLantern (stopLantern s l) l (fun x => { x with rst := { x.rst with held := true } })) s
  let s2 := modTower s1 t (fun x => { x with rst := ⟨true, nowNs s, false, true⟩ })
  advanceDaymark (modBoot s2 (fun b => { b with held := setAt b.held t true, towers := setAt b.towers t false })) (.tower t)

/-- A shore core is stopped, its registers and private memory cleared, and nothing of its last guest left (R370). -/
def stopCore (s : State) (c : Nat) : State :=
  modShore s c (fun x => { ShoreCore.reset with daymark := x.daymark })

def stopCores (s : State) (p : ShoreCore → Bool) : State :=
  (List.range 12).foldl (fun s c => if p (s.shore.getD c ShoreCore.reset) then stopCore s c else s) s

/-- The anchor of a mooring as this module knows it (R316, R363). -/
def anchorOf (m : Mooring) : Nat :=
  match m.acting with
  | some n => n
  | none =>
    let n := originNode m.desc
    match m.subs.find? (fun p => p.1 == n) with
    | some p => p.2
    | none => n

/-- Tell the anchor of every mooring that this module has entered router-only mode (R362). -/
def reportRouterOnly (s : State) : State :=
  s.moorings.foldl (fun s m => tellNode s (anchorOf m) (.routerOnly m.desc.id (selfNode s))) s

/-- End every lens's isophase fill (R417). -/
def endFill (s : State) : State :=
  { s with lanterns := s.lanterns.map (fun x => { x with filling := false }) }

/-- End the fill of a mooring's lenses: their work does not resume soon (R417). -/
def endFillOf (s : State) (id : Nat) : State :=
  { s with lanterns := s.lanterns.map (fun x => if x.mooring = some id then { x with filling := false } else x) }

/-- Enter router-only mode (R355): every tower held in compute reset, the shore cores stopped. Before early
light it is entered when full light would come (R438). -/
def enterRouterOnly (s : State) : State :=
  if s.boot.state = 3 then s
  else if s.boot.state = 0 then modBoot s (fun b => { b with routerAtFull := true })
  else
    let s1 := [0, 1, 2, 3].foldl holdTower (endFill s)
    let s2 := stopCores s1 (fun _ => true)
    let s3 := modBoot s2 (fun b => { b with state := 3, alert := true })
    reportRouterOnly (raiseEventP (bumpModule s3 0 1) evRouterOnly 0 0)

/-- A mooring has reached a committed boundary, or rests at one: a module that is to leave service at the next ones
leaves when all have (R350). -/
def leaveReached (s : State) (id : Nat) : State :=
  match s.keeper.leaveAt with
  | none => s
  | some ids =>
    let rest := ids.filter (fun i => i != id)
    let s1 := modKeeper s (fun k => { k with leaveAt := if rest.isEmpty then none else some rest })
    if rest.isEmpty then enterRouterOnly s1 else s1

/-- The module leaves service at the next committed boundary of its moorings: at once when none has a step in hand. -/
def leaveAtBoundary (s : State) : State :=
  let busy := (s.moorings.filter (fun m => m.stepOn || m.provisional.isSome)).map (·.desc.id)
  if busy.isEmpty then enterRouterOnly s else modKeeper s (fun k => { k with leaveAt := some busy })

/-! ### Compute resets (R341 to R344, R352 to R354) -/

/-- Starts of resets of a unit within a window ending now. -/
def resetsWithin (s : State) (u : ResetUnit) (windowUs : Nat) : Nat :=
  (s.keeper.resetLog.filter (fun e => e.1 == u && decide (nowNs s < e.2 + windowUs * 1000))).length

/-! ### What the full BIST has found (R343, R449, R450, R452) -/

/-- The units of the full BIST in the order of R450: kind, tower or die, index. -/
def bistUnits : List (Nat × Nat × Nat) :=
  let per (kind n : Nat) : List (Nat × Nat × Nat) := (List.range 4).flatMap (fun t => (List.range n).map (fun i => (kind, t, i)))
  per 1 50 ++ per 2 50 ++ (List.range 4).map (fun t => (3, t, 0)) ++ per 4 64 ++ (List.range 2).map (fun d => (5, d, 0))

/-- The group in which a unit is tested (R449). -/
def bistGroupOf (u : Nat × Nat × Nat) : Nat := if u.1 = 5 then 3 else if u.2.1 < 2 then 1 else 2

/-- A unit's golden signature (R440). -/
def goldenOf (s : State) (i : Nat) : Nat := (configRec s).golden.getD i 0

/-- A unit's result so far. -/
def bistResultOf (rs : List BistResult) (u : Nat × Nat × Nat) : Option BistResult :=
  rs.find? (fun r => r.kind == u.1 && r.die == u.2.1 && r.index == u.2.2)

/-- STATE of a unit (R450): 0 pass, 1 fail, 2 not run. -/
def bistState (s : State) (rs : List BistResult) (q : (Nat × Nat × Nat) × Nat) : Nat :=
  match bistResultOf rs q.1 with
  | none => 2
  | some r => if r.signature % 2 ^ 64 = goldenOf s q.2 % 2 ^ 64 then 0 else 1

/-- The result that SELFTEST writes at OUT (R450). -/
def bistBytes (s : State) (rs : List BistResult) (ms gen : Nat) : List Byte :=
  let us := bistUnits.zipIdx
  natLE 4 662 ++ natLE 4 (us.filter (fun q => decide (bistState s rs q = 1))).length ++ natLE 4 ms ++ natLE 8 gen ++
  List.replicate 12 0 ++
  us.flatMap (fun q => natLE 4 (q.1.2.2 + q.1.2.1 * 2 ^ 16 + q.1.1 * 2 ^ 24) ++ natLE 1 (bistState s rs q) ++ [0, 0, 0] ++
    natLE 8 (((bistResultOf rs q.1).map (·.signature)).getD 0) ++ natLE 8 (goldenOf s q.2))

/-- The towers whose units a group tests (R449). -/
def bistTowers (g : Nat) : List Nat := if g = 1 then [0, 1] else if g = 2 then [2, 3] else []

/-- The operation that the full BIST runs for. -/
def bistOp (s : State) : Option LongOp :=
  s.keeper.ops.find? (fun o => o.kind == .selftest || o.kind == .returnToService)

/-- The BIST ends (R450, R452): what has run is written at OUT, the command ends. The duration is a free value. -/
def endBist (s : State) (o : LongOp) (status : Nat) : State :=
  let d := drawFree s
  let bs := bistBytes d.2 d.2.keeper.bistDone (d.1.toNat % 2 ^ 32) (configRec s).gen
  let w := if o.kind == .selftest && decide (15920 ≤ o.outlen) then
      (match keeperWrite d.2 (o.func % 64) o.out bs with
      | .ok s1 => s1
      | .error _ => d.2)
    else d.2
  let s1 := modKeeper w (fun k => { k with
    bistGroup := 0
    bistDone := []
    bistBad := false })
  finishOp s1 o.func o.tag status 0 (if status = stSuccess then 0 else o.units)

/-- A compute reset of a unit of a tower under test ends the command whose work was on it with FAULT, the units retired in
DETAIL (R343). -/
def bistCut (s : State) (t : Nat) : State :=
  if (bistTowers s.keeper.bistGroup).contains t then
    (match bistOp s with
    | some o => endBist s o stFault
    | none => s)
  else s

/-! ### Starts of resets (R341, R343, R344) -/

/-- The event of a tower's reset (R341, R388): to the owner of each mooring that works on the tower. -/
def towerResetEvent (s : State) (t : Nat) : State :=
  match s.moorings.filter (fun m => (towerLanterns t).any (fun l => decide ((lanternAt s l).mooring = some m.desc.id))) with
  | [] => raiseEventIn s (.tower t) evReset none t 1 []
  | ms => ms.foldl (fun s m => raiseEvent s evReset (some m.desc.id) t 1) s

/-- Start a tower compute reset (R341): absorbed by one in progress; counted toward escalation, and the
count that reaches the limit puts the module into router-only mode (R354). -/
def startTowerReset (s : State) (t : Nat) : State :=
  if (towerAt s t).rst.active then s
  else
    let s1 := modKeeper (bistCut s t) (fun k => { k with resetLog := k.resetLog ++ [(.tower t, nowNs s)] })
    let s2 := (towerLanterns t).foldl stopLantern s1
    let s3 := modTower s2 t (fun x => { x with rst := ⟨true, nowNs s, false, x.rst.held⟩, resets := x.resets + 1 })
    let s4 := towerResetEvent (advanceDaymark s3 (.tower t)) t
    if s.keeper.policy.towerResets ≤ resetsWithin s4 (.tower t) s.keeper.policy.towerWin then enterRouterOnly s4
    else s4

/-- Start a lantern compute reset (R341, R344): absorbed by a reset in progress of the lantern or of its
tower; counted, and the count that reaches the limit retires the lantern (R354). -/
def startLanternReset (s : State) (l : Nat) (test : Bool) : State :=
  if (lanternAt s l).rst.active ∨ (towerAt s (l / 48)).rst.active then s
  else
    let s1 := modKeeper (bistCut s (l / 48)) (fun k => { k with resetLog := k.resetLog ++ [(.lantern l, nowNs s)] })
    let s2 := bumpLantern (stopLantern s1 l) l 2
    let s3 := modLantern s2 l (fun x =>
      let y := if test then setModes .test x else x
      { y with rst := { y.rst with test := test } })
    let s4 := lanternEvent s3 evReset l l 0 []
    if s.keeper.policy.lanternResets ≤ resetsWithin s4 (.lantern l) s.keeper.policy.lanternWin then
      retireLantern s4 l
    else s4

/-- Phase 6 of a reset on one lantern (R342). -/
def releaseLantern (s : State) (l : Nat) : State :=
  modLantern s l (fun x => { setModes .normal (clearLantern x) with rst := ⟨false, 0, false, false⟩ })

/-! ### Mooring slots (R405) -/

/-- A slot shows a mooring whose block this module is not in, as its anchor tells it; a mooring new here takes the first free
slot. -/
def slotShows (s : State) (id func run committed daymark : Nat) : State :=
  modFunc s func (fun x => { x with
    slots := if x.slots.contains (some id) then x.slots else
      (match findIdx Option.isNone x.slots with
      | some i => setAt x.slots i (some id)
      | none => x.slots)
    shown := (id, run, committed, daymark) :: x.shown.filter (fun q => q.1 != id) })

/-- A close frees a mooring's slot. -/
def slotGone (s : State) (id func : Nat) : State :=
  modFunc s func (fun x => { x with
    slots := x.slots.map (fun q => if q = some id then none else q)
    shown := x.shown.filter (fun q => q.1 != id) })

/-- The anchor tells the owner's Keeper how a mooring stands that is open on other modules than the owner's. -/
def tellSlot (s : State) (id : Nat) : State :=
  match mooringAt s id with
  | none => s
  | some m =>
    if anchorOf m ≠ selfNode s ∨ m.ownerNode = selfNode s then s
    else tellNode s m.ownerNode (.slotShows id m.ownerFunc (slotRunCode m.run) (m.committed.getD 0) m.daymark)

/-- The owner's Keeper learns that a mooring is closed. -/
def closeSlot (s : State) (m : Mooring) : State :=
  if m.ownerNode = selfNode s then slotGone s m.desc.id m.ownerFunc else tellNode s m.ownerNode (.slotGone m.desc.id m.ownerFunc)

/-! ### Moorings leaving this module (R326, R356) -/

/-- This module leaves a mooring: its lanterns, windows and shore cores are free, its ranges too; a copy
of a bundle that only it used goes (owner 64 and above: R324). The owner's slot goes on showing it until it is closed. -/
def releaseMooring (s : State) (id : Nat) : State :=
  let s1 := { s with lanterns := s.lanterns.map (fun x =>
    if x.mooring = some id then { dropWork x with mooring := none, windows := [], fault := false } else x) }
  let s2 := stopCores s1 (fun c => decide (c.lent = some id))
  let s3 := modKeeper s2 (fun k => { k with
    closed := (id, nowNs s, mooringDaymark s id) :: k.closed.filter (fun p => p.1 != id),
    lastAdv := k.lastAdv.filter (fun p => p.1 != .mooring id), owed := k.owed.filter (fun d => d != .mooring id) })
  let rest := s3.moorings.filter (fun m => m.desc.id != id)
  let s4 := match mooringAt s id with
    | some m => if m.ownerNode = selfNode s then slotShows s3 id m.ownerFunc (slotRunCode m.run) (m.committed.getD 0) m.daymark else s3
    | none => s3
  leaveReached (modKeeper { s4 with moorings := rest } (fun k => { k with
    bundles := k.bundles.filter (fun b => decide (b.owner < 64) || rest.any (fun m => m.bundle == b.handle)) })) id

/-! ### Losing power (R408, R410) -/

/-- Everything but flash is lost: the state after reset, with flash, the input and the world outside kept
(R408). -/
def losePower (s : State) : State :=
  { State.reset with
    pending := s.pending, flash := s.flash, host := s.host, out := s.out, free := s.free,
    power := { Power.reset with vin := s.power.vin, pwrEn := s.power.pwrEn, tripped := s.power.tripped,
                                brake := s.power.brake, refLost := s.power.refLost },
    boot := { Boot.reset with perst := s.boot.perst } }

/-- A power event (R432): UNIT, cause, level. -/
def powerEvent (s : State) (unit cause level : Nat) : State :=
  raiseEventP s evPower unit (cause + 256 * (level % 256) + 65536 * (s.power.pin % 65536))

/-- An orderly power-down (R410): after the event, the rails are off and only flash is left. -/
def powerDown (s : State) : State := losePower (powerEvent s 0 0x09 0)

end Sys2Proof.Machine
end

