-- ==== Sys2Proof/Machine/Power.lean ====
section
/-! DEFINITION. Machine/Power.lean: input, rails, ballast, the governor, heat, the brake, the reference and
the limits (R408 to R432, R463, R468, R472, R473). -/

namespace Sys2Proof.Machine

/-! ### Levels (R420, R421) -/

/-- The sector of a tower under a SPLIT (R320): 1 one sector, 2 towers 0-1 and 2-3, 4 one tower each. -/
def sectorOf (split tower : Nat) : Nat := tower * split / 4

/-- The level of a lantern of a tower (R421): 7 stands for B. -/
def levelOf (s : State) (tower : Nat) : Nat :=
  let p := s.power
  if p.brake then 7
  else
    let heat := max (p.tlevel.getD tower 0) (if p.ioHot then 3 else 0)
    let input := if 38000 ≤ p.vin ∧ p.vin < 40000 then 3 else 0
    max heat (max (p.plevel.getD (sectorOf s.keeper.split tower) 0) input)

/-- Put the levels of R421 in force and count the change (R431: STEPS). -/
def applyLevels (s : State) : State :=
  let ls := s.lanterns.zipIdx.map (fun p => { p.1 with level := levelOf s (p.2 / 48) })
  let changed := (s.lanterns.zip ls).any (fun p => decide (p.1.level ≠ p.2.level))
  modPower { s with lanterns := ls } (fun p => { p with steps := p.steps + b2n changed })

/-- The highest level in force (R431: LEVEL). -/
def highestLevel (s : State) : Nat := maxNat ((List.range 4).map (levelOf s))

/-! ### Input and rails -/

/-- The rails that power-good waits for, in the order in which they rise: steps 1 to 5 and those of tower 0 (R409, R433). -/
def firstRails : List Rail :=
  [.vstby, .vpll, .vio, .vser, .vnand, .vnandq, .vdd1, .vdd2h, .vdd2l, .vddq, .vcmp 0, .vsrm 0]

/-- Rails rise one after the other, up to the first that is faulted (R409). -/
def raiseRails (rs : List Rail) (p : Power) : Power :=
  { p with rails := p.rails ++ (rs.filter (fun r => !p.rails.contains r)).takeWhile (fun r => !p.faulted.contains r) }

/-- INPUT_STAGE_START (R408): the input has stayed at or above 40 V for 10 ms; PWR_EN is high and no
hardware trip holds the module off. The rails then start in order (R409). -/
def execInputStageStart (s : State) : Host.Outcome State Fault Refusal :=
  let p := s.power
  .next (if p.pwrEn && !p.tripped && !p.inputOn && decide (40000 ≤ p.vin) && decide (p.vin ≤ 62000) then
      modPower s (fun p => raiseRails firstRails { p with inputOn := true })
    else s)

/-- INPUT_VOLTAGE_CHANGE (R408): the input settles at mv millivolts, for as long as its band asks. -/
def execInputVoltageChange (mv : Nat) (s : State) : Host.Outcome State Fault Refusal :=
  if 70000 < mv then .fault .inputBeyondMaximum
  else
    let s1 := modPower s (fun p => { p with vin := mv, tripped := p.tripped && decide (34000 ≤ mv) })
    .next (if !s.power.inputOn then s1
      else if 62000 < mv then powerDown s1
      else if 60000 < mv then applyLevels (powerEvent s1 0 0x05 0)
      else if 40000 ≤ mv then applyLevels s1
      else if 38000 ≤ mv then applyLevels (powerEvent s1 0 0x05 3)
      else if 34000 ≤ mv then powerDown s1
      else losePower s1)

/-- PWR_EN (R463): low makes an orderly power-down. -/
def execPwrEn (level : Bool) (s : State) : Host.Outcome State Fault Refusal :=
  let s1 := modPower s (fun p => { p with pwrEn := level })
  .next (if !level && s.power.inputOn then powerDown s1 else s1)

/-- RAIL_FAULT (R410): a tower rail holds its tower and brings router-only mode; an LPDDR5X rail brings
router-only mode; any other rail an orderly power-down. -/
def execRailFault (r : Rail) (s : State) : Host.Outcome State Fault Refusal :=
  let bring (s : State) : State :=
    if s.boot.state < 2 then modBoot s (fun b => { b with fail := 8 }) else s
  let s1 := bring (modPower s (fun p => { p with
    rails := p.rails.filter (· != r), faulted := if p.faulted.contains r then p.faulted else p.faulted ++ [r] }))
  .next (if !s.power.inputOn then s
    else match r with
      | .vcmp t => enterRouterOnly (holdTower (powerEvent s1 t 0x06 0) t)
      | .vsrm t => enterRouterOnly (holdTower (powerEvent s1 t 0x06 0) t)
      | .vdd1 => enterRouterOnly (powerEvent s1 0 0x06 0)
      | .vdd2h => enterRouterOnly (powerEvent s1 0 0x06 0)
      | .vdd2l => enterRouterOnly (powerEvent s1 0 0x06 0)
      | .vddq => enterRouterOnly (powerEvent s1 0 0x06 0)
      | .vstby => powerDown (powerEvent s1 0 0x06 0)
      | .vpll => powerDown (powerEvent s1 0 0x06 0)
      | .vio => powerDown (powerEvent s1 0 0x06 0)
      | .vser => powerDown (powerEvent s1 0 0x06 0)
      | .vnand => powerDown (powerEvent s1 0 0x06 0)
      | .vnandq => powerDown (powerEvent s1 0 0x06 0))

/-! ### Ballast (R413, R414) -/

/-- The most that the input current may fall in 10 us, in mA: the slew limit in units of 0.25 A/ms. -/
def slewStep (slew : Nat) : Nat := slew * 5 / 2

/-- The input current after a sample, where the load would draw a given current: rises and falls are held to the slew limit,
and it never exceeds 52 A (R408, R413); under the brake the ballast is not engaged and a fall may be steeper (R414, R425). -/
def heldCurrent (p : Power) (load : Nat) : Nat :=
  min 52000 (min (if p.brake then load else max load (p.iin - slewStep p.slew)) (p.iin + slewStep p.slew))

/-- The towers' shares of what the ballasts take up: even, each at most its rating of 450 W (R414). The rule does not divide
it (DESIGN CHOICE, notes/assumptions/24.md). -/
def ballastShares (watts : Nat) : List Nat := (List.range 4).map (fun t => min 450 ((watts + 3 - t) / 4))

/-- BALLAST_SAMPLE (R414): every 10 us; the ballasts take up what the load no longer draws. -/
def execBallastSample (currentMa : Nat) (s : State) : Host.Outcome State Fault Refusal :=
  .next (modPower s (fun p =>
    let i := heldCurrent p currentMa
    let b := ballastShares ((i - currentMa) * p.vin / 1000000)
    { p with
      iin := i
      ballast := b
      ballastFor := (b.zip p.ballastFor).map (fun q => if q.1 = 0 then 0 else q.2 + 1) }))

/-! ### The governor (R422) -/

/-- The guaranteed share of a sector in W (R320, R430). -/
def powerShare (s : State) (sector : Nat) : Nat :=
  if s.power.share.all (· == 0) then s.power.cap / s.keeper.split else s.power.share.getD sector 0

/-- The credit after 1 ms at P watts (R422, step 1), in mJ. -/
def nextCredit (p : Power) (w : Nat) : Nat :=
  if p.cap < w then p.credit - (w - p.cap)
  else if w + 100 < p.cap then min 20000000 (p.credit + (p.cap - 100 - w))
  else p.credit

/-- The limit (R422, step 2). -/
def powerLimit (p : Power) (credit : Nat) : Nat := if 100000 ≤ credit then p.peakCap else p.cap

/-- The sector whose draw exceeds its share by the most, ties to the lower (R422, step 3). -/
def worstSector (s : State) (draws : List Nat) : Option Nat :=
  (List.range s.keeper.split).foldl (fun best k =>
    let excess := draws.getD k 0 - powerShare s k
    match best with
    | none => if 0 < excess then some k else none
    | some b => if draws.getD b 0 - powerShare s b < excess then some k else some b) none

/-- One sector's level down (R422, step 4), when its count of quiet milliseconds has reached 100. -/
def levelDown (credit : Nat) (level quiet : Nat) : Nat × Nat :=
  if 100 ≤ quiet ∧ (2 ≤ level ∨ (level = 1 ∧ 2000000 ≤ credit)) then (level - 1, 0) else (level, quiet)

/-- GOVERNOR_TICK (R422): each 1 ms, with the measured input power and the draw of each sector. -/
def execGovernorTick (watts : Nat) (sectors : List Nat) (s : State) : Host.Outcome State Fault Refusal :=
  let p := s.power
  let c := nextCredit p watts
  let lim := powerLimit p c
  let up := if lim < watts then worstSector s sectors else none
  let plevel1 := match up with
    | some k => p.plevel.modify k (fun v => min 5 (v + 1))
    | none => p.plevel
  let quiet := p.belowMs.map (fun n => if watts * 100 < 92 * lim then n + 1 else 0)
  let down := (plevel1.zip quiet).map (fun q => levelDown c q.1 q.2)
  let s1 := modPower s (fun p => { p with
    pin := watts, psect := sectors, energy := p.energy + watts, credit := c,
    plevel := down.map (·.1), belowMs := down.map (·.2) })
  let s2 := if 100000 ≤ p.credit ∧ c < 100000 then powerEvent s1 0 0x02 0 else s1
  let s3 := (List.range 4).foldl (fun s k =>
    if p.plevel.getD k 0 ≠ s.power.plevel.getD k 0 then powerEvent s k 0x01 (s.power.plevel.getD k 0) else s) s2
  .next (applyLevels s3)

/-! ### Heat (R423) -/

/-- A thermal event (R432). -/
def thermalEvent (s : State) (unit cause die : Nat) (tj : Int) : State :=
  raiseEventP s evThermal unit (cause + 256 * die + 65536 * wrapNat 16 tj)

/-- One tower's thermal level and counts after a sample: level, samples hot, samples cool. -/
def towerHeat (tj : Int) (level hot cool : Nat) : Nat × Nat × Nat :=
  let hot1 := if 1040 ≤ tj then hot + 1 else 0
  let cool1 := if tj < 1000 then cool + 1 else 0
  let up := decide (100 ≤ hot1)
  let dn := decide (1000 ≤ cool1)
  let l1 := if up then min 5 (level + 1) else if dn then level - 1 else level
  (if 1050 ≤ tj then max 3 l1 else l1, if up then 0 else hot1, if dn then 0 else cool1)

/-- The thermal step of one tower. -/
def sampleTower (t : Temps) (s : State) (k : Nat) : State :=
  let p := s.power
  let tj := t.towers.getD k 0
  let r := towerHeat tj (p.tlevel.getD k 0) (p.hotFor.getD k 0) (p.coolFor.getD k 0)
  let trip := if 1100 ≤ tj then p.tripFor.getD k 0 + 1 else 0
  let s1 := modPower s (fun p => { p with
    tlevel := setAt p.tlevel k r.1, hotFor := setAt p.hotFor k r.2.1, coolFor := setAt p.coolFor k r.2.2,
    tripFor := setAt p.tripFor k trip })
  let s2 := if r.1 ≠ p.tlevel.getD k 0 then
      thermalEvent s1 k (if 1050 ≤ tj ∧ p.tlevel.getD k 0 < 3 then 0x02 else 0x01) k tj
    else s1
  if trip = 10 then enterRouterOnly (thermalEvent s2 k 0x03 k tj) else s2

/-- THERMAL_SAMPLE (R423): every 100 us. -/
def execThermalSample (t : Temps) (s : State) : Host.Outcome State Fault Refusal :=
  let io := t.io.foldl max 0
  let s1 := (List.range 4).foldl (sampleTower t) (modPower s (fun p => { p with temps := t }))
  let ioTrip := if 1100 ≤ io then s.power.ioTripFor + 1 else 0
  let s2 := modPower s1 (fun p => { p with ioHot := decide (1050 ≤ io), ioTripFor := ioTrip })
  let s3 := if 1050 ≤ io ∧ !s.power.ioHot then thermalEvent s2 0 0x04 4 io else s2
  .next (if ioTrip = 10 then powerDown (thermalEvent s3 0 0x05 4 io) else applyLevels s3)

/-- HARDWARE_THERMAL_TRIP (R423): off until the input is removed, MOD_ALERT_N low (R463). -/
def execHardwareThermalTrip (s : State) : Host.Outcome State Fault Refusal :=
  let s1 := losePower (modPower s (fun p => { p with tripped := true }))
  .next (modBoot s1 (fun b => { b with alert := true }))

/-! ### Fill and brake -/

/-- FILL_HOLD_EXPIRY (R417): after 8 ms of fill on a lantern, the fill of every filling lantern ramps down
until it ends. -/
def execFillHoldExpiry (lantern : Nat) (s : State) : Host.Outcome State Fault Refusal :=
  .next (if (lanternAt s lantern).filling then endFill s else s)

/-- PWR_BRAKE_ASSERT (R417, R425): level B everywhere, fill ended, the ballast not engaged. -/
def execPwrBrakeAssert (s : State) : Host.Outcome State Fault Refusal :=
  .next (if s.power.brake then s
    else powerEvent (applyLevels (endFill (modPower s (fun p =>
      { p with brake := true, brakes := p.brakes + 1, ballast := [0, 0, 0, 0], ballastFor := [0, 0, 0, 0] })))) 0 0x03 7)

/-- PWR_BRAKE_RELEASE (R425): the levels of R421 apply again. -/
def execPwrBrakeRelease (s : State) : Host.Outcome State Fault Refusal :=
  .next (if s.power.brake then
      let s1 := applyLevels (modPower s (fun p => { p with brake := false }))
      powerEvent s1 0 0x04 (highestLevel s1)
    else s)

/-! ### The reference and the pulse (R429, R468) -/

/-- REFERENCE_LOST (R429). -/
def execReferenceLost (s : State) : Host.Outcome State Fault Refusal :=
  .next (if s.power.refLost then s else powerEvent (modPower s (fun p => { p with refLost := true })) 0 0x07 0)

/-- REFERENCE_RESTORED (R429): a stream within 300 ppm; one outside is still lost. -/
def execReferenceRestored (ppm : Nat) (s : State) : Host.Outcome State Fault Refusal :=
  .next (if s.power.refLost && decide (ppm ≤ 300) then
      powerEvent (modPower s (fun p => { p with refLost := false })) 0 0x08 0
    else s)

/-- Is this module the time root it follows (R283)? -/
def isTimeRoot (s : State) : Bool := decide (s.time.root = selfNode s) && !s.time.holdover

/-- A pulse is valid (R468). -/
def pulseValid (intervalNs widthNs : Nat) : Bool :=
  decide (999990000 ≤ intervalNs) && decide (intervalNs ≤ 1000010000) && decide (1000 ≤ widthNs) &&
  decide (widthNs ≤ 500000000)

/-- How far module time lies from the nearest whole second, as what to add, in 2^-16 ns. -/
def toWholeSecond (now : Nat) : Int :=
  let second : Int := 1000000000 * 65536
  let f : Int := (now : Int) % second
  if f * 2 ≤ second then -f else second - f

/-- PPS_PULSE (R468): only the root heeds it; from the fourth valid pulse in a row on, each pulse sets what
the servo has to slew. -/
def execPpsPulse (intervalNs widthNs : Nat) (s : State) : Host.Outcome State Fault Refusal :=
  .next (if !isTimeRoot s then s
    else if pulseValid intervalNs widthNs then
      modTime s (fun t =>
        let n := t.pulses + 1
        let steer := t.steering || decide (4 ≤ n)
        { t with pulses := n, steering := steer, adjust := if steer then toWholeSecond t.now else t.adjust })
    else modTime s (fun t => { t with pulses := 0 }))

/-- PPS_TIMEOUT (R468): 2 s without a valid pulse. -/
def execPpsTimeout (s : State) : Host.Outcome State Fault Refusal :=
  .next (modTime s (fun t => { t with pulses := 0, steering := false, adjust := 0 }))

/-! ### Limits (R430, R473) -/

/-- The sum of shares is within CAP and each is at least 200, or all are zero (R430). -/
def sharesOk (share : List Nat) (cap : Nat) : Bool :=
  share.all (· == 0) || (share.all (fun w => decide (200 ≤ w)) && decide (sumNat share ≤ cap))

/-- The power settings after POWER_SET's 32 argument bytes, none when one is out of range (R430). -/
def powerSettings (p : Power) (a : List Byte) : Option Power :=
  let cap0 := leAt a 0 2
  let peak0 := leAt a 2 2
  let slew0 := leAt a 4 1
  let fl := leAt a 5 1
  let share0 := [leAt a 8 2, leAt a 10 2, leAt a 12 2, leAt a 14 2]
  let cap := if cap0 = 0 then p.cap else cap0
  let peak := if peak0 = 0 then p.peakCap else peak0
  let slew := if slew0 = 0 then p.slew else slew0
  if a.length = 32 ∧ 400 ≤ cap ∧ cap ≤ 1500 ∧ cap ≤ peak ∧ peak ≤ 2000 ∧ 4 ≤ slew ∧ slew ≤ 16 ∧ fl < 4 ∧
      leAt a 6 2 = 0 ∧ leNat (a.drop 16) = 0 ∧ sharesOk share0 cap then
    some { p with cap := cap, peakCap := peak, slew := slew, trim := if bit fl 1 then bit fl 0 else p.trim,
                  share := share0 }
  else none

/-- The limits in force, as POWER_SET answers them. -/
def limitWords (p : Power) : List Byte := words ([p.cap, p.peakCap, p.slew, b2n p.trim] ++ p.share)

/-- POWER_SET (R430): the arguments are the request's own bytes. -/
def execPowerSet (m : Mbox) (s : State) : Host.Outcome State Fault Refusal :=
  .next (runCommand s m 0x0080 (fun r s =>
    match powerSettings s.power r.args with
    | none => answer s m r stField [] 0
    | some p => answer { s with power := p } m r stSuccess (limitWords p) 0))

/-- The settings after an effecter write, none when out of range (R473). -/
def effecterSettings (p : Power) (e : Effecter) (v : Nat) : Option Power :=
  match e with
  | .cap => if 400 ≤ v ∧ v ≤ 1500 ∧ v ≤ p.peakCap ∧ sharesOk p.share v then some { p with cap := v } else none
  | .peakCap => if p.cap ≤ v ∧ v ≤ 2000 then some { p with peakCap := v } else none
  | .slew => if 4 ≤ v ∧ v ≤ 16 then some { p with slew := v } else none

/-- Record an answer on the management bus (R472). -/
def mctpAnswer (s : State) (bs : List Byte) : State := { s with out := { s.out with mctp := s.out.mctp ++ [bs] } }

/-- PLDM_EFFECTER_WRITE (R473): completion 0x00 success, 0x02 invalid data (notes/assumptions/13.md); the
interface works while the input stage is on (R472). -/
def execPldmEffecterWrite (e : Effecter) (value : Nat) (s : State) : Host.Outcome State Fault Refusal :=
  .next (if !s.power.inputOn then s
    else match effecterSettings s.power e value with
      | none => mctpAnswer s [0x02]
      | some p => mctpAnswer { s with power := p } [0x00])

/-- MCTP_CONTROL (R472): a control message on the management bus is answered; the answer echoes the
instance and command bytes with completion 0x00 (notes/assumptions/13.md). -/
def execMctpControl (msg : List Byte) (s : State) : Host.Outcome State Fault Refusal :=
  .next (if s.power.inputOn then mctpAnswer s ((msg.take 2) ++ [0x00]) else s)

end Sys2Proof.Machine
end

