-- ==== Sys2Proof/Machine/Links.lean ====
section
/-! DEFINITION. Machine/Links.lean: codewords, control flits, training, the router's hops and module time
(R255 to R276, R282 to R284). -/

namespace Sys2Proof.Machine

/-! ### Input buffers (R267, R268, R270) -/

/-- Flits of a held packet. -/
def heldFlits (h : HeldPacket) : Nat := flitsOf h.pkt.payload.length

/-- Flits of the packet in arrival that wait in a VC, and how many of them lie in the skid; those of a packet that leaves
as they come, or that is dropped, take no room. -/
def asmFlits (x : Port) (v : Nat) : Nat × Nat :=
  match x.asm with
  | some a => if a.vc = v then (match a.fate with | .held _ => (a.flits.length, a.skid) | _ => (0, 0)) else (0, 0)
  | none => (0, 0)

/-- The occupancy of an input VC (R270): its flits in its dedicated space and in the skid. -/
def vcFlits (x : Port) (v : Nat) : Nat := sumNat ((x.vcs.getD v []).map heldFlits) + (asmFlits x v).1

/-- Flits of a VC that lie in the skid. -/
def vcSkid (x : Port) (v : Nat) : Nat := sumNat ((x.vcs.getD v []).map (·.skid)) + (asmFlits x v).2

/-- Bytes of the skid in use (R268). -/
def skidBytes (x : Port) : Nat := 64 * sumNat ((List.range 8).map (vcSkid x))

/-- The VCs that are off by their own occupancy: from 33 flits until 8 (R270). -/
def offBits (x : Port) : BitVec 8 :=
  (List.range 8).foldl (fun b v =>
    let n := vcFlits x v
    if decide (33 ≤ n) || (decide (8 < n) && x.off.getLsbD v) then b ||| (1#8 <<< v) else b) 0#8

/-- The VCs that a port reports off: every VC while the skid holds more than 80 KiB (R270). -/
def reportedOff (x : Port) : BitVec 8 := if 80 * 1024 < skidBytes x then 0xFF#8 else x.off

/-- Recompute what is off, and the watermarks (R270, R285). -/
def settlePort (s : State) (p : Nat) : State :=
  modPort s p (fun x => { x with
    off := offBits x,
    marks := x.marks.zipIdx.map (fun m => max m.1 (vcFlits x m.2)) })

/-- Room for n flits of a VC (R268, R270): how many of them go into the skid, or none when both spaces are full. The skid
takes what arrives once the VC is reported off, as far as it has room; the rest lies in the VC's 66 flits (DESIGN CHOICE,
notes/assumptions/31.md). -/
def roomFor (x : Port) (v n : Nat) : Option Nat :=
  let occ := vcFlits x v
  let own := 66 - (occ - vcSkid x v)
  let first := min (if (reportedOff x).getLsbD v then 0 else min n (33 - occ)) own
  let skid := min (n - first) (1536 - skidBytes x / 64)
  if n - skid ≤ own then some skid else none

/-- Packets at the head of a VC whose route ends here are delivered (R274). -/
def sinkVc (s : State) (p v : Nat) : State :=
  let q := (portAt s p).vcs.getD v []
  let ends (h : HeldPacket) : Bool := decide (h.hop = .deliver)
  if (q.takeWhile ends).isEmpty then settlePort s p
  else
    settlePort (modPort (modRouter s (fun r => { r with arrived := r.arrived ++ (q.takeWhile ends).map (·.pkt) })) p
      (fun x => { x with vcs := setAt x.vcs v (q.dropWhile ends) })) p

/-- Put a packet with its route at the end of its VC. -/
def holdPacket (s : State) (p : Nat) (q : Packet) (hop : Hop) (again : Bool) (skid : Nat) : State :=
  sinkVc (modPort s p (fun x => { x with
    vcs := x.vcs.modify (vcOf q) (fun l => l ++ [⟨q, hop, again, skid, x.seen⟩]), seen := x.seen + 1 })) p (vcOf q)

/-- Put a whole packet at the end of its VC; dropped as an overrun when both spaces are full (R270). -/
def enqueue (s : State) (p : Nat) (q : Packet) (hop : Hop) : State :=
  match roomFor (portAt s p) (vcOf q) (flitsOf q.payload.length) with
  | none => bumpDrop s p 6
  | some k => holdPacket s p q hop false k

/-- The head of a VC leaves it. -/
def popVc (s : State) (p v : Nat) : State :=
  sinkVc (modPort s p (fun x => { x with vcs := x.vcs.modify v (fun l => l.drop 1) })) p v

/-! ### What waits for an output (R269, R271) -/

/-- The axis of a port (R273). -/
def axisOf (port : Nat) : Nat := port / 2

/-- A packet that may start on an output: where it comes from (an input port, or 8 for a packet made here), its place
there (a VC, 8 for the packet in arrival, or its number in the waiting list), and the packet as it leaves. -/
structure Cand where
  src   : Nat
  place : Nat
  esc   : Bool
  pkt   : Packet
  deriving DecidableEq, Repr

/-- May the head of a packet still arriving start on an output: the input is at least as fast (R269)? -/
def keepsPace (s : State) (inPort out : Nat) : Bool :=
  let a := portAt s inPort
  let b := portAt s out
  decide (b.lanes * b.rate ≤ a.lanes * a.rate)

/-- The packet in arrival as its header stands, one hop fewer (R266). -/
def asmHead (a : Assembly) : Packet :=
  let h := headOf (a.flits.getD 0 [])
  sealHeader { h with hops := h.hops - 1 }

/-- A held packet as it leaves by an output, if that is its route. -/
def leaving (s : State) (inAxis : Option Nat) (out : Nat) (q : Packet) (hop : Hop) : Option (Bool × Packet) :=
  match hop with
  | .out o esc => if o = out then some (esc, leaveBy s inAxis q o esc) else none
  | _ => none

/-- The heads of an input port's VCs that leave by an output: arrival order, VC, ESC choice, the packet as it leaves. -/
def headsFor (s : State) (i out : Nat) : List (Nat × Nat × Bool × Packet) :=
  (List.range 8).filterMap (fun v => ((portAt s i).vcs.getD v []).head?.bind (fun h =>
    (leaving s (some (axisOf i)) out h.pkt h.hop).map (fun q => (h.seen, v, q.1, q.2))))

/-- The packet in arrival, when it leaves by an output and nothing is before it in its VC (R269). -/
def asmFor (s : State) (i out : Nat) : Option (Bool × Packet) :=
  match (portAt s i).asm with
  | some a => match a.fate with
    | .held hop => if ((portAt s i).vcs.getD a.vc []).isEmpty then leaving s (some (axisOf i)) out (asmHead a) hop else none
    | _ => none
  | none => none

/-- Is a packet as it leaves one of a group, with its VC on at the next hop (R269, R271)? -/
def eligible (s : State) (out group : Nat) (q : Packet) : Bool :=
  decide (vcOf q / 2 = group) && (portAt s out).peerOn.getLsbD (vcOf q)

/-- The oldest eligible packet of a group at an input port (R271). -/
def oldestAt (s : State) (out group i : Nat) : Option Cand :=
  let ready := (headsFor s i out).filter (fun h => eligible s out group h.2.2.2)
  match ready.foldl (fun b h => match b with
      | none => some h
      | some x => if h.1 < x.1 then some h else some x) (none : Option (Nat × Nat × Bool × Packet)) with
  | some h => some ⟨i, h.2.1, h.2.2.1, h.2.2.2⟩
  | none => (asmFor s i out).bind (fun q =>
      if eligible s out group q.2 && keepsPace s i out then some ⟨i, 8, q.1, q.2⟩ else none)

/-- The oldest eligible packet of a group made here. -/
def oldestHere (s : State) (out group : Nat) : Option Cand :=
  (s.router.waiting.zipIdx.filterMap (fun h => (leaving s none out h.1.pkt h.1.hop).bind (fun q =>
    if eligible s out group q.2 then some (⟨8, h.2, q.1, q.2⟩ : Cand) else none))).head?

/-- The packet of a group that goes next: the inputs in round-robin order from the one after the last served, the packets
made here as a ninth, and of each the oldest (R271). -/
def candOf (s : State) (out group : Nat) : Option Cand :=
  ((List.range 9).map (fun k => ((portAt s out).lastIn + 1 + k) % 9)).findSome? (fun i =>
    if i = 8 then oldestHere s out group else oldestAt s out group i)

/-- The first of the groups listed that has a packet takes its quantum; a group passed with none keeps no deficit. -/
def nextGroup (s : State) (out : Nat) : List Nat → List Nat → Option (Nat × Cand × List Nat)
  | [], _ => none
  | g :: gs, d => match candOf s out g with
    | some c => some (g, c, setAt d g (d.getD g 0 + quantum - wireBytes c.pkt))
    | none => nextGroup s out gs (setAt d g 0)

/-- The packet that an output starts next, with the group and the deficits after it: deficit round robin over the four
groups with equal quanta (R271). -/
def pickNext (s : State) (out : Nat) : Option (Nat × Cand × List Nat) :=
  let x := portAt s out
  let after := [1, 2, 3, 4].map (fun k => (x.turn + k) % 4)
  match candOf s out x.turn with
  | some c =>
    if wireBytes c.pkt ≤ x.deficit.getD x.turn 0 then
      some (x.turn, c, setAt x.deficit x.turn (x.deficit.getD x.turn 0 - wireBytes c.pkt))
    else nextGroup s out after x.deficit
  | none => nextGroup s out after (setAt x.deficit x.turn 0)

/-! ### Starting (R261, R269) -/

/-- Cut-through: a packet in arrival starts on an output with the flits it has, its header rewritten (R266, R269). -/
def startCut (s : State) (i out : Nat) (esc : Bool) (q : Packet) : State :=
  match (portAt s i).asm with
  | none => s
  | some a =>
    let flits := a.flits.zipIdx.map (fun f =>
      (decide (f.2 = 0), if f.2 = 0 then natLE 32 (headerNat q) ++ f.1.drop 32 else f.1))
    settlePort (modPort (modPort s i (fun x => { x with asm := some { a with fate := .going out esc, skid := 0 } })) out (fun x => { x with
      txFlits := x.txFlits ++ flits, owner := some i })) i

/-- The packet that an output has picked leaves its place and starts. -/
def startCand (s : State) (out : Nat) (c : Cand) : State :=
  if c.src = 8 then
    sendBy (modRouter s (fun r => { r with waiting := r.waiting.eraseIdx c.place })) none out c.pkt
  else if c.place = 8 then startCut s c.src out c.esc c.pkt
  else sendBy (popVc s c.src c.place) (some c.src) out c.pkt

/-- One start on an output, if it is free and a packet may start (R269, R271). -/
def serve (s : State) (out : Nat) : State :=
  let x := portAt s out
  if x.up && decide (x.txFlits.length < 10) && x.owner.isNone then
    match pickNext s out with
    | none => s
    | some (g, c, d) => startCand (modPort s out (fun y => { y with turn := g, deficit := d, lastIn := c.src })) out c
  else s

/-- Start everything that may start: every output in turn, ten times over (a codeword holds at most ten starts). -/
def startAll (s : State) : State := (List.range 80).foldl (fun s k => serve s (k % 8)) s

/-! ### Arrival and hops (R260, R266, R269, R274) -/

/-- Checks of a packet that arrives by a port (R265, R266): counted in, then dropped and counted, or the
packet with HOPS one lower. -/
def takeIn (s : State) (port : Nat) (p : Packet) : State × Option Packet :=
  let s1 := bumpPort (bumpPort s port 0 1) port 1 p.payload.length
  match headerDrop p with
  | some cause => (bumpDrop s1 port cause, none)
  | none => if p.hops ≤ 1 then (bumpDrop s1 port 2, none) else (s1, some (sealHeader { p with hops := p.hops - 1 }))

/-- A whole packet that has arrived by a port that is up: checked, its route chosen, then delivered, dropped, sent on or
left waiting in its VC; the output it wants picks by its own order (R271). A port that is down takes no packet (R260). -/
def arrivePacket (s : State) (port : Nat) (p : Packet) : State :=
  if !(portAt s port).up then s
  else match takeIn s port p with
    | (s1, none) => s1
    | (s1, some q) =>
      let c := chooseHop s1 q.dest none
      let s2 := countHit s1 c.2
      let first := ((portAt s2 port).vcs.getD (vcOf q) []).isEmpty
      match c.1 with
      | .drop cause => bumpDrop s2 port cause
      | .deliver => if first then modRouter s2 (fun r => { r with arrived := r.arrived ++ [q] }) else enqueue s2 port q .deliver
      | .out o esc => serve (enqueue s2 port q (.out o esc)) o

/-- PACKET_HOP (R274): the header of a packet at a router. By a port: the packet in arrival, or the head of a VC, starts
if it can; any other is a packet that arrives whole. Without a port: a packet made here tries to leave. -/
def execPacketHop (inPort : Option Nat) (p : Packet) (s : State) : Host.Outcome State Fault Refusal :=
  .next (match inPort with
    | none => if s.router.waiting.any (fun h => decide (h.pkt = p)) then startAll s else inject s p
    | some port =>
      let here : Bool := match (portAt s port).asm with
        | some a => decide (headerNat (headOf (a.flits.getD 0 [])) = headerNat p)
        | none => false
      if here || decide (((portAt s port).vcs.getD (vcOf p) []).head?.map (·.pkt) = some p) then startAll s
      else arrivePacket s port p)

/-- HEAD_WAIT_TIMEOUT (R272): the head of a VC that has waited for the head-wait limit without starting is dropped. -/
def execHeadWaitTimeout (port vc : Nat) (s : State) : Host.Outcome State Fault Refusal :=
  .next (if ((portAt s port).vcs.getD vc []).isEmpty then s else startAll (popVc (bumpDrop s port 5) port vc))

/-! ### Module time (R282 to R284) -/

/-- The mean of a list of integers, 0 for none. -/
def meanInt (l : List Int) : Int := if l.isEmpty then 0 else l.foldl (· + ·) 0 / (l.length : Int)

/-- The link delay and the peer's offset of one exchange (R282). -/
def exchange (t1 t2 t3 t4 : Int) : Int × Int := (((t4 - t1) - (t3 - t2)) / 2, ((t2 - t1) + (t3 - t4)) / 2)

/-- Ports that report a root within reach (R284), with DIST and port number. -/
def reporters (s : State) (root : Nat) : List (Nat × Nat) :=
  (List.range 8).filterMap (fun p =>
    let x := portAt s p
    if x.up && decide (x.dist < 255) && decide (x.root = root) then some (x.dist, p) else none)

/-- The reporter with the lowest DIST, ties to the lower port (R283). -/
def bestParent (l : List (Nat × Nat)) : Option (Nat × Nat) :=
  l.foldl (fun b q => match b with
    | none => some q
    | some x => if q.1 < x.1 then some q else some x) none

/-- The root a module chooses (R284, 1 and 2). -/
def chooseRoot (s : State) : Nat :=
  let self := selfNode s
  let lowest := (List.range 8).foldl (fun m p =>
    let x := portAt s p
    if x.up && decide (x.dist < 255) then min m x.root else m) self
  match s.time.named with
  | some n => if n = self ∨ !(reporters s n).isEmpty then n else lowest
  | none => lowest

/-- What a root steers by its pulse ends when it is no longer the root it follows (R468). -/
def freeRun (t : TimeState) : TimeState := { t with pulses := 0, steering := false, adjust := 0 }

/-- Follow a root: parent and DIST (R283); an offset above 1 us from a new parent raises the
time-unsynchronised event once (R284). -/
def followRoot (s : State) (root : Nat) : State :=
  if root = selfNode s then
    modTime s (fun t => { t with root := root, parent := none, dist := 0, holdover := false, raised := false })
  else match bestParent (reporters s root) with
    | none => modTime s (fun t => { freeRun t with root := root, parent := none, dist := 255, holdover := true })
    | some (d, p) =>
      let changed := decide (s.time.root ≠ root)
      let far := decide (65536000 < (meanInt (portAt s p).offsets).natAbs)
      let s1 := modTime s (fun t => { freeRun t with
        root := root, parent := some p, dist := min 254 (d + 1), holdover := false, raised := false })
      if changed && far then raiseEventP s1 evTime 0 root else s1

/-- Reconsider the root after what the ports report has changed (R284): in holdover only the root that was
lost is followed again, until ROOT_RESELECT. -/
def reconsider (s : State) : State :=
  if s.time.holdover then
    (if (reporters s s.time.root).isEmpty then s else followRoot s s.time.root)
  else if s.time.root ≠ selfNode s ∧ (reporters s s.time.root).isEmpty then
    modTime s (fun t => { freeRun t with parent := none, dist := 255, holdover := true })
  else followRoot s (chooseRoot s)

/-! ### Links going down (R260, R261) -/

/-- The stomped copy of a packet whose head has been forwarded (R261). -/
def stomped (a : Assembly) : Packet :=
  let raw := a.flits.flatten
  let len := lenOf raw
  let got := (raw.drop 32).take len
  { asmHead a with payload := got ++ List.replicate (len - got.length) 0, trailer := stompTrailer }

/-- A packet that leaves as it arrives has come to its end: its last flits join the output, and it is counted. -/
def endCut (s : State) (i out : Nat) (flits : List (List Byte)) (q : Packet) : State :=
  noteCross (noteSent (modPort s out (fun x => { x with
    txFlits := x.txFlits ++ flits.map (fun f => (false, f)), owner := none })) out q) (some i) out q

/-- The packet in arrival on a port is lost: stomped if its head has gone, else a mid-packet loss (R261). -/
def loseAssembly (s : State) (port : Nat) : State :=
  match (portAt s port).asm with
  | none => s
  | some a =>
    let s1 := modPort s port (fun x => { x with asm := none })
    match a.fate with
    | .dead => s1
    | .held _ => settlePort (bumpDrop s1 port 7) port
    | .going o esc =>
      let q := leaveBy s1 (some (axisOf port)) (stomped a) o esc
      endCut s1 port o (((packetFlitsOf q).map (·.2)).drop a.flits.length) q

/-- The packets in mid-send on a port are lost there, and counted (R261, R274). -/
def loseSending (s : State) (out : Nat) : State :=
  let x := portAt s out
  let cut := match x.txFlits with
    | [] => b2n x.owner.isSome
    | f :: _ => b2n (!f.1)
  let s1 := match x.owner with
    | none => s
    | some i => modPort s i (fun y => { y with asm := y.asm.map (fun a => { a with fate := .dead }) })
  modPort s1 out (fun y => { y with
    txFlits := [], owner := none, drops := bump y.drops 7 ((x.txFlits.filter (·.1)).length + cut) })

/-- A route that leads to a port gone down is chosen once more (R274). -/
def chooseAgain (s : State) (port : Nat) (via : Option Nat) (h : HeldPacket) : HeldPacket :=
  match h.hop with
  | .out o _ => if o = port && !h.again then { h with hop := (chooseHop s h.pkt.dest via).1, again := true } else h
  | _ => h

/-- Is a packet dropped by its route? -/
def isDrop : Hop → Bool
  | .drop _ => true
  | _ => false

/-- The light-list entry that takes a packet when its route is chosen once more is counted (R275). -/
def countAgain (s : State) (port : Nat) (hs : List HeldPacket) : State :=
  hs.foldl (fun s h => match h.hop with
    | .out o _ => if o = port && !h.again then countHit s (chooseHop s h.pkt.dest none).2 else s
    | _ => s) s

/-- The packets that a list loses, counted by cause (R285). -/
def dropCounts (drops : List Nat) (hs : List HeldPacket) : List Nat :=
  hs.foldl (fun d h => match h.hop with | .drop c => bump d c 1 | _ => d) drops

/-- Does a route lead to a port? -/
def routedBy (port : Nat) : Hop → Bool
  | .out o _ => decide (o = port)
  | _ => false

/-- Does a packet at an input port wait for a port? -/
def waitsAt (x : Port) (port : Nat) : Bool :=
  x.vcs.flatten.any (fun h => routedBy port h.hop) ||
  (match x.asm with
    | some a => (match a.fate with | .held hop => routedBy port hop | _ => false)
    | none => false)

/-- The packets of an input port whose route leads to a port gone down. -/
def rechooseAt (s : State) (port i : Nat) : State :=
  let x := portAt s i
  if !waitsAt x port then s else
  let s0 := countAgain s port x.vcs.flatten
  let vcs := x.vcs.map (fun l => l.map (chooseAgain s port none))
  let asm := x.asm.map (fun a => match a.fate with
    | .held hop =>
      let h := chooseAgain s port none ⟨asmHead a, hop, a.again, 0, 0⟩
      { a with again := h.again, fate := if isDrop h.hop then .dead else .held h.hop }
    | _ => a)
  let lost := x.asm.elim [] (fun a => match a.fate with
    | .held hop => [chooseAgain s port none ⟨asmHead a, hop, a.again, 0, 0⟩]
    | _ => [])
  let s1 := modPort s0 i (fun y => { y with
    vcs := vcs.map (fun l => l.filter (fun h => !isDrop h.hop)), asm := asm, drops := dropCounts y.drops (vcs.flatten ++ lost) })
  (List.range 8).foldl (fun s v => sinkVc s i v) s1

/-- Every packet that waits for a port gone down has its route chosen once more (R274). -/
def rechoose (s : State) (port : Nat) : State :=
  let s1 := (List.range 8).foldl (fun s i => rechooseAt s port i) s
  if !s1.router.waiting.any (fun h => routedBy port h.hop) then s1 else
  let hs := s1.router.waiting.map (fun h => chooseAgain s1 port h.pkt.via h)
  let s2 := modRouter (countAgain s1 port s1.router.waiting) (fun r => { r with waiting := hs.filter (fun h => !isDrop h.hop) })
  modPort s2 port (fun y => { y with drops := dropCounts y.drops hs })

/-- A running link goes down and trains again (R260): what was in mid-packet on it is lost, what waits for it is routed
anew, and the time root it may have led to is reconsidered (R284); until the Keeper's list comes the default sidestep
stands in (R276). -/
def linkDown (s : State) (port : Nat) : State :=
  if (portAt s port).up then
    let s1 := loseSending (loseAssembly s port) port
    let s2 := modPort s1 port (fun x => { x with
      up := false, training := true, listDue := true, burst := [], peerOn := 0, dist := 255,
      cnt := bump x.cnt 7 1 })
    reconsider (rechoose s2 port)
  else s

/-- LOSS_OF_LOCK (R260). -/
def execLossOfLock (port : Nat) (s : State) : Host.Outcome State Fault Refusal := .next (linkDown s port)

/-! ### Codewords (R256, R257, R261) -/

/-- The flits of a codeword that can carry packets: flit 9 of every codeword counted 4 mod 5 is a control
flit (R257). -/
def packetFlits (cwmod : Nat) (c : Codeword) : List (Bool × List Byte) :=
  (c.flits.zipIdx.filter (fun f => !(decide (cwmod = 4) && decide (f.2 = 9)))).map
    (fun f => (c.sop.getLsbD f.2, f.1))

/-- The flits a packet needs, from its first flit (R263). -/
def needOf (flit : List Byte) : Nat := flitsOf (lenOf flit)

/-- The header of a packet arrives (R266, R274): it is checked, and its route chosen; a packet that fails is dropped with
the rest of its flits. -/
def openAssembly (s : State) (port : Nat) (flit : List Byte) : State :=
  let set (s : State) (vc skid : Nat) (f : Fate) : State :=
    settlePort (modPort s port (fun x => { x with asm := some ⟨[flit], needOf flit, vc, skid, false, f⟩ })) port
  match takeIn s port (headOf flit) with
  | (s1, none) => set s1 0 0 .dead
  | (s1, some q) =>
    let c := chooseHop s1 q.dest none
    let s2 := countHit s1 c.2
    match c.1 with
    | .drop cause => set (bumpDrop s2 port cause) 0 0 .dead
    | hop => match roomFor (portAt s2 port) (vcOf q) 1 with
      | none => set (bumpDrop s2 port 6) 0 0 .dead
      | some k => set s2 (vcOf q) k (.held hop)

/-- A further flit of the packet in arrival: it leaves by the packet's output, or takes room in its VC (R269, R270). -/
def joinFlit (s : State) (port : Nat) (a : Assembly) (flit : List Byte) : State :=
  let b := { a with flits := a.flits ++ [flit] }
  let set (s : State) (b : Assembly) : State := modPort s port (fun x => { x with asm := some b })
  match a.fate with
  | .dead => set s b
  | .going o _ =>
    if b.flits.length < a.need then set (modPort s o (fun x => { x with txFlits := x.txFlits ++ [(false, flit)] })) b else set s b
  | .held _ => match roomFor (portAt s port) a.vc 1 with
    | none => set (bumpDrop s port 6) { b with fate := .dead }
    | some k => settlePort (set s { b with skid := a.skid + k }) port

/-- A packet with all its flits (R257, R263): it waits in its VC, or its last flit leaves. -/
def closeAssembly (s : State) (port : Nat) (a : Assembly) : State :=
  let s1 := modPort s port (fun x => { x with asm := none })
  let raw := a.flits.flatten
  let k := packetOfBytes raw
  let q := sealHeader { k with hops := k.hops - 1 }
  match a.fate with
  | .dead => s1
  | .held hop => holdPacket s1 port q hop a.again a.skid
  | .going o esc => endCut s1 port o [a.flits.getLastD []] (leaveBy s1 (some (axisOf port)) q o esc)

/-- One flit of a packet: a start opens a packet (an unfinished one is lost), any other joins the packet in
hand, or is idle; a packet with all its flits has arrived (R257, R261, R263). -/
def takeFlit (s : State) (port : Nat) (f : Bool × List Byte) : State :=
  let s1 :=
    if f.1 then openAssembly (loseAssembly s port) port f.2
    else match (portAt s port).asm with
      | none => s
      | some a => joinFlit s port a f.2
  match (portAt s1 port).asm with
  | none => s1
  | some a => if a.flits.length < a.need then s1 else closeAssembly s1 port a

/-- Is the latest uncorrectable codeword the eighth within 1 ms (R260)? -/
def burstFull (times : List Nat) : Bool :=
  decide (8 ≤ times.length) && decide (times.getD 0 0 < times.getD 7 0 + 1000000)

/-- A codeword after FEC decoding (R256 to R261): a correctable one in sequence gives up its flits; one out of
sequence takes the link down; an uncorrectable one is dropped with its flits and counted, and the eighth
within 1 ms takes the link down. -/
def takeCodeword (s : State) (port : Nat) (c : Codeword) : State :=
  let x := portAt s port
  let next (s : State) : State :=
    modPort s port (fun x => { x with cwseq := (x.cwseq + 1) % 16, cwmod := (x.cwmod + 1) % 5 })
  if c.ok then
    if c.cwseq ≠ x.cwseq then linkDown s port
    else
      let fixed := sumNat c.corrected
      let s1 := modPort s port (fun x => { x with
        cnt := bump x.cnt 4 (b2n (decide (0 < fixed))),
        symbols := x.symbols.zipIdx.map (fun q => q.1 + c.corrected.getD q.2 0) })
      next ((packetFlits x.cwmod c).foldl (fun s f => takeFlit s port f) s1)
  else
    let times := (nowNs s :: x.burst).take 8
    let s1 := modPort s port (fun x => { x with cnt := bump x.cnt 5 1, burst := times })
    let s2 := next (loseAssembly s1 port)
    if burstFull times then linkDown s2 port else s2

/-- The control flit that a port sends (R262): its VCs that are on, its time, the echo of the peer's flit, its root. -/
def ownFlit (s : State) (port : Nat) : ControlFlit :=
  let x := portAt s port
  { on := ~~~ reportedOff x, cseq := x.txCseq, tx := s.time.now, ecseq := x.rxCseq, erx := x.rxAt,
    dist := s.time.dist, root := s.time.root }

/-- The next codeword leaves (R256, R257): ten flits that wait, or idle ones; flit 9 of every codeword counted 4 mod 5 is a
control flit. While a packet that leaves as it arrives has too few flits to fill the codeword, none leaves (DESIGN
CHOICE, notes/assumptions/14.md). -/
def sendCodeword (s : State) (port : Nat) : State :=
  let x := portAt s port
  let control := decide (x.txWords % 5 = 4)
  let n := if control then 9 else 10
  if x.owner.isSome && decide (x.txFlits.length < n) then s
  else
    let got := x.txFlits.take n
    let flits := got ++ List.replicate (n - got.length) (false, List.replicate 64 0) ++
      (if control then [(false, controlBytes (ownFlit s port))] else [])
    let sop := flits.zipIdx.foldl (fun b f => if f.1.1 then b ||| (1#10 <<< f.2) else b) 0#10
    modPort s port (fun y => { y with
      txFlits := x.txFlits.drop n, txWords := x.txWords + 1,
      wire := codewordLanes x.lanes sop (x.txWords % 16) (flits.map (·.2)),
      txCseq := if control then (x.txCseq + 1) % 2 ^ 32 else x.txCseq,
      txTimes := if control then ((x.txCseq, s.time.now) :: x.txTimes).take 64 else x.txTimes })

/-- CODEWORD_RECEIVE (R256 to R261): the symbols of a codeword, by active lane. A link runs at one rate in both directions
(R258), so a codeword leaves for each that arrives (DESIGN CHOICE, notes/assumptions/14.md), and what may start on the
port then starts. -/
def execCodewordReceive (port : Nat) (lanes : List (List Nat)) (s : State) : Host.Outcome State Fault Refusal :=
  .next (if !(portAt s port).up then s
    else
      let t := takeCodeword s port (receivedCodeword (portAt s port).firstLane lanes)
      startAll (if (portAt t port).up then sendCodeword t port else t))

/-! ### Training (R258, R259) -/

/-- Lanes and first lane that a set of passing lanes allows (R259, stage 3). -/
def lanesFor (pass : BitVec 16) : Option (Nat × Nat) :=
  if pass = 0xFFFF#16 then some (16, 0)
  else if pass &&& 0x00FF#16 = 0x00FF#16 then some (8, 0)
  else if pass &&& 0xFF00#16 = 0xFF00#16 then some (8, 8)
  else none

/-- The width and rate of a link after training at a rate or below (R259): lanes, first lane, rate. -/
def trainAt (t : LinkTrain) (rate : Nat) : Option (Nat × Nat × Nat) :=
  let at224 := if t.lock224 then (lanesFor t.pass224).map (fun l => (l.1, l.2, 224)) else none
  let at112 := if t.lock112 then (lanesFor t.pass112).map (fun l => (l.1, l.2, 112)) else none
  let at56 := if t.lock56 then (lanesFor t.pass56).map (fun l => (l.1, l.2, 56)) else none
  if 224 ≤ rate then at224.or (at112.or at56) else at112.or at56

/-- The round trip that the link delays give: twice their mean, in whole ns (R259, R282). -/
def roundTrip (delays : List Int) : Nat := (2 * meanInt delays).toNat / 65536

/-- The link delays of the exchanges of stage 5 (R259, R282). -/
def trainDelays (t : LinkTrain) : List Int :=
  (t.exchanges.map (fun e => (exchange e.t1 e.t2 e.t3 e.t4).1)).take 64

/-- The round trip that training measures, in ns (R259, R282). -/
def rttNs (t : LinkTrain) : Nat := roundTrip (trainDelays t)

/-- Does the mean round trip of the exchanges exceed a number of ns (R259)? Compared exactly, in 2^-16 ns. -/
def tripExceeds (t : LinkTrain) (ns : Nat) : Bool :=
  let es := t.exchanges.take 64
  decide ((65536 * (ns * es.length : Nat) : Int) < es.foldl (fun n e => n + (((e.t4 : Int) - e.t1) - ((e.t3 : Int) - e.t2))) 0)

/-- The result of training with the limits of round trip (R259): above 200 ns no link runs at 224 Gb/s,
above 400 ns none runs. -/
def trainResult (t : LinkTrain) : Option (Nat × Nat × Nat) :=
  if tripExceeds t 400 then none
  else if tripExceeds t 200 then trainAt t 112
  else trainAt t 224

/-- The DETAIL of the link-degraded event (R467). -/
def linkDetail (cause lanes rate : Nat) : Nat := cause + 256 * lanes + 65536 * rate

/-- A link's training ends (R259). -/
def trainPort (s : State) (port : Nat) (t : LinkTrain) : State :=
  let x := portAt s port
  if x.heldBy ≠ 0 then s
  else match trainResult t with
    | none => modPort s port (fun x => { x with up := false, training := false, cnt := bump x.cnt 6 1 })
    | some (lanes, first, rate) =>
      let s1 := modPort s port (fun x => { x with
        up := true, training := false, lanes := lanes, firstLane := first, rate := rate, rtt := rttNs t,
        peerOn := 0xFF#8, cwseq := 0, cwmod := 0, burst := [], asm := none, listDue := true,
        marks := (List.range 8).map (vcFlits x), txTimes := [], delays := trainDelays t, offsets := [],
        txFlits := [], owner := none, txWords := 0, turn := 0, deficit := List.replicate 4 0, lastIn := 0,
        cnt := bump x.cnt 6 1 })
      let s2 := if lanes < 16 ∨ rate < 224 then raiseEventP s1 evLink port (linkDetail 1 lanes rate) else s1
      startAll s2

/-- LINK_TRAINING_DONE (R259). -/
def execLinkTrainingDone (port : Nat) (t : LinkTrain) (s : State) : Host.Outcome State Fault Refusal :=
  .next (if (portAt s port).training then trainPort s port t else s)

/-- RETRAIN_TIMER (R259): a link that stayed down is trained again, every 10 s. -/
def execRetrainTimer (port : Nat) (s : State) : Host.Outcome State Fault Refusal :=
  .next (modPort s port (fun x => if x.up || decide (x.heldBy ≠ 0) || !s.boot.links then x else { x with training := true }))

/-- CONTROL_FLIT (R262, R270, R282): the peer's VC states, its time exchange, which gives the round trip anew, and its
root. -/
def execControlFlit (port : Nat) (f : ControlFlit) (arrival : Nat) (s : State) : Host.Outcome State Fault Refusal :=
  .next (if !(portAt s port).up then s
    else
      let s1 := modPort s port (fun x =>
        let y := { x with peerOn := f.on, rxCseq := f.cseq, rxAt := arrival, dist := f.dist, root := f.root }
        match x.txTimes.find? (fun q => q.1 == f.ecseq) with
        | none => y
        | some q =>
          let e := exchange q.2 f.erx f.tx arrival
          let delays := (e.1 :: y.delays).take 64
          { y with delays := delays, rtt := roundTrip delays, offsets := (e.2 :: y.offsets).take 64 })
      startAll (reconsider s1))

/-- CONTROL_FLIT_TIMEOUT (R260): 20 control slots without a valid control flit. -/
def execControlFlitTimeout (port : Nat) (s : State) : Host.Outcome State Fault Refusal :=
  .next (linkDown s port)

/-- A correction held to 200 ppm of 1 us, in 2^-16 ns (R283). -/
def ppmClamp (e : Int) : Int := max (-13107) (min 13107 e)

/-- The output VCs at whose head a packet waits: port and VC as it would leave. -/
def waitingVcs (s : State) : List (Nat × Nat) :=
  (List.range 8).flatMap (fun o =>
    ((List.range 8).flatMap (fun i => (headsFor s i o).map (fun h => (o, vcOf h.2.2.2)) ++
      ((asmFor s i o).map (fun q => (o, vcOf q.2))).toList)) ++
    s.router.waiting.filterMap (fun h => (leaving s none o h.pkt h.hop).map (fun q => (o, vcOf q.2))))

/-- Cycles of the gallery clock in 1 us: 1.2 GHz, half of it until full light (R8, R427). -/
def gcPerUs (s : State) : Nat := if s.power.fullClk then 1200 else 600

/-- 1 us of waiting while the next hop reports a VC off, in gc (R285); counted at each tick (notes/assumptions/14.md). -/
def countStalls (s : State) : State :=
  let w := waitingVcs s
  (List.range 8).foldl (fun s o => modPort s o (fun x =>
    { x with stall := x.stall.zipIdx.map (fun q => if x.up && !x.peerOn.getLsbD q.2 && w.contains (o, q.2) then q.1 + gcPerUs s else q.1) })) s

/-- Is a pass in the lens? -/
def lensAtWork (x : Lantern) : Bool := x.lensQ.any (fun j => decide (j.desc.opcode = 1) && j.started && !j.released)

/-- How many of 32 lens steps the duty of a governor level freezes (R420); under the brake, an acc16 pass in flight more. -/
def frozenOf32 (level : Nat) (acc16 : Bool) : Nat :=
  if level ≤ 1 then 0 else if level = 2 then 8 else if level = 3 then 16 else if level = 4 then 24 else if level = 5 then 28
  else if acc16 then 31 else 30

/-- Steps that a lens's clock makes in 1 us (R16): one in each gc on the /4 output, one in two on the /8. -/
def lensPerUs (s : State) (x : Lantern) : Nat := if x.fastClk then gcPerUs s else gcPerUs s / 2

/-- 1 us of a lantern held at its hold line or at an UPDATE, and of a channel in a WAIT, in gc (R195, R221), and of a lens that
fills or whose work the duty of its level freezes, in steps of its clock (R416, R420); counted at each tick
(notes/assumptions/14.md, 24.md). -/
def countHolds (s : State) : State :=
  let gc := gcPerUs s
  let wait (c : DmaChan) : DmaChan := if c.waiting then { c with counters := bump c.counters 13 gc } else c
  { s with
    lanterns := s.lanterns.map (fun x => { x with
      stall := if x.holding || x.updHold then x.stall + gc else x.stall
      fillSteps := if x.filling then x.fillSteps + lensPerUs s x else x.fillSteps
      throttle := if lensAtWork x then x.throttle + lensPerUs s x * frozenOf32 x.level x.fastClk / 32 else x.throttle
      dma := x.dma.map wait })
    sysChans := s.sysChans.map wait }

/-- TIME_SERVO_TICK (R283, R468): 1 us passes; module time is steered toward the parent, or on a root with
a valid pulse toward whole seconds, by at most 200 ppm, so it never moves backward. -/
def execTimeServoTick (s0 : State) : Host.Outcome State Fault Refusal :=
  let s := countHolds (countStalls (modTime s0 (fun t => { t with freeUs := t.freeUs + b2n t.holdover })))
  .next (match s.time.parent with
    | some p =>
      let c := ppmClamp (meanInt (portAt s p).offsets)
      modTime (modPort s p (fun x => { x with offsets := x.offsets.map (· - c) }))
        (fun t => { t with now := t.now + (65536000 + c).toNat, locked := true })
    | none =>
      let c := if isTimeRoot s then ppmClamp s.time.adjust else 0
      modTime s (fun t => { t with now := t.now + (65536000 + c).toNat, adjust := t.adjust - c }))

/-- HOLDOVER_TIMEOUT (R283): 1 s free running without a parent. -/
def execHoldoverTimeout (s : State) : Host.Outcome State Fault Refusal :=
  .next (if s.time.holdover && !s.time.raised then
      raiseEventP (modTime s (fun t => { t with raised := true })) evTime 0 s.time.root
    else s)

/-- ROOT_RESELECT (R284): after 3 s of holdover the module chooses again. -/
def execRootReselect (s : State) : Host.Outcome State Fault Refusal :=
  .next (if s.time.holdover then followRoot s (chooseRoot s) else s)

/-! ### The light list (R276) -/

/-- Write the idle bank and switch to it, HITS cleared; a port that a failed check held down may come back. -/
def installBank (s : State) (es : List LightEntry) : State :=
  let b := es.map (fun e => (⟨e, 0⟩ : BankEntry))
  modRouter s (fun r =>
    let ports := r.ports.map (fun p =>
      if p.heldBy = 4 then { p with listDue := false, heldBy := 0, training := true } else { p with listDue := false })
    if r.active1 then { r with bank0 := b, active1 := false, ports := ports }
    else { r with bank1 := b, active1 := true, ports := ports })

/-- A set that fails its check is not installed: the ports it was made for are left down (R276). -/
def leavePortsDown (s : State) : State :=
  (List.range 8).foldl (fun s p =>
    if (portAt s p).listDue then modPort (linkDown s p) p (fun x =>
      { x with training := false, heldBy := if x.heldBy = 0 then 4 else x.heldBy })
    else s) s

/-- An ACTION 2 entry for a node id (R276, R364), installed when its route passes by this module. It stands first, so that
no other entry decides before it, and the list keeps its 256 entries (DESIGN CHOICE, notes/assumptions/37.md). Like every
set it is checked first, against the light lists that the Keeper knows of. -/
def bypassNode (s : State) (node : Nat) : State :=
  let e : LightEntry := ⟨node, 0x3FFFF, 8, 0, 2⟩
  let es := (e :: ((lightList s).map (·.e)).filter (fun x => decide (x ≠ e))).take 256
  if escapeAcyclic s es s.router.known then installBank s es else raiseEventP (leavePortsDown s) evRoute 0 1

end Sys2Proof.Machine
end

