-- ==== Sys2Proof/Machine/Work.lean ====
section
/-! DEFINITION. Machine/Work.lean: what the engines of a lantern share: beacon and event counters, poison,
addresses in the lantern's context, and carrier-peer requests (R19, R22, R143, R155, R265, R281, R337). -/

namespace Sys2Proof.Machine

/-! ### Counters -/

/-- Advance a beacon counter of a lantern: 0 lens, 1 vector, 2 DMA (R337: 32 bits). -/
def bumpBeacon (s : State) (l i n : Nat) : State :=
  modLantern s l (fun x => { x with beacon := x.beacon.modify i (fun c => (c + n) % 2 ^ 32) })

/-- Advance an event counter of a lantern (R155: 32 bits; it saturates, R347). -/
def bumpEvent (s : State) (l k n : Nat) : State :=
  modLantern s l (fun x => { x with events := x.events.modify k (fun c => min (c + n) (2 ^ 32 - 1)) })

/-- Is a lantern there and out of reset (R9, R342)? -/
def lanternLive (s : State) (l : Nat) : Bool :=
  (lanternAt s l).phys.isSome && !(lanternAt s l).rst.active

/-- Mooring id for packets, 0xFFFF for none (R264). -/
def lanternMooringId (s : State) (l : Nat) : Nat := (lanternAt s l).mooring.getD 0xFFFF

/-! ### Tests of memory (R348) -/

/-- A test of a part begins whose unit stays in use: its contents are copied to staging, and restored at its end. Accesses to
it are held meanwhile, which is a matter of time (notes/assumptions/41.md). -/
def startTest (s : State) (p : Part) : State :=
  if s.keeper.tests.contains p then s else modKeeper s (fun k => { k with tests := k.tests ++ [p] })

/-! ### Poison (R143) -/

/-- The poisoned lines that n bytes at a local address touch. -/
def poisonedLines (s : State) (a n : Nat) : List Nat := (linesOf a n).filter (fun p => s.poison.contains p)

/-- The unit whose ECC counters an address counts in (R21, R142): a 128 KiB bank, a 1 MiB sub-array of the 64 slices
that interleave by 1 KiB, a device of its half. -/
def eccUnitOf (a : Nat) : EccUnit :=
  match regionOf a with
  | some .store => .bank (bits a 47 40) (bits a 21 17)
  | some .sram =>
    let o := bits a 33 0
    let q := o % 0xC0000000
    .sram (o / 0xC0000000) (q / 1024 % 64 * 48 + q / 65536 * 1024 / 2 ^ 20)
  | _ =>
    let o := bits a 39 0
    .device (if o < 0x6000000000 then o / 4096 % 12 else 12 + (o - 0x6000000000) / 4096 % 12)

/-- The part that holds a line of memory, as a test names it. -/
def partOfLine (a : Nat) : Part :=
  match regionOf a with
  | some .store => .storeBank (bits a 47 40) (bits a 21 17)
  | some .sram => match eccUnitOf a with
    | .sram t k => .sramSub t k
    | _ => .dram (lineOf a)
  | _ => .dram (lineOf a)

/-- Advance counter i of a unit's ECC counters. -/
def bumpEcc (s : State) (u : EccUnit) (i n : Nat) : State :=
  let l := s.keeper.ecc
  let l1 := if l.any (fun q => q.1 == u) then l else l ++ [(u, List.replicate 5 0)]
  modKeeper s (fun k => { k with ecc := l1.map (fun q => if q.1 = u then (u, bump q.2 i n) else q) })

/-- One read of a poisoned line for a mooring's step, or outside one: counted, and reported once per line and
step. -/
def notePoisonLine (s : State) (mooring : Option Nat) (unit line : Nat) : State :=
  let s1 := bumpEcc s (eccUnitOf line) 1 1
  match mooring.bind (mooringAt s) with
  | none => raiseEvent s1 evEcc none unit (line / 64)
  | some m =>
    if m.poisonSeen.contains line then s1
    else raiseEvent (modMooring s1 m.desc.id (fun y => { y with poisonSeen := y.poisonSeen ++ [line] }))
      evEcc mooring unit (line / 64)

/-- An engine of a lantern has read n bytes at a local address: the poisoned lines among them set the fault
flag, are counted and reported (R143). -/
def notePoison (s : State) (l a n : Nat) : State :=
  match poisonedLines s a n with
  | [] => s
  | ps => ps.foldl (fun s p => notePoisonLine s (lanternMooring s l) l p) (setFault s l)

/-- Bytes of the lantern's own store, a poisoned 64-byte line's bytes as none (R143). -/
def storeBytes (s : State) (l off : Nat) (n : Nat) : List (Option Byte) :=
  (List.range n).map (fun i =>
    let a := storeAddr l (off + i)
    if s.poison.contains (lineOf a) then none else some (byteAt s.mem a))

/-! ### What a command of the Keeper reads (R19, R22, R143) -/

/-- Ask the carrier peers for what a command reads. -/
def askKeeper (s : State) (addr w a n : Nat) : State :=
  let r := peerReads s 0 0xFFFF .keeper w (fun x => .keeper (addr + (x - a)) (x % 8) (a + n - x)) (peerPieces (n + 1) a n)
  modKeeper r.1 (fun k => { k with io := k.io ++ [⟨addr, n, r.2, [], false⟩] })

/-- A carrier peer answers a read of the Keeper. -/
def keeperAnswer (s : State) (tag key : Nat) (bs : List Byte) (status : Nat) : State :=
  modKeeper s (fun k => { k with io := k.io.map (fun i =>
    if i.tags.contains tag then { i with
      tags := i.tags.erase tag
      data := if status = 0 then setBytes i.data key bs else i.data
      fail := i.fail || decide (status ≠ 0) }
    else i) })

/-- A system channel that has nothing in hand (R171). -/
def sysFree (s : State) : Option Nat :=
  (List.range 16).find? (fun n => let x := chanAt s (.system n); x.queue.isEmpty && x.flights.isEmpty)

/-- A program of the Keeper's own copies n bytes within the command that it serves: staging for flash, what a command reads,
a piece of a permute that stays on its module. It runs on a free system channel, or behind the program of the first, and is
counted there (R171, R195; notes/assumptions/15.md). -/
def sysCopy (s : State) (n : Nat) : State :=
  modChan s (.system ((sysFree s).getD 0)) (fun x => { x with
    counters := bump (bump (bump x.counters 0 (ceilDiv n (2 ^ 23))) 11 n) 12 n })

/-- Go on with what the Keeper reads at an address for a command (R22): a copy of a system channel (R171); a poisoned line is an access fault of the keeper
core, counted and reported (R143). For bytes at a carrier peer the requests are sent; the command stays pending until it
is taken up again with every answer there (DESIGN CHOICE, notes/assumptions/15.md). -/
def readThen (s : State) (addr n : Nat) (act : Except Nat (List Byte) → State → State) : State :=
  match checkAddr s .priv addr n false with
  | some (.peer w a) =>
    (match s.keeper.io.find? (fun i => i.addr == addr && i.n == n) with
    | none => askKeeper s addr w a n
    | some i =>
      if !i.tags.isEmpty then s
      else act (if i.fail then .error causePeer else .ok (bytesAt i.data addr n))
        (sysCopy (modKeeper s (fun k => { k with io := k.io.erase i })) n))
  | some (.mem a) =>
    act (keeperRead s addr n) ((poisonedLines s a n).foldl (fun s p => notePoisonLine s none 0xFFFF p) (sysCopy s n))
  | some (.host _ _) => act (keeperRead s addr n) (sysCopy s n)
  | none => act (keeperRead s addr n) s

/-! ### Carrier peers (R280) -/

end Sys2Proof.Machine
end

