-- ==== Sys2Proof/Machine/Lens.lean ====
section
/-! DEFINITION. Machine/Lens.lean: the lens: descriptor checks, tile loads, passes and their column sums,
releases, drains and retirements (R51 to R86, R97, R99, R102). -/

namespace Sys2Proof.Machine

/-! ### Operand pairs (R53) -/

/-- Is the pair's tile a B8 tile? -/
def pairTile8 : Pair → Bool
  | .b4b4 => false
  | .b8b4 => false
  | .b8b8 => true
  | .b16b8 => true

/-- Steps per vector in one pass over the vectors. -/
def pairSteps : Pair → Nat
  | .b4b4 => 1
  | _ => 2

/-- K per pass. -/
def pairK (p : Pair) : Nat := if pairTile8 p then 512 else 1024

/-- Bytes of a lane. -/
def laneBytes : Pair → Nat
  | .b8b8 => 2
  | _ => 4

/-- Rows of the array that one block of 32 elements covers (R52). -/
def rowsPerBlock (b8 : Bool) : Nat := if b8 then 8 else 4

/-- Lens steps in which a descriptor's vectors stream: n vectors (R59, R74). -/
def passLength (d : LensDesc) (n : Nat) : Nat :=
  let per := if d.cross then 4 else pairSteps d.pair
  (if d.pair = .b16b8 then 2 else 1) * per * n

/-- The accumulator array and format that a descriptor names (R56). -/
def entryFmtOf (d : LensDesc) : EntryFmt :=
  match d.dest with
  | .bank => (match d.acc with
      | .acc16 => .acc16
      | .acc48 => .acc48
      | _ => .acc32)
  | _ => .grad

/-- Entries that a descriptor writes, or a DRAIN descriptor reads, in each column (R57 check 4). -/
def entryRows (d : LensDesc) : Nat :=
  if d.opcode = 1 then
    if d.dest = .gradT then 128 else if d.cross then d.m * (pairK d.pair / 128) else d.m
  else d.m

/-- Entries that the drain of a descriptor reads in each column (R81): M, whatever the pass wrote, but for the transposed
gradient buffer. -/
def drainRows (d : LensDesc) : Nat := if d.opcode = 1 ∧ d.dest = .gradT then 128 else d.m

/-! ### The checks of R57 -/

/-- Bytes of one line of the activation ring (R59, R74). -/
def ringLine (d : LensDesc) : Nat :=
  if d.cross then (if d.pair = .b16b8 then 256 else 128)
  else 128 * laneBytes d.pair

/-- Does a range lie in the 4 MiB store, aligned? -/
def inStore (off n align : Nat) : Bool := decide (off % align = 0) && decide (off + n ≤ 0x400000)

/-- Check 2. -/
def accSuits (d : LensDesc) : Bool :=
  if d.opcode = 1 then
    match d.acc with
    | .acc16 => decide (d.pair = .b4b4) && !d.cross && decide (d.dest = .bank)
    | .acc48 => decide (d.pair = .b16b8) || decide (d.dest ≠ .bank)
    | .acc32 => decide (d.pair ≠ .b16b8) && decide (d.dest = .bank)
    | .refused => false
  else
    match d.dest with
    | .bank => decide (d.acc ≠ .refused)
    | .grad => decide (d.acc = .acc48)
    | _ => false

/-- The fields that a DRAIN does not use are zero (R56). -/
def drainClean (d : LensDesc) : Bool :=
  decide (d.pair = .b4b4) && !d.cross && !d.newTile && !d.accInit && !d.endTok && !d.drain && !d.tailTrim &&
  decide (d.wsrc = 0) && decide (d.wscale = 0) && decide (d.abase = 0) && decide (d.ringLines = 0) &&
  decide (d.start = 0) && decide (d.ascale = 0)

/-- Check 8: the ranges of the store that a descriptor uses. WSRC and WSCALE of a pass that loads no tile, and MASK_TBL
without MASK_EN, name no range: nothing is read there, and they are not checked (DESIGN CHOICE,
notes/assumptions/37.md). -/
def rangesOk (d : LensDesc) : Bool :=
  (decide (d.opcode ≠ 1) ||
    (decide (128 ≤ d.ringLines) && decide (d.ringLines ≤ 8191) && decide (d.start < d.ringLines) &&
     inStore d.abase (d.ringLines * ringLine d) 512 && inStore d.ascale (32 * d.ringLines) 32 &&
     (!d.newTile || (inStore d.wsrc 65536 512 && inStore d.wscale (if pairTile8 d.pair then 2048 else 4096) 64)))) &&
  (!d.maskEn || inStore d.maskTbl ((d.m + 7) / 8) 64)

/-- Checks 1 to 6 and 8 of R57, with the ranges that R56 gives its fields. -/
def lensChecks (d : LensDesc) : Bool :=
  d.rsv && (decide (d.opcode = 1) || (decide (d.opcode = 2) && drainClean d)) &&
  accSuits d && decide (d.dest ≠ .refused) &&
  (!d.cross || (decide (d.pair ≠ .b4b4) && decide (d.dest = .bank))) &&
  decide (1 ≤ d.m) && decide (d.m ≤ 2048) && decide (d.accBase + entryRows d ≤ entryCount (entryFmtOf d)) &&
  (decide (d.dest ≠ .gradT) || decide (d.m ≤ 128)) &&
  decide (d.validM ≤ d.m) && decide (1 ≤ d.validN) && decide (d.validN ≤ 128) &&
  (!d.drain || d.endTok) && rangesOk d

/-- Format of the tile that will be stationary after the jobs in the queue: some true for B8. -/
def tileFormatAfter (x : Lantern) : Option Bool :=
  x.lensQ.foldl (fun t j =>
    if j.desc.opcode = 1 ∧ j.desc.newTile ∧ !j.bad ∧ !j.started then some (pairTile8 j.desc.pair) else t)
    (x.tile.map (·.b8))

/-- All checks at issue, check 7 with them. -/
def issueChecks (x : Lantern) (d : LensDesc) : Bool :=
  lensChecks d &&
  (decide (d.opcode ≠ 1) || d.newTile || decide (tileFormatAfter x = some (pairTile8 d.pair)))

/-! ### Reading operands -/

/-- The signed elements of one lane (R54): none where the line is poisoned (R143). PAIR alone says how an element is
coded: R53 to R56 give no pair for B4 activations at a B8 tile, so a pass at B8×B8 reads B8 elements, and the widening of R30
has been made where they were written (DESIGN CHOICE, notes/assumptions/36.md). -/
def laneElems (p : Pair) (bs : List (Option Byte)) : List (Option Int) :=
  let at_ (i : Nat) : Option Byte := (bs.getD i none)
  match p with
  | .b4b4 => (List.range 8).map (fun t => (at_ (t / 2)).map (fun b => sext 4 (b.toNat / 16 ^ (t % 2))))
  | .b8b4 => (List.range 4).map (fun t => (at_ t).map (fun b => sext 8 b.toNat))
  | .b8b8 => (List.range 2).map (fun t => (at_ t).map (fun b => sext 8 b.toNat))
  | .b16b8 => (List.range 2).map (fun t =>
      match at_ (2 * t), at_ (2 * t + 1) with
      | some lo, some hi => some (sext 16 (lo.toNat + 256 * hi.toNat))
      | _, _ => none)

/-- The format of the activations of a pair. -/
def actFmt : Pair → Fmt
  | .b4b4 => .b4
  | .b16b8 => .b16
  | _ => .b8

/-- What an activation element brings to a product: its value, and whether it is SAT (R26, R31, R143). -/
def actVal (p : Pair) (hi : Bool) (e : Nat) (m : Option Int) : Int × Bool :=
  match m with
  | none => (0, true)
  | some v =>
    let r := readElem (actFmt p) e v
    if r.2 then (0, true)
    else if p = .b16b8 then (if hi then (r.1 - r.1 % 256) / 256 else r.1 % 256, false)
    else r

/-- Weight slot j of cell (r, c) of a tile (R52): value and whether it is SAT. -/
def weightAt (t : Tile) (ew r c j : Nat) : Int × Bool :=
  let w := (tget 0 t.words (128 * r + c)).toNat
  if t.b8 then readElem .b8 ew (sext 8 (w / 2 ^ (8 * j))) else readElem .b4 ew (sext 4 (w / 2 ^ (4 * j)))

/-- Scale byte of block b of column c of a tile. -/
def tileScale (t : Tile) (b c : Nat) : Nat := (tget 0 t.scales (128 * b + c)).toNat

/-- A scale byte read from the store: 0xFF where it is poisoned (R143). -/
def scaleByte (b : Option Byte) : Nat := match b with | some x => x.toNat | none => 255

/-- Read a tile from the store (R52, R67). Elements of a poisoned line are SAT (R143): their SAT codes, and
the scale byte 0xFF in place of a zero block's. -/
def readTile (s : State) (l : Nat) (d : LensDesc) : Tile :=
  let b8 := pairTile8 d.pair
  let code : BitVec 32 := if b8 then 0x80808080 else 0x88888888
  let cells := (List.range 16384).map (fun k => (k, storeBytes s l (d.wsrc + 4 * k) 4))
  let words := cells.foldl (fun t q =>
    if q.2.any Option.isNone then t ++ [(q.1, code)]
    else
      let w := BitVec.ofNat 32 (leNat (q.2.map (fun b => b.getD 0)))
      if w = 0 then t else t ++ [(q.1, w)]) []
  let bad (b c : Nat) : Bool := (List.range (rowsPerBlock b8)).any (fun i =>
    s.poison.contains (lineOf (storeAddr l (d.wsrc + 512 * (rowsPerBlock b8 * b + i) + 4 * c))))
  let scales := (List.range (128 / rowsPerBlock b8 * 128)).foldl (fun t k =>
    let e := scaleByte ((storeBytes s l (d.wscale + k) 1).getD 0 none)
    let e := if e = 0 ∧ bad (k / 128) (k % 128) then 255 else e
    if e = 0 then t else t ++ [(k, BitVec.ofNat 8 e)]) []
  ⟨b8, words, scales, d.wsrc, d.wscale⟩

/-! ### Column sums (R63, R64, R74) -/

/-- What one block brings to a column sum: the two scale bytes, the sum of its products and whether an element
is SAT. -/
structure BlockSum where
  ea  : Nat
  ew  : Nat
  sum : Int
  sat : Bool
  deriving DecidableEq, Repr

/-- Is a block live (R63)? -/
def blockLive (b : BlockSum) : Bool :=
  decide (b.ea ≠ 0) && decide (b.ea ≠ 255) && decide (b.ew ≠ 0) && decide (b.ew ≠ 255)

def blockExp (b : BlockSum) : Int := (b.ea : Int) - 127 + ((b.ew : Int) - 127)

/-- A column sum as a record, and whether its residue is not compared (R63, R84, R94): f fraction bits, an
exponent raised by up (R64). -/
def columnSum (f : Nat) (up : Int) (bs : List BlockSum) : Rec × Bool :=
  let ovf := bs.any (fun b => decide (b.ea = 255) || decide (b.ew = 255) || b.sat)
  match bs.filter blockLive with
  | [] => (⟨0, 0, 0, ovf, false, true⟩, ovf)
  | b0 :: rest =>
    let emax := rest.foldl (fun m b => max m (blockExp b)) (blockExp b0)
    let parts := (b0 :: rest).map (fun b =>
      let d := (emax - blockExp b).toNat
      let t : Int := b.sum * ((2 ^ f : Nat) : Int)
      let q := t / ((2 ^ d : Nat) : Int)
      (q, decide (q * ((2 ^ d : Nat) : Int) ≠ t), decide (f < d)))
    let v := parts.foldl (fun a p => a + p.1) 0
    let inx := parts.any (fun p => p.2.1)
    let wide := decide (f = 8) && (decide (v < -8388608) || decide (8388607 < v))
    let o := ovf || wide
    (⟨v / ((2 ^ f : Nat) : Int), (v % ((2 ^ f : Nat) : Int)).toNat * 2 ^ (32 - f), emax + up, o, inx, false⟩,
      parts.any (fun p => p.2.2) || o)

/-- Fraction bits of a descriptor's column sums. -/
def sumFrac (d : LensDesc) : Nat := if d.acc = .acc16 then 8 else 32

/-- The elements of all 128 rows for one lens step (R59): vector i, phase p. -/
def stepLanes (s : State) (l : Nat) (d : LensDesc) (i p : Nat) : List (List (Option Int)) :=
  (List.range 128).map (fun r =>
    let line := (d.start + pairSteps d.pair * i + p + r) % d.ringLines
    laneElems d.pair (storeBytes s l (d.abase + line * ringLine d + r * laneBytes d.pair) (laneBytes d.pair)))

/-- The scale bytes of vector i (R60, R74). -/
def vectorScales (s : State) (l : Nat) (d : LensDesc) (i : Nat) : List Nat :=
  let line := (d.start + (if d.cross then 1 else pairSteps d.pair) * i) % d.ringLines
  (storeBytes s l (d.ascale + 32 * line) 32).map scaleByte

/-- First slot used in phase p (R53). -/
def phaseSlot (pair : Pair) (p : Nat) : Nat :=
  match pair with
  | .b4b4 => 0
  | .b8b4 => 4 * p
  | _ => 2 * p

/-- The blocks of column c in one step of a normal pass. -/
def columnBlocks (t : Tile) (d : LensDesc) (hi : Bool) (p : Nat) (ea : List Nat) (rows : List (List (Option Int)))
    (c : Nat) : List BlockSum :=
  let n := rowsPerBlock t.b8
  (List.range (128 / n)).map (fun b =>
    let e := ea.getD b 0
    let ew := tileScale t b c
    let prods := ((rows.drop (n * b)).take n).zipIdx.map (fun q =>
      q.1.zipIdx.map (fun m =>
        let a := actVal d.pair hi e m.1
        let w := weightAt t ew (n * b + q.2) c (phaseSlot d.pair p + m.2)
        (a.1 * w.1, a.2 || w.2)))
    let flat := prods.flatten
    ⟨e, ew, flat.foldl (fun a q => a + q.1) 0, flat.any (·.2)⟩)

/-- The gradient element of column c of vector i in a cross read (R74). -/
def crossElem (s : State) (l : Nat) (d : LensDesc) (i c : Nat) : Option Int :=
  let w := if d.pair = .b16b8 then 2 else 1
  let line := (d.start + i + c / 4) % d.ringLines
  let bs := storeBytes s l (d.abase + line * ringLine d + w * c) w
  if bs.any Option.isNone then none
  else some (sext (8 * w) (leNat (bs.map (fun b => b.getD 0))))

/-- A product joins the sum of the columns of its block that share its pair of scale bytes. -/
def joinBlock : List (Nat × BlockSum) → Nat → BlockSum → List (Nat × BlockSum)
  | [], b, p => [(b, p)]
  | q :: qs, b, p =>
    if q.1 = b ∧ q.2.ea = p.ea ∧ q.2.ew = p.ew then (b, { q.2 with sum := q.2.sum + p.sum, sat := q.2.sat || p.sat }) :: qs
    else q :: joinBlock qs b p

/-- The blocks of output k in a cross read (R74): the columns of a 32-column block sum as one (R63) as far as they share the
tile's scale; those of another scale are a block of their own (notes/assumptions/16.md). -/
def crossBlocks (t : Tile) (d : LensDesc) (hi : Bool) (ea : List Nat) (g : List (Option Int)) (k : Nat) :
    List BlockSum :=
  let per := if t.b8 then 4 else 8
  (g.zipIdx.foldl (fun bs q =>
    let e := ea.getD (q.2 / 32) 0
    let ew := tileScale t (k / 32) q.2
    let a := actVal d.pair hi e q.1
    let w := weightAt t ew (k / per) q.2 (k % per)
    joinBlock bs (q.2 / 32) ⟨e, ew, a.1 * w.1, a.2 || w.2⟩) []).map (·.2)

/-! ### Masks (R78) -/

/-- n bytes of a row mask bitmap; a poisoned byte is open. -/
def maskBytes (s : State) (l off : Nat) : Nat → List Byte × State
  | 0 => ([], s)
  | n + 1 =>
    let r := maskBytes s l off n
    match (storeBytes r.2 l (off + n) 1).getD 0 none with
    | some b => (r.1 ++ [b], r.2)
    | none => let d := drawFree (notePoison r.2 l (storeAddr l (off + n)) 1); (r.1 ++ [d.1.setWidth 8], d.2)

/-- Which of a descriptor's vectors are masked. -/
def maskedVectors (s : State) (l : Nat) (d : LensDesc) : List Bool × State :=
  if d.maskEn then
    let b := maskBytes s l d.maskTbl ((d.m + 7) / 8)
    ((List.range d.m).map (fun i => decide (d.validM ≤ i) || (b.1.getD (i / 8) 0).getLsbD (i % 8)), b.2)
  else ((List.range d.m).map (fun i => decide (d.validM ≤ i)), s)

/-! ### Spans of accumulator words (R82, R102) -/

/-- Data words [lo, hi) of the bank or the gradient buffer. -/
structure Span where
  grad : Bool
  lo   : Nat
  hi   : Nat
  deriving DecidableEq, Repr

/-- Entries [lo, hi) of a format in halves of data words (R88): two acc16 entries share a word, and each is a row of its
own to R102. -/
def spanOf (k : EntryFmt) (lo hi : Nat) : Span :=
  match k with
  | .acc32 => ⟨false, 2 * lo, 2 * hi⟩
  | .acc16 => ⟨false, lo, hi⟩
  | .acc48 => ⟨false, 4 * lo, 4 * hi⟩
  | .grad => ⟨true, lo, hi⟩

def spansMeet (a b : Span) : Bool := decide (a.grad = b.grad) && decide (a.lo < b.hi) && decide (b.lo < a.hi)

/-- The words a descriptor writes or reads. -/
def descSpan (d : LensDesc) : Span := spanOf (entryFmtOf d) d.accBase (d.accBase + entryRows d)

/-- The words that the drain of a descriptor reads. -/
def drainSpan (d : LensDesc) : Span := spanOf (entryFmtOf d) d.accBase (d.accBase + drainRows d)

/-- Is a job a drain that has not delivered its last row? -/
def drainPending (j : LensJob) : Bool :=
  !j.bad && (decide (j.desc.opcode = 2) || j.desc.drain) && decide (j.drained < drainRows j.desc)

/-- The words that a pending drain has not read. -/
def unreadSpan (j : LensJob) : Span :=
  spanOf (entryFmtOf j.desc) (j.desc.accBase + j.drained) (j.desc.accBase + drainRows j.desc)

/-- Format of a merge instruction's entry (R134). -/
def mergeFmt (imm : BitVec 24) : EntryFmt :=
  if imm.getLsbD 15 then .grad
  else match (imm.toNat / 2 ^ 13) % 4 with
    | 0 => .acc32
    | 1 => .acc16
    | _ => .acc48

/-- Entry that a merge instruction names, above the row's merge base (R134). -/
def mergeEntry (imm : BitVec 24) : Nat := imm.toNat % 4096

/-- Is an opcode a merge instruction? -/
def isMerge (op : Nat) : Bool := decide (0x58 ≤ op) && decide (op ≤ 0x5A)

/-- The words that merge instructions touch when they run as row i of a binding (R117, R134). -/
def rowSpans (j : BindJob) (ins : List VIns) (i : Nat) : List Span :=
  (ins.filter (fun k => isMerge k.op)).map (fun k =>
    let e := j.bind.mrowBase + i * j.bind.mrowStep + mergeEntry k.f.imm
    spanOf (mergeFmt k.f.imm) e (e + 1))

/-- The words that the merge instructions of a binding touch from row n on: its body in rows 0 to N - 1, its tail as row N
(R117, R134); none in a phantom unit block, whose rows are all masked (R162). -/
def mergeSpans (j : BindJob) (rows first : Nat) : List Span :=
  if j.phantom then []
  else ((List.range rows).drop first).flatMap (rowSpans j j.chain.body) ++
    (if first ≤ rows then rowSpans j j.chain.tail rows else [])

/-- The words of the merge instructions that the row in hand has still to issue (R102, R135). -/
def todoSpans (v : VEngine) : List Span :=
  (v.todo.filter (fun i => isMerge i.op)).map (fun k =>
    let e := v.mbase + mergeEntry k.f.imm
    spanOf (mergeFmt k.f.imm) e (e + 1))

/-- Is a binding one that the lens work at schedule index o comes after: an earlier one, but not the one that consumes
its drain, which the rows of that drain order (R102, R116)? -/
def bindsBefore (j : BindJob) (o : Nat) : Bool := decide (j.order < o) && decide (j.drainOf ≠ some o)

/-- Has a binding earlier than schedule index o a merge pending that meets a span (R102): one of the row in hand, or of a
row or tail to come? -/
def mergePending (x : Lantern) (o : Nat) (sp : Span) : Bool :=
  (match x.vec.cur with
    | some j => bindsBefore j o &&
        (todoSpans x.vec ++ mergeSpans j j.nrows (x.vec.rowsRun + b2n x.vec.tailRun)).any (spansMeet sp)
    | none => false) ||
  x.bindQ.any (fun j => bindsBefore j o && (mergeSpans j j.nrows 0).any (spansMeet sp))

/-- Does an earlier drain have rows of a span still to read (R82)? -/
def drainUnread (x : Lantern) (o : Nat) (sp : Span) : Bool :=
  x.lensQ.any (fun j => decide (j.order < o) && drainPending j && spansMeet sp (unreadSpan j))

/-! ### The steps of the lens -/

/-- Change the job of a schedule index. -/
def modJob (x : Lantern) (o : Nat) (f : LensJob → LensJob) : Lantern :=
  { x with lensQ := x.lensQ.map (fun j => if j.order = o then f j else j) }

/-- The first descriptor that the lens has to stream (R58). -/
def nextPass (x : Lantern) : Option LensJob :=
  x.lensQ.find? (fun j => decide (j.desc.opcode = 1) && !j.bad && !j.started)

/-- Is the lens empty (R73): every earlier pass has written and every tile with an end token is released? -/
def lensEmpty (x : Lantern) : Bool :=
  x.lensQ.all (fun j => decide (j.desc.opcode ≠ 1) || j.bad || !j.started || j.released)

/-- Is the acc16 clock allowed to a lantern (R71, R420)? -/
def acc16Allowed (s : State) (l : Nat) : Bool := decide ((lanternAt s l).level = 0) && !s.power.brake

/-- Does the next pass want the /4 clock (R71)? -/
def wantsFast (s : State) (l : Nat) (d : LensDesc) : Bool := decide (d.acc = .acc16) && acc16Allowed s l

/-- TILE_LOAD_START (R67): the loader reads the next NEWTILE descriptor's tile into the shadow registers, from the latest of
the steps that R67 names. -/
def execTileLoadStart (l : Nat) (s : State) : Host.Outcome State Fault Refusal :=
  .next (
    let x := lanternAt s l
    if !lanternLive s l ∨ x.loading.isSome then s
    else match x.lensQ.find? (fun j => decide (j.desc.opcode = 1) && !j.bad && j.desc.newTile && !j.started) with
      | none => s
      | some j =>
        let start0 := max x.loadEnd (j.issued + 1)
        let start := if x.tile.isSome then max start0 (x.passStart + 128) else start0
        let s1 := notePoison (notePoison s l (storeAddr l j.desc.wsrc) 65536) l (storeAddr l j.desc.wscale)
          (if pairTile8 j.desc.pair then 2048 else 4096)
        modLantern s1 l (fun y => modJob { y with
          shadow := some (readTile s l j.desc), loading := some j.order, loadEnd := start + 512 }
          j.order (fun q => { q with loaded := true })))

/-- Does the power manager allow the tail of a pass to be trimmed (R419)? -/
def trimAllowed (s : State) (l : Nat) (j : LensJob) : Bool :=
  let x := lanternAt s l
  s.power.trim && (s.power.brake || decide (2 ≤ x.level) ||
    x.lensQ.any (fun q => decide (j.order < q.order) && decide (q.desc.opcode = 1) && !q.bad))

/-- Write one column sum, or empty the entry of a discarded one (R65, R74, R77 to R79, R97). -/
def writeSum (x : Lantern) (d : LensDesc) (e c : Nat) (v : Option Rec) (first : Bool) : Lantern :=
  let k := entryFmtOf d
  match v with
  | some r => absorb x k e c r (d.accInit && first)
  | none => if d.accInit && first then emptyEntry x k e c else x

/-- Count the sums whose residue is compared or not (R84, R85). -/
def countSums (x : Lantern) (skipped : List Bool) : Lantern :=
  { x with lensCnt := { x.lensCnt with
      checked := x.lensCnt.checked + (skipped.filter (!·)).length,
      unchecked := x.lensCnt.unchecked + (skipped.filter id).length } }

/-- Note the poisoned lines that an unmasked step of a normal pass feeds from. -/
def notePoisonStep (s : State) (l : Nat) (d : LensDesc) (i p : Nat) : State :=
  if s.poison.isEmpty then s
  else
    let sc := (d.start + pairSteps d.pair * i) % d.ringLines
    (List.range 128).foldl (fun s r =>
      let line := (d.start + pairSteps d.pair * i + p + r) % d.ringLines
      notePoison s l (storeAddr l (d.abase + line * ringLine d + r * laneBytes d.pair)) (laneBytes d.pair))
      (notePoison s l (storeAddr l (d.ascale + 32 * sc)) 32)

/-- Note the poisoned lines that an unmasked vector of a cross read feeds from. -/
def notePoisonCross (s : State) (l : Nat) (d : LensDesc) (i : Nat) : State :=
  if s.poison.isEmpty then s
  else
    (List.range 32).foldl (fun s n =>
      let line := (d.start + i + n) % d.ringLines
      let w := ringLine d / 32
      notePoison s l (storeAddr l (d.abase + line * ringLine d + n * w)) w)
      (notePoison s l (storeAddr l (d.ascale + 32 * ((d.start + i) % d.ringLines))) 32)

/-- Entry and column that the sum of vector i and tile column c goes to (R65, R77). -/
def sumPlace (d : LensDesc) (i c : Nat) : Nat × Nat :=
  if d.dest = .gradT then (d.accBase + c, i) else (d.accBase + i, c)

/-- The residue comparisons of a vector that is fed as zeros (R78, R84): its sums are zero, and skipped only where a block's
scale lies too far below the largest. -/
def zeroSums (f : Nat) (blocks : List (List BlockSum)) : List Bool :=
  blocks.map (fun bs => (columnSum f 0 ((bs.filter blockLive).map (fun b => { b with sum := 0, sat := false }))).2)

/-- One step of a normal pass: vector i, phase p, hi or lo pass (R59 to R65, R77 to R79). -/
def streamStep (s : State) (l : Nat) (d : LensDesc) (t : Tile) (masked : List Bool) (i p : Nat) (hi : Bool) : State :=
  let first := decide (p = 0) && (hi || decide (d.pair ≠ .b16b8))
  let ea := vectorScales s l d i
  if masked.getD i true then
    let zero := (List.range 128).map (fun c => columnBlocks t d hi p ea [] c)
    modLantern s l (fun x => (List.range 128).foldl (fun x c =>
      let pl := sumPlace d i c
      writeSum x d pl.1 pl.2 none first) (countSums x (zeroSums (sumFrac d) zero)))
  else
    let rows := stepLanes s l d i p
    let up : Int := if d.pair = .b16b8 ∧ hi then 8 else 0
    let sums := (List.range 128).map (fun c => columnSum (sumFrac d) up (columnBlocks t d hi p ea rows c))
    modLantern (notePoisonStep s l d i p) l (fun x => sums.zipIdx.foldl (fun x q =>
      let pl := sumPlace d i q.2
      writeSum x d pl.1 pl.2 (if q.2 < d.validN then some q.1.1 else none) first) (countSums x (sums.map (·.2))))

/-- One vector of a cross read, hi or lo pass (R74, R75). R79 does not say which columns VALID_N names there; it is taken of
the columns that are written: output k is discarded where k mod 128 is VALID_N or more (DESIGN CHOICE,
notes/assumptions/36.md). -/
def crossStep (s : State) (l : Nat) (d : LensDesc) (t : Tile) (masked : List Bool) (i : Nat) (hi : Bool) : State :=
  let first := hi || decide (d.pair ≠ .b16b8)
  let kn := pairK d.pair
  let place (k : Nat) : Nat × Nat := (d.accBase + i * (kn / 128) + k / 128, k % 128)
  let ea := vectorScales s l d i
  if masked.getD i true then
    let zero := (List.range kn).map (fun k => crossBlocks t d hi ea (List.replicate 128 (some 0)) k)
    modLantern s l (fun x => (List.range kn).foldl (fun x k =>
      writeSum x d (place k).1 (place k).2 none first) (countSums x (zeroSums (sumFrac d) zero)))
  else
    let g := (List.range 128).map (crossElem s l d i)
    let up : Int := if d.pair = .b16b8 ∧ hi then 8 else 0
    let sums := (List.range kn).map (fun k => columnSum (sumFrac d) up (crossBlocks t d hi ea g k))
    modLantern (notePoisonCross s l d i) l (fun x => sums.zipIdx.foldl (fun x q =>
      writeSum x d (place q.2).1 (place q.2).2 (if q.2 % 128 < d.validN then some q.1.1 else none) first)
      (countSums x (sums.map (·.2))))

/-- All the streaming of a pass over n vectors, one list of (vector, phase, hi) in order. -/
def streamOrder (d : LensDesc) (n : Nat) : List (Nat × Nat × Bool) :=
  let per := if d.cross then 1 else pairSteps d.pair
  let half (hi : Bool) := (List.range n).flatMap (fun i => (List.range per).map (fun p => (i, p, hi)))
  if d.pair = .b16b8 then half true ++ half false else half false

/-- The entries of the trimmed tail end as R78 gives them (R80). -/
def emptyTail (x : Lantern) (d : LensDesc) (lo hi : Nat) : Lantern :=
  let kn := pairK d.pair
  ((List.range hi).drop lo).foldl (fun x i =>
    if d.cross then (List.range kn).foldl (fun x k =>
        writeSum x d (d.accBase + i * (kn / 128) + k / 128) (k % 128) none true) x
    else (List.range 128).foldl (fun x c =>
        let pl := sumPlace d i c
        writeSum x d pl.1 pl.2 none true) x) x

/-- A residue mismatch in a column (R84). The event's STEP is the mooring's job step, as R387 gives the field; the lens step
of the pass is not recorded (DESIGN CHOICE, notes/assumptions/36.md). -/
def residueMismatch (s : State) (l : Nat) (d : LensDesc) (c : Nat) : State :=
  let s1 := modLantern (setFault s l) l (fun x => { x with lensCnt := { x.lensCnt with mismatch := x.lensCnt.mismatch + 1 } })
  lanternEvent s1 evResidue l l (c % 128) [c, d.tensor]

/-- A pass streams (R59 to R80): its tile swapped in, its column sums absorbed, its steps counted. -/
def streamPass (s : State) (l : Nat) (j : LensJob) (t : Tile) (errs : List Nat) : State :=
  let x := lanternAt s l
  let d := j.desc
  let mk := maskedVectors s l d
  let n := if d.tailTrim && decide (d.validM < d.m) && trimAllowed s l j then d.validM else d.m
  let modeChange := decide (x.lastMode ≠ (d.cross, decide (d.acc = .acc16))) || (d.cross && d.newTile)
  let now := max x.lensNow (j.issued + 1)
  let e0 := if modeChange then max now x.emptyFrom else now
  let e := if d.cross && d.newTile then max e0 x.loadEnd else e0
  let freeze := if d.newTile && !d.cross then (x.loadEnd - 512) + 384 - e else 0
  let len := passLength d n + freeze + x.heldSteps
  let clear := if d.cross then (if d.endTok then 265 else 260) else (if d.endTok then 261 else 259)
  let s1 := (streamOrder d n).foldl (fun s q =>
    if d.cross then crossStep s l d t mk.1 q.1 q.2.2 else streamStep s l d t mk.1 q.1 q.2.1 q.2.2) mk.2
  let s2 := modLantern s1 l (fun y => modJob (emptyTail { y with
      tile := some t, shadow := if d.newTile then none else y.shadow,
      loading := if d.newTile then none else y.loading,
      passStart := if d.newTile then e else y.passStart,
      lensStep := e, heldSteps := 0,
      lensNow := e + len + b2n d.endTok,
      emptyFrom := e + len + clear,
      lastMode := (d.cross, decide (d.acc = .acc16)),
      passesRead := (y.passesRead + 1) % 2 ^ 32, filling := false,
      lensCnt := { y.lensCnt with
        active := y.lensCnt.active + (e + len - x.heldSteps + clear - max e x.emptyFrom),
        freeze := y.lensCnt.freeze + freeze,
        zeroFed := y.lensCnt.zeroFed + ((mk.1.take n).filter id).length,
        trimmed := y.lensCnt.trimmed + (d.m - n),
        acc16Slow := y.lensCnt.acc16Slow + b2n (decide (d.acc = .acc16) && !y.fastClk) } } d n d.m)
    j.order (fun q => { q with started := true, released := !d.endTok, wrote := e + len + (if d.cross then 259 else 258) }))
  (errs.filter (· < 128)).foldl (fun s c => residueMismatch s l d c) s2

/-! ### Drains (R81) -/

/-- May a drain start: the last earlier pass that writes its entries is released, or its own pass is, and no
earlier merge on its rows is pending (R81, R102)? -/
def drainReady (x : Lantern) (j : LensJob) : Bool :=
  (decide (j.desc.opcode = 2) || j.released) &&
  x.lensQ.all (fun q => !(decide (q.order < j.order) && decide (q.desc.opcode = 1) && !q.bad && !q.released &&
    spansMeet (descSpan q.desc) (drainSpan j.desc))) &&
  !mergePending x j.order (drainSpan j.desc)

/-- The drain that is next (R81): one that has started, else the first in issue order that nothing holds; a held drain does
not hold back a later one. -/
def nextDrain (x : Lantern) : Option LensJob :=
  match x.lensQ.find? (fun j => drainPending j && j.draining) with
  | some j => some j
  | none => x.lensQ.find? (fun j => drainPending j && drainReady x j)

/-- A held drain starts (R81). -/
def startDrain (s : State) (l : Nat) : State :=
  let x := lanternAt s l
  match nextDrain x with
  | none => s
  | some j =>
    if lanternLive s l && !j.draining && drainReady x j then
      modLantern s l (fun y => modJob y j.order (fun q => { q with draining := true }))
    else s

/-- DRAIN_START (R81). -/
def execDrainStart (l : Nat) (s : State) : Host.Outcome State Fault Refusal := .next (startDrain s l)

/-- Row n of a drain (R81, R117): masked or not, the valid lanes, and the records. -/
def drainRow (x : Lantern) (j : LensJob) (masked : List Bool) (n : Nat) : DrainRow :=
  let d := j.desc
  let k := entryFmtOf d
  let recs := (List.range 128).map (entryRec x k (d.accBase + n))
  if d.dest = .gradT then
    ⟨j.order, n, decide (d.validN ≤ n),
      BitVec.ofNat 128 (((List.range 128).map (fun i => if masked.getD i true then 0 else 2 ^ i)).foldl (· + ·) 0), recs⟩
  else ⟨j.order, n, masked.getD n true, BitVec.ofNat 128 (2 ^ d.validN - 1), recs⟩

/-- Deliver rows of a drain until the queue of 32 is full or the drain is done. -/
def deliverRows (j : LensJob) (masked : List Bool) : Nat → Lantern → Lantern
  | 0, x => x
  | k + 1, x =>
    match x.lensQ.find? (fun q => q.order == j.order) with
    | none => x
    | some q =>
      if 32 ≤ x.drainQ.length ∨ drainRows q.desc ≤ q.drained then x
      else deliverRows j masked k (modJob { x with drainQ := x.drainQ ++ [drainRow x q masked q.drained] }
        q.order (fun y => { y with drained := y.drained + 1 }))

/-- The first drain, started, or a DRAIN descriptor that nothing holds, reads rows into the drain queue as far as the queue
has room (R81). -/
def drainOnce (s : State) (l : Nat) : State :=
  let x := lanternAt s l
  match nextDrain x with
  | none => s
  | some j =>
    if lanternLive s l && (j.draining || (decide (j.desc.opcode = 2) && drainReady x j)) then
      let mk := maskedVectors s l j.desc
      modLantern mk.2 l (fun y => deliverRows j mk.1 32 (modJob y j.order (fun q => { q with draining := true })))
    else s

/-- DRAIN (R81). -/
def execDrain (l : Nat) (s : State) : Host.Outcome State Fault Refusal := .next (drainOnce s l)

/-- A drain that has begun reads one row per gc, so a pass that starts then never reaches a row that it has not read, but
where the drain queue is full (R82): the drains that have begun and that the pass would reach go on first. -/
def letDrains (s : State) (l : Nat) (j : LensJob) : State :=
  if (lanternAt s l).lensQ.any (fun q => decide (q.order < j.order) && q.draining && drainPending q &&
      spansMeet (descSpan j.desc) (unreadSpan q)) then
    (List.range 8).foldl (fun s _ => drainOnce s l) s
  else s

/-! ### The lens streams -/

/-- May the next pass of a lantern start (R67, R71, R73, R75, R82, R102)? It wants its tile loaded, the right
clock, an empty lens for a change of mode, and no row that an earlier drain or merge still needs. -/
def passReady (s : State) (l : Nat) (j : LensJob) : Bool :=
  let x := lanternAt s l
  let d := j.desc
  (!d.newTile || decide (x.loading = some j.order)) &&
  decide (x.fastClk = wantsFast s l d) &&
  ((decide (x.lastMode = (d.cross, decide (d.acc = .acc16))) && !(d.cross && d.newTile)) || lensEmpty x)

/-- Is the next pass held at the write stage (R82, R102)? -/
def passHeld (s : State) (l : Nat) (j : LensJob) : Bool :=
  let x := lanternAt s l
  drainUnread x j.order (descSpan j.desc) || mergePending x j.order (descSpan j.desc)

/-- PASS (R59): the next descriptor streams; where R82 holds it, a step passes in which the whole lens holds (R85). residueErrors
names the columns whose residue disagrees (R84); a logic BIST in compute reset follows (R348). -/
def execPass (l : Nat) (residueErrors : List Nat) (s : State) : Host.Outcome State Fault Refusal :=
  .next (
    let x := lanternAt s l
    if !lanternLive s l then s
    else match nextPass x with
      | none => s
      | some j =>
        if !passReady s l j then s
        else
          let s0 := letDrains s l j
          if passHeld s0 l j then
            modLantern s0 l (fun y => { y with
              heldSteps := y.heldSteps + 1,
              lensCnt := { y.lensCnt with drainHold := y.lensCnt.drainHold + 1, active := y.lensCnt.active + 1 } })
          else match (if j.desc.newTile then x.shadow else x.tile) with
          | none => s0
          | some t =>
            let s1 := streamPass s0 l j t residueErrors
            if residueErrors.any (fun c => decide (c < 128)) then startLanternReset s1 l true else s1)

/-- Does a lens that is left with nothing to do fill: the work of its mooring goes on, and neither the brake nor router-only
mode keeps it from filling (R416, R417)? -/
def mayFill (s : State) (l : Nat) : Bool :=
  !s.power.brake && decide (s.boot.state ≠ 3) &&
  (match (lanternMooring s l).bind (mooringAt s) with
    | some m => (decide (m.run = .running) || m.stepOn) && !m.paused
    | none => false)

/-- A lens with no pass in flight and no descriptor queued runs isophase fill, once it has released a tile (R416). -/
def startFill (s : State) (l : Nat) : State :=
  let x := lanternAt s l
  if x.tile.isSome && lensEmpty x && x.lensQ.all (fun q => q.retired || q.started || q.draining) && mayFill s l then
    modLantern s l (fun y => { y with filling := true })
  else s

/-- The first streamed pass whose end token is still in the lens releases its tile (R66). -/
def releaseTile (s : State) (l : Nat) : State :=
  let x := lanternAt s l
  match x.lensQ.find? (fun j => decide (j.desc.opcode = 1) && j.started && !j.released) with
  | none => s
  | some j =>
    let x1 := modJob x j.order (fun q => { q with released := true })
    let x2 := { x1 with lensQ := x1.lensQ.filter (fun q => !(q.retired && (q.released || decide (q.desc.opcode ≠ 1) || q.bad))) }
    startFill (modLantern s l (fun _ => { x2 with
      lensStep := if lensEmpty x2 then max x2.lensStep x2.emptyFrom else x2.lensStep })) l

/-- TILE_RELEASE (R66). -/
def execTileRelease (l : Nat) (s : State) : Host.Outcome State Fault Refusal := .next (releaseTile s l)

/-- LENS_CLOCK_CHANGE (R17, R71): on an empty lens, the multiplexer changes to the output that the next pass
wants. The lens accepts nothing for 16 gc: 16 steps of the /4 output, 8 of the /8 (R16). -/
def execLensClockChange (l : Nat) (s : State) : Host.Outcome State Fault Refusal :=
  .next (
    let x := lanternAt s l
    match nextPass x with
    | none => s
    | some j =>
      if lanternLive s l && lensEmpty x && decide (x.fastClk ≠ wantsFast s l j.desc) then
        modLantern s l (fun y => { y with
          fastClk := !y.fastClk,
          lensNow := max y.lensNow y.emptyFrom + (if y.fastClk then 8 else 16),
          lensCnt := { y.lensCnt with clockChg := y.lensCnt.clockChg + 1 } })
      else s)

/-! ### Retirement (R58) -/

/-- May a descriptor retire: it failed a check; its pass has written; its drain has delivered its last row? -/
def mayRetire (j : LensJob) : Bool :=
  !j.retired && (j.bad || (decide (j.desc.opcode = 1) && j.started && !j.desc.drain) ||
    ((decide (j.desc.opcode = 2) || j.desc.drain) && decide (drainRows j.desc ≤ j.drained)))

/-- The first descriptor that can retires, once (R58). -/
def retireLens (s : State) (l : Nat) : State :=
  match (lanternAt s l).lensQ.find? mayRetire with
  | none => s
  | some j =>
    let s1 := modLantern s l (fun x =>
      let x1 := modJob x j.order (fun q => { q with retired := true })
      { x1 with
        lensStep := max x1.lensStep j.wrote,
        lensQ := x1.lensQ.filter (fun q => !(q.retired && (q.released || decide (q.desc.opcode ≠ 1) || q.bad))) })
    bumpEvent (bumpBeacon (startFill s1 l) l 0 1) l 12 1

/-- LENS_DESCRIPTOR_RETIRE (R58). -/
def execLensDescriptorRetire (l : Nat) (s : State) : Host.Outcome State Fault Refusal := .next (retireLens s l)

/-- A descriptor joins the lens queue (R57, R58): one that fails a check is marked, sets the fault flag and
raises the lens descriptor event; the bank of the store that holds it is tested (R348). -/
def issueLens (s : State) (l : Nat) (d : LensDesc) (order phase : Nat) : State :=
  let ok := issueChecks (lanternAt s l) d
  let s1 := modLantern s l (fun x => { x with
    filling := x.filling && !(ok && decide (d.opcode = 1)),
    lensQ := x.lensQ ++ [⟨d, order, phase, false, false, false, false, 0, !ok, false, x.lensStep, 0⟩] })
  if ok then s1
  else lanternEvent (setFault (startTest s1 (.storeBank l (Config.descriptorBank l d.slot).toNat)) l) evLensDescriptor l l d.slot [d.slot, d.tensor]

end Sys2Proof.Machine
end

