-- ==== Sys2Proof/Machine/Flags.lean ====
section
/-! DEFINITION. Machine/Flags.lean: the flag word of a binding (R137). -/

namespace Sys2Proof.Machine

/-- Bits of the flag word (R137). -/
def flSat : Nat := 0
def flUnf : Nat := 1
def flOvf : Nat := 2
def flInx : Nat := 3
def flAddr : Nat := 4
def flTcl : Nat := 5

/-- A flag word with bit k set where b holds: flags are sticky (R137). -/
def orFlag (w : BitVec 16) (k : Nat) (b : Bool) : BitVec 16 := if b then w ||| (1#16 <<< k) else w

/-- Raise a flag of the running binding. -/
def raiseFlag (v : VEngine) (k : Nat) (b : Bool) : VEngine := { v with flags := orFlag v.flags k b }

/-- The O and I bits of records that reached the engine (R105, R118, R130, R134). -/
def raiseRecs (v : VEngine) (rs : List Rec) : VEngine :=
  raiseFlag (raiseFlag v flOvf (rs.any (·.o))) flInx (rs.any (·.i))

end Sys2Proof.Machine
end

