-- ==== Sys2Proof/Machine/Operands.lean ====
section
/-! DEFINITION. Machine/Operands.lean: the operands of vector instructions: registers, lane masks, record
pairs, immediates, alignment and the writing of results (R112, R113, R122, R124, R130). -/

namespace Sys2Proof.Machine

/-! ### Registers -/

/-- Register n (R112). -/
def regAt (v : VEngine) (n : Nat) : VReg := v.regs.getD n VReg.zero

def modReg (v : VEngine) (n : Nat) (f : VReg → VReg) : VEngine := { v with regs := v.regs.modify n f }

def laneAt (r : VReg) (c : Nat) : Lane := r.lanes.getD c ⟨0, false⟩

/-- The mantissa of a lane, read as int64 (R113). -/
def mant (r : VReg) (c : Nat) : Int := (laneAt r c).bits.toInt

def isSat (r : VReg) (c : Nat) : Bool := (laneAt r c).sat

/-- The exponent of a lane group (R112). -/
def gAt (r : VReg) (q : Nat) : Int := r.g.getD q 0

/-- Mask register k. -/
def maskAt (v : VEngine) (k : Nat) : BitVec 128 := v.masks.getD k 0

/-- The lanes that an instruction writes (R122). -/
def writeMask (v : VEngine) (f : VFields) : BitVec 128 :=
  if f.mask = 0 then maskAt v 0 else maskAt v 0 &&& maskAt v f.mask

/-- Lanes of a group. -/
def groupLanes (q : Nat) : List Nat := (List.range 32).map (fun i => 32 * q + i)

/-- Lanes of group q that a mask selects. -/
def liveLanes (w : BitVec 128) (q : Nat) : List Nat := (groupLanes q).filter (fun c => w.getLsbD c)

/-! ### Immediates -/

/-- IMM as a number, as a signed 24-bit number, and IMM[15:0] as int16 (R126). -/
def immNat (f : VFields) : Nat := f.imm.toNat
def immInt (f : VFields) : Int := sext 24 f.imm.toNat
def imm16 (f : VFields) : Int := sext 16 f.imm.toNat

/-! ### Alignment (R124) -/

/-- A shift right by s places with nearest-even, or left exactly (R124, R126): a left shift beyond 200 places
leaves the int64 range as any other does. -/
def shiftExact (a s : Int) : Int :=
  if s ≤ 0 then a * ((2 ^ (min (-s).toNat 200) : Nat) : Int) else shiftRound a s false 0

/-- A value m * 2^g at exponent gd. -/
def alignTo (m g gd : Int) : Int := shiftExact m (gd - g)

/-- Exact comparison of x * 2^gx and y * 2^gy: negative, zero or positive (R126). -/
def cmpExact (x gx y gy : Int) : Int :=
  let lo := min gx gy
  x * ((2 ^ (min (gx - lo).toNat 200) : Nat) : Int) - y * ((2 ^ (min (gy - lo).toNat 200) : Nat) : Int)

/-! ### Results -/

/-- What an instruction computes for one lane: a value, SAT from a SAT operand, or SAT that raises the SAT
condition. -/
inductive Res where
  | val (x : Int)
  | sat
  | raise
  deriving DecidableEq, Repr

/-- Does an integer fit a lane (R124)? -/
def fits64 (x : Int) : Bool := decide (-(2 ^ 63 : Nat) ≤ x) && decide (x < (2 ^ 63 : Nat))

/-- A result as a lane; the second part says that the SAT condition is raised (R124). -/
def resLane : Res → Lane × Bool
  | .val x => if fits64 x then (⟨BitVec.ofInt 64 x, false⟩, false) else (⟨0, true⟩, true)
  | .sat => (⟨0, true⟩, false)
  | .raise => (⟨0, true⟩, true)

/-- Is an exponent in the int16 range (R124)? -/
def gOk (g : Int) : Bool := decide (-32768 ≤ g) && decide (g ≤ 32767)

/-- Write results into register vd (R122, R124): lanes that w selects take theirs, a group with a written lane
its new exponent; an exponent out of range makes the written lanes SAT and is not kept. -/
def commit (v : VEngine) (vd : Nat) (w : BitVec 128) (res : Nat → Res) (gd : Nat → Int) : VEngine :=
  let lane (c : Nat) : Lane × Bool := if gOk (gd (c / 32)) then resLane (res c) else (⟨0, true⟩, true)
  let written := (List.range 128).filter (fun c => w.getLsbD c)
  let v1 := modReg v vd (fun r =>
    ⟨r.lanes.zipIdx.map (fun p => if w.getLsbD p.2 then (lane p.2).1 else p.1),
     r.g.zipIdx.map (fun p => if (liveLanes w p.2).isEmpty || !gOk (gd p.2) then p.1 else gd p.2)⟩)
  raiseFlag v1 flSat (written.any (fun c => (lane c).2))

/-- Write a mask register in the lanes that w selects (R122); m0 is read-only (R117). -/
def commitMask (v : VEngine) (n : Nat) (w : BitVec 128) (p : Nat → Bool) : VEngine :=
  if n = 0 then v
  else { v with masks := v.masks.modify n (fun m => (List.range 128).foldl (fun m c =>
    if w.getLsbD c then (if p c then m ||| (1#128 <<< c) else m &&& ~~~(1#128 <<< c)) else m) m) }

/-! ### Record pairs (R130) -/

/-- The record that lane c of the pair at an even register holds. -/
def pairRec (v : VEngine) (n c : Nat) : Rec :=
  let even := regAt v n
  let odd := regAt v (n + 1)
  let w := (laneAt odd c).bits.toNat
  let o := isSat even c || isSat odd c || bit w 48
  ⟨if o then 0 else mant even c, if o then 0 else bits w 31 0, sext 16 (bits w 47 32), o, bit w 49, bit w 50⟩

/-- The odd register's bits of a record. -/
def recWord (p : Rec) : BitVec 64 :=
  BitVec.ofNat 64 (p.r % 2 ^ 32 + 2 ^ 32 * wrapNat 16 p.x + 2 ^ 48 * b2n p.o + 2 ^ 49 * b2n p.i + 2 ^ 50 * b2n p.z)

/-- Write records into the pair at register vd, in the lanes that w selects. -/
def putPair (v : VEngine) (vd : Nat) (w : BitVec 128) (rs : Nat → Rec) : VEngine :=
  let gs (g : List Int) : List Int := g.zipIdx.map (fun p => if (liveLanes w p.2).isEmpty then p.1 else 0)
  let v1 := modReg v vd (fun r => ⟨r.lanes.zipIdx.map (fun p =>
    if w.getLsbD p.2 then (if (rs p.2).o then ⟨0, true⟩ else ⟨BitVec.ofInt 64 (rs p.2).v, false⟩) else p.1), gs r.g⟩)
  modReg v1 (vd + 1) (fun r => ⟨r.lanes.zipIdx.map (fun p =>
    if w.getLsbD p.2 then ⟨recWord (rs p.2), false⟩ else p.1), gs r.g⟩)

/-- Every lane of a register SAT (R136). The rule names no group exponents: they stay (DESIGN CHOICE,
notes/assumptions/36.md). -/
def satReg (v : VEngine) (n : Nat) : VEngine :=
  modReg v n (fun r => ⟨List.replicate 128 ⟨0, true⟩, r.g⟩)

/-- Every lane of a record pair SAT (R136, R130). -/
def satPair (v : VEngine) (n : Nat) : VEngine :=
  putPair v n (BitVec.allOnes 128) (fun _ => ⟨0, 0, 0, true, false, false⟩)

end Sys2Proof.Machine
end

