-- ==== Sys2Proof/Machine/VecOps.lean ====
section
/-! DEFINITION. Machine/VecOps.lean: what each lane instruction does to the engine's registers, masks and
flags (R124 to R133). -/

namespace Sys2Proof.Machine

/-! ### Moves, arithmetic and logic (R126) -/

/-- An instruction of one source: SAT gives SAT (R125). -/
def unary (v : VEngine) (f : VFields) (g : Int → Int) (h : Int → Int) : VEngine :=
  let a := regAt v f.va
  commit v f.vd (writeMask v f) (fun c => if isSat a c then .sat else .val (h (mant a c)))
    (fun q => g (gAt a q))

/-- An instruction of two sources whose lanes are aligned to the larger exponent (R124). -/
def aligned2 (v : VEngine) (f : VFields) (h : Int → Int → Int) : VEngine :=
  let a := regAt v f.va
  let b := regAt v f.vb
  let gd (q : Nat) : Int := max (gAt a q) (gAt b q)
  commit v f.vd (writeMask v f) (fun c =>
    if isSat a c || isSat b c then .sat
    else .val (h (alignTo (mant a c) (gAt a (c / 32)) (gd (c / 32))) (alignTo (mant b c) (gAt b (c / 32)) (gd (c / 32))))) gd

/-- Bitwise instructions: the exponent is that of VA. -/
def bitwise2 (v : VEngine) (f : VFields) (h : BitVec 64 → BitVec 64 → BitVec 64) : VEngine :=
  let a := regAt v f.va
  let b := regAt v f.vb
  commit v f.vd (writeMask v f) (fun c =>
    if isSat a c || isSat b c then .sat else .val (h (laneAt a c).bits (laneAt b c).bits).toInt) (gAt a)

def opMov (v : VEngine) (f : VFields) : VEngine := unary v f id id

def opLdi (v : VEngine) (f : VFields) : VEngine :=
  commit v f.vd (writeMask v f) (fun _ => .val (immInt f)) (fun _ => 0)

def opSetg (v : VEngine) (f : VFields) : VEngine := unary v f (fun _ => imm16 f) id

def opScale (v : VEngine) (f : VFields) : VEngine := unary v f (· + imm16 f) id

def opGetg (v : VEngine) (f : VFields) : VEngine :=
  let a := regAt v f.va
  commit v f.vd (writeMask v f) (fun c => .val (gAt a (c / 32))) (fun _ => 0)

def opSel (v : VEngine) (f : VFields) : VEngine :=
  let a := regAt v f.va
  let b := regAt v f.vb
  let m := maskAt v (immNat f % 8)
  let gd (q : Nat) : Int := max (gAt a q) (gAt b q)
  commit v f.vd (writeMask v f) (fun c =>
    let r := if m.getLsbD c then a else b
    if isSat r c then .sat else .val (alignTo (mant r c) (gAt r (c / 32)) (gd (c / 32)))) gd

def opAdd (v : VEngine) (f : VFields) : VEngine := aligned2 v f (· + ·)

def opSub (v : VEngine) (f : VFields) : VEngine := aligned2 v f (· - ·)

def opNeg (v : VEngine) (f : VFields) : VEngine := unary v f id (fun x => -x)

def opAbs (v : VEngine) (f : VFields) : VEngine := unary v f id (fun x => (x.natAbs : Int))

def opMul (v : VEngine) (f : VFields) : VEngine :=
  let a := regAt v f.va
  let b := regAt v f.vb
  commit v f.vd (writeMask v f) (fun c =>
    if isSat a c || isSat b c then .sat else .val (mant a c * mant b c)) (fun q => gAt a q + gAt b q)

def opMulsh (v : VEngine) (f : VFields) : VEngine :=
  let a := regAt v f.va
  let b := regAt v f.vb
  commit v f.vd (writeMask v f) (fun c =>
    if isSat a c || isSat b c then .sat else .val (shiftRound (mant a c * mant b c) (immNat f) false 0))
    (fun q => gAt a q + gAt b q + immNat f)

/-- MADD and MSUB: c plus or minus the exact product, aligned (R126). -/
def mulAcc (v : VEngine) (f : VFields) (sign : Int) : VEngine :=
  let a := regAt v f.va
  let b := regAt v f.vb
  let k := regAt v f.vc
  let gp (q : Nat) : Int := gAt a q + gAt b q
  let gd (q : Nat) : Int := max (gp q) (gAt k q)
  commit v f.vd (writeMask v f) (fun c =>
    if isSat a c || isSat b c || isSat k c then .sat
    else .val (alignTo (mant k c) (gAt k (c / 32)) (gd (c / 32)) +
      sign * alignTo (mant a c * mant b c) (gp (c / 32)) (gd (c / 32)))) gd

def opMadd (v : VEngine) (f : VFields) : VEngine := mulAcc v f 1

def opMsub (v : VEngine) (f : VFields) : VEngine := mulAcc v f (-1)

/-- The lesser or greater of two values by exact comparison. -/
def pickVal (useMax : Bool) (x y : Int × Int) : Int × Int :=
  let d := cmpExact y.1 y.2 x.1 x.2
  if (if useMax then decide (0 < d) else decide (d < 0)) then y else x

/-- MIN and MAX (R126). -/
def minMax (v : VEngine) (f : VFields) (useMax : Bool) : VEngine :=
  let a := regAt v f.va
  let b := regAt v f.vb
  let gd (q : Nat) : Int := max (gAt a q) (gAt b q)
  commit v f.vd (writeMask v f) (fun c =>
    if isSat a c || isSat b c then .sat
    else
      let p := pickVal useMax (mant a c, gAt a (c / 32)) (mant b c, gAt b (c / 32))
      .val (alignTo p.1 p.2 (gd (c / 32)))) gd

def opMin (v : VEngine) (f : VFields) : VEngine := minMax v f false

def opMax (v : VEngine) (f : VFields) : VEngine := minMax v f true

def opClamp (v : VEngine) (f : VFields) : VEngine :=
  let a := regAt v f.va
  let b := regAt v f.vb
  let k := regAt v f.vc
  let gd (q : Nat) : Int := max (max (gAt a q) (gAt b q)) (gAt k q)
  commit v f.vd (writeMask v f) (fun c =>
    let q := c / 32
    if isSat a c || isSat b c || isSat k c then .sat
    else
      let p := pickVal false (pickVal true (mant a c, gAt a q) (mant b c, gAt b q)) (mant k c, gAt k q)
      .val (alignTo p.1 p.2 (gd q))) gd

def opAddi (v : VEngine) (f : VFields) : VEngine := unary v f id (· + immInt f)

def opMuli (v : VEngine) (f : VFields) : VEngine := unary v f id (· * immInt f)

def opResc (v : VEngine) (f : VFields) : VEngine := unary v f (· + imm16 f) (fun x => shiftExact x (imm16 f))

def opRescf (v : VEngine) (f : VFields) : VEngine :=
  unary v f (· + imm16 f) (fun x =>
    if 0 < imm16 f then x / ((2 ^ (min (imm16 f).toNat 127) : Nat) : Int) else shiftExact x (imm16 f))

def opAlign (v : VEngine) (f : VFields) : VEngine :=
  let a := regAt v f.va
  let b := regAt v f.vb
  commit v f.vd (writeMask v f) (fun c =>
    if isSat a c then .sat else .val (alignTo (mant a c) (gAt a (c / 32)) (gAt b (c / 32)))) (gAt b)

/-- NORM's exponent of a group (R126): none when no live lane is nonzero. -/
def normExp (a : VReg) (w : BitVec 128) (q : Nat) : Option Int :=
  let n := bitLen (maxNat (((liveLanes w q).filter (fun c => !isSat a c)).map (fun c => (mant a c).natAbs)))
  if n = 0 then none else some (gAt a q + n - 62)

def opNorm (v : VEngine) (f : VFields) : VEngine :=
  let a := regAt v f.va
  let w := writeMask v f
  commit v f.vd w (fun c =>
    if isSat a c then .sat
    else match normExp a w (c / 32) with
      | none => .val 0
      | some g => .val (alignTo (mant a c) (gAt a (c / 32)) g)) (fun q => (normExp a w q).getD 0)

def opAnd (v : VEngine) (f : VFields) : VEngine := bitwise2 v f (· &&& ·)

def opOr (v : VEngine) (f : VFields) : VEngine := bitwise2 v f (· ||| ·)

def opXor (v : VEngine) (f : VFields) : VEngine := bitwise2 v f (· ^^^ ·)

def opNot (v : VEngine) (f : VFields) : VEngine := unary v f id (fun x => -x - 1)

def opShli (v : VEngine) (f : VFields) : VEngine := unary v f id (fun x => x * ((2 ^ (immNat f % 64) : Nat) : Int))

def opShra (v : VEngine) (f : VFields) : VEngine := unary v f id (fun x => x / ((2 ^ (immNat f % 64) : Nat) : Int))

def opShrl (v : VEngine) (f : VFields) : VEngine :=
  unary v f id (fun x => (BitVec.ofInt 64 x >>> (immNat f % 64)).toInt)

/-! ### Compares and mask logic (R125, R126) -/

/-- A compare: false for a SAT operand. -/
def compare2 (v : VEngine) (f : VFields) (p : Int → Bool) : VEngine :=
  let a := regAt v f.va
  let b := regAt v f.vb
  commitMask v f.vd (writeMask v f) (fun c =>
    !isSat a c && !isSat b c && p (cmpExact (mant a c) (gAt a (c / 32)) (mant b c) (gAt b (c / 32))))

def opCeq (v : VEngine) (f : VFields) : VEngine := compare2 v f (fun d => decide (d = 0))
def opCne (v : VEngine) (f : VFields) : VEngine := compare2 v f (fun d => decide (d ≠ 0))
def opClt (v : VEngine) (f : VFields) : VEngine := compare2 v f (fun d => decide (d < 0))
def opCle (v : VEngine) (f : VFields) : VEngine := compare2 v f (fun d => decide (d ≤ 0))
def opCgt (v : VEngine) (f : VFields) : VEngine := compare2 v f (fun d => decide (0 < d))
def opCge (v : VEngine) (f : VFields) : VEngine := compare2 v f (fun d => decide (0 ≤ d))

def opCsat (v : VEngine) (f : VFields) : VEngine :=
  commitMask v f.vd (writeMask v f) (fun c => isSat (regAt v f.va) c)

def opMand (v : VEngine) (f : VFields) : VEngine :=
  commitMask v f.vd (writeMask v f) (fun c => (maskAt v f.va).getLsbD c && (maskAt v f.vb).getLsbD c)

def opMor (v : VEngine) (f : VFields) : VEngine :=
  commitMask v f.vd (writeMask v f) (fun c => (maskAt v f.va).getLsbD c || (maskAt v f.vb).getLsbD c)

def opMnot (v : VEngine) (f : VFields) : VEngine :=
  commitMask v f.vd (writeMask v f) (fun c => !(maskAt v f.va).getLsbD c)

/-! ### Tables, reciprocal, inverse square root, logarithm (R126 to R128) -/

/-- tlu of R127: the result and whether the input was clamped. -/
def tluLane (t : FTable) (a g : Int) : Res × Bool :=
  let q := shiftExact a (-(g + t.fw))
  let span : Int := ((t.segs.length * 2 ^ t.sh : Nat) : Int)
  let clamped := decide (q < t.lo) || decide (t.lo + span ≤ q)
  let q := min (max q t.lo) (t.lo + span - 1)
  let j := ((q - t.lo) / ((2 ^ t.sh : Nat) : Int)).toNat
  let fr := (q - t.lo) % ((2 ^ t.sh : Nat) : Int)
  let sg := t.segs.getD j (0, 0)
  if sg.1 = -(2 ^ 31 : Nat) then (.raise, clamped)
  else (.val (sg.1 + shiftRound (sg.2 * fr) t.sh false 0), clamped)

/-- TLU (R127); without such a table nothing happens, which R123 keeps from arising. -/
def opTlu (v : VEngine) (f : VFields) : VEngine :=
  let a := regAt v f.va
  let w := writeMask v f
  match v.tables[immNat f % 4]? with
  | none => v
  | some t =>
    let lane (c : Nat) : Res × Bool := if isSat a c then (.sat, false) else tluLane t (mant a c) (gAt a (c / 32))
    let v1 := commit v f.vd w (fun c => (lane c).1) (fun _ => t.outg)
    raiseFlag v1 flTcl (((List.range 128).filter (fun c => w.getLsbD c)).any (fun c => (lane c).2))

/-- The exact quotient n / d rounded to the nearest integer, ties to even; d is not zero. -/
def nearestEven (n d : Int) : Int :=
  let n' := if d < 0 then -n else n
  let d' : Int := (d.natAbs : Int)
  let q := n' / d'
  let r := n' % d'
  if d' < 2 * r ∨ (2 * r = d' ∧ q % 2 = 1) then q + 1 else q

/-- The floor of the square root of n, by k bits. -/
def isqrtBits (n : Nat) : Nat → Nat → Nat
  | 0, r => r
  | k + 1, r => let t := r + 2 ^ k; isqrtBits n k (if t * t ≤ n then t else r)

/-- 2^t / sqrt(m) to the nearest integer, ties to even; m is positive. -/
def rsqrtRound (t m : Nat) : Nat :=
  let y := isqrtBits (2 ^ (2 * t) / m) 64 0
  let lhs := 2 ^ (2 * t + 2)
  let rhs := (2 * y + 1) * (2 * y + 1) * m
  if rhs < lhs ∨ (lhs = rhs ∧ y % 2 = 1) then y + 1 else y

/-- The least of a nonempty list of numbers, 0 for none. -/
def minNat : List Nat → Nat
  | [] => 0
  | x :: xs => xs.foldl min x

/-- RECIP of a group (R128): its live lanes decide the exponent. -/
def opRecip (v : VEngine) (f : VFields) : VEngine :=
  let a := regAt v f.va
  let w := writeMask v f
  let live (q : Nat) := (liveLanes w q).filter (fun c => !isSat a c && decide (mant a c ≠ 0))
  let nmin (q : Nat) := minNat ((live q).map (fun c => bitLen (mant a c).natAbs))
  commit v f.vd w (fun c =>
    if isSat a c then .sat
    else if mant a c = 0 then .raise
    else .val (nearestEven ((2 ^ (nmin (c / 32) + 30) : Nat) : Int) (mant a c)))
    (fun q => if (live q).isEmpty then 0 else -(gAt a q) - nmin q - 30)

/-- RSQRT of a group (R128). -/
def opRsqrt (v : VEngine) (f : VFields) : VEngine :=
  let a := regAt v f.va
  let w := writeMask v f
  let live (q : Nat) := (liveLanes w q).filter (fun c => !isSat a c && decide (0 < mant a c))
  let odd (q : Nat) : Nat := (gAt a q % 2).toNat
  let m (c : Nat) : Nat := (mant a c).toNat * 2 ^ odd (c / 32)
  let t (q : Nat) : Nat := (minNat ((live q).map (fun c => bitLen (m c))) + 1) / 2 + 30
  commit v f.vd w (fun c =>
    if isSat a c then .sat
    else if mant a c ≤ 0 then .raise
    else .val (rsqrtRound (t (c / 32)) (m c)))
    (fun q => if (live q).isEmpty then 0 else -((gAt a q - odd q) / 2) - t q)

def opLog2i (v : VEngine) (f : VFields) : VEngine :=
  let a := regAt v f.va
  commit v f.vd (writeMask v f) (fun c =>
    if isSat a c then .sat
    else if mant a c = 0 then .raise
    else .val ((bitLen (mant a c).natAbs : Int) - 1 + gAt a (c / 32))) (fun _ => 0)

/-! ### Draws (R40, R41, R129, R132) -/

/-- What keys a draw: the job seed, the output tensor and the job step. -/
structure DrawKey where
  seed   : Nat
  tensor : Nat
  step   : Nat
  deriving DecidableEq, Repr

/-- Element index of lane c (R117): uint64 with wrap. -/
def laneIndex (v : VEngine) (c : Nat) : Option Nat := v.idx.map (fun i => (i + c * v.lstride) % 2 ^ 64)

/-- The draw of lane c with a use code; 0 where the binding has no element index, which R132 keeps from
arising. -/
def laneDraw (v : VEngine) (k : DrawKey) (use c : Nat) : BitVec 64 :=
  match laneIndex v c with
  | some i => draw k.seed k.tensor k.step use i
  | none => 0

def opRand (v : VEngine) (f : VFields) (k : DrawKey) : VEngine :=
  if v.idx.isNone then v
  else commit v f.vd (writeMask v f) (fun c => .val (laneDraw v k (immNat f % 256) c).toInt) (fun _ => 0)

def opRbits (v : VEngine) (f : VFields) (k : DrawKey) : VEngine :=
  if v.idx.isNone then v
  else commit v f.vd (writeMask v f) (fun c => .val ((laneDraw v k (immNat f % 256) c).toNat / 2 ^ 40)) (fun _ => -24)

/-! ### Requantisation (R129, R130) -/

/-- Requantise the live lanes of one group (R129); the others are pad (R28) and take no part, so a group whose live lanes
are all SAT is written invalid, whatever its pads (DESIGN CHOICE where R37 and R28 meet, notes/assumptions/36.md). -/
def reqGroup (v : VEngine) (f : VFields) (k : DrawKey) (a : List (Int × Bool)) (ein : Int) (lanes : List Nat) : ReqOut :=
  let i := immNat f
  requantise a ein (fmtOf i) (if bit i 2 then some (bits i 13 6) else none) (bits i 4 3) (bit i 5)
    (if bit i 5 then lanes.map (fun c => (laneDraw v k (bits i 21 14) c).toNat) else [])

/-- Write the requantised groups into vd and raise SAT and UNF (R129, R36). -/
def commitReq (v : VEngine) (f : VFields) (w : BitVec 128) (outs : List ReqOut) : VEngine :=
  let fmt := fmtOf (immNat f)
  let out (q : Nat) : ReqOut := outs.getD q ⟨[], 0, false, false⟩
  let v1 := commit v f.vd w (fun c =>
    let o := out (c / 32)
    let pos := ((liveLanes w (c / 32)).filter (· < c)).length
    let m := o.m.getD pos 0
    if o.e = 255 ∨ (fmt ≠ .b32 ∧ m = satCode fmt) then .sat else .val m)
    (fun q => let e := (out q).e; if 1 ≤ e ∧ e ≤ 254 then (e : Int) - 127 else 0)
  raiseFlag (raiseFlag v1 flSat (outs.any (·.sat))) flUnf (outs.any (·.unf))

/-- One group that a requantisation takes: its live lanes, their elements and their exponent. -/
structure ReqIn where
  lanes : List Nat
  a     : List (Int × Bool)
  ein   : Int
  deriving DecidableEq, Repr

/-- e_in + n of a group that holds a nonzero value (R208). -/
def groupTop (g : ReqIn) : Option Int :=
  let n := bitLen (maxNat (g.a.map (fun p => if p.2 then 0 else p.1.natAbs)))
  if n = 0 then none else some (min (g.ein + n) 32767)

/-- The statistics of a site with use code 0x02 (R208). -/
def siteStats (v : VEngine) (f : VFields) (ins : List ReqIn) (outs : List ReqOut) : VEngine :=
  if bits (immNat f) 21 14 = 2 then
    let nb := fmtBits (fmtOf (immNat f))
    { v with
      gtop := ins.foldl (fun m g => match groupTop g with | some t => max m t | none => m) v.gtop,
      ghalf := v.ghalf || outs.any (fun o => o.m.any (fun m => decide (2 ^ (nb - 1) ≤ m.natAbs))),
      gsat := v.gsat || outs.any (·.sat) }
  else v

/-- Requantise the groups given and write them (R129, R208). -/
def reqAll (v : VEngine) (f : VFields) (k : DrawKey) (ins : List ReqIn) : VEngine :=
  let outs := ins.map (fun g =>
    if g.lanes.isEmpty then ⟨[], 0, false, false⟩ else reqGroup v f k g.a g.ein g.lanes)
  siteStats (commitReq v f (writeMask v f) outs) f ins outs

def opReq (v : VEngine) (f : VFields) (k : DrawKey) : VEngine :=
  let a := regAt v f.va
  let w := writeMask v f
  reqAll v f k ((List.range 4).map (fun q =>
    ⟨liveLanes w q, (liveLanes w q).map (fun c => (if isSat a c then 0 else mant a c, isSat a c)), gAt a q⟩))

/-- to_requant of the live lanes of a group of a record pair (R103, R122). -/
def pairGroup (v : VEngine) (n : Nat) (ls : List Nat) : List (Int × Bool) × Int := toRequant (ls.map (pairRec v n))

/-- O and I of the lanes in m0 (R130). -/
def notePair (v : VEngine) (n : Nat) : VEngine :=
  raiseRecs v (((List.range 128).filter (fun c => (maskAt v 0).getLsbD c)).map (pairRec v n))

def opReqr (v : VEngine) (f : VFields) (k : DrawKey) : VEngine :=
  let w := writeMask v f
  let v1 := notePair v f.va
  reqAll v1 f k ((List.range 4).map (fun q =>
    let p := pairGroup v f.va (liveLanes w q)
    ⟨liveLanes w q, p.1, p.2⟩))

def opRjam (v : VEngine) (f : VFields) : VEngine :=
  let w := writeMask v f
  let grp (q : Nat) := pairGroup v f.va (liveLanes w q)
  commit (notePair v f.va) f.vd w (fun c =>
    let p := (grp (c / 32)).1.getD ((liveLanes w (c / 32)).filter (· < c)).length (0, false)
    if p.2 then .sat else .val p.1) (fun q => (grp q).2)

/-- REC (R130). A SAT lane holds zero bits, so its record has Z = 1 beside O = 1 (DESIGN CHOICE,
notes/assumptions/36.md). -/
def opRec (v : VEngine) (f : VFields) : VEngine :=
  let a := regAt v f.va
  let w := writeMask v f
  let out (q : Nat) : Bool := decide (gAt a q < -512) || decide (511 < gAt a q)
  let v1 := putPair v f.vd w (fun c =>
    let o := isSat a c || out (c / 32)
    ⟨if o then 0 else mant a c, 0, gAt a (c / 32), o, false, decide (mant a c = 0)⟩)
  raiseFlag v1 flSat ((List.range 4).any (fun q => out q && !(liveLanes w q).isEmpty))

def opRadd (v : VEngine) (f : VFields) : VEngine :=
  putPair v f.vd (writeMask v f) (fun c => padd (pairRec v f.va c) (pairRec v f.vb c))

/-! ### Reductions (R133) -/

/-- The lanes of the scope that lane c belongs to. -/
def scopeLanes (f : VFields) (w : BitVec 128) (q : Nat) : List Nat :=
  if bit (immNat f) 0 then (List.range 128).filter (fun c => w.getLsbD c) else liveLanes w q

/-- The largest exponent of the groups of a scope's lanes that are not SAT (R122, R133); a scope of SAT lanes only takes
a free one (notes/assumptions/28.md). -/
def scopeExp (a : VReg) (ls : List Nat) : Int :=
  match ls.filter (fun c => !isSat a c) with
  | [] => if ls.isEmpty then 0 else (Config.allSatExp (ls.map (fun c => gAt a (c / 32)))).toInt
  | c :: cs => cs.foldl (fun m d => max m (gAt a (d / 32))) (gAt a (c / 32))

def opRsum (v : VEngine) (f : VFields) : VEngine :=
  let a := regAt v f.va
  let w := writeMask v f
  commit v f.vd w (fun c =>
    let ls := scopeLanes f w (c / 32)
    let g := scopeExp a ls
    if ls.any (isSat a) then .sat
    else .val (ls.foldl (fun t d => t + alignTo (mant a d) (gAt a (d / 32)) g) 0))
    (fun q => scopeExp a (scopeLanes f w q))

/-- The winner of a scope (R108, R133). -/
def scopeWinner (v : VEngine) (a : VReg) (useMax : Bool) (ls : List Nat) : Winner :=
  match ls.map (fun c => (⟨⟨mant a c, 0, gAt a (c / 32), isSat a c, false, false⟩, (laneIndex v c).getD c⟩ : Winner)) with
  | [] => Winner.none
  | x :: xs => xs.foldl (winner useMax) x

/-- RMAX and RMIN (R133). With VC = VD the index is written last and stands (DESIGN CHOICE, notes/assumptions/36.md). -/
def extreme (v : VEngine) (f : VFields) (useMax : Bool) : VEngine :=
  let a := regAt v f.va
  let w := writeMask v f
  let win (q : Nat) : Winner := scopeWinner v a useMax (scopeLanes f w q)
  let v1 := commit v f.vd w (fun c =>
    let p := win (c / 32)
    if p.r.o then .sat else .val (alignTo p.r.v p.r.x (scopeExp a (scopeLanes f w (c / 32)))))
    (fun q => scopeExp a (scopeLanes f w q))
  commit v1 f.vc w (fun c => .val (sext 64 (win (c / 32)).idx)) (fun _ => 0)

def opRmax (v : VEngine) (f : VFields) : VEngine := extreme v f true

def opRmin (v : VEngine) (f : VFields) : VEngine := extreme v f false

def opRcnt (v : VEngine) (f : VFields) : VEngine :=
  let w := writeMask v f
  let m := maskAt v (f.va % 8)
  commit v f.vd w (fun c => .val ((scopeLanes f w (c / 32)).filter (fun d => m.getLsbD d)).length) (fun _ => 0)

end Sys2Proof.Machine
end

