-- ==== Sys2Proof/Machine/Vector.lean ====
section
/-! DEFINITION. Machine/Vector.lean: the vector engine: bindings, rows, loads, stores, merges and the issue of
every chain instruction (R112 to R139, R207, R208). -/

namespace Sys2Proof.Machine

/-! ### The binding in hand -/

/-- The update descriptor of a bundle, by index (R233). -/
def updDescAt (b : Bundle) (i : Nat) : UpdDesc :=
  b.p.updates.getD i ⟨0, 0, 0, 0, 0, 0, [], 0, 0, true⟩

/-- The named states of an update descriptor (R233). -/
def namedStates (u : UpdDesc) : List Nat := u.states.filter (· != 0xFFFFFFFF)

/-- The tensor that keys the draws of a REQ into register vd of an update binding (R238). -/
def updTensor (u : UpdDesc) (vd : Nat) : Nat :=
  if vd < 17 ∨ 20 < vd then u.param else (namedStates u).getD (vd - 17) u.param

/-- What keys the draws of lantern l's binding for destination vd (R41, R129, R238). -/
def drawKey (s : State) (l vd : Nat) : DrawKey :=
  match lanternJob s l, (lanternAt s l).vec.cur with
  | some (m, b), some j =>
    ⟨j.priv.getD b.seed, (match j.update with
      | some u => updTensor (updDescAt b u.desc) vd
      | none => j.bind.tensor), m.step⟩
  | none, some j => ⟨j.priv.getD 0, j.bind.tensor, 0⟩
  | _, none => ⟨0, 0, 0⟩

/-- The context that lantern l's binding runs in: privileged for firmware work (R139). -/
def vecCtx (s : State) (l : Nat) : Ctx :=
  if (((lanternAt s l).vec.cur.bind (·.priv)).isSome) then .priv else .lantern l

/-- The loss-scale exponent of the step (R47, R131). -/
def stepScale (s : State) (l : Nat) : Nat := ((lanternJob s l).map (·.1.stepL)).getD 0

/-- The controls that a ladder gives a site (R205, R207, R209): format, FIXED with e_fix or MAXFIT, headroom;
rounding and use code stay. -/
def siteControls (d : Ladder) (imm : BitVec 24) : BitVec 24 :=
  let n := imm.toNat
  let fmt := if d.curRung < 4 then 1 else 2
  let h := d.curRung % 4
  BitVec.ofNat 24 (fmt + (if d.efix.isSome then 4 else 0) + 8 * h + 32 * (n / 32 % 2) + 64 * d.efix.getD 0 +
    2 ^ 14 * (n / 2 ^ 14 % 2 ^ 8))

/-- The fields of an instruction as the engine runs it: a laddered site with the Keeper's controls (R207). -/
def siteFields (s : State) (l op : Nat) (f : VFields) : VFields :=
  if (op = 0x50 ∨ op = 0x51) ∧ bits f.imm.toNat 21 14 = 2 then
    match lanternJob s l, (lanternAt s l).vec.cur.bind (·.ladder) with
    | some (m, _), some k =>
      (match m.ladders[k]? with
        | some d => { f with imm := siteControls d f.imm }
        | none => f)
    | _, _ => f
  else f

/-! ### Address errors (R136) -/

/-- An access of the instruction of a row failed: ADDR, the fault flag and the address event. -/
def vecAddrErrorAt (s : State) (l cause row index : Nat) : State :=
  let v := (lanternAt s l).vec
  let s1 := modVec (setFault s l) l (fun v => raiseFlag v flAddr true)
  lanternEvent s1 evAddress l l cause
    [(v.cur.map (·.slot)).getD 0, (v.cur.map (·.bind.tensor)).getD 0, row, index]

/-- An access of the instruction in hand failed. -/
def vecAddrError (s : State) (l cause : Nat) : State :=
  vecAddrErrorAt s l cause (lanternAt s l).vec.row (lanternAt s l).vec.index

/-! ### Stores (R135) -/

/-- A write by a lantern's engine at a local address: a part of a poisoned line is dropped, with the fault flag
(R143). -/
def storeLocal (s : State) (l a : Nat) (bs : List Byte) : State :=
  let s1 := if partialPoison s a bs.length then setFault s l else s
  writeMem s1 a bs

/-- The mooring that a carrier-peer request of a lantern names: none for a privileged chain. -/
def accessMooring (s : State) (l : Nat) : Nat := if vecCtx s l = .priv then 0xFFFF else lanternMooringId s l

/-- Perform one piece of the store of an instruction at its target; only privileged work reaches a host window (R23). -/
def performPieceAt (s : State) (l row index : Nat) (p : Nat × List Byte) : State :=
  match checkAddr s (vecCtx s l) p.1 p.2.length true with
  | some (.mem a) => storeLocal s l a p.2
  | some (.peer w a) =>
    let r := peerWrites s (lanternTower l) (accessMooring s l) (.lantern l) w a p.2 (fun _ => .vecStore l row index)
      (peerPieces (p.2.length + 1) a p.2.length)
    modVec r.1 l (fun v => { v with peerTags := v.peerTags ++ r.2 })
  | some (.host i off) =>
    (match hwinAt s i with
    | some h => if hostUp s h.owner then hostWrite s (h.addr + off) p.2 else vecAddrErrorAt s l causeHost row index
    | none => vecAddrErrorAt s l causeAddress row index)
  | none => vecAddrErrorAt s l causeAddress row index

/-- Perform one piece for the instruction in hand. -/
def performPiece (s : State) (l : Nat) (p : Nat × List Byte) : State :=
  performPieceAt s l (lanternAt s l).vec.row (lanternAt s l).vec.index p

def performStore (s : State) (l : Nat) (st : VStore) : State :=
  st.pieces.foldl (fun s p => performPieceAt s l st.row st.index p) s

/-- Perform every store in the store queue, in order. -/
def performStores (s : State) (l : Nat) : State :=
  let q := (lanternAt s l).vec.storeQ
  q.foldl (fun s st => performStore s l st) (modVec s l (fun v => { v with storeQ := [] }))

/-- Does an access of n bytes lie in the lantern's own store? A carrier-peer address that names the module's own W
coordinate is the same local address (R19). -/
def ownStore (s : State) (l addr n : Nat) : Bool :=
  match checkAddr s (vecCtx s l) addr n false with
  | some (.mem a) => decide (a / 2 ^ 40 = storeAddr l 0 / 2 ^ 40)
  | _ => false

/-- Issue a store (R12, R135, R136): an address error writes nothing; pieces in the own store are written at once, in
issue order, and any others go through the queue of 16. -/
def issueStore (s : State) (l : Nat) (pieces : List (Nat × List Byte)) : State :=
  let ps := joinPieces pieces
  if ps.any (fun p => (checkAddr s (vecCtx s l) p.1 p.2.length true).isNone) then vecAddrError s l causeAddress
  else
    let v := (lanternAt s l).vec
    let far := ps.filter (fun p => !ownStore s l p.1 p.2.length)
    let s1 := performStore s l ⟨ps.filter (fun p => ownStore s l p.1 p.2.length), v.row, v.index⟩
    if far.isEmpty then s1
    else
      let s2 := if 16 ≤ v.storeQ.length then performStores s1 l else s1
      modVec s2 l (fun v => { v with storeQ := v.storeQ ++ [⟨far, v.row, v.index⟩] })

/-! ### Loads (R135, R143) -/

/-- Offset in a load's data from which the scale bytes stand. -/
def scaleKey : Nat := 2 ^ 20

/-- Did a poisoned line feed bytes [k, k + n) of a load? -/
def loadBad (ld : VLoad) (k n : Nat) : Bool := ld.bad.any (fun r => decide (r.1 < k + n) && decide (k < r.2))

/-- Deliver a load's lanes to its destination (R131, R135, R136, R143). An invalid block gives SAT lanes; the rule names no
exponent for it, and G is 0 (DESIGN CHOICE, notes/assumptions/36.md). -/
def deliverLoad (v : VEngine) (ld : VLoad) : VEngine :=
  match ld.kind with
  | .blocks fmt =>
    if ld.fail then satReg v ld.vd
    else
      let bb := blockBytes fmt
      let scale (q : Nat) : Nat := (byteAt ld.data (scaleKey + q)).toNat
      let per (c : Nat) : Nat × Nat := (c / 32 * bb + c % 32 * bb / 32, max 1 (bb / 32))
      commit v ld.vd ld.wmask (fun c =>
        let q := c / 32
        if loadBad ld (per c).1 (per c).2 || loadBad ld (scaleKey + q) 1 then .sat
        else
          let r := readElem fmt (scale q) (mantissaAt fmt (bytesAt ld.data (q * bb) bb) (c % 32))
          if r.2 then .sat else .val r.1)
        (fun q => if loadBad ld (scaleKey + q) 1 ∨ scale q = 0 ∨ scale q = 255 then 0 else (scale q : Int) - 127)
  | .words =>
    if ld.fail then satReg v ld.vd
    else commit v ld.vd ld.wmask (fun c =>
      if loadBad ld (8 * c) 8 then .sat else .val (sext 64 (leNat (bytesAt ld.data (8 * c) 8)))) (fun _ => 0)
  | .recs =>
    if ld.fail then satPair v ld.vd
    else putPair v ld.vd ld.wmask (fun c =>
      if loadBad ld (16 * c) 16 then ⟨0, 0, 0, true, false, false⟩ else recOfBytes (bytesAt ld.data (16 * c) 16))

/-- One access of a load: n bytes at a module address, standing from key on in its data. -/
structure LoadPart where
  addr : Nat
  n    : Nat
  key  : Nat
  deriving DecidableEq, Repr

/-- Read one part of a load, or ask a carrier peer for it. -/
def fetchPart (s : State) (l : Nat) (ld : VLoad) (p : LoadPart) : State × VLoad :=
  match checkAddr s (vecCtx s l) p.addr p.n false with
  | some (.mem a) =>
    let bad := (poisonedLines s a p.n).map (fun line =>
      (p.key + (line - a), p.key + min (line + 64 - a) p.n))
    (notePoison s l a p.n, { ld with data := setBytes ld.data p.key (readMem s a p.n), bad := ld.bad ++ bad })
  | some (.peer w a) =>
    let r := peerReads s (lanternTower l) (accessMooring s l) (.lantern l) w
      (fun x => .vecLoad l (p.key + (x - a)) (x % 8) (a + p.n - x)) (peerPieces (p.n + 1) a p.n)
    (r.1, { ld with tags := ld.tags ++ r.2 })
  | some (.host i off) =>
    (match hwinAt s i with
    | some h =>
      if hostUp s h.owner then (s, { ld with data := setBytes ld.data p.key (hostRead s (h.addr + off) p.n) })
      else (vecAddrError s l causeHost, { ld with fail := true })
    | none => (s, { ld with fail := true }))
  | none => (s, { ld with fail := true })

def fetchParts (s : State) (l : Nat) (ld : VLoad) (ps : List LoadPart) : State × VLoad :=
  ps.foldl (fun r p => fetchPart r.1 l r.2 p) (s, ld)

/-- Issue a load (R135, R136): from the own store it delivers at once, from elsewhere through the load queue;
queued stores are performed first, so that a binding reads its own writes. -/
def issueLoad (s : State) (l vd : Nat) (kind : LoadKind) (w : BitVec 128) (parts : List LoadPart) : State :=
  let ld : VLoad := ⟨vd, kind, w, (lanternAt s l).vec.index, [], [], [], false⟩
  if parts.any (fun p => (checkAddr s (vecCtx s l) p.addr p.n false).isNone) then
    vecAddrError (modVec s l (fun v => deliverLoad v { ld with fail := true })) l causeAddress
  else
    let r := fetchParts (performStores s l) l ld parts
    if parts.all (fun p => ownStore s l p.addr p.n) then modVec r.1 l (fun v => deliverLoad v r.2)
    else modVec r.1 l (fun v => { v with loadQ := v.loadQ ++ [r.2] })

/-- The address that a memory instruction names: register k and the offset in rows of a size (R131, R135). -/
def rowAddr (v : VEngine) (f : VFields) (k size : Nat) : Nat :=
  wrapNat 64 ((v.addr.getD k 0 : Int) + sext 15 (bits (immNat f) 23 9) * (size : Int))

def ldbFmt (f : VFields) : Fmt := fmtOf (bits (immNat f) 7 6)

/-- LDB (R131). -/
def issueLdb (s : State) (l : Nat) (f : VFields) : State :=
  let v := (lanternAt s l).vec
  let bb := blockBytes (ldbFmt f)
  issueLoad s l f.vd (.blocks (ldbFmt f)) (writeMask v f)
    [⟨rowAddr v f (bits (immNat f) 2 0) (4 * bb), 4 * bb, 0⟩, ⟨rowAddr v f (bits (immNat f) 5 3) 4, 4, scaleKey⟩]

/-- LDW (R135). -/
def issueLdw (s : State) (l : Nat) (f : VFields) : State :=
  let v := (lanternAt s l).vec
  issueLoad s l f.vd .words (writeMask v f) [⟨rowAddr v f (bits (immNat f) 2 0) 1024, 1024, 0⟩]

/-- LDR (R135). -/
def issueLdr (s : State) (l : Nat) (f : VFields) : State :=
  let v := (lanternAt s l).vec
  issueLoad s l f.vd .recs (writeMask v f) [⟨rowAddr v f (bits (immNat f) 2 0) 2048, 2048, 0⟩]

/-! ### STB, STW, STR (R131, R135) -/

/-- A block as STB writes it: mantissas, scale byte, and whether the SAT condition is raised. -/
structure StbOut where
  m     : List Int
  e     : Nat
  raise : Bool
  deriving DecidableEq, Repr

/-- Is a mantissa in a format's valid range (R25)? -/
def validMant (fmt : Fmt) (m : Int) : Bool :=
  decide (m ≤ fmtMax fmt) && decide (-(fmtMax fmt) ≤ m ∨ (fmt = .b32 ∧ m = -(2 ^ 31 : Nat)))

/-- One group of STB before the loss scale: live lanes as (value, SAT) with their exponent (R131). -/
def stbBlock (fmt : Fmt) (a : List (Int × Bool)) (g : Int) : StbOut :=
  let bad : StbOut := ⟨a.map (fun _ => satCode fmt), 255, true⟩
  let anySat := a.any (·.2)
  let nonzero := a.any (fun p => !p.2 && decide (p.1 ≠ 0))
  if a.all (·.2) ∨ (fmt = .b32 ∧ anySat) then { bad with raise := false }
  else if !nonzero ∧ !anySat then ⟨a.map (fun _ => 0), 0, false⟩
  else if !nonzero then ⟨a.map (fun p => if p.2 then satCode fmt else 0), 127, false⟩
  else if g + 127 < 1 ∨ 254 < g + 127 ∨ a.any (fun p => !p.2 && !validMant fmt p.1) then bad
  else ⟨a.map (fun p => if p.2 then satCode fmt else p.1), (g + 127).toNat, false⟩

/-- The loss-scale exponent applied to a block as STB writes it (R45, R131). -/
def stbScale (fmt : Fmt) (a : List (Int × Bool)) (b : StbOut) (lsc : Nat) : StbOut :=
  let anySat := a.any (·.2)
  let onlySat := anySat && !(a.any (fun p => !p.2 && decide (p.1 ≠ 0)))
  if b.e = 0 then b
  else if b.e = 255 then { b with raise := true }
  else if onlySat then { b with raise := true }
  else if 254 < b.e + lsc then ⟨a.map (fun _ => satCode fmt), 255, true⟩
  else { b with e := b.e + lsc, raise := b.raise || anySat }

/-- STB of register f.va (R131). -/
def issueStb (s : State) (l : Nat) (f : VFields) : State :=
  let v := (lanternAt s l).vec
  let r := regAt v f.va
  let w := writeMask v f
  let fmt := ldbFmt f
  let bb := blockBytes fmt
  let ma := rowAddr v f (bits (immNat f) 2 0) (4 * bb)
  let sa := rowAddr v f (bits (immNat f) 5 3) 4
  let groups := (List.range 4).filter (fun q => !(liveLanes w q).isEmpty)
  let outs := groups.map (fun q =>
    let a := (liveLanes w q).map (fun c => (if isSat r c then 0 else mant r c, isSat r c))
    let b := stbBlock fmt a (gAt r q)
    let b := if bit (immNat f) 8 then stbScale fmt a b (stepScale s l) else b
    let ms := (groupLanes q).map (fun c =>
      if w.getLsbD c then b.m.getD ((liveLanes w q).filter (· < c)).length 0 else 0)
    (q, ms, b))
  let s1 := modVec s l (fun v => raiseFlag v flSat (outs.any (fun o => o.2.2.raise)))
  issueStore s1 l (outs.map (fun o => (wrapNat 64 (ma + o.1 * bb : Nat), mantissaBytes fmt o.2.1)) ++
    outs.map (fun o => (wrapNat 64 (sa + o.1 : Nat), [BitVec.ofNat 8 o.2.2.e])))

/-- STW (R135). -/
def issueStw (s : State) (l : Nat) (f : VFields) : State :=
  let v := (lanternAt s l).vec
  let r := regAt v f.va
  let a := rowAddr v f (bits (immNat f) 2 0) 1024
  issueStore s l (((List.range 128).filter (fun c => (writeMask v f).getLsbD c)).map (fun c =>
    (wrapNat 64 (a + 8 * c : Nat), natLE 8 (laneAt r c).bits.toNat)))

/-- STR (R130, R135). -/
def issueStr (s : State) (l : Nat) (f : VFields) : State :=
  let v := (lanternAt s l).vec
  let a := rowAddr v f (bits (immNat f) 2 0) 2048
  issueStore s l (((List.range 128).filter (fun c => (writeMask v f).getLsbD c)).map (fun c =>
    (wrapNat 64 (a + 16 * c : Nat), recBytes (pairRec v f.va c))))

/-! ### Merges (R101, R134) -/

/-- The entry that a merge instruction names in this row, none when it is outside the format's range. -/
def mergeTarget (v : VEngine) (f : VFields) : Option (EntryFmt × Nat) :=
  let k := mergeFmt f.imm
  let e := v.mbase + mergeEntry f.imm
  if e < entryCount k then some (k, e) else none

/-- Change the entries of the lanes that w selects. -/
def modEntries (x : Lantern) (w : BitVec 128) (g : Lantern → Nat → Lantern) : Lantern :=
  ((List.range 128).filter (fun c => w.getLsbD c)).foldl g x

def issueMergeAdd (s : State) (l : Nat) (f : VFields) : State :=
  let v := (lanternAt s l).vec
  match mergeTarget v f with
  | none => vecAddrError s l causeAddress
  | some (k, e) => modLantern s l (fun x => modEntries x (writeMask v f) (fun x c =>
      putEntry x k e c (padd (entryRec x k e c) (pairRec v f.va c))))

/-- MERGE_READ, and MERGE_TAKE which empties the entries too. -/
def issueMergeGet (s : State) (l : Nat) (f : VFields) (take : Bool) : State :=
  let x := lanternAt s l
  let w := writeMask x.vec f
  match mergeTarget x.vec f with
  | none => vecAddrError (modVec s l (fun v => satPair v f.vd)) l causeAddress
  | some (k, e) =>
    let s1 := modVec s l (fun v => raiseRecs (putPair v f.vd w (entryRec x k e))
      (((List.range 128).filter (fun c => w.getLsbD c)).map (entryRec x k e)))
    if take then modLantern s1 l (fun x => modEntries x w (fun x c => emptyEntry x k e c)) else s1

/-! ### Issue -/

/-- Registers that a queued load still has to write (R135). -/
def pendingRegs (v : VEngine) : List Nat :=
  v.loadQ.flatMap (fun ld => if ld.kind = .recs then [ld.vd, ld.vd + 1] else [ld.vd])

/-- Must an instruction wait for a load (R135)? It names a register, itself or as a pair, whose load has not
arrived, or it is a load and the load queue is full. -/
def stalls (v : VEngine) (op : Nat) (f : VFields) : Bool :=
  ([f.vd, f.vd + 1, f.va, f.va + 1, f.vb, f.vb + 1, f.vc].any (fun n => (pendingRegs v).contains n)) ||
  ((decide (op = 0x68) || decide (op = 0x6A) || decide (op = 0x6C)) && decide (16 ≤ v.loadQ.length))

/-- What an instruction does, by opcode (R126); an opcode that R126 does not list does nothing, which R123
keeps from arising. -/
def effect (s : State) (l op : Nat) (f : VFields) : State :=
  let lane (g : VEngine → VFields → VEngine) : State := modVec s l (fun v => g v f)
  let keyed (g : VEngine → VFields → DrawKey → VEngine) : State := modVec s l (fun v => g v f (drawKey s l f.vd))
  match op with
  | 0x01 => lane opMov
  | 0x02 => lane opLdi
  | 0x03 => lane opSetg
  | 0x04 => lane opScale
  | 0x05 => lane opGetg
  | 0x06 => lane opSel
  | 0x10 => lane opAdd
  | 0x11 => lane opSub
  | 0x12 => lane opNeg
  | 0x13 => lane opAbs
  | 0x14 => lane opMul
  | 0x15 => lane opMulsh
  | 0x16 => lane opMadd
  | 0x17 => lane opMsub
  | 0x18 => lane opMin
  | 0x19 => lane opMax
  | 0x1A => lane opClamp
  | 0x1B => lane opAddi
  | 0x1C => lane opMuli
  | 0x20 => lane opResc
  | 0x21 => lane opRescf
  | 0x22 => lane opAlign
  | 0x23 => lane opNorm
  | 0x28 => lane opAnd
  | 0x29 => lane opOr
  | 0x2A => lane opXor
  | 0x2B => lane opNot
  | 0x2C => lane opShli
  | 0x2D => lane opShra
  | 0x2E => lane opShrl
  | 0x30 => lane opCeq
  | 0x31 => lane opCne
  | 0x32 => lane opClt
  | 0x33 => lane opCle
  | 0x34 => lane opCgt
  | 0x35 => lane opCge
  | 0x36 => lane opCsat
  | 0x37 => lane opMand
  | 0x38 => lane opMor
  | 0x39 => lane opMnot
  | 0x40 => lane opTlu
  | 0x41 => lane opRecip
  | 0x42 => lane opRsqrt
  | 0x43 => lane opLog2i
  | 0x48 => keyed opRand
  | 0x49 => keyed opRbits
  | 0x50 => keyed opReq
  | 0x51 => keyed opReqr
  | 0x52 => lane opRec
  | 0x53 => lane opRjam
  | 0x54 => lane opRadd
  | 0x58 => issueMergeAdd s l f
  | 0x59 => issueMergeGet s l f false
  | 0x5A => issueMergeGet s l f true
  | 0x60 => lane opRsum
  | 0x61 => lane opRmax
  | 0x62 => lane opRmin
  | 0x63 => lane opRcnt
  | 0x68 => issueLdb s l f
  | 0x69 => issueStb s l f
  | 0x6A => issueLdw s l f
  | 0x6B => issueStw s l f
  | 0x6C => issueLdr s l f
  | 0x6D => issueStr s l f
  | _ => s

/-- An instruction retires: it is counted (R119, R337). -/
def retireIns (s : State) (l : Nat) : State :=
  bumpBeacon (modVec s l (fun v => { v with index := v.index + 1 })) l 1 1

/-- Issue one instruction of a chain. -/
def runIns (s : State) (l : Nat) (i : VIns) : State := retireIns (effect s l i.op (siteFields s l i.op i.f)) l

/-- Issue instructions in order until one must wait; those that remain are kept (R135). -/
def runList (l : Nat) : List VIns → State → State
  | [], s => modVec s l (fun v => { v with todo := [] })
  | i :: is, s =>
    if stalls (lanternAt s l).vec i.op i.f then modVec s l (fun v => { v with todo := i :: is })
    else runList l is (runIns s l i)

/-- One instruction as a command: it issues when the lantern runs a binding and no load holds it. -/
def issueOne (s : State) (l op : Nat) (f : VFields) (act : State → VFields → State) : State :=
  let v := (lanternAt s l).vec
  if lanternLive s l && v.cur.isSome && !stalls v op f then retireIns (act s (siteFields s l op f)) l else s

/-- A lane instruction as a command. -/
def issueLane (s : State) (l op : Nat) (f : VFields) (g : VEngine → VFields → VEngine) : State :=
  issueOne s l op f (fun s f => modVec s l (fun v => g v f))

/-- A lane instruction that draws, as a command. -/
def issueKeyed (s : State) (l op : Nat) (f : VFields) (g : VEngine → VFields → DrawKey → VEngine) : State :=
  issueOne s l op f (fun s f => modVec s l (fun v => g v f (drawKey s l f.vd)))

/-! ### Bindings and rows (R114, R116 to R120) -/

/-- The registers that a chain carries (R114). -/
def carried (c : Chain) (n : Nat) : Bool := decide (48 ≤ n) && decide (n < 64) && c.carry.getLsbD (n - 48)

/-- The registers at the start of a row: all but those that keep p cleared (R114). -/
def clearRegs (v : VEngine) (keep : Nat → Bool) : VEngine :=
  { v with regs := v.regs.zipIdx.map (fun p => if keep p.2 then p.1 else VReg.zero) }

/-- Addresses, index and merge base of row i (R117). -/
def setRow (v : VEngine) (b : Binding) (i : Nat) : VEngine :=
  { v with
    row := i,
    addr := (List.range 8).map (fun k => wrapNat 64 ((b.abase.getD k 0 : Int) + i * b.astep.getD k 0)),
    idx := if b.laneStride = 0 then none else some ((b.idxBase + i * b.rowStride) % 2 ^ 64),
    lstride := b.laneStride, mbase := b.mrowBase + i * b.mrowStep }

/-- A row starts (R114): registers cleared but for the carried ones, m1 to m7 clear, m0 given. -/
def startRow (v : VEngine) (j : BindJob) (i : Nat) (m0 : BitVec 128) (keep : Nat → Bool) : VEngine :=
  setRow { clearRegs v (fun n => carried j.chain n || keep n) with masks := m0 :: List.replicate 7 0 } j.bind i

/-- Deliver a drained row (R118). -/
def deliverRow (v : VEngine) (b : Binding) (r : DrainRow) : VEngine :=
  let rec_ (c : Nat) : Rec := r.recs.getD c Rec.empty
  let live := (List.range 128).filter (fun c => r.valid.getLsbD c)
  let v1 := raiseRecs v (live.map rec_)
  if b.source = 1 then putPair v1 0 (BitVec.allOnes 128) rec_
  else
    let grp (q : Nat) := toRequant ((groupLanes q).map (fun c => if r.valid.getLsbD c then rec_ c else Rec.empty))
    commit v1 0 (BitVec.allOnes 128) (fun c =>
      let p := (grp (c / 32)).1.getD (c % 32) (0, false)
      if p.2 then .sat else .val p.1) (fun q => (grp q).2)

/-- Does a merge instruction of this row have to wait: an earlier pass that writes its entry is not released,
or an earlier drain other than the binding's own has not read it (R102)? -/
def mergeWaits (x : Lantern) (j : BindJob) (ins : List VIns) (i : Nat) : Bool :=
  (ins.filter (fun k => isMerge k.op)).any (fun k =>
    let e := j.bind.mrowBase + i * j.bind.mrowStep + mergeEntry k.f.imm
    let sp := spanOf (mergeFmt k.f.imm) e (e + 1)
    x.lensQ.any (fun q => decide (q.order < j.order) && !q.bad && decide (some q.order ≠ j.drainOf) &&
      ((decide (q.desc.opcode = 1) && !q.released && spansMeet sp (descSpan q.desc)) ||
       (drainPending q && spansMeet sp (unreadSpan q)))))

/-- The row or tail of a running binding that is next. -/
inductive NextRow where
  | row (i : Nat) (d : Option DrainRow)
  | tail (i : Nat)
  | none
  deriving DecidableEq, Repr

/-- What the engine would start next: a row whose input is there, then the tail, once. -/
def nextRow (x : Lantern) (j : BindJob) : NextRow :=
  if x.vec.rowsRun < x.vec.nrows then
    match j.drainOf with
    | none => .row x.vec.rowsRun none
    | some o =>
      match x.drainQ.find? (fun r => r.order == o) with
      | some r => .row x.vec.rowsRun (some r)
      | none => .none
  else if j.chain.tail.isEmpty ∨ x.vec.tailRun ∨ j.phantom then .none
  else .tail x.vec.rowsRun

/-- Take the row just started out of the drain queue and count it. -/
def countRow (x : Lantern) (d : Option DrainRow) : Lantern :=
  { x with drainQ := (match d with
             | some r => x.drainQ.erase r
             | none => x.drainQ),
           vec := { x.vec with rowsRun := x.vec.rowsRun + 1 } }

/-- The lanes of a standing-alone row (R117). -/
def standingLanes (b : Binding) : BitVec 128 := BitVec.ofNat 128 (2 ^ b.validN - 1)

/-- Start row i of an ordinary binding and run its body; a masked row takes no issue slots (R117, R118). -/
def chainRow (s : State) (l : Nat) (j : BindJob) (i : Nat) (d : Option DrainRow) : State :=
  let m0 := match d with
    | some r => r.valid
    | none => standingLanes j.bind
  let masked := j.phantom || (match d with | some r => r.masked | none => false)
  if masked then
    modLantern s l (fun x => let y := countRow x d; { y with vec := { y.vec with masks := m0 :: y.vec.masks.drop 1 } })
  else
    let s1 := modLantern s l (fun x =>
      let y := countRow x d
      let v := startRow y.vec j i m0 (fun _ => false)
      { y with vec := { (match d with
        | some r => deliverRow v j.bind r
        | none => v) with index := 0 } })
    runList l j.chain.body s1

/-- Run the tail as row i = N (R117). -/
def chainTail (s : State) (l : Nat) (j : BindJob) (i : Nat) : State :=
  let s1 := modVec s l (fun v => { startRow v j i (if j.drainOf.isSome then maskAt v 0 else standingLanes j.bind)
      (fun n => j.update.isSome && decide (56 ≤ n)) with
    index := j.chain.body.length, tailRun := true })
  runList l j.chain.tail s1

/-- May the engine start a row: the lantern works, the row before has issued everything and its loads have
arrived? -/
def rowFree (s : State) (l : Nat) : Bool :=
  lanternLive s l && (lanternAt s l).vec.todo.isEmpty && (lanternAt s l).vec.loadQ.isEmpty

/-- The oldest load whose data are all here delivers its lanes, and issue goes on. A failed access has been reported when its
answer came. -/
def arriveLoad (s : State) (l : Nat) : State :=
  let v := (lanternAt s l).vec
  match v.loadQ with
  | [] => s
  | ld :: rest =>
    if ld.tags.isEmpty then runList l v.todo (modVec s l (fun v => deliverLoad { v with loadQ := rest } ld))
    else s

/-- LOAD_ARRIVAL (R135). -/
def execLoadArrival (l : Nat) (s : State) : Host.Outcome State Fault Refusal := .next (arriveLoad s l)

/-- A merge instruction as a command: it also waits for the passes and drains of R102. -/
def issueMerge (s : State) (l op : Nat) (f : VFields) (act : State → VFields → State) : State :=
  let x := lanternAt s l
  if (match x.vec.cur with
    | some j => mergeWaits x j [⟨op, f, true⟩] x.vec.row
    | none => true) then s
  else issueOne s l op f act

/-! ### Retirement (R119, R138, R212) -/

/-- Gather a binding's flags for the verdict of its step (R138, R212, R474). -/
def gatherFlags (m : Mooring) (fl : BitVec 16) (phase : Nat) : Mooring :=
  let g := m.gathered
  { m with
    flags := m.flags ||| fl,
    gathered := { g with
      overflow := g.overflow || fl.getLsbD flOvf || (fl.getLsbD flSat && decide (phase < 4)),
      notExact := g.notExact || fl.getLsbD flInx,
      unf := g.unf || fl.getLsbD flUnf,
      tcl := g.tcl || fl.getLsbD flTcl } }

/-- Combine a binding's statistics into its gradient ladders: every record of the tensor (R206, R208). -/
def gatherLadder (m : Mooring) (k : Option Nat) (v : VEngine) : Mooring :=
  match k with
  | none => m
  | some i => { m with ladders := m.ladders.modify i (fun d =>
      { d with gtop := max d.gtop v.gtop, ghalf := d.ghalf || v.ghalf, gsat := d.gsat || v.gsat }) }

/-- Has the running binding issued everything, with every load arrived? -/
def bindingIssued (x : Lantern) : Bool :=
  match x.vec.cur with
  | none => false
  | some j => x.vec.todo.isEmpty && x.vec.loadQ.isEmpty && decide (nextRow x j = .none) &&
      decide (x.vec.nrows ≤ x.vec.rowsRun)

/-! ### The instructions as commands (R126) -/

def execVMov (l : Nat) (f : VFields) (s : State) : Host.Outcome State Fault Refusal := .next (issueLane s l 0x01 f opMov)
def execVLdi (l : Nat) (f : VFields) (s : State) : Host.Outcome State Fault Refusal := .next (issueLane s l 0x02 f opLdi)
def execVSetg (l : Nat) (f : VFields) (s : State) : Host.Outcome State Fault Refusal := .next (issueLane s l 0x03 f opSetg)
def execVScale (l : Nat) (f : VFields) (s : State) : Host.Outcome State Fault Refusal := .next (issueLane s l 0x04 f opScale)
def execVGetg (l : Nat) (f : VFields) (s : State) : Host.Outcome State Fault Refusal := .next (issueLane s l 0x05 f opGetg)
def execVSel (l : Nat) (f : VFields) (s : State) : Host.Outcome State Fault Refusal := .next (issueLane s l 0x06 f opSel)

/-- NOP of the vector engine: it takes an issue slot and retires. -/
def execVNop (l : Nat) (f : VFields) (s : State) : Host.Outcome State Fault Refusal := .next (issueOne s l 0x00 f (fun s _ => s))

def execVAdd (l : Nat) (f : VFields) (s : State) : Host.Outcome State Fault Refusal := .next (issueLane s l 0x10 f opAdd)
def execVSub (l : Nat) (f : VFields) (s : State) : Host.Outcome State Fault Refusal := .next (issueLane s l 0x11 f opSub)
def execVNeg (l : Nat) (f : VFields) (s : State) : Host.Outcome State Fault Refusal := .next (issueLane s l 0x12 f opNeg)
def execVAbs (l : Nat) (f : VFields) (s : State) : Host.Outcome State Fault Refusal := .next (issueLane s l 0x13 f opAbs)
def execVMul (l : Nat) (f : VFields) (s : State) : Host.Outcome State Fault Refusal := .next (issueLane s l 0x14 f opMul)
def execVMulsh (l : Nat) (f : VFields) (s : State) : Host.Outcome State Fault Refusal := .next (issueLane s l 0x15 f opMulsh)
def execVMadd (l : Nat) (f : VFields) (s : State) : Host.Outcome State Fault Refusal := .next (issueLane s l 0x16 f opMadd)
def execVMsub (l : Nat) (f : VFields) (s : State) : Host.Outcome State Fault Refusal := .next (issueLane s l 0x17 f opMsub)
def execVMin (l : Nat) (f : VFields) (s : State) : Host.Outcome State Fault Refusal := .next (issueLane s l 0x18 f opMin)
def execVMax (l : Nat) (f : VFields) (s : State) : Host.Outcome State Fault Refusal := .next (issueLane s l 0x19 f opMax)
def execVClamp (l : Nat) (f : VFields) (s : State) : Host.Outcome State Fault Refusal := .next (issueLane s l 0x1A f opClamp)
def execVAddi (l : Nat) (f : VFields) (s : State) : Host.Outcome State Fault Refusal := .next (issueLane s l 0x1B f opAddi)
def execVMuli (l : Nat) (f : VFields) (s : State) : Host.Outcome State Fault Refusal := .next (issueLane s l 0x1C f opMuli)
def execVResc (l : Nat) (f : VFields) (s : State) : Host.Outcome State Fault Refusal := .next (issueLane s l 0x20 f opResc)
def execVRescf (l : Nat) (f : VFields) (s : State) : Host.Outcome State Fault Refusal := .next (issueLane s l 0x21 f opRescf)
def execVAlign (l : Nat) (f : VFields) (s : State) : Host.Outcome State Fault Refusal := .next (issueLane s l 0x22 f opAlign)
def execVNorm (l : Nat) (f : VFields) (s : State) : Host.Outcome State Fault Refusal := .next (issueLane s l 0x23 f opNorm)
def execVAnd (l : Nat) (f : VFields) (s : State) : Host.Outcome State Fault Refusal := .next (issueLane s l 0x28 f opAnd)
def execVOr (l : Nat) (f : VFields) (s : State) : Host.Outcome State Fault Refusal := .next (issueLane s l 0x29 f opOr)
def execVXor (l : Nat) (f : VFields) (s : State) : Host.Outcome State Fault Refusal := .next (issueLane s l 0x2A f opXor)
def execVNot (l : Nat) (f : VFields) (s : State) : Host.Outcome State Fault Refusal := .next (issueLane s l 0x2B f opNot)
def execVShli (l : Nat) (f : VFields) (s : State) : Host.Outcome State Fault Refusal := .next (issueLane s l 0x2C f opShli)
def execVShra (l : Nat) (f : VFields) (s : State) : Host.Outcome State Fault Refusal := .next (issueLane s l 0x2D f opShra)
def execVShrl (l : Nat) (f : VFields) (s : State) : Host.Outcome State Fault Refusal := .next (issueLane s l 0x2E f opShrl)
def execVCeq (l : Nat) (f : VFields) (s : State) : Host.Outcome State Fault Refusal := .next (issueLane s l 0x30 f opCeq)
def execVCne (l : Nat) (f : VFields) (s : State) : Host.Outcome State Fault Refusal := .next (issueLane s l 0x31 f opCne)
def execVClt (l : Nat) (f : VFields) (s : State) : Host.Outcome State Fault Refusal := .next (issueLane s l 0x32 f opClt)
def execVCle (l : Nat) (f : VFields) (s : State) : Host.Outcome State Fault Refusal := .next (issueLane s l 0x33 f opCle)
def execVCgt (l : Nat) (f : VFields) (s : State) : Host.Outcome State Fault Refusal := .next (issueLane s l 0x34 f opCgt)
def execVCge (l : Nat) (f : VFields) (s : State) : Host.Outcome State Fault Refusal := .next (issueLane s l 0x35 f opCge)
def execVCsat (l : Nat) (f : VFields) (s : State) : Host.Outcome State Fault Refusal := .next (issueLane s l 0x36 f opCsat)
def execVMand (l : Nat) (f : VFields) (s : State) : Host.Outcome State Fault Refusal := .next (issueLane s l 0x37 f opMand)
def execVMor (l : Nat) (f : VFields) (s : State) : Host.Outcome State Fault Refusal := .next (issueLane s l 0x38 f opMor)
def execVMnot (l : Nat) (f : VFields) (s : State) : Host.Outcome State Fault Refusal := .next (issueLane s l 0x39 f opMnot)
def execVTlu (l : Nat) (f : VFields) (s : State) : Host.Outcome State Fault Refusal := .next (issueLane s l 0x40 f opTlu)
def execVRecip (l : Nat) (f : VFields) (s : State) : Host.Outcome State Fault Refusal := .next (issueLane s l 0x41 f opRecip)
def execVRsqrt (l : Nat) (f : VFields) (s : State) : Host.Outcome State Fault Refusal := .next (issueLane s l 0x42 f opRsqrt)
def execVLog2i (l : Nat) (f : VFields) (s : State) : Host.Outcome State Fault Refusal := .next (issueLane s l 0x43 f opLog2i)
def execVRand (l : Nat) (f : VFields) (s : State) : Host.Outcome State Fault Refusal := .next (issueKeyed s l 0x48 f opRand)
def execVRbits (l : Nat) (f : VFields) (s : State) : Host.Outcome State Fault Refusal := .next (issueKeyed s l 0x49 f opRbits)
def execVReq (l : Nat) (f : VFields) (s : State) : Host.Outcome State Fault Refusal := .next (issueKeyed s l 0x50 f opReq)
def execVReqr (l : Nat) (f : VFields) (s : State) : Host.Outcome State Fault Refusal := .next (issueKeyed s l 0x51 f opReqr)
def execVRec (l : Nat) (f : VFields) (s : State) : Host.Outcome State Fault Refusal := .next (issueLane s l 0x52 f opRec)
def execVRjam (l : Nat) (f : VFields) (s : State) : Host.Outcome State Fault Refusal := .next (issueLane s l 0x53 f opRjam)
def execVRadd (l : Nat) (f : VFields) (s : State) : Host.Outcome State Fault Refusal := .next (issueLane s l 0x54 f opRadd)
def execVMergeAdd (l : Nat) (f : VFields) (s : State) : Host.Outcome State Fault Refusal := .next (issueMerge s l 0x58 f (fun s f => issueMergeAdd s l f))
def execVMergeRead (l : Nat) (f : VFields) (s : State) : Host.Outcome State Fault Refusal := .next (issueMerge s l 0x59 f (fun s f => issueMergeGet s l f false))
def execVMergeTake (l : Nat) (f : VFields) (s : State) : Host.Outcome State Fault Refusal := .next (issueMerge s l 0x5A f (fun s f => issueMergeGet s l f true))
def execVRsum (l : Nat) (f : VFields) (s : State) : Host.Outcome State Fault Refusal := .next (issueLane s l 0x60 f opRsum)
def execVRmax (l : Nat) (f : VFields) (s : State) : Host.Outcome State Fault Refusal := .next (issueLane s l 0x61 f opRmax)
def execVRmin (l : Nat) (f : VFields) (s : State) : Host.Outcome State Fault Refusal := .next (issueLane s l 0x62 f opRmin)
def execVRcnt (l : Nat) (f : VFields) (s : State) : Host.Outcome State Fault Refusal := .next (issueLane s l 0x63 f opRcnt)
def execVLdb (l : Nat) (f : VFields) (s : State) : Host.Outcome State Fault Refusal := .next (issueOne s l 0x68 f (fun s f => issueLdb s l f))
def execVStb (l : Nat) (f : VFields) (s : State) : Host.Outcome State Fault Refusal := .next (issueOne s l 0x69 f (fun s f => issueStb s l f))
def execVLdw (l : Nat) (f : VFields) (s : State) : Host.Outcome State Fault Refusal := .next (issueOne s l 0x6A f (fun s f => issueLdw s l f))
def execVStw (l : Nat) (f : VFields) (s : State) : Host.Outcome State Fault Refusal := .next (issueOne s l 0x6B f (fun s f => issueStw s l f))
def execVLdr (l : Nat) (f : VFields) (s : State) : Host.Outcome State Fault Refusal := .next (issueOne s l 0x6C f (fun s f => issueLdr s l f))
def execVStr (l : Nat) (f : VFields) (s : State) : Host.Outcome State Fault Refusal := .next (issueOne s l 0x6D f (fun s f => issueStr s l f))

end Sys2Proof.Machine
end

