-- ==== Sys2Proof/Machine/Dma.lean ====
section
/-! DEFINITION. Machine/Dma.lean: the DMA channels: descriptors, their checks and addresses, rings and skew,
packing, loops, waits, signals, errors, retirement and stops (R165 to R168, R170 to R190, R195). -/

namespace Sys2Proof.Machine

/-! ### Causes, counts and reports (R186 to R188, R195) -/

/-- Does a channel exist and work (R9, R341)? -/
def chanLive (s : State) : Chan → Bool
  | .lantern l _ => lanternLive s l
  | .system _ => true

/-- A descriptor retires (R186): counted, and a lantern's beacon counter advances. -/
def dmaRetire (s : State) (c : Chan) : State :=
  let s1 := bumpChan s c 0 1
  match chanLantern c with
  | some l => bumpBeacon s1 l 2 1
  | none => s1

/-- The bundle's tensor whose stream passed its reservation is to be reserved at its largest size (R169). -/
def noteOverLimit (s : State) (id tensor : Nat) : State :=
  modMooring s id (fun m => { m with
    overLimit := if m.overLimit.contains tensor then m.overLimit else m.overLimit ++ [tensor] })

/-- What identifies a descriptor in reports (R187): program index, SLOT, privilege, descriptor index, TENSOR. -/
structure DescRef where
  prog   : Nat
  slot   : Nat
  priv   : Bool
  desc   : Nat
  tensor : Nat
  deriving DecidableEq, Repr

/-- The tensor of a mooring whose placed array holds a local address, and where that array ends (R169). -/
def tensorHolding (s : State) (m : Mooring) (a : Nat) : Option (Tensor × Nat) :=
  let holds (x n : Nat) : Option Nat := if x ≤ a ∧ a < x + n then some (x + n) else none
  (bundleAt s m.bundle).bind (fun b => (m.place.tensors.zip b.p.tensors).findSome? (fun q =>
    ((holds q.1.mbase q.1.mbytes).orElse (fun _ => q.1.alt.bind (fun y => holds y.1 q.1.mbytes))).map (fun e => (q.2, e))))

/-- A bad descriptor of the Keeper's own work, for its command's record (R187, R191). -/
def noteCmdBad (s : State) (c : Chan) (cause : Nat) : State :=
  modChan s c (fun x => { x with cmdBad := x.cmdBad + 1, cmdAddr := x.cmdAddr || decide (cause = causeAddress) })

/-- A bad descriptor (R187): counted by cause; for tenant work the fault flag is set but for COUNTER, the event
is raised with the failing address, and the step's record says BAD; for the Keeper's own work the command's count
advances. -/
def dmaBad (s : State) (c : Chan) (r : DescRef) (cause addr : Nat) : State :=
  let s1 := bumpChan s c cause 1
  match chanLantern c with
  | some l =>
    if r.priv then noteCmdBad s1 c cause
    else
      let s2 := if cause = causeCounter then s1 else setFault s1 l
      let s3 := match lanternMooring s2 l with
        | some id =>
          let t := modMooring s2 id (fun m => { m with bad := true })
          if cause = causeOverLimit then
            noteOverLimit t id (((mooringAt t id).bind (fun m => tensorHolding t m (bits (addr - 1) 55 0))).elim r.tensor (·.1.id))
          else t
        | none => s2
      lanternEvent s3 evDma l l cause [chanIndex c, r.slot, r.prog, r.desc, cause, addr]
  | none => noteCmdBad s1 c cause

/-! ### Geometry of a MOVE (R177 to R180) -/

/-- The checks 2 to 4 of R185 on a MOVE on channel c. -/
def moveCheck (c : Chan) (d : MoveDesc) : Bool :=
  let b := blockBytes d.cfmt
  let lb := moveLane d
  let idx := chanIndex c
  let lanternChan := (chanLantern c).isSome
  d.rsv && decide (d.shift < 3) && decide (d.lane < 3) && decide (0 < d.slen) && decide (0 < d.scnt) &&
  decide (0 < d.dlen) && decide (0 < d.dcnt) && (d.ring || decide (d.dstart = 0)) &&
  (decide (d.compress = 3) || decide (d.dlen ≤ d.dstride)) && decide (d.slen * d.scnt ≤ 2 ^ 24) &&
  (if d.ring then
    decide (d.compress = 0) && decide (128 ≤ d.dcnt) && decide (d.dcnt ≤ 8191) && decide (d.dstart < d.dcnt) &&
    (if d.shift = 0 then decide (d.slen = d.dlen)
     else decide (d.dlen = 128 * lb) && decide (d.slen = phases d * d.dlen) && lanternChan && decide (idx < 2))
   else
    decide (d.shift = 0) && !d.step2 &&
    (match d.compress with
     | 0 => decide (d.slen * d.scnt = d.dlen * d.dcnt)
     | 1 => decide (d.dcnt = 1) && decide (d.dlen % 16 = 0) && decide (d.slen % b = 0) && decide (d.scaleD = 0)
     | 2 => decide (d.scnt = 1) && decide (d.dlen % b = 0) && decide (d.scaleS = 0)
     | _ => decide (d.cfmt ≠ .b4) && decide (d.scnt = 1) && decide (d.dcnt = 1) && decide (d.slen % b = 0) &&
        decide (d.dlen = 16 * d.slen / b))) &&
  (if d.compress = 0 then decide (d.scaleS = 0) && decide (d.scaleD = 0) else lanternChan && decide (2 ≤ idx))

/-- The checks 2 and 3 of R185 on a MOVE3. -/
def move3Check (d : Move3Desc) : Bool :=
  d.rsv && decide (0 < d.len) && d.c.all (fun n => decide (0 < n)) &&
  decide (d.len * d.c.getD 0 0 * d.c.getD 1 0 * d.c.getD 2 0 ≤ 2 ^ 24)

/-! ### Reading the source -/

/-- A transfer being read: the state, what has been read, the tags of carrier-peer reads, the places and bytes not
fetched, a cause and the failing address. -/
structure Reading where
  s     : State
  job   : DmaJob
  tags  : List Nat
  lost  : List (Nat × Nat)
  cause : Nat
  addr  : Nat

/-- Read one part of the source (R178 has passed); after an error no further part is fetched (R187). -/
def readPart (c : Chan) (ctx : Ctx) (r : Reading) (p : Nat × Nat × Nat) : Reading :=
  let a := p.1
  let n := p.2.1
  let key := p.2.2
  let fail (cause : Nat) : Reading := { r with lost := r.lost ++ [(key, n)], cause := cause, addr := a }
  if r.cause ≠ 0 then { r with lost := r.lost ++ [(key, n)] }
  else match checkAddr r.s ctx a n false with
  | some (.mem x) =>
    let bad := (poisonedLines r.s x n).map (fun line => (key + (line - x), key + min (line + 64 - x) n, line))
    { r with job := { r.job with data := setBytes r.job.data key (readMem r.s x n), bad := r.job.bad ++ bad } }
  | some (.peer w x) =>
    let t := peerReads r.s (lanternTower ((chanLantern c).getD 0)) ((chanMooring r.s c).getD 0xFFFF) (chanDomain c) w
      (fun y => .dmaRead c (key + (y - x)) (y % 8) (x + n - y)) (peerPieces (n + 1) x n)
    { r with s := t.1, tags := r.tags ++ t.2 }
  | some (.host idx off) =>
    (match hwinAt r.s idx with
    | some h =>
      if hostUp r.s h.owner then
        { r with job := { r.job with data := setBytes r.job.data key (hostRead r.s (h.addr + off) n), host := true } }
      else fail causeHost
    | none => fail causeAddress)
  | none => fail causeAddress

/-! ### Packing (R165 to R168) -/

/-! ### Performing a transfer -/

/-! #### Overlapping sides (R177) -/

/-! #### Writing -/

/-- Note the poisoned lines that a transfer read (R143). -/
def noteJobPoison (s : State) (c : Chan) (j : DmaJob) (used : Nat) : State :=
  let ps := (j.bad.filter (fun r => decide (r.2.2 < noLine) && (decide (r.1 < used) || decide (scalePlace ≤ r.1)))).map (·.2.2)
  ps.foldl (fun s p => notePoisonLine s (chanMooring s c) ((chanLantern c).getD 0) p) s

/-- The failing address of a transfer that its data make bad (R187): the poisoned line, the byte past the limit of the
stream, the place where the stream is malformed, the dropped write. -/
def failAddr (s : State) (ctx : Ctx) (j : DmaJob) (o : DmaOut) (pieces : List (Nat × List Byte)) (cause : Nat) : Nat :=
  if cause = causePoison then ((j.bad.head?).map (·.2.2)).getD 0
  else if cause = causePoisonWrite then ((pieces.find? (pieceDropped s ctx)).map (·.1)).getD 0
  else match j.desc with
    | .move d => if cause = causeOverLimit then d.dst + d.dlen else if cause = causeMalformed then d.src + o.used else 0
    | _ => 0

/-- Perform a transfer: its writes, or, when it is bad, the pieces that R187 leaves open; forced is a cause met outside
(HOST, PEER) with its address, lost what of the source was not fetched. -/
def performJob (s : State) (c : Chan) (priv : Bool) (j0 : DmaJob) (lost : List (Nat × Nat)) (forced : Nat × Nat) : Writing :=
  let ctx := chanCtx c priv
  let j := lackParts j0 lost
  let v := overlapPieces s ctx j (dmaOut s c j)
  let fetched := v.2.used - sumNat (lost.map (·.2))
  let s1 := noteJobPoison (bumpChan v.1 c 11 fetched) c j v.2.used
  let pieces := joinPieces ((v.2.pieces.filter (fun p => !p.2.1.isEmpty)).map (fun p => (p.1, p.2.1)))
  let cause :=
    if forced.1 ≠ 0 then forced.1
    else if v.2.cause ≠ 0 then v.2.cause
    else if pieces.any (pieceDropped s1 ctx) then causePoisonWrite
    else 0
  let addr := if forced.1 ≠ 0 then forced.2 else failAddr s1 ctx j v.2 pieces cause
  let w := if cause = 0 then pieces.foldl (writePiece c ctx) ⟨s1, [], 0, 0, 0⟩
    else writeSome c ctx ⟨s1, [], 0, 0, 0⟩ v.2.pieces
  let packs := match j.desc with
    | .move d => decide (d.compress = 1) || decide (d.compress = 3)
    | _ => false
  let s2 := bumpChan w.s c 12 w.count
  { w with
    s := if packs then bumpChan (bumpChan s2 c 15 fetched) c 16 w.count else s2
    cause := if cause ≠ 0 then cause else w.cause
    addr := if cause ≠ 0 then addr else w.addr }

/-! ### Flights -/

/-- The report of a flight. -/
def flightRef (f : DmaFlight) : DescRef :=
  ⟨f.prog, f.slot, f.priv, f.desc, (match f.job with
    | some j => (match j.desc with
      | .move d => d.tensor
      | _ => 0)
    | none => 0)⟩

/-- A flight is bad: it is reported and retires at once; while writes that it sent are not acknowledged, it stays for the
fence of R183 (R186, R187). -/
def badFlight (s : State) (c : Chan) (f : DmaFlight) (tags : List Nat) (cause addr : Nat) : State :=
  let s1 := if tags.isEmpty then s
    else modChan s c (fun x => { x with flights := x.flights ++ [{ f with tags := tags, job := none, bad := true }] })
  dmaRetire (dmaBad s1 c (flightRef f) cause addr) c

/-- A transfer is performed: bad, it is reported and retires; else it stays in flight until its writes have been
performed. -/
def performFlight (s : State) (c : Chan) (f : DmaFlight) (j : DmaJob) (lost : List (Nat × Nat)) (forced : Nat × Nat) : State :=
  let w := performJob s c f.priv j lost forced
  if w.cause = 0 then
    modChan w.s c (fun x => { x with flights := x.flights ++ [{ f with tags := w.tags, job := none }] })
  else badFlight w.s c f w.tags w.cause w.addr

/-- Take the first flight that p holds of out of a channel. -/
def takeFlight (s : State) (c : Chan) (p : DmaFlight → Bool) : Option DmaFlight × State :=
  match (chanAt s c).flights.find? p with
  | none => (none, s)
  | some f => (some f, modChan s c (fun x => { x with flights := x.flights.erase f }))

/-- Put a flight back where it stood, changed. -/
def putFlight (s : State) (c : Chan) (old new : DmaFlight) : State :=
  modChan s c (fun x => { x with flights := x.flights.map (fun f => if f = old then new else f) })

/-- The module address that a carrier-peer request of a channel reaches. -/
def reqAddr (f : DmaFlight) (r : PeerReq) : Nat :=
  match r.who with
  | .dmaWrite _ a => a
  | .dmaRead _ key _ _ => ((f.job.map (fun j => sourceOf (dmaReads j.desc) key)).getD 0)
  | _ => 0

/-- A program of the Keeper has retired (R171, R187, R191): the copy that it was ends, with its bad descriptors in
DETAIL. -/
def settleCopy (s : State) (c : Chan) : State :=
  match c with
  | .lantern _ _ => s
  | .system n =>
    let x := chanAt s c
    if !(x.queue.isEmpty && x.flights.isEmpty) then s
    else match s.keeper.ops.find? (fun o => match o.kind with
        | .copy k _ _ => k == n
        | _ => false) with
      | none => s
      | some o =>
        finishOp s o.func o.tag (if x.cmdBad = 0 then stSuccess else stFault)
          (64 * b2n (decide (0 < x.cmdBad)) + 16 * b2n x.cmdAddr) x.cmdBad

/-- A carrier-peer answer for a channel (R265, R281): data at a place of the stream, or the end of a write; status 0 is
success, anything else makes the descriptor bad with the cause that R265 gives. -/
def dmaAnswer (s : State) (c : Chan) (r : PeerReq) (data : List Byte) (status : Nat) : State :=
  match (chanAt s c).flights.find? (fun f => f.tags.contains r.tag) with
  | none => s
  | some f =>
    let s1 := modChan s c (fun x => { x with flights := x.flights.erase f })
    let rest := f.tags.erase r.tag
    let g : DmaFlight := { f with tags := rest }
    settleCopy (
      if f.bad then (if rest.isEmpty then s1 else putFlight s c f g)
      else if status ≠ 0 then
        let cause := if status = 2 then causePoison else causePeer
        (match f.job with
        | some j => performFlight s1 c g j ((reqPlace r).toList ++ awaited s1 rest) (cause, reqAddr f r)
        | none => badFlight s1 c f rest cause (reqAddr f r))
      else
        let job := match f.job, r.who with
          | some j, .dmaRead _ key skip left => some { j with data := setBytes j.data key ((data.drop skip).take left) }
          | j, _ => j
        (match job with
        | some j => if rest.isEmpty && !j.host then performFlight s1 c { g with job := job } j [] (0, 0) else putFlight s c f { g with job := job }
        | none => putFlight s c f g)) c

/-! ### Issue -/

/-- The descriptor at hand has issued: the next one, or the next program (R186). -/
def nextDesc (x : DmaChan) : DmaChan :=
  match x.queue with
  | [] => x
  | p :: rest =>
    if x.pc + 1 < p.descs.length then { x with pc := x.pc + 1, waiting := false, signalling := false }
    else { clearChanRegs x with queue := rest, serial := x.serial + 1 }

/-- Advance past the descriptor at hand. -/
def stepChan (s : State) (c : Chan) : State := modChan s c nextDesc

/-- The program and the descriptor that a channel would issue. -/
def chanHead (x : DmaChan) : Option (DmaProg × DmaDesc) :=
  match x.queue with
  | [] => none
  | p :: _ => (p.descs[x.pc]?).map (fun d => (p, d))

/-- Issue the descriptor at hand if it is one that want names and the channel is not held; tenant work runs only in NORMAL
mode (R172). -/
def issueDma (s : State) (c : Chan) (want : DmaDesc → Bool) (act : State → DmaProg → DmaDesc → State) : State :=
  match chanHead (chanAt s c) with
  | none => s
  | some (p, d) =>
    if chanLive s c && (p.priv || decide ((chanAt s c).mode = .normal)) && want d && !(chanAt s c).waiting && !(chanAt s c).signalling then act s p d else s

/-- The report of the descriptor at hand. -/
def headRef (x : DmaChan) (p : DmaProg) (tensor : Nat) : DescRef := ⟨p.index, p.slot, p.priv, x.pc, tensor⟩

/-- The descriptor at hand is bad at issue: it performs nothing and retires (R185 to R188). -/
def badAtIssue (s : State) (c : Chan) (p : DmaProg) (tensor cause addr : Nat) : State :=
  stepChan (dmaRetire (dmaBad s c (headRef (chanAt s c) p tensor) cause addr) c) c

/-- Base register k of a channel. -/
def baseReg (x : DmaChan) (k : Nat) : Nat := x.base.getD k 0

/-- A MOVE with the channel's registers added (R175, R179, R180). -/
def absMove (x : DmaChan) (d : MoveDesc) : MoveDesc :=
  { d with
    src := d.src + baseReg x d.sreg
    dst := d.dst + baseReg x d.dreg
    scaleS := if d.compress = 1 ∨ d.compress = 3 then d.scaleS + baseReg x d.sreg else 0
    scaleD := if d.compress = 2 ∨ d.compress = 3 then d.scaleD + baseReg x d.dreg else 0
    dstart := if d.ring then (d.dstart + x.loff) % d.dcnt else 0
    idxBase := d.idxBase + x.ioff }

/-- A lossless pack into a saved tensor ends at the tensor's reservation; one that has been raised to the largest size
takes that much (R169, R180). -/
def packLimited (s : State) (c : Chan) (d : MoveDesc) : MoveDesc :=
  if d.compress ≠ 1 then d
  else match (chanMooring s c).bind (mooringAt s) with
    | none => d
    | some m =>
      match tensorHolding s m (bits d.dst 55 0) with
      | some (t, e) =>
        let room := (e - bits d.dst 55 0) / 16 * 16
        if t.save ≠ 1 then d
        else { d with dlen := min room (if m.raised.contains t.id then streamMax d.cfmt (moveBlocks d) else d.dlen) }
      | none => d

def absMove3 (x : DmaChan) (d : Move3Desc) : Move3Desc :=
  { d with src := d.src + baseReg x d.sreg, dst := d.dst + baseReg x d.dreg }

/-- Do the spans of a descriptor pass R22, with no sum of 2^64 or more (R175, R178)? -/
def spansOk (s : State) (ctx : Ctx) (d : DmaDesc) : Bool :=
  match dmaSpans d with
  | none => false
  | some l => l.all (fun p => (checkAddr s ctx p.1 p.2.1 p.2.2).isSome)

/-- The lowest byte of the span that fails. -/
def spanAddr (s : State) (ctx : Ctx) (d : DmaDesc) : Nat :=
  (((dmaSpans d).getD []).find? (fun p => (checkAddr s ctx p.1 p.2.1 p.2.2).isNone)).elim 0 (·.1)

/-- Does a host window stand on the written side? -/
def writesHost (s : State) (ctx : Ctx) (d : DmaDesc) : Bool :=
  ((dmaSpans d).getD []).any (fun p => p.2.2 && (match checkAddr s ctx p.1 p.2.1 true with
    | some (.host _ _) => true
    | _ => false))

/-- Start a transfer that passed its checks (R178, R186): the source is read; when no answer is awaited and no
host window takes part, it is performed. -/
def startTransfer (s : State) (c : Chan) (p : DmaProg) (d : DmaDesc) : State :=
  let x := chanAt s c
  let ctx := chanCtx c p.priv
  let r := (dmaReads d).foldl (readPart c ctx) ⟨s, ⟨d, [], [], writesHost s ctx d⟩, [], [], 0, 0⟩
  let f : DmaFlight := ⟨x.serial, p.index, p.slot, p.priv, x.pc, r.tags, some r.job, false⟩
  if r.cause ≠ 0 then stepChan (performFlight r.s c f r.job (r.lost ++ awaited r.s r.tags) (r.cause, r.addr)) c
  else if r.tags.isEmpty && !r.job.host then stepChan (performFlight r.s c f r.job [] (0, 0)) c
  else stepChan (modChan r.s c (fun x => { x with flights := x.flights ++ [f] })) c

/-- MOVE (R176 to R180, R185); a descriptor of an unlisted opcode is bad with cause FIELD (R174). -/
def execMove (c : Chan) (s : State) : Host.Outcome State Fault Refusal :=
  .next (settleCopy (issueDma s c (fun d => match d with
      | .move _ => true
      | .other _ => true
      | _ => false) (fun s p d =>
    match d with
    | .move m =>
      let a : DmaDesc := .move (packLimited s c (absMove (chanAt s c) m))
      if !moveCheck c m then badAtIssue s c p m.tensor causeField 0
      else if !spansOk s (chanCtx c p.priv) a then badAtIssue s c p m.tensor causeAddress (spanAddr s (chanCtx c p.priv) a)
      else startTransfer s c p a
    | _ => badAtIssue s c p 0 causeField 0)) c)

/-- MOVE3 (R174, R184): bad with cause MODE in NORMAL mode. -/
def execMove3 (c : Chan) (s : State) : Host.Outcome State Fault Refusal :=
  .next (issueDma s c (fun d => match d with
      | .move3 _ => true
      | _ => false) (fun s p d =>
    match d with
    | .move3 m =>
      let a : DmaDesc := .move3 (absMove3 (chanAt s c) m)
      if (chanAt s c).mode = .normal then badAtIssue s c p 0 causeMode 0
      else if !move3Check m then badAtIssue s c p 0 causeField 0
      else if !spansOk s (chanCtx c p.priv) a then badAtIssue s c p 0 causeAddress (spanAddr s (chanCtx c p.priv) a)
      else startTransfer s c p a
    | _ => s))

/-! ### LOOP (R181) -/

/-- A loop's advances added t times. -/
def advanceChan (x : DmaChan) (adv : List Nat) (ladv : Nat) (wadv : Int) (iadv t : Nat) : DmaChan :=
  { x with
    base := (List.range 4).map (fun k => baseReg x k + t * adv.getD k 0)
    loff := (x.loff + t * ladv) % 2 ^ 13
    woff := sext 32 (wrapNat 32 (x.woff + t * wadv))
    ioff := (x.ioff + t * iadv) % 2 ^ 64 }

/-- A loop's advances taken back t times. -/
def restoreChan (x : DmaChan) (adv : List Nat) (ladv : Nat) (wadv : Int) (iadv t : Nat) : DmaChan :=
  { x with
    base := (List.range 4).map (fun k => baseReg x k - t * adv.getD k 0)
    loff := wrapNat 13 ((x.loff : Int) - (t * ladv : Nat))
    woff := sext 32 (wrapNat 32 (x.woff - t * wadv))
    ioff := wrapNat 64 ((x.ioff : Int) - (t * iadv : Nat)) }

/-- LOOP: with repeats left it adds its advances and jumps, else it restores the registers and the program
goes on; its repeat count restarts at the next entry. -/
def execLoop (c : Chan) (s : State) : Host.Outcome State Fault Refusal :=
  .next (issueDma s c (fun d => match d with
      | .loop .. => true
      | _ => false) (fun s p d =>
    match d with
    | .loop target count adv ladv wadv iadv rsv =>
      let x := chanAt s c
      if !rsv ∨ count = 0 ∨ x.pc ≤ target then badAtIssue s c p 0 causeField 0
      else
        let done := tget 0 x.reps x.pc
        if done + 1 < count then
          dmaRetire (modChan s c (fun x => { advanceChan x adv ladv wadv iadv 1 with
            reps := tput 0 x.reps x.pc (done + 1), pc := target })) c
        else
          stepChan (dmaRetire (modChan s c (fun x => { restoreChan x adv ladv wadv iadv done with
            reps := tput 0 x.reps x.pc 0 })) c) c
    | _ => s))

/-! ### WAIT (R182) -/

/-- The count that a WAIT looks at; a system channel has no lantern and so no counter. -/
def waitCount (s : State) (c : Chan) (passes : Bool) (cnt : Nat) : Nat :=
  match chanLantern c with
  | some l => if passes then (lanternAt s l).passesRead else (lanternAt s l).events.getD cnt 0
  | none => 0

def waitReady (s : State) (c : Chan) (passes : Bool) (cnt : Nat) (value : Int) : Bool :=
  decide (value + (chanAt s c).woff ≤ (waitCount s c passes cnt : Int))

/-- WAIT: satisfied at once it retires, else the channel is held. -/
def execDmaWait (c : Chan) (s : State) : Host.Outcome State Fault Refusal :=
  .next (issueDma s c (fun d => match d with
      | .wait .. => true
      | _ => false) (fun s p d =>
    match d with
    | .wait passes cnt value rsv =>
      if !rsv then badAtIssue s c p 0 causeField 0
      else if waitReady s c passes cnt value then stepChan (dmaRetire s c) c
      else modChan s c (fun x => { x with waiting := true })
    | _ => s))

/-- DMA_WAIT_SATISFIED: the count has reached the value, and the held WAIT retires. -/
def execDmaWaitSatisfied (c : Chan) (s : State) : Host.Outcome State Fault Refusal :=
  .next (
    if !((chanAt s c).waiting && chanLive s c) then s
    else match chanHead (chanAt s c) with
      | some (_, .wait passes cnt value _) =>
        if waitReady s c passes cnt value then stepChan (dmaRetire s c) c else s
      | _ => s)

/-! ### SIGNAL (R183) -/

/-- The lantern that a SIGNAL names: one of the issuing work's mooring (R183, R185). -/
def signalTarget (s : State) (c : Chan) (priv : Bool) (lantern : Nat) : Option Nat :=
  match chanLantern c with
  | none => if lantern < 192 ∧ enabledLantern s lantern then some lantern else none
  | some l =>
    if lantern = 0xFF ∨ lantern = l then some l
    else if lantern < 192 ∧ enabledLantern s lantern ∧
        (priv ∨ ((lanternMooring s l).isSome ∧ lanternMooring s lantern = lanternMooring s l)) then some lantern
    else none

/-- SIGNAL: it waits for the writes of every earlier descriptor of its program. -/
def execSignal (c : Chan) (s : State) : Host.Outcome State Fault Refusal :=
  .next (issueDma s c (fun d => match d with
      | .signal .. => true
      | _ => false) (fun s p d =>
    match d with
    | .signal cnt inc lantern rsv =>
      if !rsv ∨ 11 < cnt ∨ inc = 0 ∨ (signalTarget s c p.priv lantern).isNone then badAtIssue s c p 0 causeField 0
      else modChan s c (fun x => { x with signalling := true })
    | _ => s))

/-- Has every write of the running program's earlier descriptors been performed (R183)? -/
def writesDone (x : DmaChan) : Bool :=
  x.flights.all (fun f => decide (f.serial ≠ x.serial) || (f.tags.isEmpty && f.job.isNone))

/-- The SIGNAL at hand increments when its fence has passed: INC is added, held at the counter's maximum. -/
def signalStep (s : State) (c : Chan) : State :=
  let x := chanAt s c
  if !(x.signalling && chanLive s c && writesDone x) then s
  else match chanHead x with
    | some (p, .signal cnt inc lantern _) =>
      (match signalTarget s c p.priv lantern with
      | none => badAtIssue s c p 0 causeField 0
      | some l =>
        let v := (lanternAt s l).events.getD cnt 0 + inc
        let s1 := modLantern s l (fun y => { y with events := setAt y.events cnt (min v (2 ^ 32 - 1)) })
        let s2 := if 2 ^ 32 ≤ v then dmaBad s1 c (headRef x p 0) causeCounter 0 else s1
        stepChan (dmaRetire s2 c) c)
    | _ => s

/-- SIGNAL_INCREMENT (R183). -/
def execSignalIncrement (c : Chan) (s : State) : Host.Outcome State Fault Refusal := .next (signalStep s c)

/-! ### Retirement and stops (R186, R189) -/

/-- The oldest MOVE or MOVE3 of a channel with no answer outstanding retires: it has performed its last write, or, over a
host window, performs it now. -/
def retireFlight (s : State) (c : Chan) : State :=
  match takeFlight s c (fun f => f.tags.isEmpty && !f.bad) with
  | (some f, s1) =>
    (match f.job with
    | none => dmaRetire s1 c
    | some j =>
      let w := performJob s1 c f.priv j [] (0, 0)
      if w.cause ≠ 0 then badFlight w.s c f w.tags w.cause w.addr
      else if w.tags ≠ [] then
        modChan w.s c (fun x => { x with flights := { f with tags := w.tags, job := none } :: x.flights })
      else dmaRetire w.s c)
  | (none, _) => s

/-- DMA_DESCRIPTOR_RETIRE (R186). -/
def execDmaDescriptorRetire (c : Chan) (s : State) : Host.Outcome State Fault Refusal :=
  .next (settleCopy (retireFlight s c) c)

/-- The first side of a transfer over a host window: its address. -/
def hostSide (s : State) (ctx : Ctx) (j : DmaJob) : Nat :=
  (((dmaSpans j.desc).getD []).find? (fun p => match checkAddr s ctx p.1 p.2.1 p.2.2 with
    | some (.host _ _) => true
    | _ => false)).elim 0 (·.1)

/-- A host-window access of a channel returned an error or timed out (R187, R188): the transfer over the window
goes bad with cause HOST. -/
def dmaHostError (s : State) (c : Chan) : State :=
  match takeFlight s c (fun f => match f.job with
    | some j => j.host
    | none => false) with
  | (some f, s1) =>
    (match f.job with
    | some j => settleCopy (performFlight s1 c f j (awaited s1 f.tags) (causeHost, hostSide s1 (chanCtx c f.priv) j)) c
    | none => s1)
  | (none, _) => s

/-- A stop of a channel (R189): the queued programs are discarded; a WAIT ends at once, a SIGNAL finishes. -/
def stopChannel (s : State) (c : Chan) : State :=
  let x := chanAt s c
  let s1 := bumpChan s c 14 1
  if x.signalling then
    modChan s1 c (fun y => { y with queue := (y.queue.take 1).map (fun p => { p with descs := p.descs.take (y.pc + 1) }) })
  else
    let s2 := if x.waiting then dmaRetire s1 c else s1
    modChan s2 c (fun y => { clearChanRegs y with
      queue := [], serial := y.serial + (if y.queue.isEmpty then 0 else 1) })

/-- The command whose copy a channel runs (R171). -/
def copyOn (s : State) (c : Chan) : Option (LongOp × Nat) :=
  match c with
  | .lantern _ _ => none
  | .system n => s.keeper.ops.findSome? (fun o => match o.kind with
      | .copy k start _ => if k = n then some (o, start) else none
      | _ => none)

/-- A copy's channel stops, and its command with it: it ends with a status and what had retired in DETAIL; no other report
follows (R189, R190). -/
def stopCopy (s : State) (c : Chan) (status : Nat) : State :=
  let s1 := stopChannel s c
  match copyOn s1 c with
  | none => s1
  | some (o, start) => finishOp s1 o.func o.tag status 0 ((chanAt s1 c).counters.getD 0 0 - start)

/-- CHANNEL_STOP (R189, R190). -/
def execChannelStop (c : Chan) (s : State) : Host.Outcome State Fault Refusal := .next (stopCopy s c stAborted)

end Sys2Proof.Machine
end

