-- ==== Sys2Proof/Machine/Bundle.lean ====
section
/-! DEFINITION. Machine/Bundle.lean: the program bundle: its bytes decoded, and the checks made when it is
loaded, in the order of R157 (R56, R116, R121 to R123, R149 to R157, R173 to R185, R197, R204, R206, R233 to
R236, R251, R292, R293, R448). -/

namespace Sys2Proof.Machine

/-- Why a load is refused (R157): the check, the section's type and the entry; for the checks of R197, also which of
them and the entry of the role's template. -/
structure LoadErr where
  check : Nat
  sec   : Nat
  entry : Nat
  more  : List Nat
  deriving DecidableEq, Repr

/-- An error if a condition holds. -/
def errIf (b : Bool) (check sec entry : Nat) : Option LoadErr := if b then some ⟨check, sec, entry, []⟩ else none

/-- The first error among the entries of a list. -/
def firstErr {α : Type} (xs : List α) (f : Nat → α → Option LoadErr) : Option LoadErr :=
  xs.zipIdx.findSome? (fun p => f p.2 p.1)

/-- The n entries of k bytes that a section begins with. -/
def entriesOf (bs : List Byte) (k n : Nat) : List (List Byte) := (List.range n).map (fun i => (bs.drop (k * i)).take k)

/-! ### Decoding -/

/-- A section of the directory (R149, R150). -/
structure Sec where
  typ   : Nat
  count : Nat
  off   : Nat
  size  : Nat
  deriving DecidableEq, Repr

def directory (img : List Byte) : List Sec :=
  (entriesOf (img.drop 64) 24 (leAt img 6 2)).map (fun e => ⟨leAt e 0 4, leAt e 4 4, leAt e 8 8, leAt e 16 8⟩)

/-- The section of a type; an absent one is empty. -/
def secOf (img : List Byte) (t : Nat) : Nat × List Byte :=
  match (directory img).find? (fun x => x.typ == t) with
  | some x => (x.count, (img.drop x.off).take x.size)
  | none => (0, [])

/-- The images that an offset table of n entries names, each from its offset to the section's end. -/
def offsetTable (sec : Nat × List Byte) : List (List Byte) :=
  (List.range sec.1).map (fun n => sec.2.drop (leAt sec.2 (8 * n) 8))

/-- A tensor-table entry (R151). -/
def tensorOf (e : List Byte) : Tensor :=
  let w := word64 e 0
  { id := bits w 31 0, fmt := bits w 34 32, layout := bits w 35 35, rank := bits w 38 36, baxis := bits w 41 39,
    kind := bits w 45 42, save := bits w 47 46, role := bits w 50 48, sdim := bits w 53 51,
    dims := (List.range 6).map (fun k => leAt e (8 + 4 * k) 4), group := leAt e 32 2, stage := leAt e 34 4,
    rsv := decide (bits w 63 54 = 0) && decide (leNat (e.drop 38) = 0) }

/-- A lens op descriptor (R56). -/
def lensOf (e : List Byte) : LensDesc :=
  let a := word64 e 0
  let b := word64 e 1
  let c := word64 e 2
  let d := word64 e 3
  let f := word64 e 4
  { opcode := bits a 7 0,
    pair := (match bits a 9 8 with
      | 0 => .b4b4
      | 1 => .b8b4
      | 2 => .b8b8
      | _ => .b16b8),
    acc := (match bits a 11 10 with
      | 0 => .acc32
      | 1 => .acc16
      | 2 => .acc48
      | _ => .refused),
    dest := (match bits a 13 12 with
      | 0 => .bank
      | 1 => .grad
      | 2 => .gradT
      | _ => .refused),
    cross := bit a 14, newTile := bit a 15, accInit := bit a 16, endTok := bit a 17, drain := bit a 18,
    tailTrim := bit a 19, maskEn := bit a 20, slot := bits a 31 24, m := bits a 43 32, validM := bits a 55 44,
    validN := bits a 63 56, wsrc := bits b 21 0, wscale := bits b 53 32, abase := bits c 21 0,
    ringLines := bits c 44 32, start := bits c 57 45, ascale := bits d 21 0, maskTbl := bits d 53 32,
    accBase := bits f 11 0, tensor := bits f 63 32,
    rsv := decide (bits a 23 21 = 0) && decide (bits b 31 22 = 0) && decide (bits b 63 54 = 0) &&
      decide (bits c 31 22 = 0) && decide (bits c 63 58 = 0) && decide (bits d 31 22 = 0) &&
      decide (bits d 63 54 = 0) && decide (bits f 31 12 = 0) && decide (leNat (e.drop 40) = 0) }

/-- A chain instruction (R122). -/
def insOf (w : Nat) : VIns :=
  { op := bits w 7 0,
    f := ⟨bits w 13 8, bits w 19 14, bits w 25 20, bits w 31 26, bits w 34 32, BitVec.ofNat 24 (bits w 63 40)⟩,
    rsv := decide (bits w 39 35 = 0) }

/-- n function tables one after the other (R127), with whether every one lies in the image and is in range. -/
def tablesOf : Nat → List Byte → List FTable × Bool
  | 0, _ => ([], true)
  | n + 1, bs =>
    let segs := leAt bs 2 2
    let t : FTable := ⟨leAt bs 0 1, leAt bs 1 1, sext 32 (leAt bs 4 4), sext 16 (leAt bs 8 2),
      (List.range segs).map (fun j => (sext 32 (leAt bs (16 + 8 * j) 4), sext 32 (leAt bs (20 + 8 * j) 4)))⟩
    let r := tablesOf n (bs.drop (16 + 8 * segs))
    (t :: r.1, r.2 && decide (16 + 8 * segs ≤ bs.length) && decide (leAt bs 10 6 = 0) && decide (t.fw ≤ 31) &&
      decide (t.sh ≤ 24) && decide (1 ≤ segs) && decide (segs ≤ 2040))

/-- Body instructions that a chain may hold, by its context (R139). The chains of a bundle are unprivileged; those of the
firmware come with the firmware itself. -/
def chainLimit (priv : Bool) : Nat := if priv then 1024 else 256

/-- A chain program image of a bundle (R121), and whether its header and tables are sound. -/
def chainOf (bs : List Byte) : Chain × Bool :=
  let len := leAt bs 0 2
  let tail := leAt bs 2 1
  let ntab := leAt bs 3 1
  let ins := (List.range (len + tail)).map (fun k => insOf (leAt bs (16 + 8 * k) 8))
  let tabs := tablesOf ntab (bs.drop (leAt bs 8 8))
  let total := sumNat (tabs.1.map (fun t => 16 + 8 * t.segs.length))
  (⟨ins.take len, ins.drop len, tabs.1, BitVec.ofNat 16 (leAt bs 4 2), bit (leAt bs 6 1) 0⟩,
    decide (16 + 8 * (len + tail) ≤ bs.length) && decide (leAt bs 6 1 < 2) && decide (leAt bs 7 1 = 0) &&
    decide (1 ≤ len) && decide (len ≤ chainLimit false) && decide (tail ≤ 16) && decide (ntab ≤ 4) && tabs.2 &&
    decide (total ≤ 16384))

/-- A chain binding (R116). -/
def bindingOf (e : List Byte) : Binding :=
  let a := word64 e 0
  let c := word64 e 2
  let d := word64 e 3
  { chain := bits a 15 0, source := bits a 17 16, rows := bits a 29 18, tensor := bits a 63 32,
    idxBase := word64 e 1, rowStride := bits c 31 0, laneStride := bits c 63 32, mrowBase := bits d 10 0,
    mrowStep := bits d 21 11, validN := bits d 39 32,
    abase := (List.range 8).map (fun k => word64 e (4 + 2 * k)),
    astep := (List.range 8).map (fun k => sext 64 (word64 e (5 + 2 * k))),
    rsv := decide (bits a 31 30 = 0) && decide (bits d 31 22 = 0) && decide (bits d 63 40 = 0) }

/-- A DMA descriptor (R174, R176, R181 to R184). -/
def dmaDescOf (e : List Byte) : DmaDesc :=
  let w (k : Nat) : Nat := word64 e k
  let a := w 0
  match bits a 7 0 with
  | 1 =>
    let c := bits a 15 14
    .move {
      ring := bit a 8, shift := bits a 10 9, lane := bits a 12 11, step2 := bit a 13, compress := c,
      cfmt := fmtOf (bits a 17 16), sreg := bits a 19 18, dreg := bits a 21 20, tensor := bits a 63 32,
      src := w 1, dst := w 2, slen := bits (w 3) 23 0, scnt := bits (w 3) 47 24, dstart := bits (w 3) 60 48,
      dlen := bits (w 4) 23 0, dcnt := bits (w 4) 47 24,
      sstride := if c = 3 then 0 else bits (w 5) 31 0, dstride := if c = 3 then 0 else bits (w 5) 63 32,
      idxBase := if c = 3 then w 5 else 0, scaleS := w 6, scaleD := w 7,
      rsv := decide (bits a 31 22 = 0) && decide (bits (w 3) 63 61 = 0) && decide (bits (w 4) 63 48 = 0) }
  | 2 => .loop (bits a 17 8) (bits a 41 18) [w 1, w 2, w 3, w 4] (bits (w 5) 12 0) (sext 32 (bits (w 5) 63 32)) (w 6)
      (decide (bits a 63 42 = 0) && decide (bits (w 5) 31 13 = 0) && decide (w 7 = 0))
  | 3 => .wait (bit a 8) (bits a 12 9) (sext 32 (bits a 63 32))
      (decide (bits a 31 13 = 0) && decide (leNat (e.drop 8) = 0))
  | 4 => .signal (bits a 11 8) (bits a 19 12) (bits a 27 20)
      (decide (bits a 63 28 = 0) && decide (leNat (e.drop 8) = 0))
  | 5 => .move3 {
      sreg := bits a 19 18, dreg := bits a 21 20, len := bits a 55 32, src := w 1, dst := w 2,
      c := [bits (w 3) 15 0, bits (w 3) 31 16, bits (w 3) 47 32],
      sstep := [4, 5, 6].map (fun k => sext 32 (bits (w k) 31 0)),
      dstep := [4, 5, 6].map (fun k => sext 32 (bits (w k) 63 32)),
      rsv := decide (bits a 17 8 = 0) && decide (bits a 31 22 = 0) && decide (bits a 63 56 = 0) &&
        decide (bits (w 3) 63 48 = 0) && decide (w 7 = 0) }
  | op => .other op

/-- A DMA program (R173), and whether its header is valid. -/
def dmaProgOf (bs : List Byte) : List DmaDesc × Bool :=
  let n := leAt bs 0 2
  ((entriesOf (bs.drop 16) 64 n).map dmaDescOf,
    decide (1 ≤ n) && decide (n ≤ 1024) && decide (leNat ((bs.take 16).drop 2) = 0) && decide (16 + 64 * n ≤ bs.length))

/-- A schedule entry (R153), and whether its reserved field is zero. -/
def schedOf (w : Nat) : SchedEntry × Bool :=
  (⟨bits w 3 0, bits w 7 4, bits w 15 8, bits w 19 16, bits w 63 32, false⟩, decide (bits w 31 20 = 0))

/-- n role records one after the other (R153). The rule bounds the placed length alone; a record whose entry array holds
more than 12,288 entries, which no placed template of 4,096 needs, is refused as it is read (DESIGN CHOICE,
notes/assumptions/37.md). -/
def rolesOf : Nat → List Byte → List Role
  | 0, _ => []
  | n + 1, bs =>
    let g (k : Nat) : Nat := leAt bs (4 * k) 4
    let len := g 4 + g 3 + g 5
    let es := (List.range (min len 12289)).map (fun k => schedOf (leAt bs (24 + 8 * k) 8))
    ⟨g 0, g 1, g 2, g 3, g 4, g 5, es.map (·.1),
      es.all (·.2) && decide (len ≤ 12288) && decide (24 + 8 * len ≤ bs.length)⟩ ::
      rolesOf n (bs.drop (24 + 8 * len))

/-- A collective descriptor (R292). -/
def collOf (e : List Byte) : CollDesc :=
  let a := word64 e 0
  let d := word64 e 3
  let f := word64 e 4
  { op := bits a 7 0, role := bits a 10 8, dfmt := bits a 13 11, req := bit a 14, vers := bit a 15,
    peer := sext 16 (bits a 31 16), tensor := bits a 63 32, src := word64 e 1, dst := word64 e 2,
    count := bits d 39 0, unit := bits d 63 40, reqctl := BitVec.ofNat 24 (bits f 23 0), paired := bits f 39 24,
    idxBase := word64 e 5, lens := word64 e 6, cap := bits (word64 e 7) 39 0,
    rsv := decide (bits f 63 40 = 0) && decide (bits (word64 e 7) 63 40 = 0) }

/-- A hint (R156). -/
def hintOf (e : List Byte) : Hint := ⟨leAt e 0 2, leAt e 4 4, leAt e 8 8⟩

/-! #### Section 0x08 (R206, R233 to R235) -/

/-- The records of section 0x08 by kind. -/
structure Sec8 where
  updates : List UpdDesc
  groups  : List Group
  curves  : List Curve
  ladders : List LadderRec

def updOf (e : List Byte) : UpdDesc :=
  { cls := leAt e 2 1, flags := leAt e 3 1, group := leAt e 4 2, chain := leAt e 6 2, param := leAt e 8 4,
    grad := leAt e 12 4, states := (List.range 4).map (fun k => leAt e (16 + 4 * k) 4), touch := leAt e 32 4,
    stats := leAt e 36 4, rsv := decide (leAt e 3 1 < 16) && decide (leNat ((e.drop 40).take 24) = 0) }

def groupOf (e : List Byte) : Group :=
  { group := leAt e 2 2, lr := leAt e 4 4, wd := leAt e 8 4, b1 := leAt e 12 4, b2 := leAt e 16 4,
    epsx := sext 16 (leAt e 20 2), period := leAt e 22 2, damp := sext 16 (leAt e 24 2), pstart := leAt e 28 6,
    rsv := decide (leAt e 26 2 = 0) && decide (leNat ((e.drop 34).take 30) = 0) }

def curveOf (e : List Byte) : Curve :=
  let n := leAt e 2 2
  { curve := leAt e 4 4, exp := sext 16 (leAt e 8 2), mode := leAt e 10 1,
    pts := (List.range n).map (fun k => (leAt e (64 + 16 * k) 8, sext 64 (leAt e (72 + 16 * k) 8))),
    rsv := decide (leNat ((e.take 64).drop 11) = 0) }

def ladderOf (e : List Byte) : LadderRec :=
  { rung0 := leAt e 2 1, rmin := leAt e 3 1, rmax := leAt e 4 1, tensor := leAt e 8 4, role := leAt e 12 4,
    first8 := leAt e 16 2, count8 := leAt e 18 2, first16 := leAt e 20 2, count16 := leAt e 22 2,
    rsv := decide (leAt e 5 3 = 0) && decide (leNat ((e.take 64).drop 24) = 0) }

/-- Bytes of a record of section 0x08. -/
def recordSize (bs : List Byte) : Nat := if leAt bs 0 2 = 3 then (64 + 16 * leAt bs 2 2 + 63) / 64 * 64 else 64

/-- The section from each of its records on. -/
def recordsOf : Nat → List Byte → List (List Byte)
  | 0, _ => []
  | n + 1, bs => bs :: recordsOf n (bs.drop (recordSize bs))

/-- Is a record of a listed kind, and whole in the section? -/
def recordSound (bs : List Byte) : Bool := [1, 2, 3, 16].contains (leAt bs 0 2) && decide (recordSize bs ≤ bs.length)

/-- The records of section 0x08, each kind in order. -/
def sec8Of (n : Nat) (bs : List Byte) : Sec8 :=
  let kind (k : Nat) : List (List Byte) := (recordsOf n bs).filter (fun r => leAt r 0 2 == k)
  ⟨(kind 1).map updOf, (kind 2).map groupOf, (kind 3).map curveOf, (kind 16).map ladderOf⟩

/-- A bundle as its bytes decode. -/
def parseBundle (img : List Byte) : Parsed :=
  let e (t k : Nat) : List (List Byte) := let x := secOf img t; entriesOf x.2 k x.1
  let s8 := let x := secOf img 8; sec8Of x.1 x.2
  let roles := secOf img 6
  { lstart := leAt img 16 1, raise := leAt img 20 4, tensors := (e 1 64).map tensorOf, lens := (e 2 64).map lensOf,
    chains := (offsetTable (secOf img 3)).map (fun b => (chainOf b).1), bindings := (e 4 160).map bindingOf,
    dma := (offsetTable (secOf img 5)).map (fun b => (dmaProgOf b).1), roles := rolesOf roles.1 roles.2,
    colls := (e 7 64).map collOf, updates := s8.updates, groups := s8.groups, curves := s8.curves,
    ladders := s8.ladders, hints := (e 9 16).map hintOf,
    signer := leNat ((secOf img 0x7F).2.drop 8 |>.take 64) }

/-! ### Checks 1 and 2: signature, header, directory (R149, R150, R448) -/

def checkSignature (img : List Byte) : Option LoadErr :=
  let off := img.length - 160
  let sg := img.drop off
  errIf (!(decide (64 + 160 ≤ img.length) && decide (leAt sg 0 2 = 1) && decide (leNat ((sg.drop 2).take 6) = 0) &&
    decide (leNat (sg.drop 136) = 0) &&
    Config.sm2Verify ((sg.drop 8).take 64) (Config.sm3 (img.take off)) ((sg.drop 72).take 64))) 1 0x7F 0

def sectionTypes : List Nat := [1, 2, 3, 4, 5, 6, 7, 8, 9, 0x7F]

/-- Bytes of one entry of a section, 0 where entries vary. -/
def entrySize (t : Nat) : Nat :=
  if t = 1 ∨ t = 2 ∨ t = 7 then 64 else if t = 4 then 160 else if t = 9 then 16 else if t = 3 ∨ t = 5 then 8 else 0

/-- Do two sections overlap? -/
def secsMeet (a b : Sec) : Bool := decide (a.off < b.off + b.size) && decide (b.off < a.off + a.size)

def checkHeader (img : List Byte) : Option LoadErr :=
  let n := leAt img 6 2
  let dir := directory img
  if leAt img 0 4 ≠ 0x31424C41 ∨ leAt img 4 2 ≠ 1 ∨ n = 0 ∨ 32 < n ∨ leAt img 8 8 ≠ img.length ∨ 2 ^ 30 < img.length ∨
      leAt img 17 3 ≠ 0 ∨ leNat ((img.take 64).drop 24) ≠ 0 ∨ img.length < 64 + 24 * n then some ⟨2, 0, 0, []⟩
  else
    match firstErr dir (fun i x => errIf (
      !sectionTypes.contains x.typ || (dir.take i).any (fun y => y.typ == x.typ || secsMeet x y) ||
      decide (x.off < 64 + 24 * n) || decide (img.length < x.off + x.size) ||
      decide (x.size < x.count * entrySize x.typ) ||
      (decide (x.typ = 0x7F) && (decide (x.size ≠ 160) || decide (x.off + 160 ≠ img.length)))) 2 x.typ i) with
    | some e => some e
    | none => ([1, 6, 0x7F].find? (fun t => !(dir.any (fun x => x.typ == t)))).map (fun t => ⟨2, t, 0, []⟩)

/-! ### Check 3: tensors (R52, R151, R159, R180) -/

/-- Used dimensions of a tensor. -/
def dimsOf (t : Tensor) : List Nat := t.dims.take t.rank

def tensorOk (t : Tensor) : Bool :=
  let d := dimsOf t
  let fmt : Fmt := fmtOf t.fmt
  t.rsv && decide (t.id ≠ 0xFFFFFFFF) && decide (t.fmt ≤ 5) && decide (1 ≤ t.rank) && decide (t.rank ≤ 6) &&
  decide (t.kind ≤ 10) && decide (t.role ≤ 5) && decide (t.save ≤ 2) && decide (t.baxis < t.rank) &&
  decide (t.sdim < t.rank) && d.all (fun n => decide (0 < n)) && (t.dims.drop t.rank).all (· == 0) &&
  (decide (t.fmt < 4) || (decide (t.baxis = 0) && decide (t.save = 0) && decide (t.layout = 0))) &&
  (decide (t.save = 0) || decide (t.kind = 6)) &&
  (decide (t.save ≠ 2) || (decide (t.baxis + 1 = t.rank) && decide (d.getD t.baxis 1 % 32 = 0))) &&
  (decide (t.layout = 0) ||
    ((decide (fmt = .b4) || decide (fmt = .b8)) && decide (t.rank = 2) && decide (t.baxis = 0) &&
     decide (d.getD 0 0 % (if fmt = .b4 then 1024 else 512) = 0) && decide (d.getD 1 0 % 128 = 0)))

def checkTensors (ts : List Tensor) : Option LoadErr :=
  firstErr ts (fun i t => errIf (!tensorOk t || (ts.take i).any (fun u => u.id == t.id)) 3 1 i)

/-- The tensor of an id, with its index. -/
def tensorIdx (ts : List Tensor) (id : Nat) : Option Nat := findIdx (fun t => t.id == id) ts

def Tensor.blank : Tensor := ⟨0xFFFFFFFF, 5, 0, 1, 0, 0, 0, 0, 0, [], 0, 0, true⟩

def tensorById (ts : List Tensor) (id : Nat) : Option Tensor := ts.find? (fun t => t.id == id)

/-- Blocks of a block-format array of a shape (R24, R28). -/
def blockCount (dims : List Nat) (axis : Nat) : Nat :=
  prodNat (dims.zipIdx.map (fun p => if p.2 = axis then ceilDiv p.1 32 else p.1))

/-- Bytes of the mantissa array, and of the scale array, of a tensor of a shape (R27, R28, R151). -/
def arrayBytes (t : Tensor) (dims : List Nat) : Nat × Nat :=
  if t.fmt = 4 then (16 * prodNat dims, 0)
  else if t.fmt = 5 then (prodNat dims, 0)
  else (blockCount dims t.baxis * blockBytes (fmtOf t.fmt), blockCount dims t.baxis)

/-! ### Templates (R153) -/

/-- Unit blocks that each replica of a role runs. -/
def unitBlocks (r : Role) : Nat := ceilDiv r.units (max r.replicas 1)

/-- A role's entries as a replica meets them, at most k unit blocks, up to the first END. -/
def templateOf (r : Role) (k : Nat) : List SchedEntry :=
  let u := (r.entries.drop r.pre).take r.unitLen
  let es := r.entries.take r.pre ++ (List.replicate (min k (unitBlocks r)) u).flatten ++
    (r.entries.drop (r.pre + r.unitLen)).take r.post
  (takeThrough (fun e => e.kind == 0) es).1

/-- Has a bundle work of a training step: an entry with PHASE 1, 2 or 3 (R197)? -/
def trainingRole (r : Role) : Bool := r.entries.any (fun e => decide (1 ≤ e.phase) && decide (e.phase ≤ 3))

def training (p : Parsed) : Bool := p.roles.any trainingRole

/-! ### Check 4: lens descriptors (R57) -/

/-- Does a descriptor drain when its tile is released? -/
def drains (d : LensDesc) : Bool := decide (d.opcode = 2) || d.drain

/-- Indexes of descriptors that keep a tile of another format than PAIR names, or none (R57 check 7). -/
def tileErrs (p : Parsed) (r : Role) : List Nat :=
  let step (acc : Option Bool × List Nat) (e : SchedEntry) : Option Bool × List Nat :=
    match (if e.kind = 1 then p.lens[e.arg]? else none) with
    | none => acc
    | some d =>
      if d.opcode ≠ 1 then acc
      else if d.newTile then (some (pairTile8 d.pair), acc.2)
      else if acc.1 = some (pairTile8 d.pair) then acc
      else (acc.1, acc.2 ++ [e.arg])
  ((templateOf r 2).foldl step (none, [])).2

def checkLens (p : Parsed) : Option LoadErr :=
  match firstErr p.lens (fun i d => errIf (!lensChecks d) 4 2 i) with
  | some e => some e
  | none => ((p.roles.flatMap (tileErrs p)).head?).map (fun i => ⟨4, 2, i, []⟩)

/-! ### Check 5: chain programs (R123, R126, R139) -/

/-- Is an opcode listed in R126? -/
def opListed (op : Nat) : Bool :=
  decide (op ≤ 0x06) || (decide (0x10 ≤ op) && decide (op ≤ 0x1C)) || (decide (0x20 ≤ op) && decide (op ≤ 0x23)) ||
  (decide (0x28 ≤ op) && decide (op ≤ 0x2E)) || (decide (0x30 ≤ op) && decide (op ≤ 0x39)) ||
  (decide (0x40 ≤ op) && decide (op ≤ 0x43)) || op == 0x48 || op == 0x49 ||
  (decide (0x50 ≤ op) && decide (op ≤ 0x54)) || (decide (0x58 ≤ op) && decide (op ≤ 0x5A)) ||
  (decide (0x60 ≤ op) && decide (op ≤ 0x63)) || (decide (0x68 ≤ op) && decide (op ≤ 0x6D))

/-- The bits of IMM that an instruction does not use are zero, and its value is in range (R123, R126, R129,
R131, R133 to R135). -/
def immOk (op n ntab : Nat) : Bool :=
  if op = 0x02 ∨ op = 0x1B ∨ op = 0x1C then true
  else if op = 0x03 ∨ op = 0x04 ∨ op = 0x20 ∨ op = 0x21 then decide (n < 2 ^ 16)
  else if op = 0x06 then decide (n < 8)
  else if op = 0x15 then decide (n < 128)
  else if 0x2C ≤ op ∧ op ≤ 0x2E then decide (n < 64)
  else if op = 0x40 then decide (n < 4) && decide (n < ntab)
  else if op = 0x48 ∨ op = 0x49 then decide (0x10 ≤ n) && decide (n < 256)
  else if op = 0x50 ∨ op = 0x51 then decide (n < 2 ^ 22) && (!bit n 5 || useAssigned (bits n 21 14))
  else if 0x58 ≤ op ∧ op ≤ 0x5A then
    decide (n < 2 ^ 16) && !bit n 12 && decide (bits n 14 13 ≠ 3) && (!bit n 15 || decide (bits n 14 13 = 2))
  else if 0x60 ≤ op ∧ op ≤ 0x63 then decide (n < 2)
  else if op = 0x68 then !bit n 8
  else if op = 0x69 then true
  else if 0x6A ≤ op ∧ op ≤ 0x6D then decide (bits n 8 3 = 0)
  else decide (n = 0)

/-- Registers that an instruction reads or writes as record pairs (R126, R130). -/
def recordRegs (i : VIns) : List Nat :=
  if i.op = 0x52 ∨ i.op = 0x59 ∨ i.op = 0x5A ∨ i.op = 0x6C then [i.f.vd]
  else if i.op = 0x51 ∨ i.op = 0x53 ∨ i.op = 0x58 ∨ i.op = 0x6D then [i.f.va]
  else if i.op = 0x54 then [i.f.vd, i.f.va, i.f.vb]
  else []

/-- Mask numbers of an instruction are masks, and its mask destination is not m0. -/
def masksOk (i : VIns) : Bool :=
  (!(decide (0x30 ≤ i.op) && decide (i.op ≤ 0x39)) || (decide (1 ≤ i.f.vd) && decide (i.f.vd ≤ 7))) &&
  (!(i.op == 0x37 || i.op == 0x38 || i.op == 0x39 || i.op == 0x63) || decide (i.f.va ≤ 7)) &&
  (!(i.op == 0x37 || i.op == 0x38) || decide (i.f.vb ≤ 7))

def insOk (ntab : Nat) (i : VIns) : Bool :=
  i.rsv && opListed i.op && immOk i.op i.f.imm.toNat ntab && (recordRegs i).all (fun r => decide (r % 2 = 0)) && masksOk i

/-- Is an instruction a requantisation site of a use code? -/
def isSite (use : Nat) (i : VIns) : Bool :=
  (i.op == 0x50 || i.op == 0x51) && decide (bits i.f.imm.toNat 21 14 = use)

/-- All instructions of a chain. -/
def chainIns (c : Chan × Chain) : List VIns := c.2.body ++ c.2.tail

def insOfChain (c : Chain) : List VIns := c.body ++ c.tail

/-- Is an address field a tensor reference (R152)? -/
def isRef (v : Nat) : Bool := decide (bits v 63 61 = 2)

/-- The tensor id that an address field refers to, if it is a reference into the table. -/
def refTensor (p : Parsed) (v : Nat) : Option Nat :=
  if isRef v then (p.tensors[bits v 59 32]?).map (·.id) else none

/-- Does an address register of a binding name the output of a reduction along the data axis (R204)? -/
def reducedReg (p : Parsed) (b : Binding) (k : Nat) : Bool :=
  match refTensor p (b.abase.getD k 0) with
  | none => false
  | some id => p.colls.any (fun d => (d.op == 1 || d.op == 3) && d.role == 4 && decide (refTensor p d.dst = some id))

/-- What a register holds as far as R204 asks: a value made of results of a reduction along the data axis and constants, a
constant, or anything else. -/
inductive Origin where
  | reduced
  | constant
  | other
  deriving DecidableEq, Repr

/-- What is computed from two origins: reduced beside constants stays reduced, anything else spoils it. -/
def Origin.join : Origin → Origin → Origin
  | .other, _ => .other
  | _, .other => .other
  | .constant, x => x
  | .reduced, _ => .reduced

/-- Registers that an instruction reads as values (R126); a record is read by both registers of its pair. -/
def readRegs (i : VIns) : List Nat :=
  let f := i.f
  let op := i.op
  if [0x01, 0x03, 0x04, 0x05, 0x12, 0x13, 0x1B, 0x1C, 0x20, 0x21, 0x23, 0x2B, 0x2C, 0x2D, 0x2E, 0x36].contains op then [f.va]
  else if [0x40, 0x41, 0x42, 0x43, 0x50, 0x52, 0x60, 0x61, 0x62, 0x69, 0x6B].contains op then [f.va]
  else if [0x51, 0x53, 0x58, 0x6D].contains op then [f.va, f.va + 1]
  else if op = 0x54 then [f.va, f.va + 1, f.vb, f.vb + 1]
  else if op = 0x16 ∨ op = 0x17 ∨ op = 0x1A then [f.va, f.vb, f.vc]
  else if [0x06, 0x10, 0x11, 0x14, 0x15, 0x18, 0x19, 0x22, 0x28, 0x29, 0x2A].contains op || (decide (0x30 ≤ op) && decide (op ≤ 0x35)) then
    [f.va, f.vb]
  else []

/-- Registers that an instruction writes (R126). -/
def writeRegs (i : VIns) : List Nat :=
  let f := i.f
  let op := i.op
  if [0x00, 0x58, 0x69, 0x6B, 0x6D].contains op || (decide (0x30 ≤ op) && decide (op ≤ 0x39)) then []
  else if [0x52, 0x54, 0x59, 0x5A, 0x6C].contains op then [f.vd, f.vd + 1]
  else [f.vd]

/-- The origin of a register in a list of those known; one not in it holds something else. -/
def originOf (regs : List (Nat × Origin)) (r : Nat) : Origin := ((regs.find? (fun q => q.1 == r)).map (·.2)).getD .other

/-- The origin of what an instruction computes: a load has that of its tensor, LDI is a constant, and what reads nothing
else (a draw, a merge entry, a count of a mask) is neither. -/
def madeFrom (p : Parsed) (b : Binding) (regs : List (Nat × Origin)) (i : VIns) : Origin :=
  if i.op = 0x68 ∨ i.op = 0x6A ∨ i.op = 0x6C then (if reducedReg p b (bits i.f.imm.toNat 2 0) then .reduced else .other)
  else if i.op = 0x02 then .constant
  else if (readRegs i).isEmpty then .other
  else ((readRegs i).map (originOf regs)).foldl Origin.join .constant

/-- The origins after an instruction. Under a mask other than m0 the lanes outside it keep what the register held; an index
that RMAX or RMIN writes into VC is no value of the reduction. -/
def originsAfter (p : Parsed) (b : Binding) (regs : List (Nat × Origin)) (i : VIns) : List (Nat × Origin) :=
  let o := madeFrom p b regs i
  let new := (writeRegs i).map (fun r => (r, if i.f.mask = 0 then o else o.join (originOf regs r)))
  let index := if i.op = 0x61 ∨ i.op = 0x62 then [(i.f.vc, Origin.other)] else []
  (index ++ new) ++ regs.filter (fun q => !(writeRegs i).contains q.1)

/-- Do the sites with use code 0x03 of a run of instructions take results of a reduction, and nothing that is not (R204)? -/
def sitesReduced (p : Parsed) (b : Binding) : List (Nat × Origin) → List VIns → Bool
  | _, [] => true
  | regs, i :: is =>
    (!isSite 3 i || decide (((readRegs i).map (originOf regs)).foldl Origin.join .constant = .reduced)) &&
      sitesReduced p b (originsAfter p b regs i) is

/-- Does every site of a chain with use code 0x03 take its input from the result of a reduction along the data axis
(R204): the chain is bound, and each of its bindings, whatever its SOURCE, loads the sites' input from such a tensor; the
row that a drain delivers is none? How a site's input is followed back to a load is the model's choice (DESIGN CHOICE,
notes/assumptions/32.md). -/
def afterReduction (p : Parsed) (k : Nat) : Bool :=
  let bs := p.bindings.filter (fun b => b.chain == k)
  !bs.isEmpty && bs.all (fun b => sitesReduced p b [] (insOfChain (p.chains.getD k ⟨[], [], [], 0, false⟩)))

def checkChains (img : List Byte) (p : Parsed) : Option LoadErr :=
  let sec := secOf img 3
  firstErr (offsetTable sec) (fun i bs =>
    let c := chainOf bs
    let off := leAt sec.2 (8 * i) 8
    errIf (decide (sec.2.length ≤ off) || !c.2 || !(insOfChain c.1).all (insOk c.1.tables.length) ||
      ((insOfChain c.1).any (isSite 3) && !afterReduction p i)) 5 3 i)

/-! ### Check 6: bindings (R102, R116, R132) -/

/-- Does an instruction draw? -/
def insDraws (i : VIns) : Bool :=
  i.op == 0x48 || i.op == 0x49 || ((i.op == 0x50 || i.op == 0x51) && bit i.f.imm.toNat 5)

def bindingOk (p : Parsed) (b : Binding) : Bool :=
  b.rsv && decide (b.source ≠ 3) &&
  (if b.source = 2 then decide (1 ≤ b.rows) && decide (1 ≤ b.validN) && decide (b.validN ≤ 128)
   else decide (b.rows = 0) && decide (b.validN = 0)) &&
  (match p.chains[b.chain]? with
    | none => false
    | some c => decide (b.laneStride ≠ 0) || !(insOfChain c).any insDraws)

/-- The bindings of a template that consume drains, each with its drain's descriptor: the k-th such binding
takes the k-th drain. -/
def drainPairs (p : Parsed) (r : Role) : List (Nat × LensDesc) :=
  let es := templateOf r (unitBlocks r)
  let ds := (es.filterMap (fun e => if e.kind = 1 then p.lens[e.arg]? else none)).filter drains
  let bs := es.filterMap (fun e =>
    if e.kind = 2 then (p.bindings[e.arg]?).bind (fun b => if b.source = 2 then none else some e.arg) else none)
  bs.zip ds

/-- Can a merge of a binding name, in a row of its body, an entry that its own drain reads in a later row (R102)? The
tail runs after the last row. -/
def mergeAhead (p : Parsed) (bi : Nat) (d : LensDesc) : Bool :=
  match p.bindings[bi]? with
  | none => false
  | some b =>
    let n := drainRows d
    ((p.chains.getD b.chain ⟨[], [], [], 0, false⟩).body.filter (fun k => isMerge k.op)).any (fun k =>
      (List.range n).any (fun i =>
        let e := b.mrowBase + i * b.mrowStep + mergeEntry k.f.imm
        decide (i + 1 < n) && spansMeet (spanOf (mergeFmt k.f.imm) e (e + 1))
          (spanOf (entryFmtOf d) (d.accBase + i + 1) (d.accBase + n))))

def checkBindings (p : Parsed) : Option LoadErr :=
  match firstErr p.bindings (fun i b => errIf (!bindingOk p b) 6 4 i) with
  | some e => some e
  | none => ((p.roles.flatMap (drainPairs p)).find? (fun q => mergeAhead p q.1 q.2)).map (fun q => ⟨6, 4, q.1, []⟩)

/-! ### Check 7: DMA programs (R177, R181, R185) -/

/-- Channels that start a program, as the templates name them. -/
def channelsOf (p : Parsed) (prog : Nat) : List Nat :=
  (List.range 4).filter (fun c => p.roles.any (fun r => r.entries.any (fun e => e.kind == 3 && e.arg == prog && e.chan == c)))

/-- Do the ranges of a MOVE overlap as far as its fields show, with the base registers at zero (R177)? -/
def movesOverlap (d : MoveDesc) : Bool :=
  let same := decide (isRef d.src = isRef d.dst) && (!isRef d.src || decide (d.src / 2 ^ 32 = d.dst / 2 ^ 32))
  let line (a b : Nat) : Bool := decide (a < b + d.dlen) && decide (b < a + d.slen)
  same && line d.src (d.dst) ||
  (same && decide (d.src < d.dst + (d.dcnt - 1) * d.dstride + d.dlen) && decide (d.dst < d.src + (d.scnt - 1) * d.sstride + d.slen) &&
    (List.range d.scnt).any (fun i => (List.range d.dcnt).any (fun j => line (d.src + i * d.sstride) (d.dst + j * d.dstride))))

/-- Loops of a program: target and own index. -/
def loopsOf (ds : List DmaDesc) : List (Nat × Nat) :=
  ds.zipIdx.filterMap (fun q => match q.1 with
    | .loop t .. => some (t, q.2)
    | _ => none)

/-- Do loops nest properly, to a depth of four (R181)? -/
def loopsNest (ls : List (Nat × Nat)) : Bool :=
  ls.all (fun a => decide ((ls.filter (fun b => decide (b.1 ≤ a.1) && decide (a.2 ≤ b.2))).length ≤ 4) &&
    ls.all (fun b => !(decide (a.1 < b.1) && decide (b.1 ≤ a.2) && decide (a.2 < b.2))))

/-- One descriptor of a tenant program on channel c (R185 checks 1 to 4 and 7). -/
def dmaDescOk (c k : Nat) : DmaDesc → Bool
  | .move d => moveCheck (.lantern 0 c) d && !movesOverlap d
  | .loop t n _ _ _ _ rsv => rsv && decide (1 ≤ n) && decide (t < k)
  | .wait _ _ _ rsv => rsv
  | .signal cnt inc lan rsv => rsv && decide (cnt ≤ 11) && decide (1 ≤ inc) && (decide (lan < 192) || decide (lan = 0xFF))
  | .move3 _ => false
  | .other _ => false

def dmaOn (ds : List DmaDesc) (c : Nat) : Bool := ds.zipIdx.all (fun q => dmaDescOk c q.2 q.1)

def checkDma (img : List Byte) (p : Parsed) : Option LoadErr :=
  let sec := secOf img 5
  firstErr (offsetTable sec) (fun i bs =>
    let r := dmaProgOf bs
    let used := channelsOf p i
    errIf (decide (sec.2.length ≤ leAt sec.2 (8 * i) 8) || !r.2 || !loopsNest (loopsOf r.1) ||
      !(if used.isEmpty then (List.range 4).any (dmaOn r.1) else used.all (dmaOn r.1))) 7 5 i)

/-! ### Check 7: collectives (R293) -/

/-- SR in a collective needs a tensor whose logical indices the source follows in order (R293): a block tensor of the
table whose last dimension is the block axis and has no pad, with the source's elements inside it. -/
def collDrawsOk (p : Parsed) (d : CollDesc) : Bool :=
  !bit d.reqctl.toNat 5 ||
  (match tensorById p.tensors d.tensor with
    | none => false
    | some t => (decide (4 ≤ t.fmt) || (decide (t.baxis + 1 = t.rank) && decide ((dimsOf t).getLastD 0 % 32 = 0))) &&
        decide (d.idxBase + d.count ≤ prodNat (dimsOf t)))

def collOk (p : Parsed) (d : CollDesc) : Bool :=
  let use := bits d.reqctl.toNat 21 14
  let red := d.op == 1 || d.op == 3
  d.rsv && decide (1 ≤ d.op) && decide (d.op ≤ 7) && decide (1 ≤ d.role) && decide (d.role ≤ 5) && decide (d.dfmt ≤ 5) &&
  decide (1 ≤ d.unit) && decide (d.count % d.unit = 0) && (decide (4 ≤ d.dfmt) || decide (d.unit % 32 = 0)) &&
  (decide (d.dfmt ≠ 4) || decide (d.unit % 128 = 0)) && !(red && decide (d.dfmt = 5)) &&
  (if d.req then red && (use == 3 || use == 8 || decide (0x10 ≤ use)) && decide (d.reqctl.toNat < 2 ^ 22)
   else decide (d.reqctl = 0)) &&
  (!d.vers || d.op == 2) && (decide (d.peer = 0) || d.op == 4 || d.op == 5 || d.op == 6) &&
  (decide (d.paired = 0) || d.op == 5) && collDrawsOk p d && (d.op == 7 || (decide (d.lens = 0) && decide (d.cap = 0)))

def checkColls (p : Parsed) : Option LoadErr := firstErr p.colls (fun i d => errIf (!collOk p d) 7 7 i)

/-! ### Check 7: section 0x08 (R206, R233 to R236, R244, R251) -/

/-- PART of an update descriptor (R233). -/
def updPart (u : UpdDesc) : Nat := u.flags / 4 % 4

def groupOk (p : Parsed) (g : Group) : Bool :=
  g.rsv && decide (1 ≤ g.b1) && decide (1 ≤ g.b2) && decide (-250 ≤ g.epsx) && decide (g.epsx ≤ 0) && decide (g.period ≤ 1000) &&
  (decide (g.damp = -32768) || (decide (-60 ≤ g.damp) && decide (g.damp ≤ -8))) &&
  p.curves.any (fun c => c.curve == g.lr) && (g.wd == 0xFFFFFFFF || p.curves.any (fun c => c.curve == g.wd)) &&
  decide ((p.groups.filter (fun h => h.group == g.group)).length = 1)

def ascending : List Nat → Bool
  | a :: b :: t => decide (a < b) && ascending (b :: t)
  | _ => true

def curveOk (p : Parsed) (c : Curve) : Bool :=
  c.rsv && decide (1 ≤ c.pts.length) && decide (c.pts.length ≤ 1024) && decide (c.mode ≤ 1) &&
  c.pts.all (fun q => decide (q.1 < 2 ^ 48) && decide (q.2.natAbs < 2 ^ 31)) && ascending (c.pts.map (·.1)) &&
  decide ((p.curves.filter (fun d => d.curve == c.curve)).length = 1)

/-- Is state k of a descriptor a row state (R233, R244)? -/
def rowState (u : UpdDesc) (k : Nat) : Bool :=
  if u.cls = 3 ∨ u.cls = 4 then decide (k = 0) else true

/-- Elements of a tensor's logical shape. -/
def elemsOf (t : Tensor) : Nat := prodNat (dimsOf t)

/-- The states that R244 gives a class agree with the descriptor (R236). -/
def statesOk (p : Parsed) (u : UpdDesc) (m : Tensor) : Bool :=
  let st (k : Nat) : Option Tensor := tensorById p.tensors (u.states.getD k 0xFFFFFFFF)
  let given (k : Nat) : Bool := u.states.getD k 0xFFFFFFFF != 0xFFFFFFFF
  let row (k : Nat) : Bool := match st k with
    | none => false
    | some t => decide (t.kind = 4) && decide (t.fmt = 3) && decide (dimsOf t = dimsOf m) && decide (t.baxis = m.baxis) &&
        decide (t.role = m.role) && decide (t.sdim = m.sdim)
  let sized (k kind fmt n : Nat) : Bool := match st k with
    | none => false
    | some t => decide (t.kind = kind) && decide (t.fmt = fmt) && decide (elemsOf t = n)
  let last := (dimsOf m).getLastD 1
  let tiles := ceilDiv ((dimsOf m).getD 0 0) 128 * ceilDiv ((dimsOf m).getD 1 0) 128
  match u.cls with
  | 1 => row 0 && !given 1 && !given 2 && !given 3
  | 2 => row 0 && row 1 && !given 2 && !given 3
  | 3 => row 0 && sized 1 4 3 (elemsOf m / last) && sized 2 4 3 last && sized 3 8 4 (last + 1)
  | 4 => decide (m.rank = 2) && row 0 && sized 1 4 3 (tiles * 16384) && sized 2 4 3 (tiles * 16384) && sized 3 4 2 (tiles * 32768)
  | _ => [0, 1, 2, 3].all (fun k => !given k || row k)

/-- Replicas of the roles whose templates hold an UPDATE entry of a descriptor. -/
def updReplicas (p : Parsed) (i : Nat) : Nat :=
  maxNat ((p.roles.filter (fun r => r.entries.any (fun e => e.kind == 7 && e.arg == i))).map (·.replicas))

/-- For CLASS 0x03 in two parts: a PART 0b01 entry, a COLL entry whose all-reduce takes STATE3, and a PART 0b10
entry stand in that order in one template (R236). -/
def partsInOrder (p : Parsed) (u : UpdDesc) : Bool :=
  p.roles.any (fun r =>
    let es := templateOf r 1
    let part (n : Nat) (e : SchedEntry) : Bool := e.kind == 7 && (match p.updates[e.arg]? with
      | some v => v.cls == 3 && v.param == u.param && updPart v == n
      | none => false)
    let red (e : SchedEntry) : Bool := e.kind == 5 && (match p.colls[e.arg]? with
      | some d => d.op == 3 && decide (refTensor p d.src = some (u.states.getD 3 0))
      | none => false)
    (takeThrough (part 2) (takeThrough red (takeThrough (part 1) es).2).2).1.any (part 2) &&
      (takeThrough red (takeThrough (part 1) es).2).1.any red && es.any (part 1))

/-- The bytes of one side of a tensor reference that a store of a user chain can reach over a number of rows and the tail
(R251): offsets in the array its address register refers to. -/
def storeReach (b : Binding) (rows k off size : Nat) : Int × Int :=
  let base : Int := (b.abase.getD k 0 % 2 ^ 32 : Nat)
  let o : Int := sext 15 off * (size : Int)
  let far : Int := (rows : Int) * b.astep.getD k 0
  (base + o + min 0 far, base + o + max 0 far + size)

/-- The binding that gives a user chain of an update its address registers: the first binding of the bundle that
names the chain. R251 speaks of "the binding" and names none (DESIGN CHOICE, notes/assumptions/36.md). -/
def userBinding (p : Parsed) (chain : Nat) : Option Binding := p.bindings.find? (fun b => b.chain == chain)

/-- Address registers through which an instruction stores, with its row size for each. -/
def storeRegs (i : VIns) : List (Nat × Nat) :=
  let n := i.f.imm.toNat
  if i.op = 0x69 then [(bits n 2 0, 4 * blockBytes (fmtOf (bits n 7 6))), (bits n 5 3, 4)]
  else if i.op = 0x6B then [(bits n 2 0, 1024)]
  else if i.op = 0x6D then [(bits n 2 0, 2048)]
  else []

/-- May a store of a user chain reach PARAM or a named state, whatever the placement (R251): does it meet the first block of
the array in the one row and the tail that every replica with work runs? The shard's size and the number of rows are known
only at placement, where userMeets makes the check in full. -/
def userReaches (p : Parsed) (u : UpdDesc) : Bool :=
  match p.chains[u.chain]?, userBinding p u.chain with
  | some c, some b =>
    (insOfChain c).any (fun i => (storeRegs i).any (fun k =>
      let a := b.abase.getD k.1 0
      match refTensor p a with
      | none => false
      | some id =>
        (id == u.param || (namedStates u).contains id) &&
        (let lim : Nat := if bit a 60 then 1 else blockBytes .b32
         let r := storeReach b 1 k.1 (bits i.f.imm.toNat 23 9) k.2
         decide (r.1 < lim) && decide (0 < r.2))))
  | _, _ => false

def updOk (p : Parsed) (i : Nat) (u : UpdDesc) : Bool :=
  let t (id : Nat) : Option Tensor := tensorById p.tensors id
  let isTraining := training p
  u.rsv && (decide (1 ≤ u.cls) && decide (u.cls ≤ 4) || u.cls == 0x0F) && decide (updPart u ≠ 3) &&
  (u.cls == 3 || updPart u == 0) && p.groups.any (fun g => g.group == u.group) &&
  (match t u.param, t u.grad with
    | some m, some g =>
      decide (m.kind = 3) && decide (m.fmt = 3) && decide (g.kind = 8) && decide (g.fmt = 4) && decide (dimsOf g = dimsOf m) &&
      statesOk p u m &&
      (u.touch == 0xFFFFFFFF || (match t u.touch with
        | none => false
        | some x => decide (x.fmt = 5) && !(isTraining && decide (x.kind = 1)))) &&
      (if bit u.flags 1 then (match t u.stats with
        | none => false
        | some x => decide (x.kind = 10) && decide (x.fmt = 5) && decide (2048 * updReplicas p i ≤ elemsOf x))
       else u.stats == 0xFFFFFFFF)
    | _, _ => false) &&
  (p.updates.zipIdx.all (fun q => decide (q.2 = i) || q.1.param != u.param ||
    (u.cls == 3 && q.1.cls == 3 && updPart u != 0 && updPart q.1 != 0 && updPart u != updPart q.1))) &&
  (u.cls != 3 || partsInOrder p u) &&
  (if u.cls = 0x0F then decide (u.chain < p.chains.length) && !userReaches p u else decide (u.chain = 0))

/-- The part of its template in which entries [a, a + n) of a role stand, if they stand in one (R206). -/
def partOf (r : Role) (a n : Nat) : Option Nat :=
  if a + n ≤ r.pre then some 0
  else if r.pre ≤ a ∧ a + n ≤ r.pre + r.unitLen then some 1
  else if r.pre + r.unitLen ≤ a ∧ a + n ≤ r.pre + r.unitLen + r.post then some 2
  else none

def rangesMeet (a n b m : Nat) : Bool := decide (0 < n) && decide (0 < m) && decide (a < b + m) && decide (b < a + n)

def ladderOk (p : Parsed) (i : Nat) (d : LadderRec) : Bool :=
  d.rsv && decide (d.rmin ≤ d.rung0) && decide (d.rung0 ≤ d.rmax) && decide (d.rmax ≤ 7) &&
  (decide (d.rmin < 4) || decide (d.count8 = 0)) && (decide (4 ≤ d.rmax) || decide (d.count16 = 0)) &&
  (tensorById p.tensors d.tensor).isSome &&
  (match p.roles.find? (fun r => r.role == d.role) with
    | none => false
    | some r =>
      (decide (d.count8 = 0) || (partOf r d.first8 d.count8).isSome) &&
      (decide (d.count16 = 0) || (partOf r d.first16 d.count16).isSome) &&
      (decide (d.count8 = 0) || decide (d.count16 = 0) || decide (partOf r d.first8 d.count8 = partOf r d.first16 d.count16))) &&
  !rangesMeet d.first8 d.count8 d.first16 d.count16 &&
  p.ladders.zipIdx.all (fun q => decide (q.2 = i) ||
    ((q.1.tensor != d.tensor || (q.1.rung0 == d.rung0 && q.1.rmin == d.rmin && q.1.rmax == d.rmax && q.1.role != d.role)) &&
     (q.1.role != d.role || !([(q.1.first8, q.1.count8), (q.1.first16, q.1.count16)].any (fun x =>
       rangesMeet x.1 x.2 d.first8 d.count8 || rangesMeet x.1 x.2 d.first16 d.count16)))))

/-- Distinct elements of a list. -/
def distinct (l : List Nat) : List Nat := l.foldl (fun a x => if a.contains x then a else a ++ [x]) []

/-- Check 7 on section 0x08, record by record: the response names the entry of the section (R157, R206, R236). -/
def checkSec8 (img : List Byte) (p : Parsed) : Option LoadErr :=
  let sec := secOf img 8
  let recs := recordsOf sec.1 sec.2
  firstErr recs (fun i bs =>
    let k := leAt bs 0 2
    let j := ((recs.take i).filter (fun r => leAt r 0 2 == k)).length
    errIf (!recordSound bs || !(match k with
      | 1 => updOk p j (updOf bs)
      | 2 => groupOk p (groupOf bs)
      | 3 => curveOk p (curveOf bs)
      | _ => ladderOk p j (ladderOf bs) && decide ((distinct ((p.ladders.take (j + 1)).map (·.tensor))).length ≤ 504))) 7 8 i)

/-! ### Check 8: templates (R153, R197) -/

/-- Entries of the section that an entry's ARG indexes, none where ARG is no index. -/
def argLimit (p : Parsed) (kind : Nat) : Option Nat :=
  if kind = 1 then some p.lens.length else if kind = 2 then some p.bindings.length else if kind = 3 then some p.dma.length
  else if kind = 5 then some p.colls.length else if kind = 7 then some p.updates.length else none

def schedOk (p : Parsed) (e : SchedEntry) : Bool :=
  decide (e.kind ≤ 7) && decide (e.phase ≤ 4) &&
  (if e.kind = 3 then decide (e.chan ≤ 3) else e.kind == 4 || decide (e.chan = 0)) &&
  (match argLimit p e.kind with
    | some n => decide (e.arg < n)
    | none => true)

/-- Checks 1 and 2 of R197: which fails, and the entry. -/
def holdErr (r : Role) : Option (Nat × Nat) :=
  let holds := (List.range r.entries.length).filter (fun k => (r.entries[k]?).any (fun e => e.kind == 6))
  match holds with
  | [] => if trainingRole r then some (1, 0) else none
  | [h] =>
    if r.pre ≤ h then some (1, h)
    else (findIdx (fun e => decide (1 ≤ e.phase) && decide (e.phase ≤ 3)) (r.entries.take h)).map (fun k => (2, k))
  | _ :: h :: _ => some (1, h)

/-- The ladders of a bundle, by the first record of each gradient tensor: the records of one tensor for several roles
carry the same rungs (R206). A mooring's ladders and a verdict's entries stand in this order. -/
def ladderRecs (p : Parsed) : List LadderRec :=
  (p.ladders.zipIdx.filter (fun q => !(p.ladders.take q.2).any (fun d => d.tensor == q.1.tensor))).map (·.1)

/-- The number of a tensor's ladder. -/
def ladderIdx (p : Parsed) (tensor : Nat) : Option Nat := findIdx (fun d => d.tensor == tensor) (ladderRecs p)

/-- The ladder that governs a binding: its TENSOR is laddered and its chain has a site (R207). -/
def laddered (p : Parsed) (bi : Nat) : Option Nat :=
  match p.bindings[bi]? with
  | none => none
  | some b =>
    if (insOfChain (p.chains.getD b.chain ⟨[], [], [], 0, false⟩)).any (isSite 2) then
      ladderIdx p b.tensor
    else none

/-- Check 3 of R197: the first entry that fails it. -/
def phaseErr (p : Parsed) (r : Role) : Option (Nat × Nat) :=
  (findIdx (fun e => e.kind == 2 && (laddered p e.arg).isSome && e.phase != 1) r.entries).map (fun k => (3, k))

/-- Does a laddered binding share its chain with an earlier one of another laddered tensor (check 4 of R197)? -/
def mixesTensors (p : Parsed) (i : Nat) : Bool :=
  (laddered p i).isSome && (List.range i).any (fun j => (laddered p j).isSome &&
    (match p.bindings[i]?, p.bindings[j]? with
    | some a, some b => a.chain == b.chain && a.tensor != b.tensor
    | _, _ => false))

/-- Check 4 of R197: the first entry of a role that issues such a binding. -/
def mixErr (p : Parsed) (r : Role) : Option (Nat × Nat) :=
  (findIdx (fun e => e.kind == 2 && mixesTensors p e.arg) r.entries).map (fun k => (4, k))

/-- Longest placed length of a role's template (R153, R206): each variant counts by the longer choice. -/
def placedLength (p : Parsed) (r : Role) : Nat :=
  let cut (part : Nat) : Nat := sumNat ((p.ladders.filter (fun d => d.role == r.role)).map (fun d =>
    if partOf r (if d.count8 = 0 then d.first16 else d.first8) (max 1 (min d.count8 d.count16)) = some part then min d.count8 d.count16 else 0))
  (r.pre - cut 0) + unitBlocks r * (r.unitLen - cut 1) + (r.post - cut 2)

def roleOk (p : Parsed) (r : Role) : Bool :=
  r.rsv && decide (1 ≤ r.replicas) && decide (r.replicas ≤ 192) && decide (placedLength p r ≤ 4096) &&
  r.entries.all (schedOk p)

/-- The checks of R197 on a role, in order, named in the response by their number and the entry. -/
def roleErr (p : Parsed) (i : Nat) (r : Role) : Option LoadErr :=
  (((if training p then holdErr r else none).orElse fun _ => (phaseErr p r).orElse fun _ => mixErr p r)).map
    (fun q => ⟨8, 6, i, [q.1, q.2]⟩)

/-- Check 8 (R153, R197). Two records with one ROLE are refused: ladder records name a role by it (DESIGN CHOICE,
notes/assumptions/37.md). -/
def checkRoles (p : Parsed) : Option LoadErr :=
  (firstErr p.roles (fun i r => errIf (!roleOk p r || (p.roles.take i).any (fun x => x.role == r.role)) 8 6 i)).orElse fun _ =>
  firstErr p.roles (roleErr p)

/-! ### Checks 9 and 10 (R152, R218, R46) -/

/-- Is a reference inside its tensor or the store, as far as the load knows (R152)? Whether it lies inside the local shard
is known when the bundle is placed (placeRefusal). -/
def refOk (p : Parsed) (v : Nat) : Bool :=
  if !isRef v then true
  else if bits v 59 32 = 0x0FFFFFFF then decide (bits v 31 0 < 0x400000)
  else match p.tensors[bits v 59 32]? with
    | none => false
    | some t =>
      let z := arrayBytes t (dimsOf t)
      decide (bits v 31 0 < if bit v 60 then z.2 else z.1)

/-- Does a field that step work writes through name a tensor of KIND 1 (R218)? -/
def writesInput (p : Parsed) (v : Nat) : Bool :=
  match (refTensor p v).bind (tensorById p.tensors) with
  | some t => decide (t.kind = 1)
  | none => false

/-- Address fields of a descriptor: value, and whether it is written through. -/
def dmaFields : DmaDesc → List (Nat × Bool)
  | .move d => [(d.src, false), (d.dst, true), (d.scaleS, false), (d.scaleD, true)]
  | .move3 d => [(d.src, false), (d.dst, true)]
  | _ => []

def fieldErr (p : Parsed) (tr : Bool) (fs : List (Nat × Bool)) : Bool :=
  fs.any (fun f => !refOk p f.1 || (tr && f.2 && writesInput p f.1))

def checkRefs (p : Parsed) : Option LoadErr :=
  let tr := training p
  (firstErr p.bindings (fun i b =>
    let st := ((insOfChain (p.chains.getD b.chain ⟨[], [], [], 0, false⟩)).flatMap storeRegs).map (·.1)
    errIf (fieldErr p tr (b.abase.zipIdx.map (fun a => (a.1, st.contains a.2)))) 9 4 i)).orElse fun _ =>
  (firstErr p.dma (fun i ds => errIf (fieldErr p tr (ds.flatMap dmaFields)) 9 5 i)).orElse fun _ =>
  firstErr p.colls (fun i d => errIf (fieldErr p tr [(d.src, false), (d.dst, true), (d.lens, d.op == 7)]) 9 7 i)

def checkScale (p : Parsed) : Option LoadErr :=
  errIf (!((decide (p.lstart ≤ 63) || p.lstart == 0xFF) && (p.raise == 0 || (decide (100 ≤ p.raise) && decide (p.raise ≤ 100000))))) 10 0 0

/-- The load of a bundle (R157): its contents, or the first check that fails. -/
def loadBundle (img : List Byte) : Except LoadErr Parsed :=
  match (checkSignature img).orElse (fun _ => checkHeader img) with
  | some e => .error e
  | none =>
    let p := parseBundle img
    match ((checkTensors p.tensors).orElse fun _ => (checkLens p).orElse fun _ => (checkChains img p).orElse fun _ =>
      (checkBindings p).orElse fun _ => (checkDma img p).orElse fun _ => (checkColls p).orElse fun _ =>
      (checkSec8 img p).orElse fun _ => (checkRoles p).orElse fun _ => (checkRefs p).orElse fun _ => checkScale p) with
    | some e => .error e
    | none => .ok p

/-- Is a hint one that the Keeper can follow: a known type with a value in range (R156)? -/
def hintOk (h : Hint) : Bool :=
  match h.typ with
  | 1 => decide (h.value ≤ 2)
  | 2 => decide (16 ≤ h.value) && decide (h.value ≤ 64)
  | 3 => h.value == 1 || h.value == 2 || h.value == 4 || h.value == 8
  | 4 => decide (1 ≤ h.value) && decide (h.value ≤ 192)
  | 5 => decide (1 ≤ h.value) && decide (h.value < 2 ^ 32)
  | 6 => decide (h.value < 2 ^ 32)
  | _ => false

/-! ### Attestation log (R455) -/

/-- The 96 bytes of an attestation entry. -/
def attBytes (e : AttEntry) : List Byte :=
  natLE 4 e.typ ++ natLE 2 e.mooring ++ [0, 0] ++ natLE 8 e.time ++ natLE 32 e.digest.toNat ++
  natLE 32 e.signer.toNat ++ List.replicate 16 0

end Sys2Proof.Machine
end

