-- ==== Sys2Proof/Machine/Placement.lean ====
section
/-! DEFINITION. Machine/Placement.lean: sector tables and members, the division of work and tensors, and the
placement of a bundle on this module (R151, R152, R158 to R164, R169, R207, R218, R230, R287 to R289, R306, R308,
R315, R320, R357, R435). -/

namespace Sys2Proof.Machine

/-! ### Descriptors and members (R287 to R289, R315, R319) -/

/-- Axis entry a of a sector table (R287), and whether its reserved field is zero. -/
def axisEntOf (w : Nat) : AxisEnt × Bool := (⟨bits w 2 0, bits w 8 3, bits w 13 9, bit w 14⟩, decide (bits w 31 15 = 0))

/-- A mooring descriptor (R319): rsv says that reserved fields are zero and the sector table names the ID. -/
def mdescOf (bs : List Byte) : MDesc :=
  let axes := (List.range 4).map (fun k => axisEntOf (leAt bs (20 + 4 * k) 4))
  { id := leAt bs 0 2, kind := leAt bs 2 1, split := leAt bs 3 1, sector := leAt bs 4 1, onloss := leAt bs 5 1,
    replayMax := if leAt bs 6 1 = 0 then 3 else leAt bs 6 1,
    verdictMs := if leAt bs 8 4 = 0 then 1000 else leAt bs 8 4, bundle := leAt bs 12 4, sMooring := leAt bs 16 2,
    axes := axes.map (·.1), lightships := (List.range 16).map (fun k => leAt bs (48 + 4 * k) 4),
    rsv := axes.all (·.2) && decide (leAt bs 7 1 = 0) && decide (leAt bs 18 2 = 0) && decide (leAt bs 36 12 = 0) &&
      decide (leNat ((bs.drop 112).take 16) = 0) }

def axisAt (d : MDesc) (a : Nat) : AxisEnt := d.axes.getD a ⟨0, 1, 0, false⟩

/-- The roles that the Keeper assigns when every ROLE is 0 (R288): W takes TENSOR, then X, Y, Z take DATA. -/
def assignRoles (d : MDesc) : MDesc :=
  if d.axes.any (fun x => x.role != 0) then d
  else
    let wide (a : Nat) : Bool := decide (1 < (axisAt d a).extent)
    let data := ([1, 2, 3].filter wide).take 2
    { d with axes := d.axes.zipIdx.map (fun p =>
        { p.1 with role := if p.2 = 0 then (if wide 0 then 1 else 0) else if data.contains p.2 then 4 else 0 }) }

/-- RING as the Keeper writes it (R287). -/
def markRings (s : State) (d : MDesc) : MDesc :=
  { d with axes := d.axes.zipIdx.map (fun p =>
      { p.1 with ring := decide (1 < p.1.extent) && decide (p.1.extent = s.boot.sizes.getD p.2 1) }) }

/-- The checks of R287 and R288. -/
def sectorOk (s : State) (d : MDesc) : Bool :=
  d.axes.zipIdx.all (fun p => decide (p.1.role ≤ 5) && decide (1 ≤ p.1.extent) && decide (p.1.extent ≤ s.boot.sizes.getD p.2 1) &&
    decide (p.1.origin < s.boot.sizes.getD p.2 1) && decide (p.1.extent = 1 ↔ p.1.role = 0)) &&
  [1, 2, 3, 5].all (fun r => decide ((d.axes.filter (fun x => x.role == r)).length ≤ 1)) &&
  decide ((d.axes.filter (fun x => x.role == 4)).length ≤ 2)

/-- Member index of a node on an axis (R289). -/
def memberIdx (s : State) (d : MDesc) (node a : Nat) : Nat :=
  let n := max (s.boot.sizes.getD a 1) 1
  ((coordsOf node).getD a 0 + n - (axisAt d a).origin % n) % n

/-- Is a node in the block (R315)? -/
def inBlock (s : State) (d : MDesc) (node : Nat) : Bool :=
  (List.range 4).all (fun a => decide (memberIdx s d node a < (axisAt d a).extent))

/-- Coordinates of a block along one axis. -/
def axisCoords (s : State) (d : MDesc) (a : Nat) : List Nat :=
  (List.range (axisAt d a).extent).map (fun i => ((axisAt d a).origin + i) % max (s.boot.sizes.getD a 1) 1)

/-- The nodes of the block (R315), by linear index of R363: W fastest. -/
def blockNodes (s : State) (d : MDesc) : List Nat :=
  (axisCoords s d 3).flatMap (fun z => (axisCoords s d 2).flatMap (fun y => (axisCoords s d 1).flatMap (fun x =>
    (axisCoords s d 0).map (fun w => nodeOf [w, x, y, z]))))

/-- The node that stands at a block position, after substitutions (R335). -/
def standsIn (subs : List (Nat × Nat)) (node : Nat) : Nat :=
  match subs.find? (fun p => p.1 == node) with
  | some p => p.2
  | none => node

/-- The block position that a node stands at. -/
def positionOf (subs : List (Nat × Nat)) (node : Nat) : Nat :=
  match subs.find? (fun p => p.2 == node) with
  | some p => p.1
  | none => node

/-- The members of a mooring (R315). -/
def membersOf (s : State) (m : Mooring) : List Nat := (blockNodes s m.desc).map (standsIn m.subs)

/-- Members along a role, and a position's index among them (R289); one member without such an axis. -/
def roleSpan (s : State) (d : MDesc) (node r : Nat) : Nat × Nat :=
  ((List.range 4).filter (fun a => (axisAt d a).role == r && decide (r ≠ 0))).foldl
    (fun acc a => (acc.1 * (axisAt d a).extent, acc.2 + acc.1 * memberIdx s d node a)) (1, 0)

/-! ### Division (R162, R306) -/

/-- First unit and number of units of member k when n units are divided among p. -/
def divideUnits (n p k : Nat) : Nat × Nat :=
  let p := max p 1
  (k * (n / p) + min k (n % p), n / p + b2n (decide (k < n % p)))

/-! ### Pipeline stages (R308) -/

/-- Relative cost of a stage (R156). -/
def stageCost (p : Parsed) (st : Nat) : Nat :=
  match p.hints.find? (fun h => h.typ == 5 && h.target == st && hintOk h) with
  | some h => h.value
  | none => 1

/-- Logical stages of a bundle: one more than the highest STAGE. -/
def stageCount (p : Parsed) : Nat :=
  maxNat ((p.tensors.filter (fun t => t.stage != 0xFFFFFFFF)).map (fun t => t.stage + 1))

/-- Stages a member takes from a list of costs: while its sum stays within bound, leaving one for each later
member. -/
def takeStages (bound later : Nat) : List Nat → Nat → Nat → Nat
  | [], _, _ => 0
  | c :: cs, sum, taken =>
    if (taken = 0 ∨ sum + c ≤ bound) ∧ later ≤ cs.length then 1 + takeStages bound later cs (sum + c) (taken + 1) else 0

/-- The runs of stages of p members under a bound: numbers of stages. -/
def stageRuns (bound : Nat) : Nat → List Nat → List Nat
  | 0, _ => []
  | p + 1, cs =>
    let n := takeStages bound p cs 0 0
    n :: stageRuns bound p (cs.drop n)

/-- Does a bound allow a contiguous division: every stage is taken and no run costs more? -/
def boundFits (costs : List Nat) (p bound : Nat) : Bool :=
  let rs := stageRuns bound p costs
  decide (sumNat rs = costs.length) &&
  ((rs.foldl (fun (acc : Bool × List Nat) n => (acc.1 && decide (sumNat (acc.2.take n) ≤ bound), acc.2.drop n)) (true, costs)).1)

/-- Costs of every contiguous run of stages: the candidates for the least bottleneck. -/
def runCosts (costs : List Nat) : List Nat :=
  (List.range costs.length).flatMap (fun i => (List.range (costs.length - i)).map (fun j => sumNat ((costs.drop i).take (j + 1))))

/-- The least bottleneck B (R308). -/
def bottleneck (costs : List Nat) (p : Nat) : Nat :=
  let ok := (runCosts costs).filter (boundFits costs p)
  minOf (sumNat costs) ok

/-- First stage and number of stages of member k. -/
def stagesOf (pb : Parsed) (p k : Nat) : Nat × Nat :=
  let costs := (List.range (stageCount pb)).map (stageCost pb)
  let rs := stageRuns (bottleneck costs p) p costs
  (sumNat (rs.take k), rs.getD k 0)

/-! ### Shares and ownership (R151, R230, R306) -/

/-- A module's share of a tensor: its dimensions, the offset of each, and, for an owned tensor, the kind of
ownership unit (1 rows, 2 lines, 3 tiles; 0 when the whole share is held), the axis that update rows run along, the
first unit and the number of units; where TENSOR divides it, how far along SHARD_DIM its own head slots reach, the rest
being padded slots (R307). -/
structure Share where
  t    : Tensor
  dims : List Nat
  off  : List Nat
  unit : Nat
  axis : Nat
  lo   : Nat
  n    : Nat
  live : Option Nat

/-- Unit along the sharded dimension: whole tiles of a tile layout (R52), a token row for SEQUENCE (R306), else whole blocks
along the block axis. For TENSOR it is one head slot: the bundle gives no size of a head (DESIGN CHOICE,
notes/assumptions/32.md). -/
def dimUnit (t : Tensor) : Nat :=
  if t.layout = 1 then (if t.sdim = 0 then (if t.fmt = 0 then 1024 else 512) else 128)
  else if t.role = 2 then 1
  else if t.fmt < 4 ∧ t.sdim = t.baxis then 32 else 1

/-- The update descriptor that a tensor belongs to as its master, a state or its gradient. -/
def servingUpdate (p : Parsed) (id : Nat) : Option UpdDesc :=
  p.updates.find? (fun u => u.param == id || u.grad == id || (namedStates u).contains id)

/-- The ownership unit of a tensor on a module (R230), 0 when the share is held whole. -/
def ownerUnit (p : Parsed) (t : Tensor) : Nat :=
  match servingUpdate p t.id with
  | none => if t.kind = 3 ∨ t.kind = 4 then 1 else 0
  | some u =>
    if u.cls = 3 then
      (if t.id = u.states.getD 2 0 ∨ t.id = u.states.getD 3 0 then 0 else 2)
    else if u.cls = 4 then 3
    else 1

/-- Lines of a shape, and their length: the last dimension is the line (R230). -/
def lineCount (dims : List Nat) : Nat := prodNat dims.dropLast

/-- Outer product, length and inner product of a shape about its block axis. -/
def aboutAxis (dims : List Nat) (a : Nat) : Nat × Nat × Nat :=
  (prodNat (dims.take a), dims.getD a 1, prodNat (dims.drop (a + 1)))

/-- Is a tensor the row statistic of a factored update, or a tile state of a preconditioned one (R244)? These
hold one element per line, or whole 128 x 128 matrices per tile, of the master they serve. -/
def stateShape (p : Parsed) (t : Tensor) : Option (UpdDesc × Nat) :=
  match servingUpdate p t.id with
  | none => none
  | some u =>
    if u.cls = 3 ∧ t.id = u.states.getD 1 0 then some (u, 1)
    else if u.cls = 4 ∧ (t.id = u.states.getD 1 0 ∨ t.id = u.states.getD 2 0) then some (u, 16384)
    else if u.cls = 4 ∧ t.id = u.states.getD 3 0 then some (u, 32768)
    else none

/-- The axis along which a tensor's update rows run (R230): the block axis; for a gradient, its master's. -/
def unitAxis (p : Parsed) (t : Tensor) : Nat :=
  match p.updates.find? (fun u => u.grad == t.id) with
  | some u => ((tensorById p.tensors u.param).map (·.baxis)).getD 0
  | none => if t.fmt < 4 then t.baxis else t.rank - 1

/-- Ownership units of a share (R230). -/
def unitCount (unit axis : Nat) (dims : List Nat) : Nat :=
  let x := aboutAxis dims axis
  match unit with
  | 1 => x.1 * ceilDiv x.2.1 128 * x.2.2
  | 2 => lineCount dims
  | 3 => ceilDiv (dims.getD 0 1) 128 * ceilDiv (dims.getD 1 1) 128
  | _ => 0

/-- Dimensions and offsets of a share before ownership, and, where TENSOR divides the tensor, the length of its own head
slots: every member has ceil(H / p) slots, so all shares have one shape (R306, R307). A tensor that is owned along DATA is
divided by the other roles alone here (R230). -/
def shareDims (s : State) (d : MDesc) (node : Nat) (t : Tensor) (owned : Bool) : List Nat × List Nat × Option Nat :=
  let full := dimsOf t
  let span := roleSpan s d node t.role
  if t.role = 0 ∨ span.1 = 1 ∨ (owned ∧ t.role = 4) then (full, full.map (fun _ => 0), none)
  else
    let u := dimUnit t
    let n := full.getD t.sdim 1
    let q := divideUnits (ceilDiv n u) span.1 span.2
    let lo := min n (q.1 * u)
    let hi := min n ((q.1 + q.2) * u)
    if t.role = 1 then (setAt full t.sdim (ceilDiv (ceilDiv n u) span.1 * u), setAt (full.map (fun _ => 0)) t.sdim lo, some (hi - lo))
    else (setAt full t.sdim (hi - lo), setAt (full.map (fun _ => 0)) t.sdim lo, none)

/-- The share of a tensor at a block position. -/
def shareOf (s : State) (d : MDesc) (p : Parsed) (node : Nat) (t : Tensor) : Share :=
  let unit := ownerUnit p t
  let data := roleSpan s d node 4
  match stateShape p t with
  | some (u, k) =>
    -- states that are not row states: k elements per owned line or tile of the master
    (match tensorById p.tensors u.param with
    | some m =>
      let sd := shareDims s d node m true
      let q := divideUnits (unitCount unit m.baxis sd.1) data.1 data.2
      ⟨{ t with baxis := 0 }, [q.2 * k], [q.1 * k], 0, 0, 0, 0, none⟩
    | none => ⟨t, dimsOf t, (dimsOf t).map (fun _ => 0), 0, 0, 0, 0, none⟩)
  | none =>
    let sd := shareDims s d node t (unit != 0)
    let a := unitAxis p t
    if unit = 0 then ⟨t, sd.1, sd.2.1, 0, a, 0, 0, sd.2.2⟩
    else
      let q := divideUnits (unitCount unit a sd.1) data.1 data.2
      ⟨t, sd.1, sd.2.1, unit, a, q.1, q.2, sd.2.2⟩

/-- Row-major position of coordinates in a shape. -/
def linearOf : List Nat → List Nat → Nat
  | c :: cs, _ :: ds => c * prodNat ds + linearOf cs ds
  | _, _ => 0

/-- Coordinates of a row-major position. -/
def coordsIn : List Nat → Nat → List Nat
  | [], _ => []
  | _ :: ds, e => e / prodNat ds :: coordsIn ds (e % prodNat ds)

/-- The ownership unit that an element of a share belongs to, by its coordinates (R230). -/
def unitOfElem (unit a : Nat) (dims c : List Nat) : Nat :=
  match unit with
  | 1 =>
    let x := aboutAxis dims a
    (linearOf (c.take a) (dims.take a) * ceilDiv x.2.1 128 + c.getD a 0 / 128) * x.2.2 + linearOf (c.drop (a + 1)) (dims.drop (a + 1))
  | 2 => linearOf c.dropLast dims.dropLast
  | 3 => c.getD 0 0 / 128 * ceilDiv (dims.getD 1 1) 128 + c.getD 1 0 / 128
  | _ => 0

/-- Is an element of a share, by its coordinates, held here? -/
def holdsElem (h : Share) (c : List Nat) : Bool :=
  h.unit = 0 || (let u := unitOfElem h.unit h.axis h.dims c; decide (h.lo ≤ u) && decide (u < h.lo + h.n))

/-- Does an element of a share lie in the member's own head slots (R307)? -/
def ownSlot (h : Share) (c : List Nat) : Bool :=
  match h.live with
  | none => true
  | some n => decide (c.getD h.t.sdim 0 < n)

/-- Coordinates of the first element of block b of a share, blocks in the order of R24 and R27. -/
def blockCoords (h : Share) (b : Nat) : List Nat :=
  let a := h.t.baxis
  let nb := ceilDiv (h.dims.getD a 1) 32
  let c := coordsIn (setAt h.dims a nb) b
  c.modify a (· * 32)

/-- Blocks of a share, owned or not. -/
def shareBlocks (h : Share) : Nat := blockCount h.dims h.t.baxis

/-- The blocks of a share that are held here, in block order. -/
def heldBlocks (h : Share) : List Nat :=
  if h.unit = 0 then List.range (shareBlocks h) else (List.range (shareBlocks h)).filter (fun b => holdsElem h (blockCoords h b))

/-- Elements of a share that are held here, pad elements not counted. -/
def heldElems (h : Share) : Nat :=
  if h.unit = 0 then prodNat h.dims
  else ((List.range (prodNat h.dims)).filter (fun e => holdsElem h (coordsIn h.dims e))).length

/-- Number of a block among the held blocks. -/
def heldIndex (h : Share) (b : Nat) : Nat :=
  if h.unit = 0 then b else ((List.range b).filter (fun k => holdsElem h (blockCoords h k))).length

/-- Number of an element among the held elements, in row-major order. -/
def heldElemIndex (h : Share) (e : Nat) : Nat :=
  if h.unit = 0 then e else ((List.range e).filter (fun k => holdsElem h (coordsIn h.dims k))).length

/-- Logical element index of an element of a share (R41). -/
def logicalIndex (h : Share) (c : List Nat) : Nat :=
  linearOf ((c.zip h.off).map (fun q => q.1 + q.2)) (if h.dims.length = (dimsOf h.t).length then dimsOf h.t else h.dims)

/-! ### Sizes of shards (R165 to R169) -/

def round4K (n : Nat) : Nat := ceilDiv n 4096 * 4096

/-- The SAVE_RATIO of a tensor (R156, R169). -/
def saveRatio (p : Parsed) (id : Nat) : Option Nat :=
  (p.hints.find? (fun h => h.typ == 2 && h.target == id && hintOk h)).map (·.value)

/-- Bytes of the mantissa array and of the scale array of a shard, and its elements with pad: a losslessly saved
tensor is one stream with the reservation of R169, a lossily saved one is held in B4 (R168). -/
def shardBytes (p : Parsed) (raised : List Nat) (h : Share) : Nat × Nat × Nat :=
  let t := h.t
  if t.fmt = 4 then (16 * heldElems h, 0, heldElems h)
  else if t.fmt = 5 then (heldElems h, 0, heldElems h)
  else
    let n := (heldBlocks h).length
    let f := fmtOf t.fmt
    if t.save = 1 then
      ((match saveRatio p t.id with
        | some q => if raised.contains t.id then streamMax f n else round4K (ceilDiv (n * (blockBytes f + 1) * 16) q)
        | none => streamMax f n), 0, 32 * n)
    else if t.save = 2 then (16 * n, n, 32 * n)
    else (n * blockBytes f, n, 32 * n)

/-! ### Homes (R158, R320, R435) -/

/-- A home: tier (1 bonded SRAM, 2 LPDDR5X), tower or half, and the range that moorings may have of it. -/
structure Home where
  tier : Nat
  idx  : Nat
  lo   : Nat
  hi   : Nat
  deriving DecidableEq, Repr

def sramHome (t size : Nat) : Home :=
  let b := localAddr 0x10 (t * 0xC0000000)
  ⟨1, t, b, b + size⟩

/-- Allocatable bytes of a half of LPDDR5X, and of a tower's SRAM (R158). -/
def halfSize : Nat := 0x5C00000000
def towerSize : Nat := 0xC0000000 - 16 * 2 ^ 20

/-- Towers of a sector (R320). -/
def sectorTowers (split sector : Nat) : List Nat :=
  if split = 4 then [sector] else if split = 2 then [2 * sector, 2 * sector + 1] else [0, 1, 2, 3]

/-- Shore cores of a sector (R320). -/
def sectorCores (split sector : Nat) : List Nat :=
  let n := 12 / max split 1
  (List.range n).map (fun i => n * sector + i)

/-- The homes of a sector; in early light only tower 0's SRAM, less 256 MiB of bundle space (R435). -/
def homesOf (s : State) (split sector : Nat) : List Home :=
  if s.boot.state = 1 then [sramHome 0 (towerSize - 256 * 2 ^ 20)]
  else
    let half (h : Nat) : Nat := localAddr 0x00 (h * 0x6000000000)
    (sectorTowers split sector).map (fun t => sramHome t towerSize) ++
    (if split = 4 then
      let b := half (sector / 2) + sector % 2 * (halfSize / 2)
      [⟨2, sector / 2, b, b + halfSize / 2⟩]
     else if split = 2 then [⟨2, sector, half sector, half sector + halfSize⟩]
     else [⟨2, 0, half 0, half 0 + halfSize⟩, ⟨2, 1, half 1, half 1 + halfSize⟩])

/-- Does a range meet none of the taken ones? -/
def rangeFree (taken : List (Nat × Nat)) (a n : Nat) : Bool :=
  taken.all (fun r => decide (a + n ≤ r.1) || decide (r.1 + r.2 ≤ a))

/-- Ranges of an old map that are not released yet (R305, R331). -/
def sourceRanges : Option MoveFrom → List (Nat × Nat)
  | some (.map _ _ p _) => p.regions
  | _ => []

/-- Ranges that moorings hold (R161). -/
def takenRanges (s : State) : List (Nat × Nat) :=
  s.moorings.flatMap (fun m => m.place.regions ++ sourceRanges (m.moving.map (·.source)) ++
    (((m.moving.bind (·.was)).map (·.place.regions)).getD []) ++ sourceRanges m.oldMap)

/-- Starts at which a region may be put: the home's base and the end of each range taken. -/
def homeStarts (h : Home) (taken : List (Nat × Nat)) : List Nat :=
  (h.lo :: taken.map (fun r => round4K (r.1 + r.2))).filter (fun a => decide (h.lo ≤ a) && decide (a < h.hi))

/-- Do two nodes stand in one carrier: the same X, Y and Z (R19)? -/
def sameCarrier (a b : Nat) : Bool := (coordsOf a).drop 1 == (coordsOf b).drop 1

/-- The ranges taken on the other modules of a node's carrier, as they were told (R161). -/
def carrierTaken (told : List (Nat × List (Nat × Nat))) (node self : Nat) : List (Nat × Nat) :=
  (told.filter (fun q => sameCarrier q.1 node && q.1 != self)).flatMap (·.2)

/-- Free bytes from a start on. -/
def roomAt (h : Home) (taken : List (Nat × Nat)) (a : Nat) : Nat :=
  if rangeFree taken a 1 then minOf h.hi ((taken.filter (fun r => decide (a ≤ r.1))).map (·.1)) - a else 0

/-- The largest free run of a home. -/
def homeRoom (h : Home) (taken : List (Nat × Nat)) : Nat := maxNat ((homeStarts h taken).map (roomAt h taken))

/-- The lowest free range of n bytes in a home (R161). -/
def lowestFit (h : Home) (taken : List (Nat × Nat)) (n : Nat) : Nat :=
  let c := (homeStarts h taken).filter (fun a => decide (n ≤ roomAt h taken a))
  minOf (c.headD h.lo) c

/-! ### Roles (R160, R162, R163) -/

/-- Lanterns that a mooring's sector may use: enabled logical lanterns of its towers that are not held in
reset. -/
def sectorLanterns (s : State) (split sector : Nat) : List Nat :=
  ((sectorTowers split sector).flatMap towerLanterns).filter (fun l =>
    enabledLantern s l && !(lanternAt s l).rst.held && (s.boot.state ≠ 1 || decide (l < 48)))

/-- The tower that a role of 48 replicas or fewer is kept in (R160): the lowest-numbered one that has room; where none has,
the one with the most free lanterns, the lowest of several (DESIGN CHOICE, notes/assumptions/32.md). -/
def roleTower (pool free : List Nat) (n : Nat) : Nat :=
  let count (ls : List Nat) (t : Nat) : Nat := (ls.filter (fun l => decide (l / 48 = t))).length
  let there := [0, 1, 2, 3].filter (fun t => decide (0 < count pool t))
  let most := maxNat (there.map (count free))
  ((there.find? (fun t => decide (n ≤ count free t))).orElse fun _ => there.find? (fun t => decide (count free t = most))).getD 0

/-- The lanterns of a role's replicas, from the free ones (R160); what is missing runs in turn on the lowest-numbered
lanterns (R163), of its tower where it is kept in one. The extra replicas take the highest numbers j: R162 counts replicas
in lantern order and does not say where a second one on a lantern stands (DESIGN CHOICE, notes/assumptions/32.md). -/
def roleLanterns (pool free : List Nat) (n : Nat) : List Nat :=
  let here (ls : List Nat) : List Nat := if n ≤ 48 then ls.filter (fun l => decide (l / 48 = roleTower pool free n)) else ls
  let take := (here free).take n
  take ++ (List.range (n - take.length)).map (fun k => (here pool).getD (k % max (here pool).length 1) 0)

/-- The units of a role at a block position that are no padded heads (R307): where the outputs of its lens descriptors are
divided by TENSOR into as many head slots as it has units, a unit is a head slot (DESIGN CHOICE, notes/assumptions/32.md). -/
def liveUnits (s : State) (d : MDesc) (p : Parsed) (pos : Nat) (r : Role) : Nat :=
  let outs := ((r.entries.drop r.pre).take r.unitLen).filterMap (fun e =>
    if e.kind = 1 then ((p.lens[e.arg]?).bind (fun x => tensorById p.tensors x.tensor)) else none)
  (outs.filterMap (fun t =>
    let h := shareOf s d p pos t
    let u := max (dimUnit t) 1
    h.live.bind (fun n => if h.dims.getD t.sdim 0 / u = r.units then some (ceilDiv n u) else none))).foldl min r.units

/-- The replicas of every role, in bundle order. live says how many units of a role are no padded heads. -/
def placeRoles (live : Role → Nat) (pool : List Nat) : List Nat → Nat → List Role → List Replica
  | _, _, [] => []
  | free, k, r :: rs =>
    let ls := roleLanterns pool free r.replicas
    (ls.zipIdx.map (fun p =>
      let q := divideUnits r.units r.replicas p.2
      (⟨k, p.2, p.1, q.1, q.2, min q.2 (live r - q.1)⟩ : Replica))) ++ placeRoles live pool (free.filter (fun l => !ls.contains l)) (k + 1) rs

/-- Address registers through which an instruction loads. -/
def loadRegs (i : VIns) : List Nat :=
  let n := i.f.imm.toNat
  if i.op = 0x68 then [bits n 2 0, bits n 5 3] else if i.op = 0x6A ∨ i.op = 0x6C then [bits n 2 0] else []

/-- Tensor ids that an entry of a template reads (R160), or those that it writes. -/
def entryTensors (p : Parsed) (writes : Bool) (e : SchedEntry) : List Nat :=
  match e.kind with
  | 2 =>
    (match p.bindings[e.arg]? with
    | none => []
    | some b =>
      let is := insOfChain (p.chains.getD b.chain ⟨[], [], [], 0, false⟩)
      let ks := if writes then (is.flatMap storeRegs).map (·.1) else is.flatMap loadRegs
      (b.abase.zipIdx.filter (fun q => ks.contains q.2)).filterMap (fun q => refTensor p q.1))
  | 3 => ((p.dma[e.arg]?).map (fun ds => ((ds.flatMap dmaFields).filter (fun f => f.2 == writes)).filterMap (fun f => refTensor p f.1))).getD []
  | 5 => ((p.colls[e.arg]?).map (fun d => (if writes then [d.dst, d.lens] else [d.src, d.lens]).filterMap (refTensor p))).getD []
  | 7 => ((p.updates[e.arg]?).map (fun u => (if writes then [u.param, u.stats] else [u.param, u.grad, u.touch]) ++ u.states)).getD []
  | _ => []

/-- Lanterns whose work reads a tensor (R160); of one that nothing reads, those that write it (DESIGN CHOICE,
notes/assumptions/32.md). -/
def readersOf (p : Parsed) (reps : List Replica) (id : Nat) : List Nat :=
  let those (writes : Bool) : List Nat :=
    distinct ((reps.filter (fun r =>
      ((p.roles.getD r.role ⟨0, 1, 0, 0, 0, 0, [], true⟩).entries.flatMap (entryTensors p writes)).contains id)).map (·.lantern))
  if (those false).isEmpty then those true else those false

/-! ### Placing (R159 to R161, R164, R218, R239, R249, R358) -/

/-- Tiers that a KIND permits, in order (R159). -/
def kindTiers (k : Nat) : List Nat :=
  match k with
  | 0 => [1, 2]
  | 1 => [2, 1]
  | 2 => [1, 2]
  | 3 => [2]
  | 4 => [2]
  | 5 => [1, 2]
  | 6 => [2]
  | 7 => [1, 2]
  | 8 => [1, 2]
  | 9 => [2]
  | 10 => [1]
  | _ => []

/-- The tier that a TIER hint asks for, if the KIND permits it. -/
def hintedTier (p : Parsed) (t : Tensor) : List Nat :=
  match p.hints.find? (fun h => h.typ == 1 && h.target == t.id && hintOk h) with
  | some h => if h.value ≠ 0 ∧ (kindTiers t.kind).contains h.value then [h.value] else []
  | none => []

/-- The home of a tier for given readers (R160): the lowest tower that reads it; the half of most readers. -/
def homeFor (homes : List Home) (readers : List Nat) (tier : Nat) : Option Nat :=
  let own (k : Nat) : Option Nat := findIdx (fun h => h.tier == tier && h.idx == k) homes
  let first : Option Nat := findIdx (fun h => h.tier == tier) homes
  if tier = 1 then
    match [0, 1, 2, 3].find? (fun t => (own t).isSome && readers.any (fun l => decide (l / 48 = t))) with
    | some t => own t
    | none => first
  else
    let north := (readers.filter (fun l => decide (l / 48 < 2))).length
    match own (if readers.length ≤ 2 * north then 0 else 1) with
    | some k => some k
    | none => first

/-- A placement under way: bytes used of each home. -/
structure Placing where
  homes : List Home
  room  : List Nat
  used  : List Nat

/-- Take n bytes of a home: its offset. -/
def takeHome (q : Placing) (k n : Nat) : Option (Placing × Nat) :=
  if q.used.getD k 0 + n ≤ q.room.getD k 0 then some ({ q with used := q.used.modify k (· + n) }, q.used.getD k 0) else none

/-- Put n bytes into the first tier of a list that has room: home and offset, or the tier and bytes missing. -/
def putBytes (q : Placing) (readers : List Nat) (n : Nat) : List Nat → Except (Nat × Nat) (Placing × Nat × Nat)
  | [] => .error (2, n)
  | t :: ts =>
    match homeFor q.homes readers t with
    | none => if ts.isEmpty then .error (t, n) else putBytes q readers n ts
    | some k =>
      match takeHome q k n with
      | some r => .ok (r.1, k, r.2)
      | none => if ts.isEmpty then .error (t, q.used.getD k 0 + n - q.room.getD k 0) else putBytes q readers n ts

/-- A shard as it is put: sizes, home, offset. -/
structure PutShard where
  mbytes : Nat
  sbytes : Nat
  elems  : Nat
  copies : Nat
  home   : Nat
  off    : Nat

/-- Put the shards of the tensors in table order; a tensor of a stage of another member takes nothing. -/
def putShards (p : Parsed) (readers : Nat → List Nat) (dims : Tensor → Nat × Nat × Nat) (train : Bool) :
    List Tensor → Placing → Except (Nat × Nat) (Placing × List PutShard)
  | [], q => .ok (q, [])
  | t :: ts, q =>
    let z := dims t
    let copies := if train ∧ (t.kind = 9 ∨ t.kind = 10) then 2 else 1
    let need := (round4K z.1 + round4K z.2.1) * copies
    match putBytes q (readers t.id) need (hintedTier p t ++ kindTiers t.kind) with
    | .error e => .error e
    | .ok (q1, k, o) =>
      match putShards p readers dims train ts q1 with
      | .error e => .error e
      | .ok (q2, ps) => .ok (q2, ⟨z.1, z.2.1, z.2.2, copies, k, o⟩ :: ps)

/-- Put areas of LPDDR5X of given sizes, each in the half of its readers. -/
def putAreas : List (List Nat × Nat) → Placing → Except (Nat × Nat) (Placing × List (Nat × Nat))
  | [], q => .ok (q, [])
  | a :: as, q =>
    match putBytes q a.1 (round4K a.2) [2] with
    | .error e => .error e
    | .ok (q1, k, o) =>
      match putAreas as q1 with
      | .error e => .error e
      | .ok (q2, r) => .ok (q2, (k, o) :: r)

/-- Bytes of the undo area of an update descriptor (R239), with the direction area of CLASS 0x04 (R249). -/
def undoBytes (p : Parsed) (dims : Tensor → Nat × Nat × Nat) (u : UpdDesc) : Nat :=
  let size (id : Nat) : Nat × Nat × Nat := ((tensorById p.tensors id).map dims).getD (0, 0, 0)
  let both (id : Nat) : Nat := let z := size id; round4K z.1 + round4K z.2.1
  both u.param + sumNat ((namedStates u).map both) + round4K (8 * (size u.param).2.1) +
  sumNat (u.states.zipIdx.map (fun q =>
    if q.1 ≠ 0xFFFFFFFF ∧ !rowState u q.2 then round4K (8 * ceilDiv (size q.1).2.2 32) else 0)) +
  (if u.cls = 4 then both u.param else 0)

/-- The tender axis of a mooring (R357): the inner DATA axis, else the first of X, Y, Z, W that is wide. -/
def tenderAxis (d : MDesc) : Option Nat :=
  match [0, 1, 2, 3].find? (fun a => (axisAt d a).role == 4 && decide (1 < (axisAt d a).extent)) with
  | some a => some a
  | none => [1, 2, 3, 0].find? (fun a => decide (1 < (axisAt d a).extent))

/-- The positions whose copies position node keeps (R357). -/
def keptFor (s : State) (d : MDesc) (node : Nat) : List Nat :=
  match tenderAxis d with
  | none => []
  | some a =>
    let n := (axisAt d a).extent
    let j := memberIdx s d node a
    let at_ (i : Nat) : Nat := nodeOf (setAt (coordsOf node) a ((axisCoords s d a).getD i 0))
    if (axisAt d a).ring then [at_ ((j + 1) % n)]
    else (if j + 1 < n then [at_ (j + 1)] else []) ++ (if j = 1 then [at_ 0] else [])

/-- Is a tensor held at a position: of every stage, or of one that the position runs (R308)? -/
def stageHere (s : State) (d : MDesc) (p : Parsed) (node : Nat) (t : Tensor) : Bool :=
  t.stage == 0xFFFFFFFF ||
  (let sp := roleSpan s d node 3
   let r := stagesOf p sp.1 sp.2
   decide (r.1 ≤ t.stage) && decide (t.stage < r.1 + r.2))

/-- Bytes of the state that a position owns: shards of KIND 3 and 4 of its stages, with their headers (R357, R358). -/
def ownedSizes (s : State) (d : MDesc) (p : Parsed) (node : Nat) (ts : List Tensor) : Nat :=
  sumNat ((ts.filter (fun t => (t.kind == 3 || t.kind == 4) && stageHere s d p node t)).map (fun t =>
    let z := shardBytes p [] (shareOf s d p node t)
    round4K z.1 + round4K z.2.1 + 32))

/-- Those of all its tensors. -/
def ownedBytes (s : State) (d : MDesc) (p : Parsed) (node : Nat) : Nat := ownedSizes s d p node p.tensors

/-- Where the kept copy of a shard lies in an area that holds the state that a position owns (R357, R358). -/
def ownedPlace (s : State) (d : MDesc) (p : Parsed) (node base k : Nat) (t : Tensor) : Placed :=
  let z := shardBytes p [] (shareOf s d p node t)
  let a := base + ownedSizes s d p node (p.tensors.take k)
  ⟨a, a + round4K z.1, z.2.2, z.1, z.2.1, none⟩

/-- The replicas, shards and areas of a bundle at a block position in the homes of the sector, with the undo areas
and the areas of kept copies; or the tier and the bytes missing. -/
def layBundle (s : State) (d : MDesc) (p : Parsed) (node : Nat) (raised : List Nat) (taken : List (Nat × Nat)) :
    Except (Nat × Nat) (List PutShard × (List (Nat × Nat) × List (Nat × Nat)) × List Nat) :=
  let homes := homesOf s d.split d.sector
  let pool := sectorLanterns s d.split d.sector
  let reps := placeRoles (·.units) pool pool 0 p.roles
  let dims (t : Tensor) : Nat × Nat × Nat :=
    if stageHere s d p node t then shardBytes p raised (shareOf s d p node t) else (0, 0, 0)
  let stages := roleSpan s d node 3
  let train := decide (d.kind = 0)
  if (pool.isEmpty && !p.roles.isEmpty) then .error (0, 2 ^ 22)
  else if 1 < stages.1 ∧ stageCount p < stages.1 then .error (0, 0)
  else
    match putShards p (readersOf p reps) dims train p.tensors ⟨homes, homes.map (fun h => homeRoom h taken), homes.map (fun _ => 0)⟩ with
    | .error e => .error e
    | .ok (q, ps) =>
      let undo := p.updates.map (fun u => (readersOf p reps u.param, undoBytes p dims u))
      let tender := if train then (keptFor s d node).map (fun k => (([] : List Nat), 2 * ownedBytes s d p k)) else []
      match putAreas (undo ++ tender) q with
      | .error e => .error e
      | .ok (q2, areas) => .ok (ps, (areas.take undo.length, areas.drop undo.length), q2.used)

/-- Bytes used of each home by the members of a node's carrier, the greatest of each (R161): a region has one size on all
of them. -/
def carrierUse (s : State) (d : MDesc) (p : Parsed) (raised : List Nat) (taken : List (Nat × Nat)) :
    List Nat → List Nat → Except (Nat × Nat) (List Nat)
  | [], use => .ok use
  | n :: ns, use =>
    match layBundle s d p n raised taken with
    | .error e => .error e
    | .ok r => carrierUse s d p raised taken ns (use.zipIdx.map (fun q => max q.1 (r.2.2.getD q.2 0)))

/-- Place a bundle at a block position (R158 to R164): the placement, or the tier and the bytes missing. taken are the
ranges that are not free on this module and on the other members of its carrier: each region takes the lowest range that
is free on all of them (R161). -/
def placeBundle (s : State) (d : MDesc) (p : Parsed) (node : Nat) (raised : List Nat) (taken : List (Nat × Nat)) :
    Except (Nat × Nat) Placement :=
  let homes := homesOf s d.split d.sector
  let pool := sectorLanterns s d.split d.sector
  match layBundle s d p node raised taken with
  | .error e => .error e
  | .ok (ps, areas, own) =>
    match carrierUse s d p raised taken ((blockNodes s d).filter (fun n => sameCarrier n node && n != node)) own with
    | .error e => .error e
    | .ok use =>
      let base (k : Nat) : Nat := ((homes[k]?).map (fun h => lowestFit h taken (use.getD k 0))).getD 0
      .ok { tensors := ps.map (fun x =>
              let b := base x.home + x.off
              let one := round4K x.mbytes + round4K x.sbytes
              let sb (a : Nat) : Nat := if x.sbytes = 0 then 0 else a + round4K x.mbytes
              ⟨b, sb b, x.elems, x.mbytes, x.sbytes, if x.copies = 2 then some (b + one, sb (b + one)) else none⟩),
            replicas := placeRoles (liveUnits s d p node) pool pool 0 p.roles,
            regions := ((List.range homes.length).filter (fun k => decide (0 < use.getD k 0))).map (fun k => (base k, use.getD k 0)),
            undo := areas.1.map (fun a => base a.1 + a.2),
            tender := areas.2.map (fun a => base a.1 + a.2) }

/-! ### Windows (R23, R161) -/

/-- The W coordinates of a mooring in this carrier, first and last: a block that wraps past the end of the axis (R289) is
one range whose last coordinate lies below its first. -/
def wRange (s : State) (d : MDesc) : Nat × Nat :=
  let x := axisAt d 0
  let n := max (s.boot.sizes.getD 0 1) 1
  (x.origin, (x.origin + x.extent - 1) % n)

/-- The allocation windows of a mooring's lanterns. -/
def windowsOf (s : State) (d : MDesc) (regions : List (Nat × Nat)) : List Window :=
  let ts := sectorTowers d.split d.sector
  let own := regions.map (fun r => Window.span r.1 r.2) ++
    [Window.stores (48 * ts.headD 0) (48 * ts.getLastD 0 + 47)]
  own ++ (if 1 < (axisAt d 0).extent then own.map (fun w => Window.peer w (wRange s d).1 (wRange s d).2) else [])

/-! ### Schedules (R153, R162, R206, R207) -/

/-- Does rung r of a ladder leave entry k of a role out? -/
def leftOut (p : Parsed) (ladders : List Ladder) (role k : Nat) : Bool :=
  p.ladders.zipIdx.any (fun q =>
    q.1.role == role &&
    (match (ladderIdx p q.1.tensor).bind (fun i => ladders[i]?) with
      | none => false
      | some d =>
        if d.curRung < 4 then decide (q.1.first16 ≤ k) && decide (k < q.1.first16 + q.1.count16)
        else decide (q.1.first8 ≤ k) && decide (k < q.1.first8 + q.1.count8)))

/-- The placed template of a replica: PRE, its unit blocks, POST. Phantoms fill it up (R162), and a padded head's block runs
masked as they do: its vectors are zeros, its columns are discarded and it stores nothing (R307). -/
def placedTemplate (p : Parsed) (ladders : List Ladder) (r : Role) (units : Nat) : List SchedEntry :=
  let keep := (r.entries.zipIdx.filter (fun q => !leftOut p ladders r.role q.2))
  let pre := (keep.filter (fun q => decide (q.2 < r.pre))).map (·.1)
  let unit := (keep.filter (fun q => decide (r.pre ≤ q.2) && decide (q.2 < r.pre + r.unitLen))).map (·.1)
  let post := (keep.filter (fun q => decide (r.pre + r.unitLen ≤ q.2))).map (·.1)
  let blocks := ((List.range (unitBlocks r)).map (fun b => unit.map (fun e => { e with phantom := decide (units ≤ b) }))).flatten
  (takeThrough (fun e => e.kind == 0) (pre ++ blocks ++ post)).1

/-- A replica's part of its lantern's schedule. -/
def replicaPart (p : Parsed) (ladders : List Ladder) (r : Replica) : List SchedEntry :=
  (placedTemplate p ladders (p.roles.getD r.role ⟨0, 1, 0, 0, 0, 0, [], true⟩) r.live).filter (fun e => e.kind != 0)

/-- The replicas that a lantern runs in turn (R163). -/
def turnsOf (pl : Placement) (l : Nat) : List Replica := pl.replicas.filter (fun r => r.lantern == l)

/-- The schedule of a lantern for the replica whose turn it is, with its END (R154, R163). -/
def lanternSchedule (p : Parsed) (ladders : List Ladder) (pl : Placement) (l turn : Nat) : List SchedEntry :=
  (((turnsOf pl l)[turn]?).map (replicaPart p ladders)).getD [] ++ [⟨0, 0, 0, 4, 0, false⟩]

/-- The replica whose turn it is on a lantern, with its role. -/
def replicaNow (s : State) (p : Parsed) (pl : Placement) (l : Nat) : Option (Replica × Role) :=
  ((turnsOf pl l)[(lanternAt s l).turn]?).bind (fun r => (p.roles[r.role]?).map (fun x => (r, x)))

/-! ### References (R152) -/

/-- The mantissa and scale arrays of a tensor that step t uses: of one placed twice, the copy of the step's parity (R218). -/
def stepCopy (m : Mooring) (t : Placed) : Nat × Nat :=
  match t.alt with
  | some x => if m.step % 2 = 1 then x else (t.mbase, t.sbase)
  | none => (t.mbase, t.sbase)

/-- The module address that an address field stands for on a lantern in a step: a reference to a tensor of KIND 9
or 10 of a training mooring names the copy of the step's parity (R218). One that names nothing is left. -/
def resolveAddr (m : Mooring) (l v : Nat) : Nat :=
  if !isRef v then v
  else if bits v 59 32 = 0x0FFFFFFF then storeAddr l (bits v 31 0)
  else match m.place.tensors[bits v 59 32]? with
    | none => v
    | some t => (if bit v 60 then (stepCopy m t).2 else (stepCopy m t).1) + bits v 31 0

def resolveBinding (m : Mooring) (l : Nat) (b : Binding) : Binding :=
  { b with abase := b.abase.map (resolveAddr m l) }

def resolveDma (m : Mooring) (l : Nat) : DmaDesc → DmaDesc
  | .move d => .move { d with
      src := resolveAddr m l d.src
      dst := resolveAddr m l d.dst
      scaleS := resolveAddr m l d.scaleS
      scaleD := resolveAddr m l d.scaleD }
  | .move3 d => .move3 { d with
      src := resolveAddr m l d.src
      dst := resolveAddr m l d.dst }
  | d => d

def resolveColl (m : Mooring) (l : Nat) (d : CollDesc) : CollDesc :=
  { d with
    src := resolveAddr m l d.src
    dst := resolveAddr m l d.dst
    lens := resolveAddr m l d.lens }

/-! ### Checks of a placed bundle (R152, R157, R185, R233, R236, R251, R293) -/

/-- Does an address lie within some windows, as work of a tenant may use it (R22, R23)? -/
def inWindows (s : State) (ws : List Window) (v : Nat) : Bool :=
  let a := bits v 55 0
  let w := bits v 60 58
  match bits v 63 61 with
  | 0 => decide (bits v 60 56 = 0) && ws.any (windowCovers a 1 none false)
  | 1 => decide (bits v 57 56 = 0) &&
      (if w = s.boot.coords.getD 0 0 then ws.any (fun x => windowCovers a 1 none false x || windowCovers a 1 (some w) true x)
       else ws.any (windowCovers a 1 (some w) true))
  | _ => false

/-- Does a reference lie inside its placed shard (R152)? A tensor that this position does not hold has none. -/
def refPlaced (s : State) (d : MDesc) (p : Parsed) (node : Nat) (pl : Placement) (v : Nat) : Bool :=
  let k := bits v 59 32
  if !isRef v ∨ k = 0x0FFFFFFF then true
  else match p.tensors[k]?, pl.tensors[k]? with
    | some t, some x => !stageHere s d p node t || decide (bits v 31 0 < if bit v 60 then x.sbytes else x.mbytes)
    | _, _ => false

/-- The address fields that a DMA descriptor uses. -/
def dmaUsed : DmaDesc → List Nat
  | .move d => [d.src, d.dst] ++ (if d.compress = 1 ∨ d.compress = 3 then [d.scaleS] else []) ++
      (if d.compress = 2 ∨ d.compress = 3 then [d.scaleD] else [])
  | .move3 d => [d.src, d.dst]
  | _ => []

/-- The address fields that a collective uses: a SEND has no destination, a RECV no source. -/
def collUsed (d : CollDesc) : List Nat :=
  (if d.op = 6 then [] else [d.src]) ++ (if d.op = 5 then [] else [d.dst]) ++ (if d.op = 7 then [d.lens] else [])

/-- The bytes of one array of a placed tensor. -/
def arraysOf (x : Placed) : List (Nat × Nat) :=
  let both (a : Nat × Nat) : List (Nat × Nat) := [(a.1, x.mbytes), (a.2, x.sbytes)]
  both (x.mbase, x.sbase) ++ ((x.alt.map both).getD [])

/-- The local addresses that an address field stands for when the bundle is placed: one for each copy of a tensor placed
twice (R218), none for the running lantern's store. -/
def placedAddrs (pl : Placement) (v : Nat) : List Nat :=
  if !isRef v then [bits v 55 0]
  else match pl.tensors[bits v 59 32]? with
    | none => []
    | some x => ((x.mbase, x.sbase) :: x.alt.toList).map (fun b => (if bit v 60 then b.2 else b.1) + bits v 31 0)

/-- Rows that a replica of a role runs of an update descriptor's owned rows, phantom row included (R230, R232). -/
def updateRows (h : Share) (replicas : Nat) : Nat := ceilDiv h.n (max replicas 1)

/-- May a store of a user chain reach the shard of PARAM or of a named state, or their scale arrays, over the rows that a
replica runs here and the tail (R251)? -/
def userMeets (s : State) (d : MDesc) (p : Parsed) (node : Nat) (pl : Placement) (i : Nat) (u : UpdDesc) : Bool :=
  match p.chains[u.chain]?, userBinding p u.chain with
  | some c, some b =>
    let n := ((tensorById p.tensors u.param).map (fun t =>
      if stageHere s d p node t then updateRows (shareOf s d p node t) (updReplicas p i) else 0)).getD 0
    let kept := (u.param :: namedStates u).flatMap (fun id =>
      (((tensorIdx p.tensors id).bind (fun k => pl.tensors[k]?)).map arraysOf).getD [])
    decide (0 < n) && (insOfChain c).any (fun i => (storeRegs i).any (fun k =>
      (placedAddrs pl (b.abase.getD k.1 0)).any (fun a =>
        let o : Int := sext 15 (bits i.f.imm.toNat 23 9) * (k.2 : Int)
        let far : Int := (n : Int) * b.astep.getD k.1 0
        let lo : Int := (a : Int) + o + min 0 far
        let hi : Int := (a : Int) + o + max 0 far + k.2
        kept.any (fun r => decide (0 < r.2) && decide (lo < (r.1 + r.2 : Nat)) && decide ((r.1 : Int) < hi)))))
  | _, _ => false

/-- Are the statistics tensor and the touch map of an update large enough in this module's shard (R233, R236): 2,048 bytes for
each replica, where this position holds the tensor at all (R308), and one bit for each block of PARAM's shard? -/
def updSized (s : State) (d : MDesc) (p : Parsed) (node : Nat) (pl : Placement) (i : Nat) (u : UpdDesc) : Bool :=
  let bytes (id : Nat) : Nat := (((tensorIdx p.tensors id).bind (fun k => pl.tensors[k]?)).map (·.mbytes)).getD 0
  let blocks : Nat := (((tensorIdx p.tensors u.param).bind (fun k => pl.tensors[k]?)).map (fun x => x.elems / 32)).getD 0
  (!bit u.flags 1 || decide (2048 * updReplicas p i ≤ bytes u.stats) ||
    !((tensorById p.tensors u.stats).map (stageHere s d p node)).getD true) &&
  (u.touch == 0xFFFFFFFF || decide (blocks ≤ 8 * bytes u.touch))

/-- Does a SIGNAL name a lantern that is not the mooring's (R185, check 6)? -/
def signalsOut (s : State) (d : MDesc) : DmaDesc → Bool
  | .signal _ _ lantern _ => lantern != 0xFF && !(sectorLanterns s d.split d.sector).contains lantern
  | _ => false

/-- The checks of R157 that need the placement: references inside their shards (R152), addresses of DMA programs and
collectives inside the windows, SIGNALs inside the mooring (R185, R293), collectives along roles that the sector table assigns (R293), sizes in the
shard (R233), the stores of user chains (R251). -/
def placeRefusal (s : State) (d : MDesc) (p : Parsed) (node : Nat) (pl : Placement) : Option LoadErr :=
  let ws := windowsOf s d pl.regions
  let bad (v : Nat) : Bool := !refPlaced s d p node pl v || (!isRef v && !inWindows s ws v)
  (firstErr p.dma (fun i ds => errIf ((ds.flatMap dmaUsed).any bad || ds.any (signalsOut s d)) 7 5 i)).orElse fun _ =>
  (firstErr p.colls (fun i c => errIf ((collUsed c).any bad || !d.axes.any (fun x => x.role == c.role)) 7 7 i)).orElse fun _ =>
  (firstErr p.updates (fun i u => errIf (!updSized s d p node pl i u || (u.cls == 0x0F && userMeets s d p node pl i u)) 7 8 i)).orElse fun _ =>
  firstErr p.bindings (fun i b => errIf (b.abase.any (fun v => !refPlaced s d p node pl v)) 9 4 i)

end Sys2Proof.Machine
end

