-- ==== Sys2Proof/Machine/Update.lean ====
section
/-! DEFINITION. Machine/Update.lean: the sharded parameter update: update rows, constants, rule classes, undo
copies and their restoring, and the start, the rows and the retirement of bindings (R114, R117 to R119, R228, R230
to R253). -/

namespace Sys2Proof.Machine

/-! ### Shards here -/

/-- A tensor's share on this module and its place. -/
structure ShardAt where
  h  : Share
  pl : Placed

/-- The block position that this module stands at in a mooring (R335). -/
def herePos (s : State) (m : Mooring) : Nat := positionOf m.subs (selfNode s)

def shardAt (s : State) (m : Mooring) (p : Parsed) (id : Nat) : Option ShardAt :=
  match tensorIdx p.tensors id with
  | none => none
  | some k =>
    match p.tensors[k]?, m.place.tensors[k]? with
    | some t, some pl => some ⟨shareOf s m.desc p (herePos s m) t, pl⟩
    | _, _ => none

def shardFmt (x : ShardAt) : Fmt := fmtOf x.h.t.fmt

/-- Mantissa and scale addresses of a block of a shard (R27). -/
def blockAddrs (x : ShardAt) (b : Nat) : Nat × Nat :=
  let k := heldIndex x.h b
  (x.pl.mbase + k * blockBytes (shardFmt x), x.pl.sbase + k)

/-- Address of the record of an element, by its coordinates in the share. -/
def recAddr (x : ShardAt) (c : List Nat) : Nat := x.pl.mbase + 16 * heldElemIndex x.h (linearOf c x.h.dims)

/-! ### Update rows (R230, R232, R237) -/

/-- The shape of an update row: its blocks by lane group, the coordinates of lane 0, its elements. -/
structure RowGeom where
  blocks : List (Nat × Nat)
  coords : List Nat
  len    : Nat

/-- Row u of a share whose rows run along an axis. -/
def rowGeom (dims : List Nat) (a u : Nat) : RowGeom :=
  let x := aboutAxis dims a
  let nb := ceilDiv x.2.1 32
  let inner := max x.2.2 1
  let i := u % inner
  let k := u / inner % max (ceilDiv x.2.1 128) 1
  let o := u / inner / max (ceilDiv x.2.1 128) 1
  { blocks := (List.range 4).filterMap (fun q => if 4 * k + q < nb then some (q, (o * nb + 4 * k + q) * inner + i) else none),
    coords := coordsIn (dims.take a) o ++ [128 * k] ++ coordsIn (dims.drop (a + 1)) i,
    len := min 128 (x.2.1 - 128 * k) }

/-- Coordinates of lane c of a row. -/
def laneCoords (g : RowGeom) (a c : Nat) : List Nat := g.coords.modify a (· + c)

/-- Rows of a 128 x 128 tile of a rank-2 share (R230). -/
def tileRows (h : Share) (t : Nat) : List Nat :=
  let rows := h.dims.getD 0 1
  let cols := h.dims.getD 1 1
  let nc := max (ceilDiv cols 128) 1
  let ti := t / nc
  let tj := t % nc
  if h.axis = 1 then (List.range (min 128 (rows - 128 * ti))).map (fun r => (128 * ti + r) * nc + tj)
  else (List.range (min 128 (cols - 128 * tj))).map (fun r => ti * cols + 128 * tj + r)

/-- Rows that a module owns of a master, in row order. -/
def ownedRows (h : Share) : List Nat :=
  match h.unit with
  | 1 => (List.range h.n).map (h.lo + ·)
  | 2 => (List.range (unitCount 1 h.axis h.dims)).filter (fun u =>
      let ln := linearOf (rowGeom h.dims h.axis u).coords.dropLast h.dims.dropLast
      decide (h.lo ≤ ln) && decide (ln < h.lo + h.n))
  | 3 => ((List.range h.n).map (h.lo + ·)).flatMap (tileRows h)
  | _ => List.range (unitCount 1 h.axis h.dims)

/-- Lanes for which p holds. -/
def maskOf (p : Nat → Bool) : BitVec 128 :=
  (List.range 128).foldl (fun w c => if p c then w ||| (1#128 <<< c) else w) 0

/-- The record of a lane's element decides that its block is touched (R237). -/
def recTouches (s : State) (a : Nat) : Bool :=
  isPoisoned s a 16 || (let r := recOfBytes (readMem s a 16); !r.z || r.o)

/-- Is block b, in lane group q of a row, touched (R237)? -/
def blockTouched (s : State) (m : Mooring) (p : Parsed) (u : UpdDesc) (x : ShardAt) (g : RowGeom) (q b : Nat) : Bool :=
  match shardAt s m p u.touch with
  | some t =>
    let k := heldIndex x.h b
    let a := (stepCopy m t.pl).1 + k / 8
    isPoisoned s a 1 || bit (readByte s a).toNat (k % 8)
  | none =>
    match shardAt s m p u.grad with
    | none => false
    | some gr => ((groupLanes q).filter (· < g.len)).any (fun c => recTouches s (recAddr gr (laneCoords g x.h.axis c)))

/-- Lanes of the touched blocks of a row. -/
def rowTouched (s : State) (m : Mooring) (p : Parsed) (u : UpdDesc) (x : ShardAt) (rid : Nat) : BitVec 128 :=
  let g := rowGeom x.h.dims x.h.axis rid
  let qs := (g.blocks.filter (fun qb => blockTouched s m p u x g qb.1 qb.2)).map (·.1)
  maskOf (fun c => decide (c < g.len) && qs.contains (c / 32))

def groupOf_ (p : Parsed) (u : UpdDesc) : Option Group := p.groups.find? (fun g => g.group == u.group)

/-- Has an update's group begun (R237)? -/
def updateDue (m : Mooring) (p : Parsed) (u : UpdDesc) : Bool := ((groupOf_ p u).map (fun g => decide (g.pstart ≤ m.step))).getD false

/-- Given rows with the lanes of their touched blocks; none is touched before the group's first step. -/
def touchedRows (s : State) (m : Mooring) (p : Parsed) (u : UpdDesc) (x : ShardAt) (rows : List Nat) :
    List (Nat × BitVec 128) :=
  rows.map (fun r => (r, if updateDue m p u then rowTouched s m p u x r else 0))

/-- The rows that replica j of n runs: the owned rows in row order, divided by R162 (R232). -/
def replicaRows (h : Share) (n j : Nat) : List Nat :=
  let rows := ownedRows h
  let q := divideUnits rows.length n j
  (rows.drop q.1).take q.2

/-- The reads of the touch map for the given rows that meet a poisoned line (R143, R237): none before the group's first step. -/
def noteTouch (s : State) (l : Nat) (m : Mooring) (p : Parsed) (u : UpdDesc) (x : ShardAt) (rows : List Nat) : State :=
  match shardAt s m p u.touch with
  | none => s
  | some t =>
    if s.poison.isEmpty || !updateDue m p u then s
    else rows.foldl (fun s r => (rowGeom x.h.dims x.h.axis r).blocks.foldl (fun s qb =>
      notePoison s l ((stepCopy m t.pl).1 + heldIndex x.h qb.2 / 8) 1) s) s

/-! ### Curves and constants (R235, R245) -/

/-- A curve at a step (R235). -/
def curveAt (c : Curve) (t : Nat) : Int × Int :=
  match c.pts with
  | [] => (0, c.exp)
  | p0 :: rest =>
    let pn := rest.getLastD p0
    if t ≤ p0.1 then (p0.2, c.exp)
    else if pn.1 ≤ t then (pn.2, c.exp)
    else
      let j := ((c.pts.filter (fun p => decide (p.1 ≤ t))).length) - 1
      let a := c.pts.getD j p0
      let b := c.pts.getD (j + 1) p0
      if c.mode = 1 then (a.2, c.exp)
      else (a.2 + nearestEven ((b.2 - a.2) * ((t : Int) - a.1)) ((b.1 : Int) - a.1), c.exp)

def curveById (p : Parsed) (id t : Nat) : Int × Int := ((p.curves.find? (fun c => c.curve == id)).map (curveAt · t)).getD (0, 0)

/-- norm32 of R245. -/
def norm32 (x : Int) (g : Int) : Int × Int :=
  let k := bitLen x.natAbs - 31
  let y := shiftRound x k false 0
  if y.natAbs = 2 ^ 31 then (y / 2, g + k + 1) else (y, g + k)

/-- The loop of qpow (R245), by the bits of p. -/
def qpowLoop : Nat → Int → Int → Nat → Int
  | 0, r, _, _ => r
  | n + 1, r, x, p =>
    if p = 0 then r
    else
      let q62 : Int := ((2 ^ 62 : Nat) : Int)
      qpowLoop n (if p % 2 = 1 then nearestEven (r * x) q62 else r) (nearestEven (x * x) q62) (p / 2)

/-- (b / 2^32)^p in q62 (R245). -/
def qpow (b p : Nat) : Int := qpowLoop 64 ((2 ^ 62 : Nat) : Int) ((b * 2 ^ 30 : Nat) : Int) p

/-- The constants of a group for step t, v56 to v63 (R245). -/
def constants (p : Parsed) (g : Group) (cls t : Nat) : List (Int × Int) :=
  let n := t + 1 - g.pstart
  let lr := curveById p g.lr t
  let wd := if g.wd = 0xFFFFFFFF then (0, 0) else curveById p g.wd t
  let om (b : Nat) : Int := ((2 ^ 62 : Nat) : Int) - qpow b n
  let len (b : Nat) : Nat := bitLen (om b).natAbs
  let c (b : Nat) : Int := nearestEven ((2 ^ (len b + 30) : Nat) : Int) (om b)
  [(g.b1, -32), ((2 ^ 32 - g.b1 : Nat), -32), (g.b2, -32), ((2 ^ 32 - g.b2 : Nat), -32),
   (if cls = 1 ∨ cls = 4 then norm32 lr.1 lr.2 else norm32 (lr.1 * c g.b1) (lr.2 + 32 - len g.b1)),
   norm32 (c g.b2) (32 - (len g.b2 : Int)), (1, g.epsx), norm32 (lr.1 * wd.1) (lr.2 + wd.2)]

/-- A register with every lane equal. -/
def constReg (c : Int × Int) : VReg := ⟨List.replicate 128 ⟨BitVec.ofInt 64 c.1, false⟩, [c.2, c.2, c.2, c.2]⟩

/-- The constants loaded into v56 to v63 (R238). -/
def loadConstants (v : VEngine) (cs : List (Int × Int)) : VEngine :=
  { v with regs := v.regs.zipIdx.map (fun p =>
    match (if 56 ≤ p.2 then cs[p.2 - 56]? else none) with
    | some c => constReg c
    | none => p.1) }

/-! ### The class bodies (R246 to R249) -/

def ins3 (op vd va vb imm : Nat) : VIns := ⟨op, ⟨vd, va, vb, 0, 0, BitVec.ofNat 24 imm⟩, true⟩

/-- REQ into B32, MAXFIT, h = 0, use code 0x05, rounding by RMODE (R246). -/
def reqIns (u : UpdDesc) (vd va : Nat) : VIns := ins3 0x50 vd va 0 (3 + 32 * (u.flags % 2) + 5 * 2 ^ 14)

def mulsh32 (vd va vb : Nat) : VIns := ins3 0x15 vd va vb 32

/-- Instructions 1 to 6 of R246; the momentum class leaves out instruction 4 (R247). -/
def momentIns (u : UpdDesc) : List VIns :=
  [ins3 0x23 8 2 0 0, ins3 0x20 9 8 0 32, mulsh32 10 4 56] ++
  (if u.cls = 1 then [ins3 0x10 10 10 9 0] else [mulsh32 11 9 57, ins3 0x10 10 10 11 0]) ++ [reqIns u 17 10]

/-- Instructions 7 to 11. -/
def secondIns (u : UpdDesc) : List VIns :=
  [ins3 0x14 22 9 9 0, mulsh32 13 5 58, mulsh32 12 22 59, ins3 0x10 13 13 12 0, reqIns u 18 13]

/-- Instructions 12 to 17 on the second moment in register vv. -/
def rootIns (vv : Nat) : List VIns :=
  [mulsh32 14 vv 61, ins3 0x10 14 14 62 0, ins3 0x23 14 14 0 0, ins3 0x42 15 14 0 0, mulsh32 11 17 60, mulsh32 11 11 15]

/-- Instructions 18 to 21. -/
def finishIns (u : UpdDesc) : List VIns :=
  [mulsh32 12 3 63, ins3 0x10 11 11 12 0, ins3 0x11 10 3 11 0, reqIns u 16 10]

def wantsStats (u : UpdDesc) : Bool := bit u.flags 1

/-- Instructions 22 and 23, and 24 to 26. -/
def statGrad (u : UpdDesc) : List VIns :=
  if wantsStats u then [⟨0x61, ⟨21, 22, 0, 25, 0, 0⟩, true⟩, ins3 0x19 48 48 21 0] else []

def statStep (u : UpdDesc) : List VIns :=
  if wantsStats u then [ins3 0x13 23 11 0 0, ⟨0x61, ⟨24, 23, 0, 25, 0, 0⟩, true⟩, ins3 0x19 49 49 24 0] else []

def squareIns (u : UpdDesc) : List VIns := if wantsStats u then [ins3 0x14 22 9 9 0] else []

/-- The least k with n at most 2^k. -/
def ceilLog2 (n : Nat) : Nat := if n ≤ 1 then 0 else bitLen (n - 1)

/-- The product of two second-moment factors in v5 and v6 over a total in v28, into v13 (R248, R250). -/
def factorIns (k : Nat) : List VIns :=
  [mulsh32 13 5 6, ins3 0x04 13 13 0 k, ins3 0x41 28 28 0 0, mulsh32 13 13 28]

/-- The body of an update row. -/
def rowBody (u : UpdDesc) (kind lines : Nat) (diagonal : Bool) : List VIns :=
  match kind with
  | 2 => momentIns u ++ squareIns u ++ statGrad u
  | 3 => (if diagonal then rootIns 13 else [mulsh32 11 11 60]) ++ finishIns u ++ statStep u
  | _ =>
    match u.cls with
    | 1 => momentIns u ++ [mulsh32 11 17 60] ++ finishIns u ++ squareIns u ++ statGrad u ++ statStep u
    | 2 => momentIns u ++ secondIns u ++ rootIns 18 ++ finishIns u ++ statGrad u ++ statStep u
    | _ => momentIns u ++ factorIns (ceilLog2 lines) ++ rootIns 13 ++ finishIns u ++ squareIns u ++ statGrad u ++ statStep u

/-! ### Work of one update row -/

/-- A load that the row makes beside the chain: it delivers at once. -/
def loadRow (s : State) (l vd : Nat) (kind : LoadKind) (w : BitVec 128) (parts : List LoadPart) : State :=
  let r := fetchParts s l ⟨vd, kind, w, (lanternAt s l).vec.index, [], [], [], false⟩ parts
  let s1 := bumpBeacon (modVec r.1 l (fun v => deliverLoad v r.2)) l 1 1
  if r.2.fail then vecAddrError s1 l causeAddress else s1

/-- The accesses of a row's blocks of a shard. -/
def blockParts (x : ShardAt) (bs : List (Nat × Nat)) : List LoadPart :=
  bs.flatMap (fun qb =>
    let a := blockAddrs x qb.2
    [⟨a.1, blockBytes (shardFmt x), qb.1 * blockBytes (shardFmt x)⟩, ⟨a.2, 1, scaleKey + qb.1⟩])

/-- Blocks of a row in which w selects a lane. -/
def liveBlocks (w : BitVec 128) (bs : List (Nat × Nat)) : List (Nat × Nat) := bs.filter (fun qb => !(liveLanes w qb.1).isEmpty)

def loadBlocks (s : State) (l vd : Nat) (x : ShardAt) (w : BitVec 128) (bs : List (Nat × Nat)) : State :=
  loadRow s l vd (.blocks (shardFmt x)) w (blockParts x (liveBlocks w bs))

/-- Store a register's lanes into a row's blocks as STB does, without the loss scale (R131, R238). -/
def storeBlocks (s : State) (l va : Nat) (x : ShardAt) (w : BitVec 128) (bs : List (Nat × Nat)) : State :=
  let r := regAt (lanternAt s l).vec va
  let fmt := shardFmt x
  let outs := (liveBlocks w bs).map (fun qb =>
    let b := stbBlock fmt ((liveLanes w qb.1).map (fun c => (if isSat r c then 0 else mant r c, isSat r c))) (gAt r qb.1)
    let ms := (groupLanes qb.1).map (fun c =>
      if w.getLsbD c then b.m.getD ((liveLanes w qb.1).filter (· < c)).length 0 else 0)
    (blockAddrs x qb.2, ms, b))
  let s1 := outs.foldl (fun s o =>
    performPiece (performPiece s l (o.1.1, mantissaBytes fmt o.2.1)) l (o.1.2, [BitVec.ofNat 8 o.2.2.e])) s
  bumpBeacon (modVec s1 l (fun v => raiseFlag v flSat (outs.any (fun o => o.2.2.raise)))) l 1 1

/-- Records written at addresses. -/
def storeRecs (s : State) (l : Nat) (rs : List (Nat × Rec)) : State :=
  rs.foldl (fun s r => performPiece s l (r.1, recBytes r.2)) s

/-- Records put into a pair and jammed into a register. -/
def jamRecs (s : State) (l vd : Nat) (w : BitVec 128) (f : Nat → Rec) : State :=
  runIns (modVec s l (fun v => putPair v 26 w f)) l (ins3 0x53 vd 26 0 0)

/-- GEN of a shard's header here (R228). -/
def shardGen (m : Mooring) (tensor : Nat) : Nat := ((m.headers.find? (fun h => h.tensor == tensor)).map (·.gen)).getD 0

/-- Where the undo area of a mooring keeps the copy of a tensor's shard and its tags (R239): the copies of the master and of
the named states, one after the other, then the tags of the master, then those of each state that is not a row state (the
order is a DESIGN CHOICE, notes/assumptions/32.md). -/
def undoPlace (m : Mooring) (p : Parsed) (tensor : Nat) : Option (Nat × Nat) :=
  (findIdx (fun u => (u.param :: namedStates u).contains tensor) p.updates).bind (fun i =>
    (p.updates[i]?).map (fun u =>
      let pl (id : Nat) : Placed := ((tensorIdx p.tensors id).bind (fun k => m.place.tensors[k]?)).getD ⟨0, 0, 0, 0, 0, none⟩
      let both (id : Nat) : Nat := round4K (pl id).mbytes + round4K (pl id).sbytes
      let ts := u.param :: namedStates u
      let base := m.place.undo.getD i 0
      let tags := base + sumNat (ts.map both)
      let owns := (u.states.zipIdx.filter (fun q => q.1 != 0xFFFFFFFF && !rowState u q.2)).map (·.1)
      (base + sumNat ((ts.takeWhile (· != tensor)).map both),
       if owns.contains tensor then
         tags + round4K (8 * (pl u.param).sbytes) +
           sumNat ((owns.takeWhile (· != tensor)).map (fun id => round4K (8 * ceilDiv (pl id).elems 32)))
       else tags)))

/-- Copy one line's part of a span, between places that lie alike in their lines: a poisoned line is copied as poisoned, and
a clean one as an engine's store writes it (R143, R239). -/
def copyLine (l src dst n : Nat) (s : State) (d : Nat) : State :=
  let lo := max d dst
  let hi := min (d + 64) (dst + n)
  if s.poison.contains (src + d - dst) then addPoison s d else performPiece s l (lo, readMem s (src + lo - dst) (hi - lo))

/-- Copy n bytes for the undo area. -/
def copyLines (s : State) (l src dst n : Nat) : State := (linesOf dst n).foldl (copyLine l src dst n) s

/-- Note an undo copy of a mooring; an older one of the same block goes. -/
def noteUndo (s : State) (id : Nat) (u : Undo) : State :=
  modMooring s id (fun m => { m with undo := m.undo.filter (fun q => !(q.tensor == u.tensor && q.block == u.block)) ++ [u] })

/-- The tag of an undo copy: step in bits 47:0, GEN in bits 63:48 (R239). -/
def undoTagBytes (m : Mooring) (tensor : Nat) : List Byte := natLE 8 (m.step + 2 ^ 48 * shardGen m tensor)

/-- An undo copy of a block in the undo area, then its tag (R239). -/
def saveBlock (s : State) (l id tensor : Nat) (x : ShardAt) (b : Nat) (own : Bool) : State :=
  match (mooringAt s id).bind (fun m => (bundleAt s m.bundle).bind (fun d => (undoPlace m d.p tensor).map (fun a => (m, a)))) with
  | none => s
  | some (m, at_) =>
    let a := blockAddrs x b
    let n := blockBytes (shardFmt x)
    let c := (at_.1 + (a.1 - x.pl.mbase), at_.1 + round4K x.pl.mbytes + (a.2 - x.pl.sbase))
    let tag := at_.2 + 8 * heldIndex x.h b
    let s1 := copyLines (copyLines s l a.1 c.1 n) l a.2 c.2 1
    noteUndo (performPiece s1 l (tag, undoTagBytes m tensor)) id ⟨tensor, b, m.step, shardGen m tensor, a, c, tag, n, own⟩

def saveBlocks (s : State) (l id tensor : Nat) (x : ShardAt) (bs : List Nat) (own : Bool) : State :=
  bs.foldl (fun s b => saveBlock s l id tensor x b own) s

/-- Has the running step already taken its own undo copy of a block? -/
def savedHere (m : Mooring) (tensor b : Nat) : Bool :=
  m.undo.any (fun q => q.tensor == tensor && q.block == b && q.step == m.step && q.gen == shardGen m tensor)

/-- The row states of an update row, with the register each is loaded into (R238). -/
def rowStates (u : UpdDesc) (kind : Nat) : List (Nat × Nat) :=
  if kind = 3 then [] else
  (namedStates u).zipIdx.filterMap (fun q =>
    if u.cls = 3 ∨ u.cls = 4 then (if q.2 = 0 then some (q.1, 4) else none) else some (q.1, 4 + q.2))

/-- An engine row of the update: registers but the carried ones and the constants cleared, m0 given, and the logical
index of lane 0 with its step (R114, R238). -/
def engineRow (s : State) (l : Nat) (c : Chain) (row : Nat) (w : BitVec 128) (idx stride : Nat) : State :=
  modVec s l (fun v =>
    { clearRegs v (fun n => carried c n || decide (56 ≤ n)) with
      masks := w :: List.replicate 7 0, idx := some idx, lstride := stride, row := row, index := 0 })

/-- The step between logical indices along an axis of a share. -/
def axisStride (h : Share) (a : Nat) : Nat :=
  if h.dims.length = (dimsOf h.t).length then (aboutAxis (dimsOf h.t) a).2.2 else (aboutAxis h.dims a).2.2

/-- LDR of the gradient records into v0:v1, RJAM into v2, SCALE by -L (R238). -/
def gradRow (s : State) (l : Nat) (g : ShardAt) (a : Nat) (geo : RowGeom) (w : BitVec 128) : State :=
  let s1 := loadRow s l 0 .recs w (((List.range 128).filter (fun c => w.getLsbD c)).map (fun c =>
    ⟨recAddr g (laneCoords geo a c), 16, 16 * c⟩))
  runIns (runIns s1 l (ins3 0x53 2 0 0 0)) l (ins3 0x04 2 2 0 (wrapNat 16 (-(stepScale s l : Int))))

/-! ### The factored class (R248) -/

/-- A block of one element of a shard: block and place in it. -/
def elemPlace (e : Nat) : Nat × Nat := (e / 32, e % 32)

/-- One element of a shard in every lane of a register. -/
def loadElem (s : State) (l vd : Nat) (x : ShardAt) (w : BitVec 128) (e : Nat) : State :=
  let q := elemPlace e
  let s1 := loadRow s l vd (.blocks (shardFmt x)) (BitVec.allOnes 128) (blockParts x [(0, q.1)])
  modVec s1 l (fun v =>
    let r := regAt v vd
    commit v vd w (fun _ => if isSat r q.2 then .sat else .val (mant r q.2)) (fun _ => gAt r 0))

/-- One record of a shard in every lane of the pair v26 and jammed into a register. -/
def loadTotal (s : State) (l vd : Nat) (x : ShardAt) (w : BitVec 128) (e : Nat) : State :=
  let s1 := loadRow s l 26 .recs (BitVec.ofNat 128 1) [⟨x.pl.mbase + 16 * e, 16, 0⟩]
  let r := pairRec (lanternAt s1 l).vec 26 0
  jamRecs s1 l vd w (fun _ => r)

/-- The record of a lane's value. -/
def laneRec (v : VEngine) (n c : Nat) : Rec :=
  let r := regAt v n
  if isSat r c then ⟨0, 0, 0, true, false, false⟩ else ⟨mant r c, 0, gAt r (c / 32), false, false, decide (mant r c = 0)⟩

/-- A record of a shard; poison is counted, faults, and reads as SAT (R143). -/
def recAt (s : State) (l a : Nat) : State × Rec :=
  (notePoison s l a 16, if isPoisoned s a 16 then ⟨0, 0, 0, true, false, false⟩ else recOfBytes (readMem s a 16))

/-- Sums of g² gathered by the statistics part: by line and by column of the share. -/
structure FactorSums where
  lines : List (Nat × Rec)
  cols  : List Rec

def addLine (ls : List (Nat × Rec)) (ln : Nat) (r : Rec) : List (Nat × Rec) :=
  match ls.find? (fun q => q.1 == ln) with
  | some _ => ls.map (fun q => if q.1 = ln then (q.1, padd q.2 r) else q)
  | none => ls ++ [(ln, padd Rec.empty r)]

/-- One touched row of the statistics part: g² of its lanes joins the sums of their lines and columns. -/
def statsRow (l : Nat) (c : Chain) (x g : ShardAt) (acc : State × FactorSums) (r : Nat × BitVec 128) : State × FactorSums :=
  let geo := rowGeom x.h.dims x.h.axis r.1
  let s1 := gradRow (engineRow acc.1 l c r.1 r.2 0 0) l g x.h.axis geo r.2
  let s2 := [ins3 0x23 8 2 0 0, ins3 0x20 9 8 0 32, ins3 0x14 22 9 9 0].foldl (fun s i => runIns s l i) s1
  let v := (lanternAt s2 l).vec
  (s2, ((List.range 128).filter (fun k => r.2.getLsbD k)).foldl (fun a k =>
    let co := laneCoords geo x.h.axis k
    let q := laneRec v 22 k
    { lines := addLine a.lines (linearOf co.dropLast x.h.dims.dropLast) q,
      cols := a.cols.modify (co.getLastD 0) (padd · q) }) acc.2)

/-- A row of 128 elements of a factored statistic renewed from sums: y := β2 y + (1 - β2) sum 2^-k in the lanes of w,
into register out (R246, 8 to 11; R248). The other elements of a block keep their values and share its REQ, which may round
them (DESIGN CHOICE, notes/assumptions/36.md). -/
def statisticRow (s : State) (l : Nat) (c : Chain) (u : UpdDesc) (id : Nat) (tensor out : Nat) (y : ShardAt) (k row : Nat)
    (w : BitVec 128) (sums : Nat → Rec) : State :=
  let n := prodNat y.h.dims
  let bs := (List.range 4).map (fun q => (q, 4 * row + q))
  let all := maskOf (fun q => !(liveLanes w (q / 32)).isEmpty && decide (128 * row + q < n))
  let s1 := jamRecs (engineRow s l c row all (logicalIndex y.h [128 * row]) (axisStride y.h 0)) l 22 all sums
  let s2 := loadBlocks (runIns s1 l (ins3 0x04 22 22 0 (wrapNat 16 (-(k : Int))))) l 5 y all bs
  let s3 := saveBlocks s2 l id tensor y ((liveBlocks w bs).map (·.2)) true
  let s4 := [mulsh32 13 5 58, mulsh32 12 22 59, ins3 0x10 13 13 12 0].foldl (fun s i => runIns s l i) s3
  let v := (lanternAt s4 l).vec
  let s5 := if w = all then s4 else jamRecs s4 l 13 all (fun q => laneRec v (if w.getLsbD q then 13 else 5) q)
  storeBlocks (runIns s5 l (reqIns u out 13)) l out y all bs

/-- The element of a B32 shard as a record; SAT where it is poisoned (R143). -/
def elemRec (s : State) (x : ShardAt) (e : Nat) : Rec :=
  let a := blockAddrs x (e / 32)
  let f := shardFmt x
  if isPoisoned s a.1 (blockBytes f) || isPoisoned s a.2 1 then ⟨0, 0, 0, true, false, false⟩
  else recOfElem f (readByte s a.2).toNat (mantissaAt f (readMem s a.1 (blockBytes f)) (e % 32))

/-- Poisoned lines that a span of blocks of a shard meets are counted and fault (R143). -/
def noteShard (s : State) (l : Nat) (x : ShardAt) (b n : Nat) : State :=
  let a := blockAddrs x b
  notePoison (notePoison s l a.1 (n * blockBytes (shardFmt x))) l a.2 n

/-- An element of a shard for each lane, jammed to one exponent in each group and brought to 30 bits (R248): for rows whose
lanes do not run along a line, and whose elements may come from blocks of several exponents (DESIGN CHOICE,
notes/assumptions/36.md). -/
def loadElems (s : State) (l vd : Nat) (x : ShardAt) (w : BitVec 128) (e : Nat → Nat) : State :=
  let live := (List.range 128).filter (fun c => w.getLsbD c)
  let s1 := (distinct (live.map (fun c => e c / 32))).foldl (fun s b => noteShard s l x b 1) s
  [ins3 0x23 vd vd 0 0, ins3 0x20 vd vd 0 32].foldl (fun s i => runIns s l i) (jamRecs s1 l vd w (fun c => elemRec s1 x (e c)))

/-- Undo copies of the partial records of a factored update, a state that is no row state, by blocks of 32 of its records, each
with its tag (R239). -/
def saveRecords (s : State) (l id tensor : Nat) (t : ShardAt) : State :=
  let n := elemsOf t.h.t
  (List.range (ceilDiv n 32)).foldl (fun s b =>
    match (mooringAt s id).bind (fun m => (bundleAt s m.bundle).bind (fun d => (undoPlace m d.p tensor).map (fun a => (m, a)))) with
    | none => s
    | some (m, at_) =>
      let a := t.pl.mbase + 512 * b
      let c := at_.1 + 512 * b
      let k := 16 * min 32 (n - 32 * b)
      let tag := at_.2 + 8 * b
      noteUndo (performPiece (copyLines s l a c k) l (tag, undoTagBytes m tensor)) id
        ⟨tensor, b, m.step, shardGen m tensor, (a, a), (c, c), tag, k, true⟩) s

/-- The statistics part (R248): line statistics renewed, the column sums and the total written into STATE3. -/
def statsPart (s : State) (l : Nat) (c : Chain) (id : Nat) (u : UpdDesc) (x g r t : ShardAt) (rows : List (Nat × BitVec 128)) : State :=
  let cols := x.h.dims.getLastD 1
  let acc := rows.foldl (statsRow l c x g) (s, ⟨[], List.replicate cols Rec.empty⟩)
  let line (e : Nat) : Option Rec := (acc.2.lines.find? (fun q => q.1 == x.h.lo + e)).map (·.2)
  let touched := (List.range x.h.n).filter (fun e => (line e).isSome)
  let s1 := (distinct (touched.map (· / 128))).foldl (fun s row =>
    statisticRow s l c u id (u.states.getD 1 0) 18 r (ceilLog2 cols) row (maskOf (fun k => (line (128 * row + k)).isSome))
      (fun k => (line (128 * row + k)).getD Rec.empty)) acc.1
  let total := touched.foldl (fun a e => padd a (elemRec s1 r e)) Rec.empty
  let n := elemsOf t.h.t
  storeRecs (saveRecords s1 l id (u.states.getD 3 0) t) l ((acc.2.cols.zipIdx.map (fun q => (t.pl.mbase + 16 * q.2, q.1))) ++ [(t.pl.mbase + 16 * (n - 1), total)])

/-- The column statistic renewed from the all-reduced sums, once in a step (R248). -/
def columnPart (s : State) (l : Nat) (c : Chain) (id : Nat) (u : UpdDesc) (x cs t : ShardAt) : State :=
  let cols := x.h.dims.getLastD 1
  let lines := lineCount x.h.dims
  (List.range (ceilDiv cols 128)).foldl (fun s row =>
    match mooringAt s id with
    | none => s
    | some m =>
      if savedHere m (u.states.getD 2 0) (4 * row) then s
      else
        let w := maskOf (fun k => decide (128 * row + k < cols))
        statisticRow s l c u id (u.states.getD 2 0) 19 cs (ceilLog2 lines) row w
          (fun k => (recAt s l (t.pl.mbase + 16 * (128 * row + k))).2)) ((List.range cols).foldl (fun s k => (recAt s l (t.pl.mbase + 16 * k)).1) s)

/-! ### The block-preconditioned class (R249, R250) -/

/-- An exact dyadic number m * 2^e, none for SAT. -/
abbrev Dyad := Option (Int × Int)

def dyadAdd : Dyad → Dyad → Dyad
  | some a, some b =>
    if a.1 = 0 then some b else if b.1 = 0 then some a
    else if a.2 ≤ b.2 then some (a.1 + b.1 * ((2 ^ (b.2 - a.2).toNat : Nat) : Int), a.2)
    else some (a.1 * ((2 ^ (a.2 - b.2).toNat : Nat) : Int) + b.1, b.2)
  | _, _ => none

def dyadMul : Dyad → Dyad → Dyad
  | some a, some b => some (a.1 * b.1, a.2 + b.2)
  | _, _ => none

def dyadScale (k : Int) : Dyad → Dyad
  | some a => some (a.1, a.2 + k)
  | none => none

def dyadSum (l : List Dyad) : Dyad := l.foldl dyadAdd (some (0, 0))

/-- A matrix by rows. -/
abbrev Mat := List (List Dyad)

def matAt (a : Mat) (i j : Nat) : Dyad := (a.getD i []).getD j (some (0, 0))

def matOf (n k : Nat) (f : Nat → Nat → Dyad) : Mat := (List.range n).map (fun i => (List.range k).map (f i))

/-- The integers and the exponent of a group of 32 exact values. -/
def groupInts (g : List Dyad) : List (Int × Bool) × Int :=
  let live := g.filterMap (fun d => match d with
    | some a => if a.1 = 0 then none else some a.2
    | none => none)
  let e := match live with
    | [] => 0
    | x :: xs => xs.foldl min x
  (g.map (fun d => match d with
    | some a => (if a.1 = 0 then 0 else a.1 * ((2 ^ (a.2 - e).toNat : Nat) : Int), false)
    | none => (0, true)), e)

/-- A group requantised with RNE, MAXFIT and h = 0, as a block. -/
def reqOut (f : Fmt) (g : List Dyad) : ReqOut :=
  let x := groupInts g
  requantise x.1 x.2 f none 0 false (g.map (fun _ => 0))

/-- The values of a requantised group. -/
def reqDyads (f : Fmt) (g : List Dyad) : List Dyad :=
  let r := reqOut f g
  r.m.map (fun m => let e := readElem f r.e m; if e.2 then none else some (e.1, (r.e : Int) - 127))

/-- The groups of 32 columns of each row. -/
def matGroups (a : Mat) : List (List Dyad) :=
  a.flatMap (fun r => (List.range (ceilDiv r.length 32)).map (fun q => (r.drop (32 * q)).take 32))

/-- Each row requantised, by groups of 32 columns. -/
def reqRows (f : Fmt) (a : Mat) : Mat :=
  a.map (fun r => ((List.range (ceilDiv r.length 32)).map (fun q => reqDyads f ((r.drop (32 * q)).take 32))).flatten)

/-- SAT and UNF that requantisations raise (R36). -/
abbrev Conds := Bool × Bool

/-- The conditions that the requantisation of groups raises (R36). -/
def reqConds (f : Fmt) (gs : List (List Dyad)) : Conds :=
  let outs := gs.map (reqOut f)
  (outs.any (·.sat), outs.any (·.unf))

def joinConds (a b : Conds) : Conds := (a.1 || b.1, a.2 || b.2)

/-- Conditions join the binding's flags (R36, R137). -/
def raiseConds (s : State) (l : Nat) (c : Conds) : State :=
  modVec s l (fun v => raiseFlag (raiseFlag v flSat c.1) flUnf c.2)

/-- The conditions that the requantisation of groups raises join the binding's flags (R36). -/
def raiseReq (s : State) (l : Nat) (f : Fmt) (gs : List (List Dyad)) : State := raiseConds s l (reqConds f gs)

def matT (a : Mat) : Mat := matOf (a.headD []).length a.length (fun i j => matAt a j i)

/-- An exact product. -/
def matMul (a b : Mat) : Mat :=
  let bt := matT b
  a.map (fun r => bt.map (fun c => dyadSum ((r.zip c).map (fun q => dyadMul q.1 q.2))))

/-- The least k with x at most 2^k, for positive x. -/
def dyadCeilLog2 (x : Int × Int) : Int := (if x.1.natAbs ≤ 1 then 0 else (bitLen (x.1.natAbs - 1) : Int)) + x.2

def dyadPos : Dyad → Bool
  | some a => decide (0 < a.1)
  | none => false

/-- Is |x| at most 2^-10? -/
def dyadSmall : Dyad → Bool
  | some a => decide (a.1 = 0) || decide (dyadCeilLog2 ((a.1.natAbs : Int), a.2) ≤ -10)
  | none => false

def dyadNeg : Dyad → Dyad
  | some a => some (-a.1, a.2)
  | none => none

def matTrace (a : Mat) : Dyad := dyadSum ((List.range a.length).map (fun i => matAt a i i))

def matScalar (n : Nat) (d : Dyad) : Mat := matOf n n (fun i j => if i = j then d else some (0, 0))

/-- A matrix with the conditions that the requantisations behind it raised. -/
abbrev MatC := Mat × Conds

/-- A product of which each result row is requantised to B16, and the conditions so far (R36, R249). -/
def mulRows (a b : MatC) : MatC :=
  let p := matMul a.1 b.1
  (reqRows .b16 p, joinConds (joinConds a.2 b.2) (reqConds .b16 (matGroups p)))

/-- One round of inv4root (R249). -/
def rootRound (xm : MatC × MatC) : MatC × MatC :=
  let n := xm.1.1.length
  let t : MatC := (matOf n n (fun i j =>
    dyadScale (-2) (dyadAdd (if i = j then some (5, 0) else some (0, 0)) (dyadNeg (matAt xm.2.1 i j)))), (false, false))
  (mulRows xm.1 t, mulRows (mulRows (mulRows (mulRows t t) t) t) xm.2)

def rootRounds : Nat → MatC × MatC → MatC × MatC
  | 0, xm => xm
  | n + 1, xm => rootRounds n (rootRound xm)

/-- inv4root of R249, with the conditions that its requantisations raise, whatever comes of it (R36). -/
def inv4root (a : Mat) (delta : Dyad) : MatC × Bool :=
  let n := a.length
  let b := matOf n n (fun i j => if i = j then dyadAdd (matAt a i j) delta else matAt a i j)
  let unit := matScalar n (some (1, 0))
  if !(List.range n).all (fun i => dyadPos (matAt b i i)) then ((unit, (false, false)), false)
  else match matTrace b with
    | none => ((unit, (false, false)), false)
    | some tr =>
      let c : Int := 4 * (-((-(dyadCeilLog2 tr)) / 4))
      let r := rootRounds 24 ((matScalar n (some (1, -(c / 4))), (false, false)),
        (b.map (fun row => row.map (dyadScale (-c))), (false, false)))
      ((r.1.1, joinConds r.1.2 r.2.2), (List.range n).all (fun j => (List.range n).all (fun k =>
        dyadSmall (if j = k then dyadAdd (matAt r.2.1 j j) (some (-1, 0)) else matAt r.2.1 j k))))

/-- The singular-block ladder (R250) over its rungs: the root and the rung that gave it, if one did, and the conditions of
every rung tried (R36). -/
def rootLadder (a : Mat) (damp : Int) : List Nat → Option (Mat × Nat) × Conds
  | [] => (none, (false, false))
  | k :: ks =>
    let r := inv4root a (dyadScale (damp + 8 * (k : Int)) (dyadScale (-7) (matTrace a)))
    if r.2 then (some (r.1.1, k), r.1.2)
    else
      let q := rootLadder a damp ks
      (q.1, joinConds r.1.2 q.2)

/-- A matrix held as consecutive elements of a shard from element o on. -/
def shardMat (s : State) (x : ShardAt) (o n k : Nat) : Mat :=
  let f := shardFmt x
  (List.range n).map (fun i => ((List.range (k / 32)).map (fun q =>
    let a := blockAddrs x ((o + i * k) / 32 + q)
    let e := (readByte s a.2).toNat
    let bs := readMem s a.1 (blockBytes f)
    let bad := isPoisoned s a.1 (blockBytes f) || isPoisoned s a.2 1
    (List.range 32).map (fun c =>
      let r := readElem f e (mantissaAt f bs c)
      if bad || r.2 then none else some (r.1, (e : Int) - 127)))).flatten)

/-- Store rows of exact values, each group with its own scale, into consecutive blocks of a shard, after the undo
copies with their own tags. -/
def storeMat (s : State) (l id tensor : Nat) (x : ShardAt) (b : Nat) (gs : List (List Dyad)) : State :=
  let f := shardFmt x
  gs.zipIdx.foldl (fun s q =>
    let r := reqOut f q.1
    let a := blockAddrs x (b + q.2)
    performPiece (performPiece (saveBlock s l id tensor x (b + q.2) true) l (a.1, mantissaBytes f r.m)) l (a.2, [BitVec.ofNat 8 r.e]))
    (raiseReq s l f gs)

/-- Number of a tile of a master, by the coordinates of an element. -/
def tileOf (h : Share) (c : List Nat) : Nat := unitOfElem 3 h.axis h.dims c

/-- The gradient of a tile, L removed, before it is requantised (R249, step 2); untouched blocks are zero. -/
def tileGrad (s : State) (l : Nat) (x g : ShardAt) (rows : List (Nat × BitVec 128)) (t : Nat) : Mat :=
  let nc := max (ceilDiv (x.h.dims.getD 1 1) 128) 1
  let lsc : Int := stepScale s l
  let live (c : List Nat) : Bool := rows.any (fun r =>
    let geo := rowGeom x.h.dims x.h.axis r.1
    (List.range 128).any (fun k => r.2.getLsbD k && decide (laneCoords geo x.h.axis k = c)))
  let rec_ (i j : Nat) : Rec :=
    let c := [128 * (t / nc) + i, 128 * (t % nc) + j]
    if live c then
      let a := recAddr g c
      if isPoisoned s a 16 then ⟨0, 0, 0, true, false, false⟩ else recOfBytes (readMem s a 16)
    else Rec.empty
  matOf 128 128 (fun i j =>
    let q := toRequant ((List.range 32).map (fun k => rec_ i (j / 32 * 32 + k)))
    let v := q.1.getD (j % 32) (0, false)
    if v.2 then none else some (v.1, q.2 - lsc))

/-- The exact sum of products as a record. -/
def dotRec (xs ys : List Dyad) : Rec :=
  (xs.zip ys).foldl (fun a q => padd a (match dyadMul q.1 q.2 with
    | some d => ⟨d.1, 0, d.2, false, false, decide (d.1 = 0)⟩
    | none => ⟨0, 0, 0, true, false, false⟩)) Rec.empty

/-- One row of GL or GR renewed (R249, step 3): β2 times itself, and the product added unscaled. -/
def factorRow (l : Nat) (c : Chain) (u : UpdDesc) (id tensor out : Nat) (x : ShardAt) (o : Nat) (rs : List (List Dyad))
    (s : State) (i : Nat) : State :=
  let w := BitVec.allOnes 128
  let b := (o + 128 * i) / 32
  let bs := (List.range 4).map (fun q => (q, b + q))
  let s1 := jamRecs (engineRow s l c i w (logicalIndex x.h [o + 128 * i]) 1) l 22 w (fun k => dotRec (rs.getD i []) (rs.getD k []))
  let s2 := saveBlocks (loadBlocks s1 l 5 x w bs) l id tensor x (bs.map (·.2)) true
  let s3 := [mulsh32 13 5 58, ins3 0x10 13 13 22 0, reqIns u out 13].foldl (fun s i => runIns s l i) s2
  storeBlocks s3 l out x w bs

/-- A tile put on the diagonal rule, or taken off it; the list as the step found it is kept (R249, R250). -/
def setDiag (s : State) (id desc tile : Nat) (on : Bool) : State :=
  modMooring s id (fun m =>
    let rest := m.diag.filter (· != (desc, tile))
    { m with diagSaved := some (m.diagSaved.getD m.diag), diag := if on then rest ++ [(desc, tile)] else rest })

/-- A use of a rung counted for a tensor (R250). -/
def countRung (s : State) (id tensor rung : Nat) : State :=
  modMooring s id (fun m =>
    { m with rungs := if m.rungs.any (fun r => r.1 == tensor && r.2.1 == rung) then
        m.rungs.map (fun r => if r.1 = tensor ∧ r.2.1 = rung then (r.1, r.2.1, r.2.2 + 1) else r)
      else m.rungs ++ [(tensor, rung, 1)] })

def dampOf (g : Group) : Int := if g.damp = -32768 then -32 else g.damp

/-- One factor's root at a refresh: stored into its columns of Q when a rung gives it; else the event. -/
def refreshFactor (s : State) (l id : Nat) (u : UpdDesc) (g : Group) (q : ShardAt) (o tile : Nat) (a : Mat) (side : Nat) : State × Bool :=
  let w := rootLadder a (dampOf g) [0, 1, 2, 3]
  let s := raiseConds s l w.2
  match w.1 with
  | some (r, k) =>
    let s1 := (List.range 128).foldl (fun s i =>
      storeMat s l id (u.states.getD 3 0) q ((o + 256 * i + 128 * side) / 32) (matGroups (reqRows .b16 [r.getD i []]))) s
    (countRung s1 id u.param k, true)
  | none =>
    (raiseEventMore s evSingular (some id) l side [u.param, tile, side, ((mooringAt s id).map (·.step)).getD 0], false)

/-- The refresh of a tile's roots (R249, R250). -/
def refreshTile (s : State) (l id desc : Nat) (u : UpdDesc) (g : Group) (q : ShardAt) (o tile : Nat) (gl gr : Mat) : State :=
  let zero (d : Dyad) : Bool := match d with
    | some a => decide (a.1 = 0)
    | none => false
  if zero (matTrace gl) || zero (matTrace gr) then setDiag s id desc tile true
  else
    let a := refreshFactor s l id u g q o tile gl 0
    let b := refreshFactor a.1 l id u g q o tile gr 1
    setDiag b.1 id desc tile (!(a.2 && b.2))

/-- Is step t a refresh step of a group (R249)? -/
def refreshStep (g : Group) (t : Nat) : Bool := decide ((t - g.pstart) % (if g.period = 0 then 16 else g.period) = 0)

/-- Steps 2 to 4 of R249 on one tile. -/
def tileFactors (s : State) (l : Nat) (c : Chain) (id desc : Nat) (u : UpdDesc) (gp : Group) (x g gl gr q : ShardAt)
    (rows : List (Nat × BitVec 128)) (tile : Nat) : State :=
  let k := tile - x.h.lo
  let raw := tileGrad s l x g rows tile
  let gm := reqRows .b8 raw
  let gt := matT gm
  let s1 := (List.range 128).foldl (factorRow l c u id (u.states.getD 1 0) 18 gl (16384 * k) gm) (raiseReq s l .b8 (matGroups raw))
  let s2 := (List.range 128).foldl (factorRow l c u id (u.states.getD 2 0) 19 gr (16384 * k) gt) s1
  if refreshStep gp (((mooringAt s id).map (·.step)).getD 0) then
    refreshTile s2 l id desc u gp q (32768 * k) tile (shardMat s2 gl (16384 * k) 128 128) (shardMat s2 gr (16384 * k) 128 128)
  else s2

/-- The elements of a master-shaped B32 shard in a tile, as a matrix; pad elements are zero. -/
def tileMat (s : State) (x : ShardAt) (t : Nat) : Mat :=
  let nc := max (ceilDiv (x.h.dims.getD 1 1) 128) 1
  let f := shardFmt x
  matOf 128 128 (fun i j =>
    let c := [128 * (t / nc) + i, 128 * (t % nc) + j]
    if c.getD 0 0 < x.h.dims.getD 0 1 ∧ c.getD 1 0 < x.h.dims.getD 1 1 then
      let ax := x.h.t.baxis
      let nb := ceilDiv (x.h.dims.getD ax 1) 32
      let b := linearOf (c.modify ax (· / 32)) (setAt x.h.dims ax nb)
      let a := blockAddrs x b
      let e := (readByte s a.2).toNat
      let r := readElem f e (mantissaAt f (readMem s a.1 (blockBytes f)) (c.getD ax 0 % 32))
      if r.2 || isPoisoned s a.1 (blockBytes f) || isPoisoned s a.2 1 then none else some (r.1, (e : Int) - 127)
    else some (0, 0))

/-- A matrix narrowed to B8 along its rows' index, for the second operand of a product, and the conditions it raises. -/
def narrow8 (a : Mat) : MatC := (matT (reqRows .b8 (matT a)), reqConds .b8 (matGroups (matT a)))

/-- The direction QL m QR of a tile, before its rows are requantised (R249, step 5), and the conditions raised on the way
(R36). The first product is requantised to B16. The rule does not say how m and QR become the B8 operands of its products:
they are requantised to B8 with RNE and MAXFIT along the contraction (DESIGN CHOICE, notes/assumptions/36.md). -/
def tileDirection (s : State) (mm q : ShardAt) (k tile : Nat) : MatC :=
  let qs := shardMat s q (32768 * k) 128 256
  let p := mulRows (qs.map (·.take 128), (false, false)) (narrow8 (tileMat s mm tile))
  let r := narrow8 (qs.map (·.drop 128))
  (matMul p.1 r.1, joinConds p.2 r.2)

/-- The poisoned lines that a tile of a master-shaped shard holds are counted and fault: the whole tile is read (R143, R249). -/
def noteTile (s : State) (l : Nat) (x : ShardAt) (tile : Nat) : State :=
  ((tileRows x.h tile).flatMap (fun r => (rowGeom x.h.dims x.h.axis r).blocks)).foldl (fun s qb => noteShard s l x qb.2 1) s

/-- The direction area of an update descriptor as a B16 shard of the master's shape (R249): at the end of its undo area,
with the size of the owned master. -/
def directionShard (m : Mooring) (p : Parsed) (desc : Nat) (x : ShardAt) : ShardAt :=
  let dims (t : Tensor) : Nat × Nat × Nat := match (tensorIdx p.tensors t.id).bind (fun k => m.place.tensors[k]?) with
    | some y => (y.mbytes, y.sbytes, y.elems)
    | none => (0, 0, 0)
  let both := round4K x.pl.mbytes + round4K x.pl.sbytes
  let a := m.place.undo.getD desc 0 + ((p.updates[desc]?).map (undoBytes p dims)).getD both - both
  { h := { x.h with t := { x.h.t with fmt := 2 } },
    pl := { x.pl with mbase := a, sbase := a + round4K x.pl.mbytes } }

/-- Write the direction rows of a tile: each block of an update row requantised to B16 with RNE (R249, step 5). For a block
axis that is not the last, a result row is taken along it (DEDUCED, notes/assumptions/36.md). The pads of a block that passes
the end of the shard count as zeros here: where its elements are all SAT it is written with scale byte 0x7F, as R37 has a block
whose only nonzero elements are SAT codes (DESIGN CHOICE, notes/assumptions/36.md). -/
def writeDirection (s : State) (l : Nat) (x mm q dir : ShardAt) (rows : List (Nat × BitVec 128)) (tile : Nat) : State :=
  let k := tile - x.h.lo
  let s0 := noteTile (noteShard s l q (1024 * k) 1024) l mm tile
  let dc := tileDirection s0 mm q k tile
  let d := dc.1
  rows.foldl (fun s r =>
    let geo := rowGeom x.h.dims x.h.axis r.1
    (liveBlocks r.2 geo.blocks).foldl (fun s qb =>
      let g := (groupLanes qb.1).map (fun c =>
        let co := laneCoords geo x.h.axis c
        if c < geo.len then matAt d (co.getD 0 0 % 128) (co.getD 1 0 % 128) else some (0, 0))
      let o := reqOut .b16 g
      let a := blockAddrs dir qb.2
      performPiece (performPiece (raiseReq s l .b16 [g]) l (a.1, mantissaBytes .b16 o.m)) l (a.2, [BitVec.ofNat 8 o.e])) s)
    (raiseConds s0 l dc.2)

/-- Steps 2 to 5 of R249 on one tile; one on the diagonal rule forms no direction (R250). -/
def tileWork (s : State) (l : Nat) (c : Chain) (id desc : Nat) (u : UpdDesc) (gp : Group) (x g mm gl gr q dir : ShardAt)
    (rows : List (Nat × BitVec 128)) (tile : Nat) : State :=
  let s1 := tileFactors s l c id desc u gp x g gl gr q rows tile
  if (((mooringAt s1 id).map (·.diag)).getD []).contains (desc, tile) then s1
  else writeDirection s1 l x mm q dir rows tile

/-- An exact value as a record. -/
def dyadRec : Dyad → Rec
  | some a => padd Rec.empty ⟨a.1, 0, a.2, false, false, decide (a.1 = 0)⟩
  | none => ⟨0, 0, 0, true, false, false⟩

/-- The second moment of the diagonal rule where the trace is zero (R250): the rule divides by it, and the value is open. It
is a function of the two factors of the product, so equal data give equal results (R49; notes/assumptions/8.md). -/
def openDiagonal (v : VEngine) (vd : Nat) (w : BitVec 128) : VEngine :=
  let a := regAt v 5
  let b := regAt v 6
  commit v vd w (fun c => .val (Config.diagonalOpen (mant a c) (gAt a (c / 32)) (mant b c) (gAt b (c / 32))).toInt)
    (fun q => gAt a q + gAt b q)

/-- Lanes of a row from a matrix of its tile, jammed and brought to 30 bits. -/
def matLanes (s : State) (l vd : Nat) (w : BitVec 128) (f : Nat → Dyad) : State :=
  [ins3 0x23 vd vd 0 0, ins3 0x20 vd vd 0 32].foldl (fun s i => runIns s l i) (jamRecs s l vd w (fun c => dyadRec (f c)))

/-- What an apply row reads in place of the second moment or the direction (R249, R250). -/
def applyInputs (s : State) (l desc : Nat) (m : Mooring) (x mm gl gr dir : ShardAt) (geo : RowGeom) (w : BitVec 128) : State × Bool :=
  let tile := tileOf x.h geo.coords
  let k := tile - x.h.lo
  let inTile (c : Nat) : Nat × Nat := let co := laneCoords geo x.h.axis c; (co.getD 0 0 % 128, co.getD 1 0 % 128)
  if m.diag.contains (desc, tile) then
    let a := shardMat s gl (16384 * k) 128 128
    let b := shardMat s gr (16384 * k) 128 128
    let s1 := loadBlocks (noteShard (noteShard s l gl (512 * k) 512) l gr (512 * k) 512) l 17 mm w geo.blocks
    let s2 := matLanes s1 l 5 w (fun c => matAt a (inTile c).1 (inTile c).1)
    let s3 := matLanes s2 l 6 w (fun c => matAt b (inTile c).2 (inTile c).2)
    match matTrace a with
    | some (0, _) => (modVec s3 l (fun v => openDiagonal v 13 w), true)
    | tr =>
      let s4 := jamRecs s3 l 28 w (fun _ => dyadRec tr)
      ((factorIns 0).foldl (fun s i => runIns s l i) s4, true)
  else (loadBlocks s l 11 dir w geo.blocks, false)

/-! ### Running an update row -/

/-- Everything an update row of a lantern needs. -/
structure UpdCtx where
  m    : Mooring
  p    : Parsed
  u    : UpdDesc
  gp   : Group
  x    : ShardAt
  g    : ShardAt

def updCtx (s : State) (l : Nat) (r : UpdateRun) : Option UpdCtx :=
  match lanternJob s l with
  | none => none
  | some (m, b) =>
    let u := updDescAt b r.desc
    match groupOf_ b.p u, shardAt s m b.p u.param, shardAt s m b.p u.grad with
    | some gp, some x, some g => some ⟨m, b.p, u, gp, x, g⟩
    | _, _, _ => none

/-- Shards of the four states, in order. -/
def stateShards (s : State) (k : UpdCtx) : List (Option ShardAt) := k.u.states.map (shardAt s k.m k.p)

/-- Loads that precede the body of an ordinary row or a moment row: the master and the row states, then for the
factored class r, c and the total of r. -/
def rowLoads (s : State) (l : Nat) (r : UpdateRun) (k : UpdCtx) (geo : RowGeom) (w : BitVec 128) : State :=
  let s1 := loadBlocks s l 3 k.x w geo.blocks
  let s2 := (rowStates k.u r.kind).foldl (fun s q => match shardAt s k.m k.p q.1 with
    | some x => loadBlocks s l q.2 x w geo.blocks
    | none => s) s1
  if k.u.cls = 3 then
    match stateShards s k with
    | [_, some rr, some cc, some tt] =>
      let line (co : List Nat) : Nat := linearOf co.dropLast k.x.h.dims.dropLast - k.x.h.lo
      let col := geo.coords.getLastD 0
      let s3 := if k.x.h.axis + 1 = k.x.h.dims.length then
          loadBlocks (loadElem s2 l 5 rr w (line geo.coords)) l 6 cc w ((List.range 4).map (fun q => (q, col / 32 + q)))
        else loadElem (loadElems s2 l 5 rr w (fun c => line (laneCoords geo k.x.h.axis c))) l 6 cc w col
      loadTotal s3 l 28 tt w (elemsOf tt.h.t - 1)
    | _ => s2
  else s2

/-- Undo copies of the master and of the row states that the row writes (R238, R239). -/
def rowUndo (s : State) (l : Nat) (r : UpdateRun) (k : UpdCtx) (geo : RowGeom) (w : BitVec 128) : State :=
  if r.kind = 3 then s
  else
    let bs := (liveBlocks w geo.blocks).map (·.2)
    (rowStates k.u r.kind).foldl (fun s q => match shardAt s k.m k.p q.1 with
      | some x => saveBlocks s l k.m.desc.id q.1 x bs false
      | none => s) (saveBlocks s l k.m.desc.id k.u.param k.x bs false)

/-- Start row i of an update binding and run its body (R238, R248, R249, R251). -/
def beginUpdateRow (s : State) (l : Nat) (j : BindJob) (r : UpdateRun) (k : UpdCtx) (i rid : Nat) (w : BitVec 128) : State :=
  let geo := rowGeom k.x.h.dims k.x.h.axis rid
  let s0 := engineRow (modVec s l (fun v => setRow v j.bind i)) l j.chain i w (logicalIndex k.x.h geo.coords)
    (axisStride k.x.h k.x.h.axis)
  if r.kind = 3 then
    (match stateShards s k with
      | [some mm, some gl, some gr, some _] =>
        let s1 := loadBlocks s0 l 3 k.x w geo.blocks
        let a := applyInputs s1 l r.desc k.m k.x mm gl gr (directionShard k.m k.p r.desc k.x) geo w
        runList l (rowBody k.u 3 0 a.2) a.1
      | _ => s0)
  else
    let s1 := gradRow s0 l k.g k.x.h.axis geo w
    let s2 := rowUndo (rowLoads s1 l r k geo w) l r k geo w
    runList l (if k.u.cls = 0x0F then j.chain.body else rowBody k.u r.kind (lineCount k.x.h.dims) false) s2

/-- The tile of row i of an update binding. -/
def tileOfRow (k : UpdCtx) (rid : Nat) : Nat := tileOf k.x.h (rowGeom k.x.h.dims k.x.h.axis rid).coords

/-- The lanterns that run an UPDATE entry now: those whose replica's template holds it. -/
def updateLanterns (s : State) (k : UpdCtx) (desc : Nat) : List Nat :=
  (distinct (k.m.place.replicas.map (·.lantern))).filter (fun l => match replicaNow s k.p k.m.place l with
    | some (_, role) => role.entries.any (fun e => e.kind == 7 && e.arg == desc)
    | none => false)

/-- Has the binding of an update started, in the step in hand, on every lantern that runs it? Each has then waited for the
gradient records that its own replica needs (R290), so all of them are there. -/
def allBegun (s : State) (k : UpdCtx) (desc : Nat) : Bool :=
  let begun := ((mooringAt s k.m.desc.id).map (·.begun)).getD []
  (updateLanterns s k desc).all (fun l => begun.contains (desc, l))

/-- The tile work of R249, once in a step, when every replica has begun and every touched row of the tile has run its moment
row, on whichever replica. -/
def tileReady (l : Nat) (j : BindJob) (r : UpdateRun) (k : UpdCtx) (s : State) (tile : Nat) : State :=
  let id := k.m.desc.id
  let done := ((mooringAt s id).map (·.moments)).getD []
  let worked := ((mooringAt s id).map (·.tiles)).getD []
  let rows := (touchedRows s k.m k.p k.u k.x (tileRows k.x.h tile)).filter (fun z => z.2 != 0)
  if rows.isEmpty || worked.contains (r.desc, tile) || !allBegun s k r.desc || !rows.all (fun z => done.contains (r.desc, z.1)) then s
  else
    let s1 := match stateShards s k with
      | [some mm, some gl, some gr, some q] =>
        tileWork s l j.chain id r.desc k.u k.gp k.x k.g mm gl gr q (directionShard k.m k.p r.desc k.x) rows tile
      | _ => s
    modMooring s1 id (fun m => { m with tiles := m.tiles ++ [(r.desc, tile)] })

/-- A moment row has run: its tile may be ready. -/
def afterTile (s : State) (l : Nat) (j : BindJob) (r : UpdateRun) (k : UpdCtx) (rid : Nat) : State :=
  if r.kind ≠ 2 then s
  else
    let s1 := modMooring s k.m.desc.id (fun m => { m with moments := m.moments ++ [(r.desc, rid)] })
    tileReady l j r k s1 (tileOfRow k rid)

/-- Does an apply row wait for the work of its tile, which another replica's moment rows still hold (R249)? -/
def tileWaits (s : State) (l : Nat) (r : UpdateRun) (i : Nat) : Bool :=
  match updCtx s l r, r.rows[i]? with
  | some k, some (rid, w) => decide (r.kind = 3) && w != 0 && !k.m.tiles.contains (r.desc, tileOfRow k rid)
  | _, _ => false

/-- The stores that end a row (R238). -/
def endUpdateRow (s : State) (l : Nat) (j : BindJob) (r : UpdateRun) (i : Nat) : State :=
  match updCtx s l r, r.rows[i]? with
  | some k, some (rid, w) =>
    let geo := rowGeom k.x.h.dims k.x.h.axis rid
    let s1 := if r.kind = 2 then s else storeBlocks s l 16 k.x w geo.blocks
    let s2 := (rowStates k.u r.kind).zipIdx.foldl (fun s q => match shardAt s k.m k.p q.1.1 with
      | some x => storeBlocks s l (17 + q.2) x w geo.blocks
      | none => s) s1
    afterTile s2 l j r k rid
  | _, _ => s

/-- Store the results of an update row whose body has finished. -/
def finishUpdateRow (s : State) (l : Nat) : State :=
  let v := (lanternAt s l).vec
  match v.cur with
  | none => s
  | some j =>
    match j.update with
    | none => s
    | some r =>
      if v.unstored && v.todo.isEmpty && v.loadQ.isEmpty then
        endUpdateRow (modVec s l (fun v => { v with unstored := false })) l j r v.row
      else s

/-- Row i of an update binding; a row with no touched block takes no issue slots (R238). -/
def updateRow (s : State) (l : Nat) (j : BindJob) (r : UpdateRun) (i : Nat) : State :=
  let s1 := modLantern s l (fun x => countRow x none)
  match updCtx s1 l r, r.rows[i]? with
  | some k, some (rid, w) =>
    if w = 0 then s1
    else finishUpdateRow (modVec (beginUpdateRow s1 l j r k i rid w) l (fun v => { v with unstored := true })) l
  | _, _ => s1

/-- The part of a factored update that comes before its rows (R248): the statistics part, the renewal of the column statistic,
or, of an update in one piece, both. -/
def factorPart (s : State) (l : Nat) (j : BindJob) (k : UpdCtx) : State :=
  match stateShards s k with
  | [_, some rr, some cc, some tt] =>
    let stats (s : State) : State := statsPart s l j.chain k.m.desc.id k.u k.x k.g rr tt
      ((touchedRows s k.m k.p k.u k.x (ownedRows k.x.h)).filter (fun r => r.2 != 0))
    let columns (s : State) : State := columnPart s l j.chain k.m.desc.id k.u k.x cc tt
    match updPart k.u with
    | 0 => columns (stats s)
    | 1 => stats s
    | _ => columns s
  | _ => s

/-- Does an update of the factored class still wait for its part before the rows in this step (R248)? -/
def partWaits (s : State) (l : Nat) (r : UpdateRun) : Bool :=
  match updCtx s l r with
  | none => false
  | some k => decide (k.u.cls = 3) && !k.m.factored.contains r.desc

/-- The binding of an update has started on a lantern. When it has on every lantern that runs it, the work that takes all of
the module's owned lines or tiles may go on: the part of the factored class before its rows, and the tiles whose moment rows
have run. R248 does not say how replicas share that part: it runs once on the module, at the last of these starts (DESIGN
CHOICE, notes/assumptions/36.md). -/
def beforeRows (s : State) (l : Nat) (j : BindJob) (r : UpdateRun) : State :=
  match updCtx s l r with
  | none => s
  | some k =>
    let id := k.m.desc.id
    let s1 := modMooring s id (fun m => { m with begun := if m.begun.contains (r.desc, l) then m.begun else m.begun ++ [(r.desc, l)] })
    if !allBegun s1 k r.desc then s1
    else if r.kind = 2 then ((List.range k.x.h.n).map (k.x.h.lo + ·)).foldl (tileReady l j r k) s1
    else if k.u.cls ≠ 3 ∨ k.m.factored.contains r.desc then s1
    else
      let s2 := if k.m.step < k.gp.pstart then s1 else factorPart s1 l j k
      modMooring s2 id (fun m => { m with factored := m.factored ++ [r.desc] })

/-! ### Undoing an update (R228, R240) -/

/-- Copy one line's part of a saved span back: a poisoned copy poisons the line again, a clean one is written as any write
is (R143, R239). -/
def restoreLine (src dst n : Nat) (s : State) (d : Nat) : State :=
  let lo := max d dst
  let hi := min (d + 64) (dst + n)
  if s.poison.contains (src + d - dst) then addPoison s d else writeMem s lo (readMem s (src + lo - dst) (hi - lo))

/-- The tag of an undo copy as the undo area holds it. -/
def undoTag (s : State) (u : Undo) : Nat := leNat (readMem s u.tag 8)

/-- Copy a saved block back from the undo area. -/
def restoreUndo (s : State) (u : Undo) : State :=
  let s1 := (linesOf u.home.1 u.len).foldl (restoreLine u.copy.1 u.home.1 u.len) s
  if u.home.2 = u.home.1 then s1 else (linesOf u.home.2 1).foldl (restoreLine u.copy.2 u.home.2 1) s1

/-- GEN advanced by one (R228: 16 bits). -/
def nextGen (g : Nat) : Nat := (g + 1) % 2 ^ 16

/-- Had step t begun to write a shard (R240): its header carries t, with the step it carried before saved? -/
def wroteShard (m : Mooring) (t : Nat) (h : ShardHdr) : Bool := decide (h.step = t) && m.undoHdr.any (fun q => q.1 == h.tensor)

/-- Undo the update of step t: every block whose tag is (t, current GEN) is copied back, the headers of shards that
step t had begun to write take their saved UPDATE_STEP, and their GEN advances; the tiles' rule returns (R240). -/
def undoUpdate (s : State) (id t : Nat) : State :=
  match mooringAt s id with
  | none => s
  | some m =>
    let mine := m.undo.filter (fun u => decide (undoTag s u = t + 2 ^ 48 * shardGen m u.tensor))
    let s1 := mine.foldl restoreUndo s
    let wrote := m.headers.any (wroteShard m t)
    modMooring s1 id (fun y => { y with
      headers := y.headers.map (fun h => if wroteShard m t h then
          { h with step := ((y.undoHdr.find? (fun q => q.1 == h.tensor)).map (·.2)).getD h.step, gen := nextGen h.gen }
        else h),
      undo := y.undo.filter (fun u => u.step != t),
      undoHdr := if wrote then [] else y.undoHdr,
      diag := if wrote then y.diagSaved.getD y.diag else y.diag,
      diagSaved := if wrote then none else y.diagSaved })

/-- A commit releases the undo area without reading it (R240). -/
def releaseUndo (m : Mooring) : Mooring := { m with undo := [], undoHdr := [], diagSaved := none }

/-! ### Shard headers at an update (R243) -/

/-- The shards that an update writes. -/
def updShards (u : UpdDesc) : List Nat := u.param :: (namedStates u).filter (fun t => u.cls != 3 || t != u.states.getD 3 0)

/-- The first UPDATE entry of a step that writes a shard: its header is compared with the last committed step,
corrected with the event where they differ, saved, and takes the step (R240, R243). -/
def checkHeaderStep (s : State) (id tensor : Nat) : State :=
  match mooringAt s id with
  | none => s
  | some m =>
    match m.headers.find? (fun h => h.tensor == tensor) with
    | none => s
    | some h =>
      if m.undoHdr.any (fun q => q.1 == tensor) then s
      else
        let old := match m.refStep with
          | some r => r
          | none => h.step
        let s1 := if old ≠ h.step then
            raiseEventMore s evStepMismatch (some id) 0 (tensor % 2 ^ 32) [tensor, h.owner, h.step, old]
          else s
        modMooring s1 id (fun y => { y with
          undoHdr := y.undoHdr ++ [(tensor, old)],
          headers := y.headers.map (fun q => if q.tensor = tensor then { q with step := m.step } else q) })

/-! ### Issuing an UPDATE entry (R232, R237, R238) -/

/-- A binding of an update: standing alone, with the chain that carries v48 and v49 and stores them in its tail when
statistics are collected (R246). -/
def updBinding (u : UpdDesc) (stats : Nat) (c : Option Chain) (tail : List VIns) : Binding × Chain :=
  (⟨u.chain, 0, 0, u.param, 0, 1, 1, 0, 0, 128, stats :: List.replicate 7 0, List.replicate 8 0, true⟩,
   c.getD ⟨[], tail, [], 0x0003, false⟩)

def stwIns (reg off : Nat) : VIns := ⟨0x6B, ⟨0, reg, 0, 0, 0, BitVec.ofNat 24 (512 * off)⟩, true⟩

/-- The bindings of an UPDATE entry on a lantern. Every replica runs as many rows: one that owns a row fewer runs a phantom row
at the end, of which nothing is performed (R232). -/
def updJobs (s : State) (l order slot : Nat) (m : Mooring) (b : Bundle) (i : Nat) (phantom : Bool) : List BindJob :=
  let u := updDescAt b i
  match replicaNow s b.p m.place l, shardAt s m b.p u.param with
  | some (rep, role), some x =>
    let rows := (replicaRows x.h role.replicas rep.j).map (fun r => (r, (0 : BitVec 128)))
    let stats := match shardAt s m b.p u.stats with
      | some t => (stepCopy m t.pl).1 + 2048 * rep.j
      | none => 0
    let chain := if u.cls = 0x0F then b.p.chains[u.chain]? else none
    let user := (if u.cls = 0x0F then userBinding b.p u.chain else none)
    let job (kind : Nat) (rs : List (Nat × BitVec 128)) (tail : List VIns) : BindJob :=
      let bc := updBinding u stats chain (if wantsStats u then tail else [])
      { bind := { bc.1 with
          abase := (user.map (fun y => (resolveBinding m l y).abase)).getD bc.1.abase
          astep := (user.map (·.astep)).getD bc.1.astep },
        chain := bc.2, order := order, phase := 3, slot := slot, drainOf := none,
        nrows := if kind = 1 then 0 else ceilDiv (ownedRows x.h).length (max role.replicas 1),
        update := some ⟨i, rs, kind⟩, ladder := none, phantom := phantom, priv := none }
    if u.cls = 4 then [job 2 rows [stwIns 48 0], job 3 rows [stwIns 49 1]]
    else if u.cls = 3 ∧ updPart u = 1 then [job 1 [] []]
    else [job 0 rows [stwIns 48 0, stwIns 49 1]]
  | _, _ => []

/-! ### Bindings: start, rows, retirement (R114, R117 to R119) -/

/-- The constants of an update binding's group for its step (R238, R245). -/
def bindingConstants (s : State) (l : Nat) (j : BindJob) (v : VEngine) : VEngine :=
  match j.update.bind (updCtx s l) with
  | some k => loadConstants v (constants k.p k.gp k.u.cls k.m.step)
  | none => v

/-- The touched lanes of an update binding's rows, found as it starts: what earlier work of the lantern has written is then
there (R237). A poisoned byte of the touch map is noted. -/
def findTouched (s : State) (l : Nat) (j : BindJob) : State × BindJob :=
  match j.update with
  | none => (s, j)
  | some r =>
    match updCtx s l r with
    | none => (s, j)
    | some k =>
      let ids := r.rows.map (·.1)
      (noteTouch s l k.m k.p k.u k.x ids, { j with update := some { r with rows := touchedRows s k.m k.p k.u k.x ids } })

/-- BINDING_START (R117, R114, R127, R137, R238): the first waiting binding becomes the running one; an update
binding finds its touched rows and loads its constants. -/
def execBindingStart (l : Nat) (s : State) : Host.Outcome State Fault Refusal :=
  .next (
    let x := lanternAt s l
    match x.bindQ with
    | [] => s
    | j0 :: rest =>
      if !lanternLive s l ∨ x.vec.cur.isSome then s
      else
        let f := findTouched s l j0
        let j := f.2
        let s1 := modLantern f.1 l (fun y =>
          let v := y.vec
          let v1 := if j.chain.keep then v else clearRegs v (fun n => !carried j.chain n)
          { y with
            bindQ := rest,
            vec := { bindingConstants s l j v1 with
              cur := some j, tabOf := some j.bind.chain, tables := j.chain.tables,
              row := 0, rowsRun := 0, nrows := j.nrows, todo := [], index := 0, unstored := false, tailRun := false,
              flags := 0, gtop := -32768, ghalf := false, gsat := false, peerTags := [] } })
        match j.update with
        | some r => beforeRows s1 l j r
        | none => s1)

/-- Start the next row or the tail, if there is one and nothing holds it. -/
def startNextRow (s : State) (l : Nat) : State :=
  if !rowFree s l then s
  else
    let s1 := finishUpdateRow s l
    let x := lanternAt s1 l
    match x.vec.cur with
    | none => s1
    | some j =>
      match nextRow x j with
      | .none => s1
      | .row i d =>
        if mergeWaits x j j.chain.body i then s1
        else match j.update with
          | some r =>
            if j.phantom then modLantern (performStores s1 l) l (fun y => countRow y none)
            else if tileWaits s1 l r i || partWaits s1 l r then s1
            else updateRow (performStores s1 l) l j r i
          | none => chainRow (performStores s1 l) l j i d
      | .tail i => if mergeWaits x j j.chain.tail i then s1 else chainTail (performStores s1 l) l j i

/-- CHAIN_ROW_START (R114, R117, R118, R238). -/
def execChainRowStart (l : Nat) (s : State) : Host.Outcome State Fault Refusal := .next (startNextRow s l)

/-- Queued stores are performed; once every store of a binding that has issued everything has been performed at its target,
the binding retires: its flags and statistics go to its step, and its event counter advances; of the two bindings of one
block-preconditioned update, the second completes it (R119, R155, R249); one of the factored class does not retire before its
part has run (R248). -/
def retireBinding (s : State) (l : Nat) : State :=
  if !lanternLive s l ∨ !bindingIssued (lanternAt s l) ∨ ((lanternAt s l).vec.cur.bind (·.update)).any (partWaits s l) then s
  else
    let s1 := performStores (finishUpdateRow s l) l
    let v := (lanternAt s1 l).vec
    if !v.peerTags.isEmpty then s1
    else match v.cur with
      | none => s1
      | some j =>
        let s2 := match (lanternAt s1 l).mooring with
          | some id => modMooring s1 id (fun m => gatherLadder (gatherFlags m v.flags j.phase) j.ladder v)
          | none => s1
        let s3 := modVec s2 l (fun v => { v with cur := none })
        match j.update with
        | none => bumpEvent s3 l 13 1
        | some r => if r.kind = 2 then s3 else bumpEvent s3 l 15 1

/-- BINDING_RETIRE (R119). -/
def execBindingRetire (l : Nat) (s : State) : Host.Outcome State Fault Refusal := .next (retireBinding s l)

end Sys2Proof.Machine
end

