-- ==== Sys2Proof/Machine/Schedule.lean ====
section
/-! DEFINITION. Machine/Schedule.lean: a lantern's schedule memory and the issue of its entries (R153 to R155,
R162, R198, R219 to R221). -/

namespace Sys2Proof.Machine

/-- The lanterns whose work is a mooring's. -/
def lanternsOf (s : State) (id : Nat) : List Nat :=
  (List.range 192).filter (fun l => decide ((lanternAt s l).mooring = some id))

/-- The entry that a lantern would issue next: it runs, nothing holds its issue, END has not issued (R154). -/
def headEntry (s : State) (l : Nat) : Option SchedEntry :=
  let x := lanternAt s l
  if lanternLive s l && x.running && !x.waiting && !x.holding && !x.updHold && !x.endIssued then x.sched[x.pc]? else none

/-- Past the entry in hand. -/
def nextEntry (s : State) (l : Nat) : State := modLantern s l (fun x => { x with pc := x.pc + 1 })

/-- Issue the next entry if it is of a kind, in the mooring and the bundle that the lantern runs. -/
def issueEntry (s : State) (l kind : Nat) (act : State → Mooring → Bundle → SchedEntry → State) : State :=
  match headEntry s l, lanternJob s l with
  | some e, some (m, b) => if e.kind = kind then act s m b e else s
  | _, _ => s

/-! ### LENS, CHAIN, DMA -/

/-- Descriptors in the lens queue that have not retired (R58). -/
def lensInHand (x : Lantern) : Nat := (x.lensQ.filter (fun j => !j.retired)).length

/-- LENS (R154): into the lens queue of eight; in a phantom unit block VALID_M is 0 (R162). -/
def execLens (l : Nat) (s : State) : Host.Outcome State Fault Refusal :=
  .next (issueEntry s l 1 (fun s _ b e =>
    match b.p.lens[e.arg]? with
    | none => s
    | some d =>
      if 8 ≤ lensInHand (lanternAt s l) then s
      else
        let d1 := { d with slot := e.slot, validM := if e.phantom then 0 else d.validM }
        nextEntry (issueLens s l d1 (lanternAt s l).pc e.phase) l))

/-- Does a schedule entry drain entries into the chain (R81), or take drained rows (R118)? -/
def entryDrains (p : Parsed) (e : SchedEntry) : Bool :=
  e.kind == 1 && ((p.lens[e.arg]?).map drains).getD false

def entryTakes (p : Parsed) (e : SchedEntry) : Bool :=
  e.kind == 2 && ((p.bindings[e.arg]?).map (fun b => b.source != 2)).getD false

/-- The drain that the binding at schedule index i consumes: bindings and drains pair in schedule order. -/
def drainFor (p : Parsed) (sched : List SchedEntry) (i : Nat) : Option (Nat × LensDesc) :=
  let k := ((sched.take i).filter (entryTakes p)).length
  let ds := sched.zipIdx.filter (fun q => entryDrains p q.1)
  (ds[k]?).bind (fun q => (p.lens[q.1.arg]?).map (fun d => (q.2, d)))

/-- The binding that a CHAIN entry issues (R116, R117, R152). -/
def chainJob (s : State) (l : Nat) (m : Mooring) (p : Parsed) (e : SchedEntry) (b : Binding) : BindJob :=
  let x := lanternAt s l
  let dr := if b.source = 2 then none else drainFor p x.sched x.pc
  { bind := resolveBinding m l b, chain := p.chains.getD b.chain ⟨[], [], [], 0, false⟩, order := x.pc,
    phase := e.phase, slot := e.slot, drainOf := dr.map (·.1),
    nrows := (dr.map (fun d => drainRows d.2)).getD b.rows, update := none, ladder := laddered p e.arg, phantom := e.phantom,
    priv := none }

/-- CHAIN (R154): into the queue of four bindings. -/
def execChain (l : Nat) (s : State) : Host.Outcome State Fault Refusal :=
  .next (issueEntry s l 2 (fun s m b e =>
    match b.p.bindings[e.arg]? with
    | none => s
    | some bd =>
      if 4 ≤ (lanternAt s l).bindQ.length then s
      else nextEntry (modLantern s l (fun x => { x with bindQ := x.bindQ ++ [chainJob s l m b.p e bd] })) l))

/-- DMA (R154): into its channel's queue of two programs. -/
def execDma (l : Nat) (s : State) : Host.Outcome State Fault Refusal :=
  .next (issueEntry s l 3 (fun s m b e =>
    match b.p.dma[e.arg]? with
    | none => s
    | some ds =>
      let c : Chan := .lantern l e.chan
      if 2 ≤ (chanAt s c).queue.length then s
      else nextEntry (modChan s c (fun x => { x with
        queue := x.queue ++ [⟨ds.map (resolveDma m l), e.arg, e.slot, false⟩] })) l))

/-! ### WAIT, HOLD, UPDATE, END -/

/-- The value of an event counter (R155). -/
def eventAt (x : Lantern) (k : Nat) : Nat := x.events.getD k 0

/-- WAIT (R154): passes when the counter has reached the value, else holds issue. -/
def execWait (l : Nat) (s : State) : Host.Outcome State Fault Refusal :=
  .next (issueEntry s l 4 (fun s _ _ e =>
    if e.arg ≤ eventAt (lanternAt s l) e.chan then nextEntry s l
    else modLantern s l (fun x => { x with waiting := true })))

/-- WAIT_SATISFIED (R154): the counter has reached the value; issue goes on. -/
def execWaitSatisfied (l : Nat) (s : State) : Host.Outcome State Fault Refusal :=
  .next (
    let x := lanternAt s l
    match x.sched[x.pc]? with
    | none => s
    | some e =>
      if lanternLive s l ∧ x.waiting ∧ e.kind = 4 ∧ e.arg ≤ eventAt x e.chan then
        nextEntry (modLantern s l (fun x => { x with waiting := false })) l
      else s)

/-- HOLD (R220): passes at once when the Keeper has written the step's L and ladder controls, else holds issue. A serving mooring passes no hold line
(R474). -/
def execHold (l : Nat) (s : State) : Host.Outcome State Fault Refusal :=
  .next (issueEntry s l 6 (fun s m _ _ =>
    if m.holdOpen ∨ m.desc.kind = 1 then nextEntry s l
    else modLantern s l (fun x => { x with holding := true })))

/-- The lanterns that hold at HOLD go on (R220). -/
def releaseHolds (s : State) (id : Nat) : State :=
  { s with lanterns := s.lanterns.map (fun x =>
      if x.mooring = some id ∧ x.holding then { x with holding := false, pc := x.pc + 1 } else x) }

/-- UPDATE (R154, R219, R232, R238, R243, R359): held until the copies of the last commit are announced; then its
bindings join the queue of four. -/
def execUpdate (l : Nat) (s : State) : Host.Outcome State Fault Refusal :=
  .next (issueEntry s l 7 (fun s m b e =>
    if !m.announced then modLantern s l (fun x => { x with updHold := true })
    else
      let x := lanternAt s l
      let js := updJobs s l x.pc e.slot m b e.arg e.phantom
      if 4 < x.bindQ.length + js.length then s
      else
        let s1 := (updShards (updDescAt b e.arg)).foldl (fun s t => checkHeaderStep s m.desc.id t) s
        nextEntry (modLantern s1 l (fun x => { x with bindQ := x.bindQ ++ js })) l))

/-- END (R154): issues after every earlier entry; nothing more issues until the next step starts. -/
def execSchedEnd (l : Nat) (s : State) : Host.Outcome State Fault Refusal :=
  .next (issueEntry s l 0 (fun s _ _ _ => nextEntry (modLantern s l (fun x => { x with endIssued := true })) l))

/-- Has all work of a lantern retired on every engine (R154)? -/
def workDone (x : Lantern) : Bool :=
  x.lensQ.all (·.retired) && x.drainQ.isEmpty && x.bindQ.isEmpty && x.vec.cur.isNone && x.coll.isEmpty &&
  x.dma.all (fun c => c.queue.isEmpty && c.flights.all (·.bad))

/-- A lantern that runs replicas in turn goes on with the next: its schedule, with counters as at a start (R163). -/
def nextTurn (p : Parsed) (m : Mooring) (l : Nat) (x : Lantern) : Lantern :=
  { x with
    sched := lanternSchedule p m.ladders m.place l (x.turn + 1)
    turn := x.turn + 1
    pc := 0
    events := List.replicate 16 0
    passesRead := 0
    endIssued := false }

/-- END_RETIRE (R154): the work of every earlier entry has retired; the lantern's next replica runs, or its step ends. -/
def execEndRetire (l : Nat) (s : State) : Host.Outcome State Fault Refusal :=
  .next (
    let x := lanternAt s l
    if lanternLive s l && x.endIssued && !x.endRetired && workDone x then
      (match lanternJob s l with
      | some (m, b) =>
        if x.turn + 1 < (turnsOf m.place l).length then modLantern s l (nextTurn b.p m l)
        else modLantern s l (fun x => { x with endRetired := true, running := false })
      | none => modLantern s l (fun x => { x with endRetired := true, running := false }))
    else s)

end Sys2Proof.Machine
end

