-- ==== Sys2Proof/Machine/Endpoint.lean ====
section
/-! DEFINITION. Machine/Endpoint.lean: the module's end of the streams: acknowledgement and resend, the daymark
rule, and carrier-peer requests and responses (R265, R266, R277 to R281, R312, R323, R346, R362). -/

namespace Sys2Proof.Machine

/-! ### ACK and NAK (R264, R265, R279) -/

/-- A control packet of the streams: not sequenced, sent at once. -/
def sendControl (s : State) (typ dest cls seq arg : Nat) : State :=
  inject s (finishPacket { Packet.blank with
    typ := typ, cls := 1, dest := dest, src := selfNode s, tag := cls, seq := seq, arg := arg })

def dstAt (s : State) (src cls : Nat) : Option DstStream :=
  s.router.dst.find? (fun d => d.src == src && d.cls == cls)

def modDst (s : State) (src cls : Nat) (f : DstStream → DstStream) : State :=
  modRouter s (fun r => { r with dst := r.dst.map (fun d => if d.src = src ∧ d.cls = cls then f d else d) })

/-- Acknowledge the last packet delivered of a stream. -/
def sendAck (s : State) (d : DstStream) : State :=
  sendControl (modDst s d.src d.cls (fun x => { x with sinceAck := 0 })) 0x10 d.src d.cls ((d.expect + 2 ^ 32 - 1) % 2 ^ 32) 0

/-- May a NAK be sent: none since the expected packet last arrived, or 10 us have passed (R279)? -/
def mayNak (s : State) (d : DstStream) : Bool :=
  match d.nakAt with
  | none => true
  | some t => decide (t + 10000 ≤ nowNs s)

/-- NAK a stream: with the expected SEQ, or with RESTART when no stream is held (R277); of either at most one until the
packet it asks for arrives or 10 us pass (R279). -/
def sendNak (s : State) (src cls : Nat) : State :=
  match dstAt s src cls with
  | none =>
    if s.router.restarts.any (fun n => n.1 == src && n.2.1 == cls && decide (nowNs s < n.2.2 + 10000)) then s
    else
      let s1 := modRouter s (fun r => { r with
        restarts := (src, cls, nowNs s) :: r.restarts.filter (fun n => !(n.1 == src && n.2.1 == cls)) })
      sendControl (bumpEnd s1 3 1) 0x11 src cls 0 1
  | some d =>
    if mayNak s d then
      sendControl (bumpEnd (modDst s src cls (fun x => { x with nakAt := some (nowNs s) })) 3 1) 0x11 src cls d.expect 0
    else s

/-! ### Receiving a sequenced packet (R277, R278) -/

/-- Number a of a stream stands before number b (R277: serial arithmetic, window 2^31). -/
def seqBefore (a b : Nat) : Bool :=
  let d := (b + 2 ^ 32 - a % 2 ^ 32) % 2 ^ 32
  decide (0 < d) && decide (d ≤ 2 ^ 31)

/-- A packet that has reached its end leaves the router's hands. -/
def takeArrived (s : State) (p : Packet) : State := modRouter s (fun r => { r with arrived := r.arrived.erase p })

/-- The state of the stream after START (R277). -/
def startDst (s : State) (p : Packet) : State :=
  if !p.start then s
  else match dstAt s p.src p.cls with
    | some _ => modDst s p.src p.cls (fun d => { d with expect := p.seq, sinceAck := 0, nakAt := none })
    | none => modRouter s (fun r => { r with
        dst := r.dst ++ [⟨p.src, p.cls, p.seq, 0, none⟩]
        restarts := r.restarts.filter (fun n => !(n.1 == p.src && n.2.1 == p.cls)) })

/-- What the daymark rule says of a packet (R278, R323, R346): delivered, consumed, or discarded unconsumed. -/
inductive DmVerdict where
  | deliver | consume | leave
  deriving DecidableEq, Repr

/-- The request that owns a tag. -/
def reqAt (s : State) (tag : Nat) : Option PeerReq := s.router.reqs.find? (fun r => r.tag == tag)

/-- Is a packet one of a mooring that this module has left: it left it so lately that the packet may be late (R346: 11 s), and
the packet's daymark is none that came after? The rule names no module that the mooring has never had here (DESIGN CHOICE,
notes/assumptions/40.md). -/
def closedBefore (s : State) (p : Packet) : Bool :=
  s.keeper.closed.any (fun c => decide (c.1 = p.mooring) && decide (nowNs s < c.2.1 + 11000000000) &&
    decide (dmCompare p.daymark c.2.2 ≠ .newer))

/-- The daymark rule (R278, R323, R346) for a packet of a mooring, a response, or one that names no domain. -/
def dmRule (s : State) (p : Packet) : DmVerdict :=
  if p.dmk = 1 then
    match mooringAt s p.mooring with
    | none => if p.typ = 1 ∨ p.typ = 2 then .deliver else if closedBefore s p then .consume else .leave
    | some m => match dmCompare p.daymark m.daymark with
      | .equal => .deliver
      | .older => .consume
      | .newer => .leave
  else if p.dmk = 2 then
    match reqAt s p.tag with
    | none => .consume
    | some r => if p.daymark = domainDaymark s r.dom then .deliver else .consume
  else .deliver

/-- The kind of a domain: lantern, tower, shore core, Keeper, mooring. -/
def domainKind : Domain → Nat
  | .lantern _ => 0
  | .tower _ => 1
  | .shore _ => 2
  | .keeper => 3
  | .mooring _ => 4

/-- A daymark drop is counted for the kind of its domain (R368); a response that no request awaits any more, for a lantern's
(DESIGN CHOICE, notes/assumptions/37.md). -/
def countDrop (s : State) (p : Packet) : State :=
  let k := if p.dmk = 1 then 4 else ((reqAt s p.tag).map (fun r => domainKind r.dom)).getD 0
  modKeeper s (fun y => { y with dmDrops := bump y.dmDrops k 1 })

/-- The stream has taken a packet: the expected SEQ advances; an ACK leaves after 16 (R279). -/
def consumeSeq (s : State) (p : Packet) : State :=
  let s1 := modDst s p.src p.cls (fun d => { d with expect := (p.seq + 1) % 2 ^ 32, sinceAck := d.sinceAck + 1, nakAt := none })
  match dstAt s1 p.src p.cls with
  | some d => if 16 ≤ d.sinceAck then sendAck s1 d else s1
  | none => s1

/-- A sequenced packet reaches its destination (R277): the state after, and the packet if it is delivered. room
says whether the receiving engine has room for it. -/
def receiveSeq (s : State) (room : Bool) (p : Packet) : State × Option Packet :=
  let s := takeArrived s p
  if p.trailer ≠ packetCrc p then
    (sendNak (bumpEnd s (if p.trailer = stompTrailer then 8 else 7) 1) p.src p.cls, none)
  else
    let s1 := startDst s p
    match dstAt s1 p.src p.cls with
    | none => (sendNak s1 p.src p.cls, none)
    | some d =>
      if seqBefore p.seq d.expect then (sendAck (bumpEnd s1 9 1) d, none)
      else if p.seq ≠ d.expect then (sendNak (bumpEnd s1 10 1) p.src p.cls, none)
      else
        let s2 := modDst s1 p.src p.cls (fun x => { x with nakAt := none })
        match dmRule s2 p with
        | .leave => (sendNak (bumpEnd s2 11 1) p.src p.cls, none)
        | .consume => (consumeSeq (countDrop (bumpEnd s2 12 1) p) p, none)
        | .deliver =>
          if room then (consumeSeq s2 p, some p)
          else (sendNak (bumpEnd s2 11 1) p.src p.cls, none)

/-- Receive a packet of a type that has reached this module, and act on it when it is delivered. -/
def onPacket (s : State) (typ : Nat) (p : Packet) (room : Bool) (act : State → Packet → State) : State :=
  if p.typ ≠ typ ∨ p.dest ≠ selfNode s then s
  else
    let r := receiveSeq s room p
    match r.2 with
    | some q => act r.1 q
    | none => r.1

/-! ### Carrier-peer requests at their target (R22, R143, R265, R281) -/

/-- Whose windows bind a carrier-peer request (R22, R264, R265 status 0x03): those of the mooring it names, if this module
serves it; none, as a request that names no mooring comes from privileged work (DEDUCED, notes/assumptions/15.md). -/
def servesMooring (s : State) (id : Nat) : Option (Option Mooring) :=
  if s.boot.state = 3 then none else if id = 0xFFFF then some none else (mooringAt s id).map some

/-- Does a carrier-peer request pass the target's checks (R22, checks 4 to 9)? -/
def peerTargetOk (s : State) (o : Option Mooring) (a n : Nat) : Bool :=
  match regionOf a with
  | none => false
  | some r =>
    inRange r a n && (!(r == .store || r == .acc) || enabledLantern s (bits a 47 40)) && (!(r == .acc) || s.keeper.debug) &&
    (match o with
    | none => true
    | some m => !(r == .keeper) && (windowsOf s m.desc m.place.regions).any (windowCovers a n none false))

/-- The tower whose store keeps the packets that the I/O die on the side of an address makes (R21, R280): LPDDR5X lies
behind one of the two dies, and a tower's memories beside one (DESIGN CHOICE, notes/assumptions/17.md). -/
def dieTower (a : Nat) : Nat :=
  match regionOf a with
  | some .lpddr => if bits a 39 0 < 0x6000000000 then 0 else 2
  | some .sram => if bits a 39 0 < 2 * 0xC0000000 then 0 else 2
  | some .store => if bits a 47 40 < 96 then 0 else 2
  | _ => 0

/-- Answer a carrier-peer request: the response returns the daymark of the requesting domain (R346) and the request's
MOORING and TAG (notes/assumptions/17.md). -/
def answerPeer (s : State) (p : Packet) (typ status : Nat) (data : List Byte) : State :=
  sendSeq s (dieTower (bits p.arg 55 0)) { Packet.blank with
    typ := typ, cls := 1, dmk := 2, dest := p.src, daymark := p.domain, mooring := p.mooring, tag := p.tag,
    arg := status, payload := data }

/-- Perform a carrier-peer write; its status. -/
def peerWriteHere (s : State) (p : Packet) : State × Nat :=
  match servesMooring s p.mooring with
  | none => (s, 3)
  | some m =>
    let a := bits p.arg 55 0
    let n := p.payload.length
    if !peerTargetOk s m a n then (s, 1)
    else (writeMem s a p.payload, if partialPoison s a n then 2 else 0)

/-- PEER_WRITE (R281): performed, then answered by PEER_DONE. -/
def execPeerWrite (p : Packet) (s : State) : Host.Outcome State Fault Refusal :=
  .next (onPacket s 0x01 p true (fun s p =>
    let r := peerWriteHere s p
    answerPeer r.1 p 0x04 r.2 []))

/-- RLEN of a PEER_READ is 8 to 2,048, a multiple of 8 (R264). -/
def rlenOk (n : Nat) : Bool := decide (8 ≤ n) && decide (n ≤ 2048) && decide (n % 8 = 0)

/-- Read for a carrier-peer request: the state after, a status, the data. -/
def peerReadHere (s : State) (p : Packet) : State × Nat × List Byte :=
  let open_ (st n : Nat) (s : State) : State × Nat × List Byte :=
    let f := freeBytes n s
    (f.2, st, f.1)
  if !rlenOk p.rlen then (s, 1, [])
  else match servesMooring s p.mooring with
    | none => open_ 3 p.rlen s
    | some m =>
      let a := bits p.arg 55 0
      if !peerTargetOk s m a p.rlen then open_ 1 p.rlen s
      else match poisonedLines s a p.rlen with
        | [] => (s, 0, readMem s a p.rlen)
        | ls => open_ 2 p.rlen (ls.foldl (fun s l => notePoisonLine s (some p.mooring) 0 l) s)

/-- PEER_READ (R281): answered by one PEER_DATA of RLEN bytes. -/
def execPeerRead (p : Packet) (s : State) : Host.Outcome State Fault Refusal :=
  .next (onPacket s 0x02 p true (fun s p =>
    let r := peerReadHere s p
    answerPeer r.1 p 0x03 r.2.1 r.2.2))

/-! ### Carrier-peer responses (R265, R281, R346) -/

/-- The load of a lantern that awaits a tag. -/
def loadFor (v : VEngine) (tag : Nat) : Option VLoad := v.loadQ.find? (fun ld => ld.tags.contains tag)

/-- Data, or a failure, for a vector load; a failed access is an address error of its instruction with cause PEER or POISON
(R136). A row whose access was split into several requests raises one event for each that fails (DESIGN CHOICE,
notes/assumptions/37.md). -/
def vecLoadAnswer (s : State) (l tag key : Nat) (bs : List Byte) (status : Nat) : State :=
  match loadFor (lanternAt s l).vec tag with
  | none => s
  | some ld =>
    let ld1 : VLoad := { ld with
      tags := ld.tags.erase tag, fail := ld.fail || decide (status ≠ 0),
      data := if status = 0 then setBytes ld.data key bs else ld.data }
    let s1 := modVec s l (fun v => { v with loadQ := v.loadQ.map (fun y => if y = ld then ld1 else y) })
    if status = 0 then s1
    else vecAddrErrorAt s1 l (if status = 2 then causePoison else causePeer) (lanternAt s l).vec.row ld.index

/-- PEER_DONE for the store of an instruction. -/
def vecStoreAnswer (s : State) (l row index tag status : Nat) : State :=
  if !(lanternAt s l).vec.peerTags.contains tag then s
  else
    let s1 := modVec s l (fun v => { v with peerTags := v.peerTags.erase tag })
    if status = 0 then s1 else vecAddrErrorAt s1 l (if status = 2 then causePoison else causePeer) row index

/-- A collective ends with a collective fault (R312): FAULT in the verdict; its engine is free. -/
def collFault (s : State) (l : Nat) (c : CollInst) : State :=
  let s1 := modLantern s l (fun x => { x with coll := x.coll.erase c })
  match lanternMooring s l with
  | none => s1
  | some id => modMooring s1 id (fun m => { m with gathered := { m.gathered with fault := true } })

/-- An answer for a collective engine (R281, R312): data kept by their module addresses; a failed access is a collective
fault. -/
def collAnswer (s : State) (l tag key : Nat) (bs : List Byte) (status : Nat) : State :=
  match (lanternAt s l).coll.find? (fun c => c.tags.contains tag) with
  | none => s
  | some c =>
    let c1 : CollInst := { c with tags := c.tags.erase tag, buf := if status = 0 then setBytes c.buf key bs else c.buf }
    let s1 := modLantern s l (fun x => { x with coll := x.coll.map (fun y => if y = c then c1 else y) })
    if status = 0 then s1 else collFault s1 l c1

/-- An answer reaches whoever asked. -/
def deliverAnswer (s : State) (r : PeerReq) (data : List Byte) (status : Nat) : State :=
  let s1 := modRouter s (fun x => { x with reqs := x.reqs.erase r })
  match r.who with
  | .dmaRead c _ _ _ => dmaAnswer s1 c r data status
  | .dmaWrite c _ => dmaAnswer s1 c r data status
  | .vecLoad l key skip left => vecLoadAnswer s1 l r.tag key ((data.drop skip).take left) status
  | .vecStore l row index => vecStoreAnswer s1 l row index r.tag status
  | .keeper key skip left => keeperAnswer s1 r.tag key ((data.drop skip).take left) status
  | .shore c => if status = 0 then s1 else shoreFault s1 c 0
  | .coll l key skip left => collAnswer s1 l r.tag key ((data.drop skip).take left) status

/-- PEER_DONE (R281): the response of a PEER_WRITE. -/
def execPeerDone (p : Packet) (s : State) : Host.Outcome State Fault Refusal :=
  .next (onPacket s 0x04 p true (fun s p =>
    match reqAt s p.tag with
    | some r => deliverAnswer s r [] (bits p.arg 7 0)
    | none => s))

/-! ### The source end (R279, R280) -/

/-- Send again every unacknowledged packet of a stream that p holds of, in order. -/
def resendFrom (s : State) (t : SrcStream) (p : Packet → Bool) : State :=
  (t.unacked.filter (fun q => p q.2)).foldl (fun s q => inject (bumpEnd s 1 1) (finishPacket { q.2 with resent := true })) s

/-- ACK (R279, R280): every copy up to the acknowledged SEQ is freed; what any stream holds back may leave, as far as there is
room. -/
def execAck (p : Packet) (s : State) : Host.Outcome State Fault Refusal :=
  .next (
    if p.typ ≠ 0x10 ∨ p.dest ≠ selfNode s then s
    else
      let s := takeArrived s p
      if p.trailer ≠ packetCrc p then bumpEnd s (if p.trailer = stompTrailer then 8 else 7) 1
      else
        let cls := p.tag % 4
        match streamAt s p.src cls with
        | none => s
        | some t =>
          let rest := t.unacked.filter (fun q => seqBefore p.seq q.2.seq)
          let s1 := modStream s p.src cls (fun x => { x with unacked := rest, expiries := 0, backoff := 0 })
          releaseAll (bumpEnd s1 2 (t.unacked.length - rest.length)))

/-- A stream numbered anew from 0, its first packet with START, and sent again (R279). -/
def restartStream (s : State) (t : SrcStream) : State :=
  let again := t.unacked.zipIdx.map (fun q =>
    (q.1.1, finishPacket { q.1.2 with seq := q.2, start := decide (q.2 = 0), resent := true }))
  let s1 := modStream s t.dest t.cls (fun x => { x with unacked := again, next := again.length, fresh := again.isEmpty })
  again.foldl (fun s q => inject (bumpEnd s 1 1) q.2) s1

/-- Is a SEQ of a stream being resent: does its copy still wait for an output (R279)? -/
def resending (s : State) (dest cls seq : Nat) : Bool :=
  s.router.waiting.any (fun h => h.pkt.resent && decide (h.pkt.dest = dest) && decide (h.pkt.cls = cls) && decide (h.pkt.seq = seq))

/-- NAK (R279): every unacknowledged packet from the expected SEQ on is sent again, but for a SEQ that is being resent
already; on RESTART under new numbers. -/
def execNak (p : Packet) (s : State) : Host.Outcome State Fault Refusal :=
  .next (
    if p.typ ≠ 0x11 ∨ p.dest ≠ selfNode s then s
    else
      let s := takeArrived s p
      if p.trailer ≠ packetCrc p then bumpEnd s (if p.trailer = stompTrailer then 8 else 7) 1
      else
        let s := bumpEnd s 4 1
        match streamAt s p.src (p.tag % 4) with
        | none => s
        | some t =>
          if bit p.arg 0 then restartStream s t
          else if resending s t.dest t.cls p.seq then s
          else resendFrom s t (fun q => !seqBefore q.seq p.seq))

/-- ACK_TIMER (R279): 2 us after the oldest unacknowledged packet. -/
def execAckTimer (src cls : Nat) (s : State) : Host.Outcome State Fault Refusal :=
  .next (match dstAt s src cls with
    | some d => if 0 < d.sinceAck then sendAck s d else s
    | none => s)

/-! ### Failed streams (R279, R312, R362) -/

/-- Probe a node of a mooring (R362). -/
def probeNode (s : State) (id node : Nat) : State :=
  tellNode (modMooring (bumpModule s 5 1) id (fun y => { y with
    probing := if y.probing.contains node then y.probing else y.probing ++ [node] })) node (.probe id)

/-- The Keeper has cause to suspect a member: the anchor probes it, another member tells the anchor (R362). -/
def suspect (s : State) (m : Mooring) (node : Nat) : State :=
  if anchorOf m = selfNode s then probeNode s m.desc.id node
  else tellNode s (anchorOf m) (.suspect m.desc.id node)

/-- Every mooring with a member at a node comes to suspect it. -/
def suspectAll (s : State) (node : Nat) : State :=
  s.moorings.foldl (fun s m => if (membersOf s m).contains node then suspect s m node else s) s

/-- Is a packet one that a collective instance of a mooring sends (R294)? A RECV sends none (R302, R311). -/
def packetOf (id : Nat) (c : CollInst) (q : Packet) : Bool :=
  decide (c.desc.op ≠ 6) && decide (q.typ = 8) && decide (q.mooring = id) && decide (bits q.arg 27 16 = c.inst) && decide (bits q.arg 35 28 = c.replica) &&
  decide (bits q.arg 15 0 = if c.desc.op = 5 then c.desc.paired else c.index)

/-- The packets of a stream that are not yet acknowledged, those held back included. -/
def streamPackets (t : SrcStream) : List Packet := (t.unacked ++ t.held).map (·.2)

/-- Collectives that use a failed stream fault. -/
def faultColls (s : State) (t : SrcStream) : State :=
  (List.range 192).foldl (fun s l =>
    match lanternMooring s l with
    | none => s
    | some id => (lanternAt s l).coll.foldl (fun s c =>
        if (streamPackets t).any (packetOf id c) then collFault s l c else s) s) s

/-- A permute that uses a failed stream ends with a collective fault (R305). -/
def faultPermutes (s : State) (t : SrcStream) : State :=
  { s with moorings := s.moorings.map (fun m =>
      if m.moving.isSome && (streamPackets t).any (fun q => decide (q.typ = 8) && decide (q.mooring = m.desc.id) && decide (bits q.arg 35 28 = 0xFF))
      then { m with moving := m.moving.map (fun v => { v with failed := true }) } else m) }

/-- A stream fails (R279): every operation that waits on it fails, the peer-unreachable event is raised, and the next
packet opens it again. -/
def failStream (s : State) (t : SrcStream) : State :=
  let s1 := modRouter (bumpEnd s 6 1) (fun r => { r with src := r.src.filter (fun x => !(x.dest == t.dest && x.cls == t.cls)) })
  let tags := (streamPackets t).filterMap (fun q => if q.typ = 1 ∨ q.typ = 2 then some q.tag else none)
  let s2 := tags.foldl (fun s g => match reqAt s g with
    | some r => deliverAnswer s r [] 1
    | none => s) s1
  let s3 := faultPermutes (faultColls s2 t) t
  suspectAll (raiseEventP (releaseAll s3) evPeer 0 (t.dest + t.cls * 2 ^ 24)) t.dest

/-- STREAM_TIMEOUT (R279): sent again from the oldest unacknowledged packet; the timeout doubles up to 16 times its
set value; eight expiries in a row fail the stream. -/
def execStreamTimeout (dest cls : Nat) (s : State) : Host.Outcome State Fault Refusal :=
  .next (match streamAt s dest cls with
    | none => s
    | some t =>
      if t.unacked.isEmpty then s
      else
        let s1 := bumpEnd s 5 1
        if 7 ≤ t.expiries then failStream s1 t
        else resendFrom (modStream s1 dest cls (fun x => { x with expiries := x.expiries + 1, backoff := min 4 (x.backoff + 1) })) t (fun _ => true))

end Sys2Proof.Machine
end

