-- ==== Sys2Proof/Machine/Collectives.lean ====
section
/-! DEFINITION. Machine/Collectives.lean: the collective engines: issue, stages, packets, completion (R287 to R313).
POS numbers the packets of a replica's slice in the order of their elements, stage by stage (notes/assumptions/18.md). -/

namespace Sys2Proof.Machine

/-! ### Members along an axis (R289, R313) -/

/-- The node that stands at member i of an axis, every other index equal to this module's. -/
def axisNode (s : State) (m : Mooring) (a i : Nat) : Nat :=
  standsIn m.subs (nodeOf (setAt (coordsOf (positionOf m.subs (selfNode s))) a ((axisCoords s m.desc a).getD i 0)))

/-- The axes of a role, inner first (R289). -/
def roleAxes (d : MDesc) (role : Nat) : List Nat :=
  [0, 1, 2, 3].filter (fun a => (axisAt d a).role == role && decide (1 < (axisAt d a).extent))

/-- This module's index on an axis. -/
def myIdx (s : State) (m : Mooring) (a : Nat) : Nat := memberIdx s m.desc (positionOf m.subs (selfNode s)) a

/-- The form of an axis in the running step: none for a ring, or the member at which its line starts. A break is
kept as one more than the member before it, 0 for a return to the ring (R313). -/
def lineStart (m : Mooring) (a : Nat) : Option Nat :=
  let x := axisAt m.desc a
  if !x.ring then some 0
  else match (m.lines.filter (fun p => decide (p.1 = a) && decide (p.2.2 ≤ m.step))).getLast? with
    | some (_, b, _) => if b = 0 then none else some (b % x.extent)
    | none => none

/-! ### Stages -/

/-- A stage of a collective: 1 reduces, 2 gathers, 4 broadcasts, 5 sends, 6 receives, 7 exchanges lengths, 8 exchanges
units; the axis, its members, this module's index, where its line starts. -/
structure CStage where
  kind  : Nat
  axis  : Nat
  n     : Nat
  me    : Nat
  start : Option Nat
  deriving DecidableEq, Repr

def stageOn (s : State) (m : Mooring) (kind a : Nat) : CStage :=
  ⟨kind, a, (axisAt m.desc a).extent, myIdx s m a, lineStart m a⟩

/-- The stages of a collective (R297, R301 to R303); none where its partner or root does not exist (R311). -/
def collStages (s : State) (m : Mooring) (d : CollDesc) : List CStage :=
  let ax := roleAxes m.desc d.role
  let span := roleSpan s m.desc (positionOf m.subs (selfNode s)) d.role
  let at_ (i : Int) : Bool := decide (0 ≤ i) && decide (i < (span.1 : Int))
  let there := at_ ((span.2 : Int) + d.peer)
  match d.op with
  | 1 => ax.map (stageOn s m 1)
  | 2 => ax.reverse.map (stageOn s m 2)
  | 3 => ax.map (stageOn s m 1) ++ ax.reverse.map (stageOn s m 2)
  | 4 => if at_ d.peer then ax.reverse.map (stageOn s m 4) else []
  | 5 => if there then [⟨5, 0, span.1, span.2, none⟩] else []
  | 6 => if there then [⟨6, 0, span.1, span.2, none⟩] else []
  | 7 => [⟨7, 0, span.1, span.2, none⟩, ⟨8, 0, span.1, span.2, none⟩]
  | _ => []

def CStage.blank : CStage := ⟨0, 0, 1, 0, none⟩

/-- Position of a member on the stage's line. -/
def linePos (st : CStage) (i : Nat) : Nat := (i + st.n - st.start.getD 0 % st.n) % st.n

/-- The member at a position of the line. -/
def atPos (st : CStage) (p : Nat) : Nat := (p + st.start.getD 0) % st.n

/-- The next member in the + direction, or in the - direction. -/
def plusOne (st : CStage) (i : Nat) : Nat := (i + 1) % st.n
def minusOne (st : CStage) (i : Nat) : Nat := (i + st.n - 1) % st.n

/-- The node at index i of the members of a role, the inner axis fastest (R289). -/
def roleNode (s : State) (m : Mooring) (role i : Nat) : Nat :=
  let here := coordsOf (positionOf m.subs (selfNode s))
  let r := (roleAxes m.desc role).foldl (fun (acc : List Nat × Nat) a =>
    let n := (axisAt m.desc a).extent
    (setAt acc.1 a ((axisCoords s m.desc a).getD (acc.2 % n) 0), acc.2 / n)) (here, i)
  standsIn m.subs (nodeOf r.1)

/-! ### Packets of a stage (R294, R295, R306) -/

/-- The format of the data of a stage: 0 to 3 blocks, 4 records, 5 raw bytes. -/
def stageFmt (d : CollDesc) (st : CStage) : Nat :=
  if st.kind = 1 then 4
  else if d.op = 3 then (if d.req then bits d.reqctl.toNat 1 0 else 4)
  else d.dfmt

/-- Elements in a full packet (R294). -/
def packElems (fmt : Nat) : Nat :=
  match fmt with
  | 0 => 3840
  | 1 => 1984
  | 2 => 992
  | 3 => 480
  | 4 => 128
  | _ => 2048

/-- One packet of a stage: POS, first element, elements, the member whose chunk it belongs to, lower half. -/
structure CPiece where
  pos   : Nat
  e     : Nat
  n     : Nat
  chunk : Nat
  lower : Bool
  deriving DecidableEq, Repr

/-- Positions a to b - 1 of ranges set end to end. -/
def subRange : List (Nat × Nat) → Nat → Nat → List (Nat × Nat)
  | [], _, _ => []
  | (f, n) :: rs, a, b =>
    let lo := min a n
    let hi := min b n
    (if lo < hi then [(f + lo, hi - lo)] else []) ++ subRange rs (a - n) (b - n)

/-- A run of elements cut into packets of k. -/
def cutRun (k : Nat) : Nat → Nat → Nat → List (Nat × Nat)
  | 0, _, _ => []
  | fuel + 1, e, n => if n = 0 then [] else (e, min n k) :: cutRun k fuel (e + k) (n - k)

def runPieces (fmt unit : Nat) (r : Nat × Nat) : List (Nat × Nat) :=
  let k := packElems fmt
  cutRun k (r.2 * unit / k + 1) (r.1 * unit) (r.2 * unit)

/-- The units of chunk c of a stage, as ranges (R297, R306). -/
def chunkRanges (s : State) (m : Mooring) (d : CollDesc) (st : CStage) (c : Nat) : List (Nat × Nat) :=
  let u := d.count / max d.unit 1
  if st.kind = 1 ∨ st.kind = 2 then
    match roleAxes m.desc d.role with
    | [a, b] =>
      let ein := (axisAt m.desc a).extent
      let eout := (axisAt m.desc b).extent
      if st.axis = a then (List.range eout).map (fun o => divideUnits u (ein * eout) (c + ein * o))
      else [divideUnits u (ein * eout) (myIdx s m a + ein * c)]
    | _ => [divideUnits u st.n c]
  else [(0, u)]

/-- The root of a broadcast on its stage's axis (R301). -/
def bcastRoot (m : Mooring) (d : CollDesc) (st : CStage) : Nat :=
  match roleAxes m.desc d.role with
  | [a, _] =>
    let ein := (axisAt m.desc a).extent
    if st.axis = a then d.peer.toNat % ein else d.peer.toNat / ein
  | _ => d.peer.toNat

/-- The member whose chunk c is: itself, or a broadcast's root. -/
def chunkList (m : Mooring) (d : CollDesc) (st : CStage) : List Nat :=
  if st.kind = 1 ∨ st.kind = 2 then List.range st.n
  else if st.kind = 4 then [bcastRoot m d st] else [0]

/-- Replica j's part of each of some ranges set end to end, as positions: first, and one past the last. A member's share is
divided among its replicas (R290, R306), so that along two axes a replica has the same elements in every stage. -/
def replicaParts (replicas j : Nat) : Nat → List (Nat × Nat) → List (Nat × Nat)
  | _, [] => []
  | base, r :: rs =>
    let q := divideUnits r.2 replicas j
    (base + q.1, base + q.1 + q.2) :: replicaParts replicas j (base + r.2) rs

/-- The packets of one chunk's part of a replica: lower half, then upper half. A line does not split (R296). -/
def chunkPieces (s : State) (m : Mooring) (c : CollInst) (st : CStage) (k : Nat) : List (Nat × Nat × Nat × Bool) :=
  let rs := chunkRanges s m c.desc st k
  let total := sumNat (rs.map (·.2))
  let half := if st.start.isNone ∧ st.kind ≤ 4 then (total + 1) / 2 else total
  let parts := replicaParts c.replicas c.replica 0 rs
  let cut (a b : Nat) : List (Nat × Nat) := (subRange rs a b).flatMap (runPieces (stageFmt c.desc st) c.desc.unit)
  (parts.flatMap (fun q => cut q.1 (min q.2 half))).map (fun r => (r.1, r.2, k, true)) ++
    (parts.flatMap (fun q => cut (max q.1 half) q.2)).map (fun r => (r.1, r.2, k, false))

/-- The packets of a stage. POS of each counts the packets of the slice whose elements come before its own (R294). -/
def stagePieces (s : State) (m : Mooring) (c : CollInst) (st : CStage) : List CPiece :=
  let ps := (chunkList m c.desc st).flatMap (chunkPieces s m c st)
  ps.map (fun p => ⟨(ps.filter (fun q => decide (q.1 < p.1))).length, p.1, p.2.1, p.2.2.1, p.2.2.2⟩)

/-- The stage in hand and its packets. -/
def stageNow (s : State) (m : Mooring) (c : CollInst) : CStage × List CPiece :=
  let st := (collStages s m c.desc).getD c.stage CStage.blank
  (st, stagePieces s m c st)

/-! ### An instance in hand (R143, R290, R312) -/

/-- Change the instance of an engine that stands for c. -/
def setInst (s : State) (l : Nat) (c d : CollInst) : State :=
  modLantern s l (fun x => { x with coll := x.coll.map (fun y => if y = c then d else y) })

/-- What stops a collective (R312): a poisoned source line also sets the fault flag and is reported (R143). -/
def collStop (s : State) (l : Nat) (c : CollInst) (why : Nat) : State :=
  collFault (if 2 ≤ why then notePoisonLine (setFault s l) (lanternMooring s l) l (why - 2) else s) l c

/-- A collective in progress: the state, the instance as it stands in the state, and whether it has not faulted. -/
structure CRun where
  s  : State
  c  : CollInst
  ok : Bool

/-- Replace the instance. -/
def updInst (r : CRun) (l : Nat) (f : CollInst → CollInst) : CRun := { r with s := setInst r.s l r.c (f r.c), c := f r.c }

def failRun (r : CRun) (l why : Nat) : CRun := { r with s := collStop r.s l r.c why, ok := false }

/-! ### Reading and writing (R19, R27, R28, R94, R143, R281, R294, R312) -/

/-- Read for a collective engine: the bytes, or what stops it: 1 an address error, 2 more than its address for a
poisoned line. What a carrier peer holds has been read before the engine began (collFetch). -/
def collRead (s : State) (l : Nat) (c : CollInst) (addr n : Nat) : Except Nat (List Byte) :=
  if n = 0 then .ok []
  else match checkAddr s (.lantern l) addr n false with
    | some (.mem a) =>
      (match poisonedLines s a n with
      | line :: _ => .error (2 + line)
      | [] => .ok (readMem s a n))
    | some (.peer _ _) => .ok (bytesAt c.buf addr n)
    | _ => .error 1

/-- Write for a collective engine, at a carrier peer by PEER_WRITEs. -/
def collWrite (l : Nat) (r : CRun) (addr : Nat) (bs : List Byte) : CRun :=
  if bs.isEmpty then r
  else match checkAddr r.s (.lantern l) addr bs.length true with
    | some (.mem a) => { r with s := storeLocal r.s l a bs }
    | some (.peer w a) =>
      let t := peerWrites r.s (lanternTower l) (lanternMooringId r.s l) (.lantern l) w a bs (fun _ => .coll l 0 0 0)
        (peerPieces (bs.length + 1) a bs.length)
      updInst { r with s := t.1 } l (fun c => { c with tags := c.tags ++ t.2, buf := setBytes c.buf addr bs })
    | _ => failRun r l 1

/-- Mantissa bytes and scale bytes of n elements from element e on, in a format. -/
def dataBytes (fmt e : Nat) : Nat × Nat :=
  if fmt < 4 then (e / 32 * blockBytes (fmtOf fmt), e / 32) else if fmt = 4 then (16 * e, 0) else (e, 0)

/-- The payload of elements e to e + n - 1 of an array: mantissas, then scale bytes, padded to a multiple of 8. -/
def readData (s : State) (l : Nat) (c : CollInst) (fmt addr scale e n : Nat) : Except Nat (List Byte) :=
  match collRead s l c (addr + (dataBytes fmt e).1) (dataBytes fmt n).1,
        collRead s l c (scale + (dataBytes fmt e).2) (dataBytes fmt n).2 with
  | .ok a, .ok b => .ok (a ++ b ++ List.replicate ((8 - (a.length + b.length) % 8) % 8) 0)
  | .error x, _ => .error x
  | _, .error x => .error x

/-- Write a payload at elements e to e + n - 1 of an array. -/
def writeData (l : Nat) (r : CRun) (fmt addr scale e n : Nat) (bs : List Byte) : CRun :=
  let k := dataBytes fmt n
  let r1 := collWrite l r (addr + (dataBytes fmt e).1) (bs.take k.1)
  if r1.ok then collWrite l r1 (scale + (dataBytes fmt e).2) ((bs.drop k.1).take k.2) else r1

/-- Elements that are not pad in block k of the array that an address field names (R28), as far as the field names a
tensor. -/
def liveInBlock (s : State) (m : Mooring) (p : Parsed) (v k : Nat) : Nat :=
  match (refTensor p v).bind (tensorById p.tensors) with
  | none => 32
  | some t =>
    if 4 ≤ t.fmt then 32
    else
      let h := shareOf s m.desc p (positionOf m.subs (selfNode s)) t
      let a := h.t.baxis
      let b := (heldBlocks h).getD (bits v 31 0 / (if bit v 60 then 1 else blockBytes (fmtOf t.fmt)) + k) 0
      let ext := if h.t.sdim = a then min (h.dims.getD a 1) (h.live.getD (h.dims.getD a 1)) else h.dims.getD a 1
      min 32 (ext - (blockCoords h b).getD a 0)

/-- The same for the elements of a result that stand at element e of the source and element d of the destination. -/
def liveAt (s : State) (m : Mooring) (b : Bundle) (c : CollInst) (e d : Nat) : Nat :=
  match b.p.colls[c.index]? with
  | none => 32
  | some q =>
    if q.dfmt < 4 then liveInBlock s m b.p q.src (e / 32)
    else if q.req then liveInBlock s m b.p q.dst (d / 32)
    else 32

/-- The records that n elements of a payload spell (R94); live says how many elements of each block are not pad: a pad
element reads as zero (R28). -/
def payloadRecs (fmt n : Nat) (live : Nat → Nat) (bs : List Byte) : List Rec :=
  if fmt < 4 then
    let f := fmtOf fmt
    let bb := blockBytes f
    let sc := bs.drop (n / 32 * bb)
    (List.range n).map (fun i =>
      if live (i / 32) ≤ i % 32 then Rec.empty
      else recOfElem f (sc.getD (i / 32) 0).toNat (mantissaAt f ((bs.drop (i / 32 * bb)).take bb) (i % 32)))
  else (List.range n).map (fun i => recOfBytes ((bs.drop (16 * i)).take 16))

/-- The result that a reduction holds for element e. -/
def resultAt (c : CollInst) (e : Nat) : Rec :=
  match c.results.find? (fun r => decide (r.1 ≤ e) && decide (e < r.1 + r.2.length)) with
  | some r => r.2.getD (e - r.1) Rec.empty
  | none => Rec.empty

/-- This member's own partials of n elements: from its source, or, after a first reduction, from its results. -/
def ownPartials (s : State) (l : Nat) (m : Mooring) (b : Bundle) (c : CollInst) (e n : Nat) : Except Nat (List Rec) :=
  if 0 < c.stage then .ok ((List.range n).map (fun i => resultAt c (e + i)))
  else match readData s l c c.desc.dfmt c.desc.src c.srcScale e n with
    | .ok bs => .ok (payloadRecs c.desc.dfmt n (fun k => liveAt s m b c (e + 32 * k) 0) bs)
    | .error x => .error x

/-! ### Sending -/

/-- On a ring or a line of two members both links join the same two modules; a packet takes the link of its direction
(R295, R296, R301). -/
def viaOf (st : CStage) (up : Bool) : Option Nat := if st.n = 2 then some (2 * st.axis + b2n (!up)) else none

/-- A collective packet to a node (R294); the lantern's DMA beacon advances (R337). -/
def sendColl (s : State) (l id : Nat) (c : CollInst) (via : Option Nat) (dest pos : Nat) (bs : List Byte) : State :=
  let desc := if c.desc.op = 5 then c.desc.paired else c.index
  sendSeq (bumpBeacon s l 2 1) (lanternTower l) { Packet.blank with
    typ := 0x08, cls := 2, dmk := 1, dest := dest, daymark := mooringDaymark s id, mooring := id, via := via,
    arg := desc % 2 ^ 16 + c.inst % 2 ^ 12 * 2 ^ 16 + c.replica % 2 ^ 8 * 2 ^ 28 + pos % 2 ^ 28 * 2 ^ 36, payload := bs }

def recsPayload (rs : List Rec) : List Byte := rs.flatMap recBytes

/-! ### Reductions (R295 to R297) -/

/-- Requantise one group of results at its owner (R297): its first live elements; the rest are pad and written zero
(R28). -/
def ownerBlock (c : CollInst) (seed step e live : Nat) (rs : List Rec) : ReqOut :=
  let q := c.desc.reqctl.toNat
  let t := toRequant (rs.take live)
  let use := bits q 21 14
  let o := requantise t.1 t.2 (fmtOf (bits q 1 0)) (if bit q 2 then some (bits q 13 6) else none) (bits q 4 3) (bit q 5)
    ((List.range live).map (fun i => (draw seed c.desc.tensor step use ((c.desc.idxBase + e + i) % 2 ^ 64)).toNat))
  { o with m := o.m ++ List.replicate (rs.length - live) 0 }

/-- First element of this member's own chunk: where a shard's own addresses start (R230). -/
def ownFirst (s : State) (m : Mooring) (d : CollDesc) : Nat :=
  let span := roleSpan s m.desc (positionOf m.subs (selfNode s)) d.role
  (divideUnits (d.count / max d.unit 1) span.1 span.2).1 * d.unit

/-- Write a result at its owner (R297), with the flags that a reduction reports (R137). -/
def ownerWrite (l : Nat) (m : Mooring) (b : Bundle) (r : CRun) (e : Nat) (rs : List Rec) : CRun :=
  let c := r.c
  let at_ := if c.desc.op = 3 then e else e - ownFirst r.s m c.desc
  let fmt := if c.desc.req then bits c.desc.reqctl.toNat 1 0 else 4
  let outs := (List.range (rs.length / 32)).map (fun g =>
    ownerBlock c b.seed m.step (e + 32 * g) (liveAt r.s m b c (e + 32 * g) (at_ + 32 * g)) ((rs.drop (32 * g)).take 32))
  let bs := if c.desc.req then
      outs.flatMap (fun o => mantissaBytes (fmtOf fmt) o.m) ++ outs.map (fun o => BitVec.ofNat 8 o.e)
    else recsPayload rs
  let fl := b2n (outs.any (·.sat) && c.desc.req) * 2 ^ flSat + b2n (outs.any (·.unf) && c.desc.req) * 2 ^ flUnf +
    b2n (rs.any (·.o)) * 2 ^ flOvf + b2n (rs.any (·.i)) * 2 ^ flInx
  let r1 := writeData l r fmt c.desc.dst c.dstScale at_ rs.length bs
  if r1.ok then updInst r1 l (fun c => { c with flags := c.flags ||| BitVec.ofNat 16 fl }) else r1

/-- Is a stage the last reduction of its collective? -/
def lastReduce (s : State) (m : Mooring) (c : CollInst) : Bool :=
  ((collStages s m c.desc).getD (c.stage + 1) CStage.blank).kind != 1

/-- A result is formed at the owner of its chunk: kept for the next stage, or written. -/
def formResult (l : Nat) (m : Mooring) (b : Bundle) (r : CRun) (e : Nat) (rs : List Rec) : CRun :=
  if lastReduce r.s m r.c then ownerWrite l m b r e rs
  else updInst r l (fun c => { c with results := c.results ++ [(e, rs)] })

/-- Send a payload to members of the stage's axis, each with its direction. -/
def sendEach (l : Nat) (m : Mooring) (st : CStage) (r : CRun) (dsts : List (Nat × Bool)) (pos : Nat) (bs : List Byte) : CRun :=
  { r with s := dsts.foldl (fun s k => sendColl s l m.desc.id r.c (viaOf st k.2) (axisNode s m st.axis k.1) pos bs) r.s }

/-- The next member in a direction of a ring, and the one before. -/
def ringNext (st : CStage) (lower : Bool) : Nat := if lower then plusOne st st.me else minusOne st st.me
def ringBack (st : CStage) (lower : Bool) : Nat := if lower then minusOne st st.me else plusOne st st.me

/-- Does the packet of a member's own sum start at it, and whom does it go to (R295, R296)? -/
def reduceStarts (st : CStage) (q : CPiece) : Option (Nat × Bool) :=
  match st.start with
  | none =>
    if st.me = (if q.lower then plusOne st q.chunk else minusOne st q.chunk) then some (ringNext st q.lower, q.lower) else none
  | some _ =>
    let mine := linePos st st.me
    let owner := linePos st q.chunk
    if mine = 0 ∧ 0 < owner then some (atPos st 1, true)
    else if mine + 1 = st.n ∧ owner < mine then some (atPos st (mine - 1), false)
    else none

/-- The members that send this one a partial sum of a packet (R295, R296). -/
def reduceFrom (st : CStage) (q : CPiece) : List Nat :=
  match st.start with
  | none => if (reduceStarts st q).isSome then [] else [ringBack st q.lower]
  | some _ =>
    let mine := linePos st st.me
    let owner := linePos st q.chunk
    (if 0 < mine ∧ mine ≤ owner then [atPos st (mine - 1)] else []) ++
      (if mine + 1 < st.n ∧ owner ≤ mine then [atPos st (mine + 1)] else [])

/-- Record by record sums. -/
def paddAll (a b : List Rec) : List Rec := (a.zip b).map (fun p => padd p.1 p.2)

/-- A partial sum arrives (R295, R296). -/
def reduceArrive (l : Nat) (m : Mooring) (b : Bundle) (st : CStage) (r : CRun) (q : CPiece) (p : Packet) : CRun :=
  match ownPartials r.s l m b r.c q.e q.n with
  | .error x => failRun r l x
  | .ok own =>
    let arr := payloadRecs 4 q.n (fun _ => 32) p.payload
    let pass (to_ : Nat × Bool) : CRun := sendEach l m st r [to_] q.pos (recsPayload (paddAll arr own))
    match st.start with
    | none =>
      if st.me = q.chunk then formResult l m b r q.e (paddAll arr own) else pass (ringNext st q.lower, q.lower)
    | some _ =>
      let mine := linePos st st.me
      let owner := linePos st q.chunk
      if mine < owner then pass (atPos st (mine + 1), true)
      else if owner < mine then pass (atPos st (mine - 1), false)
      else
        let below := decide (0 < mine) && decide (p.src = axisNode r.s m st.axis (atPos st (mine - 1)))
        let empty := List.replicate q.n Rec.empty
        let other := r.c.sides.find? (fun x => x.1 == q.pos && x.2.1 != below)
        let finish (lo hi : List Rec) (r : CRun) : CRun := formResult l m b r q.e (paddAll (paddAll lo hi) own)
        if mine = 0 then finish empty arr r
        else if mine + 1 = st.n then finish arr empty r
        else match other with
          | some o => finish (if below then arr else o.2.2) (if below then o.2.2 else arr)
              (updInst r l (fun c => { c with sides := c.sides.erase o }))
          | none => updInst r l (fun c => { c with sides := c.sides ++ [(q.pos, below, arr)] })

/-! ### Gathers and broadcasts (R299, R301) -/

/-- The members that a packet leaves its owner for. -/
def ownerSends (st : CStage) (lower : Bool) : List (Nat × Bool) :=
  match st.start with
  | none => [(ringNext st lower, lower)]
  | some _ =>
    let mine := linePos st st.me
    (if mine + 1 < st.n then [(atPos st (mine + 1), true)] else []) ++ (if 0 < mine then [(atPos st (mine - 1), false)] else [])

/-- The members that send this one a packet of a gather or a broadcast: its neighbour on the owner's side. -/
def gatherFrom (st : CStage) (q : CPiece) : List Nat :=
  if st.me = q.chunk then []
  else match st.start with
    | none => [ringBack st q.lower]
    | some _ =>
      let mine := linePos st st.me
      if linePos st q.chunk < mine then [atPos st (mine - 1)] else [atPos st (mine + 1)]

/-- The member that a packet is passed on to, if any: it goes past every other member. -/
def passOn (s : State) (m : Mooring) (st : CStage) (owner : Nat) (lower : Bool) (src : Nat) : List (Nat × Bool) :=
  match st.start with
  | none => if ringNext st lower = owner then [] else [(ringNext st lower, lower)]
  | some _ =>
    let mine := linePos st st.me
    if 0 < mine ∧ src = axisNode s m st.axis (atPos st (mine - 1)) then
      (if mine + 1 < st.n then [(atPos st (mine + 1), true)] else [])
    else if 0 < mine then [(atPos st (mine - 1), false)] else []

/-- A packet of a gather or a broadcast arrives: written and passed on. -/
def gatherArrive (l : Nat) (m : Mooring) (st : CStage) (r : CRun) (q : CPiece) (p : Packet) : CRun :=
  let r1 := writeData l r (stageFmt r.c.desc st) r.c.desc.dst r.c.dstScale q.e q.n p.payload
  if r1.ok then sendEach l m st r1 (passOn r1.s m st q.chunk q.lower p.src) q.pos p.payload else r1

/-- Is a stage the first of its collective that moves data as it is? -/
def firstMove (s : State) (m : Mooring) (c : CollInst) : Bool :=
  decide (c.stage = 0) || ((collStages s m c.desc).getD (c.stage - 1) CStage.blank).kind == 1

/-- Is this module the root of a broadcast? -/
def amRoot (s : State) (m : Mooring) (d : CollDesc) : Bool :=
  decide ((roleSpan s m.desc (positionOf m.subs (selfNode s)) d.role).2 = d.peer.toNat)

/-- Send one packet of this member's own chunk: from the source, which it also writes to its own place, or from what
it holds at the destination. -/
def ownSend (l : Nat) (m : Mooring) (st : CStage) (r : CRun) (q : CPiece) : CRun :=
  if !r.ok then r
  else
    let c := r.c
    let fmt := stageFmt c.desc st
    let fromSrc := (c.desc.op == 2 && firstMove r.s m c) || (c.desc.op == 4 && amRoot r.s m c.desc)
    let at_ := if c.desc.op = 2 then q.e - ownFirst r.s m c.desc else q.e
    let got := if fromSrc then readData r.s l c fmt c.desc.src c.srcScale at_ q.n
      else readData r.s l c fmt c.desc.dst c.dstScale q.e q.n
    match got with
    | .error x => failRun r l x
    | .ok bs =>
      let r1 := if fromSrc then writeData l r fmt c.desc.dst c.dstScale q.e q.n bs else r
      if r1.ok then sendEach l m st r1 (ownerSends st q.lower) q.pos bs else r1

/-! ### Versions (R228, R229, R299) -/

def versPos : Nat := 0x0FFFFFFF
def lensPos : Nat := 0x0FFFFFFE

/-- A version that a gather of the step has received (R228), compared with an earlier one (R229). -/
def noteVersion (m : Mooring) (tensor owner v : Nat) : Mooring :=
  match m.versions.find? (fun x => x.1 == tensor && x.2.1 == owner) with
  | some x => if x.2.2 = v then m else { m with gathered := { m.gathered with version := true } }
  | none => { m with versions := m.versions ++ [(tensor, owner, v)] }

/-- The tensor whose version a gather carries (R228, R300): the tensor that it reads; where that is a narrowed copy, the
master that the copy is made from, which is the owned tensor that a binding names beside the copy. -/
def versTensors (p : Parsed) (d : CollDesc) : List Nat :=
  let own := d.tensor :: (refTensor p d.src).toList
  own ++ (p.bindings.filter (fun b => (b.abase.filterMap (refTensor p)).any own.contains)).flatMap (fun b =>
    (b.abase.filterMap (refTensor p)).filter (fun id => ((tensorById p.tensors id).map (·.kind)) == some 3))

/-- The version of this member's shard (R228, R242); that of a tensor without a header is open, one value for each tensor
(notes/assumptions/8.md). -/
def ownVersion (m : Mooring) (b : Bundle) (c : CollInst) : Nat :=
  match (versTensors b.p ((b.p.colls[c.index]?).getD c.desc)).findSome? (fun id => m.headers.find? (fun h => h.tensor == id)) with
  | some h => h.step % 2 ^ 48 + h.gen % 2 ^ 16 * 2 ^ 48
  | none => (Config.openVersion c.desc.tensor).toNat

/-- Versions that each member of a gather stage sends: its own, or those of its whole outer row. -/
def versEach (m : Mooring) (c : CollInst) (st : CStage) : Nat :=
  match roleAxes m.desc c.desc.role with
  | [a, b] => if st.axis = a then (axisAt m.desc b).extent else 1
  | _ => 1

/-- The owner's index in its role, of version k of member i of a stage. -/
def versOwner (s : State) (m : Mooring) (c : CollInst) (st : CStage) (i k : Nat) : Nat :=
  match roleAxes m.desc c.desc.role with
  | [a, _] => let ein := (axisAt m.desc a).extent
              if st.axis = a then i + ein * k else myIdx s m a + ein * i
  | _ => i

/-- Version packets that arrive at this member in a stage. -/
def versDue (m : Mooring) (c : CollInst) (st : CStage) : Nat :=
  if c.desc.vers ∧ st.kind = 2 then (st.n - 1) * versEach m c st else 0

/-- Send this member's versions at the start of a gather stage: in the + direction, or both ways on a line. -/
def sendVersions (l : Nat) (m : Mooring) (b : Bundle) (st : CStage) (r : CRun) : CRun :=
  if !(r.c.desc.vers && decide (st.kind = 2)) then r
  else
    let span := roleSpan r.s m.desc (positionOf m.subs (selfNode r.s)) r.c.desc.role
    let r1 := if r.c.vers.isEmpty then
        updInst r l (fun c => { c with vers := [(span.2, ownVersion m b r.c)] })
      else r
    (List.range (versEach m r1.c st)).foldl (fun r k =>
      let o := versOwner r.s m r.c st st.me k
      let v := ((r.c.vers.find? (fun x => x.1 == o)).map (·.2)).getD 0
      sendEach l m st r (ownerSends st true) versPos (natLE 8 v)) r1

/-- A version arrives: noted, handed to the Keeper, passed on (R299). -/
def versArrive (l : Nat) (m : Mooring) (st : CStage) (r : CRun) (p : Packet) : CRun :=
  let mine := linePos st st.me
  let below := match st.start with
    | none => true
    | some _ => decide (0 < mine) && decide (p.src = axisNode r.s m st.axis (atPos st (mine - 1)))
  let k := if below then r.c.versIn.1 else r.c.versIn.2
  let each := versEach m r.c st
  let i := match st.start with
    | none => (st.me + st.n - 1 - k / each % st.n) % st.n
    | some _ => if below then atPos st (mine - 1 - k / each) else atPos st (mine + 1 + k / each)
  let o := versOwner r.s m r.c st i (k % each)
  let v := leNat (p.payload.take 8)
  let r1 := updInst r l (fun c => { c with
    vers := c.vers ++ [(o, v)]
    versIn := if below then (c.versIn.1 + 1, c.versIn.2) else (c.versIn.1, c.versIn.2 + 1) })
  let s2 := modMooring r1.s m.desc.id (fun y => noteVersion y r.c.desc.tensor o v)
  sendEach l m st { r1 with s := s2 } (passOn s2 m st i true p.src) versPos p.payload

/-! ### Point to point (R302) -/

/-- The node of a SEND's or a RECV's partner. -/
def partnerNode (s : State) (m : Mooring) (d : CollDesc) (st : CStage) : Nat :=
  roleNode s m d.role ((st.me : Int) + d.peer).toNat

/-- Send one packet of a SEND to its partner. -/
def pointSend (l : Nat) (m : Mooring) (st : CStage) (r : CRun) (q : CPiece) : CRun :=
  if !r.ok then r
  else match readData r.s l r.c r.c.desc.dfmt r.c.desc.src r.c.srcScale q.e q.n with
    | .error x => failRun r l x
    | .ok bs => { r with s := sendColl r.s l m.desc.id r.c none (partnerNode r.s m r.c.desc st) q.pos bs }

/-! ### All-to-all (R303) -/

/-- The n send lengths of an all-to-all. -/
def sendLengths (s : State) (l : Nat) (c : CollInst) (n : Nat) : Except Nat (List Nat) :=
  match collRead s l c c.desc.lens (4 * n) with
  | .ok bs => .ok ((List.range n).map (fun q => leAt bs (4 * q) 4))
  | .error x => .error x

/-- The part of a segment of len units that a replica moves, cut into packets: first element within the segment,
elements. -/
def segmentPieces (c : CollInst) (len : Nat) : List (Nat × Nat) :=
  runPieces c.desc.dfmt c.desc.unit (divideUnits len c.replicas c.replica)

/-- The length that source q has told. -/
def lengthOf (c : CollInst) (q : Nat) : Nat := ((c.lengths.find? (fun x => x.1 == q)).map (·.2)).getD 0

/-- Units before source q's segment at the receiver. -/
def segmentAt (c : CollInst) (q : Nat) : Nat := sumNat ((List.range q).map (lengthOf c))

/-- Place elements of source q's segment; units at or beyond CAP are discarded and counted. -/
def placeSegment (l : Nat) (r : CRun) (q e n : Nat) (bs : List Byte) : CRun :=
  let c := r.c
  let at_ := segmentAt c q * c.desc.unit + e
  let keep := min n (c.desc.cap * c.desc.unit - at_)
  let k := dataBytes c.desc.dfmt n
  let kept := dataBytes c.desc.dfmt keep
  let part := (bs.take k.1).take kept.1 ++ ((bs.drop k.1).take k.2).take kept.2
  let r1 := writeData l r c.desc.dfmt c.desc.dst c.dstScale at_ keep part
  if r1.ok then updInst r1 l (fun c => { c with cut := c.cut + (n - keep) }) else r1

/-- Stage 1 of an all-to-all: each peer is told its length. -/
def sendLens (l : Nat) (m : Mooring) (st : CStage) (r : CRun) : CRun :=
  match sendLengths r.s l r.c st.n with
  | .error x => failRun r l x
  | .ok ls =>
    let r1 := updInst r l (fun c => { c with lengths := [(st.me, ls.getD st.me 0)] })
    { r1 with s := ((List.range st.n).filter (· != st.me)).foldl (fun s q =>
        sendColl s l m.desc.id r1.c none (roleNode s m r1.c.desc.role q) lensPos (natLE 8 (ls.getD q 0))) r1.s }

/-- Stages 2 and 3 begin: the receive lengths are written, the own segment is placed, the others are sent. -/
def sendSegments (l : Nat) (m : Mooring) (st : CStage) (r : CRun) : CRun :=
  match sendLengths r.s l r.c st.n with
  | .error x => failRun r l x
  | .ok ls =>
    let cap := r.c.desc.cap
    let got := (List.range st.n).flatMap (fun q => natLE 4 (min (lengthOf r.c q) (cap - segmentAt r.c q)))
    let r1 := collWrite l r (r.c.desc.lens + 4 * st.n) got
    if !r1.ok then r1
    else
      (List.range st.n).foldl (fun r q =>
        (segmentPieces r.c (ls.getD q 0)).zipIdx.foldl (fun r p =>
          if !r.ok then r
          else
            let e := sumNat (ls.take q) * r.c.desc.unit + p.1.1
            match readData r.s l r.c r.c.desc.dfmt r.c.desc.src r.c.srcScale e p.1.2 with
            | .error x => failRun r l x
            | .ok bs =>
              if q = st.me then placeSegment l r q p.1.1 p.1.2 bs
              else { r with s := sendColl r.s l m.desc.id r.c none (roleNode r.s m r.c.desc.role q) p.2 bs }) r) r1

/-- Packets of other members' segments that arrive here. -/
def segmentsDue (st : CStage) (c : CollInst) : Nat :=
  sumNat (((List.range st.n).filter (· != st.me)).map (fun q => (segmentPieces c (lengthOf c q)).length))

/-- The index of the member of a role that stands at a node. -/
def memberAt (s : State) (m : Mooring) (role n node : Nat) : Nat :=
  ((List.range n).find? (fun i => roleNode s m role i == node)).getD 0

/-! ### Stages begin and end -/

/-- Does this member stand in the row that a broadcast reaches in a stage (R301)? -/
def inBcastRow (s : State) (m : Mooring) (d : CollDesc) (st : CStage) : Bool :=
  match roleAxes m.desc d.role with
  | [a, _] => st.axis == a || myIdx s m a == d.peer.toNat % (axisAt m.desc a).extent
  | _ => true

/-- The members that send this one a packet of a stage. -/
def sourcesOf (s : State) (m : Mooring) (d : CollDesc) (st : CStage) (q : CPiece) : List Nat :=
  match st.kind with
  | 1 => reduceFrom st q
  | 2 => gatherFrom st q
  | 4 => if inBcastRow s m d st then gatherFrom st q else []
  | _ => []

/-- What a member does at the start of the stage in hand: its own packets leave; how many are to arrive is noted. -/
def startStage (l : Nat) (m : Mooring) (b : Bundle) (r : CRun) : CRun :=
  let x := stageNow r.s m r.c
  let st := x.1
  let due := sumNat (x.2.map (fun q => (sourcesOf r.s m r.c.desc st q).length))
  match st.kind with
  | 1 =>
    x.2.foldl (fun r q =>
      if !r.ok then r
      else match reduceStarts st q with
        | none => r
        | some dst => match ownPartials r.s l m b r.c q.e q.n with
          | .error y => failRun r l y
          | .ok rs => sendEach l m st r [dst] q.pos (recsPayload rs)) (updInst r l (fun c => { c with due := due }))
  | 2 =>
    let r1 := updInst r l (fun c => { c with due := due + versDue m c st, versIn := (0, 0) })
    (x.2.filter (fun q => q.chunk == st.me)).foldl (ownSend l m st) (sendVersions l m b st r1)
  | 4 =>
    let r1 := updInst r l (fun c => { c with due := due })
    if inBcastRow r.s m r.c.desc st && decide (st.me = bcastRoot m r.c.desc st) then x.2.foldl (ownSend l m st) r1 else r1
  | 5 => x.2.foldl (pointSend l m st) (updInst r l (fun c => { c with due := 0 }))
  | 6 => updInst r l (fun c => { c with due := x.2.length })
  | 7 => sendLens l m st (updInst r l (fun c => { c with due := st.n - 1 }))
  | 8 => sendSegments l m st (updInst r l (fun c => { c with due := segmentsDue st c }))
  | _ => r

/-- Stages that have nothing to await follow one another. -/
def runStages (l : Nat) (m : Mooring) (b : Bundle) : Nat → CRun → CRun
  | 0, r => r
  | k + 1, r =>
    if !r.ok ∨ r.c.due ≠ 0 ∨ (collStages r.s m r.c.desc).length ≤ r.c.stage then r
    else
      let r1 := updInst r l (fun c => { c with stage := c.stage + 1, seen := [] })
      if (collStages r1.s m r1.c.desc).length ≤ r1.c.stage then r1
      else runStages l m b k (startStage l m b r1)

/-- The packets of the slice of a member that is alone on its role. -/
def aloneRuns (c : CollInst) : List (Nat × Nat) :=
  runPieces (if c.desc.op = 1 ∨ c.desc.op = 3 then 4 else c.desc.dfmt) c.desc.unit
    (divideUnits (c.desc.count / max c.desc.unit 1) c.replicas c.replica)

/-- Does a collective that has no stage move this member's own data: is the member alone on the role? Point-to-point
collectives, and a broadcast whose root does not exist, move nothing (R302, R311). -/
def movesAlone (d : CollDesc) : Bool := d.op == 1 || d.op == 2 || d.op == 3 || (d.op == 4 && d.peer == 0)

/-- A collective along a role of one member moves its own data only. -/
def alone (l : Nat) (m : Mooring) (b : Bundle) (r : CRun) : CRun :=
  let d := r.c.desc
  if !movesAlone d then r
  else if d.op = 1 ∨ d.op = 3 then
    (aloneRuns r.c).foldl (fun r p =>
      if !r.ok then r
      else match ownPartials r.s l m b r.c p.1 p.2 with
        | .error x => failRun r l x
        | .ok rs => ownerWrite l m b r p.1 rs) r
  else
    (aloneRuns r.c).foldl (fun r p =>
      if !r.ok then r
      else match readData r.s l r.c r.c.desc.dfmt r.c.desc.src r.c.srcScale p.1 p.2 with
        | .error x => failRun r l x
        | .ok bs => writeData l r r.c.desc.dfmt r.c.desc.dst r.c.dstScale p.1 p.2 bs) r

/-- The engine begins an instance. -/
def beginColl (s : State) (l : Nat) (m : Mooring) (b : Bundle) (c : CollInst) : State :=
  let r := updInst ⟨s, c, true⟩ l (fun c => { c with started := true })
  if (collStages s m c.desc).isEmpty then (alone l m b r).s
  else (runStages l m b (collStages s m c.desc).length (startStage l m b r)).s

/-! ### Arrivals (R290, R294) -/

/-- The packet's POS (R294). -/
def posOf (p : Packet) : Nat := bits p.arg 63 36

/-- Does the stage in hand still await a packet: one of this POS from this node, that has not come yet? -/
def awaits (s : State) (m : Mooring) (c : CollInst) (p : Packet) : Bool :=
  let x := stageNow s m c
  let st := x.1
  let near := [plusOne st st.me, minusOne st st.me].any (fun i => axisNode s m st.axis i == p.src)
  let fresh := !c.seen.contains (posOf p, p.src)
  match st.kind with
  | 2 =>
    if posOf p = versPos then near
    else fresh && x.2.any (fun q => q.pos == posOf p && (gatherFrom st q).any (fun i => axisNode s m st.axis i == p.src))
  | 6 => fresh && decide (p.src = partnerNode s m c.desc st) && x.2.any (fun q => q.pos == posOf p)
  | 7 => posOf p == lensPos
  | 8 => posOf p != lensPos
  | _ => fresh && x.2.any (fun q => q.pos == posOf p && (sourcesOf s m c.desc st q).any (fun i => axisNode s m st.axis i == p.src))

/-- Does a packet belong to an instance and to the stage it has in hand? -/
def usableBy (s : State) (m : Mooring) (c : CollInst) (p : Packet) : Bool :=
  c.started && decide (bits p.arg 15 0 = c.index) && decide (bits p.arg 27 16 = c.inst) &&
  decide (bits p.arg 35 28 = c.replica) && awaits s m c p

/-- An arriving packet is used by its instance, and the lantern's DMA beacon advances (R337); when nothing more is due the next stage begins. -/
def useColl (s : State) (l : Nat) (m : Mooring) (b : Bundle) (c : CollInst) (p : Packet) : State :=
  let x := stageNow s m c
  let st := x.1
  let r0 := updInst ⟨bumpBeacon s l 2 1, c, true⟩ l (fun c => { c with due := c.due - 1, seen := c.seen ++ [(posOf p, p.src)] })
  let q := x.2.find? (fun q => q.pos == posOf p)
  let r := match st.kind, q with
    | 1, some q => reduceArrive l m b st r0 q p
    | 2, some q => gatherArrive l m st r0 q p
    | 2, none => versArrive l m st r0 p
    | 4, some q => gatherArrive l m st r0 q p
    | 6, some q => writeData l r0 r0.c.desc.dfmt r0.c.desc.dst r0.c.dstScale q.e q.n p.payload
    | 7, _ => updInst r0 l (fun c => { c with
        lengths := c.lengths ++ [(memberAt s m c.desc.role st.n p.src, leNat (p.payload.take 8))] })
    | 8, _ =>
      let k := memberAt s m r0.c.desc.role st.n p.src
      (match (segmentPieces r0.c (lengthOf r0.c k))[posOf p]? with
        | some y => placeSegment l r0 k y.1 y.2 p.payload
        | none => r0)
    | _, _ => r0
  (runStages l m b (collStages s m c.desc).length r).s

/-- The instance of a lantern that a packet can be used by now. -/
def instFor (s : State) (l : Nat) (m : Mooring) (p : Packet) : Option CollInst :=
  (lanternAt s l).coll.find? (fun c => usableBy s m c p)

/-- Use the packets held for instances of a lantern, oldest first, as far as they can be used. -/
def pumpHeld (l id : Nat) : Nat → State → State
  | 0, s => s
  | n + 1, s =>
    match mooringAt s id, lanternJob s l with
    | some m, some (_, b) =>
      (match (lanternAt s l).collHeld.find? (fun p => (instFor s l m p).isSome) with
      | none => s
      | some p =>
        let s1 := modLantern s l (fun x => { x with collHeld := x.collHeld.erase p })
        match instFor s1 l m p with
        | some c => pumpHeld l id n (useColl s1 l m b c p)
        | none => s1)
    | _, _ => s

/-- The lantern of the replica that a collective packet names (R290, R294). -/
def packetLantern (s : State) (p : Packet) : Option Nat :=
  match mooringAt s p.mooring with
  | none => none
  | some m => (bundleAt s m.bundle).bind (fun b =>
      (m.place.replicas.find? (fun r => decide (r.j = bits p.arg 35 28) &&
        ((b.p.roles[r.role]?).map (fun x => x.entries.any (fun e => e.kind == 5 && decide (e.arg = bits p.arg 15 0)))).getD false)).map
        (·.lantern))

/-- Is there room for a collective packet (R290): its instance can use it, or fewer than 64 are held? -/
def collRoom (s : State) (p : Packet) : Bool :=
  match packetLantern s p, mooringAt s p.mooring with
  | some l, some m => (instFor s l m p).isSome || decide ((lanternAt s l).collHeld.length < 64)
  | _, _ => true

/-- A collective packet of a step is delivered. One that names nothing here is discarded. -/
def deliverColl (s : State) (p : Packet) : State :=
  match packetLantern s p with
  | none => s
  | some l =>
    let s1 := modLantern s l (fun x => { x with collHeld := x.collHeld ++ [p] })
    pumpHeld l p.mooring (lanternAt s1 l).collHeld.length s1

/-! ### Issue and start (R290) -/

/-- Where the scale bytes of an address field lie: the tensor's scale array, or after the mantissas of the whole
source (notes/assumptions/18.md). -/
def collScale (m : Mooring) (l : Nat) (d : CollDesc) (fmt v : Nat) : Nat :=
  if isRef v ∧ bits v 59 32 ≠ 0x0FFFFFFF ∧ fmt < 4 then
    resolveAddr m l (v - bits v 31 0 + (if bit v 60 then 0 else 2 ^ 60) + bits v 31 0 / blockBytes (fmtOf fmt))
  else resolveAddr m l v + (dataBytes fmt d.count).1

/-- The format at the destination. -/
def destFmt (d : CollDesc) : Nat :=
  if d.op = 1 ∨ d.op = 3 then (if d.req then bits d.reqctl.toNat 1 0 else 4) else d.dfmt

/-- COLL (R290): one instance to the replica's engine, which runs at most four. -/
def execColl (l : Nat) (s : State) : Host.Outcome State Fault Refusal :=
  .next (issueEntry s l 5 (fun s m b e =>
    match b.p.colls[e.arg]? with
    | none => s
    | some d =>
      let x := lanternAt s l
      if 4 ≤ x.coll.length then s
      else
        let rr := replicaNow s b.p m.place l
        let j := (rr.map (·.1.j)).getD 0
        let key := e.arg * 256 + j
        let k := tget 0 x.collCnt key
        let c : CollInst :=
          { desc := resolveColl m l d, index := e.arg, inst := k % 4096, replica := j,
            replicas := (rr.map (·.2.replicas)).getD 1,
            srcScale := collScale m l d d.dfmt d.src, dstScale := collScale m l d (destFmt d) d.dst,
            started := false, stage := 0, due := 0, sides := [], results := [], vers := [], versIn := (0, 0),
            lengths := [], cut := 0, flags := 0, order := x.pc, seen := [], buf := [], asked := [], tags := [] }
        nextEntry (modLantern s l (fun y => { y with coll := y.coll ++ [c], collCnt := tput 0 y.collCnt key (k + 1) })) l))

/-! ### What an engine awaits before it begins (R19, R254, R281, R299) -/

/-- The elements of its source that an instance reads: first element and number. -/
def readRuns (s : State) (m : Mooring) (c : CollInst) : List (Nat × Nat) :=
  let d := c.desc
  match collStages s m d with
  | [] => if movesAlone d then aloneRuns c else []
  | st :: _ =>
    let ps := stagePieces s m c st
    match d.op with
    | 2 => (ps.filter (fun q => q.chunk == st.me)).map (fun q => (q.e - ownFirst s m d, q.n))
    | 4 => if amRoot s m d then ps.map (fun q => (q.e, q.n)) else []
    | 6 => []
    | 7 => []
    | _ => ps.map (fun q => (q.e, q.n))

/-- Does an address name a carrier peer? -/
def isPeerAddr (s : State) (l addr n : Nat) (write : Bool) : Bool :=
  match checkAddr s (.lantern l) addr n write with
  | some (.peer _ _) => true
  | _ => false

/-- The elements of the segments of an all-to-all, once the send lengths can be read. -/
def segmentRuns (s : State) (l : Nat) (m : Mooring) (c : CollInst) : List (Nat × Nat) :=
  let n := ((collStages s m c.desc).getD 0 CStage.blank).n
  if isPeerAddr s l c.desc.lens (4 * n) false && !c.asked.contains (c.desc.lens, 4 * n) then []
  else match sendLengths s l c n with
    | .error _ => []
    | .ok ls => (List.range n).flatMap (fun q => (segmentPieces c (ls.getD q 0)).map (fun r => (sumNat (ls.take q) * c.desc.unit + r.1, r.2)))

/-- The accesses to carrier peers that an instance still has to make before it begins: addresses and bytes. -/
def collNeeds (s : State) (l : Nat) (m : Mooring) (c : CollInst) : List (Nat × Nat) :=
  let d := c.desc
  let runs := if d.op = 7 then segmentRuns s l m c else readRuns s m c
  let lens := if d.op = 7 then [(d.lens, 4 * ((collStages s m d).getD 0 CStage.blank).n)] else []
  (lens ++ runs.flatMap (fun r =>
    [(d.src + (dataBytes d.dfmt r.1).1, (dataBytes d.dfmt r.2).1), (c.srcScale + (dataBytes d.dfmt r.1).2, (dataBytes d.dfmt r.2).2)])).filter
    (fun a => decide (0 < a.2) && isPeerAddr s l a.1 a.2 false && !c.asked.contains a)

/-- Read one range from a carrier peer. -/
def collFetch (l : Nat) (r : CRun) (a : Nat × Nat) : CRun :=
  match checkAddr r.s (.lantern l) a.1 a.2 false with
  | some (.peer w x) =>
    let t := peerReads r.s (lanternTower l) (lanternMooringId r.s l) (.lantern l) w
      (fun y => .coll l (a.1 + (y - x)) (y % 8) (x + a.2 - y)) (peerPieces (a.2 + 1) x a.2)
    updInst { r with s := t.1 } l (fun c => { c with asked := c.asked ++ [a], tags := c.tags ++ t.2 })
  | _ => r

/-- Is a schedule entry an UPDATE entry that writes one of some tensors (R233)? -/
def updatesOne (p : Parsed) (ids : List Nat) (e : SchedEntry) : Bool :=
  e.kind == 7 && ((p.updates[e.arg]?).map (fun u => (u.param :: namedStates u).any ids.contains)).getD false

/-- Must a gather wait for updates (R254): it is one for the next step, after an UPDATE entry of its own template that writes
its tensor, or in PHASE 3 or 4 (DEDUCED, notes/assumptions/18.md), and on some lantern of the mooring such an entry has not
retired, nor have those of a replica whose turn is to come? -/
def awaitsUpdates (s : State) (l : Nat) (m : Mooring) (b : Bundle) (c : CollInst) : Bool :=
  let ids := c.desc.tensor :: ((b.p.colls[c.index]?).bind (fun d => refTensor b.p d.src)).toList
  decide (c.desc.op = 2) &&
  (((lanternAt s l).sched.take c.order).any (updatesOne b.p ids) ||
    (((lanternAt s l).sched[c.order]?).map (fun e => decide (3 ≤ e.phase))).getD false) &&
  (lanternsOf s m.desc.id).any (fun k =>
    let x := lanternAt s k
    let running (j : BindJob) : Bool := (j.update.map (fun u => updatesOne b.p ids ⟨7, 0, 0, 0, u.desc, false⟩)).getD false
    x.bindQ.any running || (x.vec.cur.map running).getD false || (x.running && (x.sched.drop x.pc).any (updatesOne b.p ids)) ||
      (x.running && ((turnsOf m.place k).drop (x.turn + 1)).any (fun r => (replicaPart b.p m.ladders r).any (updatesOne b.p ids))))

/-- The engine begins the instance in a slot, if it is one of an operation and has not begun, when the updates that it
awaits have retired and what it reads from carrier peers has come. -/
def startColl (s : State) (l slot op : Nat) : State :=
  match (lanternAt s l).coll[slot]?, lanternJob s l with
  | some c, some (m, b) =>
    if c.started ∨ c.desc.op ≠ op ∨ !lanternLive s l ∨ c.tags ≠ [] ∨ awaitsUpdates s l m b c then s
    else
      let ns := collNeeds s l m c
      if ns.isEmpty then pumpHeld l m.desc.id (lanternAt s l).collHeld.length (beginColl s l m b c)
      else (ns.foldl (collFetch l) ⟨s, c, true⟩).s
  | _, _ => s

/-- Instances that had to read from carrier peers go on when the data have come. -/
def resumeColls (s : State) (l : Nat) : State :=
  (List.range 4).foldl (fun s k =>
    match (lanternAt s l).coll[k]? with
    | some c => if c.asked.isEmpty then s else startColl s l k c.desc.op
    | none => s) s

/-- PEER_DATA (R281): the response of a PEER_READ. -/
def execPeerData (p : Packet) (s : State) : Host.Outcome State Fault Refusal :=
  .next (onPacket s 0x03 p true (fun s p =>
    match reqAt s p.tag with
    | some r =>
      let s1 := deliverAnswer s r p.payload (bits p.arg 7 0)
      (match r.who with
      | .coll l _ _ _ => resumeColls s1 l
      | _ => s1)
    | none => s))

/-- REDUCE_SCATTER (R295 to R297). -/
def execReduceScatter (l slot : Nat) (s : State) : Host.Outcome State Fault Refusal := .next (startColl s l slot 1)

/-- ALL_GATHER (R299). -/
def execAllGather (l slot : Nat) (s : State) : Host.Outcome State Fault Refusal := .next (startColl s l slot 2)

/-- ALL_REDUCE (R297). -/
def execAllReduce (l slot : Nat) (s : State) : Host.Outcome State Fault Refusal := .next (startColl s l slot 3)

/-- BROADCAST (R301). -/
def execBroadcast (l slot : Nat) (s : State) : Host.Outcome State Fault Refusal := .next (startColl s l slot 4)

/-- SEND (R302). -/
def execSend (l slot : Nat) (s : State) : Host.Outcome State Fault Refusal := .next (startColl s l slot 5)

/-- RECV (R302). -/
def execRecv (l slot : Nat) (s : State) : Host.Outcome State Fault Refusal := .next (startColl s l slot 6)

/-- ALL_TO_ALL_V (R303). -/
def execAllToAllV (l slot : Nat) (s : State) : Host.Outcome State Fault Refusal := .next (startColl s l slot 7)

/-! ### Completion (R303, R311) -/

/-- Has an instance done all its stages, and has every packet it sent been acknowledged, every write answered? -/
def collDone (s : State) (m : Mooring) (c : CollInst) : Bool :=
  c.started && c.tags.isEmpty && decide ((collStages s m c.desc).length ≤ c.stage) &&
  s.router.src.all (fun t => (streamPackets t).all (fun q => !packetOf m.desc.id c q))

/-- An all-to-all that left units out counts and reports them (R303). -/
def noteCut (s : State) (l : Nat) (m : Mooring) (c : CollInst) : State :=
  if c.cut = 0 then s
  else raiseEvent (modLantern s l (fun x => { x with truncated := x.truncated + c.cut / max c.desc.unit 1 }))
    evTruncation (some m.desc.id) l (c.cut / max c.desc.unit 1)

/-- COLLECTIVE_COMPLETE (R311): the flags are gathered (R212, R297), counter 14 advances, the engine is free. -/
def execCollectiveComplete (l slot : Nat) (s : State) : Host.Outcome State Fault Refusal :=
  .next (match (lanternAt s l).coll[slot]?, lanternJob s l with
    | some c, some (m, _) =>
      if !collDone s m c then s
      else
        let s1 := modLantern (noteCut s l m c) l (fun x => { x with coll := x.coll.erase c })
        bumpEvent (modMooring s1 m.desc.id (fun y => gatherFlags y c.flags 0)) l 14 1
    | _, _ => s)

end Sys2Proof.Machine
end

