-- ==== Sys2Proof/Machine/Pieces.lean ====
section
/-! DEFINITION. Machine/Pieces.lean: tensors as pieces that travel between modules: permutes, tender copies, shard
headers (R218, R219, R237, R242, R304, R305, R329, R357 to R361, R457, R458). The spec gives these packets no payload
layout beyond R294 (notes/assumptions/19.md). -/

namespace Sys2Proof.Machine

/-! ### Pieces of a shard -/

/-- Full dimensions of the tensor that a share is of. -/
def fullDims (h : Share) : List Nat := if h.dims.length = (dimsOf h.t).length then dimsOf h.t else h.dims

/-- Does a shard move element by element: its blocks need not be the same on another map (R244)? -/
def looseShard (p : Parsed) (t : Tensor) : Bool := decide (t.fmt < 4) && decide ((stateShape p t).map (·.2) = some 1)

/-- Does a shard move block by block? -/
def inBlocks (p : Parsed) (t : Tensor) : Bool := decide (t.fmt < 4) && !looseShard p t

/-- Number of block b of a share in the whole tensor's blocks. -/
def globalBlock (h : Share) (b : Nat) : Nat :=
  let a := h.t.baxis
  let c := (((blockCoords h b).zip h.off).map (fun q => q.1 + q.2)).modify a (· / 32)
  linearOf c (setAt (fullDims h) a (ceilDiv ((fullDims h).getD a 1) 32))

/-- Bytes of one block of a tensor with its scale byte, or of one element; bytes of it before the scale byte. -/
def unitBytes (t : Tensor) : Nat := if t.fmt < 4 then blockBytes (fmtOf t.fmt) + 1 else if t.fmt = 5 then 1 else 16

def unitBody (t : Tensor) : Nat := if t.fmt < 4 then blockBytes (fmtOf t.fmt) else unitBytes t

/-- Bytes of one piece: a loose element travels as its record. -/
def pieceSize (p : Parsed) (t : Tensor) : Nat := if looseShard p t then 16 else unitBytes t

/-- The pieces of a share: local number and key. Padded head slots hold zeros and do not move (R307). -/
def shareKeys (p : Parsed) (h : Share) : List (Nat × Nat) :=
  if inBlocks p h.t then ((heldBlocks h).zipIdx.filter (fun q => ownSlot h (blockCoords h q.1))).map (fun q => (q.2, globalBlock h q.1))
  else (((List.range (prodNat h.dims)).filter (fun e => holdsElem h (coordsIn h.dims e))).zipIdx.filter (fun q => ownSlot h (coordsIn h.dims q.1))).map (fun q =>
    (q.2, logicalIndex h (coordsIn h.dims q.1)))

/-- Addresses and sizes of the words and of the scale byte of the block at some coordinates of a shard in tile layout: tile n
has its mantissas at 65,536 n and its scale bytes at 4,096 n or 2,048 n (R52). -/
def tileSpans (x : ShardAt) (c : List Nat) : List (Nat × Nat) :=
  let rows := if x.h.t.fmt = 0 then 4 else 8
  let blocks := 128 / rows
  let kb := c.getD 0 0 / 32
  let col := c.getD 1 0
  let n := kb / blocks * (x.h.dims.getD 1 128 / 128) + col / 128
  let b := kb % blocks
  (List.range rows).map (fun r => (x.pl.mbase + 65536 * n + 512 * (rows * b + r) + 4 * (col % 128), 4)) ++
    [(x.pl.sbase + 128 * blocks * n + 128 * b + col % 128, 1)]

/-- Addresses and sizes of number i of a shard: a block with its scale byte, or an element. -/
def pieceSpans (x : ShardAt) (i : Nat) : List (Nat × Nat) :=
  let bb := blockBytes (fmtOf x.h.t.fmt)
  if x.h.t.fmt < 4 ∧ x.h.t.layout = 1 then tileSpans x (blockCoords x.h ((heldBlocks x.h).getD i 0))
  else if x.h.t.fmt < 4 then [(x.pl.mbase + bb * i, bb), (x.pl.sbase + i, 1)]
  else if x.h.t.fmt = 5 then [(x.pl.mbase + i, 1)]
  else [(x.pl.mbase + 16 * i, 16)]

/-- Read piece i of a shard; a loose element as its record. -/
def readPiece (s : State) (p : Parsed) (x : ShardAt) (i : Nat) : List Byte :=
  if looseShard p x.h.t then
    let f := fmtOf x.h.t.fmt
    let bb := blockBytes f
    recBytes (recOfElem f (readByte s (x.pl.sbase + i / 32)).toNat
      (mantissaAt f (readMem s (x.pl.mbase + i / 32 * bb) bb) (i % 32)))
  else (pieceSpans x i).flatMap (fun q => readMem s q.1 q.2)

/-- The number of the block, or of the element, in which piece i of a shard lies. -/
def pieceUnit (p : Parsed) (t : Tensor) (i : Nat) : Nat := if looseShard p t then i / 32 else i

/-- Write pieces of spans in order. -/
def writeSpans : State → List (Nat × Nat) → List Byte → State
  | s, [], _ => s
  | s, q :: qs, bs => writeSpans (writeMem s q.1 (bs.take q.2)) qs (bs.drop q.2)

/-- The tensors that a permute moves (R329): KIND 3 and 4, or KIND 2 of a serving mooring; of those, the ones that a
snapshot saves. -/
def movesTensor (d : MDesc) (t : Tensor) : Bool := if d.kind = 1 then t.kind == 2 else t.kind == 3 || t.kind == 4

/-- Table index and entry of every tensor that moves. -/
def movedTensors (d : MDesc) (p : Parsed) : List (Nat × Tensor) :=
  (p.tensors.zipIdx.filter (fun q => movesTensor d q.1)).map (fun q => (q.2, q.1))

/-- Keys that a block position holds of a tensor. -/
def keysAt (s : State) (d : MDesc) (p : Parsed) (pos : Nat) (t : Tensor) : List (Nat × Nat) :=
  if stageHere s d p pos t then shareKeys p (shareOf s d p pos t) else []

/-- The shard of a tensor at a position of a map, on this module. -/
def shardOn (s : State) (d : MDesc) (p : Parsed) (place : Placement) (pos k : Nat) : Option ShardAt :=
  match p.tensors[k]?, place.tensors[k]? with
  | some t, some pl => some ⟨shareOf s d p pos t, pl⟩
  | _, _ => none

/-! ### Payloads -/

/-- Mantissa bytes of a piece; the rest of it is its scale byte. -/
def pieceBody (p : Parsed) (t : Tensor) : Nat := if looseShard p t then 16 else unitBody t

/-- Blocks or elements in a full packet (R294). -/
def unitsPer (t : Tensor) : Nat := if t.fmt < 4 then packElems t.fmt / 32 else packElems t.fmt

/-- Pieces in a full packet. -/
def piecesPer (p : Parsed) (t : Tensor) : Nat := if looseShard p t then packElems 4 else unitsPer t

/-- The payload of pieces (R294): mantissas first, then scale bytes, padded with zeros to a multiple of 8. -/
def piecesPayload (body : Nat) (qs : List Piece) : List Byte :=
  let bs := qs.flatMap (fun q => q.bytes.take body) ++ qs.flatMap (fun q => q.bytes.drop body)
  bs ++ List.replicate ((8 - bs.length % 8) % 8) 0

/-- The pieces that a payload spells, by their keys. -/
def piecesOf (body size tensor : Nat) (keys : List Nat) (bs : List Byte) : List Piece :=
  let tail := size - body
  keys.zipIdx.map (fun k => ⟨tensor, k.1, (bs.drop (body * k.2)).take body ++ (bs.drop (body * keys.length + tail * k.2)).take tail⟩)

/-- Keys as runs: the first of each and their number. -/
def keyRuns : List Nat → List (Nat × Nat)
  | [] => []
  | k :: ks => match keyRuns ks with
    | (a, n) :: rs => if k + 1 = a then (k, n + 1) :: rs else (k, 1) :: (a, n) :: rs
    | [] => [(k, 1)]

/-- The keys that a packet of runs spells. -/
def keysOfRuns (bs : List Byte) : List Nat :=
  (List.range (bs.length / 16)).flatMap (fun i => (List.range (leAt bs (16 * i + 8) 8)).map (fun k => leAt bs (16 * i) 8 + k))

/-- Lists cut into runs of k. -/
def chunksOf {α : Type} (k : Nat) : Nat → List α → List (List α)
  | 0, _ => []
  | fuel + 1, xs => if xs.isEmpty then [] else xs.take (max k 1) :: chunksOf k fuel (xs.drop (max k 1))

/-- A header of R242. -/
def headerBytes (h : ShardHdr) : List Byte :=
  natLE 32 (h.step % 2 ^ 48 + h.gen % 2 ^ 16 * 2 ^ 48 + h.tensor % 2 ^ 32 * 2 ^ 64 + h.group % 2 ^ 16 * 2 ^ 96 +
    h.owner % 2 ^ 18 * 2 ^ 112 + h.blocks % 2 ^ 64 * 2 ^ 192)

def headerOf (bs : List Byte) : ShardHdr :=
  let n := leNat (bs.take 32)
  ⟨bits n 95 64, bits n 47 0, bits n 63 48, bits n 111 96, bits n 129 112, bits n 255 192⟩

/-- A packet of pieces of one tensor, or a marker, to a node: REPLICA 0xFF for a permute, 0xFE for a refresh. -/
def pieceSend (s : State) (id dm dest replica tensor pos : Nat) (bs : List Byte) : State :=
  sendSeq s 0 { Packet.blank with
    typ := 0x08, cls := 2, dmk := 1, dest := dest, daymark := dm, mooring := id,
    arg := tensor % 2 ^ 16 + replica % 2 ^ 8 * 2 ^ 28 + pos % 2 ^ 28 * 2 ^ 36, payload := bs }

/-- POS of the markers: headers, the end of a refresh, the start of one that replaces the whole copy, the keys of the next
data packet. -/
def hdrMark : Nat := 0x0FFFFFFF
def endMark : Nat := 0x0FFFFFFE
def wholeMark : Nat := 0x0FFFFFFD
def keyMark : Nat := 0x0FFFFFFC

/-- Send pieces of one tensor to a node in packets of R294, a number of pieces in each, each after its keys. -/
def sendPieces (s : State) (id dm dest replica per body tensor : Nat) (qs : List Piece) : State :=
  (chunksOf per qs.length qs).zipIdx.foldl (fun s c =>
    let runs := keyRuns (c.1.map (·.key))
    let s1 := (chunksOf 128 runs.length runs).foldl (fun s rs =>
      pieceSend s id dm dest replica tensor keyMark (rs.flatMap (fun r => natLE 8 r.1 ++ natLE 8 r.2))) s
    pieceSend s1 id dm dest replica tensor c.2 (piecesPayload body c.1)) s

def sendHeaders (s : State) (id dm dest replica : Nat) (hs : List ShardHdr) : State :=
  (chunksOf 64 hs.length hs).foldl (fun s c => pieceSend s id dm dest replica 0 hdrMark (c.flatMap headerBytes)) s

/-! ### Shard headers (R242) -/

/-- The header of a newly owned shard; its parameter group is that of the update that serves it, else the one of the tensor
entry (R151: 0xFFFF for none). -/
def newHeader (s : State) (d : MDesc) (p : Parsed) (pos : Nat) (t : Tensor) : ShardHdr :=
  let g := ((servingUpdate p t.id).map (·.group)).getD t.group
  ⟨t.id, 0, 0, g, selfNode s, (heldBlocks (shareOf s d p pos t)).length⟩

/-- Headers of the shards that a position owns. -/
def newHeaders (s : State) (d : MDesc) (p : Parsed) (pos : Nat) : List ShardHdr :=
  (p.tensors.filter (fun t => (t.kind == 3 || t.kind == 4) && stageHere s d p pos t)).map (newHeader s d p pos)

/-- A header takes step, GEN and group from one that has travelled. -/
def takeHeader (hs : List ShardHdr) (g : ShardHdr) : List ShardHdr :=
  hs.map (fun h => if h.tensor = g.tensor then { h with step := g.step, gen := g.gen, group := g.group } else h)

/-! ### Tender refresh (R219, R358 to R360) -/

/-- Positions that keep the copy of a position (R357). -/
def keepersOf (s : State) (d : MDesc) (pos : Nat) : List Nat := (blockNodes s d).filter (fun k => (keptFor s d k).contains pos)

/-- All pieces of a shard. -/
def shardPieces (s : State) (p : Parsed) (k : Nat) (x : ShardAt) : List Piece :=
  (shareKeys p x.h).map (fun q => ⟨k, q.2, readPiece s p x q.1⟩)

/-- The blocks or elements of a shard that the refresh of step t sends: all of them where the whole copy is sent, else the
blocks that have the step's undo tag (R237, R358). -/
def refreshUnits (m : Mooring) (t : Nat) (x : ShardAt) : List Nat :=
  let n := if x.h.t.fmt < 4 then (heldBlocks x.h).length else heldElems x.h
  let bs := distinct ((m.undo.filter (fun u => u.tensor == x.h.t.id && u.step == t)).map (·.block))
  if m.tenderFull then List.range n
  else if x.h.t.fmt < 4 then bs.map (heldIndex x.h)
  else (List.range n).filter (fun e => bs.contains (e / 32))

/-- The shards of a mooring that are owned here (R242, R357). -/
def ownedShards (s : State) (m : Mooring) (p : Parsed) : List (Nat × ShardAt) :=
  p.tensors.zipIdx.filterMap (fun q => if q.1.kind = 3 ∨ q.1.kind = 4 then (shardAt s m p q.1.id).map (fun x => (q.2, x)) else none)

/-- The headers that the refresh of step t sends. -/
def refreshHeaders (m : Mooring) (t : Nat) : List ShardHdr :=
  if m.tenderFull then m.headers else m.headers.filter (fun h => m.undo.any (fun u => u.tensor == h.tensor && u.step == t))

/-- The refresh of step t to one keeper (R358): blocks, headers, the end marker. -/
def refreshTo (s : State) (m : Mooring) (p : Parsed) (t dest : Nat) : State :=
  let s1 := if m.tenderFull then pieceSend s m.desc.id m.daymark dest 0xFE 0 wholeMark [] else s
  let s2 := (ownedShards s m p).foldl (fun s q =>
    sendPieces s m.desc.id m.daymark dest 0xFE (unitsPer q.2.h.t) (unitBody q.2.h.t) q.1
      ((refreshUnits m t q.2).map (fun i => ⟨q.1, i, (pieceSpans q.2 i).flatMap (fun a => readMem s a.1 a.2)⟩))) s1
  pieceSend (sendHeaders s2 m.desc.id m.daymark dest 0xFE (refreshHeaders m t)) m.desc.id m.daymark dest 0xFE 0 endMark (natLE 8 t)

/-- Bytes of a refresh by R360: each block with its scale byte, and 32 for each shard's header. -/
def refreshBytes (s : State) (m : Mooring) (p : Parsed) (t : Nat) : Nat :=
  sumNat ((ownedShards s m p).map (fun q => unitBytes q.2.h.t * (refreshUnits m t q.2).length)) + 32 * (refreshHeaders m t).length

/-- The refresh of a commit (R358), counted (R368). -/
def sendRefresh (s : State) (m : Mooring) (p : Parsed) (t : Nat) : State :=
  let ks := (keepersOf s m.desc (herePos s m)).map (standsIn m.subs)
  let s1 := ks.foldl (fun s n => refreshTo s m p t n) s
  let s2 := bumpModule (bumpModule s1 9 ks.length) 10 (refreshBytes s m p t * ks.length)
  modMooring s2 m.desc.id (fun y => { y with tenderFull := false })

/-- Empty copies for the positions that this one keeps, in their areas (R357, R358). -/
def newTender (s : State) (d : MDesc) (p : Parsed) (pos : Nat) (place : Placement) : List TenderCopy :=
  if d.kind = 0 then (keptFor s d pos).zipIdx.map (fun k =>
    ⟨k.1, none, place.tender.getD k.2 0, ownedBytes s d p k.1, [], newHeaders s d p k.1, [], [], false, none, []⟩) else []

/-- A shard of a kept copy, or of its staging, under a map. -/
def copyShard (s : State) (d : MDesc) (p : Parsed) (c : TenderCopy) (staging : Bool) (k : Nat) : Option ShardAt :=
  (p.tensors[k]?).map (fun t => ⟨shareOf s d p c.pos t, ownedPlace s d p c.pos (c.base + (if staging then c.size else 0)) k t⟩)

/-- Change the copy kept for a position. -/
def modCopy (s : State) (id pos : Nat) (f : TenderCopy → TenderCopy) : State :=
  modMooring s id (fun y => { y with tender := y.tender.map (fun c => if c.pos = pos then f c else c) })

/-- Pieces noted beside those noted before. -/
def notePieces (old new : List (Nat × Nat)) : List (Nat × Nat) := old ++ new.filter (fun q => !old.contains q)

/-- Blocks of a refresh are written to the staging (R358). -/
def stageUnits (s : State) (m : Mooring) (p : Parsed) (c : TenderCopy) (k : Nat) (qs : List Piece) : State :=
  match copyShard s m.desc p c true k with
  | none => s
  | some x => qs.foldl (fun s q => writeSpans s (pieceSpans x q.key) q.bytes) s

/-- A packet of a refresh arrives at the keeper (R358): staged; the end marker says that all has arrived. -/
def stageRefresh (s : State) (m : Mooring) (p : Parsed) (c : TenderCopy) (q : Packet) : State :=
  let pos := posOf q
  let k := bits q.arg 15 0
  if pos = wholeMark then modCopy s m.desc.id c.pos (fun c => { c with whole := true })
  else if pos = endMark then modCopy s m.desc.id c.pos (fun c => { c with staged := some (leNat (q.payload.take 8)) })
  else if pos = hdrMark then modCopy s m.desc.id c.pos (fun c => { c with
    stagedHdrs := c.stagedHdrs ++ (List.range (q.payload.length / 32)).map (fun i => headerOf (q.payload.drop (32 * i))) })
  else if pos = keyMark then modCopy s m.desc.id c.pos (fun c => { c with keys := c.keys ++ (keysOfRuns q.payload).map (fun x => (k, x)) })
  else match p.tensors[k]? with
    | none => s
    | some t =>
      let keys := (c.keys.filter (fun x => x.1 == k)).map (·.2)
      modCopy (stageUnits s m p c k (piecesOf (unitBody t) (unitBytes t) k keys q.payload)) m.desc.id c.pos (fun c => { c with
        staging := notePieces c.staging (keys.map (fun i => (k, i)))
        keys := c.keys.filter (fun x => x.1 != k) })

/-- One staged block goes into the copy. -/
def installUnit (s : State) (m : Mooring) (p : Parsed) (c : TenderCopy) (q : Nat × Nat) : State :=
  match copyShard s m.desc p c true q.1, copyShard s m.desc p c false q.1 with
  | some x, some y => writeSpans s (pieceSpans y q.2) ((pieceSpans x q.2).flatMap (fun a => readMem s a.1 a.2))
  | _, _ => s

/-- Install a staged refresh (R358): the copy stands at its step. -/
def installCopy (s : State) (m : Mooring) (p : Parsed) (c : TenderCopy) : State :=
  match c.staged with
  | none => s
  | some t =>
    modCopy (c.staging.foldl (fun s q => installUnit s m p c q) s) m.desc.id c.pos (fun c => { c with
      point := some t
      pieces := notePieces (if c.whole then [] else c.pieces) c.staging
      headers := c.stagedHdrs.foldl takeHeader c.headers
      staging := []
      stagedHdrs := []
      whole := false
      staged := none })

/-! ### Permute (R304, R305, R458) -/

/-- Where a piece comes from under an old map, for a node that is to hold it: itself if it held the piece, else the
first holder in linear order; for a lost one, the keeper of its copy. -/
def pieceSource (s : State) (od : MDesc) (osubs lost : List (Nat × Nat)) (p : Parsed) (t : Tensor) (key dest : Nat) :
    Option (Nat × Nat) :=
  let held := (blockNodes s od).filter (fun o => (keysAt s od p o t).any (fun q => q.2 == key))
  let pick := (held.find? (fun o => standsIn osubs o == dest)).orElse (fun _ => held.head?)
  pick.map (fun o =>
    let n := standsIn osubs o
    match lost.find? (fun q => q.1 == n) with
    | some q => (q.2, o)
    | none => (n, o))

/-- The copies that stand in for lost members: those of the old map until the first commit of a new epoch (R331). -/
def copiesOf (m : Mooring) : List TenderCopy := if m.oldMap.isSome then m.oldTender else m.tender

/-- The shard that this module holds for the position that owned it, its own or one of a copy that it keeps, with the number
of a piece in it; none where the copy has not had the piece. -/
def heldPiece (s : State) (m : Mooring) (p : Parsed) (od : MDesc) (osubs : List (Nat × Nat)) (place : Placement)
    (k : Nat) (t : Tensor) (key owner : Nat) : Option (ShardAt × Nat) :=
  match (keysAt s od p owner t).find? (fun q => q.2 == key) with
  | none => none
  | some q =>
    if positionOf osubs (selfNode s) = owner then (shardOn s od p place owner k).map (fun x => (x, q.1))
    else match (copiesOf m).find? (fun c => c.pos == owner) with
      | some c => if c.pieces.contains (k, pieceUnit p t q.1) then (copyShard s od p c false k).map (fun x => (x, q.1)) else none
      | none => none

/-- What this module holds of a piece for the position that owned it. -/
def pieceHere (s : State) (m : Mooring) (p : Parsed) (od : MDesc) (osubs : List (Nat × Nat)) (place : Placement)
    (k : Nat) (t : Tensor) (key owner : Nat) : Piece :=
  match heldPiece s m p od osubs place k t key owner with
  | some x => ⟨k, key, readPiece s p x.1 x.2⟩
  | none => ⟨k, key, if looseShard p t ∨ t.fmt = 4 then recBytes Rec.empty else List.replicate (pieceSize p t) 0⟩

/-- Form the blocks of a shard of loose elements from their records (R35, R103). -/
def formLoose (s : State) (p : Parsed) (x : ShardAt) (qs : List Piece) : State :=
  let keys := shareKeys p x.h
  let f := fmtOf x.h.t.fmt
  let val (e : Nat) : Rec := match (keys[e]?).bind (fun k => qs.find? (fun q => q.key == k.2)) with
    | some q => recOfBytes q.bytes
    | none => Rec.empty
  (List.range (ceilDiv keys.length 32)).foldl (fun s b =>
    let r := toRequant ((List.range 32).map (fun i => val (32 * b + i)))
    let o := requantise r.1 r.2 f none 0 false []
    writeMem (writeMem s (x.pl.mbase + b * blockBytes f) (mantissaBytes f o.m)) (x.pl.sbase + b) [BitVec.ofNat 8 o.e]) s

/-- A piece that this module is owed arrives, from a packet or from here: written, or kept until its shard is whole. -/
def takePiece (s : State) (m : Mooring) (p : Parsed) (q : Piece) : State :=
  match m.moving, p.tensors[q.tensor]?, shardOn s m.desc p m.place (herePos s m) q.tensor with
  | some v, some t, some x =>
    if !v.want.contains (q.tensor, q.key) then s
    else
      let v1 := { v with
        want := v.want.erase (q.tensor, q.key)
        loose := if looseShard p t then v.loose ++ [q] else v.loose
        bytes := v.bytes + q.bytes.length }
      let s1 := modMooring s m.desc.id (fun y => { y with moving := some v1 })
      if looseShard p t then
        (if v1.want.any (fun w => w.1 == q.tensor) then s1
         else formLoose s1 p x (v1.loose.filter (fun r => r.tensor == q.tensor)))
      else match (shareKeys p x.h).find? (fun k => k.2 == q.key) with
        | some k => writeSpans s1 (pieceSpans x k.1) q.bytes
        | none => s1
  | _, _, _ => s

/-- Several pieces in turn, each on the mooring as the last left it. -/
def takePieces (s : State) (id : Nat) (p : Parsed) (qs : List Piece) : State :=
  qs.foldl (fun s q => match mooringAt s id with
    | some m => takePiece s m p q
    | none => s) s

/-- Headers that have travelled with their shards. -/
def takeHeaders (s : State) (id : Nat) (hs : List ShardHdr) : State :=
  modMooring s id (fun m => { m with headers := hs.foldl takeHeader m.headers })

/-- A permute's packet arrives (R304). -/
def permuteArrive (s : State) (m : Mooring) (p : Parsed) (q : Packet) : State :=
  if posOf q = hdrMark then
    takeHeaders s m.desc.id ((List.range (q.payload.length / 32)).map (fun i => headerOf (q.payload.drop (32 * i))))
  else
    let k := bits q.arg 15 0
    match p.tensors[k]?, m.moving with
    | some t, some v =>
      let here (x : Nat × Nat × Nat) : Bool := x.1 == q.src && x.2.1 == k
      let set (ks : List (Nat × Nat × Nat)) : State :=
        modMooring s m.desc.id (fun y => { y with moving := some { v with keys := ks } })
      if posOf q = keyMark then set (v.keys ++ (keysOfRuns q.payload).map (fun x => (q.src, k, x)))
      else takePieces (set (v.keys.filter (fun x => !here x))) m.desc.id p
        (piecesOf (pieceBody p t) (pieceSize p t) k ((v.keys.filter here).map (·.2.2)) q.payload)
    | _, _ => s

/-- What this module wants of the new map. -/
def wantKeys (s : State) (d : MDesc) (p : Parsed) (pos : Nat) : List (Nat × Nat) :=
  (movedTensors d p).flatMap (fun q => (keysAt s d p pos q.2).map (fun k => (q.1, k.2)))

/-- Give pieces of one tensor to a position of a map: copied here by a system channel (R171), or sent with the shard's
header. -/
def givePieces (s : State) (id dm : Nat) (subs : List (Nat × Nat)) (p : Parsed) (t : Tensor) (k pos : Nat) (hs : List ShardHdr)
    (qs : List Piece) : State :=
  let h := hs.filter (fun h => h.tensor == t.id)
  let n := standsIn subs pos
  if qs.isEmpty then s
  else if n = selfNode s then takeHeaders (takePieces (sysCopy s (sumNat (qs.map (·.bytes.length)))) id p qs) id h
  else sendHeaders (sendPieces s id dm n 0xFF (piecesPer p t) (pieceBody p t) k qs) id dm n 0xFF h

/-- The new positions in the order in which a holder serves them (R304): ascending distance from its own index. -/
def serveOrder (s : State) (m : Mooring) (old : MDesc) (osubs : List (Nat × Nat)) : List Nat :=
  let new := blockNodes s m.desc
  let n := max new.length (blockNodes s old).length
  let me := (findIdx (fun x => x == positionOf osubs (selfNode s)) (blockNodes s old)).getD 0
  ((List.range n).filterMap (fun i => new[(me + i) % max n 1]?))

/-- Headers of a copy as its shards are restored: GEN advances (R228). -/
def restoredHeaders (c : TenderCopy) : List ShardHdr := c.headers.map (fun h => { h with gen := nextGen h.gen })

/-- The pieces of a tensor that come from here to a position of the new map: the position that owned each, and its key. -/
def sourcesHere (s : State) (m : Mooring) (p : Parsed) (v : Moving) (od : MDesc) (osubs : List (Nat × Nat)) (t : Tensor) (pos : Nat) :
    List (Nat × Nat) :=
  (keysAt s m.desc p pos t).filterMap (fun k =>
    match pieceSource s od osubs v.lost p t k.2 (standsIn m.subs pos) with
    | some (n, o) => if n = selfNode s then some (o, k.2) else none
    | none => none)

/-- The poisoned lines among the source lines of this module's part of a permute (R312). -/
def permutePoison (s : State) (m : Mooring) (p : Parsed) (v : Moving) (od : MDesc) (osubs : List (Nat × Nat)) (place : Placement) : List Nat :=
  distinct ((movedTensors m.desc p).flatMap (fun q => (blockNodes s m.desc).flatMap (fun pos =>
    (sourcesHere s m p v od osubs q.2 pos).flatMap (fun r =>
      match heldPiece s m p od osubs place q.1 q.2 r.2 r.1 with
      | some x => (pieceSpans x.1 (pieceUnit p q.2 x.2)).flatMap (fun a => poisonedLines s a.1 a.2)
      | none => []))))

/-- This module's part of a permute: every piece that comes from here, from its own shards or from a copy it keeps,
leaves or is taken (R304). -/
def permuteFromMap (s : State) (m : Mooring) (p : Parsed) (v : Moving) (od : MDesc) (osubs : List (Nat × Nat)) (place : Placement)
    (hdrs : List ShardHdr) : State :=
  let me := positionOf osubs (selfNode s)
  (movedTensors m.desc p).foldl (fun s q =>
    (serveOrder s m od osubs).foldl (fun s pos =>
      let src := sourcesHere s m p v od osubs q.2 pos
      let from_ (o : Nat) : List Piece := (src.filter (fun r => r.1 == o)).map (fun r => pieceHere s m p od osubs place q.1 q.2 r.2 o)
      let s1 := givePieces s m.desc.id m.daymark m.subs p q.2 q.1 pos hdrs (from_ me)
      (copiesOf m).foldl (fun s c => if c.pos = me then s else givePieces s m.desc.id m.daymark m.subs p q.2 q.1 pos (restoredHeaders c) (from_ c.pos)) s1) s) s

/-- A holder's part of a snapshot restore (R458): each saved piece goes to every position of the map that now holds it. -/
def permuteFromPart (s : State) (d : MDesc) (dm : Nat) (subs : List (Nat × Nat)) (p : Parsed) (hs : List ShardHdr) (saved : List Piece) : State :=
  (movedTensors d p).foldl (fun s q =>
    (blockNodes s d).foldl (fun s pos =>
      let keys := keysAt s d p pos q.2
      givePieces s d.id dm subs p q.2 q.1 pos hs (saved.filter (fun r => r.tensor == q.1 && keys.any (fun k => k.2 == r.key)))) s) s

/-- Is this module's part of a permute done (R305): all it is owed has come, all it sent is acknowledged? -/
def permuteDone (s : State) (id : Nat) (v : Moving) : Bool :=
  v.begun && v.want.isEmpty &&
  s.router.src.all (fun t => (streamPackets t).all (fun q =>
    !(decide (q.typ = 8) && decide (q.mooring = id) && decide (bits q.arg 35 28 = 0xFF))))

end Sys2Proof.Machine
end

