-- ==== Sys2Proof/Machine/Programs.lean ====
section
/-! DEFINITION. Machine/Programs.lean: bundles loaded and stored, the attestation log, and the user area of flash
(R144 to R148, R157, R435, R448, R455, R457). -/

namespace Sys2Proof.Machine

/-! ### The attestation log (R455) -/

/-- Is the log of a function full: 1,024 entries? -/
def attFull (s : State) (f : Nat) : Bool := decide (1024 ≤ (funcAt s f).attLog.length)

/-- Add an entry to a function's log; the chain's head becomes SM3(head, entry). -/
def attAdd (s : State) (f : Nat) (e : AttEntry) : State :=
  modFunc s f (fun x => { x with
    attLog := x.attLog ++ [e]
    attHead := Config.sm3 (natLE 32 x.attHead.toNat ++ attBytes e) })

/-! ### The user area of flash (R144, R145, R147, R457) -/

/-- Bytes of the user area. -/
def userArea : Nat := 3 * 2 ^ 40

/-- Bytes of the user area in use. -/
def userUsed (s : State) : Nat := sumNat (s.flash.objs.map (·.size))

/-- The object of a name. -/
def flashObj (s : State) (name : BitVec 256) : Option FlashObj := s.flash.objs.find? (fun o => o.name == name)

/-- Seconds until the credit covers n bytes: it grows by 8 TiB at the end of each 24 h (R147). -/
def creditWait (s : State) (n : Nat) : Nat :=
  86400 * ceilDiv (n - s.flash.credit) (8 * 2 ^ 40) - min 86400 ((nowNs s - s.flash.grownAt) / 1000000000)

/-- What refuses a write of n bytes to the user area under a name: a status and DETAIL (R145, R147). A name that another
owner uses is no name for this one, and while the user area is to be read after a long time unpowered (R148) a write is
refused as busy (notes/assumptions/20.md). -/
def userWriteErr (s : State) (name : BitVec 256) (owner n : Nat) : Option (Nat × Nat) :=
  let old := flashObj s name
  if s.flash.readOnly then some (stFlashReadonly, 0)
  else if s.flash.unread then some (stBusy, 0)
  else if (old.map (fun o => decide (o.owner ≠ owner))).getD false then some (stField, 0)
  else if s.flash.credit < n then some (stWearBudget, creditWait s n)
  else if userArea < userUsed s - (old.map (·.size)).getD 0 + n then some (stPlacement, 0)
  else none

/-- The write generation of a name (R457). -/
def writeGen (s : State) (name : BitVec 256) : Nat := ((s.flash.wgs.find? (fun w => w.1 == name)).map (·.2)).getD 0

/-- Write an object: the credit pays its size, the name's write generation rises (R147, R457). -/
def putObject (s : State) (name : BitVec 256) (owner n : Nat) (body : ObjBody) : State :=
  let wg := (writeGen s name + 1) % 2 ^ 48
  modFlash s (fun x => { x with
    objs := x.objs.filter (fun o => o.name != name) ++ [⟨name, owner, wg, n, false, body⟩]
    wgs := x.wgs.filter (fun w => w.1 != name) ++ [(name, wg)]
    credit := x.credit - n
    written := x.written + n })

/-! ### Loading (R148, R157, R380) -/

/-- Bytes of the loaded bundles, and of the space for them: 256 MiB in early light (R435), else 16 of 1 GiB (R148). -/
def bundleBytes (s : State) : Nat := sumNat (s.keeper.bundles.map (·.length))
def bundleSpace (s : State) : Nat := if s.boot.state = 1 then 256 * 2 ^ 20 else 16 * 2 ^ 30

/-- The stored bundle that BUNDLE_LOAD names, or the status that refuses it (notes/assumptions/20.md). -/
def storedImage (s : State) (name : BitVec 256) (len : Nat) : Except Nat (List Byte) :=
  match flashObj s name with
  | none => .error stField
  | some o =>
    if o.lost then .error stObjectLost
    else match o.body with
      | .bundle img => if img.length = len then .ok img else .error stField
      | _ => .error stField

/-- Go on with the image that BUNDLE_LOAD names: read at an address, or a stored bundle; or with the status that refuses
it. -/
def bundleImage (s : State) (src : BundleSrc) (len : Nat) (act : Except Nat (List Byte) → State → State) : State :=
  match src with
  | .addr a =>
    if 2 ^ 30 < len then act (.error stField) s
    else readThen s a len (fun d s => act (match d with
      | .ok bs => .ok bs
      | .error c => .error (if c = causeAddress then stField else stFault)) s)
  | .flash name => act (storedImage s name len) s

/-- A bundle joins the loaded ones (R148, R156, R455). -/
def addBundle (s : State) (f seed : Nat) (img : List Byte) (p : Parsed) : State :=
  let h := s.keeper.nextHandle
  let dg := Config.sm3 img
  let s1 := modKeeper s (fun k => { k with
    bundles := k.bundles ++ [⟨h, f, seed, img.length, dg, img, p⟩]
    nextHandle := (h + 1) % 2 ^ 32
    hintsIgnored := k.hintsIgnored + (p.hints.filter (fun x => !hintOk x)).length })
  attAdd s1 f ⟨1, 0xFFFF, nowNs s, dg, Config.sm3 (natLE 64 p.signer)⟩

/-- BUNDLE_LOAD (R157, R380, R435): checked, then loaded; the handle in DETAIL. -/
def execBundleLoad (m : Mbox) (src : BundleSrc) (len seed : Nat) (s : State) : Host.Outcome State Fault Refusal :=
  .next (runCommand s m 0x0010 (fun r s =>
    if attFull s m.func ∨ 16 ≤ s.keeper.bundles.length then answer s m r stBusy [] 0
    else bundleImage s src len (fun d s => match d with
      | .error st => answer s m r st [] 0
      | .ok img =>
        match loadBundle img with
        | .error e => answer s m r (if e.check = 1 then stSignature else stBundleRefused) (words ([e.check, e.sec, e.entry] ++ e.more)) 0
        | .ok p =>
          if bundleSpace s < bundleBytes s + img.length then
            answer s m r stPlacement (words [if s.boot.state = 1 then 1 else 2, bundleBytes s + img.length - bundleSpace s]) 0
          else longAtOnce s m r stSuccess 0 s.keeper.nextHandle (fun s => addBundle s m.func seed img p))))

/-- A bundle that a function may name in a command of class A: one of its own (R372). -/
def bundleFor (s : State) (f handle : Nat) : Option Bundle :=
  match bundleAt s handle with
  | some b => if b.owner = f then some b else none
  | none => none

/-- What refuses a handle that a function may not name: the bundle of another with the privilege status, none as a field
(R372). -/
def bundleDenied (s : State) (handle : Nat) : Nat := if (bundleAt s handle).isSome then stPrivilege else stField

/-- Does a mooring on this module use a bundle? -/
def bundleBusy (s : State) (handle : Nat) : Bool := s.moorings.any (fun x => x.bundle == handle)

/-- BUNDLE_UNLOAD (R380): refused as busy while a mooring uses the bundle. -/
def execBundleUnload (m : Mbox) (handle : Nat) (s : State) : Host.Outcome State Fault Refusal :=
  .next (runCommand s m 0x0011 (fun r s =>
    match bundleFor s m.func handle with
    | none => answer s m r (bundleDenied s handle) [] 0
    | some _ =>
      if bundleBusy s handle then answer s m r stBusy [] 0
      else answer (modKeeper s (fun k => { k with bundles := k.bundles.filter (fun b => b.handle != handle) })) m r stSuccess [] 0))

/-- BUNDLE_STORE (R147, R380, R457): the image becomes a flash object. -/
def execBundleStore (m : Mbox) (handle : Nat) (name : BitVec 256) (s : State) : Host.Outcome State Fault Refusal :=
  .next (runCommand s m 0x0012 (fun r s =>
    match bundleFor s m.func handle with
    | none => answer s m r (bundleDenied s handle) [] 0
    | some b =>
      match userWriteErr s name m.func b.length with
      | some e => answer s m r e.1 [] e.2
      | none => longAtOnce s m r stSuccess 0 0 (fun s => putObject (sysCopy s b.length) name m.func b.length (.bundle b.image))))

end Sys2Proof.Machine
end

