-- ==== Sys2Proof/Machine/Runs.lean ====
section
/-! DEFINITION. Machine/Runs.lean: runs and the start of steps, stopping work, loss scale and ladders, the verdict's
records and tree (R45 to R48, R196, R199, R207 to R214, R218, R222 to R227, R310, R322, R347, R386). -/

namespace Sys2Proof.Machine

/-! ### Stopping work (R223, actions 1 to 3) -/

/-- Is a carrier-peer request one of a lantern's vector engine or channels? -/
def ownRequest (l : Nat) (r : PeerReq) : Bool :=
  match r.who with
  | .dmaRead c _ _ _ => chanLantern c == some l
  | .dmaWrite c _ => chanLantern c == some l
  | .vecLoad k _ _ _ => k == l
  | .vecStore k _ _ => k == l
  | _ => false

/-- The answer of a request comes: its data and whether it failed are the other module's, free here. -/
def answerFree (s : State) (r : PeerReq) : State :=
  let data := freeBytes r.len s
  let end_ := drawFree data.2
  deliverAnswer end_.2 r data.1 (b2n (end_.1.getLsbD 0))

/-- Every answer that a lantern's work awaits comes. -/
def awaitAnswers (s : State) (l : Nat) : State := (s.router.reqs.filter (ownRequest l)).foldl answerFree s

/-- Lens descriptors and bindings that wait are discarded: those that have not started (R223 action 3). -/
def dropWaiting (x : Lantern) : Lantern :=
  { x with
    running := false
    lensQ := x.lensQ.filter (fun j => j.started || j.draining || j.retired)
    bindQ := [] }

/-- The channels of a lantern go on: a transfer retires, a SIGNAL increments. -/
def settleChannels (s : State) (l : Nat) : State :=
  [0, 1, 2, 3].foldl (fun s c => signalStep (retireFlight s (.lantern l c)) (.lantern l c)) s

/-- What a lantern still has in flight, as far as it can go on without more issue: the sizes of what is awaited and
undone. -/
def inFlight (s : State) (l : Nat) : List Nat :=
  let x := lanternAt s l
  [(s.router.reqs.filter (ownRequest l)).length, x.vec.loadQ.length, x.vec.todo.length, x.vec.rowsRun, b2n x.vec.tailRun,
    b2n x.vec.cur.isSome, x.vec.storeQ.length, x.drainQ.length, (x.lensQ.filter (fun j => j.retired)).length, x.lensQ.length,
    sumNat (x.lensQ.map (·.drained)), sumNat (x.dma.map (fun c => c.flights.length + c.queue.length))]

/-- Each engine of a lantern takes one step with what it has in flight. -/
def settleOnce (s : State) (l : Nat) : State :=
  let s1 := arriveLoad (awaitAnswers s l) l
  let s2 := drainOnce (startDrain (releaseTile s1 l) l) l
  settleChannels (retireLens (retireBinding (startNextRow s2 l) l) l) l

/-- Work in flight on a lantern retires, as far as it can without what is discarded. -/
def settleWork (l : Nat) : Nat → State → State
  | 0, s => s
  | n + 1, s =>
    let t := settleOnce s l
    if inFlight t l = inFlight s l then t else settleWork l n t

/-- Steps in which the work in flight on a lantern has retired: a row, a load, a drained row, a transfer or an answer
each. -/
def settleSteps (x : Lantern) : Nat :=
  let body := match x.vec.cur with
    | some j => j.chain.body.length + j.chain.tail.length
    | none => 0
  (x.vec.nrows + 2) * (body + 2) + 4 * sumNat (x.lensQ.map (fun j => drainRows j.desc + 2)) +
    4 * sumNat (x.dma.map (fun c => c.flights.length + 2))

/-- Stop the channels of a lantern that have work (R189). -/
def stopChannels (s : State) (l : Nat) : State :=
  [0, 1, 2, 3].foldl (fun s c => if (chanAt s (.lantern l c)).queue.isEmpty then s else stopChannel s (.lantern l c)) s

/-- Stop the work of a lantern: issue ends, what waits is discarded, what is in flight retires with its writes performed,
collectives are aborted (R189, R223). The Keeper's wait for it takes no step of the model (notes/assumptions/39.md). -/
def windDownLantern (s : State) (l : Nat) : State :=
  let s1 := stopChannels (modLantern s l dropWaiting) l
  modLantern (performStores (settleWork l (settleSteps (lanternAt s1 l)) s1) l) l dropWork

/-- Stop the work of a mooring on this module. -/
def windDown (s : State) (id : Nat) : State := (lanternsOf s id).foldl windDownLantern s

/-- A new epoch begins here (R322). -/
def newEpoch (s : State) (id : Nat) : State :=
  modMooring (advanceNow s (.mooring id)) id (fun m => { m with epoch := m.epoch + 1 })

/-- May an epoch change take place now: 1 ms has passed since the last, and none waits (R345)? -/
def epochOpen (s : State) (id : Nat) : Bool :=
  mayAdvance s (.mooring id) && ((mooringAt s id).map (fun m => m.due.isEmpty)).getD true

/-- What would change the epoch waits until it may: the mooring's work is stopped, and no step starts (R223, R345). -/
def deferEpoch (s : State) (id : Nat) (d : EpochDue) : State :=
  modMooring (windDown s id) id (fun m => { m with due := m.due ++ [d] })

/-- Nothing known of a step. -/
def Ahead.blank : Ahead := ⟨none, 0, false, [], none, 0, false, false⟩

/-! ### Records of a run (R191, R226, R386) -/

/-- The RUN_STEPS that runs a mooring. -/
def runOp (s : State) (id : Nat) : Option LongOp :=
  s.keeper.ops.find? (fun o => o.mooring == id && (match o.kind with | .run _ _ _ => true | _ => false))

/-- The step record of a run, where this module keeps the run's command. -/
def runRecord (s : State) (id status : Nat) (flags : BitVec 16) (step : Nat) : State :=
  match runOp s id with
  | none => s
  | some o => stepRecord (modOp s o.func o.tag (fun q => { q with flags := q.flags ||| flags })) o status flags.toNat step

/-- The steps of a run that are not decided (R226, R386): of its COUNT, those that are left; a committed step that runs again
has its record. -/
def openSteps (m : Mooring) : List Nat :=
  let lo := m.provisional.getD m.step
  ((List.range (m.runCount + b2n m.rerun.isSome - m.decided)).map (fun i => lo + i)).filter (fun t =>
    m.rerun != some t && decide (t < 2 ^ 48))

/-- FLAGS of a record (R191): the flags of R137, BAD, FAULT, NOT_EXACT. -/
def recordFlags (fl : BitVec 16) (bad fault notExact : Bool) : BitVec 16 :=
  orFlag (orFlag (orFlag (fl &&& 0x3F) 6 bad) 7 fault) 8 notExact

/-- FLAGS of the record of a step that the end of the run leaves undecided: what its work has shown so far (R191). -/
def abortFlags (s : State) (m : Mooring) (t : Nat) : BitVec 16 :=
  if m.provisional = some t then
    recordFlags m.sentFlags m.sentBad (m.faulted || ((m.contrib.map (·.fault)).getD false)) false
  else if m.stepOn ∧ m.step = t then
    recordFlags m.flags m.bad (m.faulted || m.gathered.fault || (lanternsOf s m.desc.id).any (fun l => (lanternAt s l).fault)) false
  else 0

/-- The FLAGS that the records of a command have shown so far (R191). -/
def opFlags (s : State) (f tag : Nat) : Nat := ((opAt s f tag).map (·.flags.toNat)).getD 0

/-- The ABORTED records of the undecided steps of a run (R226). -/
def abortSteps (s : State) (o : LongOp) : State :=
  match mooringAt s o.mooring with
  | none => s
  | some m => (openSteps m).foldl (fun s t =>
      stepRecord (modOp s o.func o.tag (fun q => { q with flags := q.flags ||| abortFlags s m t })) o stAborted (abortFlags s m t).toNat t) s

/-- Is a run in progress? -/
def runActive (m : Mooring) : Bool := m.run == .running || m.run == .stopping

/-- A run ends here (R226, R386, R405): records for the steps left undecided, then the command's own. -/
def endRun (s : State) (id status : Nat) : State :=
  match mooringAt s id with
  | none => s
  | some m =>
    if !runActive m then s
    else
      let stopped := decide (status ≠ stSuccess)
      let s1 := (openSteps m).foldl (fun t k => runRecord t id stAborted (abortFlags s m k) k) (endFillOf s id)
      let s2 := modMooring s1 id (fun y => { y with
        run := if stopped then .stopped else .idle
        stopWith := status
        stepOn := false
        provisional := none
        lastBegun := none
        rerun := none
        contrib := none
        children := []
        ahead := Ahead.blank
        forwarded := false
        timer := false })
      tellSlot (leaveReached (match runOp s id with
      | none => s2
      | some o => finishOp s2 o.func o.tag status (opFlags s2 o.func o.tag) m.runCommitted) id) id

/-- The work of a run stops and its provisional update is undone; the step that it would have decided is left to a later
run (R223, R226). -/
def cutRunShort (s : State) (id status : Nat) : State :=
  match mooringAt s id with
  | none => s
  | some m =>
    if !runActive m then s
    else
      let s1 := windDown s id
      let t := m.provisional.getD m.step
      let s2 := if m.desc.kind = 0 then undoUpdate s1 id t else s1
      modMooring (endRun s2 id status) id (fun y => { y with step := t })

/-- A run is broken off (R223, R226), in a new epoch once the daymark may advance (R345). -/
def breakRun (s : State) (id status : Nat) : State :=
  if !((mooringAt s id).map runActive).getD false then s
  else if epochOpen s id then cutRunShort (newEpoch (windDown s id) id) id status
  else deferEpoch s id (.stop status)

/-! ### Loss scale and ladders (R45 to R48, R205 to R211) -/

/-- LSTART and RAISE with their defaults (R45, R46). -/
def startScale (p : Parsed) : Nat := if p.lstart = 0xFF then 16 else p.lstart
def raiseInterval (p : Parsed) : Nat := if p.raise = 0 then 1000 else p.raise

/-- A ladder at its start (R206). -/
def newLadder (d : LadderRec) : Ladder :=
  { rung := d.rung0, count := 0, window := [], prevRung := d.rung0, prevWindow := [], gtop := -32768, ghalf := false,
    gsat := false, curRung := d.rung0, curWindow := [], efix := none }

/-- L and the clean count after a clean verdict (R46). -/
def cleanScale (m : Mooring) : Mooring :=
  let n := m.clean + 1
  if n < m.raise then { m with clean := n }
  else if m.lscale < 63 then { m with lscale := m.lscale + 1, clean := 0 }
  else { m with clean := m.raise }

/-- A ladder after a clean verdict with its combined statistics (R209, R210). -/
def cleanLadder (d : LadderRec) (x : Ladder) (q : Int × Bool × Bool) : Ladder :=
  let n := x.count + 1
  let moved := decide (256 ≤ n)
  { x with
    prevRung := x.rung
    prevWindow := x.window
    window := (x.window ++ [q.1]).drop (x.window.length + 1 - 64)
    rung := if !q.2.1 && moved && decide (d.rmin < x.rung) then x.rung - 1 else x.rung
    count := if q.2.1 || moved then 0 else n }

/-- A ladder after an overflow verdict (R210). -/
def overLadder (d : LadderRec) (x : Ladder) (q : Int × Bool × Bool) : Ladder :=
  { x with
    prevRung := x.rung
    prevWindow := x.window
    rung := if q.2.2 && decide (x.rung < d.rmax) then x.rung + 1 else x.rung
    count := 0 }

/-- Every ladder of a mooring after a verdict. -/
def moveLadders (f : LadderRec → Ladder → Int × Bool × Bool → Ladder) (p : Parsed) (v : Verdict) (xs : List Ladder) : List Ladder :=
  xs.zipIdx.map (fun q => match (ladderRecs p)[q.2]? with
    | some d => f d q.1 (v.lads.getD q.2 (-32768, false, false))
    | none => q.1)

/-- Headroom and magnitude bits of a rung (R205). -/
def rungHead (r : Nat) : Nat := if r < 4 then r else r - 4
def rungBits (r : Nat) : Nat := if r < 4 then 7 else 15

/-- e_fix of R209, none where the sites use MAXFIT. -/
def ladderExp (x : Ladder) (l : Nat) : Option Nat :=
  let t := x.curWindow.foldl max (-32768)
  if t = -32768 then none
  else some (max 1 (min 254 (t + l + rungHead x.curRung - rungBits x.curRung + 127))).toNat

/-- The controls written at the hold line (R47, R207, R220). -/
def fixScale (m : Mooring) : Mooring :=
  { m with stepL := m.lscale, ladders := m.ladders.map (fun x => { x with efix := ladderExp x m.lscale }) }

/-- The rung and window of the step about to start (R211): the verdict of the step before is left out, unless this is
its restart after an overflow. -/
def fixRungs (m : Mooring) : Mooring :=
  let leave := decide (m.committed = some (m.step - 1)) && decide (m.step ≠ 0)
  { m with ladders := m.ladders.map (fun x => { x with
      curRung := if leave then x.prevRung else x.rung
      curWindow := if leave then x.prevWindow else x.window
      gtop := -32768
      ghalf := false
      gsat := false }) }

/-! ### What the shore cores of a mooring see (R218, R370) -/

/-- Where the bytes of a shard lie for commands: its mantissa array, then its scale array; for the two copies of R218,
the one of the step's parity. -/
def tensorArrays (pl : Placed) (step : Nat) : List (Nat × Nat) :=
  let b := match pl.alt with
    | some x => if step % 2 = 1 then x else (pl.mbase, pl.sbase)
    | none => (pl.mbase, pl.sbase)
  [(b.1, pl.mbytes), (b.2, pl.sbytes)]

/-- The arrays that the guests of a mooring may see: every tensor of a serving mooring, the tensors of KIND 1, and of KIND 9
and 10 the copies of the steps named. -/
def guestArrays (m : Mooring) (p : Parsed) (steps : List Nat) : List (Nat × Nat) :=
  (m.place.tensors.zip p.tensors).flatMap (fun q =>
    if m.desc.kind = 1 ∨ q.2.kind = 1 then tensorArrays q.1 0
    else if q.2.kind = 9 ∨ q.2.kind = 10 then steps.flatMap (tensorArrays q.1)
    else [])

/-- Does a window lie in one of some arrays? -/
def windowIn (arrays : List (Nat × Nat)) (w : Nat × Nat) : Bool :=
  decide (0 < w.2) && arrays.any (fun a => decide (a.1 ≤ w.1) && decide (w.1 + w.2 ≤ a.1 + a.2))

/-- The windows of a mooring's shore cores as they are to be now: those asked for, on an output or a statistic while its
copy can be read. -/
def openWindows (s : State) (id : Nat) : State :=
  match mooringAt s id with
  | none => s
  | some m =>
    match bundleAt s m.bundle with
    | none => s
    | some b =>
      let arrays := guestArrays m b.p m.readable
      { s with shore := s.shore.map (fun x =>
          if x.lent = some id then { x with maps := x.asked.filter (windowIn arrays) } else x) }

/-! ### The start of a step (R196, R199) -/

def Verdict.blank (n : Nat) : Verdict := ⟨false, false, false, false, false, false, List.replicate n (-32768, false, false)⟩

/-- Steps of the run that may still start; one that runs again after a loss is decided already (R364). -/
def stepsLeft (m : Mooring) : Bool :=
  decide (m.decided + b2n m.provisional.isSome < m.runCount + b2n m.rerun.isSome) && decide (m.step < 2 ^ 48)

/-- Does completion staging of the run's queue have room (R193)? For a run that another module forwarded, that module has
told. -/
def stagingRoom (s : State) (id : Nat) : Bool :=
  match runOp s id with
  | none => true
  | some o => o.paused.isNone && (decide (64 ≤ o.func) || decide ((queueAt s o.func o.cq).staged.length < 4096))

/-- A placement follows the set of enabled lanterns when one has been retired (R158, R160). -/
def replaceRoles (s : State) (m : Mooring) (p : Parsed) : Mooring :=
  let pool := sectorLanterns s m.desc.split m.desc.sector
  if m.place.replicas.all (fun r => pool.contains r.lantern) ∨ pool.isEmpty then m
  else { m with place := { m.place with replicas := placeRoles (liveUnits s m.desc p (herePos s m)) pool pool 0 p.roles } }

/-- Is a copy from or to the mooring's tensors still under way for a command: no step starts beside it, so that it moves
nothing provisional (R217)? -/
def copying (s : State) (id : Nat) : Bool :=
  s.keeper.ops.any (fun o => o.mooring == id && (match o.kind with
    | .copy _ _ _ => true
    | _ => false))

/-- May the next step of a mooring start here? -/
def mayStartStep (s : State) (m : Mooring) : Bool :=
  !copying s m.desc.id && m.due.isEmpty && m.run == .running && !m.stepOn && !m.paused && m.moving.isNone && m.saving.isNone && m.ahead.contrib.isNone && m.ahead.verdict.isNone &&
  (m.provisional.isNone || m.overLimit.isEmpty) && stepsLeft m && stagingRoom s m.desc.id &&
  (lanternsOf s m.desc.id).all (fun l => let x := lanternAt s l; !x.rst.active && !x.running)

/-- A lantern is started on its schedule (R199). -/
def startLantern (p : Parsed) (m : Mooring) (l : Nat) (x : Lantern) : Lantern :=
  { x with
    fault := false
    sched := lanternSchedule p m.ladders m.place l 0
    turn := 0
    pc := 0
    events := List.replicate 16 0
    passesRead := 0
    collCnt := []
    waiting := false
    holding := false
    updHold := false
    endIssued := false
    endRetired := false
    running := true }

/-- STEP_START (R199): the step's rungs are fixed, schedules written, counters cleared, lanterns started; L and the
exponents are fixed here when no verdict is awaited, else at the hold line (R220). -/
def execStepStart (mooring : Nat) (s : State) : Host.Outcome State Fault Refusal :=
  .next (match mooringAt s mooring with
    | none => s
    | some m =>
      match bundleAt s m.bundle with
      | none => s
      | some b =>
        if !mayStartStep s m then s
        else
          let m1 := fixRungs (replaceRoles s m b.p)
          let m2 := if m1.provisional.isNone then fixScale m1 else m1
          let m3 := { m2 with
            stepOn := true
            holdOpen := m1.provisional.isNone
            lastBegun := some m2.step
            readable := m2.readable.filter (fun c => decide (m2.step < c + 2))
            flags := 0
            bad := false
            gathered := Verdict.blank m2.ladders.length
            versions := []
            poisonSeen := []
            moments := []
            tiles := []
            begun := []
            factored := [] }
          let s1 := modMooring s mooring (fun _ => m3)
          openWindows ((lanternsOf s mooring).foldl (fun s l =>
            if (lanternAt s l).phys.isSome then modLantern s l (startLantern b.p m3 l) else s) s1) mooring)

/-! ### Verdict records (R208, R212, R213) -/

/-- GTOP - L as int16, saturating; -32,768 for none. -/
def gtopL (x : Ladder) (l : Nat) : Int := if x.gtop = -32768 then -32768 else max (-32768) (min 32767 (x.gtop - l))

/-- This module's contribution (R212). -/
def ownVerdict (s : State) (m : Mooring) : Verdict :=
  { m.gathered with
    fault := m.gathered.fault || (lanternsOf s m.desc.id).any (fun l => (lanternAt s l).fault)
    lads := m.ladders.map (fun x => (gtopL x m.stepL, x.ghalf, x.gsat)) }

/-- Contributions combine by OR and maximum (R214). -/
def joinVerdict (a b : Verdict) : Verdict :=
  { overflow := a.overflow || b.overflow, fault := a.fault || b.fault, version := a.version || b.version,
    notExact := a.notExact || b.notExact, unf := a.unf || b.unf, tcl := a.tcl || b.tcl,
    lads := (a.lads.zip b.lads).map (fun q => (max q.1.1 q.2.1, q.1.2.1 || q.2.2.1, q.1.2.2 || q.2.2.2)) }

/-- The record's bytes (R213). -/
def verdictBytes (id daymark step : Nat) (v : Verdict) : List Byte :=
  natLE 6 step ++ natLE 2 id ++ natLE 4 daymark ++
  natLE 2 (b2n v.overflow + 2 * b2n v.fault + 4 * b2n v.version + 8 * b2n v.notExact + 16 * b2n v.unf + 32 * b2n v.tcl) ++
  natLE 2 v.lads.length ++ List.replicate 16 0 ++
  v.lads.flatMap (fun q => intLE 2 q.1 ++ natLE 2 (b2n q.2.1 + 2 * b2n q.2.2))

/-- The step and the verdict that a record spells. -/
def verdictOf (bs : List Byte) : Nat × Verdict :=
  let w := leAt bs 12 2
  (leAt bs 0 6,
   ⟨bit w 0, bit w 1, bit w 2, bit w 3, bit w 4, bit w 5,
    (List.range (leAt bs 14 2)).map (fun i =>
      (sext 16 (leAt bs (32 + 4 * i) 2), bit (leAt bs (34 + 4 * i) 2) 0, bit (leAt bs (34 + 4 * i) 2) 1))⟩)

/-! ### The combining tree (R310) -/

/-- The parent position of a block position, none for the root. -/
def treeParent (s : State) (d : MDesc) (pos : Nat) : Option Nat :=
  match [3, 2, 1, 0].find? (fun a => decide (memberIdx s d pos a ≠ 0)) with
  | none => none
  | some a =>
    let i := memberIdx s d pos a
    let n := (axisAt d a).extent
    let j := if (axisAt d a).ring ∧ n - i < i then (i + 1) % n else i - 1
    some (nodeOf (setAt (coordsOf pos) a ((axisCoords s d a).getD j 0)))

/-- This module's parent node, and the nodes whose parent it is. -/
def parentNode (s : State) (m : Mooring) : Option Nat := (treeParent s m.desc (herePos s m)).map (standsIn m.subs)

def childNodes (s : State) (m : Mooring) : List Nat :=
  ((blockNodes s m.desc).filter (fun q => decide (treeParent s m.desc q = some (herePos s m)))).map (standsIn m.subs)

/-- Bytes followed by zeros up to a multiple of n. -/
def padTo (n : Nat) (bs : List Byte) : List Byte := bs ++ List.replicate ((n - bs.length % n) % n) 0

/-- A verdict record to a node (R265: TYPE 0x09), padded with zeros to whole 8-byte words (R264). -/
def sendVerdict (s : State) (m : Mooring) (dest step : Nat) (v : Verdict) : State :=
  sendSeq s 0 { Packet.blank with
    typ := 0x09, cls := 1, dmk := 1, dest := dest, daymark := m.daymark, mooring := m.desc.id,
    payload := padTo 8 (verdictBytes m.desc.id m.daymark step v) }

end Sys2Proof.Machine
end

