-- ==== Sys2Proof/Machine/Boot.lean ====
section
/-! DEFINITION. Machine/Boot.lean: bring-up to early and full light, firmware slots, and Keeper restarts
(R3, R9, R356, R379, R407, R433 to R446, R465 to R467). -/

namespace Sys2Proof.Machine

/-! ### The carrier record (R466) -/

/-- n steps of the reflected CRC-32 register. -/
def crc32Shift : Nat → Nat → Nat
  | 0, c => c
  | n + 1, c => crc32Shift n (if bit c 0 then (c / 2) ^^^ 0xEDB88320 else c / 2)

def crc32Bytes (c : Nat) : List Byte → Nat
  | [] => c
  | b :: bs => crc32Bytes (crc32Shift 8 (c ^^^ b.toNat)) bs

/-- CRC-32 of IEEE 802.3. -/
def crc32 (bs : List Byte) : Nat := crc32Bytes 0xFFFFFFFF bs ^^^ 0xFFFFFFFF

/-- Coordinates and sizes that a carrier record gives, none when it is not valid (R466; a size outside the range of its field
is none: notes/assumptions/37.md). -/
def carrierGeometry (posW : Nat) (bs : List Byte) : Option (List Nat × List Nat) :=
  let coords := [posW, leAt bs 6 1, leAt bs 7 1, leAt bs 8 1]
  let sizes := [leAt bs 5 1, leAt bs 9 1, leAt bs 10 1, leAt bs 11 1]
  if bs.length = 64 ∧ leAt bs 0 4 = 0x52434341 ∧ leAt bs 4 1 = 1 ∧ leAt bs 60 4 = crc32 (bs.take 60) ∧
      1 ≤ sizes.getD 0 0 ∧ sizes.getD 0 0 ≤ 8 ∧ sizes.all (fun n => decide (1 ≤ n) && decide (n ≤ 32)) ∧
      (coords.zip sizes).all (fun q => decide (q.1 < q.2)) then
    some (coords, sizes)
  else none

/-- Ports X+ to Z- are held down, with an event for each (R466). -/
def holdPorts (s : State) : State :=
  [2, 3, 4, 5, 6, 7].foldl (fun s p =>
    raiseEventP (modPort s p (fun x => { x with heldBy := 3 })) evLink p (linkDetail 3 0 0)) s

/-- Sample the straps and the carrier record (R465, R466); R3 on the geometry. -/
def readCarrier (s : State) (b : BringUp) : State :=
  match b.carrier.bind (carrierGeometry (b.posW % 8)) with
  | some (coords, sizes) =>
    let big := decide (65536 < sizes.foldl (· * ·) 1)
    modBoot s (fun x => { x with
      coords := coords, sizes := sizes, noCarrier := false, routerAtFull := x.routerAtFull || big })
  | none =>
    holdPorts (modBoot s (fun x => { x with coords := [b.posW % 8, 0, 0, 0], sizes := [8, 1, 1, 1], noCarrier := true }))

/-! ### The configuration record at stage 0x03 (R441) -/

/-- Choose the copy of the record; none when no factory part verifies. -/
def selectConfig (s : State) : Option State :=
  let a := s.flash.rec0
  let b := s.flash.rec1
  let av := a.factoryOk && a.fieldOk
  let bv := b.factoryOk && b.fieldOk
  if av && bv then some (modFlash s (fun x => { x with use1 := decide (a.gen < b.gen) }))
  else if av then some (modFlash s (fun x => { x with use1 := false }))
  else if bv then some (modFlash s (fun x => { x with use1 := true }))
  else
    let rebuilt (r : ConfigRec) : ConfigRec :=
      { r with
        fieldOk := true, gen := 1, dark := r.dark0, retired := [], gaps := [], active := 0, pending := none,
        tries := 0, svnFloor := r.svn0, spareLines := [], pageRemap := [] }
    if a.factoryOk then
      some (raiseEventP (modFlash s (fun x => { x with rec0 := rebuilt a, use1 := false })) evRepair 0 1)
    else if b.factoryOk then
      some (raiseEventP (modFlash s (fun x => { x with rec1 := rebuilt b, use1 := true })) evRepair 0 1)
    else none

/-- Physical positions of a tower that the record leaves enabled, ascending (R9). -/
def enabledPositions (r : ConfigRec) (t : Nat) : List Nat :=
  (List.range 50).filter (fun p => !(r.dark.contains (t, p)) && !(r.retired.contains (t, p)))

/-- Logical lanterns take the enabled positions in ascending order (R9); an index left unfilled keeps its number (R11). -/
def assignLanterns (s : State) : State :=
  let r := configRec s
  let gap (l : Nat) : Bool := r.gaps.contains l
  { s with lanterns := s.lanterns.zipIdx.map (fun q =>
    let before := ((List.range (q.2 % 48)).filter (fun i => gap (q.2 / 48 * 48 + i))).length
    { q.1 with phys := if gap q.2 then none else (enabledPositions r (q.2 / 48))[q.2 % 48 - before]? }) }

/-! ### Firmware slots (R442, R443) -/

def slotImage (s : State) (slot : Nat) : Option FwImage := if slot = 0 then s.flash.slotA else s.flash.slotB

/-- Does a slot's image verify (R442)? -/
def slotVerifies (s : State) (slot : Nat) : Bool :=
  match slotImage s slot with
  | none => false
  | some i => i.sigOk && decide ((configRec s).svnFloor ≤ i.svn)

/-- The slot that runs after R443, and the record's changes: the state, and the slot with whether it is on
trial, none when neither slot verifies. -/
def chooseSlot (s : State) : State × Option (Nat × Bool) :=
  let r := configRec s
  let fallBack (s : State) : State × Option (Nat × Bool) :=
    let a := (configRec s).active
    if slotVerifies s a then (s, some (a, false))
    else if slotVerifies s (1 - a) then (s, some (1 - a, false))
    else (s, none)
  match r.pending with
  | some p =>
    if 0 < r.tries ∧ slotVerifies s p then
      (setConfig s (fun r => { r with tries := r.tries - 1 }), some (p, true))
    else if 0 < r.tries then
      fallBack (setConfig (setConfig s (fun r => { r with tries := r.tries - 1 })) (fun r => { r with pending := none, tries := 0 }))
    else fallBack (setConfig s (fun r => { r with pending := none, tries := 0 }))
  | none => fallBack s

/-- The firmware of a slot starts (stage 0x05). -/
def startFirmware (s : State) (slot : Nat) (trial : Bool) : State :=
  modBoot s (fun b => { b with
    fwSlot := slot, fwVersion := ((slotImage s slot).map (·.version)).getD 0, trial := trial, keeperUp := true,
    recovery := false, identity := true })

/-! ### Bring-up (R433, R438) -/

/-- Retire the lanterns of a tower whose physical positions fail; a failing dark spare is no spare (R438). -/
def retireFailing (s : State) (t : Nat) (failed : List Nat) : State :=
  failed.foldl (fun s p =>
    let s1 := if (configRec s).dark.contains (t, p) then
        setConfig s (fun r => { r with dark := r.dark.erase (t, p), retired := r.retired ++ [(t, p)] })
      else s
    match (towerLanterns t).find? (fun l => (lanternAt s1 l).phys == some p) with
    | some l => retireLantern s1 l
    | none => s1) s

/-- Bring-up stops with a code and the module halted (R438). -/
def haltBringUp (s : State) (code : Nat) : State :=
  modBoot s (fun b => { b with fail := code, halted := true, alert := true })

def setStage (s : State) (n : Nat) : State := modBoot s (fun b => { b with stage := n })

/-- Stage 0x06: tower 0's tests. -/
def stageSix (s : State) (b : BringUp) : State :=
  let s1 := retireFailing s 0 b.tower0.failed
  let s2 := if b.tower0.fabric then modBoot s1 (fun x => { x with fail := 5, routerAtFull := true }) else s1
  setStage s2 0x06

/-- Stages 0x04 and 0x05: choose the firmware and start it, or enter recovery. -/
def stageFour (s : State) (b : BringUp) : State :=
  match chooseSlot s with
  | (s1, none) => modBoot s1 (fun x => { x with fail := 4, recovery := true })
  | (s1, some (slot, trial)) => stageSix (setStage (startFirmware (setStage s1 0x04) slot trial) 0x05) b

/-- Stages 0x01 to 0x06, as far as they get (R433). -/
def bringUp (s : State) (b : BringUp) : State :=
  if !b.pllLocks then modBoot s (fun x => { x with fail := 1 })
  else
    let s1 := readCarrier (setStage (modBoot s (fun x => { x with fail := 0 })) 0x01) b
    if !b.pufOk then haltBringUp s1 2
    else
      let s2 := setStage (modBoot s1 (fun x => { x with identity := true })) 0x02
      match selectConfig s2 with
      | none => haltBringUp s2 3
      | some s3 => stageFour (assignLanterns (setStage s3 0x03)) b

/-- POWER_GOOD (R409, R433). -/
def execPowerGood (b : BringUp) (s : State) : Host.Outcome State Fault Refusal :=
  .next (if s.power.inputOn && firstRails.all s.power.rails.contains && !s.power.powerGood then
      bringUp (modBoot (modPower s (fun p => { p with powerGood := true })) (fun x => { x with pgTime := nowNs s })) b
    else s)

/-- BRINGUP_RETRY (R438): stage 0x01 again, 1 s after the PLL did not lock. -/
def execBringupRetry (b : BringUp) (s : State) : Host.Outcome State Fault Refusal :=
  .next (if s.power.powerGood && decide (s.boot.fail = 1) && decide (s.boot.stage = 0) then bringUp s b else s)

/-- The range of a tower's bonded SRAM (R20). -/
def clearTowerSram (s : State) (t : Nat) : State :=
  clearMem s (localAddr 0x10 (t * 0xC0000000)) (localAddr 0x10 ((t + 1) * 0xC0000000))

/-- EARLY_LIGHT (R433, R434, R407, R438): stage 0x07; skipped when tower 0 failed outside its lanterns, and by a module
set for router-only mode before it, whose STATE first reads 3 (R434, notes/assumptions/25.md). -/
def execEarlyLight (s : State) : Host.Outcome State Fault Refusal :=
  .next (if s.power.powerGood && s.boot.keeperUp && decide (s.boot.stage = 0x06) && decide (s.boot.fail ≠ 5) &&
      !s.boot.routerAtFull && !s.boot.halted then
      let s1 := clearTowerSram s 0
      examineAll (modBoot s1 (fun b => { b with stage := 0x07, state := 1, towers := setAt b.towers 0 true }))
    else s)

/-- The tests of towers 1 to 3 (stage 0x12). -/
def testTowers (s : State) (ts : List TowerTest) : State :=
  ts.zipIdx.foldl (fun s q =>
    let t := q.2 + 1
    let s1 := retireFailing s t q.1.failed
    if q.1.fabric then holdTower (modBoot s1 (fun b => { b with fail := 7, routerAtFull := true })) t else s1) s

/-- A neighbour that does not match takes its port down until the next power-on (R467). -/
def checkNeighbour (s : State) (n : Neighbour) : State :=
  let a := axisOf n.port
  let size := s.boot.sizes.getD a 1
  let c := s.boot.coords.getD a 0
  let c1 := if n.port % 2 = 0 then (c + 1) % size else (c + size - 1) % size
  if !(portAt s n.port).up then s
  else if n.node = nodeOf (setAt s.boot.coords a c1) ∧ n.sizes = s.boot.sizes then s
  else
    raiseEventP (modPort (linkDown s n.port) n.port (fun x => { x with heldBy := 2, training := false }))
      evLink n.port (linkDetail 2 (portAt s n.port).lanes (portAt s n.port).rate)

/-- Train every port, then the neighbour check (stages 0x15 and 0x16). -/
def trainAll (s : State) (ls : List (Option LinkTrain)) : State :=
  (List.range 8).foldl (fun s p => match ls.getD p none with
    | some t => trainPort s p t
    | none => modPort s p (fun x => { x with training := decide (x.heldBy = 0) })) s

/-- A SELFTEST accepted in early light starts at full light (R449). -/
def startWaitingBist (s : State) : State :=
  modKeeper s (fun k => if k.ops.any (fun o => o.kind == .selftest) && decide (k.bistGroup = 0) then
    { k with bistGroup := 1 } else k)

/-- The node that this module expects behind a port (R273). -/
def expectedNode (s : State) (port : Nat) : Nat := nodeBeyond s.boot.sizes (selfNode s) port

/-- The Keeper sends its node id and axis sizes over every port that is up (R467). -/
def greetNeighbours (s : State) : State :=
  (List.range 8).foldl (fun s p =>
    if (portAt s p).up then tellNode s (expectedNode s p) (.neighbour (if p % 2 = 0 then p + 1 else p - 1) (selfNode s) s.boot.sizes)
    else s) s

/-- The head-wait limit and the stream timeout of full light, each when it lies in its range (R272, R279); a value outside
leaves the default (DESIGN CHOICE, notes/assumptions/37.md). -/
def setLimits (s : State) (f : FullInputs) : State :=
  modRouter s (fun r => { r with
    headWait := (f.headWaitUs.filter (fun t => decide (100 ≤ t) && decide (t ≤ 100000))).getD r.headWait,
    streamUs := (f.streamUs.filter (fun t => decide (5 ≤ t) && decide (t ≤ 10000))).getD r.streamUs })

/-- The rails of towers 1 to 3, which rise at full light (R409, R436 stage 0x10). -/
def laterRails : List Rail := [.vcmp 1, .vcmp 2, .vcmp 3, .vsrm 1, .vsrm 2, .vsrm 3]

/-- Module time is set at the first lock (R283); the time since power-good goes on as it was (R406). -/
def setTime (s : State) (t : Nat) : State :=
  let s1 := modTime s (fun x => { x with now := t, locked := true })
  modBoot s1 (fun b => { b with pgTime := b.pgTime + nowNs s1 - nowNs s })

/-- The root that a module follows when it comes up (R284); with no link up it runs in holdover (R436) until it chooses again
(R284, notes/assumptions/37.md). -/
def firstRoot (s : State) : State :=
  if s.router.ports.any (·.up) then followRoot s (chooseRoot s)
  else modTime s (fun t => { freeRun t with parent := none, dist := 255, holdover := true })

/-- FULL_LIGHT (R427, R428, R436 to R438): stages 0x10 to 0x17. With a failure that asks for it, the module
enters router-only mode instead of full service; one in that mode already stays so (R355, R410). -/
def execFullLight (f : FullInputs) (s : State) : Host.Outcome State Fault Refusal :=
  .next (if s.power.powerGood && s.boot.keeperUp && (decide (s.boot.stage = 0x07) ||
      (decide (s.boot.stage = 0x06) && (decide (s.boot.fail = 5) || s.boot.routerAtFull))) then
      let s1 := testTowers (if f.stale then modFlash s (fun x => { x with unread := true }) else s) f.towers
      let s2 := if f.lpddrOk then modBoot (clearMem s1 (localAddr 0 0) (localAddr 0 0xC000000000)) (fun b => { b with lpddr := true })
        else modBoot s1 (fun b => { b with fail := 6, routerAtFull := true })
      let s3 := modPower s2 (fun p => { laterRails.foldl (fun p r => raiseRails [r] p) p with rails080 := true, fullClk := true })
      let s4 := f.neighbours.foldl checkNeighbour (greetNeighbours (modBoot (trainAll (setLimits s3 f) f.links) (fun b => { b with links := true })))
      let s5 := match f.rootTime with
        | some t => if s4.time.locked then s4 else setTime s4 t
        | none => s4
      let s6 := firstRoot s5
      let s7 := modBoot s6 (fun b => { b with
        stage := 0x17, state := if s.boot.state = 3 then 3 else 2, towers := b.held.map (fun h => !h) })
      let s8 := if s7.boot.routerAtFull then enterRouterOnly s7 else s7
      examineAll (startWaitingBist s8)
    else s)

/-! ### Restarts (R356, R379, R443) -/

/-- WATCHDOG_MISS (R356): the firmware stops; the restart follows. -/
def execWatchdogMiss (s : State) : Host.Outcome State Fault Refusal :=
  .next (if s.boot.keeperUp then
      modKeeper (modBoot s (fun b => { b with keeperUp := false, trial := b.trial })) (fun k => { k with restartDue := true })
    else s)

/-- Every lantern reset, as a Keeper restart resets every compute domain (R356). -/
def resetCompute (s : State) : State :=
  let s1 := { s with lanterns := s.lanterns.map (fun x => { clearLantern x with rst := { x.rst with active := x.rst.held } }) }
  let s2 := (List.range 192).foldl (fun s l => advanceDaymark s (.lantern l)) s1
  let s3 := (List.range 4).foldl (fun s t => advanceDaymark s (.tower t)) s2
  let s4 := (List.range 12).foldl (fun s c => advanceDaymark (stopCore s c) (.shore c)) s3
  advanceDaymark s4 .keeper

/-- What the record of an accepted command gives as DETAIL when the Keeper restarts: of a run, the steps committed (R386). -/
def restartDetail (s : State) (o : LongOp) : Nat :=
  match o.kind with
  | .run _ _ _ => ((mooringAt s o.mooring).map (·.runCommitted)).getD o.units
  | _ => o.units

/-- Answer every pending request and record every accepted command with the restarted status (R379); the steps of a run that
are not decided have their records before its own (R386). -/
def answerRestarted (s : State) : State :=
  let s1 := (List.range 44).foldl (fun s f => (List.range 4).foldl (fun s k =>
    match (mboxAt s ⟨f, k⟩).req with
    | some r => answer s ⟨f, k⟩ r stRestarted [] 0
    | none => s) s) s
  s1.keeper.ops.foldl (fun s o =>
    let t := if o.opcode = 0x30 then abortSteps s o else s
    finishOp t o.func o.tag stRestarted (opFlags t o.func o.tag) (restartDetail s o)) s1

/-- Empty every attestation log (R455). -/
def emptyLogs (s : State) : State :=
  { s with funcs := s.funcs.map (fun f => { f with attLog := [], attHead := 0 }) }

/-- The programs of the system channels end with the firmware that ran them. -/
def stopSystem (s : State) : State :=
  { s with sysChans := s.sysChans.map (fun c => { clearChanRegs c with queue := [], flights := [] }) }

/-- The effects of a Keeper restart once the firmware runs again (R226, R356, R379, R407): runs in progress end, each
accepted command has its record, and the moorings are released. -/
def afterRestart (s : State) : State :=
  let s1 := stopSystem (resetCompute (answerRestarted s))
  let s2 := s1.moorings.foldl (fun s m => releaseMooring s m.desc.id) s1
  let s3 := modKeeper (modBoot (emptyLogs s2) (fun b => { b with restarts := min (b.restarts + 1) 0xFFFF }))
    (fun k => { k with restartDue := false, bistGroup := 0, bistDone := [], bistBad := false, forwards := [], io := [], tests := [] })
  examineAll (raiseEventP (bumpModule s3 1 1) evRestart 0 s3.boot.fwSlot)

/-- KEEPER_RESTART (R356, R443): the ROM chooses the slot again and the firmware starts, or the ROM enters
recovery. -/
def execKeeperRestart (s : State) : Host.Outcome State Fault Refusal :=
  .next (if s.keeper.restartDue then
      match chooseSlot (modBoot s (fun b => { b with keeperUp := false, identity := false })) with
      | (s1, none) => modBoot s1 (fun x => { x with fail := 4, recovery := true, state := 0 })
      | (s1, some (slot, trial)) => afterRestart (startFirmware s1 slot trial)
    else s)

/-- TRIAL_FIRMWARE_CONFIRM (R443): 60 s at full light without a watchdog miss. -/
def execTrialFirmwareConfirm (s : State) : Host.Outcome State Fault Refusal :=
  .next (match (configRec s).pending with
    | some p =>
      if s.boot.trial && s.boot.keeperUp && decide (s.boot.state = 2) then
        modBoot (setConfig s (fun r => { r with
          active := p, pending := none, tries := 0,
          svnFloor := max r.svnFloor (((slotImage s p).map (·.svn)).getD 0) })) (fun b => { b with trial := false })
      else s
    | none => s)

/-- HEARTBEAT_TICK (R404): every 10 ms, while the firmware runs and early light has come. -/
def execHeartbeatTick (s : State) : Host.Outcome State Fault Refusal :=
  .next (if keeperExamines s then modBoot s (fun b => { b with heartbeat := (b.heartbeat + 1) % 2 ^ 32 }) else s)

end Sys2Proof.Machine
end

