-- ==== Sys2Proof/Machine/Maps.lean ====
section
/-! DEFINITION. Machine/Maps.lean: a mooring's map on this module: opening and joining, a new map, the permute that
follows it, its end and its failure (R304, R305, R317, R318, R322 to R332, R335, R357). -/

namespace Sys2Proof.Machine

/-! ### Checks (R287, R288, R315, R317 to R319, R324, R327) -/

/-- The checks of R319 that the descriptor alone decides. -/
def mdescOk (bs : List Byte) (d : MDesc) : Bool :=
  decide (bs.length = 128) && d.rsv && decide (d.sMooring = d.id) && decide (1 ≤ d.id) && decide (d.id ≤ 0xFFFE) &&
  decide (d.kind ≤ 1) && (d.split == 1 || d.split == 2 || d.split == 4) && (d.kind == 1 || d.split == 1) &&
  decide (d.sector < d.split) && decide (d.onloss ≤ 1) && decide (d.replayMax ≤ 16) &&
  decide (10 ≤ d.verdictMs) && decide (d.verdictMs ≤ 60000) &&
  d.lightships.all (fun n => decide (n = 0xFFFFFFFF) || decide (n < 2 ^ 18))

/-- The descriptor that a command carries, as the Keeper keeps it: roles assigned, RING written (R287, R288). -/
def keptDesc (s : State) (bs : List Byte) : MDesc := markRings s (assignRoles (mdescOf bs))

/-- Does this module hold a mooring with an id, or did it close one within the last second (R317)? -/
def idTaken (s : State) (id : Nat) : Bool :=
  (mooringAt s id).isSome || s.keeper.closed.any (fun c => decide (c.1 = id) && decide (nowNs s < c.2.1 + 1000000000))

/-- Is this module free for a mooring's sector: at full light, in service, of its SPLIT, no mooring on the sector
(R318, R324 step 2), no full BIST running? In early light, for a mooring of this module alone (R382). -/
def freeFor (s : State) (d : MDesc) : Bool :=
  (s.boot.state == 2 || s.boot.state == 1) && decide (s.keeper.split = d.split) && decide (s.keeper.bistGroup = 0) &&
  s.moorings.all (fun m => decide (m.desc.sector ≠ d.sector))

/-- Does debug mode bar a mooring whose owner is a VF (R110)? -/
def debugBars (s : State) (func : Nat) : Bool := s.keeper.debug && decide (1 ≤ func) && decide (func < 32)

/-- The ranges that other moorings hold on each module, as the modules of a block have answered (R161). -/
def toldBy (answers : List Answer) : List (Nat × List (Nat × Nat)) := answers.map (fun a => (a.node, a.taken))

/-- A placement of a bundle at a position, on ranges free here and on the other modules of its carrier, which passes the
checks that need it (R157, R161, R164): or the status and what the response names. -/
def placeChecked (s : State) (d : MDesc) (p : Parsed) (pos : Nat) (raised : List Nat) (own : List (Nat × Nat))
    (told : List (Nat × List (Nat × Nat))) : Except (Nat × List Nat) Placement :=
  match placeBundle s d p pos raised (own ++ carrierTaken told pos (selfNode s)) with
  | .error e => .error (stPlacement, [e.1, e.2])
  | .ok pl =>
    match placeRefusal s d p pos pl with
    | some e => .error (stBundleRefused, [e.check, e.sec, e.entry] ++ e.more)
    | none => .ok pl

/-- What this module itself answers to the steps of R324 for a block: joining says that it is not yet a member. The
other carriers of the block must have ranges free on all their members too (R161). -/
def ownAnswer (s : State) (d : MDesc) (p : Parsed) (pos : Nat) (joining : Bool) (raised : List Nat)
    (told : List (Nat × List (Nat × Nat))) : Answer :=
  let mine := takenRanges s
  if joining && idTaken s d.id then ⟨selfNode s, stField, [], mine⟩
  else if joining && !freeFor s d then ⟨selfNode s, stBusy, [], mine⟩
  else
    let others := (blockNodes s d).filter (fun n => decide (memberIdx s d n 0 = 0) && !sameCarrier n pos)
    match ((pos :: others).map (fun n => placeChecked s d p n raised (if n = pos then mine else []) told)).findSome? (fun r => match r with
      | .error e => some e
      | .ok _ => none) with
    | some e => ⟨selfNode s, e.1, e.2, mine⟩
    | none => ⟨selfNode s, stSuccess, [], mine⟩

/-- The step of R324 that a status fails, 0 for none. -/
def answerStep (st : Nat) : Nat :=
  if st = stSuccess then 0 else if st = stField then 1
  else if st = stBundleRefused ∨ st = stSignature then 3 else if st = stPlacement then 4 else 2

/-- A node's answer; one that does not answer is not free. -/
def answerFor (s : State) (own : Answer) (answers : List Answer) (n : Nat) : Answer :=
  if n = selfNode s then own else (answers.find? (fun a => a.node == n)).getD ⟨n, stBusy, [], []⟩

/-- The first failure among the modules of a block, by the order of the steps and then of the modules (R324). -/
def firstRefusal (s : State) (own : Answer) (answers : List Answer) (nodes : List Nat) : Option Answer :=
  let as_ := nodes.map (answerFor s own answers)
  [1, 2, 3, 4].findSome? (fun k => as_.find? (fun a => decide (answerStep a.status = k)))

/-- The response that a failure asks for (R324, R164, R157): status, result, DETAIL. -/
def refusalReply (a : Answer) : Nat × List Byte × Nat :=
  match answerStep a.status with
  | 2 => (stBusy, [], a.node)
  | 3 => (a.status, words a.info, a.node)
  | 4 => (stPlacement, words a.info, a.node)
  | _ => (stField, [], a.node)

/-! ### A mooring's entry on this module -/

/-- The state of a job as it moves (R329). -/
def jobOf (m : Mooring) : JobState :=
  ⟨m.step, m.committed, m.refStep, m.lscale, m.clean, m.ladders.map (fun x => ⟨x.rung, x.count, x.window, x.prevRung, x.prevWindow⟩)⟩

/-- The ladder records that a mooring of a descriptor works with: none for a serving mooring (R474). -/
def jobLadders (d : MDesc) (p : Parsed) : List LadderRec := if d.kind = 1 then [] else ladderRecs p

/-- The loss scale that it starts with: a serving mooring holds none (R45, R474). -/
def jobScale (d : MDesc) (p : Parsed) : Nat := if d.kind = 1 then 0 else startScale p

/-- A job's start. -/
def newJob (d : MDesc) (p : Parsed) : JobState :=
  ⟨0, none, none, jobScale d p, 0, (jobLadders d p).map (fun r => ⟨r.rung0, 0, [], r.rung0, []⟩)⟩

/-- A mooring takes a job's state. -/
def takeJob (j : JobState) (m : Mooring) : Mooring :=
  { m with
    step := j.step
    committed := j.committed
    readable := if j.committed = m.committed then m.readable else []
    refStep := j.refStep
    lscale := j.lscale
    clean := j.clean
    ladders := (m.ladders.zip j.ladders).map (fun q => { q.1 with
      rung := q.2.rung
      count := q.2.count
      window := q.2.window
      prevRung := q.2.prevRung
      prevWindow := q.2.prevWindow }) }

/-- A mooring opened on this module (R324): daymark and step as given, nothing running. -/
def newMooring (s : State) (d : MDesc) (b : Bundle) (owner : Nat × Nat) (daymark : Nat) (subs : List (Nat × Nat))
    (place : Placement) (pos : Nat) : Mooring :=
  { holdOpen := false, ahead := Ahead.blank, desc := d, ownerNode := owner.1, ownerFunc := owner.2, daymark := daymark, epoch := 1, subs := subs, acting := none,
    beaconUs := 200000, told := [], bundle := b.handle, place := place, step := 0, stepOn := false, provisional := none, committed := none, readable := [], lastBegun := none,
    run := .idle, stopWith := 0, decided := 0, runCommitted := 0, replays := 0, faulted := false, position := 0,
    runCount := 0, refStep := none, loaded := false, lscale := jobScale d b.p, clean := 0, raise := raiseInterval b.p,
    stepL := jobScale d b.p, ladders := (jobLadders d b.p).map newLadder, contrib := none, sentFlags := 0, sentBad := false,
    gathered := Verdict.blank (jobLadders d b.p).length, flags := 0, bad := false, children := [], forwarded := false, timer := false,
    headers := newHeaders s d b.p pos, versions := [], undo := [], undoHdr := [], moments := [], tiles := [], begun := [], factored := [], diag := [], diagSaved := none, rungs := [],
    tender := newTender s d b.p pos place, announced := true, installedBy := [], lines := [], raised := [], overLimit := [],
    moving := none, paused := false, tenderFull := false, leaving := [], oldMap := none, oldTender := [], oldLost := [], saving := none,
    savedBy := [], before := none, rerun := none, lostNodes := [], recovering := [], ships := [], electing := none, probing := [],
    departed := [], due := [], handling := [], handlingFor := none, ends := [], asking := [], reported := false, poisonSeen := [] }

/-- Clear a mooring's ranges and the stores of its sector (R325). -/
def clearRanges (s : State) (rs : List (Nat × Nat)) : State := rs.foldl (fun s r => clearMem s r.1 (r.1 + r.2)) s

def clearSector (s : State) (d : MDesc) : State :=
  ((sectorTowers d.split d.sector).flatMap towerLanterns).foldl clearStore s

/-- The sector's lanterns work for a mooring within its windows (R161). -/
def takeLanterns (s : State) (d : MDesc) (regions : List (Nat × Nat)) : State :=
  (sectorLanterns s d.split d.sector).foldl (fun s l => modLantern s l (fun x => { x with
    mooring := some d.id
    windows := windowsOf s d regions
    fault := false })) (openWindows s d.id)

/-- A mooring in the first free slot of a function's eight, unless one shows it already (R405); beyond the eighth it has
none. -/
def takeSlot (x : Func) (id : Nat) : Func :=
  if x.slots.contains (some id) then x
  else match findIdx Option.isNone x.slots with
    | some i => { x with slots := setAt x.slots i (some id) }
    | none => x

/-- Open a mooring here at a place: its ranges and stores cleared, its lanterns given their windows. -/
def openHere (s : State) (m : Mooring) : State :=
  let s1 := takeLanterns (clearSector (clearRanges s m.place.regions) m.desc) m.desc m.place.regions
  let s2 := { s1 with moorings := s1.moorings ++ [m] }
  if m.ownerNode = selfNode s then modFunc s2 m.ownerFunc (fun x => takeSlot x m.desc.id) else tellSlot s2 m.desc.id

/-- The bundle of an image that another module has copied here (R324): one that is loaded already, else a copy whose
owner stands as 64 * (node + 1) + function. -/
def copyBundle (s : State) (image : List Byte) (seed : Nat) (owner : Nat × Nat) : State × Option Bundle :=
  match s.keeper.bundles.find? (fun b => b.image == image && b.seed == seed) with
  | some b => (s, some b)
  | none =>
    match loadBundle image with
    | .error _ => (s, none)
    | .ok p =>
      let b : Bundle := ⟨s.keeper.nextHandle, 64 * (owner.1 + 1) + owner.2, seed, image.length, Config.sm3 image, image, p⟩
      (modKeeper s (fun k => { k with
        bundles := k.bundles ++ [b]
        nextHandle := (k.nextHandle + 1) % 2 ^ 32 }), some b)

/-! ### A new map (R322, R328 steps 3 to 5, R335) -/

/-- The map in force on this module, to go back to when the next one fails (R305). -/
def wasMap (m : Mooring) : WasMap :=
  ⟨m.desc, m.subs, m.place, m.headers, m.lines, m.departed, m.acting⟩

/-- Does a new map's permute draw on the old map: no commit of its epoch has come, and members lost are to be recovered, by an
adoption or a move that leaves them out (R331)? -/
def drawsOnOld (m : Mooring) (why : Nat) (lost : List (Nat × Nat)) : Bool := m.oldMap.isSome && (decide (why = 0) || !lost.isEmpty)

/-- The map of this module that is the source of a permute: the one in force, or the old one (R329, R331). -/
def sourceMap (m : Mooring) (why : Nat) (lost : List (Nat × Nat)) : MoveFrom :=
  match m.oldMap with
  | some f => if drawsOnOld m why lost then f else .map m.desc m.subs m.place m.headers
  | none => .map m.desc m.subs m.place m.headers

/-- The rings of this module that pass through a lightship run as lines from it on (R314). -/
def shipLines (s : State) (m : Mooring) : List (Nat × Nat × Nat) :=
  let me := herePos s m
  m.subs.flatMap (fun q => (List.range 4).filterMap (fun a =>
    let i := memberIdx s m.desc q.1 a
    if (axisAt m.desc a).ring ∧ [0, 1, 2, 3].all (fun b => b == a || (coordsOf me).getD b 0 == (coordsOf q.1).getD b 0) then
      some (a, if i = 0 then (axisAt m.desc a).extent else i, m.step)
    else none))

/-- The lines of a mooring's rings under a new map (R313): a link that is sidestepped stays so, whatever block its ring now
belongs to. Breaks are kept by member, so each takes the new index of its coordinate. -/
def keptLines (s : State) (m : Mooring) (d : MDesc) : List (Nat × Nat × Nat) :=
  m.lines.filterMap (fun q =>
    let old := axisAt m.desc q.1
    let new := axisAt d q.1
    let n := new.extent
    if !old.ring ∨ !new.ring then none
    else if q.2.1 = 0 then some q
    else
      let size := max (s.boot.sizes.getD q.1 1) 1
      let i := (old.origin + q.2.1 + size - new.origin % size) % size
      some (q.1, if i = 0 then n else i, q.2.2))

/-- Is this module a lightship whose adoption is not over (R364)? -/
def stillJoining (m : Mooring) : Bool :=
  match m.moving with
  | some v => decide (v.why = 0) && !v.want.isEmpty
  | none => false

/-- What waited for the daymark to advance, when a new map brings its own: a run that was to stop has stopped (R223, R322). -/
def settleDue (s : State) (id : Nat) : State :=
  match mooringAt s id with
  | none => s
  | some m =>
    modMooring (m.due.foldl (fun s d => match d with
      | .stop st => cutRunShort s id st
      | _ => s) s) id (fun y => { y with due := [] })

/-- The roles that leave their axes under a new table (R327). -/
def rolesLeaving (old new : MDesc) : List Nat :=
  (old.axes.zip new.axes).filterMap (fun q => if q.1.role ≠ 0 ∧ q.2.role ≠ q.1.role then some q.1.role else none)

/-- A member takes a new map: work stopped, the daymark and the job's state as sent, its place formed anew, and cleared,
when the block changes; then it is owed what the map gives it. -/
def memberMap (s : State) (m : Mooring) (x : MapMsg) (d : MDesc) (p : Parsed) (asker : Nat) : State :=
  let id := m.desc.id
  let s1 := endFillOf (windDown s id) id
  let s2 := noteAdvance (settleDue (match m.provisional with
    | some t => if x.job.committed = some t then s1 else undoUpdate s1 id t
    | none => if m.stepOn then undoUpdate s1 id m.step else s1) id) (.mooring id)
  let me := positionOf x.subs (selfNode s)
  let here := inBlock s d me && decide (standsIn x.subs me = selfNode s)
  let m2 := (mooringAt s2 id).getD m
  let raised := distinct (m2.raised ++ x.raised)
  let place := if x.why = 0 ∨ !here then Except.ok m2.place else placeChecked s2 d p me raised (takenRanges s2) x.told
  match place with
  | .error _ => tellNode s2 asker (.permuteFailed id (selfNode s))
  | .ok pl =>
    let fresh := decide (x.why ≠ 0) && here
    let s3 := if fresh then clearRanges s2 pl.regions else s2
    let m3 := takeJob x.job { m2 with
      desc := d
      subs := x.subs
      acting := if x.why = 0 ∧ x.subs.all (fun q => q.1 != originNode d) then m2.acting else none
      recovering := []
      ships := []
      electing := none
      asking := []
      handling := []
      handlingFor := none
      ends := []
      raised := raised
      departed := distinct (m2.departed ++ x.departed ++ rolesLeaving m2.desc d)
      daymark := x.daymark
      epoch := m2.epoch + 1
      told := if x.why = 0 then m2.told else x.told
      place := pl
      headers := if fresh then newHeaders s3 d p me else m2.headers
      undo := []
      undoHdr := []
      diagSaved := none
      stepOn := false
      provisional := none
      contrib := none
      children := []
      ahead := Ahead.blank
      forwarded := false
      timer := false
      announced := true
      installedBy := []
      reported := false
      paused := true
      moving := some ⟨x.why, sourceMap m2 x.why x.lost, x.lost, false,
        if here && (x.why != 0 || stillJoining m2) then wantKeys s3 d p me else [], [], 0, asker, [], 0, false,
        (match m2.moving with
          | some v => v.was
          | none => some (wasMap m2)), []⟩ }
    let s4 := modMooring s3 id (fun _ => { m3 with lines := keptLines s3 m2 d ++ shipLines s3 m3 })
    if here then takeLanterns s4 d pl.regions else s4

/-- A module cannot take a map that it was to join by: who sent it hears why (R305, R324). -/
def joinFailed (s : State) (x : MapMsg) (asker status : Nat) : State :=
  tellNode s asker (if x.why = 0x20 then .opened x.mooring (selfNode s) status else .permuteFailed x.mooring (selfNode s))

/-- A map of which this module holds nothing. -/
def elsewhere (s : State) (desc : List Byte) (subs : List (Nat × Nat)) : MoveFrom :=
  .map (keptDesc s desc) subs ⟨[], [], [], [], []⟩ []

/-- What a module that joins holds of the mooring: its job as sent, nothing of its state yet. -/
def joinMooring (s : State) (x : MapMsg) (d : MDesc) (b : Bundle) (asker : Nat) (pl : Placement) : Mooring :=
  let me := positionOf x.subs (selfNode s)
  let m0 := takeJob x.job (newMooring s d b (x.ownerNode, x.ownerFunc) x.daymark x.subs pl me)
  let m := { m0 with told := x.told, raised := x.raised, departed := x.departed }
  let moving : Option Moving := if x.why = 0x20 then none
    else some ⟨x.why, elsewhere s x.fromDesc x.fromSubs, x.lost, true, wantKeys s d b.p me, [], 0, asker, [], 0, false, none, []⟩
  { m with
    moving := moving
    paused := moving.isSome
    tenderFull := moving.isSome
    oldMap := if x.oldDesc.isEmpty then none else some (elsewhere s x.oldDesc x.oldSubs)
    oldLost := x.oldLost
    lines := shipLines s m }

/-- A module joins a mooring by a new map, if it is free for it and the bundle fits (R317, R324, R327): a mooring opened (why
0x20), a member of a new block, an adopted lightship, whose regions take the addresses that the carrier it stands in for has
(R161, R365). -/
def joinMap (s : State) (x : MapMsg) (d : MDesc) (b : Bundle) (asker : Nat) : State :=
  let me := positionOf x.subs (selfNode s)
  let mine := takenRanges s
  if x.why = 0x20 ∧ idTaken s d.id then joinFailed s x asker stField
  else if !freeFor s d ∨ debugBars s x.ownerFunc then joinFailed s x asker stBusy
  else match placeChecked s d b.p me x.raised (if x.why = 0 then [] else mine) x.told with
    | .error e => joinFailed s x asker e.1
    | .ok pl =>
      if !pl.regions.all (fun r => rangeFree mine r.1 r.2) then joinFailed s x asker stPlacement
      else
        let s1 := openHere s (joinMooring s x d b asker pl)
        if x.why = 0x20 then tellNode s1 asker (.opened x.mooring (selfNode s) stSuccess) else s1

/-- A new map reaches this module. -/
def takeMap (s : State) (x : MapMsg) (asker : Nat) : State :=
  let d0 := keptDesc s x.desc
  match mooringAt s x.mooring with
  | some m =>
    match bundleAt s m.bundle with
    | some b => memberMap s m x d0 b.p asker
    | none => s
  | none =>
    let r := copyBundle s x.image x.seed (x.ownerNode, x.ownerFunc)
    match r.2 with
    | some b => joinMap r.1 x d0 b asker
    | none => joinFailed s x asker stBundleRefused

/-! ### The permute of a map (R304, R305, R328 step 6) -/

/-- Who awaits the end of this module's permute learns of it: bytes moved, or the failure. -/
def reportMove (s : State) (id : Nat) (v : Moving) : State :=
  if v.asker = selfNode s then
    modMooring s id (fun m => { m with moving := m.moving.map (fun w => if w.doneBy.contains (selfNode s) then w else { w with
      doneBy := w.doneBy ++ [selfNode s]
      total := w.total + v.bytes }) })
  else tellNode s v.asker (.permuted id (selfNode s) v.bytes)

/-- The members that a map names. -/
def nodesOn (s : State) (d : MDesc) (subs : List (Nat × Nat)) : List Nat := (blockNodes s d).map (standsIn subs)

/-- The members that a permute's source names. -/
def sourceNodes (s : State) : Option MoveFrom → List Nat
  | some (.map d subs _ _) => nodesOn s d subs
  | _ => []

/-- Nodes that leave at the first commit of the new epoch (R328): those that leave already, and those of the maps that the
new one follows, without its members and without those lost. -/
def leavers (s : State) (m : Mooring) (v : Moving) : List Nat :=
  let was := (v.was.map (fun w => nodesOn s w.desc w.subs)).getD []
  (distinct (m.leaving ++ sourceNodes s (some v.source) ++ was ++ sourceNodes s m.oldMap)).filter (fun n =>
    !(membersOf s m).contains n && v.lost.all (fun q => q.1 != n) && m.oldLost.all (fun q => q.1 != n))

/-- Every module that takes part in a move: the members of the new map, and those that leave. -/
def movers (s : State) (m : Mooring) (v : Moving) : List Nat := membersOf s m ++ leavers s m v

/-! ### Going on (R328 steps 7 and 8, R331, R335) -/

/-- Does this module's whole state go to its keepers after a move: after a new map; after an adoption, if a keeper of
its copy was lost? -/
def refreshAll (s : State) (m : Mooring) (v : Moving) : Bool :=
  decide (v.why ≠ 0) || m.oldMap.isSome || (match v.source with
    | .map _ subs _ _ => v.lost.any (fun q => (keepersOf s m.desc (herePos s m)).contains (positionOf subs q.1))
    | .snapshot _ => false)

/-- The step at which the tender copies are to stand. -/
def copyStep (m : Mooring) : Nat := m.committed.getD 0

/-- Do the copies kept by this module and by every member under it in the combining tree stand at the last commit (R310,
R359)? -/
def subtreeInstalled (s : State) (m : Mooring) : Bool :=
  m.tender.all (fun c => decide (c.point = some (copyStep m))) && (childNodes s m).all (fun n => m.installedBy.contains n)

/-- The report goes up the combining tree once, when all of the subtree stands at the step (R310, R359). -/
def reportCopies (s : State) (id : Nat) : State :=
  match mooringAt s id with
  | none => s
  | some m =>
    if m.announced ∨ m.reported ∨ m.moving.isSome ∨ !subtreeInstalled s m then s
    else
      let s1 := modMooring s id (fun y => { y with reported := true })
      match parentNode s m with
      | some n => tellNode s1 n (.tenderInstalled id (copyStep m) (selfNode s))
      | none => s1

/-- Tender copies are refreshed, and updates held until they are announced (R219, R358, R359). -/
def startRefresh (s : State) (id : Nat) (p : Parsed) (t : Nat) : State :=
  match mooringAt s id with
  | none => s
  | some m =>
    if m.desc.kind = 1 ∨ (tenderAxis m.desc).isNone then modMooring s id (fun y => { releaseUndo y with announced := true })
    else
      reportCopies (modMooring (sendRefresh s m p t) id (fun y => { y with announced := false })) id

/-- The move is over on this module: the map holds, the old one is kept until the first commit (R331), the next steps
may start. -/
def goOnHere (s : State) (id : Nat) (leaving : List Nat) : State :=
  match mooringAt s id with
  | none => s
  | some m =>
    let s0 := modMooring s id (fun y => { y with
      paused := false
      run := if y.run == .stopping then .running else y.run
      leaving := leaving })
    match m.moving, bundleAt s m.bundle with
    | some v, some b =>
      let here := (membersOf s m).contains (selfNode s)
      let isMap := match v.source with
        | .map _ _ _ _ => true
        | .snapshot _ => false
      let renew := decide (m.desc.kind = 0 ∧ v.why ≠ 0) && isMap
      let keep := renew || (isMap && m.oldMap.isSome)
      let s1 := modMooring s0 id (fun y => { y with
        moving := none
        run := if here then y.run else .idle
        lostNodes := if v.why = 0 then y.lostNodes else []
        oldMap := if keep then some (y.oldMap.getD v.source) else none
        oldTender := if !keep then [] else if y.oldMap.isSome then y.oldTender else y.tender
        oldLost := if keep then y.oldLost ++ v.lost.filter (fun q => y.oldLost.all (fun x => x.1 != q.1)) else []
        tender := if renew && here then newTender s y.desc b.p (herePos s m) y.place else y.tender
        tenderFull := y.tenderFull || refreshAll s m v })
      if !here ∨ m.desc.kind ≠ 0 then s1
      else match mooringAt s1 id with
        | some m1 =>
          if m1.tenderFull then startRefresh s1 id b.p (copyStep m1)
          else if (tenderAxis m1.desc).isSome then reportCopies (modMooring s1 id (fun y => { y with announced := false })) id
          else s1
        | none => s1
    | _, _ => s0

/-- A map that was in force is so again. -/
def WasMap.restore (w : WasMap) (m : Mooring) : Mooring :=
  { m with
    desc := w.desc
    subs := w.subs
    place := w.place
    headers := w.headers
    lines := w.lines
    departed := w.departed
    acting := w.acting }

/-- The old map stays in force under the new daymark (R305, R332). A module that was joining leaves. -/
def oldMapHere (s : State) (id : Nat) : State :=
  match mooringAt s id with
  | none => s
  | some m =>
    match m.moving with
    | none => modMooring s id (fun y => { y with paused := false, run := if y.run == .stopping then .running else y.run })
    | some v =>
      match v.source with
      | .snapshot _ => modMooring s id (fun y => { y with moving := none, paused := false })
      | .map _ _ _ _ =>
        match v.was with
        | none => releaseMooring s id
        | some w =>
          let s1 := modMooring s id (fun y => { w.restore y with
            moving := none
            paused := false
            run := if y.run == .stopping then .running else y.run })
          if (membersOf s1 (w.restore m)).contains (selfNode s) then takeLanterns s1 w.desc w.place.regions else s1

/-! ### Carrying a map to the members -/

/-- The bytes of a descriptor in force (R287, R319). -/
def mdescBytes (d : MDesc) : List Byte :=
  natLE 2 d.id ++ natLE 1 d.kind ++ natLE 1 d.split ++ natLE 1 d.sector ++ natLE 1 d.onloss ++ natLE 1 d.replayMax ++ [0] ++
  natLE 4 d.verdictMs ++ natLE 4 d.bundle ++ natLE 2 d.sMooring ++ [0, 0] ++
  d.axes.flatMap (fun x => natLE 4 (x.role + 8 * x.extent + 512 * x.origin + 16384 * b2n x.ring)) ++ List.replicate 12 0 ++
  d.lightships.flatMap (natLE 4) ++ List.replicate 16 0

/-- A map as a message carries it; nothing where there is none. -/
def mapSent : Option MoveFrom → List Byte × List (Nat × Nat)
  | some (.map d subs _ _) => (mdescBytes d, subs)
  | _ => ([], [])

/-- The message that carries a map. -/
def mapMsg (m : Mooring) (b : Bundle) (why : Nat) (descBytes : List Byte) (subs lost : List (Nat × Nat)) (daymark : Nat)
    (told : List (Nat × List (Nat × Nat))) : MapMsg :=
  { mooring := m.desc.id, why := why, daymark := daymark, desc := descBytes, subs := subs, lost := lost, job := jobOf m,
    image := b.image, seed := b.seed, ownerNode := m.ownerNode, ownerFunc := m.ownerFunc, told := told,
    raised := m.raised, departed := m.departed,
    fromDesc := (mapSent (some (sourceMap m why lost))).1, fromSubs := (mapSent (some (sourceMap m why lost))).2,
    oldDesc := (mapSent m.oldMap).1, oldSubs := (mapSent m.oldMap).2, oldLost := m.oldLost }

/-- The anchor puts a map in force: it advances the daymark, which may advance now, installs the map here and sends it to every
other module that takes part (R322, R328 step 4). -/
def spreadMap (s : State) (id why : Nat) (descBytes : List Byte) (subs lost : List (Nat × Nat))
    (told : List (Nat × List (Nat × Nat))) : State :=
  let s0 := advanceNow (windDown s id) (.mooring id)
  match mooringAt s0 id with
  | none => s
  | some m =>
    match bundleAt s0 m.bundle with
    | none => s
    | some b =>
      let x := mapMsg m b why descBytes subs lost m.daymark told
      let was := (membersOf s m ++ sourceNodes s m.oldMap).filter (fun n => lost.all (fun q => q.1 != n) && m.oldLost.all (fun q => q.1 != n))
      let nodes := distinct (nodesOn s (keptDesc s descBytes) subs ++ was ++ m.leaving)
      takeMap (nodes.foldl (fun s n => tellNode s n (.newMap x)) s0) x (selfNode s)

end Sys2Proof.Machine
end

