-- ==== Sys2Proof/Machine/Snapshots.lean ====
section
/-! DEFINITION. Machine/Snapshots.lean: the parts of a snapshot on this module, restores, and the reading and writing of
tensors by command, as programs of a system channel (R143, R171, R217, R218, R242, R243, R329, R380, R391, R457, R458). -/

namespace Sys2Proof.Machine

/-- The owner of a mooring as this module's flash keeps it: a function here, or 64 * (node + 1) + function. -/
def ownerKey (s : State) (m : Mooring) : Nat :=
  if m.ownerNode = selfNode s then m.ownerFunc else 64 * (m.ownerNode + 1) + m.ownerFunc

/-! ### Saving a part (R217, R227, R457) -/

/-- The state as last committed, when the Keeper that asks has committed a step of job: a provisional update, of
a step whose verdict is awaited or of the step in hand, is left out (R217). -/
def committedView (s : State) (m : Mooring) (job : JobState) : State :=
  match m.provisional with
  | some t => if job.committed = some t then s else undoUpdate s m.desc.id t
  | none => if m.stepOn && decide (job.committed = m.committed) then undoUpdate s m.desc.id m.step else s

/-- The shards that this module saves (R329, R457). -/
def savedShards (s : State) (m : Mooring) (p : Parsed) : List (Nat × ShardAt) :=
  (movedTensors m.desc p).filterMap (fun q =>
    if stageHere s m.desc p (herePos s m) q.2 then (shardOn s m.desc p m.place (herePos s m) q.1).map (fun x => (q.1, x)) else none)

def partPieces (s : State) (m : Mooring) (p : Parsed) : List Piece := (savedShards s m p).flatMap (fun q => shardPieces s p q.1 q.2)

/-- Bytes of a part on flash: chunks of 64 KiB, and a manifest chunk, each with its tag of 16 bytes (R457). -/
def partSize (qs : List Piece) (hs : List ShardHdr) : Nat :=
  (ceilDiv (sumNat (qs.map (fun q => q.bytes.length)) + 32 * hs.length) 65536 + 1) * (65536 + 16)

/-- The poisoned lines of the shards that a part reads. -/
def partPoison (s : State) (m : Mooring) (p : Parsed) : List Nat :=
  (savedShards s m p).flatMap (fun q => poisonedLines s q.2.pl.mbase q.2.pl.mbytes ++ poisonedLines s q.2.pl.sbase q.2.pl.sbytes)

/-- Save this module's part of a snapshot under a name: the state after, and a status (R143, R145, R147, R457). -/
def savePartHere (s : State) (id : Nat) (name : BitVec 256) (job : JobState) : State × Nat :=
  match mooringAt s id with
  | none => (s, stNoMooring)
  | some m =>
    match bundleAt s m.bundle with
    | none => (s, stFault)
    | some b =>
      match partPoison s m b.p with
      | l :: ls => ((l :: ls).foldl (fun s l => notePoisonLine s (some id) 0 l) s, stFault)
      | [] =>
        let v := committedView s m job
        let mv := (mooringAt v id).getD m
        let qs := partPieces v mv b.p
        let n := partSize qs mv.headers
        match userWriteErr s name (ownerKey s m) n with
        | some e => (s, e.1)
        | none => (putObject (sysCopy s n) name (ownerKey s m) n (.snapshot id job mv.headers m.desc.axes qs), stSuccess)

/-- What refuses a snapshot before it is accepted: this module's own part (R145, R147). -/
def snapshotErr (s : State) (m : Mooring) (p : Parsed) (name : BitVec 256) : Option (Nat × Nat) :=
  userWriteErr s name (ownerKey s m) (partSize (partPieces s m p) m.headers)

/-! ### Restoring (R458) -/

/-- The part of a snapshot on this module, if it is there and readable: job, headers, pieces. -/
def partHere (s : State) (name : BitVec 256) : Option (JobState × List ShardHdr × List Piece) :=
  match flashObj s name with
  | none => none
  | some o =>
    match o.body with
    | .snapshot _ job hs _ qs => if o.lost then none else some (job, hs, qs)
    | .bundle _ => none

/-- Ladders as a manifest tells them: rung, count, number of entries of the window, the entries as int16, then the
same without the last verdict. -/
def laddersOfInfo : Nat → List Nat → List JobLadder
  | 0, _ => []
  | n + 1, l =>
    let w := l.getD 2 0
    let r := l.drop (3 + w)
    let v := r.getD 1 0
    ⟨l.getD 0 0, l.getD 1 0, ((l.drop 3).take w).map (sext 16), r.getD 0 0, ((r.drop 2).take v).map (sext 16)⟩ ::
      laddersOfInfo n (r.drop (2 + v))

/-- The job that a holder's manifest tells (R457): step, committed + 1 or 0, reference step + 1 or 0, L, clean count,
number of ladders, the ladders. -/
def jobOfInfo (l : List Nat) : JobState :=
  let opt (n : Nat) : Option Nat := if n = 0 then none else some (n - 1)
  ⟨l.getD 0 0, opt (l.getD 1 0), opt (l.getD 2 0), l.getD 3 0, l.getD 4 0, laddersOfInfo (l.getD 5 0) (l.drop 6)⟩

/-- This module's state of a mooring is to come from a snapshot: the job is set, pieces are awaited. -/
def restoreHere (s : State) (id : Nat) (name : BitVec 256) (job : JobState) (asker : Nat) : State :=
  match mooringAt s id with
  | none => s
  | some m =>
    match bundleAt s m.bundle with
    | none => s
    | some b =>
      modMooring s id (fun _ => takeJob job { m with
        loaded := true
        undo := []
        undoHdr := []
        diagSaved := none
        paused := true
        tenderFull := true
        installedBy := []
        reported := false
        moving := some ⟨0x43, .snapshot name, [], decide (asker ≠ selfNode s), wantKeys s m.desc b.p (herePos s m), [], 0,
          asker, [], 0, false, none, []⟩ })

/-- A holder gives the pieces of its part to the mooring that a message names (R458). -/
def givePart (s : State) (x : MapMsg) (name : BitVec 256) : State :=
  match partHere s name, loadBundle x.image with
  | some q, .ok p => permuteFromPart s (keptDesc s x.desc) x.daymark x.subs p q.2.1 q.2.2
  | _, _ => s

/-! ### Tensors by command (R217, R218, R380) -/

/-- The spans of bytes offset to offset + len - 1 of arrays set end to end; none where they end before. -/
def tensorSpans : List (Nat × Nat) → Nat → Nat → Option (List (Nat × Nat))
  | [], _, len => if len = 0 then some [] else none
  | (a, n) :: rest, off, len =>
    if n ≤ off then tensorSpans rest (off - n) len
    else
      let k := min len (n - off)
      (tensorSpans rest 0 (len - k)).map (fun r => if k = 0 then r else (a + off, k) :: r)

/-- The spans that a command names on this module. -/
def commandSpans (s : State) (m : Mooring) (tensor off len step : Nat) : Option (List (Nat × Nat)) :=
  match (bundleAt s m.bundle).bind (fun b => tensorIdx b.p.tensors tensor) with
  | none => none
  | some k => (m.place.tensors[k]?).bind (fun pl => tensorSpans (tensorArrays pl step) off len)

/-- The KIND of a tensor. -/
def kindOf (s : State) (m : Mooring) (tensor : Nat) : Option Nat :=
  ((bundleAt s m.bundle).bind (fun b => tensorById b.p.tensors tensor)).map (·.kind)

/-- State of a tensor is to be written from outside the run (R243, R331). -/
def tensorMark (s : State) (m : Mooring) (tensor : Nat) : State :=
  if kindOf s m tensor = some 3 ∨ kindOf s m tensor = some 4 then
    modMooring s m.desc.id (fun y => { y with loaded := y.loaded || y.refStep.isSome, tenderFull := true })
  else s

/-- Write bytes to a tensor's shard here. State written from outside the run is loaded state, unless no step has been
committed since the open (R243), and the next refresh sends all of it. -/
def tensorPut (s : State) (m : Mooring) (tensor : Nat) (spans : List (Nat × Nat)) (bs : List Byte) : State :=
  tensorMark (writeSpans s spans bs) m tensor

/-- Read a shard of a mooring's tensor here: the state after, a status, the bytes; a poisoned line is an access fault (R143). -/
def tensorGet (s : State) (id : Nat) (spans : List (Nat × Nat)) : State × Nat × List Byte :=
  match spans.flatMap (fun q => poisonedLines s q.1 q.2) with
  | [] => (s, stSuccess, spans.flatMap (fun q => readMem s q.1 q.2))
  | ls => (ls.foldl (fun s l => notePoisonLine s (some id) 0 l) s, stFault, [])

/-- Is the copy of step t of an output or a statistic readable (R218)? -/
def copyReadable (m : Mooring) (t : Nat) : Bool := m.readable.contains t

/-- What refuses a read of a tensor (R218, R391): a status. -/
def tensorReadErr (s : State) (m : Mooring) (tensor step : Nat) : Option Nat :=
  match kindOf s m tensor with
  | none => some stField
  | some k =>
    if k = 9 ∨ k = 10 then (if m.desc.kind = 0 ∧ !copyReadable m step then some stNotCommitted else none)
    else if runActive m then some stBusy else none

/-- A command of another module on a tensor here (R380). -/
def remoteWrite (s : State) (id tensor off asker func tag : Nat) (bs : List Byte) : State :=
  match mooringAt s id with
  | none => tellNode s asker (.tensorAnswer func tag stFault [])
  | some m =>
    match commandSpans s m tensor off bs.length (m.committed.getD 0) with
    | none => tellNode s asker (.tensorAnswer func tag stField [])
    | some sp => tellNode (tensorPut s m tensor sp bs) asker (.tensorAnswer func tag stSuccess [])

def remoteRead (s : State) (id tensor off len step asker func tag : Nat) : State :=
  match mooringAt s id with
  | none => tellNode s asker (.tensorAnswer func tag stFault [])
  | some m =>
    match tensorReadErr s m tensor step, commandSpans s m tensor off len step with
    | some st, _ => tellNode s asker (.tensorAnswer func tag st [])
    | none, none => tellNode s asker (.tensorAnswer func tag stField [])
    | none, some sp =>
      let r := tensorGet s id sp
      tellNode r.1 asker (.tensorAnswer func tag r.2.1 r.2.2)

/-- A member's answer to a command of this module on a tensor there: its bytes go to the command's destination. -/
def tensorAnswered (s : State) (func tag status : Nat) (bs : List Byte) : State :=
  match opAt s func tag with
  | none => s
  | some o =>
    match o.kind with
    | .tensorRead dst _ =>
      if status ≠ stSuccess then finishOp s func tag status 0 0
      else match keeperWrite s func dst bs with
        | .ok s1 => finishOp s1 func tag stSuccess 0 0
        | .error c => finishOp s func tag stFault 0 c
    | _ => finishOp s func tag status 0 0

/-- Is a command pending that changes the mooring or saves it? -/
def opPending (s : State) (id : Nat) : Bool :=
  ((mooringAt s id).map (fun m => m.moving.isSome || m.saving.isSome)).getD false ||
  s.keeper.ops.any (fun o => o.mooring == id && (match o.kind with
    | .membership _ _ _ _ => true
    | .lendOpens _ _ _ _ => true
    | .close => true
    | .snapshot _ => true
    | .restore => true
    | _ => false))

/-- The MOVEs of a copy of n bytes (R171, R177). -/
def copyMoves (src dst n : Nat) : List DmaDesc :=
  (List.range (ceilDiv n (2 ^ 23))).map (fun i =>
    let k := min (2 ^ 23) (n - i * 2 ^ 23)
    .move { ring := false, shift := 0, lane := 0, step2 := false, compress := 0, cfmt := .b8, sreg := 0, dreg := 0, tensor := 0,
            src := src + i * 2 ^ 23, dst := dst + i * 2 ^ 23, slen := k, scnt := 1, dstart := 0, dlen := k, dcnt := 1,
            sstride := 0, dstride := k, idxBase := 0, scaleS := 0, scaleD := 0, rsv := true })

/-- A command that copies runs as a privileged program of a system channel (R171, R191): accepted, and complete when the
program retires. While every system channel is busy the request stays pending (DESIGN CHOICE, notes/assumptions/15.md). -/
def startCopy (s : State) (m : Mbox) (r : Request) (addr : Nat) (moves : List DmaDesc) (before : State → State) : State :=
  if moves.isEmpty then longAtOnce s m r stSuccess 0 0 before
  else match sysFree s with
    | none => s
    | some n =>
      modChan (before (acceptLong s m r (.copy n ((chanAt s (.system n)).counters.getD 0 0) addr))) (.system n) (fun x =>
        { clearChanRegs x with queue := [⟨moves, 0, 0, true⟩], cmdBad := 0, cmdAddr := false })

/-- The MOVEs between a contiguous range and the spans of a shard, to it or from it. -/
def spanMoves (write : Bool) : Nat → List (Nat × Nat) → List DmaDesc
  | _, [] => []
  | a, q :: qs => (if write then copyMoves a q.1 q.2 else copyMoves q.1 a q.2) ++ spanMoves write (a + q.2) qs

/-- TENSOR_WRITE (R171, R380, R391): on this module, or on the member it names. -/
def execTensorWrite (m : Mbox) (tensor node off len src : Nat) (s : State) : Host.Outcome State Fault Refusal :=
  .next (runCommand s m 0x0040 (fun r s =>
    match mooringAt s r.mooring with
    | none => answer s m r stNoMooring [] 0
    | some x =>
      if runActive x ∨ opPending s r.mooring then answer s m r stBusy [] 0
      else if (kindOf s x tensor).isNone ∨ !(membersOf s x).contains node then answer s m r stField [] 0
      else if node = selfNode s then
        (match commandSpans s x tensor off len (x.committed.getD 0) with
        | none => answer s m r stField [] 0
        | some sp =>
          if (checkAddr s .priv src len false).isNone then answer s m r stField [] 0
          else startCopy s m r src (spanMoves true src sp) (fun s => tensorMark s x tensor))
      else readThen s src len (fun d s => match d with
        | .error c => if c = causeAddress then answer s m r stField [] 0 else longAtOnce s m r stFault 0 c (fun s => s)
        | .ok bs => tellNode (acceptLong s m r .forwarded) node (.tensorWrite r.mooring tensor off (selfNode s) m.func r.tag bs))))

/-- TENSOR_READ (R171, R217, R218, R380, R391). -/
def execTensorRead (m : Mbox) (tensor node off len dst step : Nat) (s : State) : Host.Outcome State Fault Refusal :=
  .next (runCommand s m 0x0041 (fun r s =>
    match mooringAt s r.mooring with
    | none => answer s m r stNoMooring [] 0
    | some x =>
      if !(membersOf s x).contains node then answer s m r stField [] 0
      else match tensorReadErr s x tensor step with
        | some st => answer s m r st [] 0
        | none =>
          if node = selfNode s then
            (match commandSpans s x tensor off len step with
            | none => answer s m r stField [] 0
            | some sp =>
              if (checkAddr s .priv dst len true).isNone then answer s m r stField [] 0
              else startCopy s m r dst (spanMoves false dst sp) (fun s => s))
          else tellNode (acceptLong s m r (.tensorRead dst len)) node (.tensorRead r.mooring tensor off len step (selfNode s) m.func r.tag)))

/-- SNAPSHOT_DELETE (R380): the parts on the mooring's members. -/
def execSnapshotDelete (m : Mbox) (name : BitVec 256) (s : State) : Host.Outcome State Fault Refusal :=
  .next (runCommand s m 0x0044 (fun r s =>
    match mooringAt s r.mooring, flashObj s name with
    | some x, some o =>
      if o.owner ≠ ownerKey s x then answer s m r stField [] 0
      else if s.flash.readOnly then answer s m r stFlashReadonly [] 0
      else if x.saving = some name then answer s m r stBusy [] 0
      else
        let s1 := modFlash s (fun y => { y with objs := y.objs.filter (fun o => o.name != name) })
        answer (tellNodes s1 (.deletePart r.mooring name) (membersOf s x)) m r stSuccess [] 0
    | _, _ => answer s m r stField [] 0))

end Sys2Proof.Machine
end

