-- ==== Sys2Proof/Machine/Boundary.lean ====
section
/-! DEFINITION. Machine/Boundary.lean: commands that change a mooring or wait for its committed boundary, at the anchor
and forwarded to it, and runs (R227, R316, R324, R326 to R333, R372, R379, R380, R382, R386, R391, R392, R435). -/

namespace Sys2Proof.Machine

/-! ### Who posted a command (R316) -/

/-- A mailbox here, or a module that forwarded the command: node, function, tag, mooring, deadline. -/
inductive Poster where
  | box (m : Mbox) (r : Request)
  | peer (node func tag mooring deadline : Nat)

/-- The function under which the command's operation stands here. -/
def posterFunc (s : State) : Poster → Nat
  | .box m _ => m.func
  | .peer n f _ _ _ => if n = selfNode s then f else 64 * (n + 1) + f

def posterTag : Poster → Nat
  | .box _ r => r.tag
  | .peer _ _ t _ _ => t

/-- The response. -/
def replyTo (s : State) (po : Poster) (status : Nat) (result : List Byte) (detail : Nat) : State :=
  match po with
  | .box m r => answer s m r status result detail
  | .peer n f t _ _ => tellNode s n (.forwardReply f t status result detail)

/-- The command is accepted. One that comes back to the module where it was posted goes on there. -/
def acceptFrom (s : State) (po : Poster) (opcode : Nat) (kind : OpKind) : State :=
  match po with
  | .box m r => acceptLong s m r kind
  | .peer n f t id dl =>
    let k := posterFunc s po
    if (opAt s k t).isSome then modOp s k t (fun o => { o with kind := kind })
    else modKeeper (tellNode s n (.forwardReply f t stAccepted [] 0)) (fun x => { x with
      ops := x.ops ++ [⟨k, t, opcode, 0, id, 0, 0, dl, kind, 0, 0, none, none, none⟩] })

/-- A command that this module is not the anchor for goes to the anchor; the request stays pending (R316, R392). -/
def forwardTo (s : State) (m : Mbox) (r : Request) (anchor : Nat) (cmd : FwdCmd) : State :=
  if s.keeper.forwards.contains (m, r.tag) then s
  else tellNode (modKeeper s (fun k => { k with forwards := k.forwards ++ [(m, r.tag)] })) anchor
    (.forward (selfNode s) m.func r.tag r.mooring r.deadline cmd)

/-- A command that runs at an anchor elsewhere ends here: with the records of the steps that were not heard of, if it is a
run. -/
def endForwarded (s : State) (o : LongOp) (status : Nat) : State :=
  let t := if o.opcode = 0x30 then abortSteps s o else s
  finishOp t o.func o.tag status (opFlags t o.func o.tag) o.units

/-- An anchor's response that no request here awaits. A command accepted there is aborted (R379, R392), but for one that was
handed over to it; one that it does not take over ends (R363). -/
def orphanReply (s : State) (src func tag status : Nat) : State :=
  match opAt s func tag with
  | none => if status = stAccepted then tellNode s src (.abortForwarded (selfNode s) func tag stAborted) else s
  | some o => if status ≠ stAccepted ∧ o.kind = .forwarded then endForwarded s o stFault else s

/-- The anchor's response to a forwarded command reaches the mailbox. -/
def forwardReplied (s : State) (src func tag status : Nat) (result : List Byte) (detail : Nat) : State :=
  match s.keeper.forwards.find? (fun q => q.1.func == func && q.2 == tag) with
  | none => orphanReply s src func tag status
  | some q =>
    let s1 := modKeeper s (fun k => { k with forwards := k.forwards.erase q })
    match (mboxAt s1 q.1).req with
    | none => orphanReply s1 src func tag status
    | some r => if status = stAccepted then acceptLong s1 q.1 r .forwarded else answer s1 q.1 r status result detail

/-! ### Going on after a boundary -/

/-- The step in hand passes its hold line: L and the exponents are written, the lanterns released (R220). -/
def passHold (s : State) (id : Nat) : State :=
  match mooringAt s id with
  | none => s
  | some m =>
    if m.stepOn ∧ !m.paused ∧ m.provisional.isNone ∧ m.moving.isNone ∧ m.saving.isNone ∧ m.due.isEmpty then
      releaseHolds (modMooring s id (fun y => { fixScale y with holdOpen := true })) id
    else s

/-- Other members than this one. -/
def otherMembers (s : State) (m : Mooring) : List Nat := (membersOf s m).filter (fun n => n != selfNode s)

/-- A run starts, or starts again, on this module (R196, R243). -/
def startRunHere (s : State) (id first count position : Nat) : State :=
  modMooring s id (fun m => { m with
    run := .running
    stopWith := 0
    step := first
    stepOn := false
    decided := 0
    runCommitted := 0
    lastBegun := none
    runCount := count
    position := position
    replays := 0
    faulted := false
    ends := []
    ahead := Ahead.blank
    refStep := if m.loaded then some ((first + 2 ^ 48 - 1) % 2 ^ 48) else m.refStep
    loaded := false })

/-- After a move an interrupted run goes on: the members learn where, or a new anchor takes the command over. -/
def resumeRun (s : State) (id : Nat) : State :=
  match mooringAt s id with
  | none => s
  | some m =>
    let left := m.runCount - m.decided
    let others := tellNodes s (.startRun id m.step left m.position) (otherMembers s m)
    match runOp s id with
    | none => if runActive m then others else s
    | some o =>
      let anchor := anchorOf m
      if anchor = selfNode s then others
      else
        let n := if o.func < 64 then selfNode s else o.func / 64 - 1
        let s1 := tellNode s anchor (.forward n (o.func % 64) o.tag id o.deadline (.resume m.step left m.position m.runCommitted))
        let s2 := if o.func < 64 then modOp s1 o.func o.tag (fun q => { q with kind := .forwarded }) else dropOp s1 o.func o.tag
        modMooring s2 id (fun y => { y with run := .idle })

/-! ### Opening (R324) -/

/-- The message that opens a mooring on another module. -/
def openMsg (d : MDesc) (bs : List Byte) (b : Bundle) (node func : Nat) (told : List (Nat × List (Nat × Nat))) : MapMsg :=
  { mooring := d.id, why := 0x20, daymark := 1, desc := bs, subs := [], lost := [], job := newJob d b.p, image := b.image,
    seed := b.seed, ownerNode := node, ownerFunc := func, told := told, raised := [], departed := [], fromDesc := [],
    fromSubs := [], oldDesc := [], oldSubs := [], oldLost := [] }

/-- Is a bundle one that early light can run (R435): its lens pairs and formats, no collective, no tensor that needs
LPDDR5X? -/
def earlyBundle (p : Parsed) : Bool :=
  p.lens.all (fun d => d.opcode != 1 || ((d.pair == .b8b4 || d.pair == .b8b8) && d.acc == .acc32)) && p.colls.isEmpty &&
  p.tensors.all (fun t => kindTiers t.kind != [2])

/-- MOORING_OPEN (R110, R316, R324, R382, R435). -/
def execMooringOpen (m : Mbox) (answers : List Answer) (s : State) : Host.Outcome State Fault Refusal :=
  .next (runCommand s m 0x0020 (fun r s =>
    let d := keptDesc s r.args
    let nodes := blockNodes s d
    let alone := decide (nodes = [selfNode s])
    if s.boot.state = 1 ∧ (d.kind ≠ 1 ∨ !alone) then answer s m r stNotReady [] 0
    else if debugBars s m.func then answer s m r stDebugConflict [] 0
    else if !mdescOk r.args d ∨ !sectorOk s d ∨ originNode d ≠ selfNode s then answer s m r stField [] 0
    else match bundleFor s m.func d.bundle with
      | none => answer s m r (bundleDenied s d.bundle) [] 0
      | some b =>
        if s.boot.state = 1 ∧ !earlyBundle b.p then answer s m r stNotReady [] 0
        else match firstRefusal s (ownAnswer s d b.p (selfNode s) true [] (toldBy answers)) answers nodes with
          | some a =>
            if s.boot.state = 1 ∧ answerStep a.status = 4 then answer s m r stNotReady [] 0
            else let q := refusalReply a; answer s m r q.1 q.2.1 q.2.2
          | none =>
            match placeChecked s d b.p (selfNode s) [] (takenRanges s) (toldBy answers) with
            | .error e => answer s m r e.1 (words e.2) 0
            | .ok pl =>
              let told := (selfNode s, takenRanges s) :: toldBy answers
              longAtOnce s m r stSuccess 0 0 (fun s => nameOpened (
                openHere (tellNodes s (.newMap (openMsg d r.args b (selfNode s) m.func told)) nodes)
                  { newMooring s d b (selfNode s, m.func) 1 [] pl (selfNode s) with told := told }) m.func r.tag d.id)))

/-! ### Commands that wait for a boundary (R227) -/

/-- The pending command that is next at a boundary, in the order of acceptance. A LEND whose move is over waits only
for its members to leave. -/
def boundaryOp (s : State) (id : Nat) : Option LongOp :=
  s.keeper.ops.find? (fun o => o.mooring == id && (match o.kind with
    | .membership _ bs _ _ => !bs.isEmpty
    | .close => true
    | .snapshot _ => true
    | _ => false))

/-- Is the membership in change: a move or an adoption in hand, a command that changes it waiting (R316, R391)? -/
def membershipHeld (s : State) (id : Nat) : Bool :=
  ((mooringAt s id).map (fun m => m.moving.isSome || !m.recovering.isEmpty || !m.asking.isEmpty)).getD false ||
  s.keeper.ops.any (fun o => o.mooring == id && (match o.kind with
    | .membership _ bs _ _ => !bs.isEmpty
    | .close => true
    | _ => false))

/-- Is a membership command pending (R316, R391)? A LEND is until its serving moorings are open; RUN_STEPS does not wait for
one whose members leave at the next commit (DESIGN CHOICE, notes/assumptions/40.md). -/
def membershipPending (s : State) (id : Nat) : Bool :=
  membershipHeld s id || s.keeper.ops.any (fun o => o.mooring == id && (match o.kind with
    | .membership _ _ _ _ => true
    | .lendOpens _ _ _ _ => true
    | _ => false))

/-- Every other pending command on a mooring that closes is aborted (R190, R326). -/
def abortOthers (s : State) (id : Nat) : State :=
  (s.keeper.ops.filter (fun o => o.mooring == id && (match o.kind with
    | .close => false
    | _ => true))).foldl (fun s o => finishOp s o.func o.tag stAborted 0 o.units) s

/-- A close (R326, R405): the run ends, the members are released, the owner's slot is free. -/
def performClose (s : State) (id : Nat) (o : LongOp) : State :=
  match mooringAt s id with
  | none => s
  | some m =>
    let s1 := abortOthers (cutRunShort s id stAborted) id
    let s2 := tellNodes s1 (.release id) (otherMembers s1 m ++ m.leaving)
    closeSlot (releaseMooring (finishOp s2 o.func o.tag stSuccess 0 0) id) m

/-- A snapshot (R227, R457): every member saves its part of the state as last committed. -/
def performSnapshot (s : State) (id : Nat) (name : BitVec 256) : State :=
  match mooringAt s id with
  | none => s
  | some m =>
    let job := jobOf m
    let r := savePartHere s id name job
    if r.2 ≠ stSuccess then
      (match r.1.keeper.ops.find? (fun o => o.mooring == id && o.kind == .snapshot name) with
      | some o => finishOp r.1 o.func o.tag r.2 0 0
      | none => r.1)
    else
      modMooring (tellNodes r.1 (.savePart id name job) (otherMembers s m)) id (fun y => { y with
        saving := some name
        savedBy := [selfNode s] })

/-- Substitutions that stay under a new block (R327). -/
def keptSubs (s : State) (m : Mooring) (d : MDesc) : List (Nat × Nat) := m.subs.filter (fun q => inBlock s d q.1)

/-- The lost nodes of a new map, with those that keep their copies: where pieces come from the old map, its own lost nodes
too (R331). -/
def lostOn (m : Mooring) (why : Nat) (lost : List (Nat × Nat)) : List (Nat × Nat) :=
  if drawsOnOld m why lost then lost ++ m.oldLost.filter (fun q => lost.all (fun x => x.1 != q.1)) else lost

/-- A grow, shrink, move or the shrink of a LEND begins (R328 steps 3 to 5), once the daymark may advance (R345). -/
def performMove (s : State) (id opcode : Nat) (bs : List Byte) : State :=
  match mooringAt s id with
  | none => s
  | some m =>
    let told := match (boundaryOp s id).map (·.kind) with
      | some (.membership _ _ as_ _) => (selfNode s, takenRanges s) :: toldBy as_
      | _ => m.told
    if !epochOpen s id then deferEpoch s id .boundary else
    let t := spreadMap s id opcode bs (keptSubs s m (keptDesc s bs)) (lostOn m opcode m.lostNodes) told
    if ((mooringAt t id).map (fun y => y.moving.isSome)).getD false then t
    else
      let t1 := tellNodes t (.oldMap id) (otherMembers s m)
      let t2 := oldMapHere t1 id
      match boundaryOp t2 id with
      | some o => finishOp t2 o.func o.tag stFault 0 0
      | none => t2

/-- Is a lantern of a mooring here, or its tower, in a reset that is not held (R342)? -/
def resetInHand (s : State) (id : Nat) : Bool :=
  (lanternsOf s id).any (fun l =>
    let r := (lanternAt s l).rst
    let t := (towerAt s (l / 48)).rst
    (r.active && !r.held) || (t.active && !t.held))

/-- Is a fault of the step that is to run again still being handled: here, or on a member that has been asked (R222, R227)? -/
def faultInHand (s : State) (m : Mooring) : Bool := !m.handling.isEmpty || (m.faulted && resetInHand s m.desc.id)

/-- The members of a mooring whose step a fault has undone are asked to say when they have handled it, where a command waits
for that (R227). -/
def askFaults (s : State) (id : Nat) : State :=
  match mooringAt s id with
  | none => s
  | some m =>
    if m.faulted ∧ (boundaryOp s id).isSome then
      tellNodes (modMooring s id (fun y => { y with handling := otherMembers s m })) (.faultAsk id) (otherMembers s m)
    else s

/-- A member is asked to say when its fault is handled: at once if it is, else when its resets are over. -/
def faultAsked (s : State) (id node : Nat) : State :=
  if resetInHand s id then modMooring s id (fun m => { m with handlingFor := some node })
  else tellNode s node (.faultDone id (selfNode s))

/-- Does nothing hold a pending command back? -/
def atRest (s : State) (m : Mooring) : Bool :=
  m.provisional.isNone && m.moving.isNone && m.saving.isNone && m.due.isEmpty && !faultInHand s m

/-- A snapshot is saved when every member's part is: its command is complete. -/
def finishSnapshot (s : State) (id : Nat) : State :=
  match mooringAt s id with
  | none => s
  | some m =>
    match m.saving with
    | none => s
    | some name =>
      if !((membersOf s m).all (fun n => m.savedBy.contains n)) then s
      else
        let s1 := modMooring s id (fun y => { y with saving := none, savedBy := [] })
        match s1.keeper.ops.find? (fun o => o.mooring == id && o.kind == .snapshot name) with
        | some o => finishOp s1 o.func o.tag stSuccess 0 0
        | none => s1

/-- When nothing more is pending on a mooring that waits, its steps go on (R227, R391). -/
def unpause (s : State) (id : Nat) : State :=
  match mooringAt s id with
  | none => s
  | some m =>
    if m.paused ∧ atRest s m ∧ (boundaryOp s id).isNone then
      goOnHere (tellNodes s (.goOn id m.leaving) (otherMembers s m)) id m.leaving
    else s

/-- Perform what is pending at a committed boundary: at most n commands, as far as each ends at once; then the run goes
on. -/
def performPending : Nat → State → Nat → State
  | 0, s, _ => s
  | n + 1, s, id =>
    match mooringAt s id with
    | none => s
    | some m =>
      if !atRest s m then s
      else match boundaryOp s id with
        | none => passHold s id
        | some o =>
          match o.kind with
          | .close => performClose s id o
          | .snapshot name => performPending n (unpause (finishSnapshot (performSnapshot s id name) id) id) id
          | .membership opcode bs _ _ => performMove s id opcode bs
          | _ => s

/-- The boundary of a mooring is reached (R227). -/
def atBoundary (s : State) (id : Nat) : State := performPending (s.keeper.ops.length + 1) s id

/-- A command that waits for a boundary has been accepted: performed now when nothing is in hand, else no further step
starts and the members are told (R227). -/
def awaitBoundary (s0 : State) (id : Nat) : State :=
  let s := askFaults s0 id
  match mooringAt s id with
  | none => s
  | some m =>
    if atRest s m ∧ !m.stepOn then atBoundary s id
    else tellNodes (modMooring s id (fun y => { y with
      paused := true
      run := if y.run == .running then .stopping else y.run })) (.pause id) (otherMembers s m)

/-! ### The end of a move (R328 steps 7 and 9, R332) -/

/-- A LEND that opens its serving moorings: the operation, the descriptors still to be opened, whether the first is being
opened, what its modules have answered, the moorings opened. -/
structure Lending where
  op      : LongOp
  items   : List LendItem
  opening : Bool
  heard   : List Answer
  opened  : List Nat

/-- The LEND of a mooring that is at this. -/
def lendingOf (s : State) (id : Nat) : Option Lending :=
  s.keeper.ops.findSome? (fun o => if o.mooring ≠ id then none else match o.kind with
    | .lendOpens items opening heard opened => some ⟨o, items, opening, heard, opened⟩
    | _ => none)

/-- The LEND's state as its operation keeps it. -/
def setLending (s : State) (x : Lending) : State :=
  modOp s x.op.func x.op.tag (fun o => { o with kind := .lendOpens x.items x.opening x.heard x.opened })

/-- The message about one serving mooring of a LEND, with what its modules hold; none without its bundle. -/
def lendMsg (s : State) (it : LendItem) (heard : List Answer) : Option MapMsg :=
  (bundleAt s (keptDesc s it.desc).bundle).map (fun b => openMsg (keptDesc s it.desc) it.desc b it.ownerNode it.ownerFunc (toldBy heard))

/-- What this module answers to steps 2 to 4 of R324 for a serving mooring of a LEND. -/
def lendAnswer (s : State) (x : MapMsg) : Answer :=
  match loadBundle x.image with
  | .error e => ⟨selfNode s, stBundleRefused, [e.check, e.sec, e.entry] ++ e.more, []⟩
  | .ok p =>
    if debugBars s x.ownerFunc then ⟨selfNode s, stDebugConflict, [], []⟩
    else ownAnswer s (keptDesc s x.desc) p (selfNode s) true [] x.told

/-- The LEND asks the modules of its next serving mooring (R324 steps 2 to 4). -/
def lendAsk (s : State) (x : Lending) (it : LendItem) (msg : MapMsg) : State :=
  let nodes := blockNodes s (keptDesc s it.desc)
  let own := if nodes.contains (selfNode s) then [lendAnswer s msg] else []
  setLending (tellNodes s (.openAsk msg x.op.mooring) nodes) { x with opening := false, heard := own }

/-- It opens it (R324 steps 5 and 6). -/
def lendOpen (s : State) (x : Lending) (it : LendItem) (msg : MapMsg) : State :=
  let nodes := blockNodes s (keptDesc s it.desc)
  let t := tellNodes s (.newMap msg) nodes
  let t1 := if nodes.contains (selfNode s) then takeMap t msg (selfNode s) else t
  let own := if nodes.contains (selfNode s) then
      [⟨selfNode s, if (mooringAt t1 msg.mooring).isSome then stSuccess else stPlacement, [], []⟩] else []
  setLending t1 { x with opening := true, heard := own }

/-- A serving mooring that is being opened is open nowhere (R324). -/
def lendUndo (s : State) (x : Lending) (it : LendItem) : State :=
  let id := (keptDesc s it.desc).id
  let nodes := blockNodes s (keptDesc s it.desc)
  if x.opening then
    (let t := tellNodes s (.release id) nodes
     if nodes.contains (selfNode s) then releaseMooring t id else t)
  else s

/-- A serving mooring cannot be opened, and the LEND ends with the status of the first failure,
the module in DETAIL; the moorings opened before stay (DESIGN CHOICE, notes/assumptions/40.md). -/
def lendFails (s : State) (x : Lending) (it : LendItem) (a : Answer) : State :=
  finishOp (lendUndo s x it) x.op.func x.op.tag a.status 0 a.node

/-- A LEND that is opening its serving moorings is aborted (R190): the one in hand is open nowhere, those opened before stay,
their number in DETAIL. -/
def abortLending (s : State) (o : LongOp) (status : Nat) : State :=
  match lendingOf s o.mooring with
  | none => finishOp s o.func o.tag status 0 o.units
  | some x => finishOp (match x.items with
      | [] => s
      | it :: _ => lendUndo s x it) o.func o.tag status 0 x.opened.length

/-- The LEND goes on as far as what it has heard lets it (R324, R333): each serving mooring is asked for, then opened; after
the last the command is complete, the bytes moved in DETAIL. -/
def lendGoOn : Nat → State → Nat → State
  | 0, s, _ => s
  | n + 1, s, id =>
    match lendingOf s id with
    | none => s
    | some x =>
      match x.items with
      | [] => finishOp s x.op.func x.op.tag stSuccess 0 x.op.units
      | it :: rest =>
        let nodes := blockNodes s (keptDesc s it.desc)
        if !nodes.all (fun k => x.heard.any (fun a => a.node == k)) then s
        else match firstRefusal s ((x.heard.find? (fun a => a.node == selfNode s)).getD ⟨selfNode s, stBusy, [], []⟩) x.heard nodes with
          | some a => lendFails s x it a
          | none =>
            if x.opening then
              lendGoOn n (match rest with
                | [] => setLending s { x with items := [], opening := false, heard := [], opened := x.opened ++ [(keptDesc s it.desc).id] }
                | nx :: _ =>
                  let y := { x with items := rest, opened := x.opened ++ [(keptDesc s it.desc).id] }
                  (match lendMsg s nx [] with
                  | some msg => lendAsk s y nx msg
                  | none => lendFails s { y with opening := false } nx ⟨selfNode s, stField, [], []⟩)) id
            else
              lendGoOn n (match lendMsg s it x.heard with
                | some msg => lendOpen s x it msg
                | none => lendFails s x it ⟨selfNode s, stField, [], []⟩) id

/-- How often that can be needed. -/
def lendSteps (xs : List LendItem) : Nat := 2 * xs.length + 1

/-- The members of a LEND have left: its serving moorings are opened, one after another (R333). -/
def lendOpens (s : State) (id : Nat) : State :=
  match s.keeper.ops.find? (fun o => o.mooring == id && (match o.kind with
      | .membership 0x24 bs _ _ => bs.isEmpty
      | _ => false)) with
  | none => s
  | some o =>
    let items := match o.kind with
      | .membership _ _ _ xs => xs
      | _ => []
    match items with
    | [] => finishOp s o.func o.tag stSuccess 0 o.units
    | it :: _ =>
      let x : Lending := ⟨o, items, false, [], []⟩
      match lendMsg s it [] with
      | some msg => lendGoOn (lendSteps items) (lendAsk s x it msg) id
      | none => lendFails s x it ⟨selfNode s, stField, [], []⟩

/-- A module has answered a LEND's question, or has opened a serving mooring or not. -/
def lendHeard (s : State) (x : Lending) (id : Nat) (a : Answer) : State :=
  let heard := if x.heard.any (fun b => b.node == a.node) then x.heard else x.heard ++ [a]
  lendGoOn (lendSteps x.items) (setLending s { x with heard := heard }) id

/-- The first serving mooring of a LEND is the one named. -/
def lendsNow (s : State) (x : Lending) (mooring : Nat) : Bool :=
  (x.items.head?.map (fun it => (keptDesc s it.desc).id)) == some mooring

/-- An answer about a serving mooring reaches the LEND of a mooring. -/
def openAnswered (s : State) (lent mooring : Nat) (a : Answer) : State :=
  match lendingOf s lent with
  | none => s
  | some x => if x.opening ∨ !lendsNow s x mooring then s else lendHeard s x lent a

/-- A module has opened a serving mooring, or could not. -/
def openedAt (s : State) (mooring node status : Nat) : State :=
  match s.keeper.ops.findSome? (fun o => (lendingOf s o.mooring).bind (fun x =>
      if x.opening && lendsNow s x mooring then some x else none)) with
  | none => s
  | some x => lendHeard s x x.op.mooring ⟨node, status, [], []⟩

/-- FORWARD_TIMEOUT (R392): the anchor has not answered within 1 s; a module that a LEND asks and that does not answer is not
free (R324). -/
def execForwardTimeout (func tag : Nat) (s : State) : Host.Outcome State Fault Refusal :=
  .next (match (opAt s func tag).bind (fun o => lendingOf s o.mooring) with
    | none => forwardReplied s (selfNode s) func tag stFault [] 0
    | some x =>
      match x.items with
      | [] => s
      | it :: _ =>
        match (blockNodes s (keptDesc s it.desc)).find? (fun n => x.heard.all (fun a => a.node != n)) with
        | none => s
        | some n => lendFails s x it ⟨n, stBusy, [], []⟩)

/-- The members that leave are released, and with them what waits for that (R328 step 9, R333). -/
def releaseLeaving (s : State) (id : Nat) : State :=
  match mooringAt s id with
  | none => s
  | some m =>
    let s1 := tellNodes s (.release id) m.leaving
    lendOpens (modMooring s1 id (fun y => { y with leaving := [] })) id

/-- The operations of this module's own on a mooring that it leaves are aborted (R190, R326), but for what its anchor is to
report, and a LEND that goes on without the mooring. -/
def abortLeft (s : State) (id : Nat) : State :=
  (s.keeper.ops.filter (fun o => o.mooring == id && (match o.kind with
    | .forwarded => false
    | .membership _ bs _ _ => !bs.isEmpty
    | .lendOpens _ _ _ _ => false
    | _ => true))).foldl (fun s o => match o.kind with
      | .copy n _ _ => stopCopy s (.system n) stAborted
      | _ => finishOp s o.func o.tag stAborted 0 o.units) s

/-- A module leaves a mooring on the anchor's word (R326, R328, R362). -/
def leaveHere (s : State) (id : Nat) : State := lendOpens (releaseMooring (abortLeft s id) id) id

/-- A module is asked about a serving mooring (R324, R333): the question says that the members which leave the lent mooring
are free, should the release itself not have come yet. -/
def openAsked (s : State) (x : MapMsg) (lent src : Nat) : State :=
  let s1 := match mooringAt s lent with
    | some m => if (membersOf s m).contains (selfNode s) then s else leaveHere s lent
    | none => s
  tellNode s1 src (.openAnswer lent x.mooring (lendAnswer s1 x))

/-- The operation that a move belongs to is complete (R328 step 7, R380). -/
def finishMove (s : State) (id total : Nat) : State :=
  match s.keeper.ops.find? (fun o => o.mooring == id && (match o.kind with
      | .membership _ bs _ _ => !bs.isEmpty
      | .restore => true
      | _ => false)) with
  | none => s
  | some o =>
    match o.kind with
    | .membership 0x24 _ as_ xs => modOp s o.func o.tag (fun q => { q with kind := .membership 0x24 [] as_ xs, units := total })
    | .membership _ _ _ _ => finishOp s o.func o.tag stSuccess 0 total
    | _ => finishOp s o.func o.tag stSuccess 0 0

/-- When every module that takes part has done its part, the move is over (R305, R328). -/
def completeMove (s : State) (id : Nat) : State :=
  match mooringAt s id with
  | none => s
  | some m =>
    match m.moving with
    | none => s
    | some v =>
      let all_ := movers s m v
      if v.asker ≠ selfNode s ∨ !(all_.all (fun n => v.doneBy.contains n)) then s
      else
        let go := leavers s m v
        let s1 := finishMove s id v.total
        let s2 := tellSlot (goOnHere (tellNodes s1 (.goOn id go) all_) id go) id
        let s3 := resumeRun s2 id
        if m.desc.kind = 1 then
          let s4 := tellNodes s3 (.release id) go
          let s5 := lendOpens (modMooring s4 id (fun y => { y with leaving := [] })) id
          if go.contains (selfNode s) then leaveHere s5 id else atBoundary s5 id
        else atBoundary s3 id

/-- A move fails (R305, R332): the old map stays in force under the new daymark, the command ends with FAULT. -/
def failMove (s : State) (id : Nat) : State :=
  match mooringAt s id with
  | none => s
  | some m =>
    match m.moving with
    | none => s
    | some v =>
      if v.asker ≠ selfNode s then s
      else
        let s1 := tellSlot (oldMapHere (tellNodes s (.oldMap id) (movers s m v)) id) id
        let s2 := match s1.keeper.ops.find? (fun o => o.mooring == id && (match o.kind with
            | .membership _ bs _ _ => !bs.isEmpty
            | .restore => true
            | _ => false)) with
          | some o => finishOp s1 o.func o.tag stFault 0 0
          | none => s1
        atBoundary (resumeRun s2 id) id

/-- A member's word that its part of a move is done, or has failed. -/
def memberMoved (s : State) (id node bytes : Nat) : State :=
  completeMove (modMooring s id (fun m => { m with moving := m.moving.map (fun v =>
    if v.doneBy.contains node then v else { v with
      doneBy := v.doneBy ++ [node]
      total := v.total + bytes }) })) id

/-! ### The membership commands (R316, R319, R326 to R333) -/

/-- The checks of a new descriptor against the one in force (R319, R327). -/
def mapOk (s : State) (m : Mooring) (opcode : Nat) (bs : List Byte) : Bool :=
  let raw := mdescOf bs
  let d := markRings s raw
  let old := m.desc
  let fits (a b : MDesc) : Bool := (blockNodes s a).all (fun n => inBlock s b n)
  mdescOk bs raw && sectorOk s raw &&
  d.id == old.id && d.kind == old.kind && d.split == old.split && d.sector == old.sector && d.onloss == old.onloss &&
  d.replayMax == old.replayMax && d.verdictMs == old.verdictMs && d.bundle == old.bundle &&
  (d.axes.zip old.axes).all (fun q =>
    if q.2.role = 0 then q.1.role == 0 || !(m.departed ++ rolesLeaving old d).contains q.1.role
    else q.1.role == q.2.role || (q.1.role == 0 && q.1.extent == 1)) &&
  (if opcode = 0x21 then fits old d
   else if opcode = 0x23 then
     (d.axes.zip old.axes).all (fun q => q.1.extent == q.2.extent) && (d.axes.zip old.axes).any (fun q => q.1.origin != q.2.origin)
   else fits d old)

/-- The serving moorings of a LEND fit the modules that the shrink frees, no two of them one module's sector (R318, R333,
R372). -/
def lendOk (s : State) (m : Mooring) (bs : List Byte) (items : List LendItem) : Bool :=
  let d := mdescOf bs
  let ids := items.map (fun it => (mdescOf it.desc).id)
  let seats := items.flatMap (fun it => let x := keptDesc s it.desc; (blockNodes s x).map (fun n => 4 * n + x.sector))
  decide (items.length ≤ 8) && decide ((distinct ids).length = ids.length) && !ids.contains m.desc.id && decide (m.desc.kind = 0) &&
  decide ((distinct seats).length = seats.length) &&
  items.all (fun it =>
    let x := keptDesc s it.desc
    mdescOk it.desc x && sectorOk s x && decide (x.kind = 1) && (bundleAt s x.bundle).isSome && decide (it.ownerFunc < 44) &&
    (blockNodes s x).all (fun n => inBlock s m.desc n && !inBlock s d n))

/-- A grow, shrink, move or LEND at the anchor (R327, R328 step 1). -/
def moveCommand (s : State) (po : Poster) (id opcode : Nat) (bs : List Byte) (items : List LendItem) (answers : List Answer) : State :=
  match mooringAt s id with
  | none => replyTo s po stNoMooring [] 0
  | some m =>
    match bundleAt s m.bundle with
    | none => replyTo s po stField [] 0
    | some b =>
      if membershipPending s id then replyTo s po stBusy [] 0
      else if items.any (fun it => debugBars s it.ownerFunc) then replyTo s po stDebugConflict [] 0
      else if !mapOk s m opcode bs ∨ (opcode = 0x24 ∧ !lendOk s m bs items) then replyTo s po stField [] 0
      else
        let d := markRings s (mdescOf bs)
        let subs := keptSubs s m d
        let nodes := (blockNodes s d).map (standsIn subs)
        let own := if nodes.contains (selfNode s) then ownAnswer s d b.p (positionOf subs (selfNode s)) false m.raised (toldBy answers)
          else ⟨selfNode s, stSuccess, [], []⟩
        match firstRefusal s own answers nodes with
        | some a => let q := refusalReply a; replyTo s po q.1 q.2.1 q.2.2
        | none => awaitBoundary (acceptFrom s po opcode (.membership opcode bs answers items)) id

/-- A close at the anchor (R326). -/
def closeCommand (s : State) (po : Poster) (id : Nat) : State :=
  match mooringAt s id with
  | none => replyTo s po stNoMooring [] 0
  | some _ =>
    if membershipPending s id then replyTo s po stBusy [] 0
    else awaitBoundary (acceptFrom s po 0x25 .close) id

/-- The tender point of a module: the step at which all its kept copies stand, plus 1, 0 for none (R358, R380). -/
def tenderPoint (m : Mooring) : Nat :=
  match m.tender with
  | [] => 0
  | c :: cs => cs.foldl (fun n x => min n ((x.point.map (· + 1)).getD 0)) ((c.point.map (· + 1)).getD 0)

/-- What MOORING_STATUS returns (R380): epoch, daymark, the numbers of members and of substitutions, anchor, last
committed step as R405 shows it, L, tender point, run state, then each member and each substitution. -/
def statusBytes (s : State) (m : Mooring) : List Byte :=
  let ms := membersOf s m
  words ([m.epoch, m.daymark, ms.length, m.subs.length, anchorOf m, m.committed.getD 0, m.lscale, tenderPoint m, slotRunCode m.run] ++
    ms ++ m.subs.flatMap (fun q => [q.1, q.2]))

/-- MOORING_STATUS at the anchor. -/
def statusCommand (s : State) (po : Poster) (id : Nat) : State :=
  match mooringAt s id with
  | none => replyTo s po stNoMooring [] 0
  | some m => replyTo s po stSuccess (statusBytes s m) 0

/-- RUN_STEPS at the anchor (R196, R380, R391); a command that an earlier anchor hands over comes with the steps committed of
it, while the run is in progress at its first step. -/
def runStepsAct (s : State) (po : Poster) (id first count position : Nat) (done : Option Nat) : State :=
  match mooringAt s id with
  | none => replyTo s po stNoMooring [] 0
  | some m =>
    if 2 ^ 48 ≤ first ∨ count = 0 ∨ 2 ^ 32 ≤ count then replyTo s po stField [] 0
    else if (runActive m && (done.isNone || (runOp s id).isSome)) || (done.isNone && membershipHeld s id) || (lendingOf s id).isSome ||
        !m.lostNodes.isEmpty then replyTo s po stBusy [] 0
    else
      let s1 := acceptFrom s po 0x30 (.run first count position)
      tellSlot (modMooring (tellNodes (startRunHere s1 id first count position) (.startRun id first count position) (otherMembers s m)) id
        (fun y => { y with runCommitted := done.getD 0 })) id

/-- A command of a mooring runs at its anchor, here or elsewhere (R316). -/
def atAnchor (m : Mbox) (r : Request) (cmd : FwdCmd) (act : Poster → State → State) (s : State) : State :=
  match mooringAt s r.mooring with
  | none => answer s m r stNoMooring [] 0
  | some x => if anchorOf x = selfNode s then act (.box m r) s else forwardTo s m r (anchorOf x) cmd

/-- A command that another module has forwarded (R316). -/
def runForwarded (s : State) (node func tag id deadline : Nat) (cmd : FwdCmd) : State :=
  let po := Poster.peer node func tag id deadline
  match mooringAt s id with
  | none => replyTo s po stNoMooring [] 0
  | some m =>
    if anchorOf m ≠ selfNode s then replyTo s po stFault [] 0
    else match cmd with
      | .run first count position => runStepsAct s po id first count position none
      | .resume first count position done => runStepsAct s po id first count position (some done)
      | .close => closeCommand s po id
      | .status => statusCommand s po id
      | .membership opcode bs answers => moveCommand s po id opcode bs [] answers
      | .lend bs items answers => moveCommand s po id 0x24 bs items answers

/-- MOORING_GROW (R327, R328). -/
def execMooringGrow (m : Mbox) (answers : List Answer) (s : State) : Host.Outcome State Fault Refusal :=
  .next (runCommand s m 0x0021 (fun r s =>
    atAnchor m r (.membership 0x21 r.args answers) (fun po s => moveCommand s po r.mooring 0x21 r.args [] answers) s))

/-- MOORING_SHRINK (R327, R328). -/
def execMooringShrink (m : Mbox) (answers : List Answer) (s : State) : Host.Outcome State Fault Refusal :=
  .next (runCommand s m 0x0022 (fun r s =>
    atAnchor m r (.membership 0x22 r.args answers) (fun po s => moveCommand s po r.mooring 0x22 r.args [] answers) s))

/-- MOORING_MOVE (R327, R328). -/
def execMooringMove (m : Mbox) (answers : List Answer) (s : State) : Host.Outcome State Fault Refusal :=
  .next (runCommand s m 0x0023 (fun r s =>
    atAnchor m r (.membership 0x23 r.args answers) (fun po s => moveCommand s po r.mooring 0x23 r.args [] answers) s))

/-- MOORING_LEND (R333): a shrink, then the opens. -/
def execMooringLend (m : Mbox) (serving : List LendItem) (answers : List Answer) (s : State) : Host.Outcome State Fault Refusal :=
  .next (runCommand s m 0x0024 (fun r s =>
    atAnchor m r (.lend r.args serving answers) (fun po s => moveCommand s po r.mooring 0x24 r.args serving answers) s))

/-- MOORING_CLOSE (R326). -/
def execMooringClose (m : Mbox) (s : State) : Host.Outcome State Fault Refusal :=
  .next (runCommand s m 0x0025 (fun r s => atAnchor m r .close (fun po s => closeCommand s po r.mooring) s))

/-- MOORING_STATUS (R380). -/
def execMooringStatus (m : Mbox) (s : State) : Host.Outcome State Fault Refusal :=
  .next (runCommand s m 0x0026 (fun r s => atAnchor m r .status (fun po s => statusCommand s po r.mooring) s))

/-- RUN_STEPS (R196, R380). -/
def execRunSteps (m : Mbox) (first count position : Nat) (s : State) : Host.Outcome State Fault Refusal :=
  .next (runCommand s m 0x0030 (fun r s =>
    atAnchor m r (.run first count position) (fun po s => runStepsAct s po r.mooring first count position none) s))

/-- SNAPSHOT_SAVE (R147, R227, R380, R457). -/
def execSnapshotSave (m : Mbox) (name : BitVec 256) (s : State) : Host.Outcome State Fault Refusal :=
  .next (runCommand s m 0x0042 (fun r s =>
    match mooringAt s r.mooring with
    | none => answer s m r stNoMooring [] 0
    | some x =>
      match bundleAt s x.bundle with
      | none => answer s m r stField [] 0
      | some b =>
        match snapshotErr s x b.p name with
        | some e => answer s m r e.1 [] e.2
        | none => awaitBoundary (acceptLong s m r (.snapshot name)) r.mooring))

/-- SNAPSHOT_RESTORE (R391, R458): refused while a run is in progress; ends with OBJECT_LOST when a holder cannot give
its part; else the parts are permuted to the mooring's map. -/
def execSnapshotRestore (m : Mbox) (name : BitVec 256) (holders : List Answer) (s : State) : Host.Outcome State Fault Refusal :=
  .next (runCommand s m 0x0043 (fun r s =>
    match mooringAt s r.mooring with
    | none => answer s m r stNoMooring [] 0
    | some x =>
      let here := partHere s name
      let lostHere := ((flashObj s name).map (·.lost)).getD false
      let job := match here, holders with
        | some q, _ => some q.1
        | none, a :: _ => some (jobOfInfo a.info)
        | none, [] => none
      if runActive x ∨ opPending s r.mooring then answer s m r stBusy [] 0
      else match holders.find? (fun a => decide (a.status ≠ stSuccess)), lostHere with
        | some a, _ => longAtOnce s m r stObjectLost 0 a.node (fun s => s)
        | none, true => longAtOnce s m r stObjectLost 0 (selfNode s) (fun s => s)
        | none, false =>
          match job, bundleAt s x.bundle with
          | some j, some b =>
            let s1 := acceptLong s m r .restore
            let s2 := tellNodes s1 (.restoreHere r.mooring name j (selfNode s)) (otherMembers s x)
            let msg := mapMsg x b 0x43 (mdescBytes x.desc) x.subs [] x.daymark x.told
            restoreHere (tellNodes s2 (.restorePart msg name) (holders.map (·.node))) r.mooring name j (selfNode s)
          | _, _ => answer s m r stField [] 0))

end Sys2Proof.Machine
end

