-- ==== Sys2Proof/Machine/Decide.lean ====
section
/-! DEFINITION. Machine/Decide.lean: contributions and verdicts, commit, rollback and replay, tender installs, serving
steps, collective packets (R169, R191, R212 to R225, R278, R304, R310, R343, R357 to R359, R363, R474). -/

namespace Sys2Proof.Machine

/-! ### Larger reservations (R169) -/

/-- The bytes of every tensor, and of the areas of kept copies, moved from one placement to another. -/
def moveTensors (s : State) (old new : Placement) (copies : List ((Nat × Nat) × (Nat × Nat))) : State :=
  let arrays (pl : Placed) : List (Nat × Nat) :=
    [(pl.mbase, pl.mbytes), (pl.sbase, pl.sbytes)] ++
    (match pl.alt with
      | some x => [(x.1, pl.mbytes), (x.2, pl.sbytes)]
      | none => [])
  let pairs := (old.tensors.zip new.tensors).flatMap (fun q => (arrays q.1).zip (arrays q.2)) ++ copies
  let data := pairs.map (fun q => (q.2.1, readMem s q.1.1 (min q.1.2 q.2.2)))
  data.foldl (fun s d => writeMem s d.1 d.2) (clearRanges s new.regions)

/-- Tensors whose stream passed its reservation are reserved at the largest size for the rest of the job; the run stops
with PLACEMENT when that does not fit. -/
def raiseReservations (s : State) (id : Nat) (p : Parsed) : State :=
  match mooringAt s id with
  | none => s
  | some m =>
    if m.overLimit.isEmpty then s
    else
      let raised := distinct (m.raised ++ m.overLimit)
      let others := { s with moorings := s.moorings.filter (fun y => y.desc.id != id) }
      match placeBundle s m.desc p (herePos s m) raised (takenRanges others ++ carrierTaken m.told (herePos s m) (selfNode s)) with
      | .error _ => breakRun (tellNodes s (.stopRun id stPlacement) (otherMembers s m)) id stPlacement
      | .ok pl =>
        let at_ (c : TenderCopy × Nat) : Nat := pl.tender.getD c.2 0
        let areas := m.tender.zipIdx.map (fun c => ((c.1.base, 2 * c.1.size), (at_ c, 2 * c.1.size)))
        let s1 := modMooring (moveTensors s m.place pl areas) id (fun y => { y with
          place := pl
          tender := y.tender.zipIdx.map (fun c => { c.1 with base := at_ c })
          raised := raised
          overLimit := [] })
        takeLanterns s1 m.desc pl.regions

/-- The other members hear which tensors have passed their reservations: they raise them too, so that the places of one carrier
agree (R161, R169). -/
def tellRaises (s : State) (m : Mooring) : State :=
  m.overLimit.foldl (fun s t => tellNodes s (.raise m.desc.id t) (otherMembers s m)) s

/-- A tensor is to be raised here too: at once where no step is in hand, else when it is decided. -/
def raiseHeard (s : State) (id tensor : Nat) : State :=
  match mooringAt s id with
  | none => s
  | some m =>
    if m.raised.contains tensor then s
    else
      let s1 := modMooring s id (fun y => { y with
        overLimit := if y.overLimit.contains tensor then y.overLimit else y.overLimit ++ [tensor] })
      match bundleAt s m.bundle with
      | some b => if m.stepOn ∨ m.provisional.isSome then s1 else raiseReservations s1 id b.p
      | none => s1

/-! ### What a verdict does (R222) -/

/-- The mooring when a verdict on step t has been applied and its books are closed. -/
def decided (m : Mooring) : Mooring :=
  { m with
    provisional := none
    contrib := none
    children := []
    ahead := { Ahead.blank with replays := m.ahead.replays, faulted := m.ahead.faulted }
    forwarded := false
    timer := false }

/-- The step after a committed one takes its place: one that has contributed awaits its verdict (R214, R224). -/
def takeAhead (m : Mooring) (a : Ahead) : Mooring :=
  let m1 := { m with
    children := a.children
    replays := a.replays
    faulted := a.faulted
    ahead := Ahead.blank }
  if a.contrib.isSome ∨ a.verdict.isSome then
    { m1 with
      provisional := some m.step
      contrib := a.contrib
      sentFlags := a.flags
      sentBad := a.bad
      forwarded := true
      step := m.step + 1
      stepOn := false
      timer := a.timer }
  else m1

/-- After a verdict: the run ends when its last step is decided, or when there is no further step number (R347, R386). -/
def endIfDone (s : State) (id t : Nat) : State :=
  match mooringAt s id with
  | none => s
  | some m =>
    if m.runCount ≤ m.decided then endRun s id stSuccess
    else if 2 ^ 48 ≤ t + 1 then endRun s id stStepWrap
    else s

/-- FLAGS of a decided step's record (R191, R222). -/
def stepFlags (m : Mooring) (v : Verdict) (skipped : Bool) : BitVec 16 :=
  orFlag (orFlag (orFlag (recordFlags m.sentFlags m.sentBad m.faulted v.notExact) flUnf v.unf) flTcl v.tcl) flOvf skipped

/-- A clean verdict: commit (R46, R210, R218, R219, R222, R328 step 9); a step that runs again after a loss writes no
second record (R226, R364). -/
def commitStep (s : State) (m : Mooring) (p : Parsed) (t : Nat) (v : Verdict) : State :=
  let id := m.desc.id
  let again := decide (m.rerun = some t)
  let s1 := modMooring s id (fun y =>
    let z := decided (cleanScale y)
    takeAhead { z with
      committed := some t
      refStep := some t
      loaded := false
      readable := t :: z.readable
      before := some ⟨m.committed, m.refStep, m.lscale, m.clean, m.ladders⟩
      ladders := moveLadders cleanLadder p v z.ladders
      decided := z.decided + b2n (!again)
      runCommitted := z.runCommitted + b2n (!again)
      rerun := none
      installedBy := []
      reported := false
      oldMap := none
      oldTender := []
      oldLost := [] } y.ahead)
  let s2 := startRefresh (if again then s1 else runRecord s1 id stSuccess (stepFlags m v false) t) id p t
  let s3 := if m.leaving.isEmpty then s2
    else if anchorOf m = selfNode s then releaseLeaving s2 id
    else modMooring s2 id (fun y => { y with leaving := [] })
  let s4 := endIfDone (tellSlot (openWindows s3 id) id) id t
  leaveReached (atBoundary (if m.stepOn then s4 else raiseReservations s4 id p) id) id

/-- An overflow verdict: rollback of step t, which is skipped (R46, R48, R210, R222, R223). -/
def skipStep (s : State) (m : Mooring) (p : Parsed) (t : Nat) (v : Verdict) : State :=
  let id := m.desc.id
  let s0 := modMooring (undoUpdate (newEpoch (windDown s id) id) id t) id (fun y => { y with step := t })
  let s1 := if m.lscale = 0 then raiseEvent s0 evFloor (some id) 0 0 else s0
  let s2 := modMooring s1 id (fun y =>
    let z := decided y
    { z with
      lscale := z.lscale - 1
      clean := if z.lscale = 0 then z.clean else 0
      ladders := moveLadders overLadder p v z.ladders
      step := t + 1
      stepOn := false
      decided := z.decided + b2n (decide (m.rerun ≠ some t))
      rerun := none
      replays := z.ahead.replays
      faulted := z.ahead.faulted
      ahead := Ahead.blank })
  let s3 := if m.rerun = some t then s2 else runRecord s2 id stStepSkipped (stepFlags m v true) t
  let s4 := if m.lscale = 0 then endRun s3 id stFloor else endIfDone s3 id t
  atBoundary s4 id

/-- FAULT or VERSION: step t is undone and runs again under its number, within REPLAY_MAX (R222 to R225). -/
def replayStep (s : State) (m : Mooring) (p : Parsed) (t : Nat) (v : Verdict) : State :=
  let id := m.desc.id
  let s1 := undoUpdate (newEpoch (windDown s id) id) id t
  if m.desc.replayMax ≤ m.replays then
    let s2 := runRecord s1 id stReplayLimit (stepFlags { m with faulted := m.faulted || v.fault } v false) t
    let s3 := modMooring s2 id (fun y => { decided y with
      step := t + 1
      stepOn := false
      decided := y.decided + b2n (decide (m.rerun ≠ some t))
      rerun := none })
    atBoundary (endRun s3 id stReplayLimit) id
  else
    let s2 := modMooring s1 id (fun y => { decided y with
      step := t
      stepOn := false
      replays := y.replays + 1
      faulted := y.faulted || v.fault })
    atBoundary (askFaults (raiseReservations s2 id p) id) id

/-- Apply a verdict on the step that awaits one (R220, R222); one that begins a new epoch once the daymark may advance (R345). -/
def applyVerdict (s : State) (id : Nat) (v : Verdict) : State :=
  match mooringAt s id with
  | none => s
  | some m =>
    match m.provisional, bundleAt s m.bundle with
    | some t, some b =>
      if !(v.fault || v.version || v.overflow) then commitStep s m b.p t v
      else if !epochOpen s id then deferEpoch s id (.verdict t v)
      else if v.fault ∨ v.version then replayStep s m b.p t v
      else skipStep s m b.p t v
    | _, _ => s

/-! ### Contributions (R212, R214, R310) -/

/-- What this module has to send up: its own contribution with its children's. -/
def combined (m : Mooring) : Option Verdict := m.contrib.map (fun v => m.children.foldl (fun a q => joinVerdict a q.2) v)

/-- Is the combined contribution to leave: every child's is in, or it carries FAULT or VERSION? -/
def upReady (s : State) (m : Mooring) : Bool :=
  match combined m with
  | none => false
  | some v => v.fault || v.version || (childNodes s m).all (fun n => m.children.any (fun q => q.1 == n))

/-- Send the combined contribution to the parent, once. -/
def forwardUp (s : State) (id : Nat) : State :=
  match mooringAt s id with
  | none => s
  | some m =>
    match parentNode s m, combined m, m.provisional with
    | some n, some v, some t =>
      if m.forwarded ∨ !upReady s m then s
      else sendVerdict (modMooring s id (fun y => { y with forwarded := true })) m n t v
    | _, _, _ => s

/-- This module's contribution to the verdict of the step in hand is formed: the step awaits its verdict, the timer runs,
the next step may start. -/
def contribute (s : State) (id : Nat) (early : Bool) : State :=
  match mooringAt s id with
  | none => s
  | some m =>
    let v := ownVerdict s m
    let s1 := tellRaises (if early then windDown s id else s) m
    forwardUp (modMooring s1 id (fun y => { y with
      contrib := some v
      sentFlags := y.flags
      sentBad := y.bad
      provisional := some y.step
      step := y.step + 1
      stepOn := false
      timer := true })) id

/-! ### The step after the one whose verdict is awaited (R214, R224) -/

/-- The number of the step that follows the one to be decided next. -/
def aheadStep (m : Mooring) : Nat := if m.provisional.isSome then m.step else m.step + 1

/-- What this module has to send up for it. -/
def aheadCombined (m : Mooring) : Option Verdict :=
  m.ahead.contrib.map (fun v => m.ahead.children.foldl (fun a q => joinVerdict a q.2) v)

/-- FAULT or VERSION, in this module's own work of that step or in a child's contribution to it: the work ends, and the
contribution goes up at once, though an earlier verdict is awaited (R214). -/
def contributeAhead (s : State) (id : Nat) : State :=
  match mooringAt s id with
  | none => s
  | some m =>
    if m.ahead.contrib.isSome ∨ !m.due.isEmpty then s
    else
      let begun := m.provisional.isSome && m.stepOn
      let v := if begun then ownVerdict s m else Verdict.blank m.ladders.length
      let s1 := modMooring (tellRaises (if begun then windDown s id else s) m) id (fun y => { y with
        stepOn := y.stepOn && !begun
        ahead := { y.ahead with
          contrib := some v
          flags := if begun then y.flags else 0
          bad := begun && y.bad
          timer := true } })
      match mooringAt s1 id with
      | none => s1
      | some m1 =>
        match parentNode s1 m1, aheadCombined m1 with
        | some n, some w => sendVerdict s1 m1 n (aheadStep m1) w
        | _, _ => s1

/-- FAULT or VERSION on that step: its work ends and it runs again, within REPLAY_MAX, in a new epoch; what the earlier step
has contributed is sent again under the new daymark (R223, R224; notes/assumptions/39.md). A verdict after the last replay
is kept until the earlier one has come. -/
def replayAhead (s : State) (m : Mooring) (v : Verdict) : State :=
  let id := m.desc.id
  let s2 := if m.provisional.isSome then windDown s id else s
  if m.desc.replayMax ≤ m.ahead.replays then
    modMooring s2 id (fun y => { y with
      stepOn := y.stepOn && y.provisional.isNone
      ahead := { y.ahead with verdict := some v } })
  else if !epochOpen s id then modMooring s2 id (fun y => { y with due := y.due ++ [.verdict (aheadStep m) v] })
  else
    forwardUp (modMooring (newEpoch s2 id) id (fun y => { y with
      stepOn := y.stepOn && y.provisional.isNone
      forwarded := false
      ahead := { Ahead.blank with replays := y.ahead.replays + 1, faulted := y.ahead.faulted || v.fault } })) id

/-- VERDICT_CONTRIBUTION (R212, R214): when every lantern of the share has retired its END; with FAULT or VERSION at
once, though the verdict of the step before be outstanding. -/
def execVerdictContribution (mooring : Nat) (s : State) : Host.Outcome State Fault Refusal :=
  .next (match mooringAt s mooring with
    | none => s
    | some m =>
      let v := ownVerdict s m
      let early := v.fault || v.version
      if m.desc.kind = 0 ∧ runActive m ∧ m.stepOn ∧ m.moving.isNone ∧ m.due.isEmpty then
        (if m.provisional.isSome then (if early then contributeAhead s mooring else s)
        else if early ∨ (lanternsOf s mooring).all (fun l => (lanternAt s l).endRetired) then contribute s mooring early
        else s)
      else s)

/-- A child's contribution arrives; one with FAULT or VERSION stops this module's own work on the step (R214). -/
def childVerdict (s : State) (m : Mooring) (node t : Nat) (v : Verdict) : State :=
  let id := m.desc.id
  let add (l : List (Nat × Verdict)) : List (Nat × Verdict) := l.filter (fun q => q.1 != node) ++ [(node, v)]
  if !m.due.isEmpty then s
  else if m.provisional.getD m.step = t then
    let s1 := modMooring s id (fun y => { y with children := add y.children })
    if (v.fault ∨ v.version) ∧ m.provisional.isNone then contribute s1 id true else forwardUp s1 id
  else if aheadStep m = t then
    let s1 := modMooring s id (fun y => { y with ahead := { y.ahead with children := add y.ahead.children } })
    if v.fault ∨ v.version then contributeAhead s1 id else s1
  else s

/-- The verdict that waited for the one before it is applied, where its step awaits it. -/
def applyAhead (s : State) (id : Nat) (t : Nat) (v : Option Verdict) : State :=
  match v, mooringAt s id with
  | some w, some m => if m.provisional = some t then applyVerdict s id w else s
  | _, _ => s

/-- Does a verdict on step t concern a mooring now: that of the step to be decided next, or one that has the next step run
again (R214)? -/
def concerns (m : Mooring) (t : Nat) (v : Verdict) : Bool :=
  decide (m.provisional.getD m.step = t) || (decide (aheadStep m = t) && (v.fault || v.version))

/-- The verdict on step t is applied; a module that has not contributed stops its work first (R214). -/
def applyDown (s : State) (id t : Nat) (v : Verdict) : State :=
  match mooringAt s id with
  | none => s
  | some m =>
    if !concerns m t v then s
    else if m.provisional.getD m.step = t then
      let s1 := if m.provisional.isSome then s else modMooring (windDown s id) id (fun y => { y with
        sentFlags := y.flags
        sentBad := y.bad
        provisional := some t
        step := t + 1
        stepOn := false })
      applyAhead (applyVerdict s1 id v) id (t + 1) m.ahead.verdict
    else replayAhead s m v

/-- The verdict goes down and is applied, in its turn where the daymark still waits to advance (R310, R345). -/
def verdictDown (s : State) (m : Mooring) (t : Nat) (v : Verdict) : State :=
  let id := m.desc.id
  let s1 := if concerns m t v ∨ !m.due.isEmpty then (childNodes s m).foldl (fun s n => sendVerdict s m n t v) s else s
  if m.due.isEmpty then applyDown s1 id t v else modMooring s1 id (fun y => { y with due := y.due ++ [.verdict t v] })

/-- VERDICT (R213, R214, R220, R222, R310): a verdict record arrives from a child or from the parent; at the root the
combined contributions are the verdict. -/
def execVerdict (mooring : Nat) (p : Option Packet) (s : State) : Host.Outcome State Fault Refusal :=
  .next (match p with
    | none =>
      match mooringAt s mooring with
      | none => s
      | some m =>
        if (parentNode s m).isSome ∨ !m.due.isEmpty then s
        else match combined m, m.provisional, aheadCombined m with
        | some v, some t, some w =>
          if upReady s m then verdictDown s m t v else verdictDown s m (aheadStep m) w
        | some v, some t, none => if upReady s m then verdictDown s m t v else s
        | _, _, some w => verdictDown s m (aheadStep m) w
        | _, _, none => s
    | some q =>
      if q.mooring ≠ mooring then s
      else onPacket s 0x09 q true (fun s q =>
        match mooringAt s mooring with
        | none => s
        | some m =>
          let r := verdictOf q.payload
          if parentNode s m = some q.src then verdictDown s m r.1 r.2
          else if (childNodes s m).contains q.src then childVerdict s m q.src r.1 r.2
          else s))

/-- Does node q stand under node n in the combining tree: n is met on the way from q to the root? -/
def standsUnder (s : State) (m : Mooring) (n : Nat) : Nat → Nat → Bool
  | 0, _ => false
  | fuel + 1, q =>
    decide (standsIn m.subs q = n) ||
    (match treeParent s m.desc q with
      | some r => standsUnder s m n fuel r
      | none => false)

/-- The members whose contributions the root misses: those that stand under a child that is not among those that have sent
theirs. -/
def missingMembers (s : State) (m : Mooring) (sent : List (Nat × Verdict)) : List Nat :=
  let gone := (childNodes s m).filter (fun n => !(sent.any (fun q => q.1 == n)))
  ((blockNodes s m.desc).filter (fun q => gone.any (fun n => standsUnder s m n 128 q))).map (standsIn m.subs)

/-- VERDICT_TIMER_EXPIRY (R215, R362, R363): the event; the anchor probes every member whose contribution is missing,
another member probes the anchor. The step after the one whose verdict is awaited has a timer of its own. -/
def execVerdictTimerExpiry (mooring : Nat) (s : State) : Host.Outcome State Fault Refusal :=
  .next (match mooringAt s mooring with
    | none => s
    | some m =>
      let first := m.timer && m.provisional.isSome
      if !first ∧ !m.ahead.timer then s
      else
        let s1 := raiseEvent (modMooring s mooring (fun y =>
          if first then { y with timer := false } else { y with ahead := { y.ahead with timer := false } }))
          evVerdictLate (some mooring) 0 0
        if anchorOf m = selfNode s then
          (missingMembers s m (if first then m.children else m.ahead.children)).foldl (fun s n => probeNode s mooring n) s1
        else probeNode s1 mooring (anchorOf m))

/-! ### Tender copies (R358, R359) -/

/-- TENDER_INSTALL (R358, R359): the copy kept for a position takes its staged refresh; when all kept copies of this module and
of those under it stand at that step, its parent hears of it. -/
def execTenderInstall (mooring kept : Nat) (s : State) : Host.Outcome State Fault Refusal :=
  .next (match mooringAt s mooring with
    | none => s
    | some m =>
      match m.tender.find? (fun c => c.pos == kept), bundleAt s m.bundle with
      | some c, some b => if c.staged.isSome then reportCopies (installCopy s m b.p c) mooring else s
      | _, _ => s)

/-- All copies of the last commit are installed: undo copies are released, held updates go on (R359). -/
def announceHere (s : State) (id t : Nat) : State :=
  match mooringAt s id with
  | none => s
  | some m =>
    if m.announced ∨ copyStep m ≠ t then s
    else
      let s1 := modMooring s id (fun y => { releaseUndo y with announced := true, installedBy := [] })
      { s1 with lanterns := s1.lanterns.map (fun x => if x.mooring = some id then { x with updHold := false } else x) }

/-- TENDER_ANNOUNCE (R359): the root announces that every member's kept copies are installed. -/
def execTenderAnnounce (mooring : Nat) (s : State) : Host.Outcome State Fault Refusal :=
  .next (match mooringAt s mooring with
    | none => s
    | some m =>
      if (parentNode s m).isNone ∧ !m.announced ∧ m.reported then
        announceHere (tellNodes s (.tenderAnnounced mooring (copyStep m)) (otherMembers s m)) mooring (copyStep m)
      else s)

/-! ### Serving steps (R343, R474) -/

/-- The lanterns of a serving mooring start on the next step; the step in hand is over here. -/
def servingOver (s : State) (id : Nat) (fault : Bool) : State :=
  match mooringAt s id with
  | none => s
  | some m =>
    if fault then
      modMooring (windDown s id) id (fun y => { y with
        stepOn := false
        contrib := none
        ends := []
        replays := y.replays + 1
        faulted := true })
    else
      modMooring s id (fun y => { y with
        step := y.step + 1
        stepOn := false
        contrib := none
        ends := []
        committed := some m.step
        decided := y.decided + 1
        runCommitted := y.runCommitted + 1
        replays := 0
        faulted := false })

/-- A member hears how a serving step has ended: the next one starts, or it runs again within the limit. -/
def servingHeard (s : State) (id step : Nat) (fault : Bool) : State :=
  match mooringAt s id with
  | none => s
  | some m =>
    if m.step ≠ step then s
    else if fault then
      (if m.desc.replayMax ≤ m.replays then endRun (servingOver s id true) id stReplayLimit else servingOver s id true)
    else endIfDone (servingOver s id false) id step

/-- The anchor knows of every member's end of the step: its record, or another run of it within the limit. -/
def servingDecide (s : State) (id : Nat) : State :=
  match mooringAt s id with
  | none => s
  | some m =>
    match m.contrib with
    | none => s
    | some own =>
      let fault := own.fault || m.ends.any (fun q => q.2.2.2)
      let flags := m.ends.foldl (fun f q => f ||| q.2.1) m.flags
      let bad := m.bad || m.ends.any (fun q => q.2.2.1)
      if !((otherMembers s m).all (fun n => m.ends.any (fun q => q.1 == n))) then s
      else
        let s1 := tellNodes s (.servingDecided id m.step fault) (otherMembers s m)
        if fault then
          (if m.desc.replayMax ≤ m.replays then
            let s2 := runRecord s1 id stReplayLimit (recordFlags flags bad true (flags.getLsbD flInx)) m.step
            let s3 := modMooring (servingOver s2 id true) id (fun y => { y with step := m.step + 1, decided := y.decided + 1 })
            atBoundary (endRun s3 id stReplayLimit) id
          else atBoundary (askFaults (servingOver s1 id true) id) id)
        else
          let s2 := runRecord (servingOver s1 id false) id stSuccess (recordFlags flags bad m.faulted (flags.getLsbD flInx)) m.step
          leaveReached (atBoundary (endIfDone (tellSlot s2 id) id m.step) id) id

/-- A member's word on its end of a serving step, which this module may not have started yet (R474). -/
def servingEnded (s : State) (id node step : Nat) (flags : BitVec 16) (bad fault : Bool) : State :=
  match mooringAt s id with
  | none => s
  | some m =>
    if m.step ≠ step then s
    else
      servingDecide (modMooring s id (fun y => { y with
        ends := y.ends.filter (fun q => q.1 != node) ++ [(node, flags, bad, fault)] })) id

/-- SERVING_STEP_END (R343, R474): every lantern has retired its END, or a fault has stopped one. -/
def execServingStepEnd (mooring : Nat) (s : State) : Host.Outcome State Fault Refusal :=
  .next (match mooringAt s mooring with
    | none => s
    | some m =>
      let fault := (lanternsOf s mooring).any (fun l => (lanternAt s l).fault) || m.gathered.fault
      if m.desc.kind = 1 ∧ runActive m ∧ m.stepOn ∧ m.contrib.isNone ∧
          (fault ∨ (lanternsOf s mooring).all (fun l => (lanternAt s l).endRetired)) then
        let s1 := modMooring s mooring (fun y => { y with contrib := some { Verdict.blank 0 with fault := fault } })
        if anchorOf m = selfNode s then servingDecide s1 mooring
        else tellNode s1 (anchorOf m) (.servingEnd mooring (selfNode s) m.step m.flags.toNat m.bad fault)
      else s)

/-! ### Collective packets (R265, R290, R294, R304, R358) -/

/-- REPLICA of a collective packet: 0xFF a permute, 0xFE a refresh, else a replica's data. -/
def replicaField (p : Packet) : Nat := bits p.arg 35 28

/-- The position whose copy a refresh packet is for. -/
def copyPos (s : State) (p : Packet) : Nat := positionOf (((mooringAt s p.mooring).map (·.subs)).getD []) p.src

/-- Can this module take a collective packet now? -/
def collPacketRoom (s : State) (p : Packet) : Bool :=
  if replicaField p = 0xFF then ((mooringAt s p.mooring).map (fun m => m.moving.isSome)).getD true
  else if replicaField p = 0xFE then
    ((mooringAt s p.mooring).map (fun m => m.tender.all (fun c => decide (c.pos ≠ copyPos s p) || c.staged.isNone))).getD true
  else collRoom s p

/-- What a collective packet does where it is delivered. -/
def takeCollPacket (s : State) (p : Packet) : State :=
  if replicaField p < 0xFE then deliverColl s p
  else match mooringAt s p.mooring with
    | none => s
    | some m =>
      match bundleAt s m.bundle with
      | none => s
      | some b =>
        if replicaField p = 0xFF then permuteArrive s m b.p p
        else match m.tender.find? (fun c => decide (c.pos = copyPos s p)) with
          | some c => stageRefresh s m b.p c p
          | none => s

/-- COLL_PACKET (R290, R294, R304, R358). -/
def execCollPacket (p : Packet) (s : State) : Host.Outcome State Fault Refusal :=
  .next (onPacket s 0x08 p (collPacketRoom s p) takeCollPacket)

end Sys2Proof.Machine
end

