-- ==== Sys2Proof/Machine/Faults.lean ====
section
/-! DEFINITION. Machine/Faults.lean: the beacon watch and fog signals, the ends of compute resets and their hang limits,
targeted tests, retirement and repair of memory, scrubs, corrected-error bursts, access faults of guests, host-window
errors (R91, R136, R142, R143, R188, R337 to R350, R352 to R354, R370). -/

namespace Sys2Proof.Machine

/-! ### The beacon watch (R337 to R340) -/

/-- Does a lantern's engine have work in hand: 0 lens, 1 vector, 2 DMA with the collective engine (R337)? -/
def engineBusy (x : Lantern) (i : Nat) : Bool :=
  if i = 0 then !x.lensQ.isEmpty
  else if i = 1 then x.vec.cur.isSome || !x.bindQ.isEmpty
  else x.dma.any (fun c => !c.queue.isEmpty || c.flights.any (fun f => !f.bad)) || !x.coll.isEmpty

/-- Does a channel wait on something outside the lantern: a WAIT, or a carrier-peer response (R339)? -/
def chanWaits (c : DmaChan) : Bool := c.waiting || c.flights.any (fun f => !f.tags.isEmpty)

/-- Does an engine that stands wait on something outside the lantern (R339)? -/
def engineWaits (x : Lantern) (i : Nat) : Bool :=
  if i = 0 then false
  else if i = 1 then x.vec.loadQ.any (fun d => !d.tags.isEmpty) || !x.vec.peerTags.isEmpty
  else x.dma.all (fun c => (c.queue.isEmpty && c.flights.all (·.bad)) || chanWaits c) && x.coll.all (fun c => decide (0 < c.due))

/-- Is the watch of a lantern running (R338): it works for a mooring's step, in no reset, test or hold, and its END has
not retired? -/
def watched (s : State) (l : Nat) : Bool :=
  let x := lanternAt s l
  x.phys.isSome && x.running && !x.endRetired && !x.holding && !x.updHold && !x.rst.active && !(towerAt s (l / 48)).rst.active

/-- Has counter i of a lantern stood since the last sample while its engine had work? -/
def standing (x : Lantern) (i : Nat) : Bool := engineBusy x i && decide (x.beacon.getD i 0 = x.sampled.getD i 0)

/-- One sample of a lantern's counters and of its schedule WAIT. -/
def sampleLantern (x : Lantern) : Lantern :=
  let moved := [0, 1, 2].any (fun i => decide (x.beacon.getD i 0 ≠ x.sampled.getD i 0))
  let next (i : Nat) : Nat := if standing x i then x.still.getD i 0 + 1 else 0
  { x with
    sampled := x.beacon
    still := [next 0, next 1, next 2, if x.waiting && !moved then x.still.getD 3 0 + 1 else 0]
    waits := [0, 1, 2].map (fun i => if standing x i && engineWaits x i then x.waits.getD i 0 + 1 else 0) }

/-- Has every engine that has stood at all eight samples waited on something outside at every one of them (R339)? -/
def onlyWaits (x : Lantern) : Bool := [0, 1, 2].all (fun i => decide (x.still.getD i 0 < 8) || decide (8 ≤ x.waits.getD i 0))

/-- A fog signal (R339, R340): WAIT sets the fault flag; ENGINE also starts a compute reset with a targeted test. -/
def fogSignal (s : State) (l : Nat) (wait : Bool) : State :=
  let x := lanternAt s l
  let mask := sumNat ([0, 1, 2].map (fun i => 2 ^ i * b2n (decide (8 ≤ x.still.getD i 0))))
  let s1 := bumpLantern (modLantern s l (fun y => { y with
    fault := true
    still := [0, 0, 0, 0]
    waits := [0, 0, 0] })) l (if wait then 0 else 1)
  let s2 := lanternEvent s1 evFog l l (if wait then 0 else 1)
    [mask, (x.sched[x.pc]?.map (·.slot)).getD 0, x.pc]
  if wait then s2 else startLanternReset s2 l true

/-- BEACON_SAMPLE (R338): each eighth of the beacon window. -/
def execBeaconSample (l : Nat) (s : State) : Host.Outcome State Fault Refusal :=
  .next (
    if !watched s l then modLantern s l (fun x => { x with
      sampled := x.beacon
      still := [0, 0, 0, 0]
      waits := [0, 0, 0] })
    else
      let s1 := modLantern s l sampleLantern
      let x := lanternAt s1 l
      if x.still.any (fun n => decide (8 ≤ n)) then fogSignal s1 l (onlyWaits x) else s1)

/-! ### Compute resets (R342, R343, R352) -/

/-- A tower's lanterns whose targeted test has not ended. -/
def towerTesting (s : State) (t : Nat) : Bool := (towerLanterns t).any (fun l => (lanternAt s l).rst.test)

/-- Phase 6 of a tower reset. -/
def releaseTower (s : State) (t : Nat) : State :=
  (towerLanterns t).foldl releaseLantern (modTower s t (fun x => { x with rst := ⟨false, 0, false, false⟩ }))

/-- The node that awaits the handling of a mooring's fault here hears that it is over (R227). -/
def tellHandled (s : State) (id : Nat) : State :=
  match (mooringAt s id).bind (·.handlingFor) with
  | none => s
  | some n =>
    if resetInHand s id then s
    else tellNode (modMooring s id (fun m => { m with handlingFor := none })) n (.faultDone id (selfNode s))

/-- The fault's handling is over where a unit takes work again: commands that waited for it are performed, here or where this
module's word is awaited (R227). -/
def faultHandled (s : State) : State :=
  let t := (s.moorings.filter (fun m => m.handlingFor.isSome)).foldl (fun s m => tellHandled s m.desc.id) s
  (s.moorings.filter (fun m => m.paused && m.faulted)).foldl (fun s m => atBoundary s m.desc.id) t

/-- A member has handled its fault (R227). -/
def handledAt (s : State) (id node : Nat) : State :=
  match mooringAt s id with
  | none => s
  | some m =>
    if !m.handling.contains node then s
    else atBoundary (modMooring s id (fun y => { y with handling := y.handling.filter (fun n => n != node) })) id

/-- Does a unit's reset still wait for a daymark to advance (R342 phase 2, R345)? -/
def advanceWaits (s : State) : ResetUnit → Bool
  | .lantern l => s.keeper.owed.contains (.lantern l)
  | .tower t => s.keeper.owed.contains (.tower t) || (towerLanterns t).any (fun l => s.keeper.owed.contains (.lantern l))

/-- COMPUTE_RESET_DONE (R342 phases 4 to 6): the unit is cleared and takes work again, unless it is held, under test, waits for
its daymark, or its tower is in reset. -/
def execComputeResetDone (u : ResetUnit) (s : State) : Host.Outcome State Fault Refusal :=
  .next (match u with
    | .lantern l =>
      let r := (lanternAt s l).rst
      if r.active ∧ !r.test ∧ !r.held ∧ !(towerAt s (l / 48)).rst.active ∧ !advanceWaits s u then faultHandled (releaseLantern s l) else s
    | .tower t =>
      let r := (towerAt s t).rst
      if r.active ∧ !r.held ∧ !towerTesting s t ∧ !advanceWaits s u then faultHandled (releaseTower s t) else s)

/-- RESET_HANG_LIMIT (R352): a lantern reset goes over into a tower reset; a tower reset puts the module into router-only
mode, the tower held. The time of a test does not count (R342). -/
def execResetHangLimit (u : ResetUnit) (s : State) : Host.Outcome State Fault Refusal :=
  .next (match u with
    | .lantern l =>
      let r := (lanternAt s l).rst
      if r.active ∧ !r.test ∧ !r.held ∧ !(towerAt s (l / 48)).rst.active then
        startTowerReset (bumpLantern (bumpLantern s l 8) l 3) (l / 48)
      else s
    | .tower t =>
      let r := (towerAt s t).rst
      if r.active ∧ !r.held ∧ !towerTesting s t then
        enterRouterOnly (modTower s t (fun x => { x with
          escalations := x.escalations + 1
          rst := { x.rst with held := true } }))
      else s)

/-! ### Targeted tests (R348, R349, R350) -/

/-- Index of a part for an event's UNIT. -/
def partUnit : Part → Nat
  | .lantern l => l
  | .storeBank l _ => l
  | .accArray l => l
  | .gradArray l => l
  | .sramSub t _ => t
  | .dram a => if a < 0x6000000000 then 0 else 1
  | .port p => p
  | .device d => d

/-- What more a part's events say. -/
def partDetail : Part → Nat
  | .storeBank _ b => b
  | .sramSub _ k => k
  | .dram a => a / 4096
  | _ => 0

/-- The ECC counters that the tests of a part count in. -/
def partEcc : Part → Option EccUnit
  | .storeBank l b => some (.bank l b)
  | .accArray l => some (.acc l)
  | .gradArray l => some (.grad l)
  | .sramSub t k => some (.sram t k)
  | .dram a => some (eccUnitOf a)
  | .device d => some (.device d)
  | _ => none

/-- The counter of a lantern's transients of a part's test (R368). -/
def transientCounter : Part → Nat
  | .storeBank _ _ => 9
  | .accArray _ => 10
  | .gradArray _ => 11
  | _ => 7

/-- Is a part tested while its lantern is held in compute reset (R348)? -/
def testedInReset : Part → Bool
  | .lantern _ => true
  | .accArray _ => true
  | .gradArray _ => true
  | _ => false

/-- A pass counts toward the transient limit; is the failure lasting at this pass (R349, R354)? -/
def notePass (s : State) (p : Part) : State × Bool :=
  let w := s.keeper.policy.transientWin * 1000
  let s1 := modKeeper s (fun k => { k with transients := k.transients.filter (fun q => decide (nowNs s < q.2 + w)) ++ [(p, nowNs s)] })
  (s1, decide (s.keeper.policy.transient ≤ (s1.keeper.transients.filter (fun q => q.1 == p)).length))

/-- A lantern that is to be retired is held in compute reset first (R10). -/
def retireHeld (s : State) (l : Nat) : State :=
  retireLantern (if (lanternAt s l).rst.active then s else stopLantern s l) l

/-- A spare line takes the place of one failing line; without one the module leaves service (R350). -/
def spareLine (s : State) (t sub : Nat) : State :=
  let k := 64 * t + sub / 48
  let used := (((configRec s).spareLines.find? (fun q => q.1 == k)).map (·.2)).getD 0
  if 256 ≤ used then leaveAtBoundary s
  else raiseEventP (setConfig s (fun r => { r with
    spareLines := r.spareLines.filter (fun q => q.1 != k) ++ [(k, used + 1)] })) evRepair t sub

/-- A spare page takes the place of a failing one; without one the module leaves service (R350). -/
def sparePage (s : State) (a : Nat) : State :=
  let half := decide (a < 0x6000000000)
  let used := ((configRec s).pageRemap.filter (fun n => decide (n * 4096 < 0x6000000000) == half)).length
  if 65536 ≤ used then enterRouterOnly s
  else raiseEventP (bumpModule (setConfig s (fun r => { r with pageRemap := r.pageRemap ++ [a / 4096] })) (if half then 2 else 3) 1)
    evRepair (partUnit (.dram a)) (a / 4096)

/-- A lasting failure of a part, with the lines of bonded SRAM or the pages of LPDDR5X that failed; where none is named, one of
it (R350). A whole device of LPDDR5X takes the module out of service. -/
def repair (s : State) (places : List Nat) : Part → State
  | .sramSub t sub => (if places.isEmpty then [0] else distinct places).foldl (fun s _ => spareLine s t sub) s
  | .dram a => (if places.isEmpty then [a] else (distinct (places.map (fun b => b / 4096))).map (fun n => n * 4096)).foldl sparePage s
  | .device _ => enterRouterOnly s
  | .lantern l => retireHeld s l
  | .storeBank l _ => retireHeld s l
  | .accArray l => retireHeld s l
  | .gradArray l => retireHeld s l
  | .port _ => s

/-- The test of a part is over: its lantern goes on to phase 5 of its reset; what was copied to staging is restored, and the
unit's accesses go on (R342, R348). -/
def endTest (s : State) (p : Part) : State :=
  if testedInReset p then
    match partLantern p with
    | some l => modLantern s l (fun x => { x with rst := { x.rst with test := false } })
    | none => s
  else modKeeper s (fun k => { k with tests := k.tests.filter (fun q => q != p) })

/-- The counters of a test: logic BIST by lantern, MBIST and pattern tests by unit (R368). -/
def countTest (s : State) (p : Part) (pass : Bool) : State :=
  match partEcc p with
  | some u => bumpEcc (bumpEcc s u 2 1) u (if pass then 3 else 4) 1
  | none =>
    match partLantern p with
    | some l => bumpLantern (bumpLantern s l 4) l (if pass then 5 else 6)
    | none => s

/-- Is there such a part here? -/
def partThere (s : State) (p : Part) : Bool :=
  match p with
  | .sramSub t k => decide (t < 4) && decide (k < 3072)
  | .dram a => decide (a < 0xC000000000)
  | .port q => decide (q < 8)
  | .storeBank l b => (lanternAt s l).phys.isSome && decide (b < 32)
  | .lantern l => (lanternAt s l).phys.isSome
  | .accArray l => (lanternAt s l).phys.isSome
  | .gradArray l => (lanternAt s l).phys.isSome
  | .device d => decide (d < 24)

/-- Can the test of a part end now: has it begun (R348)? A port is tested within its training. -/
def testable (s : State) (p : Part) : Bool :=
  partThere s p &&
  (if testedInReset p then ((partLantern p).map (fun l => (lanternAt s l).rst.test)).getD false
   else match p with
    | .port _ => true
    | _ => s.keeper.tests.contains p)

/-- The domain that an event about a part names outside a mooring (R387). -/
def partDomain (p : Part) : Domain :=
  match partLantern p with
  | some l => .lantern l
  | none => .keeper

/-- TARGETED_TEST_RESULT (R349, R350): a pass counts as a transient, up to the limit; a fail, or an error during the test,
is lasting. -/
def execTargetedTestResult (p : Part) (r : TestResult) (s : State) : Host.Outcome State Fault Refusal :=
  .next (
    if !testable s p then s
    else
      let pass := decide (r = .pass)
      let s1 := endTest (countTest s p pass) p
      let s2 := raiseEventIn s1 (partDomain p) evSelfTest none (partUnit p) (match r with
        | .pass => 0
        | .fail _ => 1
        | .errorDuring => 2) [partDetail p]
      if !pass then repair s2 (match r with
        | .fail places => places
        | _ => []) p
      else
        let q := notePass s2 p
        let s3 := match partLantern p with
          | some l => bumpLantern q.1 l (transientCounter p)
          | none => q.1
        if q.2 then repair s3 [] p else s3)

/-! ### Memory errors (R142, R143, R348, R354) -/

/-- An error of a part is followed by a test of it (R348): of one that keeps its lantern in compute reset as such a reset, of
another beside its use. -/
def testPart (s : State) (p : Part) : State :=
  match partLantern p with
  | some l => if testedInReset p then startLanternReset s l true else startTest s p
  | none => startTest s p

/-- The mooring to which a line of memory belongs (R388). -/
def lineMooring (s : State) (a : Nat) : Option Nat :=
  match regionOf a with
  | some .store => lanternMooring s (bits a 47 40)
  | _ => (s.moorings.find? (fun m => m.place.regions.any (fun r => decide (r.1 ≤ a) && decide (a < r.1 + r.2)))).map (·.desc.id)

/-- The index of a unit for an event. -/
def eccIndex : EccUnit → Nat
  | .bank l _ => l
  | .acc l => l
  | .grad l => l
  | .sram t _ => t
  | .device d => d
  | .flash d => d

/-- Is an address one of a tier that is scrubbed, and there? -/
def scrubbed (s : State) (a : Nat) : Bool :=
  match regionOf a with
  | some r => (r == .lpddr || r == .sram || r == .store) && decide (bits a 63 56 = 0) && inRange r a 1 &&
      (r != .store || enabledLantern s (bits a 47 40))
  | none => false

/-- Set bits of a tag. -/
def setTagBits (t : Table (BitVec 48)) (key : Nat) (b : BitVec 48) : Table (BitVec 48) :=
  tput emptyTag t key (tget emptyTag t key ||| b)

/-- An uncorrectable error in a data word or its tag sets OVF of every entry that the word can serve in any format (R91). -/
def overflowWord (x : Lantern) (grad : Bool) (w c : Nat) : Lantern :=
  let o := BitVec.ofNat 48 (2 ^ 42)
  if grad then { x with gradTag := setTagBits x.gradTag (accKey w c) o }
  else
    let t := setTagBits x.accTag (accKey w c) (o ||| BitVec.ofNat 48 (2 ^ 18))
    { x with accTag := if w % 2 = 1 then setTagBits t (accKey (w - 1) c) o else t }

/-- Is a word there: bank words 0 to 1,023, gradient entries 0 to 1,023, columns 0 to 127 (R87)? -/
def accWordOk (s : State) (l w c : Nat) : Bool :=
  (lanternAt s l).phys.isSome && decide (w < 1024) && decide (c < 128)

/-- MEMORY_SCRUB (R91, R142, R143): corrected errors are counted; an uncorrectable line is poisoned, counted and reported
once, when it is found; an uncorrectable accumulator word overflows its entries, is reported, sets the fault flag, and its
array is tested in compute reset (R348); a late scrub is counted. -/
def execMemoryScrub (place : ScrubPlace) (found : ScrubFound) (s : State) : Host.Outcome State Fault Refusal :=
  .next (match place, found with
    | .line a, .corrected n => if scrubbed s a && decide (0 < n) then bumpEcc s (eccUnitOf a) 0 n else s
    | .line a, .uncorrectable =>
      if !scrubbed s a then s
      else
        let s1 := bumpEcc s (eccUnitOf a) 1 1
        if s.poison.contains (lineOf a) then s1
        else
          let s2 := raiseEventIn (addPoison s1 a) (partDomain (partOfLine a)) evEcc (lineMooring s a) (eccIndex (eccUnitOf a)) (lineOf a / 64) []
          testPart s2 (partOfLine a)
    | .accWord l g w c, .corrected n =>
      if accWordOk s l w c && decide (0 < n) then bumpEcc s (if g then .grad l else .acc l) 0 n else s
    | .accWord l g w c, .uncorrectable =>
      if !accWordOk s l w c then s
      else
        let s1 := bumpEcc (modLantern (setFault s l) l (fun x => overflowWord x g w c)) (if g then .grad l else .acc l) 1 1
        testPart (lanternEvent s1 evEcc l l w []) (if g then .gradArray l else .accArray l)
    | .bank l b, .corrected n =>
      if (lanternAt s l).phys.isSome && decide (b < 32) && decide (0 < n) then bumpEcc s (.bank l b) 0 n else s
    | .bank l b, .late =>
      if (lanternAt s l).phys.isSome && decide (b < 32) then modKeeper s (fun k => { k with lateScrubs := k.lateScrubs + 1 })
      else s
    | .bank _ _, .uncorrectable => s
    | .line _, .late => s
    | .accWord _ _ _ _, .late => s)

/-- CORRECTED_ECC_BURST (R348, R354): the errors are counted and the unit is tested; an accumulator array or a gradient
buffer while its lantern is held in compute reset. -/
def execCorrectedEccBurst (p : Part) (s : State) : Host.Outcome State Fault Refusal :=
  .next (match partEcc p with
    | none => s
    | some u =>
      if partThere s p then testPart (bumpEcc s u 0 s.keeper.policy.eccBurst) p else s)

/-! ### Errors that reach an engine or a guest -/

/-- SHORE_ACCESS_FAULT (R22, R143, R370, R396): an access of a guest outside its mapping, or of a poisoned line, is delivered to
it as a fault; the poisoned line is counted and reported. Its register block is no such place. -/
def execShoreAccessFault (core addr : Nat) (s : State) : Host.Outcome State Fault Refusal :=
  .next (
    let x := s.shore.getD core ShoreCore.reset
    let fault (s : State) : State := modShore s core (fun y => { y with faults := addr :: y.faults })
    if !x.running ∨ (shoreBlock ≤ addr ∧ addr < shoreBlock + 0x10000) then s
    else if !x.maps.any (fun w => decide (w.1 ≤ addr) && decide (addr < w.1 + w.2)) then fault s
    else match checkAddr s (.shore core) addr 1 false with
      | some (.mem a) => if isPoisoned s a 1 then fault (notePoisonLine s x.lent core (lineOf a)) else s
      | _ => s)

/-- The host-window pieces of a store, by host address. -/
def hostPieces (s : State) (l : Nat) (ps : List (Nat × List Byte)) : List (Nat × List Byte) :=
  ps.filterMap (fun p => match checkAddr s (vecCtx s l) p.1 p.2.length true with
    | some (.host i off) => (hwinAt s i).map (fun h => (h.addr + off, p.2))
    | _ => none)

/-- The first queued store of lantern l that goes to a host window fails there (R136): each 64-byte piece stays old or
becomes new, and the failure is an address error of its instruction; its other pieces are performed. -/
def hostStoreFails (s : State) (l : Nat) : State :=
  match (lanternAt s l).vec.storeQ.find? (fun st => !(hostPieces s l st.pieces).isEmpty) with
  | none => s
  | some st =>
    let hs := hostPieces s l st.pieces
    let s1 := modVec s l (fun v => { v with storeQ := v.storeQ.erase st })
    let s2 := (st.pieces.filter (fun p => (hostPieces s l [p]).isEmpty)).foldl (fun s p => performPieceAt s l st.row st.index p) s1
    let r := openCells s2 (hs.flatMap (fun p => cellsAt p.1 p.2))
    vecAddrErrorAt (r.1.foldl (fun s c => hostWrite s c.1 [c.2]) r.2) l causeHost st.row st.index

/-- HOST_WINDOW_ERROR (R136, R188): a host-window access of a channel fails; an access of the vector engine that fails at
its target makes its lanes SAT. -/
def execHostWindowError (e : EngineRef) (s : State) : Host.Outcome State Fault Refusal :=
  .next (match e with
    | .dma c => dmaHostError s c
    | .vector l =>
      match (lanternAt s l).vec.loadQ with
      | [] => hostStoreFails s l
      | ld :: _ =>
        if ld.fail then s
        else vecAddrErrorAt (modVec s l (fun v => { v with loadQ := v.loadQ.modify 0 (fun d => { d with fail := true }) })) l
          causeHost (lanternAt s l).vec.row ld.index)

end Sys2Proof.Machine
end

