-- ==== Sys2Proof/Machine/Members.lean ====
section
/-! DEFINITION. Machine/Members.lean: probes, lost members, election, recovery, lightships, the light list (R274 to R276,
R313, R314, R332, R334, R335, R359, R361 to R365). -/

namespace Sys2Proof.Machine

/-! ### What a module answers to a probe (R355, R356, R362, R364) -/

/-- This module's answer: out of service in router-only mode, its mooring daymark, or free (R356). A module that another
mooring holds, or that is not at full light, is none that may be adopted (R334). -/
def probeAnswerHere (s : State) (id : Nat) : ProbeAnswer :=
  if s.boot.state = 3 then .outOfService
  else match mooringAt s id with
    | some m => .daymark m.daymark
    | none => if s.moorings.isEmpty ∧ s.boot.state = 2 then .free else .outOfService

/-! ### Where copies are (R331, R357, R359) -/

/-- The map on which a loss is recovered: the old one until the first commit of a new epoch (R331). -/
def recoveryMap (m : Mooring) : MDesc × List (Nat × Nat) :=
  match m.oldMap with
  | some (.map d subs _ _) => (d, subs)
  | _ => (m.desc, m.subs)

/-- Members whose adoption under way is not over, as the map in force names them, with the nodes that keep the copies of
those whose places they take. -/
def joiningNow (m : Mooring) : List (Nat × Nat) :=
  match m.moving with
  | some v =>
    if v.why ≠ 0 then [] else
    (match v.source with
    | .map _ subs _ _ =>
      let was := (v.was.map (·.subs)).getD subs
      (m.subs.filter (fun q => !was.contains q)).map (fun q => (q.2,
        ((v.lost.find? (fun x => positionOf subs x.1 == q.1 || positionOf was x.1 == q.1)).map (·.2)).getD q.2))
    | .snapshot _ => [])
  | none => []

/-- Is a member lost, and its recovery not over? -/
def lostAlready (m : Mooring) (node : Nat) : Bool :=
  m.lostNodes.any (fun q => q.1 == node) || m.recovering.any (fun q => q.1 == node) || m.asking.any (fun q => q.1 == node)

/-- The member that keeps a lost member's copy, is not lost itself and is not still joining. A member that was not on the old
map needs no copy while that is in force: its pieces come from those that held them (R331). -/
def holderOf (s : State) (m : Mooring) (node : Nat) : Option Nat :=
  let q := recoveryMap m
  if m.oldMap.isSome ∧ !(nodesOn s q.1 q.2).contains node then some (selfNode s)
  else (((keepersOf s q.1 (positionOf q.2 node)).map (standsIn q.2)).filter (fun n =>
    n != node && !lostAlready m n && (joiningNow m).all (fun x => x.1 != n) && m.oldLost.all (fun x => x.1 != n))).head?

/-- The losses whose copy a node kept while their recovery or the adoption in their place was not over (R361). -/
def orphansOf (m : Mooring) (node : Nat) : List Nat :=
  (m.recovering.filter (fun q => q.2.1 == node)).map (·.1) ++ (m.asking.filter (fun q => q.2 == node)).map (·.1) ++
  ((joiningNow m).filter (fun q => q.2 == node && (m.moving.map (fun v => !v.doneBy.contains q.1)).getD false)).map (·.1)

/-- The tender point of the copy that this module keeps of a member (R358). -/
def pointHere (m : Mooring) (node : Nat) : Option Nat :=
  (m.tender.find? (fun c => decide (c.pos = positionOf m.subs node))).bind (·.point)

/-- Step c, committed but not in every copy, is undone and will run again (R240, R364 step 4). -/
def undoCommitted (s : State) (id c : Nat) : State :=
  openWindows (modMooring (undoUpdate s id c) id (fun y =>
    match y.before with
    | some b =>
      if y.committed ≠ some c then y
      else { y with
        committed := b.committed
        refStep := b.refStep
        lscale := b.lscale
        clean := b.clean
        ladders := b.ladders
        readable := y.readable.filter (fun t => t != c)
        before := none
        rerun := some c
        step := c
        stepOn := false
        provisional := none
        ahead := Ahead.blank
        announced := true
        installedBy := [] }
    | none => y)) id

/-! ### Bypass and redirect (R276, R365) -/

/-- The neighbours of a node in the torus. -/
def neighboursOf (s : State) (n : Nat) : List Nat :=
  let c := coordsOf n
  distinct ((List.range 4).flatMap (fun a =>
    let k := s.boot.sizes.getD a 1
    if k < 2 then [] else [nodeOf (setAt c a ((c.getD a 0 + 1) % k)), nodeOf (setAt c a ((c.getD a 0 + k - 1) % k))]))

/-- Every neighbour of a lost node bypasses it (R364 step 1). -/
def bypassAround (s : State) (n : Nat) : State :=
  let ns := neighboursOf s n
  let s1 := tellNodes s (.bypass n) ns
  if ns.contains (selfNode s) then bypassNode s1 n else s1

/-- The modules of a node's carrier. -/
def carrierOf (s : State) (n : Nat) : List Nat :=
  (List.range (s.boot.sizes.getD 0 1)).map (fun w => nodeOf (setAt (coordsOf n) 0 w))

/-- Carrier-peer traffic around a lightship (R365): a module of the lost member's carrier sends requests for it to the
lightship; the lightship sends its own to that carrier. -/
def redirectHere (s : State) (lost ship : Nat) : State :=
  if ship = selfNode s then
    let own := carrierOf s ship
    let to_ (n : Nat) : Nat :=
      let t := nodeOf (setAt (coordsOf lost) 0 ((coordsOf n).getD 0 0))
      if t = lost then ship else t
    let rs := s.router.redirect.filter (fun q => !own.contains q.1) ++ own.map (fun n => (n, to_ n))
    modRouter s (fun r => { r with redirect := rs })
  else if (carrierOf s lost).contains (selfNode s) then
    modRouter s (fun r => { r with redirect := r.redirect.filter (fun q => q.1 != lost) ++ [(lost, ship)] })
  else s

def redirectAround (s : State) (lost ship : Nat) : State :=
  redirectHere (tellNodes s (.redirect lost ship) (distinct ((carrierOf s lost).filter (fun n => n != lost) ++ [ship]))) lost ship

/-! ### The end of a recovery (R335, R361, R364) -/

/-- The run of a mooring stops here with a status; with no run the epoch changes all the same (R364 step 5), once the daymark
may advance (R345). -/
def stopHere (s : State) (id status : Nat) : State :=
  match mooringAt s id with
  | none => s
  | some m =>
    if runActive m then breakRun s id status
    else if epochOpen s id then newEpoch (windDown s id) id
    else deferEpoch s id (.stop status)

/-- An adoption in hand is given up: the map before it is in force again, its lightships are released (R305, R335). -/
def giveUpAdoption (s : State) (id : Nat) : State :=
  match mooringAt s id with
  | none => s
  | some m =>
    match m.moving with
    | none => s
    | some v => if v.why ≠ 0 then s else oldMapHere (tellNodes s (.oldMap id) (movers s m v)) id

/-- The run stops everywhere; the lost members stay out until a shrink or a move (R335, R361). -/
def stopForLoss (s : State) (id status : Nat) (lost : List (Nat × Nat)) : State :=
  let before := ((mooringAt s id).bind (·.moving)).map (fun v => if v.why = 0 then v.lost else [])
  let s0 := giveUpAdoption s id
  match mooringAt s0 id with
  | none => s0
  | some m =>
    let gone := (before.getD [] ++ lost).filter (fun q => (membersOf s0 m).contains q.1)
    let s1 := tellNodes s0 (.stopRun id status) ((otherMembers s0 m).filter (fun n => gone.all (fun q => q.1 != n)))
    modMooring (stopHere s1 id status) id (fun y => { y with
      lostNodes := y.lostNodes ++ gone.filter (fun q => y.lostNodes.all (fun x => x.1 != q.1))
      recovering := []
      asking := []
      ships := [] })

/-- Adopt the lightships found for every lost member (R335), once the daymark may advance (R345): the new map is sent, the run
goes on from the tender point. -/
def adoptAll (s : State) (id : Nat) : State :=
  match mooringAt s id with
  | none => s
  | some m =>
    let found := m.recovering.filterMap (fun q => q.2.2.map (fun n => (q.1, q.2.1, n)))
    let gone := found.map (fun q => positionOf m.subs q.1)
    let subs := m.subs.filter (fun q => !gone.contains q.1) ++ found.map (fun q => (positionOf m.subs q.1, q.2.2))
    let busy := (joiningNow m).filter (fun q => found.all (fun x => x.1 != q.1))
    let lost := lostOn m 0 (busy ++ found.map (fun q => (q.1, q.2.1)))
    if !epochOpen s id then deferEpoch s id .adopt else
    let s1 := modMooring s id (fun y => { y with
      step := y.provisional.getD y.step
      recovering := []
      ships := [] })
    let s2 := spreadMap s1 id 0 (mdescBytes m.desc) subs lost m.told
    found.foldl (fun s q => redirectAround (raiseEvent (bumpModule s 8 1) evLightship (some id) 0 q.2.2) q.1 q.2.2) s2

/-- Ask the next listed lightship; when every loss has one, adopt; when none is left, the run stops (R335). -/
def seekLightship (s : State) (id : Nat) : State :=
  match mooringAt s id with
  | none => s
  | some m =>
    if m.recovering.isEmpty then s
    else if m.recovering.all (fun q => q.2.2.isSome) then (if m.asking.isEmpty then adoptAll s id else s)
    else match m.ships with
      | n :: _ => probeNode s id n
      | [] => stopForLoss s id stFault (m.recovering.map (fun q => (q.1, q.2.1)))

/-- A listed lightship has answered: one that is free takes the place of the first member still without. -/
def lightshipAnswered (s : State) (id : Nat) (a : ProbeAnswer) : State :=
  match mooringAt s id with
  | none => s
  | some m =>
    let n := m.ships.headD 0
    let rs := match a, findIdx (fun q => q.2.2.isNone) m.recovering with
      | .free, some i => m.recovering.modify i (fun q => (q.1, q.2.1, some n))
      | _, _ => m.recovering
    seekLightship (modMooring s id (fun y => { y with
      recovering := rs
      ships := y.ships.drop 1 })) id

/-- The listed lightships that may be asked: named, no member, not lost (R334, R335). -/
def candidates (s : State) (m : Mooring) : List Nat :=
  m.desc.lightships.filter (fun n => decide (n < 2 ^ 18) && n != selfNode s && !(membersOf s m).contains n)

/-! ### A lost member (R332, R361, R362, R364) -/

/-- A membership command that waits, or whose move is in hand, ends with FAULT (R332). -/
def failMembership (s : State) (id : Nat) : State :=
  match (mooringAt s id).bind (·.moving) with
  | some v => if v.why ≠ 0 then failMove s id else s
  | none =>
    match s.keeper.ops.find? (fun o => o.mooring == id && (match o.kind with
      | .membership _ bs _ _ => !bs.isEmpty
      | _ => false)) with
    | some o => unpause (finishOp s o.func o.tag stFault 0 0) id
    | none => s

/-- The state of lost members is lost: the run stops with STATE_LOST (R361). -/
def stateLost (s : State) (id : Nat) (nodes : List Nat) : State :=
  stopForLoss (bumpModule s 12 1) id stStateLost (nodes.map (fun n => (n, n)))

/-- Every member restores its undo copies of step c, which runs again (R364 step 4). -/
def undoEverywhere (s : State) (id c : Nat) (rest : List Nat) : State :=
  undoCommitted (raiseEvent (bumpModule (tellNodes s (.undoStep id c) rest) 11 1) evRerun (some id) 0 (c % 2 ^ 32)) id c

/-- The substitutions that a mooring holds beside those of a node and of the members in recovery, which their replacements
end (R335). -/
def subsHeld (m : Mooring) (node : Nat) : Nat :=
  (m.subs.filter (fun q => q.2 != node && m.recovering.all (fun x => x.1 != q.2))).length

/-- A lightship is sought for a lost member whose copy a node keeps, or the run stops (R335, R364 step 5). -/
def replaceMember (s : State) (id node h : Nat) : State :=
  match mooringAt s id with
  | none => s
  | some m =>
    let s1 := if m.rerun.isSome ∧ !runActive m then startRunHere s id m.step 0 m.position else s
    if m.desc.onloss = 1 ∧ subsHeld m node + m.recovering.length < 16 then
      seekLightship (modMooring s1 id (fun y => { y with
        recovering := y.recovering ++ [(node, h, none)]
        ships := if y.recovering.isEmpty then candidates s1 m else y.ships })) id
    else stopForLoss s1 id stFault ((m.recovering.map (fun q => (q.1, q.2.1))) ++ [(node, h)])

/-- The recovery of a lost member goes on with its tender point (R364 steps 3 and 4): at the last committed step; at the one
before it, which every member then goes back to; another cannot be joined with the state of the other members, and counts as
lost (DESIGN CHOICE, notes/assumptions/40.md). -/
def recoverAt (s : State) (id node h : Nat) (point : Option Nat) : State :=
  match mooringAt s id with
  | none => s
  | some m =>
    if point = m.committed then replaceMember s id node h
    else match m.committed, m.before with
      | some c, some b =>
        if b.committed = point then
          replaceMember (undoEverywhere s id c ((otherMembers s m).filter (fun n => n != node))) id node h
        else stateLost s id [node]
      | _, _ => stateLost s id [node]

/-- The anchor carries out the recovery of a member declared lost (R364): it reads the tender point of the member from its
keeper; copies of the old map stand at the boundary of the move (R331). -/
def recoverMember (s : State) (id node : Nat) : State :=
  let s0 := failMembership s id
  match mooringAt s0 id with
  | none => s0
  | some m =>
    if !(membersOf s0 m).contains node ∨ lostAlready m node then s0
    else
      let rest := (otherMembers s0 m).filter (fun n => n != node)
      let s1 := modMooring (windDown (tellNodes (bypassAround s0 node) (.stopWork id) rest) id) id (fun y => { y with
        handling := y.handling.filter (fun n => n != node) })
      match (if m.desc.kind = 0 ∧ orphansOf m node = [] then holderOf s1 m node else none) with
      | none => stateLost s1 id (node :: orphansOf m node)
      | some h =>
        if m.oldMap.isSome ∨ m.committed.isNone then replaceMember s1 id node h
        else if h = selfNode s1 then recoverAt s1 id node h (pointHere m node)
        else tellNode (modMooring s1 id (fun y => { y with asking := y.asking ++ [(node, h)] })) h (.askPoint id node)

/-- The keeper of a lost member's copy has told its tender point (R364 step 3). -/
def pointHeard (s : State) (id lost holder : Nat) (point : Option Nat) : State :=
  match mooringAt s id with
  | none => s
  | some m =>
    if !m.asking.contains (lost, holder) then s
    else recoverAt (modMooring s id (fun y => { y with asking := y.asking.filter (fun q => q != (lost, holder)) })) id lost holder point

/-- What this module tells an anchor that asks (R364 step 3). -/
def tellPoint (s : State) (id lost src : Nat) : State :=
  match mooringAt s id with
  | none => s
  | some m => tellNode s src (.pointIs id lost (selfNode s) (pointHere m lost))

/-! ### Election (R363) -/

/-- A member's linear index: i_W + E_W (i_X + E_X (i_Y + E_Y i_Z)). -/
def linearOrder (s : State) (d : MDesc) (pos : Nat) : Nat :=
  let i (a : Nat) : Nat := memberIdx s d pos a
  let e (a : Nat) : Nat := (axisAt d a).extent
  i 0 + e 0 * (i 1 + e 1 * (i 2 + e 2 * i 3))

/-- The members in ascending linear index, without one of them. -/
def electionOrder (s : State) (m : Mooring) (gone : Nat) : List Nat :=
  let ps := (blockNodes s m.desc).filter (fun q => decide (standsIn m.subs q ≠ gone))
  (List.range (sumNat [(axisAt m.desc 0).extent * (axisAt m.desc 1).extent * (axisAt m.desc 2).extent * (axisAt m.desc 3).extent])).flatMap
    (fun k => (ps.filter (fun q => decide (linearOrder s m.desc q = k))).map (standsIn m.subs))

/-- The run that this module had forwarded to the lost anchor is its own now (R316, R363); another command that it had
forwarded ends with FAULT (R332). -/
def retakeRun (s : State) (id : Nat) : State :=
  match mooringAt s id with
  | none => s
  | some m => (s.keeper.ops.filter (fun o => o.mooring == id && decide (o.kind = .forwarded))).foldl (fun s o =>
      if o.opcode = 0x30 then modOp s o.func o.tag (fun q => { q with kind := .run m.step (m.runCount - m.decided) m.position })
      else finishOp s o.func o.tag stFault 0 0) s

/-- A run whose end the lost anchor had been asked for ends here (R226, R363). -/
def endRetaken (s : State) (id : Nat) : State :=
  match (runOp s id).bind (·.ending), mooringAt s id with
  | some status, some m => breakRun (tellNodes s (.stopRun id status) (otherMembers s m)) id status
  | _, _ => s

/-- This member takes the anchor's place and recovers it. -/
def takeAnchor (s : State) (id lost : Nat) : State :=
  endRetaken (recoverMember (raiseEvent (bumpModule (modMooring (retakeRun s id) id (fun y => { y with
    acting := some (selfNode s)
    electing := none })) 6 1) evMemberLost (some id) 0 lost) id lost) id

/-- Probe the next member in order; this module itself answers at once. -/
def electNext (s : State) (id lost : Nat) (order : List Nat) : State :=
  match order with
  | [] => s
  | n :: _ => if n = selfNode s then takeAnchor s id lost else probeNode s id n

/-- An election starts (R363). -/
def startElection (s : State) (id lost : Nat) : State :=
  match mooringAt s id with
  | none => s
  | some m =>
    if m.electing = some lost then s
    else electNext (modMooring (bumpModule s 7 1) id (fun y => { y with electing := some lost })) id lost (electionOrder s m lost)

/-- A member probed in an election has answered, or not. -/
def electionAnswered (s : State) (id lost node : Nat) (ok : Bool) : State :=
  match mooringAt s id with
  | none => s
  | some m =>
    if ok then tellNode (modMooring s id (fun y => { y with
      acting := some node
      electing := none })) node (.elected id lost)
    else electNext s id lost ((takeThrough (fun n => n == node) (electionOrder s m lost)).2)

/-! ### Probes (R362) -/

/-- Does an answer come from a member of the mooring, whatever its daymark? -/
def fromMember : ProbeAnswer → Bool
  | .daymark _ => true
  | _ => false

/-- A probe has ended: with an answer, or without one in time. A member that was declared lost and answers later is told by the
anchor to release the mooring. -/
def probeEnded (s : State) (id node : Nat) (a : ProbeAnswer) : State :=
  match mooringAt s id with
  | none => s
  | some m =>
    if !m.probing.contains node then
      (if anchorOf m = selfNode s ∧ fromMember a ∧ (!(membersOf s m).contains node ∨ lostAlready m node) then
        tellNode s node (.release id) else s)
    else
      let ok := decide (a = .daymark m.daymark)
      let s1 := modMooring s id (fun y => { y with probing := y.probing.filter (fun n => n != node) })
      if !m.recovering.isEmpty ∧ m.ships.head? = some node then lightshipAnswered s1 id a
      else match m.electing with
        | some lost => electionAnswered s1 id lost node (fromMember a)
        | none =>
          if ok then s1
          else if anchorOf m = selfNode s then
            recoverMember (raiseEvent (bumpModule s1 6 1) evMemberLost (some id) 0 node) id node
          else if anchorOf m = node ∧ a = .silent then startElection s1 id node
          else s1

/-- PROBE_TIMEOUT (R361 to R364): a probe ends. -/
def execProbeTimeout (mooring node : Nat) (a : ProbeAnswer) (s : State) : Host.Outcome State Fault Refusal :=
  .next (probeEnded s mooring node a)

/-- LINK_DOWN_REPORT (R362): a member's link to a neighbouring member has stayed down; the anchor probes it. -/
def execLinkDownReport (mooring reporter member : Nat) (s : State) : Host.Outcome State Fault Refusal :=
  .next (match mooringAt s mooring with
    | none => s
    | some m =>
      let ms := membersOf s m
      if !ms.contains reporter ∨ !ms.contains member ∨ reporter = member then s
      else if anchorOf m = selfNode s then probeNode s mooring member
      else if reporter = selfNode s then suspect s m member
      else s)

/-! ### An advance that waited (R345) -/

/-- What waited for the daymark to advance takes place. -/
def dueAct (s : State) (id : Nat) : EpochDue → State
  | .verdict t v => applyDown s id t v
  | .stop status => atBoundary (stopHere s id status) id
  | .boundary => atBoundary s id
  | .adopt => adoptAll s id

/-- All that waits on a mooring's daymark, in order; what would advance it again waits on. -/
def dueActs (s : State) (id : Nat) : State :=
  match mooringAt s id with
  | none => s
  | some m => m.due.foldl (fun s d => dueAct s id d) (modMooring s id (fun y => { y with due := [] }))

/-- DAYMARK_ADVANCE (R345): 1 ms has passed since a daymark's last advance: one that is owed takes place, and with a
mooring's what waited for it. -/
def execDaymarkAdvance (d : Domain) (s : State) : Host.Outcome State Fault Refusal :=
  .next (
    let s1 := advanceOwed s d
    match d with
    | .mooring id => if mayAdvance s1 d then dueActs s1 id else s1
    | _ => s1)

/-! ### The light list (R275, R276, R313) -/

/-- Does a set of entries sidestep a port for a destination? -/
def sidesteps (es : List LightEntry) (port dest : Nat) : Bool :=
  match es.find? (fun e => lightMatches e port dest) with
  | some e => e.action == 1
  | none => false

/-- A ring of a mooring runs as a line from step t + 2 on, or as a ring again (R313). -/
def noteRing (s : State) (id axis effective : Nat) (brk : Option Nat) : State :=
  modMooring s id (fun m => { m with lines := m.lines ++ [(axis, brk.getD 0, effective)] })

/-- The ring of this module on an axis: its members. -/
def ringMembers (s : State) (m : Mooring) (a : Nat) : List Nat :=
  let me := herePos s m
  ((axisCoords s m.desc a).map (fun c => nodeOf (setAt (coordsOf me) a c))).map (standsIn m.subs)

/-- The message about the link of one port of this module, when the new list begins or ceases to sidestep it. -/
def ringMessage (s : State) (m : Mooring) (old new : List LightEntry) (port : Nat) : State :=
  let a := axisOf port
  let me := herePos s m
  let n := (axisAt m.desc a).extent
  let i := memberIdx s m.desc me a
  let j := if port % 2 = 0 then (i + 1) % n else (i + n - 1) % n
  let peer := standsIn m.subs (nodeOf (setAt (coordsOf me) a ((axisCoords s m.desc a).getD j 0)))
  if !(axisAt m.desc a).ring ∨ sidesteps old port peer = sidesteps new port peer then s
  else
    let brk := if port % 2 = 0 then i + 1 else if i = 0 then n else i
    let b := if sidesteps new port peer then some brk else none
    noteRing (tellNodes s (.ringChange m.desc.id a (m.step + 2) b) ((ringMembers s m a).filter (fun q => q != selfNode s)))
      m.desc.id a (m.step + 2) b

/-- LIGHT_LIST_INSTALL (R276, R313): a set whose dependency graph has no cycle goes into the idle bank, and the banks
switch; another is not installed, its ports are left down, and the route event is raised. -/
def execLightListInstall (entries : List LightEntry) (known : List (Nat × List LightEntry)) (s : State) : Host.Outcome State Fault Refusal :=
  .next (
    let s := modRouter s (fun r => { r with known := known })
    if !escapeAcyclic s entries known ∨ 256 < entries.length then raiseEventP (leavePortsDown s) evRoute 0 1
    else
      let old := (lightList s).map (·.e)
      let s1 := raiseEventP (installBank s entries) evRoute 0 0
      s1.moorings.foldl (fun s m => (List.range 8).foldl (fun s p => ringMessage s m old entries p) s) s1)

end Sys2Proof.Machine
end

