-- ==== Sys2Proof/Machine/Service.lean ====
section
/-! DEFINITION. Machine/Service.lean: flash upkeep, shore cores, the full BIST and the firmware slots (R142, R145, R147,
R148, R350, R355, R369, R370, R442 to R446, R449 to R452, R455). -/

namespace Sys2Proof.Machine

/-! ### Flash upkeep (R145, R147, R148) -/

/-- SNAPSHOT_CREDIT_GROW (R147): 8 TiB for every 24 h of module time, up to 64 TiB. -/
def execSnapshotCreditGrow (s : State) : Host.Outcome State Fault Refusal :=
  .next (if s.boot.keeperUp then modFlash s (fun f => { f with credit := min (f.credit + 8 * 2 ^ 40) (64 * 2 ^ 40), grownAt := nowNs s }) else s)

/-- The mooring of a stored object. -/
def objMooring (o : FlashObj) : Option Nat :=
  match o.body with
  | .snapshot id _ _ _ _ => some id
  | .bundle _ => none

/-- What the scan does with one object: weak blocks are rewritten; an object that a codeword fails is lost. -/
def scanItem (s : State) (x : ScanItem) : State :=
  match flashObj s x.name with
  | none => s
  | some o =>
    let s1 := if x.weak then modFlash s (fun f => { f with rewrites := f.rewrites + 1, written := f.written + Config.flashBlock }) else s
    if x.lost ∧ !o.lost then
      raiseEventMore (modFlash s1 (fun f => { f with objs := f.objs.map (fun q => if q.name = x.name then { q with lost := true } else q) }))
        evObjectLost (objMooring o) 0 (x.name.toNat % 2 ^ 32) [x.name.toNat]
    else s1

/-- RETENTION_SCAN (R142, R145, R148): the weekly read of every programmed block, or of the whole user area after more than
90 days unpowered; corrected errors are counted by flash die. -/
def execRetentionScan (r : ScanResult) (s : State) : Host.Outcome State Fault Refusal :=
  .next (if s.boot.keeperUp then
      let s1 := r.dies.foldl (fun s d => bumpEcc s (.flash d.1) 0 d.2) (r.items.foldl scanItem s)
      if r.whole && s1.flash.unread then modFlash s1 (fun f => { f with unread := false }) else s1
    else s)

/-- One more block is retired (R145): the wear that group 0x12 shows (R381). -/
def flashRetires (s : State) : State := modFlash s (fun f => { f with retiredBlocks := f.retiredBlocks + 1 })

/-- FLASH_PROGRAM_OR_ERASE_DONE (R145): a failure retires the block, covered from the spare pool; below 64 GiB the
flash-degraded event is raised; one that cannot be covered makes the user area read-only. -/
def execFlashProgramOrEraseDone (op : FlashOp) (ok : Bool) (s : State) : Host.Outcome State Fault Refusal :=
  .next (
    if ok ∨ !s.boot.keeperUp then s
    else if s.flash.spare < Config.flashBlock then modFlash (flashRetires s) (fun f => { f with readOnly := true })
    else
      let left := s.flash.spare - Config.flashBlock
      let s1 := modFlash (flashRetires s) (fun f => { f with spare := left })
      if left < 64 * 2 ^ 30 ∧ !s.flash.degraded then
        raiseEventP (modFlash s1 (fun f => { f with degraded := true })) evFlash 0 (match op with
          | .program => 0
          | .erase => 1)
      else s1)

/-! ### Shore cores (R320, R370) -/

/-- May a guest of a mooring ask for a window (R218, R370): it lies in a tensor of KIND 1, in a copy of KIND 9 or 10, or in
any tensor of a serving mooring? -/
def guestWindowOk (m : Mooring) (p : Parsed) (w : Nat × Nat) : Bool := windowIn (guestArrays m p [0, 1]) w

/-- Lend a core and start the guest on it. -/
def lendCore (s : State) (id entry img imgLen : Nat) (windows : List (Nat × Nat)) (c : Nat) : State :=
  advanceDaymark (modShore (stopCore s c) c (fun x => { x with
    lent := some id
    running := true
    entry := entry
    image := img
    imgLen := imgLen
    asked := windows })) (.shore c)

/-- May every one of these cores be lent now: its daymark may advance (R345)? -/
def mayLend (s : State) (cs : List Nat) : Bool := cs.all (fun c => mayAdvance s (.shore c) && !s.keeper.owed.contains (.shore c))

/-- SHORE_START (R345, R370, R380, R455): the lowest-numbered free cores of the mooring's sector; their numbers are the
result. The lending waits, the request pending, until their daymarks may advance. -/
def execShoreStart (m : Mbox) (cores img imgLen entry : Nat) (windows : List (Nat × Nat)) (s : State) :
    Host.Outcome State Fault Refusal :=
  .next (runCommand s m 0x0050 (fun r s =>
    match mooringAt s r.mooring with
    | none => refuse m r stNoMooring s
    | some x =>
      match bundleAt s x.bundle with
      | none => refuse m r stField s
      | some b =>
        let free := (sectorCores x.desc.split x.desc.sector).filter (fun c => (s.shore.getD c ShoreCore.reset).lent.isNone)
        let take := free.take cores
        if cores = 0 ∨ 12 < cores ∨ imgLen = 0 ∨ !(windows.all (guestWindowOk x b.p)) then refuse m r stField s
        else if free.length < cores ∨ attFull s m.func then refuse m r stBusy s
        else if !mayLend s take then s
        else readThen s img imgLen (fun d s => match d with
          | .error _ => refuse m r stField s
          | .ok image =>
            let s1 := modKeeper (answer s m r stAccepted (words take) 0) (fun k => { k with ops := k.ops ++ [opOf m r .forwarded] })
            let s2 := openWindows (take.foldl (fun s c => lendCore s r.mooring entry img imgLen windows c) s1) r.mooring
            let s3 := attAdd s2 m.func ⟨2, r.mooring, nowNs s, Config.sm3 image, 0⟩
            finishOp s3 m.func r.tag stSuccess 0 0)))

/-- SHORE_STOP (R370): the mooring's cores, or one of them, return to the pool. -/
def execShoreStop (m : Mbox) (core : Option Nat) (s : State) : Host.Outcome State Fault Refusal :=
  .next (runCommand s m 0x0051 (fun r s =>
    match core with
    | none => answer (stopCores s (fun c => decide (c.lent = some r.mooring))) m r stSuccess [] 0
    | some c =>
      if 12 ≤ c ∨ (s.shore.getD c ShoreCore.reset).lent ≠ some r.mooring then refuse m r stField s
      else answer (stopCore s c) m r stSuccess [] 0))

/-! ### The full BIST (R355, R449 to R452) -/

/-- Does the full BIST pass for R355: every unit has run, and every failing one is a lantern unit whose lantern a spare
has replaced (R451)? A module of too large a geometry stays a router only (R3). -/
def bistPasses (s : State) (rs : List BistResult) : Bool :=
  !s.keeper.bistBad && !oversize s && bistUnits.zipIdx.all (fun q => decide (bistState s rs q ≠ 2))

/-- The module returns from router-only mode (R355): every escalation count cleared, the towers released. -/
def returnToService (s : State) : State :=
  let s1 := [0, 1, 2, 3].foldl releaseTower s
  modBoot (modKeeper s1 (fun k => { k with
    resetLog := []
    transients := [] })) (fun b => { b with
      state := 2
      alert := false
      held := List.replicate 4 false
      towers := List.replicate 4 true })

/-- The BIST is over: SELFTEST succeeds whatever it found; RETURN_TO_SERVICE by its verdict (R451). -/
def finishBist (s : State) (o : LongOp) : State :=
  if o.kind == .selftest then endBist s o stSuccess
  else if bistPasses s s.keeper.bistDone then
    endBist (if s.boot.state = 3 then returnToService s else s) o stSuccess
  else endBist s o stFault

/-- A unit has failed that no spare replaces. -/
def bistSpoiled (s : State) : State := modKeeper s (fun k => { k with bistBad := true })

/-- One failing unit is handled (R451): a lantern is retired, a spare taking its place if there is one; anything else puts
the module into router-only mode, its tower held. -/
def bistFailure (s : State) (u : Nat × Nat × Nat) : State :=
  let t := u.2.1
  if u.1 ≤ 2 then
    match (towerLanterns t).find? (fun l => (lanternAt s l).phys == some u.2.2) with
    | some l =>
      let s1 := retireFailing s t [u.2.2]
      if (lanternAt s1 l).phys.isSome then s1 else bistSpoiled s1
    | none => bistSpoiled (retireFailing s t [u.2.2])
  else if u.1 ≤ 4 then enterRouterOnly (holdTower (bistSpoiled s) t)
  else enterRouterOnly (bistSpoiled s)

/-- Is a unit still to be handled: has a lantern of two failing units been retired already? -/
def bistUnhandled (s : State) (u : Nat × Nat × Nat) : Bool := !(decide (u.1 ≤ 2) && (configRec s).retired.contains (u.2.1, u.2.2))

/-- FULL_BIST_GROUP_END (R449 to R452): the lanterns tested stand as after a compute reset (R91); failing units are handled; under the brake the group runs again; else the next
group starts, or the command completes. -/
def execFullBistGroupEnd (results : List BistResult) (s : State) : Host.Outcome State Fault Refusal :=
  .next (match bistOp s with
    | none => s
    | some o =>
      let g := s.keeper.bistGroup
      if g = 0 ∨ s.power.brake then s
      else
        let units := bistUnits.zipIdx.filter (fun q => decide (bistGroupOf q.1 = g))
        let rs := results.filter (fun r => units.any (fun q => q.1 == (r.kind, r.die, r.index)))
        let s0 := ((bistTowers g).flatMap towerLanterns).foldl (fun s l => modLantern s l clearLantern) s
        let s1 := modKeeper s0 (fun k => { k with bistDone := k.bistDone ++ rs })
        let bad := units.filter (fun q => decide (bistState s1 rs q = 1))
        let s2 := bad.foldl (fun s q => if bistUnhandled s q.1 then bistFailure s q.1 else s) s1
        let s3 := modOp s2 o.func o.tag (fun q => { q with units := q.units + 1 })
        if g < 3 then modKeeper s3 (fun k => { k with bistGroup := g + 1 }) else finishBist s3 { o with units := o.units + 1 })

/-- SELFTEST (R380, R382, R449, R450): BUSY while a mooring is open or a full BIST runs; in early light it starts at full
light. -/
def execSelftest (m : Mbox) (s : State) : Host.Outcome State Fault Refusal :=
  .next (runCommand s m 0x0060 (fun r s =>
    if r.outlen < 15920 then refuse m r stField s
    else if !s.moorings.isEmpty ∨ (bistOp s).isSome then refuse m r stBusy s
    else
      let s1 := acceptLong s m r .selftest
      if s.boot.state = 1 then s1 else modKeeper s1 (fun k => { k with bistGroup := 1 })))

/-- RETURN_TO_SERVICE (R355, R380): runs the full BIST. -/
def execReturnToService (m : Mbox) (s : State) : Host.Outcome State Fault Refusal :=
  .next (runCommand s m 0x0061 (fun r s =>
    if (bistOp s).isSome ∨ (s.boot.state ≠ 3 ∧ !s.moorings.isEmpty) then refuse m r stBusy s
    else modKeeper (acceptLong s m r .returnToService) (fun k => { k with bistGroup := 1 })))

/-! ### Firmware (R442 to R446) -/

/-- A firmware image as its bytes spell it (R442), header fields packed in their order (notes/assumptions/9.md); none
when it is no image. -/
def imageOf (bs : List Byte) : Option FwImage :=
  let len := leAt bs 12 4
  let key := (bs.drop 17).take 64
  if bs.length < 4096 ∨ leAt bs 0 4 ≠ 0x57464341 ∨ bs.length ≠ 4096 + len ∨ 256 * 2 ^ 20 < bs.length then none
  else
    let digest := Config.sm3 (bs.take 81 ++ bs.drop 4096)
    some {
      version := leAt bs 4 4
      svn := leAt bs 8 4
      length := len
      digest := Config.sm3 bs
      sigOk := decide (leAt bs 16 1 ≤ 1) && decide (Config.fusedKeyDigest (leAt bs 16 1) = Config.sm3 key) &&
        Config.sm2Verify key digest ((bs.drop 81).take 64) }

/-- Does an image verify (R442)? -/
def imageVerifies (s : State) (i : FwImage) : Bool := i.sigOk && decide ((configRec s).svnFloor ≤ i.svn)

/-- Put an image into a slot. -/
def storeImage (s : State) (slot : Nat) (i : FwImage) : State :=
  modFlash s (fun f =>
    let g := { f with written := f.written + 4096 + i.length }
    if slot = 0 then { g with slotA := some i } else { g with slotB := some i })

/-- The status that refuses a write to a slot before the image is read (R444). -/
def slotRefusal (s : State) (slot : Nat) : Option Nat :=
  if 1 < slot ∨ slot = (configRec s).active then some stField
  else if (configRec s).pending.isSome then some stBusy
  else none

/-- Verify and write an image: the state and the status (R444). -/
def writeImage (s : State) (slot : Nat) (bs : List Byte) : State × Nat :=
  match imageOf bs with
  | none => (s, stSignature)
  | some i => if imageVerifies s i then (storeImage s slot i, stSuccess) else (s, stSignature)

/-- FW_WRITE (R380, R444). -/
def execFwWrite (m : Mbox) (addr len slot : Nat) (s : State) : Host.Outcome State Fault Refusal :=
  .next (runCommand s m 0x0091 (fun r s =>
    match slotRefusal s slot with
    | some st => refuse m r st s
    | none =>
      readThen s addr len (fun d s => match d with
      | .error _ => refuse m r stField s
      | .ok bs =>
        let w := writeImage s slot bs
        longAtOnce s m r w.2 0 0 (fun s => (writeImage s slot bs).1))))

/-- The status that refuses an activation (R445). -/
def activateRefusal (s : State) (slot : Nat) : Option Nat :=
  if 1 < slot then some stField
  else if !s.moorings.isEmpty ∨ (configRec s).pending.isSome then some stBusy
  else if !slotVerifies s slot then some stSignature
  else none

/-- The slot goes on trial; the Keeper restarts 10 ms later (R445). -/
def activateSlot (s : State) (slot : Nat) : State :=
  modKeeper (setConfig s (fun c => { c with
    pending := some slot
    tries := 3 })) (fun k => { k with restartDue := true })

/-- FW_ACTIVATE (R380, R445). -/
def execFwActivate (m : Mbox) (slot : Nat) (s : State) : Host.Outcome State Fault Refusal :=
  .next (runCommand s m 0x0092 (fun r s =>
    match activateRefusal s slot with
    | some st => refuse m r st s
    | none => longAtOnce s m r stSuccess 0 0 (fun s => activateSlot s slot)))

/-- A firmware update in recovery (R446): an image that verifies goes into slot A, which is then active, and bring-up goes
on from stage 0x04. -/
def recoverFirmware (s : State) (bs : List Byte) (tower0 : TowerTest) : State × Nat :=
  let w := writeImage s 0 bs
  if w.2 ≠ stSuccess then w
  else (stageFour (modBoot (setConfig w.1 (fun c => { c with
      active := 0
      pending := none
      tries := 0 })) (fun b => { b with
        recovery := false
        fail := 0 })) ⟨true, true, 0, none, tower0⟩, stSuccess)

/-- The status of an update outside recovery, and the state (R446). -/
def updateFirmware (s : State) (bs : List Byte) (slot : Nat) (activate : Bool) : State × Nat :=
  match slotRefusal s slot with
  | some st => (s, st)
  | none =>
    let w := writeImage s slot bs
    if w.2 ≠ stSuccess ∨ !activate then w
    else match activateRefusal w.1 slot with
      | some st => (w.1, st)
      | none => (activateSlot w.1 slot, stSuccess)

/-- PLDM_FIRMWARE_UPDATE (R446): answered on the management bus (notes/assumptions/13.md). -/
def execPldmFirmwareUpdate (image : List Byte) (slot : Nat) (activate : Bool) (tower0 : TowerTest) (s : State) :
    Host.Outcome State Fault Refusal :=
  .next (
    if !s.power.inputOn then s
    else if s.boot.recovery then
      let w := recoverFirmware s image tower0
      mctpAnswer w.1 [BitVec.ofNat 8 w.2]
    else if s.boot.keeperUp then
      let w := updateFirmware s image slot activate
      mctpAnswer w.1 [BitVec.ofNat 8 w.2]
    else s)

end Sys2Proof.Machine
end

