-- ==== Sys2Proof/Machine/Trust.lean ====
section
/-! DEFINITION. Machine/Trust.lean: measurements, ATTEST and SPDM over the PF's DOE capability (R453 to R456). The bytes of
the DMTF formats are not in the spec (notes/assumptions/13.md). -/

namespace Sys2Proof.Machine

/-! ### Measurements (R454) -/

/-- A digest's bytes, as the model keeps digests: least significant byte first (notes/assumptions/9.md). -/
def digestBytes (d : BitVec 256) : List Byte := natLE 32 d.toNat

/-- The field part of the configuration record in use (R440), without its signature. -/
def fieldBytes (r : ConfigRec) : List Byte :=
  let pos (l : List (Nat × Nat)) : Nat := sumNat (l.map (fun q => 2 ^ (64 * q.1 + q.2)))
  natLE 8 r.gen ++ natLE 1 r.active ++ natLE 1 (r.pending.getD 0xFF) ++ natLE 1 r.tries ++ natLE 4 r.svnFloor ++
  natLE 32 (pos r.dark) ++ natLE 32 (pos r.retired) ++ words r.gaps ++ words (r.spareLines.flatMap (fun q => [q.1, q.2])) ++ words r.pageRemap

/-- The measurement blocks (R454): index, DMTF value type, value; block 7 is the chain of a function. -/
def measurements (s : State) (f : Nat) : List (Nat × Nat × List Byte) :=
  let r := configRec s
  let i := slotImage s s.boot.fwSlot
  [(1, 0x00, digestBytes Config.romDigest),
   (2, 0x01, digestBytes ((i.map (·.digest)).getD 0)),
   (3, 0x81, natLE 4 s.boot.fwVersion ++ natLE 4 ((i.map (·.svn)).getD 0) ++ natLE 4 s.boot.fwSlot ++ natLE 4 r.svnFloor),
   (4, 0x02, digestBytes Config.factoryDigest),
   (5, 0x02, natLE 8 r.gen ++ digestBytes (Config.sm3 (fieldBytes r))),
   (6, 0x85, [BitVec.ofNat 8 (b2n s.keeper.debug), BitVec.ofNat 8 s.keeper.split, BitVec.ofNat 8 s.boot.state, 0]),
   (7, 0x03, digestBytes (funcAt s f).attHead)]

/-- One block in the DMTF measurement format: index, specification 1, size; type, size, value. -/
def blockOf (b : Nat × Nat × List Byte) : List Byte :=
  natLE 1 b.1 ++ [1] ++ natLE 2 (b.2.2.length + 3) ++ natLE 1 b.2.1 ++ natLE 2 b.2.2.length ++ b.2.2

/-- A signature's 64 bytes (R442), in the order that digests are kept in (notes/assumptions/9.md). -/
def signatureBytes (bs : List Byte) : List Byte := natLE 64 (Config.sm2Sign bs).toNat

/-- A message with the signature over it. -/
def signedBy (bs : List Byte) : List Byte := bs ++ signatureBytes bs

/-! ### ATTEST (R456) -/

/-- What ATTEST returns: nonce, blocks, the function's log, the signature over all of it. -/
def attestation (s : State) (f : Nat) (nonce : BitVec 256) : List Byte :=
  let body := natLE 32 nonce.toNat ++ (measurements s f).flatMap blockOf ++ (funcAt s f).attLog.flatMap attBytes
  signedBy body

/-- ATTEST (R380, R456): the result goes into the slot when it fits there, else to OUT; one larger than OUTLEN then is
refused. -/
def execAttest (m : Mbox) (nonce : BitVec 256) (s : State) : Host.Outcome State Fault Refusal :=
  .next (runCommand s m 0x0090 (fun r s =>
    let bs := attestation s m.func nonce
    if 4056 < bs.length ∧ r.outlen < bs.length then refuse m r stField s
    else answer s m r stSuccess bs 0))

/-! ### SPDM (R453) -/

/-- Does the DOE capability answer: the firmware runs with its identity, and PCIe is out of reset? -/
def doeUp (s : State) : Bool := s.boot.keeperUp && s.boot.identity && !s.boot.perst

/-- An answer of the DOE mailbox. -/
def doeAnswer (s : State) (bs : List Byte) : State := { s with out := { s.out with doe := s.out.doe ++ [bs] } }

/-- An SPDM ERROR. -/
def spdmError (code : Nat) : List Byte := [0x12, 0x7F, BitVec.ofNat 8 code, 0]

/-- The certificate chain of slot 0: the Nolwyn attestation root, then CERT. -/
def certChain : List Byte := (List.range (Config.certLength 0).toNat).map (Config.certByte 0)

/-- A nonce that the module draws. -/
def drawNonce (s : State) : List Byte × State :=
  (List.range 4).foldl (fun q _ => let d := drawFree q.2; (q.1 ++ natLE 8 d.1.toNat, d.2)) ([], s)

/-- GET_VERSION (R453): SPDM 1.2. -/
def execGetVersion (s : State) : Host.Outcome State Fault Refusal :=
  .next (if doeUp s then doeAnswer s [0x10, 0x04, 0, 0, 0, 1, 0x00, 0x12] else s)

/-- GET_CAPABILITIES (R453): certificates, challenge, signed measurements. -/
def execGetCapabilities (s : State) : Host.Outcome State Fault Refusal :=
  .next (if doeUp s then doeAnswer s ([0x12, 0x61, 0, 0, 0, 17, 0, 0] ++ natLE 4 0x16) else s)

/-- NEGOTIATE_ALGORITHMS (R453): SM2 and SM3, or ERROR; one without the other signs nothing (notes/assumptions/13.md). -/
def execNegotiateAlgorithms (sm2 sm3 : Bool) (s : State) : Host.Outcome State Fault Refusal :=
  .next (if !doeUp s then s
    else
      let ok := sm2 && sm3
      doeAnswer (modBoot s (fun b => { b with spdmAlgs := ok })) (if ok then [0x12, 0x63, 0, 0] else spdmError 1))

/-- GET_DIGESTS (R453): slot 0. -/
def execGetDigests (s : State) : Host.Outcome State Fault Refusal :=
  .next (if doeUp s then doeAnswer s ([0x12, 0x01, 0, 1] ++ digestBytes (Config.sm3 certChain)) else s)

/-- GET_CERTIFICATE (R453): a portion of slot 0's chain. -/
def execGetCertificate (slot offset len : Nat) (s : State) : Host.Outcome State Fault Refusal :=
  .next (if !doeUp s then s
    else
      let rest := certChain.drop offset
      let part := rest.take len
      if slot ≠ 0 ∨ rest = [] then doeAnswer s (spdmError 1)
      else doeAnswer s ([0x12, 0x02, 0, 0] ++ natLE 2 part.length ++ natLE 2 (rest.length - part.length) ++ part))

/-- CHALLENGE (R453): signed, so refused without the algorithms. -/
def execChallenge (slot : Nat) (nonce : BitVec 256) (s : State) : Host.Outcome State Fault Refusal :=
  .next (if !doeUp s then s
    else if !s.boot.spdmAlgs ∨ slot ≠ 0 then doeAnswer s (spdmError 1)
    else
      let n := drawNonce s
      let summary := Config.sm3 ((measurements s 0).flatMap blockOf)
      doeAnswer n.2 (signedBy ([0x12, 0x03, 0, 1] ++ digestBytes (Config.sm3 certChain) ++ n.1 ++ digestBytes summary ++ [0, 0] ++
        natLE 32 nonce.toNat)))

/-- GET_MEASUREMENTS (R453, R454): their number, one block, or all; signed on request. -/
def execGetMeasurements (op : Nat) (signed : Bool) (nonce : BitVec 256) (s : State) : Host.Outcome State Fault Refusal :=
  .next (if !doeUp s then s
    else if (signed ∧ !s.boot.spdmAlgs) ∨ (7 < op ∧ op ≠ 0xFF) then doeAnswer s (spdmError 1)
    else
      let bs := (measurements s 0).filter (fun b => decide (op = 0xFF) || decide (b.1 = op))
      let record := bs.flatMap blockOf
      let n := drawNonce s
      let body := [0x12, 0x60, if op = 0 then 7 else 0, 0] ++ natLE 1 bs.length ++ natLE 3 record.length ++ record ++ n.1 ++ [0, 0]
      doeAnswer n.2 (if signed then body ++ signatureBytes (body ++ natLE 32 nonce.toNat) else body))

end Sys2Proof.Machine
end

