-- ==== Sys2Proof/Machine/Admin.lean ====
section
/-! DEFINITION. Machine/Admin.lean: fault policy, split, time root, debug mode, tags, the event log, telemetry (R85, R89,
R110, R142, R163, R195, R242, R275, R284 to R286, R303, R320, R354, R368, R380, R381, R431). -/

namespace Sys2Proof.Machine

/-! ### FAULT_POLICY (R354, R380) -/

/-- An item that is given lies in its range. -/
def itemOk (x : Option Nat) (lo hi : Nat) : Bool :=
  match x with
  | some v => decide (lo ≤ v) && decide (v ≤ hi)
  | none => true

/-- Every item within the ranges of R354, times in microseconds. -/
def policyOk (p : PolicyItems) : Bool :=
  itemOk p.beaconUs 1000 10000000 && itemOk p.lanternHangUs 3000 50000 && itemOk p.towerHangUs 30000 500000 &&
  itemOk p.lanternResets 2 10 && itemOk p.lanternWinUs 60000000 86400000000 && itemOk p.towerResets 2 16 &&
  itemOk p.towerWinUs 600000000 86400000000 && itemOk p.transientLimit 2 64 && itemOk p.transientWinUs 3600000000 604800000000 &&
  itemOk p.eccBurst 4 1024 && itemOk p.probeUs 10000 10000000

/-- The policy with the items given. -/
def setPolicy (p : PolicyItems) (k : Policy) : Policy :=
  { lanternHang := p.lanternHangUs.getD k.lanternHang
    towerHang := p.towerHangUs.getD k.towerHang
    lanternResets := p.lanternResets.getD k.lanternResets
    lanternWin := p.lanternWinUs.getD k.lanternWin
    towerResets := p.towerResets.getD k.towerResets
    towerWin := p.towerWinUs.getD k.towerWin
    transient := p.transientLimit.getD k.transient
    transientWin := p.transientWinUs.getD k.transientWin
    eccBurst := p.eccBurst.getD k.eccBurst
    probe := p.probeUs.getD k.probe }

/-- The current values: the mooring's beacon window, 0 when none is named, then the module's items. -/
def policyBytes (beacon : Nat) (k : Policy) : List Byte :=
  words [beacon, k.lanternHang, k.towerHang, k.lanternResets, k.lanternWin, k.towerResets, k.towerWin, k.transient,
    k.transientWin, k.eccBurst, k.probe]

/-- FAULT_POLICY (R354, R380). -/
def execFaultPolicy (m : Mbox) (mooring : Option Nat) (items : PolicyItems) (s : State) : Host.Outcome State Fault Refusal :=
  .next (runCommand s m 0x0062 (fun r s =>
    if !policyOk items ∨ (items.beaconUs.isSome ∧ mooring.isNone) then refuse m r stField s
    else match mooring with
      | none =>
        let k := setPolicy items s.keeper.policy
        answer (modKeeper s (fun x => { x with policy := k })) m r stSuccess (policyBytes 0 k) 0
      | some id =>
        match mooringAt s id with
        | none => refuse m r stNoMooring s
        | some x =>
          let k := setPolicy items s.keeper.policy
          let b := items.beaconUs.getD x.beaconUs
          let s1 := modMooring (modKeeper s (fun y => { y with policy := k })) id (fun y => { y with beaconUs := b })
          answer s1 m r stSuccess (policyBytes b k) 0))

/-! ### SET_SPLIT, TIME_ROOT, DEBUG_MODE (R110, R284, R320) -/

/-- SET_SPLIT (R320): only while no sector holds a mooring. -/
def execSetSplit (m : Mbox) (n : Nat) (s : State) : Host.Outcome State Fault Refusal :=
  .next (runCommand s m 0x0063 (fun r s =>
    if n ≠ 1 ∧ n ≠ 2 ∧ n ≠ 4 then refuse m r stField s
    else if !s.moorings.isEmpty then refuse m r stBusy s
    else answer (modKeeper s (fun k => { k with split := n })) m r stSuccess [] 0))

/-- A module keeps the name of the time root and chooses the root it follows (R284). -/
def nameRoot (s : State) (node : Option Nat) : State :=
  let s1 := modTime s (fun t => { t with named := node })
  if s1.time.holdover then s1 else followRoot s1 (chooseRoot s1)

/-- TIME_ROOT (R283, R284): the name goes to every module of the torus. -/
def execTimeRoot (m : Mbox) (node : Option Nat) (s : State) : Host.Outcome State Fault Refusal :=
  .next (runCommand s m 0x0064 (fun r s =>
    if (match node with
      | some n => !(allNodes s).contains n
      | none => false) then refuse m r stField s
    else answer (nameRoot (tellNodes s (.timeRoot node) (allNodes s)) node) m r stSuccess [] 0))

/-- DEBUG_MODE (R110): not while a mooring opened through a virtual function is open. -/
def execDebugMode (m : Mbox) (v : Nat) (s : State) : Host.Outcome State Fault Refusal :=
  .next (runCommand s m 0x00A0 (fun r s =>
    if 1 < v then refuse m r stField s
    else if v = 1 ∧ s.moorings.any (fun x => decide (1 ≤ x.ownerFunc) && decide (x.ownerFunc < 32)) then
      refuse m r stDebugConflict s
    else answer (modKeeper s (fun k => { k with debug := decide (v = 1) })) m r stSuccess [] 0))

/-! ### ACC_TAG_READ (R89, R380) -/

/-- The tags of columns and entries, each in a 64-bit word. -/
def tagBytes (x : Lantern) (grad : Bool) (col ncols entry nentries : Nat) : List Byte :=
  (List.range ncols).flatMap (fun c => (List.range nentries).flatMap (fun e =>
    let t : BitVec 48 := if grad then tget 0x100000100000 x.gradTag (128 * (entry + e) + col + c)
      else tget 0x100000100000 x.accTag (128 * (entry + e) + col + c)
    natLE 8 t.toNat))

/-- ACC_TAG_READ (R89, R110, R380). -/
def execAccTagRead (m : Mbox) (lantern : Nat) (grad : Bool) (col ncols entry nentries : Nat) (s : State) :
    Host.Outcome State Fault Refusal :=
  .next (runCommand s m 0x00A1 (fun r s =>
    let n := 8 * ncols * nentries
    if !enabledLantern s lantern ∨ ncols = 0 ∨ nentries = 0 ∨ 128 < col + ncols ∨ 1024 < entry + nentries ∨
        (4056 < n ∧ r.outlen < n) then refuse m r stField s
    else answer s m r stSuccess (tagBytes (lanternAt s lantern) grad col ncols entry nentries) 0))

/-! ### EVENT_LOG_READ (R144, R387) -/

/-- The event log's ring of 4 GiB (R144): its last 2^27 records of 32 bytes. -/
def logRing (l : List Event) : List Event := l.drop (l.length - 2 ^ 27)

/-- EVENT_LOG_READ (R380): records first to last of the flash log, oldest 0, at OUT; their number in DETAIL. -/
def execEventLogRead (m : Mbox) (first last : Nat) (s : State) : Host.Outcome State Fault Refusal :=
  .next (runCommand s m 0x0071 (fun r s =>
    let n := last + 1 - first
    if last < first ∨ (logRing s.flash.log).length ≤ last ∨ r.outlen < 32 * n then refuse m r stField s
    else
      let bs := (((logRing s.flash.log).drop first).take n).flatMap (fun e => natLE 32 (eventNat e.node e))
      match keeperWrite s m.func r.out bs with
      | .error _ => refuse m r stField s
      | .ok _ => longAtOnce s m r stSuccess 0 n (fun s => match keeperWrite s m.func r.out bs with
          | .ok t => t
          | .error _ => s)))

/-! ### TELEMETRY_READ (R381) -/

/-- The class of a group for a request: T when it names a mooring, where the table gives both; none for no group. -/
def groupClass (group mooring : Nat) : Option CmdClass :=
  let both : CmdClass := if mooring = 0xFFFF then .O else .T
  if group = 0x01 then some .A
  else if group = 0x02 then some .T
  else if group = 0x03 then some both
  else if group = 0x04 then some both
  else if group = 0x05 then some .T
  else if group = 0x06 then some .T
  else if group = 0x07 then some .A
  else if group = 0x08 then some both
  else if group = 0x09 then some .A
  else if 0x10 ≤ group ∧ group ≤ 0x13 then some .O
  else none

/-- Lens counters and hold-line stall of a lantern (R85, R221). -/
def lensTelemetry (x : Lantern) : List Nat :=
  let c := x.lensCnt
  [c.active, c.freeze, c.drainHold, c.zeroFed, c.trimmed, c.checked, c.unchecked, c.mismatch, c.clockChg, c.acc16Slow, x.stall]

/-- Fault counters at module scope (R368): each tower's resets, escalations, dark spares left, spare lines used by slice;
then the module's, the daymark drops of each kind of domain, and the tender points. -/
def faultTelemetry (s : State) : List Nat :=
  let r := configRec s
  let tower (t : Nat) : List Nat :=
    [(towerAt s t).resets, (towerAt s t).escalations, (r.dark.filter (fun d => d.1 == t)).length] ++
    (List.range 64).map (fun k => ((r.spareLines.find? (fun q => q.1 == 64 * t + k)).map (·.2)).getD 0)
  (List.range 4).flatMap tower ++ s.keeper.mcnt.take 4 ++ s.keeper.mcnt.drop 5 ++ s.keeper.dmDrops ++ s.moorings.map tenderPoint

/-- A shard header in two words and its group, owner and blocks (R242). -/
def headerTelemetry (h : ShardHdr) : List Nat :=
  [h.step + h.gen * 2 ^ 48, h.tensor + h.group * 2 ^ 32 + (h.owner * 2 ^ 48) % 2 ^ 64, h.owner / 2 ^ 16, h.blocks]

/-- A shard header as last committed (R391): with the UPDATE_STEP it carried before a step not yet decided wrote its shard. -/
def committedHeader (m : Mooring) (h : ShardHdr) : ShardHdr :=
  { h with step := ((m.undoHdr.find? (fun q => q.1 == h.tensor)).map (·.2)).getD h.step }

/-- The placement report (R163): lantern of each role replica; tier and address of each tensor shard. -/
def placementTelemetry (m : Mooring) : List Nat :=
  m.place.replicas.flatMap (fun q => [q.role, q.j, q.lantern]) ++
  m.place.tensors.zipIdx.flatMap (fun q => [q.2, bits q.1.mbase 55 48, q.1.mbase, q.1.sbase])

/-- The power and temperature record of a scope (R431), as eight words. -/
def powerTelemetry (s : State) (towers : List Nat) (psect : Nat) : List Nat :=
  let p := s.power
  let ls := towers.flatMap towerLanterns
  let total (f : Lantern → Nat) : Nat := sumNat (ls.map (fun l => f (lanternAt s l)))
  let i16 (v : Int) : Nat := wrapNat 16 v
  let hi (xs : List Int) : Int := (xs.drop 1).foldl max (xs.headD 0)
  let level := maxNat (towers.map (levelOf s))
  [p.vin / 10 % 2 ^ 16 + p.iin / 10 % 2 ^ 16 * 2 ^ 16 + p.pin % 2 ^ 16 * 2 ^ 32 + psect % 2 ^ 16 * 2 ^ 48,
   p.credit / 1000 % 2 ^ 16 + level * 2 ^ 16 + b2n p.brake * 2 ^ 19 + b2n p.refLost * 2 ^ 20 + p.cap % 2 ^ 16 * 2 ^ 32 +
     p.peakCap % 2 ^ 16 * 2 ^ 48,
   i16 (hi (towers.map (fun t => p.temps.towers.getD t 0))) + i16 (hi p.temps.io) * 2 ^ 16 + i16 p.temps.inlet * 2 ^ 32 +
     i16 p.temps.outlet * 2 ^ 48,
   p.energy / 1000, total (·.fillSteps), total (·.throttle), p.brakes, p.steps]

/-- Port counters (R285) of every port with the type of its cable (R469; the W ports lie on the backplane), then the end-to-end counters (R286) with occupancy and watermark of the resend
stores, offset, DIST and holdover. -/
def linkTelemetry (s : State) : List Nat :=
  let port (q : Nat × Port) : List Nat :=
    let p := q.2
    p.cnt ++ p.symbols ++ p.drops ++ (List.range 8).map (vcFlits p) ++ p.marks ++ p.stall ++
    [p.lanes, p.rate, p.rtt, if q.1 < 2 then 0 else (Config.cableType q.1).toNat]
  let held (t : Nat) : Nat := sumNat (s.router.src.map (fun x => sumNat ((x.unacked.filter (fun q => q.1 == t)).map (fun q => 40 + q.2.payload.length))))
  let offset : Int := match s.time.parent with
    | some p => meanInt (portAt s p).offsets
    | none => s.time.adjust
  ((List.range 8).zip s.router.ports).flatMap port ++ s.router.cnt ++ (List.range 4).map held ++ s.router.resendMark ++
  [wrapNat 64 offset, s.time.dist, s.time.freeUs]

/-- The light list (R275): axis sizes, coordinates, default sidesteps, then each of the 256 entries in two words, zero where
none is installed. -/
def lightTelemetry (s : State) : List Nat :=
  s.boot.sizes ++ s.boot.coords ++ (List.range 8).map (fun p => (defaultSidestep s p).getD 0xFF) ++
  ((lightList s) ++ List.replicate (256 - (lightList s).length) (⟨⟨0, 0, 0, 0, 0⟩, 0⟩ : BankEntry)).flatMap (fun b => [b.e.value + b.e.mask * 2 ^ 18 + b.e.matchPort * 2 ^ 36 + b.e.port * 2 ^ 40 + b.e.action * 2 ^ 44, b.hits])

/-- A number that names an ECC unit: kind, index, part. -/
def eccCode : EccUnit → Nat
  | .bank l b => l * 256 + b
  | .acc l => 2 ^ 32 + l
  | .grad l => 2 * 2 ^ 32 + l
  | .sram t k => 3 * 2 ^ 32 + t * 4096 + k
  | .device d => 4 * 2 ^ 32 + d
  | .flash d => 5 * 2 ^ 32 + d

/-- Memory ECC counters of every unit that has any (R142), late scrubs, blocks rewritten, the spare pool, read-only; then the
flash's wear: bytes programmed, blocks retired (R381). -/
def eccTelemetry (s : State) : List Nat :=
  s.keeper.ecc.flatMap (fun q => eccCode q.1 :: q.2) ++ [s.keeper.lateScrubs, s.flash.rewrites, s.flash.spare, b2n s.flash.readOnly,
    s.flash.written, s.flash.retiredBlocks]

/-- Degraded state (R11): enabled logical lanterns of each tower, whether the module is degraded. -/
def degradedTelemetry (s : State) : List Nat :=
  let n := (List.range 4).map (enabledCount s)
  n ++ [b2n (n.any (fun k => decide (k < 48))), s.boot.state]

/-- A lantern's DMA counters, its all-to-all units truncated with them (R195, R303). -/
def dmaTelemetry (x : Lantern) : List Nat := x.dma.flatMap (·.counters) ++ [x.truncated]

/-- What a group holds for a request, as 64-bit words (notes/assumptions/7.md). -/
def groupWords (s : State) (f group mooring : Nat) : List Nat :=
  let lanterns := (lanternsOf s mooring).map (lanternAt s)
  let x := funcAt s f
  let wide := decide (mooring = 0xFFFF)
  if group = 0x02 then lanterns.flatMap lensTelemetry
  else if group = 0x03 then (if wide then s.sysChans.flatMap (·.counters) else lanterns.flatMap dmaTelemetry)
  else if group = 0x04 then (if wide then s.lanterns.flatMap (·.fcnt) ++ faultTelemetry s else lanterns.flatMap (·.fcnt))
  else if group = 0x05 then ((mooringAt s mooring).map (fun m => m.headers.flatMap (fun h => headerTelemetry (committedHeader m h)))).getD []
  else if group = 0x06 then ((mooringAt s mooring).map placementTelemetry).getD []
  else if group = 0x07 then [x.viewAcc, x.lostSeals, x.privRef, x.unheard]
  else if group = 0x08 then
    (match mooringAt s mooring with
    | some m => powerTelemetry s (sectorTowers m.desc.split m.desc.sector) (s.power.psect.getD m.desc.sector 0)
    | none => powerTelemetry s [0, 1, 2, 3] s.power.pin)
  else if group = 0x09 then [s.flash.credit]
  else if group = 0x10 then linkTelemetry s
  else if group = 0x11 then lightTelemetry s
  else if group = 0x12 then eccTelemetry s
  else degradedTelemetry s

/-- The bytes of a group: group 0x01 is what IDENTIFY returns, and the width of the PCIe link in force (R470), 0 while its
controller is in reset. -/
def groupBytes (s : State) (f group mooring : Nat) : List Byte :=
  if group = 0x01 then identityBytes s ++ words [if s.boot.perst then 0 else Config.pcieWidth.toNat] else words (groupWords s f group mooring)

/-- TELEMETRY_READ (R381): COUNT words of a group from the first on; the class is the group's. -/
def execTelemetryRead (m : Mbox) (group first count : Nat) (s : State) : Host.Outcome State Fault Refusal :=
  .next (runCommand s m 0x0070 (fun r s =>
    match groupClass group r.mooring with
    | none => refuse m r stField s
    | some c =>
      let bs := groupBytes s m.func group r.mooring
      if c = .T ∧ s.boot.state = 3 then refuse m r stOutOfService s
      else if c = .T ∧ (mooringAt s r.mooring).isNone then refuse m r stNoMooring s
      else if !classOk s m.func c r.mooring then refuse m r stPrivilege s
      else if bs.length < 8 * (first + count) ∨ (4056 < 8 * count ∧ r.outlen < 8 * count) then refuse m r stField s
      else answer s m r stSuccess ((bs.drop (8 * first)).take (8 * count)) 0))

end Sys2Proof.Machine
end

