-- ==== Sys2Proof/Machine/Aborts.lean ====
section
/-! DEFINITION. Machine/Aborts.lean: aborts, deadlines and function-level resets (R190, R223, R226, R305, R375, R379, R392,
R398, R401, R452, R455, R471). -/

namespace Sys2Proof.Machine

/-! ### An abort reaches the retire point first (R190) -/

/-- A move is given up: the old map stays in force under the new daymark (R305). -/
def dropMove (s : State) (id : Nat) : State :=
  if ((mooringAt s id).bind (·.moving)).isSome then failMove s id else unpause s id

/-- A command that runs at an anchor elsewhere is aborted there (R226, R316): the anchor, which knows what has been
committed, answers with its records. Where no other module is the anchor, it ends here. -/
def abortAway (s : State) (o : LongOp) (status : Nat) : State :=
  match mooringAt s o.mooring with
  | none => endForwarded s o status
  | some m =>
    if anchorOf m = selfNode s then endForwarded s o status
    else tellNode (modOp s o.func o.tag (fun q => { q with ending := some status })) (anchorOf m)
      (.abortForwarded (selfNode s) o.func o.tag status)

/-- An operation ends aborted, with what it retired before in DETAIL; what it has in progress stops (R189, R223, R226,
R305, R452). -/
def abortOp (s : State) (o : LongOp) (status : Nat) : State :=
  let id := o.mooring
  match o.kind with
  | .run _ _ _ =>
    (match mooringAt s id with
    | none => finishOp s o.func o.tag status 0 o.units
    | some m => atBoundary (breakRun (tellNodes s (.stopRun id status) (otherMembers s m)) id status) id)
  | .close => unpause (finishOp s o.func o.tag status 0 0) id
  | .membership _ bs _ _ =>
    let s1 := finishOp s o.func o.tag status 0 o.units
    if bs.isEmpty then s1 else dropMove s1 id
  | .snapshot _ =>
    let s1 := modMooring (finishOp s o.func o.tag status 0 0) id (fun y => { y with
      saving := none
      savedBy := [] })
    atBoundary (unpause s1 id) id
  | .selftest => endBist s o status
  | .returnToService => endBist s o status
  | .restore => dropMove (finishOp s o.func o.tag status 0 0) id
  | .tensorRead _ _ => finishOp s o.func o.tag status 0 0
  | .copy n _ _ => stopCopy s (.system n) status
  | .forwarded => abortAway s o status
  | .lendOpens _ _ _ _ => abortLending s o status

/-- A command that another module forwarded is aborted there. -/
def abortForwardedHere (s : State) (node func tag status : Nat) : State :=
  match opAt s (64 * (node + 1) + func) tag with
  | some o => abortOp s o status
  | none => s

/-- ABORT (R190, R380): aborted, already complete, or unknown; only the PF may name another function. -/
def execAbort (m : Mbox) (tag : Nat) (func : Option Nat) (s : State) : Host.Outcome State Fault Refusal :=
  .next (runCommand s m 0x0007 (fun r s =>
    let f := func.getD m.func
    if f ≠ m.func ∧ m.func ≠ 0 then refuse m r stPrivilege s
    else if 44 ≤ f then refuse m r stField s
    else match opAt s f tag with
      | some o => answer (abortOp s o stAborted) m r stAborted [] 0
      | none =>
        if (funcAt s f).reported.contains (some tag) then refuse m r stAlreadyComplete s
        else refuse m r stUnknownTag s))

/-- DEADLINE_EXPIRY (R392): a long command with a deadline that has not reached its retire point is aborted. -/
def execDeadlineExpiry (func tag : Nat) (s : State) : Host.Outcome State Fault Refusal :=
  .next (match opAt s func tag with
    | some o => if func < 44 ∧ o.deadline ≠ 0 then abortOp s o stTimedOut else s
    | none => s)

/-! ### Function-level resets (R379, R398, R401, R455, R471) -/

/-- A function's registers after its reset (R6, R379): mailboxes, queues and interrupt state as at reset, the
attestation log empty; the enables, which neither R379 nor R471 names, and what is counted until power-on stay. -/
def resetFunc (x : Func) : Func :=
  { Func.reset with
    present := x.present
    bme := x.bme
    mse := x.mse
    viewAcc := x.viewAcc
    lostSeals := x.lostSeals
    privRef := x.privRef
    unheard := x.unheard
    reported := x.reported
    shown := x.shown
    slots := x.slots }

/-- A function-level reset (R379): its queues are gone before its commands are aborted, so no record is written. A command
that an anchor runs for it is aborted there. -/
def resetFunction (s : State) (f : Nat) : State :=
  let s1 := modFunc s f resetFunc
  let s2 := modKeeper s1 (fun k => { k with
    hwins := k.hwins.filter (fun h => h.owner != f)
    forwards := k.forwards.filter (fun q => q.1.func != f) })
  let s3 := (s.keeper.ops.filter (fun o => o.func == f)).foldl (fun s o => abortOp s o stAborted) s2
  modKeeper s3 (fun k => { k with ops := k.ops.filter (fun o => o.func != f) })

/-- The enables of a PCIe function after its controller's reset (R471): the format's, all clear. -/
def controllerReset (s : State) : State :=
  { s with funcs := s.funcs.zipIdx.map (fun p => if p.2 < 32 then { p.1 with bme := false, mse := false, present := false } else p.1) }

/-- PERST_N (R463, R471): a function-level reset of all 32 functions; the PCIe controller is reset and stays so. -/
def execPerstN (s : State) : Host.Outcome State Fault Refusal :=
  .next (modBoot (controllerReset ((List.range 32).foldl resetFunction s)) (fun b => { b with perst := true }))

/-- VF Enable is cleared: no virtual function is present (R397, R471). -/
def clearVfs (s : State) : State :=
  { s with funcs := s.funcs.zipIdx.map (fun p => if 1 ≤ p.2 ∧ p.2 < 32 then { p.1 with present := false } else p.1) }

/-- PF_FLR (R471): R379 for the PF, then for every VF; VF Enable is cleared. -/
def execPfFlr (s : State) : Host.Outcome State Fault Refusal :=
  .next (clearVfs ((List.range 32).foldl resetFunction s))

/-- VF_FLR (R471): R379 for each VF concerned: those reset, or every one when VF Enable is cleared. -/
def execVfFlr (vfs : List Nat) (clearEnable : Bool) (s : State) : Host.Outcome State Fault Refusal :=
  .next (
    let all := (List.range 31).map (· + 1)
    let s1 := ((if clearEnable then all else vfs).filter (fun f => decide (1 ≤ f) && decide (f < 32))).foldl resetFunction s
    if clearEnable then clearVfs s1 else s1)

end Sys2Proof.Machine
end

