-- ==== Sys2Proof/Machine/Messages.lean ====
section
/-! DEFINITION. Machine/Messages.lean: Keeper-to-Keeper messages at their receiver (R265, R284, R313, R316, R328, R358 to R365,
R388, R457, R458, R467). The spec gives the payload no layout: a message says what KeeperMsg spells
(notes/assumptions/19.md). -/

namespace Sys2Proof.Machine

/-- A command that this module had forwarded to the lost anchor: a run goes on at the acting one from the step in hand, with
what is committed of it (R316, R363); any other ends with FAULT (R332). -/
def handOver (s : State) (m : Mooring) (anchor : Nat) (o : LongOp) : State :=
  if o.opcode ≠ 0x30 then finishOp s o.func o.tag stFault 0 0
  else
    let t := tellNode s anchor (.forward (selfNode s) o.func o.tag m.desc.id o.deadline
      (.resume m.step (m.runCount - m.decided) m.position m.runCommitted))
    match o.ending with
    | some status => tellNode t anchor (.abortForwarded (selfNode s) o.func o.tag status)
    | none => t

/-- A member that hears of a recovery from another module than the anchor it knows takes that module as acting anchor
(R363). -/
def heardFrom (s : State) (id src : Nat) : State :=
  match mooringAt s id with
  | none => s
  | some m =>
    if anchorOf m = src then s
    else
      (s.keeper.ops.filter (fun o => o.mooring == id && decide (o.func < 64) && decide (o.kind = .forwarded))).foldl (fun s o => handOver s m src o)
        (modMooring s id (fun y => { y with acting := some src }))

/-- A run stops on the anchor's word (R226, R335); where the anchor is told, it tells the others. -/
def stopRunHeard (s : State) (id src status : Nat) : State :=
  match mooringAt s id with
  | none => s
  | some m =>
    if anchorOf m = selfNode s then
      stopHere (tellNodes s (.stopRun id status) ((otherMembers s m).filter (fun n => n != src))) id status
    else stopHere (heardFrom s id src) id status

/-- A module's part of a move has failed (R305); a lightship that fails while it joins is lost again (R364). -/
def moveFailed (s : State) (id node : Nat) : State :=
  match mooringAt s id with
  | none => s
  | some m =>
    if (joiningNow m).any (fun q => q.1 == node) then recoverMember (tellNode s node (.release id)) id node
    else match m.moving with
      | none => s
      | some v =>
        if v.why = 0 then (joiningNow m).foldl (fun s q => recoverMember (tellNode s q.1 (.release id)) id q.1) s
        else failMove s id

/-- This module's part of a permute begins: a poisoned line among what it is to send ends it with a collective fault
(R143, R304, R312, R458). -/
def beginPermute (s : State) (m : Mooring) (p : Parsed) (v : Moving) : State :=
  let id := m.desc.id
  let s0 := modMooring s id (fun y => { y with moving := y.moving.map (fun w => { w with begun := true }) })
  match v.source with
  | .map d subs pl hs =>
    (match permutePoison s0 m p v d subs pl with
    | [] => permuteFromMap s0 m p v d subs pl hs
    | ls => modMooring (ls.foldl (fun s a => notePoisonLine s (some id) 0xFFFF a) s0) id (fun y => { y with
        moving := y.moving.map (fun w => { w with failed := true }) }))
  | .snapshot name =>
    match partHere s0 name with
    | some q => permuteFromPart s0 m.desc m.daymark m.subs p q.2.1 q.2.2
    | none => s0

/-- This module's part of a permute has failed: the module that awaits its end hears of it (R305). -/
def permuteFails (s : State) (id : Nat) (v : Moving) : State :=
  if v.asker = selfNode s then moveFailed s id (selfNode s) else tellNode s v.asker (.permuteFailed id (selfNode s))

/-- PERMUTE (R304, R305, R458): this module's part begins; when all it is owed has come and all it sent is acknowledged,
the anchor hears of it; a failed stream or a poisoned source fails the move. -/
def execPermute (mooring : Nat) (s : State) : Host.Outcome State Fault Refusal :=
  .next (match mooringAt s mooring with
    | none => s
    | some m =>
      match m.moving, bundleAt s m.bundle with
      | some v, some b =>
        let s1 := if v.failed ∨ v.begun then s else beginPermute s m b.p v
        (match (mooringAt s1 mooring).bind (·.moving) with
        | none => s1
        | some w =>
          if w.failed then permuteFails s1 mooring w
          else if permuteDone s1 mooring w then completeMove (reportMove s1 mooring w) mooring else s1)
      | _, _ => s)

/-- A member has saved its part of a snapshot, or could not (R457). -/
def partSaved (s : State) (id node : Nat) (name : BitVec 256) (status : Nat) : State :=
  match mooringAt s id with
  | none => s
  | some m =>
    if m.saving ≠ some name then s
    else if status ≠ stSuccess then
      let s1 := modMooring s id (fun y => { y with
        saving := none
        savedBy := [] })
      let s2 := match s1.keeper.ops.find? (fun o => o.mooring == id && o.kind == .snapshot name) with
        | some o => finishOp s1 o.func o.tag status 0 0
        | none => s1
      atBoundary (unpause s2 id) id
    else
      let s1 := modMooring s id (fun y => { y with
        savedBy := if y.savedBy.contains node then y.savedBy else y.savedBy ++ [node] })
      atBoundary (unpause (finishSnapshot s1 id) id) id

/-- A child in the combining tree reports that the kept copies of its subtree stand at a step; the report goes on up
(R310, R359). -/
def copiesInstalled (s : State) (id step node : Nat) : State :=
  reportCopies (modMooring s id (fun m =>
    if (m.announced ∧ m.moving.isNone) ∨ copyStep m ≠ step ∨ m.installedBy.contains node then m
    else { m with installedBy := m.installedBy ++ [node] })) id

/-- A snapshot's part here is deleted. -/
def deletePartHere (s : State) (id : Nat) (name : BitVec 256) : State :=
  modFlash s (fun f => { f with objs := f.objs.filter (fun o => !(o.name == name && objMooring o == some id)) })

/-- A neighbour that comes up and matches receives the name of the time root (R284). -/
def greetBack (s : State) (port src : Nat) : State :=
  match s.time.named with
  | none => s
  | some n => if (portAt s port).up then tellNode s src (.timeRoot (some n)) else s

/-- What a message from a node does. -/
def keeperAct (s : State) (src : Nat) (msg : KeeperMsg) : State :=
  match msg with
  | .timeRoot node => nameRoot s node
  | .probe id => tellNode s src (.probeAnswer id (selfNode s) (probeAnswerHere s id))
  | .probeAnswer id node a => probeEnded s id node a
  | .ringChange id axis effective brk => noteRing s id axis effective brk
  | .neighbour port node sizes => greetBack (checkNeighbour s ⟨port, node, sizes⟩) port src
  | .forward node func tag id deadline cmd => runForwarded s node func tag id deadline cmd
  | .abortForwarded node func tag status => abortForwardedHere s node func tag status
  | .forwardReply func tag status result detail => forwardReplied s src func tag status result detail
  | .forwardStep func tag status flags step dm => tellFull (forwardedStep s func tag status flags step dm) func tag src
  | .stagingFull func tag => modOp s (64 * (src + 1) + func) tag (fun q => { q with paused := some src })
  | .stagingRoom func tag => modOp s (64 * (src + 1) + func) tag (fun q => { q with paused := none })
  | .forwardAnswer func tag status flags detail dm => forwardedEnd s func tag status flags detail dm
  | .newMap x => takeMap s x src
  | .openAsk x lent => openAsked s x lent src
  | .openAnswer lent id a => openAnswered s lent id a
  | .opened id node status => openedAt s id node status
  | .raise id tensor => raiseHeard s id tensor
  | .faultAsk id => faultAsked s id src
  | .faultDone id node => handledAt s id node
  | .askPoint id lost => tellPoint s id lost src
  | .pointIs id lost holder point => pointHeard s id lost holder point
  | .oldMap id => oldMapHere s id
  | .permuted id node bytes => memberMoved s id node bytes
  | .permuteFailed id node => moveFailed s id node
  | .goOn id leaving => passHold (goOnHere s id leaving) id
  | .pause id => modMooring s id (fun m => { m with
      paused := true
      run := if m.run == .running then .stopping else m.run })
  | .release id => leaveHere s id
  | .startRun id first count position => startRunHere s id first count position
  | .stopRun id status => stopRunHeard s id src status
  | .stopWork id => windDown (heardFrom s id src) id
  | .undoStep id step => undoCommitted s id step
  | .bypass node => bypassNode s node
  | .elected id lost =>
    (match mooringAt s id with
    | some m => if m.acting = some (selfNode s) ∨ !(membersOf s m).contains lost then s else takeAnchor s id lost
    | none => s)
  | .redirect lost ship => redirectHere s lost ship
  | .savePart id name job =>
    let r := savePartHere s id name job
    tellNode r.1 src (.savedPart id (selfNode s) name r.2)
  | .savedPart id node name status => partSaved s id node name status
  | .restorePart x name => givePart s x name
  | .restoreHere id name job asker => restoreHere s id name job asker
  | .deletePart id name => deletePartHere s id name
  | .tensorWrite id tensor off asker func tag bytes => remoteWrite s id tensor off asker func tag bytes
  | .tensorRead id tensor off len step asker func tag => remoteRead s id tensor off len step asker func tag
  | .tensorAnswer func tag status bytes => tensorAnswered s func tag status bytes
  | .event code id node unit detail time step dm func => postEvent s func ⟨time, code, id, node, step, unit, dm, detail, []⟩
  | .suspect id node =>
    (match mooringAt s id with
    | some m => if anchorOf m = selfNode s ∧ (membersOf s m).contains node then probeNode s id node else s
    | none => s)
  | .routerOnly id node =>
    (match mooringAt s id with
    | some m => if anchorOf m = selfNode s ∧ (membersOf s m).contains node then probeNode s id node else s
    | none => s)
  | .servingEnd id node step flags bad fault => servingEnded s id node step (BitVec.ofNat 16 flags) bad fault
  | .servingDecided id step fault => servingHeard s id step fault
  | .slotShows id func run committed dm => slotShows s id func run committed dm
  | .slotGone id func => slotGone s id func
  | .tenderInstalled id step node => copiesInstalled s id step node
  | .tenderAnnounced id step => announceHere s id step

/-- KEEPER_MSG (R265): a message delivered to the Keeper; while the firmware does not run, the endpoint takes none. -/
def execKeeperMsg (p : Packet) (msg : KeeperMsg) (s : State) : Host.Outcome State Fault Refusal :=
  .next (onPacket s 0x0A p s.boot.keeperUp (fun s q => keeperAct s q.src msg))

end Sys2Proof.Machine
end

