-- ==== Sys2Proof/Machine/Dispatch.lean ====
section
/-! DEFINITION. Machine/Dispatch.lean: one arm per command, each a direct call of its meaning. -/

namespace Sys2Proof.Machine

def exec (i : Instr) (s : State) : Host.Outcome State Fault Refusal :=
  match i with
  | .nop x0 => Sys2Proof.Machine.execNop x0 s
  | .identify x0 => Sys2Proof.Machine.execIdentify x0 s
  | .cqBind x0 x1 x2 x3 x4 x5 x6 x7 => Sys2Proof.Machine.execCqBind x0 x1 x2 x3 x4 x5 x6 x7 s
  | .cqUnbind x0 x1 => Sys2Proof.Machine.execCqUnbind x0 x1 s
  | .hwinOpen x0 x1 x2 x3 x4 => Sys2Proof.Machine.execHwinOpen x0 x1 x2 x3 x4 s
  | .hwinClose x0 x1 => Sys2Proof.Machine.execHwinClose x0 x1 s
  | .abort x0 x1 x2 => Sys2Proof.Machine.execAbort x0 x1 x2 s
  | .bundleLoad x0 x1 x2 x3 => Sys2Proof.Machine.execBundleLoad x0 x1 x2 x3 s
  | .bundleUnload x0 x1 => Sys2Proof.Machine.execBundleUnload x0 x1 s
  | .bundleStore x0 x1 x2 => Sys2Proof.Machine.execBundleStore x0 x1 x2 s
  | .mooringOpen x0 x1 => Sys2Proof.Machine.execMooringOpen x0 x1 s
  | .mooringGrow x0 x1 => Sys2Proof.Machine.execMooringGrow x0 x1 s
  | .mooringShrink x0 x1 => Sys2Proof.Machine.execMooringShrink x0 x1 s
  | .mooringMove x0 x1 => Sys2Proof.Machine.execMooringMove x0 x1 s
  | .mooringLend x0 x1 x2 => Sys2Proof.Machine.execMooringLend x0 x1 x2 s
  | .mooringClose x0 => Sys2Proof.Machine.execMooringClose x0 s
  | .mooringStatus x0 => Sys2Proof.Machine.execMooringStatus x0 s
  | .runSteps x0 x1 x2 x3 => Sys2Proof.Machine.execRunSteps x0 x1 x2 x3 s
  | .tensorWrite x0 x1 x2 x3 x4 x5 => Sys2Proof.Machine.execTensorWrite x0 x1 x2 x3 x4 x5 s
  | .tensorRead x0 x1 x2 x3 x4 x5 x6 => Sys2Proof.Machine.execTensorRead x0 x1 x2 x3 x4 x5 x6 s
  | .snapshotSave x0 x1 => Sys2Proof.Machine.execSnapshotSave x0 x1 s
  | .snapshotRestore x0 x1 x2 => Sys2Proof.Machine.execSnapshotRestore x0 x1 x2 s
  | .snapshotDelete x0 x1 => Sys2Proof.Machine.execSnapshotDelete x0 x1 s
  | .shoreStart x0 x1 x2 x3 x4 x5 => Sys2Proof.Machine.execShoreStart x0 x1 x2 x3 x4 x5 s
  | .shoreStop x0 x1 => Sys2Proof.Machine.execShoreStop x0 x1 s
  | .selftest x0 => Sys2Proof.Machine.execSelftest x0 s
  | .returnToService x0 => Sys2Proof.Machine.execReturnToService x0 s
  | .faultPolicy x0 x1 x2 => Sys2Proof.Machine.execFaultPolicy x0 x1 x2 s
  | .setSplit x0 x1 => Sys2Proof.Machine.execSetSplit x0 x1 s
  | .timeRoot x0 x1 => Sys2Proof.Machine.execTimeRoot x0 x1 s
  | .telemetryRead x0 x1 x2 x3 => Sys2Proof.Machine.execTelemetryRead x0 x1 x2 x3 s
  | .eventLogRead x0 x1 x2 => Sys2Proof.Machine.execEventLogRead x0 x1 x2 s
  | .powerSet x0 => Sys2Proof.Machine.execPowerSet x0 s
  | .attest x0 x1 => Sys2Proof.Machine.execAttest x0 x1 s
  | .fwWrite x0 x1 x2 x3 => Sys2Proof.Machine.execFwWrite x0 x1 x2 x3 s
  | .fwActivate x0 x1 => Sys2Proof.Machine.execFwActivate x0 x1 s
  | .debugMode x0 x1 => Sys2Proof.Machine.execDebugMode x0 x1 s
  | .accTagRead x0 x1 x2 x3 x4 x5 x6 => Sys2Proof.Machine.execAccTagRead x0 x1 x2 x3 x4 x5 x6 s
  | .queueHeadWrite x0 x1 x2 => Sys2Proof.Machine.execQueueHeadWrite x0 x1 x2 s
  | .intStatusClear x0 x1 x2 => Sys2Proof.Machine.execIntStatusClear x0 x1 x2 s
  | .registerWrite x0 x1 x2 => Sys2Proof.Machine.execRegisterWrite x0 x1 x2 s
  | .moderationTimer x0 x1 => Sys2Proof.Machine.execModerationTimer x0 x1 s
  | .deadlineExpiry x0 x1 => Sys2Proof.Machine.execDeadlineExpiry x0 x1 s
  | .forwardTimeout x0 x1 => Sys2Proof.Machine.execForwardTimeout x0 x1 s
  | .perstN => Sys2Proof.Machine.execPerstN s
  | .pfFlr => Sys2Proof.Machine.execPfFlr s
  | .vfFlr x0 x1 => Sys2Proof.Machine.execVfFlr x0 x1 s
  | .busMasterEnableClear x0 => Sys2Proof.Machine.execBusMasterEnableClear x0 s
  | .memorySpaceEnableClear x0 => Sys2Proof.Machine.execMemorySpaceEnableClear x0 s
  | .powerGood x0 => Sys2Proof.Machine.execPowerGood x0 s
  | .bringupRetry x0 => Sys2Proof.Machine.execBringupRetry x0 s
  | .earlyLight => Sys2Proof.Machine.execEarlyLight s
  | .fullLight x0 => Sys2Proof.Machine.execFullLight x0 s
  | .inputStageStart => Sys2Proof.Machine.execInputStageStart s
  | .inputVoltageChange x0 => Sys2Proof.Machine.execInputVoltageChange x0 s
  | .pwrEn x0 => Sys2Proof.Machine.execPwrEn x0 s
  | .railFault x0 => Sys2Proof.Machine.execRailFault x0 s
  | .ballastSample x0 => Sys2Proof.Machine.execBallastSample x0 s
  | .governorTick x0 x1 => Sys2Proof.Machine.execGovernorTick x0 x1 s
  | .thermalSample x0 => Sys2Proof.Machine.execThermalSample x0 s
  | .hardwareThermalTrip => Sys2Proof.Machine.execHardwareThermalTrip s
  | .fillHoldExpiry x0 => Sys2Proof.Machine.execFillHoldExpiry x0 s
  | .pwrBrakeAssert => Sys2Proof.Machine.execPwrBrakeAssert s
  | .pwrBrakeRelease => Sys2Proof.Machine.execPwrBrakeRelease s
  | .referenceLost => Sys2Proof.Machine.execReferenceLost s
  | .referenceRestored x0 => Sys2Proof.Machine.execReferenceRestored x0 s
  | .ppsPulse x0 x1 => Sys2Proof.Machine.execPpsPulse x0 x1 s
  | .ppsTimeout => Sys2Proof.Machine.execPpsTimeout s
  | .watchdogMiss => Sys2Proof.Machine.execWatchdogMiss s
  | .keeperRestart => Sys2Proof.Machine.execKeeperRestart s
  | .trialFirmwareConfirm => Sys2Proof.Machine.execTrialFirmwareConfirm s
  | .heartbeatTick => Sys2Proof.Machine.execHeartbeatTick s
  | .snapshotCreditGrow => Sys2Proof.Machine.execSnapshotCreditGrow s
  | .retentionScan x0 => Sys2Proof.Machine.execRetentionScan x0 s
  | .memoryScrub x0 x1 => Sys2Proof.Machine.execMemoryScrub x0 x1 s
  | .correctedEccBurst x0 => Sys2Proof.Machine.execCorrectedEccBurst x0 s
  | .stepStart x0 => Sys2Proof.Machine.execStepStart x0 s
  | .schedEnd x0 => Sys2Proof.Machine.execSchedEnd x0 s
  | .endRetire x0 => Sys2Proof.Machine.execEndRetire x0 s
  | .lens x0 => Sys2Proof.Machine.execLens x0 s
  | .chain x0 => Sys2Proof.Machine.execChain x0 s
  | .dma x0 => Sys2Proof.Machine.execDma x0 s
  | .wait x0 => Sys2Proof.Machine.execWait x0 s
  | .waitSatisfied x0 => Sys2Proof.Machine.execWaitSatisfied x0 s
  | .coll x0 => Sys2Proof.Machine.execColl x0 s
  | .hold x0 => Sys2Proof.Machine.execHold x0 s
  | .update x0 => Sys2Proof.Machine.execUpdate x0 s
  | .pass x0 x1 => Sys2Proof.Machine.execPass x0 x1 s
  | .drain x0 => Sys2Proof.Machine.execDrain x0 s
  | .drainStart x0 => Sys2Proof.Machine.execDrainStart x0 s
  | .tileLoadStart x0 => Sys2Proof.Machine.execTileLoadStart x0 s
  | .tileRelease x0 => Sys2Proof.Machine.execTileRelease x0 s
  | .lensDescriptorRetire x0 => Sys2Proof.Machine.execLensDescriptorRetire x0 s
  | .lensClockChange x0 => Sys2Proof.Machine.execLensClockChange x0 s
  | .bindingStart x0 => Sys2Proof.Machine.execBindingStart x0 s
  | .chainRowStart x0 => Sys2Proof.Machine.execChainRowStart x0 s
  | .bindingRetire x0 => Sys2Proof.Machine.execBindingRetire x0 s
  | .loadArrival x0 => Sys2Proof.Machine.execLoadArrival x0 s
  | .vMov x0 x1 => Sys2Proof.Machine.execVMov x0 x1 s
  | .vLdi x0 x1 => Sys2Proof.Machine.execVLdi x0 x1 s
  | .vSetg x0 x1 => Sys2Proof.Machine.execVSetg x0 x1 s
  | .vScale x0 x1 => Sys2Proof.Machine.execVScale x0 x1 s
  | .vGetg x0 x1 => Sys2Proof.Machine.execVGetg x0 x1 s
  | .vSel x0 x1 => Sys2Proof.Machine.execVSel x0 x1 s
  | .vNop x0 x1 => Sys2Proof.Machine.execVNop x0 x1 s
  | .vAdd x0 x1 => Sys2Proof.Machine.execVAdd x0 x1 s
  | .vSub x0 x1 => Sys2Proof.Machine.execVSub x0 x1 s
  | .vNeg x0 x1 => Sys2Proof.Machine.execVNeg x0 x1 s
  | .vAbs x0 x1 => Sys2Proof.Machine.execVAbs x0 x1 s
  | .vMul x0 x1 => Sys2Proof.Machine.execVMul x0 x1 s
  | .vMulsh x0 x1 => Sys2Proof.Machine.execVMulsh x0 x1 s
  | .vMadd x0 x1 => Sys2Proof.Machine.execVMadd x0 x1 s
  | .vMsub x0 x1 => Sys2Proof.Machine.execVMsub x0 x1 s
  | .vMin x0 x1 => Sys2Proof.Machine.execVMin x0 x1 s
  | .vMax x0 x1 => Sys2Proof.Machine.execVMax x0 x1 s
  | .vClamp x0 x1 => Sys2Proof.Machine.execVClamp x0 x1 s
  | .vAddi x0 x1 => Sys2Proof.Machine.execVAddi x0 x1 s
  | .vMuli x0 x1 => Sys2Proof.Machine.execVMuli x0 x1 s
  | .vResc x0 x1 => Sys2Proof.Machine.execVResc x0 x1 s
  | .vRescf x0 x1 => Sys2Proof.Machine.execVRescf x0 x1 s
  | .vAlign x0 x1 => Sys2Proof.Machine.execVAlign x0 x1 s
  | .vNorm x0 x1 => Sys2Proof.Machine.execVNorm x0 x1 s
  | .vAnd x0 x1 => Sys2Proof.Machine.execVAnd x0 x1 s
  | .vOr x0 x1 => Sys2Proof.Machine.execVOr x0 x1 s
  | .vXor x0 x1 => Sys2Proof.Machine.execVXor x0 x1 s
  | .vNot x0 x1 => Sys2Proof.Machine.execVNot x0 x1 s
  | .vShli x0 x1 => Sys2Proof.Machine.execVShli x0 x1 s
  | .vShra x0 x1 => Sys2Proof.Machine.execVShra x0 x1 s
  | .vShrl x0 x1 => Sys2Proof.Machine.execVShrl x0 x1 s
  | .vCeq x0 x1 => Sys2Proof.Machine.execVCeq x0 x1 s
  | .vCne x0 x1 => Sys2Proof.Machine.execVCne x0 x1 s
  | .vClt x0 x1 => Sys2Proof.Machine.execVClt x0 x1 s
  | .vCle x0 x1 => Sys2Proof.Machine.execVCle x0 x1 s
  | .vCgt x0 x1 => Sys2Proof.Machine.execVCgt x0 x1 s
  | .vCge x0 x1 => Sys2Proof.Machine.execVCge x0 x1 s
  | .vCsat x0 x1 => Sys2Proof.Machine.execVCsat x0 x1 s
  | .vMand x0 x1 => Sys2Proof.Machine.execVMand x0 x1 s
  | .vMor x0 x1 => Sys2Proof.Machine.execVMor x0 x1 s
  | .vMnot x0 x1 => Sys2Proof.Machine.execVMnot x0 x1 s
  | .vTlu x0 x1 => Sys2Proof.Machine.execVTlu x0 x1 s
  | .vRecip x0 x1 => Sys2Proof.Machine.execVRecip x0 x1 s
  | .vRsqrt x0 x1 => Sys2Proof.Machine.execVRsqrt x0 x1 s
  | .vLog2i x0 x1 => Sys2Proof.Machine.execVLog2i x0 x1 s
  | .vRand x0 x1 => Sys2Proof.Machine.execVRand x0 x1 s
  | .vRbits x0 x1 => Sys2Proof.Machine.execVRbits x0 x1 s
  | .vReq x0 x1 => Sys2Proof.Machine.execVReq x0 x1 s
  | .vReqr x0 x1 => Sys2Proof.Machine.execVReqr x0 x1 s
  | .vRec x0 x1 => Sys2Proof.Machine.execVRec x0 x1 s
  | .vRjam x0 x1 => Sys2Proof.Machine.execVRjam x0 x1 s
  | .vRadd x0 x1 => Sys2Proof.Machine.execVRadd x0 x1 s
  | .vMergeAdd x0 x1 => Sys2Proof.Machine.execVMergeAdd x0 x1 s
  | .vMergeRead x0 x1 => Sys2Proof.Machine.execVMergeRead x0 x1 s
  | .vMergeTake x0 x1 => Sys2Proof.Machine.execVMergeTake x0 x1 s
  | .vRsum x0 x1 => Sys2Proof.Machine.execVRsum x0 x1 s
  | .vRmax x0 x1 => Sys2Proof.Machine.execVRmax x0 x1 s
  | .vRmin x0 x1 => Sys2Proof.Machine.execVRmin x0 x1 s
  | .vRcnt x0 x1 => Sys2Proof.Machine.execVRcnt x0 x1 s
  | .vLdb x0 x1 => Sys2Proof.Machine.execVLdb x0 x1 s
  | .vStb x0 x1 => Sys2Proof.Machine.execVStb x0 x1 s
  | .vLdw x0 x1 => Sys2Proof.Machine.execVLdw x0 x1 s
  | .vStw x0 x1 => Sys2Proof.Machine.execVStw x0 x1 s
  | .vLdr x0 x1 => Sys2Proof.Machine.execVLdr x0 x1 s
  | .vStr x0 x1 => Sys2Proof.Machine.execVStr x0 x1 s
  | .move x0 => Sys2Proof.Machine.execMove x0 s
  | .loop x0 => Sys2Proof.Machine.execLoop x0 s
  | .dmaWait x0 => Sys2Proof.Machine.execDmaWait x0 s
  | .dmaWaitSatisfied x0 => Sys2Proof.Machine.execDmaWaitSatisfied x0 s
  | .signal x0 => Sys2Proof.Machine.execSignal x0 s
  | .signalIncrement x0 => Sys2Proof.Machine.execSignalIncrement x0 s
  | .move3 x0 => Sys2Proof.Machine.execMove3 x0 s
  | .channelStop x0 => Sys2Proof.Machine.execChannelStop x0 s
  | .reduceScatter x0 x1 => Sys2Proof.Machine.execReduceScatter x0 x1 s
  | .allGather x0 x1 => Sys2Proof.Machine.execAllGather x0 x1 s
  | .allReduce x0 x1 => Sys2Proof.Machine.execAllReduce x0 x1 s
  | .broadcast x0 x1 => Sys2Proof.Machine.execBroadcast x0 x1 s
  | .send x0 x1 => Sys2Proof.Machine.execSend x0 x1 s
  | .recv x0 x1 => Sys2Proof.Machine.execRecv x0 x1 s
  | .allToAllV x0 x1 => Sys2Proof.Machine.execAllToAllV x0 x1 s
  | .permute x0 => Sys2Proof.Machine.execPermute x0 s
  | .collectiveComplete x0 x1 => Sys2Proof.Machine.execCollectiveComplete x0 x1 s
  | .verdictContribution x0 => Sys2Proof.Machine.execVerdictContribution x0 s
  | .verdict x0 x1 => Sys2Proof.Machine.execVerdict x0 x1 s
  | .verdictTimerExpiry x0 => Sys2Proof.Machine.execVerdictTimerExpiry x0 s
  | .tenderInstall x0 x1 => Sys2Proof.Machine.execTenderInstall x0 x1 s
  | .tenderAnnounce x0 => Sys2Proof.Machine.execTenderAnnounce x0 s
  | .servingStepEnd x0 => Sys2Proof.Machine.execServingStepEnd x0 s
  | .beaconSample x0 => Sys2Proof.Machine.execBeaconSample x0 s
  | .computeResetDone x0 => Sys2Proof.Machine.execComputeResetDone x0 s
  | .resetHangLimit x0 => Sys2Proof.Machine.execResetHangLimit x0 s
  | .targetedTestResult x0 x1 => Sys2Proof.Machine.execTargetedTestResult x0 x1 s
  | .daymarkAdvance x0 => Sys2Proof.Machine.execDaymarkAdvance x0 s
  | .probeTimeout x0 x1 x2 => Sys2Proof.Machine.execProbeTimeout x0 x1 x2 s
  | .shoreAccessFault x0 x1 => Sys2Proof.Machine.execShoreAccessFault x0 x1 s
  | .codewordReceive x0 x1 => Sys2Proof.Machine.execCodewordReceive x0 x1 s
  | .controlFlit x0 x1 x2 => Sys2Proof.Machine.execControlFlit x0 x1 x2 s
  | .lossOfLock x0 => Sys2Proof.Machine.execLossOfLock x0 s
  | .controlFlitTimeout x0 => Sys2Proof.Machine.execControlFlitTimeout x0 s
  | .linkTrainingDone x0 x1 => Sys2Proof.Machine.execLinkTrainingDone x0 x1 s
  | .retrainTimer x0 => Sys2Proof.Machine.execRetrainTimer x0 s
  | .packetHop x0 x1 => Sys2Proof.Machine.execPacketHop x0 x1 s
  | .headWaitTimeout x0 x1 => Sys2Proof.Machine.execHeadWaitTimeout x0 x1 s
  | .lightListInstall x0 x1 => Sys2Proof.Machine.execLightListInstall x0 x1 s
  | .peerWrite x0 => Sys2Proof.Machine.execPeerWrite x0 s
  | .peerRead x0 => Sys2Proof.Machine.execPeerRead x0 s
  | .peerData x0 => Sys2Proof.Machine.execPeerData x0 s
  | .peerDone x0 => Sys2Proof.Machine.execPeerDone x0 s
  | .collPacket x0 => Sys2Proof.Machine.execCollPacket x0 s
  | .keeperMsg x0 x1 => Sys2Proof.Machine.execKeeperMsg x0 x1 s
  | .ack x0 => Sys2Proof.Machine.execAck x0 s
  | .nak x0 => Sys2Proof.Machine.execNak x0 s
  | .ackTimer x0 x1 => Sys2Proof.Machine.execAckTimer x0 x1 s
  | .streamTimeout x0 x1 => Sys2Proof.Machine.execStreamTimeout x0 x1 s
  | .timeServoTick => Sys2Proof.Machine.execTimeServoTick s
  | .holdoverTimeout => Sys2Proof.Machine.execHoldoverTimeout s
  | .rootReselect => Sys2Proof.Machine.execRootReselect s
  | .pldmEffecterWrite x0 x1 => Sys2Proof.Machine.execPldmEffecterWrite x0 x1 s
  | .pldmFirmwareUpdate x0 x1 x2 x3 => Sys2Proof.Machine.execPldmFirmwareUpdate x0 x1 x2 x3 s
  | .mctpControl x0 => Sys2Proof.Machine.execMctpControl x0 s
  | .getVersion => Sys2Proof.Machine.execGetVersion s
  | .getCapabilities => Sys2Proof.Machine.execGetCapabilities s
  | .negotiateAlgorithms x0 x1 => Sys2Proof.Machine.execNegotiateAlgorithms x0 x1 s
  | .getDigests => Sys2Proof.Machine.execGetDigests s
  | .getCertificate x0 x1 x2 => Sys2Proof.Machine.execGetCertificate x0 x1 x2 s
  | .challenge x0 x1 => Sys2Proof.Machine.execChallenge x0 x1 s
  | .getMeasurements x0 x1 x2 => Sys2Proof.Machine.execGetMeasurements x0 x1 x2 s
  | .dmaDescriptorRetire x0 => Sys2Proof.Machine.execDmaDescriptorRetire x0 s
  | .flashProgramOrEraseDone x0 x1 => Sys2Proof.Machine.execFlashProgramOrEraseDone x0 x1 s
  | .fullBistGroupEnd x0 => Sys2Proof.Machine.execFullBistGroupEnd x0 s
  | .linkDownReport x0 x1 x2 => Sys2Proof.Machine.execLinkDownReport x0 x1 x2 s
  | .hostWindowError x0 => Sys2Proof.Machine.execHostWindowError x0 s
  | .busMasterEnableSet x0 => Sys2Proof.Machine.execBusMasterEnableSet x0 s
  | .memorySpaceEnableSet x0 => Sys2Proof.Machine.execMemorySpaceEnableSet x0 s
  | .vfEnableSet => Sys2Proof.Machine.execVfEnableSet s
  | .perstNRelease => Sys2Proof.Machine.execPerstNRelease s

end Sys2Proof.Machine
end

