-- ==== Sys2Proof/Safety.lean ====
section
/-! DEFINITION. Safety.lean: what counts as a well-formed state of the module and as a safe step. -/

namespace Sys2Proof.Machine

/-- A step is safe when it answers a next state. -/
def Safe (o : Host.Outcome State Fault Refusal) : Prop := ∃ t, o = .next t

/-- A vector register has 128 lanes in four groups (R112). -/
def VReg.Ok (r : VReg) : Prop := r.lanes.length = 128 ∧ r.g.length = 4

/-- 64 vector registers (R112). -/
def RegsOk (rs : List VReg) : Prop := rs.length = 64 ∧ ∀ r ∈ rs, r.Ok

/-- A vector engine has 64 registers and eight masks (R112). -/
def VEngine.Ok (v : VEngine) : Prop := RegsOk v.regs ∧ v.masks.length = 8

/-- A lantern has 16 event counters (R155) and four DMA channels (R170). -/
def Lantern.Ok (x : Lantern) : Prop := x.vec.Ok ∧ x.events.length = 16 ∧ x.dma.length = 4

/-- A function has four mailboxes, 16 queues (R371) and eight mooring slots (R405). -/
def Func.Ok (f : Func) : Prop := f.mbox.length = 4 ∧ f.queues.length = 16 ∧ f.slots.length = 8

/-- 192 logical lanterns (R9). -/
def LanternsOk (xs : List Lantern) : Prop := xs.length = 192 ∧ ∀ x ∈ xs, x.Ok

/-- 44 functions (R371). -/
def FuncsOk (fs : List Func) : Prop := fs.length = 44 ∧ ∀ f ∈ fs, f.Ok

/-- The numbers of the module's parts: lanterns and functions with theirs, 16 system channels (R171), 8 ports (R273),
12 shore cores (R369), 4 towers (R7). -/
def State.Shape (s : State) : Prop :=
  LanternsOk s.lanterns ∧ FuncsOk s.funcs ∧ s.sysChans.length = 16 ∧ s.router.ports.length = 8 ∧
  s.shore.length = 12 ∧ s.towers.length = 4

/-- The memory's canonical form: addresses strictly rising, no listed byte zero. -/
def State.MemoryOk (s : State) : Prop := memoryWf s.mem = true

/-- What every step keeps. -/
def State.Inv (s : State) : Prop := s.Shape ∧ s.MemoryOk

/-! ### The words that statements use -/

/-- Mailbox m holds request r of opcode op, the Keeper examines mailboxes, no request before it on the same mooring is still
to start, and the checks that every command meets pass (R374, R377, R380, R382, R390). -/
def Asked (s : State) (m : Mbox) (op : Nat) (r : Request) : Prop :=
  (mboxAt s m).req = some r ∧ r.opcode = op ∧ keeperExamines s = true ∧ firstInLine s r = true ∧
    commandCheck s m.func r = none

/-- Mailbox m shows the response to request r (R378): its status, its result, its detail; the request is done. -/
def Answered (t : State) (m : Mbox) (r : Request) (status : Nat) (result : List Byte) (detail : Nat) : Prop :=
  (mboxAt t m).req = none ∧ (mboxAt t m).respSeq = r.seq ∧ (mboxAt t m).respLen = result.length ∧
  (mboxAt t m).respBody = slotOf (responseHeader r.seq r.opcode status r.tag result.length 0 detail ++ result)

/-- State t is state u with the completion record of r's command accepted into the queue that r names (R190, R191). -/
def Reported (t u : State) (f : Nat) (r : Request) (status flags detail : Nat) : Prop :=
  t = postRecord u f r.cq (some r.tag)
    (completionNat r.tag r.opcode status flags r.mooring 0 (mooringDaymark u r.mooring) detail)

/-- Everything but the host interface and the Keeper's books stays: memory, lanterns, channels, towers, moorings, shore
cores, router, time, power, boot and flash. -/
def SameWork (s t : State) : Prop :=
  t.mem = s.mem ∧ t.poison = s.poison ∧ t.lanterns = s.lanterns ∧ t.sysChans = s.sysChans ∧ t.towers = s.towers ∧
  t.moorings = s.moorings ∧ t.shore = s.shore ∧ t.router = s.router ∧ t.time = s.time ∧ t.power = s.power ∧
  t.boot = s.boot ∧ t.flash = s.flash

/-- As SameWork, but that a copy of the Keeper's own may have counted on a system channel (R171, R195). -/
def SameWorkCopied (s t : State) : Prop :=
  SameWork { s with sysChans := t.sysChans } t ∧ t.sysChans.length = s.sysChans.length ∧
  ∀ n, chanAt t (.system n) = { chanAt s (.system n) with counters := (chanAt t (.system n)).counters }

/-- Everything but the lanterns and the moorings stays. -/
def SameOutside (s t : State) : Prop :=
  t.mem = s.mem ∧ t.poison = s.poison ∧ t.host = s.host ∧ t.funcs = s.funcs ∧ t.keeper = s.keeper ∧
  t.sysChans = s.sysChans ∧ t.towers = s.towers ∧ t.shore = s.shore ∧ t.router = s.router ∧ t.time = s.time ∧
  t.power = s.power ∧ t.boot = s.boot ∧ t.flash = s.flash ∧ t.out = s.out ∧ t.pending = s.pending

/-- Lanterns other than l stay. -/
def OtherLanterns (s t : State) (l : Nat) : Prop := ∀ k, k ≠ l → lanternAt t k = lanternAt s k

/-- The units that do the module's work stay: power, boot, moorings, lanterns, towers, system channels, time, shore
cores. -/
def SameUnits (s t : State) : Prop :=
  t.power = s.power ∧ t.boot = s.boot ∧ t.moorings = s.moorings ∧ t.lanterns = s.lanterns ∧ t.towers = s.towers ∧
  t.sysChans = s.sysChans ∧ t.time = s.time ∧ t.shore = s.shore

/-- As SameUnits, but that a copy of the Keeper's own may have counted on a system channel (R171, R195). -/
def SameUnitsCopied (s t : State) : Prop :=
  SameUnits { s with sysChans := t.sysChans } t ∧ t.sysChans.length = s.sysChans.length ∧
  ∀ n, chanAt t (.system n) = { chanAt s (.system n) with counters := (chanAt t (.system n)).counters }

/-- Every bound queue's ring lies in a host window (R384: a PCIe function's always does). -/
def HostRings (s : State) : Prop := ∀ f q, (queueAt s f q).bound = true → 7 * 2 ^ 61 ≤ (queueAt s f q).base

/-- Flash gains events-lost records in its event log at most (R387, R389). -/
def LogGrows (x y : Flash) : Prop :=
  ∃ es : List Event, (∀ e ∈ es, e.code = 0x0050) ∧
    y = { x with log := x.log ++ es, written := x.written + 32 * es.length }

/-- State s with one event more in the log of flash (R387). -/
def logged (s : State) (e : Event) : State :=
  { s with flash := { s.flash with log := s.flash.log ++ [e], written := s.flash.written + 32 } }

/-- Only what the outside sees changes: the functions' queues and interrupts, host memory, packets and messages on
their way. The units, flash and the Keeper's books stay (but for the events-lost records of the log, R389, and the count of
writes to region 0x30, R406, and of requests accepted, R390); so does the module's memory where every ring lies in host
memory. -/
def Outward (s t : State) : Prop :=
  SameUnits s t ∧ LogGrows s.flash t.flash ∧ { t.keeper with debugWrites := [], serial := 0 } = { s.keeper with debugWrites := [], serial := 0 } ∧
  (HostRings s → t.mem = s.mem ∧ t.poison = s.poison ∧ { t.keeper with serial := 0 } = { s.keeper with serial := 0 } ∧
    HostRings t)

/-- A unit held in compute reset. -/
def Held (r : ResetState) : Prop := r.active = true ∧ r.held = true

/-- Router-only mode (R355): every tower and every lantern held in compute reset, no lantern at work, no guest running,
MOD_ALERT_N low. -/
def RouterOnly (t : State) : Prop :=
  t.boot.state = 3 ∧ t.boot.alert = true ∧ (∀ k, k < 4 → Held (towerAt t k).rst) ∧
  (∀ l, l < 192 → Held (lanternAt t l).rst ∧ (lanternAt t l).running = false) ∧
  (∀ c, c < 12 → (t.shore.getD c ShoreCore.reset).running = false)

/-- Everything but flash is lost (R408): the state after reset, but for flash and what lies outside the module. -/
def PowerLost (t : State) : Prop :=
  t.mem = [] ∧ t.poison = [] ∧ t.moorings = [] ∧ t.lanterns = State.reset.lanterns ∧ t.towers = State.reset.towers ∧
  t.funcs = State.reset.funcs ∧ t.keeper = State.reset.keeper ∧ t.router = State.reset.router ∧
  t.sysChans = State.reset.sysChans ∧ t.shore = State.reset.shore ∧ t.time = State.reset.time ∧
  t.power.inputOn = false ∧ t.power.rails = [] ∧ t.power.powerGood = false ∧ t.boot.state = 0 ∧
  t.boot.stage = 0 ∧ t.boot.keeperUp = false

/-- The commands posted to a mailbox (R380): the mailbox and the opcode. -/
def mailboxOf : Instr → Option (Mbox × Nat)
  | .nop m => some (m, 0x0001)
  | .identify m => some (m, 0x0002)
  | .cqBind m .. => some (m, 0x0003)
  | .cqUnbind m .. => some (m, 0x0004)
  | .hwinOpen m .. => some (m, 0x0005)
  | .hwinClose m .. => some (m, 0x0006)
  | .abort m .. => some (m, 0x0007)
  | .bundleLoad m .. => some (m, 0x0010)
  | .bundleUnload m .. => some (m, 0x0011)
  | .bundleStore m .. => some (m, 0x0012)
  | .mooringOpen m .. => some (m, 0x0020)
  | .mooringGrow m .. => some (m, 0x0021)
  | .mooringShrink m .. => some (m, 0x0022)
  | .mooringMove m .. => some (m, 0x0023)
  | .mooringLend m .. => some (m, 0x0024)
  | .mooringClose m => some (m, 0x0025)
  | .mooringStatus m => some (m, 0x0026)
  | .runSteps m .. => some (m, 0x0030)
  | .tensorWrite m .. => some (m, 0x0040)
  | .tensorRead m .. => some (m, 0x0041)
  | .snapshotSave m .. => some (m, 0x0042)
  | .snapshotRestore m .. => some (m, 0x0043)
  | .snapshotDelete m .. => some (m, 0x0044)
  | .shoreStart m .. => some (m, 0x0050)
  | .shoreStop m .. => some (m, 0x0051)
  | .selftest m => some (m, 0x0060)
  | .returnToService m => some (m, 0x0061)
  | .faultPolicy m .. => some (m, 0x0062)
  | .setSplit m .. => some (m, 0x0063)
  | .timeRoot m .. => some (m, 0x0064)
  | .telemetryRead m .. => some (m, 0x0070)
  | .eventLogRead m .. => some (m, 0x0071)
  | .powerSet m => some (m, 0x0080)
  | .attest m .. => some (m, 0x0090)
  | .fwWrite m .. => some (m, 0x0091)
  | .fwActivate m .. => some (m, 0x0092)
  | .debugMode m .. => some (m, 0x00A0)
  | .accTagRead m .. => some (m, 0x00A1)
  | _ => none

/-! ### What a vector instruction does -/

/-- Lane c takes a result (R113, R124): a value in the int64 range, with the group's new exponent g in the int16 range,
stands there with its SAT bit clear; anything else is SAT, its 64 bits zero. -/
def Takes (x : Lane) (r : Res) (g : Int) : Prop :=
  (∀ n, r = .val n → -2 ^ 63 ≤ n → n < 2 ^ 63 → -32768 ≤ g → g ≤ 32767 → x = ⟨BitVec.ofInt 64 n, false⟩) ∧
  ((∀ n, r = .val n → n < -2 ^ 63 ∨ 2 ^ 63 ≤ n ∨ g < -32768 ∨ 32767 < g) → x = ⟨0, true⟩)

/-- A result raises the SAT condition (R124, R126): a value that does not fit, an exponent out of range, or an input at
which the function has no value. -/
def Raises (r : Res) (g : Int) : Prop :=
  r = .raise ∨ g < -32768 ∨ 32767 < g ∨ ∃ n, r = .val n ∧ (n < -2 ^ 63 ∨ 2 ^ 63 ≤ n)

/-- Engine u is engine v with results h written into register vd in the lanes that w selects, the new exponents g (R122,
R124): the other lanes and registers keep what they hold; a group takes its new exponent when a lane of it is written and
the exponent lies in the int16 range; the SAT flag is set when a written lane raises it; all else stays. -/
def Wrote (v u : VEngine) (vd : Nat) (w : BitVec 128) (h : Nat → Res) (g : Nat → Int) : Prop :=
  (∀ n, n ≠ vd → regAt u n = regAt v n) ∧
  (∀ c, c < 128 → w.getLsbD c = false → laneAt (regAt u vd) c = laneAt (regAt v vd) c) ∧
  (∀ c, c < 128 → w.getLsbD c = true → Takes (laneAt (regAt u vd) c) (h c) (g (c / 32))) ∧
  (∀ c, c < 128 → w.getLsbD c = true → -32768 ≤ g (c / 32) → g (c / 32) ≤ 32767 →
    gAt (regAt u vd) (c / 32) = g (c / 32)) ∧
  (∀ q, q < 4 → (∀ c, c < 128 → c / 32 = q → w.getLsbD c = false) ∨ g q < -32768 ∨ 32767 < g q →
    gAt (regAt u vd) q = gAt (regAt v vd) q) ∧
  ∃ b : Bool, (b = true ↔ ∃ c, c < 128 ∧ w.getLsbD c = true ∧ Raises (h c) (g (c / 32))) ∧
    u = { v with regs := u.regs, flags := orFlag v.flags flSat b }

/-- Engine u is engine v with mask register n written in the lanes that w selects (R122); m0 is read-only (R117). -/
def WroteMask (v u : VEngine) (n : Nat) (w : BitVec 128) (p : Nat → Prop) : Prop :=
  u = { v with masks := u.masks } ∧ (∀ k, k ≠ n ∨ k = 0 → maskAt u k = maskAt v k) ∧
  (n ≠ 0 → ∀ c, c < 128 → (w.getLsbD c = true → ((maskAt u n).getLsbD c = true ↔ p c)) ∧
    (w.getLsbD c = false → (maskAt u n).getLsbD c = (maskAt v n).getLsbD c))

/-- Vector instruction c answers a next state (R119): lantern l's engine is as P says, the instruction is counted in the
beacon (32 bits wide, R337), and nothing else changes but what the engine's own registers, masks and flags hold. -/
def Issues (c : Instr) (s : State) (l : Nat) (P : VEngine → Prop) : Prop :=
  ∃ t u, exec c s = .next t ∧ P u ∧
    lanternAt t l = { lanternAt s l with
      vec := { u with index := u.index + 1 },
      beacon := (lanternAt s l).beacon.modify 1 (fun c => (c + 1) % 2 ^ 32) } ∧
    OtherLanterns s t l ∧ SameOutside s t ∧ t.moorings = s.moorings

/-- Engine u is engine v with records written into the pair at register vd in the lanes that w selects (R130): the even
register holds V with O as its SAT bit, the odd one R, X, O, I and Z; the exponents of groups with a written lane are 0. -/
def WrotePair (v u : VEngine) (vd : Nat) (w : BitVec 128) (rs : Nat → Rec) : Prop :=
  u = { v with regs := u.regs } ∧ (∀ n, n ≠ vd → n ≠ vd + 1 → regAt u n = regAt v n) ∧
  (∀ n ∈ [vd, vd + 1],
    (∀ c, c < 128 → w.getLsbD c = false → laneAt (regAt u n) c = laneAt (regAt v n) c) ∧
    (∀ c, c < 128 → w.getLsbD c = true → gAt (regAt u n) (c / 32) = 0) ∧
    (∀ q, q < 4 → (∀ c, c < 128 → c / 32 = q → w.getLsbD c = false) → gAt (regAt u n) q = gAt (regAt v n) q)) ∧
  (∀ c, c < 128 → w.getLsbD c = true →
    laneAt (regAt u vd) c = (if (rs c).o then ⟨0, true⟩ else ⟨BitVec.ofInt 64 (rs c).v, false⟩) ∧
    laneAt (regAt u (vd + 1)) c = ⟨recWord (rs c), false⟩)

/-- A sequenced packet for this module, whole and next in its stream (R277): it opens the stream, or bears the expected SEQ. -/
def InTurn (s : State) (p : Packet) : Prop :=
  p.dest = selfNode s ∧ p.trailer = packetCrc p ∧ (p.start = true ∨ ∃ d, dstAt s p.src p.cls = some d ∧ d.expect = p.seq)

/-- Less than, by exact value: m * 2^g for a mantissa m and an exponent g (R113, R126). -/
def ValueLt (x y : Int × Int) : Prop :=
  x.1 * 2 ^ (x.2 - min x.2 y.2).toNat < y.1 * 2 ^ (y.2 - min x.2 y.2).toNat

/-- Lantern l runs a binding and no load holds an instruction of these fields (R135). -/
def Running (s : State) (l : Nat) (f : VFields) : Prop :=
  lanternLive s l = true ∧ (lanternAt s l).vec.cur.isSome = true ∧ stalls (lanternAt s l).vec 0 f = false

end Sys2Proof.Machine
end

