-- ==== Sys2Proof/Certificates/Slice0/Obligations.lean ====
section
/-! DEFINITION. Certificates/Slice0/Obligations.lean: the statements for the provers. A statement's docstring cites the
rules of spec/ that it formalises; what the model chose, it says and names the log entry. -/

open Sys2Proof Sys2Proof.Machine

/-! ### The whole machine -/

/-- A step takes the command at the front of the queue and runs it on the state with the queue's rest. -/
def Obligations.StepRunsTheFrontCommand : Prop :=
  ∀ (c : Instr) (cs : List Instr) (s : State),
    step { s with pending := c :: cs } = exec c { s with pending := cs }

/-- On an empty queue the block idles: the model's choice (notes/assumptions/5.md). -/
def Obligations.EmptyQueueIdles : Prop :=
  ∀ s : State, s.pending = [] → step s = .next s

/-- The state after reset has the parts that the spec numbers, and an empty memory in canonical form. -/
def Obligations.ResetMeetsTheInvariant : Prop := State.reset.Inv

/-- Whatever the state that meets the invariant and whatever waits in the queue, a step that answers a next state keeps
every register file, table and list at its size, and the memory in its canonical form. -/
def Obligations.EveryStepKeepsTheInvariant : Prop :=
  ∀ s t : State, s.Inv → step s = .next t → t.Inv

/-- What the module holds right after reset, where the spec gives the value: the queue blocks, the mailboxes and
INT_STATUS read 0 (R398, R399, R402), SPLIT is 1 (R320), debug mode is off (R110), every domain daymark is 1 (R345), the
accumulator tags read empty (R89), the sets of the fault policy stand at their defaults (R354), the peak credit is 20 kJ
(R422), no mooring is open. -/
def Obligations.ResetState : Prop :=
  let s := State.reset
  (∀ f q, queueAt s f q = Queue.reset ∧ (queueAt s f q).bound = false ∧ (queueAt s f q).prod = 0 ∧ (queueAt s f q).head = 0) ∧
  (∀ m, (mboxAt s m).reqSeal = 0 ∧ (mboxAt s m).respSeq = 0 ∧ (mboxAt s m).lastSeq = 0 ∧ (mboxAt s m).req = none) ∧
  (∀ f, (funcAt s f).intStatus = 0 ∧ (funcAt s f).attHead = 0) ∧
  (∀ l, (lanternAt s l).daymark = 1 ∧ (lanternAt s l).events = List.replicate 16 0 ∧ (lanternAt s l).windows = [] ∧
    ∀ k, tget emptyTag (lanternAt s l).accTag k = 0x100000100000#48) ∧
  (∀ k, (towerAt s k).daymark = 1) ∧
  s.keeper.split = 1 ∧ s.keeper.debug = false ∧ s.keeper.daymark = 1 ∧ s.keeper.policy.lanternResets = 3 ∧
  s.keeper.policy.towerResets = 4 ∧ s.keeper.policy.eccBurst = 16 ∧ s.power.credit = 20000000 ∧ s.power.cap = 1500 ∧
  s.power.peakCap = 2000 ∧ s.moorings = [] ∧ s.poison = [] ∧ s.pending = []

/-- Every command answers a next state but one: an input voltage above 70 V, beyond the absolute maximum, where the spec
says no more than that the module may be damaged (R408). -/
def Obligations.OnlyOvervoltageStops : Prop :=
  (∀ (c : Instr) (s : State), (∀ mv, c = .inputVoltageChange mv → mv ≤ 70000) → ∃ t, exec c s = .next t) ∧
  (∀ (mv : Nat) (s : State), 70000 < mv → exec (.inputVoltageChange mv) s = .fault .inputBeyondMaximum)

/-! ### Requests and answers -/

/-- A request that the checks of every command refuse (R372, R374, R377, R382, R384, R391, R193) is answered with the
refusing status and no result, and nothing of the module's work, of the Keeper's books or of any queue changes. The
order of those checks is the model's (notes/assumptions/12.md). -/
def Obligations.RefusedRequestIsOnlyAnswered : Prop :=
  ∀ (c : Instr) (m : Mbox) (op st : Nat) (r : Request) (s : State),
    mailboxOf c = some (m, op) → m.ok = true → s.Inv →
    (mboxAt s m).req = some r → r.opcode = op → keeperExamines s = true → firstInLine s r = true →
    commandCheck s m.func r = some st →
    ∃ t, exec c s = .next t ∧ Answered t m r st [] 0 ∧ SameWork s t ∧ t.keeper = s.keeper ∧ t.host = s.host ∧
      ∀ f q, queueAt t f q = queueAt s f q

/-- A mailbox command without its request, or while the Keeper examines no mailbox, changes nothing: the model's choice
(notes/assumptions/6.md). So does one while a request accepted before it on the same mooring is still to start (R390). -/
def Obligations.NoRequestNoEffect : Prop :=
  ∀ (c : Instr) (m : Mbox) (op : Nat) (s : State), mailboxOf c = some (m, op) →
    ((mboxAt s m).req = none ∨ (∃ r, (mboxAt s m).req = some r ∧ r.opcode ≠ op) ∨ keeperExamines s = false ∨
      (∃ r, (mboxAt s m).req = some r ∧ firstInLine s r = false)) →
    exec c s = .next s

/-- What the checks of every command say (R374, R377, R382, R372): a request whose header disagrees with its seal is
refused as BAD_HEADER, an opcode outside the table as BAD_OPCODE; a class O command posted by a function other than the PF
as PRIVILEGE; in early light a command that R382 does not list as NOT_READY; a class T command for a mooring that is not
open here as NO_MOORING; a long command without a bound completion queue as NO_QUEUE; MOORING_OPEN on a torus of more than
65,536 modules as OUT_OF_SERVICE (R3). -/
def Obligations.CommandChecks : Prop :=
  ∀ (s : State) (f : Nat) (r : Request),
    (r.ok = false → commandCheck s f r = some 0x10) ∧
    (r.ok = true → cmdInfo r.opcode = none → commandCheck s f r = some 0x11) ∧
    (∀ i, r.ok = true → cmdInfo r.opcode = some i → s.boot.state = 1 → i.early = false → commandCheck s f r = some 0x16) ∧
    (∀ i, r.ok = true → cmdInfo r.opcode = some i → s.boot.state = 2 → i.cls = .O → f ≠ 0 → commandCheck s f r = some 0x13) ∧
    (∀ i, r.ok = true → cmdInfo r.opcode = some i → s.boot.state = 2 → i.cls = .T → mooringAt s r.mooring = none →
      commandCheck s f r = some 0x14) ∧
    (∀ i, r.ok = true → cmdInfo r.opcode = some i → s.boot.state = 2 → i.cls = .A → i.long = true →
      (r.opcode = 0x0020 → oversize s = false) → completionBound s f r.cq = false → commandCheck s f r = some 0x18) ∧
    (r.ok = true → r.opcode = 0x0020 → s.boot.state = 2 → oversize s = true → commandCheck s f r = some 0x36)

/-- NOP and IDENTIFY (R380): the request is answered with SUCCESS, IDENTIFY with the module's identity, which begins with
the part number; nothing else of the module changes. -/
def Obligations.NopAndIdentify : Prop :=
  ∀ (m : Mbox) (r : Request) (s : State), m.ok = true → s.Inv →
    (Asked s m 0x0001 r → ∃ t, exec (.nop m) s = .next t ∧ Answered t m r 0 [] 0 ∧ SameWork s t ∧ t.keeper = s.keeper ∧
      t.host = s.host ∧ ∀ f q, queueAt t f q = queueAt s f q) ∧
    (Asked s m 0x0002 r → ∃ t, exec (.identify m) s = .next t ∧ Answered t m r 0 (identityBytes s) 0 ∧ SameWork s t ∧
      t.keeper = s.keeper ∧ t.host = s.host ∧ (identityBytes s).take 8 = partNumber ∧
      ∀ f q, queueAt t f q = queueAt s f q)

/-- CQ_BIND and CQ_UNBIND (R384, R401): with every argument in its range, the queue's block holds the configuration, PROD
and HEAD are 0, BADHEAD and staging are clear; CQ_UNBIND returns the block to its reset values, unless an accepted command
names the queue (BUSY); a queue number or an argument out of range is refused with FIELD and no block changes. Every
other queue stays, and so does all the module's work. -/
def Obligations.QueueBinding : Prop :=
  ∀ (m : Mbox) (r : Request) (s : State), m.ok = true → s.Inv →
    (∀ qid typ base log2n vector modCount modTime, Asked s m 0x0003 r →
      qid < 16 → typ < 2 → 6 ≤ log2n → log2n ≤ 16 → 1 ≤ vector → vector ≤ 63 → 1 ≤ modCount → modCount ≤ 256 →
      modTime ≤ 1000 → base % (32 * 2 ^ log2n) = 0 → ringPlaceOk s m.func base (32 * 2 ^ log2n) = true →
      ∃ t, exec (.cqBind m qid typ base log2n vector modCount modTime) s = .next t ∧ Answered t m r 0 [] 0 ∧
        queueAt t m.func qid = { Queue.reset with
          bound := true, event := decide (typ = 1), log2n := log2n, vector := vector, base := base,
          modCount := modCount, modTime := modTime } ∧
        (∀ f q, (f, q) ≠ (m.func, qid) → queueAt t f q = queueAt s f q) ∧ SameWork s t ∧ t.keeper = s.keeper ∧
        t.host = s.host) ∧
    (∀ qid typ base log2n vector modCount modTime, Asked s m 0x0003 r →
      (16 ≤ qid ∨ 2 ≤ typ ∨ log2n < 6 ∨ 16 < log2n ∨ vector = 0 ∨ 63 < vector ∨ modCount = 0 ∨ 256 < modCount ∨
        1000 < modTime ∨ base % (32 * 2 ^ log2n) ≠ 0 ∨ ringPlaceOk s m.func base (32 * 2 ^ log2n) = false) →
      ∃ t, exec (.cqBind m qid typ base log2n vector modCount modTime) s = .next t ∧ Answered t m r 0x12 [] 0 ∧
        (∀ f q, queueAt t f q = queueAt s f q) ∧ SameWork s t ∧ t.keeper = s.keeper ∧ t.host = s.host) ∧
    (∀ qid, Asked s m 0x0004 r → qid < 16 → queueNamed s m.func qid = false →
      ∃ t, exec (.cqUnbind m qid) s = .next t ∧ Answered t m r 0 [] 0 ∧ queueAt t m.func qid = Queue.reset ∧
        (∀ f q, (f, q) ≠ (m.func, qid) → queueAt t f q = queueAt s f q) ∧ SameWork s t ∧ t.keeper = s.keeper ∧
        t.host = s.host) ∧
    (∀ qid, Asked s m 0x0004 r → qid < 16 → queueNamed s m.func qid = true →
      ∃ t, exec (.cqUnbind m qid) s = .next t ∧ Answered t m r 0x15 [] 0 ∧
        (∀ f q, queueAt t f q = queueAt s f q) ∧ SameWork s t ∧ t.keeper = s.keeper ∧ t.host = s.host)

/-- HWIN_OPEN and HWIN_CLOSE (R380, R370): a window of a length that is a multiple of 4 KiB up to 2^48 is opened at the
lowest free index, and its address and its owner are kept; a VF that holds eight windows, or a module with none free, is
refused with BUSY; only its owner closes a window (another is refused with PRIVILEGE, and counted: R372), and only while no
accepted command and no bound queue uses it, else BUSY. Nothing else changes. -/
def Obligations.HostWindows : Prop :=
  ∀ (m : Mbox) (r : Request) (s : State), m.ok = true → s.Inv →
    (∀ addr len rd wr i, Asked s m 0x0005 r → m.func < 32 → 0 < len → len ≤ 2 ^ 48 → len % 4096 = 0 →
      addr + len ≤ 2 ^ 64 → (m.func = 0 ∨ windowCount s m.func < 8) → freeWindow s = some i →
      ∃ t, exec (.hwinOpen m addr len rd wr) s = .next t ∧ Answered t m r 0 (words [i]) i ∧ hwinAt s i = none ∧
        hwinAt t i = some ⟨i, m.func, addr, len, rd, wr⟩ ∧ (∀ k, k ≠ i → hwinAt t k = hwinAt s k) ∧
        SameWork s t ∧ t.host = s.host ∧ (∀ f q, queueAt t f q = queueAt s f q) ∧
        t.keeper = { s.keeper with hwins := s.keeper.hwins ++ [⟨i, m.func, addr, len, rd, wr⟩] }) ∧
    (∀ addr len rd wr, Asked s m 0x0005 r → 0 < m.func → m.func < 32 → 0 < len → len ≤ 2 ^ 48 → len % 4096 = 0 →
      addr + len ≤ 2 ^ 64 → 8 ≤ windowCount s m.func →
      ∃ t, exec (.hwinOpen m addr len rd wr) s = .next t ∧ Answered t m r 0x15 [] 0 ∧ SameWork s t ∧
        t.keeper = s.keeper ∧ t.host = s.host ∧ ∀ f q, queueAt t f q = queueAt s f q) ∧
    (∀ idx h, Asked s m 0x0006 r → hwinAt s idx = some h → h.owner = m.func → windowBusy s idx = false →
      ∃ t, exec (.hwinClose m idx) s = .next t ∧ Answered t m r 0 [] 0 ∧ hwinAt t idx = none ∧
        (∀ k, k ≠ idx → hwinAt t k = hwinAt s k) ∧ SameWork s t ∧ t.host = s.host ∧
        (∀ f q, queueAt t f q = queueAt s f q)) ∧
    (∀ idx h, Asked s m 0x0006 r → hwinAt s idx = some h → h.owner = m.func → windowBusy s idx = true →
      ∃ t, exec (.hwinClose m idx) s = .next t ∧ Answered t m r 0x15 [] 0 ∧ SameWork s t ∧ t.keeper = s.keeper ∧
        t.host = s.host ∧ ∀ f q, queueAt t f q = queueAt s f q) ∧
    (∀ idx h, Asked s m 0x0006 r → hwinAt s idx = some h → h.owner ≠ m.func →
      ∃ t, exec (.hwinClose m idx) s = .next t ∧ Answered t m r 0x13 [] 0 ∧ SameWork s t ∧ t.keeper = s.keeper ∧
        (funcAt t m.func).privRef = (funcAt s m.func).privRef + 1 ∧
        t.host = s.host ∧ ∀ f q, queueAt t f q = queueAt s f q)


/-- Records, requantisation, merges, loads and stores (R94, R101, R102, R129 to R131, R134 to R136). REQ gives each group's
live lanes what requantise returns; REQR and RJAM take the group through to_requant, and the O and I of the lanes in m0 reach
OVF and INX; REC and RADD write record pairs; a merge acts on the entry that the instruction names, in the columns of MK and
m0; a load from the own store delivers its row, one from elsewhere waits in the load queue; a store writes the bytes of its
lanes and no others. An address outside what the lantern may reach sets ADDR and the fault flag; the load's lanes are SAT,
and the store writes nothing. -/
def Obligations.RecordAndMemoryInstructions : Prop :=
  ∀ (s : State) (l : Nat) (f : VFields), s.Inv → l < 192 → f.vd < 64 → Running s l f →
    let x := lanternAt s l
    let v := x.vec
    let w := writeMask v f
    let a := regAt v f.va
    let lanes (q : Nat) : List Nat := (List.range 128).filter (fun c => w.getLsbD c && c / 32 == q)
    let place (c : Nat) : Nat := (lanes (c / 32)).idxOf c
    let note (b : Bool) (p : Nat → Bool) : Prop := b = true ↔ ∃ c, c < 128 ∧ (maskAt v 0).getLsbD c = true ∧ p c = true
    let noted (u1 : VEngine) : Prop := ∃ bo bi, note bo (fun c => (pairRec v f.va c).o) ∧ note bi (fun c => (pairRec v f.va c).i) ∧
      u1 = { v with flags := orFlag (orFlag v.flags flOvf bo) flInx bi }
    let Requants (i : Instr) (op : Nat) (start : VEngine → Prop) (input : Nat → List (Int × Bool) × Int) : Prop :=
      let imm := (siteFields s l op f).imm.toNat
      let fmt := fmtOf imm
      let draws (q : Nat) : List Nat := if bit imm 5 then (lanes q).map (fun c => (laneDraw v (drawKey s l f.vd) (bits imm 21 14) c).toNat) else []
      let out (q : Nat) : ReqOut := requantise (input q).1 (input q).2 fmt (if bit imm 2 then some (bits imm 13 6) else none) (bits imm 4 3) (bit imm 5) (draws q)
      let mantissa (c : Nat) : Int := (out (c / 32)).m.getD (place c) 0
      Issues i s l (fun u => ∃ v1 u1, start v1 ∧
        Wrote v1 u1 f.vd w (fun c => if (out (c / 32)).e = 255 ∨ fmt ≠ .b32 ∧ mantissa c = satCode fmt then .sat else .val (mantissa c))
          (fun q => if 1 ≤ (out q).e ∧ (out q).e ≤ 254 then ((out q).e : Int) - 127 else 0) ∧
        (∃ bs bu : Bool, (bs = true ↔ ∃ c, c < 128 ∧ w.getLsbD c = true ∧ (out (c / 32)).sat = true) ∧
          (bu = true ↔ ∃ c, c < 128 ∧ w.getLsbD c = true ∧ (out (c / 32)).unf = true) ∧
          u = { u1 with flags := orFlag (orFlag u1.flags flSat bs) flUnf bu, gtop := u.gtop, ghalf := u.ghalf, gsat := u.gsat } ∧
          (bits imm 21 14 ≠ 2 → u.gtop = v.gtop ∧ u.ghalf = v.ghalf ∧ u.gsat = v.gsat) ∧
          (bits imm 21 14 = 2 → u.gsat = (v.gsat || bs))))
    let local_ (k n : Nat) (row a : Nat) (wr : Bool) : Prop := row = wrapNat 64 ((v.addr.getD k 0 : Int) + (f.imm.extractLsb' 9 15).toInt * n) ∧
      row + n ≤ 2 ^ 64 ∧ ownStore s l row n = true ∧
      ∀ i m, 0 < m → i + m ≤ n → checkAddr s (vecCtx s l) (row + i) m wr = some (.mem (a + i)) ∧ ownStore s l (row + i) m = true
    let k1 := f.imm.toNat % 8
    let k2 := f.imm.toNat / 8 % 8
    let stored (i : Instr) (at_ : Nat → Option Byte) (b : Bool) : Prop := ∃ t, exec i s = .next t ∧
      t = { s with mem := t.mem, lanterns := t.lanterns } ∧ (∀ b, readByte t b = (at_ b).getD (readByte s b)) ∧
      lanternAt t l = { x with
        vec := { v with index := v.index + 1, flags := orFlag v.flags flSat b },
        beacon := x.beacon.modify 1 (fun c => (c + 1) % 2 ^ 32) } ∧ OtherLanterns s t l
    -- requantisation
    Requants (.vReq l f) 0x50 (fun u => u = v) (fun q => ((lanes q).map (fun c => (if isSat a c then 0 else mant a c, isSat a c)), gAt a q)) ∧
    Requants (.vReqr l f) 0x51 noted (fun q => toRequant ((lanes q).map (pairRec v f.va))) ∧
    -- records
    Issues (.vRjam l f) s l (fun u => ∃ u1, noted u1 ∧ Wrote u1 u f.vd w
      (fun c => let p := (toRequant ((lanes (c / 32)).map (pairRec v f.va))).1.getD (place c) (0, false)
        if p.2 then .sat else .val p.1) (fun q => (toRequant ((lanes q).map (pairRec v f.va))).2)) ∧
    (f.vd ≠ 63 → Issues (.vRec l f) s l (fun u => ∃ u1 b, (b = true ↔ ∃ c, c < 128 ∧ w.getLsbD c = true ∧ (gAt a (c / 32) < -512 ∨ 511 < gAt a (c / 32))) ∧
      u = { u1 with flags := orFlag u1.flags flSat b } ∧
      WrotePair v u1 f.vd w (fun c =>
        let o := isSat a c || decide (gAt a (c / 32) < -512 ∨ 511 < gAt a (c / 32))
        ⟨if o then 0 else mant a c, 0, gAt a (c / 32), o, false, decide (mant a c = 0)⟩))) ∧
    (f.vd ≠ 63 → Issues (.vRadd l f) s l (fun u => WrotePair v u f.vd w (fun c => padd (pairRec v f.va c) (pairRec v f.vb c)))) ∧
    -- merges
    (∀ j, v.cur = some j → mergeWaits x j [⟨0x58, f, true⟩] v.row = false → v.mbase + f.imm.toNat % 4096 < entryCount (mergeFmt f.imm) →
      let k := mergeFmt f.imm
      let e := v.mbase + f.imm.toNat % 4096
      let cols := (List.range 128).filter (fun c => w.getLsbD c)
      let after (g : Lantern → Nat → Lantern) (P : VEngine → Prop) (i : Instr) : Prop := ∃ t y u, exec i s = .next t ∧ y = cols.foldl g x ∧ P u ∧
        lanternAt t l = { y with vec := { u with index := u.index + 1 }, beacon := x.beacon.modify 1 (fun c => (c + 1) % 2 ^ 32) } ∧
        OtherLanterns s t l ∧ SameOutside s t ∧ t.moorings = s.moorings
      let got (u : VEngine) : Prop := ∃ u1 bo bi, WrotePair v u1 f.vd w (entryRec x k e) ∧
        (bo = true ↔ ∃ c ∈ cols, (entryRec x k e c).o = true) ∧ (bi = true ↔ ∃ c ∈ cols, (entryRec x k e c).i = true) ∧
        u = { u1 with flags := orFlag (orFlag v.flags flOvf bo) flInx bi }
      after (fun y c => putEntry y k e c (padd (entryRec y k e c) (pairRec v f.va c))) (fun u => u = v) (.vMergeAdd l f) ∧
      (f.vd ≠ 63 → after (fun y _ => y) got (.vMergeRead l f) ∧ after (fun y c => emptyEntry y k e c) got (.vMergeTake l f))) ∧
    -- loads from the own store
    (s.poison = [] → v.storeQ = [] → v.loadQ.length < 16 →
      (∀ row p, local_ k1 1024 row p false → Issues (.vLdw l f) s l (fun u => Wrote v u f.vd w
        (fun c => .val (BitVec.ofNat 64 (leNat (readMem s (p + 8 * c) 8))).toInt) (fun _ => 0))) ∧
      (∀ row p, f.vd ≠ 63 → local_ k1 2048 row p false → Issues (.vLdr l f) s l (fun u => WrotePair v u f.vd w (fun c => recOfBytes (readMem s (p + 16 * c) 16)))) ∧
      (∀ row p srow sp,
        let fmt := fmtOf (bits f.imm.toNat 7 6)
        let bb := blockBytes fmt
        let scale (q : Nat) := (readByte s (sp + q)).toNat
        local_ k1 (4 * bb) row p false → local_ k2 4 srow sp false →
        Issues (.vLdb l f) s l (fun u => Wrote v u f.vd w
          (fun c =>
            let r := readElem fmt (scale (c / 32)) (mantissaAt fmt (readMem s (p + c / 32 * bb) bb) (c % 32))
            if r.2 then .sat else .val r.1)
          (fun q => if scale q = 0 ∨ scale q = 255 then 0 else (scale q : Int) - 127)))) ∧
    -- stores to the own store
    (s.poison = [] →
      (∀ row p, local_ k1 1024 row p true → stored (.vStw l f) (fun b =>
        if p ≤ b ∧ b < p + 1024 ∧ w.getLsbD ((b - p) / 8) = true then some ((laneAt a ((b - p) / 8)).bits.extractLsb' (8 * ((b - p) % 8)) 8) else none) false) ∧
      (∀ row p, local_ k1 2048 row p true → stored (.vStr l f) (fun b =>
        if p ≤ b ∧ b < p + 2048 ∧ w.getLsbD ((b - p) / 16) = true then some ((recBytes (pairRec v f.va ((b - p) / 16))).getD ((b - p) % 16) 0) else none) false) ∧
      (∀ row p srow sp,
        let fmt := fmtOf (bits f.imm.toNat 7 6)
        let bb := blockBytes fmt
        let block (q : Nat) : StbOut :=
          let ins := (lanes q).map (fun c => (if isSat a c then 0 else mant a c, isSat a c))
          let b := stbBlock fmt ins (gAt a q)
          if f.imm.getLsbD 8 then stbScale fmt ins b (stepScale s l) else b
        let mantissas (q : Nat) : List Int := (List.range 32).map (fun i => if w.getLsbD (32 * q + i) then (block q).m.getD (place (32 * q + i)) 0 else 0)
        local_ k1 (4 * bb) row p true → local_ k2 4 srow sp true → (p + 4 * bb < sp ∨ sp + 4 ≤ p) →
        stored (.vStb l f) (fun b =>
          if p ≤ b ∧ b < p + 4 * bb ∧ lanes ((b - p) / bb) ≠ [] then some ((mantissaBytes fmt (mantissas ((b - p) / bb))).getD ((b - p) % bb) 0)
          else if sp ≤ b ∧ b < sp + 4 ∧ lanes (b - sp) ≠ [] then some (BitVec.ofNat 8 (block (b - sp)).e) else none)
          ((List.range 4).any (fun q => !(lanes q).isEmpty && (block q).raise)))) ∧
    -- address errors
    (∀ row, row = wrapNat 64 ((v.addr.getD k1 0 : Int) + (f.imm.extractLsb' 9 15).toInt * 1024) →
      (v.loadQ.length < 16 → checkAddr s (vecCtx s l) row 1024 false = none → ∃ t, exec (.vLdw l f) s = .next t ∧
        (∀ c, c < 128 → laneAt (regAt (lanternAt t l).vec f.vd) c = ⟨0, true⟩) ∧ (lanternAt t l).vec.flags = orFlag v.flags flAddr true ∧
        (lanternAt t l).fault = true ∧ OtherLanterns s t l ∧ (HostRings s → t.mem = s.mem)) ∧
      (w = BitVec.allOnes 128 → row + 1024 ≤ 2 ^ 64 → checkAddr s (vecCtx s l) row 1024 true = none → ∃ t, exec (.vStw l f) s = .next t ∧
        (lanternAt t l).vec.regs = v.regs ∧ (lanternAt t l).vec.flags = orFlag v.flags flAddr true ∧
        (lanternAt t l).fault = true ∧ OtherLanterns s t l ∧ (HostRings s → t.mem = s.mem)))

/-! ### DMA channels -/

/-- DMA channels (R165, R174 to R178, R181 to R189, R195). A MOVE between two places of the module's memory copies its
source lines into its destination lines, in the order of the bytes; a MOVE3 its runs, in a mode other than NORMAL; a bad descriptor
performs nothing; LOOP adds its advances and jumps, or restores the registers and goes on; WAIT holds the channel until the
counter has come; SIGNAL waits for the earlier writes and adds to the counter, which saturates; a descriptor retires when its
last write has been performed, and is counted; a stop discards what waits, and ends the command whose copy it cuts short. No
other channel changes. -/
def Obligations.DmaChannels : Prop :=
  ∀ (s : State) (c : Chan), s.Inv → (match c with | .lantern l k => l < 192 ∧ k < 4 | .system n => n < 16) → chanLive s c = true →
    let x := chanAt s c
    let ctx (p : DmaProg) := chanCtx c p.priv
    let others (t : State) : Prop := (∀ e, e ≠ c → chanAt t e = chanAt s e) ∧
      (∀ l, (lanternAt t l).vec = (lanternAt s l).vec ∧ (lanternAt t l).lensQ = (lanternAt s l).lensQ) ∧ t.time = s.time ∧
      t.power = s.power ∧ t.boot = s.boot ∧ t.shore = s.shore
    let quiet (t : State) : Prop := others t ∧ t.mem = s.mem ∧ t.poison = s.poison ∧ t.moorings = s.moorings ∧ t.host = s.host ∧ t.keeper = s.keeper ∧ t.router = s.router
    -- counted as retired: the channel's counter 0 and, for a lantern's channel, the beacon's counter 2 (R195, R337)
    let counted (t : State) : Prop := match c with
      | .lantern l _ => (lanternAt t l).beacon = (lanternAt s l).beacon.modify 2 (fun n => (n + 1) % 2 ^ 32)
      | .system _ => True
    let one (cs : List Nat) : List Nat := bump cs 0 1
    -- tenant work runs only in NORMAL mode (R172)
    let open_ (p : DmaProg) : Prop := p.priv = true ∨ x.mode = .normal
    -- the copy of a command that a system channel's retirement, or its stop, may end (R190, R191)
    let copying : Prop := ∃ n, c = .system n ∧ ∃ o ∈ s.keeper.ops, ∃ start addr, o.kind = .copy n start addr
    let reach (p : DmaProg) (a A n : Nat) (wr : Bool) : Prop := ∀ o m, 0 < m → o + m ≤ n →
      checkAddr s (ctx p) (a + o) m wr = some (.mem (A + o)) ∧ bits (A + o) 55 48 ≠ 0x30
    let flown (t : State) (p : DmaProg) (n : Nat) (y : DmaChan) : Prop := ∃ f : DmaFlight, f.tags = [] ∧ f.job = none ∧ f.bad = false ∧ f.prog = p.index ∧
      f.desc = x.pc ∧ chanAt t c = nextDesc { y with flights := x.flights ++ [f], counters := bump (bump x.counters 11 n) 12 n }
    -- transfers
    (∀ p m (A B : Nat), chanHead x = some (p, .move m) → open_ p → x.waiting = false → x.signalling = false → moveCheck c m = true →
      m.compress = 0 → m.ring = false → s.poison = [] →
      let src := m.src + baseReg x m.sreg
      let dst := m.dst + baseReg x m.dreg
      reach p src A ((m.scnt - 1) * m.sstride + m.slen) false → reach p dst B ((m.dcnt - 1) * m.dstride + m.dlen) true →
      (A + ((m.scnt - 1) * m.sstride + m.slen) ≤ B ∨ B + ((m.dcnt - 1) * m.dstride + m.dlen) ≤ A) →
      ∃ t, exec (.move c) s = .next t ∧ flown t p (m.slen * m.scnt) x ∧ others t ∧ t.moorings = s.moorings ∧ t.host = s.host ∧ t.router = s.router ∧ t.poison = [] ∧
        (∀ j i, j < m.dcnt → i < m.dlen → readByte t (B + j * m.dstride + i) =
          readByte s (A + (j * m.dlen + i) / m.slen * m.sstride + (j * m.dlen + i) % m.slen)) ∧
        (∀ b, (∀ j i, j < m.dcnt → i < m.dlen → b ≠ B + j * m.dstride + i) → readByte t b = readByte s b)) ∧
    (∀ p m (A B : Nat), chanHead x = some (p, .move3 m) → p.priv = true → x.waiting = false → x.signalling = false → x.mode ≠ .normal → move3Check m = true →
      s.poison = [] →
      let src := m.src + baseReg x m.sreg
      let dst := m.dst + baseReg x m.dreg
      ∀ sa sn da dn : Nat,
        let covers (q : Int × Int) (b : Nat) : Prop := (dst : Int) + q.2 ≤ da + ((b : Int) - B) ∧ da + ((b : Int) - B) < dst + q.2 + m.len
        move3Span m src m.sstep = some (sa, sn) → move3Span m dst m.dstep = some (da, dn) →
        reach p sa A sn false → reach p da B dn true → (A + sn ≤ B ∨ B + dn ≤ A) →
      ∃ t, exec (.move3 c) s = .next t ∧ flown t p (m.len * m.c.getD 0 0 * m.c.getD 1 0 * m.c.getD 2 0) x ∧ others t ∧
        t.moorings = s.moorings ∧ t.host = s.host ∧ t.router = s.router ∧ t.poison = [] ∧
        (∀ (b : Nat) (r : Int × Int), (move3Runs m).reverse.find? (fun q => decide (covers q b)) = some r →
          readByte t b = readByte s ((A : Int) + ((src : Int) + r.1 - sa) + (da + ((b : Int) - B) - (dst + r.2))).toNat) ∧
        (∀ b : Nat, (∀ q ∈ move3Runs m, ¬ covers q b) → readByte t b = readByte s b)) ∧
    -- bad descriptors
    (∀ p d, chanHead x = some (p, d) → open_ p → x.waiting = false → x.signalling = false → HostRings s →
      let bad (i : Instr) (cause : Nat) : Prop := ∃ t, exec i s = .next t ∧ counted t ∧ t.mem = s.mem ∧ t.poison = s.poison ∧ others t ∧
        (∃ n b, chanAt t c = nextDesc { x with counters := bump (bump x.counters cause 1) 0 1, cmdBad := n, cmdAddr := b } ∧
          (chanLantern c = none ∨ p.priv = true → n = x.cmdBad + 1 ∧ (cause = causeAddress → b = true))) ∧
        (∀ l k, c = .lantern l k → p.priv = false → (lanternAt t l).fault = true)
      (∀ m, d = .move m → moveCheck c m = false → bad (.move c) 9) ∧
      (∀ m, d = .move3 m → x.mode = .normal → bad (.move3 c) 8) ∧
      (∀ m, d = .move3 m → x.mode ≠ .normal → move3Check m = false → bad (.move3 c) 9) ∧
      (∀ n, d = .other n → bad (.move c) 9) ∧
      (∀ m, d = .move m → moveCheck c m = true → spansOk s (ctx p) (.move (packLimited s c (absMove x m))) = false → bad (.move c) causeAddress)) ∧
    -- tenant work in a mode other than NORMAL does not issue (R172)
    (∀ p d, chanHead x = some (p, d) → p.priv = false → x.mode ≠ .normal →
      ∀ i ∈ [Instr.move c, .move3 c, .loop c, .dmaWait c, .signal c], exec i s = .next s) ∧
    -- LOOP
    (∀ p target count adv ladv wadv iadv, chanHead x = some (p, .loop target count adv ladv wadv iadv true) → open_ p → x.waiting = false → x.signalling = false →
      target < x.pc →
      (tget 0 x.reps x.pc + 1 < count → ∃ t, exec (.loop c) s = .next t ∧ counted t ∧ quiet t ∧ chanAt t c = { x with
          counters := one x.counters
          base := (List.range 4).map (fun k => baseReg x k + adv.getD k 0)
          loff := (x.loff + ladv) % 2 ^ 13
          woff := (BitVec.ofInt 32 (x.woff + wadv)).toInt
          ioff := (x.ioff + iadv) % 2 ^ 64
          reps := tput 0 x.reps x.pc (tget 0 x.reps x.pc + 1)
          pc := target }) ∧
      (0 < count → count ≤ tget 0 x.reps x.pc + 1 →
        let n := tget 0 x.reps x.pc
        ∃ t, exec (.loop c) s = .next t ∧ counted t ∧ quiet t ∧ chanAt t c = nextDesc { x with
          counters := one x.counters
          base := (List.range 4).map (fun k => baseReg x k - n * adv.getD k 0)
          loff := (((x.loff : Int) - n * ladv) % 2 ^ 13).toNat
          woff := (BitVec.ofInt 32 (x.woff - n * wadv)).toInt
          ioff := (((x.ioff : Int) - n * iadv) % 2 ^ 64).toNat
          reps := tput 0 x.reps x.pc 0 })) ∧
    -- WAIT
    (∀ l k p passes cnt value, c = .lantern l k → chanHead x = some (p, .wait passes cnt value true) → open_ p → x.signalling = false →
      let count : Int := if passes then (lanternAt s l).passesRead else (lanternAt s l).events.getD cnt 0
      let through (i : Instr) : Prop := ∃ t, exec i s = .next t ∧ counted t ∧ quiet t ∧ chanAt t c = nextDesc { x with counters := one x.counters }
      (x.waiting = false → value + x.woff ≤ count → through (.dmaWait c)) ∧
      (x.waiting = false → count < value + x.woff → ∃ t, exec (.dmaWait c) s = .next t ∧ quiet t ∧ chanAt t c = { x with waiting := true }) ∧
      (x.waiting = true → value + x.woff ≤ count → through (.dmaWaitSatisfied c)) ∧
      (x.waiting = true → count < value + x.woff → exec (.dmaWaitSatisfied c) s = .next s)) ∧
    -- SIGNAL
    (∀ p cnt inc lantern l, chanHead x = some (p, .signal cnt inc lantern true) → open_ p → cnt ≤ 11 → 0 < inc → signalTarget s c p.priv lantern = some l →
      (x.waiting = false → x.signalling = false → ∃ t, exec (.signal c) s = .next t ∧ quiet t ∧ chanAt t c = { x with signalling := true }) ∧
      (x.signalling = true → (∀ f ∈ x.flights, f.serial ≠ x.serial ∨ f.tags = [] ∧ f.job = none) → l < 192 →
        (lanternAt s l).events.getD cnt 0 + inc < 2 ^ 32 → ∃ t, exec (.signalIncrement c) s = .next t ∧ counted t ∧ quiet t ∧
          (lanternAt t l).events.getD cnt 0 = (lanternAt s l).events.getD cnt 0 + inc ∧
          (∀ k, k ≠ cnt → (lanternAt t l).events.getD k 0 = (lanternAt s l).events.getD k 0) ∧
          chanAt t c = nextDesc { x with counters := one x.counters }) ∧
      (x.signalling = true → (∃ f ∈ x.flights, f.serial = x.serial ∧ (f.tags ≠ [] ∨ f.job.isSome = true)) →
        exec (.signalIncrement c) s = .next s)) ∧
    -- retirement and stop
    (∀ f, x.flights.find? (fun f => f.tags.isEmpty && !f.bad) = some f → f.job = none → ∃ t, exec (.dmaDescriptorRetire c) s = .next t ∧ counted t ∧
      others t ∧ t.moorings = s.moorings ∧ (¬ copying ∨ x.queue ≠ [] ∨ x.flights ≠ [f] → quiet t) ∧
      (∀ n o k a, c = .system n → x.queue = [] → x.flights = [f] → o ∈ s.keeper.ops → o.kind = .copy n k a → HostRings s →
        ∃ q ∈ s.keeper.ops, (∃ k' a', q.kind = .copy n k' a') ∧ opAt t q.func q.tag = none ∧ t.mem = s.mem) ∧
      chanAt t c = { x with counters := one x.counters, flights := x.flights.erase f }) ∧
    (x.waiting = false → x.signalling = false → ∃ t, exec (.channelStop c) s = .next t ∧ others t ∧ (¬ copying → quiet t) ∧
      (chanAt t c).queue = [] ∧ (chanAt t c).pc = 0 ∧ (chanAt t c).base = [0, 0, 0, 0] ∧ (chanAt t c).loff = 0 ∧ (chanAt t c).woff = 0 ∧
      (chanAt t c).ioff = 0 ∧ (chanAt t c).reps = [] ∧ (chanAt t c).flights = x.flights ∧ (chanAt t c).mode = x.mode ∧ (chanAt t c).counters = bump x.counters 14 1) ∧
    (x.signalling = true → ∃ t, exec (.channelStop c) s = .next t ∧ others t ∧ (¬ copying → quiet t) ∧ (chanAt t c).signalling = true ∧
      (chanAt t c).queue.length = min 1 x.queue.length ∧ (chanAt t c).pc = x.pc) ∧
    -- the stop of a copy ends its command (R190)
    (∀ n o k a, c = .system n → o ∈ s.keeper.ops → o.kind = .copy n k a → HostRings s → ∃ t, exec (.channelStop c) s = .next t ∧ others t ∧
      t.mem = s.mem ∧ ∃ q ∈ s.keeper.ops, (∃ k' a', q.kind = .copy n k' a') ∧ opAt t q.func q.tag = none)

/-! ### Collectives -/

/-- Collectives (R290, R294 to R297, R299, R301 to R303, R311). An engine of a running lantern begins the instance in a slot when
its command comes: REDUCE_SCATTER, ALL_GATHER, ALL_REDUCE, BROADCAST, SEND, RECV, ALL_TO_ALL_V. Where its arrays can be reached
and no line is poisoned it begins, and what it writes lies in its destination (an ALL_TO_ALL_V among several members only tells
its lengths at first). A gather or a broadcast of raw bytes along a role of one member copies its source; a broadcast whose root
does not exist moves nothing. A second start of an instance, one that awaits a carrier peer's data and a gather whose tensor's
updates have not retired (R254) change nothing. An instance that has done its stages and whose packets are acknowledged completes: the engine
is free, counter 14 advances, the flags are gathered. No other lantern changes. -/
def Obligations.Collectives : Prop :=
  ∀ (s : State) (l slot : Nat) (m : Mooring) (b : Bundle) (c : CollInst), s.Inv → l < 192 → HostRings s → lanternJob s l = some (m, b) →
    (lanternAt s l).coll[slot]? = some c →
    (∀ (i : Nat) d, (lanternAt s l).coll[i]? = some d → d.index = c.index → d.inst = c.inst → d.replica = c.replica → i = slot) →
    let x := lanternAt s l
    let d := c.desc
    let op (k : Nat) (i : Instr) : Prop :=
      (k = 1 ∧ i = .reduceScatter l slot) ∨ (k = 2 ∧ i = .allGather l slot) ∨ (k = 3 ∧ i = .allReduce l slot) ∨
      (k = 4 ∧ i = .broadcast l slot) ∨ (k = 5 ∧ i = .send l slot) ∨ (k = 6 ∧ i = .recv l slot) ∨ (k = 7 ∧ i = .allToAllV l slot)
    let reach (a A n : Nat) (wr : Bool) : Prop := ∀ o k, 0 < k → o + k ≤ n → checkAddr s (.lantern l) (a + o) k wr = some (.mem (A + o))
    let span := roleSpan s m.desc (positionOf m.subs (selfNode s)) d.role
    let outside (A n b : Nat) : Prop := b < A ∨ A + n ≤ b
    (∀ (k : Nat) i (A AS B BS L : Nat), op k i → d.op = k → c.started = false → lanternLive s l = true → s.poison = [] → x.collHeld = [] →
      c.tags = [] → (k = 2 → awaitsUpdates s l m b c = false) → (k = 7 → collNeeds s l m c = []) →
      c.replica < c.replicas → (∀ a, a < 4 → myIdx s m a < (axisAt m.desc a).extent) → (k = 7 → 2 ≤ span.1) →
      let n := (dataBytes d.dfmt d.count).1
      let ns := (dataBytes d.dfmt d.count).2
      let w := (dataBytes (destFmt d) d.count).1
      let ws := (dataBytes (destFmt d) d.count).2
      reach d.src A n false → reach c.srcScale AS ns false → reach d.dst B w true → reach d.dst B w false →
      reach c.dstScale BS ws true → reach c.dstScale BS ws false → (k = 7 → reach d.lens L (4 * span.1) false) →
      ∃ t e sent, exec i s = .next t ∧ e.started = true ∧ e.desc = d ∧ e.index = c.index ∧ e.inst = c.inst ∧ e.replica = c.replica ∧
        -- each packet sent counts in the beacon's counter 2 (R337)
        (∀ q, q ≠ 2 → sent.getD q 0 = x.beacon.getD q 0) ∧
        lanternAt t l = { x with
          coll := x.coll.map (fun y => if y = c then e else y)
          beacon := sent } ∧ OtherLanterns s t l ∧
        t.moorings = s.moorings ∧ t.time = s.time ∧ t.power = s.power ∧ t.boot = s.boot ∧ t.shore = s.shore ∧ t.sysChans = s.sysChans ∧
        t.poison = [] ∧
        (∀ b : Nat, outside B w b → outside BS ws b → readByte t b = readByte s b) ∧
        (5 ≤ k → t.mem = s.mem) ∧ (k = 4 → d.peer < 0 ∨ (span.1 : Int) ≤ d.peer → t.mem = s.mem) ∧
        ((k = 2 ∨ k = 4 ∧ d.peer = 0) → roleAxes m.desc d.role = [] → d.dfmt = 5 → c.replicas = 1 → (A + n ≤ B ∨ B + w ≤ A) →
          ∀ i, i < d.count / max d.unit 1 * d.unit → readByte t (B + i) = readByte s (A + i))) ∧
    (∀ (k : Nat) i, op k i → d.op = k → c.started = true ∨ c.tags ≠ [] ∨ awaitsUpdates s l m b c = true → exec i s = .next s) ∧
    (c.started = true → c.tags = [] → (collStages s m d).length ≤ c.stage →
      (∀ q ∈ s.router.src, ∀ p ∈ streamPackets q, packetOf m.desc.id c p = false) → c.cut = 0 → x.events.getD 14 0 + 1 < 2 ^ 32 →
      ∃ t, exec (.collectiveComplete l slot) s = .next t ∧
        lanternAt t l = { x with
          coll := x.coll.erase c
          events := x.events.modify 14 (· + 1) } ∧
        mooringAt t m.desc.id = some (gatherFlags m c.flags 0) ∧ OtherLanterns s t l ∧
        { t with
          lanterns := s.lanterns
          moorings := s.moorings } = s)

/-! ### Verdicts, tender copies, serving steps, permutes -/

/-- The end of a step (R46, R212 to R216, R220, R222 to R225, R240, R305, R343, R358, R359, R474). The contribution is formed
when every lantern has retired its END, or at once with FAULT or VERSION; the step then awaits its verdict, the timer runs and the
next step may start; while an earlier verdict is outstanding, FAULT or VERSION forms the contribution of the step in hand at
once, and it waits its turn. At the root of a mooring of one module a clean verdict commits the step; OVERFLOW skips it and halves
the loss scale; FAULT or VERSION runs it again, within the limit. The timer's end raises the verdict-late event and probes the
anchor. A verdict that begins a new epoch waits while the daymark may not advance. Staged refreshes are installed; an announcement releases undo copies and held updates. A serving step ends, or runs again
after a fault. A permute begins, and its end is told to who awaits it. Commands that no Keeper operation awaits are
assumed: with pending operations the same verdict also performs them. -/
def Obligations.StepVerdicts : Prop :=
  ∀ (s : State) (id : Nat) (m : Mooring) (b : Bundle), s.Inv → mooringAt s id = some m → bundleAt s m.bundle = some b → HostRings s →
    let all_ := (List.range 192).filter (fun l => decide ((lanternAt s l).mooring = some id))
    let ended := ∀ l ∈ all_, (lanternAt s l).endRetired = true
    let going := m.run = .running ∨ m.run = .stopping
    -- the contribution
    (m.desc.kind = 0 → going → m.stepOn = true → m.provisional = none → m.moving = none → m.due = [] →
      ∃ t v n, v.fault = (m.gathered.fault || all_.any (fun l => (lanternAt s l).fault)) ∧ v.version = m.gathered.version ∧
        v.overflow = m.gathered.overflow ∧ v.notExact = m.gathered.notExact ∧ exec (.verdictContribution id) s = .next t ∧
        ((v.fault = true ∨ v.version = true ∨ ended) → mooringAt t id = some n ∧ n.contrib = some v ∧ n.provisional = some m.step ∧
          n.step = m.step + 1 ∧ n.stepOn = false ∧ n.timer = true ∧ n.committed = m.committed ∧ n.lscale = m.lscale) ∧
        (v.fault = false → v.version = false → ¬ ended → t = s)) ∧
    -- while the verdict of the step before is outstanding
    (∀ u, m.desc.kind = 0 → going → m.stepOn = true → m.provisional = some u → m.moving = none → m.ahead.contrib = none → m.due = [] →
      let fault := m.gathered.fault || all_.any (fun l => (lanternAt s l).fault)
      (fault = false → m.gathered.version = false → exec (.verdictContribution id) s = .next s) ∧
      (fault = true ∨ m.gathered.version = true → ∃ t n w, exec (.verdictContribution id) s = .next t ∧ mooringAt t id = some n ∧
        n.provisional = some u ∧ n.contrib = m.contrib ∧ n.step = m.step ∧ n.stepOn = false ∧ n.ahead.contrib = some w ∧ n.ahead.timer = true ∧
        w.fault = fault ∧ w.version = m.gathered.version ∧ ∀ l ∈ all_, (lanternAt t l).running = false)) ∧
    -- the verdict at the root of one module
    (∀ v u, m.contrib = some v → m.provisional = some u → m.children = [] → parentNode s m = none → childNodes s m = [] →
      tenderAxis m.desc = none → m.leaving = [] → m.rerun = none → m.due = [] → s.keeper.ops = [] → s.keeper.leaveAt = none →
      (m.decided + 1 < m.runCount) → u + 1 < 2 ^ 48 →
      (v.fault = false → v.version = false → v.overflow = false → m.ahead.verdict = none → (m.stepOn = true ∨ m.overLimit = []) →
        ∃ t n, exec (.verdict id none) s = .next t ∧ mooringAt t id = some n ∧ n.committed = some u ∧ n.replays = m.ahead.replays ∧
        (m.ahead.contrib = none → n.provisional = none ∧ n.contrib = none ∧ n.timer = false ∧ n.step = m.step) ∧
        (∀ w, m.ahead.contrib = some w → n.provisional = some m.step ∧ n.contrib = some w ∧ n.timer = m.ahead.timer ∧ n.step = m.step + 1) ∧
        n.undo = [] ∧ n.undoHdr = [] ∧ n.headers = m.headers ∧ n.epoch = m.epoch ∧ n.decided = m.decided + 1 ∧
        n.runCommitted = m.runCommitted + 1 ∧
        (n.lscale, n.clean) = (if m.clean + 1 < m.raise then (m.lscale, m.clean + 1)
          else if m.lscale < 63 then (m.lscale + 1, 0) else (m.lscale, m.raise)) ∧ t.mem = s.mem) ∧
      (v.fault = false → v.version = false → v.overflow = true → mayAdvance s (.mooring id) = true → 0 < m.lscale → ∃ t n, exec (.verdict id none) s = .next t ∧
        mooringAt t id = some n ∧ n.committed = m.committed ∧ n.provisional = none ∧ n.step = u + 1 ∧ n.stepOn = false ∧
        n.lscale = m.lscale - 1 ∧ n.clean = 0 ∧ n.epoch = m.epoch + 1 ∧ n.decided = m.decided + 1 ∧
        n.runCommitted = m.runCommitted ∧ ∀ l ∈ all_, (lanternAt t l).running = false) ∧
      ((v.fault = true ∨ v.version = true) → mayAdvance s (.mooring id) = true → (∀ w, mooringAt (windDown s id) id = some w → w.overLimit = []) → m.replays < m.desc.replayMax → ∃ t n, exec (.verdict id none) s = .next t ∧
        mooringAt t id = some n ∧ n.committed = m.committed ∧ n.provisional = none ∧ n.step = u ∧ n.stepOn = false ∧
        n.lscale = m.lscale ∧ n.clean = m.clean ∧ n.epoch = m.epoch + 1 ∧ n.replays = m.replays + 1 ∧ n.decided = m.decided ∧
        ∀ l ∈ all_, (lanternAt t l).running = false) ∧
      ((v.fault = true ∨ v.version = true) → mayAdvance s (.mooring id) = true → m.desc.replayMax ≤ m.replays → going →
        ∃ t n, exec (.verdict id none) s = .next t ∧
        mooringAt t id = some n ∧ n.committed = m.committed ∧ n.run = .stopped ∧ n.stopWith = stReplayLimit) ∧
      -- within 1 ms of the last advance the new epoch waits, and the work stops (R345)
      ((v.fault = true ∨ v.version = true ∨ v.overflow = true) → mayAdvance s (.mooring id) = false → ∃ t n, exec (.verdict id none) s = .next t ∧
        mooringAt t id = some n ∧ n.due = [.verdict u v] ∧ n.epoch = m.epoch ∧ n.daymark = m.daymark ∧ n.provisional = some u ∧
        n.committed = m.committed ∧ ∀ l ∈ all_, (lanternAt t l).running = false)) ∧
    -- the timer
    (m.timer = true → m.provisional.isSome = true → anchorOf m ≠ selfNode s → ∃ t n, exec (.verdictTimerExpiry id) s = .next t ∧
      mooringAt t id = some n ∧ n.timer = false ∧ anchorOf m ∈ n.probing ∧ (anchorOf m, .probe id) ∈ t.out.kmsg ∧
      (∃ e ∈ t.flash.log, e.code = 0x0010 ∧ e.mooring = id) ∧ n.provisional = m.provisional ∧ n.committed = m.committed ∧
      t.lanterns = s.lanterns) ∧
    -- the step after it has a timer of its own
    (m.timer = false → m.ahead.timer = true → anchorOf m ≠ selfNode s → ∃ t n, exec (.verdictTimerExpiry id) s = .next t ∧
      mooringAt t id = some n ∧ n.ahead.timer = false ∧ anchorOf m ∈ n.probing ∧ (∃ e ∈ t.flash.log, e.code = 0x0010 ∧ e.mooring = id)) ∧
    (m.timer = false → m.ahead.timer = false → exec (.verdictTimerExpiry id) s = .next s) ∧
    -- tender copies
    (∀ kept c u, m.tender.find? (fun c => c.pos == kept) = some c → c.staged = some u → (∀ e ∈ m.tender, e.pos = kept → e = c) → ∃ t n, exec (.tenderInstall id kept) s = .next t ∧
      mooringAt t id = some n ∧ n.tender.length = m.tender.length ∧
      (∀ (k : Nat) (c : TenderCopy), m.tender[k]? = some c → ∃ e : TenderCopy, n.tender[k]? = some e ∧ (c.pos ≠ kept → e = c) ∧
        (c.pos = kept → ∀ u, c.staged = some u → e.point = some u ∧ e.staged = none ∧ e.staging = [] ∧ e.stagedHdrs = [] ∧ e.pos = c.pos)) ∧
      (c.staging = [] → t.mem = s.mem) ∧ t.lanterns = s.lanterns) ∧
    (parentNode s m = none → m.announced = false → m.reported = true → ∃ t n, exec (.tenderAnnounce id) s = .next t ∧
      mooringAt t id = some n ∧ n.announced = true ∧ n.undo = [] ∧ n.undoHdr = [] ∧ n.installedBy = [] ∧ n.committed = m.committed ∧
      (∀ k ∈ membersOf s m, k ≠ selfNode s → (k, .tenderAnnounced id (m.committed.getD 0)) ∈ t.out.kmsg) ∧
      ∀ l, lanternAt t l = (if (lanternAt s l).mooring = some id then { lanternAt s l with updHold := false } else lanternAt s l)) ∧
    -- serving steps
    (m.desc.kind = 1 → going → m.stepOn = true → m.contrib = none → m.ends = [] → anchorOf m = selfNode s →
      (∀ n ∈ membersOf s m, n = selfNode s) → s.keeper.ops = [] → s.keeper.leaveAt = none → m.decided + 1 < m.runCount → m.step + 1 < 2 ^ 48 →
      let fault := m.gathered.fault || all_.any (fun l => (lanternAt s l).fault)
      (fault = false → ended → ∃ t n, exec (.servingStepEnd id) s = .next t ∧ mooringAt t id = some n ∧ n.committed = some m.step ∧
        n.step = m.step + 1 ∧ n.stepOn = false ∧ n.replays = 0 ∧ n.decided = m.decided + 1 ∧ t.mem = s.mem) ∧
      (fault = true → m.replays < m.desc.replayMax → ∃ t n, exec (.servingStepEnd id) s = .next t ∧ mooringAt t id = some n ∧
        n.committed = m.committed ∧ n.step = m.step ∧ n.stepOn = false ∧ n.replays = m.replays + 1)) ∧
    -- permutes
    (∀ v, m.moving = some v → v.asker ≠ selfNode s →
      (v.failed = true → ∃ t, exec (.permute id) s = .next t ∧ (v.asker, .permuteFailed id (selfNode s)) ∈ t.out.kmsg ∧ t.moorings = s.moorings) ∧
      (v.failed = false → v.begun = false → ∃ t n w, exec (.permute id) s = .next t ∧ mooringAt t id = some n ∧ n.moving = some w ∧ w.begun = true) ∧
      (v.failed = false → v.begun = true → v.want = [] →
        (∀ q ∈ s.router.src, ∀ p ∈ streamPackets q, ¬ (p.typ = 8 ∧ p.mooring = id ∧ bits p.arg 35 28 = 0xFF)) →
        ∃ t, exec (.permute id) s = .next t ∧ (v.asker, .permuted id (selfNode s) v.bytes) ∈ t.out.kmsg ∧ t.moorings = s.moorings ∧
          t.lanterns = s.lanterns) ∧
      (v.failed = false → v.begun = true → v.want ≠ [] → exec (.permute id) s = .next s))

/-! ### Beacons, resets, tests, probes -/

/-- What the Keeper's watch, resets and probes do (R22, R136, R337 to R345, R349, R350, R352, R362, R370). A beacon sample counts for
how many samples each counter has stood; the eighth sets the fault flag and is logged, and unless everything waits on something
outside the lantern a compute reset starts. A reset that ends frees its unit; one that exceeds its hang limit escalates to a tower
reset, and from there to router-only mode. A test's result is logged, its pass counted as a transient. An owed daymark advance
takes place 1 ms after the last. A probe's answer ends it; without the right one the anchor declares the member lost, and one
declared lost that answers later is told to release. A guest's access outside its mapping and its register block, or of a
poisoned line, is its fault; a failed host-window access sets the flags. -/
def Obligations.WatchAndRecovery : Prop :=
  ∀ s : State, s.Inv →
    -- beacon samples
    (∀ l, l < 192 →
      let x := lanternAt s l
      let stood (i : Nat) : Prop := engineBusy x i = true ∧ x.beacon.getD i 0 = x.sampled.getD i 0
      let waited := x.waiting = true ∧ ∀ i, i < 3 → x.beacon.getD i 0 = x.sampled.getD i 0
      let watch := x.phys.isSome = true ∧ x.running = true ∧ x.endRetired = false ∧ x.holding = false ∧ x.updHold = false ∧
        x.rst.active = false ∧ (towerAt s (l / 48)).rst.active = false
      (¬ watch → ∃ t, exec (.beaconSample l) s = .next t ∧ OtherLanterns s t l ∧ SameOutside s t ∧ t.moorings = s.moorings ∧
        lanternAt t l = { x with
          sampled := x.beacon
          still := [0, 0, 0, 0]
          waits := [0, 0, 0] }) ∧
      (watch → (∀ i, i < 3 → stood i → x.still.getD i 0 < 7) → (waited → x.still.getD 3 0 < 7) →
        ∃ t still waits, exec (.beaconSample l) s = .next t ∧ OtherLanterns s t l ∧ SameOutside s t ∧ t.moorings = s.moorings ∧
          lanternAt t l = { x with
            sampled := x.beacon
            still := still
            waits := waits } ∧
          (∀ i, i < 3 → (stood i → still.getD i 0 = x.still.getD i 0 + 1) ∧ (¬ stood i → still.getD i 0 = 0) ∧
            (stood i ∧ engineWaits x i = true → waits.getD i 0 = x.waits.getD i 0 + 1) ∧ (¬ (stood i ∧ engineWaits x i = true) → waits.getD i 0 = 0)) ∧
          (waited → still.getD 3 0 = x.still.getD 3 0 + 1) ∧ (¬ waited → still.getD 3 0 = 0)) ∧
      (watch → ((∃ i, i < 3 ∧ stood i ∧ 7 ≤ x.still.getD i 0) ∨ (waited ∧ 7 ≤ x.still.getD 3 0)) →
        ∃ t e, exec (.beaconSample l) s = .next t ∧ e ∈ t.flash.log ∧ e.code = evFog ∧ e.unit = l ∧
          -- every engine that stood for all eight samples waited in all of them: WAIT, else ENGINE (R339)
          ((∀ i, i < 3 → stood i → 7 ≤ x.still.getD i 0 → engineWaits x i = true ∧ 7 ≤ x.waits.getD i 0) → e.detail = 0 ∧ (lanternAt t l).fault = true ∧
            (lanternAt t l).rst = x.rst ∧ (lanternAt t l).vec = x.vec) ∧
          ((∃ i, i < 3 ∧ stood i ∧ 7 ≤ x.still.getD i 0 ∧ (engineWaits x i = false ∨ x.waits.getD i 0 < 7)) → e.detail = 1 ∧
            (lanternAt t l).running = false))) ∧
    -- the end of a compute reset, and its hang limit; commands that waited for the handling of a fault go on (R227)
    let noneWaits : Prop := ∀ m ∈ s.moorings, m.handlingFor = none ∧ (m.paused = true → m.faulted = false)
    (∀ l, l < 192 → let x := lanternAt s l
      x.rst.active = true → x.rst.test = false → x.rst.held = false → (towerAt s (l / 48)).rst.active = false →
      (.lantern l ∉ s.keeper.owed → ∃ u t, exec (.computeResetDone (.lantern l)) s = .next t ∧ t = faultHandled u ∧ (noneWaits → t = u) ∧
        OtherLanterns s u l ∧ SameOutside s u ∧ u.moorings = s.moorings ∧
        lanternAt u l = { setModes .normal (clearLantern x) with rst := ⟨false, 0, false, false⟩ } ∧ (lanternAt u l).acc = [] ∧ (lanternAt u l).grad = [] ∧
        (lanternAt u l).vec = VEngine.reset ∧ (lanternAt u l).beacon = [0, 0, 0] ∧ (lanternAt u l).fault = x.fault ∧ (lanternAt u l).phys = x.phys) ∧
      (∃ t, exec (.resetHangLimit (.lantern l)) s = .next t ∧ (towerAt t (l / 48)).rst.active = true ∧
        (towerAt t (l / 48)).resets = (towerAt s (l / 48)).resets + 1)) ∧
    (∀ k, k < 4 → let x := towerAt s k
      x.rst.active = true → x.rst.held = false → (∀ l, l / 48 = k → (lanternAt s l).rst.test = false) →
      (s.keeper.owed = [] → ∃ u t, exec (.computeResetDone (.tower k)) s = .next t ∧ t = faultHandled u ∧ (noneWaits → t = u) ∧
        (towerAt u k).rst = ⟨false, 0, false, false⟩ ∧ (∀ j, j ≠ k → towerAt u j = towerAt s j) ∧ u.mem = s.mem ∧ u.router = s.router ∧ u.keeper = s.keeper ∧
        ∀ l, l < 192 → lanternAt u l = (if l / 48 = k then { setModes .normal (clearLantern (lanternAt s l)) with rst := ⟨false, 0, false, false⟩ } else lanternAt s l)) ∧
      (s.boot.state = 1 ∨ s.boot.state = 2 → ∃ t, exec (.resetHangLimit (.tower k)) s = .next t ∧ RouterOnly t)) ∧
    (∀ l, (lanternAt s l).rst.active = false → exec (.computeResetDone (.lantern l)) s = .next s ∧ exec (.resetHangLimit (.lantern l)) s = .next s) ∧
    -- targeted tests of a lantern held in reset
    (∀ l p, l < 192 → (lanternAt s l).phys = some p → (lanternAt s l).rst.test = true → HostRings s →
      ((s.keeper.transients.filter (fun q => q.1 == .lantern l)).length + 1 < s.keeper.policy.transient →
        ∃ t e, exec (.targetedTestResult (.lantern l) .pass) s = .next t ∧ e ∈ t.flash.log ∧ e.code = evSelfTest ∧ e.unit = l ∧ e.detail = 0 ∧
          (.lantern l, nowNs s) ∈ t.keeper.transients ∧ (lanternAt t l).phys = some p ∧ (lanternAt t l).rst = { (lanternAt s l).rst with test := false } ∧
          OtherLanterns s t l ∧ t.mem = s.mem) ∧
      (∀ r, r ≠ .pass → ∃ t e, exec (.targetedTestResult (.lantern l) r) s = .next t ∧ e ∈ t.flash.log ∧ e.code = evSelfTest ∧ e.unit = l ∧
        (r = .errorDuring → e.detail = 2) ∧ ∀ ps, r = .fail ps → e.detail = 1)) ∧
    -- daymarks
    (∀ k, .keeper ∈ s.keeper.owed → (∀ q ∈ s.keeper.lastAdv, q.1 = .keeper → q.2 + 1000000 ≤ nowNs s) → s.keeper.daymark = k →
      ∃ t, exec (.daymarkAdvance .keeper) s = .next t ∧ t.keeper.daymark = (if k + 1 < 2 ^ 32 then k + 1 else if k + 1 = 2 ^ 32 then 1 else nextDaymark k) ∧
        t.keeper.owed = s.keeper.owed.erase .keeper ∧ SameUnits s t ∧ t.mem = s.mem) ∧
    (∀ l, l < 192 → .lantern l ∈ s.keeper.owed → (∀ q ∈ s.keeper.lastAdv, q.1 = .lantern l → q.2 + 1000000 ≤ nowNs s) →
      ∃ t, exec (.daymarkAdvance (.lantern l)) s = .next t ∧ lanternAt t l = { lanternAt s l with daymark := nextDaymark (lanternAt s l).daymark } ∧
        OtherLanterns s t l ∧ t.keeper.owed = s.keeper.owed.erase (.lantern l) ∧ t.moorings = s.moorings ∧ t.mem = s.mem) ∧
    (∀ d, d ∉ s.keeper.owed → (∀ m ∈ s.moorings, d = .mooring m.desc.id → m.due = [] ∨ mayAdvance s d = false) → exec (.daymarkAdvance d) s = .next s) ∧
    -- probes
    (∀ id m n, mooringAt s id = some m → n ∈ m.probing → m.recovering = [] → m.electing = none →
      (∃ t, exec (.probeTimeout id n (.daymark m.daymark)) s = .next t ∧
        mooringAt t id = some { m with probing := m.probing.filter (fun k => k != n) } ∧ { t with moorings := s.moorings } = s) ∧
      (∀ a, a ≠ .daymark m.daymark → anchorOf m = selfNode s → ∃ t e, exec (.probeTimeout id n a) s = .next t ∧ e ∈ t.flash.log ∧
        e.code = evMemberLost ∧ e.mooring = id ∧ e.detail = n) ∧
      -- only the anchor's silence begins an election (R363)
      (∀ a, a ≠ .silent → a ≠ .daymark m.daymark → anchorOf m = n → n ≠ selfNode s → ∃ t, exec (.probeTimeout id n a) s = .next t ∧
        mooringAt t id = some { m with probing := m.probing.filter (fun k => k != n) } ∧ { t with moorings := s.moorings } = s)) ∧
    -- a member declared lost that answers later is told to release (R362)
    (∀ id m n k, mooringAt s id = some m → n ∉ m.probing → anchorOf m = selfNode s → n ∉ membersOf s m → n ≠ selfNode s →
      ∃ t, exec (.probeTimeout id n (.daymark k)) s = .next t ∧ (n, .release id) ∈ t.out.kmsg ∧ t.moorings = s.moorings ∧ t.lanterns = s.lanterns) ∧
    (∀ id m n, mooringAt s id = some m → n ∉ m.probing → exec (.probeTimeout id n .silent) s = .next s) ∧
    (∀ id m r n, mooringAt s id = some m → r ∈ membersOf s m → n ∈ membersOf s m → r ≠ n → n ≠ selfNode s →
      (anchorOf m = selfNode s → ∃ t k, exec (.linkDownReport id r n) s = .next t ∧ mooringAt t id = some k ∧ n ∈ k.probing ∧
        (n, .probe id) ∈ t.out.kmsg ∧ t.lanterns = s.lanterns) ∧
      (anchorOf m ≠ selfNode s → r = selfNode s → ∃ t, exec (.linkDownReport id r n) s = .next t ∧
        (anchorOf m, .suspect id n) ∈ t.out.kmsg ∧ t.moorings = s.moorings ∧ t.lanterns = s.lanterns)) ∧
    -- guests and host windows
    (∀ c a, c < 12 → let x := s.shore.getD c ShoreCore.reset
      let block : Prop := 0x10000000 ≤ a ∧ a < 0x10010000
      ((x.running = true ∧ ¬ block ∧ ∀ w ∈ x.maps, a < w.1 ∨ w.1 + w.2 ≤ a) → exec (.shoreAccessFault c a) s =
        .next { s with shore := s.shore.set c { x with faults := a :: x.faults } }) ∧
      ((x.running = false ∨ block ∨ (∃ w ∈ x.maps, w.1 ≤ a ∧ a < w.1 + w.2) ∧ ∀ b, checkAddr s (.shore c) a 1 false = some (.mem b) → isPoisoned s b 1 = false) →
        exec (.shoreAccessFault c a) s = .next s) ∧
      (∀ b, x.running = true → ¬ block → (∃ w ∈ x.maps, w.1 ≤ a ∧ a < w.1 + w.2) → checkAddr s (.shore c) a 1 false = some (.mem b) → isPoisoned s b 1 = true →
        ∃ t, exec (.shoreAccessFault c a) s = .next t ∧ t.shore = s.shore.set c { x with faults := a :: x.faults } ∧ t.lanterns = s.lanterns)) ∧
    (∀ l ld q, l < 192 → (lanternAt s l).vec.loadQ = ld :: q → ld.fail = false → ∃ t, exec (.hostWindowError (.vector l)) s = .next t ∧
      (lanternAt t l).fault = true ∧ (lanternAt t l).vec.loadQ = { ld with fail := true } :: q ∧
      (lanternAt t l).vec.flags.getLsbD flAddr = true ∧ (lanternAt t l).vec.regs = (lanternAt s l).vec.regs ∧
      OtherLanterns s t l ∧ t.moorings = s.moorings) ∧
    (∀ c, (match c with | .lantern l k => l < 192 ∧ k < 4 | .system n => n < 16) → (∀ f ∈ (chanAt s c).flights, f.job = none) →
      exec (.hostWindowError (.dma c)) s = .next s)

/-! ### Links and the router -/

/-- Links (R256 to R262, R270, R282). A port that is down takes nothing. On a running link a correctable codeword in its turn is
counted and gives up its flits, one out of turn takes the link down, an uncorrectable one is dropped and counted, the eighth within
1 ms takes the link down; a codeword leaves with ten flits that wait, every fifth with nine and a control flit. A control flit
carries its sender's VC states, count, root and distance, and its 64 bytes spell it. Loss of lock and the timeout of control flits
take the link down and start its training. Training ends at the width and rate that the lanes and the round trip allow; a link
that stayed down is trained again. That a codeword leaves for each that arrives is the model's choice (log 14). -/
def Obligations.Links : Prop :=
  ∀ (s : State) (p : Nat), s.Inv → p < 8 →
    let x := portAt s p
    let others (t : State) : Prop := (∀ q, q ≠ p → portAt t q = portAt s q) ∧ t.lanterns = s.lanterns ∧ t.moorings = s.moorings ∧ t.mem = s.mem ∧
      t.keeper = s.keeper ∧ t.time = s.time
    let idle : Prop := x.asm = none ∧ x.owner = none ∧ x.txFlits = [] ∧ (∀ h ∈ s.router.waiting, ∀ e, h.hop ≠ .out p e) ∧
      ∀ q, (∀ h ∈ (portAt s q).vcs.flatten, ∀ e, h.hop ≠ .out p e) ∧ ∀ a e, (portAt s q).asm = some a → a.fate ≠ .held (.out p e)
    let down (t : State) : Prop := ∃ u, t = reconsider u ∧ portAt u p = { x with
      up := false
      training := true
      listDue := true
      burst := []
      peerOn := 0
      dist := 255
      cnt := bump x.cnt 7 1 } ∧ others u ∧ u.flash = s.flash ∧ u.host = s.host
    let turn (y : Port) : Port := { y with
      cwseq := (x.cwseq + 1) % 16
      cwmod := (x.cwmod + 1) % 5 }
    -- a port that is down
    (x.up = false → (∀ c, exec (.codewordReceive p c) s = .next s) ∧ (∀ f a, exec (.controlFlit p f a) s = .next s) ∧
      exec (.lossOfLock p) s = .next s ∧
      (∀ q, x.asm = none → x.vcs.getD (vcOf q) [] = [] → exec (.packetHop (some p) q) s = .next s)) ∧
    -- codewords
    (∀ ls, x.up = true → ∃ t, t = takeCodeword s p (receivedCodeword x.firstLane ls) ∧
      exec (.codewordReceive p ls) s = .next (startAll (if (portAt t p).up = true then sendCodeword t p else t))) ∧
    (∀ c, x.up = true → x.asm = none →
      (c.ok = true → c.cwseq ≠ x.cwseq → idle → down (takeCodeword s p c)) ∧
      (c.ok = true → c.cwseq = x.cwseq → c.sop = 0 → ∃ t, takeCodeword s p c = t ∧ others t ∧ portAt t p = turn { x with
        cnt := if c.corrected.all (· == 0) then bump x.cnt 4 0 else bump x.cnt 4 1
        symbols := x.symbols.zipIdx.map (fun q => q.1 + c.corrected.getD q.2 0) }) ∧
      (c.ok = true → c.cwseq = x.cwseq → c.sop = 1 → x.vcs.length = 8 → (∃ b, c.flits[0]? = some b ∧ b.length = 64 ∧ needOf b = 1 ∧
          ∃ k, packetOfBytes b = k ∧ headerDrop k = none ∧ 2 ≤ k.hops ∧ basePort s k.dest = none ∧ x.vcs.getD (vcOf k) [] = []) →
        ∃ t k, takeCodeword s p c = t ∧ c.flits[0]?.map packetOfBytes = some k ∧
          t.router.arrived = s.router.arrived ++ [sealHeader { k with hops := k.hops - 1 }] ∧ others t ∧ (portAt t p).asm = none) ∧
      (c.ok = false → x.burst.length < 7 → ∃ t, takeCodeword s p c = t ∧ others t ∧ portAt t p = turn { x with
        cnt := bump x.cnt 5 1
        burst := nowNs s :: x.burst }) ∧
      (c.ok = false → 7 ≤ x.burst.length → nowNs s < x.burst.getD 6 0 + 1000000 → ∃ t, takeCodeword s p c = t ∧
        (portAt t p).up = false ∧ (portAt t p).training = true ∧ (portAt t p).burst = [] ∧ (portAt t p).cnt = bump (bump x.cnt 5 1) 7 1 ∧
        t.lanterns = s.lanterns ∧ t.moorings = s.moorings)) ∧
    (x.owner = none →
      let y := portAt (sendCodeword s p) p
      y.txWords = x.txWords + 1 ∧
      (x.txWords % 5 ≠ 4 → y.txFlits = x.txFlits.drop 10 ∧ y.txCseq = x.txCseq ∧ y.txTimes = x.txTimes) ∧
      (x.txWords % 5 = 4 → y.txFlits = x.txFlits.drop 9 ∧ y.txCseq = (x.txCseq + 1) % 2 ^ 32 ∧ y.txTimes.head? = some (x.txCseq, s.time.now)) ∧
      others (sendCodeword s p)) ∧
    -- control flits
    (∀ f : ControlFlit, f.cseq < 2 ^ 32 → f.tx < 2 ^ 80 → f.ecseq < 2 ^ 32 → f.erx < 2 ^ 80 → f.dist < 256 → f.root < 2 ^ 18 →
      (controlBytes f).length = 64 ∧ controlOfBytes (controlBytes f) = f) ∧
    (∀ f a, x.up = true → ∃ t, exec (.controlFlit p f a) s = .next t ∧
      let y := portAt t p
      y.peerOn = f.on ∧ y.rxCseq = f.cseq ∧ y.rxAt = a ∧ y.dist = f.dist ∧ y.root = f.root ∧
      (∀ q, x.txTimes.find? (fun e => e.1 == f.ecseq) = some q →
        y.delays.head? = some ((((a : Int) - q.2) - (f.tx - f.erx)) / 2) ∧ y.offsets.head? = some (((f.erx - (q.2 : Int)) + (f.tx - a)) / 2)) ∧
      t.moorings = s.moorings ∧ t.lanterns = s.lanterns) ∧
    -- loss of lock, timeout
    (x.up = true → (idle → ∃ t, exec (.lossOfLock p) s = .next t ∧ down t) ∧
      ∃ t, exec (.controlFlitTimeout p) s = .next t ∧ (portAt t p).up = false ∧ (portAt t p).training = true ∧ (portAt t p).peerOn = 0 ∧
        t.lanterns = s.lanterns ∧ t.moorings = s.moorings) ∧
    -- training
    (x.training = false → ∀ e, exec (.linkTrainingDone p e) s = .next s) ∧
    (∀ e, x.training = true → x.heldBy = 0 →
      let ends (up : Bool) (lanes rate : Nat) : Prop := ∃ t, exec (.linkTrainingDone p e) s = .next t ∧ (portAt t p).training = false ∧
        (portAt t p).up = up ∧ (up = true → (portAt t p).lanes = lanes ∧ (portAt t p).rate = rate ∧ (portAt t p).cwseq = 0 ∧
          (portAt t p).rtt = rttNs e ∧ (portAt t p).peerOn = 0xFF) ∧ t.lanterns = s.lanterns ∧ t.moorings = s.moorings
      (tripExceeds e 200 = false → e.lock224 = true → e.pass224 = 0xFFFF → ends true 16 224) ∧
      (tripExceeds e 200 = false → e.lock224 = true → e.pass224 ≠ 0xFFFF → (e.pass224 &&& 0xFF = 0xFF ∨ e.pass224 &&& 0xFF00 = 0xFF00) → ends true 8 224) ∧
      (tripExceeds e 200 = true → tripExceeds e 400 = false → e.lock112 = true → e.pass112 = 0xFFFF → ends true 16 112) ∧
      (tripExceeds e 400 = true → ends false 0 0) ∧
      -- a limit is exceeded by the mean of 64 exchanges as it is, no fraction of a nanosecond dropped (R259)
      (∀ ns, tripExceeds e ns = true ↔ (65536 * (ns * (e.exchanges.take 64).length : Nat) : Int) <
        (e.exchanges.take 64).foldl (fun n x => n + (((x.t4 : Int) - x.t1) - ((x.t3 : Int) - x.t2))) 0) ∧
      (e.lock224 = false → e.lock112 = false → e.lock56 = false → ends false 0 0)) ∧
    (exec (.retrainTimer p) s = .next (modPort s p (fun y =>
      if y.up = true ∨ y.heldBy ≠ 0 ∨ s.boot.links = false then y else { y with training := true })))

/-- The router (R255, R266, R269, R272 to R276). A packet made here is delivered here, or leaves by the port that dimension order
gives, or waits while the next hop holds its VC off or the port sends another; a light-list entry or a port that is down turns it
aside on the escape VCs, or drops it. A packet that arrives by a port is counted and loses a hop. An input VC goes off at 33 flits
and comes on again at 8. A packet that has waited too long at the head of its VC is dropped and counted. A light list that leaves
no cycle goes into the idle bank and is switched to; another raises the route event. -/
def Obligations.Routing : Prop :=
  ∀ s : State, s.Inv →
    let same (t : State) : Prop := t.lanterns = s.lanterns ∧ t.moorings = s.moorings ∧ t.mem = s.mem ∧ t.keeper = s.keeper ∧ t.time = s.time ∧ t.out = s.out
    let clear (base dest : Nat) : Prop := ∀ b ∈ lightList s, lightMatches b.e base dest = false
    let sealed (p : Packet) (esc : Bool) (o : Nat) : Packet := sealHeader { p with
      esc := p.esc || esc
      dl := isDateline s o }
    let ready (o : Nat) (q : Packet) : Prop := (portAt s o).up = true ∧ (portAt s o).txFlits.length < 10 ∧ (portAt s o).owner = none ∧
      waitsAhead s o (vcOf q) = false ∧ (portAt s o).peerOn.getLsbD (if q.esc then 6 + (if q.dl then 1 else 0) else 2 * q.cls + (if q.dl then 1 else 0)) = true
    -- packets made here
    (∀ p, (∀ h ∈ s.router.waiting, h.pkt ≠ p) → p.via = none →
      (basePort s p.dest = none → exec (.packetHop none p) s = .next (modRouter s (fun r => { r with arrived := r.arrived ++ [p] }))) ∧
      (∀ o, basePort s p.dest = some o → o < 8 → clear o p.dest →
        (ready o (sealed p false o) → ∃ t, exec (.packetHop none p) s = .next t ∧ same t ∧ (portAt t o).tx = (portAt s o).tx ++ [sealed p false o] ∧
          (portAt t o).txFlits = (portAt s o).txFlits ++ packetFlitsOf (sealed p false o) ∧
          (∀ k, k ≠ o → portAt t k = portAt s k) ∧ t.router.waiting = s.router.waiting) ∧
        ((portAt s o).up = true → ¬ ready o (sealed p false o) →
          exec (.packetHop none p) s = .next (modRouter s (fun r => { r with waiting := r.waiting ++ [⟨p, .out o false, false, 0, 0⟩] }))) ∧
        (∀ k, (portAt s o).up = false → defaultSidestep s o = some k → k < 8 →
          (ready k (sealed p true k) → ∃ t, exec (.packetHop none p) s = .next t ∧ same t ∧ (portAt t k).tx = (portAt s k).tx ++ [sealed p true k]) ∧
          ((portAt s k).up = false → exec (.packetHop none p) s = .next (bumpDrop s o 4))) ∧
        ((portAt s o).up = false → defaultSidestep s o = none → exec (.packetHop none p) s = .next (bumpDrop s o 4)))) ∧
    -- packets that arrive by a port
    (∀ i p, i < 8 → (portAt s i).up = true → (portAt s i).asm = none → headerDrop p = none → (portAt s i).vcs.getD (vcOf p) [] = [] →
      let q := sealHeader { p with hops := p.hops - 1 }
      let counted := bumpPort (bumpPort s i 0 1) i 1 p.payload.length
      (p.hops ≤ 1 → exec (.packetHop (some i) p) s = .next (bumpDrop counted i 2)) ∧
      (2 ≤ p.hops → (portAt s i).vcs.getD (vcOf q) [] = [] → basePort s p.dest = none → ∃ t, exec (.packetHop (some i) p) s = .next t ∧ same t ∧
        t.router.arrived = s.router.arrived ++ [q] ∧ t.router.ports = counted.router.ports)) ∧
    -- occupancy
    (∀ i v, v < 8 → (offBits (portAt s i)).getLsbD v =
      (decide (33 ≤ vcFlits (portAt s i) v) || (decide (8 < vcFlits (portAt s i) v) && (portAt s i).off.getLsbD v))) ∧
    (∀ i v n k, roomFor (portAt s i) v n = some k → k ≤ n ∧ n - k + (vcFlits (portAt s i) v - vcSkid (portAt s i) v) ≤ max 66 (vcFlits (portAt s i) v - vcSkid (portAt s i) v)) ∧
    -- head wait
    (∀ i v q rest, i < 8 → (portAt s i).vcs.getD v [] = q :: rest → v < (portAt s i).vcs.length → 5 < (portAt s i).drops.length →
      ∃ t, exec (.headWaitTimeout i v) s = .next t ∧ same t ∧ (portAt t i).drops.getD 5 0 = (portAt s i).drops.getD 5 0 + 1 ∧
        (rest = [] → (portAt t i).vcs.getD v [] = []) ∧ ((portAt t i).vcs.getD v []).length ≤ rest.length) ∧
    (∀ i v, (portAt s i).vcs.getD v [] = [] → exec (.headWaitTimeout i v) s = .next s) ∧
    -- the light list
    (∀ es known, es.length ≤ 256 → escapeAcyclic s es known = true → ∃ t e, exec (.lightListInstall es known) s = .next t ∧ (lightList t).map (·.e) = es ∧ t.router.active1 = !s.router.active1 ∧
      (s.moorings = [] → ∀ b ∈ lightList t, b.hits = 0) ∧ e ∈ t.flash.log ∧ e.code = evRoute ∧ e.detail = 0) ∧
    (∀ es known, escapeAcyclic s es known = false → ∃ t e, exec (.lightListInstall es known) s = .next t ∧ lightList t = lightList s ∧ t.router.active1 = s.router.active1 ∧
      e ∈ t.flash.log ∧ e.code = evRoute ∧ e.detail = 1)

/-! ### Carrier peers -/

/-- Carrier-peer requests and responses (R22, R265, R277, R278, R281, R346). A write in turn for a mooring that this module serves
lands in its windows, one of privileged work, which names no mooring (log 15), wherever the range and the lantern are there, but
that a write of the accumulators is only counted; PEER_DONE answers it; a read is answered by PEER_DATA with the bytes; a request outside the windows, or
for no mooring here, changes no memory and is answered with the status. Data and acknowledgements reach the vector engine that asked;
a failed one sets the flags. A packet with a wrong trailer, out of turn or of an old daymark has no effect but in the router and
its counts. -/
def Obligations.CarrierPeers : Prop :=
  ∀ (s : State) (p : Packet), s.Inv → p.dest = selfNode s →
    let quiet (t : State) : Prop := t.mem = s.mem ∧ t.poison = s.poison ∧ t.lanterns = s.lanterns ∧ t.moorings = s.moorings ∧ t.sysChans = s.sysChans ∧
      t.time = s.time ∧ t.shore = s.shore ∧ t.host = s.host ∧ t.flash = s.flash
    let answered (t : State) (typ status : Nat) (data : List Byte) : Prop := ∃ r ∈ t.router.src, r.dest = p.src ∧ r.cls = 1 ∧
      ∃ q ∈ streamPackets r, q.typ = typ ∧ q.tag = p.tag ∧ q.arg = status ∧ q.payload = data ∧ q.mooring = p.mooring ∧ q.daymark = p.domain
    let a := bits p.arg 55 0
    -- requests
    (∀ o, InTurn s p → p.dmk = 1 → servesMooring s p.mooring = some o → (∀ m, mooringAt s p.mooring = some m → p.daymark = m.daymark) →
      (p.typ = 1 → peerTargetOk s o a p.payload.length = true → ∃ t, exec (.peerWrite p) s = .next t ∧ t.lanterns = s.lanterns ∧ t.moorings = s.moorings ∧
        (bits a 55 48 ≠ 0x30 → ∀ i, i < p.payload.length → readByte t (a + i) = p.payload.getD i 0) ∧
        (bits a 55 48 = 0x30 → t.mem = s.mem ∧ t.keeper = { s.keeper with debugWrites := bump s.keeper.debugWrites 0 1 }) ∧
        (∀ b, b < a ∨ a + p.payload.length ≤ b → readByte t b = readByte s b) ∧ (s.poison = [] → answered t 4 0 [])) ∧
      (p.typ = 1 → peerTargetOk s o a p.payload.length = false → ∃ t, exec (.peerWrite p) s = .next t ∧ quiet t ∧ answered t 4 1 []) ∧
      (p.typ = 2 → rlenOk p.rlen = true → peerTargetOk s o a p.rlen = true → s.poison = [] → ∃ t d, exec (.peerRead p) s = .next t ∧ quiet t ∧
        answered t 3 0 d ∧ d.length = p.rlen ∧ ∀ i, i < p.rlen → d.getD i 0 = readByte s (a + i)) ∧
      (p.typ = 2 → rlenOk p.rlen = true → peerTargetOk s o a p.rlen = false → ∃ t d, exec (.peerRead p) s = .next t ∧ quiet t ∧
        answered t 3 1 d ∧ d.length = p.rlen)) ∧
    (s.boot.state ≠ 3 → servesMooring s p.mooring = if p.mooring = 0xFFFF then some none else (mooringAt s p.mooring).map some) ∧
    (InTurn s p → p.dmk = 1 → servesMooring s p.mooring = none → (∀ m, mooringAt s p.mooring = some m → p.daymark = m.daymark) →
      (p.typ = 1 → ∃ t, exec (.peerWrite p) s = .next t ∧ quiet t ∧ answered t 4 3 []) ∧
      (p.typ = 2 → rlenOk p.rlen = true → ∃ t d, exec (.peerRead p) s = .next t ∧ quiet t ∧ answered t 3 3 d ∧ d.length = p.rlen)) ∧
    -- responses
    (∀ r l k e n, InTurn s p → p.dmk = 2 → p.typ = 3 → reqAt s p.tag = some r → p.daymark = domainDaymark s r.dom → r.who = .vecLoad l k e n → l < 192 →
      ∀ ld q, (lanternAt s l).vec.loadQ = ld :: q → ld.tags.contains p.tag = true → ld ∉ q →
      (bits p.arg 7 0 = 0 → ∃ t, exec (.peerData p) s = .next t ∧ t.router.reqs = s.router.reqs.erase r ∧
        OtherLanterns s t l ∧ t.mem = s.mem ∧ t.moorings = s.moorings ∧
        lanternAt t l = { lanternAt s l with vec := { (lanternAt s l).vec with loadQ := { ld with
          tags := ld.tags.erase p.tag
          data := setBytes ld.data k ((p.payload.drop e).take n) } :: q } }) ∧
      (bits p.arg 7 0 ≠ 0 → HostRings s → ∃ t, exec (.peerData p) s = .next t ∧ (lanternAt t l).fault = true ∧ (lanternAt t l).vec.flags.getLsbD flAddr = true ∧
        OtherLanterns s t l ∧ t.mem = s.mem ∧ t.moorings = s.moorings ∧
        (lanternAt t l).vec.loadQ = { ld with
          tags := ld.tags.erase p.tag
          fail := true } :: q)) ∧
    (∀ r l row index, InTurn s p → p.dmk = 2 → p.typ = 4 → reqAt s p.tag = some r → p.daymark = domainDaymark s r.dom → r.who = .vecStore l row index → l < 192 →
      (lanternAt s l).vec.peerTags.contains p.tag = true → bits p.arg 7 0 = 0 → ∃ t, exec (.peerDone p) s = .next t ∧ OtherLanterns s t l ∧
        t.mem = s.mem ∧ t.moorings = s.moorings ∧ t.router.reqs = s.router.reqs.erase r ∧
        lanternAt t l = { lanternAt s l with vec := { (lanternAt s l).vec with peerTags := (lanternAt s l).vec.peerTags.erase p.tag } }) ∧
    -- packets that have no effect here
    (∀ i, ((i = .peerWrite p ∧ p.typ = 1) ∨ (i = .peerRead p ∧ p.typ = 2) ∨ (i = .peerData p ∧ p.typ = 3) ∨ (i = .peerDone p ∧ p.typ = 4)) →
      (p.trailer ≠ packetCrc p ∨ (p.start = false ∧ ∀ d, dstAt s p.src p.cls = some d → d.expect % 2 ^ 32 ≠ p.seq % 2 ^ 32) ∨
        (p.dmk = 2 ∧ ∀ r, reqAt s p.tag = some r → p.daymark ≠ domainDaymark s r.dom) ∨
        (p.dmk = 1 ∧ ∃ m, mooringAt s p.mooring = some m ∧ (m.daymark + 2 ^ 32 - p.daymark % 2 ^ 32) % 2 ^ 32 ≠ 0)) →
      ∃ t, exec i s = .next t ∧ quiet t ∧ t.router.reqs = s.router.reqs)

/-! ### Streams -/

/-- Streams (R265, R277 to R280, R290, R312, R362, R368). A collective packet in turn whose instance has not been issued is held; a Keeper message in
turn reaches the Keeper while its firmware runs. An ACK frees the copies up to its SEQ; a NAK sends the rest again, or numbers the
stream anew; the ACK timer acknowledges what has been delivered; the stream's timeout sends everything again, and the eighth in a row
fails the stream. -/
def Obligations.Streams : Prop :=
  ∀ s : State, s.Inv →
    let quiet (t : State) : Prop := t.mem = s.mem ∧ t.poison = s.poison ∧ t.lanterns = s.lanterns ∧ t.moorings = s.moorings ∧ t.sysChans = s.sysChans ∧
      t.time = s.time ∧ t.shore = s.shore ∧ t.host = s.host ∧ t.flash = s.flash
    let own (p : Packet) : Prop := p.dest = selfNode s ∧ p.trailer = packetCrc p
    -- collective packets
    (∀ p m l, InTurn s p → p.typ = 8 → p.dmk = 1 → mooringAt s p.mooring = some m → p.daymark = m.daymark → bits p.arg 35 28 < 0xFE → packetLantern s p = some l →
      l < 192 → (lanternAt s l).coll = [] → (lanternAt s l).collHeld.length < 64 → ∃ t, exec (.collPacket p) s = .next t ∧ OtherLanterns s t l ∧
        lanternAt t l = { lanternAt s l with collHeld := (lanternAt s l).collHeld ++ [p] } ∧ t.mem = s.mem ∧ t.moorings = s.moorings) ∧
    (∀ p m, InTurn s p → p.typ = 8 → p.dmk = 1 → mooringAt s p.mooring = some m → (m.daymark + 2 ^ 32 - p.daymark % 2 ^ 32) % 2 ^ 32 ≠ 0 →
      ∃ t, exec (.collPacket p) s = .next t ∧ quiet t) ∧
    -- Keeper messages
    (∀ p, InTurn s p → p.typ = 0x0A → p.dmk = 0 → s.boot.keeperUp = true →
      (∀ id m, mooringAt s id = some m → s.boot.state ≠ 3 → p.src ≠ selfNode s → ∃ t, exec (.keeperMsg p (.probe id)) s = .next t ∧ quiet t ∧
        t.out.kmsg = s.out.kmsg ++ [(p.src, .probeAnswer id (selfNode s) (.daymark m.daymark))]) ∧
      (∀ id m, mooringAt s id = some m → ∃ t, exec (.keeperMsg p (.pause id)) s = .next t ∧ t.lanterns = s.lanterns ∧ mooringAt t id = some { m with
        paused := true
        run := if m.run = .running then .stopping else m.run })) ∧
    (∀ p k, p.dest = selfNode s → s.boot.keeperUp = false → ∃ t, exec (.keeperMsg p k) s = .next t ∧ quiet t ∧ t.out = s.out) ∧
    -- ACK and NAK
    (∀ p st, own p → p.typ = 0x10 → streamAt s p.src (p.tag % 4) = some st → st.held = [] → ∃ t, exec (.ack p) s = .next t ∧ quiet t ∧
      streamAt t p.src (p.tag % 4) = some { st with
        unacked := st.unacked.filter (fun q => seqBefore p.seq q.2.seq)
        expiries := 0
        backoff := 0 }) ∧
    (∀ p st, own p → p.typ = 0x11 → bit p.arg 0 = false → streamAt s p.src (p.tag % 4) = some st → ∃ t, exec (.nak p) s = .next t ∧ quiet t ∧
      t.router.src = s.router.src ∧
      (resending s p.src (p.tag % 4) p.seq = true → t.router.cnt = bump s.router.cnt 4 1 ∧ t.router.ports = s.router.ports) ∧
      (resending s p.src (p.tag % 4) p.seq = false → 4 < s.router.cnt.length → t.router.cnt.getD 4 0 = s.router.cnt.getD 4 0 + 1 ∧
        t.router.cnt.getD 1 0 = s.router.cnt.getD 1 0 + (st.unacked.filter (fun q => !seqBefore q.2.seq p.seq)).length)) ∧
    (∀ p st, own p → p.typ = 0x11 → bit p.arg 0 = true → streamAt s p.src (p.tag % 4) = some st → ∃ t r, exec (.nak p) s = .next t ∧ quiet t ∧
      streamAt t p.src (p.tag % 4) = some r ∧ r.next = st.unacked.length ∧ r.unacked.length = st.unacked.length ∧ r.held = st.held ∧
      (∀ (k : Nat) q, r.unacked[k]? = some q → q.2.seq = k ∧ q.2.start = decide (k = 0) ∧ q.2.resent = true ∧
        (st.unacked[k]?).map (fun o => (o.1, o.2.payload, o.2.arg)) = some (q.1, q.2.payload, q.2.arg))) ∧
    -- the ACK timer
    (∀ src cls d, dstAt s src cls = some d → 0 < d.sinceAck → ∃ t q, exec (.ackTimer src cls) s = .next t ∧ quiet t ∧
      dstAt t src cls = some { d with sinceAck := 0 } ∧ q.typ = 0x10 ∧ q.dest = src ∧ q.tag = cls ∧ q.seq = (d.expect + 2 ^ 32 - 1) % 2 ^ 32 ∧
      t = inject (modDst s src cls (fun x => { x with sinceAck := 0 })) q) ∧
    (∀ src cls, (∀ d, dstAt s src cls = some d → d.sinceAck = 0) → exec (.ackTimer src cls) s = .next s) ∧
    -- the timeout
    (∀ dest cls st, streamAt s dest cls = some st →
      (st.unacked = [] → exec (.streamTimeout dest cls) s = .next s) ∧
      (st.unacked ≠ [] → st.expiries < 7 → ∃ t, exec (.streamTimeout dest cls) s = .next t ∧ quiet t ∧ streamAt t dest cls = some { st with
        expiries := st.expiries + 1
        backoff := min 4 (st.backoff + 1) } ∧
        (1 < s.router.cnt.length → t.router.cnt.getD 1 0 = s.router.cnt.getD 1 0 + st.unacked.length)) ∧
      (st.unacked ≠ [] → 7 ≤ st.expiries → s.moorings = [] → (∀ l, (lanternAt s l).coll = []) → (∀ q ∈ streamPackets st, q.typ ≠ 1 ∧ q.typ ≠ 2) → ∃ t e, exec (.streamTimeout dest cls) s = .next t ∧
        streamAt t dest cls = none ∧ e ∈ t.flash.log ∧ e.code = evPeer ∧ e.detail = dest + cls * 2 ^ 24 ∧ t.lanterns = s.lanterns))

/-! ### Trust -/

/-- The trust protocol of the configuration-space mailbox (R453, R454), while the Keeper's firmware serves it: version 1.2; the
capabilities; the algorithms, SM2 with SM3 only; the digest of slot 0's chain; portions of the chain; a challenge and
measurements, signed only after the algorithms were agreed. Each answer joins what has been answered; nothing else changes but
what a nonce draws. The bytes of the answers are the model's (log 13). -/
def Obligations.TrustMessages : Prop :=
  ∀ s : State, s.Inv →
    (doeUp s = false → exec .getVersion s = .next s ∧ exec .getDigests s = .next s ∧ ∀ a n, exec (.challenge a n) s = .next s) ∧
    (doeUp s = true →
    let gives (i : Instr) (t0 : State) (code : Nat) (ok : List Byte → Prop) : Prop := ∃ bs, exec i s = .next (doeAnswer t0 bs) ∧
      bs.getD 0 0 = 0x12 ∧ bs.getD 1 0 = BitVec.ofNat 8 code ∧ ok bs
    (∃ bs, exec .getVersion s = .next (doeAnswer s bs) ∧ bs.getD 1 0 = 0x04 ∧ bs.drop 6 = [0x00, 0x12]) ∧
    gives .getCapabilities s 0x61 (fun bs => (bs.drop 8).take 4 = natLE 4 0x16) ∧
    (∀ a b, (a = true ∧ b = true → gives (.negotiateAlgorithms a b) (modBoot s (fun x => { x with spdmAlgs := true })) 0x63 (fun _ => True)) ∧
      (a = false ∨ b = false → gives (.negotiateAlgorithms a b) (modBoot s (fun x => { x with spdmAlgs := false })) 0x7F (fun _ => True))) ∧
    gives .getDigests s 0x01 (fun bs => bs.drop 4 = digestBytes (Config.sm3 certChain)) ∧
    (∀ slot off len,
      (slot = 0 → off < certChain.length → gives (.getCertificate slot off len) s 0x02 (fun bs =>
        bs.drop 8 = (certChain.drop off).take len)) ∧
      (slot ≠ 0 ∨ certChain.length ≤ off → gives (.getCertificate slot off len) s 0x7F (fun _ => True))) ∧
    (∀ slot nonce,
      (s.boot.spdmAlgs = true → slot = 0 → gives (.challenge slot nonce) (drawNonce s).2 0x03 (fun bs =>
        (bs.drop 4).take 32 = digestBytes (Config.sm3 certChain) ∧ ((bs.drop 36).take 32 = (drawNonce s).1))) ∧
      (s.boot.spdmAlgs = false ∨ slot ≠ 0 → gives (.challenge slot nonce) s 0x7F (fun _ => True))) ∧
    (∀ op signed nonce,
      (signed = false ∨ s.boot.spdmAlgs = true → op ≤ 7 ∨ op = 0xFF → gives (.getMeasurements op signed nonce) (drawNonce s).2 0x60 (fun bs =>
        bs.getD 2 0 = (if op = 0 then 7 else 0) ∧ (op = 0xFF → bs.getD 4 0 = BitVec.ofNat 8 (measurements s 0).length))) ∧
      ((signed = true ∧ s.boot.spdmAlgs = false) ∨ (7 < op ∧ op ≠ 0xFF) → gives (.getMeasurements op signed nonce) s 0x7F (fun _ => True))))
/-! ### Settings of the module -/

/-- FAULT_POLICY (R354, R380): the items given, each within its range, take effect and the rest keep their values; the
beacon window is that of the mooring named. The values in force are the result. An item out of range refuses the command
with FIELD and changes nothing. -/
def Obligations.FaultPolicyItems : Prop :=
  ∀ (m : Mbox) (r : Request) (s : State) (items : PolicyItems), m.ok = true → s.Inv → Asked s m 0x0062 r →
    let k := s.keeper.policy
    let k1 : Policy := {
      lanternHang := items.lanternHangUs.getD k.lanternHang, towerHang := items.towerHangUs.getD k.towerHang,
      lanternResets := items.lanternResets.getD k.lanternResets, lanternWin := items.lanternWinUs.getD k.lanternWin,
      towerResets := items.towerResets.getD k.towerResets, towerWin := items.towerWinUs.getD k.towerWin,
      transient := items.transientLimit.getD k.transient, transientWin := items.transientWinUs.getD k.transientWin,
      eccBurst := items.eccBurst.getD k.eccBurst, probe := items.probeUs.getD k.probe }
    (policyOk items = true → items.beaconUs = none →
      ∃ t, exec (.faultPolicy m none items) s = .next t ∧ Answered t m r 0 (policyBytes 0 k1) 0 ∧
        t.keeper = { s.keeper with policy := k1 } ∧ SameWork s t ∧ t.host = s.host ∧
        ∀ f q, queueAt t f q = queueAt s f q) ∧
    (∀ id x, policyOk items = true → mooringAt s id = some x →
      ∃ t, exec (.faultPolicy m (some id) items) s = .next t ∧
        Answered t m r 0 (policyBytes (items.beaconUs.getD x.beaconUs) k1) 0 ∧
        t.keeper = { s.keeper with policy := k1 } ∧
        mooringAt t id = some { x with beaconUs := items.beaconUs.getD x.beaconUs } ∧
        (∀ k, k ≠ id → mooringAt t k = mooringAt s k) ∧ t.lanterns = s.lanterns ∧ t.mem = s.mem ∧ t.poison = s.poison ∧
        t.boot = s.boot ∧ t.power = s.power ∧ t.flash = s.flash ∧ t.router = s.router ∧ t.time = s.time) ∧
    (∀ v, items.eccBurst = some v → (v < 4 ∨ 1024 < v) →
      ∃ t, exec (.faultPolicy m none items) s = .next t ∧ Answered t m r 0x12 [] 0 ∧ SameWork s t ∧ t.keeper = s.keeper)

/-- SET_SPLIT and DEBUG_MODE (R320, R110): SPLIT becomes 1, 2 or 4, only while the module holds no mooring; debug mode
is turned on only while no mooring opened through a virtual function is open. The refusals change nothing. -/
def Obligations.SplitAndDebugMode : Prop :=
  ∀ (m : Mbox) (r : Request) (s : State), m.ok = true → s.Inv →
    (∀ n, Asked s m 0x0063 r → (n = 1 ∨ n = 2 ∨ n = 4) → s.moorings = [] →
      ∃ t, exec (.setSplit m n) s = .next t ∧ Answered t m r 0 [] 0 ∧ t.keeper = { s.keeper with split := n } ∧
        SameWork s t ∧ t.host = s.host ∧ ∀ f q, queueAt t f q = queueAt s f q) ∧
    (∀ n, Asked s m 0x0063 r → (n = 1 ∨ n = 2 ∨ n = 4) → s.moorings ≠ [] →
      ∃ t, exec (.setSplit m n) s = .next t ∧ Answered t m r 0x15 [] 0 ∧ t.keeper = s.keeper ∧ SameWork s t) ∧
    (∀ n, Asked s m 0x0063 r → n ≠ 1 → n ≠ 2 → n ≠ 4 →
      ∃ t, exec (.setSplit m n) s = .next t ∧ Answered t m r 0x12 [] 0 ∧ t.keeper = s.keeper ∧ SameWork s t) ∧
    (∀ v, Asked s m 0x00A0 r → v ≤ 1 → (v = 0 ∨ ∀ x ∈ s.moorings, x.ownerFunc = 0 ∨ 32 ≤ x.ownerFunc) →
      ∃ t, exec (.debugMode m v) s = .next t ∧ Answered t m r 0 [] 0 ∧
        t.keeper = { s.keeper with debug := decide (v = 1) } ∧ SameWork s t ∧ t.host = s.host ∧
        ∀ f q, queueAt t f q = queueAt s f q) ∧
    (∀ x, Asked s m 0x00A0 r → x ∈ s.moorings → 1 ≤ x.ownerFunc → x.ownerFunc < 32 →
      ∃ t, exec (.debugMode m 1) s = .next t ∧ Answered t m r 0x19 [] 0 ∧ t.keeper = s.keeper ∧ SameWork s t)

/-- POWER_SET and the management bus (R430, R472, R473). POWER_SET with every field in its range puts CAP, PEAK_CAP, the
slew limit, trimming and the sectors' shares in force and answers the limits. A PLDM write of one effecter within its
limits sets that one. A control message is answered by its own two leading bytes and completion 0x00. The answers' bytes
on the management bus are the model's (notes/assumptions/13.md). -/
def Obligations.PowerLimits : Prop :=
  (∀ (m : Mbox) (r : Request) (s : State) (cap peak slew fl w0 w1 w2 w3 : Nat), m.ok = true → s.Inv → Asked s m 0x0080 r →
    r.args = natLE 2 cap ++ natLE 2 peak ++ natLE 1 slew ++ natLE 1 fl ++ natLE 2 0 ++ natLE 2 w0 ++ natLE 2 w1 ++
      natLE 2 w2 ++ natLE 2 w3 ++ natLE 16 0 →
    400 ≤ cap → cap ≤ 1500 → cap ≤ peak → peak ≤ 2000 → 4 ≤ slew → slew ≤ 16 → fl < 4 →
    ((w0 = 0 ∧ w1 = 0 ∧ w2 = 0 ∧ w3 = 0) ∨
      (200 ≤ w0 ∧ 200 ≤ w1 ∧ 200 ≤ w2 ∧ 200 ≤ w3 ∧ w0 + w1 + w2 + w3 ≤ cap)) →
    let p : Power := { s.power with
      cap := cap, peakCap := peak, slew := slew,
      trim := if 2 ≤ fl then decide (fl % 2 = 1) else s.power.trim, share := [w0, w1, w2, w3] }
    ∃ t, exec (.powerSet m) s = .next t ∧ Answered t m r 0 (words ([cap, peak, slew, b2n p.trim] ++ [w0, w1, w2, w3])) 0 ∧
      t.power = p ∧ t.keeper = s.keeper ∧ t.mem = s.mem ∧ t.lanterns = s.lanterns ∧ t.moorings = s.moorings ∧
      t.boot = s.boot ∧ t.flash = s.flash ∧ t.router = s.router ∧ t.time = s.time ∧ t.host = s.host) ∧
  (∀ (v : Nat) (s : State), s.power.inputOn = true →
    (400 ≤ v → v ≤ 1500 → v ≤ s.power.peakCap → s.power.share = [0, 0, 0, 0] →
      exec (.pldmEffecterWrite .cap v) s = .next (mctpAnswer { s with power := { s.power with cap := v } } [0x00])) ∧
    (s.power.cap ≤ v → v ≤ 2000 →
      exec (.pldmEffecterWrite .peakCap v) s = .next (mctpAnswer { s with power := { s.power with peakCap := v } } [0x00])) ∧
    (4 ≤ v → v ≤ 16 →
      exec (.pldmEffecterWrite .slew v) s = .next (mctpAnswer { s with power := { s.power with slew := v } } [0x00])) ∧
    (16 < v → exec (.pldmEffecterWrite .slew v) s = .next (mctpAnswer s [0x02]))) ∧
  (∀ (msg : List Byte) (s : State), s.power.inputOn = true →
    exec (.mctpControl msg) s = .next (mctpAnswer s (msg.take 2 ++ [0x00])))

/-! ### Reading the module -/

/-- TELEMETRY_READ, ACC_TAG_READ and ATTEST only read: the request is answered and everything else stays.
A group that every function may read (R381: 0x01, 0x07, 0x09) gives COUNT words from the first on; a group that only the
PF may read (0x10 to 0x13) is refused to another function with PRIVILEGE and counted. ACC_TAG_READ (R89, R110) gives each
tag of the columns and entries named in a word of its own. ATTEST (R456) gives the nonce, the measurements and the
function's log with a signature of 64 bytes over all of it. -/
def Obligations.ReadingCommands : Prop :=
  ∀ (m : Mbox) (r : Request) (s : State), m.ok = true → s.Inv →
    (∀ g first count, Asked s m 0x0070 r → (g = 0x01 ∨ g = 0x07 ∨ g = 0x09) → 8 * count ≤ 4056 →
      8 * (first + count) ≤ (groupBytes s m.func g r.mooring).length →
      ∃ t, exec (.telemetryRead m g first count) s = .next t ∧
        Answered t m r 0 (((groupBytes s m.func g r.mooring).drop (8 * first)).take (8 * count)) 0 ∧ SameWork s t ∧
        t.keeper = s.keeper ∧ t.host = s.host ∧ ∀ f q, queueAt t f q = queueAt s f q) ∧
    (∀ g first count, Asked s m 0x0070 r → 0x10 ≤ g → g ≤ 0x13 → m.func ≠ 0 →
      ∃ t, exec (.telemetryRead m g first count) s = .next t ∧ Answered t m r 0x13 [] 0 ∧ SameWork s t ∧
        t.keeper = s.keeper ∧ (funcAt t m.func).privRef = (funcAt s m.func).privRef + 1) ∧
    (∀ lantern grad col ncols entry nentries, Asked s m 0x00A1 r → (lanternAt s lantern).phys.isSome = true →
      0 < ncols → 0 < nentries → col + ncols ≤ 128 → entry + nentries ≤ 1024 → 8 * ncols * nentries ≤ 4056 →
      ∃ t bs, exec (.accTagRead m lantern grad col ncols entry nentries) s = .next t ∧ Answered t m r 0 bs 0 ∧
        (∀ c e, c < ncols → e < nentries → leAt bs (8 * (c * nentries + e)) 8 =
          (tget emptyTag (if grad then (lanternAt s lantern).gradTag else (lanternAt s lantern).accTag)
            (128 * (entry + e) + (col + c))).toNat) ∧
        SameWork s t ∧ t.keeper = s.keeper ∧ t.host = s.host ∧ ∀ f q, queueAt t f q = queueAt s f q) ∧
    (∀ nonce, Asked s m 0x0090 r → (funcAt s m.func).attLog = [] →
      ∃ t sig, exec (.attest m nonce) s = .next t ∧ sig.length = 64 ∧
        Answered t m r 0 (natLE 32 nonce.toNat ++ (measurements s m.func).flatMap blockOf ++ sig) 0 ∧ SameWork s t ∧
        t.keeper = s.keeper ∧ t.host = s.host ∧ ∀ f q, queueAt t f q = queueAt s f q)

/-- EVENT_LOG_READ (R144, R380): records first to last of the flash log's ring (its last 2^27: log 37), in their 32-byte form (R387), go to OUT; the
command is accepted, and its completion record carries SUCCESS and their number. The log, the lanterns and the moorings
stay. OUT lies in a host window here. -/
def Obligations.EventLogRead : Prop :=
  ∀ (m : Mbox) (r : Request) (s w : State) (first last : Nat), m.ok = true → s.Inv → Asked s m 0x0071 r →
    first ≤ last → last < (logRing s.flash.log).length → 32 * (last + 1 - first) ≤ r.outlen →
    let bs := (((logRing s.flash.log).drop first).take (last + 1 - first)).flatMap (fun e => natLE 32 (eventNat e.node e))
    keeperWrite s m.func r.out bs = .ok w → 7 * 2 ^ 61 ≤ r.out →
    ∃ t u, exec (.eventLogRead m first last) s = .next t ∧ Reported t u m.func r 0 0 (last + 1 - first) ∧
      Answered u m r 1 [] 0 ∧ u.host = w.host ∧ u.mem = s.mem ∧ u.keeper = s.keeper ∧ SameUnits s u ∧ u.flash = s.flash ∧
      ∀ f q, queueAt u f q = queueAt s f q

/-! ### Queues, interrupts, registers -/

/-- QUEUE_HEAD_WRITE (R400): the count's parts that the ring uses continue across its wrap; a head within the records
written is accepted, any other sets BADHEAD and leaves HEAD, and a write to an unbound queue does nothing. Other queues
and the module's work stay. A rejected head moves no staged record. -/
def Obligations.HeadWrites : Prop :=
  (∀ n, 6 ≤ n → n ≤ 16 → 2 ^ 32 % 2 ^ (n + 1) = 0 ∧
    ∀ p, (p + 1) % 2 ^ 32 % 2 ^ n = (p + 1) % 2 ^ n ∧ (p + 1) % 2 ^ 32 / 2 ^ n % 2 = (p + 1) / 2 ^ n % 2) ∧
  ∀ (s : State) (f q v : Nat), s.Inv → f < 44 → q < 16 → v < 2 ^ 32 → barReaches s f = true →
    let x := queueAt s f q
    let gap (c : Nat) : Nat := (c + 2 ^ 32 - x.head) % 2 ^ 32
    (x.bound = true → gap v ≤ gap x.prod → ∃ t, exec (.queueHeadWrite f q v) s = .next t ∧
      (queueAt t f q).head = v ∧ (queueAt t f q).badHead = x.badHead ∧ (queueAt t f q).bound = true ∧
      (∃ k, (queueAt t f q).staged = x.staged.drop k ∧ (k ≠ 0 → (x.prod + 2 ^ 32 - v) % 2 ^ 32 < 2 ^ x.log2n)) ∧
      (∀ g k, (g, k) ≠ (f, q) → queueAt t g k = queueAt s g k) ∧ SameUnits s t ∧ LogGrows s.flash t.flash ∧
      (x.lost = 0 → t.flash = s.flash) ∧ ((∀ o ∈ s.keeper.ops, o.func = f → o.paused = none) → Outward s t)) ∧
    (x.bound = true → gap x.prod < gap v → ∃ t, exec (.queueHeadWrite f q v) s = .next t ∧
      queueAt t f q = { x with badHead := true } ∧ (∀ g k, (g, k) ≠ (f, q) → queueAt t g k = queueAt s g k) ∧
      SameWork s t ∧ t.keeper = s.keeper ∧ t.host = s.host) ∧
    (x.bound = false → exec (.queueHeadWrite f q v) s = .next s)

/-- INT_STATUS_CLEAR (R403): a vector raised in the same gc stays set; of the others a 1 clears the bit. No queue's
registers or staged records and no ring change, so the records a cleared bit announced stay. -/
def Obligations.InterruptNotHidden : Prop :=
  ∀ (s : State) (f : Nat) (value raised : BitVec 64), s.Inv → f < 44 → barReaches s f = true →
    ∃ t, exec (.intStatusClear f value raised) s = .next t ∧
      (∀ v, v < 64 → (funcAt t f).intStatus.getLsbD v =
        (raised.getLsbD v || ((funcAt s f).intStatus.getLsbD v && !value.getLsbD v))) ∧
      (∀ g, g ≠ f → funcAt t g = funcAt s g) ∧ (∀ g q, queueAt t g q = queueAt s g q) ∧ SameWork s t ∧
      t.keeper = s.keeper ∧ t.host = s.host

/-- A seal written in a mailbox by REGISTER_WRITE (R377), while the Keeper examines mailboxes: while a request awaits its
response, or with a SEQ that is not the next, it is ignored and counted as lost; with a right SEQ and a header that
disagrees it is accepted and answered BAD_HEADER; else the request is accepted as the slot's bytes spell it, and
numbered in the order of acceptance (R390). A write of the slot's body changes no accepted request. -/
def Obligations.SealsTaken : Prop :=
  ∀ (s : State) (m : Mbox) (sw : Nat), s.Inv → m.ok = true → barReaches s m.func = true → keeperExamines s = true →
    sw < 2 ^ 64 →
    let x := mboxAt s m
    let write : Instr := .registerWrite m.func (0x2000 * m.box + 0xFF8) (natLE 8 sw)
    let next := bits sw 31 0 = (x.lastSeq + 1) % 2 ^ 32
    ((x.req.isSome = true ∨ ¬ next) → ∃ t, exec write s = .next t ∧ mboxAt t m = { x with reqSeal := sw } ∧
      (funcAt t m.func).lostSeals = (funcAt s m.func).lostSeals + 1 ∧ SameWork s t ∧ t.keeper = s.keeper) ∧
    (x.req = none → next → (requestOf x sw).ok = false → ∃ t, exec write s = .next t ∧
      Answered t m (requestOf x sw) 0x10 [] 0 ∧ (mboxAt t m).lastSeq = bits sw 31 0 ∧ SameWork s t ∧
      t.keeper = { s.keeper with serial := s.keeper.serial + 1 }) ∧
    (x.req = none → next → (requestOf x sw).ok = true → (cmdInfo (requestOf x sw).opcode).isSome = true →
      ∃ t, exec write s = .next t ∧ (mboxAt t m).req = some { requestOf x sw with serial := s.keeper.serial } ∧ (mboxAt t m).lastSeq = bits sw 31 0 ∧
        SameWork s t ∧ t.keeper = { s.keeper with serial := s.keeper.serial + 1 }) ∧
    (∀ off bs, off + bs.length ≤ 0xFF8 →
      ∃ t, exec (.registerWrite m.func (0x2000 * m.box + off) bs) s = .next t ∧
        mboxAt t m = { x with reqBody := setBytes x.reqBody off bs } ∧ SameWork s t ∧ t.keeper = s.keeper)

/-- MODERATION_TIMER (R385): when MOD_TIME has passed and records stand unannounced, the queue's vector is raised and they
count as announced; with none it does nothing. No other queue changes. -/
def Obligations.ModerationTimer : Prop :=
  ∀ (s : State) (f q : Nat), s.Inv → f < 44 → q < 16 →
    ((queueAt s f q).bound = true → 0 < (queueAt s f q).unannounced → (queueAt s f q).vector < 64 →
      ∃ t, exec (.moderationTimer f q) s = .next t ∧ queueAt t f q = { queueAt s f q with unannounced := 0 } ∧
        (funcAt t f).intStatus = (funcAt s f).intStatus ||| (1#64 <<< (queueAt s f q).vector) ∧
        (∀ g k, (g, k) ≠ (f, q) → queueAt t g k = queueAt s g k) ∧ SameWork s t ∧ t.keeper = s.keeper ∧ t.host = s.host) ∧
    ((queueAt s f q).unannounced = 0 → exec (.moderationTimer f q) s = .next s)

/-- The enables at the host side (R393, R397, R471): each clears or sets its bit in its function and nothing else;
clearing Bus Master Enable moves no staged record; setting it leaves no interrupt pending that the MSI-X table does not
mask; VF Enable makes functions 1 to 31 present; PERST_N's release ends the controller's reset. -/
def Obligations.HostEnables : Prop :=
  ∀ (s : State) (f : Nat), s.Inv → f < 32 →
    (∃ t, exec (.busMasterEnableClear f) s = .next t ∧ funcAt t f = { funcAt s f with bme := false } ∧
      (∀ g, g ≠ f → funcAt t g = funcAt s g) ∧ SameWork s t ∧ t.keeper = s.keeper ∧ t.host = s.host ∧ t.out = s.out) ∧
    (∃ t, exec (.memorySpaceEnableClear f) s = .next t ∧ funcAt t f = { funcAt s f with mse := false } ∧
      (∀ g, g ≠ f → funcAt t g = funcAt s g) ∧ SameWork s t ∧ t.keeper = s.keeper ∧ t.host = s.host ∧ t.out = s.out) ∧
    (∃ t, exec (.memorySpaceEnableSet f) s = .next t ∧ funcAt t f = { funcAt s f with mse := true } ∧
      (∀ g, g ≠ f → funcAt t g = funcAt s g) ∧ SameWork s t ∧ t.keeper = s.keeper ∧ t.host = s.host ∧ t.out = s.out) ∧
    (∃ t, exec (.busMasterEnableSet f) s = .next t ∧ (funcAt t f).bme = true ∧ (funcAt t f).mse = (funcAt s f).mse ∧
      (s.boot.perst = false → ∀ v, v < 64 → (funcAt t f).pba.getLsbD v = true → vectorMasked (funcAt t f) v = true) ∧
      Outward s t) ∧
    (∃ t, exec .vfEnableSet s = .next t ∧
      (∀ g, funcAt t g = if 1 ≤ g ∧ g < 32 then { funcAt s g with present := true } else funcAt s g) ∧
      SameWork s t ∧ t.keeper = s.keeper ∧ t.host = s.host ∧ t.out = s.out) ∧
    (∃ t, exec .perstNRelease s = .next t ∧ t = { s with boot := { s.boot with perst := false } })

/-- A completion record (R190 to R193): it joins its queue's order, and the tag is reported. Where the ring has no slot
free it waits in staging; where a slot is free and the ring lies in a host window of a function that may master the bus,
it is written there with the PHASE of the count, and PROD advances. -/
def Obligations.CompletionRecords : Prop :=
  ∀ (s w : State) (f q : Nat) (tag : Option Nat) (rec : Nat), s.Inv → f < 44 → q < 16 →
    completionBound s f q = true →
    let x := queueAt s f q
    (ringRoom x = false →
      queueAt (postRecord s f q tag rec) f q = { x with staged := x.staged ++ [BitVec.ofNat 256 rec] } ∧
      (funcAt (postRecord s f q tag rec) f).reported = (tag :: (funcAt s f).reported).take 65536) ∧
    (ringRoom x = true → x.staged = [] → x.lost = 0 → 7 * 2 ^ 61 ≤ x.base → rec < 2 ^ 256 →
      keeperWrite s f (x.base + 32 * (x.prod % 2 ^ x.log2n)) (natLE 32 (withPhase rec x.log2n x.prod)) = .ok w →
      (queueAt (postRecord s f q tag rec) f q).prod = (x.prod + 1) % 2 ^ 32 ∧
      (queueAt (postRecord s f q tag rec) f q).staged = [] ∧ (postRecord s f q tag rec).host = w.host ∧
      (funcAt (postRecord s f q tag rec) f).reported = (tag :: (funcAt s f).reported).take 65536)

/-! ### Aborts and resets from the host -/

/-- ABORT and DEADLINE_EXPIRY (R190, R372, R380, R392). A command named by a function other than the PF under another
function's number is refused with PRIVILEGE; a tag reported already is answered ALREADY_COMPLETE, an unknown one
UNKNOWN_TAG, and nothing changes. A transfer that still waits for its bytes ends with ABORTED, or at its deadline with
TIMED_OUT, in one record, and is no longer outstanding; an aborted copy's program is discarded from its system channel (R171, R189). FORWARD_TIMEOUT answers the waiting request with FAULT. -/
def Obligations.AbortsAndDeadlines : Prop :=
  (∀ (m : Mbox) (r : Request) (s : State), m.ok = true → s.Inv → Asked s m 0x0007 r →
    (∀ tag f, f ≠ m.func → m.func ≠ 0 → ∃ t, exec (.abort m tag (some f)) s = .next t ∧ Answered t m r 0x13 [] 0 ∧
      SameWork s t ∧ t.keeper = s.keeper) ∧
    (∀ tag, opAt s m.func tag = none → some tag ∈ (funcAt s m.func).reported →
      ∃ t, exec (.abort m tag none) s = .next t ∧ Answered t m r 0x02 [] 0 ∧ SameWork s t ∧ t.keeper = s.keeper) ∧
    (∀ tag, opAt s m.func tag = none → some tag ∉ (funcAt s m.func).reported →
      ∃ t, exec (.abort m tag none) s = .next t ∧ Answered t m r 0x04 [] 0 ∧ SameWork s t ∧ t.keeper = s.keeper) ∧
    (∀ tag o d n, opAt s m.func tag = some o → o.kind = .tensorRead d n →
      ∃ t, exec (.abort m tag none) s = .next t ∧ Answered t m r 0x03 [] 0 ∧ opAt t m.func tag = none ∧
        SameUnits s t ∧ LogGrows s.flash t.flash) ∧
    (∀ tag o n k a, opAt s m.func tag = some o → o.kind = .copy n k a → n < 16 →
      (∀ q ∈ s.keeper.ops, (∃ k' a', q.kind = .copy n k' a') → q = o) →
      ∃ t, exec (.abort m tag none) s = .next t ∧ Answered t m r 0x03 [] 0 ∧ opAt t m.func tag = none ∧
        ((chanAt s (.system n)).signalling = false → (chanAt t (.system n)).queue = []) ∧
        (∀ j, j ≠ n → chanAt t (.system j) = chanAt s (.system j)) ∧ t.lanterns = s.lanterns ∧ t.moorings = s.moorings ∧ LogGrows s.flash t.flash)) ∧
  (∀ (s : State) (f tag : Nat) (o : LongOp) (d n : Nat), s.Inv → f < 44 → opAt s f tag = some o →
    o.kind = .tensorRead d n → o.deadline ≠ 0 →
    exec (.deadlineExpiry f tag) s = .next (postRecord (dropOp s f tag) f o.cq (some tag)
      (completionNat tag o.opcode 0x05 0 o.mooring 0 (mooringDaymark s (o.opened.getD o.mooring)) 0))) ∧
  (∀ (s : State) (f tag : Nat) (o : LongOp), opAt s f tag = some o → o.deadline = 0 →
    exec (.deadlineExpiry f tag) s = .next s) ∧
  (∀ (s : State) (m : Mbox) (r : Request) (tag : Nat), s.Inv → m.ok = true →
    s.keeper.forwards.find? (fun q => q.1.func == m.func && q.2 == tag) = some (m, tag) → (mboxAt s m).req = some r →
    opAt s m.func tag = none → ∃ t, exec (.forwardTimeout m.func tag) s = .next t ∧ Answered t m r 0x35 [] 0 ∧ SameWork s t ∧
      t.keeper = { s.keeper with forwards := s.keeper.forwards.erase (m, tag) })

/-- PERST_N, PF_FLR and VF_FLR (R379, R398, R401, R455, R463, R471), with no long command outstanding of a function
concerned: mailboxes, queues, interrupt state and attestation log of every function concerned are as at reset, its host
windows are closed; PERST_N clears also the enables (PRESUMED, the PCIe format's; notes/assumptions/26.md) and holds the
controller in reset; PF_FLR clears VF Enable. No other function, and none of the Keeper, the router, the links or
compute, is reset. -/
def Obligations.FunctionLevelResets : Prop :=
  ∀ s : State, s.Inv →
    let fresh (x : Func) : Prop := x.mbox = List.replicate 4 Mailbox.reset ∧ x.queues = List.replicate 16 Queue.reset ∧
      x.intStatus = 0 ∧ x.pba = 0 ∧ x.attLog = [] ∧ x.attHead = 0
    ((∀ o ∈ s.keeper.ops, 32 ≤ o.func) →
      (∃ t, exec .perstN s = .next t ∧
        (∀ f, f < 32 → fresh (funcAt t f) ∧ (funcAt t f).bme = false ∧ (funcAt t f).mse = false ∧ (funcAt t f).present = false) ∧
        (∀ f, 32 ≤ f → funcAt t f = funcAt s f) ∧
        t.keeper = { s.keeper with
          hwins := s.keeper.hwins.filter (fun h => decide (32 ≤ h.owner))
          forwards := s.keeper.forwards.filter (fun q => decide (32 ≤ q.1.func)) } ∧
        t.boot = { s.boot with perst := true } ∧ t.mem = s.mem ∧ t.lanterns = s.lanterns ∧ t.moorings = s.moorings ∧
        t.router = s.router ∧ t.time = s.time ∧ t.power = s.power ∧ t.flash = s.flash ∧ t.host = s.host) ∧
      (∃ t, exec .pfFlr s = .next t ∧
        (∀ f, f < 32 → fresh (funcAt t f) ∧ (funcAt t f).bme = (funcAt s f).bme ∧ (funcAt t f).mse = (funcAt s f).mse) ∧
        (∀ f, 1 ≤ f → f < 32 → (funcAt t f).present = false) ∧ (∀ f, 32 ≤ f → funcAt t f = funcAt s f) ∧
        t.keeper = { s.keeper with
          hwins := s.keeper.hwins.filter (fun h => decide (32 ≤ h.owner))
          forwards := s.keeper.forwards.filter (fun q => decide (32 ≤ q.1.func)) } ∧
        SameWork s t ∧ t.host = s.host)) ∧
    (∀ vf, 1 ≤ vf → vf < 32 → (∀ o ∈ s.keeper.ops, o.func ≠ vf) →
      ∃ t, exec (.vfFlr [vf] false) s = .next t ∧ fresh (funcAt t vf) ∧ (funcAt t vf).present = (funcAt s vf).present ∧
        (∀ f, f ≠ vf → funcAt t f = funcAt s f) ∧
        t.keeper = { s.keeper with
          hwins := s.keeper.hwins.filter (fun h => h.owner != vf)
          forwards := s.keeper.forwards.filter (fun q => q.1.func != vf) } ∧
        SameWork s t ∧ t.host = s.host)


/-! ### Power, heat and the reference -/

/-- Input, rails and trips (R408, R410, R423, R463). The input stage starts when PWR_EN is high, no trip holds it off and the
input lies between 40 V and 62 V. Between 40 V and 60 V only the levels follow the input; between 38 V and 40 V every
lantern is at level 3 or higher and a power event is logged; from 34 V to 38 V, and above 62 V to 70 V, the module powers
down after the event; below 34 V it is off at once, flash as it was. PWR_EN low powers down. A tower rail or an LPDDR5X
rail brings router-only mode from early or full light, any other rail a power-down. The hardware trip holds the module off,
MOD_ALERT_N low. (At the bounds themselves the model takes the service band: notes/assumptions/27.md.) -/
def Obligations.InputAndRails : Prop :=
  ∀ s : State, s.Inv →
    let noted (t : State) (code : Nat) : Prop := ∃ e : Event, e.code = code ∧ LogGrows (logged s e).flash t.flash
    (s.power.pwrEn = true → s.power.tripped = false → s.power.inputOn = false → 40000 ≤ s.power.vin → s.power.vin ≤ 62000 →
      exec .inputStageStart s = .next { s with power := raiseRails firstRails { s.power with inputOn := true } }) ∧
    -- the rails rise in order, as far as one that has faulted (R409)
    (∀ p : Power, p.rails = [] → p.faulted = [] → (raiseRails firstRails p).rails =
      [.vstby, .vpll, .vio, .vser, .vnand, .vnandq, .vdd1, .vdd2h, .vdd2l, .vddq, .vcmp 0, .vsrm 0]) ∧
    (∀ p : Power, ∀ r ∈ p.faulted, r ∈ (raiseRails firstRails p).rails → r ∈ p.rails) ∧
    (∀ mv, mv ≤ 70000 → s.power.inputOn = false → exec (.inputVoltageChange mv) s =
      .next { s with power := { s.power with vin := mv, tripped := s.power.tripped && decide (34000 ≤ mv) } }) ∧
    (∀ mv, s.power.inputOn = true → 40000 ≤ mv → mv ≤ 60000 → ∃ t, exec (.inputVoltageChange mv) s = .next t ∧
      t.power.vin = mv ∧ t.flash = s.flash ∧ t.mem = s.mem ∧ t.moorings = s.moorings ∧ t.keeper = s.keeper ∧
      t.boot = s.boot ∧ t.funcs = s.funcs ∧ ∀ l, l < 192 → lanternAt t l = { lanternAt s l with level := levelOf t (l / 48) }) ∧
    (∀ mv, s.power.inputOn = true → 38000 ≤ mv → mv < 40000 → ∃ t, exec (.inputVoltageChange mv) s = .next t ∧
      t.power.vin = mv ∧ noted t 0x0040 ∧ t.moorings = s.moorings ∧ t.boot = s.boot ∧
      ∀ l, l < 192 → lanternAt t l = { lanternAt s l with level := levelOf t (l / 48) } ∧ 3 ≤ levelOf t (l / 48)) ∧
    (∀ mv, s.power.inputOn = true → 60000 < mv → mv ≤ 62000 → ∃ t, exec (.inputVoltageChange mv) s = .next t ∧
      t.power.vin = mv ∧ noted t 0x0040 ∧ t.moorings = s.moorings ∧ t.boot = s.boot) ∧
    (∀ mv, s.power.inputOn = true → (34000 ≤ mv ∧ mv < 38000 ∨ 62000 < mv ∧ mv ≤ 70000) →
      ∃ t, exec (.inputVoltageChange mv) s = .next t ∧ PowerLost t ∧ t.power.vin = mv ∧ noted t 0x0040) ∧
    (∀ mv, s.power.inputOn = true → mv < 34000 →
      ∃ t, exec (.inputVoltageChange mv) s = .next t ∧ PowerLost t ∧ t.power.vin = mv ∧ t.flash = s.flash ∧ t.host = s.host) ∧
    (exec (.pwrEn true) s = .next { s with power := { s.power with pwrEn := true } }) ∧
    (s.power.inputOn = true →
      ∃ t, exec (.pwrEn false) s = .next t ∧ PowerLost t ∧ t.power.pwrEn = false ∧ noted t 0x0040) ∧
    (∀ k, k < 4 → s.power.inputOn = true → (s.boot.state = 1 ∨ s.boot.state = 2) →
      (∃ t, exec (.railFault (.vcmp k)) s = .next t ∧ RouterOnly t ∧ t.moorings = s.moorings ∧ .vcmp k ∈ t.power.faulted) ∧
      (∃ t, exec (.railFault (.vsrm k)) s = .next t ∧ RouterOnly t ∧ t.moorings = s.moorings ∧ .vsrm k ∈ t.power.faulted) ∧
      ∀ r ∈ [Rail.vdd1, .vdd2h, .vdd2l, .vddq],
        ∃ t, exec (.railFault r) s = .next t ∧ RouterOnly t ∧ t.moorings = s.moorings ∧ r ∈ t.power.faulted) ∧
    (∀ r ∈ [Rail.vstby, .vpll, .vio, .vser, .vnand, .vnandq], s.power.inputOn = true →
      ∃ t, exec (.railFault r) s = .next t ∧ PowerLost t) ∧
    (∃ t, exec .hardwareThermalTrip s = .next t ∧ PowerLost t ∧ t.power.tripped = true ∧ t.boot.alert = true ∧
      t.flash = s.flash)

/-- The governor and the brake (R414, R421, R422, R425). Levels follow their causes; the credit falls by what the power
exceeds CAP, rises by what it lies below CAP − 100 W, in mJ each 1 ms, and stays between 0 and 20 kJ; the limit is
PEAK_CAP from 100 J of credit on and CAP below; the sector that steps up is one whose draw exceeds its share, and by the
most; the step goes by one and no level passes 5. The brake puts every lantern at level B, ends every fill and disengages
the ballast; without it the ballast of the towers holds the fall of the input current to the slew limit, at most 450 W each, in
even shares (log 24); the current rises by the slew limit at most, and stays within 52 A. -/
def Obligations.GovernorAndBrake : Prop :=
  (∀ (s : State) (watts : Nat) (draws : List Nat), s.Inv → s.power.plevel.length = 4 → s.power.belowMs.length = 4 →
    s.power.credit ≤ 20000000 →
    ∃ t, exec (.governorTick watts draws) s = .next t ∧ t.power.pin = watts ∧ t.power.psect = draws ∧
      t.power.energy = s.power.energy + watts ∧ t.power.credit ≤ 20000000 ∧
      (s.power.cap < watts → t.power.credit = s.power.credit - (watts - s.power.cap)) ∧
      (watts + 100 < s.power.cap → t.power.credit = min 20000000 (s.power.credit + (s.power.cap - 100 - watts))) ∧
      (watts ≤ s.power.cap → s.power.cap ≤ watts + 100 → t.power.credit = s.power.credit) ∧
      (let lim := (if 100000 ≤ t.power.credit then s.power.peakCap else s.power.cap);
        (∀ k, k < 4 → t.power.plevel.getD k 0 ≤ max 5 (s.power.plevel.getD k 0)) ∧
        (lim < watts → ∀ k, k < 4 → s.power.plevel.getD k 0 ≤ 4 →
          t.power.plevel.getD k 0 = s.power.plevel.getD k 0 + (if worstSector s draws = some k then 1 else 0)) ∧
        (100 * watts ≥ 92 * lim → ∀ k, k < 4 → t.power.belowMs.getD k 0 = 0) ∧
        (100 * watts < 92 * lim → watts ≤ lim → ∀ k, k < 4 → s.power.belowMs.getD k 0 + 1 < 100 →
          t.power.plevel.getD k 0 = s.power.plevel.getD k 0 ∧ t.power.belowMs.getD k 0 = s.power.belowMs.getD k 0 + 1) ∧
        (100 * watts < 92 * lim → watts ≤ lim → ∀ k, k < 4 → 100 ≤ s.power.belowMs.getD k 0 + 1 →
          (2 ≤ s.power.plevel.getD k 0 ∨ s.power.plevel.getD k 0 = 1 ∧ 2000000 ≤ t.power.credit) →
          t.power.plevel.getD k 0 = s.power.plevel.getD k 0 - 1)) ∧
      (∀ l, l < 192 → lanternAt t l = { lanternAt s l with level := levelOf t (l / 48) }) ∧
      t.moorings = s.moorings ∧ t.boot = s.boot) ∧
  (∀ (s : State) (draws : List Nat) (k : Nat), worstSector s draws = some k → k < s.keeper.split ∧
    powerShare s k < draws.getD k 0 ∧
    ∀ j, j < s.keeper.split → draws.getD j 0 - powerShare s j ≤ draws.getD k 0 - powerShare s k) ∧
  (∀ (s : State) (k : Nat), s.power.brake = true → levelOf s k = 7) ∧
  (∀ (s : State) (k : Nat), s.power.brake = false →
    levelOf s k = max (max (s.power.tlevel.getD k 0) (if s.power.ioHot then 3 else 0))
      (max (s.power.plevel.getD (k * s.keeper.split / 4) 0) (if 38000 ≤ s.power.vin ∧ s.power.vin < 40000 then 3 else 0))) ∧
  (∀ s : State, s.Inv → s.power.brake = false → ∃ t, exec .pwrBrakeAssert s = .next t ∧
    t.power.brake = true ∧ t.power.brakes = s.power.brakes + 1 ∧ t.power.ballast = [0, 0, 0, 0] ∧ t.power.ballastFor = [0, 0, 0, 0] ∧ t.power.plevel = s.power.plevel ∧
    (∀ l, l < 192 → lanternAt t l = { lanternAt s l with level := 7, filling := false }) ∧
    t.moorings = s.moorings ∧ t.boot = s.boot) ∧
  (∀ s : State, s.Inv → s.power.brake = true → ∃ t, exec .pwrBrakeRelease s = .next t ∧
    t.power.brake = false ∧ t.power.brakes = s.power.brakes ∧ t.power.plevel = s.power.plevel ∧
    (∀ l, l < 192 → lanternAt t l = { lanternAt s l with level := levelOf t (l / 48) }) ∧
    t.moorings = s.moorings ∧ t.boot = s.boot) ∧
  (∀ (s : State) (ma : Nat), s.power.ballastFor.length = 4 →
    let most := s.power.iin + s.power.slew * 5 / 2
    let held := if s.power.brake = true then ma else max ma (s.power.iin - s.power.slew * 5 / 2)
    let i := min 52000 (min held most)
    let watts := (i - ma) * s.power.vin / 1000000
    ∃ t, exec (.ballastSample ma) s = .next t ∧ t = { s with power := { s.power with
        iin := i
        ballast := t.power.ballast
        ballastFor := t.power.ballastFor } } ∧
      ∀ k, k < 4 → t.power.ballast.getD k 0 = min 450 ((watts + 3 - k) / 4) ∧
        t.power.ballastFor.getD k 0 = (if t.power.ballast.getD k 0 = 0 then 0 else s.power.ballastFor.getD k 0 + 1)) ∧
  (∀ (s : State) (l : Nat), (lanternAt s l).filling = true → ∃ t, exec (.fillHoldExpiry l) s = .next t ∧
    (∀ k, lanternAt t k = { lanternAt s k with filling := false }) ∧ t = { s with lanterns := t.lanterns })

/-- Heat and the reference (R423, R429). A tower at 104 °C or more for 100 samples steps up, at most to 5; at 105 °C or
more its level is at once at least 3; below 100 °C for 1000 samples it steps down; at 110 °C for ten samples the module
enters router-only mode. An I/O die at 105 °C or more puts every tower at level 3 or higher. Loss and return of the reference
are kept and logged; a stream outside 300 ppm is still lost. -/
def Obligations.HeatAndReference : Prop :=
  (∀ (tj : Int) (level hot cool : Nat), level ≤ 5 →
    let r := (towerHeat tj level hot cool).1
    r ≤ 5 ∧ (1050 ≤ tj → 3 ≤ r) ∧ (1040 ≤ tj → tj < 1050 → hot + 1 < 100 → r = level) ∧
    (1040 ≤ tj → tj < 1050 → 100 ≤ hot + 1 → r = min 5 (level + 1)) ∧
    (tj < 1000 → cool + 1 < 1000 → r = level) ∧ (tj < 1000 → 1000 ≤ cool + 1 → r = level - 1) ∧
    (1000 ≤ tj → tj < 1040 → r = level ∧ (towerHeat tj level hot cool).2 = (0, 0))) ∧
  (∀ (s : State) (x : Temps), s.Inv → (∀ k, k < 4 → x.towers.getD k 0 < 1100) → x.io.foldl max 0 < 1100 →
    s.power.tlevel.length = 4 →
    ∃ t, exec (.thermalSample x) s = .next t ∧ t.power.temps = x ∧ t.power.ioHot = decide (1050 ≤ x.io.foldl max 0) ∧
      (∀ k, k < 4 → t.power.tlevel.getD k 0 = (towerHeat (x.towers.getD k 0) (s.power.tlevel.getD k 0)
        (s.power.hotFor.getD k 0) (s.power.coolFor.getD k 0)).1) ∧
      (∀ l, l < 192 → lanternAt t l = { lanternAt s l with level := levelOf t (l / 48) } ∧
        (s.power.brake = false → 1050 ≤ x.io.foldl max 0 → 3 ≤ (lanternAt t l).level)) ∧
      t.moorings = s.moorings ∧ t.boot = s.boot) ∧
  (∀ (s : State) (x : Temps), s.Inv → x.io.foldl max 0 < 1100 → (∀ k, k < 3 → x.towers.getD k 0 < 1100) →
    1100 ≤ x.towers.getD 3 0 → s.power.tripFor.getD 3 0 = 9 → (s.boot.state = 1 ∨ s.boot.state = 2) →
    ∃ t, exec (.thermalSample x) s = .next t ∧ t.boot.state = 3 ∧ t.boot.alert = true ∧ t.moorings = s.moorings) ∧
  (∀ s : State, s.power.refLost = false → ∃ t, exec .referenceLost s = .next t ∧
    Outward { s with power := { s.power with refLost := true }, flash := t.flash } t ∧ ∃ e : Event, e.code = 0x0040 ∧
    LogGrows (logged s e).flash t.flash) ∧
  (∀ (s : State) (ppm : Nat), s.power.refLost = true → ppm ≤ 300 → ∃ t, exec (.referenceRestored ppm) s = .next t ∧
    Outward { s with power := { s.power with refLost := false }, flash := t.flash } t ∧ ∃ e : Event, e.code = 0x0040 ∧
    LogGrows (logged s e).flash t.flash) ∧
  (∀ (s : State) (ppm : Nat), 300 < ppm → exec (.referenceRestored ppm) s = .next s)

/-! ### Time -/

/-- Module time (R283, R284, R468). A pulse is heeded by the root that the module itself is: the fourth valid one in a row,
and each valid one while steering lasts, sets what the servo has to slew to the nearest whole second; an invalid one starts
the count again, and 2 s without a valid one end the steering. The servo moves module time on by 1 us within 200 ppm, so
never backward, and in holdover module time runs free; held lanterns, waiting channels, and lenses that fill or are frozen by their duty count the time (log 14, log 24). A module that follows a root chooses again after holdover: it is the root itself with DIST 0, or follows
through the port that reports it, or is left at DIST 255. Without a name the root chosen is the lowest that the module and
its ports know. TIME_ROOT keeps the name. -/
def Obligations.ModuleTime : Prop :=
  (∀ (s : State) (iv w : Nat), (s.time.root ≠ selfNode s ∨ s.time.holdover = true) → exec (.ppsPulse iv w) s = .next s) ∧
  (∀ (s : State) (iv w : Nat), s.time.root = selfNode s → s.time.holdover = false →
    ((999990000 ≤ iv ∧ iv ≤ 1000010000 ∧ 1000 ≤ w ∧ w ≤ 500000000) →
      ∃ a : Int, exec (.ppsPulse iv w) s = .next { s with time := { s.time with
          pulses := s.time.pulses + 1
          steering := s.time.steering || decide (4 ≤ s.time.pulses + 1)
          adjust := a } } ∧
        (s.time.steering = false → s.time.pulses < 3 → a = s.time.adjust) ∧
        ((s.time.steering = true ∨ 3 ≤ s.time.pulses) →
          ((s.time.now : Int) + a) % 65536000000000 = 0 ∧ -32768000000000 ≤ a ∧ a ≤ 32768000000000)) ∧
    ((iv < 999990000 ∨ 1000010000 < iv ∨ w < 1000 ∨ 500000000 < w) →
      exec (.ppsPulse iv w) s = .next { s with time := { s.time with pulses := 0 } })) ∧
  (∀ s : State, exec .ppsTimeout s = .next { s with time := { s.time with pulses := 0, steering := false, adjust := 0 } }) ∧
  (∀ s : State, ∃ (t : State) (c : Int), exec .timeServoTick s = .next t ∧ -13107 ≤ c ∧ c ≤ 13107 ∧
    (t.time.now : Int) = s.time.now + 65536000 + c ∧ s.time.now < t.time.now ∧ t.time.root = s.time.root ∧
    (let free := s.time.freeUs + (if s.time.holdover = true then 1 else 0)
    -- gallery clocks in the microsecond (R427), and lens steps (R16)
    let gc := if s.power.fullClk = true then 1200 else 600
    let steps (x : Lantern) : Nat := if x.fastClk = true then gc else gc / 2
    (∀ l, let x := lanternAt s l
      lanternAt t l = { x with
        stall := x.stall + (if (x.holding || x.updHold) = true then gc else 0)
        fillSteps := x.fillSteps + (if x.filling = true then steps x else 0)
        throttle := x.throttle + (if lensAtWork x = true then steps x * frozenOf32 x.level x.fastClk / 32 else 0)
        dma := (lanternAt t l).dma }) ∧
    (∀ h, let x := chanAt s h
      chanAt t h = { x with counters := if x.waiting = true then bump x.counters 13 gc else x.counters }) ∧
    (s.time.parent = none → t = { s with
        time := { s.time with now := t.time.now, adjust := s.time.adjust - c, freeUs := free }
        router := t.router
        lanterns := t.lanterns
        sysChans := t.sysChans } ∧
      c = (if s.time.root = selfNode s ∧ s.time.holdover = false then max (-13107) (min 13107 s.time.adjust) else 0) ∧ ∀ k, portAt t k = { portAt s k with stall := (portAt t k).stall }) ∧
    (∀ p, s.time.parent = some p → t.time = { s.time with now := t.time.now, locked := true, freeUs := free } ∧
      c = max (-13107) (min 13107 (meanInt (portAt s p).offsets)) ∧
      ∀ k, k ≠ p → portAt t k = { portAt s k with stall := (portAt t k).stall }))) ∧
  (∀ s : State, s.time.holdover = true → s.time.raised = false → ∃ t, exec .holdoverTimeout s = .next t ∧
    t.time = { s.time with raised := true } ∧ ∃ e : Event, e.code = evTime ∧ LogGrows (logged s e).flash t.flash) ∧
  (∀ s : State, s.time.holdover = true → ∃ t, exec .rootReselect s = .next t ∧ t.time.root = chooseRoot s ∧
    t.time.now = s.time.now ∧
    (chooseRoot s = selfNode s → t = { s with time := { s.time with
      root := selfNode s
      parent := none
      dist := 0
      holdover := false
      raised := false } }) ∧
    (∀ d p, chooseRoot s ≠ selfNode s → bestParent (reporters s (chooseRoot s)) = some (d, p) →
      t.time.parent = some p ∧ t.time.dist = min 254 (d + 1) ∧ t.time.holdover = false)) ∧
  (∀ s : State, s.time.named = none → chooseRoot s ≤ selfNode s ∧
    ∀ p, p < 8 → (portAt s p).up = true → (portAt s p).dist < 255 → chooseRoot s ≤ (portAt s p).root) ∧
  (∀ (m : Mbox) (r : Request) (s : State) (n : Nat), m.ok = true → s.Inv → Asked s m 0x0064 r →
    ((allNodes s).contains n = true → ∃ t, exec (.timeRoot m (some n)) s = .next t ∧ Answered t m r 0 [] 0 ∧
      t.time.named = some n ∧ t.time.now = s.time.now ∧ t.lanterns = s.lanterns ∧
      t.moorings = s.moorings ∧ t.power = s.power ∧ t.boot = s.boot) ∧
    ((allNodes s).contains n = false → ∃ t, exec (.timeRoot m (some n)) s = .next t ∧ Answered t m r 0x12 [] 0 ∧
      SameWork s t ∧ t.keeper = s.keeper) ∧
    (∃ t, exec (.timeRoot m none) s = .next t ∧ Answered t m r 0 [] 0 ∧ t.time.named = none))

/-! ### Bring-up and the Keeper's own upkeep -/

/-- Bring-up to early light (R433, R434, R438, R440, R443). At power-good, and at a retry after a PLL that did not lock, the
stages run as far as they get: code 0x0001 with no lock, 0x0002 and a halt with no identity, 0x0003 and a halt with no
factory part that verifies; else the ACTIVE slot, where it verifies and no trial is pending, is started and stage 0x06 is
reached, with code 0x0005 where tower 0 fails outside its lanterns; the logical lanterns take the enabled positions in order,
and an index that a retirement left unfilled stays so (R9, R11). With early light STATE reads 1 and tower 0's SRAM is
clear; it is skipped after code 0x0005 and by a module set for router-only mode (log 25). -/
def Obligations.BringUpToEarlyLight : Prop :=
  (∀ (s : State) (b : BringUp) (c : Instr),
    (c = .powerGood b ∧ s.power.inputOn = true ∧ (∀ r ∈ firstRails, r ∈ s.power.rails) ∧ s.power.powerGood = false) ∨
    (c = .bringupRetry b ∧ s.power.powerGood = true ∧ s.boot.fail = 1 ∧ s.boot.stage = 0) →
    (b.pllLocks = false → ∃ t, exec c s = .next t ∧ t.boot.fail = 1 ∧ t.boot.stage = s.boot.stage ∧ t.boot.state = s.boot.state ∧
      t.power.powerGood = true ∧ t.flash = s.flash ∧ t.mem = s.mem ∧ t.lanterns = s.lanterns) ∧
    (b.pllLocks = true → b.pufOk = false → ∃ t, exec c s = .next t ∧ t.boot.fail = 2 ∧ t.boot.halted = true ∧
      t.boot.stage = 1 ∧ t.boot.state = s.boot.state ∧ t.power.powerGood = true) ∧
    (b.pllLocks = true → b.pufOk = true → s.flash.rec0.factoryOk = false → s.flash.rec1.factoryOk = false →
      ∃ t, exec c s = .next t ∧ t.boot.fail = 3 ∧ t.boot.halted = true ∧ t.boot.stage = 2 ∧ t.boot.identity = true ∧
        t.boot.state = s.boot.state) ∧
    (∀ i : FwImage, b.pllLocks = true → b.pufOk = true → s.flash.rec0.factoryOk = true → s.flash.rec0.fieldOk = true →
      s.flash.rec1.gen ≤ s.flash.rec0.gen → s.flash.rec0.pending = none → s.flash.rec0.active = 0 →
      s.flash.slotA = some i → i.sigOk = true → s.flash.rec0.svnFloor ≤ i.svn →
      ∃ t, exec c s = .next t ∧ t.boot.stage = 6 ∧ t.boot.state = s.boot.state ∧ t.boot.keeperUp = true ∧
        t.boot.fwSlot = 0 ∧ t.boot.fwVersion = i.version ∧ t.boot.trial = false ∧ t.power.powerGood = true ∧
        t.boot.fail = (if b.tower0.fabric then 5 else 0) ∧
        (b.tower0.failed = [] → ∀ l, l < s.lanterns.length →
          let gaps := (List.range (l % 48)).filter (fun i => s.flash.rec0.gaps.contains (l / 48 * 48 + i))
          (lanternAt t l).phys = if l ∈ s.flash.rec0.gaps then none
            else (enabledPositions s.flash.rec0 (l / 48))[l % 48 - gaps.length]?))) ∧
  (∀ s : State, s.power.powerGood = true → s.boot.keeperUp = true → s.boot.stage = 6 → s.boot.fail ≠ 5 →
    s.boot.routerAtFull = false → s.boot.halted = false → s.Inv →
    ∃ t, exec .earlyLight s = .next t ∧ t.boot.stage = 7 ∧ t.boot.state = 1 ∧ t.lanterns = s.lanterns ∧ t.flash = s.flash ∧
      (HostRings s → t.mem = tclear s.mem (localAddr 0x10 0) (localAddr 0x10 0xC0000000))) ∧
  (∀ s : State, s.boot.fail = 5 ∨ s.boot.routerAtFull = true → exec .earlyLight s = .next s)

/-- Full light (R436, R438, R355). With every test passed the module is at STATE 2, stage 0x17, rails at 0.80 V, the full
clock, LPDDR5X ready and links up for training. Where LPDDR5X, a tower, or tower 0 before it failed outside its lanterns,
or the module was set for it before early light, router-only mode is entered instead; a module already in it stays so. -/
def Obligations.FullLight : Prop :=
  ∀ (s : State) (f : FullInputs), s.Inv → s.power.powerGood = true → s.boot.keeperUp = true →
    (s.boot.stage = 7 ∨ s.boot.stage = 6 ∧ (s.boot.fail = 5 ∨ s.boot.routerAtFull = true)) →
    -- router-only mode entered in early light stays (R355)
    (s.boot.state = 3 → ∃ t, exec (.fullLight f) s = .next t ∧ t.boot.state = 3 ∧ t.boot.stage = 0x17) ∧ (s.boot.state ≠ 3 →
    (f.lpddrOk = true → (∀ x ∈ f.towers, x.fabric = false) → s.boot.routerAtFull = false →
      ∃ t, exec (.fullLight f) s = .next t ∧ t.boot.state = 2 ∧ t.boot.stage = 0x17 ∧ t.boot.lpddr = true ∧
        t.boot.links = true ∧ t.boot.keeperUp = true ∧ t.power.rails080 = true ∧ t.power.fullClk = true ∧
        t.boot.towers = s.boot.held.map (fun h => !h)) ∧
    ((f.lpddrOk = false ∨ s.boot.routerAtFull = true) →
      ∃ t, exec (.fullLight f) s = .next t ∧ RouterOnly t ∧ t.boot.stage = 0x17 ∧ t.power.fullClk = true ∧
        (f.lpddrOk = false → t.boot.fail = 6)))

/-- Watchdog, restart, trial and heartbeat (R356, R379, R404, R443). A missed watchdog stops the firmware; the restart starts
the ACTIVE slot where it verifies and no trial is pending, releases every mooring, stops every lantern and counts itself. A
trial that has run long enough at full light confirms itself: ACTIVE is its slot, none is pending, SVN_FLOOR is not below
its SVN. -/
def Obligations.KeeperUpkeep : Prop :=
  (∀ s : State, s.boot.keeperUp = true → exec .watchdogMiss s = .next { s with
    boot := { s.boot with keeperUp := false }
    keeper := { s.keeper with restartDue := true } }) ∧
  (∀ (s : State) (i : FwImage), s.Inv → s.keeper.restartDue = true → (configRec s).pending = none → (configRec s).active = 0 →
    s.flash.slotA = some i → i.sigOk = true → (configRec s).svnFloor ≤ i.svn → s.keeper.ops = [] →
    ∃ t, exec .keeperRestart s = .next t ∧ t.boot.keeperUp = true ∧ t.boot.fwSlot = 0 ∧ t.boot.fwVersion = i.version ∧
      t.boot.restarts = min (s.boot.restarts + 1) 0xFFFF ∧ t.keeper.restartDue = false ∧ t.moorings = [] ∧
      ∀ l, l < 192 → (lanternAt t l).running = false) ∧
  (∀ s : State, s.keeper.restartDue = true → (configRec s).pending = none → s.flash.slotA = none → s.flash.slotB = none →
    ∃ t, exec .keeperRestart s = .next t ∧ t.boot.fail = 4 ∧ t.boot.recovery = true ∧ t.boot.state = 0 ∧
      t.boot.keeperUp = false ∧ t.mem = s.mem ∧ t.lanterns = s.lanterns) ∧
  (∀ (s : State) (p : Nat), (configRec s).pending = some p → s.boot.trial = true → s.boot.keeperUp = true → s.boot.state = 2 →
    ∃ t, exec .trialFirmwareConfirm s = .next t ∧ (configRec t).active = p ∧ (configRec t).pending = none ∧
      (configRec t).gen = (configRec s).gen + 1 ∧ (configRec s).svnFloor ≤ (configRec t).svnFloor ∧
      (∀ i, slotImage s p = some i → (configRec t).svnFloor = max (configRec s).svnFloor i.svn) ∧
      t = { s with flash := t.flash, boot := { s.boot with trial := false } } ∧
      t.flash.objs = s.flash.objs ∧ t.flash.slotA = s.flash.slotA ∧ t.flash.slotB = s.flash.slotB) ∧
  (∀ s : State, s.boot.keeperUp = true → s.boot.state ≠ 0 → exec .heartbeatTick s = .next { s with
    boot := { s.boot with heartbeat := (s.boot.heartbeat + 1) % 2 ^ 32 } }) ∧
  (∀ s : State, s.boot.state = 0 → exec .heartbeatTick s = .next s)

/-- Flash (R145, R147, R148). The snapshot credit grows by 8 TiB up to 64 TiB. A block that fails to program or erase is
covered from the spare pool, and the user area is read-only once none covers it. The weekly scan rewrites a weak object and
marks one that a codeword fails as lost, with an event; its corrected errors are counted by die. After a long time unpowered
nothing is written there before the whole user area has been read. -/
def Obligations.FlashUpkeep : Prop :=
  (∀ s : State, s.boot.keeperUp = true → exec .snapshotCreditGrow s = .next { s with flash := { s.flash with
    credit := min (s.flash.credit + 8796093022208) 70368744177664
    grownAt := nowNs s } }) ∧
  (∀ (s : State) (op : FlashOp), exec (.flashProgramOrEraseDone op true) s = .next s) ∧
  (∀ (s : State) (op : FlashOp), s.boot.keeperUp = true → Config.flashBlock ≤ s.flash.spare →
    ∃ t, exec (.flashProgramOrEraseDone op false) s = .next t ∧ t.flash.spare = s.flash.spare - Config.flashBlock ∧
      t.flash.retiredBlocks = s.flash.retiredBlocks + 1 ∧ t.flash.readOnly = s.flash.readOnly ∧ t.flash.objs = s.flash.objs ∧ SameUnits s t ∧
      t.flash.degraded = (s.flash.degraded || decide (s.flash.spare - Config.flashBlock < 68719476736))) ∧
  (∀ (s : State) (op : FlashOp), s.boot.keeperUp = true → s.flash.spare < Config.flashBlock →
    exec (.flashProgramOrEraseDone op false) s = .next { s with flash := { s.flash with
      readOnly := true
      retiredBlocks := s.flash.retiredBlocks + 1 } }) ∧
  (∀ (s : State) (x : ScanItem) (o : FlashObj), s.boot.keeperUp = true → s.flash.objs.find? (fun q => q.name == x.name) = some o →
    x.lost = false → exec (.retentionScan ⟨[x], [], false⟩) s =
      .next { s with flash := { s.flash with
        rewrites := s.flash.rewrites + (if x.weak then 1 else 0)
        written := s.flash.written + (if x.weak then Config.flashBlock else 0) } }) ∧
  (∀ (s : State) (x : ScanItem) (o : FlashObj), s.boot.keeperUp = true → s.flash.objs.find? (fun q => q.name == x.name) = some o →
    x.lost = true → o.lost = false → ∃ (t : State) (e : Event), exec (.retentionScan ⟨[x], [], false⟩) s = .next t ∧ SameUnits s t ∧
      e.code = evObjectLost ∧ (∃ es, (∀ d ∈ es, d.code = 0x0050) ∧ t.flash.log = s.flash.log ++ e :: es) ∧
      t.flash.objs = s.flash.objs.map (fun q => if q.name = x.name then { q with lost := true } else q)) ∧
  (∀ (s : State) (die n : Nat), s.boot.keeperUp = true → exec (.retentionScan ⟨[], [(die, n)], false⟩) s = .next (bumpEcc s (.flash die) 0 n)) ∧
  (∀ (s : State) (name : BitVec 256) (f len : Nat), s.boot.keeperUp = true → s.flash.unread = true →
    (s.flash.readOnly = false → userWriteErr s name f len = some (0x15, 0)) ∧
    exec (.retentionScan ⟨[], [], true⟩) s = .next { s with flash := { s.flash with unread := false } })

/-- Scrubbed and corrected errors (R91, R142, R143, R348). An uncorrectable line of a scrubbed tier is poisoned, counted, and
reported when it is found, and its part's test begins; found again it is only counted; corrected errors are counted. An uncorrectable accumulator word
sets OVF in the tags of every entry that it can serve, the fault flag, and its lantern goes into a compute reset for the array's
test. A late scrub is counted. A burst of corrected errors is
counted by the burst's size, and the part's test begins; an accumulator array's or a gradient buffer's lantern goes into a compute reset for its test. -/
def Obligations.MemoryErrors : Prop :=
  -- t is u with the test of a part begun
  let began (t u : State) (p : Part) : Prop := p ∈ t.keeper.tests ∧ t = { u with keeper := { u.keeper with tests := t.keeper.tests } } ∧
    ∀ q ∈ t.keeper.tests, q ∈ u.keeper.tests ∨ q = p
  (∀ (s : State) (a n : Nat), (scrubbed s a = true → 0 < n → exec (.memoryScrub (.line a) (.corrected n)) s = .next (bumpEcc s (eccUnitOf a) 0 n)) ∧
    ((scrubbed s a = false ∨ n = 0) → exec (.memoryScrub (.line a) (.corrected n)) s = .next s)) ∧
  (∀ (s : State) (a : Nat), scrubbed s a = false → exec (.memoryScrub (.line a) .uncorrectable) s = .next s) ∧
  (∀ (s : State) (l w c n : Nat) (grad : Bool), (lanternAt s l).phys.isSome = true → w < 1024 → c < 128 → 0 < n →
    exec (.memoryScrub (.accWord l grad w c) (.corrected n)) s = .next (bumpEcc s (if grad then .grad l else .acc l) 0 n)) ∧
  (∀ (s : State) (l b : Nat), (lanternAt s l).phys.isSome = true → b < 32 → exec (.memoryScrub (.bank l b) .late) s = .next { s with
    keeper := { s.keeper with lateScrubs := s.keeper.lateScrubs + 1 } }) ∧
  (∀ (s : State) (l w c : Nat) (grad : Bool), s.Inv → l < 192 → (lanternAt s l).phys.isSome = true → w < 1024 → c < 128 →
    s.keeper.resetLog = [] → 2 ≤ s.keeper.policy.lanternResets → ∃ t, exec (.memoryScrub (.accWord l grad w c) .uncorrectable) s = .next t ∧
      let x := lanternAt t l
      let ovf (g : Table (BitVec 48)) (e b : Nat) : Prop := (tget emptyTag g (128 * e + c)).getLsbD b = true
      x.fault = true ∧ (grad = true → ovf x.gradTag w 42) ∧
      (grad = false → ovf x.accTag w 42 ∧ ovf x.accTag w 18 ∧ (w % 2 = 1 → ovf x.accTag (w - 1) 42)) ∧
      (∃ e ∈ t.flash.log, e.code = evEcc ∧ e.unit = l ∧ e.detail = w) ∧
      ((lanternAt s l).rst.active = false → (towerAt s (l / 48)).rst.active = false → x.rst.active = true ∧ x.rst.test = true ∧ x.running = false)) ∧
  (∀ (s : State) (a : Nat), scrubbed s a = true → s.poison.contains (a / 64 * 64) = false →
    ∃ (t : State) (e : Event), exec (.memoryScrub (.line a) .uncorrectable) s = .next t ∧ SameUnits s t ∧ e.code = evEcc ∧
      LogGrows (logged s e).flash t.flash ∧ partOfLine a ∈ t.keeper.tests ∧
      (HostRings s → t.mem = s.mem ∧ t.poison = insertAsc s.poison (a / 64 * 64) ∧
        t.keeper = { (bumpEcc s (eccUnitOf a) 1 1).keeper with tests := t.keeper.tests, serial := t.keeper.serial })) ∧
  (∀ (s : State) (a : Nat), scrubbed s a = true → s.poison.contains (a / 64 * 64) = true →
    exec (.memoryScrub (.line a) .uncorrectable) s = .next (bumpEcc s (eccUnitOf a) 1 1)) ∧
  (∀ (s : State) (u : EccUnit) (i n : Nat) (v : List Nat), s.keeper.ecc.find? (fun q => q.1 == u) = some (u, v) →
    (bumpEcc s u i n).keeper.ecc.find? (fun q => q.1 == u) = some (u, bump v i n)) ∧
  (∀ (s : State) (k j : Nat), k < 4 → j < 3072 →
    ∃ t, exec (.correctedEccBurst (.sramSub k j)) s = .next t ∧ began t (bumpEcc s (.sram k j) 0 s.keeper.policy.eccBurst) (.sramSub k j)) ∧
  (∀ (s : State) (l b : Nat), (lanternAt s l).phys.isSome = true → b < 32 →
    ∃ t, exec (.correctedEccBurst (.storeBank l b)) s = .next t ∧ began t (bumpEcc s (.bank l b) 0 s.keeper.policy.eccBurst) (.storeBank l b)) ∧
  (∀ (s : State) (l : Nat), s.Inv → l < 192 → (lanternAt s l).phys.isSome = true → (lanternAt s l).rst.active = false →
    (towerAt s (l / 48)).rst.active = false → s.keeper.resetLog = [] → 2 ≤ s.keeper.policy.lanternResets →
    ∃ t, exec (.correctedEccBurst (.accArray l)) s = .next t ∧ (lanternAt t l).rst.active = true ∧
      (lanternAt t l).rst.test = true ∧ (lanternAt t l).running = false)

/-! ### Bundles, firmware, self-test, guests -/

/-- BUNDLE_LOAD, BUNDLE_UNLOAD and BUNDLE_STORE (R148, R156, R157, R380, R455). An image that passes every check is loaded
under the next handle, which is the record's DETAIL, and its load is noted in the function's log; one that fails is refused
with the check, the section and the entry (R197: and which check of a role fails, at which entry), and nothing is loaded.
A bundle that no mooring uses is unloaded, one in use is refused with BUSY, another function's with PRIVILEGE. A stored bundle is an object of the flash's
user area whose size the credit pays. -/
def Obligations.Bundles : Prop :=
  ∀ (m : Mbox) (r : Request) (s : State), m.ok = true → s.Inv →
    (∀ src len seed img, Asked s m 0x0010 r → attFull s m.func = false → s.keeper.bundles.length < 16 →
      (match src with
        | .addr a => len ≤ 2 ^ 30 ∧ keeperRead s a len = .ok img
        | .flash name => storedImage s name len = .ok img) → bundleBytes s + img.length ≤ bundleSpace s →
      match loadBundle img with
      | .error e => ∃ t, exec (.bundleLoad m src len seed) s = .next t ∧
          Answered t m r (if e.check = 1 then 0x21 else 0x20) (words ([e.check, e.sec, e.entry] ++ e.more)) 0 ∧ SameWorkCopied s t ∧
          t.keeper = s.keeper ∧ t.host = s.host
      | .ok p => ∃ u t, exec (.bundleLoad m src len seed) s = .next t ∧ Answered u m r 0x01 [] 0 ∧
          Reported t u m.func r 0 0 s.keeper.nextHandle ∧ SameWorkCopied s u ∧
          u.keeper.bundles = s.keeper.bundles ++ [⟨s.keeper.nextHandle, m.func, seed, img.length, Config.sm3 img, img, p⟩] ∧
          u.keeper.nextHandle = (s.keeper.nextHandle + 1) % 2 ^ 32 ∧ u.keeper.ops = s.keeper.ops ∧
          (funcAt u m.func).attLog.length = (funcAt s m.func).attLog.length + 1) ∧
    (∀ h b, Asked s m 0x0011 r → bundleFor s m.func h = some b → bundleBusy s h = false →
      ∃ t, exec (.bundleUnload m h) s = .next t ∧ Answered t m r 0 [] 0 ∧ SameWork s t ∧ t.host = s.host ∧
        t.keeper = { s.keeper with bundles := s.keeper.bundles.filter (fun b => b.handle != h) }) ∧
    (∀ h b, Asked s m 0x0011 r → bundleFor s m.func h = some b → bundleBusy s h = true →
      ∃ t, exec (.bundleUnload m h) s = .next t ∧ Answered t m r 0x15 [] 0 ∧ SameWork s t ∧ t.keeper = s.keeper) ∧
    -- another function's bundle (R372)
    (∀ h b name, bundleAt s h = some b → b.owner ≠ m.func →
      let denied (c : Instr) : Prop := ∃ t, exec c s = .next t ∧ Answered t m r 0x13 [] 0 ∧ SameWork s t ∧ t.keeper = s.keeper ∧
        (funcAt t m.func).privRef = (funcAt s m.func).privRef + 1
      (Asked s m 0x0011 r → denied (.bundleUnload m h)) ∧ (Asked s m 0x0012 r → denied (.bundleStore m h name))) ∧
    (∀ h b name, Asked s m 0x0012 r → bundleFor s m.func h = some b → userWriteErr s name m.func b.length = none →
      ∃ u t, exec (.bundleStore m h name) s = .next t ∧ Answered u m r 0x01 [] 0 ∧ Reported t u m.func r 0 0 0 ∧
        SameUnitsCopied s u ∧ u.keeper = s.keeper ∧ u.mem = s.mem ∧ u.flash.credit = s.flash.credit - b.length ∧
        ∃ g, u.flash.objs = s.flash.objs.filter (fun o => o.name != name) ++ [⟨name, m.func, g, b.length, false, .bundle b.image⟩])

/-- FW_WRITE, FW_ACTIVATE and the PLDM update (R444 to R446). The ACTIVE slot is refused with FIELD and any slot during a
trial with BUSY; an image that verifies goes into the slot, one that does not ends with SIGNATURE and nothing is written. An
activation puts a slot that verifies on trial with three tries and restarts the Keeper. The PLDM update obeys the same rules
(its answer byte is the model's: notes/assumptions/13.md). -/
def Obligations.FirmwareSlots : Prop :=
  (∀ (m : Mbox) (r : Request) (s : State), m.ok = true → s.Inv →
    (∀ addr len, Asked s m 0x0091 r → (configRec s).active < 2 →
      ∃ t, exec (.fwWrite m addr len (configRec s).active) s = .next t ∧ Answered t m r 0x12 [] 0 ∧ SameWork s t ∧ t.keeper = s.keeper) ∧
    (∀ addr len slot, Asked s m 0x0091 r → slot < 2 → slot ≠ (configRec s).active → (configRec s).pending ≠ none →
      ∃ t, exec (.fwWrite m addr len slot) s = .next t ∧ Answered t m r 0x15 [] 0 ∧ SameWork s t ∧ t.keeper = s.keeper) ∧
    (∀ addr len slot bs i, Asked s m 0x0091 r → slot < 2 → slot ≠ (configRec s).active → (configRec s).pending = none →
      keeperRead s addr len = .ok bs → imageOf bs = some i →
      ∃ u t, exec (.fwWrite m addr len slot) s = .next t ∧ Answered u m r 0x01 [] 0 ∧ SameUnitsCopied s u ∧ u.keeper = s.keeper ∧
        (i.sigOk = true → (configRec s).svnFloor ≤ i.svn → Reported t u m.func r 0 0 0 ∧ slotImage u slot = some i ∧
          slotImage u (1 - slot) = slotImage s (1 - slot) ∧ configRec u = configRec s ∧ u.flash.objs = s.flash.objs) ∧
        ((i.sigOk = false ∨ i.svn < (configRec s).svnFloor) → Reported t u m.func r 0x21 0 0 ∧ u.flash = s.flash)) ∧
    (∀ addr len slot bs, Asked s m 0x0091 r → slot < 2 → slot ≠ (configRec s).active → (configRec s).pending = none →
      keeperRead s addr len = .ok bs → bs.length < 4096 →
      ∃ u t, exec (.fwWrite m addr len slot) s = .next t ∧ Answered u m r 0x01 [] 0 ∧ Reported t u m.func r 0x21 0 0 ∧
        SameWorkCopied s u ∧ u.keeper = s.keeper) ∧
    (∀ slot, Asked s m 0x0092 r → slot < 2 → s.moorings = [] → (configRec s).pending = none → slotVerifies s slot = true →
      ∃ u t, exec (.fwActivate m slot) s = .next t ∧ Answered u m r 0x01 [] 0 ∧ Reported t u m.func r 0 0 0 ∧ SameUnits s u ∧
        u.keeper = { s.keeper with restartDue := true } ∧ (configRec u).pending = some slot ∧ (configRec u).tries = 3 ∧
        (configRec u).active = (configRec s).active ∧ (configRec u).gen = (configRec s).gen + 1) ∧
    (∀ slot, Asked s m 0x0092 r → slot < 2 → (s.moorings ≠ [] ∨ (configRec s).pending ≠ none) →
      ∃ t, exec (.fwActivate m slot) s = .next t ∧ Answered t m r 0x15 [] 0 ∧ SameWork s t ∧ t.keeper = s.keeper)) ∧
  (∀ (s : State) (bs : List Byte) (slot : Nat) (a : Bool) (x : TowerTest), s.power.inputOn = true → s.boot.recovery = false →
    s.boot.keeperUp = true →
    (slot = (configRec s).active → exec (.pldmFirmwareUpdate bs slot a x) s = .next (mctpAnswer s [0x12])) ∧
    (∀ i, slot < 2 → slot ≠ (configRec s).active → (configRec s).pending = none → imageOf bs = some i → i.sigOk = false →
      exec (.pldmFirmwareUpdate bs slot a x) s = .next (mctpAnswer s [0x21])) ∧
    (∀ i, slot < 2 → slot ≠ (configRec s).active → (configRec s).pending = none → imageOf bs = some i → i.sigOk = true →
      (configRec s).svnFloor ≤ i.svn → exec (.pldmFirmwareUpdate bs slot false x) s = .next (mctpAnswer { s with
        flash :=
          let x := { s.flash with written := s.flash.written + 4096 + i.length }
          if slot = 0 then { x with slotA := some i } else { x with slotB := some i } } [0x00])) ∧
    (slot < 2 → slot ≠ (configRec s).active → (configRec s).pending = none → bs.length < 4096 →
      exec (.pldmFirmwareUpdate bs slot a x) s = .next (mctpAnswer s [0x21])))

/-- SELFTEST, RETURN_TO_SERVICE and the groups of the full BIST (R355, R380, R449, R451). With no mooring open and no BIST
running the command is accepted and the first group starts, for SELFTEST in early light only once full light has come. A
BIST in progress refuses either with BUSY. A group that ends without a failing unit counts itself, and the next starts;
under the brake it counts for nothing. -/
def Obligations.SelfTest : Prop :=
  (∀ (m : Mbox) (r : Request) (s : State), m.ok = true → s.Inv →
    (Asked s m 0x0060 r → 15920 ≤ r.outlen → s.moorings = [] → bistOp s = none →
      ∃ t, exec (.selftest m) s = .next t ∧ Answered t m r 0x01 [] 0 ∧ SameWork s t ∧ t.host = s.host ∧
        t.keeper = { s.keeper with
          ops := s.keeper.ops ++ [opOf m r .selftest]
          bistGroup := if s.boot.state = 1 then s.keeper.bistGroup else 1 }) ∧
    (Asked s m 0x0060 r → 15920 ≤ r.outlen → (s.moorings ≠ [] ∨ bistOp s ≠ none) →
      ∃ t, exec (.selftest m) s = .next t ∧ Answered t m r 0x15 [] 0 ∧ SameWork s t ∧ t.keeper = s.keeper) ∧
    (Asked s m 0x0061 r → (s.boot.state = 3 ∨ s.moorings = []) → bistOp s = none →
      ∃ t, exec (.returnToService m) s = .next t ∧ Answered t m r 0x01 [] 0 ∧ SameWork s t ∧ t.host = s.host ∧
        t.keeper = { s.keeper with
          ops := s.keeper.ops ++ [opOf m r .returnToService]
          bistGroup := 1 }) ∧
    (Asked s m 0x0061 r → bistOp s ≠ none →
      ∃ t, exec (.returnToService m) s = .next t ∧ Answered t m r 0x15 [] 0 ∧ SameWork s t ∧ t.keeper = s.keeper)) ∧
  (∀ (s : State) (o : LongOp) (rs : List BistResult), bistOp s = some o → s.power.brake = false →
    (s.keeper.bistGroup = 1 ∨ s.keeper.bistGroup = 2) →
    (∀ x ∈ rs, ∀ q ∈ bistUnits.zipIdx, q.1 = (x.kind, x.die, x.index) → x.signature % 2 ^ 64 = goldenOf s q.2 % 2 ^ 64) →
    ∃ t, exec (.fullBistGroupEnd rs) s = .next t ∧ t.keeper.bistGroup = s.keeper.bistGroup + 1 ∧
      t.mem = s.mem ∧ t.towers = s.towers ∧ t.moorings = s.moorings ∧ t.boot = s.boot ∧ t.flash = s.flash ∧
      ∀ p, opAt t o.func o.tag = some p → p.units = ((opAt s o.func o.tag).map (·.units)).getD 0 + 1) ∧
  (∀ (s : State) (rs : List BistResult), (s.power.brake = true ∨ bistOp s = none) → exec (.fullBistGroupEnd rs) s = .next s)

/-- SHORE_START and SHORE_STOP (R345, R370, R380). The guest takes the lowest-numbered free cores of the mooring's sector,
whose numbers the response gives; each runs for the mooring, from the entry, with the windows asked for, of which those on an
output or a statistic are open while its copy can be read (R218). Too few free is BUSY. A
stop returns the core, its image and its windows gone; a core that is not the mooring's is refused with FIELD. -/
def Obligations.ShoreCores : Prop :=
  ∀ (m : Mbox) (r : Request) (s : State), m.ok = true → s.Inv →
    (∀ cores img n entry ws x b image, Asked s m 0x0050 r → mooringAt s r.mooring = some x → bundleAt s x.bundle = some b →
      keeperRead s img n = .ok image → 1 ≤ cores → cores ≤ 12 → n ≠ 0 → ws.all (guestWindowOk x b.p) = true →
      attFull s m.func = false →
      let free := (sectorCores x.desc.split x.desc.sector).filter (fun c => (s.shore.getD c ShoreCore.reset).lent.isNone)
      (cores ≤ free.length → mayLend s (free.take cores) = true → ∃ u t, exec (.shoreStart m cores img n entry ws) s = .next t ∧
        Answered u m r 0x01 (words (free.take cores)) 0 ∧ Reported t u m.func r 0 0 0 ∧ u.mem = s.mem ∧
        u.lanterns = s.lanterns ∧ u.moorings = s.moorings ∧ u.keeper.ops = s.keeper.ops ∧
        (∀ c ∈ free.take cores, c < 12 → (u.shore.getD c ShoreCore.reset).lent = some r.mooring ∧
          (u.shore.getD c ShoreCore.reset).running = true ∧ (u.shore.getD c ShoreCore.reset).entry = entry ∧
          (u.shore.getD c ShoreCore.reset).asked = ws ∧
          (u.shore.getD c ShoreCore.reset).maps = ws.filter (windowIn (guestArrays x b.p x.readable))) ∧
        (∀ c, c ∉ free.take cores →
          let k := s.shore.getD c ShoreCore.reset
          u.shore.getD c ShoreCore.reset = if k.lent = some r.mooring
            then { k with maps := k.asked.filter (windowIn (guestArrays x b.p x.readable)) } else k)) ∧
      -- within 1 ms of the last advance of a core's daymark the lending waits, the request pending (R345; log 6)
      (cores ≤ free.length → mayLend s (free.take cores) = false → exec (.shoreStart m cores img n entry ws) s = .next s) ∧
      (free.length < cores → ∃ t, exec (.shoreStart m cores img n entry ws) s = .next t ∧ Answered t m r 0x15 [] 0 ∧
        SameWork s t ∧ t.keeper = s.keeper)) ∧
    (∀ c, Asked s m 0x0051 r → c < 12 → (s.shore.getD c ShoreCore.reset).lent = some r.mooring →
      ∃ t, exec (.shoreStop m (some c)) s = .next t ∧ Answered t m r 0 [] 0 ∧
        (t.shore.getD c ShoreCore.reset).lent = none ∧ (t.shore.getD c ShoreCore.reset).running = false ∧
        (t.shore.getD c ShoreCore.reset).maps = [] ∧ (∀ k, k ≠ c → t.shore.getD k ShoreCore.reset = s.shore.getD k ShoreCore.reset) ∧
        t.mem = s.mem ∧ t.lanterns = s.lanterns ∧ t.moorings = s.moorings ∧ t.keeper = s.keeper) ∧
    (∀ c, Asked s m 0x0051 r → (12 ≤ c ∨ (s.shore.getD c ShoreCore.reset).lent ≠ some r.mooring) →
      ∃ t, exec (.shoreStop m (some c)) s = .next t ∧ Answered t m r 0x12 [] 0 ∧ SameWork s t ∧ t.keeper = s.keeper)

/-! ### Moorings -/

/-- Opening, closing and asking (R191, R316, R324, R326, R380). A mooring is opened in full service when its descriptor is
sound, the bundle is the function's, no module of the block refuses and the bundle can be placed: the mooring stands with
DAYMARK 1, idle, and the record gives that daymark. MOORING_STATUS answers with the mooring's state and changes nothing. A
close waits for the step in hand: the command is accepted, the run stops at its boundary and the members are told; where a fault
has undone the step they are asked when they have handled it (R227). -/
def Obligations.OpeningAndClosing : Prop :=
  ∀ (m : Mbox) (r : Request) (s : State), m.ok = true → s.Inv →
    (∀ b pl as_, Asked s m 0x0020 r → s.boot.state = 2 → s.keeper.debug = false →
      let d := keptDesc s r.args
      mdescOk r.args d = true → sectorOk s d = true → originNode d = selfNode s → bundleFor s m.func d.bundle = some b →
      firstRefusal s (ownAnswer s d b.p (selfNode s) true [] (toldBy as_)) as_ (blockNodes s d) = none →
      placeChecked s d b.p (selfNode s) [] (takenRanges s) (toldBy as_) = .ok pl → mooringAt s d.id = none →
      ∃ u t, exec (.mooringOpen m as_) s = .next t ∧ Answered u m r 0x01 [] 0 ∧
        t = postRecord u m.func r.cq (some r.tag) (completionNat r.tag 0x20 0 0 r.mooring 0 1 0) ∧
        mooringAt u d.id = some { newMooring s d b (selfNode s, m.func) 1 [] pl (selfNode s) with
          told := (selfNode s, takenRanges s) :: toldBy as_ } ∧
        (∀ k, k ≠ d.id → mooringAt u k = mooringAt s k) ∧ u.boot = s.boot ∧ u.power = s.power ∧ u.flash = s.flash ∧
        u.time = s.time ∧
        ∀ l, l < 192 → l ∉ sectorLanterns s d.split d.sector → (lanternAt u l).mooring = (lanternAt s l).mooring) ∧
    (∀ x, Asked s m 0x0026 r → mooringAt s r.mooring = some x → anchorOf x = selfNode s → (statusBytes s x).length ≤ 4056 →
      ∃ t, exec (.mooringStatus m) s = .next t ∧ Answered t m r 0 (statusBytes s x) 0 ∧ SameWork s t ∧ t.keeper = s.keeper ∧
        t.host = s.host) ∧
    (∀ x, Asked s m 0x0025 r → mooringAt s r.mooring = some x → anchorOf x = selfNode s → membershipPending s r.mooring = false →
      x.stepOn = true →
      ∃ t, exec (.mooringClose m) s = .next t ∧ Answered t m r 0x01 [] 0 ∧ t.keeper.ops = s.keeper.ops ++ [opOf m r .close] ∧
        mooringAt t r.mooring = some { x with
          paused := true
          handling := if x.faulted = true then otherMembers s x else x.handling
          run := if x.run == .running then .stopping else x.run } ∧
        (∀ k, k ≠ r.mooring → mooringAt t k = mooringAt s k) ∧ t.lanterns = s.lanterns ∧ t.boot = s.boot ∧ t.time = s.time) ∧
    (∀ x, Asked s m 0x0025 r → mooringAt s r.mooring = some x → anchorOf x = selfNode s → membershipPending s r.mooring = true →
      ∃ t, exec (.mooringClose m) s = .next t ∧ Answered t m r 0x15 [] 0 ∧ SameWork s t ∧ t.keeper = s.keeper)

/-- MOORING_GROW, SHRINK, MOVE and LEND (R227, R327, R328, R333) at the anchor, with a map that the rules allow, that every
module of the new block accepts, while a step is in hand: the command is accepted, the run stops at the committed boundary,
and the command waits for it. While another membership command waits they are refused with BUSY. -/
def Obligations.MembershipCommands : Prop :=
  ∀ (m : Mbox) (r : Request) (s : State) (x : Mooring) (b : Bundle) (as_ : List Answer) (items : List LendItem) (c : Instr)
      (op : Nat) (kind : OpKind), m.ok = true → s.Inv →
    (c = .mooringGrow m as_ ∧ op = 0x0021 ∧ kind = .membership 0x21 r.args as_ [] ∨
     c = .mooringShrink m as_ ∧ op = 0x0022 ∧ kind = .membership 0x22 r.args as_ [] ∨
     c = .mooringMove m as_ ∧ op = 0x0023 ∧ kind = .membership 0x23 r.args as_ [] ∨
     c = .mooringLend m items as_ ∧ op = 0x0024 ∧ kind = .membership 0x24 r.args as_ items) →
    Asked s m op r → mooringAt s r.mooring = some x → anchorOf x = selfNode s → bundleAt s x.bundle = some b →
    (membershipPending s r.mooring = false → mapOk s x op r.args = true → (op = 0x24 → lendOk s x r.args items = true ∧ ∀ it ∈ items, debugBars s it.ownerFunc = false) →
      (let d := markRings s (mdescOf r.args)
       let subs := keptSubs s x d
       let nodes := (blockNodes s d).map (standsIn subs)
       firstRefusal s (if nodes.contains (selfNode s) then ownAnswer s d b.p (positionOf subs (selfNode s)) false x.raised (toldBy as_)
         else ⟨selfNode s, 0, [], []⟩) as_ nodes = none) → x.stepOn = true →
      ∃ t, exec c s = .next t ∧ Answered t m r 0x01 [] 0 ∧ t.keeper.ops = s.keeper.ops ++ [opOf m r kind] ∧
        mooringAt t r.mooring = some { x with
          paused := true
          handling := if x.faulted = true then otherMembers s x else x.handling
          run := if x.run == .running then .stopping else x.run } ∧
        (∀ k, k ≠ r.mooring → mooringAt t k = mooringAt s k) ∧ t.lanterns = s.lanterns ∧ t.boot = s.boot ∧ t.time = s.time) ∧
    (membershipPending s r.mooring = true →
      ∃ t, exec c s = .next t ∧ Answered t m r 0x15 [] 0 ∧ SameWork s t ∧ t.keeper = s.keeper)

/-- RUN_STEPS (R196, R243, R380, R391) at the anchor of a mooring with no run and no membership command pending: accepted,
the run starts at its first step, and loaded state makes the step before it the reference. A count of 0 or a first step
outside 48 bits is refused with FIELD, a mooring with a run in progress or a membership command pending with BUSY. -/
def Obligations.RunSteps : Prop :=
  ∀ (m : Mbox) (r : Request) (s : State) (x : Mooring) (first count position : Nat), m.ok = true → s.Inv →
    Asked s m 0x0030 r → mooringAt s r.mooring = some x → anchorOf x = selfNode s →
    (first < 2 ^ 48 → 1 ≤ count → count < 2 ^ 32 → runActive x = false → membershipHeld s r.mooring = false →
      lendingOf s r.mooring = none → x.lostNodes = [] →
      ∃ t, exec (.runSteps m first count position) s = .next t ∧ Answered t m r 0x01 [] 0 ∧
        t.keeper.ops = s.keeper.ops ++ [opOf m r (.run first count position)] ∧
        mooringAt t r.mooring = some { x with
          run := .running
          stopWith := 0
          step := first
          stepOn := false
          decided := 0
          runCommitted := 0
          lastBegun := none
          runCount := count
          position := position
          replays := 0
          faulted := false
          ends := []
          ahead := Ahead.blank
          refStep := if x.loaded then some ((first + 2 ^ 48 - 1) % 2 ^ 48) else x.refStep
          loaded := false } ∧
        (∀ k, k ≠ r.mooring → mooringAt t k = mooringAt s k) ∧ t.lanterns = s.lanterns ∧ t.boot = s.boot ∧ t.time = s.time) ∧
    ((2 ^ 48 ≤ first ∨ count = 0) →
      ∃ t, exec (.runSteps m first count position) s = .next t ∧ Answered t m r 0x12 [] 0 ∧ SameWork s t ∧ t.keeper = s.keeper) ∧
    (first < 2 ^ 48 → 1 ≤ count → count < 2 ^ 32 → (runActive x = true ∨ membershipHeld s r.mooring = true ∨ lendingOf s r.mooring ≠ none) →
      ∃ t, exec (.runSteps m first count position) s = .next t ∧ Answered t m r 0x15 [] 0 ∧ SameWork s t ∧ t.keeper = s.keeper)

/-- Snapshots and tensors (R147, R227, R243, R380, R391, R457). A save asked for while a step is in hand is accepted and
waits for the boundary; one whose write the credit does not cover is refused with WEAR_BUDGET. A restore from this module's
own part is accepted and its job is set. A deletion takes the object away. TENSOR_WRITE and TENSOR_READ are accepted and run as the
program of a free system channel (R171), whose MOVEs copy between the range and the tensor's spans (Obligations.DmaChannels says
what a MOVE does, and that the program's retirement ends the command); with every system channel busy they wait (log 15); while a
run is in progress a write is refused with BUSY. -/
def Obligations.SnapshotsAndTensors : Prop :=
  ∀ (m : Mbox) (r : Request) (s : State) (x : Mooring) (b : Bundle), m.ok = true → s.Inv →
    mooringAt s r.mooring = some x → bundleAt s x.bundle = some b → x.desc.id = r.mooring →
    (∀ name, Asked s m 0x0042 r → snapshotErr s x b.p name = none → x.stepOn = true →
      ∃ t, exec (.snapshotSave m name) s = .next t ∧ Answered t m r 0x01 [] 0 ∧
        t.keeper.ops = s.keeper.ops ++ [opOf m r (.snapshot name)] ∧
        mooringAt t r.mooring = some { x with
          paused := true
          handling := if x.faulted = true then otherMembers s x else x.handling
          run := if x.run == .running then .stopping else x.run } ∧ t.lanterns = s.lanterns ∧ t.flash = s.flash) ∧
    (∀ name, Asked s m 0x0042 r → s.flash.readOnly = false → flashObj s name = none →
      s.flash.credit < partSize (partPieces s x b.p) x.headers →
      ∃ t w, exec (.snapshotSave m name) s = .next t ∧ Answered t m r 0x23 [] w ∧ SameWork s t ∧ t.keeper = s.keeper) ∧
    (∀ name q, Asked s m 0x0043 r → runActive x = false → opPending s r.mooring = false → partHere s name = some q →
      ((flashObj s name).map (·.lost)).getD false = false →
      ∃ t y v, exec (.snapshotRestore m name []) s = .next t ∧ Answered t m r 0x01 [] 0 ∧
        t.keeper.ops = s.keeper.ops ++ [opOf m r .restore] ∧ mooringAt t r.mooring = some y ∧ y.moving = some v ∧
        y.paused = true ∧ y.undo = [] ∧ y.desc = x.desc ∧ t.lanterns = s.lanterns ∧ t.flash = s.flash) ∧
    (∀ name q, Asked s m 0x0043 r → (runActive x = true ∨ opPending s r.mooring = true) → partHere s name = some q →
      ∃ t, exec (.snapshotRestore m name []) s = .next t ∧ Answered t m r 0x15 [] 0 ∧ SameWork s t ∧ t.keeper = s.keeper) ∧
    (∀ name o, Asked s m 0x0044 r → flashObj s name = some o → o.owner = ownerKey s x → s.flash.readOnly = false →
      x.saving ≠ some name →
      ∃ t, exec (.snapshotDelete m name) s = .next t ∧ Answered t m r 0 [] 0 ∧
        t.flash = { s.flash with objs := s.flash.objs.filter (fun o => o.name != name) } ∧ SameUnits s t ∧ t.keeper = s.keeper) ∧
    -- a copy: the program of a free system channel, of the MOVEs between the range and the spans of the shard
    (let copies (i : Instr) (addr : Nat) (moves : List DmaDesc) (after : State) : Prop := moves ≠ [] →
      (sysFree s = none → exec i s = .next s) ∧
      (∀ n, sysFree s = some n → n < 16 ∧ (chanAt s (.system n)).queue = [] ∧ (chanAt s (.system n)).flights = [] ∧
        ∃ t, exec i s = .next t ∧ Answered t m r 0x01 [] 0 ∧
        t.keeper.ops = s.keeper.ops ++ [opOf m r (.copy n ((chanAt s (.system n)).counters.getD 0 0) addr)] ∧
        chanAt t (.system n) = { clearChanRegs (chanAt s (.system n)) with
          queue := [⟨moves, 0, 0, true⟩]
          cmdBad := 0
          cmdAddr := false } ∧
        (∀ k, k ≠ n → chanAt t (.system k) = chanAt s (.system k)) ∧ t.mem = s.mem ∧ t.moorings = after.moorings ∧
        t.lanterns = s.lanterns ∧ t.host = s.host ∧ t.flash = s.flash)
    (∀ tensor off len src sp k, Asked s m 0x0040 r → runActive x = false → opPending s r.mooring = false →
      kindOf s x tensor = some k → (membersOf s x).contains (selfNode s) = true → (checkAddr s .priv src len false).isSome = true →
      commandSpans s x tensor off len (x.committed.getD 0) = some sp →
      copies (.tensorWrite m tensor (selfNode s) off len src) src (spanMoves true src sp) (tensorMark s x tensor)) ∧
    (∀ tensor off len dst step sp, Asked s m 0x0041 r → (membersOf s x).contains (selfNode s) = true →
      tensorReadErr s x tensor step = none → commandSpans s x tensor off len step = some sp →
      (checkAddr s .priv dst len true).isSome = true →
      copies (.tensorRead m tensor (selfNode s) off len dst step) dst (spanMoves false dst sp) s) ∧
    -- each MOVE is a sound one of a range of at most 8 MiB, and together they cover the range in order
    (∀ src dst n k d, (copyMoves src dst n)[k]? = some d → ∃ v, d = .move v ∧ moveCheck (.system 0) v = true ∧ v.compress = 0 ∧
      v.src = src + 2 ^ 23 * k ∧ v.dst = dst + 2 ^ 23 * k ∧ v.slen = min (2 ^ 23) (n - 2 ^ 23 * k) ∧ v.dlen = v.slen ∧ v.scnt = 1 ∧ v.dcnt = 1)) ∧
    (∀ src dst n : Nat, 2 ^ 23 * (copyMoves src dst n).length < n + 2 ^ 23 ∧ n ≤ 2 ^ 23 * (copyMoves src dst n).length) ∧
    (∀ tensor node off len src, Asked s m 0x0040 r → (runActive x = true ∨ opPending s r.mooring = true) →
      ∃ t, exec (.tensorWrite m tensor node off len src) s = .next t ∧ Answered t m r 0x15 [] 0 ∧ SameWork s t ∧ t.keeper = s.keeper)

/-! ### Steps and schedules -/

/-- STEP_START (R163, R199, R220) where a step may start: the mooring's step is in hand with its flags clear, its hold lines open
just where no verdict is awaited, and every lantern of the mooring that is there runs its own schedule, its first replica's,
from entry 0 with its event counters and passes-read count cleared. A lantern of no such mooring stays. -/
def Obligations.StepStarts : Prop :=
  ∀ (s : State) (id : Nat) (x : Mooring) (b : Bundle), s.Inv → mooringAt s id = some x → bundleAt s x.bundle = some b →
    (mayStartStep s x = true →
      ∃ t y, exec (.stepStart id) s = .next t ∧ mooringAt t id = some y ∧ y.stepOn = true ∧ y.step = x.step ∧
        y.lastBegun = some x.step ∧ y.flags = 0 ∧ y.bad = false ∧ (y.holdOpen = true ↔ x.provisional = none) ∧
        (∀ c ∈ y.readable, c ∈ x.readable ∧ x.step < c + 2) ∧
        (∀ k, k ≠ id → mooringAt t k = mooringAt s k) ∧
        (∀ l, l < 192 → (lanternAt s l).mooring = some id → (lanternAt s l).phys.isSome = true →
          lanternAt t l = { lanternAt s l with
            fault := false
            sched := lanternSchedule b.p y.ladders y.place l 0
            turn := 0
            pc := 0
            events := List.replicate 16 0
            passesRead := 0
            collCnt := []
            waiting := false
            holding := false
            updHold := false
            endIssued := false
            endRetired := false
            running := true }) ∧
        (∀ l, (lanternAt s l).mooring ≠ some id → lanternAt t l = lanternAt s l) ∧ t.mem = s.mem ∧ t.keeper = s.keeper ∧
        t.funcs = s.funcs ∧ t.flash = s.flash) ∧
    (mayStartStep s x = false → exec (.stepStart id) s = .next s)

/-- The kinds of schedule entries (R154, R220, R290), for the entry that the lantern would issue next. LENS joins the lens
queue while fewer than eight descriptors are in hand, with its checks settled; CHAIN the queue of four bindings; DMA its
channel's queue of two programs; COLL the four instances of its engine. A full queue holds issue: nothing changes. WAIT
passes when its counter has reached the value and else waits, until it has. HOLD passes where the Keeper has written the step's
controls or the mooring serves. UPDATE waits for the copies of the last commit. END issues; when all work is done the lantern
goes on with its next replica's schedule, counters as at a start (R163), or, on the last, retires. Nothing but the lantern named
changes. -/
def Obligations.ScheduleEntries : Prop :=
  (∀ (s : State) (l : Nat) (m : Mooring) (b : Bundle) (e : SchedEntry), s.Inv → l < 192 → headEntry s l = some e →
    lanternJob s l = some (m, b) →
    (e.kind = 0 → exec (.schedEnd l) s = .next (modLantern s l (fun x => { x with endIssued := true, pc := x.pc + 1 }))) ∧
    (∀ d, e.kind = 1 → b.p.lens[e.arg]? = some d → lensInHand (lanternAt s l) < 8 →
      let d1 := { d with slot := e.slot, validM := if e.phantom then 0 else d.validM }
      let ok := issueChecks (lanternAt s l) d1
      ∃ t, exec (.lens l) s = .next t ∧ OtherLanterns s t l ∧ t.moorings = s.moorings ∧
        (lanternAt t l).pc = (lanternAt s l).pc + 1 ∧
        (lanternAt t l).lensQ = (lanternAt s l).lensQ ++ [⟨d1, (lanternAt s l).pc, e.phase, false, false, false, false, 0, !ok, false, (lanternAt s l).lensStep, 0⟩] ∧
        (ok = true → (lanternAt t l).fault = (lanternAt s l).fault ∧ t.flash = s.flash) ∧
        (ok = false → (lanternAt t l).fault = true ∧ ∃ v : Event, v.code = evLensDescriptor ∧ v.unit = l ∧
          LogGrows (logged s v).flash t.flash ∧ ∃ k, .storeBank l k ∈ t.keeper.tests)) ∧
    (e.kind = 1 → 8 ≤ lensInHand (lanternAt s l) → exec (.lens l) s = .next s) ∧
    (∀ bd, e.kind = 2 → b.p.bindings[e.arg]? = some bd → (lanternAt s l).bindQ.length < 4 →
      exec (.chain l) s = .next (modLantern s l (fun x => { x with
        bindQ := x.bindQ ++ [chainJob s l m b.p e bd]
        pc := x.pc + 1 }))) ∧
    (e.kind = 2 → 4 ≤ (lanternAt s l).bindQ.length → exec (.chain l) s = .next s) ∧
    (∀ ds, e.kind = 3 → b.p.dma[e.arg]? = some ds → (chanAt s (.lantern l e.chan)).queue.length < 2 →
      exec (.dma l) s = .next (modLantern (modChan s (.lantern l e.chan) (fun x => { x with
        queue := x.queue ++ [⟨ds.map (resolveDma m l), e.arg, e.slot, false⟩] })) l (fun x => { x with pc := x.pc + 1 }))) ∧
    (e.kind = 3 → 2 ≤ (chanAt s (.lantern l e.chan)).queue.length → exec (.dma l) s = .next s) ∧
    (e.kind = 4 → e.arg ≤ (lanternAt s l).events.getD e.chan 0 →
      exec (.wait l) s = .next (modLantern s l (fun x => { x with pc := x.pc + 1 }))) ∧
    (e.kind = 4 → (lanternAt s l).events.getD e.chan 0 < e.arg →
      exec (.wait l) s = .next (modLantern s l (fun x => { x with waiting := true }))) ∧
    (∀ d, e.kind = 5 → b.p.colls[e.arg]? = some d → (lanternAt s l).coll.length < 4 →
      ∃ t c, exec (.coll l) s = .next t ∧ lanternAt t l = { lanternAt s l with
          coll := (lanternAt s l).coll ++ [c]
          collCnt := (lanternAt t l).collCnt
          pc := (lanternAt s l).pc + 1 } ∧ c.index = e.arg ∧ c.desc = resolveColl m l d ∧ c.started = false ∧ c.results = [] ∧
        OtherLanterns s t l ∧ SameOutside s t ∧ t.moorings = s.moorings) ∧
    (e.kind = 5 → 4 ≤ (lanternAt s l).coll.length → exec (.coll l) s = .next s) ∧
    (e.kind = 6 → (m.holdOpen = true ∨ m.desc.kind = 1) →
      exec (.hold l) s = .next (modLantern s l (fun x => { x with pc := x.pc + 1 }))) ∧
    (e.kind = 6 → m.holdOpen = false → m.desc.kind ≠ 1 →
      exec (.hold l) s = .next (modLantern s l (fun x => { x with holding := true }))) ∧
    (e.kind = 7 → m.announced = false → exec (.update l) s = .next (modLantern s l (fun x => { x with updHold := true }))) ∧
    (e.kind = 7 → m.announced = true →
      let js := updJobs s l (lanternAt s l).pc e.slot m b e.arg e.phantom
      ((lanternAt s l).bindQ.length + js.length ≤ 4 →
        ∃ t, exec (.update l) s = .next t ∧ lanternAt t l = { lanternAt s l with
          bindQ := (lanternAt s l).bindQ ++ js
          pc := (lanternAt s l).pc + 1 } ∧ OtherLanterns s t l ∧ t.boot = s.boot ∧ t.power = s.power ∧ t.time = s.time) ∧
      (4 < (lanternAt s l).bindQ.length + js.length → exec (.update l) s = .next s))) ∧
  (∀ (s : State) (l : Nat) (e : SchedEntry), (lanternAt s l).sched[(lanternAt s l).pc]? = some e → e.kind = 4 →
    lanternLive s l = true → (lanternAt s l).waiting = true →
    (e.arg ≤ (lanternAt s l).events.getD e.chan 0 →
      exec (.waitSatisfied l) s = .next (modLantern s l (fun x => { x with waiting := false, pc := x.pc + 1 }))) ∧
    ((lanternAt s l).events.getD e.chan 0 < e.arg → exec (.waitSatisfied l) s = .next s)) ∧
  (∀ (s : State) (l : Nat), lanternLive s l = true → (lanternAt s l).endIssued = true → (lanternAt s l).endRetired = false →
    (∀ m b, workDone (lanternAt s l) = true → lanternJob s l = some (m, b) →
      let turns := (turnsOf m.place l).length
      ((lanternAt s l).turn + 1 < turns → exec (.endRetire l) s = .next (modLantern s l (fun x => { x with
        sched := lanternSchedule b.p m.ladders m.place l (x.turn + 1)
        turn := x.turn + 1
        pc := 0
        events := List.replicate 16 0
        passesRead := 0
        endIssued := false }))) ∧
      (turns ≤ (lanternAt s l).turn + 1 →
        exec (.endRetire l) s = .next (modLantern s l (fun x => { x with endRetired := true, running := false })))) ∧
    (workDone (lanternAt s l) = true → lanternJob s l = none →
      exec (.endRetire l) s = .next (modLantern s l (fun x => { x with endRetired := true, running := false }))) ∧
    (workDone (lanternAt s l) = false → exec (.endRetire l) s = .next s))

/-! ### The lens -/

/-- The column sum (R63). With no live block it is the empty record, its ovf bit set just where a scale byte is FF or a
SAT element is fed. Else its exponent is the largest of the live blocks' (raised as R64 says), its value is the sum over
the live blocks of their sums shifted down to that exponent, each to the floor at f fraction bits; inx says that some shift
lost bits, which only a block more than f places below the largest can do. -/
def Obligations.ColumnSums : Prop :=
  ∀ (f : Nat) (up : Int) (bs : List BlockSum), (f = 8 ∨ f = 32) →
    let r := (columnSum f up bs).1
    let bad := bs.any (fun b => decide (b.ea = 255) || decide (b.ew = 255) || b.sat)
    let live := bs.filter (fun b => decide (b.ea ≠ 0) && decide (b.ea ≠ 255) && decide (b.ew ≠ 0) && decide (b.ew ≠ 255))
    let ex (b : BlockSum) : Int := (b.ea : Int) - 127 + ((b.ew : Int) - 127)
    (live = [] → r = ⟨0, 0, 0, bad, false, true⟩) ∧
    (live ≠ [] → ∃ top : Int, (∃ b ∈ live, ex b = top) ∧ (∀ b ∈ live, ex b ≤ top) ∧ r.x = top + up ∧ r.z = false ∧
      (let part (b : BlockSum) : Int := b.sum * 2 ^ f / 2 ^ (top - ex b).toNat
       let v := (live.map part).sum
       r.v = v / 2 ^ f ∧ (r.r : Int) = v % 2 ^ f * 2 ^ (32 - f) ∧
       r.o = (bad || (decide (f = 8) && (decide (v < -8388608) || decide (8388607 < v)))) ∧
       (r.i = true ↔ ∃ b ∈ live, part b * 2 ^ (top - ex b).toNat ≠ b.sum * 2 ^ f) ∧
       (r.i = true → ∃ b ∈ live, (f : Int) < top - ex b)))

/-- The lens at work (R17, R58, R66, R67, R81, R82). A pass that is ready streams: its tile is stationary, the passes-read
count goes up by one, it has started; one whose rows an earlier drain or merge still needs, when that drain has delivered what its queue has room for, holds the lens for
a step, which counts as drain-hold and as active. A drain that is ready starts, whatever earlier one is held; a DRAIN descriptor that nothing holds
delivers its rows as far as the queue of 32 has room. A tile load fills the shadow; a release marks its pass; a
descriptor retires once, and event counter 12 and the lens beacon advance. The clock multiplexer changes on an empty lens, which
accepts nothing for 16 gc: 16 steps of one clock, 8 of the other. -/
def Obligations.LensEngine : Prop :=
  ∀ (s : State) (l : Nat), s.Inv → l < 192 →
    let x := lanternAt s l
    -- a drain in the way of a pass delivers its rows first, as far as there is room
    (∀ j, s.poison = [] → let y := lanternAt (letDrains s l j) l
      OtherLanterns s (letDrains s l j) l ∧ SameOutside s (letDrains s l j) ∧ (letDrains s l j).moorings = s.moorings ∧ y.vec = x.vec ∧
      y.tile = x.tile ∧ y.shadow = x.shadow ∧ y.passesRead = x.passesRead ∧ y.lensQ.length = x.lensQ.length ∧
      ((∀ q ∈ x.lensQ, q.order < j.order → q.draining = false) → letDrains s l j = s)) ∧
    (∀ j t0, lanternLive s l = true → nextPass x = some j → passReady s l j = true → passHeld (letDrains s l j) l j = false →
      (if j.desc.newTile then x.shadow else x.tile) = some t0 → s.poison = [] →
      ∃ t w, exec (.pass l []) s = .next t ∧ (lanternAt t l).tile = some t0 ∧
        (lanternAt t l).shadow = (if j.desc.newTile then none else x.shadow) ∧
        (lanternAt t l).passesRead = (x.passesRead + 1) % 2 ^ 32 ∧ (lanternAt t l).filling = false ∧
        (lanternAt t l).lensQ = (lanternAt (letDrains s l j) l).lensQ.map (fun q => if q.order = j.order then { q with
          started := true
          released := !j.desc.endTok
          wrote := w } else q) ∧
        (lanternAt t l).lensCnt.mismatch = x.lensCnt.mismatch ∧ (lanternAt t l).vec = x.vec ∧ (lanternAt t l).events = x.events ∧
        OtherLanterns s t l ∧ SameOutside s t ∧ t.moorings = s.moorings) ∧
    (∀ j es, lanternLive s l = true → nextPass x = some j → passReady s l j = true → passHeld (letDrains s l j) l j = true →
      exec (.pass l es) s = .next (modLantern (letDrains s l j) l (fun y => { y with
        heldSteps := y.heldSteps + 1
        lensCnt := { y.lensCnt with
          drainHold := y.lensCnt.drainHold + 1
          active := y.lensCnt.active + 1 } }))) ∧
    (∀ j ∈ x.lensQ, drainPending j = true → drainReady x j = true → ∃ k, nextDrain x = some k ∧ (k.draining = true ∨ drainReady x k = true)) ∧
    (∀ j, lanternLive s l = true → nextDrain x = some j → j.draining = false →
      exec (.drainStart l) s = .next (modLantern s l (fun y => { y with
        lensQ := y.lensQ.map (fun q => if q.order = j.order then { q with draining := true } else q) }))) ∧
    (∀ j, lanternLive s l = true → nextDrain x = some j → (j.draining = true ∨ j.desc.opcode = 2) →
      j.desc.maskEn = false → (x.lensQ.map (·.order)).Nodup →
      ∃ t rows, exec (.drain l) s = .next t ∧ (lanternAt t l).drainQ = x.drainQ ++ rows ∧
        rows.length = min (32 - x.drainQ.length) (drainRows j.desc - j.drained) ∧
        (∀ q ∈ (lanternAt t l).lensQ, q.order = j.order → q.drained = j.drained + rows.length ∧ q.draining = true) ∧
        (lanternAt t l).acc = x.acc ∧ (lanternAt t l).vec = x.vec ∧ OtherLanterns s t l ∧ SameOutside s t ∧ t.moorings = s.moorings) ∧
    (∀ j, lanternLive s l = true → x.loading = none → s.poison = [] →
      x.lensQ.find? (fun j => decide (j.desc.opcode = 1) && !j.bad && j.desc.newTile && !j.started) = some j →
      ∃ t, exec (.tileLoadStart l) s = .next t ∧ (lanternAt t l).shadow = some (readTile s l j.desc) ∧
        (lanternAt t l).loading = some j.order ∧ (lanternAt t l).tile = x.tile ∧ OtherLanterns s t l ∧ SameOutside s t) ∧
    (∀ j, x.lensQ.find? (fun j => decide (j.desc.opcode = 1) && j.started && !j.released) = some j →
      ∃ t, exec (.tileRelease l) s = .next t ∧ OtherLanterns s t l ∧ SameOutside s t ∧ t.moorings = s.moorings ∧
        (∀ q ∈ (lanternAt t l).lensQ, q.order = j.order → q.released = true) ∧ (lanternAt t l).tile = x.tile) ∧
    (∀ j, x.lensQ.find? mayRetire = some j →
      ∃ t, exec (.lensDescriptorRetire l) s = .next t ∧ OtherLanterns s t l ∧ SameOutside s t ∧ t.moorings = s.moorings ∧
        (lanternAt t l).events = x.events.modify 12 (fun c => min (c + 1) (2 ^ 32 - 1)) ∧
        (lanternAt t l).beacon = x.beacon.modify 0 (fun c => (c + 1) % 2 ^ 32) ∧
        (∀ q ∈ (lanternAt t l).lensQ, q.order = j.order → q.retired = true)) ∧
    (∀ j, nextPass x = some j → lanternLive s l = true → lensEmpty x = true → x.fastClk ≠ wantsFast s l j.desc →
      exec (.lensClockChange l) s = .next (modLantern s l (fun y => { y with
        fastClk := !y.fastClk
        lensNow := max y.lensNow y.emptyFrom + (if y.fastClk then 8 else 16)
        lensCnt := { y.lensCnt with clockChg := y.lensCnt.clockChg + 1 } })))

/-! ### The vector engine -/

/-- Bindings and their rows (R114, R117 to R119, R135, R138, R155). The first waiting binding becomes the running one, its
registers cleared unless its chain keeps them; a row starts when the row before has issued everything, its lanes as the
binding's standing mask says; a masked row takes no issue slot and is counted; a load whose data are here delivers them and
issue goes on; a binding that has issued everything and has no store outstanding retires, and event counter 13 advances. -/
def Obligations.Bindings : Prop :=
  ∀ (s : State) (l : Nat), s.Inv → l < 192 →
    let x := lanternAt s l
    (∀ j rest, lanternLive s l = true → x.vec.cur = none → x.bindQ = j :: rest → j.update = none →
      ∃ t, exec (.bindingStart l) s = .next t ∧ (lanternAt t l).bindQ = rest ∧ (lanternAt t l).vec.cur = some j ∧
        (lanternAt t l).vec.rowsRun = 0 ∧ (lanternAt t l).vec.nrows = j.nrows ∧ (lanternAt t l).vec.flags = 0 ∧
        (lanternAt t l).vec.gtop = -32768 ∧ (lanternAt t l).vec.tables = j.chain.tables ∧
        (j.chain.keep = true → (lanternAt t l).vec.regs = x.vec.regs) ∧
        (j.chain.keep = false → ∀ k, k < 64 → carried j.chain k = false → (lanternAt t l).vec.regs[k]? = some VReg.zero) ∧
        OtherLanterns s t l ∧ SameOutside s t ∧ t.moorings = s.moorings) ∧
    (∀ j, lanternLive s l = true → x.vec.cur = some j → j.update = none → j.drainOf = none → j.phantom = false →
      j.chain.body = [] → x.vec.todo = [] → x.vec.loadQ = [] → x.vec.storeQ = [] → x.vec.rowsRun < x.vec.nrows →
      ∃ t, exec (.chainRowStart l) s = .next t ∧ (lanternAt t l).vec.rowsRun = x.vec.rowsRun + 1 ∧
        (lanternAt t l).vec.row = x.vec.rowsRun ∧ (lanternAt t l).vec.masks[0]? = some (standingLanes j.bind) ∧
        OtherLanterns s t l ∧ SameOutside s t ∧ t.moorings = s.moorings) ∧
    (∀ j r q, lanternLive s l = true → x.vec.cur = some j → j.update = none → j.drainOf = some r.order → r.masked = true →
      x.drainQ = r :: q → x.vec.todo = [] → x.vec.loadQ = [] → x.vec.rowsRun < x.vec.nrows → mergeWaits x j j.chain.body x.vec.rowsRun = false →
      x.vec.storeQ = [] →
      ∃ t, exec (.chainRowStart l) s = .next t ∧ (lanternAt t l).vec.rowsRun = x.vec.rowsRun + 1 ∧ (lanternAt t l).drainQ = q ∧
        (lanternAt t l).vec.regs = x.vec.regs ∧ OtherLanterns s t l ∧ SameOutside s t ∧ t.moorings = s.moorings) ∧
    (∀ ld rest, x.vec.loadQ = ld :: rest → ld.tags = [] → x.vec.todo = [] →
      exec (.loadArrival l) s = .next (modVec s l (fun v => { deliverLoad { v with loadQ := rest } ld with todo := [] }))) ∧
    (∀ j, lanternLive s l = true → bindingIssued x = true → x.vec.cur = some j → j.update = none → x.vec.storeQ = [] →
      x.vec.peerTags = [] → x.mooring = none →
      ∃ t, exec (.bindingRetire l) s = .next t ∧ (lanternAt t l).vec.cur = none ∧ (lanternAt t l).vec.regs = x.vec.regs ∧
        (lanternAt t l).events = x.events.modify 13 (fun c => min (c + 1) (2 ^ 32 - 1)) ∧ OtherLanterns s t l ∧ SameOutside s t ∧
        t.moorings = s.moorings) ∧
    (∀ j id y, lanternLive s l = true → bindingIssued x = true → x.vec.cur = some j → j.update = none → x.vec.storeQ = [] →
      x.vec.peerTags = [] → x.mooring = some id → mooringAt s id = some y → j.ladder = none →
      ∃ t z, exec (.bindingRetire l) s = .next t ∧ mooringAt t id = some z ∧ z.flags = y.flags ||| x.vec.flags ∧
        z.gathered.notExact = (y.gathered.notExact || x.vec.flags.getLsbD flInx) ∧ (lanternAt t l).vec.cur = none)

/-! ### Vector instructions -/

/-- Lane instructions (R113, R122, R124 to R126): d in the lanes of m(MK) and m0, and Gd, as R126 gives them from a, b and c
and their exponents; operands aligned to the larger exponent; SAT where an operand that is read is SAT; SAT with the SAT
flag where a result or an exponent does not fit. All other lanes, registers and masks stay, and so does all else. -/
def Obligations.LaneInstructions : Prop :=
  ∀ (s : State) (l : Nat) (f : VFields), s.Inv → l < 192 → f.vd < 64 → Running s l f →
    let v := (lanternAt s l).vec
    let a := regAt v f.va
    let b := regAt v f.vb
    let k := regAt v f.vc
    let ga (c : Nat) := gAt a (c / 32)
    let gb (c : Nat) := gAt b (c / 32)
    let gk (c : Nat) := gAt k (c / 32)
    let gab (q : Nat) := max (gAt a q) (gAt b q)
    let one (p : Nat → Int) (c : Nat) : Res := if isSat a c then .sat else .val (p c)
    let two (p : Nat → Int) (c : Nat) : Res := if isSat a c || isSat b c then .sat else .val (p c)
    let three (p : Nat → Int) (c : Nat) : Res := if isSat a c || isSat b c || isSat k c then .sat else .val (p c)
    let Gives (i : Instr) (h : Nat → Res) (g : Nat → Int) : Prop := Issues i s l (fun u => Wrote v u f.vd (writeMask v f) h g)
    let bits2 (p : BitVec 64 → BitVec 64 → BitVec 64) := two (fun c => (p (laneAt a c).bits (laneAt b c).bits).toInt)
    let mulAdd (sign : Int) := three (fun c =>
      let gd := max (ga c + gb c) (gk c)
      alignTo (mant k c) (gk c) gd + sign * alignTo (mant a c * mant b c) (ga c + gb c) gd)
    Gives (.vMov l f) (one (mant a)) (gAt a) ∧
    Gives (.vLdi l f) (fun _ => .val f.imm.toInt) (fun _ => 0) ∧
    Gives (.vSetg l f) (one (mant a)) (fun _ => (f.imm.setWidth 16).toInt) ∧
    Gives (.vScale l f) (one (mant a)) (fun q => gAt a q + (f.imm.setWidth 16).toInt) ∧
    Gives (.vGetg l f) (fun c => .val (ga c)) (fun _ => 0) ∧
    Gives (.vSel l f) (fun c =>
      if (maskAt v (f.imm.toNat % 8)).getLsbD c then (if isSat a c then .sat else .val (alignTo (mant a c) (ga c) (gab (c / 32))))
      else (if isSat b c then .sat else .val (alignTo (mant b c) (gb c) (gab (c / 32))))) gab ∧
    Gives (.vAdd l f) (two (fun c => alignTo (mant a c) (ga c) (gab (c / 32)) + alignTo (mant b c) (gb c) (gab (c / 32)))) gab ∧
    Gives (.vSub l f) (two (fun c => alignTo (mant a c) (ga c) (gab (c / 32)) - alignTo (mant b c) (gb c) (gab (c / 32)))) gab ∧
    Gives (.vNeg l f) (one (fun c => -mant a c)) (gAt a) ∧
    Gives (.vAbs l f) (one (fun c => ((mant a c).natAbs : Int))) (gAt a) ∧
    Gives (.vMul l f) (two (fun c => mant a c * mant b c)) (fun q => gAt a q + gAt b q) ∧
    (f.imm.toNat < 128 → Gives (.vMulsh l f) (two (fun c => shiftRound (mant a c * mant b c) f.imm.toNat false 0))
      (fun q => gAt a q + gAt b q + f.imm.toNat)) ∧
    Gives (.vMadd l f) (mulAdd 1) (fun q => max (gAt a q + gAt b q) (gAt k q)) ∧
    Gives (.vMsub l f) (mulAdd (-1)) (fun q => max (gAt a q + gAt b q) (gAt k q)) ∧
    (∃ h, Gives (.vMin l f) (two h) gab ∧ ∀ c,
      (ValueLt (mant b c, gb c) (mant a c, ga c) → h c = alignTo (mant b c) (gb c) (gab (c / 32))) ∧
      (¬ ValueLt (mant b c, gb c) (mant a c, ga c) → h c = alignTo (mant a c) (ga c) (gab (c / 32)))) ∧
    (∃ h, Gives (.vMax l f) (two h) gab ∧ ∀ c,
      (ValueLt (mant a c, ga c) (mant b c, gb c) → h c = alignTo (mant b c) (gb c) (gab (c / 32))) ∧
      (¬ ValueLt (mant a c, ga c) (mant b c, gb c) → h c = alignTo (mant a c) (ga c) (gab (c / 32)))) ∧
    (∃ h, Gives (.vClamp l f) (three h) (fun q => max (gab q) (gAt k q)) ∧ ∀ c, ∃ hi ∈ [(mant a c, ga c), (mant b c, gb c)],
      ¬ ValueLt hi (mant a c, ga c) ∧ ¬ ValueLt hi (mant b c, gb c) ∧
      (ValueLt (mant k c, gk c) hi → h c = alignTo (mant k c) (gk c) (max (gab (c / 32)) (gk c))) ∧
      (¬ ValueLt (mant k c, gk c) hi → h c = alignTo hi.1 hi.2 (max (gab (c / 32)) (gk c)))) ∧
    Gives (.vAddi l f) (one (fun c => mant a c + f.imm.toInt)) (gAt a) ∧
    Gives (.vMuli l f) (one (fun c => mant a c * f.imm.toInt)) (gAt a) ∧
    Gives (.vResc l f) (one (fun c => alignTo (mant a c) (ga c) (ga c + (f.imm.setWidth 16).toInt)))
      (fun q => gAt a q + (f.imm.setWidth 16).toInt) ∧
    (∃ h, Gives (.vRescf l f) (one h) (fun q => gAt a q + (f.imm.setWidth 16).toInt) ∧ ∀ c,
      (∀ n : Nat, (f.imm.setWidth 16).toInt = n + 1 → h c = mant a c / 2 ^ (n + 1)) ∧
      ((f.imm.setWidth 16).toInt ≤ 0 → h c = alignTo (mant a c) (ga c) (ga c + (f.imm.setWidth 16).toInt))) ∧
    Gives (.vAlign l f) (one (fun c => alignTo (mant a c) (ga c) (gb c))) (gAt b) ∧
    Gives (.vAnd l f) (bits2 (· &&& ·)) (gAt a) ∧
    Gives (.vOr l f) (bits2 (· ||| ·)) (gAt a) ∧
    Gives (.vXor l f) (bits2 (· ^^^ ·)) (gAt a) ∧
    Gives (.vNot l f) (one (fun c => (~~~(laneAt a c).bits).toInt)) (gAt a) ∧
    (f.imm.toNat < 64 → Gives (.vShli l f) (one (fun c => mant a c * 2 ^ f.imm.toNat)) (gAt a)) ∧
    (f.imm.toNat < 64 → Gives (.vShra l f) (one (fun c => mant a c / 2 ^ f.imm.toNat)) (gAt a)) ∧
    (f.imm.toNat < 64 → Gives (.vShrl l f) (one (fun c => ((laneAt a c).bits >>> f.imm.toNat).toInt)) (gAt a))

/-- Masks, tables, groups and draws (R108, R125 to R128, R132, R133). Compares compare exact values and are false on SAT; NORM
brings each group's largest live magnitude to 62 bits; TLU interpolates in the segment of the clamped input; RECIP and RSQRT
round to nearest even at the exponent that the smallest live input sets; LOG2I is the bit length less 1 plus Ga; a reduction
works over a lane group or over the row, aligned to the largest exponent of its lanes that are not SAT, its winner the lowest index among equals; RAND and
RBITS are the draw of R40 for each lane's element index. Only lanes of m(MK) and m0 take part. -/
def Obligations.GroupInstructions : Prop :=
  ∀ (s : State) (l : Nat) (f : VFields), s.Inv → l < 192 → f.vd < 64 → Running s l f →
    let v := (lanternAt s l).vec
    let w := writeMask v f
    let a := regAt v f.va
    let b := regAt v f.vb
    let ga (c : Nat) := gAt a (c / 32)
    let gb (c : Nat) := gAt b (c / 32)
    let Gives (i : Instr) (h : Nat → Res) (g : Nat → Int) : Prop := Issues i s l (fun u => Wrote v u f.vd w h g)
    let Tests (i : Instr) (p : Nat → Prop) : Prop := Issues i s l (fun u => WroteMask v u f.vd w p)
    let clear (c : Nat) : Prop := isSat a c = false ∧ isSat b c = false
    let ab (c : Nat) : Prop := ValueLt (mant a c, ga c) (mant b c, gb c)
    let ba (c : Nat) : Prop := ValueLt (mant b c, gb c) (mant a c, ga c)
    let live (q c : Nat) : Prop := c < 128 ∧ c / 32 = q ∧ w.getLsbD c = true ∧ isSat a c = false
    let scope (c d : Nat) : Prop := d < 128 ∧ w.getLsbD d = true ∧ (f.imm.getLsbD 0 = true ∨ d / 32 = c / 32)
    let top (G : Nat → Int) : Prop := ∀ c, scope c c → (∃ d, scope c d ∧ isSat a d = false) →
      (∃ d, scope c d ∧ isSat a d = false ∧ G (c / 32) = ga d) ∧ ∀ d, scope c d → isSat a d = false → ga d ≤ G (c / 32)
    let index (c : Nat) : Nat := match v.idx with | some i => (i + c * v.lstride) % 2 ^ 64 | none => c
    Issues (.vNop l f) s l (fun u => u = v) ∧
    (f.vd < 8 →
      Tests (.vCeq l f) (fun c => clear c ∧ ¬ ab c ∧ ¬ ba c) ∧ Tests (.vCne l f) (fun c => clear c ∧ (ab c ∨ ba c)) ∧
      Tests (.vClt l f) (fun c => clear c ∧ ab c) ∧ Tests (.vCle l f) (fun c => clear c ∧ ¬ ba c) ∧
      Tests (.vCgt l f) (fun c => clear c ∧ ba c) ∧ Tests (.vCge l f) (fun c => clear c ∧ ¬ ab c) ∧
      Tests (.vCsat l f) (fun c => isSat a c = true) ∧
      Tests (.vMand l f) (fun c => (maskAt v f.va).getLsbD c = true ∧ (maskAt v f.vb).getLsbD c = true) ∧
      Tests (.vMor l f) (fun c => (maskAt v f.va).getLsbD c = true ∨ (maskAt v f.vb).getLsbD c = true) ∧
      Tests (.vMnot l f) (fun c => (maskAt v f.va).getLsbD c = false)) ∧
    (∃ G, Gives (.vNorm l f) (fun c => if isSat a c then .sat else .val (alignTo (mant a c) (ga c) (G (c / 32)))) G ∧
      ∀ q, ((∀ c, live q c → mant a c = 0) → G q = 0) ∧
        ∀ c (n : Nat), live q c → mant a c ≠ 0 → (∀ d, live q d → (mant a d).natAbs < 2 ^ n) → 2 ^ n ≤ 2 * (mant a c).natAbs →
          G q = gAt a q + n - 62) ∧
    (∀ t, v.tables[f.imm.toNat % 4]? = some t →
      let q0 (c : Nat) := alignTo (mant a c) (ga c) (-(t.fw : Int))
      let span : Int := t.segs.length * 2 ^ t.sh
      let q (c : Nat) := min (max (q0 c) t.lo) (t.lo + span - 1)
      let seg (c : Nat) := t.segs.getD ((q c - t.lo) / 2 ^ t.sh).toNat (0, 0)
      Issues (.vTlu l f) s l (fun u => ∃ u1 clamped, u = { u1 with flags := orFlag u1.flags flTcl clamped } ∧
        (clamped = true ↔ ∃ c, live (c / 32) c ∧ (q0 c < t.lo ∨ t.lo + span ≤ q0 c)) ∧
        Wrote v u1 f.vd w (fun c => if isSat a c then .sat else if (seg c).1 = -2 ^ 31 then .raise
          else .val ((seg c).1 + shiftRound ((seg c).2 * ((q c - t.lo) % 2 ^ t.sh)) t.sh false 0)) (fun _ => t.outg))) ∧
    (∃ (y G : Nat → Int), Gives (.vRecip l f) (fun c => if isSat a c then .sat else if mant a c = 0 then .raise else .val (y c)) G ∧
      ∀ q, ((∀ c, live q c → mant a c = 0) → G q = 0) ∧
        ∀ c (n : Nat), live q c → mant a c ≠ 0 → (mant a c).natAbs < 2 ^ n →
          (∀ d, live q d → mant a d ≠ 0 → 2 ^ n ≤ 2 * (mant a d).natAbs) →
          G q = -(gAt a q) - n - 30 ∧ ∀ d, live q d → mant a d ≠ 0 →
            2 * (2 ^ (n + 30) - y d * mant a d).natAbs ≤ (mant a d).natAbs ∧
            (2 * (2 ^ (n + 30) - y d * mant a d).natAbs = (mant a d).natAbs → y d % 2 = 0)) ∧
    (∃ (y G : Nat → Int), Gives (.vRsqrt l f) (fun c => if isSat a c then .sat else if mant a c ≤ 0 then .raise else .val (y c)) G ∧
      let m (c : Nat) : Int := mant a c * 2 ^ (ga c % 2).toNat
      ∀ q, ((∀ c, live q c → mant a c ≤ 0) → G q = 0) ∧
        ∀ c (n : Nat), live q c → 0 < mant a c → m c < 2 ^ n → (∀ d, live q d → 0 < mant a d → 2 ^ n ≤ 2 * m d) →
          let t := (n + 1) / 2 + 30
          G q = -((gAt a q - gAt a q % 2) / 2) - t ∧ ∀ d, live q d → 0 < mant a d →
            0 ≤ y d ∧ 2 ^ (2 * t + 2) ≤ (2 * y d + 1) ^ 2 * m d ∧ (0 < y d → (2 * y d - 1) ^ 2 * m d ≤ 2 ^ (2 * t + 2)) ∧
            ((2 ^ (2 * t + 2) = (2 * y d + 1) ^ 2 * m d ∨ (2 * y d - 1) ^ 2 * m d = 2 ^ (2 * t + 2)) → y d % 2 = 0)) ∧
    (∃ n : Nat → Nat, Gives (.vLog2i l f) (fun c => if isSat a c then .sat else if mant a c = 0 then .raise
        else .val ((n c : Int) + ga c)) (fun _ => 0) ∧
      ∀ c, mant a c ≠ 0 → 2 ^ n c ≤ (mant a c).natAbs ∧ (mant a c).natAbs < 2 ^ (n c + 1)) ∧
    (∃ h G, Gives (.vRsum l f) h G ∧ top G ∧ ∀ c, scope c c →
      ((∃ d, scope c d ∧ isSat a d = true) → h c = .sat) ∧
      ((∀ d, scope c d → isSat a d = false) →
        h c = .val (((List.range 128).filter (fun d => w.getLsbD d && (f.imm.getLsbD 0 || d / 32 == c / 32))).map
          (fun d => alignTo (mant a d) (ga d) (G (c / 32)))).sum)) ∧
    (f.vc < 64 → ∀ i ∈ [Instr.vRmax l f, .vRmin l f], ∃ (h : Nat → Res) (idx : Nat → Nat) (G : Nat → Int), top G ∧
      Issues i s l (fun u => ∃ u1, Wrote v u1 f.vd w h G ∧ Wrote u1 u f.vc w (fun c => .val (BitVec.ofNat 64 (idx c)).toInt) (fun _ => 0)) ∧
      let before (d e : Nat) : Prop := if i = .vRmax l f then ValueLt (mant a e, ga e) (mant a d, ga d) else ValueLt (mant a d, ga d) (mant a e, ga e)
      ∀ c, scope c c →
        ((∃ d, scope c d ∧ isSat a d = true) → h c = .sat ∧ (∃ d, scope c d ∧ isSat a d = true ∧ idx c = index d) ∧
          ∀ d, scope c d → isSat a d = true → idx c ≤ index d) ∧
        ((∀ d, scope c d → isSat a d = false) → ∃ d, scope c d ∧ idx c = index d ∧
          h c = .val (alignTo (mant a d) (ga d) (G (c / 32))) ∧
          ∀ e, scope c e → ¬ before e d ∧ (¬ before d e → index d ≤ index e))) ∧
    Gives (.vRcnt l f) (fun c => .val ((List.range 128).filter (fun d => w.getLsbD d &&
      (f.imm.getLsbD 0 || d / 32 == c / 32) && (maskAt v (f.va % 8)).getLsbD d)).length) (fun _ => 0) ∧
    (∀ m bn j i, lanternJob s l = some (m, bn) → v.cur = some j → j.update = none → v.idx = some i →
      let u (c : Nat) := draw (j.priv.getD bn.seed) j.bind.tensor m.step (f.imm.toNat % 256) ((i + c * v.lstride) % 2 ^ 64)
      Gives (.vRand l f) (fun c => .val (u c).toInt) (fun _ => 0) ∧
      Gives (.vRbits l f) (fun c => .val ((u c).toNat / 2 ^ 40)) (fun _ => -24))
end

