-- ==== Sys2Proof/Laws/Memory.lean ====
section
/-! SUPPORT. Laws/Memory.lean: reading after writing, and that every operation on a table or a memory keeps the
canonical form (keys strictly rising, no entry equal to what an unlisted key reads as). -/

namespace Sys2Proof.Machine

/-! ### The canonical form -/

theorem tableOkFrom_cons {α : Type} [DecidableEq α] (d : α) (lo k : Nat) (v : α) (t : Table α) :
    tableOkFrom d lo ((k, v) :: t) = true ↔ lo ≤ k ∧ v ≠ d ∧ tableOkFrom d (k + 1) t = true := by
  simp [tableOkFrom, and_assoc]

/-- A table that is canonical from a key on is canonical from any smaller key on. -/
theorem tableOkFrom_mono {α : Type} [DecidableEq α] {d : α} {lo lo' : Nat} {t : Table α} (h : lo' ≤ lo)
    (ok : tableOkFrom d lo t = true) : tableOkFrom d lo' t = true := by
  cases t with
  | nil => rfl
  | cons p t =>
    obtain ⟨k, v⟩ := p
    rw [tableOkFrom_cons] at ok ⊢
    exact ⟨Nat.le_trans h ok.1, ok.2⟩

/-- A write keeps the canonical form. -/
theorem tableOkFrom_tput {α : Type} [DecidableEq α] {d : α} {lo n : Nat} {v : α} {t : Table α} (hn : lo ≤ n)
    (ok : tableOkFrom d lo t = true) : tableOkFrom d lo (tput d t n v) = true := by
  induction t generalizing lo with
  | nil =>
    unfold tput
    split
    · rfl
    · next hv => simp [tableOkFrom, hn, hv]
  | cons p t ih =>
    obtain ⟨k, w⟩ := p
    rw [tableOkFrom_cons] at ok
    obtain ⟨h1, h2, h3⟩ := ok
    unfold tput
    split
    · next hlt =>
      split
      · exact (tableOkFrom_cons ..).2 ⟨h1, h2, h3⟩
      · next hv => exact (tableOkFrom_cons ..).2 ⟨hn, hv, (tableOkFrom_cons ..).2 ⟨hlt, h2, h3⟩⟩
    · next hge =>
      split
      · next he =>
        subst he
        split
        · exact tableOkFrom_mono (by omega) h3
        · next hv => exact (tableOkFrom_cons ..).2 ⟨hn, hv, h3⟩
      · next hne => exact (tableOkFrom_cons ..).2 ⟨h1, h2, ih (by omega) h3⟩

theorem tableOk_tput {α : Type} [DecidableEq α] {d : α} {n : Nat} {v : α} {t : Table α}
    (ok : tableOk d t = true) : tableOk d (tput d t n v) = true := tableOkFrom_tput (Nat.zero_le n) ok

/-- Leaving entries out keeps the canonical form. -/
theorem tableOkFrom_filter {α : Type} [DecidableEq α] {d : α} {lo : Nat} {t : Table α} (p : Nat × α → Bool)
    (ok : tableOkFrom d lo t = true) : tableOkFrom d lo (t.filter p) = true := by
  induction t generalizing lo with
  | nil => rfl
  | cons q t ih =>
    obtain ⟨k, v⟩ := q
    rw [tableOkFrom_cons] at ok
    obtain ⟨h1, h2, h3⟩ := ok
    rw [List.filter_cons]
    split
    · exact (tableOkFrom_cons ..).2 ⟨h1, h2, ih h3⟩
    · exact tableOkFrom_mono (by omega) (ih h3)

theorem tableOk_filter {α : Type} [DecidableEq α] {d : α} {t : Table α} (p : Nat × α → Bool)
    (ok : tableOk d t = true) : tableOk d (t.filter p) = true := tableOkFrom_filter p ok

theorem tableOk_tclear {α : Type} [DecidableEq α] {d : α} {lo hi : Nat} {t : Table α}
    (ok : tableOk d t = true) : tableOk d (tclear t lo hi) = true := tableOk_filter _ ok

theorem memoryWf_nil : memoryWf [] = true := rfl

theorem memoryWf_setByte {m : Memory} {a : Nat} {b : Byte} (ok : memoryWf m = true) :
    memoryWf (setByte m a b) = true := tableOk_tput ok

theorem memoryWf_setBytes {m : Memory} {a : Nat} {bs : List Byte} (ok : memoryWf m = true) :
    memoryWf (setBytes m a bs) = true := by
  induction bs generalizing m a with
  | nil => exact ok
  | cons b bs ih => exact ih (memoryWf_setByte ok)

theorem memoryWf_setCells {m : Memory} {cs : List (Nat × Byte)} (ok : memoryWf m = true) :
    memoryWf (setCells m cs) = true := by
  induction cs generalizing m with
  | nil => exact ok
  | cons c cs ih => exact ih (memoryWf_setByte ok)

theorem memoryWf_tclear {m : Memory} {lo hi : Nat} (ok : memoryWf m = true) : memoryWf (tclear m lo hi) = true :=
  tableOk_tclear ok

theorem memoryWf_filter {m : Memory} (p : Nat × Byte → Bool) (ok : memoryWf m = true) :
    memoryWf (m.filter p) = true := tableOk_filter p ok

/-! ### Reading after writing -/

theorem tget_of_lt {α : Type} [DecidableEq α] {d : α} {t : Table α} {lo n : Nat} (ok : tableOkFrom d lo t = true)
    (h : n < lo) : tget d t n = d := by
  cases t with
  | nil => rfl
  | cons p t =>
    obtain ⟨k, v⟩ := p
    have := ((tableOkFrom_cons ..).1 ok).1
    simp [tget, Nat.lt_of_lt_of_le h this]

/-- The key written reads as what was written; every other key reads as before. -/
theorem tget_tput {α : Type} [DecidableEq α] {d : α} {t : Table α} {lo : Nat} (ok : tableOkFrom d lo t = true)
    (n : Nat) (v : α) (k : Nat) : tget d (tput d t n v) k = if k = n then v else tget d t k := by
  induction t generalizing lo with
  | nil =>
    unfold tput
    split
    · next hv => subst hv; simp [tget]
    · unfold tget
      split
      · next h => simp [Nat.ne_of_lt h]
      · split
        · next h => simp [h]
        · next h => simp [tget, Ne.symm h]
  | cons p t ih =>
    obtain ⟨j, w⟩ := p
    obtain ⟨h1, h2, h3⟩ := (tableOkFrom_cons ..).1 ok
    unfold tput
    split
    · next hlt =>
      split
      · next hv =>
        subst hv
        split
        · next hk => subst hk; simp [tget, hlt]
        · rfl
      · by_cases hk : k = n
        · subst hk; simp [tget]
        · by_cases h : k < n
          · have : k < j := by omega
            simp [tget, h, hk, this]
          · have e : n ≠ k := fun e => hk e.symm
            simp [tget, h, hk, e]
    · next hge =>
      split
      · next he =>
        subst he
        split
        · next hv =>
          subst hv
          by_cases hk : k = j
          · subst hk; simp [tget_of_lt h3 (Nat.lt_succ_self _)]
          · by_cases h : k < j
            · simp [tget, h, hk, tget_of_lt h3 (Nat.lt_succ_of_lt h)]
            · have e : j ≠ k := fun e => hk e.symm
              simp [tget, h, hk, e]
        · by_cases hk : k = j
          · subst hk; simp [tget]
          · by_cases h : k < j
            · simp [tget, h, hk]
            · have e : j ≠ k := fun e => hk e.symm
              simp [tget, h, hk, e]
      · next hne =>
        have := ih h3
        by_cases h : k < j
        · have : k ≠ n := by omega
          simp [tget, h, this]
        · by_cases e : j = k
          · subst e
            simp [tget, hne]
          · simp [tget, h, e, this]

theorem byteAt_setByte {m : Memory} (ok : memoryWf m = true) (a : Nat) (b : Byte) (k : Nat) :
    byteAt (setByte m a b) k = if k = a then b else byteAt m k := tget_tput ok a b k

/-- A byte outside the bytes written reads as before. -/
theorem byteAt_setBytes_outside {m : Memory} (ok : memoryWf m = true) {a k : Nat} {bs : List Byte}
    (h : k < a ∨ a + bs.length ≤ k) : byteAt (setBytes m a bs) k = byteAt m k := by
  induction bs generalizing m a with
  | nil => rfl
  | cons b bs ih =>
    simp only [List.length_cons] at h
    have hk : k ≠ a := by omega
    rw [setBytes, ih (memoryWf_setByte ok) (by omega), byteAt_setByte ok, if_neg hk]

/-- A byte among the bytes written reads as the byte written there. -/
theorem byteAt_setBytes_inside {m : Memory} (ok : memoryWf m = true) {a k : Nat} {bs : List Byte}
    (h : a ≤ k) (h' : k < a + bs.length) : byteAt (setBytes m a bs) k = bs.getD (k - a) 0 := by
  induction bs generalizing m a with
  | nil => simp at h'; omega
  | cons b bs ih =>
    simp only [List.length_cons] at h'
    by_cases e : k = a
    · subst e
      rw [setBytes, byteAt_setBytes_outside (memoryWf_setByte ok) (by omega), byteAt_setByte ok]
      simp
    · rw [setBytes, ih (memoryWf_setByte ok) (by omega) (by omega)]
      obtain ⟨n, rfl⟩ : ∃ n, k = a + 1 + n := ⟨k - a - 1, by omega⟩
      have h1 : a + 1 + n - (a + 1) = n := by omega
      have h2 : a + 1 + n - a = n + 1 := by omega
      rw [h1, h2]
      simp

theorem tget_tclear {α : Type} [DecidableEq α] {d : α} {t : Table α} {b : Nat} (ok : tableOkFrom d b t = true)
    (lo hi k : Nat) : tget d (tclear t lo hi) k = if lo ≤ k ∧ k < hi then d else tget d t k := by
  induction t generalizing b with
  | nil => simp [tclear, tget]
  | cons p t ih =>
    obtain ⟨j, w⟩ := p
    obtain ⟨h1, h2, h3⟩ := (tableOkFrom_cons ..).1 ok
    have hi' := ih h3
    unfold tclear at hi' ⊢
    rw [List.filter_cons]
    by_cases hj : j < lo ∨ hi ≤ j
    · rw [if_pos (by simpa using hj)]
      by_cases hlt : k < j
      · simp [tget, hlt]
      · by_cases e : j = k
        · subst e
          have : ¬ (lo ≤ j ∧ j < hi) := by omega
          simp [tget, this]
        · simp only [tget, hlt, e, if_false]
          exact hi'
    · rw [if_neg (by simpa using hj), hi']
      by_cases hlt : k < j
      · simp [tget, hlt, tget_of_lt h3 (by omega : k < j + 1)]
      · by_cases e : j = k
        · subst e
          have : lo ≤ j ∧ j < hi := by omega
          simp [this]
        · simp [tget, hlt, e]

theorem byteAt_tclear {m : Memory} (ok : memoryWf m = true) (lo hi k : Nat) :
    byteAt (tclear m lo hi) k = if lo ≤ k ∧ k < hi then 0 else byteAt m k := tget_tclear ok lo hi k

theorem bytesAt_length (m : Memory) (a n : Nat) : (bytesAt m a n).length = n := by
  induction n generalizing a with
  | zero => rfl
  | succ n ih => simp [bytesAt, ih]

end Sys2Proof.Machine
end

