-- ==== Sys2Proof/Laws/State.lean ====
section
/-! SUPPORT. Laws/State.lean: what each operation that changes one part of the state does to each field of the state,
true by unfolding, so that no later proof unfolds a record update; reading a part after changing it. -/

namespace Sys2Proof.Machine

variable (s : State)

/-! ### modLantern -/

@[simp] theorem modLantern_pending (l : Nat) (f : Lantern → Lantern) : (modLantern s l f).pending = s.pending := rfl
@[simp] theorem modLantern_power (l : Nat) (f : Lantern → Lantern) : (modLantern s l f).power = s.power := rfl
@[simp] theorem modLantern_boot (l : Nat) (f : Lantern → Lantern) : (modLantern s l f).boot = s.boot := rfl
@[simp] theorem modLantern_flash (l : Nat) (f : Lantern → Lantern) : (modLantern s l f).flash = s.flash := rfl
@[simp] theorem modLantern_funcs (l : Nat) (f : Lantern → Lantern) : (modLantern s l f).funcs = s.funcs := rfl
@[simp] theorem modLantern_keeper (l : Nat) (f : Lantern → Lantern) : (modLantern s l f).keeper = s.keeper := rfl
@[simp] theorem modLantern_moorings (l : Nat) (f : Lantern → Lantern) : (modLantern s l f).moorings = s.moorings := rfl
@[simp] theorem modLantern_lanterns (l : Nat) (f : Lantern → Lantern) : (modLantern s l f).lanterns = s.lanterns.modify l f := rfl
@[simp] theorem modLantern_towers (l : Nat) (f : Lantern → Lantern) : (modLantern s l f).towers = s.towers := rfl
@[simp] theorem modLantern_sysChans (l : Nat) (f : Lantern → Lantern) : (modLantern s l f).sysChans = s.sysChans := rfl
@[simp] theorem modLantern_mem (l : Nat) (f : Lantern → Lantern) : (modLantern s l f).mem = s.mem := rfl
@[simp] theorem modLantern_poison (l : Nat) (f : Lantern → Lantern) : (modLantern s l f).poison = s.poison := rfl
@[simp] theorem modLantern_host (l : Nat) (f : Lantern → Lantern) : (modLantern s l f).host = s.host := rfl
@[simp] theorem modLantern_router (l : Nat) (f : Lantern → Lantern) : (modLantern s l f).router = s.router := rfl
@[simp] theorem modLantern_time (l : Nat) (f : Lantern → Lantern) : (modLantern s l f).time = s.time := rfl
@[simp] theorem modLantern_shore (l : Nat) (f : Lantern → Lantern) : (modLantern s l f).shore = s.shore := rfl
@[simp] theorem modLantern_out (l : Nat) (f : Lantern → Lantern) : (modLantern s l f).out = s.out := rfl
@[simp] theorem modLantern_free (l : Nat) (f : Lantern → Lantern) : (modLantern s l f).free = s.free := rfl

/-! ### modVec -/

@[simp] theorem modVec_pending (l : Nat) (f : VEngine → VEngine) : (modVec s l f).pending = s.pending := rfl
@[simp] theorem modVec_power (l : Nat) (f : VEngine → VEngine) : (modVec s l f).power = s.power := rfl
@[simp] theorem modVec_boot (l : Nat) (f : VEngine → VEngine) : (modVec s l f).boot = s.boot := rfl
@[simp] theorem modVec_flash (l : Nat) (f : VEngine → VEngine) : (modVec s l f).flash = s.flash := rfl
@[simp] theorem modVec_funcs (l : Nat) (f : VEngine → VEngine) : (modVec s l f).funcs = s.funcs := rfl
@[simp] theorem modVec_keeper (l : Nat) (f : VEngine → VEngine) : (modVec s l f).keeper = s.keeper := rfl
@[simp] theorem modVec_moorings (l : Nat) (f : VEngine → VEngine) : (modVec s l f).moorings = s.moorings := rfl
@[simp] theorem modVec_lanterns (l : Nat) (f : VEngine → VEngine) : (modVec s l f).lanterns = s.lanterns.modify l (fun x => { x with vec := f x.vec }) := rfl
@[simp] theorem modVec_towers (l : Nat) (f : VEngine → VEngine) : (modVec s l f).towers = s.towers := rfl
@[simp] theorem modVec_sysChans (l : Nat) (f : VEngine → VEngine) : (modVec s l f).sysChans = s.sysChans := rfl
@[simp] theorem modVec_mem (l : Nat) (f : VEngine → VEngine) : (modVec s l f).mem = s.mem := rfl
@[simp] theorem modVec_poison (l : Nat) (f : VEngine → VEngine) : (modVec s l f).poison = s.poison := rfl
@[simp] theorem modVec_host (l : Nat) (f : VEngine → VEngine) : (modVec s l f).host = s.host := rfl
@[simp] theorem modVec_router (l : Nat) (f : VEngine → VEngine) : (modVec s l f).router = s.router := rfl
@[simp] theorem modVec_time (l : Nat) (f : VEngine → VEngine) : (modVec s l f).time = s.time := rfl
@[simp] theorem modVec_shore (l : Nat) (f : VEngine → VEngine) : (modVec s l f).shore = s.shore := rfl
@[simp] theorem modVec_out (l : Nat) (f : VEngine → VEngine) : (modVec s l f).out = s.out := rfl
@[simp] theorem modVec_free (l : Nat) (f : VEngine → VEngine) : (modVec s l f).free = s.free := rfl

/-! ### modTower -/

@[simp] theorem modTower_pending (t : Nat) (f : Tower → Tower) : (modTower s t f).pending = s.pending := rfl
@[simp] theorem modTower_power (t : Nat) (f : Tower → Tower) : (modTower s t f).power = s.power := rfl
@[simp] theorem modTower_boot (t : Nat) (f : Tower → Tower) : (modTower s t f).boot = s.boot := rfl
@[simp] theorem modTower_flash (t : Nat) (f : Tower → Tower) : (modTower s t f).flash = s.flash := rfl
@[simp] theorem modTower_funcs (t : Nat) (f : Tower → Tower) : (modTower s t f).funcs = s.funcs := rfl
@[simp] theorem modTower_keeper (t : Nat) (f : Tower → Tower) : (modTower s t f).keeper = s.keeper := rfl
@[simp] theorem modTower_moorings (t : Nat) (f : Tower → Tower) : (modTower s t f).moorings = s.moorings := rfl
@[simp] theorem modTower_lanterns (t : Nat) (f : Tower → Tower) : (modTower s t f).lanterns = s.lanterns := rfl
@[simp] theorem modTower_towers (t : Nat) (f : Tower → Tower) : (modTower s t f).towers = s.towers.modify t f := rfl
@[simp] theorem modTower_sysChans (t : Nat) (f : Tower → Tower) : (modTower s t f).sysChans = s.sysChans := rfl
@[simp] theorem modTower_mem (t : Nat) (f : Tower → Tower) : (modTower s t f).mem = s.mem := rfl
@[simp] theorem modTower_poison (t : Nat) (f : Tower → Tower) : (modTower s t f).poison = s.poison := rfl
@[simp] theorem modTower_host (t : Nat) (f : Tower → Tower) : (modTower s t f).host = s.host := rfl
@[simp] theorem modTower_router (t : Nat) (f : Tower → Tower) : (modTower s t f).router = s.router := rfl
@[simp] theorem modTower_time (t : Nat) (f : Tower → Tower) : (modTower s t f).time = s.time := rfl
@[simp] theorem modTower_shore (t : Nat) (f : Tower → Tower) : (modTower s t f).shore = s.shore := rfl
@[simp] theorem modTower_out (t : Nat) (f : Tower → Tower) : (modTower s t f).out = s.out := rfl
@[simp] theorem modTower_free (t : Nat) (f : Tower → Tower) : (modTower s t f).free = s.free := rfl

/-! ### modFunc -/

@[simp] theorem modFunc_pending (i : Nat) (f : Func → Func) : (modFunc s i f).pending = s.pending := rfl
@[simp] theorem modFunc_power (i : Nat) (f : Func → Func) : (modFunc s i f).power = s.power := rfl
@[simp] theorem modFunc_boot (i : Nat) (f : Func → Func) : (modFunc s i f).boot = s.boot := rfl
@[simp] theorem modFunc_flash (i : Nat) (f : Func → Func) : (modFunc s i f).flash = s.flash := rfl
@[simp] theorem modFunc_funcs (i : Nat) (f : Func → Func) : (modFunc s i f).funcs = s.funcs.modify i f := rfl
@[simp] theorem modFunc_keeper (i : Nat) (f : Func → Func) : (modFunc s i f).keeper = s.keeper := rfl
@[simp] theorem modFunc_moorings (i : Nat) (f : Func → Func) : (modFunc s i f).moorings = s.moorings := rfl
@[simp] theorem modFunc_lanterns (i : Nat) (f : Func → Func) : (modFunc s i f).lanterns = s.lanterns := rfl
@[simp] theorem modFunc_towers (i : Nat) (f : Func → Func) : (modFunc s i f).towers = s.towers := rfl
@[simp] theorem modFunc_sysChans (i : Nat) (f : Func → Func) : (modFunc s i f).sysChans = s.sysChans := rfl
@[simp] theorem modFunc_mem (i : Nat) (f : Func → Func) : (modFunc s i f).mem = s.mem := rfl
@[simp] theorem modFunc_poison (i : Nat) (f : Func → Func) : (modFunc s i f).poison = s.poison := rfl
@[simp] theorem modFunc_host (i : Nat) (f : Func → Func) : (modFunc s i f).host = s.host := rfl
@[simp] theorem modFunc_router (i : Nat) (f : Func → Func) : (modFunc s i f).router = s.router := rfl
@[simp] theorem modFunc_time (i : Nat) (f : Func → Func) : (modFunc s i f).time = s.time := rfl
@[simp] theorem modFunc_shore (i : Nat) (f : Func → Func) : (modFunc s i f).shore = s.shore := rfl
@[simp] theorem modFunc_out (i : Nat) (f : Func → Func) : (modFunc s i f).out = s.out := rfl
@[simp] theorem modFunc_free (i : Nat) (f : Func → Func) : (modFunc s i f).free = s.free := rfl

/-! ### modMbox -/

@[simp] theorem modMbox_pending (m : Mbox) (f : Mailbox → Mailbox) : (modMbox s m f).pending = s.pending := rfl
@[simp] theorem modMbox_power (m : Mbox) (f : Mailbox → Mailbox) : (modMbox s m f).power = s.power := rfl
@[simp] theorem modMbox_boot (m : Mbox) (f : Mailbox → Mailbox) : (modMbox s m f).boot = s.boot := rfl
@[simp] theorem modMbox_flash (m : Mbox) (f : Mailbox → Mailbox) : (modMbox s m f).flash = s.flash := rfl
@[simp] theorem modMbox_funcs (m : Mbox) (f : Mailbox → Mailbox) : (modMbox s m f).funcs = s.funcs.modify m.func (fun x => { x with mbox := x.mbox.modify m.box f }) := rfl
@[simp] theorem modMbox_keeper (m : Mbox) (f : Mailbox → Mailbox) : (modMbox s m f).keeper = s.keeper := rfl
@[simp] theorem modMbox_moorings (m : Mbox) (f : Mailbox → Mailbox) : (modMbox s m f).moorings = s.moorings := rfl
@[simp] theorem modMbox_lanterns (m : Mbox) (f : Mailbox → Mailbox) : (modMbox s m f).lanterns = s.lanterns := rfl
@[simp] theorem modMbox_towers (m : Mbox) (f : Mailbox → Mailbox) : (modMbox s m f).towers = s.towers := rfl
@[simp] theorem modMbox_sysChans (m : Mbox) (f : Mailbox → Mailbox) : (modMbox s m f).sysChans = s.sysChans := rfl
@[simp] theorem modMbox_mem (m : Mbox) (f : Mailbox → Mailbox) : (modMbox s m f).mem = s.mem := rfl
@[simp] theorem modMbox_poison (m : Mbox) (f : Mailbox → Mailbox) : (modMbox s m f).poison = s.poison := rfl
@[simp] theorem modMbox_host (m : Mbox) (f : Mailbox → Mailbox) : (modMbox s m f).host = s.host := rfl
@[simp] theorem modMbox_router (m : Mbox) (f : Mailbox → Mailbox) : (modMbox s m f).router = s.router := rfl
@[simp] theorem modMbox_time (m : Mbox) (f : Mailbox → Mailbox) : (modMbox s m f).time = s.time := rfl
@[simp] theorem modMbox_shore (m : Mbox) (f : Mailbox → Mailbox) : (modMbox s m f).shore = s.shore := rfl
@[simp] theorem modMbox_out (m : Mbox) (f : Mailbox → Mailbox) : (modMbox s m f).out = s.out := rfl
@[simp] theorem modMbox_free (m : Mbox) (f : Mailbox → Mailbox) : (modMbox s m f).free = s.free := rfl

/-! ### modQueue -/

@[simp] theorem modQueue_pending (i q : Nat) (f : Queue → Queue) : (modQueue s i q f).pending = s.pending := rfl
@[simp] theorem modQueue_power (i q : Nat) (f : Queue → Queue) : (modQueue s i q f).power = s.power := rfl
@[simp] theorem modQueue_boot (i q : Nat) (f : Queue → Queue) : (modQueue s i q f).boot = s.boot := rfl
@[simp] theorem modQueue_flash (i q : Nat) (f : Queue → Queue) : (modQueue s i q f).flash = s.flash := rfl
@[simp] theorem modQueue_funcs (i q : Nat) (f : Queue → Queue) : (modQueue s i q f).funcs = s.funcs.modify i (fun x => { x with queues := x.queues.modify q f }) := rfl
@[simp] theorem modQueue_keeper (i q : Nat) (f : Queue → Queue) : (modQueue s i q f).keeper = s.keeper := rfl
@[simp] theorem modQueue_moorings (i q : Nat) (f : Queue → Queue) : (modQueue s i q f).moorings = s.moorings := rfl
@[simp] theorem modQueue_lanterns (i q : Nat) (f : Queue → Queue) : (modQueue s i q f).lanterns = s.lanterns := rfl
@[simp] theorem modQueue_towers (i q : Nat) (f : Queue → Queue) : (modQueue s i q f).towers = s.towers := rfl
@[simp] theorem modQueue_sysChans (i q : Nat) (f : Queue → Queue) : (modQueue s i q f).sysChans = s.sysChans := rfl
@[simp] theorem modQueue_mem (i q : Nat) (f : Queue → Queue) : (modQueue s i q f).mem = s.mem := rfl
@[simp] theorem modQueue_poison (i q : Nat) (f : Queue → Queue) : (modQueue s i q f).poison = s.poison := rfl
@[simp] theorem modQueue_host (i q : Nat) (f : Queue → Queue) : (modQueue s i q f).host = s.host := rfl
@[simp] theorem modQueue_router (i q : Nat) (f : Queue → Queue) : (modQueue s i q f).router = s.router := rfl
@[simp] theorem modQueue_time (i q : Nat) (f : Queue → Queue) : (modQueue s i q f).time = s.time := rfl
@[simp] theorem modQueue_shore (i q : Nat) (f : Queue → Queue) : (modQueue s i q f).shore = s.shore := rfl
@[simp] theorem modQueue_out (i q : Nat) (f : Queue → Queue) : (modQueue s i q f).out = s.out := rfl
@[simp] theorem modQueue_free (i q : Nat) (f : Queue → Queue) : (modQueue s i q f).free = s.free := rfl

/-! ### modRouter -/

@[simp] theorem modRouter_pending (f : Router → Router) : (modRouter s f).pending = s.pending := rfl
@[simp] theorem modRouter_power (f : Router → Router) : (modRouter s f).power = s.power := rfl
@[simp] theorem modRouter_boot (f : Router → Router) : (modRouter s f).boot = s.boot := rfl
@[simp] theorem modRouter_flash (f : Router → Router) : (modRouter s f).flash = s.flash := rfl
@[simp] theorem modRouter_funcs (f : Router → Router) : (modRouter s f).funcs = s.funcs := rfl
@[simp] theorem modRouter_keeper (f : Router → Router) : (modRouter s f).keeper = s.keeper := rfl
@[simp] theorem modRouter_moorings (f : Router → Router) : (modRouter s f).moorings = s.moorings := rfl
@[simp] theorem modRouter_lanterns (f : Router → Router) : (modRouter s f).lanterns = s.lanterns := rfl
@[simp] theorem modRouter_towers (f : Router → Router) : (modRouter s f).towers = s.towers := rfl
@[simp] theorem modRouter_sysChans (f : Router → Router) : (modRouter s f).sysChans = s.sysChans := rfl
@[simp] theorem modRouter_mem (f : Router → Router) : (modRouter s f).mem = s.mem := rfl
@[simp] theorem modRouter_poison (f : Router → Router) : (modRouter s f).poison = s.poison := rfl
@[simp] theorem modRouter_host (f : Router → Router) : (modRouter s f).host = s.host := rfl
@[simp] theorem modRouter_router (f : Router → Router) : (modRouter s f).router = f s.router := rfl
@[simp] theorem modRouter_time (f : Router → Router) : (modRouter s f).time = s.time := rfl
@[simp] theorem modRouter_shore (f : Router → Router) : (modRouter s f).shore = s.shore := rfl
@[simp] theorem modRouter_out (f : Router → Router) : (modRouter s f).out = s.out := rfl
@[simp] theorem modRouter_free (f : Router → Router) : (modRouter s f).free = s.free := rfl

/-! ### modPort -/

@[simp] theorem modPort_pending (p : Nat) (f : Port → Port) : (modPort s p f).pending = s.pending := rfl
@[simp] theorem modPort_power (p : Nat) (f : Port → Port) : (modPort s p f).power = s.power := rfl
@[simp] theorem modPort_boot (p : Nat) (f : Port → Port) : (modPort s p f).boot = s.boot := rfl
@[simp] theorem modPort_flash (p : Nat) (f : Port → Port) : (modPort s p f).flash = s.flash := rfl
@[simp] theorem modPort_funcs (p : Nat) (f : Port → Port) : (modPort s p f).funcs = s.funcs := rfl
@[simp] theorem modPort_keeper (p : Nat) (f : Port → Port) : (modPort s p f).keeper = s.keeper := rfl
@[simp] theorem modPort_moorings (p : Nat) (f : Port → Port) : (modPort s p f).moorings = s.moorings := rfl
@[simp] theorem modPort_lanterns (p : Nat) (f : Port → Port) : (modPort s p f).lanterns = s.lanterns := rfl
@[simp] theorem modPort_towers (p : Nat) (f : Port → Port) : (modPort s p f).towers = s.towers := rfl
@[simp] theorem modPort_sysChans (p : Nat) (f : Port → Port) : (modPort s p f).sysChans = s.sysChans := rfl
@[simp] theorem modPort_mem (p : Nat) (f : Port → Port) : (modPort s p f).mem = s.mem := rfl
@[simp] theorem modPort_poison (p : Nat) (f : Port → Port) : (modPort s p f).poison = s.poison := rfl
@[simp] theorem modPort_host (p : Nat) (f : Port → Port) : (modPort s p f).host = s.host := rfl
@[simp] theorem modPort_router (p : Nat) (f : Port → Port) : (modPort s p f).router = { s.router with ports := s.router.ports.modify p f } := rfl
@[simp] theorem modPort_time (p : Nat) (f : Port → Port) : (modPort s p f).time = s.time := rfl
@[simp] theorem modPort_shore (p : Nat) (f : Port → Port) : (modPort s p f).shore = s.shore := rfl
@[simp] theorem modPort_out (p : Nat) (f : Port → Port) : (modPort s p f).out = s.out := rfl
@[simp] theorem modPort_free (p : Nat) (f : Port → Port) : (modPort s p f).free = s.free := rfl

/-! ### modKeeper -/

@[simp] theorem modKeeper_pending (f : Keeper → Keeper) : (modKeeper s f).pending = s.pending := rfl
@[simp] theorem modKeeper_power (f : Keeper → Keeper) : (modKeeper s f).power = s.power := rfl
@[simp] theorem modKeeper_boot (f : Keeper → Keeper) : (modKeeper s f).boot = s.boot := rfl
@[simp] theorem modKeeper_flash (f : Keeper → Keeper) : (modKeeper s f).flash = s.flash := rfl
@[simp] theorem modKeeper_funcs (f : Keeper → Keeper) : (modKeeper s f).funcs = s.funcs := rfl
@[simp] theorem modKeeper_keeper (f : Keeper → Keeper) : (modKeeper s f).keeper = f s.keeper := rfl
@[simp] theorem modKeeper_moorings (f : Keeper → Keeper) : (modKeeper s f).moorings = s.moorings := rfl
@[simp] theorem modKeeper_lanterns (f : Keeper → Keeper) : (modKeeper s f).lanterns = s.lanterns := rfl
@[simp] theorem modKeeper_towers (f : Keeper → Keeper) : (modKeeper s f).towers = s.towers := rfl
@[simp] theorem modKeeper_sysChans (f : Keeper → Keeper) : (modKeeper s f).sysChans = s.sysChans := rfl
@[simp] theorem modKeeper_mem (f : Keeper → Keeper) : (modKeeper s f).mem = s.mem := rfl
@[simp] theorem modKeeper_poison (f : Keeper → Keeper) : (modKeeper s f).poison = s.poison := rfl
@[simp] theorem modKeeper_host (f : Keeper → Keeper) : (modKeeper s f).host = s.host := rfl
@[simp] theorem modKeeper_router (f : Keeper → Keeper) : (modKeeper s f).router = s.router := rfl
@[simp] theorem modKeeper_time (f : Keeper → Keeper) : (modKeeper s f).time = s.time := rfl
@[simp] theorem modKeeper_shore (f : Keeper → Keeper) : (modKeeper s f).shore = s.shore := rfl
@[simp] theorem modKeeper_out (f : Keeper → Keeper) : (modKeeper s f).out = s.out := rfl
@[simp] theorem modKeeper_free (f : Keeper → Keeper) : (modKeeper s f).free = s.free := rfl

/-! ### modPower -/

@[simp] theorem modPower_pending (f : Power → Power) : (modPower s f).pending = s.pending := rfl
@[simp] theorem modPower_power (f : Power → Power) : (modPower s f).power = f s.power := rfl
@[simp] theorem modPower_boot (f : Power → Power) : (modPower s f).boot = s.boot := rfl
@[simp] theorem modPower_flash (f : Power → Power) : (modPower s f).flash = s.flash := rfl
@[simp] theorem modPower_funcs (f : Power → Power) : (modPower s f).funcs = s.funcs := rfl
@[simp] theorem modPower_keeper (f : Power → Power) : (modPower s f).keeper = s.keeper := rfl
@[simp] theorem modPower_moorings (f : Power → Power) : (modPower s f).moorings = s.moorings := rfl
@[simp] theorem modPower_lanterns (f : Power → Power) : (modPower s f).lanterns = s.lanterns := rfl
@[simp] theorem modPower_towers (f : Power → Power) : (modPower s f).towers = s.towers := rfl
@[simp] theorem modPower_sysChans (f : Power → Power) : (modPower s f).sysChans = s.sysChans := rfl
@[simp] theorem modPower_mem (f : Power → Power) : (modPower s f).mem = s.mem := rfl
@[simp] theorem modPower_poison (f : Power → Power) : (modPower s f).poison = s.poison := rfl
@[simp] theorem modPower_host (f : Power → Power) : (modPower s f).host = s.host := rfl
@[simp] theorem modPower_router (f : Power → Power) : (modPower s f).router = s.router := rfl
@[simp] theorem modPower_time (f : Power → Power) : (modPower s f).time = s.time := rfl
@[simp] theorem modPower_shore (f : Power → Power) : (modPower s f).shore = s.shore := rfl
@[simp] theorem modPower_out (f : Power → Power) : (modPower s f).out = s.out := rfl
@[simp] theorem modPower_free (f : Power → Power) : (modPower s f).free = s.free := rfl

/-! ### modBoot -/

@[simp] theorem modBoot_pending (f : Boot → Boot) : (modBoot s f).pending = s.pending := rfl
@[simp] theorem modBoot_power (f : Boot → Boot) : (modBoot s f).power = s.power := rfl
@[simp] theorem modBoot_boot (f : Boot → Boot) : (modBoot s f).boot = f s.boot := rfl
@[simp] theorem modBoot_flash (f : Boot → Boot) : (modBoot s f).flash = s.flash := rfl
@[simp] theorem modBoot_funcs (f : Boot → Boot) : (modBoot s f).funcs = s.funcs := rfl
@[simp] theorem modBoot_keeper (f : Boot → Boot) : (modBoot s f).keeper = s.keeper := rfl
@[simp] theorem modBoot_moorings (f : Boot → Boot) : (modBoot s f).moorings = s.moorings := rfl
@[simp] theorem modBoot_lanterns (f : Boot → Boot) : (modBoot s f).lanterns = s.lanterns := rfl
@[simp] theorem modBoot_towers (f : Boot → Boot) : (modBoot s f).towers = s.towers := rfl
@[simp] theorem modBoot_sysChans (f : Boot → Boot) : (modBoot s f).sysChans = s.sysChans := rfl
@[simp] theorem modBoot_mem (f : Boot → Boot) : (modBoot s f).mem = s.mem := rfl
@[simp] theorem modBoot_poison (f : Boot → Boot) : (modBoot s f).poison = s.poison := rfl
@[simp] theorem modBoot_host (f : Boot → Boot) : (modBoot s f).host = s.host := rfl
@[simp] theorem modBoot_router (f : Boot → Boot) : (modBoot s f).router = s.router := rfl
@[simp] theorem modBoot_time (f : Boot → Boot) : (modBoot s f).time = s.time := rfl
@[simp] theorem modBoot_shore (f : Boot → Boot) : (modBoot s f).shore = s.shore := rfl
@[simp] theorem modBoot_out (f : Boot → Boot) : (modBoot s f).out = s.out := rfl
@[simp] theorem modBoot_free (f : Boot → Boot) : (modBoot s f).free = s.free := rfl

/-! ### modFlash -/

@[simp] theorem modFlash_pending (f : Flash → Flash) : (modFlash s f).pending = s.pending := rfl
@[simp] theorem modFlash_power (f : Flash → Flash) : (modFlash s f).power = s.power := rfl
@[simp] theorem modFlash_boot (f : Flash → Flash) : (modFlash s f).boot = s.boot := rfl
@[simp] theorem modFlash_flash (f : Flash → Flash) : (modFlash s f).flash = f s.flash := rfl
@[simp] theorem modFlash_funcs (f : Flash → Flash) : (modFlash s f).funcs = s.funcs := rfl
@[simp] theorem modFlash_keeper (f : Flash → Flash) : (modFlash s f).keeper = s.keeper := rfl
@[simp] theorem modFlash_moorings (f : Flash → Flash) : (modFlash s f).moorings = s.moorings := rfl
@[simp] theorem modFlash_lanterns (f : Flash → Flash) : (modFlash s f).lanterns = s.lanterns := rfl
@[simp] theorem modFlash_towers (f : Flash → Flash) : (modFlash s f).towers = s.towers := rfl
@[simp] theorem modFlash_sysChans (f : Flash → Flash) : (modFlash s f).sysChans = s.sysChans := rfl
@[simp] theorem modFlash_mem (f : Flash → Flash) : (modFlash s f).mem = s.mem := rfl
@[simp] theorem modFlash_poison (f : Flash → Flash) : (modFlash s f).poison = s.poison := rfl
@[simp] theorem modFlash_host (f : Flash → Flash) : (modFlash s f).host = s.host := rfl
@[simp] theorem modFlash_router (f : Flash → Flash) : (modFlash s f).router = s.router := rfl
@[simp] theorem modFlash_time (f : Flash → Flash) : (modFlash s f).time = s.time := rfl
@[simp] theorem modFlash_shore (f : Flash → Flash) : (modFlash s f).shore = s.shore := rfl
@[simp] theorem modFlash_out (f : Flash → Flash) : (modFlash s f).out = s.out := rfl
@[simp] theorem modFlash_free (f : Flash → Flash) : (modFlash s f).free = s.free := rfl

/-! ### modTime -/

@[simp] theorem modTime_pending (f : TimeState → TimeState) : (modTime s f).pending = s.pending := rfl
@[simp] theorem modTime_power (f : TimeState → TimeState) : (modTime s f).power = s.power := rfl
@[simp] theorem modTime_boot (f : TimeState → TimeState) : (modTime s f).boot = s.boot := rfl
@[simp] theorem modTime_flash (f : TimeState → TimeState) : (modTime s f).flash = s.flash := rfl
@[simp] theorem modTime_funcs (f : TimeState → TimeState) : (modTime s f).funcs = s.funcs := rfl
@[simp] theorem modTime_keeper (f : TimeState → TimeState) : (modTime s f).keeper = s.keeper := rfl
@[simp] theorem modTime_moorings (f : TimeState → TimeState) : (modTime s f).moorings = s.moorings := rfl
@[simp] theorem modTime_lanterns (f : TimeState → TimeState) : (modTime s f).lanterns = s.lanterns := rfl
@[simp] theorem modTime_towers (f : TimeState → TimeState) : (modTime s f).towers = s.towers := rfl
@[simp] theorem modTime_sysChans (f : TimeState → TimeState) : (modTime s f).sysChans = s.sysChans := rfl
@[simp] theorem modTime_mem (f : TimeState → TimeState) : (modTime s f).mem = s.mem := rfl
@[simp] theorem modTime_poison (f : TimeState → TimeState) : (modTime s f).poison = s.poison := rfl
@[simp] theorem modTime_host (f : TimeState → TimeState) : (modTime s f).host = s.host := rfl
@[simp] theorem modTime_router (f : TimeState → TimeState) : (modTime s f).router = s.router := rfl
@[simp] theorem modTime_time (f : TimeState → TimeState) : (modTime s f).time = f s.time := rfl
@[simp] theorem modTime_shore (f : TimeState → TimeState) : (modTime s f).shore = s.shore := rfl
@[simp] theorem modTime_out (f : TimeState → TimeState) : (modTime s f).out = s.out := rfl
@[simp] theorem modTime_free (f : TimeState → TimeState) : (modTime s f).free = s.free := rfl

/-! ### modMooring -/

@[simp] theorem modMooring_pending (id : Nat) (f : Mooring → Mooring) : (modMooring s id f).pending = s.pending := rfl
@[simp] theorem modMooring_power (id : Nat) (f : Mooring → Mooring) : (modMooring s id f).power = s.power := rfl
@[simp] theorem modMooring_boot (id : Nat) (f : Mooring → Mooring) : (modMooring s id f).boot = s.boot := rfl
@[simp] theorem modMooring_flash (id : Nat) (f : Mooring → Mooring) : (modMooring s id f).flash = s.flash := rfl
@[simp] theorem modMooring_funcs (id : Nat) (f : Mooring → Mooring) : (modMooring s id f).funcs = s.funcs := rfl
@[simp] theorem modMooring_keeper (id : Nat) (f : Mooring → Mooring) : (modMooring s id f).keeper = s.keeper := rfl
@[simp] theorem modMooring_moorings (id : Nat) (f : Mooring → Mooring) : (modMooring s id f).moorings = s.moorings.map (fun m => if m.desc.id = id then f m else m) := rfl
@[simp] theorem modMooring_lanterns (id : Nat) (f : Mooring → Mooring) : (modMooring s id f).lanterns = s.lanterns := rfl
@[simp] theorem modMooring_towers (id : Nat) (f : Mooring → Mooring) : (modMooring s id f).towers = s.towers := rfl
@[simp] theorem modMooring_sysChans (id : Nat) (f : Mooring → Mooring) : (modMooring s id f).sysChans = s.sysChans := rfl
@[simp] theorem modMooring_mem (id : Nat) (f : Mooring → Mooring) : (modMooring s id f).mem = s.mem := rfl
@[simp] theorem modMooring_poison (id : Nat) (f : Mooring → Mooring) : (modMooring s id f).poison = s.poison := rfl
@[simp] theorem modMooring_host (id : Nat) (f : Mooring → Mooring) : (modMooring s id f).host = s.host := rfl
@[simp] theorem modMooring_router (id : Nat) (f : Mooring → Mooring) : (modMooring s id f).router = s.router := rfl
@[simp] theorem modMooring_time (id : Nat) (f : Mooring → Mooring) : (modMooring s id f).time = s.time := rfl
@[simp] theorem modMooring_shore (id : Nat) (f : Mooring → Mooring) : (modMooring s id f).shore = s.shore := rfl
@[simp] theorem modMooring_out (id : Nat) (f : Mooring → Mooring) : (modMooring s id f).out = s.out := rfl
@[simp] theorem modMooring_free (id : Nat) (f : Mooring → Mooring) : (modMooring s id f).free = s.free := rfl

/-! ### modShore -/

@[simp] theorem modShore_pending (c : Nat) (f : ShoreCore → ShoreCore) : (modShore s c f).pending = s.pending := rfl
@[simp] theorem modShore_power (c : Nat) (f : ShoreCore → ShoreCore) : (modShore s c f).power = s.power := rfl
@[simp] theorem modShore_boot (c : Nat) (f : ShoreCore → ShoreCore) : (modShore s c f).boot = s.boot := rfl
@[simp] theorem modShore_flash (c : Nat) (f : ShoreCore → ShoreCore) : (modShore s c f).flash = s.flash := rfl
@[simp] theorem modShore_funcs (c : Nat) (f : ShoreCore → ShoreCore) : (modShore s c f).funcs = s.funcs := rfl
@[simp] theorem modShore_keeper (c : Nat) (f : ShoreCore → ShoreCore) : (modShore s c f).keeper = s.keeper := rfl
@[simp] theorem modShore_moorings (c : Nat) (f : ShoreCore → ShoreCore) : (modShore s c f).moorings = s.moorings := rfl
@[simp] theorem modShore_lanterns (c : Nat) (f : ShoreCore → ShoreCore) : (modShore s c f).lanterns = s.lanterns := rfl
@[simp] theorem modShore_towers (c : Nat) (f : ShoreCore → ShoreCore) : (modShore s c f).towers = s.towers := rfl
@[simp] theorem modShore_sysChans (c : Nat) (f : ShoreCore → ShoreCore) : (modShore s c f).sysChans = s.sysChans := rfl
@[simp] theorem modShore_mem (c : Nat) (f : ShoreCore → ShoreCore) : (modShore s c f).mem = s.mem := rfl
@[simp] theorem modShore_poison (c : Nat) (f : ShoreCore → ShoreCore) : (modShore s c f).poison = s.poison := rfl
@[simp] theorem modShore_host (c : Nat) (f : ShoreCore → ShoreCore) : (modShore s c f).host = s.host := rfl
@[simp] theorem modShore_router (c : Nat) (f : ShoreCore → ShoreCore) : (modShore s c f).router = s.router := rfl
@[simp] theorem modShore_time (c : Nat) (f : ShoreCore → ShoreCore) : (modShore s c f).time = s.time := rfl
@[simp] theorem modShore_shore (c : Nat) (f : ShoreCore → ShoreCore) : (modShore s c f).shore = s.shore.modify c f := rfl
@[simp] theorem modShore_out (c : Nat) (f : ShoreCore → ShoreCore) : (modShore s c f).out = s.out := rfl
@[simp] theorem modShore_free (c : Nat) (f : ShoreCore → ShoreCore) : (modShore s c f).free = s.free := rfl

/-! ### modChan and drawFree -/

@[simp] theorem modChan_pending (c : Chan) (f : DmaChan → DmaChan) : (modChan s c f).pending = s.pending := by cases c <;> rfl
@[simp] theorem modChan_power (c : Chan) (f : DmaChan → DmaChan) : (modChan s c f).power = s.power := by cases c <;> rfl
@[simp] theorem modChan_boot (c : Chan) (f : DmaChan → DmaChan) : (modChan s c f).boot = s.boot := by cases c <;> rfl
@[simp] theorem modChan_flash (c : Chan) (f : DmaChan → DmaChan) : (modChan s c f).flash = s.flash := by cases c <;> rfl
@[simp] theorem modChan_funcs (c : Chan) (f : DmaChan → DmaChan) : (modChan s c f).funcs = s.funcs := by cases c <;> rfl
@[simp] theorem modChan_keeper (c : Chan) (f : DmaChan → DmaChan) : (modChan s c f).keeper = s.keeper := by cases c <;> rfl
@[simp] theorem modChan_moorings (c : Chan) (f : DmaChan → DmaChan) : (modChan s c f).moorings = s.moorings := by cases c <;> rfl
@[simp] theorem modChan_towers (c : Chan) (f : DmaChan → DmaChan) : (modChan s c f).towers = s.towers := by cases c <;> rfl
@[simp] theorem modChan_mem (c : Chan) (f : DmaChan → DmaChan) : (modChan s c f).mem = s.mem := by cases c <;> rfl
@[simp] theorem modChan_poison (c : Chan) (f : DmaChan → DmaChan) : (modChan s c f).poison = s.poison := by cases c <;> rfl
@[simp] theorem modChan_host (c : Chan) (f : DmaChan → DmaChan) : (modChan s c f).host = s.host := by cases c <;> rfl
@[simp] theorem modChan_router (c : Chan) (f : DmaChan → DmaChan) : (modChan s c f).router = s.router := by cases c <;> rfl
@[simp] theorem modChan_time (c : Chan) (f : DmaChan → DmaChan) : (modChan s c f).time = s.time := by cases c <;> rfl
@[simp] theorem modChan_shore (c : Chan) (f : DmaChan → DmaChan) : (modChan s c f).shore = s.shore := by cases c <;> rfl
@[simp] theorem modChan_out (c : Chan) (f : DmaChan → DmaChan) : (modChan s c f).out = s.out := by cases c <;> rfl
@[simp] theorem modChan_free (c : Chan) (f : DmaChan → DmaChan) : (modChan s c f).free = s.free := by cases c <;> rfl
@[simp] theorem drawFree_pending : (drawFree s).2.pending = s.pending := rfl
@[simp] theorem drawFree_power : (drawFree s).2.power = s.power := rfl
@[simp] theorem drawFree_boot : (drawFree s).2.boot = s.boot := rfl
@[simp] theorem drawFree_flash : (drawFree s).2.flash = s.flash := rfl
@[simp] theorem drawFree_funcs : (drawFree s).2.funcs = s.funcs := rfl
@[simp] theorem drawFree_keeper : (drawFree s).2.keeper = s.keeper := rfl
@[simp] theorem drawFree_moorings : (drawFree s).2.moorings = s.moorings := rfl
@[simp] theorem drawFree_lanterns : (drawFree s).2.lanterns = s.lanterns := rfl
@[simp] theorem drawFree_towers : (drawFree s).2.towers = s.towers := rfl
@[simp] theorem drawFree_sysChans : (drawFree s).2.sysChans = s.sysChans := rfl
@[simp] theorem drawFree_mem : (drawFree s).2.mem = s.mem := rfl
@[simp] theorem drawFree_poison : (drawFree s).2.poison = s.poison := rfl
@[simp] theorem drawFree_host : (drawFree s).2.host = s.host := rfl
@[simp] theorem drawFree_router : (drawFree s).2.router = s.router := rfl
@[simp] theorem drawFree_time : (drawFree s).2.time = s.time := rfl
@[simp] theorem drawFree_shore : (drawFree s).2.shore = s.shore := rfl
@[simp] theorem drawFree_out : (drawFree s).2.out = s.out := rfl
@[simp] theorem drawFree_free : (drawFree s).2.free = s.free + 1 := rfl
@[simp] theorem drawFree_fst : (drawFree s).1 = Config.freeValue s.free := rfl

@[simp] theorem modChan_lanterns_length (c : Chan) (f : DmaChan → DmaChan) :
    (modChan s c f).lanterns.length = s.lanterns.length := by cases c <;> simp [modChan]

@[simp] theorem modChan_sysChans_length (c : Chan) (f : DmaChan → DmaChan) :
    (modChan s c f).sysChans.length = s.sysChans.length := by cases c <;> simp [modChan]

/-! ### Lists -/

theorem getD_modify_same {α : Type} (xs : List α) (i : Nat) (f : α → α) (d : α) (h : i < xs.length) :
    (xs.modify i f).getD i d = f (xs.getD i d) := by
  simp [List.getD_eq_getElem?_getD, h]

theorem getD_modify_other {α : Type} (xs : List α) {i k : Nat} (f : α → α) (d : α) (h : k ≠ i) :
    (xs.modify i f).getD k d = xs.getD k d := by
  simp [List.getD_eq_getElem?_getD, Ne.symm h]

/-- An element of a list is the default, or stands in the list. -/
theorem getD_modify_le {α : Type} (xs : List α) (i k : Nat) (f : α → α) (d : α) :
    (xs.modify i f).getD k d = if k = i ∧ k < xs.length then f (xs.getD k d) else xs.getD k d := by
  by_cases h : k = i
  · subst h
    by_cases hl : k < xs.length
    · simp [hl]
    · simp [hl, List.getD_eq_getElem?_getD]
  · rw [if_neg (fun x => h x.1), getD_modify_other _ _ _ h]

/-! ### Reading a part after changing it -/

@[simp] theorem lanternAt_modLantern_same (l : Nat) (f : Lantern → Lantern) (h : l < s.lanterns.length) :
    lanternAt (modLantern s l f) l = f (lanternAt s l) := getD_modify_same _ _ _ _ h

theorem lanternAt_modLantern_other {l k : Nat} (f : Lantern → Lantern) (h : k ≠ l) :
    lanternAt (modLantern s l f) k = lanternAt s k := getD_modify_other _ _ _ h

theorem lanternAt_modLantern (l k : Nat) (f : Lantern → Lantern) :
    lanternAt (modLantern s l f) k =
      if k = l ∧ k < s.lanterns.length then f (lanternAt s k) else lanternAt s k := getD_modify_le _ _ _ _ _

@[simp] theorem lanternAt_modVec_same (l : Nat) (f : VEngine → VEngine) (h : l < s.lanterns.length) :
    lanternAt (modVec s l f) l = { lanternAt s l with vec := f (lanternAt s l).vec } :=
  getD_modify_same _ _ _ _ h

theorem lanternAt_modVec_other {l k : Nat} (f : VEngine → VEngine) (h : k ≠ l) :
    lanternAt (modVec s l f) k = lanternAt s k := getD_modify_other _ _ _ h

@[simp] theorem funcAt_modFunc_same (i : Nat) (f : Func → Func) (h : i < s.funcs.length) :
    funcAt (modFunc s i f) i = f (funcAt s i) := getD_modify_same _ _ _ _ h

theorem funcAt_modFunc_other {i k : Nat} (f : Func → Func) (h : k ≠ i) :
    funcAt (modFunc s i f) k = funcAt s k := getD_modify_other _ _ _ h

@[simp] theorem towerAt_modTower_same (t : Nat) (f : Tower → Tower) (h : t < s.towers.length) :
    towerAt (modTower s t f) t = f (towerAt s t) := getD_modify_same _ _ _ _ h

theorem towerAt_modTower_other {t k : Nat} (f : Tower → Tower) (h : k ≠ t) :
    towerAt (modTower s t f) k = towerAt s k := getD_modify_other _ _ _ h

@[simp] theorem portAt_modPort_same (p : Nat) (f : Port → Port) (h : p < s.router.ports.length) :
    portAt (modPort s p f) p = f (portAt s p) := getD_modify_same _ _ _ _ h

theorem portAt_modPort_other {p k : Nat} (f : Port → Port) (h : k ≠ p) :
    portAt (modPort s p f) k = portAt s k := getD_modify_other _ _ _ h

@[simp] theorem mboxAt_modMbox_same (m : Mbox) (f : Mailbox → Mailbox) (h : m.func < s.funcs.length)
    (h' : m.box < (funcAt s m.func).mbox.length) : mboxAt (modMbox s m f) m = f (mboxAt s m) := by
  unfold mboxAt modMbox
  rw [funcAt_modFunc_same _ _ _ h]
  exact getD_modify_same _ _ _ _ h'

@[simp] theorem queueAt_modQueue_same (i q : Nat) (f : Queue → Queue) (h : i < s.funcs.length)
    (h' : q < (funcAt s i).queues.length) : queueAt (modQueue s i q f) i q = f (queueAt s i q) := by
  unfold queueAt modQueue
  rw [funcAt_modFunc_same _ _ _ h]
  exact getD_modify_same _ _ _ _ h'

/-- Changing a queue leaves every other queue. -/
theorem queueAt_modQueue_other {i q g k : Nat} {f : Queue → Queue} (h : (g, k) ≠ (i, q)) :
    queueAt (modQueue s i q f) g k = queueAt s g k := by
  unfold modQueue queueAt
  by_cases hg : g = i
  · subst hg
    have hk : ¬ q = k := fun e => h (by rw [e])
    by_cases hl : g < s.funcs.length
    · rw [funcAt_modFunc_same _ _ _ hl]
      simp [List.getElem?_modify, hk]
    · have e : (modFunc s g (fun x => { x with queues := x.queues.modify q f })).funcs = s.funcs :=
        List.modify_eq_self (Nat.le_of_not_lt hl)
      unfold funcAt
      rw [e]
  · rw [funcAt_modFunc_other _ _ hg]

/-- Changing a mooring so that its id stays changes that mooring. -/
theorem mooringAt_modMooring_same (id : Nat) (f : Mooring → Mooring) (h : ∀ m, (f m).desc.id = m.desc.id) :
    mooringAt (modMooring s id f) id = (mooringAt s id).map f := by
  unfold mooringAt modMooring
  induction s.moorings with
  | nil => rfl
  | cons m ms ih =>
    by_cases e : m.desc.id = id
    · simp [e, h]
    · simpa [List.find?_cons, e] using ih

theorem mooringAt_modMooring_other {id k : Nat} (f : Mooring → Mooring) (h : ∀ m, (f m).desc.id = m.desc.id)
    (hk : k ≠ id) : mooringAt (modMooring s id f) k = mooringAt s k := by
  unfold mooringAt modMooring
  induction s.moorings with
  | nil => rfl
  | cons m ms ih =>
    by_cases e : m.desc.id = id
    · have : ¬ id = k := fun x => hk x.symm
      simpa [List.find?_cons, e, h, this] using ih
    · by_cases ek : m.desc.id = k
      · have : ¬ k = id := hk
        simp [ek, this]
      · simpa [List.find?_cons, e, ek] using ih

end Sys2Proof.Machine
end

