-- ==== Sys2Proof/Laws/Parts.lean ====
section
/-! SUPPORT. Laws/Parts.lean: the well-formedness of the module's parts (registers, vector engines, lanterns,
functions) under the ways their records are changed. -/

namespace Sys2Proof.Machine

theorem length_setAt {α : Type} (xs : List α) (i : Nat) (x : α) : (setAt xs i x).length = xs.length :=
  List.length_modify ..

theorem length_bump (xs : List Nat) (i n : Nat) : (bump xs i n).length = xs.length := List.length_modify ..

theorem length_zipIdx_map {α β : Type} (xs : List α) (f : α × Nat → β) :
    (xs.zipIdx.map f).length = xs.length := (List.length_map _).trans List.length_zipIdx

/-- A property of every element outlives a change of one element that keeps it. -/
theorem forall_modify {α : Type} {P : α → Prop} {xs : List α} {i : Nat} {f : α → α} (hf : ∀ x, P x → P (f x))
    (h : ∀ x ∈ xs, P x) : ∀ x ∈ xs.modify i f, P x := by
  induction xs generalizing i with
  | nil => simp
  | cons y ys ih =>
    have hy := h y (by simp)
    have hys : ∀ x ∈ ys, P x := fun x hx => h x (by simp [hx])
    cases i with
    | zero =>
      intro x hx
      rw [List.modify_zero_cons, List.mem_cons] at hx
      rcases hx with e | hx
      · subst e; exact hf _ hy
      · exact hys x hx
    | succ i =>
      intro x hx
      rw [List.modify_succ_cons, List.mem_cons] at hx
      rcases hx with e | hx
      · subst e; exact hy
      · exact ih hys x hx

theorem forall_map {α : Type} {P : α → Prop} {xs : List α} {f : α → α} (hf : ∀ x, P x → P (f x))
    (h : ∀ x ∈ xs, P x) : ∀ x ∈ xs.map f, P x := by
  intro x hx
  obtain ⟨y, hy, e⟩ := List.mem_map.1 hx
  exact e ▸ hf _ (h y hy)

theorem mem_of_mem_zipIdx {α : Type} {xs : List α} {n : Nat} {p : α × Nat} (h : p ∈ xs.zipIdx n) : p.1 ∈ xs := by
  induction xs generalizing n with
  | nil => simp at h
  | cons y ys ih =>
    rw [List.zipIdx_cons, List.mem_cons] at h
    rcases h with e | h
    · simp [e]
    · simp [ih h]

theorem forall_zipIdx_map {α : Type} {P : α → Prop} {xs : List α} {f : α × Nat → α} (hf : ∀ p, P p.1 → P (f p))
    (h : ∀ x ∈ xs, P x) : ∀ x ∈ xs.zipIdx.map f, P x := by
  intro x hx
  obtain ⟨p, hp, e⟩ := List.mem_map.1 hx
  exact e ▸ hf _ (h _ (mem_of_mem_zipIdx hp))

theorem forall_getD {α : Type} {P : α → Prop} {xs : List α} {d : α} {i : Nat} (hd : P d) (h : ∀ x ∈ xs, P x) :
    P (xs.getD i d) := by
  rw [List.getD_eq_getElem?_getD]
  cases e : xs[i]? with
  | none => exact hd
  | some x => exact h x (List.mem_of_getElem? e)

/-! ### Vector registers -/

theorem vregOk_mk {lanes : List Lane} {g : List Int} (h1 : lanes.length = 128) (h2 : g.length = 4) :
    (VReg.mk lanes g).Ok := ⟨h1, h2⟩

theorem vregOk_lanes {r : VReg} (h : r.Ok) : r.lanes.length = 128 := h.1

theorem vregOk_g {r : VReg} (h : r.Ok) : r.g.length = 4 := h.2

theorem vregOk_zero : VReg.zero.Ok := ⟨List.length_replicate, rfl⟩

theorem regsOk_modify {rs : List VReg} {n : Nat} {f : VReg → VReg} (hf : ∀ r, r.Ok → (f r).Ok) (h : RegsOk rs) :
    RegsOk (rs.modify n f) := ⟨(List.length_modify ..).trans h.1, forall_modify hf h.2⟩

theorem regsOk_zipIdx_map {rs : List VReg} {f : VReg × Nat → VReg} (hf : ∀ p, p.1.Ok → (f p).Ok) (h : RegsOk rs) :
    RegsOk (rs.zipIdx.map f) := ⟨(length_zipIdx_map ..).trans h.1, forall_zipIdx_map hf h.2⟩

theorem regsOk_replicate : RegsOk (List.replicate 64 VReg.zero) :=
  ⟨List.length_replicate, fun _ h => (List.eq_of_mem_replicate h) ▸ vregOk_zero⟩

/-! ### Vector engines -/

theorem veOk_mk {regs masks addr cur tabOf tables row rowsRun nrows todo index unstored tailRun idx lstride mbase flags
    gtop ghalf gsat loadQ storeQ peerTags} (h1 : RegsOk regs) (h2 : masks.length = 8) :
    (VEngine.mk regs masks addr cur tabOf tables row rowsRun nrows todo index unstored tailRun idx lstride mbase flags
      gtop ghalf gsat loadQ storeQ peerTags).Ok := ⟨h1, h2⟩

theorem veOk_regs {v : VEngine} (h : v.Ok) : RegsOk v.regs := h.1

theorem veOk_masks {v : VEngine} (h : v.Ok) : v.masks.length = 8 := h.2

theorem masksOk_start (m : BitVec 128) : (m :: List.replicate 7 (0 : BitVec 128)).length = 8 := rfl

theorem masksOk_first {m : BitVec 128} {ms : List (BitVec 128)} (h : ms.length = 8) :
    (m :: ms.drop 1).length = 8 := by simp [h]

theorem veOk_reset : VEngine.reset.Ok := ⟨regsOk_replicate, rfl⟩

theorem vregOk_regAt {v : VEngine} {n : Nat} (h : v.Ok) : (regAt v n).Ok := forall_getD vregOk_zero h.1.2

theorem ok_modReg {v : VEngine} {n : Nat} {f : VReg → VReg} (hf : ∀ r, r.Ok → (f r).Ok) (h : v.Ok) : (modReg v n f).Ok :=
  ⟨regsOk_modify hf h.1, h.2⟩

theorem veOk_foldl {α : Type} {g : VEngine → α → VEngine} {xs : List α} {v : VEngine}
    (hg : ∀ v x, v.Ok → (g v x).Ok) (h : v.Ok) : (xs.foldl g v).Ok := by
  induction xs generalizing v with
  | nil => exact h
  | cons x xs ih => exact ih (hg _ _ h)

/-! ### Lanterns -/

theorem lanternOk_mk {phys fault rst mooring sched turn pc running waiting holding updHold endIssued endRetired events
    passesRead windows lensQ tile shadow loading fastClk lensStep heldSteps lensNow passStart loadEnd emptyFrom lastMode lensCnt acc
    accTag grad gradTag drainQ vec bindQ dma coll collCnt collHeld truncated beacon sampled still waits daymark stall
    filling fillSteps throttle level fcnt} (h1 : vec.Ok) (h2 : events.length = 16) (h3 : dma.length = 4) :
    (Lantern.mk phys fault rst mooring sched turn pc running waiting holding updHold endIssued endRetired events
      passesRead windows lensQ tile shadow loading fastClk lensStep heldSteps lensNow passStart loadEnd emptyFrom lastMode lensCnt acc
      accTag grad gradTag drainQ vec bindQ dma coll collCnt collHeld truncated beacon sampled still waits daymark stall
      filling fillSteps throttle level fcnt).Ok := ⟨h1, h2, h3⟩

theorem lanternOk_vec {x : Lantern} (h : x.Ok) : x.vec.Ok := h.1

theorem lanternOk_events {x : Lantern} (h : x.Ok) : x.events.length = 16 := h.2.1

theorem lanternOk_dma {x : Lantern} (h : x.Ok) : x.dma.length = 4 := h.2.2

theorem lanternOk_reset : Lantern.reset.Ok := ⟨veOk_reset, rfl, rfl⟩

theorem lanternOk_foldl {α : Type} {g : Lantern → α → Lantern} {xs : List α} {v : Lantern}
    (hg : ∀ v x, v.Ok → (g v x).Ok) (h : v.Ok) : (xs.foldl g v).Ok := by
  induction xs generalizing v with
  | nil => exact h
  | cons x xs ih => exact ih (hg _ _ h)

theorem lanternsOk_modify {xs : List Lantern} {n : Nat} {f : Lantern → Lantern} (hf : ∀ x, x.Ok → (f x).Ok)
    (h : LanternsOk xs) : LanternsOk (xs.modify n f) := ⟨(List.length_modify ..).trans h.1, forall_modify hf h.2⟩

theorem lanternsOk_map {xs : List Lantern} {f : Lantern → Lantern} (hf : ∀ x, x.Ok → (f x).Ok)
    (h : LanternsOk xs) : LanternsOk (xs.map f) := ⟨(List.length_map ..).trans h.1, forall_map hf h.2⟩

theorem lanternsOk_zipIdx_map {xs : List Lantern} {f : Lantern × Nat → Lantern} (hf : ∀ p, p.1.Ok → (f p).Ok)
    (h : LanternsOk xs) : LanternsOk (xs.zipIdx.map f) := ⟨(length_zipIdx_map ..).trans h.1, forall_zipIdx_map hf h.2⟩

theorem lanternsOk_reset : LanternsOk (List.replicate 192 Lantern.reset) :=
  ⟨List.length_replicate, fun _ h => (List.eq_of_mem_replicate h) ▸ lanternOk_reset⟩

/-! ### Functions -/

theorem funcOk_mk {mbox queues intStatus msixTable pba bme mse present viewAcc lostSeals privRef unheard attLog attHead
    reported slots shown} (h1 : mbox.length = 4) (h2 : queues.length = 16) (h3 : slots.length = 8) :
    (Func.mk mbox queues intStatus msixTable pba bme mse present viewAcc lostSeals privRef unheard attLog attHead
      reported slots shown).Ok := ⟨h1, h2, h3⟩

theorem funcOk_mbox {f : Func} (h : f.Ok) : f.mbox.length = 4 := h.1

theorem funcOk_queues {f : Func} (h : f.Ok) : f.queues.length = 16 := h.2.1

theorem funcOk_slots {f : Func} (h : f.Ok) : f.slots.length = 8 := h.2.2

theorem funcOk_reset : Func.reset.Ok := ⟨rfl, rfl, rfl⟩

theorem funcsOk_reset : FuncsOk (List.replicate 44 Func.reset) :=
  ⟨List.length_replicate, fun _ h => (List.eq_of_mem_replicate h) ▸ funcOk_reset⟩

theorem funcsOk_modify {fs : List Func} {n : Nat} {g : Func → Func} (hg : ∀ f, f.Ok → (g f).Ok) (h : FuncsOk fs) :
    FuncsOk (fs.modify n g) := ⟨(List.length_modify ..).trans h.1, forall_modify hg h.2⟩

theorem funcsOk_map {fs : List Func} {g : Func → Func} (hg : ∀ f, f.Ok → (g f).Ok) (h : FuncsOk fs) :
    FuncsOk (fs.map g) := ⟨(List.length_map ..).trans h.1, forall_map hg h.2⟩

theorem funcsOk_zipIdx_map {fs : List Func} {g : Func × Nat → Func} (hg : ∀ p, p.1.Ok → (g p).Ok) (h : FuncsOk fs) :
    FuncsOk (fs.zipIdx.map g) := ⟨(length_zipIdx_map ..).trans h.1, forall_zipIdx_map hg h.2⟩

end Sys2Proof.Machine
end

