-- ==== Sys2Proof/Laws/Inv.lean ====
section
/-! SUPPORT. Laws/Inv.lean: the operations that change one part of the state keep the invariant State.Inv. A lemma of
this family, named inv_ and the operation, says it once of each operation of the model; the lemmas about the commands say it
of each command's meaning. -/

namespace Sys2Proof.Machine

/-- An outcome whose next state, if it is one, has the invariant. -/
def OutcomeInv (o : Host.Outcome State Fault Refusal) : Prop :=
  match o with
  | .next t => t.Inv
  | .fault _ => True
  | .refused _ => True

theorem outcomeInv_next {t : State} (h : t.Inv) : OutcomeInv (.next t) := h

theorem outcomeInv_fault {r : Fault} : OutcomeInv (.fault r) := trivial

/-- What an outcome with the invariant says of a next state. -/
theorem outcomeInv_apply {o : Host.Outcome State Fault Refusal} {t : State} (h : OutcomeInv o) (e : o = .next t) :
    t.Inv := by
  subst e
  exact h

/-- A result that may be a state: if it is one, it has the invariant. -/
def ExceptInv (r : Except Nat State) : Prop := ∀ t, r = .ok t → t.Inv

def OptionInv (r : Option State) : Prop := ∀ t, r = some t → t.Inv

theorem exceptInv_ok {t : State} (h : t.Inv) : ExceptInv (.ok t) := by
  intro u e
  cases e
  exact h

theorem exceptInv_error {n : Nat} : ExceptInv (.error n) := by
  intro u e
  cases e

theorem exceptInv_apply {r : Except Nat State} {t : State} (h : ExceptInv r) (e : r = .ok t) : t.Inv := h t e

theorem optionInv_some {t : State} (h : t.Inv) : OptionInv (some t) := by
  intro u e
  cases e
  exact h

theorem optionInv_none : OptionInv none := by
  intro u e
  cases e

theorem optionInv_apply {r : Option State} {t : State} (h : OptionInv r) (e : r = some t) : t.Inv := h t e

theorem inv_of_fst {β : Type} {p : State × β} {t : State} {b : β} (h : p.1.Inv) (e : p = (t, b)) : t.Inv := by
  subst e
  exact h

theorem inv_of_snd {β : Type} {p : β × State} {t : State} {b : β} (h : p.2.Inv) (e : p = (b, t)) : t.Inv := by
  subst e
  exact h

/-- A state whose parts are as well-formed as those of one with the invariant, in the same numbers, has it. -/
theorem inv_struct {s : State} {pending power boot flash funcs keeper moorings lanterns towers sysChans mem poison host
    router time shore out free} (h1 : LanternsOk s.lanterns → LanternsOk lanterns) (h2 : FuncsOk s.funcs → FuncsOk funcs)
    (h3 : sysChans.length = s.sysChans.length) (h4 : router.ports.length = s.router.ports.length)
    (h5 : shore.length = s.shore.length) (h6 : towers.length = s.towers.length)
    (h7 : memoryWf s.mem = true → memoryWf mem = true) (h : s.Inv) :
    (State.mk pending power boot flash funcs keeper moorings lanterns towers sysChans mem poison host router time
      shore out free).Inv := by
  obtain ⟨⟨a, b, c, d, e, f⟩, m⟩ := h
  exact ⟨⟨h1 a, h2 b, h3.trans c, h4.trans d, h5.trans e, h6.trans f⟩, h7 m⟩

theorem lanternOk_lanternAt {s : State} {l : Nat} (h : s.Inv) : (lanternAt s l).Ok := forall_getD lanternOk_reset h.1.1.2

theorem funcOk_funcAt {s : State} {f : Nat} (h : s.Inv) : (funcAt s f).Ok := forall_getD funcOk_reset h.1.2.1.2

theorem inv_foldl {α : Type} {g : State → α → State} {xs : List α} {s : State}
    (hg : ∀ s x, s.Inv → (g s x).Inv) (h : s.Inv) : (xs.foldl g s).Inv := by
  induction xs generalizing s with
  | nil => exact h
  | cons x xs ih => exact ih (hg _ _ h)

theorem inv_foldr {α : Type} {g : α → State → State} {xs : List α} {s : State}
    (hg : ∀ x s, s.Inv → (g x s).Inv) (h : s.Inv) : (xs.foldr g s).Inv := by
  induction xs with
  | nil => exact h
  | cons x xs ih => exact hg _ _ ih

/-- The same for a fold that carries something beside the state. -/
theorem inv_foldl_fst {α β : Type} {g : State × β → α → State × β} {xs : List α} {p : State × β}
    (hg : ∀ p x, p.1.Inv → (g p x).1.Inv) (h : p.1.Inv) : (xs.foldl g p).1.Inv := by
  induction xs generalizing p with
  | nil => exact h
  | cons x xs ih => exact ih (hg _ _ h)

theorem inv_foldl_snd {α β : Type} {g : β × State → α → β × State} {xs : List α} {p : β × State}
    (hg : ∀ p x, p.2.Inv → (g p x).2.Inv) (h : p.2.Inv) : (xs.foldl g p).2.Inv := by
  induction xs generalizing p with
  | nil => exact h
  | cons x xs ih => exact ih (hg _ _ h)

variable {s : State}

theorem inv_modLantern {l : Nat} {f : Lantern → Lantern} (hf : ∀ x, x.Ok → (f x).Ok) (h : s.Inv) :
    (modLantern s l f).Inv := inv_struct (lanternsOk_modify hf) id rfl rfl rfl rfl id h

theorem inv_modVec {l : Nat} {f : VEngine → VEngine} (hf : ∀ v, v.Ok → (f v).Ok) (h : s.Inv) : (modVec s l f).Inv :=
  inv_modLantern (fun _ hx => ⟨hf _ hx.1, hx.2⟩) h

theorem inv_modTower {t : Nat} {f : Tower → Tower} (h : s.Inv) : (modTower s t f).Inv :=
  inv_struct id id rfl rfl rfl (by simp) id h

theorem inv_modChan {c : Chan} {f : DmaChan → DmaChan} (h : s.Inv) : (modChan s c f).Inv := by
  cases c with
  | lantern l k => exact inv_modLantern (fun _ hx => ⟨hx.1, hx.2.1, (List.length_modify ..).trans hx.2.2⟩) h
  | system n => exact inv_struct id id (by simp) rfl rfl rfl id h

theorem inv_modFunc {i : Nat} {f : Func → Func} (hf : ∀ x, x.Ok → (f x).Ok) (h : s.Inv) : (modFunc s i f).Inv :=
  inv_struct id (funcsOk_modify hf) rfl rfl rfl rfl id h

theorem inv_modMbox {m : Mbox} {f : Mailbox → Mailbox} (h : s.Inv) : (modMbox s m f).Inv :=
  inv_modFunc (fun _ hx => ⟨(List.length_modify ..).trans hx.1, hx.2⟩) h

theorem inv_modQueue {i q : Nat} {f : Queue → Queue} (h : s.Inv) : (modQueue s i q f).Inv :=
  inv_modFunc (fun _ hx => ⟨hx.1, (List.length_modify ..).trans hx.2.1, hx.2.2⟩) h

theorem inv_modRouter {f : Router → Router} (hf : (f s.router).ports.length = s.router.ports.length) (h : s.Inv) :
    (modRouter s f).Inv := inv_struct id id rfl hf rfl rfl id h

theorem inv_modPort {p : Nat} {f : Port → Port} (h : s.Inv) : (modPort s p f).Inv := inv_modRouter (by simp) h

theorem inv_modKeeper {f : Keeper → Keeper} (h : s.Inv) : (modKeeper s f).Inv := h

theorem inv_modPower {f : Power → Power} (h : s.Inv) : (modPower s f).Inv := h

theorem inv_modBoot {f : Boot → Boot} (h : s.Inv) : (modBoot s f).Inv := h

theorem inv_modFlash {f : Flash → Flash} (h : s.Inv) : (modFlash s f).Inv := h

theorem inv_modTime {f : TimeState → TimeState} (h : s.Inv) : (modTime s f).Inv := h

theorem inv_modMooring {id : Nat} {f : Mooring → Mooring} (h : s.Inv) : (modMooring s id f).Inv := h

theorem inv_modShore {c : Nat} {f : ShoreCore → ShoreCore} (h : s.Inv) : (modShore s c f).Inv :=
  inv_struct id id rfl rfl (by simp) rfl id h

theorem inv_drawFree (h : s.Inv) : (drawFree s).2.Inv := h

end Sys2Proof.Machine
end

