-- ==== Sys2Proof/Laws/Answer.lean ====
section
/-! SUPPORT. Laws/Answer.lean: what answering a request leaves in the state (R373, R378). -/

namespace Sys2Proof.Machine

variable {s : State} {m : Mbox} {r : Request}

theorem sameWork_refl (s : State) : SameWork s s := ⟨rfl, rfl, rfl, rfl, rfl, rfl, rfl, rfl, rfl, rfl, rfl, rfl⟩

theorem SameWork.trans {s t u : State} (h : SameWork s t) (k : SameWork t u) : SameWork s u := by
  obtain ⟨a1, a2, a3, a4, a5, a6, a7, a8, a9, a10, a11, a12⟩ := h
  obtain ⟨b1, b2, b3, b4, b5, b6, b7, b8, b9, b10, b11, b12⟩ := k
  exact ⟨b1.trans a1, b2.trans a2, b3.trans a3, b4.trans a4, b5.trans a5, b6.trans a6, b7.trans a7, b8.trans a8,
    b9.trans a9, b10.trans a10, b11.trans a11, b12.trans a12⟩

/-- Raising a vector touches the function's interrupt state and what is sent, nothing else (R402). -/
theorem raiseVector_sameWork (f v : Nat) : SameWork s (raiseVector s f v) := by
  unfold raiseVector
  dsimp only
  repeat' split
  all_goals exact sameWork_refl s

theorem raiseVector_keeper (f v : Nat) : (raiseVector s f v).keeper = s.keeper := by
  unfold raiseVector
  dsimp only
  repeat' split
  all_goals rfl

theorem raiseVector_host (f v : Nat) : (raiseVector s f v).host = s.host := by
  unfold raiseVector
  dsimp only
  repeat' split
  all_goals rfl

theorem raiseVector_free (f v : Nat) : (raiseVector s f v).free = s.free := by
  unfold raiseVector
  dsimp only
  repeat' split
  all_goals rfl

/-- A function whose mailboxes, queues and slots a change leaves alone. -/
theorem funcAt_modFunc_keeps {α : Type} (π : Func → α) (i k : Nat) (f : Func → Func) (hf : ∀ x, π (f x) = π x) :
    π (funcAt (modFunc s i f) k) = π (funcAt s k) := by
  by_cases hk : k = i
  · subst hk
    by_cases h : k < s.funcs.length
    · rw [funcAt_modFunc_same _ _ _ h, hf]
    · unfold funcAt modFunc
      rw [getD_modify_le, if_neg (fun x => h x.2)]
  · rw [funcAt_modFunc_other _ _ hk]

theorem raiseVector_func {α : Type} (π : Func → α) (hf : ∀ x i p, π { x with intStatus := i, pba := p } = π x) (f v k : Nat) :
    π (funcAt (raiseVector s f v) k) = π (funcAt s k) := by
  have h1 : π (funcAt (modFunc s f (fun y => { y with intStatus := y.intStatus ||| (1#64 <<< v) })) k) = π (funcAt s k) :=
    funcAt_modFunc_keeps π f k _ (fun x => hf x _ x.pba)
  unfold raiseVector
  dsimp only
  split
  · exact h1
  · split
    · rw [funcAt_modFunc_keeps π f k _ (fun x => hf x x.intStatus _)]
      exact h1
    · split <;> exact h1

@[simp] theorem raiseVector_mboxAt (f v : Nat) (q : Mbox) : mboxAt (raiseVector s f v) q = mboxAt s q := by
  unfold mboxAt
  rw [raiseVector_func Func.mbox (fun _ _ _ => rfl)]

@[simp] theorem raiseVector_queueAt (f v g q : Nat) : queueAt (raiseVector s f v) g q = queueAt s g q := by
  unfold queueAt
  rw [raiseVector_func Func.queues (fun _ _ _ => rfl)]

/-- The response of a request whose result fits the slot: nothing but the host interface changes. -/
theorem answer_sameWork {status : Nat} {result : List Byte} {detail : Nat} (h : result.length ≤ 4056) :
    SameWork s (answer s m r status result detail) := by
  have hn : ¬ (4056 < result.length ∧ r.out ≠ 0) := fun x => by omega
  unfold answer
  simp only [if_neg hn]
  split <;> split
  · exact raiseVector_sameWork _ _
  · exact raiseVector_sameWork _ _
  · exact sameWork_refl s
  · exact sameWork_refl s

theorem answer_keeper {status : Nat} {result : List Byte} {detail : Nat} (h : result.length ≤ 4056) :
    (answer s m r status result detail).keeper = s.keeper := by
  have hn : ¬ (4056 < result.length ∧ r.out ≠ 0) := fun x => by omega
  unfold answer
  simp only [if_neg hn]
  split <;> split <;> simp [raiseVector_keeper]

theorem answer_host {status : Nat} {result : List Byte} {detail : Nat} (h : result.length ≤ 4056) :
    (answer s m r status result detail).host = s.host := by
  have hn : ¬ (4056 < result.length ∧ r.out ≠ 0) := fun x => by omega
  unfold answer
  simp only [if_neg hn]
  split <;> split <;> simp [raiseVector_host]

/-- The state with a response written, before it is counted or announced (R373). -/
def responded (s : State) (m : Mbox) (r : Request) (status : Nat) (result : List Byte) (detail : Nat) : State :=
  modMbox s m (fun x => { x with
    respBody := slotOf (responseHeader r.seq r.opcode status r.tag result.length 0 detail ++ result),
    respSeq := r.seq, respLen := result.length, req := none })

/-- What answering does beyond writing the response: a refusal for privilege is counted, RIRQ raises vector 0. -/
theorem answer_eq {status : Nat} {result : List Byte} {detail : Nat} (h : result.length ≤ 4056) :
    answer s m r status result detail =
      let s2 := if status = stPrivilege then
          modFunc (responded s m r status result detail) m.func (fun x => { x with privRef := x.privRef + 1 })
        else responded s m r status result detail
      if r.rirq then raiseVector s2 m.func 0 else s2 := by
  have hn : ¬ (4056 < result.length ∧ r.out ≠ 0) := fun x => by omega
  have ht : result.take 4056 = result := List.take_of_length_le h
  unfold answer responded
  simp only [if_neg hn, ht]

/-- What a response leaves of a function: everything that neither a response, nor the count of refusals, nor the
interrupt state holds. -/
theorem answer_func {α : Type} (π : Func → α) (h1 : ∀ x b, π { x with mbox := b } = π x)
    (h2 : ∀ x n, π { x with privRef := n } = π x) (h3 : ∀ x i p, π { x with intStatus := i, pba := p } = π x)
    {status : Nat} {result : List Byte} {detail : Nat} (h : result.length ≤ 4056) (f : Nat) :
    π (funcAt (answer s m r status result detail) f) = π (funcAt s f) := by
  have a : π (funcAt (responded s m r status result detail) f) = π (funcAt s f) :=
    funcAt_modFunc_keeps π _ f _ (fun x => h1 x _)
  rw [answer_eq h]
  dsimp only
  split <;> split
  · rw [raiseVector_func π h3, funcAt_modFunc_keeps π _ f _ (fun x => h2 x _), a]
  · rw [raiseVector_func π h3, a]
  · rw [funcAt_modFunc_keeps π _ f _ (fun x => h2 x _), a]
  · exact a

/-- Answering leaves every function's queues as they are. -/
theorem answer_queueAt {status : Nat} {result : List Byte} {detail f q : Nat} (h : result.length ≤ 4056) :
    queueAt (answer s m r status result detail) f q = queueAt s f q := by
  unfold queueAt
  rw [answer_func Func.queues (fun _ _ => rfl) (fun _ _ => rfl) (fun _ _ _ => rfl) h]

theorem responded_mbox {status : Nat} {result : List Byte} {detail : Nat} (hi : s.Inv)
    (hm : m.ok = true) :
    mboxAt (responded s m r status result detail) m = { mboxAt s m with
    respBody := slotOf (responseHeader r.seq r.opcode status r.tag result.length 0 detail ++ result),
    respSeq := r.seq, respLen := result.length, req := none } := by
  unfold Mbox.ok at hm
  simp only [Bool.and_eq_true, decide_eq_true_eq] at hm
  have h1 : m.func < s.funcs.length := by
    rw [hi.1.2.1.1]
    exact hm.1
  have h2 : m.box < (funcAt s m.func).mbox.length := by
    rw [(funcOk_funcAt hi).1]
    exact hm.2
  exact mboxAt_modMbox_same s m _ h1 h2

theorem answered_of_mboxAt {t : State} {status : Nat} {result : List Byte} {detail : Nat} (hi : s.Inv)
    (hm : m.ok = true) (e : mboxAt t m = mboxAt (responded s m r status result detail) m) :
    Answered t m r status result detail := by
  rw [responded_mbox hi hm] at e
  unfold Answered
  simp only [e, true_and]

/-- Of the mailbox, answering writes the response and takes the request away. -/
theorem answer_mboxAt {status : Nat} {result : List Byte} {detail : Nat} (h : result.length ≤ 4056) (q : Mbox) :
    mboxAt (answer s m r status result detail) q = mboxAt (responded s m r status result detail) q := by
  have h3 : ∀ u : State, mboxAt (modFunc u m.func (fun x => { x with privRef := x.privRef + 1 })) q = mboxAt u q := by
    intro u
    unfold mboxAt
    rw [funcAt_modFunc_keeps Func.mbox m.func q.func (fun x => { x with privRef := x.privRef + 1 }) (fun _ => rfl)]
  rw [answer_eq h]
  dsimp only
  split <;> split
  · rw [raiseVector_mboxAt, h3]
  · rw [raiseVector_mboxAt]
  · rw [h3]
  · rfl

/-- The response stands in the mailbox. -/
theorem answer_answered {status : Nat} {result : List Byte} {detail : Nat} (hi : s.Inv) (hm : m.ok = true)
    (h : result.length ≤ 4056) : Answered (answer s m r status result detail) m r status result detail :=
  answered_of_mboxAt hi hm (answer_mboxAt h m)

/-- Everything that answering does and leaves. -/
theorem answer_all (status : Nat) (result : List Byte) (detail : Nat) (hi : s.Inv) (hm : m.ok = true)
    (h : result.length ≤ 4056) :
    Answered (answer s m r status result detail) m r status result detail ∧ SameWork s (answer s m r status result detail) ∧
    (answer s m r status result detail).keeper = s.keeper ∧ (answer s m r status result detail).host = s.host ∧
    ∀ f q, queueAt (answer s m r status result detail) f q = queueAt s f q :=
  ⟨answer_answered hi hm h, answer_sameWork h, answer_keeper h, answer_host h, fun _ _ => answer_queueAt h⟩

/-! ### Which way a command goes -/

variable {op : Nat} {act : Request → State → State}

/-- A request that passes the shared checks is acted on. -/
theorem next_asked (h : Asked s m op r) :
    (Host.Outcome.next (runCommand s m op act) : Host.Outcome State Fault Refusal) = .next (act r s) := by
  obtain ⟨h1, h2, h3, h5, h4⟩ := h
  unfold runCommand
  simp only [h1, h2, h3, h4, h5]
  simp

/-- A request that a shared check refuses is answered with that status. -/
theorem next_refused {st : Nat} (h1 : (mboxAt s m).req = some r) (h2 : r.opcode = op) (h3 : keeperExamines s = true)
    (h5 : firstInLine s r = true) (h4 : commandCheck s m.func r = some st) :
    (Host.Outcome.next (runCommand s m op act) : Host.Outcome State Fault Refusal) = .next (answer s m r st [] 0) := by
  unfold runCommand
  simp only [h1, h2, h3, h4, h5]
  simp

/-- Without its request a command changes nothing. -/
theorem next_unasked (h : (mboxAt s m).req = none ∨ (∃ r, (mboxAt s m).req = some r ∧ r.opcode ≠ op) ∨
    keeperExamines s = false ∨ (∃ r, (mboxAt s m).req = some r ∧ firstInLine s r = false)) :
    (Host.Outcome.next (runCommand s m op act) : Host.Outcome State Fault Refusal) = .next s := by
  unfold runCommand
  rcases h with h | ⟨q, h, h2⟩ | h | ⟨q, h, h2⟩
  · rw [h]
  · rw [h]
    simp [h2]
  · split
    · rfl
    · simp [h]
  · rw [h]
    simp [h2]

end Sys2Proof.Machine
end

