-- ==== Sys2Proof/Laws/InvRoute.lean ====
section
/-! SUPPORT. Laws/InvRoute.lean: the operations of Machine/Route.lean keep the invariant State.Inv. -/

namespace Sys2Proof.Machine

theorem inv_bumpPort {s : State} {p : Nat} {i : Nat} {n : Nat}
    (ok_s : s.Inv) : (bumpPort s p i n).Inv := by
  unfold bumpPort
  repeat' with_reducible first | assumption | apply inv_modPort | intro _ | split | dsimp only

theorem inv_bumpDrop {s : State} {p : Nat} {i : Nat}
    (ok_s : s.Inv) : (bumpDrop s p i).Inv := by
  unfold bumpDrop
  repeat' with_reducible first | assumption | apply inv_modPort | intro _ | split | dsimp only

theorem inv_bumpEnd {s : State} {i : Nat} {n : Nat}
    (ok_s : s.Inv) : (bumpEnd s i n).Inv := by
  unfold bumpEnd
  repeat' with_reducible first | assumption | apply inv_modRouter | intro _ | split | dsimp only | rfl | exact List.length_map _ | exact List.length_modify .. | exact (List.length_map _).trans List.length_zipIdx

theorem inv_countHit {s : State} {hit : Option Nat}
    (ok_s : s.Inv) : (countHit s hit).Inv := by
  unfold countHit
  repeat' with_reducible first | assumption | apply inv_modRouter | intro _ | split | dsimp only | rfl | exact List.length_map _ | exact List.length_modify .. | exact (List.length_map _).trans List.length_zipIdx

theorem inv_noteCross {s : State} {src : Option Nat} {out : Nat} {p : Packet}
    (ok_s : s.Inv) : (noteCross s src out p).Inv := by
  unfold noteCross
  repeat' with_reducible first | assumption | apply inv_modRouter | (refine inv_of_fst ?_ (by assumption)) | (refine inv_of_snd ?_ (by assumption)) | apply lanternOk_lanternAt | apply lanternOk_vec | apply vregOk_regAt | apply veOk_regs | apply veOk_masks | apply regsOk_modify | apply regsOk_zipIdx_map | exact regsOk_replicate | exact masksOk_start _ | apply masksOk_first | apply (List.length_modify ..).trans | apply (length_setAt ..).trans | apply (length_bump ..).trans | apply (length_zipIdx_map ..).trans | apply (List.length_map ..).trans | exact List.length_replicate | rfl | apply veOk_foldl | apply lanternOk_foldl | intro _ | split | apply inv_foldl | apply inv_foldl_fst | apply inv_foldl_snd | apply inv_foldr | dsimp only | apply veOk_mk

theorem inv_noteSent {s : State} {port : Nat} {p : Packet}
    (ok_s : s.Inv) : (noteSent s port p).Inv := by
  unfold noteSent
  repeat' with_reducible first | assumption | apply inv_modPort | (refine inv_of_fst ?_ (by assumption)) | (refine inv_of_snd ?_ (by assumption)) | apply lanternOk_lanternAt | apply lanternOk_vec | apply vregOk_regAt | apply veOk_regs | apply veOk_masks | apply regsOk_modify | apply regsOk_zipIdx_map | exact regsOk_replicate | exact masksOk_start _ | apply masksOk_first | apply (List.length_modify ..).trans | apply (length_setAt ..).trans | apply (length_bump ..).trans | apply (length_zipIdx_map ..).trans | apply (List.length_map ..).trans | exact List.length_replicate | rfl | apply veOk_foldl | apply lanternOk_foldl | intro _ | split | apply inv_foldl | apply inv_foldl_fst | apply inv_foldl_snd | apply inv_foldr | dsimp only | apply veOk_mk

theorem inv_sendBy {s : State} {src : Option Nat} {port : Nat} {p : Packet}
    (ok_s : s.Inv) : (sendBy s src port p).Inv := by
  unfold sendBy
  repeat' with_reducible first | assumption | apply inv_noteSent | apply inv_noteCross | apply inv_modPort | intro _ | split | dsimp only

theorem inv_inject {s : State} {p : Packet}
    (ok_s : s.Inv) : (inject s p).Inv := by
  unfold inject
  repeat' with_reducible first | assumption | apply inv_modPort | apply inv_sendBy | apply inv_bumpDrop | apply inv_countHit | apply inv_tryHop | apply inv_modRouter | (refine inv_of_fst ?_ (by assumption)) | intro _ | split | dsimp only | rfl | exact List.length_map _ | exact List.length_modify .. | exact (List.length_map _).trans List.length_zipIdx

theorem inv_modStream {s : State} {dest : Nat} {cls : Nat} {f : SrcStream → SrcStream}
    (ok_s : s.Inv) : (modStream s dest cls f).Inv := by
  unfold modStream
  repeat' with_reducible first | assumption | apply inv_modRouter | intro _ | split | dsimp only | rfl | exact List.length_map _ | exact List.length_modify .. | exact (List.length_map _).trans List.length_zipIdx

theorem inv_openStream {s : State} {dest : Nat} {cls : Nat}
    (ok_s : s.Inv) : (openStream s dest cls).Inv := by
  unfold openStream
  repeat' with_reducible first | assumption | apply inv_modRouter | intro _ | split | dsimp only | rfl | exact List.length_map _ | exact List.length_modify .. | exact (List.length_map _).trans List.length_zipIdx

theorem inv_emitSeq {s : State} {tower : Nat} {t : SrcStream} {p : Packet}
    (ok_s : s.Inv) : (emitSeq s tower t p).Inv := by
  unfold emitSeq
  repeat' with_reducible first | assumption | apply inv_modStream | apply inv_modRouter | apply inv_inject | apply inv_bumpEnd | intro _ | split | dsimp only | rfl | exact List.length_map _ | exact List.length_modify .. | exact (List.length_map _).trans List.length_zipIdx

theorem inv_sendSeq {s : State} {tower : Nat} {p : Packet}
    (ok_s : s.Inv) : (sendSeq s tower p).Inv := by
  unfold sendSeq
  repeat' with_reducible first | assumption | apply inv_openStream | apply inv_emitSeq | apply inv_modStream | intro _ | split | dsimp only

theorem inv_releaseHeld {dest : Nat} {cls : Nat} {x1 : Nat} {x2 : State}
    (ok_x2 : x2.Inv) : (releaseHeld dest cls x1 x2).Inv := by
  induction x1 generalizing x2 with
  | zero =>
    unfold releaseHeld
    repeat' with_reducible first | assumption | apply inv_emitSeq | apply inv_modStream | intro _ | split | dsimp only
  | succ n ih =>
    unfold releaseHeld
    repeat' with_reducible first | assumption | apply ih | apply inv_emitSeq | apply inv_modStream | intro _ | split | dsimp only

theorem inv_releaseAll {s : State}
    (ok_s : s.Inv) : (releaseAll s).Inv := by
  unfold releaseAll
  repeat' with_reducible first | assumption | apply inv_foldl | apply inv_releaseHeld | (refine inv_of_fst ?_ (by assumption)) | (refine inv_of_snd ?_ (by assumption)) | apply lanternOk_lanternAt | apply lanternOk_vec | apply vregOk_regAt | apply veOk_regs | apply veOk_masks | apply regsOk_modify | apply regsOk_zipIdx_map | exact regsOk_replicate | exact masksOk_start _ | apply masksOk_first | apply (List.length_modify ..).trans | apply (length_setAt ..).trans | apply (length_bump ..).trans | apply (length_zipIdx_map ..).trans | apply (List.length_map ..).trans | exact List.length_replicate | rfl | apply veOk_foldl | apply lanternOk_foldl | intro _ | split | apply inv_foldl | apply inv_foldl_fst | apply inv_foldl_snd | apply inv_foldr | dsimp only | apply veOk_mk

theorem inv_sendAll {s : State} {tower : Nat} {x1 : List Packet}
    (ok_s : s.Inv) : (sendAll s tower x1).Inv := by
  induction x1 generalizing s with
  | nil =>
    unfold sendAll
    repeat' with_reducible first | assumption | apply inv_sendSeq | intro _ | split | dsimp only
  | cons y ys ih =>
    unfold sendAll
    repeat' with_reducible first | assumption | apply ih | apply inv_sendSeq | intro _ | split | dsimp only

theorem inv_tellNode {s : State} {dest : Nat} {m : KeeperMsg}
    (ok_s : s.Inv) : (tellNode s dest m).Inv := by
  unfold tellNode
  repeat' with_reducible first | assumption | apply inv_sendSeq | rfl | exact id | apply lanternsOk_map | apply lanternsOk_zipIdx_map | apply funcsOk_map | apply funcsOk_zipIdx_map | intro _ | split | dsimp only | apply inv_struct | rfl | exact List.length_map _ | exact List.length_modify .. | exact (List.length_map _).trans List.length_zipIdx

theorem inv_tellNodes {s : State} {m : KeeperMsg} {x1 : List Nat}
    (ok_s : s.Inv) : (tellNodes s m x1).Inv := by
  induction x1 generalizing s with
  | nil =>
    unfold tellNodes
    repeat' with_reducible first | assumption | apply inv_tellNode | intro _ | split | dsimp only
  | cons y ys ih =>
    unfold tellNodes
    repeat' with_reducible first | assumption | apply ih | apply inv_tellNode | intro _ | split | dsimp only

end Sys2Proof.Machine
end

