-- ==== Sys2Proof/Laws/InvMem.lean ====
section
/-! SUPPORT. Laws/InvMem.lean: the operations of Machine/Mem.lean keep the invariant State.Inv. -/

namespace Sys2Proof.Machine

theorem inv_addPoison {s : State} {line : Nat}
    (ok_s : s.Inv) : (addPoison s line).Inv := by
  unfold addPoison
  repeat' with_reducible first | assumption | rfl | exact id | apply lanternsOk_map | apply lanternsOk_zipIdx_map | apply funcsOk_map | apply funcsOk_zipIdx_map | intro _ | split | dsimp only | apply inv_struct | rfl | exact List.length_map _ | exact List.length_modify .. | exact (List.length_map _).trans List.length_zipIdx

theorem inv_writeLine {s : State} {line : Nat} {a : Nat} {bs : List Byte}
    (ok_s : s.Inv) : (writeLine s line a bs).Inv := by
  unfold writeLine
  repeat' with_reducible first | assumption | apply memoryWf_setBytes | rfl | exact id | apply lanternsOk_map | apply lanternsOk_zipIdx_map | apply funcsOk_map | apply funcsOk_zipIdx_map | intro _ | split | dsimp only | apply inv_struct | rfl | exact List.length_map _ | exact List.length_modify .. | exact (List.length_map _).trans List.length_zipIdx

theorem inv_writeLines {s : State} {a : Nat} {bs : List Byte} {x1 : List Nat}
    (ok_s : s.Inv) : (writeLines s a bs x1).Inv := by
  induction x1 generalizing s with
  | nil =>
    unfold writeLines
    repeat' with_reducible first | assumption | apply inv_writeLine | intro _ | split | dsimp only
  | cons y ys ih =>
    unfold writeLines
    repeat' with_reducible first | assumption | apply ih | apply inv_writeLine | intro _ | split | dsimp only

theorem inv_writeMem {s : State} {a : Nat} {bs : List Byte}
    (ok_s : s.Inv) : (writeMem s a bs).Inv := by
  unfold writeMem
  repeat' with_reducible first | assumption | apply inv_modKeeper | apply inv_writeLines | intro _ | split | dsimp only

theorem inv_clearMem {s : State} {lo : Nat} {hi : Nat}
    (ok_s : s.Inv) : (clearMem s lo hi).Inv := by
  unfold clearMem
  repeat' with_reducible first | assumption | apply memoryWf_tclear | rfl | exact id | apply lanternsOk_map | apply lanternsOk_zipIdx_map | apply funcsOk_map | apply funcsOk_zipIdx_map | intro _ | split | dsimp only | apply inv_struct | rfl | exact List.length_map _ | exact List.length_modify .. | exact (List.length_map _).trans List.length_zipIdx

theorem inv_openLines {cells : List (Nat × Byte)} {ls : List Nat} {s : State}
    (ok_s : s.Inv) : (openLines cells ls s).2.Inv := by
  induction ls generalizing s with
  | nil => exact ok_s
  | cons l ls ih => exact ih (inv_drawFree ok_s)

theorem inv_openCells {s : State} {cells : List (Nat × Byte)}
    (ok_s : s.Inv) : (openCells s cells).2.Inv := by
  unfold openCells
  repeat' with_reducible first | assumption | apply inv_openLines | apply inv_foldl | (refine inv_of_fst ?_ (by assumption)) | (refine inv_of_snd ?_ (by assumption)) | apply lanternOk_lanternAt | apply lanternOk_vec | apply vregOk_regAt | apply veOk_regs | apply veOk_masks | apply regsOk_modify | apply regsOk_zipIdx_map | exact regsOk_replicate | exact masksOk_start _ | apply masksOk_first | apply (List.length_modify ..).trans | apply (length_setAt ..).trans | apply (length_bump ..).trans | apply (length_zipIdx_map ..).trans | apply (List.length_map ..).trans | exact List.length_replicate | rfl | apply veOk_foldl | apply lanternOk_foldl | intro _ | split | apply inv_foldl | apply inv_foldl_fst | apply inv_foldl_snd | apply inv_foldr | dsimp only | apply veOk_mk

theorem inv_hostWrite {s : State} {a : Nat} {bs : List Byte}
    (ok_s : s.Inv) : (hostWrite s a bs).Inv := by
  unfold hostWrite
  repeat' with_reducible first | assumption | rfl | exact id | apply lanternsOk_map | apply lanternsOk_zipIdx_map | apply funcsOk_map | apply funcsOk_zipIdx_map | intro _ | split | dsimp only | apply inv_struct | rfl | exact List.length_map _ | exact List.length_modify .. | exact (List.length_map _).trans List.length_zipIdx

theorem inv_noteReq {s : State} {tag : Nat} {len : Nat} {who : PeerFor} {dom : Domain}
    (ok_s : s.Inv) : (noteReq s tag len who dom).Inv := by
  unfold noteReq
  repeat' with_reducible first | assumption | apply inv_modRouter | intro _ | split | dsimp only | rfl | exact List.length_map _ | exact List.length_modify .. | exact (List.length_map _).trans List.length_zipIdx

theorem inv_peerRead {s : State} {tower : Nat} {mooring : Nat} {dom : Domain} {w : Nat} {a : Nat} {n : Nat} {who : PeerFor}
    (ok_s : s.Inv) : (peerRead s tower mooring dom w a n who).1.Inv := by
  unfold peerRead
  repeat' with_reducible first | assumption | apply inv_noteReq | apply inv_sendSeq | intro _ | split | dsimp only

theorem inv_freeBytes {x1 : Nat} {x2 : State}
    (ok_x2 : x2.Inv) : (freeBytes x1 x2).2.Inv := by
  induction x1 generalizing x2 with
  | zero =>
    unfold freeBytes
    repeat' with_reducible first | assumption | apply inv_drawFree | (refine inv_of_snd ?_ (by assumption)) | intro _ | split | dsimp only
  | succ n ih =>
    unfold freeBytes
    repeat' with_reducible first | assumption | apply ih | apply inv_drawFree | (refine inv_of_snd ?_ (by assumption)) | intro _ | split | dsimp only

theorem inv_peerWrite {s : State} {tower : Nat} {mooring : Nat} {dom : Domain} {w : Nat} {a : Nat} {bs : List Byte} {who : PeerFor}
    (ok_s : s.Inv) : (peerWrite s tower mooring dom w a bs who).1.Inv := by
  unfold peerWrite
  repeat' with_reducible first | assumption | apply inv_freeBytes | apply inv_noteReq | apply inv_sendSeq | (refine inv_of_snd ?_ (by assumption)) | intro _ | split | dsimp only

theorem inv_peerReads {s : State} {tower : Nat} {mooring : Nat} {dom : Domain} {w : Nat} {who : Nat → PeerFor} {x1 : List (Nat × Nat)}
    (ok_s : s.Inv) : (peerReads s tower mooring dom w who x1).1.Inv := by
  induction x1 generalizing s with
  | nil =>
    unfold peerReads
    repeat' with_reducible first | assumption | apply inv_peerRead | (refine inv_of_fst ?_ (by assumption)) | intro _ | split | dsimp only
  | cons y ys ih =>
    unfold peerReads
    repeat' with_reducible first | assumption | apply ih | apply inv_peerRead | (refine inv_of_fst ?_ (by assumption)) | intro _ | split | dsimp only

theorem inv_peerWrites {s : State} {tower : Nat} {mooring : Nat} {dom : Domain} {w : Nat} {base : Nat} {bs : List Byte} {who : Nat → PeerFor} {x1 : List (Nat × Nat)}
    (ok_s : s.Inv) : (peerWrites s tower mooring dom w base bs who x1).1.Inv := by
  induction x1 generalizing s with
  | nil =>
    unfold peerWrites
    repeat' with_reducible first | assumption | apply inv_peerWrite | (refine inv_of_fst ?_ (by assumption)) | intro _ | split | dsimp only
  | cons y ys ih =>
    unfold peerWrites
    repeat' with_reducible first | assumption | apply ih | apply inv_peerWrite | (refine inv_of_fst ?_ (by assumption)) | intro _ | split | dsimp only

theorem inv_countDebug {s : State} {f : Nat}
    (ok_s : s.Inv) : (countDebug s f).Inv := by
  unfold countDebug
  repeat' with_reducible first | assumption | apply inv_modKeeper | (refine inv_of_fst ?_ (by assumption)) | (refine inv_of_snd ?_ (by assumption)) | apply lanternOk_lanternAt | apply lanternOk_vec | apply vregOk_regAt | apply veOk_regs | apply veOk_masks | apply regsOk_modify | apply regsOk_zipIdx_map | exact regsOk_replicate | exact masksOk_start _ | apply masksOk_first | apply (List.length_modify ..).trans | apply (length_setAt ..).trans | apply (length_bump ..).trans | apply (length_zipIdx_map ..).trans | apply (List.length_map ..).trans | exact List.length_replicate | rfl | apply veOk_foldl | apply lanternOk_foldl | intro _ | split | apply inv_foldl | apply inv_foldl_fst | apply inv_foldl_snd | apply inv_foldr | dsimp only | apply veOk_mk

theorem inv_keeperWrite {s : State} {f : Nat} {addr : Nat} {bs : List Byte}
    (ok_s : s.Inv) : ExceptInv (keeperWrite s f addr bs) := by
  unfold keeperWrite
  repeat' with_reducible first | assumption | apply inv_countDebug | apply inv_peerWrites | apply inv_writeMem | apply inv_hostWrite | apply exceptInv_ok | apply exceptInv_error | (refine inv_of_fst ?_ (by assumption)) | intro _ | split | dsimp only

end Sys2Proof.Machine
end

