-- ==== Sys2Proof/Laws/InvQueues.lean ====
section
/-! SUPPORT. Laws/InvQueues.lean: the operations of Machine/Queues.lean keep the invariant State.Inv. -/

namespace Sys2Proof.Machine

theorem inv_raiseVector {s : State} {f : Nat} {v : Nat}
    (ok_s : s.Inv) : (raiseVector s f v).Inv := by
  unfold raiseVector
  repeat' with_reducible first | assumption | apply inv_modFunc | rfl | exact id | apply funcOk_funcAt | apply funcOk_mbox | apply funcOk_queues | apply funcOk_slots | apply lanternsOk_map | apply lanternsOk_zipIdx_map | apply funcsOk_map | apply funcsOk_zipIdx_map | apply (List.length_modify ..).trans | apply (length_setAt ..).trans | apply (length_bump ..).trans | apply (length_zipIdx_map ..).trans | apply (List.length_map ..).trans | exact List.length_replicate | rfl | intro _ | split | dsimp only | apply funcOk_mk | apply inv_struct | rfl | exact List.length_map _ | exact List.length_modify .. | exact (List.length_map _).trans List.length_zipIdx

theorem inv_ringWrite {s : State} {f : Nat} {qi : Nat} {rec : Nat}
    (ok_s : s.Inv) : OptionInv (ringWrite s f qi rec) := by
  unfold ringWrite
  repeat' with_reducible first | assumption | apply inv_modTime | apply inv_keeperWrite | apply inv_modQueue | apply inv_raiseVector | apply exceptInv_ok | apply exceptInv_error | apply optionInv_some | apply optionInv_none | (refine exceptInv_apply ?_ (by assumption)) | intro _ | split | dsimp only

theorem inv_drainQueue {x1 : Nat} {x2 : State} {x3 : Nat} {x4 : Nat}
    (ok_x2 : x2.Inv) : (drainQueue x1 x2 x3 x4).Inv := by
  induction x1 generalizing x2 x3 x4 with
  | zero =>
    unfold drainQueue
    repeat' with_reducible first | assumption | apply inv_modFlash | apply inv_ringWrite | apply inv_modQueue | apply optionInv_some | apply optionInv_none | (refine optionInv_apply ?_ (by assumption)) | intro _ | split | dsimp only
  | succ n ih =>
    unfold drainQueue
    repeat' with_reducible first | assumption | apply inv_modFlash | apply ih | apply inv_ringWrite | apply inv_modQueue | apply optionInv_some | apply optionInv_none | (refine optionInv_apply ?_ (by assumption)) | intro _ | split | dsimp only

theorem inv_flushQueue {s : State} {f : Nat} {qi : Nat}
    (ok_s : s.Inv) : (flushQueue s f qi).Inv := by
  unfold flushQueue
  repeat' with_reducible first | assumption | apply inv_drainQueue | intro _ | split | dsimp only

theorem inv_flushFunc {s : State} {f : Nat}
    (ok_s : s.Inv) : (flushFunc s f).Inv := by
  unfold flushFunc
  repeat' with_reducible first | assumption | apply inv_flushQueue | intro _ | split | apply inv_foldl | apply inv_foldl_fst | apply inv_foldl_snd | dsimp only

theorem inv_postRecord {s : State} {f : Nat} {q : Nat} {tag : Option Nat} {rec : Nat}
    (ok_s : s.Inv) : (postRecord s f q tag rec).Inv := by
  unfold postRecord
  repeat' with_reducible first | assumption | apply inv_modQueue | apply inv_flushQueue | apply inv_modFunc | apply funcOk_mbox | apply funcOk_queues | apply funcOk_slots | apply (List.length_modify ..).trans | apply (length_setAt ..).trans | apply (length_bump ..).trans | apply (length_zipIdx_map ..).trans | apply (List.length_map ..).trans | exact List.length_replicate | rfl | intro _ | split | dsimp only | apply funcOk_mk

theorem inv_dropOp {s : State} {f : Nat} {tag : Nat}
    (ok_s : s.Inv) : (dropOp s f tag).Inv := by
  unfold dropOp
  repeat' with_reducible first | assumption | apply inv_modKeeper | intro _ | split | dsimp only

theorem inv_modOp {s : State} {f : Nat} {tag : Nat} {g : LongOp → LongOp}
    (ok_s : s.Inv) : (modOp s f tag g).Inv := by
  unfold modOp
  repeat' with_reducible first | assumption | apply inv_modKeeper | intro _ | split | dsimp only

theorem inv_finishOp {s : State} {f : Nat} {tag : Nat} {status : Nat} {flags : Nat} {detail : Nat}
    (ok_s : s.Inv) : (finishOp s f tag status flags detail).Inv := by
  unfold finishOp
  repeat' with_reducible first | assumption | apply inv_dropOp | apply inv_tellNode | apply inv_postRecord | intro _ | split | dsimp only

theorem inv_nameOpened {s : State} {f : Nat} {tag : Nat} {id : Nat}
    (ok_s : s.Inv) : (nameOpened s f tag id).Inv := by
  unfold nameOpened
  repeat' with_reducible first | assumption | apply inv_modOp | intro _ | split | dsimp only

theorem inv_stepRecord {s : State} {o : LongOp} {status : Nat} {flags : Nat} {step : Nat}
    (ok_s : s.Inv) : (stepRecord s o status flags step).Inv := by
  unfold stepRecord
  repeat' with_reducible first | assumption | apply inv_tellNode | apply inv_postRecord | intro _ | split | dsimp only

theorem inv_forwardedStep {s : State} {f : Nat} {tag : Nat} {status : Nat} {flags : Nat} {step : Nat} {dm : Nat}
    (ok_s : s.Inv) : (forwardedStep s f tag status flags step dm).Inv := by
  unfold forwardedStep
  repeat' with_reducible first | assumption | apply inv_modOp | apply inv_postRecord | intro _ | split | dsimp only

theorem inv_forwardedEnd {s : State} {f : Nat} {tag : Nat} {status : Nat} {flags : Nat} {detail : Nat} {dm : Nat}
    (ok_s : s.Inv) : (forwardedEnd s f tag status flags detail dm).Inv := by
  unfold forwardedEnd
  repeat' with_reducible first | assumption | apply inv_postRecord | apply inv_dropOp | intro _ | split | dsimp only

theorem inv_tellRoom {s : State} {f : Nat}
    (ok_s : s.Inv) : (tellRoom s f).Inv := by
  unfold tellRoom
  repeat' with_reducible first | assumption | apply inv_foldl | apply inv_tellNode | apply inv_modOp | (refine inv_of_fst ?_ (by assumption)) | (refine inv_of_snd ?_ (by assumption)) | apply lanternOk_lanternAt | apply lanternOk_vec | apply vregOk_regAt | apply veOk_regs | apply veOk_masks | apply regsOk_modify | apply regsOk_zipIdx_map | exact regsOk_replicate | exact masksOk_start _ | apply masksOk_first | apply (List.length_modify ..).trans | apply (length_setAt ..).trans | apply (length_bump ..).trans | apply (length_zipIdx_map ..).trans | apply (List.length_map ..).trans | exact List.length_replicate | rfl | apply veOk_foldl | apply lanternOk_foldl | intro _ | split | apply inv_foldl | apply inv_foldl_fst | apply inv_foldl_snd | apply inv_foldr | dsimp only | apply veOk_mk

theorem inv_tellFull {s : State} {f : Nat} {tag : Nat} {node : Nat}
    (ok_s : s.Inv) : (tellFull s f tag node).Inv := by
  unfold tellFull
  repeat' with_reducible first | assumption | apply inv_tellNode | apply inv_modOp | (refine inv_of_fst ?_ (by assumption)) | (refine inv_of_snd ?_ (by assumption)) | apply lanternOk_lanternAt | apply lanternOk_vec | apply vregOk_regAt | apply veOk_regs | apply veOk_masks | apply regsOk_modify | apply regsOk_zipIdx_map | exact regsOk_replicate | exact masksOk_start _ | apply masksOk_first | apply (List.length_modify ..).trans | apply (length_setAt ..).trans | apply (length_bump ..).trans | apply (length_zipIdx_map ..).trans | apply (List.length_map ..).trans | exact List.length_replicate | rfl | apply veOk_foldl | apply lanternOk_foldl | intro _ | split | apply inv_foldl | apply inv_foldl_fst | apply inv_foldl_snd | apply inv_foldr | dsimp only | apply veOk_mk

theorem inv_postEventTo {s : State} {f : Nat} {q : Nat} {e : Event}
    (ok_s : s.Inv) : (postEventTo s f q e).Inv := by
  unfold postEventTo
  repeat' with_reducible first | assumption | apply inv_modQueue | apply inv_flushQueue | intro _ | split | dsimp only

theorem inv_postEvent {s : State} {f : Nat} {e : Event}
    (ok_s : s.Inv) : (postEvent s f e).Inv := by
  unfold postEvent
  repeat' with_reducible first | assumption | apply inv_modFunc | apply inv_postEventTo | apply funcOk_mbox | apply funcOk_queues | apply funcOk_slots | apply (List.length_modify ..).trans | apply (length_setAt ..).trans | apply (length_bump ..).trans | apply (length_zipIdx_map ..).trans | apply (List.length_map ..).trans | exact List.length_replicate | rfl | intro _ | split | apply inv_foldl | apply inv_foldl_fst | apply inv_foldl_snd | dsimp only | apply funcOk_mk

theorem inv_deliverEvent {s : State} {e : Event} {owner : Option (Nat × Nat)}
    (ok_s : s.Inv) : (deliverEvent s e owner).Inv := by
  unfold deliverEvent
  repeat' with_reducible first | assumption | apply inv_postEvent | apply inv_tellNode | intro _ | split | dsimp only

theorem inv_raiseEventIn {s : State} {dom : Domain} {code : Nat} {mooring : Option Nat} {unit : Nat} {detail : Nat} {more : List Nat}
    (ok_s : s.Inv) : (raiseEventIn s dom code mooring unit detail more).Inv := by
  unfold raiseEventIn
  repeat' with_reducible first | assumption | apply inv_modFlash | apply inv_deliverEvent | (refine inv_of_fst ?_ (by assumption)) | (refine inv_of_snd ?_ (by assumption)) | apply lanternOk_lanternAt | apply lanternOk_vec | apply vregOk_regAt | apply veOk_regs | apply veOk_masks | apply regsOk_modify | apply regsOk_zipIdx_map | exact regsOk_replicate | exact masksOk_start _ | apply masksOk_first | apply (List.length_modify ..).trans | apply (length_setAt ..).trans | apply (length_bump ..).trans | apply (length_zipIdx_map ..).trans | apply (List.length_map ..).trans | exact List.length_replicate | rfl | apply veOk_foldl | apply lanternOk_foldl | intro _ | split | apply inv_foldl | apply inv_foldl_fst | apply inv_foldl_snd | apply inv_foldr | dsimp only | apply veOk_mk

theorem inv_raiseEventMore {s : State} {code : Nat} {mooring : Option Nat} {unit : Nat} {detail : Nat} {more : List Nat}
    (ok_s : s.Inv) : (raiseEventMore s code mooring unit detail more).Inv := by
  unfold raiseEventMore
  repeat' with_reducible first | assumption | apply inv_raiseEventIn | apply inv_modFlash | apply inv_deliverEvent | intro _ | split | dsimp only

theorem inv_raiseEvent {s : State} {code : Nat} {mooring : Option Nat} {unit : Nat} {detail : Nat}
    (ok_s : s.Inv) : (raiseEvent s code mooring unit detail).Inv := by
  unfold raiseEvent
  repeat' with_reducible first | assumption | apply inv_raiseEventMore | intro _ | split | dsimp only

theorem inv_raiseEventP {s : State} {code : Nat} {unit : Nat} {detail : Nat}
    (ok_s : s.Inv) : (raiseEventP s code unit detail).Inv := by
  unfold raiseEventP
  repeat' with_reducible first | assumption | apply inv_raiseEvent | intro _ | split | dsimp only

theorem inv_lanternEvent {s : State} {code : Nat} {l : Nat} {unit : Nat} {detail : Nat} {more : List Nat}
    (ok_s : s.Inv) : (lanternEvent s code l unit detail more).Inv := by
  unfold lanternEvent
  repeat' with_reducible first | assumption | apply inv_raiseEventIn | (refine inv_of_fst ?_ (by assumption)) | (refine inv_of_snd ?_ (by assumption)) | apply lanternOk_lanternAt | apply lanternOk_vec | apply vregOk_regAt | apply veOk_regs | apply veOk_masks | apply regsOk_modify | apply regsOk_zipIdx_map | exact regsOk_replicate | exact masksOk_start _ | apply masksOk_first | apply (List.length_modify ..).trans | apply (length_setAt ..).trans | apply (length_bump ..).trans | apply (length_zipIdx_map ..).trans | apply (List.length_map ..).trans | exact List.length_replicate | rfl | apply veOk_foldl | apply lanternOk_foldl | intro _ | split | apply inv_foldl | apply inv_foldl_fst | apply inv_foldl_snd | apply inv_foldr | dsimp only | apply veOk_mk

theorem inv_setFault {s : State} {l : Nat}
    (ok_s : s.Inv) : (setFault s l).Inv := by
  unfold setFault
  repeat' with_reducible first | assumption | apply inv_modLantern | apply lanternOk_events | apply lanternOk_dma | apply lanternOk_vec | apply (List.length_modify ..).trans | apply (length_setAt ..).trans | apply (length_bump ..).trans | apply (length_zipIdx_map ..).trans | apply (List.length_map ..).trans | exact List.length_replicate | rfl | intro _ | split | dsimp only | apply lanternOk_mk

end Sys2Proof.Machine
end

