-- ==== Sys2Proof/Laws/InvArith.lean ====
section
/-! SUPPORT. Laws/InvArith.lean: the operations of Machine/Arith.lean keep the invariant State.Inv. -/

namespace Sys2Proof.Machine

theorem ok_putEntryBits {x : Lantern} {k : EntryFmt} {e : Nat} {c : Nat} {b : EntryBits}
    (ok_x : x.Ok) : (putEntryBits x k e c b).Ok := by
  unfold putEntryBits
  repeat' with_reducible first | assumption | apply lanternOk_events | apply lanternOk_dma | apply lanternOk_vec | apply (List.length_modify ..).trans | apply (length_setAt ..).trans | apply (length_bump ..).trans | apply (length_zipIdx_map ..).trans | apply (List.length_map ..).trans | exact List.length_replicate | rfl | intro _ | split | dsimp only | apply lanternOk_mk

theorem ok_putEntry {x : Lantern} {k : EntryFmt} {e : Nat} {c : Nat} {p : Rec}
    (ok_x : x.Ok) : (putEntry x k e c p).Ok := by
  unfold putEntry
  repeat' with_reducible first | assumption | apply ok_putEntryBits | intro _ | split | dsimp only

theorem ok_emptyEntry {x : Lantern} {k : EntryFmt} {e : Nat} {c : Nat}
    (ok_x : x.Ok) : (emptyEntry x k e c).Ok := by
  unfold emptyEntry
  repeat' with_reducible first | assumption | apply ok_putEntryBits | intro _ | split | dsimp only

theorem ok_absorb {x : Lantern} {k : EntryFmt} {e : Nat} {c : Nat} {cs : Rec} {replace : Bool}
    (ok_x : x.Ok) : (absorb x k e c cs replace).Ok := by
  unfold absorb
  repeat' with_reducible first | assumption | apply ok_putEntry | intro _ | split | dsimp only

end Sys2Proof.Machine
end

