-- ==== Sys2Proof/Laws/InvFlags.lean ====
section
/-! SUPPORT. Laws/InvFlags.lean: the operations of Machine/Flags.lean keep the invariant State.Inv. -/

namespace Sys2Proof.Machine

theorem ok_raiseFlag {v : VEngine} {k : Nat} {b : Bool}
    (ok_v : v.Ok) : (raiseFlag v k b).Ok := by
  unfold raiseFlag
  repeat' with_reducible first | assumption | apply veOk_regs | apply veOk_masks | apply regsOk_modify | apply regsOk_zipIdx_map | exact regsOk_replicate | exact masksOk_start _ | apply masksOk_first | apply (List.length_modify ..).trans | apply (length_setAt ..).trans | apply (length_bump ..).trans | apply (length_zipIdx_map ..).trans | apply (List.length_map ..).trans | exact List.length_replicate | rfl | intro _ | split | dsimp only | apply veOk_mk

theorem ok_raiseRecs {v : VEngine} {rs : List Rec}
    (ok_v : v.Ok) : (raiseRecs v rs).Ok := by
  unfold raiseRecs
  repeat' with_reducible first | assumption | apply ok_raiseFlag | intro _ | split | dsimp only

end Sys2Proof.Machine
end

