-- ==== Sys2Proof/Laws/InvOperands.lean ====
section
/-! SUPPORT. Laws/InvOperands.lean: the operations of Machine/Operands.lean keep the invariant State.Inv. -/

namespace Sys2Proof.Machine

theorem ok_commit {v : VEngine} {vd : Nat} {w : BitVec 128} {res : Nat → Res} {gd : Nat → Int}
    (ok_v : v.Ok) : (commit v vd w res gd).Ok := by
  unfold commit
  repeat' with_reducible first | assumption | apply ok_raiseFlag | apply ok_modReg | apply vregOk_lanes | apply vregOk_g | apply (List.length_modify ..).trans | apply (length_setAt ..).trans | apply (length_bump ..).trans | apply (length_zipIdx_map ..).trans | apply (List.length_map ..).trans | exact List.length_replicate | rfl | intro _ | split | dsimp only | apply vregOk_mk

theorem ok_commitMask {v : VEngine} {n : Nat} {w : BitVec 128} {p : Nat → Bool}
    (ok_v : v.Ok) : (commitMask v n w p).Ok := by
  unfold commitMask
  repeat' with_reducible first | assumption | apply veOk_regs | apply veOk_masks | apply regsOk_modify | apply regsOk_zipIdx_map | exact regsOk_replicate | exact masksOk_start _ | apply masksOk_first | apply (List.length_modify ..).trans | apply (length_setAt ..).trans | apply (length_bump ..).trans | apply (length_zipIdx_map ..).trans | apply (List.length_map ..).trans | exact List.length_replicate | rfl | apply veOk_foldl | apply lanternOk_foldl | intro _ | split | apply inv_foldl | apply inv_foldl_fst | apply inv_foldl_snd | dsimp only | apply veOk_mk

theorem ok_putPair {v : VEngine} {vd : Nat} {w : BitVec 128} {rs : Nat → Rec}
    (ok_v : v.Ok) : (putPair v vd w rs).Ok := by
  unfold putPair
  repeat' with_reducible first | assumption | apply ok_modReg | apply vregOk_lanes | apply vregOk_g | apply (List.length_modify ..).trans | apply (length_setAt ..).trans | apply (length_bump ..).trans | apply (length_zipIdx_map ..).trans | apply (List.length_map ..).trans | exact List.length_replicate | rfl | intro _ | split | dsimp only | apply vregOk_mk

theorem ok_satReg {v : VEngine} {n : Nat}
    (ok_v : v.Ok) : (satReg v n).Ok := by
  unfold satReg
  repeat' with_reducible first | assumption | apply ok_modReg | apply vregOk_lanes | apply vregOk_g | apply (List.length_modify ..).trans | apply (length_setAt ..).trans | apply (length_bump ..).trans | apply (length_zipIdx_map ..).trans | apply (List.length_map ..).trans | exact List.length_replicate | rfl | intro _ | split | dsimp only | apply vregOk_mk

theorem ok_satPair {v : VEngine} {n : Nat}
    (ok_v : v.Ok) : (satPair v n).Ok := by
  unfold satPair
  repeat' with_reducible first | assumption | apply ok_putPair | intro _ | split | dsimp only

end Sys2Proof.Machine
end

