-- ==== Sys2Proof/Laws/InvVecOps.lean ====
section
/-! SUPPORT. Laws/InvVecOps.lean: the operations of Machine/VecOps.lean keep the invariant State.Inv. -/

namespace Sys2Proof.Machine

theorem ok_unary {v : VEngine} {f : VFields} {g : Int → Int} {h : Int → Int}
    (ok_v : v.Ok) : (unary v f g h).Ok := by
  unfold unary
  repeat' with_reducible first | assumption | apply ok_commit | apply vregOk_regAt | intro _ | split | dsimp only

theorem ok_aligned2 {v : VEngine} {f : VFields} {h : Int → Int → Int}
    (ok_v : v.Ok) : (aligned2 v f h).Ok := by
  unfold aligned2
  repeat' with_reducible first | assumption | apply ok_commit | apply vregOk_regAt | intro _ | split | dsimp only

theorem ok_bitwise2 {v : VEngine} {f : VFields} {h : BitVec 64 → BitVec 64 → BitVec 64}
    (ok_v : v.Ok) : (bitwise2 v f h).Ok := by
  unfold bitwise2
  repeat' with_reducible first | assumption | apply ok_commit | apply vregOk_regAt | intro _ | split | dsimp only

theorem ok_opMov {v : VEngine} {f : VFields}
    (ok_v : v.Ok) : (opMov v f).Ok := by
  unfold opMov
  repeat' with_reducible first | assumption | apply ok_unary | intro _ | split | dsimp only

theorem ok_opLdi {v : VEngine} {f : VFields}
    (ok_v : v.Ok) : (opLdi v f).Ok := by
  unfold opLdi
  repeat' with_reducible first | assumption | apply ok_commit | intro _ | split | dsimp only

theorem ok_opSetg {v : VEngine} {f : VFields}
    (ok_v : v.Ok) : (opSetg v f).Ok := by
  unfold opSetg
  repeat' with_reducible first | assumption | apply ok_unary | intro _ | split | dsimp only

theorem ok_opScale {v : VEngine} {f : VFields}
    (ok_v : v.Ok) : (opScale v f).Ok := by
  unfold opScale
  repeat' with_reducible first | assumption | apply ok_unary | intro _ | split | dsimp only

theorem ok_opGetg {v : VEngine} {f : VFields}
    (ok_v : v.Ok) : (opGetg v f).Ok := by
  unfold opGetg
  repeat' with_reducible first | assumption | apply ok_commit | apply vregOk_regAt | intro _ | split | dsimp only

theorem ok_opSel {v : VEngine} {f : VFields}
    (ok_v : v.Ok) : (opSel v f).Ok := by
  unfold opSel
  repeat' with_reducible first | assumption | apply ok_commit | apply vregOk_regAt | intro _ | split | dsimp only

theorem ok_opAdd {v : VEngine} {f : VFields}
    (ok_v : v.Ok) : (opAdd v f).Ok := by
  unfold opAdd
  repeat' with_reducible first | assumption | apply ok_aligned2 | intro _ | split | dsimp only

theorem ok_opSub {v : VEngine} {f : VFields}
    (ok_v : v.Ok) : (opSub v f).Ok := by
  unfold opSub
  repeat' with_reducible first | assumption | apply ok_aligned2 | intro _ | split | dsimp only

theorem ok_opNeg {v : VEngine} {f : VFields}
    (ok_v : v.Ok) : (opNeg v f).Ok := by
  unfold opNeg
  repeat' with_reducible first | assumption | apply ok_unary | intro _ | split | dsimp only

theorem ok_opAbs {v : VEngine} {f : VFields}
    (ok_v : v.Ok) : (opAbs v f).Ok := by
  unfold opAbs
  repeat' with_reducible first | assumption | apply ok_unary | intro _ | split | dsimp only

theorem ok_opMul {v : VEngine} {f : VFields}
    (ok_v : v.Ok) : (opMul v f).Ok := by
  unfold opMul
  repeat' with_reducible first | assumption | apply ok_commit | apply vregOk_regAt | intro _ | split | dsimp only

theorem ok_opMulsh {v : VEngine} {f : VFields}
    (ok_v : v.Ok) : (opMulsh v f).Ok := by
  unfold opMulsh
  repeat' with_reducible first | assumption | apply ok_commit | apply vregOk_regAt | intro _ | split | dsimp only

theorem ok_mulAcc {v : VEngine} {f : VFields} {sign : Int}
    (ok_v : v.Ok) : (mulAcc v f sign).Ok := by
  unfold mulAcc
  repeat' with_reducible first | assumption | apply ok_commit | apply vregOk_regAt | intro _ | split | dsimp only

theorem ok_opMadd {v : VEngine} {f : VFields}
    (ok_v : v.Ok) : (opMadd v f).Ok := by
  unfold opMadd
  repeat' with_reducible first | assumption | apply ok_mulAcc | intro _ | split | dsimp only

theorem ok_opMsub {v : VEngine} {f : VFields}
    (ok_v : v.Ok) : (opMsub v f).Ok := by
  unfold opMsub
  repeat' with_reducible first | assumption | apply ok_mulAcc | intro _ | split | dsimp only

theorem ok_minMax {v : VEngine} {f : VFields} {useMax : Bool}
    (ok_v : v.Ok) : (minMax v f useMax).Ok := by
  unfold minMax
  repeat' with_reducible first | assumption | apply ok_commit | apply vregOk_regAt | intro _ | split | dsimp only

theorem ok_opMin {v : VEngine} {f : VFields}
    (ok_v : v.Ok) : (opMin v f).Ok := by
  unfold opMin
  repeat' with_reducible first | assumption | apply ok_minMax | intro _ | split | dsimp only

theorem ok_opMax {v : VEngine} {f : VFields}
    (ok_v : v.Ok) : (opMax v f).Ok := by
  unfold opMax
  repeat' with_reducible first | assumption | apply ok_minMax | intro _ | split | dsimp only

theorem ok_opClamp {v : VEngine} {f : VFields}
    (ok_v : v.Ok) : (opClamp v f).Ok := by
  unfold opClamp
  repeat' with_reducible first | assumption | apply ok_commit | apply vregOk_regAt | intro _ | split | dsimp only

theorem ok_opAddi {v : VEngine} {f : VFields}
    (ok_v : v.Ok) : (opAddi v f).Ok := by
  unfold opAddi
  repeat' with_reducible first | assumption | apply ok_unary | intro _ | split | dsimp only

theorem ok_opMuli {v : VEngine} {f : VFields}
    (ok_v : v.Ok) : (opMuli v f).Ok := by
  unfold opMuli
  repeat' with_reducible first | assumption | apply ok_unary | intro _ | split | dsimp only

theorem ok_opResc {v : VEngine} {f : VFields}
    (ok_v : v.Ok) : (opResc v f).Ok := by
  unfold opResc
  repeat' with_reducible first | assumption | apply ok_unary | intro _ | split | dsimp only

theorem ok_opRescf {v : VEngine} {f : VFields}
    (ok_v : v.Ok) : (opRescf v f).Ok := by
  unfold opRescf
  repeat' with_reducible first | assumption | apply ok_unary | intro _ | split | dsimp only

theorem ok_opAlign {v : VEngine} {f : VFields}
    (ok_v : v.Ok) : (opAlign v f).Ok := by
  unfold opAlign
  repeat' with_reducible first | assumption | apply ok_commit | apply vregOk_regAt | intro _ | split | dsimp only

theorem ok_opNorm {v : VEngine} {f : VFields}
    (ok_v : v.Ok) : (opNorm v f).Ok := by
  unfold opNorm
  repeat' with_reducible first | assumption | apply ok_commit | apply vregOk_regAt | intro _ | split | dsimp only

theorem ok_opAnd {v : VEngine} {f : VFields}
    (ok_v : v.Ok) : (opAnd v f).Ok := by
  unfold opAnd
  repeat' with_reducible first | assumption | apply ok_bitwise2 | intro _ | split | dsimp only

theorem ok_opOr {v : VEngine} {f : VFields}
    (ok_v : v.Ok) : (opOr v f).Ok := by
  unfold opOr
  repeat' with_reducible first | assumption | apply ok_bitwise2 | intro _ | split | dsimp only

theorem ok_opXor {v : VEngine} {f : VFields}
    (ok_v : v.Ok) : (opXor v f).Ok := by
  unfold opXor
  repeat' with_reducible first | assumption | apply ok_bitwise2 | intro _ | split | dsimp only

theorem ok_opNot {v : VEngine} {f : VFields}
    (ok_v : v.Ok) : (opNot v f).Ok := by
  unfold opNot
  repeat' with_reducible first | assumption | apply ok_unary | intro _ | split | dsimp only

theorem ok_opShli {v : VEngine} {f : VFields}
    (ok_v : v.Ok) : (opShli v f).Ok := by
  unfold opShli
  repeat' with_reducible first | assumption | apply ok_unary | intro _ | split | dsimp only

theorem ok_opShra {v : VEngine} {f : VFields}
    (ok_v : v.Ok) : (opShra v f).Ok := by
  unfold opShra
  repeat' with_reducible first | assumption | apply ok_unary | intro _ | split | dsimp only

theorem ok_opShrl {v : VEngine} {f : VFields}
    (ok_v : v.Ok) : (opShrl v f).Ok := by
  unfold opShrl
  repeat' with_reducible first | assumption | apply ok_unary | intro _ | split | dsimp only

theorem ok_compare2 {v : VEngine} {f : VFields} {p : Int → Bool}
    (ok_v : v.Ok) : (compare2 v f p).Ok := by
  unfold compare2
  repeat' with_reducible first | assumption | apply ok_commitMask | apply vregOk_regAt | intro _ | split | dsimp only

theorem ok_opCeq {v : VEngine} {f : VFields}
    (ok_v : v.Ok) : (opCeq v f).Ok := by
  unfold opCeq
  repeat' with_reducible first | assumption | apply ok_opCge | apply ok_opCgt | apply ok_opCle | apply ok_opClt | apply ok_opCne | apply ok_compare2 | intro _ | split | dsimp only

theorem ok_opCne {v : VEngine} {f : VFields}
    (ok_v : v.Ok) : (opCne v f).Ok := by
  unfold opCne
  repeat' with_reducible first | assumption | apply ok_compare2 | intro _ | split | dsimp only

theorem ok_opClt {v : VEngine} {f : VFields}
    (ok_v : v.Ok) : (opClt v f).Ok := by
  unfold opClt
  repeat' with_reducible first | assumption | apply ok_compare2 | intro _ | split | dsimp only

theorem ok_opCle {v : VEngine} {f : VFields}
    (ok_v : v.Ok) : (opCle v f).Ok := by
  unfold opCle
  repeat' with_reducible first | assumption | apply ok_compare2 | intro _ | split | dsimp only

theorem ok_opCgt {v : VEngine} {f : VFields}
    (ok_v : v.Ok) : (opCgt v f).Ok := by
  unfold opCgt
  repeat' with_reducible first | assumption | apply ok_compare2 | intro _ | split | dsimp only

theorem ok_opCge {v : VEngine} {f : VFields}
    (ok_v : v.Ok) : (opCge v f).Ok := by
  unfold opCge
  repeat' with_reducible first | assumption | apply ok_compare2 | intro _ | split | dsimp only

theorem ok_opCsat {v : VEngine} {f : VFields}
    (ok_v : v.Ok) : (opCsat v f).Ok := by
  unfold opCsat
  repeat' with_reducible first | assumption | apply ok_commitMask | apply vregOk_regAt | intro _ | split | dsimp only

theorem ok_opMand {v : VEngine} {f : VFields}
    (ok_v : v.Ok) : (opMand v f).Ok := by
  unfold opMand
  repeat' with_reducible first | assumption | apply ok_commitMask | intro _ | split | dsimp only

theorem ok_opMor {v : VEngine} {f : VFields}
    (ok_v : v.Ok) : (opMor v f).Ok := by
  unfold opMor
  repeat' with_reducible first | assumption | apply ok_commitMask | intro _ | split | dsimp only

theorem ok_opMnot {v : VEngine} {f : VFields}
    (ok_v : v.Ok) : (opMnot v f).Ok := by
  unfold opMnot
  repeat' with_reducible first | assumption | apply ok_commitMask | intro _ | split | dsimp only

theorem ok_opTlu {v : VEngine} {f : VFields}
    (ok_v : v.Ok) : (opTlu v f).Ok := by
  unfold opTlu
  repeat' with_reducible first | assumption | apply ok_commit | apply ok_raiseFlag | apply vregOk_regAt | intro _ | split | dsimp only

theorem ok_opRecip {v : VEngine} {f : VFields}
    (ok_v : v.Ok) : (opRecip v f).Ok := by
  unfold opRecip
  repeat' with_reducible first | assumption | apply ok_commit | apply vregOk_regAt | intro _ | split | dsimp only

theorem ok_opRsqrt {v : VEngine} {f : VFields}
    (ok_v : v.Ok) : (opRsqrt v f).Ok := by
  unfold opRsqrt
  repeat' with_reducible first | assumption | apply ok_commit | apply vregOk_regAt | intro _ | split | dsimp only

theorem ok_opLog2i {v : VEngine} {f : VFields}
    (ok_v : v.Ok) : (opLog2i v f).Ok := by
  unfold opLog2i
  repeat' with_reducible first | assumption | apply ok_commit | apply vregOk_regAt | intro _ | split | dsimp only

theorem ok_opRand {v : VEngine} {f : VFields} {k : DrawKey}
    (ok_v : v.Ok) : (opRand v f k).Ok := by
  unfold opRand
  repeat' with_reducible first | assumption | apply ok_commit | intro _ | split | dsimp only

theorem ok_opRbits {v : VEngine} {f : VFields} {k : DrawKey}
    (ok_v : v.Ok) : (opRbits v f k).Ok := by
  unfold opRbits
  repeat' with_reducible first | assumption | apply ok_commit | intro _ | split | dsimp only

theorem ok_commitReq {v : VEngine} {f : VFields} {w : BitVec 128} {outs : List ReqOut}
    (ok_v : v.Ok) : (commitReq v f w outs).Ok := by
  unfold commitReq
  repeat' with_reducible first | assumption | apply ok_commit | apply ok_raiseFlag | intro _ | split | dsimp only

theorem ok_siteStats {v : VEngine} {f : VFields} {ins : List ReqIn} {outs : List ReqOut}
    (ok_v : v.Ok) : (siteStats v f ins outs).Ok := by
  unfold siteStats
  repeat' with_reducible first | assumption | apply veOk_regs | apply veOk_masks | apply regsOk_modify | apply regsOk_zipIdx_map | exact regsOk_replicate | exact masksOk_start _ | apply masksOk_first | apply (List.length_modify ..).trans | apply (length_setAt ..).trans | apply (length_bump ..).trans | apply (length_zipIdx_map ..).trans | apply (List.length_map ..).trans | exact List.length_replicate | rfl | apply veOk_foldl | apply lanternOk_foldl | intro _ | split | apply inv_foldl | apply inv_foldl_fst | apply inv_foldl_snd | dsimp only | apply veOk_mk

theorem ok_reqAll {v : VEngine} {f : VFields} {k : DrawKey} {ins : List ReqIn}
    (ok_v : v.Ok) : (reqAll v f k ins).Ok := by
  unfold reqAll
  repeat' with_reducible first | assumption | apply ok_siteStats | apply ok_commitReq | intro _ | split | dsimp only

theorem ok_opReq {v : VEngine} {f : VFields} {k : DrawKey}
    (ok_v : v.Ok) : (opReq v f k).Ok := by
  unfold opReq
  repeat' with_reducible first | assumption | apply ok_reqAll | apply vregOk_regAt | intro _ | split | dsimp only

theorem ok_notePair {v : VEngine} {n : Nat}
    (ok_v : v.Ok) : (notePair v n).Ok := by
  unfold notePair
  repeat' with_reducible first | assumption | apply ok_raiseRecs | intro _ | split | dsimp only

theorem ok_opReqr {v : VEngine} {f : VFields} {k : DrawKey}
    (ok_v : v.Ok) : (opReqr v f k).Ok := by
  unfold opReqr
  repeat' with_reducible first | assumption | apply ok_notePair | apply ok_reqAll | intro _ | split | dsimp only

theorem ok_opRjam {v : VEngine} {f : VFields}
    (ok_v : v.Ok) : (opRjam v f).Ok := by
  unfold opRjam
  repeat' with_reducible first | assumption | apply ok_commit | apply ok_notePair | intro _ | split | dsimp only

theorem ok_opRec {v : VEngine} {f : VFields}
    (ok_v : v.Ok) : (opRec v f).Ok := by
  unfold opRec
  repeat' with_reducible first | assumption | apply ok_putPair | apply ok_raiseFlag | apply vregOk_regAt | intro _ | split | dsimp only

theorem ok_opRadd {v : VEngine} {f : VFields}
    (ok_v : v.Ok) : (opRadd v f).Ok := by
  unfold opRadd
  repeat' with_reducible first | assumption | apply ok_putPair | intro _ | split | dsimp only

theorem ok_opRsum {v : VEngine} {f : VFields}
    (ok_v : v.Ok) : (opRsum v f).Ok := by
  unfold opRsum
  repeat' with_reducible first | assumption | apply ok_commit | apply vregOk_regAt | apply veOk_foldl | apply lanternOk_foldl | intro _ | split | apply inv_foldl | apply inv_foldl_fst | apply inv_foldl_snd | dsimp only

theorem ok_extreme {v : VEngine} {f : VFields} {useMax : Bool}
    (ok_v : v.Ok) : (extreme v f useMax).Ok := by
  unfold extreme
  repeat' with_reducible first | assumption | apply ok_commit | apply vregOk_regAt | intro _ | split | dsimp only

theorem ok_opRmax {v : VEngine} {f : VFields}
    (ok_v : v.Ok) : (opRmax v f).Ok := by
  unfold opRmax
  repeat' with_reducible first | assumption | apply ok_extreme | intro _ | split | dsimp only

theorem ok_opRmin {v : VEngine} {f : VFields}
    (ok_v : v.Ok) : (opRmin v f).Ok := by
  unfold opRmin
  repeat' with_reducible first | assumption | apply ok_extreme | intro _ | split | dsimp only

theorem ok_opRcnt {v : VEngine} {f : VFields}
    (ok_v : v.Ok) : (opRcnt v f).Ok := by
  unfold opRcnt
  repeat' with_reducible first | assumption | apply ok_commit | intro _ | split | dsimp only

end Sys2Proof.Machine
end

