-- ==== Sys2Proof/Laws/InvWork.lean ====
section
/-! SUPPORT. Laws/InvWork.lean: the operations of Machine/Work.lean keep the invariant State.Inv. -/

namespace Sys2Proof.Machine

theorem inv_bumpBeacon {s : State} {l : Nat} {i : Nat} {n : Nat}
    (ok_s : s.Inv) : (bumpBeacon s l i n).Inv := by
  unfold bumpBeacon
  repeat' with_reducible first | assumption | apply inv_modLantern | apply lanternOk_events | apply lanternOk_dma | apply lanternOk_vec | apply (List.length_modify ..).trans | apply (length_setAt ..).trans | apply (length_bump ..).trans | apply (length_zipIdx_map ..).trans | apply (List.length_map ..).trans | exact List.length_replicate | rfl | intro _ | split | dsimp only | apply lanternOk_mk

theorem inv_bumpEvent {s : State} {l : Nat} {k : Nat} {n : Nat}
    (ok_s : s.Inv) : (bumpEvent s l k n).Inv := by
  unfold bumpEvent
  repeat' with_reducible first | assumption | apply inv_modLantern | apply lanternOk_events | apply lanternOk_dma | apply lanternOk_vec | apply (List.length_modify ..).trans | apply (length_setAt ..).trans | apply (length_bump ..).trans | apply (length_zipIdx_map ..).trans | apply (List.length_map ..).trans | exact List.length_replicate | rfl | intro _ | split | dsimp only | apply lanternOk_mk

theorem inv_startTest {s : State} {p : Part}
    (ok_s : s.Inv) : (startTest s p).Inv := by
  unfold startTest
  repeat' with_reducible first | assumption | apply inv_modKeeper | (refine inv_of_fst ?_ (by assumption)) | (refine inv_of_snd ?_ (by assumption)) | apply lanternOk_lanternAt | apply lanternOk_vec | apply vregOk_regAt | apply veOk_regs | apply veOk_masks | apply regsOk_modify | apply regsOk_zipIdx_map | exact regsOk_replicate | exact masksOk_start _ | apply masksOk_first | apply (List.length_modify ..).trans | apply (length_setAt ..).trans | apply (length_bump ..).trans | apply (length_zipIdx_map ..).trans | apply (List.length_map ..).trans | exact List.length_replicate | rfl | apply veOk_foldl | apply lanternOk_foldl | intro _ | split | apply inv_foldl | apply inv_foldl_fst | apply inv_foldl_snd | apply inv_foldr | dsimp only | apply veOk_mk

theorem inv_bumpEcc {s : State} {u : EccUnit} {i : Nat} {n : Nat}
    (ok_s : s.Inv) : (bumpEcc s u i n).Inv := by
  unfold bumpEcc
  repeat' with_reducible first | assumption | apply inv_modKeeper | intro _ | split | dsimp only

theorem inv_notePoisonLine {s : State} {mooring : Option Nat} {unit : Nat} {line : Nat}
    (ok_s : s.Inv) : (notePoisonLine s mooring unit line).Inv := by
  unfold notePoisonLine
  repeat' with_reducible first | assumption | apply inv_bumpEcc | apply inv_raiseEvent | apply inv_modMooring | intro _ | split | dsimp only

theorem inv_notePoison {s : State} {l : Nat} {a : Nat} {n : Nat}
    (ok_s : s.Inv) : (notePoison s l a n).Inv := by
  unfold notePoison
  repeat' with_reducible first | assumption | apply inv_notePoisonLine | apply inv_setFault | intro _ | split | apply inv_foldl | apply inv_foldl_fst | apply inv_foldl_snd | dsimp only

theorem inv_askKeeper {s : State} {addr : Nat} {w : Nat} {a : Nat} {n : Nat}
    (ok_s : s.Inv) : (askKeeper s addr w a n).Inv := by
  unfold askKeeper
  repeat' with_reducible first | assumption | apply inv_peerReads | apply inv_modKeeper | (refine inv_of_fst ?_ (by assumption)) | (refine inv_of_snd ?_ (by assumption)) | apply lanternOk_lanternAt | apply lanternOk_vec | apply vregOk_regAt | apply veOk_regs | apply veOk_masks | apply regsOk_modify | apply regsOk_zipIdx_map | exact regsOk_replicate | exact masksOk_start _ | apply masksOk_first | apply (List.length_modify ..).trans | apply (length_setAt ..).trans | apply (length_bump ..).trans | apply (length_zipIdx_map ..).trans | apply (List.length_map ..).trans | exact List.length_replicate | rfl | apply veOk_foldl | apply lanternOk_foldl | intro _ | split | apply inv_foldl | apply inv_foldl_fst | apply inv_foldl_snd | apply inv_foldr | dsimp only | apply veOk_mk

theorem inv_keeperAnswer {s : State} {tag : Nat} {key : Nat} {bs : List Byte} {status : Nat}
    (ok_s : s.Inv) : (keeperAnswer s tag key bs status).Inv := by
  unfold keeperAnswer
  repeat' with_reducible first | assumption | apply inv_modKeeper | (refine inv_of_fst ?_ (by assumption)) | (refine inv_of_snd ?_ (by assumption)) | apply lanternOk_lanternAt | apply lanternOk_vec | apply vregOk_regAt | apply veOk_regs | apply veOk_masks | apply regsOk_modify | apply regsOk_zipIdx_map | exact regsOk_replicate | exact masksOk_start _ | apply masksOk_first | apply (List.length_modify ..).trans | apply (length_setAt ..).trans | apply (length_bump ..).trans | apply (length_zipIdx_map ..).trans | apply (List.length_map ..).trans | exact List.length_replicate | rfl | apply veOk_foldl | apply lanternOk_foldl | intro _ | split | apply inv_foldl | apply inv_foldl_fst | apply inv_foldl_snd | apply inv_foldr | dsimp only | apply veOk_mk

theorem inv_sysCopy {s : State} {n : Nat}
    (ok_s : s.Inv) : (sysCopy s n).Inv := by
  unfold sysCopy
  repeat' with_reducible first | assumption | apply inv_modChan | (refine inv_of_fst ?_ (by assumption)) | (refine inv_of_snd ?_ (by assumption)) | apply lanternOk_lanternAt | apply lanternOk_vec | apply vregOk_regAt | apply veOk_regs | apply veOk_masks | apply regsOk_modify | apply regsOk_zipIdx_map | exact regsOk_replicate | exact masksOk_start _ | apply masksOk_first | apply (List.length_modify ..).trans | apply (length_setAt ..).trans | apply (length_bump ..).trans | apply (length_zipIdx_map ..).trans | apply (List.length_map ..).trans | exact List.length_replicate | rfl | apply veOk_foldl | apply lanternOk_foldl | intro _ | split | apply inv_foldl | apply inv_foldl_fst | apply inv_foldl_snd | apply inv_foldr | dsimp only | apply veOk_mk

theorem inv_readThen {s : State} {addr : Nat} {n : Nat} (act : Except Nat (List Byte) → State → State)
    (ok_s : s.Inv) (ok_act : ∀ (y0 : Except Nat (List Byte)) (y1 : State), y1.Inv → (act y0 y1).Inv) :
    (readThen s addr n act).Inv := by
  unfold readThen
  repeat' with_reducible first | assumption | apply inv_sysCopy | apply inv_askKeeper | apply inv_modKeeper | apply inv_notePoisonLine | apply ok_act | intro _ | split | apply inv_foldl | dsimp only

end Sys2Proof.Machine
end

