-- ==== Sys2Proof/Laws/InvVector.lean ====
section
/-! SUPPORT. Laws/InvVector.lean: the operations of Machine/Vector.lean keep the invariant State.Inv. -/

namespace Sys2Proof.Machine

theorem inv_vecAddrErrorAt {s : State} {l : Nat} {cause : Nat} {row : Nat} {index : Nat}
    (ok_s : s.Inv) : (vecAddrErrorAt s l cause row index).Inv := by
  unfold vecAddrErrorAt
  repeat' with_reducible first | assumption | apply inv_lanternEvent | apply inv_modVec | apply inv_setFault | apply ok_raiseFlag | apply inv_raiseEventMore | (refine inv_of_fst ?_ (by assumption)) | (refine inv_of_snd ?_ (by assumption)) | apply lanternOk_lanternAt | apply lanternOk_vec | apply vregOk_regAt | apply veOk_regs | apply veOk_masks | apply regsOk_modify | apply regsOk_zipIdx_map | exact regsOk_replicate | exact masksOk_start _ | apply masksOk_first | apply (List.length_modify ..).trans | apply (length_setAt ..).trans | apply (length_bump ..).trans | apply (length_zipIdx_map ..).trans | apply (List.length_map ..).trans | exact List.length_replicate | rfl | apply veOk_foldl | apply lanternOk_foldl | intro _ | split | apply inv_foldl | apply inv_foldl_fst | apply inv_foldl_snd | apply inv_foldr | dsimp only | apply veOk_mk

theorem inv_vecAddrError {s : State} {l : Nat} {cause : Nat}
    (ok_s : s.Inv) : (vecAddrError s l cause).Inv := by
  unfold vecAddrError
  repeat' with_reducible first | assumption | apply inv_vecAddrErrorAt | apply inv_modVec | apply inv_setFault | apply ok_raiseFlag | apply inv_raiseEventMore | apply lanternOk_lanternAt | apply lanternOk_vec | intro _ | split | dsimp only

theorem inv_storeLocal {s : State} {l : Nat} {a : Nat} {bs : List Byte}
    (ok_s : s.Inv) : (storeLocal s l a bs).Inv := by
  unfold storeLocal
  repeat' with_reducible first | assumption | apply inv_setFault | apply inv_writeMem | intro _ | split | dsimp only

theorem inv_performPieceAt {s : State} {l : Nat} {row : Nat} {index : Nat} {p : Nat × List Byte}
    (ok_s : s.Inv) : (performPieceAt s l row index p).Inv := by
  unfold performPieceAt
  repeat' with_reducible first | assumption | apply inv_storeLocal | apply inv_peerWrites | apply inv_modVec | apply inv_hostWrite | apply inv_vecAddrErrorAt | (refine inv_of_fst ?_ (by assumption)) | (refine inv_of_snd ?_ (by assumption)) | apply lanternOk_lanternAt | apply lanternOk_vec | apply vregOk_regAt | apply veOk_regs | apply veOk_masks | apply regsOk_modify | apply regsOk_zipIdx_map | exact regsOk_replicate | exact masksOk_start _ | apply masksOk_first | apply (List.length_modify ..).trans | apply (length_setAt ..).trans | apply (length_bump ..).trans | apply (length_zipIdx_map ..).trans | apply (List.length_map ..).trans | exact List.length_replicate | rfl | apply veOk_foldl | apply lanternOk_foldl | intro _ | split | apply inv_foldl | apply inv_foldl_fst | apply inv_foldl_snd | apply inv_foldr | dsimp only | apply veOk_mk

theorem inv_performPiece {s : State} {l : Nat} {p : Nat × List Byte}
    (ok_s : s.Inv) : (performPiece s l p).Inv := by
  unfold performPiece
  repeat' with_reducible first | assumption | apply inv_performPieceAt | apply inv_storeLocal | apply inv_peerWrites | apply inv_modVec | apply inv_vecAddrError | (refine inv_of_fst ?_ (by assumption)) | apply veOk_regs | apply veOk_masks | apply regsOk_modify | apply regsOk_zipIdx_map | exact regsOk_replicate | exact masksOk_start _ | apply masksOk_first | apply (List.length_modify ..).trans | apply (length_setAt ..).trans | apply (length_bump ..).trans | apply (length_zipIdx_map ..).trans | apply (List.length_map ..).trans | exact List.length_replicate | rfl | intro _ | split | dsimp only | apply veOk_mk

theorem inv_performStore {s : State} {l : Nat} {st : VStore}
    (ok_s : s.Inv) : (performStore s l st).Inv := by
  unfold performStore
  repeat' with_reducible first | assumption | apply inv_performPieceAt | apply inv_performPiece | intro _ | split | apply inv_foldl | apply inv_foldl_fst | apply inv_foldl_snd | dsimp only

theorem inv_performStores {s : State} {l : Nat}
    (ok_s : s.Inv) : (performStores s l).Inv := by
  unfold performStores
  repeat' with_reducible first | assumption | apply inv_performStore | apply inv_modVec | apply lanternOk_lanternAt | apply lanternOk_vec | apply veOk_regs | apply veOk_masks | apply regsOk_modify | apply regsOk_zipIdx_map | exact regsOk_replicate | exact masksOk_start _ | apply masksOk_first | apply (List.length_modify ..).trans | apply (length_setAt ..).trans | apply (length_bump ..).trans | apply (length_zipIdx_map ..).trans | apply (List.length_map ..).trans | exact List.length_replicate | rfl | apply veOk_foldl | apply lanternOk_foldl | intro _ | split | apply inv_foldl | apply inv_foldl_fst | apply inv_foldl_snd | dsimp only | apply veOk_mk

theorem inv_issueStore {s : State} {l : Nat} {pieces : List (Nat × List Byte)}
    (ok_s : s.Inv) : (issueStore s l pieces).Inv := by
  unfold issueStore
  repeat' with_reducible first | assumption | apply inv_vecAddrError | apply inv_performStore | apply inv_performStores | apply inv_modVec | apply lanternOk_lanternAt | apply lanternOk_vec | apply veOk_regs | apply veOk_masks | apply regsOk_modify | apply regsOk_zipIdx_map | exact regsOk_replicate | exact masksOk_start _ | apply masksOk_first | apply (List.length_modify ..).trans | apply (length_setAt ..).trans | apply (length_bump ..).trans | apply (length_zipIdx_map ..).trans | apply (List.length_map ..).trans | exact List.length_replicate | rfl | intro _ | split | dsimp only | apply veOk_mk

theorem ok_deliverLoad {v : VEngine} {ld : VLoad}
    (ok_v : v.Ok) : (deliverLoad v ld).Ok := by
  unfold deliverLoad
  repeat' with_reducible first | assumption | apply ok_satReg | apply ok_commit | apply ok_satPair | apply ok_putPair | intro _ | split | dsimp only

theorem inv_fetchPart {s : State} {l : Nat} {ld : VLoad} {p : LoadPart}
    (ok_s : s.Inv) : (fetchPart s l ld p).1.Inv := by
  unfold fetchPart
  repeat' with_reducible first | assumption | apply inv_vecAddrError | apply inv_notePoison | apply inv_peerReads | (refine inv_of_fst ?_ (by assumption)) | apply memoryWf_setBytes | intro _ | split | dsimp only

theorem inv_fetchParts {s : State} {l : Nat} {ld : VLoad} {ps : List LoadPart}
    (ok_s : s.Inv) : (fetchParts s l ld ps).1.Inv := by
  unfold fetchParts
  repeat' with_reducible first | assumption | apply inv_fetchPart | (refine inv_of_fst ?_ (by assumption)) | intro _ | split | apply inv_foldl | apply inv_foldl_fst | apply inv_foldl_snd | dsimp only

theorem inv_issueLoad {s : State} {l : Nat} {vd : Nat} {kind : LoadKind} {w : BitVec 128} {parts : List LoadPart}
    (ok_s : s.Inv) : (issueLoad s l vd kind w parts).Inv := by
  unfold issueLoad
  repeat' with_reducible first | assumption | apply inv_vecAddrError | apply inv_modVec | apply ok_deliverLoad | apply inv_fetchParts | apply inv_performStores | (refine inv_of_fst ?_ (by assumption)) | apply lanternOk_lanternAt | apply lanternOk_vec | apply veOk_regs | apply veOk_masks | apply regsOk_modify | apply regsOk_zipIdx_map | exact regsOk_replicate | exact masksOk_start _ | apply masksOk_first | apply (List.length_modify ..).trans | apply (length_setAt ..).trans | apply (length_bump ..).trans | apply (length_zipIdx_map ..).trans | apply (List.length_map ..).trans | exact List.length_replicate | rfl | intro _ | split | dsimp only | apply veOk_mk

theorem inv_issueLdb {s : State} {l : Nat} {f : VFields}
    (ok_s : s.Inv) : (issueLdb s l f).Inv := by
  unfold issueLdb
  repeat' with_reducible first | assumption | apply inv_issueLoad | apply lanternOk_lanternAt | apply lanternOk_vec | intro _ | split | dsimp only

theorem inv_issueLdw {s : State} {l : Nat} {f : VFields}
    (ok_s : s.Inv) : (issueLdw s l f).Inv := by
  unfold issueLdw
  repeat' with_reducible first | assumption | apply inv_issueLoad | apply lanternOk_lanternAt | apply lanternOk_vec | intro _ | split | dsimp only

theorem inv_issueLdr {s : State} {l : Nat} {f : VFields}
    (ok_s : s.Inv) : (issueLdr s l f).Inv := by
  unfold issueLdr
  repeat' with_reducible first | assumption | apply inv_issueLoad | apply lanternOk_lanternAt | apply lanternOk_vec | intro _ | split | dsimp only

theorem inv_issueStb {s : State} {l : Nat} {f : VFields}
    (ok_s : s.Inv) : (issueStb s l f).Inv := by
  unfold issueStb
  repeat' with_reducible first | assumption | apply inv_modVec | apply ok_raiseFlag | apply inv_issueStore | apply lanternOk_lanternAt | apply vregOk_regAt | apply lanternOk_vec | intro _ | split | dsimp only

theorem inv_issueStw {s : State} {l : Nat} {f : VFields}
    (ok_s : s.Inv) : (issueStw s l f).Inv := by
  unfold issueStw
  repeat' with_reducible first | assumption | apply inv_issueStore | apply lanternOk_lanternAt | apply vregOk_regAt | apply lanternOk_vec | intro _ | split | dsimp only

theorem inv_issueStr {s : State} {l : Nat} {f : VFields}
    (ok_s : s.Inv) : (issueStr s l f).Inv := by
  unfold issueStr
  repeat' with_reducible first | assumption | apply inv_issueStore | apply lanternOk_lanternAt | apply lanternOk_vec | intro _ | split | dsimp only

theorem ok_modEntries {x : Lantern} {w : BitVec 128} (g : Lantern → Nat → Lantern)
    (ok_x : x.Ok) (ok_g : ∀ (y0 : Lantern) (y1 : Nat), y0.Ok → (g y0 y1).Ok) : (modEntries x w g).Ok := by
  unfold modEntries
  repeat' with_reducible first | assumption | apply ok_g | apply veOk_foldl | apply lanternOk_foldl | intro _ | split | apply inv_foldl | apply inv_foldl_fst | apply inv_foldl_snd | dsimp only

theorem inv_issueMergeAdd {s : State} {l : Nat} {f : VFields}
    (ok_s : s.Inv) : (issueMergeAdd s l f).Inv := by
  unfold issueMergeAdd
  repeat' with_reducible first | assumption | apply inv_vecAddrError | apply inv_modLantern | apply ok_modEntries | apply ok_putEntry | apply lanternOk_lanternAt | apply lanternOk_vec | intro _ | split | dsimp only

theorem inv_issueMergeGet {s : State} {l : Nat} {f : VFields} {take : Bool}
    (ok_s : s.Inv) : (issueMergeGet s l f take).Inv := by
  unfold issueMergeGet
  repeat' with_reducible first | assumption | apply inv_vecAddrError | apply inv_modVec | apply ok_satPair | apply ok_raiseRecs | apply ok_putPair | apply inv_modLantern | apply ok_modEntries | apply ok_emptyEntry | apply lanternOk_lanternAt | apply lanternOk_vec | intro _ | split | dsimp only

theorem inv_effect {s : State} {l : Nat} {op : Nat} {f : VFields}
    (ok_s : s.Inv) : (effect s l op f).Inv := by
  unfold effect
  repeat' with_reducible first | assumption | apply inv_modVec | apply ok_opMov | apply ok_opLdi | apply ok_opSetg | apply ok_opScale | apply ok_opGetg | apply ok_opSel | apply ok_opAdd | apply ok_opSub | apply ok_opNeg | apply ok_opAbs | apply ok_opMul | apply ok_opMulsh | apply ok_opMadd | apply ok_opMsub | apply ok_opMin | apply ok_opMax | apply ok_opClamp | apply ok_opAddi | apply ok_opMuli | apply ok_opResc | apply ok_opRescf | apply ok_opAlign | apply ok_opNorm | apply ok_opAnd | apply ok_opOr | apply ok_opXor | apply ok_opNot | apply ok_opShli | apply ok_opShra | apply ok_opShrl | apply ok_opCeq | apply ok_opCne | apply ok_opClt | apply ok_opCle | apply ok_opCgt | apply ok_opCge | apply ok_opCsat | apply ok_opMand | apply ok_opMor | apply ok_opMnot | apply ok_opTlu | apply ok_opRecip | apply ok_opRsqrt | apply ok_opLog2i | apply ok_opRand | apply ok_opRbits | apply ok_opReq | apply ok_opReqr | apply ok_opRec | apply ok_opRjam | apply ok_opRadd | apply inv_issueMergeAdd | apply inv_issueMergeGet | apply ok_opRsum | apply ok_opRmax | apply ok_opRmin | apply ok_opRcnt | apply inv_issueLdb | apply inv_issueStb | apply inv_issueLdw | apply inv_issueStw | apply inv_issueLdr | apply inv_issueStr | intro _ | split | dsimp only

theorem inv_retireIns {s : State} {l : Nat}
    (ok_s : s.Inv) : (retireIns s l).Inv := by
  unfold retireIns
  repeat' with_reducible first | assumption | apply inv_bumpBeacon | apply inv_modVec | apply veOk_regs | apply veOk_masks | apply regsOk_modify | apply regsOk_zipIdx_map | exact regsOk_replicate | exact masksOk_start _ | apply masksOk_first | apply (List.length_modify ..).trans | apply (length_setAt ..).trans | apply (length_bump ..).trans | apply (length_zipIdx_map ..).trans | apply (List.length_map ..).trans | exact List.length_replicate | rfl | intro _ | split | dsimp only | apply veOk_mk

theorem inv_runIns {s : State} {l : Nat} {i : VIns}
    (ok_s : s.Inv) : (runIns s l i).Inv := by
  unfold runIns
  repeat' with_reducible first | assumption | apply inv_retireIns | apply inv_effect | intro _ | split | dsimp only

theorem inv_runList {l : Nat} {x1 : List VIns} {x2 : State}
    (ok_x2 : x2.Inv) : (runList l x1 x2).Inv := by
  induction x1 generalizing x2 with
  | nil =>
    unfold runList
    repeat' with_reducible first | assumption | apply inv_modVec | apply inv_runIns | apply lanternOk_lanternAt | apply lanternOk_vec | apply veOk_regs | apply veOk_masks | apply regsOk_modify | apply regsOk_zipIdx_map | exact regsOk_replicate | exact masksOk_start _ | apply masksOk_first | apply (List.length_modify ..).trans | apply (length_setAt ..).trans | apply (length_bump ..).trans | apply (length_zipIdx_map ..).trans | apply (List.length_map ..).trans | exact List.length_replicate | rfl | intro _ | split | dsimp only | apply veOk_mk
  | cons y ys ih =>
    unfold runList
    repeat' with_reducible first | assumption | apply ih | apply inv_modVec | apply inv_runIns | apply lanternOk_lanternAt | apply lanternOk_vec | apply veOk_regs | apply veOk_masks | apply regsOk_modify | apply regsOk_zipIdx_map | exact regsOk_replicate | exact masksOk_start _ | apply masksOk_first | apply (List.length_modify ..).trans | apply (length_setAt ..).trans | apply (length_bump ..).trans | apply (length_zipIdx_map ..).trans | apply (List.length_map ..).trans | exact List.length_replicate | rfl | intro _ | split | dsimp only | apply veOk_mk

theorem inv_issueOne {s : State} {l : Nat} {op : Nat} {f : VFields} (act : State → VFields → State)
    (ok_s : s.Inv) (ok_act : ∀ (y0 : State) (y1 : VFields), y0.Inv → (act y0 y1).Inv) : (issueOne s l op f act).Inv := by
  unfold issueOne
  repeat' with_reducible first | assumption | apply inv_retireIns | apply ok_act | apply lanternOk_lanternAt | apply lanternOk_vec | intro _ | split | dsimp only

theorem inv_issueLane {s : State} {l : Nat} {op : Nat} {f : VFields} (g : VEngine → VFields → VEngine)
    (ok_s : s.Inv) (ok_g : ∀ (y0 : VEngine) (y1 : VFields), y0.Ok → (g y0 y1).Ok) : (issueLane s l op f g).Inv := by
  unfold issueLane
  repeat' with_reducible first | assumption | apply inv_issueOne | apply inv_modVec | apply ok_g | intro _ | split | dsimp only

theorem inv_issueKeyed {s : State} {l : Nat} {op : Nat} {f : VFields} (g : VEngine → VFields → DrawKey → VEngine)
    (ok_s : s.Inv) (ok_g : ∀ (y0 : VEngine) (y1 : VFields) (y2 : DrawKey), y0.Ok → (g y0 y1 y2).Ok) : (issueKeyed s l op f g).Inv := by
  unfold issueKeyed
  repeat' with_reducible first | assumption | apply inv_issueOne | apply inv_modVec | apply ok_g | intro _ | split | dsimp only

theorem ok_clearRegs {v : VEngine} {keep : Nat → Bool}
    (ok_v : v.Ok) : (clearRegs v keep).Ok := by
  unfold clearRegs
  repeat' with_reducible first | assumption | exact vregOk_zero | apply veOk_regs | apply veOk_masks | apply regsOk_modify | apply regsOk_zipIdx_map | exact regsOk_replicate | exact masksOk_start _ | apply masksOk_first | apply (List.length_modify ..).trans | apply (length_setAt ..).trans | apply (length_bump ..).trans | apply (length_zipIdx_map ..).trans | apply (List.length_map ..).trans | exact List.length_replicate | rfl | intro _ | split | dsimp only | apply veOk_mk

theorem ok_setRow {v : VEngine} {b : Binding} {i : Nat}
    (ok_v : v.Ok) : (setRow v b i).Ok := by
  unfold setRow
  repeat' with_reducible first | assumption | apply veOk_regs | apply veOk_masks | apply regsOk_modify | apply regsOk_zipIdx_map | exact regsOk_replicate | exact masksOk_start _ | apply masksOk_first | apply (List.length_modify ..).trans | apply (length_setAt ..).trans | apply (length_bump ..).trans | apply (length_zipIdx_map ..).trans | apply (List.length_map ..).trans | exact List.length_replicate | rfl | intro _ | split | dsimp only | apply veOk_mk

theorem ok_startRow {v : VEngine} {j : BindJob} {i : Nat} {m0 : BitVec 128} {keep : Nat → Bool}
    (ok_v : v.Ok) : (startRow v j i m0 keep).Ok := by
  unfold startRow
  repeat' with_reducible first | assumption | apply ok_setRow | apply ok_clearRegs | apply veOk_regs | apply veOk_masks | apply regsOk_modify | apply regsOk_zipIdx_map | exact regsOk_replicate | exact masksOk_start _ | apply masksOk_first | apply (List.length_modify ..).trans | apply (length_setAt ..).trans | apply (length_bump ..).trans | apply (length_zipIdx_map ..).trans | apply (List.length_map ..).trans | exact List.length_replicate | rfl | intro _ | split | dsimp only | apply veOk_mk

theorem ok_deliverRow {v : VEngine} {b : Binding} {r : DrainRow}
    (ok_v : v.Ok) : (deliverRow v b r).Ok := by
  unfold deliverRow
  repeat' with_reducible first | assumption | apply ok_raiseRecs | apply ok_putPair | apply ok_commit | intro _ | split | dsimp only

theorem ok_countRow {x : Lantern} {d : Option DrainRow}
    (ok_x : x.Ok) : (countRow x d).Ok := by
  unfold countRow
  repeat' with_reducible first | assumption | apply lanternOk_events | apply lanternOk_dma | apply lanternOk_vec | apply veOk_regs | apply veOk_masks | apply regsOk_modify | apply regsOk_zipIdx_map | exact regsOk_replicate | exact masksOk_start _ | apply masksOk_first | apply (List.length_modify ..).trans | apply (length_setAt ..).trans | apply (length_bump ..).trans | apply (length_zipIdx_map ..).trans | apply (List.length_map ..).trans | exact List.length_replicate | rfl | intro _ | split | dsimp only | apply lanternOk_mk | apply veOk_mk

theorem inv_chainRow {s : State} {l : Nat} {j : BindJob} {i : Nat} {d : Option DrainRow}
    (ok_s : s.Inv) : (chainRow s l j i d).Inv := by
  unfold chainRow
  repeat' with_reducible first | assumption | apply inv_modLantern | apply ok_countRow | apply ok_startRow | apply ok_deliverRow | apply inv_runList | apply lanternOk_events | apply lanternOk_dma | apply lanternOk_vec | apply veOk_regs | apply veOk_masks | apply regsOk_modify | apply regsOk_zipIdx_map | exact regsOk_replicate | exact masksOk_start _ | apply masksOk_first | apply (List.length_modify ..).trans | apply (length_setAt ..).trans | apply (length_bump ..).trans | apply (length_zipIdx_map ..).trans | apply (List.length_map ..).trans | exact List.length_replicate | rfl | intro _ | split | dsimp only | apply lanternOk_mk | apply veOk_mk

theorem inv_chainTail {s : State} {l : Nat} {j : BindJob} {i : Nat}
    (ok_s : s.Inv) : (chainTail s l j i).Inv := by
  unfold chainTail
  repeat' with_reducible first | assumption | apply inv_modVec | apply ok_startRow | apply inv_runList | apply veOk_regs | apply veOk_masks | apply regsOk_modify | apply regsOk_zipIdx_map | exact regsOk_replicate | exact masksOk_start _ | apply masksOk_first | apply (List.length_modify ..).trans | apply (length_setAt ..).trans | apply (length_bump ..).trans | apply (length_zipIdx_map ..).trans | apply (List.length_map ..).trans | exact List.length_replicate | rfl | intro _ | split | dsimp only | apply veOk_mk

theorem inv_arriveLoad {s : State} {l : Nat}
    (ok_s : s.Inv) : (arriveLoad s l).Inv := by
  unfold arriveLoad
  repeat' with_reducible first | assumption | apply inv_foldr | apply inv_foldl_snd | apply inv_foldl_fst | apply inv_foldl | apply inv_modVec | apply ok_deliverLoad | apply inv_runList | apply lanternOk_lanternAt | apply lanternOk_vec | apply veOk_regs | apply veOk_masks | apply regsOk_modify | apply regsOk_zipIdx_map | exact regsOk_replicate | exact masksOk_start _ | apply masksOk_first | apply (List.length_modify ..).trans | apply (length_setAt ..).trans | apply (length_bump ..).trans | apply (length_zipIdx_map ..).trans | apply (List.length_map ..).trans | exact List.length_replicate | rfl | intro _ | split | dsimp only | apply veOk_mk

theorem inv_execLoadArrival {l : Nat} {s : State}
    (ok_s : s.Inv) : OutcomeInv (execLoadArrival l s) := by
  exact outcomeInv_next (inv_arriveLoad ok_s)

theorem inv_issueMerge {s : State} {l : Nat} {op : Nat} {f : VFields} (act : State → VFields → State)
    (ok_s : s.Inv) (ok_act : ∀ (y0 : State) (y1 : VFields), y0.Inv → (act y0 y1).Inv) : (issueMerge s l op f act).Inv := by
  unfold issueMerge
  repeat' with_reducible first | assumption | apply inv_issueOne | apply ok_act | apply lanternOk_lanternAt | apply lanternOk_vec | intro _ | split | dsimp only

theorem inv_execVMov {l : Nat} {f : VFields} {s : State}
    (ok_s : s.Inv) : OutcomeInv (execVMov l f s) := by
  unfold execVMov
  repeat' with_reducible first | assumption | apply ok_opSel | apply inv_execVSel | apply ok_opGetg | apply inv_execVGetg | apply ok_opScale | apply inv_execVScale | apply ok_opSetg | apply inv_execVSetg | apply ok_opLdi | apply inv_execVLdi | apply outcomeInv_next | apply outcomeInv_fault | apply inv_issueLane | apply ok_opMov | intro _ | split | dsimp only

theorem inv_execVLdi {l : Nat} {f : VFields} {s : State}
    (ok_s : s.Inv) : OutcomeInv (execVLdi l f s) := by
  unfold execVLdi
  repeat' with_reducible first | assumption | apply outcomeInv_next | apply outcomeInv_fault | apply inv_issueLane | apply ok_opLdi | intro _ | split | dsimp only

theorem inv_execVSetg {l : Nat} {f : VFields} {s : State}
    (ok_s : s.Inv) : OutcomeInv (execVSetg l f s) := by
  unfold execVSetg
  repeat' with_reducible first | assumption | apply outcomeInv_next | apply outcomeInv_fault | apply inv_issueLane | apply ok_opSetg | intro _ | split | dsimp only

theorem inv_execVScale {l : Nat} {f : VFields} {s : State}
    (ok_s : s.Inv) : OutcomeInv (execVScale l f s) := by
  unfold execVScale
  repeat' with_reducible first | assumption | apply outcomeInv_next | apply outcomeInv_fault | apply inv_issueLane | apply ok_opScale | intro _ | split | dsimp only

theorem inv_execVGetg {l : Nat} {f : VFields} {s : State}
    (ok_s : s.Inv) : OutcomeInv (execVGetg l f s) := by
  unfold execVGetg
  repeat' with_reducible first | assumption | apply outcomeInv_next | apply outcomeInv_fault | apply inv_issueLane | apply ok_opGetg | intro _ | split | dsimp only

theorem inv_execVSel {l : Nat} {f : VFields} {s : State}
    (ok_s : s.Inv) : OutcomeInv (execVSel l f s) := by
  unfold execVSel
  repeat' with_reducible first | assumption | apply outcomeInv_next | apply outcomeInv_fault | apply inv_issueLane | apply ok_opSel | intro _ | split | dsimp only

theorem inv_execVNop {l : Nat} {f : VFields} {s : State}
    (ok_s : s.Inv) : OutcomeInv (execVNop l f s) := by
  unfold execVNop
  repeat' with_reducible first | assumption | apply outcomeInv_next | apply outcomeInv_fault | apply inv_issueOne | intro _ | split | dsimp only

theorem inv_execVAdd {l : Nat} {f : VFields} {s : State}
    (ok_s : s.Inv) : OutcomeInv (execVAdd l f s) := by
  unfold execVAdd
  repeat' with_reducible first | assumption | apply inv_issueStr | apply inv_execVStr | apply inv_issueLdr | apply inv_execVLdr | apply inv_issueStw | apply inv_execVStw | apply inv_issueLdw | apply inv_execVLdw | apply inv_issueStb | apply inv_execVStb | apply inv_issueLdb | apply inv_issueOne | apply inv_execVLdb | apply ok_opRcnt | apply inv_execVRcnt | apply ok_opRmin | apply inv_execVRmin | apply ok_opRmax | apply inv_execVRmax | apply ok_opRsum | apply inv_execVRsum | apply inv_execVMergeTake | apply inv_issueMergeGet | apply inv_execVMergeRead | apply inv_issueMergeAdd | apply inv_issueMerge | apply inv_execVMergeAdd | apply ok_opRadd | apply inv_execVRadd | apply ok_opRjam | apply inv_execVRjam | apply ok_opRec | apply inv_execVRec | apply ok_opReqr | apply inv_execVReqr | apply ok_opReq | apply inv_execVReq | apply ok_opRbits | apply inv_execVRbits | apply ok_opRand | apply inv_issueKeyed | apply inv_execVRand | apply ok_opLog2i | apply inv_execVLog2i | apply ok_opRsqrt | apply inv_execVRsqrt | apply ok_opRecip | apply inv_execVRecip | apply ok_opTlu | apply inv_execVTlu | apply ok_opMnot | apply inv_execVMnot | apply ok_opMor | apply inv_execVMor | apply ok_opMand | apply inv_execVMand | apply ok_opCsat | apply inv_execVCsat | apply ok_opCge | apply inv_execVCge | apply ok_opCgt | apply inv_execVCgt | apply ok_opCle | apply inv_execVCle | apply ok_opClt | apply inv_execVClt | apply ok_opCne | apply inv_execVCne | apply ok_opCeq | apply inv_execVCeq | apply ok_opShrl | apply inv_execVShrl | apply ok_opShra | apply inv_execVShra | apply ok_opShli | apply inv_execVShli | apply ok_opNot | apply inv_execVNot | apply ok_opXor | apply inv_execVXor | apply ok_opOr | apply inv_execVOr | apply ok_opAnd | apply inv_execVAnd | apply ok_opNorm | apply inv_execVNorm | apply ok_opAlign | apply inv_execVAlign | apply ok_opRescf | apply inv_execVRescf | apply ok_opResc | apply inv_execVResc | apply ok_opMuli | apply inv_execVMuli | apply ok_opAddi | apply inv_execVAddi | apply ok_opClamp | apply inv_execVClamp | apply ok_opMax | apply inv_execVMax | apply ok_opMin | apply inv_execVMin | apply ok_opMsub | apply inv_execVMsub | apply ok_opMadd | apply inv_execVMadd | apply ok_opMulsh | apply inv_execVMulsh | apply ok_opMul | apply inv_execVMul | apply ok_opAbs | apply inv_execVAbs | apply ok_opNeg | apply inv_execVNeg | apply ok_opSub | apply inv_execVSub | apply outcomeInv_next | apply outcomeInv_fault | apply inv_issueLane | apply ok_opAdd | intro _ | split | dsimp only

theorem inv_execVSub {l : Nat} {f : VFields} {s : State}
    (ok_s : s.Inv) : OutcomeInv (execVSub l f s) := by
  unfold execVSub
  repeat' with_reducible first | assumption | apply outcomeInv_next | apply outcomeInv_fault | apply inv_issueLane | apply ok_opSub | intro _ | split | dsimp only

theorem inv_execVNeg {l : Nat} {f : VFields} {s : State}
    (ok_s : s.Inv) : OutcomeInv (execVNeg l f s) := by
  unfold execVNeg
  repeat' with_reducible first | assumption | apply outcomeInv_next | apply outcomeInv_fault | apply inv_issueLane | apply ok_opNeg | intro _ | split | dsimp only

theorem inv_execVAbs {l : Nat} {f : VFields} {s : State}
    (ok_s : s.Inv) : OutcomeInv (execVAbs l f s) := by
  unfold execVAbs
  repeat' with_reducible first | assumption | apply outcomeInv_next | apply outcomeInv_fault | apply inv_issueLane | apply ok_opAbs | intro _ | split | dsimp only

theorem inv_execVMul {l : Nat} {f : VFields} {s : State}
    (ok_s : s.Inv) : OutcomeInv (execVMul l f s) := by
  unfold execVMul
  repeat' with_reducible first | assumption | apply outcomeInv_next | apply outcomeInv_fault | apply inv_issueLane | apply ok_opMul | intro _ | split | dsimp only

theorem inv_execVMulsh {l : Nat} {f : VFields} {s : State}
    (ok_s : s.Inv) : OutcomeInv (execVMulsh l f s) := by
  unfold execVMulsh
  repeat' with_reducible first | assumption | apply outcomeInv_next | apply outcomeInv_fault | apply inv_issueLane | apply ok_opMulsh | intro _ | split | dsimp only

theorem inv_execVMadd {l : Nat} {f : VFields} {s : State}
    (ok_s : s.Inv) : OutcomeInv (execVMadd l f s) := by
  unfold execVMadd
  repeat' with_reducible first | assumption | apply outcomeInv_next | apply outcomeInv_fault | apply inv_issueLane | apply ok_opMadd | intro _ | split | dsimp only

theorem inv_execVMsub {l : Nat} {f : VFields} {s : State}
    (ok_s : s.Inv) : OutcomeInv (execVMsub l f s) := by
  unfold execVMsub
  repeat' with_reducible first | assumption | apply outcomeInv_next | apply outcomeInv_fault | apply inv_issueLane | apply ok_opMsub | intro _ | split | dsimp only

theorem inv_execVMin {l : Nat} {f : VFields} {s : State}
    (ok_s : s.Inv) : OutcomeInv (execVMin l f s) := by
  unfold execVMin
  repeat' with_reducible first | assumption | apply outcomeInv_next | apply outcomeInv_fault | apply inv_issueLane | apply ok_opMin | intro _ | split | dsimp only

theorem inv_execVMax {l : Nat} {f : VFields} {s : State}
    (ok_s : s.Inv) : OutcomeInv (execVMax l f s) := by
  unfold execVMax
  repeat' with_reducible first | assumption | apply outcomeInv_next | apply outcomeInv_fault | apply inv_issueLane | apply ok_opMax | intro _ | split | dsimp only

theorem inv_execVClamp {l : Nat} {f : VFields} {s : State}
    (ok_s : s.Inv) : OutcomeInv (execVClamp l f s) := by
  unfold execVClamp
  repeat' with_reducible first | assumption | apply outcomeInv_next | apply outcomeInv_fault | apply inv_issueLane | apply ok_opClamp | intro _ | split | dsimp only

theorem inv_execVAddi {l : Nat} {f : VFields} {s : State}
    (ok_s : s.Inv) : OutcomeInv (execVAddi l f s) := by
  unfold execVAddi
  repeat' with_reducible first | assumption | apply outcomeInv_next | apply outcomeInv_fault | apply inv_issueLane | apply ok_opAddi | intro _ | split | dsimp only

theorem inv_execVMuli {l : Nat} {f : VFields} {s : State}
    (ok_s : s.Inv) : OutcomeInv (execVMuli l f s) := by
  unfold execVMuli
  repeat' with_reducible first | assumption | apply outcomeInv_next | apply outcomeInv_fault | apply inv_issueLane | apply ok_opMuli | intro _ | split | dsimp only

theorem inv_execVResc {l : Nat} {f : VFields} {s : State}
    (ok_s : s.Inv) : OutcomeInv (execVResc l f s) := by
  unfold execVResc
  repeat' with_reducible first | assumption | apply outcomeInv_next | apply outcomeInv_fault | apply inv_issueLane | apply ok_opResc | intro _ | split | dsimp only

theorem inv_execVRescf {l : Nat} {f : VFields} {s : State}
    (ok_s : s.Inv) : OutcomeInv (execVRescf l f s) := by
  unfold execVRescf
  repeat' with_reducible first | assumption | apply outcomeInv_next | apply outcomeInv_fault | apply inv_issueLane | apply ok_opRescf | intro _ | split | dsimp only

theorem inv_execVAlign {l : Nat} {f : VFields} {s : State}
    (ok_s : s.Inv) : OutcomeInv (execVAlign l f s) := by
  unfold execVAlign
  repeat' with_reducible first | assumption | apply outcomeInv_next | apply outcomeInv_fault | apply inv_issueLane | apply ok_opAlign | intro _ | split | dsimp only

theorem inv_execVNorm {l : Nat} {f : VFields} {s : State}
    (ok_s : s.Inv) : OutcomeInv (execVNorm l f s) := by
  unfold execVNorm
  repeat' with_reducible first | assumption | apply outcomeInv_next | apply outcomeInv_fault | apply inv_issueLane | apply ok_opNorm | intro _ | split | dsimp only

theorem inv_execVAnd {l : Nat} {f : VFields} {s : State}
    (ok_s : s.Inv) : OutcomeInv (execVAnd l f s) := by
  unfold execVAnd
  repeat' with_reducible first | assumption | apply outcomeInv_next | apply outcomeInv_fault | apply inv_issueLane | apply ok_opAnd | intro _ | split | dsimp only

theorem inv_execVOr {l : Nat} {f : VFields} {s : State}
    (ok_s : s.Inv) : OutcomeInv (execVOr l f s) := by
  unfold execVOr
  repeat' with_reducible first | assumption | apply outcomeInv_next | apply outcomeInv_fault | apply inv_issueLane | apply ok_opOr | intro _ | split | dsimp only

theorem inv_execVXor {l : Nat} {f : VFields} {s : State}
    (ok_s : s.Inv) : OutcomeInv (execVXor l f s) := by
  unfold execVXor
  repeat' with_reducible first | assumption | apply outcomeInv_next | apply outcomeInv_fault | apply inv_issueLane | apply ok_opXor | intro _ | split | dsimp only

theorem inv_execVNot {l : Nat} {f : VFields} {s : State}
    (ok_s : s.Inv) : OutcomeInv (execVNot l f s) := by
  unfold execVNot
  repeat' with_reducible first | assumption | apply outcomeInv_next | apply outcomeInv_fault | apply inv_issueLane | apply ok_opNot | intro _ | split | dsimp only

theorem inv_execVShli {l : Nat} {f : VFields} {s : State}
    (ok_s : s.Inv) : OutcomeInv (execVShli l f s) := by
  unfold execVShli
  repeat' with_reducible first | assumption | apply outcomeInv_next | apply outcomeInv_fault | apply inv_issueLane | apply ok_opShli | intro _ | split | dsimp only

theorem inv_execVShra {l : Nat} {f : VFields} {s : State}
    (ok_s : s.Inv) : OutcomeInv (execVShra l f s) := by
  unfold execVShra
  repeat' with_reducible first | assumption | apply outcomeInv_next | apply outcomeInv_fault | apply inv_issueLane | apply ok_opShra | intro _ | split | dsimp only

theorem inv_execVShrl {l : Nat} {f : VFields} {s : State}
    (ok_s : s.Inv) : OutcomeInv (execVShrl l f s) := by
  unfold execVShrl
  repeat' with_reducible first | assumption | apply outcomeInv_next | apply outcomeInv_fault | apply inv_issueLane | apply ok_opShrl | intro _ | split | dsimp only

theorem inv_execVCeq {l : Nat} {f : VFields} {s : State}
    (ok_s : s.Inv) : OutcomeInv (execVCeq l f s) := by
  unfold execVCeq
  repeat' with_reducible first | assumption | apply outcomeInv_next | apply outcomeInv_fault | apply inv_issueLane | apply ok_opCeq | intro _ | split | dsimp only

theorem inv_execVCne {l : Nat} {f : VFields} {s : State}
    (ok_s : s.Inv) : OutcomeInv (execVCne l f s) := by
  unfold execVCne
  repeat' with_reducible first | assumption | apply outcomeInv_next | apply outcomeInv_fault | apply inv_issueLane | apply ok_opCne | intro _ | split | dsimp only

theorem inv_execVClt {l : Nat} {f : VFields} {s : State}
    (ok_s : s.Inv) : OutcomeInv (execVClt l f s) := by
  unfold execVClt
  repeat' with_reducible first | assumption | apply outcomeInv_next | apply outcomeInv_fault | apply inv_issueLane | apply ok_opClt | intro _ | split | dsimp only

theorem inv_execVCle {l : Nat} {f : VFields} {s : State}
    (ok_s : s.Inv) : OutcomeInv (execVCle l f s) := by
  unfold execVCle
  repeat' with_reducible first | assumption | apply outcomeInv_next | apply outcomeInv_fault | apply inv_issueLane | apply ok_opCle | intro _ | split | dsimp only

theorem inv_execVCgt {l : Nat} {f : VFields} {s : State}
    (ok_s : s.Inv) : OutcomeInv (execVCgt l f s) := by
  unfold execVCgt
  repeat' with_reducible first | assumption | apply outcomeInv_next | apply outcomeInv_fault | apply inv_issueLane | apply ok_opCgt | intro _ | split | dsimp only

theorem inv_execVCge {l : Nat} {f : VFields} {s : State}
    (ok_s : s.Inv) : OutcomeInv (execVCge l f s) := by
  unfold execVCge
  repeat' with_reducible first | assumption | apply outcomeInv_next | apply outcomeInv_fault | apply inv_issueLane | apply ok_opCge | intro _ | split | dsimp only

theorem inv_execVCsat {l : Nat} {f : VFields} {s : State}
    (ok_s : s.Inv) : OutcomeInv (execVCsat l f s) := by
  unfold execVCsat
  repeat' with_reducible first | assumption | apply outcomeInv_next | apply outcomeInv_fault | apply inv_issueLane | apply ok_opCsat | intro _ | split | dsimp only

theorem inv_execVMand {l : Nat} {f : VFields} {s : State}
    (ok_s : s.Inv) : OutcomeInv (execVMand l f s) := by
  unfold execVMand
  repeat' with_reducible first | assumption | apply outcomeInv_next | apply outcomeInv_fault | apply inv_issueLane | apply ok_opMand | intro _ | split | dsimp only

theorem inv_execVMor {l : Nat} {f : VFields} {s : State}
    (ok_s : s.Inv) : OutcomeInv (execVMor l f s) := by
  unfold execVMor
  repeat' with_reducible first | assumption | apply outcomeInv_next | apply outcomeInv_fault | apply inv_issueLane | apply ok_opMor | intro _ | split | dsimp only

theorem inv_execVMnot {l : Nat} {f : VFields} {s : State}
    (ok_s : s.Inv) : OutcomeInv (execVMnot l f s) := by
  unfold execVMnot
  repeat' with_reducible first | assumption | apply outcomeInv_next | apply outcomeInv_fault | apply inv_issueLane | apply ok_opMnot | intro _ | split | dsimp only

theorem inv_execVTlu {l : Nat} {f : VFields} {s : State}
    (ok_s : s.Inv) : OutcomeInv (execVTlu l f s) := by
  unfold execVTlu
  repeat' with_reducible first | assumption | apply outcomeInv_next | apply outcomeInv_fault | apply inv_issueLane | apply ok_opTlu | intro _ | split | dsimp only

theorem inv_execVRecip {l : Nat} {f : VFields} {s : State}
    (ok_s : s.Inv) : OutcomeInv (execVRecip l f s) := by
  unfold execVRecip
  repeat' with_reducible first | assumption | apply outcomeInv_next | apply outcomeInv_fault | apply inv_issueLane | apply ok_opRecip | intro _ | split | dsimp only

theorem inv_execVRsqrt {l : Nat} {f : VFields} {s : State}
    (ok_s : s.Inv) : OutcomeInv (execVRsqrt l f s) := by
  unfold execVRsqrt
  repeat' with_reducible first | assumption | apply outcomeInv_next | apply outcomeInv_fault | apply inv_issueLane | apply ok_opRsqrt | intro _ | split | dsimp only

theorem inv_execVLog2i {l : Nat} {f : VFields} {s : State}
    (ok_s : s.Inv) : OutcomeInv (execVLog2i l f s) := by
  unfold execVLog2i
  repeat' with_reducible first | assumption | apply outcomeInv_next | apply outcomeInv_fault | apply inv_issueLane | apply ok_opLog2i | intro _ | split | dsimp only

theorem inv_execVRand {l : Nat} {f : VFields} {s : State}
    (ok_s : s.Inv) : OutcomeInv (execVRand l f s) := by
  unfold execVRand
  repeat' with_reducible first | assumption | apply outcomeInv_next | apply outcomeInv_fault | apply inv_issueKeyed | apply ok_opRand | intro _ | split | dsimp only

theorem inv_execVRbits {l : Nat} {f : VFields} {s : State}
    (ok_s : s.Inv) : OutcomeInv (execVRbits l f s) := by
  unfold execVRbits
  repeat' with_reducible first | assumption | apply outcomeInv_next | apply outcomeInv_fault | apply inv_issueKeyed | apply ok_opRbits | intro _ | split | dsimp only

theorem inv_execVReq {l : Nat} {f : VFields} {s : State}
    (ok_s : s.Inv) : OutcomeInv (execVReq l f s) := by
  unfold execVReq
  repeat' with_reducible first | assumption | apply outcomeInv_next | apply outcomeInv_fault | apply inv_issueKeyed | apply ok_opReq | intro _ | split | dsimp only

theorem inv_execVReqr {l : Nat} {f : VFields} {s : State}
    (ok_s : s.Inv) : OutcomeInv (execVReqr l f s) := by
  unfold execVReqr
  repeat' with_reducible first | assumption | apply outcomeInv_next | apply outcomeInv_fault | apply inv_issueKeyed | apply ok_opReqr | intro _ | split | dsimp only

theorem inv_execVRec {l : Nat} {f : VFields} {s : State}
    (ok_s : s.Inv) : OutcomeInv (execVRec l f s) := by
  unfold execVRec
  repeat' with_reducible first | assumption | apply outcomeInv_next | apply outcomeInv_fault | apply inv_issueLane | apply ok_opRec | intro _ | split | dsimp only

theorem inv_execVRjam {l : Nat} {f : VFields} {s : State}
    (ok_s : s.Inv) : OutcomeInv (execVRjam l f s) := by
  unfold execVRjam
  repeat' with_reducible first | assumption | apply outcomeInv_next | apply outcomeInv_fault | apply inv_issueLane | apply ok_opRjam | intro _ | split | dsimp only

theorem inv_execVRadd {l : Nat} {f : VFields} {s : State}
    (ok_s : s.Inv) : OutcomeInv (execVRadd l f s) := by
  unfold execVRadd
  repeat' with_reducible first | assumption | apply outcomeInv_next | apply outcomeInv_fault | apply inv_issueLane | apply ok_opRadd | intro _ | split | dsimp only

theorem inv_execVMergeAdd {l : Nat} {f : VFields} {s : State}
    (ok_s : s.Inv) : OutcomeInv (execVMergeAdd l f s) := by
  unfold execVMergeAdd
  repeat' with_reducible first | assumption | apply outcomeInv_next | apply outcomeInv_fault | apply inv_issueMerge | apply inv_issueMergeAdd | intro _ | split | dsimp only

theorem inv_execVMergeRead {l : Nat} {f : VFields} {s : State}
    (ok_s : s.Inv) : OutcomeInv (execVMergeRead l f s) := by
  unfold execVMergeRead
  repeat' with_reducible first | assumption | apply outcomeInv_next | apply outcomeInv_fault | apply inv_issueMerge | apply inv_issueMergeGet | intro _ | split | dsimp only

theorem inv_execVMergeTake {l : Nat} {f : VFields} {s : State}
    (ok_s : s.Inv) : OutcomeInv (execVMergeTake l f s) := by
  unfold execVMergeTake
  repeat' with_reducible first | assumption | apply outcomeInv_next | apply outcomeInv_fault | apply inv_issueMerge | apply inv_issueMergeGet | intro _ | split | dsimp only

theorem inv_execVRsum {l : Nat} {f : VFields} {s : State}
    (ok_s : s.Inv) : OutcomeInv (execVRsum l f s) := by
  unfold execVRsum
  repeat' with_reducible first | assumption | apply outcomeInv_next | apply outcomeInv_fault | apply inv_issueLane | apply ok_opRsum | intro _ | split | dsimp only

theorem inv_execVRmax {l : Nat} {f : VFields} {s : State}
    (ok_s : s.Inv) : OutcomeInv (execVRmax l f s) := by
  unfold execVRmax
  repeat' with_reducible first | assumption | apply outcomeInv_next | apply outcomeInv_fault | apply inv_issueLane | apply ok_opRmax | intro _ | split | dsimp only

theorem inv_execVRmin {l : Nat} {f : VFields} {s : State}
    (ok_s : s.Inv) : OutcomeInv (execVRmin l f s) := by
  unfold execVRmin
  repeat' with_reducible first | assumption | apply outcomeInv_next | apply outcomeInv_fault | apply inv_issueLane | apply ok_opRmin | intro _ | split | dsimp only

theorem inv_execVRcnt {l : Nat} {f : VFields} {s : State}
    (ok_s : s.Inv) : OutcomeInv (execVRcnt l f s) := by
  unfold execVRcnt
  repeat' with_reducible first | assumption | apply outcomeInv_next | apply outcomeInv_fault | apply inv_issueLane | apply ok_opRcnt | intro _ | split | dsimp only

theorem inv_execVLdb {l : Nat} {f : VFields} {s : State}
    (ok_s : s.Inv) : OutcomeInv (execVLdb l f s) := by
  unfold execVLdb
  repeat' with_reducible first | assumption | apply outcomeInv_next | apply outcomeInv_fault | apply inv_issueOne | apply inv_issueLdb | intro _ | split | dsimp only

theorem inv_execVStb {l : Nat} {f : VFields} {s : State}
    (ok_s : s.Inv) : OutcomeInv (execVStb l f s) := by
  unfold execVStb
  repeat' with_reducible first | assumption | apply outcomeInv_next | apply outcomeInv_fault | apply inv_issueOne | apply inv_issueStb | intro _ | split | dsimp only

theorem inv_execVLdw {l : Nat} {f : VFields} {s : State}
    (ok_s : s.Inv) : OutcomeInv (execVLdw l f s) := by
  unfold execVLdw
  repeat' with_reducible first | assumption | apply outcomeInv_next | apply outcomeInv_fault | apply inv_issueOne | apply inv_issueLdw | intro _ | split | dsimp only

theorem inv_execVStw {l : Nat} {f : VFields} {s : State}
    (ok_s : s.Inv) : OutcomeInv (execVStw l f s) := by
  unfold execVStw
  repeat' with_reducible first | assumption | apply outcomeInv_next | apply outcomeInv_fault | apply inv_issueOne | apply inv_issueStw | intro _ | split | dsimp only

theorem inv_execVLdr {l : Nat} {f : VFields} {s : State}
    (ok_s : s.Inv) : OutcomeInv (execVLdr l f s) := by
  unfold execVLdr
  repeat' with_reducible first | assumption | apply outcomeInv_next | apply outcomeInv_fault | apply inv_issueOne | apply inv_issueLdr | intro _ | split | dsimp only

theorem inv_execVStr {l : Nat} {f : VFields} {s : State}
    (ok_s : s.Inv) : OutcomeInv (execVStr l f s) := by
  unfold execVStr
  repeat' with_reducible first | assumption | apply outcomeInv_next | apply outcomeInv_fault | apply inv_issueOne | apply inv_issueStr | intro _ | split | dsimp only

end Sys2Proof.Machine
end

