-- ==== Sys2Proof/Laws/InvKeeper.lean ====
section
/-! SUPPORT. Laws/InvKeeper.lean: the operations of Machine/Keeper.lean keep the invariant State.Inv. -/

namespace Sys2Proof.Machine

theorem inv_answer {s : State} {m : Mbox} {r : Request} {status : Nat} {result : List Byte} {detail : Nat}
    (ok_s : s.Inv) : (answer s m r status result detail).Inv := by
  unfold answer
  repeat' with_reducible first | assumption | apply inv_keeperWrite | apply inv_modMbox | apply inv_modFunc | apply inv_raiseVector | apply exceptInv_ok | apply exceptInv_error | (refine exceptInv_apply ?_ (by assumption)) | apply funcOk_mbox | apply funcOk_queues | apply funcOk_slots | apply (List.length_modify ..).trans | apply (length_setAt ..).trans | apply (length_bump ..).trans | apply (length_zipIdx_map ..).trans | apply (List.length_map ..).trans | exact List.length_replicate | rfl | intro _ | split | dsimp only | apply funcOk_mk

theorem inv_takeSeal {s : State} {m : Mbox} {sw : Nat}
    (ok_s : s.Inv) : (takeSeal s m sw).Inv := by
  unfold takeSeal
  repeat' with_reducible first | assumption | apply inv_modKeeper | apply inv_modFunc | apply inv_modMbox | apply inv_answer | apply funcOk_mbox | apply funcOk_queues | apply funcOk_slots | apply (List.length_modify ..).trans | apply (length_setAt ..).trans | apply (length_bump ..).trans | apply (length_zipIdx_map ..).trans | apply (List.length_map ..).trans | exact List.length_replicate | rfl | intro _ | split | dsimp only | apply funcOk_mk

theorem inv_writeSeal {s : State} {m : Mbox} {sw : Nat}
    (ok_s : s.Inv) : (writeSeal s m sw).Inv := by
  unfold writeSeal
  repeat' with_reducible first | assumption | apply inv_modMbox | apply inv_takeSeal | intro _ | split | dsimp only

theorem inv_examineBox {s : State} {m : Mbox}
    (ok_s : s.Inv) : (examineBox s m).Inv := by
  unfold examineBox
  repeat' with_reducible first | assumption | apply inv_takeSeal | apply inv_modMbox | intro _ | split | dsimp only

theorem inv_examineAll {s : State}
    (ok_s : s.Inv) : (examineAll s).Inv := by
  unfold examineAll
  repeat' with_reducible first | assumption | apply inv_examineBox | intro _ | split | apply inv_foldl | apply inv_foldl_fst | apply inv_foldl_snd | dsimp only

theorem inv_runCommand {s : State} {m : Mbox} {op : Nat} (act : Request → State → State)
    (ok_s : s.Inv) (ok_act : ∀ (y0 : Request) (y1 : State), y1.Inv → (act y0 y1).Inv) : (runCommand s m op act).Inv := by
  unfold runCommand
  repeat' with_reducible first | assumption | apply inv_answer | apply ok_act | intro _ | split | dsimp only

theorem inv_refuse {m : Mbox} {r : Request} {status : Nat} {s : State}
    (ok_s : s.Inv) : (refuse m r status s).Inv := by
  unfold refuse
  repeat' with_reducible first | assumption | apply inv_answer | intro _ | split | dsimp only

theorem inv_acceptLong {s : State} {m : Mbox} {r : Request} {kind : OpKind}
    (ok_s : s.Inv) : (acceptLong s m r kind).Inv := by
  unfold acceptLong
  repeat' with_reducible first | assumption | apply inv_modKeeper | apply inv_answer | intro _ | split | dsimp only

theorem inv_longAtOnce {s : State} {m : Mbox} {r : Request} {status : Nat} {flags : Nat} {detail : Nat} (effect : State → State)
    (ok_s : s.Inv) (ok_effect : ∀ (y0 : State), y0.Inv → (effect y0).Inv) : (longAtOnce s m r status flags detail effect).Inv := by
  unfold longAtOnce
  repeat' with_reducible first | assumption | apply inv_effect | apply inv_finishOp | apply inv_acceptLong | apply ok_effect | intro _ | split | dsimp only

end Sys2Proof.Machine
end

