-- ==== Sys2Proof/Laws/InvLinks.lean ====
section
/-! SUPPORT. Laws/InvLinks.lean: the operations of Machine/Links.lean keep the invariant State.Inv. -/

namespace Sys2Proof.Machine

theorem inv_settlePort {s : State} {p : Nat}
    (ok_s : s.Inv) : (settlePort s p).Inv := by
  unfold settlePort
  repeat' with_reducible first | assumption | apply inv_modPort | intro _ | split | dsimp only

theorem inv_sinkVc {s : State} {p : Nat} {v : Nat}
    (ok_s : s.Inv) : (sinkVc s p v).Inv := by
  unfold sinkVc
  repeat' with_reducible first | assumption | apply inv_settlePort | apply inv_modPort | apply inv_modRouter | (refine inv_of_fst ?_ (by assumption)) | (refine inv_of_snd ?_ (by assumption)) | apply lanternOk_lanternAt | apply lanternOk_vec | apply vregOk_regAt | apply veOk_regs | apply veOk_masks | apply regsOk_modify | apply regsOk_zipIdx_map | exact regsOk_replicate | exact masksOk_start _ | apply masksOk_first | apply (List.length_modify ..).trans | apply (length_setAt ..).trans | apply (length_bump ..).trans | apply (length_zipIdx_map ..).trans | apply (List.length_map ..).trans | exact List.length_replicate | rfl | apply veOk_foldl | apply lanternOk_foldl | intro _ | split | apply inv_foldl | apply inv_foldl_fst | apply inv_foldl_snd | apply inv_foldr | dsimp only | apply veOk_mk

theorem inv_holdPacket {s : State} {p : Nat} {q : Packet} {hop : Hop} {again : Bool} {skid : Nat}
    (ok_s : s.Inv) : (holdPacket s p q hop again skid).Inv := by
  unfold holdPacket
  repeat' with_reducible first | assumption | apply inv_sinkVc | apply inv_modPort | (refine inv_of_fst ?_ (by assumption)) | (refine inv_of_snd ?_ (by assumption)) | apply lanternOk_lanternAt | apply lanternOk_vec | apply vregOk_regAt | apply veOk_regs | apply veOk_masks | apply regsOk_modify | apply regsOk_zipIdx_map | exact regsOk_replicate | exact masksOk_start _ | apply masksOk_first | apply (List.length_modify ..).trans | apply (length_setAt ..).trans | apply (length_bump ..).trans | apply (length_zipIdx_map ..).trans | apply (List.length_map ..).trans | exact List.length_replicate | rfl | apply veOk_foldl | apply lanternOk_foldl | intro _ | split | apply inv_foldl | apply inv_foldl_fst | apply inv_foldl_snd | apply inv_foldr | dsimp only | apply veOk_mk

theorem inv_enqueue {s : State} {p : Nat} {q : Packet} {hop : Hop}
    (ok_s : s.Inv) : (enqueue s p q hop).Inv := by
  unfold enqueue
  repeat' with_reducible first | assumption | apply inv_holdPacket | apply inv_bumpDrop | apply inv_settlePort | apply inv_modPort | intro _ | split | dsimp only

theorem inv_popVc {s : State} {p : Nat} {v : Nat}
    (ok_s : s.Inv) : (popVc s p v).Inv := by
  unfold popVc
  repeat' with_reducible first | assumption | apply inv_sinkVc | apply inv_modPort | (refine inv_of_fst ?_ (by assumption)) | (refine inv_of_snd ?_ (by assumption)) | apply lanternOk_lanternAt | apply lanternOk_vec | apply vregOk_regAt | apply veOk_regs | apply veOk_masks | apply regsOk_modify | apply regsOk_zipIdx_map | exact regsOk_replicate | exact masksOk_start _ | apply masksOk_first | apply (List.length_modify ..).trans | apply (length_setAt ..).trans | apply (length_bump ..).trans | apply (length_zipIdx_map ..).trans | apply (List.length_map ..).trans | exact List.length_replicate | rfl | apply veOk_foldl | apply lanternOk_foldl | intro _ | split | apply inv_foldl | apply inv_foldl_fst | apply inv_foldl_snd | apply inv_foldr | dsimp only | apply veOk_mk

theorem inv_startCut {s : State} {i : Nat} {out : Nat} {esc : Bool} {q : Packet}
    (ok_s : s.Inv) : (startCut s i out esc q).Inv := by
  unfold startCut
  repeat' with_reducible first | assumption | apply inv_settlePort | apply inv_modPort | (refine inv_of_fst ?_ (by assumption)) | (refine inv_of_snd ?_ (by assumption)) | apply lanternOk_lanternAt | apply lanternOk_vec | apply vregOk_regAt | apply veOk_regs | apply veOk_masks | apply regsOk_modify | apply regsOk_zipIdx_map | exact regsOk_replicate | exact masksOk_start _ | apply masksOk_first | apply (List.length_modify ..).trans | apply (length_setAt ..).trans | apply (length_bump ..).trans | apply (length_zipIdx_map ..).trans | apply (List.length_map ..).trans | exact List.length_replicate | rfl | apply veOk_foldl | apply lanternOk_foldl | intro _ | split | apply inv_foldl | apply inv_foldl_fst | apply inv_foldl_snd | apply inv_foldr | dsimp only | apply veOk_mk

theorem inv_startCand {s : State} {out : Nat} {c : Cand}
    (ok_s : s.Inv) : (startCand s out c).Inv := by
  unfold startCand
  repeat' with_reducible first | assumption | apply inv_sendBy | apply inv_modRouter | apply inv_startCut | apply inv_popVc | (refine inv_of_fst ?_ (by assumption)) | (refine inv_of_snd ?_ (by assumption)) | apply lanternOk_lanternAt | apply lanternOk_vec | apply vregOk_regAt | apply veOk_regs | apply veOk_masks | apply regsOk_modify | apply regsOk_zipIdx_map | exact regsOk_replicate | exact masksOk_start _ | apply masksOk_first | apply (List.length_modify ..).trans | apply (length_setAt ..).trans | apply (length_bump ..).trans | apply (length_zipIdx_map ..).trans | apply (List.length_map ..).trans | exact List.length_replicate | rfl | apply veOk_foldl | apply lanternOk_foldl | intro _ | split | apply inv_foldl | apply inv_foldl_fst | apply inv_foldl_snd | apply inv_foldr | dsimp only | apply veOk_mk

theorem inv_serve {s : State} {out : Nat}
    (ok_s : s.Inv) : (serve s out).Inv := by
  unfold serve
  repeat' with_reducible first | assumption | apply inv_startCand | apply inv_modPort | (refine inv_of_fst ?_ (by assumption)) | (refine inv_of_snd ?_ (by assumption)) | apply lanternOk_lanternAt | apply lanternOk_vec | apply vregOk_regAt | apply veOk_regs | apply veOk_masks | apply regsOk_modify | apply regsOk_zipIdx_map | exact regsOk_replicate | exact masksOk_start _ | apply masksOk_first | apply (List.length_modify ..).trans | apply (length_setAt ..).trans | apply (length_bump ..).trans | apply (length_zipIdx_map ..).trans | apply (List.length_map ..).trans | exact List.length_replicate | rfl | apply veOk_foldl | apply lanternOk_foldl | intro _ | split | apply inv_foldl | apply inv_foldl_fst | apply inv_foldl_snd | apply inv_foldr | dsimp only | apply veOk_mk

theorem inv_startAll {s : State}
    (ok_s : s.Inv) : (startAll s).Inv := by
  unfold startAll
  repeat' with_reducible first | assumption | apply inv_serve | apply inv_startWaiting | apply inv_startVc | intro _ | split | apply inv_foldl | apply inv_foldl_fst | apply inv_foldl_snd | dsimp only

theorem inv_takeIn {s : State} {port : Nat} {p : Packet}
    (ok_s : s.Inv) : (takeIn s port p).1.Inv := by
  unfold takeIn
  repeat' with_reducible first | assumption | apply inv_bumpPort | apply inv_bumpDrop | (refine inv_of_fst ?_ (by assumption)) | (refine inv_of_snd ?_ (by assumption)) | apply lanternOk_lanternAt | apply lanternOk_vec | apply vregOk_regAt | apply veOk_regs | apply veOk_masks | apply regsOk_modify | apply regsOk_zipIdx_map | exact regsOk_replicate | exact masksOk_start _ | apply masksOk_first | apply (List.length_modify ..).trans | apply (length_setAt ..).trans | apply (length_bump ..).trans | apply (length_zipIdx_map ..).trans | apply (List.length_map ..).trans | exact List.length_replicate | rfl | apply veOk_foldl | apply lanternOk_foldl | intro _ | split | apply inv_foldl | apply inv_foldl_fst | apply inv_foldl_snd | apply inv_foldr | dsimp only | apply veOk_mk

theorem inv_arrivePacket {s : State} {port : Nat} {p : Packet}
    (ok_s : s.Inv) : (arrivePacket s port p).Inv := by
  unfold arrivePacket
  repeat' with_reducible first | assumption | apply inv_serve | apply inv_sendBy | apply inv_modRouter | apply inv_bumpDrop | apply inv_countHit | apply inv_takeIn | apply inv_tryHop | apply inv_enqueue | (refine inv_of_fst ?_ (by assumption)) | intro _ | split | dsimp only

theorem inv_execPacketHop {inPort : Option Nat} {p : Packet} {s : State}
    (ok_s : s.Inv) : OutcomeInv (execPacketHop inPort p s) := by
  unfold execPacketHop
  repeat' with_reducible first | assumption | apply inv_startAll | apply outcomeInv_next | apply outcomeInv_fault | apply inv_inject | apply inv_modRouter | apply inv_startHead | apply inv_arrivePacket | apply inv_startVc | intro _ | split | dsimp only | rfl | exact List.length_map _ | exact List.length_modify .. | exact (List.length_map _).trans List.length_zipIdx

theorem inv_execHeadWaitTimeout {port : Nat} {vc : Nat} {s : State}
    (ok_s : s.Inv) : OutcomeInv (execHeadWaitTimeout port vc s) := by
  unfold execHeadWaitTimeout
  repeat' with_reducible first | assumption | apply inv_popVc | apply inv_startAll | apply outcomeInv_next | apply outcomeInv_fault | apply inv_startVc | apply inv_settlePort | apply inv_modPort | apply inv_bumpDrop | intro _ | split | dsimp only

theorem inv_followRoot {s : State} {root : Nat}
    (ok_s : s.Inv) : (followRoot s root).Inv := by
  unfold followRoot
  repeat' with_reducible first | assumption | apply inv_modTime | apply inv_raiseEventP | intro _ | split | dsimp only

theorem inv_reconsider {s : State}
    (ok_s : s.Inv) : (reconsider s).Inv := by
  unfold reconsider
  repeat' with_reducible first | assumption | apply inv_followRoot | apply inv_modTime | intro _ | split | dsimp only

theorem inv_endCut {s : State} {i : Nat} {out : Nat} {flits : List (List Byte)} {q : Packet}
    (ok_s : s.Inv) : (endCut s i out flits q).Inv := by
  unfold endCut
  repeat' with_reducible first | assumption | apply inv_noteSent | apply inv_noteCross | apply inv_modPort | (refine inv_of_fst ?_ (by assumption)) | (refine inv_of_snd ?_ (by assumption)) | apply lanternOk_lanternAt | apply lanternOk_vec | apply vregOk_regAt | apply veOk_regs | apply veOk_masks | apply regsOk_modify | apply regsOk_zipIdx_map | exact regsOk_replicate | exact masksOk_start _ | apply masksOk_first | apply (List.length_modify ..).trans | apply (length_setAt ..).trans | apply (length_bump ..).trans | apply (length_zipIdx_map ..).trans | apply (List.length_map ..).trans | exact List.length_replicate | rfl | apply veOk_foldl | apply lanternOk_foldl | intro _ | split | apply inv_foldl | apply inv_foldl_fst | apply inv_foldl_snd | apply inv_foldr | dsimp only | apply veOk_mk

theorem inv_loseAssembly {s : State} {port : Nat}
    (ok_s : s.Inv) : (loseAssembly s port).Inv := by
  unfold loseAssembly
  repeat' with_reducible first | assumption | apply inv_endCut | apply inv_settlePort | apply inv_modPort | apply inv_sendBy | apply inv_bumpDrop | intro _ | split | dsimp only

theorem inv_loseSending {s : State} {out : Nat}
    (ok_s : s.Inv) : (loseSending s out).Inv := by
  unfold loseSending
  repeat' with_reducible first | assumption | apply inv_modPort | (refine inv_of_fst ?_ (by assumption)) | (refine inv_of_snd ?_ (by assumption)) | apply lanternOk_lanternAt | apply lanternOk_vec | apply vregOk_regAt | apply veOk_regs | apply veOk_masks | apply regsOk_modify | apply regsOk_zipIdx_map | exact regsOk_replicate | exact masksOk_start _ | apply masksOk_first | apply (List.length_modify ..).trans | apply (length_setAt ..).trans | apply (length_bump ..).trans | apply (length_zipIdx_map ..).trans | apply (List.length_map ..).trans | exact List.length_replicate | rfl | apply veOk_foldl | apply lanternOk_foldl | intro _ | split | apply inv_foldl | apply inv_foldl_fst | apply inv_foldl_snd | apply inv_foldr | dsimp only | apply veOk_mk

theorem inv_countAgain {s : State} {port : Nat} {hs : List HeldPacket}
    (ok_s : s.Inv) : (countAgain s port hs).Inv := by
  unfold countAgain
  repeat' with_reducible first | assumption | apply inv_foldl | apply inv_countHit | (refine inv_of_fst ?_ (by assumption)) | (refine inv_of_snd ?_ (by assumption)) | apply lanternOk_lanternAt | apply lanternOk_vec | apply vregOk_regAt | apply veOk_regs | apply veOk_masks | apply regsOk_modify | apply regsOk_zipIdx_map | exact regsOk_replicate | exact masksOk_start _ | apply masksOk_first | apply (List.length_modify ..).trans | apply (length_setAt ..).trans | apply (length_bump ..).trans | apply (length_zipIdx_map ..).trans | apply (List.length_map ..).trans | exact List.length_replicate | rfl | apply veOk_foldl | apply lanternOk_foldl | intro _ | split | apply inv_foldl | apply inv_foldl_fst | apply inv_foldl_snd | apply inv_foldr | dsimp only | apply veOk_mk

theorem inv_rechooseAt {s : State} {port : Nat} {i : Nat}
    (ok_s : s.Inv) : (rechooseAt s port i).Inv := by
  unfold rechooseAt
  repeat' with_reducible first | assumption | apply inv_countAgain | apply inv_modPort | apply inv_foldl | apply inv_sinkVc | (refine inv_of_fst ?_ (by assumption)) | (refine inv_of_snd ?_ (by assumption)) | apply lanternOk_lanternAt | apply lanternOk_vec | apply vregOk_regAt | apply veOk_regs | apply veOk_masks | apply regsOk_modify | apply regsOk_zipIdx_map | exact regsOk_replicate | exact masksOk_start _ | apply masksOk_first | apply (List.length_modify ..).trans | apply (length_setAt ..).trans | apply (length_bump ..).trans | apply (length_zipIdx_map ..).trans | apply (List.length_map ..).trans | exact List.length_replicate | rfl | apply veOk_foldl | apply lanternOk_foldl | intro _ | split | apply inv_foldl | apply inv_foldl_fst | apply inv_foldl_snd | apply inv_foldr | dsimp only | apply veOk_mk

theorem inv_rechoose {s : State} {port : Nat}
    (ok_s : s.Inv) : (rechoose s port).Inv := by
  unfold rechoose
  repeat' with_reducible first | assumption | apply inv_foldl | apply inv_rechooseAt | apply inv_modRouter | apply inv_countAgain | apply inv_modPort | (refine inv_of_fst ?_ (by assumption)) | (refine inv_of_snd ?_ (by assumption)) | apply lanternOk_lanternAt | apply lanternOk_vec | apply vregOk_regAt | apply veOk_regs | apply veOk_masks | apply regsOk_modify | apply regsOk_zipIdx_map | exact regsOk_replicate | exact masksOk_start _ | apply masksOk_first | apply (List.length_modify ..).trans | apply (length_setAt ..).trans | apply (length_bump ..).trans | apply (length_zipIdx_map ..).trans | apply (List.length_map ..).trans | exact List.length_replicate | rfl | apply veOk_foldl | apply lanternOk_foldl | intro _ | split | apply inv_foldl | apply inv_foldl_fst | apply inv_foldl_snd | apply inv_foldr | dsimp only | apply veOk_mk

theorem inv_linkDown {s : State} {port : Nat}
    (ok_s : s.Inv) : (linkDown s port).Inv := by
  unfold linkDown
  repeat' with_reducible first | assumption | apply inv_rechoose | apply inv_loseSending | apply inv_reconsider | apply inv_loseAssembly | apply inv_modPort | intro _ | split | dsimp only

theorem inv_execLossOfLock {port : Nat} {s : State}
    (ok_s : s.Inv) : OutcomeInv (execLossOfLock port s) := by
  unfold execLossOfLock
  repeat' with_reducible first | assumption | apply outcomeInv_next | apply outcomeInv_fault | apply inv_linkDown | intro _ | split | dsimp only

theorem inv_openAssembly {s : State} {port : Nat} {flit : List Byte}
    (ok_s : s.Inv) : (openAssembly s port flit).Inv := by
  unfold openAssembly
  repeat' with_reducible first | assumption | apply inv_settlePort | apply inv_modPort | apply inv_takeIn | apply inv_countHit | apply inv_bumpDrop | (refine inv_of_fst ?_ (by assumption)) | (refine inv_of_snd ?_ (by assumption)) | apply lanternOk_lanternAt | apply lanternOk_vec | apply vregOk_regAt | apply veOk_regs | apply veOk_masks | apply regsOk_modify | apply regsOk_zipIdx_map | exact regsOk_replicate | exact masksOk_start _ | apply masksOk_first | apply (List.length_modify ..).trans | apply (length_setAt ..).trans | apply (length_bump ..).trans | apply (length_zipIdx_map ..).trans | apply (List.length_map ..).trans | exact List.length_replicate | rfl | apply veOk_foldl | apply lanternOk_foldl | intro _ | split | apply inv_foldl | apply inv_foldl_fst | apply inv_foldl_snd | apply inv_foldr | dsimp only | apply veOk_mk

theorem inv_joinFlit {s : State} {port : Nat} {a : Assembly} {flit : List Byte}
    (ok_s : s.Inv) : (joinFlit s port a flit).Inv := by
  unfold joinFlit
  repeat' with_reducible first | assumption | apply inv_modPort | apply inv_bumpDrop | apply inv_settlePort | (refine inv_of_fst ?_ (by assumption)) | (refine inv_of_snd ?_ (by assumption)) | apply lanternOk_lanternAt | apply lanternOk_vec | apply vregOk_regAt | apply veOk_regs | apply veOk_masks | apply regsOk_modify | apply regsOk_zipIdx_map | exact regsOk_replicate | exact masksOk_start _ | apply masksOk_first | apply (List.length_modify ..).trans | apply (length_setAt ..).trans | apply (length_bump ..).trans | apply (length_zipIdx_map ..).trans | apply (List.length_map ..).trans | exact List.length_replicate | rfl | apply veOk_foldl | apply lanternOk_foldl | intro _ | split | apply inv_foldl | apply inv_foldl_fst | apply inv_foldl_snd | apply inv_foldr | dsimp only | apply veOk_mk

theorem inv_closeAssembly {s : State} {port : Nat} {a : Assembly}
    (ok_s : s.Inv) : (closeAssembly s port a).Inv := by
  unfold closeAssembly
  repeat' with_reducible first | assumption | apply inv_modPort | apply inv_holdPacket | apply inv_endCut | (refine inv_of_fst ?_ (by assumption)) | (refine inv_of_snd ?_ (by assumption)) | apply lanternOk_lanternAt | apply lanternOk_vec | apply vregOk_regAt | apply veOk_regs | apply veOk_masks | apply regsOk_modify | apply regsOk_zipIdx_map | exact regsOk_replicate | exact masksOk_start _ | apply masksOk_first | apply (List.length_modify ..).trans | apply (length_setAt ..).trans | apply (length_bump ..).trans | apply (length_zipIdx_map ..).trans | apply (List.length_map ..).trans | exact List.length_replicate | rfl | apply veOk_foldl | apply lanternOk_foldl | intro _ | split | apply inv_foldl | apply inv_foldl_fst | apply inv_foldl_snd | apply inv_foldr | dsimp only | apply veOk_mk

theorem inv_takeFlit {s : State} {port : Nat} {f : Bool × List Byte}
    (ok_s : s.Inv) : (takeFlit s port f).Inv := by
  unfold takeFlit
  repeat' with_reducible first | assumption | apply inv_closeAssembly | apply inv_joinFlit | apply inv_openAssembly | apply inv_takeIn | apply inv_loseAssembly | apply inv_modPort | apply inv_arrivePacket | apply inv_sendBy | (refine inv_of_fst ?_ (by assumption)) | intro _ | split | dsimp only

theorem inv_takeCodeword {s : State} {port : Nat} {c : Codeword}
    (ok_s : s.Inv) : (takeCodeword s port c).Inv := by
  unfold takeCodeword
  repeat' with_reducible first | assumption | apply inv_modPort | apply inv_linkDown | apply inv_foldl | apply inv_takeFlit | apply inv_loseAssembly | (refine inv_of_fst ?_ (by assumption)) | (refine inv_of_snd ?_ (by assumption)) | apply lanternOk_lanternAt | apply lanternOk_vec | apply vregOk_regAt | apply veOk_regs | apply veOk_masks | apply regsOk_modify | apply regsOk_zipIdx_map | exact regsOk_replicate | exact masksOk_start _ | apply masksOk_first | apply (List.length_modify ..).trans | apply (length_setAt ..).trans | apply (length_bump ..).trans | apply (length_zipIdx_map ..).trans | apply (List.length_map ..).trans | exact List.length_replicate | rfl | apply veOk_foldl | apply lanternOk_foldl | intro _ | split | apply inv_foldl | apply inv_foldl_fst | apply inv_foldl_snd | apply inv_foldr | dsimp only | apply veOk_mk

theorem inv_sendCodeword {s : State} {port : Nat}
    (ok_s : s.Inv) : (sendCodeword s port).Inv := by
  unfold sendCodeword
  repeat' with_reducible first | assumption | apply inv_foldl | apply inv_modPort | (refine inv_of_fst ?_ (by assumption)) | (refine inv_of_snd ?_ (by assumption)) | apply lanternOk_lanternAt | apply lanternOk_vec | apply vregOk_regAt | apply veOk_regs | apply veOk_masks | apply regsOk_modify | apply regsOk_zipIdx_map | exact regsOk_replicate | exact masksOk_start _ | apply masksOk_first | apply (List.length_modify ..).trans | apply (length_setAt ..).trans | apply (length_bump ..).trans | apply (length_zipIdx_map ..).trans | apply (List.length_map ..).trans | exact List.length_replicate | rfl | apply veOk_foldl | apply lanternOk_foldl | intro _ | split | apply inv_foldl | apply inv_foldl_fst | apply inv_foldl_snd | apply inv_foldr | dsimp only | apply veOk_mk

theorem inv_execCodewordReceive {port : Nat} {lanes : List (List Nat)} {s : State}
    (ok_s : s.Inv) : OutcomeInv (execCodewordReceive port lanes s) := by
  unfold execCodewordReceive
  repeat' with_reducible first | assumption | apply inv_sendCodeword | apply inv_takeCodeword | apply inv_startAll | apply outcomeInv_next | apply outcomeInv_fault | apply inv_modPort | apply inv_linkDown | apply inv_takeFlit | apply inv_loseAssembly | intro _ | split | apply inv_foldl | apply inv_foldl_fst | apply inv_foldl_snd | dsimp only

theorem inv_trainPort {s : State} {port : Nat} {t : LinkTrain}
    (ok_s : s.Inv) : (trainPort s port t).Inv := by
  unfold trainPort
  repeat' with_reducible first | assumption | apply inv_modPort | apply inv_raiseEventP | apply inv_startAll | intro _ | split | dsimp only

theorem inv_execLinkTrainingDone {port : Nat} {t : LinkTrain} {s : State}
    (ok_s : s.Inv) : OutcomeInv (execLinkTrainingDone port t s) := by
  unfold execLinkTrainingDone
  repeat' with_reducible first | assumption | apply outcomeInv_next | apply outcomeInv_fault | apply inv_trainPort | intro _ | split | dsimp only

theorem inv_execRetrainTimer {port : Nat} {s : State}
    (ok_s : s.Inv) : OutcomeInv (execRetrainTimer port s) := by
  unfold execRetrainTimer
  repeat' with_reducible first | assumption | apply outcomeInv_next | apply outcomeInv_fault | apply inv_modPort | intro _ | split | dsimp only

theorem inv_execControlFlit {port : Nat} {f : ControlFlit} {arrival : Nat} {s : State}
    (ok_s : s.Inv) : OutcomeInv (execControlFlit port f arrival s) := by
  unfold execControlFlit
  repeat' with_reducible first | assumption | apply outcomeInv_next | apply outcomeInv_fault | apply inv_modPort | apply inv_startAll | apply inv_reconsider | intro _ | split | dsimp only

theorem inv_execControlFlitTimeout {port : Nat} {s : State}
    (ok_s : s.Inv) : OutcomeInv (execControlFlitTimeout port s) := by
  unfold execControlFlitTimeout
  repeat' with_reducible first | assumption | apply outcomeInv_next | apply outcomeInv_fault | apply inv_reconsider | apply inv_linkDown | intro _ | split | dsimp only

theorem inv_countStalls {s : State}
    (ok_s : s.Inv) : (countStalls s).Inv := by
  unfold countStalls
  repeat' with_reducible first | assumption | apply inv_foldl | apply inv_modPort | (refine inv_of_fst ?_ (by assumption)) | (refine inv_of_snd ?_ (by assumption)) | apply lanternOk_lanternAt | apply lanternOk_vec | apply vregOk_regAt | apply veOk_regs | apply veOk_masks | apply regsOk_modify | apply regsOk_zipIdx_map | exact regsOk_replicate | exact masksOk_start _ | apply masksOk_first | apply (List.length_modify ..).trans | apply (length_setAt ..).trans | apply (length_bump ..).trans | apply (length_zipIdx_map ..).trans | apply (List.length_map ..).trans | exact List.length_replicate | rfl | apply veOk_foldl | apply lanternOk_foldl | intro _ | split | apply inv_foldl | apply inv_foldl_fst | apply inv_foldl_snd | apply inv_foldr | dsimp only | apply veOk_mk

theorem inv_countHolds {s : State}
    (ok_s : s.Inv) : (countHolds s).Inv := by
  unfold countHolds
  repeat' with_reducible first | assumption | rfl | exact id | apply lanternOk_events | apply lanternOk_dma | apply lanternOk_vec | apply lanternsOk_map | apply lanternsOk_zipIdx_map | apply funcsOk_map | apply funcsOk_zipIdx_map | apply (List.length_modify ..).trans | apply (length_setAt ..).trans | apply (length_bump ..).trans | apply (length_zipIdx_map ..).trans | apply (List.length_map ..).trans | exact List.length_replicate | rfl | intro _ | split | dsimp only | apply lanternOk_mk | apply inv_struct | rfl | exact List.length_map _ | exact List.length_modify .. | exact (List.length_map _).trans List.length_zipIdx | (refine inv_of_fst ?_ (by assumption)) | (refine inv_of_snd ?_ (by assumption)) | apply lanternOk_lanternAt | apply lanternOk_vec | apply vregOk_regAt | apply veOk_regs | apply veOk_masks | apply regsOk_modify | apply regsOk_zipIdx_map | exact regsOk_replicate | exact masksOk_start _ | apply masksOk_first | apply (List.length_modify ..).trans | apply (length_setAt ..).trans | apply (length_bump ..).trans | apply (length_zipIdx_map ..).trans | apply (List.length_map ..).trans | exact List.length_replicate | rfl | apply veOk_foldl | apply lanternOk_foldl | intro _ | split | apply inv_foldl | apply inv_foldl_fst | apply inv_foldl_snd | apply inv_foldr | dsimp only | apply veOk_mk

theorem inv_execTimeServoTick {s0 : State}
    (ok_s0 : s0.Inv) : OutcomeInv (execTimeServoTick s0) := by
  unfold execTimeServoTick
  repeat' with_reducible first | assumption | apply inv_countHolds | apply inv_countStalls | apply outcomeInv_next | apply outcomeInv_fault | apply inv_modTime | apply inv_modPort | intro _ | split | dsimp only

theorem inv_execHoldoverTimeout {s : State}
    (ok_s : s.Inv) : OutcomeInv (execHoldoverTimeout s) := by
  unfold execHoldoverTimeout
  repeat' with_reducible first | assumption | apply outcomeInv_next | apply outcomeInv_fault | apply inv_raiseEventP | apply inv_modTime | intro _ | split | dsimp only

theorem inv_execRootReselect {s : State}
    (ok_s : s.Inv) : OutcomeInv (execRootReselect s) := by
  unfold execRootReselect
  repeat' with_reducible first | assumption | apply outcomeInv_next | apply outcomeInv_fault | apply inv_followRoot | intro _ | split | dsimp only

theorem inv_installBank {s : State} {es : List LightEntry}
    (ok_s : s.Inv) : (installBank s es).Inv := by
  unfold installBank
  repeat' with_reducible first | assumption | apply inv_modRouter | intro _ | split | dsimp only | rfl | exact List.length_map _ | exact List.length_modify .. | exact (List.length_map _).trans List.length_zipIdx

theorem inv_leavePortsDown {s : State}
    (ok_s : s.Inv) : (leavePortsDown s).Inv := by
  unfold leavePortsDown
  repeat' with_reducible first | assumption | apply inv_foldl | apply inv_modPort | apply inv_linkDown | (refine inv_of_fst ?_ (by assumption)) | (refine inv_of_snd ?_ (by assumption)) | apply lanternOk_lanternAt | apply lanternOk_vec | apply vregOk_regAt | apply veOk_regs | apply veOk_masks | apply regsOk_modify | apply regsOk_zipIdx_map | exact regsOk_replicate | exact masksOk_start _ | apply masksOk_first | apply (List.length_modify ..).trans | apply (length_setAt ..).trans | apply (length_bump ..).trans | apply (length_zipIdx_map ..).trans | apply (List.length_map ..).trans | exact List.length_replicate | rfl | apply veOk_foldl | apply lanternOk_foldl | intro _ | split | apply inv_foldl | apply inv_foldl_fst | apply inv_foldl_snd | apply inv_foldr | dsimp only | apply veOk_mk

theorem inv_bypassNode {s : State} {node : Nat}
    (ok_s : s.Inv) : (bypassNode s node).Inv := by
  unfold bypassNode
  repeat' with_reducible first | assumption | apply inv_leavePortsDown | apply inv_raiseEventP | apply inv_installBank | intro _ | split | dsimp only

end Sys2Proof.Machine
end

