-- ==== Sys2Proof/Laws/InvStream.lean ====
section
/-! SUPPORT. Laws/InvStream.lean: the definitions of Machine/Stream.lean keep State.Inv. -/

namespace Sys2Proof.Machine

theorem inv_foldlWriting {α : Type} {g : Writing → α → Writing} {xs : List α} {p : Writing}
    (hg : ∀ p x, p.s.Inv → (g p x).s.Inv) (h : p.s.Inv) : (xs.foldl g p).s.Inv := by
  induction xs generalizing p with
  | nil => exact h
  | cons x xs ih => exact ih (hg _ _ h)

theorem inv_bumpChan {s : State} {c : Chan} {i : Nat} {n : Nat}
    (ok_s : s.Inv) : (bumpChan s c i n).Inv := by
  unfold bumpChan
  repeat' with_reducible first | assumption | apply inv_modChan | intro _ | split | dsimp only

theorem inv_overlapBytes {s : State} {reads : List (Nat × Nat × Nat)} {x1 : List (Nat × Nat × Byte)} {x2 : List (Nat × Byte)}
    (ok_s : s.Inv) : (overlapBytes s reads x1 x2).1.Inv := by
  induction x1 generalizing s x2 with
  | nil =>
    unfold overlapBytes
    repeat' with_reducible first | assumption | apply inv_drawFree | (refine inv_of_snd ?_ (by assumption)) | intro _ | split | dsimp only
  | cons y ys ih =>
    unfold overlapBytes
    repeat' with_reducible first | assumption | apply ih | apply inv_drawFree | (refine inv_of_snd ?_ (by assumption)) | intro _ | split | dsimp only

theorem inv_overlapPieces {s : State} {ctx : Ctx} {j : DmaJob} {o : DmaOut}
    (ok_s : s.Inv) : (overlapPieces s ctx j o).1.Inv := by
  unfold overlapPieces
  repeat' with_reducible first | assumption | apply inv_overlapBytes | (refine inv_of_fst ?_ (by assumption)) | intro _ | split | dsimp only

theorem inv_writePiece {c : Chan} {ctx : Ctx} {w : Writing} {p : Nat × List Byte}
    (ok_w : w.s.Inv) : (writePiece c ctx w p).s.Inv := by
  unfold writePiece
  repeat' with_reducible first | assumption | apply inv_writeMem | apply inv_peerWrites | apply inv_hostWrite | (refine inv_of_fst ?_ (by assumption)) | intro _ | split | dsimp only

theorem inv_writeSome {c : Chan} {ctx : Ctx} {w : Writing} {pieces : List (Nat × List Byte × Bool)} (ok_w : w.s.Inv) :
    (writeSome c ctx w pieces).s.Inv := by
  unfold writeSome
  refine inv_foldlWriting ?_ (inv_openCells ok_w)
  intro w p h
  split
  · exact h
  · exact inv_writePiece h

end Sys2Proof.Machine
end

