-- ==== Sys2Proof/Laws/InvRecover.lean ====
section
/-! SUPPORT. Laws/InvRecover.lean: the operations of Machine/Recover.lean keep the invariant State.Inv. -/

namespace Sys2Proof.Machine

theorem inv_setConfig {s : State} {f : ConfigRec → ConfigRec}
    (ok_s : s.Inv) : (setConfig s f).Inv := by
  unfold setConfig
  repeat' with_reducible first | assumption | apply inv_modFlash | intro _ | split | dsimp only

theorem inv_stepDaymark {s : State} {x1 : Domain}
    (ok_s : s.Inv) : (stepDaymark s x1).Inv := by
  unfold stepDaymark
  repeat' with_reducible first | assumption | apply inv_modLantern | apply inv_modTower | apply inv_modShore | apply inv_modKeeper | apply inv_modMooring | apply lanternOk_events | apply lanternOk_dma | apply lanternOk_vec | apply (List.length_modify ..).trans | apply (length_setAt ..).trans | apply (length_bump ..).trans | apply (length_zipIdx_map ..).trans | apply (List.length_map ..).trans | exact List.length_replicate | rfl | intro _ | split | dsimp only | apply lanternOk_mk

theorem inv_noteAdvance {s : State} {d : Domain}
    (ok_s : s.Inv) : (noteAdvance s d).Inv := by
  unfold noteAdvance
  repeat' with_reducible first | assumption | apply inv_modKeeper | (refine inv_of_fst ?_ (by assumption)) | (refine inv_of_snd ?_ (by assumption)) | apply lanternOk_lanternAt | apply lanternOk_vec | apply vregOk_regAt | apply veOk_regs | apply veOk_masks | apply regsOk_modify | apply regsOk_zipIdx_map | exact regsOk_replicate | exact masksOk_start _ | apply masksOk_first | apply (List.length_modify ..).trans | apply (length_setAt ..).trans | apply (length_bump ..).trans | apply (length_zipIdx_map ..).trans | apply (List.length_map ..).trans | exact List.length_replicate | rfl | apply veOk_foldl | apply lanternOk_foldl | intro _ | split | apply inv_foldl | apply inv_foldl_fst | apply inv_foldl_snd | apply inv_foldr | dsimp only | apply veOk_mk

theorem inv_advanceNow {s : State} {d : Domain}
    (ok_s : s.Inv) : (advanceNow s d).Inv := by
  unfold advanceNow
  repeat' with_reducible first | assumption | apply inv_noteAdvance | apply inv_modKeeper | apply inv_stepDaymark | intro _ | split | dsimp only

theorem inv_advanceDaymark {s : State} {d : Domain}
    (ok_s : s.Inv) : (advanceDaymark s d).Inv := by
  unfold advanceDaymark
  repeat' with_reducible first | assumption | apply inv_advanceNow | apply inv_modKeeper | intro _ | split | dsimp only

theorem inv_advanceOwed {s : State} {d : Domain}
    (ok_s : s.Inv) : (advanceOwed s d).Inv := by
  unfold advanceOwed
  repeat' with_reducible first | assumption | apply inv_modKeeper | apply inv_advanceNow | (refine inv_of_fst ?_ (by assumption)) | (refine inv_of_snd ?_ (by assumption)) | apply lanternOk_lanternAt | apply lanternOk_vec | apply vregOk_regAt | apply veOk_regs | apply veOk_masks | apply regsOk_modify | apply regsOk_zipIdx_map | exact regsOk_replicate | exact masksOk_start _ | apply masksOk_first | apply (List.length_modify ..).trans | apply (length_setAt ..).trans | apply (length_bump ..).trans | apply (length_zipIdx_map ..).trans | apply (List.length_map ..).trans | exact List.length_replicate | rfl | apply veOk_foldl | apply lanternOk_foldl | intro _ | split | apply inv_foldl | apply inv_foldl_fst | apply inv_foldl_snd | apply inv_foldr | dsimp only | apply veOk_mk

theorem ok_dropWork {x : Lantern}
    (ok_x : x.Ok) : (dropWork x).Ok := by
  unfold dropWork
  repeat' with_reducible first | assumption | apply lanternOk_events | apply lanternOk_dma | apply lanternOk_vec | apply veOk_regs | apply veOk_masks | apply regsOk_modify | apply regsOk_zipIdx_map | exact regsOk_replicate | exact masksOk_start _ | apply masksOk_first | apply (List.length_modify ..).trans | apply (length_setAt ..).trans | apply (length_bump ..).trans | apply (length_zipIdx_map ..).trans | apply (List.length_map ..).trans | exact List.length_replicate | rfl | intro _ | split | dsimp only | apply lanternOk_mk | apply veOk_mk

theorem ok_setModes {md : ChanMode} {x : Lantern}
    (ok_x : x.Ok) : (setModes md x).Ok := by
  unfold setModes
  repeat' with_reducible first | assumption | rfl | exact id | apply lanternOk_events | apply lanternOk_dma | apply lanternOk_vec | apply lanternsOk_map | apply lanternsOk_zipIdx_map | apply funcsOk_map | apply funcsOk_zipIdx_map | apply (List.length_modify ..).trans | apply (length_setAt ..).trans | apply (length_bump ..).trans | apply (length_zipIdx_map ..).trans | apply (List.length_map ..).trans | exact List.length_replicate | rfl | intro _ | split | dsimp only | apply lanternOk_mk | apply inv_struct | rfl | exact List.length_map _ | exact List.length_modify .. | exact (List.length_map _).trans List.length_zipIdx | (refine inv_of_fst ?_ (by assumption)) | (refine inv_of_snd ?_ (by assumption)) | apply lanternOk_lanternAt | apply lanternOk_vec | apply vregOk_regAt | apply veOk_regs | apply veOk_masks | apply regsOk_modify | apply regsOk_zipIdx_map | exact regsOk_replicate | exact masksOk_start _ | apply masksOk_first | apply (List.length_modify ..).trans | apply (length_setAt ..).trans | apply (length_bump ..).trans | apply (length_zipIdx_map ..).trans | apply (List.length_map ..).trans | exact List.length_replicate | rfl | apply veOk_foldl | apply lanternOk_foldl | intro _ | split | apply inv_foldl | apply inv_foldl_fst | apply inv_foldl_snd | apply inv_foldr | dsimp only | apply veOk_mk

theorem ok_clearLantern {x : Lantern}
    (ok_x : x.Ok) : (clearLantern x).Ok := by
  unfold clearLantern
  repeat' with_reducible first | assumption | apply ok_dropWork | exact veOk_reset | apply lanternOk_events | apply lanternOk_dma | apply lanternOk_vec | apply (List.length_modify ..).trans | apply (length_setAt ..).trans | apply (length_bump ..).trans | apply (length_zipIdx_map ..).trans | apply (List.length_map ..).trans | exact List.length_replicate | rfl | intro _ | split | dsimp only | apply lanternOk_mk

theorem inv_bumpLantern {s : State} {l : Nat} {i : Nat}
    (ok_s : s.Inv) : (bumpLantern s l i).Inv := by
  unfold bumpLantern
  repeat' with_reducible first | assumption | apply inv_modLantern | apply lanternOk_events | apply lanternOk_dma | apply lanternOk_vec | apply (List.length_modify ..).trans | apply (length_setAt ..).trans | apply (length_bump ..).trans | apply (length_zipIdx_map ..).trans | apply (List.length_map ..).trans | exact List.length_replicate | rfl | intro _ | split | dsimp only | apply lanternOk_mk

theorem inv_bumpModule {s : State} {i : Nat} {n : Nat}
    (ok_s : s.Inv) : (bumpModule s i n).Inv := by
  unfold bumpModule
  repeat' with_reducible first | assumption | apply inv_modKeeper | intro _ | split | dsimp only

theorem inv_cutFlight {c : Chan} {s : State} {f : DmaFlight}
    (ok_s : s.Inv) : (cutFlight c s f).Inv := by
  unfold cutFlight
  repeat' with_reducible first | assumption | apply inv_writeSome | (refine inv_of_fst ?_ (by assumption)) | (refine inv_of_snd ?_ (by assumption)) | apply lanternOk_lanternAt | apply lanternOk_vec | apply vregOk_regAt | apply veOk_regs | apply veOk_masks | apply regsOk_modify | apply regsOk_zipIdx_map | exact regsOk_replicate | exact masksOk_start _ | apply masksOk_first | apply (List.length_modify ..).trans | apply (length_setAt ..).trans | apply (length_bump ..).trans | apply (length_zipIdx_map ..).trans | apply (List.length_map ..).trans | exact List.length_replicate | rfl | apply veOk_foldl | apply lanternOk_foldl | intro _ | split | apply inv_foldl | apply inv_foldl_fst | apply inv_foldl_snd | apply inv_foldr | dsimp only | apply veOk_mk

theorem inv_cutFlights {s : State} {l : Nat}
    (ok_s : s.Inv) : (cutFlights s l).Inv := by
  unfold cutFlights
  repeat' with_reducible first | assumption | apply inv_foldl | apply inv_cutFlight | (refine inv_of_fst ?_ (by assumption)) | (refine inv_of_snd ?_ (by assumption)) | apply lanternOk_lanternAt | apply lanternOk_vec | apply vregOk_regAt | apply veOk_regs | apply veOk_masks | apply regsOk_modify | apply regsOk_zipIdx_map | exact regsOk_replicate | exact masksOk_start _ | apply masksOk_first | apply (List.length_modify ..).trans | apply (length_setAt ..).trans | apply (length_bump ..).trans | apply (length_zipIdx_map ..).trans | apply (List.length_map ..).trans | exact List.length_replicate | rfl | apply veOk_foldl | apply lanternOk_foldl | intro _ | split | apply inv_foldl | apply inv_foldl_fst | apply inv_foldl_snd | apply inv_foldr | dsimp only | apply veOk_mk

theorem inv_stopLantern {s : State} {l : Nat}
    (ok_s : s.Inv) : (stopLantern s l).Inv := by
  unfold stopLantern
  repeat' with_reducible first | assumption | apply inv_cutFlights | apply inv_modLantern | apply ok_dropWork | apply inv_advanceDaymark | apply lanternOk_lanternAt | apply lanternOk_events | apply lanternOk_dma | apply lanternOk_vec | apply (List.length_modify ..).trans | apply (length_setAt ..).trans | apply (length_bump ..).trans | apply (length_zipIdx_map ..).trans | apply (List.length_map ..).trans | exact List.length_replicate | rfl | intro _ | split | dsimp only | apply lanternOk_mk

theorem inv_clearStore {s : State} {l : Nat}
    (ok_s : s.Inv) : (clearStore s l).Inv := by
  unfold clearStore
  repeat' with_reducible first | assumption | apply inv_clearMem | intro _ | split | dsimp only

theorem inv_retireLantern {s : State} {l : Nat}
    (ok_s : s.Inv) : (retireLantern s l).Inv := by
  unfold retireLantern
  repeat' with_reducible first | assumption | apply inv_raiseEventIn | apply inv_clearStore | apply inv_modLantern | apply ok_clearLantern | apply inv_setConfig | apply inv_modKeeper | apply inv_raiseEventP | apply inv_advanceDaymark | apply lanternOk_lanternAt | apply lanternOk_events | apply lanternOk_dma | apply lanternOk_vec | apply (List.length_modify ..).trans | apply (length_setAt ..).trans | apply (length_bump ..).trans | apply (length_zipIdx_map ..).trans | apply (List.length_map ..).trans | exact List.length_replicate | rfl | intro _ | split | dsimp only | apply lanternOk_mk

theorem inv_holdTower {s : State} {t : Nat}
    (ok_s : s.Inv) : (holdTower s t).Inv := by
  unfold holdTower
  repeat' with_reducible first | assumption | apply inv_modLantern | apply inv_stopLantern | apply inv_modTower | apply inv_advanceDaymark | apply inv_modBoot | apply lanternOk_events | apply lanternOk_dma | apply lanternOk_vec | apply (List.length_modify ..).trans | apply (length_setAt ..).trans | apply (length_bump ..).trans | apply (length_zipIdx_map ..).trans | apply (List.length_map ..).trans | exact List.length_replicate | rfl | apply veOk_foldl | apply lanternOk_foldl | intro _ | split | apply inv_foldl | apply inv_foldl_fst | apply inv_foldl_snd | dsimp only | apply lanternOk_mk

theorem inv_stopCore {s : State} {c : Nat}
    (ok_s : s.Inv) : (stopCore s c).Inv := by
  unfold stopCore
  repeat' with_reducible first | assumption | apply inv_modShore | intro _ | split | dsimp only

theorem inv_stopCores {s : State} {p : ShoreCore → Bool}
    (ok_s : s.Inv) : (stopCores s p).Inv := by
  unfold stopCores
  repeat' with_reducible first | assumption | apply inv_stopCore | intro _ | split | apply inv_foldl | apply inv_foldl_fst | apply inv_foldl_snd | dsimp only

theorem inv_reportRouterOnly {s : State}
    (ok_s : s.Inv) : (reportRouterOnly s).Inv := by
  unfold reportRouterOnly
  repeat' with_reducible first | assumption | apply inv_tellNode | intro _ | split | apply inv_foldl | apply inv_foldl_fst | apply inv_foldl_snd | dsimp only

theorem inv_endFill {s : State}
    (ok_s : s.Inv) : (endFill s).Inv := by
  unfold endFill
  repeat' with_reducible first | assumption | rfl | exact id | apply lanternOk_events | apply lanternOk_dma | apply lanternOk_vec | apply lanternsOk_map | apply lanternsOk_zipIdx_map | apply funcsOk_map | apply funcsOk_zipIdx_map | apply (List.length_modify ..).trans | apply (length_setAt ..).trans | apply (length_bump ..).trans | apply (length_zipIdx_map ..).trans | apply (List.length_map ..).trans | exact List.length_replicate | rfl | intro _ | split | dsimp only | apply lanternOk_mk | apply inv_struct | rfl | exact List.length_map _ | exact List.length_modify .. | exact (List.length_map _).trans List.length_zipIdx

theorem inv_endFillOf {s : State} {id : Nat}
    (ok_s : s.Inv) : (endFillOf s id).Inv := by
  unfold endFillOf
  repeat' with_reducible first | assumption | rfl | exact id | apply lanternOk_events | apply lanternOk_dma | apply lanternOk_vec | apply funcOk_mbox | apply funcOk_queues | apply funcOk_slots | apply lanternsOk_map | apply lanternsOk_zipIdx_map | apply funcsOk_map | apply funcsOk_zipIdx_map | apply (List.length_modify ..).trans | apply (length_setAt ..).trans | apply (length_bump ..).trans | apply (length_zipIdx_map ..).trans | apply (List.length_map ..).trans | exact List.length_replicate | intro _ | split | dsimp only | apply lanternOk_mk | apply funcOk_mk | apply inv_struct | exact List.length_map _ | exact List.length_modify .. | exact (List.length_map _).trans List.length_zipIdx

theorem inv_enterRouterOnly {s : State}
    (ok_s : s.Inv) : (enterRouterOnly s).Inv := by
  unfold enterRouterOnly
  repeat' with_reducible first | assumption | apply inv_modBoot | apply inv_holdTower | apply inv_endFill | apply inv_stopCores | apply inv_reportRouterOnly | apply inv_raiseEventP | apply inv_bumpModule | intro _ | split | apply inv_foldl | apply inv_foldl_fst | apply inv_foldl_snd | dsimp only

theorem inv_leaveReached {s : State} {id : Nat}
    (ok_s : s.Inv) : (leaveReached s id).Inv := by
  unfold leaveReached
  repeat' with_reducible first | assumption | apply inv_modKeeper | apply inv_enterRouterOnly | intro _ | split | dsimp only

theorem inv_leaveAtBoundary {s : State}
    (ok_s : s.Inv) : (leaveAtBoundary s).Inv := by
  unfold leaveAtBoundary
  repeat' with_reducible first | assumption | apply inv_enterRouterOnly | apply inv_modKeeper | intro _ | split | dsimp only

theorem inv_endBist {s : State} {o : LongOp} {status : Nat}
    (ok_s : s.Inv) : (endBist s o status).Inv := by
  unfold endBist
  repeat' with_reducible first | assumption | apply inv_drawFree | apply inv_keeperWrite | apply inv_modKeeper | apply inv_finishOp | apply exceptInv_ok | apply exceptInv_error | (refine exceptInv_apply ?_ (by assumption)) | (refine inv_of_snd ?_ (by assumption)) | intro _ | split | dsimp only

theorem inv_bistCut {s : State} {t : Nat}
    (ok_s : s.Inv) : (bistCut s t).Inv := by
  unfold bistCut
  repeat' with_reducible first | assumption | apply inv_endBist | (refine inv_of_fst ?_ (by assumption)) | (refine inv_of_snd ?_ (by assumption)) | apply lanternOk_lanternAt | apply lanternOk_vec | apply vregOk_regAt | apply veOk_regs | apply veOk_masks | apply regsOk_modify | apply regsOk_zipIdx_map | exact regsOk_replicate | exact masksOk_start _ | apply masksOk_first | apply (List.length_modify ..).trans | apply (length_setAt ..).trans | apply (length_bump ..).trans | apply (length_zipIdx_map ..).trans | apply (List.length_map ..).trans | exact List.length_replicate | rfl | apply veOk_foldl | apply lanternOk_foldl | intro _ | split | apply inv_foldl | apply inv_foldl_fst | apply inv_foldl_snd | apply inv_foldr | dsimp only | apply veOk_mk

theorem inv_towerResetEvent {s : State} {t : Nat}
    (ok_s : s.Inv) : (towerResetEvent s t).Inv := by
  unfold towerResetEvent
  repeat' with_reducible first | assumption | apply inv_raiseEventIn | apply inv_foldl | apply inv_raiseEvent | (refine inv_of_fst ?_ (by assumption)) | (refine inv_of_snd ?_ (by assumption)) | apply lanternOk_lanternAt | apply lanternOk_vec | apply vregOk_regAt | apply veOk_regs | apply veOk_masks | apply regsOk_modify | apply regsOk_zipIdx_map | exact regsOk_replicate | exact masksOk_start _ | apply masksOk_first | apply (List.length_modify ..).trans | apply (length_setAt ..).trans | apply (length_bump ..).trans | apply (length_zipIdx_map ..).trans | apply (List.length_map ..).trans | exact List.length_replicate | rfl | apply veOk_foldl | apply lanternOk_foldl | intro _ | split | apply inv_foldl | apply inv_foldl_fst | apply inv_foldl_snd | apply inv_foldr | dsimp only | apply veOk_mk

theorem inv_startTowerReset {s : State} {t : Nat}
    (ok_s : s.Inv) : (startTowerReset s t).Inv := by
  unfold startTowerReset
  repeat' with_reducible first | assumption | apply inv_towerResetEvent | apply inv_bistCut | apply inv_modKeeper | apply inv_stopLantern | apply inv_modTower | apply inv_raiseEvent | apply inv_advanceDaymark | apply inv_enterRouterOnly | intro _ | split | apply inv_foldl | apply inv_foldl_fst | apply inv_foldl_snd | dsimp only

theorem inv_startLanternReset {s : State} {l : Nat} {test : Bool}
    (ok_s : s.Inv) : (startLanternReset s l test).Inv := by
  unfold startLanternReset
  repeat' with_reducible first | assumption | apply inv_lanternEvent | apply inv_bistCut | apply ok_setModes | apply inv_modKeeper | apply inv_bumpLantern | apply inv_stopLantern | apply inv_modLantern | apply inv_raiseEvent | apply inv_retireLantern | apply lanternOk_lanternAt | apply lanternOk_events | apply lanternOk_dma | apply lanternOk_vec | apply (List.length_modify ..).trans | apply (length_setAt ..).trans | apply (length_bump ..).trans | apply (length_zipIdx_map ..).trans | apply (List.length_map ..).trans | exact List.length_replicate | rfl | intro _ | split | dsimp only | apply lanternOk_mk

theorem inv_releaseLantern {s : State} {l : Nat}
    (ok_s : s.Inv) : (releaseLantern s l).Inv := by
  unfold releaseLantern
  repeat' with_reducible first | assumption | apply ok_setModes | apply inv_modLantern | apply ok_clearLantern | apply lanternOk_events | apply lanternOk_dma | apply lanternOk_vec | apply (List.length_modify ..).trans | apply (length_setAt ..).trans | apply (length_bump ..).trans | apply (length_zipIdx_map ..).trans | apply (List.length_map ..).trans | exact List.length_replicate | rfl | intro _ | split | dsimp only | apply lanternOk_mk

theorem inv_slotShows {s : State} {id : Nat} {func : Nat} {run : Nat} {committed : Nat} {daymark : Nat}
    (ok_s : s.Inv) : (slotShows s id func run committed daymark).Inv := by
  unfold slotShows
  repeat' with_reducible first | assumption | apply inv_modFunc | rfl | exact id | apply lanternOk_events | apply lanternOk_dma | apply lanternOk_vec | apply funcOk_mbox | apply funcOk_queues | apply funcOk_slots | apply lanternsOk_map | apply lanternsOk_zipIdx_map | apply funcsOk_map | apply funcsOk_zipIdx_map | apply (List.length_modify ..).trans | apply (length_setAt ..).trans | apply (length_bump ..).trans | apply (length_zipIdx_map ..).trans | apply (List.length_map ..).trans | exact List.length_replicate | intro _ | split | dsimp only | apply lanternOk_mk | apply funcOk_mk | apply inv_struct | exact List.length_map _ | exact List.length_modify .. | exact (List.length_map _).trans List.length_zipIdx

theorem inv_slotGone {s : State} {id : Nat} {func : Nat}
    (ok_s : s.Inv) : (slotGone s id func).Inv := by
  unfold slotGone
  repeat' with_reducible first | assumption | apply inv_modFunc | rfl | exact id | apply lanternOk_events | apply lanternOk_dma | apply lanternOk_vec | apply funcOk_mbox | apply funcOk_queues | apply funcOk_slots | apply lanternsOk_map | apply lanternsOk_zipIdx_map | apply funcsOk_map | apply funcsOk_zipIdx_map | apply (List.length_modify ..).trans | apply (length_setAt ..).trans | apply (length_bump ..).trans | apply (length_zipIdx_map ..).trans | apply (List.length_map ..).trans | exact List.length_replicate | intro _ | split | dsimp only | apply lanternOk_mk | apply funcOk_mk | apply inv_struct | exact List.length_map _ | exact List.length_modify .. | exact (List.length_map _).trans List.length_zipIdx

theorem inv_tellSlot {s : State} {id : Nat}
    (ok_s : s.Inv) : (tellSlot s id).Inv := by
  unfold tellSlot
  repeat' with_reducible first | assumption | apply inv_tellNode | apply inv_slotShows | (refine inv_of_fst ?_ (by assumption)) | (refine inv_of_snd ?_ (by assumption)) | apply lanternOk_lanternAt | apply lanternOk_vec | apply vregOk_regAt | apply veOk_regs | apply veOk_masks | apply regsOk_modify | apply regsOk_zipIdx_map | exact regsOk_replicate | exact masksOk_start _ | apply masksOk_first | apply (List.length_modify ..).trans | apply (length_setAt ..).trans | apply (length_bump ..).trans | apply (length_zipIdx_map ..).trans | apply (List.length_map ..).trans | exact List.length_replicate | rfl | apply veOk_foldl | apply lanternOk_foldl | intro _ | split | apply inv_foldl | apply inv_foldl_fst | apply inv_foldl_snd | apply inv_foldr | dsimp only | apply veOk_mk

theorem inv_closeSlot {s : State} {m : Mooring}
    (ok_s : s.Inv) : (closeSlot s m).Inv := by
  unfold closeSlot
  repeat' with_reducible first | assumption | apply inv_slotGone | apply inv_tellNode | (refine inv_of_fst ?_ (by assumption)) | (refine inv_of_snd ?_ (by assumption)) | apply lanternOk_lanternAt | apply lanternOk_vec | apply vregOk_regAt | apply veOk_regs | apply veOk_masks | apply regsOk_modify | apply regsOk_zipIdx_map | exact regsOk_replicate | exact masksOk_start _ | apply masksOk_first | apply (List.length_modify ..).trans | apply (length_setAt ..).trans | apply (length_bump ..).trans | apply (length_zipIdx_map ..).trans | apply (List.length_map ..).trans | exact List.length_replicate | rfl | apply veOk_foldl | apply lanternOk_foldl | intro _ | split | apply inv_foldl | apply inv_foldl_fst | apply inv_foldl_snd | apply inv_foldr | dsimp only | apply veOk_mk

theorem inv_releaseMooring {s : State} {id : Nat}
    (ok_s : s.Inv) : (releaseMooring s id).Inv := by
  unfold releaseMooring
  repeat' with_reducible first | assumption | apply inv_slotShows | apply ok_dropWork | apply inv_stopCores | apply inv_modKeeper | apply inv_leaveReached | rfl | exact id | apply lanternOk_events | apply lanternOk_dma | apply lanternOk_vec | apply funcOk_mbox | apply funcOk_queues | apply funcOk_slots | apply lanternsOk_map | apply lanternsOk_zipIdx_map | apply funcsOk_map | apply funcsOk_zipIdx_map | apply (List.length_modify ..).trans | apply (length_setAt ..).trans | apply (length_bump ..).trans | apply (length_zipIdx_map ..).trans | apply (List.length_map ..).trans | exact List.length_replicate | rfl | intro _ | split | dsimp only | apply lanternOk_mk | apply funcOk_mk | apply inv_struct | rfl | exact List.length_map _ | exact List.length_modify .. | exact (List.length_map _).trans List.length_zipIdx

theorem inv_losePower {s : State}
    (ok_s : s.Inv) : (losePower s).Inv := by
  exact ⟨⟨lanternsOk_reset, funcsOk_reset, List.length_replicate, List.length_replicate,
    List.length_replicate, List.length_replicate⟩, rfl⟩

theorem inv_powerEvent {s : State} {unit : Nat} {cause : Nat} {level : Nat}
    (ok_s : s.Inv) : (powerEvent s unit cause level).Inv := by
  unfold powerEvent
  repeat' with_reducible first | assumption | apply inv_raiseEventP | intro _ | split | dsimp only

theorem inv_powerDown {s : State}
    (ok_s : s.Inv) : (powerDown s).Inv := by
  unfold powerDown
  repeat' with_reducible first | assumption | apply inv_losePower | apply inv_powerEvent | intro _ | split | dsimp only

end Sys2Proof.Machine
end

