-- ==== Sys2Proof/Laws/InvDma.lean ====
section
/-! SUPPORT. Laws/InvDma.lean: the operations of Machine/Dma.lean keep the invariant State.Inv. -/

namespace Sys2Proof.Machine

theorem inv_foldlReading {α : Type} {g : Reading → α → Reading} {xs : List α} {p : Reading}
    (hg : ∀ p x, p.s.Inv → (g p x).s.Inv) (h : p.s.Inv) : (xs.foldl g p).s.Inv := by
  induction xs generalizing p with
  | nil => exact h
  | cons x xs ih => exact ih (hg _ _ h)

theorem inv_dmaRetire {s : State} {c : Chan}
    (ok_s : s.Inv) : (dmaRetire s c).Inv := by
  unfold dmaRetire
  repeat' with_reducible first | assumption | apply inv_bumpChan | apply inv_bumpBeacon | intro _ | split | dsimp only

theorem inv_noteOverLimit {s : State} {id : Nat} {tensor : Nat}
    (ok_s : s.Inv) : (noteOverLimit s id tensor).Inv := by
  unfold noteOverLimit
  repeat' with_reducible first | assumption | apply inv_modMooring | intro _ | split | dsimp only

theorem inv_noteCmdBad {s : State} {c : Chan} {cause : Nat}
    (ok_s : s.Inv) : (noteCmdBad s c cause).Inv := by
  unfold noteCmdBad
  repeat' with_reducible first | assumption | apply inv_modChan | (refine inv_of_fst ?_ (by assumption)) | (refine inv_of_snd ?_ (by assumption)) | apply lanternOk_lanternAt | apply lanternOk_vec | apply vregOk_regAt | apply veOk_regs | apply veOk_masks | apply regsOk_modify | apply regsOk_zipIdx_map | exact regsOk_replicate | exact masksOk_start _ | apply masksOk_first | apply (List.length_modify ..).trans | apply (length_setAt ..).trans | apply (length_bump ..).trans | apply (length_zipIdx_map ..).trans | apply (List.length_map ..).trans | exact List.length_replicate | rfl | apply veOk_foldl | apply lanternOk_foldl | intro _ | split | apply inv_foldl | apply inv_foldl_fst | apply inv_foldl_snd | apply inv_foldr | dsimp only | apply veOk_mk

theorem inv_dmaBad {s : State} {c : Chan} {r : DescRef} {cause : Nat} {addr : Nat}
    (ok_s : s.Inv) : (dmaBad s c r cause addr).Inv := by
  unfold dmaBad
  repeat' with_reducible first | assumption | apply inv_lanternEvent | apply inv_noteCmdBad | apply inv_bumpChan | apply inv_modChan | apply inv_setFault | apply inv_modMooring | apply inv_noteOverLimit | apply inv_raiseEventMore | intro _ | split | dsimp only

theorem inv_readPart {c : Chan} {ctx : Ctx} {r : Reading} {p : Nat × Nat × Nat}
    (ok_r : r.s.Inv) : (readPart c ctx r p).s.Inv := by
  unfold readPart
  repeat' with_reducible first | assumption | apply inv_peerReads | (refine inv_of_fst ?_ (by assumption)) | apply memoryWf_setBytes | intro _ | split | dsimp only

theorem inv_noteJobPoison {s : State} {c : Chan} {j : DmaJob} {used : Nat}
    (ok_s : s.Inv) : (noteJobPoison s c j used).Inv := by
  unfold noteJobPoison
  repeat' with_reducible first | assumption | apply inv_notePoisonLine | intro _ | split | apply inv_foldl | apply inv_foldl_fst | apply inv_foldl_snd | apply inv_foldlReading | apply inv_foldlWriting | dsimp only

theorem inv_performJob {s : State} {c : Chan} {priv : Bool} {j0 : DmaJob} {lost : List (Nat × Nat)} {forced : Nat × Nat}
    (ok_s : s.Inv) : (performJob s c priv j0 lost forced).s.Inv := by
  unfold performJob
  repeat' with_reducible first | assumption | apply inv_overlapPieces | apply inv_noteJobPoison | apply inv_bumpChan | apply inv_writePiece | apply inv_writeSome | (refine inv_of_fst ?_ (by assumption)) | intro _ | split | apply inv_foldl | apply inv_foldl_fst | apply inv_foldl_snd | apply inv_foldlReading | apply inv_foldlWriting | dsimp only

theorem inv_badFlight {s : State} {c : Chan} {f : DmaFlight} {tags : List Nat} {cause : Nat} {addr : Nat}
    (ok_s : s.Inv) : (badFlight s c f tags cause addr).Inv := by
  unfold badFlight
  repeat' with_reducible first | assumption | apply inv_modChan | apply inv_dmaRetire | apply inv_dmaBad | (refine inv_of_fst ?_ (by assumption)) | (refine inv_of_snd ?_ (by assumption)) | apply lanternOk_lanternAt | apply lanternOk_vec | apply vregOk_regAt | apply veOk_regs | apply veOk_masks | apply regsOk_modify | apply regsOk_zipIdx_map | exact regsOk_replicate | exact masksOk_start _ | apply masksOk_first | apply (List.length_modify ..).trans | apply (length_setAt ..).trans | apply (length_bump ..).trans | apply (length_zipIdx_map ..).trans | apply (List.length_map ..).trans | exact List.length_replicate | rfl | apply veOk_foldl | apply lanternOk_foldl | intro _ | split | apply inv_foldl | apply inv_foldl_fst | apply inv_foldl_snd | apply inv_foldr | dsimp only | apply veOk_mk

theorem inv_performFlight {s : State} {c : Chan} {f : DmaFlight} {j : DmaJob} {lost : List (Nat × Nat)} {forced : Nat × Nat}
    (ok_s : s.Inv) : (performFlight s c f j lost forced).Inv := by
  unfold performFlight
  repeat' with_reducible first | assumption | apply inv_badFlight | apply inv_performJob | apply inv_modChan | apply inv_dmaRetire | apply inv_dmaBad | intro _ | split | dsimp only

theorem inv_takeFlight {s : State} {c : Chan} {p : DmaFlight → Bool}
    (ok_s : s.Inv) : (takeFlight s c p).2.Inv := by
  unfold takeFlight
  repeat' with_reducible first | assumption | apply inv_modChan | intro _ | split | dsimp only

theorem inv_putFlight {s : State} {c : Chan} {old : DmaFlight} {new : DmaFlight}
    (ok_s : s.Inv) : (putFlight s c old new).Inv := by
  unfold putFlight
  repeat' with_reducible first | assumption | apply inv_modChan | intro _ | split | dsimp only

theorem inv_settleCopy {s : State} {c : Chan}
    (ok_s : s.Inv) : (settleCopy s c).Inv := by
  unfold settleCopy
  repeat' with_reducible first | assumption | apply inv_finishOp | (refine inv_of_fst ?_ (by assumption)) | (refine inv_of_snd ?_ (by assumption)) | apply lanternOk_lanternAt | apply lanternOk_vec | apply vregOk_regAt | apply veOk_regs | apply veOk_masks | apply regsOk_modify | apply regsOk_zipIdx_map | exact regsOk_replicate | exact masksOk_start _ | apply masksOk_first | apply (List.length_modify ..).trans | apply (length_setAt ..).trans | apply (length_bump ..).trans | apply (length_zipIdx_map ..).trans | apply (List.length_map ..).trans | exact List.length_replicate | rfl | apply veOk_foldl | apply lanternOk_foldl | intro _ | split | apply inv_foldl | apply inv_foldl_fst | apply inv_foldl_snd | apply inv_foldr | dsimp only | apply veOk_mk

theorem inv_dmaAnswer {s : State} {c : Chan} {r : PeerReq} {data : List Byte} {status : Nat}
    (ok_s : s.Inv) : (dmaAnswer s c r data status).Inv := by
  unfold dmaAnswer
  repeat' with_reducible first | assumption | apply inv_badFlight | apply inv_settleCopy | apply inv_modChan | apply inv_dmaRetire | apply inv_dmaBad | apply inv_performFlight | apply inv_putFlight | apply memoryWf_setBytes | intro _ | split | dsimp only

theorem inv_stepChan {s : State} {c : Chan}
    (ok_s : s.Inv) : (stepChan s c).Inv := by
  unfold stepChan
  repeat' with_reducible first | assumption | apply inv_modChan | intro _ | split | dsimp only

theorem inv_issueDma {s : State} {c : Chan} {want : DmaDesc → Bool} (act : State → DmaProg → DmaDesc → State)
    (ok_s : s.Inv) (ok_act : ∀ (y0 : State) (y1 : DmaProg) (y2 : DmaDesc), y0.Inv → (act y0 y1 y2).Inv) : (issueDma s c want act).Inv := by
  unfold issueDma
  repeat' with_reducible first | assumption | apply ok_act | intro _ | split | dsimp only

theorem inv_badAtIssue {s : State} {c : Chan} {p : DmaProg} {tensor : Nat} {cause : Nat} {addr : Nat}
    (ok_s : s.Inv) : (badAtIssue s c p tensor cause addr).Inv := by
  unfold badAtIssue
  repeat' with_reducible first | assumption | apply inv_stepChan | apply inv_dmaRetire | apply inv_dmaBad | intro _ | split | dsimp only

theorem inv_startTransfer {s : State} {c : Chan} {p : DmaProg} {d : DmaDesc}
    (ok_s : s.Inv) : (startTransfer s c p d).Inv := by
  unfold startTransfer
  repeat' with_reducible first | assumption | apply inv_readPart | apply inv_badAtIssue | apply inv_stepChan | apply inv_performFlight | apply inv_modChan | intro _ | split | apply inv_foldl | apply inv_foldl_fst | apply inv_foldl_snd | apply inv_foldlReading | apply inv_foldlWriting | dsimp only

theorem inv_execMove {c : Chan} {s : State}
    (ok_s : s.Inv) : OutcomeInv (execMove c s) := by
  unfold execMove
  repeat' with_reducible first | assumption | apply inv_settleCopy | apply outcomeInv_next | apply outcomeInv_fault | apply inv_issueDma | apply inv_badAtIssue | apply inv_startTransfer | intro _ | split | dsimp only

theorem inv_execMove3 {c : Chan} {s : State}
    (ok_s : s.Inv) : OutcomeInv (execMove3 c s) := by
  unfold execMove3
  repeat' with_reducible first | assumption | apply outcomeInv_next | apply outcomeInv_fault | apply inv_issueDma | apply inv_badAtIssue | apply inv_startTransfer | intro _ | split | dsimp only

theorem inv_execLoop {c : Chan} {s : State}
    (ok_s : s.Inv) : OutcomeInv (execLoop c s) := by
  unfold execLoop
  repeat' with_reducible first | assumption | apply outcomeInv_next | apply outcomeInv_fault | apply inv_issueDma | apply inv_badAtIssue | apply inv_dmaRetire | apply inv_modChan | apply inv_stepChan | intro _ | split | dsimp only

theorem inv_execDmaWait {c : Chan} {s : State}
    (ok_s : s.Inv) : OutcomeInv (execDmaWait c s) := by
  unfold execDmaWait
  repeat' with_reducible first | assumption | apply outcomeInv_next | apply outcomeInv_fault | apply inv_issueDma | apply inv_badAtIssue | apply inv_stepChan | apply inv_dmaRetire | apply inv_modChan | intro _ | split | dsimp only

theorem inv_execDmaWaitSatisfied {c : Chan} {s : State}
    (ok_s : s.Inv) : OutcomeInv (execDmaWaitSatisfied c s) := by
  unfold execDmaWaitSatisfied
  repeat' with_reducible first | assumption | apply outcomeInv_next | apply outcomeInv_fault | apply inv_stepChan | apply inv_dmaRetire | intro _ | split | dsimp only

theorem inv_execSignal {c : Chan} {s : State}
    (ok_s : s.Inv) : OutcomeInv (execSignal c s) := by
  unfold execSignal
  repeat' with_reducible first | assumption | apply outcomeInv_next | apply outcomeInv_fault | apply inv_issueDma | apply inv_badAtIssue | apply inv_modChan | intro _ | split | dsimp only

theorem inv_signalStep {s : State} {c : Chan}
    (ok_s : s.Inv) : (signalStep s c).Inv := by
  unfold signalStep
  repeat' with_reducible first | assumption | apply inv_foldr | apply inv_foldl_snd | apply inv_foldl_fst | apply inv_foldl | apply inv_badAtIssue | apply inv_modLantern | apply inv_dmaBad | apply inv_stepChan | apply inv_dmaRetire | apply lanternOk_lanternAt | apply lanternOk_events | apply lanternOk_dma | apply lanternOk_vec | apply (List.length_modify ..).trans | apply (length_setAt ..).trans | apply (length_bump ..).trans | apply (length_zipIdx_map ..).trans | apply (List.length_map ..).trans | exact List.length_replicate | rfl | intro _ | split | dsimp only | apply lanternOk_mk

theorem inv_execSignalIncrement {c : Chan} {s : State}
    (ok_s : s.Inv) : OutcomeInv (execSignalIncrement c s) := by
  exact outcomeInv_next (inv_signalStep ok_s)

theorem inv_retireFlight {s : State} {c : Chan}
    (ok_s : s.Inv) : (retireFlight s c).Inv := by
  unfold retireFlight
  repeat' with_reducible first | assumption | apply inv_foldr | apply inv_foldl_snd | apply inv_foldl_fst | apply inv_foldl | apply inv_badFlight | apply inv_takeFlight | apply inv_dmaRetire | apply inv_performJob | apply inv_modChan | apply inv_dmaBad | (refine inv_of_snd ?_ (by assumption)) | intro _ | split | dsimp only

theorem inv_execDmaDescriptorRetire {c : Chan} {s : State}
    (ok_s : s.Inv) : OutcomeInv (execDmaDescriptorRetire c s) := by
  exact outcomeInv_next (inv_settleCopy (inv_retireFlight ok_s))

theorem inv_dmaHostError {s : State} {c : Chan}
    (ok_s : s.Inv) : (dmaHostError s c).Inv := by
  unfold dmaHostError
  repeat' with_reducible first | assumption | apply inv_settleCopy | apply inv_performFlight | apply inv_takeFlight | apply inv_performJob | apply inv_dmaRetire | apply inv_dmaBad | (refine inv_of_snd ?_ (by assumption)) | intro _ | split | dsimp only

theorem inv_stopChannel {s : State} {c : Chan}
    (ok_s : s.Inv) : (stopChannel s c).Inv := by
  unfold stopChannel
  repeat' with_reducible first | assumption | apply inv_bumpChan | apply inv_modChan | apply inv_dmaRetire | intro _ | split | dsimp only

theorem inv_stopCopy {s : State} {c : Chan} {status : Nat}
    (ok_s : s.Inv) : (stopCopy s c status).Inv := by
  unfold stopCopy
  repeat' with_reducible first | assumption | apply inv_stopChannel | apply inv_finishOp | (refine inv_of_fst ?_ (by assumption)) | (refine inv_of_snd ?_ (by assumption)) | apply lanternOk_lanternAt | apply lanternOk_vec | apply vregOk_regAt | apply veOk_regs | apply veOk_masks | apply regsOk_modify | apply regsOk_zipIdx_map | exact regsOk_replicate | exact masksOk_start _ | apply masksOk_first | apply (List.length_modify ..).trans | apply (length_setAt ..).trans | apply (length_bump ..).trans | apply (length_zipIdx_map ..).trans | apply (List.length_map ..).trans | exact List.length_replicate | rfl | apply veOk_foldl | apply lanternOk_foldl | intro _ | split | apply inv_foldl | apply inv_foldl_fst | apply inv_foldl_snd | apply inv_foldr | dsimp only | apply veOk_mk

theorem inv_execChannelStop {c : Chan} {s : State}
    (ok_s : s.Inv) : OutcomeInv (execChannelStop c s) := by
  unfold execChannelStop
  repeat' with_reducible first | assumption | apply inv_stopCopy | apply outcomeInv_next | apply outcomeInv_fault | apply inv_stopChannel | intro _ | split | dsimp only

end Sys2Proof.Machine
end

