-- ==== Sys2Proof/Laws/InvRegisters.lean ====
section
/-! SUPPORT. Laws/InvRegisters.lean: the operations of Machine/Registers.lean keep the invariant State.Inv. -/

namespace Sys2Proof.Machine

theorem inv_countView {s : State} {f : Nat}
    (ok_s : s.Inv) : (countView s f).Inv := by
  unfold countView
  repeat' with_reducible first | assumption | apply inv_modFunc | apply funcOk_mbox | apply funcOk_queues | apply funcOk_slots | apply (List.length_modify ..).trans | apply (length_setAt ..).trans | apply (length_bump ..).trans | apply (length_zipIdx_map ..).trans | apply (List.length_map ..).trans | exact List.length_replicate | rfl | intro _ | split | dsimp only | apply funcOk_mk

theorem inv_writeHead {s : State} {f : Nat} {q : Nat} {v : Nat}
    (ok_s : s.Inv) : (writeHead s f q v).Inv := by
  unfold writeHead
  repeat' with_reducible first | assumption | apply inv_tellRoom | apply inv_flushQueue | apply inv_modQueue | intro _ | split | dsimp only

theorem inv_execQueueHeadWrite {func : Nat} {q : Nat} {value : Nat} {s : State}
    (ok_s : s.Inv) : OutcomeInv (execQueueHeadWrite func q value s) := by
  unfold execQueueHeadWrite
  repeat' with_reducible first | assumption | apply outcomeInv_next | apply outcomeInv_fault | apply inv_writeHead | intro _ | split | dsimp only

theorem inv_clearStatus {s : State} {f : Nat} {v : BitVec 64}
    (ok_s : s.Inv) : (clearStatus s f v).Inv := by
  unfold clearStatus
  repeat' with_reducible first | assumption | apply inv_modFunc | apply funcOk_mbox | apply funcOk_queues | apply funcOk_slots | apply (List.length_modify ..).trans | apply (length_setAt ..).trans | apply (length_bump ..).trans | apply (length_zipIdx_map ..).trans | apply (List.length_map ..).trans | exact List.length_replicate | rfl | intro _ | split | dsimp only | apply funcOk_mk

theorem inv_raiseSet {s : State} {f : Nat} {v : BitVec 64}
    (ok_s : s.Inv) : (raiseSet s f v).Inv := by
  unfold raiseSet
  repeat' with_reducible first | assumption | apply inv_raiseVector | intro _ | split | apply inv_foldl | apply inv_foldl_fst | apply inv_foldl_snd | dsimp only

theorem inv_execIntStatusClear {func : Nat} {value : BitVec 64} {raised : BitVec 64} {s : State}
    (ok_s : s.Inv) : OutcomeInv (execIntStatusClear func value raised s) := by
  unfold execIntStatusClear
  repeat' with_reducible first | assumption | apply outcomeInv_next | apply outcomeInv_fault | apply inv_raiseSet | apply inv_clearStatus | intro _ | split | dsimp only

theorem inv_sendUnmasked {s : State} {f : Nat}
    (ok_s : s.Inv) : (sendUnmasked s f).Inv := by
  unfold sendUnmasked
  repeat' with_reducible first | assumption | apply inv_modFunc | rfl | exact id | apply funcOk_funcAt | apply funcOk_mbox | apply funcOk_queues | apply funcOk_slots | apply lanternsOk_map | apply lanternsOk_zipIdx_map | apply funcsOk_map | apply funcsOk_zipIdx_map | apply (List.length_modify ..).trans | apply (length_setAt ..).trans | apply (length_bump ..).trans | apply (length_zipIdx_map ..).trans | apply (List.length_map ..).trans | exact List.length_replicate | rfl | intro _ | split | apply inv_foldl | apply inv_foldl_fst | apply inv_foldl_snd | dsimp only | apply funcOk_mk | apply inv_struct | rfl | exact List.length_map _ | exact List.length_modify .. | exact (List.length_map _).trans List.length_zipIdx

theorem inv_writeMailbox {s : State} {f : Nat} {off : Nat} {bs : List Byte}
    (ok_s : s.Inv) : (writeMailbox s f off bs).Inv := by
  unfold writeMailbox
  repeat' with_reducible first | assumption | apply inv_modMbox | apply inv_writeSeal | apply memoryWf_setBytes | intro _ | split | dsimp only

theorem inv_writeQueueReg {s : State} {f : Nat} {off : Nat} {bs : List Byte}
    (ok_s : s.Inv) : (writeQueueReg s f off bs).Inv := by
  unfold writeQueueReg
  repeat' with_reducible first | assumption | apply inv_writeHead | apply inv_modQueue | intro _ | split | dsimp only

theorem inv_writeFuncReg {s : State} {f : Nat} {off : Nat} {bs : List Byte}
    (ok_s : s.Inv) : (writeFuncReg s f off bs).Inv := by
  unfold writeFuncReg
  repeat' with_reducible first | assumption | apply inv_clearStatus | intro _ | split | dsimp only

theorem inv_writeLayout {s : State} {f : Nat} {off : Nat} {bs : List Byte}
    (ok_s : s.Inv) : (writeLayout s f off bs).Inv := by
  unfold writeLayout
  repeat' with_reducible first | assumption | apply inv_writeQueueReg | apply inv_writeFuncReg | apply inv_countView | apply inv_sendUnmasked | apply inv_modFunc | apply memoryWf_setBytes | apply funcOk_mbox | apply funcOk_queues | apply funcOk_slots | apply (List.length_modify ..).trans | apply (length_setAt ..).trans | apply (length_bump ..).trans | apply (length_zipIdx_map ..).trans | apply (List.length_map ..).trans | exact List.length_replicate | rfl | intro _ | split | dsimp only | apply funcOk_mk

theorem inv_shoreFault {s : State} {core : Nat} {addr : Nat}
    (ok_s : s.Inv) : (shoreFault s core addr).Inv := by
  unfold shoreFault
  repeat' with_reducible first | assumption | apply inv_modShore | intro _ | split | dsimp only

theorem inv_writeReg {s : State} {f : Nat} {off : Nat} {bs : List Byte}
    (ok_s : s.Inv) : (writeReg s f off bs).Inv := by
  unfold writeReg
  repeat' with_reducible first | assumption | apply inv_shoreFault | apply inv_countView | apply inv_writeMailbox | apply inv_writeLayout | intro _ | split | dsimp only

theorem inv_execRegisterWrite {func : Nat} {offset : Nat} {data : List Byte} {s : State}
    (ok_s : s.Inv) : OutcomeInv (execRegisterWrite func offset data s) := by
  unfold execRegisterWrite
  repeat' with_reducible first | assumption | apply outcomeInv_next | apply outcomeInv_fault | apply inv_writeReg | intro _ | split | dsimp only

theorem inv_execModerationTimer {func : Nat} {q : Nat} {s : State}
    (ok_s : s.Inv) : OutcomeInv (execModerationTimer func q s) := by
  unfold execModerationTimer
  repeat' with_reducible first | assumption | apply outcomeInv_next | apply outcomeInv_fault | apply inv_raiseVector | apply inv_modQueue | intro _ | split | dsimp only

theorem inv_execBusMasterEnableClear {func : Nat} {s : State}
    (ok_s : s.Inv) : OutcomeInv (execBusMasterEnableClear func s) := by
  unfold execBusMasterEnableClear
  repeat' with_reducible first | assumption | apply outcomeInv_next | apply outcomeInv_fault | apply inv_modFunc | apply funcOk_mbox | apply funcOk_queues | apply funcOk_slots | apply (List.length_modify ..).trans | apply (length_setAt ..).trans | apply (length_bump ..).trans | apply (length_zipIdx_map ..).trans | apply (List.length_map ..).trans | exact List.length_replicate | rfl | intro _ | split | dsimp only | apply funcOk_mk

theorem inv_execBusMasterEnableSet {func : Nat} {s : State}
    (ok_s : s.Inv) : OutcomeInv (execBusMasterEnableSet func s) := by
  unfold execBusMasterEnableSet
  repeat' with_reducible first | assumption | apply outcomeInv_next | apply outcomeInv_fault | apply inv_sendUnmasked | apply inv_flushFunc | apply inv_modFunc | apply funcOk_mbox | apply funcOk_queues | apply funcOk_slots | apply (List.length_modify ..).trans | apply (length_setAt ..).trans | apply (length_bump ..).trans | apply (length_zipIdx_map ..).trans | apply (List.length_map ..).trans | exact List.length_replicate | rfl | intro _ | split | dsimp only | apply funcOk_mk

theorem inv_execMemorySpaceEnableClear {func : Nat} {s : State}
    (ok_s : s.Inv) : OutcomeInv (execMemorySpaceEnableClear func s) := by
  unfold execMemorySpaceEnableClear
  repeat' with_reducible first | assumption | apply outcomeInv_next | apply outcomeInv_fault | apply inv_modFunc | apply funcOk_mbox | apply funcOk_queues | apply funcOk_slots | apply (List.length_modify ..).trans | apply (length_setAt ..).trans | apply (length_bump ..).trans | apply (length_zipIdx_map ..).trans | apply (List.length_map ..).trans | exact List.length_replicate | rfl | intro _ | split | dsimp only | apply funcOk_mk

theorem inv_execMemorySpaceEnableSet {func : Nat} {s : State}
    (ok_s : s.Inv) : OutcomeInv (execMemorySpaceEnableSet func s) := by
  unfold execMemorySpaceEnableSet
  repeat' with_reducible first | assumption | apply outcomeInv_next | apply outcomeInv_fault | apply inv_modFunc | apply funcOk_mbox | apply funcOk_queues | apply funcOk_slots | apply (List.length_modify ..).trans | apply (length_setAt ..).trans | apply (length_bump ..).trans | apply (length_zipIdx_map ..).trans | apply (List.length_map ..).trans | exact List.length_replicate | rfl | intro _ | split | dsimp only | apply funcOk_mk

theorem inv_execVfEnableSet {s : State}
    (ok_s : s.Inv) : OutcomeInv (execVfEnableSet s) := by
  unfold execVfEnableSet
  repeat' with_reducible first | assumption | apply outcomeInv_next | apply outcomeInv_fault | rfl | exact id | apply funcOk_mbox | apply funcOk_queues | apply funcOk_slots | apply lanternsOk_map | apply lanternsOk_zipIdx_map | apply funcsOk_map | apply funcsOk_zipIdx_map | apply (List.length_modify ..).trans | apply (length_setAt ..).trans | apply (length_bump ..).trans | apply (length_zipIdx_map ..).trans | apply (List.length_map ..).trans | exact List.length_replicate | rfl | intro _ | split | dsimp only | apply funcOk_mk | apply inv_struct | rfl | exact List.length_map _ | exact List.length_modify .. | exact (List.length_map _).trans List.length_zipIdx

theorem inv_execPerstNRelease {s : State}
    (ok_s : s.Inv) : OutcomeInv (execPerstNRelease s) := by
  unfold execPerstNRelease
  repeat' with_reducible first | assumption | apply outcomeInv_next | apply outcomeInv_fault | apply inv_modBoot | intro _ | split | dsimp only

theorem inv_execNop {m : Mbox} {s : State}
    (ok_s : s.Inv) : OutcomeInv (execNop m s) := by
  unfold execNop
  repeat' with_reducible first | assumption | apply outcomeInv_next | apply outcomeInv_fault | apply inv_runCommand | apply inv_answer | intro _ | split | dsimp only

theorem inv_execIdentify {m : Mbox} {s : State}
    (ok_s : s.Inv) : OutcomeInv (execIdentify m s) := by
  unfold execIdentify
  repeat' with_reducible first | assumption | apply outcomeInv_next | apply outcomeInv_fault | apply inv_runCommand | apply inv_answer | intro _ | split | dsimp only

theorem inv_execCqBind {m : Mbox} {qid : Nat} {typ : Nat} {base : Nat} {log2n : Nat} {vector : Nat} {modCount : Nat} {modTime : Nat} {s : State}
    (ok_s : s.Inv) : OutcomeInv (execCqBind m qid typ base log2n vector modCount modTime s) := by
  unfold execCqBind
  repeat' with_reducible first | assumption | apply inv_modTime | apply outcomeInv_next | apply outcomeInv_fault | apply inv_runCommand | apply inv_answer | apply inv_modQueue | intro _ | split | dsimp only

theorem inv_execCqUnbind {m : Mbox} {qid : Nat} {s : State}
    (ok_s : s.Inv) : OutcomeInv (execCqUnbind m qid s) := by
  unfold execCqUnbind
  repeat' with_reducible first | assumption | apply outcomeInv_next | apply outcomeInv_fault | apply inv_runCommand | apply inv_answer | apply inv_modQueue | intro _ | split | dsimp only

theorem inv_execHwinOpen {m : Mbox} {addr : Nat} {len : Nat} {rd : Bool} {wr : Bool} {s : State}
    (ok_s : s.Inv) : OutcomeInv (execHwinOpen m addr len rd wr s) := by
  unfold execHwinOpen
  repeat' with_reducible first | assumption | apply outcomeInv_next | apply outcomeInv_fault | apply inv_runCommand | apply inv_answer | apply inv_modKeeper | intro _ | split | dsimp only

theorem inv_execHwinClose {m : Mbox} {idx : Nat} {s : State}
    (ok_s : s.Inv) : OutcomeInv (execHwinClose m idx s) := by
  unfold execHwinClose
  repeat' with_reducible first | assumption | apply outcomeInv_next | apply outcomeInv_fault | apply inv_runCommand | apply inv_answer | apply inv_modKeeper | intro _ | split | dsimp only

end Sys2Proof.Machine
end

