-- ==== Sys2Proof/Laws/InvEndpoint.lean ====
section
/-! SUPPORT. Laws/InvEndpoint.lean: the operations of Machine/Endpoint.lean keep the invariant State.Inv. -/

namespace Sys2Proof.Machine

theorem inv_sendControl {s : State} {typ : Nat} {dest : Nat} {cls : Nat} {seq : Nat} {arg : Nat}
    (ok_s : s.Inv) : (sendControl s typ dest cls seq arg).Inv := by
  unfold sendControl
  repeat' with_reducible first | assumption | apply inv_inject | intro _ | split | dsimp only

theorem inv_modDst {s : State} {src : Nat} {cls : Nat} {f : DstStream → DstStream}
    (ok_s : s.Inv) : (modDst s src cls f).Inv := by
  unfold modDst
  repeat' with_reducible first | assumption | apply inv_modRouter | intro _ | split | dsimp only | rfl | exact List.length_map _ | exact List.length_modify .. | exact (List.length_map _).trans List.length_zipIdx

theorem inv_sendAck {s : State} {d : DstStream}
    (ok_s : s.Inv) : (sendAck s d).Inv := by
  unfold sendAck
  repeat' with_reducible first | assumption | apply inv_sendControl | apply inv_modDst | intro _ | split | dsimp only

theorem inv_sendNak {s : State} {src : Nat} {cls : Nat}
    (ok_s : s.Inv) : (sendNak s src cls).Inv := by
  unfold sendNak
  repeat' with_reducible first | assumption | apply inv_modRouter | apply inv_sendControl | apply inv_bumpEnd | apply inv_modDst | intro _ | split | dsimp only

theorem inv_takeArrived {s : State} {p : Packet}
    (ok_s : s.Inv) : (takeArrived s p).Inv := by
  unfold takeArrived
  repeat' with_reducible first | assumption | apply inv_modRouter | intro _ | split | dsimp only | rfl | exact List.length_map _ | exact List.length_modify .. | exact (List.length_map _).trans List.length_zipIdx

theorem inv_startDst {s : State} {p : Packet}
    (ok_s : s.Inv) : (startDst s p).Inv := by
  unfold startDst
  repeat' with_reducible first | assumption | apply inv_modDst | apply inv_modRouter | intro _ | split | dsimp only | rfl | exact List.length_map _ | exact List.length_modify .. | exact (List.length_map _).trans List.length_zipIdx

theorem inv_countDrop {s : State} {p : Packet}
    (ok_s : s.Inv) : (countDrop s p).Inv := by
  unfold countDrop
  repeat' with_reducible first | assumption | apply inv_modKeeper | (refine inv_of_fst ?_ (by assumption)) | (refine inv_of_snd ?_ (by assumption)) | apply lanternOk_lanternAt | apply lanternOk_vec | apply vregOk_regAt | apply veOk_regs | apply veOk_masks | apply regsOk_modify | apply regsOk_zipIdx_map | exact regsOk_replicate | exact masksOk_start _ | apply masksOk_first | apply (List.length_modify ..).trans | apply (length_setAt ..).trans | apply (length_bump ..).trans | apply (length_zipIdx_map ..).trans | apply (List.length_map ..).trans | exact List.length_replicate | rfl | apply veOk_foldl | apply lanternOk_foldl | intro _ | split | apply inv_foldl | apply inv_foldl_fst | apply inv_foldl_snd | apply inv_foldr | dsimp only | apply veOk_mk

theorem inv_consumeSeq {s : State} {p : Packet}
    (ok_s : s.Inv) : (consumeSeq s p).Inv := by
  unfold consumeSeq
  repeat' with_reducible first | assumption | apply inv_modDst | apply inv_sendAck | intro _ | split | dsimp only

theorem inv_receiveSeq {s : State} {room : Bool} {p : Packet}
    (ok_s : s.Inv) : (receiveSeq s room p).1.Inv := by
  unfold receiveSeq
  repeat' with_reducible first | assumption | apply inv_countDrop | apply inv_modDst | apply inv_takeArrived | apply inv_sendNak | apply inv_bumpEnd | apply inv_startDst | apply inv_sendAck | apply inv_consumeSeq | apply inv_bumpModule | intro _ | split | dsimp only

theorem inv_onPacket {s : State} {typ : Nat} {p : Packet} {room : Bool} (act : State → Packet → State)
    (ok_s : s.Inv) (ok_act : ∀ (y0 : State) (y1 : Packet), y0.Inv → (act y0 y1).Inv) : (onPacket s typ p room act).Inv := by
  unfold onPacket
  repeat' with_reducible first | assumption | apply inv_receiveSeq | apply ok_act | (refine inv_of_fst ?_ (by assumption)) | intro _ | split | dsimp only

theorem inv_answerPeer {s : State} {p : Packet} {typ : Nat} {status : Nat} {data : List Byte}
    (ok_s : s.Inv) : (answerPeer s p typ status data).Inv := by
  unfold answerPeer
  repeat' with_reducible first | assumption | apply inv_sendSeq | intro _ | split | dsimp only

theorem inv_peerWriteHere {s : State} {p : Packet}
    (ok_s : s.Inv) : (peerWriteHere s p).1.Inv := by
  unfold peerWriteHere
  repeat' with_reducible first | assumption | apply inv_writeMem | intro _ | split | dsimp only

theorem inv_execPeerWrite {p : Packet} {s : State}
    (ok_s : s.Inv) : OutcomeInv (execPeerWrite p s) := by
  unfold execPeerWrite
  repeat' with_reducible first | assumption | apply outcomeInv_next | apply outcomeInv_fault | apply inv_onPacket | apply inv_peerWriteHere | apply inv_answerPeer | (refine inv_of_fst ?_ (by assumption)) | intro _ | split | dsimp only

theorem inv_peerReadHere {s : State} {p : Packet}
    (ok_s : s.Inv) : (peerReadHere s p).1.Inv := by
  unfold peerReadHere
  repeat' with_reducible first | assumption | apply inv_freeBytes | apply inv_notePoisonLine | (refine inv_of_snd ?_ (by assumption)) | intro _ | split | apply inv_foldl | apply inv_foldl_fst | apply inv_foldl_snd | dsimp only

theorem inv_execPeerRead {p : Packet} {s : State}
    (ok_s : s.Inv) : OutcomeInv (execPeerRead p s) := by
  unfold execPeerRead
  repeat' with_reducible first | assumption | apply outcomeInv_next | apply outcomeInv_fault | apply inv_onPacket | apply inv_peerReadHere | apply inv_answerPeer | (refine inv_of_fst ?_ (by assumption)) | intro _ | split | dsimp only

theorem inv_vecLoadAnswer {s : State} {l : Nat} {tag : Nat} {key : Nat} {bs : List Byte} {status : Nat}
    (ok_s : s.Inv) : (vecLoadAnswer s l tag key bs status).Inv := by
  unfold vecLoadAnswer
  repeat' with_reducible first | assumption | apply inv_vecAddrErrorAt | apply inv_modVec | apply inv_vecAddrError | apply memoryWf_setBytes | apply lanternOk_lanternAt | apply lanternOk_vec | apply veOk_regs | apply veOk_masks | apply regsOk_modify | apply regsOk_zipIdx_map | exact regsOk_replicate | exact masksOk_start _ | apply masksOk_first | apply (List.length_modify ..).trans | apply (length_setAt ..).trans | apply (length_bump ..).trans | apply (length_zipIdx_map ..).trans | apply (List.length_map ..).trans | exact List.length_replicate | rfl | intro _ | split | dsimp only | apply veOk_mk

theorem inv_vecStoreAnswer {s : State} {l : Nat} {row : Nat} {index : Nat} {tag : Nat} {status : Nat}
    (ok_s : s.Inv) : (vecStoreAnswer s l row index tag status).Inv := by
  unfold vecStoreAnswer
  repeat' with_reducible first | assumption | apply inv_vecAddrErrorAt | apply inv_modVec | apply inv_vecAddrError | apply lanternOk_lanternAt | apply lanternOk_vec | apply veOk_regs | apply veOk_masks | apply regsOk_modify | apply regsOk_zipIdx_map | exact regsOk_replicate | exact masksOk_start _ | apply masksOk_first | apply (List.length_modify ..).trans | apply (length_setAt ..).trans | apply (length_bump ..).trans | apply (length_zipIdx_map ..).trans | apply (List.length_map ..).trans | exact List.length_replicate | rfl | intro _ | split | dsimp only | apply veOk_mk

theorem inv_collFault {s : State} {l : Nat} {c : CollInst}
    (ok_s : s.Inv) : (collFault s l c).Inv := by
  unfold collFault
  repeat' with_reducible first | assumption | apply inv_modLantern | apply inv_modMooring | apply lanternOk_events | apply lanternOk_dma | apply lanternOk_vec | apply (List.length_modify ..).trans | apply (length_setAt ..).trans | apply (length_bump ..).trans | apply (length_zipIdx_map ..).trans | apply (List.length_map ..).trans | exact List.length_replicate | rfl | intro _ | split | dsimp only | apply lanternOk_mk

theorem inv_collAnswer {s : State} {l : Nat} {tag : Nat} {key : Nat} {bs : List Byte} {status : Nat}
    (ok_s : s.Inv) : (collAnswer s l tag key bs status).Inv := by
  unfold collAnswer
  repeat' with_reducible first | assumption | apply inv_modLantern | apply inv_collFault | (refine inv_of_fst ?_ (by assumption)) | (refine inv_of_snd ?_ (by assumption)) | apply inv_foldl | apply inv_foldl_fst | apply inv_foldl_snd | apply inv_foldr | apply lanternOk_lanternAt | apply lanternOk_events | apply lanternOk_dma | apply lanternOk_vec | apply (List.length_modify ..).trans | apply (length_setAt ..).trans | apply (length_bump ..).trans | apply (length_zipIdx_map ..).trans | apply (List.length_map ..).trans | exact List.length_replicate | rfl | intro _ | split | dsimp only | apply lanternOk_mk

theorem inv_deliverAnswer {s : State} {r : PeerReq} {data : List Byte} {status : Nat}
    (ok_s : s.Inv) : (deliverAnswer s r data status).Inv := by
  unfold deliverAnswer
  repeat' with_reducible first | assumption | apply inv_collAnswer | apply inv_keeperAnswer | apply inv_modRouter | apply inv_dmaAnswer | apply inv_vecLoadAnswer | apply inv_vecStoreAnswer | apply inv_shoreFault | intro _ | split | dsimp only | rfl | exact List.length_map _ | exact List.length_modify .. | exact (List.length_map _).trans List.length_zipIdx

theorem inv_execPeerDone {p : Packet} {s : State}
    (ok_s : s.Inv) : OutcomeInv (execPeerDone p s) := by
  unfold execPeerDone
  repeat' with_reducible first | assumption | apply outcomeInv_next | apply outcomeInv_fault | apply inv_onPacket | apply inv_deliverAnswer | intro _ | split | dsimp only

theorem inv_resendFrom {s : State} {t : SrcStream} {p : Packet → Bool}
    (ok_s : s.Inv) : (resendFrom s t p).Inv := by
  unfold resendFrom
  repeat' with_reducible first | assumption | apply inv_inject | apply inv_bumpEnd | intro _ | split | apply inv_foldl | apply inv_foldl_fst | apply inv_foldl_snd | dsimp only

theorem inv_execAck {p : Packet} {s : State}
    (ok_s : s.Inv) : OutcomeInv (execAck p s) := by
  unfold execAck
  repeat' with_reducible first | assumption | apply inv_releaseAll | apply outcomeInv_next | apply outcomeInv_fault | apply inv_takeArrived | apply inv_bumpEnd | apply inv_modStream | apply inv_releaseHeld | intro _ | split | dsimp only

theorem inv_restartStream {s : State} {t : SrcStream}
    (ok_s : s.Inv) : (restartStream s t).Inv := by
  unfold restartStream
  repeat' with_reducible first | assumption | apply inv_modStream | apply inv_inject | apply inv_bumpEnd | intro _ | split | apply inv_foldl | apply inv_foldl_fst | apply inv_foldl_snd | dsimp only

theorem inv_execNak {p : Packet} {s : State}
    (ok_s : s.Inv) : OutcomeInv (execNak p s) := by
  unfold execNak
  repeat' with_reducible first | assumption | apply outcomeInv_next | apply outcomeInv_fault | apply inv_takeArrived | apply inv_bumpEnd | apply inv_restartStream | apply inv_resendFrom | intro _ | split | dsimp only

theorem inv_execAckTimer {src : Nat} {cls : Nat} {s : State}
    (ok_s : s.Inv) : OutcomeInv (execAckTimer src cls s) := by
  unfold execAckTimer
  repeat' with_reducible first | assumption | apply outcomeInv_next | apply outcomeInv_fault | apply inv_sendAck | intro _ | split | dsimp only

theorem inv_probeNode {s : State} {id : Nat} {node : Nat}
    (ok_s : s.Inv) : (probeNode s id node).Inv := by
  unfold probeNode
  repeat' with_reducible first | assumption | apply inv_tellNode | apply inv_modMooring | apply inv_bumpModule | intro _ | split | dsimp only

theorem inv_suspect {s : State} {m : Mooring} {node : Nat}
    (ok_s : s.Inv) : (suspect s m node).Inv := by
  unfold suspect
  repeat' with_reducible first | assumption | apply inv_probeNode | apply inv_tellNode | intro _ | split | dsimp only

theorem inv_suspectAll {s : State} {node : Nat}
    (ok_s : s.Inv) : (suspectAll s node).Inv := by
  unfold suspectAll
  repeat' with_reducible first | assumption | apply inv_suspect | intro _ | split | apply inv_foldl | apply inv_foldl_fst | apply inv_foldl_snd | dsimp only

theorem inv_faultColls {s : State} {t : SrcStream}
    (ok_s : s.Inv) : (faultColls s t).Inv := by
  unfold faultColls
  repeat' with_reducible first | assumption | apply inv_collFault | apply lanternOk_lanternAt | intro _ | split | apply inv_foldl | apply inv_foldl_fst | apply inv_foldl_snd | dsimp only

theorem inv_faultPermutes {s : State} {t : SrcStream}
    (ok_s : s.Inv) : (faultPermutes s t).Inv := by
  unfold faultPermutes
  repeat' with_reducible first | assumption | rfl | exact id | apply lanternsOk_map | apply lanternsOk_zipIdx_map | apply funcsOk_map | apply funcsOk_zipIdx_map | intro _ | split | dsimp only | apply inv_struct | rfl | exact List.length_map _ | exact List.length_modify .. | exact (List.length_map _).trans List.length_zipIdx

theorem inv_failStream {s : State} {t : SrcStream}
    (ok_s : s.Inv) : (failStream s t).Inv := by
  unfold failStream
  repeat' with_reducible first | assumption | apply inv_releaseAll | apply inv_modRouter | apply inv_bumpEnd | apply inv_deliverAnswer | apply inv_faultPermutes | apply inv_faultColls | apply inv_suspectAll | apply inv_raiseEventP | intro _ | split | apply inv_foldl | apply inv_foldl_fst | apply inv_foldl_snd | dsimp only | rfl | exact List.length_map _ | exact List.length_modify .. | exact (List.length_map _).trans List.length_zipIdx

theorem inv_execStreamTimeout {dest : Nat} {cls : Nat} {s : State}
    (ok_s : s.Inv) : OutcomeInv (execStreamTimeout dest cls s) := by
  unfold execStreamTimeout
  repeat' with_reducible first | assumption | apply outcomeInv_next | apply outcomeInv_fault | apply inv_bumpEnd | apply inv_failStream | apply inv_resendFrom | apply inv_modStream | intro _ | split | dsimp only

end Sys2Proof.Machine
end

