-- ==== Sys2Proof/Laws/InvLens.lean ====
section
/-! SUPPORT. Laws/InvLens.lean: the operations of Machine/Lens.lean keep the invariant State.Inv. -/

namespace Sys2Proof.Machine

theorem inv_maskBytes {s : State} {l : Nat} {off : Nat} {x1 : Nat}
    (ok_s : s.Inv) : (maskBytes s l off x1).2.Inv := by
  induction x1 generalizing s with
  | zero =>
    unfold maskBytes
    repeat' with_reducible first | assumption | apply inv_drawFree | apply inv_notePoison | (refine inv_of_snd ?_ (by assumption)) | intro _ | split | dsimp only
  | succ n ih =>
    unfold maskBytes
    repeat' with_reducible first | assumption | apply ih | apply inv_drawFree | apply inv_notePoison | (refine inv_of_snd ?_ (by assumption)) | intro _ | split | dsimp only

theorem inv_maskedVectors {s : State} {l : Nat} {d : LensDesc}
    (ok_s : s.Inv) : (maskedVectors s l d).2.Inv := by
  unfold maskedVectors
  repeat' with_reducible first | assumption | apply inv_maskBytes | (refine inv_of_snd ?_ (by assumption)) | intro _ | split | dsimp only

theorem ok_modJob {x : Lantern} {o : Nat} {f : LensJob → LensJob}
    (ok_x : x.Ok) : (modJob x o f).Ok := by
  unfold modJob
  repeat' with_reducible first | assumption | apply lanternOk_events | apply lanternOk_dma | apply lanternOk_vec | apply (List.length_modify ..).trans | apply (length_setAt ..).trans | apply (length_bump ..).trans | apply (length_zipIdx_map ..).trans | apply (List.length_map ..).trans | exact List.length_replicate | rfl | intro _ | split | dsimp only | apply lanternOk_mk

theorem inv_execTileLoadStart {l : Nat} {s : State}
    (ok_s : s.Inv) : OutcomeInv (execTileLoadStart l s) := by
  unfold execTileLoadStart
  repeat' with_reducible first | assumption | apply outcomeInv_next | apply outcomeInv_fault | apply inv_notePoison | apply inv_modLantern | apply ok_modJob | apply lanternOk_lanternAt | apply lanternOk_events | apply lanternOk_dma | apply lanternOk_vec | apply (List.length_modify ..).trans | apply (length_setAt ..).trans | apply (length_bump ..).trans | apply (length_zipIdx_map ..).trans | apply (List.length_map ..).trans | exact List.length_replicate | rfl | intro _ | split | dsimp only | apply lanternOk_mk

theorem ok_writeSum {x : Lantern} {d : LensDesc} {e : Nat} {c : Nat} {v : Option Rec} {first : Bool}
    (ok_x : x.Ok) : (writeSum x d e c v first).Ok := by
  unfold writeSum
  repeat' with_reducible first | assumption | apply ok_absorb | apply ok_emptyEntry | intro _ | split | dsimp only

theorem ok_countSums {x : Lantern} {skipped : List Bool}
    (ok_x : x.Ok) : (countSums x skipped).Ok := by
  unfold countSums
  repeat' with_reducible first | assumption | apply lanternOk_events | apply lanternOk_dma | apply lanternOk_vec | apply (List.length_modify ..).trans | apply (length_setAt ..).trans | apply (length_bump ..).trans | apply (length_zipIdx_map ..).trans | apply (List.length_map ..).trans | exact List.length_replicate | rfl | intro _ | split | dsimp only | apply lanternOk_mk

theorem inv_notePoisonStep {s : State} {l : Nat} {d : LensDesc} {i : Nat} {p : Nat}
    (ok_s : s.Inv) : (notePoisonStep s l d i p).Inv := by
  unfold notePoisonStep
  repeat' with_reducible first | assumption | apply inv_notePoison | intro _ | split | apply inv_foldl | apply inv_foldl_fst | apply inv_foldl_snd | dsimp only

theorem inv_notePoisonCross {s : State} {l : Nat} {d : LensDesc} {i : Nat}
    (ok_s : s.Inv) : (notePoisonCross s l d i).Inv := by
  unfold notePoisonCross
  repeat' with_reducible first | assumption | apply inv_notePoison | intro _ | split | apply inv_foldl | apply inv_foldl_fst | apply inv_foldl_snd | dsimp only

theorem inv_streamStep {s : State} {l : Nat} {d : LensDesc} {t : Tile} {masked : List Bool} {i : Nat} {p : Nat} {hi : Bool}
    (ok_s : s.Inv) : (streamStep s l d t masked i p hi).Inv := by
  unfold streamStep
  repeat' with_reducible first | assumption | apply inv_modLantern | apply ok_writeSum | apply inv_notePoisonStep | apply ok_countSums | apply veOk_foldl | apply lanternOk_foldl | intro _ | split | apply inv_foldl | apply inv_foldl_fst | apply inv_foldl_snd | dsimp only

theorem inv_crossStep {s : State} {l : Nat} {d : LensDesc} {t : Tile} {masked : List Bool} {i : Nat} {hi : Bool}
    (ok_s : s.Inv) : (crossStep s l d t masked i hi).Inv := by
  unfold crossStep
  repeat' with_reducible first | assumption | apply inv_modLantern | apply ok_writeSum | apply inv_notePoisonCross | apply ok_countSums | apply veOk_foldl | apply lanternOk_foldl | intro _ | split | apply inv_foldl | apply inv_foldl_fst | apply inv_foldl_snd | dsimp only

theorem ok_emptyTail {x : Lantern} {d : LensDesc} {lo : Nat} {hi : Nat}
    (ok_x : x.Ok) : (emptyTail x d lo hi).Ok := by
  unfold emptyTail
  repeat' with_reducible first | assumption | apply ok_writeSum | apply veOk_foldl | apply lanternOk_foldl | intro _ | split | apply inv_foldl | apply inv_foldl_fst | apply inv_foldl_snd | dsimp only

theorem inv_residueMismatch {s : State} {l : Nat} {d : LensDesc} {c : Nat}
    (ok_s : s.Inv) : (residueMismatch s l d c).Inv := by
  unfold residueMismatch
  repeat' with_reducible first | assumption | apply inv_lanternEvent | apply inv_modLantern | apply inv_setFault | apply inv_raiseEventMore | apply lanternOk_events | apply lanternOk_dma | apply lanternOk_vec | apply (List.length_modify ..).trans | apply (length_setAt ..).trans | apply (length_bump ..).trans | apply (length_zipIdx_map ..).trans | apply (List.length_map ..).trans | exact List.length_replicate | rfl | intro _ | split | dsimp only | apply lanternOk_mk

theorem inv_streamPass {s : State} {l : Nat} {j : LensJob} {t : Tile} {errs : List Nat}
    (ok_s : s.Inv) : (streamPass s l j t errs).Inv := by
  unfold streamPass
  repeat' with_reducible first | assumption | apply inv_maskedVectors | apply inv_crossStep | apply inv_streamStep | apply inv_modLantern | apply ok_modJob | apply ok_emptyTail | apply inv_residueMismatch | (refine inv_of_snd ?_ (by assumption)) | apply lanternOk_lanternAt | apply lanternOk_events | apply lanternOk_dma | apply lanternOk_vec | apply (List.length_modify ..).trans | apply (length_setAt ..).trans | apply (length_bump ..).trans | apply (length_zipIdx_map ..).trans | apply (List.length_map ..).trans | exact List.length_replicate | rfl | apply veOk_foldl | apply lanternOk_foldl | intro _ | split | apply inv_foldl | apply inv_foldl_fst | apply inv_foldl_snd | dsimp only | apply lanternOk_mk

theorem inv_startDrain {s : State} {l : Nat}
    (ok_s : s.Inv) : (startDrain s l).Inv := by
  unfold startDrain
  repeat' with_reducible first | assumption | apply inv_foldr | apply inv_foldl_snd | apply inv_foldl_fst | apply inv_foldl | apply inv_modLantern | apply ok_modJob | apply lanternOk_lanternAt | intro _ | split | dsimp only

theorem inv_execDrainStart {l : Nat} {s : State}
    (ok_s : s.Inv) : OutcomeInv (execDrainStart l s) := by
  exact outcomeInv_next (inv_startDrain ok_s)

theorem ok_deliverRows {j : LensJob} {masked : List Bool} {x1 : Nat} {x2 : Lantern}
    (ok_x2 : x2.Ok) : (deliverRows j masked x1 x2).Ok := by
  induction x1 generalizing x2 with
  | zero =>
    unfold deliverRows
    repeat' with_reducible first | assumption | apply ok_modJob | apply lanternOk_events | apply lanternOk_dma | apply lanternOk_vec | apply (List.length_modify ..).trans | apply (length_setAt ..).trans | apply (length_bump ..).trans | apply (length_zipIdx_map ..).trans | apply (List.length_map ..).trans | exact List.length_replicate | rfl | intro _ | split | dsimp only | apply lanternOk_mk
  | succ n ih =>
    unfold deliverRows
    repeat' with_reducible first | assumption | apply ih | apply ok_modJob | apply lanternOk_events | apply lanternOk_dma | apply lanternOk_vec | apply (List.length_modify ..).trans | apply (length_setAt ..).trans | apply (length_bump ..).trans | apply (length_zipIdx_map ..).trans | apply (List.length_map ..).trans | exact List.length_replicate | rfl | intro _ | split | dsimp only | apply lanternOk_mk

theorem inv_drainOnce {s : State} {l : Nat}
    (ok_s : s.Inv) : (drainOnce s l).Inv := by
  unfold drainOnce
  repeat' with_reducible first | assumption | apply inv_foldr | apply inv_foldl_snd | apply inv_foldl_fst | apply inv_foldl | apply inv_maskedVectors | apply inv_modLantern | apply ok_deliverRows | apply ok_modJob | (refine inv_of_snd ?_ (by assumption)) | apply lanternOk_lanternAt | intro _ | split | dsimp only

theorem inv_execDrain {l : Nat} {s : State}
    (ok_s : s.Inv) : OutcomeInv (execDrain l s) := by
  exact outcomeInv_next (inv_drainOnce ok_s)

theorem inv_letDrains {s : State} {l : Nat} {j : LensJob}
    (ok_s : s.Inv) : (letDrains s l j).Inv := by
  unfold letDrains
  repeat' with_reducible first | assumption | apply inv_foldl | apply inv_drainOnce | (refine inv_of_fst ?_ (by assumption)) | (refine inv_of_snd ?_ (by assumption)) | apply lanternOk_lanternAt | apply lanternOk_vec | apply vregOk_regAt | apply veOk_regs | apply veOk_masks | apply regsOk_modify | apply regsOk_zipIdx_map | exact regsOk_replicate | exact masksOk_start _ | apply masksOk_first | apply (List.length_modify ..).trans | apply (length_setAt ..).trans | apply (length_bump ..).trans | apply (length_zipIdx_map ..).trans | apply (List.length_map ..).trans | exact List.length_replicate | rfl | apply veOk_foldl | apply lanternOk_foldl | intro _ | split | apply inv_foldl | apply inv_foldl_fst | apply inv_foldl_snd | apply inv_foldr | dsimp only | apply veOk_mk

theorem inv_execPass {l : Nat} {residueErrors : List Nat} {s : State}
    (ok_s : s.Inv) : OutcomeInv (execPass l residueErrors s) := by
  unfold execPass
  repeat' with_reducible first | assumption | apply inv_letDrains | apply outcomeInv_next | apply outcomeInv_fault | apply inv_modLantern | apply inv_streamPass | apply inv_startLanternReset | apply lanternOk_lanternAt | apply lanternOk_events | apply lanternOk_dma | apply lanternOk_vec | apply (List.length_modify ..).trans | apply (length_setAt ..).trans | apply (length_bump ..).trans | apply (length_zipIdx_map ..).trans | apply (List.length_map ..).trans | exact List.length_replicate | rfl | intro _ | split | dsimp only | apply lanternOk_mk

theorem inv_startFill {s : State} {l : Nat}
    (ok_s : s.Inv) : (startFill s l).Inv := by
  unfold startFill
  repeat' with_reducible first | assumption | apply inv_modLantern | rfl | exact id | apply lanternOk_events | apply lanternOk_dma | apply lanternOk_vec | apply funcOk_mbox | apply funcOk_queues | apply funcOk_slots | apply lanternsOk_map | apply lanternsOk_zipIdx_map | apply funcsOk_map | apply funcsOk_zipIdx_map | apply (List.length_modify ..).trans | apply (length_setAt ..).trans | apply (length_bump ..).trans | apply (length_zipIdx_map ..).trans | apply (List.length_map ..).trans | exact List.length_replicate | intro _ | split | dsimp only | apply lanternOk_mk | apply funcOk_mk | apply inv_struct | exact List.length_map _ | exact List.length_modify .. | exact (List.length_map _).trans List.length_zipIdx

theorem inv_releaseTile {s : State} {l : Nat}
    (ok_s : s.Inv) : (releaseTile s l).Inv := by
  unfold releaseTile
  repeat' with_reducible first | assumption | apply inv_startFill | apply inv_foldr | apply inv_foldl_snd | apply inv_foldl_fst | apply inv_foldl | apply ok_modJob | apply inv_modLantern | apply lanternOk_lanternAt | apply lanternOk_events | apply lanternOk_dma | apply lanternOk_vec | apply (List.length_modify ..).trans | apply (length_setAt ..).trans | apply (length_bump ..).trans | apply (length_zipIdx_map ..).trans | apply (List.length_map ..).trans | exact List.length_replicate | rfl | intro _ | split | dsimp only | apply lanternOk_mk

theorem inv_execTileRelease {l : Nat} {s : State}
    (ok_s : s.Inv) : OutcomeInv (execTileRelease l s) := by
  exact outcomeInv_next (inv_releaseTile ok_s)

theorem inv_execLensClockChange {l : Nat} {s : State}
    (ok_s : s.Inv) : OutcomeInv (execLensClockChange l s) := by
  unfold execLensClockChange
  repeat' with_reducible first | assumption | apply outcomeInv_next | apply outcomeInv_fault | apply inv_modLantern | apply lanternOk_lanternAt | apply lanternOk_events | apply lanternOk_dma | apply lanternOk_vec | apply (List.length_modify ..).trans | apply (length_setAt ..).trans | apply (length_bump ..).trans | apply (length_zipIdx_map ..).trans | apply (List.length_map ..).trans | exact List.length_replicate | rfl | intro _ | split | dsimp only | apply lanternOk_mk

theorem inv_retireLens {s : State} {l : Nat}
    (ok_s : s.Inv) : (retireLens s l).Inv := by
  unfold retireLens
  repeat' with_reducible first | assumption | apply inv_startFill | apply inv_foldr | apply inv_foldl_snd | apply inv_foldl_fst | apply inv_foldl | apply inv_modLantern | apply ok_modJob | apply inv_bumpEvent | apply inv_bumpBeacon | apply lanternOk_lanternAt | apply lanternOk_events | apply lanternOk_dma | apply lanternOk_vec | apply (List.length_modify ..).trans | apply (length_setAt ..).trans | apply (length_bump ..).trans | apply (length_zipIdx_map ..).trans | apply (List.length_map ..).trans | exact List.length_replicate | rfl | intro _ | split | dsimp only | apply lanternOk_mk

theorem inv_execLensDescriptorRetire {l : Nat} {s : State}
    (ok_s : s.Inv) : OutcomeInv (execLensDescriptorRetire l s) := by
  exact outcomeInv_next (inv_retireLens ok_s)

theorem inv_issueLens {s : State} {l : Nat} {d : LensDesc} {order : Nat} {phase : Nat}
    (ok_s : s.Inv) : (issueLens s l d order phase).Inv := by
  unfold issueLens
  repeat' with_reducible first | assumption | apply inv_startTest | apply inv_lanternEvent | apply inv_modLantern | apply inv_raiseEventMore | apply inv_setFault | apply lanternOk_lanternAt | apply lanternOk_events | apply lanternOk_dma | apply lanternOk_vec | apply (List.length_modify ..).trans | apply (length_setAt ..).trans | apply (length_bump ..).trans | apply (length_zipIdx_map ..).trans | apply (List.length_map ..).trans | exact List.length_replicate | rfl | intro _ | split | dsimp only | apply lanternOk_mk

end Sys2Proof.Machine
end

