-- ==== Sys2Proof/Laws/InvUpdate.lean ====
section
/-! SUPPORT. Laws/InvUpdate.lean: the operations of Machine/Update.lean keep the invariant State.Inv. -/

namespace Sys2Proof.Machine

theorem inv_noteTouch {s : State} {l : Nat} {m : Mooring} {p : Parsed} {u : UpdDesc} {x : ShardAt} {rows : List Nat}
    (ok_s : s.Inv) : (noteTouch s l m p u x rows).Inv := by
  unfold noteTouch
  repeat' with_reducible first | assumption | apply inv_foldl | apply inv_notePoison | (refine inv_of_fst ?_ (by assumption)) | (refine inv_of_snd ?_ (by assumption)) | apply lanternOk_lanternAt | apply lanternOk_vec | apply vregOk_regAt | apply veOk_regs | apply veOk_masks | apply regsOk_modify | apply regsOk_zipIdx_map | exact regsOk_replicate | exact masksOk_start _ | apply masksOk_first | apply (List.length_modify ..).trans | apply (length_setAt ..).trans | apply (length_bump ..).trans | apply (length_zipIdx_map ..).trans | apply (List.length_map ..).trans | exact List.length_replicate | rfl | apply veOk_foldl | apply lanternOk_foldl | intro _ | split | apply inv_foldl | apply inv_foldl_fst | apply inv_foldl_snd | apply inv_foldr | dsimp only | apply veOk_mk

theorem ok_constReg {c : Int × Int}
     : (constReg c).Ok := by
  exact vregOk_mk List.length_replicate rfl

theorem ok_loadConstants {v : VEngine} {cs : List (Int × Int)}
    (ok_v : v.Ok) : (loadConstants v cs).Ok := by
  unfold loadConstants
  repeat' with_reducible first | assumption | apply ok_constReg | apply veOk_regs | apply veOk_masks | apply regsOk_modify | apply regsOk_zipIdx_map | exact regsOk_replicate | exact masksOk_start _ | apply masksOk_first | apply (List.length_modify ..).trans | apply (length_setAt ..).trans | apply (length_bump ..).trans | apply (length_zipIdx_map ..).trans | apply (List.length_map ..).trans | exact List.length_replicate | rfl | intro _ | split | dsimp only | apply veOk_mk

theorem inv_loadRow {s : State} {l : Nat} {vd : Nat} {kind : LoadKind} {w : BitVec 128} {parts : List LoadPart}
    (ok_s : s.Inv) : (loadRow s l vd kind w parts).Inv := by
  unfold loadRow
  repeat' with_reducible first | assumption | apply inv_fetchParts | apply inv_bumpBeacon | apply inv_modVec | apply ok_deliverLoad | apply inv_vecAddrError | (refine inv_of_fst ?_ (by assumption)) | apply lanternOk_lanternAt | apply lanternOk_vec | intro _ | split | dsimp only

theorem inv_loadBlocks {s : State} {l : Nat} {vd : Nat} {x : ShardAt} {w : BitVec 128} {bs : List (Nat × Nat)}
    (ok_s : s.Inv) : (loadBlocks s l vd x w bs).Inv := by
  unfold loadBlocks
  repeat' with_reducible first | assumption | apply inv_loadRow | intro _ | split | dsimp only

theorem inv_storeBlocks {s : State} {l : Nat} {va : Nat} {x : ShardAt} {w : BitVec 128} {bs : List (Nat × Nat)}
    (ok_s : s.Inv) : (storeBlocks s l va x w bs).Inv := by
  unfold storeBlocks
  repeat' with_reducible first | assumption | apply inv_performPiece | apply inv_bumpBeacon | apply inv_modVec | apply ok_raiseFlag | apply lanternOk_lanternAt | apply vregOk_regAt | apply lanternOk_vec | apply veOk_foldl | apply lanternOk_foldl | intro _ | split | apply inv_foldl | apply inv_foldl_fst | apply inv_foldl_snd | dsimp only

theorem inv_storeRecs {s : State} {l : Nat} {rs : List (Nat × Rec)}
    (ok_s : s.Inv) : (storeRecs s l rs).Inv := by
  unfold storeRecs
  repeat' with_reducible first | assumption | apply inv_performPiece | intro _ | split | apply inv_foldl | apply inv_foldl_fst | apply inv_foldl_snd | dsimp only

theorem inv_jamRecs {s : State} {l : Nat} {vd : Nat} {w : BitVec 128} {f : Nat → Rec}
    (ok_s : s.Inv) : (jamRecs s l vd w f).Inv := by
  unfold jamRecs
  repeat' with_reducible first | assumption | apply inv_runIns | apply inv_modVec | apply ok_putPair | intro _ | split | dsimp only

theorem inv_copyLine {l : Nat} {src : Nat} {dst : Nat} {n : Nat} {s : State} {d : Nat}
    (ok_s : s.Inv) : (copyLine l src dst n s d).Inv := by
  unfold copyLine
  repeat' with_reducible first | assumption | apply inv_addPoison | apply inv_performPiece | (refine inv_of_fst ?_ (by assumption)) | (refine inv_of_snd ?_ (by assumption)) | apply lanternOk_lanternAt | apply lanternOk_vec | apply vregOk_regAt | apply veOk_regs | apply veOk_masks | apply regsOk_modify | apply regsOk_zipIdx_map | exact regsOk_replicate | exact masksOk_start _ | apply masksOk_first | apply (List.length_modify ..).trans | apply (length_setAt ..).trans | apply (length_bump ..).trans | apply (length_zipIdx_map ..).trans | apply (List.length_map ..).trans | exact List.length_replicate | rfl | apply veOk_foldl | apply lanternOk_foldl | intro _ | split | apply inv_foldl | apply inv_foldl_fst | apply inv_foldl_snd | apply inv_foldr | dsimp only | apply veOk_mk

theorem inv_copyLines {s : State} {l : Nat} {src : Nat} {dst : Nat} {n : Nat}
    (ok_s : s.Inv) : (copyLines s l src dst n).Inv := by
  unfold copyLines
  exact inv_foldl (fun _ _ h => inv_copyLine h) ok_s

theorem inv_noteUndo {s : State} {id : Nat} {u : Undo}
    (ok_s : s.Inv) : (noteUndo s id u).Inv := by
  unfold noteUndo
  repeat' with_reducible first | assumption | apply inv_modMooring | (refine inv_of_fst ?_ (by assumption)) | (refine inv_of_snd ?_ (by assumption)) | apply lanternOk_lanternAt | apply lanternOk_vec | apply vregOk_regAt | apply veOk_regs | apply veOk_masks | apply regsOk_modify | apply regsOk_zipIdx_map | exact regsOk_replicate | exact masksOk_start _ | apply masksOk_first | apply (List.length_modify ..).trans | apply (length_setAt ..).trans | apply (length_bump ..).trans | apply (length_zipIdx_map ..).trans | apply (List.length_map ..).trans | exact List.length_replicate | rfl | apply veOk_foldl | apply lanternOk_foldl | intro _ | split | apply inv_foldl | apply inv_foldl_fst | apply inv_foldl_snd | apply inv_foldr | dsimp only | apply veOk_mk

theorem inv_saveBlock {s : State} {l : Nat} {id : Nat} {tensor : Nat} {x : ShardAt} {b : Nat} {own : Bool}
    (ok_s : s.Inv) : (saveBlock s l id tensor x b own).Inv := by
  unfold saveBlock
  repeat' with_reducible first | assumption | apply inv_noteUndo | apply inv_performPiece | apply inv_copyLines | apply inv_writeMem | apply inv_modMooring | intro _ | split | dsimp only

theorem inv_saveBlocks {s : State} {l : Nat} {id : Nat} {tensor : Nat} {x : ShardAt} {bs : List Nat} {own : Bool}
    (ok_s : s.Inv) : (saveBlocks s l id tensor x bs own).Inv := by
  unfold saveBlocks
  repeat' with_reducible first | assumption | apply inv_saveBlock | intro _ | split | apply inv_foldl | apply inv_foldl_fst | apply inv_foldl_snd | dsimp only

theorem inv_engineRow {s : State} {l : Nat} {c : Chain} {row : Nat} {w : BitVec 128} {idx : Nat} {stride : Nat}
    (ok_s : s.Inv) : (engineRow s l c row w idx stride).Inv := by
  unfold engineRow
  repeat' with_reducible first | assumption | apply inv_modVec | apply ok_clearRegs | apply veOk_regs | apply veOk_masks | apply regsOk_modify | apply regsOk_zipIdx_map | exact regsOk_replicate | exact masksOk_start _ | apply masksOk_first | apply (List.length_modify ..).trans | apply (length_setAt ..).trans | apply (length_bump ..).trans | apply (length_zipIdx_map ..).trans | apply (List.length_map ..).trans | exact List.length_replicate | rfl | intro _ | split | dsimp only | apply veOk_mk

theorem inv_gradRow {s : State} {l : Nat} {g : ShardAt} {a : Nat} {geo : RowGeom} {w : BitVec 128}
    (ok_s : s.Inv) : (gradRow s l g a geo w).Inv := by
  unfold gradRow
  repeat' with_reducible first | assumption | apply inv_loadRow | apply inv_runIns | intro _ | split | dsimp only

theorem inv_loadElem {s : State} {l : Nat} {vd : Nat} {x : ShardAt} {w : BitVec 128} {e : Nat}
    (ok_s : s.Inv) : (loadElem s l vd x w e).Inv := by
  unfold loadElem
  repeat' with_reducible first | assumption | apply inv_loadRow | apply inv_modVec | apply ok_commit | apply vregOk_regAt | intro _ | split | dsimp only

theorem inv_loadTotal {s : State} {l : Nat} {vd : Nat} {x : ShardAt} {w : BitVec 128} {e : Nat}
    (ok_s : s.Inv) : (loadTotal s l vd x w e).Inv := by
  unfold loadTotal
  repeat' with_reducible first | assumption | apply inv_loadRow | apply inv_jamRecs | apply lanternOk_lanternAt | apply lanternOk_vec | intro _ | split | dsimp only

theorem inv_recAt {s : State} {l : Nat} {a : Nat}
    (ok_s : s.Inv) : (recAt s l a).1.Inv := by
  unfold recAt
  repeat' with_reducible first | assumption | apply inv_notePoison | (refine inv_of_fst ?_ (by assumption)) | (refine inv_of_snd ?_ (by assumption)) | apply lanternOk_lanternAt | apply lanternOk_vec | apply vregOk_regAt | apply veOk_regs | apply veOk_masks | apply regsOk_modify | apply regsOk_zipIdx_map | exact regsOk_replicate | exact masksOk_start _ | apply masksOk_first | apply (List.length_modify ..).trans | apply (length_setAt ..).trans | apply (length_bump ..).trans | apply (length_zipIdx_map ..).trans | apply (List.length_map ..).trans | exact List.length_replicate | rfl | apply veOk_foldl | apply lanternOk_foldl | intro _ | split | apply inv_foldl | apply inv_foldl_fst | apply inv_foldl_snd | apply inv_foldr | dsimp only | apply veOk_mk

theorem inv_statsRow {l : Nat} {c : Chain} {x : ShardAt} {g : ShardAt} {acc : State × FactorSums} {r : Nat × BitVec 128}
    (ok_acc : acc.1.Inv) : (statsRow l c x g acc r).1.Inv := by
  unfold statsRow
  repeat' with_reducible first | assumption | apply inv_gradRow | apply inv_engineRow | apply inv_runIns | apply lanternOk_lanternAt | apply lanternOk_vec | apply veOk_foldl | apply lanternOk_foldl | intro _ | split | apply inv_foldl | apply inv_foldl_fst | apply inv_foldl_snd | dsimp only

theorem inv_statisticRow {s : State} {l : Nat} {c : Chain} {u : UpdDesc} {id : Nat} {tensor : Nat} {out : Nat} {y : ShardAt} {k : Nat} {row : Nat} {w : BitVec 128} {sums : Nat → Rec}
    (ok_s : s.Inv) : (statisticRow s l c u id tensor out y k row w sums).Inv := by
  unfold statisticRow
  repeat' with_reducible first | assumption | apply inv_jamRecs | apply inv_engineRow | apply inv_loadBlocks | apply inv_runIns | apply inv_saveBlocks | apply inv_storeBlocks | apply lanternOk_lanternAt | apply lanternOk_vec | apply veOk_foldl | apply lanternOk_foldl | intro _ | split | apply inv_foldl | apply inv_foldl_fst | apply inv_foldl_snd | dsimp only

theorem inv_noteShard {s : State} {l : Nat} {x : ShardAt} {b : Nat} {n : Nat}
    (ok_s : s.Inv) : (noteShard s l x b n).Inv := by
  unfold noteShard
  repeat' with_reducible first | assumption | apply inv_notePoison | intro _ | split | dsimp only

theorem inv_loadElems {s : State} {l : Nat} {vd : Nat} {x : ShardAt} {w : BitVec 128} {e : Nat → Nat}
    (ok_s : s.Inv) : (loadElems s l vd x w e).Inv := by
  unfold loadElems
  repeat' with_reducible first | assumption | apply inv_foldl | apply inv_noteShard | apply inv_runIns | apply inv_jamRecs | (refine inv_of_fst ?_ (by assumption)) | (refine inv_of_snd ?_ (by assumption)) | apply lanternOk_lanternAt | apply lanternOk_vec | apply vregOk_regAt | apply veOk_regs | apply veOk_masks | apply regsOk_modify | apply regsOk_zipIdx_map | exact regsOk_replicate | exact masksOk_start _ | apply masksOk_first | apply (List.length_modify ..).trans | apply (length_setAt ..).trans | apply (length_bump ..).trans | apply (length_zipIdx_map ..).trans | apply (List.length_map ..).trans | exact List.length_replicate | rfl | apply veOk_foldl | apply lanternOk_foldl | intro _ | split | apply inv_foldl | apply inv_foldl_fst | apply inv_foldl_snd | apply inv_foldr | dsimp only | apply veOk_mk

theorem inv_saveRecords {s : State} {l : Nat} {id : Nat} {tensor : Nat} {t : ShardAt}
    (ok_s : s.Inv) : (saveRecords s l id tensor t).Inv := by
  unfold saveRecords
  repeat' with_reducible first | assumption | apply inv_foldl | apply inv_noteUndo | apply inv_performPiece | apply inv_copyLines | (refine inv_of_fst ?_ (by assumption)) | (refine inv_of_snd ?_ (by assumption)) | apply lanternOk_lanternAt | apply lanternOk_vec | apply vregOk_regAt | apply veOk_regs | apply veOk_masks | apply regsOk_modify | apply regsOk_zipIdx_map | exact regsOk_replicate | exact masksOk_start _ | apply masksOk_first | apply (List.length_modify ..).trans | apply (length_setAt ..).trans | apply (length_bump ..).trans | apply (length_zipIdx_map ..).trans | apply (List.length_map ..).trans | exact List.length_replicate | rfl | apply veOk_foldl | apply lanternOk_foldl | intro _ | split | apply inv_foldl | apply inv_foldl_fst | apply inv_foldl_snd | apply inv_foldr | dsimp only | apply veOk_mk

theorem inv_statsPart {s : State} {l : Nat} {c : Chain} {id : Nat} {u : UpdDesc} {x : ShardAt} {g : ShardAt} {r : ShardAt} {t : ShardAt} {rows : List (Nat × BitVec 128)}
    (ok_s : s.Inv) : (statsPart s l c id u x g r t rows).Inv := by
  unfold statsPart
  repeat' with_reducible first | assumption | apply inv_saveRecords | apply inv_statsRow | apply inv_statisticRow | apply inv_storeRecs | (refine inv_of_fst ?_ (by assumption)) | intro _ | split | apply inv_foldl | apply inv_foldl_fst | apply inv_foldl_snd | dsimp only

theorem inv_columnPart {s : State} {l : Nat} {c : Chain} {id : Nat} {u : UpdDesc} {x : ShardAt} {cs : ShardAt} {t : ShardAt}
    (ok_s : s.Inv) : (columnPart s l c id u x cs t).Inv := by
  unfold columnPart
  repeat' with_reducible first | assumption | apply inv_recAt | apply inv_statisticRow | intro _ | split | apply inv_foldl | apply inv_foldl_fst | apply inv_foldl_snd | dsimp only

theorem inv_raiseConds {s : State} {l : Nat} {c : Conds}
    (ok_s : s.Inv) : (raiseConds s l c).Inv := by
  unfold raiseConds
  repeat' with_reducible first | assumption | apply inv_modVec | apply ok_raiseFlag | (refine inv_of_fst ?_ (by assumption)) | (refine inv_of_snd ?_ (by assumption)) | apply lanternOk_lanternAt | apply lanternOk_vec | apply vregOk_regAt | apply veOk_regs | apply veOk_masks | apply regsOk_modify | apply regsOk_zipIdx_map | exact regsOk_replicate | exact masksOk_start _ | apply masksOk_first | apply (List.length_modify ..).trans | apply (length_setAt ..).trans | apply (length_bump ..).trans | apply (length_zipIdx_map ..).trans | apply (List.length_map ..).trans | exact List.length_replicate | rfl | apply veOk_foldl | apply lanternOk_foldl | intro _ | split | apply inv_foldl | apply inv_foldl_fst | apply inv_foldl_snd | apply inv_foldr | dsimp only | apply veOk_mk

theorem inv_raiseReq {s : State} {l : Nat} {f : Fmt} {gs : List (List Dyad)}
    (ok_s : s.Inv) : (raiseReq s l f gs).Inv := by
  unfold raiseReq
  repeat' with_reducible first | assumption | apply inv_raiseConds | apply inv_modVec | apply ok_raiseFlag | (refine inv_of_fst ?_ (by assumption)) | (refine inv_of_snd ?_ (by assumption)) | apply lanternOk_lanternAt | apply lanternOk_vec | apply vregOk_regAt | apply veOk_regs | apply veOk_masks | apply regsOk_modify | apply regsOk_zipIdx_map | exact regsOk_replicate | exact masksOk_start _ | apply masksOk_first | apply (List.length_modify ..).trans | apply (length_setAt ..).trans | apply (length_bump ..).trans | apply (length_zipIdx_map ..).trans | apply (List.length_map ..).trans | exact List.length_replicate | rfl | apply veOk_foldl | apply lanternOk_foldl | intro _ | split | apply inv_foldl | apply inv_foldl_fst | apply inv_foldl_snd | apply inv_foldr | dsimp only | apply veOk_mk

theorem inv_storeMat {s : State} {l : Nat} {id : Nat} {tensor : Nat} {x : ShardAt} {b : Nat} {gs : List (List Dyad)}
    (ok_s : s.Inv) : (storeMat s l id tensor x b gs).Inv := by
  unfold storeMat
  repeat' with_reducible first | assumption | apply inv_raiseReq | apply inv_performPiece | apply inv_saveBlock | intro _ | split | apply inv_foldl | apply inv_foldl_fst | apply inv_foldl_snd | dsimp only

theorem inv_factorRow {l : Nat} {c : Chain} {u : UpdDesc} {id : Nat} {tensor : Nat} {out : Nat} {x : ShardAt} {o : Nat} {rs : List (List Dyad)} {s : State} {i : Nat}
    (ok_s : s.Inv) : (factorRow l c u id tensor out x o rs s i).Inv := by
  unfold factorRow
  repeat' with_reducible first | assumption | apply inv_jamRecs | apply inv_engineRow | apply inv_saveBlocks | apply inv_loadBlocks | apply inv_runIns | apply inv_storeBlocks | intro _ | split | apply inv_foldl | apply inv_foldl_fst | apply inv_foldl_snd | dsimp only

theorem inv_setDiag {s : State} {id : Nat} {desc : Nat} {tile : Nat} {on : Bool}
    (ok_s : s.Inv) : (setDiag s id desc tile on).Inv := by
  unfold setDiag
  repeat' with_reducible first | assumption | apply inv_modMooring | intro _ | split | dsimp only

theorem inv_countRung {s : State} {id : Nat} {tensor : Nat} {rung : Nat}
    (ok_s : s.Inv) : (countRung s id tensor rung).Inv := by
  unfold countRung
  repeat' with_reducible first | assumption | apply inv_modMooring | intro _ | split | dsimp only

theorem inv_refreshFactor {s : State} {l : Nat} {id : Nat} {u : UpdDesc} {g : Group} {q : ShardAt} {o : Nat} {tile : Nat} {a : Mat} {side : Nat}
    (ok_s : s.Inv) : (refreshFactor s l id u g q o tile a side).1.Inv := by
  unfold refreshFactor
  repeat' with_reducible first | assumption | apply inv_raiseConds | apply inv_storeMat | apply inv_countRung | apply inv_raiseEventMore | intro _ | split | apply inv_foldl | apply inv_foldl_fst | apply inv_foldl_snd | dsimp only

theorem inv_refreshTile {s : State} {l : Nat} {id : Nat} {desc : Nat} {u : UpdDesc} {g : Group} {q : ShardAt} {o : Nat} {tile : Nat} {gl : Mat} {gr : Mat}
    (ok_s : s.Inv) : (refreshTile s l id desc u g q o tile gl gr).Inv := by
  unfold refreshTile
  repeat' with_reducible first | assumption | apply inv_setDiag | apply inv_refreshFactor | (refine inv_of_fst ?_ (by assumption)) | intro _ | split | dsimp only

theorem inv_tileFactors {s : State} {l : Nat} {c : Chain} {id : Nat} {desc : Nat} {u : UpdDesc} {gp : Group} {x : ShardAt} {g : ShardAt} {gl : ShardAt} {gr : ShardAt} {q : ShardAt} {rows : List (Nat × BitVec 128)} {tile : Nat}
    (ok_s : s.Inv) : (tileFactors s l c id desc u gp x g gl gr q rows tile).Inv := by
  unfold tileFactors
  repeat' with_reducible first | assumption | apply inv_foldl | apply inv_factorRow | apply inv_raiseReq | apply inv_refreshTile | (refine inv_of_fst ?_ (by assumption)) | (refine inv_of_snd ?_ (by assumption)) | apply lanternOk_lanternAt | apply lanternOk_vec | apply vregOk_regAt | apply veOk_regs | apply veOk_masks | apply regsOk_modify | apply regsOk_zipIdx_map | exact regsOk_replicate | exact masksOk_start _ | apply masksOk_first | apply (List.length_modify ..).trans | apply (length_setAt ..).trans | apply (length_bump ..).trans | apply (length_zipIdx_map ..).trans | apply (List.length_map ..).trans | exact List.length_replicate | rfl | apply veOk_foldl | apply lanternOk_foldl | intro _ | split | apply inv_foldl | apply inv_foldl_fst | apply inv_foldl_snd | apply inv_foldr | dsimp only | apply veOk_mk

theorem inv_noteTile {s : State} {l : Nat} {x : ShardAt} {tile : Nat}
    (ok_s : s.Inv) : (noteTile s l x tile).Inv := by
  unfold noteTile
  repeat' with_reducible first | assumption | apply inv_foldl | apply inv_noteShard | (refine inv_of_fst ?_ (by assumption)) | (refine inv_of_snd ?_ (by assumption)) | apply lanternOk_lanternAt | apply lanternOk_vec | apply vregOk_regAt | apply veOk_regs | apply veOk_masks | apply regsOk_modify | apply regsOk_zipIdx_map | exact regsOk_replicate | exact masksOk_start _ | apply masksOk_first | apply (List.length_modify ..).trans | apply (length_setAt ..).trans | apply (length_bump ..).trans | apply (length_zipIdx_map ..).trans | apply (List.length_map ..).trans | exact List.length_replicate | rfl | apply veOk_foldl | apply lanternOk_foldl | intro _ | split | apply inv_foldl | apply inv_foldl_fst | apply inv_foldl_snd | apply inv_foldr | dsimp only | apply veOk_mk

theorem inv_writeDirection {s : State} {l : Nat} {x : ShardAt} {mm : ShardAt} {q : ShardAt} {dir : ShardAt} {rows : List (Nat × BitVec 128)} {tile : Nat}
    (ok_s : s.Inv) : (writeDirection s l x mm q dir rows tile).Inv := by
  unfold writeDirection
  repeat' with_reducible first | assumption | apply inv_raiseConds | apply inv_noteTile | apply inv_foldl | apply inv_noteShard | apply inv_performPiece | apply inv_raiseReq | (refine inv_of_fst ?_ (by assumption)) | (refine inv_of_snd ?_ (by assumption)) | apply lanternOk_lanternAt | apply lanternOk_vec | apply vregOk_regAt | apply veOk_regs | apply veOk_masks | apply regsOk_modify | apply regsOk_zipIdx_map | exact regsOk_replicate | exact masksOk_start _ | apply masksOk_first | apply (List.length_modify ..).trans | apply (length_setAt ..).trans | apply (length_bump ..).trans | apply (length_zipIdx_map ..).trans | apply (List.length_map ..).trans | exact List.length_replicate | rfl | apply veOk_foldl | apply lanternOk_foldl | intro _ | split | apply inv_foldl | apply inv_foldl_fst | apply inv_foldl_snd | apply inv_foldr | dsimp only | apply veOk_mk

theorem inv_tileWork {s : State} {l : Nat} {c : Chain} {id : Nat} {desc : Nat} {u : UpdDesc} {gp : Group} {x : ShardAt} {g : ShardAt} {mm : ShardAt} {gl : ShardAt} {gr : ShardAt} {q : ShardAt} {dir : ShardAt} {rows : List (Nat × BitVec 128)} {tile : Nat}
    (ok_s : s.Inv) : (tileWork s l c id desc u gp x g mm gl gr q dir rows tile).Inv := by
  unfold tileWork
  repeat' with_reducible first | assumption | apply inv_writeDirection | apply inv_tileFactors | apply inv_factorRow | apply inv_refreshTile | intro _ | split | apply inv_foldl | apply inv_foldl_fst | apply inv_foldl_snd | dsimp only

theorem ok_openDiagonal {v : VEngine} {vd : Nat} {w : BitVec 128}
    (ok_v : v.Ok) : (openDiagonal v vd w).Ok := by
  unfold openDiagonal
  repeat' with_reducible first | assumption | apply ok_commit | (refine inv_of_fst ?_ (by assumption)) | (refine inv_of_snd ?_ (by assumption)) | apply lanternOk_lanternAt | apply lanternOk_vec | apply vregOk_regAt | apply veOk_regs | apply veOk_masks | apply regsOk_modify | apply regsOk_zipIdx_map | exact regsOk_replicate | exact masksOk_start _ | apply masksOk_first | apply (List.length_modify ..).trans | apply (length_setAt ..).trans | apply (length_bump ..).trans | apply (length_zipIdx_map ..).trans | apply (List.length_map ..).trans | exact List.length_replicate | rfl | apply veOk_foldl | apply lanternOk_foldl | intro _ | split | apply inv_foldl | apply inv_foldl_fst | apply inv_foldl_snd | apply inv_foldr | dsimp only | apply veOk_mk

theorem inv_matLanes {s : State} {l : Nat} {vd : Nat} {w : BitVec 128} {f : Nat → Dyad}
    (ok_s : s.Inv) : (matLanes s l vd w f).Inv := by
  unfold matLanes
  repeat' with_reducible first | assumption | apply inv_runIns | apply inv_jamRecs | intro _ | split | apply inv_foldl | apply inv_foldl_fst | apply inv_foldl_snd | dsimp only

theorem inv_applyInputs {s : State} {l : Nat} {desc : Nat} {m : Mooring} {x : ShardAt} {mm : ShardAt} {gl : ShardAt} {gr : ShardAt} {dir : ShardAt} {geo : RowGeom} {w : BitVec 128}
    (ok_s : s.Inv) : (applyInputs s l desc m x mm gl gr dir geo w).1.Inv := by
  unfold applyInputs
  repeat' with_reducible first | assumption | apply ok_openDiagonal | apply inv_modVec | apply inv_noteShard | apply inv_loadBlocks | apply inv_freeLanes | apply inv_matLanes | apply inv_jamRecs | apply inv_runIns | intro _ | split | apply inv_foldl | apply inv_foldl_fst | apply inv_foldl_snd | dsimp only

theorem inv_rowLoads {s : State} {l : Nat} {r : UpdateRun} {k : UpdCtx} {geo : RowGeom} {w : BitVec 128}
    (ok_s : s.Inv) : (rowLoads s l r k geo w).Inv := by
  unfold rowLoads
  repeat' with_reducible first | assumption | apply inv_loadElems | apply inv_loadBlocks | apply inv_loadElem | apply inv_loadTotal | intro _ | split | apply inv_foldl | apply inv_foldl_fst | apply inv_foldl_snd | dsimp only

theorem inv_rowUndo {s : State} {l : Nat} {r : UpdateRun} {k : UpdCtx} {geo : RowGeom} {w : BitVec 128}
    (ok_s : s.Inv) : (rowUndo s l r k geo w).Inv := by
  unfold rowUndo
  repeat' with_reducible first | assumption | apply inv_saveBlocks | intro _ | split | apply inv_foldl | apply inv_foldl_fst | apply inv_foldl_snd | dsimp only

theorem inv_beginUpdateRow {s : State} {l : Nat} {j : BindJob} {r : UpdateRun} {k : UpdCtx} {i : Nat} {rid : Nat} {w : BitVec 128}
    (ok_s : s.Inv) : (beginUpdateRow s l j r k i rid w).Inv := by
  unfold beginUpdateRow
  repeat' with_reducible first | assumption | apply inv_engineRow | apply inv_modVec | apply ok_setRow | apply inv_loadBlocks | apply inv_applyInputs | apply inv_runList | apply inv_gradRow | apply inv_rowUndo | apply inv_rowLoads | (refine inv_of_fst ?_ (by assumption)) | intro _ | split | dsimp only

theorem inv_tileReady {l : Nat} {j : BindJob} {r : UpdateRun} {k : UpdCtx} {s : State} {tile : Nat}
    (ok_s : s.Inv) : (tileReady l j r k s tile).Inv := by
  unfold tileReady
  repeat' with_reducible first | assumption | apply inv_tileWork | apply inv_modMooring | (refine inv_of_fst ?_ (by assumption)) | (refine inv_of_snd ?_ (by assumption)) | apply lanternOk_lanternAt | apply lanternOk_vec | apply vregOk_regAt | apply veOk_regs | apply veOk_masks | apply regsOk_modify | apply regsOk_zipIdx_map | exact regsOk_replicate | exact masksOk_start _ | apply masksOk_first | apply (List.length_modify ..).trans | apply (length_setAt ..).trans | apply (length_bump ..).trans | apply (length_zipIdx_map ..).trans | apply (List.length_map ..).trans | exact List.length_replicate | rfl | apply veOk_foldl | apply lanternOk_foldl | intro _ | split | apply inv_foldl | apply inv_foldl_fst | apply inv_foldl_snd | apply inv_foldr | dsimp only | apply veOk_mk

theorem inv_afterTile {s : State} {l : Nat} {j : BindJob} {r : UpdateRun} {k : UpdCtx} {rid : Nat}
    (ok_s : s.Inv) : (afterTile s l j r k rid).Inv := by
  unfold afterTile
  repeat' with_reducible first | assumption | apply inv_tileReady | apply inv_modMooring | apply inv_tileWork | intro _ | split | dsimp only

theorem inv_endUpdateRow {s : State} {l : Nat} {j : BindJob} {r : UpdateRun} {i : Nat}
    (ok_s : s.Inv) : (endUpdateRow s l j r i).Inv := by
  unfold endUpdateRow
  repeat' with_reducible first | assumption | apply inv_storeBlocks | apply inv_afterTile | intro _ | split | apply inv_foldl | apply inv_foldl_fst | apply inv_foldl_snd | dsimp only

theorem inv_finishUpdateRow {s : State} {l : Nat}
    (ok_s : s.Inv) : (finishUpdateRow s l).Inv := by
  unfold finishUpdateRow
  repeat' with_reducible first | assumption | apply inv_endUpdateRow | apply inv_modVec | apply lanternOk_lanternAt | apply lanternOk_vec | apply veOk_regs | apply veOk_masks | apply regsOk_modify | apply regsOk_zipIdx_map | exact regsOk_replicate | exact masksOk_start _ | apply masksOk_first | apply (List.length_modify ..).trans | apply (length_setAt ..).trans | apply (length_bump ..).trans | apply (length_zipIdx_map ..).trans | apply (List.length_map ..).trans | exact List.length_replicate | rfl | intro _ | split | dsimp only | apply veOk_mk

theorem inv_updateRow {s : State} {l : Nat} {j : BindJob} {r : UpdateRun} {i : Nat}
    (ok_s : s.Inv) : (updateRow s l j r i).Inv := by
  unfold updateRow
  repeat' with_reducible first | assumption | apply inv_modLantern | apply ok_countRow | apply inv_afterTile | apply inv_finishUpdateRow | apply inv_modVec | apply inv_beginUpdateRow | apply veOk_regs | apply veOk_masks | apply regsOk_modify | apply regsOk_zipIdx_map | exact regsOk_replicate | exact masksOk_start _ | apply masksOk_first | apply (List.length_modify ..).trans | apply (length_setAt ..).trans | apply (length_bump ..).trans | apply (length_zipIdx_map ..).trans | apply (List.length_map ..).trans | exact List.length_replicate | rfl | intro _ | split | dsimp only | apply veOk_mk

theorem inv_factorPart {s : State} {l : Nat} {j : BindJob} {k : UpdCtx}
    (ok_s : s.Inv) : (factorPart s l j k).Inv := by
  unfold factorPart
  repeat' with_reducible first | assumption | apply inv_statsPart | apply inv_columnPart | (refine inv_of_fst ?_ (by assumption)) | (refine inv_of_snd ?_ (by assumption)) | apply lanternOk_lanternAt | apply lanternOk_vec | apply vregOk_regAt | apply veOk_regs | apply veOk_masks | apply regsOk_modify | apply regsOk_zipIdx_map | exact regsOk_replicate | exact masksOk_start _ | apply masksOk_first | apply (List.length_modify ..).trans | apply (length_setAt ..).trans | apply (length_bump ..).trans | apply (length_zipIdx_map ..).trans | apply (List.length_map ..).trans | exact List.length_replicate | rfl | apply veOk_foldl | apply lanternOk_foldl | intro _ | split | apply inv_foldl | apply inv_foldl_fst | apply inv_foldl_snd | apply inv_foldr | dsimp only | apply veOk_mk

theorem inv_beforeRows {s : State} {l : Nat} {j : BindJob} {r : UpdateRun}
    (ok_s : s.Inv) : (beforeRows s l j r).Inv := by
  unfold beforeRows
  repeat' with_reducible first | assumption | apply inv_factorPart | apply inv_tileReady | apply inv_foldl | apply inv_modMooring | apply inv_statsPart | apply inv_columnPart | intro _ | split | dsimp only

theorem inv_restoreLine {src : Nat} {dst : Nat} {n : Nat} {s : State} {d : Nat}
    (ok_s : s.Inv) : (restoreLine src dst n s d).Inv := by
  unfold restoreLine
  repeat' with_reducible first | assumption | apply inv_addPoison | apply inv_writeMem | (refine inv_of_fst ?_ (by assumption)) | (refine inv_of_snd ?_ (by assumption)) | apply lanternOk_lanternAt | apply lanternOk_vec | apply vregOk_regAt | apply veOk_regs | apply veOk_masks | apply regsOk_modify | apply regsOk_zipIdx_map | exact regsOk_replicate | exact masksOk_start _ | apply masksOk_first | apply (List.length_modify ..).trans | apply (length_setAt ..).trans | apply (length_bump ..).trans | apply (length_zipIdx_map ..).trans | apply (List.length_map ..).trans | exact List.length_replicate | rfl | apply veOk_foldl | apply lanternOk_foldl | intro _ | split | apply inv_foldl | apply inv_foldl_fst | apply inv_foldl_snd | apply inv_foldr | dsimp only | apply veOk_mk

theorem inv_restoreUndo {s : State} {u : Undo}
    (ok_s : s.Inv) : (restoreUndo s u).Inv := by
  unfold restoreUndo
  repeat' with_reducible first | assumption | apply inv_restoreLine | apply inv_addPoison | apply memoryWf_setCells | rfl | exact id | apply lanternsOk_map | apply lanternsOk_zipIdx_map | apply funcsOk_map | apply funcsOk_zipIdx_map | intro _ | split | apply inv_foldl | apply inv_foldl_fst | apply inv_foldl_snd | dsimp only | apply inv_struct | rfl | exact List.length_map _ | exact List.length_modify .. | exact (List.length_map _).trans List.length_zipIdx

theorem inv_undoUpdate {s : State} {id : Nat} {t : Nat}
    (ok_s : s.Inv) : (undoUpdate s id t).Inv := by
  unfold undoUpdate
  repeat' with_reducible first | assumption | apply inv_restoreUndo | apply inv_modMooring | intro _ | split | apply inv_foldl | apply inv_foldl_fst | apply inv_foldl_snd | dsimp only

theorem inv_checkHeaderStep {s : State} {id : Nat} {tensor : Nat}
    (ok_s : s.Inv) : (checkHeaderStep s id tensor).Inv := by
  unfold checkHeaderStep
  repeat' with_reducible first | assumption | apply inv_raiseEventMore | apply inv_modMooring | intro _ | split | dsimp only

theorem ok_bindingConstants {s : State} {l : Nat} {j : BindJob} {v : VEngine}
    (ok_v : v.Ok) : (bindingConstants s l j v).Ok := by
  unfold bindingConstants
  repeat' with_reducible first | assumption | apply ok_loadConstants | intro _ | split | dsimp only

theorem inv_findTouched {s : State} {l : Nat} {j : BindJob}
    (ok_s : s.Inv) : (findTouched s l j).1.Inv := by
  unfold findTouched
  repeat' with_reducible first | assumption | apply inv_noteTouch | (refine inv_of_fst ?_ (by assumption)) | (refine inv_of_snd ?_ (by assumption)) | apply lanternOk_lanternAt | apply lanternOk_vec | apply vregOk_regAt | apply veOk_regs | apply veOk_masks | apply regsOk_modify | apply regsOk_zipIdx_map | exact regsOk_replicate | exact masksOk_start _ | apply masksOk_first | apply (List.length_modify ..).trans | apply (length_setAt ..).trans | apply (length_bump ..).trans | apply (length_zipIdx_map ..).trans | apply (List.length_map ..).trans | exact List.length_replicate | rfl | apply veOk_foldl | apply lanternOk_foldl | intro _ | split | apply inv_foldl | apply inv_foldl_fst | apply inv_foldl_snd | apply inv_foldr | dsimp only | apply veOk_mk

theorem inv_execBindingStart {l : Nat} {s : State}
    (ok_s : s.Inv) : OutcomeInv (execBindingStart l s) := by
  unfold execBindingStart
  repeat' with_reducible first | assumption | apply inv_findTouched | apply outcomeInv_next | apply outcomeInv_fault | apply inv_modLantern | apply ok_clearRegs | apply ok_bindingConstants | apply inv_beforeRows | apply lanternOk_lanternAt | apply lanternOk_events | apply lanternOk_dma | apply lanternOk_vec | apply veOk_regs | apply veOk_masks | apply regsOk_modify | apply regsOk_zipIdx_map | exact regsOk_replicate | exact masksOk_start _ | apply masksOk_first | apply (List.length_modify ..).trans | apply (length_setAt ..).trans | apply (length_bump ..).trans | apply (length_zipIdx_map ..).trans | apply (List.length_map ..).trans | exact List.length_replicate | rfl | intro _ | split | dsimp only | apply lanternOk_mk | apply veOk_mk

theorem inv_startNextRow {s : State} {l : Nat}
    (ok_s : s.Inv) : (startNextRow s l).Inv := by
  unfold startNextRow
  repeat' with_reducible first | assumption | apply inv_finishUpdateRow | apply inv_modLantern | apply inv_performStores | apply ok_countRow | apply inv_updateRow | apply inv_chainRow | apply inv_chainTail | apply lanternOk_lanternAt | apply lanternOk_vec | intro _ | split | dsimp only

theorem inv_execChainRowStart {l : Nat} {s : State}
    (ok_s : s.Inv) : OutcomeInv (execChainRowStart l s) := by
  unfold execChainRowStart
  repeat' with_reducible first | assumption | apply outcomeInv_next | apply outcomeInv_fault | apply inv_startNextRow | intro _ | split | dsimp only

theorem inv_retireBinding {s : State} {l : Nat}
    (ok_s : s.Inv) : (retireBinding s l).Inv := by
  unfold retireBinding
  repeat' with_reducible first | assumption | apply inv_foldr | apply inv_foldl_snd | apply inv_foldl_fst | apply inv_foldl | apply inv_performStores | apply inv_finishUpdateRow | apply inv_modMooring | apply inv_modVec | apply inv_bumpEvent | apply lanternOk_lanternAt | apply lanternOk_vec | apply veOk_regs | apply veOk_masks | apply regsOk_modify | apply regsOk_zipIdx_map | exact regsOk_replicate | exact masksOk_start _ | apply masksOk_first | apply (List.length_modify ..).trans | apply (length_setAt ..).trans | apply (length_bump ..).trans | apply (length_zipIdx_map ..).trans | apply (List.length_map ..).trans | exact List.length_replicate | rfl | intro _ | split | dsimp only | apply veOk_mk

theorem inv_execBindingRetire {l : Nat} {s : State}
    (ok_s : s.Inv) : OutcomeInv (execBindingRetire l s) := by
  exact outcomeInv_next (inv_retireBinding ok_s)

end Sys2Proof.Machine
end

