-- ==== Sys2Proof/Laws/InvRuns.lean ====
section
/-! SUPPORT. Laws/InvRuns.lean: the operations of Machine/Runs.lean keep the invariant State.Inv. -/

namespace Sys2Proof.Machine

theorem inv_answerFree {s : State} {r : PeerReq}
    (ok_s : s.Inv) : (answerFree s r).Inv := by
  unfold answerFree
  repeat' with_reducible first | assumption | apply inv_freeBytes | apply inv_drawFree | apply inv_deliverAnswer | (refine inv_of_fst ?_ (by assumption)) | (refine inv_of_snd ?_ (by assumption)) | apply lanternOk_lanternAt | apply lanternOk_vec | apply vregOk_regAt | apply veOk_regs | apply veOk_masks | apply regsOk_modify | apply regsOk_zipIdx_map | exact regsOk_replicate | exact masksOk_start _ | apply masksOk_first | apply (List.length_modify ..).trans | apply (length_setAt ..).trans | apply (length_bump ..).trans | apply (length_zipIdx_map ..).trans | apply (List.length_map ..).trans | exact List.length_replicate | rfl | apply veOk_foldl | apply lanternOk_foldl | intro _ | split | apply inv_foldl | apply inv_foldl_fst | apply inv_foldl_snd | apply inv_foldr | dsimp only | apply veOk_mk

theorem inv_awaitAnswers {s : State} {l : Nat}
    (ok_s : s.Inv) : (awaitAnswers s l).Inv := by
  unfold awaitAnswers
  repeat' with_reducible first | assumption | apply inv_foldl | apply inv_answerFree | (refine inv_of_fst ?_ (by assumption)) | (refine inv_of_snd ?_ (by assumption)) | apply lanternOk_lanternAt | apply lanternOk_vec | apply vregOk_regAt | apply veOk_regs | apply veOk_masks | apply regsOk_modify | apply regsOk_zipIdx_map | exact regsOk_replicate | exact masksOk_start _ | apply masksOk_first | apply (List.length_modify ..).trans | apply (length_setAt ..).trans | apply (length_bump ..).trans | apply (length_zipIdx_map ..).trans | apply (List.length_map ..).trans | exact List.length_replicate | rfl | apply veOk_foldl | apply lanternOk_foldl | intro _ | split | apply inv_foldl | apply inv_foldl_fst | apply inv_foldl_snd | apply inv_foldr | dsimp only | apply veOk_mk

theorem ok_dropWaiting {x : Lantern}
    (ok_x : x.Ok) : (dropWaiting x).Ok := by
  unfold dropWaiting
  repeat' with_reducible first | assumption | (refine inv_of_fst ?_ (by assumption)) | (refine inv_of_snd ?_ (by assumption)) | apply inv_foldl | apply inv_foldl_fst | apply inv_foldl_snd | apply inv_foldr | apply lanternOk_lanternAt | apply lanternOk_events | apply lanternOk_dma | apply lanternOk_vec | apply (List.length_modify ..).trans | apply (length_setAt ..).trans | apply (length_bump ..).trans | apply (length_zipIdx_map ..).trans | apply (List.length_map ..).trans | exact List.length_replicate | rfl | intro _ | split | dsimp only | apply lanternOk_mk

theorem inv_settleChannels {s : State} {l : Nat}
    (ok_s : s.Inv) : (settleChannels s l).Inv := by
  unfold settleChannels
  repeat' with_reducible first | assumption | apply inv_foldl | apply inv_signalStep | apply inv_retireFlight | (refine inv_of_fst ?_ (by assumption)) | (refine inv_of_snd ?_ (by assumption)) | apply lanternOk_lanternAt | apply lanternOk_vec | apply vregOk_regAt | apply veOk_regs | apply veOk_masks | apply regsOk_modify | apply regsOk_zipIdx_map | exact regsOk_replicate | exact masksOk_start _ | apply masksOk_first | apply (List.length_modify ..).trans | apply (length_setAt ..).trans | apply (length_bump ..).trans | apply (length_zipIdx_map ..).trans | apply (List.length_map ..).trans | exact List.length_replicate | rfl | apply veOk_foldl | apply lanternOk_foldl | intro _ | split | apply inv_foldl | apply inv_foldl_fst | apply inv_foldl_snd | apply inv_foldr | dsimp only | apply veOk_mk

theorem inv_settleOnce {s : State} {l : Nat}
    (ok_s : s.Inv) : (settleOnce s l).Inv := by
  unfold settleOnce
  repeat' with_reducible first | assumption | apply inv_retireBinding | apply inv_arriveLoad | apply inv_awaitAnswers | apply inv_drainOnce | apply inv_startDrain | apply inv_releaseTile | apply inv_settleChannels | apply inv_retireLens | apply inv_startNextRow | (refine inv_of_fst ?_ (by assumption)) | (refine inv_of_snd ?_ (by assumption)) | apply lanternOk_lanternAt | apply lanternOk_vec | apply vregOk_regAt | apply veOk_regs | apply veOk_masks | apply regsOk_modify | apply regsOk_zipIdx_map | exact regsOk_replicate | exact masksOk_start _ | apply masksOk_first | apply (List.length_modify ..).trans | apply (length_setAt ..).trans | apply (length_bump ..).trans | apply (length_zipIdx_map ..).trans | apply (List.length_map ..).trans | exact List.length_replicate | rfl | apply veOk_foldl | apply lanternOk_foldl | intro _ | split | apply inv_foldl | apply inv_foldl_fst | apply inv_foldl_snd | apply inv_foldr | dsimp only | apply veOk_mk

theorem inv_settleWork {l : Nat} {x1 : Nat} {x2 : State}
    (ok_x2 : x2.Inv) : (settleWork l x1 x2).Inv := by
  induction x1 generalizing x2 with
  | zero => exact ok_x2
  | succ n ih =>
    unfold settleWork
    dsimp only
    split
    · exact inv_settleOnce ok_x2
    · exact ih (inv_settleOnce ok_x2)

theorem inv_stopChannels {s : State} {l : Nat}
    (ok_s : s.Inv) : (stopChannels s l).Inv := by
  unfold stopChannels
  repeat' with_reducible first | assumption | apply inv_stopChannel | intro _ | split | apply inv_foldl | apply inv_foldl_fst | apply inv_foldl_snd | dsimp only

theorem inv_windDownLantern {s : State} {l : Nat}
    (ok_s : s.Inv) : (windDownLantern s l).Inv := by
  unfold windDownLantern
  repeat' with_reducible first | assumption | apply inv_settleWork | apply ok_dropWaiting | apply inv_performStores | apply inv_drainBinding | apply inv_modLantern | apply inv_stopChannels | apply ok_dropWork | apply lanternOk_lanternAt | apply lanternOk_vec | intro _ | split | dsimp only

theorem inv_windDown {s : State} {id : Nat}
    (ok_s : s.Inv) : (windDown s id).Inv := by
  unfold windDown
  repeat' with_reducible first | assumption | apply inv_windDownLantern | intro _ | split | apply inv_foldl | apply inv_foldl_fst | apply inv_foldl_snd | dsimp only

theorem inv_newEpoch {s : State} {id : Nat}
    (ok_s : s.Inv) : (newEpoch s id).Inv := by
  unfold newEpoch
  repeat' with_reducible first | assumption | apply inv_advanceNow | apply inv_modMooring | apply inv_advanceDaymark | intro _ | split | dsimp only

theorem inv_deferEpoch {s : State} {id : Nat} {d : EpochDue}
    (ok_s : s.Inv) : (deferEpoch s id d).Inv := by
  unfold deferEpoch
  repeat' with_reducible first | assumption | apply inv_modMooring | apply inv_windDown | (refine inv_of_fst ?_ (by assumption)) | (refine inv_of_snd ?_ (by assumption)) | apply lanternOk_lanternAt | apply lanternOk_vec | apply vregOk_regAt | apply veOk_regs | apply veOk_masks | apply regsOk_modify | apply regsOk_zipIdx_map | exact regsOk_replicate | exact masksOk_start _ | apply masksOk_first | apply (List.length_modify ..).trans | apply (length_setAt ..).trans | apply (length_bump ..).trans | apply (length_zipIdx_map ..).trans | apply (List.length_map ..).trans | exact List.length_replicate | rfl | apply veOk_foldl | apply lanternOk_foldl | intro _ | split | apply inv_foldl | apply inv_foldl_fst | apply inv_foldl_snd | apply inv_foldr | dsimp only | apply veOk_mk

theorem inv_runRecord {s : State} {id : Nat} {status : Nat} {flags : BitVec 16} {step : Nat}
    (ok_s : s.Inv) : (runRecord s id status flags step).Inv := by
  unfold runRecord
  repeat' with_reducible first | assumption | apply inv_stepRecord | apply inv_modOp | intro _ | split | dsimp only

theorem inv_abortSteps {s : State} {o : LongOp}
    (ok_s : s.Inv) : (abortSteps s o).Inv := by
  unfold abortSteps
  repeat' with_reducible first | assumption | apply inv_modOp | apply inv_stepRecord | intro _ | split | apply inv_foldl | apply inv_foldl_fst | apply inv_foldl_snd | dsimp only

theorem inv_endRun {s : State} {id : Nat} {status : Nat}
    (ok_s : s.Inv) : (endRun s id status).Inv := by
  unfold endRun
  repeat' with_reducible first | assumption | apply inv_tellSlot | apply inv_endFillOf | apply inv_runRecord | apply inv_modMooring | apply inv_leaveReached | apply inv_finishOp | intro _ | split | apply inv_foldl | apply inv_foldl_fst | apply inv_foldl_snd | dsimp only

theorem inv_cutRunShort {s : State} {id : Nat} {status : Nat}
    (ok_s : s.Inv) : (cutRunShort s id status).Inv := by
  unfold cutRunShort
  repeat' with_reducible first | assumption | apply inv_windDown | apply inv_undoUpdate | apply inv_modMooring | apply inv_endRun | (refine inv_of_fst ?_ (by assumption)) | (refine inv_of_snd ?_ (by assumption)) | apply lanternOk_lanternAt | apply lanternOk_vec | apply vregOk_regAt | apply veOk_regs | apply veOk_masks | apply regsOk_modify | apply regsOk_zipIdx_map | exact regsOk_replicate | exact masksOk_start _ | apply masksOk_first | apply (List.length_modify ..).trans | apply (length_setAt ..).trans | apply (length_bump ..).trans | apply (length_zipIdx_map ..).trans | apply (List.length_map ..).trans | exact List.length_replicate | rfl | apply veOk_foldl | apply lanternOk_foldl | intro _ | split | apply inv_foldl | apply inv_foldl_fst | apply inv_foldl_snd | apply inv_foldr | dsimp only | apply veOk_mk

theorem inv_breakRun {s : State} {id : Nat} {status : Nat}
    (ok_s : s.Inv) : (breakRun s id status).Inv := by
  unfold breakRun
  repeat' with_reducible first | assumption | apply inv_deferEpoch | apply inv_cutRunShort | apply inv_newEpoch | apply inv_windDown | apply inv_undoUpdate | apply inv_modMooring | apply inv_endRun | intro _ | split | dsimp only

theorem inv_openWindows {s : State} {id : Nat}
    (ok_s : s.Inv) : (openWindows s id).Inv := by
  unfold openWindows
  repeat' with_reducible first | assumption | (refine inv_of_fst ?_ (by assumption)) | (refine inv_of_snd ?_ (by assumption)) | apply inv_foldl | apply inv_foldl_fst | apply inv_foldl_snd | apply inv_foldr | rfl | exact id | apply lanternOk_events | apply lanternOk_dma | apply lanternOk_vec | apply lanternsOk_map | apply lanternsOk_zipIdx_map | apply funcsOk_map | apply funcsOk_zipIdx_map | apply (List.length_modify ..).trans | apply (length_setAt ..).trans | apply (length_bump ..).trans | apply (length_zipIdx_map ..).trans | apply (List.length_map ..).trans | exact List.length_replicate | rfl | intro _ | split | dsimp only | apply lanternOk_mk | apply inv_struct | rfl | exact List.length_map _ | exact List.length_modify .. | exact (List.length_map _).trans List.length_zipIdx

theorem ok_startLantern {p : Parsed} {m : Mooring} {l : Nat} {x : Lantern}
    (ok_x : x.Ok) : (startLantern p m l x).Ok := by
  unfold startLantern
  repeat' with_reducible first | assumption | apply lanternOk_events | apply lanternOk_dma | apply lanternOk_vec | apply (List.length_modify ..).trans | apply (length_setAt ..).trans | apply (length_bump ..).trans | apply (length_zipIdx_map ..).trans | apply (List.length_map ..).trans | exact List.length_replicate | rfl | intro _ | split | dsimp only | apply lanternOk_mk

theorem inv_execStepStart {mooring : Nat} {s : State}
    (ok_s : s.Inv) : OutcomeInv (execStepStart mooring s) := by
  unfold execStepStart
  repeat' with_reducible first | assumption | apply inv_openWindows | apply outcomeInv_next | apply outcomeInv_fault | apply inv_modMooring | apply inv_modLantern | apply ok_startLantern | apply lanternOk_lanternAt | intro _ | split | apply inv_foldl | apply inv_foldl_fst | apply inv_foldl_snd | dsimp only

theorem inv_sendVerdict {s : State} {m : Mooring} {dest : Nat} {step : Nat} {v : Verdict}
    (ok_s : s.Inv) : (sendVerdict s m dest step v).Inv := by
  unfold sendVerdict
  repeat' with_reducible first | assumption | apply inv_sendSeq | intro _ | split | dsimp only

end Sys2Proof.Machine
end

