-- ==== Sys2Proof/Laws/InvBoot.lean ====
section
/-! SUPPORT. Laws/InvBoot.lean: the operations of Machine/Boot.lean keep the invariant State.Inv. -/

namespace Sys2Proof.Machine

theorem inv_holdPorts {s : State}
    (ok_s : s.Inv) : (holdPorts s).Inv := by
  unfold holdPorts
  repeat' with_reducible first | assumption | apply inv_raiseEventP | apply inv_modPort | intro _ | split | apply inv_foldl | apply inv_foldl_fst | apply inv_foldl_snd | dsimp only

theorem inv_readCarrier {s : State} {b : BringUp}
    (ok_s : s.Inv) : (readCarrier s b).Inv := by
  unfold readCarrier
  repeat' with_reducible first | assumption | apply inv_modBoot | apply inv_holdPorts | intro _ | split | apply inv_foldl | apply inv_foldl_fst | apply inv_foldl_snd | dsimp only

theorem inv_selectConfig {s : State}
    (ok_s : s.Inv) : OptionInv (selectConfig s) := by
  unfold selectConfig
  repeat' with_reducible first | assumption | apply inv_modFlash | apply inv_raiseEventP | apply optionInv_some | apply optionInv_none | intro _ | split | dsimp only

theorem inv_assignLanterns {s : State}
    (ok_s : s.Inv) : (assignLanterns s).Inv := by
  unfold assignLanterns
  repeat' with_reducible first | assumption | rfl | exact id | apply lanternOk_events | apply lanternOk_dma | apply lanternOk_vec | apply lanternsOk_map | apply lanternsOk_zipIdx_map | apply funcsOk_map | apply funcsOk_zipIdx_map | apply (List.length_modify ..).trans | apply (length_setAt ..).trans | apply (length_bump ..).trans | apply (length_zipIdx_map ..).trans | apply (List.length_map ..).trans | exact List.length_replicate | rfl | intro _ | split | dsimp only | apply lanternOk_mk | apply inv_struct | rfl | exact List.length_map _ | exact List.length_modify .. | exact (List.length_map _).trans List.length_zipIdx

theorem inv_chooseSlot {s : State}
    (ok_s : s.Inv) : (chooseSlot s).1.Inv := by
  unfold chooseSlot
  repeat' with_reducible first | assumption | apply inv_setConfig | intro _ | split | dsimp only

theorem inv_startFirmware {s : State} {slot : Nat} {trial : Bool}
    (ok_s : s.Inv) : (startFirmware s slot trial).Inv := by
  unfold startFirmware
  repeat' with_reducible first | assumption | apply inv_modBoot | intro _ | split | dsimp only

theorem inv_retireFailing {s : State} {t : Nat} {failed : List Nat}
    (ok_s : s.Inv) : (retireFailing s t failed).Inv := by
  unfold retireFailing
  repeat' with_reducible first | assumption | apply inv_setConfig | apply inv_retireLantern | apply lanternOk_lanternAt | intro _ | split | apply inv_foldl | apply inv_foldl_fst | apply inv_foldl_snd | dsimp only

theorem inv_haltBringUp {s : State} {code : Nat}
    (ok_s : s.Inv) : (haltBringUp s code).Inv := by
  unfold haltBringUp
  repeat' with_reducible first | assumption | apply inv_modBoot | intro _ | split | dsimp only

theorem inv_setStage {s : State} {n : Nat}
    (ok_s : s.Inv) : (setStage s n).Inv := by
  unfold setStage
  repeat' with_reducible first | assumption | apply inv_modBoot | intro _ | split | dsimp only

theorem inv_stageSix {s : State} {b : BringUp}
    (ok_s : s.Inv) : (stageSix s b).Inv := by
  unfold stageSix
  repeat' with_reducible first | assumption | apply inv_retireFailing | apply inv_modBoot | apply inv_setStage | intro _ | split | dsimp only

theorem inv_stageFour {s : State} {b : BringUp}
    (ok_s : s.Inv) : (stageFour s b).Inv := by
  unfold stageFour
  repeat' with_reducible first | assumption | apply inv_chooseSlot | apply inv_modBoot | apply inv_stageSix | apply inv_setStage | apply inv_startFirmware | (refine inv_of_fst ?_ (by assumption)) | intro _ | split | dsimp only

theorem inv_bringUp {s : State} {b : BringUp}
    (ok_s : s.Inv) : (bringUp s b).Inv := by
  unfold bringUp
  repeat' with_reducible first | assumption | apply inv_modBoot | apply inv_readCarrier | apply inv_setStage | apply inv_haltBringUp | apply inv_selectConfig | apply inv_stageFour | apply inv_assignLanterns | apply optionInv_some | apply optionInv_none | (refine optionInv_apply ?_ (by assumption)) | intro _ | split | dsimp only

theorem inv_execPowerGood {b : BringUp} {s : State}
    (ok_s : s.Inv) : OutcomeInv (execPowerGood b s) := by
  unfold execPowerGood
  repeat' with_reducible first | assumption | apply outcomeInv_next | apply outcomeInv_fault | apply inv_bringUp | apply inv_modBoot | apply inv_modPower | intro _ | split | dsimp only

theorem inv_execBringupRetry {b : BringUp} {s : State}
    (ok_s : s.Inv) : OutcomeInv (execBringupRetry b s) := by
  unfold execBringupRetry
  repeat' with_reducible first | assumption | apply outcomeInv_next | apply outcomeInv_fault | apply inv_bringUp | intro _ | split | dsimp only

theorem inv_clearTowerSram {s : State} {t : Nat}
    (ok_s : s.Inv) : (clearTowerSram s t).Inv := by
  unfold clearTowerSram
  repeat' with_reducible first | assumption | apply inv_clearMem | intro _ | split | dsimp only

theorem inv_execEarlyLight {s : State}
    (ok_s : s.Inv) : OutcomeInv (execEarlyLight s) := by
  unfold execEarlyLight
  repeat' with_reducible first | assumption | apply outcomeInv_next | apply outcomeInv_fault | apply inv_clearTowerSram | apply inv_examineAll | apply inv_modBoot | intro _ | split | dsimp only

theorem inv_testTowers {s : State} {ts : List TowerTest}
    (ok_s : s.Inv) : (testTowers s ts).Inv := by
  unfold testTowers
  repeat' with_reducible first | assumption | apply inv_retireFailing | apply inv_holdTower | apply inv_modBoot | intro _ | split | apply inv_foldl | apply inv_foldl_fst | apply inv_foldl_snd | dsimp only

theorem inv_checkNeighbour {s : State} {n : Neighbour}
    (ok_s : s.Inv) : (checkNeighbour s n).Inv := by
  unfold checkNeighbour
  repeat' with_reducible first | assumption | apply inv_raiseEventP | apply inv_modPort | apply inv_linkDown | intro _ | split | dsimp only

theorem inv_trainAll {s : State} {ls : List (Option LinkTrain)}
    (ok_s : s.Inv) : (trainAll s ls).Inv := by
  unfold trainAll
  repeat' with_reducible first | assumption | apply inv_trainPort | apply inv_modPort | intro _ | split | apply inv_foldl | apply inv_foldl_fst | apply inv_foldl_snd | dsimp only

theorem inv_startWaitingBist {s : State}
    (ok_s : s.Inv) : (startWaitingBist s).Inv := by
  unfold startWaitingBist
  repeat' with_reducible first | assumption | apply inv_modKeeper | intro _ | split | dsimp only

theorem inv_greetNeighbours {s : State}
    (ok_s : s.Inv) : (greetNeighbours s).Inv := by
  unfold greetNeighbours
  repeat' with_reducible first | assumption | apply inv_foldl | apply inv_tellNode | (refine inv_of_fst ?_ (by assumption)) | (refine inv_of_snd ?_ (by assumption)) | apply lanternOk_lanternAt | apply lanternOk_vec | apply vregOk_regAt | apply veOk_regs | apply veOk_masks | apply regsOk_modify | apply regsOk_zipIdx_map | exact regsOk_replicate | exact masksOk_start _ | apply masksOk_first | apply (List.length_modify ..).trans | apply (length_setAt ..).trans | apply (length_bump ..).trans | apply (length_zipIdx_map ..).trans | apply (List.length_map ..).trans | exact List.length_replicate | rfl | apply veOk_foldl | apply lanternOk_foldl | intro _ | split | apply inv_foldl | apply inv_foldl_fst | apply inv_foldl_snd | apply inv_foldr | dsimp only | apply veOk_mk

theorem inv_setLimits {s : State} {f : FullInputs}
    (ok_s : s.Inv) : (setLimits s f).Inv := by
  unfold setLimits
  repeat' with_reducible first | assumption | apply inv_modRouter | (refine inv_of_fst ?_ (by assumption)) | (refine inv_of_snd ?_ (by assumption)) | apply lanternOk_lanternAt | apply lanternOk_vec | apply vregOk_regAt | apply veOk_regs | apply veOk_masks | apply regsOk_modify | apply regsOk_zipIdx_map | exact regsOk_replicate | exact masksOk_start _ | apply masksOk_first | apply (List.length_modify ..).trans | apply (length_setAt ..).trans | apply (length_bump ..).trans | apply (length_zipIdx_map ..).trans | apply (List.length_map ..).trans | exact List.length_replicate | rfl | apply veOk_foldl | apply lanternOk_foldl | intro _ | split | apply inv_foldl | apply inv_foldl_fst | apply inv_foldl_snd | apply inv_foldr | dsimp only | apply veOk_mk

theorem inv_setTime {s : State} {t : Nat}
    (ok_s : s.Inv) : (setTime s t).Inv := by
  unfold setTime
  repeat' with_reducible first | assumption | apply inv_modTime | apply inv_modBoot | (refine inv_of_fst ?_ (by assumption)) | (refine inv_of_snd ?_ (by assumption)) | apply lanternOk_lanternAt | apply lanternOk_vec | apply vregOk_regAt | apply veOk_regs | apply veOk_masks | apply regsOk_modify | apply regsOk_zipIdx_map | exact regsOk_replicate | exact masksOk_start _ | apply masksOk_first | apply (List.length_modify ..).trans | apply (length_setAt ..).trans | apply (length_bump ..).trans | apply (length_zipIdx_map ..).trans | apply (List.length_map ..).trans | exact List.length_replicate | rfl | apply veOk_foldl | apply lanternOk_foldl | intro _ | split | apply inv_foldl | apply inv_foldl_fst | apply inv_foldl_snd | apply inv_foldr | dsimp only | apply veOk_mk

theorem inv_firstRoot {s : State}
    (ok_s : s.Inv) : (firstRoot s).Inv := by
  unfold firstRoot
  split
  · exact inv_followRoot ok_s
  · exact inv_modTime ok_s

theorem inv_execFullLight {f : FullInputs} {s : State}
    (ok_s : s.Inv) : OutcomeInv (execFullLight f s) := by
  unfold execFullLight
  repeat' with_reducible first | assumption | apply inv_setTime | apply inv_modFlash | apply inv_setLimits | apply inv_greetNeighbours | apply outcomeInv_next | apply outcomeInv_fault | apply inv_testTowers | apply inv_modBoot | apply inv_clearMem | apply inv_modPower | apply inv_checkNeighbour | apply inv_trainAll | apply inv_modTime | apply inv_firstRoot | apply inv_enterRouterOnly | apply inv_examineAll | apply inv_startWaitingBist | intro _ | split | apply inv_foldl | apply inv_foldl_fst | apply inv_foldl_snd | dsimp only

theorem inv_execWatchdogMiss {s : State}
    (ok_s : s.Inv) : OutcomeInv (execWatchdogMiss s) := by
  unfold execWatchdogMiss
  repeat' with_reducible first | assumption | apply outcomeInv_next | apply outcomeInv_fault | apply inv_modKeeper | apply inv_modBoot | intro _ | split | dsimp only

theorem inv_resetCompute {s : State}
    (ok_s : s.Inv) : (resetCompute s).Inv := by
  unfold resetCompute
  repeat' with_reducible first | assumption | apply ok_clearLantern | apply inv_advanceDaymark | apply inv_stopCore | rfl | exact id | apply lanternOk_events | apply lanternOk_dma | apply lanternOk_vec | apply lanternsOk_map | apply lanternsOk_zipIdx_map | apply funcsOk_map | apply funcsOk_zipIdx_map | apply (List.length_modify ..).trans | apply (length_setAt ..).trans | apply (length_bump ..).trans | apply (length_zipIdx_map ..).trans | apply (List.length_map ..).trans | exact List.length_replicate | rfl | apply veOk_foldl | apply lanternOk_foldl | intro _ | split | apply inv_foldl | apply inv_foldl_fst | apply inv_foldl_snd | dsimp only | apply lanternOk_mk | apply inv_struct | rfl | exact List.length_map _ | exact List.length_modify .. | exact (List.length_map _).trans List.length_zipIdx

theorem inv_answerRestarted {s : State}
    (ok_s : s.Inv) : (answerRestarted s).Inv := by
  unfold answerRestarted
  repeat' with_reducible first | assumption | apply inv_abortSteps | apply inv_answer | apply inv_finishOp | intro _ | split | apply inv_foldl | apply inv_foldl_fst | apply inv_foldl_snd | dsimp only

theorem inv_emptyLogs {s : State}
    (ok_s : s.Inv) : (emptyLogs s).Inv := by
  unfold emptyLogs
  repeat' with_reducible first | assumption | rfl | exact id | apply funcOk_mbox | apply funcOk_queues | apply funcOk_slots | apply lanternsOk_map | apply lanternsOk_zipIdx_map | apply funcsOk_map | apply funcsOk_zipIdx_map | apply (List.length_modify ..).trans | apply (length_setAt ..).trans | apply (length_bump ..).trans | apply (length_zipIdx_map ..).trans | apply (List.length_map ..).trans | exact List.length_replicate | rfl | intro _ | split | dsimp only | apply funcOk_mk | apply inv_struct | rfl | exact List.length_map _ | exact List.length_modify .. | exact (List.length_map _).trans List.length_zipIdx

theorem inv_stopSystem {s : State}
    (ok_s : s.Inv) : (stopSystem s).Inv := by
  unfold stopSystem
  repeat' with_reducible first | assumption | (refine inv_of_fst ?_ (by assumption)) | (refine inv_of_snd ?_ (by assumption)) | apply inv_foldl | apply inv_foldl_fst | apply inv_foldl_snd | apply inv_foldr | rfl | exact id | apply lanternOk_events | apply lanternOk_dma | apply lanternOk_vec | apply lanternsOk_map | apply lanternsOk_zipIdx_map | apply funcsOk_map | apply funcsOk_zipIdx_map | apply (List.length_modify ..).trans | apply (length_setAt ..).trans | apply (length_bump ..).trans | apply (length_zipIdx_map ..).trans | apply (List.length_map ..).trans | exact List.length_replicate | rfl | intro _ | split | dsimp only | apply lanternOk_mk | apply inv_struct | rfl | exact List.length_map _ | exact List.length_modify .. | exact (List.length_map _).trans List.length_zipIdx

theorem inv_afterRestart {s : State}
    (ok_s : s.Inv) : (afterRestart s).Inv := by
  unfold afterRestart
  repeat' with_reducible first | assumption | apply inv_stopSystem | apply inv_abortSteps | apply inv_resetCompute | apply inv_releaseMooring | apply inv_modKeeper | apply inv_modBoot | apply inv_emptyLogs | apply inv_raiseEventP | apply inv_bumpModule | apply inv_examineAll | apply inv_answerRestarted | intro _ | split | apply inv_foldl | apply inv_foldl_fst | apply inv_foldl_snd | dsimp only

theorem inv_execKeeperRestart {s : State}
    (ok_s : s.Inv) : OutcomeInv (execKeeperRestart s) := by
  unfold execKeeperRestart
  repeat' with_reducible first | assumption | apply outcomeInv_next | apply outcomeInv_fault | apply inv_chooseSlot | apply inv_modBoot | apply inv_afterRestart | apply inv_startFirmware | (refine inv_of_fst ?_ (by assumption)) | intro _ | split | dsimp only

theorem inv_execTrialFirmwareConfirm {s : State}
    (ok_s : s.Inv) : OutcomeInv (execTrialFirmwareConfirm s) := by
  unfold execTrialFirmwareConfirm
  repeat' with_reducible first | assumption | apply outcomeInv_next | apply outcomeInv_fault | apply inv_modBoot | apply inv_setConfig | intro _ | split | dsimp only

theorem inv_execHeartbeatTick {s : State}
    (ok_s : s.Inv) : OutcomeInv (execHeartbeatTick s) := by
  unfold execHeartbeatTick
  repeat' with_reducible first | assumption | apply outcomeInv_next | apply outcomeInv_fault | apply inv_modBoot | intro _ | split | dsimp only

end Sys2Proof.Machine
end

