-- ==== Sys2Proof/Laws/Outward.lean ====
section
/-! SUPPORT. Laws/Outward.lean: what announcing changes: records, events, interrupts and messages touch only what the
outside sees (R190 to R194, R265, R385 to R389, R402). -/

namespace Sys2Proof.Machine

variable {s t u : State}

/-! ### The relations -/

theorem SameUnits.refl (s : State) : SameUnits s s := ⟨rfl, rfl, rfl, rfl, rfl, rfl, rfl, rfl⟩

theorem SameUnits.trans (h : SameUnits s t) (k : SameUnits t u) : SameUnits s u := by
  obtain ⟨a1, a2, a3, a4, a5, a6, a7, a8⟩ := h
  obtain ⟨b1, b2, b3, b4, b5, b6, b7, b8⟩ := k
  exact ⟨b1.trans a1, b2.trans a2, b3.trans a3, b4.trans a4, b5.trans a5, b6.trans a6, b7.trans a7, b8.trans a8⟩

theorem LogGrows.refl (x : Flash) : LogGrows x x := ⟨[], by simp, by simp⟩

theorem LogGrows.trans {x y z : Flash} (h : LogGrows x y) (k : LogGrows y z) : LogGrows x z := by
  obtain ⟨es, h1, rfl⟩ := h
  obtain ⟨fs, k1, rfl⟩ := k
  refine ⟨es ++ fs, fun e he => (List.mem_append.mp he).elim (h1 e) (k1 e), ?_⟩
  simp [Nat.mul_add, Nat.add_assoc]

theorem LogGrows.of_eq {x y : Flash} (h : y = x) : LogGrows x y := h ▸ LogGrows.refl x

theorem outward_refl (s : State) : Outward s s := ⟨SameUnits.refl s, LogGrows.refl _, rfl, fun h => ⟨rfl, rfl, rfl, h⟩⟩

theorem Outward.trans (h : Outward s t) (k : Outward t u) : Outward s u := by
  refine ⟨h.1.trans k.1, h.2.1.trans k.2.1, k.2.2.1.trans h.2.2.1, fun hr => ?_⟩
  obtain ⟨a1, a2, a3, a4⟩ := h.2.2.2 hr
  obtain ⟨b1, b2, b3, b4⟩ := k.2.2.2 a4
  exact ⟨b1.trans a1, b2.trans a2, b3.trans a3, b4⟩

/-- Announcing leaves the outstanding commands, the bundles and the forwarded commands. -/
theorem Outward.books (h : Outward s t) : t.keeper.ops = s.keeper.ops ∧ t.keeper.bundles = s.keeper.bundles ∧
    t.keeper.forwards = s.keeper.forwards ∧ t.keeper.hwins = s.keeper.hwins ∧ t.keeper.policy = s.keeper.policy ∧
    t.keeper.daymark = s.keeper.daymark := by
  have e := h.2.2.1
  have h1 := congrArg Keeper.ops e
  have h2 := congrArg Keeper.bundles e
  have h3 := congrArg Keeper.forwards e
  have h4 := congrArg Keeper.hwins e
  have h5 := congrArg Keeper.policy e
  have h6 := congrArg Keeper.daymark e
  exact ⟨h1, h2, h3, h4, h5, h6⟩

/-- Rings stay in host memory when no queue becomes bound or moves. -/
theorem hostRings_of (h : HostRings s)
    (k : ∀ f q, (queueAt t f q).bound = true → (queueAt s f q).bound = true ∧ (queueAt t f q).base = (queueAt s f q).base) :
    HostRings t := by
  intro f q hb
  obtain ⟨a, b⟩ := k f q hb
  rw [b]
  exact h f q a

theorem hostRings_funcs (e : t.funcs = s.funcs) (h : HostRings s) : HostRings t := by
  unfold HostRings queueAt funcAt at *
  rw [e]
  exact h

/-- A change of host memory, the router or the outputs alone. -/
theorem outward_of_same (e : SameUnits s t) (e1 : t.flash = s.flash) (e2 : t.mem = s.mem) (e3 : t.poison = s.poison)
    (e4 : t.keeper = s.keeper) (e5 : t.funcs = s.funcs) : Outward s t :=
  ⟨e, LogGrows.of_eq e1, by rw [e4], fun h => ⟨e2, e3, by rw [e4], hostRings_funcs e5 h⟩⟩

theorem outward_modRouter (f : Router → Router) : Outward s (modRouter s f) :=
  outward_of_same ⟨rfl, rfl, rfl, rfl, rfl, rfl, rfl, rfl⟩ rfl rfl rfl rfl rfl

theorem outward_modPort (p : Nat) (f : Port → Port) : Outward s (modPort s p f) := outward_modRouter _

theorem queueAt_modFunc_keeps (i : Nat) (g : Func → Func) (hg : ∀ x, (g x).queues = x.queues) (f q : Nat) :
    queueAt (modFunc s i g) f q = queueAt s f q := by
  unfold queueAt
  rw [funcAt_modFunc_keeps Func.queues i f g hg]

/-- A change of a function that leaves its queues alone. -/
theorem outward_modFunc (i : Nat) (g : Func → Func) (hg : ∀ x, (g x).queues = x.queues) : Outward s (modFunc s i g) := by
  refine ⟨⟨rfl, rfl, rfl, rfl, rfl, rfl, rfl, rfl⟩, LogGrows.refl _, rfl, fun h => ⟨rfl, rfl, rfl, hostRings_of h fun f q hb => ?_⟩⟩
  rw [queueAt_modFunc_keeps i g hg] at hb ⊢
  exact ⟨hb, rfl⟩

/-- A queue after any change: changed or as before. -/
theorem queueAt_modQueue_cases (i q : Nat) (g : Queue → Queue) (f k : Nat) :
    queueAt (modQueue s i q g) f k = queueAt s f k ∨ queueAt (modQueue s i q g) f k = g (queueAt s f k) := by
  unfold modQueue
  by_cases hf : f = i
  · subst hf
    by_cases hl : f < s.funcs.length
    · unfold queueAt
      rw [funcAt_modFunc_same _ _ _ hl]
      dsimp only
      rw [getD_modify_le]
      split <;> simp
    · left
      unfold queueAt funcAt modFunc
      dsimp only
      rw [getD_modify_le, if_neg (fun x => hl x.2)]
  · left
    unfold queueAt
    rw [funcAt_modFunc_other _ _ hf]

/-- A change of a queue that leaves its binding alone. -/
theorem outward_modQueue (i q : Nat) (g : Queue → Queue) (hg : ∀ x, (g x).bound = x.bound ∧ (g x).base = x.base) :
    Outward s (modQueue s i q g) := by
  refine ⟨⟨rfl, rfl, rfl, rfl, rfl, rfl, rfl, rfl⟩, LogGrows.refl _, rfl, fun h => ⟨rfl, rfl, rfl, hostRings_of h fun f k hb => ?_⟩⟩
  rcases queueAt_modQueue_cases (s := s) i q g f k with e | e
  · rw [e] at hb ⊢
    exact ⟨hb, rfl⟩
  · rw [e] at hb ⊢
    rw [(hg _).1] at hb
    exact ⟨hb, (hg _).2⟩

/-- An events-lost record joins the event log. -/
theorem outward_logLost {e : Event} (h : e.code = 0x0050) :
    Outward s (modFlash s (fun y => { y with log := y.log ++ [e], written := y.written + 32 })) :=
  ⟨⟨rfl, rfl, rfl, rfl, rfl, rfl, rfl, rfl⟩, ⟨[e], fun _ he => (List.mem_singleton.mp he) ▸ h, rfl⟩, rfl,
    fun h => ⟨rfl, rfl, rfl, h⟩⟩

theorem outward_foldl {α : Type} {g : State → α → State} (hg : ∀ s a, Outward s (g s a)) (xs : List α) :
    Outward s (xs.foldl g s) := by
  induction xs generalizing s with
  | nil => exact outward_refl s
  | cons x xs ih => exact (hg s x).trans ih

/-! ### What sending a packet changes -/

/-- Only the router, and how many free values have been read, changes. -/
def OnlyRouter (s t : State) : Prop := ∃ r n, t = { s with router := r, free := n }

theorem OnlyRouter.refl (s : State) : OnlyRouter s s := ⟨s.router, s.free, rfl⟩

theorem OnlyRouter.trans (h : OnlyRouter s t) (k : OnlyRouter t u) : OnlyRouter s u := by
  obtain ⟨r, n, rfl⟩ := h
  obtain ⟨r2, n2, rfl⟩ := k
  exact ⟨r2, n2, rfl⟩

theorem OnlyRouter.outward (h : OnlyRouter s t) : Outward s t := by
  obtain ⟨r, n, rfl⟩ := h
  exact outward_of_same ⟨rfl, rfl, rfl, rfl, rfl, rfl, rfl, rfl⟩ rfl rfl rfl rfl rfl

theorem onlyRouter_modRouter (f : Router → Router) : OnlyRouter s (modRouter s f) := ⟨f s.router, s.free, rfl⟩

theorem onlyRouter_drawFree : OnlyRouter s (drawFree s).2 := ⟨s.router, s.free + 1, rfl⟩

theorem onlyRouter_countHit (h : Option Nat) : OnlyRouter s (countHit s h) := by
  unfold countHit
  split
  · exact OnlyRouter.refl s
  · exact onlyRouter_modRouter _

theorem onlyRouter_noteCross (src : Option Nat) (out : Nat) (p : Packet) : OnlyRouter s (noteCross s src out p) := by
  unfold noteCross
  split
  · exact OnlyRouter.refl s
  · exact onlyRouter_modRouter _

theorem onlyRouter_sendBy (src : Option Nat) (port : Nat) (p : Packet) : OnlyRouter s (sendBy s src port p) :=
  (onlyRouter_modRouter _).trans ((onlyRouter_modRouter _).trans (onlyRouter_noteCross _ _ _))

theorem onlyRouter_inject (p : Packet) : OnlyRouter s (inject s p) := by
  unfold inject
  dsimp only
  split
  · exact (onlyRouter_countHit _).trans (onlyRouter_modRouter _)
  · unfold bumpDrop modPort
    exact (onlyRouter_countHit _).trans (onlyRouter_modRouter _)
  · split
    · exact (onlyRouter_countHit _).trans (onlyRouter_sendBy _ _ _)
    · exact (onlyRouter_countHit _).trans (onlyRouter_modRouter _)

theorem onlyRouter_openStream (d c : Nat) : OnlyRouter s (openStream s d c) := by
  unfold openStream
  split
  · exact OnlyRouter.refl s
  · exact onlyRouter_modRouter _

theorem onlyRouter_emitSeq (tower : Nat) (t : SrcStream) (p : Packet) : OnlyRouter s (emitSeq s tower t p) := by
  unfold emitSeq
  dsimp only
  exact (onlyRouter_modRouter _).trans ((onlyRouter_modRouter _).trans ((onlyRouter_modRouter _).trans (onlyRouter_inject _)))

theorem onlyRouter_sendSeq (tower : Nat) (p : Packet) : OnlyRouter s (sendSeq s tower p) := by
  unfold sendSeq
  dsimp only
  split
  · exact onlyRouter_openStream _ _
  · split
    · exact (onlyRouter_openStream _ _).trans (onlyRouter_emitSeq _ _ _)
    · exact (onlyRouter_openStream _ _).trans (onlyRouter_modRouter _)

theorem onlyRouter_freeBytes (n : Nat) : ∀ s : State, OnlyRouter s (freeBytes n s).2 := by
  induction n with
  | zero => exact OnlyRouter.refl
  | succ n ih => intro s; exact onlyRouter_drawFree.trans (ih _)

theorem onlyRouter_peerWrite (tower mooring : Nat) (dom : Domain) (w a : Nat) (bs : List Byte) (who : PeerFor) :
    OnlyRouter s (peerWrite s tower mooring dom w a bs who).1 :=
  (onlyRouter_freeBytes _ _).trans ((onlyRouter_freeBytes _ _).trans ((onlyRouter_modRouter _).trans (onlyRouter_sendSeq _ _)))

theorem onlyRouter_peerWrites (tower mooring : Nat) (dom : Domain) (w base : Nat) (bs : List Byte) (who : Nat → PeerFor)
    (ps : List (Nat × Nat)) : ∀ s : State, OnlyRouter s (peerWrites s tower mooring dom w base bs who ps).1 := by
  induction ps with
  | nil => exact OnlyRouter.refl
  | cons p ps ih => intro s; exact (onlyRouter_peerWrite _ _ _ _ _ _ _).trans (ih _)

/-! ### Interrupts, rings, records -/

theorem outward_raiseVector (f v : Nat) : Outward s (raiseVector s f v) := by
  have h1 : Outward s (modFunc s f (fun y => { y with intStatus := y.intStatus ||| (1#64 <<< v) })) :=
    outward_modFunc _ _ (by intro _; rfl)
  unfold raiseVector
  dsimp only
  split
  · exact h1
  · split
    · exact h1.trans (outward_modFunc _ _ (by intro _; rfl))
    · split
      · exact h1.trans (outward_of_same ⟨rfl, rfl, rfl, rfl, rfl, rfl, rfl, rfl⟩ rfl rfl rfl rfl rfl)
      · exact h1

/-- Books equal but for region 0x30's count are so with the number of requests left out too. -/
theorem books_serial {j k : Keeper} (h : { j with debugWrites := [] } = { k with debugWrites := [] }) :
    { j with debugWrites := [], serial := 0 } = { k with debugWrites := [], serial := 0 } :=
  congrArg (fun x : Keeper => { x with serial := 0 }) h

theorem writeMem_units (a : Nat) (bs : List Byte) :
    SameUnits s (writeMem s a bs) ∧ (writeMem s a bs).flash = s.flash ∧
    { (writeMem s a bs).keeper with debugWrites := [] } = { s.keeper with debugWrites := [] } := by
  have hl : ∀ (ls : List Nat) (s : State), SameUnits s (writeLines s a bs ls) ∧ (writeLines s a bs ls).flash = s.flash ∧
      (writeLines s a bs ls).keeper = s.keeper := by
    intro ls
    induction ls with
    | nil => intro s; exact ⟨SameUnits.refl s, rfl, rfl⟩
    | cons l ls ih =>
      intro s
      have h1 : SameUnits s (writeLine s l a bs) ∧ (writeLine s l a bs).flash = s.flash ∧
          (writeLine s l a bs).keeper = s.keeper := by
        unfold writeLine
        dsimp only
        split
        · exact ⟨SameUnits.refl s, rfl, rfl⟩
        · exact ⟨⟨rfl, rfl, rfl, rfl, rfl, rfl, rfl, rfl⟩, rfl, rfl⟩
      obtain ⟨a1, a2, a3⟩ := ih (writeLine s l a bs)
      exact ⟨h1.1.trans a1, a2.trans h1.2.1, a3.trans h1.2.2⟩
  unfold writeMem
  split
  · exact ⟨⟨rfl, rfl, rfl, rfl, rfl, rfl, rfl, rfl⟩, rfl, rfl⟩
  · obtain ⟨a1, a2, a3⟩ := hl (linesOf a bs.length) s
    exact ⟨a1, a2, by rw [a3]⟩

theorem keeperWrite_units {f addr : Nat} {bs : List Byte} (h : keeperWrite s f addr bs = .ok t) :
    SameUnits s t ∧ t.flash = s.flash ∧ { t.keeper with debugWrites := [] } = { s.keeper with debugWrites := [] } := by
  unfold keeperWrite at h
  split at h
  · cases h
  · cases h
    split
    · exact ⟨⟨rfl, rfl, rfl, rfl, rfl, rfl, rfl, rfl⟩, rfl, rfl⟩
    · exact writeMem_units _ _
  · cases h
    rename_i w a _
    have o := OnlyRouter.outward (onlyRouter_peerWrites 0 0xFFFF .keeper w a bs (fun _ => .keeper 0 0 0) (peerPieces (bs.length + 1) a bs.length) s)
    obtain ⟨r, n, e⟩ := onlyRouter_peerWrites 0 0xFFFF .keeper w a bs (fun _ => .keeper 0 0 0) (peerPieces (bs.length + 1) a bs.length) s
    refine ⟨o.1, ?_, ?_⟩ <;> rw [e]
  · split at h
    · cases h
    · split at h
      · cases h
        exact ⟨⟨rfl, rfl, rfl, rfl, rfl, rfl, rfl, rfl⟩, rfl, rfl⟩
      · cases h

theorem keeperWrite_funcs {f addr : Nat} {bs : List Byte} (h : keeperWrite s f addr bs = .ok t) : t.funcs = s.funcs := by
  have hl : ∀ (a : Nat) (ls : List Nat) (s : State), (writeLines s a bs ls).funcs = s.funcs := by
    intro a ls
    induction ls with
    | nil => intro s; rfl
    | cons l ls ih =>
      intro s
      refine (ih _).trans ?_
      unfold writeLine
      dsimp only
      split <;> rfl
  unfold keeperWrite at h
  split at h
  · cases h
  · cases h
    split
    · rfl
    · unfold writeMem
      split
      · rfl
      · exact hl _ _ _
  · cases h
    rename_i w a _
    obtain ⟨r, n, e⟩ := onlyRouter_peerWrites 0 0xFFFF .keeper w a bs (fun _ => .keeper 0 0 0) (peerPieces (bs.length + 1) a bs.length) s
    rw [e]
  · split at h
    · cases h
    · split at h <;> cases h
      rfl

/-- An access at an address of a host window names host memory or fails (R18, R19). -/
theorem checkAddr_host {ctx : Ctx} {addr n : Nat} {w : Bool} (ha : 7 * 2 ^ 61 ≤ addr) :
    checkAddr s ctx addr n w = none ∨ ∃ i o, checkAddr s ctx addr n w = some (.host i o) := by
  unfold checkAddr
  split
  · exact .inl rfl
  · rename_i hlt
    have hb : bits addr 63 61 = 7 := by
      unfold bits
      have h1 : addr / 2 ^ 61 = 7 := by omega
      rw [h1] <;> decide
    simp only [hb]
    repeat' split
    all_goals first
      | exact .inl rfl
      | exact .inr ⟨_, _, rfl⟩

theorem keeperWrite_host {f addr : Nat} {bs : List Byte} (ha : 7 * 2 ^ 61 ≤ addr) (h : keeperWrite s f addr bs = .ok t) :
    t.mem = s.mem ∧ t.poison = s.poison ∧ t.keeper = s.keeper := by
  unfold keeperWrite at h
  rcases checkAddr_host (s := s) (ctx := .priv) (n := bs.length) (w := true) ha with e | ⟨i, o, e⟩
  · rw [e] at h
    cases h
  · rw [e] at h
    dsimp only at h
    split at h
    · cases h
    · split at h <;> cases h
      exact ⟨rfl, rfl, rfl⟩

/-- A write into a host window depends on the windows, the owner's Bus Master Enable and PERST_N alone. -/
theorem keeperWrite_host_congr {f addr : Nat} {bs : List Byte} (ha : 7 * 2 ^ 61 ≤ addr)
    (e1 : u.keeper.hwins = s.keeper.hwins) (e2 : u.boot = s.boot) (e3 : ∀ f, (funcAt u f).bme = (funcAt s f).bme)
    (e4 : u.host = s.host) (h : keeperWrite s f addr bs = .ok t) :
    keeperWrite u f addr bs = .ok { u with host := t.host } := by
  have hc : checkAddr u .priv addr bs.length true = checkAddr s .priv addr bs.length true := by
    unfold checkAddr
    split
    · rfl
    · rename_i hlt
      have hb : bits addr 63 61 = 7 := by
        unfold bits
        have h1 : addr / 2 ^ 61 = 7 := by omega
        rw [h1] <;> decide
      simp only [hb, e1]
  unfold keeperWrite at h ⊢
  rw [hc]
  rcases checkAddr_host (s := s) (ctx := .priv) (n := bs.length) (w := true) ha with e | ⟨i, o, e⟩
  · rw [e] at h
    cases h
  · rw [e] at h ⊢
    dsimp only at h ⊢
    have hw : hwinAt u i = hwinAt s i := by
      unfold hwinAt
      rw [e1]
    rw [hw]
    split at h
    · cases h
    · rename_i x hx
      have hu : hostUp u x.owner = hostUp s x.owner := by
        unfold hostUp
        rw [e3, e2]
      rw [hu]
      split at h
      · rename_i hy
        cases h
        rw [if_pos hy]
        unfold hostWrite
        rw [e4]
      · cases h

theorem outward_ringWrite {f q rec : Nat} (hb : (queueAt s f q).bound = true) (h : ringWrite s f q rec = some t) :
    Outward s t := by
  unfold ringWrite at h
  dsimp only at h
  split at h
  · cases h
  · rename_i s1 e
    have h1 : Outward s s1 := by
      obtain ⟨u1, u2, u3⟩ := keeperWrite_units e
      refine ⟨u1, LogGrows.of_eq u2, books_serial u3, fun hr => ?_⟩
      have := hr f q hb
      obtain ⟨a, b, c⟩ := keeperWrite_host (Nat.le_trans this (Nat.le_add_right _ _)) e
      exact ⟨a, b, by rw [c], hostRings_funcs (keeperWrite_funcs e) hr⟩
    refine h1.trans ?_
    split at h <;> cases h
    · exact (outward_modQueue _ _ _ (by intro _; exact ⟨rfl, rfl⟩)).trans
        ((outward_modQueue _ _ _ (by intro _; exact ⟨rfl, rfl⟩)).trans (outward_raiseVector _ _))
    · exact outward_modQueue _ _ _ (by intro _; exact ⟨rfl, rfl⟩)

/-- Writing a record leaves every queue's binding alone. -/
theorem ringWrite_bound {f q rec : Nat} (h : ringWrite s f q rec = some t) (g k : Nat) :
    (queueAt t g k).bound = (queueAt s g k).bound := by
  have hm : ∀ (u : State) (i q : Nat) (g' : Queue → Queue), (∀ x, (g' x).bound = x.bound) →
      (queueAt (modQueue u i q g') g k).bound = (queueAt u g k).bound := by
    intro u i q g' hg
    rcases queueAt_modQueue_cases (s := u) i q g' g k with e | e
    · rw [e]
    · rw [e, hg]
  unfold ringWrite at h
  dsimp only at h
  split at h
  · cases h
  · rename_i s1 e
    have hk : (queueAt s1 g k).bound = (queueAt s g k).bound := by
      unfold queueAt funcAt
      rw [keeperWrite_funcs e]
    split at h <;> cases h
    · rw [raiseVector_queueAt, hm _ _ _ _ (by intro _; rfl), hm _ _ _ _ (by intro _; rfl), hk]
    · rw [hm _ _ _ _ (by intro _; rfl), hk]

theorem outward_drainQueue (n : Nat) : ∀ (s : State) (f q : Nat), (queueAt s f q).bound = true →
    Outward s (drainQueue n s f q) := by
  induction n with
  | zero => intro s f q _; exact outward_refl s
  | succ n ih =>
    intro s f q hb
    have hm : ∀ (u : State) (g' : Queue → Queue), (∀ x, (g' x).bound = x.bound) → (queueAt u f q).bound = true →
        (queueAt (modQueue u f q g') f q).bound = true := by
      intro u g' hg hu
      rcases queueAt_modQueue_cases (s := u) f q g' f q with e | e
      · rw [e, hu]
      · rw [e, hg, hu]
    unfold drainQueue
    dsimp only
    split
    · exact outward_refl s
    · split
      · split
        · exact outward_refl s
        · rename_i s1 e
          refine (outward_ringWrite hb e).trans ((outward_logLost (by rfl)).trans
            ((outward_modQueue _ _ _ (by intro _; exact ⟨rfl, rfl⟩)).trans (ih _ _ _ ?_)))
          exact hm _ _ (by intro _; rfl) ((ringWrite_bound e f q).trans hb)
      · split
        · exact outward_refl s
        · split
          · exact outward_refl s
          · rename_i s1 e
            refine (outward_ringWrite hb e).trans ((outward_modQueue _ _ _ (by intro _; exact ⟨rfl, rfl⟩)).trans (ih _ _ _ ?_))
            exact hm _ _ (by intro _; rfl) ((ringWrite_bound e f q).trans hb)

theorem outward_flushQueue (f q : Nat) : Outward s (flushQueue s f q) := by
  unfold flushQueue
  dsimp only
  split
  · rename_i hb
    exact outward_drainQueue _ _ _ _ hb
  · exact outward_refl s

theorem outward_flushFunc (f : Nat) : Outward s (flushFunc s f) := outward_foldl (fun _ _ => outward_flushQueue _ _) _

theorem outward_postRecord (f q : Nat) (tag : Option Nat) (rec : Nat) : Outward s (postRecord s f q tag rec) := by
  unfold postRecord
  dsimp only
  split
  · exact (outward_modQueue _ _ _ (by intro _; exact ⟨rfl, rfl⟩)).trans
      ((outward_modFunc _ _ (by intro _; rfl)).trans (outward_flushQueue _ _))
  · exact outward_refl s

theorem outward_postEventTo (f q : Nat) (e : Event) : Outward s (postEventTo s f q e) := by
  unfold postEventTo
  dsimp only
  split
  · exact outward_modQueue _ _ _ (by intro _; exact ⟨rfl, rfl⟩)
  · exact (outward_modQueue _ _ _ (by intro _; exact ⟨rfl, rfl⟩)).trans (outward_flushQueue _ _)

theorem outward_postEvent (f : Nat) (e : Event) : Outward s (postEvent s f e) := by
  unfold postEvent
  split
  · exact outward_modFunc _ _ (by intro _; rfl)
  · exact outward_foldl (fun _ _ => outward_postEventTo _ _ _) _

/-! ### Packets and messages -/

theorem outward_sendSeq (tower : Nat) (p : Packet) : Outward s (sendSeq s tower p) :=
  (onlyRouter_sendSeq tower p).outward

theorem outward_tellNode (d : Nat) (m : KeeperMsg) : Outward s (tellNode s d m) := by
  unfold tellNode
  split
  · exact outward_refl s
  · refine Outward.trans ?_ (outward_sendSeq _ _)
    exact outward_of_same ⟨rfl, rfl, rfl, rfl, rfl, rfl, rfl, rfl⟩ rfl rfl rfl rfl rfl

theorem outward_tellNodes (m : KeeperMsg) : ∀ (ns : List Nat) (s : State), Outward s (tellNodes s m ns) := by
  intro ns
  induction ns with
  | nil => exact outward_refl
  | cons n ns ih => intro s; exact (outward_tellNode _ _).trans (ih _)

theorem outward_deliverEvent (e : Event) (owner : Option (Nat × Nat)) : Outward s (deliverEvent s e owner) := by
  unfold deliverEvent
  dsimp only
  split
  · exact outward_postEvent _ _
  · split
    · split
      · exact outward_postEvent _ _
      · exact (outward_postEvent _ _).trans (outward_postEvent _ _)
    · exact (outward_postEvent _ _).trans (outward_tellNode _ _)

/-! ### Answers, records of long commands, events -/

theorem outward_answer {m : Mbox} {r : Request} {status : Nat} {result : List Byte} {detail : Nat}
    (h : result.length ≤ 4056) : Outward s (answer s m r status result detail) := by
  have h1 : Outward s (responded s m r status result detail) := outward_modFunc _ _ (by intro _; rfl)
  rw [answer_eq h]
  dsimp only
  split <;> split
  · exact h1.trans ((outward_modFunc _ _ (by intro _; rfl)).trans (outward_raiseVector _ _))
  · exact h1.trans (outward_raiseVector _ _)
  · exact h1.trans (outward_modFunc _ _ (by intro _; rfl))
  · exact h1

/-- An event: the flash log grows by one record, the rest is announcing (R144, R387, R388). -/
theorem raiseEventMore_outward (code : Nat) (mooring : Option Nat) (unit detail : Nat) (more : List Nat) :
    ∃ e : Event, e.code = code ∧ e.unit = unit ∧ e.detail = detail ∧
      Outward (logged s e) (raiseEventMore s code mooring unit detail more) := by
  unfold raiseEventMore raiseEventIn
  exact ⟨_, rfl, rfl, rfl, outward_deliverEvent _ _⟩

/-- An event of any domain, likewise. -/
theorem raiseEventIn_outward (dom : Domain) (code : Nat) (mooring : Option Nat) (unit detail : Nat) (more : List Nat) :
    ∃ e : Event, e.code = code ∧ e.unit = unit ∧ e.detail = detail ∧
      Outward (logged s e) (raiseEventIn s dom code mooring unit detail more) := by
  unfold raiseEventIn
  exact ⟨_, rfl, rfl, rfl, outward_deliverEvent _ _⟩

theorem raiseEvent_outward (code : Nat) (mooring : Option Nat) (unit detail : Nat) :
    ∃ e : Event, e.code = code ∧ e.unit = unit ∧ e.detail = detail ∧
      Outward (logged s e) (raiseEvent s code mooring unit detail) :=
  raiseEventMore_outward _ _ _ _ _

end Sys2Proof.Machine
end

