-- ==== Sys2Proof/Laws/Long.lean ====
section
/-! SUPPORT. Laws/Long.lean: what accepting a long command and ending it in the same step leave (R190, R380). -/

namespace Sys2Proof.Machine

variable {s : State} {m : Mbox} {r : Request}

/-- A long command that passes the shared checks has a tag of its own (R391). -/
theorem tagFree_of_asked {op : Nat} {c : CmdInfo} (h : Asked s m op r) (hc : cmdInfo op = some c) (hl : c.long = true) :
    tagFree s m.func r.tag = true := by
  obtain ⟨_, h2, _, _, h4⟩ := h
  unfold commandCheck at h4
  rw [h2, hc] at h4
  dsimp only at h4
  rw [hl] at h4
  cases hf : tagFree s m.func r.tag
  · exfalso
    rw [hf] at h4
    split at h4
    · cases h4
    · split at h4
      · cases h4
      · split at h4
        · cases h4
        · split at h4
          · cases h4
          · split at h4
            · cases h4
            · split at h4
              · cases h4
              · rw [if_pos rfl] at h4
                split at h4
                · cases h4
                · split at h4
                  · cases h4
                  · simp at h4
  · rfl

theorem ops_none (h : tagFree s m.func r.tag = true) :
    ∀ o ∈ s.keeper.ops, (o.func == m.func && o.tag == r.tag) = false := by
  unfold tagFree opAt at h
  have := List.find?_eq_none.1 (Option.isNone_iff_eq_none.1 h)
  intro o ho
  simpa using this o ho

theorem acceptLong_keeper (k : OpKind) :
    (acceptLong s m r k).keeper = { s.keeper with ops := s.keeper.ops ++ [opOf m r k] } := by
  unfold acceptLong modKeeper
  dsimp only
  rw [answer_keeper (by simp)]

theorem acceptLong_eq (k : OpKind) :
    acceptLong s m r k = { answer s m r stAccepted [] 0 with
      keeper := { (answer s m r stAccepted [] 0).keeper with ops := (answer s m r stAccepted [] 0).keeper.ops ++ [opOf m r k] } } :=
  rfl

theorem acceptLong_sameWork (k : OpKind) : SameWork s (acceptLong s m r k) := answer_sameWork (s := s) (by simp)

theorem acceptLong_host (k : OpKind) : (acceptLong s m r k).host = s.host := answer_host (s := s) (by simp)

theorem acceptLong_queueAt (k : OpKind) (f q : Nat) : queueAt (acceptLong s m r k) f q = queueAt s f q :=
  answer_queueAt (s := s) (by simp)

theorem acceptLong_bme (k : OpKind) (f : Nat) : (funcAt (acceptLong s m r k) f).bme = (funcAt s f).bme :=
  answer_func (s := s) Func.bme (by intro _ _; rfl) (by intro _ _; rfl) (by intro _ _ _; rfl) (by simp) f

theorem acceptLong_answered (k : OpKind) (hi : s.Inv) (hm : m.ok = true) :
    Answered (acceptLong s m r k) m r stAccepted [] 0 :=
  answer_answered (s := s) hi hm (by simp)

/-- The operation that has been accepted is the one its tag names. -/
theorem opAt_acceptLong (k : OpKind) (h : tagFree s m.func r.tag = true) :
    opAt (acceptLong s m r k) m.func r.tag = some (opOf m r k) := by
  unfold opAt
  rw [acceptLong_keeper]
  dsimp only
  rw [List.find?_append, List.find?_eq_none.2 (fun o ho => by simp [ops_none h o ho])]
  simp [opOf]

/-- After the report the operation is no longer outstanding. -/
theorem dropOp_ops {u : State} (k : OpKind) (h : tagFree s m.func r.tag = true)
    (e : u.keeper.ops = s.keeper.ops ++ [opOf m r k]) : (dropOp u m.func r.tag).keeper.ops = s.keeper.ops := by
  unfold dropOp modKeeper
  dsimp only
  rw [e, List.filter_append, List.filter_eq_self.2 (fun o ho => by simp [ops_none h o ho])]
  simp [opOf]

/-- After the report the Keeper's books are as before the command. -/
theorem dropOp_keeper {u : State} (k : OpKind) (h : tagFree s m.func r.tag = true)
    (e : u.keeper = { s.keeper with ops := s.keeper.ops ++ [opOf m r k] }) :
    (dropOp u m.func r.tag).keeper = s.keeper := by
  have h1 := dropOp_ops (u := u) k h (by rw [e])
  unfold dropOp modKeeper at h1 ⊢
  dsimp only at h1 ⊢
  rw [h1, e]

/-- A long command that ends in the step that accepts it: accepted, its effect, its record. -/
theorem longAtOnce_eq {status flags detail : Nat} {effect : State → State} (h : tagFree s m.func r.tag = true)
    (hm : m.func < 44)
    (he : (effect (acceptLong s m r .forwarded)).keeper.ops = (acceptLong s m r .forwarded).keeper.ops) :
    Reported (longAtOnce s m r status flags detail effect) (dropOp (effect (acceptLong s m r .forwarded)) m.func r.tag)
      m.func r status flags detail := by
  have ho : opAt (effect (acceptLong s m r .forwarded)) m.func r.tag = some (opOf m r .forwarded) := by
    unfold opAt
    rw [he]
    exact opAt_acceptLong .forwarded h
  unfold Reported longAtOnce finishOp
  rw [ho]
  dsimp only
  rw [if_neg (by omega)]
  rfl

theorem mboxFunc_lt (hm : m.ok = true) : m.func < 44 := by
  unfold Mbox.ok at hm
  simp at hm
  exact hm.1

/-- Mailboxes are as after the acceptance, whatever drops the operation. -/
theorem mboxAt_dropOp (u : State) (f tag : Nat) (q : Mbox) : mboxAt (dropOp u f tag) q = mboxAt u q := rfl

theorem answered_congr {u : State} {status : Nat} {result : List Byte} {detail : Nat} (h : mboxAt u m = mboxAt s m)
    (a : Answered s m r status result detail) : Answered u m r status result detail := by
  unfold Answered at *
  rw [h]
  exact a

/-- A long command that ends at once: there is a state in which the command has been accepted and its effect done, of which
the answer is the state with the record reported. -/
theorem longAtOnce_all {status flags detail : Nat} {effect : State → State} (hi : s.Inv) (hm : m.ok = true)
    (h : tagFree s m.func r.tag = true)
    (he : (effect (acceptLong s m r .forwarded)).keeper.ops = (acceptLong s m r .forwarded).keeper.ops)
    (hb : mboxAt (effect (acceptLong s m r .forwarded)) m = mboxAt (acceptLong s m r .forwarded) m) :
    Answered (dropOp (effect (acceptLong s m r .forwarded)) m.func r.tag) m r stAccepted [] 0 ∧
    Reported (longAtOnce s m r status flags detail effect) (dropOp (effect (acceptLong s m r .forwarded)) m.func r.tag)
      m.func r status flags detail ∧
    (dropOp (effect (acceptLong s m r .forwarded)) m.func r.tag).keeper.ops = s.keeper.ops := by
  refine ⟨answered_congr ((mboxAt_dropOp _ _ _ _).trans hb) (acceptLong_answered .forwarded hi hm),
    longAtOnce_eq h (mboxFunc_lt hm) he, dropOp_ops .forwarded h ?_⟩
  rw [he, acceptLong_keeper]

end Sys2Proof.Machine
end

