-- ==== Sys2Proof/Laws/Rings.lean ====
section
/-! SUPPORT. Laws/Rings.lean: what moving records from staging into a ring leaves of the queues (R192, R193, R389). -/

namespace Sys2Proof.Machine

variable {s t : State}

/-- What a change of a queue leaves of every queue. -/
theorem queueAt_modQueue_keeps {α : Type} (π : Queue → α) (i q : Nat) (g : Queue → Queue) (hg : ∀ x, π (g x) = π x)
    (f k : Nat) : π (queueAt (modQueue s i q g) f k) = π (queueAt s f k) := by
  rcases queueAt_modQueue_cases (s := s) i q g f k with e | e
  · rw [e]
  · rw [e, hg]

theorem queueAt_funcs (e : t.funcs = s.funcs) (f k : Nat) : queueAt t f k = queueAt s f k := by
  unfold queueAt funcAt
  rw [e]

/-- Writing a record changes PROD and what is unannounced, in that queue. -/
theorem ringWrite_keeps {α : Type} (π : Queue → α) (hπ : ∀ x p u, π { x with prod := p, unannounced := u } = π x)
    {f q rec : Nat} (h : ringWrite s f q rec = some t) (g k : Nat) : π (queueAt t g k) = π (queueAt s g k) := by
  unfold ringWrite at h
  dsimp only at h
  split at h
  · cases h
  · rename_i s1 e
    have hk : π (queueAt s1 g k) = π (queueAt s g k) := by rw [queueAt_funcs (keeperWrite_funcs e)]
    rw [← hk]
    split at h <;> cases h
    · rw [raiseVector_queueAt]
      exact (queueAt_modQueue_keeps π _ _ _ (fun x => hπ x x.prod 0) g k).trans
        (queueAt_modQueue_keeps π _ _ _ (fun x => hπ x _ _) g k)
    · exact queueAt_modQueue_keeps π _ _ _ (fun x => hπ x _ _) g k

theorem ringWrite_other {f q rec g k : Nat} (hne : (g, k) ≠ (f, q)) (h : ringWrite s f q rec = some t) :
    queueAt t g k = queueAt s g k := by
  unfold ringWrite at h
  dsimp only at h
  split at h
  · cases h
  · rename_i s1 e
    rw [← queueAt_funcs (keeperWrite_funcs e) g k]
    split at h <;> cases h
    · rw [raiseVector_queueAt, queueAt_modQueue_other _ hne, queueAt_modQueue_other _ hne]
    · rw [queueAt_modQueue_other _ hne]

theorem drainQueue_keeps {α : Type} (π : Queue → α)
    (hπ : ∀ x p u st l, π { x with prod := p, unannounced := u, staged := st, lost := l } = π x) (g k : Nat) :
    ∀ (n : Nat) (s : State) (f q : Nat), π (queueAt (drainQueue n s f q) g k) = π (queueAt s g k) := by
  intro n
  induction n with
  | zero => intro s f q; rfl
  | succ n ih =>
    intro s f q
    unfold drainQueue
    dsimp only
    split
    · rfl
    · split
      · split
        · rfl
        · rename_i s1 e
          exact (ih _ _ _).trans ((queueAt_modQueue_keeps π _ _ _ (fun x => hπ x x.prod x.unannounced x.staged 0) g k).trans
            (ringWrite_keeps π (fun x p u => hπ x p u x.staged x.lost) e g k))
      · split
        · rfl
        · split
          · rfl
          · rename_i s1 e
            exact (ih _ _ _).trans ((queueAt_modQueue_keeps π _ _ _ (fun x => hπ x x.prod x.unannounced _ x.lost) g k).trans
              (ringWrite_keeps π (fun x p u => hπ x p u x.staged x.lost) e g k))

/-- Flash holds no queue. -/
theorem queueAt_modFlash (x : Flash → Flash) (f q : Nat) : queueAt (modFlash s x) f q = queueAt s f q := rfl

theorem drainQueue_other {g k f q : Nat} (hne : (g, k) ≠ (f, q)) :
    ∀ (n : Nat) (s : State), queueAt (drainQueue n s f q) g k = queueAt s g k := by
  intro n
  induction n with
  | zero => intro s; rfl
  | succ n ih =>
    intro s
    unfold drainQueue
    dsimp only
    split
    · rfl
    · split
      · split
        · rfl
        · rename_i s1 e
          rw [ih, queueAt_modQueue_other _ hne, queueAt_modFlash, ringWrite_other hne e]
      · split
        · rfl
        · split
          · rfl
          · rename_i s1 e
            rw [ih, queueAt_modQueue_other _ hne, ringWrite_other hne e]

/-- Records leave staging oldest first, and only while the ring has room. -/
theorem drainQueue_staged {f q : Nat} (hf : f < 44) (hq : q < 16) :
    ∀ (n : Nat) (s : State), s.funcs.length = 44 → (∀ x ∈ s.funcs, x.queues.length = 16) →
      ∃ j, (queueAt (drainQueue n s f q) f q).staged = (queueAt s f q).staged.drop j ∧
        (j ≠ 0 → ringRoom (queueAt s f q) = true) := by
  intro n
  induction n with
  | zero => intro s _ _; exact ⟨0, rfl, fun h => absurd rfl h⟩
  | succ n ih =>
    intro s h1 h2
    have hq2 : ∀ i < s.funcs.length, ∀ u : State, u.funcs = s.funcs → q < (funcAt u i).queues.length := by
      intro i hi u hu
      unfold funcAt
      rw [hu, List.getD_eq_getElem?_getD, List.getElem?_eq_getElem hi]
      rw [Option.getD_some, h2 _ (List.getElem_mem hi)]
      exact hq
    -- the shape of the functions after a record is written
    have hlen : ∀ (u v : State) (rec : Nat), ringWrite u f q rec = some v → u.funcs.length = 44 →
        (∀ x ∈ u.funcs, x.queues.length = 16) → v.funcs.length = 44 ∧ ∀ x ∈ v.funcs, x.queues.length = 16 := by
      have hm : ∀ (u : State) (i : Nat) (g : Func → Func), (∀ x, (g x).queues.length = x.queues.length) →
          u.funcs.length = 44 → (∀ x ∈ u.funcs, x.queues.length = 16) →
          (modFunc u i g).funcs.length = 44 ∧ ∀ x ∈ (modFunc u i g).funcs, x.queues.length = 16 := by
        intro u i g hg a b
        exact ⟨by unfold modFunc; simp [a], forall_modify (fun x hx => (hg x).trans hx) b⟩
      have hr : ∀ (u : State) (v : Nat), u.funcs.length = 44 → (∀ x ∈ u.funcs, x.queues.length = 16) →
          (raiseVector u f v).funcs.length = 44 ∧ ∀ x ∈ (raiseVector u f v).funcs, x.queues.length = 16 := by
        intro u v a b
        obtain ⟨c, d⟩ := hm u f (fun y => { y with intStatus := y.intStatus ||| (1#64 <<< v) }) (by intro _; rfl) a b
        unfold raiseVector
        dsimp only
        split
        · exact ⟨c, d⟩
        · split
          · exact hm _ _ _ (by intro _; rfl) c d
          · split <;> exact ⟨c, d⟩
      intro u v rec e a b
      unfold ringWrite at e
      dsimp only at e
      split at e
      · cases e
      · rename_i s1 e1
        rw [← keeperWrite_funcs e1] at a b
        have c := hm s1 f (fun y => { y with queues := y.queues.modify q (fun x => { x with
          prod := (x.prod + 1) % 2 ^ 32, unannounced := x.unannounced + 1 }) }) (by intro _; simp) a b
        split at e <;> cases e
        · exact hr _ _ (hm _ _ _ (by intro _; simp) c.1 c.2).1 (hm _ _ _ (by intro _; simp) c.1 c.2).2
        · exact c
    have hm : ∀ (u : State) (i : Nat) (g : Queue → Queue),
        u.funcs.length = 44 → (∀ x ∈ u.funcs, x.queues.length = 16) →
        (modQueue u i q g).funcs.length = 44 ∧ ∀ x ∈ (modQueue u i q g).funcs, x.queues.length = 16 := by
      intro u i g a b
      exact ⟨by unfold modQueue modFunc; simp [a], forall_modify (fun x hx => by simp [hx]) b⟩
    unfold drainQueue
    dsimp only
    split
    · exact ⟨0, rfl, fun h => absurd rfl h⟩
    · rename_i hroom
      have hroom : ringRoom (queueAt s f q) = true := by simpa using hroom
      split
      · split
        · exact ⟨0, rfl, fun h => absurd rfl h⟩
        · rename_i s1 e
          obtain ⟨c, d⟩ := hlen _ _ _ e h1 h2
          obtain ⟨c, d⟩ := hm (modFlash s1 (fun y => { y with
            log := y.log ++ [lostEvent s (queueAt s f q)], written := y.written + 32 })) f (fun x => { x with lost := 0 }) c d
          obtain ⟨j, hj, _⟩ := ih _ c d
          refine ⟨j, ?_, fun _ => hroom⟩
          rw [hj, queueAt_modQueue_keeps Queue.staged _ _ _ (by intro _; rfl), queueAt_modFlash,
            ringWrite_keeps Queue.staged (by intro _ _ _; rfl) e]
      · split
        · exact ⟨0, rfl, fun h => absurd rfl h⟩
        · rename_i r rest hst
          split
          · exact ⟨0, rfl, fun h => absurd rfl h⟩
          · rename_i s1 e
            obtain ⟨c, d⟩ := hlen _ _ _ e h1 h2
            obtain ⟨c', d'⟩ := hm s1 f (fun x => { x with staged := rest }) c d
            obtain ⟨j, hj, _⟩ := ih _ c' d'
            refine ⟨j + 1, ?_, fun _ => hroom⟩
            have hl : f < s1.funcs.length := by omega
            have hl2 : q < (funcAt s1 f).queues.length := by
              have : (funcAt s1 f).queues.length = 16 := by
                unfold funcAt
                rw [List.getD_eq_getElem?_getD, List.getElem?_eq_getElem hl, Option.getD_some]
                exact d _ (List.getElem_mem hl)
              omega
            rw [hj, queueAt_modQueue_same _ _ _ _ hl hl2, hst]
            rfl

/-- What moving records leaves of every other queue, and of this one's binding, HEAD and BADHEAD. -/
theorem flushQueue_other {g k f q : Nat} (hne : (g, k) ≠ (f, q)) : queueAt (flushQueue s f q) g k = queueAt s g k := by
  unfold flushQueue
  dsimp only
  split
  · exact drainQueue_other hne _ _
  · rfl

theorem flushQueue_keeps {α : Type} (π : Queue → α)
    (hπ : ∀ x p u st l, π { x with prod := p, unannounced := u, staged := st, lost := l } = π x) (f q g k : Nat) :
    π (queueAt (flushQueue s f q) g k) = π (queueAt s g k) := by
  unfold flushQueue
  dsimp only
  split
  · exact drainQueue_keeps π hπ g k _ _ _ _
  · rfl

/-! ### What moving records leaves of a function -/

theorem ringWrite_func {α : Type} (π : Func → α) (h1 : ∀ x b, π { x with queues := b } = π x)
    (h2 : ∀ x i p, π { x with intStatus := i, pba := p } = π x) {f q rec : Nat} (h : ringWrite s f q rec = some t) (k : Nat) :
    π (funcAt t k) = π (funcAt s k) := by
  unfold ringWrite at h
  dsimp only at h
  split at h
  · cases h
  · rename_i s1 e
    have hk : π (funcAt s1 k) = π (funcAt s k) := by
      unfold funcAt
      rw [keeperWrite_funcs e]
    rw [← hk]
    split at h <;> cases h
    · rw [raiseVector_func π h2]
      exact (funcAt_modFunc_keeps π _ _ _ (fun x => h1 x _)).trans (funcAt_modFunc_keeps π _ _ _ (fun x => h1 x _))
    · exact funcAt_modFunc_keeps π _ _ _ (fun x => h1 x _)

theorem drainQueue_func {α : Type} (π : Func → α) (h1 : ∀ x b, π { x with queues := b } = π x)
    (h2 : ∀ x i p, π { x with intStatus := i, pba := p } = π x) (k : Nat) :
    ∀ (n : Nat) (s : State) (f q : Nat), π (funcAt (drainQueue n s f q) k) = π (funcAt s k) := by
  intro n
  induction n with
  | zero => intro s f q; rfl
  | succ n ih =>
    intro s f q
    unfold drainQueue
    dsimp only
    split
    · rfl
    · split
      · split
        · rfl
        · rename_i s1 e
          exact (ih _ _ _).trans ((funcAt_modFunc_keeps π _ _ _ (fun x => h1 x _)).trans (ringWrite_func π h1 h2 e k))
      · split
        · rfl
        · split
          · rfl
          · rename_i s1 e
            exact (ih _ _ _).trans ((funcAt_modFunc_keeps π _ _ _ (fun x => h1 x _)).trans (ringWrite_func π h1 h2 e k))

theorem flushQueue_func {α : Type} (π : Func → α) (h1 : ∀ x b, π { x with queues := b } = π x)
    (h2 : ∀ x i p, π { x with intStatus := i, pba := p } = π x) (f q k : Nat) :
    π (funcAt (flushQueue s f q) k) = π (funcAt s k) := by
  unfold flushQueue
  dsimp only
  split
  · exact drainQueue_func π h1 h2 k _ _ _ _
  · rfl

theorem flushFunc_func {α : Type} (π : Func → α) (h1 : ∀ x b, π { x with queues := b } = π x)
    (h2 : ∀ x i p, π { x with intStatus := i, pba := p } = π x) (f k : Nat) :
    π (funcAt (flushFunc s f) k) = π (funcAt s k) := by
  unfold flushFunc
  generalize List.range 16 = qs
  induction qs generalizing s with
  | nil => rfl
  | cons q qs ih => exact ih.trans (flushQueue_func π h1 h2 f q k)

/-- What a completion record leaves of a function besides its queues, its interrupt state and the tags reported. -/
theorem postRecord_func {α : Type} (π : Func → α) (h1 : ∀ x b, π { x with queues := b } = π x)
    (h2 : ∀ x i p, π { x with intStatus := i, pba := p } = π x) (h3 : ∀ x b, π { x with reported := b } = π x)
    (f q : Nat) (tag : Option Nat) (rec k : Nat) : π (funcAt (postRecord s f q tag rec) k) = π (funcAt s k) := by
  unfold postRecord
  dsimp only
  split
  · exact (flushQueue_func π h1 h2 _ _ _).trans ((funcAt_modFunc_keeps π _ _ _ (fun x => h3 x _)).trans
      (funcAt_modFunc_keeps π _ _ _ (fun x => h1 x _)))
  · rfl

end Sys2Proof.Machine
end

