-- ==== Sys2Proof/Laws/Resets.lean ====
section
/-! SUPPORT. Laws/Resets.lean: what daymarks, compute resets, router-only mode and loss of power leave and change (R341 to
R345, R355, R408, R410). -/

namespace Sys2Proof.Machine

variable {s t : State}

/-! ### Events -/

/-- An event touches the units not at all, and of flash the log alone. -/
theorem raiseEventMore_units (code : Nat) (mooring : Option Nat) (unit detail : Nat) (more : List Nat) :
    SameUnits s (raiseEventMore s code mooring unit detail more) := by
  obtain ⟨e, _, _, _, h⟩ := raiseEventMore_outward (s := s) code mooring unit detail more
  exact SameUnits.trans ⟨rfl, rfl, rfl, rfl, rfl, rfl, rfl, rfl⟩ h.1

theorem raiseEventIn_units (dom : Domain) (code : Nat) (mooring : Option Nat) (unit detail : Nat) (more : List Nat) :
    SameUnits s (raiseEventIn s dom code mooring unit detail more) := by
  obtain ⟨e, _, _, _, h⟩ := raiseEventIn_outward (s := s) dom code mooring unit detail more
  exact SameUnits.trans ⟨rfl, rfl, rfl, rfl, rfl, rfl, rfl, rfl⟩ h.1

theorem raiseEvent_units (code : Nat) (mooring : Option Nat) (unit detail : Nat) :
    SameUnits s (raiseEvent s code mooring unit detail) := raiseEventMore_units _ _ _ _ _

theorem raiseEventP_units (code unit detail : Nat) : SameUnits s (raiseEventP s code unit detail) := raiseEventMore_units _ _ _ _ _

theorem raiseEvent_flash (code : Nat) (mooring : Option Nat) (unit detail : Nat) :
    ∃ e : Event, e.code = code ∧ e.unit = unit ∧ e.detail = detail ∧
      LogGrows (logged s e).flash (raiseEvent s code mooring unit detail).flash := by
  obtain ⟨e, h1, h2, h3, h⟩ := raiseEvent_outward (s := s) code mooring unit detail
  exact ⟨e, h1, h2, h3, h.2.1⟩

theorem lanternAt_of_units (h : SameUnits s t) (l : Nat) : lanternAt t l = lanternAt s l := by
  unfold lanternAt
  rw [h.2.2.2.1]

theorem towerAt_of_units (h : SameUnits s t) (k : Nat) : towerAt t k = towerAt s k := by
  unfold towerAt
  rw [h.2.2.2.2.1]

theorem mooringAt_of_units (h : SameUnits s t) (k : Nat) : mooringAt t k = mooringAt s k := by
  unfold mooringAt
  rw [h.2.2.1]

/-! ### Daymarks -/

/-- Advancing a daymark leaves of a lantern everything but its daymark. -/
theorem advanceDaymark_lantern {α : Type} (π : Lantern → α) (hπ : ∀ x d, π { x with daymark := d } = π x) (d : Domain) (l : Nat) :
    π (lanternAt (advanceDaymark s d) l) = π (lanternAt s l) := by
  have h : ∀ u : State, π (lanternAt (stepDaymark u d) l) = π (lanternAt u l) := by
    intro u
    cases d with
    | lantern k =>
      show π (lanternAt (modLantern u k _) l) = _
      rw [lanternAt_modLantern]
      split
      · rename_i h
        exact hπ _ _
      · rfl
    | tower _ => rfl
    | shore _ => rfl
    | keeper => rfl
    | mooring _ => rfl
  unfold advanceDaymark
  split
  · exact h s
  · rfl

theorem advanceDaymark_tower {α : Type} (π : Tower → α) (hπ : ∀ x d, π { x with daymark := d } = π x) (d : Domain) (k : Nat) :
    π (towerAt (advanceDaymark s d) k) = π (towerAt s k) := by
  have h : ∀ u : State, π (towerAt (stepDaymark u d) k) = π (towerAt u k) := by
    intro u
    cases d with
    | tower j =>
      show π (towerAt (modTower u j _) k) = _
      unfold towerAt modTower
      dsimp only
      rw [getD_modify_le]
      split
      · exact hπ _ _
      · rfl
    | lantern _ => rfl
    | shore _ => rfl
    | keeper => rfl
    | mooring _ => rfl
  unfold advanceDaymark
  split
  · exact h s
  · rfl

/-- Advancing a daymark touches daymarks and the Keeper's books of them alone. -/
theorem advanceDaymark_rest (d : Domain) : (advanceDaymark s d).boot = s.boot ∧ (advanceDaymark s d).power = s.power ∧
    (advanceDaymark s d).mem = s.mem ∧ (advanceDaymark s d).poison = s.poison ∧ (advanceDaymark s d).flash = s.flash ∧
    (advanceDaymark s d).router = s.router ∧ (advanceDaymark s d).time = s.time ∧ (advanceDaymark s d).funcs = s.funcs ∧
    (advanceDaymark s d).host = s.host ∧ (advanceDaymark s d).sysChans = s.sysChans ∧ (advanceDaymark s d).out = s.out := by
  have h : ∀ u : State, (stepDaymark u d).boot = u.boot ∧ (stepDaymark u d).power = u.power ∧ (stepDaymark u d).mem = u.mem ∧
      (stepDaymark u d).poison = u.poison ∧ (stepDaymark u d).flash = u.flash ∧ (stepDaymark u d).router = u.router ∧
      (stepDaymark u d).time = u.time ∧ (stepDaymark u d).funcs = u.funcs ∧ (stepDaymark u d).host = u.host ∧
      (stepDaymark u d).sysChans = u.sysChans ∧ (stepDaymark u d).out = u.out := by
    intro u
    cases d <;> exact ⟨rfl, rfl, rfl, rfl, rfl, rfl, rfl, rfl, rfl, rfl, rfl⟩
  unfold advanceDaymark
  split
  · exact h s
  · exact ⟨rfl, rfl, rfl, rfl, rfl, rfl, rfl, rfl, rfl, rfl, rfl⟩

/-! ### Stopping and holding -/

theorem lanternAt_modLantern_pi {α : Type} (π : Lantern → α) (l k : Nat) (f : Lantern → Lantern) (hf : ∀ x, π (f x) = π x) :
    π (lanternAt (modLantern s l f) k) = π (lanternAt s k) := by
  rw [lanternAt_modLantern]
  split
  · exact hf _
  · rfl

/-- The units and flash stay, and the functions: only memory, what is on its way and open values may change. -/
def SameCore (s t : State) : Prop := SameUnits s t ∧ t.flash = s.flash ∧ t.funcs = s.funcs

theorem SameCore.refl (s : State) : SameCore s s := ⟨SameUnits.refl s, rfl, rfl⟩

theorem SameCore.trans {u : State} (h : SameCore s t) (k : SameCore t u) : SameCore s u :=
  ⟨h.1.trans k.1, k.2.1.trans h.2.1, k.2.2.trans h.2.2⟩

theorem sameCore_foldl {α : Type} {g : State → α → State} (hg : ∀ s a, SameCore s (g s a)) (xs : List α) :
    SameCore s (xs.foldl g s) := by
  induction xs generalizing s with
  | nil => exact SameCore.refl s
  | cons x xs ih => exact (hg s x).trans ih

theorem sameCore_writeMem (a : Nat) (bs : List Byte) : SameCore s (writeMem s a bs) := by
  have hl : ∀ (ls : List Nat) (s : State), (writeLines s a bs ls).funcs = s.funcs := by
    intro ls
    induction ls with
    | nil => intro s; rfl
    | cons l ls ih =>
      intro s
      refine (ih _).trans ?_
      unfold writeLine
      dsimp only
      split <;> rfl
  refine ⟨(writeMem_units a bs).1, (writeMem_units a bs).2.1, ?_⟩
  unfold writeMem
  split
  · rfl
  · exact hl _ _

theorem sameCore_writePiece (c : Chan) (ctx : Ctx) (w : Writing) (p : Nat × List Byte) :
    SameCore w.s (writePiece c ctx w p).s := by
  unfold writePiece
  dsimp only
  split
  · exact sameCore_writeMem _ _
  · rename_i k a _
    obtain ⟨r, n, e⟩ := onlyRouter_peerWrites (lanternTower ((chanLantern c).getD 0)) ((chanMooring w.s c).getD 0xFFFF) (chanDomain c) k a
      p.2 (fun y => .dmaWrite c (p.1 + (y - a))) (peerPieces (p.2.length + 1) a p.2.length) w.s
    dsimp only
    rw [e]
    exact ⟨⟨rfl, rfl, rfl, rfl, rfl, rfl, rfl, rfl⟩, rfl, rfl⟩
  · split
    · split
      · exact ⟨⟨rfl, rfl, rfl, rfl, rfl, rfl, rfl, rfl⟩, rfl, rfl⟩
      · exact SameCore.refl _
    · exact SameCore.refl _
  · exact SameCore.refl _

theorem sameCore_openLines (cells : List (Nat × Byte)) : ∀ (ls : List Nat) (s : State), SameCore s (openLines cells ls s).2 := by
  intro ls
  induction ls with
  | nil => intro s; exact SameCore.refl s
  | cons l ls ih =>
    intro s
    unfold openLines
    dsimp only
    exact SameCore.trans (t := (drawFree s).2) ⟨⟨rfl, rfl, rfl, rfl, rfl, rfl, rfl, rfl⟩, rfl, rfl⟩ (ih _)

/-- The transfers that a reset cuts off change memory and what is on its way alone (R187, R342). -/
theorem sameCore_cutFlights (s : State) (l : Nat) : SameCore s (cutFlights s l) := by
  have hw : ∀ (c : Chan) (ctx : Ctx) (runs : List (Nat × List Byte)) (w : Writing),
      SameCore w.s (runs.foldl (fun w p => if pieceDropped w.s ctx p then w else writePiece c ctx w p) w).s := by
    intro c ctx runs
    induction runs with
    | nil => intro w; exact SameCore.refl _
    | cons p ps ih =>
      intro w
      refine SameCore.trans ?_ (ih _)
      dsimp only
      split
      · exact SameCore.refl _
      · exact sameCore_writePiece _ _ _ _
  refine sameCore_foldl (fun s c => sameCore_foldl (fun s f => ?_) _) _
  unfold cutFlight
  split
  · exact SameCore.refl _
  · unfold writeSome openCells
    exact (sameCore_openLines _ _ _).trans (hw _ _ _ _)

/-- A lantern's reset phases 1 and 2 (R342): in reset, no work, its test and hold marks as before. -/
theorem stopLantern_same {l : Nat} (hl0 : l < s.lanterns.length) :
    (lanternAt (stopLantern s l) l).rst = ⟨true, nowNs s, (lanternAt s l).rst.test, (lanternAt s l).rst.held⟩ ∧
    (lanternAt (stopLantern s l) l).running = false ∧ (lanternAt (stopLantern s l) l).bindQ = [] ∧
    (lanternAt (stopLantern s l) l).lensQ = [] ∧ (lanternAt (stopLantern s l) l).coll = [] ∧
    (lanternAt (stopLantern s l) l).vec.cur = none := by
  have hc := sameCore_cutFlights s l
  have hl : l < (cutFlights s l).lanterns.length := by rw [hc.1.2.2.2.1]; exact hl0
  unfold stopLantern
  dsimp only
  split
  · rw [advanceDaymark_lantern Lantern.rst (by intro _ _; rfl), advanceDaymark_lantern Lantern.running (by intro _ _; rfl),
      advanceDaymark_lantern Lantern.bindQ (by intro _ _; rfl), advanceDaymark_lantern Lantern.lensQ (by intro _ _; rfl),
      advanceDaymark_lantern Lantern.coll (by intro _ _; rfl), advanceDaymark_lantern Lantern.vec (by intro _ _; rfl),
      lanternAt_modLantern_same _ _ _ hl, lanternAt_of_units hc.1]
    exact ⟨rfl, rfl, rfl, rfl, rfl, rfl⟩
  · rw [lanternAt_modLantern_same _ _ _ hl, lanternAt_of_units hc.1]
    exact ⟨rfl, rfl, rfl, rfl, rfl, rfl⟩

/-- Another lantern keeps everything but, at most, nothing. -/
theorem stopLantern_other {α : Type} (π : Lantern → α) (hπ : ∀ x d, π { x with daymark := d } = π x) {l k : Nat} (h : k ≠ l) :
    π (lanternAt (stopLantern s l) k) = π (lanternAt s k) := by
  unfold stopLantern
  dsimp only
  split
  · rw [advanceDaymark_lantern π hπ, lanternAt_modLantern_other _ _ h, lanternAt_of_units (sameCore_cutFlights s l).1]
  · rw [lanternAt_modLantern_other _ _ h, lanternAt_of_units (sameCore_cutFlights s l).1]

theorem stopLantern_length (l : Nat) : (stopLantern s l).lanterns.length = s.lanterns.length := by
  have h : ∀ (u : State) (d : Domain), (advanceDaymark u d).lanterns.length = u.lanterns.length := by
    intro u d
    unfold advanceDaymark advanceNow noteAdvance modKeeper
    split
    · cases d <;> simp [stepDaymark, modLantern, modTower, modShore, modKeeper, modMooring]
    · rfl
  have hc := (sameCore_cutFlights s l).1.2.2.2.1
  unfold stopLantern
  dsimp only
  split
  · rw [h]
    simp [modLantern, hc]
  · simp [modLantern, hc]

/-- What stopping a lantern leaves alone. -/
theorem stopLantern_rest (l : Nat) : (stopLantern s l).boot = s.boot ∧ (stopLantern s l).power = s.power ∧
    (stopLantern s l).flash = s.flash ∧ (stopLantern s l).time = s.time ∧ (stopLantern s l).funcs = s.funcs ∧
    (stopLantern s l).sysChans = s.sysChans := by
  obtain ⟨⟨u1, u2, _, _, _, u6, u7, _⟩, u9, u10⟩ := sameCore_cutFlights s l
  unfold stopLantern
  generalize cutFlights s l = u at u1 u2 u6 u7 u9 u10
  dsimp only
  split
  · obtain ⟨a1, a2, _, _, a5, _, a7, a8, _, a10, _⟩ := advanceDaymark_rest (s := modLantern u l (fun y => { dropWork y with
      fault := y.fault || (y.running && y.mooring.isSome) || ((y.mooring.bind (mooringAt s)).map (·.stepOn)).getD false,
      rst := ⟨true, nowNs s, y.rst.test, y.rst.held⟩ })) (.lantern l)
    exact ⟨a1.trans u2, a2.trans u1, a5.trans u9, a7.trans u7, a8.trans u10, a10.trans u6⟩
  · exact ⟨u2, u1, u9, u7, u10, u6⟩

theorem stopLantern_tower (l k : Nat) : (towerAt (stopLantern s l) k).rst = (towerAt s k).rst := by
  have hc := towerAt_of_units (sameCore_cutFlights s l).1 k
  unfold stopLantern
  generalize cutFlights s l = u at hc
  dsimp only
  split
  · refine (advanceDaymark_tower Tower.rst (by intro _ _; rfl) _ _).trans ?_
    show (towerAt u k).rst = _
    rw [hc]
  · show (towerAt u k).rst = _
    rw [hc]

/-- One lantern held: it and no other. -/
def holdOne (s : State) (l : Nat) : State :=
  modLantern (stopLantern s l) l (fun x => { x with rst := { x.rst with held := true } })

/-- A lantern held in reset and idle. -/
def HeldIdle (x : Lantern) : Prop := Held x.rst ∧ x.running = false

theorem holdOne_held {l k : Nat} (hl : l < s.lanterns.length) (h : k = l ∨ HeldIdle (lanternAt s k)) :
    HeldIdle (lanternAt (holdOne s l) k) := by
  by_cases hk : k = l
  · subst hk
    obtain ⟨a, b, _⟩ := stopLantern_same (s := s) hl
    unfold holdOne HeldIdle Held
    rw [lanternAt_modLantern_same _ _ _ (by rw [stopLantern_length]; exact hl)]
    dsimp only
    rw [a, b]
    exact ⟨⟨rfl, rfl⟩, rfl⟩
  · have h2 : HeldIdle (lanternAt s k) := h.resolve_left hk
    unfold holdOne HeldIdle Held at *
    rw [lanternAt_modLantern_other _ _ hk, stopLantern_other Lantern.rst (by intro _ _; rfl) hk,
      stopLantern_other Lantern.running (by intro _ _; rfl) hk]
    exact h2

theorem holdOne_length (l : Nat) : (holdOne s l).lanterns.length = s.lanterns.length := by
  unfold holdOne modLantern
  simp [stopLantern_length]

theorem holdOne_foldl (ls : List Nat) : ∀ (s : State), (∀ l ∈ ls, l < s.lanterns.length) →
    (∀ k, (k ∈ ls ∨ HeldIdle (lanternAt s k)) → HeldIdle (lanternAt (ls.foldl holdOne s) k)) ∧
    (ls.foldl holdOne s).lanterns.length = s.lanterns.length ∧ (ls.foldl holdOne s).boot = s.boot ∧
    (ls.foldl holdOne s).time = s.time ∧ (ls.foldl holdOne s).flash = s.flash ∧ (ls.foldl holdOne s).power = s.power ∧
    (∀ k, (towerAt (ls.foldl holdOne s) k).rst = (towerAt s k).rst) := by
  induction ls with
  | nil =>
    intro s _
    exact ⟨fun k h => h.resolve_left (by simp), rfl, rfl, rfl, rfl, rfl, fun _ => rfl⟩
  | cons l ls ih =>
    intro s hl
    have h1 : l < s.lanterns.length := hl l (by simp)
    obtain ⟨a, b, c, d, f, h, i⟩ := ih (holdOne s l) (fun k hk => by rw [holdOne_length]; exact hl k (by simp [hk]))
    obtain ⟨r1, r2, r5, r7, _⟩ := stopLantern_rest (s := s) l
    refine ⟨?_, b.trans (holdOne_length l), c.trans r1, d.trans r7, f.trans r5, h.trans r2,
      fun k => (i k).trans (stopLantern_tower l k)⟩
    intro k hk
    apply a
    rcases hk with hk | hk
    · rcases List.mem_cons.1 hk with hk | hk
      · exact .inr (holdOne_held h1 (.inl hk))
      · exact .inl hk
    · exact .inr (holdOne_held h1 (.inr hk))

/-! ### Router-only mode -/

theorem advanceDaymark_length (s : State) (d : Domain) : (advanceDaymark s d).lanterns.length = s.lanterns.length ∧
    (advanceDaymark s d).towers.length = s.towers.length ∧ (advanceDaymark s d).shore.length = s.shore.length := by
  unfold advanceDaymark advanceNow noteAdvance modKeeper
  split
  · cases d <;> simp [stepDaymark, modLantern, modTower, modShore, modKeeper, modMooring]
  · exact ⟨rfl, rfl, rfl⟩

theorem advanceDaymark_moorings (d : Domain) (hd : ∀ id, d ≠ .mooring id) : (advanceDaymark s d).moorings = s.moorings := by
  unfold advanceDaymark advanceNow noteAdvance modKeeper
  split
  · cases d with
    | mooring id => exact absurd rfl (hd id)
    | _ => rfl
  · rfl

theorem stopLantern_lists (l : Nat) : (stopLantern s l).towers.length = s.towers.length ∧
    (stopLantern s l).shore.length = s.shore.length ∧ (stopLantern s l).moorings = s.moorings := by
  obtain ⟨⟨_, _, u3, _, u5, _, _, u8⟩, _⟩ := sameCore_cutFlights s l
  unfold stopLantern
  generalize cutFlights s l = u at u3 u5 u8
  dsimp only
  split
  · obtain ⟨_, b, c⟩ := advanceDaymark_length (modLantern u l (fun y => { dropWork y with
      fault := y.fault || (y.running && y.mooring.isSome) || ((y.mooring.bind (mooringAt s)).map (·.stepOn)).getD false,
      rst := ⟨true, nowNs s, y.rst.test, y.rst.held⟩ })) (.lantern l)
    exact ⟨b.trans (congrArg List.length u5), c.trans (congrArg List.length u8), (advanceDaymark_moorings _ (by intro _ h; cases h)).trans u3⟩
  · exact ⟨congrArg List.length u5, congrArg List.length u8, u3⟩

theorem holdOne_foldl_lists (ls : List Nat) : ∀ (s : State), (ls.foldl holdOne s).towers.length = s.towers.length ∧
    (ls.foldl holdOne s).shore.length = s.shore.length ∧ (ls.foldl holdOne s).moorings = s.moorings := by
  induction ls with
  | nil => intro s; exact ⟨rfl, rfl, rfl⟩
  | cons l ls ih =>
    intro s
    obtain ⟨a, b, c⟩ := ih (holdOne s l)
    obtain ⟨d, e, f⟩ := stopLantern_lists (s := s) l
    exact ⟨a.trans d, b.trans e, c.trans f⟩

theorem mem_towerLanterns {t l : Nat} : l ∈ towerLanterns t ↔ 48 * t ≤ l ∧ l < 48 * t + 48 := by
  unfold towerLanterns
  simp only [List.mem_map, List.mem_range]
  constructor
  · rintro ⟨i, hi, rfl⟩
    omega
  · intro h
    exact ⟨l - 48 * t, by omega, by omega⟩

/-- Holding a tower, its lanterns apart. -/
def holdAll (n : Nat) (u : State) (t : Nat) : State :=
  let s2 := modTower u t (fun x => { x with rst := ⟨true, n, false, true⟩ })
  advanceDaymark (modBoot s2 (fun b => { b with held := setAt b.held t true, towers := setAt b.towers t false })) (.tower t)

theorem holdTower_eq (s : State) (t : Nat) : holdTower s t = holdAll (nowNs s) (List.foldl holdOne s (towerLanterns t)) t := by
  have e : holdOne = fun s l => modLantern (stopLantern s l) l (fun x => { x with rst := { x.rst with held := true } }) := rfl
  unfold holdTower holdAll
  rw [e]

/-- What holding a tower does (R355): its lanterns are held and idle, itself is held, a held unit stays held. -/
theorem holdTower_held (s : State) (t : Nat) (ht : t < s.towers.length) (hl : 48 * t + 48 ≤ s.lanterns.length) :
    (∀ k, (k ∈ towerLanterns t ∨ HeldIdle (lanternAt s k)) → HeldIdle (lanternAt (holdTower s t) k)) ∧
    (∀ k, (k = t ∨ Held (towerAt s k).rst) → Held (towerAt (holdTower s t) k).rst) := by
  obtain ⟨a, b, c, d, f, h, i⟩ := holdOne_foldl (towerLanterns t) s
    (fun l h => by have := mem_towerLanterns.1 h; omega)
  have hlen : t < (List.foldl holdOne s (towerLanterns t)).towers.length := by
    rw [(holdOne_foldl_lists _ s).1]; exact ht
  rw [holdTower_eq]
  generalize List.foldl holdOne s (towerLanterns t) = u at a i hlen
  constructor
  · intro k hk
    unfold holdAll HeldIdle
    dsimp only
    rw [advanceDaymark_lantern Lantern.rst (by intro _ _; rfl), advanceDaymark_lantern Lantern.running (by intro _ _; rfl)]
    exact a k hk
  · intro k hk
    unfold holdAll
    dsimp only
    rw [advanceDaymark_tower Tower.rst (by intro _ _; rfl)]
    show Held (towerAt (modTower u t _) k).rst
    unfold towerAt modTower
    dsimp only
    rw [getD_modify_le]
    split
    · exact ⟨rfl, rfl⟩
    · rename_i hne
      have hk2 : Held (towerAt s k).rst := hk.resolve_left (fun h => hne ⟨h, by rw [h]; exact hlen⟩)
      have := i k
      unfold towerAt at this hk2
      rw [this]
      exact hk2

theorem holdTower_lists (s : State) (t : Nat) : (holdTower s t).lanterns.length = s.lanterns.length ∧
    (holdTower s t).towers.length = s.towers.length ∧ (holdTower s t).shore.length = s.shore.length ∧
    (holdTower s t).moorings = s.moorings := by
  obtain ⟨b, c, d⟩ := holdOne_foldl_lists (towerLanterns t) s
  have a : ∀ ls (s : State), (List.foldl holdOne s ls).lanterns.length = s.lanterns.length := by
    intro ls
    induction ls with
    | nil => intro s; rfl
    | cons l ls ih => intro s; exact (ih _).trans (holdOne_length l)
  have a' := a (towerLanterns t) s
  rw [holdTower_eq]
  generalize List.foldl holdOne s (towerLanterns t) = u at a' b c d
  unfold holdAll
  dsimp only
  obtain ⟨e, f, g⟩ := advanceDaymark_length (modBoot (modTower u t
    (fun x => { x with rst := ⟨true, nowNs s, false, true⟩ }))
    (fun b => { b with held := setAt b.held t true, towers := setAt b.towers t false })) (.tower t)
  refine ⟨e.trans a', f.trans ?_, g.trans c, (advanceDaymark_moorings _ (by intro _ h; cases h)).trans d⟩
  show (List.modify _ _ _).length = _
  rw [List.length_modify]
  exact b

/-- What holding a tower leaves of the rest. -/
theorem holdTower_rest (s : State) (t : Nat) : (holdTower s t).power = s.power ∧ (holdTower s t).flash = s.flash ∧
    (holdTower s t).time = s.time ∧
    (holdTower s t).boot = { s.boot with held := setAt s.boot.held t true, towers := setAt s.boot.towers t false } := by
  have h : ∀ ls (s : State), (List.foldl holdOne s ls).power = s.power ∧ (List.foldl holdOne s ls).flash = s.flash ∧
      (List.foldl holdOne s ls).time = s.time ∧ (List.foldl holdOne s ls).boot = s.boot := by
    intro ls
    induction ls with
    | nil => intro s; exact ⟨rfl, rfl, rfl, rfl⟩
    | cons l ls ih =>
      intro s
      obtain ⟨a, b, c, f⟩ := ih (holdOne s l)
      obtain ⟨r1, r2, r5, r7, _⟩ := stopLantern_rest (s := s) l
      exact ⟨a.trans r2, b.trans r5, c.trans r7, f.trans r1⟩
  obtain ⟨a, b, c, f⟩ := h (towerLanterns t) s
  rw [holdTower_eq]
  generalize List.foldl holdOne s (towerLanterns t) = u at a b c f
  unfold holdAll
  dsimp only
  obtain ⟨a1, a2, a3, a4, a5, a6, a7, a8, a9, a10, _⟩ := advanceDaymark_rest (s := modBoot (modTower u t
    (fun x => { x with rst := ⟨true, nowNs s, false, true⟩ }))
    (fun b => { b with held := setAt b.held t true, towers := setAt b.towers t false })) (.tower t)
  refine ⟨a2.trans a, a5.trans b, a7.trans c, a1.trans ?_⟩
  exact congrArg (fun b : Boot => { b with held := setAt b.held t true, towers := setAt b.towers t false }) f

/-- What stopping shore cores leaves and does. -/
theorem stopCores_all (s : State) (p : ShoreCore → Bool) :
    (∃ sh, stopCores s p = { s with shore := sh } ∧ sh.length = s.shore.length) ∧
    (∀ c, p (s.shore.getD c ShoreCore.reset) = true → c < 12 → (((stopCores s p).shore.getD c ShoreCore.reset).running = false)) ∧
    (∀ c, (s.shore.getD c ShoreCore.reset).running = false → ((stopCores s p).shore.getD c ShoreCore.reset).running = false) := by
  have hone : ∀ (s : State) (c k : Nat), ((stopCore s c).shore.getD k ShoreCore.reset).running =
      (if k = c then false else (s.shore.getD k ShoreCore.reset).running) := by
    intro s c k
    unfold stopCore modShore
    dsimp only
    rw [getD_modify_le]
    split
    · rename_i h
      rw [if_pos h.1]
      rfl
    · rename_i h
      split
      · rename_i hk
        have hn : s.shore.length ≤ k := Nat.le_of_not_lt (fun hlt => h ⟨hk, hk ▸ hlt⟩)
        rw [List.getD_eq_getElem?_getD, List.getElem?_eq_none hn]
        rfl
      · rfl
  have gen : ∀ (cs : List Nat) (s : State),
      let u := cs.foldl (fun s c => if p (s.shore.getD c ShoreCore.reset) then stopCore s c else s) s
      (∃ sh, u = { s with shore := sh } ∧ sh.length = s.shore.length) ∧
      (∀ c, (s.shore.getD c ShoreCore.reset).running = false → (u.shore.getD c ShoreCore.reset).running = false) := by
    intro cs
    induction cs with
    | nil => intro s; exact ⟨⟨s.shore, rfl, rfl⟩, fun _ h => h⟩
    | cons c cs ih =>
      intro s
      simp only [List.foldl_cons]
      split
      · obtain ⟨⟨sh, e, el⟩, k⟩ := ih (stopCore s c)
        refine ⟨⟨sh, e, el.trans ?_⟩, fun d hd => k d ?_⟩
        · unfold stopCore modShore
          simp
        · rw [hone]
          split
          · rfl
          · exact hd
      · exact ih s
  refine ⟨(gen _ _).1, ?_, (gen _ _).2⟩
  intro c hc h12
  have gen2 : ∀ (cs : List Nat) (s : State), (p (s.shore.getD c ShoreCore.reset) = true ∨ (s.shore.getD c ShoreCore.reset).running = false) → c ∈ cs →
      ((cs.foldl (fun s c => if p (s.shore.getD c ShoreCore.reset) then stopCore s c else s) s).shore.getD c ShoreCore.reset).running = false := by
    intro cs
    induction cs with
    | nil => intro s _ h; simp at h
    | cons d cs ih =>
      intro s h hm
      by_cases hd : c = d
      · subst hd
        simp only [List.foldl_cons]
        apply (gen cs _).2
        rcases h with h | h
        · rw [if_pos h, hone, if_pos rfl]
        · split
          · rw [hone, if_pos rfl]
          · exact h
      · have hm2 : c ∈ cs := (List.mem_cons.1 hm).resolve_left hd
        simp only [List.foldl_cons]
        apply ih _ ?_ hm2
        split
        · have e : (stopCore s d).shore.getD c ShoreCore.reset = s.shore.getD c ShoreCore.reset := by
            unfold stopCore modShore
            dsimp only
            rw [getD_modify_le, if_neg (fun h => hd h.1)]
          rw [e]
          exact h
        · exact h
  exact gen2 _ s (.inl hc) (List.mem_range.2 h12)

/-- Ending the fill changes the filling marks alone. -/
theorem endFill_lantern (s : State) (k : Nat) : lanternAt (endFill s) k = { lanternAt s k with filling := false } := by
  unfold endFill lanternAt
  simp only [List.getD_eq_getElem?_getD, List.getElem?_map]
  cases s.lanterns[k]? <;> rfl

/-- Entering router-only mode (R355) from early or full light: every tower and lantern held and idle, every shore core
stopped; power, time and moorings as before. -/
theorem enterRouterOnly_routerOnly (hi : s.Inv) (hb : s.boot.state = 1 ∨ s.boot.state = 2) :
    RouterOnly (enterRouterOnly s) ∧ (enterRouterOnly s).moorings = s.moorings ∧ (enterRouterOnly s).power = s.power ∧
    (enterRouterOnly s).time = s.time := by
  have hl : s.lanterns.length = 192 := hi.1.1.1
  have ht : s.towers.length = 4 := hi.1.2.2.2.2.2
  have hbs : s.boot.state ≠ 3 ∧ s.boot.state ≠ 0 := by omega
  unfold enterRouterOnly
  rw [if_neg hbs.1, if_neg hbs.2]
  dsimp only [List.foldl]
  have l0 : (endFill s).lanterns.length = 192 := by unfold endFill; simpa using hl
  have t0 : (endFill s).towers.length = 4 := ht
  generalize h0 : endFill s = e at l0 t0
  have hm0 : e.moorings = s.moorings ∧ e.power = s.power ∧ e.time = s.time ∧ e.boot = s.boot := by subst h0; exact ⟨rfl, rfl, rfl, rfl⟩
  obtain ⟨l1, t1, _, m1⟩ := holdTower_lists e 0
  obtain ⟨l2, t2, _, m2⟩ := holdTower_lists (holdTower e 0) 1
  obtain ⟨l3, t3, _, m3⟩ := holdTower_lists (holdTower (holdTower e 0) 1) 2
  obtain ⟨l4, t4, _, m4⟩ := holdTower_lists (holdTower (holdTower (holdTower e 0) 1) 2) 3
  obtain ⟨a1, b1⟩ := holdTower_held e 0 (by omega) (by omega)
  obtain ⟨a2, b2⟩ := holdTower_held (holdTower e 0) 1 (by omega) (by omega)
  obtain ⟨a3, b3⟩ := holdTower_held (holdTower (holdTower e 0) 1) 2 (by omega) (by omega)
  obtain ⟨a4, b4⟩ := holdTower_held (holdTower (holdTower (holdTower e 0) 1) 2) 3 (by omega) (by omega)
  obtain ⟨p1, _, q1, _⟩ := holdTower_rest e 0
  obtain ⟨p2, _, q2, _⟩ := holdTower_rest (holdTower e 0) 1
  obtain ⟨p3, _, q3, _⟩ := holdTower_rest (holdTower (holdTower e 0) 1) 2
  obtain ⟨p4, _, q4, _⟩ := holdTower_rest (holdTower (holdTower (holdTower e 0) 1) 2) 3
  have A : ∀ l, l < 192 → HeldIdle (lanternAt (holdTower (holdTower (holdTower (holdTower e 0) 1) 2) 3) l) := by
    intro l hl
    by_cases h3 : 144 ≤ l
    · exact a4 l (.inl (mem_towerLanterns.2 (by omega)))
    · refine a4 l (.inr ?_)
      by_cases h2 : 96 ≤ l
      · exact a3 l (.inl (mem_towerLanterns.2 (by omega)))
      · refine a3 l (.inr ?_)
        by_cases h1 : 48 ≤ l
        · exact a2 l (.inl (mem_towerLanterns.2 (by omega)))
        · exact a2 l (.inr (a1 l (.inl (mem_towerLanterns.2 (by omega)))))
  have B : ∀ k, k < 4 → Held (towerAt (holdTower (holdTower (holdTower (holdTower e 0) 1) 2) 3) k).rst := by
    intro k hk
    by_cases h3 : k = 3
    · exact b4 k (.inl h3)
    · refine b4 k (.inr ?_)
      by_cases h2 : k = 2
      · exact b3 k (.inl h2)
      · refine b3 k (.inr ?_)
        by_cases h1 : k = 1
        · exact b2 k (.inl h1)
        · exact b2 k (.inr (b1 k (.inl (by omega))))
  have hm : (holdTower (holdTower (holdTower (holdTower e 0) 1) 2) 3).moorings = s.moorings := by rw [m4, m3, m2, m1, hm0.1]
  have hp : (holdTower (holdTower (holdTower (holdTower e 0) 1) 2) 3).power = s.power := by rw [p4, p3, p2, p1, hm0.2.1]
  have hq : (holdTower (holdTower (holdTower (holdTower e 0) 1) 2) 3).time = s.time := by rw [q4, q3, q2, q1, hm0.2.2.1]
  generalize holdTower (holdTower (holdTower (holdTower e 0) 1) 2) 3 = u at A B hm hp hq
  obtain ⟨⟨sh, es, _⟩, c1, c2⟩ := stopCores_all u (fun _ => true)
  have C : ∀ c, c < 12 → ((stopCores u (fun _ => true)).shore.getD c ShoreCore.reset).running = false := fun c hc => c1 c rfl hc
  generalize hv : modBoot (stopCores u (fun _ => true)) (fun b => { b with state := 3, alert := true }) = v
  have ev : v.moorings = s.moorings ∧ v.power = s.power ∧ v.time = s.time ∧ v.lanterns = u.lanterns ∧ v.towers = u.towers ∧
      v.boot.state = 3 ∧ v.boot.alert = true ∧ v.shore = (stopCores u (fun _ => true)).shore := by
    subst hv
    rw [es]
    exact ⟨hm, hp, hq, rfl, rfl, rfl, rfl, rfl⟩
  have eu : SameUnits v (reportRouterOnly (raiseEventP (bumpModule v 0 1) evRouterOnly 0 0)) := by
    refine SameUnits.trans (t := raiseEventP (bumpModule v 0 1) evRouterOnly 0 0) ?_ ?_
    · exact SameUnits.trans (t := bumpModule v 0 1) ⟨rfl, rfl, rfl, rfl, rfl, rfl, rfl, rfl⟩ (raiseEventP_units _ _ _)
    · exact (outward_foldl (fun _ _ => outward_tellNode _ _) _).1
  generalize reportRouterOnly (raiseEventP (bumpModule v 0 1) evRouterOnly 0 0) = w at eu
  obtain ⟨f1, f2, f3, f4, f5, f6, f7, f8⟩ := ev
  have g := eu
  obtain ⟨g1, g2, g3, g4, g5, g6, g7, g8⟩ := g
  refine ⟨⟨by rw [g2, f6], by rw [g2, f7], ?_, ?_, ?_⟩, g3.trans f1, g1.trans f2, g7.trans f3⟩
  · intro k hk
    rw [towerAt_of_units eu]
    unfold towerAt
    rw [f5]
    exact B k hk
  · intro l hl
    rw [lanternAt_of_units eu]
    unfold lanternAt
    rw [f4]
    exact A l hl
  · intro c hc
    rw [g8, f8]
    exact C c hc

end Sys2Proof.Machine
end

