-- ==== Sys2Proof/Laws/Levels.lean ====
section
/-! SUPPORT. Laws/Levels.lean: what putting governor levels in force, a power event and the loss of power do (R408, R420,
R421, R432). -/

namespace Sys2Proof.Machine

variable {s t : State}

/-- What levels rest on (R421). -/
theorem levelOf_congr (h : t.power.brake = s.power.brake ∧ t.power.tlevel = s.power.tlevel ∧ t.power.ioHot = s.power.ioHot ∧
    t.power.vin = s.power.vin ∧ t.power.plevel = s.power.plevel) (hk : t.keeper.split = s.keeper.split) (k : Nat) :
    levelOf t k = levelOf s k := by
  obtain ⟨a, b, c, d, e⟩ := h
  unfold levelOf
  dsimp only
  rw [a, b, c, d, e, hk]

/-- Levels put in force: every lantern has its tower's level; of the rest the count of changes alone may move. -/
theorem applyLevels_eq (s : State) : ∃ n, applyLevels s =
    { s with
      lanterns := s.lanterns.zipIdx.map (fun p => { p.1 with level := levelOf s (p.2 / 48) })
      power := { s.power with steps := s.power.steps + n } } := ⟨_, rfl⟩

theorem applyLevels_levelOf (s : State) (k : Nat) : levelOf (applyLevels s) k = levelOf s k := by
  obtain ⟨n, e⟩ := applyLevels_eq s
  rw [e]
  exact levelOf_congr ⟨rfl, rfl, rfl, rfl, rfl⟩ rfl k

theorem applyLevels_lantern (s : State) {l : Nat} (hl : l < s.lanterns.length) :
    lanternAt (applyLevels s) l = { lanternAt s l with level := levelOf (applyLevels s) (l / 48) } := by
  rw [applyLevels_levelOf]
  obtain ⟨n, e⟩ := applyLevels_eq s
  rw [e]
  unfold lanternAt
  simp only [List.getD_eq_getElem?_getD, List.getElem?_map, List.getElem?_zipIdx, List.getElem?_eq_getElem hl]
  simp

/-- A power event announces and logs (R432). -/
theorem powerEvent_outward (s : State) (unit cause level : Nat) :
    ∃ e : Event, e.code = evPower ∧ Outward (logged s e) (powerEvent s unit cause level) := by
  obtain ⟨e, a, _, _, h⟩ := raiseEventMore_outward (s := s) evPower none unit (cause + 256 * (level % 256) + 65536 * (s.power.pin % 65536)) []
  exact ⟨e, a, h⟩

theorem powerEvent_units (s : State) (unit cause level : Nat) : SameUnits s (powerEvent s unit cause level) := raiseEventP_units _ _ _

theorem powerEvent_flash (s : State) (unit cause level : Nat) :
    ∃ e : Event, e.code = evPower ∧ LogGrows (logged s e).flash (powerEvent s unit cause level).flash := by
  obtain ⟨e, a, h⟩ := powerEvent_outward s unit cause level
  exact ⟨e, a, h.2.1⟩

theorem powerEvent_split (s : State) (unit cause level : Nat) : (powerEvent s unit cause level).keeper.split = s.keeper.split := by
  obtain ⟨e, _, h⟩ := powerEvent_outward s unit cause level
  have := congrArg Keeper.split h.2.2.1
  exact this

theorem losePower_lost (s : State) : PowerLost (losePower s) :=
  ⟨rfl, rfl, rfl, rfl, rfl, rfl, rfl, rfl, rfl, rfl, rfl, rfl, rfl, rfl, rfl, rfl, rfl⟩

/-- An orderly power-down (R410): the event is logged and everything but flash is lost. -/
theorem powerDown_lost (s : State) : PowerLost (powerDown s) ∧ (powerDown s).power.vin = s.power.vin ∧
    (powerDown s).power.pwrEn = s.power.pwrEn ∧
    ∃ e : Event, e.code = evPower ∧ LogGrows (logged s e).flash (powerDown s).flash := by
  have h := (powerEvent_units s 0 0x09 0).1
  refine ⟨losePower_lost _, ?_, ?_, powerEvent_flash s 0 0x09 0⟩
  · show (powerEvent s 0 9 0).power.vin = _
    rw [h]
  · show (powerEvent s 0 9 0).power.pwrEn = _
    rw [h]

end Sys2Proof.Machine
end

