-- ==== Sys2Proof/Laws/Bringup.lean ====
section
/-! SUPPORT. Laws/Bringup.lean: what the stages of bring-up leave of the boot and power books (R433, R436, R438). -/

namespace Sys2Proof.Machine

variable {s t : State}

/-- Boot and power books unchanged. -/
def SameBooks (s t : State) : Prop := t.boot = s.boot ∧ t.power = s.power

theorem SameBooks.refl (s : State) : SameBooks s s := ⟨rfl, rfl⟩

theorem SameBooks.trans {s t u : State} (h : SameBooks s t) (k : SameBooks t u) : SameBooks s u := ⟨k.1.trans h.1, k.2.trans h.2⟩

theorem sameBooks_of_units (h : SameUnits s t) : SameBooks s t := ⟨h.2.1, h.1⟩

theorem sameBooks_foldl {α : Type} {g : State → α → State} (hg : ∀ s a, SameBooks s (g s a)) (xs : List α) :
    ∀ s, SameBooks s (xs.foldl g s) := by
  induction xs with
  | nil => intro s; exact SameBooks.refl s
  | cons x xs ih => intro s; exact (hg s x).trans (ih _)

theorem sameBooks_setConfig (f : ConfigRec → ConfigRec) : SameBooks s (setConfig s f) := by
  unfold setConfig
  dsimp only
  split <;> exact ⟨rfl, rfl⟩

theorem sameBooks_advance (d : Domain) : SameBooks s (advanceDaymark s d) := by
  obtain ⟨a, b, _⟩ := advanceDaymark_rest (s := s) d
  exact ⟨a, b⟩

theorem sameBooks_raise (code unit detail : Nat) : SameBooks s (raiseEventP s code unit detail) :=
  sameBooks_of_units (raiseEventP_units _ _ _)

theorem sameBooks_raiseIn (dom : Domain) (code : Nat) (mooring : Option Nat) (unit detail : Nat) (more : List Nat) :
    SameBooks s (raiseEventIn s dom code mooring unit detail more) := sameBooks_of_units (raiseEventIn_units _ _ _ _ _ _)

theorem sameBooks_retireLantern (l : Nat) : SameBooks s (retireLantern s l) := by
  unfold retireLantern
  dsimp only
  split
  · exact SameBooks.refl s
  · split
    · refine SameBooks.trans ?_ (sameBooks_raiseIn _ _ _ _ _ _)
      refine SameBooks.trans ?_ (sameBooks_advance _)
      refine SameBooks.trans (t := setConfig _ _) ?_ ⟨rfl, rfl⟩
      exact SameBooks.trans (t := modLantern (clearStore s l) l _) ⟨rfl, rfl⟩ (sameBooks_setConfig _)
    · refine SameBooks.trans ?_ (sameBooks_raiseIn _ _ _ _ _ _)
      exact SameBooks.trans (t := modLantern s l _) ⟨rfl, rfl⟩ (sameBooks_setConfig _)

theorem sameBooks_retireFailing (t : Nat) (failed : List Nat) : SameBooks s (retireFailing s t failed) := by
  unfold retireFailing
  refine sameBooks_foldl ?_ _ _
  intro s p
  dsimp only
  have h1 : SameBooks s (if (configRec s).dark.contains (t, p) then
      setConfig s (fun r => { r with dark := r.dark.erase (t, p), retired := r.retired ++ [(t, p)] }) else s) := by
    split
    · exact sameBooks_setConfig _
    · exact SameBooks.refl s
  split
  · exact h1.trans (sameBooks_retireLantern _)
  · exact h1

theorem sameBooks_outward (h : Outward s t) : SameBooks s t := sameBooks_of_units h.1

theorem outward_settlePort (p : Nat) : Outward s (settlePort s p) := outward_modPort _ _

theorem outward_sinkVc (p v : Nat) : Outward s (sinkVc s p v) := by
  unfold sinkVc
  dsimp only
  split
  · exact outward_settlePort _
  · exact ((outward_modRouter _).trans (outward_modPort _ _)).trans (outward_settlePort _)

theorem outward_popVc (p v : Nat) : Outward s (popVc s p v) := (outward_modPort _ _).trans (outward_sinkVc _ _)

theorem outward_endCut (i out : Nat) (fs : List (List Byte)) (q : Packet) : Outward s (endCut s i out fs q) :=
  ((outward_modPort _ _).trans (outward_modPort _ _)).trans (onlyRouter_noteCross _ _ _).outward

theorem outward_loseAssembly (port : Nat) : Outward s (loseAssembly s port) := by
  unfold loseAssembly
  split
  · exact outward_refl s
  · dsimp only
    split
    · exact outward_modPort _ _
    · exact ((outward_modPort _ _).trans (outward_modPort _ _)).trans (outward_settlePort _)
    · exact (outward_modPort _ _).trans (outward_endCut _ _ _ _)

theorem outward_loseSending (out : Nat) : Outward s (loseSending s out) := by
  unfold loseSending
  dsimp only
  split
  · exact outward_modPort _ _
  · exact (outward_modPort _ _).trans (outward_modPort _ _)

theorem outward_countAgain (port : Nat) (hs : List HeldPacket) : Outward s (countAgain s port hs) := by
  unfold countAgain
  refine outward_foldl (fun _ _ => ?_) _
  split
  · split
    · exact (onlyRouter_countHit _).outward
    · exact outward_refl _
  · exact outward_refl _

theorem outward_rechooseAt (port i : Nat) : Outward s (rechooseAt s port i) := by
  unfold rechooseAt
  dsimp only
  split
  · exact outward_refl s
  · exact ((outward_countAgain _ _).trans (outward_modPort _ _)).trans (outward_foldl (fun _ _ => outward_sinkVc _ _) _)

theorem outward_rechoose (port : Nat) : Outward s (rechoose s port) := by
  unfold rechoose
  dsimp only
  split
  · exact outward_foldl (fun _ _ => outward_rechooseAt _ _) _
  · exact (((outward_foldl (fun _ _ => outward_rechooseAt _ _) _).trans (outward_countAgain _ _)).trans (outward_modRouter _)).trans (outward_modPort _ _)

theorem sameBooks_followRoot (root : Nat) : SameBooks s (followRoot s root) := by
  unfold followRoot
  split
  · exact ⟨rfl, rfl⟩
  · split
    · exact ⟨rfl, rfl⟩
    · dsimp only
      split
      · exact SameBooks.trans (t := modTime s _) ⟨rfl, rfl⟩ (sameBooks_raise _ _ _)
      · exact ⟨rfl, rfl⟩

theorem sameBooks_reconsider : SameBooks s (reconsider s) := by
  unfold reconsider
  repeat' split
  all_goals first | exact SameBooks.refl s | exact sameBooks_followRoot _ | exact ⟨rfl, rfl⟩

theorem sameBooks_linkDown (port : Nat) : SameBooks s (linkDown s port) := by
  unfold linkDown
  split
  · exact SameBooks.trans (sameBooks_outward ((((outward_loseAssembly port).trans (outward_loseSending _)).trans (outward_modPort _ _)).trans (outward_rechoose _))) sameBooks_reconsider
  · exact SameBooks.refl s

theorem sameBooks_checkNeighbour (n : Neighbour) : SameBooks s (checkNeighbour s n) := by
  have h : SameBooks s (raiseEventP (modPort (linkDown s n.port) n.port (fun x => { x with heldBy := 2, training := false }))
      evLink n.port (linkDetail 2 (portAt s n.port).lanes (portAt s n.port).rate)) :=
    SameBooks.trans ((sameBooks_linkDown _).trans (sameBooks_outward (outward_modPort _ _))) (sameBooks_raise _ _ _)
  unfold checkNeighbour
  dsimp only
  repeat' split
  all_goals first | exact SameBooks.refl s | exact h

theorem outward_startCut (i out : Nat) (esc : Bool) (q : Packet) : Outward s (startCut s i out esc q) := by
  unfold startCut
  split
  · exact outward_refl s
  · exact ((outward_modPort _ _).trans (outward_modPort _ _)).trans (outward_settlePort _)

theorem outward_startCand (out : Nat) (c : Cand) : Outward s (startCand s out c) := by
  unfold startCand
  repeat' split
  · exact (outward_modRouter _).trans (onlyRouter_sendBy _ _ _).outward
  · exact outward_startCut _ _ _ _
  · exact (outward_popVc _ _).trans (onlyRouter_sendBy _ _ _).outward

theorem outward_serve (out : Nat) : Outward s (serve s out) := by
  unfold serve
  dsimp only
  split
  · split
    · exact outward_refl s
    · exact (outward_modPort _ _).trans (outward_startCand _ _)
  · exact outward_refl s

theorem outward_startAll : Outward s (startAll s) := outward_foldl (fun _ _ => outward_serve _) _

theorem sameBooks_trainPort (p : Nat) (x : LinkTrain) : SameBooks s (trainPort s p x) := by
  unfold trainPort
  dsimp only
  split
  · exact SameBooks.refl s
  · split
    · exact sameBooks_outward (outward_modPort _ _)
    · refine SameBooks.trans ?_ (sameBooks_outward outward_startAll)
      split
      · exact SameBooks.trans (sameBooks_outward (outward_modPort _ _)) (sameBooks_raise _ _ _)
      · exact sameBooks_outward (outward_modPort _ _)

theorem sameBooks_trainAll (ls : List (Option LinkTrain)) : SameBooks s (trainAll s ls) := by
  unfold trainAll
  refine sameBooks_foldl ?_ _ _
  intro s p
  split
  · exact sameBooks_trainPort _ _
  · exact sameBooks_outward (outward_modPort _ _)

/-- The count of accepted requests is the Keeper's own (R390). -/
theorem outward_serial : Outward s (modKeeper s (fun k => { k with serial := k.serial + 1 })) :=
  ⟨⟨rfl, rfl, rfl, rfl, rfl, rfl, rfl, rfl⟩, LogGrows.refl _, rfl, fun h => ⟨rfl, rfl, rfl, h⟩⟩

/-- A request enters its mailbox. -/
theorem outward_takeRequest (m : Mbox) (f : Mailbox → Mailbox) :
    Outward s (modMbox (modKeeper s (fun k => { k with serial := k.serial + 1 })) m f) :=
  outward_serial.trans (outward_modFunc _ _ (by intro _; rfl))

theorem outward_takeSeal (m : Mbox) (sw : Nat) : Outward s (takeSeal s m sw) := by
  unfold takeSeal
  dsimp only
  split
  · exact outward_modFunc _ _ (by intro _; rfl)
  · split
    · exact (outward_takeRequest _ _).trans (outward_answer (Nat.zero_le _))
    · split
      · exact (outward_takeRequest _ _).trans (outward_answer (Nat.zero_le _))
      · exact outward_takeRequest _ _

theorem outward_examineAll : Outward s (examineAll s) := by
  unfold examineAll
  refine outward_foldl (fun _ _ => outward_foldl (fun _ _ => ?_) _) _
  unfold examineBox
  split
  · exact (outward_modFunc _ _ (by intro _; rfl)).trans (outward_takeSeal _ _)
  · exact outward_refl _

theorem sameBooks_readCarrier (b : BringUp) : ∃ c z n r, (readCarrier s b).boot =
    { s.boot with coords := c, sizes := z, noCarrier := n, routerAtFull := r } ∧ (readCarrier s b).power = s.power ∧
    (readCarrier s b).lanterns = s.lanterns ∧
    ∃ es w, (readCarrier s b).flash = { s.flash with log := s.flash.log ++ es, written := w } := by
  unfold readCarrier
  split
  · exact ⟨_, _, _, _, rfl, rfl, rfl, [], s.flash.written, by simp [modBoot]⟩
  · have h : ∀ (ps : List Nat) (u : State), SameUnits u (ps.foldl (fun s p =>
        raiseEventP (modPort s p (fun x => { x with heldBy := 3 })) evLink p (linkDetail 3 0 0)) u) ∧
        ∃ es w, (ps.foldl (fun s p =>
        raiseEventP (modPort s p (fun x => { x with heldBy := 3 })) evLink p (linkDetail 3 0 0)) u).flash =
          { u.flash with log := u.flash.log ++ es, written := w } := by
      intro ps
      induction ps with
      | nil => intro u; exact ⟨SameUnits.refl u, [], u.flash.written, by simp⟩
      | cons p ps ih =>
        intro u
        obtain ⟨a, es, w, b⟩ := ih (raiseEventP (modPort u p (fun x => { x with heldBy := 3 })) evLink p (linkDetail 3 0 0))
        obtain ⟨e, _, _, _, o⟩ := raiseEventMore_outward (s := modPort u p (fun x => { x with heldBy := 3 })) evLink none p (linkDetail 3 0 0) []
        refine ⟨SameUnits.trans (outward_modPort p (fun x => { x with heldBy := 3 })).1 (SameUnits.trans (raiseEventP_units _ _ _) a), ?_⟩
        obtain ⟨fs, _, h2⟩ := o.2.1
        refine ⟨e :: (fs ++ es), w, b.trans ?_⟩
        have h3 : (raiseEventP (modPort u p (fun x => { x with heldBy := 3 })) evLink p (linkDetail 3 0 0)).flash =
            { u.flash with log := u.flash.log ++ [e] ++ fs, written := u.flash.written + 32 + 32 * fs.length } := h2
        rw [h3]
        simp
    obtain ⟨a, es, w, b⟩ := h [2, 3, 4, 5, 6, 7] (modBoot s (fun x => { x with coords := [_, 0, 0, 0], sizes := [8, 1, 1, 1], noCarrier := true }))
    unfold holdPorts
    exact ⟨_, _, _, _, a.2.1, a.1, a.2.2.2.1, es, w, b⟩

end Sys2Proof.Machine
end

