-- ==== Sys2Proof/Laws/InvSchedule.lean ====
section
/-! SUPPORT. Laws/InvSchedule.lean: the operations of Machine/Schedule.lean keep the invariant State.Inv. -/

namespace Sys2Proof.Machine

theorem inv_nextEntry {s : State} {l : Nat}
    (ok_s : s.Inv) : (nextEntry s l).Inv := by
  unfold nextEntry
  repeat' with_reducible first | assumption | apply inv_modLantern | apply lanternOk_events | apply lanternOk_dma | apply lanternOk_vec | apply (List.length_modify ..).trans | apply (length_setAt ..).trans | apply (length_bump ..).trans | apply (length_zipIdx_map ..).trans | apply (List.length_map ..).trans | exact List.length_replicate | rfl | intro _ | split | dsimp only | apply lanternOk_mk

theorem inv_issueEntry {s : State} {l : Nat} {kind : Nat} (act : State → Mooring → Bundle → SchedEntry → State)
    (ok_s : s.Inv) (ok_act : ∀ (y0 : State) (y1 : Mooring) (y2 : Bundle) (y3 : SchedEntry), y0.Inv → (act y0 y1 y2 y3).Inv) : (issueEntry s l kind act).Inv := by
  unfold issueEntry
  repeat' with_reducible first | assumption | apply ok_act | intro _ | split | dsimp only

theorem inv_execLens {l : Nat} {s : State}
    (ok_s : s.Inv) : OutcomeInv (execLens l s) := by
  unfold execLens
  repeat' with_reducible first | assumption | apply outcomeInv_next | apply outcomeInv_fault | apply inv_issueEntry | apply inv_nextEntry | apply inv_issueLens | apply lanternOk_lanternAt | intro _ | split | dsimp only

theorem inv_execChain {l : Nat} {s : State}
    (ok_s : s.Inv) : OutcomeInv (execChain l s) := by
  unfold execChain
  repeat' with_reducible first | assumption | apply outcomeInv_next | apply outcomeInv_fault | apply inv_issueEntry | apply inv_nextEntry | apply inv_modLantern | apply lanternOk_lanternAt | apply lanternOk_events | apply lanternOk_dma | apply lanternOk_vec | apply (List.length_modify ..).trans | apply (length_setAt ..).trans | apply (length_bump ..).trans | apply (length_zipIdx_map ..).trans | apply (List.length_map ..).trans | exact List.length_replicate | rfl | intro _ | split | dsimp only | apply lanternOk_mk

theorem inv_execDma {l : Nat} {s : State}
    (ok_s : s.Inv) : OutcomeInv (execDma l s) := by
  unfold execDma
  repeat' with_reducible first | assumption | apply outcomeInv_next | apply outcomeInv_fault | apply inv_issueEntry | apply inv_nextEntry | apply inv_modChan | intro _ | split | dsimp only

theorem inv_execWait {l : Nat} {s : State}
    (ok_s : s.Inv) : OutcomeInv (execWait l s) := by
  unfold execWait
  repeat' with_reducible first | assumption | apply outcomeInv_next | apply outcomeInv_fault | apply inv_issueEntry | apply inv_nextEntry | apply inv_modLantern | apply lanternOk_lanternAt | apply lanternOk_events | apply lanternOk_dma | apply lanternOk_vec | apply (List.length_modify ..).trans | apply (length_setAt ..).trans | apply (length_bump ..).trans | apply (length_zipIdx_map ..).trans | apply (List.length_map ..).trans | exact List.length_replicate | rfl | intro _ | split | dsimp only | apply lanternOk_mk

theorem inv_execWaitSatisfied {l : Nat} {s : State}
    (ok_s : s.Inv) : OutcomeInv (execWaitSatisfied l s) := by
  unfold execWaitSatisfied
  repeat' with_reducible first | assumption | apply outcomeInv_next | apply outcomeInv_fault | apply inv_nextEntry | apply inv_modLantern | apply lanternOk_lanternAt | apply lanternOk_events | apply lanternOk_dma | apply lanternOk_vec | apply (List.length_modify ..).trans | apply (length_setAt ..).trans | apply (length_bump ..).trans | apply (length_zipIdx_map ..).trans | apply (List.length_map ..).trans | exact List.length_replicate | rfl | intro _ | split | dsimp only | apply lanternOk_mk

theorem inv_execHold {l : Nat} {s : State}
    (ok_s : s.Inv) : OutcomeInv (execHold l s) := by
  unfold execHold
  repeat' with_reducible first | assumption | apply outcomeInv_next | apply outcomeInv_fault | apply inv_issueEntry | apply inv_nextEntry | apply inv_modLantern | apply lanternOk_events | apply lanternOk_dma | apply lanternOk_vec | apply (List.length_modify ..).trans | apply (length_setAt ..).trans | apply (length_bump ..).trans | apply (length_zipIdx_map ..).trans | apply (List.length_map ..).trans | exact List.length_replicate | rfl | intro _ | split | dsimp only | apply lanternOk_mk

theorem inv_releaseHolds {s : State} {id : Nat}
    (ok_s : s.Inv) : (releaseHolds s id).Inv := by
  unfold releaseHolds
  repeat' with_reducible first | assumption | rfl | exact id | apply lanternOk_events | apply lanternOk_dma | apply lanternOk_vec | apply lanternsOk_map | apply lanternsOk_zipIdx_map | apply funcsOk_map | apply funcsOk_zipIdx_map | apply (List.length_modify ..).trans | apply (length_setAt ..).trans | apply (length_bump ..).trans | apply (length_zipIdx_map ..).trans | apply (List.length_map ..).trans | exact List.length_replicate | rfl | intro _ | split | dsimp only | apply lanternOk_mk | apply inv_struct | rfl | exact List.length_map _ | exact List.length_modify .. | exact (List.length_map _).trans List.length_zipIdx

theorem inv_execUpdate {l : Nat} {s : State}
    (ok_s : s.Inv) : OutcomeInv (execUpdate l s) := by
  unfold execUpdate
  repeat' with_reducible first | assumption | apply outcomeInv_next | apply outcomeInv_fault | apply inv_issueEntry | apply inv_modLantern | apply inv_checkHeaderStep | apply inv_nextEntry | apply lanternOk_lanternAt | apply lanternOk_events | apply lanternOk_dma | apply lanternOk_vec | apply (List.length_modify ..).trans | apply (length_setAt ..).trans | apply (length_bump ..).trans | apply (length_zipIdx_map ..).trans | apply (List.length_map ..).trans | exact List.length_replicate | rfl | apply veOk_foldl | apply lanternOk_foldl | intro _ | split | apply inv_foldl | apply inv_foldl_fst | apply inv_foldl_snd | dsimp only | apply lanternOk_mk

theorem inv_execSchedEnd {l : Nat} {s : State}
    (ok_s : s.Inv) : OutcomeInv (execSchedEnd l s) := by
  unfold execSchedEnd
  repeat' with_reducible first | assumption | apply outcomeInv_next | apply outcomeInv_fault | apply inv_issueEntry | apply inv_nextEntry | apply inv_modLantern | apply lanternOk_events | apply lanternOk_dma | apply lanternOk_vec | apply (List.length_modify ..).trans | apply (length_setAt ..).trans | apply (length_bump ..).trans | apply (length_zipIdx_map ..).trans | apply (List.length_map ..).trans | exact List.length_replicate | rfl | intro _ | split | dsimp only | apply lanternOk_mk

theorem ok_nextTurn {p : Parsed} {m : Mooring} {l : Nat} {x : Lantern}
    (ok_x : x.Ok) : (nextTurn p m l x).Ok := by
  unfold nextTurn
  repeat' with_reducible first | assumption | (refine inv_of_fst ?_ (by assumption)) | (refine inv_of_snd ?_ (by assumption)) | apply inv_foldl | apply inv_foldl_fst | apply inv_foldl_snd | apply inv_foldr | apply lanternOk_lanternAt | apply lanternOk_events | apply lanternOk_dma | apply lanternOk_vec | apply (List.length_modify ..).trans | apply (length_setAt ..).trans | apply (length_bump ..).trans | apply (length_zipIdx_map ..).trans | apply (List.length_map ..).trans | exact List.length_replicate | rfl | intro _ | split | dsimp only | apply lanternOk_mk

theorem inv_execEndRetire {l : Nat} {s : State}
    (ok_s : s.Inv) : OutcomeInv (execEndRetire l s) := by
  unfold execEndRetire
  repeat' with_reducible first | assumption | apply ok_nextTurn | apply outcomeInv_next | apply outcomeInv_fault | apply inv_modLantern | apply lanternOk_lanternAt | apply lanternOk_events | apply lanternOk_dma | apply lanternOk_vec | apply (List.length_modify ..).trans | apply (length_setAt ..).trans | apply (length_bump ..).trans | apply (length_zipIdx_map ..).trans | apply (List.length_map ..).trans | exact List.length_replicate | rfl | intro _ | split | dsimp only | apply lanternOk_mk

end Sys2Proof.Machine
end

