-- ==== Sys2Proof/Laws/InvCollectives.lean ====
section
/-! SUPPORT. Laws/InvCollectives.lean: the operations of Machine/Collectives.lean keep the invariant State.Inv. -/

namespace Sys2Proof.Machine

theorem inv_foldlCRun {α : Type} {g : CRun → α → CRun} {xs : List α} {p : CRun}
    (hg : ∀ p x, p.s.Inv → (g p x).s.Inv) (h : p.s.Inv) : (xs.foldl g p).s.Inv := by
  induction xs generalizing p with
  | nil => exact h
  | cons x xs ih => exact ih (hg _ _ h)

theorem inv_setInst {s : State} {l : Nat} {c : CollInst} {d : CollInst}
    (ok_s : s.Inv) : (setInst s l c d).Inv := by
  unfold setInst
  repeat' with_reducible first | assumption | apply inv_modLantern | apply lanternOk_events | apply lanternOk_dma | apply lanternOk_vec | apply (List.length_modify ..).trans | apply (length_setAt ..).trans | apply (length_bump ..).trans | apply (length_zipIdx_map ..).trans | apply (List.length_map ..).trans | exact List.length_replicate | rfl | intro _ | split | dsimp only | apply lanternOk_mk

theorem inv_collStop {s : State} {l : Nat} {c : CollInst} {why : Nat}
    (ok_s : s.Inv) : (collStop s l c why).Inv := by
  unfold collStop
  repeat' with_reducible first | assumption | apply inv_collFault | apply inv_notePoisonLine | apply inv_setFault | intro _ | split | dsimp only

theorem inv_updInst {r : CRun} {l : Nat} {f : CollInst → CollInst}
    (ok_r : r.s.Inv) : (updInst r l f).s.Inv := by
  unfold updInst
  repeat' with_reducible first | assumption | apply inv_setInst | intro _ | split | dsimp only

theorem inv_failRun {r : CRun} {l : Nat} {why : Nat}
    (ok_r : r.s.Inv) : (failRun r l why).s.Inv := by
  unfold failRun
  repeat' with_reducible first | assumption | apply inv_collStop | intro _ | split | dsimp only

theorem inv_collWrite {l : Nat} {r : CRun} {addr : Nat} {bs : List Byte}
    (ok_r : r.s.Inv) : (collWrite l r addr bs).s.Inv := by
  unfold collWrite
  repeat' with_reducible first | assumption | apply inv_failRun | apply inv_updInst | apply inv_peerWrites | apply inv_storeLocal | (refine inv_of_fst ?_ (by assumption)) | intro _ | split | dsimp only

theorem inv_writeData {l : Nat} {r : CRun} {fmt : Nat} {addr : Nat} {scale : Nat} {e : Nat} {n : Nat} {bs : List Byte}
    (ok_r : r.s.Inv) : (writeData l r fmt addr scale e n bs).s.Inv := by
  unfold writeData
  repeat' with_reducible first | assumption | apply inv_collWrite | intro _ | split | dsimp only

theorem inv_sendColl {s : State} {l : Nat} {id : Nat} {c : CollInst} {via : Option Nat} {dest : Nat} {pos : Nat} {bs : List Byte}
    (ok_s : s.Inv) : (sendColl s l id c via dest pos bs).Inv := by
  unfold sendColl
  repeat' with_reducible first | assumption | apply inv_bumpBeacon | apply inv_sendSeq | intro _ | split | dsimp only

theorem inv_ownerWrite {l : Nat} {m : Mooring} {b : Bundle} {r : CRun} {e : Nat} {rs : List Rec}
    (ok_r : r.s.Inv) : (ownerWrite l m b r e rs).s.Inv := by
  unfold ownerWrite
  repeat' with_reducible first | assumption | apply inv_writeData | apply inv_failRun | apply inv_updInst | intro _ | split | dsimp only

theorem inv_formResult {l : Nat} {m : Mooring} {b : Bundle} {r : CRun} {e : Nat} {rs : List Rec}
    (ok_r : r.s.Inv) : (formResult l m b r e rs).s.Inv := by
  unfold formResult
  repeat' with_reducible first | assumption | apply inv_ownerWrite | apply inv_updInst | intro _ | split | dsimp only

theorem inv_sendEach {l : Nat} {m : Mooring} {st : CStage} {r : CRun} {dsts : List (Nat × Bool)} {pos : Nat} {bs : List Byte}
    (ok_r : r.s.Inv) : (sendEach l m st r dsts pos bs).s.Inv := by
  unfold sendEach
  repeat' with_reducible first | assumption | apply inv_sendColl | intro _ | split | apply inv_foldl | apply inv_foldl_fst | apply inv_foldl_snd | apply inv_foldlCRun | dsimp only

theorem inv_reduceArrive {l : Nat} {m : Mooring} {b : Bundle} {st : CStage} {r : CRun} {q : CPiece} {p : Packet}
    (ok_r : r.s.Inv) : (reduceArrive l m b st r q p).s.Inv := by
  unfold reduceArrive
  repeat' with_reducible first | assumption | apply inv_sendEach | apply inv_failRun | apply inv_formResult | apply inv_updInst | intro _ | split | dsimp only

theorem inv_gatherArrive {l : Nat} {m : Mooring} {st : CStage} {r : CRun} {q : CPiece} {p : Packet}
    (ok_r : r.s.Inv) : (gatherArrive l m st r q p).s.Inv := by
  unfold gatherArrive
  repeat' with_reducible first | assumption | apply inv_writeData | apply inv_failRun | apply inv_sendEach | intro _ | split | dsimp only

theorem inv_ownSend {l : Nat} {m : Mooring} {st : CStage} {r : CRun} {q : CPiece}
    (ok_r : r.s.Inv) : (ownSend l m st r q).s.Inv := by
  unfold ownSend
  repeat' with_reducible first | assumption | apply inv_failRun | apply inv_writeData | apply inv_sendEach | intro _ | split | dsimp only

theorem inv_sendVersions {l : Nat} {m : Mooring} {b : Bundle} {st : CStage} {r : CRun}
    (ok_r : r.s.Inv) : (sendVersions l m b st r).s.Inv := by
  unfold sendVersions
  repeat' with_reducible first | assumption | apply inv_updInst | apply inv_sendEach | (refine inv_of_fst ?_ (by assumption)) | intro _ | split | apply inv_foldl | apply inv_foldl_fst | apply inv_foldl_snd | apply inv_foldlCRun | dsimp only

theorem inv_versArrive {l : Nat} {m : Mooring} {st : CStage} {r : CRun} {p : Packet}
    (ok_r : r.s.Inv) : (versArrive l m st r p).s.Inv := by
  unfold versArrive
  repeat' with_reducible first | assumption | apply inv_updInst | apply inv_modMooring | apply inv_sendEach | intro _ | split | dsimp only

theorem inv_pointSend {l : Nat} {m : Mooring} {st : CStage} {r : CRun} {q : CPiece}
    (ok_r : r.s.Inv) : (pointSend l m st r q).s.Inv := by
  unfold pointSend
  repeat' with_reducible first | assumption | apply inv_failRun | apply inv_sendColl | intro _ | split | dsimp only

theorem inv_placeSegment {l : Nat} {r : CRun} {q : Nat} {e : Nat} {n : Nat} {bs : List Byte}
    (ok_r : r.s.Inv) : (placeSegment l r q e n bs).s.Inv := by
  unfold placeSegment
  repeat' with_reducible first | assumption | apply inv_writeData | apply inv_failRun | apply inv_updInst | intro _ | split | dsimp only

theorem inv_sendLens {l : Nat} {m : Mooring} {st : CStage} {r : CRun}
    (ok_r : r.s.Inv) : (sendLens l m st r).s.Inv := by
  unfold sendLens
  repeat' with_reducible first | assumption | apply inv_failRun | apply inv_updInst | apply inv_sendColl | intro _ | split | apply inv_foldl | apply inv_foldl_fst | apply inv_foldl_snd | apply inv_foldlCRun | dsimp only

theorem inv_sendSegments {l : Nat} {m : Mooring} {st : CStage} {r : CRun}
    (ok_r : r.s.Inv) : (sendSegments l m st r).s.Inv := by
  unfold sendSegments
  repeat' with_reducible first | assumption | apply inv_failRun | apply inv_collWrite | apply inv_placeSegment | apply inv_sendColl | intro _ | split | apply inv_foldl | apply inv_foldl_fst | apply inv_foldl_snd | apply inv_foldlCRun | dsimp only

theorem inv_startStage {l : Nat} {m : Mooring} {b : Bundle} {r : CRun}
    (ok_r : r.s.Inv) : (startStage l m b r).s.Inv := by
  unfold startStage
  repeat' with_reducible first | assumption | apply inv_sendEach | apply inv_failRun | apply inv_updInst | apply inv_ownSend | apply inv_sendVersions | apply inv_pointSend | apply inv_sendLens | apply inv_sendSegments | intro _ | split | apply inv_foldl | apply inv_foldl_fst | apply inv_foldl_snd | apply inv_foldlCRun | dsimp only

theorem inv_runStages {l : Nat} {m : Mooring} {b : Bundle} {x1 : Nat} {x2 : CRun}
    (ok_x2 : x2.s.Inv) : (runStages l m b x1 x2).s.Inv := by
  induction x1 generalizing x2 with
  | zero =>
    unfold runStages
    repeat' with_reducible first | assumption | apply inv_updInst | apply inv_startStage | intro _ | split | dsimp only
  | succ n ih =>
    unfold runStages
    repeat' with_reducible first | assumption | apply ih | apply inv_updInst | apply inv_startStage | intro _ | split | dsimp only

theorem inv_alone {l : Nat} {m : Mooring} {b : Bundle} {r : CRun}
    (ok_r : r.s.Inv) : (alone l m b r).s.Inv := by
  unfold alone
  repeat' with_reducible first | assumption | apply inv_failRun | apply inv_ownerWrite | apply inv_writeData | intro _ | split | apply inv_foldl | apply inv_foldl_fst | apply inv_foldl_snd | apply inv_foldlCRun | dsimp only

theorem inv_beginColl {s : State} {l : Nat} {m : Mooring} {b : Bundle} {c : CollInst}
    (ok_s : s.Inv) : (beginColl s l m b c).Inv := by
  unfold beginColl
  repeat' with_reducible first | assumption | apply inv_updInst | apply inv_alone | apply inv_runStages | apply inv_startStage | intro _ | split | dsimp only

theorem inv_useColl {s : State} {l : Nat} {m : Mooring} {b : Bundle} {c : CollInst} {p : Packet}
    (ok_s : s.Inv) : (useColl s l m b c p).Inv := by
  unfold useColl
  repeat' with_reducible first | assumption | apply inv_bumpBeacon | apply inv_updInst | apply inv_reduceArrive | apply inv_gatherArrive | apply inv_versArrive | apply inv_writeData | apply inv_failRun | apply inv_placeSegment | apply inv_runStages | intro _ | split | dsimp only

theorem inv_pumpHeld {l : Nat} {id : Nat} {x1 : Nat} {x2 : State}
    (ok_x2 : x2.Inv) : (pumpHeld l id x1 x2).Inv := by
  induction x1 generalizing x2 with
  | zero =>
    unfold pumpHeld
    repeat' with_reducible first | assumption | apply inv_modLantern | apply inv_useColl | apply lanternOk_lanternAt | apply lanternOk_events | apply lanternOk_dma | apply lanternOk_vec | apply (List.length_modify ..).trans | apply (length_setAt ..).trans | apply (length_bump ..).trans | apply (length_zipIdx_map ..).trans | apply (List.length_map ..).trans | exact List.length_replicate | rfl | intro _ | split | dsimp only | apply lanternOk_mk
  | succ n ih =>
    unfold pumpHeld
    repeat' with_reducible first | assumption | apply ih | apply inv_modLantern | apply inv_useColl | apply lanternOk_lanternAt | apply lanternOk_events | apply lanternOk_dma | apply lanternOk_vec | apply (List.length_modify ..).trans | apply (length_setAt ..).trans | apply (length_bump ..).trans | apply (length_zipIdx_map ..).trans | apply (List.length_map ..).trans | exact List.length_replicate | rfl | intro _ | split | dsimp only | apply lanternOk_mk

theorem inv_deliverColl {s : State} {p : Packet}
    (ok_s : s.Inv) : (deliverColl s p).Inv := by
  unfold deliverColl
  repeat' with_reducible first | assumption | apply inv_modLantern | apply inv_pumpHeld | apply lanternOk_lanternAt | apply lanternOk_events | apply lanternOk_dma | apply lanternOk_vec | apply (List.length_modify ..).trans | apply (length_setAt ..).trans | apply (length_bump ..).trans | apply (length_zipIdx_map ..).trans | apply (List.length_map ..).trans | exact List.length_replicate | rfl | intro _ | split | dsimp only | apply lanternOk_mk

theorem inv_execColl {l : Nat} {s : State}
    (ok_s : s.Inv) : OutcomeInv (execColl l s) := by
  unfold execColl
  repeat' with_reducible first | assumption | apply outcomeInv_next | apply outcomeInv_fault | apply inv_issueEntry | apply inv_nextEntry | apply inv_modLantern | apply lanternOk_lanternAt | apply lanternOk_events | apply lanternOk_dma | apply lanternOk_vec | apply (List.length_modify ..).trans | apply (length_setAt ..).trans | apply (length_bump ..).trans | apply (length_zipIdx_map ..).trans | apply (List.length_map ..).trans | exact List.length_replicate | rfl | intro _ | split | dsimp only | apply lanternOk_mk

theorem inv_collFetch {l : Nat} {r : CRun} {a : Nat × Nat}
    (ok_r : r.s.Inv) : (collFetch l r a).s.Inv := by
  unfold collFetch
  repeat' with_reducible first | assumption | apply inv_failRun | apply inv_updInst | apply inv_peerReads | (refine inv_of_fst ?_ (by assumption)) | intro _ | split | dsimp only

theorem inv_startColl {s : State} {l : Nat} {slot : Nat} {op : Nat}
    (ok_s : s.Inv) : (startColl s l slot op).Inv := by
  unfold startColl
  repeat' with_reducible first | assumption | apply inv_collFetch | apply inv_foldlCRun | apply inv_foldl | apply inv_pumpHeld | apply inv_beginColl | apply lanternOk_lanternAt | intro _ | split | dsimp only

theorem inv_resumeColls {s : State} {l : Nat}
    (ok_s : s.Inv) : (resumeColls s l).Inv := by
  unfold resumeColls
  repeat' with_reducible first | assumption | apply inv_foldl | apply inv_startColl | (refine inv_of_fst ?_ (by assumption)) | (refine inv_of_snd ?_ (by assumption)) | apply lanternOk_lanternAt | apply lanternOk_vec | apply vregOk_regAt | apply veOk_regs | apply veOk_masks | apply regsOk_modify | apply regsOk_zipIdx_map | exact regsOk_replicate | exact masksOk_start _ | apply masksOk_first | apply (List.length_modify ..).trans | apply (length_setAt ..).trans | apply (length_bump ..).trans | apply (length_zipIdx_map ..).trans | apply (List.length_map ..).trans | exact List.length_replicate | rfl | apply veOk_foldl | apply lanternOk_foldl | intro _ | split | apply inv_foldl | apply inv_foldl_fst | apply inv_foldl_snd | apply inv_foldr | dsimp only | apply veOk_mk

theorem inv_execPeerData {p : Packet} {s : State}
    (ok_s : s.Inv) : OutcomeInv (execPeerData p s) := by
  unfold execPeerData
  repeat' with_reducible first | assumption | apply inv_resumeColls | apply outcomeInv_next | apply outcomeInv_fault | apply inv_onPacket | apply inv_deliverAnswer | intro _ | split | dsimp only

theorem inv_execReduceScatter {l : Nat} {slot : Nat} {s : State}
    (ok_s : s.Inv) : OutcomeInv (execReduceScatter l slot s) := by
  unfold execReduceScatter
  repeat' with_reducible first | assumption | apply outcomeInv_next | apply outcomeInv_fault | apply inv_startColl | intro _ | split | dsimp only

theorem inv_execAllGather {l : Nat} {slot : Nat} {s : State}
    (ok_s : s.Inv) : OutcomeInv (execAllGather l slot s) := by
  unfold execAllGather
  repeat' with_reducible first | assumption | apply outcomeInv_next | apply outcomeInv_fault | apply inv_startColl | intro _ | split | dsimp only

theorem inv_execAllReduce {l : Nat} {slot : Nat} {s : State}
    (ok_s : s.Inv) : OutcomeInv (execAllReduce l slot s) := by
  unfold execAllReduce
  repeat' with_reducible first | assumption | apply outcomeInv_next | apply outcomeInv_fault | apply inv_startColl | intro _ | split | dsimp only

theorem inv_execBroadcast {l : Nat} {slot : Nat} {s : State}
    (ok_s : s.Inv) : OutcomeInv (execBroadcast l slot s) := by
  unfold execBroadcast
  repeat' with_reducible first | assumption | apply outcomeInv_next | apply outcomeInv_fault | apply inv_startColl | intro _ | split | dsimp only

theorem inv_execSend {l : Nat} {slot : Nat} {s : State}
    (ok_s : s.Inv) : OutcomeInv (execSend l slot s) := by
  unfold execSend
  repeat' with_reducible first | assumption | apply outcomeInv_next | apply outcomeInv_fault | apply inv_startColl | intro _ | split | dsimp only

theorem inv_execRecv {l : Nat} {slot : Nat} {s : State}
    (ok_s : s.Inv) : OutcomeInv (execRecv l slot s) := by
  unfold execRecv
  repeat' with_reducible first | assumption | apply outcomeInv_next | apply outcomeInv_fault | apply inv_startColl | intro _ | split | dsimp only

theorem inv_execAllToAllV {l : Nat} {slot : Nat} {s : State}
    (ok_s : s.Inv) : OutcomeInv (execAllToAllV l slot s) := by
  unfold execAllToAllV
  repeat' with_reducible first | assumption | apply outcomeInv_next | apply outcomeInv_fault | apply inv_startColl | intro _ | split | dsimp only

theorem inv_noteCut {s : State} {l : Nat} {m : Mooring} {c : CollInst}
    (ok_s : s.Inv) : (noteCut s l m c).Inv := by
  unfold noteCut
  repeat' with_reducible first | assumption | apply inv_raiseEvent | apply inv_modLantern | apply lanternOk_events | apply lanternOk_dma | apply lanternOk_vec | apply (List.length_modify ..).trans | apply (length_setAt ..).trans | apply (length_bump ..).trans | apply (length_zipIdx_map ..).trans | apply (List.length_map ..).trans | exact List.length_replicate | rfl | intro _ | split | dsimp only | apply lanternOk_mk

theorem inv_execCollectiveComplete {l : Nat} {slot : Nat} {s : State}
    (ok_s : s.Inv) : OutcomeInv (execCollectiveComplete l slot s) := by
  unfold execCollectiveComplete
  repeat' with_reducible first | assumption | apply outcomeInv_next | apply outcomeInv_fault | apply inv_modLantern | apply inv_noteCut | apply inv_bumpEvent | apply inv_modMooring | apply lanternOk_lanternAt | apply lanternOk_events | apply lanternOk_dma | apply lanternOk_vec | apply (List.length_modify ..).trans | apply (length_setAt ..).trans | apply (length_bump ..).trans | apply (length_zipIdx_map ..).trans | apply (List.length_map ..).trans | exact List.length_replicate | rfl | intro _ | split | dsimp only | apply lanternOk_mk

end Sys2Proof.Machine
end

