-- ==== Sys2Proof/Laws/InvPieces.lean ====
section
/-! SUPPORT. Laws/InvPieces.lean: the operations of Machine/Pieces.lean keep the invariant State.Inv. -/

namespace Sys2Proof.Machine

theorem inv_writeSpans {x1 : State} {x2 : List (Nat × Nat)} {x3 : List Byte}
    (ok_x1 : x1.Inv) : (writeSpans x1 x2 x3).Inv := by
  induction x2 generalizing x1 x3 with
  | nil =>
    unfold writeSpans
    repeat' with_reducible first | assumption | apply inv_writeMem | intro _ | split | dsimp only
  | cons y ys ih =>
    unfold writeSpans
    repeat' with_reducible first | assumption | apply ih | apply inv_writeMem | intro _ | split | dsimp only

theorem inv_pieceSend {s : State} {id : Nat} {dm : Nat} {dest : Nat} {replica : Nat} {tensor : Nat} {pos : Nat} {bs : List Byte}
    (ok_s : s.Inv) : (pieceSend s id dm dest replica tensor pos bs).Inv := by
  unfold pieceSend
  repeat' with_reducible first | assumption | apply inv_sendSeq | intro _ | split | dsimp only

theorem inv_sendPieces {s : State} {id : Nat} {dm : Nat} {dest : Nat} {replica : Nat} {per : Nat} {body : Nat} {tensor : Nat} {qs : List Piece}
    (ok_s : s.Inv) : (sendPieces s id dm dest replica per body tensor qs).Inv := by
  unfold sendPieces
  repeat' with_reducible first | assumption | apply inv_pieceSend | intro _ | split | apply inv_foldl | apply inv_foldl_fst | apply inv_foldl_snd | dsimp only

theorem inv_sendHeaders {s : State} {id : Nat} {dm : Nat} {dest : Nat} {replica : Nat} {hs : List ShardHdr}
    (ok_s : s.Inv) : (sendHeaders s id dm dest replica hs).Inv := by
  unfold sendHeaders
  repeat' with_reducible first | assumption | apply inv_pieceSend | intro _ | split | apply inv_foldl | apply inv_foldl_fst | apply inv_foldl_snd | dsimp only

theorem inv_refreshTo {s : State} {m : Mooring} {p : Parsed} {t : Nat} {dest : Nat}
    (ok_s : s.Inv) : (refreshTo s m p t dest).Inv := by
  unfold refreshTo
  repeat' with_reducible first | assumption | apply inv_pieceSend | apply inv_sendPieces | apply inv_sendHeaders | intro _ | split | apply inv_foldl | apply inv_foldl_fst | apply inv_foldl_snd | dsimp only

theorem inv_sendRefresh {s : State} {m : Mooring} {p : Parsed} {t : Nat}
    (ok_s : s.Inv) : (sendRefresh s m p t).Inv := by
  unfold sendRefresh
  repeat' with_reducible first | assumption | apply inv_refreshTo | apply inv_bumpModule | apply inv_modMooring | intro _ | split | apply inv_foldl | apply inv_foldl_fst | apply inv_foldl_snd | dsimp only

theorem inv_modCopy {s : State} {id : Nat} {pos : Nat} {f : TenderCopy → TenderCopy}
    (ok_s : s.Inv) : (modCopy s id pos f).Inv := by
  unfold modCopy
  repeat' with_reducible first | assumption | apply inv_modMooring | (refine inv_of_fst ?_ (by assumption)) | (refine inv_of_snd ?_ (by assumption)) | apply lanternOk_lanternAt | apply lanternOk_vec | apply vregOk_regAt | apply veOk_regs | apply veOk_masks | apply regsOk_modify | apply regsOk_zipIdx_map | exact regsOk_replicate | exact masksOk_start _ | apply masksOk_first | apply (List.length_modify ..).trans | apply (length_setAt ..).trans | apply (length_bump ..).trans | apply (length_zipIdx_map ..).trans | apply (List.length_map ..).trans | exact List.length_replicate | rfl | apply veOk_foldl | apply lanternOk_foldl | intro _ | split | apply inv_foldl | apply inv_foldl_fst | apply inv_foldl_snd | apply inv_foldr | dsimp only | apply veOk_mk

theorem inv_stageUnits {s : State} {m : Mooring} {p : Parsed} {c : TenderCopy} {k : Nat} {qs : List Piece}
    (ok_s : s.Inv) : (stageUnits s m p c k qs).Inv := by
  unfold stageUnits
  repeat' with_reducible first | assumption | apply inv_foldl | apply inv_writeSpans | (refine inv_of_fst ?_ (by assumption)) | (refine inv_of_snd ?_ (by assumption)) | apply lanternOk_lanternAt | apply lanternOk_vec | apply vregOk_regAt | apply veOk_regs | apply veOk_masks | apply regsOk_modify | apply regsOk_zipIdx_map | exact regsOk_replicate | exact masksOk_start _ | apply masksOk_first | apply (List.length_modify ..).trans | apply (length_setAt ..).trans | apply (length_bump ..).trans | apply (length_zipIdx_map ..).trans | apply (List.length_map ..).trans | exact List.length_replicate | rfl | apply veOk_foldl | apply lanternOk_foldl | intro _ | split | apply inv_foldl | apply inv_foldl_fst | apply inv_foldl_snd | apply inv_foldr | dsimp only | apply veOk_mk

theorem inv_stageRefresh {s : State} {m : Mooring} {p : Parsed} {c : TenderCopy} {q : Packet}
    (ok_s : s.Inv) : (stageRefresh s m p c q).Inv := by
  unfold stageRefresh
  repeat' with_reducible first | assumption | apply inv_modCopy | apply inv_stageUnits | (refine inv_of_fst ?_ (by assumption)) | (refine inv_of_snd ?_ (by assumption)) | apply lanternOk_lanternAt | apply lanternOk_vec | apply vregOk_regAt | apply veOk_regs | apply veOk_masks | apply regsOk_modify | apply regsOk_zipIdx_map | exact regsOk_replicate | exact masksOk_start _ | apply masksOk_first | apply (List.length_modify ..).trans | apply (length_setAt ..).trans | apply (length_bump ..).trans | apply (length_zipIdx_map ..).trans | apply (List.length_map ..).trans | exact List.length_replicate | rfl | apply veOk_foldl | apply lanternOk_foldl | intro _ | split | apply inv_foldl | apply inv_foldl_fst | apply inv_foldl_snd | apply inv_foldr | dsimp only | apply veOk_mk

theorem inv_installUnit {s : State} {m : Mooring} {p : Parsed} {c : TenderCopy} {q : Nat × Nat}
    (ok_s : s.Inv) : (installUnit s m p c q).Inv := by
  unfold installUnit
  repeat' with_reducible first | assumption | apply inv_writeSpans | (refine inv_of_fst ?_ (by assumption)) | (refine inv_of_snd ?_ (by assumption)) | apply lanternOk_lanternAt | apply lanternOk_vec | apply vregOk_regAt | apply veOk_regs | apply veOk_masks | apply regsOk_modify | apply regsOk_zipIdx_map | exact regsOk_replicate | exact masksOk_start _ | apply masksOk_first | apply (List.length_modify ..).trans | apply (length_setAt ..).trans | apply (length_bump ..).trans | apply (length_zipIdx_map ..).trans | apply (List.length_map ..).trans | exact List.length_replicate | rfl | apply veOk_foldl | apply lanternOk_foldl | intro _ | split | apply inv_foldl | apply inv_foldl_fst | apply inv_foldl_snd | apply inv_foldr | dsimp only | apply veOk_mk

theorem inv_installCopy {s : State} {m : Mooring} {p : Parsed} {c : TenderCopy}
    (ok_s : s.Inv) : (installCopy s m p c).Inv := by
  unfold installCopy
  repeat' with_reducible first | assumption | apply inv_modCopy | apply inv_foldl | apply inv_installUnit | (refine inv_of_fst ?_ (by assumption)) | (refine inv_of_snd ?_ (by assumption)) | apply lanternOk_lanternAt | apply lanternOk_vec | apply vregOk_regAt | apply veOk_regs | apply veOk_masks | apply regsOk_modify | apply regsOk_zipIdx_map | exact regsOk_replicate | exact masksOk_start _ | apply masksOk_first | apply (List.length_modify ..).trans | apply (length_setAt ..).trans | apply (length_bump ..).trans | apply (length_zipIdx_map ..).trans | apply (List.length_map ..).trans | exact List.length_replicate | rfl | apply veOk_foldl | apply lanternOk_foldl | intro _ | split | apply inv_foldl | apply inv_foldl_fst | apply inv_foldl_snd | apply inv_foldr | dsimp only | apply veOk_mk

theorem inv_formLoose {s : State} {p : Parsed} {x : ShardAt} {qs : List Piece}
    (ok_s : s.Inv) : (formLoose s p x qs).Inv := by
  unfold formLoose
  repeat' with_reducible first | assumption | apply inv_writeMem | intro _ | split | apply inv_foldl | apply inv_foldl_fst | apply inv_foldl_snd | dsimp only

theorem inv_takePiece {s : State} {m : Mooring} {p : Parsed} {q : Piece}
    (ok_s : s.Inv) : (takePiece s m p q).Inv := by
  unfold takePiece
  repeat' with_reducible first | assumption | apply inv_modMooring | apply inv_formLoose | apply inv_writeSpans | intro _ | split | dsimp only

theorem inv_takePieces {s : State} {id : Nat} {p : Parsed} {qs : List Piece}
    (ok_s : s.Inv) : (takePieces s id p qs).Inv := by
  unfold takePieces
  repeat' with_reducible first | assumption | apply inv_takePiece | intro _ | split | apply inv_foldl | apply inv_foldl_fst | apply inv_foldl_snd | dsimp only

theorem inv_takeHeaders {s : State} {id : Nat} {hs : List ShardHdr}
    (ok_s : s.Inv) : (takeHeaders s id hs).Inv := by
  unfold takeHeaders
  repeat' with_reducible first | assumption | apply inv_modMooring | intro _ | split | apply inv_foldl | apply inv_foldl_fst | apply inv_foldl_snd | dsimp only

theorem inv_permuteArrive {s : State} {m : Mooring} {p : Parsed} {q : Packet}
    (ok_s : s.Inv) : (permuteArrive s m p q).Inv := by
  unfold permuteArrive
  repeat' with_reducible first | assumption | apply inv_modMooring | apply inv_takeHeaders | apply inv_takePieces | intro _ | split | dsimp only

theorem inv_givePieces {s : State} {id : Nat} {dm : Nat} {subs : List (Nat × Nat)} {p : Parsed} {t : Tensor} {k : Nat} {pos : Nat} {hs : List ShardHdr} {qs : List Piece}
    (ok_s : s.Inv) : (givePieces s id dm subs p t k pos hs qs).Inv := by
  unfold givePieces
  repeat' with_reducible first | assumption | apply inv_sysCopy | apply inv_takeHeaders | apply inv_takePieces | apply inv_sendHeaders | apply inv_sendPieces | intro _ | split | dsimp only

theorem inv_permuteFromMap {s : State} {m : Mooring} {p : Parsed} {v : Moving} {od : MDesc} {osubs : List (Nat × Nat)} {place : Placement} {hdrs : List ShardHdr}
    (ok_s : s.Inv) : (permuteFromMap s m p v od osubs place hdrs).Inv := by
  unfold permuteFromMap
  repeat' with_reducible first | assumption | apply inv_givePieces | intro _ | split | apply inv_foldl | apply inv_foldl_fst | apply inv_foldl_snd | dsimp only

theorem inv_permuteFromPart {s : State} {d : MDesc} {dm : Nat} {subs : List (Nat × Nat)} {p : Parsed} {hs : List ShardHdr} {saved : List Piece}
    (ok_s : s.Inv) : (permuteFromPart s d dm subs p hs saved).Inv := by
  unfold permuteFromPart
  repeat' with_reducible first | assumption | apply inv_givePieces | intro _ | split | apply inv_foldl | apply inv_foldl_fst | apply inv_foldl_snd | dsimp only

end Sys2Proof.Machine
end

