-- ==== Sys2Proof/Laws/InvMaps.lean ====
section
/-! SUPPORT. Laws/InvMaps.lean: the operations of Machine/Maps.lean keep the invariant State.Inv. -/

namespace Sys2Proof.Machine

theorem inv_clearRanges {s : State} {rs : List (Nat × Nat)}
    (ok_s : s.Inv) : (clearRanges s rs).Inv := by
  unfold clearRanges
  repeat' with_reducible first | assumption | apply inv_clearMem | intro _ | split | apply inv_foldl | apply inv_foldl_fst | apply inv_foldl_snd | dsimp only

theorem inv_clearSector {s : State} {d : MDesc}
    (ok_s : s.Inv) : (clearSector s d).Inv := by
  unfold clearSector
  repeat' with_reducible first | assumption | apply inv_clearStore | intro _ | split | apply inv_foldl | apply inv_foldl_fst | apply inv_foldl_snd | dsimp only

theorem inv_takeLanterns {s : State} {d : MDesc} {regions : List (Nat × Nat)}
    (ok_s : s.Inv) : (takeLanterns s d regions).Inv := by
  unfold takeLanterns
  repeat' with_reducible first | assumption | apply inv_openWindows | apply inv_modLantern | apply lanternOk_events | apply lanternOk_dma | apply lanternOk_vec | apply (List.length_modify ..).trans | apply (length_setAt ..).trans | apply (length_bump ..).trans | apply (length_zipIdx_map ..).trans | apply (List.length_map ..).trans | exact List.length_replicate | rfl | apply veOk_foldl | apply lanternOk_foldl | intro _ | split | apply inv_foldl | apply inv_foldl_fst | apply inv_foldl_snd | dsimp only | apply lanternOk_mk

theorem ok_takeSlot {x : Func} {id : Nat}
    (ok_x : x.Ok) : (takeSlot x id).Ok := by
  unfold takeSlot
  repeat' with_reducible first | assumption | apply funcOk_mbox | apply funcOk_queues | apply funcOk_slots | apply (List.length_modify ..).trans | apply (length_setAt ..).trans | apply (length_bump ..).trans | apply (length_zipIdx_map ..).trans | apply (List.length_map ..).trans | exact List.length_replicate | rfl | intro _ | split | dsimp only | apply funcOk_mk

theorem inv_openHere {s : State} {m : Mooring}
    (ok_s : s.Inv) : (openHere s m).Inv := by
  unfold openHere
  repeat' with_reducible first | assumption | apply inv_tellSlot | apply inv_takeLanterns | apply inv_clearSector | apply inv_clearRanges | apply inv_modFunc | apply ok_takeSlot | rfl | exact id | apply lanternsOk_map | apply lanternsOk_zipIdx_map | apply funcsOk_map | apply funcsOk_zipIdx_map | intro _ | split | dsimp only | apply inv_struct | rfl | exact List.length_map _ | exact List.length_modify .. | exact (List.length_map _).trans List.length_zipIdx

theorem inv_copyBundle {s : State} {image : List Byte} {seed : Nat} {owner : Nat × Nat}
    (ok_s : s.Inv) : (copyBundle s image seed owner).1.Inv := by
  unfold copyBundle
  repeat' with_reducible first | assumption | apply inv_modKeeper | intro _ | split | dsimp only

theorem inv_settleDue {s : State} {id : Nat}
    (ok_s : s.Inv) : (settleDue s id).Inv := by
  unfold settleDue
  repeat' with_reducible first | assumption | apply inv_cutRunShort | apply inv_modMooring | apply inv_foldl | (refine inv_of_fst ?_ (by assumption)) | (refine inv_of_snd ?_ (by assumption)) | apply lanternOk_lanternAt | apply lanternOk_vec | apply vregOk_regAt | apply veOk_regs | apply veOk_masks | apply regsOk_modify | apply regsOk_zipIdx_map | exact regsOk_replicate | exact masksOk_start _ | apply masksOk_first | apply (List.length_modify ..).trans | apply (length_setAt ..).trans | apply (length_bump ..).trans | apply (length_zipIdx_map ..).trans | apply (List.length_map ..).trans | exact List.length_replicate | rfl | apply veOk_foldl | apply lanternOk_foldl | intro _ | split | apply inv_foldl | apply inv_foldl_fst | apply inv_foldl_snd | apply inv_foldr | dsimp only | apply veOk_mk

theorem inv_memberMap {s : State} {m : Mooring} {x : MapMsg} {d : MDesc} {p : Parsed} {asker : Nat}
    (ok_s : s.Inv) : (memberMap s m x d p asker).Inv := by
  unfold memberMap
  repeat' with_reducible first | assumption | apply inv_settleDue | apply inv_noteAdvance | apply inv_endFillOf | apply inv_windDown | apply inv_undoUpdate | apply inv_tellNode | apply inv_clearRanges | apply inv_modMooring | apply inv_takeLanterns | intro _ | split | dsimp only

theorem inv_joinFailed {s : State} {x : MapMsg} {asker : Nat} {status : Nat}
    (ok_s : s.Inv) : (joinFailed s x asker status).Inv := by
  unfold joinFailed
  repeat' with_reducible first | assumption | apply inv_tellNode | (refine inv_of_fst ?_ (by assumption)) | (refine inv_of_snd ?_ (by assumption)) | apply lanternOk_lanternAt | apply lanternOk_vec | apply vregOk_regAt | apply veOk_regs | apply veOk_masks | apply regsOk_modify | apply regsOk_zipIdx_map | exact regsOk_replicate | exact masksOk_start _ | apply masksOk_first | apply (List.length_modify ..).trans | apply (length_setAt ..).trans | apply (length_bump ..).trans | apply (length_zipIdx_map ..).trans | apply (List.length_map ..).trans | exact List.length_replicate | rfl | apply veOk_foldl | apply lanternOk_foldl | intro _ | split | apply inv_foldl | apply inv_foldl_fst | apply inv_foldl_snd | apply inv_foldr | dsimp only | apply veOk_mk

theorem inv_joinMap {s : State} {x : MapMsg} {d : MDesc} {b : Bundle} {asker : Nat}
    (ok_s : s.Inv) : (joinMap s x d b asker).Inv := by
  unfold joinMap
  repeat' with_reducible first | assumption | apply inv_joinFailed | apply inv_tellNode | apply inv_openHere | intro _ | split | dsimp only

theorem inv_takeMap {s : State} {x : MapMsg} {asker : Nat}
    (ok_s : s.Inv) : (takeMap s x asker).Inv := by
  unfold takeMap
  repeat' with_reducible first | assumption | apply inv_joinFailed | apply inv_memberMap | apply inv_copyBundle | apply inv_joinMap | apply inv_tellNode | (refine inv_of_fst ?_ (by assumption)) | intro _ | split | dsimp only

theorem inv_reportMove {s : State} {id : Nat} {v : Moving}
    (ok_s : s.Inv) : (reportMove s id v).Inv := by
  unfold reportMove
  repeat' with_reducible first | assumption | apply inv_modMooring | apply inv_tellNode | intro _ | split | dsimp only

theorem inv_reportCopies {s : State} {id : Nat}
    (ok_s : s.Inv) : (reportCopies s id).Inv := by
  unfold reportCopies
  repeat' with_reducible first | assumption | apply inv_modMooring | apply inv_tellNode | intro _ | split | dsimp only

theorem inv_startRefresh {s : State} {id : Nat} {p : Parsed} {t : Nat}
    (ok_s : s.Inv) : (startRefresh s id p t).Inv := by
  unfold startRefresh
  repeat' with_reducible first | assumption | apply inv_modMooring | apply inv_sendRefresh | apply inv_reportCopies | intro _ | split | dsimp only

theorem inv_goOnHere {s : State} {id : Nat} {leaving : List Nat}
    (ok_s : s.Inv) : (goOnHere s id leaving).Inv := by
  unfold goOnHere
  split
  · exact ok_s
  · extract_lets s0
    have h0 : s0.Inv := inv_modMooring ok_s
    split
    · extract_lets here isMap keep s1
      have h1 : s1.Inv := inv_modMooring h0
      clear_value s1
      repeat' with_reducible first | assumption | apply inv_modMooring | apply inv_startRefresh | apply inv_reportCopies | split
    · exact h0

theorem inv_oldMapHere {s : State} {id : Nat}
    (ok_s : s.Inv) : (oldMapHere s id).Inv := by
  unfold oldMapHere
  repeat' with_reducible first | assumption | apply inv_modMooring | apply inv_releaseMooring | apply inv_takeLanterns | intro _ | split | dsimp only

theorem inv_spreadMap {s : State} {id : Nat} {why : Nat} {descBytes : List Byte} {subs : List (Nat × Nat)} {lost : List (Nat × Nat)} {told : List (Nat × List (Nat × Nat))}
    (ok_s : s.Inv) : (spreadMap s id why descBytes subs lost told).Inv := by
  unfold spreadMap
  repeat' with_reducible first | assumption | apply inv_advanceNow | apply inv_windDown | apply inv_takeMap | apply inv_tellNode | intro _ | split | apply inv_foldl | apply inv_foldl_fst | apply inv_foldl_snd | dsimp only

end Sys2Proof.Machine
end

