-- ==== Sys2Proof/Laws/InvPrograms.lean ====
section
/-! SUPPORT. Laws/InvPrograms.lean: the operations of Machine/Programs.lean keep the invariant State.Inv. -/

namespace Sys2Proof.Machine

theorem inv_attAdd {s : State} {f : Nat} {e : AttEntry}
    (ok_s : s.Inv) : (attAdd s f e).Inv := by
  unfold attAdd
  repeat' with_reducible first | assumption | apply inv_modFunc | apply funcOk_mbox | apply funcOk_queues | apply funcOk_slots | apply (List.length_modify ..).trans | apply (length_setAt ..).trans | apply (length_bump ..).trans | apply (length_zipIdx_map ..).trans | apply (List.length_map ..).trans | exact List.length_replicate | rfl | intro _ | split | dsimp only | apply funcOk_mk

theorem inv_putObject {s : State} {name : BitVec 256} {owner : Nat} {n : Nat} {body : ObjBody}
    (ok_s : s.Inv) : (putObject s name owner n body).Inv := by
  unfold putObject
  repeat' with_reducible first | assumption | apply inv_modFlash | intro _ | split | dsimp only

theorem inv_bundleImage {s : State} {src : BundleSrc} {len : Nat} (act : Except Nat (List Byte) → State → State)
    (ok_s : s.Inv) (ok_act : ∀ (y0 : Except Nat (List Byte)) (y1 : State), y1.Inv → (act y0 y1).Inv) :
    (bundleImage s src len act).Inv := by
  unfold bundleImage
  repeat' with_reducible first | assumption | apply inv_readThen | apply ok_act | intro _ | split | dsimp only

theorem inv_addBundle {s : State} {f : Nat} {seed : Nat} {img : List Byte} {p : Parsed}
    (ok_s : s.Inv) : (addBundle s f seed img p).Inv := by
  unfold addBundle
  repeat' with_reducible first | assumption | apply inv_modKeeper | apply inv_attAdd | intro _ | split | dsimp only

theorem inv_execBundleLoad {m : Mbox} {src : BundleSrc} {len : Nat} {seed : Nat} {s : State}
    (ok_s : s.Inv) : OutcomeInv (execBundleLoad m src len seed s) := by
  unfold execBundleLoad
  repeat' with_reducible first | assumption | apply inv_bundleImage | apply outcomeInv_next | apply outcomeInv_fault | apply inv_runCommand | apply inv_answer | apply inv_longAtOnce | apply inv_addBundle | intro _ | split | dsimp only

theorem inv_execBundleUnload {m : Mbox} {handle : Nat} {s : State}
    (ok_s : s.Inv) : OutcomeInv (execBundleUnload m handle s) := by
  unfold execBundleUnload
  repeat' with_reducible first | assumption | apply outcomeInv_next | apply outcomeInv_fault | apply inv_runCommand | apply inv_answer | apply inv_modKeeper | intro _ | split | dsimp only

theorem inv_execBundleStore {m : Mbox} {handle : Nat} {name : BitVec 256} {s : State}
    (ok_s : s.Inv) : OutcomeInv (execBundleStore m handle name s) := by
  unfold execBundleStore
  repeat' with_reducible first | assumption | apply inv_sysCopy | apply outcomeInv_next | apply outcomeInv_fault | apply inv_runCommand | apply inv_answer | apply inv_longAtOnce | apply inv_putObject | intro _ | split | dsimp only

end Sys2Proof.Machine
end

