-- ==== Sys2Proof/Laws/InvSnapshots.lean ====
section
/-! SUPPORT. Laws/InvSnapshots.lean: the operations of Machine/Snapshots.lean keep the invariant State.Inv. -/

namespace Sys2Proof.Machine

theorem inv_committedView {s : State} {m : Mooring} {job : JobState}
    (ok_s : s.Inv) : (committedView s m job).Inv := by
  unfold committedView
  repeat' with_reducible first | assumption | apply inv_undoUpdate | intro _ | split | dsimp only

theorem inv_savePartHere {s : State} {id : Nat} {name : BitVec 256} {job : JobState}
    (ok_s : s.Inv) : (savePartHere s id name job).1.Inv := by
  unfold savePartHere
  repeat' with_reducible first | assumption | apply inv_sysCopy | apply inv_notePoisonLine | apply inv_committedView | apply inv_putObject | intro _ | split | apply inv_foldl | apply inv_foldl_fst | apply inv_foldl_snd | dsimp only

theorem inv_restoreHere {s : State} {id : Nat} {name : BitVec 256} {job : JobState} {asker : Nat}
    (ok_s : s.Inv) : (restoreHere s id name job asker).Inv := by
  unfold restoreHere
  repeat' with_reducible first | assumption | apply inv_modMooring | intro _ | split | dsimp only

theorem inv_givePart {s : State} {x : MapMsg} {name : BitVec 256}
    (ok_s : s.Inv) : (givePart s x name).Inv := by
  unfold givePart
  repeat' with_reducible first | assumption | apply inv_permuteFromPart | intro _ | split | dsimp only

theorem inv_tensorMark {s : State} {m : Mooring} {tensor : Nat}
    (ok_s : s.Inv) : (tensorMark s m tensor).Inv := by
  unfold tensorMark
  repeat' with_reducible first | assumption | apply inv_modMooring | (refine inv_of_fst ?_ (by assumption)) | (refine inv_of_snd ?_ (by assumption)) | apply lanternOk_lanternAt | apply lanternOk_vec | apply vregOk_regAt | apply veOk_regs | apply veOk_masks | apply regsOk_modify | apply regsOk_zipIdx_map | exact regsOk_replicate | exact masksOk_start _ | apply masksOk_first | apply (List.length_modify ..).trans | apply (length_setAt ..).trans | apply (length_bump ..).trans | apply (length_zipIdx_map ..).trans | apply (List.length_map ..).trans | exact List.length_replicate | rfl | apply veOk_foldl | apply lanternOk_foldl | intro _ | split | apply inv_foldl | apply inv_foldl_fst | apply inv_foldl_snd | apply inv_foldr | dsimp only | apply veOk_mk

theorem inv_tensorPut {s : State} {m : Mooring} {tensor : Nat} {spans : List (Nat × Nat)} {bs : List Byte}
    (ok_s : s.Inv) : (tensorPut s m tensor spans bs).Inv := by
  unfold tensorPut
  repeat' with_reducible first | assumption | apply inv_tensorMark | apply inv_writeSpans | apply inv_modMooring | intro _ | split | dsimp only

theorem inv_tensorGet {s : State} {id : Nat} {spans : List (Nat × Nat)}
    (ok_s : s.Inv) : (tensorGet s id spans).1.Inv := by
  unfold tensorGet
  repeat' with_reducible first | assumption | apply inv_notePoisonLine | intro _ | split | apply inv_foldl | apply inv_foldl_fst | apply inv_foldl_snd | dsimp only

theorem inv_remoteWrite {s : State} {id : Nat} {tensor : Nat} {off : Nat} {asker : Nat} {func : Nat} {tag : Nat} {bs : List Byte}
    (ok_s : s.Inv) : (remoteWrite s id tensor off asker func tag bs).Inv := by
  unfold remoteWrite
  repeat' with_reducible first | assumption | apply inv_tellNode | apply inv_tensorPut | intro _ | split | dsimp only

theorem inv_remoteRead {s : State} {id : Nat} {tensor : Nat} {off : Nat} {len : Nat} {step : Nat} {asker : Nat} {func : Nat} {tag : Nat}
    (ok_s : s.Inv) : (remoteRead s id tensor off len step asker func tag).Inv := by
  unfold remoteRead
  repeat' with_reducible first | assumption | apply inv_tellNode | apply inv_tensorGet | (refine inv_of_fst ?_ (by assumption)) | intro _ | split | dsimp only

theorem inv_tensorAnswered {s : State} {func : Nat} {tag : Nat} {status : Nat} {bs : List Byte}
    (ok_s : s.Inv) : (tensorAnswered s func tag status bs).Inv := by
  unfold tensorAnswered
  repeat' with_reducible first | assumption | apply inv_finishOp | apply inv_keeperWrite | apply exceptInv_ok | apply exceptInv_error | (refine exceptInv_apply ?_ (by assumption)) | intro _ | split | dsimp only

theorem inv_startCopy {s : State} {m : Mbox} {r : Request} {addr : Nat} {moves : List DmaDesc} {before : State → State}
    (ok_s : s.Inv) (ok_before : ∀ y : State, y.Inv → (before y).Inv) : (startCopy s m r addr moves before).Inv := by
  unfold startCopy
  repeat' with_reducible first | assumption | apply ok_before | apply ok_before | apply inv_longAtOnce | apply inv_modChan | apply inv_acceptLong | intro _ | split | dsimp only

theorem inv_execTensorWrite {m : Mbox} {tensor : Nat} {node : Nat} {off : Nat} {len : Nat} {src : Nat} {s : State}
    (ok_s : s.Inv) : OutcomeInv (execTensorWrite m tensor node off len src s) := by
  unfold execTensorWrite
  repeat' with_reducible first | assumption | apply inv_readThen | apply inv_tensorMark | apply inv_startCopy | apply outcomeInv_next | apply outcomeInv_fault | apply inv_runCommand | apply inv_answer | apply inv_longAtOnce | apply inv_tensorPut | apply inv_tellNode | apply inv_acceptLong | intro _ | split | dsimp only

theorem inv_execTensorRead {m : Mbox} {tensor : Nat} {node : Nat} {off : Nat} {len : Nat} {dst : Nat} {step : Nat} {s : State}
    (ok_s : s.Inv) : OutcomeInv (execTensorRead m tensor node off len dst step s) := by
  unfold execTensorRead
  repeat' with_reducible first | assumption | apply inv_startCopy | apply outcomeInv_next | apply outcomeInv_fault | apply inv_runCommand | apply inv_answer | apply inv_tensorGet | apply inv_longAtOnce | apply inv_keeperWrite | apply inv_tellNode | apply inv_acceptLong | apply exceptInv_ok | apply exceptInv_error | (refine exceptInv_apply ?_ (by assumption)) | (refine inv_of_fst ?_ (by assumption)) | intro _ | split | dsimp only

theorem inv_execSnapshotDelete {m : Mbox} {name : BitVec 256} {s : State}
    (ok_s : s.Inv) : OutcomeInv (execSnapshotDelete m name s) := by
  unfold execSnapshotDelete
  repeat' with_reducible first | assumption | apply outcomeInv_next | apply outcomeInv_fault | apply inv_runCommand | apply inv_answer | apply inv_modFlash | apply inv_tellNodes | intro _ | split | dsimp only

end Sys2Proof.Machine
end

