-- ==== Sys2Proof/Laws/InvBoundary.lean ====
section
/-! SUPPORT. Laws/InvBoundary.lean: the operations of Machine/Boundary.lean keep the invariant State.Inv. -/

namespace Sys2Proof.Machine

theorem inv_replyTo {s : State} {po : Poster} {status : Nat} {result : List Byte} {detail : Nat}
    (ok_s : s.Inv) : (replyTo s po status result detail).Inv := by
  unfold replyTo
  repeat' with_reducible first | assumption | apply inv_answer | apply inv_tellNode | intro _ | split | dsimp only

theorem inv_acceptFrom {s : State} {po : Poster} {opcode : Nat} {kind : OpKind}
    (ok_s : s.Inv) : (acceptFrom s po opcode kind).Inv := by
  unfold acceptFrom
  repeat' with_reducible first | assumption | apply inv_acceptLong | apply inv_modOp | apply inv_modKeeper | apply inv_tellNode | intro _ | split | dsimp only

theorem inv_forwardTo {s : State} {m : Mbox} {r : Request} {anchor : Nat} {cmd : FwdCmd}
    (ok_s : s.Inv) : (forwardTo s m r anchor cmd).Inv := by
  unfold forwardTo
  repeat' with_reducible first | assumption | apply inv_tellNode | apply inv_modKeeper | intro _ | split | dsimp only

theorem inv_endForwarded {s : State} {o : LongOp} {status : Nat}
    (ok_s : s.Inv) : (endForwarded s o status).Inv := by
  unfold endForwarded
  repeat' with_reducible first | assumption | apply inv_abortSteps | apply inv_finishOp | (refine inv_of_fst ?_ (by assumption)) | (refine inv_of_snd ?_ (by assumption)) | apply lanternOk_lanternAt | apply lanternOk_vec | apply vregOk_regAt | apply veOk_regs | apply veOk_masks | apply regsOk_modify | apply regsOk_zipIdx_map | exact regsOk_replicate | exact masksOk_start _ | apply masksOk_first | apply (List.length_modify ..).trans | apply (length_setAt ..).trans | apply (length_bump ..).trans | apply (length_zipIdx_map ..).trans | apply (List.length_map ..).trans | exact List.length_replicate | rfl | apply veOk_foldl | apply lanternOk_foldl | intro _ | split | apply inv_foldl | apply inv_foldl_fst | apply inv_foldl_snd | apply inv_foldr | dsimp only | apply veOk_mk

theorem inv_orphanReply {s : State} {src : Nat} {func : Nat} {tag : Nat} {status : Nat}
    (ok_s : s.Inv) : (orphanReply s src func tag status).Inv := by
  unfold orphanReply
  repeat' with_reducible first | assumption | apply inv_tellNode | apply inv_endForwarded | (refine inv_of_fst ?_ (by assumption)) | (refine inv_of_snd ?_ (by assumption)) | apply lanternOk_lanternAt | apply lanternOk_vec | apply vregOk_regAt | apply veOk_regs | apply veOk_masks | apply regsOk_modify | apply regsOk_zipIdx_map | exact regsOk_replicate | exact masksOk_start _ | apply masksOk_first | apply (List.length_modify ..).trans | apply (length_setAt ..).trans | apply (length_bump ..).trans | apply (length_zipIdx_map ..).trans | apply (List.length_map ..).trans | exact List.length_replicate | rfl | apply veOk_foldl | apply lanternOk_foldl | intro _ | split | apply inv_foldl | apply inv_foldl_fst | apply inv_foldl_snd | apply inv_foldr | dsimp only | apply veOk_mk

theorem inv_forwardReplied {s : State} {src : Nat} {func : Nat} {tag : Nat} {status : Nat} {result : List Byte} {detail : Nat}
    (ok_s : s.Inv) : (forwardReplied s src func tag status result detail).Inv := by
  unfold forwardReplied
  repeat' with_reducible first | assumption | apply inv_orphanReply | apply inv_modKeeper | apply inv_acceptLong | apply inv_answer | intro _ | split | dsimp only

theorem inv_passHold {s : State} {id : Nat}
    (ok_s : s.Inv) : (passHold s id).Inv := by
  unfold passHold
  repeat' with_reducible first | assumption | apply inv_releaseHolds | apply inv_modMooring | intro _ | split | dsimp only

theorem inv_startRunHere {s : State} {id : Nat} {first : Nat} {count : Nat} {position : Nat}
    (ok_s : s.Inv) : (startRunHere s id first count position).Inv := by
  unfold startRunHere
  repeat' with_reducible first | assumption | apply inv_modMooring | intro _ | split | dsimp only

theorem inv_resumeRun {s : State} {id : Nat}
    (ok_s : s.Inv) : (resumeRun s id).Inv := by
  unfold resumeRun
  repeat' with_reducible first | assumption | apply inv_tellNodes | apply inv_tellNode | apply inv_modOp | apply inv_dropOp | apply inv_modMooring | intro _ | split | dsimp only

theorem inv_execMooringOpen {m : Mbox} {answers : List Answer} {s : State}
    (ok_s : s.Inv) : OutcomeInv (execMooringOpen m answers s) := by
  unfold execMooringOpen
  repeat' with_reducible first | assumption | apply inv_alone | apply outcomeInv_next | apply outcomeInv_fault | apply inv_runCommand | apply inv_answer | apply inv_longAtOnce | apply inv_nameOpened | apply inv_openHere | apply inv_tellNodes | intro _ | split | dsimp only

theorem inv_abortOthers {s : State} {id : Nat}
    (ok_s : s.Inv) : (abortOthers s id).Inv := by
  unfold abortOthers
  repeat' with_reducible first | assumption | apply inv_finishOp | intro _ | split | apply inv_foldl | apply inv_foldl_fst | apply inv_foldl_snd | dsimp only

theorem inv_performClose {s : State} {id : Nat} {o : LongOp}
    (ok_s : s.Inv) : (performClose s id o).Inv := by
  unfold performClose
  repeat' with_reducible first | assumption | apply inv_closeSlot | apply inv_cutRunShort | apply inv_abortOthers | apply inv_breakRun | apply inv_tellNodes | apply inv_releaseMooring | apply inv_finishOp | intro _ | split | dsimp only

theorem inv_performSnapshot {s : State} {id : Nat} {name : BitVec 256}
    (ok_s : s.Inv) : (performSnapshot s id name).Inv := by
  unfold performSnapshot
  repeat' with_reducible first | assumption | apply inv_savePartHere | apply inv_finishOp | apply inv_modMooring | apply inv_tellNodes | (refine inv_of_fst ?_ (by assumption)) | intro _ | split | dsimp only

theorem inv_performMove {s : State} {id : Nat} {opcode : Nat} {bs : List Byte}
    (ok_s : s.Inv) : (performMove s id opcode bs).Inv := by
  unfold performMove
  repeat' with_reducible first | assumption | apply inv_deferEpoch | apply inv_spreadMap | apply inv_tellNodes | apply inv_oldMapHere | apply inv_finishOp | intro _ | split | dsimp only

theorem inv_askFaults {s : State} {id : Nat}
    (ok_s : s.Inv) : (askFaults s id).Inv := by
  unfold askFaults
  repeat' with_reducible first | assumption | apply inv_tellNodes | apply inv_modMooring | (refine inv_of_fst ?_ (by assumption)) | (refine inv_of_snd ?_ (by assumption)) | apply lanternOk_lanternAt | apply lanternOk_vec | apply vregOk_regAt | apply veOk_regs | apply veOk_masks | apply regsOk_modify | apply regsOk_zipIdx_map | exact regsOk_replicate | exact masksOk_start _ | apply masksOk_first | apply (List.length_modify ..).trans | apply (length_setAt ..).trans | apply (length_bump ..).trans | apply (length_zipIdx_map ..).trans | apply (List.length_map ..).trans | exact List.length_replicate | rfl | apply veOk_foldl | apply lanternOk_foldl | intro _ | split | apply inv_foldl | apply inv_foldl_fst | apply inv_foldl_snd | apply inv_foldr | dsimp only | apply veOk_mk

theorem inv_faultAsked {s : State} {id : Nat} {node : Nat}
    (ok_s : s.Inv) : (faultAsked s id node).Inv := by
  unfold faultAsked
  repeat' with_reducible first | assumption | apply inv_modMooring | apply inv_tellNode | (refine inv_of_fst ?_ (by assumption)) | (refine inv_of_snd ?_ (by assumption)) | apply lanternOk_lanternAt | apply lanternOk_vec | apply vregOk_regAt | apply veOk_regs | apply veOk_masks | apply regsOk_modify | apply regsOk_zipIdx_map | exact regsOk_replicate | exact masksOk_start _ | apply masksOk_first | apply (List.length_modify ..).trans | apply (length_setAt ..).trans | apply (length_bump ..).trans | apply (length_zipIdx_map ..).trans | apply (List.length_map ..).trans | exact List.length_replicate | rfl | apply veOk_foldl | apply lanternOk_foldl | intro _ | split | apply inv_foldl | apply inv_foldl_fst | apply inv_foldl_snd | apply inv_foldr | dsimp only | apply veOk_mk

theorem inv_finishSnapshot {s : State} {id : Nat}
    (ok_s : s.Inv) : (finishSnapshot s id).Inv := by
  unfold finishSnapshot
  repeat' with_reducible first | assumption | apply inv_modMooring | apply inv_finishOp | intro _ | split | dsimp only

theorem inv_unpause {s : State} {id : Nat}
    (ok_s : s.Inv) : (unpause s id).Inv := by
  unfold unpause
  repeat' with_reducible first | assumption | apply inv_goOnHere | apply inv_tellNodes | intro _ | split | dsimp only

theorem inv_performPending {x1 : Nat} {x2 : State} {x3 : Nat}
    (ok_x2 : x2.Inv) : (performPending x1 x2 x3).Inv := by
  induction x1 generalizing x2 x3 with
  | zero =>
    unfold performPending
    repeat' with_reducible first | assumption | apply inv_passHold | apply inv_performClose | apply inv_unpause | apply inv_finishSnapshot | apply inv_performSnapshot | apply inv_performMove | intro _ | split | dsimp only
  | succ n ih =>
    unfold performPending
    repeat' with_reducible first | assumption | apply ih | apply inv_passHold | apply inv_performClose | apply inv_unpause | apply inv_finishSnapshot | apply inv_performSnapshot | apply inv_performMove | intro _ | split | dsimp only

theorem inv_atBoundary {s : State} {id : Nat}
    (ok_s : s.Inv) : (atBoundary s id).Inv := by
  unfold atBoundary
  repeat' with_reducible first | assumption | apply inv_performPending | intro _ | split | dsimp only

theorem inv_awaitBoundary {s0 : State} {id : Nat}
    (ok_s0 : s0.Inv) : (awaitBoundary s0 id).Inv := by
  unfold awaitBoundary
  repeat' with_reducible first | assumption | apply inv_askFaults | apply inv_atBoundary | apply inv_tellNodes | apply inv_modMooring | intro _ | split | dsimp only

theorem inv_setLending {s : State} {x : Lending}
    (ok_s : s.Inv) : (setLending s x).Inv := by
  unfold setLending
  repeat' with_reducible first | assumption | apply inv_modOp | apply inv_lendOpens | (refine inv_of_fst ?_ (by assumption)) | (refine inv_of_snd ?_ (by assumption)) | apply lanternOk_lanternAt | apply lanternOk_vec | apply vregOk_regAt | apply veOk_regs | apply veOk_masks | apply regsOk_modify | apply regsOk_zipIdx_map | exact regsOk_replicate | exact masksOk_start _ | apply masksOk_first | apply (List.length_modify ..).trans | apply (length_setAt ..).trans | apply (length_bump ..).trans | apply (length_zipIdx_map ..).trans | apply (List.length_map ..).trans | exact List.length_replicate | rfl | apply veOk_foldl | apply lanternOk_foldl | intro _ | split | apply inv_foldl | apply inv_foldl_fst | apply inv_foldl_snd | apply inv_foldr | dsimp only | apply veOk_mk

theorem inv_lendAsk {s : State} {x : Lending} {it : LendItem} {msg : MapMsg}
    (ok_s : s.Inv) : (lendAsk s x it msg).Inv := by
  unfold lendAsk
  repeat' with_reducible first | assumption | apply inv_setLending | apply inv_tellNodes | (refine inv_of_fst ?_ (by assumption)) | (refine inv_of_snd ?_ (by assumption)) | apply lanternOk_lanternAt | apply lanternOk_vec | apply vregOk_regAt | apply veOk_regs | apply veOk_masks | apply regsOk_modify | apply regsOk_zipIdx_map | exact regsOk_replicate | exact masksOk_start _ | apply masksOk_first | apply (List.length_modify ..).trans | apply (length_setAt ..).trans | apply (length_bump ..).trans | apply (length_zipIdx_map ..).trans | apply (List.length_map ..).trans | exact List.length_replicate | rfl | apply veOk_foldl | apply lanternOk_foldl | intro _ | split | apply inv_foldl | apply inv_foldl_fst | apply inv_foldl_snd | apply inv_foldr | dsimp only | apply veOk_mk

theorem inv_lendOpen {s : State} {x : Lending} {it : LendItem} {msg : MapMsg}
    (ok_s : s.Inv) : (lendOpen s x it msg).Inv := by
  unfold lendOpen
  repeat' with_reducible first | assumption | apply inv_tellNodes | apply inv_takeMap | apply inv_setLending | (refine inv_of_fst ?_ (by assumption)) | (refine inv_of_snd ?_ (by assumption)) | apply lanternOk_lanternAt | apply lanternOk_vec | apply vregOk_regAt | apply veOk_regs | apply veOk_masks | apply regsOk_modify | apply regsOk_zipIdx_map | exact regsOk_replicate | exact masksOk_start _ | apply masksOk_first | apply (List.length_modify ..).trans | apply (length_setAt ..).trans | apply (length_bump ..).trans | apply (length_zipIdx_map ..).trans | apply (List.length_map ..).trans | exact List.length_replicate | rfl | apply veOk_foldl | apply lanternOk_foldl | intro _ | split | apply inv_foldl | apply inv_foldl_fst | apply inv_foldl_snd | apply inv_foldr | dsimp only | apply veOk_mk

theorem inv_lendUndo {s : State} {x : Lending} {it : LendItem}
    (ok_s : s.Inv) : (lendUndo s x it).Inv := by
  unfold lendUndo
  repeat' with_reducible first | assumption | apply inv_tellNodes | apply inv_releaseMooring | (refine inv_of_fst ?_ (by assumption)) | (refine inv_of_snd ?_ (by assumption)) | apply lanternOk_lanternAt | apply lanternOk_vec | apply vregOk_regAt | apply veOk_regs | apply veOk_masks | apply regsOk_modify | apply regsOk_zipIdx_map | exact regsOk_replicate | exact masksOk_start _ | apply masksOk_first | apply (List.length_modify ..).trans | apply (length_setAt ..).trans | apply (length_bump ..).trans | apply (length_zipIdx_map ..).trans | apply (List.length_map ..).trans | exact List.length_replicate | rfl | apply veOk_foldl | apply lanternOk_foldl | intro _ | split | apply inv_foldl | apply inv_foldl_fst | apply inv_foldl_snd | apply inv_foldr | dsimp only | apply veOk_mk

theorem inv_lendFails {s : State} {x : Lending} {it : LendItem} {a : Answer}
    (ok_s : s.Inv) : (lendFails s x it a).Inv := by
  unfold lendFails
  repeat' with_reducible first | assumption | apply inv_finishOp | apply inv_lendUndo | (refine inv_of_fst ?_ (by assumption)) | (refine inv_of_snd ?_ (by assumption)) | apply lanternOk_lanternAt | apply lanternOk_vec | apply vregOk_regAt | apply veOk_regs | apply veOk_masks | apply regsOk_modify | apply regsOk_zipIdx_map | exact regsOk_replicate | exact masksOk_start _ | apply masksOk_first | apply (List.length_modify ..).trans | apply (length_setAt ..).trans | apply (length_bump ..).trans | apply (length_zipIdx_map ..).trans | apply (List.length_map ..).trans | exact List.length_replicate | rfl | apply veOk_foldl | apply lanternOk_foldl | intro _ | split | apply inv_foldl | apply inv_foldl_fst | apply inv_foldl_snd | apply inv_foldr | dsimp only | apply veOk_mk

theorem inv_abortLending {s : State} {o : LongOp} {status : Nat}
    (ok_s : s.Inv) : (abortLending s o status).Inv := by
  unfold abortLending
  repeat' with_reducible first | assumption | apply inv_finishOp | apply inv_lendUndo | (refine inv_of_fst ?_ (by assumption)) | (refine inv_of_snd ?_ (by assumption)) | apply lanternOk_lanternAt | apply lanternOk_vec | apply vregOk_regAt | apply veOk_regs | apply veOk_masks | apply regsOk_modify | apply regsOk_zipIdx_map | exact regsOk_replicate | exact masksOk_start _ | apply masksOk_first | apply (List.length_modify ..).trans | apply (length_setAt ..).trans | apply (length_bump ..).trans | apply (length_zipIdx_map ..).trans | apply (List.length_map ..).trans | exact List.length_replicate | rfl | apply veOk_foldl | apply lanternOk_foldl | intro _ | split | apply inv_foldl | apply inv_foldl_fst | apply inv_foldl_snd | apply inv_foldr | dsimp only | apply veOk_mk

theorem inv_lendGoOn {n : Nat} {s : State} {id : Nat} (ok_s : s.Inv) : (lendGoOn n s id).Inv := by
  induction n generalizing s with
  | zero => exact ok_s
  | succ n ih =>
    unfold lendGoOn
    repeat' with_reducible first | assumption | apply ih | apply inv_finishOp | apply inv_lendFails | apply inv_setLending | apply inv_lendAsk | apply inv_lendOpen | split | dsimp only

theorem inv_lendOpens {s : State} {id : Nat}
    (ok_s : s.Inv) : (lendOpens s id).Inv := by
  unfold lendOpens
  repeat' with_reducible first | assumption | apply inv_lendGoOn | apply inv_lendFails | apply inv_lendAsk | apply inv_tellNodes | apply inv_takeMap | apply inv_finishOp | intro _ | split | apply inv_foldl | apply inv_foldl_fst | apply inv_foldl_snd | dsimp only

theorem inv_lendHeard {s : State} {x : Lending} {id : Nat} {a : Answer}
    (ok_s : s.Inv) : (lendHeard s x id a).Inv := by
  unfold lendHeard
  repeat' with_reducible first | assumption | apply inv_lendGoOn | apply inv_setLending | (refine inv_of_fst ?_ (by assumption)) | (refine inv_of_snd ?_ (by assumption)) | apply lanternOk_lanternAt | apply lanternOk_vec | apply vregOk_regAt | apply veOk_regs | apply veOk_masks | apply regsOk_modify | apply regsOk_zipIdx_map | exact regsOk_replicate | exact masksOk_start _ | apply masksOk_first | apply (List.length_modify ..).trans | apply (length_setAt ..).trans | apply (length_bump ..).trans | apply (length_zipIdx_map ..).trans | apply (List.length_map ..).trans | exact List.length_replicate | rfl | apply veOk_foldl | apply lanternOk_foldl | intro _ | split | apply inv_foldl | apply inv_foldl_fst | apply inv_foldl_snd | apply inv_foldr | dsimp only | apply veOk_mk

theorem inv_openAnswered {s : State} {lent : Nat} {mooring : Nat} {a : Answer}
    (ok_s : s.Inv) : (openAnswered s lent mooring a).Inv := by
  unfold openAnswered
  repeat' with_reducible first | assumption | apply inv_lendHeard | (refine inv_of_fst ?_ (by assumption)) | (refine inv_of_snd ?_ (by assumption)) | apply lanternOk_lanternAt | apply lanternOk_vec | apply vregOk_regAt | apply veOk_regs | apply veOk_masks | apply regsOk_modify | apply regsOk_zipIdx_map | exact regsOk_replicate | exact masksOk_start _ | apply masksOk_first | apply (List.length_modify ..).trans | apply (length_setAt ..).trans | apply (length_bump ..).trans | apply (length_zipIdx_map ..).trans | apply (List.length_map ..).trans | exact List.length_replicate | rfl | apply veOk_foldl | apply lanternOk_foldl | intro _ | split | apply inv_foldl | apply inv_foldl_fst | apply inv_foldl_snd | apply inv_foldr | dsimp only | apply veOk_mk

theorem inv_openedAt {s : State} {mooring : Nat} {node : Nat} {status : Nat}
    (ok_s : s.Inv) : (openedAt s mooring node status).Inv := by
  unfold openedAt
  repeat' with_reducible first | assumption | apply inv_lendHeard | (refine inv_of_fst ?_ (by assumption)) | (refine inv_of_snd ?_ (by assumption)) | apply lanternOk_lanternAt | apply lanternOk_vec | apply vregOk_regAt | apply veOk_regs | apply veOk_masks | apply regsOk_modify | apply regsOk_zipIdx_map | exact regsOk_replicate | exact masksOk_start _ | apply masksOk_first | apply (List.length_modify ..).trans | apply (length_setAt ..).trans | apply (length_bump ..).trans | apply (length_zipIdx_map ..).trans | apply (List.length_map ..).trans | exact List.length_replicate | rfl | apply veOk_foldl | apply lanternOk_foldl | intro _ | split | apply inv_foldl | apply inv_foldl_fst | apply inv_foldl_snd | apply inv_foldr | dsimp only | apply veOk_mk

theorem inv_execForwardTimeout {func : Nat} {tag : Nat} {s : State}
    (ok_s : s.Inv) : OutcomeInv (execForwardTimeout func tag s) := by
  unfold execForwardTimeout
  repeat' with_reducible first | assumption | apply inv_lendFails | apply outcomeInv_next | apply outcomeInv_fault | apply inv_forwardReplied | intro _ | split | dsimp only

theorem inv_releaseLeaving {s : State} {id : Nat}
    (ok_s : s.Inv) : (releaseLeaving s id).Inv := by
  unfold releaseLeaving
  repeat' with_reducible first | assumption | apply inv_tellNodes | apply inv_lendOpens | apply inv_modMooring | intro _ | split | dsimp only

theorem inv_abortLeft {s : State} {id : Nat}
    (ok_s : s.Inv) : (abortLeft s id).Inv := by
  unfold abortLeft
  repeat' with_reducible first | assumption | apply inv_stopCopy | apply inv_lendOpens | apply inv_foldl | apply inv_finishOp | (refine inv_of_fst ?_ (by assumption)) | (refine inv_of_snd ?_ (by assumption)) | apply lanternOk_lanternAt | apply lanternOk_vec | apply vregOk_regAt | apply veOk_regs | apply veOk_masks | apply regsOk_modify | apply regsOk_zipIdx_map | exact regsOk_replicate | exact masksOk_start _ | apply masksOk_first | apply (List.length_modify ..).trans | apply (length_setAt ..).trans | apply (length_bump ..).trans | apply (length_zipIdx_map ..).trans | apply (List.length_map ..).trans | exact List.length_replicate | rfl | apply veOk_foldl | apply lanternOk_foldl | intro _ | split | apply inv_foldl | apply inv_foldl_fst | apply inv_foldl_snd | apply inv_foldr | dsimp only | apply veOk_mk

theorem inv_leaveHere {s : State} {id : Nat}
    (ok_s : s.Inv) : (leaveHere s id).Inv := by
  unfold leaveHere
  repeat' with_reducible first | assumption | apply inv_abortLeft | apply inv_lendOpens | apply inv_releaseMooring | intro _ | split | dsimp only

theorem inv_openAsked {s : State} {x : MapMsg} {lent : Nat} {src : Nat}
    (ok_s : s.Inv) : (openAsked s x lent src).Inv := by
  unfold openAsked
  repeat' with_reducible first | assumption | apply inv_leaveHere | apply inv_tellNode | (refine inv_of_fst ?_ (by assumption)) | (refine inv_of_snd ?_ (by assumption)) | apply lanternOk_lanternAt | apply lanternOk_vec | apply vregOk_regAt | apply veOk_regs | apply veOk_masks | apply regsOk_modify | apply regsOk_zipIdx_map | exact regsOk_replicate | exact masksOk_start _ | apply masksOk_first | apply (List.length_modify ..).trans | apply (length_setAt ..).trans | apply (length_bump ..).trans | apply (length_zipIdx_map ..).trans | apply (List.length_map ..).trans | exact List.length_replicate | rfl | apply veOk_foldl | apply lanternOk_foldl | intro _ | split | apply inv_foldl | apply inv_foldl_fst | apply inv_foldl_snd | apply inv_foldr | dsimp only | apply veOk_mk

theorem inv_finishMove {s : State} {id : Nat} {total : Nat}
    (ok_s : s.Inv) : (finishMove s id total).Inv := by
  unfold finishMove
  repeat' with_reducible first | assumption | apply inv_modOp | apply inv_finishOp | intro _ | split | dsimp only

theorem inv_completeMove {s : State} {id : Nat}
    (ok_s : s.Inv) : (completeMove s id).Inv := by
  unfold completeMove
  repeat' with_reducible first | assumption | apply inv_tellSlot | apply inv_finishMove | apply inv_goOnHere | apply inv_tellNodes | apply inv_resumeRun | apply inv_lendOpens | apply inv_modMooring | apply inv_leaveHere | apply inv_atBoundary | intro _ | split | dsimp only

theorem inv_failMove {s : State} {id : Nat}
    (ok_s : s.Inv) : (failMove s id).Inv := by
  unfold failMove
  repeat' with_reducible first | assumption | apply inv_tellSlot | apply inv_oldMapHere | apply inv_tellNodes | apply inv_finishOp | apply inv_atBoundary | apply inv_resumeRun | intro _ | split | dsimp only

theorem inv_memberMoved {s : State} {id : Nat} {node : Nat} {bytes : Nat}
    (ok_s : s.Inv) : (memberMoved s id node bytes).Inv := by
  unfold memberMoved
  repeat' with_reducible first | assumption | apply inv_completeMove | apply inv_modMooring | intro _ | split | dsimp only

theorem inv_moveCommand {s : State} {po : Poster} {id : Nat} {opcode : Nat} {bs : List Byte} {items : List LendItem} {answers : List Answer}
    (ok_s : s.Inv) : (moveCommand s po id opcode bs items answers).Inv := by
  unfold moveCommand
  repeat' with_reducible first | assumption | apply inv_replyTo | apply inv_awaitBoundary | apply inv_acceptFrom | intro _ | split | dsimp only

theorem inv_closeCommand {s : State} {po : Poster} {id : Nat}
    (ok_s : s.Inv) : (closeCommand s po id).Inv := by
  unfold closeCommand
  repeat' with_reducible first | assumption | apply inv_replyTo | apply inv_awaitBoundary | apply inv_acceptFrom | intro _ | split | dsimp only

theorem inv_statusCommand {s : State} {po : Poster} {id : Nat}
    (ok_s : s.Inv) : (statusCommand s po id).Inv := by
  unfold statusCommand
  repeat' with_reducible first | assumption | apply inv_replyTo | intro _ | split | dsimp only

theorem inv_runStepsAct {s : State} {po : Poster} {id : Nat} {first : Nat} {count : Nat} {position : Nat} {done : Option Nat}
    (ok_s : s.Inv) : (runStepsAct s po id first count position done).Inv := by
  unfold runStepsAct
  repeat' with_reducible first | assumption | apply inv_tellSlot | apply inv_replyTo | apply inv_acceptFrom | apply inv_modMooring | apply inv_tellNodes | apply inv_startRunHere | intro _ | split | dsimp only

theorem inv_atAnchor {m : Mbox} {r : Request} {cmd : FwdCmd} (act : Poster → State → State) {s : State}
    (ok_act : ∀ (y0 : Poster) (y1 : State), y1.Inv → (act y0 y1).Inv) (ok_s : s.Inv) : (atAnchor m r cmd act s).Inv := by
  unfold atAnchor
  repeat' with_reducible first | assumption | apply inv_answer | apply inv_forwardTo | apply ok_act | intro _ | split | dsimp only

theorem inv_runForwarded {s : State} {node : Nat} {func : Nat} {tag : Nat} {id : Nat} {deadline : Nat} {cmd : FwdCmd}
    (ok_s : s.Inv) : (runForwarded s node func tag id deadline cmd).Inv := by
  unfold runForwarded
  repeat' with_reducible first | assumption | apply inv_replyTo | apply inv_runStepsAct | apply inv_closeCommand | apply inv_statusCommand | apply inv_moveCommand | intro _ | split | dsimp only

theorem inv_execMooringGrow {m : Mbox} {answers : List Answer} {s : State}
    (ok_s : s.Inv) : OutcomeInv (execMooringGrow m answers s) := by
  unfold execMooringGrow
  repeat' with_reducible first | assumption | apply outcomeInv_next | apply outcomeInv_fault | apply inv_runCommand | apply inv_atAnchor | apply inv_moveCommand | intro _ | split | dsimp only

theorem inv_execMooringShrink {m : Mbox} {answers : List Answer} {s : State}
    (ok_s : s.Inv) : OutcomeInv (execMooringShrink m answers s) := by
  unfold execMooringShrink
  repeat' with_reducible first | assumption | apply outcomeInv_next | apply outcomeInv_fault | apply inv_runCommand | apply inv_atAnchor | apply inv_moveCommand | intro _ | split | dsimp only

theorem inv_execMooringMove {m : Mbox} {answers : List Answer} {s : State}
    (ok_s : s.Inv) : OutcomeInv (execMooringMove m answers s) := by
  unfold execMooringMove
  repeat' with_reducible first | assumption | apply outcomeInv_next | apply outcomeInv_fault | apply inv_runCommand | apply inv_atAnchor | apply inv_moveCommand | intro _ | split | dsimp only

theorem inv_execMooringLend {m : Mbox} {serving : List LendItem} {answers : List Answer} {s : State}
    (ok_s : s.Inv) : OutcomeInv (execMooringLend m serving answers s) := by
  unfold execMooringLend
  repeat' with_reducible first | assumption | apply outcomeInv_next | apply outcomeInv_fault | apply inv_runCommand | apply inv_atAnchor | apply inv_moveCommand | intro _ | split | dsimp only

theorem inv_execMooringClose {m : Mbox} {s : State}
    (ok_s : s.Inv) : OutcomeInv (execMooringClose m s) := by
  unfold execMooringClose
  repeat' with_reducible first | assumption | apply outcomeInv_next | apply outcomeInv_fault | apply inv_runCommand | apply inv_atAnchor | apply inv_closeCommand | intro _ | split | dsimp only

theorem inv_execMooringStatus {m : Mbox} {s : State}
    (ok_s : s.Inv) : OutcomeInv (execMooringStatus m s) := by
  unfold execMooringStatus
  repeat' with_reducible first | assumption | apply outcomeInv_next | apply outcomeInv_fault | apply inv_runCommand | apply inv_atAnchor | apply inv_statusCommand | intro _ | split | dsimp only

theorem inv_execRunSteps {m : Mbox} {first : Nat} {count : Nat} {position : Nat} {s : State}
    (ok_s : s.Inv) : OutcomeInv (execRunSteps m first count position s) := by
  unfold execRunSteps
  repeat' with_reducible first | assumption | apply outcomeInv_next | apply outcomeInv_fault | apply inv_runCommand | apply inv_atAnchor | apply inv_runStepsAct | intro _ | split | dsimp only

theorem inv_execSnapshotSave {m : Mbox} {name : BitVec 256} {s : State}
    (ok_s : s.Inv) : OutcomeInv (execSnapshotSave m name s) := by
  unfold execSnapshotSave
  repeat' with_reducible first | assumption | apply outcomeInv_next | apply outcomeInv_fault | apply inv_runCommand | apply inv_answer | apply inv_awaitBoundary | apply inv_acceptLong | intro _ | split | dsimp only

theorem inv_execSnapshotRestore {m : Mbox} {name : BitVec 256} {holders : List Answer} {s : State}
    (ok_s : s.Inv) : OutcomeInv (execSnapshotRestore m name holders s) := by
  unfold execSnapshotRestore
  repeat' with_reducible first | assumption | apply outcomeInv_next | apply outcomeInv_fault | apply inv_runCommand | apply inv_answer | apply inv_longAtOnce | apply inv_acceptLong | apply inv_tellNodes | apply inv_restoreHere | intro _ | split | dsimp only

end Sys2Proof.Machine
end

