-- ==== Sys2Proof/Laws/InvFaults.lean ====
section
/-! SUPPORT. Laws/InvFaults.lean: the operations of Machine/Faults.lean keep the invariant State.Inv. -/

namespace Sys2Proof.Machine

theorem ok_sampleLantern {x : Lantern}
    (ok_x : x.Ok) : (sampleLantern x).Ok := by
  unfold sampleLantern
  repeat' with_reducible first | assumption | apply lanternOk_events | apply lanternOk_dma | apply lanternOk_vec | apply (List.length_modify ..).trans | apply (length_setAt ..).trans | apply (length_bump ..).trans | apply (length_zipIdx_map ..).trans | apply (List.length_map ..).trans | exact List.length_replicate | rfl | intro _ | split | dsimp only | apply lanternOk_mk

theorem inv_fogSignal {s : State} {l : Nat} {wait : Bool}
    (ok_s : s.Inv) : (fogSignal s l wait).Inv := by
  unfold fogSignal
  repeat' with_reducible first | assumption | apply inv_lanternEvent | apply inv_bumpLantern | apply inv_modLantern | apply inv_raiseEventMore | apply inv_startLanternReset | apply lanternOk_lanternAt | apply lanternOk_events | apply lanternOk_dma | apply lanternOk_vec | apply (List.length_modify ..).trans | apply (length_setAt ..).trans | apply (length_bump ..).trans | apply (length_zipIdx_map ..).trans | apply (List.length_map ..).trans | exact List.length_replicate | rfl | intro _ | split | dsimp only | apply lanternOk_mk

theorem inv_execBeaconSample {l : Nat} {s : State}
    (ok_s : s.Inv) : OutcomeInv (execBeaconSample l s) := by
  unfold execBeaconSample
  repeat' with_reducible first | assumption | apply outcomeInv_next | apply outcomeInv_fault | apply inv_modLantern | apply ok_sampleLantern | apply inv_fogSignal | apply lanternOk_lanternAt | apply lanternOk_events | apply lanternOk_dma | apply lanternOk_vec | apply (List.length_modify ..).trans | apply (length_setAt ..).trans | apply (length_bump ..).trans | apply (length_zipIdx_map ..).trans | apply (List.length_map ..).trans | exact List.length_replicate | rfl | intro _ | split | dsimp only | apply lanternOk_mk

theorem inv_releaseTower {s : State} {t : Nat}
    (ok_s : s.Inv) : (releaseTower s t).Inv := by
  unfold releaseTower
  repeat' with_reducible first | assumption | apply inv_releaseLantern | apply inv_modTower | intro _ | split | apply inv_foldl | apply inv_foldl_fst | apply inv_foldl_snd | dsimp only

theorem inv_tellHandled {s : State} {id : Nat}
    (ok_s : s.Inv) : (tellHandled s id).Inv := by
  unfold tellHandled
  repeat' with_reducible first | assumption | apply inv_tellNode | apply inv_modMooring | (refine inv_of_fst ?_ (by assumption)) | (refine inv_of_snd ?_ (by assumption)) | apply lanternOk_lanternAt | apply lanternOk_vec | apply vregOk_regAt | apply veOk_regs | apply veOk_masks | apply regsOk_modify | apply regsOk_zipIdx_map | exact regsOk_replicate | exact masksOk_start _ | apply masksOk_first | apply (List.length_modify ..).trans | apply (length_setAt ..).trans | apply (length_bump ..).trans | apply (length_zipIdx_map ..).trans | apply (List.length_map ..).trans | exact List.length_replicate | rfl | apply veOk_foldl | apply lanternOk_foldl | intro _ | split | apply inv_foldl | apply inv_foldl_fst | apply inv_foldl_snd | apply inv_foldr | dsimp only | apply veOk_mk

theorem inv_faultHandled {s : State}
    (ok_s : s.Inv) : (faultHandled s).Inv := by
  unfold faultHandled
  repeat' with_reducible first | assumption | apply inv_tellHandled | apply inv_foldl | apply inv_atBoundary | (refine inv_of_fst ?_ (by assumption)) | (refine inv_of_snd ?_ (by assumption)) | apply lanternOk_lanternAt | apply lanternOk_vec | apply vregOk_regAt | apply veOk_regs | apply veOk_masks | apply regsOk_modify | apply regsOk_zipIdx_map | exact regsOk_replicate | exact masksOk_start _ | apply masksOk_first | apply (List.length_modify ..).trans | apply (length_setAt ..).trans | apply (length_bump ..).trans | apply (length_zipIdx_map ..).trans | apply (List.length_map ..).trans | exact List.length_replicate | rfl | apply veOk_foldl | apply lanternOk_foldl | intro _ | split | apply inv_foldl | apply inv_foldl_fst | apply inv_foldl_snd | apply inv_foldr | dsimp only | apply veOk_mk

theorem inv_handledAt {s : State} {id : Nat} {node : Nat}
    (ok_s : s.Inv) : (handledAt s id node).Inv := by
  unfold handledAt
  repeat' with_reducible first | assumption | apply inv_atBoundary | apply inv_modMooring | (refine inv_of_fst ?_ (by assumption)) | (refine inv_of_snd ?_ (by assumption)) | apply lanternOk_lanternAt | apply lanternOk_vec | apply vregOk_regAt | apply veOk_regs | apply veOk_masks | apply regsOk_modify | apply regsOk_zipIdx_map | exact regsOk_replicate | exact masksOk_start _ | apply masksOk_first | apply (List.length_modify ..).trans | apply (length_setAt ..).trans | apply (length_bump ..).trans | apply (length_zipIdx_map ..).trans | apply (List.length_map ..).trans | exact List.length_replicate | rfl | apply veOk_foldl | apply lanternOk_foldl | intro _ | split | apply inv_foldl | apply inv_foldl_fst | apply inv_foldl_snd | apply inv_foldr | dsimp only | apply veOk_mk

theorem inv_execComputeResetDone {u : ResetUnit} {s : State}
    (ok_s : s.Inv) : OutcomeInv (execComputeResetDone u s) := by
  unfold execComputeResetDone
  repeat' with_reducible first | assumption | apply inv_faultHandled | apply outcomeInv_next | apply outcomeInv_fault | apply inv_releaseLantern | apply inv_releaseTower | apply lanternOk_lanternAt | intro _ | split | dsimp only

theorem inv_execResetHangLimit {u : ResetUnit} {s : State}
    (ok_s : s.Inv) : OutcomeInv (execResetHangLimit u s) := by
  unfold execResetHangLimit
  repeat' with_reducible first | assumption | apply outcomeInv_next | apply outcomeInv_fault | apply inv_startTowerReset | apply inv_bumpLantern | apply inv_enterRouterOnly | apply inv_modTower | apply lanternOk_lanternAt | intro _ | split | dsimp only

theorem inv_notePass {s : State} {p : Part}
    (ok_s : s.Inv) : (notePass s p).1.Inv := by
  unfold notePass
  repeat' with_reducible first | assumption | apply inv_modKeeper | intro _ | split | dsimp only

theorem inv_retireHeld {s : State} {l : Nat}
    (ok_s : s.Inv) : (retireHeld s l).Inv := by
  unfold retireHeld
  repeat' with_reducible first | assumption | apply inv_retireLantern | apply inv_stopLantern | apply lanternOk_lanternAt | intro _ | split | dsimp only

theorem inv_spareLine {s : State} {t : Nat} {sub : Nat}
    (ok_s : s.Inv) : (spareLine s t sub).Inv := by
  unfold spareLine
  repeat' with_reducible first | assumption | apply inv_leaveAtBoundary | apply inv_raiseEventP | apply inv_setConfig | intro _ | split | dsimp only

theorem inv_sparePage {s : State} {a : Nat}
    (ok_s : s.Inv) : (sparePage s a).Inv := by
  unfold sparePage
  repeat' with_reducible first | assumption | apply inv_enterRouterOnly | apply inv_raiseEventP | apply inv_bumpModule | apply inv_setConfig | intro _ | split | dsimp only

theorem inv_repair {s : State} {places : List Nat} {x1 : Part}
    (ok_s : s.Inv) : (repair s places x1).Inv := by
  unfold repair
  repeat' with_reducible first | assumption | apply inv_enterRouterOnly | apply inv_foldl | apply inv_spareLine | apply inv_sparePage | apply inv_retireHeld | intro _ | split | dsimp only

theorem inv_endTest {s : State} {p : Part}
    (ok_s : s.Inv) : (endTest s p).Inv := by
  unfold endTest
  repeat' with_reducible first | assumption | apply inv_modKeeper | apply inv_modLantern | apply lanternOk_events | apply lanternOk_dma | apply lanternOk_vec | apply (List.length_modify ..).trans | apply (length_setAt ..).trans | apply (length_bump ..).trans | apply (length_zipIdx_map ..).trans | apply (List.length_map ..).trans | exact List.length_replicate | rfl | intro _ | split | dsimp only | apply lanternOk_mk

theorem inv_countTest {s : State} {p : Part} {pass : Bool}
    (ok_s : s.Inv) : (countTest s p pass).Inv := by
  unfold countTest
  repeat' with_reducible first | assumption | apply inv_bumpEcc | apply inv_bumpLantern | intro _ | split | dsimp only

theorem inv_execTargetedTestResult {p : Part} {r : TestResult} {s : State}
    (ok_s : s.Inv) : OutcomeInv (execTargetedTestResult p r s) := by
  unfold execTargetedTestResult
  repeat' with_reducible first | assumption | apply inv_raiseEventIn | apply outcomeInv_next | apply outcomeInv_fault | apply inv_endTest | apply inv_countTest | apply inv_raiseEventMore | apply inv_repair | apply inv_notePass | apply inv_bumpLantern | (refine inv_of_fst ?_ (by assumption)) | intro _ | split | dsimp only

theorem inv_testPart {s : State} {p : Part}
    (ok_s : s.Inv) : (testPart s p).Inv := by
  unfold testPart
  repeat' with_reducible first | assumption | apply inv_startTest | apply inv_startLanternReset | (refine inv_of_fst ?_ (by assumption)) | (refine inv_of_snd ?_ (by assumption)) | apply lanternOk_lanternAt | apply lanternOk_vec | apply vregOk_regAt | apply veOk_regs | apply veOk_masks | apply regsOk_modify | apply regsOk_zipIdx_map | exact regsOk_replicate | exact masksOk_start _ | apply masksOk_first | apply (List.length_modify ..).trans | apply (length_setAt ..).trans | apply (length_bump ..).trans | apply (length_zipIdx_map ..).trans | apply (List.length_map ..).trans | exact List.length_replicate | rfl | apply veOk_foldl | apply lanternOk_foldl | intro _ | split | apply inv_foldl | apply inv_foldl_fst | apply inv_foldl_snd | apply inv_foldr | dsimp only | apply veOk_mk

theorem ok_overflowWord {x : Lantern} {grad : Bool} {w : Nat} {c : Nat}
    (ok_x : x.Ok) : (overflowWord x grad w c).Ok := by
  unfold overflowWord
  repeat' with_reducible first | assumption | (refine inv_of_fst ?_ (by assumption)) | (refine inv_of_snd ?_ (by assumption)) | apply inv_foldl | apply inv_foldl_fst | apply inv_foldl_snd | apply inv_foldr | apply lanternOk_lanternAt | apply lanternOk_events | apply lanternOk_dma | apply lanternOk_vec | apply (List.length_modify ..).trans | apply (length_setAt ..).trans | apply (length_bump ..).trans | apply (length_zipIdx_map ..).trans | apply (List.length_map ..).trans | exact List.length_replicate | rfl | intro _ | split | dsimp only | apply lanternOk_mk

theorem inv_execMemoryScrub {place : ScrubPlace} {found : ScrubFound} {s : State}
    (ok_s : s.Inv) : OutcomeInv (execMemoryScrub place found s) := by
  unfold execMemoryScrub
  repeat' with_reducible first | assumption | apply inv_lanternEvent | apply inv_testPart | apply inv_raiseEventIn | apply ok_overflowWord | apply inv_modKeeper | apply inv_startLanternReset | apply inv_setFault | apply inv_modLantern | apply outcomeInv_next | apply outcomeInv_fault | apply inv_bumpEcc | apply inv_raiseEvent | apply inv_addPoison | intro _ | split | dsimp only

theorem inv_execCorrectedEccBurst {p : Part} {s : State}
    (ok_s : s.Inv) : OutcomeInv (execCorrectedEccBurst p s) := by
  unfold execCorrectedEccBurst
  repeat' with_reducible first | assumption | apply inv_testPart | apply outcomeInv_next | apply outcomeInv_fault | apply inv_bumpEcc | apply inv_startLanternReset | apply lanternOk_lanternAt | intro _ | split | dsimp only

theorem inv_execShoreAccessFault {core : Nat} {addr : Nat} {s : State}
    (ok_s : s.Inv) : OutcomeInv (execShoreAccessFault core addr s) := by
  unfold execShoreAccessFault
  repeat' with_reducible first | assumption | apply inv_notePoisonLine | apply outcomeInv_next | apply outcomeInv_fault | apply inv_modShore | intro _ | split | dsimp only

theorem inv_hostStoreFails {s : State} {l : Nat}
    (ok_s : s.Inv) : (hostStoreFails s l).Inv := by
  unfold hostStoreFails
  repeat' with_reducible first | assumption | apply inv_openCells | apply inv_vecAddrErrorAt | apply inv_performPieceAt | apply inv_modVec | apply inv_foldl | apply inv_hostWrite | (refine inv_of_fst ?_ (by assumption)) | (refine inv_of_snd ?_ (by assumption)) | apply lanternOk_lanternAt | apply lanternOk_vec | apply vregOk_regAt | apply veOk_regs | apply veOk_masks | apply regsOk_modify | apply regsOk_zipIdx_map | exact regsOk_replicate | exact masksOk_start _ | apply masksOk_first | apply (List.length_modify ..).trans | apply (length_setAt ..).trans | apply (length_bump ..).trans | apply (length_zipIdx_map ..).trans | apply (List.length_map ..).trans | exact List.length_replicate | rfl | apply veOk_foldl | apply lanternOk_foldl | intro _ | split | apply inv_foldl | apply inv_foldl_fst | apply inv_foldl_snd | apply inv_foldr | dsimp only | apply veOk_mk

theorem inv_execHostWindowError {e : EngineRef} {s : State}
    (ok_s : s.Inv) : OutcomeInv (execHostWindowError e s) := by
  unfold execHostWindowError
  repeat' with_reducible first | assumption | apply inv_vecAddrErrorAt | apply inv_hostStoreFails | apply outcomeInv_next | apply outcomeInv_fault | apply inv_dmaHostError | apply inv_vecAddrError | apply inv_modVec | apply lanternOk_lanternAt | apply lanternOk_vec | apply veOk_regs | apply veOk_masks | apply regsOk_modify | apply regsOk_zipIdx_map | exact regsOk_replicate | exact masksOk_start _ | apply masksOk_first | apply (List.length_modify ..).trans | apply (length_setAt ..).trans | apply (length_bump ..).trans | apply (length_zipIdx_map ..).trans | apply (List.length_map ..).trans | exact List.length_replicate | rfl | intro _ | split | dsimp only | apply veOk_mk

end Sys2Proof.Machine
end

