-- ==== Sys2Proof/Laws/InvPower.lean ====
section
/-! SUPPORT. Laws/InvPower.lean: the operations of Machine/Power.lean keep the invariant State.Inv. -/

namespace Sys2Proof.Machine

theorem inv_applyLevels {s : State}
    (ok_s : s.Inv) : (applyLevels s).Inv := by
  unfold applyLevels
  repeat' with_reducible first | assumption | apply inv_modPower | rfl | exact id | apply lanternOk_events | apply lanternOk_dma | apply lanternOk_vec | apply lanternsOk_map | apply lanternsOk_zipIdx_map | apply funcsOk_map | apply funcsOk_zipIdx_map | apply (List.length_modify ..).trans | apply (length_setAt ..).trans | apply (length_bump ..).trans | apply (length_zipIdx_map ..).trans | apply (List.length_map ..).trans | exact List.length_replicate | rfl | intro _ | split | dsimp only | apply lanternOk_mk | apply inv_struct | rfl | exact List.length_map _ | exact List.length_modify .. | exact (List.length_map _).trans List.length_zipIdx

theorem inv_execInputStageStart {s : State}
    (ok_s : s.Inv) : OutcomeInv (execInputStageStart s) := by
  unfold execInputStageStart
  repeat' with_reducible first | assumption | apply outcomeInv_next | apply outcomeInv_fault | apply inv_modPower | intro _ | split | dsimp only

theorem inv_execInputVoltageChange {mv : Nat} {s : State}
    (ok_s : s.Inv) : OutcomeInv (execInputVoltageChange mv s) := by
  unfold execInputVoltageChange
  repeat' with_reducible first | assumption | apply outcomeInv_next | apply outcomeInv_fault | apply inv_modPower | apply inv_powerDown | apply inv_applyLevels | apply inv_powerEvent | apply inv_losePower | intro _ | split | dsimp only

theorem inv_execPwrEn {level : Bool} {s : State}
    (ok_s : s.Inv) : OutcomeInv (execPwrEn level s) := by
  unfold execPwrEn
  repeat' with_reducible first | assumption | apply outcomeInv_next | apply outcomeInv_fault | apply inv_modPower | apply inv_powerDown | intro _ | split | dsimp only

theorem inv_execRailFault {r : Rail} {s : State}
    (ok_s : s.Inv) : OutcomeInv (execRailFault r s) := by
  unfold execRailFault
  repeat' with_reducible first | assumption | apply outcomeInv_next | apply outcomeInv_fault | apply inv_modBoot | apply inv_modPower | apply inv_enterRouterOnly | apply inv_holdTower | apply inv_powerEvent | apply inv_powerDown | intro _ | split | dsimp only

theorem inv_execBallastSample {currentMa : Nat} {s : State}
    (ok_s : s.Inv) : OutcomeInv (execBallastSample currentMa s) := by
  unfold execBallastSample
  repeat' with_reducible first | assumption | apply outcomeInv_next | apply outcomeInv_fault | apply inv_modPower | intro _ | split | dsimp only

theorem inv_execGovernorTick {watts : Nat} {sectors : List Nat} {s : State}
    (ok_s : s.Inv) : OutcomeInv (execGovernorTick watts sectors s) := by
  unfold execGovernorTick
  repeat' with_reducible first | assumption | apply outcomeInv_next | apply outcomeInv_fault | apply inv_modPower | apply inv_powerEvent | apply inv_applyLevels | intro _ | split | apply inv_foldl | apply inv_foldl_fst | apply inv_foldl_snd | dsimp only

theorem inv_thermalEvent {s : State} {unit : Nat} {cause : Nat} {die : Nat} {tj : Int}
    (ok_s : s.Inv) : (thermalEvent s unit cause die tj).Inv := by
  unfold thermalEvent
  repeat' with_reducible first | assumption | apply inv_raiseEventP | intro _ | split | dsimp only

theorem inv_sampleTower {t : Temps} {s : State} {k : Nat}
    (ok_s : s.Inv) : (sampleTower t s k).Inv := by
  unfold sampleTower
  repeat' with_reducible first | assumption | apply inv_modPower | apply inv_thermalEvent | apply inv_enterRouterOnly | intro _ | split | dsimp only

theorem inv_execThermalSample {t : Temps} {s : State}
    (ok_s : s.Inv) : OutcomeInv (execThermalSample t s) := by
  unfold execThermalSample
  repeat' with_reducible first | assumption | apply outcomeInv_next | apply outcomeInv_fault | apply inv_sampleTower | apply inv_modPower | apply inv_thermalEvent | apply inv_powerDown | apply inv_applyLevels | intro _ | split | apply inv_foldl | apply inv_foldl_fst | apply inv_foldl_snd | dsimp only

theorem inv_execHardwareThermalTrip {s : State}
    (ok_s : s.Inv) : OutcomeInv (execHardwareThermalTrip s) := by
  unfold execHardwareThermalTrip
  repeat' with_reducible first | assumption | apply outcomeInv_next | apply outcomeInv_fault | apply inv_losePower | apply inv_modPower | apply inv_modBoot | intro _ | split | dsimp only

theorem inv_execFillHoldExpiry {lantern : Nat} {s : State}
    (ok_s : s.Inv) : OutcomeInv (execFillHoldExpiry lantern s) := by
  unfold execFillHoldExpiry
  repeat' with_reducible first | assumption | apply outcomeInv_next | apply outcomeInv_fault | apply inv_endFill | apply lanternOk_lanternAt | intro _ | split | dsimp only

theorem inv_execPwrBrakeAssert {s : State}
    (ok_s : s.Inv) : OutcomeInv (execPwrBrakeAssert s) := by
  unfold execPwrBrakeAssert
  repeat' with_reducible first | assumption | apply outcomeInv_next | apply outcomeInv_fault | apply inv_powerEvent | apply inv_applyLevels | apply inv_endFill | apply inv_modPower | intro _ | split | dsimp only

theorem inv_execPwrBrakeRelease {s : State}
    (ok_s : s.Inv) : OutcomeInv (execPwrBrakeRelease s) := by
  unfold execPwrBrakeRelease
  repeat' with_reducible first | assumption | apply outcomeInv_next | apply outcomeInv_fault | apply inv_applyLevels | apply inv_modPower | apply inv_powerEvent | intro _ | split | dsimp only

theorem inv_execReferenceLost {s : State}
    (ok_s : s.Inv) : OutcomeInv (execReferenceLost s) := by
  unfold execReferenceLost
  repeat' with_reducible first | assumption | apply outcomeInv_next | apply outcomeInv_fault | apply inv_powerEvent | apply inv_modPower | intro _ | split | dsimp only

theorem inv_execReferenceRestored {ppm : Nat} {s : State}
    (ok_s : s.Inv) : OutcomeInv (execReferenceRestored ppm s) := by
  unfold execReferenceRestored
  repeat' with_reducible first | assumption | apply outcomeInv_next | apply outcomeInv_fault | apply inv_powerEvent | apply inv_modPower | intro _ | split | dsimp only

theorem inv_execPpsPulse {intervalNs : Nat} {widthNs : Nat} {s : State}
    (ok_s : s.Inv) : OutcomeInv (execPpsPulse intervalNs widthNs s) := by
  unfold execPpsPulse
  repeat' with_reducible first | assumption | apply outcomeInv_next | apply outcomeInv_fault | apply inv_modTime | intro _ | split | dsimp only

theorem inv_execPpsTimeout {s : State}
    (ok_s : s.Inv) : OutcomeInv (execPpsTimeout s) := by
  unfold execPpsTimeout
  repeat' with_reducible first | assumption | apply outcomeInv_next | apply outcomeInv_fault | apply inv_modTime | intro _ | split | dsimp only

theorem inv_execPowerSet {m : Mbox} {s : State}
    (ok_s : s.Inv) : OutcomeInv (execPowerSet m s) := by
  unfold execPowerSet
  repeat' with_reducible first | assumption | apply outcomeInv_next | apply outcomeInv_fault | apply inv_runCommand | apply inv_answer | rfl | exact id | apply lanternsOk_map | apply lanternsOk_zipIdx_map | apply funcsOk_map | apply funcsOk_zipIdx_map | intro _ | split | dsimp only | apply inv_struct | rfl | exact List.length_map _ | exact List.length_modify .. | exact (List.length_map _).trans List.length_zipIdx

theorem inv_mctpAnswer {s : State} {bs : List Byte}
    (ok_s : s.Inv) : (mctpAnswer s bs).Inv := by
  unfold mctpAnswer
  repeat' with_reducible first | assumption | rfl | exact id | apply lanternsOk_map | apply lanternsOk_zipIdx_map | apply funcsOk_map | apply funcsOk_zipIdx_map | intro _ | split | dsimp only | apply inv_struct | rfl | exact List.length_map _ | exact List.length_modify .. | exact (List.length_map _).trans List.length_zipIdx

theorem inv_execPldmEffecterWrite {e : Effecter} {value : Nat} {s : State}
    (ok_s : s.Inv) : OutcomeInv (execPldmEffecterWrite e value s) := by
  unfold execPldmEffecterWrite
  repeat' with_reducible first | assumption | apply outcomeInv_next | apply outcomeInv_fault | apply inv_mctpAnswer | rfl | exact id | apply lanternsOk_map | apply lanternsOk_zipIdx_map | apply funcsOk_map | apply funcsOk_zipIdx_map | intro _ | split | dsimp only | apply inv_struct | rfl | exact List.length_map _ | exact List.length_modify .. | exact (List.length_map _).trans List.length_zipIdx

theorem inv_execMctpControl {msg : List Byte} {s : State}
    (ok_s : s.Inv) : OutcomeInv (execMctpControl msg s) := by
  unfold execMctpControl
  repeat' with_reducible first | assumption | apply outcomeInv_next | apply outcomeInv_fault | apply inv_mctpAnswer | intro _ | split | dsimp only

end Sys2Proof.Machine
end

