-- ==== Sys2Proof/Laws/InvService.lean ====
section
/-! SUPPORT. Laws/InvService.lean: the operations of Machine/Service.lean keep the invariant State.Inv. -/

namespace Sys2Proof.Machine

theorem inv_execSnapshotCreditGrow {s : State}
    (ok_s : s.Inv) : OutcomeInv (execSnapshotCreditGrow s) := by
  unfold execSnapshotCreditGrow
  repeat' with_reducible first | assumption | apply outcomeInv_next | apply outcomeInv_fault | apply inv_modFlash | intro _ | split | dsimp only

theorem inv_scanItem {s : State} {x : ScanItem}
    (ok_s : s.Inv) : (scanItem s x).Inv := by
  unfold scanItem
  repeat' with_reducible first | assumption | apply inv_modFlash | apply inv_raiseEventMore | intro _ | split | dsimp only

theorem inv_execRetentionScan {r : ScanResult} {s : State}
    (ok_s : s.Inv) : OutcomeInv (execRetentionScan r s) := by
  unfold execRetentionScan
  repeat' with_reducible first | assumption | apply inv_modFlash | apply inv_bumpEcc | apply outcomeInv_next | apply outcomeInv_fault | apply inv_scanItem | intro _ | split | apply inv_foldl | apply inv_foldl_fst | apply inv_foldl_snd | dsimp only

theorem inv_flashRetires {s : State}
    (ok_s : s.Inv) : (flashRetires s).Inv := by
  unfold flashRetires
  repeat' with_reducible first | assumption | apply inv_modFlash | (refine inv_of_fst ?_ (by assumption)) | (refine inv_of_snd ?_ (by assumption)) | apply lanternOk_lanternAt | apply lanternOk_vec | apply vregOk_regAt | apply veOk_regs | apply veOk_masks | apply regsOk_modify | apply regsOk_zipIdx_map | exact regsOk_replicate | exact masksOk_start _ | apply masksOk_first | apply (List.length_modify ..).trans | apply (length_setAt ..).trans | apply (length_bump ..).trans | apply (length_zipIdx_map ..).trans | apply (List.length_map ..).trans | exact List.length_replicate | rfl | apply veOk_foldl | apply lanternOk_foldl | intro _ | split | apply inv_foldl | apply inv_foldl_fst | apply inv_foldl_snd | apply inv_foldr | dsimp only | apply veOk_mk

theorem inv_execFlashProgramOrEraseDone {op : FlashOp} {ok : Bool} {s : State}
    (ok_s : s.Inv) : OutcomeInv (execFlashProgramOrEraseDone op ok s) := by
  unfold execFlashProgramOrEraseDone
  repeat' with_reducible first | assumption | apply inv_flashRetires | apply outcomeInv_next | apply outcomeInv_fault | apply inv_modFlash | apply inv_raiseEventP | intro _ | split | dsimp only

theorem inv_lendCore {s : State} {id : Nat} {entry : Nat} {img : Nat} {imgLen : Nat} {windows : List (Nat × Nat)} {c : Nat}
    (ok_s : s.Inv) : (lendCore s id entry img imgLen windows c).Inv := by
  unfold lendCore
  repeat' with_reducible first | assumption | apply inv_advanceDaymark | apply inv_modShore | apply inv_stopCore | intro _ | split | dsimp only

theorem inv_execShoreStart {m : Mbox} {cores : Nat} {img : Nat} {imgLen : Nat} {entry : Nat} {windows : List (Nat × Nat)} {s : State}
    (ok_s : s.Inv) : OutcomeInv (execShoreStart m cores img imgLen entry windows s) := by
  unfold execShoreStart
  repeat' with_reducible first | assumption | apply inv_openWindows | apply inv_readThen | apply outcomeInv_next | apply outcomeInv_fault | apply inv_runCommand | apply inv_refuse | apply inv_modKeeper | apply inv_answer | apply inv_lendCore | apply inv_attAdd | apply inv_finishOp | intro _ | split | apply inv_foldl | apply inv_foldl_fst | apply inv_foldl_snd | dsimp only

theorem inv_execShoreStop {m : Mbox} {core : Option Nat} {s : State}
    (ok_s : s.Inv) : OutcomeInv (execShoreStop m core s) := by
  unfold execShoreStop
  repeat' with_reducible first | assumption | apply outcomeInv_next | apply outcomeInv_fault | apply inv_runCommand | apply inv_answer | apply inv_stopCores | apply inv_refuse | apply inv_stopCore | intro _ | split | dsimp only

theorem inv_returnToService {s : State}
    (ok_s : s.Inv) : (returnToService s).Inv := by
  unfold returnToService
  repeat' with_reducible first | assumption | apply inv_releaseTower | apply inv_modBoot | apply inv_modKeeper | intro _ | split | apply inv_foldl | apply inv_foldl_fst | apply inv_foldl_snd | dsimp only

theorem inv_finishBist {s : State} {o : LongOp}
    (ok_s : s.Inv) : (finishBist s o).Inv := by
  unfold finishBist
  repeat' with_reducible first | assumption | apply inv_endBist | apply inv_returnToService | intro _ | split | dsimp only

theorem inv_bistSpoiled {s : State}
    (ok_s : s.Inv) : (bistSpoiled s).Inv := by
  unfold bistSpoiled
  repeat' with_reducible first | assumption | apply inv_modKeeper | intro _ | split | dsimp only

theorem inv_bistFailure {s : State} {u : Nat × Nat × Nat}
    (ok_s : s.Inv) : (bistFailure s u).Inv := by
  unfold bistFailure
  repeat' with_reducible first | assumption | apply inv_retireFailing | apply inv_bistSpoiled | apply inv_enterRouterOnly | apply inv_holdTower | apply lanternOk_lanternAt | intro _ | split | dsimp only

theorem inv_execFullBistGroupEnd {results : List BistResult} {s : State}
    (ok_s : s.Inv) : OutcomeInv (execFullBistGroupEnd results s) := by
  unfold execFullBistGroupEnd
  repeat' with_reducible first | assumption | apply outcomeInv_next | apply outcomeInv_fault | apply inv_modLantern | apply ok_clearLantern | apply inv_modKeeper | apply inv_bistFailure | apply inv_modOp | apply inv_finishBist | intro _ | split | apply inv_foldl | apply inv_foldl_fst | apply inv_foldl_snd | dsimp only

theorem inv_execSelftest {m : Mbox} {s : State}
    (ok_s : s.Inv) : OutcomeInv (execSelftest m s) := by
  unfold execSelftest
  repeat' with_reducible first | assumption | apply outcomeInv_next | apply outcomeInv_fault | apply inv_runCommand | apply inv_refuse | apply inv_acceptLong | apply inv_modKeeper | intro _ | split | dsimp only

theorem inv_execReturnToService {m : Mbox} {s : State}
    (ok_s : s.Inv) : OutcomeInv (execReturnToService m s) := by
  unfold execReturnToService
  repeat' with_reducible first | assumption | apply inv_returnToService | apply outcomeInv_next | apply outcomeInv_fault | apply inv_runCommand | apply inv_refuse | apply inv_modKeeper | apply inv_acceptLong | intro _ | split | dsimp only

theorem inv_storeImage {s : State} {slot : Nat} {i : FwImage}
    (ok_s : s.Inv) : (storeImage s slot i).Inv := by
  unfold storeImage
  repeat' with_reducible first | assumption | apply inv_modFlash | intro _ | split | dsimp only

theorem inv_writeImage {s : State} {slot : Nat} {bs : List Byte}
    (ok_s : s.Inv) : (writeImage s slot bs).1.Inv := by
  unfold writeImage
  repeat' with_reducible first | assumption | apply inv_storeImage | intro _ | split | dsimp only

theorem inv_execFwWrite {m : Mbox} {addr : Nat} {len : Nat} {slot : Nat} {s : State}
    (ok_s : s.Inv) : OutcomeInv (execFwWrite m addr len slot s) := by
  unfold execFwWrite
  repeat' with_reducible first | assumption | apply inv_readThen | apply outcomeInv_next | apply outcomeInv_fault | apply inv_runCommand | apply inv_refuse | apply inv_writeImage | apply inv_longAtOnce | (refine inv_of_fst ?_ (by assumption)) | intro _ | split | dsimp only

theorem inv_activateSlot {s : State} {slot : Nat}
    (ok_s : s.Inv) : (activateSlot s slot).Inv := by
  unfold activateSlot
  repeat' with_reducible first | assumption | apply inv_modKeeper | apply inv_setConfig | intro _ | split | dsimp only

theorem inv_execFwActivate {m : Mbox} {slot : Nat} {s : State}
    (ok_s : s.Inv) : OutcomeInv (execFwActivate m slot s) := by
  unfold execFwActivate
  repeat' with_reducible first | assumption | apply outcomeInv_next | apply outcomeInv_fault | apply inv_runCommand | apply inv_refuse | apply inv_longAtOnce | apply inv_activateSlot | intro _ | split | dsimp only

theorem inv_recoverFirmware {s : State} {bs : List Byte} {tower0 : TowerTest}
    (ok_s : s.Inv) : (recoverFirmware s bs tower0).1.Inv := by
  unfold recoverFirmware
  repeat' with_reducible first | assumption | apply inv_writeImage | apply inv_stageFour | apply inv_modBoot | apply inv_setConfig | (refine inv_of_fst ?_ (by assumption)) | intro _ | split | dsimp only

theorem inv_updateFirmware {s : State} {bs : List Byte} {slot : Nat} {activate : Bool}
    (ok_s : s.Inv) : (updateFirmware s bs slot activate).1.Inv := by
  unfold updateFirmware
  repeat' with_reducible first | assumption | apply inv_writeImage | apply inv_activateSlot | (refine inv_of_fst ?_ (by assumption)) | intro _ | split | dsimp only

theorem inv_execPldmFirmwareUpdate {image : List Byte} {slot : Nat} {activate : Bool} {tower0 : TowerTest} {s : State}
    (ok_s : s.Inv) : OutcomeInv (execPldmFirmwareUpdate image slot activate tower0 s) := by
  unfold execPldmFirmwareUpdate
  repeat' with_reducible first | assumption | apply outcomeInv_next | apply outcomeInv_fault | apply inv_recoverFirmware | apply inv_mctpAnswer | apply inv_updateFirmware | (refine inv_of_fst ?_ (by assumption)) | intro _ | split | dsimp only

end Sys2Proof.Machine
end

