-- ==== Sys2Proof/Laws/InvAborts.lean ====
section
/-! SUPPORT. Laws/InvAborts.lean: the operations of Machine/Aborts.lean keep the invariant State.Inv. -/

namespace Sys2Proof.Machine

theorem inv_dropMove {s : State} {id : Nat}
    (ok_s : s.Inv) : (dropMove s id).Inv := by
  unfold dropMove
  repeat' with_reducible first | assumption | apply inv_failMove | apply inv_unpause | intro _ | split | dsimp only

theorem inv_abortAway {s : State} {o : LongOp} {status : Nat}
    (ok_s : s.Inv) : (abortAway s o status).Inv := by
  unfold abortAway
  repeat' with_reducible first | assumption | apply inv_endForwarded | apply inv_tellNode | apply inv_modOp | (refine inv_of_fst ?_ (by assumption)) | (refine inv_of_snd ?_ (by assumption)) | apply lanternOk_lanternAt | apply lanternOk_vec | apply vregOk_regAt | apply veOk_regs | apply veOk_masks | apply regsOk_modify | apply regsOk_zipIdx_map | exact regsOk_replicate | exact masksOk_start _ | apply masksOk_first | apply (List.length_modify ..).trans | apply (length_setAt ..).trans | apply (length_bump ..).trans | apply (length_zipIdx_map ..).trans | apply (List.length_map ..).trans | exact List.length_replicate | rfl | apply veOk_foldl | apply lanternOk_foldl | intro _ | split | apply inv_foldl | apply inv_foldl_fst | apply inv_foldl_snd | apply inv_foldr | dsimp only | apply veOk_mk

theorem inv_abortOp {s : State} {o : LongOp} {status : Nat}
    (ok_s : s.Inv) : (abortOp s o status).Inv := by
  unfold abortOp
  repeat' with_reducible first | assumption | apply inv_abortLending | apply inv_abortAway | apply inv_stopCopy | apply inv_lendOpens | apply inv_stopChannel | apply inv_returnToService | apply inv_finishOp | apply inv_atBoundary | apply inv_breakRun | apply inv_tellNodes | apply inv_unpause | apply inv_dropMove | apply inv_modMooring | apply inv_endBist | apply inv_abortSteps | apply inv_tellNode | intro _ | split | dsimp only

theorem inv_abortForwardedHere {s : State} {node : Nat} {func : Nat} {tag : Nat} {status : Nat}
    (ok_s : s.Inv) : (abortForwardedHere s node func tag status).Inv := by
  unfold abortForwardedHere
  repeat' with_reducible first | assumption | apply inv_abortOp | intro _ | split | dsimp only

theorem inv_execAbort {m : Mbox} {tag : Nat} {func : Option Nat} {s : State}
    (ok_s : s.Inv) : OutcomeInv (execAbort m tag func s) := by
  unfold execAbort
  repeat' with_reducible first | assumption | apply outcomeInv_next | apply outcomeInv_fault | apply inv_runCommand | apply inv_refuse | apply inv_answer | apply inv_abortOp | apply funcOk_funcAt | intro _ | split | dsimp only

theorem inv_execDeadlineExpiry {func : Nat} {tag : Nat} {s : State}
    (ok_s : s.Inv) : OutcomeInv (execDeadlineExpiry func tag s) := by
  unfold execDeadlineExpiry
  repeat' with_reducible first | assumption | apply outcomeInv_next | apply outcomeInv_fault | apply inv_abortOp | intro _ | split | dsimp only

theorem ok_resetFunc {x : Func}
    (ok_x : x.Ok) : (resetFunc x).Ok := by
  exact funcOk_mk funcOk_reset.1 funcOk_reset.2.1 (funcOk_slots ok_x)

theorem inv_resetFunction {s : State} {f : Nat}
    (ok_s : s.Inv) : (resetFunction s f).Inv := by
  unfold resetFunction
  repeat' with_reducible first | assumption | apply inv_modFunc | apply ok_resetFunc | apply inv_modKeeper | apply inv_abortOp | intro _ | split | apply inv_foldl | apply inv_foldl_fst | apply inv_foldl_snd | dsimp only

theorem inv_controllerReset {s : State}
    (ok_s : s.Inv) : (controllerReset s).Inv := by
  unfold controllerReset
  repeat' with_reducible first | assumption | rfl | exact id | apply funcOk_mbox | apply funcOk_queues | apply funcOk_slots | apply lanternsOk_map | apply lanternsOk_zipIdx_map | apply funcsOk_map | apply funcsOk_zipIdx_map | apply (List.length_modify ..).trans | apply (length_setAt ..).trans | apply (length_bump ..).trans | apply (length_zipIdx_map ..).trans | apply (List.length_map ..).trans | exact List.length_replicate | rfl | intro _ | split | dsimp only | apply funcOk_mk | apply inv_struct | rfl | exact List.length_map _ | exact List.length_modify .. | exact (List.length_map _).trans List.length_zipIdx

theorem inv_execPerstN {s : State}
    (ok_s : s.Inv) : OutcomeInv (execPerstN s) := by
  unfold execPerstN
  repeat' with_reducible first | assumption | apply outcomeInv_next | apply outcomeInv_fault | apply inv_modBoot | apply inv_controllerReset | apply inv_resetFunction | intro _ | split | apply inv_foldl | apply inv_foldl_fst | apply inv_foldl_snd | dsimp only

theorem inv_clearVfs {s : State}
    (ok_s : s.Inv) : (clearVfs s).Inv := by
  unfold clearVfs
  repeat' with_reducible first | assumption | rfl | exact id | apply funcOk_mbox | apply funcOk_queues | apply funcOk_slots | apply lanternsOk_map | apply lanternsOk_zipIdx_map | apply funcsOk_map | apply funcsOk_zipIdx_map | apply (List.length_modify ..).trans | apply (length_setAt ..).trans | apply (length_bump ..).trans | apply (length_zipIdx_map ..).trans | apply (List.length_map ..).trans | exact List.length_replicate | rfl | intro _ | split | dsimp only | apply funcOk_mk | apply inv_struct | rfl | exact List.length_map _ | exact List.length_modify .. | exact (List.length_map _).trans List.length_zipIdx

theorem inv_execPfFlr {s : State}
    (ok_s : s.Inv) : OutcomeInv (execPfFlr s) := by
  unfold execPfFlr
  repeat' with_reducible first | assumption | apply outcomeInv_next | apply outcomeInv_fault | apply inv_clearVfs | apply inv_resetFunction | intro _ | split | apply inv_foldl | apply inv_foldl_fst | apply inv_foldl_snd | dsimp only

theorem inv_execVfFlr {vfs : List Nat} {clearEnable : Bool} {s : State}
    (ok_s : s.Inv) : OutcomeInv (execVfFlr vfs clearEnable s) := by
  unfold execVfFlr
  repeat' with_reducible first | assumption | apply outcomeInv_next | apply outcomeInv_fault | apply inv_resetFunction | apply inv_clearVfs | intro _ | split | apply inv_foldl | apply inv_foldl_fst | apply inv_foldl_snd | dsimp only

end Sys2Proof.Machine
end

