-- ==== Sys2Proof/Laws/InvAdmin.lean ====
section
/-! SUPPORT. Laws/InvAdmin.lean: the operations of Machine/Admin.lean keep the invariant State.Inv. -/

namespace Sys2Proof.Machine

theorem inv_execFaultPolicy {m : Mbox} {mooring : Option Nat} {items : PolicyItems} {s : State}
    (ok_s : s.Inv) : OutcomeInv (execFaultPolicy m mooring items s) := by
  unfold execFaultPolicy
  repeat' with_reducible first | assumption | apply outcomeInv_next | apply outcomeInv_fault | apply inv_runCommand | apply inv_refuse | apply inv_answer | apply inv_modKeeper | apply inv_modMooring | intro _ | split | dsimp only

theorem inv_execSetSplit {m : Mbox} {n : Nat} {s : State}
    (ok_s : s.Inv) : OutcomeInv (execSetSplit m n s) := by
  unfold execSetSplit
  repeat' with_reducible first | assumption | apply outcomeInv_next | apply outcomeInv_fault | apply inv_runCommand | apply inv_refuse | apply inv_answer | apply inv_modKeeper | intro _ | split | dsimp only

theorem inv_nameRoot {s : State} {node : Option Nat}
    (ok_s : s.Inv) : (nameRoot s node).Inv := by
  unfold nameRoot
  repeat' with_reducible first | assumption | apply inv_modTime | apply inv_followRoot | intro _ | split | dsimp only

theorem inv_execTimeRoot {m : Mbox} {node : Option Nat} {s : State}
    (ok_s : s.Inv) : OutcomeInv (execTimeRoot m node s) := by
  unfold execTimeRoot
  repeat' with_reducible first | assumption | apply outcomeInv_next | apply outcomeInv_fault | apply inv_runCommand | apply inv_refuse | apply inv_answer | apply inv_nameRoot | apply inv_tellNodes | intro _ | split | dsimp only

theorem inv_execDebugMode {m : Mbox} {v : Nat} {s : State}
    (ok_s : s.Inv) : OutcomeInv (execDebugMode m v s) := by
  unfold execDebugMode
  repeat' with_reducible first | assumption | apply outcomeInv_next | apply outcomeInv_fault | apply inv_runCommand | apply inv_refuse | apply inv_answer | apply inv_modKeeper | intro _ | split | dsimp only

theorem inv_execAccTagRead {m : Mbox} {lantern : Nat} {grad : Bool} {col : Nat} {ncols : Nat} {entry : Nat} {nentries : Nat} {s : State}
    (ok_s : s.Inv) : OutcomeInv (execAccTagRead m lantern grad col ncols entry nentries s) := by
  unfold execAccTagRead
  repeat' with_reducible first | assumption | apply outcomeInv_next | apply outcomeInv_fault | apply inv_runCommand | apply inv_refuse | apply inv_answer | apply lanternOk_lanternAt | intro _ | split | dsimp only

theorem inv_execEventLogRead {m : Mbox} {first : Nat} {last : Nat} {s : State}
    (ok_s : s.Inv) : OutcomeInv (execEventLogRead m first last s) := by
  unfold execEventLogRead
  repeat' with_reducible first | assumption | apply outcomeInv_next | apply outcomeInv_fault | apply inv_runCommand | apply inv_refuse | apply inv_keeperWrite | apply inv_longAtOnce | apply exceptInv_ok | apply exceptInv_error | (refine exceptInv_apply ?_ (by assumption)) | intro _ | split | dsimp only

theorem inv_execTelemetryRead {m : Mbox} {group : Nat} {first : Nat} {count : Nat} {s : State}
    (ok_s : s.Inv) : OutcomeInv (execTelemetryRead m group first count s) := by
  unfold execTelemetryRead
  repeat' with_reducible first | assumption | apply outcomeInv_next | apply outcomeInv_fault | apply inv_runCommand | apply inv_refuse | apply inv_answer | intro _ | split | dsimp only

end Sys2Proof.Machine
end

