-- ==== Sys2Proof/Laws/InvDecide.lean ====
section
/-! SUPPORT. Laws/InvDecide.lean: the operations of Machine/Decide.lean keep the invariant State.Inv. -/

namespace Sys2Proof.Machine

theorem inv_moveTensors {s : State} {old : Placement} {new : Placement} {copies : List ((Nat × Nat) × (Nat × Nat))}
    (ok_s : s.Inv) : (moveTensors s old new copies).Inv := by
  unfold moveTensors
  repeat' with_reducible first | assumption | apply inv_writeMem | apply inv_clearRanges | intro _ | split | apply inv_foldl | apply inv_foldl_fst | apply inv_foldl_snd | dsimp only

theorem inv_raiseReservations {s : State} {id : Nat} {p : Parsed}
    (ok_s : s.Inv) : (raiseReservations s id p).Inv := by
  unfold raiseReservations
  repeat' with_reducible first | assumption | apply inv_breakRun | apply inv_tellNodes | apply inv_modMooring | apply inv_moveTensors | apply inv_takeLanterns | rfl | exact id | apply lanternsOk_map | apply lanternsOk_zipIdx_map | apply funcsOk_map | apply funcsOk_zipIdx_map | intro _ | split | dsimp only | apply inv_struct | rfl | exact List.length_map _ | exact List.length_modify .. | exact (List.length_map _).trans List.length_zipIdx

theorem inv_tellRaises {s : State} {m : Mooring}
    (ok_s : s.Inv) : (tellRaises s m).Inv := by
  unfold tellRaises
  repeat' with_reducible first | assumption | apply inv_foldl | apply inv_tellNodes | (refine inv_of_fst ?_ (by assumption)) | (refine inv_of_snd ?_ (by assumption)) | apply lanternOk_lanternAt | apply lanternOk_vec | apply vregOk_regAt | apply veOk_regs | apply veOk_masks | apply regsOk_modify | apply regsOk_zipIdx_map | exact regsOk_replicate | exact masksOk_start _ | apply masksOk_first | apply (List.length_modify ..).trans | apply (length_setAt ..).trans | apply (length_bump ..).trans | apply (length_zipIdx_map ..).trans | apply (List.length_map ..).trans | exact List.length_replicate | rfl | apply veOk_foldl | apply lanternOk_foldl | intro _ | split | apply inv_foldl | apply inv_foldl_fst | apply inv_foldl_snd | apply inv_foldr | dsimp only | apply veOk_mk

theorem inv_raiseHeard {s : State} {id : Nat} {tensor : Nat}
    (ok_s : s.Inv) : (raiseHeard s id tensor).Inv := by
  unfold raiseHeard
  repeat' with_reducible first | assumption | apply inv_modMooring | apply inv_raiseReservations | (refine inv_of_fst ?_ (by assumption)) | (refine inv_of_snd ?_ (by assumption)) | apply lanternOk_lanternAt | apply lanternOk_vec | apply vregOk_regAt | apply veOk_regs | apply veOk_masks | apply regsOk_modify | apply regsOk_zipIdx_map | exact regsOk_replicate | exact masksOk_start _ | apply masksOk_first | apply (List.length_modify ..).trans | apply (length_setAt ..).trans | apply (length_bump ..).trans | apply (length_zipIdx_map ..).trans | apply (List.length_map ..).trans | exact List.length_replicate | rfl | apply veOk_foldl | apply lanternOk_foldl | intro _ | split | apply inv_foldl | apply inv_foldl_fst | apply inv_foldl_snd | apply inv_foldr | dsimp only | apply veOk_mk

theorem inv_endIfDone {s : State} {id : Nat} {t : Nat}
    (ok_s : s.Inv) : (endIfDone s id t).Inv := by
  unfold endIfDone
  repeat' with_reducible first | assumption | apply inv_endRun | intro _ | split | dsimp only

theorem inv_commitStep {s : State} {m : Mooring} {p : Parsed} {t : Nat} {v : Verdict}
    (ok_s : s.Inv) : (commitStep s m p t v).Inv := by
  unfold commitStep
  repeat' with_reducible first | assumption | apply inv_tellSlot | apply inv_openWindows | apply inv_raiseReservations | apply inv_modMooring | apply inv_startRefresh | apply inv_runRecord | apply inv_releaseLeaving | apply inv_leaveReached | apply inv_atBoundary | apply inv_endIfDone | intro _ | split | dsimp only

theorem inv_skipStep {s : State} {m : Mooring} {p : Parsed} {t : Nat} {v : Verdict}
    (ok_s : s.Inv) : (skipStep s m p t v).Inv := by
  unfold skipStep
  repeat' with_reducible first | assumption | apply inv_modMooring | apply inv_undoUpdate | apply inv_newEpoch | apply inv_windDown | apply inv_raiseEvent | apply inv_runRecord | apply inv_endRun | apply inv_endIfDone | apply inv_atBoundary | intro _ | split | dsimp only

theorem inv_replayStep {s : State} {m : Mooring} {p : Parsed} {t : Nat} {v : Verdict}
    (ok_s : s.Inv) : (replayStep s m p t v).Inv := by
  unfold replayStep
  repeat' with_reducible first | assumption | apply inv_askFaults | apply inv_undoUpdate | apply inv_newEpoch | apply inv_windDown | apply inv_runRecord | apply inv_modMooring | apply inv_atBoundary | apply inv_endRun | apply inv_raiseReservations | intro _ | split | dsimp only

theorem inv_applyVerdict {s : State} {id : Nat} {v : Verdict}
    (ok_s : s.Inv) : (applyVerdict s id v).Inv := by
  unfold applyVerdict
  repeat' with_reducible first | assumption | apply inv_deferEpoch | apply inv_replayStep | apply inv_skipStep | apply inv_commitStep | intro _ | split | dsimp only

theorem inv_forwardUp {s : State} {id : Nat}
    (ok_s : s.Inv) : (forwardUp s id).Inv := by
  unfold forwardUp
  repeat' with_reducible first | assumption | apply inv_sendVerdict | apply inv_modMooring | intro _ | split | dsimp only

theorem inv_contribute {s : State} {id : Nat} {early : Bool}
    (ok_s : s.Inv) : (contribute s id early).Inv := by
  unfold contribute
  repeat' with_reducible first | assumption | apply inv_tellRaises | apply inv_windDown | apply inv_forwardUp | apply inv_modMooring | intro _ | split | dsimp only

theorem inv_contributeAhead {s : State} {id : Nat}
    (ok_s : s.Inv) : (contributeAhead s id).Inv := by
  unfold contributeAhead
  repeat' with_reducible first | assumption | apply inv_tellRaises | apply inv_modMooring | apply inv_windDown | apply inv_sendVerdict | (refine inv_of_fst ?_ (by assumption)) | (refine inv_of_snd ?_ (by assumption)) | apply lanternOk_lanternAt | apply lanternOk_vec | apply vregOk_regAt | apply veOk_regs | apply veOk_masks | apply regsOk_modify | apply regsOk_zipIdx_map | exact regsOk_replicate | exact masksOk_start _ | apply masksOk_first | apply (List.length_modify ..).trans | apply (length_setAt ..).trans | apply (length_bump ..).trans | apply (length_zipIdx_map ..).trans | apply (List.length_map ..).trans | exact List.length_replicate | rfl | apply veOk_foldl | apply lanternOk_foldl | intro _ | split | apply inv_foldl | apply inv_foldl_fst | apply inv_foldl_snd | apply inv_foldr | dsimp only | apply veOk_mk

theorem inv_replayAhead {s : State} {m : Mooring} {v : Verdict}
    (ok_s : s.Inv) : (replayAhead s m v).Inv := by
  unfold replayAhead
  repeat' with_reducible first | assumption | apply inv_foldl | apply inv_sendVerdict | apply inv_windDown | apply inv_modMooring | apply inv_forwardUp | apply inv_newEpoch | (refine inv_of_fst ?_ (by assumption)) | (refine inv_of_snd ?_ (by assumption)) | apply lanternOk_lanternAt | apply lanternOk_vec | apply vregOk_regAt | apply veOk_regs | apply veOk_masks | apply regsOk_modify | apply regsOk_zipIdx_map | exact regsOk_replicate | exact masksOk_start _ | apply masksOk_first | apply (List.length_modify ..).trans | apply (length_setAt ..).trans | apply (length_bump ..).trans | apply (length_zipIdx_map ..).trans | apply (List.length_map ..).trans | exact List.length_replicate | rfl | apply veOk_foldl | apply lanternOk_foldl | intro _ | split | apply inv_foldl | apply inv_foldl_fst | apply inv_foldl_snd | apply inv_foldr | dsimp only | apply veOk_mk

theorem inv_execVerdictContribution {mooring : Nat} {s : State}
    (ok_s : s.Inv) : OutcomeInv (execVerdictContribution mooring s) := by
  unfold execVerdictContribution
  repeat' with_reducible first | assumption | apply inv_contributeAhead | apply outcomeInv_next | apply outcomeInv_fault | apply inv_contribute | apply lanternOk_lanternAt | intro _ | split | dsimp only

theorem inv_childVerdict {s : State} {m : Mooring} {node : Nat} {t : Nat} {v : Verdict}
    (ok_s : s.Inv) : (childVerdict s m node t v).Inv := by
  unfold childVerdict
  repeat' with_reducible first | assumption | apply inv_contributeAhead | apply inv_modMooring | apply inv_contribute | apply inv_forwardUp | intro _ | split | dsimp only

theorem inv_applyAhead {s : State} {id : Nat} {t : Nat} {v : Option Verdict}
    (ok_s : s.Inv) : (applyAhead s id t v).Inv := by
  unfold applyAhead
  repeat' with_reducible first | assumption | apply inv_applyVerdict | (refine inv_of_fst ?_ (by assumption)) | (refine inv_of_snd ?_ (by assumption)) | apply lanternOk_lanternAt | apply lanternOk_vec | apply vregOk_regAt | apply veOk_regs | apply veOk_masks | apply regsOk_modify | apply regsOk_zipIdx_map | exact regsOk_replicate | exact masksOk_start _ | apply masksOk_first | apply (List.length_modify ..).trans | apply (length_setAt ..).trans | apply (length_bump ..).trans | apply (length_zipIdx_map ..).trans | apply (List.length_map ..).trans | exact List.length_replicate | rfl | apply veOk_foldl | apply lanternOk_foldl | intro _ | split | apply inv_foldl | apply inv_foldl_fst | apply inv_foldl_snd | apply inv_foldr | dsimp only | apply veOk_mk

theorem inv_applyDown {s : State} {id : Nat} {t : Nat} {v : Verdict}
    (ok_s : s.Inv) : (applyDown s id t v).Inv := by
  unfold applyDown
  repeat' with_reducible first | assumption | apply inv_modMooring | apply inv_windDown | apply inv_applyAhead | apply inv_applyVerdict | apply inv_replayAhead | (refine inv_of_fst ?_ (by assumption)) | (refine inv_of_snd ?_ (by assumption)) | apply lanternOk_lanternAt | apply lanternOk_vec | apply vregOk_regAt | apply veOk_regs | apply veOk_masks | apply regsOk_modify | apply regsOk_zipIdx_map | exact regsOk_replicate | exact masksOk_start _ | apply masksOk_first | apply (List.length_modify ..).trans | apply (length_setAt ..).trans | apply (length_bump ..).trans | apply (length_zipIdx_map ..).trans | apply (List.length_map ..).trans | exact List.length_replicate | rfl | apply veOk_foldl | apply lanternOk_foldl | intro _ | split | apply inv_foldl | apply inv_foldl_fst | apply inv_foldl_snd | apply inv_foldr | dsimp only | apply veOk_mk

theorem inv_verdictDown {s : State} {m : Mooring} {t : Nat} {v : Verdict}
    (ok_s : s.Inv) : (verdictDown s m t v).Inv := by
  unfold verdictDown
  repeat' with_reducible first | assumption | apply inv_applyDown | apply inv_replayAhead | apply inv_applyAhead | apply inv_modMooring | apply inv_windDown | apply inv_applyVerdict | apply inv_sendVerdict | intro _ | split | apply inv_foldl | apply inv_foldl_fst | apply inv_foldl_snd | dsimp only

theorem inv_execVerdict {mooring : Nat} {p : Option Packet} {s : State}
    (ok_s : s.Inv) : OutcomeInv (execVerdict mooring p s) := by
  unfold execVerdict
  repeat' with_reducible first | assumption | apply outcomeInv_next | apply outcomeInv_fault | apply inv_verdictDown | apply inv_onPacket | apply inv_childVerdict | intro _ | split | dsimp only

theorem inv_execVerdictTimerExpiry {mooring : Nat} {s : State}
    (ok_s : s.Inv) : OutcomeInv (execVerdictTimerExpiry mooring s) := by
  unfold execVerdictTimerExpiry
  repeat' with_reducible first | assumption | apply outcomeInv_next | apply outcomeInv_fault | apply inv_raiseEvent | apply inv_modMooring | apply inv_probeNode | intro _ | split | apply inv_foldl | apply inv_foldl_fst | apply inv_foldl_snd | dsimp only

theorem inv_execTenderInstall {mooring : Nat} {kept : Nat} {s : State}
    (ok_s : s.Inv) : OutcomeInv (execTenderInstall mooring kept s) := by
  unfold execTenderInstall
  repeat' with_reducible first | assumption | apply inv_installCopy | apply outcomeInv_next | apply outcomeInv_fault | apply inv_modMooring | apply inv_reportCopies | intro _ | split | dsimp only

theorem inv_announceHere {s : State} {id : Nat} {t : Nat}
    (ok_s : s.Inv) : (announceHere s id t).Inv := by
  unfold announceHere
  repeat' with_reducible first | assumption | apply inv_modMooring | rfl | exact id | apply lanternOk_events | apply lanternOk_dma | apply lanternOk_vec | apply lanternsOk_map | apply lanternsOk_zipIdx_map | apply funcsOk_map | apply funcsOk_zipIdx_map | apply (List.length_modify ..).trans | apply (length_setAt ..).trans | apply (length_bump ..).trans | apply (length_zipIdx_map ..).trans | apply (List.length_map ..).trans | exact List.length_replicate | rfl | intro _ | split | dsimp only | apply lanternOk_mk | apply inv_struct | rfl | exact List.length_map _ | exact List.length_modify .. | exact (List.length_map _).trans List.length_zipIdx

theorem inv_execTenderAnnounce {mooring : Nat} {s : State}
    (ok_s : s.Inv) : OutcomeInv (execTenderAnnounce mooring s) := by
  unfold execTenderAnnounce
  repeat' with_reducible first | assumption | apply outcomeInv_next | apply outcomeInv_fault | apply inv_announceHere | apply inv_tellNodes | intro _ | split | dsimp only

theorem inv_servingOver {s : State} {id : Nat} {fault : Bool}
    (ok_s : s.Inv) : (servingOver s id fault).Inv := by
  unfold servingOver
  repeat' with_reducible first | assumption | apply inv_modMooring | apply inv_windDown | intro _ | split | dsimp only

theorem inv_servingHeard {s : State} {id : Nat} {step : Nat} {fault : Bool}
    (ok_s : s.Inv) : (servingHeard s id step fault).Inv := by
  unfold servingHeard
  repeat' with_reducible first | assumption | apply inv_endRun | apply inv_servingOver | apply inv_endIfDone | intro _ | split | dsimp only

theorem inv_servingDecide {s : State} {id : Nat}
    (ok_s : s.Inv) : (servingDecide s id).Inv := by
  unfold servingDecide
  repeat' with_reducible first | assumption | apply inv_tellSlot | apply inv_askFaults | apply inv_tellNodes | apply inv_runRecord | apply inv_modMooring | apply inv_servingOver | apply inv_atBoundary | apply inv_endRun | apply inv_leaveReached | apply inv_endIfDone | intro _ | split | apply inv_foldl | apply inv_foldl_fst | apply inv_foldl_snd | dsimp only

theorem inv_servingEnded {s : State} {id : Nat} {node : Nat} {step : Nat} {flags : BitVec 16} {bad : Bool} {fault : Bool}
    (ok_s : s.Inv) : (servingEnded s id node step flags bad fault).Inv := by
  unfold servingEnded
  repeat' with_reducible first | assumption | apply inv_servingDecide | apply inv_modMooring | intro _ | split | dsimp only

theorem inv_execServingStepEnd {mooring : Nat} {s : State}
    (ok_s : s.Inv) : OutcomeInv (execServingStepEnd mooring s) := by
  unfold execServingStepEnd
  repeat' with_reducible first | assumption | apply outcomeInv_next | apply outcomeInv_fault | apply inv_modMooring | apply inv_servingDecide | apply inv_tellNode | apply lanternOk_lanternAt | intro _ | split | dsimp only

theorem inv_takeCollPacket {s : State} {p : Packet}
    (ok_s : s.Inv) : (takeCollPacket s p).Inv := by
  unfold takeCollPacket
  repeat' with_reducible first | assumption | apply inv_stageRefresh | apply inv_deliverColl | apply inv_permuteArrive | apply inv_modMooring | intro _ | split | dsimp only

theorem inv_execCollPacket {p : Packet} {s : State}
    (ok_s : s.Inv) : OutcomeInv (execCollPacket p s) := by
  unfold execCollPacket
  repeat' with_reducible first | assumption | apply outcomeInv_next | apply outcomeInv_fault | apply inv_onPacket | apply inv_takeCollPacket | intro _ | split | dsimp only

end Sys2Proof.Machine
end

