-- ==== Sys2Proof/Laws/InvMembers.lean ====
section
/-! SUPPORT. Laws/InvMembers.lean: the operations of Machine/Members.lean keep the invariant State.Inv. -/

namespace Sys2Proof.Machine

theorem inv_undoCommitted {s : State} {id : Nat} {c : Nat}
    (ok_s : s.Inv) : (undoCommitted s id c).Inv := by
  unfold undoCommitted
  repeat' with_reducible first | assumption | apply inv_openWindows | apply inv_modMooring | apply inv_undoUpdate | intro _ | split | dsimp only

theorem inv_bypassAround {s : State} {n : Nat}
    (ok_s : s.Inv) : (bypassAround s n).Inv := by
  unfold bypassAround
  repeat' with_reducible first | assumption | apply inv_tellNodes | apply inv_bypassNode | intro _ | split | dsimp only

theorem inv_redirectHere {s : State} {lost : Nat} {ship : Nat}
    (ok_s : s.Inv) : (redirectHere s lost ship).Inv := by
  unfold redirectHere
  repeat' with_reducible first | assumption | apply inv_modRouter | intro _ | split | dsimp only | rfl | exact List.length_map _ | exact List.length_modify .. | exact (List.length_map _).trans List.length_zipIdx

theorem inv_redirectAround {s : State} {lost : Nat} {ship : Nat}
    (ok_s : s.Inv) : (redirectAround s lost ship).Inv := by
  unfold redirectAround
  repeat' with_reducible first | assumption | apply inv_redirectHere | apply inv_tellNodes | intro _ | split | dsimp only

theorem inv_stopHere {s : State} {id : Nat} {status : Nat}
    (ok_s : s.Inv) : (stopHere s id status).Inv := by
  unfold stopHere
  repeat' with_reducible first | assumption | apply inv_deferEpoch | apply inv_breakRun | apply inv_newEpoch | apply inv_windDown | intro _ | split | dsimp only

theorem inv_giveUpAdoption {s : State} {id : Nat}
    (ok_s : s.Inv) : (giveUpAdoption s id).Inv := by
  unfold giveUpAdoption
  repeat' with_reducible first | assumption | apply inv_oldMapHere | apply inv_tellNodes | (refine inv_of_fst ?_ (by assumption)) | (refine inv_of_snd ?_ (by assumption)) | apply lanternOk_lanternAt | apply lanternOk_vec | apply vregOk_regAt | apply veOk_regs | apply veOk_masks | apply regsOk_modify | apply regsOk_zipIdx_map | exact regsOk_replicate | exact masksOk_start _ | apply masksOk_first | apply (List.length_modify ..).trans | apply (length_setAt ..).trans | apply (length_bump ..).trans | apply (length_zipIdx_map ..).trans | apply (List.length_map ..).trans | exact List.length_replicate | rfl | apply veOk_foldl | apply lanternOk_foldl | intro _ | split | apply inv_foldl | apply inv_foldl_fst | apply inv_foldl_snd | apply inv_foldr | dsimp only | apply veOk_mk

theorem inv_stopForLoss {s : State} {id : Nat} {status : Nat} {lost : List (Nat × Nat)}
    (ok_s : s.Inv) : (stopForLoss s id status lost).Inv := by
  unfold stopForLoss
  repeat' with_reducible first | assumption | apply inv_giveUpAdoption | apply inv_tellNodes | apply inv_modMooring | apply inv_stopHere | intro _ | split | dsimp only

theorem inv_adoptAll {s : State} {id : Nat}
    (ok_s : s.Inv) : (adoptAll s id).Inv := by
  unfold adoptAll
  repeat' with_reducible first | assumption | apply inv_deferEpoch | apply inv_modMooring | apply inv_spreadMap | apply inv_redirectAround | apply inv_raiseEvent | apply inv_bumpModule | intro _ | split | apply inv_foldl | apply inv_foldl_fst | apply inv_foldl_snd | dsimp only

theorem inv_seekLightship {s : State} {id : Nat}
    (ok_s : s.Inv) : (seekLightship s id).Inv := by
  unfold seekLightship
  repeat' with_reducible first | assumption | apply inv_adoptAll | apply inv_probeNode | apply inv_stopForLoss | intro _ | split | dsimp only

theorem inv_lightshipAnswered {s : State} {id : Nat} {a : ProbeAnswer}
    (ok_s : s.Inv) : (lightshipAnswered s id a).Inv := by
  unfold lightshipAnswered
  repeat' with_reducible first | assumption | apply inv_seekLightship | apply inv_modMooring | intro _ | split | dsimp only

theorem inv_failMembership {s : State} {id : Nat}
    (ok_s : s.Inv) : (failMembership s id).Inv := by
  unfold failMembership
  repeat' with_reducible first | assumption | apply inv_failMove | apply inv_unpause | apply inv_finishOp | intro _ | split | dsimp only

theorem inv_stateLost {s : State} {id : Nat} {nodes : List Nat}
    (ok_s : s.Inv) : (stateLost s id nodes).Inv := by
  unfold stateLost
  repeat' with_reducible first | assumption | apply inv_stopForLoss | apply inv_bumpModule | (refine inv_of_fst ?_ (by assumption)) | (refine inv_of_snd ?_ (by assumption)) | apply lanternOk_lanternAt | apply lanternOk_vec | apply vregOk_regAt | apply veOk_regs | apply veOk_masks | apply regsOk_modify | apply regsOk_zipIdx_map | exact regsOk_replicate | exact masksOk_start _ | apply masksOk_first | apply (List.length_modify ..).trans | apply (length_setAt ..).trans | apply (length_bump ..).trans | apply (length_zipIdx_map ..).trans | apply (List.length_map ..).trans | exact List.length_replicate | rfl | apply veOk_foldl | apply lanternOk_foldl | intro _ | split | apply inv_foldl | apply inv_foldl_fst | apply inv_foldl_snd | apply inv_foldr | dsimp only | apply veOk_mk

theorem inv_undoEverywhere {s : State} {id : Nat} {c : Nat} {rest : List Nat}
    (ok_s : s.Inv) : (undoEverywhere s id c rest).Inv := by
  unfold undoEverywhere
  repeat' with_reducible first | assumption | apply inv_undoCommitted | apply inv_raiseEvent | apply inv_bumpModule | apply inv_tellNodes | (refine inv_of_fst ?_ (by assumption)) | (refine inv_of_snd ?_ (by assumption)) | apply lanternOk_lanternAt | apply lanternOk_vec | apply vregOk_regAt | apply veOk_regs | apply veOk_masks | apply regsOk_modify | apply regsOk_zipIdx_map | exact regsOk_replicate | exact masksOk_start _ | apply masksOk_first | apply (List.length_modify ..).trans | apply (length_setAt ..).trans | apply (length_bump ..).trans | apply (length_zipIdx_map ..).trans | apply (List.length_map ..).trans | exact List.length_replicate | rfl | apply veOk_foldl | apply lanternOk_foldl | intro _ | split | apply inv_foldl | apply inv_foldl_fst | apply inv_foldl_snd | apply inv_foldr | dsimp only | apply veOk_mk

theorem inv_replaceMember {s : State} {id : Nat} {node : Nat} {h : Nat}
    (ok_s : s.Inv) : (replaceMember s id node h).Inv := by
  unfold replaceMember
  repeat' with_reducible first | assumption | apply inv_startRunHere | apply inv_seekLightship | apply inv_modMooring | apply inv_stopForLoss | (refine inv_of_fst ?_ (by assumption)) | (refine inv_of_snd ?_ (by assumption)) | apply lanternOk_lanternAt | apply lanternOk_vec | apply vregOk_regAt | apply veOk_regs | apply veOk_masks | apply regsOk_modify | apply regsOk_zipIdx_map | exact regsOk_replicate | exact masksOk_start _ | apply masksOk_first | apply (List.length_modify ..).trans | apply (length_setAt ..).trans | apply (length_bump ..).trans | apply (length_zipIdx_map ..).trans | apply (List.length_map ..).trans | exact List.length_replicate | rfl | apply veOk_foldl | apply lanternOk_foldl | intro _ | split | apply inv_foldl | apply inv_foldl_fst | apply inv_foldl_snd | apply inv_foldr | dsimp only | apply veOk_mk

theorem inv_recoverAt {s : State} {id : Nat} {node : Nat} {h : Nat} {point : Option Nat}
    (ok_s : s.Inv) : (recoverAt s id node h point).Inv := by
  unfold recoverAt
  repeat' with_reducible first | assumption | apply inv_replaceMember | apply inv_undoEverywhere | apply inv_stateLost | (refine inv_of_fst ?_ (by assumption)) | (refine inv_of_snd ?_ (by assumption)) | apply lanternOk_lanternAt | apply lanternOk_vec | apply vregOk_regAt | apply veOk_regs | apply veOk_masks | apply regsOk_modify | apply regsOk_zipIdx_map | exact regsOk_replicate | exact masksOk_start _ | apply masksOk_first | apply (List.length_modify ..).trans | apply (length_setAt ..).trans | apply (length_bump ..).trans | apply (length_zipIdx_map ..).trans | apply (List.length_map ..).trans | exact List.length_replicate | rfl | apply veOk_foldl | apply lanternOk_foldl | intro _ | split | apply inv_foldl | apply inv_foldl_fst | apply inv_foldl_snd | apply inv_foldr | dsimp only | apply veOk_mk

theorem inv_recoverMember {s : State} {id : Nat} {node : Nat}
    (ok_s : s.Inv) : (recoverMember s id node).Inv := by
  unfold recoverMember
  repeat' with_reducible first | assumption | apply inv_recoverAt | apply inv_replaceMember | apply inv_stateLost | apply inv_tellNode | apply inv_failMembership | apply inv_windDown | apply inv_tellNodes | apply inv_bypassAround | apply inv_stopForLoss | apply inv_bumpModule | apply inv_undoCommitted | apply inv_raiseEvent | apply inv_startRunHere | apply inv_seekLightship | apply inv_modMooring | intro _ | split | dsimp only

theorem inv_pointHeard {s : State} {id : Nat} {lost : Nat} {holder : Nat} {point : Option Nat}
    (ok_s : s.Inv) : (pointHeard s id lost holder point).Inv := by
  unfold pointHeard
  repeat' with_reducible first | assumption | apply inv_recoverAt | apply inv_modMooring | (refine inv_of_fst ?_ (by assumption)) | (refine inv_of_snd ?_ (by assumption)) | apply lanternOk_lanternAt | apply lanternOk_vec | apply vregOk_regAt | apply veOk_regs | apply veOk_masks | apply regsOk_modify | apply regsOk_zipIdx_map | exact regsOk_replicate | exact masksOk_start _ | apply masksOk_first | apply (List.length_modify ..).trans | apply (length_setAt ..).trans | apply (length_bump ..).trans | apply (length_zipIdx_map ..).trans | apply (List.length_map ..).trans | exact List.length_replicate | rfl | apply veOk_foldl | apply lanternOk_foldl | intro _ | split | apply inv_foldl | apply inv_foldl_fst | apply inv_foldl_snd | apply inv_foldr | dsimp only | apply veOk_mk

theorem inv_tellPoint {s : State} {id : Nat} {lost : Nat} {src : Nat}
    (ok_s : s.Inv) : (tellPoint s id lost src).Inv := by
  unfold tellPoint
  repeat' with_reducible first | assumption | apply inv_tellNode | (refine inv_of_fst ?_ (by assumption)) | (refine inv_of_snd ?_ (by assumption)) | apply lanternOk_lanternAt | apply lanternOk_vec | apply vregOk_regAt | apply veOk_regs | apply veOk_masks | apply regsOk_modify | apply regsOk_zipIdx_map | exact regsOk_replicate | exact masksOk_start _ | apply masksOk_first | apply (List.length_modify ..).trans | apply (length_setAt ..).trans | apply (length_bump ..).trans | apply (length_zipIdx_map ..).trans | apply (List.length_map ..).trans | exact List.length_replicate | rfl | apply veOk_foldl | apply lanternOk_foldl | intro _ | split | apply inv_foldl | apply inv_foldl_fst | apply inv_foldl_snd | apply inv_foldr | dsimp only | apply veOk_mk

theorem inv_retakeRun {s : State} {id : Nat}
    (ok_s : s.Inv) : (retakeRun s id).Inv := by
  unfold retakeRun
  repeat' with_reducible first | assumption | apply inv_foldl | apply inv_modOp | apply inv_finishOp | (refine inv_of_fst ?_ (by assumption)) | (refine inv_of_snd ?_ (by assumption)) | apply lanternOk_lanternAt | apply lanternOk_vec | apply vregOk_regAt | apply veOk_regs | apply veOk_masks | apply regsOk_modify | apply regsOk_zipIdx_map | exact regsOk_replicate | exact masksOk_start _ | apply masksOk_first | apply (List.length_modify ..).trans | apply (length_setAt ..).trans | apply (length_bump ..).trans | apply (length_zipIdx_map ..).trans | apply (List.length_map ..).trans | exact List.length_replicate | rfl | apply veOk_foldl | apply lanternOk_foldl | intro _ | split | apply inv_foldl | apply inv_foldl_fst | apply inv_foldl_snd | apply inv_foldr | dsimp only | apply veOk_mk

theorem inv_endRetaken {s : State} {id : Nat}
    (ok_s : s.Inv) : (endRetaken s id).Inv := by
  unfold endRetaken
  repeat' with_reducible first | assumption | apply inv_breakRun | apply inv_tellNodes | (refine inv_of_fst ?_ (by assumption)) | (refine inv_of_snd ?_ (by assumption)) | apply lanternOk_lanternAt | apply lanternOk_vec | apply vregOk_regAt | apply veOk_regs | apply veOk_masks | apply regsOk_modify | apply regsOk_zipIdx_map | exact regsOk_replicate | exact masksOk_start _ | apply masksOk_first | apply (List.length_modify ..).trans | apply (length_setAt ..).trans | apply (length_bump ..).trans | apply (length_zipIdx_map ..).trans | apply (List.length_map ..).trans | exact List.length_replicate | rfl | apply veOk_foldl | apply lanternOk_foldl | intro _ | split | apply inv_foldl | apply inv_foldl_fst | apply inv_foldl_snd | apply inv_foldr | dsimp only | apply veOk_mk

theorem inv_takeAnchor {s : State} {id : Nat} {lost : Nat}
    (ok_s : s.Inv) : (takeAnchor s id lost).Inv := by
  unfold takeAnchor
  repeat' with_reducible first | assumption | apply inv_retakeRun | apply inv_endRetaken | apply inv_recoverMember | apply inv_raiseEvent | apply inv_bumpModule | apply inv_modMooring | intro _ | split | dsimp only

theorem inv_electNext {s : State} {id : Nat} {lost : Nat} {order : List Nat}
    (ok_s : s.Inv) : (electNext s id lost order).Inv := by
  unfold electNext
  repeat' with_reducible first | assumption | apply inv_takeAnchor | apply inv_probeNode | intro _ | split | dsimp only

theorem inv_startElection {s : State} {id : Nat} {lost : Nat}
    (ok_s : s.Inv) : (startElection s id lost).Inv := by
  unfold startElection
  repeat' with_reducible first | assumption | apply inv_electNext | apply inv_modMooring | apply inv_bumpModule | intro _ | split | dsimp only

theorem inv_electionAnswered {s : State} {id : Nat} {lost : Nat} {node : Nat} {ok : Bool}
    (ok_s : s.Inv) : (electionAnswered s id lost node ok).Inv := by
  unfold electionAnswered
  repeat' with_reducible first | assumption | apply inv_tellNode | apply inv_modMooring | apply inv_electNext | intro _ | split | dsimp only

theorem inv_probeEnded {s : State} {id : Nat} {node : Nat} {a : ProbeAnswer}
    (ok_s : s.Inv) : (probeEnded s id node a).Inv := by
  unfold probeEnded
  repeat' with_reducible first | assumption | apply inv_tellNode | apply inv_modMooring | apply inv_lightshipAnswered | apply inv_electionAnswered | apply inv_recoverMember | apply inv_raiseEvent | apply inv_bumpModule | apply inv_startElection | intro _ | split | dsimp only

theorem inv_execProbeTimeout {mooring : Nat} {node : Nat} {a : ProbeAnswer} {s : State}
    (ok_s : s.Inv) : OutcomeInv (execProbeTimeout mooring node a s) := by
  unfold execProbeTimeout
  repeat' with_reducible first | assumption | apply outcomeInv_next | apply outcomeInv_fault | apply inv_probeEnded | intro _ | split | dsimp only

theorem inv_execLinkDownReport {mooring : Nat} {reporter : Nat} {member : Nat} {s : State}
    (ok_s : s.Inv) : OutcomeInv (execLinkDownReport mooring reporter member s) := by
  unfold execLinkDownReport
  repeat' with_reducible first | assumption | apply outcomeInv_next | apply outcomeInv_fault | apply inv_probeNode | apply inv_suspect | intro _ | split | dsimp only

theorem inv_dueAct {s : State} {id : Nat} {x1 : EpochDue}
    (ok_s : s.Inv) : (dueAct s id x1).Inv := by
  unfold dueAct
  repeat' with_reducible first | assumption | apply inv_applyDown | apply inv_atBoundary | apply inv_stopHere | apply inv_adoptAll | split

theorem inv_dueActs {s : State} {id : Nat}
    (ok_s : s.Inv) : (dueActs s id).Inv := by
  unfold dueActs
  repeat' with_reducible first | assumption | apply inv_dueAct | apply inv_foldl | apply inv_modMooring | (refine inv_of_fst ?_ (by assumption)) | (refine inv_of_snd ?_ (by assumption)) | apply lanternOk_lanternAt | apply lanternOk_vec | apply vregOk_regAt | apply veOk_regs | apply veOk_masks | apply regsOk_modify | apply regsOk_zipIdx_map | exact regsOk_replicate | exact masksOk_start _ | apply masksOk_first | apply (List.length_modify ..).trans | apply (length_setAt ..).trans | apply (length_bump ..).trans | apply (length_zipIdx_map ..).trans | apply (List.length_map ..).trans | exact List.length_replicate | rfl | apply veOk_foldl | apply lanternOk_foldl | intro _ | split | apply inv_foldl | apply inv_foldl_fst | apply inv_foldl_snd | apply inv_foldr | dsimp only | apply veOk_mk

theorem inv_execDaymarkAdvance {d : Domain} {s : State}
    (ok_s : s.Inv) : OutcomeInv (execDaymarkAdvance d s) := by
  unfold execDaymarkAdvance
  repeat' with_reducible first | assumption | apply inv_dueActs | apply inv_advanceOwed | apply outcomeInv_next | apply outcomeInv_fault | apply inv_modKeeper | apply inv_advanceNow | intro _ | split | dsimp only

theorem inv_noteRing {s : State} {id : Nat} {axis : Nat} {effective : Nat} {brk : Option Nat}
    (ok_s : s.Inv) : (noteRing s id axis effective brk).Inv := by
  unfold noteRing
  repeat' with_reducible first | assumption | apply inv_modMooring | intro _ | split | dsimp only

theorem inv_ringMessage {s : State} {m : Mooring} {old : List LightEntry} {new : List LightEntry} {port : Nat}
    (ok_s : s.Inv) : (ringMessage s m old new port).Inv := by
  unfold ringMessage
  repeat' with_reducible first | assumption | apply inv_noteRing | apply inv_tellNodes | intro _ | split | dsimp only

theorem inv_execLightListInstall {entries : List LightEntry} {known : List (Nat × List LightEntry)} {s : State}
    (ok_s : s.Inv) : OutcomeInv (execLightListInstall entries known s) := by
  unfold execLightListInstall
  repeat' with_reducible first | assumption | apply inv_modRouter | apply inv_leavePortsDown | apply outcomeInv_next | apply outcomeInv_fault | apply inv_raiseEventP | apply inv_installBank | apply inv_ringMessage | intro _ | split | apply inv_foldl | apply inv_foldl_fst | apply inv_foldl_snd | dsimp only

end Sys2Proof.Machine
end

