-- ==== Sys2Proof/Laws/InvMessages.lean ====
section
/-! SUPPORT. Laws/InvMessages.lean: the operations of Machine/Messages.lean keep the invariant State.Inv. -/

namespace Sys2Proof.Machine

theorem inv_handOver {s : State} {m : Mooring} {anchor : Nat} {o : LongOp}
    (ok_s : s.Inv) : (handOver s m anchor o).Inv := by
  unfold handOver
  repeat' with_reducible first | assumption | apply inv_finishOp | apply inv_tellNode | (refine inv_of_fst ?_ (by assumption)) | (refine inv_of_snd ?_ (by assumption)) | apply lanternOk_lanternAt | apply lanternOk_vec | apply vregOk_regAt | apply veOk_regs | apply veOk_masks | apply regsOk_modify | apply regsOk_zipIdx_map | exact regsOk_replicate | exact masksOk_start _ | apply masksOk_first | apply (List.length_modify ..).trans | apply (length_setAt ..).trans | apply (length_bump ..).trans | apply (length_zipIdx_map ..).trans | apply (List.length_map ..).trans | exact List.length_replicate | rfl | apply veOk_foldl | apply lanternOk_foldl | intro _ | split | apply inv_foldl | apply inv_foldl_fst | apply inv_foldl_snd | apply inv_foldr | dsimp only | apply veOk_mk

theorem inv_heardFrom {s : State} {id : Nat} {src : Nat}
    (ok_s : s.Inv) : (heardFrom s id src).Inv := by
  unfold heardFrom
  repeat' with_reducible first | assumption | apply inv_handOver | apply inv_foldl | apply inv_modMooring | intro _ | split | dsimp only

theorem inv_stopRunHeard {s : State} {id : Nat} {src : Nat} {status : Nat}
    (ok_s : s.Inv) : (stopRunHeard s id src status).Inv := by
  unfold stopRunHeard
  repeat' with_reducible first | assumption | apply inv_stopHere | apply inv_tellNodes | apply inv_heardFrom | intro _ | split | dsimp only

theorem inv_moveFailed {s : State} {id : Nat} {node : Nat}
    (ok_s : s.Inv) : (moveFailed s id node).Inv := by
  unfold moveFailed
  repeat' with_reducible first | assumption | apply inv_foldl | apply inv_recoverMember | apply inv_tellNode | apply inv_failMove | intro _ | split | dsimp only

theorem inv_beginPermute {s : State} {m : Mooring} {p : Parsed} {v : Moving}
    (ok_s : s.Inv) : (beginPermute s m p v).Inv := by
  unfold beginPermute
  repeat' with_reducible first | assumption | apply inv_modMooring | apply inv_permuteFromMap | apply inv_foldl | apply inv_notePoisonLine | apply inv_permuteFromPart | (refine inv_of_fst ?_ (by assumption)) | (refine inv_of_snd ?_ (by assumption)) | apply lanternOk_lanternAt | apply lanternOk_vec | apply vregOk_regAt | apply veOk_regs | apply veOk_masks | apply regsOk_modify | apply regsOk_zipIdx_map | exact regsOk_replicate | exact masksOk_start _ | apply masksOk_first | apply (List.length_modify ..).trans | apply (length_setAt ..).trans | apply (length_bump ..).trans | apply (length_zipIdx_map ..).trans | apply (List.length_map ..).trans | exact List.length_replicate | rfl | apply veOk_foldl | apply lanternOk_foldl | intro _ | split | apply inv_foldl | apply inv_foldl_fst | apply inv_foldl_snd | apply inv_foldr | dsimp only | apply veOk_mk

theorem inv_permuteFails {s : State} {id : Nat} {v : Moving}
    (ok_s : s.Inv) : (permuteFails s id v).Inv := by
  unfold permuteFails
  repeat' with_reducible first | assumption | apply inv_moveFailed | apply inv_tellNode | (refine inv_of_fst ?_ (by assumption)) | (refine inv_of_snd ?_ (by assumption)) | apply lanternOk_lanternAt | apply lanternOk_vec | apply vregOk_regAt | apply veOk_regs | apply veOk_masks | apply regsOk_modify | apply regsOk_zipIdx_map | exact regsOk_replicate | exact masksOk_start _ | apply masksOk_first | apply (List.length_modify ..).trans | apply (length_setAt ..).trans | apply (length_bump ..).trans | apply (length_zipIdx_map ..).trans | apply (List.length_map ..).trans | exact List.length_replicate | rfl | apply veOk_foldl | apply lanternOk_foldl | intro _ | split | apply inv_foldl | apply inv_foldl_fst | apply inv_foldl_snd | apply inv_foldr | dsimp only | apply veOk_mk

theorem inv_execPermute {mooring : Nat} {s : State}
    (ok_s : s.Inv) : OutcomeInv (execPermute mooring s) := by
  unfold execPermute
  repeat' with_reducible first | assumption | apply inv_permuteFails | apply inv_beginPermute | apply outcomeInv_next | apply outcomeInv_fault | apply inv_failMove | apply inv_tellNode | apply inv_modMooring | apply inv_permuteFromMap | apply inv_permuteFromPart | apply inv_completeMove | apply inv_reportMove | intro _ | split | dsimp only

theorem inv_partSaved {s : State} {id : Nat} {node : Nat} {name : BitVec 256} {status : Nat}
    (ok_s : s.Inv) : (partSaved s id node name status).Inv := by
  unfold partSaved
  repeat' with_reducible first | assumption | apply inv_modMooring | apply inv_finishOp | apply inv_atBoundary | apply inv_unpause | apply inv_finishSnapshot | intro _ | split | dsimp only

theorem inv_copiesInstalled {s : State} {id : Nat} {step : Nat} {node : Nat}
    (ok_s : s.Inv) : (copiesInstalled s id step node).Inv := by
  unfold copiesInstalled
  repeat' with_reducible first | assumption | apply inv_reportCopies | apply inv_modMooring | intro _ | split | dsimp only

theorem inv_deletePartHere {s : State} {id : Nat} {name : BitVec 256}
    (ok_s : s.Inv) : (deletePartHere s id name).Inv := by
  unfold deletePartHere
  repeat' with_reducible first | assumption | apply inv_modFlash | intro _ | split | dsimp only

theorem inv_greetBack {s : State} {port : Nat} {src : Nat}
    (ok_s : s.Inv) : (greetBack s port src).Inv := by
  unfold greetBack
  repeat' with_reducible first | assumption | apply inv_tellNode | (refine inv_of_fst ?_ (by assumption)) | (refine inv_of_snd ?_ (by assumption)) | apply lanternOk_lanternAt | apply lanternOk_vec | apply vregOk_regAt | apply veOk_regs | apply veOk_masks | apply regsOk_modify | apply regsOk_zipIdx_map | exact regsOk_replicate | exact masksOk_start _ | apply masksOk_first | apply (List.length_modify ..).trans | apply (length_setAt ..).trans | apply (length_bump ..).trans | apply (length_zipIdx_map ..).trans | apply (List.length_map ..).trans | exact List.length_replicate | rfl | apply veOk_foldl | apply lanternOk_foldl | intro _ | split | apply inv_foldl | apply inv_foldl_fst | apply inv_foldl_snd | apply inv_foldr | dsimp only | apply veOk_mk

theorem inv_keeperAct {s : State} {src : Nat} {msg : KeeperMsg}
    (ok_s : s.Inv) : (keeperAct s src msg).Inv := by
  unfold keeperAct
  repeat' with_reducible first | assumption | apply inv_slotGone | apply inv_slotShows | apply inv_pointHeard | apply inv_tellPoint | apply inv_handledAt | apply inv_faultAsked | apply inv_raiseHeard | apply inv_openedAt | apply inv_openAnswered | apply inv_openAsked | apply inv_tellFull | apply inv_modOp | apply inv_greetBack | apply inv_suspect | apply inv_nameRoot | apply inv_tellNode | apply inv_probeEnded | apply inv_noteRing | apply inv_checkNeighbour | apply inv_runForwarded | apply inv_abortForwardedHere | apply inv_forwardReplied | apply inv_forwardedStep | apply inv_forwardedEnd | apply inv_takeMap | apply inv_oldMapHere | apply inv_memberMoved | apply inv_moveFailed | apply inv_passHold | apply inv_goOnHere | apply inv_modMooring | apply inv_leaveHere | apply inv_startRunHere | apply inv_stopRunHeard | apply inv_windDown | apply inv_heardFrom | apply inv_undoCommitted | apply inv_bypassNode | apply inv_takeAnchor | apply inv_redirectHere | apply inv_savePartHere | apply inv_partSaved | apply inv_givePart | apply inv_restoreHere | apply inv_deletePartHere | apply inv_remoteWrite | apply inv_remoteRead | apply inv_tensorAnswered | apply inv_postEvent | apply inv_probeNode | apply inv_servingEnded | apply inv_servingHeard | apply inv_copiesInstalled | apply inv_announceHere | (refine inv_of_fst ?_ (by assumption)) | intro _ | split | dsimp only

theorem inv_execKeeperMsg {p : Packet} {msg : KeeperMsg} {s : State}
    (ok_s : s.Inv) : OutcomeInv (execKeeperMsg p msg s) := by
  unfold execKeeperMsg
  repeat' with_reducible first | assumption | apply outcomeInv_next | apply outcomeInv_fault | apply inv_onPacket | apply inv_keeperAct | intro _ | split | dsimp only

end Sys2Proof.Machine
end

