-- ==== Sys2Proof/Machine/RegRead.lean ====
section
/-! DEFINITION. Machine/RegRead.lean: what a read of a directly accessed register returns (R4, R5, R393 to
R407). The table of commands has no row for a read; these are the views in which the state shows. -/

namespace Sys2Proof.Machine

/-! ### The 64-bit words of each block -/

/-- A word of a queue's register block (R399). -/
def queueWord (x : Queue) (o : Nat) : Nat :=
  match o with
  | 0x00 => b2n x.bound + 2 * b2n x.event + 4 * x.log2n + 128 * x.vector
  | 0x08 => x.base
  | 0x10 => x.prod
  | 0x18 => x.head
  | 0x20 => b2n x.badHead + 2 * b2n (!x.staged.isEmpty) + 4 * b2n (decide (4096 ≤ x.staged.length)) +
      2 ^ 32 * min x.staged.length 4096
  | 0x28 => x.modCount + 2 ^ 16 * x.modTime
  | _ => 0

/-- KIND of a function (R402): 0 PF, 1 VF, 2 shore function. -/
def funcKind (f : Nat) : Nat := if f = 0 then 0 else if f < 32 then 1 else 2

/-- PENDING (R402): the mailboxes whose accepted request awaits its response. -/
def pendingBits (x : Func) : Nat :=
  (List.range 4).foldl (fun n k => n + 2 ^ k * b2n ((x.mbox.getD k Mailbox.reset).req.isSome)) 0

/-- A word of the function block (R402). -/
def funcWord (s : State) (f o : Nat) : Nat :=
  match o with
  | 0x00 => (funcAt s f).intStatus.toNat
  | 0x08 => f + 64 * funcKind f
  | 0x10 => pendingBits (funcAt s f)
  | _ => 0

/-- DEGRADED (R404): fewer than 192 logical lanterns, or a link below 16 lanes at 224 Gb/s. -/
def degradedNow (s : State) : Bool :=
  decide ((s.lanterns.filter (fun x => x.phys.isSome)).length < 192) ||
  s.router.ports.any (fun p => p.up && (decide (p.lanes < 16) || decide (p.rate < 224)))

/-- TIME_SYNC (R404): the module has a time parent, or is the time root. -/
def timeSync (s : State) : Bool := s.time.parent.isSome || (decide (s.time.root = selfNode s) && decide (s.time.dist = 0))

/-- RUN, COMMITTED and DAYMARK of a mooring: as it stands here, or as its anchor has told them. -/
def slotState (s : State) (f id : Nat) : Nat × Nat × Nat :=
  match mooringAt s id with
  | some m => (slotRunCode m.run, m.committed.getD 0, m.daymark)
  | none => (((funcAt s f).shown.find? (fun q => q.1 == id)).map (·.2)).getD (0, 0, 0)

/-- Word k of mooring slot i of a function (R405). -/
def slotWord (s : State) (f i k : Nat) : Nat :=
  match (funcAt s f).slots.getD i none with
  | none => if k = 0 then 0xFFFF else 0
  | some id =>
    let x := slotState s f id
    match k with
    | 0 => id + 2 ^ 16 * x.1
    | 1 => x.2.1
    | 2 => x.2.2
    | _ => 0

/-- A word of the telemetry subset (R404, R405). -/
def telemetryWord (s : State) (f o : Nat) : Nat :=
  match o with
  | 0x00 => nowNs s % 2 ^ 64
  | 0x08 => s.boot.state + 4 * b2n (degradedNow s) + 8 * b2n (timeSync s) + 16 * s.keeper.split + 2 ^ 24 * selfNode s
  | 0x10 => s.boot.fwVersion + 2 ^ 32 * s.boot.fwSlot
  | 0x18 => s.boot.heartbeat + 2 ^ 32 * s.boot.restarts
  | _ => slotWord s f ((o - 0x20) / 32) ((o - 0x20) % 32 / 8)

/-- A word of the module status block (R406). -/
def statusWord (s : State) (o : Nat) : Nat :=
  match o with
  | 0x00 => s.boot.state + (List.range 4).foldl (fun n t => n + 2 ^ (2 + t) * b2n (s.boot.towers.getD t false)) 0 +
      64 * b2n s.boot.lpddr + 128 * b2n s.boot.links + 256 * s.boot.stage +
      2 ^ 32 * (if s.power.powerGood then min ((nowNs s - s.boot.pgTime).toNat / 1000000) (2 ^ 32 - 1) else 0)
  | 0x08 => s.boot.fail
  | 0x10 => b2n s.keeper.debug + 2 * b2n (s.moorings.any (fun m => decide (1 ≤ m.ownerFunc) && decide (m.ownerFunc ≤ 31))) +
      2 ^ 32 * min (sumNat s.keeper.debugWrites) (2 ^ 32 - 1)
  | _ => 0

/-- Byte a of a mailbox (R398). -/
def mailboxByte (x : Mailbox) (a : Nat) : Byte :=
  if a < 0xFF8 then byteAt x.reqBody a
  else if a < 0x1000 then (natLE 8 x.reqSeal).getD (a - 0xFF8) 0
  else if a < 0x1FF8 then byteAt x.respBody (a - 0x1000)
  else (natLE 8 (x.respSeq + 2 ^ 32 * x.respLen)).getD (a - 0x1FF8) 0

/-! ### Accesses -/

/-- The bytes of n bytes from offset o of a block that is given by its words. -/
def wordBytes (w : Nat → Nat) (o n : Nat) : List Byte :=
  (List.range n).map (fun i => (natLE 8 (w ((o + i) / 8 * 8))).getD ((o + i) % 8) 0)

/-- Is a read in the function layout outside the mailboxes performed (R394)? -/
def readShapeOk (off n : Nat) : Bool :=
  ((decide (n = 4) || decide (n = 8)) && decide (off % n = 0)) ||
  (decide (n = 32) && decide (0xA020 ≤ off) && decide (off < 0xA120) && decide (off % 32 = 0))

/-- What the function layout of function f returns, view aside (R393, R396). -/
def layoutRead (s : State) (f off n : Nat) : List Byte :=
  if off < 0x8000 then
    let x := (funcAt s f).mbox.getD (off / 0x2000) Mailbox.reset
    (List.range n).map (fun i => mailboxByte x (off % 0x2000 + i))
  else if off < 0x8400 then wordBytes (queueWord (queueAt s f ((off - 0x8000) / 0x40))) ((off - 0x8000) % 0x40) n
  else if 0x9000 ≤ off ∧ off < 0x9020 then wordBytes (funcWord s f) (off - 0x9000) n
  else if 0xA000 ≤ off ∧ off < 0xA120 then wordBytes (telemetryWord s f) (off - 0xA000) n
  else if 0xB000 ≤ off ∧ off < 0xB020 ∧ f = 0 then wordBytes (statusWord s) (off - 0xB000) n
  else if 0xC000 ≤ off ∧ off < 0xC400 ∧ f < 32 then bytesAt (funcAt s f).msixTable (off - 0xC000) n
  else if 0xD000 ≤ off ∧ off < 0xD008 ∧ f < 32 then wordBytes (fun _ => (funcAt s f).pba.toNat) (off - 0xD000) n
  else List.replicate n 0

/-- The shadow of a VF in PF BAR0 (R397): its queue registers, function block and telemetry subset. -/
def shadowRead (s : State) (off n : Nat) : List Byte :=
  let v := (off - 0x200000) / 0x10000 + 1
  let o := off % 0x10000
  if (funcAt s v).present ∧ 0x8000 ≤ o ∧ o < 0xB000 then layoutRead s v o n else List.replicate n 0

/-- A read of n bytes by a function at an offset of its BAR (R4, R5, R393 to R397): the bytes, and the state with
the view access counted where the register tables do not list the access. -/
def readReg (s : State) (f off n : Nat) : List Byte × State :=
  let zero := List.replicate n (0 : Byte)
  if !barReaches s f then (zero, s)
  else if 0x10000 ≤ off then
    if 32 ≤ f then (zero, shoreFault s (f - 32) (shoreBlock + off))
    else if f = 0 ∧ 0x200000 ≤ off ∧ off < 0x3F0000 then
      if readShapeOk (off % 0x10000) n then (shadowRead s off n, s) else (zero, countView s 0)
    else (zero, s)
  else if off < 0x8000 then (layoutRead s f off n, s)
  else if !inRegisterBlock off n then (zero, s)
  else if !readShapeOk off n then (zero, countView s f)
  else if 0xB000 ≤ off ∧ off < 0xB020 ∧ f ≠ 0 then (zero, countView s f)
  else (layoutRead s f off n, s)

end Sys2Proof.Machine
end

