-- ==== Sys2Proof/Laws/InvRegRead.lean ====
section
/-! SUPPORT. Laws/InvRegRead.lean: the operations of Machine/RegRead.lean keep the invariant State.Inv. -/

namespace Sys2Proof.Machine

theorem inv_readReg {s : State} {f : Nat} {off : Nat} {n : Nat}
    (ok_s : s.Inv) : (readReg s f off n).2.Inv := by
  unfold readReg
  repeat' with_reducible first | assumption | apply inv_shoreFault | apply inv_countView | intro _ | split | dsimp only

end Sys2Proof.Machine
end

