-- ==== Sys2Proof/Laws/InvTrust.lean ====
section
/-! SUPPORT. Laws/InvTrust.lean: the operations of Machine/Trust.lean keep the invariant State.Inv. -/

namespace Sys2Proof.Machine

theorem inv_execAttest {m : Mbox} {nonce : BitVec 256} {s : State}
    (ok_s : s.Inv) : OutcomeInv (execAttest m nonce s) := by
  unfold execAttest
  repeat' with_reducible first | assumption | apply outcomeInv_next | apply outcomeInv_fault | apply inv_runCommand | apply inv_refuse | apply inv_answer | intro _ | split | dsimp only

theorem inv_doeAnswer {s : State} {bs : List Byte}
    (ok_s : s.Inv) : (doeAnswer s bs).Inv := by
  unfold doeAnswer
  repeat' with_reducible first | assumption | rfl | exact id | apply lanternsOk_map | apply lanternsOk_zipIdx_map | apply funcsOk_map | apply funcsOk_zipIdx_map | intro _ | split | dsimp only | apply inv_struct | rfl | exact List.length_map _ | exact List.length_modify .. | exact (List.length_map _).trans List.length_zipIdx

theorem inv_drawNonce {s : State}
    (ok_s : s.Inv) : (drawNonce s).2.Inv := by
  unfold drawNonce
  repeat' with_reducible first | assumption | apply inv_drawFree | (refine inv_of_snd ?_ (by assumption)) | intro _ | split | apply inv_foldl | apply inv_foldl_fst | apply inv_foldl_snd | dsimp only

theorem inv_execGetVersion {s : State}
    (ok_s : s.Inv) : OutcomeInv (execGetVersion s) := by
  unfold execGetVersion
  repeat' with_reducible first | assumption | apply outcomeInv_next | apply outcomeInv_fault | apply inv_doeAnswer | intro _ | split | dsimp only

theorem inv_execGetCapabilities {s : State}
    (ok_s : s.Inv) : OutcomeInv (execGetCapabilities s) := by
  unfold execGetCapabilities
  repeat' with_reducible first | assumption | apply outcomeInv_next | apply outcomeInv_fault | apply inv_doeAnswer | intro _ | split | dsimp only

theorem inv_execNegotiateAlgorithms {sm2 : Bool} {sm3 : Bool} {s : State}
    (ok_s : s.Inv) : OutcomeInv (execNegotiateAlgorithms sm2 sm3 s) := by
  unfold execNegotiateAlgorithms
  repeat' with_reducible first | assumption | apply outcomeInv_next | apply outcomeInv_fault | apply inv_doeAnswer | apply inv_modBoot | intro _ | split | dsimp only

theorem inv_execGetDigests {s : State}
    (ok_s : s.Inv) : OutcomeInv (execGetDigests s) := by
  unfold execGetDigests
  repeat' with_reducible first | assumption | apply outcomeInv_next | apply outcomeInv_fault | apply inv_doeAnswer | intro _ | split | dsimp only

theorem inv_execGetCertificate {slot : Nat} {offset : Nat} {len : Nat} {s : State}
    (ok_s : s.Inv) : OutcomeInv (execGetCertificate slot offset len s) := by
  unfold execGetCertificate
  repeat' with_reducible first | assumption | apply outcomeInv_next | apply outcomeInv_fault | apply inv_doeAnswer | intro _ | split | dsimp only

theorem inv_execChallenge {slot : Nat} {nonce : BitVec 256} {s : State}
    (ok_s : s.Inv) : OutcomeInv (execChallenge slot nonce s) := by
  unfold execChallenge
  repeat' with_reducible first | assumption | apply outcomeInv_next | apply outcomeInv_fault | apply inv_doeAnswer | apply inv_drawNonce | (refine inv_of_snd ?_ (by assumption)) | intro _ | split | dsimp only

theorem inv_execGetMeasurements {op : Nat} {signed : Bool} {nonce : BitVec 256} {s : State}
    (ok_s : s.Inv) : OutcomeInv (execGetMeasurements op signed nonce s) := by
  unfold execGetMeasurements
  repeat' with_reducible first | assumption | apply outcomeInv_next | apply outcomeInv_fault | apply inv_doeAnswer | apply inv_drawNonce | (refine inv_of_snd ?_ (by assumption)) | intro _ | split | dsimp only

end Sys2Proof.Machine
end

