-- ==== Sys2Proof/Laws/Lanes.lean ====
section
/-! SUPPORT. Laws/Lanes.lean: what writing a result, a mask or a record pair does to a vector engine, and what an
instruction that issues changes. -/

namespace Sys2Proof.Machine

variable {s : State} {v : VEngine} {l : Nat} {f : VFields}

theorem regAt_modReg (v : VEngine) (n k : Nat) (g : VReg → VReg) :
    regAt (modReg v n g) k = if n = k ∧ k < v.regs.length then g (regAt v k) else regAt v k := by
  unfold regAt modReg
  simp only [List.getD_eq_getElem?_getD, List.getElem?_modify]
  by_cases h : n = k
  · subst h
    by_cases hk : n < v.regs.length
    · simp [hk]
    · simp [hk]
  · simp [h]

theorem getD_zipIdx_map {α : Type} (xs : List α) (g : α × Nat → α) (c : Nat) (d : α) (hc : c < xs.length) :
    (xs.zipIdx.map g).getD c d = g (xs.getD c d, c) := by
  simp [List.getD_eq_getElem?_getD, List.getElem?_zipIdx, hc]

theorem mem_liveLanes (w : BitVec 128) (q c : Nat) : c ∈ liveLanes w q ↔ c / 32 = q ∧ w.getLsbD c = true := by
  unfold liveLanes groupLanes
  simp only [List.mem_filter, List.mem_map, List.mem_range]
  constructor
  · rintro ⟨⟨i, hi, rfl⟩, hw⟩
    exact ⟨by omega, hw⟩
  · rintro ⟨rfl, hw⟩
    exact ⟨⟨c % 32, by omega, by omega⟩, hw⟩

theorem fits64_iff (n : Int) : fits64 n = true ↔ -2 ^ 63 ≤ n ∧ n < 2 ^ 63 := by
  have e : ((2 ^ 63 : Nat) : Int) = 2 ^ 63 := rfl
  simp only [fits64, Bool.and_eq_true, decide_eq_true_eq, e]

theorem gOk_iff (g : Int) : gOk g = true ↔ -32768 ≤ g ∧ g ≤ 32767 := by
  simp only [gOk, Bool.and_eq_true, decide_eq_true_eq]

theorem takes_resLane (r : Res) (g : Int) :
    Takes (if gOk g then resLane r else (⟨0, true⟩, true)).1 r g := by
  constructor
  · rintro n rfl h1 h2 h3 h4
    have hf : fits64 n = true := (fits64_iff n).2 ⟨h1, h2⟩
    have hg : gOk g = true := (gOk_iff g).2 ⟨h3, h4⟩
    simp [hg, resLane, hf]
  · intro h
    split
    · next hg =>
      have hg := (gOk_iff g).1 hg
      cases r with
      | val n =>
        have hf : ¬ fits64 n = true := by
          rw [fits64_iff]
          have := h n rfl
          omega
        simp [resLane, hf]
      | sat => rfl
      | raise => rfl
    · rfl

theorem raises_resLane (r : Res) (g : Int) :
    (if gOk g then resLane r else (⟨0, true⟩, true)).2 = true ↔ Raises r g := by
  unfold Raises
  split
  · next hg =>
    have hg := (gOk_iff g).1 hg
    cases r with
    | val n =>
      by_cases hf : fits64 n = true
      · simp only [resLane, hf, if_true, Bool.false_eq_true, false_iff]
        have hf := (fits64_iff n).1 hf
        rintro (h | h | h | ⟨k, hk, h⟩)
        · cases h
        · omega
        · omega
        · cases hk; omega
      · have hb : (resLane (.val n)).2 = true := by simp [resLane, hf]
        simp only [hb, true_iff]
        rw [fits64_iff] at hf
        exact .inr (.inr (.inr ⟨n, rfl, by omega⟩))
    | sat =>
      simp only [resLane, Bool.false_eq_true, false_iff]
      rintro (h | h | h | ⟨k, hk, h⟩)
      · cases h
      · omega
      · omega
      · cases hk
    | raise => simp [resLane]
  · next hg =>
    rw [gOk_iff] at hg
    simp only [true_iff]
    omega

/-- What commit does (R122, R124). -/
theorem wrote_commit (ok : v.Ok) {vd : Nat} (hv : vd < 64) (w : BitVec 128) (h : Nat → Res) (g : Nat → Int) :
    Wrote v (commit v vd w h g) vd w h g := by
  have hlen : vd < v.regs.length := by rw [ok.1.1]; exact hv
  have hr : (regAt v vd).lanes.length = 128 ∧ (regAt v vd).g.length = 4 := by
    have : regAt v vd ∈ v.regs := by
      unfold regAt
      rw [List.getD_eq_getElem?_getD, List.getElem?_eq_getElem hlen]
      exact List.getElem_mem hlen
    exact ok.1.2 _ this
  have hreg : ∀ k, regAt (commit v vd w h g) k = _ := fun k => regAt_modReg v vd k _
  refine ⟨?_, ?_, ?_, ?_, ?_, ?_⟩
  · intro n hn
    rw [hreg, if_neg (by omega)]
  · intro c hc hw
    rw [hreg, if_pos ⟨rfl, hlen⟩]
    unfold laneAt
    dsimp only
    rw [getD_zipIdx_map _ _ _ _ (by omega)]
    simp [hw]
  · intro c hc hw
    rw [hreg, if_pos ⟨rfl, hlen⟩]
    unfold laneAt
    dsimp only
    rw [getD_zipIdx_map _ _ _ _ (by omega)]
    dsimp only
    rw [if_pos hw]
    exact takes_resLane _ _
  · intro c hc hw h1 h2
    rw [hreg, if_pos ⟨rfl, hlen⟩]
    unfold gAt
    dsimp only
    rw [getD_zipIdx_map _ _ _ _ (by omega)]
    have hne : (liveLanes w (c / 32)).isEmpty = false := by
      rw [List.isEmpty_eq_false_iff_exists_mem]
      exact ⟨c, (mem_liveLanes _ _ _).2 ⟨rfl, hw⟩⟩
    simp [hne, gOk, h1, h2]
  · intro q hq hh
    rw [hreg, if_pos ⟨rfl, hlen⟩]
    unfold gAt
    dsimp only
    rw [getD_zipIdx_map _ _ _ _ (by omega)]
    dsimp only
    rw [if_pos]
    rcases hh with hh | hh
    · have : liveLanes w q = [] := by
        rw [List.eq_nil_iff_forall_not_mem]
        intro c hc
        obtain ⟨h1, h2⟩ := (mem_liveLanes _ _ _).1 hc
        rw [hh c (by omega) h1] at h2
        cases h2
      simp [this]
    · have : gOk (g q) = false := by simp only [gOk, Bool.and_eq_false_iff, decide_eq_false_iff_not]; omega
      simp [this]
  · refine ⟨_, ?_, rfl⟩
    simp only [List.any_eq_true, List.mem_filter, List.mem_range]
    constructor
    · rintro ⟨c, ⟨h1, h2⟩, h3⟩
      exact ⟨c, h1, h2, (raises_resLane _ _).1 h3⟩
    · rintro ⟨c, h1, h2, h3⟩
      exact ⟨c, ⟨h1, h2⟩, (raises_resLane _ _).2 h3⟩

theorem foldl_setBits (w : BitVec 128) (p : Nat → Bool) (xs : List Nat) (hx : ∀ x ∈ xs, x < 128) (hn : xs.Nodup) :
    ∀ (m : BitVec 128) (c : Nat), c < 128 →
    (xs.foldl (fun m c => if w.getLsbD c then (if p c then m ||| (1#128 <<< c) else m &&& ~~~(1#128 <<< c)) else m) m).getLsbD c =
      if c ∈ xs ∧ w.getLsbD c = true then p c else m.getLsbD c := by
  induction xs with
  | nil => intro m c _; simp
  | cons x xs ih =>
    intro m c hc
    have hx0 : x < 128 := hx x (List.mem_cons_self ..)
    rw [List.foldl_cons, ih (fun y hy => hx y (List.mem_cons_of_mem _ hy)) (List.nodup_cons.1 hn).2 _ _ hc]
    by_cases hcx : c = x
    · subst hcx
      have hnot : ¬ c ∈ xs := (List.nodup_cons.1 hn).1
      have e : (1#128 <<< c).getLsbD c = true := by
        simp only [BitVec.getLsbD_shiftLeft, BitVec.getLsbD_one]
        simp [hc]
      cases hw : w.getLsbD c <;> cases hp : p c <;>
        simp only [hnot, hp, e, hc, BitVec.getLsbD_or, BitVec.getLsbD_and, BitVec.getLsbD_not, List.mem_cons, true_or, false_and,
          and_false, and_true, if_true, if_false, Bool.false_eq_true, Bool.or_true, Bool.not_true, Bool.and_false, decide_true]
    · have hd : ∀ b : Bool, ((1#128 <<< x).getLsbD c) = false := by
        intro _
        simp only [BitVec.getLsbD_shiftLeft, BitVec.getLsbD_one]
        by_cases h : c < x
        · simp [h]
        · simp
          omega
      have hd := hd true
      simp only [List.mem_cons, hcx, false_or]
      split
      · rfl
      · cases hw : w.getLsbD x <;> cases hp : p x <;>
          simp only [hd, hc, BitVec.getLsbD_or, BitVec.getLsbD_and, BitVec.getLsbD_not, if_true, if_false, Bool.false_eq_true,
            Bool.or_false, Bool.not_false, Bool.and_true, decide_true, Bool.true_and]

/-- What commitMask does (R122, R117). -/
theorem wroteMask_commitMask (ok : v.Ok) {n : Nat} (hn : n < 8) (w : BitVec 128) (p : Nat → Bool) {q : Nat → Prop}
    (hq : ∀ c, c < 128 → w.getLsbD c = true → (p c = true ↔ q c)) : WroteMask v (commitMask v n w p) n w q := by
  by_cases h0 : n = 0
  · subst h0
    exact ⟨rfl, fun _ _ => rfl, fun h => absurd rfl h⟩
  · have hu : commitMask v n w p = { v with masks := (commitMask v n w p).masks } := by
      unfold commitMask; rw [if_neg h0]
    have hm : ∀ k, maskAt (commitMask v n w p) k = if n = k then
        (List.range 128).foldl (fun m c => if w.getLsbD c then (if p c then m ||| (1#128 <<< c) else m &&& ~~~(1#128 <<< c)) else m) (maskAt v k)
        else maskAt v k := by
      intro k
      unfold commitMask maskAt
      rw [if_neg h0]
      simp only [List.getD_eq_getElem?_getD, List.getElem?_modify]
      by_cases hk : n = k
      · subst hk
        have : n < v.masks.length := by rw [ok.2]; exact hn
        simp [this]
      · simp [hk]
    refine ⟨hu, ?_, ?_⟩
    · rintro k hk
      rw [hm, if_neg]
      omega
    · intro _ c hc
      rw [hm, if_pos rfl, foldl_setBits w p _ (by simp) List.nodup_range _ _ hc]
      simp only [List.mem_range, hc, true_and]
      constructor
      · intro hw
        rw [if_pos hw]
        exact hq c hc hw
      · intro hw
        rw [if_neg (by simp [hw])]

/-- What an issued lane instruction does: its engine operation, and the count. -/
theorem issues_engine (hl : l < s.lanterns.length) {c : Instr} {g : VEngine → VEngine} {P : VEngine → Prop}
    (h : exec c s = .next (retireIns (modVec s l g) l)) (hP : P (g (lanternAt s l).vec)) : Issues c s l P := by
  refine ⟨_, _, h, hP, ?_, ?_, ⟨rfl, rfl, rfl, rfl, rfl, rfl, rfl, rfl, rfl, rfl, rfl, rfl, rfl, rfl, rfl⟩, rfl⟩
  · simp [retireIns, bumpBeacon, modVec, lanternAt, modLantern, List.getD_eq_getElem?_getD, List.getElem?_modify, hl]
  · intro k hk
    have hk' : ¬ l = k := fun e => hk e.symm
    simp [retireIns, bumpBeacon, modVec, lanternAt, modLantern, List.getD_eq_getElem?_getD, List.getElem?_modify, hk']

end Sys2Proof.Machine
end

