-- ==== Sys2Proof/Laws/Words.lean ====
section
/-! SUPPORT. Laws/Words.lean: little-endian numbers and results packed in 64-bit words. -/

namespace Sys2Proof.Machine

@[simp] theorem natLE_length (n v : Nat) : (natLE n v).length = n := by
  induction n generalizing v with
  | zero => rfl
  | succ n ih => simp [natLE, ih]

@[simp] theorem words_length (l : List Nat) : (words l).length = 8 * l.length := by
  unfold words
  induction l with
  | nil => rfl
  | cons a l ih => simp [natLE] at ih ⊢; omega

theorem leNat_natLE (n v : Nat) : leNat (natLE n v) = v % 256 ^ n := by
  induction n generalizing v with
  | zero => simp [natLE, leNat, Nat.mod_one]
  | succ n ih =>
    have h1 : leNat (natLE (n + 1) v) = (BitVec.ofNat 8 v).toNat + 256 * leNat (natLE n (v / 256)) := rfl
    rw [h1, ih, BitVec.toNat_ofNat, show 256 ^ (n + 1) = 256 * 256 ^ n by ring, Nat.mod_mul]

theorem words_cons (a : Nat) (l : List Nat) : words (a :: l) = natLE 8 a ++ words l := rfl

theorem leAt_words (l : List Nat) (i : Nat) (h : i < l.length) : leAt (words l) (8 * i) 8 = l[i] % 2 ^ 64 := by
  induction l generalizing i with
  | nil => simp at h
  | cons a l ih =>
    rw [words_cons]
    unfold leAt at ih ⊢
    cases i with
    | zero =>
      have : (natLE 8 a).length = 8 := rfl
      rw [Nat.mul_zero, List.drop_zero, List.take_left' this, leNat_natLE]; rfl
    | succ i =>
      have : (natLE 8 a).length = 8 := rfl
      rw [show 8 * (i + 1) = 8 + 8 * i by omega, ← List.drop_drop, List.drop_left' this, ih i (by simpa using h)]; rfl

end Sys2Proof.Machine
end

