-- ==== Sys2Proof/Tests/Slice0.lean ====
section
/-! SUPPORT. Tests/Slice0.lean: the model's own tests: a term that each check of WellFormed refuses; small tests whose expected
values are worked out by hand from the rules named; and, for every statement with hypotheses, a concrete state and operands that
meet them. -/

namespace Sys2Proof.Machine

/-! ### Helpers -/

theorem reset_inv : State.reset.Inv :=
  ⟨⟨lanternsOk_reset, funcsOk_reset, rfl, rfl, rfl, rfl⟩, rfl⟩

def box0 : Mbox := ⟨0, 0⟩

/-- A request of an opcode and a mooring with tag 7, in a mailbox of the PF in full service. -/
def reqOf (op id : Nat) : Request := ⟨op, false, 0, 0, 7, id, 0, 7 * 2 ^ 61, 4096, 1, true, 0, []⟩

/-- A state in full service whose PF mailbox holds a request, with completion queue 0 bound in host memory. -/
def asking (r : Request) (s : State) : State :=
  modQueue (modMbox (modBoot s (fun b => { b with
    state := 2
    keeperUp := true })) box0 (fun x => { x with req := some r })) 0 0 (fun q => { q with
      bound := true
      base := 7 * 2 ^ 61
      log2n := 6
      vector := 1
      modCount := 1 })

theorem asking_inv (r : Request) {s : State} (h : s.Inv) : (asking r s).Inv := inv_modQueue (inv_modMbox (inv_modBoot h))

theorem asked {s : State} {m : Mbox} {op : Nat} {r : Request}
    (h : (mboxAt s m).req = some r ∧ r.opcode = op ∧ keeperExamines s = true ∧ firstInLine s r = true ∧ commandCheck s m.func r = none) : Asked s m op r := h

/-- The descriptor of mooring 5, of a kind, on one module, for bundle 1; and the mooring. -/
def desc5 (kind : Nat) : MDesc :=
  ⟨5, kind, 1, 0, 0, 2, 1000, 1, 5, List.replicate 4 ⟨0, 1, 0, false⟩, List.replicate 16 0xFFFFFFFF, true⟩

def bundle1 : Bundle := ⟨1, 0, 1, 64, 0, [], ⟨0, 1000, [], [], [], [], [], [], [], [], [], [], [], [], 0⟩⟩

def moorOf (kind : Nat) : Mooring := newMooring State.reset (desc5 kind) bundle1 (0, 0) 1 [] ⟨[], [], [], [], []⟩ 0

/-- A state with a mooring and its bundle. -/
def moored (m : Mooring) (s : State) : State :=
  { s with
    moorings := [m]
    keeper := { s.keeper with bundles := [bundle1] } }

theorem moored_inv (m : Mooring) {s : State} (h : s.Inv) : (moored m s).Inv := h

/-- Lantern 0 there, with changes. -/
def lit (f : Lantern → Lantern) (s : State) : State := modLantern s 0 (fun x => f { x with phys := some 0 })

theorem lit_inv {f : Lantern → Lantern} (hf : ∀ x : Lantern, x.Ok → (f x).Ok) {s : State} (h : s.Inv) : (lit f s).Inv :=
  inv_modLantern (fun x hx => hf { x with phys := some 0 } hx) h

/-! ### Witnesses: requests and settings -/

theorem witness_RefusedRequestIsOnlyAnswered :
    let s := asking (reqOf 0x0063 0) (modMbox State.reset ⟨1, 0⟩ (fun x => { x with req := some (reqOf 0x0063 0) }))
    mailboxOf (.setSplit ⟨1, 0⟩ 2) = some (⟨1, 0⟩, 0x0063) ∧ Mbox.ok ⟨1, 0⟩ = true ∧ s.Inv ∧
    (mboxAt s ⟨1, 0⟩).req = some (reqOf 0x0063 0) ∧ keeperExamines s = true ∧
    firstInLine s (reqOf 0x0063 0) = true ∧ commandCheck s 1 (reqOf 0x0063 0) = some 0x13 :=
  ⟨rfl, rfl, asking_inv _ (inv_modMbox reset_inv), by decide, by decide, by decide, by decide⟩

theorem witness_NoRequestNoEffect :
    mailboxOf (.nop box0) = some (box0, 1) ∧ (mboxAt State.reset box0).req = none ∧
    (mboxAt (asking (reqOf 2 0) State.reset) box0).req = some (reqOf 2 0) ∧ (reqOf 2 0).opcode ≠ 1 ∧
    keeperExamines State.reset = false ∧
    (let later : Request := { reqOf 0x25 5 with serial := 1 }
     let s := modMbox (asking (reqOf 0x25 5) State.reset) ⟨0, 1⟩ (fun x => { x with req := some later })
     (mboxAt s ⟨0, 1⟩).req = some later ∧ firstInLine s later = false) := by decide

theorem witness_CommandChecks :
    let s := asking (reqOf 1 0) State.reset
    cmdInfo 0x9999 = none ∧ (cmdInfo 0x0011).map (·.early) = some false ∧ (modBoot s (fun b => { b with state := 1 })).boot.state = 1 ∧
    s.boot.state = 2 ∧ (cmdInfo 0x0063).map (·.cls) = some .O ∧ (cmdInfo 0x0025).map (·.cls) = some .T ∧ mooringAt s 0 = none ∧
    (cmdInfo 0x0010).map (fun i => (i.cls, i.long)) = some (.A, true) ∧ completionBound s 0 1 = false ∧
    (cmdInfo 0x0020).map (fun i => (i.cls, i.long)) = some (.A, true) ∧ oversize s = false ∧ (reqOf 0x20 0).ok = true ∧
    (let big := modBoot s (fun b => { b with sizes := [4, 32, 32, 17] })
     oversize big = true ∧ big.boot.state = 2) := by decide

theorem witness_NopAndIdentify :
    (asking (reqOf 1 0) State.reset).Inv ∧ Asked (asking (reqOf 1 0) State.reset) box0 1 (reqOf 1 0) ∧
    Asked (asking (reqOf 2 0) State.reset) box0 2 (reqOf 2 0) :=
  ⟨asking_inv _ reset_inv, asked (by decide), asked (by decide)⟩

/-- A host window of the PF at index 0, 2^40 bytes. -/
def windowed (s : State) : State := modKeeper (modFunc s 0 (fun x => { x with bme := true })) (fun k => { k with hwins := [⟨0, 0, 0, 2 ^ 40, true, true⟩] })

theorem windowed_inv {s : State} (h : s.Inv) : (windowed s).Inv := inv_modKeeper (inv_modFunc (fun _ h => h) h)

/-- A command of tag 9 outstanding in completion queue 0 of the PF for a mooring. -/
def long9 (cq id : Nat) (k : OpKind) : LongOp := ⟨0, 9, 0x0025, cq, id, 0, 0, 0, k, 0, 0, none, none, none⟩

def withOp (o : LongOp) (s : State) : State := modKeeper s (fun k => { k with ops := [o] })

theorem witness_QueueBinding :
    let s := windowed (asking (reqOf 3 0) State.reset)
    let u := asking (reqOf 4 0) State.reset
    s.Inv ∧ u.Inv ∧ (withOp (long9 15 0 .close) u).Inv ∧ Asked s box0 3 (reqOf 3 0) ∧ Asked u box0 4 (reqOf 4 0) ∧
    Asked (withOp (long9 15 0 .close) u) box0 4 (reqOf 4 0) ∧
    (7 * 2 ^ 61 + 2 ^ 21) % (32 * 2 ^ 16) = 0 ∧ ringPlaceOk s 0 (7 * 2 ^ 61 + 2 ^ 21) (32 * 2 ^ 16) = true ∧
    ringPlaceOk s 0 (7 * 2 ^ 61 + 2 ^ 40) (32 * 2 ^ 6) = false ∧
    queueNamed u 0 15 = false ∧ queueNamed (withOp (long9 15 0 .close) u) 0 15 = true :=
  ⟨windowed_inv (asking_inv _ reset_inv), asking_inv _ reset_inv, asking_inv _ reset_inv, asked (by decide), asked (by decide), asked (by decide),
    by decide, by decide, by decide, by decide, by decide⟩

/-- A virtual function's mailbox with a request, in full service. -/
def box1 : Mbox := ⟨1, 3⟩

def askingVf (r : Request) (s : State) : State := modMbox (asking r s) box1 (fun x => { x with req := some r })

theorem askingVf_inv (r : Request) {s : State} (h : s.Inv) : (askingVf r s).Inv := inv_modMbox (asking_inv r h)

def eightWindows (s : State) : State :=
  modKeeper s (fun k => { k with hwins := (List.range 8).map (fun i => ⟨i, 1, 0, 4096, true, true⟩) })

/-- A request in a mailbox, no queue bound. -/
def posting (m : Mbox) (r : Request) (s : State) : State := modMbox (modBoot s (fun b => { b with
    state := 2
    keeperUp := true })) m (fun x => { x with req := some r })

theorem posting_inv (m : Mbox) (r : Request) {s : State} (h : s.Inv) : (posting m r s).Inv := inv_modMbox (inv_modBoot h)

theorem witness_HostWindows :
    let s := asking (reqOf 5 0) State.reset
    let v := eightWindows (askingVf (reqOf 5 0) State.reset)
    let u := windowed (posting box1 (reqOf 6 0) (posting box0 (reqOf 6 0) State.reset))
    Asked s box0 5 (reqOf 5 0) ∧ freeWindow s = some 0 ∧ (2 ^ 48) % 4096 = 0 ∧
    Asked v box1 5 (reqOf 5 0) ∧ 8 ≤ windowCount v 1 ∧ windowCount s 1 < 8 ∧
    Asked u box0 6 (reqOf 6 0) ∧ hwinAt u 0 = some ⟨0, 0, 0, 2 ^ 40, true, true⟩ ∧ windowBusy u 0 = false ∧
    (let w := withOp (long9 0 5 (.copy 0 0 (7 * 2 ^ 61))) u; Asked w box0 6 (reqOf 6 0) ∧ windowBusy w 0 = true) ∧
    Asked u box1 6 (reqOf 6 0) ∧ s.Inv ∧ v.Inv ∧ u.Inv :=
  ⟨asked (by decide), by decide, by decide, asked (by decide), by decide, by decide, asked (by decide), by decide, by decide,
    ⟨asked (by decide), by decide⟩, asked (by decide), asking_inv _ reset_inv, askingVf_inv _ reset_inv, windowed_inv (posting_inv _ _ (posting_inv _ _ reset_inv))⟩

def noItems : PolicyItems := ⟨none, none, none, none, none, none, none, none, none, none, none⟩

theorem witness_FaultPolicyItems :
    let s := moored (moorOf 0) (asking (reqOf 0x62 0) State.reset)
    Asked s box0 0x62 (reqOf 0x62 0) ∧ s.Inv ∧ policyOk noItems = true ∧ policyOk { noItems with eccBurst := some 1024 } = true ∧
    policyOk { noItems with eccBurst := some 1025 } = false ∧ noItems.beaconUs = none ∧ mooringAt s 5 = some (moorOf 0) :=
  ⟨asked (by decide), asking_inv _ reset_inv, by decide, by decide, by decide, rfl, rfl⟩

theorem witness_SplitAndDebugMode :
    let s (op : Nat) := asking (reqOf op 0) State.reset
    let m (op : Nat) := moored { moorOf 0 with ownerFunc := 1 } (s op)
    Asked (s 0x63) box0 0x63 (reqOf 0x63 0) ∧ (s 0x63).moorings = [] ∧ Asked (m 0x63) box0 0x63 (reqOf 0x63 0) ∧ (m 0x63).moorings ≠ [] ∧
    Asked (s 0xA0) box0 0xA0 (reqOf 0xA0 0) ∧ (∀ x ∈ (s 0xA0).moorings, x.ownerFunc = 0 ∨ 32 ≤ x.ownerFunc) ∧
    Asked (m 0xA0) box0 0xA0 (reqOf 0xA0 0) ∧ { moorOf 0 with ownerFunc := 1 } ∈ (m 0xA0).moorings ∧
    (s 0x63).Inv ∧ (m 0x63).Inv ∧ (s 0xA0).Inv ∧ (m 0xA0).Inv :=
  ⟨asked (by decide), rfl, asked (by decide), List.cons_ne_nil _ _, asked (by decide), by decide, asked (by decide), List.mem_singleton.mpr rfl,
    asking_inv _ reset_inv, asking_inv _ reset_inv, asking_inv _ reset_inv, asking_inv _ reset_inv⟩

theorem witness_PowerLimits :
    let r : Request := { reqOf 0x80 0 with
      args := natLE 2 1500 ++ natLE 2 2000 ++ natLE 1 16 ++ natLE 1 3 ++ natLE 2 0 ++ natLE 2 200 ++ natLE 2 900 ++ natLE 2 200 ++ natLE 2 200 ++ natLE 16 0 }
    let s := asking r State.reset
    let p := modPower State.reset (fun p => { p with inputOn := true })
    Asked s box0 0x80 r ∧ s.Inv ∧ 200 + 900 + 200 + 200 ≤ 1500 ∧ p.power.inputOn = true ∧ p.power.share = [0, 0, 0, 0] ∧ 1500 ≤ p.power.peakCap ∧
    p.power.cap ≤ 1500 := 
  ⟨asked (by decide), asking_inv _ reset_inv, by decide, rfl, rfl, by decide, by decide⟩

theorem witness_ReadingCommands :
    let s (op : Nat) := modKeeper (lit id (asking (reqOf op 0) State.reset)) (fun k => { k with debug := true })
    let v := askingVf (reqOf 0x70 0) State.reset
    Asked (s 0x70) box0 0x70 (reqOf 0x70 0) ∧ 8 * (0 + 1) ≤ (groupBytes (s 0x70) 0 0x07 0).length ∧ Asked v box1 0x70 (reqOf 0x70 0) ∧
    Asked (s 0xA1) box0 0xA1 (reqOf 0xA1 0) ∧ (lanternAt (s 0xA1) 0).phys.isSome = true ∧ 127 + 1 ≤ 128 ∧ 1023 + 1 ≤ 1024 ∧
    Asked (s 0x90) box0 0x90 (reqOf 0x90 0) ∧ (funcAt (s 0x90) 0).attLog = [] ∧ (s 0x70).Inv ∧ v.Inv :=
  ⟨asked (by decide), by decide, asked (by decide), asked (by decide), rfl, by decide, by decide, asked (by decide), rfl,
    lit_inv (fun _ h => h) (asking_inv _ reset_inv), askingVf_inv _ reset_inv⟩

theorem witness_EventLogRead :
    let s := modFlash (windowed (asking (reqOf 0x71 0) State.reset)) (fun x => { x with log := [⟨0, 6, 5, 0, 0, 0, 1, 0, []⟩] })
    Asked s box0 0x71 (reqOf 0x71 0) ∧ 0 < s.flash.log.length ∧ 32 * (0 + 1 - 0) ≤ (reqOf 0x71 0).outlen ∧
    (∃ w, keeperWrite s 0 (reqOf 0x71 0).out (natLE 32 (eventNat 0 ⟨0, 6, 5, 0, 0, 0, 1, 0, []⟩)) = .ok w) ∧ 7 * 2 ^ 61 ≤ (reqOf 0x71 0).out ∧ s.Inv :=
  ⟨asked (by decide), by decide, by decide, ⟨_, by rfl⟩, by decide, inv_modFlash (windowed_inv (asking_inv _ reset_inv))⟩


/-! ### Witnesses: queues, interrupts, resets -/

/-- A queue of the PF with two records written and one read, registers reachable. -/
def consuming (bound : Bool) (staged : Nat) : State :=
  modQueue (modFunc State.reset 0 (fun x => { x with
    bme := true
    mse := true
    present := true })) 0 0 (fun q => { q with
      bound := bound
      prod := 2
      head := 1
      log2n := 6
      vector := 63
      unannounced := 1
      base := 7 * 2 ^ 61
      staged := List.replicate staged 0 })

theorem consuming_inv (b : Bool) (n : Nat) : (consuming b n).Inv := inv_modQueue (inv_modFunc (fun _ h => h) reset_inv)

theorem witness_HeadWrites :
    let s := consuming true 0
    let x := queueAt s 0 0
    let gap (c : Nat) : Nat := (c + 2 ^ 32 - x.head) % 2 ^ 32
    s.Inv ∧ (consuming false 0).Inv ∧ (∀ o ∈ s.keeper.ops, o.func = 0 → o.paused = none) ∧ barReaches s 0 = true ∧ barReaches (consuming false 0) 0 = true ∧ x.bound = true ∧ gap 2 ≤ gap x.prod ∧
    gap x.prod < gap 3 ∧ gap x.prod < gap 0 ∧ (queueAt (consuming false 0) 0 0).bound = false :=
  ⟨consuming_inv _ _, consuming_inv _ _, by decide, by decide⟩

theorem witness_InterruptNotHidden : (consuming true 0).Inv ∧ barReaches (consuming true 0) 0 = true := ⟨consuming_inv _ _, by decide⟩

/-- Mailbox 0 of the PF with the body of a NOP, NOP with a reserved field set, or an unknown opcode. -/
def sealing (body : List Byte) (r : Option Request) : State :=
  modMbox (modBoot (consuming true 0) (fun b => { b with
    state := 2
    keeperUp := true })) box0 (fun x => { x with
      reqBody := setBytes [] 0 body
      req := r })

theorem witness_SealsTaken :
    let s := sealing (natLE 2 1 ++ natLE 2 1) none
    let bad := sealing (natLE 2 1 ++ natLE 2 2) none
    let sw := 1 + (0x0001 ^^^ 0xA5A5) * 2 ^ 48
    (∀ b r, (sealing b r).Inv) ∧ box0.ok = true ∧ barReaches s 0 = true ∧ keeperExamines s = true ∧ barReaches bad 0 = true ∧ keeperExamines bad = true ∧
    barReaches (sealing [] (some (reqOf 1 0))) 0 = true ∧ keeperExamines (sealing [] (some (reqOf 1 0))) = true ∧
    (mboxAt (sealing [] (some (reqOf 1 0))) box0).req.isSome = true ∧
    bits sw 31 0 = ((mboxAt s box0).lastSeq + 1) % 2 ^ 32 ∧ bits (sw + 1) 31 0 ≠ ((mboxAt s box0).lastSeq + 1) % 2 ^ 32 ∧
    (mboxAt s box0).req = none ∧ (requestOf (mboxAt s box0) sw).ok = true ∧ (cmdInfo (requestOf (mboxAt s box0) sw).opcode).isSome = true ∧
    (mboxAt bad box0).req = none ∧ (requestOf (mboxAt bad box0) sw).ok = false ∧ sw < 2 ^ 64 :=
  ⟨fun _ _ => inv_modMbox (inv_modBoot (consuming_inv _ _)), rfl, by decide⟩

theorem witness_ModerationTimer :
    (consuming true 0).Inv ∧ (queueAt (consuming true 0) 0 0).bound = true ∧ 0 < (queueAt (consuming true 0) 0 0).unannounced ∧
    (queueAt (consuming true 0) 0 0).vector < 64 ∧ (queueAt State.reset 43 15).unannounced = 0 :=
  ⟨consuming_inv _ _, by decide⟩

theorem witness_CompletionRecords :
    let full := modQueue (consuming true 0) 0 0 (fun q => { q with head := 2 ^ 32 - 62 })
    let room := windowed (consuming true 0)
    completionBound full 0 0 = true ∧ ringRoom (queueAt full 0 0) = false ∧ completionBound room 0 0 = true ∧ ringRoom (queueAt room 0 0) = true ∧
    (queueAt room 0 0).staged = [] ∧ (queueAt room 0 0).lost = 0 ∧ 7 * 2 ^ 61 ≤ (queueAt room 0 0).base ∧
    (∃ w, keeperWrite room 0 ((queueAt room 0 0).base + 32 * ((queueAt room 0 0).prod % 2 ^ 6)) (natLE 32 (withPhase 7 6 2)) = .ok w) ∧
    full.Inv ∧ room.Inv :=
  ⟨by decide, by decide, by decide, by decide, by decide, by decide, by decide, ⟨_, by rfl⟩, inv_modQueue (consuming_inv _ _),
    windowed_inv (consuming_inv _ _)⟩

theorem witness_AbortsAndDeadlines :
    let s := asking (reqOf 7 0) State.reset
    let v := askingVf (reqOf 7 0) State.reset
    let rep := modFunc s 0 (fun x => { x with reported := [some 9] })
    let rd := withOp (long9 0 5 (.tensorRead 0 64)) s
    let late := withOp { long9 0 5 (.tensorRead 0 64) with deadline := 100 } s
    let fwd := modKeeper s (fun k => { k with forwards := [(box0, 7)] })
    let cp := withOp (long9 0 5 (.copy 15 0 0)) s
    Asked v box1 7 (reqOf 7 0) ∧ Asked rep box0 7 (reqOf 7 0) ∧ opAt rep 0 9 = none ∧ some 9 ∈ (funcAt rep 0).reported ∧
    Asked s box0 7 (reqOf 7 0) ∧ opAt s 0 9 = none ∧ some 9 ∉ (funcAt s 0).reported ∧
    Asked rd box0 7 (reqOf 7 0) ∧ opAt rd 0 9 = some (long9 0 5 (.tensorRead 0 64)) ∧ (long9 0 5 (.tensorRead 0 64)).deadline = 0 ∧
    opAt late 0 9 = some { long9 0 5 (.tensorRead 0 64) with deadline := 100 } ∧
    (cp.Inv ∧ Asked cp box0 7 (reqOf 7 0) ∧ opAt cp 0 9 = some (long9 0 5 (.copy 15 0 0)) ∧ (∀ q ∈ cp.keeper.ops, q = long9 0 5 (.copy 15 0 0)) ∧
      (chanAt cp (.system 15)).signalling = false) ∧
    fwd.keeper.forwards.find? (fun q => q.1.func == 0 && q.2 == 7) = some (box0, 7) ∧ (mboxAt fwd box0).req = some (reqOf 7 0) ∧
    opAt fwd 0 7 = none ∧ s.Inv ∧ v.Inv ∧ rep.Inv ∧ rd.Inv ∧ late.Inv ∧ fwd.Inv :=
  ⟨asked (by decide), asked (by decide), by decide, by decide, asked (by decide), by decide, by decide, asked (by decide), by decide, by decide,
    by decide, ⟨asking_inv _ reset_inv, asked (by decide), by decide, by decide, by decide⟩, by decide, by decide, by decide, asking_inv _ reset_inv, askingVf_inv _ reset_inv,
    inv_modFunc (fun _ h => h) (asking_inv _ reset_inv), asking_inv _ reset_inv, asking_inv _ reset_inv, asking_inv _ reset_inv⟩

theorem witness_FunctionLevelResets :
    (windowed State.reset).Inv ∧ (∀ o ∈ (windowed State.reset).keeper.ops, 32 ≤ o.func) ∧ (∀ o ∈ (windowed State.reset).keeper.ops, o.func ≠ 31) ∧
    (withOp { long9 0 5 .close with func := 32 } State.reset).Inv ∧
    ∀ o ∈ (withOp { long9 0 5 .close with func := 32 } State.reset).keeper.ops, 32 ≤ o.func :=
  ⟨windowed_inv reset_inv, by decide, by decide, reset_inv, by decide⟩

/-! ### Witnesses: power, heat, the reference -/

/-- The input stage on at a voltage, in full service. -/
def fed (mv : Nat) : State := modPower (modBoot State.reset (fun b => { b with state := 2 })) (fun p => { p with
  pwrEn := true
  inputOn := true
  vin := mv })

theorem fed_inv (mv : Nat) : (fed mv).Inv := reset_inv

theorem witness_InputAndRails :
    let off := modPower State.reset (fun p => { p with
      pwrEn := true
      vin := 40000 })
    off.Inv ∧ off.power.pwrEn = true ∧ off.power.tripped = false ∧ off.power.inputOn = false ∧ 40000 ≤ off.power.vin ∧ off.power.vin ≤ 62000 ∧
    off.power.rails = [] ∧ off.power.faulted = [] ∧ (fed 48000).Inv ∧ (fed 48000).power.inputOn = true ∧ (fed 48000).boot.state = 2 :=
  ⟨reset_inv, by decide, by decide, by decide, by decide, by decide, by decide, by decide, reset_inv, by decide, by decide⟩

theorem witness_GovernorAndBrake :
    let s := fed 48000
    let near := modPower s (fun p => { p with
      belowMs := [99, 99, 99, 99]
      plevel := [1, 2, 0, 5] })
    let braked := modPower s (fun p => { p with brake := true })
    s.Inv ∧ s.power.plevel.length = 4 ∧ s.power.belowMs.length = 4 ∧ s.power.credit ≤ 20000000 ∧ s.power.cap < 1501 ∧ 1399 + 100 < s.power.cap ∧
    (1500 ≤ s.power.cap ∧ s.power.cap ≤ 1400 + 100) ∧ worstSector s [1501, 0, 0, 0] = some 0 ∧
    near.power.plevel.length = 4 ∧ 100 ≤ near.power.belowMs.getD 1 0 + 1 ∧ 2 ≤ near.power.plevel.getD 1 0 ∧ near.power.plevel.getD 0 0 = 1 ∧
    s.power.brake = false ∧ s.power.ballastFor.length = 4 ∧ braked.power.brake = true ∧ braked.Inv ∧ (lanternAt (lit (fun x => { x with filling := true }) s) 0).filling = true :=
  by
    refine ⟨reset_inv, ?_⟩
    iterate 14 refine ⟨by decide, ?_⟩
    exact ⟨reset_inv, by decide⟩

theorem witness_HeatAndReference :
    let s := modPower (fed 48000) (fun p => { p with tripFor := [0, 0, 0, 9] })
    let lost := modPower s (fun p => { p with refLost := true })
    let x : Temps := { s.power.temps with
      towers := [1049, 1050, 999, 1100]
      io := [1099, 1050] }
    s.Inv ∧ s.power.tlevel.length = 4 ∧ (∀ k, k < 4 → s.power.temps.towers.getD k 0 < 1100) ∧ s.power.temps.io.foldl max 0 < 1100 ∧
    x.io.foldl max 0 < 1100 ∧ (∀ k, k < 3 → x.towers.getD k 0 < 1100) ∧ 1100 ≤ x.towers.getD 3 0 ∧ s.power.tripFor.getD 3 0 = 9 ∧
    s.boot.state = 2 ∧ s.power.refLost = false ∧ lost.power.refLost = true :=
  ⟨reset_inv, by and_intros <;> decide⟩

/-! ### Witnesses: time, bring-up, upkeep -/

theorem witness_ModuleTime :
    let s := State.reset
    let away := modTime s (fun t => { t with root := 9 })
    let steer := modTime s (fun t => { t with
      pulses := 3
      steering := true
      now := 32768000000000 })
    let gone := modTime s (fun t => { t with holdover := true })
    let heard := modPort (modTime s (fun t => { t with
      holdover := true
      named := none })) 7 (fun x => { x with
        up := true
        dist := 254
        root := 0 })
    let far := modBoot heard (fun b => { b with coords := [1, 0, 0, 0] })
    let q := asking (reqOf 0x64 0) State.reset
    away.time.root ≠ selfNode away ∧ s.time.root = selfNode s ∧ s.time.holdover = false ∧ s.time.steering = false ∧ s.time.pulses < 3 ∧
    steer.time.root = selfNode steer ∧ steer.time.steering = true ∧ s.time.parent = none ∧
    (modTime s (fun t => { t with parent := some 7 })).time.parent = some 7 ∧ gone.time.holdover = true ∧ gone.time.raised = false ∧
    chooseRoot gone = selfNode gone ∧ chooseRoot far ≠ selfNode far ∧ bestParent (reporters far (chooseRoot far)) = some (254, 7) ∧
    far.time.named = none ∧ Asked q box0 0x64 (reqOf 0x64 0) ∧ (allNodes q).contains 0 = true ∧ (allNodes q).contains 1 = false ∧ q.Inv :=
  by
    iterate 15 refine ⟨by decide, ?_⟩
    exact ⟨asked (by decide), by decide, by decide, asking_inv _ reset_inv⟩


/-- Bring-up that meets no fault. -/
def soundBringUp : BringUp := ⟨true, true, 0, none, ⟨[], false⟩⟩

def rails (s : State) : State := modPower s (fun p => { p with
  inputOn := true
  rails := firstRails })

theorem witness_BringUpToEarlyLight :
    let s := rails State.reset
    let again := modBoot (modPower s (fun p => { p with powerGood := true })) (fun b => { b with fail := 1 })
    let bare := modFlash s (fun f => { f with
      rec0 := { f.rec0 with factoryOk := false }
      rec1 := { f.rec1 with factoryOk := false } })
    let six := modBoot (modPower s (fun p => { p with powerGood := true })) (fun b => { b with
      keeperUp := true
      stage := 6 })
    (s.power.inputOn = true ∧ (∀ r ∈ firstRails, r ∈ s.power.rails) ∧ s.power.powerGood = false) ∧
    (again.power.powerGood = true ∧ again.boot.fail = 1 ∧ again.boot.stage = 0) ∧
    bare.flash.rec0.factoryOk = false ∧ bare.flash.rec1.factoryOk = false ∧ bare.power.powerGood = false ∧
    (s.flash.rec0.factoryOk = true ∧ s.flash.rec0.fieldOk = true ∧ s.flash.rec1.gen ≤ s.flash.rec0.gen ∧ s.flash.rec0.pending = none ∧
      s.flash.rec0.active = 0 ∧ s.flash.slotA = some ⟨1, 0, 0, 0, true⟩ ∧ s.flash.rec0.svnFloor ≤ 0) ∧
    (six.power.powerGood = true ∧ six.boot.keeperUp = true ∧ six.boot.stage = 6 ∧ six.boot.fail ≠ 5 ∧ six.boot.routerAtFull = false ∧ six.boot.halted = false) ∧ six.Inv ∧
    (modBoot s (fun b => { b with fail := 5 })).boot.fail = 5 ∧ (modBoot six (fun b => { b with routerAtFull := true })).boot.routerAtFull = true :=
  ⟨by decide, by decide, by decide, by decide, by decide, by decide, by decide, reset_inv, rfl, rfl⟩

theorem witness_FullLight :
    let s := modBoot (modPower State.reset (fun p => { p with powerGood := true })) (fun b => { b with
      keeperUp := true
      stage := 7 })
    let five := modBoot s (fun b => { b with
      stage := 6
      fail := 5
      routerAtFull := true })
    let f : FullInputs := ⟨true, [⟨[], false⟩, ⟨[], false⟩, ⟨[], false⟩], [], [], none, none, none, false⟩
    s.Inv ∧ s.power.powerGood = true ∧ s.boot.keeperUp = true ∧ s.boot.stage = 7 ∧ s.boot.state ≠ 3 ∧ (modBoot s (fun b => { b with state := 3 })).boot.state = 3 ∧ s.boot.routerAtFull = false ∧ (∀ x ∈ f.towers, x.fabric = false) ∧
    five.Inv ∧ five.boot.stage = 6 ∧ five.boot.fail = 5 ∧ five.boot.routerAtFull = true :=
  ⟨reset_inv, by decide, by decide, by decide, by decide, by decide, by decide, by decide, reset_inv, by decide, by decide, by decide⟩

theorem witness_KeeperUpkeep :
    let due := modKeeper (lit id State.reset) (fun k => { k with restartDue := true })
    let empty := modFlash due (fun f => { f with slotA := none })
    let trial := modBoot (setConfig State.reset (fun r => { r with pending := some 1 })) (fun b => { b with
      trial := true
      keeperUp := true
      state := 2 })
    due.Inv ∧ due.keeper.restartDue = true ∧ (configRec due).pending = none ∧ (configRec due).active = 0 ∧ due.flash.slotA = some ⟨1, 0, 0, 0, true⟩ ∧
    (configRec due).svnFloor ≤ 0 ∧ due.keeper.ops = [] ∧ empty.keeper.restartDue = true ∧ empty.flash.slotA = none ∧ empty.flash.slotB = none ∧
    (configRec trial).pending = some 1 ∧ trial.boot.trial = true ∧ trial.boot.keeperUp = true ∧ trial.boot.state = 2 ∧ State.reset.boot.state = 0 :=
  ⟨lit_inv (fun _ h => h) reset_inv, by and_intros <;> decide⟩

/-- The flash block's size is open: a pool of one block, and an empty one. -/
theorem witness_FlashUpkeep (h : 0 < Config.flashBlock) :
    let up := modBoot State.reset (fun b => { b with keeperUp := true })
    let o : FlashObj := ⟨7, 0, 0, 64, false, .bundle []⟩
    let kept := modFlash up (fun f => { f with objs := [o] })
    let long_ := modFlash up (fun f => { f with unread := true })
    long_.boot.keeperUp = true ∧ long_.flash.unread = true ∧ long_.flash.readOnly = false ∧
    up.boot.keeperUp = true ∧ Config.flashBlock ≤ (modFlash up (fun f => { f with spare := Config.flashBlock })).flash.spare ∧
    (modFlash up (fun f => { f with spare := 0 })).flash.spare < Config.flashBlock ∧ kept.boot.keeperUp = true ∧
    kept.flash.objs.find? (fun q => q.name == (⟨7, true, false⟩ : ScanItem).name) = some o ∧ o.lost = false :=
  ⟨by decide, by decide, by decide, by decide, Nat.le_refl _, h, by decide, by decide, rfl⟩

theorem witness_MemoryErrors :
    let s := lit id (modBoot State.reset (fun b => { b with lpddr := true }))
    let bad := { s with poison := [0] }
    scrubbed s (64 + 63) = true ∧ s.poison.contains 64 = false ∧ scrubbed bad 63 = true ∧ bad.poison.contains (63 / 64 * 64) = true ∧
    (lanternAt s 0).phys.isSome = true ∧ (lanternAt s 0).rst.active = false ∧ (towerAt s 0).rst.active = false ∧ s.keeper.resetLog = [] ∧
    2 ≤ s.keeper.policy.lanternResets ∧ s.Inv ∧
    (bumpEcc s (.acc 0) 0 1).keeper.ecc.find? (fun q => q.1 == .acc 0) = some (.acc 0, [1, 0, 0, 0, 0]) :=
  ⟨by decide, by decide, by decide, by decide, by decide, by decide, by decide, by decide, by decide, lit_inv (fun _ h => h) reset_inv, by decide⟩

/-! ### Witnesses: bundles, firmware, self-test, guests -/

/-- A request answered with up to 64 KiB of result. -/
def reqBig (op id : Nat) : Request := { reqOf op id with outlen := 65536 }

/-- A flash object of the PF: the image of a bundle, or a part of a snapshot of mooring 5. -/
def stored (o : FlashObj) (s : State) : State := modFlash s (fun f => { f with objs := [o] })

theorem stored_inv (o : FlashObj) {s : State} (h : s.Inv) : (stored o s).Inv := h

theorem witness_Bundles :
    let s := windowed (asking (reqOf 0x10 0) State.reset)
    let f := stored ⟨7, 0, 0, 0, false, .bundle []⟩ s
    let one (op : Nat) := asking (reqOf op 0) { State.reset with keeper := { State.reset.keeper with bundles := [bundle1] } }
    let used := moored (moorOf 0) (asking (reqOf 0x11 0) State.reset)
    let vf (op : Nat) := modQueue (askingVf (reqOf op 0) { State.reset with keeper := { State.reset.keeper with bundles := [bundle1] } }) 1 0 (fun q => { q with bound := true })
    (Asked (vf 0x11) box1 0x11 (reqOf 0x11 0) ∧ Asked (vf 0x12) box1 0x12 (reqOf 0x12 0) ∧ bundleAt (vf 0x11) 1 = some bundle1 ∧ bundle1.owner ≠ 1 ∧
      (vf 0x11).Inv) ∧ s.Inv ∧ f.Inv ∧ (one 0x11).Inv ∧ (one 0x12).Inv ∧ used.Inv ∧ box0.ok = true ∧
    Asked s box0 0x10 (reqOf 0x10 0) ∧ attFull s 0 = false ∧ s.keeper.bundles.length < 16 ∧
    (∃ img, keeperRead s (7 * 2 ^ 61) 2 = .ok img ∧ bundleBytes s + img.length ≤ bundleSpace s) ∧
    Asked f box0 0x10 (reqOf 0x10 0) ∧ storedImage f 7 0 = .ok [] ∧
    Asked (one 0x11) box0 0x11 (reqOf 0x11 0) ∧ bundleFor (one 0x11) 0 1 = some bundle1 ∧ bundleBusy (one 0x11) 1 = false ∧
    Asked used box0 0x11 (reqOf 0x11 0) ∧ bundleFor used 0 1 = some bundle1 ∧ bundleBusy used 1 = true ∧
    Asked (one 0x12) box0 0x12 (reqOf 0x12 0) ∧ bundleFor (one 0x12) 0 1 = some bundle1 ∧ userWriteErr (one 0x12) 7 0 bundle1.length = none :=
  ⟨⟨asked (by decide), asked (by decide), by decide, by decide, inv_modQueue (askingVf_inv _ reset_inv)⟩, windowed_inv (asking_inv _ reset_inv),
    stored_inv _ (windowed_inv (asking_inv _ reset_inv)), asking_inv _ reset_inv, asking_inv _ reset_inv,
    moored_inv _ (asking_inv _ reset_inv), rfl, asked (by decide), by decide, by decide, ⟨_, by rfl, by decide⟩, asked (by decide), by rfl, asked (by decide),
    by decide, by decide, asked (by decide), by decide, by decide, asked (by decide), by decide, by decide⟩

/-- Host memory with the first words of a firmware image of no contents. -/
def fwHost (s : State) : State :=
  { windowed s with host := hostPuts [] 0 (natLE 4 0x57464341 ++ natLE 12 0) }

theorem fwHost_inv {s : State} (h : s.Inv) : (fwHost s).Inv := windowed_inv h

/-- The bytes of an image of no contents, all else zero. -/
def fwBytes : List Byte := natLE 4 0x57464341 ++ List.replicate 4092 0

def onTrial (s : State) : State := setConfig s (fun r => { r with pending := some 1 })

theorem onTrial_inv {s : State} (h : s.Inv) : (onTrial s).Inv := inv_setConfig h

theorem hostRead_len (s : State) (a n : Nat) : (hostRead s a n).length = n := by
  induction n generalizing a with
  | zero => rfl
  | succ n ih => exact congrArg (· + 1) (ih (a + 1))

/-- 4,096 bytes whose first words are those of an image of no contents are an image. -/
theorem imageOf_some {bs : List Byte} (h1 : bs.length = 4096) (h2 : leAt bs 0 4 = 0x57464341) (h3 : leAt bs 12 4 = 0) :
    ∃ i, imageOf bs = some i ∧ (i.sigOk = true ∨ i.sigOk = false) := by
  refine ⟨_, if_neg (by omega), ?_⟩
  cases FwImage.sigOk _ <;> simp

/-- A state in which the PLDM update is taken. -/
def pldmReady : State := modBoot (modPower State.reset (fun p => { p with inputOn := true })) (fun b => { b with keeperUp := true })

theorem witness_FirmwareSlots :
    let s := fwHost (asking (reqOf 0x91 0) State.reset)
    let t := onTrial s
    let a := asking (reqOf 0x92 0) State.reset
    let b := onTrial a
    s.Inv ∧ t.Inv ∧ a.Inv ∧ b.Inv ∧ box0.ok = true ∧ Asked s box0 0x91 (reqOf 0x91 0) ∧ (configRec s).active < 2 ∧
    1 ≠ (configRec s).active ∧ Asked t box0 0x91 (reqOf 0x91 0) ∧ 1 ≠ (configRec t).active ∧ (configRec t).pending ≠ none ∧
    (configRec s).pending = none ∧
    (∃ bs i, keeperRead s (7 * 2 ^ 61) 4096 = .ok bs ∧ imageOf bs = some i ∧ (i.sigOk = true ∨ i.sigOk = false)) ∧ (configRec s).svnFloor = 0 ∧
    (∃ bs, keeperRead s (7 * 2 ^ 61) 64 = .ok bs ∧ bs.length < 4096) ∧
    Asked a box0 0x92 (reqOf 0x92 0) ∧ a.moorings = [] ∧ (configRec a).pending = none ∧ slotVerifies a 0 = true ∧
    Asked b box0 0x92 (reqOf 0x92 0) ∧ (configRec b).pending ≠ none ∧
    pldmReady.power.inputOn = true ∧ pldmReady.boot.recovery = false ∧ pldmReady.boot.keeperUp = true ∧ (configRec pldmReady).active = 0 ∧
    (configRec pldmReady).pending = none ∧ (configRec pldmReady).svnFloor = 0 ∧
    ∃ i, imageOf fwBytes = some i ∧ (i.sigOk = true ∨ i.sigOk = false) :=
  ⟨fwHost_inv (asking_inv _ reset_inv), onTrial_inv (fwHost_inv (asking_inv _ reset_inv)), asking_inv _ reset_inv, onTrial_inv (asking_inv _ reset_inv),
    rfl, asked (by decide), by decide, by decide, asked (by decide), by decide, by decide, by decide,
    (imageOf_some (bs := hostRead (fwHost (asking (reqOf 0x91 0) State.reset)) 0 4096) (hostRead_len _ _ _) (by decide +kernel) (by decide +kernel)).elim (fun i h => ⟨_, i, by rfl, h⟩), by decide, ⟨_, by rfl, by decide⟩, asked (by decide), by decide, by decide, by decide,
    asked (by decide), by decide, by decide, by decide, by decide, by decide, by decide, by decide,
    imageOf_some (by decide +kernel) (by decide +kernel) (by decide +kernel)⟩

/-- The self-test in hand. -/
def testing (o : LongOp) (g : Nat) (s : State) : State := modKeeper (withOp o s) (fun k => { k with bistGroup := g })

theorem witness_SelfTest :
    let s := asking (reqBig 0x60 0) State.reset
    let early := modBoot s (fun b => { b with state := 1 })
    let open_ := moored (moorOf 0) s
    let busy := withOp (long9 0 0 .selftest) s
    let r := asking (reqBig 0x61 0) State.reset
    let back := modBoot r (fun b => { b with state := 3 })
    let held := withOp (long9 0 0 .returnToService) r
    let t := testing (long9 0 0 .selftest) 1 State.reset
    let u := testing (long9 0 0 .selftest) 2 State.reset
    (s.Inv ∧ early.Inv ∧ open_.Inv ∧ busy.Inv ∧ r.Inv ∧ back.Inv ∧ held.Inv) ∧ box0.ok = true ∧ 15920 ≤ (reqBig 0x60 0).outlen ∧
    Asked s box0 0x60 (reqBig 0x60 0) ∧ s.moorings = [] ∧ bistOp s = none ∧ Asked early box0 0x60 (reqBig 0x60 0) ∧ early.boot.state = 1 ∧
    Asked open_ box0 0x60 (reqBig 0x60 0) ∧ open_.moorings ≠ [] ∧ Asked busy box0 0x60 (reqBig 0x60 0) ∧ bistOp busy ≠ none ∧
    Asked r box0 0x61 (reqBig 0x61 0) ∧ r.moorings = [] ∧ bistOp r = none ∧ Asked back box0 0x61 (reqBig 0x61 0) ∧ bistOp back = none ∧
    Asked held box0 0x61 (reqBig 0x61 0) ∧ bistOp held ≠ none ∧
    bistOp t = some (long9 0 0 .selftest) ∧ t.power.brake = false ∧ t.keeper.bistGroup = 1 ∧ bistOp u = some (long9 0 0 .selftest) ∧
    u.keeper.bistGroup = 2 ∧ goldenOf t 0 = 0 ∧ (bistUnits.zipIdx.headD ((0, 0, 0), 9)) = ((1, 0, 0), 0) ∧
    (modPower t (fun p => { p with brake := true })).power.brake = true :=
  ⟨⟨asking_inv _ reset_inv, inv_modBoot (asking_inv _ reset_inv), moored_inv _ (asking_inv _ reset_inv), inv_modKeeper (asking_inv _ reset_inv),
    asking_inv _ reset_inv, inv_modBoot (asking_inv _ reset_inv), inv_modKeeper (asking_inv _ reset_inv)⟩,
    rfl, by decide, asked (by decide), by decide, by decide, asked (by decide), by decide, asked (by decide), by decide, asked (by decide), by decide,
    asked (by decide), by decide, by decide, asked (by decide), by decide, asked (by decide), by and_intros <;> decide⟩

/-- Mooring 5, serving or training, whose tensor 3 (KIND 1) is placed at 0, 4 KiB of mantissas. -/
def tensor3 : Tensor := { Tensor.blank with
  id := 3
  kind := 1 }

def bundleT : Bundle := { bundle1 with p := { bundle1.p with tensors := [tensor3] } }

def mooringT : Mooring := { moorOf 0 with place := ⟨[⟨0, 0, 4096, 4096, 0, none⟩], [], [(0, 4096)], [], []⟩ }

/-- A state in full service with that mooring and its bundle. -/
def placed (m : Mooring) (s : State) : State :=
  { s with
    moorings := [m]
    keeper := { s.keeper with bundles := [bundleT] } }

theorem placed_inv (m : Mooring) {s : State} (h : s.Inv) : (placed m s).Inv := h

/-- Shore core 11 lent to mooring 5. -/
def lentCore (s : State) : State := modShore s 11 (fun c => { c with lent := some 5 })

theorem witness_ShoreCores :
    let s := placed mooringT (windowed (asking (reqOf 0x50 5) State.reset))
    let u := lentCore (placed mooringT (asking (reqOf 0x51 5) State.reset))
    let full := lentCore s
    let soon := modKeeper s (fun k => { k with lastAdv := [(.shore 0, 0)] })
    (mayLend s [0, 1] = true ∧ soon.Inv ∧ Asked soon box0 0x50 (reqOf 0x50 5) ∧ mayLend soon [0, 1] = false) ∧ s.Inv ∧ u.Inv ∧ full.Inv ∧ box0.ok = true ∧ Asked s box0 0x50 (reqOf 0x50 5) ∧ mooringAt s 5 = some mooringT ∧ bundleAt s 1 = some bundleT ∧
    (∃ image, keeperRead s (7 * 2 ^ 61) 64 = .ok image) ∧ [(0, 4096), (4095, 1)].all (guestWindowOk mooringT bundleT.p) = true ∧
    ([] : List (Nat × Nat)).all (guestWindowOk mooringT bundleT.p) = true ∧ attFull s 0 = false ∧
    ((sectorCores 1 0).filter (fun c => (s.shore.getD c ShoreCore.reset).lent.isNone)).length = 12 ∧
    Asked full box0 0x50 (reqOf 0x50 5) ∧ ((sectorCores 1 0).filter (fun c => (full.shore.getD c ShoreCore.reset).lent.isNone)).length = 11 ∧
    Asked u box0 0x51 (reqOf 0x51 5) ∧ (u.shore.getD 11 ShoreCore.reset).lent = some 5 ∧ (u.shore.getD 0 ShoreCore.reset).lent ≠ some 5 :=
  ⟨⟨by decide, inv_modKeeper (placed_inv _ (windowed_inv (asking_inv _ reset_inv))), asked (by decide), by decide⟩,
    placed_inv _ (windowed_inv (asking_inv _ reset_inv)), inv_modShore (placed_inv _ (asking_inv _ reset_inv)),
    inv_modShore (placed_inv _ (windowed_inv (asking_inv _ reset_inv))), rfl, asked (by decide), by decide, by decide, ⟨_, by rfl⟩, by decide, by decide,
    by decide, by decide, asked (by decide), by decide, asked (by decide), by decide, by decide⟩

/-! ### Witnesses: moorings -/

/-- A request with the descriptor of a kind as its arguments. -/
def reqDesc (op kind : Nat) : Request := { reqOf op 5 with args := mdescBytes (desc5 kind) }

theorem witness_OpeningAndClosing :
    let s := asking (reqDesc 0x20 0) { State.reset with keeper := { State.reset.keeper with bundles := [bundle1] } }
    let d := keptDesc s (reqDesc 0x20 0).args
    let q := moored (moorOf 0) (asking (reqOf 0x26 5) State.reset)
    let c := moored { moorOf 0 with stepOn := true } (asking (reqOf 0x25 5) State.reset)
    let p := withOp (long9 0 5 .close) c
    s.Inv ∧ q.Inv ∧ c.Inv ∧ p.Inv ∧ box0.ok = true ∧ Asked s box0 0x20 (reqDesc 0x20 0) ∧ s.boot.state = 2 ∧ s.keeper.debug = false ∧
    mdescOk (reqDesc 0x20 0).args d = true ∧ sectorOk s d = true ∧ originNode d = selfNode s ∧ bundleFor s 0 d.bundle = some bundle1 ∧
    firstRefusal s (ownAnswer s d bundle1.p (selfNode s) true [] (toldBy [])) [] (blockNodes s d) = none ∧
    (∃ pl, placeChecked s d bundle1.p (selfNode s) [] (takenRanges s) (toldBy []) = .ok pl) ∧ mooringAt s d.id = none ∧
    Asked q box0 0x26 (reqOf 0x26 5) ∧ mooringAt q 5 = some (moorOf 0) ∧ anchorOf (moorOf 0) = selfNode q ∧ (statusBytes q (moorOf 0)).length ≤ 4056 ∧
    Asked c box0 0x25 (reqOf 0x25 5) ∧ mooringAt c 5 = some { moorOf 0 with stepOn := true } ∧
    anchorOf { moorOf 0 with stepOn := true } = selfNode c ∧ membershipPending c 5 = false ∧
    Asked p box0 0x25 (reqOf 0x25 5) ∧ mooringAt p 5 = some { moorOf 0 with stepOn := true } ∧ membershipPending p 5 = true :=
  ⟨asking_inv _ reset_inv, moored_inv _ (asking_inv _ reset_inv), moored_inv _ (asking_inv _ reset_inv),
    inv_modKeeper (moored_inv _ (asking_inv _ reset_inv)), rfl, asked (by decide), by decide, by decide, by decide +kernel, by decide +kernel,
    by decide +kernel, by decide +kernel, by decide +kernel, ⟨_, by rfl⟩, by decide, asked (by decide), by decide, by decide, by decide, asked (by decide), by decide, by decide, by decide,
    asked (by decide), by decide, by decide⟩

/-- A descriptor of mooring 5, or a serving one of mooring 6, over modules of its carrier from a coordinate W. -/
def descX (kind id origin extent : Nat) : MDesc :=
  { desc5 kind with
    id := id
    sMooring := id
    axes := ⟨if extent = 1 then 0 else 1, extent, origin, false⟩ :: List.replicate 3 ⟨0, 1, 0, false⟩ }

def wide (n : Nat) : Mooring := { moorOf 0 with
  desc := descX 0 5 0 n
  stepOn := true }

/-- Mooring 5 over n modules of its carrier of four, a step in hand, and a request for a new descriptor. -/
def onCarrier (n op : Nat) (d : MDesc) : State :=
  moored (wide n) (asking { reqOf op 5 with args := mdescBytes d } (modBoot State.reset (fun b => { b with sizes := [4, 1, 1, 1] })))

theorem onCarrier_inv (n op : Nat) (d : MDesc) : (onCarrier n op d).Inv := moored_inv _ (asking_inv _ (inv_modBoot reset_inv))

/-- What MembershipCommands asks of a new descriptor at the anchor. -/
def MapTaken (n op : Nat) (d' : MDesc) (as_ : List Answer) (items : List LendItem) : Prop :=
  let s := onCarrier n op d'
  let r := { reqOf op 5 with args := mdescBytes d' }
  s.Inv ∧ box0.ok = true ∧ Asked s box0 op r ∧ mooringAt s r.mooring = some (wide n) ∧ anchorOf (wide n) = selfNode s ∧
  bundleAt s (wide n).bundle = some bundle1 ∧ membershipPending s r.mooring = false ∧ mapOk s (wide n) op r.args = true ∧
  (op = 0x24 → lendOk s (wide n) r.args items = true ∧ ∀ it ∈ items, debugBars s it.ownerFunc = false) ∧
  (let d := markRings s (mdescOf r.args)
   let subs := keptSubs s (wide n) d
   let nodes := (blockNodes s d).map (standsIn subs)
   firstRefusal s (if nodes.contains (selfNode s) then ownAnswer s d bundle1.p (positionOf subs (selfNode s)) false (wide n).raised (toldBy as_)
     else ⟨selfNode s, 0, [], []⟩) as_ nodes = none) ∧ (wide n).stepOn = true

def agree (ns : List Nat) : List Answer := ns.map (fun n => ⟨n, 0, [], []⟩)

theorem witness_MembershipCommands :
    MapTaken 2 0x21 (descX 0 5 0 3) (agree [32768, 65536]) [] ∧ MapTaken 3 0x22 (descX 0 5 0 1) [] [] ∧
    MapTaken 2 0x23 (descX 0 5 1 2) (agree [32768, 65536]) [] ∧ MapTaken 3 0x24 (descX 0 5 0 2) (agree [32768]) [⟨mdescBytes (descX 1 6 2 1), 0, 0⟩] ∧
    MapTaken 3 0x24 (descX 0 5 0 2) (agree [32768]) [] ∧
    (let s := withOp (long9 0 5 .close) (onCarrier 2 0x21 (descX 0 5 0 3))
     s.Inv ∧ Asked s box0 0x21 { reqOf 0x21 5 with args := mdescBytes (descX 0 5 0 3) } ∧ mooringAt s 5 = some (wide 2) ∧ membershipPending s 5 = true) :=
  ⟨⟨onCarrier_inv _ _ _, rfl, asked (by decide), by decide, by decide, by decide, by decide, by decide +kernel, by decide, by decide +kernel, by decide⟩,
    ⟨onCarrier_inv _ _ _, rfl, asked (by decide), by decide, by decide, by decide, by decide, by decide +kernel, by decide, by decide +kernel, by decide⟩,
    ⟨onCarrier_inv _ _ _, rfl, asked (by decide), by decide, by decide, by decide, by decide, by decide +kernel, by decide, by decide +kernel, by decide⟩,
    ⟨onCarrier_inv _ _ _, rfl, asked (by decide), by decide, by decide, by decide, by decide, by decide +kernel, by decide +kernel, by decide +kernel, by decide⟩,
    ⟨onCarrier_inv _ _ _, rfl, asked (by decide), by decide, by decide, by decide, by decide, by decide +kernel, by decide +kernel, by decide +kernel, by decide⟩,
    inv_modKeeper (onCarrier_inv _ _ _), asked (by decide), by decide, by decide⟩

theorem witness_RunSteps :
    let s := moored (moorOf 0) (asking (reqOf 0x30 5) State.reset)
    let p := withOp (long9 0 5 .close) s
    s.Inv ∧ p.Inv ∧ box0.ok = true ∧ Asked s box0 0x30 (reqOf 0x30 5) ∧ mooringAt s 5 = some (moorOf 0) ∧ anchorOf (moorOf 0) = selfNode s ∧
    runActive (moorOf 0) = false ∧ membershipHeld s 5 = false ∧ lendingOf s 5 = none ∧ (moorOf 0).lostNodes = [] ∧ Asked p box0 0x30 (reqOf 0x30 5) ∧
    mooringAt p 5 = some (moorOf 0) ∧ membershipHeld p 5 = true ∧ runActive { moorOf 0 with run := .running } = true :=
  ⟨moored_inv _ (asking_inv _ reset_inv), inv_modKeeper (moored_inv _ (asking_inv _ reset_inv)), rfl, asked (by decide), by decide, by decide,
    by decide, by decide, by decide, by decide, asked (by decide), by decide, by decide, by decide⟩

/-- A part of a snapshot of mooring 5, or a bundle, as the flash object 7. -/
def part7 : FlashObj := ⟨7, 0, 0, 64, false, .snapshot 5 (jobOf (moorOf 0)) [] [] []⟩

def inHand : Mooring := { moorOf 0 with stepOn := true }

def ranging : Mooring := { mooringT with run := .running }

theorem witness_SnapshotsAndTensors :
    let at_ (x : Mooring) (op : Nat) := placed x (windowed (asking (reqOf op 5) State.reset))
    let hand := moored inHand (asking (reqOf 0x42 5) State.reset)
    let worn := modFlash (moored (moorOf 0) (asking (reqOf 0x42 5) State.reset)) (fun f => { f with credit := 0 })
    let kept (x : Mooring) (op : Nat) := stored part7 (at_ x op)
    let held := withOp (long9 0 5 .close) (kept mooringT 0x43)
    let twice := { mooringT with
      place := ⟨[⟨0, 0, 4096, 4096, 0, some (4096, 0)⟩], [], [(0, 8192)], [], []⟩
      readable := [1] }
    let full (s : State) : State := { s with sysChans := List.replicate 16 { DmaChan.reset with queue := [⟨[], 0, 0, true⟩] } }
    (∀ x op, (at_ x op).Inv ∧ (kept x op).Inv) ∧ hand.Inv ∧ worn.Inv ∧ held.Inv ∧ box0.ok = true ∧
    (mooringAt hand 5 = some inHand ∧ bundleAt hand 1 = some bundle1 ∧ inHand.desc.id = 5 ∧
      Asked hand box0 0x42 (reqOf 0x42 5) ∧ snapshotErr hand inHand bundle1.p 7 = none) ∧
    (mooringAt worn 5 = some (moorOf 0) ∧ bundleAt worn 1 = some bundle1 ∧ Asked worn box0 0x42 (reqOf 0x42 5) ∧ worn.flash.readOnly = false ∧
      flashObj worn 7 = none ∧ worn.flash.credit < partSize (partPieces worn (moorOf 0) bundle1.p) (moorOf 0).headers) ∧
    (Asked (kept mooringT 0x43) box0 0x43 (reqOf 0x43 5) ∧ mooringAt (kept mooringT 0x43) 5 = some mooringT ∧
      bundleAt (kept mooringT 0x43) 1 = some bundleT ∧ runActive mooringT = false ∧ opPending (kept mooringT 0x43) 5 = false ∧
      partHere (kept mooringT 0x43) 7 = some (jobOf (moorOf 0), [], []) ∧ ((flashObj (kept mooringT 0x43) 7).map (·.lost)).getD false = false) ∧
    (Asked (kept ranging 0x43) box0 0x43 (reqOf 0x43 5) ∧ mooringAt (kept ranging 0x43) 5 = some ranging ∧ runActive ranging = true ∧
      partHere (kept ranging 0x43) 7 = some (jobOf (moorOf 0), [], []) ∧ Asked held box0 0x43 (reqOf 0x43 5) ∧ opPending held 5 = true ∧
      partHere held 7 = some (jobOf (moorOf 0), [], [])) ∧
    (Asked (kept mooringT 0x44) box0 0x44 (reqOf 0x44 5) ∧ flashObj (kept mooringT 0x44) 7 = some part7 ∧
      part7.owner = ownerKey (kept mooringT 0x44) mooringT ∧ (kept mooringT 0x44).flash.readOnly = false ∧ mooringT.saving ≠ some 7) ∧
    (Asked (at_ mooringT 0x40) box0 0x40 (reqOf 0x40 5) ∧ mooringAt (at_ mooringT 0x40) 5 = some mooringT ∧ runActive mooringT = false ∧
      opPending (at_ mooringT 0x40) 5 = false ∧ kindOf (at_ mooringT 0x40) mooringT 3 = some 1 ∧
      (membersOf (at_ mooringT 0x40) mooringT).contains (selfNode (at_ mooringT 0x40)) = true ∧
      (checkAddr (at_ mooringT 0x40) .priv (7 * 2 ^ 61) 2 false).isSome = true ∧
      commandSpans (at_ mooringT 0x40) mooringT 3 4094 2 0 = some [(4094, 2)] ∧ spanMoves true (7 * 2 ^ 61) [(4094, 2)] ≠ [] ∧
      sysFree (at_ mooringT 0x40) = some 0) ∧ sysFree (full (at_ mooringT 0x40)) = none ∧ (full (at_ mooringT 0x40)).Inv ∧
    Asked (full (at_ mooringT 0x40)) box0 0x40 (reqOf 0x40 5) ∧ (copyMoves 0 0 (2 ^ 23 + 1))[1]?.isSome = true ∧
    (Asked (at_ ranging 0x40) box0 0x40 (reqOf 0x40 5) ∧ mooringAt (at_ ranging 0x40) 5 = some ranging) ∧
    (Asked (at_ mooringT 0x41) box0 0x41 (reqOf 0x41 5) ∧ tensorReadErr (at_ mooringT 0x41) mooringT 3 0 = none ∧
      commandSpans (at_ mooringT 0x41) mooringT 3 4094 2 0 = some [(4094, 2)] ∧
      (checkAddr (at_ mooringT 0x41) .priv (7 * 2 ^ 61) 2 true).isSome = true ∧ spanMoves false (7 * 2 ^ 61) [(4094, 2)] ≠ [] ∧
      sysFree (at_ mooringT 0x41) = some 0) ∧
    tensorReadErr (at_ twice 0x41) twice 3 1 = none ∧ commandSpans (at_ twice 0x41) twice 3 0 64 1 = some [(4096, 64)] :=
  ⟨fun x op => ⟨placed_inv _ (windowed_inv (asking_inv _ reset_inv)), stored_inv _ (placed_inv _ (windowed_inv (asking_inv _ reset_inv)))⟩,
    moored_inv _ (asking_inv _ reset_inv), inv_modFlash (moored_inv _ (asking_inv _ reset_inv)),
    inv_modKeeper (stored_inv _ (placed_inv _ (windowed_inv (asking_inv _ reset_inv)))), rfl,
    ⟨by decide, by decide, by decide, asked (by decide), by decide⟩, ⟨by decide, by decide, asked (by decide), by decide, by decide, Nat.mul_pos (Nat.succ_pos _) (by decide)⟩,
    ⟨asked (by decide), by decide, by decide, by decide, by decide, by decide, by decide⟩,
    ⟨asked (by decide), by decide, by decide, by decide, asked (by decide), by decide, by decide⟩,
    ⟨asked (by decide), by decide, by decide, by decide, by decide⟩,
    ⟨asked (by decide), by and_intros <;> decide⟩, by decide,
    (show (placed mooringT (windowed (asking (reqOf 0x40 5) State.reset))).Inv from placed_inv _ (windowed_inv (asking_inv _ reset_inv))),
    asked (by decide), by decide, ⟨asked (by decide), by decide⟩,
    ⟨asked (by decide), by decide, by decide, by decide, by decide, by decide⟩, by decide, by decide⟩

/-! ### Witnesses: lantern schedules, the lens, bindings -/

/-- A PASS of one row over a new tile, with a drain; it meets the checks of R57. -/
def pass0 : LensDesc :=
  ⟨1, .b4b4, .acc32, .bank, false, true, true, true, true, false, false, 0, 1, 1, 128, 0, 65536, 81920, 128, 0, 98304, 0, 0, 0, true⟩

/-- A binding of two rows of its own, 128 lanes; and a collective. -/
def bind0 : Binding := ⟨0, 2, 2, 0, 0, 0, 0, 0, 0, 128, List.replicate 8 0, List.replicate 8 0, true⟩
def coll0 : CollDesc := ⟨0, 1, 0, false, false, 0, 3, 0, 0, 32, 0, 0, 0, 0, 0, 0, true⟩

/-- An entry of a kind and an argument, with a counter or channel. -/
def entry (kind chan arg : Nat) : SchedEntry := ⟨kind, chan, 0, 0, arg, false⟩

/-- A bundle with a descriptor of each kind: the second lens descriptor has M 0. -/
def bundleW : Bundle := { bundleT with p := { bundleT.p with
    lens := [pass0, { pass0 with m := 0 }]
    bindings := [bind0]
    dma := [[]]
    colls := [coll0]
    roles := [⟨0, 1, 1, 1, 0, 0, [entry 7 0 0], true⟩]
    updates := [⟨1, 0, 0, 0, 3, 0, [], 0, 0, true⟩] } }

/-- Mooring 5 with a replica on lantern 0, or with no step to decide. -/
def mooringW : Mooring := { mooringT with place := { mooringT.place with replicas := [⟨0, 0, 0, 0, 1, 1⟩] } }

/-- Lantern 0 there, running the work of mooring 5, with changes. -/
def works (x : Mooring) (f : Lantern → Lantern) : State :=
  lit (fun y => f { y with
    mooring := some 5
    running := true }) { State.reset with
    moorings := [x]
    keeper := { State.reset.keeper with bundles := [bundleW] } }

theorem works_inv (x : Mooring) {f : Lantern → Lantern} (hf : ∀ y : Lantern, y.Ok → (f y).Ok) : (works x f).Inv :=
  lit_inv (fun y hy => hf { y with
    mooring := some 5
    running := true } hy) reset_inv

/-- That lantern about to issue an entry. -/
def issuing (x : Mooring) (e : SchedEntry) (f : Lantern → Lantern) : State := works x (fun y => f { y with sched := [e] })

theorem issuing_inv (x : Mooring) (e : SchedEntry) {f : Lantern → Lantern} (hf : ∀ y : Lantern, y.Ok → (f y).Ok) : (issuing x e f).Inv :=
  works_inv x (fun y hy => hf { y with sched := [e] } hy)

def ready : Mooring := { mooringW with
  run := .running
  runCount := 1
  readable := [3, 7]
  step := 8 }

theorem witness_StepStarts :
    let s := works ready (fun y => { y with
      running := false
      pc := 9 })
    let r := works ready id
    s.Inv ∧ r.Inv ∧ mooringAt s 5 = some ready ∧ bundleAt s 1 = some bundleW ∧ mayStartStep s ready = true ∧ (lanternAt s 0).mooring = some 5 ∧
    (lanternAt s 0).phys.isSome = true ∧ (lanternAt s 191).mooring ≠ some 5 ∧ mooringAt r 5 = some ready ∧ mayStartStep r ready = false :=
  ⟨works_inv _ (fun _ h => h), works_inv _ (fun _ h => h), by and_intros <;> decide⟩

/-- A job of the lens for a descriptor, a binding's job, an instance of a collective. -/
def lensJob (d : LensDesc) : LensJob := ⟨d, 0, 0, false, false, false, false, 0, false, false, 0, 0⟩

def bindJob : BindJob := ⟨bind0, ⟨[], [], [], 0, false⟩, 0, 0, 0, none, 2, none, none, false, none⟩

def coll1 : CollInst := ⟨coll0, 0, 0, 0, 1, 0, 0, false, 0, 0, [], [], [], (0, 0), [], 0, 0, [], 0, [], [], []⟩

/-- A training mooring whose verdict is awaited; and a serving one. -/
def awaiting : Mooring := { mooringW with
  provisional := some 4
  holdOpen := false }
def serves : Mooring := { awaiting with desc := desc5 1 }

theorem witness_ScheduleEntries_lens :
    let at_ (e : SchedEntry) (n : Nat) := issuing mooringW e (fun y => { y with lensQ := List.replicate n (lensJob pass0) })
    (∀ e n, (at_ e n).Inv) ∧ headEntry (at_ (entry 0 0 0) 0) 0 = some (entry 0 0 0) ∧ lanternJob (at_ (entry 0 0 0) 0) 0 = some (mooringW, bundleW) ∧
    headEntry (at_ (entry 1 0 0) 7) 0 = some (entry 1 0 0) ∧ lanternJob (at_ (entry 1 0 0) 7) 0 = some (mooringW, bundleW) ∧
    bundleW.p.lens[0]? = some pass0 ∧ lensInHand (lanternAt (at_ (entry 1 0 0) 7) 0) = 7 ∧ issueChecks (lanternAt (at_ (entry 1 0 0) 7) 0) pass0 = true ∧
    bundleW.p.lens[1]? = some { pass0 with m := 0 } ∧ headEntry (at_ (entry 1 0 1) 7) 0 = some (entry 1 0 1) ∧
    lanternJob (at_ (entry 1 0 1) 7) 0 = some (mooringW, bundleW) ∧ issueChecks (lanternAt (at_ (entry 1 0 1) 7) 0) { pass0 with m := 0 } = false ∧
    headEntry (at_ (entry 1 0 0) 8) 0 = some (entry 1 0 0) ∧ lanternJob (at_ (entry 1 0 0) 8) 0 = some (mooringW, bundleW) ∧
    8 ≤ lensInHand (lanternAt (at_ (entry 1 0 0) 8) 0) :=
  ⟨fun _ _ => issuing_inv _ _ (fun _ h => h), by and_intros <;> decide⟩

theorem witness_ScheduleEntries_queues :
    let c (n : Nat) := issuing mooringW (entry 2 0 0) (fun y => { y with bindQ := List.replicate n bindJob })
    let d (n : Nat) := modChan (issuing mooringW (entry 3 3 0) id) (.lantern 0 3) (fun x => { x with queue := List.replicate n ⟨[], 0, 0, false⟩ })
    let k (n : Nat) := issuing mooringW (entry 5 0 0) (fun y => { y with coll := List.replicate n coll1 })
    let u (n : Nat) := issuing mooringW (entry 7 0 0) (fun y => { y with bindQ := List.replicate n bindJob })
    let late := issuing { mooringW with announced := false } (entry 7 0 0) id
    (∀ n, (c n).Inv ∧ (d n).Inv ∧ (k n).Inv ∧ (u n).Inv) ∧ late.Inv ∧
    (headEntry (c 3) 0 = some (entry 2 0 0) ∧ lanternJob (c 3) 0 = some (mooringW, bundleW) ∧ bundleW.p.bindings[0]? = some bind0 ∧
      (lanternAt (c 3) 0).bindQ.length < 4 ∧ headEntry (c 4) 0 = some (entry 2 0 0) ∧ lanternJob (c 4) 0 = some (mooringW, bundleW) ∧
      4 ≤ (lanternAt (c 4) 0).bindQ.length) ∧
    (headEntry (d 1) 0 = some (entry 3 3 0) ∧ lanternJob (d 1) 0 = some (mooringW, bundleW) ∧ bundleW.p.dma[0]? = some [] ∧
      (chanAt (d 1) (.lantern 0 3)).queue.length < 2 ∧ headEntry (d 2) 0 = some (entry 3 3 0) ∧ lanternJob (d 2) 0 = some (mooringW, bundleW) ∧
      2 ≤ (chanAt (d 2) (.lantern 0 3)).queue.length) ∧
    (headEntry (k 3) 0 = some (entry 5 0 0) ∧ lanternJob (k 3) 0 = some (mooringW, bundleW) ∧ bundleW.p.colls[0]? = some coll0 ∧
      (lanternAt (k 3) 0).coll.length < 4 ∧ headEntry (k 4) 0 = some (entry 5 0 0) ∧ lanternJob (k 4) 0 = some (mooringW, bundleW) ∧
      4 ≤ (lanternAt (k 4) 0).coll.length) ∧
    (headEntry (u 3) 0 = some (entry 7 0 0) ∧ lanternJob (u 3) 0 = some (mooringW, bundleW) ∧ mooringW.announced = true ∧
      (lanternAt (u 3) 0).bindQ.length + (updJobs (u 3) 0 0 0 mooringW bundleW 0 false).length ≤ 4 ∧ headEntry (u 4) 0 = some (entry 7 0 0) ∧
      lanternJob (u 4) 0 = some (mooringW, bundleW) ∧ 4 < (lanternAt (u 4) 0).bindQ.length + (updJobs (u 4) 0 0 0 mooringW bundleW 0 false).length) ∧
    headEntry late 0 = some (entry 7 0 0) ∧ lanternJob late 0 = some ({ mooringW with announced := false }, bundleW) :=
  ⟨fun _ => ⟨issuing_inv _ _ (fun _ h => h), inv_modChan (issuing_inv _ _ (fun _ h => h)), issuing_inv _ _ (fun _ h => h),
    issuing_inv _ _ (fun _ h => h)⟩, issuing_inv _ _ (fun _ h => h), by decide, by decide, by decide, by decide, by decide, by decide⟩

theorem witness_ScheduleEntries_waits :
    let w := issuing mooringW (entry 4 15 0) id
    let h := issuing mooringW (entry 4 15 1) id
    let p (v : Nat) := issuing mooringW (entry 4 15 v) (fun y => { y with waiting := true })
    let a := issuing awaiting (entry 6 0 0) id
    let v := issuing serves (entry 6 0 0) id
    let n := issuing { mooringW with holdOpen := true } (entry 6 0 0) id
    let e := works mooringW (fun y => { y with endIssued := true })
    let two := works { mooringW with place := { mooringW.place with replicas := [⟨0, 0, 0, 0, 1, 1⟩, ⟨0, 1, 0, 1, 1, 1⟩] } } (fun y => { y with endIssued := true })
    let lone := works { mooringW with bundle := 9 } (fun y => { y with endIssued := true })
    let b := works mooringW (fun y => { y with
      endIssued := true
      bindQ := [bindJob] })
    w.Inv ∧ h.Inv ∧ a.Inv ∧ v.Inv ∧ n.Inv ∧
    (headEntry w 0 = some (entry 4 15 0) ∧ lanternJob w 0 = some (mooringW, bundleW) ∧ (entry 4 15 0).arg ≤ (lanternAt w 0).events.getD 15 0) ∧
    (headEntry h 0 = some (entry 4 15 1) ∧ lanternJob h 0 = some (mooringW, bundleW) ∧ (lanternAt h 0).events.getD 15 0 < (entry 4 15 1).arg) ∧
    (headEntry a 0 = some (entry 6 0 0) ∧ lanternJob a 0 = some (awaiting, bundleW) ∧ awaiting.holdOpen = false ∧ awaiting.desc.kind ≠ 1) ∧
    (headEntry v 0 = some (entry 6 0 0) ∧ lanternJob v 0 = some (serves, bundleW) ∧ serves.desc.kind = 1) ∧
    (headEntry n 0 = some (entry 6 0 0) ∧ lanternJob n 0 = some ({ mooringW with holdOpen := true }, bundleW)) ∧
    ((lanternAt (p 0) 0).sched[(lanternAt (p 0) 0).pc]? = some (entry 4 15 0) ∧ lanternLive (p 0) 0 = true ∧ (lanternAt (p 0) 0).waiting = true) ∧
    ((lanternAt (p 1) 0).sched[(lanternAt (p 1) 0).pc]? = some (entry 4 15 1) ∧ lanternLive (p 1) 0 = true ∧ (lanternAt (p 1) 0).waiting = true ∧
      (lanternAt (p 1) 0).events.getD 15 0 < 1) ∧
    (lanternLive e 0 = true ∧ (lanternAt e 0).endIssued = true ∧ (lanternAt e 0).endRetired = false ∧ workDone (lanternAt e 0) = true ∧
      lanternJob e 0 = some (mooringW, bundleW) ∧ (turnsOf mooringW.place 0).length ≤ (lanternAt e 0).turn + 1) ∧
    (lanternLive two 0 = true ∧ (lanternAt two 0).endIssued = true ∧ (lanternAt two 0).endRetired = false ∧ workDone (lanternAt two 0) = true ∧
      ∃ m, lanternJob two 0 = some (m, bundleW) ∧ (lanternAt two 0).turn + 1 < (turnsOf m.place 0).length) ∧
    (lanternLive lone 0 = true ∧ (lanternAt lone 0).endIssued = true ∧ (lanternAt lone 0).endRetired = false ∧ workDone (lanternAt lone 0) = true ∧
      lanternJob lone 0 = none) ∧
    lanternLive b 0 = true ∧ (lanternAt b 0).endIssued = true ∧ (lanternAt b 0).endRetired = false ∧ workDone (lanternAt b 0) = false :=
  ⟨issuing_inv _ _ (fun _ h => h), issuing_inv _ _ (fun _ h => h), issuing_inv _ _ (fun _ h => h), issuing_inv _ _ (fun _ h => h),
    issuing_inv _ _ (fun _ h => h), by decide, by decide, by decide, by decide, by decide, by decide, by decide, by decide, ⟨by decide, by decide,
    by decide, by decide, _, rfl, by decide⟩, by decide, by decide⟩

/-- Blocks of a column: none live; live ones further than 8 places apart. -/
theorem witness_ColumnSums :
    let b (e : Nat) (v : Int) : BlockSum := ⟨e, 127, v, false⟩
    let live (bs : List BlockSum) := bs.filter (fun b => decide (b.ea ≠ 0) && decide (b.ea ≠ 255) && decide (b.ew ≠ 0) && decide (b.ew ≠ 255))
    live [b 0 3, b 255 4] = [] ∧ live [b 1 3, b 254 4] ≠ [] ∧ (columnSum 8 0 [b 1 3, b 254 4]).1.i = true ∧ (columnSum 32 5 [b 127 3, b 128 4]).1.i = false := by
  decide

def tile0 : Tile := ⟨false, [], [], 0, 65536⟩

/-- The lens of lantern 0 with jobs in its queue. -/
def lensed (js : List LensJob) (f : Lantern → Lantern) : State := works mooringW (fun y => f { y with lensQ := js })

theorem lensed_inv (js : List LensJob) {f : Lantern → Lantern} (hf : ∀ y : Lantern, y.Ok → (f y).Ok) : (lensed js f).Inv :=
  works_inv _ (fun y hy => hf { y with lensQ := js } hy)

/-- A pass without a drain; a DRAIN descriptor of two rows; a pass that waits for nothing on the tile that stands. -/
def pass1 : LensDesc := { pass0 with drain := false }
def pass2 : LensDesc := { pass1 with newTile := false }
def drain0 : LensDesc :=
  ⟨2, .b4b4, .acc32, .bank, false, false, false, false, false, false, false, 0, 2, 0, 128, 0, 0, 0, 0, 0, 0, 0, 0, 0, true⟩

theorem witness_LensEngine_passes :
    let new := lensed [lensJob pass1] (fun y => { y with
      shadow := some tile0
      loading := some 0 })
    let old := lensed [lensJob pass2] (fun y => { y with tile := some tile0 })
    let held := lensed [lensJob drain0, { lensJob pass2 with order := 1 }] (fun y => { y with tile := some tile0 })
    let way (n : Nat) := lensed [{ lensJob drain0 with draining := true }, { lensJob pass2 with order := 1 }] (fun y => { y with
      tile := some tile0
      drainQ := List.replicate n ⟨9, 0, false, 0, []⟩ })
    let idle := lensed [lensJob pass1] id
    let fast := lensed [lensJob pass1] (fun y => { y with fastClk := true })
    (new.Inv ∧ old.Inv ∧ held.Inv ∧ idle.Inv ∧ fast.Inv) ∧
    (lanternLive new 0 = true ∧ nextPass (lanternAt new 0) = some (lensJob pass1) ∧ passReady new 0 (lensJob pass1) = true ∧
      passHeld (letDrains new 0 (lensJob pass1)) 0 (lensJob pass1) = false ∧ (lanternAt new 0).shadow = some tile0 ∧ new.poison = []) ∧
    (lanternLive old 0 = true ∧ nextPass (lanternAt old 0) = some (lensJob pass2) ∧ passReady old 0 (lensJob pass2) = true ∧
      passHeld (letDrains old 0 (lensJob pass2)) 0 (lensJob pass2) = false ∧ (lanternAt old 0).tile = some tile0 ∧ old.poison = []) ∧
    (lanternLive held 0 = true ∧ nextPass (lanternAt held 0) = some { lensJob pass2 with order := 1 } ∧
      passReady held 0 { lensJob pass2 with order := 1 } = true ∧
      passHeld (letDrains held 0 { lensJob pass2 with order := 1 }) 0 { lensJob pass2 with order := 1 } = true) ∧
    (∀ n, (way n).Inv) ∧
    (∀ n ∈ [0, 32], lanternLive (way n) 0 = true ∧ nextPass (lanternAt (way n) 0) = some { lensJob pass2 with order := 1 } ∧
      passReady (way n) 0 { lensJob pass2 with order := 1 } = true ∧
      passHeld (letDrains (way n) 0 { lensJob pass2 with order := 1 }) 0 { lensJob pass2 with order := 1 } = decide (n = 32)) ∧
    (lanternLive idle 0 = true ∧ (lanternAt idle 0).loading = none ∧ idle.poison = [] ∧
      (lanternAt idle 0).lensQ.find? (fun j => decide (j.desc.opcode = 1) && !j.bad && j.desc.newTile && !j.started) = some (lensJob pass1)) ∧
    nextPass (lanternAt fast 0) = some (lensJob pass1) ∧ lanternLive fast 0 = true ∧ lensEmpty (lanternAt fast 0) = true ∧
    (lanternAt fast 0).fastClk ≠ wantsFast fast 0 pass1 :=
  ⟨⟨lensed_inv _ (fun _ h => h), lensed_inv _ (fun _ h => h), lensed_inv _ (fun _ h => h), lensed_inv _ (fun _ h => h), lensed_inv _ (fun _ h => h)⟩,
    by decide, by decide, by decide, fun _ => lensed_inv _ (fun _ h => h), by decide +kernel, by decide, by decide⟩

theorem witness_LensEngine_drains :
    let gone : LensJob := { lensJob pass0 with
      started := true
      released := true }
    let run : LensJob := { lensJob pass1 with started := true }
    let s := lensed [gone] id
    let d := lensed [lensJob drain0] (fun y => { y with drainQ := List.replicate 31 ⟨9, 0, false, 0, []⟩ })
    let p := lensed [{ gone with draining := true }] (fun y => { y with drainQ := List.replicate 32 ⟨0, 0, false, 0, []⟩ })
    let r := lensed [run] id
    s.Inv ∧ d.Inv ∧ p.Inv ∧ r.Inv ∧
    (lanternLive s 0 = true ∧ nextDrain (lanternAt s 0) = some gone ∧ gone.draining = false ∧ gone ∈ (lanternAt s 0).lensQ ∧
      drainPending gone = true ∧ drainReady (lanternAt s 0) gone = true) ∧
    (lanternLive d 0 = true ∧ nextDrain (lanternAt d 0) = some (lensJob drain0) ∧ (lensJob drain0).desc.opcode = 2 ∧
      (lensJob drain0).desc.maskEn = false ∧ ((lanternAt d 0).lensQ.map (·.order)).Nodup) ∧
    (lanternLive p 0 = true ∧ nextDrain (lanternAt p 0) = some { gone with draining := true } ∧ gone.desc.maskEn = false ∧
      ((lanternAt p 0).lensQ.map (·.order)).Nodup) ∧
    (lanternAt r 0).lensQ.find? (fun j => decide (j.desc.opcode = 1) && j.started && !j.released) = some run ∧
    (lanternAt r 0).lensQ.find? mayRetire = some run :=
  ⟨lensed_inv _ (fun _ h => h), lensed_inv _ (fun _ h => h), lensed_inv _ (fun _ h => h), lensed_inv _ (fun _ h => h), by decide, by decide, by decide,
    by decide, by decide⟩

/-- Lantern 0 with a binding's job in its vector engine. -/
def running (j : BindJob) (f : VEngine → VEngine) : State :=
  works mooringW (fun y => { y with vec := f { y.vec with
    cur := some j
    nrows := 2 } })

theorem running_inv (j : BindJob) {f : VEngine → VEngine} (hf : ∀ v : VEngine, v.Ok → (f v).Ok) : (running j f).Inv :=
  works_inv _ (fun y hy => ⟨hf { y.vec with
    cur := some j
    nrows := 2 } hy.1, hy.2⟩)

def load0 (tags : List Nat) : VLoad := ⟨3, .words, 1, 0, tags, [], [], false⟩

theorem witness_Bindings :
    let w := works mooringW (fun y => { y with bindQ := [bindJob] })
    let k := works mooringW (fun y => { y with bindQ := [{ bindJob with chain := ⟨[], [], [], 4, true⟩ }] })
    let row := running bindJob id
    let fed := { bindJob with drainOf := some 9 }
    let masked := modLantern (running fed id) 0 (fun y => { y with drainQ := [⟨9, 0, true, 0, []⟩] })
    let load := running bindJob (fun v => { v with loadQ := [load0 []] })
    let done := running bindJob (fun v => { v with rowsRun := 2 })
    let alone := modLantern done 0 (fun y => { y with mooring := none })
    (w.Inv ∧ k.Inv ∧ row.Inv ∧ masked.Inv ∧ load.Inv ∧ done.Inv ∧ alone.Inv) ∧
    (lanternLive w 0 = true ∧ (lanternAt w 0).vec.cur = none ∧ (lanternAt w 0).bindQ = [bindJob] ∧ bindJob.update = none ∧ bindJob.chain.keep = false ∧
      carried bindJob.chain 0 = false ∧ (lanternAt k 0).vec.cur = none) ∧
    (lanternLive row 0 = true ∧ (lanternAt row 0).vec.cur = some bindJob ∧ bindJob.drainOf = none ∧ bindJob.phantom = false ∧ bindJob.chain.body = [] ∧
      (lanternAt row 0).vec.todo = [] ∧ (lanternAt row 0).vec.loadQ = [] ∧ (lanternAt row 0).vec.storeQ = [] ∧
      (lanternAt row 0).vec.rowsRun < (lanternAt row 0).vec.nrows) ∧
    (lanternLive masked 0 = true ∧ (lanternAt masked 0).vec.cur = some fed ∧ fed.update = none ∧ fed.drainOf = some 9 ∧
      (lanternAt masked 0).drainQ = [⟨9, 0, true, 0, []⟩] ∧ (lanternAt masked 0).vec.todo = [] ∧ (lanternAt masked 0).vec.loadQ = [] ∧
      (lanternAt masked 0).vec.rowsRun < (lanternAt masked 0).vec.nrows ∧
      mergeWaits (lanternAt masked 0) fed fed.chain.body (lanternAt masked 0).vec.rowsRun = false ∧ (lanternAt masked 0).vec.storeQ = []) ∧
    ((lanternAt load 0).vec.loadQ = [load0 []] ∧ (lanternAt load 0).vec.todo = []) ∧
    (lanternLive alone 0 = true ∧ bindingIssued (lanternAt alone 0) = true ∧ (lanternAt alone 0).vec.cur = some bindJob ∧
      (lanternAt alone 0).vec.storeQ = [] ∧ (lanternAt alone 0).vec.peerTags = [] ∧ (lanternAt alone 0).mooring = none) ∧
    lanternLive done 0 = true ∧ bindingIssued (lanternAt done 0) = true ∧ (lanternAt done 0).mooring = some 5 ∧ mooringAt done 5 = some mooringW ∧
    bindJob.ladder = none :=
  ⟨⟨works_inv _ (fun _ h => h), works_inv _ (fun _ h => h), running_inv _ (fun _ h => h), inv_modLantern (fun _ h => h) (running_inv _ (fun _ h => h)),
    running_inv _ (fun _ h => h), running_inv _ (fun _ h => h), inv_modLantern (fun _ h => h) (running_inv _ (fun _ h => h))⟩,
    by decide, by decide, by decide, by decide, by decide, by decide⟩

/-! ### Witnesses: vector instructions, DMA channels -/

/-- What lantern 0 may reach in its own store. -/
theorem store_reach {s : State} {ctx : Ctx} {off i m : Nat} {wr : Bool} (hp : (lanternAt s 0).phys.isSome = true)
    (hc : ctx = .lantern 0 ∨ ctx = .priv) (h : off + i + m ≤ 0x400000) :
    checkAddr s ctx (storeAddr 0 off + i) m wr = some (.mem (storeAddr 0 off + i)) := by
  have e : storeAddr 0 off + i = 0x20 * 2 ^ 48 + (off + i) := by simp only [storeAddr, localAddr]; omega
  generalize hx : off + i = x at *
  have h0 : ¬ 2 ^ 64 ≤ 0x20 * 2 ^ 48 + x := by omega
  have h1 : bits (0x20 * 2 ^ 48 + x) 63 61 = 0 := by simp only [bits]; omega
  have h2 : bits (0x20 * 2 ^ 48 + x) 60 56 = 0 := by simp only [bits]; omega
  have h3 : bits (0x20 * 2 ^ 48 + x) 55 0 = 0x20 * 2 ^ 48 + x := by simp only [bits]; omega
  have h4 : bits (0x20 * 2 ^ 48 + x) 55 48 = 0x20 := by simp only [bits]; omega
  have h5 : bits (0x20 * 2 ^ 48 + x) 47 40 = 0 := by simp only [bits]; omega
  have h6 : bits (0x20 * 2 ^ 48 + x) 47 0 = x := by simp only [bits]; omega
  have h7 : bits x 47 40 = 0 := by simp only [bits]; omega
  have h8 : x % 2 ^ 40 + m ≤ 0x400000 := by omega
  have hr : regionOf (0x20 * 2 ^ 48 + x) = some .store := by simp only [regionOf, h4]
  rw [e, checkAddr, if_neg h0]
  simp only [h1, h3]
  generalize hA : 0x20 * 2 ^ 48 + x = A at *
  rcases hc with rfl | rfl <;>
    simp [localOk, hr, inRange, h2, h5, h6, h7, h8, enabledLantern, hp, windowOk] <;> omega

/-- A register with one value in all lanes at exponent g; register 3 has a SAT lane. -/
def flat (v g : Int) : VReg := ⟨List.replicate 128 ⟨BitVec.ofInt 64 v, false⟩, [g, g, g, g]⟩

def regs0 : List VReg :=
  [flat 0 0, flat 5 1, flat (-3) 2, ⟨⟨1, true⟩ :: List.replicate 127 ⟨1, false⟩, [7, 0, 0, 0]⟩] ++ List.replicate 60 (flat 9 (-4))

theorem regs0_ok : RegsOk regs0 :=
  ⟨by decide, show ∀ r ∈ regs0, r.lanes.length = 128 ∧ r.g.length = 4 by decide +kernel⟩

/-- Lantern 0 runs a binding over those registers, all lanes in m0, in a mooring whose steps have draws. -/
def vecState (f : VEngine → VEngine) : State := running bindJob (fun v => f { v with
  regs := regs0
  masks := List.replicate 8 (BitVec.allOnes 128)
  idx := some 0
  tables := [⟨4, 2, 0, 3, [(1, 2), (-2 ^ 31, 0)]⟩] })

theorem vecState_inv {f : VEngine → VEngine} (hf : ∀ v : VEngine, v.Ok → (f v).Ok) : (vecState f).Inv :=
  running_inv _ (fun v _ => hf { v with
    regs := regs0
    masks := List.replicate 8 (BitVec.allOnes 128)
    idx := some 0
    tables := [⟨4, 2, 0, 3, [(1, 2), (-2 ^ 31, 0)]⟩] } ⟨regs0_ok, rfl⟩)

def fields (vd va vb vc imm : Nat) : VFields := ⟨vd, va, vb, vc, 0, BitVec.ofNat 24 imm⟩

theorem vecState_running (f : VFields) : Running (vecState id) 0 f :=
  ⟨by decide, by decide, by
    have h : pendingRegs (lanternAt (vecState id) 0).vec = [] := by decide
    have h2 : (lanternAt (vecState id) 0).vec.loadQ = [] := by decide
    simp [stalls, h, h2]⟩

/-- Shift counts at both ends, and operands of the two orders and equal (registers 1 and 2), each with its own exponent. -/
theorem witness_LaneInstructions :
    let a := regAt (lanternAt (vecState id) 0).vec 1
    let b := regAt (lanternAt (vecState id) 0).vec 2
    (vecState id).Inv ∧ (∀ f, Running (vecState id) 0 f) ∧ (fields 63 1 2 3 0).vd < 64 ∧ (fields 0 1 2 3 0).imm.toNat < 64 ∧
    (fields 0 1 2 3 63).imm.toNat < 64 ∧ (fields 0 1 2 3 127).imm.toNat < 128 ∧
    ValueLt (mant b 0, gAt b 0) (mant a 0, gAt a 0) ∧ ¬ ValueLt (mant a 0, gAt a 0) (mant b 0, gAt b 0) ∧
    ¬ ValueLt (mant a 0, gAt a 0) (mant a 0, gAt a 0) ∧
    ((fields 0 1 2 3 1).imm.setWidth 16).toInt = ((0 : Nat) : Int) + 1 ∧ ((fields 0 1 2 3 0).imm.setWidth 16).toInt ≤ 0 :=
  ⟨vecState_inv (fun _ h => h), vecState_running, by decide, by decide, by decide, by decide, by unfold ValueLt; decide, by unfold ValueLt; decide,
    by unfold ValueLt; decide, by decide, by decide⟩

/-- The lanes of register 1 have three bits; a lane of register 3 is SAT; entry 5 of the table's second segment is no value. -/
theorem witness_GroupInstructions :
    let s := vecState id
    let v := (lanternAt s 0).vec
    let a := regAt v 1
    s.Inv ∧ (∀ f, Running s 0 f) ∧ (fields 7 1 2 63 0).vd < 8 ∧ (fields 7 1 2 63 0).vc < 64 ∧
    v.tables[(fields 7 1 2 3 0).imm.toNat % 4]? = some ⟨4, 2, 0, 3, [(1, 2), (-2 ^ 31, 0)]⟩ ∧
    (∀ c, c < 128 → mant a c = 5 ∧ isSat a c = false ∧ (writeMask v (fields 7 1 2 3 0)).getLsbD c = true) ∧ (5 : Int).natAbs < 2 ^ 3 ∧
    2 ^ 3 ≤ 2 * (5 : Int).natAbs ∧ (∀ c, c < 128 → gAt a (c / 32) = 1 ∧ mant a c * 2 ^ (gAt a (c / 32) % 2).toNat < 2 ^ 4 ∧
      2 ^ 4 ≤ 2 * (mant a c * 2 ^ (gAt a (c / 32) % 2).toNat)) ∧
    isSat (regAt v 3) 0 = true ∧ (∀ c, c < 128 → mant (regAt v 0) c = 0) ∧
    lanternJob s 0 = some (mooringW, bundleW) ∧ v.cur = some bindJob ∧ bindJob.update = none ∧ v.idx = some 0 :=
  ⟨vecState_inv (fun _ h => h), vecState_running, by decide, by decide, by decide, by decide +kernel, by decide, by decide, by decide +kernel,
    by decide, by decide +kernel, by decide, by decide, by decide, by decide⟩

/-- Address registers that name the lantern's own store, both ends of it, and nothing. -/
def memState : State := vecState (fun v => { v with addr := [storeAddr 0 64, storeAddr 0 8192, 0, storeAddr 0 (0x400000 - 2048)] ++ List.replicate 4 0 })

theorem mem_ctx : vecCtx memState 0 = .lantern 0 := by decide

theorem mem_reach {off i m : Nat} {wr : Bool} (h : off + i + m ≤ 0x400000) :
    checkAddr memState (vecCtx memState 0) (storeAddr 0 off + i) m wr = some (.mem (storeAddr 0 off + i)) :=
  mem_ctx ▸ store_reach (by decide) (.inl rfl) h

theorem own_store {off i m : Nat} (h : off + i + m ≤ 0x400000) : ownStore memState 0 (storeAddr 0 off + i) m = true := by
  unfold ownStore
  rw [mem_reach h]
  refine decide_eq_true ?_
  simp only [storeAddr, localAddr]
  omega

/-- What a row of n bytes at an offset of the own store is asked to be. -/
theorem local_row {n off imm k : Nat} {wr : Bool} (hk : (lanternAt memState 0).vec.addr.getD k 0 = storeAddr 0 off) (hn : off + n ≤ 0x400000)
    (hi : (BitVec.extractLsb' 9 15 (BitVec.ofNat 24 imm)).toInt = 0) :
    storeAddr 0 off = wrapNat 64 (((lanternAt memState 0).vec.addr.getD k 0 : Int) + (BitVec.extractLsb' 9 15 (BitVec.ofNat 24 imm)).toInt * n) ∧
    storeAddr 0 off + n ≤ 2 ^ 64 ∧ ownStore memState 0 (storeAddr 0 off) n = true ∧
    ∀ i m, 0 < m → i + m ≤ n → checkAddr memState (vecCtx memState 0) (storeAddr 0 off + i) m wr = some (.mem (storeAddr 0 off + i)) ∧
      ownStore memState 0 (storeAddr 0 off + i) m = true := by
  refine ⟨?_, ?_, own_store (i := 0) (by omega), fun i m h1 h2 => ⟨mem_reach (by omega), own_store (by omega)⟩⟩
  · rw [hk, hi]
    simp only [wrapNat, storeAddr, localAddr]
    omega
  · simp only [storeAddr, localAddr]; omega

theorem mem_running (f : VFields) : Running memState 0 f :=
  ⟨by decide, by decide, by
    have h : pendingRegs (lanternAt memState 0).vec = [] := by decide
    have h2 : (lanternAt memState 0).vec.loadQ = [] := by decide
    simp [stalls, h, h2]⟩

theorem witness_RecordAndMemoryInstructions :
    let s := memState
    let v := (lanternAt s 0).vec
    let f := fields 62 1 2 3 8
    let g := fields 62 1 2 3 3
    let far := fields 62 1 2 3 2
    s.Inv ∧ (∀ f, Running s 0 f) ∧ f.vd < 64 ∧ f.vd ≠ 63 ∧ v.cur = some bindJob ∧ mergeWaits (lanternAt s 0) bindJob [⟨0x58, f, true⟩] v.row = false ∧
    v.mbase + (fields 62 1 2 3 1023).imm.toNat % 4096 < entryCount (mergeFmt (fields 62 1 2 3 1023).imm) ∧
    mergeWaits (lanternAt s 0) bindJob [⟨0x58, fields 62 1 2 3 1023, true⟩] v.row = false ∧
    s.poison = [] ∧ v.storeQ = [] ∧ v.loadQ.length < 16 ∧
    (f.imm.toNat % 8 = 0 ∧ f.imm.toNat / 8 % 8 = 1 ∧ g.imm.toNat % 8 = 3) ∧
    (∀ wr, storeAddr 0 64 = wrapNat 64 ((v.addr.getD 0 0 : Int) + (f.imm.extractLsb' 9 15).toInt * 1024) ∧ storeAddr 0 64 + 1024 ≤ 2 ^ 64 ∧
      ownStore s 0 (storeAddr 0 64) 1024 = true ∧ ∀ i m, 0 < m → i + m ≤ 1024 →
        checkAddr s (vecCtx s 0) (storeAddr 0 64 + i) m wr = some (.mem (storeAddr 0 64 + i)) ∧ ownStore s 0 (storeAddr 0 64 + i) m = true) ∧
    (∀ wr, storeAddr 0 (0x400000 - 2048) = wrapNat 64 ((v.addr.getD 3 0 : Int) + (g.imm.extractLsb' 9 15).toInt * 2048) ∧
      storeAddr 0 (0x400000 - 2048) + 2048 ≤ 2 ^ 64 ∧ ownStore s 0 (storeAddr 0 (0x400000 - 2048)) 2048 = true ∧ ∀ i m, 0 < m → i + m ≤ 2048 →
        checkAddr s (vecCtx s 0) (storeAddr 0 (0x400000 - 2048) + i) m wr = some (.mem (storeAddr 0 (0x400000 - 2048) + i)) ∧
        ownStore s 0 (storeAddr 0 (0x400000 - 2048) + i) m = true) ∧
    (∀ wr, storeAddr 0 64 = wrapNat 64 ((v.addr.getD 0 0 : Int) + (f.imm.extractLsb' 9 15).toInt * 64) ∧ storeAddr 0 64 + 64 ≤ 2 ^ 64 ∧
      ownStore s 0 (storeAddr 0 64) 64 = true ∧ ∀ i m, 0 < m → i + m ≤ 64 →
        checkAddr s (vecCtx s 0) (storeAddr 0 64 + i) m wr = some (.mem (storeAddr 0 64 + i)) ∧ ownStore s 0 (storeAddr 0 64 + i) m = true) ∧
    (∀ wr, storeAddr 0 8192 = wrapNat 64 ((v.addr.getD 1 0 : Int) + (f.imm.extractLsb' 9 15).toInt * 4) ∧ storeAddr 0 8192 + 4 ≤ 2 ^ 64 ∧
      ownStore s 0 (storeAddr 0 8192) 4 = true ∧ ∀ i m, 0 < m → i + m ≤ 4 →
        checkAddr s (vecCtx s 0) (storeAddr 0 8192 + i) m wr = some (.mem (storeAddr 0 8192 + i)) ∧ ownStore s 0 (storeAddr 0 8192 + i) m = true) ∧
    4 * blockBytes (fmtOf (bits f.imm.toNat 7 6)) = 64 ∧ (storeAddr 0 64 + 64 < storeAddr 0 8192 ∨ storeAddr 0 8192 + 4 ≤ storeAddr 0 64) ∧
    0 = wrapNat 64 ((v.addr.getD (far.imm.toNat % 8) 0 : Int) + (far.imm.extractLsb' 9 15).toInt * 1024) ∧ checkAddr s (vecCtx s 0) 0 1024 false = none ∧
    checkAddr s (vecCtx s 0) 0 1024 true = none ∧ writeMask v far = BitVec.allOnes 128 :=
  ⟨vecState_inv (fun _ h => h), mem_running, by decide, by decide, by decide, by decide, by decide, by decide, by decide, by decide, by decide, by decide,
    fun _ => local_row (by decide) (by decide) (by decide), fun _ => local_row (by decide) (by decide) (by decide),
    fun _ => local_row (by decide) (by decide) (by decide), fun _ => local_row (by decide) (by decide) (by decide), by decide, by decide, by decide,
    by decide, by decide, by decide⟩

/-- Channel c with one program, privileged or not, of one descriptor of its own at index 0, with changes. -/
def chanWork (p : Bool) (c : Chan) (d : DmaDesc) (f : DmaChan → DmaChan) : State :=
  modChan (works mooringW id) c (fun x => f { x with queue := [⟨[d, .other 1], 0, 0, p⟩] })

abbrev chanState : Chan → DmaDesc → (DmaChan → DmaChan) → State := chanWork false

theorem chanState_inv (p : Bool) (c : Chan) (d : DmaDesc) (f : DmaChan → DmaChan) : (chanWork p c d f).Inv :=
  inv_modChan (works_inv _ (fun _ h => h))

def c0 : Chan := .lantern 0 0

/-- From the start of the lantern's store to 4 KiB on: four lines of 10 bytes into two of 20; a box of runs; one that is bad. -/
def moveA : MoveDesc :=
  ⟨false, 0, 0, false, 0, .b8, 0, 1, 0, storeAddr 0 0, storeAddr 0 4096, 10, 4, 0, 20, 2, 30, 50, 0, 0, 0, true⟩

def move3A : Move3Desc := ⟨0, 1, 5, storeAddr 0 1024, storeAddr 0 8192, [3, 2, 4], [7, -20, 30], [6, 40, -3], true⟩

theorem chan_reach {p : Bool} {d : DmaDesc} {f : DmaChan → DmaChan} {off n : Nat} {wr : Bool} (h : off + n ≤ 0x400000)
    (hp : (lanternAt (chanWork p c0 d f) 0).phys.isSome = true) :
    ∀ o m, 0 < m → o + m ≤ n → checkAddr (chanWork p c0 d f) (chanCtx c0 p) (storeAddr 0 off + o) m wr = some (.mem (storeAddr 0 off + o)) ∧
      bits (storeAddr 0 off + o) 55 48 ≠ 0x30 := by
  refine fun o m _ h2 => ⟨store_reach hp (by cases p <;> simp [chanCtx, c0]) (by omega), ?_⟩
  simp only [bits, storeAddr, localAddr]; omega

theorem witness_DmaChannels_transfers :
    let s := chanState c0 (.move moveA) id
    let t := chanWork true c0 (.move3 move3A) (fun x => { x with mode := .test })
    let x := chanAt s c0
    s.Inv ∧ t.Inv ∧ chanLive s c0 = true ∧ chanLive t c0 = true ∧ (chanHead x).map (·.2) = some (.move moveA) ∧
    (chanHead x).map (·.1.priv) = some false ∧ x.mode = .normal ∧ x.waiting = false ∧ x.signalling = false ∧
    moveCheck c0 moveA = true ∧ moveA.compress = 0 ∧ moveA.ring = false ∧ s.poison = [] ∧
    moveA.src + baseReg x moveA.sreg = storeAddr 0 0 ∧ moveA.dst + baseReg x moveA.dreg = storeAddr 0 4096 ∧
    (∀ o m, 0 < m → o + m ≤ (4 - 1) * 30 + 10 → checkAddr s (chanCtx c0 false) (storeAddr 0 0 + o) m false = some (.mem (storeAddr 0 0 + o)) ∧
      bits (storeAddr 0 0 + o) 55 48 ≠ 0x30) ∧
    (∀ o m, 0 < m → o + m ≤ (2 - 1) * 50 + 20 → checkAddr s (chanCtx c0 false) (storeAddr 0 4096 + o) m true = some (.mem (storeAddr 0 4096 + o)) ∧
      bits (storeAddr 0 4096 + o) 55 48 ≠ 0x30) ∧
    storeAddr 0 0 + ((4 - 1) * 30 + 10) ≤ storeAddr 0 4096 ∧
    (chanHead (chanAt t c0)).map (·.2) = some (.move3 move3A) ∧ (chanHead (chanAt t c0)).map (·.1.priv) = some true ∧
    (chanAt t c0).waiting = false ∧ (chanAt t c0).signalling = false ∧ (chanAt t c0).mode ≠ .normal ∧ move3Check move3A = true ∧ t.poison = [] ∧
    move3Span move3A (storeAddr 0 1024) move3A.sstep = some (storeAddr 0 1004, 129) ∧
    move3Span move3A (storeAddr 0 8192) move3A.dstep = some (storeAddr 0 8183, 66) ∧
    (∀ o m, 0 < m → o + m ≤ 129 → checkAddr t (chanCtx c0 true) (storeAddr 0 1004 + o) m false = some (.mem (storeAddr 0 1004 + o)) ∧
      bits (storeAddr 0 1004 + o) 55 48 ≠ 0x30) ∧
    (∀ o m, 0 < m → o + m ≤ 66 → checkAddr t (chanCtx c0 true) (storeAddr 0 8183 + o) m true = some (.mem (storeAddr 0 8183 + o)) ∧
      bits (storeAddr 0 8183 + o) 55 48 ≠ 0x30) ∧
    storeAddr 0 1004 + 129 ≤ storeAddr 0 8183 :=
  ⟨chanState_inv _ _ _ _, chanState_inv _ _ _ _, by and_intros <;> first | exact chan_reach (by decide) (by decide) | decide⟩

theorem rings_reset : HostRings State.reset := by
  intro f q
  have hf : funcAt State.reset f = Func.reset := by
    simp only [funcAt, State.reset, List.getD_eq_getElem?_getD, List.getElem?_replicate]; split <;> rfl
  have hq : queueAt State.reset f q = Queue.reset := by
    simp only [queueAt, hf, Func.reset, List.getD_eq_getElem?_getD, List.getElem?_replicate]; split <;> rfl
  simp [hq, Queue.reset]

theorem rings_chan (p : Bool) (c : Chan) (d : DmaDesc) (f : DmaChan → DmaChan) : HostRings (chanWork p c d f) := by
  cases c <;> exact rings_reset

theorem witness_DmaChannels_bad :
    let zero := { moveA with slen := 0 }
    let lost := { moveA with src := 0 }
    let test (d : DmaDesc) := chanWork true c0 d (fun x => { x with mode := .test })
    let shut := chanState c0 (.move moveA) (fun x => { x with mode := .test })
    let one (d : DmaDesc) := chanState c0 d id
    (∀ d, (one d).Inv ∧ (test d).Inv ∧ HostRings (one d) ∧ HostRings (test d)) ∧ (chanHead (chanAt (one (.move zero)) c0)).map (·.2) = some (.move zero) ∧
    chanLive (one (.move zero)) c0 = true ∧ (chanAt (one (.move zero)) c0).waiting = false ∧ (chanAt (one (.move zero)) c0).signalling = false ∧
    moveCheck c0 zero = false ∧ (chanAt (one (.move3 move3A)) c0).mode = .normal ∧ (chanAt (test (.move3 move3A)) c0).mode ≠ .normal ∧
    ((chanHead (chanAt (test (.move3 move3A)) c0)).map (·.1.priv) = some true ∧ chanLive (test (.move3 move3A)) c0 = true) ∧
    (shut.Inv ∧ chanLive shut c0 = true ∧ (chanHead (chanAt shut c0)).map (·.1.priv) = some false ∧ (chanAt shut c0).mode ≠ .normal) ∧
    move3Check { move3A with len := 0 } = false ∧ moveCheck c0 lost = true ∧
    spansOk (one (.move lost)) (chanCtx c0 false) (.move (packLimited (one (.move lost)) c0 (absMove (chanAt (one (.move lost)) c0) lost))) = false :=
  ⟨fun _ => ⟨chanState_inv _ _ _ _, chanState_inv _ _ _ _, rings_chan _ _ _ _, rings_chan _ _ _ _⟩, by decide, by decide, by decide, by decide, by decide,
    by decide, by decide, by decide, ⟨chanState_inv _ _ _ _, by decide, by decide, by decide⟩, by decide, by decide, by decide⟩

/-- LOOP at index 1 to index 0, for one more turn and for none; WAIT with its counter at, and below, the value (both 0 here). -/
theorem witness_DmaChannels_control :
    let loop (done : Nat) := chanState c0 (.other 1) (fun x => { x with
      queue := [⟨[.other 1, .loop 0 5 [1, 2, 3, 4] 8191 (-7) 9 true], 0, 0, false⟩]
      pc := 1
      reps := if done = 0 then [] else [(1, done)] })
    let wait (v : Int) (w : Bool) := chanState c0 (.wait false 15 v true) (fun x => { x with waiting := w })
    let sig (g : Bool) (fl : List DmaFlight) := chanState c0 (.signal 11 1 0xFF true) (fun x => { x with
      signalling := g
      flights := fl })
    let fl (tags : List Nat) : DmaFlight := ⟨0, 0, 0, false, 0, tags, none, false⟩
    (∀ n, (loop n).Inv) ∧ (∀ v w, (wait v w).Inv) ∧ (∀ g f, (sig g f).Inv) ∧
    (chanLive (sig true [fl []]) c0 = true ∧ (chanAt (sig true [fl []]) c0).flights.find? (fun f => f.tags.isEmpty && !f.bad) = some (fl []) ∧ (fl []).job = none) ∧
    ((chanAt (sig true [fl [3]]) c0).signalling = true ∧ (chanAt (sig true [fl [3]]) c0).flights = [fl [3]] ∧
      (fl [3]).serial = (chanAt (sig true [fl [3]]) c0).serial ∧ (fl [3]).tags ≠ []) ∧
    ((chanHead (chanAt (sig false []) c0)).map (·.2) = some (.signal 11 1 0xFF true) ∧ signalTarget (sig false []) c0 false 0xFF = some 0 ∧
      (chanAt (sig false []) c0).waiting = false ∧ (chanAt (sig false []) c0).signalling = false ∧ (chanAt (sig true []) c0).flights = [] ∧
      signalTarget (sig true []) c0 false 0xFF = some 0 ∧ (lanternAt (sig true []) 0).events.getD 11 0 + 1 < 2 ^ 32) ∧
    ((chanHead (chanAt (wait 0 false) c0)).map (·.2) = some (.wait false 15 0 true) ∧ (chanAt (wait 0 false) c0).waiting = false ∧
      (0 : Int) + (chanAt (wait 0 false) c0).woff ≤ (lanternAt (wait 0 false) 0).events.getD 15 0 ∧ (chanAt (wait 0 false) c0).signalling = false) ∧
    ((chanAt (wait 1 true) c0).waiting = true ∧ ((lanternAt (wait 1 true) 0).events.getD 15 0 : Int) < 1 + (chanAt (wait 1 true) c0).woff ∧
      (chanAt (wait 0 true) c0).waiting = true) ∧
    ((chanHead (chanAt (loop 0) c0)).map (·.2) = some (.loop 0 5 [1, 2, 3, 4] 8191 (-7) 9 true) ∧ (chanAt (loop 0) c0).pc = 1 ∧
      tget 0 (chanAt (loop 3) c0).reps 1 + 1 < 5 ∧ 5 ≤ tget 0 (chanAt (loop 4) c0).reps 1 + 1) :=
  ⟨fun _ => chanState_inv _ _ _ _, fun _ _ => chanState_inv _ _ _ _, fun _ _ => chanState_inv _ _ _ _, by decide, by decide, by decide,
    by decide, by decide, by decide⟩

/-- The other kind of channel: system channel 15; and the last transfer of a copy that runs on it. -/
theorem witness_DmaChannels_system :
    let s := chanState (.system 15) (.other 1) id
    let f : DmaFlight := ⟨0, 0, 0, true, 0, [], none, false⟩
    let copy := withOp (long9 0 5 (.copy 15 0 0)) (chanState (.system 15) (.other 1) (fun x => { x with
      queue := []
      flights := [f] }))
    (copy.Inv ∧ HostRings copy ∧ chanLive copy (.system 15) = true ∧ (chanAt copy (.system 15)).queue = [] ∧
      (chanAt copy (.system 15)).flights = [f] ∧ long9 0 5 (.copy 15 0 0) ∈ copy.keeper.ops) ∧
    s.Inv ∧ chanLive s (.system 15) = true ∧ (chanHead (chanAt s (.system 15))).map (·.2) = some (.other 1) ∧ (chanAt s (.system 15)).waiting = false ∧
    (chanAt s (.system 15)).signalling = false :=
  ⟨⟨inv_modKeeper (chanState_inv _ _ _ _), rings_reset, by decide, by decide, by decide, by decide⟩,
    chanState_inv _ _ _ _, by decide, by decide, by decide, by decide⟩

/-! ### Witnesses: collectives, verdicts -/

/-- A collective of 64 units of one element, from the start of the store to 16 KiB on, its lengths at 32 KiB. -/
def collDesc (k fmt : Nat) : CollDesc :=
  ⟨k, 1, fmt, false, false, 0, 3, storeAddr 0 0, storeAddr 0 16384, 64, 32, 0, 0, 0, storeAddr 0 32768, 0, true⟩

def collInst (k fmt : Nat) (on : Bool) : CollInst :=
  { coll1 with
    desc := collDesc k fmt
    srcScale := storeAddr 0 65536
    dstScale := storeAddr 0 69632
    started := on }

def collState (x : Mooring) (k fmt : Nat) (on : Bool) : State :=
  modBoot (works x (fun y => { y with coll := [collInst k fmt on] })) (fun b => { b with sizes := [4, 1, 1, 1] })

theorem collState_inv (x : Mooring) (k fmt : Nat) (on : Bool) : (collState x k fmt on).Inv := inv_modBoot (works_inv _ (fun _ h => h))

theorem coll_reach (x : Mooring) (k fmt : Nat) {off n : Nat} {wr : Bool} (h : off + n ≤ 0x400000) :
    ∀ o j, 0 < j → o + j ≤ n → checkAddr (collState x k fmt false) (.lantern 0) (storeAddr 0 off + o) j wr = some (.mem (storeAddr 0 off + o)) :=
  fun o j _ h2 => store_reach (by rfl) (.inl rfl) (by omega)

/-- What Collectives asks of a collective that begins. -/
def Begins (x : Mooring) (k fmt : Nat) : Prop :=
  let s := collState x k fmt false
  let c := collInst k fmt false
  let d := collDesc k fmt
  let reach (a A n : Nat) (wr : Bool) : Prop := ∀ o k, 0 < k → o + k ≤ n → checkAddr s (.lantern 0) (a + o) k wr = some (.mem (A + o))
  let span := roleSpan s x.desc (positionOf x.subs (selfNode s)) d.role
  s.Inv ∧ HostRings s ∧ lanternJob s 0 = some (x, bundleW) ∧ (lanternAt s 0).coll[0]? = some c ∧ (lanternAt s 0).coll.length = 1 ∧
  d.op = k ∧ c.started = false ∧ c.tags = [] ∧ awaitsUpdates s 0 x bundleW c = false ∧ (k = 7 → collNeeds s 0 x c = []) ∧ lanternLive s 0 = true ∧ s.poison = [] ∧ (lanternAt s 0).collHeld = [] ∧ c.replica < c.replicas ∧
  (∀ a, a < 4 → myIdx s x a < (axisAt x.desc a).extent) ∧ (k = 7 → 2 ≤ span.1) ∧
  reach d.src (storeAddr 0 0) (dataBytes d.dfmt d.count).1 false ∧ reach c.srcScale (storeAddr 0 65536) (dataBytes d.dfmt d.count).2 false ∧
  reach d.dst (storeAddr 0 16384) (dataBytes (destFmt d) d.count).1 true ∧ reach d.dst (storeAddr 0 16384) (dataBytes (destFmt d) d.count).1 false ∧
  reach c.dstScale (storeAddr 0 69632) (dataBytes (destFmt d) d.count).2 true ∧
  reach c.dstScale (storeAddr 0 69632) (dataBytes (destFmt d) d.count).2 false ∧
  (k = 7 → reach d.lens (storeAddr 0 32768) (4 * span.1) false)

def pairW : Mooring := { mooringW with desc := descX 0 5 0 2 }

theorem begins (x : Mooring) (k fmt : Nat) (hid : x.desc.id = 5) (hb : x.bundle = 1)
    (hi : ∀ a, a < 4 → myIdx (collState x k fmt false) x a < (axisAt x.desc a).extent)
    (h7 : k = 7 → 2 ≤ (roleSpan (collState x k fmt false) x.desc (positionOf x.subs (selfNode (collState x k fmt false))) 1).1)
    (hs : (roleSpan (collState x k fmt false) x.desc (positionOf x.subs (selfNode (collState x k fmt false))) 1).1 ≤ 4)
    (hu : awaitsUpdates (collState x k fmt false) 0 x bundleW (collInst k fmt false) = false)
    (hc : k = 7 → collNeeds (collState x k fmt false) 0 x (collInst k fmt false) = [])
    (hn : (dataBytes fmt 64).1 ≤ 4096 ∧ (dataBytes fmt 64).2 ≤ 4096 ∧ (dataBytes (destFmt (collDesc k fmt)) 64).1 ≤ 4096 ∧
      (dataBytes (destFmt (collDesc k fmt)) 64).2 ≤ 4096) : Begins x k fmt := by
  refine ⟨collState_inv _ _ _ _, rings_reset, ?_, rfl, rfl, rfl, rfl, rfl, hu, hc, rfl, rfl, rfl, Nat.zero_lt_one, hi, h7, ?_, ?_, ?_, ?_, ?_, ?_, fun _ => ?_⟩
  · have h1 : mooringAt (collState x k fmt false) 5 = some x := by
      show [x].find? (fun m => m.desc.id == 5) = some x
      simp [hid]
    have h2 : bundleAt (collState x k fmt false) x.bundle = some bundleW := by rw [hb]; rfl
    show (mooringAt (collState x k fmt false) 5).bind _ = _
    simp [h1, h2]
  all_goals exact coll_reach x k fmt (by first | (simp only [collDesc] at *; omega) | omega)

theorem witness_Collectives_begin :
    (∀ k ∈ [1, 2, 3, 4, 5, 6], Begins mooringW k 5 ∧ Begins pairW k 0) ∧ Begins pairW 7 5 ∧ roleAxes mooringW.desc 1 = [] ∧
    storeAddr 0 0 + (dataBytes 5 64).1 ≤ storeAddr 0 16384 ∧
    (collState mooringW 2 5 true).Inv ∧ (collInst 2 5 true).started = true :=
  ⟨fun k hk => ⟨begins _ _ _ rfl rfl (by revert k; decide) (by revert k; decide) (by revert k; decide) (by revert k; decide) (by revert k; decide)
      (by revert k; decide),
    begins _ _ _ rfl rfl (by revert k; decide) (by revert k; decide) (by revert k; decide) (by revert k; decide) (by revert k; decide)
      (by revert k; decide)⟩,
    begins _ _ _ rfl rfl (by decide) (by decide) (by decide) (by decide) (by decide +kernel) (by decide), by decide, by decide, collState_inv _ _ _ _, by decide⟩


/-- The instance that has done its stages; one that awaits a carrier peer; a gather behind an update of its tensor. -/
theorem witness_Collectives_end :
    let x : Mooring := mooringW
    let c : CollInst := { collInst 2 5 true with stage := 9 }
    let s := works x (fun y => { y with coll := [c] })
    let far := { collInst 2 5 false with tags := [7] }
    let g := { collInst 2 5 false with order := 1 }
    let u := works x (fun y => { y with
      coll := [g]
      sched := [entry 7 0 0, entry 5 0 0] })
    s.Inv ∧ u.Inv ∧ HostRings s ∧ lanternJob s 0 = some (x, bundleW) ∧ (lanternAt s 0).coll[0]? = some c ∧ c.started = true ∧ c.tags = [] ∧
    (collStages s x c.desc).length ≤ c.stage ∧ s.router.src = [] ∧ c.cut = 0 ∧ (lanternAt s 0).events.getD 14 0 + 1 < 2 ^ 32 ∧ far.tags ≠ [] ∧
    awaitsUpdates u 0 x bundleW g = true :=
  ⟨works_inv _ (fun _ h => h), works_inv _ (fun _ h => h), rings_reset, by and_intros <;> decide⟩

/-- Mooring 5 in its run at step 8 with a step in hand; its contribution formed, or the next step's FAULT formed while it waits. -/
def stepping : Mooring := { ready with
  run := .running
  runCount := 9
  step := 8
  stepOn := true }

def sound : Verdict := Verdict.blank 0

def judged (v : Verdict) : Mooring := { stepping with
  contrib := some v
  provisional := some 7
  timer := true
  lscale := 16 }

/-- Lantern 0 in that mooring, its END retired or not, its fault flag set or not. -/
def ending (x : Mooring) (retired fault : Bool) : State := works x (fun y => { y with
  endRetired := retired
  fault := fault })

theorem ending_inv (x : Mooring) (r f : Bool) : (ending x r f).Inv := works_inv _ (fun _ h => h)

theorem witness_StepVerdicts_contribution :
    let done := ending stepping true false
    let bad := ending stepping false true
    let busy := ending stepping false false
    let next (f : Bool) := ending { stepping with provisional := some 7 } false f
    (∀ x r f, (ending x r f).Inv ∧ HostRings (ending x r f)) ∧
    mooringAt done 5 = some stepping ∧ bundleAt done stepping.bundle = some bundleW ∧ stepping.desc.kind = 0 ∧ stepping.run = .running ∧
    stepping.stepOn = true ∧ stepping.provisional = none ∧ stepping.moving = none ∧ stepping.due = [] ∧
    (∀ l ∈ (List.range 192).filter (fun l => decide ((lanternAt done l).mooring = some 5)), (lanternAt done l).endRetired = true) ∧
    (lanternAt done 0).mooring = some 5 ∧ (lanternAt bad 0).fault = true ∧
    (lanternAt busy 0).mooring = some 5 ∧ (lanternAt busy 0).endRetired = false ∧ stepping.gathered.fault = false ∧
    mooringAt (next true) 5 = some { stepping with provisional := some 7 } ∧ stepping.ahead.contrib = none ∧ (lanternAt (next true) 0).fault = true ∧
    (lanternAt (next false) 0).fault = false :=
  ⟨fun x r f => ⟨ending_inv _ _ _, rings_reset⟩, by and_intros <;> decide⟩

theorem witness_StepVerdicts_verdict :
    let s (v : Verdict) := ending (judged v) true false
    let ovr : Verdict := { sound with overflow := true }
    let bad : Verdict := { sound with fault := true }
    let last : Mooring := { judged bad with replays := 2 }
    let two : Mooring := { judged sound with ahead := { Ahead.blank with contrib := some bad } }
    (∀ v, mooringAt (s v) 5 = some (judged v)) ∧ bundleAt (s sound) 1 = some bundleW ∧
    (∀ v, (judged v).contrib = some v ∧ (judged v).provisional = some 7) ∧ (judged sound).children = [] ∧
    parentNode (s sound) (judged sound) = none ∧ childNodes (s sound) (judged sound) = [] ∧ tenderAxis (judged sound).desc = none ∧
    (judged sound).leaving = [] ∧ (judged sound).rerun = none ∧ (judged sound).due = [] ∧ (∀ v, mayAdvance (s v) (.mooring 5) = true) ∧
    mayAdvance (modKeeper (s bad) (fun k => { k with lastAdv := [(.mooring 5, 0)] })) (.mooring 5) = false ∧ (s sound).keeper.ops = [] ∧ (s sound).keeper.leaveAt = none ∧
    (judged sound).decided + 1 < (judged sound).runCount ∧ sound.fault = false ∧ sound.version = false ∧ sound.overflow = false ∧
    (judged sound).ahead.verdict = none ∧ (judged sound).stepOn = true ∧ (judged sound).ahead.contrib = none ∧
    (mooringAt (ending two true false) 5 = some two ∧ two.ahead.contrib = some bad) ∧ 0 < (judged ovr).lscale ∧
    (mooringAt (windDown (s bad) 5) 5).map (·.overLimit) = some [] ∧ (judged bad).replays < (judged bad).desc.replayMax ∧
    mooringAt (ending last true false) 5 = some last ∧ last.desc.replayMax ≤ last.replays ∧ last.run = .running :=
  ⟨fun _ => by rfl, by decide, fun _ => ⟨rfl, rfl⟩, by
    iterate 7 refine ⟨by decide, ?_⟩
    refine ⟨fun _ => by rfl, ?_⟩
    iterate 12 refine ⟨by decide, ?_⟩
    exact ⟨by decide +kernel, by decide, by decide, by decide, by decide⟩⟩

/-- The timer away from the anchor; a tender copy staged; the anchor's announcement; serving steps; permutes. -/
theorem witness_StepVerdicts_others :
    let away : Mooring := { judged sound with desc := descX 0 5 1 2 }
    let late : Mooring := { away with
      timer := false
      ahead := { Ahead.blank with timer := true } }
    let copy : TenderCopy := ⟨3, none, 0, 64, [], [], [], [], false, some 6, []⟩
    let held : Mooring := { stepping with
      tender := [copy]
      announced := false
      reported := true
      installedBy := [0] }
    let serving : Mooring := { stepping with desc := desc5 1 }
    let move (failed begun : Bool) (want : List (Nat × Nat)) : Mooring := { stepping with
      moving := some ⟨0, .map (desc5 0) [] ⟨[], [], [], [], []⟩ [], [], begun, want, [], 0, 9, [], 0, failed, none, []⟩ }
    let at_ (x : Mooring) := ending x true false
    (mooringAt (at_ away) 5 = some away ∧ away.timer = true ∧ away.provisional.isSome = true ∧ anchorOf away ≠ selfNode (at_ away)) ∧
    (mooringAt (at_ late) 5 = some late ∧ late.timer = false ∧ late.ahead.timer = true ∧ anchorOf late ≠ selfNode (at_ late)) ∧
    (mooringAt (at_ stepping) 5 = some stepping ∧ stepping.timer = false ∧ stepping.ahead.timer = false) ∧
    (mooringAt (at_ held) 5 = some held ∧ held.tender.find? (fun c => c.pos == 3) = some copy ∧ copy.staged = some 6 ∧
      (∀ e ∈ held.tender, e = copy) ∧ copy.staging = [] ∧ parentNode (at_ held) held = none ∧ held.announced = false ∧ held.reported = true) ∧
    (mooringAt (at_ serving) 5 = some serving ∧ serving.desc.kind = 1 ∧ serving.run = .running ∧ serving.stepOn = true ∧ serving.contrib = none ∧
      serving.ends = [] ∧ anchorOf serving = selfNode (at_ serving) ∧ (∀ n ∈ membersOf (at_ serving) serving, n = selfNode (at_ serving)) ∧
      serving.decided + 1 < serving.runCount ∧ serving.step + 1 < 2 ^ 48 ∧ (lanternAt (at_ serving) 0).endRetired = true ∧
      serving.replays < serving.desc.replayMax ∧ (lanternAt (ending serving false true) 0).fault = true) ∧
    (∀ f b w, mooringAt (at_ (move f b w)) 5 = some (move f b w) ∧ (move f b w).moving.map (fun v => (v.asker, v.failed, v.begun, v.want)) = some (9, f, b, w)) ∧
    selfNode (at_ stepping) ≠ 9 ∧ (at_ stepping).router.src = [] :=
  ⟨by decide, by decide, by decide, by decide, by decide, fun _ _ _ => ⟨by rfl, rfl⟩, by decide, by decide⟩

/-! ### Witnesses: beacons, resets, probes, guests -/

/-- Lantern 0 at work with the counts of samples that its counters have stood. -/
def sampledAt (still waits : List Nat) (f : Lantern → Lantern) : State := works stepping (fun y => f { y with
  still := still
  waits := waits })

theorem witness_WatchAndRecovery_beacon :
    let idle := lit id State.reset
    let lens (k : Nat) := sampledAt [k, 0, 0, 0] [0, 0, 0] (fun y => { y with lensQ := [lensJob pass1] })
    let wait (k : Nat) := sampledAt [0, 0, 0, k] [0, 0, 0] (fun y => { y with waiting := true })
    (idle.Inv ∧ (∀ k, (lens k).Inv ∧ (wait k).Inv)) ∧
    (lanternAt idle 0).running = false ∧
    ((lanternAt (lens 6) 0).phys.isSome = true ∧ (lanternAt (lens 6) 0).running = true ∧ (lanternAt (lens 6) 0).endRetired = false ∧
      (lanternAt (lens 6) 0).holding = false ∧ (lanternAt (lens 6) 0).updHold = false ∧ (lanternAt (lens 6) 0).rst.active = false ∧
      (towerAt (lens 6) 0).rst.active = false ∧ engineBusy (lanternAt (lens 6) 0) 0 = true ∧
      (lanternAt (lens 6) 0).beacon.getD 0 0 = (lanternAt (lens 6) 0).sampled.getD 0 0 ∧ (lanternAt (lens 6) 0).still.getD 0 0 = 6 ∧
      (lanternAt (lens 6) 0).waiting = false) ∧
    ((lanternAt (lens 7) 0).still.getD 0 0 = 7 ∧ engineBusy (lanternAt (lens 7) 0) 0 = true ∧ engineWaits (lanternAt (lens 7) 0) 0 = false ∧
      (lanternAt (lens 7) 0).running = true ∧ (lanternAt (lens 7) 0).waits.getD 0 0 < 7 ∧ engineBusy (lanternAt (lens 7) 0) 1 = false ∧ engineBusy (lanternAt (lens 7) 0) 2 = false) ∧
    ((lanternAt (wait 7) 0).waiting = true ∧ (∀ i, i < 3 → (lanternAt (wait 7) 0).beacon.getD i 0 = (lanternAt (wait 7) 0).sampled.getD i 0) ∧
      (∀ i, i < 3 → engineBusy (lanternAt (wait 7) 0) i = false) ∧ 7 ≤ (lanternAt (wait 7) 0).still.getD 3 0) :=
  ⟨⟨lit_inv (fun _ h => h) reset_inv, fun _ => ⟨works_inv _ (fun _ h => h), works_inv _ (fun _ h => h)⟩⟩, by decide, by decide, by decide, by decide⟩

theorem witness_WatchAndRecovery_resets :
    let one (t : Bool) := works stepping (fun y => { y with rst := ⟨true, 3, t, false⟩ })
    let all_ := modTower (modBoot State.reset (fun b => { b with state := 2 })) 3 (fun x => { x with rst := ⟨true, 3, false, false⟩ })
    let owing (d : Domain) := modKeeper State.reset (fun k => { k with
      owed := [d]
      daymark := 2 ^ 32 - 1 })
    let due : Mooring := { stepping with due := [.verdict 7 sound] }
    let stay (x : Mooring) := modKeeper (works x id) (fun k => { k with lastAdv := [(.mooring 5, 0)] })
    (∀ t, (one t).Inv) ∧ all_.Inv ∧ HostRings (one true) ∧ ((due.due ≠ [] ∧ mooringAt (stay due) 5 = some due ∧ mayAdvance (stay due) (.mooring 5) = false ∧
      .mooring 5 ∉ (stay due).keeper.owed)) ∧
    ((lanternAt (one false) 0).rst.active = true ∧ (lanternAt (one false) 0).rst.test = false ∧ (lanternAt (one false) 0).rst.held = false ∧
      (towerAt (one false) 0).rst.active = false ∧ ∀ m ∈ (one false).moorings, m.handlingFor = none ∧ (m.paused = true → m.faulted = false)) ∧ (.lantern 0 ∉ (one false).keeper.owed) ∧
    ((towerAt all_ 3).rst.active = true ∧ (towerAt all_ 3).rst.held = false ∧ (∀ l, l / 48 = 3 → (lanternAt all_ l).rst.test = false) ∧ all_.boot.state = 2 ∧
      all_.moorings = [] ∧ all_.keeper.owed = []) ∧
    (lanternAt all_ 0).rst.active = false ∧
    ((lanternAt (one true) 0).phys = some 0 ∧ (lanternAt (one true) 0).rst.test = true ∧ (one true).keeper.transients = [] ∧
      1 < (one true).keeper.policy.transient) ∧
    (.keeper ∈ (owing .keeper).keeper.owed ∧ (owing .keeper).keeper.lastAdv = [] ∧ (owing .keeper).keeper.daymark + 1 = 2 ^ 32) ∧
    (.lantern 191 ∈ (owing (.lantern 191)).keeper.owed ∧ .keeper ∉ (owing (.lantern 191)).keeper.owed) :=
  ⟨fun _ => works_inv _ (fun _ h => h), inv_modTower (inv_modBoot reset_inv), rings_reset, by decide, by decide, by decide,
    ⟨by decide, by decide, fun l _ => by
      show ((List.replicate 192 Lantern.reset).getD l Lantern.reset).rst.test = false
      rw [List.getD_eq_getElem?_getD, List.getElem?_replicate]
      split <;> rfl, by decide, by decide, by decide⟩,
    by decide, by decide, by decide, by decide, by decide⟩

theorem witness_WatchAndRecovery_probes :
    let probing : Mooring := { wide 2 with probing := [32768] }
    let s (x : Mooring) := moored x (modBoot State.reset (fun b => { b with sizes := [4, 1, 1, 1] }))
    let far : Mooring := { moorOf 0 with desc := descX 0 5 0 4, acting := some 32768 }
    let silent : Mooring := { far with probing := [32768] }
    (∀ x, (s x).Inv) ∧
    (mooringAt (s probing) 5 = some probing ∧ 32768 ∈ probing.probing ∧ probing.recovering = [] ∧ probing.electing = none ∧
      anchorOf probing = selfNode (s probing)) ∧ (mooringAt (s (wide 2)) 5 = some (wide 2) ∧ 32768 ∉ (wide 2).probing) ∧
    (65536 ∉ (wide 2).probing ∧ 65536 ∉ membersOf (s (wide 2)) (wide 2) ∧ 65536 ≠ selfNode (s (wide 2))) ∧
    (mooringAt (s silent) 5 = some silent ∧ 32768 ∈ silent.probing ∧ silent.recovering = [] ∧ silent.electing = none ∧ anchorOf silent = 32768 ∧
      32768 ≠ selfNode (s silent)) ∧
    (0 ∈ membersOf (s (wide 2)) (wide 2) ∧ 32768 ∈ membersOf (s (wide 2)) (wide 2) ∧ 32768 ≠ selfNode (s (wide 2)) ∧
      anchorOf (wide 2) = selfNode (s (wide 2))) ∧
    (mooringAt (s far) 5 = some far ∧ 0 ∈ membersOf (s far) far ∧ 32768 ∈ membersOf (s far) far ∧ anchorOf far ≠ selfNode (s far) ∧ 0 = selfNode (s far)) :=
  ⟨fun _ => moored_inv _ (inv_modBoot reset_inv), by decide, by decide, by decide, by decide, by decide, by decide⟩

theorem witness_WatchAndRecovery_guests :
    let s := modShore (modBoot State.reset (fun b => { b with lpddr := true })) 11 (fun c => { c with
      running := true
      maps := [(64, 64)] })
    let bad := { s with poison := [64] }
    let ld : VLoad := ⟨1, .words, 0, 0, [], [], [], false⟩
    let v := lit (fun y => { y with vec := { y.vec with loadQ := [ld] } }) State.reset
    s.Inv ∧ bad.Inv ∧ v.Inv ∧
    ((s.shore.getD 11 ShoreCore.reset).running = true ∧ (∀ w ∈ (s.shore.getD 11 ShoreCore.reset).maps, 63 < w.1 ∨ w.1 + w.2 ≤ 63) ∧
      (∀ w ∈ (s.shore.getD 11 ShoreCore.reset).maps, 128 < w.1 ∨ w.1 + w.2 ≤ 128) ∧ (s.shore.getD 0 ShoreCore.reset).running = false) ∧ (0x10000000 ≤ 0x1000FFFF ∧ 0x1000FFFF < 0x10010000) ∧
    ((∃ w ∈ (s.shore.getD 11 ShoreCore.reset).maps, w.1 ≤ 64 ∧ 64 < w.1 + w.2) ∧ ∀ b, isPoisoned s b 1 = false) ∧
    (checkAddr bad (.shore 11) 127 1 false = some (.mem 127) ∧ isPoisoned bad 127 1 = true) ∧
    ((lanternAt v 0).vec.loadQ = [ld] ∧ ld.fail = false) ∧ (chanAt v (.system 15)).flights = [] :=
  ⟨inv_modShore (inv_modBoot reset_inv), inv_modShore (inv_modBoot reset_inv),
    lit_inv (f := fun y => { y with vec := { y.vec with loadQ := [⟨1, .words, 0, 0, [], [], [], false⟩] } }) (fun _ h => h) reset_inv, by decide, by decide,
    ⟨by decide, fun _ => rfl⟩, by decide, by decide, by decide⟩

/-! ### Witnesses: links, the router -/

/-- Port 7 with changes, on a carrier of four modules. -/
def ported (f : Port → Port) : State := modPort (modBoot State.reset (fun b => { b with sizes := [4, 4, 4, 4] })) 7 f

/-- A packet made whole: header CRC and trailer as they must be. -/
def whole (p : Packet) : Packet := sealHeader { p with trailer := packetCrc p }

/-- A packet of a type, class and requester mark from node 1 to this module that opens its stream. -/
def pkt (typ cls dmk : Nat) : Packet :=
  whole ⟨typ, cls, false, false, false, true, dmk, 0, 1, 1, 5, 9, 0, 8, 8, 0, 64, natLE 8 7, 0, 1, none⟩

theorem crc_sealed (p : Packet) (x h : Nat) : packetCrc { p with trailer := x, hcrc := h } = packetCrc p := rfl

theorem whole_trailer (p : Packet) : (whole p).trailer = packetCrc (whole p) := (crc_sealed p _ _).symm

/-- The one flit of a packet of eight bytes. -/
def flit0 : List Byte := ((packetFlitsOf (pkt 1 0 1)).headD (false, [])).2


/-- Port 7 up with nothing in hand, or with changes. -/
def upState (f : Port → Port) : State := ported (fun x => f { x with
  up := true
  peerOn := 0xFF })

theorem ported_eq (f : Port → Port) (q : Nat) : portAt (ported f) q = if q = 7 then f Port.reset else Port.reset := by
  by_cases h : q < 8
  · revert h; revert q; exact fun q h => by
      match q, h with
      | 0, _ | 1, _ | 2, _ | 3, _ | 4, _ | 5, _ | 6, _ | 7, _ => rfl
  · have h7 : q ≠ 7 := by omega
    rw [if_neg h7]
    show (ported f).router.ports.getD q Port.reset = _
    rw [List.getD_eq_getElem?_getD, List.getElem?_eq_none (by show 8 ≤ q; omega)]
    rfl

theorem ported_inv (f : Port → Port) : (ported f).Inv := by
  unfold ported
  exact inv_modPort (inv_modBoot reset_inv)

theorem witness_Links :
    let s := upState id
    let x := portAt s 7
    let rest : Codeword := ⟨true, List.replicate 16 0, 0, 0, []⟩
    let one : Codeword := ⟨true, List.replicate 16 0, 1, 0, [flit0]⟩
    let bad : Codeword := ⟨false, [], 0, 0, []⟩
    let many := upState (fun x => { x with burst := List.replicate 7 0 })
    let fifth := upState (fun x => { x with txWords := 4 })
    let told := upState (fun x => { x with txTimes := [(3, 10)] })
    let train := ported (fun x => { x with training := true })
    let e (p : BitVec 16) (l : Bool) (t : Nat) : LinkTrain := ⟨p, p, p, l, l, l, [⟨0, 0, 0, t * 65536⟩]⟩
    (∀ f, (ported f).Inv) ∧ (portAt State.reset 7).up = false ∧
    (x.up = true ∧ x.asm = none ∧ x.owner = none ∧ x.txFlits = [] ∧ s.router.waiting = [] ∧
      ∀ q, (portAt s q).vcs.flatten = [] ∧ (portAt s q).asm = none) ∧
    ({ rest with cwseq := 15 }.cwseq ≠ x.cwseq ∧ rest.cwseq = x.cwseq ∧ rest.sop = 0 ∧ one.cwseq = x.cwseq ∧ one.sop = 1 ∧ x.vcs.length = 8 ∧
      one.flits[0]? = some flit0) ∧
    (flit0.length = 64 ∧ needOf flit0 = 1 ∧ headerDrop (packetOfBytes flit0) = none ∧ 2 ≤ (packetOfBytes flit0).hops ∧
      (packetOfBytes flit0).dest = 0 ∧ basePort s 0 = none ∧ ∀ v, x.vcs.getD v [] = []) ∧
    (bad.ok = false ∧ x.burst.length < 7 ∧ 7 ≤ (portAt many 7).burst.length ∧ nowNs many < (portAt many 7).burst.getD 6 0 + 1000000) ∧
    (x.txWords % 5 ≠ 4 ∧ (portAt fifth 7).txWords % 5 = 4) ∧
    (portAt told 7).txTimes.find? (fun e => e.1 == 3) = some (3, 10) ∧
    ((portAt s 7).training = false ∧ (portAt train 7).training = true ∧ (portAt train 7).heldBy = 0 ∧
      tripExceeds (e 0xFFFF true 200) 200 = false ∧ tripExceeds (e 0xFF00 true 0) 200 = false ∧ tripExceeds (e 0xFFFF true 201) 200 = true ∧
      tripExceeds (e 0xFFFF true 400) 400 = false ∧ tripExceeds (e 0xFFFF true 401) 400 = true) :=
  ⟨ported_inv, by decide, ⟨by decide, by decide, by decide, by decide, by decide, fun q => by
      rw [show upState id = ported (fun x => { x with
        up := true
        peerOn := 0xFF }) from rfl, ported_eq]
      split <;> exact ⟨rfl, rfl⟩⟩,
    ⟨by decide, by decide, by decide, by decide, by decide, by decide, rfl⟩, ⟨by decide +kernel, by decide +kernel, by decide +kernel, by decide +kernel, by decide +kernel, by decide,
      fun v => by
        show (List.replicate 8 []).getD v [] = []
        rw [List.getD_eq_getElem?_getD, List.getElem?_replicate]
        split <;> rfl⟩, by decide, by decide, by decide, by decide⟩

/-- A packet of class 0 made here. -/
def far (dest : Nat) : Packet := ⟨1, 0, false, false, false, true, 1, dest, 0, 1, 5, 9, 0, 8, 8, 0, 64, [], 0, 1, none⟩

def lineX : State := modBoot State.reset (fun b => { b with sizes := [1, 4, 4, 1] })

theorem lineX_inv : lineX.Inv := inv_modBoot reset_inv

def lineUp (ports : List Nat) (on : BitVec 8) : State := modRouter lineX (fun r => { r with
  ports := (List.range 8).map (fun i => if ports.contains i then { Port.reset with
    up := true
    peerOn := on } else Port.reset) })

theorem lineUp_inv (ps : List Nat) (on : BitVec 8) : (lineUp ps on).Inv := inv_modRouter (by rfl) lineX_inv

theorem witness_Routing :
    let s := lineUp [2] 0xFF
    let off := lineUp [2] 0
    let side := lineUp [4] 0xFF
    let lone := modBoot (lineUp [] 0) (fun b => { b with sizes := [1, 4, 1, 1] })
    let here := lineUp [2] 0xFF
    let q : Packet := pkt 1 0 1
    let full := ported (fun x => { x with vcs := [⟨q, .deliver, false, 0, 0⟩] :: List.replicate 7 [] })
    let bent : LightEntry := ⟨1, 1, 8, 4, 1⟩
    (s.Inv ∧ off.Inv ∧ side.Inv ∧ lone.Inv ∧ full.Inv) ∧ (far 1024).via = none ∧ s.router.waiting = [] ∧ basePort s 0 = none ∧
    (basePort s 1024 = some 2 ∧ lightList s = [] ∧ (portAt s 2).up = true ∧ (portAt s 2).txFlits = [] ∧ (portAt s 2).owner = none ∧
      (∀ v, waitsAhead s 2 v = false) ∧ (portAt s 2).peerOn = 0xFF) ∧
    (basePort off 1024 = some 2 ∧ (portAt off 2).up = true ∧ (portAt off 2).peerOn = 0) ∧
    (basePort side 1024 = some 2 ∧ (portAt side 2).up = false ∧ defaultSidestep side 2 = some 4 ∧ (portAt side 4).up = true) ∧
    (basePort lone 1024 = some 2 ∧ (portAt lone 2).up = false ∧ defaultSidestep lone 2 = none) ∧
    ((portAt here 2).up = true ∧ (portAt here 2).asm = none ∧ (∀ v, (portAt here 2).vcs.getD v [] = []) ∧ 2 ≤ q.hops) ∧
    headerDrop q = none ∧ headerDrop (whole { q with hops := 1 }) = none ∧
    ((portAt full 7).vcs.getD 0 [] = [⟨q, .deliver, false, 0, 0⟩] ∧ 0 < (portAt full 7).vcs.length ∧ 5 < (portAt full 7).drops.length) ∧
    (roomFor (portAt here 2) 0 34 = some 1) ∧ escapeAcyclic lone [] [] = true ∧ escapeAcyclic lone [bent] [] = true ∧
    (let all_ : LightEntry := ⟨0, 0, 8, 2, 1⟩
     escapeAcyclic (modBoot State.reset (fun b => { b with sizes := [1, 4, 2, 1] })) [all_] [(1024, [all_]), (2048, [all_]), (3072, [all_])] = false) :=
  ⟨⟨lineUp_inv _ _, lineUp_inv _ _, lineUp_inv _ _, inv_modBoot (lineUp_inv _ _), ported_inv _⟩, rfl, by decide, by decide,
    ⟨by decide, by decide, by decide, by decide, by decide, fun _ => rfl, by decide⟩, by decide, by decide, by decide, 
    ⟨by decide, by decide, fun v => by
        show (List.replicate 8 []).getD v [] = []
        rw [List.getD_eq_getElem?_getD, List.getElem?_replicate]
        split <;> rfl, by decide⟩, by decide +kernel, by decide +kernel, ⟨rfl, by decide, by decide⟩, by decide, by decide +kernel, by decide +kernel, by decide +kernel⟩

/-! ### Witnesses: carrier peers, streams, trust -/

/-- Mooring 5 of daymark 1, whose windows are the first 4 KiB, and packets that name it. -/
def peers (f : Router → Router) (g : Lantern → Lantern) : State := modRouter (works mooringW g) f

theorem peers_inv {f : Router → Router} {g : Lantern → Lantern} (hf : ∀ r, (f r).ports.length = r.ports.length) (hg : ∀ y : Lantern, y.Ok → (g y).Ok) :
    (peers f g).Inv := inv_modRouter (hf _) (works_inv _ hg)

theorem pkt_inTurn (typ cls dmk : Nat) {s : State} (h : selfNode s = 0) : InTurn s (pkt typ cls dmk) :=
  ⟨by rw [h]; rfl, whole_trailer _, .inl rfl⟩

def ld9 : VLoad := ⟨1, .words, 0, 0, [9], [], [], false⟩

/-- A request outstanding under tag 9, of a load, or of a store. -/
def asked9 (who : PeerFor) : State := peers (fun r => { r with reqs := [⟨9, 8, who, .lantern 0⟩] }) (fun y => { y with vec := { y.vec with
    loadQ := [ld9]
    peerTags := [9] } })

theorem asked9_inv (who : PeerFor) : (asked9 who).Inv := peers_inv (fun _ => rfl) (fun _ h => h)

theorem witness_CarrierPeers :
    let s := peers id id
    let none_ := { s with moorings := [] }
    let open_ := modKeeper s (fun k => { k with debug := true })
    let data := asked9 (.vecLoad 0 0 0 8)
    let done := asked9 (.vecStore 0 3 4)
    s.Inv ∧ none_.Inv ∧ open_.Inv ∧ data.Inv ∧ done.Inv ∧ HostRings data ∧ (∀ t c k, InTurn s (pkt t c k) ∧ InTurn data (pkt t c k)) ∧
    (pkt 1 0 1).dest = selfNode s ∧ (pkt 1 0 1).dmk = 1 ∧ (pkt 2 0 1).typ = 2 ∧ rlenOk (pkt 2 0 1).rlen = true ∧
    (servesMooring s 5 = some (some mooringW) ∧ mooringAt s 5 = some mooringW ∧ (pkt 1 0 1).daymark = mooringW.daymark) ∧
    (peerTargetOk s (some mooringW) 64 8 = true ∧ peerTargetOk s (some mooringW) 4096 8 = false ∧ peerTargetOk s none 4096 8 = true ∧
      peerTargetOk s none (0x50 * 2 ^ 48) 8 = false ∧ peerTargetOk open_ none (0x30 * 2 ^ 48) 8 = true ∧ s.poison = []) ∧
    (s.boot.state ≠ 3 ∧ servesMooring s 0xFFFF = some none ∧ mooringAt s 0xFFFF = none) ∧ (servesMooring none_ 5 = none ∧ mooringAt none_ 5 = none) ∧
    (reqAt data 9 = some ⟨9, 8, .vecLoad 0 0 0 8, .lantern 0⟩ ∧ (pkt 3 1 2).tag = 9 ∧ (pkt 3 1 2).daymark = domainDaymark data (.lantern 0) ∧
      (lanternAt data 0).vec.loadQ = [ld9] ∧ ld9.tags.contains 9 = true ∧ bits (pkt 3 1 2).arg 7 0 ≠ 0 ∧
      bits (whole { pkt 3 1 2 with arg := 0 }).arg 7 0 = 0) ∧
    (reqAt done 9 = some ⟨9, 8, .vecStore 0 3 4, .lantern 0⟩ ∧ (lanternAt done 0).vec.peerTags.contains 9 = true) ∧
    (∀ p : Packet, { p with trailer := packetCrc p + 1 }.trailer ≠ packetCrc { p with trailer := packetCrc p + 1 }) ∧
    (dstAt s 1 0 = none ∧ { pkt 1 0 1 with start := false }.start = false) ∧ (reqAt s 9 = none) ∧
    (mooringAt s (pkt 1 0 1).mooring = some mooringW ∧ (mooringW.daymark + 2 ^ 32 - 2 % 2 ^ 32) % 2 ^ 32 ≠ 0) :=
  ⟨peers_inv (fun _ => rfl) (fun _ h => h), peers_inv (f := id) (g := id) (fun _ => rfl) (fun _ h => h), inv_modKeeper (peers_inv (fun _ => rfl) (fun _ h => h)),
    asked9_inv _, asked9_inv _, rings_reset, fun _ _ _ => ⟨pkt_inTurn _ _ _ (by decide), pkt_inTurn _ _ _ (by decide)⟩, by decide, by decide, by decide,
    by decide, by decide, by decide, by decide, by decide, by decide, by decide,
    fun p h => Nat.succ_ne_self _ (h.trans (crc_sealed p _ p.hcrc)), by decide, by decide, by decide⟩

/-- A stream to node 1 of class 1 with a packet not yet acknowledged, after some expiries. -/
def stream (n : Nat) : SrcStream := ⟨1, 1, 3, false, [(0, pkt 3 1 2)], [], n, 0⟩

def streaming (f : Router → Router) : State := modRouter (modBoot State.reset (fun b => { b with keeperUp := true })) f

/-- The work of mooring 5 with a COLL entry in its role. -/
def collecting : State := { works mooringW id with keeper := { (works mooringW id).keeper with
  bundles := [{ bundleW with p := { bundleW.p with roles := [⟨0, 1, 1, 1, 0, 0, [entry 5 0 0], true⟩] } }] } }

theorem witness_Streams :
    let src (n : Nat) := streaming (fun r => { r with src := [stream n] })
    let none_ := streaming (fun r => { r with src := [{ stream 0 with unacked := [] }] })
    let again := streaming (fun r => { r with
      src := [stream 0]
      waiting := [⟨{ pkt 3 1 2 with
        dest := 1
        resent := true }, .out 2 false, false, 0, 0⟩] })
    let dst (n : Nat) := streaming (fun r => { r with dst := [⟨1, 1, 4, n, none⟩] })
    let k := modBoot collecting (fun b => { b with keeperUp := true })
    let coll := whole { pkt 8 0 1 with arg := 0 }
    (∀ n, (src n).Inv ∧ (dst n).Inv) ∧ none_.Inv ∧ again.Inv ∧ collecting.Inv ∧ k.Inv ∧
    (InTurn collecting coll ∧ coll.typ = 8 ∧ coll.dmk = 1 ∧ mooringAt collecting coll.mooring = some mooringW ∧ coll.daymark = mooringW.daymark ∧
      bits coll.arg 35 28 < 0xFE ∧ packetLantern collecting coll = some 0 ∧ (lanternAt collecting 0).coll = [] ∧ (lanternAt collecting 0).collHeld.length < 64) ∧
    (mooringW.daymark + 2 ^ 32 - (whole { coll with daymark := 2 }).daymark % 2 ^ 32) % 2 ^ 32 ≠ 0 ∧
    (InTurn k (pkt 0x0A 0 0) ∧ k.boot.keeperUp = true ∧ k.boot.state ≠ 3 ∧ mooringAt k 5 = some mooringW ∧ (pkt 0x0A 0 0).src ≠ selfNode k) ∧
    State.reset.boot.keeperUp = false ∧
    ((∀ t, (pkt t 3 0).dest = selfNode (src 0) ∧ (pkt t 3 0).trailer = packetCrc (pkt t 3 0)) ∧ (pkt 0x10 3 0).tag % 4 = 1 ∧
      streamAt (src 0) 1 1 = some (stream 0) ∧ (stream 0).held = [] ∧ bit (pkt 0x11 3 0).arg 0 = false ∧
      bit (whole { pkt 0x11 3 0 with arg := 1 }).arg 0 = true ∧ resending (src 0) 1 1 0 = false ∧ 4 < (src 0).router.cnt.length ∧
      streamAt again 1 1 = some (stream 0) ∧ resending again 1 1 0 = true) ∧
    (dstAt (dst 1) 1 1 = some ⟨1, 1, 4, 1, none⟩ ∧ dstAt (dst 0) 1 1 = some ⟨1, 1, 4, 0, none⟩) ∧
    (streamAt none_ 1 1 = some { stream 0 with unacked := [] } ∧ (stream 6).unacked ≠ [] ∧ (stream 6).expiries < 7 ∧ 7 ≤ (stream 7).expiries ∧
      (src 7).moorings = [] ∧ (∀ q ∈ streamPackets (stream 7), q.typ ≠ 1 ∧ q.typ ≠ 2)) ∧
    ∀ l, (lanternAt (src 7) l).coll = [] :=
  ⟨fun _ => ⟨inv_modRouter (by rfl) (inv_modBoot reset_inv), inv_modRouter (by rfl) (inv_modBoot reset_inv)⟩, inv_modRouter (by rfl) (inv_modBoot reset_inv),
    inv_modRouter (by rfl) (inv_modBoot reset_inv), works_inv mooringW (f := id) (fun _ h => h), inv_modBoot (works_inv mooringW (f := id) (fun _ h => h)),
    ⟨⟨by decide, whole_trailer _, .inl rfl⟩, by and_intros <;> decide⟩, by decide,
    ⟨pkt_inTurn _ _ _ (by decide), by decide, by decide, by decide, by decide⟩, by decide, ⟨fun _ => ⟨rfl, whole_trailer _⟩, by decide, by rfl, by decide,
      by decide, by decide, by decide, by decide, by rfl, by decide⟩, by decide, ⟨by rfl, List.cons_ne_nil _ _, by decide, by decide, by decide, by decide⟩, fun l => by
      show ((List.replicate 192 Lantern.reset).getD l Lantern.reset).coll = []
      rw [List.getD_eq_getElem?_getD, List.getElem?_replicate]
      split <;> rfl⟩

/-- The chain's length is open: one that holds a byte. -/
theorem witness_TrustMessages (h : 0 < certChain.length) :
    let s (a : Bool) := modBoot State.reset (fun b => { b with
      keeperUp := true
      identity := true
      spdmAlgs := a })
    (∀ a, (s a).Inv) ∧ doeUp State.reset = false ∧ doeUp (s true) = true ∧ (s true).boot.spdmAlgs = true ∧ (s false).boot.spdmAlgs = false ∧
    0 < certChain.length :=
  ⟨fun _ => inv_modBoot reset_inv, by decide, by decide, by decide, by decide, h⟩

/-! ### Ill-formed commands: one for each check of WellFormed -/

/-- A function above 43, a mailbox above 3, a register field above its width, a channel, a packet field and a reset unit that
the part has not. -/
theorem test_illFormed_parts :
    Mbox.ok ⟨44, 0⟩ = false ∧ Mbox.ok ⟨43, 4⟩ = false ∧ VFields.ok ⟨64, 0, 0, 0, 0, 0⟩ = false ∧ VFields.ok ⟨0, 64, 0, 0, 0, 0⟩ = false ∧
    VFields.ok ⟨0, 0, 64, 0, 0, 0⟩ = false ∧ VFields.ok ⟨0, 0, 0, 64, 0, 0⟩ = false ∧ VFields.ok ⟨0, 0, 0, 0, 16, 0⟩ = false ∧
    Chan.ok (.lantern 192 0) = false ∧ Chan.ok (.lantern 0 4) = false ∧ Chan.ok (.system 16) = false ∧ ResetUnit.ok (.lantern 192) = false ∧
    ResetUnit.ok (.tower 4) = false := by decide

theorem test_illFormed_packets :
    let p : Packet := far 0
    p.ok = true ∧ { p with typ := 256 }.ok = false ∧ { p with cls := 4 }.ok = false ∧ { p with dmk := 4 }.ok = false ∧ { p with dest := 2 ^ 18 }.ok = false ∧
    { p with src := 2 ^ 18 }.ok = false ∧ { p with payload := List.replicate 2049 0 }.ok = false ∧ { p with daymark := 2 ^ 32 }.ok = false ∧
    { p with mooring := 2 ^ 16 }.ok = false ∧ { p with tag := 4096 }.ok = false ∧ { p with seq := 2 ^ 32 }.ok = false ∧ { p with hops := 256 }.ok = false ∧
    { p with rlen := 4096 }.ok = false ∧ { p with hcrc := 2 ^ 16 }.ok = false ∧ { p with arg := 2 ^ 64 }.ok = false ∧
    { p with domain := 2 ^ 32 }.ok = false := by decide +kernel

theorem test_illFormed_commands :
    Instr.wf (.nop ⟨44, 0⟩) = false ∧ Instr.wf (.identify ⟨0, 4⟩) = false ∧ Instr.wf (.queueHeadWrite 44 0 0) = false ∧
    Instr.wf (.queueHeadWrite 0 16 0) = false ∧ Instr.wf (.moderationTimer 0 16) = false ∧ Instr.wf (.intStatusClear 44 0 0) = false ∧
    Instr.wf (.deadlineExpiry 44 0) = false ∧ Instr.wf (.vfFlr [0] false) = false ∧ Instr.wf (.vfFlr [32] false) = false ∧
    Instr.wf (.busMasterEnableClear 32) = false ∧ Instr.wf (.fillHoldExpiry 192) = false ∧ Instr.wf (.schedEnd 192) = false ∧
    Instr.wf (.vAdd 192 ⟨0, 0, 0, 0, 0, 0⟩) = false ∧ Instr.wf (.vAdd 0 ⟨64, 0, 0, 0, 0, 0⟩) = false ∧ Instr.wf (.move (.system 16)) = false ∧
    Instr.wf (.send 192 0) = false ∧ Instr.wf (.send 0 4) = false ∧ Instr.wf (.beaconSample 192) = false ∧
    Instr.wf (.computeResetDone (.tower 4)) = false ∧ Instr.wf (.shoreAccessFault 12 0) = false ∧ Instr.wf (.codewordReceive 8 []) = false ∧
    Instr.wf (.codewordReceive 0 [[1024]]) = false ∧ Instr.wf (.lossOfLock 8) = false ∧ Instr.wf (.packetHop (some 8) (far 0)) = false ∧
    Instr.wf (.packetHop none { far 0 with typ := 256 }) = false ∧ Instr.wf (.headWaitTimeout 0 8) = false ∧ Instr.wf (.headWaitTimeout 8 0) = false ∧
    Instr.wf (.peerWrite { far 0 with typ := 256 }) = false := by decide

theorem test_illFormed_lightList : Instr.wf (.lightListInstall (List.replicate 257 ⟨0, 0, 0, 0, 0⟩) []) = false := by decide +kernel

/-! ### Small tests, their values worked out by hand from the rules named -/

/-- The requantised block of the worked example after R52: B8, MAXFIT, h = 0, to nearest even and by one draw. -/
theorem test_requantise_example :
    let a : List (Int × Bool) := [(181000, false), (-5000, false), (1000, false)] ++ List.replicate 29 (0, false)
    let u : List Nat := List.replicate 32 (0x6D3A0F12 * 2 ^ 32)
    (requantise a (-10) .b8 none 0 false u).e = 0x80 ∧ (requantise a (-10) .b8 none 0 false u).m.take 3 = [88, -2, 0] ∧
    (requantise a (-10) .b8 none 0 true u).m.take 3 = [88, -2, 1] ∧ (requantise a (-10) .b8 none 2 false u).e = 0x82 ∧
    (requantise a (-10) .b8 none 2 false u).m.take 1 = [22] := by decide +kernel

/-- The renormalised B4 block of that example. -/
theorem test_requantise_renormalises :
    let a : List (Int × Bool) := [(15, false), (-9, false), (4, false)] ++ List.replicate 29 (0, false)
    (requantise a (-3) .b4 none 0 false []).e = 0x7E ∧ (requantise a (-3) .b4 none 0 false []).m.take 3 = [4, -2, 1] := by decide +kernel

/-- The worked example of a contraction split in two (after R111): the four passes summed one after the other. -/
theorem test_padd_example :
    let p (v : Int) (x : Int) : Rec := ⟨v, 0, x, false, false, false⟩
    let w := padd (padd (padd (p 1250000 (-12)) (p (-402117) (-9))) (p 7003 (-12))) (p 96513 (-15))
    w = ⟨-243484, 0x64000000, -9, false, false, false⟩ ∧
    padd (p 7003 (-12)) (p 96513 (-15)) = ⟨19067, 0x20000000, -12, false, false, false⟩ := by decide

/-- R109: the record, then the index, least significant byte first. -/
theorem test_winnerBytes :
    let w : Winner := ⟨⟨-2, 3, -1, false, true, false⟩, 0x0102⟩
    (winnerBytes w).length = 24 ∧ (winnerBytes w).take 16 = recBytes w.r ∧ (winnerBytes w).drop 16 = [2, 1, 0, 0, 0, 0, 0, 0] ∧
    winnerOfBytes (winnerBytes w) = w := by decide

/-- R306, by the worked example of where DATA sits: 900,027 rows among 16 members. -/
theorem test_divideUnits_example :
    divideUnits 900027 16 0 = (0, 56252) ∧ divideUnits 900027 16 10 = (562520, 56252) ∧ divideUnits 900027 16 11 = (618772, 56251) ∧
    divideUnits 900027 16 15 = (843776, 56251) := by decide

/-- R264, by the worked example of a lost link. -/
theorem test_nodeOf_example : nodeOf [3, 5, 9, 2] = 103714 ∧ nodeOf [3, 6, 9, 2] = 104738 := by decide

/-- R263: a packet of 2,048 bytes takes 33 flits, one of none takes one. -/
theorem test_flits : flitsOf 2048 = 33 ∧ flitsOf 2040 = 33 ∧ flitsOf 0 = 1 ∧ flitsOf 24 = 1 ∧ flitsOf 32 = 2 := by decide

/-- R165, by the worked example of a saved activation: 22 present blocks with W 5 take 492 bytes, padded to 496. -/
theorem test_frame_example :
    (packFrame (List.replicate 22 (120, 15 :: List.replicate 31 0) ++ List.replicate 10 (0, List.replicate 32 0))).length = 496 := by decide +kernel

/-- R345: daymarks skip 0. -/
theorem test_daymark : nextDaymark (2 ^ 32 - 1) = 1 ∧ nextDaymark 1 = 2 := by decide

/-- R126: 5 * 2^1 aligned to exponent 2 is 2 (the tie goes to even), and 2 + -3 is -1. -/
theorem test_add_aligns :
    ∃ t, exec (.vAdd 0 (fields 9 1 2 3 0)) (vecState id) = .next t ∧ (regAt (lanternAt t 0).vec 9).g = [2, 2, 2, 2] ∧
      laneAt (regAt (lanternAt t 0).vec 9) 127 = ⟨-1, false⟩ := ⟨_, rfl, by decide +kernel, by decide +kernel⟩

/-- R256, R257: of five codewords that leave, the last carries a control flit, which counts one. -/
theorem test_fifthCodeword :
    let y (n : Nat) := portAt (sendCodeword (upState (fun x => { x with txWords := n })) 7) 7
    (y 3).txCseq = 0 ∧ (y 4).txCseq = 1 ∧ (y 4).txWords = 5 := by decide +kernel


end Sys2Proof.Machine
end

section
/-! PROOFS. The checks of every command (R374, R377, R382, R372): what refuses a request before its command's own checks, one
lemma for each refusal, with the order of notes/assumptions/12.md. -/

namespace Sys2Proof.Machine

section CommandCheck

variable {s : State} {f : Nat} {r : Request} {i : CmdInfo}

/-! ### The checks that any state of bring-up makes first -/

theorem commandCheck_of_badHeader (hok : r.ok = false) : commandCheck s f r = some stBadHeader := by
  rw [commandCheck, hok]
  rfl

theorem commandCheck_of_unknownOpcode (hok : r.ok = true) (hi : cmdInfo r.opcode = none) :
    commandCheck s f r = some stBadOpcode := by
  rw [commandCheck, hok, hi]
  rfl

theorem commandCheck_of_earlyLight (hok : r.ok = true) (hi : cmdInfo r.opcode = some i) (hb : s.boot.state = 1)
    (he : i.early = false) : commandCheck s f r = some stNotReady := by
  simp [commandCheck, hok, hi, hb, he]

/-! ### The checks of full service -/

/-- In full light the header, the opcode and the refusals of early light and of router-only mode
(R382, R355) drop out of the checks. -/
theorem commandCheck_in_fullLight (hok : r.ok = true) (hi : cmdInfo r.opcode = some i) (hb : s.boot.state = 2) :
    commandCheck s f r =
      if r.opcode = 0x0020 ∧ oversize s = true then some stOutOfService
      else if i.cls = .T ∧ (mooringAt s r.mooring).isNone = true then some stNoMooring
      else if classOk s f i.cls r.mooring = false then some stPrivilege
      else if i.long = true then
        if completionBound s f r.cq = false then some stNoQueue
        else if 4096 ≤ (queueAt s f r.cq).staged.length then some stQueueFull
        else if tagFree s f r.tag = false then some stField
        else none
      else none := by
  simp [commandCheck, hok, hi, hb]

/-- MOORING_OPEN is a long command of class A that early light accepts (R380, R382). -/
theorem cmdInfo_mooringOpen : cmdInfo 0x0020 = some ⟨.A, true, true⟩ := rfl

/-- A command of a class other than A is not MOORING_OPEN, so the torus's size does not refuse it. -/
theorem opcode_ne_mooringOpen (hi : cmdInfo r.opcode = some i) (hc : i.cls ≠ .A) : r.opcode ≠ 0x0020 := by
  intro h
  rw [h, cmdInfo_mooringOpen] at hi
  cases hi
  exact hc rfl

theorem classOk_A (mooring : Nat) : classOk s f .A mooring = true := rfl

theorem classOk_O_of_not_pf (mooring : Nat) (hf : f ≠ 0) : classOk s f .O mooring = false := decide_eq_false hf

theorem commandCheck_of_oversize (hok : r.ok = true) (hop : r.opcode = 0x0020) (hb : s.boot.state = 2)
    (ho : oversize s = true) : commandCheck s f r = some stOutOfService := by
  have hi : cmdInfo r.opcode = some ⟨.A, true, true⟩ := by rw [hop, cmdInfo_mooringOpen]
  rw [commandCheck_in_fullLight hok hi hb, if_pos ⟨hop, ho⟩]

theorem commandCheck_of_notPf (hok : r.ok = true) (hi : cmdInfo r.opcode = some i) (hb : s.boot.state = 2)
    (hc : i.cls = .O) (hf : f ≠ 0) : commandCheck s f r = some stPrivilege := by
  have hop : r.opcode ≠ 0x0020 := opcode_ne_mooringOpen hi (by simp [hc])
  simp [commandCheck_in_fullLight hok hi hb, hop, hc, classOk_O_of_not_pf r.mooring hf]

theorem commandCheck_of_noMooring (hok : r.ok = true) (hi : cmdInfo r.opcode = some i) (hb : s.boot.state = 2)
    (hc : i.cls = .T) (hm : mooringAt s r.mooring = none) : commandCheck s f r = some stNoMooring := by
  have hop : r.opcode ≠ 0x0020 := opcode_ne_mooringOpen hi (by simp [hc])
  simp [commandCheck_in_fullLight hok hi hb, hop, hc, hm]

theorem commandCheck_of_noQueue (hok : r.ok = true) (hi : cmdInfo r.opcode = some i) (hb : s.boot.state = 2)
    (hc : i.cls = .A) (hl : i.long = true) (ho : r.opcode = 0x0020 → oversize s = false)
    (hq : completionBound s f r.cq = false) : commandCheck s f r = some stNoQueue := by
  have hsize : ¬ (r.opcode = 0x0020 ∧ oversize s = true) := fun ⟨h, h'⟩ => by simp [ho h] at h'
  simp [commandCheck_in_fullLight hok hi hb, hsize, hc, classOk_A r.mooring, hl, hq]

end CommandCheck

/-- Settles O9, check by check in the model's order. -/
theorem commandChecks : Obligations.CommandChecks := by
  intro s f r
  refine ⟨?badHeader, ?badOpcode, ?notReady, ?privilege, ?noMooring, ?noQueue, ?outOfService⟩
  case badHeader => exact commandCheck_of_badHeader
  case badOpcode => exact commandCheck_of_unknownOpcode
  case notReady => exact fun i => commandCheck_of_earlyLight
  case privilege => exact fun i => commandCheck_of_notPf
  case noMooring => exact fun i => commandCheck_of_noMooring
  case noQueue => exact fun i => commandCheck_of_noQueue
  case outOfService => exact commandCheck_of_oversize

end Sys2Proof.Machine
end

section
/-! PROOFS. What every step keeps: State.Inv holds after reset, every command keeps it, and so does every step. -/

namespace Sys2Proof.Machine

/-- Every command keeps the invariant: the lemma about its own meaning, command by command. -/
theorem inv_exec {s : State} (c : Instr) (h : s.Inv) : OutcomeInv (exec c s) := by
  cases c with
  | nop => exact inv_execNop h
  | identify => exact inv_execIdentify h
  | cqBind => exact inv_execCqBind h
  | cqUnbind => exact inv_execCqUnbind h
  | hwinOpen => exact inv_execHwinOpen h
  | hwinClose => exact inv_execHwinClose h
  | abort => exact inv_execAbort h
  | bundleLoad => exact inv_execBundleLoad h
  | bundleUnload => exact inv_execBundleUnload h
  | bundleStore => exact inv_execBundleStore h
  | mooringOpen => exact inv_execMooringOpen h
  | mooringGrow => exact inv_execMooringGrow h
  | mooringShrink => exact inv_execMooringShrink h
  | mooringMove => exact inv_execMooringMove h
  | mooringLend => exact inv_execMooringLend h
  | mooringClose => exact inv_execMooringClose h
  | mooringStatus => exact inv_execMooringStatus h
  | runSteps => exact inv_execRunSteps h
  | tensorWrite => exact inv_execTensorWrite h
  | tensorRead => exact inv_execTensorRead h
  | snapshotSave => exact inv_execSnapshotSave h
  | snapshotRestore => exact inv_execSnapshotRestore h
  | snapshotDelete => exact inv_execSnapshotDelete h
  | shoreStart => exact inv_execShoreStart h
  | shoreStop => exact inv_execShoreStop h
  | selftest => exact inv_execSelftest h
  | returnToService => exact inv_execReturnToService h
  | faultPolicy => exact inv_execFaultPolicy h
  | setSplit => exact inv_execSetSplit h
  | timeRoot => exact inv_execTimeRoot h
  | telemetryRead => exact inv_execTelemetryRead h
  | eventLogRead => exact inv_execEventLogRead h
  | powerSet => exact inv_execPowerSet h
  | attest => exact inv_execAttest h
  | fwWrite => exact inv_execFwWrite h
  | fwActivate => exact inv_execFwActivate h
  | debugMode => exact inv_execDebugMode h
  | accTagRead => exact inv_execAccTagRead h
  | queueHeadWrite => exact inv_execQueueHeadWrite h
  | intStatusClear => exact inv_execIntStatusClear h
  | registerWrite => exact inv_execRegisterWrite h
  | moderationTimer => exact inv_execModerationTimer h
  | deadlineExpiry => exact inv_execDeadlineExpiry h
  | forwardTimeout => exact inv_execForwardTimeout h
  | perstN => exact inv_execPerstN h
  | pfFlr => exact inv_execPfFlr h
  | vfFlr => exact inv_execVfFlr h
  | busMasterEnableClear => exact inv_execBusMasterEnableClear h
  | memorySpaceEnableClear => exact inv_execMemorySpaceEnableClear h
  | powerGood => exact inv_execPowerGood h
  | bringupRetry => exact inv_execBringupRetry h
  | earlyLight => exact inv_execEarlyLight h
  | fullLight => exact inv_execFullLight h
  | inputStageStart => exact inv_execInputStageStart h
  | inputVoltageChange => exact inv_execInputVoltageChange h
  | pwrEn => exact inv_execPwrEn h
  | railFault => exact inv_execRailFault h
  | ballastSample => exact inv_execBallastSample h
  | governorTick => exact inv_execGovernorTick h
  | thermalSample => exact inv_execThermalSample h
  | hardwareThermalTrip => exact inv_execHardwareThermalTrip h
  | fillHoldExpiry => exact inv_execFillHoldExpiry h
  | pwrBrakeAssert => exact inv_execPwrBrakeAssert h
  | pwrBrakeRelease => exact inv_execPwrBrakeRelease h
  | referenceLost => exact inv_execReferenceLost h
  | referenceRestored => exact inv_execReferenceRestored h
  | ppsPulse => exact inv_execPpsPulse h
  | ppsTimeout => exact inv_execPpsTimeout h
  | watchdogMiss => exact inv_execWatchdogMiss h
  | keeperRestart => exact inv_execKeeperRestart h
  | trialFirmwareConfirm => exact inv_execTrialFirmwareConfirm h
  | heartbeatTick => exact inv_execHeartbeatTick h
  | snapshotCreditGrow => exact inv_execSnapshotCreditGrow h
  | retentionScan => exact inv_execRetentionScan h
  | memoryScrub => exact inv_execMemoryScrub h
  | correctedEccBurst => exact inv_execCorrectedEccBurst h
  | stepStart => exact inv_execStepStart h
  | schedEnd => exact inv_execSchedEnd h
  | endRetire => exact inv_execEndRetire h
  | lens => exact inv_execLens h
  | chain => exact inv_execChain h
  | dma => exact inv_execDma h
  | wait => exact inv_execWait h
  | waitSatisfied => exact inv_execWaitSatisfied h
  | coll => exact inv_execColl h
  | hold => exact inv_execHold h
  | update => exact inv_execUpdate h
  | pass => exact inv_execPass h
  | drain => exact inv_execDrain h
  | drainStart => exact inv_execDrainStart h
  | tileLoadStart => exact inv_execTileLoadStart h
  | tileRelease => exact inv_execTileRelease h
  | lensDescriptorRetire => exact inv_execLensDescriptorRetire h
  | lensClockChange => exact inv_execLensClockChange h
  | bindingStart => exact inv_execBindingStart h
  | chainRowStart => exact inv_execChainRowStart h
  | bindingRetire => exact inv_execBindingRetire h
  | loadArrival => exact inv_execLoadArrival h
  | vMov => exact inv_execVMov h
  | vLdi => exact inv_execVLdi h
  | vSetg => exact inv_execVSetg h
  | vScale => exact inv_execVScale h
  | vGetg => exact inv_execVGetg h
  | vSel => exact inv_execVSel h
  | vNop => exact inv_execVNop h
  | vAdd => exact inv_execVAdd h
  | vSub => exact inv_execVSub h
  | vNeg => exact inv_execVNeg h
  | vAbs => exact inv_execVAbs h
  | vMul => exact inv_execVMul h
  | vMulsh => exact inv_execVMulsh h
  | vMadd => exact inv_execVMadd h
  | vMsub => exact inv_execVMsub h
  | vMin => exact inv_execVMin h
  | vMax => exact inv_execVMax h
  | vClamp => exact inv_execVClamp h
  | vAddi => exact inv_execVAddi h
  | vMuli => exact inv_execVMuli h
  | vResc => exact inv_execVResc h
  | vRescf => exact inv_execVRescf h
  | vAlign => exact inv_execVAlign h
  | vNorm => exact inv_execVNorm h
  | vAnd => exact inv_execVAnd h
  | vOr => exact inv_execVOr h
  | vXor => exact inv_execVXor h
  | vNot => exact inv_execVNot h
  | vShli => exact inv_execVShli h
  | vShra => exact inv_execVShra h
  | vShrl => exact inv_execVShrl h
  | vCeq => exact inv_execVCeq h
  | vCne => exact inv_execVCne h
  | vClt => exact inv_execVClt h
  | vCle => exact inv_execVCle h
  | vCgt => exact inv_execVCgt h
  | vCge => exact inv_execVCge h
  | vCsat => exact inv_execVCsat h
  | vMand => exact inv_execVMand h
  | vMor => exact inv_execVMor h
  | vMnot => exact inv_execVMnot h
  | vTlu => exact inv_execVTlu h
  | vRecip => exact inv_execVRecip h
  | vRsqrt => exact inv_execVRsqrt h
  | vLog2i => exact inv_execVLog2i h
  | vRand => exact inv_execVRand h
  | vRbits => exact inv_execVRbits h
  | vReq => exact inv_execVReq h
  | vReqr => exact inv_execVReqr h
  | vRec => exact inv_execVRec h
  | vRjam => exact inv_execVRjam h
  | vRadd => exact inv_execVRadd h
  | vMergeAdd => exact inv_execVMergeAdd h
  | vMergeRead => exact inv_execVMergeRead h
  | vMergeTake => exact inv_execVMergeTake h
  | vRsum => exact inv_execVRsum h
  | vRmax => exact inv_execVRmax h
  | vRmin => exact inv_execVRmin h
  | vRcnt => exact inv_execVRcnt h
  | vLdb => exact inv_execVLdb h
  | vStb => exact inv_execVStb h
  | vLdw => exact inv_execVLdw h
  | vStw => exact inv_execVStw h
  | vLdr => exact inv_execVLdr h
  | vStr => exact inv_execVStr h
  | move => exact inv_execMove h
  | loop => exact inv_execLoop h
  | dmaWait => exact inv_execDmaWait h
  | dmaWaitSatisfied => exact inv_execDmaWaitSatisfied h
  | signal => exact inv_execSignal h
  | signalIncrement => exact inv_execSignalIncrement h
  | move3 => exact inv_execMove3 h
  | channelStop => exact inv_execChannelStop h
  | reduceScatter => exact inv_execReduceScatter h
  | allGather => exact inv_execAllGather h
  | allReduce => exact inv_execAllReduce h
  | broadcast => exact inv_execBroadcast h
  | send => exact inv_execSend h
  | recv => exact inv_execRecv h
  | allToAllV => exact inv_execAllToAllV h
  | permute => exact inv_execPermute h
  | collectiveComplete => exact inv_execCollectiveComplete h
  | verdictContribution => exact inv_execVerdictContribution h
  | verdict => exact inv_execVerdict h
  | verdictTimerExpiry => exact inv_execVerdictTimerExpiry h
  | tenderInstall => exact inv_execTenderInstall h
  | tenderAnnounce => exact inv_execTenderAnnounce h
  | servingStepEnd => exact inv_execServingStepEnd h
  | beaconSample => exact inv_execBeaconSample h
  | computeResetDone => exact inv_execComputeResetDone h
  | resetHangLimit => exact inv_execResetHangLimit h
  | targetedTestResult => exact inv_execTargetedTestResult h
  | daymarkAdvance => exact inv_execDaymarkAdvance h
  | probeTimeout => exact inv_execProbeTimeout h
  | shoreAccessFault => exact inv_execShoreAccessFault h
  | codewordReceive => exact inv_execCodewordReceive h
  | controlFlit => exact inv_execControlFlit h
  | lossOfLock => exact inv_execLossOfLock h
  | controlFlitTimeout => exact inv_execControlFlitTimeout h
  | linkTrainingDone => exact inv_execLinkTrainingDone h
  | retrainTimer => exact inv_execRetrainTimer h
  | packetHop => exact inv_execPacketHop h
  | headWaitTimeout => exact inv_execHeadWaitTimeout h
  | lightListInstall => exact inv_execLightListInstall h
  | peerWrite => exact inv_execPeerWrite h
  | peerRead => exact inv_execPeerRead h
  | peerData => exact inv_execPeerData h
  | peerDone => exact inv_execPeerDone h
  | collPacket => exact inv_execCollPacket h
  | keeperMsg => exact inv_execKeeperMsg h
  | ack => exact inv_execAck h
  | nak => exact inv_execNak h
  | ackTimer => exact inv_execAckTimer h
  | streamTimeout => exact inv_execStreamTimeout h
  | timeServoTick => exact inv_execTimeServoTick h
  | holdoverTimeout => exact inv_execHoldoverTimeout h
  | rootReselect => exact inv_execRootReselect h
  | pldmEffecterWrite => exact inv_execPldmEffecterWrite h
  | pldmFirmwareUpdate => exact inv_execPldmFirmwareUpdate h
  | mctpControl => exact inv_execMctpControl h
  | getVersion => exact inv_execGetVersion h
  | getCapabilities => exact inv_execGetCapabilities h
  | negotiateAlgorithms => exact inv_execNegotiateAlgorithms h
  | getDigests => exact inv_execGetDigests h
  | getCertificate => exact inv_execGetCertificate h
  | challenge => exact inv_execChallenge h
  | getMeasurements => exact inv_execGetMeasurements h
  | dmaDescriptorRetire => exact inv_execDmaDescriptorRetire h
  | flashProgramOrEraseDone => exact inv_execFlashProgramOrEraseDone h
  | fullBistGroupEnd => exact inv_execFullBistGroupEnd h
  | linkDownReport => exact inv_execLinkDownReport h
  | hostWindowError => exact inv_execHostWindowError h
  | busMasterEnableSet => exact inv_execBusMasterEnableSet h
  | memorySpaceEnableSet => exact inv_execMemorySpaceEnableSet h
  | vfEnableSet => exact inv_execVfEnableSet h
  | perstNRelease => exact inv_execPerstNRelease h

/-- The queue of commands is no part of the invariant. -/
theorem inv_pending {s : State} (cs : List Instr) (h : s.Inv) : { s with pending := cs }.Inv := h

theorem inv_step {s : State} (h : s.Inv) : OutcomeInv (step s) := by
  unfold step
  split
  case h_1 => exact outcomeInv_next h
  case h_2 c cs _ => exact inv_exec c (inv_pending cs h)

/-- Settles O3, part by part. -/
theorem resetMeetsTheInvariant : Obligations.ResetMeetsTheInvariant :=
  have shape : State.reset.Shape :=
    ⟨lanternsOk_reset, funcsOk_reset, rfl, rfl, rfl, rfl⟩
  have memory : State.reset.MemoryOk := rfl
  ⟨shape, memory⟩

/-- Settles O4: a step idles or runs one command, and every command keeps the invariant. -/
theorem everyStepKeepsTheInvariant : Obligations.EveryStepKeepsTheInvariant :=
  fun _ _ h e => outcomeInv_apply (inv_step h) e

end Sys2Proof.Machine
end

section
/-! PROOFS. Carrier-peer requests: a write at its target that a poisoned line drops (R143). -/

namespace Sys2Proof.Machine

/-- A module in full service whose first line of LPDDR5X is poisoned. -/
def poisonedFirstLine : State := addPoison (modBoot State.reset (fun b => { b with state := 2 })) 0

/-- A PEER_WRITE of privileged work that opens its stream: one 8-byte word, part of the first line of LPDDR5X. -/
def writeFirstWord : Packet :=
  finishPacket { Packet.blank with
    typ := 1
    dmk := 1
    start := true
    payload := natLE 8 1 }

theorem poisonedFirstLine_inv : poisonedFirstLine.Inv :=
  ⟨⟨lanternsOk_reset, funcsOk_reset, rfl, rfl, rfl, rfl⟩, rfl⟩

/-- Neither the trailer nor the header check enters the CRC of a packet (R266). -/
theorem packetCrc_sealed (p : Packet) (trailer hcrc : Nat) :
    packetCrc { p with trailer := trailer, hcrc := hcrc } = packetCrc p := by
  unfold packetCrc
  rfl

/-- A packet as its source finishes it bears its own CRC. -/
theorem finishPacket_trailer (p : Packet) : (finishPacket p).trailer = packetCrc (finishPacket p) :=
  (packetCrc_sealed { p with hops := 96, esc := false, dl := false } _ _).symm

theorem writeFirstWord_dest : writeFirstWord.dest = selfNode poisonedFirstLine := rfl

theorem writeFirstWord_inTurn : InTurn poisonedFirstLine writeFirstWord :=
  ⟨writeFirstWord_dest, finishPacket_trailer _, .inl rfl⟩

/-- A byte of the state that a command leaves, none where it stops. -/
def byteAfter (c : Instr) (s : State) (a : Nat) : Option Byte :=
  match exec c s with
  | .next t => some (readByte t a)
  | _ => none

/-- The word written is 1; the byte read after it is still 0, as the write covers only part of a poisoned line (R143). -/
theorem poisonedFirstLine_dropsWrite : byteAfter (.peerWrite writeFirstWord) poisonedFirstLine 0 = some 0 := by
  decide +kernel

/-- Refutes O20: a write that covers part of a poisoned line is dropped at its target (R143), and the statement asks for the
bytes written whatever is poisoned. -/
theorem not_carrierPeers : ¬ Obligations.CarrierPeers := by
  intro h
  obtain ⟨hreq, -⟩ := h poisonedFirstLine writeFirstWord poisonedFirstLine_inv writeFirstWord_dest
  obtain ⟨hwrite, -⟩ := hreq none writeFirstWord_inTurn rfl rfl (fun m hm => by cases hm)
  obtain ⟨t, ht, -, -, hbytes, -⟩ := hwrite rfl rfl
  have written : readByte t 0 = 1 := hbytes (by decide) 0 (by decide)
  have kept : some (readByte t 0) = some 0 := by
    rw [← poisonedFirstLine_dropsWrite, byteAfter, ht]
  rw [written] at kept
  exact absurd kept (by decide)

end Sys2Proof.Machine
end

section
/-! PROOFS. Bring-up to early light (R433, R434, R438, R440, R443): how it begins, where its stages stop, and what the Keeper's
first look at the mailboxes leaves. -/

namespace Sys2Proof.Machine

section Boot

variable {s t u : State} {b : BringUp}

/-! ### The first examination of the mailboxes (R407) -/

theorem sameWork_foldl {α : Type} {g : State → α → State} (hg : ∀ s a, SameWork s (g s a)) (xs : List α) :
    ∀ s, SameWork s (xs.foldl g s) := by
  induction xs with
  | nil => exact sameWork_refl
  | cons x xs ih => exact fun s => (hg s x).trans (ih _)

theorem sameWork_modFunc (i : Nat) (f : Func → Func) : SameWork s (modFunc s i f) :=
  ⟨rfl, rfl, rfl, rfl, rfl, rfl, rfl, rfl, rfl, rfl, rfl, rfl⟩

/-- A request enters its mailbox. -/
theorem sameWork_takeRequest (m : Mbox) (f : Mailbox → Mailbox) (g : Keeper → Keeper) :
    SameWork s (modMbox (modKeeper s g) m f) := ⟨rfl, rfl, rfl, rfl, rfl, rfl, rfl, rfl, rfl, rfl, rfl, rfl⟩

theorem takeSeal_sameWork (m : Mbox) (sw : Nat) : SameWork s (takeSeal s m sw) := by
  have noResult : ([] : List Byte).length ≤ 4056 := Nat.zero_le _
  unfold takeSeal
  dsimp only
  split
  · exact sameWork_modFunc _ _
  · split
    · exact (sameWork_takeRequest m _ _).trans (answer_sameWork noResult)
    · split
      · exact (sameWork_takeRequest m _ _).trans (answer_sameWork noResult)
      · exact sameWork_takeRequest m _ _

theorem examineAll_sameWork : SameWork s (examineAll s) := by
  refine sameWork_foldl (fun s f => sameWork_foldl (fun s k => ?_) _ _) _ _
  unfold examineBox
  split
  · exact (sameWork_modFunc _ _).trans (takeSeal_sameWork _ _)
  · exact sameWork_refl s

/-! ### Early light (R434) -/

/-- The state that EARLY_LIGHT leaves before the mailboxes are examined. -/
def earlyLit (s : State) : State :=
  modBoot (clearTowerSram s 0) (fun b => { b with
    stage := 0x07
    state := 1
    towers := setAt b.towers 0 true })

theorem earlyLight_runs (hp : s.power.powerGood = true) (hk : s.boot.keeperUp = true) (hs : s.boot.stage = 6)
    (hf : s.boot.fail ≠ 5) (hr : s.boot.routerAtFull = false) (hh : s.boot.halted = false) :
    exec .earlyLight s = .next (examineAll (earlyLit s)) := by
  show execEarlyLight s = _
  simp [execEarlyLight, hp, hk, hs, hf, hr, hh, earlyLit]

theorem earlyLight_skipped (h : s.boot.fail = 5 ∨ s.boot.routerAtFull = true) : exec .earlyLight s = .next s := by
  show execEarlyLight s = _
  rcases h with h | h <;> simp [execEarlyLight, h]

/-! ### How bring-up begins -/

/-- The state from which bring-up runs, of the one in which its command comes: power is good, and the rest is as it was. -/
structure BringUpFrom (s u : State) : Prop where
  powerGood : u.power.powerGood = true
  flash : u.flash = s.flash
  mem : u.mem = s.mem
  lanterns : u.lanterns = s.lanterns
  stage : u.boot.stage = s.boot.stage
  state : u.boot.state = s.boot.state

theorem powerGood_runs (hi : s.power.inputOn = true) (hr : ∀ r ∈ firstRails, r ∈ s.power.rails)
    (hp : s.power.powerGood = false) : ∃ u, exec (.powerGood b) s = .next (bringUp u b) ∧ BringUpFrom s u := by
  have rails : firstRails.all s.power.rails.contains = true := List.all_eq_true.2 (fun r h => by simpa using hr r h)
  refine ⟨modBoot (modPower s (fun p => { p with powerGood := true })) (fun x => { x with pgTime := nowNs s }), ?_,
    ⟨rfl, rfl, rfl, rfl, rfl, rfl⟩⟩
  show execPowerGood b s = _
  simp [execPowerGood, hi, rails, hp]

theorem bringupRetry_runs (hp : s.power.powerGood = true) (hf : s.boot.fail = 1) (hs : s.boot.stage = 0) :
    ∃ u, exec (.bringupRetry b) s = .next (bringUp u b) ∧ BringUpFrom s u := by
  refine ⟨s, ?_, ⟨hp, rfl, rfl, rfl, rfl, rfl⟩⟩
  show execBringupRetry b s = _
  simp [execBringupRetry, hp, hf, hs]

/-! ### Stages 0x01 and 0x02: the lock, the carrier, the identity -/

theorem bringUp_noLock (h : b.pllLocks = false) : bringUp u b = modBoot u (fun x => { x with fail := 1 }) := by
  simp [bringUp, h]

/-- The module with its straps and carrier record sampled. -/
def sampled (u : State) (b : BringUp) : State := readCarrier (setStage (modBoot u (fun x => { x with fail := 0 })) 0x01) b

/-- Sampling leaves power and lanterns, and of flash everything but the log; no failure stands, and the stage is 0x01. -/
theorem sampled_keeps (u : State) (b : BringUp) :
    ((sampled u b).boot.fail = 0 ∧ (sampled u b).boot.stage = 1 ∧ (sampled u b).boot.state = u.boot.state) ∧
    (sampled u b).power = u.power ∧ (sampled u b).lanterns = u.lanterns ∧
    ∃ es w, (sampled u b).flash = { u.flash with log := es, written := w } := by
  obtain ⟨c, z, n, r, hboot, hpower, hlanterns, es, w, hflash⟩ :=
    sameBooks_readCarrier (s := setStage (modBoot u (fun x => { x with fail := 0 })) 0x01) b
  have e : (sampled u b).boot = _ := hboot
  refine ⟨?_, hpower, hlanterns, _, w, hflash⟩
  rw [e]
  exact ⟨rfl, rfl, rfl⟩

theorem bringUp_noIdentity (hl : b.pllLocks = true) (hi : b.pufOk = false) : bringUp u b = haltBringUp (sampled u b) 2 := by
  simp [bringUp, hl, hi, sampled]

/-- The module with its identity derived. -/
def identified (u : State) (b : BringUp) : State := setStage (modBoot (sampled u b) (fun x => { x with identity := true })) 0x02

/-! ### Stage 0x03: the configuration record (R441) -/

theorem selectConfig_none (h0 : s.flash.rec0.factoryOk = false) (h1 : s.flash.rec1.factoryOk = false) :
    selectConfig s = none := by
  simp [selectConfig, h0, h1]

/-- The first copy is taken where it verifies and the other is no younger. -/
theorem selectConfig_first (h0 : s.flash.rec0.factoryOk = true) (hf : s.flash.rec0.fieldOk = true)
    (hg : s.flash.rec1.gen ≤ s.flash.rec0.gen) :
    selectConfig s = some (modFlash s (fun x => { x with use1 := false })) := by
  have older : decide (s.flash.rec0.gen < s.flash.rec1.gen) = false := decide_eq_false (Nat.not_lt.2 hg)
  unfold selectConfig
  simp only [h0, hf, older, Bool.and_self, Bool.true_and, if_true]
  split <;> rfl

theorem bringUp_noConfig (hl : b.pllLocks = true) (hi : b.pufOk = true) (h : selectConfig (identified u b) = none) :
    bringUp u b = haltBringUp (identified u b) 3 := by
  unfold identified sampled at h
  simp [bringUp, hl, hi, h, identified, sampled]

theorem bringUp_config (hl : b.pllLocks = true) (hi : b.pufOk = true) (h : selectConfig (identified u b) = some t) :
    bringUp u b = stageFour (assignLanterns (setStage t 0x03)) b := by
  unfold identified sampled at h
  simp [bringUp, hl, hi, h]

/-- The position of lantern l (R9, R11): the enabled positions in ascending order, past the indices left unfilled. -/
theorem lanternAt_assignLanterns {l : Nat} (h : l < s.lanterns.length) :
    (lanternAt (assignLanterns s) l).phys =
      if l ∈ (configRec s).gaps then none
      else (enabledPositions (configRec s) (l / 48))[l % 48 -
        ((List.range (l % 48)).filter (fun i => (configRec s).gaps.contains (l / 48 * 48 + i))).length]? := by
  unfold assignLanterns lanternAt
  simp [List.getD_eq_getElem?_getD, h]

/-! ### Stages 0x04 to 0x06: the firmware and tower 0 (R442, R443) -/

theorem chooseSlot_active {a : Nat} (hp : (configRec s).pending = none) (ha : (configRec s).active = a)
    (hv : slotVerifies s a = true) : chooseSlot s = (s, some (a, false)) := by
  simp [chooseSlot, hp, ha, hv]

theorem slotVerifies_first {i : FwImage} (ha : s.flash.slotA = some i) (hs : i.sigOk = true)
    (hv : (configRec s).svnFloor ≤ i.svn) : slotVerifies s 0 = true := by
  simp [slotVerifies, slotImage, ha, hs, hv]

/-- Stage 0x06 leaves power and boot books as they are, but for the stage and for a failure of tower 0. -/
theorem stageSix_books (s : State) (b : BringUp) :
    (stageSix s b).power = s.power ∧ (stageSix s b).boot.stage = 6 ∧
    (stageSix s b).boot.fail = (if b.tower0.fabric then 5 else s.boot.fail) ∧
    ((stageSix s b).boot.state = s.boot.state ∧ (stageSix s b).boot.keeperUp = s.boot.keeperUp ∧
      (stageSix s b).boot.fwSlot = s.boot.fwSlot ∧ (stageSix s b).boot.fwVersion = s.boot.fwVersion ∧
      (stageSix s b).boot.trial = s.boot.trial) := by
  obtain ⟨hboot, hpower⟩ := sameBooks_retireFailing (s := s) 0 b.tower0.failed
  unfold stageSix
  split <;> simp [setStage, *]

theorem stageSix_lanterns (h : b.tower0.failed = []) : (stageSix s b).lanterns = s.lanterns := by
  have none_fail : retireFailing s 0 b.tower0.failed = s := by rw [h]; rfl
  unfold stageSix
  rw [none_fail]
  split <;> rfl

/-! ### The stages together -/

/-- The module with the first copy of its configuration record in use and its lanterns assigned. -/
def configured (u : State) (b : BringUp) : State :=
  assignLanterns (setStage (modFlash (identified u b) (fun x => { x with use1 := false })) 0x03)

/-- With a first copy that verifies and is in force, its record and its slots are those of flash before bring-up. -/
theorem configured_flash (u : State) (b : BringUp) :
    configRec (configured u b) = u.flash.rec0 ∧ (configured u b).flash.slotA = u.flash.slotA := by
  obtain ⟨-, -, -, es, w, hflash⟩ := sampled_keeps u b
  have e : (configured u b).flash = { (sampled u b).flash with use1 := false } := rfl
  rw [configRec, e, hflash]
  exact ⟨rfl, rfl⟩

/-- The lanterns as the first copy assigns them. -/
theorem configured_lantern {l : Nat} (h : l < u.lanterns.length) :
    (lanternAt (configured u b) l).phys =
      if l ∈ u.flash.rec0.gaps then none
      else (enabledPositions u.flash.rec0 (l / 48))[l % 48 -
        ((List.range (l % 48)).filter (fun i => u.flash.rec0.gaps.contains (l / 48 * 48 + i))).length]? := by
  obtain ⟨-, -, hlanterns, -⟩ := sampled_keeps u b
  have rec0 : configRec (setStage (modFlash (identified u b) (fun x => { x with use1 := false })) 0x03) = u.flash.rec0 :=
    (configured_flash u b).1
  rw [configured, lanternAt_assignLanterns (hlanterns ▸ h), rec0]

/-- Bring-up with firmware that verifies in the active slot A, and no trial pending, reaches stage 0x06. -/
theorem bringUp_firmware {i : FwImage} (hl : b.pllLocks = true) (hp : b.pufOk = true) (h0 : u.flash.rec0.factoryOk = true)
    (hf : u.flash.rec0.fieldOk = true) (hg : u.flash.rec1.gen ≤ u.flash.rec0.gen) (hn : u.flash.rec0.pending = none)
    (ha : u.flash.rec0.active = 0) (hi : u.flash.slotA = some i) (hs : i.sigOk = true) (hv : u.flash.rec0.svnFloor ≤ i.svn) :
    bringUp u b = stageSix (setStage (startFirmware (setStage (configured u b) 0x04) 0 false) 0x05) b := by
  obtain ⟨-, -, -, es, w, hflash⟩ := sampled_keeps u b
  have flash : (identified u b).flash = { u.flash with log := es, written := w } := hflash
  have select := selectConfig_first (s := identified u b) (by rw [flash]; exact h0) (by rw [flash]; exact hf)
    (by rw [flash]; exact hg)
  obtain ⟨rec0, slotA⟩ := configured_flash u b
  have verifies : slotVerifies (configured u b) 0 = true := slotVerifies_first (slotA.trans hi) hs (by rw [rec0]; exact hv)
  have choose : chooseSlot (configured u b) = (configured u b, some (0, false)) :=
    chooseSlot_active (by rw [rec0]; exact hn) (by rw [rec0]; exact ha) verifies
  rw [bringUp_config hl hp select]
  show stageFour (configured u b) b = _
  rw [stageFour, choose]

end Boot

/-- Settles O40: the ways of bring-up one by one, then early light. -/
theorem bringUpToEarlyLight : Obligations.BringUpToEarlyLight := by
  refine ⟨fun s b c begins => ?bringUp, fun s hp hk hs hf hr hh _ => ?early, fun s => earlyLight_skipped⟩
  case early =>
    obtain ⟨hmem, -, hlanterns, -, -, -, -, -, -, -, hboot, hflash⟩ := examineAll_sameWork (s := earlyLit s)
    exact ⟨_, earlyLight_runs hp hk hs hf hr hh, by rw [hboot]; rfl, by rw [hboot]; rfl, hlanterns, hflash, fun _ => hmem⟩
  case bringUp =>
    obtain ⟨u, runs, from_⟩ : ∃ u, exec c s = .next (bringUp u b) ∧ BringUpFrom s u := by
      rcases begins with ⟨rfl, hi, hr, hp⟩ | ⟨rfl, hp, hf, hs⟩
      · exact powerGood_runs hi hr hp
      · exact bringupRetry_runs hp hf hs
    obtain ⟨⟨fail, stage, state⟩, power, lanterns, es, w, flash⟩ := sampled_keeps u b
    have powerGood : (sampled u b).power.powerGood = true := power ▸ from_.powerGood
    have state := state.trans from_.state
    refine ⟨fun hl => ?noLock, fun hl hi => ?noIdentity, fun hl hi h0 h1 => ?noConfig,
      fun i hl hp h0 hf hg hn ha hi hs hv => ?firmware⟩
    case noLock =>
      rw [bringUp_noLock hl] at runs
      exact ⟨_, runs, rfl, from_.stage, from_.state, from_.powerGood, from_.flash, from_.mem, from_.lanterns⟩
    case noIdentity =>
      rw [bringUp_noIdentity hl hi] at runs
      exact ⟨_, runs, rfl, rfl, stage, state, powerGood⟩
    case noConfig =>
      have flash : (identified u b).flash = { s.flash with log := es, written := w } := flash.trans (by rw [from_.flash])
      have none_ : selectConfig (identified u b) = none :=
        selectConfig_none (by rw [flash]; exact h0) (by rw [flash]; exact h1)
      rw [bringUp_noConfig hl hi none_] at runs
      exact ⟨_, runs, rfl, rfl, rfl, rfl, state⟩
    case firmware =>
      rw [← from_.flash] at h0 hf hg hn ha hi hv
      rw [bringUp_firmware hl hp h0 hf hg hn ha hi hs hv] at runs
      set v := setStage (startFirmware (setStage (configured u b) 0x04) 0 false) 0x05
      obtain ⟨power6, stage6, fail6, state6, keeperUp6, slot6, version6, trial6⟩ :=
        stageSix_books v b
      have version : (slotImage (setStage (configured u b) 0x04) 0).map (·.version) = some i.version := by
        show (configured u b).flash.slotA.map (·.version) = _
        rw [(configured_flash u b).2, hi]
        rfl
      refine ⟨_, runs, stage6, state6.trans state, keeperUp6, slot6, version6.trans ?_, trial6, power6 ▸ powerGood,
        fail6.trans (congrArg (if b.tower0.fabric then 5 else ·) fail), fun ht l hl => ?_⟩
      · show ((slotImage (setStage (configured u b) 0x04) 0).map (·.version)).getD 0 = _
        rw [version]
        rfl
      · have assigned : lanternAt (stageSix v b) l = lanternAt (configured u b) l := by
          rw [lanternAt, stageSix_lanterns ht]
          rfl
        rw [assigned, ← from_.flash]
        exact configured_lantern (from_.lanterns ▸ hl)

end Sys2Proof.Machine
end
section
/-! PROOFS. The lens at work: what streaming, drains and the lens' other steps change of their lantern (O56). -/

namespace Sys2Proof.Machine

/-! ### A step that changes one lantern -/

/-- State t is s with lantern l alone changed, as P says. -/
def OnLantern (P : Lantern → Lantern → Prop) (s : State) (l : Nat) (t : State) : Prop :=
  ∃ y, P (lanternAt s l) y ∧ t = modLantern s l (fun _ => y)

section
variable {P : Lantern → Lantern → Prop} {s t u : State} {l : Nat}

theorem modLantern_const (hl : l < s.lanterns.length) (f : Lantern → Lantern) :
    modLantern s l f = modLantern s l (fun _ => f (lanternAt s l)) := by
  have h : s.lanterns.modify l f = s.lanterns.modify l (fun _ => f (lanternAt s l)) := by
    refine List.ext_getElem? fun n => ?_
    rcases eq_or_ne l n with rfl | hn
    · simp [lanternAt, hl, List.getD_eq_getElem?_getD]
    · simp [List.getElem?_modify_ne _ _ hn]
  unfold modLantern
  rw [h]

theorem modLantern_self (hl : l < s.lanterns.length) : modLantern s l (fun _ => lanternAt s l) = s := by
  rw [← modLantern_const hl (fun x => x)]
  unfold modLantern
  rw [show s.lanterns.modify l (fun x => x) = s.lanterns from List.modify_id ..]

theorem modLantern_twice (f g : Lantern → Lantern) :
    modLantern (modLantern s l f) l g = modLantern s l (fun x => g (f x)) := by
  simp [modLantern, List.modify_modify_eq, Function.comp_def]

theorem onLantern_modLantern (hl : l < s.lanterns.length) (f : Lantern → Lantern) (hf : P (lanternAt s l) (f (lanternAt s l))) :
    OnLantern P s l (modLantern s l f) := ⟨_, hf, modLantern_const hl f⟩

theorem onLantern_refl (hl : l < s.lanterns.length) (hP : ∀ x, P x x) : OnLantern P s l s :=
  ⟨_, hP _, (modLantern_self hl).symm⟩

theorem OnLantern.length (h : OnLantern P s l t) : t.lanterns.length = s.lanterns.length := by
  obtain ⟨y, -, rfl⟩ := h
  simp

theorem OnLantern.lantern (hl : l < s.lanterns.length) (h : OnLantern P s l t) : P (lanternAt s l) (lanternAt t l) := by
  obtain ⟨y, hy, rfl⟩ := h
  rwa [lanternAt_modLantern_same _ _ _ hl]

theorem OnLantern.trans {Q R : Lantern → Lantern → Prop} (hR : ∀ x y z, P x y → Q y z → R x z) (hl : l < s.lanterns.length)
    (h : OnLantern P s l t) (h' : OnLantern Q t l u) : OnLantern R s l u := by
  obtain ⟨y, hy, rfl⟩ := h
  obtain ⟨z, hz, rfl⟩ := h'
  rw [lanternAt_modLantern_same _ _ _ hl] at hz
  exact ⟨z, hR _ _ _ hy hz, modLantern_twice ..⟩

theorem OnLantern.others (h : OnLantern P s l t) : OtherLanterns s t l := by
  obtain ⟨y, -, rfl⟩ := h
  exact fun k hk => lanternAt_modLantern_other _ _ hk

theorem OnLantern.outside (h : OnLantern P s l t) : SameOutside s t := by
  obtain ⟨y, -, rfl⟩ := h
  simp [SameOutside]

theorem OnLantern.moorings (h : OnLantern P s l t) : t.moorings = s.moorings := by
  obtain ⟨y, -, rfl⟩ := h
  rfl

theorem OnLantern.poison (h : OnLantern P s l t) : t.poison = s.poison := h.outside.2.1

/-- Changes of a lantern one after another. -/
theorem onLantern_foldl {α : Type} (hr : ∀ x, P x x) (hP : ∀ x y z, P x y → P y z → P x z) {f : State → α → State}
    (hf : ∀ (s : State) (a : α), s.poison = [] → l < s.lanterns.length → OnLantern P s l (f s a)) :
    ∀ (as : List α) (s : State), s.poison = [] → l < s.lanterns.length → OnLantern P s l (as.foldl f s)
  | [], _, _, hl => onLantern_refl hl hr
  | a :: as, s, hp, hl => by
    have h := hf s a hp hl
    exact h.trans hP hl (onLantern_foldl hr hP hf as _ (h.poison.trans hp) (h.length ▸ hl))

end

/-- A relation kept along a fold. -/
theorem rel_foldl {α β : Type} {P : β → β → Prop} (hr : ∀ x, P x x) (hP : ∀ x y z, P x y → P y z → P x z) {f : β → α → β}
    (hf : ∀ x a, P x (f x a)) : ∀ (as : List α) (x : β), P x (as.foldl f x)
  | [], x => hr x
  | a :: as, x => hP _ _ _ (hf x a) (rel_foldl hr hP hf as _)

/-! ### Memory without poison -/

section
variable {s : State} (hp : s.poison = [])
include hp

theorem notePoison_clean (l a n : Nat) : notePoison s l a n = s := by
  simp [notePoison, poisonedLines, hp]

theorem maskBytes_clean (l off n : Nat) : (maskBytes s l off n).2 = s := by
  induction n with
  | zero => rfl
  | succ n ih =>
    unfold maskBytes
    simp only [ih]
    have h : (storeBytes s l (off + n) 1).getD 0 none = some (byteAt s.mem (storeAddr l (off + n))) := by
      simp [storeBytes, hp]
    rw [h]

theorem maskedVectors_clean (l : Nat) (d : LensDesc) : (maskedVectors s l d).2 = s := by
  unfold maskedVectors
  split
  · exact maskBytes_clean hp ..
  · rfl

theorem notePoisonStep_clean (l : Nat) (d : LensDesc) (i p : Nat) : notePoisonStep s l d i p = s := by
  simp [notePoisonStep, hp]

theorem notePoisonCross_clean (l : Nat) (d : LensDesc) (i : Nat) : notePoisonCross s l d i = s := by
  simp [notePoisonCross, hp]

end

theorem maskedVectors_unmasked (s : State) (l : Nat) {d : LensDesc} (h : d.maskEn = false) : (maskedVectors s l d).2 = s := by
  simp [maskedVectors, h]

/-! ### What drains change -/

/-- Drains change the lens queue's jobs and the drain queue alone. -/
def Drained (x y : Lantern) : Prop :=
  y = { x with lensQ := y.lensQ, drainQ := y.drainQ } ∧ y.lensQ.length = x.lensQ.length

theorem drained_refl (x : Lantern) : Drained x x := ⟨rfl, rfl⟩

theorem drained_trans (x y z : Lantern) (h : Drained x y) (h' : Drained y z) : Drained x z := by
  obtain ⟨hy, ly⟩ := h
  obtain ⟨hz, lz⟩ := h'
  refine ⟨?_, lz.trans ly⟩
  rw [hz, hy]

theorem drained_modJob (x : Lantern) (o : Nat) (f : LensJob → LensJob) : Drained x (modJob x o f) :=
  ⟨rfl, List.length_map _⟩

theorem drained_deliverRows (j : LensJob) (masked : List Bool) : ∀ (k : Nat) (x : Lantern), Drained x (deliverRows j masked k x)
  | 0, x => drained_refl x
  | k + 1, x => by
    unfold deliverRows
    split
    · exact drained_refl x
    · split
      · exact drained_refl x
      · refine drained_trans _ _ _ ?_ (drained_deliverRows j masked k _)
        exact ⟨rfl, List.length_map _⟩

theorem drainOnce_drained {s : State} {l : Nat} (hp : s.poison = []) (hl : l < s.lanterns.length) :
    OnLantern Drained s l (drainOnce s l) := by
  unfold drainOnce
  dsimp only
  split
  · exact onLantern_refl hl drained_refl
  · split
    · rw [maskedVectors_clean hp]
      exact onLantern_modLantern hl _ (drained_trans _ _ _ (drained_modJob ..) (drained_deliverRows ..))
    · exact onLantern_refl hl drained_refl

theorem letDrains_drained {s : State} {l : Nat} (hp : s.poison = []) (hl : l < s.lanterns.length) (j : LensJob) :
    OnLantern Drained s l (letDrains s l j) := by
  unfold letDrains
  split
  · exact onLantern_foldl drained_refl drained_trans (fun _ _ hp hl => drainOnce_drained hp hl) _ _ hp hl
  · exact onLantern_refl hl drained_refl

theorem letDrains_idle {s : State} {l : Nat} {j : LensJob}
    (h : ∀ q ∈ (lanternAt s l).lensQ, q.order < j.order → q.draining = false) : letDrains s l j = s := by
  unfold letDrains
  rw [if_neg]
  simp only [List.any_eq_true, Bool.and_eq_true, decide_eq_true_eq]
  rintro ⟨q, hq, ⟨⟨ho, hd⟩, -⟩, -⟩
  exact absurd hd (by simp [h q hq ho])

/-! ### The drain that is next -/

theorem nextDrain_some {x : Lantern} {j : LensJob} (h : nextDrain x = some j) :
    j ∈ x.lensQ ∧ drainPending j = true ∧ (j.draining = true ∨ drainReady x j = true) := by
  unfold nextDrain at h
  split at h
  case h_1 k hk =>
    obtain rfl : k = j := by simpa using h
    have hb := List.find?_some hk
    rw [Bool.and_eq_true] at hb
    exact ⟨List.mem_of_find?_eq_some hk, hb.1, .inl hb.2⟩
  case h_2 =>
    have hb := List.find?_some h
    rw [Bool.and_eq_true] at hb
    exact ⟨List.mem_of_find?_eq_some h, hb.1, .inr hb.2⟩

theorem nextDrain_exists {x : Lantern} {j : LensJob} (hj : j ∈ x.lensQ) (hp : drainPending j = true)
    (hr : drainReady x j = true) : ∃ k, nextDrain x = some k := by
  unfold nextDrain
  split
  case h_1 k _ => exact ⟨k, rfl⟩
  case h_2 => exact Option.isSome_iff_exists.1 (List.find?_isSome.2 ⟨j, hj, by simp [hp, hr]⟩)

theorem startDrain_next {s : State} {l : Nat} {j : LensJob} (hv : lanternLive s l = true)
    (hn : nextDrain (lanternAt s l) = some j) (hd : j.draining = false) :
    startDrain s l = modLantern s l (fun y => modJob y j.order (fun q => { q with draining := true })) := by
  have hr : drainReady (lanternAt s l) j = true := by simpa [hd] using (nextDrain_some hn).2.2
  simp [startDrain, hn, hv, hd, hr]

theorem drainOnce_next {s : State} {l : Nat} {j : LensJob} (hv : lanternLive s l = true)
    (hn : nextDrain (lanternAt s l) = some j) (hd : j.draining = true ∨ j.desc.opcode = 2) :
    drainOnce s l = modLantern (maskedVectors s l j.desc).2 l (fun y =>
      deliverRows j (maskedVectors s l j.desc).1 32 (modJob y j.order (fun q => { q with draining := true }))) := by
  have hg : (j.draining || (decide (j.desc.opcode = 2) && drainReady (lanternAt s l) j)) = true := by
    have hr := (nextDrain_some hn).2.2
    grind
  simp [drainOnce, hn, hv, hg]

/-! ### The rows a drain delivers -/

/-- Job q is in the lens queue, and alone has its index. -/
def OnlyJob (x : Lantern) (q : LensJob) : Prop := q ∈ x.lensQ ∧ ∀ p ∈ x.lensQ, p.order = q.order → p = q

theorem onlyJob_of_nodup {x : Lantern} {q : LensJob} (hq : q ∈ x.lensQ) (hn : (x.lensQ.map (·.order)).Nodup) : OnlyJob x q :=
  ⟨hq, fun _ hp h => List.inj_on_of_nodup_map hn hp hq h⟩

theorem OnlyJob.find {x : Lantern} {q : LensJob} (h : OnlyJob x q) :
    x.lensQ.find? (fun p => p.order == q.order) = some q := by
  obtain ⟨p, hp⟩ := Option.isSome_iff_exists.1
    (List.find?_isSome (p := fun p : LensJob => p.order == q.order).2 ⟨q, h.1, by simp⟩)
  have ho := List.find?_some hp
  rw [beq_iff_eq] at ho
  rw [hp, h.2 p (List.mem_of_find?_eq_some hp) ho]

theorem OnlyJob.modJob {x : Lantern} {q : LensJob} (h : OnlyJob x q) {f : LensJob → LensJob}
    (hf : ∀ p, (f p).order = p.order) : OnlyJob (modJob x q.order f) (f q) := by
  refine ⟨List.mem_map.2 ⟨q, h.1, if_pos rfl⟩, fun p hp ho => ?_⟩
  obtain ⟨r, hr, rfl⟩ := List.mem_map.1 hp
  by_cases hrq : r.order = q.order
  · rw [if_pos hrq, h.2 r hr hrq]
  · rw [if_neg hrq, hf] at ho
    exact absurd ho hrq

/-- A drain delivers rows while the queue of 32 has room and rows are left (R81). -/
theorem deliverRows_rows (j : LensJob) (masked : List Bool) : ∀ (k : Nat) (x : Lantern) (q : LensJob), OnlyJob x q →
    q.order = j.order → ∃ rows, (deliverRows j masked k x).drainQ = x.drainQ ++ rows ∧
      rows.length = min k (min (32 - x.drainQ.length) (drainRows q.desc - q.drained)) ∧
      ∀ p ∈ (deliverRows j masked k x).lensQ, p.order = j.order →
        p.drained = q.drained + rows.length ∧ p.draining = q.draining
  | 0, x, q, hq, ho => ⟨[], by simp [deliverRows], by simp, fun p hp hpo => by
      obtain rfl := hq.2 p hp (hpo.trans ho.symm)
      simp⟩
  | k + 1, x, q, hq, ho => by
    have hfind := hq.find
    rw [ho] at hfind
    unfold deliverRows
    simp only [hfind]
    by_cases hfull : 32 ≤ x.drainQ.length ∨ drainRows q.desc ≤ q.drained
    · rw [if_pos hfull]
      refine ⟨[], by simp, ?_, fun p hp hpo => ?_⟩
      · rw [List.length_nil]; omega
      · obtain rfl := hq.2 p hp (hpo.trans ho.symm)
        simp
    · rw [if_neg hfull]
      have hq' : OnlyJob { x with drainQ := x.drainQ ++ [drainRow x q masked q.drained] } q := hq
      obtain ⟨rows, hrows, hlen, hjobs⟩ := deliverRows_rows j masked k _ _
        (hq'.modJob (f := fun y => { y with drained := y.drained + 1 }) fun _ => rfl) ho
      refine ⟨drainRow x q masked q.drained :: rows, ?_, ?_, fun p hp hpo => ?_⟩
      · rw [hrows]; simp [modJob]
      · have hd : (modJob { x with drainQ := x.drainQ ++ [drainRow x q masked q.drained] } q.order
            (fun y => { y with drained := y.drained + 1 })).drainQ.length = x.drainQ.length + 1 := by simp [modJob]
        rw [hd] at hlen
        rw [List.length_cons, hlen]
        dsimp only
        omega
      · have := hjobs p hp hpo
        simp only [List.length_cons]
        dsimp only at this
        exact ⟨by omega, this.2⟩

/-! ### What streaming changes -/

/-- Column sums change the accumulators, their tags and the counts of checked sums alone. -/
def Streamed (x y : Lantern) : Prop :=
  y = { x with
    acc := y.acc, accTag := y.accTag, grad := y.grad, gradTag := y.gradTag
    lensCnt := { x.lensCnt with checked := y.lensCnt.checked, unchecked := y.lensCnt.unchecked } }

theorem streamed_refl (x : Lantern) : Streamed x x := rfl

theorem streamed_trans (x y z : Lantern) (h : Streamed x y) (h' : Streamed y z) : Streamed x z := by
  unfold Streamed at *
  rw [h', h]

theorem streamed_putEntryBits (x : Lantern) (k : EntryFmt) (e c : Nat) (b : EntryBits) :
    Streamed x (putEntryBits x k e c b) := by
  cases k <;> rfl

theorem streamed_writeSum (x : Lantern) (d : LensDesc) (e c : Nat) (v : Option Rec) (first : Bool) :
    Streamed x (writeSum x d e c v first) := by
  unfold writeSum absorb emptyEntry putEntry
  dsimp only
  split
  · split <;> exact streamed_putEntryBits ..
  · split
    · exact streamed_putEntryBits ..
    · exact streamed_refl x

theorem streamed_countSums (x : Lantern) (skipped : List Bool) : Streamed x (countSums x skipped) := rfl

theorem streamed_foldl {α : Type} {f : Lantern → α → Lantern} (hf : ∀ x a, Streamed x (f x a)) (as : List α) (x : Lantern) :
    Streamed x (as.foldl f x) := rel_foldl streamed_refl streamed_trans hf as x

theorem streamed_sums {α : Type} {f : Lantern → α → Lantern} (hf : ∀ x a, Streamed x (f x a)) (as : List α) (x : Lantern)
    (skipped : List Bool) : Streamed x (as.foldl f (countSums x skipped)) :=
  streamed_trans _ _ _ (streamed_countSums ..) (streamed_foldl hf ..)

theorem streamed_emptyTail (x : Lantern) (d : LensDesc) (lo hi : Nat) : Streamed x (emptyTail x d lo hi) := by
  unfold emptyTail
  refine streamed_foldl (fun x i => ?_) _ _
  split <;> exact streamed_foldl (fun _ _ => streamed_writeSum ..) _ _

theorem streamStep_streamed {s : State} {l : Nat} (hp : s.poison = []) (hl : l < s.lanterns.length) (d : LensDesc) (t : Tile)
    (masked : List Bool) (i p : Nat) (hi : Bool) : OnLantern Streamed s l (streamStep s l d t masked i p hi) := by
  unfold streamStep
  dsimp only
  split
  · exact onLantern_modLantern hl _ (streamed_sums (fun _ _ => streamed_writeSum ..) ..)
  · rw [notePoisonStep_clean hp]
    exact onLantern_modLantern hl _ (streamed_sums (fun _ _ => streamed_writeSum ..) ..)

theorem crossStep_streamed {s : State} {l : Nat} (hp : s.poison = []) (hl : l < s.lanterns.length) (d : LensDesc) (t : Tile)
    (masked : List Bool) (i : Nat) (hi : Bool) : OnLantern Streamed s l (crossStep s l d t masked i hi) := by
  unfold crossStep
  dsimp only
  split
  · exact onLantern_modLantern hl _ (streamed_sums (fun _ _ => streamed_writeSum ..) ..)
  · rw [notePoisonCross_clean hp]
    exact onLantern_modLantern hl _ (streamed_sums (fun _ _ => streamed_writeSum ..) ..)

/-- A pass has streamed: its tile is stationary, its passes-read count one up, job j started. -/
def Passed (j : LensJob) (t0 : Tile) (x y : Lantern) : Prop :=
  y.tile = some t0 ∧ y.shadow = (if j.desc.newTile then none else x.shadow) ∧
  y.passesRead = (x.passesRead + 1) % 2 ^ 32 ∧ y.filling = false ∧
  (∃ w, y.lensQ = x.lensQ.map (fun q => if q.order = j.order then { q with
    started := true
    released := !j.desc.endTok
    wrote := w } else q)) ∧
  y.lensCnt.mismatch = x.lensCnt.mismatch ∧ y.vec = x.vec ∧ y.events = x.events

theorem passed_of_streamed {j : LensJob} {t0 : Tile} (x y z : Lantern) (h : Streamed x y) (h' : Passed j t0 y z) :
    Passed j t0 x z := by
  unfold Streamed at h
  rw [h] at h'
  exact h'

/-- Trimming the tail and marking the job end a pass whose tile and counts are set. -/
theorem passed_ended {j : LensJob} {t0 : Tile} {x y : Lantern} (lo hi w : Nat) (ht : y.tile = some t0)
    (hs : y.shadow = (if j.desc.newTile then none else x.shadow)) (hr : y.passesRead = (x.passesRead + 1) % 2 ^ 32)
    (hf : y.filling = false) (hq : y.lensQ = x.lensQ) (hm : y.lensCnt.mismatch = x.lensCnt.mismatch) (hv : y.vec = x.vec)
    (he : y.events = x.events) :
    Passed j t0 x (modJob (emptyTail y j.desc lo hi) j.order
      (fun q => { q with started := true, released := !j.desc.endTok, wrote := w })) := by
  have h := streamed_emptyTail y j.desc lo hi
  unfold Streamed at h
  rw [h]
  exact ⟨ht, hs, hr, hf, ⟨w, by simp only [modJob, hq]⟩, hm, hv, he⟩

/-- A pass whose residues all agree streams on its lantern alone. -/
theorem streamPass_passed {s : State} {l : Nat} (hp : s.poison = []) (hl : l < s.lanterns.length) (j : LensJob) (t0 : Tile) :
    OnLantern (Passed j t0) s l (streamPass s l j t0 []) := by
  unfold streamPass
  simp only [maskedVectors_clean hp, List.filter_nil, List.foldl_nil]
  generalize hs1 : List.foldl _ s _ = s1
  have h1 : OnLantern Streamed s l s1 := by
    rw [← hs1]
    refine onLantern_foldl streamed_refl streamed_trans (fun u q hp hl => ?_) _ _ hp hl
    split
    · exact crossStep_streamed hp hl ..
    · exact streamStep_streamed hp hl ..
  exact h1.trans passed_of_streamed hl
    (onLantern_modLantern (h1.length ▸ hl) _ (passed_ended _ _ _ rfl rfl rfl rfl rfl rfl rfl rfl))

/-! ### The commands of the lens -/

/-- The lens step at which the load of job j's tile begins (R67). -/
def tileLoadFrom (x : Lantern) (j : LensJob) : Nat :=
  if x.tile.isSome then max (max x.loadEnd (j.issued + 1)) (x.passStart + 128) else max x.loadEnd (j.issued + 1)

section
variable {s : State} {l : Nat} {j : LensJob}

theorem execPass_streams {t0 : Tile} (hv : lanternLive s l = true) (hn : nextPass (lanternAt s l) = some j)
    (hr : passReady s l j = true) (hh : passHeld (letDrains s l j) l j = false)
    (ht : (if j.desc.newTile then (lanternAt s l).shadow else (lanternAt s l).tile) = some t0) :
    execPass l [] s = .next (streamPass (letDrains s l j) l j t0 []) := by
  simp [execPass, hv, hn, hr, hh, ht]

theorem execPass_holds (es : List Nat) (hv : lanternLive s l = true) (hn : nextPass (lanternAt s l) = some j)
    (hr : passReady s l j = true) (hh : passHeld (letDrains s l j) l j = true) :
    execPass l es s = .next (modLantern (letDrains s l j) l (fun y => { y with
      heldSteps := y.heldSteps + 1
      lensCnt := { y.lensCnt with
        drainHold := y.lensCnt.drainHold + 1
        active := y.lensCnt.active + 1 } })) := by
  simp [execPass, hv, hn, hr, hh]

theorem execTileLoadStart_loads (hp : s.poison = []) (hv : lanternLive s l = true) (hn : (lanternAt s l).loading = none)
    (hj : (lanternAt s l).lensQ.find? (fun j => decide (j.desc.opcode = 1) && !j.bad && j.desc.newTile && !j.started) = some j) :
    execTileLoadStart l s = .next (modLantern s l (fun y => modJob { y with
      shadow := some (readTile s l j.desc), loading := some j.order, loadEnd := tileLoadFrom (lanternAt s l) j + 512 } j.order
      (fun q => { q with loaded := true }))) := by
  unfold execTileLoadStart
  dsimp only
  rw [if_neg (by simp [hv, hn])]
  simp only [hj, notePoison_clean hp, tileLoadFrom]

theorem execLensClockChange_changes (hn : nextPass (lanternAt s l) = some j) (hv : lanternLive s l = true)
    (he : lensEmpty (lanternAt s l) = true) (hc : (lanternAt s l).fastClk ≠ wantsFast s l j.desc) :
    execLensClockChange l s = .next (modLantern s l (fun y => { y with
      fastClk := !y.fastClk
      lensNow := max y.lensNow y.emptyFrom + (if y.fastClk then 8 else 16)
      lensCnt := { y.lensCnt with clockChg := y.lensCnt.clockChg + 1 } })) := by
  simp [execLensClockChange, hn, hv, he, hc]

end

/-! ### Releases and retirement -/

/-- Isophase fill alone may have changed. -/
def Filled (x y : Lantern) : Prop := y = { x with filling := y.filling }

theorem startFill_filled {s : State} {l : Nat} (hl : l < s.lanterns.length) : OnLantern Filled s l (startFill s l) := by
  unfold startFill
  dsimp only
  split
  · exact onLantern_modLantern hl _ rfl
  · exact onLantern_refl hl fun _ => rfl

/-- Job j's mark f stays when jobs that are done with leave the queue. -/
theorem forall_marked {Q : LensJob → Prop} {f : LensJob → LensJob} {qs : List LensJob} {o : Nat} (p : LensJob → Bool)
    (hf : ∀ q, Q (f q)) :
    ∀ q ∈ (qs.map (fun k => if k.order = o then f k else k)).filter p, q.order = o → Q q := by
  intro q hq hqo
  obtain ⟨k, -, rfl⟩ := List.mem_map.1 (List.mem_filter.1 hq).1
  by_cases hk : k.order = o
  · rw [if_pos hk]; exact hf k
  · rw [if_neg hk] at hqo; exact absurd hqo hk

/-- A mark on the jobs of one index, its counters and beacon unchanged. -/
def Marked (Q : LensJob → Prop) (o : Nat) (x y : Lantern) : Prop :=
  (∀ q ∈ y.lensQ, q.order = o → Q q) ∧ y.tile = x.tile ∧ y.events = x.events ∧ y.beacon = x.beacon

theorem marked_of_filled {Q : LensJob → Prop} {o : Nat} (x y z : Lantern) (h : Marked Q o x y) (h' : Filled y z) :
    Marked Q o x z := by
  unfold Filled at h'
  rw [h']
  exact h

/-- Event counter 12 and the lens beacon have advanced. -/
def Counted (x y : Lantern) : Prop :=
  y = { x with
    events := x.events.modify 12 (fun c => min (c + 1) (2 ^ 32 - 1))
    beacon := x.beacon.modify 0 (fun c => (c + 1) % 2 ^ 32) }

/-- A retirement marks its descriptor, counts it, and advances the lens beacon. -/
def Retired (o : Nat) (x y : Lantern) : Prop :=
  y.events = x.events.modify 12 (fun c => min (c + 1) (2 ^ 32 - 1)) ∧
  y.beacon = x.beacon.modify 0 (fun c => (c + 1) % 2 ^ 32) ∧
  ∀ q ∈ y.lensQ, q.order = o → q.retired = true

theorem retired_of_counted {o : Nat} (x y z : Lantern) (h : Marked (fun q => q.retired = true) o x y) (h' : Counted y z) :
    Retired o x z := by
  obtain ⟨hq, -, he, hb⟩ := h
  unfold Counted at h'
  rw [h']
  exact ⟨by rw [he], by rw [hb], hq⟩

section
variable {s : State} {l : Nat} {j : LensJob} (hl : l < s.lanterns.length)
include hl

theorem releaseTile_marks
    (hj : (lanternAt s l).lensQ.find? (fun j => decide (j.desc.opcode = 1) && j.started && !j.released) = some j) :
    OnLantern (Marked (fun q => q.released = true) j.order) s l (releaseTile s l) := by
  unfold releaseTile
  simp only [hj]
  refine OnLantern.trans marked_of_filled hl (onLantern_modLantern hl _ ?_) (startFill_filled (by simpa using hl))
  exact ⟨forall_marked _ fun _ => rfl, rfl, rfl, rfl⟩

theorem retireLens_retires (hj : (lanternAt s l).lensQ.find? mayRetire = some j) :
    OnLantern (Retired j.order) s l (retireLens s l) := by
  unfold retireLens bumpEvent bumpBeacon
  simp only [hj]
  rw [modLantern_twice]
  refine OnLantern.trans retired_of_counted hl (OnLantern.trans marked_of_filled hl (onLantern_modLantern hl _ ?_)
    (startFill_filled (by simpa using hl))) (onLantern_modLantern ?_ _ rfl)
  · exact ⟨forall_marked _ fun _ => rfl, rfl, rfl, rfl⟩
  · rwa [(startFill_filled (by simpa using hl)).length, modLantern_lanterns, List.length_modify]

end

/-! ### O56 -/

/-- Settles O56: each clause is one command of the lens, and what it changes is one lantern's alone. -/
theorem lensEngine : Obligations.LensEngine := by
  unfold Obligations.LensEngine
  intro s l hi hl192 x
  have hl : l < s.lanterns.length := by rw [hi.1.1.1]; exact hl192
  refine ⟨?drainsFirst, ?streams, ?holds, ?drainExists, ?drainStarts, ?drains, ?tileLoads,
    ?releases, ?retires, ?clock⟩
  case drainsFirst =>
    intro j hp y
    have h := letDrains_drained hp hl j
    obtain ⟨hy, hlen⟩ := h.lantern hl
    exact ⟨h.others, h.outside, h.moorings, congrArg (·.vec) hy, congrArg (·.tile) hy, congrArg (·.shadow) hy,
      congrArg (·.passesRead) hy, hlen, letDrains_idle⟩
  case streams =>
    intro j t0 hv hn hr hh ht hp
    have hd := letDrains_drained hp hl j
    have hy := (hd.lantern hl).1
    have hs := streamPass_passed (hd.poison.trans hp) (hd.length ▸ hl) j t0
    obtain ⟨htile, hshadow, hread, hfill, ⟨w, hq⟩, hmis, hvec, hev⟩ := hs.lantern (hd.length ▸ hl)
    have hst : OnLantern (fun _ _ => True) s l (streamPass (letDrains s l j) l j t0 []) :=
      hd.trans (fun _ _ _ _ _ => trivial) hl hs
    refine ⟨_, w, execPass_streams hv hn hr hh ht, htile, ?_, ?_, hfill, hq, ?_, ?_, ?_, hst.others, hst.outside,
      hst.moorings⟩
    · rw [hshadow, hy]
    · rw [hread, hy]
    · rw [hmis, hy]
    · rw [hvec, hy]
    · rw [hev, hy]
  case holds => exact fun j es hv hn hr hh => execPass_holds es hv hn hr hh
  case drainExists =>
    intro j hj hp hr
    obtain ⟨k, hk⟩ := nextDrain_exists hj hp hr
    exact ⟨k, hk, (nextDrain_some hk).2.2⟩
  case drainStarts => exact fun j hv hn hd => congrArg Host.Outcome.next (startDrain_next hv hn hd)
  case drains =>
    intro j hv hn hd hm hnd
    have hj := onlyJob_of_nodup (nextDrain_some hn).1 hnd
    have he := drainOnce_next hv hn hd
    rw [maskedVectors_unmasked _ _ hm] at he
    obtain ⟨rows, hrows, hlen, hjobs⟩ := deliverRows_rows j (maskedVectors s l j.desc).1 32 _ _
      (hj.modJob (f := fun q => { q with draining := true }) fun _ => rfl) rfl
    have hx := congrArg (lanternAt · l) he
    rw [lanternAt_modLantern_same _ _ _ hl] at hx
    have hD : OnLantern Drained s l (drainOnce s l) :=
      he ▸ onLantern_modLantern hl _ (drained_trans _ _ _ (drained_modJob ..) (drained_deliverRows ..))
    have hy := (hD.lantern hl).1
    refine ⟨_, rows, rfl, ?_, ?_, ?_, congrArg (·.acc) hy, congrArg (·.vec) hy, hD.others, hD.outside, hD.moorings⟩
    · rw [hx]; exact hrows
    · rw [hlen]
      change min 32 (min (32 - x.drainQ.length) (drainRows j.desc - j.drained)) = _
      omega
    · rw [hx]; exact hjobs
  case tileLoads =>
    intro j hv hn hp hj
    have h (f : Lantern → Lantern) := onLantern_modLantern (P := fun _ _ => True) hl f trivial
    refine ⟨_, execTileLoadStart_loads hp hv hn hj, ?_, ?_, ?_, (h _).others, (h _).outside⟩
    all_goals rw [lanternAt_modLantern_same _ _ _ hl]; rfl
  case releases =>
    intro j hj
    have h := releaseTile_marks hl hj
    obtain ⟨hq, ht, -, -⟩ := h.lantern hl
    exact ⟨_, rfl, h.others, h.outside, h.moorings, hq, ht⟩
  case retires =>
    intro j hj
    have h := retireLens_retires hl hj
    exact ⟨_, rfl, h.others, h.outside, h.moorings, h.lantern hl⟩
  case clock => exact fun j hn hv he hc => execLensClockChange_changes hn hv he hc

end Sys2Proof.Machine
end
section
/-! PROOFS. What the event log of flash keeps: an event stays in it through all that a module does when a member is lost, a
lantern goes into compute reset or a part is retired (R387). -/

namespace Sys2Proof.Machine

/-- The event is in the log of flash (R387). -/
def HasEvent (ev : Event) (s : State) : Prop := ev ∈ s.flash.log

/-- A result that may be a state: if it is one, it has the event. -/
def ExceptHasEvent (ev : Event) (r : Except Nat State) : Prop := ∀ t, r = .ok t → HasEvent ev t

section
variable {ev : Event} {s t : State}

/-! ### The event and the ways of changing a state -/

theorem hasEvent_of_flash (hf : t.flash = s.flash) (h : HasEvent ev s) : HasEvent ev t := by
  unfold HasEvent
  rwa [hf]

theorem hasEvent_of_grows (hf : LogGrows s.flash t.flash) (h : HasEvent ev s) : HasEvent ev t := by
  obtain ⟨es, -, hf⟩ := hf
  unfold HasEvent
  rw [hf]
  exact List.mem_append_left _ h

theorem hasEvent_mk {pending power boot funcs keeper moorings lanterns towers sysChans mem poison host router time shore out
    free}
    (h : HasEvent ev s) : HasEvent ev (State.mk pending power boot s.flash funcs keeper moorings lanterns towers sysChans mem
      poison host router time shore out free) := h

theorem hasEvent_modFlash {f : Flash → Flash} (hf : ev ∈ s.flash.log → ev ∈ (f s.flash).log) (h : HasEvent ev s) :
    HasEvent ev (modFlash s f) := hf h

theorem exceptHasEvent_apply {r : Except Nat State} (h : ExceptHasEvent ev r) (hr : r = .ok t) : HasEvent ev t := h t hr

theorem hasEvent_of_snd {β : Type} {p : β × State} {b : β} (h : HasEvent ev p.2) (hp : p = (b, t)) : HasEvent ev t := by
  subst hp
  exact h

/-- A fold over whatever carries a state keeps the event where each of its steps does. -/
theorem hasEvent_foldl {α : Type} {g : State → α → State} {xs : List α}
    (hg : ∀ s x, HasEvent ev s → HasEvent ev (g s x)) (h : HasEvent ev s) : HasEvent ev (xs.foldl g s) :=
  List.foldlRecOn (motive := HasEvent ev) xs g h fun s hs x _ => hg s x hs

theorem hasEvent_foldl_fst {α β : Type} {g : State × β → α → State × β} {xs : List α} {p : State × β}
    (hg : ∀ p x, HasEvent ev p.1 → HasEvent ev (g p x).1) (h : HasEvent ev p.1) : HasEvent ev (xs.foldl g p).1 :=
  List.foldlRecOn (motive := fun p => HasEvent ev p.1) xs g h fun p hp x _ => hg p x hp

theorem hasEvent_foldlWriting {α : Type} {g : Writing → α → Writing} {xs : List α} {p : Writing}
    (hg : ∀ p x, HasEvent ev p.s → HasEvent ev (g p x).s) (h : HasEvent ev p.s) : HasEvent ev (xs.foldl g p).s :=
  List.foldlRecOn (motive := fun p => HasEvent ev p.s) xs g h fun p hp x _ => hg p x hp

theorem hasEvent_modLantern {l : Nat} {f : Lantern → Lantern} (h : HasEvent ev s) : HasEvent ev (modLantern s l f) := h

theorem hasEvent_modVec {l : Nat} {f : VEngine → VEngine} (h : HasEvent ev s) : HasEvent ev (modVec s l f) := h

theorem hasEvent_modTower {t : Nat} {f : Tower → Tower} (h : HasEvent ev s) : HasEvent ev (modTower s t f) := h

theorem hasEvent_modChan {c : Chan} {f : DmaChan → DmaChan} (h : HasEvent ev s) : HasEvent ev (modChan s c f) :=
    hasEvent_of_flash (modChan_flash ..) h

theorem hasEvent_modFunc {i : Nat} {f : Func → Func} (h : HasEvent ev s) : HasEvent ev (modFunc s i f) := h

theorem hasEvent_modRouter {f : Router → Router} (h : HasEvent ev s) : HasEvent ev (modRouter s f) := h

theorem hasEvent_modPort {p : Nat} {f : Port → Port} (h : HasEvent ev s) : HasEvent ev (modPort s p f) := h

theorem hasEvent_modKeeper {f : Keeper → Keeper} (h : HasEvent ev s) : HasEvent ev (modKeeper s f) := h

theorem hasEvent_modBoot {f : Boot → Boot} (h : HasEvent ev s) : HasEvent ev (modBoot s f) := h

theorem hasEvent_modTime {f : TimeState → TimeState} (h : HasEvent ev s) : HasEvent ev (modTime s f) := h

theorem hasEvent_modMooring {id : Nat} {f : Mooring → Mooring} (h : HasEvent ev s) : HasEvent ev (modMooring s id f) := h

theorem hasEvent_modShore {c : Nat} {f : ShoreCore → ShoreCore} (h : HasEvent ev s) : HasEvent ev (modShore s c f) := h

theorem hasEvent_drawFree (h : HasEvent ev s) : HasEvent ev (drawFree s).2 := h

/-! ### What leaves the log alone, or adds to it alone -/

theorem hasEvent_tellNode {d : Nat} {m : KeeperMsg} (h : HasEvent ev s) : HasEvent ev (tellNode s d m) :=
  hasEvent_of_grows (outward_tellNode d m).2.1 h

theorem hasEvent_tellNodes {m : KeeperMsg} {ns : List Nat} (h : HasEvent ev s) : HasEvent ev (tellNodes s m ns) :=
  hasEvent_of_grows (outward_tellNodes m ns s).2.1 h

theorem hasEvent_sendSeq {tower : Nat} {p : Packet} (h : HasEvent ev s) : HasEvent ev (sendSeq s tower p) :=
  hasEvent_of_grows (outward_sendSeq tower p).2.1 h

theorem hasEvent_postRecord {f q : Nat} {tag : Option Nat} {r : Nat} (h : HasEvent ev s) : HasEvent ev (postRecord s f q tag
    r) :=
  hasEvent_of_grows (outward_postRecord f q tag r).2.1 h

theorem hasEvent_raiseEventIn {dom : Domain} {code : Nat} {mooring : Option Nat} {unit detail : Nat} {more : List Nat}
    (h : HasEvent ev s) : HasEvent ev (raiseEventIn s dom code mooring unit detail more) := by
  obtain ⟨v, -, -, -, ho⟩ := raiseEventIn_outward (s := s) dom code mooring unit detail more
  exact hasEvent_of_grows ho.2.1 (List.mem_append_left _ h)

theorem hasEvent_loseAssembly {p : Nat} (h : HasEvent ev s) : HasEvent ev (loseAssembly s p) :=
  hasEvent_of_grows (outward_loseAssembly p).2.1 h

theorem hasEvent_loseSending {p : Nat} (h : HasEvent ev s) : HasEvent ev (loseSending s p) :=
  hasEvent_of_grows (outward_loseSending p).2.1 h

theorem hasEvent_rechoose {p : Nat} (h : HasEvent ev s) : HasEvent ev (rechoose s p) :=
  hasEvent_of_grows (outward_rechoose p).2.1 h

theorem hasEvent_writeMem {a : Nat} {bs : List Byte} (h : HasEvent ev s) : HasEvent ev (writeMem s a bs) :=
  hasEvent_of_flash (sameCore_writeMem a bs).2.1 h

theorem hasEvent_openLines {cells : List (Nat × Byte)} {ls : List Nat} (h : HasEvent ev s) : HasEvent ev (openLines cells ls
    s).2 :=
  hasEvent_of_flash (sameCore_openLines cells ls s).2.1 h

theorem hasEvent_writePiece {c : Chan} {ctx : Ctx} {w : Writing} {p : Nat × List Byte} (h : HasEvent ev w.s) :
    HasEvent ev (writePiece c ctx w p).s := hasEvent_of_flash (sameCore_writePiece c ctx w p).2.1 h

theorem exceptHasEvent_keeperWrite {f a : Nat} {bs : List Byte} (h : HasEvent ev s) : ExceptHasEvent ev (keeperWrite s f a bs) :=
  fun _ hk => hasEvent_of_flash (keeperWrite_units hk).2.1 h

theorem hasEvent_peerWrites {tower mooring : Nat} {dom : Domain} {w base : Nat} {bs : List Byte} {who : Nat → PeerFor}
    {ps : List (Nat × Nat)} (h : HasEvent ev s) : HasEvent ev (peerWrites s tower mooring dom w base bs who ps).1 := by
  obtain ⟨r, n, hr⟩ := onlyRouter_peerWrites tower mooring dom w base bs who ps s
  exact hasEvent_of_flash (congrArg (·.flash) hr) h

theorem hasEvent_freeBytes {n : Nat} (h : HasEvent ev s) : HasEvent ev (freeBytes n s).2 := by
  obtain ⟨r, k, hr⟩ := onlyRouter_freeBytes n s
  exact hasEvent_of_flash (congrArg (·.flash) hr) h

theorem hasEvent_advanceDaymark {d : Domain} (h : HasEvent ev s) : HasEvent ev (advanceDaymark s d) := by
  obtain ⟨-, -, -, -, hf, -⟩ := advanceDaymark_rest (s := s) d
  exact hasEvent_of_flash hf h

theorem hasEvent_stopLantern {l : Nat} (h : HasEvent ev s) : HasEvent ev (stopLantern s l) := by
  obtain ⟨-, -, hf, -⟩ := stopLantern_rest (s := s) l
  exact hasEvent_of_flash hf h

theorem hasEvent_holdTower {t : Nat} (h : HasEvent ev s) : HasEvent ev (holdTower s t) :=
  hasEvent_of_flash (holdTower_rest s t).2.1 h

end

section
variable {ev : Event}

/-! ### Machine/Mem.lean -/

theorem hasEvent_addPoison {s : State} {line : Nat} (ok_s : HasEvent ev s) : HasEvent ev (addPoison s line) := by
  unfold addPoison
  repeat' with_reducible first | assumption | apply hasEvent_mk

theorem hasEvent_clearMem {s : State} {lo hi : Nat} (ok_s : HasEvent ev s) : HasEvent ev (clearMem s lo hi) := by
  unfold clearMem
  repeat' with_reducible first | assumption | apply hasEvent_mk

theorem hasEvent_openCells {s : State} {cells : List (Nat × Byte)}
    (ok_s : HasEvent ev s) : HasEvent ev (openCells s cells).2 := by
  unfold openCells
  repeat' with_reducible first | assumption | apply hasEvent_openLines

theorem hasEvent_hostWrite {s : State} {a : Nat} {bs : List Byte} (ok_s : HasEvent ev s) : HasEvent ev (hostWrite s a bs) := by
  unfold hostWrite
  repeat' with_reducible first | assumption | apply hasEvent_mk

theorem hasEvent_noteReq {s : State} {tag len : Nat} {who : PeerFor} {dom : Domain}
    (ok_s : HasEvent ev s) : HasEvent ev (noteReq s tag len who dom) := by
  unfold noteReq
  repeat' with_reducible first | assumption | apply hasEvent_modRouter

theorem hasEvent_peerRead {s : State} {tower mooring : Nat} {dom : Domain} {w a n : Nat} {who : PeerFor}
    (ok_s : HasEvent ev s) : HasEvent ev (peerRead s tower mooring dom w a n who).1 := by
  unfold peerRead
  repeat' with_reducible first | assumption | apply hasEvent_noteReq | apply hasEvent_sendSeq

theorem hasEvent_peerReads {s : State} {tower mooring : Nat} {dom : Domain} {w : Nat} {who : Nat → PeerFor} {x1 : List (Nat ×
    Nat)}
    (ok_s : HasEvent ev s) : HasEvent ev (peerReads s tower mooring dom w who x1).1 := by
  induction x1 generalizing s with
  | nil =>
    unfold peerReads
    repeat' with_reducible first | assumption
  | cons y ys ih =>
    unfold peerReads
    repeat' with_reducible first | assumption | apply ih | apply hasEvent_peerRead

/-! ### Machine/Queues.lean -/

theorem hasEvent_dropOp {s : State} {f tag : Nat} (ok_s : HasEvent ev s) : HasEvent ev (dropOp s f tag) := by
  unfold dropOp
  repeat' with_reducible first | assumption | apply hasEvent_modKeeper

theorem hasEvent_modOp {s : State} {f tag : Nat} {g : LongOp → LongOp}
    (ok_s : HasEvent ev s) : HasEvent ev (modOp s f tag g) := by
  unfold modOp
  repeat' with_reducible first | assumption | apply hasEvent_modKeeper

theorem hasEvent_finishOp {s : State} {f tag status flags detail : Nat}
    (ok_s : HasEvent ev s) : HasEvent ev (finishOp s f tag status flags detail) := by
  unfold finishOp
  repeat' with_reducible first
    | assumption | apply hasEvent_dropOp | apply hasEvent_tellNode | apply hasEvent_postRecord | split

theorem hasEvent_stepRecord {s : State} {o : LongOp} {status flags step : Nat}
    (ok_s : HasEvent ev s) : HasEvent ev (stepRecord s o status flags step) := by
  unfold stepRecord
  repeat' with_reducible first | assumption | apply hasEvent_tellNode | apply hasEvent_postRecord | split

theorem hasEvent_raiseEventMore {s : State} {code : Nat} {mooring : Option Nat} {unit detail : Nat} {more : List Nat}
    (ok_s : HasEvent ev s) : HasEvent ev (raiseEventMore s code mooring unit detail more) := by
  unfold raiseEventMore
  repeat' with_reducible first | assumption | apply hasEvent_raiseEventIn

theorem hasEvent_raiseEvent {s : State} {code : Nat} {mooring : Option Nat} {unit detail : Nat}
    (ok_s : HasEvent ev s) : HasEvent ev (raiseEvent s code mooring unit detail) := by
  unfold raiseEvent
  repeat' with_reducible first | assumption | apply hasEvent_raiseEventMore

theorem hasEvent_raiseEventP {s : State} {code unit detail : Nat}
    (ok_s : HasEvent ev s) : HasEvent ev (raiseEventP s code unit detail) := by
  unfold raiseEventP
  repeat' with_reducible first | assumption | apply hasEvent_raiseEvent

theorem hasEvent_lanternEvent {s : State} {code l unit detail : Nat} {more : List Nat}
    (ok_s : HasEvent ev s) : HasEvent ev (lanternEvent s code l unit detail more) := by
  unfold lanternEvent
  repeat' with_reducible first | assumption | apply hasEvent_raiseEventIn

theorem hasEvent_setFault {s : State} {l : Nat} (ok_s : HasEvent ev s) : HasEvent ev (setFault s l) := by
  unfold setFault
  repeat' with_reducible first | assumption | apply hasEvent_modLantern

/-! ### Machine/Registers.lean -/

theorem hasEvent_shoreFault {s : State} {core addr : Nat} (ok_s : HasEvent ev s) : HasEvent ev (shoreFault s core addr) := by
  unfold shoreFault
  repeat' with_reducible first | assumption | apply hasEvent_modShore

/-! ### Machine/Stream.lean -/

theorem hasEvent_bumpChan {s : State} {c : Chan} {i n : Nat} (ok_s : HasEvent ev s) : HasEvent ev (bumpChan s c i n) := by
  unfold bumpChan
  repeat' with_reducible first | assumption | apply hasEvent_modChan

theorem hasEvent_overlapBytes {s : State} {reads : List (Nat × Nat × Nat)} {x1 : List (Nat × Nat × Byte)} {x2 : List (Nat ×
    Byte)}
    (ok_s : HasEvent ev s) : HasEvent ev (overlapBytes s reads x1 x2).1 := by
  induction x1 generalizing s x2 with
  | nil =>
    unfold overlapBytes
    repeat' with_reducible first | assumption
  | cons y ys ih =>
    unfold overlapBytes
    repeat' with_reducible first | assumption | apply ih | apply hasEvent_drawFree | split

theorem hasEvent_overlapPieces {s : State} {ctx : Ctx} {j : DmaJob} {o : DmaOut}
    (ok_s : HasEvent ev s) : HasEvent ev (overlapPieces s ctx j o).1 := by
  unfold overlapPieces
  repeat' with_reducible first | assumption | apply hasEvent_overlapBytes | split

theorem hasEvent_writeSome {c : Chan} {ctx : Ctx} {w : Writing} {pieces : List (Nat × List Byte × Bool)} (ok_w : HasEvent ev
    w.s) :
    HasEvent ev (writeSome c ctx w pieces).s := by
  unfold writeSome
  refine hasEvent_foldlWriting ?_ (hasEvent_openCells ok_w)
  intro w p h
  split
  · exact h
  · exact hasEvent_writePiece h

/-! ### Machine/Recover.lean -/

theorem hasEvent_setConfig {s : State} {f : ConfigRec → ConfigRec} (ok_s : HasEvent ev s) : HasEvent ev (setConfig s f) := by
  unfold setConfig
  repeat' with_reducible first | assumption | apply hasEvent_modFlash id | split

theorem hasEvent_stepDaymark {s : State} {x1 : Domain} (ok_s : HasEvent ev s) : HasEvent ev (stepDaymark s x1) := by
  unfold stepDaymark
  repeat' with_reducible first
    | assumption | apply hasEvent_modLantern | apply hasEvent_modTower | apply hasEvent_modShore | apply hasEvent_modKeeper
    | apply hasEvent_modMooring | split

theorem hasEvent_noteAdvance {s : State} {d : Domain} (ok_s : HasEvent ev s) : HasEvent ev (noteAdvance s d) := by
  unfold noteAdvance
  repeat' with_reducible first | assumption | apply hasEvent_modKeeper

theorem hasEvent_advanceNow {s : State} {d : Domain} (ok_s : HasEvent ev s) : HasEvent ev (advanceNow s d) := by
  unfold advanceNow
  repeat' with_reducible first | assumption | apply hasEvent_noteAdvance | apply hasEvent_stepDaymark

theorem hasEvent_bumpLantern {s : State} {l i : Nat} (ok_s : HasEvent ev s) : HasEvent ev (bumpLantern s l i) := by
  unfold bumpLantern
  repeat' with_reducible first | assumption | apply hasEvent_modLantern

theorem hasEvent_bumpModule {s : State} {i n : Nat} (ok_s : HasEvent ev s) : HasEvent ev (bumpModule s i n) := by
  unfold bumpModule
  repeat' with_reducible first | assumption | apply hasEvent_modKeeper

theorem hasEvent_clearStore {s : State} {l : Nat} (ok_s : HasEvent ev s) : HasEvent ev (clearStore s l) := by
  unfold clearStore
  repeat' with_reducible first | assumption | apply hasEvent_clearMem

theorem hasEvent_retireLantern {s : State} {l : Nat} (ok_s : HasEvent ev s) : HasEvent ev (retireLantern s l) := by
  unfold retireLantern
  repeat' with_reducible first
    | assumption | apply hasEvent_raiseEventIn | apply hasEvent_clearStore | apply hasEvent_modLantern
    | apply hasEvent_setConfig | apply hasEvent_modKeeper | apply hasEvent_advanceDaymark | split | dsimp only

theorem hasEvent_stopCore {s : State} {c : Nat} (ok_s : HasEvent ev s) : HasEvent ev (stopCore s c) := by
  unfold stopCore
  repeat' with_reducible first | assumption | apply hasEvent_modShore

theorem hasEvent_stopCores {s : State} {p : ShoreCore → Bool} (ok_s : HasEvent ev s) : HasEvent ev (stopCores s p) := by
  unfold stopCores
  repeat' with_reducible first | assumption | apply hasEvent_stopCore | intro _ | split | apply hasEvent_foldl

theorem hasEvent_reportRouterOnly {s : State} (ok_s : HasEvent ev s) : HasEvent ev (reportRouterOnly s) := by
  unfold reportRouterOnly
  repeat' with_reducible first | assumption | apply hasEvent_tellNode | intro _ | apply hasEvent_foldl

theorem hasEvent_endFill {s : State} (ok_s : HasEvent ev s) : HasEvent ev (endFill s) := by
  unfold endFill
  repeat' with_reducible first | assumption | apply hasEvent_mk

theorem hasEvent_endFillOf {s : State} {id : Nat} (ok_s : HasEvent ev s) : HasEvent ev (endFillOf s id) := by
  unfold endFillOf
  repeat' with_reducible first | assumption | apply hasEvent_mk

theorem hasEvent_enterRouterOnly {s : State} (ok_s : HasEvent ev s) : HasEvent ev (enterRouterOnly s) := by
  unfold enterRouterOnly
  repeat' with_reducible first
    | assumption | apply hasEvent_modBoot | apply hasEvent_holdTower | apply hasEvent_endFill | apply hasEvent_stopCores
    | apply hasEvent_reportRouterOnly | apply hasEvent_raiseEventP | apply hasEvent_bumpModule | split | apply hasEvent_foldl

theorem hasEvent_leaveReached {s : State} {id : Nat} (ok_s : HasEvent ev s) : HasEvent ev (leaveReached s id) := by
  unfold leaveReached
  repeat' with_reducible first | assumption | apply hasEvent_modKeeper | apply hasEvent_enterRouterOnly | split | dsimp only

theorem hasEvent_endBist {s : State} {o : LongOp} {status : Nat} (ok_s : HasEvent ev s) : HasEvent ev (endBist s o status) := by
  unfold endBist
  repeat' with_reducible first
    | assumption | apply hasEvent_drawFree | apply exceptHasEvent_keeperWrite | apply hasEvent_modKeeper
    | apply hasEvent_finishOp | (refine exceptHasEvent_apply ?_ (by assumption)) | split

theorem hasEvent_bistCut {s : State} {t : Nat} (ok_s : HasEvent ev s) : HasEvent ev (bistCut s t) := by
  unfold bistCut
  repeat' with_reducible first | assumption | apply hasEvent_endBist | split

theorem hasEvent_startLanternReset {s : State} {l : Nat} {test : Bool}
    (ok_s : HasEvent ev s) : HasEvent ev (startLanternReset s l test) := by
  unfold startLanternReset
  repeat' with_reducible first
    | assumption | apply hasEvent_lanternEvent | apply hasEvent_bistCut | apply hasEvent_modKeeper
    | apply hasEvent_bumpLantern | apply hasEvent_stopLantern | apply hasEvent_modLantern | apply hasEvent_retireLantern
    | split | dsimp only

theorem hasEvent_slotShows {s : State} {id func run committed daymark : Nat}
    (ok_s : HasEvent ev s) : HasEvent ev (slotShows s id func run committed daymark) := by
  unfold slotShows
  repeat' with_reducible first | assumption | apply hasEvent_modFunc

theorem hasEvent_slotGone {s : State} {id func : Nat} (ok_s : HasEvent ev s) : HasEvent ev (slotGone s id func) := by
  unfold slotGone
  repeat' with_reducible first | assumption | apply hasEvent_modFunc

theorem hasEvent_tellSlot {s : State} {id : Nat} (ok_s : HasEvent ev s) : HasEvent ev (tellSlot s id) := by
  unfold tellSlot
  repeat' with_reducible first | assumption | apply hasEvent_tellNode | split

theorem hasEvent_closeSlot {s : State} {m : Mooring} (ok_s : HasEvent ev s) : HasEvent ev (closeSlot s m) := by
  unfold closeSlot
  repeat' with_reducible first | assumption | apply hasEvent_slotGone | apply hasEvent_tellNode | split

theorem hasEvent_releaseMooring {s : State} {id : Nat} (ok_s : HasEvent ev s) : HasEvent ev (releaseMooring s id) := by
  unfold releaseMooring
  repeat' with_reducible first
    | assumption | apply hasEvent_slotShows | apply hasEvent_stopCores | apply hasEvent_modKeeper
    | apply hasEvent_leaveReached | split | dsimp only | apply hasEvent_mk

/-! ### Machine/Links.lean -/

theorem hasEvent_followRoot {s : State} {root : Nat} (ok_s : HasEvent ev s) : HasEvent ev (followRoot s root) := by
  unfold followRoot
  repeat' with_reducible first | assumption | apply hasEvent_modTime | apply hasEvent_raiseEventP | split | dsimp only

theorem hasEvent_reconsider {s : State} (ok_s : HasEvent ev s) : HasEvent ev (reconsider s) := by
  unfold reconsider
  repeat' with_reducible first | assumption | apply hasEvent_followRoot | apply hasEvent_modTime | split

theorem hasEvent_linkDown {s : State} {port : Nat} (ok_s : HasEvent ev s) : HasEvent ev (linkDown s port) := by
  unfold linkDown
  repeat' with_reducible first
    | assumption | apply hasEvent_rechoose | apply hasEvent_loseSending | apply hasEvent_reconsider
    | apply hasEvent_loseAssembly | apply hasEvent_modPort | split

theorem hasEvent_installBank {s : State} {es : List LightEntry} (ok_s : HasEvent ev s) : HasEvent ev (installBank s es) := by
  unfold installBank
  repeat' with_reducible first | assumption | apply hasEvent_modRouter

theorem hasEvent_leavePortsDown {s : State} (ok_s : HasEvent ev s) : HasEvent ev (leavePortsDown s) := by
  unfold leavePortsDown
  repeat' with_reducible first
    | assumption | apply hasEvent_foldl | apply hasEvent_modPort | apply hasEvent_linkDown | intro _ | split

theorem hasEvent_bypassNode {s : State} {node : Nat} (ok_s : HasEvent ev s) : HasEvent ev (bypassNode s node) := by
  unfold bypassNode
  repeat' with_reducible first
    | assumption | apply hasEvent_leavePortsDown | apply hasEvent_raiseEventP | apply hasEvent_installBank | split
    | dsimp only

/-! ### Machine/Work.lean -/

theorem hasEvent_bumpBeacon {s : State} {l i n : Nat} (ok_s : HasEvent ev s) : HasEvent ev (bumpBeacon s l i n) := by
  unfold bumpBeacon
  repeat' with_reducible first | assumption | apply hasEvent_modLantern

theorem hasEvent_bumpEvent {s : State} {l k n : Nat} (ok_s : HasEvent ev s) : HasEvent ev (bumpEvent s l k n) := by
  unfold bumpEvent
  repeat' with_reducible first | assumption | apply hasEvent_modLantern

theorem hasEvent_bumpEcc {s : State} {u : EccUnit} {i n : Nat} (ok_s : HasEvent ev s) : HasEvent ev (bumpEcc s u i n) := by
  unfold bumpEcc
  repeat' with_reducible first | assumption | apply hasEvent_modKeeper

theorem hasEvent_notePoisonLine {s : State} {mooring : Option Nat} {unit line : Nat}
    (ok_s : HasEvent ev s) : HasEvent ev (notePoisonLine s mooring unit line) := by
  unfold notePoisonLine
  repeat' with_reducible first
    | assumption | apply hasEvent_bumpEcc | apply hasEvent_raiseEvent | apply hasEvent_modMooring | split

theorem hasEvent_notePoison {s : State} {l a n : Nat} (ok_s : HasEvent ev s) : HasEvent ev (notePoison s l a n) := by
  unfold notePoison
  repeat' with_reducible first
    | assumption | apply hasEvent_notePoisonLine | apply hasEvent_setFault | intro _ | split | apply hasEvent_foldl

theorem hasEvent_keeperAnswer {s : State} {tag key : Nat} {bs : List Byte} {status : Nat}
    (ok_s : HasEvent ev s) : HasEvent ev (keeperAnswer s tag key bs status) := by
  unfold keeperAnswer
  repeat' with_reducible first | assumption | apply hasEvent_modKeeper

theorem hasEvent_sysCopy {s : State} {n : Nat} (ok_s : HasEvent ev s) : HasEvent ev (sysCopy s n) := by
  unfold sysCopy
  repeat' with_reducible first | assumption | apply hasEvent_modChan

/-! ### Machine/Lens.lean -/

theorem hasEvent_maskBytes {s : State} {l off x1 : Nat} (ok_s : HasEvent ev s) : HasEvent ev (maskBytes s l off x1).2 := by
  induction x1 generalizing s with
  | zero =>
    unfold maskBytes
    repeat' with_reducible first | assumption
  | succ n ih =>
    unfold maskBytes
    repeat' with_reducible first
      | assumption | apply ih | apply hasEvent_drawFree | apply hasEvent_notePoison | split | dsimp only

theorem hasEvent_maskedVectors {s : State} {l : Nat} {d : LensDesc}
    (ok_s : HasEvent ev s) : HasEvent ev (maskedVectors s l d).2 := by
  unfold maskedVectors
  repeat' with_reducible first | assumption | apply hasEvent_maskBytes | split

theorem hasEvent_startDrain {s : State} {l : Nat} (ok_s : HasEvent ev s) : HasEvent ev (startDrain s l) := by
  unfold startDrain
  repeat' with_reducible first | assumption | apply hasEvent_modLantern | split | dsimp only

theorem hasEvent_drainOnce {s : State} {l : Nat} (ok_s : HasEvent ev s) : HasEvent ev (drainOnce s l) := by
  unfold drainOnce
  repeat' with_reducible first | assumption | apply hasEvent_maskedVectors | apply hasEvent_modLantern | split | dsimp only

theorem hasEvent_startFill {s : State} {l : Nat} (ok_s : HasEvent ev s) : HasEvent ev (startFill s l) := by
  unfold startFill
  repeat' with_reducible first | assumption | apply hasEvent_modLantern | split | dsimp only

theorem hasEvent_releaseTile {s : State} {l : Nat} (ok_s : HasEvent ev s) : HasEvent ev (releaseTile s l) := by
  unfold releaseTile
  repeat' with_reducible first | assumption | apply hasEvent_startFill | apply hasEvent_modLantern | split | dsimp only

theorem hasEvent_retireLens {s : State} {l : Nat} (ok_s : HasEvent ev s) : HasEvent ev (retireLens s l) := by
  unfold retireLens
  repeat' with_reducible first
    | assumption | apply hasEvent_startFill | apply hasEvent_modLantern | apply hasEvent_bumpEvent | apply hasEvent_bumpBeacon
    | split

/-! ### Machine/Vector.lean -/

theorem hasEvent_vecAddrErrorAt {s : State} {l cause row index : Nat}
    (ok_s : HasEvent ev s) : HasEvent ev (vecAddrErrorAt s l cause row index) := by
  unfold vecAddrErrorAt
  repeat' with_reducible first | assumption | apply hasEvent_lanternEvent | apply hasEvent_modVec | apply hasEvent_setFault

theorem hasEvent_vecAddrError {s : State} {l cause : Nat} (ok_s : HasEvent ev s) : HasEvent ev (vecAddrError s l cause) := by
  unfold vecAddrError
  repeat' with_reducible first | assumption | apply hasEvent_vecAddrErrorAt

theorem hasEvent_storeLocal {s : State} {l a : Nat} {bs : List Byte}
    (ok_s : HasEvent ev s) : HasEvent ev (storeLocal s l a bs) := by
  unfold storeLocal
  repeat' with_reducible first | assumption | apply hasEvent_setFault | apply hasEvent_writeMem | split

theorem hasEvent_performPieceAt {s : State} {l row index : Nat} {p : Nat × List Byte}
    (ok_s : HasEvent ev s) : HasEvent ev (performPieceAt s l row index p) := by
  unfold performPieceAt
  repeat' with_reducible first
    | assumption | apply hasEvent_storeLocal | apply hasEvent_peerWrites | apply hasEvent_modVec | apply hasEvent_hostWrite
    | apply hasEvent_vecAddrErrorAt | split

theorem hasEvent_performPiece {s : State} {l : Nat} {p : Nat × List Byte}
    (ok_s : HasEvent ev s) : HasEvent ev (performPiece s l p) := by
  unfold performPiece
  repeat' with_reducible first | assumption | apply hasEvent_performPieceAt

theorem hasEvent_performStore {s : State} {l : Nat} {st : VStore}
    (ok_s : HasEvent ev s) : HasEvent ev (performStore s l st) := by
  unfold performStore
  repeat' with_reducible first | assumption | apply hasEvent_performPieceAt | intro _ | apply hasEvent_foldl

theorem hasEvent_performStores {s : State} {l : Nat} (ok_s : HasEvent ev s) : HasEvent ev (performStores s l) := by
  unfold performStores
  repeat' with_reducible first
    | assumption | apply hasEvent_performStore | apply hasEvent_modVec | intro _ | apply hasEvent_foldl

theorem hasEvent_issueStore {s : State} {l : Nat} {pieces : List (Nat × List Byte)}
    (ok_s : HasEvent ev s) : HasEvent ev (issueStore s l pieces) := by
  unfold issueStore
  repeat' with_reducible first
    | assumption | apply hasEvent_vecAddrError | apply hasEvent_performStore | apply hasEvent_performStores
    | apply hasEvent_modVec | split | dsimp only

theorem hasEvent_fetchPart {s : State} {l : Nat} {ld : VLoad} {p : LoadPart}
    (ok_s : HasEvent ev s) : HasEvent ev (fetchPart s l ld p).1 := by
  unfold fetchPart
  repeat' with_reducible first
    | assumption | apply hasEvent_vecAddrError | apply hasEvent_notePoison | apply hasEvent_peerReads | split

theorem hasEvent_fetchParts {s : State} {l : Nat} {ld : VLoad} {ps : List LoadPart}
    (ok_s : HasEvent ev s) : HasEvent ev (fetchParts s l ld ps).1 := by
  unfold fetchParts
  repeat' with_reducible first | assumption | apply hasEvent_fetchPart | intro _ | apply hasEvent_foldl_fst

theorem hasEvent_issueLoad {s : State} {l vd : Nat} {kind : LoadKind} {w : BitVec 128} {parts : List LoadPart}
    (ok_s : HasEvent ev s) : HasEvent ev (issueLoad s l vd kind w parts) := by
  unfold issueLoad
  repeat' with_reducible first
    | assumption | apply hasEvent_vecAddrError | apply hasEvent_modVec | apply hasEvent_fetchParts
    | apply hasEvent_performStores | split

theorem hasEvent_issueLdb {s : State} {l : Nat} {f : VFields} (ok_s : HasEvent ev s) : HasEvent ev (issueLdb s l f) := by
  unfold issueLdb
  repeat' with_reducible first | assumption | apply hasEvent_issueLoad

theorem hasEvent_issueLdw {s : State} {l : Nat} {f : VFields} (ok_s : HasEvent ev s) : HasEvent ev (issueLdw s l f) := by
  unfold issueLdw
  repeat' with_reducible first | assumption | apply hasEvent_issueLoad

theorem hasEvent_issueLdr {s : State} {l : Nat} {f : VFields} (ok_s : HasEvent ev s) : HasEvent ev (issueLdr s l f) := by
  unfold issueLdr
  repeat' with_reducible first | assumption | apply hasEvent_issueLoad

theorem hasEvent_issueStb {s : State} {l : Nat} {f : VFields} (ok_s : HasEvent ev s) : HasEvent ev (issueStb s l f) := by
  unfold issueStb
  repeat' with_reducible first | assumption | apply hasEvent_modVec | apply hasEvent_issueStore

theorem hasEvent_issueStw {s : State} {l : Nat} {f : VFields} (ok_s : HasEvent ev s) : HasEvent ev (issueStw s l f) := by
  unfold issueStw
  repeat' with_reducible first | assumption | apply hasEvent_issueStore

theorem hasEvent_issueStr {s : State} {l : Nat} {f : VFields} (ok_s : HasEvent ev s) : HasEvent ev (issueStr s l f) := by
  unfold issueStr
  repeat' with_reducible first | assumption | apply hasEvent_issueStore

theorem hasEvent_issueMergeAdd {s : State} {l : Nat} {f : VFields}
    (ok_s : HasEvent ev s) : HasEvent ev (issueMergeAdd s l f) := by
  unfold issueMergeAdd
  repeat' with_reducible first | assumption | apply hasEvent_vecAddrError | apply hasEvent_modLantern | split | dsimp only

theorem hasEvent_issueMergeGet {s : State} {l : Nat} {f : VFields} {take : Bool}
    (ok_s : HasEvent ev s) : HasEvent ev (issueMergeGet s l f take) := by
  unfold issueMergeGet
  repeat' with_reducible first
    | assumption | apply hasEvent_vecAddrError | apply hasEvent_modVec | apply hasEvent_modLantern | split | dsimp only

theorem hasEvent_effect {s : State} {l op : Nat} {f : VFields} (ok_s : HasEvent ev s) : HasEvent ev (effect s l op f) := by
  unfold effect
  repeat' with_reducible first
    | assumption | apply hasEvent_modVec | apply hasEvent_issueMergeAdd | apply hasEvent_issueMergeGet
    | apply hasEvent_issueLdb | apply hasEvent_issueStb | apply hasEvent_issueLdw | apply hasEvent_issueStw
    | apply hasEvent_issueLdr | apply hasEvent_issueStr | split

theorem hasEvent_retireIns {s : State} {l : Nat} (ok_s : HasEvent ev s) : HasEvent ev (retireIns s l) := by
  unfold retireIns
  repeat' with_reducible first | assumption | apply hasEvent_bumpBeacon | apply hasEvent_modVec

theorem hasEvent_runIns {s : State} {l : Nat} {i : VIns} (ok_s : HasEvent ev s) : HasEvent ev (runIns s l i) := by
  unfold runIns
  repeat' with_reducible first | assumption | apply hasEvent_retireIns | apply hasEvent_effect

theorem hasEvent_runList {l : Nat} {x1 : List VIns} {x2 : State} (ok_x2 : HasEvent ev x2) : HasEvent ev (runList l x1 x2) := by
  induction x1 generalizing x2 with
  | nil =>
    unfold runList
    repeat' with_reducible first | assumption | apply hasEvent_modVec
  | cons y ys ih =>
    unfold runList
    repeat' with_reducible first | assumption | apply ih | apply hasEvent_modVec | apply hasEvent_runIns | split

theorem hasEvent_chainRow {s : State} {l : Nat} {j : BindJob} {i : Nat} {d : Option DrainRow}
    (ok_s : HasEvent ev s) : HasEvent ev (chainRow s l j i d) := by
  unfold chainRow
  repeat' with_reducible first | assumption | apply hasEvent_modLantern | apply hasEvent_runList | split | dsimp only

theorem hasEvent_chainTail {s : State} {l : Nat} {j : BindJob} {i : Nat}
    (ok_s : HasEvent ev s) : HasEvent ev (chainTail s l j i) := by
  unfold chainTail
  repeat' with_reducible first | assumption | apply hasEvent_modVec | apply hasEvent_runList

theorem hasEvent_arriveLoad {s : State} {l : Nat} (ok_s : HasEvent ev s) : HasEvent ev (arriveLoad s l) := by
  unfold arriveLoad
  repeat' with_reducible first | assumption | apply hasEvent_modVec | apply hasEvent_runList | split | dsimp only

/-! ### Machine/Dma.lean -/

theorem hasEvent_dmaRetire {s : State} {c : Chan} (ok_s : HasEvent ev s) : HasEvent ev (dmaRetire s c) := by
  unfold dmaRetire
  repeat' with_reducible first | assumption | apply hasEvent_bumpChan | apply hasEvent_bumpBeacon | split

theorem hasEvent_noteOverLimit {s : State} {id tensor : Nat}
    (ok_s : HasEvent ev s) : HasEvent ev (noteOverLimit s id tensor) := by
  unfold noteOverLimit
  repeat' with_reducible first | assumption | apply hasEvent_modMooring

theorem hasEvent_noteCmdBad {s : State} {c : Chan} {cause : Nat}
    (ok_s : HasEvent ev s) : HasEvent ev (noteCmdBad s c cause) := by
  unfold noteCmdBad
  repeat' with_reducible first | assumption | apply hasEvent_modChan

theorem hasEvent_dmaBad {s : State} {c : Chan} {r : DescRef} {cause addr : Nat}
    (ok_s : HasEvent ev s) : HasEvent ev (dmaBad s c r cause addr) := by
  unfold dmaBad
  repeat' with_reducible first
    | assumption | apply hasEvent_lanternEvent | apply hasEvent_noteCmdBad | apply hasEvent_bumpChan | apply hasEvent_setFault
    | apply hasEvent_modMooring | apply hasEvent_noteOverLimit | split

theorem hasEvent_noteJobPoison {s : State} {c : Chan} {j : DmaJob} {used : Nat}
    (ok_s : HasEvent ev s) : HasEvent ev (noteJobPoison s c j used) := by
  unfold noteJobPoison
  repeat' with_reducible first | assumption | apply hasEvent_notePoisonLine | intro _ | apply hasEvent_foldl

theorem hasEvent_performJob {s : State} {c : Chan} {priv : Bool} {j0 : DmaJob} {lost : List (Nat × Nat)} {forced : Nat × Nat}
    (ok_s : HasEvent ev s) : HasEvent ev (performJob s c priv j0 lost forced).s := by
  unfold performJob
  repeat' with_reducible first
    | assumption | apply hasEvent_overlapPieces | apply hasEvent_noteJobPoison | apply hasEvent_bumpChan
    | apply hasEvent_writePiece | apply hasEvent_writeSome | split | apply hasEvent_foldlWriting | dsimp only

theorem hasEvent_badFlight {s : State} {c : Chan} {f : DmaFlight} {tags : List Nat} {cause addr : Nat}
    (ok_s : HasEvent ev s) : HasEvent ev (badFlight s c f tags cause addr) := by
  unfold badFlight
  repeat' with_reducible first | assumption | apply hasEvent_modChan | apply hasEvent_dmaRetire | apply hasEvent_dmaBad | split

theorem hasEvent_performFlight {s : State} {c : Chan} {f : DmaFlight} {j : DmaJob} {lost : List (Nat × Nat)} {forced : Nat ×
    Nat}
    (ok_s : HasEvent ev s) : HasEvent ev (performFlight s c f j lost forced) := by
  unfold performFlight
  repeat' with_reducible first
    | assumption | apply hasEvent_badFlight | apply hasEvent_performJob | apply hasEvent_modChan | split | dsimp only

theorem hasEvent_takeFlight {s : State} {c : Chan} {p : DmaFlight → Bool}
    (ok_s : HasEvent ev s) : HasEvent ev (takeFlight s c p).2 := by
  unfold takeFlight
  repeat' with_reducible first | assumption | apply hasEvent_modChan | split

theorem hasEvent_putFlight {s : State} {c : Chan} {old new : DmaFlight}
    (ok_s : HasEvent ev s) : HasEvent ev (putFlight s c old new) := by
  unfold putFlight
  repeat' with_reducible first | assumption | apply hasEvent_modChan

theorem hasEvent_settleCopy {s : State} {c : Chan} (ok_s : HasEvent ev s) : HasEvent ev (settleCopy s c) := by
  unfold settleCopy
  repeat' with_reducible first | assumption | apply hasEvent_finishOp | split | dsimp only

theorem hasEvent_dmaAnswer {s : State} {c : Chan} {r : PeerReq} {data : List Byte} {status : Nat}
    (ok_s : HasEvent ev s) : HasEvent ev (dmaAnswer s c r data status) := by
  unfold dmaAnswer
  repeat' with_reducible first
    | assumption | apply hasEvent_badFlight | apply hasEvent_settleCopy | apply hasEvent_modChan
    | apply hasEvent_performFlight | apply hasEvent_putFlight | split | dsimp only

theorem hasEvent_stepChan {s : State} {c : Chan} (ok_s : HasEvent ev s) : HasEvent ev (stepChan s c) := by
  unfold stepChan
  repeat' with_reducible first | assumption | apply hasEvent_modChan

theorem hasEvent_badAtIssue {s : State} {c : Chan} {p : DmaProg} {tensor cause addr : Nat}
    (ok_s : HasEvent ev s) : HasEvent ev (badAtIssue s c p tensor cause addr) := by
  unfold badAtIssue
  repeat' with_reducible first | assumption | apply hasEvent_stepChan | apply hasEvent_dmaRetire | apply hasEvent_dmaBad

theorem hasEvent_signalStep {s : State} {c : Chan} (ok_s : HasEvent ev s) : HasEvent ev (signalStep s c) := by
  unfold signalStep
  repeat' with_reducible first
    | assumption | apply hasEvent_badAtIssue | apply hasEvent_modLantern | apply hasEvent_dmaBad | apply hasEvent_stepChan
    | apply hasEvent_dmaRetire | split | dsimp only

theorem hasEvent_retireFlight {s : State} {c : Chan} (ok_s : HasEvent ev s) : HasEvent ev (retireFlight s c) := by
  unfold retireFlight
  repeat' with_reducible first
    | assumption | apply hasEvent_badFlight | apply hasEvent_takeFlight | apply hasEvent_dmaRetire | apply hasEvent_performJob
    | apply hasEvent_modChan | (refine hasEvent_of_snd ?_ (by assumption)) | split | dsimp only

theorem hasEvent_stopChannel {s : State} {c : Chan} (ok_s : HasEvent ev s) : HasEvent ev (stopChannel s c) := by
  unfold stopChannel
  repeat' with_reducible first
    | assumption | apply hasEvent_bumpChan | apply hasEvent_modChan | apply hasEvent_dmaRetire | split | dsimp only

/-! ### Machine/Update.lean -/

theorem hasEvent_loadRow {s : State} {l vd : Nat} {kind : LoadKind} {w : BitVec 128} {parts : List LoadPart}
    (ok_s : HasEvent ev s) : HasEvent ev (loadRow s l vd kind w parts) := by
  unfold loadRow
  repeat' with_reducible first
    | assumption | apply hasEvent_fetchParts | apply hasEvent_bumpBeacon | apply hasEvent_modVec | apply hasEvent_vecAddrError
    | split | dsimp only

theorem hasEvent_loadBlocks {s : State} {l vd : Nat} {x : ShardAt} {w : BitVec 128} {bs : List (Nat × Nat)}
    (ok_s : HasEvent ev s) : HasEvent ev (loadBlocks s l vd x w bs) := by
  unfold loadBlocks
  repeat' with_reducible first | assumption | apply hasEvent_loadRow

theorem hasEvent_storeBlocks {s : State} {l va : Nat} {x : ShardAt} {w : BitVec 128} {bs : List (Nat × Nat)}
    (ok_s : HasEvent ev s) : HasEvent ev (storeBlocks s l va x w bs) := by
  unfold storeBlocks
  repeat' with_reducible first
    | assumption | apply hasEvent_performPiece | apply hasEvent_bumpBeacon | apply hasEvent_modVec | intro _
    | apply hasEvent_foldl

theorem hasEvent_jamRecs {s : State} {l vd : Nat} {w : BitVec 128} {f : Nat → Rec}
    (ok_s : HasEvent ev s) : HasEvent ev (jamRecs s l vd w f) := by
  unfold jamRecs
  repeat' with_reducible first | assumption | apply hasEvent_runIns | apply hasEvent_modVec

theorem hasEvent_copyLine {l src dst n : Nat} {s : State} {d : Nat}
    (ok_s : HasEvent ev s) : HasEvent ev (copyLine l src dst n s d) := by
  unfold copyLine
  repeat' with_reducible first | assumption | apply hasEvent_addPoison | apply hasEvent_performPiece | split

theorem hasEvent_copyLines {s : State} {l src dst n : Nat} (ok_s : HasEvent ev s) : HasEvent ev (copyLines s l src dst n) := by
  unfold copyLines
  exact hasEvent_foldl (fun _ _ h => hasEvent_copyLine h) ok_s

theorem hasEvent_noteUndo {s : State} {id : Nat} {u : Undo} (ok_s : HasEvent ev s) : HasEvent ev (noteUndo s id u) := by
  unfold noteUndo
  repeat' with_reducible first | assumption | apply hasEvent_modMooring

theorem hasEvent_saveBlock {s : State} {l id tensor : Nat} {x : ShardAt} {b : Nat} {own : Bool}
    (ok_s : HasEvent ev s) : HasEvent ev (saveBlock s l id tensor x b own) := by
  unfold saveBlock
  repeat' with_reducible first
    | assumption | apply hasEvent_noteUndo | apply hasEvent_performPiece | apply hasEvent_copyLines | split

theorem hasEvent_saveBlocks {s : State} {l id tensor : Nat} {x : ShardAt} {bs : List Nat} {own : Bool}
    (ok_s : HasEvent ev s) : HasEvent ev (saveBlocks s l id tensor x bs own) := by
  unfold saveBlocks
  repeat' with_reducible first | assumption | apply hasEvent_saveBlock | intro _ | apply hasEvent_foldl

theorem hasEvent_engineRow {s : State} {l : Nat} {c : Chain} {row : Nat} {w : BitVec 128} {idx stride : Nat}
    (ok_s : HasEvent ev s) : HasEvent ev (engineRow s l c row w idx stride) := by
  unfold engineRow
  repeat' with_reducible first | assumption | apply hasEvent_modVec

theorem hasEvent_gradRow {s : State} {l : Nat} {g : ShardAt} {a : Nat} {geo : RowGeom} {w : BitVec 128}
    (ok_s : HasEvent ev s) : HasEvent ev (gradRow s l g a geo w) := by
  unfold gradRow
  repeat' with_reducible first | assumption | apply hasEvent_loadRow | apply hasEvent_runIns

theorem hasEvent_loadElem {s : State} {l vd : Nat} {x : ShardAt} {w : BitVec 128} {e : Nat}
    (ok_s : HasEvent ev s) : HasEvent ev (loadElem s l vd x w e) := by
  unfold loadElem
  repeat' with_reducible first | assumption | apply hasEvent_loadRow | apply hasEvent_modVec

theorem hasEvent_loadTotal {s : State} {l vd : Nat} {x : ShardAt} {w : BitVec 128} {e : Nat}
    (ok_s : HasEvent ev s) : HasEvent ev (loadTotal s l vd x w e) := by
  unfold loadTotal
  repeat' with_reducible first | assumption | apply hasEvent_loadRow | apply hasEvent_jamRecs

theorem hasEvent_noteShard {s : State} {l : Nat} {x : ShardAt} {b n : Nat}
    (ok_s : HasEvent ev s) : HasEvent ev (noteShard s l x b n) := by
  unfold noteShard
  repeat' with_reducible first | assumption | apply hasEvent_notePoison

theorem hasEvent_loadElems {s : State} {l vd : Nat} {x : ShardAt} {w : BitVec 128} {e : Nat → Nat}
    (ok_s : HasEvent ev s) : HasEvent ev (loadElems s l vd x w e) := by
  unfold loadElems
  repeat' with_reducible first
    | assumption | apply hasEvent_foldl | apply hasEvent_noteShard | apply hasEvent_runIns | apply hasEvent_jamRecs | intro _

theorem hasEvent_raiseConds {s : State} {l : Nat} {c : Conds} (ok_s : HasEvent ev s) : HasEvent ev (raiseConds s l c) := by
  unfold raiseConds
  repeat' with_reducible first | assumption | apply hasEvent_modVec

theorem hasEvent_raiseReq {s : State} {l : Nat} {f : Fmt} {gs : List (List Dyad)}
    (ok_s : HasEvent ev s) : HasEvent ev (raiseReq s l f gs) := by
  unfold raiseReq
  repeat' with_reducible first | assumption | apply hasEvent_raiseConds

theorem hasEvent_storeMat {s : State} {l id tensor : Nat} {x : ShardAt} {b : Nat} {gs : List (List Dyad)}
    (ok_s : HasEvent ev s) : HasEvent ev (storeMat s l id tensor x b gs) := by
  unfold storeMat
  repeat' with_reducible first
    | assumption | apply hasEvent_raiseReq | apply hasEvent_performPiece | apply hasEvent_saveBlock | intro _
    | apply hasEvent_foldl

theorem hasEvent_factorRow {l : Nat} {c : Chain} {u : UpdDesc} {id tensor out : Nat} {x : ShardAt} {o : Nat} {rs : List (List
    Dyad)} {s : State} {i : Nat}
    (ok_s : HasEvent ev s) : HasEvent ev (factorRow l c u id tensor out x o rs s i) := by
  unfold factorRow
  repeat' with_reducible first
    | assumption | apply hasEvent_jamRecs | apply hasEvent_engineRow | apply hasEvent_saveBlocks | apply hasEvent_loadBlocks
    | apply hasEvent_runIns | apply hasEvent_storeBlocks | intro _ | apply hasEvent_foldl

theorem hasEvent_setDiag {s : State} {id desc tile : Nat} {on : Bool}
    (ok_s : HasEvent ev s) : HasEvent ev (setDiag s id desc tile on) := by
  unfold setDiag
  repeat' with_reducible first | assumption | apply hasEvent_modMooring

theorem hasEvent_countRung {s : State} {id tensor rung : Nat}
    (ok_s : HasEvent ev s) : HasEvent ev (countRung s id tensor rung) := by
  unfold countRung
  repeat' with_reducible first | assumption | apply hasEvent_modMooring

theorem hasEvent_refreshFactor {s : State} {l id : Nat} {u : UpdDesc} {g : Group} {q : ShardAt} {o tile : Nat} {a : Mat} {side
    : Nat}
    (ok_s : HasEvent ev s) : HasEvent ev (refreshFactor s l id u g q o tile a side).1 := by
  unfold refreshFactor
  repeat' with_reducible first
    | assumption | apply hasEvent_raiseConds | apply hasEvent_storeMat | apply hasEvent_countRung
    | apply hasEvent_raiseEventMore | intro _ | split | apply hasEvent_foldl | dsimp only

theorem hasEvent_refreshTile {s : State} {l id desc : Nat} {u : UpdDesc} {g : Group} {q : ShardAt} {o tile : Nat} {gl gr : Mat}
    (ok_s : HasEvent ev s) : HasEvent ev (refreshTile s l id desc u g q o tile gl gr) := by
  unfold refreshTile
  repeat' with_reducible first | assumption | apply hasEvent_setDiag | apply hasEvent_refreshFactor | split | dsimp only

theorem hasEvent_tileFactors {s : State} {l : Nat} {c : Chain} {id desc : Nat} {u : UpdDesc} {gp : Group} {x g gl gr q :
    ShardAt} {rows : List (Nat × BitVec 128)} {tile : Nat}
    (ok_s : HasEvent ev s) : HasEvent ev (tileFactors s l c id desc u gp x g gl gr q rows tile) := by
  unfold tileFactors
  repeat' with_reducible first
    | assumption | apply hasEvent_foldl | apply hasEvent_factorRow | apply hasEvent_raiseReq | apply hasEvent_refreshTile
    | split

theorem hasEvent_noteTile {s : State} {l : Nat} {x : ShardAt} {tile : Nat}
    (ok_s : HasEvent ev s) : HasEvent ev (noteTile s l x tile) := by
  unfold noteTile
  repeat' with_reducible first | assumption | apply hasEvent_foldl | apply hasEvent_noteShard | intro _

theorem hasEvent_writeDirection {s : State} {l : Nat} {x mm q dir : ShardAt} {rows : List (Nat × BitVec 128)} {tile : Nat}
    (ok_s : HasEvent ev s) : HasEvent ev (writeDirection s l x mm q dir rows tile) := by
  unfold writeDirection
  repeat' with_reducible first
    | assumption | apply hasEvent_raiseConds | apply hasEvent_noteTile | apply hasEvent_foldl | apply hasEvent_noteShard
    | apply hasEvent_performPiece | apply hasEvent_raiseReq | intro _

theorem hasEvent_tileWork {s : State} {l : Nat} {c : Chain} {id desc : Nat} {u : UpdDesc} {gp : Group} {x g mm gl gr q dir :
    ShardAt} {rows : List (Nat × BitVec 128)} {tile : Nat}
    (ok_s : HasEvent ev s) : HasEvent ev (tileWork s l c id desc u gp x g mm gl gr q dir rows tile) := by
  unfold tileWork
  repeat' with_reducible first | assumption | apply hasEvent_writeDirection | apply hasEvent_tileFactors | split | dsimp only

theorem hasEvent_matLanes {s : State} {l vd : Nat} {w : BitVec 128} {f : Nat → Dyad}
    (ok_s : HasEvent ev s) : HasEvent ev (matLanes s l vd w f) := by
  unfold matLanes
  repeat' with_reducible first | assumption | apply hasEvent_runIns | apply hasEvent_jamRecs | intro _ | apply hasEvent_foldl

theorem hasEvent_applyInputs {s : State} {l desc : Nat} {m : Mooring} {x mm gl gr dir : ShardAt} {geo : RowGeom} {w : BitVec
    128}
    (ok_s : HasEvent ev s) : HasEvent ev (applyInputs s l desc m x mm gl gr dir geo w).1 := by
  unfold applyInputs
  repeat' with_reducible first
    | assumption | apply hasEvent_modVec | apply hasEvent_noteShard | apply hasEvent_loadBlocks | apply hasEvent_matLanes
    | apply hasEvent_jamRecs | apply hasEvent_runIns | intro _ | split | apply hasEvent_foldl | dsimp only

theorem hasEvent_rowLoads {s : State} {l : Nat} {r : UpdateRun} {k : UpdCtx} {geo : RowGeom} {w : BitVec 128}
    (ok_s : HasEvent ev s) : HasEvent ev (rowLoads s l r k geo w) := by
  unfold rowLoads
  repeat' with_reducible first
    | assumption | apply hasEvent_loadElems | apply hasEvent_loadBlocks | apply hasEvent_loadElem | apply hasEvent_loadTotal
    | intro _ | split | apply hasEvent_foldl

theorem hasEvent_rowUndo {s : State} {l : Nat} {r : UpdateRun} {k : UpdCtx} {geo : RowGeom} {w : BitVec 128}
    (ok_s : HasEvent ev s) : HasEvent ev (rowUndo s l r k geo w) := by
  unfold rowUndo
  repeat' with_reducible first | assumption | apply hasEvent_saveBlocks | intro _ | split | apply hasEvent_foldl

theorem hasEvent_beginUpdateRow {s : State} {l : Nat} {j : BindJob} {r : UpdateRun} {k : UpdCtx} {i rid : Nat} {w : BitVec 128}
    (ok_s : HasEvent ev s) : HasEvent ev (beginUpdateRow s l j r k i rid w) := by
  unfold beginUpdateRow
  repeat' with_reducible first
    | assumption | apply hasEvent_engineRow | apply hasEvent_modVec | apply hasEvent_loadBlocks | apply hasEvent_applyInputs
    | apply hasEvent_runList | apply hasEvent_gradRow | apply hasEvent_rowUndo | apply hasEvent_rowLoads | split

theorem hasEvent_tileReady {l : Nat} {j : BindJob} {r : UpdateRun} {k : UpdCtx} {s : State} {tile : Nat}
    (ok_s : HasEvent ev s) : HasEvent ev (tileReady l j r k s tile) := by
  unfold tileReady
  repeat' with_reducible first | assumption | apply hasEvent_tileWork | apply hasEvent_modMooring | split | dsimp only

theorem hasEvent_afterTile {s : State} {l : Nat} {j : BindJob} {r : UpdateRun} {k : UpdCtx} {rid : Nat}
    (ok_s : HasEvent ev s) : HasEvent ev (afterTile s l j r k rid) := by
  unfold afterTile
  repeat' with_reducible first | assumption | apply hasEvent_tileReady | apply hasEvent_modMooring | split

theorem hasEvent_endUpdateRow {s : State} {l : Nat} {j : BindJob} {r : UpdateRun} {i : Nat}
    (ok_s : HasEvent ev s) : HasEvent ev (endUpdateRow s l j r i) := by
  unfold endUpdateRow
  repeat' with_reducible first
    | assumption | apply hasEvent_storeBlocks | apply hasEvent_afterTile | intro _ | split | apply hasEvent_foldl

theorem hasEvent_finishUpdateRow {s : State} {l : Nat} (ok_s : HasEvent ev s) : HasEvent ev (finishUpdateRow s l) := by
  unfold finishUpdateRow
  repeat' with_reducible first | assumption | apply hasEvent_endUpdateRow | apply hasEvent_modVec | split | dsimp only

theorem hasEvent_updateRow {s : State} {l : Nat} {j : BindJob} {r : UpdateRun} {i : Nat}
    (ok_s : HasEvent ev s) : HasEvent ev (updateRow s l j r i) := by
  unfold updateRow
  repeat' with_reducible first
    | assumption | apply hasEvent_modLantern | apply hasEvent_finishUpdateRow | apply hasEvent_modVec
    | apply hasEvent_beginUpdateRow | split | dsimp only

theorem hasEvent_restoreLine {src dst n : Nat} {s : State} {d : Nat}
    (ok_s : HasEvent ev s) : HasEvent ev (restoreLine src dst n s d) := by
  unfold restoreLine
  repeat' with_reducible first | assumption | apply hasEvent_addPoison | apply hasEvent_writeMem | split

theorem hasEvent_restoreUndo {s : State} {u : Undo} (ok_s : HasEvent ev s) : HasEvent ev (restoreUndo s u) := by
  unfold restoreUndo
  repeat' with_reducible first | assumption | apply hasEvent_restoreLine | split | apply hasEvent_foldl

theorem hasEvent_undoUpdate {s : State} {id t : Nat} (ok_s : HasEvent ev s) : HasEvent ev (undoUpdate s id t) := by
  unfold undoUpdate
  repeat' with_reducible first
    | assumption | apply hasEvent_restoreUndo | apply hasEvent_modMooring | split | apply hasEvent_foldl

theorem hasEvent_startNextRow {s : State} {l : Nat} (ok_s : HasEvent ev s) : HasEvent ev (startNextRow s l) := by
  unfold startNextRow
  repeat' with_reducible first
    | assumption | apply hasEvent_finishUpdateRow | apply hasEvent_modLantern | apply hasEvent_performStores
    | apply hasEvent_updateRow | apply hasEvent_chainRow | apply hasEvent_chainTail | split | dsimp only

theorem hasEvent_retireBinding {s : State} {l : Nat} (ok_s : HasEvent ev s) : HasEvent ev (retireBinding s l) := by
  unfold retireBinding
  repeat' with_reducible first
    | assumption | apply hasEvent_performStores | apply hasEvent_finishUpdateRow | apply hasEvent_modMooring
    | apply hasEvent_modVec | apply hasEvent_bumpEvent | split | dsimp only

/-! ### Machine/Schedule.lean -/

theorem hasEvent_releaseHolds {s : State} {id : Nat} (ok_s : HasEvent ev s) : HasEvent ev (releaseHolds s id) := by
  unfold releaseHolds
  repeat' with_reducible first | assumption | apply hasEvent_mk

/-! ### Machine/Endpoint.lean -/

theorem hasEvent_vecLoadAnswer {s : State} {l tag key : Nat} {bs : List Byte} {status : Nat}
    (ok_s : HasEvent ev s) : HasEvent ev (vecLoadAnswer s l tag key bs status) := by
  unfold vecLoadAnswer
  repeat' with_reducible first | assumption | apply hasEvent_vecAddrErrorAt | apply hasEvent_modVec | split

theorem hasEvent_vecStoreAnswer {s : State} {l row index tag status : Nat}
    (ok_s : HasEvent ev s) : HasEvent ev (vecStoreAnswer s l row index tag status) := by
  unfold vecStoreAnswer
  repeat' with_reducible first | assumption | apply hasEvent_vecAddrErrorAt | apply hasEvent_modVec | split

theorem hasEvent_collFault {s : State} {l : Nat} {c : CollInst} (ok_s : HasEvent ev s) : HasEvent ev (collFault s l c) := by
  unfold collFault
  repeat' with_reducible first | assumption | apply hasEvent_modLantern | apply hasEvent_modMooring | split

theorem hasEvent_collAnswer {s : State} {l tag key : Nat} {bs : List Byte} {status : Nat}
    (ok_s : HasEvent ev s) : HasEvent ev (collAnswer s l tag key bs status) := by
  unfold collAnswer
  repeat' with_reducible first | assumption | apply hasEvent_modLantern | apply hasEvent_collFault | split

theorem hasEvent_deliverAnswer {s : State} {r : PeerReq} {data : List Byte} {status : Nat}
    (ok_s : HasEvent ev s) : HasEvent ev (deliverAnswer s r data status) := by
  unfold deliverAnswer
  repeat' with_reducible first
    | assumption | apply hasEvent_collAnswer | apply hasEvent_keeperAnswer | apply hasEvent_modRouter
    | apply hasEvent_dmaAnswer | apply hasEvent_vecLoadAnswer | apply hasEvent_vecStoreAnswer | apply hasEvent_shoreFault
    | split

theorem hasEvent_probeNode {s : State} {id node : Nat} (ok_s : HasEvent ev s) : HasEvent ev (probeNode s id node) := by
  unfold probeNode
  repeat' with_reducible first | assumption | apply hasEvent_tellNode | apply hasEvent_modMooring | apply hasEvent_bumpModule

/-! ### Machine/Pieces.lean -/

theorem hasEvent_pieceSend {s : State} {id dm dest replica tensor pos : Nat} {bs : List Byte}
    (ok_s : HasEvent ev s) : HasEvent ev (pieceSend s id dm dest replica tensor pos bs) := by
  unfold pieceSend
  repeat' with_reducible first | assumption | apply hasEvent_sendSeq

theorem hasEvent_sendPieces {s : State} {id dm dest replica per body tensor : Nat} {qs : List Piece}
    (ok_s : HasEvent ev s) : HasEvent ev (sendPieces s id dm dest replica per body tensor qs) := by
  unfold sendPieces
  repeat' with_reducible first | assumption | apply hasEvent_pieceSend | intro _ | apply hasEvent_foldl

theorem hasEvent_sendHeaders {s : State} {id dm dest replica : Nat} {hs : List ShardHdr}
    (ok_s : HasEvent ev s) : HasEvent ev (sendHeaders s id dm dest replica hs) := by
  unfold sendHeaders
  repeat' with_reducible first | assumption | apply hasEvent_pieceSend | intro _ | apply hasEvent_foldl

theorem hasEvent_refreshTo {s : State} {m : Mooring} {p : Parsed} {t dest : Nat}
    (ok_s : HasEvent ev s) : HasEvent ev (refreshTo s m p t dest) := by
  unfold refreshTo
  repeat' with_reducible first
    | assumption | apply hasEvent_pieceSend | apply hasEvent_sendPieces | apply hasEvent_sendHeaders | intro _ | split
    | apply hasEvent_foldl

theorem hasEvent_sendRefresh {s : State} {m : Mooring} {p : Parsed} {t : Nat}
    (ok_s : HasEvent ev s) : HasEvent ev (sendRefresh s m p t) := by
  unfold sendRefresh
  repeat' with_reducible first
    | assumption | apply hasEvent_refreshTo | apply hasEvent_bumpModule | apply hasEvent_modMooring | intro _
    | apply hasEvent_foldl

/-! ### Machine/Programs.lean -/

theorem hasEvent_putObject {s : State} {name : BitVec 256} {owner n : Nat} {body : ObjBody}
    (ok_s : HasEvent ev s) : HasEvent ev (putObject s name owner n body) := by
  unfold putObject
  repeat' with_reducible first | assumption | apply hasEvent_modFlash id

/-! ### Machine/Runs.lean -/

theorem hasEvent_answerFree {s : State} {r : PeerReq} (ok_s : HasEvent ev s) : HasEvent ev (answerFree s r) := by
  unfold answerFree
  repeat' with_reducible first | assumption | apply hasEvent_freeBytes | apply hasEvent_drawFree | apply hasEvent_deliverAnswer

theorem hasEvent_awaitAnswers {s : State} {l : Nat} (ok_s : HasEvent ev s) : HasEvent ev (awaitAnswers s l) := by
  unfold awaitAnswers
  repeat' with_reducible first | assumption | apply hasEvent_foldl | apply hasEvent_answerFree

theorem hasEvent_settleChannels {s : State} {l : Nat} (ok_s : HasEvent ev s) : HasEvent ev (settleChannels s l) := by
  unfold settleChannels
  repeat' with_reducible first
    | assumption | apply hasEvent_foldl | apply hasEvent_signalStep | apply hasEvent_retireFlight | intro _

theorem hasEvent_settleOnce {s : State} {l : Nat} (ok_s : HasEvent ev s) : HasEvent ev (settleOnce s l) := by
  unfold settleOnce
  repeat' with_reducible first
    | assumption | apply hasEvent_retireBinding | apply hasEvent_arriveLoad | apply hasEvent_awaitAnswers
    | apply hasEvent_drainOnce | apply hasEvent_startDrain | apply hasEvent_releaseTile | apply hasEvent_settleChannels
    | apply hasEvent_retireLens | apply hasEvent_startNextRow

theorem hasEvent_settleWork {l x1 : Nat} {x2 : State} (ok_x2 : HasEvent ev x2) : HasEvent ev (settleWork l x1 x2) := by
  induction x1 generalizing x2 with
  | zero => exact ok_x2
  | succ n ih =>
    unfold settleWork
    dsimp only
    split
    · exact hasEvent_settleOnce ok_x2
    · exact ih (hasEvent_settleOnce ok_x2)

theorem hasEvent_stopChannels {s : State} {l : Nat} (ok_s : HasEvent ev s) : HasEvent ev (stopChannels s l) := by
  unfold stopChannels
  repeat' with_reducible first | assumption | apply hasEvent_stopChannel | intro _ | split | apply hasEvent_foldl

theorem hasEvent_windDownLantern {s : State} {l : Nat} (ok_s : HasEvent ev s) : HasEvent ev (windDownLantern s l) := by
  unfold windDownLantern
  repeat' with_reducible first
    | assumption | apply hasEvent_settleWork | apply hasEvent_performStores | apply hasEvent_modLantern
    | apply hasEvent_stopChannels

theorem hasEvent_windDown {s : State} {id : Nat} (ok_s : HasEvent ev s) : HasEvent ev (windDown s id) := by
  unfold windDown
  repeat' with_reducible first | assumption | apply hasEvent_windDownLantern | apply hasEvent_foldl

theorem hasEvent_newEpoch {s : State} {id : Nat} (ok_s : HasEvent ev s) : HasEvent ev (newEpoch s id) := by
  unfold newEpoch
  repeat' with_reducible first | assumption | apply hasEvent_advanceNow | apply hasEvent_modMooring

theorem hasEvent_deferEpoch {s : State} {id : Nat} {d : EpochDue} (ok_s : HasEvent ev s) : HasEvent ev (deferEpoch s id d) := by
  unfold deferEpoch
  repeat' with_reducible first | assumption | apply hasEvent_modMooring | apply hasEvent_windDown

theorem hasEvent_runRecord {s : State} {id status : Nat} {flags : BitVec 16} {step : Nat}
    (ok_s : HasEvent ev s) : HasEvent ev (runRecord s id status flags step) := by
  unfold runRecord
  repeat' with_reducible first | assumption | apply hasEvent_stepRecord | apply hasEvent_modOp | split

theorem hasEvent_endRun {s : State} {id status : Nat} (ok_s : HasEvent ev s) : HasEvent ev (endRun s id status) := by
  unfold endRun
  repeat' with_reducible first
    | assumption | apply hasEvent_tellSlot | apply hasEvent_endFillOf | apply hasEvent_runRecord | apply hasEvent_modMooring
    | apply hasEvent_leaveReached | apply hasEvent_finishOp | intro _ | split | apply hasEvent_foldl

theorem hasEvent_cutRunShort {s : State} {id status : Nat} (ok_s : HasEvent ev s) : HasEvent ev (cutRunShort s id status) := by
  unfold cutRunShort
  repeat' with_reducible first
    | assumption | apply hasEvent_windDown | apply hasEvent_undoUpdate | apply hasEvent_modMooring | apply hasEvent_endRun
    | split

theorem hasEvent_breakRun {s : State} {id status : Nat} (ok_s : HasEvent ev s) : HasEvent ev (breakRun s id status) := by
  unfold breakRun
  repeat' with_reducible first
    | assumption | apply hasEvent_deferEpoch | apply hasEvent_cutRunShort | apply hasEvent_newEpoch | apply hasEvent_windDown
    | split

theorem hasEvent_openWindows {s : State} {id : Nat} (ok_s : HasEvent ev s) : HasEvent ev (openWindows s id) := by
  unfold openWindows
  repeat' with_reducible first | assumption | split | dsimp only | apply hasEvent_mk

/-! ### Machine/Maps.lean -/

theorem hasEvent_clearRanges {s : State} {rs : List (Nat × Nat)} (ok_s : HasEvent ev s) : HasEvent ev (clearRanges s rs) := by
  unfold clearRanges
  repeat' with_reducible first | assumption | apply hasEvent_clearMem | intro _ | apply hasEvent_foldl

theorem hasEvent_clearSector {s : State} {d : MDesc} (ok_s : HasEvent ev s) : HasEvent ev (clearSector s d) := by
  unfold clearSector
  repeat' with_reducible first | assumption | apply hasEvent_clearStore | apply hasEvent_foldl

theorem hasEvent_takeLanterns {s : State} {d : MDesc} {regions : List (Nat × Nat)}
    (ok_s : HasEvent ev s) : HasEvent ev (takeLanterns s d regions) := by
  unfold takeLanterns
  repeat' with_reducible first
    | assumption | apply hasEvent_openWindows | apply hasEvent_modLantern | intro _ | apply hasEvent_foldl

theorem hasEvent_openHere {s : State} {m : Mooring} (ok_s : HasEvent ev s) : HasEvent ev (openHere s m) := by
  unfold openHere
  repeat' with_reducible first
    | assumption | apply hasEvent_tellSlot | apply hasEvent_takeLanterns | apply hasEvent_clearSector
    | apply hasEvent_clearRanges | apply hasEvent_modFunc | split | apply hasEvent_mk

theorem hasEvent_copyBundle {s : State} {image : List Byte} {seed : Nat} {owner : Nat × Nat}
    (ok_s : HasEvent ev s) : HasEvent ev (copyBundle s image seed owner).1 := by
  unfold copyBundle
  repeat' with_reducible first | assumption | apply hasEvent_modKeeper | split

theorem hasEvent_settleDue {s : State} {id : Nat} (ok_s : HasEvent ev s) : HasEvent ev (settleDue s id) := by
  unfold settleDue
  repeat' with_reducible first
    | assumption | apply hasEvent_cutRunShort | apply hasEvent_modMooring | apply hasEvent_foldl | intro _ | split

theorem hasEvent_memberMap {s : State} {m : Mooring} {x : MapMsg} {d : MDesc} {p : Parsed} {asker : Nat}
    (ok_s : HasEvent ev s) : HasEvent ev (memberMap s m x d p asker) := by
  unfold memberMap
  repeat' with_reducible first
    | assumption | apply hasEvent_settleDue | apply hasEvent_noteAdvance | apply hasEvent_endFillOf | apply hasEvent_windDown
    | apply hasEvent_undoUpdate | apply hasEvent_tellNode | apply hasEvent_clearRanges | apply hasEvent_modMooring
    | apply hasEvent_takeLanterns | split | dsimp only

theorem hasEvent_joinFailed {s : State} {x : MapMsg} {asker status : Nat}
    (ok_s : HasEvent ev s) : HasEvent ev (joinFailed s x asker status) := by
  unfold joinFailed
  repeat' with_reducible first | assumption | apply hasEvent_tellNode

theorem hasEvent_joinMap {s : State} {x : MapMsg} {d : MDesc} {b : Bundle} {asker : Nat}
    (ok_s : HasEvent ev s) : HasEvent ev (joinMap s x d b asker) := by
  unfold joinMap
  repeat' with_reducible first
    | assumption | apply hasEvent_joinFailed | apply hasEvent_tellNode | apply hasEvent_openHere | split | dsimp only

theorem hasEvent_takeMap {s : State} {x : MapMsg} {asker : Nat} (ok_s : HasEvent ev s) : HasEvent ev (takeMap s x asker) := by
  unfold takeMap
  repeat' with_reducible first
    | assumption | apply hasEvent_joinFailed | apply hasEvent_memberMap | apply hasEvent_copyBundle | apply hasEvent_joinMap
    | split | dsimp only

theorem hasEvent_reportCopies {s : State} {id : Nat} (ok_s : HasEvent ev s) : HasEvent ev (reportCopies s id) := by
  unfold reportCopies
  repeat' with_reducible first | assumption | apply hasEvent_modMooring | apply hasEvent_tellNode | split

theorem hasEvent_startRefresh {s : State} {id : Nat} {p : Parsed} {t : Nat}
    (ok_s : HasEvent ev s) : HasEvent ev (startRefresh s id p t) := by
  unfold startRefresh
  repeat' with_reducible first
    | assumption | apply hasEvent_modMooring | apply hasEvent_sendRefresh | apply hasEvent_reportCopies | split

theorem hasEvent_goOnHere {s : State} {id : Nat} {leaving : List Nat}
    (ok_s : HasEvent ev s) : HasEvent ev (goOnHere s id leaving) := by
  unfold goOnHere
  split
  · exact ok_s
  · extract_lets s0
    have h0 : HasEvent ev s0 := hasEvent_modMooring ok_s
    split
    · extract_lets here isMap keep s1
      have h1 : HasEvent ev s1 := hasEvent_modMooring h0
      clear_value s1
      repeat' with_reducible first
        | assumption | apply hasEvent_modMooring | apply hasEvent_startRefresh | apply hasEvent_reportCopies | split
    · exact h0

theorem hasEvent_oldMapHere {s : State} {id : Nat} (ok_s : HasEvent ev s) : HasEvent ev (oldMapHere s id) := by
  unfold oldMapHere
  repeat' with_reducible first
    | assumption | apply hasEvent_modMooring | apply hasEvent_releaseMooring | apply hasEvent_takeLanterns | split
    | dsimp only

theorem hasEvent_spreadMap {s : State} {id why : Nat} {descBytes : List Byte} {subs lost : List (Nat × Nat)} {told : List (Nat
    × List (Nat × Nat))}
    (ok_s : HasEvent ev s) : HasEvent ev (spreadMap s id why descBytes subs lost told) := by
  unfold spreadMap
  repeat' with_reducible first
    | assumption | apply hasEvent_advanceNow | apply hasEvent_windDown | apply hasEvent_takeMap | apply hasEvent_tellNode
    | intro _ | split | apply hasEvent_foldl | dsimp only

/-! ### Machine/Snapshots.lean -/

theorem hasEvent_savePartHere {s : State} {id : Nat} {name : BitVec 256} {job : JobState}
    (ok_s : HasEvent ev s) : HasEvent ev (savePartHere s id name job).1 := by
  unfold savePartHere
  repeat' with_reducible first
    | assumption | apply hasEvent_sysCopy | apply hasEvent_notePoisonLine | apply hasEvent_putObject | intro _ | split
    | apply hasEvent_foldl | dsimp only

/-! ### Machine/Boundary.lean -/

theorem hasEvent_passHold {s : State} {id : Nat} (ok_s : HasEvent ev s) : HasEvent ev (passHold s id) := by
  unfold passHold
  repeat' with_reducible first | assumption | apply hasEvent_releaseHolds | apply hasEvent_modMooring | split

theorem hasEvent_startRunHere {s : State} {id first count position : Nat}
    (ok_s : HasEvent ev s) : HasEvent ev (startRunHere s id first count position) := by
  unfold startRunHere
  repeat' with_reducible first | assumption | apply hasEvent_modMooring

theorem hasEvent_resumeRun {s : State} {id : Nat} (ok_s : HasEvent ev s) : HasEvent ev (resumeRun s id) := by
  unfold resumeRun
  repeat' with_reducible first
    | assumption | apply hasEvent_tellNodes | apply hasEvent_tellNode | apply hasEvent_modOp | apply hasEvent_dropOp
    | apply hasEvent_modMooring | split | dsimp only

theorem hasEvent_abortOthers {s : State} {id : Nat} (ok_s : HasEvent ev s) : HasEvent ev (abortOthers s id) := by
  unfold abortOthers
  repeat' with_reducible first | assumption | apply hasEvent_finishOp | intro _ | apply hasEvent_foldl

theorem hasEvent_performClose {s : State} {id : Nat} {o : LongOp}
    (ok_s : HasEvent ev s) : HasEvent ev (performClose s id o) := by
  unfold performClose
  repeat' with_reducible first
    | assumption | apply hasEvent_closeSlot | apply hasEvent_cutRunShort | apply hasEvent_abortOthers
    | apply hasEvent_tellNodes | apply hasEvent_releaseMooring | apply hasEvent_finishOp | split

theorem hasEvent_performSnapshot {s : State} {id : Nat} {name : BitVec 256}
    (ok_s : HasEvent ev s) : HasEvent ev (performSnapshot s id name) := by
  unfold performSnapshot
  repeat' with_reducible first
    | assumption | apply hasEvent_savePartHere | apply hasEvent_finishOp | apply hasEvent_modMooring
    | apply hasEvent_tellNodes | split | dsimp only

theorem hasEvent_performMove {s : State} {id opcode : Nat} {bs : List Byte}
    (ok_s : HasEvent ev s) : HasEvent ev (performMove s id opcode bs) := by
  unfold performMove
  repeat' with_reducible first
    | assumption | apply hasEvent_deferEpoch | apply hasEvent_spreadMap | apply hasEvent_tellNodes | apply hasEvent_oldMapHere
    | apply hasEvent_finishOp | split | dsimp only

theorem hasEvent_finishSnapshot {s : State} {id : Nat} (ok_s : HasEvent ev s) : HasEvent ev (finishSnapshot s id) := by
  unfold finishSnapshot
  repeat' with_reducible first | assumption | apply hasEvent_modMooring | apply hasEvent_finishOp | split | dsimp only

theorem hasEvent_unpause {s : State} {id : Nat} (ok_s : HasEvent ev s) : HasEvent ev (unpause s id) := by
  unfold unpause
  repeat' with_reducible first | assumption | apply hasEvent_goOnHere | apply hasEvent_tellNodes | split

theorem hasEvent_performPending {x1 : Nat} {x2 : State} {x3 : Nat}
    (ok_x2 : HasEvent ev x2) : HasEvent ev (performPending x1 x2 x3) := by
  induction x1 generalizing x2 x3 with
  | zero =>
    unfold performPending
    repeat' with_reducible first | assumption
  | succ n ih =>
    unfold performPending
    repeat' with_reducible first
      | assumption | apply ih | apply hasEvent_passHold | apply hasEvent_performClose | apply hasEvent_unpause
      | apply hasEvent_finishSnapshot | apply hasEvent_performSnapshot | apply hasEvent_performMove | split

theorem hasEvent_atBoundary {s : State} {id : Nat} (ok_s : HasEvent ev s) : HasEvent ev (atBoundary s id) := by
  unfold atBoundary
  repeat' with_reducible first | assumption | apply hasEvent_performPending

theorem hasEvent_failMove {s : State} {id : Nat} (ok_s : HasEvent ev s) : HasEvent ev (failMove s id) := by
  unfold failMove
  repeat' with_reducible first
    | assumption | apply hasEvent_tellSlot | apply hasEvent_oldMapHere | apply hasEvent_tellNodes | apply hasEvent_finishOp
    | apply hasEvent_atBoundary | apply hasEvent_resumeRun | split

/-! ### Machine/Faults.lean -/

theorem hasEvent_retireHeld {s : State} {l : Nat} (ok_s : HasEvent ev s) : HasEvent ev (retireHeld s l) := by
  unfold retireHeld
  repeat' with_reducible first | assumption | apply hasEvent_retireLantern | apply hasEvent_stopLantern | split

/-! ### Machine/Members.lean -/

theorem hasEvent_undoCommitted {s : State} {id c : Nat} (ok_s : HasEvent ev s) : HasEvent ev (undoCommitted s id c) := by
  unfold undoCommitted
  repeat' with_reducible first | assumption | apply hasEvent_openWindows | apply hasEvent_modMooring | apply hasEvent_undoUpdate

theorem hasEvent_bypassAround {s : State} {n : Nat} (ok_s : HasEvent ev s) : HasEvent ev (bypassAround s n) := by
  unfold bypassAround
  repeat' with_reducible first | assumption | apply hasEvent_tellNodes | apply hasEvent_bypassNode | split | dsimp only

theorem hasEvent_redirectHere {s : State} {lost ship : Nat}
    (ok_s : HasEvent ev s) : HasEvent ev (redirectHere s lost ship) := by
  unfold redirectHere
  repeat' with_reducible first | assumption | apply hasEvent_modRouter | split

theorem hasEvent_redirectAround {s : State} {lost ship : Nat}
    (ok_s : HasEvent ev s) : HasEvent ev (redirectAround s lost ship) := by
  unfold redirectAround
  repeat' with_reducible first | assumption | apply hasEvent_redirectHere | apply hasEvent_tellNodes

theorem hasEvent_stopHere {s : State} {id status : Nat} (ok_s : HasEvent ev s) : HasEvent ev (stopHere s id status) := by
  unfold stopHere
  repeat' with_reducible first
    | assumption | apply hasEvent_deferEpoch | apply hasEvent_breakRun | apply hasEvent_newEpoch | apply hasEvent_windDown
    | split

theorem hasEvent_giveUpAdoption {s : State} {id : Nat} (ok_s : HasEvent ev s) : HasEvent ev (giveUpAdoption s id) := by
  unfold giveUpAdoption
  repeat' with_reducible first | assumption | apply hasEvent_oldMapHere | apply hasEvent_tellNodes | split

theorem hasEvent_stopForLoss {s : State} {id status : Nat} {lost : List (Nat × Nat)}
    (ok_s : HasEvent ev s) : HasEvent ev (stopForLoss s id status lost) := by
  unfold stopForLoss
  repeat' with_reducible first
    | assumption | apply hasEvent_giveUpAdoption | apply hasEvent_tellNodes | apply hasEvent_modMooring
    | apply hasEvent_stopHere | split | dsimp only

theorem hasEvent_adoptAll {s : State} {id : Nat} (ok_s : HasEvent ev s) : HasEvent ev (adoptAll s id) := by
  unfold adoptAll
  repeat' with_reducible first
    | assumption | apply hasEvent_deferEpoch | apply hasEvent_modMooring | apply hasEvent_spreadMap
    | apply hasEvent_redirectAround | apply hasEvent_raiseEvent | apply hasEvent_bumpModule | intro _ | split
    | apply hasEvent_foldl

theorem hasEvent_seekLightship {s : State} {id : Nat} (ok_s : HasEvent ev s) : HasEvent ev (seekLightship s id) := by
  unfold seekLightship
  repeat' with_reducible first
    | assumption | apply hasEvent_adoptAll | apply hasEvent_probeNode | apply hasEvent_stopForLoss | split

theorem hasEvent_failMembership {s : State} {id : Nat} (ok_s : HasEvent ev s) : HasEvent ev (failMembership s id) := by
  unfold failMembership
  repeat' with_reducible first | assumption | apply hasEvent_failMove | apply hasEvent_unpause | apply hasEvent_finishOp | split

theorem hasEvent_stateLost {s : State} {id : Nat} {nodes : List Nat}
    (ok_s : HasEvent ev s) : HasEvent ev (stateLost s id nodes) := by
  unfold stateLost
  repeat' with_reducible first | assumption | apply hasEvent_stopForLoss | apply hasEvent_bumpModule

theorem hasEvent_undoEverywhere {s : State} {id c : Nat} {rest : List Nat}
    (ok_s : HasEvent ev s) : HasEvent ev (undoEverywhere s id c rest) := by
  unfold undoEverywhere
  repeat' with_reducible first
    | assumption | apply hasEvent_undoCommitted | apply hasEvent_raiseEvent | apply hasEvent_bumpModule
    | apply hasEvent_tellNodes

theorem hasEvent_replaceMember {s : State} {id node h : Nat}
    (ok_s : HasEvent ev s) : HasEvent ev (replaceMember s id node h) := by
  unfold replaceMember
  repeat' with_reducible first
    | assumption | apply hasEvent_startRunHere | apply hasEvent_seekLightship | apply hasEvent_modMooring
    | apply hasEvent_stopForLoss | split

theorem hasEvent_recoverAt {s : State} {id node h : Nat} {point : Option Nat}
    (ok_s : HasEvent ev s) : HasEvent ev (recoverAt s id node h point) := by
  unfold recoverAt
  repeat' with_reducible first
    | assumption | apply hasEvent_replaceMember | apply hasEvent_undoEverywhere | apply hasEvent_stateLost | split

theorem hasEvent_recoverMember {s : State} {id node : Nat} (ok_s : HasEvent ev s) : HasEvent ev (recoverMember s id node) := by
  unfold recoverMember
  repeat' with_reducible first
    | assumption | apply hasEvent_recoverAt | apply hasEvent_replaceMember | apply hasEvent_stateLost
    | apply hasEvent_tellNode | apply hasEvent_failMembership | apply hasEvent_windDown | apply hasEvent_tellNodes
    | apply hasEvent_bypassAround | apply hasEvent_modMooring | split | dsimp only

end

end Sys2Proof.Machine
end
section
/-! PROOFS. The beacon watch: what a sample counts and what the eighth does (O17, R337 to R341). -/

namespace Sys2Proof.Machine

variable {s : State} {l : Nat}

/-! ### Events in the log -/

/-- An event raised is in the log, with what it says. -/
theorem raiseEventIn_hasEvent (s : State) (dom : Domain) (code : Nat) (mooring : Option Nat) (unit detail : Nat) (more : List Nat) :
    ∃ e : Event, HasEvent e (raiseEventIn s dom code mooring unit detail more) ∧ e.code = code ∧ e.unit = unit ∧
      e.detail = detail ∧ e.mooring = mooring.getD 0xFFFF := by
  unfold raiseEventIn
  exact ⟨_, hasEvent_of_grows (outward_deliverEvent _ _).2.1 (List.mem_append_right _ (List.mem_singleton_self _)), rfl, rfl, rfl,
    rfl⟩

theorem raiseEvent_hasEvent (s : State) (code : Nat) (mooring : Option Nat) (unit detail : Nat) :
    ∃ e : Event, HasEvent e (raiseEvent s code mooring unit detail) ∧ e.code = code ∧ e.unit = unit ∧ e.detail = detail ∧
      e.mooring = mooring.getD 0xFFFF := raiseEventIn_hasEvent s .keeper code mooring unit detail []

theorem lanternEvent_hasEvent (s : State) (code l unit detail : Nat) (more : List Nat) :
    ∃ e : Event, HasEvent e (lanternEvent s code l unit detail more) ∧ e.code = code ∧ e.unit = unit ∧
      e.detail = detail := by
  obtain ⟨e, he, hc, hu, hd, -⟩ := raiseEventIn_hasEvent s (.lantern l) code (lanternMooring s l) unit detail more
  exact ⟨e, he, hc, hu, hd⟩

theorem lanternEvent_units (s : State) (code l unit detail : Nat) (more : List Nat) :
    SameUnits s (lanternEvent s code l unit detail more) := raiseEventIn_units ..

theorem lanternAt_lanternEvent (s : State) (code l unit detail : Nat) (more : List Nat) (k : Nat) :
    lanternAt (lanternEvent s code l unit detail more) k = lanternAt s k :=
  lanternAt_of_units (lanternEvent_units ..) k

theorem towerAt_lanternEvent (s : State) (code l unit detail : Nat) (more : List Nat) (k : Nat) :
    towerAt (lanternEvent s code l unit detail more) k = towerAt s k :=
  towerAt_of_units (lanternEvent_units ..) k

/-! ### A lantern that stands still in reset -/

theorem lanternAt_modKeeper (s : State) (f : Keeper → Keeper) (k : Nat) : lanternAt (modKeeper s f) k = lanternAt s k := rfl

theorem lanternAt_setConfig (s : State) (f : ConfigRec → ConfigRec) (k : Nat) : lanternAt (setConfig s f) k = lanternAt s k := by
  unfold setConfig
  dsimp only
  split <;> rfl

/-- A retired lantern does not run (R10). -/
theorem retireLantern_idle (hl : l < s.lanterns.length) (h : (lanternAt s l).running = false) :
    (lanternAt (retireLantern s l) l).running = false := by
  unfold retireLantern
  dsimp only
  split
  · exact h
  · split
    · rw [lanternAt_of_units (raiseEventIn_units ..), advanceDaymark_lantern Lantern.running (by intro _ _; rfl),
        lanternAt_modKeeper, lanternAt_setConfig, lanternAt_modLantern_same _ _ _ (by exact hl)]
      rfl
    · rw [lanternAt_of_units (raiseEventIn_units ..), lanternAt_setConfig, lanternAt_modLantern_same _ _ _ hl]
      rfl

theorem setModes_running (md : ChanMode) (x : Lantern) : (setModes md x).running = x.running := rfl

/-- The start of a compute reset ends a lantern's work (R341). -/
theorem startLanternReset_idle (hi : s.Inv) (hl : l < 192) (test : Bool) (ha : (lanternAt s l).rst.active = false)
    (ht : (towerAt s (l / 48)).rst.active = false) : (lanternAt (startLanternReset s l test) l).running = false := by
  unfold startLanternReset
  rw [if_neg (by simp [ha, ht])]
  dsimp only
  generalize hs1 : modKeeper (bistCut s (l / 48)) _ = s1
  have h1 : l < s1.lanterns.length := by
    have hi1 : s1.Inv := hs1 ▸ inv_modKeeper (inv_bistCut hi)
    rw [hi1.1.1.1]
    exact hl
  generalize hs2 : bumpLantern (stopLantern s1 l) l 2 = s2
  have h2 : (lanternAt s2 l).running = false ∧ l < s2.lanterns.length := by
    rw [← hs2]
    unfold bumpLantern
    rw [lanternAt_modLantern_same _ _ _ (by rwa [stopLantern_length]), modLantern_lanterns, List.length_modify, stopLantern_length]
    exact ⟨(stopLantern_same h1).2.1, h1⟩
  generalize hs3 : modLantern s2 l _ = s3
  have h3 : (lanternAt s3 l).running = false ∧ l < s3.lanterns.length := by
    rw [← hs3, lanternAt_modLantern_same _ _ _ h2.2, modLantern_lanterns, List.length_modify]
    refine ⟨?_, h2.2⟩
    split
    · exact h2.1
    · exact h2.1
  have h4 := lanternAt_lanternEvent s3 evReset l l 0 [] l
  split
  · refine retireLantern_idle ?_ (by rw [h4]; exact h3.1)
    rw [(lanternEvent_units s3 evReset l l 0 []).2.2.2.1]
    exact h3.2
  · rw [h4]
    exact h3.1

/-! ### One sample -/

section
variable (x : Lantern) (i : Nat)

/-- Engine i has work and its counter has stood since the last sample. -/
def Stood : Prop := engineBusy x i = true ∧ x.beacon.getD i 0 = x.sampled.getD i 0

/-- The schedule waits, and no counter has moved since the last sample. -/
def Waited : Prop := x.waiting = true ∧ ∀ i, i < 3 → x.beacon.getD i 0 = x.sampled.getD i 0

theorem standing_iff : standing x i = true ↔ Stood x i := by
  simp [standing, Stood]

/-- No counter has moved. -/
theorem unmoved_iff : ([0, 1, 2].any fun i => decide (x.beacon.getD i 0 ≠ x.sampled.getD i 0)) = false ↔
    ∀ i, i < 3 → x.beacon.getD i 0 = x.sampled.getD i 0 := by
  constructor
  · intro h i hi
    have hm : i ∈ [0, 1, 2] := by simp; omega
    simpa using List.any_eq_false.1 h i hm
  · intro h
    refine List.any_eq_false.2 fun i hi => ?_
    have : i < 3 := by simp at hi; omega
    rw [decide_eq_true_eq, not_not]
    exact h i this

theorem sample_still (hi : i < 3) : (sampleLantern x).still.getD i 0 = if standing x i then x.still.getD i 0 + 1 else 0 := by
  interval_cases i <;> rfl

theorem sample_waits (hi : i < 3) :
    (sampleLantern x).waits.getD i 0 = if standing x i && engineWaits x i then x.waits.getD i 0 + 1 else 0 := by
  interval_cases i <;> rfl

theorem sample_stood (hi : i < 3) : (Stood x i → (sampleLantern x).still.getD i 0 = x.still.getD i 0 + 1) ∧
    (¬ Stood x i → (sampleLantern x).still.getD i 0 = 0) := by
  rw [sample_still x i hi, ← standing_iff]
  exact ⟨fun h => if_pos h, fun h => if_neg h⟩

theorem sample_stoodWaits (hi : i < 3) :
    (Stood x i ∧ engineWaits x i = true → (sampleLantern x).waits.getD i 0 = x.waits.getD i 0 + 1) ∧
    (¬ (Stood x i ∧ engineWaits x i = true) → (sampleLantern x).waits.getD i 0 = 0) := by
  rw [sample_waits x i hi, ← standing_iff, ← Bool.and_eq_true]
  exact ⟨fun h => if_pos h, fun h => if_neg h⟩

theorem sample_waited : (Waited x → (sampleLantern x).still.getD 3 0 = x.still.getD 3 0 + 1) ∧
    (¬ Waited x → (sampleLantern x).still.getD 3 0 = 0) := by
  have h : (sampleLantern x).still.getD 3 0 =
      if x.waiting && !([0, 1, 2].any fun i => decide (x.beacon.getD i 0 ≠ x.sampled.getD i 0)) then x.still.getD 3 0 + 1
      else 0 := rfl
  have hw : Waited x ↔ (x.waiting && !([0, 1, 2].any fun i => decide (x.beacon.getD i 0 ≠ x.sampled.getD i 0))) = true := by
    rw [Bool.and_eq_true, Bool.not_eq_true', unmoved_iff]
    rfl
  rw [h, hw]
  exact ⟨fun h => if_pos h, fun h => if_neg h⟩

/-- The eighth sample of a counter, or of the schedule's WAIT. -/
def Eighth : Prop := (∃ i, i < 3 ∧ Stood x i ∧ 7 ≤ x.still.getD i 0) ∨ (Waited x ∧ 7 ≤ x.still.getD 3 0)

theorem sample_eighth : ((sampleLantern x).still.any fun n => decide (8 ≤ n)) = true ↔ Eighth x := by
  have hany : ((sampleLantern x).still.any fun n => decide (8 ≤ n)) = true ↔
      (∃ i, i < 3 ∧ 8 ≤ (sampleLantern x).still.getD i 0) ∨ 8 ≤ (sampleLantern x).still.getD 3 0 := by
    have hlist : ∀ a b c d : Nat, ([a, b, c, d].any fun n => decide (8 ≤ n)) = true ↔
        (∃ i, i < 3 ∧ 8 ≤ [a, b, c, d].getD i 0) ∨ 8 ≤ [a, b, c, d].getD 3 0 := by
      intro a b c d
      constructor
      · simp only [List.any_cons, List.any_nil, Bool.or_false, Bool.or_eq_true, decide_eq_true_eq]
        rintro (h | h | h | h)
        · exact .inl ⟨0, by omega, h⟩
        · exact .inl ⟨1, by omega, h⟩
        · exact .inl ⟨2, by omega, h⟩
        · exact .inr h
      · simp only [List.any_cons, List.any_nil, Bool.or_false, Bool.or_eq_true, decide_eq_true_eq]
        rintro (⟨i, hi, h⟩ | h)
        · interval_cases i
          · exact .inl h
          · exact .inr (.inl h)
          · exact .inr (.inr (.inl h))
        · exact .inr (.inr (.inr h))
    exact hlist _ _ _ _
  rw [hany]
  have hone : ∀ (p : Prop) (a b : Nat), (p → a = b + 1) ∧ (¬ p → a = 0) → (8 ≤ a ↔ p ∧ 7 ≤ b) := by
    intro p a b ⟨h1, h2⟩
    by_cases hp : p
    · have := h1 hp
      constructor
      · intro; exact ⟨hp, by omega⟩
      · rintro ⟨-, _⟩; omega
    · have := h2 hp
      constructor
      · intro; omega
      · rintro ⟨h, -⟩; exact absurd h hp
  refine or_congr (exists_congr fun i => and_congr_right fun hi => hone _ _ _ (sample_stood x i hi)) (hone _ _ _ (sample_waited x))

/-- Every engine that has stood for all eight samples waited in all of them (R339). -/
def AllWaited : Prop := ∀ i, i < 3 → Stood x i → 7 ≤ x.still.getD i 0 → engineWaits x i = true ∧ 7 ≤ x.waits.getD i 0

theorem onlyWaits_sample : onlyWaits (sampleLantern x) = true ↔ AllWaited x := by
  have hall : onlyWaits (sampleLantern x) = true ↔
      ∀ i, i < 3 → (sampleLantern x).still.getD i 0 < 8 ∨ 8 ≤ (sampleLantern x).waits.getD i 0 := by
    unfold onlyWaits
    rw [List.all_eq_true]
    refine ⟨fun h i hi => ?_, fun h i hi => ?_⟩
    · have hm : i ∈ [0, 1, 2] := by simp; omega
      simpa using h i hm
    · have hm : i < 3 := by simp at hi; omega
      simpa using h i hm
  rw [hall]
  refine forall_congr' fun i => imp_congr_right fun hi => ?_
  obtain ⟨hs1, hs0⟩ := sample_stood x i hi
  obtain ⟨hw1, hw0⟩ := sample_stoodWaits x i hi
  by_cases hs : Stood x i
  · have e1 := hs1 hs
    by_cases hw : engineWaits x i = true
    · have e2 := hw1 ⟨hs, hw⟩
      exact ⟨fun h _ h7 => ⟨hw, by omega⟩, fun h => by by_contra hc; have := (h hs (by omega)).2; omega⟩
    · have e2 := hw0 fun h => hw h.2
      exact ⟨fun h _ h7 => by omega, fun h => by by_contra hc; exact hw (h hs (by omega)).1⟩
  · have e1 := hs0 hs
    exact ⟨fun _ h => absurd h hs, fun _ => .inl (by omega)⟩

end

/-! ### BEACON_SAMPLE -/

/-- The watch of a lantern runs (R338). -/
def Watch (s : State) (l : Nat) : Prop :=
  (lanternAt s l).phys.isSome = true ∧ (lanternAt s l).running = true ∧ (lanternAt s l).endRetired = false ∧
  (lanternAt s l).holding = false ∧ (lanternAt s l).updHold = false ∧ (lanternAt s l).rst.active = false ∧
  (towerAt s (l / 48)).rst.active = false

theorem watched_iff : watched s l = true ↔ Watch s l := by
  simp [watched, Watch, and_assoc]

/-- The signal of a lantern whose engines all wait (R339). -/
theorem fogSignal_wait (hl : l < s.lanterns.length) : ∃ e : Event,
    HasEvent e (fogSignal s l true) ∧ e.code = evFog ∧ e.unit = l ∧ e.detail = 0 ∧ (lanternAt (fogSignal s l true) l).fault = true ∧
    (lanternAt (fogSignal s l true) l).rst = (lanternAt s l).rst ∧
    (lanternAt (fogSignal s l true) l).vec = (lanternAt s l).vec := by
  unfold fogSignal bumpLantern
  simp only [if_true, modLantern_twice]
  obtain ⟨e, he, hc, hu, hd⟩ := lanternEvent_hasEvent (modLantern s l _) evFog l l 0 _
  refine ⟨e, he, hc, hu, hd, ?_⟩
  rw [lanternAt_lanternEvent, lanternAt_modLantern_same _ _ _ hl]
  exact ⟨rfl, rfl, rfl⟩

/-- The signal of a lantern with an engine that stands: its compute reset ends the work (R340). -/
theorem fogSignal_engine (hi : s.Inv) (hl : l < 192) (ha : (lanternAt s l).rst.active = false)
    (ht : (towerAt s (l / 48)).rst.active = false) : ∃ e : Event,
    HasEvent e (fogSignal s l false) ∧ e.code = evFog ∧ e.unit = l ∧ e.detail = 1 ∧ (lanternAt (fogSignal s l false) l).running = false := by
  unfold fogSignal bumpLantern
  simp only [Bool.false_eq_true, if_false, modLantern_twice]
  generalize hs1 : modLantern s l _ = s1
  obtain ⟨e, he, hc, hu, hd⟩ := lanternEvent_hasEvent s1 evFog l l 1 _
  have hl' : l < s.lanterns.length := by rw [hi.1.1.1]; exact hl
  refine ⟨e, hasEvent_startLanternReset he, hc, hu, hd, startLanternReset_idle (inv_lanternEvent ?_) hl true ?_ ?_⟩
  · rw [← hs1]
    exact inv_modLantern (fun x hx => hx) hi
  · rw [lanternAt_lanternEvent, ← hs1, lanternAt_modLantern_same _ _ _ hl']
    exact ha
  · rw [towerAt_lanternEvent, ← hs1]
    exact ht

theorem execBeaconSample_unwatched (h : ¬ Watch s l) : execBeaconSample l s = .next (modLantern s l (fun x => { x with
    sampled := x.beacon
    still := [0, 0, 0, 0]
    waits := [0, 0, 0] })) := by
  have hw : watched s l = false := by rw [← Bool.not_eq_true, watched_iff]; exact h
  simp [execBeaconSample, hw]

theorem execBeaconSample_counts (hl : l < s.lanterns.length) (h : Watch s l) (h8 : ¬ Eighth (lanternAt s l)) :
    execBeaconSample l s = .next (modLantern s l sampleLantern) := by
  have hw := watched_iff.2 h
  unfold execBeaconSample
  rw [if_neg (by simp [hw])]
  dsimp only
  rw [lanternAt_modLantern_same _ _ _ hl, if_neg fun hc => h8 ((sample_eighth _).1 hc)]

theorem execBeaconSample_signals (hl : l < s.lanterns.length) (h : Watch s l) (h8 : Eighth (lanternAt s l)) :
    execBeaconSample l s = .next (fogSignal (modLantern s l sampleLantern) l (onlyWaits (sampleLantern (lanternAt s l)))) := by
  have hw := watched_iff.2 h
  unfold execBeaconSample
  rw [if_neg (by simp [hw])]
  dsimp only
  rw [lanternAt_modLantern_same _ _ _ hl, if_pos ((sample_eighth _).2 h8)]

/-- An eighth sample signals fog: WAIT where every engine waited, else ENGINE (R339, R340). -/
theorem execBeaconSample_fog (hi : s.Inv) (hl : l < 192) (h : Watch s l) (h8 : Eighth (lanternAt s l)) :
    ∃ t e, execBeaconSample l s = .next t ∧ e ∈ t.flash.log ∧ e.code = evFog ∧ e.unit = l ∧
      (AllWaited (lanternAt s l) → e.detail = 0 ∧ (lanternAt t l).fault = true ∧ (lanternAt t l).rst = (lanternAt s l).rst ∧
        (lanternAt t l).vec = (lanternAt s l).vec) ∧
      (¬ AllWaited (lanternAt s l) → e.detail = 1 ∧ (lanternAt t l).running = false) := by
  have hl' : l < s.lanterns.length := by rw [hi.1.1.1]; exact hl
  have hx : lanternAt (modLantern s l sampleLantern) l = sampleLantern (lanternAt s l) := lanternAt_modLantern_same _ _ _ hl'
  have he := execBeaconSample_signals hl' h h8
  by_cases hw : AllWaited (lanternAt s l)
  · rw [(onlyWaits_sample _).2 hw] at he
    obtain ⟨e, hm, hc, hu, hd, hf, hr, hv⟩ := fogSignal_wait (s := modLantern s l sampleLantern) (l := l) (by simpa using hl')
    rw [hx] at hr hv
    exact ⟨_, e, he, hm, hc, hu, fun _ => ⟨hd, hf, hr, hv⟩, fun h => absurd hw h⟩
  · have hf : onlyWaits (sampleLantern (lanternAt s l)) = false := by rw [← Bool.not_eq_true, onlyWaits_sample]; exact hw
    rw [hf] at he
    obtain ⟨-, -, -, -, -, ha, ht⟩ := h
    obtain ⟨e, hm, hc, hu, hd, hr⟩ := fogSignal_engine (s := modLantern s l sampleLantern)
      (inv_modLantern (fun x hx => hx) hi) hl (by rw [hx]; exact ha) ht
    exact ⟨_, e, he, hm, hc, hu, fun h => absurd h hw, fun _ => ⟨hd, hr⟩⟩

end Sys2Proof.Machine
end
section
/-! PROOFS. The ends of compute resets and their hang limits (O17, R227, R342, R352, R355). -/

namespace Sys2Proof.Machine

variable {s t : State} {l k : Nat}

/-! ### The handling of a fault -/

/-- No command waits for the handling of a fault. -/
def NoneWaits (s : State) : Prop := ∀ m ∈ s.moorings, m.handlingFor = none ∧ (m.paused = true → m.faulted = false)

theorem faultHandled_idle (h : NoneWaits s) : faultHandled s = s := by
  have h1 : s.moorings.filter (fun m => m.handlingFor.isSome) = [] := by
    refine List.filter_eq_nil_iff.2 fun m hm => ?_
    simp [(h m hm).1]
  have h2 : s.moorings.filter (fun m => m.paused && m.faulted) = [] := by
    refine List.filter_eq_nil_iff.2 fun m hm => ?_
    rw [Bool.and_eq_true]
    rintro ⟨hp, hf⟩
    exact absurd hf (by simp [(h m hm).2 hp])
  simp [faultHandled, h1, h2]

/-! ### COMPUTE_RESET_DONE -/

/-- A lantern whose compute reset is over (R342). -/
def afterReset (x : Lantern) : Lantern := { setModes .normal (clearLantern x) with rst := ⟨false, 0, false, false⟩ }

theorem execComputeResetDone_lantern (ha : (lanternAt s l).rst.active = true) (ht : (lanternAt s l).rst.test = false)
    (hh : (lanternAt s l).rst.held = false) (htw : (towerAt s (l / 48)).rst.active = false) (ho : .lantern l ∉ s.keeper.owed) :
    execComputeResetDone (.lantern l) s = .next (faultHandled (releaseLantern s l)) := by
  have hw : advanceWaits s (.lantern l) = false := by simpa [advanceWaits] using ho
  simp [execComputeResetDone, ha, ht, hh, htw, hw]

theorem execComputeResetDone_idle (ha : (lanternAt s l).rst.active = false) :
    execComputeResetDone (.lantern l) s = .next s ∧ execResetHangLimit (.lantern l) s = .next s := by
  simp [execComputeResetDone, execResetHangLimit, ha]

theorem execComputeResetDone_tower (ha : (towerAt s k).rst.active = true) (hh : (towerAt s k).rst.held = false)
    (ht : towerTesting s k = false) (ho : s.keeper.owed = []) :
    execComputeResetDone (.tower k) s = .next (faultHandled (releaseTower s k)) := by
  have hw : advanceWaits s (.tower k) = false := by simp [advanceWaits, ho]
  simp [execComputeResetDone, ha, hh, ht, hw]

theorem towerTesting_none (h : ∀ l, l / 48 = k → (lanternAt s l).rst.test = false) : towerTesting s k = false := by
  unfold towerTesting
  refine List.any_eq_false.2 fun l hl => ?_
  have := mem_towerLanterns.1 hl
  simp [h l (by omega)]

/-- Releasing some lanterns, each once, changes those alone. -/
theorem releaseLantern_foldl : ∀ (ls : List Nat) (s : State), ls.Nodup → (∀ l ∈ ls, l < s.lanterns.length) →
    (∀ j, lanternAt (ls.foldl releaseLantern s) j = if j ∈ ls then afterReset (lanternAt s j) else lanternAt s j) ∧
    { ls.foldl releaseLantern s with lanterns := s.lanterns } = s
  | [], s, _, _ => ⟨fun _ => by simp, rfl⟩
  | l :: ls, s, hn, hl => by
    obtain ⟨hnl, hn⟩ := List.nodup_cons.1 hn
    obtain ⟨h1, h2⟩ := releaseLantern_foldl ls (releaseLantern s l) hn fun j hj => by
      unfold releaseLantern
      rw [modLantern_lanterns, List.length_modify]
      exact hl j (List.mem_cons_of_mem _ hj)
    refine ⟨fun j => ?_, ?_⟩
    · rw [List.foldl_cons, h1]
      by_cases hj : j = l
      · subst hj
        rw [if_neg hnl, if_pos List.mem_cons_self]
        exact lanternAt_modLantern_same _ _ _ (hl j List.mem_cons_self)
      · have e : lanternAt (releaseLantern s l) j = lanternAt s j := lanternAt_modLantern_other _ _ hj
        rw [e]
        simp [hj]
    · exact congrArg (fun u : State => { u with lanterns := s.lanterns }) h2

theorem towerLanterns_nodup (k : Nat) : (towerLanterns k).Nodup := by
  unfold towerLanterns
  exact List.Nodup.map (fun a b h => by simpa using h) List.nodup_range

/-- A tower whose reset is over, and its lanterns, take work again (R342). -/
theorem releaseTower_spec (hi : s.Inv) (hk : k < 4) :
    (∀ l, lanternAt (releaseTower s k) l = if l / 48 = k then afterReset (lanternAt s l) else lanternAt s l) ∧
    (towerAt (releaseTower s k) k).rst = ⟨false, 0, false, false⟩ ∧
    (∀ j, j ≠ k → towerAt (releaseTower s k) j = towerAt s j) ∧
    (releaseTower s k).moorings = s.moorings ∧ (releaseTower s k).mem = s.mem ∧ (releaseTower s k).router = s.router ∧
    (releaseTower s k).keeper = s.keeper := by
  have hl : s.lanterns.length = 192 := hi.1.1.1
  have ht : s.towers.length = 4 := hi.1.2.2.2.2.2
  obtain ⟨h1, h2⟩ := releaseLantern_foldl (towerLanterns k)
    (modTower s k (fun x => { x with rst := ⟨false, 0, false, false⟩ })) (towerLanterns_nodup k) fun l h => by
      have := mem_towerLanterns.1 h
      change l < s.lanterns.length
      omega
  unfold releaseTower
  generalize List.foldl releaseLantern _ (towerLanterns k) = u at h1 h2
  have htw : ∀ j, towerAt u j = towerAt (modTower s k (fun x => { x with rst := ⟨false, 0, false, false⟩ })) j :=
    fun j => by rw [← h2]; rfl
  have hrest : u.moorings = s.moorings ∧ u.mem = s.mem ∧ u.router = s.router ∧ u.keeper = s.keeper := by
    have hm := congrArg State.moorings h2
    have hmem := congrArg State.mem h2
    have hr := congrArg State.router h2
    have hk := congrArg State.keeper h2
    exact ⟨hm, hmem, hr, hk⟩
  refine ⟨fun l => ?_, ?_, fun j hj => ?_, hrest⟩
  · have hm : l ∈ towerLanterns k ↔ l / 48 = k := by rw [mem_towerLanterns]; omega
    rw [h1]
    simp only [hm]
    rfl
  · rw [htw, towerAt_modTower_same _ _ _ (by omega)]
  · rw [htw, towerAt_modTower_other _ _ hj]

/-! ### RESET_HANG_LIMIT -/

/-- The resets of the towers stay as they are counted, and none ends. -/
def TowersKept (s t : State) : Prop :=
  t.towers.length = s.towers.length ∧ ∀ k, (towerAt t k).resets = (towerAt s k).resets ∧
    ((towerAt s k).rst.active = true → (towerAt t k).rst.active = true)

theorem towersKept_of_eq (h : t.towers = s.towers) : TowersKept s t := by
  refine ⟨congrArg List.length h, fun k => ?_⟩
  unfold towerAt
  rw [h]
  exact ⟨rfl, id⟩

theorem towersKept_of_units (h : SameUnits s t) : TowersKept s t := towersKept_of_eq h.2.2.2.2.1

theorem TowersKept.trans {u : State} (h : TowersKept s t) (h' : TowersKept t u) : TowersKept s u :=
  ⟨h'.1.trans h.1, fun k => ⟨(h'.2 k).1.trans (h.2 k).1, fun ha => (h'.2 k).2 ((h.2 k).2 ha)⟩⟩

theorem towersKept_foldl {α : Type} {g : State → α → State} (hg : ∀ s a, TowersKept s (g s a)) (as : List α) (s : State) :
    TowersKept s (as.foldl g s) :=
  rel_foldl (fun _ => towersKept_of_eq rfl) (fun _ _ _ h h' => h.trans h') hg as s

theorem towersKept_advanceDaymark (d : Domain) : TowersKept s (advanceDaymark s d) := by
  refine ⟨(advanceDaymark_length s d).2.1, fun k => ?_⟩
  rw [advanceDaymark_tower Tower.resets (by intro _ _; rfl), advanceDaymark_tower Tower.rst (by intro _ _; rfl)]
  exact ⟨rfl, id⟩

theorem towersKept_stopLantern (l : Nat) : TowersKept s (stopLantern s l) := by
  unfold stopLantern
  dsimp only
  have hc := towersKept_of_units (sameCore_cutFlights s l).1
  split
  · exact (hc.trans (towersKept_of_eq (modLantern_towers ..))).trans (towersKept_advanceDaymark _)
  · exact hc.trans (towersKept_of_eq (modLantern_towers ..))

theorem towersKept_holdTower (j : Nat) : TowersKept s (holdTower s j) := by
  rw [holdTower_eq]
  have hls : TowersKept s (List.foldl holdOne s (towerLanterns j)) := towersKept_foldl
    (fun s l => (towersKept_stopLantern l).trans (towersKept_of_eq (modLantern_towers ..))) _ _
  refine hls.trans ?_
  generalize List.foldl holdOne s (towerLanterns j) = u
  unfold holdAll
  refine TowersKept.trans ⟨List.length_modify .., fun k => ?_⟩ (towersKept_advanceDaymark _)
  show (towerAt (modTower u j _) k).resets = _ ∧ (_ → (towerAt (modTower u j _) k).rst.active = _)
  unfold towerAt modTower
  dsimp only
  rw [getD_modify_le]
  split
  · exact ⟨rfl, fun _ => rfl⟩
  · exact ⟨rfl, id⟩

theorem towersKept_enterRouterOnly : TowersKept s (enterRouterOnly s) := by
  unfold enterRouterOnly
  split
  · exact towersKept_of_eq rfl
  · split
    · exact towersKept_of_eq rfl
    · obtain ⟨⟨sh, hsh, -⟩, -⟩ := stopCores_all ([0, 1, 2, 3].foldl holdTower (endFill s)) (fun _ => true)
      dsimp only
      have h1 : TowersKept s ([0, 1, 2, 3].foldl holdTower (endFill s)) :=
        TowersKept.trans (t := endFill s) (towersKept_of_eq rfl) (towersKept_foldl (fun _ _ => towersKept_holdTower _) _ _)
      generalize List.foldl holdTower (endFill s) [0, 1, 2, 3] = u at h1 hsh
      have h2 : TowersKept u (modBoot (stopCores u (fun _ => true)) (fun b => { b with state := 3, alert := true })) :=
        towersKept_of_eq (by rw [hsh]; rfl)
      generalize modBoot (stopCores u (fun _ => true)) _ = v at h2
      have h3 := towersKept_of_units (raiseEventP_units (s := bumpModule v 0 1) evRouterOnly 0 0)
      refine (h1.trans h2).trans (TowersKept.trans h3 ?_)
      exact towersKept_of_units (outward_foldl (fun _ _ => outward_tellNode _ _) _).1

theorem finishOp_units (f tag status flags detail : Nat) : SameUnits s (finishOp s f tag status flags detail) := by
  have hd : SameUnits s (dropOp s f tag) := ⟨rfl, rfl, rfl, rfl, rfl, rfl, rfl, rfl⟩
  unfold finishOp
  split
  · exact SameUnits.refl s
  · dsimp only
    split
    · exact hd.trans (outward_tellNode _ _).1
    · exact hd.trans (outward_postRecord _ _ _ _).1

theorem endBist_units (o : LongOp) (status : Nat) : SameUnits s (endBist s o status) := by
  have hd : SameUnits s (drawFree s).2 := ⟨rfl, rfl, rfl, rfl, rfl, rfl, rfl, rfl⟩
  unfold endBist
  dsimp only
  refine SameUnits.trans ?_ (finishOp_units _ _ _ _ _)
  refine SameUnits.trans ?_ (⟨rfl, rfl, rfl, rfl, rfl, rfl, rfl, rfl⟩ : SameUnits _ (modKeeper _ _))
  split
  · split
    case h_1 w hw => exact hd.trans (keeperWrite_units hw).1
    case h_2 => exact hd
  · exact hd

theorem bistCut_units (k : Nat) : SameUnits s (bistCut s k) := by
  unfold bistCut
  split
  · split
    · exact endBist_units _ _
    · exact SameUnits.refl s
  · exact SameUnits.refl s

theorem towerResetEvent_units (k : Nat) : SameUnits s (towerResetEvent s k) := by
  unfold towerResetEvent
  split
  · exact raiseEventIn_units ..
  · exact rel_foldl SameUnits.refl (fun _ _ _ h h' => h.trans h') (fun _ _ => raiseEvent_units ..) _ _

/-- A tower reset that starts is in progress and counted (R341, R368). -/
theorem startTowerReset_tower (hk : k < s.towers.length) (ha : (towerAt s k).rst.active = false) :
    (towerAt (startTowerReset s k) k).rst.active = true ∧ (towerAt (startTowerReset s k) k).resets = (towerAt s k).resets + 1 := by
  unfold startTowerReset
  rw [if_neg (by simp [ha])]
  dsimp only
  have h1 : TowersKept s (modKeeper (bistCut s k) (fun x => { x with resetLog := x.resetLog ++ [(.tower k, nowNs s)] })) :=
    (towersKept_of_units (bistCut_units k)).trans (towersKept_of_eq (modKeeper_towers ..))
  generalize hs1 : modKeeper (bistCut s k) _ = s1 at h1
  have h2 := h1.trans (towersKept_foldl (fun _ l => towersKept_stopLantern l) (towerLanterns k) s1)
  generalize (towerLanterns k).foldl stopLantern s1 = s2 at h2
  generalize hs3 : modTower s2 k _ = s3
  have h3 : (towerAt s3 k).rst.active = true ∧ (towerAt s3 k).resets = (towerAt s k).resets + 1 := by
    rw [← hs3, towerAt_modTower_same _ _ _ (by rw [h2.1]; exact hk)]
    exact ⟨rfl, congrArg (· + 1) (h2.2 k).1⟩
  have h4 : TowersKept s3 (towerResetEvent (advanceDaymark s3 (.tower k)) k) :=
    (towersKept_advanceDaymark _).trans (towersKept_of_units (towerResetEvent_units k))
  split
  · have h5 := (h4.trans towersKept_enterRouterOnly).2 k
    exact ⟨h5.2 h3.1, h5.1.trans h3.2⟩
  · exact ⟨(h4.2 k).2 h3.1, (h4.2 k).1.trans h3.2⟩

theorem execResetHangLimit_lantern (hi : s.Inv) (hl : l < 192) (ha : (lanternAt s l).rst.active = true)
    (ht : (lanternAt s l).rst.test = false) (hh : (lanternAt s l).rst.held = false) (htw : (towerAt s (l / 48)).rst.active = false) :
    ∃ t, execResetHangLimit (.lantern l) s = .next t ∧ (towerAt t (l / 48)).rst.active = true ∧
      (towerAt t (l / 48)).resets = (towerAt s (l / 48)).resets + 1 := by
  refine ⟨startTowerReset (bumpLantern (bumpLantern s l 8) l 3) (l / 48), by simp [execResetHangLimit, ha, ht, hh, htw], ?_⟩
  have ht4 : s.towers.length = 4 := hi.1.2.2.2.2.2
  exact startTowerReset_tower (s := bumpLantern (bumpLantern s l 8) l 3) (by change _ < s.towers.length; omega) htw

theorem execResetHangLimit_tower (hi : s.Inv) (ha : (towerAt s k).rst.active = true) (hh : (towerAt s k).rst.held = false)
    (ht : towerTesting s k = false) (hb : s.boot.state = 1 ∨ s.boot.state = 2) :
    ∃ t, execResetHangLimit (.tower k) s = .next t ∧ RouterOnly t :=
  ⟨_, by simp [execResetHangLimit, ha, hh, ht]; rfl, (enterRouterOnly_routerOnly (inv_modTower hi) hb).1⟩

end Sys2Proof.Machine
end
section
/-! PROOFS. Targeted tests of a lantern held in reset, and daymarks that were owed (O17, R345, R348 to R350). -/

namespace Sys2Proof.Machine

variable {s t : State} {l : Nat}

/-! ### TARGETED_TEST_RESULT -/

/-- The state before the result of a lantern's logic BIST is logged: its counters, and its reset going on (R342, R368). -/
def tested (s : State) (l : Nat) (pass : Bool) : State := endTest (countTest s (.lantern l) pass) (.lantern l)

theorem tested_eq (s : State) (l : Nat) (pass : Bool) : tested s l pass =
    modLantern s l (fun x => { x with
      fcnt := bump (bump x.fcnt 4 1) (if pass then 5 else 6) 1
      rst := { x.rst with test := false } }) := by
  have h : tested s l pass = modLantern (bumpLantern (bumpLantern s l 4) l (if pass then 5 else 6)) l
      (fun x => { x with rst := { x.rst with test := false } }) := rfl
  rw [h]
  unfold bumpLantern
  rw [modLantern_twice, modLantern_twice]

theorem testable_lantern {p : Nat} (hp : (lanternAt s l).phys = some p) (ht : (lanternAt s l).rst.test = true) :
    testable s (.lantern l) = true := by
  simp [testable, partThere, testedInReset, partLantern, hp, ht]

/-- A pass below the transient limit is logged and counted, and the lantern stays (R349). -/
theorem execTargetedTestResult_pass {p : Nat} (hp : (lanternAt s l).phys = some p) (ht : (lanternAt s l).rst.test = true)
    (hc : (notePass (raiseEventIn (tested s l true) (.lantern l) evSelfTest none l 0 [0]) (.lantern l)).2 = false) :
    execTargetedTestResult (.lantern l) .pass s =
      .next (bumpLantern (notePass (raiseEventIn (tested s l true) (.lantern l) evSelfTest none l 0 [0]) (.lantern l)).1 l 7) := by
  unfold execTargetedTestResult
  rw [if_neg (by simp [testable_lantern hp ht])]
  simp only [decide_true, Bool.not_true, Bool.false_eq_true, if_false]
  exact congrArg Host.Outcome.next (if_neg (by rw [Bool.not_eq_true]; exact hc))

/-- What the event of a test says of its result (R388). -/
def testDetail : TestResult → Nat
  | .pass => 0
  | .fail _ => 1
  | .errorDuring => 2

/-- A test that fails, or finds an error, is logged (R350). -/
theorem execTargetedTestResult_fails {p : Nat} (hp : (lanternAt s l).phys = some p) (ht : (lanternAt s l).rst.test = true)
    {r : TestResult} (hr : r ≠ .pass) : execTargetedTestResult (.lantern l) r s =
      .next (retireHeld (raiseEventIn (tested s l false) (.lantern l) evSelfTest none l (testDetail r) [0]) l) := by
  unfold execTargetedTestResult
  rw [if_neg (by simp [testable_lantern hp ht])]
  simp only [hr, decide_false, Bool.not_false, if_true]
  cases r <;> rfl

/-- A pass below the limit does not make a transient lasting (R349). -/
theorem notePass_transient {u : State} (hc : u.keeper.policy = s.keeper.policy) (ht : u.keeper.transients = s.keeper.transients)
    {p : Part} (h : (s.keeper.transients.filter (fun q => q.1 == p)).length + 1 < s.keeper.policy.transient) :
    (notePass u p).2 = false := by
  unfold notePass
  dsimp only [modKeeper]
  rw [hc, ht, decide_eq_false_iff_not, List.filter_append, List.length_append, List.filter_filter]
  have h1 : (s.keeper.transients.filter (fun q => (q.1 == p) && decide (nowNs u < q.2 + s.keeper.policy.transientWin * 1000))).length ≤
      (s.keeper.transients.filter (fun q => q.1 == p)).length := by
    refine (List.monotone_filter_right _ fun q hq => ?_).length_le
    exact (Bool.and_eq_true _ _ ▸ hq).1
  simp
  omega

theorem outward_transients (h : Outward s t) : t.keeper.transients = s.keeper.transients := by
  have hk := congrArg Keeper.transients h.2.2.1
  exact hk

/-- What a passed test of a lantern leaves (R349): the event, the transient, the lantern out of its test. -/
theorem targetedTest_passed {p : Nat} (hl : l < s.lanterns.length) (hp : (lanternAt s l).phys = some p)
    (ht : (lanternAt s l).rst.test = true) (hr : HostRings s)
    (hc : (s.keeper.transients.filter (fun q => q.1 == .lantern l)).length + 1 < s.keeper.policy.transient) :
    ∃ t e, execTargetedTestResult (.lantern l) .pass s = .next t ∧ e ∈ t.flash.log ∧ e.code = evSelfTest ∧ e.unit = l ∧
      e.detail = 0 ∧ (.lantern l, nowNs s) ∈ t.keeper.transients ∧ (lanternAt t l).phys = some p ∧
      (lanternAt t l).rst = { (lanternAt s l).rst with test := false } ∧ OtherLanterns s t l ∧ t.mem = s.mem := by
  obtain ⟨e, hlog, hcode, hunit, hdet, -⟩ := raiseEventIn_hasEvent (tested s l true) (.lantern l) evSelfTest none l 0 [0]
  obtain ⟨v, -, -, -, ho⟩ := raiseEventIn_outward (s := tested s l true) (.lantern l) evSelfTest none l 0 [0]
  have hx := execTargetedTestResult_pass hp ht
  have hv : OnLantern (fun x y => y.phys = x.phys ∧ y.rst = { x.rst with test := false }) s l (tested s l true) :=
    tested_eq s l true ▸ onLantern_modLantern hl _ ⟨rfl, rfl⟩
  generalize tested s l true = w at *
  generalize raiseEventIn w (.lantern l) evSelfTest none l 0 [0] = u at *
  obtain ⟨hmem, -, -, -, hkeeper, -, -, -, -, htime, -⟩ := hv.outside
  obtain ⟨hphys, hrst⟩ := hv.lantern hl
  have hpol : u.keeper.policy = s.keeper.policy := ho.books.2.2.2.2.1.trans (congrArg Keeper.policy hkeeper)
  have htr : u.keeper.transients = s.keeper.transients := (outward_transients ho).trans (congrArg Keeper.transients hkeeper)
  have hnow : nowNs u = nowNs s := congrArg (fun x : TimeState => x.now / 65536) (ho.1.2.2.2.2.2.2.1.trans htime)
  have hlan : ∀ k, lanternAt u k = lanternAt w k := fun k => lanternAt_of_units ho.1 k
  have hlen : l < u.lanterns.length := by rw [ho.1.2.2.2.1]; exact hv.length ▸ hl
  have hnote : ∀ k, lanternAt (notePass u (.lantern l)).1 k = lanternAt w k := hlan
  have hbump : lanternAt (bumpLantern (notePass u (.lantern l)).1 l 7) l =
      { lanternAt (notePass u (.lantern l)).1 l with fcnt := bump (lanternAt (notePass u (.lantern l)).1 l).fcnt 7 1 } :=
    lanternAt_modLantern_same _ _ _ hlen
  rw [hnote] at hbump
  refine ⟨_, e, hx (notePass_transient hpol htr hc), hasEvent_bumpLantern hlog, hcode, hunit, hdet, ?_, ?_, ?_, ?_, ?_⟩
  · change _ ∈ u.keeper.transients.filter _ ++ [(_, nowNs u)]
    rw [hnow]
    exact List.mem_append_right _ (List.mem_singleton_self _)
  · rw [hbump]
    exact hphys.trans hp
  · rw [hbump]
    exact hrst
  · intro k hk
    refine (lanternAt_modLantern_other _ _ hk).trans ?_
    rw [hnote]
    exact hv.others k hk
  · refine Eq.trans ?_ ((ho.2.2.2 ?_).1.trans hmem)
    · rfl
    · exact hostRings_funcs hv.outside.2.2.2.1 hr

/-- A failed test of a lantern is logged (R350). -/
theorem targetedTest_failed {p : Nat} (hp : (lanternAt s l).phys = some p) (ht : (lanternAt s l).rst.test = true)
    {r : TestResult} (hr : r ≠ .pass) : ∃ t e, execTargetedTestResult (.lantern l) r s = .next t ∧ e ∈ t.flash.log ∧
      e.code = evSelfTest ∧ e.unit = l ∧ (r = .errorDuring → e.detail = 2) ∧ ∀ ps, r = .fail ps → e.detail = 1 := by
  obtain ⟨e, hlog, hcode, hunit, hdet, -⟩ := raiseEventIn_hasEvent (tested s l false) (.lantern l) evSelfTest none l (testDetail r) [0]
  refine ⟨_, e, execTargetedTestResult_fails hp ht hr, hasEvent_retireHeld hlog, hcode, hunit, ?_, ?_⟩
  · rintro rfl
    exact hdet
  · rintro ps rfl
    exact hdet

/-! ### DAYMARK_ADVANCE -/

theorem mayAdvance_of_all {d : Domain} (h : ∀ q ∈ s.keeper.lastAdv, q.1 = d → q.2 + 1000000 ≤ nowNs s) : mayAdvance s d = true := by
  unfold mayAdvance lastAdvance
  cases hf : s.keeper.lastAdv.find? (fun p => p.1 == d) with
  | none => rfl
  | some q =>
    have hq := List.find?_some hf
    exact decide_eq_true (h q (List.mem_of_find?_eq_some hf) (by simpa using hq))

theorem advanceOwed_owed {d : Domain} (ho : d ∈ s.keeper.owed) (h : ∀ q ∈ s.keeper.lastAdv, q.1 = d → q.2 + 1000000 ≤ nowNs s) :
    advanceOwed s d = modKeeper (advanceNow s d) (fun k => { k with owed := k.owed.erase d }) := by
  unfold advanceOwed
  rw [if_pos]
  simp [ho, mayAdvance_of_all h]

theorem advanceOwed_idle {d : Domain} (ho : d ∉ s.keeper.owed) : advanceOwed s d = s := by
  unfold advanceOwed
  rw [if_neg]
  simp [ho]

theorem nextDaymark_eq (k : Nat) :
    nextDaymark k = if k + 1 < 2 ^ 32 then k + 1 else if k + 1 = 2 ^ 32 then 1 else nextDaymark k := by
  by_cases h : k + 1 < 2 ^ 32
  · rw [if_pos h, nextDaymark, Nat.mod_eq_of_lt h, if_neg (Nat.succ_ne_zero k)]
  · rw [if_neg h]
    by_cases h' : k + 1 = 2 ^ 32
    · rw [if_pos h', nextDaymark, h', Nat.mod_self, if_pos rfl]
    · rw [if_neg h']

/-- A mooring's daymark that nothing waited for: there is nothing to do. -/
theorem dueActs_idle {id : Nat} (h : ∀ m ∈ s.moorings, m.desc.id = id → m.due = []) : dueActs s id = s := by
  unfold dueActs
  cases hm : mooringAt s id with
  | none => rfl
  | some m =>
    have hin : m ∈ s.moorings := List.mem_of_find?_eq_some hm
    have hid : m.desc.id = id := by simpa using List.find?_some hm
    have hmap : s.moorings.map (fun y => if y.desc.id = id then { y with due := [] } else y) = s.moorings := by
      refine (List.map_congr_left (g := fun y => y) fun y hy => ?_).trans (List.map_id' _)
      split
      · rename_i hyid
        rw [← h y hy hyid]
      · rfl
    simp only [h m hin hid, List.foldl_nil]
    exact congrArg (fun ms => { s with moorings := ms }) hmap

theorem execDaymarkAdvance_idle {d : Domain} (ho : d ∉ s.keeper.owed)
    (hm : ∀ m ∈ s.moorings, d = .mooring m.desc.id → m.due = [] ∨ mayAdvance s d = false) :
    execDaymarkAdvance d s = .next s := by
  unfold execDaymarkAdvance
  rw [advanceOwed_idle ho]
  cases d with
  | mooring id =>
    dsimp only
    split
    · rename_i ha
      refine congrArg Host.Outcome.next (dueActs_idle fun m hin hid => ?_)
      exact (hm m hin (by rw [hid])).resolve_right (by simp [ha])
    · rfl
  | _ => rfl

/-- An owed daymark that no mooring's advance waits on advances (R345). -/
theorem execDaymarkAdvance_owed {d : Domain} (hd : ∀ id, d ≠ .mooring id) (ho : d ∈ s.keeper.owed)
    (h : ∀ q ∈ s.keeper.lastAdv, q.1 = d → q.2 + 1000000 ≤ nowNs s) : execDaymarkAdvance d s =
      .next (modKeeper (advanceNow s d) (fun k => { k with owed := k.owed.erase d })) := by
  unfold execDaymarkAdvance
  rw [advanceOwed_owed ho h]
  cases d with
  | mooring id => exact absurd rfl (hd id)
  | _ => rfl

theorem sameUnits_modKeeper (f : Keeper → Keeper) : SameUnits s (modKeeper s f) := ⟨rfl, rfl, rfl, rfl, rfl, rfl, rfl, rfl⟩

/-- The Keeper's daymark, owed, advances (R345). -/
theorem execDaymarkAdvance_keeper (ho : .keeper ∈ s.keeper.owed)
    (h : ∀ q ∈ s.keeper.lastAdv, q.1 = .keeper → q.2 + 1000000 ≤ nowNs s) :
    ∃ t, execDaymarkAdvance .keeper s = .next t ∧ t.keeper.daymark = nextDaymark s.keeper.daymark ∧
      t.keeper.owed = s.keeper.owed.erase .keeper ∧ SameUnits s t ∧ t.mem = s.mem := by
  refine ⟨_, execDaymarkAdvance_owed (by simp) ho h, ?_, ?_, ?_, ?_⟩
  · simp only [modKeeper, advanceNow, noteAdvance, stepDaymark]
  · simp only [modKeeper, advanceNow, noteAdvance, stepDaymark]
  · unfold advanceNow noteAdvance stepDaymark
    exact (sameUnits_modKeeper _).trans ((sameUnits_modKeeper _).trans (sameUnits_modKeeper _))
  · simp only [modKeeper, advanceNow, noteAdvance, stepDaymark]

/-- A lantern's daymark, owed, advances (R345). -/
theorem execDaymarkAdvance_lantern (hl : l < s.lanterns.length) (ho : .lantern l ∈ s.keeper.owed)
    (h : ∀ q ∈ s.keeper.lastAdv, q.1 = .lantern l → q.2 + 1000000 ≤ nowNs s) :
    ∃ t, execDaymarkAdvance (.lantern l) s = .next t ∧
      lanternAt t l = { lanternAt s l with daymark := nextDaymark (lanternAt s l).daymark } ∧ OtherLanterns s t l ∧
      t.keeper.owed = s.keeper.owed.erase (.lantern l) ∧ t.moorings = s.moorings ∧ t.mem = s.mem := by
  have ha : ∀ k, lanternAt (modKeeper (advanceNow s (.lantern l)) (fun k => { k with owed := k.owed.erase (.lantern l) })) k =
      lanternAt (modLantern s l (fun x => { x with daymark := nextDaymark x.daymark })) k := fun _ => rfl
  refine ⟨_, execDaymarkAdvance_owed (by simp) ho h, ?_, fun k hk => ?_, rfl, rfl, rfl⟩
  · rw [ha, lanternAt_modLantern_same _ _ _ hl]
  · rw [ha, lanternAt_modLantern_other _ _ hk]

/-! ### Probes -/

section
variable {id n : Nat} {m : Mooring} {a : ProbeAnswer}

theorem tellNode_tells {d : Nat} (hd : d ≠ selfNode s) (msg : KeeperMsg) : (d, msg) ∈ (tellNode s d msg).out.kmsg := by
  unfold tellNode
  rw [if_neg hd]
  obtain ⟨r, k, hr⟩ := onlyRouter_sendSeq (s := { s with out := { s.out with kmsg := s.out.kmsg ++ [(d, msg)] } }) 0
    { Packet.blank with typ := 0x0A, cls := 0, dest := d }
  dsimp only
  rw [hr]
  exact List.mem_append_right _ (List.mem_singleton_self _)

theorem tellNode_units (d : Nat) (msg : KeeperMsg) : SameUnits s (tellNode s d msg) := (outward_tellNode d msg).1

/-- The probe of a node is over: it is not probed any longer. -/
def unprobed (s : State) (id n : Nat) : State :=
  modMooring s id (fun y => { y with probing := y.probing.filter (fun k => k != n) })

theorem unprobed_mooring (hm : mooringAt s id = some m) :
    mooringAt (unprobed s id n) id = some { m with probing := m.probing.filter (fun k => k != n) } ∧
    { unprobed s id n with moorings := s.moorings } = s := by
  refine ⟨?_, rfl⟩
  unfold unprobed
  rw [mooringAt_modMooring_same, hm]
  · rfl
  · exact fun _ => rfl

theorem probeEnded_answered (hm : mooringAt s id = some m) (hn : n ∈ m.probing) (hr : m.recovering = [])
    (he : m.electing = none) : probeEnded s id n (.daymark m.daymark) = unprobed s id n := by
  simp [probeEnded, hm, hn, hr, he, unprobed]

theorem probeEnded_lost (hm : mooringAt s id = some m) (hn : n ∈ m.probing) (hr : m.recovering = []) (he : m.electing = none)
    (ha : a ≠ .daymark m.daymark) (hanchor : anchorOf m = selfNode s) : probeEnded s id n a =
      recoverMember (raiseEvent (bumpModule (unprobed s id n) 6 1) evMemberLost (some id) 0 n) id n := by
  simp [probeEnded, hm, hn, hr, he, ha, hanchor, unprobed]

theorem probeEnded_noElection (hm : mooringAt s id = some m) (hn : n ∈ m.probing) (hr : m.recovering = [])
    (he : m.electing = none) (ha : a ≠ .daymark m.daymark) (hs : a ≠ .silent) (hanchor : anchorOf m ≠ selfNode s) :
    probeEnded s id n a = unprobed s id n := by
  simp [probeEnded, hm, hn, hr, he, ha, hs, hanchor, unprobed]

theorem probeEnded_late (hm : mooringAt s id = some m) (hn : n ∉ m.probing) : probeEnded s id n a =
    if anchorOf m = selfNode s ∧ fromMember a ∧ (!(membersOf s m).contains n ∨ lostAlready m n) then tellNode s n (.release id)
    else s := by
  simp only [probeEnded, hm]
  rw [if_pos (by simp [hn])]

/-- The anchor declares a member lost that gave no right answer (R362). -/
theorem probeEnded_declares (hm : mooringAt s id = some m) (hn : n ∈ m.probing) (hr : m.recovering = []) (he : m.electing = none)
    (ha : a ≠ .daymark m.daymark) (hanchor : anchorOf m = selfNode s) : ∃ e : Event, HasEvent e (probeEnded s id n a) ∧
      e.code = evMemberLost ∧ e.mooring = id ∧ e.detail = n := by
  rw [probeEnded_lost hm hn hr he ha hanchor]
  obtain ⟨e, hlog, hcode, -, hdet, hmoor⟩ := raiseEvent_hasEvent (bumpModule (unprobed s id n) 6 1) evMemberLost (some id) 0 n
  exact ⟨e, hasEvent_recoverMember hlog, hcode, hmoor, hdet⟩

theorem probeNode_probes (hm : mooringAt s id = some m) (hn : n ≠ selfNode s) : ∃ k, mooringAt (probeNode s id n) id = some k ∧
    n ∈ k.probing ∧ (n, .probe id) ∈ (probeNode s id n).out.kmsg ∧ (probeNode s id n).lanterns = s.lanterns := by
  unfold probeNode
  have hself : n ≠ selfNode (modMooring (bumpModule s 5 1) id (fun y => { y with
      probing := if y.probing.contains n then y.probing else y.probing ++ [n] })) := hn
  refine ⟨{ m with probing := if m.probing.contains n then m.probing else m.probing ++ [n] }, ?_, ?_, tellNode_tells hself _, (tellNode_units _ _).2.2.2.1⟩
  · rw [mooringAt_of_units (tellNode_units _ _), mooringAt_modMooring_same]
    · exact congrArg (Option.map _) hm
    · exact fun _ => rfl
  · dsimp only
    split
    · rename_i h
      simpa using h
    · exact List.mem_append_right _ (List.mem_singleton_self _)

/-- A member's report of a link that stays down: the anchor probes, another member tells the anchor (R362). -/
theorem execLinkDownReport_suspects {r : Nat} (hm : mooringAt s id = some m) (hr : r ∈ membersOf s m) (hn : n ∈ membersOf s m)
    (hrn : r ≠ n) : (anchorOf m = selfNode s → execLinkDownReport id r n s = .next (probeNode s id n)) ∧
      (anchorOf m ≠ selfNode s → r = selfNode s →
        execLinkDownReport id r n s = .next (tellNode s (anchorOf m) (.suspect m.desc.id n))) := by
  constructor
  · intro ha
    simp [execLinkDownReport, hm, hr, hn, hrn, ha]
  · intro ha hself
    subst hself
    simp [execLinkDownReport, hm, hr, hn, hrn, ha, suspect]

end

end Sys2Proof.Machine
end
section
/-! PROOFS. Faults of guests and errors of host windows; the watch, resets and probes together (O17, R22, R136, R188, R370). -/

namespace Sys2Proof.Machine

variable {s t : State}

/-! ### SHORE_ACCESS_FAULT -/

section
variable {c a : Nat}

/-- The fault delivered to a guest. -/
def guestFault (s : State) (c a : Nat) : State :=
  modShore s c (fun y => { y with faults := a :: y.faults })

theorem mapped_iff (x : ShoreCore) : (x.maps.any (fun w => decide (w.1 ≤ a) && decide (a < w.1 + w.2))) = true ↔
    ∃ w ∈ x.maps, w.1 ≤ a ∧ a < w.1 + w.2 := by
  simp

theorem unmapped_iff (x : ShoreCore) : (x.maps.any (fun w => decide (w.1 ≤ a) && decide (a < w.1 + w.2))) = false ↔
    ∀ w ∈ x.maps, a < w.1 ∨ w.1 + w.2 ≤ a := by
  rw [← Bool.not_eq_true, mapped_iff]
  push Not
  refine forall_congr' fun w => imp_congr_right fun _ => ?_
  omega

theorem modShore_set (hc : c < s.shore.length) (f : ShoreCore → ShoreCore) :
    (modShore s c f).shore = s.shore.set c (f (s.shore.getD c ShoreCore.reset)) := by
  unfold modShore
  dsimp only
  rw [List.modify_eq_set_getElem?, List.getElem?_eq_getElem hc, List.getD_eq_getElem?_getD, List.getElem?_eq_getElem hc]
  rfl

theorem guestFault_eq (hc : c < s.shore.length) : guestFault s c a = { s with
    shore := s.shore.set c { s.shore.getD c ShoreCore.reset with faults := a :: (s.shore.getD c ShoreCore.reset).faults } } :=
  congrArg (fun sh => { s with shore := sh }) (modShore_set hc _)

theorem notePoisonLine_units (mooring : Option Nat) (unit line : Nat) : (notePoisonLine s mooring unit line).shore = s.shore ∧
    (notePoisonLine s mooring unit line).lanterns = s.lanterns := by
  unfold notePoisonLine
  dsimp only
  split
  · obtain ⟨-, -, -, h4, -, -, -, h8⟩ := raiseEvent_units (s := bumpEcc s (eccUnitOf line) 1 1) evEcc none unit (line / 64)
    exact ⟨h8, h4⟩
  · split
    · exact ⟨rfl, rfl⟩
    · rename_i m _ _
      obtain ⟨-, -, -, h4, -, -, -, h8⟩ := raiseEvent_units (s := modMooring (bumpEcc s (eccUnitOf line) 1 1) m.desc.id
        (fun y => { y with poisonSeen := y.poisonSeen ++ [line] })) evEcc mooring unit (line / 64)
      exact ⟨h8, h4⟩

theorem execShoreAccessFault_idle (h : (s.shore.getD c ShoreCore.reset).running = false ∨ (0x10000000 ≤ a ∧ a < 0x10010000)) :
    execShoreAccessFault c a s = .next s := by
  unfold execShoreAccessFault
  dsimp only
  rw [if_pos (by simpa [shoreBlock] using h)]

theorem execShoreAccessFault_unmapped (hr : (s.shore.getD c ShoreCore.reset).running = true)
    (hb : ¬ (0x10000000 ≤ a ∧ a < 0x10010000))
    (hm : ∀ w ∈ (s.shore.getD c ShoreCore.reset).maps, a < w.1 ∨ w.1 + w.2 ≤ a) :
    execShoreAccessFault c a s = .next (guestFault s c a) := by
  unfold execShoreAccessFault
  dsimp only
  rw [if_neg (by rw [hr]; simpa [shoreBlock] using hb), if_pos (by rw [(unmapped_iff _).2 hm]; rfl)]
  rfl

/-- A mapped access reaches the module's memory or goes elsewhere (R370); a poisoned line alone is a fault (R143). -/
theorem execShoreAccessFault_clean (hr : (s.shore.getD c ShoreCore.reset).running = true)
    (hb : ¬ (0x10000000 ≤ a ∧ a < 0x10010000)) (hm : ∃ w ∈ (s.shore.getD c ShoreCore.reset).maps, w.1 ≤ a ∧ a < w.1 + w.2)
    (hp : ∀ b, checkAddr s (.shore c) a 1 false = some (.mem b) → isPoisoned s b 1 = false) :
    execShoreAccessFault c a s = .next s := by
  unfold execShoreAccessFault
  dsimp only
  rw [if_neg (by rw [hr]; simpa [shoreBlock] using hb), if_neg (by rw [(mapped_iff _).2 hm]; decide)]
  split
  · rename_i b hb
    rw [hp b hb]
    rfl
  · rfl

theorem execShoreAccessFault_poisoned {b : Nat} (hr : (s.shore.getD c ShoreCore.reset).running = true)
    (hb : ¬ (0x10000000 ≤ a ∧ a < 0x10010000)) (hm : ∃ w ∈ (s.shore.getD c ShoreCore.reset).maps, w.1 ≤ a ∧ a < w.1 + w.2)
    (hc : checkAddr s (.shore c) a 1 false = some (.mem b)) (hp : isPoisoned s b 1 = true) : execShoreAccessFault c a s =
      .next (guestFault (notePoisonLine s (s.shore.getD c ShoreCore.reset).lent c (lineOf b)) c a) := by
  unfold execShoreAccessFault
  dsimp only
  rw [if_neg (by rw [hr]; simpa [shoreBlock] using hb), if_neg (by rw [(mapped_iff _).2 hm]; decide)]
  simp only [hc, hp, if_true]
  rfl

end

/-! ### HOST_WINDOW_ERROR -/

section
variable {l : Nat} {ld : VLoad} {q : List VLoad}

theorem flag_raised (w : BitVec 16) : (orFlag w flAddr true).getLsbD flAddr = true := by
  simp [orFlag, flAddr]

/-- An address error sets ADDR and the fault flag of its lantern (R136). -/
theorem vecAddrErrorAt_lantern (hl : l < s.lanterns.length) (cause row index : Nat) :
    lanternAt (vecAddrErrorAt s l cause row index) l =
      { lanternAt s l with fault := true, vec := raiseFlag (lanternAt s l).vec flAddr true } ∧
    OtherLanterns s (vecAddrErrorAt s l cause row index) l ∧
    (vecAddrErrorAt s l cause row index).moorings = s.moorings := by
  unfold vecAddrErrorAt
  dsimp only
  refine ⟨?_, fun k hk => ?_, (lanternEvent_units ..).2.2.1⟩
  · rw [lanternAt_lanternEvent, lanternAt_modVec_same _ _ _ (by simpa [setFault] using hl)]
    unfold setFault
    rw [lanternAt_modLantern_same _ _ _ hl]
  · rw [lanternAt_lanternEvent, lanternAt_modVec_other _ _ hk]
    exact lanternAt_modLantern_other _ _ hk

/-- A host window fails under the oldest load of a vector engine (R136). -/
theorem execHostWindowError_load (hl : l < s.lanterns.length) (hq : (lanternAt s l).vec.loadQ = ld :: q) (hf : ld.fail = false) :
    ∃ t, execHostWindowError (.vector l) s = .next t ∧ (lanternAt t l).fault = true ∧
      (lanternAt t l).vec.loadQ = { ld with fail := true } :: q ∧ (lanternAt t l).vec.flags.getLsbD flAddr = true ∧
      (lanternAt t l).vec.regs = (lanternAt s l).vec.regs ∧ OtherLanterns s t l ∧ t.moorings = s.moorings := by
  have hx : execHostWindowError (.vector l) s = .next (vecAddrErrorAt
      (modVec s l (fun v => { v with loadQ := v.loadQ.modify 0 (fun d => { d with fail := true }) })) l causeHost
      (lanternAt s l).vec.row ld.index) := by
    simp [execHostWindowError, hq, hf]
  obtain ⟨he, ho, hm⟩ := vecAddrErrorAt_lantern (s := modVec s l (fun v => { v with
    loadQ := v.loadQ.modify 0 (fun d => { d with fail := true }) })) (l := l) (by simpa [modVec] using hl) causeHost
    (lanternAt s l).vec.row ld.index
  rw [lanternAt_modVec_same _ _ _ hl] at he
  refine ⟨_, hx, ?_, ?_, ?_, ?_, fun k hk => ?_, hm⟩
  · rw [he]
  · rw [he]
    simp [raiseFlag, hq]
  · rw [he]
    exact flag_raised _
  · rw [he]
    rfl
  · rw [ho k hk]
    exact lanternAt_modVec_other _ _ hk

theorem takeFlight_none {c : Chan} {p : DmaFlight → Bool} (h : ∀ f ∈ (chanAt s c).flights, p f = false) :
    takeFlight s c p = (none, s) := by
  unfold takeFlight
  rw [List.find?_eq_none.2 fun f hf => by simp [h f hf]]

/-- A channel with no transfer to be performed has no host window that fails (R188). -/
theorem execHostWindowError_noJob {c : Chan} (h : ∀ f ∈ (chanAt s c).flights, f.job = none) :
    execHostWindowError (.dma c) s = .next s := by
  unfold execHostWindowError dmaHostError
  dsimp only
  rw [takeFlight_none fun f hf => by rw [h f hf]]

end

end Sys2Proof.Machine
end
section
/-! PROOFS. The watch, resets, tests, daymarks, probes, guests and host windows together (O17). -/

namespace Sys2Proof.Machine

/-- Settles O17: each clause is one command of the watch, the resets or the probes, as the lemmas above say it. -/
theorem watchAndRecovery : Obligations.WatchAndRecovery := by
  unfold Obligations.WatchAndRecovery
  intro s hi
  have hlen : s.lanterns.length = 192 := hi.1.1.1
  have htow : s.towers.length = 4 := hi.1.2.2.2.2.2
  have hsh : s.shore.length = 12 := hi.1.2.2.2.2.1
  refine ⟨?beacon, ?lanternReset, ?towerReset, ?noReset, ?tests, ?keeperDaymark, ?lanternDaymark, ?noDaymark, ?probes, ?late,
    ?silent, ?links, ?guests, ?loads, ?channels⟩
  case beacon =>
    intro l hl x stood waited watch
    have hl' : l < s.lanterns.length := by omega
    refine ⟨fun hw => ?_, fun hw h7 hs7 => ?_, fun hw h8 => ?_⟩
    · have h (f : Lantern → Lantern) := onLantern_modLantern (P := fun _ _ => True) hl' f trivial
      exact ⟨_, execBeaconSample_unwatched hw, (h _).others, (h _).outside, (h _).moorings, lanternAt_modLantern_same _ _ _ hl'⟩
    · have h := onLantern_modLantern (P := fun _ _ => True) hl' sampleLantern trivial
      have hn : ¬ Eighth x := by
        rintro (⟨i, hi3, hst, h7'⟩ | ⟨hst, h7'⟩)
        · exact absurd (h7 i hi3 hst) (by omega)
        · exact absurd (hs7 hst) (by omega)
      refine ⟨_, _, _, execBeaconSample_counts hl' hw hn, h.others, h.outside, h.moorings, lanternAt_modLantern_same _ _ _ hl',
        fun i hi3 => ?_, ?_⟩
      · exact ⟨(sample_stood x i hi3).1, (sample_stood x i hi3).2, (sample_stoodWaits x i hi3).1, (sample_stoodWaits x i hi3).2⟩
      · exact sample_waited x
    · obtain ⟨t, e, hx, hlog, hc, hu, hwait, hengine⟩ := execBeaconSample_fog hi hl hw h8
      refine ⟨t, e, hx, hlog, hc, hu, hwait, ?_⟩
      rintro ⟨i, hi3, hst, h7, hno⟩
      refine hengine fun hall => ?_
      obtain ⟨hw1, hw7⟩ := hall i hi3 hst h7
      rcases hno with hno | hno
      · exact absurd (hno.symm.trans hw1) (by decide)
      · exact absurd hw7 (Nat.not_le.2 hno)
  case lanternReset =>
    intro l hl x ha ht hh htw
    refine ⟨fun ho => ?_, execResetHangLimit_lantern hi hl ha ht hh htw⟩
    have h := onLantern_modLantern (P := fun x y => y = afterReset x) (s := s) (l := l) (by omega) afterReset rfl
    have hx : lanternAt (releaseLantern s l) l = afterReset (lanternAt s l) := h.lantern (by omega)
    refine ⟨releaseLantern s l, _, execComputeResetDone_lantern ha ht hh htw ho, rfl, fun hn => faultHandled_idle hn, h.others,
      h.outside, h.moorings, hx, ?_⟩
    rw [hx]
    exact ⟨rfl, rfl, rfl, rfl, rfl, rfl⟩
  case towerReset =>
    intro k hk x ha hh ht
    have htest := towerTesting_none ht
    refine ⟨fun ho => ?_, execResetHangLimit_tower hi ha hh htest⟩
    obtain ⟨h1, h2, h3, hmoor, hmem, hrouter, hkeeper⟩ := releaseTower_spec hi hk
    have hx := execComputeResetDone_tower ha hh htest ho
    generalize releaseTower s k = u at *
    refine ⟨u, _, hx, rfl, fun hn => faultHandled_idle (s := u) ?_, h2, h3, hmem, hrouter, hkeeper, fun l _ => h1 l⟩
    intro m hm
    exact hn m (hmoor ▸ hm)
  case noReset => exact fun l ha => execComputeResetDone_idle ha
  case tests =>
    intro l p hl hp ht hr
    exact ⟨targetedTest_passed (by omega) hp ht hr, fun r => targetedTest_failed hp ht⟩
  case keeperDaymark =>
    rintro k ho hq rfl
    obtain ⟨t, hx, hd, hrest⟩ := execDaymarkAdvance_keeper ho hq
    exact ⟨t, hx, hd.trans (nextDaymark_eq _), hrest⟩
  case lanternDaymark => exact fun l hl ho hq => execDaymarkAdvance_lantern (by omega) ho hq
  case noDaymark => exact fun d ho hm => execDaymarkAdvance_idle ho hm
  case probes =>
    intro id m n hm hn hr he
    refine ⟨⟨_, congrArg Host.Outcome.next (probeEnded_answered hm hn hr he), unprobed_mooring hm⟩, fun a ha hanchor => ?_,
      fun a hs ha hanchor hself => ?_⟩
    · obtain ⟨e, hlog, hc, hmoor, hd⟩ := probeEnded_declares hm hn hr he ha hanchor
      exact ⟨_, e, rfl, hlog, hc, hmoor, hd⟩
    · exact ⟨_, congrArg Host.Outcome.next (probeEnded_noElection hm hn hr he ha hs (hanchor ▸ hself)), unprobed_mooring hm⟩
  case late =>
    intro id m n k hm hn hanchor hmem hself
    have hx := probeEnded_late (a := .daymark k) hm hn
    rw [if_pos ⟨hanchor, rfl, .inl (by simpa using hmem)⟩] at hx
    exact ⟨_, congrArg Host.Outcome.next hx, tellNode_tells hself _, (tellNode_units _ _).2.2.1, (tellNode_units _ _).2.2.2.1⟩
  case silent =>
    intro id m n hm hn
    have hx := probeEnded_late (a := .silent) hm hn
    rw [if_neg (by simp [fromMember])] at hx
    exact congrArg Host.Outcome.next hx
  case links =>
    intro id m r n hm hr hn hrn hself
    obtain ⟨h1, h2⟩ := execLinkDownReport_suspects hm hr hn hrn
    refine ⟨fun hanchor => ?_, fun hanchor hrself => ?_⟩
    · obtain ⟨k, hk⟩ := probeNode_probes hm hself
      exact ⟨_, k, h1 hanchor, hk⟩
    · have hid : m.desc.id = id := by simpa using List.find?_some hm
      rw [← hid]
      exact ⟨_, hid ▸ h2 hanchor hrself, tellNode_tells hanchor _, (tellNode_units _ _).2.2.1, (tellNode_units _ _).2.2.2.1⟩
  case guests =>
    intro c a hc x block
    have hc' : c < s.shore.length := by omega
    refine ⟨?_, ?_, ?_⟩
    · rintro ⟨hr, hb, hm⟩
      exact (execShoreAccessFault_unmapped hr hb hm).trans (congrArg Host.Outcome.next (guestFault_eq hc'))
    · rintro (hr | hb | ⟨hm, hp⟩)
      · exact execShoreAccessFault_idle (.inl hr)
      · exact execShoreAccessFault_idle (.inr hb)
      · by_cases hr : x.running = false ∨ block
        · exact execShoreAccessFault_idle hr
        · obtain ⟨hr, hb⟩ := not_or.1 hr
          exact execShoreAccessFault_clean (Bool.not_eq_false _ ▸ hr) hb hm hp
    · intro b hr hb hm hca hp
      obtain ⟨h1, h2⟩ := notePoisonLine_units (s := s) x.lent c (lineOf b)
      refine ⟨_, execShoreAccessFault_poisoned hr hb hm hca hp, ?_, h2⟩
      refine (modShore_set (s := notePoisonLine s x.lent c (lineOf b)) (h1 ▸ hc') _).trans ?_
      rw [h1]
  case loads => exact fun l ld q hl hq hf => execHostWindowError_load (by omega) hq hf
  case channels => exact fun c _ h => execHostWindowError_noJob h

end Sys2Proof.Machine
end

section
/-! PROOFS. What the work of a lantern's engines can change, said once (R119, R142, R143, R187, R189, R223): the relation Work. -/

namespace Sys2Proof.Machine

/-! ### The relation -/

/-- A mooring without what the work of a step in hand gathers: flags and statistics, undo copies, the books of the
block-preconditioned class, tensors past their reservation, poisoned lines met. -/
def boundaryBooks (m : Mooring) : Mooring :=
  { m with
    flags := 0
    bad := false
    gathered := Verdict.blank 0
    ladders := []
    undo := []
    moments := []
    tiles := []
    diag := []
    diagSaved := none
    rungs := []
    overLimit := []
    poisonSeen := [] }

/-- A lantern at work: it stays what and whose it is, and starts on nothing. -/
structure LanternWorks (x y : Lantern) : Prop where
  phys    : y.phys = x.phys
  mooring : y.mooring = x.mooring
  rst     : y.rst = x.rst
  running : y.running = true → x.running = true

/-- The Keeper's books without counts and without what it reads and runs for commands. -/
def standingBooks (k : Keeper) : Keeper :=
  { k with
    ops := []
    ecc := []
    io := []
    debugWrites := []
    serial := 0 }

/-- The Keeper beside the engines' work: operations may end. -/
structure KeeperWorks (k j : Keeper) : Prop where
  books : standingBooks j = standingBooks k
  ops   : j.ops.Sublist k.ops

/-- State s follows from z by the work of engines: the ways in which work changes the state. -/
inductive Work (z : State) : State → Prop
  | refl : Work z z
  | lantern {s l f} : LanternWorks (lanternAt s l) (f (lanternAt s l)) → Work z s → Work z (modLantern s l f)
  | channel {s n} {f : DmaChan → DmaChan} : Work z s → Work z { s with sysChans := s.sysChans.modify n f }
  | mooring {s id f} : (∀ m, boundaryBooks (f m) = boundaryBooks m) → Work z s → Work z (modMooring s id f)
  | keeper {s f} : (∀ k, KeeperWorks k (f k)) → Work z s → Work z (modKeeper s f)
  | core {s c f} : Work z s → Work z (modShore s c f)
  | memory {s mem poison} : Work z s → Work z { s with mem := mem, poison := poison }
  | event {s e} : Work z s → Work z (logged s e)
  | outward {s t} : Outward s t → Work z s → Work z t

section
variable {z s t : State}

theorem Work.trans (h : Work z s) (k : Work s t) : Work z t := by
  induction k with
  | refl => exact h
  | lantern hf _ ih => exact .lantern hf ih
  | channel _ ih => exact .channel ih
  | mooring hf _ ih => exact .mooring hf ih
  | keeper hf _ ih => exact .keeper hf ih
  | core _ ih => exact .core ih
  | memory _ ih => exact .memory ih
  | event _ ih => exact .event ih
  | outward he _ ih => exact .outward he ih

/-! ### Folds -/

theorem work_of_snd {β : Type} {p : β × State} {b : β} (h : Work z p.2) (hp : p = (b, t)) : Work z t := by
  subst hp
  exact h

theorem work_foldl {α : Type} {g : State → α → State} {xs : List α} (hg : ∀ s x, Work z s → Work z (g s x))
    (h : Work z s) : Work z (xs.foldl g s) := List.foldlRecOn (motive := Work z) xs g h fun s hs x _ => hg s x hs

theorem work_foldl_fst {α β : Type} {g : State × β → α → State × β} {xs : List α} {p : State × β}
    (hg : ∀ p x, Work z p.1 → Work z (g p x).1) (h : Work z p.1) : Work z (xs.foldl g p).1 :=
  List.foldlRecOn (motive := fun p => Work z p.1) xs g h fun p hp x _ => hg p x hp

theorem work_foldlWriting {α : Type} {g : Writing → α → Writing} {xs : List α} {p : Writing}
    (hg : ∀ p x, Work z p.s → Work z (g p x).s) (h : Work z p.s) : Work z (xs.foldl g p).s :=
  List.foldlRecOn (motive := fun p => Work z p.s) xs g h fun p hp x _ => hg p x hp

/-! ### The ways of changing a state -/

theorem work_modVec {l : Nat} {f : VEngine → VEngine} (h : Work z s) : Work z (modVec s l f) :=
  .lantern ⟨rfl, rfl, rfl, id⟩ h

theorem work_modChan {c : Chan} {f : DmaChan → DmaChan} (h : Work z s) : Work z (modChan s c f) := by
  cases c with
  | lantern l k => exact .lantern ⟨rfl, rfl, rfl, id⟩ h
  | system n => exact .channel h

theorem work_modRouter {f : Router → Router} (h : Work z s) : Work z (modRouter s f) := .outward (outward_modRouter f) h

theorem work_drawFree (h : Work z s) : Work z (drawFree s).2 := .outward onlyRouter_drawFree.outward h

theorem work_freeBytes {n : Nat} (h : Work z s) : Work z (freeBytes n s).2 := .outward (onlyRouter_freeBytes n s).outward h

theorem work_tellNode {d : Nat} {m : KeeperMsg} (h : Work z s) : Work z (tellNode s d m) := .outward (outward_tellNode d m) h

theorem work_sendSeq {tower : Nat} {p : Packet} (h : Work z s) : Work z (sendSeq s tower p) :=
  .outward (outward_sendSeq tower p) h

theorem work_postRecord {f q : Nat} {tag : Option Nat} {r : Nat} (h : Work z s) : Work z (postRecord s f q tag r) :=
  .outward (outward_postRecord f q tag r) h

theorem work_raiseEventIn {dom : Domain} {code : Nat} {mooring : Option Nat} {unit detail : Nat} {more : List Nat}
    (h : Work z s) : Work z (raiseEventIn s dom code mooring unit detail more) := by
  obtain ⟨e, -, -, -, he⟩ := raiseEventIn_outward (s := s) dom code mooring unit detail more
  exact .outward he (.event h)

theorem work_peerWrites {tower mooring : Nat} {dom : Domain} {w base : Nat} {bs : List Byte} {who : Nat → PeerFor}
    {ps : List (Nat × Nat)} (h : Work z s) : Work z (peerWrites s tower mooring dom w base bs who ps).1 :=
  .outward (onlyRouter_peerWrites tower mooring dom w base bs who ps s).outward h

theorem work_hostWrite {a : Nat} {bs : List Byte} (h : Work z s) : Work z (hostWrite s a bs) :=
  .outward (outward_of_same (s := s) ⟨rfl, rfl, rfl, rfl, rfl, rfl, rfl, rfl⟩ rfl rfl rfl rfl rfl) h

theorem work_addPoison {line : Nat} (h : Work z s) : Work z (addPoison s line) := .memory h

theorem work_writeLines {a : Nat} {bs : List Byte} {ls : List Nat} (h : Work z s) : Work z (writeLines s a bs ls) := by
  induction ls generalizing s with
  | nil => exact h
  | cons l ls ih =>
    refine ih ?_
    unfold writeLine
    dsimp only
    split
    · exact h
    · exact .memory h

theorem work_writeMem {a : Nat} {bs : List Byte} (h : Work z s) : Work z (writeMem s a bs) := by
  unfold writeMem
  split
  · exact .keeper (fun _ => ⟨rfl, .refl _⟩) h
  · exact work_writeLines h

theorem work_openLines {cells : List (Nat × Byte)} {ls : List Nat} (h : Work z s) : Work z (openLines cells ls s).2 := by
  induction ls generalizing s with
  | nil => exact h
  | cons l ls ih => exact ih (work_drawFree h)

theorem work_dropOp {f tag : Nat} (h : Work z s) : Work z (dropOp s f tag) :=
  .keeper (fun _ => ⟨rfl, List.filter_sublist⟩) h

theorem work_ite {c : Prop} [Decidable c] (h : Work z s) (k : Work z t) : Work z (if c then s else t) := by
  split
  · exact h
  · exact k

theorem work_iteWriting {c : Prop} [Decidable c] {a b : Writing} (h : Work z a.s) (k : Work z b.s) :
    Work z (if c then a else b).s := by
  split
  · exact h
  · exact k

end

end Sys2Proof.Machine
end

section
/-! PROOFS. The engines' functions do no more than Work, each by those it calls, up to the winding down of a mooring (R119, R142,
R143, R187, R189, R223). -/

namespace Sys2Proof.Machine

section
variable {z s : State} {l a n vd va row index id tensor tile desc tag status : Nat} {bs : List Byte} {w : BitVec 128} {x : ShardAt}
  {c : Chan}

/-! ### Machine/Mem.lean, Queues.lean, Work.lean -/

theorem work_openCells {cells : List (Nat × Byte)} (h : Work z s) : Work z (openCells s cells).2 := work_openLines h

theorem work_peerRead {tower mooring win : Nat} {dom : Domain} {who : PeerFor} (h : Work z s) :
    Work z (peerRead s tower mooring dom win a n who).1 := work_sendSeq (work_modRouter h)

theorem work_peerReads {tower mooring win : Nat} {dom : Domain} {who : Nat → PeerFor} {ps : List (Nat × Nat)} (h : Work z s) :
    Work z (peerReads s tower mooring dom win who ps).1 := by
  induction ps generalizing s with
  | nil => exact h
  | cons p ps ih => exact ih (work_peerRead h)

theorem work_finishOp {f flags detail : Nat} (h : Work z s) : Work z (finishOp s f tag status flags detail) := by
  unfold finishOp
  split
  · exact h
  · exact work_ite (work_tellNode (work_dropOp h)) (work_postRecord (work_dropOp h))

theorem work_setFault (h : Work z s) : Work z (setFault s l) := .lantern ⟨rfl, rfl, rfl, id⟩ h

theorem work_bumpBeacon {i : Nat} (h : Work z s) : Work z (bumpBeacon s l i n) := .lantern ⟨rfl, rfl, rfl, id⟩ h

theorem work_bumpEvent {k : Nat} (h : Work z s) : Work z (bumpEvent s l k n) := .lantern ⟨rfl, rfl, rfl, id⟩ h

theorem work_raiseEvent {code unit detail : Nat} {mooring : Option Nat} (h : Work z s) :
    Work z (raiseEvent s code mooring unit detail) := by
  unfold raiseEvent raiseEventMore
  exact work_raiseEventIn h

theorem work_bumpEcc {u : EccUnit} {i : Nat} (h : Work z s) : Work z (bumpEcc s u i n) := by
  unfold bumpEcc
  exact .keeper (fun _ => ⟨rfl, .refl _⟩) h

theorem work_notePoisonLine {mooring : Option Nat} {unit line : Nat} (h : Work z s) :
    Work z (notePoisonLine s mooring unit line) := by
  unfold notePoisonLine
  dsimp only
  split
  · exact work_raiseEvent (work_bumpEcc h)
  · exact work_ite (work_bumpEcc h) (work_raiseEvent (.mooring (fun _ => rfl) (work_bumpEcc h)))

theorem work_notePoison (h : Work z s) : Work z (notePoison s l a n) := by
  unfold notePoison
  split
  · exact h
  · exact work_foldl (fun _ _ => work_notePoisonLine) (work_setFault h)

theorem work_keeperAnswer {key : Nat} (h : Work z s) : Work z (keeperAnswer s tag key bs status) :=
  .keeper (fun _ => ⟨rfl, .refl _⟩) h

/-! ### Machine/Lens.lean -/

theorem work_maskBytes {off k : Nat} (h : Work z s) : Work z (maskBytes s l off k).2 := by
  induction k with
  | zero => exact h
  | succ k ih =>
    unfold maskBytes
    dsimp only
    split
    · exact ih
    · exact work_drawFree (work_notePoison ih)

theorem work_maskedVectors {d : LensDesc} (h : Work z s) : Work z (maskedVectors s l d).2 := by
  unfold maskedVectors
  split
  · exact work_maskBytes h
  · exact h

theorem Drained.works {x y : Lantern} (h : Drained x y) : LanternWorks x y := by
  obtain ⟨hy, -⟩ := h
  rw [hy]
  exact ⟨rfl, rfl, rfl, id⟩

theorem work_startDrain (h : Work z s) : Work z (startDrain s l) := by
  unfold startDrain
  dsimp only
  split
  · exact h
  · exact work_ite (.lantern ⟨rfl, rfl, rfl, id⟩ h) h

theorem work_drainOnce (h : Work z s) : Work z (drainOnce s l) := by
  unfold drainOnce
  dsimp only
  split
  · exact h
  · exact work_ite (.lantern (drained_trans _ _ _ (drained_modJob ..) (drained_deliverRows ..)).works (work_maskedVectors h)) h

theorem work_startFill (h : Work z s) : Work z (startFill s l) := work_ite (.lantern ⟨rfl, rfl, rfl, id⟩ h) h

theorem work_releaseTile (h : Work z s) : Work z (releaseTile s l) := by
  unfold releaseTile
  dsimp only
  split
  · exact h
  · exact work_startFill (.lantern ⟨rfl, rfl, rfl, id⟩ h)

theorem work_retireLens (h : Work z s) : Work z (retireLens s l) := by
  unfold retireLens
  split
  · exact h
  · exact work_bumpEvent (work_bumpBeacon (work_startFill (.lantern ⟨rfl, rfl, rfl, id⟩ h)))

/-! ### Machine/Vector.lean -/

theorem work_vecAddrErrorAt {cause : Nat} (h : Work z s) : Work z (vecAddrErrorAt s l cause row index) :=
  work_raiseEventIn (work_modVec (work_setFault h))

theorem work_vecAddrError {cause : Nat} (h : Work z s) : Work z (vecAddrError s l cause) := work_vecAddrErrorAt h

theorem work_storeLocal (h : Work z s) : Work z (storeLocal s l a bs) := work_writeMem (work_ite (work_setFault h) h)

theorem work_performPieceAt {p : Nat × List Byte} (h : Work z s) : Work z (performPieceAt s l row index p) := by
  unfold performPieceAt
  split
  · exact work_storeLocal h
  · exact work_modVec (work_peerWrites h)
  · split
    · exact work_ite (work_hostWrite h) (work_vecAddrErrorAt h)
    · exact work_vecAddrErrorAt h
  · exact work_vecAddrErrorAt h

theorem work_performPiece {p : Nat × List Byte} (h : Work z s) : Work z (performPiece s l p) := work_performPieceAt h

theorem work_performStore {st : VStore} (h : Work z s) : Work z (performStore s l st) :=
  work_foldl (fun _ _ => work_performPieceAt) h

theorem work_performStores (h : Work z s) : Work z (performStores s l) :=
  work_foldl (fun _ _ => work_performStore) (work_modVec h)

theorem work_issueStore {ps : List (Nat × List Byte)} (h : Work z s) : Work z (issueStore s l ps) :=
  work_ite (work_vecAddrError h) (work_ite (work_performStore h)
    (work_modVec (work_ite (work_performStores (work_performStore h)) (work_performStore h))))

theorem work_fetchPart {ld : VLoad} {p : LoadPart} (h : Work z s) : Work z (fetchPart s l ld p).1 := by
  unfold fetchPart
  split
  · exact work_notePoison h
  · exact work_peerReads h
  · split
    · split
      · exact h
      · exact work_vecAddrError h
    · exact h
  · exact h

theorem work_fetchParts {ld : VLoad} {ps : List LoadPart} (h : Work z s) : Work z (fetchParts s l ld ps).1 :=
  work_foldl_fst (fun _ _ => work_fetchPart) h

theorem work_issueLoad {kind : LoadKind} {ps : List LoadPart} (h : Work z s) : Work z (issueLoad s l vd kind w ps) :=
  work_ite (work_vecAddrError (work_modVec h))
    (work_ite (work_modVec (work_fetchParts (work_performStores h))) (work_modVec (work_fetchParts (work_performStores h))))

theorem work_issueStb {f : VFields} (h : Work z s) : Work z (issueStb s l f) := work_issueStore (work_modVec h)

theorem putEntryBits_works {y : Lantern} {k : EntryFmt} {e i : Nat} {p : EntryBits} : LanternWorks y (putEntryBits y k e i p) := by
  unfold putEntryBits
  repeat' split
  all_goals exact ⟨rfl, rfl, rfl, id⟩

theorem modEntries_works {y : Lantern} {g : Lantern → Nat → Lantern} (hg : ∀ y i, LanternWorks y (g y i)) :
    LanternWorks y (modEntries y w g) :=
  List.foldlRecOn (motive := LanternWorks y) _ g ⟨rfl, rfl, rfl, id⟩ fun u hu i _ =>
    ⟨(hg u i).phys.trans hu.phys, (hg u i).mooring.trans hu.mooring, (hg u i).rst.trans hu.rst, fun h => hu.running ((hg u i).running h)⟩

theorem work_issueMergeAdd {f : VFields} (h : Work z s) : Work z (issueMergeAdd s l f) := by
  unfold issueMergeAdd
  dsimp only
  split
  · exact work_vecAddrError h
  · exact .lantern (modEntries_works fun _ _ => putEntryBits_works) h

theorem work_issueMergeGet {f : VFields} {take : Bool} (h : Work z s) : Work z (issueMergeGet s l f take) := by
  unfold issueMergeGet
  dsimp only
  split
  · exact work_vecAddrError (work_modVec h)
  · exact work_ite (.lantern (modEntries_works fun _ _ => putEntryBits_works) (work_modVec h)) (work_modVec h)

/-- An instruction is a lane instruction, a merge, a load or a store, or does nothing (R126). -/
theorem work_effect {op : Nat} {f : VFields} (h : Work z s) : Work z (effect s l op f) := by
  unfold effect
  dsimp only
  split
  case h_52 => exact work_issueMergeAdd h
  case h_53 | h_54 => exact work_issueMergeGet h
  case h_59 | h_61 | h_63 => exact work_issueLoad h
  case h_60 => exact work_issueStb h
  case h_62 | h_64 => exact work_issueStore h
  case h_65 => exact h
  all_goals exact work_modVec h

theorem work_runIns {i : VIns} (h : Work z s) : Work z (runIns s l i) := work_bumpBeacon (work_modVec (work_effect h))

theorem work_runAll {is : List VIns} (h : Work z s) : Work z (is.foldl (fun s i => runIns s l i) s) :=
  work_foldl (fun _ _ => work_runIns) h

theorem work_runList {is : List VIns} (h : Work z s) : Work z (runList l is s) := by
  induction is generalizing s with
  | nil => exact work_modVec h
  | cons i is ih => exact work_ite (work_modVec h) (ih (work_runIns h))

theorem work_chainRow {j : BindJob} {i : Nat} {d : Option DrainRow} (h : Work z s) : Work z (chainRow s l j i d) :=
  work_ite (.lantern ⟨rfl, rfl, rfl, id⟩ h) (work_runList (.lantern ⟨rfl, rfl, rfl, id⟩ h))

theorem work_chainTail {j : BindJob} {i : Nat} (h : Work z s) : Work z (chainTail s l j i) := work_runList (work_modVec h)

theorem work_arriveLoad (h : Work z s) : Work z (arriveLoad s l) := by
  unfold arriveLoad
  dsimp only
  split
  · exact h
  · exact work_ite (work_runList (work_modVec h)) h

/-! ### Machine/Stream.lean, Dma.lean -/

theorem work_bumpChan {i : Nat} (h : Work z s) : Work z (bumpChan s c i n) := work_modChan h

theorem work_writePiece {ctx : Ctx} {y : Writing} {p : Nat × List Byte} (h : Work z y.s) : Work z (writePiece c ctx y p).s := by
  unfold writePiece
  dsimp only
  split
  · exact work_writeMem h
  · exact work_peerWrites h
  · split
    · split
      · exact work_hostWrite h
      · exact h
    · exact h
  · exact h

theorem work_writeSome {ctx : Ctx} {y : Writing} {ps : List (Nat × List Byte × Bool)} (h : Work z y.s) :
    Work z (writeSome c ctx y ps).s := by
  refine work_foldlWriting (fun y p hy => ?_) (work_openCells h)
  split
  · exact hy
  · exact work_writePiece hy

theorem work_overlapBytes {reads : List (Nat × Nat × Nat)} {todo : List (Nat × Nat × Byte)} {done : List (Nat × Byte)}
    (h : Work z s) : Work z (overlapBytes s reads todo done).1 := by
  induction todo generalizing s done with
  | nil => exact h
  | cons y ys ih =>
    unfold overlapBytes
    split
    · exact ih h
    · exact ih (work_drawFree h)

theorem work_overlapPieces {ctx : Ctx} {j : DmaJob} {d : DmaOut} (h : Work z s) : Work z (overlapPieces s ctx j d).1 := by
  unfold overlapPieces
  split
  · exact work_overlapBytes h
  · exact h

theorem work_dmaRetire (h : Work z s) : Work z (dmaRetire s c) := by
  unfold dmaRetire
  dsimp only
  split
  · exact work_bumpBeacon (work_bumpChan h)
  · exact work_bumpChan h

theorem work_dmaBad {r : DescRef} {cause addr : Nat} (h : Work z s) : Work z (dmaBad s c r cause addr) := by
  unfold dmaBad
  dsimp only
  have h1 : Work z (bumpChan s c cause 1) := work_bumpChan h
  split
  · refine work_ite (work_modChan h1) (work_raiseEventIn ?_)
    have h2 : Work z (if cause = causeCounter then bumpChan s c cause 1 else setFault (bumpChan s c cause 1) ‹_›) :=
      work_ite h1 (work_setFault h1)
    split
    · exact work_ite (.mooring (fun _ => rfl) (.mooring (fun _ => rfl) h2)) (.mooring (fun _ => rfl) h2)
    · exact h2
  · exact work_modChan h1

theorem work_noteJobPoison {j : DmaJob} {used : Nat} (h : Work z s) : Work z (noteJobPoison s c j used) :=
  work_foldl (fun _ _ => work_notePoisonLine) h

theorem work_performJob {priv : Bool} {j : DmaJob} {lost : List (Nat × Nat)} {forced : Nat × Nat} (h : Work z s) :
    Work z (performJob s c priv j lost forced).s := by
  unfold performJob
  dsimp only
  refine work_ite (work_bumpChan (work_bumpChan (work_bumpChan ?_))) (work_bumpChan ?_)
  all_goals
    refine work_iteWriting (work_foldlWriting (fun _ _ => work_writePiece) ?_) (work_writeSome ?_)
    all_goals exact work_noteJobPoison (work_bumpChan (work_overlapPieces h))

theorem work_badFlight {f : DmaFlight} {tags : List Nat} {cause addr : Nat} (h : Work z s) :
    Work z (badFlight s c f tags cause addr) := work_dmaRetire (work_dmaBad (work_ite h (work_modChan h)))

theorem work_performFlight {f : DmaFlight} {j : DmaJob} {lost : List (Nat × Nat)} {forced : Nat × Nat} (h : Work z s) :
    Work z (performFlight s c f j lost forced) :=
  work_ite (work_modChan (work_performJob h)) (work_badFlight (work_performJob h))

theorem work_takeFlight {p : DmaFlight → Bool} (h : Work z s) : Work z (takeFlight s c p).2 := by
  unfold takeFlight
  split
  · exact h
  · exact work_modChan h

theorem work_settleCopy (h : Work z s) : Work z (settleCopy s c) := by
  unfold settleCopy
  split
  · exact h
  · refine work_ite h ?_
    split
    · exact h
    · exact work_finishOp h

theorem work_dmaAnswer {r : PeerReq} (h : Work z s) : Work z (dmaAnswer s c r bs status) := by
  unfold dmaAnswer
  dsimp only
  split
  · exact h
  · refine work_settleCopy (work_ite (work_ite (work_modChan h) (work_modChan h)) (work_ite ?_ ?_))
    · split
      · exact work_performFlight (work_modChan h)
      · exact work_badFlight (work_modChan h)
    · split
      · exact work_ite (work_performFlight (work_modChan h)) (work_modChan h)
      · exact work_modChan h

theorem work_badAtIssue {p : DmaProg} {cause addr : Nat} (h : Work z s) : Work z (badAtIssue s c p tensor cause addr) :=
  work_modChan (work_dmaRetire (work_dmaBad h))

theorem work_signalStep (h : Work z s) : Work z (signalStep s c) := by
  unfold signalStep
  dsimp only
  refine work_ite h ?_
  split
  · split
    · exact work_badAtIssue h
    · have h1 {k : Nat} {f : List Nat → List Nat} : Work z (modLantern s k (fun y => { y with events := f y.events })) :=
        .lantern ⟨rfl, rfl, rfl, id⟩ h
      exact work_modChan (work_dmaRetire (work_ite (work_dmaBad h1) h1))
  · exact h

theorem work_retireFlight (h : Work z s) : Work z (retireFlight s c) := by
  unfold retireFlight
  split
  · rename_i hf
    have h1 := work_of_snd (work_takeFlight h) hf
    split
    · exact work_dmaRetire h1
    · exact work_ite (work_badFlight (work_performJob h1))
        (work_ite (work_modChan (work_performJob h1)) (work_dmaRetire (work_performJob h1)))
  · exact h

theorem work_stopChannel (h : Work z s) : Work z (stopChannel s c) :=
  work_ite (work_modChan (work_bumpChan h)) (work_modChan (work_ite (work_dmaRetire (work_bumpChan h)) (work_bumpChan h)))

/-! ### Machine/Update.lean -/

theorem work_loadRow {kind : LoadKind} {ps : List LoadPart} (h : Work z s) : Work z (loadRow s l vd kind w ps) :=
  have h1 := work_bumpBeacon (work_modVec (work_fetchParts h))
  work_ite (work_vecAddrError h1) h1

theorem work_loadBlocks {qs : List (Nat × Nat)} (h : Work z s) : Work z (loadBlocks s l vd x w qs) := work_loadRow h

theorem work_storeBlocks {qs : List (Nat × Nat)} (h : Work z s) : Work z (storeBlocks s l va x w qs) :=
  work_bumpBeacon (work_modVec (work_foldl (fun _ _ hs => work_performPiece (work_performPiece hs)) h))

theorem work_jamRecs {f : Nat → Rec} (h : Work z s) : Work z (jamRecs s l vd w f) := work_runIns (work_modVec h)

theorem work_copyLines {src dst : Nat} (h : Work z s) : Work z (copyLines s l src dst n) :=
  work_foldl (fun _ _ hs => work_ite (work_addPoison hs) (work_performPiece hs)) h

theorem work_saveBlock {b : Nat} {own : Bool} (h : Work z s) : Work z (saveBlock s l id tensor x b own) := by
  unfold saveBlock
  split
  · exact h
  · exact .mooring (fun _ => rfl) (work_performPiece (work_copyLines (work_copyLines h)))

theorem work_saveBlocks {ks : List Nat} {own : Bool} (h : Work z s) : Work z (saveBlocks s l id tensor x ks own) :=
  work_foldl (fun _ _ => work_saveBlock) h

theorem work_noteShard {b : Nat} (h : Work z s) : Work z (noteShard s l x b n) := work_notePoison (work_notePoison h)

theorem work_gradRow {geo : RowGeom} (h : Work z s) : Work z (gradRow s l x a geo w) :=
  work_runIns (work_runIns (work_loadRow h))

theorem work_loadElem {e : Nat} (h : Work z s) : Work z (loadElem s l vd x w e) := by
  unfold loadElem
  exact work_modVec (work_loadRow h)

theorem work_loadTotal {e : Nat} (h : Work z s) : Work z (loadTotal s l vd x w e) := work_jamRecs (work_loadRow h)

theorem work_loadElems {e : Nat → Nat} (h : Work z s) : Work z (loadElems s l vd x w e) :=
  work_runAll (work_jamRecs (work_foldl (fun _ _ => work_noteShard) h))

theorem work_raiseConds {k : Conds} (h : Work z s) : Work z (raiseConds s l k) := work_modVec h

theorem work_storeMat {b : Nat} {gs : List (List Dyad)} (h : Work z s) : Work z (storeMat s l id tensor x b gs) :=
  work_foldl (fun _ _ hs => work_performPiece (work_performPiece (work_saveBlock hs))) (work_raiseConds h)

theorem work_factorRow {ch : Chain} {u : UpdDesc} {out k i : Nat} {rs : List (List Dyad)} (h : Work z s) :
    Work z (factorRow l ch u id tensor out x k rs s i) :=
  work_storeBlocks (work_runAll (work_saveBlocks (work_loadRow (work_jamRecs (work_modVec h)))))

theorem work_refreshFactor {u : UpdDesc} {g : Group} {k side : Nat} {m : Mat} (h : Work z s) :
    Work z (refreshFactor s l id u g x k tile m side).1 := by
  unfold refreshFactor
  dsimp only
  split
  · exact .mooring (fun _ => rfl) (work_foldl (fun _ _ => work_storeMat) (work_raiseConds h))
  · exact work_raiseEventIn (work_raiseConds h)

theorem work_refreshTile {u : UpdDesc} {g : Group} {k : Nat} {gl gr : Mat} (h : Work z s) :
    Work z (refreshTile s l id desc u g x k tile gl gr) :=
  work_ite (.mooring (fun _ => rfl) h) (.mooring (fun _ => rfl) (work_refreshFactor (work_refreshFactor h)))

theorem work_tileFactors {ch : Chain} {u : UpdDesc} {gp : Group} {g gl gr q : ShardAt} {rows : List (Nat × BitVec 128)}
    (h : Work z s) : Work z (tileFactors s l ch id desc u gp x g gl gr q rows tile) :=
  have h2 := work_foldl (fun _ _ => work_factorRow) (work_foldl (fun _ _ => work_factorRow) (work_raiseConds h))
  work_ite (work_refreshTile h2) h2

theorem work_writeDirection {mm q dir : ShardAt} {rows : List (Nat × BitVec 128)} (h : Work z s) :
    Work z (writeDirection s l x mm q dir rows tile) :=
  work_foldl (fun _ _ => work_foldl fun _ _ hs => work_performPiece (work_performPiece (work_raiseConds hs)))
    (work_raiseConds (work_foldl (fun _ _ => work_noteShard) (work_noteShard h)))

theorem work_tileWork {ch : Chain} {u : UpdDesc} {gp : Group} {g mm gl gr q dir : ShardAt} {rows : List (Nat × BitVec 128)}
    (h : Work z s) : Work z (tileWork s l ch id desc u gp x g mm gl gr q dir rows tile) :=
  work_ite (work_tileFactors h) (work_writeDirection (work_tileFactors h))

theorem work_matLanes {f : Nat → Dyad} (h : Work z s) : Work z (matLanes s l vd w f) := work_runAll (work_jamRecs h)

theorem work_applyInputs {m : Mooring} {mm gl gr dir : ShardAt} {geo : RowGeom} (h : Work z s) :
    Work z (applyInputs s l desc m x mm gl gr dir geo w).1 := by
  unfold applyInputs
  dsimp only
  split
  · split
    all_goals dsimp only
    · exact work_modVec (work_matLanes (work_matLanes (work_loadBlocks (work_noteShard (work_noteShard h)))))
    · exact work_runAll (work_jamRecs (work_matLanes (work_matLanes (work_loadBlocks (work_noteShard (work_noteShard h))))))
  · exact work_loadBlocks h

theorem work_rowLoads {r : UpdateRun} {k : UpdCtx} {geo : RowGeom} (h : Work z s) : Work z (rowLoads s l r k geo w) := by
  unfold rowLoads
  dsimp only
  generalize hr : List.foldl _ _ _ = u
  have hu : Work z u := by
    rw [← hr]
    refine work_foldl (fun s q hs => ?_) (work_loadRow h)
    split
    · exact work_loadRow hs
    · exact hs
  refine work_ite ?_ hu
  split
  · exact work_loadTotal (work_ite (work_loadRow (work_loadElem hu)) (work_loadElem (work_loadElems hu)))
  · exact hu

theorem work_rowUndo {r : UpdateRun} {k : UpdCtx} {geo : RowGeom} (h : Work z s) : Work z (rowUndo s l r k geo w) := by
  unfold rowUndo
  refine work_ite h (work_foldl (fun s q hs => ?_) (work_saveBlocks h))
  split
  · exact work_saveBlocks hs
  · exact hs

theorem work_beginUpdateRow {j : BindJob} {r : UpdateRun} {k : UpdCtx} {i rid : Nat} (h : Work z s) :
    Work z (beginUpdateRow s l j r k i rid w) := by
  unfold beginUpdateRow
  refine work_ite ?_ (work_runList (work_rowUndo (work_rowLoads (work_gradRow (work_modVec (work_modVec h))))))
  split
  · exact work_runList (work_applyInputs (work_loadRow (work_modVec (work_modVec h))))
  · exact work_modVec (work_modVec h)

theorem work_tileReady {j : BindJob} {r : UpdateRun} {k : UpdCtx} (h : Work z s) : Work z (tileReady l j r k s tile) := by
  unfold tileReady
  refine work_ite h (.mooring (fun _ => rfl) ?_)
  split
  · exact work_tileWork h
  · exact h

theorem work_afterTile {j : BindJob} {r : UpdateRun} {k : UpdCtx} {rid : Nat} (h : Work z s) : Work z (afterTile s l j r k rid) :=
  work_ite h (work_tileReady (.mooring (fun _ => rfl) h))

theorem work_endUpdateRow {j : BindJob} {r : UpdateRun} {i : Nat} (h : Work z s) : Work z (endUpdateRow s l j r i) := by
  unfold endUpdateRow
  split
  · refine work_afterTile (work_foldl (fun s q hs => ?_) (work_ite h (work_storeBlocks h)))
    split
    · exact work_storeBlocks hs
    · exact hs
  · exact h

theorem work_finishUpdateRow (h : Work z s) : Work z (finishUpdateRow s l) := by
  unfold finishUpdateRow
  dsimp only
  split
  · exact h
  · split
    · exact h
    · exact work_ite (work_endUpdateRow (work_modVec h)) h

theorem work_updateRow {j : BindJob} {r : UpdateRun} {i : Nat} (h : Work z s) : Work z (updateRow s l j r i) := by
  unfold updateRow
  dsimp only
  have h1 : Work z (modLantern s l (fun x => countRow x none)) := .lantern ⟨rfl, rfl, rfl, id⟩ h
  split
  · exact work_ite h1 (work_finishUpdateRow (work_modVec (work_beginUpdateRow h1)))
  · exact h1

theorem work_startNextRow (h : Work z s) : Work z (startNextRow s l) := by
  unfold startNextRow
  have h1 : Work z (finishUpdateRow s l) := work_finishUpdateRow h
  refine work_ite h ?_
  dsimp only
  split
  · exact h1
  · split
    · exact h1
    · refine work_ite h1 ?_
      split
      · exact work_ite (.lantern ⟨rfl, rfl, rfl, id⟩ (work_performStores h1))
          (work_ite h1 (work_updateRow (work_performStores h1)))
      · exact work_chainRow (work_performStores h1)
    · exact work_ite h1 (work_chainTail (work_performStores h1))

theorem boundaryBooks_gather (m : Mooring) (fl : BitVec 16) (phase : Nat) (k : Option Nat) (v : VEngine) :
    boundaryBooks (gatherLadder (gatherFlags m fl phase) k v) = boundaryBooks m := by
  cases k <;> rfl

theorem work_retireBinding (h : Work z s) : Work z (retireBinding s l) := by
  unfold retireBinding
  have h1 : Work z (performStores (finishUpdateRow s l) l) := work_performStores (work_finishUpdateRow h)
  refine work_ite h (work_ite h1 ?_)
  split
  · exact h1
  · have h2 (u : State) (hu : Work z u) {r : Option UpdateRun} : Work z (match r with
        | none => bumpEvent (modVec u l (fun v => { v with cur := none })) l 13 1
        | some r => if r.kind = 2 then modVec u l (fun v => { v with cur := none })
          else bumpEvent (modVec u l (fun v => { v with cur := none })) l 15 1) := by
      split
      · exact work_bumpEvent (work_modVec hu)
      · exact work_ite (work_modVec hu) (work_bumpEvent (work_modVec hu))
    refine h2 _ ?_
    split
    · exact .mooring (fun m => boundaryBooks_gather m _ _ _ _) h1
    · exact h1

/-! ### Machine/Endpoint.lean -/

theorem work_vecLoadAnswer {key : Nat} (h : Work z s) : Work z (vecLoadAnswer s l tag key bs status) := by
  unfold vecLoadAnswer
  split
  · exact h
  · exact work_ite (work_modVec h) (work_vecAddrErrorAt (work_modVec h))

theorem work_vecStoreAnswer (h : Work z s) : Work z (vecStoreAnswer s l row index tag status) :=
  work_ite h (work_ite (work_modVec h) (work_vecAddrErrorAt (work_modVec h)))

theorem work_collFault {i : CollInst} (h : Work z s) : Work z (collFault s l i) := by
  unfold collFault
  have h1 : Work z (modLantern s l (fun x => { x with coll := x.coll.erase i })) := .lantern ⟨rfl, rfl, rfl, id⟩ h
  dsimp only
  split
  · exact h1
  · exact .mooring (fun _ => rfl) h1

theorem work_collAnswer {key : Nat} (h : Work z s) : Work z (collAnswer s l tag key bs status) := by
  unfold collAnswer
  split
  · exact h
  · exact work_ite (.lantern ⟨rfl, rfl, rfl, id⟩ h) (work_collFault (.lantern ⟨rfl, rfl, rfl, id⟩ h))

theorem work_deliverAnswer {r : PeerReq} (h : Work z s) : Work z (deliverAnswer s r bs status) := by
  unfold deliverAnswer
  have h1 : Work z (modRouter s (fun x => { x with reqs := x.reqs.erase r })) := work_modRouter h
  dsimp only
  split
  · exact work_dmaAnswer h1
  · exact work_dmaAnswer h1
  · exact work_vecLoadAnswer h1
  · exact work_vecStoreAnswer h1
  · exact work_keeperAnswer h1
  · exact work_ite h1 (.core h1)
  · exact work_collAnswer h1

/-! ### Machine/Runs.lean -/

theorem work_awaitAnswers (h : Work z s) : Work z (awaitAnswers s l) :=
  work_foldl (fun _ _ hs => work_deliverAnswer (work_drawFree (work_freeBytes hs))) h

theorem work_settleChannels (h : Work z s) : Work z (settleChannels s l) :=
  work_foldl (fun _ _ hs => work_signalStep (work_retireFlight hs)) h

theorem work_settleOnce (h : Work z s) : Work z (settleOnce s l) :=
  work_settleChannels (work_retireLens (work_retireBinding (work_startNextRow
    (work_drainOnce (work_startDrain (work_releaseTile (work_arriveLoad (work_awaitAnswers h))))))))

theorem work_settleWork {k : Nat} (h : Work z s) : Work z (settleWork l k s) := by
  induction k generalizing s with
  | zero => exact h
  | succ k ih =>
    unfold settleWork
    exact work_ite (work_settleOnce h) (ih (work_settleOnce h))

theorem work_stopChannels (h : Work z s) : Work z (stopChannels s l) :=
  work_foldl (fun _ _ hs => work_ite hs (work_stopChannel hs)) h

theorem dropWaiting_works {y : Lantern} : LanternWorks y (dropWaiting y) := ⟨rfl, rfl, rfl, fun h => nomatch h⟩

theorem dropWork_works {y : Lantern} : LanternWorks y (dropWork y) := ⟨rfl, rfl, rfl, fun h => nomatch h⟩

theorem work_windDownLantern (h : Work z s) : Work z (windDownLantern s l) :=
  .lantern dropWork_works (work_performStores (work_settleWork (work_stopChannels (.lantern dropWaiting_works h))))

/-- Winding down a mooring is work of its lanterns (R223). -/
theorem work_windDown (h : Work z s) : Work z (windDown s id) := work_foldl (fun _ _ => work_windDownLantern) h

end

end Sys2Proof.Machine
end

section
/-! PROOFS. What work leaves of moorings, lanterns and the Keeper's books; a mooring wound down stands still (R223). -/

namespace Sys2Proof.Machine

section
variable {z s : State} {id : Nat} {m : Mooring}

/-! ### What work leaves -/

theorem Work.moorings (h : Work z s) : s.moorings.map boundaryBooks = z.moorings.map boundaryBooks := by
  induction h with
  | mooring hf _ ih =>
    rw [← ih, modMooring_moorings, List.map_map]
    refine List.map_congr_left fun m _ => ?_
    dsimp only [Function.comp]
    split
    · exact hf m
    · rfl
  | outward ho _ ih => rw [ho.1.2.2.1, ih]
  | refl => rfl
  | lantern _ _ ih | channel _ ih | keeper _ _ ih | core _ ih | memory _ ih | event _ ih => exact ih

theorem mooringAt_boundaryBooks (s : State) (id : Nat) :
    (mooringAt s id).map boundaryBooks = (s.moorings.map boundaryBooks).find? (fun m => m.desc.id == id) := by
  unfold mooringAt
  rw [List.find?_map]
  rfl

/-- A mooring through its lanterns' work: only what the step gathers has changed. -/
theorem Work.mooringAt (h : Work z s) (hm : mooringAt z id = some m) :
    ∃ n, Machine.mooringAt s id = some n ∧ boundaryBooks n = boundaryBooks m := by
  have he : (Machine.mooringAt s id).map boundaryBooks = some (boundaryBooks m) := by
    rw [mooringAt_boundaryBooks, h.moorings, ← mooringAt_boundaryBooks, hm]
    rfl
  exact Option.map_eq_some_iff.1 he

theorem Work.boot (h : Work z s) : s.boot = z.boot := by
  induction h with
  | outward ho _ ih => exact ho.1.2.1.trans ih
  | refl => rfl
  | lantern _ _ ih | channel _ ih | mooring _ _ ih | keeper _ _ ih | core _ ih | memory _ ih | event _ ih => exact ih

theorem Work.keeper_works (h : Work z s) : KeeperWorks z.keeper s.keeper := by
  induction h with
  | keeper hf _ ih => exact ⟨(hf _).books.trans ih.books, (hf _).ops.trans ih.ops⟩
  | outward ho _ ih =>
    refine ⟨Eq.trans ?_ ih.books, ho.books.1 ▸ ih.ops⟩
    exact (congrArg standingBooks ho.2.2.1 :)
  | refl => exact ⟨rfl, .refl _⟩
  | lantern _ _ ih | channel _ ih | mooring _ _ ih | core _ ih | memory _ ih | event _ ih => exact ih

theorem Work.ops_nil (h : Work z s) (ho : z.keeper.ops = []) : s.keeper.ops = [] :=
  List.sublist_nil.1 (ho ▸ h.keeper_works.ops)

theorem Work.leaveAt (h : Work z s) : s.keeper.leaveAt = z.keeper.leaveAt := by
  have hb := congrArg Keeper.leaveAt h.keeper_works.books
  exact hb

theorem LanternWorks.trans {x y w : Lantern} (h : LanternWorks x y) (k : LanternWorks y w) : LanternWorks x w :=
  ⟨k.phys.trans h.phys, k.mooring.trans h.mooring, k.rst.trans h.rst, fun hr => h.running (k.running hr)⟩

theorem Work.lanternAt (h : Work z s) (k : Nat) : LanternWorks (lanternAt z k) (lanternAt s k) := by
  induction h with
  | lantern hf _ ih =>
    refine ih.trans ?_
    rw [lanternAt_modLantern]
    split
    · rename_i hk
      rw [hk.1]
      exact hf
    · exact ⟨rfl, rfl, rfl, id⟩
  | outward ho _ ih => rwa [lanternAt_of_units ho.1]
  | refl => exact ⟨rfl, rfl, rfl, id⟩
  | channel _ ih | mooring _ _ ih | keeper _ _ ih | core _ ih | memory _ ih | event _ ih => exact ih

theorem Work.idle (h : Work z s) {k : Nat} (hk : (Machine.lanternAt z k).running = false) :
    (Machine.lanternAt s k).running = false := by
  by_contra hr
  exact Bool.false_ne_true (hk.symm.trans ((h.lanternAt k).running (Bool.not_eq_false _ ▸ hr)))

/-! ### A mooring wound down -/

theorem dropWork_idle (s : State) (l : Nat) : (lanternAt (modLantern s l dropWork) l).running = false := by
  rw [lanternAt_modLantern]
  split
  · rfl
  · rename_i hl
    have hn : s.lanterns.length ≤ l := Nat.le_of_not_lt fun h => hl ⟨rfl, h⟩
    rw [show lanternAt s l = Lantern.reset from List.getD_eq_default _ _ hn]
    rfl

theorem windDownLantern_idle (s : State) (l : Nat) : (lanternAt (windDownLantern s l) l).running = false :=
  dropWork_idle _ l

theorem work_windDownAll (h : Work z s) (ls : List Nat) : Work z (ls.foldl windDownLantern s) :=
  work_foldl (fun _ _ => work_windDownLantern) h

theorem windDownAll_idle (ls : List Nat) {k : Nat} (hk : k ∈ ls) :
    ∀ s, (lanternAt (ls.foldl windDownLantern s) k).running = false := by
  induction ls with
  | nil => exact absurd hk List.not_mem_nil
  | cons l ls ih =>
    intro s
    rw [List.foldl_cons]
    by_cases hl : k ∈ ls
    · exact ih hl _
    · obtain rfl : k = l := (List.mem_cons.1 hk).resolve_right hl
      generalize hu : windDownLantern s k = u
      have hi : (lanternAt u k).running = false := hu ▸ windDownLantern_idle s k
      exact (work_windDownAll .refl ls).idle hi

/-- Every lantern of the mooring stands still (R223). -/
theorem windDown_idle (s : State) (id : Nat) : ∀ l ∈ lanternsOf s id, (lanternAt (windDown s id) l).running = false :=
  fun _ hl => windDownAll_idle _ hl s

end

end Sys2Proof.Machine
end

section
/-! PROOFS. Contributions to a verdict and the timer that runs until it comes (R212, R214, R215). -/

namespace Sys2Proof.Machine

section
variable {s t : State} {id : Nat} {m y : Mooring} {b : Bool}

/-! ### A mooring and its place in the state -/

theorem mooringAt_id (hm : mooringAt s id = some m) : m.desc.id = id := by
  simpa using List.find?_some hm

theorem mooringAt_mod (hm : mooringAt s id = some m) {f : Mooring → Mooring} (hf : ∀ y, (f y).desc.id = y.desc.id) :
    mooringAt (modMooring s id f) id = some (f m) := by
  rw [mooringAt_modMooring_same s id f hf, hm]
  rfl

theorem Outward.mooring (h : Outward s t) (hm : mooringAt s id = some m) : mooringAt t id = some m :=
  (mooringAt_of_units h.1 id).trans hm

theorem runActive_of_going (h : m.run = .running ∨ m.run = .stopping) : runActive m = true := by
  unfold runActive
  rcases h with h | h <;> rw [h] <;> rfl

theorem outward_tellRaises (m : Mooring) : Outward s (tellRaises s m) :=
  outward_foldl (fun s t => outward_tellNodes (s := s) (.raise m.desc.id t) _) _

theorem outward_sendVerdict (m : Mooring) (dest step : Nat) (v : Verdict) : Outward s (sendVerdict s m dest step v) :=
  outward_sendSeq 0 _

/-! ### The contribution to the step in hand (R212, R214) -/

/-- What the mooring is once v is its contribution. -/
def contributed (y : Mooring) (v : Verdict) : Mooring :=
  { y with
    contrib := some v
    sentFlags := y.flags
    sentBad := y.bad
    provisional := some y.step
    step := y.step + 1
    stepOn := false
    timer := true }

/-- The contribution goes up at most once; nothing else of the mooring changes. -/
theorem forwardUp_mooring (hm : mooringAt s id = some m) :
    ∃ b, mooringAt (forwardUp s id) id = some { m with forwarded := b } := by
  unfold forwardUp
  rw [hm]
  dsimp only
  split
  next =>
    split
    · exact ⟨m.forwarded, hm⟩
    · exact ⟨true, (outward_sendVerdict _ _ _ _).mooring (mooringAt_mod hm fun _ => rfl)⟩
  next => exact ⟨m.forwarded, hm⟩

/-- An early contribution winds the work down first, which leaves what the step does not gather. -/
theorem contribute_mooring (hm : mooringAt s id = some m) (early : Bool) : ∃ y b, boundaryBooks y = boundaryBooks m ∧
    mooringAt (contribute s id early) id = some { contributed y (ownVerdict s m) with forwarded := b } := by
  have hw : Work s (tellRaises (if early then windDown s id else s) m) :=
    .outward (outward_tellRaises m) (work_ite (work_windDown .refl) .refl)
  obtain ⟨y, hy, hb⟩ := hw.mooringAt hm
  unfold contribute
  rw [hm]
  obtain ⟨b, hf⟩ := forwardUp_mooring (mooringAt_mod hy (f := fun y => contributed y (ownVerdict s m)) fun _ => rfl)
  exact ⟨y, b, hb, hf⟩

/-- A step of a training run is in hand, and nothing keeps it from ending. -/
def StepInHand (m : Mooring) : Prop :=
  m.desc.kind = 0 ∧ runActive m = true ∧ m.stepOn = true ∧ m.moving = none ∧ m.due = []

/-- FAULT or VERSION: the contribution is formed at once. -/
def failing (v : Verdict) : Bool := v.fault || v.version

theorem failing_true {v : Verdict} : failing v = true ↔ v.fault = true ∨ v.version = true := Bool.or_eq_true_iff

theorem failing_false {v : Verdict} : failing v = false ↔ v.fault = false ∧ v.version = false := Bool.or_eq_false_iff

theorem execVerdictContribution_inHand (hm : mooringAt s id = some m) (h : StepInHand m) :
    execVerdictContribution id s = .next
      (if m.provisional.isSome then (if failing (ownVerdict s m) then contributeAhead s id else s)
      else if failing (ownVerdict s m) = true ∨ (lanternsOf s id).all (fun l => (lanternAt s l).endRetired) = true then
        contribute s id (failing (ownVerdict s m))
      else s) := by
  obtain ⟨hk, hr, hs, hmv, hd⟩ := h
  unfold execVerdictContribution
  rw [hm]
  dsimp only
  rw [if_pos ⟨hk, hr, hs, hmv ▸ rfl, hd ▸ rfl⟩]
  rfl

/-- The first step in hand contributes when its lanterns have ended, or at once with FAULT or VERSION. -/
theorem execVerdictContribution_due (hm : mooringAt s id = some m) (h : StepInHand m) (hp : m.provisional = none)
    (hd : failing (ownVerdict s m) = true ∨ ∀ l ∈ lanternsOf s id, (lanternAt s l).endRetired = true) :
    execVerdictContribution id s = .next (contribute s id (failing (ownVerdict s m))) := by
  rw [execVerdictContribution_inHand hm h, hp, Option.isSome_none, if_neg Bool.false_ne_true, if_pos (hd.imp_right List.all_eq_true.2)]

theorem execVerdictContribution_notDue (hm : mooringAt s id = some m) (h : StepInHand m) (hp : m.provisional = none)
    (hf : failing (ownVerdict s m) = false) (he : ¬ ∀ l ∈ lanternsOf s id, (lanternAt s l).endRetired = true) :
    execVerdictContribution id s = .next s := by
  rw [execVerdictContribution_inHand hm h, hp, Option.isSome_none, if_neg Bool.false_ne_true, if_neg]
  rw [hf]
  exact fun hc => he (List.all_eq_true.1 (hc.resolve_left Bool.false_ne_true))

/-! ### The step after one that awaits its verdict (R214) -/

theorem execVerdictContribution_second {u : Nat} (hm : mooringAt s id = some m) (h : StepInHand m)
    (hp : m.provisional = some u) : execVerdictContribution id s = .next
      (if failing (ownVerdict s m) = true then contributeAhead s id else s) := by
  rw [execVerdictContribution_inHand hm h, hp, Option.isSome_some, if_pos rfl]

/-- What the mooring is once v is the contribution to the step after the one that awaits its verdict. -/
def contributedAhead (y : Mooring) (v : Verdict) : Mooring :=
  { y with
    stepOn := false
    ahead := { y.ahead with
      contrib := some v
      flags := y.flags
      bad := y.bad
      timer := true } }

/-- The work ends, and the contribution waits its turn, though it goes up at once. -/
theorem contributeAhead_mooring {u : Nat} (hm : mooringAt s id = some m) (hp : m.provisional = some u) (hs : m.stepOn = true)
    (ha : m.ahead.contrib = none) (hd : m.due = []) : ∃ y, boundaryBooks y = boundaryBooks m ∧
      mooringAt (contributeAhead s id) id = some (contributedAhead y (ownVerdict s m)) ∧
      ∀ l ∈ lanternsOf s id, (lanternAt (contributeAhead s id) l).running = false := by
  have ho : Outward (windDown s id) (tellRaises (windDown s id) m) := outward_tellRaises m
  obtain ⟨y, hy, hb⟩ := (work_windDown .refl).mooringAt hm
  have hidle : ∀ l ∈ lanternsOf s id, (lanternAt (tellRaises (windDown s id) m) l).running = false :=
    fun l hl => (lanternAt_of_units ho.1 l).symm ▸ windDown_idle s id l hl
  have hz := mooringAt_mod (ho.mooring hy) (f := fun y => contributedAhead y (ownVerdict s m)) fun _ => rfl
  unfold contributeAhead
  rw [hm]
  dsimp only
  rw [if_neg (by rw [ha, hd]; decide), show (m.provisional.isSome && m.stepOn) = true by rw [hp, hs]; rfl]
  generalize hu : modMooring (tellRaises _ m) id _ = u
  obtain rfl : modMooring (tellRaises (windDown s id) m) id (fun y => contributedAhead y (ownVerdict s m)) = u := by
    rw [← hu]
    congr 1
    funext y
    unfold contributedAhead
    rw [Bool.not_true, Bool.and_false]
    rfl
  rw [hz]
  dsimp only
  generalize parentNode _ _ = parent
  generalize aheadCombined _ = up
  cases parent with
  | none => exact ⟨y, hb, hz, hidle⟩
  | some n =>
    cases up with
    | none => exact ⟨y, hb, hz, hidle⟩
    | some w =>
      have hv := outward_sendVerdict (s := modMooring (tellRaises (windDown s id) m) id fun y => contributedAhead y (ownVerdict s m))
        (contributedAhead y (ownVerdict s m)) n (aheadStep (contributedAhead y (ownVerdict s m))) w
      exact ⟨y, hb, hv.mooring hz, fun l hl => (congrArg Lantern.running (lanternAt_of_units hv.1 l)).trans (hidle l hl)⟩

end

end Sys2Proof.Machine
end

section
/-! PROOFS. The timer of a verdict, tender copies and their announcement (R215, R358, R359, R362). -/

namespace Sys2Proof.Machine

section
variable {s t : State} {id : Nat} {m : Mooring}

/-! ### The timer (R215, R362) -/

/-- A node that is being probed. -/
def probed (node : Nat) (y : Mooring) : Mooring :=
  { y with probing := if y.probing.contains node then y.probing else y.probing ++ [node] }

theorem mem_probed (node : Nat) (y : Mooring) : node ∈ (probed node y).probing := by
  unfold probed
  dsimp only
  split
  · rename_i h
    exact List.contains_iff_mem.1 h
  · exact List.mem_append_right _ (List.mem_singleton_self _)

theorem probeNode_mooring {node : Nat} (hm : mooringAt s id = some m) : mooringAt (probeNode s id node) id = some (probed node m) :=
  (outward_tellNode _ _).mooring (mooringAt_mod (f := probed node) hm fun _ => rfl)

/-- The timer of a verdict is over: that of the step that awaits it, else that of the step after it. -/
def timerOver (first : Bool) (y : Mooring) : Mooring :=
  if first then { y with timer := false } else { y with ahead := { y.ahead with timer := false } }

theorem timerOver_id (first : Bool) (y : Mooring) : (timerOver first y).desc.id = y.desc.id := by
  cases first <;> rfl

/-- A member that is not the anchor logs the event and probes the anchor. -/
theorem execVerdictTimerExpiry_probes (hm : mooringAt s id = some m) {first : Bool}
    (hf : (m.timer && m.provisional.isSome) = first) (ht : first = true ∨ m.ahead.timer = true) (ha : anchorOf m ≠ selfNode s) :
    ∃ t, execVerdictTimerExpiry id s = .next t ∧ mooringAt t id = some (probed (anchorOf m) (timerOver first m)) ∧
      (anchorOf m, .probe id) ∈ t.out.kmsg ∧ (∃ e ∈ t.flash.log, e.code = 0x0010 ∧ e.mooring = id) ∧ t.lanterns = s.lanterns := by
  let s1 := modMooring s id (timerOver first)
  let s2 := raiseEvent s1 evVerdictLate (some id) 0 0
  have hu : SameUnits s1 s2 := raiseEvent_units _ _ _ _
  have h2 : mooringAt s2 id = some (timerOver first m) :=
    (mooringAt_of_units hu id).trans (mooringAt_mod hm (timerOver_id first))
  have hself : anchorOf m ≠ selfNode s2 := fun he => ha (he.trans (congrArg (fun b : Boot => nodeOf b.coords) hu.2.1))
  obtain ⟨-, -, -, hk, hl⟩ := probeNode_probes h2 hself
  obtain ⟨e, he, hc, -, -, hi⟩ := raiseEvent_hasEvent s1 evVerdictLate (some id) 0 0
  have hev : HasEvent e (probeNode s2 id (anchorOf m)) := hasEvent_probeNode he
  refine ⟨probeNode s2 id (anchorOf m), ?_, probeNode_mooring h2, hk, ⟨e, hev, hc, hi⟩, hl.trans hu.2.2.2.1⟩
  unfold execVerdictTimerExpiry
  rw [hm]
  dsimp only
  rw [hf, if_neg, if_neg ha]
  · rfl
  · rcases ht with rfl | ht
    · simp
    · simp [ht]

theorem execVerdictTimerExpiry_off (hm : mooringAt s id = some m) (h1 : m.timer = false) (h2 : m.ahead.timer = false) :
    execVerdictTimerExpiry id s = .next s := by
  unfold execVerdictTimerExpiry
  rw [hm]
  dsimp only
  rw [h1, h2, if_pos ⟨rfl, rfl⟩]

/-! ### Tender copies (R358, R359) -/

/-- A kept copy with its staged refresh installed: it stands at step u. -/
def installed (u : Nat) (c : TenderCopy) : TenderCopy :=
  { c with
    point := some u
    pieces := notePieces (if c.whole then [] else c.pieces) c.staging
    headers := c.stagedHdrs.foldl takeHeader c.headers
    staging := []
    stagedHdrs := []
    whole := false
    staged := none }

/-- The mooring with the copies kept for a position installed. -/
def withInstalled (u pos : Nat) (y : Mooring) : Mooring :=
  { y with tender := y.tender.map (fun c => if c.pos = pos then installed u c else c) }

theorem writeSpans_units : ∀ (qs : List (Nat × Nat)) (s : State) (bs : List Byte), SameUnits s (writeSpans s qs bs)
  | [], s, _ => .refl s
  | q :: qs, s, bs => (writeMem_units q.1 (bs.take q.2)).1.trans (writeSpans_units qs (writeMem s q.1 (bs.take q.2)) (bs.drop q.2))

theorem installUnit_units (m : Mooring) (p : Parsed) (c : TenderCopy) (q : Nat × Nat) : SameUnits s (installUnit s m p c q) := by
  unfold installUnit
  split
  next => exact writeSpans_units _ _ _
  next => exact .refl s

theorem installUnits_units (m : Mooring) (p : Parsed) (c : TenderCopy) (qs : List (Nat × Nat)) :
    SameUnits s (qs.foldl (fun s q => installUnit s m p c q) s) :=
  List.foldlRecOn (motive := SameUnits s) qs _ (.refl s) fun _ hs q _ => hs.trans (installUnit_units m p c q)

theorem installCopy_units (m : Mooring) (p : Parsed) {c : TenderCopy} {u : Nat} (hc : c.staged = some u) :
    ∃ t, SameUnits s t ∧ (c.staging = [] → t = s) ∧ installCopy s m p c = modMooring t m.desc.id (withInstalled u c.pos) := by
  refine ⟨_, installUnits_units m p c c.staging, fun h => by rw [h]; rfl, ?_⟩
  unfold installCopy
  rw [hc]
  rfl

theorem tellNode_mem (d : Nat) (msg : KeeperMsg) : (tellNode s d msg).mem = s.mem := by
  unfold tellNode
  split
  · rfl
  · obtain ⟨r, k, hr⟩ := onlyRouter_sendSeq (s := { s with out := { s.out with kmsg := s.out.kmsg ++ [(d, msg)] } }) 0
      { Packet.blank with typ := 0x0A, cls := 0, dest := d }
    dsimp only
    rw [hr]

theorem tellNodes_mem (msg : KeeperMsg) : ∀ (ns : List Nat) (s : State), (tellNodes s msg ns).mem = s.mem
  | [], _ => rfl
  | n :: ns, s => (tellNodes_mem msg ns (tellNode s n msg)).trans (tellNode_mem n msg)

/-- The report changes of the mooring only that it has been made. -/
theorem reportCopies_mooring (hm : mooringAt s id = some m) : ∃ r, mooringAt (reportCopies s id) id = some { m with reported := r } ∧
    (reportCopies s id).lanterns = s.lanterns ∧ (reportCopies s id).mem = s.mem := by
  have h1 := mooringAt_mod (f := fun y => { y with reported := true }) hm fun _ => rfl
  unfold reportCopies
  rw [hm]
  dsimp only
  split
  · exact ⟨m.reported, hm, rfl, rfl⟩
  · generalize parentNode s m = parent
    cases parent with
    | none => exact ⟨true, h1, rfl, rfl⟩
    | some n => exact ⟨true, (outward_tellNode _ _).mooring h1, (tellNode_units _ _).2.2.2.1, tellNode_mem _ _⟩

theorem execTenderInstall_staged {b : Bundle} {kept u : Nat} {c : TenderCopy} (hm : mooringAt s id = some m)
    (hb : bundleAt s m.bundle = some b) (hc : m.tender.find? (fun c => c.pos == kept) = some c) (hs : c.staged = some u) :
    ∃ t r, execTenderInstall id kept s = .next t ∧ mooringAt t id = some { withInstalled u kept m with reported := r } ∧
      (c.staging = [] → t.mem = s.mem) ∧ t.lanterns = s.lanterns := by
  have hpos : c.pos = kept := by simpa using List.find?_some hc
  obtain ⟨t, hu, ht, he⟩ := installCopy_units (s := s) m b.p hs
  rw [mooringAt_id hm, hpos] at he
  have h1 : mooringAt (installCopy s m b.p c) id = some (withInstalled u kept m) :=
    he ▸ mooringAt_mod ((mooringAt_of_units hu id).trans hm) fun _ => rfl
  obtain ⟨r, h2, hl, hmem⟩ := reportCopies_mooring h1
  refine ⟨_, r, ?_, h2, fun h => ?_, ?_⟩
  · unfold execTenderInstall
    rw [hm]
    dsimp only
    rw [hc, hb]
    dsimp only
    rw [hs]
    rfl
  · rw [hmem, he, ht h]
    rfl
  · rw [hl, he]
    exact hu.2.2.2.1

/-- Installed copies stand where they stood in the list, and the others are as they were. -/
theorem withInstalled_tender {kept u k : Nat} {c d : TenderCopy} (hs : c.staged = some u) (huniq : ∀ e ∈ m.tender, e.pos = kept → e = c)
    (hd : m.tender[k]? = some d) : ∃ e, (withInstalled u kept m).tender[k]? = some e ∧ (d.pos ≠ kept → e = d) ∧
      (d.pos = kept → ∀ w, d.staged = some w → e.point = some w ∧ e.staged = none ∧ e.staging = [] ∧ e.stagedHdrs = [] ∧
        e.pos = d.pos) := by
  refine ⟨if d.pos = kept then installed u d else d, by simp [withInstalled, hd], fun h => if_neg h, fun h w hw => ?_⟩
  have hdc : d = c := huniq d (List.mem_of_getElem? hd) h
  rw [if_pos h]
  exact ⟨by rw [← hw, hdc, hs]; rfl, rfl, rfl, rfl, rfl⟩

/-! ### The announcement (R359) -/

theorem tellNode_keeps {d : Nat} {msg : KeeperMsg} {x : Nat × KeeperMsg} (h : x ∈ s.out.kmsg) :
    x ∈ (tellNode s d msg).out.kmsg := by
  unfold tellNode
  split
  · exact h
  · obtain ⟨r, k, hr⟩ := onlyRouter_sendSeq (s := { s with out := { s.out with kmsg := s.out.kmsg ++ [(d, msg)] } }) 0
      { Packet.blank with typ := 0x0A, cls := 0, dest := d }
    dsimp only
    rw [hr]
    exact List.mem_append_left _ h

theorem tellNodes_keeps {msg : KeeperMsg} {x : Nat × KeeperMsg} : ∀ (ns : List Nat) (s : State), x ∈ s.out.kmsg →
    x ∈ (tellNodes s msg ns).out.kmsg
  | [], _, h => h
  | _ :: ns, _, h => tellNodes_keeps ns _ (tellNode_keeps h)

theorem tellNodes_tells {k : Nat} (msg : KeeperMsg) : ∀ (ns : List Nat) (s : State), k ∈ ns → k ≠ selfNode s →
    (k, msg) ∈ (tellNodes s msg ns).out.kmsg := by
  intro ns
  induction ns with
  | nil => intro _ hk; exact absurd hk List.not_mem_nil
  | cons n ns ih =>
    intro s hk hself
    rcases List.mem_cons.1 hk with rfl | hk
    · exact tellNodes_keeps ns _ (tellNode_tells hself msg)
    · refine ih _ hk fun he => hself (he.trans ?_)
      exact congrArg (fun b : Boot => nodeOf b.coords) (tellNode_units n msg).2.1

/-- An update held for the announcement goes on. -/
def unheld (id : Nat) (x : Lantern) : Lantern := if x.mooring = some id then { x with updHold := false } else x

/-- The mooring's held updates go on. -/
def releaseUpdates (s : State) (id : Nat) : State := { s with lanterns := s.lanterns.map (unheld id) }

theorem lanternAt_releaseUpdates (s : State) (id l : Nat) : lanternAt (releaseUpdates s id) l = unheld id (lanternAt s l) :=
  List.getD_map _ Lantern.reset (unheld id)

/-- The last commit's undo copies are released: every kept copy is installed. -/
def announcedAll (y : Mooring) : Mooring := { releaseUndo y with announced := true, installedBy := [] }

theorem execTenderAnnounce_root (hm : mooringAt s id = some m) (hp : parentNode s m = none) (ha : m.announced = false)
    (hr : m.reported = true) : ∃ t, execTenderAnnounce id s = .next t ∧ mooringAt t id = some (announcedAll m) ∧
      (∀ k ∈ membersOf s m, k ≠ selfNode s → (k, .tenderAnnounced id (m.committed.getD 0)) ∈ t.out.kmsg) ∧
      ∀ l, lanternAt t l = unheld id (lanternAt s l) := by
  have ho : Outward s (tellNodes s (.tenderAnnounced id (copyStep m)) (otherMembers s m)) := outward_tellNodes _ _ s
  have h1 := ho.mooring hm
  have h2 := mooringAt_mod (f := announcedAll) h1 fun _ => rfl
  refine ⟨releaseUpdates (modMooring _ id announcedAll) id, ?_, h2, fun k hk hself => ?_,
    fun l => (lanternAt_releaseUpdates _ id l).trans ?_⟩
  · unfold execTenderAnnounce announceHere
    rw [hm]
    dsimp only
    rw [if_pos ⟨hp ▸ rfl, ha ▸ rfl, hr⟩, h1]
    dsimp only
    rw [if_neg (by simp [ha])]
    rfl
  · exact tellNodes_tells _ _ s (List.mem_filter.2 ⟨hk, by simpa using hself⟩) hself
  · exact congrArg (unheld id) (lanternAt_of_units ho.1 l)

end

end Sys2Proof.Machine
end

section
/-! PROOFS. A mooring for which no Keeper operation awaits: what happens at its boundaries, and the end of its run (R191, R196,
R222, R386). -/

namespace Sys2Proof.Machine

section
variable {s t : State} {id : Nat} {n m y : Mooring}

/-- The mooring is n; no operation of the Keeper awaits anything, and no light is to be left. -/
structure Unawaited (s : State) (id : Nat) (n : Mooring) : Prop where
  mooring : mooringAt s id = some n
  ops     : s.keeper.ops = []
  leaveAt : s.keeper.leaveAt = none

theorem Unawaited.of_same (h : Unawaited s id n) (hm : t.moorings = s.moorings) (ho : t.keeper.ops = s.keeper.ops)
    (hl : t.keeper.leaveAt = s.keeper.leaveAt) : Unawaited t id n := by
  refine ⟨?_, ho.trans h.ops, hl.trans h.leaveAt⟩
  unfold mooringAt
  rw [hm]
  exact h.mooring

theorem Unawaited.mod (h : Unawaited s id n) {f : Mooring → Mooring} (hf : ∀ y, (f y).desc.id = y.desc.id) :
    Unawaited (modMooring s id f) id (f n) := ⟨mooringAt_mod h.mooring hf, h.ops, h.leaveAt⟩

theorem Outward.leaveAt (h : Outward s t) : t.keeper.leaveAt = s.keeper.leaveAt := by
  have hb := congrArg Keeper.leaveAt h.2.2.1
  exact hb

theorem Unawaited.outward (h : Unawaited s id n) (ho : Outward s t) : Unawaited t id n :=
  h.of_same ho.1.2.2.1 ho.books.1 ho.leaveAt

/-- Through the work of lanterns the mooring keeps what the step in hand does not gather. -/
theorem Unawaited.work (h : Unawaited s id n) (hw : Work s t) : ∃ y, Unawaited t id y ∧ boundaryBooks y = boundaryBooks n := by
  obtain ⟨y, hy, hb⟩ := hw.mooringAt h.mooring
  exact ⟨y, ⟨hy, hw.ops_nil h.ops, hw.leaveAt.trans h.leaveAt⟩, hb⟩

/-! ### Nothing awaits -/

theorem Unawaited.runOp (h : Unawaited s id n) : runOp s id = none := by
  unfold Machine.runOp
  rw [h.ops]
  rfl

theorem Unawaited.boundaryOp (h : Unawaited s id n) : boundaryOp s id = none := by
  unfold Machine.boundaryOp
  rw [h.ops]
  rfl

theorem Unawaited.runRecord (h : Unawaited s id n) (status : Nat) (flags : BitVec 16) (step : Nat) :
    runRecord s id status flags step = s := by
  unfold Machine.runRecord
  rw [h.runOp]

theorem Unawaited.leaveReached (h : Unawaited s id n) : leaveReached s id = s := by
  unfold Machine.leaveReached
  rw [h.leaveAt]

theorem Unawaited.askFaults (h : Unawaited s id n) : askFaults s id = s := by
  unfold Machine.askFaults
  rw [h.mooring]
  dsimp only
  rw [if_neg]
  rw [h.boundaryOp]
  exact fun hc => Bool.false_ne_true hc.2

theorem Unawaited.raiseReservations (h : Unawaited s id n) (ho : n.overLimit = []) (p : Parsed) :
    raiseReservations s id p = s := by
  unfold Machine.raiseReservations
  rw [h.mooring]
  dsimp only
  rw [ho, List.isEmpty_nil, if_pos rfl]

theorem Unawaited.endIfDone (h : Unawaited s id n) (hd : n.decided < n.runCount) {u : Nat} (hu : u + 1 < 2 ^ 48) :
    endIfDone s id u = s := by
  unfold Machine.endIfDone
  rw [h.mooring]
  dsimp only
  rw [if_neg (Nat.not_le.2 hd), if_neg (Nat.not_le.2 hu)]

/-! ### A step boundary -/

/-- Lanterns held for the scale go on (R199). -/
def held (y : Mooring) : Mooring := { fixScale y with holdOpen := true }

/-- At a boundary at most the held lanterns go on. -/
theorem Unawaited.atBoundary (h : Unawaited s id n) :
    atBoundary s id = s ∨ n.stepOn = true ∧ atBoundary s id = releaseHolds (modMooring s id held) id := by
  have hp : passHold s id = s ∨ n.stepOn = true ∧ passHold s id = releaseHolds (modMooring s id held) id := by
    unfold passHold
    rw [h.mooring]
    dsimp only
    split
    · rename_i hc
      exact .inr ⟨hc.1, rfl⟩
    · exact .inl rfl
  unfold Machine.atBoundary
  rw [h.ops]
  unfold performPending
  rw [h.mooring]
  dsimp only
  rw [h.boundaryOp]
  split
  · exact .inl rfl
  · exact hp

theorem Unawaited.atBoundary_idle (h : Unawaited s id n) (hn : n.stepOn = false) : Machine.atBoundary s id = s :=
  h.atBoundary.resolve_right fun hc => Bool.false_ne_true (hn.symm.trans hc.1)

theorem Unawaited.boundary (h : Unawaited s id n) : ∃ k, (k = n ∨ n.stepOn = true ∧ k = held n) ∧
    Unawaited (Machine.atBoundary s id) id k ∧ (Machine.atBoundary s id).mem = s.mem := by
  rcases h.atBoundary with hb | ⟨hn, hb⟩ <;> rw [hb]
  · exact ⟨n, .inl rfl, h, rfl⟩
  · exact ⟨held n, .inr ⟨hn, rfl⟩, (h.mod (f := held) fun _ => rfl).of_same rfl rfl rfl, rfl⟩

/-! ### What the owner and the guests see -/

theorem tellSlot_tells (s : State) (id : Nat) : tellSlot s id = s ∨ ∃ d msg, tellSlot s id = tellNode s d msg := by
  unfold tellSlot
  cases mooringAt s id with
  | none => exact .inl rfl
  | some m =>
    dsimp only
    split
    · exact .inl rfl
    · exact .inr ⟨_, _, rfl⟩

theorem outward_tellSlot (s : State) (id : Nat) : Outward s (tellSlot s id) := by
  rcases tellSlot_tells s id with h | ⟨d, msg, h⟩ <;> rw [h]
  · exact outward_refl s
  · exact outward_tellNode d msg

theorem tellSlot_mem (s : State) (id : Nat) : (tellSlot s id).mem = s.mem := by
  rcases tellSlot_tells s id with h | ⟨d, msg, h⟩ <;> rw [h]
  exact tellNode_mem d msg

theorem openWindows_shore (s : State) (id : Nat) : ∃ shore, openWindows s id = { s with shore := shore } := by
  unfold openWindows
  cases mooringAt s id with
  | none => exact ⟨s.shore, rfl⟩
  | some m =>
    cases hb : bundleAt s m.bundle with
    | none => exact ⟨s.shore, by dsimp only; rw [hb]⟩
    | some b => exact ⟨_, by dsimp only; rw [hb]⟩

theorem Unawaited.openWindows (h : Unawaited s id n) : Unawaited (openWindows s id) id n := by
  obtain ⟨shore, hs⟩ := openWindows_shore s id
  rw [hs]
  exact h.of_same rfl rfl rfl

theorem openWindows_mem (s : State) (id : Nat) : (openWindows s id).mem = s.mem := by
  obtain ⟨shore, hs⟩ := openWindows_shore s id
  rw [hs]

/-! ### The end of a run (R386) -/

/-- A mooring whose run has ended with a status. -/
def runOver (status : Nat) (y : Mooring) : Mooring :=
  { y with
    run := if decide (status ≠ stSuccess) then .stopped else .idle
    stopWith := status
    stepOn := false
    provisional := none
    lastBegun := none
    rerun := none
    contrib := none
    children := []
    ahead := Ahead.blank
    forwarded := false
    timer := false }

theorem Unawaited.endRun (h : Unawaited s id n) (ha : runActive n = true) (status : Nat) :
    Unawaited (endRun s id status) id (runOver status n) := by
  have hf : Unawaited (endFillOf s id) id n := h.of_same rfl rfl rfl
  have h2 := hf.mod (f := runOver status) fun _ => rfl
  unfold Machine.endRun
  rw [h.mooring]
  dsimp only
  rw [if_neg (by simp [ha]), h.runOp, List.foldl_fixed' fun _ => hf.runRecord _ _ _]
  exact (h2.leaveReached.symm ▸ h2 : Unawaited (Machine.leaveReached _ id) id _).outward (outward_tellSlot _ id)

end

end Sys2Proof.Machine
end

section
/-! PROOFS. A clean verdict commits the step it is on (R46, R210, R219, R222). -/

namespace Sys2Proof.Machine

section
variable {s t : State} {id u : Nat} {m n y : Mooring} {v : Verdict} {p : Parsed}

/-- The mooring once step u is committed; the step after it takes its place. -/
def committedBy (m : Mooring) (p : Parsed) (u : Nat) (v : Verdict) (y : Mooring) : Mooring :=
  let z := decided (cleanScale y)
  takeAhead { z with
    committed := some u
    refStep := some u
    loaded := false
    readable := u :: z.readable
    before := some ⟨m.committed, m.refStep, m.lscale, m.clean, m.ladders⟩
    ladders := moveLadders cleanLadder p v z.ladders
    decided := z.decided + b2n (!decide (m.rerun = some u))
    runCommitted := z.runCommitted + b2n (!decide (m.rerun = some u))
    rerun := none
    installedBy := []
    reported := false
    oldMap := none
    oldTender := []
    oldLost := [] } y.ahead

/-- What taking the next step up leaves of a mooring. -/
structure TakesAhead (x y : Mooring) : Prop where
  desc         : y.desc = x.desc
  committed    : y.committed = x.committed
  headers      : y.headers = x.headers
  epoch        : y.epoch = x.epoch
  decided      : y.decided = x.decided
  runCount     : y.runCount = x.runCount
  runCommitted : y.runCommitted = x.runCommitted
  overLimit    : y.overLimit = x.overLimit
  scale        : (y.lscale, y.clean) = (x.lscale, x.clean)

theorem takeAhead_takes (x : Mooring) (a : Ahead) : TakesAhead x (takeAhead x a) := by
  unfold takeAhead
  dsimp only
  split <;> exact ⟨rfl, rfl, rfl, rfl, rfl, rfl, rfl, rfl, rfl⟩

theorem takeAhead_replays (x : Mooring) (a : Ahead) : (takeAhead x a).replays = a.replays := by
  unfold takeAhead
  dsimp only
  split <;> rfl

/-- The scale after a clean step, and the clean steps counted (R46). -/
theorem cleanScale_scale (y : Mooring) : ((cleanScale y).lscale, (cleanScale y).clean) =
    (if y.clean + 1 < y.raise then (y.lscale, y.clean + 1)
    else if y.lscale < 63 then (y.lscale + 1, 0) else (y.lscale, y.raise)) := by
  unfold cleanScale
  dsimp only
  split
  · rfl
  · split <;> rfl

theorem cleanScale_eq (y : Mooring) : ∃ l c, cleanScale y = { y with lscale := l, clean := c } := by
  unfold cleanScale
  dsimp only
  split
  · exact ⟨_, _, rfl⟩
  · split
    · exact ⟨_, _, rfl⟩
    · exact ⟨_, _, rfl⟩

/-- What a commit says of the mooring, its step in hand apart. -/
theorem committedBy_facts (p : Parsed) (u : Nat) (v : Verdict) (hr : m.rerun = none) : TakesAhead
    { m with
      committed := some u
      decided := m.decided + 1
      runCommitted := m.runCommitted + 1
      lscale := (cleanScale m).lscale
      clean := (cleanScale m).clean } (committedBy m p u v m) := by
  obtain ⟨l, c, hc⟩ := cleanScale_eq m
  unfold committedBy
  rw [hr, hc]
  obtain ⟨h1, h2, h3, h4, h5, h6, h7, h8, h9⟩ := takeAhead_takes _ m.ahead
  exact ⟨h1, h2, h3, h4, h5, h6, h7, h8, h9⟩

theorem committedBy_replays (m : Mooring) (p : Parsed) (u : Nat) (v : Verdict) :
    (committedBy m p u v m).replays = m.ahead.replays := takeAhead_replays _ _

/-- Nothing known of the step after: it is in hand as it was. -/
theorem committedBy_alone (p : Parsed) (u : Nat) (v : Verdict) (ha : m.ahead.contrib = none) (hv : m.ahead.verdict = none) :
    (committedBy m p u v m).provisional = none ∧ (committedBy m p u v m).contrib = none ∧
      (committedBy m p u v m).timer = false ∧ (committedBy m p u v m).step = m.step := by
  obtain ⟨l, c, hc⟩ := cleanScale_eq m
  unfold committedBy takeAhead
  rw [hc]
  dsimp only
  rw [if_neg (by rw [ha, hv]; decide)]
  exact ⟨rfl, rfl, rfl, rfl⟩

/-- The step after has contributed: it awaits its verdict. -/
theorem committedBy_next (p : Parsed) (u : Nat) (v : Verdict) {w : Verdict} (ha : m.ahead.contrib = some w) :
    (committedBy m p u v m).provisional = some m.step ∧ (committedBy m p u v m).contrib = some w ∧
      (committedBy m p u v m).timer = m.ahead.timer ∧ (committedBy m p u v m).step = m.step + 1 := by
  obtain ⟨l, c, hc⟩ := cleanScale_eq m
  unfold committedBy takeAhead
  rw [hc]
  dsimp only
  rw [if_pos (.inl (by rw [ha]; rfl))]
  exact ⟨rfl, ha, rfl, rfl⟩

/-- A refresh of no copies: undo copies are released at once. -/
def unrefreshed (y : Mooring) : Mooring := { releaseUndo y with announced := true }

theorem Unawaited.startRefresh (h : Unawaited s id n) (ht : tenderAxis n.desc = none) (p : Parsed) (u : Nat) :
    startRefresh s id p u = modMooring s id unrefreshed := by
  unfold Machine.startRefresh
  rw [h.mooring]
  dsimp only
  rw [if_pos (.inr (ht ▸ rfl))]
  rfl

/-- A mooring with a step committed at a boundary: undo copies are released, and the lanterns held for the scale may have
gone on. -/
structure Settles (z n : Mooring) : Prop where
  committed    : n.committed = z.committed
  replays      : n.replays = z.replays
  provisional  : n.provisional = z.provisional
  contrib      : n.contrib = z.contrib
  timer        : n.timer = z.timer
  step         : n.step = z.step
  undo         : n.undo = []
  undoHdr      : n.undoHdr = []
  headers      : n.headers = z.headers
  epoch        : n.epoch = z.epoch
  decided      : n.decided = z.decided
  runCommitted : n.runCommitted = z.runCommitted
  scale        : (n.lscale, n.clean) = (z.lscale, z.clean)

theorem settles_of_boundary {z : Mooring} (hn : n = unrefreshed z ∨ n = held (unrefreshed z)) : Settles z n := by
  rcases hn with rfl | rfl <;> exact ⟨rfl, rfl, rfl, rfl, rfl, rfl, rfl, rfl, rfl, rfl, rfl, rfl, rfl⟩

/-- What holds of a mooring when a step of it has been committed, at a boundary that nothing awaits. -/
theorem commitStep_unawaited (h : Unawaited s id m) (hr : m.rerun = none) (hl : m.leaving = []) (ht : tenderAxis m.desc = none)
    (hd : m.decided + 1 < m.runCount) (hu : u + 1 < 2 ^ 48) (ho : m.stepOn = true ∨ m.overLimit = []) :
    ∃ n, Settles (committedBy m p u v m) n ∧
      Unawaited (commitStep s m p u v) id n ∧ (commitStep s m p u v).mem = s.mem := by
  obtain rfl := mooringAt_id h.mooring
  obtain ⟨hdesc, -, -, -, hdec, hcount, -, hover, -⟩ := committedBy_facts p u v hr
  have h1 := h.mod (f := committedBy m p u v) fun y => by
    obtain ⟨l, c, hc⟩ := cleanScale_eq y
    unfold committedBy
    rw [hc]
    exact congrArg MDesc.id (takeAhead_takes _ _).desc
  have h2 := h1.mod (f := unrefreshed) fun _ => rfl
  have h3 := h2.openWindows.outward (outward_tellSlot _ m.desc.id)
  have hstep : commitStep s m p u v = leaveReached (atBoundary (tellSlot (openWindows
      (modMooring (modMooring s m.desc.id (committedBy m p u v)) m.desc.id unrefreshed) m.desc.id) m.desc.id) m.desc.id) m.desc.id := by
    have hrec := h1.runRecord stSuccess (stepFlags m v false) u
    have href := h1.startRefresh (hdesc ▸ ht) p u
    have hend := h3.endIfDone (by show (committedBy m p u v m).decided < (committedBy m p u v m).runCount; rwa [hdec, hcount]) hu
    have hraise : m.stepOn = false → raiseReservations _ m.desc.id p = _ := fun hs => h3.raiseReservations
      (hover.trans (ho.resolve_left fun hc => Bool.false_ne_true (hs.symm.trans hc))) p
    have hagain : ¬ decide (m.rerun = some u) = true := by simp [hr]
    unfold commitStep
    dsimp only
    generalize hs1 : modMooring s m.desc.id _ = s1
    obtain rfl : modMooring s m.desc.id (committedBy m p u v) = s1 := hs1
    rw [if_neg hagain, hrec, href, hl, List.isEmpty_nil, if_pos rfl, hend]
    split
    · rfl
    · rename_i hs
      rw [hraise (Bool.not_eq_true _ ▸ hs)]
  obtain ⟨k, hk, h4, hmem⟩ := h3.boundary
  rw [hstep, h4.leaveReached, hmem, tellSlot_mem, openWindows_mem]
  exact ⟨k, settles_of_boundary (hk.imp_right And.right), h4, rfl⟩

end

end Sys2Proof.Machine
end

section
/-! PROOFS. A step rolled back: skipped, run again, or the run's last (R46, R222 to R225, R240, R345). -/

namespace Sys2Proof.Machine

/-! ### Copying back -/

/-- Blocks are written back: the units stay, and so do the Keeper's books but for region 0x30's count. -/
structure WritesBack (s t : State) : Prop where
  units  : SameUnits s t
  keeper : { t.keeper with debugWrites := [] } = { s.keeper with debugWrites := [] }

section
variable {s t : State} {id u : Nat} {m n y : Mooring} {v : Verdict} {p : Parsed}

theorem WritesBack.trans {w : State} (h : WritesBack s t) (k : WritesBack t w) : WritesBack s w :=
  ⟨h.units.trans k.units, k.keeper.trans h.keeper⟩

theorem writesBack_foldl {α : Type} {g : State → α → State} (hg : ∀ s a, WritesBack s (g s a)) (xs : List α) :
    WritesBack s (xs.foldl g s) :=
  List.foldlRecOn (motive := WritesBack s) xs g ⟨.refl s, rfl⟩ fun _ hs a _ => hs.trans (hg _ a)

theorem writesBack_restoreLine (src dst k : Nat) (s : State) (d : Nat) : WritesBack s (restoreLine src dst k s d) := by
  unfold restoreLine
  dsimp only
  split
  · exact ⟨.refl s, rfl⟩
  · obtain ⟨hu, -, hk⟩ := writeMem_units (s := s) (max d dst) (readMem s (src + max d dst - dst) (min (d + 64) (dst + k) - max d dst))
    exact ⟨hu, hk⟩

theorem writesBack_restoreUndo (s : State) (x : Undo) : WritesBack s (restoreUndo s x) := by
  have h1 := writesBack_foldl (s := s) (writesBack_restoreLine x.copy.1 x.home.1 x.len) (linesOf x.home.1 x.len)
  unfold restoreUndo
  dsimp only
  split
  · exact h1
  · exact h1.trans (writesBack_foldl (writesBack_restoreLine _ _ _) _)

theorem Unawaited.writesBack (h : Unawaited s id n) (hw : WritesBack s t) : Unawaited t id n := by
  have ho := congrArg Keeper.ops hw.keeper
  have hl := congrArg Keeper.leaveAt hw.keeper
  exact h.of_same hw.units.2.2.1 ho hl

/-! ### The rollback (R223, R240) -/

/-- The mooring in a new epoch. -/
def inNewEpoch (y : Mooring) : Mooring := { y with daymark := nextDaymark y.daymark, epoch := y.epoch + 1 }

theorem Unawaited.newEpoch (h : Unawaited s id n) : Unawaited (newEpoch s id) id (inNewEpoch n) := by
  have h1 := h.mod (f := fun y => { y with daymark := nextDaymark y.daymark }) fun _ => rfl
  have h2 : Unawaited (advanceNow s (.mooring id)) id { n with daymark := nextDaymark n.daymark } := h1.of_same rfl rfl rfl
  exact h2.mod (f := fun y => { y with epoch := y.epoch + 1 }) fun _ => rfl

/-- The books of a mooring m whose update of step u is undone. -/
def undone (m : Mooring) (u : Nat) (y : Mooring) : Mooring :=
  let wrote := m.headers.any (wroteShard m u)
  { y with
    headers := y.headers.map (fun h => if wroteShard m u h then
        { h with step := ((y.undoHdr.find? (fun q => q.1 == h.tensor)).map (·.2)).getD h.step, gen := nextGen h.gen }
      else h)
    undo := y.undo.filter (fun x => x.step != u)
    undoHdr := if wrote then [] else y.undoHdr
    diag := if wrote then y.diagSaved.getD y.diag else y.diag
    diagSaved := if wrote then none else y.diagSaved }

theorem Unawaited.undoUpdate (h : Unawaited s id n) (u : Nat) : Unawaited (undoUpdate s id u) id (undone n u n) ∧
    (undoUpdate s id u).lanterns = s.lanterns := by
  have hw := writesBack_foldl (s := s) writesBack_restoreUndo
    (n.undo.filter (fun x => decide (undoTag s x = u + 2 ^ 48 * shardGen n x.tensor)))
  have h1 := (h.writesBack hw).mod (f := undone n u) fun _ => rfl
  unfold Machine.undoUpdate
  rw [h.mooring]
  exact ⟨h1, hw.units.2.2.2.1⟩

/-- The work is wound down, a new epoch begins, the update of step u is undone. -/
def rolledBack (s : State) (id u : Nat) : State := undoUpdate (newEpoch (windDown s id) id) id u

/-- What a rollback leaves of a mooring's books: the epoch alone goes on. -/
structure RollsBack (m w : Mooring) : Prop where
  run          : w.run = m.run
  committed    : w.committed = m.committed
  lscale       : w.lscale = m.lscale
  clean        : w.clean = m.clean
  epoch        : w.epoch = m.epoch + 1
  replays      : w.replays = m.replays
  decided      : w.decided = m.decided
  runCount     : w.runCount = m.runCount
  runCommitted : w.runCommitted = m.runCommitted

theorem undone_rollsBack (hb : boundaryBooks y = boundaryBooks m) (u : Nat) :
    RollsBack m (undone (inNewEpoch y) u (inNewEpoch y)) where
  run := (congrArg Mooring.run hb :)
  committed := (congrArg Mooring.committed hb :)
  lscale := (congrArg Mooring.lscale hb :)
  clean := (congrArg Mooring.clean hb :)
  epoch := (congrArg (fun y => y.epoch + 1) hb :)
  replays := (congrArg Mooring.replays hb :)
  decided := (congrArg Mooring.decided hb :)
  runCount := (congrArg Mooring.runCount hb :)
  runCommitted := (congrArg Mooring.runCommitted hb :)

theorem Unawaited.rolledBack (h : Unawaited s id n) (u : Nat) : ∃ w, RollsBack n w ∧
    Unawaited (rolledBack s id u) id w ∧ ∃ y, mooringAt (windDown s id) id = some y ∧ w.overLimit = y.overLimit := by
  obtain ⟨y, hy, hb⟩ := h.work (work_windDown .refl)
  exact ⟨_, undone_rollsBack hb u, (hy.newEpoch.undoUpdate u).1, y, hy.mooring, rfl⟩

theorem lanternAt_of_lanterns (h : t.lanterns = s.lanterns) (l : Nat) : lanternAt t l = lanternAt s l := by
  unfold lanternAt
  rw [h]

theorem Unawaited.rolledBack_idle (h : Unawaited s id n) (u : Nat) (ht : t.lanterns = (Machine.rolledBack s id u).lanterns) :
    ∀ l ∈ lanternsOf s id, (lanternAt t l).running = false := by
  intro l hl
  obtain ⟨y, hy, -⟩ := h.work (work_windDown .refl)
  rw [lanternAt_of_lanterns (ht.trans (hy.newEpoch.undoUpdate u).2)]
  exact windDown_idle s id l hl

/-! ### OVERFLOW: the step is skipped (R46) -/

/-- The mooring with step u skipped. -/
def skippedBy (m : Mooring) (p : Parsed) (u : Nat) (v : Verdict) (y : Mooring) : Mooring :=
  let z := decided y
  { z with
    lscale := z.lscale - 1
    clean := if z.lscale = 0 then z.clean else 0
    ladders := moveLadders overLadder p v z.ladders
    step := u + 1
    stepOn := false
    decided := z.decided + b2n (decide (m.rerun ≠ some u))
    rerun := none
    replays := z.ahead.replays
    faulted := z.ahead.faulted
    ahead := Ahead.blank }

theorem skippedBy_decided (hr : m.rerun = none) : (skippedBy m p u v y).decided = y.decided + 1 := by
  unfold skippedBy
  rw [hr]
  rfl

theorem Unawaited.skipStep (h : Unawaited s id m) (hr : m.rerun = none) (hd : m.decided + 1 < m.runCount) (hu : u + 1 < 2 ^ 48)
    (hl : 0 < m.lscale) : ∃ w, RollsBack m w ∧ Unawaited (skipStep s m p u v) id (skippedBy m p u v { w with step := u }) ∧
      ∀ l ∈ lanternsOf s id, (lanternAt (skipStep s m p u v) l).running = false := by
  obtain rfl := mooringAt_id h.mooring
  obtain ⟨w, hw, h1, -⟩ := h.rolledBack u
  have h2 := (h1.mod (f := fun y => { y with step := u }) fun _ => rfl).mod (f := skippedBy m p u v) fun _ => rfl
  have hend := h2.endIfDone (u := u) (by
    rw [skippedBy_decided hr]
    show w.decided + 1 < w.runCount
    rwa [hw.decided, hw.runCount]) hu
  have hrec := h2.runRecord stStepSkipped (stepFlags m v true) u
  have hbound := h2.atBoundary_idle rfl
  have hscale : ¬ m.lscale = 0 := Nat.ne_of_gt hl
  have hagain : ¬ m.rerun = some u := by simp [hr]
  have he : skipStep s m p u v = modMooring (modMooring (Machine.rolledBack s m.desc.id u) m.desc.id
      (fun y => { y with step := u })) m.desc.id (skippedBy m p u v) := by
    unfold Machine.skipStep
    dsimp only
    rw [if_neg hscale, if_neg hscale, if_neg hagain]
    generalize hs2 : modMooring _ m.desc.id _ = s2
    obtain rfl : modMooring (modMooring (Machine.rolledBack s m.desc.id u) m.desc.id (fun y => { y with step := u })) m.desc.id
      (skippedBy m p u v) = s2 := hs2
    rw [hrec, hend, hbound]
  exact ⟨w, hw, he ▸ h2, h.rolledBack_idle u (by rw [he]; rfl)⟩

/-! ### FAULT or VERSION: the step runs again, or the run stops (R222, R224) -/

/-- The mooring with step u to run again. -/
def replayedBy (u : Nat) (v : Verdict) (y : Mooring) : Mooring :=
  { decided y with
    step := u
    stepOn := false
    replays := y.replays + 1
    faulted := y.faulted || v.fault }

/-- The mooring with step u given up after its last replay. -/
def givenUpBy (m : Mooring) (u : Nat) (y : Mooring) : Mooring :=
  { decided y with
    step := u + 1
    stepOn := false
    decided := y.decided + b2n (decide (m.rerun ≠ some u))
    rerun := none }

theorem Unawaited.replayStep (h : Unawaited s id m) (ho : ∀ w, mooringAt (windDown s id) id = some w → w.overLimit = [])
    (hm : m.replays < m.desc.replayMax) : ∃ w, RollsBack m w ∧ Unawaited (replayStep s m p u v) id (replayedBy u v w) ∧
      ∀ l ∈ lanternsOf s id, (lanternAt (replayStep s m p u v) l).running = false := by
  obtain rfl := mooringAt_id h.mooring
  obtain ⟨w, hw, h1, y, hy, hover⟩ := h.rolledBack u
  have h2 := h1.mod (f := replayedBy u v) fun _ => rfl
  have hraise := h2.raiseReservations (hover.trans (ho y hy)) p
  have he : replayStep s m p u v = modMooring (Machine.rolledBack s m.desc.id u) m.desc.id (replayedBy u v) := by
    unfold Machine.replayStep
    dsimp only
    rw [if_neg (Nat.not_le.2 hm)]
    generalize hs2 : modMooring _ m.desc.id _ = s2
    obtain rfl : modMooring (Machine.rolledBack s m.desc.id u) m.desc.id (replayedBy u v) = s2 := hs2
    rw [hraise, h2.askFaults, h2.atBoundary_idle rfl]
  exact ⟨w, hw, he ▸ h2, h.rolledBack_idle u (by rw [he]; rfl)⟩

theorem Unawaited.replayStep_last (h : Unawaited s id m) (ha : runActive m = true) (hm : m.desc.replayMax ≤ m.replays) :
    ∃ w, RollsBack m w ∧ Unawaited (Machine.replayStep s m p u v) id (runOver stReplayLimit (givenUpBy m u w)) := by
  obtain rfl := mooringAt_id h.mooring
  obtain ⟨w, hw, h1, -⟩ := h.rolledBack u
  have h2 := h1.mod (f := givenUpBy m u) fun _ => rfl
  have hact : runActive (givenUpBy m u w) = true := by
    unfold runActive at ha ⊢
    rwa [← hw.run] at ha
  have h3 := h2.endRun hact stReplayLimit
  refine ⟨w, hw, ?_⟩
  unfold Machine.replayStep
  dsimp only
  rw [if_pos hm]
  generalize hs1 : Machine.undoUpdate _ m.desc.id u = s1
  obtain rfl : Machine.rolledBack s m.desc.id u = s1 := hs1
  rw [h1.runRecord]
  generalize hs3 : modMooring _ m.desc.id _ = s3
  obtain rfl : modMooring (Machine.rolledBack s m.desc.id u) m.desc.id (givenUpBy m u) = s3 := hs3
  rw [h3.atBoundary_idle rfl]
  exact h3

/-! ### A new epoch that must wait (R345) -/

theorem Unawaited.deferEpoch (h : Unawaited s id n) (d : EpochDue) : ∃ y, boundaryBooks y = boundaryBooks n ∧
    Unawaited (deferEpoch s id d) id { y with due := y.due ++ [d] } ∧
    ∀ l ∈ lanternsOf s id, (lanternAt (deferEpoch s id d) l).running = false := by
  obtain ⟨y, hy, hb⟩ := h.work (work_windDown .refl)
  exact ⟨y, hb, hy.mod fun _ => rfl, windDown_idle s id⟩

end

end Sys2Proof.Machine
end

section
/-! PROOFS. VERDICT at the root of a mooring of one module (R213, R214, R220, R222). -/

namespace Sys2Proof.Machine

section
variable {s t : State} {id u : Nat} {m n y : Mooring} {b : Bundle} {v w : Verdict}

/-! ### The verdict that the root forms -/

/-- A module alone in its combining tree awaits the verdict of step u, to which its own contribution is v. -/
structure RootAwaits (s : State) (m : Mooring) (v : Verdict) (u : Nat) : Prop where
  contrib     : m.contrib = some v
  provisional : m.provisional = some u
  children    : m.children = []
  parent      : parentNode s m = none
  under       : childNodes s m = []
  due         : m.due = []

theorem RootAwaits.combined (h : RootAwaits s m v u) : combined m = some v := by
  unfold Machine.combined
  rw [h.contrib, h.children]
  rfl

theorem RootAwaits.upReady (h : RootAwaits s m v u) : upReady s m = true := by
  unfold Machine.upReady
  rw [h.combined]
  dsimp only
  rw [h.under, List.all_nil, Bool.or_true]

theorem concerns_awaited (hp : m.provisional = some u) (v : Verdict) : concerns m u v = true := by
  unfold concerns
  rw [hp, Option.getD_some, decide_eq_true rfl, Bool.true_or]

theorem applyDown_awaited (hm : mooringAt s id = some m) (hp : m.provisional = some u) (v : Verdict) :
    applyDown s id u v = applyAhead (applyVerdict s id v) id (u + 1) m.ahead.verdict := by
  unfold applyDown
  rw [hm]
  dsimp only
  rw [concerns_awaited hp, Bool.not_true, if_neg Bool.false_ne_true, hp, Option.getD_some, if_pos rfl, Option.isSome_some,
    if_pos rfl]

/-- The verdict goes down to nobody; it is applied here, and then the one on the next step that waited for it. -/
theorem RootAwaits.verdictDown (h : RootAwaits s m v u) (hm : mooringAt s m.desc.id = some m) (v : Verdict) :
    verdictDown s m u v = applyAhead (applyVerdict s m.desc.id v) m.desc.id (u + 1) m.ahead.verdict := by
  unfold Machine.verdictDown
  dsimp only
  rw [h.under, List.foldl_nil, ite_self, h.due, List.isEmpty_nil, if_pos rfl, applyDown_awaited hm h.provisional]

theorem RootAwaits.execVerdict (h : RootAwaits s m v u) (hm : mooringAt s id = some m) :
    execVerdict id none s = .next (applyAhead (applyVerdict s id v) id (u + 1) m.ahead.verdict) := by
  obtain rfl := mooringAt_id hm
  unfold Machine.execVerdict
  dsimp only
  rw [hm]
  dsimp only
  rw [if_neg (by rw [h.parent, h.due]; decide), h.combined, h.provisional, ← h.verdictDown hm, h.upReady]
  cases aheadCombined m <;> rfl

/-- Where another step than the next, or none, awaits its verdict, no waiting verdict is applied. -/
theorem applyAhead_idle (hm : mooringAt s id = some m) (hp : m.provisional ≠ some u) (v : Option Verdict) :
    applyAhead s id u v = s := by
  unfold applyAhead
  rw [hm]
  cases v with
  | none => rfl
  | some w => exact if_neg hp

/-! ### What it does -/

theorem epochOpen_of_due (hm : mooringAt s id = some m) (hd : m.due = []) : epochOpen s id = mayAdvance s (.mooring id) := by
  unfold epochOpen
  rw [hm, Option.map_some, Option.getD_some, hd, List.isEmpty_nil, Bool.and_true]

section
variable (hm : mooringAt s id = some m) (hb : bundleAt s m.bundle = some b) (hp : m.provisional = some u)
include hm hb hp

theorem applyVerdict_awaited (v : Verdict) : applyVerdict s id v =
    (if !(failing v || v.overflow) then commitStep s m b.p u v
    else if !epochOpen s id then deferEpoch s id (.verdict u v)
    else if failing v then replayStep s m b.p u v
    else skipStep s m b.p u v) := by
  unfold applyVerdict failing
  rw [hm]
  dsimp only
  rw [hp, hb]
  simp only [Bool.or_eq_true]

theorem applyVerdict_clean (hv : failing v = false) (ho : v.overflow = false) : applyVerdict s id v = commitStep s m b.p u v := by
  rw [applyVerdict_awaited hm hb hp, if_pos (by rw [hv, ho]; rfl)]

theorem applyVerdict_deferred (hv : failing v = true ∨ v.overflow = true) (hd : m.due = [])
    (ha : mayAdvance s (.mooring id) = false) : applyVerdict s id v = deferEpoch s id (.verdict u v) := by
  rw [applyVerdict_awaited hm hb hp, if_neg (by rcases hv with hv | hv <;> simp [hv]), epochOpen_of_due hm hd,
    ha, Bool.not_false, if_pos rfl]

theorem applyVerdict_failing (hv : failing v = true) (hd : m.due = []) (ha : mayAdvance s (.mooring id) = true) :
    applyVerdict s id v = replayStep s m b.p u v := by
  rw [applyVerdict_awaited hm hb hp, if_neg (by simp [hv]), epochOpen_of_due hm hd, ha, if_neg (by decide), if_pos hv]

theorem applyVerdict_overflow (hv : failing v = false) (ho : v.overflow = true) (hd : m.due = [])
    (ha : mayAdvance s (.mooring id) = true) : applyVerdict s id v = skipStep s m b.p u v := by
  rw [applyVerdict_awaited hm hb hp, if_neg (by simp [ho]), epochOpen_of_due hm hd, ha, if_neg (by decide),
    if_neg (by simp [hv])]

end

end

end Sys2Proof.Machine
end

section
/-! PROOFS. The end of a serving step where its anchor is its one member (R343, R474). -/

namespace Sys2Proof.Machine

section
variable {s t : State} {id u : Nat} {m n y : Mooring} {fault : Bool}

/-- The members of a mooring beside this module: none where it is the one member. -/
theorem otherMembers_alone (h : ∀ n ∈ membersOf s m, n = selfNode s) : otherMembers s m = [] := by
  unfold otherMembers
  exact List.filter_eq_nil_iff.2 fun n hn => by simp [h n hn]

/-- This module's word on the end of the step. -/
def servingEndsAt (fault : Bool) (y : Mooring) : Mooring := { y with contrib := some { Verdict.blank 0 with fault := fault } }

/-- A mooring whose serving step a fault has ended. -/
def servedAgain (y : Mooring) : Mooring :=
  { y with
    stepOn := false
    contrib := none
    ends := []
    replays := y.replays + 1
    faulted := true }

/-- A mooring whose serving step u is over. -/
def servedBy (u : Nat) (y : Mooring) : Mooring :=
  { y with
    step := y.step + 1
    stepOn := false
    contrib := none
    ends := []
    committed := some u
    decided := y.decided + 1
    runCommitted := y.runCommitted + 1
    replays := 0
    faulted := false }

theorem Unawaited.servingOver_fault (h : Unawaited s id n) : ∃ y, boundaryBooks y = boundaryBooks n ∧
    Unawaited (servingOver s id true) id (servedAgain y) := by
  obtain ⟨y, hy, hb⟩ := h.work (work_windDown .refl)
  unfold servingOver
  rw [h.mooring]
  exact ⟨y, hb, hy.mod fun _ => rfl⟩

theorem Unawaited.servingOver_clean (h : Unawaited s id n) : servingOver s id false = modMooring s id (servedBy n.step) := by
  unfold servingOver
  rw [h.mooring]
  rfl

/-- The one member decides by itself: a clean step is over. -/
theorem Unawaited.servingDecide_clean (h : Unawaited s id (servingEndsAt false m)) (hends : m.ends = [])
    (hother : otherMembers s (servingEndsAt false m) = []) (hd : m.decided + 1 < m.runCount) (hu : m.step + 1 < 2 ^ 48) :
    Unawaited (servingDecide s id) id (servedBy m.step (servingEndsAt false m)) ∧ (servingDecide s id).mem = s.mem := by
  have h1 := h.mod (f := servedBy m.step) fun _ => rfl
  have h2 := h1.outward (outward_tellSlot _ id)
  have hover : servingOver s id false = modMooring s id (servedBy m.step) := h.servingOver_clean
  have hend := h2.endIfDone hd hu
  have he : servingDecide s id = tellSlot (modMooring s id (servedBy m.step)) id := by
    unfold servingDecide
    rw [h.mooring]
    dsimp only [servingEndsAt] at hother ⊢
    rw [hother, List.all_nil, Bool.not_true, if_neg Bool.false_ne_true]
    rw [hends, List.any_nil, Bool.or_false, if_neg Bool.false_ne_true]
    dsimp only [tellNodes]
    rw [hover, h1.runRecord, hend, h2.atBoundary_idle rfl, h2.leaveReached]
  exact ⟨he ▸ h2, he ▸ tellSlot_mem _ id⟩

/-- After a fault it runs again, within the limit. -/
theorem Unawaited.servingDecide_fault (h : Unawaited s id (servingEndsAt true m))
    (hother : otherMembers s (servingEndsAt true m) = []) (hr : m.replays < m.desc.replayMax) :
    ∃ y, boundaryBooks y = boundaryBooks (servingEndsAt true m) ∧ Unawaited (servingDecide s id) id (servedAgain y) := by
  obtain ⟨y, hb, h1⟩ := h.servingOver_fault
  have he : servingDecide s id = servingOver s id true := by
    unfold servingDecide
    rw [h.mooring]
    dsimp only [servingEndsAt] at hother ⊢
    rw [hother, List.all_nil, Bool.not_true, if_neg Bool.false_ne_true]
    rw [Bool.true_or, if_pos rfl, if_neg (Nat.not_le.2 hr)]
    dsimp only [tellNodes]
    rw [h1.askFaults, h1.atBoundary_idle rfl]
  exact ⟨y, hb, he ▸ h1⟩

/-- Every lantern of the share has ended the step, or a fault has ended it. -/
theorem execServingStepEnd_decides (hm : mooringAt s id = some m) (hk : m.desc.kind = 1) (hr : runActive m = true)
    (hs : m.stepOn = true) (hc : m.contrib = none) (ha : anchorOf m = selfNode s)
    (hf : (m.gathered.fault || (lanternsOf s id).any (fun l => (lanternAt s l).fault)) = fault)
    (he : fault = true ∨ ∀ l ∈ lanternsOf s id, (lanternAt s l).endRetired = true) :
    execServingStepEnd id s = .next (servingDecide (modMooring s id (servingEndsAt fault)) id) := by
  unfold execServingStepEnd
  rw [hm]
  dsimp only
  rw [Bool.or_comm, hf, if_pos ⟨hk, hr, hs, hc ▸ rfl, he.imp_right List.all_eq_true.2⟩, if_pos ha]
  rfl

end

end Sys2Proof.Machine
end

section
/-! PROOFS. A permute of this module: its beginning and the word on its end (R304, R305, R458). -/

namespace Sys2Proof.Machine

/-- A permute has begun on this module, that of a node; another, asker, awaits its end. -/
structure PermuteOn (id asker node : Nat) (s : State) : Prop where
  here  : selfNode s = node
  moves : ∃ n w, mooringAt s id = some n ∧ n.moving = some w ∧ w.begun = true ∧ w.asker = asker

/-- A change of a mooring that goes on with its permute. -/
def GoesOn (f : Mooring → Mooring) : Prop :=
  ∀ y, (f y).desc.id = y.desc.id ∧
    ∀ w, y.moving = some w → ∃ x, (f y).moving = some x ∧ x.begun = w.begun ∧ x.asker = w.asker

section
variable {s t : State} {id asker node : Nat} {m : Mooring} {p : Parsed} {v : Moving}

theorem goesOn_of_moving {f : Mooring → Mooring} (hd : ∀ y, (f y).desc.id = y.desc.id) (hf : ∀ y, (f y).moving = y.moving) : GoesOn f :=
  fun y => ⟨hd y, fun w hw => ⟨w, (hf y).trans hw, rfl, rfl⟩⟩

theorem PermuteOn.of_same (h : PermuteOn id asker node s) (hm : t.moorings = s.moorings) (hb : t.boot = s.boot) :
    PermuteOn id asker node t := by
  obtain ⟨hs, n, w, hn, hw⟩ := h
  refine ⟨?_, n, w, ?_, hw⟩
  · unfold selfNode
    rw [hb]
    exact hs
  · unfold mooringAt
    rw [hm]
    exact hn

theorem PermuteOn.units (h : PermuteOn id asker node s) (hu : SameUnits s t) : PermuteOn id asker node t :=
  h.of_same hu.2.2.1 hu.2.1

theorem PermuteOn.mod (h : PermuteOn id asker node s) {f : Mooring → Mooring} (hf : GoesOn f) :
    PermuteOn id asker node (modMooring s id f) := by
  obtain ⟨hs, n, w, hn, hw, hb, ha⟩ := h
  obtain ⟨x, hx, hxb, hxa⟩ := (hf n).2 w hw
  exact ⟨hs, f n, x, mooringAt_mod hn fun y => (hf y).1, hx, hxb.trans hb, hxa.trans ha⟩

theorem permuteOn_foldl {α : Type} {g : State → α → State} {xs : List α}
    (hg : ∀ s a, PermuteOn id asker node s → PermuteOn id asker node (g s a)) (h : PermuteOn id asker node s) :
    PermuteOn id asker node (xs.foldl g s) :=
  List.foldlRecOn (motive := PermuteOn id asker node) xs g h fun s hs a _ => hg s a hs

/-! ### Pieces on their way -/

theorem permuteOn_pieceSend {dm dest replica tensor pos : Nat} {bs : List Byte} (h : PermuteOn id asker node s) :
    PermuteOn id asker node (pieceSend s id dm dest replica tensor pos bs) := h.units (outward_sendSeq 0 _).1

theorem permuteOn_sendPieces {dm dest replica per body tensor : Nat} {qs : List Piece} (h : PermuteOn id asker node s) :
    PermuteOn id asker node (sendPieces s id dm dest replica per body tensor qs) :=
  permuteOn_foldl (fun _ _ hs => permuteOn_pieceSend (permuteOn_foldl (fun _ _ => permuteOn_pieceSend) hs)) h

theorem permuteOn_sendHeaders {dm dest replica : Nat} {hs : List ShardHdr} (h : PermuteOn id asker node s) :
    PermuteOn id asker node (sendHeaders s id dm dest replica hs) := permuteOn_foldl (fun _ _ => permuteOn_pieceSend) h

theorem permuteOn_takeHeaders {hs : List ShardHdr} (h : PermuteOn id asker node s) :
    PermuteOn id asker node (takeHeaders s id hs) := h.mod (goesOn_of_moving (fun _ => rfl) fun _ => rfl)

theorem permuteOn_sysCopy {n : Nat} (h : PermuteOn id asker node s) : PermuteOn id asker node (sysCopy s n) :=
  h.of_same rfl rfl

/-! ### Pieces taken here -/

theorem formLoose_units (p : Parsed) (x : ShardAt) (qs : List Piece) : SameUnits s (formLoose s p x qs) :=
  List.foldlRecOn (motive := SameUnits s) _ _ (.refl s) fun _ hs _ _ =>
    hs.trans ((writeMem_units _ _).1.trans (writeMem_units _ _).1)

theorem PermuteOn.setMoving (h : PermuteOn id asker node s) (hm : mooringAt s id = some m) (hv : m.moving = some v) {x : Moving}
    (hb : x.begun = v.begun) (ha : x.asker = v.asker) :
    PermuteOn id asker node (modMooring s m.desc.id (fun y => { y with moving := some x })) := by
  obtain ⟨hs, n, w, hn, hw, hwb, hwa⟩ := h
  obtain rfl : m = n := Option.some.inj (hm.symm.trans hn)
  obtain rfl : v = w := Option.some.inj (hv.symm.trans hw)
  rw [mooringAt_id hm]
  exact ⟨hs, _, x, mooringAt_mod hn fun _ => rfl, rfl, hb.trans hwb, ha.trans hwa⟩

theorem permuteOn_takePiece {q : Piece} (hm : mooringAt s id = some m) (h : PermuteOn id asker node s) :
    PermuteOn id asker node (takePiece s m p q) := by
  unfold takePiece
  split
  next v t x hv ht hx =>
    dsimp only
    split
    · exact h
    · have h1 : ∀ x : Moving, x.begun = v.begun → x.asker = v.asker → PermuteOn id asker node _ := fun x => h.setMoving (x := x) hm hv
      split
      · split
        · exact h1 _ rfl rfl
        · refine PermuteOn.units ?_ (formLoose_units _ _ _)
          exact h1 _ rfl rfl
      · split
        · refine PermuteOn.units ?_ (writeSpans_units _ _ _)
          exact h1 _ rfl rfl
        · exact h1 _ rfl rfl
  next => exact h

theorem permuteOn_takePieces {qs : List Piece} (h : PermuteOn id asker node s) : PermuteOn id asker node (takePieces s id p qs) := by
  refine permuteOn_foldl (fun s q hs => ?_) h
  obtain ⟨n, -, hn, -⟩ := hs.moves
  rw [hn]
  exact permuteOn_takePiece hn hs

theorem permuteOn_givePieces {dm k pos : Nat} {subs : List (Nat × Nat)} {t : Tensor} {hs : List ShardHdr} {qs : List Piece}
    (h : PermuteOn id asker node s) : PermuteOn id asker node (givePieces s id dm subs p t k pos hs qs) := by
  unfold givePieces
  dsimp only
  split
  · exact h
  · split
    · exact permuteOn_takeHeaders (permuteOn_takePieces (permuteOn_sysCopy h))
    · exact permuteOn_sendHeaders (permuteOn_sendPieces h)

/-! ### The beginning (R143, R304, R458) -/

theorem permuteOn_permuteFromMap {od : MDesc} {osubs : List (Nat × Nat)} {place : Placement} {hdrs : List ShardHdr}
    (hid : m.desc.id = id) (h : PermuteOn id asker node s) :
    PermuteOn id asker node (permuteFromMap s m p v od osubs place hdrs) := by
  subst hid
  refine permuteOn_foldl (fun s q hs => permuteOn_foldl (fun s pos hs => permuteOn_foldl (fun s c hs => ?_)
    (permuteOn_givePieces hs)) hs) h
  split
  · exact hs
  · exact permuteOn_givePieces hs

theorem permuteOn_permuteFromPart {d : MDesc} {dm : Nat} {subs : List (Nat × Nat)} {hs : List ShardHdr} {saved : List Piece}
    (h : PermuteOn d.id asker node s) : PermuteOn d.id asker node (permuteFromPart s d dm subs p hs saved) :=
  permuteOn_foldl (fun _ _ => permuteOn_foldl fun _ _ => permuteOn_givePieces) h

theorem permuteOn_notePoisonLine {unit line : Nat} (h : PermuteOn id asker node s) :
    PermuteOn id asker node (notePoisonLine s (some id) unit line) := by
  have h1 : PermuteOn id asker node (bumpEcc s (eccUnitOf line) 1 1) := h.of_same rfl rfl
  obtain ⟨n, -, hn, -⟩ := h.moves
  unfold notePoisonLine
  dsimp only
  rw [Option.bind_some, hn]
  dsimp only
  split
  · exact h1
  · rw [mooringAt_id hn]
    refine PermuteOn.units ?_ (raiseEvent_units _ _ _ _)
    exact h1.mod (goesOn_of_moving (fun _ => rfl) fun _ => rfl)

theorem goesOn_failed : GoesOn fun y => { y with moving := y.moving.map (fun w => { w with failed := true }) } :=
  fun _ => ⟨rfl, fun w hw => ⟨{ w with failed := true }, congrArg (Option.map _) hw, rfl, rfl⟩⟩

theorem beginPermute_on (hm : mooringAt s id = some m) (hv : m.moving = some v) :
    PermuteOn id v.asker (selfNode s) (beginPermute s m p v) := by
  have hid := mooringAt_id hm
  have h0 : PermuteOn id v.asker (selfNode s) (modMooring s m.desc.id (fun y => { y with
      moving := y.moving.map (fun w => { w with begun := true }) })) := by
    rw [hid]
    exact ⟨rfl, _, { v with begun := true }, mooringAt_mod hm fun _ => rfl, by rw [hv]; rfl, rfl, rfl⟩
  unfold beginPermute
  dsimp only
  split
  next d subs pl hs _ =>
    generalize permutePoison _ m p v d subs pl = ls
    cases ls with
    | nil => exact permuteOn_permuteFromMap hid h0
    | cons a ls =>
      rw [hid] at h0 ⊢
      exact (permuteOn_foldl (fun _ _ => permuteOn_notePoisonLine) h0).mod goesOn_failed
  next name _ =>
    generalize partHere _ name = part
    cases part with
    | none => exact h0
    | some q =>
      rw [← hid] at h0 ⊢
      exact permuteOn_permuteFromPart h0

/-! ### The word on its end (R305) -/

theorem permuteFails_tells (ha : v.asker ≠ selfNode s) :
    permuteFails s id v = tellNode s v.asker (.permuteFailed id (selfNode s)) := if_neg ha

theorem reportMove_tells (ha : v.asker ≠ selfNode s) :
    reportMove s id v = tellNode s v.asker (.permuted id (selfNode s) v.bytes) := if_neg ha

/-- A move is over only where its end is awaited. -/
theorem completeMove_elsewhere (hm : mooringAt s id = some m) (hv : m.moving = some v) (ha : v.asker ≠ selfNode s) :
    completeMove s id = s := by
  unfold completeMove
  rw [hm]
  dsimp only
  rw [hv]
  exact if_pos (.inl ha)

theorem selfNode_tellNode (d : Nat) (msg : KeeperMsg) : selfNode (tellNode s d msg) = selfNode s :=
  congrArg (fun b : Boot => nodeOf b.coords) (tellNode_units d msg).2.1

/-- What PERMUTE does for a node that awaits this module's end, once the permute has begun. -/
def permuteWord (s : State) (id : Nat) (w : Moving) : State :=
  if w.failed then tellNode s w.asker (.permuteFailed id (selfNode s))
  else if permuteDone s id w then tellNode s w.asker (.permuted id (selfNode s) w.bytes) else s

theorem permuteWord_moorings (s : State) (id : Nat) (w : Moving) : (permuteWord s id w).moorings = s.moorings := by
  unfold permuteWord
  split
  · exact (tellNode_units _ _).2.2.1
  · split
    · exact (tellNode_units _ _).2.2.1
    · rfl

theorem execPermute_word {b : Bundle} {n : Mooring} {w : Moving} (hm : mooringAt s id = some m)
    (hb : bundleAt s m.bundle = some b) (hv : m.moving = some v)
    (ht : (if v.failed ∨ v.begun then s else beginPermute s m b.p v) = t) (hn : mooringAt t id = some n) (hw : n.moving = some w)
    (ha : w.asker ≠ selfNode t) : execPermute id s = .next (permuteWord t id w) := by
  have hidle : completeMove (tellNode t w.asker (.permuted id (selfNode t) w.bytes)) id =
      tellNode t w.asker (.permuted id (selfNode t) w.bytes) :=
    completeMove_elsewhere ((mooringAt_of_units (tellNode_units _ _) id).trans hn) hw fun hc => ha (hc.trans (selfNode_tellNode _ _))
  unfold execPermute
  rw [hm]
  dsimp only
  rw [hv, hb]
  dsimp only
  rw [ht, hn, Option.bind_some, hw]
  dsimp only
  rw [permuteFails_tells ha, reportMove_tells ha, hidle]
  rfl

theorem execPermute_failed {b : Bundle} (hm : mooringAt s id = some m) (hb : bundleAt s m.bundle = some b)
    (hv : m.moving = some v) (ha : v.asker ≠ selfNode s) (hf : v.failed = true) :
    execPermute id s = .next (tellNode s v.asker (.permuteFailed id (selfNode s))) := by
  rw [execPermute_word hm hb hv (if_pos (.inl hf)) hm hv ha]
  unfold permuteWord
  rw [if_pos hf]

theorem execPermute_begins {b : Bundle} (hm : mooringAt s id = some m) (hb : bundleAt s m.bundle = some b)
    (hv : m.moving = some v) (ha : v.asker ≠ selfNode s) (hf : v.failed = false) (hg : v.begun = false) :
    ∃ t n w, execPermute id s = .next t ∧ mooringAt t id = some n ∧ n.moving = some w ∧ w.begun = true := by
  obtain ⟨hself, n, w, hn, hw, hwb, hwa⟩ := beginPermute_on (p := b.p) hm hv
  refine ⟨_, n, w, execPermute_word hm hb hv (if_neg (by simp [hf, hg])) hn hw (by rwa [hwa, hself]), ?_, hw, hwb⟩
  unfold mooringAt at hn ⊢
  rwa [permuteWord_moorings]

theorem execPermute_begun {b : Bundle} (hm : mooringAt s id = some m) (hb : bundleAt s m.bundle = some b)
    (hv : m.moving = some v) (ha : v.asker ≠ selfNode s) (hf : v.failed = false) (hg : v.begun = true) :
    execPermute id s = .next
      (if permuteDone s id v then tellNode s v.asker (.permuted id (selfNode s) v.bytes) else s) := by
  rw [execPermute_word hm hb hv (if_pos (.inr hg)) hm hv ha]
  unfold permuteWord
  rw [hf, if_neg Bool.false_ne_true]

theorem permuteDone_iff (hg : v.begun = true) : permuteDone s id v = true ↔ v.want = [] ∧
    ∀ q ∈ s.router.src, ∀ p ∈ streamPackets q, ¬ (p.typ = 8 ∧ p.mooring = id ∧ bits p.arg 35 28 = 0xFF) := by
  unfold permuteDone
  rw [hg]
  simp [List.all_eq_true, or_assoc, imp_iff_not_or (a := _ = 8), imp_iff_not_or (a := _ = id)]

end

end Sys2Proof.Machine
end

section
/-! PROOFS. The obligation O16. -/

namespace Sys2Proof.Machine

/-- Settles O16: the contribution by contribute_mooring and contributeAhead_mooring, the verdict by the commit, skip, replay and
deferral of a mooring that nothing awaits, the others by what each instruction does. -/
theorem stepVerdicts : Obligations.StepVerdicts := by
  unfold Obligations.StepVerdicts
  intro s id m b _ hm hb _ all_ ended going
  have hfault : (ownVerdict s m).fault = (m.gathered.fault || all_.any fun l => (lanternAt s l).fault) := by
    rw [← show lanternsOf s m.desc.id = all_ from mooringAt_id hm ▸ rfl]
    rfl
  refine ⟨?contribution, ?second, ?verdict, ?timer, ?timerAhead, ?timerOff, ?install, ?announce, ?serving, ?permute⟩
  case contribution =>
    intro hk hg hs hp hmv hd
    have hin : StepInHand m := ⟨hk, runActive_of_going hg, hs, hmv, hd⟩
    by_cases hdue : failing (ownVerdict s m) = true ∨ ended
    · obtain ⟨y, f, hy, hn⟩ := contribute_mooring hm (failing (ownVerdict s m))
      have hstep : y.step = m.step := (congrArg Mooring.step hy :)
      refine ⟨_, ownVerdict s m, _, hfault, rfl, rfl, rfl, execVerdictContribution_due hm hin hp hdue,
        fun _ => ⟨hn, rfl, congrArg some hstep, congrArg (· + 1) hstep, rfl, rfl, (congrArg Mooring.committed hy :),
          (congrArg Mooring.lscale hy :)⟩, fun h1 h2 he => ?_⟩
      exact absurd hdue (not_or.2 ⟨by rw [failing_false.2 ⟨h1, h2⟩]; decide, he⟩)
    · obtain ⟨hf, he⟩ := not_or.1 hdue
      refine ⟨s, ownVerdict s m, m, hfault, rfl, rfl, rfl, execVerdictContribution_notDue hm hin hp (Bool.not_eq_true _ ▸ hf) he,
        fun h => ?_, fun _ _ _ => rfl⟩
      exact absurd (h.elim (fun h => .inl (failing_true.2 (.inl h))) fun h => h.imp_left fun h => failing_true.2 (.inr h)) hdue
  case second =>
    intro u hk hg hs hp hmv ha hd fault
    have he := execVerdictContribution_second hm ⟨hk, runActive_of_going hg, hs, hmv, hd⟩ hp
    refine ⟨fun hf hv => ?_, fun hfv => ?_⟩
    · rwa [if_neg (by rw [failing_false.2 ⟨hfault.trans hf, hv⟩]; decide)] at he
    · rw [if_pos (failing_true.2 (hfv.imp_left hfault.trans))] at he
      obtain ⟨y, hy, hn, hidle⟩ := contributeAhead_mooring hm hp hs ha hd
      exact ⟨_, _, _, he, hn, (congrArg Mooring.provisional hy :).trans hp, (congrArg Mooring.contrib hy :),
        (congrArg Mooring.step hy :), rfl, rfl, rfl, hfault, rfl, hidle⟩
  case verdict =>
    intro v u hc hp hch hpar hcn hta hlv hrr hd hops hleave hdec hu
    have hroot : RootAwaits s m v u := ⟨hc, hp, hch, hpar, hcn, hd⟩
    have hexec := hroot.execVerdict hm
    have hun : Unawaited s id m := ⟨hm, hops, hleave⟩
    refine ⟨?clean, ?overflow, ?replay, ?limit, ?deferred⟩
    case clean =>
      intro hf hver ho hav hover
      obtain ⟨n, hn, hun', hmem⟩ := commitStep_unawaited (p := b.p) (u := u) (v := v) hun hrr hlv hta hdec hu hover
      have hz := committedBy_facts b.p u v hrr
      rw [applyVerdict_clean hm hb hp (failing_false.2 ⟨hf, hver⟩) ho, hav] at hexec
      refine ⟨_, n, hexec, hun'.mooring, hn.committed.trans hz.committed, hn.replays.trans (committedBy_replays _ _ _ _),
        fun hac => ?_, fun w hac => ?_, hn.undo, hn.undoHdr, hn.headers.trans hz.headers, hn.epoch.trans hz.epoch,
        hn.decided.trans hz.decided, hn.runCommitted.trans hz.runCommitted, hn.scale.trans (hz.scale.trans (cleanScale_scale m)), hmem⟩
      · obtain ⟨h1, h2, h3, h4⟩ := committedBy_alone b.p u v hac hav
        exact ⟨hn.provisional.trans h1, hn.contrib.trans h2, hn.timer.trans h3, hn.step.trans h4⟩
      · obtain ⟨h1, h2, h3, h4⟩ := committedBy_next b.p u v hac
        exact ⟨hn.provisional.trans h1, hn.contrib.trans h2, hn.timer.trans h3, hn.step.trans h4⟩
    case overflow =>
      intro hf hver ho hma hl
      obtain ⟨w, hw, hun', hidle⟩ := hun.skipStep (p := b.p) (v := v) hrr hdec hu hl
      rw [applyVerdict_overflow hm hb hp (failing_false.2 ⟨hf, hver⟩) ho hd hma,
        applyAhead_idle hun'.mooring (Option.some_ne_none _).symm] at hexec
      exact ⟨_, _, hexec, hun'.mooring, hw.committed, rfl, rfl, rfl, congrArg (· - 1) hw.lscale,
        if_neg (hw.lscale ▸ Nat.ne_of_gt hl), hw.epoch, (skippedBy_decided hrr).trans (congrArg (· + 1) hw.decided),
        hw.runCommitted, hidle⟩
    case replay =>
      intro hfv hma hover hr
      obtain ⟨w, hw, hun', hidle⟩ := hun.replayStep (p := b.p) (u := u) (v := v) hover hr
      rw [applyVerdict_failing hm hb hp (failing_true.2 hfv) hd hma,
        applyAhead_idle hun'.mooring (Option.some_ne_none _).symm] at hexec
      exact ⟨_, _, hexec, hun'.mooring, hw.committed, rfl, rfl, rfl, hw.lscale, hw.clean, hw.epoch, congrArg (· + 1) hw.replays,
        hw.decided, hidle⟩
    case limit =>
      intro hfv hma hr hg
      obtain ⟨w, hw, hun'⟩ := hun.replayStep_last (p := b.p) (u := u) (v := v) (runActive_of_going hg) hr
      rw [applyVerdict_failing hm hb hp (failing_true.2 hfv) hd hma,
        applyAhead_idle hun'.mooring (Option.some_ne_none _).symm] at hexec
      exact ⟨_, _, hexec, hun'.mooring, hw.committed, rfl, rfl⟩
    case deferred =>
      intro hfv hma
      obtain ⟨y, hy, hun', hidle⟩ := hun.deferEpoch (.verdict u v)
      have hprov : y.provisional = some u := (congrArg Mooring.provisional hy :).trans hp
      have hdue : y.due = m.due := (congrArg Mooring.due hy :)
      rw [applyVerdict_deferred hm hb hp ((or_assoc.2 hfv).imp_left failing_true.2) hd hma,
        applyAhead_idle hun'.mooring fun hc => Nat.ne_of_lt (Nat.lt_succ_self u) (Option.some.inj (hprov.symm.trans hc))] at hexec
      exact ⟨_, _, hexec, hun'.mooring, by rw [hdue, hd]; rfl, (congrArg Mooring.epoch hy :), (congrArg Mooring.daymark hy :), hprov,
        (congrArg Mooring.committed hy :), hidle⟩
  case timer =>
    intro ht hp ha
    obtain ⟨t, he, hn, hmsg, hev, hl⟩ := execVerdictTimerExpiry_probes hm (by rw [ht, hp, Bool.and_self]) (.inl rfl) ha
    exact ⟨t, _, he, hn, rfl, mem_probed _ _, hmsg, hev, rfl, rfl, hl⟩
  case timerAhead =>
    intro ht hta ha
    obtain ⟨t, he, hn, -, hev, -⟩ := execVerdictTimerExpiry_probes hm (by rw [ht, Bool.false_and]) (.inr hta) ha
    exact ⟨t, _, he, hn, rfl, mem_probed _ _, hev⟩
  case timerOff => exact execVerdictTimerExpiry_off hm
  case install =>
    intro kept c u hc hs huniq
    obtain ⟨t, r, he, hn, hmem, hl⟩ := execTenderInstall_staged hm hb hc hs
    exact ⟨t, _, he, hn, List.length_map _, fun k d hd => withInstalled_tender hs huniq hd, hmem, hl⟩
  case announce =>
    intro hp ha hr
    obtain ⟨t, he, hn, hmsg, hl⟩ := execTenderAnnounce_root hm hp ha hr
    exact ⟨t, _, he, hn, rfl, rfl, rfl, rfl, rfl, hmsg, hl⟩
  case serving =>
    intro hk hg hs hc hends ha halone hops hleave hdec hu fault
    have hun : ∀ f, Unawaited (modMooring s id (servingEndsAt f)) id (servingEndsAt f m) := fun f =>
      (Unawaited.mk hm hops hleave).mod fun _ => rfl
    have hother : ∀ f, otherMembers (modMooring s id (servingEndsAt f)) (servingEndsAt f m) = [] := fun f => otherMembers_alone halone
    have hexec := fun f (hf : fault = f) => execServingStepEnd_decides hm hk (runActive_of_going hg) hs hc ha hf
    refine ⟨fun hf hend => ?_, fun hf hr => ?_⟩
    · obtain ⟨h1, hmem⟩ := (hun false).servingDecide_clean hends (hother false) hdec hu
      exact ⟨_, _, hexec false hf (.inr hend), h1.mooring, rfl, rfl, rfl, rfl, rfl, hmem⟩
    · obtain ⟨y, hy, h1⟩ := (hun true).servingDecide_fault (hother true) hr
      exact ⟨_, _, hexec true hf (.inl rfl), h1.mooring, (congrArg Mooring.committed hy :), (congrArg Mooring.step hy :), rfl,
        (congrArg (fun y => y.replays + 1) hy :)⟩
  case permute =>
    intro v hv ha
    refine ⟨fun hf => ?_, fun hf hg => execPermute_begins hm hb hv ha hf hg, fun hf hg hw hq => ?_, fun hf hg hw => ?_⟩
    · exact ⟨_, execPermute_failed hm hb hv ha hf, tellNode_tells ha _, (tellNode_units _ _).2.2.1⟩
    · have he := execPermute_begun hm hb hv ha hf hg
      rw [if_pos ((permuteDone_iff hg).2 ⟨hw, hq⟩)] at he
      exact ⟨_, he, tellNode_tells ha _, (tellNode_units _ _).2.2.1, (tellNode_units _ _).2.2.2.1⟩
    · have he := execPermute_begun hm hb hv ha hf hg
      rwa [if_neg fun hdone => hw ((permuteDone_iff hg).1 hdone).1] at he

end Sys2Proof.Machine
end

section
/-! PROOFS. The column sum over live blocks (R63, R64): the obligation O55. -/

namespace Sys2Proof.Machine

/-- Does a fed block set the sum's ovf bit (R63)? -/
def blockOvf (b : BlockSum) : Bool := decide (b.ea = 255) || decide (b.ew = 255) || b.sat

/-- The places a block is shifted down where the largest live exponent is top (R63). -/
def blockShift (top : Int) (b : BlockSum) : Nat := (top - blockExp b).toNat

/-- A block's sum at f fraction bits, shifted down to the exponent top, to the floor (R63). -/
def blockPart (f : Nat) (top : Int) (b : BlockSum) : Int := b.sum * 2 ^ f / 2 ^ blockShift top b

/-- Does a block lose bits in its shift (R63)? -/
def blockLoses (f : Nat) (top : Int) (b : BlockSum) : Bool :=
  decide (blockPart f top b * 2 ^ blockShift top b ≠ b.sum * 2 ^ f)

/-- The value of a column sum, f of its bits a fraction (R63). -/
def liveTotal (f : Nat) (top : Int) (live : List BlockSum) : Int := (live.map (blockPart f top)).sum

section
variable {f : Nat} {top up v : Int} {b : BlockSum} {bs : List BlockSum}

theorem blockLoses_iff : blockLoses f top b = true ↔ blockPart f top b * 2 ^ blockShift top b ≠ b.sum * 2 ^ f :=
  decide_eq_true_iff

/-- A shift of at most f places is exact, since it takes away zeros of the fraction only. -/
theorem lt_blockShift_of_loses (h : blockLoses f top b = true) : f < blockShift top b := by
  by_contra hle
  have hdvd : (2 : Int) ^ blockShift top b ∣ b.sum * 2 ^ f := (pow_dvd_pow 2 (not_lt.1 hle)).mul_left _
  exact blockLoses_iff.1 h (Int.ediv_mul_cancel hdvd)

/-- Only a block more than f places below the largest exponent loses bits (R63, R72). -/
theorem lt_sub_blockExp_of_loses (h : blockLoses f top b = true) : (f : Int) < top - blockExp b :=
  Int.lt_toNat.1 (lt_blockShift_of_loses h)

/-- The model's running maximum of the exponents is the list's maximum. -/
theorem max?_blockExp_cons (b : BlockSum) (bs : List BlockSum) :
    ((b :: bs).map blockExp).max? = some (bs.foldl (fun m b => max m (blockExp b)) (blockExp b)) := by
  rw [List.map_cons, List.max?_cons', List.foldl_map]

theorem columnSum_dead (h : bs.filter blockLive = []) : (columnSum f up bs).1 = ⟨0, 0, 0, bs.any blockOvf, false, true⟩ := by
  unfold columnSum
  rw [h]
  rfl

/-- The record of a column sum with a live block, over the largest exponent of its live blocks. -/
theorem columnSum_live (h : ((bs.filter blockLive).map blockExp).max? = some top) (hv : liveTotal f top (bs.filter blockLive) = v) :
    (columnSum f up bs).1 =
      ⟨v / 2 ^ f, (v % 2 ^ f).toNat * 2 ^ (32 - f), top + up,
        bs.any blockOvf || (decide (f = 8) && (decide (v < -8388608) || decide (8388607 < v))),
        (bs.filter blockLive).any (blockLoses f top), false⟩ := by
  unfold columnSum
  cases hl : bs.filter blockLive with
  | nil => simp [hl] at h
  | cons b0 rest =>
    rw [hl, max?_blockExp_cons] at h
    obtain rfl := Option.some.inj h
    rw [hl, liveTotal, List.sum_eq_foldl, List.foldl_map] at hv
    subst hv
    dsimp only
    rw [List.foldl_map, List.any_map]
    push_cast
    rfl

end

/-- Settles O55: the record is columnSum_dead's or columnSum_live's; its exponent is the largest of a list of integers, and a
block that loses bits is shifted more than f places. -/
theorem columnSums : Obligations.ColumnSums := by
  unfold Obligations.ColumnSums
  intro f up bs _ r bad live ex
  refine ⟨columnSum_dead, fun hne => ?_⟩
  obtain ⟨top, hmax⟩ : ∃ top, (live.map ex).max? = some top :=
    Option.isSome_iff_exists.1 (List.isSome_max?_of_ne_nil (by simpa using hne))
  obtain ⟨hmem, hle⟩ := List.max?_eq_some_iff.1 hmax
  have hr : r = _ := columnSum_live hmax rfl
  have hpow : (2 : Int) ^ f ≠ 0 := pow_ne_zero f two_ne_zero
  rw [hr]
  refine ⟨top, List.mem_map.1 hmem, fun b hb => hle _ (List.mem_map_of_mem hb), rfl, rfl, rfl, ?_, rfl, ?_, fun hi => ?_⟩
  · push_cast
    rw [Int.toNat_of_nonneg (Int.emod_nonneg _ hpow)]
    rfl
  · simp only [List.any_eq_true, blockLoses_iff]
    rfl
  · obtain ⟨b, hb, hloses⟩ := List.any_eq_true.1 hi
    exact ⟨b, hb, lt_sub_blockExp_of_loses hloses⟩

end Sys2Proof.Machine
end

section
/-! PROOFS. Errors of the module's memories: tests that begin, accumulator words that overflow, bursts of corrected errors (O44,
R91, R142, R143, R348). -/

namespace Sys2Proof.Machine

section
variable {s t : State} {l : Nat} {p : Part}

/-! ### The log of resets (R353) -/

theorem Work.resetLog {z : State} (h : Work z s) : s.keeper.resetLog = z.keeper.resetLog := by
  have hb := congrArg Keeper.resetLog h.keeper_works.books
  exact hb

theorem work_cutFlights (s : State) (l : Nat) : Work s (cutFlights s l) := by
  refine work_foldl (fun s c hs => work_foldl (fun s f hs => ?_) hs) .refl
  unfold cutFlight
  split
  · exact hs
  · exact work_writeSome hs

theorem advanceDaymark_resetLog (s : State) (d : Domain) : (advanceDaymark s d).keeper.resetLog = s.keeper.resetLog := by
  unfold advanceDaymark
  split
  · cases d <;> rfl
  · rfl

theorem stopLantern_resetLog (s : State) (l : Nat) : (stopLantern s l).keeper.resetLog = s.keeper.resetLog := by
  have hc := (work_cutFlights s l).resetLog
  unfold stopLantern
  generalize cutFlights s l = u at hc
  dsimp only
  split
  · exact (advanceDaymark_resetLog _ _).trans hc
  · exact hc

theorem endBist_resetLog (s : State) (o : LongOp) (status : Nat) : (endBist s o status).keeper.resetLog = s.keeper.resetLog := by
  unfold endBist
  dsimp only
  refine (work_finishOp .refl).resetLog.trans ?_
  show (ite _ _ _ : State).keeper.resetLog = _
  split
  · split
    · rename_i hw
      have hk := congrArg Keeper.resetLog (keeperWrite_units hw).2.2
      exact hk
    · rfl
  · rfl

theorem bistCut_resetLog (s : State) (t : Nat) : (bistCut s t).keeper.resetLog = s.keeper.resetLog := by
  unfold bistCut
  split
  · split
    · exact endBist_resetLog ..
    · rfl
  · rfl

theorem lanternEvent_resetLog (s : State) (code l unit detail : Nat) (more : List Nat) :
    (lanternEvent s code l unit detail more).keeper.resetLog = s.keeper.resetLog := by
  unfold lanternEvent
  exact (work_raiseEventIn .refl).resetLog

/-! ### The start of a lantern's compute reset (R341, R344) -/

/-- What a stopped lantern still holds (R342): its tags, and its fault flag where it was set. -/
theorem stopLantern_keeps (hl : l < s.lanterns.length) :
    (lanternAt (stopLantern s l) l).accTag = (lanternAt s l).accTag ∧
    (lanternAt (stopLantern s l) l).gradTag = (lanternAt s l).gradTag ∧
    ((lanternAt s l).fault = true → (lanternAt (stopLantern s l) l).fault = true) := by
  have hc := (sameCore_cutFlights s l).1
  have hl' : l < (cutFlights s l).lanterns.length := by rw [hc.2.2.2.1]; exact hl
  have hx := lanternAt_of_units hc l
  unfold stopLantern
  generalize cutFlights s l = u at hl' hx
  dsimp only
  split
  · rw [advanceDaymark_lantern Lantern.accTag (by intro _ _; rfl), advanceDaymark_lantern Lantern.gradTag (by intro _ _; rfl),
      advanceDaymark_lantern Lantern.fault (by intro _ _; rfl), lanternAt_modLantern_same _ _ _ hl', hx]
    exact ⟨rfl, rfl, fun h => by simp [h]⟩
  · rw [lanternAt_modLantern_same _ _ _ hl', hx]
    exact ⟨rfl, rfl, fun h => by simp [h]⟩

/-- The books with one reset of the lantern more (R353). -/
def resetNoted (s : State) (l : Nat) : State :=
  modKeeper (bistCut s (l / 48)) (fun k => { k with resetLog := k.resetLog ++ [(.lantern l, nowNs s)] })

/-- A stopped lantern as its reset counts and tests it (R341, R348, R368). -/
def countedReset (test : Bool) (x : Lantern) : Lantern :=
  let y := { x with fcnt := bump x.fcnt 2 1 }
  let y := if test then setModes .test y else y
  { y with rst := { y.rst with test := test } }

theorem countedReset_keeps (test : Bool) (x : Lantern) :
    (countedReset test x).rst = { x.rst with test := test } ∧ (countedReset test x).accTag = x.accTag ∧
    (countedReset test x).gradTag = x.gradTag ∧ (countedReset test x).fault = x.fault := by
  cases test <;> exact ⟨rfl, rfl, rfl, rfl⟩

/-- The state in which a lantern's reset is announced. -/
def resetBegun (s : State) (l : Nat) (test : Bool) : State :=
  lanternEvent (modLantern (stopLantern (resetNoted s l) l) l (countedReset test)) evReset l l 0 []

/-- The first reset of a lantern in its window, under a policy that allows more, does not retire it (R344, R354). -/
theorem startLanternReset_first (test : Bool) (ha : (lanternAt s l).rst.active = false) (ht : (towerAt s (l / 48)).rst.active = false)
    (hlog : s.keeper.resetLog = []) (hlim : 2 ≤ s.keeper.policy.lanternResets) :
    startLanternReset s l test = resetBegun s l test := by
  have he : startLanternReset s l test =
      if s.keeper.policy.lanternResets ≤ resetsWithin (resetBegun s l test) (.lantern l) s.keeper.policy.lanternWin then
        retireLantern (resetBegun s l test) l else resetBegun s l test := by
    unfold startLanternReset bumpLantern
    rw [if_neg (by simp [ha, ht])]
    simp only [modLantern_twice]
    rfl
  have hlen : (resetBegun s l test).keeper.resetLog = [(.lantern l, nowNs s)] := by
    unfold resetBegun
    rw [lanternEvent_resetLog, modLantern_keeper, stopLantern_resetLog]
    show (bistCut s (l / 48)).keeper.resetLog ++ _ = _
    rw [bistCut_resetLog, hlog, List.nil_append]
  have hle : resetsWithin (resetBegun s l test) (.lantern l) s.keeper.policy.lanternWin ≤ 1 := by
    unfold resetsWithin
    rw [hlen]
    exact List.length_filter_le _ _
  rw [he, if_neg (by omega)]

/-- A lantern that has gone into a compute reset, with a test or without, as it was before but for what the reset ends (R341,
R342). -/
structure InReset (x y : Lantern) (test : Bool) : Prop where
  active  : y.rst.active = true
  tested  : y.rst.test = test
  idle    : y.running = false
  accTag  : y.accTag = x.accTag
  gradTag : y.gradTag = x.gradTag
  fault   : x.fault = true → y.fault = true

theorem startLanternReset_inReset (hi : s.Inv) (hl : l < 192) (test : Bool) (ha : (lanternAt s l).rst.active = false)
    (ht : (towerAt s (l / 48)).rst.active = false) (hlog : s.keeper.resetLog = [])
    (hlim : 2 ≤ s.keeper.policy.lanternResets) : InReset (lanternAt s l) (lanternAt (startLanternReset s l test) l) test := by
  have hidle := startLanternReset_idle hi hl test ha ht
  rw [startLanternReset_first test ha ht hlog hlim] at hidle ⊢
  have hu : SameUnits s (resetNoted s l) := (bistCut_units (s := s) (l / 48)).trans ⟨rfl, rfl, rfl, rfl, rfl, rfl, rfl, rfl⟩
  have hlen : l < (resetNoted s l).lanterns.length := by rw [hu.2.2.2.1, hi.1.1.1]; exact hl
  obtain ⟨hacc, hgrad, hfault⟩ := stopLantern_keeps hlen
  obtain ⟨hrst, -⟩ := stopLantern_same hlen
  rw [lanternAt_of_units hu] at hacc hgrad hfault
  have hx : lanternAt (resetBegun s l test) l = countedReset test (lanternAt (stopLantern (resetNoted s l) l) l) := by
    unfold resetBegun
    rw [lanternAt_lanternEvent, lanternAt_modLantern_same _ _ _ (by rwa [stopLantern_length])]
  obtain ⟨crst, cacc, cgrad, cfault⟩ := countedReset_keeps test (lanternAt (stopLantern (resetNoted s l) l) l)
  rw [hx] at hidle ⊢
  exact ⟨by rw [crst, hrst], by rw [crst], hidle, cacc.trans hacc, cgrad.trans hgrad, fun h => cfault.trans (hfault h)⟩

/-! ### Tags of a word with an uncorrectable error (R91) -/

/-- A key given a value other than the default reads as it. -/
theorem tget_tput_same {α : Type} [DecidableEq α] {d v : α} (hv : v ≠ d) (g : Table α) (n : Nat) : tget d (tput d g n v) n = v := by
  induction g with
  | nil => simp [tput, tget, hv]
  | cons q g ih =>
    obtain ⟨k, u⟩ := q
    unfold tput
    split
    · simp [tget]
    · next hlt =>
      split
      · next he => simp [tget]
      · next hne => simpa [tget, hlt, hne] using ih

/-- A key above the one written reads as before. -/
theorem tget_tput_above {α : Type} [DecidableEq α] {d v : α} (hv : v ≠ d) (g : Table α) {n m : Nat} (h : n < m) :
    tget d (tput d g n v) m = tget d g m := by
  have hm : ¬ m < n ∧ n ≠ m := by omega
  induction g with
  | nil => simp [tput, tget, hv, hm]
  | cons q g ih =>
    obtain ⟨k, u⟩ := q
    unfold tput
    split
    · simp [tget, hm]
    · next hlt =>
      split
      · next he =>
        subst he
        simp [tget, hm]
      · simp [tget, ih]

/-- A tag with a bit set that an empty one has not is not the empty tag. -/
theorem or_ne_of_getLsbD {x b d : BitVec 48} {i : Nat} (hb : b.getLsbD i = true) (hd : d.getLsbD i = false) : x ||| b ≠ d := by
  intro h
  have hi := congrArg (fun y : BitVec 48 => y.getLsbD i) h
  simp [hb, hd] at hi

theorem setTagBits_same {g : Table (BitVec 48)} {k i : Nat} {b : BitVec 48} (h42 : b.getLsbD 42 = true) (hb : b.getLsbD i = true) :
    (tget emptyTag (setTagBits g k b) k).getLsbD i = true := by
  unfold setTagBits
  rw [tget_tput_same (or_ne_of_getLsbD h42 (by decide)), BitVec.getLsbD_or, hb, Bool.or_true]

theorem setTagBits_above {g : Table (BitVec 48)} {k m : Nat} {b : BitVec 48} (h42 : b.getLsbD 42 = true) (h : k < m) :
    tget emptyTag (setTagBits g k b) m = tget emptyTag g m := tget_tput_above (or_ne_of_getLsbD h42 (by decide)) _ h

/-- Column c of word w has bit b of its tag set. -/
def TagBit (g : Table (BitVec 48)) (w c b : Nat) : Prop := (tget emptyTag g (accKey w c)).getLsbD b = true

theorem overflowWord_grad (x : Lantern) (w c : Nat) : TagBit (overflowWord x true w c).gradTag w c 42 :=
  setTagBits_same (by decide) (by decide)

/-- OVF of the entry of either half of the word, in its own tag or, for an odd word, in that of the word before (R88, R91). -/
theorem overflowWord_acc (x : Lantern) (w c : Nat) : TagBit (overflowWord x false w c).accTag w c 42 ∧
    TagBit (overflowWord x false w c).accTag w c 18 ∧ (w % 2 = 1 → TagBit (overflowWord x false w c).accTag (w - 1) c 42) := by
  have own (i : Nat) (hi : (BitVec.ofNat 48 (2 ^ 42) ||| BitVec.ofNat 48 (2 ^ 18)).getLsbD i = true) :
      TagBit (overflowWord x false w c).accTag w c i := by
    unfold overflowWord TagBit
    rw [if_neg Bool.false_ne_true]
    dsimp only
    split
    · rw [setTagBits_above (by decide) (by unfold accKey; omega)]
      exact setTagBits_same (by decide) hi
    · exact setTagBits_same (by decide) hi
  refine ⟨own 42 (by decide), own 18 (by decide), fun h => ?_⟩
  unfold overflowWord TagBit
  rw [if_neg Bool.false_ne_true]
  dsimp only
  rw [if_pos h]
  exact setTagBits_same (by decide) (by decide)

/-! ### Tests of parts that stay in use (R348) -/

/-- State t is u with the test of a part begun. -/
def TestBegun (t u : State) (p : Part) : Prop :=
  p ∈ t.keeper.tests ∧ t = { u with keeper := { u.keeper with tests := t.keeper.tests } } ∧
    ∀ q ∈ t.keeper.tests, q ∈ u.keeper.tests ∨ q = p

theorem startTest_begun (u : State) (p : Part) : TestBegun (startTest u p) u p := by
  unfold startTest
  split
  · next h => exact ⟨by simpa using h, rfl, fun q hq => .inl hq⟩
  · exact ⟨List.mem_append_right _ (List.mem_singleton_self _), rfl, fun q hq => by simpa [modKeeper] using hq⟩

theorem testPart_beside (u : State) (h : testedInReset p = false) : testPart u p = startTest u p := by
  unfold testPart
  split
  · rw [h]
    rfl
  · rfl

theorem partOfLine_beside (a : Nat) : testedInReset (partOfLine a) = false := by
  unfold partOfLine
  split
  · rfl
  · split <;> rfl
  · rfl

/-! ### Corrected errors -/

/-- The counters of a unit that has any advance (R142). -/
theorem bumpEcc_find {u : EccUnit} {v : List Nat} (i n : Nat) (h : s.keeper.ecc.find? (fun q => q.1 == u) = some (u, v)) :
    (bumpEcc s u i n).keeper.ecc.find? (fun q => q.1 == u) = some (u, bump v i n) := by
  have hany : s.keeper.ecc.any (fun q => q.1 == u) = true :=
    List.any_eq_true.2 ⟨_, List.mem_of_find?_eq_some h, beq_self_eq_true u⟩
  have hfun : (fun q : EccUnit × List Nat => q.1 == u) ∘ (fun q => if q.1 = u then (u, bump q.2 i n) else q) = fun q => q.1 == u := by
    funext q
    by_cases hq : q.1 = u <;> simp [hq]
  unfold bumpEcc modKeeper
  simp only [hany, if_true]
  rw [List.find?_map, hfun, h]
  simp

/-- The burst of a part that stays in use: its errors counted, its test begun (R348, R354). -/
theorem execCorrectedEccBurst_begun {u : EccUnit} (hu : partEcc p = some u) (hp : partThere s p = true) (hb : testedInReset p = false) :
    ∃ t, execCorrectedEccBurst p s = .next t ∧ TestBegun t (bumpEcc s u 0 s.keeper.policy.eccBurst) p := by
  refine ⟨startTest (bumpEcc s u 0 s.keeper.policy.eccBurst) p, ?_, startTest_begun ..⟩
  unfold execCorrectedEccBurst
  rw [hu]
  dsimp only
  rw [if_pos hp, testPart_beside _ hb]

/-- The burst of an accumulator array: its lantern goes into a compute reset for the array's test (R348). -/
theorem execCorrectedEccBurst_acc (hi : s.Inv) (hl : l < 192) (hp : (lanternAt s l).phys.isSome = true)
    (ha : (lanternAt s l).rst.active = false) (ht : (towerAt s (l / 48)).rst.active = false) (hlog : s.keeper.resetLog = [])
    (hlim : 2 ≤ s.keeper.policy.lanternResets) :
    ∃ t, execCorrectedEccBurst (.accArray l) s = .next t ∧ InReset (lanternAt s l) (lanternAt t l) true :=
  ⟨_, congrArg Host.Outcome.next (if_pos hp),
    startLanternReset_inReset (s := bumpEcc s (.acc l) 0 s.keeper.policy.eccBurst) (inv_bumpEcc hi) hl true ha ht hlog hlim⟩

/-! ### Uncorrectable errors -/

/-- A lantern with a word found uncorrectable, before its array is tested (R91): the fault flag, the word's entries, its count, its
event. -/
def wordLost (s : State) (l : Nat) (grad : Bool) (w c : Nat) : State :=
  lanternEvent (bumpEcc (modLantern (setFault s l) l (fun x => overflowWord x grad w c)) (if grad then .grad l else .acc l) 1 1)
    evEcc l l w []

theorem execMemoryScrub_word {w c : Nat} (grad : Bool) (hp : (lanternAt s l).phys.isSome = true) (hw : w < 1024) (hc : c < 128) :
    execMemoryScrub (.accWord l grad w c) .uncorrectable s = .next (startLanternReset (wordLost s l grad w c) l true) := by
  have hok : accWordOk s l w c = true := by simp [accWordOk, hp, hw, hc]
  unfold execMemoryScrub
  simp only [hok, Bool.not_true, Bool.false_eq_true, if_false]
  cases grad <;> rfl

theorem wordLost_lantern (hl : l < s.lanterns.length) (grad : Bool) (w c : Nat) :
    lanternAt (wordLost s l grad w c) l = overflowWord { lanternAt s l with fault := true } grad w c := by
  unfold wordLost setFault
  rw [lanternAt_lanternEvent, modLantern_twice]
  exact lanternAt_modLantern_same _ _ _ hl

theorem overflowWord_keeps (x : Lantern) (grad : Bool) (w c : Nat) :
    (overflowWord x grad w c).fault = x.fault ∧ (overflowWord x grad w c).rst = x.rst := by
  cases grad <;> exact ⟨rfl, rfl⟩

theorem wordLost_rest (s : State) (l : Nat) (grad : Bool) (w c : Nat) :
    (wordLost s l grad w c).keeper.resetLog = s.keeper.resetLog ∧ (wordLost s l grad w c).keeper.policy = s.keeper.policy ∧
    ∀ k, towerAt (wordLost s l grad w c) k = towerAt s k := by
  refine ⟨lanternEvent_resetLog .., ?_, fun k => towerAt_lanternEvent ..⟩
  obtain ⟨e, -, -, -, ho⟩ := raiseEventIn_outward
    (s := bumpEcc (modLantern (setFault s l) l (fun x => overflowWord x grad w c)) (if grad then .grad l else .acc l) 1 1)
    (.lantern l) evEcc (lanternMooring _ l) l w []
  obtain ⟨-, -, -, -, hpol, -⟩ := ho.books
  exact hpol

theorem wordLost_inv (hi : s.Inv) (l : Nat) (grad : Bool) (w c : Nat) : (wordLost s l grad w c).Inv :=
  inv_lanternEvent (inv_bumpEcc (inv_modLantern (fun _ => ok_overflowWord) (inv_setFault hi)))

/-- OVF of every entry that word w of column c can serve (R88, R91). -/
def WordOverflows (x : Lantern) (grad : Bool) (w c : Nat) : Prop :=
  (grad = true → TagBit x.gradTag w c 42) ∧
  (grad = false → TagBit x.accTag w c 42 ∧ TagBit x.accTag w c 18 ∧ (w % 2 = 1 → TagBit x.accTag (w - 1) c 42))

theorem overflowWord_overflows (x : Lantern) (grad : Bool) (w c : Nat) : WordOverflows (overflowWord x grad w c) grad w c :=
  ⟨by rintro rfl; exact overflowWord_grad x w c, by rintro rfl; exact overflowWord_acc x w c⟩

/-- An uncorrectable accumulator word (R91, R348). -/
theorem execMemoryScrub_wordLost (hi : s.Inv) (hl : l < 192) (hp : (lanternAt s l).phys.isSome = true) {w c : Nat} (hw : w < 1024)
    (hc : c < 128) (grad : Bool) (hlog : s.keeper.resetLog = []) (hlim : 2 ≤ s.keeper.policy.lanternResets) :
    ∃ t, execMemoryScrub (.accWord l grad w c) .uncorrectable s = .next t ∧ (lanternAt t l).fault = true ∧
      WordOverflows (lanternAt t l) grad w c ∧ (∃ e, HasEvent e t ∧ e.code = evEcc ∧ e.unit = l ∧ e.detail = w) ∧
      ((lanternAt s l).rst.active = false → (towerAt s (l / 48)).rst.active = false →
        (lanternAt t l).rst.active = true ∧ (lanternAt t l).rst.test = true ∧ (lanternAt t l).running = false) := by
  refine ⟨_, execMemoryScrub_word grad hp hw hc, ?_⟩
  obtain ⟨e, hev, hcode, hunit, hdet⟩ : ∃ e, HasEvent e (wordLost s l grad w c) ∧ e.code = evEcc ∧ e.unit = l ∧ e.detail = w :=
    lanternEvent_hasEvent ..
  have hevent : ∃ e, HasEvent e (startLanternReset (wordLost s l grad w c) l true) ∧ e.code = evEcc ∧ e.unit = l ∧ e.detail = w :=
    ⟨e, hasEvent_startLanternReset hev, hcode, hunit, hdet⟩
  have hx := wordLost_lantern (s := s) (l := l) (by rw [hi.1.1.1]; exact hl) grad w c
  have hover := hx ▸ overflowWord_overflows _ grad w c
  obtain ⟨hfault, hrst⟩ := hx ▸ overflowWord_keeps { lanternAt s l with fault := true } grad w c
  obtain ⟨hlog', hpol, htower⟩ := wordLost_rest s l grad w c
  have hinv := wordLost_inv hi l grad w c
  generalize wordLost s l grad w c = u at *
  by_cases hfree : (lanternAt s l).rst.active = false ∧ (towerAt s (l / 48)).rst.active = false
  · have h := startLanternReset_inReset hinv hl true (by rw [hrst]; exact hfree.1) (by rw [htower]; exact hfree.2)
      (hlog'.trans hlog) (hpol ▸ hlim)
    refine ⟨h.fault hfault, ?_, hevent, fun _ _ => ⟨h.active, h.tested, h.idle⟩⟩
    unfold WordOverflows
    rw [h.accTag, h.gradTag]
    exact hover
  · have hstay : startLanternReset u l true = u := by
      unfold startLanternReset
      rw [if_pos]
      rw [hrst, htower]
      by_contra hn
      exact hfree (by simpa using hn)
    rw [hstay] at hevent ⊢
    exact ⟨hfault, hover, hevent, fun h1 h2 => absurd ⟨h1, h2⟩ hfree⟩

/-- A line found uncorrectable for the first time: poisoned, counted, reported, and its part's test begun (R142, R143, R348). -/
theorem execMemoryScrub_lineLost {a : Nat} (hs : scrubbed s a = true) (hn : s.poison.contains (lineOf a) = false) :
    ∃ (t : State) (e : Event), execMemoryScrub (.line a) .uncorrectable s = .next t ∧ SameUnits s t ∧ e.code = evEcc ∧
      LogGrows (logged s e).flash t.flash ∧ partOfLine a ∈ t.keeper.tests ∧
      (HostRings s → t.mem = s.mem ∧ t.poison = insertAsc s.poison (lineOf a) ∧
        t.keeper = { (bumpEcc s (eccUnitOf a) 1 1).keeper with tests := t.keeper.tests, serial := t.keeper.serial }) := by
  obtain ⟨e, hcode, -, -, hunits, hflash, hkeeper, hrings⟩ := raiseEventIn_outward (s := addPoison (bumpEcc s (eccUnitOf a) 1 1) a)
    (partDomain (partOfLine a)) evEcc (lineMooring s a) (eccIndex (eccUnitOf a)) (lineOf a / 64) []
  have hx : execMemoryScrub (.line a) .uncorrectable s = .next (startTest (raiseEventIn (addPoison (bumpEcc s (eccUnitOf a) 1 1) a)
      (partDomain (partOfLine a)) evEcc (lineMooring s a) (eccIndex (eccUnitOf a)) (lineOf a / 64) []) (partOfLine a)) := by
    unfold execMemoryScrub
    simp only [hs, hn, Bool.not_true, Bool.false_eq_true, if_false]
    rw [testPart_beside _ (partOfLine_beside a)]
  generalize raiseEventIn (addPoison (bumpEcc s (eccUnitOf a) 1 1) a) _ _ _ _ _ _ = u at hx hunits hflash hkeeper hrings
  obtain ⟨hmem, hu, -⟩ := startTest_begun u (partOfLine a)
  generalize startTest u (partOfLine a) = t at hx hmem hu
  refine ⟨t, e, hx, ?_, hcode, ?_, hmem, fun hr => ?_⟩
  · rw [hu]
    exact hunits
  · rw [hu]
    exact hflash
  · obtain ⟨h1, h2, h3, -⟩ := hrings hr
    refine ⟨by rw [hu]; exact h1, by rw [hu]; exact h2, ?_⟩
    have hbooks := congrArg (fun k : Keeper => { k with tests := t.keeper.tests, serial := u.keeper.serial }) h3
    have hserial := congrArg (fun v : State => v.keeper.serial) hu
    exact (congrArg State.keeper hu).trans (hbooks.trans (by rw [show t.keeper.serial = u.keeper.serial from hserial]; rfl))

/-- A line found uncorrectable again (R142). -/
theorem execMemoryScrub_lineAgain {a : Nat} (hs : scrubbed s a = true) (hp : s.poison.contains (lineOf a) = true) :
    execMemoryScrub (.line a) .uncorrectable s = .next (bumpEcc s (eccUnitOf a) 1 1) := by
  unfold execMemoryScrub
  simp only [hs, Bool.not_true, Bool.false_eq_true, if_false]
  exact congrArg Host.Outcome.next (if_pos hp)

theorem lineOf_eq (a : Nat) : lineOf a = a / 64 * 64 := by
  unfold lineOf
  omega

end

/-- Settles O44: each clause is the lemma on its command, a burst's test is startTest_begun's, and a reset that an array's test needs is
startLanternReset_inReset's. -/
theorem memoryErrors : Obligations.MemoryErrors := by
  unfold Obligations.MemoryErrors
  intro began
  refine ⟨fun s a n => ⟨fun hs hn => ?_, fun h => ?_⟩, fun s a hs => ?_, fun s l w c n grad hp hw hc hn => ?_, fun s l b hp hb => ?_,
    fun s l w c grad hi hl hp hw hc hlog hlim => ?_, fun s a hs hn => ?_,
    fun s a hs hp => execMemoryScrub_lineAgain hs (by rwa [lineOf_eq]), fun s u i n v h => bumpEcc_find i n h,
    fun s k j hk hj => execCorrectedEccBurst_begun (p := .sramSub k j) rfl (by simp [partThere, hk, hj]) rfl,
    fun s l b hp hb => execCorrectedEccBurst_begun (p := .storeBank l b) rfl (by simp [partThere, hp, hb]) rfl,
    fun s l hi hl hp ha ht hlog hlim => ?_⟩
  · exact congrArg Host.Outcome.next (if_pos (by simp [hs, hn]))
  · refine congrArg Host.Outcome.next (if_neg ?_)
    rcases h with h | h <;> simp [h]
  · exact congrArg Host.Outcome.next (if_pos (by simp [hs]))
  · exact congrArg Host.Outcome.next (if_pos (by simp [accWordOk, hp, hw, hc, hn]))
  · exact congrArg Host.Outcome.next (if_pos (by simp [hp, hb]))
  · obtain ⟨t, hx, hfault, ⟨hgrad, hacc⟩, hlast⟩ := execMemoryScrub_wordLost hi hl hp hw hc grad hlog hlim
    exact ⟨t, hx, hfault, hgrad, hacc, hlast⟩
  · rw [← lineOf_eq] at hn ⊢
    exact execMemoryScrub_lineLost hs hn
  · obtain ⟨t, hx, h⟩ := execCorrectedEccBurst_acc hi hl hp ha ht hlog hlim
    exact ⟨t, hx, h.active, h.tested, h.idle⟩

end Sys2Proof.Machine
end

section
/-! PROOFS. How a chain's instruction issues where nothing holds it (R119, R135), results that agree where a lane is written
(R122), and exact comparison (R126). -/

namespace Sys2Proof.Machine

section
variable {s : State} {v u : VEngine} {l op vd : Nat} {f : VFields} {c : Instr} {P : VEngine → Prop}

/-! ### Issue -/

theorem vecOk_of_inv (hi : s.Inv) (l : Nat) : (lanternAt s l).vec.Ok := lanternOk_vec (lanternOk_lanternAt hi)

/-- An instruction that is no load waits for the registers of pending loads alone (R135). -/
theorem stalls_of_not_load (h : stalls v 0 f = false) (hop : op ≠ 0x68 ∧ op ≠ 0x6A ∧ op ≠ 0x6C) : stalls v op f = false := by
  simpa [stalls, hop] using h

/-- Only the sites of REQ and REQR have controls of the Keeper's (R207). -/
theorem siteFields_of_not_site (s : State) (l : Nat) (f : VFields) (hop : op ≠ 0x50 ∧ op ≠ 0x51) : siteFields s l op f = f := by
  simp [siteFields, hop]

theorem issueOne_running (hr : Running s l f) (hs : stalls (lanternAt s l).vec op f = false) (act : State → VFields → State) :
    issueOne s l op f act = retireIns (act s (siteFields s l op f)) l := by
  simp [issueOne, hr.1, hr.2.1, hs]

/-- Not a load, and no site of a requantisation: such an instruction issues with its own fields as soon as its registers are there. -/
def PlainOp (op : Nat) : Prop := (op ≠ 0x68 ∧ op ≠ 0x6A ∧ op ≠ 0x6C) ∧ op ≠ 0x50 ∧ op ≠ 0x51

theorem issueOne_plain (hr : Running s l f) (hop : PlainOp op) (act : State → VFields → State) :
    issueOne s l op f act = retireIns (act s f) l := by
  rw [issueOne_running hr (stalls_of_not_load hr.2.2 hop.1), siteFields_of_not_site s l f hop.2]

/-- A lane instruction gives what its engine operation gives (R119). -/
theorem issues_lane (hi : s.Inv) (hl : l < 192) (hr : Running s l f) {g : VEngine → VFields → VEngine}
    (hx : exec c s = .next (issueLane s l op f g)) (hop : PlainOp op) (hP : P (g (lanternAt s l).vec f)) : Issues c s l P := by
  unfold issueLane at hx
  rw [issueOne_plain hr hop] at hx
  exact issues_engine (by rw [hi.1.1.1]; exact hl) hx hP

theorem issues_keyed (hi : s.Inv) (hl : l < 192) (hr : Running s l f) {g : VEngine → VFields → DrawKey → VEngine}
    (hx : exec c s = .next (issueKeyed s l op f g)) (hop : PlainOp op) (hP : P (g (lanternAt s l).vec f (drawKey s l f.vd))) :
    Issues c s l P := by
  unfold issueKeyed at hx
  rw [issueOne_plain hr hop] at hx
  exact issues_engine (by rw [hi.1.1.1]; exact hl) hx hP

/-! ### Results -/

/-- Only the results of written lanes count. -/
theorem Wrote.congr {w : BitVec 128} {h h' : Nat → Res} {g : Nat → Int} (hw : Wrote v u vd w h g)
    (hh : ∀ c, c < 128 → w.getLsbD c = true → h c = h' c) : Wrote v u vd w h' g := by
  obtain ⟨hregs, hother, htakes, hg, hg', b, hb, hu⟩ := hw
  refine ⟨hregs, hother, fun c hc hcw => hh c hc hcw ▸ htakes c hc hcw, hg, hg', b, hb.trans ?_, hu⟩
  refine exists_congr fun c => and_congr_right fun hc => and_congr_right fun hcw => ?_
  rw [hh c hc hcw]

theorem bit_immNat (f : VFields) (k : Nat) : bit (immNat f) k = f.imm.getLsbD k := rfl

theorem liveLanes_lt {w : BitVec 128} {q c : Nat} (h : c ∈ liveLanes w q) : c < 128 :=
  BitVec.lt_of_getLsbD ((mem_liveLanes w q c).1 h).2

/-- The live lanes of a group in the order of all lanes. -/
theorem liveLanes_eq (w : BitVec 128) (q : Nat) :
    liveLanes w q = (List.range 128).filter (fun c => w.getLsbD c && c / 32 == q) := by
  have hs : ∀ xs ys : List Nat, xs.Pairwise (· < ·) → ys.Pairwise (· < ·) → (∀ c, c ∈ xs ↔ c ∈ ys) → xs = ys := fun xs ys hx hy h =>
    ((List.perm_ext_iff_of_nodup hx.nodup hy.nodup).2 h).eq_of_pairwise' hx hy
  refine hs _ _ ?_ (List.pairwise_lt_range.filter _) fun c => ?_
  · refine List.Pairwise.filter _ (List.pairwise_map.2 (List.pairwise_lt_range.imp fun h => by omega))
  · rw [mem_liveLanes]
    simp only [List.mem_filter, List.mem_range, Bool.and_eq_true, beq_iff_eq]
    exact ⟨fun ⟨h1, h2⟩ => ⟨BitVec.lt_of_getLsbD h2, h2, h1⟩, fun ⟨_, h2, h1⟩ => ⟨h1, h2⟩⟩

/-! ### Exact comparison (R126) -/

/-- The value of a mantissa at an exponent (R113). -/
def exactVal (x : Int × Int) : Rat := x.1 * 2 ^ x.2

/-- A value in units of a lower exponent is an integer. -/
theorem exactVal_eq {x : Int × Int} {lo : Int} (h : lo ≤ x.2) : exactVal x = (x.1 * 2 ^ (x.2 - lo).toNat : Int) * 2 ^ lo := by
  unfold exactVal
  push_cast
  rw [mul_assoc, ← zpow_natCast, Int.toNat_of_nonneg (by omega), ← zpow_add₀ two_ne_zero]
  congr 2
  omega

theorem valueLt_iff (x y : Int × Int) : ValueLt x y ↔ exactVal x < exactVal y := by
  rw [exactVal_eq (min_le_left x.2 y.2), exactVal_eq (min_le_right x.2 y.2), mul_lt_mul_iff_left₀ (by positivity), Int.cast_lt]
  rfl

theorem mant_bound (r : VReg) (c : Nat) : -2 ^ 63 ≤ mant r c ∧ mant r c < 2 ^ 63 :=
  ⟨BitVec.le_toInt .., BitVec.toInt_lt ..⟩

/-- Among lanes' mantissas a shift past 200 places says no more than one of 200. -/
theorem clipped_shift {x y : Int} (hx : -2 ^ 63 ≤ x ∧ x < 2 ^ 63) (hy : -2 ^ 63 ≤ y ∧ y < 2 ^ 63) (e : Nat) :
    (x * 2 ^ min e 200 < y ↔ x * 2 ^ e < y) ∧ (y < x * 2 ^ min e 200 ↔ y < x * 2 ^ e) := by
  rcases Nat.le_total e 200 with he | he
  · rw [min_eq_left he]
    exact ⟨Iff.rfl, Iff.rfl⟩
  · rw [min_eq_right he]
    have hp : (2 : Int) ^ 200 ≤ 2 ^ e := pow_le_pow_right₀ (by norm_num) he
    rcases lt_trichotomy x 0 with h | rfl | h
    · have h1 : x * 2 ^ e ≤ x * 2 ^ 200 := mul_le_mul_of_nonpos_left hp h.le
      omega
    · simp
    · have h1 : x * 2 ^ 200 ≤ x * 2 ^ e := mul_le_mul_of_nonneg_left hp h.le
      omega

/-- The sign of an exact comparison is the order of the values. -/
theorem cmpExact_sign {x y : Int} (hx : -2 ^ 63 ≤ x ∧ x < 2 ^ 63) (hy : -2 ^ 63 ≤ y ∧ y < 2 ^ 63) (gx gy : Int) :
    (cmpExact x gx y gy < 0 ↔ ValueLt (x, gx) (y, gy)) ∧ (0 < cmpExact x gx y gy ↔ ValueLt (y, gy) (x, gx)) := by
  unfold cmpExact ValueLt
  push_cast
  rw [sub_neg, sub_pos, min_comm gy gx]
  rcases le_total gx gy with h | h
  · obtain ⟨h1, h2⟩ := clipped_shift hy hx (gy - gx).toNat
    simpa [min_eq_left h] using ⟨h2, h1⟩
  · obtain ⟨h1, h2⟩ := clipped_shift hx hy (gx - gy).toNat
    simpa [min_eq_right h] using ⟨h1, h2⟩

end

end Sys2Proof.Machine
end

section
/-! PROOFS. Compares, mask logic, NORM, tables, reciprocals, inverse square roots and logarithms of the vector engine (O59, R125 to
R128). -/

namespace Sys2Proof.Machine

/-! ### Compares and mask logic (R125, R126) -/

section
variable {s : State} {l op : Nat} {f : VFields} {c : Instr}

/-- A mask instruction writes what it says of each lane (R122). -/
theorem issues_mask (hi : s.Inv) (hl : l < 192) (hr : Running s l f) (hvd : f.vd < 8) {g : VEngine → VFields → VEngine}
    (hx : exec c s = .next (issueLane s l op f g)) (hop : PlainOp op) {p : Nat → Bool} {q : Nat → Prop}
    (hg : g (lanternAt s l).vec f = commitMask (lanternAt s l).vec f.vd (writeMask (lanternAt s l).vec f) p)
    (hq : ∀ c, p c = true ↔ q c) :
    Issues c s l (fun u => WroteMask (lanternAt s l).vec u f.vd (writeMask (lanternAt s l).vec f) q) := by
  refine issues_lane hi hl hr hx hop ?_
  rw [hg]
  exact wroteMask_commitMask (vecOk_of_inv hi l) hvd _ _ fun c _ _ => hq c

/-- A compare is false for a SAT operand, and else what it says of the exact values' difference (R125, R126). -/
theorem issues_compare (hi : s.Inv) (hl : l < 192) (hr : Running s l f) (hvd : f.vd < 8) {p : Int → Bool} {q : Nat → Prop}
    (hx : exec c s = .next (issueLane s l op f (fun v f => compare2 v f p))) (hop : PlainOp op)
    (hq : let a := regAt (lanternAt s l).vec f.va
      let b := regAt (lanternAt s l).vec f.vb
      ∀ c, p (cmpExact (mant a c) (gAt a (c / 32)) (mant b c) (gAt b (c / 32))) = true ↔ q c) :
    let a := regAt (lanternAt s l).vec f.va
    let b := regAt (lanternAt s l).vec f.vb
    Issues c s l (fun u => WroteMask (lanternAt s l).vec u f.vd (writeMask (lanternAt s l).vec f)
      (fun c => (isSat a c = false ∧ isSat b c = false) ∧ q c)) := by
  refine issues_mask hi hl hr hvd hx hop rfl fun c => ?_
  rw [Bool.and_eq_true, Bool.and_eq_true, Bool.not_eq_true', Bool.not_eq_true', hq c]

end

/-! ### Lengths in bits, greatest and least -/

theorem bitLen_le_iff {m n : Nat} : bitLen m ≤ n ↔ m < 2 ^ n := by
  unfold bitLen
  split
  · next h => simp [h]
  · next h => exact Nat.log2_lt h

theorem bitLen_eq {m n : Nat} (h : m < 2 ^ n) (h' : 2 ^ n ≤ 2 * m) : bitLen m = n := by
  refine le_antisymm (bitLen_le_iff.2 h) ?_
  by_contra hlt
  obtain ⟨k, rfl⟩ : ∃ k, n = k + 1 := ⟨n - 1, by omega⟩
  have hk : m < 2 ^ k := bitLen_le_iff.1 (by omega)
  rw [pow_succ] at h'
  omega

theorem bitLen_eq_zero {m : Nat} : bitLen m = 0 ↔ m = 0 := by
  have h := bitLen_le_iff (m := m) (n := 0)
  rw [pow_zero] at h
  omega

theorem foldl_max_le_iff {xs : List Nat} {a b : Nat} : xs.foldl max a ≤ b ↔ a ≤ b ∧ ∀ x ∈ xs, x ≤ b := by
  induction xs generalizing a with
  | nil => simp
  | cons x xs ih => simp [ih, and_assoc]

theorem maxNat_le_iff {xs : List Nat} {b : Nat} : maxNat xs ≤ b ↔ ∀ x ∈ xs, x ≤ b := by
  unfold maxNat
  simp [foldl_max_le_iff]

theorem le_maxNat {xs : List Nat} {x : Nat} (h : x ∈ xs) : x ≤ maxNat xs := maxNat_le_iff.1 le_rfl x h

theorem le_foldl_min_iff {xs : List Nat} {a b : Nat} : b ≤ xs.foldl min a ↔ b ≤ a ∧ ∀ x ∈ xs, b ≤ x := by
  induction xs generalizing a with
  | nil => simp
  | cons x xs ih => simp [ih, and_assoc]

theorem le_minNat_iff {xs : List Nat} {b : Nat} (h : xs ≠ []) : b ≤ minNat xs ↔ ∀ x ∈ xs, b ≤ x := by
  cases xs with
  | nil => exact absurd rfl h
  | cons x xs => simp [minNat, le_foldl_min_iff]

/-- The least length in bits of some numbers, one of which is below 2^n and none below 2^(n-1). -/
theorem minNat_bitLen {xs : List Nat} {m n : Nat} (hm : m ∈ xs) (h : m < 2 ^ n) (hall : ∀ x ∈ xs, 2 ^ n ≤ 2 * x) :
    minNat (xs.map bitLen) = n := by
  have hne : xs.map bitLen ≠ [] := by
    rw [Ne, List.map_eq_nil_iff]
    exact List.ne_nil_of_mem hm
  refine le_antisymm ?_ ((le_minNat_iff hne).2 fun y hy => ?_)
  · have hle := (le_minNat_iff hne).1 le_rfl _ (List.mem_map_of_mem hm)
    rwa [bitLen_eq h (hall m hm)] at hle
  · obtain ⟨x, hx, rfl⟩ := List.mem_map.1 hy
    by_contra hlt
    obtain ⟨k, rfl⟩ : ∃ k, n = k + 1 := ⟨n - 1, by omega⟩
    have hk : x < 2 ^ k := bitLen_le_iff.1 (by omega)
    have := hall x hx
    rw [pow_succ] at this
    omega

/-! ### NORM (R126) -/

/-- Lane c is one of group q that the instruction acts on, and not SAT (R122). -/
def Live (a : VReg) (w : BitVec 128) (q c : Nat) : Prop := c < 128 ∧ c / 32 = q ∧ w.getLsbD c = true ∧ isSat a c = false

section
variable {a : VReg} {w : BitVec 128} {q c n : Nat}

theorem mem_live : c ∈ (liveLanes w q).filter (fun c => !isSat a c) ↔ Live a w q c := by
  rw [List.mem_filter, mem_liveLanes, Bool.not_eq_true']
  exact ⟨fun ⟨⟨h1, h2⟩, h3⟩ => ⟨BitVec.lt_of_getLsbD h2, h1, h2, h3⟩, fun ⟨_, h1, h2, h3⟩ => ⟨⟨h1, h2⟩, h3⟩⟩

theorem mem_live_filter {p : Nat → Bool} : c ∈ (liveLanes w q).filter (fun c => !isSat a c && p c) ↔ Live a w q c ∧ p c = true := by
  rw [← mem_live, List.mem_filter, List.mem_filter, Bool.and_eq_true, and_assoc]

theorem shiftRound_zero (s : Int) : shiftRound 0 s false 0 = 0 := by
  simp [shiftRound]

@[simp] theorem alignTo_zero (g gd : Int) : alignTo 0 g gd = 0 := by
  simp [alignTo, shiftExact, shiftRound_zero]

/-- The length in bits of a group's largest live magnitude. -/
def normLen (a : VReg) (w : BitVec 128) (q : Nat) : Nat :=
  bitLen (maxNat (((liveLanes w q).filter (fun c => !isSat a c)).map (fun c => (mant a c).natAbs)))

theorem normExp_eq (a : VReg) (w : BitVec 128) (q : Nat) :
    normExp a w q = if normLen a w q = 0 then none else some (gAt a q + normLen a w q - 62) := rfl

theorem normLen_eq_zero_iff : normLen a w q = 0 ↔ ∀ c, Live a w q c → mant a c = 0 := by
  unfold normLen
  rw [bitLen_eq_zero, ← Nat.le_zero, maxNat_le_iff]
  simp only [List.forall_mem_map, mem_live, Nat.le_zero, Int.natAbs_eq_zero]

theorem normLen_eq (hc : Live a w q c) (hlt : ∀ d, Live a w q d → (mant a d).natAbs < 2 ^ n) (hle : 2 ^ n ≤ 2 * (mant a c).natAbs) :
    normLen a w q = n := by
  refine bitLen_eq ?_ (hle.trans ?_)
  · refine Nat.lt_of_le_sub_one (by positivity) (maxNat_le_iff.2 ?_)
    simp only [List.forall_mem_map, mem_live]
    exact fun d hd => Nat.le_sub_one_of_lt (hlt d hd)
  · exact Nat.mul_le_mul_left 2 (le_maxNat (List.mem_map_of_mem (mem_live.2 hc)))

/-- NORM's results in the form that takes a group without a nonzero value with the others. -/
theorem normRes_eq (hw : w.getLsbD c = true) (hc : c < 128) :
    (if isSat a c then Res.sat else match normExp a w (c / 32) with
      | none => .val 0
      | some g => .val (alignTo (mant a c) (gAt a (c / 32)) g)) =
    if isSat a c then .sat else .val (alignTo (mant a c) (gAt a (c / 32)) ((normExp a w (c / 32)).getD 0)) := by
  by_cases hs : isSat a c = true
  · simp [hs]
  · have hs' : isSat a c = false := by simpa using hs
    rw [if_neg hs, if_neg hs, normExp_eq]
    by_cases h0 : normLen a w (c / 32) = 0
    · have hm := normLen_eq_zero_iff.1 h0 c ⟨hc, rfl, hw, hs'⟩
      simp [h0, hm]
    · simp [h0]

end

/-! ### Tables (R127) -/

/-- The segment of a table and the place in it that a clamped input names. -/
def tluSegment (t : FTable) (q0 : Int) : (Int × Int) × Int :=
  let q := min (max q0 t.lo) (t.lo + t.segs.length * 2 ^ t.sh - 1)
  (t.segs.getD ((q - t.lo) / 2 ^ t.sh).toNat (0, 0), (q - t.lo) % 2 ^ t.sh)

theorem tluLane_eq (t : FTable) (m g : Int) :
    tluLane t m g = (let q0 := alignTo m g (-t.fw)
      let p := tluSegment t q0
      (if p.1.1 = -2 ^ 31 then Res.raise else .val (p.1.1 + shiftRound (p.1.2 * p.2) t.sh false 0),
        decide (q0 < t.lo ∨ t.lo + t.segs.length * 2 ^ t.sh ≤ q0))) := by
  have hq : alignTo m g (-t.fw) = shiftExact m (-(g + t.fw)) := by
    unfold alignTo
    congr 1
    omega
  unfold tluLane
  rw [← hq]
  generalize alignTo m g (-t.fw) = q0
  unfold tluSegment
  push_cast
  split <;> simp

/-- TLU writes what its table gives, and sets TCL where an input lies outside the table (R127, R137). -/
theorem opTlu_wrote {v : VEngine} {f : VFields} {t : FTable} (ok : v.Ok) (hvd : f.vd < 64)
    (ht : v.tables[f.imm.toNat % 4]? = some t) :
    let w := writeMask v f
    let a := regAt v f.va
    let q0 (c : Nat) := alignTo (mant a c) (gAt a (c / 32)) (-t.fw)
    let p (c : Nat) := tluSegment t (q0 c)
    ∃ u1 clamped, opTlu v f = { u1 with flags := orFlag u1.flags flTcl clamped } ∧
      (clamped = true ↔ ∃ c, Live a w (c / 32) c ∧ (q0 c < t.lo ∨ t.lo + t.segs.length * 2 ^ t.sh ≤ q0 c)) ∧
      Wrote v u1 f.vd w (fun c => if isSat a c then .sat else if (p c).1.1 = -2 ^ 31 then .raise
        else .val ((p c).1.1 + shiftRound ((p c).1.2 * (p c).2) t.sh false 0)) (fun _ => t.outg) := by
  intro w a q0 p
  let lane (c : Nat) : Res × Bool := if isSat a c then (.sat, false) else tluLane t (mant a c) (gAt a (c / 32))
  refine ⟨commit v f.vd w (fun c => (lane c).1) (fun _ => t.outg),
    ((List.range 128).filter (fun c => w.getLsbD c)).any (fun c => (lane c).2), ?_, ?_,
    (wrote_commit ok hvd w _ _).congr fun c _ _ => ?_⟩
  · unfold opTlu
    rw [immNat, ht]
    rfl
  · simp only [List.any_eq_true, List.mem_filter, List.mem_range]
    constructor
    · rintro ⟨c, ⟨hc, hw⟩, hl⟩
      have hs : isSat a c = false := by
        rw [← Bool.not_eq_true]
        intro h
        simp [lane, h] at hl
      refine ⟨c, ⟨hc, rfl, hw, hs⟩, ?_⟩
      simpa [lane, hs, tluLane_eq] using hl
    · rintro ⟨c, ⟨hc, -, hw, hs⟩, hq⟩
      exact ⟨c, ⟨hc, hw⟩, by simpa [lane, hs, tluLane_eq] using hq⟩
  · dsimp only [lane]
    split
    · rfl
    · rw [tluLane_eq]

/-! ### RECIP (R128) -/

/-- Rounding to nearest even: at most half the divisor off, and on a tie even. -/
theorem nearestEven_spec (n : Int) {d : Int} (hd : d ≠ 0) :
    2 * (n - nearestEven n d * d).natAbs ≤ d.natAbs ∧ (2 * (n - nearestEven n d * d).natAbs = d.natAbs → nearestEven n d % 2 = 0) := by
  have key : ∀ n d : Int, 0 < d → let q := n / d; let r := n % d; let y := if d < 2 * r ∨ (2 * r = d ∧ q % 2 = 1) then q + 1 else q
      2 * (n - y * d).natAbs ≤ d.natAbs ∧ (2 * (n - y * d).natAbs = d.natAbs → y % 2 = 0) := by
    intro n d hd q r y
    have hn : n = q * d + r := by rw [mul_comm]; exact (Int.mul_ediv_add_emod n d).symm
    have hr0 : 0 ≤ r := Int.emod_nonneg _ hd.ne'
    have hr1 : r < d := Int.emod_lt_of_pos _ hd
    by_cases hup : d < 2 * r ∨ (2 * r = d ∧ q % 2 = 1)
    · have hy : n - y * d = r - d := by
        simp only [y, if_pos hup]
        rw [hn]
        ring
      have hyq : y = q + 1 := if_pos hup
      rw [hy, hyq]
      omega
    · have hy : n - y * d = r := by
        simp only [y, if_neg hup]
        rw [hn]
        ring
      have hyq : y = q := if_neg hup
      rw [hy, hyq]
      omega
  rcases lt_or_gt_of_ne hd with h | h
  · have hk := key (-n) (-d) (by omega)
    have he : nearestEven n d = (let q := -n / -d; let r := -n % -d; if -d < 2 * r ∨ (2 * r = -d ∧ q % 2 = 1) then q + 1 else q) := by
      unfold nearestEven
      simp only [h, if_true, Int.ofNat_natAbs_of_nonpos h.le]
    rw [he]
    dsimp only at hk ⊢
    rw [Int.natAbs_neg] at hk
    generalize (if -d < 2 * (-n % -d) ∨ (2 * (-n % -d) = -d ∧ -n / -d % 2 = 1) then -n / -d + 1 else -n / -d) = y at hk ⊢
    rwa [show n - y * d = -(-n - y * -d) by ring, Int.natAbs_neg]
  · have he : nearestEven n d = (let q := n / d; let r := n % d; if d < 2 * r ∨ (2 * r = d ∧ q % 2 = 1) then q + 1 else q) := by
      unfold nearestEven
      simp only [not_lt.2 h.le, if_false, Int.natAbs_of_nonneg h.le]
    rw [he]
    exact key n d h

section
variable {a : VReg} {w : BitVec 128} {q c n : Nat}

/-- The lanes of a group that decide the exponent of its reciprocals: live and not zero (R128). -/
def recipLanes (a : VReg) (w : BitVec 128) (q : Nat) : List Nat :=
  (liveLanes w q).filter (fun c => !isSat a c && decide (mant a c ≠ 0))

theorem mem_recipLanes : c ∈ recipLanes a w q ↔ Live a w q c ∧ mant a c ≠ 0 := by
  unfold recipLanes
  rw [mem_live_filter, decide_eq_true_eq]

/-- The least length in bits of their magnitudes. -/
def recipLen (a : VReg) (w : BitVec 128) (q : Nat) : Nat := minNat (((recipLanes a w q).map (fun c => (mant a c).natAbs)).map bitLen)

/-- The exponent of a group's reciprocals. -/
def recipExp (a : VReg) (w : BitVec 128) (q : Nat) : Int :=
  if (recipLanes a w q).isEmpty then 0 else -(gAt a q) - recipLen a w q - 30

/-- The reciprocal of a lane. -/
def recipVal (a : VReg) (w : BitVec 128) (c : Nat) : Int := nearestEven ((2 ^ (recipLen a w (c / 32) + 30) : Nat) : Int) (mant a c)

theorem opRecip_eq (v : VEngine) (f : VFields) : opRecip v f = commit v f.vd (writeMask v f)
    (fun c => if isSat (regAt v f.va) c then .sat else if mant (regAt v f.va) c = 0 then .raise
      else .val (recipVal (regAt v f.va) (writeMask v f) c)) (recipExp (regAt v f.va) (writeMask v f)) := by
  unfold opRecip recipVal recipExp recipLen
  simp only [List.map_map]
  rfl

theorem recipExp_none (h : ∀ c, Live a w q c → mant a c = 0) : recipExp a w q = 0 := by
  have hnil : recipLanes a w q = [] := List.eq_nil_iff_forall_not_mem.2 fun c hc => by
    obtain ⟨hl, hm⟩ := mem_recipLanes.1 hc
    exact hm (h c hl)
  simp [recipExp, hnil]

/-- RECIP's exponent, and its values to nearest even (R128). -/
theorem recip_spec (hc : Live a w q c) (hm : mant a c ≠ 0) (hlt : (mant a c).natAbs < 2 ^ n)
    (hle : ∀ d, Live a w q d → mant a d ≠ 0 → 2 ^ n ≤ 2 * (mant a d).natAbs) :
    recipExp a w q = -(gAt a q) - n - 30 ∧ ∀ d, Live a w q d → mant a d ≠ 0 →
      2 * (2 ^ (n + 30) - recipVal a w d * mant a d).natAbs ≤ (mant a d).natAbs ∧
      (2 * (2 ^ (n + 30) - recipVal a w d * mant a d).natAbs = (mant a d).natAbs → recipVal a w d % 2 = 0) := by
  have hmem : c ∈ recipLanes a w q := mem_recipLanes.2 ⟨hc, hm⟩
  have hlen : recipLen a w q = n := by
    refine minNat_bitLen (List.mem_map_of_mem hmem) hlt ?_
    simp only [List.forall_mem_map, mem_recipLanes]
    exact fun d ⟨hd, hd0⟩ => hle d hd hd0
  refine ⟨?_, fun d ⟨_, hq, _, _⟩ hd0 => ?_⟩
  · unfold recipExp
    rw [if_neg (by simpa using List.ne_nil_of_mem hmem), hlen]
  · have h := nearestEven_spec (2 ^ (n + 30)) hd0
    unfold recipVal
    rw [hq, hlen]
    exact_mod_cast h

/-! ### RSQRT (R128) -/

/-- The floor of a square root, bit by bit. -/
theorem isqrtBits_spec (n : Nat) : ∀ k r, r * r ≤ n → n < (r + 2 ^ k) * (r + 2 ^ k) →
    isqrtBits n k r * isqrtBits n k r ≤ n ∧ n < (isqrtBits n k r + 1) * (isqrtBits n k r + 1)
  | 0, r, h1, h2 => ⟨h1, h2⟩
  | k + 1, r, h1, h2 => by
    unfold isqrtBits
    dsimp only
    split
    · next h => exact isqrtBits_spec n k _ h (by rwa [add_assoc, ← two_mul, ← pow_succ'])
    · next h => exact isqrtBits_spec n k _ h1 (not_le.1 h)

/-- 2^t over the square root of m to nearest even, where it fits in 64 bits. -/
theorem rsqrtRound_spec {t m : Nat} (hm : 0 < m) (ht : t < 64) : let y := rsqrtRound t m
    2 ^ (2 * t + 2) ≤ (2 * y + 1) ^ 2 * m ∧ (0 < y → (2 * y - 1) ^ 2 * m ≤ 2 ^ (2 * t + 2)) ∧
    ((2 ^ (2 * t + 2) = (2 * y + 1) ^ 2 * m ∨ 0 < y ∧ (2 * y - 1) ^ 2 * m = 2 ^ (2 * t + 2)) → y % 2 = 0) := by
  intro y
  obtain ⟨h1, h2⟩ := isqrtBits_spec (2 ^ (2 * t) / m) 64 0 (Nat.zero_le _) (by
    refine (Nat.div_le_self _ _).trans_lt ?_
    rw [zero_add, ← pow_add]
    exact Nat.pow_lt_pow_right (by norm_num) (by omega))
  have hy : y = (let y := isqrtBits (2 ^ (2 * t) / m) 64 0
    let rhs := (2 * y + 1) * (2 * y + 1) * m
    if rhs < 2 ^ (2 * t + 2) ∨ (2 ^ (2 * t + 2) = rhs ∧ y % 2 = 1) then y + 1 else y) := rfl
  generalize isqrtBits (2 ^ (2 * t) / m) 64 0 = z at h1 h2 hy
  have hlow : z * z * m ≤ 2 ^ (2 * t) := (Nat.le_div_iff_mul_le hm).1 h1
  have hhigh : 2 ^ (2 * t) < (z + 1) * (z + 1) * m := (Nat.div_lt_iff_lt_mul hm).1 h2
  have hp : 2 ^ (2 * t + 2) = 4 * 2 ^ (2 * t) := by rw [pow_add]; ring
  dsimp only at hy
  rw [hp] at hy ⊢
  generalize 2 ^ (2 * t) = N at *
  clear_value y
  split at hy
  · next hup =>
    rw [hy]
    have e1 : (2 * (z + 1) + 1) ^ 2 * m = 4 * ((z + 1) * (z + 1) * m) + 4 * ((z + 1) * m) + m := by ring
    have e2 : (2 * (z + 1) - 1) ^ 2 * m = (2 * z + 1) * (2 * z + 1) * m := by
      rw [show 2 * (z + 1) - 1 = 2 * z + 1 by omega, sq]
    rw [e1, e2]
    generalize (2 * z + 1) * (2 * z + 1) * m = R at *
    generalize (z + 1) * (z + 1) * m = S at *
    generalize (z + 1) * m = T at *
    omega
  · next hup =>
    rw [hy]
    have e1 : (2 * z + 1) ^ 2 * m = (2 * z + 1) * (2 * z + 1) * m := by rw [sq]
    have e2 : 0 < z → (2 * z - 1) ^ 2 * m < 4 * (z * z * m) := fun hz => by
      obtain ⟨k, rfl⟩ : ∃ k, z = k + 1 := ⟨z - 1, by omega⟩
      rw [show 2 * (k + 1) - 1 = 2 * k + 1 by omega]
      nlinarith
    rw [e1]
    generalize (2 * z + 1) * (2 * z + 1) * m = R at *
    generalize (2 * z - 1) ^ 2 * m = S at *
    generalize z * z * m = T at *
    omega

/-- The lanes of a group that decide the exponent of its inverse square roots: live and positive (R128). -/
def rsqrtLanes (a : VReg) (w : BitVec 128) (q : Nat) : List Nat :=
  (liveLanes w q).filter (fun c => !isSat a c && decide (0 < mant a c))

theorem mem_rsqrtLanes : c ∈ rsqrtLanes a w q ↔ Live a w q c ∧ 0 < mant a c := by
  unfold rsqrtLanes
  rw [mem_live_filter, decide_eq_true_eq]

/-- A lane's mantissa at an even exponent. -/
def evenMant (a : VReg) (c : Nat) : Nat := (mant a c).toNat * 2 ^ (gAt a (c / 32) % 2).toNat

/-- The place t of R128 for a group. -/
def rsqrtPlace (a : VReg) (w : BitVec 128) (q : Nat) : Nat :=
  (minNat (((rsqrtLanes a w q).map (evenMant a)).map bitLen) + 1) / 2 + 30

/-- The exponent of a group's inverse square roots. -/
def rsqrtExp (a : VReg) (w : BitVec 128) (q : Nat) : Int :=
  if (rsqrtLanes a w q).isEmpty then 0 else -((gAt a q - (gAt a q % 2).toNat) / 2) - rsqrtPlace a w q

/-- The inverse square root of a lane. -/
def rsqrtVal (a : VReg) (w : BitVec 128) (c : Nat) : Nat := rsqrtRound (rsqrtPlace a w (c / 32)) (evenMant a c)

theorem opRsqrt_eq (v : VEngine) (f : VFields) : opRsqrt v f = commit v f.vd (writeMask v f)
    (fun c => if isSat (regAt v f.va) c then .sat else if mant (regAt v f.va) c ≤ 0 then .raise
      else .val (rsqrtVal (regAt v f.va) (writeMask v f) c)) (rsqrtExp (regAt v f.va) (writeMask v f)) := by
  unfold opRsqrt rsqrtVal rsqrtExp rsqrtPlace
  simp only [List.map_map]
  rfl

theorem rsqrtExp_none (h : ∀ c, Live a w q c → mant a c ≤ 0) : rsqrtExp a w q = 0 := by
  have hnil : rsqrtLanes a w q = [] := List.eq_nil_iff_forall_not_mem.2 fun c hc => by
    obtain ⟨hl, hm⟩ := mem_rsqrtLanes.1 hc
    exact absurd hm (not_lt.2 (h c hl))
  simp [rsqrtExp, hnil]

theorem evenMant_cast (h : 0 < mant a c) : (evenMant a c : Int) = mant a c * 2 ^ (gAt a (c / 32) % 2).toNat := by
  unfold evenMant
  push_cast
  rw [Int.toNat_of_nonneg h.le]

theorem evenMant_lt (h : 0 < mant a c) : evenMant a c < 2 ^ 64 := by
  have hm := (mant_bound a c).2
  unfold evenMant
  rcases Int.emod_two_eq_zero_or_one (gAt a (c / 32)) with e | e <;> rw [e] <;> norm_num <;> omega

/-- RSQRT's exponent, and its values to nearest even (R128). -/
theorem rsqrt_spec (hc : Live a w q c) (hm : 0 < mant a c) (hlt : mant a c * 2 ^ (gAt a (c / 32) % 2).toNat < 2 ^ n)
    (hle : ∀ d, Live a w q d → 0 < mant a d → (2 : Int) ^ n ≤ 2 * (mant a d * 2 ^ (gAt a (d / 32) % 2).toNat)) :
    rsqrtPlace a w q = (n + 1) / 2 + 30 ∧ rsqrtExp a w q = -((gAt a q - gAt a q % 2) / 2) - ((n + 1) / 2 + 30 : Nat) ∧
    ∀ d, Live a w q d → 0 < mant a d → 0 < evenMant a d ∧ rsqrtPlace a w q < 64 := by
  have hmem : c ∈ rsqrtLanes a w q := mem_rsqrtLanes.2 ⟨hc, hm⟩
  have hpos : ∀ d, 0 < mant a d → 0 < evenMant a d := fun d hd => by
    have := evenMant_cast hd
    have h2 : 0 < mant a d * 2 ^ (gAt a (d / 32) % 2).toNat := by positivity
    omega
  have hlen : minNat (((rsqrtLanes a w q).map (evenMant a)).map bitLen) = n := by
    refine minNat_bitLen (List.mem_map_of_mem hmem) ?_ ?_
    · rw [← evenMant_cast hm] at hlt
      exact_mod_cast hlt
    · simp only [List.forall_mem_map, mem_rsqrtLanes]
      rintro d ⟨hd, hd0⟩
      have h := hle d hd hd0
      rw [← evenMant_cast hd0] at h
      exact_mod_cast h
  have hn : n < 65 := by
    have h := hle c hc hm
    rw [← evenMant_cast hm] at h
    have h1 : 2 ^ n ≤ 2 * evenMant a c := by exact_mod_cast h
    have h2 := evenMant_lt hm
    by_contra hn
    have h3 : 2 ^ 65 ≤ 2 ^ n := Nat.pow_le_pow_right (by norm_num) (by omega)
    omega
  have hplace : rsqrtPlace a w q = (n + 1) / 2 + 30 := by rw [rsqrtPlace, hlen]
  refine ⟨hplace, ?_, fun d _ hd0 => ⟨hpos d hd0, by omega⟩⟩
  unfold rsqrtExp
  rw [if_neg (by simpa using List.ne_nil_of_mem hmem), hplace, Int.toNat_of_nonneg (Int.emod_nonneg _ two_ne_zero)]

/-- A lane's inverse square root at place t: no smaller and no greater value is nearer, and on a tie it is even (R128). -/
theorem rsqrtVal_spec {t : Nat} (ht : rsqrtPlace a w (c / 32) = t) (h64 : t < 64) (hm : 0 < mant a c) (he : 0 < evenMant a c) :
    let m : Int := mant a c * 2 ^ (gAt a (c / 32) % 2).toNat
    let y : Int := rsqrtVal a w c
    0 ≤ y ∧ 2 ^ (2 * t + 2) ≤ (2 * y + 1) ^ 2 * m ∧ (0 < y → (2 * y - 1) ^ 2 * m ≤ 2 ^ (2 * t + 2)) ∧
      ((2 ^ (2 * t + 2) = (2 * y + 1) ^ 2 * m ∨ (2 * y - 1) ^ 2 * m = 2 ^ (2 * t + 2)) → y % 2 = 0) := by
  intro m y
  have hy : y = rsqrtRound t (evenMant a c) := by rw [← ht]; rfl
  obtain ⟨h1, h2, h3⟩ := rsqrtRound_spec (t := t) he h64
  generalize rsqrtRound t (evenMant a c) = z at hy h1 h2 h3
  have hme : m = evenMant a c := (evenMant_cast hm).symm
  clear_value m y
  subst hy hme
  refine ⟨Int.natCast_nonneg z, by exact_mod_cast h1, fun hz => ?_, fun htie => ?_⟩
  · have hz' : 0 < z := by exact_mod_cast hz
    have := h2 hz'
    zify [show 1 ≤ 2 * z by omega] at this
    exact this
  · rcases Nat.eq_zero_or_pos z with rfl | hz
    · rfl
    · have hodd : (2 * (z : Int) - 1) ^ 2 * evenMant a c = 2 ^ (2 * t + 2) → (2 * z - 1) ^ 2 * evenMant a c = 2 ^ (2 * t + 2) := by
        intro h
        zify [show 1 ≤ 2 * z by omega]
        exact h
      have h4 : z % 2 = 0 := h3 (htie.imp (fun h => by exact_mod_cast h) fun h => ⟨hz, hodd h⟩)
      exact_mod_cast h4

/-! ### LOG2I (R128) -/

theorem log2_bounds {m : Int} (hm : m ≠ 0) : 2 ^ m.natAbs.log2 ≤ m.natAbs ∧ m.natAbs < 2 ^ (m.natAbs.log2 + 1) :=
  ⟨Nat.log2_self_le (by omega), Nat.lt_log2_self⟩

theorem bitLen_sub_one {m : Int} (hm : m ≠ 0) : (bitLen m.natAbs : Int) - 1 = m.natAbs.log2 := by
  unfold bitLen
  rw [if_neg (by omega)]
  omega

end

end Sys2Proof.Machine
end

section
/-! PROOFS. Reductions of the vector engine (O59, R108, R122, R133). -/

namespace Sys2Proof.Machine

section
variable {a : VReg} {w : BitVec 128} {f : VFields} {q c d : Nat} {ls : List Nat}

/-! ### The scope of a reduction (R133) -/

theorem scopeLanes_eq (f : VFields) (w : BitVec 128) (q : Nat) :
    scopeLanes f w q = (List.range 128).filter (fun d => w.getLsbD d && (f.imm.getLsbD 0 || d / 32 == q)) := by
  unfold scopeLanes
  rw [bit_immNat, liveLanes_eq]
  cases f.imm.getLsbD 0 <;> simp

theorem mem_scopeLanes : d ∈ scopeLanes f w q ↔ d < 128 ∧ w.getLsbD d = true ∧ (f.imm.getLsbD 0 = true ∨ d / 32 = q) := by
  rw [scopeLanes_eq]
  simp

/-- A scope's exponent is the largest of its lanes that are not SAT (R122). -/
theorem scopeExp_spec (h : ∃ d ∈ ls, isSat a d = false) :
    (∃ d ∈ ls, isSat a d = false ∧ scopeExp a ls = gAt a (d / 32)) ∧ ∀ d ∈ ls, isSat a d = false → gAt a (d / 32) ≤ scopeExp a ls := by
  have hmem : ∀ d, d ∈ ls.filter (fun c => !isSat a c) ↔ d ∈ ls ∧ isSat a d = false := by simp
  have hmax : ((ls.filter (fun c => !isSat a c)).map (fun c => gAt a (c / 32))).max? = some (scopeExp a ls) := by
    unfold scopeExp
    cases hl : ls.filter (fun c => !isSat a c) with
    | nil =>
      obtain ⟨d, hd⟩ := h
      exact absurd ((hmem d).2 hd) (by simp [hl])
    | cons c cs =>
      rw [List.map_cons, List.max?_cons', List.foldl_map]
  obtain ⟨hin, hle⟩ := List.max?_eq_some_iff.1 hmax
  obtain ⟨d, hd, he⟩ := List.mem_map.1 hin
  obtain ⟨hd1, hd2⟩ := (hmem d).1 hd
  exact ⟨⟨d, hd1, hd2, he.symm⟩, fun e he1 he2 => hle _ (List.mem_map_of_mem ((hmem e).2 ⟨he1, he2⟩))⟩

/-- A sum over lanes, as the model adds them up. -/
theorem foldl_add_eq_sum (g : Nat → Int) (ls : List Nat) : ls.foldl (fun t d => t + g d) 0 = (ls.map g).sum := by
  rw [List.sum_eq_foldl, List.foldl_map]

/-! ### The winner of a scope (R108) -/

/-- The candidate that a lane is. -/
def candidate (v : VEngine) (a : VReg) (c : Nat) : Winner :=
  ⟨⟨mant a c, 0, gAt a (c / 32), isSat a c, false, false⟩, (laneIndex v c).getD c⟩

/-- A candidate from a lane: no fraction, not empty, exact. -/
structure IsLane (x : Winner) : Prop where
  whole : x.r.r = 0
  full  : x.r.z = false
  exact : x.r.i = false

theorem isLane_candidate (v : VEngine) (a : VReg) (c : Nat) : IsLane (candidate v a c) := ⟨rfl, rfl, rfl⟩

/-- What a candidate is worth in a maximum or a minimum. -/
def worth (useMax : Bool) (x : Winner) : Rat := if useMax then exactVal (x.r.v, x.r.x) else -exactVal (x.r.v, x.r.x)

/-- Candidate x stands before y, or beside it (R108): SAT before all, then the better value, then the lower index. -/
def Beats (useMax : Bool) (x y : Winner) : Prop :=
  (x.r.o = true ∧ (y.r.o = true → x.idx ≤ y.idx)) ∨
  (x.r.o = false ∧ y.r.o = false ∧ (worth useMax y < worth useMax x ∨ worth useMax y = worth useMax x ∧ x.idx ≤ y.idx))

theorem Beats.refl (useMax : Bool) (x : Winner) : Beats useMax x x := by
  cases h : x.r.o
  · exact .inr ⟨h, h, .inr ⟨rfl, le_rfl⟩⟩
  · exact .inl ⟨h, fun _ => le_rfl⟩

theorem Beats.trans {useMax : Bool} {x y z : Winner} (h : Beats useMax x y) (k : Beats useMax y z) : Beats useMax x z := by
  rcases h with ⟨hx, hi⟩ | ⟨hx, hy, hw⟩
  · refine .inl ⟨hx, fun hz => ?_⟩
    rcases k with ⟨hy, hj⟩ | ⟨_, hz', _⟩
    · exact (hi hy).trans (hj hz)
    · exact absurd hz (by simp [hz'])
  · rcases k with ⟨hy', _⟩ | ⟨_, hz, hw'⟩
    · exact absurd hy' (by simp [hy])
    · refine .inr ⟨hx, hz, ?_⟩
      rcases hw with h1 | ⟨h1, h2⟩
      · rcases hw' with h3 | ⟨h3, _⟩
        · exact .inl (h3.trans h1)
        · exact .inl (h3 ▸ h1)
      · rcases hw' with h3 | ⟨h3, h4⟩
        · exact .inl (h1 ▸ h3)
        · exact .inr ⟨h3.trans h1, h2.trans h4⟩

theorem recLt_iff {x y : Winner} (hx : IsLane x) (hy : IsLane y) :
    recLt x.r y.r = true ↔ exactVal (x.r.v, x.r.x) < exactVal (y.r.v, y.r.x) := by
  have hs : ∀ {x : Winner}, IsLane x → recScaled x.r = x.r.v * 2 ^ 32 := fun h => by
    simp [recScaled, h.full, h.whole]
  rw [← valueLt_iff]
  unfold recLt ValueLt
  dsimp only
  rw [decide_eq_true_eq, hs hx, hs hy, mul_right_comm, mul_right_comm y.r.v, mul_lt_mul_iff_left₀ (by norm_num)]
  push_cast
  rfl

theorem better_iff {useMax : Bool} {x y : Winner} (hx : IsLane x) (hy : IsLane y) :
    (if useMax then recLt x.r y.r else recLt y.r x.r) = true ↔ worth useMax x < worth useMax y := by
  unfold worth
  cases useMax
  · simp [recLt_iff hy hx]
  · simp [recLt_iff hx hy]

/-- The winner of two lanes is one of them as it is. -/
theorem winner_eq (useMax : Bool) {x y : Winner} (hx : IsLane x) (hy : IsLane y) : winner useMax x y =
    if x.r.o && y.r.o then (if x.idx ≤ y.idx then x else y) else if x.r.o then x else if y.r.o then y
    else if worth useMax x < worth useMax y then y else if worth useMax y < worth useMax x then x
    else if x.idx ≤ y.idx then x else y := by
  have hexact : ∀ {p : Winner}, IsLane p → (⟨{ p.r with i := false }, p.idx⟩ : Winner) = p := fun {p} h => by
    rw [← h.exact]
  have hback : (if useMax then recLt y.r x.r else recLt x.r y.r) = true ↔ worth useMax y < worth useMax x := better_iff hy hx
  unfold winner
  simp only [hx.exact, hy.exact, hx.full, hy.full, Bool.or_false, Bool.false_eq_true, and_false, if_false, better_iff hx hy, hback]
  repeat' split
  all_goals first
    | exact hexact hx
    | exact hexact hy

/-- Of two lanes the winner is one that the other does not stand before. -/
theorem winner_beats (useMax : Bool) {x y : Winner} (hx : IsLane x) (hy : IsLane y) :
    (winner useMax x y = x ∧ Beats useMax x y) ∨ (winner useMax x y = y ∧ Beats useMax y x) := by
  rw [winner_eq useMax hx hy]
  unfold Beats
  cases hxo : x.r.o <;> cases hyo : y.r.o <;> simp only [Bool.and_self, Bool.and_true, Bool.and_false, Bool.false_eq_true, if_true, if_false]
  · rcases lt_trichotomy (worth useMax x) (worth useMax y) with h | h | h
    · simp [h]
    · by_cases hi : x.idx ≤ y.idx
      · simp [h, hi]
      · simp [h, hi, (not_le.1 hi).le]
    · simp [h, h.not_gt]
  · simp
  · simp
  · by_cases hi : x.idx ≤ y.idx
    · simp [hi]
    · simp [hi, (not_le.1 hi).le]

theorem foldl_winner (useMax : Bool) : ∀ (xs : List Winner) (x : Winner), (∀ y ∈ x :: xs, IsLane y) →
    xs.foldl (winner useMax) x ∈ x :: xs ∧ ∀ y ∈ x :: xs, Beats useMax (xs.foldl (winner useMax) x) y
  | [], x, _ => ⟨List.mem_singleton_self x, fun y hy => List.mem_singleton.1 hy ▸ Beats.refl useMax _⟩
  | z :: xs, x, h => by
    have hx := h x List.mem_cons_self
    have hz := h z (List.mem_cons_of_mem _ List.mem_cons_self)
    have hxs : ∀ y ∈ xs, IsLane y := fun y hy => h y (List.mem_cons_of_mem _ (List.mem_cons_of_mem _ hy))
    rw [List.foldl_cons]
    rcases winner_beats useMax hx hz with ⟨hw, hb⟩ | ⟨hw, hb⟩
    · rw [hw]
      obtain ⟨hin, hall⟩ := foldl_winner useMax xs x (List.forall_mem_cons.2 ⟨hx, hxs⟩)
      have hfirst := hall x List.mem_cons_self
      refine ⟨?_, ?_⟩
      · rcases List.mem_cons.1 hin with e | e
        · rw [e]
          exact List.mem_cons_self
        · exact List.mem_cons_of_mem _ (List.mem_cons_of_mem _ e)
      · refine List.forall_mem_cons.2 ⟨hfirst, List.forall_mem_cons.2 ⟨hfirst.trans hb, fun y hy => hall y (List.mem_cons_of_mem _ hy)⟩⟩
    · rw [hw]
      obtain ⟨hin, hall⟩ := foldl_winner useMax xs z (List.forall_mem_cons.2 ⟨hz, hxs⟩)
      have hfirst := hall z List.mem_cons_self
      exact ⟨List.mem_cons_of_mem _ hin, List.forall_mem_cons.2 ⟨hfirst.trans hb, hall⟩⟩

/-- The winner of a scope is one of its lanes, before which none stands. -/
theorem scopeWinner_spec (v : VEngine) (a : VReg) (useMax : Bool) (h : c ∈ ls) :
    ∃ d ∈ ls, scopeWinner v a useMax ls = candidate v a d ∧ ∀ e ∈ ls, Beats useMax (candidate v a d) (candidate v a e) := by
  have heq : scopeWinner v a useMax ls = match ls.map (candidate v a) with
      | [] => Winner.none
      | x :: xs => xs.foldl (winner useMax) x := rfl
  cases hl : ls.map (candidate v a) with
  | nil => exact absurd (List.map_eq_nil_iff.1 hl) (List.ne_nil_of_mem h)
  | cons x xs =>
    rw [hl] at heq
    have hlane : ∀ y ∈ x :: xs, IsLane y := hl ▸ List.forall_mem_map.2 fun d _ => isLane_candidate v a d
    obtain ⟨hin, hall⟩ := foldl_winner useMax xs x hlane
    rw [← hl] at hin hall
    obtain ⟨d, hd, hde⟩ := List.mem_map.1 hin
    exact ⟨d, hd, heq.trans hde.symm, fun e he => hde ▸ hall _ (List.mem_map_of_mem he)⟩

end

end Sys2Proof.Machine
end

section
/-! PROOFS. Masks, tables, groups and draws of the vector engine (O59, R108, R125 to R128, R132, R133). -/

namespace Sys2Proof.Machine

section
variable {s : State} {v : VEngine} {l c : Nat} {f : VFields}

/-- A number's low 64 bits read as signed. -/
theorem sext_64 (n : Nat) : sext 64 n = (BitVec.ofNat 64 n).toInt := by
  rw [BitVec.toInt_eq_toNat_cond, BitVec.toNat_ofNat]
  unfold sext
  dsimp only
  split <;> split <;> omega

/-! ### Reductions (R133) -/

/-- The lanes of lane c's scope, as the obligation says it. -/
def InScope (f : VFields) (w : BitVec 128) (c d : Nat) : Prop :=
  d < 128 ∧ w.getLsbD d = true ∧ (f.imm.getLsbD 0 = true ∨ d / 32 = c / 32)

theorem mem_scope {w : BitVec 128} {d : Nat} : d ∈ scopeLanes f w (c / 32) ↔ InScope f w c d := mem_scopeLanes

/-- A reduction aligns to the largest exponent of its lanes that are not SAT (R122). -/
theorem scopeExp_top {a : VReg} {w : BitVec 128} (h : ∃ d, InScope f w c d ∧ isSat a d = false) :
    (∃ d, InScope f w c d ∧ isSat a d = false ∧ scopeExp a (scopeLanes f w (c / 32)) = gAt a (d / 32)) ∧
    ∀ d, InScope f w c d → isSat a d = false → gAt a (d / 32) ≤ scopeExp a (scopeLanes f w (c / 32)) := by
  simp only [← mem_scope] at h ⊢
  exact scopeExp_spec h

/-- RSUM's results: SAT for a scope with a SAT lane, and else the sum of its aligned lanes. -/
def rsumRes (v : VEngine) (f : VFields) (c : Nat) : Res :=
  let a := regAt v f.va
  let ls := scopeLanes f (writeMask v f) (c / 32)
  if ls.any (isSat a) then .sat
  else .val (ls.map (fun d => alignTo (mant a d) (gAt a (d / 32)) (scopeExp a ls))).sum

theorem opRsum_eq (v : VEngine) (f : VFields) : opRsum v f = commit v f.vd (writeMask v f) (rsumRes v f)
    (fun q => scopeExp (regAt v f.va) (scopeLanes f (writeMask v f) q)) := by
  unfold opRsum
  simp only [foldl_add_eq_sum]
  rfl

theorem rsumRes_spec (v : VEngine) (f : VFields) (c : Nat) :
    let a := regAt v f.va
    let w := writeMask v f
    ((∃ d, InScope f w c d ∧ isSat a d = true) → rsumRes v f c = .sat) ∧
    ((∀ d, InScope f w c d → isSat a d = false) → rsumRes v f c =
      .val (((List.range 128).filter (fun d => w.getLsbD d && (f.imm.getLsbD 0 || d / 32 == c / 32))).map
        (fun d => alignTo (mant a d) (gAt a (d / 32)) (scopeExp a (scopeLanes f w (c / 32))))).sum) := by
  intro a w
  have hany : (scopeLanes f w (c / 32)).any (isSat a) = true ↔ ∃ d, InScope f w c d ∧ isSat a d = true := by
    simp only [List.any_eq_true, mem_scope]
  refine ⟨fun h => if_pos (hany.2 h), fun h => ?_⟩
  rw [← scopeLanes_eq]
  refine if_neg fun hs => ?_
  obtain ⟨d, hd, hd'⟩ := hany.1 hs
  simp [h d hd] at hd'

/-- The element index of a lane, or its place where the binding has none (R117). -/
def indexOf (v : VEngine) (c : Nat) : Nat := match v.idx with
  | some i => (i + c * v.lstride) % 2 ^ 64
  | none => c

theorem indexOf_eq (v : VEngine) (c : Nat) : (laneIndex v c).getD c = indexOf v c := by
  unfold laneIndex indexOf
  cases v.idx <;> rfl

/-- The value of a maximum or minimum. -/
def extremeRes (v : VEngine) (f : VFields) (useMax : Bool) (c : Nat) : Res :=
  let a := regAt v f.va
  let ls := scopeLanes f (writeMask v f) (c / 32)
  let p := scopeWinner v a useMax ls
  if p.r.o then .sat else .val (alignTo p.r.v p.r.x (scopeExp a ls))

/-- Its element index. -/
def extremeIdx (v : VEngine) (f : VFields) (useMax : Bool) (c : Nat) : Nat :=
  (scopeWinner v (regAt v f.va) useMax (scopeLanes f (writeMask v f) (c / 32))).idx

theorem extreme_eq (v : VEngine) (f : VFields) (useMax : Bool) : extreme v f useMax =
    commit (commit v f.vd (writeMask v f) (extremeRes v f useMax) (fun q => scopeExp (regAt v f.va) (scopeLanes f (writeMask v f) q)))
      f.vc (writeMask v f) (fun c => .val (BitVec.ofNat 64 (extremeIdx v f useMax c)).toInt) (fun _ => 0) := by
  unfold extreme
  simp only [sext_64]
  rfl

/-- RMAX and RMIN write the value first and then the index. -/
theorem extreme_wrote (ok : v.Ok) (hvd : f.vd < 64) (hvc : f.vc < 64) (useMax : Bool) :
    ∃ u1, Wrote v u1 f.vd (writeMask v f) (extremeRes v f useMax)
        (fun q => scopeExp (regAt v f.va) (scopeLanes f (writeMask v f) q)) ∧
      Wrote u1 (extreme v f useMax) f.vc (writeMask v f)
        (fun c => .val (BitVec.ofNat 64 (extremeIdx v f useMax c)).toInt) (fun _ => 0) := by
  rw [extreme_eq]
  exact ⟨_, wrote_commit ok hvd _ _ _, wrote_commit (ok_commit ok) hvc _ _ _⟩

/-- Does lane d hold a better value than lane e? -/
def BetterLane (a : VReg) (useMax : Bool) (d e : Nat) : Prop :=
  if useMax then ValueLt (mant a e, gAt a (e / 32)) (mant a d, gAt a (d / 32))
  else ValueLt (mant a d, gAt a (d / 32)) (mant a e, gAt a (e / 32))

theorem betterLane_iff (v : VEngine) (a : VReg) (useMax : Bool) (d e : Nat) :
    BetterLane a useMax d e ↔ worth useMax (candidate v a e) < worth useMax (candidate v a d) := by
  unfold BetterLane worth candidate
  cases useMax <;> simp [valueLt_iff]

/-- The winner: the first SAT lane by index, and else the best lane, the lowest index among equals (R108). -/
theorem extreme_spec (v : VEngine) (f : VFields) (useMax : Bool) {c : Nat} (hc : InScope f (writeMask v f) c c) :
    let a := regAt v f.va
    let w := writeMask v f
    let ls := scopeLanes f w (c / 32)
    ((∃ d, InScope f w c d ∧ isSat a d = true) → extremeRes v f useMax c = .sat ∧
      (∃ d, InScope f w c d ∧ isSat a d = true ∧ extremeIdx v f useMax c = indexOf v d) ∧
      ∀ d, InScope f w c d → isSat a d = true → extremeIdx v f useMax c ≤ indexOf v d) ∧
    ((∀ d, InScope f w c d → isSat a d = false) → ∃ d, InScope f w c d ∧ extremeIdx v f useMax c = indexOf v d ∧
      extremeRes v f useMax c = .val (alignTo (mant a d) (gAt a (d / 32)) (scopeExp a ls)) ∧
      ∀ e, InScope f w c e → ¬ BetterLane a useMax e d ∧ (¬ BetterLane a useMax d e → indexOf v d ≤ indexOf v e)) := by
  intro a w ls
  obtain ⟨d, hd, hwin, hall⟩ := scopeWinner_spec v a useMax (mem_scope.2 hc)
  have hidx : extremeIdx v f useMax c = indexOf v d := (congrArg Winner.idx hwin).trans (indexOf_eq v d)
  have hres : extremeRes v f useMax c = if isSat a d then .sat else .val (alignTo (mant a d) (gAt a (d / 32)) (scopeExp a ls)) := by
    unfold extremeRes
    dsimp only
    rw [hwin]
    rfl
  have hbeats : ∀ e, InScope f w c e → Beats useMax (candidate v a d) (candidate v a e) := fun e he => hall e (mem_scope.2 he)
  have hin := mem_scope.1 hd
  rw [hidx, hres]
  constructor
  · rintro ⟨e, he, hes⟩
    have hds : isSat a d = true := by
      rcases hbeats e he with ⟨h, _⟩ | ⟨_, h, _⟩
      · exact h
      · exact absurd hes (by simp [show isSat a e = false from h])
    refine ⟨if_pos hds, ⟨d, hin, hds, rfl⟩, fun k hk hks => ?_⟩
    rcases hbeats k hk with ⟨_, h⟩ | ⟨h, _⟩
    · simpa only [candidate, indexOf_eq] using h hks
    · exact absurd hds (by simp [show isSat a d = false from h])
  · intro hno
    have hds := hno d hin
    refine ⟨d, hin, rfl, if_neg (by simp [hds]), fun e he => ?_⟩
    rw [betterLane_iff v, betterLane_iff v]
    rcases hbeats e he with ⟨h, _⟩ | ⟨_, _, h⟩
    · exact absurd hds (by simp [show isSat a d = true from h])
    · simp only [candidate, indexOf_eq] at h ⊢
      rcases h with h | ⟨h, hi⟩
      · exact ⟨h.not_gt, fun hn => absurd h hn⟩
      · exact ⟨h.le.not_gt, fun _ => hi⟩

/-- RCNT counts the lanes of a scope in a mask. -/
theorem opRcnt_eq (v : VEngine) (f : VFields) : opRcnt v f = commit v f.vd (writeMask v f)
    (fun c => .val ((List.range 128).filter (fun d => (writeMask v f).getLsbD d &&
      (f.imm.getLsbD 0 || d / 32 == c / 32) && (maskAt v (f.va % 8)).getLsbD d)).length) (fun _ => 0) := by
  unfold opRcnt
  simp only [scopeLanes_eq, List.filter_filter, Bool.and_comm]

/-! ### Draws (R40, R132) -/

/-- The key of a draw of an ordinary binding (R41). -/
theorem drawKey_plain {m : Mooring} {bn : Bundle} {j : BindJob} (hjob : lanternJob s l = some (m, bn))
    (hcur : (lanternAt s l).vec.cur = some j) (hupd : j.update = none) (vd : Nat) :
    drawKey s l vd = ⟨j.priv.getD bn.seed, j.bind.tensor, m.step⟩ := by
  unfold drawKey
  rw [hjob, hcur]
  dsimp only
  rw [hupd]

theorem laneDraw_some {i : Nat} (hi : v.idx = some i) (k : DrawKey) (use c : Nat) :
    laneDraw v k use c = draw k.seed k.tensor k.step use ((i + c * v.lstride) % 2 ^ 64) := by
  simp [laneDraw, laneIndex, hi]

theorem opRand_some {i : Nat} (hi : v.idx = some i) (k : DrawKey) : opRand v f k = commit v f.vd (writeMask v f)
    (fun c => .val (draw k.seed k.tensor k.step (f.imm.toNat % 256) ((i + c * v.lstride) % 2 ^ 64)).toInt) (fun _ => 0) := by
  simp [opRand, hi, laneDraw_some hi, immNat]

theorem opRbits_some {i : Nat} (hi : v.idx = some i) (k : DrawKey) : opRbits v f k = commit v f.vd (writeMask v f)
    (fun c => .val ((draw k.seed k.tensor k.step (f.imm.toNat % 256) ((i + c * v.lstride) % 2 ^ 64)).toNat / 2 ^ 40)) (fun _ => -24) := by
  simp [opRbits, hi, laneDraw_some hi, immNat]

/-! ### NOP -/

theorem modVec_id (s : State) (l : Nat) : modVec s l (fun v => v) = s := by
  unfold modVec modLantern
  rw [show (fun x : Lantern => { x with vec := x.vec }) = id from rfl, List.modify_id]

end

end Sys2Proof.Machine
end

section
/-! PROOFS. O59 from its parts. -/

namespace Sys2Proof.Machine

section
variable {s : State} {l op : Nat} {f : VFields} {c : Instr} {h : Nat → Res} {e : Nat → Int}

/-- A lane instruction that ends in a commit writes the results that it commits (R122). -/
theorem issues_commit (hi : s.Inv) (hl : l < 192) (hr : Running s l f) (hvd : f.vd < 64) {g : VEngine → VFields → VEngine}
    (hx : exec c s = .next (issueLane s l op f g)) (hop : PlainOp op)
    (hg : g (lanternAt s l).vec f = commit (lanternAt s l).vec f.vd (writeMask (lanternAt s l).vec f) h e) :
    Issues c s l (fun u => Wrote (lanternAt s l).vec u f.vd (writeMask (lanternAt s l).vec f) h e) := by
  refine issues_lane hi hl hr hx hop ?_
  rw [hg]
  exact wrote_commit (vecOk_of_inv hi l) hvd _ _ _

theorem issues_keyed_commit (hi : s.Inv) (hl : l < 192) (hr : Running s l f) (hvd : f.vd < 64)
    {g : VEngine → VFields → DrawKey → VEngine} (hx : exec c s = .next (issueKeyed s l op f g)) (hop : PlainOp op)
    (hg : g (lanternAt s l).vec f (drawKey s l f.vd) = commit (lanternAt s l).vec f.vd (writeMask (lanternAt s l).vec f) h e) :
    Issues c s l (fun u => Wrote (lanternAt s l).vec u f.vd (writeMask (lanternAt s l).vec f) h e) := by
  refine issues_keyed hi hl hr hx hop ?_
  rw [hg]
  exact wrote_commit (vecOk_of_inv hi l) hvd _ _ _

theorem issues_nop (hi : s.Inv) (hl : l < 192) (hr : Running s l f) : Issues (.vNop l f) s l (fun u => u = (lanternAt s l).vec) := by
  refine issues_engine (g := fun v => v) (by rw [hi.1.1.1]; exact hl) ?_ rfl
  rw [modVec_id]
  exact congrArg _ (issueOne_plain (op := 0x00) hr (by unfold PlainOp; decide) _)

/-- RMAX and RMIN (R133): the value of the winner of each lane's scope and its index. -/
theorem issues_extreme (hi : s.Inv) (hl : l < 192) (hr : Running s l f) (hvd : f.vd < 64) (hvc : f.vc < 64) (useMax : Bool)
    (hx : exec c s = .next (issueLane s l op f (fun v f => extreme v f useMax))) (hop : PlainOp op) :
    let v := (lanternAt s l).vec
    let w := writeMask v f
    Issues c s l (fun u => ∃ u1, Wrote v u1 f.vd w (extremeRes v f useMax) (fun q => scopeExp (regAt v f.va) (scopeLanes f w q)) ∧
      Wrote u1 u f.vc w (fun c => .val (BitVec.ofNat 64 (extremeIdx v f useMax c)).toInt) (fun _ => 0)) :=
  issues_lane hi hl hr hx hop (extreme_wrote (vecOk_of_inv hi l) hvd hvc useMax)

/-- LOG2I's result of a lane. -/
theorem opLog2i_eq (v : VEngine) (f : VFields) : opLog2i v f = commit v f.vd (writeMask v f)
    (fun c => if isSat (regAt v f.va) c then .sat else if mant (regAt v f.va) c = 0 then .raise
      else .val (((mant (regAt v f.va) c).natAbs.log2 : Int) + gAt (regAt v f.va) (c / 32))) (fun _ => 0) := by
  have hres : ∀ (m g : Int), (if m = 0 then Res.raise else .val ((bitLen m.natAbs : Int) - 1 + g)) =
      if m = 0 then Res.raise else .val ((m.natAbs.log2 : Int) + g) := fun m g => by
    by_cases hm : m = 0
    · rw [if_pos hm, if_pos hm]
    · rw [if_neg hm, if_neg hm, bitLen_sub_one hm]
  unfold opLog2i
  simp only [hres]

/-- A compare is decided by the order of the two exact values (R125, R126). -/
theorem issues_compare_order (hi : s.Inv) (hl : l < 192) (hr : Running s l f) (hvd : f.vd < 8) {p : Int → Bool}
    {q : Prop → Prop → Prop} (hx : exec c s = .next (issueLane s l op f (fun v f => compare2 v f p))) (hop : PlainOp op)
    (hq : ∀ d : Int, p d = true ↔ q (d < 0) (0 < d)) :
    let a := regAt (lanternAt s l).vec f.va
    let b := regAt (lanternAt s l).vec f.vb
    Issues c s l (fun u => WroteMask (lanternAt s l).vec u f.vd (writeMask (lanternAt s l).vec f)
      (fun c => (isSat a c = false ∧ isSat b c = false) ∧
        q (ValueLt (mant a c, gAt a (c / 32)) (mant b c, gAt b (c / 32))) (ValueLt (mant b c, gAt b (c / 32)) (mant a c, gAt a (c / 32))))) := by
  refine issues_compare hi hl hr hvd hx hop fun c => (hq _).trans ?_
  obtain ⟨h1, h2⟩ := cmpExact_sign (mant_bound (regAt (lanternAt s l).vec f.va) c) (mant_bound (regAt (lanternAt s l).vec f.vb) c)
    (gAt (regAt (lanternAt s l).vec f.va) (c / 32)) (gAt (regAt (lanternAt s l).vec f.vb) (c / 32))
  rw [propext h1, propext h2]

end

/-- NORM's results (R126). -/
theorem opNorm_wrote {v : VEngine} {f : VFields} (ok : v.Ok) (hvd : f.vd < 64) : Wrote v (opNorm v f) f.vd (writeMask v f)
    (fun c => if isSat (regAt v f.va) c then .sat else .val (alignTo (mant (regAt v f.va) c) (gAt (regAt v f.va) (c / 32))
      ((normExp (regAt v f.va) (writeMask v f) (c / 32)).getD 0)))
    (fun q => (normExp (regAt v f.va) (writeMask v f) q).getD 0) := by
  unfold opNorm
  exact (wrote_commit ok hvd _ _ _).congr fun c hc hw => normRes_eq hw hc

/-- NORM's exponent: 0 for a group without a nonzero value, and else what brings its largest magnitude to 62 bits. -/
theorem normExp_spec (a : VReg) (w : BitVec 128) (q : Nat) :
    ((∀ c, Live a w q c → mant a c = 0) → (normExp a w q).getD 0 = 0) ∧
    ∀ c (n : Nat), Live a w q c → mant a c ≠ 0 → (∀ d, Live a w q d → (mant a d).natAbs < 2 ^ n) →
      2 ^ n ≤ 2 * (mant a c).natAbs → (normExp a w q).getD 0 = gAt a q + n - 62 := by
  refine ⟨fun h0 => ?_, fun c n hc hm hlt hle => ?_⟩
  · rw [normExp_eq, if_pos (normLen_eq_zero_iff.2 h0)]
    rfl
  · have hlen := normLen_eq hc hlt hle
    have hne : normLen a w q ≠ 0 := fun h => hm (normLen_eq_zero_iff.1 h c hc)
    rw [normExp_eq, if_neg hne, hlen]
    rfl

/-- Settles O59: every clause is the instruction's commit with the results that R125 to R128, R132 and R133 give. -/
theorem groupInstructions : Obligations.GroupInstructions := by
  unfold Obligations.GroupInstructions
  intro s l f hi hl hvd hr v w a b ga gb Gives Tests clear ab ba live scope top index
  have hplain : ∀ op ∈ [0x23, 0x30, 0x31, 0x32, 0x33, 0x34, 0x35, 0x36, 0x37, 0x38, 0x39, 0x40, 0x41, 0x42, 0x43, 0x48, 0x49,
      0x60, 0x61, 0x62, 0x63], PlainOp op := by
    unfold PlainOp
    decide
  have htop : top (fun q => scopeExp a (scopeLanes f w q)) := fun c _ hd => scopeExp_top hd
  refine ⟨issues_nop hi hl hr, fun hvd8 => ⟨?_, ?_, ?_, ?_, ?_, ?_, ?_, ?_, ?_, ?_⟩, ?_, fun t ht => ?_, ?_, ?_, ?_, ?_,
    fun hvc => ?_, ?_, fun m bn j i hjob hcur hupd hidx => ⟨?_, ?_⟩⟩
  · -- CEQ
    exact issues_compare_order (op := 0x30) (q := fun lt gt => ¬ lt ∧ ¬ gt) hi hl hr hvd8 rfl (hplain _ (by simp)) fun d => by
      rw [decide_eq_true_eq]; omega
  · -- CNE
    exact issues_compare_order (op := 0x31) (q := fun lt gt => lt ∨ gt) hi hl hr hvd8 rfl (hplain _ (by simp)) fun d => by
      rw [decide_eq_true_eq]; omega
  · -- CLT
    exact issues_compare_order (op := 0x32) (q := fun lt _ => lt) hi hl hr hvd8 rfl (hplain _ (by simp)) fun _ => decide_eq_true_iff
  · -- CLE
    exact issues_compare_order (op := 0x33) (q := fun _ gt => ¬ gt) hi hl hr hvd8 rfl (hplain _ (by simp)) fun d => by
      rw [decide_eq_true_eq]; omega
  · -- CGT
    exact issues_compare_order (op := 0x34) (q := fun _ gt => gt) hi hl hr hvd8 rfl (hplain _ (by simp)) fun _ => decide_eq_true_iff
  · -- CGE
    exact issues_compare_order (op := 0x35) (q := fun lt _ => ¬ lt) hi hl hr hvd8 rfl (hplain _ (by simp)) fun d => by
      rw [decide_eq_true_eq]; omega
  · -- CSAT
    exact issues_mask (op := 0x36) hi hl hr hvd8 rfl (hplain _ (by simp)) rfl fun _ => Iff.rfl
  · -- MAND
    exact issues_mask (op := 0x37) hi hl hr hvd8 rfl (hplain _ (by simp)) rfl fun _ => Bool.and_eq_true_iff
  · -- MOR
    exact issues_mask (op := 0x38) hi hl hr hvd8 rfl (hplain _ (by simp)) rfl fun _ => Bool.or_eq_true_iff
  · -- MNOT
    exact issues_mask (op := 0x39) hi hl hr hvd8 rfl (hplain _ (by simp)) rfl fun _ => by
      rw [Bool.not_eq_true']
  · -- NORM
    exact ⟨fun q => (normExp a w q).getD 0,
      issues_lane (op := 0x23) hi hl hr rfl (hplain _ (by simp)) (opNorm_wrote (vecOk_of_inv hi l) hvd), normExp_spec a w⟩
  · -- TLU
    exact issues_lane (op := 0x40) hi hl hr rfl (hplain _ (by simp)) (opTlu_wrote (vecOk_of_inv hi l) hvd ht)
  · -- RECIP
    exact ⟨recipVal a w, recipExp a w, issues_commit (op := 0x41) hi hl hr hvd rfl (hplain _ (by simp)) (opRecip_eq v f), fun q =>
      ⟨recipExp_none, fun c n hc hm hlt hle => recip_spec hc hm hlt hle⟩⟩
  · -- RSQRT
    refine ⟨fun c => rsqrtVal a w c, rsqrtExp a w, issues_commit (op := 0x42) hi hl hr hvd rfl (hplain _ (by simp)) (opRsqrt_eq v f),
      fun q => ⟨rsqrtExp_none, fun c n hc hm hlt hle => ?_⟩⟩
    obtain ⟨hplace, hexp, hpos⟩ := rsqrt_spec hc hm hlt hle
    refine ⟨hexp, fun d hd hd0 => ?_⟩
    obtain ⟨heven, h64⟩ := hpos d hd hd0
    obtain ⟨-, hdq, -, -⟩ := hd
    exact rsqrtVal_spec (hdq ▸ hplace) (hplace ▸ h64) hd0 heven
  · -- LOG2I
    exact ⟨fun c => (mant a c).natAbs.log2, issues_commit (op := 0x43) hi hl hr hvd rfl (hplain _ (by simp)) (opLog2i_eq v f),
      fun c hm => log2_bounds hm⟩
  · -- RSUM
    exact ⟨rsumRes v f, _, issues_commit (op := 0x60) hi hl hr hvd rfl (hplain _ (by simp)) (opRsum_eq v f), htop,
      fun c _ => rsumRes_spec v f c⟩
  · -- RMAX and RMIN
    refine List.forall_mem_cons.2 ⟨?_, List.forall_mem_singleton.2 ?_⟩
    · refine ⟨_, _, _, htop, issues_extreme (op := 0x61) hi hl hr hvd hvc true rfl (hplain _ (by simp)), ?_⟩
      simp only [if_true]
      exact fun c hc => extreme_spec v f true hc
    · refine ⟨_, _, _, htop, issues_extreme (op := 0x62) hi hl hr hvd hvc false rfl (hplain _ (by simp)), ?_⟩
      simp only [reduceCtorEq, if_false]
      exact fun c hc => extreme_spec v f false hc
  · -- RCNT
    exact issues_commit (op := 0x63) hi hl hr hvd rfl (hplain _ (by simp)) (opRcnt_eq v f)
  · -- RAND
    refine issues_keyed_commit (op := 0x48) hi hl hr hvd rfl (hplain _ (by simp)) ?_
    rw [drawKey_plain hjob hcur hupd]
    exact opRand_some hidx _
  · -- RBITS
    refine issues_keyed_commit (op := 0x49) hi hl hr hvd rfl (hplain _ (by simp)) ?_
    rw [drawKey_plain hjob hcur hupd]
    exact opRbits_some hidx _

end Sys2Proof.Machine
end

section
/-! PROOFS. Requantisation and records of the vector engine (O13, R129, R130, R208). -/

namespace Sys2Proof.Machine

section
variable {s : State} {v : VEngine} {l op vd n c : Nat} {f : VFields} {k : DrawKey} {w : BitVec 128}

/-! ### Lanes of a group in order -/

theorem liveLanes_sorted (w : BitVec 128) (q : Nat) : (liveLanes w q).Pairwise (· < ·) := by
  rw [liveLanes_eq]
  exact List.pairwise_lt_range.filter _

/-- In a rising list the place of an element is the number of smaller ones. -/
theorem length_filter_lt {ls : List Nat} (hs : ls.Pairwise (· < ·)) (hc : c ∈ ls) : (ls.filter (· < c)).length = ls.idxOf c := by
  induction ls with
  | nil => cases hc
  | cons x xs ih =>
    obtain ⟨hx, hxs⟩ := List.pairwise_cons.1 hs
    by_cases he : x = c
    · subst he
      have hnil : xs.filter (· < x) = [] := List.filter_eq_nil_iff.2 fun y hy => by simpa using (hx y hy).le
      simp [hnil]
    · have hcx : c ∈ xs := (List.mem_cons.1 hc).resolve_left (Ne.symm he)
      rw [List.filter_cons_of_pos (by simpa using hx c hcx), List.length_cons, ih hxs hcx, List.idxOf_cons_ne _ he]

/-- The place of a written lane among its group's live lanes. -/
theorem length_place (hw : w.getLsbD c = true) : ((liveLanes w (c / 32)).filter (· < c)).length = (liveLanes w (c / 32)).idxOf c :=
  length_filter_lt (liveLanes_sorted w _) ((mem_liveLanes w _ c).2 ⟨rfl, hw⟩)

theorem any_liveLanes {p : Nat → Bool} : (List.range 4).any (fun q => !(liveLanes w q).isEmpty && p q) = true ↔
    ∃ c, c < 128 ∧ w.getLsbD c = true ∧ p (c / 32) = true := by
  simp only [List.any_eq_true, List.mem_range, Bool.and_eq_true, Bool.not_eq_true', List.isEmpty_eq_false_iff_exists_mem, mem_liveLanes]
  constructor
  · rintro ⟨q, hq, ⟨c, rfl, hw⟩, hp⟩
    exact ⟨c, by omega, hw, hp⟩
  · rintro ⟨c, hc, hw, hp⟩
    exact ⟨c / 32, by omega, ⟨c, rfl, hw⟩, hp⟩

/-- Only the results and the exponents of groups with a written lane count. -/
theorem Wrote.congr_groups {u : VEngine} {h h' : Nat → Res} {g g' : Nat → Int} (hw : Wrote v u vd w h g)
    (hh : ∀ c, c < 128 → w.getLsbD c = true → h c = h' c ∧ g (c / 32) = g' (c / 32)) : Wrote v u vd w h' g' := by
  obtain ⟨hregs, hother, htakes, hg, hg', b, hb, hu⟩ := hw.congr (h' := h') fun c hc hcw => (hh c hc hcw).1
  refine ⟨hregs, hother, fun c hc hcw => (hh c hc hcw).2 ▸ htakes c hc hcw, fun c hc hcw => (hh c hc hcw).2 ▸ hg c hc hcw,
    fun q hq hno => hg' q hq ?_, b, hb.trans ?_, hu⟩
  · by_cases hnone : ∀ c, c < 128 → c / 32 = q → w.getLsbD c = false
    · exact .inl hnone
    · push Not at hnone
      obtain ⟨c, hc, rfl, hcw⟩ := hnone
      rw [(hh c hc (by simpa using hcw)).2]
      exact hno
  · refine exists_congr fun c => and_congr_right fun hc => and_congr_right fun hcw => ?_
    rw [(hh c hc hcw).2]

/-! ### Requantisation (R129) -/

/-- A group's input as the engine gives it to requantise. -/
def siteIn (w : BitVec 128) (input : Nat → List (Int × Bool) × Int) (q : Nat) : ReqIn := ⟨liveLanes w q, (input q).1, (input q).2⟩

/-- What requantise returns for a group. -/
def siteOut (v : VEngine) (f : VFields) (k : DrawKey) (w : BitVec 128) (input : Nat → List (Int × Bool) × Int) (q : Nat) : ReqOut :=
  reqGroup v f k (input q).1 (input q).2 (liveLanes w q)

/-- The mantissa that it returns for a lane. -/
def siteMant (v : VEngine) (f : VFields) (k : DrawKey) (w : BitVec 128) (input : Nat → List (Int × Bool) × Int) (c : Nat) : Int :=
  (siteOut v f k w input (c / 32)).m.getD ((liveLanes w (c / 32)).idxOf c) 0

def siteRes (v : VEngine) (f : VFields) (k : DrawKey) (w : BitVec 128) (input : Nat → List (Int × Bool) × Int) (c : Nat) : Res :=
  if (siteOut v f k w input (c / 32)).e = 255 ∨ fmtOf f.imm.toNat ≠ .b32 ∧ siteMant v f k w input c = satCode (fmtOf f.imm.toNat) then .sat
  else .val (siteMant v f k w input c)

def siteExp (v : VEngine) (f : VFields) (k : DrawKey) (w : BitVec 128) (input : Nat → List (Int × Bool) × Int) (q : Nat) : Int :=
  if 1 ≤ (siteOut v f k w input q).e ∧ (siteOut v f k w input q).e ≤ 254 then ((siteOut v f k w input q).e : Int) - 127 else 0

/-- The groups' outputs; a group without a live lane has none. -/
def siteOuts (v : VEngine) (f : VFields) (k : DrawKey) (w : BitVec 128) (input : Nat → List (Int × Bool) × Int) : List ReqOut :=
  (List.range 4).map (fun q => if (liveLanes w q).isEmpty then ⟨[], 0, false, false⟩ else siteOut v f k w input q)

theorem reqAll_eq (v : VEngine) (f : VFields) (k : DrawKey) (input : Nat → List (Int × Bool) × Int) :
    let w := writeMask v f
    let ins := (List.range 4).map (siteIn w input)
    reqAll v f k ins = siteStats (commitReq v f w (siteOuts v f k w input)) f ins (siteOuts v f k w input) := by
  simp only [reqAll, List.map_map]
  rfl

theorem siteOuts_any {input : Nat → List (Int × Bool) × Int} {p : ReqOut → Bool} (hp : p ⟨[], 0, false, false⟩ = false) :
    (siteOuts v f k w input).any p = true ↔ ∃ c, c < 128 ∧ w.getLsbD c = true ∧ p (siteOut v f k w input (c / 32)) = true := by
  rw [← any_liveLanes (p := fun q => p (siteOut v f k w input q)), siteOuts, List.any_map]
  have he : ∀ q, p (if (liveLanes w q).isEmpty then ⟨[], 0, false, false⟩ else siteOut v f k w input q) =
      (!(liveLanes w q).isEmpty && p (siteOut v f k w input q)) := fun q => by
    cases (liveLanes w q).isEmpty <;> simp [hp]
  simp only [Function.comp_def, he]

/-- A written lane's group has what requantise returns for it. -/
theorem siteOuts_getD {input : Nat → List (Int × Bool) × Int} (hc : c < 128) (hw : w.getLsbD c = true) (d : ReqOut) :
    (siteOuts v f k w input).getD (c / 32) d = siteOut v f k w input (c / 32) := by
  have hne : (liveLanes w (c / 32)).isEmpty = false :=
    List.isEmpty_eq_false_iff_exists_mem.2 ⟨c, (mem_liveLanes w _ c).2 ⟨rfl, hw⟩⟩
  rw [siteOuts, List.getD_eq_getElem?_getD, List.getElem?_map, List.getElem?_range (by omega), Option.map_some, hne]
  rfl

/-- The result of a lane and the exponent of a group that commitReq takes from the groups' outputs. -/
def outsRes (f : VFields) (w : BitVec 128) (outs : List ReqOut) (c : Nat) : Res :=
  let o := outs.getD (c / 32) ⟨[], 0, false, false⟩
  let m := o.m.getD ((liveLanes w (c / 32)).filter (· < c)).length 0
  if o.e = 255 ∨ (fmtOf f.imm.toNat ≠ .b32 ∧ m = satCode (fmtOf f.imm.toNat)) then .sat else .val m

def outsExp (outs : List ReqOut) (q : Nat) : Int :=
  let e := (outs.getD q ⟨[], 0, false, false⟩).e
  if 1 ≤ e ∧ e ≤ 254 then (e : Int) - 127 else 0

theorem commitReq_eq (v : VEngine) (f : VFields) (w : BitVec 128) (outs : List ReqOut) :
    commitReq v f w outs = raiseFlag (raiseFlag (commit v f.vd w (outsRes f w outs) (outsExp outs)) flSat (outs.any (·.sat))) flUnf
      (outs.any (·.unf)) := rfl

/-- What a requantisation writes, and the flags that it raises. -/
theorem commitReq_spec (ok : v.Ok) (hvd : f.vd < 64) (input : Nat → List (Int × Bool) × Int) :
    ∃ u1, Wrote v u1 f.vd w (siteRes v f k w input) (siteExp v f k w input) ∧
      commitReq v f w (siteOuts v f k w input) = { u1 with
        flags := orFlag (orFlag u1.flags flSat ((siteOuts v f k w input).any (·.sat))) flUnf ((siteOuts v f k w input).any (·.unf)) } := by
  have hw := wrote_commit ok hvd w (outsRes f w (siteOuts v f k w input)) (outsExp (siteOuts v f k w input))
  refine ⟨_, hw.congr_groups (h' := siteRes v f k w input) (g' := siteExp v f k w input) fun c hc hcw => ?_, commitReq_eq ..⟩
  unfold outsRes outsExp
  rw [siteOuts_getD hc hcw, length_place hcw]
  exact ⟨rfl, rfl⟩

theorem siteStats_spec (v : VEngine) (f : VFields) (ins : List ReqIn) (outs : List ReqOut) : let u := siteStats v f ins outs
    u = { v with gtop := u.gtop, ghalf := u.ghalf, gsat := u.gsat } ∧
    (bits f.imm.toNat 21 14 ≠ 2 → u.gtop = v.gtop ∧ u.ghalf = v.ghalf ∧ u.gsat = v.gsat) ∧
    (bits f.imm.toNat 21 14 = 2 → u.gsat = (v.gsat || outs.any (·.sat))) := by
  unfold siteStats
  by_cases h : bits f.imm.toNat 21 14 = 2
  · rw [immNat, if_pos h]
    exact ⟨rfl, fun hn => absurd h hn, fun _ => rfl⟩
  · rw [immNat, if_neg h]
    exact ⟨rfl, fun _ => ⟨rfl, rfl, rfl⟩, fun hp => absurd hp h⟩

/-- A whole requantisation: results, flags and the statistics of a site (R129, R208). -/
theorem reqAll_spec (ok : v.Ok) (hvd : f.vd < 64) (hw : writeMask v f = w) (input : Nat → List (Int × Bool) × Int) :
    let u := reqAll v f k ((List.range 4).map (siteIn w input))
    ∃ u1, Wrote v u1 f.vd w (siteRes v f k w input) (siteExp v f k w input) ∧ ∃ bs bu : Bool,
      (bs = true ↔ ∃ c, c < 128 ∧ w.getLsbD c = true ∧ (siteOut v f k w input (c / 32)).sat = true) ∧
      (bu = true ↔ ∃ c, c < 128 ∧ w.getLsbD c = true ∧ (siteOut v f k w input (c / 32)).unf = true) ∧
      u = { u1 with flags := orFlag (orFlag u1.flags flSat bs) flUnf bu, gtop := u.gtop, ghalf := u.ghalf, gsat := u.gsat } ∧
      (bits f.imm.toNat 21 14 ≠ 2 → u.gtop = v.gtop ∧ u.ghalf = v.ghalf ∧ u.gsat = v.gsat) ∧
      (bits f.imm.toNat 21 14 = 2 → u.gsat = (v.gsat || bs)) := by
  subst hw
  intro u
  obtain ⟨u1, hu1, hc⟩ := commitReq_spec (w := writeMask v f) (k := k) ok hvd input
  have hu : u = siteStats (commitReq v f (writeMask v f) (siteOuts v f k (writeMask v f) input)) f
    ((List.range 4).map (siteIn (writeMask v f) input)) (siteOuts v f k (writeMask v f) input) := reqAll_eq v f k input
  obtain ⟨h1, h2, h3⟩ := siteStats_spec (commitReq v f (writeMask v f) (siteOuts v f k (writeMask v f) input)) f
    ((List.range 4).map (siteIn (writeMask v f) input)) (siteOuts v f k (writeMask v f) input)
  rw [← hu] at h1 h2 h3
  clear_value u
  obtain ⟨-, -, -, -, -, b, -, hkeep⟩ := id hu1
  have e1 : u1.gtop = v.gtop := (congrArg VEngine.gtop hkeep).trans rfl
  have e2 : u1.ghalf = v.ghalf := (congrArg VEngine.ghalf hkeep).trans rfl
  have e3 : u1.gsat = v.gsat := (congrArg VEngine.gsat hkeep).trans rfl
  rw [hc] at h1 h2 h3
  refine ⟨u1, hu1, _, _, siteOuts_any rfl, siteOuts_any rfl, h1,
    fun hn => ?_, fun hp => ?_⟩
  · obtain ⟨a1, a2, a3⟩ := h2 hn
    exact ⟨a1.trans e1, a2.trans e2, a3.trans e3⟩
  · rw [h3 hp]
    exact congrArg (· || _) e3

/-! ### Records (R130) -/

/-- The O and I bits of the m0 lanes' records reach OVF and INX. -/
theorem notePair_spec (v : VEngine) (n : Nat) : ∃ bo bi : Bool,
    (bo = true ↔ ∃ c, c < 128 ∧ (maskAt v 0).getLsbD c = true ∧ (pairRec v n c).o = true) ∧
    (bi = true ↔ ∃ c, c < 128 ∧ (maskAt v 0).getLsbD c = true ∧ (pairRec v n c).i = true) ∧
    notePair v n = { v with flags := orFlag (orFlag v.flags flOvf bo) flInx bi } := by
  refine ⟨_, _, ?_, ?_, rfl⟩ <;> simp

/-- The exponents of a register of a written pair. -/
def pairExps (w : BitVec 128) (g : List Int) : List Int := g.zipIdx.map (fun p => if (liveLanes w p.2).isEmpty then p.1 else 0)

/-- The lanes of a register of a written pair. -/
def pairLanes (w : BitVec 128) (x : Nat → Lane) (ls : List Lane) : List Lane := ls.zipIdx.map (fun p => if w.getLsbD p.2 then x p.2 else p.1)

/-- The even and the odd register of a written pair. -/
def pairEven (w : BitVec 128) (rs : Nat → Rec) (r : VReg) : VReg :=
  ⟨pairLanes w (fun c => if (rs c).o then ⟨0, true⟩ else ⟨BitVec.ofInt 64 (rs c).v, false⟩) r.lanes, pairExps w r.g⟩

def pairOdd (w : BitVec 128) (rs : Nat → Rec) (r : VReg) : VReg :=
  ⟨pairLanes w (fun c => ⟨recWord (rs c), false⟩) r.lanes, pairExps w r.g⟩

theorem laneAt_pairLanes {ls : List Lane} {g : List Int} (hl : ls.length = 128) (hc : c < 128) (x : Nat → Lane) :
    laneAt ⟨pairLanes w x ls, g⟩ c = if w.getLsbD c then x c else laneAt ⟨ls, g⟩ c := by
  unfold laneAt pairLanes
  rw [getD_zipIdx_map _ _ _ _ (by omega)]

theorem gAt_pairExps {ls ls' : List Lane} {g : List Int} (hg : g.length = 4) :
    (∀ c, c < 128 → w.getLsbD c = true → gAt ⟨ls, pairExps w g⟩ (c / 32) = 0) ∧
    (∀ q, q < 4 → (∀ c, c < 128 → c / 32 = q → w.getLsbD c = false) → gAt ⟨ls, pairExps w g⟩ q = gAt ⟨ls', g⟩ q) := by
  have hat : ∀ q, q < 4 → gAt ⟨ls, pairExps w g⟩ q = if (liveLanes w q).isEmpty then gAt ⟨ls', g⟩ q else 0 := fun q hq => by
    unfold gAt pairExps
    rw [getD_zipIdx_map _ _ _ _ (by omega)]
  refine ⟨fun c hc hw => ?_, fun q hq hno => ?_⟩
  · rw [hat _ (by omega), List.isEmpty_eq_false_iff_exists_mem.2 ⟨c, (mem_liveLanes w _ c).2 ⟨rfl, hw⟩⟩]
    rfl
  · have hnil : liveLanes w q = [] := List.eq_nil_iff_forall_not_mem.2 fun c hc => by
      obtain ⟨hq', hw⟩ := (mem_liveLanes w q c).1 hc
      rw [hno c (by omega) hq'] at hw
      cases hw
    rw [hat q hq, hnil]
    rfl

theorem length_modReg (v : VEngine) (n : Nat) (g : VReg → VReg) : (modReg v n g).regs.length = v.regs.length := List.length_modify ..

/-- What putPair writes (R130). -/
theorem wrotePair_putPair (ok : v.Ok) (hvd : vd + 1 < 64) (w : BitVec 128) (rs : Nat → Rec) : WrotePair v (putPair v vd w rs) vd w rs := by
  have hreg : ∀ k, regAt (putPair v vd w rs) k =
      if vd + 1 = k then pairOdd w rs (regAt v k) else if vd = k then pairEven w rs (regAt v k) else regAt v k := fun k => by
    unfold putPair
    rw [regAt_modReg, regAt_modReg, length_modReg, ok.1.1]
    by_cases h1 : vd + 1 = k
    · rw [if_pos ⟨h1, by omega⟩, if_pos h1, if_neg (by omega)]
      rfl
    · rw [if_neg (by tauto), if_neg h1]
      by_cases h0 : vd = k
      · rw [if_pos ⟨h0, by omega⟩, if_pos h0]
        rfl
      · rw [if_neg (by tauto), if_neg h0]
  have heven : regAt (putPair v vd w rs) vd = pairEven w rs (regAt v vd) := by
    rw [hreg, if_neg (by omega), if_pos rfl]
  have hodd : regAt (putPair v vd w rs) (vd + 1) = pairOdd w rs (regAt v (vd + 1)) := by
    rw [hreg, if_pos rfl]
  have hok : ∀ k, k < 64 → (regAt v k).lanes.length = 128 ∧ (regAt v k).g.length = 4 := fun k hk => by
    have hlt : k < v.regs.length := by rw [ok.1.1]; exact hk
    have hmem : regAt v k ∈ v.regs := by
      unfold regAt
      rw [List.getD_eq_getElem?_getD, List.getElem?_eq_getElem hlt]
      exact List.getElem_mem hlt
    exact ok.1.2 _ hmem
  obtain ⟨hl0, hg0⟩ := hok vd (by omega)
  obtain ⟨hl1, hg1⟩ := hok (vd + 1) hvd
  refine ⟨rfl, fun n h0 h1 => ?_, List.forall_mem_cons.2 ⟨?_, List.forall_mem_singleton.2 ?_⟩, fun c hc hw => ⟨?_, ?_⟩⟩
  · rw [hreg, if_neg (Ne.symm h1), if_neg (Ne.symm h0)]
  · rw [heven]
    exact ⟨fun c hc hw => (laneAt_pairLanes hl0 hc _).trans (if_neg (by simp [hw])), gAt_pairExps hg0⟩
  · rw [hodd]
    exact ⟨fun c hc hw => (laneAt_pairLanes hl1 hc _).trans (if_neg (by simp [hw])), gAt_pairExps hg1⟩
  · rw [heven]
    exact (laneAt_pairLanes hl0 hc _).trans (if_pos hw)
  · rw [hodd]
    exact (laneAt_pairLanes hl1 hc _).trans (if_pos hw)

end

end Sys2Proof.Machine
end

section
/-! PROOFS. The record instructions as commands, and merges (O13, R101, R102, R129, R130, R134). -/

namespace Sys2Proof.Machine

section
variable {s : State} {v : VEngine} {l op c : Nat} {f : VFields} {k : DrawKey} {w : BitVec 128} {i : Instr} {P : VEngine → Prop}

/-! ### REQ and REQR (R129) -/

/-- A site's controls are in its IMM alone (R207). -/
theorem siteFields_imm (s : State) (l op : Nat) (f : VFields) : ∃ imm, siteFields s l op f = { f with imm := imm } := by
  unfold siteFields
  split
  · split
    · split
      · exact ⟨_, rfl⟩
      · exact ⟨f.imm, rfl⟩
    · exact ⟨f.imm, rfl⟩
  · exact ⟨f.imm, rfl⟩

/-- A site gives what its engine operation gives with the Keeper's controls. -/
theorem issues_site (hi : s.Inv) (hl : l < 192) (hr : Running s l f) {g : VEngine → VFields → DrawKey → VEngine}
    (hx : exec i s = .next (issueKeyed s l op f g)) (hop : op ≠ 0x68 ∧ op ≠ 0x6A ∧ op ≠ 0x6C)
    (hP : P (g (lanternAt s l).vec (siteFields s l op f) (drawKey s l f.vd))) : Issues i s l P := by
  have hvd : (siteFields s l op f).vd = f.vd := by
    obtain ⟨imm, h⟩ := siteFields_imm s l op f
    rw [h]
  unfold issueKeyed at hx
  rw [issueOne_running hr (stalls_of_not_load hr.2.2 hop), hvd] at hx
  exact issues_engine (by rw [hi.1.1.1]; exact hl) hx hP

/-- The records of a pair as a requantisation takes them. -/
theorem opReqr_eq (v : VEngine) (f : VFields) (k : DrawKey) : opReqr v f k = reqAll (notePair v f.va) f k
    ((List.range 4).map (siteIn (writeMask v f) (fun q => toRequant ((liveLanes (writeMask v f) q).map (pairRec v f.va))))) := rfl

theorem opReq_eq (v : VEngine) (f : VFields) (k : DrawKey) : opReq v f k = reqAll v f k
    ((List.range 4).map (siteIn (writeMask v f) (fun q => ((liveLanes (writeMask v f) q).map
      (fun c => (if isSat (regAt v f.va) c then 0 else mant (regAt v f.va) c, isSat (regAt v f.va) c)), gAt (regAt v f.va) q)))) := rfl

/-- What a REQ or REQR of an engine does: it starts at v1, and its draws are those of the engine before (R129). -/
def Requantised (v v1 u : VEngine) (f : VFields) (k : DrawKey) (input : Nat → List (Int × Bool) × Int) : Prop :=
  let w := writeMask v f
  ∃ u1, Wrote v1 u1 f.vd w (siteRes v f k w input) (siteExp v f k w input) ∧ ∃ bs bu : Bool,
    (bs = true ↔ ∃ c, c < 128 ∧ w.getLsbD c = true ∧ (siteOut v f k w input (c / 32)).sat = true) ∧
    (bu = true ↔ ∃ c, c < 128 ∧ w.getLsbD c = true ∧ (siteOut v f k w input (c / 32)).unf = true) ∧
    u = { u1 with flags := orFlag (orFlag u1.flags flSat bs) flUnf bu, gtop := u.gtop, ghalf := u.ghalf, gsat := u.gsat } ∧
    (bits f.imm.toNat 21 14 ≠ 2 → u.gtop = v.gtop ∧ u.ghalf = v.ghalf ∧ u.gsat = v.gsat) ∧
    (bits f.imm.toNat 21 14 = 2 → u.gsat = (v.gsat || bs))

theorem siteOut_notePair (v : VEngine) (n : Nat) (f : VFields) (k : DrawKey) (w : BitVec 128) (input : Nat → List (Int × Bool) × Int) :
    siteOut (notePair v n) f k w input = siteOut v f k w input := rfl

theorem siteRes_notePair (v : VEngine) (n : Nat) (f : VFields) (k : DrawKey) (w : BitVec 128) (input : Nat → List (Int × Bool) × Int) :
    siteRes (notePair v n) f k w input = siteRes v f k w input := rfl

theorem siteExp_notePair (v : VEngine) (n : Nat) (f : VFields) (k : DrawKey) (w : BitVec 128) (input : Nat → List (Int × Bool) × Int) :
    siteExp (notePair v n) f k w input = siteExp v f k w input := rfl

theorem requantised_opReq (ok : v.Ok) (hvd : f.vd < 64) (k : DrawKey) : Requantised v v (opReq v f k) f k
    (fun q => ((liveLanes (writeMask v f) q).map
      (fun c => (if isSat (regAt v f.va) c then 0 else mant (regAt v f.va) c, isSat (regAt v f.va) c)), gAt (regAt v f.va) q)) := by
  rw [opReq_eq]
  exact reqAll_spec ok hvd rfl _

theorem requantised_opReqr (ok : v.Ok) (hvd : f.vd < 64) (k : DrawKey) : Requantised v (notePair v f.va) (opReqr v f k) f k
    (fun q => toRequant ((liveLanes (writeMask v f) q).map (pairRec v f.va))) := by
  rw [opReqr_eq]
  have h := reqAll_spec (v := notePair v f.va) (w := writeMask v f) (k := k) (ok_raiseRecs ok) hvd rfl
    (fun q => toRequant ((liveLanes (writeMask v f) q).map (pairRec v f.va)))
  simp only [siteRes_notePair, siteExp_notePair, siteOut_notePair] at h
  exact h

/-! ### RJAM, REC and RADD (R130) -/

/-- A group of a record pair through to_requant (R103). -/
def jamGroup (v : VEngine) (f : VFields) (q : Nat) : List (Int × Bool) × Int :=
  toRequant ((liveLanes (writeMask v f) q).map (pairRec v f.va))

/-- RJAM's result of a lane that stands at a place of its group. -/
def jamRes (v : VEngine) (f : VFields) (place : Nat → Nat) (c : Nat) : Res :=
  let p := (jamGroup v f (c / 32)).1.getD (place c) (0, false)
  if p.2 then .sat else .val p.1

theorem opRjam_eq (v : VEngine) (f : VFields) : opRjam v f = commit (notePair v f.va) f.vd (writeMask v f)
    (jamRes v f (fun c => ((liveLanes (writeMask v f) (c / 32)).filter (· < c)).length)) (fun q => (jamGroup v f q).2) := rfl

theorem opRjam_wrote (ok : v.Ok) (hvd : f.vd < 64) : Wrote (notePair v f.va) (opRjam v f) f.vd (writeMask v f)
    (jamRes v f (fun c => (liveLanes (writeMask v f) (c / 32)).idxOf c)) (fun q => (jamGroup v f q).2) := by
  rw [opRjam_eq]
  refine (wrote_commit (ok_raiseRecs ok) hvd _ _ _).congr fun c _ hw => ?_
  unfold jamRes
  dsimp only
  rw [length_place hw]

/-- Is the exponent of lane c's group outside those of a record (R93)? -/
def recOut (a : VReg) (c : Nat) : Bool := decide (gAt a (c / 32) < -512 ∨ 511 < gAt a (c / 32))

/-- The record that REC makes of a lane. -/
def recOfLane (a : VReg) (c : Nat) : Rec :=
  let o := isSat a c || recOut a c
  ⟨if o then 0 else mant a c, 0, gAt a (c / 32), o, false, decide (mant a c = 0)⟩

theorem opRec_eq (v : VEngine) (f : VFields) : opRec v f = raiseFlag (putPair v f.vd (writeMask v f) (recOfLane (regAt v f.va))) flSat
    ((List.range 4).any (fun q => !(liveLanes (writeMask v f) q).isEmpty &&
      decide (gAt (regAt v f.va) q < -512 ∨ 511 < gAt (regAt v f.va) q))) := by
  unfold opRec recOfLane recOut
  simp only [Bool.decide_or, Bool.and_comm]

theorem opRec_spec (ok : v.Ok) (hvd : f.vd + 1 < 64) : ∃ u1 b,
    (b = true ↔ ∃ c, c < 128 ∧ (writeMask v f).getLsbD c = true ∧
      (gAt (regAt v f.va) (c / 32) < -512 ∨ 511 < gAt (regAt v f.va) (c / 32))) ∧
    opRec v f = { u1 with flags := orFlag u1.flags flSat b } ∧ WrotePair v u1 f.vd (writeMask v f) (recOfLane (regAt v f.va)) := by
  rw [opRec_eq]
  refine ⟨_, _, any_liveLanes.trans ?_, rfl, wrotePair_putPair ok hvd _ _⟩
  simp only [decide_eq_true_eq]

/-! ### Merges (R101, R102, R134) -/

theorem mergeTarget_some (h : v.mbase + f.imm.toNat % 4096 < entryCount (mergeFmt f.imm)) :
    mergeTarget v f = some (mergeFmt f.imm, v.mbase + f.imm.toNat % 4096) := if_pos h

/-- An entry's operations act on the accumulators alone. -/
structure EntryOp (g : Lantern → Nat → Lantern) : Prop where
  vec    : ∀ x c u, g { x with vec := u } c = { g x c with vec := u }
  beacon : ∀ x c b, g { x with beacon := b } c = { g x c with beacon := b }

theorem entryOp_putEntryBits (m : EntryFmt) (e : Nat) (b : Lantern → Nat → EntryBits)
    (hv : ∀ x c u, b { x with vec := u } c = b x c) (hb : ∀ x c k, b { x with beacon := k } c = b x c) :
    EntryOp (fun y c => putEntryBits y m e c (b y c)) where
  vec x c u := by
    rw [hv]
    cases m <;> rfl
  beacon x c k := by
    rw [hb]
    cases m <;> rfl

theorem EntryOp.foldl {g : Lantern → Nat → Lantern} (hg : EntryOp g) (cols : List Nat) (x : Lantern) (u : VEngine) (b : List Nat) :
    cols.foldl g { x with vec := u, beacon := b } = { cols.foldl g x with vec := u, beacon := b } := by
  induction cols generalizing x with
  | nil => rfl
  | cons c cols ih =>
    have h : g { x with vec := u, beacon := b } c = { g x c with vec := u, beacon := b } :=
      (hg.vec { x with beacon := b } c u).trans (congrArg (fun y : Lantern => { y with vec := u }) (hg.beacon x c b))
    rw [List.foldl_cons, List.foldl_cons, h]
    exact ih (g x c)

end

end Sys2Proof.Machine
end

section
/-! PROOFS. Merges as commands (O13, R101, R102, R134). -/

namespace Sys2Proof.Machine

section
variable {s : State} {l op : Nat} {f : VFields} {i : Instr}

/-- The columns that a merge acts on (R134). -/
def mergeCols (s : State) (l : Nat) (f : VFields) : List Nat :=
  (List.range 128).filter (fun c => (writeMask (lanternAt s l).vec f).getLsbD c)

/-- What a merge leaves: lantern x after its entries' operation g, engine u, and the count. -/
def Merged (s : State) (l : Nat) (f : VFields) (i : Instr) (g : Lantern → Nat → Lantern) (P : VEngine → Prop) : Prop :=
  ∃ t y u, exec i s = .next t ∧ y = (mergeCols s l f).foldl g (lanternAt s l) ∧ P u ∧
    lanternAt t l = { y with vec := { u with index := u.index + 1 }, beacon := (lanternAt s l).beacon.modify 1 (fun c => (c + 1) % 2 ^ 32) } ∧
    OtherLanterns s t l ∧ SameOutside s t ∧ t.moorings = s.moorings

/-- An instruction that changes its lantern's engine and its accumulator entries. -/
theorem merged_of_exec (hl : l < s.lanterns.length) {g : Lantern → Nat → Lantern} (hg : EntryOp g) {h : VEngine → VEngine}
    {P : VEngine → Prop} (hP : P (h (lanternAt s l).vec))
    (hx : exec i s = .next (retireIns (modLantern s l (fun x => (mergeCols s l f).foldl g { x with vec := h x.vec })) l)) :
    Merged s l f i g P := by
  refine ⟨_, _, h (lanternAt s l).vec, hx, rfl, hP, ?_, fun k hk => ?_,
    ⟨rfl, rfl, rfl, rfl, rfl, rfl, rfl, rfl, rfl, rfl, rfl, rfl, rfl, rfl, rfl⟩, rfl⟩
  · have hfold := hg.foldl (mergeCols s l f) (lanternAt s l) (h (lanternAt s l).vec) (lanternAt s l).beacon
    have hat : lanternAt (retireIns (modLantern s l (fun x => (mergeCols s l f).foldl g { x with vec := h x.vec })) l) l =
        (let y := (mergeCols s l f).foldl g { lanternAt s l with vec := h (lanternAt s l).vec }
        { y with vec := { y.vec with index := y.vec.index + 1 }, beacon := y.beacon.modify 1 (fun c => (c + 1) % 2 ^ 32) }) := by
      simp [retireIns, bumpBeacon, modVec, lanternAt, modLantern, List.getD_eq_getElem?_getD, hl]
    rw [hat]
    dsimp only at hfold ⊢
    rw [hfold]
  · have hk' : ¬ l = k := fun e => hk e.symm
    simp [retireIns, bumpBeacon, modVec, lanternAt, modLantern, List.getD_eq_getElem?_getD, hk']

/-- A merge that no earlier pass or drain holds issues (R102). -/
theorem issueMerge_running (hr : Running s l f) {j : BindJob} (hj : (lanternAt s l).vec.cur = some j)
    (hw : mergeWaits (lanternAt s l) j [⟨op, f, true⟩] (lanternAt s l).vec.row = false) (hop : PlainOp op)
    (act : State → VFields → State) : issueMerge s l op f act = retireIns (act s f) l := by
  unfold issueMerge
  simp only [hj, hw, Bool.false_eq_true, if_false]
  exact issueOne_plain hr hop act

/-- The three merge instructions wait for the same (R102). -/
theorem mergeWaits_op {x : Lantern} {j : BindJob} {row op' : Nat} (h : isMerge op = true) (h' : isMerge op' = true) :
    mergeWaits x j [⟨op, f, true⟩] row = mergeWaits x j [⟨op', f, true⟩] row := by
  simp [mergeWaits, h, h']

/-- MERGE_ADD's operation on an entry. -/
def addEntry (v : VEngine) (n : Nat) (m : EntryFmt) (e : Nat) (x : Lantern) (c : Nat) : Lantern :=
  putEntry x m e c (padd (entryRec x m e c) (pairRec v n c))

/-- MERGE_READ's and MERGE_TAKE's. -/
def getEntry (take : Bool) (m : EntryFmt) (e : Nat) (x : Lantern) (c : Nat) : Lantern := if take then emptyEntry x m e c else x

theorem entryOp_addEntry (v : VEngine) (n : Nat) (m : EntryFmt) (e : Nat) : EntryOp (addEntry v n m e) where
  vec x c u := by cases m <;> rfl
  beacon x c b := by cases m <;> rfl

theorem entryOp_getEntry (take : Bool) (m : EntryFmt) (e : Nat) : EntryOp (getEntry take m e) where
  vec x c u := by cases take <;> cases m <;> rfl
  beacon x c b := by cases take <;> cases m <;> rfl

theorem foldl_getEntry_false (cols : List Nat) (m : EntryFmt) (e : Nat) (x : Lantern) : cols.foldl (getEntry false m e) x = x := by
  unfold getEntry
  simp only [Bool.false_eq_true, if_false, List.foldl_fixed]

/-- The engine after MERGE_READ or MERGE_TAKE. -/
def mergeGot (x : Lantern) (f : VFields) (m : EntryFmt) (e : Nat) (v : VEngine) : VEngine :=
  raiseRecs (putPair v f.vd (writeMask x.vec f) (entryRec x m e))
    (((List.range 128).filter (fun c => (writeMask x.vec f).getLsbD c)).map (entryRec x m e))

theorem issueMergeGet_eq {m : EntryFmt} {e : Nat} (ht : mergeTarget (lanternAt s l).vec f = some (m, e)) (take : Bool) :
    issueMergeGet s l f take = modLantern s l (fun x => (mergeCols s l f).foldl (getEntry take m e)
      { x with vec := mergeGot (lanternAt s l) f m e x.vec }) := by
  unfold issueMergeGet
  dsimp only
  rw [ht]
  cases take
  · simp only [Bool.false_eq_true, if_false, foldl_getEntry_false]
    rfl
  · simp only [if_true]
    unfold modVec
    rw [modLantern_twice]
    rfl

theorem issueMergeAdd_eq {m : EntryFmt} {e : Nat} (ht : mergeTarget (lanternAt s l).vec f = some (m, e)) :
    issueMergeAdd s l f = modLantern s l (fun x => (mergeCols s l f).foldl (addEntry (lanternAt s l).vec f.va m e)
      { x with vec := x.vec }) := by
  unfold issueMergeAdd
  dsimp only
  rw [ht]
  rfl

/-- What the engine reads of the entries, and the flags of their O and I (R130, R134). -/
theorem mergeGot_spec (ok : (lanternAt s l).vec.Ok) (hvd : f.vd + 1 < 64) (m : EntryFmt) (e : Nat) :
    let x := lanternAt s l
    ∃ u1 bo bi, WrotePair x.vec u1 f.vd (writeMask x.vec f) (entryRec x m e) ∧
      (bo = true ↔ ∃ c ∈ mergeCols s l f, (entryRec x m e c).o = true) ∧
      (bi = true ↔ ∃ c ∈ mergeCols s l f, (entryRec x m e c).i = true) ∧
      mergeGot x f m e x.vec = { u1 with flags := orFlag (orFlag x.vec.flags flOvf bo) flInx bi } := by
  intro x
  refine ⟨_, _, _, wrotePair_putPair ok hvd _ _, ?_, ?_, rfl⟩ <;> simp [mergeCols, x, and_assoc]

/-- The merge instructions (R101, R134). -/
theorem merges (hi : s.Inv) (hl : l < 192) (hr : Running s l f) {j : BindJob} (hj : (lanternAt s l).vec.cur = some j)
    (hw : mergeWaits (lanternAt s l) j [⟨0x58, f, true⟩] (lanternAt s l).vec.row = false)
    (he : (lanternAt s l).vec.mbase + f.imm.toNat % 4096 < entryCount (mergeFmt f.imm)) :
    let x := lanternAt s l
    let m := mergeFmt f.imm
    let e := x.vec.mbase + f.imm.toNat % 4096
    Merged s l f (.vMergeAdd l f) (addEntry x.vec f.va m e) (fun u => u = x.vec) ∧
    Merged s l f (.vMergeRead l f) (getEntry false m e) (fun u => u = mergeGot x f m e x.vec) ∧
    Merged s l f (.vMergeTake l f) (getEntry true m e) (fun u => u = mergeGot x f m e x.vec) := by
  have hplain : ∀ op ∈ [0x58, 0x59, 0x5A], PlainOp op := by
    unfold PlainOp
    decide
  have hlen : l < s.lanterns.length := by rw [hi.1.1.1]; exact hl
  have ht := mergeTarget_some he
  have hwaits : ∀ op, isMerge op = true → mergeWaits (lanternAt s l) j [⟨op, f, true⟩] (lanternAt s l).vec.row = false :=
    fun op hop => (mergeWaits_op hop (by decide)).trans hw
  refine ⟨merged_of_exec hlen (entryOp_addEntry _ _ _ _) (h := fun v => v) rfl ?_,
    merged_of_exec hlen (entryOp_getEntry _ _ _) (h := mergeGot (lanternAt s l) f _ _) rfl ?_,
    merged_of_exec hlen (entryOp_getEntry _ _ _) (h := mergeGot (lanternAt s l) f _ _) rfl ?_⟩
  · rw [← issueMergeAdd_eq ht]
    exact congrArg _ (issueMerge_running (op := 0x58) hr hj hw (hplain _ (by simp)) _)
  · rw [← issueMergeGet_eq ht false]
    exact congrArg _ (issueMerge_running (op := 0x59) hr hj (hwaits _ (by decide)) (hplain _ (by simp)) _)
  · rw [← issueMergeGet_eq ht true]
    exact congrArg _ (issueMerge_running (op := 0x5A) hr hj (hwaits _ (by decide)) (hplain _ (by simp)) _)

end

end Sys2Proof.Machine
end

section
/-! PROOFS. Rows of a lantern's own store, and loads from them (O13, R131, R135). -/

namespace Sys2Proof.Machine

section
variable {s : State} {v : VEngine} {l k n row p key i vd : Nat} {f : VFields} {wr : Bool} {kind : LoadKind} {w : BitVec 128}

/-! ### Rows of the own store -/

/-- An offset field as the signed number of rows that it is (R131, R135). -/
theorem sext_offset (x : BitVec 24) : sext 15 (bits x.toNat 23 9) = (x.extractLsb' 9 15).toInt := by
  have hn : (x.extractLsb' 9 15).toNat = x.toNat / 2 ^ 9 % 2 ^ 15 := by
    rw [BitVec.extractLsb'_toNat, Nat.shiftRight_eq_div_pow]
  have hb : bits x.toNat 23 9 = (x.extractLsb' 9 15).toNat := hn.symm
  rw [hb, BitVec.toInt_eq_toNat_cond]
  unfold sext
  dsimp only
  split <;> split <;> omega

/-- The address of a row, from address register k and the offset field. -/
theorem rowAddr_eq (v : VEngine) (f : VFields) (k n : Nat) :
    rowAddr v f k n = wrapNat 64 ((v.addr.getD k 0 : Int) + (f.imm.extractLsb' 9 15).toInt * n) := by
  rw [rowAddr, immNat, sext_offset]

/-- The n bytes of a row stand at p in lantern l's own store, and every access within them is good (R12, R22). -/
structure OwnRow (s : State) (l row n p : Nat) (wr : Bool) : Prop where
  fits  : row + n ≤ 2 ^ 64
  own   : ownStore s l row n = true
  reach : ∀ i m, 0 < m → i + m ≤ n → checkAddr s (vecCtx s l) (row + i) m wr = some (.mem (p + i)) ∧ ownStore s l (row + i) m = true

theorem OwnRow.whole (h : OwnRow s l row n p wr) (hn : 0 < n) : checkAddr s (vecCtx s l) row n wr = some (.mem p) :=
  (h.reach 0 n hn (by omega)).1

/-! ### Bytes -/

theorem bytesAt_eq (m : Memory) (a n : Nat) : bytesAt m a n = (List.range n).map (fun i => byteAt m (a + i)) := by
  induction n generalizing a with
  | zero => rfl
  | succ n ih =>
    rw [bytesAt, ih, List.range_succ_eq_map, List.map_cons, List.map_map]
    refine congrArg _ (List.map_congr_left fun i _ => ?_)
    rw [Function.comp_apply, Nat.add_right_comm]
    rfl

theorem readMem_eq (s : State) (a n : Nat) : readMem s a n = (List.range n).map (fun i => readByte s (a + i)) := by
  induction n generalizing a with
  | zero => rfl
  | succ n ih =>
    rw [readMem, ih, List.range_succ_eq_map, List.map_cons, List.map_map]
    refine congrArg _ (List.map_congr_left fun i _ => ?_)
    rw [Function.comp_apply, Nat.add_right_comm]
    rfl

theorem readMem_length (s : State) (a n : Nat) : (readMem s a n).length = n := by
  rw [readMem_eq, List.length_map, List.length_range]

theorem readMem_getD (s : State) (a : Nat) (h : i < n) (d : Byte) : (readMem s a n).getD i d = readByte s (a + i) := by
  rw [readMem_eq, List.getD_eq_getElem?_getD, List.getElem?_map, List.getElem?_range h]
  rfl

/-- A load's data hold the n bytes at p from offset key on. -/
def HoldsRow (s : State) (m : Memory) (key p n : Nat) : Prop := ∀ i, i < n → byteAt m (key + i) = readByte s (p + i)

theorem HoldsRow.bytes {m : Memory} (h : HoldsRow s m key p n) {i k : Nat} (hik : i + k ≤ n) :
    bytesAt m (key + i) k = readMem s (p + i) k := by
  rw [bytesAt_eq, readMem_eq]
  refine List.map_congr_left fun j hj => ?_
  have hj' := List.mem_range.1 hj
  rw [Nat.add_assoc, Nat.add_assoc]
  exact h (i + j) (by omega)

theorem holdsRow_setBytes {m : Memory} (ok : memoryWf m = true) (key p n : Nat) :
    HoldsRow s (setBytes m key (readMem s p n)) key p n := fun i hi => by
  rw [byteAt_setBytes_inside ok (by omega) (by rw [readMem_length]; omega), Nat.add_sub_cancel_left, readMem_getD s p hi]

/-- Bytes put elsewhere leave a row as it is. -/
theorem HoldsRow.setBytes {m : Memory} (h : HoldsRow s m key p n) (ok : memoryWf m = true) {a : Nat} {bs : List Byte}
    (hd : key + n ≤ a ∨ a + bs.length ≤ key) : HoldsRow s (setBytes m a bs) key p n := fun i hi => by
  rw [byteAt_setBytes_outside ok (by omega)]
  exact h i hi

/-! ### Fetching -/

/-- A change of its engine that changes nothing. -/
theorem modVec_same {g : VEngine → VEngine} (hg : g (lanternAt s l).vec = (lanternAt s l).vec) (hl : l < s.lanterns.length) :
    modVec s l g = s := by
  have h : modVec s l g = modVec s l (fun v => v) := by
    unfold modVec
    rw [modLantern_const hl, modLantern_const (f := fun x => { x with vec := x.vec }) hl]
    simp only [hg]
  rw [h, modVec_id]

/-- With no store waiting there is none to perform. -/
theorem performStores_none (hl : l < s.lanterns.length) (hq : (lanternAt s l).vec.storeQ = []) : performStores s l = s := by
  unfold performStores
  rw [hq, List.foldl_nil]
  exact modVec_same (by rw [← hq]) hl

/-- The data of parts that stand in the own store at the places that phys says. -/
def partsData (s : State) (phys : LoadPart → Nat) (m : Memory) (ps : List LoadPart) : Memory :=
  ps.foldl (fun m p => setBytes m p.key (readMem s (phys p) p.n)) m

theorem holdsRow_single (s : State) (phys : LoadPart → Nat) (q : LoadPart) :
    HoldsRow s (partsData s phys [] [q]) q.key (phys q) q.n := holdsRow_setBytes (m := []) rfl _ _ _

theorem fetchPart_own (hp : s.poison = []) {ld : VLoad} {part : LoadPart} {a : Nat}
    (hc : checkAddr s (vecCtx s l) part.addr part.n false = some (.mem a)) :
    fetchPart s l ld part = (s, { ld with data := setBytes ld.data part.key (readMem s a part.n) }) := by
  unfold fetchPart
  rw [hc]
  simp only [poisonedLines, hp, notePoison_clean hp, List.contains_nil, List.filter_false, List.map_nil, List.append_nil]

theorem fetchParts_own (hp : s.poison = []) (phys : LoadPart → Nat) {ps : List LoadPart}
    (hc : ∀ q ∈ ps, checkAddr s (vecCtx s l) q.addr q.n false = some (.mem (phys q))) (ld : VLoad) :
    fetchParts s l ld ps = (s, { ld with data := partsData s phys ld.data ps }) := by
  induction ps generalizing ld with
  | nil => rfl
  | cons q ps ih =>
    obtain ⟨hq, hps⟩ := List.forall_mem_cons.1 hc
    have h : fetchParts s l ld (q :: ps) = fetchParts (fetchPart s l ld q).1 l (fetchPart s l ld q).2 ps := rfl
    rw [h, fetchPart_own hp hq]
    exact ih hps _

/-- A load from the own store delivers at once (R135). -/
theorem issueLoad_own (hl : l < s.lanterns.length) (hp : s.poison = []) (hq : (lanternAt s l).vec.storeQ = []) (phys : LoadPart → Nat)
    {ps : List LoadPart} (hc : ∀ q ∈ ps, checkAddr s (vecCtx s l) q.addr q.n false = some (.mem (phys q)))
    (ho : ∀ q ∈ ps, ownStore s l q.addr q.n = true) :
    issueLoad s l vd kind w ps = modVec s l (fun v => deliverLoad v
      ⟨vd, kind, w, (lanternAt s l).vec.index, [], partsData s phys [] ps, [], false⟩) := by
  have hany : ps.any (fun q => (checkAddr s (vecCtx s l) q.addr q.n false).isNone) = false := by
    rw [List.any_eq_false]
    intro q hq'
    rw [hc q hq']
    simp
  have hall : ps.all (fun q => ownStore s l q.addr q.n) = true := List.all_eq_true.2 ho
  unfold issueLoad
  simp only [hany, Bool.false_eq_true, if_false, performStores_none hl hq, fetchParts_own hp phys hc, hall, if_true]

/-! ### Delivery -/

theorem loadBad_clean (ld : VLoad) (h : ld.bad = []) (k n : Nat) : loadBad ld k n = false := by
  simp [loadBad, h]

theorem deliverLoad_words (v : VEngine) (ld : VLoad) (hk : ld.kind = .words) (hb : ld.bad = []) (hf : ld.fail = false) :
    deliverLoad v ld = commit v ld.vd ld.wmask (fun c => .val (BitVec.ofNat 64 (leNat (bytesAt ld.data (8 * c) 8))).toInt) (fun _ => 0) := by
  unfold deliverLoad
  simp only [hk, hf, loadBad_clean ld hb, Bool.false_eq_true, if_false, sext_64]

theorem deliverLoad_recs (v : VEngine) (ld : VLoad) (hk : ld.kind = .recs) (hb : ld.bad = []) (hf : ld.fail = false) :
    deliverLoad v ld = putPair v ld.vd ld.wmask (fun c => recOfBytes (bytesAt ld.data (16 * c) 16)) := by
  unfold deliverLoad
  simp only [hk, hf, loadBad_clean ld hb, Bool.false_eq_true, if_false]

/-- The element of a lane of a loaded block, with its block's scale byte (R26). -/
def loadedRes (fmt : Fmt) (scale : Nat) (ms : List Byte) (c : Nat) : Res :=
  let r := readElem fmt scale (mantissaAt fmt ms (c % 32))
  if r.2 then .sat else .val r.1

/-- The exponent of a loaded block. -/
def loadedExp (scale : Nat) : Int := if scale = 0 ∨ scale = 255 then 0 else (scale : Int) - 127

theorem deliverLoad_blocks (v : VEngine) (ld : VLoad) {fmt : Fmt} (hk : ld.kind = .blocks fmt) (hb : ld.bad = []) (hf : ld.fail = false) :
    deliverLoad v ld = commit v ld.vd ld.wmask (fun c => loadedRes fmt (byteAt ld.data (scaleKey + c / 32)).toNat
      (bytesAt ld.data (c / 32 * blockBytes fmt) (blockBytes fmt)) c) (fun q => loadedExp (byteAt ld.data (scaleKey + q)).toNat) := by
  unfold deliverLoad
  simp only [hk, hf, loadBad_clean ld hb, Bool.false_eq_true, if_false, Bool.or_self, false_or]
  rfl

/-! ### LDW, LDR and LDB -/

theorem blockBytes_bounds (fmt : Fmt) : 16 ≤ blockBytes fmt ∧ blockBytes fmt ≤ 128 := by
  cases fmt <;> decide

/-- Only the records of written lanes count. -/
theorem WrotePair.congr {u : VEngine} {rs rs' : Nat → Rec} (h : WrotePair v u vd w rs)
    (hrs : ∀ c, c < 128 → w.getLsbD c = true → rs c = rs' c) : WrotePair v u vd w rs' := by
  obtain ⟨h1, h2, h3, h4⟩ := h
  exact ⟨h1, h2, h3, fun c hc hw => hrs c hc hw ▸ h4 c hc hw⟩

theorem issueLdw_eq (s : State) (l : Nat) (f : VFields) : issueLdw s l f = issueLoad s l f.vd .words (writeMask (lanternAt s l).vec f)
    [⟨rowAddr (lanternAt s l).vec f (bits (immNat f) 2 0) 1024, 1024, 0⟩] := rfl

theorem issueLdr_eq (s : State) (l : Nat) (f : VFields) : issueLdr s l f = issueLoad s l f.vd .recs (writeMask (lanternAt s l).vec f)
    [⟨rowAddr (lanternAt s l).vec f (bits (immNat f) 2 0) 2048, 2048, 0⟩] := rfl

theorem issueLdb_eq (s : State) (l : Nat) (f : VFields) :
    issueLdb s l f = issueLoad s l f.vd (.blocks (ldbFmt f)) (writeMask (lanternAt s l).vec f)
      [⟨rowAddr (lanternAt s l).vec f (bits (immNat f) 2 0) (4 * blockBytes (ldbFmt f)), 4 * blockBytes (ldbFmt f), 0⟩,
        ⟨rowAddr (lanternAt s l).vec f (bits (immNat f) 5 3) 4, 4, scaleKey⟩] := rfl

/-- A load finds room in the load queue and its registers free (R135). -/
theorem issueOne_load {op : Nat} (hr : Running s l f) (hq : (lanternAt s l).vec.loadQ.length < 16) (hop : op ≠ 0x50 ∧ op ≠ 0x51)
    (act : State → VFields → State) : issueOne s l op f act = retireIns (act s f) l := by
  have hs : stalls (lanternAt s l).vec op f = false := by
    have h := hr.2.2
    simp only [stalls, Bool.or_eq_false_iff] at h ⊢
    exact ⟨h.1, by simp [hq]⟩
  rw [issueOne_running hr hs, siteFields_of_not_site s l f hop]

section
variable (hi : s.Inv) (hl : l < 192) (hr : Running s l f) (hvd : f.vd < 64) (hp : s.poison = [])
  (hsq : (lanternAt s l).vec.storeQ = []) (hlq : (lanternAt s l).vec.loadQ.length < 16)
include hi hl hr hp hsq hlq

/-- A load whose parts stand in the own store gives what it delivers. -/
theorem issues_load {c : Instr} {op : Nat} {P : VEngine → Prop} (hop : op ≠ 0x50 ∧ op ≠ 0x51) {ps : List LoadPart}
    {act : State → VFields → State} (hx : exec c s = .next (issueOne s l op f act))
    (hact : act s f = issueLoad s l f.vd kind (writeMask (lanternAt s l).vec f) ps) (phys : LoadPart → Nat)
    (hc : ∀ q ∈ ps, checkAddr s (vecCtx s l) q.addr q.n false = some (.mem (phys q)))
    (ho : ∀ q ∈ ps, ownStore s l q.addr q.n = true)
    (hP : P (deliverLoad (lanternAt s l).vec
      ⟨f.vd, kind, writeMask (lanternAt s l).vec f, (lanternAt s l).vec.index, [], partsData s phys [] ps, [], false⟩)) :
    Issues c s l P := by
  have hlen : l < s.lanterns.length := by rw [hi.1.1.1]; exact hl
  rw [issueOne_load hr hlq hop, hact, issueLoad_own hlen hp hsq phys hc ho] at hx
  exact issues_engine hlen hx hP

include hvd

theorem issues_ldw (h : OwnRow s l row 1024 p false) (ha : row = rowAddr (lanternAt s l).vec f (bits (immNat f) 2 0) 1024) :
    Issues (.vLdw l f) s l (fun u => Wrote (lanternAt s l).vec u f.vd (writeMask (lanternAt s l).vec f)
      (fun c => .val (BitVec.ofNat 64 (leNat (readMem s (p + 8 * c) 8))).toInt) (fun _ => 0)) := by
  refine issues_load (op := 0x6A) (kind := .words) (ps := [⟨row, 1024, 0⟩]) hi hl hr hp hsq hlq (by decide) rfl
    (ha ▸ issueLdw_eq s l f) (fun _ => p) (List.forall_mem_singleton.2 (h.whole (by norm_num))) (List.forall_mem_singleton.2 h.own) ?_
  rw [deliverLoad_words _ _ rfl rfl rfl]
  refine (wrote_commit (vecOk_of_inv hi l) hvd _ _ _).congr fun c hc _ => ?_
  have hdata : HoldsRow s (partsData s (fun _ => p) [] [⟨row, 1024, 0⟩]) 0 p 1024 :=
    holdsRow_single s (fun _ => p) ⟨row, 1024, 0⟩
  rw [← hdata.bytes (by omega), Nat.zero_add]

omit hvd in
theorem issues_ldr (hvd : f.vd + 1 < 64) (h : OwnRow s l row 2048 p false)
    (ha : row = rowAddr (lanternAt s l).vec f (bits (immNat f) 2 0) 2048) :
    Issues (.vLdr l f) s l (fun u => WrotePair (lanternAt s l).vec u f.vd (writeMask (lanternAt s l).vec f)
      (fun c => recOfBytes (readMem s (p + 16 * c) 16))) := by
  refine issues_load (op := 0x6C) (kind := .recs) (ps := [⟨row, 2048, 0⟩]) hi hl hr hp hsq hlq (by decide) rfl
    (ha ▸ issueLdr_eq s l f) (fun _ => p) (List.forall_mem_singleton.2 (h.whole (by norm_num))) (List.forall_mem_singleton.2 h.own) ?_
  rw [deliverLoad_recs _ _ rfl rfl rfl]
  refine (wrotePair_putPair (vecOk_of_inv hi l) hvd _ _).congr fun c hc _ => ?_
  have hdata : HoldsRow s (partsData s (fun _ => p) [] [⟨row, 2048, 0⟩]) 0 p 2048 :=
    holdsRow_single s (fun _ => p) ⟨row, 2048, 0⟩
  rw [← hdata.bytes (by omega), Nat.zero_add]

theorem issues_ldb {srow sp : Nat} (h : OwnRow s l row (4 * blockBytes (ldbFmt f)) p false) (h' : OwnRow s l srow 4 sp false)
    (ha : row = rowAddr (lanternAt s l).vec f (bits (immNat f) 2 0) (4 * blockBytes (ldbFmt f)))
    (hs : srow = rowAddr (lanternAt s l).vec f (bits (immNat f) 5 3) 4) :
    Issues (.vLdb l f) s l (fun u => Wrote (lanternAt s l).vec u f.vd (writeMask (lanternAt s l).vec f)
      (fun c => loadedRes (ldbFmt f) (readByte s (sp + c / 32)).toNat
        (readMem s (p + c / 32 * blockBytes (ldbFmt f)) (blockBytes (ldbFmt f))) c)
      (fun q => loadedExp (readByte s (sp + q)).toNat)) := by
  have hbb := blockBytes_bounds (ldbFmt f)
  generalize hb : blockBytes (ldbFmt f) = bb at *
  let ps : List LoadPart := [⟨row, 4 * bb, 0⟩, ⟨srow, 4, scaleKey⟩]
  let phys (q : LoadPart) : Nat := if q.key = 0 then p else sp
  have hkey : scaleKey = 1048576 := rfl
  have hdata : HoldsRow s (partsData s phys [] ps) 0 p (4 * bb) :=
    (holdsRow_setBytes (m := []) rfl 0 p (4 * bb)).setBytes (memoryWf_setBytes rfl) (.inl (by dsimp only; omega))
  have hscale : HoldsRow s (partsData s phys [] ps) scaleKey sp 4 :=
    holdsRow_setBytes (memoryWf_setBytes (m := []) rfl) scaleKey sp 4
  refine issues_load (op := 0x68) (kind := .blocks (ldbFmt f)) (ps := ps) hi hl hr hp hsq hlq (by decide) rfl
    (by rw [issueLdb_eq, hb, ← ha, ← hs]) phys (List.forall_mem_cons.2 ⟨h.whole (by omega), List.forall_mem_singleton.2 (h'.whole (by norm_num))⟩)
    (List.forall_mem_cons.2 ⟨h.own, List.forall_mem_singleton.2 h'.own⟩) ?_
  rw [deliverLoad_blocks _ _ rfl rfl rfl, hb]
  refine (wrote_commit (vecOk_of_inv hi l) hvd _ _ _).congr_groups fun c hc _ => ?_
  have hle : c / 32 * bb + bb ≤ 4 * bb := by
    rw [← Nat.succ_mul]
    exact Nat.mul_le_mul_right bb (by omega)
  dsimp only
  rw [hscale (c / 32) (by omega), ← hdata.bytes hle, Nat.zero_add]
  exact ⟨rfl, rfl⟩

end

end

end Sys2Proof.Machine
end

section
/-! PROOFS. Stores into a lantern's own store: pieces joined, lines written (O13, R12, R135). -/

namespace Sys2Proof.Machine

section
variable {s : State} {l row n p i m : Nat} {wr : Bool}

/-! ### Addresses of the own store -/

/-- What an address in the module's memory names is its low 56 bits, whether it is read or written (R18, R19). -/
theorem checkAddr_mem {ctx : Ctx} {a n x : Nat} (h : checkAddr s ctx a n wr = some (.mem x)) :
    x = bits a 55 0 ∧ ∀ wr', checkAddr s ctx a n wr' = some (.mem x) := by
  unfold checkAddr at h ⊢
  split at h
  · cases h
  · next h64 =>
    simp only [h64, if_false]
    dsimp only at h
    split at h
    · split at h
      · next hok =>
        cases h
        exact ⟨rfl, fun _ => if_pos hok⟩
      · cases h
    · split at h
      · cases h
      · next hw =>
        split at h
        · next hself =>
          split at h
          · next hok =>
            cases h
            exact ⟨rfl, fun _ => by rw [if_neg hw, if_pos hself, if_pos hok]⟩
          · cases h
        · split at h <;> cases h
    · split at h
      · cases h
      · split at h
        · cases h
        · simp at h
    · cases h

theorem OwnRow.phys (h : OwnRow s l row n p wr) (hin : i < n) : bits (row + i) 55 0 = p + i :=
  (checkAddr_mem (h.reach i 1 one_pos hin).1).1.symm

/-- A row's bytes lie in the store of its lantern. -/
theorem OwnRow.place (h : OwnRow s l row n p wr) (hin : i < n) : (p + i) / 2 ^ 40 = 0x2000 + l := by
  obtain ⟨hc, ho⟩ := h.reach i 1 one_pos hin
  unfold ownStore at ho
  rw [(checkAddr_mem hc).2 false] at ho
  rw [of_decide_eq_true ho]
  unfold storeAddr localAddr
  omega

theorem OwnRow.region (h : OwnRow s l row n p wr) (hl : l < 192) (hin : i < n) : bits (p + i) 55 48 = 0x20 := by
  have hp := h.place hin
  unfold bits
  omega

/-! ### Pieces that are joined -/

theorem joinPieces_cons_nil {p : Nat × List Byte} {ps : List (Nat × List Byte)} (h : joinPieces ps = []) :
    joinPieces (p :: ps) = [p] := by
  rw [joinPieces, h]

theorem joinPieces_cons_cons {p q : Nat × List Byte} {ps qs : List (Nat × List Byte)} (h : joinPieces ps = q :: qs) :
    joinPieces (p :: ps) = if p.1 + p.2.length = q.1 then (p.1, p.2 ++ q.2) :: qs else p :: q :: qs := by
  rw [joinPieces, h]

/-- The first of joined pieces begins where the first piece begins. -/
theorem joinPieces_head (p : Nat × List Byte) (ps : List (Nat × List Byte)) : ∃ bs qs, joinPieces (p :: ps) = (p.1, bs) :: qs := by
  cases h : joinPieces ps with
  | nil => exact ⟨_, _, joinPieces_cons_nil h⟩
  | cons q qs =>
    rw [joinPieces_cons_cons h]
    split
    · exact ⟨_, _, rfl⟩
    · exact ⟨_, _, rfl⟩

/-- What holds of every piece and of two that are joined holds of the joined ones. -/
theorem joinPieces_forall {P : Nat × List Byte → Prop} (hj : ∀ p q, P p → P q → p.1 + p.2.length = q.1 → P (p.1, p.2 ++ q.2))
    {ps : List (Nat × List Byte)} (h : ∀ p ∈ ps, P p) : ∀ p ∈ joinPieces ps, P p := by
  induction ps with
  | nil => exact h
  | cons p ps ih =>
    obtain ⟨hp, hps⟩ := List.forall_mem_cons.1 h
    have ih := ih hps
    cases hq : joinPieces ps with
    | nil => exact joinPieces_cons_nil hq ▸ List.forall_mem_singleton.2 hp
    | cons q qs =>
      rw [hq] at ih
      obtain ⟨hq1, hqs⟩ := List.forall_mem_cons.1 ih
      rw [joinPieces_cons_cons hq]
      split
      · next he => exact List.forall_mem_cons.2 ⟨hj p q hp hq1 he, hqs⟩
      · exact List.forall_mem_cons.2 ⟨hp, ih⟩

/-- Pieces of which none touches any of some others are joined apart from them. -/
theorem joinPieces_append {ps qs : List (Nat × List Byte)} (h : ∀ p ∈ ps, ∀ q ∈ qs, p.1 + p.2.length ≠ q.1) :
    joinPieces (ps ++ qs) = joinPieces ps ++ joinPieces qs := by
  induction ps with
  | nil => rfl
  | cons p ps ih =>
    obtain ⟨hp, hps⟩ := List.forall_mem_cons.1 h
    have ih := ih hps
    rw [List.cons_append]
    cases ps with
    | nil =>
      cases qs with
      | nil => rfl
      | cons q qs =>
        obtain ⟨bs, rs, hr⟩ := joinPieces_head q qs
        rw [List.nil_append, joinPieces_cons_cons hr, if_neg (hp q List.mem_cons_self), hr]
        rfl
    | cons p2 ps2 =>
      obtain ⟨bs, rs, hr⟩ := joinPieces_head p2 ps2
      have ih' : joinPieces (p2 :: ps2 ++ qs) = (p2.1, bs) :: (rs ++ joinPieces qs) := by rw [ih, hr, List.cons_append]
      rw [joinPieces_cons_cons ih', joinPieces_cons_cons hr]
      split <;> rfl

/-! ### Bytes written in order -/

theorem setBytes_append (m : Memory) (a : Nat) (xs ys : List Byte) :
    setBytes m a (xs ++ ys) = setBytes (setBytes m a xs) (a + xs.length) ys := by
  induction xs generalizing m a with
  | nil => rfl
  | cons x xs ih =>
    rw [List.cons_append, setBytes, ih, setBytes, List.length_cons, Nat.add_assoc, Nat.add_comm 1]

/-- The memory after pieces at module addresses. -/
def putPieces (m : Memory) (ps : List (Nat × List Byte)) : Memory := ps.foldl (fun m q => setBytes m (bits q.1 55 0) q.2) m

/-- Joined pieces write what the pieces write. -/
theorem putPieces_joinPieces {P : Nat × List Byte → Prop} (hj : ∀ p q, P p → P q → p.1 + p.2.length = q.1 → P (p.1, p.2 ++ q.2))
    (ha : ∀ p q, P p → P q → p.1 + p.2.length = q.1 → bits q.1 55 0 = bits p.1 55 0 + p.2.length)
    {ps : List (Nat × List Byte)} (h : ∀ p ∈ ps, P p) (m : Memory) : putPieces m (joinPieces ps) = putPieces m ps := by
  induction ps generalizing m with
  | nil => rfl
  | cons p ps ih =>
    obtain ⟨hp, hps⟩ := List.forall_mem_cons.1 h
    have hrec : putPieces m (p :: joinPieces ps) = putPieces m (p :: ps) := ih hps _
    rw [← hrec]
    have hall := joinPieces_forall hj hps
    cases hq : joinPieces ps with
    | nil => rw [joinPieces_cons_nil hq]
    | cons q qs =>
      rw [hq] at hall
      rw [joinPieces_cons_cons hq]
      split
      · next he =>
        have h2 : putPieces m ((p.1, p.2 ++ q.2) :: qs) = putPieces (setBytes m (bits p.1 55 0) (p.2 ++ q.2)) qs := rfl
        rw [h2, setBytes_append, ← ha p q hp (hall q List.mem_cons_self) he]
        rfl
      · rfl

/-! ### Lines -/

theorem lineOf_le (a : Nat) : lineOf a ≤ a := Nat.sub_le ..

theorem lineOf_add (a : Nat) : a < lineOf a + 64 := by
  unfold lineOf
  omega

/-- The part of a write that lies in one line. -/
def linePart (line a : Nat) (bs : List Byte) : List Byte :=
  (bs.drop (max line a - a)).take (min (line + 64) (a + bs.length) - max line a)

/-- One line of a write where nothing is poisoned. -/
theorem writeLine_clean (hp : s.poison = []) (line a : Nat) (bs : List Byte) :
    writeLine s line a bs = { s with mem := setBytes s.mem (max line a) (linePart line a bs) } := by
  unfold writeLine
  simp only [hp, List.contains_nil, Bool.false_eq_true, false_and, if_false, List.filter_nil]
  rfl

/-- The bytes before a line and the part in it are the bytes before the next line. -/
theorem take_linePart {line a : Nat} {bs : List Byte} (h1 : a < line + 64) (h2 : line < a + bs.length) :
    bs.take (line - a) ++ linePart line a bs = bs.take (line + 64 - a) := by
  unfold linePart
  rw [show max line a - a = line - a by omega, ← List.take_add]
  rcases Nat.le_total (line + 64) (a + bs.length) with h | h
  · congr 1
    omega
  · rw [List.take_of_length_le (by omega), List.take_of_length_le (by omega)]

theorem writeLines_append (s : State) (a : Nat) (bs : List Byte) (xs ys : List Nat) :
    writeLines s a bs (xs ++ ys) = writeLines (writeLines s a bs xs) a bs ys := by
  induction xs generalizing s with
  | nil => rfl
  | cons x xs ih => exact ih _

/-- After k lines the bytes before the next line are written. -/
theorem writeLines_clean (hp : s.poison = []) (a : Nat) (bs : List Byte) (k : Nat)
    (hk : ∀ j < k, lineOf a + 64 * j < a + bs.length) :
    writeLines s a bs ((List.range k).map (fun i => lineOf a + 64 * i)) =
      { s with mem := setBytes s.mem a (bs.take (lineOf a + 64 * k - a)) } := by
  have h1 := lineOf_le a
  have h2 := lineOf_add a
  induction k with
  | zero =>
    rw [show lineOf a + 64 * 0 - a = 0 by omega]
    rfl
  | succ k ih =>
    have hlast := hk k k.lt_succ_self
    have hlen : a + (bs.take (lineOf a + 64 * k - a)).length = max (lineOf a + 64 * k) a := by
      rw [List.length_take]
      omega
    rw [List.range_succ, List.map_append, writeLines_append, ih fun j hj => hk j (by omega), List.map_singleton]
    have hline : ∀ t : State, writeLines t a bs [lineOf a + 64 * k] = writeLine t (lineOf a + 64 * k) a bs := fun _ => rfl
    rw [hline, writeLine_clean (by exact hp)]
    dsimp only
    rw [← hlen, ← setBytes_append, take_linePart (by omega) hlast]
    rfl

/-- A write where nothing is poisoned (R143). -/
theorem writeMem_clean (hp : s.poison = []) {a : Nat} (ha : bits a 55 48 ≠ 0x30) (bs : List Byte) :
    writeMem s a bs = { s with mem := setBytes s.mem a bs } := by
  unfold writeMem linesOf
  rw [if_neg ha]
  by_cases h0 : bs.length = 0
  · rw [List.eq_nil_of_length_eq_zero h0]
    rfl
  · rw [if_neg h0]
    have h1 := lineOf_le a
    have h2 := lineOf_add a
    have h3 := lineOf_le (a + bs.length - 1)
    have h4 := lineOf_add (a + bs.length - 1)
    have h5 : (lineOf (a + bs.length - 1) - lineOf a) % 64 = 0 := by
      unfold lineOf
      omega
    rw [writeLines_clean hp a bs _ fun j hj => by omega, List.take_of_length_le (by omega)]

end

end Sys2Proof.Machine
end

section
/-! PROOFS. Rows of pieces stored into a lantern's own store (O13, R12, R135). -/

namespace Sys2Proof.Machine

section
variable {s t : State} {l row n p k b : Nat} {q : Nat × List Byte} {wr : Bool}

/-! ### Performing pieces of the own store -/

/-- Addresses are checked against windows, the lanterns that exist, the Keeper, the shore cores and the module's place (R22). -/
theorem checkAddr_congr (hlan : ∀ k, (lanternAt t k).windows = (lanternAt s k).windows ∧ (lanternAt t k).phys = (lanternAt s k).phys)
    (hk : t.keeper = s.keeper) (hb : t.boot = s.boot) (hs : t.shore = s.shore) (ctx : Ctx) (a n : Nat) (wr : Bool) :
    checkAddr t ctx a n wr = checkAddr s ctx a n wr := by
  have hw : ∀ k, (lanternAt t k).windows = (lanternAt s k).windows := fun k => (hlan k).1
  have hp : ∀ k, (lanternAt t k).phys = (lanternAt s k).phys := fun k => (hlan k).2
  have hok : localOk t = localOk s := by
    funext ctx a n v i
    have hwin : windowOk t ctx a n v i = windowOk s ctx a n v i := by
      cases ctx
      · rfl
      · simp only [windowOk, hw]
      · simp only [windowOk, hs]
    simp only [localOk, enabledLantern, hp, hk, hwin]
  simp only [checkAddr, hok, hk, hb]

theorem OwnRow.congr (h : OwnRow s l row n p wr)
    (hlan : ∀ k, (lanternAt t k).windows = (lanternAt s k).windows ∧ (lanternAt t k).phys = (lanternAt s k).phys)
    (hcur : (lanternAt t l).vec.cur = (lanternAt s l).vec.cur) (hk : t.keeper = s.keeper) (hb : t.boot = s.boot) (hs : t.shore = s.shore) :
    OwnRow t l row n p wr := by
  have hctx : vecCtx t l = vecCtx s l := by simp only [vecCtx, hcur]
  have hown : ∀ a m, ownStore t l a m = ownStore s l a m := fun a m => by
    simp only [ownStore, hctx, checkAddr_congr hlan hk hb hs]
  refine ⟨h.fits, (hown _ _).trans h.own, fun i m h0 h1 => ?_⟩
  rw [hown, hctx, checkAddr_congr hlan hk hb hs]
  exact h.reach i m h0 h1

/-- A piece that lies in the lantern's own store. -/
structure InStore (s : State) (l : Nat) (q : Nat × List Byte) : Prop where
  reach  : checkAddr s (vecCtx s l) q.1 q.2.length true = some (.mem (bits q.1 55 0))
  own    : ownStore s l q.1 q.2.length = true
  region : bits (bits q.1 55 0) 55 48 ≠ 0x30

theorem partialPoison_clean (hp : s.poison = []) (a n : Nat) : partialPoison s a n = false := by
  simp [partialPoison, hp]

theorem performPieceAt_own (hp : s.poison = []) (hq : InStore s l q) (row index : Nat) :
    performPieceAt s l row index q = { s with mem := setBytes s.mem (bits q.1 55 0) q.2 } := by
  unfold performPieceAt
  rw [hq.reach]
  dsimp only
  rw [storeLocal, partialPoison_clean hp, if_neg Bool.false_ne_true, writeMem_clean hp hq.region]

/-- Pieces of the own store are its bytes, and nothing else changes. -/
theorem performStore_own (hp : s.poison = []) (row index : Nat) {ps : List (Nat × List Byte)} (h : ∀ q ∈ ps, InStore s l q) :
    performStore s l ⟨ps, row, index⟩ = { s with mem := putPieces s.mem ps } := by
  induction ps generalizing s with
  | nil => rfl
  | cons q ps ih =>
    obtain ⟨hq, hps⟩ := List.forall_mem_cons.1 h
    have hstep : performStore s l ⟨q :: ps, row, index⟩ = performStore (performPieceAt s l row index q) l ⟨ps, row, index⟩ := rfl
    rw [hstep, performPieceAt_own hp hq]
    exact ih (s := { s with mem := setBytes s.mem (bits q.1 55 0) q.2 }) hp fun r hr => ⟨(hps r hr).reach, (hps r hr).own, (hps r hr).region⟩

/-- A store whose joined pieces lie in the own store writes them at once (R12, R135). -/
theorem issueStore_own (hp : s.poison = []) {ps : List (Nat × List Byte)} (h : ∀ q ∈ joinPieces ps, InStore s l q) :
    issueStore s l ps = { s with mem := putPieces s.mem (joinPieces ps) } := by
  have hany : (joinPieces ps).any (fun q => (checkAddr s (vecCtx s l) q.1 q.2.length true).isNone) = false := by
    rw [List.any_eq_false]
    intro q hq
    rw [(h q hq).reach]
    simp
  have hfar : (joinPieces ps).filter (fun q => !ownStore s l q.1 q.2.length) = [] :=
    List.filter_eq_nil_iff.2 fun q hq => by simp [(h q hq).own]
  have hnear : (joinPieces ps).filter (fun q => ownStore s l q.1 q.2.length) = joinPieces ps :=
    List.filter_eq_self.2 fun q hq => (h q hq).own
  unfold issueStore
  simp only [hany, hfar, hnear, Bool.false_eq_true, if_false, List.isEmpty_nil, if_true, performStore_own hp _ _ h]

/-! ### Pieces within a row -/

/-- A piece that is not empty and lies in a row. -/
def InRow (row n : Nat) (q : Nat × List Byte) : Prop := row ≤ q.1 ∧ 0 < q.2.length ∧ q.1 + q.2.length ≤ row + n

theorem InRow.join {r : Nat × List Byte} (hq : InRow row n q) (hr : InRow row n r) (he : q.1 + q.2.length = r.1) :
    InRow row n (q.1, q.2 ++ r.2) := by
  unfold InRow at *
  rw [List.length_append]
  omega

theorem OwnRow.piece (h : OwnRow s l row n p true) (hl : l < 192) (hq : InRow row n q) : InStore s l q := by
  obtain ⟨h1, h2, h3⟩ := hq
  obtain ⟨i, hi⟩ := Nat.le.dest h1
  obtain ⟨hc, ho⟩ := h.reach i q.2.length h2 (by omega)
  have hphys := h.phys (i := i) (by omega)
  rw [hi] at hc ho hphys
  exact ⟨by rw [hc, hphys], ho, by rw [hphys, h.region hl (by omega)]; decide⟩

/-- Within a row the addresses of memory run as the module addresses do. -/
theorem OwnRow.next {r : Nat × List Byte} (h : OwnRow s l row n p wr) (hq : InRow row n q) (hr : InRow row n r)
    (he : q.1 + q.2.length = r.1) : bits r.1 55 0 = bits q.1 55 0 + q.2.length := by
  obtain ⟨h1, h2, h3⟩ := hq
  obtain ⟨h4, h5, h6⟩ := hr
  obtain ⟨i, hi⟩ := Nat.le.dest h1
  rw [← he, ← hi, Nat.add_assoc, h.phys (by omega), h.phys (by omega), Nat.add_assoc]

/-- The pieces of a row write what they hold, joined or not. -/
theorem OwnRow.joined (h : OwnRow s l row n p true) (hl : l < 192) {ps : List (Nat × List Byte)} (hps : ∀ q ∈ ps, InRow row n q) (m : Memory) :
    (∀ q ∈ joinPieces ps, InStore s l q) ∧ putPieces m (joinPieces ps) = putPieces m ps :=
  ⟨fun q hq => h.piece hl (joinPieces_forall (fun _ _ => InRow.join) hps q hq),
    putPieces_joinPieces (fun _ _ => InRow.join) (fun _ _ => h.next) hps m⟩

/-- Pieces of k bytes at the places that a list names. -/
def rowPieces (row k : Nat) (g : Nat → List Byte) (cols : List Nat) : List (Nat × List Byte) := cols.map (fun c => (row + k * c, g c))

theorem inRow_rowPieces {g : Nat → List Byte} {cols : List Nat} (hk : 0 < k) (hg : ∀ c ∈ cols, (g c).length = k)
    (hc : ∀ c ∈ cols, k * c + k ≤ n) : ∀ q ∈ rowPieces row k g cols, InRow row n q := by
  unfold rowPieces
  refine List.forall_mem_map.2 fun c h => ?_
  have h1 := hg c h
  have h2 := hc c h
  unfold InRow
  dsimp only
  omega

theorem memoryWf_putPieces {m : Memory} (ok : memoryWf m = true) (ps : List (Nat × List Byte)) : memoryWf (putPieces m ps) = true := by
  induction ps generalizing m with
  | nil => exact ok
  | cons q ps ih => exact ih (memoryWf_setBytes ok)

/-- Each byte of a row of pieces is its piece's, and no other byte changes. -/
theorem OwnRow.byteAt_rowPieces (h : OwnRow s l row n p wr) {g : Nat → List Byte} (hk : 0 < k) {m : Memory} (ok : memoryWf m = true)
    {cols : List Nat} (hg : ∀ c ∈ cols, (g c).length = k) (hc : ∀ c ∈ cols, k * c + k ≤ n) :
    byteAt (putPieces m (rowPieces row k g cols)) b =
      if p ≤ b ∧ (b - p) / k ∈ cols then (g ((b - p) / k)).getD ((b - p) % k) 0 else byteAt m b := by
  induction cols generalizing m with
  | nil => simp [rowPieces, putPieces]
  | cons c cols ih =>
    obtain ⟨hgc, hgs⟩ := List.forall_mem_cons.1 hg
    obtain ⟨hcc, hcs⟩ := List.forall_mem_cons.1 hc
    have hstep : putPieces m (rowPieces row k g (c :: cols)) =
        putPieces (setBytes m (bits (row + k * c) 55 0) (g c)) (rowPieces row k g cols) := rfl
    rw [hstep, h.phys (by omega), ih (memoryWf_setBytes ok) hgs hcs]
    by_cases hin : p ≤ b ∧ (b - p) / k ∈ cols
    · rw [if_pos hin, if_pos ⟨hin.1, List.mem_cons_of_mem _ hin.2⟩]
    · rw [if_neg hin]
      by_cases hhere : p ≤ b ∧ (b - p) / k = c
      · obtain ⟨hpb, hdiv⟩ := hhere
        have hmod := Nat.div_add_mod (b - p) k
        have hlt := Nat.mod_lt (b - p) hk
        rw [hdiv] at hmod
        rw [if_pos ⟨hpb, hdiv ▸ List.mem_cons_self⟩, byteAt_setBytes_inside ok (by omega) (by omega), hdiv]
        congr 1
        omega
      · rw [if_neg (fun hh => (List.mem_cons.1 hh.2).elim (fun he => hhere ⟨hh.1, he⟩) fun hm => hin ⟨hh.1, hm⟩)]
        refine byteAt_setBytes_outside ok ?_
        by_contra hno
        refine hhere ⟨by omega, ?_⟩
        rw [Nat.div_eq_iff hk]
        rw [hgc] at hno
        rw [Nat.mul_comm c k]
        omega

end

end Sys2Proof.Machine
end

section
/-! PROOFS. STW, STR and STB into a lantern's own store (O13, R130, R131, R135). -/

namespace Sys2Proof.Machine

section
variable {s t : State} {l row n p k b : Nat} {f : VFields} {c : Instr}

/-! ### What a store leaves -/

/-- Instruction i has stored: byte b is what at_ names, if it names one, and the SAT flag is raised by r; nothing else
changes but the count. -/
def Stores (i : Instr) (s : State) (l : Nat) (at_ : Nat → Option Byte) (r : Bool) : Prop :=
  ∃ t, exec i s = .next t ∧ t = { s with mem := t.mem, lanterns := t.lanterns } ∧ (∀ b, readByte t b = (at_ b).getD (readByte s b)) ∧
    lanternAt t l = { lanternAt s l with
      vec := { (lanternAt s l).vec with index := (lanternAt s l).vec.index + 1, flags := orFlag (lanternAt s l).vec.flags flSat r },
      beacon := (lanternAt s l).beacon.modify 1 (fun c => (c + 1) % 2 ^ 32) } ∧ OtherLanterns s t l

/-- The accumulator arrays as they are read do not depend on the engine or the beacon (R111). -/
theorem accByte_congr {x y : Lantern} (ha : x.acc = y.acc) (hg : x.grad = y.grad) (o : Nat) : accByte x o = accByte y o := by
  simp only [accByte, ha, hg]

theorem stores_of_exec {at_ : Nat → Option Byte} {r : Bool} {m : Memory} (hl : l < s.lanterns.length)
    (hx : exec c s = .next (retireIns { modVec s l (fun v => raiseFlag v flSat r) with mem := m } l))
    (hm : ∀ b, byteAt m b = (at_ b).getD (byteAt s.mem b)) (hreg : ∀ b, bits b 55 48 = 0x30 → at_ b = none) : Stores c s l at_ r := by
  have hsame : lanternAt (retireIns { modVec s l (fun v => raiseFlag v flSat r) with mem := m } l) l = { lanternAt s l with
      vec := { (lanternAt s l).vec with index := (lanternAt s l).vec.index + 1, flags := orFlag (lanternAt s l).vec.flags flSat r },
      beacon := (lanternAt s l).beacon.modify 1 (fun c => (c + 1) % 2 ^ 32) } := by
    simp [retireIns, bumpBeacon, modVec, lanternAt, modLantern, List.getD_eq_getElem?_getD, hl, raiseFlag]
  have hother : OtherLanterns s (retireIns { modVec s l (fun v => raiseFlag v flSat r) with mem := m } l) l := fun k hk => by
    have hk' : ¬ l = k := fun e => hk e.symm
    simp [retireIns, bumpBeacon, modVec, lanternAt, modLantern, List.getD_eq_getElem?_getD, hk']
  refine ⟨_, hx, rfl, fun b => ?_, hsame, hother⟩
  unfold readByte
  by_cases hb : bits b 55 48 = 0x30
  · rw [if_pos hb, if_pos hb, hreg b hb]
    refine accByte_congr ?_ ?_ _ <;> by_cases hk : bits b 47 40 = l
    · rw [hk, hsame]
    · rw [hother _ hk]
    · rw [hk, hsame]
    · rw [hother _ hk]
  · rw [if_neg hb, if_neg hb]
    exact hm b

/-! ### STW and STR -/

theorem wrapNat_of_lt {x : Nat} (h : x < 2 ^ 64) : wrapNat 64 (x : Int) = x := by
  unfold wrapNat
  omega

/-- The lanes that a store takes. -/
def storeCols (v : VEngine) (f : VFields) : List Nat := (List.range 128).filter (fun c => (writeMask v f).getLsbD c)

theorem mem_storeCols {v : VEngine} {d : Nat} : d ∈ storeCols v f ↔ d < 128 ∧ (writeMask v f).getLsbD d = true := by
  simp [storeCols]

/-- The pieces of a row where the addresses do not wrap. -/
theorem wrapped_rowPieces {g : Nat → List Byte} {cols : List Nat} (hfit : row + n ≤ 2 ^ 64) (hk : 0 < k) (hc : ∀ c ∈ cols, k * c + k ≤ n) :
    cols.map (fun c => (wrapNat 64 ((row + k * c : Nat) : Int), g c)) = rowPieces row k g cols := by
  refine List.map_congr_left fun c h => ?_
  have := hc c h
  rw [wrapNat_of_lt (by omega)]

/-- The bytes of a register's lanes at row p, k bytes each. -/
def storedLanes (w : BitVec 128) (p k : Nat) (g : Nat → List Byte) (b : Nat) : Option Byte :=
  if p ≤ b ∧ b < p + 128 * k ∧ w.getLsbD ((b - p) / k) = true then some ((g ((b - p) / k)).getD ((b - p) % k) 0) else none

/-- A store of k bytes from each lane (R135). -/
theorem stores_lanes (hi : s.Inv) (hl : l < 192) (hr : Running s l f) (hp : s.poison = []) {op : Nat} (hop : PlainOp op) (hk : 0 < k)
    {g : Nat → List Byte} (hg : ∀ c, (g c).length = k) (h : OwnRow s l row (128 * k) p true) {act : State → VFields → State}
    (hx : exec c s = .next (issueOne s l op f act))
    (hact : act s f = issueStore s l ((storeCols (lanternAt s l).vec f).map (fun c => (wrapNat 64 ((row + k * c : Nat) : Int), g c)))) :
    Stores c s l (storedLanes (writeMask (lanternAt s l).vec f) p k g) false := by
  have hlen : l < s.lanterns.length := by rw [hi.1.1.1]; exact hl
  have hfit : ∀ c ∈ storeCols (lanternAt s l).vec f, k * c + k ≤ 128 * k := fun c hc => by
    have h1 : c + 1 ≤ 128 := (mem_storeCols.1 hc).1
    calc k * c + k = k * (c + 1) := by ring
      _ ≤ k * 128 := Nat.mul_le_mul_left k h1
      _ = 128 * k := Nat.mul_comm ..
  rw [wrapped_rowPieces h.fits hk hfit] at hact
  obtain ⟨hin, hput⟩ := h.joined hl (inRow_rowPieces hk (fun c _ => hg c) hfit) s.mem
  rw [issueStore_own hp hin, hput] at hact
  have hsame : modVec s l (fun v => raiseFlag v flSat false) = s := modVec_same rfl hlen
  rw [issueOne_plain hr hop, hact] at hx
  refine stores_of_exec hlen (m := putPieces s.mem (rowPieces row k g (storeCols (lanternAt s l).vec f))) (by rw [hsame]; exact hx)
    (fun b => ?_) fun b hb => ?_
  · rw [h.byteAt_rowPieces hk hi.2 (fun c _ => hg c) hfit]
    unfold storedLanes
    have hiff : (p ≤ b ∧ (b - p) / k ∈ storeCols (lanternAt s l).vec f) ↔
        (p ≤ b ∧ b < p + 128 * k ∧ (writeMask (lanternAt s l).vec f).getLsbD ((b - p) / k) = true) := by
      rw [mem_storeCols, Nat.div_lt_iff_lt_mul hk]
      exact and_congr_right fun hpb => and_congr_left fun _ => by omega
    simp only [hiff]
    split <;> rfl
  · refine if_neg fun hin => ?_
    have hreg := h.region hl (i := b - p) (by omega)
    rw [Nat.add_sub_cancel' hin.1, hb] at hreg
    cases hreg

/-- A byte of a number in little-endian order is a slice of its bits. -/
theorem natLE_getD {w : Nat} (x : BitVec w) {n i : Nat} (h : i < n) : (natLE n x.toNat).getD i 0 = x.extractLsb' (8 * i) 8 := by
  have hat : ∀ (n i v : Nat), i < n → (natLE n v).getD i 0 = BitVec.ofNat 8 (v / 256 ^ i) := by
    intro n
    induction n with
    | zero => exact fun i v h => absurd h (Nat.not_lt_zero i)
    | succ n ih =>
      intro i v h
      cases i with
      | zero => simp [natLE]
      | succ i =>
        rw [natLE, List.getD_cons_succ, ih i _ (by omega), Nat.div_div_eq_div_mul, pow_succ']
  rw [hat n i _ h, BitVec.extractLsb', Nat.shiftRight_eq_div_pow, show (256 : Nat) ^ i = 2 ^ (8 * i) by rw [pow_mul]; norm_num]

theorem issueStw_eq (s : State) (l : Nat) (f : VFields) : issueStw s l f = issueStore s l ((storeCols (lanternAt s l).vec f).map (fun c =>
    (wrapNat 64 ((rowAddr (lanternAt s l).vec f (bits (immNat f) 2 0) 1024 + 8 * c : Nat) : Int),
      natLE 8 (laneAt (regAt (lanternAt s l).vec f.va) c).bits.toNat))) := rfl

theorem issueStr_eq (s : State) (l : Nat) (f : VFields) : issueStr s l f = issueStore s l ((storeCols (lanternAt s l).vec f).map (fun c =>
    (wrapNat 64 ((rowAddr (lanternAt s l).vec f (bits (immNat f) 2 0) 2048 + 16 * c : Nat) : Int),
      recBytes (pairRec (lanternAt s l).vec f.va c)))) := rfl

theorem stores_stw (hi : s.Inv) (hl : l < 192) (hr : Running s l f) (hp : s.poison = []) (h : OwnRow s l row 1024 p true)
    (ha : row = rowAddr (lanternAt s l).vec f (bits (immNat f) 2 0) 1024) :
    Stores (.vStw l f) s l (storedLanes (writeMask (lanternAt s l).vec f) p 8
      (fun c => natLE 8 (laneAt (regAt (lanternAt s l).vec f.va) c).bits.toNat)) false :=
  stores_lanes (op := 0x6B) (k := 8) (row := row) hi hl hr hp (by unfold PlainOp; decide) (by norm_num) (fun _ => natLE_length ..) h rfl
    (ha ▸ issueStw_eq s l f)

theorem recBytes_length (x : Rec) : (recBytes x).length = 16 := by
  simp [recBytes, intLE]

theorem stores_str (hi : s.Inv) (hl : l < 192) (hr : Running s l f) (hp : s.poison = []) (h : OwnRow s l row 2048 p true)
    (ha : row = rowAddr (lanternAt s l).vec f (bits (immNat f) 2 0) 2048) :
    Stores (.vStr l f) s l (storedLanes (writeMask (lanternAt s l).vec f) p 16
      (fun c => recBytes (pairRec (lanternAt s l).vec f.va c))) false :=
  stores_lanes (op := 0x6D) (k := 16) (row := row) hi hl hr hp (by unfold PlainOp; decide) (by norm_num) (fun _ => recBytes_length _) h rfl
    (ha ▸ issueStr_eq s l f)

end

end Sys2Proof.Machine
end

section
/-! PROOFS. STB into a lantern's own store (O13, R131, R135). -/

namespace Sys2Proof.Machine

section
variable {s : State} {l row srow n m p sp b q : Nat} {f : VFields}

/-! ### The blocks -/

/-- The block of a group as STB writes it, with the loss scale where it asks for it (R131). -/
def stbGroup (s : State) (l : Nat) (f : VFields) (q : Nat) : StbOut :=
  let r := regAt (lanternAt s l).vec f.va
  let ins := (liveLanes (writeMask (lanternAt s l).vec f) q).map (fun c => (if isSat r c then 0 else mant r c, isSat r c))
  let b := stbBlock (ldbFmt f) ins (gAt r q)
  if f.imm.getLsbD 8 then stbScale (ldbFmt f) ins b (stepScale s l) else b

/-- Its mantissas, 0 in the lanes that take no part (R28). -/
def stbMants (s : State) (l : Nat) (f : VFields) (q : Nat) : List Int :=
  let w := writeMask (lanternAt s l).vec f
  (List.range 32).map (fun i => if w.getLsbD (32 * q + i) then
    (stbGroup s l f q).m.getD ((liveLanes w ((32 * q + i) / 32)).idxOf (32 * q + i)) 0 else 0)

/-- The groups that STB writes. -/
def stbGroups (s : State) (l : Nat) (f : VFields) : List Nat :=
  (List.range 4).filter (fun q => !(liveLanes (writeMask (lanternAt s l).vec f) q).isEmpty)

theorem mem_stbGroups : q ∈ stbGroups s l f ↔ q < 4 ∧ liveLanes (writeMask (lanternAt s l).vec f) q ≠ [] := by
  simp [stbGroups]

theorem stbMants_eq (s : State) (l : Nat) (f : VFields) (q : Nat) :
    (groupLanes q).map (fun c => if (writeMask (lanternAt s l).vec f).getLsbD c then
      (stbGroup s l f q).m.getD ((liveLanes (writeMask (lanternAt s l).vec f) q).filter (· < c)).length 0 else 0) = stbMants s l f q := by
  unfold groupLanes stbMants
  rw [List.map_map]
  refine List.map_congr_left fun i hi => ?_
  have hi' := List.mem_range.1 hi
  have hq : (32 * q + i) / 32 = q := by omega
  dsimp only [Function.comp_apply]
  by_cases hw : (writeMask (lanternAt s l).vec f).getLsbD (32 * q + i) = true
  · have hplace := length_place hw
    rw [hq] at hplace ⊢
    rw [if_pos hw, if_pos hw, hplace]
  · rw [if_neg hw, if_neg hw]

theorem issueStb_eq (s : State) (l : Nat) (f : VFields) : issueStb s l f =
    issueStore (modVec s l (fun v => raiseFlag v flSat ((stbGroups s l f).any (fun q => (stbGroup s l f q).raise)))) l
      ((stbGroups s l f).map (fun q => (wrapNat 64 ((rowAddr (lanternAt s l).vec f (bits (immNat f) 2 0) (4 * blockBytes (ldbFmt f)) +
        q * blockBytes (ldbFmt f) : Nat) : Int), mantissaBytes (ldbFmt f) (stbMants s l f q))) ++
      (stbGroups s l f).map (fun q => (wrapNat 64 ((rowAddr (lanternAt s l).vec f (bits (immNat f) 5 3) 4 + q : Nat) : Int),
        [BitVec.ofNat 8 (stbGroup s l f q).e]))) := by
  simp only [← stbMants_eq]
  unfold issueStb
  simp only [List.map_map, List.any_map]
  rfl

theorem flatten_length {xs : List (List Byte)} {k : Nat} (h : ∀ x ∈ xs, x.length = k) : xs.flatten.length = xs.length * k := by
  rw [List.length_flatten, List.map_eq_replicate_iff.2 h, List.sum_replicate, smul_eq_mul]

theorem mantissaBytes_length (fmt : Fmt) {ms : List Int} (h : ms.length = 32) : (mantissaBytes fmt ms).length = blockBytes fmt := by
  have hflat : ∀ k, (ms.map (intLE k)).flatten.length = 32 * k := fun k => by
    rw [flatten_length (xs := ms.map (intLE k)) (k := k) (List.forall_mem_map.2 fun x _ => natLE_length k _), List.length_map, h]
  cases fmt with
  | b4 => simp [mantissaBytes, blockBytes, h]
  | b8 => simp [mantissaBytes, blockBytes, h]
  | b16 => exact hflat 2
  | b32 => exact hflat 4

/-! ### Two rows -/

/-- Pieces of a row that lies clear of another touch none of the other's. -/
theorem OwnRow.apart (h : OwnRow s l row n p true) (h' : OwnRow s l srow m sp true) (hl : l < 192) (hd : p + n < sp ∨ sp + m ≤ p)
    {x y : Nat × List Byte} (hx : InRow row n x) (hy : InRow srow m y) : x.1 + x.2.length ≠ y.1 := by
  intro he
  obtain ⟨x1, x2, x3⟩ := hx
  obtain ⟨y1, y2, y3⟩ := hy
  obtain ⟨j, hj⟩ := Nat.le.dest y1
  obtain ⟨i, hi⟩ : ∃ i, row + i + 1 = y.1 := ⟨x.1 + x.2.length - row - 1, by omega⟩
  have hlast := h.phys (i := i) (by omega)
  have hplace := h.place (i := i) (by omega)
  have hfirst := h'.phys (i := j) (by omega)
  rw [hj, ← hi] at hfirst
  simp only [bits, pow_zero, Nat.div_one] at hlast hfirst
  omega

/-- What STB writes at a byte: the mantissas at row p, the scale bytes at row sp (R131). -/
def stbBytes (s : State) (l : Nat) (f : VFields) (p sp b : Nat) : Option Byte :=
  let bb := blockBytes (ldbFmt f)
  let w := writeMask (lanternAt s l).vec f
  if p ≤ b ∧ b < p + 4 * bb ∧ liveLanes w ((b - p) / bb) ≠ [] then
    some ((mantissaBytes (ldbFmt f) (stbMants s l f ((b - p) / bb))).getD ((b - p) % bb) 0)
  else if sp ≤ b ∧ b < sp + 4 ∧ liveLanes w (b - sp) ≠ [] then some (BitVec.ofNat 8 (stbGroup s l f (b - sp)).e) else none

/-- A flag raised leaves the rows of the own store as they are. -/
theorem OwnRow.raise (h : OwnRow s l row n p true) (hl : l < s.lanterns.length) (k : Nat) (r : Bool) :
    OwnRow (modVec s l (fun v => raiseFlag v k r)) l row n p true := by
  refine h.congr (fun j => ?_) ?_ rfl rfl rfl
  · by_cases hj : j = l
    · rw [hj, lanternAt_modVec_same _ _ _ hl]
      exact ⟨rfl, rfl⟩
    · rw [lanternAt_modVec_other _ _ hj]
      exact ⟨rfl, rfl⟩
  · rw [lanternAt_modVec_same _ _ _ hl]
    rfl

/-- The pieces of STB: a row of blocks and a row of scale bytes. -/
def stbBlocks (s : State) (l : Nat) (f : VFields) (row : Nat) : List (Nat × List Byte) :=
  rowPieces row (blockBytes (ldbFmt f)) (fun q => mantissaBytes (ldbFmt f) (stbMants s l f q)) (stbGroups s l f)

def stbScales (s : State) (l : Nat) (f : VFields) (srow : Nat) : List (Nat × List Byte) :=
  rowPieces srow 1 (fun q => [BitVec.ofNat 8 (stbGroup s l f q).e]) (stbGroups s l f)

theorem stbMants_length (s : State) (l : Nat) (f : VFields) (q : Nat) : (stbMants s l f q).length = 32 := by
  simp [stbMants]

theorem stbGroups_fit (k : Nat) : ∀ q ∈ stbGroups s l f, k * q + k ≤ 4 * k := fun q hq => by
  have hq4 : q + 1 ≤ 4 := (mem_stbGroups.1 hq).1
  calc k * q + k = k * (q + 1) := by ring
    _ ≤ k * 4 := Nat.mul_le_mul_left k hq4
    _ = 4 * k := Nat.mul_comm ..

/-- The store of STB is that of its two rows. -/
theorem issueStb_rows (hfit : row + 4 * blockBytes (ldbFmt f) ≤ 2 ^ 64) (hfit' : srow + 4 ≤ 2 ^ 64)
    (ha : row = rowAddr (lanternAt s l).vec f (bits (immNat f) 2 0) (4 * blockBytes (ldbFmt f)))
    (hs : srow = rowAddr (lanternAt s l).vec f (bits (immNat f) 5 3) 4) : issueStb s l f =
    issueStore (modVec s l (fun v => raiseFlag v flSat ((stbGroups s l f).any (fun q => (stbGroup s l f q).raise)))) l
      (stbBlocks s l f row ++ stbScales s l f srow) := by
  have hb := (blockBytes_bounds (ldbFmt f)).1
  have hblocks := wrapped_rowPieces (g := fun q => mantissaBytes (ldbFmt f) (stbMants s l f q)) (cols := stbGroups s l f) hfit
    (by omega) (stbGroups_fit _)
  have hscales := wrapped_rowPieces (g := fun q => [BitVec.ofNat 8 (stbGroup s l f q).e]) (cols := stbGroups s l f) hfit'
    one_pos (stbGroups_fit 1)
  rw [issueStb_eq, ← ha, ← hs, stbBlocks, stbScales, ← hblocks, ← hscales]
  simp only [Nat.mul_comm, Nat.mul_one]

/-- The bytes that the two rows leave. -/
theorem byteAt_stb (hmem : memoryWf s.mem = true) (h : OwnRow s l row (4 * blockBytes (ldbFmt f)) p true) (h' : OwnRow s l srow 4 sp true)
    (hd : p + 4 * blockBytes (ldbFmt f) < sp ∨ sp + 4 ≤ p) (b : Nat) :
    byteAt (putPieces (putPieces s.mem (stbBlocks s l f row)) (stbScales s l f srow)) b =
      (stbBytes s l f p sp b).getD (byteAt s.mem b) := by
  have hb := (blockBytes_bounds (ldbFmt f)).1
  have hblock : (p ≤ b ∧ (b - p) / blockBytes (ldbFmt f) ∈ stbGroups s l f) ↔ p ≤ b ∧ b < p + 4 * blockBytes (ldbFmt f) ∧
      liveLanes (writeMask (lanternAt s l).vec f) ((b - p) / blockBytes (ldbFmt f)) ≠ [] := by
    rw [mem_stbGroups, Nat.div_lt_iff_lt_mul (by omega)]
    exact and_congr_right fun hpb => and_congr_left fun _ => by omega
  have hscale : (sp ≤ b ∧ (b - sp) / 1 ∈ stbGroups s l f) ↔ sp ≤ b ∧ b < sp + 4 ∧
      liveLanes (writeMask (lanternAt s l).vec f) (b - sp) ≠ [] := by
    rw [mem_stbGroups, Nat.div_one]
    exact and_congr_right fun hpb => and_congr_left fun _ => by omega
  rw [stbScales, h'.byteAt_rowPieces one_pos (memoryWf_putPieces hmem _) (fun _ _ => rfl) (stbGroups_fit 1), stbBlocks,
    h.byteAt_rowPieces (by omega) hmem (fun q _ => mantissaBytes_length _ (stbMants_length s l f q)) (stbGroups_fit _)]
  simp only [hblock, hscale, stbBytes]
  by_cases h1 : p ≤ b ∧ b < p + 4 * blockBytes (ldbFmt f) ∧
      liveLanes (writeMask (lanternAt s l).vec f) ((b - p) / blockBytes (ldbFmt f)) ≠ []
  · rw [if_neg (fun h2 => by omega), if_pos h1, if_pos h1]
    rfl
  · rw [if_neg h1, if_neg h1]
    split
    · rw [Nat.mod_one, Nat.div_one]
      rfl
    · rfl

theorem stbBytes_region (h : OwnRow s l row (4 * blockBytes (ldbFmt f)) p true) (h' : OwnRow s l srow 4 sp true) (hl : l < 192)
    (hb : bits b 55 48 = 0x30) : stbBytes s l f p sp b = none := by
  have hclear : ∀ {row n p}, OwnRow s l row n p true → ¬ (p ≤ b ∧ b < p + n) := fun {row n p} h hin => by
    have hreg := h.region hl (i := b - p) (by omega)
    rw [Nat.add_sub_cancel' hin.1, hb] at hreg
    cases hreg
  unfold stbBytes
  dsimp only
  rw [if_neg fun hin => hclear h ⟨hin.1, hin.2.1⟩, if_neg fun hin => hclear h' ⟨hin.1, hin.2.1⟩]

theorem stores_stb (hi : s.Inv) (hl : l < 192) (hr : Running s l f) (hp : s.poison = [])
    (h : OwnRow s l row (4 * blockBytes (ldbFmt f)) p true) (h' : OwnRow s l srow 4 sp true)
    (hd : p + 4 * blockBytes (ldbFmt f) < sp ∨ sp + 4 ≤ p)
    (ha : row = rowAddr (lanternAt s l).vec f (bits (immNat f) 2 0) (4 * blockBytes (ldbFmt f)))
    (hs : srow = rowAddr (lanternAt s l).vec f (bits (immNat f) 5 3) 4) :
    Stores (.vStb l f) s l (stbBytes s l f p sp) ((stbGroups s l f).any (fun q => (stbGroup s l f q).raise)) := by
  have hlen : l < s.lanterns.length := by rw [hi.1.1.1]; exact hl
  have hx : exec (.vStb l f) s = .next (issueOne s l 0x69 f (fun s f => issueStb s l f)) := rfl
  rw [issueOne_plain hr (by unfold PlainOp; decide), issueStb_rows h.fits h'.fits ha hs] at hx
  generalize (stbGroups s l f).any (fun q => (stbGroup s l f q).raise) = r at hx ⊢
  have hb := (blockBytes_bounds (ldbFmt f)).1
  have hin : ∀ x ∈ stbBlocks s l f row, InRow row (4 * blockBytes (ldbFmt f)) x :=
    inRow_rowPieces (by omega) (fun q _ => mantissaBytes_length _ (stbMants_length s l f q)) (stbGroups_fit _)
  have hin' : ∀ x ∈ stbScales s l f srow, InRow srow 4 x := inRow_rowPieces one_pos (fun _ _ => rfl) (stbGroups_fit 1)
  have hjoin := joinPieces_append fun x hx y hy => h.apart h' hl hd (hin x hx) (hin' y hy)
  obtain ⟨hown, hput⟩ := (h.raise hlen flSat r).joined hl hin s.mem
  obtain ⟨hown', hput'⟩ := (h'.raise hlen flSat r).joined hl hin' (putPieces s.mem (stbBlocks s l f row))
  have hmem : putPieces s.mem (joinPieces (stbBlocks s l f row ++ stbScales s l f srow)) =
      putPieces (putPieces s.mem (stbBlocks s l f row)) (stbScales s l f srow) := by
    rw [hjoin, ← hput', ← hput]
    exact List.foldl_append
  rw [issueStore_own (s := modVec s l (fun v => raiseFlag v flSat r)) hp
    fun q hq => (List.mem_append.1 (hjoin ▸ hq)).elim (hown q) (hown' q)] at hx
  refine stores_of_exec hlen hx (fun b => ?_) fun b hb => stbBytes_region h h' hl hb
  rw [← byteAt_stb hi.2 h h' hd, ← hmem]
  rfl

end

end Sys2Proof.Machine
end

section
/-! PROOFS. Address errors of loads and stores (O13, R136). -/

namespace Sys2Proof.Machine

section
variable {s : State} {l row n k a : Nat} {f : VFields} {c : Instr}

/-! ### What an address error does -/

/-- An address error reaches memory only through event rings, which lie in host windows. -/
theorem vecAddrErrorAt_mem (h : HostRings s) (cause row index : Nat) : (vecAddrErrorAt s l cause row index).mem = s.mem := by
  unfold vecAddrErrorAt lanternEvent
  obtain ⟨e, -, -, -, -, -, -, hrings⟩ := raiseEventIn_outward (s := modVec (setFault s l) l (fun v => raiseFlag v flAddr true)) (.lantern l)
    evAddress (lanternMooring (modVec (setFault s l) l (fun v => raiseFlag v flAddr true)) l) l cause
    [((lanternAt s l).vec.cur.map (·.slot)).getD 0, ((lanternAt s l).vec.cur.map (·.bind.tensor)).getD 0, row, index]
  exact (hrings (hostRings_funcs (s := s) rfl h)).1

/-- An instruction that retires is counted; its lantern keeps all else. -/
theorem retireIns_keeps (hl : l < s.lanterns.length) :
    (lanternAt (retireIns s l) l).vec = { (lanternAt s l).vec with index := (lanternAt s l).vec.index + 1 } ∧
    (lanternAt (retireIns s l) l).fault = (lanternAt s l).fault ∧ OtherLanterns s (retireIns s l) l := by
  have hat : lanternAt (retireIns s l) l = { lanternAt s l with
      vec := { (lanternAt s l).vec with index := (lanternAt s l).vec.index + 1 },
      beacon := (lanternAt s l).beacon.modify 1 (fun c => (c + 1) % 2 ^ 32) } := by
    simp [retireIns, bumpBeacon, modVec, lanternAt, modLantern, List.getD_eq_getElem?_getD, hl]
  refine ⟨by rw [hat], by rw [hat], fun k hk => ?_⟩
  exact (lanternAt_modLantern_other _ _ hk).trans (lanternAt_modVec_other _ _ hk)

/-- What an access that fails leaves of an instruction: ADDR, the fault flag and the count (R136). -/
structure AddrFailed (s t : State) (l : Nat) (u : VEngine) : Prop where
  regs  : (lanternAt t l).vec.regs = u.regs
  flags : (lanternAt t l).vec.flags = orFlag u.flags flAddr true
  fault : (lanternAt t l).fault = true
  other : OtherLanterns s t l
  mem   : HostRings s → t.mem = s.mem

theorem addrFailed_retire (hl : l < s.lanterns.length) (cause row index : Nat) :
    AddrFailed s (retireIns (vecAddrErrorAt s l cause row index) l) l (lanternAt s l).vec := by
  obtain ⟨hat, hother, -⟩ := vecAddrErrorAt_lantern hl cause row index
  have hlen : l < (vecAddrErrorAt s l cause row index).lanterns.length := by
    have hunits : (vecAddrErrorAt s l cause row index).lanterns.length = s.lanterns.length := by
      unfold vecAddrErrorAt
      dsimp only
      rw [(lanternEvent_units ..).2.2.2.1]
      simp [modVec, setFault, modLantern]
    rw [hunits]
    exact hl
  obtain ⟨hvec, hfault, hrest⟩ := retireIns_keeps hlen
  rw [hat] at hvec hfault
  exact ⟨by rw [hvec]; rfl, by rw [hvec]; rfl, hfault, fun k hk => (hrest k hk).trans (hother k hk), fun h => vecAddrErrorAt_mem h _ _ _⟩

/-- An instruction that changes its engine by g and then fails. -/
theorem addrFailed_of_exec (hl : l < s.lanterns.length) (g : VEngine → VEngine) (cause : Nat) :
    AddrFailed s (retireIns (vecAddrError (modVec s l g) l cause) l) l (g (lanternAt s l).vec) := by
  have hlen : l < (modVec s l g).lanterns.length := by simpa [modVec] using hl
  obtain ⟨hregs, hflags, hfault, hother, hmem⟩ := addrFailed_retire hlen cause (lanternAt (modVec s l g) l).vec.row
    (lanternAt (modVec s l g) l).vec.index
  have hvec : (lanternAt (modVec s l g) l).vec = g (lanternAt s l).vec := congrArg Lantern.vec (lanternAt_modVec_same _ _ _ hl)
  rw [hvec] at hregs hflags
  rw [vecAddrError, hvec]
  rw [hvec] at hfault hother hmem
  exact ⟨hregs, hflags, hfault, fun k hk => (hother k hk).trans (lanternAt_modVec_other _ _ hk), fun h => hmem (hostRings_funcs (s := s) rfl h)⟩

/-! ### A load -/

theorem laneAt_satReg {v : VEngine} (ok : v.Ok) {d : Nat} (hvd : n < 64) (hd : d < 128) : laneAt (regAt (satReg v n) n) d = ⟨0, true⟩ := by
  unfold satReg
  rw [regAt_modReg, if_pos ⟨rfl, by rw [ok.1.1]; exact hvd⟩]
  unfold laneAt
  rw [List.getD_eq_getElem?_getD, List.getElem?_replicate, if_pos hd]
  rfl

/-- LDW of an address that the lantern may not reach (R136). -/
theorem ldw_addrError (hi : s.Inv) (hl : l < 192) (hr : Running s l f) (hvd : f.vd < 64) (hq : (lanternAt s l).vec.loadQ.length < 16)
    (hc : checkAddr s (vecCtx s l) (rowAddr (lanternAt s l).vec f (bits (immNat f) 2 0) 1024) 1024 false = none) :
    ∃ t, exec (.vLdw l f) s = .next t ∧ (∀ c, c < 128 → laneAt (regAt (lanternAt t l).vec f.vd) c = ⟨0, true⟩) ∧
      (lanternAt t l).vec.flags = orFlag (lanternAt s l).vec.flags flAddr true ∧
      (lanternAt t l).fault = true ∧ OtherLanterns s t l ∧ (HostRings s → t.mem = s.mem) := by
  have hlen : l < s.lanterns.length := by rw [hi.1.1.1]; exact hl
  have hload : issueLdw s l f = vecAddrError (modVec s l (fun v => satReg v f.vd)) l causeAddress := by
    rw [issueLdw_eq, issueLoad]
    simp only [List.any_cons, List.any_nil, hc, Option.isNone_none, Bool.or_false, if_true, deliverLoad]
  have hx : exec (.vLdw l f) s = .next (issueOne s l 0x6A f (fun s f => issueLdw s l f)) := rfl
  rw [issueOne_load hr hq (by decide), hload] at hx
  obtain ⟨hregs, hflags, hfault, hother, hmem⟩ := addrFailed_of_exec hlen (fun v => satReg v f.vd) causeAddress
  refine ⟨_, hx, fun c hcl => ?_, hflags, hfault, hother, hmem⟩
  unfold regAt
  rw [hregs]
  exact laneAt_satReg (vecOk_of_inv hi l) hvd hcl

/-! ### A store -/

/-- Pieces of consecutive places are one piece. -/
theorem joinPieces_consecutive {g : Nat → List Byte} (hg : ∀ c, (g c).length = k) (a n : Nat) :
    joinPieces (rowPieces row k g (List.range' a (n + 1))) = [(row + k * a, ((List.range' a (n + 1)).map g).flatten)] := by
  induction n generalizing a with
  | zero => simp [rowPieces, List.range'_succ, joinPieces]
  | succ n ih =>
    have hcons : rowPieces row k g (List.range' a (n + 2)) = (row + k * a, g a) :: rowPieces row k g (List.range' (a + 1) (n + 1)) := by
      rw [List.range'_succ]
      rfl
    rw [hcons, joinPieces_cons_cons (ih (a + 1)), if_pos (by rw [hg]; ring), List.range'_succ (s := a), List.map_cons, List.flatten_cons]

/-- STW of a whole register at an address that the lantern may not reach (R136). -/
theorem stw_addrError (hi : s.Inv) (hl : l < 192) (hr : Running s l f) (hw : writeMask (lanternAt s l).vec f = BitVec.allOnes 128)
    (hrow : row = rowAddr (lanternAt s l).vec f (bits (immNat f) 2 0) 1024) (hfit : row + 1024 ≤ 2 ^ 64)
    (hc : checkAddr s (vecCtx s l) row 1024 true = none) :
    ∃ t, exec (.vStw l f) s = .next t ∧ (lanternAt t l).vec.regs = (lanternAt s l).vec.regs ∧
      (lanternAt t l).vec.flags = orFlag (lanternAt s l).vec.flags flAddr true ∧
      (lanternAt t l).fault = true ∧ OtherLanterns s t l ∧ (HostRings s → t.mem = s.mem) := by
  have hlen : l < s.lanterns.length := by rw [hi.1.1.1]; exact hl
  let g (c : Nat) : List Byte := natLE 8 (laneAt (regAt (lanternAt s l).vec f.va) c).bits.toNat
  have hg : ∀ c, (g c).length = 8 := fun _ => natLE_length ..
  have hcols : storeCols (lanternAt s l).vec f = List.range' 0 128 := by
    rw [storeCols, hw, ← List.range_eq_range']
    exact List.filter_eq_self.2 fun c hc => (BitVec.getLsbD_allOnes ..).trans (decide_eq_true (List.mem_range.1 hc))
  have hpieces : (storeCols (lanternAt s l).vec f).map (fun c => (wrapNat 64 ((row + 8 * c : Nat) : Int), g c)) =
      rowPieces row 8 g (List.range' 0 128) := by
    rw [hcols]
    refine wrapped_rowPieces hfit (by norm_num) fun c hc => ?_
    have := (List.mem_range'_1.1 hc).2
    omega
  have hstore : issueStw s l f = vecAddrError s l causeAddress := by
    rw [issueStw_eq, ← hrow, hpieces, issueStore]
    have hflat : ((List.range' 0 128).map g).flatten.length = 1024 := by
      rw [flatten_length (k := 8) (List.forall_mem_map.2 fun x _ => hg x), List.length_map, List.length_range']
    simp only [joinPieces_consecutive hg 0 127, List.any_cons, List.any_nil, Nat.mul_zero, Nat.add_zero, hflat, hc, Option.isNone_none,
      Bool.or_false, if_true]
  have hx : exec (.vStw l f) s = .next (issueOne s l 0x6B f (fun s f => issueStw s l f)) := rfl
  rw [issueOne_plain hr (by unfold PlainOp; decide), hstore] at hx
  obtain ⟨hregs, hflags, hfault, hother, hmem⟩ := addrFailed_of_exec hlen (fun v => v) causeAddress
  rw [modVec_id] at hregs hflags hfault hother hmem
  exact ⟨_, hx, hregs, hflags, hfault, hother, hmem⟩

end

end Sys2Proof.Machine
end

section
/-! PROOFS. O13 from its parts. -/

namespace Sys2Proof.Machine

section
variable {s : State} {l op : Nat} {f : VFields} {i : Instr}

/-- What a site's requantisation does to its engine with the Keeper's controls, from the engine that start describes on
(R129, R207, R208). -/
def SiteWrote (s : State) (l op : Nat) (f : VFields) (start : VEngine → Prop) (input : Nat → List (Int × Bool) × Int) (u : VEngine) : Prop :=
  let v := (lanternAt s l).vec
  let w := writeMask v f
  let f' := siteFields s l op f
  let k := drawKey s l f.vd
  ∃ v1 u1, start v1 ∧ Wrote v1 u1 f.vd w (siteRes v f' k w input) (siteExp v f' k w input) ∧ ∃ bs bu : Bool,
    (bs = true ↔ ∃ c, c < 128 ∧ w.getLsbD c = true ∧ (siteOut v f' k w input (c / 32)).sat = true) ∧
    (bu = true ↔ ∃ c, c < 128 ∧ w.getLsbD c = true ∧ (siteOut v f' k w input (c / 32)).unf = true) ∧
    u = { u1 with flags := orFlag (orFlag u1.flags flSat bs) flUnf bu, gtop := u.gtop, ghalf := u.ghalf, gsat := u.gsat } ∧
    (bits f'.imm.toNat 21 14 ≠ 2 → u.gtop = v.gtop ∧ u.ghalf = v.ghalf ∧ u.gsat = v.gsat) ∧
    (bits f'.imm.toNat 21 14 = 2 → u.gsat = (v.gsat || bs))

theorem siteWrote_of {start : VEngine → Prop} {input : Nat → List (Int × Bool) × Int} {g : VEngine → VFields → DrawKey → VEngine}
    (hg : ∀ imm, ∃ v1, start v1 ∧ Requantised (lanternAt s l).vec v1
      (g (lanternAt s l).vec { f with imm := imm } (drawKey s l f.vd)) { f with imm := imm } (drawKey s l f.vd) input) :
    SiteWrote s l op f start input (g (lanternAt s l).vec (siteFields s l op f) (drawKey s l f.vd)) := by
  unfold SiteWrote
  obtain ⟨imm, he⟩ := siteFields_imm s l op f
  rw [he]
  obtain ⟨v1, hstart, u1, h⟩ := hg imm
  exact ⟨v1, u1, hstart, h⟩

/-- What REQ gives requantise of a group: its live lanes' values and SAT bits, and its exponent. -/
def reqInput (v : VEngine) (f : VFields) (q : Nat) : List (Int × Bool) × Int :=
  ((liveLanes (writeMask v f) q).map (fun c => (if isSat (regAt v f.va) c then 0 else mant (regAt v f.va) c, isSat (regAt v f.va) c)),
    gAt (regAt v f.va) q)

theorem issues_req (hi : s.Inv) (hl : l < 192) (hr : Running s l f) (hvd : f.vd < 64) :
    Issues (.vReq l f) s l (SiteWrote s l 0x50 f (fun u => u = (lanternAt s l).vec) (reqInput (lanternAt s l).vec f)) :=
  issues_site (op := 0x50) (g := opReq) hi hl hr rfl (by decide) (siteWrote_of fun imm =>
    ⟨_, rfl, requantised_opReq (f := { f with imm := imm }) (vecOk_of_inv hi l) hvd _⟩)

theorem issues_reqr (hi : s.Inv) (hl : l < 192) (hr : Running s l f) (hvd : f.vd < 64) :
    Issues (.vReqr l f) s l (SiteWrote s l 0x51 f (fun u => u = notePair (lanternAt s l).vec f.va) (jamGroup (lanternAt s l).vec f)) :=
  issues_site (op := 0x51) (g := opReqr) hi hl hr rfl (by decide) (siteWrote_of fun imm =>
    ⟨_, rfl, requantised_opReqr (f := { f with imm := imm }) (vecOk_of_inv hi l) hvd _⟩)

theorem issues_rjam (hi : s.Inv) (hl : l < 192) (hr : Running s l f) (hvd : f.vd < 64) :
    let v := (lanternAt s l).vec
    Issues (.vRjam l f) s l (fun u => Wrote (notePair v f.va) u f.vd (writeMask v f)
      (jamRes v f (fun c => (liveLanes (writeMask v f) (c / 32)).idxOf c)) (fun q => (jamGroup v f q).2)) :=
  issues_lane (op := 0x53) (g := opRjam) hi hl hr rfl (by unfold PlainOp; decide) (opRjam_wrote (vecOk_of_inv hi l) hvd)

theorem Issues.imp {P Q : VEngine → Prop} (h : Issues i s l P) (hPQ : ∀ u, P u → Q u) : Issues i s l Q := by
  obtain ⟨t, u, hx, hP, hrest⟩ := h
  exact ⟨t, u, hx, hPQ u hP, hrest⟩

theorem Merged.imp {g : Lantern → Nat → Lantern} {P Q : VEngine → Prop} (h : Merged s l f i g P) (hPQ : ∀ u, P u → Q u) :
    Merged s l f i g Q := by
  obtain ⟨t, y, u, hx, hy, hP, hrest⟩ := h
  exact ⟨t, y, u, hx, hy, hPQ u hP, hrest⟩

theorem Stores.congr {at_ at' : Nat → Option Byte} {r : Bool} (h : Stores i s l at_ r) (he : ∀ b, at_ b = at' b) : Stores i s l at' r := by
  rwa [← funext he]

/-- The address register that a memory instruction names, and STB's and LDB's second one. -/
theorem first_register (f : VFields) : bits (immNat f) 2 0 = f.imm.toNat % 8 := by
  simp [bits, immNat]

theorem second_register (f : VFields) : bits (immNat f) 5 3 = f.imm.toNat / 8 % 8 := by
  simp [bits, immNat]

end

/-- Settles O13: each instruction is its engine operation, its entries' operation, its fetched rows or its written rows. -/
theorem recordAndMemoryInstructions : Obligations.RecordAndMemoryInstructions := by
  unfold Obligations.RecordAndMemoryInstructions
  intro s l f hi hl hvd hr x v w a lanes
  have hlanes : lanes = liveLanes w := funext fun q => (liveLanes_eq w q).symm
  clear_value lanes
  subst hlanes
  intro place note noted Requants local_ k1 k2 stored
  have hok := vecOk_of_inv hi l
  have hnoted : noted (notePair v f.va) := notePair_spec v f.va
  have hrow : ∀ {k n row p wr}, local_ k n row p wr → row = rowAddr v f k n ∧ OwnRow s l row n p wr :=
    fun {k n row p wr} ⟨h1, h2, h3, h4⟩ => ⟨h1.trans (rowAddr_eq v f k n).symm, h2, h3, h4⟩
  have hk1 : k1 = bits (immNat f) 2 0 := (first_register f).symm
  have hk2 : k2 = bits (immNat f) 5 3 := (second_register f).symm
  refine ⟨?_, ?_, ?_, fun h63 => ?_, fun h63 => ?_, fun j hj hw he => ?_, fun hp hsq hlq => ⟨?_, ?_, ?_⟩, fun hp => ⟨?_, ?_, ?_⟩,
    fun row ha => ?_⟩
  · -- REQ
    exact issues_req hi hl hr hvd
  · -- REQR
    refine (issues_reqr hi hl hr hvd).imp fun u hu => ?_
    obtain ⟨v1, u1, rfl, h⟩ := hu
    exact ⟨_, u1, hnoted, h⟩
  · -- RJAM
    exact (issues_rjam hi hl hr hvd).imp fun u hu => ⟨_, hnoted, hu⟩
  · -- REC
    exact issues_lane (op := 0x52) hi hl hr rfl (by unfold PlainOp; decide) (opRec_spec hok (by omega))
  · -- RADD
    exact issues_lane (op := 0x54) hi hl hr rfl (by unfold PlainOp; decide) (wrotePair_putPair hok (by omega) _ _)
  · -- merges
    intro k e cols after got
    obtain ⟨hadd, hread, htake⟩ := merges hi hl hr hj hw he
    refine ⟨hadd, fun h63 => ?_⟩
    have hgot : ∀ u, u = mergeGot x f k e v → got u := fun u hu => hu ▸ mergeGot_spec hok (by omega) k e
    exact ⟨hread.imp hgot, htake.imp hgot⟩
  · -- LDW
    intro row p h
    obtain ⟨ha, hown⟩ := hrow h
    exact issues_ldw hi hl hr hvd hp hsq hlq hown (hk1 ▸ ha)
  · -- LDR
    intro row p h63 h
    obtain ⟨ha, hown⟩ := hrow h
    exact issues_ldr hi hl hr hp hsq hlq (by omega) hown (hk1 ▸ ha)
  · -- LDB
    intro row p srow sp fmt bb scale h h'
    obtain ⟨ha, hown⟩ := hrow h
    obtain ⟨hs, hown'⟩ := hrow h'
    exact issues_ldb hi hl hr hvd hp hsq hlq hown hown' (hk1 ▸ ha) (hk2 ▸ hs)
  · -- STW
    intro row p h
    obtain ⟨ha, hown⟩ := hrow h
    refine (stores_stw hi hl hr hp hown (hk1 ▸ ha)).congr fun b => ?_
    rw [storedLanes, natLE_getD _ (Nat.mod_lt _ (by norm_num))]
  · -- STR
    intro row p h
    obtain ⟨ha, hown⟩ := hrow h
    exact stores_str hi hl hr hp hown (hk1 ▸ ha)
  · -- STB
    intro row p srow sp fmt bb block mantissas h h' hd
    obtain ⟨ha, hown⟩ := hrow h
    obtain ⟨hs, hown'⟩ := hrow h'
    have hraise : (stbGroups s l f).any (fun q => (stbGroup s l f q).raise) =
        (List.range 4).any (fun q => !(liveLanes w q).isEmpty && (block q).raise) := List.any_filter
    exact hraise ▸ stores_stb hi hl hr hp hown hown' hd (hk1 ▸ ha) (hk2 ▸ hs)
  · -- LDW and STW out of reach
    have hrow' : row = rowAddr v f k1 1024 := ha.trans (rowAddr_eq v f k1 1024).symm
    refine ⟨fun hlq hc => ?_, fun hw hfit hc => stw_addrError hi hl hr hw (hk1 ▸ hrow') hfit hc⟩
    rw [hrow', hk1] at hc
    exact ldw_addrError hi hl hr hvd hlq hc

end Sys2Proof.Machine
end

section
/-! PROOFS. Lane instructions of the vector engine (O58, R113, R122, R124 to R126). -/

namespace Sys2Proof.Machine

/-! ### Immediates (R126) -/

/-- The low w bits of a number, read as signed. -/
theorem sext_eq_toInt {w : Nat} (hw : 0 < w) (n : Nat) : sext w n = (BitVec.ofNat w n).toInt := by
  obtain ⟨k, rfl⟩ : ∃ k, w = k + 1 := ⟨w - 1, by omega⟩
  rw [BitVec.toInt_eq_toNat_cond, BitVec.toNat_ofNat]
  unfold sext
  rw [Nat.add_sub_cancel, pow_succ]
  dsimp only
  split <;> split <;> omega

theorem immInt_eq (f : VFields) : immInt f = f.imm.toInt := by
  rw [immInt, sext_eq_toInt (by norm_num), BitVec.ofNat_toNat, BitVec.setWidth_eq]

theorem imm16_eq (f : VFields) : imm16 f = (f.imm.setWidth 16).toInt := by
  rw [imm16, sext_eq_toInt (by norm_num), BitVec.ofNat_toNat]

/-! ### Values of single lanes -/

/-- A bitwise complement, of a number as two's complement has it. -/
theorem toInt_not_eq (x : BitVec 64) : (~~~x).toInt = -x.toInt - 1 := by
  have hlt := x.isLt
  rw [BitVec.toInt_eq_toNat_cond, BitVec.toInt_eq_toNat_cond, BitVec.toNat_not]
  split <;> split <;> omega

/-- A shift right past every bit leaves the sign alone. -/
theorem ediv_two_pow_of_bound {m : Int} (hm : -2 ^ 63 ≤ m ∧ m < 2 ^ 63) {k : Nat} (hk : 63 ≤ k) :
    m / 2 ^ k = if m < 0 then -1 else 0 := by
  have hp : (2 : Int) ^ 63 ≤ 2 ^ k := pow_le_pow_right₀ (by norm_num) hk
  split
  · next h => exact Int.ediv_eq_neg_one_of_neg_of_le h (by omega)
  · next h => exact Int.ediv_eq_zero_of_lt (by omega) (by omega)

/-- Among lanes' mantissas a floor shift by more than 127 places is one by 127. -/
theorem ediv_two_pow_clipped {m : Int} (hm : -2 ^ 63 ≤ m ∧ m < 2 ^ 63) (n : Nat) : m / 2 ^ min n 127 = m / 2 ^ n := by
  rcases Nat.le_total n 127 with h | h
  · rw [min_eq_left h]
  · rw [min_eq_right h, ediv_two_pow_of_bound hm (by norm_num), ediv_two_pow_of_bound hm (by omega)]

/-- RESCF's result: to the floor where the exponent rises, and else exact (R126). -/
def rescfVal (f : VFields) (m : Int) : Int :=
  if 0 < imm16 f then m / ((2 ^ (min (imm16 f).toNat 127) : Nat) : Int) else shiftExact m (imm16 f)

theorem rescfVal_of_pos {f : VFields} {m : Int} (hm : -2 ^ 63 ≤ m ∧ m < 2 ^ 63) {n : Nat} (hn : imm16 f = n + 1) :
    rescfVal f m = m / 2 ^ (n + 1) := by
  unfold rescfVal
  rw [if_pos (by omega), show (imm16 f).toNat = n + 1 by omega]
  push_cast
  exact ediv_two_pow_clipped hm _

theorem rescfVal_of_nonpos {f : VFields} (m g : Int) (hn : imm16 f ≤ 0) : rescfVal f m = alignTo m g (g + imm16 f) := by
  unfold rescfVal alignTo
  rw [if_neg (by omega), add_sub_cancel_left]

/-! ### The lesser or greater of two values (R126) -/

/-- Is y the one to take of x and y, for the greater or the lesser? -/
def Prefers (useMax : Bool) (x y : Int × Int) : Prop := if useMax then ValueLt x y else ValueLt y x

theorem pickVal_spec (useMax : Bool) {x y : Int × Int} (hx : -2 ^ 63 ≤ x.1 ∧ x.1 < 2 ^ 63) (hy : -2 ^ 63 ≤ y.1 ∧ y.1 < 2 ^ 63) :
    (Prefers useMax x y → pickVal useMax x y = y) ∧ (¬ Prefers useMax x y → pickVal useMax x y = x) := by
  obtain ⟨hless, hmore⟩ := cmpExact_sign hy hx y.2 x.2
  have hiff : (if useMax then decide (0 < cmpExact y.1 y.2 x.1 x.2) else decide (cmpExact y.1 y.2 x.1 x.2 < 0)) = true ↔
      Prefers useMax x y := by
    cases useMax
    · exact decide_eq_true_iff.trans hless
    · exact decide_eq_true_iff.trans hmore
  exact ⟨fun h => if_pos (hiff.2 h), fun h => if_neg fun h' => h (hiff.1 h')⟩

/-- The aligned value of the lesser or greater of two is that of the one taken. -/
theorem pickVal_aligned (useMax : Bool) {x y : Int × Int} (hx : -2 ^ 63 ≤ x.1 ∧ x.1 < 2 ^ 63) (hy : -2 ^ 63 ≤ y.1 ∧ y.1 < 2 ^ 63)
    (gd : Int) :
    (Prefers useMax x y → alignTo (pickVal useMax x y).1 (pickVal useMax x y).2 gd = alignTo y.1 y.2 gd) ∧
    (¬ Prefers useMax x y → alignTo (pickVal useMax x y).1 (pickVal useMax x y).2 gd = alignTo x.1 x.2 gd) := by
  obtain ⟨htake, hkeep⟩ := pickVal_spec useMax hx hy
  exact ⟨fun h => by rw [htake h], fun h => by rw [hkeep h]⟩

/-- The greater of two lanes' values is one of them, and neither exceeds it. -/
theorem pickVal_greatest {x y : Int × Int} (hx : -2 ^ 63 ≤ x.1 ∧ x.1 < 2 ^ 63) (hy : -2 ^ 63 ≤ y.1 ∧ y.1 < 2 ^ 63) :
    pickVal true x y ∈ [x, y] ∧ (-2 ^ 63 ≤ (pickVal true x y).1 ∧ (pickVal true x y).1 < 2 ^ 63) ∧
    ¬ ValueLt (pickVal true x y) x ∧ ¬ ValueLt (pickVal true x y) y := by
  have hirrefl (z : Int × Int) : ¬ ValueLt z z := lt_irrefl _
  obtain ⟨htake, hkeep⟩ := pickVal_spec true hx hy
  by_cases h : ValueLt x y
  · have hxy : ¬ ValueLt y x := by
      rw [valueLt_iff] at h ⊢
      exact h.not_gt
    rw [htake h]
    exact ⟨by simp, hy, hxy, hirrefl y⟩
  · rw [hkeep h]
    exact ⟨by simp, hx, hirrefl x, h⟩

/-! ### Instructions as the results that they commit -/

section
variable (v : VEngine)

theorem opSel_eq (f : VFields) :
    let a := regAt v f.va
    let b := regAt v f.vb
    let gd (q : Nat) := max (gAt a q) (gAt b q)
    opSel v f = commit v f.vd (writeMask v f) (fun c =>
      if (maskAt v (immNat f % 8)).getLsbD c then
        (if isSat a c then .sat else .val (alignTo (mant a c) (gAt a (c / 32)) (gd (c / 32))))
      else (if isSat b c then .sat else .val (alignTo (mant b c) (gAt b (c / 32)) (gd (c / 32))))) gd := by
  intro a b gd
  unfold opSel
  refine congrArg (commit v f.vd (writeMask v f) · gd) (funext fun c => ?_)
  by_cases hm : (maskAt v (immNat f % 8)).getLsbD c = true
  · simp only [if_pos hm]
    rfl
  · simp only [if_neg hm]
    rfl

/-- MIN's and MAX's value of a lane. -/
def pickedVal (f : VFields) (useMax : Bool) (c : Nat) : Int :=
  let a := regAt v f.va
  let b := regAt v f.vb
  let p := pickVal useMax (mant a c, gAt a (c / 32)) (mant b c, gAt b (c / 32))
  alignTo p.1 p.2 (max (gAt a (c / 32)) (gAt b (c / 32)))

/-- CLAMP's value of a lane: the greater of a and b, or c where that is less. -/
def clampedVal (f : VFields) (c : Nat) : Int :=
  let a := regAt v f.va
  let b := regAt v f.vb
  let k := regAt v f.vc
  let p := pickVal false (pickVal true (mant a c, gAt a (c / 32)) (mant b c, gAt b (c / 32))) (mant k c, gAt k (c / 32))
  alignTo p.1 p.2 (max (max (gAt a (c / 32)) (gAt b (c / 32))) (gAt k (c / 32)))

theorem opResc_eq (f : VFields) :
    let a := regAt v f.va
    opResc v f = commit v f.vd (writeMask v f) (fun c =>
      if isSat a c then .sat else .val (alignTo (mant a c) (gAt a (c / 32)) (gAt a (c / 32) + imm16 f))) (fun q => gAt a q + imm16 f) := by
  unfold opResc unary alignTo
  simp only [add_sub_cancel_left]

theorem opNot_eq (f : VFields) :
    let a := regAt v f.va
    opNot v f = commit v f.vd (writeMask v f) (fun c => if isSat a c then .sat else .val (~~~(laneAt a c).bits).toInt) (gAt a) := by
  simp only [toInt_not_eq]
  rfl

variable {f : VFields} (hlt : f.imm.toNat < 64)
include hlt

theorem opShli_eq : let a := regAt v f.va
    opShli v f = commit v f.vd (writeMask v f) (fun c => if isSat a c then .sat else .val (mant a c * 2 ^ f.imm.toNat)) (gAt a) := by
  unfold opShli unary immNat
  rw [Nat.mod_eq_of_lt hlt]
  push_cast
  rfl

theorem opShra_eq : let a := regAt v f.va
    opShra v f = commit v f.vd (writeMask v f) (fun c => if isSat a c then .sat else .val (mant a c / 2 ^ f.imm.toNat)) (gAt a) := by
  unfold opShra unary immNat
  rw [Nat.mod_eq_of_lt hlt]
  push_cast
  rfl

theorem opShrl_eq : let a := regAt v f.va
    opShrl v f = commit v f.vd (writeMask v f)
      (fun c => if isSat a c then .sat else .val ((laneAt a c).bits >>> f.imm.toNat).toInt) (gAt a) := by
  unfold opShrl unary mant immNat
  simp only [BitVec.ofInt_toInt, Nat.mod_eq_of_lt hlt]
  rfl

end

/-- Settles O58: each instruction ends in a commit of the results and exponents that R126 gives, and a commit writes them as
R122 and R124 say. -/
theorem laneInstructions : Obligations.LaneInstructions := by
  unfold Obligations.LaneInstructions
  intro s l f hi hl hvd hr v a b k ga gb gk gab one two three Gives bits2 mulAdd
  have gives {c : Instr} {h : Nat → Res} {e : Nat → Int} (op : Nat) {g : VEngine → VFields → VEngine}
      (hx : exec c s = .next (issueLane s l op f g)) (hg : g v f = commit v f.vd (writeMask v f) h e)
      (hop : PlainOp op := by unfold PlainOp; decide) : Gives c h e :=
    issues_commit hi hl hr hvd hx hop hg
  rw [← imm16_eq, ← immInt_eq]
  refine ⟨?_, ?_, ?_, ?_, ?_, ?_, ?_, ?_, ?_, ?_, ?_, fun _ => ?_, ?_, ?_, ?_, ?_, ?_, ?_, ?_, ?_, ?_, ?_, ?_, ?_, ?_, ?_,
    fun hlt => ?_, fun hlt => ?_, fun hlt => ?_⟩
  · -- MOV
    exact gives 0x01 rfl rfl
  · -- LDI
    exact gives 0x02 rfl rfl
  · -- SETG
    exact gives 0x03 rfl rfl
  · -- SCALE
    exact gives 0x04 rfl rfl
  · -- GETG
    exact gives 0x05 rfl rfl
  · -- SEL
    exact gives 0x06 rfl (opSel_eq v f)
  · -- ADD
    exact gives 0x10 rfl rfl
  · -- SUB
    exact gives 0x11 rfl rfl
  · -- NEG
    exact gives 0x12 rfl rfl
  · -- ABS
    exact gives 0x13 rfl rfl
  · -- MUL
    exact gives 0x14 rfl rfl
  · -- MULSH
    exact gives 0x15 rfl rfl
  · -- MADD
    exact gives 0x16 rfl rfl
  · -- MSUB
    exact gives 0x17 rfl rfl
  · -- MIN
    exact ⟨pickedVal v f false, gives 0x18 rfl rfl, fun c => pickVal_aligned false (mant_bound a c) (mant_bound b c) _⟩
  · -- MAX
    exact ⟨pickedVal v f true, gives 0x19 rfl rfl, fun c => pickVal_aligned true (mant_bound a c) (mant_bound b c) _⟩
  · -- CLAMP
    refine ⟨clampedVal v f, gives 0x1A rfl rfl, fun c => ?_⟩
    obtain ⟨hmem, hbound, hna, hnb⟩ := pickVal_greatest (x := (mant a c, ga c)) (y := (mant b c, gb c)) (mant_bound a c) (mant_bound b c)
    exact ⟨_, hmem, hna, hnb, pickVal_aligned false hbound (mant_bound k c) _⟩
  · -- ADDI
    exact gives 0x1B rfl rfl
  · -- MULI
    exact gives 0x1C rfl rfl
  · -- RESC
    exact gives 0x20 rfl (opResc_eq v f)
  · -- RESCF
    exact ⟨fun c => rescfVal f (mant a c), gives 0x21 rfl rfl, fun c =>
      ⟨fun n hn => rescfVal_of_pos (mant_bound a c) hn, rescfVal_of_nonpos _ _⟩⟩
  · -- ALIGN
    exact gives 0x22 rfl rfl
  · -- AND
    exact gives 0x28 rfl rfl
  · -- OR
    exact gives 0x29 rfl rfl
  · -- XOR
    exact gives 0x2A rfl rfl
  · -- NOT
    exact gives 0x2B rfl (opNot_eq v f)
  · -- SHLI
    exact gives 0x2C rfl (opShli_eq v hlt)
  · -- SHRA
    exact gives 0x2D rfl (opShra_eq v hlt)
  · -- SHRL
    exact gives 0x2E rfl (opShrl_eq v hlt)

end Sys2Proof.Machine
end

section
/-! PROOFS. What the start of a binding leaves in the registers (O57, R114). -/

namespace Sys2Proof.Machine

/-- BINDING_START clears none but the registers that the chain carries; the start of each row clears the others (R114). -/
theorem bindingStart_keeps_reg {s t : State} {l k : Nat} {j : BindJob} {rest : List BindJob} (hl : l < s.lanterns.length)
    (hlive : lanternLive s l = true) (hcur : (lanternAt s l).vec.cur = none) (hq : (lanternAt s l).bindQ = j :: rest)
    (hu : j.update = none) (hk : carried j.chain k = false) (ht : exec (.bindingStart l) s = .next t) :
    (lanternAt t l).vec.regs[k]? = (lanternAt s l).vec.regs[k]? := by
  change execBindingStart l s = .next t at ht
  simp only [execBindingStart, findTouched, hq, hlive, hcur, hu, Bool.not_true, Bool.false_eq_true, Option.isSome_none, or_self,
    if_false, Host.Outcome.next.injEq] at ht
  rw [← ht, lanternAt_modLantern_same _ _ _ hl]
  simp only [bindingConstants, hu, Option.bind_none]
  split
  · rfl
  · simp [clearRegs, List.getElem?_zipIdx, hk, Function.comp_def]

/-- A binding that stands alone; its chain neither keeps nor carries registers. -/
def plainJob : BindJob :=
  ⟨⟨0, 2, 1, 0, 0, 0, 0, 0, 0, 128, List.replicate 8 0, List.replicate 8 0, true⟩, ⟨[], [], [], 0, false⟩, 0, 0, 0, none, 1, none, none,
    false, none⟩

/-- Lantern 0 with that binding waiting; an earlier one has left an exponent of 1 in v0. -/
def usedRegister : State :=
  modLantern State.reset 0 (fun x => { x with
    phys := some 0
    bindQ := [plainJob]
    vec := modReg x.vec 0 (fun r => { r with g := [1, 0, 0, 0] }) })

theorem usedRegister_inv : usedRegister.Inv :=
  inv_modLantern (fun _ hx => ⟨ok_modReg (fun _ hr => ⟨hr.1, rfl⟩) hx.1, hx.2⟩) resetMeetsTheInvariant

/-- Refutes O57: at the start of a binding without KEEP the statement asks for zero in the registers that its chain does not carry,
and those are the ones that the start leaves as they are. -/
theorem not_bindings : ¬ Obligations.Bindings := by
  intro h
  obtain ⟨hstart, -⟩ := h usedRegister 0 usedRegister_inv (by decide)
  have hlive : lanternLive usedRegister 0 = true := rfl
  obtain ⟨t, ht, -, -, -, -, -, -, -, -, hzero, -⟩ := hstart plainJob [] hlive rfl rfl rfl
  have asked : (lanternAt t 0).vec.regs[0]? = some VReg.zero := hzero rfl 0 (by decide) rfl
  have kept : (lanternAt t 0).vec.regs[0]? = (lanternAt usedRegister 0).vec.regs[0]? :=
    bindingStart_keeps_reg (by rw [usedRegister_inv.1.1.1]; norm_num) hlive rfl rfl rfl rfl ht
  rw [kept] at asked
  exact absurd asked (by decide)

end Sys2Proof.Machine
end

section
/-! PROOFS. Upkeep of flash: credit, failing blocks, retention scans (O43, R145, R147, R148). -/

namespace Sys2Proof.Machine

section FlashUpkeep

variable {s : State}

theorem execSnapshotCreditGrow_eq (hk : s.boot.keeperUp = true) : exec .snapshotCreditGrow s = .next { s with flash := { s.flash with
    credit := min (s.flash.credit + 8 * 2 ^ 40) (64 * 2 ^ 40)
    grownAt := nowNs s } } := by
  show execSnapshotCreditGrow s = _
  simp [execSnapshotCreditGrow, hk, modFlash]

/-! ### A flash operation that is over (R145) -/

theorem execFlashProgramOrEraseDone_ok (op : FlashOp) : exec (.flashProgramOrEraseDone op true) s = .next s := rfl

theorem execFlashProgramOrEraseDone_uncovered (op : FlashOp) (hk : s.boot.keeperUp = true) (hs : s.flash.spare < Config.flashBlock) :
    exec (.flashProgramOrEraseDone op false) s = .next { s with flash := { s.flash with
      readOnly := true
      retiredBlocks := s.flash.retiredBlocks + 1 } } := by
  show execFlashProgramOrEraseDone op false s = _
  simp [execFlashProgramOrEraseDone, hk, hs, flashRetires, modFlash]

/-- The state with a failed block retired and covered from the spare pool. -/
def blockCovered (s : State) : State :=
  modFlash (flashRetires s) (fun f => { f with spare := s.flash.spare - Config.flashBlock })

theorem sameUnits_modFlash (f : Flash → Flash) : SameUnits s (modFlash s f) := ⟨rfl, rfl, rfl, rfl, rfl, rfl, rfl, rfl⟩

theorem blockCovered_units : SameUnits s (blockCovered s) := (sameUnits_modFlash _).trans (sameUnits_modFlash _)

theorem execFlashProgramOrEraseDone_covered (op : FlashOp) (hk : s.boot.keeperUp = true) (hs : Config.flashBlock ≤ s.flash.spare) :
    ∃ detail, exec (.flashProgramOrEraseDone op false) s = .next (
      if s.flash.spare - Config.flashBlock < 64 * 2 ^ 30 ∧ s.flash.degraded = false then
        raiseEventP (modFlash (blockCovered s) (fun f => { f with degraded := true })) evFlash 0 detail
      else blockCovered s) := by
  refine ⟨match op with
    | .program => 0
    | .erase => 1, ?_⟩
  show execFlashProgramOrEraseDone op false s = _
  simp only [execFlashProgramOrEraseDone, hk, Nat.not_lt.2 hs, Bool.false_eq_true, Bool.not_true, or_self, if_false, Bool.not_eq_true']
    <;> rfl

theorem blockCovered_outcome (op : FlashOp) (hk : s.boot.keeperUp = true) (hs : Config.flashBlock ≤ s.flash.spare) :
    ∃ t, exec (.flashProgramOrEraseDone op false) s = .next t ∧ t.flash.spare = s.flash.spare - Config.flashBlock ∧
      t.flash.retiredBlocks = s.flash.retiredBlocks + 1 ∧ t.flash.readOnly = s.flash.readOnly ∧ t.flash.objs = s.flash.objs ∧
      SameUnits s t ∧ t.flash.degraded = (s.flash.degraded || decide (s.flash.spare - Config.flashBlock < 64 * 2 ^ 30)) := by
  obtain ⟨detail, runs⟩ := execFlashProgramOrEraseDone_covered op hk hs
  refine ⟨_, runs, ?_⟩
  split
  next h =>
    obtain ⟨e, -, -, -, -, ⟨es, -, grown⟩, -⟩ :=
      raiseEvent_outward (s := modFlash (blockCovered s) (fun f => { f with degraded := true })) evFlash none 0 detail
    have degraded : (s.flash.degraded || decide (s.flash.spare - Config.flashBlock < 64 * 2 ^ 30)) = true := by
      rw [decide_eq_true h.1, Bool.or_true]
    have units := (blockCovered_units (s := s)).trans ((sameUnits_modFlash (fun f => { f with degraded := true })).trans
      (raiseEventP_units evFlash 0 detail))
    rw [raiseEventP, grown, degraded]
    exact ⟨rfl, rfl, rfl, rfl, units, rfl⟩
  next h =>
    have stays : (s.flash.degraded || decide (s.flash.spare - Config.flashBlock < 64 * 2 ^ 30)) = s.flash.degraded := by
      cases hd : s.flash.degraded
      · simpa [hd] using h
      · rfl
    rw [stays]
    exact ⟨rfl, rfl, rfl, rfl, blockCovered_units, rfl⟩

/-! ### The weekly scan (R148) -/

theorem execRetentionScan_item (x : ScanItem) (hk : s.boot.keeperUp = true) :
    exec (.retentionScan ⟨[x], [], false⟩) s = .next (scanItem s x) := by
  show execRetentionScan _ s = _
  simp [execRetentionScan, hk]

theorem execRetentionScan_die (die n : Nat) (hk : s.boot.keeperUp = true) :
    exec (.retentionScan ⟨[], [(die, n)], false⟩) s = .next (bumpEcc s (.flash die) 0 n) := by
  show execRetentionScan _ s = _
  simp [execRetentionScan, hk]

theorem execRetentionScan_whole (hk : s.boot.keeperUp = true) (hu : s.flash.unread = true) :
    exec (.retentionScan ⟨[], [], true⟩) s = .next { s with flash := { s.flash with unread := false } } := by
  show execRetentionScan _ s = _
  simp [execRetentionScan, hk, hu, modFlash]

variable {x : ScanItem} {o : FlashObj}

theorem scanItem_kept (ho : flashObj s x.name = some o) (hl : x.lost = false) : scanItem s x = { s with flash := { s.flash with
    rewrites := s.flash.rewrites + (if x.weak then 1 else 0)
    written := s.flash.written + (if x.weak then Config.flashBlock else 0) } } := by
  cases hw : x.weak <;> simp [scanItem, ho, hl, hw, modFlash]

theorem scanItem_lost (ho : flashObj s x.name = some o) (hl : x.lost = true) (hn : o.lost = false) :
    ∃ e : Event, SameUnits s (scanItem s x) ∧ e.code = evObjectLost ∧
      (∃ es, (∀ d ∈ es, d.code = 0x0050) ∧ (scanItem s x).flash.log = s.flash.log ++ e :: es) ∧
      (scanItem s x).flash.objs = s.flash.objs.map (fun q => if q.name = x.name then { q with lost := true } else q) := by
  unfold scanItem
  simp only [ho, hl, hn, Bool.not_false, and_self, if_true]
  obtain ⟨e, code, -, -, units, ⟨es, lost, grown⟩, -⟩ := raiseEventMore_outward (s := modFlash
    (if x.weak = true then modFlash s (fun f => { f with rewrites := f.rewrites + 1, written := f.written + Config.flashBlock }) else s)
    (fun f => { f with objs := f.objs.map (fun q => if q.name = x.name then { q with lost := true } else q) })) evObjectLost (objMooring o) 0
    (x.name.toNat % 2 ^ 32) [x.name.toNat]
  refine ⟨e, SameUnits.trans ?_ units, code, ⟨es, lost, ?_⟩, ?_⟩
  · split <;> exact ⟨rfl, rfl, rfl, rfl, rfl, rfl, rfl, rfl⟩
  · rw [grown]
    split <;> simp [logged]
  · rw [grown]
    split <;> rfl

theorem userWriteErr_unread (name : BitVec 256) (f len : Nat) (hr : s.flash.readOnly = false) (hu : s.flash.unread = true) :
    userWriteErr s name f len = some (stBusy, 0) := by
  simp [userWriteErr, hr, hu]

end FlashUpkeep

/-- Settles O43, part by part. -/
theorem flashUpkeep : Obligations.FlashUpkeep := by
  refine ⟨fun s hk => execSnapshotCreditGrow_eq hk, fun s op => execFlashProgramOrEraseDone_ok op,
    fun s op hk hs => blockCovered_outcome op hk hs, fun s op hk hs => execFlashProgramOrEraseDone_uncovered op hk hs,
    fun s x o hk ho hl => ?kept, fun s x o hk ho hl hn => ?lost, fun s die n hk => execRetentionScan_die die n hk,
    fun s name f len hk hu => ⟨fun hr => userWriteErr_unread name f len hr hu, execRetentionScan_whole hk hu⟩⟩
  case kept => rw [execRetentionScan_item x hk, scanItem_kept ho hl]
  case lost =>
    obtain ⟨e, h⟩ := scanItem_lost ho hl hn
    exact ⟨scanItem s x, e, execRetentionScan_item x hk, h⟩

end Sys2Proof.Machine
end

section
/-! PROOFS. EVENT_LOG_READ into a host window (O27, R144, R380, R387). -/

namespace Sys2Proof.Machine

section EventLogRead

variable {s w : State} {m : Mbox} {r : Request} {first last : Nat}

/-- Records first to last of the log's ring, as the command writes them. -/
def logRecords (s : State) (first last : Nat) : List Byte :=
  (((logRing s.flash.log).drop first).take (last + 1 - first)).flatMap (fun e => natLE 32 (eventNat e.node e))

/-- Bytes written at an address for a function where they can be; else nothing changes. -/
def writtenAt (f addr : Nat) (bs : List Byte) (s : State) : State :=
  match keeperWrite s f addr bs with
  | .ok t => t
  | .error _ => s

theorem writtenAt_ok {f addr : Nat} {bs : List Byte} (h : keeperWrite s f addr bs = .ok w) : writtenAt f addr bs s = w := by
  rw [writtenAt, h]

theorem execEventLogRead_asked (ha : Asked s m 0x0071 r) (hf : first ≤ last) (hl : last < (logRing s.flash.log).length)
    (ho : 32 * (last + 1 - first) ≤ r.outlen) (hw : keeperWrite s m.func r.out (logRecords s first last) = .ok w) :
    exec (.eventLogRead m first last) s = .next (longAtOnce s m r stSuccess 0 (last + 1 - first)
      (writtenAt m.func r.out (logRecords s first last))) := by
  show execEventLogRead m first last s = _
  rw [execEventLogRead, next_asked ha]
  unfold logRecords at hw
  simp only [Nat.not_lt.2 hf, Nat.not_le.2 hl, Nat.not_lt.2 ho, or_self, if_false, hw]
  rfl

/-- Bytes for a host window reach host memory just as well once the command has been accepted. -/
theorem writtenAt_accepted {bs : List Byte} (hw : keeperWrite s m.func r.out bs = .ok w) (hh : 7 * 2 ^ 61 ≤ r.out) :
    writtenAt m.func r.out bs (acceptLong s m r .forwarded) = { acceptLong s m r .forwarded with host := w.host } := by
  obtain ⟨-, -, -, -, -, -, -, -, -, -, boot, -⟩ := acceptLong_sameWork (s := s) (m := m) (r := r) .forwarded
  refine writtenAt_ok (keeperWrite_host_congr hh ?_ boot (acceptLong_bme .forwarded) (acceptLong_host .forwarded) hw)
  rw [acceptLong_keeper]

end EventLogRead

/-- Settles O27: the command is accepted, its bytes reach the window, its record is reported. -/
theorem eventLogRead : Obligations.EventLogRead := by
  intro m r s w first last hm hi ha hf hl ho bs hw hh
  have free : tagFree s m.func r.tag = true := tagFree_of_asked ha rfl rfl
  have effect := writtenAt_accepted hw hh
  obtain ⟨mem, -, lanterns, sysChans, towers, moorings, shore, -, time, power, boot, flash⟩ :=
    acceptLong_sameWork (s := s) (m := m) (r := r) .forwarded
  obtain ⟨answered, reported, -⟩ := longAtOnce_all (status := stSuccess) (flags := 0) (detail := last + 1 - first)
    (effect := writtenAt m.func r.out bs) hi hm free (by rw [effect]) (by rw [effect]; rfl)
  refine ⟨_, _, execEventLogRead_asked ha hf hl ho hw, reported, answered, ?_⟩
  rw [effect]
  exact ⟨rfl, mem, dropOp_keeper .forwarded free (acceptLong_keeper .forwarded),
    ⟨power, boot, moorings, lanterns, towers, sysChans, time, shore⟩, flash, acceptLong_queueAt .forwarded⟩

end Sys2Proof.Machine
end

section
/-! PROOFS. The kinds of schedule entries (O54, R154, R163, R220, R290): one equation for each entry that issues, waits or holds. -/

namespace Sys2Proof.Machine

section Issue

variable {s : State} {l : Nat} {m : Mooring} {b : Bundle} {e : SchedEntry}

/-- The entry that a lantern would issue is acted on by the command of its kind. -/
theorem issueEntry_head {kind : Nat} (hh : headEntry s l = some e) (hj : lanternJob s l = some (m, b)) (hk : e.kind = kind)
    (act : State → Mooring → Bundle → SchedEntry → State) : issueEntry s l kind act = act s m b e := by
  rw [issueEntry, hh, hj]
  exact if_pos hk

theorem nextEntry_modLantern (s : State) (l : Nat) (f : Lantern → Lantern) :
    nextEntry (modLantern s l f) l = modLantern s l (fun x => { f x with pc := (f x).pc + 1 }) := by
  simp [nextEntry, modLantern, List.modify_modify_eq, Function.comp_def]

variable (hh : headEntry s l = some e) (hj : lanternJob s l = some (m, b))
include hh hj

theorem execSchedEnd_issues (hk : e.kind = 0) :
    exec (.schedEnd l) s = .next (modLantern s l (fun x => { x with endIssued := true, pc := x.pc + 1 })) := by
  show execSchedEnd l s = _
  rw [execSchedEnd, issueEntry_head hh hj hk, nextEntry_modLantern]

/-! ### LENS -/

theorem execLens_issues {d : LensDesc} (hk : e.kind = 1) (hd : b.p.lens[e.arg]? = some d) (hn : lensInHand (lanternAt s l) < 8) :
    exec (.lens l) s = .next (nextEntry (issueLens s l { d with slot := e.slot, validM := if e.phantom then 0 else d.validM }
      (lanternAt s l).pc e.phase) l) := by
  show execLens l s = _
  rw [execLens, issueEntry_head hh hj hk]
  simp only [hd, Nat.not_le.2 hn, if_false]

theorem execLens_full (hk : e.kind = 1) (hn : 8 ≤ lensInHand (lanternAt s l)) : exec (.lens l) s = .next s := by
  show execLens l s = _
  rw [execLens, issueEntry_head hh hj hk]
  cases b.p.lens[e.arg]? <;> simp [hn]

/-! ### CHAIN, DMA, COLL -/

theorem execChain_issues {bd : Binding} (hk : e.kind = 2) (hd : b.p.bindings[e.arg]? = some bd) (hn : (lanternAt s l).bindQ.length < 4) :
    exec (.chain l) s = .next (modLantern s l (fun x => { x with
      bindQ := x.bindQ ++ [chainJob s l m b.p e bd]
      pc := x.pc + 1 })) := by
  show execChain l s = _
  rw [execChain, issueEntry_head hh hj hk]
  simp only [hd, Nat.not_le.2 hn, if_false, nextEntry_modLantern]

theorem execChain_full (hk : e.kind = 2) (hn : 4 ≤ (lanternAt s l).bindQ.length) : exec (.chain l) s = .next s := by
  show execChain l s = _
  rw [execChain, issueEntry_head hh hj hk]
  cases b.p.bindings[e.arg]? <;> simp [hn]

theorem execDma_issues {ds : List DmaDesc} (hk : e.kind = 3) (hd : b.p.dma[e.arg]? = some ds)
    (hn : (chanAt s (.lantern l e.chan)).queue.length < 2) :
    exec (.dma l) s = .next (modLantern (modChan s (.lantern l e.chan) (fun x => { x with
      queue := x.queue ++ [⟨ds.map (resolveDma m l), e.arg, e.slot, false⟩] })) l (fun x => { x with pc := x.pc + 1 })) := by
  show execDma l s = _
  rw [execDma, issueEntry_head hh hj hk]
  simp only [hd, Nat.not_le.2 hn, if_false, nextEntry]

theorem execDma_full (hk : e.kind = 3) (hn : 2 ≤ (chanAt s (.lantern l e.chan)).queue.length) : exec (.dma l) s = .next s := by
  show execDma l s = _
  rw [execDma, issueEntry_head hh hj hk]
  cases b.p.dma[e.arg]? <;> simp [hn]

theorem execColl_issues {d : CollDesc} (hk : e.kind = 5) (hd : b.p.colls[e.arg]? = some d) (hn : (lanternAt s l).coll.length < 4) :
    ∃ (c : CollInst) (key k : Nat), exec (.coll l) s = .next (modLantern s l (fun y => { y with
        coll := y.coll ++ [c]
        collCnt := tput 0 y.collCnt key (k + 1)
        pc := y.pc + 1 })) ∧
      c.index = e.arg ∧ c.desc = resolveColl m l d ∧ c.started = false ∧ c.results = [] := by
  have runs : exec (.coll l) s = .next (issueEntry s l 5 _) := rfl
  rw [runs, issueEntry_head hh hj hk]
  simp only [hd, Nat.not_le.2 hn, if_false, nextEntry_modLantern]
  exact ⟨_, _, _, rfl, rfl, rfl, rfl, rfl⟩

theorem execColl_full (hk : e.kind = 5) (hn : 4 ≤ (lanternAt s l).coll.length) : exec (.coll l) s = .next s := by
  show execColl l s = _
  rw [execColl, issueEntry_head hh hj hk]
  cases b.p.colls[e.arg]? <;> simp [hn]

/-! ### WAIT and HOLD -/

theorem execWait_passes (hk : e.kind = 4) (hv : e.arg ≤ (lanternAt s l).events.getD e.chan 0) :
    exec (.wait l) s = .next (modLantern s l (fun x => { x with pc := x.pc + 1 })) := by
  show execWait l s = _
  rw [execWait, issueEntry_head hh hj hk]
  simp only [eventAt, hv, if_true, nextEntry]

theorem execWait_waits (hk : e.kind = 4) (hv : (lanternAt s l).events.getD e.chan 0 < e.arg) :
    exec (.wait l) s = .next (modLantern s l (fun x => { x with waiting := true })) := by
  show execWait l s = _
  rw [execWait, issueEntry_head hh hj hk]
  simp only [eventAt, Nat.not_le.2 hv, if_false]

theorem execHold_passes (hk : e.kind = 6) (hv : m.holdOpen = true ∨ m.desc.kind = 1) :
    exec (.hold l) s = .next (modLantern s l (fun x => { x with pc := x.pc + 1 })) := by
  show execHold l s = _
  rw [execHold, issueEntry_head hh hj hk]
  simp only [hv, if_true, nextEntry]

theorem execHold_holds (hk : e.kind = 6) (hv : m.holdOpen = false) (hm : m.desc.kind ≠ 1) :
    exec (.hold l) s = .next (modLantern s l (fun x => { x with holding := true })) := by
  show execHold l s = _
  rw [execHold, issueEntry_head hh hj hk]
  simp only [hv, hm, Bool.false_eq_true, or_self, if_false]

/-! ### UPDATE -/

theorem execUpdate_holds (hk : e.kind = 7) (hv : m.announced = false) :
    exec (.update l) s = .next (modLantern s l (fun x => { x with updHold := true })) := by
  show execUpdate l s = _
  rw [execUpdate, issueEntry_head hh hj hk]
  simp only [hv, Bool.not_false, if_true]

theorem execUpdate_full (hk : e.kind = 7) (hv : m.announced = true)
    (hn : 4 < (lanternAt s l).bindQ.length + (updJobs s l (lanternAt s l).pc e.slot m b e.arg e.phantom).length) :
    exec (.update l) s = .next s := by
  show execUpdate l s = _
  rw [execUpdate, issueEntry_head hh hj hk]
  simp only [hv, hn, Bool.not_true, Bool.false_eq_true, if_false, if_true]

theorem execUpdate_issues (hk : e.kind = 7) (hv : m.announced = true)
    (hn : (lanternAt s l).bindQ.length + (updJobs s l (lanternAt s l).pc e.slot m b e.arg e.phantom).length ≤ 4) :
    exec (.update l) s = .next (modLantern ((updShards (updDescAt b e.arg)).foldl (fun s t => checkHeaderStep s m.desc.id t) s) l
      (fun x => { x with
        bindQ := x.bindQ ++ updJobs s l (lanternAt s l).pc e.slot m b e.arg e.phantom
        pc := x.pc + 1 })) := by
  show execUpdate l s = _
  rw [execUpdate, issueEntry_head hh hj hk]
  simp only [hv, Nat.not_lt.2 hn, Bool.not_true, Bool.false_eq_true, if_false, nextEntry_modLantern]

end Issue

/-! ### What a lantern's entries leave -/

section Leaves

variable {s : State} {l : Nat} {m : Mooring} {b : Bundle} {e : SchedEntry}

theorem otherLanterns_modLantern (s : State) (l : Nat) (f : Lantern → Lantern) : OtherLanterns s (modLantern s l f) l :=
  fun _ hk => lanternAt_modLantern_other _ _ hk

theorem OtherLanterns.units {t u : State} (h : OtherLanterns s t l) (hu : SameUnits t u) : OtherLanterns s u l :=
  fun k hk => (lanternAt_of_units hu k).trans (h k hk)

theorem raiseEventMore_if_units (c : Prop) [Decidable c] (code : Nat) (mooring : Option Nat) (unit detail : Nat) (more : List Nat) :
    SameUnits s (if c then raiseEventMore s code mooring unit detail more else s) := by
  split
  · exact raiseEventMore_units ..
  · exact SameUnits.refl s

/-- Of the units, comparing the header of a shard with the last committed step changes moorings at most. -/
structure MooringsOnly (s t : State) : Prop where
  lanterns : t.lanterns = s.lanterns
  boot : t.boot = s.boot
  power : t.power = s.power
  time : t.time = s.time

theorem MooringsOnly.modMooring {t : State} {id : Nat} {f : Mooring → Mooring} (h : SameUnits s t) :
    MooringsOnly s (modMooring t id f) := by
  obtain ⟨power, boot, -, lanterns, -, -, time, -⟩ := h
  exact ⟨lanterns, boot, power, time⟩

theorem checkHeaderStep_moorings (s : State) (id tensor : Nat) : MooringsOnly s (checkHeaderStep s id tensor) := by
  unfold checkHeaderStep
  split
  · exact ⟨rfl, rfl, rfl, rfl⟩
  · split
    · exact ⟨rfl, rfl, rfl, rfl⟩
    · split
      · exact ⟨rfl, rfl, rfl, rfl⟩
      · exact .modMooring (raiseEventMore_if_units ..)

theorem checkHeaderSteps_moorings (id : Nat) (ts : List Nat) (s : State) :
    MooringsOnly s (ts.foldl (fun s t => checkHeaderStep s id t) s) :=
  List.foldlRecOn (motive := MooringsOnly s) ts _ ⟨rfl, rfl, rfl, rfl⟩ fun u h t _ =>
    have k := checkHeaderStep_moorings u id t
    ⟨k.lanterns.trans h.lanterns, k.boot.trans h.boot, k.power.trans h.power, k.time.trans h.time⟩

/-! ### A lens descriptor in the queue (R57, R58) -/

/-- A lantern with a descriptor more in its lens queue, marked where a check fails. -/
def joinLensQ (ok : Bool) (d : LensDesc) (order phase : Nat) (x : Lantern) : Lantern :=
  { x with
    filling := x.filling && !(ok && decide (d.opcode = 1))
    lensQ := x.lensQ ++ [⟨d, order, phase, false, false, false, false, 0, !ok, false, x.lensStep, 0⟩] }

theorem issueLens_sound {d : LensDesc} (order phase : Nat) (hok : issueChecks (lanternAt s l) d = true) :
    issueLens s l d order phase = modLantern s l (joinLensQ true d order phase) := by
  unfold issueLens
  simp only [hok, if_true]
  rfl

theorem issueLens_unsound {d : LensDesc} (order phase : Nat) (hok : issueChecks (lanternAt s l) d = false) :
    issueLens s l d order phase = lanternEvent (setFault (startTest (modLantern s l (joinLensQ false d order phase))
      (.storeBank l (Config.descriptorBank l d.slot).toNat)) l) evLensDescriptor l l d.slot [d.slot, d.tensor] := by
  unfold issueLens
  simp only [hok, Bool.false_eq_true, if_false]
  rfl

theorem Outward.tests {t : State} (h : Outward s t) : t.keeper.tests = s.keeper.tests := by
  have books := congrArg Keeper.tests h.2.2.1
  exact books

theorem startTest_leaves (u : State) (p : Part) : p ∈ (startTest u p).keeper.tests ∧ (startTest u p).lanterns = u.lanterns ∧
    (startTest u p).moorings = u.moorings ∧ (startTest u p).flash = u.flash := by
  obtain ⟨begun, rest, -⟩ := startTest_begun u p
  refine ⟨begun, ?_⟩
  rw [rest]
  exact ⟨rfl, rfl, rfl⟩

/-- What the lantern that issues a descriptor holds afterwards. -/
theorem lanternAt_issueLens (hl : l < s.lanterns.length) (d : LensDesc) (order phase : Nat) :
    ∃ fault, (issueChecks (lanternAt s l) d = true → fault = (lanternAt s l).fault) ∧ (issueChecks (lanternAt s l) d = false → fault = true) ∧
      lanternAt (issueLens s l d order phase) l =
        { joinLensQ (issueChecks (lanternAt s l) d) d order phase (lanternAt s l) with fault := fault } := by
  cases hok : issueChecks (lanternAt s l) d
  case true =>
    refine ⟨(lanternAt s l).fault, fun _ => rfl, nofun, ?_⟩
    rw [issueLens_sound _ _ hok, lanternAt_modLantern_same _ _ _ hl]
    rfl
  case false =>
    refine ⟨true, nofun, fun _ => rfl, ?_⟩
    obtain ⟨-, lanterns, -⟩ := startTest_leaves (modLantern s l (joinLensQ false d order phase))
      (.storeBank l (Config.descriptorBank l d.slot).toNat)
    rw [issueLens_unsound _ _ hok, lanternAt_lanternEvent, setFault, lanternAt_modLantern_same _ _ _ (by simpa [lanterns] using hl)]
    rw [lanternAt_of_lanterns lanterns, lanternAt_modLantern_same _ _ _ hl]

/-- What issuing a descriptor leaves, and what one that fails a check reports. -/
theorem issueLens_leaves (d : LensDesc) (order phase : Nat) :
    let t := issueLens s l d order phase
    OtherLanterns s t l ∧ t.moorings = s.moorings ∧ (issueChecks (lanternAt s l) d = true → t.flash = s.flash) ∧
      (issueChecks (lanternAt s l) d = false → ∃ v : Event, v.code = evLensDescriptor ∧ v.unit = l ∧
        LogGrows (logged s v).flash t.flash ∧ ∃ k, .storeBank l k ∈ t.keeper.tests) := by
  intro t
  cases hok : issueChecks (lanternAt s l) d
  case true =>
    have ht : t = _ := issueLens_sound order phase hok
    rw [ht]
    exact ⟨otherLanterns_modLantern _ _ _, rfl, fun _ => rfl, nofun⟩
  case false =>
    have ht : t = _ := issueLens_unsound order phase hok
    rw [ht]
    generalize hp : Part.storeBank l (Config.descriptorBank l d.slot).toNat = p
    obtain ⟨begun, lanterns, moorings, flash⟩ := startTest_leaves (modLantern s l (joinLensQ false d order phase)) p
    generalize startTest (modLantern s l (joinLensQ false d order phase)) p = u at begun lanterns moorings flash ⊢
    obtain ⟨v, code, unit, -, announced⟩ := raiseEventIn_outward (s := setFault u l) (.lantern l) evLensDescriptor
      (lanternMooring (setFault u l) l) l d.slot [d.slot, d.tensor]
    refine ⟨?_, ?_, nofun, fun _ => ⟨v, code, unit, ?_, (Config.descriptorBank l d.slot).toNat, ?_⟩⟩
    · intro k hk
      rw [lanternAt_lanternEvent, setFault, lanternAt_modLantern_other _ _ hk, lanternAt_of_lanterns lanterns,
        lanternAt_modLantern_other _ _ hk]
    · exact announced.1.2.2.1.trans moorings
    · have same : (logged (setFault u l) v).flash = (logged s v).flash := by simp [logged, setFault, flash]
      rw [← same]
      exact announced.2.1
    · rw [hp, lanternEvent, announced.tests]
      exact begun

/-! ### WAIT_SATISFIED and END_RETIRE -/

theorem execWaitSatisfied_goesOn (he : (lanternAt s l).sched[(lanternAt s l).pc]? = some e) (hk : e.kind = 4)
    (hv : lanternLive s l = true) (hw : (lanternAt s l).waiting = true) (hc : e.arg ≤ (lanternAt s l).events.getD e.chan 0) :
    exec (.waitSatisfied l) s = .next (modLantern s l (fun x => { x with waiting := false, pc := x.pc + 1 })) := by
  show execWaitSatisfied l s = _
  simp only [execWaitSatisfied, he, hk, hv, hw, eventAt, hc, and_self, if_true, nextEntry_modLantern]

theorem execWaitSatisfied_waits (he : (lanternAt s l).sched[(lanternAt s l).pc]? = some e)
    (hc : (lanternAt s l).events.getD e.chan 0 < e.arg) : exec (.waitSatisfied l) s = .next s := by
  show execWaitSatisfied l s = _
  simp only [execWaitSatisfied, he, eventAt, Nat.not_le.2 hc, and_false, if_false]

/-- END has issued on a lantern that works and has not retired. -/
structure EndIssued (s : State) (l : Nat) : Prop where
  live : lanternLive s l = true
  issued : (lanternAt s l).endIssued = true
  stands : (lanternAt s l).endRetired = false

theorem execEndRetire_waits (hd : workDone (lanternAt s l) = false) : exec (.endRetire l) s = .next s := by
  show execEndRetire l s = _
  simp [execEndRetire, hd]

theorem EndIssued.retires (h : EndIssued s l) (hd : workDone (lanternAt s l) = true)
    (hj : ∀ m b, lanternJob s l = some (m, b) → (turnsOf m.place l).length ≤ (lanternAt s l).turn + 1) :
    exec (.endRetire l) s = .next (modLantern s l (fun x => { x with endRetired := true, running := false })) := by
  show execEndRetire l s = _
  simp only [execEndRetire, h.live, h.issued, h.stands, hd, Bool.not_false, Bool.and_self, if_true]
  cases hn : lanternJob s l with
  | none => rfl
  | some q => simp only [Nat.not_lt.2 (hj q.1 q.2 hn), if_false]

theorem EndIssued.turns (h : EndIssued s l) (hd : workDone (lanternAt s l) = true) (hj : lanternJob s l = some (m, b))
    (ht : (lanternAt s l).turn + 1 < (turnsOf m.place l).length) :
    exec (.endRetire l) s = .next (modLantern s l (nextTurn b.p m l)) := by
  show execEndRetire l s = _
  simp only [execEndRetire, h.live, h.issued, h.stands, hd, hj, ht, Bool.not_false, Bool.and_self, if_true]

end Leaves

/-- Settles O54, kind by kind. -/
theorem scheduleEntries : Obligations.ScheduleEntries := by
  refine ⟨fun s l m b e hi hl192 hh hj => ?entries, fun s l e he hk hv hw => ?satisfied, fun s l hv hi hr => ?ends⟩
  case satisfied => exact ⟨execWaitSatisfied_goesOn he hk hv hw, execWaitSatisfied_waits he⟩
  case ends =>
    have h : EndIssued s l := ⟨hv, hi, hr⟩
    refine ⟨fun m b hd hj => ⟨fun ht => h.turns hd hj ht, fun ht => h.retires hd ?_⟩, fun hd hj => h.retires hd ?_, execEndRetire_waits⟩
    · intro m' b' hj'
      rw [hj] at hj'
      cases hj'
      exact ht
    · intro m b hj'
      rw [hj] at hj'
      cases hj'
  case entries =>
    have hl : l < s.lanterns.length := by rw [hi.1.1.1]; exact hl192
    refine ⟨execSchedEnd_issues hh hj, fun d hk hd hn => ?lens, execLens_full hh hj, fun bd => execChain_issues hh hj,
      execChain_full hh hj, fun ds => execDma_issues hh hj, execDma_full hh hj, execWait_passes hh hj, execWait_waits hh hj,
      fun d hk hd hn => ?coll, execColl_full hh hj, execHold_passes hh hj, execHold_holds hh hj, execUpdate_holds hh hj,
      fun hk hv => ⟨fun hn => ?update, execUpdate_full hh hj hk hv⟩⟩
    case lens =>
      intro d1 ok
      obtain ⟨fault, sound, unsound, own⟩ := lanternAt_issueLens hl d1 (lanternAt s l).pc e.phase
      obtain ⟨others, moorings, flash, reports⟩ := issueLens_leaves (s := s) (l := l) d1 (lanternAt s l).pc e.phase
      have hl' : l < (issueLens s l d1 (lanternAt s l).pc e.phase).lanterns.length := by
        rw [(inv_issueLens hi).1.1.1]
        exact hl192
      have own' : lanternAt (nextEntry (issueLens s l d1 (lanternAt s l).pc e.phase) l) l = _ :=
        (lanternAt_modLantern_same _ _ _ hl').trans (congrArg (fun x : Lantern => { x with pc := x.pc + 1 }) own)
      refine ⟨_, execLens_issues hh hj hk hd hn, fun k hkl => (lanternAt_modLantern_other _ _ hkl).trans (others k hkl), moorings,
        ?_, ?_, fun hok => ⟨?_, flash hok⟩, fun hok => ⟨?_, reports hok⟩⟩
      · rw [own']
        rfl
      · rw [own']
        rfl
      · rw [own']
        exact sound hok
      · rw [own']
        exact unsound hok
    case coll =>
      obtain ⟨c, key, k, runs, index, desc, started, results⟩ := execColl_issues hh hj hk hd hn
      refine ⟨_, c, runs, ?_, index, desc, started, results, otherLanterns_modLantern _ _ _,
        ⟨rfl, rfl, rfl, rfl, rfl, rfl, rfl, rfl, rfl, rfl, rfl, rfl, rfl, rfl, rfl⟩, rfl⟩
      rw [lanternAt_modLantern_same _ _ _ hl]
    case update =>
      have books := checkHeaderSteps_moorings m.desc.id (updShards (updDescAt b e.arg)) s
      refine ⟨_, execUpdate_issues hh hj hk hv hn, ?_, fun k hkl => ?_, books.boot, books.power, books.time⟩
      · rw [lanternAt_modLantern_same _ _ _ (by rw [books.lanterns]; exact hl), lanternAt_of_lanterns books.lanterns]
      · rw [lanternAt_modLantern_other _ _ hkl, lanternAt_of_lanterns books.lanterns]

end Sys2Proof.Machine
end

section
/-! PROOFS. The start of a step (O53, R163, R199, R220). -/

namespace Sys2Proof.Machine

section StepStart

variable {s : State} {id : Nat} {x : Mooring} {b : Bundle}

/-! ### The mooring's books -/

/-- Mooring y is x with the step that x stands at begun: in hand, its flags clear, its hold lines open just where no verdict is
awaited. -/
structure StepBegun (x y : Mooring) : Prop where
  desc : y.desc = x.desc
  stepOn : y.stepOn = true
  step : y.step = x.step
  lastBegun : y.lastBegun = some x.step
  flags : y.flags = 0
  bad : y.bad = false
  holdOpen : y.holdOpen = x.provisional.isNone
  readable : y.readable = x.readable.filter (fun c => decide (x.step < c + 2))

theorem replaceRoles_place (s : State) (m : Mooring) (p : Parsed) : ∃ place, replaceRoles s m p = { m with place := place } := by
  unfold replaceRoles
  dsimp only
  split
  · exact ⟨m.place, rfl⟩
  · exact ⟨_, rfl⟩

theorem fixRungs_provisional (s : State) (m : Mooring) (p : Parsed) :
    (fixRungs (replaceRoles s m p)).provisional = m.provisional := by
  obtain ⟨place, replaced⟩ := replaceRoles_place s m p
  rw [replaced]
  rfl

/-- The controls of a step are placement, rungs, L and the exponents. -/
theorem stepControls (s : State) (m : Mooring) (p : Parsed) : ∃ place ladders stepL,
    (if m.provisional.isNone = true then fixScale (fixRungs (replaceRoles s m p)) else fixRungs (replaceRoles s m p)) =
      { m with place := place, ladders := ladders, stepL := stepL } := by
  obtain ⟨place, replaced⟩ := replaceRoles_place s m p
  rw [replaced]
  split
  · exact ⟨place, _, m.lscale, rfl⟩
  · exact ⟨place, _, m.stepL, rfl⟩

/-! ### The lanterns -/

/-- A lantern that is there changes by f. -/
def changeThere (f : Nat → Lantern → Lantern) (s : State) (l : Nat) : State :=
  if (lanternAt s l).phys.isSome then modLantern s l (f l) else s

theorem lanternAt_changeThere (f : Nat → Lantern → Lantern) {l : Nat} (hl : l < s.lanterns.length) (k : Nat) :
    lanternAt (changeThere f s l) k =
      if k = l ∧ (lanternAt s k).phys.isSome = true then f k (lanternAt s k) else lanternAt s k := by
  by_cases hk : k = l
  · subst hk
    by_cases hp : (lanternAt s k).phys.isSome = true
    · rw [changeThere, if_pos hp, if_pos ⟨rfl, hp⟩, lanternAt_modLantern_same _ _ _ hl]
    · rw [changeThere, if_neg hp, if_neg (fun h => hp h.2)]
  · rw [if_neg (fun h : k = l ∧ _ => hk h.1), changeThere]
    split
    · exact lanternAt_modLantern_other _ _ hk
    · rfl

theorem changeThere_length (f : Nat → Lantern → Lantern) (l : Nat) : (changeThere f s l).lanterns.length = s.lanterns.length := by
  unfold changeThere
  split
  · simp
  · rfl

/-- Each lantern listed once that is there has changed; the others have not. -/
theorem lanternAt_foldl_changeThere (f : Nat → Lantern → Lantern) : ∀ (ls : List Nat) (s : State), ls.Nodup →
    (∀ l ∈ ls, l < s.lanterns.length) → ∀ k, lanternAt (ls.foldl (changeThere f) s) k =
      if k ∈ ls ∧ (lanternAt s k).phys.isSome = true then f k (lanternAt s k) else lanternAt s k
  | [], s, _, _, k => by simp
  | l :: ls, s, hn, hb, k => by
    obtain ⟨hl, hn⟩ := List.nodup_cons.1 hn
    have step := lanternAt_changeThere f (hb l (by simp)) k
    rw [List.foldl_cons, lanternAt_foldl_changeThere f ls _ hn
      (fun j hj => by rw [changeThere_length]; exact hb j (List.mem_cons_of_mem _ hj)) k]
    by_cases hk : k = l
    · subst hk
      rw [if_neg (fun h => hl h.1), step]
      simp
    · rw [if_neg (fun h => hk h.1)] at step
      simp [step, hk]

theorem foldl_changeThere_lanterns (f : Nat → Lantern → Lantern) (ls : List Nat) (s : State) :
    ∃ lanterns, ls.foldl (changeThere f) s = { s with lanterns := lanterns } :=
  List.foldlRecOn (motive := fun t : State => ∃ lanterns, t = { s with lanterns := lanterns }) ls (changeThere f) ⟨s.lanterns, rfl⟩
    fun t ⟨lanterns, h⟩ l _ => by
      unfold changeThere
      split
      · exact ⟨(modLantern t l (f l)).lanterns, by rw [h]; rfl⟩
      · exact ⟨lanterns, h⟩

/-! ### The command -/

theorem modMooring_const {y : Mooring} (hy : y.desc.id = id) :
    ∃ f : Mooring → Mooring, modMooring s id (fun _ => y) = modMooring s id f ∧ (∀ m, (f m).desc.id = m.desc.id) ∧
      ∀ m, m.desc.id = id → f m = y := by
  refine ⟨fun m => if m.desc.id = id then y else m, ?_, fun m => ?_, fun m hm => if_pos hm⟩
  · unfold modMooring
    congr 1
    exact List.map_congr_left fun m _ => by
      by_cases e : m.desc.id = id
      · simp [e]
      · simp [e]
  · dsimp only
    split
    next e => exact hy.trans e.symm
    next => rfl

theorem mooringAt_modMooring_const {y : Mooring} (hm : mooringAt s id = some x) (hy : y.desc.id = id) :
    mooringAt (modMooring s id (fun _ => y)) id = some y := by
  obtain ⟨f, e, hf, hfy⟩ := modMooring_const (s := s) hy
  rw [e, mooringAt_modMooring_same _ _ _ hf, hm, Option.map_some, hfy x (mooringAt_id hm)]

theorem mooringAt_modMooring_const_other {y : Mooring} {k : Nat} (hy : y.desc.id = id) (hk : k ≠ id) :
    mooringAt (modMooring s id (fun _ => y)) k = mooringAt s k := by
  obtain ⟨f, e, hf, -⟩ := modMooring_const (s := s) hy
  rw [e, mooringAt_modMooring_other _ _ hf hk]

/-- The state with a step's books written and its lanterns started. -/
def stepStarted (s : State) (id : Nat) (p : Parsed) (y : Mooring) : State :=
  openWindows ((lanternsOf s id).foldl (changeThere (startLantern p y)) (modMooring s id (fun _ => y))) id

theorem execStepStart_starts (hm : mooringAt s id = some x) (hb : bundleAt s x.bundle = some b) (hs : mayStartStep s x = true) :
    ∃ y, StepBegun x y ∧ exec (.stepStart id) s = .next (stepStarted s id b.p y) := by
  obtain ⟨place, ladders, stepL, controls⟩ := stepControls s x b.p
  have runs : exec (.stepStart id) s = execStepStart id s := rfl
  rw [runs, execStepStart]
  simp only [hm, hb, hs, Bool.not_true, Bool.false_eq_true, if_false, fixRungs_provisional, controls]
  refine ⟨_, ?_, rfl⟩
  exact ⟨rfl, rfl, rfl, rfl, rfl, rfl, rfl, rfl⟩

theorem execStepStart_waits (hm : mooringAt s id = some x) (hs : mayStartStep s x = false) : exec (.stepStart id) s = .next s := by
  show execStepStart id s = _
  simp only [execStepStart, hm, hs, Bool.not_false, if_true]
  cases bundleAt s x.bundle <;> rfl

theorem mem_lanternsOf {l : Nat} : l ∈ lanternsOf s id ↔ l < 192 ∧ (lanternAt s l).mooring = some id := by
  simp [lanternsOf]

theorem lanternsOf_nodup (s : State) (id : Nat) : (lanternsOf s id).Nodup := List.nodup_range.filter _

/-- Beside the mooring's books and the lanterns, a step's start changes what guests see at most. -/
theorem stepStarted_eq (s : State) (id : Nat) (p : Parsed) (y : Mooring) : ∃ shore,
    stepStarted s id p y = { (modMooring s id (fun _ => y)) with
      lanterns := ((lanternsOf s id).foldl (changeThere (startLantern p y)) (modMooring s id (fun _ => y))).lanterns
      shore := shore } := by
  obtain ⟨lanterns, started⟩ := foldl_changeThere_lanterns (startLantern p y) (lanternsOf s id) (modMooring s id (fun _ => y))
  obtain ⟨shore, opened⟩ := openWindows_shore ((lanternsOf s id).foldl (changeThere (startLantern p y)) (modMooring s id (fun _ => y))) id
  refine ⟨shore, ?_⟩
  rw [stepStarted, opened, started]

theorem lanternAt_stepStarted (hi : s.Inv) (p : Parsed) (y : Mooring) (l : Nat) : lanternAt (stepStarted s id p y) l =
    if l ∈ lanternsOf s id ∧ (lanternAt s l).phys.isSome = true then startLantern p y l (lanternAt s l) else lanternAt s l := by
  obtain ⟨shore, h⟩ := stepStarted_eq s id p y
  have bound : ∀ l ∈ lanternsOf s id, l < (modMooring s id (fun _ => y)).lanterns.length := by
    intro l hl
    rw [modMooring_lanterns, hi.1.1.1]
    exact (mem_lanternsOf.1 hl).1
  rw [h]
  exact lanternAt_foldl_changeThere (startLantern p y) _ (modMooring s id (fun _ => y)) (lanternsOf_nodup s id) bound l

end StepStart

/-- Settles O53. -/
theorem stepStarts : Obligations.StepStarts := by
  refine fun s id x b hi hm hb => ⟨fun hs => ?starts, fun hs => execStepStart_waits hm hs⟩
  obtain ⟨y, begun, runs⟩ := execStepStart_starts hm hb hs
  have hid : y.desc.id = id := by
    rw [begun.desc]
    exact mooringAt_id hm
  obtain ⟨shore, rest⟩ := stepStarted_eq s id b.p y
  refine ⟨_, y, runs, ?_, begun.stepOn, begun.step, begun.lastBegun, begun.flags, begun.bad, ?_, ?_, fun k hk => ?_,
    fun l hl hml hp => ?_, fun l hml => ?_, ?_, ?_, ?_, ?_⟩
  · rw [rest]
    exact mooringAt_modMooring_const hm hid
  · rw [begun.holdOpen, Option.isNone_iff_eq_none]
  · intro c hc
    rw [begun.readable] at hc
    simpa using List.mem_filter.1 hc
  · rw [rest]
    exact mooringAt_modMooring_const_other hid hk
  · rw [lanternAt_stepStarted hi, if_pos ⟨mem_lanternsOf.2 ⟨hl, hml⟩, hp⟩]
    rfl
  · rw [lanternAt_stepStarted hi, if_neg (fun h => hml (mem_lanternsOf.1 h.1).2)]
  all_goals
    rw [rest]
    rfl

end Sys2Proof.Machine
end

section
/-! PROOFS. A refused bundle's response fits its mailbox slot: no check of a load says more than two words beyond check, section and
entry (O45, R157, R197). -/

namespace Sys2Proof.Machine

/-- An error of a load says at most two words more than check, section and entry. -/
structure Brief (o : Option LoadErr) : Prop where
  more : ∀ e, o = some e → e.more.length ≤ 2

theorem brief_none : Brief none := ⟨nofun⟩

theorem brief_some {e : LoadErr} (h : e.more.length ≤ 2) : Brief (some e) := ⟨fun _ he => Option.some.inj he ▸ h⟩

theorem brief_errIf (b : Bool) (check sec entry : Nat) : Brief (errIf b check sec entry) := by
  cases b
  · exact brief_none
  · exact brief_some (Nat.zero_le _)

theorem brief_firstErr {α : Type} {f : Nat → α → Option LoadErr} (hf : ∀ i x, Brief (f i x)) (xs : List α) : Brief (firstErr xs f) := by
  refine ⟨fun e he => ?_⟩
  obtain ⟨q, -, hq⟩ := List.exists_of_findSome?_eq_some he
  exact (hf _ _).more e hq

theorem brief_orElse {o : Option LoadErr} {g : Unit → Option LoadErr} (ho : Brief o) (hg : Brief (g ())) : Brief (o.orElse g) := by
  cases o with
  | none => exact hg
  | some e => exact ho

theorem brief_map {α : Type} (o : Option α) {f : α → LoadErr} (hf : ∀ a, (f a).more.length ≤ 2) : Brief (o.map f) := by
  cases o with
  | none => exact brief_none
  | some a => exact brief_some (hf a)

/-- An entry of a section that fails its check, or one thing more that is wrong. -/
theorem brief_entriesThen {α β : Type} (xs : List α) (b : Nat → α → Bool) (check : Nat) (sec : Nat → α → Nat) (o : Option β) {f : β → LoadErr}
    (hf : ∀ a, (f a).more.length ≤ 2) :
    Brief (match firstErr xs (fun i x => errIf (b i x) check (sec i x) i) with
      | some e => some e
      | none => o.map f) := by
  split
  next he => exact he ▸ brief_firstErr (fun _ _ => brief_errIf ..) xs
  next => exact brief_map o hf

/-! ### The checks of R157 -/

theorem brief_checkHeader (img : List Byte) : Brief (checkHeader img) := by
  unfold checkHeader
  dsimp only
  split
  · exact brief_some (Nat.zero_le _)
  · exact brief_entriesThen (directory img) _ 2 (fun _ x => x.typ) _ fun _ => Nat.zero_le _

theorem brief_checkLens (p : Parsed) : Brief (checkLens p) :=
  brief_entriesThen p.lens _ 4 (fun _ _ => 2) _ fun _ => Nat.zero_le _

theorem brief_checkBindings (p : Parsed) : Brief (checkBindings p) :=
  brief_entriesThen p.bindings _ 6 (fun _ _ => 4) _ fun _ => Nat.zero_le _

theorem brief_roleErr (p : Parsed) (i : Nat) (r : Role) : Brief (roleErr p i r) := brief_map _ fun _ => Nat.le_refl 2

theorem brief_checkRoles (p : Parsed) : Brief (checkRoles p) :=
  brief_orElse (brief_firstErr (fun _ _ => brief_errIf ..) _) (brief_firstErr (brief_roleErr p) _)

theorem brief_checkRefs (p : Parsed) : Brief (checkRefs p) :=
  brief_orElse (brief_firstErr (fun _ _ => brief_errIf ..) _) <|
  brief_orElse (brief_firstErr (fun _ _ => brief_errIf ..) _) (brief_firstErr (fun _ _ => brief_errIf ..) _)

theorem brief_checkChains (img : List Byte) (p : Parsed) : Brief (checkChains img p) := by
  unfold checkChains
  exact brief_firstErr (fun _ _ => brief_errIf ..) _

theorem brief_checkDma (img : List Byte) (p : Parsed) : Brief (checkDma img p) := by
  unfold checkDma
  exact brief_firstErr (fun _ _ => brief_errIf ..) _

theorem brief_checkSec8 (img : List Byte) (p : Parsed) : Brief (checkSec8 img p) := by
  unfold checkSec8
  exact brief_firstErr (fun _ _ => brief_errIf ..) _

/-- The checks on a parsed image, in order. -/
theorem brief_parsed (img : List Byte) (p : Parsed) : Brief ((checkTensors p.tensors).orElse fun _ => (checkLens p).orElse fun _ =>
    (checkChains img p).orElse fun _ => (checkBindings p).orElse fun _ => (checkDma img p).orElse fun _ => (checkColls p).orElse fun _ =>
    (checkSec8 img p).orElse fun _ => (checkRoles p).orElse fun _ => (checkRefs p).orElse fun _ => checkScale p) :=
  brief_orElse (brief_firstErr (fun _ _ => brief_errIf ..) _) <| brief_orElse (brief_checkLens p) <|
  brief_orElse (brief_checkChains img p) <| brief_orElse (brief_checkBindings p) <|
  brief_orElse (brief_checkDma img p) <| brief_orElse (brief_firstErr (fun _ _ => brief_errIf ..) _) <|
  brief_orElse (brief_checkSec8 img p) <| brief_orElse (brief_checkRoles p) <|
  brief_orElse (brief_checkRefs p) (brief_errIf ..)

theorem loadBundle_brief {img : List Byte} {e : LoadErr} (h : loadBundle img = .error e) : e.more.length ≤ 2 := by
  unfold loadBundle at h
  split at h
  next d hd =>
    cases h
    exact (brief_orElse (brief_errIf ..) (brief_checkHeader img)).more _ hd
  next =>
    dsimp only at h
    split at h
    next d hd =>
      cases h
      exact (brief_parsed img _).more _ hd
    next => cases h

end Sys2Proof.Machine
end

section
/-! PROOFS. What a bundle command's Keeper reads, and the copies it counts (O45, R143, R171, R195). -/

namespace Sys2Proof.Machine

section KeeperReads

variable {s t : State} {a n : Nat} {bs : List Byte}

/-! ### A copy of the Keeper's own -/

theorem sameWorkCopied_of_sameWork (h : SameWork s t) : SameWorkCopied s t := by
  obtain ⟨mem, poison, lanterns, sysChans, towers, moorings, shore, router, time, power, boot, flash⟩ := h
  refine ⟨⟨mem, poison, lanterns, rfl, towers, moorings, shore, router, time, power, boot, flash⟩, by rw [sysChans], fun k => ?_⟩
  simp only [chanAt, sysChans]

theorem sameWorkCopied_trans_sameWork {u : State} (h : SameWorkCopied s t) (h' : SameWork t u) : SameWorkCopied s u := by
  obtain ⟨⟨mem, poison, lanterns, -, towers, moorings, shore, router, time, power, boot, flash⟩, count, chans⟩ := h
  obtain ⟨mem', poison', lanterns', sysChans', towers', moorings', shore', router', time', power', boot', flash'⟩ := h'
  refine ⟨⟨mem'.trans mem, poison'.trans poison, lanterns'.trans lanterns, rfl, towers'.trans towers, moorings'.trans moorings,
    shore'.trans shore, router'.trans router, time'.trans time, power'.trans power, boot'.trans boot, flash'.trans flash⟩,
    by rw [sysChans', count], fun k => ?_⟩
  have same : chanAt u (.system k) = chanAt t (.system k) := by simp only [chanAt, sysChans']
  rw [same]
  exact chans k

theorem sameWork_trans_copied {u : State} (h : SameWork s t) (h' : SameWorkCopied t u) : SameWorkCopied s u := by
  obtain ⟨mem, poison, lanterns, sysChans, towers, moorings, shore, router, time, power, boot, flash⟩ := h
  obtain ⟨⟨mem', poison', lanterns', -, towers', moorings', shore', router', time', power', boot', flash'⟩, count, chans⟩ := h'
  refine ⟨⟨mem'.trans mem, poison'.trans poison, lanterns'.trans lanterns, rfl, towers'.trans towers, moorings'.trans moorings,
    shore'.trans shore, router'.trans router, time'.trans time, power'.trans power, boot'.trans boot, flash'.trans flash⟩,
    by rw [count, sysChans], fun k => ?_⟩
  have same : chanAt t (.system k) = chanAt s (.system k) := by simp only [chanAt, sysChans]
  rw [← same]
  exact chans k

/-- A channel of a list in which one channel's counters moved. -/
theorem getD_modify_counters (xs : List DmaChan) (i k : Nat) (g : List Nat → List Nat) :
    (xs.modify i (fun x => { x with counters := g x.counters })).getD k DmaChan.reset =
      { xs.getD k DmaChan.reset with
        counters := ((xs.modify i (fun x => { x with counters := g x.counters })).getD k DmaChan.reset).counters } := by
  simp only [List.getD_eq_getElem?_getD, List.getElem?_modify]
  by_cases h : i = k
  · subst h
    cases xs[i]? <;> simp
  · simp [h]

theorem sysCopy_copied : SameWorkCopied s (sysCopy s n) :=
  ⟨⟨rfl, rfl, rfl, rfl, rfl, rfl, rfl, rfl, rfl, rfl, rfl, rfl⟩, List.length_modify .., fun k => getD_modify_counters s.sysChans
    ((sysFree s).getD 0) k (fun c => bump (bump (bump c 0 (ceilDiv n (2 ^ 23))) 11 n) 12 n)⟩

/-! ### What a read goes on with -/

theorem linesOf_bounds {p : Nat} (h : p ∈ linesOf a n) : lineOf a ≤ p ∧ p < a + n := by
  unfold linesOf lineOf at h
  split at h
  · cases h
  · obtain ⟨i, hi, rfl⟩ := List.mem_map.1 h
    have := List.mem_range.1 hi
    unfold lineOf
    omega

theorem poisonedLines_clean (h : isPoisoned s a n = false) : poisonedLines s a n = [] := by
  refine List.filter_eq_nil_iff.2 fun p hp marked => ?_
  have apart := List.any_eq_false.1 h p (List.contains_iff_mem.1 marked)
  obtain ⟨low, high⟩ := linesOf_bounds hp
  simp [low, high] at apart

/-- Bytes that the Keeper can read are read at once, by a copy of its own. -/
theorem readThen_ok (act : Except Nat (List Byte) → State → State) (h : keeperRead s a n = .ok bs) :
    readThen s a n act = act (.ok bs) (sysCopy s n) := by
  unfold readThen
  rw [h]
  unfold keeperRead at h
  split at h
  next => cases h
  next b hb =>
    split at h
    next => cases h
    next clean =>
      rw [hb]
      dsimp only
      rw [poisonedLines_clean (Bool.eq_false_iff.2 clean)]
      rfl
  next => cases h
  next i o hb => rw [hb]

end KeeperReads

end Sys2Proof.Machine
end

section
/-! PROOFS. BUNDLE_LOAD, BUNDLE_UNLOAD and BUNDLE_STORE (O45, R148, R156, R157, R380, R455). -/

namespace Sys2Proof.Machine

section Bundles

variable {s t : State} {m : Mbox} {r : Request} {src : BundleSrc} {len seed : Nat} {img : List Byte}

/-! ### The image that a load names -/

/-- The image that a load names is at hand: read by a copy of the Keeper's own, or stored. -/
theorem bundleImage_ok (act : Except Nat (List Byte) → State → State) (h : match src with
      | .addr a => len ≤ 2 ^ 30 ∧ keeperRead s a len = .ok img
      | .flash name => storedImage s name len = .ok img) :
    bundleImage s src len act = act (.ok img) s ∨ bundleImage s src len act = act (.ok img) (sysCopy s len) := by
  unfold bundleImage
  cases src with
  | addr a =>
    obtain ⟨short, read⟩ := h
    exact .inr ((if_neg (Nat.not_lt.2 short)).trans (readThen_ok _ read))
  | flash name => exact .inl (congrArg (act · s) h)

/-! ### What a load does with its image -/

/-- What a load does with an image that it has read. -/
def loadImage (m : Mbox) (r : Request) (seed : Nat) (img : List Byte) (s : State) : State :=
  match loadBundle img with
  | .error e => answer s m r (if e.check = 1 then stSignature else stBundleRefused) (words ([e.check, e.sec, e.entry] ++ e.more)) 0
  | .ok p =>
    if bundleSpace s < bundleBytes s + img.length then
      answer s m r stPlacement (words [if s.boot.state = 1 then 1 else 2, bundleBytes s + img.length - bundleSpace s]) 0
    else longAtOnce s m r stSuccess 0 s.keeper.nextHandle (fun s => addBundle s m.func seed img p)

theorem execBundleLoad_asked (ha : Asked s m 0x0010 r) (hf : attFull s m.func = false) (hb : s.keeper.bundles.length < 16)
    (h : match src with
      | .addr a => len ≤ 2 ^ 30 ∧ keeperRead s a len = .ok img
      | .flash name => storedImage s name len = .ok img) :
    exec (.bundleLoad m src len seed) s = .next (loadImage m r seed img s) ∨
    exec (.bundleLoad m src len seed) s = .next (loadImage m r seed img (sysCopy s len)) := by
  have runs : exec (.bundleLoad m src len seed) s = .next (bundleImage s src len fun d s => match d with
      | .error st => answer s m r st [] 0
      | .ok img => loadImage m r seed img s) := by
    show execBundleLoad m src len seed s = _
    rw [execBundleLoad, next_asked ha]
    simp only [hf, Nat.not_le.2 hb, Bool.false_eq_true, or_self, if_false]
    rfl
  rw [runs]
  exact (bundleImage_ok _ h).imp (congrArg _) (congrArg _)

/-- A bundle that fails a check: the answer names check, section and entry. -/
theorem loadImage_error {e : LoadErr} (hm : m.ok = true) (hi : s.Inv) (he : loadBundle img = .error e) :
    Answered (loadImage m r seed img s) m r (if e.check = 1 then 0x21 else 0x20) (words ([e.check, e.sec, e.entry] ++ e.more)) 0 ∧
    SameWork s (loadImage m r seed img s) ∧ (loadImage m r seed img s).keeper = s.keeper ∧
    (loadImage m r seed img s).host = s.host := by
  have short : (words ([e.check, e.sec, e.entry] ++ e.more)).length ≤ 4056 := by
    have := loadBundle_brief he
    rw [words_length, List.length_append]
    simp only [List.length_cons, List.length_nil]
    omega
  obtain ⟨answered, work, keeper, host, -⟩ := answer_all (r := r) (if e.check = 1 then 0x21 else 0x20) _ 0 hi hm short
  unfold loadImage
  rw [he]
  exact ⟨answered, work, keeper, host⟩

/-! ### A bundle that is loaded (R148, R156, R455) -/

theorem attAdd_mbox (f : Nat) (e : AttEntry) (q : Mbox) : mboxAt (attAdd s f e) q = mboxAt s q :=
  congrArg (fun l : List Mailbox => l.getD q.box Mailbox.reset) (funcAt_modFunc_keeps Func.mbox f q.func _ fun _ => rfl)

/-- Neither a bundle added nor an operation dropped touches the work. -/
theorem addBundle_work {f tag : Nat} {p : Parsed} (h : SameWork s t) : SameWork s (dropOp (addBundle t f seed img p) f tag) := by
  obtain ⟨mem, poison, lanterns, sysChans, towers, moorings, shore, router, time, power, boot, flash⟩ := h
  exact ⟨mem, poison, lanterns, sysChans, towers, moorings, shore, router, time, power, boot, flash⟩

theorem attAdd_length {f : Nat} (e : AttEntry) (hf : f < s.funcs.length) :
    (funcAt (attAdd s f e) f).attLog.length = (funcAt s f).attLog.length + 1 := by
  unfold attAdd
  rw [funcAt_modFunc_same _ _ _ hf]
  exact List.length_append

/-- What a load does and leaves, apart from its record and its answer. -/
structure Loaded (m : Mbox) (seed : Nat) (img : List Byte) (p : Parsed) (s u : State) : Prop where
  work : SameWork s u
  bundles : u.keeper.bundles = s.keeper.bundles ++ [⟨s.keeper.nextHandle, m.func, seed, img.length, Config.sm3 img, img, p⟩]
  nextHandle : u.keeper.nextHandle = (s.keeper.nextHandle + 1) % 2 ^ 32
  ops : u.keeper.ops = s.keeper.ops
  attLog : (funcAt u m.func).attLog.length = (funcAt s m.func).attLog.length + 1

/-- A bundle that passes every check and fits is loaded, its handle reported. -/
theorem loadImage_loaded {p : Parsed} (hm : m.ok = true) (hi : s.Inv) (free : tagFree s m.func r.tag = true)
    (hp : loadBundle img = .ok p) (fits : bundleBytes s + img.length ≤ bundleSpace s) :
    ∃ u, Answered u m r 0x01 [] 0 ∧ Reported (loadImage m r seed img s) u m.func r 0 0 s.keeper.nextHandle ∧
      Loaded m seed img p s u := by
  have keeper : (acceptLong s m r .forwarded).keeper = _ := acceptLong_keeper .forwarded
  have work : SameWork s (acceptLong s m r .forwarded) := acceptLong_sameWork .forwarded
  have funcs : (acceptLong s m r .forwarded).funcs.length = 44 := (inv_acceptLong hi).1.2.1.1
  have log : (funcAt (acceptLong s m r .forwarded) m.func).attLog = (funcAt s m.func).attLog :=
    answer_func (s := s) Func.attLog (fun _ _ => rfl) (fun _ _ => rfl) (fun _ _ _ => rfl) (Nat.zero_le _) m.func
  have runs : loadImage m r seed img s = longAtOnce s m r stSuccess 0 s.keeper.nextHandle (addBundle · m.func seed img p) := by
    unfold loadImage
    rw [hp]
    exact if_neg (Nat.not_lt.2 fits)
  obtain ⟨answered, reported, ops⟩ := longAtOnce_all (status := stSuccess) (flags := 0) (detail := s.keeper.nextHandle)
    (effect := (addBundle · m.func seed img p)) hi hm free rfl (attAdd_mbox _ _ m)
  rw [runs]
  refine ⟨_, answered, reported, addBundle_work work, ?_, ?_, ops, ?_⟩
  · show (acceptLong s m r .forwarded).keeper.bundles ++ [⟨(acceptLong s m r .forwarded).keeper.nextHandle, _, _, _, _, _, _⟩] = _
    rw [keeper]
  · show ((acceptLong s m r .forwarded).keeper.nextHandle + 1) % 2 ^ 32 = _
    rw [keeper]
  · refine (attAdd_length _ ?_).trans (by rw [← log]; rfl)
    exact funcs.symm ▸ mboxFunc_lt hm

/-! ### The bundle that a command names (R372) -/

theorem bundleDenied_other {h : Nat} {b : Bundle} (hb : bundleAt s h = some b) (ho : b.owner ≠ m.func) :
    bundleFor s m.func h = none ∧ bundleDenied s h = stPrivilege := by
  unfold bundleFor bundleDenied
  rw [hb]
  exact ⟨if_neg ho, rfl⟩

/-- What storing a bundle does. -/
def storedBundle (name : BitVec 256) (f : Nat) (b : Bundle) (s : State) : State :=
  putObject (sysCopy s b.length) name f b.length (.bundle b.image)

theorem execBundleUnload_denied {h : Nat} (ha : Asked s m 0x0011 r) (hb : bundleFor s m.func h = none) :
    exec (.bundleUnload m h) s = .next (answer s m r (bundleDenied s h) [] 0) := by
  show execBundleUnload m h s = _
  rw [execBundleUnload, next_asked ha, hb]

theorem execBundleStore_denied {h : Nat} {name : BitVec 256} (ha : Asked s m 0x0012 r) (hb : bundleFor s m.func h = none) :
    exec (.bundleStore m h name) s = .next (answer s m r (bundleDenied s h) [] 0) := by
  show execBundleStore m h name s = _
  rw [execBundleStore, next_asked ha, hb]

theorem execBundleUnload_own {h : Nat} {b : Bundle} (ha : Asked s m 0x0011 r) (hb : bundleFor s m.func h = some b) :
    exec (.bundleUnload m h) s = .next (if bundleBusy s h then answer s m r stBusy [] 0
      else answer (modKeeper s (fun k => { k with bundles := k.bundles.filter (fun b => b.handle != h) })) m r stSuccess [] 0) := by
  show execBundleUnload m h s = _
  rw [execBundleUnload, next_asked ha, hb]

theorem execBundleStore_own {h : Nat} {name : BitVec 256} {b : Bundle} (ha : Asked s m 0x0012 r)
    (hb : bundleFor s m.func h = some b) (hw : userWriteErr s name m.func b.length = none) :
    exec (.bundleStore m h name) s = .next (longAtOnce s m r stSuccess 0 0 (storedBundle name m.func b)) := by
  show execBundleStore m h name s = _
  rw [execBundleStore, next_asked ha, hb]
  simp only [hw]
  rfl

/-- A refusal for privilege is counted for the function. -/
theorem answer_privRef (hi : s.Inv) (hm : m.ok = true) :
    (funcAt (answer s m r stPrivilege [] 0) m.func).privRef = (funcAt s m.func).privRef + 1 := by
  have funcs : (responded s m r stPrivilege [] 0).funcs.length = 44 := (List.length_modify ..).trans hi.1.2.1.1
  have counted : (funcAt (modFunc (responded s m r stPrivilege [] 0) m.func (fun x => { x with privRef := x.privRef + 1 }))
      m.func).privRef = (funcAt s m.func).privRef + 1 := by
    rw [funcAt_modFunc_same _ _ _ (funcs.symm ▸ mboxFunc_lt hm)]
    exact congrArg (· + 1) (funcAt_modFunc_keeps Func.privRef m.func m.func _ fun _ => rfl)
  rw [answer_eq (Nat.zero_le _)]
  dsimp only
  rw [if_pos rfl]
  split
  · exact (raiseVector_func Func.privRef (fun _ _ _ => rfl) ..).trans counted
  · exact counted

/-! ### A bundle that is stored (R147, R457) -/

theorem sameUnitsCopied_of_work (h : SameWorkCopied s t) : SameUnitsCopied s t := by
  obtain ⟨⟨-, -, lanterns, sysChans, towers, moorings, shore, -, time, power, boot, -⟩, count, chans⟩ := h
  exact ⟨⟨power, boot, moorings, lanterns, towers, sysChans, time, shore⟩, count, chans⟩

theorem storedBundle_keeper (name : BitVec 256) (f : Nat) (b : Bundle) : (storedBundle name f b s).keeper = s.keeper := rfl

theorem storedBundle_mbox (name : BitVec 256) (f : Nat) (b : Bundle) (q : Mbox) : mboxAt (storedBundle name f b s) q = mboxAt s q := rfl

theorem storedBundle_mem (name : BitVec 256) (f : Nat) (b : Bundle) : (storedBundle name f b s).mem = s.mem := rfl

theorem storedBundle_flash (name : BitVec 256) (f : Nat) (b : Bundle) :
    (storedBundle name f b s).flash.credit = s.flash.credit - b.length ∧
    ∃ g, (storedBundle name f b s).flash.objs =
      s.flash.objs.filter (fun o => o.name != name) ++ [⟨name, f, g, b.length, false, .bundle b.image⟩] := ⟨rfl, _, rfl⟩

/-- Neither an object written nor an operation dropped touches a unit. -/
theorem storedBundle_units (name : BitVec 256) (f tag : Nat) (b : Bundle) (h : SameWork s t) :
    SameUnitsCopied s (dropOp (storedBundle name f b t) f tag) := by
  obtain ⟨⟨power, boot, moorings, lanterns, towers, -, time, shore⟩, count, chans⟩ :=
    sameUnitsCopied_of_work (sameWork_trans_copied h (sysCopy_copied (n := b.length)))
  exact ⟨⟨power, boot, moorings, lanterns, towers, rfl, time, shore⟩, count, chans⟩

theorem longAtOnce_stored {name : BitVec 256} {b : Bundle} (hm : m.ok = true) (hi : s.Inv) (free : tagFree s m.func r.tag = true) :
    ∃ u, Answered u m r 0x01 [] 0 ∧ Reported (longAtOnce s m r stSuccess 0 0 (storedBundle name m.func b)) u m.func r 0 0 0 ∧
      SameUnitsCopied s u ∧ u.keeper = s.keeper ∧ u.mem = s.mem ∧ u.flash.credit = s.flash.credit - b.length ∧
      ∃ g, u.flash.objs = s.flash.objs.filter (fun o => o.name != name) ++ [⟨name, m.func, g, b.length, false, .bundle b.image⟩] := by
  have work : SameWork s (acceptLong s m r .forwarded) := acceptLong_sameWork .forwarded
  have ⟨mem, _, _, _, _, _, _, _, _, _, _, flash⟩ := work
  obtain ⟨answered, reported, -⟩ := longAtOnce_all (status := stSuccess) (flags := 0) (detail := 0)
    (effect := storedBundle name m.func b) hi hm free (by rw [storedBundle_keeper]) (storedBundle_mbox ..)
  have written := storedBundle_flash (s := acceptLong s m r .forwarded) name m.func b
  rw [flash] at written
  refine ⟨_, answered, reported, storedBundle_units _ _ _ _ work, dropOp_keeper .forwarded free ?_, ?_, written⟩
  · rw [storedBundle_keeper, acceptLong_keeper]
  · exact (storedBundle_mem name m.func b).trans mem

end Bundles

/-- Settles O45: an image's checks decide what its load answers; a handle's owner and its moorings decide the rest. -/
theorem bundles : Obligations.Bundles := by
  intro m r s hm hi
  refine ⟨?load, ?unload, ?busy, ?denied, ?store⟩
  case load =>
    intro src len seed img ha hf hb himg fits
    have free : tagFree s m.func r.tag = true := tagFree_of_asked ha rfl rfl
    have runs := execBundleLoad_asked (seed := seed) ha hf hb himg
    split
    next e he =>
      obtain runs | runs := runs
      · obtain ⟨answered, work, keeper, host⟩ := loadImage_error (r := r) (seed := seed) hm hi he
        exact ⟨_, runs, answered, sameWorkCopied_of_sameWork work, keeper, host⟩
      · obtain ⟨answered, work, keeper, host⟩ := loadImage_error (r := r) (seed := seed) hm (inv_sysCopy (n := len) hi) he
        exact ⟨_, runs, answered, sameWorkCopied_trans_sameWork sysCopy_copied work, keeper, host⟩
    next p hp =>
      obtain runs | runs := runs
      · obtain ⟨u, answered, reported, work, bundles, nextHandle, ops, attLog⟩ :=
          loadImage_loaded (seed := seed) hm hi free hp fits
        exact ⟨u, _, runs, answered, reported, sameWorkCopied_of_sameWork work, bundles, nextHandle, ops, attLog⟩
      · obtain ⟨u, answered, reported, work, bundles, nextHandle, ops, attLog⟩ :=
          loadImage_loaded (s := sysCopy s len) (seed := seed) hm (inv_sysCopy hi) free hp fits
        exact ⟨u, _, runs, answered, reported, sameWorkCopied_trans_sameWork sysCopy_copied work, bundles, nextHandle, ops, attLog⟩
  case unload =>
    intro h b ha hb idle
    obtain ⟨answered, work, keeper, host, -⟩ := answer_all (r := r)
      (s := modKeeper s (fun k => { k with bundles := k.bundles.filter (fun b => b.handle != h) })) stSuccess [] 0 hi hm (Nat.zero_le _)
    refine ⟨_, (execBundleUnload_own ha hb).trans (congrArg _ (if_neg (Bool.eq_false_iff.1 idle))), answered, work, host, keeper⟩
  case busy =>
    intro h b ha hb used
    obtain ⟨answered, work, keeper, -⟩ := answer_all (r := r) stBusy [] 0 hi hm (Nat.zero_le _)
    exact ⟨_, (execBundleUnload_own ha hb).trans (congrArg _ (if_pos used)), answered, work, keeper⟩
  case denied =>
    intro h b name hb ho
    obtain ⟨none, denied⟩ := bundleDenied_other hb ho
    obtain ⟨answered, work, keeper, -⟩ := answer_all (r := r) stPrivilege [] 0 hi hm (Nat.zero_le _)
    refine ⟨fun ha => ⟨_, (execBundleUnload_denied ha none).trans ?_, answered, work, keeper, answer_privRef hi hm⟩,
      fun ha => ⟨_, (execBundleStore_denied ha none).trans ?_, answered, work, keeper, answer_privRef hi hm⟩⟩
    · rw [denied]
    · rw [denied]
  case store =>
    intro h b name ha hb hw
    have free : tagFree s m.func r.tag = true := tagFree_of_asked ha rfl rfl
    obtain ⟨u, answered, reported, stored⟩ := longAtOnce_stored (name := name) (b := b) hm hi free
    exact ⟨u, _, execBundleStore_own ha hb hw, answered, reported, stored⟩

end Sys2Proof.Machine
end

section
/-! PROOFS. A snapshot asked for while flash is still to be read after a long time unpowered (O52, R145, R147, R148). -/

namespace Sys2Proof.Machine

section Snapshots

variable {s t : State} {m : Mbox} {r : Request}

/-- Byte 6 of a response is its status (R378). -/
theorem responseHeader_status (seq opcode status tag reslen outlen detail : Nat) (result : List Byte) :
    (responseHeader seq opcode status tag reslen outlen detail ++ result).getD 6 0 = BitVec.ofNat 8 status := by
  simp [responseHeader, natLE]

theorem answered_status {status detail : Nat} {result : List Byte} (h : Answered t m r status result detail) :
    byteAt (mboxAt t m).respBody 6 = BitVec.ofNat 8 status := by
  obtain ⟨-, -, -, body⟩ := h
  rw [body, slotOf, byteAt_setBytes_inside rfl (Nat.zero_le 6) (by simp [responseHeader]; omega)]
  exact responseHeader_status ..

/-- A snapshot that a check refuses is answered with that check's status. -/
theorem execSnapshotSave_refused {name : BitVec 256} {x : Mooring} {b : Bundle} {e : Nat × Nat} (ha : Asked s m 0x0042 r)
    (hx : mooringAt s r.mooring = some x) (hb : bundleAt s x.bundle = some b) (he : snapshotErr s x b.p name = some e) :
    exec (.snapshotSave m name) s = .next (answer s m r e.1 [] e.2) := by
  show execSnapshotSave m name s = _
  rw [execSnapshotSave, next_asked ha, hx]
  simp only [hb, he]

/-- Mooring 5 in full service, with a request to save it; the flash still to be read, and no credit left. -/
def wornUnread : State :=
  modFlash (moored (moorOf 0) (asking (reqOf 0x42 5) State.reset)) (fun f => { f with
    credit := 0
    unread := true })

theorem wornUnread_inv : wornUnread.Inv := inv_modFlash (moored_inv _ (asking_inv _ reset_inv))

theorem wornUnread_asked : Asked wornUnread box0 0x42 (reqOf 0x42 5) := asked (by decide)

theorem wornUnread_busy : snapshotErr wornUnread (moorOf 0) bundle1.p 7 = some (stBusy, 0) := rfl

end Snapshots

/-- Refutes O52: while the user area of flash is still to be read, a snapshot is refused with BUSY before its credit is looked at
(R148), and the statement asks for WEAR_BUDGET wherever the credit is too small. -/
theorem not_snapshotsAndTensors : ¬ Obligations.SnapshotsAndTensors := by
  intro h
  have mooring : mooringAt wornUnread 5 = some (moorOf 0) := by decide
  have bundle : bundleAt wornUnread 1 = some bundle1 := by decide
  obtain ⟨-, worn, -⟩ := h box0 (reqOf 0x42 5) wornUnread (moorOf 0) bundle1 rfl wornUnread_inv mooring bundle rfl
  obtain ⟨t, w, runs, asks, -⟩ := worn 7 wornUnread_asked rfl rfl (by decide)
  have busy := execSnapshotSave_refused wornUnread_asked mooring bundle wornUnread_busy
  have gives : Answered t box0 (reqOf 0x42 5) stBusy [] 0 := by
    rw [Host.Outcome.next.inj (runs.symm.trans busy)]
    exact answer_answered wornUnread_inv rfl (Nat.zero_le _)
  have same := (answered_status gives).symm.trans (answered_status asks)
  exact absurd same (by decide)

end Sys2Proof.Machine
end

section
/-! PROOFS. What changing a DMA channel, retiring and advancing a descriptor leave of the module (O14, R170, R171, R186, R195, R337). -/

namespace Sys2Proof.Machine

section ChannelRules

variable {s t u : State} {c : Chan} {f : DmaChan → DmaChan}

/-! ### A channel that is there -/

/-- Channel c is one of the module's. -/
def ChanThere (s : State) : Chan → Prop
  | .lantern l k => l < s.lanterns.length ∧ k < (lanternAt s l).dma.length
  | .system n => n < s.sysChans.length

theorem chanThere_of_inv (hi : s.Inv) (hc : match c with
    | .lantern l k => l < 192 ∧ k < 4
    | .system n => n < 16) : ChanThere s c := by
  have lanterns : s.lanterns.length = 192 := hi.1.1.1
  have sysChans : s.sysChans.length = 16 := hi.1.2.2.1
  cases c with
  | lantern l k =>
    obtain ⟨-, -, dma⟩ := lanternOk_lanternAt (l := l) hi
    exact ⟨lanterns.symm ▸ hc.1, dma.symm ▸ hc.2⟩
  | system n => exact lt_of_lt_of_eq hc sysChans.symm

theorem chanAt_modChan (h : ChanThere s c) : chanAt (modChan s c f) c = f (chanAt s c) := by
  cases c with
  | lantern l k =>
    unfold chanAt modChan
    dsimp only
    rw [lanternAt_modLantern_same (h := h.1)]
    exact getD_modify_same _ _ _ _ h.2
  | system n => exact getD_modify_same _ _ _ _ h

theorem chanAt_modChan_other {e : Chan} (h : e ≠ c) : chanAt (modChan s c f) e = chanAt s e := by
  cases c with
  | lantern l k =>
    cases e with
    | lantern l' k' =>
      unfold chanAt modChan
      dsimp only
      rw [lanternAt_modLantern]
      split
      next here =>
        refine getD_modify_other _ _ _ fun hk => h ?_
        rw [here.1, hk]
      next => rfl
    | system n => rfl
  | system n =>
    cases e with
    | lantern l' k' => rfl
    | system n' => exact getD_modify_other _ _ _ fun hn => h (congrArg Chan.system hn)

/-! ### Only a channel changes -/

/-- What of a lantern is neither its channels nor what the beacon counts. -/
def besideChannels (x : Lantern) : Lantern := { x with
  dma := []
  beacon := [] }

/-- The module without its lanterns and its system channels. -/
def outsideChannels (s : State) : State := { s with
  lanterns := []
  sysChans := [] }

/-- Nothing but channel c and the beacon counters changes. -/
structure OnlyChan (s t : State) (c : Chan) : Prop where
  others : ∀ e, e ≠ c → chanAt t e = chanAt s e
  lantern : ∀ l, besideChannels (lanternAt t l) = besideChannels (lanternAt s l)
  outside : outsideChannels t = outsideChannels s
  there : ChanThere s c → ChanThere t c

theorem OnlyChan.trans (h : OnlyChan s t c) (h' : OnlyChan t u c) : OnlyChan s u c :=
  ⟨fun e he => (h'.others e he).trans (h.others e he), fun l => (h'.lantern l).trans (h.lantern l), h'.outside.trans h.outside,
    h'.there ∘ h.there⟩

theorem onlyChan_modChan : OnlyChan s (modChan s c f) c := by
  refine ⟨fun e he => chanAt_modChan_other he, fun l => ?_, ?_, fun h => ?_⟩
  · cases c with
    | lantern l' k => exact lanternAt_modLantern_pi besideChannels _ _ _ fun _ => rfl
    | system n => rfl
  · cases c <;> rfl
  · cases c with
    | lantern l k =>
      refine ⟨(List.length_modify ..).symm ▸ h.1, ?_⟩
      have count := lanternAt_modLantern_pi (s := s) (List.length ∘ Lantern.dma) l l (fun x => { x with dma := x.dma.modify k f })
        fun x => List.length_modify ..
      exact lt_of_lt_of_eq h.2 count.symm
    | system n => exact lt_of_lt_of_eq h (List.length_modify ..).symm

theorem onlyChan_bumpBeacon {l k i n : Nat} : OnlyChan s (bumpBeacon s l i n) (.lantern l k) := by
  have dma : ∀ l', (lanternAt (bumpBeacon s l i n) l').dma = (lanternAt s l').dma :=
    fun l' => lanternAt_modLantern_pi Lantern.dma _ _ _ fun _ => rfl
  refine ⟨fun e _ => ?_, fun l => lanternAt_modLantern_pi besideChannels _ _ _ fun _ => rfl, rfl, fun h => ?_⟩
  · cases e with
    | lantern l' k' => exact congrArg (fun cs : List DmaChan => cs.getD k' DmaChan.reset) (dma l')
    | system n => rfl
  · exact ⟨(List.length_modify ..).symm ▸ h.1, (dma l).symm ▸ h.2⟩

/-! ### Retirement (R186, R195, R337) -/

theorem onlyChan_dmaRetire : OnlyChan s (dmaRetire s c) c := by
  cases c with
  | lantern l k => exact OnlyChan.trans (onlyChan_modChan (c := .lantern l k)) onlyChan_bumpBeacon
  | system n => exact onlyChan_modChan (c := .system n)

/-- A channel with a descriptor more counted as retired. -/
def retired (x : DmaChan) : DmaChan := { x with counters := bump x.counters 0 1 }

theorem chanAt_bumpBeacon {l i n : Nat} (e : Chan) : chanAt (bumpBeacon s l i n) e = chanAt s e := by
  cases e with
  | lantern l' k => exact congrArg (fun cs : List DmaChan => cs.getD k DmaChan.reset) (lanternAt_modLantern_pi Lantern.dma _ _ _ fun _ => rfl)
  | system n => rfl

theorem chanAt_dmaRetire (h : ChanThere s c) : chanAt (dmaRetire s c) c = retired (chanAt s c) := by
  cases c with
  | lantern l k => exact (chanAt_bumpBeacon _).trans (chanAt_modChan h)
  | system n => exact chanAt_modChan h

/-- RetireCounted as retired: on a lantern's channel, its beacon's counter 2 advances. -/
def RetireCounted (s t : State) : Chan → Prop
  | .lantern l _ => (lanternAt t l).beacon = (lanternAt s l).beacon.modify 2 (fun n => (n + 1) % 2 ^ 32)
  | .system _ => True

theorem beacon_modChan (l : Nat) : (lanternAt (modChan s c f) l).beacon = (lanternAt s l).beacon := by
  cases c with
  | lantern l' k => exact lanternAt_modLantern_pi Lantern.beacon _ _ _ fun _ => rfl
  | system n => rfl

theorem counted_dmaRetire (h : ChanThere s c) : RetireCounted s (dmaRetire s c) c := by
  cases c with
  | lantern l k =>
    have beacon : (lanternAt (bumpChan s (.lantern l k) 0 1) l).beacon = (lanternAt s l).beacon := beacon_modChan l
    show (lanternAt (bumpBeacon _ l 2 1) l).beacon = _
    have there : l < (bumpChan s (.lantern l k) 0 1).lanterns.length := (onlyChan_modChan.there h).1
    rw [bumpBeacon, lanternAt_modLantern_same (h := there)]
    dsimp only
    rw [beacon]
  | system n => trivial

/-- Beacon counters that stay before the retirement, or after it, do not disturb its count. -/
theorem RetireCounted.before (b : ∀ l, (lanternAt t l).beacon = (lanternAt s l).beacon) (h : RetireCounted t u c) : RetireCounted s u c := by
  cases c with
  | lantern l k => exact Eq.trans h (by rw [b])
  | system n => trivial

theorem RetireCounted.after (h : RetireCounted s t c) (b : ∀ l, (lanternAt u l).beacon = (lanternAt t l).beacon) : RetireCounted s u c := by
  cases c with
  | lantern l k => exact (b l).trans h
  | system n => trivial

/-! ### A descriptor that retires at issue -/

theorem onlyChan_retireStep : OnlyChan s (stepChan (dmaRetire s c) c) c := onlyChan_dmaRetire.trans onlyChan_modChan

theorem chanAt_retireStep (h : ChanThere s c) : chanAt (stepChan (dmaRetire s c) c) c = nextDesc (retired (chanAt s c)) := by
  rw [stepChan, chanAt_modChan (onlyChan_dmaRetire.there h), chanAt_dmaRetire h]

theorem counted_retireStep (h : ChanThere s c) : RetireCounted s (stepChan (dmaRetire s c) c) c :=
  (counted_dmaRetire h).after fun l => beacon_modChan l

/-! ### What others see -/

/-- Neither another channel, nor a vector engine, a lens queue, time, power, boot or a shore core changes. -/
def ChanOthers (s t : State) (c : Chan) : Prop :=
  (∀ e, e ≠ c → chanAt t e = chanAt s e) ∧
  (∀ l, (lanternAt t l).vec = (lanternAt s l).vec ∧ (lanternAt t l).lensQ = (lanternAt s l).lensQ) ∧ t.time = s.time ∧
  t.power = s.power ∧ t.boot = s.boot ∧ t.shore = s.shore

/-- Nor does memory, a mooring, the host, the Keeper or the router. -/
def ChanQuiet (s t : State) (c : Chan) : Prop :=
  ChanOthers s t c ∧ t.mem = s.mem ∧ t.poison = s.poison ∧ t.moorings = s.moorings ∧ t.host = s.host ∧ t.keeper = s.keeper ∧
    t.router = s.router

theorem ChanOthers.trans (h : ChanOthers s t c) (h' : ChanOthers t u c) : ChanOthers s u c := by
  obtain ⟨chans, lanterns, time, power, boot, shore⟩ := h
  obtain ⟨chans', lanterns', time', power', boot', shore'⟩ := h'
  exact ⟨fun e he => (chans' e he).trans (chans e he),
    fun l => ⟨(lanterns' l).1.trans (lanterns l).1, (lanterns' l).2.trans (lanterns l).2⟩,
    time'.trans time, power'.trans power, boot'.trans boot, shore'.trans shore⟩

theorem ChanQuiet.trans (h : ChanQuiet s t c) (h' : ChanQuiet t u c) : ChanQuiet s u c := by
  obtain ⟨others, mem, poison, moorings, host, keeper, router⟩ := h
  obtain ⟨others', mem', poison', moorings', host', keeper', router'⟩ := h'
  exact ⟨others.trans others', mem'.trans mem, poison'.trans poison, moorings'.trans moorings, host'.trans host,
    keeper'.trans keeper, router'.trans router⟩

theorem OnlyChan.part (h : OnlyChan s t c) {α : Type} (π : State → α) (hπ : ∀ s, π (outsideChannels s) = π s) : π t = π s := by
  rw [← hπ t, h.outside, hπ s]

theorem OnlyChan.lanternPart (h : OnlyChan s t c) {α : Type} (π : Lantern → α) (hπ : ∀ x, π (besideChannels x) = π x) (l : Nat) :
    π (lanternAt t l) = π (lanternAt s l) := by
  rw [← hπ (lanternAt t l), h.lantern l, hπ]

theorem OnlyChan.quiet (h : OnlyChan s t c) : ChanQuiet s t c :=
  ⟨⟨h.others, fun l => ⟨h.lanternPart Lantern.vec (fun _ => rfl) l, h.lanternPart Lantern.lensQ (fun _ => rfl) l⟩,
    h.part State.time fun _ => rfl, h.part State.power fun _ => rfl, h.part State.boot fun _ => rfl,
    h.part State.shore fun _ => rfl⟩, h.part State.mem fun _ => rfl, h.part State.poison fun _ => rfl,
    h.part State.moorings fun _ => rfl, h.part State.host fun _ => rfl, h.part State.keeper fun _ => rfl,
    h.part State.router fun _ => rfl⟩

/-- Units that stay leave every channel and lantern as it is. -/
theorem chanAt_of_units (h : SameUnits s t) (e : Chan) : chanAt t e = chanAt s e := by
  obtain ⟨-, -, -, lanterns, -, sysChans, -⟩ := h
  unfold chanAt lanternAt
  rw [lanterns, sysChans]

theorem chanOthers_of_units (h : SameUnits s t) : ChanOthers s t c := by
  have ⟨power, boot, _, _, _, _, time, shore⟩ := h
  exact ⟨fun e _ => chanAt_of_units h e, fun l => by rw [lanternAt_of_units h]; exact ⟨rfl, rfl⟩, time, power, boot, shore⟩

end ChannelRules

end Sys2Proof.Machine
end

section
/-! PROOFS. Bad descriptors, and the copies of commands that a system channel settles (O14, R171, R185 to R191). -/

namespace Sys2Proof.Machine

section BadDescriptors

variable {s t u : State} {c : Chan} {p : DmaProg} {d : DmaDesc} {want : DmaDesc → Bool} {act : State → DmaProg → DmaDesc → State}

/-! ### Issue (R172, R186) -/

/-- A descriptor at the head of a channel that is not held issues. -/
theorem issueDma_head (hh : chanHead (chanAt s c) = some (p, d)) (hlive : chanLive s c = true)
    (ho : p.priv = true ∨ (chanAt s c).mode = .normal) (hd : want d = true) (hw : (chanAt s c).waiting = false)
    (hs : (chanAt s c).signalling = false) : issueDma s c want act = act s p d := by
  unfold issueDma
  rw [hh]
  have mode : (p.priv || decide ((chanAt s c).mode = .normal)) = true := by simpa using ho
  simp [hlive, mode, hd, hw, hs]

/-- Tenant work waits while its channel is in another mode than NORMAL. -/
theorem issueDma_closed (hh : chanHead (chanAt s c) = some (p, d)) (hp : p.priv = false) (hm : (chanAt s c).mode ≠ .normal) :
    issueDma s c want act = s := by
  unfold issueDma
  rw [hh]
  simp [hp, hm]

theorem queue_of_head {x : DmaChan} (hh : chanHead x = some (p, d)) : x.queue ≠ [] := by
  intro empty
  rw [chanHead, empty] at hh
  cases hh

/-! ### The copy of a command ends (R171, R190, R191) -/

theorem finishOp_mem (f tag status flags detail : Nat) (h : HostRings s) :
    (finishOp s f tag status flags detail).mem = s.mem ∧ (finishOp s f tag status flags detail).poison = s.poison := by
  unfold finishOp
  split
  · exact ⟨rfl, rfl⟩
  · dsimp only
    split
    · obtain ⟨-, -, -, keeps⟩ := outward_tellNode (s := dropOp s f tag) (f / 64 - 1)
        (.forwardAnswer (f % 64) tag status flags detail (mooringDaymark s _))
      exact ⟨(keeps h).1, (keeps h).2.1⟩
    · obtain ⟨-, -, -, keeps⟩ := outward_postRecord (s := dropOp s f tag) f _ (some tag) (completionNat tag _ status flags _ 0 _ detail)
      exact ⟨(keeps h).1, (keeps h).2.1⟩

theorem settleCopy_units : SameUnits s (settleCopy s c) := by
  unfold settleCopy
  split
  · exact SameUnits.refl s
  · dsimp only
    split
    · exact SameUnits.refl s
    · split
      · exact SameUnits.refl s
      · exact finishOp_units ..

theorem settleCopy_mem (h : HostRings s) : (settleCopy s c).mem = s.mem ∧ (settleCopy s c).poison = s.poison := by
  unfold settleCopy
  split
  · exact ⟨rfl, rfl⟩
  · dsimp only
    split
    · exact ⟨rfl, rfl⟩
    · split
      · exact ⟨rfl, rfl⟩
      · exact finishOp_mem _ _ _ _ _ h

/-- A channel with work in hand settles no copy. -/
theorem settleCopy_busy (h : (chanAt s c).queue ≠ [] ∨ (chanAt s c).flights ≠ []) : settleCopy s c = s := by
  unfold settleCopy
  cases c with
  | lantern l k => rfl
  | system n =>
    have busy : ((chanAt s (.system n)).queue.isEmpty && (chanAt s (.system n)).flights.isEmpty) = false := by
      rw [Bool.and_eq_false_iff, List.isEmpty_eq_false_iff, List.isEmpty_eq_false_iff]
      exact h
    simp only [busy, Bool.not_false, if_true]

/-! ### A bad descriptor (R187) -/

theorem dmaBad_own {r : DescRef} {cause addr : Nat} (h : chanLantern c = none ∨ r.priv = true) :
    dmaBad s c r cause addr = noteCmdBad (bumpChan s c cause 1) c cause := by
  cases c with
  | lantern l k =>
    have priv : r.priv = true := h.resolve_left nofun
    simp only [dmaBad, chanLantern, priv, if_true]
  | system n => rfl

/-- The fault flag of a lantern set, and the moorings' records changed. -/
def markFault (s : State) (l : Nat) (ms : List Mooring) : State := { setFault s l with moorings := ms }

/-- For tenant work the fault flag is set, the step's record says BAD and the event is raised. -/
theorem dmaBad_tenant {l k : Nat} {r : DescRef} {cause addr : Nat} (h : r.priv = false) (hc : cause ≠ causeCounter) :
    ∃ ms more, dmaBad s (.lantern l k) r cause addr =
      lanternEvent (markFault (bumpChan s (.lantern l k) cause 1) l ms) evDma l l cause more := by
  simp only [dmaBad, chanLantern, h, if_neg hc, Bool.false_eq_true, if_false]
  split
  · split
    · exact ⟨_, _, rfl⟩
    · exact ⟨_, _, rfl⟩
  · exact ⟨_, _, rfl⟩

/-- What a bad descriptor does, before it retires. -/
structure SeenBad (s t : State) (c : Chan) (priv : Bool) (cause : Nat) : Prop where
  others : ChanOthers s t c
  beacons : ∀ l, (lanternAt t l).beacon = (lanternAt s l).beacon
  there : ChanThere t c
  chan : ∃ n b, chanAt t c = { chanAt s c with
      counters := bump (chanAt s c).counters cause 1
      cmdBad := n
      cmdAddr := b } ∧
    (chanLantern c = none ∨ priv = true → n = (chanAt s c).cmdBad + 1 ∧ (cause = causeAddress → b = true))
  memory : HostRings s → t.mem = s.mem ∧ t.poison = s.poison ∧ HostRings t
  fault : ∀ l k, c = .lantern l k → priv = false → (lanternAt t l).fault = true

theorem hostRings_onlyChan (h : OnlyChan s t c) (rings : HostRings s) : HostRings t :=
  hostRings_funcs (h.part State.funcs fun _ => rfl) rings

/-- The Keeper's own work: counted for its command. -/
theorem seenBad_own {r : DescRef} {cause addr : Nat} (ht : ChanThere s c) (h : chanLantern c = none ∨ r.priv = true) :
    SeenBad s (dmaBad s c r cause addr) c r.priv cause := by
  rw [dmaBad_own h]
  have only : OnlyChan s (noteCmdBad (bumpChan s c cause 1) c cause) c := onlyChan_modChan.trans onlyChan_modChan
  have there : ChanThere (bumpChan s c cause 1) c := onlyChan_modChan.there ht
  refine ⟨only.quiet.1, fun l => (beacon_modChan l).trans (beacon_modChan l), only.there ht,
    ⟨(chanAt s c).cmdBad + 1, (chanAt s c).cmdAddr || decide (cause = causeAddress), ?_, fun _ => ⟨rfl, fun hc => ?_⟩⟩,
    fun rings => ⟨only.quiet.2.1, only.quiet.2.2.1, hostRings_onlyChan only rings⟩, fun l k hc hp => ?_⟩
  · rw [noteCmdBad, chanAt_modChan there, bumpChan, chanAt_modChan ht]
  · rw [hc, decide_eq_true rfl, Bool.or_true]
  · subst hc
    rw [hp] at h
    exact absurd h (by simp [chanLantern])

section Fault

variable {l k : Nat} {ms : List Mooring}

theorem fault_markFault (h : l < s.lanterns.length) : (lanternAt (markFault s l ms) l).fault = true :=
  congrArg Lantern.fault (lanternAt_modLantern_same (s := s) l (fun x => { x with fault := true }) h)

theorem lanternPart_markFault {α : Type} (π : Lantern → α) (hπ : ∀ x, π { x with fault := true } = π x) (j : Nat) :
    π (lanternAt (markFault s l ms) j) = π (lanternAt s j) := lanternAt_modLantern_pi π l j _ hπ

theorem chanAt_markFault (e : Chan) : chanAt (markFault s l ms) e = chanAt s e := by
  cases e with
  | lantern l' k =>
    exact congrArg (fun cs : List DmaChan => cs.getD k DmaChan.reset) (lanternPart_markFault Lantern.dma (fun _ => rfl) l')
  | system n => rfl

theorem chanOthers_markFault : ChanOthers s (markFault s l ms) c :=
  ⟨fun e _ => chanAt_markFault e, fun j => ⟨lanternPart_markFault Lantern.vec (fun _ => rfl) j,
    lanternPart_markFault Lantern.lensQ (fun _ => rfl) j⟩, rfl, rfl, rfl, rfl⟩

theorem chanThere_markFault (h : ChanThere s c) : ChanThere (markFault s l ms) c := by
  cases c with
  | lantern l' k =>
    have dma : (lanternAt (markFault s l ms) l').dma = (lanternAt s l').dma := lanternPart_markFault Lantern.dma (fun _ => rfl) l'
    exact ⟨lt_of_lt_of_eq h.1 (List.length_modify ..).symm, dma.symm ▸ h.2⟩
  | system n => exact h

theorem chanThere_of_units (u : SameUnits s t) (h : ChanThere s c) : ChanThere t c := by
  have ⟨_, _, _, lanterns, _, sysChans, _⟩ := u
  cases c with
  | lantern l k => exact ⟨lanterns.symm ▸ h.1, (lanternAt_of_units u l).symm ▸ h.2⟩
  | system n => exact lt_of_lt_of_eq h (congrArg List.length sysChans.symm)

theorem lanternEvent_memory (code l unit detail : Nat) (more : List Nat) (rings : HostRings s) :
    (lanternEvent s code l unit detail more).mem = s.mem ∧ (lanternEvent s code l unit detail more).poison = s.poison ∧
    HostRings (lanternEvent s code l unit detail more) := by
  obtain ⟨e, -, -, -, -, -, -, keeps⟩ := raiseEventIn_outward (s := s) (.lantern l) code (lanternMooring s l) unit detail more
  obtain ⟨mem, poison, -, rings'⟩ := keeps rings
  exact ⟨mem, poison, rings'⟩

/-- Tenant work: fault flag and event. -/
theorem seenBad_tenant {r : DescRef} {cause addr : Nat} (ht : ChanThere s (.lantern l k)) (h : r.priv = false)
    (hc : cause ≠ causeCounter) : SeenBad s (dmaBad s (.lantern l k) r cause addr) (.lantern l k) r.priv cause := by
  obtain ⟨ms, more, runs⟩ := dmaBad_tenant (s := s) (l := l) (k := k) (addr := addr) h hc
  rw [runs]
  have only : OnlyChan s (bumpChan s (.lantern l k) cause 1) (.lantern l k) := onlyChan_modChan
  have units := lanternEvent_units (markFault (bumpChan s (.lantern l k) cause 1) l ms) evDma l l cause more
  have there := only.there ht
  refine ⟨only.quiet.1.trans (chanOthers_markFault.trans (chanOthers_of_units units)), fun j => ?_,
    chanThere_of_units units (chanThere_markFault there), ⟨(chanAt s (.lantern l k)).cmdBad, (chanAt s (.lantern l k)).cmdAddr, ?_, ?_⟩,
    fun rings => ?_, fun l' k' hc _ => ?_⟩
  · rw [lanternAt_of_units units]
    exact (lanternPart_markFault Lantern.beacon (fun _ => rfl) j).trans (beacon_modChan j)
  · rw [chanAt_of_units units, chanAt_markFault, bumpChan, chanAt_modChan ht]
  · rw [h]
    simp [chanLantern]
  · obtain ⟨mem, poison, rings'⟩ := lanternEvent_memory (s := markFault (bumpChan s (.lantern l k) cause 1) l ms) evDma l l cause more
      (hostRings_funcs (s := bumpChan s (.lantern l k) cause 1) rfl (hostRings_onlyChan only rings))
    exact ⟨mem.trans only.quiet.2.1, poison.trans only.quiet.2.2.1, rings'⟩
  · cases hc
    rw [lanternAt_of_units units, fault_markFault there.1]

end Fault

theorem seenBad {r : DescRef} {cause addr : Nat} (ht : ChanThere s c) (hc : cause ≠ causeCounter) :
    SeenBad s (dmaBad s c r cause addr) c r.priv cause := by
  cases c with
  | system n => exact seenBad_own ht (.inl rfl)
  | lantern l k =>
    cases hp : r.priv with
    | true => exact hp ▸ seenBad_own ht (.inr hp)
    | false => exact hp ▸ seenBad_tenant ht hp hc

/-! ### Bad at issue -/

/-- What a descriptor that is bad at issue leaves: counted by cause and as retired, nothing performed. -/
def BadGives (s t : State) (c : Chan) (p : DmaProg) (cause : Nat) : Prop :=
  RetireCounted s t c ∧ t.mem = s.mem ∧ t.poison = s.poison ∧ ChanOthers s t c ∧
  (∃ n b, chanAt t c = nextDesc { chanAt s c with
      counters := bump (bump (chanAt s c).counters cause 1) 0 1
      cmdBad := n
      cmdAddr := b } ∧
    (chanLantern c = none ∨ p.priv = true → n = (chanAt s c).cmdBad + 1 ∧ (cause = causeAddress → b = true))) ∧
  (∀ l k, c = .lantern l k → p.priv = false → (lanternAt t l).fault = true)

theorem badAtIssue_gives {tensor cause addr : Nat} (ht : ChanThere s c) (rings : HostRings s) (hc : cause ≠ causeCounter) :
    BadGives s (badAtIssue s c p tensor cause addr) c p cause ∧ HostRings (badAtIssue s c p tensor cause addr) := by
  obtain ⟨others, beacons, there, ⟨n, b, chan, noted⟩, memory, fault⟩ :=
    seenBad (r := headRef (chanAt s c) p tensor) (addr := addr) ht hc
  obtain ⟨mem, poison, rings'⟩ := memory rings
  have only : OnlyChan (dmaBad s c (headRef (chanAt s c) p tensor) cause addr) (badAtIssue s c p tensor cause addr) c := onlyChan_retireStep
  obtain ⟨others', mem', poison', -⟩ := only.quiet
  refine ⟨⟨(counted_retireStep there).before beacons, mem'.trans mem, poison'.trans poison, others.trans others', ⟨n, b, ?_, noted⟩,
    fun l k hl hp => ?_⟩, hostRings_onlyChan only rings'⟩
  · rw [badAtIssue, chanAt_retireStep there, chan]
    rfl
  · rw [only.lanternPart Lantern.fault (fun _ => rfl) l]
    exact fault l k hl hp

/-- Settling a copy changes nothing of it. -/
theorem BadGives.settle {cause : Nat} (h : BadGives s t c p cause) (rings : HostRings t) : BadGives s (settleCopy t c) c p cause := by
  obtain ⟨counted, mem, poison, others, chan, fault⟩ := h
  have units : SameUnits t (settleCopy t c) := settleCopy_units
  obtain ⟨mem', poison'⟩ := settleCopy_mem (c := c) rings
  refine ⟨counted.after fun l => by rw [lanternAt_of_units units], mem'.trans mem, poison'.trans poison,
    others.trans (chanOthers_of_units units), ?_, fun l k hl hp => ?_⟩
  · rw [chanAt_of_units units]
    exact chan
  · rw [lanternAt_of_units units]
    exact fault l k hl hp

/-- The bad descriptors of MOVE and MOVE3 (R174, R178, R184, R185). -/
theorem bad_move {m : MoveDesc} (ht : ChanThere s c) (rings : HostRings s) (hh : chanHead (chanAt s c) = some (p, .move m))
    (hlive : chanLive s c = true) (ho : p.priv = true ∨ (chanAt s c).mode = .normal) (hw : (chanAt s c).waiting = false)
    (hs : (chanAt s c).signalling = false) (hm : moveCheck c m = false) :
    ∃ t, exec (.move c) s = .next t ∧ BadGives s t c p causeField := by
  obtain ⟨gives, rings'⟩ := badAtIssue_gives (p := p) (tensor := m.tensor) (cause := causeField) (addr := 0) ht rings (by decide)
  refine ⟨_, ?_, gives.settle rings'⟩
  show execMove c s = _
  rw [execMove, issueDma_head hh hlive ho rfl hw hs]
  simp only [hm, Bool.not_false, if_true]

theorem bad_other {n : Nat} (ht : ChanThere s c) (rings : HostRings s) (hh : chanHead (chanAt s c) = some (p, .other n))
    (hlive : chanLive s c = true) (ho : p.priv = true ∨ (chanAt s c).mode = .normal) (hw : (chanAt s c).waiting = false)
    (hs : (chanAt s c).signalling = false) : ∃ t, exec (.move c) s = .next t ∧ BadGives s t c p causeField := by
  obtain ⟨gives, rings'⟩ := badAtIssue_gives (p := p) (tensor := 0) (cause := causeField) (addr := 0) ht rings (by decide)
  refine ⟨_, ?_, gives.settle rings'⟩
  show execMove c s = _
  rw [execMove, issueDma_head hh hlive ho rfl hw hs]

theorem bad_span {m : MoveDesc} (ht : ChanThere s c) (rings : HostRings s) (hh : chanHead (chanAt s c) = some (p, .move m))
    (hlive : chanLive s c = true) (ho : p.priv = true ∨ (chanAt s c).mode = .normal) (hw : (chanAt s c).waiting = false)
    (hs : (chanAt s c).signalling = false) (hm : moveCheck c m = true)
    (hspan : spansOk s (chanCtx c p.priv) (.move (packLimited s c (absMove (chanAt s c) m))) = false) :
    ∃ t, exec (.move c) s = .next t ∧ BadGives s t c p causeAddress := by
  obtain ⟨gives, rings'⟩ := badAtIssue_gives (p := p) (tensor := m.tensor) (cause := causeAddress)
    (addr := spanAddr s (chanCtx c p.priv) (.move (packLimited s c (absMove (chanAt s c) m)))) ht rings (by decide)
  refine ⟨_, ?_, gives.settle rings'⟩
  show execMove c s = _
  rw [execMove, issueDma_head hh hlive ho rfl hw hs]
  simp only [hm, hspan, Bool.not_true, Bool.not_false, Bool.false_eq_true, if_false, if_true]

theorem bad_move3_mode {m : Move3Desc} (ht : ChanThere s c) (rings : HostRings s) (hh : chanHead (chanAt s c) = some (p, .move3 m))
    (hlive : chanLive s c = true) (hw : (chanAt s c).waiting = false) (hs : (chanAt s c).signalling = false)
    (hm : (chanAt s c).mode = .normal) : ∃ t, exec (.move3 c) s = .next t ∧ BadGives s t c p causeMode := by
  refine ⟨_, ?_, (badAtIssue_gives (p := p) (tensor := 0) (cause := causeMode) (addr := 0) ht rings (by decide)).1⟩
  show execMove3 c s = _
  rw [execMove3, issueDma_head hh hlive (.inr hm) rfl hw hs]
  simp only [hm, if_true]

theorem bad_move3_field {m : Move3Desc} (ht : ChanThere s c) (rings : HostRings s) (hh : chanHead (chanAt s c) = some (p, .move3 m))
    (hlive : chanLive s c = true) (ho : p.priv = true ∨ (chanAt s c).mode = .normal) (hw : (chanAt s c).waiting = false)
    (hs : (chanAt s c).signalling = false) (hm : (chanAt s c).mode ≠ .normal) (hf : move3Check m = false) :
    ∃ t, exec (.move3 c) s = .next t ∧ BadGives s t c p causeField := by
  refine ⟨_, ?_, (badAtIssue_gives (p := p) (tensor := 0) (cause := causeField) (addr := 0) ht rings (by decide)).1⟩
  show execMove3 c s = _
  rw [execMove3, issueDma_head hh hlive ho rfl hw hs]
  simp only [hm, hf, if_false, Bool.not_false, if_true]

end BadDescriptors

end Sys2Proof.Machine
end

section
/-! PROOFS. LOOP, WAIT and SIGNAL on a DMA channel (O14, R172, R181 to R183). -/

namespace Sys2Proof.Machine

section ChannelWork

variable {s : State} {c : Chan} {p : DmaProg}

/-! ### Tenant work out of NORMAL mode (R172) -/

theorem exec_closed {d : DmaDesc} (hh : chanHead (chanAt s c) = some (p, d)) (hp : p.priv = false) (hm : (chanAt s c).mode ≠ .normal) :
    ∀ i ∈ [Instr.move c, .move3 c, .loop c, .dmaWait c, .signal c], exec i s = .next s := by
  have closed {want act} : issueDma s c want act = s := issueDma_closed hh hp hm
  simp only [List.forall_mem_cons, List.not_mem_nil, false_implies, implies_true, and_true]
  refine ⟨?_, congrArg _ closed, congrArg _ closed, congrArg _ closed, congrArg _ closed⟩
  exact congrArg _ ((congrArg (settleCopy · c) closed).trans (settleCopy_busy (.inl (queue_of_head hh))))

/-! ### LOOP (R181) -/

section Loop

variable {target count ladv iadv : Nat} {adv : List Nat} {wadv : Int}

theorem execLoop_again (hh : chanHead (chanAt s c) = some (p, .loop target count adv ladv wadv iadv true)) (hlive : chanLive s c = true)
    (ho : p.priv = true ∨ (chanAt s c).mode = .normal) (hw : (chanAt s c).waiting = false) (hs : (chanAt s c).signalling = false)
    (ht : target < (chanAt s c).pc) (hc : tget 0 (chanAt s c).reps (chanAt s c).pc + 1 < count) :
    exec (.loop c) s = .next (dmaRetire (modChan s c (fun x => { advanceChan x adv ladv wadv iadv 1 with
      reps := tput 0 x.reps x.pc (tget 0 (chanAt s c).reps (chanAt s c).pc + 1)
      pc := target })) c) := by
  show execLoop c s = _
  rw [execLoop, issueDma_head hh hlive ho rfl hw hs]
  have hpos : count ≠ 0 := by omega
  simp only [Bool.not_true, Bool.false_eq_true, hpos, Nat.not_le.2 ht, or_self, if_false, if_pos hc]

theorem execLoop_over (hh : chanHead (chanAt s c) = some (p, .loop target count adv ladv wadv iadv true)) (hlive : chanLive s c = true)
    (ho : p.priv = true ∨ (chanAt s c).mode = .normal) (hw : (chanAt s c).waiting = false) (hs : (chanAt s c).signalling = false)
    (ht : target < (chanAt s c).pc) (hpos : 0 < count) (hc : count ≤ tget 0 (chanAt s c).reps (chanAt s c).pc + 1) :
    exec (.loop c) s = .next (stepChan (dmaRetire (modChan s c (fun x =>
      { restoreChan x adv ladv wadv iadv (tget 0 (chanAt s c).reps (chanAt s c).pc) with reps := tput 0 x.reps x.pc 0 })) c) c) := by
  show execLoop c s = _
  rw [execLoop, issueDma_head hh hlive ho rfl hw hs]
  simp only [Bool.not_true, Bool.false_eq_true, Nat.ne_of_gt hpos, Nat.not_le.2 ht, or_self, if_false, Nat.not_lt.2 hc]

/-- WOFF holds a sum as a signed word of 32 bits. -/
theorem sext_wrapNat (z : Int) : sext 32 (wrapNat 32 z) = (BitVec.ofInt 32 z).toInt := by
  rw [sext_eq_toInt (by norm_num)]
  congr 1
  refine BitVec.eq_of_toNat_eq ?_
  rw [BitVec.toNat_ofNat, BitVec.toNat_ofInt, wrapNat]
  exact Nat.mod_eq_of_lt (by omega)

theorem loop_again (there : ChanThere s c) (hh : chanHead (chanAt s c) = some (p, .loop target count adv ladv wadv iadv true))
    (hlive : chanLive s c = true) (ho : p.priv = true ∨ (chanAt s c).mode = .normal) (hw : (chanAt s c).waiting = false)
    (hs : (chanAt s c).signalling = false) (ht : target < (chanAt s c).pc)
    (hc : tget 0 (chanAt s c).reps (chanAt s c).pc + 1 < count) :
    ∃ t, exec (.loop c) s = .next t ∧ RetireCounted s t c ∧ ChanQuiet s t c ∧ chanAt t c = { chanAt s c with
      counters := bump (chanAt s c).counters 0 1
      base := (List.range 4).map (fun k => baseReg (chanAt s c) k + adv.getD k 0)
      loff := ((chanAt s c).loff + ladv) % 2 ^ 13
      woff := (BitVec.ofInt 32 ((chanAt s c).woff + wadv)).toInt
      ioff := ((chanAt s c).ioff + iadv) % 2 ^ 64
      reps := tput 0 (chanAt s c).reps (chanAt s c).pc (tget 0 (chanAt s c).reps (chanAt s c).pc + 1)
      pc := target } := by
  refine ⟨_, execLoop_again hh hlive ho hw hs ht hc, (counted_dmaRetire (onlyChan_modChan.there there)).before fun l => beacon_modChan l,
    onlyChan_modChan.quiet.trans onlyChan_dmaRetire.quiet, ?_⟩
  rw [chanAt_dmaRetire (onlyChan_modChan.there there), chanAt_modChan there]
  simp only [retired, advanceChan, sext_wrapNat, Nat.cast_one, one_mul]

theorem loop_over (there : ChanThere s c) (hh : chanHead (chanAt s c) = some (p, .loop target count adv ladv wadv iadv true))
    (hlive : chanLive s c = true) (ho : p.priv = true ∨ (chanAt s c).mode = .normal) (hw : (chanAt s c).waiting = false)
    (hs : (chanAt s c).signalling = false) (ht : target < (chanAt s c).pc) (hpos : 0 < count)
    (hc : count ≤ tget 0 (chanAt s c).reps (chanAt s c).pc + 1) (n : Nat) (hn : n = tget 0 (chanAt s c).reps (chanAt s c).pc) :
    ∃ t, exec (.loop c) s = .next t ∧ RetireCounted s t c ∧ ChanQuiet s t c ∧ chanAt t c = nextDesc { chanAt s c with
      counters := bump (chanAt s c).counters 0 1
      base := (List.range 4).map (fun k => baseReg (chanAt s c) k - n * adv.getD k 0)
      loff := ((((chanAt s c).loff : Int) - n * ladv) % 2 ^ 13).toNat
      woff := (BitVec.ofInt 32 ((chanAt s c).woff - n * wadv)).toInt
      ioff := ((((chanAt s c).ioff : Int) - n * iadv) % 2 ^ 64).toNat
      reps := tput 0 (chanAt s c).reps (chanAt s c).pc 0 } := by
  subst hn
  refine ⟨_, execLoop_over hh hlive ho hw hs ht hpos hc, (counted_retireStep (onlyChan_modChan.there there)).before fun l => beacon_modChan l,
    onlyChan_modChan.quiet.trans onlyChan_retireStep.quiet, ?_⟩
  rw [chanAt_retireStep (onlyChan_modChan.there there), chanAt_modChan there]
  simp only [retired, restoreChan, sext_wrapNat]
  simp only [wrapNat, Nat.cast_mul, Nat.cast_pow, Nat.cast_ofNat]

end Loop

/-! ### WAIT (R182) -/

section Wait

variable {l k cnt : Nat} {passes : Bool} {value : Int}

theorem waitReady_iff : waitReady s (.lantern l k) passes cnt value = true ↔
    value + (chanAt s (.lantern l k)).woff ≤ (if passes then (lanternAt s l).passesRead else (lanternAt s l).events.getD cnt 0 : Nat) :=
  decide_eq_true_iff

theorem execDmaWait_head (hh : chanHead (chanAt s c) = some (p, .wait passes cnt value true)) (hlive : chanLive s c = true)
    (ho : p.priv = true ∨ (chanAt s c).mode = .normal) (hw : (chanAt s c).waiting = false) (hs : (chanAt s c).signalling = false) :
    exec (.dmaWait c) s = .next (if waitReady s c passes cnt value then stepChan (dmaRetire s c) c
      else modChan s c (fun x => { x with waiting := true })) := by
  show execDmaWait c s = _
  rw [execDmaWait, issueDma_head hh hlive ho rfl hw hs]
  simp only [Bool.not_true, Bool.false_eq_true, if_false]

theorem execDmaWaitSatisfied_held (hh : chanHead (chanAt s c) = some (p, .wait passes cnt value true)) (hlive : chanLive s c = true)
    (hw : (chanAt s c).waiting = true) :
    exec (.dmaWaitSatisfied c) s = .next (if waitReady s c passes cnt value then stepChan (dmaRetire s c) c else s) := by
  show execDmaWaitSatisfied c s = _
  simp only [execDmaWaitSatisfied, hw, hlive, hh, Bool.and_self, Bool.not_true, Bool.false_eq_true, if_false]

/-- A descriptor that does nothing but retire. -/
theorem retireStep_quiet (there : ChanThere s c) : RetireCounted s (stepChan (dmaRetire s c) c) c ∧
    ChanQuiet s (stepChan (dmaRetire s c) c) c ∧ chanAt (stepChan (dmaRetire s c) c) c = nextDesc (retired (chanAt s c)) :=
  ⟨counted_retireStep there, onlyChan_retireStep.quiet, chanAt_retireStep there⟩

end Wait

/-! ### SIGNAL (R183) -/

section Signal

variable {cnt inc lantern l : Nat}

theorem signal_issues (there : ChanThere s c) (hh : chanHead (chanAt s c) = some (p, .signal cnt inc lantern true))
    (hlive : chanLive s c = true) (ho : p.priv = true ∨ (chanAt s c).mode = .normal) (hcnt : cnt ≤ 11) (hinc : 0 < inc)
    (ht : signalTarget s c p.priv lantern = some l) (hw : (chanAt s c).waiting = false) (hs : (chanAt s c).signalling = false) :
    ∃ t, exec (.signal c) s = .next t ∧ ChanQuiet s t c ∧ chanAt t c = { chanAt s c with signalling := true } := by
  refine ⟨_, ?_, onlyChan_modChan.quiet, chanAt_modChan (f := fun x => { x with signalling := true }) there⟩
  show execSignal c s = _
  rw [execSignal, issueDma_head hh hlive ho rfl hw hs]
  simp only [Bool.not_true, Bool.false_eq_true, Nat.not_lt.2 hcnt, Nat.ne_of_gt hinc, ht, Option.isNone_some, or_self, if_false]

/-- While a write of an earlier descriptor of its program is awaited, a SIGNAL waits. -/
theorem signalStep_fenced (h : ∃ f ∈ (chanAt s c).flights, f.serial = (chanAt s c).serial ∧ (f.tags ≠ [] ∨ f.job.isSome = true)) :
    exec (.signalIncrement c) s = .next s := by
  obtain ⟨f, hf, same, open_⟩ := h
  have fenced : writesDone (chanAt s c) = false := by
    refine List.all_eq_false.2 ⟨f, hf, ?_⟩
    cases hj : f.job <;> simp_all
  show execSignalIncrement c s = _
  simp only [execSignalIncrement, signalStep, fenced, Bool.and_false, Bool.not_false, if_true]

theorem writesDone_of (h : ∀ f ∈ (chanAt s c).flights, f.serial ≠ (chanAt s c).serial ∨ f.tags = [] ∧ f.job = none) :
    writesDone (chanAt s c) = true := by
  refine List.all_eq_true.2 fun f hf => ?_
  obtain apart | ⟨tags, job⟩ := h f hf
  · simp [apart]
  · simp [tags, job]

/-- An event counter of a lantern set. -/
def setEvent (s : State) (l cnt v : Nat) : State := modLantern s l (fun y => { y with events := setAt y.events cnt v })

theorem lanternPart_setEvent {v : Nat} {α : Type} (π : Lantern → α) (hπ : ∀ x es, π { x with events := es } = π x) (j : Nat) :
    π (lanternAt (setEvent s l cnt v) j) = π (lanternAt s j) := lanternAt_modLantern_pi π l j _ fun x => hπ x _

theorem chanAt_setEvent {v : Nat} (e : Chan) : chanAt (setEvent s l cnt v) e = chanAt s e := by
  cases e with
  | lantern l' k =>
    exact congrArg (fun cs : List DmaChan => cs.getD k DmaChan.reset) (lanternPart_setEvent Lantern.dma (fun _ _ => rfl) l')
  | system n => rfl

theorem quiet_setEvent {v : Nat} : ChanQuiet s (setEvent s l cnt v) c :=
  ⟨⟨fun e _ => chanAt_setEvent e, fun j => ⟨lanternPart_setEvent Lantern.vec (fun _ _ => rfl) j,
    lanternPart_setEvent Lantern.lensQ (fun _ _ => rfl) j⟩, rfl, rfl, rfl, rfl⟩, rfl, rfl, rfl, rfl, rfl, rfl⟩

theorem chanThere_setEvent {v : Nat} (h : ChanThere s c) : ChanThere (setEvent s l cnt v) c := by
  cases c with
  | lantern l' k =>
    have dma : (lanternAt (setEvent s l cnt v) l').dma = (lanternAt s l').dma := lanternPart_setEvent Lantern.dma (fun _ _ => rfl) l'
    exact ⟨lt_of_lt_of_eq h.1 (List.length_modify ..).symm, dma.symm ▸ h.2⟩
  | system n => exact h

theorem signalStep_through (hh : chanHead (chanAt s c) = some (p, .signal cnt inc lantern true)) (hlive : chanLive s c = true)
    (ht : signalTarget s c p.priv lantern = some l) (hs : (chanAt s c).signalling = true) (hf : writesDone (chanAt s c) = true)
    (hv : (lanternAt s l).events.getD cnt 0 + inc < 2 ^ 32) : exec (.signalIncrement c) s =
      .next (stepChan (dmaRetire (setEvent s l cnt ((lanternAt s l).events.getD cnt 0 + inc)) c) c) := by
  show execSignalIncrement c s = _
  have cap : min ((lanternAt s l).events.getD cnt 0 + inc) (2 ^ 32 - 1) = (lanternAt s l).events.getD cnt 0 + inc := by omega
  simp only [execSignalIncrement, signalStep, hs, hlive, hf, Bool.and_self, Bool.not_true, Bool.false_eq_true, if_false, hh, ht,
    Nat.not_le.2 hv, cap]
  rfl

theorem signal_through (hi : s.Inv) (there : ChanThere s c) (hh : chanHead (chanAt s c) = some (p, .signal cnt inc lantern true))
    (hlive : chanLive s c = true) (hcnt : cnt ≤ 11) (ht : signalTarget s c p.priv lantern = some l)
    (hs : (chanAt s c).signalling = true)
    (hf : ∀ f ∈ (chanAt s c).flights, f.serial ≠ (chanAt s c).serial ∨ f.tags = [] ∧ f.job = none) (hl : l < 192)
    (hv : (lanternAt s l).events.getD cnt 0 + inc < 2 ^ 32) :
    ∃ t, exec (.signalIncrement c) s = .next t ∧ RetireCounted s t c ∧ ChanQuiet s t c ∧
      (lanternAt t l).events.getD cnt 0 = (lanternAt s l).events.getD cnt 0 + inc ∧
      (∀ k, k ≠ cnt → (lanternAt t l).events.getD k 0 = (lanternAt s l).events.getD k 0) ∧
      chanAt t c = nextDesc (retired (chanAt s c)) := by
  have lanterns : s.lanterns.length = 192 := hi.1.1.1
  obtain ⟨-, count, -⟩ := lanternOk_lanternAt (l := l) hi
  obtain ⟨counted, quiet, chan⟩ := retireStep_quiet (chanThere_setEvent (l := l) (cnt := cnt) (v := (lanternAt s l).events.getD cnt 0 + inc) there)
  have events : (lanternAt (stepChan (dmaRetire (setEvent s l cnt ((lanternAt s l).events.getD cnt 0 + inc)) c) c) l).events =
      setAt (lanternAt s l).events cnt ((lanternAt s l).events.getD cnt 0 + inc) := by
    rw [onlyChan_retireStep.lanternPart Lantern.events (fun _ => rfl) l, setEvent, lanternAt_modLantern_same (h := lanterns.symm ▸ hl)]
  refine ⟨_, signalStep_through hh hlive ht hs (writesDone_of hf) hv,
    counted.before fun j => lanternPart_setEvent Lantern.beacon (fun _ _ => rfl) j, quiet_setEvent.trans quiet, ?_, fun k hk => ?_, ?_⟩
  · rw [events]
    exact getD_modify_same _ _ _ _ (by omega)
  · rw [events]
    exact getD_modify_other _ _ _ hk
  · rw [chan, chanAt_setEvent]

end Signal

end ChannelWork

end Sys2Proof.Machine
end

section
/-! PROOFS. Retirement of a transfer and the stop of a channel (O14, R171, R186, R189 to R191). -/

namespace Sys2Proof.Machine

section Endings

variable {s t u : State} {c : Chan} {n : Nat} {o : LongOp}

/-! ### The command that a copy ends (R190, R191) -/

/-- A command whose copy system channel n runs. -/
def CopyOf (n : Nat) (o : LongOp) : Prop := ∃ start addr, o.kind = .copy n start addr

/-- A channel on which the copy of a command runs. -/
def Copying (s : State) (c : Chan) : Prop := ∃ n, c = .system n ∧ ∃ o ∈ s.keeper.ops, CopyOf n o

theorem opAt_dropOp (f tag : Nat) : opAt (dropOp s f tag) f tag = none := by
  refine List.find?_eq_none.2 fun o ho => ?_
  have kept := (List.mem_filter.1 ho).2
  intro named
  simp_all

theorem opAt_of_ops (h : t.keeper.ops = s.keeper.ops) (f tag : Nat) : opAt t f tag = opAt s f tag := by
  unfold opAt
  rw [h]

/-- An operation that is over is no longer outstanding. -/
theorem opAt_finishOp (f tag status flags detail : Nat) : opAt (finishOp s f tag status flags detail) f tag = none := by
  unfold finishOp
  split
  next h => exact h
  next =>
    dsimp only
    split
    · rw [opAt_of_ops (outward_tellNode _ _).books.1]
      exact opAt_dropOp f tag
    · rw [opAt_of_ops (outward_postRecord _ _ _ _).books.1]
      exact opAt_dropOp f tag

theorem settleCopy_uncopied (h : ¬ Copying s c) : settleCopy s c = s := by
  unfold settleCopy
  cases c with
  | lantern l k => rfl
  | system n =>
    dsimp only
    split
    · rfl
    · split
      next => rfl
      next o ho =>
        have copy := List.find?_some ho
        refine absurd ⟨n, rfl, o, List.mem_of_find?_eq_some ho, ?_⟩ h
        cases hk : o.kind <;> simp_all [CopyOf]

/-- With nothing left in hand, a copy ends its command. -/
theorem settleCopy_ends (hq : (chanAt s (.system n)).queue = []) (hf : (chanAt s (.system n)).flights = []) (ho : o ∈ s.keeper.ops)
    (hc : CopyOf n o) : ∃ q ∈ s.keeper.ops, CopyOf n q ∧ ∃ status flags detail,
      settleCopy s (.system n) = finishOp s q.func q.tag status flags detail := by
  obtain ⟨k, a, hk⟩ := hc
  unfold settleCopy
  simp only [hq, hf, List.isEmpty_nil, Bool.and_self, Bool.not_true, Bool.false_eq_true, if_false]
  split
  next none =>
    have missed := List.find?_eq_none.1 none o ho
    simp [hk] at missed
  next q hq' =>
    refine ⟨q, List.mem_of_find?_eq_some hq', ?_, _, _, _, rfl⟩
    have copy := List.find?_some hq'
    cases hk : q.kind <;> simp_all [CopyOf]

/-! ### Retirement (R186) -/

/-- A flight is taken out of its channel. -/
theorem takeFlight_some {p : DmaFlight → Bool} {f : DmaFlight} (h : (chanAt s c).flights.find? p = some f) :
    takeFlight s c p = (some f, modChan s c (fun x => { x with flights := x.flights.erase f })) := by
  unfold takeFlight
  rw [h]

/-- The channel after its flight f, whose last write has been performed, has retired. -/
def flightRetired (s : State) (c : Chan) (f : DmaFlight) : State :=
  dmaRetire (modChan s c (fun x => { x with flights := x.flights.erase f })) c

theorem execDmaDescriptorRetire_performed {f : DmaFlight} (hf : (chanAt s c).flights.find? (fun f => f.tags.isEmpty && !f.bad) = some f)
    (hj : f.job = none) : exec (.dmaDescriptorRetire c) s = .next (settleCopy (flightRetired s c f) c) := by
  show execDmaDescriptorRetire c s = _
  simp only [execDmaDescriptorRetire, retireFlight, takeFlight_some hf, hj]
  rfl

theorem onlyChan_flightRetired {f : DmaFlight} : OnlyChan s (flightRetired s c f) c := onlyChan_modChan.trans onlyChan_dmaRetire

theorem chanAt_flightRetired {f : DmaFlight} (there : ChanThere s c) :
    chanAt (flightRetired s c f) c = { chanAt s c with
      counters := bump (chanAt s c).counters 0 1
      flights := (chanAt s c).flights.erase f } := by
  rw [flightRetired, chanAt_dmaRetire (onlyChan_modChan.there there), chanAt_modChan there]
  rfl

theorem erase_ne_nil {α : Type} [BEq α] [LawfulBEq α] {x : α} {xs : List α} (hx : x ∈ xs) (h : xs ≠ [x]) : xs.erase x ≠ [] := by
  intro empty
  have one : xs.length = 1 := by
    have := List.length_erase_of_mem hx
    rw [empty, List.length_nil] at this
    have := List.length_pos_of_mem hx
    omega
  obtain ⟨y, rfl⟩ := List.length_eq_one_iff.1 one
  rw [List.mem_singleton.1 hx] at h
  exact h rfl

/-- What the retirement of a transfer that has performed its last write leaves. -/
theorem retire_performed (there : ChanThere s c) {f : DmaFlight}
    (hf : (chanAt s c).flights.find? (fun f => f.tags.isEmpty && !f.bad) = some f) (hj : f.job = none) :
    ∃ t, exec (.dmaDescriptorRetire c) s = .next t ∧ RetireCounted s t c ∧ ChanOthers s t c ∧ t.moorings = s.moorings ∧
      (¬ Copying s c ∨ (chanAt s c).queue ≠ [] ∨ (chanAt s c).flights ≠ [f] → ChanQuiet s t c) ∧
      (∀ n o k a, c = .system n → (chanAt s c).queue = [] → (chanAt s c).flights = [f] → o ∈ s.keeper.ops → o.kind = .copy n k a →
        HostRings s → ∃ q ∈ s.keeper.ops, CopyOf n q ∧ opAt t q.func q.tag = none ∧ t.mem = s.mem) ∧
      chanAt t c = { chanAt s c with
        counters := bump (chanAt s c).counters 0 1
        flights := (chanAt s c).flights.erase f } := by
  have only : OnlyChan s (flightRetired s c f) c := onlyChan_flightRetired
  have units : SameUnits (flightRetired s c f) (settleCopy (flightRetired s c f) c) := settleCopy_units
  have chan := chanAt_flightRetired (f := f) there
  obtain ⟨others, mem, -, moorings, -, keeper, -⟩ := only.quiet
  refine ⟨_, execDmaDescriptorRetire_performed hf hj, ?_, others.trans (chanOthers_of_units units), ?_, fun idle => ?_,
    fun n o k a hn hq hfl ho hk rings => ?_, (chanAt_of_units units c).trans chan⟩
  · exact ((counted_dmaRetire (onlyChan_modChan.there there)).before fun l => beacon_modChan l).after
      fun l => by rw [lanternAt_of_units units]; rfl
  · obtain ⟨-, -, same, -⟩ := units
    exact same.trans moorings
  · suffices still : settleCopy (flightRetired s c f) c = flightRetired s c f by
      rw [still]
      exact only.quiet
    obtain uncopied | queued | more := idle
    · refine settleCopy_uncopied fun ⟨n, hn, o, ho, hc⟩ => uncopied ⟨n, hn, o, keeper ▸ ho, hc⟩
    · exact settleCopy_busy (.inl (by rw [chan]; exact queued))
    · exact settleCopy_busy (.inr (by rw [chan]; exact erase_ne_nil (List.mem_of_find?_eq_some hf) more))
  · subst hn
    obtain ⟨q, hq', hc, status, flags, detail, ends⟩ := settleCopy_ends (s := flightRetired s (.system n) f) (n := n) (o := o)
      (by rw [chan]; exact hq) (by rw [chan, hfl]; exact List.erase_cons_head ..) (keeper.symm ▸ ho) ⟨k, a, hk⟩
    rw [ends]
    exact ⟨q, keeper ▸ hq', hc, opAt_finishOp .., (finishOp_mem _ _ _ _ _ (hostRings_onlyChan only rings)).1.trans mem⟩

/-! ### Stops (R189, R190) -/

theorem onlyChan_stopChannel : OnlyChan s (stopChannel s c) c := by
  unfold stopChannel
  dsimp only
  split
  · exact onlyChan_modChan.trans onlyChan_modChan
  · split
    · exact onlyChan_modChan.trans (onlyChan_dmaRetire.trans onlyChan_modChan)
    · exact onlyChan_modChan.trans onlyChan_modChan

theorem onlyChan_bumpChan {i k : Nat} : OnlyChan s (bumpChan s c i k) c := onlyChan_modChan

theorem chanAt_bumpChan {i k : Nat} (there : ChanThere s c) :
    chanAt (bumpChan s c i k) c = { chanAt s c with counters := bump (chanAt s c).counters i k } := chanAt_modChan there

/-- A channel stopped while no SIGNAL waits (R189). -/
def stopped (x : DmaChan) : DmaChan :=
  { clearChanRegs x with
    queue := []
    serial := x.serial + (if x.queue.isEmpty then 0 else 1) }

/-- A channel stopped while its SIGNAL waits. -/
def lastSignal (x : DmaChan) : DmaChan :=
  { x with queue := (x.queue.take 1).map (fun p => { p with descs := p.descs.take (x.pc + 1) }) }

theorem stopChannel_idle (hw : (chanAt s c).waiting = false) (hs : (chanAt s c).signalling = false) :
    stopChannel s c = modChan (bumpChan s c 14 1) c stopped := by
  unfold stopChannel
  simp only [hw, hs, Bool.false_eq_true, if_false]
  rfl

theorem stopChannel_signalling (hs : (chanAt s c).signalling = true) :
    stopChannel s c = modChan (bumpChan s c 14 1) c lastSignal := by
  unfold stopChannel
  simp only [hs, if_true]
  rfl

theorem chanAt_stopChannel (there : ChanThere s c) (hw : (chanAt s c).waiting = false) (hs : (chanAt s c).signalling = false) :
    chanAt (stopChannel s c) c = stopped { chanAt s c with counters := bump (chanAt s c).counters 14 1 } := by
  rw [stopChannel_idle hw hs, chanAt_modChan (onlyChan_bumpChan.there there), chanAt_bumpChan there]

theorem chanAt_stopChannel_signalling (there : ChanThere s c) (hs : (chanAt s c).signalling = true) :
    chanAt (stopChannel s c) c = lastSignal { chanAt s c with counters := bump (chanAt s c).counters 14 1 } := by
  rw [stopChannel_signalling hs, chanAt_modChan (onlyChan_bumpChan.there there), chanAt_bumpChan there]

/-! ### The command of a stopped copy (R190) -/

theorem copyOn_uncopied (h : ¬ Copying s c) : copyOn s c = none := by
  unfold copyOn
  cases c with
  | lantern l k => rfl
  | system n =>
    refine List.findSome?_eq_none_iff.2 fun o ho => ?_
    split
    next k start addr hk => exact if_neg fun (hn : k = n) => h ⟨n, rfl, o, ho, start, addr, hn ▸ hk⟩
    next => rfl

theorem copyOn_copying (ho : o ∈ s.keeper.ops) (hc : CopyOf n o) :
    ∃ q start, copyOn s (.system n) = some (q, start) ∧ q ∈ s.keeper.ops ∧ CopyOf n q := by
  obtain ⟨k, a, hk⟩ := hc
  cases found : copyOn s (.system n) with
  | none =>
    have missed := List.findSome?_eq_none_iff.1 found o ho
    simp [hk] at missed
  | some r =>
    obtain ⟨q, hq, hr⟩ := List.exists_of_findSome?_eq_some found
    split at hr
    next k' start addr hk' =>
      split at hr
      next hn =>
        cases hr
        exact ⟨q, start, rfl, hq, start, addr, hn ▸ hk'⟩
      next => cases hr
    next => cases hr

theorem stopCopy_units (status : Nat) : SameUnits (stopChannel s c) (stopCopy s c status) := by
  unfold stopCopy
  dsimp only
  split
  · exact SameUnits.refl _
  · exact finishOp_units ..

theorem stopCopy_uncopied (status : Nat) (h : ¬ Copying s c) : stopCopy s c status = stopChannel s c := by
  have keeper : (stopChannel s c).keeper = s.keeper := onlyChan_stopChannel.part State.keeper fun _ => rfl
  have none : copyOn (stopChannel s c) c = none := copyOn_uncopied fun ⟨n, hn, o, ho, hc⟩ => h ⟨n, hn, o, keeper ▸ ho, hc⟩
  unfold stopCopy
  simp only [none]

/-- What every stop leaves: the other parts, and all of them when the channel runs no copy. -/
theorem channelStop_leaves : exec (.channelStop c) s = .next (stopCopy s c stAborted) ∧ ChanOthers s (stopCopy s c stAborted) c ∧
    (¬ Copying s c → ChanQuiet s (stopCopy s c stAborted) c) ∧
    chanAt (stopCopy s c stAborted) c = chanAt (stopChannel s c) c := by
  refine ⟨rfl, onlyChan_stopChannel.quiet.1.trans (chanOthers_of_units (stopCopy_units _)), fun h => ?_,
    chanAt_of_units (stopCopy_units _) c⟩
  rw [stopCopy_uncopied _ h]
  exact onlyChan_stopChannel.quiet

/-- The stop of a copy ends its command. -/
theorem channelStop_copying (ho : o ∈ s.keeper.ops) (hc : CopyOf n o) (rings : HostRings s) :
    (stopCopy s (.system n) stAborted).mem = s.mem ∧
    ∃ q ∈ s.keeper.ops, CopyOf n q ∧ opAt (stopCopy s (.system n) stAborted) q.func q.tag = none := by
  have only : OnlyChan s (stopChannel s (.system n)) (.system n) := onlyChan_stopChannel
  have keeper : (stopChannel s (.system n)).keeper = s.keeper := only.part State.keeper fun _ => rfl
  obtain ⟨q, start, found, hq, hc⟩ := copyOn_copying (s := stopChannel s (.system n)) (keeper.symm ▸ ho) hc
  have runs : stopCopy s (.system n) stAborted = finishOp (stopChannel s (.system n)) q.func q.tag stAborted 0
      ((chanAt (stopChannel s (.system n)) (.system n)).counters.getD 0 0 - start) := by
    unfold stopCopy
    simp only [found]
  rw [runs]
  exact ⟨(finishOp_mem _ _ _ _ _ (hostRings_onlyChan only rings)).1.trans only.quiet.2.1, q, keeper ▸ hq, hc, opAt_finishOp ..⟩

end Endings

end Sys2Proof.Machine
end

section
/-! PROOFS. Memory after pieces written in order, and the stream that a DMA transfer fetches (O14, R143, R177). -/

namespace Sys2Proof.Machine

section Pieces

variable {s : State} {m : Memory} {x : Nat}

/-! ### Pieces written in order -/

/-- The memory after pieces at their addresses, in order. -/
def setAll (m : Memory) (ps : List (Nat × List Byte)) : Memory := ps.foldl (fun m q => setBytes m q.1 q.2) m

/-- Does a piece cover an address? -/
def pieceCovers (x : Nat) (q : Nat × List Byte) : Bool := decide (q.1 ≤ x) && decide (x < q.1 + q.2.length)

theorem pieceCovers_iff {q : Nat × List Byte} : pieceCovers x q = true ↔ q.1 ≤ x ∧ x < q.1 + q.2.length := by
  simp [pieceCovers]

theorem memoryWf_setAll (ok : memoryWf m = true) (ps : List (Nat × List Byte)) : memoryWf (setAll m ps) = true := by
  induction ps generalizing m with
  | nil => exact ok
  | cons p ps ih => exact ih (memoryWf_setBytes ok)

/-- The last piece that covers an address gives its byte. -/
theorem byteAt_setAll (ok : memoryWf m = true) (ps : List (Nat × List Byte)) : byteAt (setAll m ps) x =
    (ps.reverse.find? (pieceCovers x)).elim (byteAt m x) (fun q => q.2.getD (x - q.1) 0) := by
  induction ps using List.reverseRecOn with
  | nil => rfl
  | append_singleton ps p ih =>
    have last : setAll m (ps ++ [p]) = setBytes (setAll m ps) p.1 p.2 := List.foldl_append ..
    rw [last, List.reverse_append, List.reverse_singleton, List.singleton_append, List.find?_cons]
    cases hc : pieceCovers x p with
    | true =>
      obtain ⟨low, high⟩ := pieceCovers_iff.1 hc
      exact byteAt_setBytes_inside (memoryWf_setAll ok ps) low high
    | false =>
      rw [byteAt_setBytes_outside (memoryWf_setAll ok ps) ?_, ih]
      by_contra inside
      rw [Bool.eq_false_iff] at hc
      exact hc (pieceCovers_iff.2 (by omega))

theorem byteAt_setAll_uncovered (ok : memoryWf m = true) {ps : List (Nat × List Byte)} (h : ∀ q ∈ ps, ¬ pieceCovers x q = true) :
    byteAt (setAll m ps) x = byteAt m x := by
  rw [byteAt_setAll ok, List.find?_eq_none.2 fun q hq => h q (List.mem_reverse.1 hq)]
  rfl

/-- An address that one piece alone covers has that piece's byte. -/
theorem byteAt_setAll_only (ok : memoryWf m = true) {ps : List (Nat × List Byte)} {p : Nat × List Byte} (hp : p ∈ ps)
    (hx : pieceCovers x p = true) (h : ∀ q ∈ ps, pieceCovers x q = true → q = p) : byteAt (setAll m ps) x = p.2.getD (x - p.1) 0 := by
  rw [byteAt_setAll ok]
  cases found : ps.reverse.find? (pieceCovers x) with
  | none => exact absurd hx (List.find?_eq_none.1 found p (List.mem_reverse.2 hp))
  | some q => rw [h q (List.mem_reverse.1 (List.mem_of_find?_eq_some found)) (List.find?_some found)]; rfl

/-- Pieces at module addresses are pieces at their low 56 bits (R18). -/
theorem putPieces_eq_setAll (m : Memory) (ps : List (Nat × List Byte)) :
    putPieces m ps = setAll m (ps.map (fun q => (bits q.1 55 0, q.2))) := by
  rw [putPieces, setAll, List.foldl_map]

/-! ### What a transfer fetches (R177, R184) -/

/-- The stream of parts read from the module's memory: address, bytes, place. -/
def fetched (s : State) (rs : List (Nat × Nat × Nat)) : Memory :=
  setAll [] (rs.map (fun r => (r.2.2, readMem s (bits r.1 55 0) r.2.1)))

/-- Parts of one length, one after the other: a byte of the stream is the byte of its part. -/
theorem byteAt_fetched {rs : List (Nat × Nat × Nat)} {n i k : Nat} (hrs : ∀ j r, rs[j]? = some r → r.2 = (n, j * n))
    {r : Nat × Nat × Nat} (hr : rs[i]? = some r) (hk : k < n) : byteAt (fetched s rs) (i * n + k) = readByte s (bits r.1 55 0 + k) := by
  obtain ⟨hlen, hkey⟩ := Prod.mk.inj (hrs i r hr)
  have hmem : (r.2.2, readMem s (bits r.1 55 0) r.2.1) ∈ rs.map (fun r => (r.2.2, readMem s (bits r.1 55 0) r.2.1)) :=
    List.mem_map_of_mem (List.mem_of_getElem? hr)
  have hcov : pieceCovers (i * n + k) (r.2.2, readMem s (bits r.1 55 0) r.2.1) = true := by
    refine pieceCovers_iff.2 ?_
    dsimp only
    rw [readMem_length, hlen, hkey]
    omega
  rw [fetched, byteAt_setAll_only rfl hmem hcov ?_]
  · dsimp only
    rw [hkey, Nat.add_sub_cancel_left, readMem_getD s _ (hlen ▸ hk)]
  · intro q hq hqc
    obtain ⟨r', hr', rfl⟩ := List.mem_map.1 hq
    obtain ⟨j, hj⟩ := List.mem_iff_getElem?.1 hr'
    obtain ⟨hlen', hkey'⟩ := Prod.mk.inj (hrs j r' hj)
    obtain ⟨low, high⟩ := pieceCovers_iff.1 hqc
    dsimp only at low high
    rw [readMem_length, hlen', hkey'] at high
    rw [hkey'] at low
    have same : j = i := by
      have h1 : j = (i * n + k) / n := (Nat.div_eq_of_lt_le (by omega) (by rw [Nat.succ_mul]; omega)).symm
      have h2 : i = (i * n + k) / n := (Nat.div_eq_of_lt_le (by omega) (by rw [Nat.succ_mul]; omega)).symm
      omega
    subst same
    rw [Option.some.inj (hr.symm.trans hj)]

end Pieces

end Sys2Proof.Machine
end

section
/-! PROOFS. A transfer within the module's memory, read and performed at issue (O14, R177, R178, R184, R186, R195). -/

namespace Sys2Proof.Machine

section Transfer

variable {s t : State} {c : Chan} {ctx : Ctx} {d : DmaDesc}

/-! ### Reading -/

/-- A part of the source in the module's memory. -/
def LocalPart (s : State) (ctx : Ctx) (r : Nat × Nat × Nat) : Prop := checkAddr s ctx r.1 r.2.1 false = some (.mem (bits r.1 55 0))

theorem poisonedLines_none (hp : s.poison = []) (a n : Nat) : poisonedLines s a n = [] := by
  simp [poisonedLines, hp]

theorem readPart_local (hp : s.poison = []) {data : Memory} {r : Nat × Nat × Nat} (hr : LocalPart s ctx r) :
    readPart c ctx ⟨s, ⟨d, data, [], false⟩, [], [], 0, 0⟩ r =
      ⟨s, ⟨d, setBytes data r.2.2 (readMem s (bits r.1 55 0) r.2.1), [], false⟩, [], [], 0, 0⟩ := by
  unfold LocalPart at hr
  simp [readPart, hr, poisonedLines_none hp]

theorem foldl_readPart_local (hp : s.poison = []) {rs : List (Nat × Nat × Nat)} (hr : ∀ r ∈ rs, LocalPart s ctx r) (data : Memory) :
    rs.foldl (readPart c ctx) ⟨s, ⟨d, data, [], false⟩, [], [], 0, 0⟩ =
      ⟨s, ⟨d, setAll data (rs.map (fun r => (r.2.2, readMem s (bits r.1 55 0) r.2.1))), [], false⟩, [], [], 0, 0⟩ := by
  induction rs generalizing data with
  | nil => rfl
  | cons r rs ih =>
    obtain ⟨hr, hrs⟩ := List.forall_mem_cons.1 hr
    rw [List.foldl_cons, readPart_local hp hr, ih hrs]
    rfl

/-! ### Writing -/

/-- A piece of the destination in the module's memory, outside the accumulators. -/
def LocalPiece (s : State) (ctx : Ctx) (q : Nat × List Byte) : Prop :=
  checkAddr s ctx q.1 q.2.length true = some (.mem (bits q.1 55 0)) ∧ bits (bits q.1 55 0) 55 48 ≠ 0x30

/-- The bytes of all pieces. -/
def pieceBytes (ps : List (Nat × List Byte)) : Nat := (ps.map (·.2.length)).sum

/-- The state with its memory replaced. -/
def withMem (s : State) (m : Memory) : State := { s with mem := m }

theorem checkAddr_withMem (m : Memory) (a n : Nat) (wr : Bool) : checkAddr (withMem s m) ctx a n wr = checkAddr s ctx a n wr :=
  checkAddr_congr (fun _ => ⟨rfl, rfl⟩) rfl rfl rfl ctx a n wr

theorem writePiece_local (hp : s.poison = []) {q : Nat × List Byte} (hq : LocalPiece s ctx q) (m : Memory) (tags : List Nat) (n : Nat) :
    writePiece c ctx ⟨withMem s m, tags, n, 0, 0⟩ q = ⟨withMem s (setBytes m (bits q.1 55 0) q.2), tags, n + q.2.length, 0, 0⟩ := by
  unfold writePiece
  dsimp only
  rw [checkAddr_withMem, hq.1]
  dsimp only
  rw [writeMem_clean (s := withMem s m) hp hq.2]
  rfl

theorem foldl_writePiece_local (hp : s.poison = []) {ps : List (Nat × List Byte)} (hps : ∀ q ∈ ps, LocalPiece s ctx q) (m : Memory)
    (tags : List Nat) (n : Nat) : ps.foldl (writePiece c ctx) ⟨withMem s m, tags, n, 0, 0⟩ =
      ⟨withMem s (putPieces m ps), tags, n + pieceBytes ps, 0, 0⟩ := by
  induction ps generalizing m n with
  | nil => rfl
  | cons q ps ih =>
    obtain ⟨hq, hps⟩ := List.forall_mem_cons.1 hps
    rw [List.foldl_cons, writePiece_local hp hq, ih hps, pieceBytes, pieceBytes, List.map_cons, List.sum_cons, Nat.add_assoc]
    rfl

theorem pieceBytes_joinPieces (ps : List (Nat × List Byte)) : pieceBytes (joinPieces ps) = pieceBytes ps := by
  induction ps with
  | nil => rfl
  | cons p ps ih =>
    have sum : pieceBytes (p :: ps) = p.2.length + pieceBytes (joinPieces ps) := by rw [ih]; rfl
    rw [sum]
    cases hq : joinPieces ps with
    | nil => rw [joinPieces_cons_nil hq]; rfl
    | cons q qs =>
      rw [joinPieces_cons_cons hq]
      split
      · simp only [pieceBytes, List.map_cons, List.sum_cons, List.length_append, Nat.add_assoc]
      · rfl

/-! ### Spans within the module's memory -/

/-- Every part of the n bytes at a is the module's memory from A on, outside the accumulators. -/
def Reach (s : State) (ctx : Ctx) (a A n : Nat) (wr : Bool) : Prop :=
  ∀ o m, 0 < m → o + m ≤ n → checkAddr s ctx (a + o) m wr = some (.mem (A + o)) ∧ bits (A + o) 55 48 ≠ 0x30

variable {a A n : Nat}

theorem Reach.place {wr : Bool} (h : Reach s ctx a A n wr) {x : Nat} (h1 : a ≤ x) (h2 : x < a + n) :
    bits x 55 0 = A + (x - a) ∧ bits (A + (x - a)) 55 48 ≠ 0x30 := by
  obtain ⟨hc, hr⟩ := h (x - a) 1 one_pos (by omega)
  rw [Nat.add_sub_cancel' h1] at hc
  exact ⟨(checkAddr_mem hc).1.symm, hr⟩

theorem Reach.part {wr : Bool} (h : Reach s ctx a A n wr) {x k : Nat} (hk : 0 < k) (h1 : a ≤ x) (h2 : x + k ≤ a + n) :
    checkAddr s ctx x k wr = some (.mem (bits x 55 0)) := by
  obtain ⟨hc, -⟩ := h (x - a) k hk (by omega)
  rw [Nat.add_sub_cancel' h1] at hc
  rw [(h.place h1 (by omega)).1, hc]

/-- A piece that is not empty lies in a span. -/
def InSpan (a n : Nat) (q : Nat × List Byte) : Prop := 0 < q.2.length ∧ a ≤ q.1 ∧ q.1 + q.2.length ≤ a + n

theorem inSpan_join (p q : Nat × List Byte) (hp : InSpan a n p) (hq : InSpan a n q) (hj : p.1 + p.2.length = q.1) :
    InSpan a n (p.1, p.2 ++ q.2) := by
  unfold InSpan at *
  dsimp only
  rw [List.length_append]
  omega

theorem Reach.localPiece (h : Reach s ctx a A n true) {q : Nat × List Byte} (hq : InSpan a n q) : LocalPiece s ctx q := by
  obtain ⟨hpos, h1, h2⟩ := hq
  refine ⟨h.part hpos h1 h2, ?_⟩
  rw [(h.place h1 (by omega)).1]
  exact (h.place h1 (by omega)).2

theorem Reach.putPieces_join (h : Reach s ctx a A n true) {ps : List (Nat × List Byte)} (hps : ∀ q ∈ ps, InSpan a n q) (m : Memory) :
    putPieces m (joinPieces ps) = putPieces m ps := by
  refine putPieces_joinPieces inSpan_join (fun p q hp hq hj => ?_) hps m
  obtain ⟨hpos, h1, h2⟩ := hp
  obtain ⟨hpos', h1', h2'⟩ := hq
  rw [(h.place h1 (by omega)).1, (h.place h1' (by omega)).1]
  omega

/-- Changes of a channel and of memory leave addresses as they are. -/
theorem checkAddr_onlyChan (h : OnlyChan s t c) (ctx : Ctx) (a n : Nat) (wr : Bool) : checkAddr t ctx a n wr = checkAddr s ctx a n wr :=
  checkAddr_congr (fun k => ⟨h.lanternPart Lantern.windows (fun _ => rfl) k, h.lanternPart Lantern.phys (fun _ => rfl) k⟩)
    (h.part State.keeper fun _ => rfl) (h.part State.boot fun _ => rfl) (h.part State.shore fun _ => rfl) ctx a n wr

theorem Reach.onlyChan {wr : Bool} (h : Reach s ctx a A n wr) (ho : OnlyChan s t c) : Reach t ctx a A n wr := fun o m hm hle => by
  rw [checkAddr_onlyChan ho]
  exact h o m hm hle

/-! ### A plain transfer -/

/-- What a plain transfer writes of its stream. -/
def streamPieces (d : DmaDesc) (data : Memory) : List (Nat × List Byte) := (dmaWrites d).map (fun w => (w.1, bytesAt data w.2.1 w.2.2))

/-- A transfer that packs nothing, between two spans of the module's memory that lie apart, with nothing poisoned. -/
structure PlainTransfer (s : State) (ctx : Ctx) (d : DmaDesc) (a n : Nat) : Prop where
  plain : ∀ m, d = .move m → m.compress = 0
  clean : s.poison = []
  reads : ∀ r ∈ dmaReads d, LocalPart s ctx r
  writes : ∀ w ∈ dmaWrites d, 0 < w.2.2 ∧ a ≤ w.1 ∧ w.1 + w.2.2 ≤ a + n
  reach : ∃ A, Reach s ctx a A n true
  apart : sidesOverlap s ctx d = false
  local_ : writesHost s ctx d = false

theorem PlainTransfer.inSpan (h : PlainTransfer s ctx d a n) (data : Memory) : ∀ q ∈ streamPieces d data, InSpan a n q := by
  intro q hq
  obtain ⟨w, hw, rfl⟩ := List.mem_map.1 hq
  obtain ⟨hpos, h1, h2⟩ := h.writes w hw
  exact ⟨by rw [bytesAt_length]; exact hpos, h1, by rw [bytesAt_length]; exact h2⟩

theorem dmaOut_plain {data : Memory} (h : ∀ m, d = .move m → m.compress = 0) :
    dmaOut s c ⟨d, data, [], false⟩ = ⟨(streamPieces d data).map (fun q => (q.1, q.2, false)), 0, readCount d⟩ := by
  have out : dmaOut s c ⟨d, data, [], false⟩ = plainOut d ⟨d, data, [], false⟩ := by
    cases d with
    | move m => simp [dmaOut, h m rfl]
    | _ => rfl
  rw [out, plainOut, streamPieces, List.map_map]
  rfl

theorem performJob_plain {priv : Bool} (h : PlainTransfer s (chanCtx c priv) d a n) (data : Memory) :
    performJob s c priv ⟨d, data, [], false⟩ [] (0, 0) =
      ⟨bumpChan (withMem (bumpChan s c 11 (readCount d)) (putPieces s.mem (streamPieces d data))) c 12 (pieceBytes (streamPieces d data)),
        [], pieceBytes (streamPieces d data), 0, 0⟩ := by
  have inSpan := h.inSpan data
  have only : OnlyChan s (bumpChan s c 11 (readCount d)) c := onlyChan_bumpChan
  have mem : (bumpChan s c 11 (readCount d)).mem = s.mem := only.quiet.2.1
  have poison : (bumpChan s c 11 (readCount d)).poison = [] := only.quiet.2.2.1.trans h.clean
  obtain ⟨A, reach⟩ := h.reach
  have reach' := reach.onlyChan only
  have kept : ((streamPieces d data).map (fun q => (q.1, q.2, false))).filter (fun p => !p.2.1.isEmpty) =
      (streamPieces d data).map (fun q => (q.1, q.2, false)) := by
    refine List.filter_eq_self.2 fun q hq => ?_
    obtain ⟨p, hp, rfl⟩ := List.mem_map.1 hq
    have := (inSpan p hp).1
    cases hp2 : p.2 with
    | nil => simp [hp2] at this
    | cons b bs => rfl
  have bare : ((streamPieces d data).map (fun q => (q.1, q.2, false))).map (fun p : Nat × List Byte × Bool => (p.1, p.2.1)) =
      streamPieces d data := by
    rw [List.map_map]
    exact List.map_id _
  have noDrop : ∀ q, pieceDropped (bumpChan s c 11 (readCount d)) (chanCtx c priv) q = false := by
    intro q
    unfold pieceDropped
    split
    · exact partialPoison_clean poison _ _
    · rfl
  have lack : lackParts ⟨d, data, [], false⟩ [] = ⟨d, data, [], false⟩ := rfl
  have written := foldl_writePiece_local (c := c) poison
    (fun q hq => reach'.localPiece (joinPieces_forall inSpan_join inSpan q hq)) (bumpChan s c 11 (readCount d)).mem [] 0
  have same : withMem (bumpChan s c 11 (readCount d)) (bumpChan s c 11 (readCount d)).mem = bumpChan s c 11 (readCount d) := rfl
  rw [same, reach'.putPieces_join inSpan, pieceBytes_joinPieces, mem, Nat.zero_add] at written
  have noPoison (u : State) (k : Nat) : noteJobPoison u c ⟨d, data, [], false⟩ k = u := rfl
  have all : readCount d - sumNat (([] : List (Nat × Nat)).map (·.2)) = readCount d := rfl
  have noneDropped : (joinPieces (streamPieces d data)).any (pieceDropped (bumpChan s c 11 (readCount d)) (chanCtx c priv)) = false :=
    List.any_eq_false.2 fun q _ => by rw [noDrop]; exact Bool.false_ne_true
  unfold performJob
  simp only [lack, overlapPieces, h.apart, Bool.false_and, Bool.false_eq_true, if_false, dmaOut_plain h.plain, kept, bare, noPoison, all,
    noneDropped, ne_eq, not_true, if_true, written]
  cases d with
  | move m => simp [h.plain m rfl]
  | _ => rfl

/-! ### The transfer performed -/

/-- The state after a transfer of n bytes whose pieces leave memory m, its flight f awaiting retirement. -/
def transferred (s : State) (c : Chan) (f : DmaFlight) (m : Memory) (read written : Nat) : State :=
  stepChan (modChan (bumpChan (withMem (bumpChan s c 11 read) m) c 12 written) c (fun x => { x with flights := x.flights ++ [f] })) c

/-- The flight of the descriptor at hand once it has been performed. -/
def flightOf (x : DmaChan) (p : DmaProg) : DmaFlight := ⟨x.serial, p.index, p.slot, p.priv, x.pc, [], none, false⟩

theorem startTransfer_plain {p : DmaProg} (h : PlainTransfer s (chanCtx c p.priv) d a n) : startTransfer s c p d =
    transferred s c (flightOf (chanAt s c) p) (putPieces s.mem (streamPieces d (fetched s (dmaReads d)))) (readCount d)
      (pieceBytes (streamPieces d (fetched s (dmaReads d)))) := by
  unfold startTransfer
  simp only [h.local_, foldl_readPart_local h.clean h.reads, ne_eq, not_true, if_false, List.isEmpty_nil, Bool.not_false, Bool.and_self,
    if_true, performFlight]
  rw [show setAll [] ((dmaReads d).map (fun r => (r.2.2, readMem s (bits r.1 55 0) r.2.1))) = fetched s (dmaReads d) from rfl,
    performJob_plain h]
  rfl

section Transferred

variable {f : DmaFlight} {m : Memory} {i k : Nat}

theorem onlyChan_afterMem : OnlyChan (withMem (bumpChan s c 11 i) m) (transferred s c f m i k) c :=
  onlyChan_bumpChan.trans (onlyChan_modChan.trans onlyChan_modChan)

theorem chanAt_transferred (there : ChanThere s c) : chanAt (transferred s c f m i k) c = nextDesc { chanAt s c with
    flights := (chanAt s c).flights ++ [f]
    counters := bump (bump (chanAt s c).counters 11 i) 12 k } := by
  have there1 : ChanThere (withMem (bumpChan s c 11 i) m) c := (onlyChan_bumpChan (i := 11) (k := i)).there there
  have there2 := (onlyChan_bumpChan (i := 12) (k := k)).there there1
  have chan1 : chanAt (withMem (bumpChan s c 11 i) m) c = _ := chanAt_bumpChan (i := 11) (k := i) there
  rw [transferred, stepChan, chanAt_modChan (onlyChan_modChan.there there2), chanAt_modChan there2, chanAt_bumpChan there1, chan1]

/-- Apart from memory, a transfer leaves the other parts. -/
theorem transferred_others : ChanOthers s (transferred s c f m i k) c ∧ (transferred s c f m i k).moorings = s.moorings ∧
    (transferred s c f m i k).host = s.host ∧ (transferred s c f m i k).router = s.router ∧
    (transferred s c f m i k).poison = s.poison ∧ (transferred s c f m i k).mem = m := by
  obtain ⟨others, -, poison, moorings, host, -, router⟩ := (onlyChan_bumpChan (s := s) (c := c) (i := 11) (k := i)).quiet
  obtain ⟨others', mem', poison', moorings', host', -, router'⟩ := (onlyChan_afterMem (s := s) (c := c) (f := f) (m := m) (i := i) (k := k)).quiet
  exact ⟨ChanOthers.trans (t := withMem (bumpChan s c 11 i) m) others others', moorings'.trans moorings, host'.trans host,
    router'.trans router, poison'.trans poison, mem'⟩

theorem accByte_besideChannels (x : Lantern) (o : Nat) : accByte (besideChannels x) o = accByte x o := rfl

/-- Bytes of the accumulators stay; any other is the memory's. -/
theorem readByte_transferred (b : Nat) : readByte (transferred s c f m i k) b =
    if bits b 55 48 = 0x30 then readByte s b else byteAt m b := by
  have mem : (transferred s c f m i k).mem = m := transferred_others.2.2.2.2.2
  have lantern (l : Nat) : besideChannels (lanternAt (transferred s c f m i k) l) = besideChannels (lanternAt s l) :=
    (onlyChan_afterMem.lantern l).trans (onlyChan_bumpChan.lantern l)
  unfold readByte
  split
  · rw [← accByte_besideChannels, lantern, accByte_besideChannels]
  · rw [mem]

theorem nextDesc_flights (x : DmaChan) : (nextDesc x).flights = x.flights := by
  unfold nextDesc
  split
  · rfl
  · split <;> rfl

/-- A transfer that has just been performed is still in flight, so no copy ends with it. -/
theorem settleCopy_transferred (there : ChanThere s c) : settleCopy (transferred s c f m i k) c = transferred s c f m i k := by
  refine settleCopy_busy (.inr ?_)
  rw [chanAt_transferred there, nextDesc_flights]
  simp

end Transferred

end Transfer

end Sys2Proof.Machine
end

section
/-! PROOFS. A MOVE between two places of the module's memory (O14, R177, R178, R186). -/

namespace Sys2Proof.Machine

section Move

variable {s : State} {c : Chan} {ctx : Ctx} {m : MoveDesc} {p : DmaProg} {A B : Nat}

theorem sumNat_eq_sum (l : List Nat) : sumNat l = l.sum := List.sum_eq_foldl.symm

theorem sum_map_const {α : Type} (l : List α) (k : Nat) : (l.map (fun _ => k)).sum = l.length * k := by
  rw [List.map_const', List.sum_replicate, smul_eq_mul]

/-! ### The geometry of an uncompressed MOVE that wraps no ring -/

/-- A MOVE that neither packs nor wraps, with the sizes that the checks of R185 leave. -/
structure PlainMove (m : MoveDesc) : Prop where
  compress : m.compress = 0
  ring : m.ring = false
  slen : 0 < m.slen
  scnt : 0 < m.scnt
  dlen : 0 < m.dlen
  dcnt : 0 < m.dcnt
  apart : m.dlen ≤ m.dstride
  total : m.slen * m.scnt = m.dlen * m.dcnt

theorem plainMove_of_check (hm : moveCheck c m = true) (hc : m.compress = 0) (hr : m.ring = false) : PlainMove m := by
  simp only [moveCheck, hc, hr, Bool.false_or, Bool.false_eq_true, if_false, if_true, Bool.and_eq_true, decide_eq_true_eq,
    Bool.or_eq_true] at hm
  exact ⟨hc, hr, by omega, by omega, by omega, by omega, by omega, by omega⟩

/-- Bytes from the first to the last of the source, and of the destination. -/
def srcSpan (m : MoveDesc) : Nat := (m.scnt - 1) * m.sstride + m.slen
def dstSpan (m : MoveDesc) : Nat := (m.dcnt - 1) * m.dstride + m.dlen

theorem dmaReads_move (h : PlainMove m) :
    dmaReads (.move m) = (List.range m.scnt).map (fun i => (m.src + i * m.sstride, m.slen, i * m.slen)) := by
  simp [dmaReads, h.compress]

theorem dmaWrites_move (h : PlainMove m) :
    dmaWrites (.move m) = (List.range m.dcnt).map (fun j => (m.dst + j * m.dstride, j * m.dlen, m.dlen)) := by
  exact if_pos (show (!m.ring) = true by rw [h.ring]; rfl)

theorem dmaSpans_move (h : PlainMove m) :
    dmaSpans (.move m) = some [(m.src, srcSpan m, false), (m.dst, dstSpan m, true)] := by
  simp [dmaSpans, h.ring, h.compress, srcSpan, dstSpan]

theorem readCount_move (h : PlainMove m) : readCount (.move m) = m.slen * m.scnt := by
  rw [readCount, dmaReads_move h, List.map_map, sumNat_eq_sum]
  refine (sum_map_const (List.range m.scnt) m.slen).trans ?_
  rw [List.length_range, Nat.mul_comm]

theorem pieceBytes_move (h : PlainMove m) (data : Memory) : pieceBytes (streamPieces (.move m) data) = m.slen * m.scnt := by
  rw [pieceBytes, streamPieces, dmaWrites_move h, List.map_map, List.map_map, h.total]
  have lens : ((fun q : Nat × List Byte => q.2.length) ∘ (fun w : Nat × Nat × Nat => (w.1, bytesAt data w.2.1 w.2.2))) ∘
      (fun j => (m.dst + j * m.dstride, j * m.dlen, m.dlen)) = fun _ => m.dlen := by
    funext j
    exact bytesAt_length ..
  rw [lens, sum_map_const, List.length_range, Nat.mul_comm]

/-- Line i of n lies in the span of all. -/
theorem line_inside {i n stride len : Nat} (hi : i < n) : i * stride + len ≤ (n - 1) * stride + len :=
  Nat.add_le_add_right (Nat.mul_le_mul_right stride (by omega)) len

theorem spanPos (h : PlainMove m) : 0 < srcSpan m ∧ 0 < dstSpan m := by
  have := h.slen
  have := h.dlen
  unfold srcSpan dstSpan
  omega

theorem plainTransfer_move (h : PlainMove m) (hp : s.poison = []) (hs : Reach s ctx m.src A (srcSpan m) false)
    (hd : Reach s ctx m.dst B (dstSpan m) true) (hapart : A + srcSpan m ≤ B ∨ B + dstSpan m ≤ A) :
    PlainTransfer s ctx (.move m) m.dst (dstSpan m) := by
  have hsrc : checkAddr s ctx m.src (srcSpan m) false = some (.mem A) := (hs 0 _ (spanPos h).1 (by omega)).1
  have hdst : checkAddr s ctx m.dst (dstSpan m) true = some (.mem B) := (hd 0 _ (spanPos h).2 (by omega)).1
  refine ⟨fun n hn => DmaDesc.move.inj hn ▸ h.compress, hp, fun r hr => ?_, fun w hw => ?_, ⟨B, hd⟩, ?_, ?_⟩
  · rw [dmaReads_move h] at hr
    obtain ⟨i, hi, rfl⟩ := List.mem_map.1 hr
    refine hs.part h.slen (Nat.le_add_right ..) ?_
    have := line_inside (stride := m.sstride) (len := m.slen) (List.mem_range.1 hi)
    unfold srcSpan
    dsimp only
    omega
  · rw [dmaWrites_move h] at hw
    obtain ⟨j, hj, rfl⟩ := List.mem_map.1 hw
    have := line_inside (stride := m.dstride) (len := m.dlen) (List.mem_range.1 hj)
    refine ⟨h.dlen, Nat.le_add_right .., ?_⟩
    unfold dstSpan
    dsimp only
    omega
  · unfold sidesOverlap
    simp only [dmaSpans_move h, hsrc, hdst]
    rw [Bool.and_eq_false_iff, decide_eq_false_iff_not, decide_eq_false_iff_not]
    omega
  · simp [writesHost, dmaSpans_move h, hdst]

theorem spansOk_move (h : PlainMove m) (hs : Reach s ctx m.src A (srcSpan m) false) (hd : Reach s ctx m.dst B (dstSpan m) true) :
    spansOk s ctx (.move m) = true := by
  have hsrc : checkAddr s ctx m.src (srcSpan m) false = some (.mem A) := (hs 0 _ (spanPos h).1 (by omega)).1
  have hdst : checkAddr s ctx m.dst (dstSpan m) true = some (.mem B) := (hd 0 _ (spanPos h).2 (by omega)).1
  simp [spansOk, dmaSpans_move h, hsrc, hdst]

/-! ### The bytes moved -/

/-- Byte k of the stream is byte k of the source's lines. -/
theorem stream_move (h : PlainMove m) (hs : Reach s ctx m.src A (srcSpan m) false) {k : Nat} (hk : k < m.slen * m.scnt) :
    byteAt (fetched s (dmaReads (.move m))) k = readByte s (A + k / m.slen * m.sstride + k % m.slen) := by
  have hi : k / m.slen < m.scnt := Nat.div_lt_of_lt_mul hk
  have part : (dmaReads (.move m))[k / m.slen]? = some (m.src + k / m.slen * m.sstride, m.slen, k / m.slen * m.slen) := by
    rw [dmaReads_move h, List.getElem?_map, List.getElem?_range hi]
    rfl
  have shape : ∀ j r, (dmaReads (.move m))[j]? = some r → r.2 = (m.slen, j * m.slen) := by
    intro j r hr
    rw [dmaReads_move h, List.getElem?_map] at hr
    obtain ⟨i, hi, rfl⟩ := Option.map_eq_some_iff.1 hr
    rw [List.getElem?_eq_some_iff] at hi
    obtain ⟨hj, rfl⟩ := hi
    rw [List.getElem_range]
  have place : bits (m.src + k / m.slen * m.sstride) 55 0 = A + k / m.slen * m.sstride := by
    have inside := line_inside (stride := m.sstride) (len := m.slen) hi
    have := h.slen
    rw [(hs.place (Nat.le_add_right ..) (by unfold srcSpan; omega)).1]
    omega
  have at_ := byteAt_fetched (s := s) shape part (Nat.mod_lt k h.slen)
  rw [place, Nat.div_add_mod'] at at_
  exact at_

/-- Destination line j, where its bytes lie. -/
theorem piece_move (h : PlainMove m) (hd : Reach s ctx m.dst B (dstSpan m) true) (data : Memory) :
    (streamPieces (.move m) data).map (fun q => (bits q.1 55 0, q.2)) =
      (List.range m.dcnt).map (fun j => (B + j * m.dstride, bytesAt data (j * m.dlen) m.dlen)) := by
  rw [streamPieces, dmaWrites_move h, List.map_map, List.map_map]
  refine List.map_congr_left fun j hj => Prod.ext ?_ rfl
  have inside := line_inside (stride := m.dstride) (len := m.dlen) (List.mem_range.1 hj)
  have := h.dlen
  show bits (m.dst + j * m.dstride) 55 0 = _
  rw [(hd.place (Nat.le_add_right ..) (by unfold dstSpan; omega)).1]
  omega

theorem moved_inside (h : PlainMove m) (ok : memoryWf s.mem = true) (hs : Reach s ctx m.src A (srcSpan m) false)
    (hd : Reach s ctx m.dst B (dstSpan m) true) {i j : Nat} (hj : j < m.dcnt) (hi : i < m.dlen) :
    byteAt (putPieces s.mem (streamPieces (.move m) (fetched s (dmaReads (.move m))))) (B + j * m.dstride + i) =
      readByte s (A + (j * m.dlen + i) / m.slen * m.sstride + (j * m.dlen + i) % m.slen) := by
  have hk : j * m.dlen + i < m.slen * m.scnt := by
    have := line_inside (stride := m.dlen) (len := m.dlen) hj
    have : (m.dcnt - 1) * m.dlen + m.dlen = m.dlen * m.dcnt := by
      rw [← Nat.succ_mul, Nat.succ_eq_add_one, Nat.sub_add_cancel h.dcnt, Nat.mul_comm]
    rw [h.total]
    omega
  rw [← stream_move h hs hk, putPieces_eq_setAll, piece_move h hd]
  have hmem := List.mem_map_of_mem (f := fun j => (B + j * m.dstride, bytesAt (fetched s (dmaReads (.move m))) (j * m.dlen) m.dlen))
    (List.mem_range.2 hj)
  rw [byteAt_setAll_only ok hmem ?_ ?_]
  · dsimp only
    rw [Nat.add_sub_cancel_left, bytesAt_eq, List.getD_eq_getElem?_getD, List.getElem?_map, List.getElem?_range hi]
    rfl
  · refine pieceCovers_iff.2 ?_
    dsimp only
    rw [bytesAt_length]
    omega
  · intro q hq hqc
    obtain ⟨j', -, rfl⟩ := List.mem_map.1 hq
    obtain ⟨low, high⟩ := pieceCovers_iff.1 hqc
    dsimp only at low high
    rw [bytesAt_length] at high
    have apart := h.apart
    have same : j' = j := by
      have hpos : 0 < m.dstride := Nat.lt_of_lt_of_le h.dlen apart
      have h1 : j' = (j * m.dstride + i) / m.dstride := (Nat.div_eq_of_lt_le (by omega) (by rw [Nat.succ_mul]; omega)).symm
      have h2 : j = (j * m.dstride + i) / m.dstride := (Nat.div_eq_of_lt_le (by omega) (by rw [Nat.succ_mul]; omega)).symm
      omega
    rw [same]

theorem moved_outside (h : PlainMove m) (ok : memoryWf s.mem = true) (hd : Reach s ctx m.dst B (dstSpan m) true) (data : Memory) {b : Nat}
    (hb : ∀ j i, j < m.dcnt → i < m.dlen → b ≠ B + j * m.dstride + i) :
    byteAt (putPieces s.mem (streamPieces (.move m) data)) b = byteAt s.mem b := by
  rw [putPieces_eq_setAll, piece_move h hd]
  refine byteAt_setAll_uncovered ok fun q hq hqc => ?_
  obtain ⟨j, hj, rfl⟩ := List.mem_map.1 hq
  obtain ⟨low, high⟩ := pieceCovers_iff.1 hqc
  dsimp only at low high
  rw [bytesAt_length] at high
  exact hb j (b - (B + j * m.dstride)) (List.mem_range.1 hj) (by omega) (by omega)

/-! ### The MOVE -/

/-- A flight that awaits nothing but its retirement, after a descriptor that read and wrote n bytes. -/
def Flown (s t : State) (c : Chan) (p : DmaProg) (n : Nat) : Prop :=
  ∃ f : DmaFlight, f.tags = [] ∧ f.job = none ∧ f.bad = false ∧ f.prog = p.index ∧ f.desc = (chanAt s c).pc ∧
    chanAt t c = nextDesc { chanAt s c with
      flights := (chanAt s c).flights ++ [f]
      counters := bump (bump (chanAt s c).counters 11 n) 12 n }

theorem flown_transferred (there : ChanThere s c) (mem : Memory) (n : Nat) :
    Flown s (transferred s c (flightOf (chanAt s c) p) mem n n) c p n :=
  ⟨flightOf (chanAt s c) p, rfl, rfl, rfl, rfl, rfl, chanAt_transferred there⟩

theorem plainMove_abs {x : DmaChan} (h : PlainMove m) : PlainMove (absMove x m) :=
  ⟨h.compress, h.ring, h.slen, h.scnt, h.dlen, h.dcnt, h.apart, h.total⟩

theorem execMove_plain (there : ChanThere s c) (hh : chanHead (chanAt s c) = some (p, .move m)) (hlive : chanLive s c = true)
    (ho : p.priv = true ∨ (chanAt s c).mode = .normal) (hw : (chanAt s c).waiting = false) (hsig : (chanAt s c).signalling = false)
    (hm : moveCheck c m = true) (h : PlainMove m) (hp : s.poison = [])
    (hs : Reach s (chanCtx c p.priv) (absMove (chanAt s c) m).src A (srcSpan m) false)
    (hd : Reach s (chanCtx c p.priv) (absMove (chanAt s c) m).dst B (dstSpan m) true)
    (hapart : A + srcSpan m ≤ B ∨ B + dstSpan m ≤ A) : exec (.move c) s = .next (transferred s c (flightOf (chanAt s c) p)
      (putPieces s.mem (streamPieces (.move (absMove (chanAt s c) m)) (fetched s (dmaReads (.move (absMove (chanAt s c) m))))))
      (m.slen * m.scnt) (m.slen * m.scnt)) := by
  have habs : PlainMove (absMove (chanAt s c) m) := plainMove_abs h
  have same : packLimited s c (absMove (chanAt s c) m) = absMove (chanAt s c) m :=
    if_pos (show m.compress ≠ 1 by rw [h.compress]; decide)
  have spans : spansOk s (chanCtx c p.priv) (.move (absMove (chanAt s c) m)) = true := spansOk_move habs hs hd
  show execMove c s = _
  rw [execMove, issueDma_head hh hlive ho rfl hw hsig]
  simp only [hm, same, spans, Bool.not_true, Bool.false_eq_true, if_false]
  rw [startTransfer_plain (plainTransfer_move habs hp hs hd hapart), readCount_move habs, pieceBytes_move habs,
    settleCopy_transferred there]
  rfl

theorem move_plain (hi : s.Inv) (there : ChanThere s c) (hh : chanHead (chanAt s c) = some (p, .move m)) (hlive : chanLive s c = true)
    (ho : p.priv = true ∨ (chanAt s c).mode = .normal) (hw : (chanAt s c).waiting = false) (hsig : (chanAt s c).signalling = false)
    (hm : moveCheck c m = true) (hc : m.compress = 0) (hr : m.ring = false) (hp : s.poison = [])
    (hs : Reach s (chanCtx c p.priv) (m.src + baseReg (chanAt s c) m.sreg) A ((m.scnt - 1) * m.sstride + m.slen) false)
    (hd : Reach s (chanCtx c p.priv) (m.dst + baseReg (chanAt s c) m.dreg) B ((m.dcnt - 1) * m.dstride + m.dlen) true)
    (hapart : A + ((m.scnt - 1) * m.sstride + m.slen) ≤ B ∨ B + ((m.dcnt - 1) * m.dstride + m.dlen) ≤ A) :
    ∃ t, exec (.move c) s = .next t ∧ Flown s t c p (m.slen * m.scnt) ∧ ChanOthers s t c ∧ t.moorings = s.moorings ∧
      t.host = s.host ∧ t.router = s.router ∧ t.poison = [] ∧
      (∀ j i, j < m.dcnt → i < m.dlen → readByte t (B + j * m.dstride + i) =
        readByte s (A + (j * m.dlen + i) / m.slen * m.sstride + (j * m.dlen + i) % m.slen)) ∧
      (∀ b, (∀ j i, j < m.dcnt → i < m.dlen → b ≠ B + j * m.dstride + i) → readByte t b = readByte s b) := by
  have h : PlainMove m := plainMove_of_check hm hc hr
  have habs : PlainMove (absMove (chanAt s c) m) := plainMove_abs h
  refine ⟨_, execMove_plain there hh hlive ho hw hsig hm h hp hs hd hapart, flown_transferred there .., ?_⟩
  obtain ⟨others, moorings, host, router, poison, -⟩ := transferred_others (s := s) (c := c) (f := flightOf (chanAt s c) p)
    (m := putPieces s.mem (streamPieces (.move (absMove (chanAt s c) m)) (fetched s (dmaReads (.move (absMove (chanAt s c) m))))))
    (i := m.slen * m.scnt) (k := m.slen * m.scnt)
  refine ⟨others, moorings, host, router, poison.trans hp, fun j i hj hi' => ?_, fun b hb => ?_⟩
  · have inside := line_inside (stride := m.dstride) (len := m.dlen) hj
    have region := (hd (j * m.dstride + i) 1 one_pos (by omega)).2
    rw [readByte_transferred, if_neg (by rw [Nat.add_assoc]; exact region)]
    exact moved_inside habs hi.2 hs hd hj hi'
  · rw [readByte_transferred]
    split
    next => rfl
    next region =>
      rw [readByte, if_neg region]
      exact moved_outside habs hi.2 hd _ hb

end Move

end Sys2Proof.Machine
end

section
/-! PROOFS. A MOVE3 between two places of the module's memory (O14, R178, R184, R186). -/

namespace Sys2Proof.Machine

section Move3

variable {s : State} {c : Chan} {ctx : Ctx} {m : Move3Desc} {p : DmaProg} {A B sa sn da dn : Nat}

/-! ### Runs and spans -/

/-- A multiple of a step lies between nothing and the last multiple. -/
theorem step_between {i k : Nat} (hi : i < k) (st : Int) :
    min 0 (((k : Int) - 1) * st) ≤ i * st ∧ i * st ≤ max 0 (((k : Int) - 1) * st) := by
  have h1 : (i : Int) ≤ (k : Int) - 1 := by omega
  have h0 : (0 : Int) ≤ i := by omega
  rcases le_total 0 st with hst | hst
  · exact ⟨(min_le_left ..).trans (mul_nonneg h0 hst), (mul_le_mul_of_nonneg_right h1 hst).trans (le_max_right ..)⟩
  · exact ⟨(min_le_right ..).trans (mul_le_mul_of_nonpos_right h1 hst), (mul_nonpos_of_nonneg_of_nonpos h0 hst).trans (le_max_left ..)⟩

/-- An offset of one side of a run: an index of each dimension times its step. -/
def IsOffset (m : Move3Desc) (st : List Int) (z : Int) : Prop :=
  ∃ i0 i1 i2 : Nat, i0 < m.c.getD 0 0 ∧ i1 < m.c.getD 1 0 ∧ i2 < m.c.getD 2 0 ∧
    z = i0 * st.getD 0 0 + i1 * st.getD 1 0 + i2 * st.getD 2 0

theorem isOffset_of_run {q : Int × Int} (h : q ∈ move3Runs m) : IsOffset m m.sstep q.1 ∧ IsOffset m m.dstep q.2 := by
  unfold move3Runs at h
  simp only [List.mem_flatMap, List.mem_map, List.mem_range] at h
  obtain ⟨i2, h2, i1, h1, i0, h0, rfl⟩ := h
  exact ⟨⟨i0, i1, i2, h0, h1, h2, rfl⟩, ⟨i0, i1, i2, h0, h1, h2, rfl⟩⟩

/-- A dimension that has an index is listed. -/
theorem getD_listed {l : List Nat} {k i : Nat} (h : i < l.getD k 0) : l.getD k 1 = l.getD k 0 := by
  rw [List.getD_eq_getElem?_getD] at h
  rw [List.getD_eq_getElem?_getD, List.getD_eq_getElem?_getD]
  revert h
  cases l[k]? with
  | none => exact fun h => absurd h (Nat.not_lt_zero _)
  | some n => exact fun _ => rfl

/-- Every run lies in its side's span. -/
theorem run_inside {base a n : Nat} {st : List Int} {z : Int} (h : move3Span m base st = some (a, n)) (hz : IsOffset m st z) :
    (a : Int) ≤ base + z ∧ base + z + m.len ≤ (a : Int) + n := by
  obtain ⟨i0, i1, i2, h0, h1, h2, rfl⟩ := hz
  have b0 := step_between h0 (st.getD 0 0)
  have b1 := step_between h1 (st.getD 1 0)
  have b2 := step_between h2 (st.getD 2 0)
  unfold move3Span at h
  simp only [getD_listed h0, getD_listed h1, getD_listed h2] at h
  split at h
  · cases h
  · cases h
    omega

theorem span_length {base a n : Nat} {st : List Int} (h : move3Span m base st = some (a, n)) : m.len ≤ n := by
  unfold move3Span at h
  dsimp only at h
  split at h
  · cases h
  · cases h
    omega

/-! ### What it reads and writes -/

theorem dmaSpans_move3 (hs : move3Span m m.src m.sstep = some (sa, sn)) (hd : move3Span m m.dst m.dstep = some (da, dn)) :
    dmaSpans (.move3 m) = some [(sa, sn, false), (da, dn, true)] := by
  simp only [dmaSpans, hs, hd]

theorem dmaReads_move3_shape {j : Nat} {r : Nat × Nat × Nat} (h : (dmaReads (.move3 m))[j]? = some r) : r.2 = (m.len, j * m.len) := by
  simp only [dmaReads, List.getElem?_map, List.getElem?_zipIdx, Option.map_map] at h
  obtain ⟨q, -, rfl⟩ := Option.map_eq_some_iff.1 h
  simp

theorem dmaReads_move3_part {j : Nat} {q : Int × Int} (h : (move3Runs m)[j]? = some q) :
    (dmaReads (.move3 m))[j]? = some (((m.src : Int) + q.1).toNat, m.len, j * m.len) := by
  simp [dmaReads, h]

theorem length_move3Runs : (move3Runs m).length = m.c.getD 0 0 * m.c.getD 1 0 * m.c.getD 2 0 := by
  simp only [move3Runs, List.length_flatMap, List.length_map, List.length_range]
  rw [sum_map_const, sum_map_const, List.length_range, List.length_range]
  ring

theorem readCount_move3 : readCount (.move3 m) = m.len * m.c.getD 0 0 * m.c.getD 1 0 * m.c.getD 2 0 := by
  rw [readCount, dmaReads, List.map_map, sumNat_eq_sum]
  refine (sum_map_const (move3Runs m).zipIdx m.len).trans ?_
  rw [List.length_zipIdx, length_move3Runs]
  ring

theorem pieceBytes_move3 (data : Memory) :
    pieceBytes (streamPieces (.move3 m) data) = m.len * m.c.getD 0 0 * m.c.getD 1 0 * m.c.getD 2 0 := by
  rw [pieceBytes, streamPieces, dmaWrites, List.map_map, List.map_map]
  refine (congrArg List.sum (List.map_congr_left fun r _ => bytesAt_length ..)).trans ?_
  rw [sum_map_const (move3Runs m).zipIdx m.len, List.length_zipIdx, length_move3Runs]
  ring

theorem plainTransfer_move3 (hlen : 0 < m.len) (hp : s.poison = []) (hss : move3Span m m.src m.sstep = some (sa, sn))
    (hds : move3Span m m.dst m.dstep = some (da, dn)) (hs : Reach s ctx sa A sn false) (hd : Reach s ctx da B dn true)
    (hapart : A + sn ≤ B ∨ B + dn ≤ A) : PlainTransfer s ctx (.move3 m) da dn := by
  have := span_length hss
  have := span_length hds
  have hsrc : checkAddr s ctx sa sn false = some (.mem A) := (hs 0 sn (by omega) (by omega)).1
  have hdst : checkAddr s ctx da dn true = some (.mem B) := (hd 0 dn (by omega) (by omega)).1
  refine ⟨nofun, hp, fun r hr => ?_, fun w hw => ?_, ⟨B, hd⟩, ?_, ?_⟩
  · simp only [dmaReads, List.mem_map] at hr
    obtain ⟨q, hq, rfl⟩ := hr
    have inside := run_inside hss (isOffset_of_run (List.fst_mem_of_mem_zipIdx hq)).1
    exact hs.part (x := ((m.src : Int) + q.1.1).toNat) (k := m.len) hlen (by omega) (by omega)
  · simp only [dmaWrites, List.mem_map] at hw
    obtain ⟨q, hq, rfl⟩ := hw
    have inside := run_inside hds (isOffset_of_run (List.fst_mem_of_mem_zipIdx hq)).2
    dsimp only
    omega
  · unfold sidesOverlap
    simp only [dmaSpans_move3 hss hds, hsrc, hdst]
    rw [Bool.and_eq_false_iff, decide_eq_false_iff_not, decide_eq_false_iff_not]
    omega
  · simp [writesHost, dmaSpans_move3 hss hds, hdst]

theorem spansOk_move3 (hlen : 0 < m.len) (hss : move3Span m m.src m.sstep = some (sa, sn))
    (hds : move3Span m m.dst m.dstep = some (da, dn)) (hs : Reach s ctx sa A sn false) (hd : Reach s ctx da B dn true) :
    spansOk s ctx (.move3 m) = true := by
  have := span_length hss
  have := span_length hds
  have hsrc : checkAddr s ctx sa sn false = some (.mem A) := (hs 0 sn (by omega) (by omega)).1
  have hdst : checkAddr s ctx da dn true = some (.mem B) := (hd 0 dn (by omega) (by omega)).1
  simp [spansOk, dmaSpans_move3 hss hds, hsrc, hdst]

/-! ### The bytes moved -/

/-- A run's bytes, where they come to lie: those of its source. -/
def runPiece (s : State) (m : Move3Desc) (A B sa da : Nat) (q : Int × Int) : Nat × List Byte :=
  (B + (((m.dst : Int) + q.2).toNat - da), readMem s (A + (((m.src : Int) + q.1).toNat - sa)) m.len)

theorem stream_move3 (hlen : 0 < m.len) (hss : move3Span m m.src m.sstep = some (sa, sn)) (hs : Reach s ctx sa A sn false) {j : Nat}
    {q : Int × Int} (hq : (move3Runs m)[j]? = some q) : bytesAt (fetched s (dmaReads (.move3 m))) (j * m.len) m.len =
      readMem s (A + (((m.src : Int) + q.1).toNat - sa)) m.len := by
  have inside := run_inside hss (isOffset_of_run (List.mem_of_getElem? hq)).1
  rw [bytesAt_eq, readMem_eq]
  refine List.map_congr_left fun k hk => ?_
  rw [byteAt_fetched (fun _ _ h => dmaReads_move3_shape h) (dmaReads_move3_part hq) (List.mem_range.1 hk),
    (hs.place (by omega) (by omega)).1]

theorem piece_move3 (hlen : 0 < m.len) (hss : move3Span m m.src m.sstep = some (sa, sn)) (hds : move3Span m m.dst m.dstep = some (da, dn))
    (hs : Reach s ctx sa A sn false) (hd : Reach s ctx da B dn true) :
    (streamPieces (.move3 m) (fetched s (dmaReads (.move3 m)))).map (fun q => (bits q.1 55 0, q.2)) =
      (move3Runs m).map (runPiece s m A B sa da) := by
  rw [streamPieces, dmaWrites, List.map_map, List.map_map, ← List.zipIdx_map_fst 0 (move3Runs m), List.map_map, List.zipIdx_map_fst]
  refine List.map_congr_left fun r hr => ?_
  have hq : (move3Runs m)[r.2]? = some r.1 := List.mem_zipIdx_iff_getElem?.1 hr
  have inside := run_inside hds (isOffset_of_run (List.mem_of_getElem? hq)).2
  refine Prod.ext ?_ (stream_move3 hlen hss hs hq)
  exact (hd.place (x := ((m.dst : Int) + r.1.2).toNat) (by omega) (by omega)).1

/-- Run q covers the byte at b of the destination. -/
abbrev RunCovers (m : Move3Desc) (B da : Nat) (q : Int × Int) (b : Nat) : Prop :=
  (m.dst : Int) + q.2 ≤ da + ((b : Int) - B) ∧ da + ((b : Int) - B) < m.dst + q.2 + m.len

theorem pieceCovers_run (hds : move3Span m m.dst m.dstep = some (da, dn)) {q : Int × Int} (hq : q ∈ move3Runs m) (b : Nat) :
    pieceCovers b (runPiece s m A B sa da q) = true ↔ RunCovers m B da q b := by
  have inside := run_inside hds (isOffset_of_run hq).2
  rw [pieceCovers_iff, runPiece, readMem_length, RunCovers]
  omega

/-- The last run that covers a byte gives it. -/
theorem moved3_covered (ok : memoryWf s.mem = true) (hlen : 0 < m.len) (hss : move3Span m m.src m.sstep = some (sa, sn))
    (hds : move3Span m m.dst m.dstep = some (da, dn)) (hs : Reach s ctx sa A sn false) (hd : Reach s ctx da B dn true) {b : Nat}
    {r : Int × Int}
    (hr : (move3Runs m).reverse.find? (fun q => decide (RunCovers m B da q b)) = some r) :
    byteAt (putPieces s.mem (streamPieces (.move3 m) (fetched s (dmaReads (.move3 m))))) b =
      readByte s ((A : Int) + ((m.src : Int) + r.1 - sa) + (da + ((b : Int) - B) - ((m.dst : Int) + r.2))).toNat := by
  have found : ((move3Runs m).map (runPiece s m A B sa da)).reverse.find? (pieceCovers b) = some (runPiece s m A B sa da r) := by
    rw [← List.map_reverse, List.find?_map]
    refine Option.map_eq_some_iff.2 ⟨r, ?_, rfl⟩
    rw [← hr]
    refine List.find?_congr fun q hq => ?_
    rw [Bool.eq_iff_iff, decide_eq_true_iff]
    exact pieceCovers_run hds (List.mem_reverse.1 hq) b
  have hmem : r ∈ move3Runs m := List.mem_reverse.1 (List.mem_of_find?_eq_some hr)
  obtain ⟨low, high⟩ : RunCovers m B da r b :=
    of_decide_eq_true (List.find?_some (p := fun q => decide (RunCovers m B da q b)) hr)
  have inside := run_inside hds (isOffset_of_run hmem).2
  have inside' := run_inside hss (isOffset_of_run hmem).1
  rw [putPieces_eq_setAll, piece_move3 hlen hss hds hs hd, byteAt_setAll ok, found]
  show (readMem s _ m.len).getD _ 0 = _
  rw [readMem_getD s _ (by rw [runPiece]; omega)]
  congr 1
  rw [runPiece]
  omega

theorem moved3_uncovered (ok : memoryWf s.mem = true) (hlen : 0 < m.len) (hss : move3Span m m.src m.sstep = some (sa, sn))
    (hds : move3Span m m.dst m.dstep = some (da, dn)) (hs : Reach s ctx sa A sn false) (hd : Reach s ctx da B dn true) {b : Nat}
    (hb : ∀ q ∈ move3Runs m, ¬ RunCovers m B da q b) :
    byteAt (putPieces s.mem (streamPieces (.move3 m) (fetched s (dmaReads (.move3 m))))) b = byteAt s.mem b := by
  rw [putPieces_eq_setAll, piece_move3 hlen hss hds hs hd]
  refine byteAt_setAll_uncovered ok fun q hq hqc => ?_
  obtain ⟨r, hr, rfl⟩ := List.mem_map.1 hq
  exact hb r hr ((pieceCovers_run hds hr b).1 hqc)

/-! ### The MOVE3 -/

theorem execMove3_plain (hh : chanHead (chanAt s c) = some (p, .move3 m)) (hlive : chanLive s c = true) (hpriv : p.priv = true)
    (hw : (chanAt s c).waiting = false) (hsig : (chanAt s c).signalling = false) (hmode : (chanAt s c).mode ≠ .normal)
    (hm : move3Check m = true) (hlen : 0 < m.len) (hp : s.poison = [])
    (hss : move3Span (absMove3 (chanAt s c) m) (absMove3 (chanAt s c) m).src m.sstep = some (sa, sn))
    (hds : move3Span (absMove3 (chanAt s c) m) (absMove3 (chanAt s c) m).dst m.dstep = some (da, dn))
    (hs : Reach s (chanCtx c p.priv) sa A sn false) (hd : Reach s (chanCtx c p.priv) da B dn true)
    (hapart : A + sn ≤ B ∨ B + dn ≤ A) : exec (.move3 c) s = .next (transferred s c (flightOf (chanAt s c) p)
      (putPieces s.mem (streamPieces (.move3 (absMove3 (chanAt s c) m)) (fetched s (dmaReads (.move3 (absMove3 (chanAt s c) m))))))
      (m.len * m.c.getD 0 0 * m.c.getD 1 0 * m.c.getD 2 0) (m.len * m.c.getD 0 0 * m.c.getD 1 0 * m.c.getD 2 0)) := by
  have spans : spansOk s (chanCtx c p.priv) (.move3 (absMove3 (chanAt s c) m)) = true := spansOk_move3 hlen hss hds hs hd
  show execMove3 c s = _
  rw [execMove3, issueDma_head hh hlive (.inl hpriv) rfl hw hsig]
  simp only [hm, hmode, spans, Bool.not_true, Bool.false_eq_true, if_false]
  rw [startTransfer_plain (plainTransfer_move3 (m := absMove3 (chanAt s c) m) hlen hp hss hds hs hd hapart), readCount_move3, pieceBytes_move3]
  rfl

theorem move3_plain (hi : s.Inv) (there : ChanThere s c) (hh : chanHead (chanAt s c) = some (p, .move3 m)) (hlive : chanLive s c = true)
    (hpriv : p.priv = true) (hw : (chanAt s c).waiting = false) (hsig : (chanAt s c).signalling = false)
    (hmode : (chanAt s c).mode ≠ .normal) (hm : move3Check m = true) (hp : s.poison = [])
    (hss : move3Span (absMove3 (chanAt s c) m) (absMove3 (chanAt s c) m).src m.sstep = some (sa, sn))
    (hds : move3Span (absMove3 (chanAt s c) m) (absMove3 (chanAt s c) m).dst m.dstep = some (da, dn))
    (hs : Reach s (chanCtx c p.priv) sa A sn false) (hd : Reach s (chanCtx c p.priv) da B dn true)
    (hapart : A + sn ≤ B ∨ B + dn ≤ A) :
    ∃ t, exec (.move3 c) s = .next t ∧ Flown s t c p (m.len * m.c.getD 0 0 * m.c.getD 1 0 * m.c.getD 2 0) ∧ ChanOthers s t c ∧
      t.moorings = s.moorings ∧ t.host = s.host ∧ t.router = s.router ∧ t.poison = [] ∧
      (∀ (b : Nat) (r : Int × Int), (move3Runs m).reverse.find? (fun q => decide (RunCovers (absMove3 (chanAt s c) m) B da q b)) = some r →
        readByte t b = readByte s ((A : Int) + (((absMove3 (chanAt s c) m).src : Int) + r.1 - sa) +
          (da + ((b : Int) - B) - (((absMove3 (chanAt s c) m).dst : Int) + r.2))).toNat) ∧
      (∀ b : Nat, (∀ q ∈ move3Runs m, ¬ RunCovers (absMove3 (chanAt s c) m) B da q b) → readByte t b = readByte s b) := by
  have hlen : 0 < m.len := by
    simp only [move3Check, Bool.and_eq_true, decide_eq_true_eq] at hm
    exact hm.1.1.2
  refine ⟨_, execMove3_plain hh hlive hpriv hw hsig hmode hm hlen hp hss hds hs hd hapart, flown_transferred there .., ?_⟩
  obtain ⟨others, moorings, host, router, poison, -⟩ := transferred_others (s := s) (c := c) (f := flightOf (chanAt s c) p)
    (m := putPieces s.mem (streamPieces (.move3 (absMove3 (chanAt s c) m)) (fetched s (dmaReads (.move3 (absMove3 (chanAt s c) m))))))
    (i := m.len * m.c.getD 0 0 * m.c.getD 1 0 * m.c.getD 2 0) (k := m.len * m.c.getD 0 0 * m.c.getD 1 0 * m.c.getD 2 0)
  refine ⟨others, moorings, host, router, poison.trans hp, fun b r hr => ?_, fun b hb => ?_⟩
  · obtain ⟨low, high⟩ : RunCovers (absMove3 (chanAt s c) m) B da r b :=
      of_decide_eq_true (List.find?_some (p := fun q => decide (RunCovers (absMove3 (chanAt s c) m) B da q b)) hr)
    have inside : (da : Int) ≤ (absMove3 (chanAt s c) m).dst + r.2 ∧ (absMove3 (chanAt s c) m).dst + r.2 + m.len ≤ (da : Int) + dn :=
      run_inside hds (isOffset_of_run (m := absMove3 (chanAt s c) m) (List.mem_reverse.1 (List.mem_of_find?_eq_some hr))).2
    have high' : da + ((b : Int) - B) < (absMove3 (chanAt s c) m).dst + r.2 + m.len := high
    have region := (hd (b - B) 1 one_pos (by omega)).2
    rw [Nat.add_sub_cancel' (by omega)] at region
    rw [readByte_transferred, if_neg region]
    exact moved3_covered (m := absMove3 (chanAt s c) m) hi.2 hlen hss hds hs hd hr
  · rw [readByte_transferred]
    split
    next => rfl
    next region =>
      rw [readByte, if_neg region]
      exact moved3_uncovered (m := absMove3 (chanAt s c) m) hi.2 hlen hss hds hs hd hb

end Move3

end Sys2Proof.Machine
end

section
/-! PROOFS. DMA channels (O14). -/

namespace Sys2Proof.Machine

/-- Settles O14: each descriptor's rule, from what changing one channel leaves of the module. -/
theorem dmaChannels : Obligations.DmaChannels := by
  intro s c hi hc hlive
  have there : ChanThere s c := chanThere_of_inv hi hc
  intro x ctx others quiet counted one open_ copying reach flown
  refine ⟨?move, ?move3, ?bad, ?closed, ?loop, ?wait, ?signal, ?retire, ?stop, ?stopSignal, ?stopCopy⟩
  case move =>
    intro p m A B hh ho hw hsig hm hcomp hring hp src dst hs hd hapart
    exact move_plain hi there hh hlive ho hw hsig hm hcomp hring hp hs hd hapart
  case move3 =>
    intro p m A B hh hpriv hw hsig hmode hm hp src dst sa sn da dn covers hss hds hs hd hapart
    exact move3_plain hi there hh hlive hpriv hw hsig hmode hm hp hss hds hs hd hapart
  case bad =>
    intro p d hh ho hw hsig rings bad
    refine ⟨fun m hd hm => ?_, fun m hd hmode => ?_, fun m hd hmode hm => ?_, fun n hd => ?_, fun m hd hm hspan => ?_⟩ <;> subst hd
    · exact bad_move there rings hh hlive ho hw hsig hm
    · exact bad_move3_mode there rings hh hlive hw hsig hmode
    · exact bad_move3_field there rings hh hlive ho hw hsig hmode hm
    · exact bad_other there rings hh hlive ho hw hsig
    · exact bad_span there rings hh hlive ho hw hsig hm hspan
  case closed =>
    intro p d hh hpriv hmode
    exact exec_closed hh hpriv hmode
  case loop =>
    intro p target count adv ladv wadv iadv hh ho hw hsig ht
    exact ⟨loop_again there hh hlive ho hw hsig ht, fun hpos hcount => loop_over there hh hlive ho hw hsig ht hpos hcount _ rfl⟩
  case wait =>
    intro l k p passes cnt value hl hh ho hsig count through
    subst hl
    obtain ⟨hcounted, hquiet, hchan⟩ := retireStep_quiet there
    have ready : waitReady s (.lantern l k) passes cnt value = true ↔ value + x.woff ≤ count := by
      rw [waitReady_iff]
      cases passes <;> rfl
    have notReady (h : count < value + x.woff) : waitReady s (.lantern l k) passes cnt value = false :=
      Bool.eq_false_iff.2 fun hr => absurd (ready.1 hr) (not_le.2 h)
    refine ⟨fun hw hv => ⟨_, ?_, hcounted, hquiet, hchan⟩,
      fun hw hv => ⟨_, ?_, onlyChan_modChan.quiet, chanAt_modChan (f := fun x => { x with waiting := true }) there⟩,
      fun hw hv => ⟨_, ?_, hcounted, hquiet, hchan⟩, fun hw hv => ?_⟩
    · rw [execDmaWait_head hh hlive ho hw hsig, ready.2 hv, if_pos rfl]
    · rw [execDmaWait_head hh hlive ho hw hsig, notReady hv, if_neg Bool.false_ne_true]
    · rw [execDmaWaitSatisfied_held hh hlive hw, ready.2 hv, if_pos rfl]
    · rw [execDmaWaitSatisfied_held hh hlive hw, notReady hv, if_neg Bool.false_ne_true]
  case signal =>
    intro p cnt inc lantern l hh ho hcnt hinc ht
    exact ⟨fun hw hsig => signal_issues there hh hlive ho hcnt hinc ht hw hsig,
      fun hsig hf hl hv => signal_through hi there hh hlive hcnt ht hsig hf hl hv, fun _ hf => signalStep_fenced hf⟩
  case retire =>
    intro f hf hj
    exact retire_performed there hf hj
  case stop =>
    intro hw hsig
    obtain ⟨runs, hothers, hquiet, hchan⟩ := channelStop_leaves (s := s) (c := c)
    have now := hchan.trans (chanAt_stopChannel there hw hsig)
    exact ⟨_, runs, hothers, hquiet, by rw [now]; exact ⟨rfl, rfl, rfl, rfl, rfl, rfl, rfl, rfl, rfl, rfl⟩⟩
  case stopSignal =>
    intro hsig
    obtain ⟨runs, hothers, hquiet, hchan⟩ := channelStop_leaves (s := s) (c := c)
    have now := hchan.trans (chanAt_stopChannel_signalling there hsig)
    refine ⟨_, runs, hothers, hquiet, ?_⟩
    rw [now]
    exact ⟨hsig, by rw [lastSignal, List.length_map, List.length_take], rfl⟩
  case stopCopy =>
    intro n o k a hn ho hk rings
    subst hn
    obtain ⟨runs, hothers, -, -⟩ := channelStop_leaves (s := s) (c := .system n)
    obtain ⟨mem, q, hq, hcopy, gone⟩ := channelStop_copying ho ⟨k, a, hk⟩ rings
    exact ⟨_, runs, hothers, mem, q, hq, hcopy, gone⟩

end Sys2Proof.Machine
end

section
/-! PROOFS. A completion record on its way to its ring, or waiting in staging (O33, R190 to R193). -/

namespace Sys2Proof.Machine

section Records

variable {s t w : State} {f q rec : Nat} {tag : Option Nat} {b : BitVec 256}

/-! ### A record joins its queue's order (R190, R193) -/

/-- A record in its queue's staging, its tag reported; nothing moved to the ring yet. -/
def recordStaged (s : State) (f q : Nat) (tag : Option Nat) (rec : Nat) : State :=
  modFunc (modQueue s f q (fun x => { x with staged := x.staged ++ [BitVec.ofNat 256 rec] })) f
    (fun x => { x with reported := (tag :: x.reported).take 65536 })

theorem postRecord_bound (h : completionBound s f q = true) :
    postRecord s f q tag rec = flushQueue (recordStaged s f q tag rec) f q := if_pos h

theorem inv_recordStaged (hi : s.Inv) : (recordStaged s f q tag rec).Inv := inv_modFunc (fun _ hx => hx) (inv_modQueue hi)

theorem func_there (hi : s.Inv) (hf : f < 44) : f < s.funcs.length := hf.trans_eq hi.1.2.1.1.symm

theorem queueAt_modQueue_of_inv (hi : s.Inv) (hf : f < 44) (hq : q < 16) (g : Queue → Queue) :
    queueAt (modQueue s f q g) f q = g (queueAt s f q) := by
  obtain ⟨-, queues, -⟩ := funcOk_funcAt (f := f) hi
  exact queueAt_modQueue_same s f q g (func_there hi hf) (hq.trans_eq queues.symm)

theorem queueAt_recordStaged (hi : s.Inv) (hf : f < 44) (hq : q < 16) : queueAt (recordStaged s f q tag rec) f q =
    { queueAt s f q with staged := (queueAt s f q).staged ++ [BitVec.ofNat 256 rec] } :=
  (queueAt_modFunc_keeps f _ (by intro _; rfl) f q).trans (queueAt_modQueue_of_inv hi hf hq _)

theorem reported_recordStaged (hi : s.Inv) (hf : f < 44) :
    (funcAt (recordStaged s f q tag rec) f).reported = (tag :: (funcAt s f).reported).take 65536 := by
  have before : (funcAt (modQueue s f q (fun x => { x with staged := x.staged ++ [BitVec.ofNat 256 rec] })) f).reported =
      (funcAt s f).reported := funcAt_modFunc_keeps Func.reported _ _ _ fun _ => rfl
  rw [recordStaged, funcAt_modFunc_same _ _ _ (func_there (inv_modQueue hi) hf)]
  dsimp only
  rw [before]

/-- The record's tag is reported, wherever the record is. -/
theorem reported_postRecord (hi : s.Inv) (hf : f < 44) (hb : completionBound s f q = true) :
    (funcAt (postRecord s f q tag rec) f).reported = (tag :: (funcAt s f).reported).take 65536 := by
  rw [postRecord_bound hb, flushQueue_func Func.reported (fun _ _ => rfl) (fun _ _ _ => rfl), reported_recordStaged hi hf]

/-! ### From staging to the ring (R192, R193) -/

theorem drainQueue_full (h : ringRoom (queueAt s f q) = false) (n : Nat) : drainQueue n s f q = s := by
  cases n with
  | zero => rfl
  | succ n => simp [drainQueue, h]

theorem drainQueue_drained (hl : (queueAt s f q).lost = 0) (hs : (queueAt s f q).staged = []) (n : Nat) : drainQueue n s f q = s := by
  cases n with
  | zero => rfl
  | succ n => simp [drainQueue, hl, hs]

/-- Nothing leaves staging while the ring has no slot free. -/
theorem flushQueue_full (h : ringRoom (queueAt s f q) = false) : flushQueue s f q = s := by
  unfold flushQueue
  dsimp only
  rw [drainQueue_full h, ite_self]

theorem drainQueue_writes {bs : List (BitVec 256)} (hr : ringRoom (queueAt s f q) = true) (hl : (queueAt s f q).lost = 0)
    (hs : (queueAt s f q).staged = b :: bs) (hw : ringWrite s f q b.toNat = some t) (n : Nat) :
    drainQueue (n + 1) s f q = drainQueue n (modQueue t f q (fun x => { x with staged := bs })) f q := by
  simp [drainQueue, hr, hl, hs, hw]

/-- The one record in staging goes into a free slot. -/
theorem flushQueue_one (hi : s.Inv) (hf : f < 44) (hq : q < 16) (hb : (queueAt s f q).bound = true) (hr : ringRoom (queueAt s f q) = true)
    (hl : (queueAt s f q).lost = 0) (hs : (queueAt s f q).staged = [b]) (hw : ringWrite s f q b.toNat = some t) :
    flushQueue s f q = modQueue t f q (fun x => { x with staged := [] }) := by
  have ti : t.Inv := inv_ringWrite hi t hw
  have lost : (queueAt t f q).lost = 0 := (ringWrite_keeps Queue.lost (fun _ _ _ => rfl) hw f q).trans hl
  unfold flushQueue
  dsimp only
  rw [if_pos hb, drainQueue_writes hr hl hs hw]
  refine drainQueue_drained ?_ ?_ _ <;> rw [queueAt_modQueue_of_inv ti hf hq]
  exact lost

/-- A slot that the Keeper can write takes the record, and PROD advances. -/
theorem ringWrite_written (hi : s.Inv) (hf : f < 44) (hq : q < 16)
    (hw : keeperWrite s f ((queueAt s f q).base + 32 * ((queueAt s f q).prod % 2 ^ (queueAt s f q).log2n))
      (natLE 32 (withPhase rec (queueAt s f q).log2n (queueAt s f q).prod)) = .ok w) :
    ∃ t, ringWrite s f q rec = some t ∧ t.host = w.host ∧ (queueAt t f q).prod = ((queueAt s f q).prod + 1) % 2 ^ 32 := by
  have wi : w.Inv := inv_keeperWrite hi w hw
  have same : queueAt w f q = queueAt s f q := queueAt_funcs (keeperWrite_funcs hw) f q
  have counted : (queueAt (modQueue w f q (fun x => { x with prod := (x.prod + 1) % 2 ^ 32, unannounced := x.unannounced + 1 })) f q).prod =
      ((queueAt s f q).prod + 1) % 2 ^ 32 := by
    rw [queueAt_modQueue_of_inv wi hf hq, same]
  unfold ringWrite ringSize
  simp only [hw]
  split
  · refine ⟨_, rfl, raiseVector_host .., ?_⟩
    rw [raiseVector_queueAt, queueAt_modQueue_keeps Queue.prod _ _ _ (by intro _; rfl), counted]
  · exact ⟨_, rfl, rfl, counted⟩

theorem bme_recordStaged (g : Nat) : (funcAt (recordStaged s f q tag rec) g).bme = (funcAt s g).bme := by
  have queues : (funcAt (modQueue s f q (fun x => { x with staged := x.staged ++ [BitVec.ofNat 256 rec] })) g).bme = (funcAt s g).bme :=
    funcAt_modFunc_keeps Func.bme _ _ _ fun _ => rfl
  exact (funcAt_modFunc_keeps Func.bme _ _ _ (by intro _; rfl)).trans queues

/-- Staging a record changes nothing that a write into a host window depends on. -/
theorem keeperWrite_recordStaged {addr : Nat} {bs : List Byte} (ha : 7 * 2 ^ 61 ≤ addr) (hw : keeperWrite s f addr bs = .ok w) :
    keeperWrite (recordStaged s f q tag rec) f addr bs = .ok { recordStaged s f q tag rec with host := w.host } :=
  keeperWrite_host_congr (s := s) ha rfl rfl bme_recordStaged rfl hw

/-- A record for a ring with no slot free waits in staging. -/
theorem queueAt_postRecord_full (hi : s.Inv) (hf : f < 44) (hq : q < 16) (hb : completionBound s f q = true)
    (hr : ringRoom (queueAt s f q) = false) : queueAt (postRecord s f q tag rec) f q =
      { queueAt s f q with staged := (queueAt s f q).staged ++ [BitVec.ofNat 256 rec] } := by
  have staged := queueAt_recordStaged (tag := tag) (rec := rec) hi hf hq
  rw [postRecord_bound hb, flushQueue_full (by rw [staged]; exact hr), staged]

/-- A record for a ring in a host window, with a slot free and none before it, is written there. -/
theorem postRecord_written (hi : s.Inv) (hf : f < 44) (hq : q < 16) (hb : completionBound s f q = true)
    (hr : ringRoom (queueAt s f q) = true) (hs : (queueAt s f q).staged = []) (hl : (queueAt s f q).lost = 0)
    (hbase : 7 * 2 ^ 61 ≤ (queueAt s f q).base) (hrec : rec < 2 ^ 256)
    (hw : keeperWrite s f ((queueAt s f q).base + 32 * ((queueAt s f q).prod % 2 ^ (queueAt s f q).log2n))
      (natLE 32 (withPhase rec (queueAt s f q).log2n (queueAt s f q).prod)) = .ok w) :
    (queueAt (postRecord s f q tag rec) f q).prod = ((queueAt s f q).prod + 1) % 2 ^ 32 ∧
    (queueAt (postRecord s f q tag rec) f q).staged = [] ∧ (postRecord s f q tag rec).host = w.host := by
  have bound : (queueAt s f q).bound = true := (Bool.and_eq_true_iff.1 hb).1
  have ui : (recordStaged s f q tag rec).Inv := inv_recordStaged hi
  have staged := queueAt_recordStaged (tag := tag) (rec := rec) hi hf hq
  rw [hs, List.nil_append] at staged
  have value : (BitVec.ofNat 256 rec).toNat = rec := Nat.mod_eq_of_lt hrec
  obtain ⟨t, write, host, prod⟩ := ringWrite_written (rec := rec) (w := { recordStaged s f q tag rec with host := w.host }) ui hf hq
    (by rw [staged]; exact keeperWrite_recordStaged (hbase.trans (Nat.le_add_right _ _)) hw)
  have ti : t.Inv := inv_ringWrite ui t write
  have moves : postRecord s f q tag rec = modQueue t f q (fun x => { x with staged := [] }) := by
    rw [postRecord_bound hb]
    refine flushQueue_one (b := BitVec.ofNat 256 rec) ui hf hq ?_ ?_ ?_ ?_ (by rw [value]; exact write) <;> rw [staged]
    · exact bound
    · exact hr
    · exact hl
  rw [moves, queueAt_modQueue_of_inv ti hf hq]
  refine ⟨?_, rfl, host⟩
  rw [staged] at prod
  exact prod

end Records

/-- Settles O33: without a free slot the record stays in staging; with one it is the record that ringWrite_written writes. -/
theorem completionRecords : Obligations.CompletionRecords := by
  intro s w f q tag rec hi hf hq hb x
  refine ⟨fun hr => ⟨queueAt_postRecord_full hi hf hq hb hr, reported_postRecord hi hf hb⟩, fun hr hs hl hbase hrec hw => ?_⟩
  obtain ⟨prod, staged, host⟩ := postRecord_written (tag := tag) hi hf hq hb hr hs hl hbase hrec hw
  exact ⟨prod, staged, host, reported_postRecord hi hf hb⟩

end Sys2Proof.Machine
end

section
/-! PROOFS. ABORT, DEADLINE_EXPIRY and FORWARD_TIMEOUT (O34, R171, R189, R190, R316, R372, R380, R392). -/

namespace Sys2Proof.Machine

section Aborts

variable {s t : State} {m : Mbox} {r : Request} {f tag n status : Nat} {o : LongOp}

/-! ### What an abort answers (R190, R372) -/

/-- A command that is outstanding ends, and the request is answered so. -/
theorem execAbort_found (ha : Asked s m 0x0007 r) (hm : m.ok = true) (ho : opAt s m.func tag = some o) :
    exec (.abort m tag none) s = .next (answer (abortOp s o stAborted) m r stAborted [] 0) := by
  have runs : exec (.abort m tag none) s = execAbort m tag none s := rfl
  have there : ¬ 44 ≤ m.func := Nat.not_le.2 (mboxFunc_lt hm)
  rw [runs, execAbort, next_asked ha]
  simp only [Option.getD_none, ne_eq, not_true_eq_false, false_and, there, if_false, ho]

/-- One that is not is over already, or not known. -/
theorem execAbort_gone (ha : Asked s m 0x0007 r) (hm : m.ok = true) (ho : opAt s m.func tag = none) :
    exec (.abort m tag none) s =
      .next (refuse m r (if some tag ∈ (funcAt s m.func).reported then stAlreadyComplete else stUnknownTag) s) := by
  have runs : exec (.abort m tag none) s = execAbort m tag none s := rfl
  have there : ¬ 44 ≤ m.func := Nat.not_le.2 (mboxFunc_lt hm)
  rw [runs, execAbort, next_asked ha]
  simp only [Option.getD_none, ne_eq, not_true_eq_false, false_and, there, if_false, ho, List.contains_iff_mem,
    apply_ite (fun st => refuse m r st s)]

/-- Only the PF may name a command of another function. -/
theorem execAbort_other (ha : Asked s m 0x0007 r) (hf : f ≠ m.func) (h0 : m.func ≠ 0) :
    exec (.abort m tag (some f)) s = .next (refuse m r stPrivilege s) := by
  have runs : exec (.abort m tag (some f)) s = execAbort m tag (some f) s := rfl
  rw [runs, execAbort, next_asked ha]
  simp only [Option.getD_some, if_pos (And.intro hf h0)]

theorem refuse_all (status : Nat) (hi : s.Inv) (hm : m.ok = true) :
    Answered (refuse m r status s) m r status [] 0 ∧ SameWork s (refuse m r status s) ∧ (refuse m r status s).keeper = s.keeper := by
  obtain ⟨answered, work, keeper, -⟩ := answer_all (r := r) status [] 0 hi hm (Nat.zero_le _)
  exact ⟨answered, work, keeper⟩

theorem sameUnits_of_work (h : SameWork s t) : SameUnits s t := by
  obtain ⟨-, -, lanterns, sysChans, towers, moorings, shore, -, time, power, boot, -⟩ := h
  exact ⟨power, boot, moorings, lanterns, towers, sysChans, time, shore⟩

/-- A response without a result leaves the units, flash and the outstanding commands. -/
theorem answer_leaves (status : Nat) (hi : s.Inv) (hm : m.ok = true) :
    let t := answer s m r status [] 0
    Answered t m r status [] 0 ∧ SameUnits s t ∧ t.flash = s.flash ∧ ∀ f tag, opAt t f tag = opAt s f tag := by
  obtain ⟨answered, work, keeper, -⟩ := answer_all (r := r) status [] 0 hi hm (Nat.zero_le _)
  have ⟨_, _, _, _, _, _, _, _, _, _, _, flash⟩ := work
  exact ⟨answered, sameUnits_of_work work, flash, opAt_of_ops (congrArg Keeper.ops keeper)⟩

/-! ### A transfer that waits for its bytes (R190, R191) -/

/-- The operation that a tag names carries that tag. -/
theorem opAt_named (ho : opAt s f tag = some o) : o.func = f ∧ o.tag = tag := by
  have named := List.find?_some ho
  simpa using named

/-- An operation of a function here ends in one record. -/
theorem finishOp_here (ho : opAt s f tag = some o) (hf : f < 64) (status flags detail : Nat) : finishOp s f tag status flags detail =
    postRecord (dropOp s f tag) f o.cq (some tag)
      (completionNat tag o.opcode status flags o.mooring 0 (mooringDaymark s (o.opened.getD o.mooring)) detail) := by
  unfold finishOp
  simp only [ho, if_neg (Nat.not_le.2 hf)]

theorem abortOp_transfer {d k : Nat} (ho : opAt s f tag = some o) (hk : o.kind = .tensorRead d k) (status : Nat) :
    abortOp s o status = finishOp s f tag status 0 0 := by
  obtain ⟨rfl, rfl⟩ := opAt_named ho
  unfold abortOp
  simp only [hk]

/-- The end of an operation adds to the log of flash at most records of lost events. -/
theorem finishOp_flash (f tag status flags detail : Nat) : LogGrows s.flash (finishOp s f tag status flags detail).flash := by
  unfold finishOp
  split
  next => exact .refl _
  next =>
    dsimp only
    split
    next => exact (outward_tellNode (s := dropOp s f tag) _ _).2.1
    next => exact (outward_postRecord (s := dropOp s f tag) _ _ _ _).2.1

/-! ### A copy on its system channel (R171, R189) -/

theorem copyOn_only {start addr : Nat} (ho : o ∈ s.keeper.ops) (hk : o.kind = .copy n start addr)
    (only : ∀ q ∈ s.keeper.ops, CopyOf n q → q = o) : copyOn s (.system n) = some (o, start) := by
  obtain ⟨q, start', found, hq, hc⟩ := copyOn_copying ho ⟨start, addr, hk⟩
  obtain ⟨p, hp, hr⟩ := List.exists_of_findSome?_eq_some found
  cases only q hq hc
  rw [found]
  split at hr
  next k start'' addr'' hk' =>
    split at hr
    next hn =>
      obtain ⟨rfl, rfl⟩ : p = o ∧ start'' = start' := by simpa using hr
      rw [hk] at hk'
      cases hk'
      rfl
    next => cases hr
  next => cases hr

/-- The abort of the one copy on a channel stops the channel and ends the command. -/
theorem abortOp_copy {start addr : Nat} (ho : opAt s f tag = some o) (hk : o.kind = .copy n start addr)
    (only : ∀ q ∈ s.keeper.ops, CopyOf n q → q = o) (status : Nat) : ∃ detail,
    abortOp s o status = finishOp (stopChannel s (.system n)) f tag status 0 detail := by
  obtain ⟨rfl, rfl⟩ := opAt_named ho
  have keeper : (stopChannel s (.system n)).keeper = s.keeper := onlyChan_stopChannel.part State.keeper fun _ => rfl
  have found := copyOn_only (s := stopChannel s (.system n)) (keeper.symm ▸ List.mem_of_find?_eq_some ho) hk (keeper.symm ▸ only)
  unfold abortOp stopCopy
  simp only [hk, found]
  exact ⟨_, rfl⟩

theorem stopChannel_system_lanterns : (stopChannel s (.system n)).lanterns = s.lanterns := by
  unfold stopChannel
  dsimp only
  repeat' split
  all_goals rfl

/-- A channel that no SIGNAL holds has no program left after its stop. -/
theorem queue_stopChannel (there : ChanThere s (.system n)) (hs : (chanAt s (.system n)).signalling = false) :
    (chanAt (stopChannel s (.system n)) (.system n)).queue = [] := by
  unfold stopChannel
  simp only [hs, Bool.false_eq_true, if_false]
  split
  next => rw [chanAt_modChan (onlyChan_dmaRetire.there (onlyChan_bumpChan.there there))]
  next => rw [chanAt_modChan (onlyChan_bumpChan.there there)]

/-! ### A forwarded command whose anchor does not answer (R316, R392) -/

theorem execForwardTimeout_pending (ho : opAt s m.func tag = none) (hr : (mboxAt s m).req = some r)
    (hf : s.keeper.forwards.find? (fun q => q.1.func == m.func && q.2 == tag) = some (m, tag)) :
    exec (.forwardTimeout m.func tag) s =
      .next (answer (modKeeper s (fun k => { k with forwards := k.forwards.erase (m, tag) })) m r stFault [] 0) := by
  have runs : exec (.forwardTimeout m.func tag) s = execForwardTimeout m.func tag s := rfl
  have req : (mboxAt (modKeeper s (fun k => { k with forwards := k.forwards.erase (m, tag) })) m).req = some r := hr
  rw [runs, execForwardTimeout, ho]
  simp only [Option.bind_none, forwardReplied, hf, req]
  rfl

end Aborts

/-- Settles O34: ABORT's five answers, the deadline of a transfer and of a command without one, the anchor's silence. -/
theorem abortsAndDeadlines : Obligations.AbortsAndDeadlines := by
  refine ⟨fun m r s hm hi ha => ⟨?other, ?complete, ?unknown, ?transfer, ?copy⟩, ?deadline, ?endless, ?silent⟩
  case other =>
    intro tag f hf h0
    exact ⟨_, execAbort_other ha hf h0, refuse_all stPrivilege hi hm⟩
  case complete =>
    intro tag ho reported
    refine ⟨_, execAbort_gone ha hm ho, ?_⟩
    rw [if_pos reported]
    exact refuse_all stAlreadyComplete hi hm
  case unknown =>
    intro tag ho unreported
    refine ⟨_, execAbort_gone ha hm ho, ?_⟩
    rw [if_neg unreported]
    exact refuse_all stUnknownTag hi hm
  case transfer =>
    intro tag o d n ho hk
    have runs := execAbort_found ha hm ho
    rw [abortOp_transfer ho hk stAborted] at runs
    obtain ⟨answered, units, flash, ops⟩ := answer_leaves (r := r) stAborted (inv_finishOp hi) hm
    refine ⟨_, runs, answered, (ops _ _).trans (opAt_finishOp ..), (finishOp_units ..).trans units, ?_⟩
    rw [flash]
    exact finishOp_flash ..
  case copy =>
    intro tag o n k a ho hk hn only
    obtain ⟨detail, ends⟩ := abortOp_copy ho hk only stAborted
    have runs := execAbort_found ha hm ho
    rw [ends] at runs
    obtain ⟨answered, units, flash, ops⟩ := answer_leaves (r := r) stAborted (inv_finishOp (inv_stopChannel hi)) hm
    have chans := (finishOp_units (s := stopChannel s (.system n)) m.func tag stAborted 0 detail).trans units
    have stop : OnlyChan s (stopChannel s (.system n)) (.system n) := onlyChan_stopChannel
    have ⟨_, _, moorings, lanterns, _⟩ := chans
    refine ⟨_, runs, answered, (ops _ _).trans (opAt_finishOp ..), fun hs => ?_, fun j hj => ?_,
      lanterns.trans stopChannel_system_lanterns, moorings.trans (stop.part State.moorings fun _ => rfl), ?_⟩
    · rw [chanAt_of_units chans]
      exact queue_stopChannel (chanThere_of_inv hi hn) hs
    · rw [chanAt_of_units chans]
      exact stop.others _ fun same => hj (Chan.system.inj same)
    · rw [flash, ← stop.part State.flash fun _ => rfl]
      exact finishOp_flash ..
  case deadline =>
    intro s f tag o d n hi hf ho hk hd
    have runs : exec (.deadlineExpiry f tag) s = execDeadlineExpiry f tag s := rfl
    rw [runs, execDeadlineExpiry, ho]
    simp only [if_pos (And.intro hf hd), abortOp_transfer ho hk, finishOp_here ho (hf.trans (by decide)), stTimedOut]
  case endless =>
    intro s f tag o ho hd
    have runs : exec (.deadlineExpiry f tag) s = execDeadlineExpiry f tag s := rfl
    rw [runs, execDeadlineExpiry, ho]
    simp only [hd, ne_eq, not_true_eq_false, and_false, if_false]
  case silent =>
    intro s m r tag hi hm hf hr ho
    exact ⟨_, execForwardTimeout_pending ho hr hf, refuse_all (s := modKeeper s _) stFault (inv_modKeeper hi) hm⟩

end Sys2Proof.Machine
end

section
/-! PROOFS. Messages to other nodes, the anchor's commands, and a command that waits for the boundary of a step in hand (O49, R227,
R316, R326, R380). -/

namespace Sys2Proof.Machine

section AtTheAnchor

variable {s t u : State} {id k : Nat} {x y : Mooring} {m : Mbox} {r : Request}

/-! ### What a module derives from its place alone -/

/-- The state after reset, but for what bring-up has settled: coordinates, sizes and the rest of Boot. -/
def bootOnly (b : Boot) : State := { State.reset with boot := b }

theorem otherMembers_bootOnly (s : State) (x : Mooring) : otherMembers s x = otherMembers (bootOnly s.boot) x := rfl

theorem otherMembers_boot (h : t.boot = s.boot) (x : Mooring) : otherMembers t x = otherMembers s x := by
  rw [otherMembers_bootOnly t, otherMembers_bootOnly s, h]

/-! ### Messages (R265) -/

theorem tellNode_eq (s : State) (n : Nat) (msg : KeeperMsg) : ∃ router free out,
    tellNode s n msg = { s with router := router, free := free, out := out } := by
  unfold tellNode
  split
  next => exact ⟨s.router, s.free, s.out, rfl⟩
  next =>
    obtain ⟨router, free, sent⟩ := onlyRouter_sendSeq (s := { s with out := { s.out with kmsg := s.out.kmsg ++ [(n, msg)] } }) 0
      { Packet.blank with typ := 0x0A, cls := 0, dest := n }
    exact ⟨router, free, _, sent⟩

/-- Messages change the router, the free values read and what leaves the module. -/
theorem tellNodes_eq (msg : KeeperMsg) : ∀ (ns : List Nat) (s : State), ∃ router free out,
    tellNodes s msg ns = { s with router := router, free := free, out := out }
  | [], s => ⟨s.router, s.free, s.out, rfl⟩
  | n :: ns, s => by
    obtain ⟨router, free, out, first⟩ := tellNode_eq s n msg
    obtain ⟨router', free', out', rest⟩ := tellNodes_eq msg ns (tellNode s n msg)
    exact ⟨router', free', out', by rw [tellNodes, rest, first]⟩

/-! ### One mooring changes, and its members are told -/

/-- Of the moorings only the one with an id changes; lanterns, boot, time, functions and the Keeper's books stay. -/
structure OnlyMooring (s t : State) (id : Nat) : Prop where
  others : ∀ k, k ≠ id → mooringAt t k = mooringAt s k
  lanterns : t.lanterns = s.lanterns
  boot : t.boot = s.boot
  time : t.time = s.time
  funcs : t.funcs = s.funcs
  keeper : t.keeper = s.keeper

theorem OnlyMooring.refl (s : State) (id : Nat) : OnlyMooring s s id := ⟨fun _ _ => rfl, rfl, rfl, rfl, rfl, rfl⟩

theorem OnlyMooring.trans (h : OnlyMooring s t id) (h' : OnlyMooring t u id) : OnlyMooring s u id :=
  ⟨fun k hk => (h'.others k hk).trans (h.others k hk), h'.lanterns.trans h.lanterns, h'.boot.trans h.boot, h'.time.trans h.time,
    h'.funcs.trans h.funcs, h'.keeper.trans h.keeper⟩

theorem onlyMooring_modMooring {f : Mooring → Mooring} (hf : ∀ y, (f y).desc.id = y.desc.id) : OnlyMooring s (modMooring s id f) id :=
  ⟨fun _ hk => mooringAt_modMooring_other s f hf hk, rfl, rfl, rfl, rfl, rfl⟩

theorem onlyMooring_tellNodes (msg : KeeperMsg) (ns : List Nat) : OnlyMooring s (tellNodes s msg ns) id := by
  obtain ⟨router, free, out, told⟩ := tellNodes_eq msg ns s
  rw [told]
  exact ⟨fun _ _ => rfl, rfl, rfl, rfl, rfl, rfl⟩

theorem mooringAt_tellNodes (msg : KeeperMsg) (ns : List Nat) (k : Nat) : mooringAt (tellNodes s msg ns) k = mooringAt s k :=
  mooringAt_of_units (outward_tellNodes msg ns s).1 k

/-- A mooring changed, and nodes told of it. -/
theorem modMooring_told (hm : mooringAt s id = some x) {f : Mooring → Mooring} (hf : ∀ y, (f y).desc.id = y.desc.id) (msg : KeeperMsg)
    (ns : List Nat) : mooringAt (tellNodes (modMooring s id f) msg ns) id = some (f x) ∧
      OnlyMooring s (tellNodes (modMooring s id f) msg ns) id :=
  ⟨(mooringAt_tellNodes ..).trans (mooringAt_mod hm hf), (onlyMooring_modMooring hf).trans (onlyMooring_tellNodes ..)⟩

/-! ### A command waits for the boundary of a step in hand (R227) -/

/-- A mooring whose step a fault has undone, its other members asked when they have handled it. -/
def faultAskedOf (others : List Nat) (x : Mooring) : Mooring := { x with handling := if x.faulted = true then others else x.handling }

/-- A mooring that starts no further step: its run stops at the boundary. -/
def pausing (x : Mooring) : Mooring := { x with
  paused := true
  run := if x.run == .running then .stopping else x.run }

theorem faultAskedOf_faulted (h : x.faulted = true) (others : List Nat) : faultAskedOf others x = { x with handling := others } := by
  rw [faultAskedOf, if_pos h]

theorem faultAskedOf_sound (h : ¬ x.faulted = true) (others : List Nat) : faultAskedOf others x = x := by
  rw [faultAskedOf, if_neg h]

theorem askFaults_waiting (hm : mooringAt s id = some x) (hop : (boundaryOp s id).isSome = true) :
    mooringAt (askFaults s id) id = some (faultAskedOf (otherMembers s x) x) ∧ OnlyMooring s (askFaults s id) id := by
  unfold askFaults
  rw [hm]
  dsimp only
  by_cases fault : x.faulted = true
  · rw [if_pos ⟨fault, hop⟩, faultAskedOf_faulted fault]
    exact modMooring_told hm (f := fun y => { y with handling := otherMembers s x }) (fun _ => rfl) _ _
  · rw [if_neg fun asks => fault asks.1, faultAskedOf_sound fault]
    exact ⟨hm, .refl s id⟩

theorem awaitBoundary_inStep (hm : mooringAt s id = some x) (hop : (boundaryOp s id).isSome = true) (hs : x.stepOn = true) :
    mooringAt (awaitBoundary s id) id = some (pausing (faultAskedOf (otherMembers s x) x)) ∧ OnlyMooring s (awaitBoundary s id) id := by
  obtain ⟨asked, only⟩ := askFaults_waiting hm hop
  have inStep : ¬ (atRest (askFaults s id) (faultAskedOf (otherMembers s x) x) = true ∧
      (!(faultAskedOf (otherMembers s x) x).stepOn) = true) := by
    simp [faultAskedOf, hs]
  obtain ⟨now, onlyNow⟩ := modMooring_told asked (f := pausing) (fun _ => rfl) (.pause id)
    (otherMembers (askFaults s id) (faultAskedOf (otherMembers s x) x))
  unfold awaitBoundary
  simp only [asked, if_neg inStep]
  exact ⟨now, only.trans onlyNow⟩

/-- An accepted command that waits for the boundary is one that the boundary has to perform. -/
theorem boundaryOp_acceptLong_close : (boundaryOp (acceptLong s m r .close) r.mooring).isSome = true := by
  unfold boundaryOp
  rw [acceptLong_keeper, List.find?_isSome]
  exact ⟨opOf m r .close, List.mem_append_right _ (List.mem_singleton_self _), by simp [opOf]⟩

/-! ### Commands at the anchor (R316) -/

theorem mooringAt_acceptLong (kind : OpKind) (k : Nat) : mooringAt (acceptLong s m r kind) k = mooringAt s k := by
  obtain ⟨-, -, -, -, -, moorings, -⟩ := acceptLong_sameWork (s := s) (m := m) (r := r) kind
  unfold mooringAt
  rw [moorings]

theorem atAnchor_here {cmd : FwdCmd} {act : Poster → State → State} (hm : mooringAt s r.mooring = some x) (ha : anchorOf x = selfNode s) :
    atAnchor m r cmd act s = act (.box m r) s := by
  unfold atAnchor
  simp only [hm, if_pos ha]

theorem execMooringStatus_asked (ha : Asked s m 0x0026 r) (hm : mooringAt s r.mooring = some x) (here : anchorOf x = selfNode s) :
    exec (.mooringStatus m) s = .next (answer s m r stSuccess (statusBytes s x) 0) := by
  have runs : exec (.mooringStatus m) s = execMooringStatus m s := rfl
  rw [runs, execMooringStatus, next_asked ha, atAnchor_here hm here, statusCommand, hm]
  rfl

theorem execMooringClose_asked (ha : Asked s m 0x0025 r) (hm : mooringAt s r.mooring = some x) (here : anchorOf x = selfNode s) :
    exec (.mooringClose m) s = .next (if membershipPending s r.mooring then answer s m r stBusy [] 0
      else awaitBoundary (acceptLong s m r .close) r.mooring) := by
  have runs : exec (.mooringClose m) s = execMooringClose m s := rfl
  rw [runs, execMooringClose, next_asked ha, atAnchor_here hm here, closeCommand, hm]
  rfl

/-- A close accepted while a step is in hand: the command waits, the run stops, the others are asked about a fault. -/
theorem close_waits (hi : s.Inv) (hok : m.ok = true) (hm : mooringAt s r.mooring = some x) (hs : x.stepOn = true) :
    let t := awaitBoundary (acceptLong s m r .close) r.mooring
    Answered t m r stAccepted [] 0 ∧ t.keeper.ops = s.keeper.ops ++ [opOf m r .close] ∧
      mooringAt t r.mooring = some (pausing (faultAskedOf (otherMembers s x) x)) ∧
      (∀ k, k ≠ r.mooring → mooringAt t k = mooringAt s k) ∧ t.lanterns = s.lanterns ∧ t.boot = s.boot ∧ t.time = s.time := by
  obtain ⟨-, -, lanterns, -, -, -, -, -, time, -, boot, -⟩ := acceptLong_sameWork (s := s) (m := m) (r := r) .close
  obtain ⟨now, only⟩ := awaitBoundary_inStep ((mooringAt_acceptLong .close _).trans hm) boundaryOp_acceptLong_close hs
  have mailbox : mboxAt (awaitBoundary (acceptLong s m r .close) r.mooring) m = mboxAt (acceptLong s m r .close) m := by
    unfold mboxAt funcAt
    rw [only.funcs]
  refine ⟨answered_congr mailbox (acceptLong_answered .close hi hok), ?_, ?_,
    fun k hk => (only.others k hk).trans (mooringAt_acceptLong .close k), only.lanterns.trans lanterns, only.boot.trans boot,
    only.time.trans time⟩
  · rw [only.keeper, acceptLong_keeper]
  · rw [now, otherMembers_boot boot]

end AtTheAnchor

end Sys2Proof.Machine
end

section
/-! PROOFS. A mooring opened on this module, and MOORING_OPEN (O49, R161, R191, R324, R325, R405). -/

namespace Sys2Proof.Machine

section Opening

variable {s t : State} {d : MDesc} {b : Bundle} {x : Mooring} {m : Mbox} {r : Request} {f tag id : Nat}

/-! ### A mooring's entry (R324) -/

theorem newMooring_bootOnly (s : State) (d : MDesc) (b : Bundle) (owner : Nat × Nat) (daymark : Nat) (subs : List (Nat × Nat))
    (place : Placement) (pos : Nat) :
    newMooring s d b owner daymark subs place pos = newMooring (bootOnly s.boot) d b owner daymark subs place pos := rfl

theorem newMooring_boot (h : t.boot = s.boot) (d : MDesc) (b : Bundle) (owner : Nat × Nat) (daymark : Nat) (subs : List (Nat × Nat))
    (place : Placement) (pos : Nat) : newMooring t d b owner daymark subs place pos = newMooring s d b owner daymark subs place pos := by
  rw [newMooring_bootOnly t, newMooring_bootOnly s, h]

/-! ### Ranges and stores cleared, lanterns taken (R161, R325) -/

theorem clearMems_eq {α : Type} (lo hi : α → Nat) : ∀ (xs : List α) (s : State), ∃ mem poison,
    xs.foldl (fun s a => clearMem s (lo a) (hi a)) s = { s with mem := mem, poison := poison }
  | [], s => ⟨s.mem, s.poison, rfl⟩
  | a :: xs, s => by
    obtain ⟨mem, poison, rest⟩ := clearMems_eq lo hi xs (clearMem s (lo a) (hi a))
    exact ⟨mem, poison, by rw [List.foldl_cons, rest, clearMem]⟩

theorem cleared_eq (s : State) (d : MDesc) (rs : List (Nat × Nat)) : ∃ mem poison,
    clearSector (clearRanges s rs) d = { s with mem := mem, poison := poison } := by
  obtain ⟨mem, poison, ranges⟩ := clearMems_eq (fun r : Nat × Nat => r.1) (fun r => r.1 + r.2) rs s
  obtain ⟨mem', poison', stores⟩ := clearMems_eq (fun l => storeAddr l 0) (fun l => storeAddr l 0x400000)
    ((sectorTowers d.split d.sector).flatMap towerLanterns) (clearRanges s rs)
  exact ⟨mem', poison', stores.trans (by rw [clearRanges, ranges])⟩

/-- Changes of lanterns in turn change only lanterns, and of these only the ones listed. -/
theorem foldl_modLantern_eq (g : State → Lantern → Lantern) : ∀ (ls : List Nat) (s : State), ∃ lanterns,
    ls.foldl (fun s l => modLantern s l (g s)) s = { s with lanterns := lanterns } ∧
    ∀ l, l ∉ ls → lanterns.getD l Lantern.reset = lanternAt s l
  | [], s => ⟨s.lanterns, rfl, fun _ _ => rfl⟩
  | k :: ls, s => by
    obtain ⟨lanterns, rest, others⟩ := foldl_modLantern_eq g ls (modLantern s k (g s))
    refine ⟨lanterns, by rw [List.foldl_cons, rest, modLantern], fun l hl => ?_⟩
    obtain ⟨hk, hl⟩ := not_or.1 (mt List.mem_cons.2 hl)
    exact (others l hl).trans (lanternAt_modLantern_other s _ hk)

theorem takeLanterns_eq (s : State) (d : MDesc) (regions : List (Nat × Nat)) : ∃ lanterns shore,
    takeLanterns s d regions = { s with lanterns := lanterns, shore := shore } ∧
    ∀ l, l ∉ sectorLanterns s d.split d.sector → lanterns.getD l Lantern.reset = lanternAt s l := by
  obtain ⟨shore, opened⟩ := openWindows_shore s d.id
  obtain ⟨lanterns, taken, others⟩ := foldl_modLantern_eq (fun u x => { x with
    mooring := some d.id
    windows := windowsOf u d regions
    fault := false }) (sectorLanterns s d.split d.sector) (openWindows s d.id)
  exact ⟨lanterns, shore, by rw [takeLanterns, taken, opened], fun l hl => (others l hl).trans (by rw [opened]; rfl)⟩

/-! ### The mooring stands (R324, R405) -/

/-- What opening a mooring of an owner here changes: memory, the sector's lanterns, shore cores' windows, the owner's slots, and
that the mooring stands with the others. -/
structure OpenedHere (s t : State) (x : Mooring) : Prop where
  moorings : t.moorings = s.moorings ++ [x]
  boot : t.boot = s.boot
  power : t.power = s.power
  flash : t.flash = s.flash
  time : t.time = s.time
  mailboxes : ∀ q, mboxAt t q = mboxAt s q
  lanterns : ∀ l, l ∉ sectorLanterns s x.desc.split x.desc.sector → lanternAt t l = lanternAt s l

theorem mbox_takeSlot (f : Func) (id : Nat) : (takeSlot f id).mbox = f.mbox := by
  unfold takeSlot
  split
  next => rfl
  next => split <;> rfl

theorem openHere_own (h : x.ownerNode = selfNode s) : OpenedHere s (openHere s x) x ∧ (openHere s x).keeper = s.keeper := by
  obtain ⟨mem, poison, cleared⟩ := cleared_eq s x.desc x.place.regions
  obtain ⟨lanterns, shore, taken, others⟩ := takeLanterns_eq (clearSector (clearRanges s x.place.regions) x.desc) x.desc x.place.regions
  rw [cleared] at taken others
  have opened : openHere s x = modFunc { s with
      mem := mem, poison := poison, lanterns := lanterns, shore := shore, moorings := s.moorings ++ [x] } x.ownerFunc
      (fun f => takeSlot f x.desc.id) := by
    unfold openHere
    simp only [cleared, taken]
    exact if_pos h
  rw [opened]
  exact ⟨⟨rfl, rfl, rfl, rfl, rfl,
    fun q => congrArg (fun ms : List Mailbox => ms.getD q.box Mailbox.reset)
      (funcAt_modFunc_keeps Func.mbox _ _ _ fun f => mbox_takeSlot f x.desc.id), others⟩, rfl⟩

theorem OpenedHere.mooring (h : OpenedHere s t x) (free : mooringAt s x.desc.id = none) : mooringAt t x.desc.id = some x := by
  unfold mooringAt at free ⊢
  rw [h.moorings, List.find?_append, free]
  simp

theorem OpenedHere.others (h : OpenedHere s t x) {k : Nat} (hk : k ≠ x.desc.id) : mooringAt t k = mooringAt s k := by
  unfold mooringAt
  rw [h.moorings, List.find?_append]
  simp [Ne.symm hk]

/-- Messages beforehand do not disturb what is opened. -/
theorem openHere_told (msg : KeeperMsg) (ns : List Nat) (h : x.ownerNode = selfNode s) :
    OpenedHere s (openHere (tellNodes s msg ns) x) x ∧ (openHere (tellNodes s msg ns) x).keeper = s.keeper := by
  obtain ⟨router, free, out, told⟩ := tellNodes_eq msg ns s
  have self : x.ownerNode = selfNode (tellNodes s msg ns) := by rw [told]; exact h
  obtain ⟨⟨moorings, boot, power, flash, time, mailboxes, lanterns⟩, keeper⟩ := openHere_own self
  rw [told] at moorings boot power flash time mailboxes lanterns keeper ⊢
  exact ⟨⟨moorings, boot, power, flash, time, mailboxes, lanterns⟩, keeper⟩

/-- The Keeper's books of commands do not bear on what is opened. -/
theorem OpenedHere.dropNamed (h : OpenedHere s t x) : OpenedHere s (dropOp (nameOpened t f tag id) f tag) x := by
  obtain ⟨moorings, boot, power, flash, time, mailboxes, lanterns⟩ := h
  exact ⟨moorings, boot, power, flash, time, mailboxes, lanterns⟩

/-! ### The record carries the new mooring's daymark (R191) -/

theorem opAt_nameOpened {o : LongOp} (ho : opAt s f tag = some o) : opAt (nameOpened s f tag id) f tag = some { o with opened := some id } := by
  unfold opAt nameOpened modOp modKeeper at *
  dsimp only
  rw [List.find?_map]
  have same : (fun o => o.func == f && o.tag == tag) ∘ (fun o : LongOp => if o.func = f ∧ o.tag = tag then { o with opened := some id } else o) =
      fun o => o.func == f && o.tag == tag := by
    funext o
    dsimp only [Function.comp]
    split <;> rfl
  rw [same, ho]
  obtain ⟨func, tag'⟩ := opAt_named (s := s) ho
  simp [func, tag']

/-- A command that opens a mooring at once: its record names the mooring opened. -/
theorem longAtOnce_opened {effect : State → State} {status flags detail : Nat} (hok : m.ok = true) (free : tagFree s m.func r.tag = true)
    (ho : (effect (acceptLong s m r .forwarded)).keeper = (acceptLong s m r .forwarded).keeper) :
    let u := dropOp (nameOpened (effect (acceptLong s m r .forwarded)) m.func r.tag id) m.func r.tag
    longAtOnce s m r status flags detail (fun s => nameOpened (effect s) m.func r.tag id) = postRecord u m.func r.cq (some r.tag)
      (completionNat r.tag r.opcode status flags r.mooring 0 (mooringDaymark u id) detail) := by
  have accepted : opAt (effect (acceptLong s m r .forwarded)) m.func r.tag = some (opOf m r .forwarded) :=
    (opAt_of_ops (congrArg Keeper.ops ho) _ _).trans (opAt_acceptLong .forwarded free)
  exact finishOp_here (opAt_nameOpened accepted) ((mboxFunc_lt hok).trans (by decide)) status flags detail

/-! ### The command (R316, R324) -/

/-- The mooring that an open makes: DAYMARK 1, idle, with the ranges that the block's modules hold. -/
def openedMooring (s : State) (func : Nat) (d : MDesc) (b : Bundle) (pl : Placement) (told : List (Nat × List (Nat × Nat))) : Mooring :=
  { newMooring s d b (selfNode s, func) 1 [] pl (selfNode s) with told := told }

/-- What an open does once it is accepted: the block's other modules are told, the mooring is opened here. -/
def openEffect (nodes : List Nat) (func : Nat) (d : MDesc) (bs : List Byte) (b : Bundle) (pl : Placement)
    (told : List (Nat × List (Nat × Nat))) (s : State) : State :=
  openHere (tellNodes s (.newMap (openMsg d bs b (selfNode s) func told)) nodes) (openedMooring s func d b pl told)

section OpenCommand

variable {nodes : List Nat} {pl : Placement} {told : List (Nat × List (Nat × Nat))} {as_ : List Answer}

theorem openedMooring_boot (h : t.boot = s.boot) : openedMooring t f d b pl told = openedMooring s f d b pl told := by
  have self : selfNode t = selfNode s := by rw [selfNode, selfNode, h]
  rw [openedMooring, openedMooring, newMooring_boot h, self]

theorem openEffect_opens {bs : List Byte} : OpenedHere s (openEffect nodes f d bs b pl told s) (openedMooring s f d b pl told) ∧
    (openEffect nodes f d bs b pl told s).keeper = s.keeper := openHere_told _ _ rfl

theorem execMooringOpen_asked (ha : Asked s m 0x0020 r) (hs : s.boot.state = 2) (debug : s.keeper.debug = false)
    (hd : keptDesc s r.args = d) (hok : mdescOk r.args d = true) (hsec : sectorOk s d = true) (origin : originNode d = selfNode s)
    (hb : bundleFor s m.func d.bundle = some b)
    (hfirst : firstRefusal s (ownAnswer s d b.p (selfNode s) true [] (toldBy as_)) as_ (blockNodes s d) = none)
    (hplace : placeChecked s d b.p (selfNode s) [] (takenRanges s) (toldBy as_) = .ok pl) :
    exec (.mooringOpen m as_) s = .next (longAtOnce s m r stSuccess 0 0 (fun u => nameOpened
      (openEffect (blockNodes s d) m.func d r.args b pl ((selfNode s, takenRanges s) :: toldBy as_) u) m.func r.tag d.id)) := by
  subst hd
  have runs : exec (.mooringOpen m as_) s = execMooringOpen m as_ s := rfl
  have full : ¬ s.boot.state = 1 := by omega
  have bars : debugBars s m.func = false := by simp [debugBars, debug]
  rw [runs, execMooringOpen, next_asked ha]
  simp only [full, false_and, if_false, bars, Bool.false_eq_true, hok, hsec, Bool.not_true, origin, ne_eq, not_true_eq_false, or_self,
    hb, hfirst, hplace]
  rfl

theorem sectorLanterns_work (h : SameWork s t) (split sector : Nat) : sectorLanterns t split sector = sectorLanterns s split sector := by
  obtain ⟨-, -, lanterns, -, -, -, -, -, -, -, boot, -⟩ := h
  unfold sectorLanterns enabledLantern lanternAt
  rw [lanterns, boot]

/-- The state in which an open has been accepted and done, before its record. -/
def openDone (s : State) (m : Mbox) (r : Request) (nodes : List Nat) (d : MDesc) (b : Bundle) (pl : Placement)
    (told : List (Nat × List (Nat × Nat))) : State :=
  dropOp (nameOpened (openEffect nodes m.func d r.args b pl told (acceptLong s m r .forwarded)) m.func r.tag d.id) m.func r.tag

theorem openDone_opens : OpenedHere (acceptLong s m r .forwarded) (openDone s m r nodes d b pl told) (openedMooring s m.func d b pl told) := by
  obtain ⟨-, -, -, -, -, -, -, -, -, -, boot, -⟩ := acceptLong_sameWork (s := s) (m := m) (r := r) .forwarded
  rw [← openedMooring_boot boot]
  exact openEffect_opens.1.dropNamed

theorem openDone_answered (hi : s.Inv) (hok : m.ok = true) : Answered (openDone s m r nodes d b pl told) m r stAccepted [] 0 :=
  answered_congr (openDone_opens.mailboxes m) (acceptLong_answered .forwarded hi hok)

theorem mooringAt_openDone (free : mooringAt s d.id = none) :
    mooringAt (openDone s m r nodes d b pl told) d.id = some (openedMooring s m.func d b pl told) :=
  openDone_opens.mooring ((mooringAt_acceptLong .forwarded _).trans free)

/-- The record gives the daymark of the mooring opened, 1. -/
theorem openDone_record (hok : m.ok = true) (tag : tagFree s m.func r.tag = true) (free : mooringAt s d.id = none) :
    longAtOnce s m r stSuccess 0 0 (fun u => nameOpened (openEffect nodes m.func d r.args b pl told u) m.func r.tag d.id) =
      postRecord (openDone s m r nodes d b pl told) m.func r.cq (some r.tag) (completionNat r.tag r.opcode 0 0 r.mooring 0 1 0) := by
  have daymark : mooringDaymark (openDone s m r nodes d b pl told) d.id = 1 := by
    rw [mooringDaymark, mooringAt_openDone free]
    rfl
  exact (longAtOnce_opened hok tag openEffect_opens.2).trans (congrArg
    (fun n => postRecord (openDone s m r nodes d b pl told) m.func r.cq (some r.tag) (completionNat r.tag r.opcode 0 0 r.mooring 0 n 0)) daymark)

/-- An open leaves the other moorings, the lanterns outside the sector, boot, power, flash and time. -/
theorem openDone_others :
    let u := openDone s m r nodes d b pl told
    (∀ k, k ≠ d.id → mooringAt u k = mooringAt s k) ∧ u.boot = s.boot ∧ u.power = s.power ∧ u.flash = s.flash ∧ u.time = s.time ∧
      ∀ l, l ∉ sectorLanterns s d.split d.sector → lanternAt u l = lanternAt s l := by
  have opens := openDone_opens (s := s) (m := m) (r := r) (nodes := nodes) (d := d) (b := b) (pl := pl) (told := told)
  have accepted := acceptLong_sameWork (s := s) (m := m) (r := r) .forwarded
  have ⟨_, _, lanterns, _, _, _, _, _, time, power, boot, flash⟩ := accepted
  refine ⟨fun k hk => (opens.others hk).trans (mooringAt_acceptLong .forwarded k), opens.boot.trans boot, opens.power.trans power,
    opens.flash.trans flash, opens.time.trans time, fun l hl => ?_⟩
  rw [← sectorLanterns_work accepted] at hl
  exact (opens.lanterns l hl).trans (by rw [lanternAt, lanternAt, lanterns])

end OpenCommand

end Opening

/-- Settles O49: an open that every module grants opens the mooring here; the anchor answers a status from its books; a close waits
for the boundary of the step in hand, and is refused while a membership command is pending. -/
theorem openingAndClosing : Obligations.OpeningAndClosing := by
  intro m r s hok hi
  refine ⟨?opens, ?status, ?close, ?busy⟩
  case opens =>
    intro b pl as_ ha hs debug d hdesc hsec origin hb hfirst hplace free
    have opcode : r.opcode = 0x20 := ha.2.1
    have tag : tagFree s m.func r.tag = true := tagFree_of_asked ha cmdInfo_mooringOpen rfl
    obtain ⟨others, boot, power, flash, time, lanterns⟩ := openDone_others (s := s) (m := m) (r := r) (nodes := blockNodes s d) (d := d)
      (b := b) (pl := pl) (told := (selfNode s, takenRanges s) :: toldBy as_)
    exact ⟨_, _, execMooringOpen_asked ha hs debug rfl hdesc hsec origin hb hfirst hplace, openDone_answered hi hok,
      by rw [openDone_record hok tag free, opcode], mooringAt_openDone free, others, boot, power, flash, time,
      fun l _ hl => congrArg Lantern.mooring (lanterns l hl)⟩
  case status =>
    intro x ha hm here short
    obtain ⟨answered, work, keeper, host, -⟩ := answer_all (r := r) stSuccess (statusBytes s x) 0 hi hok short
    exact ⟨_, execMooringStatus_asked ha hm here, answered, work, keeper, host⟩
  case close =>
    intro x ha hm here idle hs
    refine ⟨_, execMooringClose_asked ha hm here, ?_⟩
    rw [if_neg (Bool.eq_false_iff.1 idle)]
    exact close_waits hi hok hm hs
  case busy =>
    intro x ha hm here pending
    refine ⟨_, execMooringClose_asked ha hm here, ?_⟩
    rw [if_pos pending]
    exact refuse_all stBusy hi hok

end Sys2Proof.Machine
end

section
/-! PROOFS. A command accepted that changes one mooring, and RUN_STEPS at the anchor (O51, R196, R243, R316, R380, R391). -/

namespace Sys2Proof.Machine

section RunCommand

variable {s t : State} {id : Nat} {x : Mooring} {m : Mbox} {r : Request}

/-! ### Accepted, with one mooring changed (R380) -/

/-- A command is accepted, and beyond that one mooring changes. -/
theorem accepted_only {kind : OpKind} (hi : s.Inv) (hok : m.ok = true) (only : OnlyMooring (acceptLong s m r kind) t id) :
    Answered t m r stAccepted [] 0 ∧ t.keeper.ops = s.keeper.ops ++ [opOf m r kind] ∧
      (∀ k, k ≠ id → mooringAt t k = mooringAt s k) ∧ t.lanterns = s.lanterns ∧ t.boot = s.boot ∧ t.time = s.time := by
  obtain ⟨-, -, lanterns, -, -, -, -, -, time, -, boot, -⟩ := acceptLong_sameWork (s := s) (m := m) (r := r) kind
  have mailbox : mboxAt t m = mboxAt (acceptLong s m r kind) m := by
    unfold mboxAt funcAt
    rw [only.funcs]
  refine ⟨answered_congr mailbox (acceptLong_answered kind hi hok), ?_, fun k hk => (only.others k hk).trans (mooringAt_acceptLong kind k),
    only.lanterns.trans lanterns, only.boot.trans boot, only.time.trans time⟩
  rw [only.keeper, acceptLong_keeper]

/-! ### RUN_STEPS (R196, R243, R391) -/

/-- A mooring whose run starts at a step. -/
def runStarted (first count position : Nat) (x : Mooring) : Mooring := { x with
  run := .running
  stopWith := 0
  step := first
  stepOn := false
  decided := 0
  runCommitted := 0
  lastBegun := none
  runCount := count
  position := position
  replays := 0
  faulted := false
  ends := []
  ahead := Ahead.blank
  refStep := if x.loaded then some ((first + 2 ^ 48 - 1) % 2 ^ 48) else x.refStep
  loaded := false }

theorem startRunHere_started (hm : mooringAt s id = some x) (first count position : Nat) :
    mooringAt (startRunHere s id first count position) id = some (runStarted first count position x) ∧
      OnlyMooring s (startRunHere s id first count position) id :=
  ⟨mooringAt_mod hm (f := runStarted first count position) fun _ => rfl,
    onlyMooring_modMooring (f := runStarted first count position) fun _ => rfl⟩

theorem onlyMooring_tellSlot (k : Nat) : OnlyMooring s (tellSlot s k) id := by
  rcases tellSlot_tells s k with same | ⟨d, msg, told⟩
  · rw [same]
    exact .refl s id
  · rw [told]
    exact onlyMooring_tellNodes msg [d]

variable {first count position : Nat}

/-- No step is committed yet: the count that a run hands to its members. -/
def noneCommitted (y : Mooring) : Mooring := { y with runCommitted := 0 }

/-- What RUN_STEPS does at the anchor once it is accepted: the run starts here, other nodes are told to start it, and the owner learns
how the mooring stands. -/
def runBegun (s : State) (id first count position : Nat) (others : List Nat) : State :=
  tellSlot (modMooring (tellNodes (startRunHere s id first count position) (.startRun id first count position) others) id noneCommitted) id

theorem runBegun_started (hm : mooringAt s id = some x) (others : List Nat) :
    mooringAt (runBegun s id first count position others) id = some (runStarted first count position x) ∧
      OnlyMooring s (runBegun s id first count position others) id := by
  obtain ⟨started, here⟩ := startRunHere_started hm first count position
  have heard := (mooringAt_tellNodes (.startRun id first count position) others id).trans started
  have told : OnlyMooring s (tellNodes (startRunHere s id first count position) (.startRun id first count position) others) id :=
    here.trans (onlyMooring_tellNodes ..)
  exact ⟨(mooringAt_of_units (outward_tellSlot _ id).1 id).trans (mooringAt_mod heard (f := noneCommitted) fun _ => rfl),
    (told.trans (onlyMooring_modMooring (f := noneCommitted) fun _ => rfl)).trans (onlyMooring_tellSlot id)⟩

theorem execRunSteps_asked (ha : Asked s m 0x0030 r) (hm : mooringAt s r.mooring = some x) (here : anchorOf x = selfNode s) :
    exec (.runSteps m first count position) s = .next (runStepsAct s (.box m r) r.mooring first count position none) := by
  have runs : exec (.runSteps m first count position) s = execRunSteps m first count position s := rfl
  rw [runs, execRunSteps, next_asked ha, atAnchor_here hm here]

theorem runStepsAct_field (hm : mooringAt s r.mooring = some x) (bad : 2 ^ 48 ≤ first ∨ count = 0) :
    runStepsAct s (.box m r) r.mooring first count position none = refuse m r stField s := by
  unfold runStepsAct
  simp only [hm]
  exact if_pos (or_assoc.1 (.inl bad))

/-- What keeps a new run from starting: a run in progress, or the membership in change. -/
theorem runStepsAct_busy (hm : mooringAt s r.mooring = some x) (sound : ¬ (2 ^ 48 ≤ first ∨ count = 0 ∨ 2 ^ 32 ≤ count))
    (busy : runActive x = true ∨ membershipHeld s r.mooring = true ∨ lendingOf s r.mooring ≠ none) :
    runStepsAct s (.box m r) r.mooring first count position none = refuse m r stBusy s := by
  unfold runStepsAct
  simp only [hm, if_neg sound]
  refine if_pos ?_
  rcases busy with running | held | lending
  · simp [running]
  · simp [held]
  · simp [Option.isSome_iff_ne_none.2 lending]

theorem runStepsAct_begins (hm : mooringAt s r.mooring = some x) (sound : ¬ (2 ^ 48 ≤ first ∨ count = 0 ∨ 2 ^ 32 ≤ count))
    (idle : runActive x = false) (settled : membershipHeld s r.mooring = false) (whole : lendingOf s r.mooring = none)
    (present : x.lostNodes = []) : runStepsAct s (.box m r) r.mooring first count position none =
      runBegun (acceptLong s m r (.run first count position)) r.mooring first count position (otherMembers s x) := by
  unfold runStepsAct
  simp only [hm, if_neg sound, idle, settled, whole, present]
  rfl

end RunCommand

/-- Settles O51: the anchor refuses a run that is out of range or comes too early; otherwise it accepts and starts it. -/
theorem runSteps : Obligations.RunSteps := by
  intro m r s x first count position hok hi ha hm here
  have runs := execRunSteps_asked (first := first) (count := count) (position := position) ha hm here
  refine ⟨fun hfirst hcount hfits idle settled whole present => ?begins, fun bad => ?field, fun hfirst hcount hfits busy => ?busy⟩
  case begins =>
    obtain ⟨started, only⟩ := runBegun_started (first := first) (count := count) (position := position)
      ((mooringAt_acceptLong (s := s) (m := m) (.run first count position) r.mooring).trans hm) (otherMembers s x)
    obtain ⟨answered, ops, others, lanterns, boot, time⟩ := accepted_only hi hok only
    rw [runStepsAct_begins hm (by omega) idle settled whole present] at runs
    exact ⟨_, runs, answered, ops, started, others, lanterns, boot, time⟩
  case field => exact ⟨_, runs.trans (by rw [runStepsAct_field hm bad]), refuse_all stField hi hok⟩
  case busy => exact ⟨_, runs.trans (by rw [runStepsAct_busy hm (by omega) busy]), refuse_all stBusy hi hok⟩

end Sys2Proof.Machine
end

section
/-! PROOFS. MOORING_GROW, SHRINK, MOVE and LEND at the anchor (O50, R227, R316, R319, R327, R328, R333). -/

namespace Sys2Proof.Machine

section Membership

variable {s : State} {op : Nat} {x : Mooring} {b : Bundle} {m : Mbox} {r : Request} {as_ : List Answer} {items : List LendItem}

/-- A descriptor that the rules allow is there: 128 bytes (R319). -/
theorem mapOk_length {bs : List Byte} (h : mapOk s x op bs = true) : bs.length = 128 := by
  unfold mapOk mdescOk at h
  simp only [Bool.and_eq_true, decide_eq_true_eq] at h
  tauto

/-- An accepted membership command is one that the boundary has to perform. -/
theorem boundaryOp_acceptLong_membership {bs : List Byte} (h : bs ≠ []) :
    (boundaryOp (acceptLong s m r (.membership op bs as_ items)) r.mooring).isSome = true := by
  unfold boundaryOp
  rw [acceptLong_keeper, List.find?_isSome]
  exact ⟨opOf m r (.membership op bs as_ items), List.mem_append_right _ (List.mem_singleton_self _), by simp [opOf, h]⟩

/-- A command accepted while a step is in hand waits for the boundary; the run stops there, the others are asked about a fault. -/
theorem accepted_waits {kind : OpKind} (hi : s.Inv) (hok : m.ok = true) (hm : mooringAt s r.mooring = some x) (hs : x.stepOn = true)
    (waits : (boundaryOp (acceptLong s m r kind) r.mooring).isSome = true) :
    let t := awaitBoundary (acceptLong s m r kind) r.mooring
    Answered t m r stAccepted [] 0 ∧ t.keeper.ops = s.keeper.ops ++ [opOf m r kind] ∧
      mooringAt t r.mooring = some (pausing (faultAskedOf (otherMembers s x) x)) ∧
      (∀ k, k ≠ r.mooring → mooringAt t k = mooringAt s k) ∧ t.lanterns = s.lanterns ∧ t.boot = s.boot ∧ t.time = s.time := by
  obtain ⟨-, -, -, -, -, -, -, -, -, -, boot, -⟩ := acceptLong_sameWork (s := s) (m := m) (r := r) kind
  obtain ⟨now, only⟩ := awaitBoundary_inStep ((mooringAt_acceptLong kind _).trans hm) waits hs
  obtain ⟨answered, ops, rest⟩ := accepted_only hi hok only
  exact ⟨answered, ops, by rw [now, otherMembers_boot boot], rest⟩

/-- What the modules of a new block answer first that refuses its map (R328 step 1). -/
def mapRefusal (s : State) (x : Mooring) (b : Bundle) (bs : List Byte) (as_ : List Answer) : Option Answer :=
  let d := markRings s (mdescOf bs)
  let subs := keptSubs s x d
  let nodes := (blockNodes s d).map (standsIn subs)
  firstRefusal s (if nodes.contains (selfNode s) then ownAnswer s d b.p (positionOf subs (selfNode s)) false x.raised (toldBy as_)
    else ⟨selfNode s, stSuccess, [], []⟩) as_ nodes

theorem moveCommand_busy (hm : mooringAt s r.mooring = some x) (hb : bundleAt s x.bundle = some b)
    (pending : membershipPending s r.mooring = true) (bs : List Byte) :
    moveCommand s (.box m r) r.mooring op bs items as_ = refuse m r stBusy s := by
  unfold moveCommand
  simp only [hm, hb, if_pos pending]
  rfl

theorem moveCommand_accepted {bs : List Byte} (hm : mooringAt s r.mooring = some x) (hb : bundleAt s x.bundle = some b)
    (idle : membershipPending s r.mooring = false) (debug : ∀ it ∈ items, debugBars s it.ownerFunc = false)
    (allowed : mapOk s x op bs = true) (lend : op = 0x24 → lendOk s x bs items = true) (granted : mapRefusal s x b bs as_ = none) :
    moveCommand s (.box m r) r.mooring op bs items as_ =
      awaitBoundary (acceptLong s m r (.membership op bs as_ items)) r.mooring := by
  have undebugged : items.any (fun it => debugBars s it.ownerFunc) = false :=
    List.any_eq_false.2 fun it there => Bool.eq_false_iff.1 (debug it there)
  have sound : ¬ ((!mapOk s x op bs) = true ∨ (op = 0x24 ∧ (!lendOk s x bs items) = true)) := by
    rintro (refused | ⟨lends, refused⟩)
    · simp [allowed] at refused
    · simp [lend lends] at refused
  unfold moveCommand
  simp only [hm, hb, idle, undebugged, if_neg sound, Bool.false_eq_true, if_false]
  split
  next a refused => exact absurd (granted.symm.trans refused) nofun
  next => rfl

/-- A membership command at the anchor of its mooring. -/
theorem exec_membership_here {c : Instr} {cmd : Request → FwdCmd} (ha : Asked s m op r) (hm : mooringAt s r.mooring = some x)
    (here : anchorOf x = selfNode s)
    (runs : exec c s = .next (runCommand s m op fun r s =>
      atAnchor m r (cmd r) (fun po s => moveCommand s po r.mooring op r.args items as_) s)) :
    exec c s = .next (moveCommand s (.box m r) r.mooring op r.args items as_) := by
  rw [runs, next_asked ha, atAnchor_here hm here]

/-- The four membership commands do one thing at the anchor; only a LEND brings serving moorings. -/
theorem membership_moves {c : Instr} {kind : OpKind}
    (hc : c = .mooringGrow m as_ ∧ op = 0x0021 ∧ kind = .membership 0x21 r.args as_ [] ∨
      c = .mooringShrink m as_ ∧ op = 0x0022 ∧ kind = .membership 0x22 r.args as_ [] ∨
      c = .mooringMove m as_ ∧ op = 0x0023 ∧ kind = .membership 0x23 r.args as_ [] ∨
      c = .mooringLend m items as_ ∧ op = 0x0024 ∧ kind = .membership 0x24 r.args as_ items)
    (ha : Asked s m op r) (hm : mooringAt s r.mooring = some x) (here : anchorOf x = selfNode s) :
    ∃ lent, kind = .membership op r.args as_ lent ∧ (op = 0x24 ∧ lent = items ∨ op ≠ 0x24 ∧ lent = []) ∧
      exec c s = .next (moveCommand s (.box m r) r.mooring op r.args lent as_) := by
  rcases hc with ⟨rfl, rfl, rfl⟩ | ⟨rfl, rfl, rfl⟩ | ⟨rfl, rfl, rfl⟩ | ⟨rfl, rfl, rfl⟩
  case inl => exact ⟨[], rfl, .inr ⟨by decide, rfl⟩,
    exec_membership_here (cmd := fun r => .membership 0x21 r.args as_) ha hm here rfl⟩
  case inr.inl => exact ⟨[], rfl, .inr ⟨by decide, rfl⟩,
    exec_membership_here (cmd := fun r => .membership 0x22 r.args as_) ha hm here rfl⟩
  case inr.inr.inl => exact ⟨[], rfl, .inr ⟨by decide, rfl⟩,
    exec_membership_here (cmd := fun r => .membership 0x23 r.args as_) ha hm here rfl⟩
  case inr.inr.inr => exact ⟨items, rfl, .inl ⟨rfl, rfl⟩,
    exec_membership_here (cmd := fun r => .lend r.args items as_) ha hm here rfl⟩

end Membership

/-- Settles O50: the four commands are one command at the anchor, which a pending one refuses and a step in hand makes wait. -/
theorem membershipCommands : Obligations.MembershipCommands := by
  intro m r s x b as_ items c op kind hok hi hc ha hm here hb
  obtain ⟨lent, rfl, own, runs⟩ := membership_moves hc ha hm here
  refine ⟨fun idle allowed lend granted hs => ?waits, fun pending => ?busy⟩
  case waits =>
    have sound : (op = 0x24 → lendOk s x r.args lent = true) ∧ ∀ it ∈ lent, debugBars s it.ownerFunc = false := by
      rcases own with ⟨lends, rfl⟩ | ⟨moves, rfl⟩
      · exact ⟨fun _ => (lend lends).1, (lend lends).2⟩
      · exact ⟨fun lends => absurd lends moves, nofun⟩
    have there : r.args ≠ [] := List.ne_nil_of_length_pos (by rw [mapOk_length allowed]; decide)
    exact ⟨_, runs.trans (by rw [moveCommand_accepted hm hb idle sound.2 allowed sound.1 granted]),
      accepted_waits hi hok hm hs (boundaryOp_acceptLong_membership there)⟩
  case busy => exact ⟨_, runs.trans (by rw [moveCommand_busy hm hb pending]), refuse_all stBusy hi hok⟩

end Sys2Proof.Machine
end

section
/-! PROOFS. Shore cores lent to a mooring, and the windows that its guests see (O48, R218, R345, R370). -/

namespace Sys2Proof.Machine

section Lending

variable {s : State} {id entry img n c : Nat} {ws : List (Nat × Nat)} {x : Mooring} {b : Bundle} {cs : List Nat}

/-! ### Cores lent (R345, R370) -/

/-- A core lent to a mooring, its guest running. -/
def lentTo (id entry img n : Nat) (ws : List (Nat × Nat)) (k : ShoreCore) : ShoreCore :=
  { k with
    lent := some id
    running := true
    entry := entry
    image := img
    imgLen := n
    asked := ws }

/-- A core on which a guest has been started: of its last guest only the daymark is kept, and goes on. -/
def guestStarted (id entry img n : Nat) (ws : List (Nat × Nat)) (next : Nat → Nat) (k : ShoreCore) : ShoreCore :=
  lentTo id entry img n ws { ShoreCore.reset with daymark := next k.daymark }

/-- A guest runs on a core for a mooring, from an entry, with windows asked for. -/
structure RunsGuest (id entry : Nat) (ws : List (Nat × Nat)) (k : ShoreCore) : Prop where
  lent : k.lent = some id
  running : k.running = true
  entry : k.entry = entry
  asked : k.asked = ws

theorem guestStarted_runs (next : Nat → Nat) (k : ShoreCore) : RunsGuest id entry ws (guestStarted id entry img n ws next k) :=
  ⟨rfl, rfl, rfl, rfl⟩

/-- The Keeper's books with other notes of daymarks. -/
def notedDaymarks (k : Keeper) (lastAdv : List (Domain × Nat)) (owed : List Domain) : Keeper :=
  { k with
    lastAdv := lastAdv
    owed := owed }

theorem advanceDaymark_core (s : State) (c : Nat) : ∃ lastAdv owed, ∃ next : Nat → Nat, advanceDaymark s (.shore c) =
    { s with
      keeper := notedDaymarks s.keeper lastAdv owed
      shore := s.shore.modify c (fun k => { k with daymark := next k.daymark }) } := by
  unfold advanceDaymark
  split
  next => exact ⟨_, s.keeper.owed, nextDaymark, rfl⟩
  next =>
    have unmoved : s.shore.modify c (fun k => { k with daymark := k.daymark }) = s.shore := List.modify_id c s.shore
    exact ⟨s.keeper.lastAdv, s.keeper.owed ++ [.shore c], fun d => d, by rw [unmoved]; rfl⟩

theorem lendCore_eq (s : State) (id entry img n : Nat) (ws : List (Nat × Nat)) (c : Nat) : ∃ lastAdv owed, ∃ next : Nat → Nat,
    lendCore s id entry img n ws c = { s with
      keeper := notedDaymarks s.keeper lastAdv owed
      shore := s.shore.modify c (guestStarted id entry img n ws next) } := by
  obtain ⟨lastAdv, owed, next, advanced⟩ := advanceDaymark_core (modShore (stopCore s c) c (lentTo id entry img n ws)) c
  refine ⟨lastAdv, owed, next, advanced.trans ?_⟩
  simp only [modShore, stopCore, List.modify_modify_eq]
  rfl

/-- Of a list of cores some run guests now; the others are as they were. -/
structure Lends (id entry : Nat) (ws : List (Nat × Nat)) (cs : List Nat) (old new : List ShoreCore) : Prop where
  length : new.length = old.length
  guests : ∀ c ∈ cs, c < old.length → RunsGuest id entry ws (new.getD c ShoreCore.reset)
  others : ∀ c, c ∉ cs → new.getD c ShoreCore.reset = old.getD c ShoreCore.reset

theorem lends_cons {old mid new : List ShoreCore} {next : Nat → Nat} (first : mid = old.modify c (guestStarted id entry img n ws next))
    (rest : Lends id entry ws cs mid new) : Lends id entry ws (c :: cs) old new := by
  have length : mid.length = old.length := by rw [first, List.length_modify]
  refine ⟨rest.length.trans length, fun k hk there => ?_, fun k hk => ?_⟩
  · by_cases again : k ∈ cs
    · exact rest.guests k again (by rwa [length])
    · obtain rfl : k = c := (List.mem_cons.1 hk).resolve_right again
      rw [rest.others k again, first, getD_modify_same _ _ _ _ there]
      exact guestStarted_runs next _
  · obtain ⟨other, rest'⟩ := not_or.1 fun h => hk (List.mem_cons.2 h)
    rw [rest.others k rest', first, getD_modify_other _ _ _ other]

/-- Lending touches shore cores and the Keeper's notes of daymarks. -/
theorem lendCores_eq (id entry img n : Nat) (ws : List (Nat × Nat)) : ∀ (cs : List Nat) (s : State), ∃ lastAdv owed shore,
    cs.foldl (fun s c => lendCore s id entry img n ws c) s = { s with
      keeper := notedDaymarks s.keeper lastAdv owed
      shore := shore } ∧ Lends id entry ws cs s.shore shore
  | [], s => ⟨s.keeper.lastAdv, s.keeper.owed, s.shore, rfl, rfl, nofun, fun _ _ => rfl⟩
  | c :: cs, s => by
    obtain ⟨_, _, next, first⟩ := lendCore_eq s id entry img n ws c
    obtain ⟨lastAdv, owed, shore, rest, lends⟩ := lendCores_eq id entry img n ws cs (lendCore s id entry img n ws c)
    exact ⟨lastAdv, owed, shore, by rw [List.foldl_cons, rest, first]; rfl, lends_cons (congrArg State.shore first) lends⟩

/-! ### Windows (R218) -/

/-- A core of a mooring with those of its windows open that lie in some arrays; a core of another as it is. -/
def windowsOpened (id : Nat) (arrays : List (Nat × Nat)) (k : ShoreCore) : ShoreCore :=
  if k.lent = some id then { k with maps := k.asked.filter (windowIn arrays) } else k

theorem openWindows_eq (hm : mooringAt s id = some x) (hb : bundleAt s x.bundle = some b) : openWindows s id =
    { s with shore := s.shore.map (windowsOpened id (guestArrays x b.p x.readable)) } := by
  unfold openWindows
  simp only [hm, hb]
  rfl

theorem getD_windowsOpened (cores : List ShoreCore) (id : Nat) (arrays : List (Nat × Nat)) (c : Nat) :
    (cores.map (windowsOpened id arrays)).getD c ShoreCore.reset = windowsOpened id arrays (cores.getD c ShoreCore.reset) :=
  List.getD_map cores ShoreCore.reset (windowsOpened id arrays)

theorem RunsGuest.windowsOpened {k : ShoreCore} (h : RunsGuest id entry ws k) (arrays : List (Nat × Nat)) :
    Machine.windowsOpened id arrays k = { k with maps := ws.filter (windowIn arrays) } := by
  rw [Machine.windowsOpened, if_pos h.lent, h.asked]

end Lending

end Sys2Proof.Machine
end

section
/-! PROOFS. SHORE_START and SHORE_STOP (O48, R218, R345, R370, R380, R455). -/

namespace Sys2Proof.Machine

section ShoreCommands

variable {s u : State} {entry img n c cores : Nat} {ws arrays : List (Nat × Nat)} {x : Mooring} {b : Bundle} {m : Mbox} {r : Request}
  {cs : List Nat}

/-! ### SHORE_START -/

/-- The free cores of a mooring's sector, lowest first (R320). -/
def freeCores (s : State) (x : Mooring) : List Nat :=
  (sectorCores x.desc.split x.desc.sector).filter (fun c => (s.shore.getD c ShoreCore.reset).lent.isNone)

/-- SHORE_START accepted, its answer the cores lent. -/
def startAccepted (s : State) (m : Mbox) (r : Request) (cs : List Nat) : State :=
  modKeeper (answer s m r stAccepted (words cs) 0) (fun k => { k with ops := k.ops ++ [opOf m r .forwarded] })

/-- The guests of an accepted SHORE_START started, and logged (R455). -/
def guestsStarted (s : State) (m : Mbox) (r : Request) (cs : List Nat) (img n entry : Nat) (ws : List (Nat × Nat))
    (image : List Byte) : State :=
  attAdd (openWindows (cs.foldl (fun s c => lendCore s r.mooring entry img n ws c) (startAccepted s m r cs)) r.mooring) m.func
    ⟨2, r.mooring, nowNs s, Config.sm3 image, 0⟩

/-- What SHORE_START does with the image that it has read. -/
def startGuests (m : Mbox) (r : Request) (cs : List Nat) (img n entry : Nat) (ws : List (Nat × Nat)) (d : Except Nat (List Byte))
    (s : State) : State :=
  match d with
  | .error _ => refuse m r stField s
  | .ok image => finishOp (guestsStarted s m r cs img n entry ws image) m.func r.tag stSuccess 0 0

theorem execShoreStart_asked (ha : Asked s m 0x0050 r) (hm : mooringAt s r.mooring = some x) (hb : bundleAt s x.bundle = some b)
    (asks : 1 ≤ cores) (few : cores ≤ 12) (hn : n ≠ 0) (hw : ws.all (guestWindowOk x b.p) = true) (room : attFull s m.func = false) :
    exec (.shoreStart m cores img n entry ws) s = .next (
      if (freeCores s x).length < cores then refuse m r stBusy s
      else if !mayLend s ((freeCores s x).take cores) then s
      else readThen s img n (startGuests m r ((freeCores s x).take cores) img n entry ws)) := by
  have sound : ¬ (cores = 0 ∨ 12 < cores ∨ n = 0 ∨ (!ws.all (guestWindowOk x b.p)) = true) := by
    rw [hw]
    simp only [Bool.not_true, Bool.false_eq_true, or_false]
    omega
  show execShoreStart m cores img n entry ws s = _
  rw [execShoreStart, next_asked ha]
  simp only [hm, hb, if_neg sound, room, Bool.false_eq_true, or_false]
  rfl

theorem startAccepted_leaves (short : cs.length ≤ 12) : SameWork s (startAccepted s m r cs) ∧
    (startAccepted s m r cs).keeper.ops = s.keeper.ops ++ [opOf m r .forwarded] ∧
    (startAccepted s m r cs).keeper.bundles = s.keeper.bundles := by
  have fits : (words cs).length ≤ 4056 := by
    rw [words_length]
    omega
  have keeper := answer_keeper (s := s) (m := m) (r := r) (status := stAccepted) (detail := 0) fits
  have bundles := congrArg Keeper.bundles keeper
  exact ⟨answer_sameWork (s := s) fits, congrArg (fun k : Keeper => k.ops ++ [opOf m r .forwarded]) keeper, bundles⟩

theorem startAccepted_answered (hi : s.Inv) (hok : m.ok = true) (short : cs.length ≤ 12) :
    Answered (startAccepted s m r cs) m r stAccepted (words cs) 0 :=
  answer_answered (s := s) hi hok (by rw [words_length]; omega)

/-- What the start of guests does and leaves, the command still outstanding. -/
structure GuestsOn (m : Mbox) (r : Request) (cs : List Nat) (entry : Nat) (ws arrays : List (Nat × Nat)) (s u : State) : Prop where
  answered : Answered u m r stAccepted (words cs) 0
  mem : u.mem = s.mem
  lanterns : u.lanterns = s.lanterns
  moorings : u.moorings = s.moorings
  ops : u.keeper.ops = s.keeper.ops ++ [opOf m r .forwarded]
  shore : ∃ shore, u.shore = shore.map (windowsOpened r.mooring arrays) ∧ Lends r.mooring entry ws cs s.shore shore

theorem guestsStarted_on (hi : s.Inv) (hok : m.ok = true) (short : cs.length ≤ 12) (hm : mooringAt s r.mooring = some x)
    (hb : bundleAt s x.bundle = some b) (img n : Nat) (image : List Byte) :
    GuestsOn m r cs entry ws (guestArrays x b.p x.readable) s (guestsStarted s m r cs img n entry ws image) := by
  obtain ⟨⟨mem, -, lanterns, -, -, moorings, cores, -⟩, ops, bundles⟩ := startAccepted_leaves (s := s) (m := m) (r := r) short
  obtain ⟨lastAdv, owed, shore, lent, lends⟩ := lendCores_eq r.mooring entry img n ws cs (startAccepted s m r cs)
  have mooring : mooringAt (cs.foldl (fun s c => lendCore s r.mooring entry img n ws c) (startAccepted s m r cs)) r.mooring = some x := by
    rw [lent, ← hm]
    exact congrArg (List.find? _) moorings
  have bundle : bundleAt (cs.foldl (fun s c => lendCore s r.mooring entry img n ws c) (startAccepted s m r cs)) x.bundle = some b := by
    rw [lent, ← hb]
    exact congrArg (List.find? _) bundles
  have opened := openWindows_eq mooring bundle
  rw [lent] at opened
  unfold guestsStarted
  rw [lent, opened]
  refine ⟨answered_congr (attAdd_mbox ..) (startAccepted_answered hi hok short), mem, lanterns, moorings, ops, shore, rfl, ?_⟩
  rw [← cores]
  exact lends

/-- The command ends in its one record. -/
theorem GuestsOn.reported (h : GuestsOn m r cs entry ws arrays s u) (hok : m.ok = true)
    (tag : tagFree s m.func r.tag = true) : Reported (finishOp u m.func r.tag stSuccess 0 0) (dropOp u m.func r.tag) m.func r 0 0 0 := by
  have same : u.keeper.ops = (acceptLong s m r .forwarded).keeper.ops := by rw [h.ops, acceptLong_keeper]
  have outstanding := (opAt_of_ops same m.func r.tag).trans (opAt_acceptLong .forwarded tag)
  exact finishOp_here outstanding ((mboxFunc_lt hok).trans (by decide)) ..

/-- A core that has been lent, as SHORE_START leaves it. -/
theorem GuestsOn.guest (h : GuestsOn m r cs entry ws arrays s u) (hc : c ∈ cs)
    (there : c < s.shore.length) :
    let k := u.shore.getD c ShoreCore.reset
    k.lent = some r.mooring ∧ k.running = true ∧ k.entry = entry ∧ k.asked = ws ∧ k.maps = ws.filter (windowIn arrays) := by
  obtain ⟨shore, opened, lends⟩ := h.shore
  have runs := lends.guests c hc there
  rw [opened, getD_windowsOpened, runs.windowsOpened]
  exact ⟨runs.lent, runs.running, runs.entry, runs.asked, rfl⟩

/-- Another core: the windows of the mooring's are opened anew. -/
theorem GuestsOn.other (h : GuestsOn m r cs entry ws arrays s u) (hc : c ∉ cs) :
    u.shore.getD c ShoreCore.reset = windowsOpened r.mooring arrays (s.shore.getD c ShoreCore.reset) := by
  obtain ⟨shore, opened, lends⟩ := h.shore
  rw [opened, getD_windowsOpened, lends.others c hc]

/-! ### SHORE_STOP -/

theorem execShoreStop_refused (ha : Asked s m 0x0051 r) (bad : 12 ≤ c ∨ (s.shore.getD c ShoreCore.reset).lent ≠ some r.mooring) :
    exec (.shoreStop m (some c)) s = .next (refuse m r stField s) := by
  show execShoreStop m (some c) s = _
  rw [execShoreStop, next_asked ha]
  simp only [if_pos bad]

theorem execShoreStop_own (ha : Asked s m 0x0051 r) (there : c < 12) (own : (s.shore.getD c ShoreCore.reset).lent = some r.mooring) :
    exec (.shoreStop m (some c)) s = .next (answer (stopCore s c) m r stSuccess [] 0) := by
  have sound : ¬ (12 ≤ c ∨ (s.shore.getD c ShoreCore.reset).lent ≠ some r.mooring) :=
    not_or.2 ⟨Nat.not_le.2 there, not_not.2 own⟩
  show execShoreStop m (some c) s = _
  rw [execShoreStop, next_asked ha]
  simp only [if_neg sound]

theorem stopCore_core (there : c < s.shore.length) : (stopCore s c).shore.getD c ShoreCore.reset =
    { ShoreCore.reset with daymark := (s.shore.getD c ShoreCore.reset).daymark } := by
  rw [stopCore, modShore_shore, getD_modify_same _ _ _ _ there]

theorem stopCore_others {k : Nat} (hk : k ≠ c) : (stopCore s c).shore.getD k ShoreCore.reset = s.shore.getD k ShoreCore.reset :=
  getD_modify_other _ _ _ hk

end ShoreCommands

/-- Settles O48: a start refuses, waits, or lends the lowest free cores and opens the windows; a stop resets one core of the mooring. -/
theorem shoreCores : Obligations.ShoreCores := by
  intro m r s hok hi
  have cores12 : s.shore.length = 12 := by
    obtain ⟨⟨-, -, -, -, shore, -⟩, -⟩ := hi
    exact shore
  refine ⟨?start, ?stop, ?notOwn⟩
  case start =>
    intro cores img n entry ws x b image ha hm hb read asks few hn hw room free
    have runs := execShoreStart_asked (img := img) (entry := entry) ha hm hb asks few hn hw room
    refine ⟨fun (enough : cores ≤ (freeCores s x).length) (may : mayLend s ((freeCores s x).take cores) = true) => ?lends,
      fun (enough : cores ≤ (freeCores s x).length) (may : mayLend s ((freeCores s x).take cores) = false) => ?waits,
      fun (short : (freeCores s x).length < cores) => ?busy⟩
    case lends =>
      rw [if_neg (Nat.not_lt.2 enough), may, readThen_ok _ read] at runs
      have tag : tagFree s m.func r.tag = true := tagFree_of_asked ha (c := ⟨.T, true, false⟩) rfl rfl
      have on : GuestsOn m r ((freeCores s x).take cores) entry ws (guestArrays x b.p x.readable) (sysCopy s n) _ :=
        guestsStarted_on (inv_sysCopy hi) hok ((List.length_take_le ..).trans few) hm hb img n image
      exact ⟨_, _, runs, answered_congr (mboxAt_dropOp ..) on.answered, on.reported hok tag, on.mem, on.lanterns, on.moorings,
        dropOp_ops .forwarded tag on.ops, fun c hc there => on.guest hc (cores12.symm ▸ there), fun c hc => on.other hc⟩
    case waits =>
      rw [if_neg (Nat.not_lt.2 enough), may] at runs
      exact runs
    case busy =>
      rw [if_pos short] at runs
      exact ⟨_, runs, refuse_all stBusy hi hok⟩
  case stop =>
    intro c ha there own
    obtain ⟨answered, ⟨mem, -, lanterns, -, -, moorings, shore, -⟩, keeper, -⟩ :=
      answer_all (r := r) stSuccess [] 0 (inv_stopCore (c := c) hi) hok (Nat.zero_le _)
    refine ⟨_, execShoreStop_own ha there own, answered, ?_, ?_, ?_, fun k hk => ?_, mem, lanterns, moorings, keeper⟩
    · rw [shore, stopCore_core (cores12.symm ▸ there)]
      rfl
    · rw [shore, stopCore_core (cores12.symm ▸ there)]
      rfl
    · rw [shore, stopCore_core (cores12.symm ▸ there)]
      rfl
    · rw [shore, stopCore_others hk]
  case notOwn =>
    intro c ha bad
    exact ⟨_, execShoreStop_refused ha bad, refuse_all stField hi hok⟩

end Sys2Proof.Machine
end

section
/-! PROOFS. A light list that is not installed, while packets wait for a port that goes down for it (R274, R275, R276). -/

namespace Sys2Proof.Machine

/-- The entry that sends the packets for node 1 out by a port on the escape VCs. -/
def towardsNodeOne (port : Nat) : LightEntry := ⟨1, 0x3FFFF, 8, port, 1⟩

/-- Node 0 of a ring of three along Z. Its list sends what is for node 1 by port 6, and has done so once, with a packet that
waits there; the port has come up and its list is still due. -/
def waitingAtSix : State :=
  modPort (modRouter (modBoot State.reset (fun b => { b with sizes := [1, 1, 1, 3] })) (fun r => { r with
    bank0 := [⟨towardsNodeOne 6, 1⟩]
    waiting := [⟨{ Packet.blank with dest := 1 }, .out 6 true, false, 0, 0⟩] })) 6 (fun x => { x with
    up := true
    listDue := true })

theorem waitingAtSix_inv : waitingAtSix.Inv :=
  inv_modPort (inv_modRouter rfl (inv_modBoot resetMeetsTheInvariant))

/-- A list at node 0 that sends packets for node 1 to node 2, which sends them back, makes a cycle. -/
theorem sentBack_cycle : escapeAcyclic waitingAtSix [towardsNodeOne 7] [(2, [towardsNodeOne 6])] = false := by decide +kernel

/-- The light list that a command leaves, with its counts of hits, none where it stops. -/
def lightListAfter (c : Instr) (s : State) : Option (List BankEntry) :=
  match exec c s with
  | .next t => some (lightList t)
  | _ => none

/-- The port is left down (R276), so the packet has its route chosen once more (R274), and its entry counts it again (R275). -/
theorem waitingAtSix_countsAgain : lightListAfter (.lightListInstall [towardsNodeOne 7] [(2, [towardsNodeOne 6])]) waitingAtSix =
    some [⟨towardsNodeOne 6, 2⟩] := by
  decide +kernel

/-- Refutes O19: a set with a cycle is not installed and leaves its ports down, which routes the packets that wait for them once
more; the hits that this counts change the list in use, and the statement asks for the list as it was, hits and all. -/
theorem not_routing : ¬ Obligations.Routing := by
  intro h
  obtain ⟨-, -, -, -, -, -, -, refused⟩ := h waitingAtSix waitingAtSix_inv
  obtain ⟨t, e, runs, unchanged, -⟩ := refused _ _ sentBack_cycle
  have counted := waitingAtSix_countsAgain
  rw [lightListAfter, runs] at counted
  exact absurd (unchanged.symm.trans (Option.some.inj counted)) (by decide)

end Sys2Proof.Machine
end

section
/-! PROOFS. The eighth timeout of a stream, while an event queue has its ring at a carrier peer (R192, R279, R281, R388). -/

namespace Sys2Proof.Machine

/-- A stream of class 0 to node 0x8000 whose one packet has not been acknowledged through seven timeouts. -/
def silentStream : SrcStream := ⟨0x8000, 0, 1, false, [(0, { Packet.blank with dest := 0x8000 })], [], 7, 0⟩

/-- A carrier of two modules. The other, node 0x8000, does not answer, and the ring of an event queue of function 0 lies
there. -/
def ringAtSilentPeer : State :=
  modQueue (modRouter (modBoot State.reset (fun b => { b with sizes := [2, 1, 1, 1] })) (fun r => { r with
    src := [silentStream] })) 0 0 (fun q => { q with
    bound := true
    event := true
    log2n := 6
    base := 2 ^ 61 + 2 ^ 58 })

theorem ringAtSilentPeer_inv : ringAtSilentPeer.Inv :=
  inv_modQueue (inv_modRouter rfl (inv_modBoot resetMeetsTheInvariant))

theorem ringAtSilentPeer_idle (l : Nat) : (lanternAt ringAtSilentPeer l).coll = [] :=
  forall_getD (P := fun x : Lantern => x.coll = []) rfl (fun _ there => (List.eq_of_mem_replicate there) ▸ rfl)

/-- A stream as a command leaves it, none where it stops. -/
def streamAfter (c : Instr) (s : State) (dest cls : Nat) : Option SrcStream :=
  match exec c s with
  | .next t => streamAt t dest cls
  | _ => none

/-- The event that the failed stream raises is written to the peer by a PEER_WRITE, and this opens the stream again. -/
theorem ringAtSilentPeer_reopens : (streamAfter (.streamTimeout 0x8000 0) ringAtSilentPeer 0x8000 0).isSome = true := by
  decide +kernel

/-- Refutes O21: the statement asks that a stream which fails be gone after the command, wherever the rings of the event queues
lie; where one lies at the very node that the stream led to, the peer-unreachable event itself opens the stream anew. -/
theorem not_streams : ¬ Obligations.Streams := by
  intro h
  obtain ⟨-, -, -, -, -, -, -, -, -, timeout⟩ := h ringAtSilentPeer ringAtSilentPeer_inv
  obtain ⟨-, -, fails⟩ := timeout 0x8000 0 silentStream rfl
  obtain ⟨t, e, runs, gone, -⟩ := fails (by decide) (Nat.le_refl 7) rfl ringAtSilentPeer_idle (by decide)
  have reopened := ringAtSilentPeer_reopens
  rw [streamAfter, runs, Option.isSome_iff_ne_none] at reopened
  exact reopened gone

end Sys2Proof.Machine
end

section
/-! PROOFS. Module time: pulses and the servo's tick (R16, R195, R221, R283, R285, R420, R427, R468). -/

namespace Sys2Proof.Machine

section Pulses

variable {s : State} {iv w : Nat}

/-- A pulse that comes to a module which is not the root it follows changes nothing. -/
theorem ppsPulse_unheeded (h : s.time.root ≠ selfNode s ∨ s.time.holdover = true) : exec (.ppsPulse iv w) s = .next s := by
  show execPpsPulse iv w s = _
  have away : isTimeRoot s = false := by
    rcases h with h | h <;> simp [isTimeRoot, h]
  simp [execPpsPulse, away]

theorem isTimeRoot_of (hr : s.time.root = selfNode s) (hh : s.time.holdover = false) : isTimeRoot s = true := by
  simp [isTimeRoot, hr, hh]

/-- The time state after a valid pulse at the root. -/
def pulsed (t : TimeState) : TimeState :=
  { t with
    pulses := t.pulses + 1
    steering := t.steering || decide (4 ≤ t.pulses + 1)
    adjust := if t.steering || decide (4 ≤ t.pulses + 1) then toWholeSecond t.now else t.adjust }

theorem ppsPulse_valid (hr : isTimeRoot s = true) (hv : pulseValid iv w = true) :
    exec (.ppsPulse iv w) s = .next { s with time := pulsed s.time } := by
  show execPpsPulse iv w s = _
  simp [execPpsPulse, hr, hv, pulsed, modTime]

theorem ppsPulse_invalid (hr : isTimeRoot s = true) (hv : pulseValid iv w = false) :
    exec (.ppsPulse iv w) s = .next { s with time := { s.time with pulses := 0 } } := by
  show execPpsPulse iv w s = _
  simp [execPpsPulse, hr, hv, modTime]

/-- What brings a time to the nearest whole second, of 65,536 * 10^9 units of 2^-16 ns (R468). -/
theorem toWholeSecond_lands (now : Nat) : ((now : Int) + toWholeSecond now) % 65536000000000 = 0 ∧
    -32768000000000 ≤ toWholeSecond now ∧ toWholeSecond now ≤ 32768000000000 := by
  unfold toWholeSecond
  dsimp only
  split <;> omega

end Pulses

/-! ### The servo's tick (R283) -/

section Tick

variable {s : State}

/-- Of the router only the ports' stall counters change, of the rest nothing. -/
def OnlyStalls (s t : State) : Prop :=
  t = { s with router := t.router } ∧ ∀ k, portAt t k = { portAt s k with stall := (portAt t k).stall }

theorem OnlyStalls.refl (s : State) : OnlyStalls s s := ⟨rfl, fun _ => rfl⟩

theorem OnlyStalls.trans {t u : State} (h : OnlyStalls s t) (h' : OnlyStalls t u) : OnlyStalls s u := by
  obtain ⟨same, ports⟩ := h
  obtain ⟨same', ports'⟩ := h'
  exact ⟨by rw [same', same], fun k => by rw [ports' k, ports k]⟩

theorem onlyStalls_modPort (p : Nat) (g : Port → List Nat) :
    OnlyStalls s (modPort s p (fun x => { x with stall := g x })) := by
  refine ⟨rfl, fun k => ?_⟩
  have stalled : portAt (modPort s p (fun x => { x with stall := g x })) k =
      if k = p ∧ k < s.router.ports.length then { portAt s k with stall := g (portAt s k) } else portAt s k :=
    getD_modify_le ..
  rw [stalled]
  split <;> rfl

theorem onlyStalls_foldl {α : Type} {g : State → α → State} (hg : ∀ s a, OnlyStalls s (g s a)) :
    ∀ (xs : List α) (s : State), OnlyStalls s (xs.foldl g s)
  | [], s => OnlyStalls.refl s
  | x :: xs, s => (hg s x).trans (onlyStalls_foldl hg xs (g s x))

theorem countStalls_onlyStalls (s : State) : OnlyStalls s (countStalls s) :=
  onlyStalls_foldl (fun _ _ => onlyStalls_modPort ..) _ _

/-- A channel after 1 us, in gc (R195). -/
def heldChan (gc : Nat) (c : DmaChan) : DmaChan :=
  { c with counters := if c.waiting = true then bump c.counters 13 gc else c.counters }

/-- A lantern after 1 us: what held, filled or froze it is counted (R16, R221, R416, R420). -/
def heldLantern (gc : Nat) (x : Lantern) : Lantern :=
  let steps := if x.fastClk = true then gc else gc / 2
  { x with
    stall := x.stall + (if (x.holding || x.updHold) = true then gc else 0)
    fillSteps := x.fillSteps + (if x.filling = true then steps else 0)
    throttle := x.throttle + (if lensAtWork x = true then steps * frozenOf32 x.level x.fastClk / 32 else 0)
    dma := x.dma.map (heldChan gc) }

theorem add_if (b : Bool) (n k : Nat) : (if b = true then n + k else n) = n + (if b = true then k else 0) := by
  cases b <;> rfl

theorem countHolds_eq (s : State) : countHolds s = { s with
    lanterns := s.lanterns.map (heldLantern (gcPerUs s))
    sysChans := s.sysChans.map (heldChan (gcPerUs s)) } := by
  have chan : (fun c : DmaChan => if c.waiting then { c with counters := bump c.counters 13 (gcPerUs s) } else c) =
      heldChan (gcPerUs s) := by
    funext c
    unfold heldChan
    split <;> rfl
  simp only [countHolds, chan, add_if, lensPerUs]
  rfl

theorem lanternAt_countHolds (s : State) (l : Nat) :
    lanternAt (countHolds s) l = heldLantern (gcPerUs s) (lanternAt s l) := by
  rw [countHolds_eq]
  exact List.getD_map s.lanterns Lantern.reset (heldLantern (gcPerUs s))

theorem chanAt_countHolds (s : State) (h : Chan) : chanAt (countHolds s) h = heldChan (gcPerUs s) (chanAt s h) := by
  cases h with
  | lantern l c =>
    show (lanternAt (countHolds s) l).dma.getD c DmaChan.reset = _
    rw [lanternAt_countHolds]
    exact List.getD_map _ DmaChan.reset (heldChan (gcPerUs s))
  | system n =>
    rw [countHolds_eq]
    exact List.getD_map s.sysChans DmaChan.reset (heldChan (gcPerUs s))

/-- The time spent free running after 1 us (R283, R286). -/
def freeAfter (t : TimeState) : Nat := t.freeUs + (if t.holdover = true then 1 else 0)

/-- State u is state s with 1 us counted: at the ports' stalls, the lanterns, the channels, and the time spent free running. -/
structure TickCounted (s u : State) : Prop where
  same : u = { s with
    time := { s.time with freeUs := freeAfter s.time }
    router := u.router
    lanterns := u.lanterns
    sysChans := u.sysChans }
  ports : ∀ k, portAt u k = { portAt s k with stall := (portAt u k).stall }
  lanterns : ∀ l, lanternAt u l = heldLantern (gcPerUs s) (lanternAt s l)
  chans : ∀ h, chanAt u h = heldChan (gcPerUs s) (chanAt s h)

theorem counted_countHolds {v : State} (h : OnlyStalls (modTime s (fun t => { t with freeUs := freeAfter t })) v) :
    TickCounted s (countHolds v) := by
  obtain ⟨same, ports⟩ := h
  have gc : gcPerUs v = gcPerUs s := by rw [same]; rfl
  refine ⟨by rw [countHolds_eq, same]; rfl, ports, fun l => ?_, fun h => ?_⟩
  · rw [lanternAt_countHolds, gc, same]
    rfl
  · rw [chanAt_countHolds, gc, same]
    cases h <;> rfl

theorem TickCounted.lantern {u : State} (h : TickCounted s u) (l : Nat) :
    lanternAt u l = { heldLantern (gcPerUs s) (lanternAt s l) with dma := (lanternAt u l).dma } := by
  rw [h.lanterns]

/-- Module time moved on by 1 us and a correction. -/
def moved (t : TimeState) (c : Int) : TimeState := { t with now := t.now + (65536000 + c).toNat }

/-- A correction is held to 200 ppm, so module time never moves backward (R283). -/
theorem moved_ppmClamp (t : TimeState) (e : Int) : -13107 ≤ ppmClamp e ∧ ppmClamp e ≤ 13107 ∧
    ((moved t (ppmClamp e)).now : Int) = t.now + 65536000 + ppmClamp e ∧ t.now < (moved t (ppmClamp e)).now := by
  have low : -13107 ≤ ppmClamp e := le_max_left ..
  have high : ppmClamp e ≤ 13107 := max_le (by decide) (min_le_left ..)
  unfold moved
  refine ⟨low, high, ?_, ?_⟩ <;> dsimp only <;> omega

/-- What steers a module without a parent: as the root it follows, what is left to slew (R468); free running, nothing. -/
def slewing (s : State) : Int := if s.time.root = selfNode s ∧ s.time.holdover = false then s.time.adjust else 0

theorem ppmClamp_slewing (s : State) : ppmClamp (slewing s) =
    if s.time.root = selfNode s ∧ s.time.holdover = false then max (-13107) (min 13107 s.time.adjust) else 0 := by
  unfold slewing
  split <;> rfl

/-- What the tick does once 1 us is counted. -/
def servo (u : State) : State :=
  match u.time.parent with
  | some p =>
    let c := ppmClamp (meanInt (portAt u p).offsets)
    modTime (modPort u p (fun x => { x with offsets := x.offsets.map (· - c) })) (fun t => { moved t c with locked := true })
  | none =>
    let c := if isTimeRoot u then ppmClamp u.time.adjust else 0
    modTime u (fun t => { moved t c with adjust := t.adjust - c })

theorem timeServoTick_servo (s : State) : ∃ u, TickCounted s u ∧ exec .timeServoTick s = .next (servo u) :=
  ⟨_, counted_countHolds (countStalls_onlyStalls _), rfl⟩

/-- A tick without a parent: what a root steers by its pulse is slewed, in holdover nothing is. -/
theorem servo_alone {u : State} (counted : TickCounted s u) (h : s.time.parent = none) : servo u = modTime u (fun t =>
    { moved t (ppmClamp (slewing s)) with adjust := t.adjust - ppmClamp (slewing s) }) := by
  have parent : u.time.parent = none := by rw [counted.same]; exact h
  have steers : (if isTimeRoot u then ppmClamp u.time.adjust else 0) = ppmClamp (slewing s) := by
    rw [ppmClamp_slewing, counted.same]
    simp only [isTimeRoot, Bool.and_eq_true, decide_eq_true_eq, Bool.not_eq_true']
    rfl
  simp only [servo, parent, steers]

/-- A tick with a parent: module time is moved toward what the exchanges with it give, whose offsets shrink by as much. -/
theorem servo_led {u : State} {p : Nat} (counted : TickCounted s u) (h : s.time.parent = some p) :
    let c := ppmClamp (meanInt (portAt s p).offsets)
    servo u = modTime (modPort u p (fun x => { x with offsets := x.offsets.map (· - c) }))
      (fun t => { moved t c with locked := true }) := by
  have parent : u.time.parent = some p := by rw [counted.same]; exact h
  have offsets : (portAt u p).offsets = (portAt s p).offsets := by rw [counted.ports]
  simp only [servo, parent, offsets]

end Tick

end Sys2Proof.Machine
end

section
/-! PROOFS. The choice of the time root, TIME_ROOT, and module time as a whole (O39, R283, R284, R468). -/

namespace Sys2Proof.Machine

section Root

variable {s : State} {root : Nat}

theorem followRoot_self (h : root = selfNode s) : followRoot s root = { s with time := { s.time with
    root := root
    parent := none
    dist := 0
    holdover := false
    raised := false } } := if_pos h

/-- The time state of a module that follows a root through a port. -/
def followed (t : TimeState) (root d p : Nat) : TimeState :=
  { freeRun t with
    root := root
    parent := some p
    dist := min 254 (d + 1)
    holdover := false
    raised := false }

/-- A root that a port reports is followed through that port; an event tells of a jump of module time. -/
theorem followRoot_found {d p : Nat} (away : root ≠ selfNode s) (best : bestParent (reporters s root) = some (d, p)) :
    followRoot s root = { s with time := followed s.time root d p } ∨
      followRoot s root = raiseEventP { s with time := followed s.time root d p } evTime 0 root := by
  unfold followRoot
  rw [if_neg away, best]
  dsimp only
  split
  · exact .inr rfl
  · exact .inl rfl

theorem followRoot_found_units {d p : Nat} (away : root ≠ selfNode s) (best : bestParent (reporters s root) = some (d, p)) :
    SameUnits { s with time := followed s.time root d p } (followRoot s root) := by
  rcases followRoot_found away best with plain | told
  · rw [plain]
    exact SameUnits.refl _
  · rw [told]
    exact raiseEventP_units ..

theorem followRoot_found_time {d p : Nat} (away : root ≠ selfNode s) (best : bestParent (reporters s root) = some (d, p)) :
    (followRoot s root).time = followed s.time root d p := by
  obtain ⟨-, -, -, -, -, -, time, -⟩ := followRoot_found_units away best
  exact time

/-- A root that no port reports leaves the module in holdover at DIST 255. -/
theorem followRoot_lost (away : root ≠ selfNode s) (lost : bestParent (reporters s root) = none) :
    followRoot s root = { s with time := { freeRun s.time with
      root := root
      parent := none
      dist := 255
      holdover := true } } := by
  unfold followRoot
  rw [if_neg away, lost]
  rfl

/-- Time state u names the root that t names, at the same module time, and follows a root. -/
structure Follows (t u : TimeState) (root : Nat) : Prop where
  root : u.root = root
  now : u.now = t.now
  named : u.named = t.named

/-- Whichever way a root is followed, module time and the name of the root stay, and so do the other units. -/
theorem followRoot_follows (s : State) (root : Nat) : Follows s.time (followRoot s root).time root ∧
    SameUnits { s with time := (followRoot s root).time } (followRoot s root) := by
  by_cases home : root = selfNode s
  · rw [followRoot_self home]
    exact ⟨⟨rfl, rfl, rfl⟩, SameUnits.refl _⟩
  cases best : bestParent (reporters s root) with
  | none =>
    rw [followRoot_lost home best]
    exact ⟨⟨rfl, rfl, rfl⟩, SameUnits.refl _⟩
  | some q =>
    have time := followRoot_found_time home best
    rw [time]
    exact ⟨⟨rfl, rfl, rfl⟩, followRoot_found_units home best⟩

theorem rootReselect_eq (h : s.time.holdover = true) : exec .rootReselect s = .next (followRoot s (chooseRoot s)) := by
  show execRootReselect s = _
  rw [execRootReselect, if_pos h]

theorem holdoverTimeout_eq (h : s.time.holdover = true) (hr : s.time.raised = false) : exec .holdoverTimeout s =
    .next (raiseEventP { s with time := { s.time with raised := true } } evTime 0 s.time.root) := by
  show execHoldoverTimeout s = _
  simp [execHoldoverTimeout, h, hr, modTime]

/-- A fold that takes a minimum wherever a guard holds ends no higher than its start and no higher than any guarded number. -/
theorem foldl_min_le (g : Nat → Bool) (f : Nat → Nat) : ∀ (xs : List Nat) (a : Nat),
    xs.foldl (fun m p => if g p = true then min m (f p) else m) a ≤ a ∧
      ∀ p ∈ xs, g p = true → xs.foldl (fun m p => if g p = true then min m (f p) else m) a ≤ f p
  | [], a => ⟨Nat.le_refl a, nofun⟩
  | x :: xs, a => by
    rw [List.foldl_cons]
    obtain ⟨low, each⟩ := foldl_min_le g f xs (if g x = true then min a (f x) else a)
    have first : (if g x = true then min a (f x) else a) ≤ a := by
      split
      · exact Nat.min_le_left ..
      · exact Nat.le_refl a
    refine ⟨low.trans first, fun p hp hg => ?_⟩
    rcases List.mem_cons.1 hp with rfl | there
    · exact low.trans (by rw [if_pos hg]; exact Nat.min_le_right ..)
    · exact each p there hg

/-- Without a name the module takes the lowest root of which it knows, its own included (R284). -/
theorem chooseRoot_unnamed (h : s.time.named = none) : chooseRoot s ≤ selfNode s ∧
    ∀ p, p < 8 → (portAt s p).up = true → (portAt s p).dist < 255 → chooseRoot s ≤ (portAt s p).root := by
  have lowest : chooseRoot s = (List.range 8).foldl (fun m p =>
      if ((portAt s p).up && decide ((portAt s p).dist < 255)) = true then min m (portAt s p).root else m) (selfNode s) := by
    unfold chooseRoot
    rw [h]
  obtain ⟨own, each⟩ := foldl_min_le (fun p => (portAt s p).up && decide ((portAt s p).dist < 255))
    (fun p => (portAt s p).root) (List.range 8) (selfNode s)
  rw [lowest]
  exact ⟨own, fun p hp up near => each p (List.mem_range.2 hp) (by simp [up, near])⟩

/-- A module keeps the name that it is given; module time and the other units stay. -/
theorem nameRoot_names (s : State) (node : Option Nat) : (nameRoot s node).time.named = node ∧
    (nameRoot s node).time.now = s.time.now ∧ SameUnits { s with time := (nameRoot s node).time } (nameRoot s node) := by
  unfold nameRoot
  dsimp only
  split
  · exact ⟨rfl, rfl, SameUnits.refl _⟩
  · obtain ⟨⟨-, now, named⟩, units⟩ := followRoot_follows (modTime s (fun t => { t with named := node }))
      (chooseRoot (modTime s (fun t => { t with named := node })))
    exact ⟨named, now, units⟩

variable {m : Mbox} {r : Request} {node : Option Nat}

/-- TIME_ROOT with no name, or with the name of a node of the torus (R284). -/
theorem timeRoot_named (ha : Asked s m 0x0064 r) (known : ∀ n, node = some n → (allNodes s).contains n = true) :
    exec (.timeRoot m node) s =
      .next (answer (nameRoot (tellNodes s (.timeRoot node) (allNodes s)) node) m r stSuccess [] 0) := by
  show execTimeRoot m node s = _
  rw [execTimeRoot, next_asked ha]
  cases node with
  | none => rfl
  | some n => simp only [known n rfl, Bool.not_true, Bool.false_eq_true, if_false]

theorem timeRoot_unknown {n : Nat} (ha : Asked s m 0x0064 r) (unknown : (allNodes s).contains n = false) :
    exec (.timeRoot m (some n)) s = .next (refuse m r stField s) := by
  show execTimeRoot m (some n) s = _
  rw [execTimeRoot, next_asked ha]
  simp only [unknown, Bool.not_false, if_true]

/-- What TIME_ROOT leaves where it succeeds: the answer, the name, and the units as they were but for the root followed. -/
theorem timeRoot_answers (hok : m.ok = true) (hi : s.Inv) (node : Option Nat) :
    let t := answer (nameRoot (tellNodes s (.timeRoot node) (allNodes s)) node) m r stSuccess [] 0
    Answered t m r 0 [] 0 ∧ t.time.named = node ∧ t.time.now = s.time.now ∧ t.lanterns = s.lanterns ∧
      t.moorings = s.moorings ∧ t.power = s.power ∧ t.boot = s.boot := by
  obtain ⟨router, free, out, told⟩ := tellNodes_eq (.timeRoot node) (allNodes s) s
  obtain ⟨named, now, power, boot, moorings, lanterns, -⟩ := nameRoot_names (tellNodes s (.timeRoot node) (allNodes s)) node
  obtain ⟨answered, work, -⟩ := answer_all (r := r) stSuccess [] 0 (inv_nameRoot (node := node) (inv_tellNodes hi)) hok
    (Nat.zero_le _)
  obtain ⟨-, -, lanterns', -, -, moorings', -, -, time', power', boot', -⟩ := work
  rw [told] at now lanterns moorings power boot
  exact ⟨answered, by rw [time', named], by rw [time', told, now], by rw [lanterns', told, lanterns],
    by rw [moorings', told, moorings], by rw [power', told, power], by rw [boot', told, boot]⟩

end Root

/-- Settles O39: pulses, the tick with and without a parent, holdover, the choice of the root, and TIME_ROOT. -/
theorem moduleTime : Obligations.ModuleTime := by
  refine ⟨fun s iv w => ppsPulse_unheeded, fun s iv w hr hh => ⟨fun sound => ?valid, fun bad => ?invalid⟩, fun s => rfl,
    fun s => ?tick, fun s hh hr => ?holdover, fun s hh => ?reselect, fun s => chooseRoot_unnamed,
    fun m r s n hok hi ha => ⟨fun known => ?named, fun unknown => ?unknown, ?unnamed⟩⟩
  case valid =>
    have valid : pulseValid iv w = true := by simpa [pulseValid, and_assoc] using sound
    refine ⟨_, ppsPulse_valid (isTimeRoot_of hr hh) valid, fun free few => ?_, fun steers => ?_⟩
    · rw [if_neg (by simp [free]; omega)]
    · rw [if_pos (by rcases steers with steers | steers <;> simp [steers])]
      exact toWholeSecond_lands s.time.now
  case invalid =>
    have invalid : pulseValid iv w = false := by
      simp only [pulseValid, Bool.and_eq_false_iff, decide_eq_false_iff_not]
      omega
    exact ppsPulse_invalid (isTimeRoot_of hr hh) invalid
  case tick =>
    obtain ⟨u, counted, runs⟩ := timeServoTick_servo s
    have same := counted.same
    cases hp : s.time.parent with
    | none =>
      rw [servo_alone counted hp] at runs
      obtain ⟨low, high, now, forward⟩ := moved_ppmClamp s.time (slewing s)
      refine ⟨_, ppmClamp (slewing s), runs, low, high, ?_, ?_, ?_, counted.lantern, counted.chans,
        fun _ => ⟨?_, ppmClamp_slewing s, counted.ports⟩, nofun⟩
      all_goals rw [same]
      · exact now
      · exact forward
      · rfl
      · rfl
    | some p =>
      rw [servo_led counted hp] at runs
      let c := ppmClamp (meanInt (portAt s p).offsets)
      obtain ⟨low, high, now, forward⟩ := moved_ppmClamp s.time (meanInt (portAt s p).offsets)
      refine ⟨_, c, runs, low, high, ?_, ?_, ?_, counted.lantern, counted.chans, nofun,
        fun q hq => ?_⟩
      · rw [same]; exact now
      · rw [same]; exact forward
      · rw [same]; rfl
      · obtain rfl : p = q := Option.some.inj hq
        refine ⟨by rw [same]; rfl, rfl, fun k hk => ?_⟩
        have kept := portAt_modPort_other u (fun x => { x with offsets := x.offsets.map (· - c) }) hk
        exact Eq.trans kept ((counted.ports k).trans (by rw [← kept]; rfl))
  case holdover =>
    obtain ⟨e, code, -, -, grows⟩ := raiseEvent_flash (s := { s with time := { s.time with raised := true } }) evTime none 0
      s.time.root
    obtain ⟨-, -, -, -, -, -, time, -⟩ := raiseEventP_units (s := { s with time := { s.time with raised := true } }) evTime 0
      s.time.root
    exact ⟨_, holdoverTimeout_eq hh hr, time, e, code, grows⟩
  case reselect =>
    obtain ⟨⟨root, now, -⟩, -⟩ := followRoot_follows s (chooseRoot s)
    refine ⟨_, rootReselect_eq hh, root, now, fun home => ?_, fun d p away best => ?_⟩
    · rw [followRoot_self home, home]
    · rw [followRoot_found_time away best]
      exact ⟨rfl, rfl, rfl⟩
  case named =>
    obtain ⟨answered, rest⟩ := timeRoot_answers (r := r) hok hi (some n)
    exact ⟨_, timeRoot_named ha (fun k hk => (Option.some.inj hk) ▸ known), answered, rest⟩
  case unknown => exact ⟨_, timeRoot_unknown ha unknown, refuse_all stField hi hok⟩
  case unnamed =>
    obtain ⟨answered, named, -⟩ := timeRoot_answers (r := r) hok hi none
    exact ⟨_, timeRoot_named ha nofun, answered, named⟩

end Sys2Proof.Machine
end

section
/-! PROOFS. What packets, events and a new choice of the time root leave of the ports' links (R258 to R262, R282, R285). -/

namespace Sys2Proof.Machine

section Kept

variable {s t u : State} {x y z : Port}

/-- Port y is port x after work on packets: they come, wait, leave, and are counted; the link stays as it is, and a port that is
down sends nothing. -/
def PortKept (x y : Port) : Prop :=
  y = { x with
    vcs := y.vcs
    seen := y.seen
    off := y.off
    asm := y.asm
    tx := y.tx
    txFlits := y.txFlits
    owner := y.owner
    turn := y.turn
    deficit := y.deficit
    lastIn := y.lastIn
    cnt := y.cnt
    drops := y.drops
    marks := y.marks } ∧
  (x.up = false → y.cnt = x.cnt)

theorem PortKept.refl (x : Port) : PortKept x x := ⟨rfl, fun _ => rfl⟩

theorem PortKept.up (h : PortKept x y) : y.up = x.up := by
  obtain ⟨link, -⟩ := h
  rw [link]

theorem PortKept.trans (h : PortKept x y) (k : PortKept y z) : PortKept x z := by
  have up := h.up
  obtain ⟨link, count⟩ := h
  obtain ⟨link', count'⟩ := k
  exact ⟨by rw [link', link], fun down => (count' (up.trans down)).trans (count down)⟩

/-- Every port of state t is the same port of state s after work on packets. -/
structure PortsKept (s t : State) : Prop where
  port : ∀ q, PortKept (portAt s q) (portAt t q)

theorem PortsKept.refl (s : State) : PortsKept s s := ⟨fun _ => PortKept.refl _⟩

theorem PortsKept.trans (h : PortsKept s t) (k : PortsKept t u) : PortsKept s u :=
  ⟨fun q => (h.port q).trans (k.port q)⟩

theorem portsKept_of_ports (h : t.router.ports = s.router.ports) : PortsKept s t := ⟨fun q => by
  unfold portAt
  rw [h]
  exact PortKept.refl _⟩

theorem PortsKept.after (k : PortsKept t u) (h : t.router.ports = s.router.ports) : PortsKept s u :=
  (portsKept_of_ports h).trans k

theorem portsKept_modPort {p : Nat} {f : Port → Port} (hf : PortKept (portAt s p) (f (portAt s p))) :
    PortsKept s (modPort s p f) := ⟨fun q => by
  have changed : portAt (modPort s p f) q = if q = p ∧ q < s.router.ports.length then f (portAt s q) else portAt s q :=
    getD_modify_le ..
  rw [changed]
  split
  next there => rw [there.1]; exact hf
  next => exact PortKept.refl _⟩

theorem portsKept_foldl {α : Type} {g : State → α → State} (hg : ∀ s a, PortsKept s (g s a)) :
    ∀ (xs : List α) (s : State), PortsKept s (xs.foldl g s)
  | [], s => PortsKept.refl s
  | a :: xs, s => (hg s a).trans (portsKept_foldl hg xs (g s a))

/-! ### Packets that start (R269, R274, R285) -/

theorem portsKept_countHit (hit : Option Nat) : PortsKept s (countHit s hit) := by
  unfold countHit
  split
  · exact PortsKept.refl s
  · refine portsKept_of_ports ?_
    rw [modRouter_router]
    split <;> rfl

theorem portsKept_noteCross (src : Option Nat) (out : Nat) (p : Packet) : PortsKept s (noteCross s src out p) := by
  unfold noteCross
  split
  · exact PortsKept.refl s
  · exact portsKept_of_ports rfl

theorem portsKept_countDrops (p : Nat) (g : Port → List Nat) : PortsKept s (modPort s p (fun x => { x with drops := g x })) :=
  portsKept_modPort ⟨rfl, fun _ => rfl⟩

theorem portsKept_bumpDrop (p i : Nat) : PortsKept s (bumpDrop s p i) := portsKept_countDrops p _

/-- Only a port that is up sends, and counts what it sends. -/
theorem portsKept_sendBy {p : Nat} (up : (portAt s p).up = true) (src : Option Nat) (q : Packet) :
    PortsKept s (sendBy s src p q) := by
  have joined : PortsKept s (modPort s p (fun x => { x with txFlits := x.txFlits ++ packetFlitsOf q })) :=
    portsKept_modPort ⟨rfl, fun _ => rfl⟩
  have sent : PortsKept _ (noteSent (modPort s p (fun x => { x with txFlits := x.txFlits ++ packetFlitsOf q })) p q) :=
    portsKept_modPort ⟨rfl, fun down => by rw [(joined.port p).up, up] at down; cases down⟩
  exact (joined.trans sent).trans (portsKept_noteCross ..)

theorem portKept_turnTo (x : Port) (g src n : Nat) : PortKept x (turnTo x g src n) := by
  unfold turnTo
  dsimp only
  split <;> exact ⟨rfl, fun _ => rfl⟩

theorem portsKept_inject (p : Packet) : PortsKept s (inject s p) := by
  unfold inject
  dsimp only
  have hit := portsKept_countHit (s := s) (chooseHop s p.dest p.via).2
  split
  · exact hit.trans (portsKept_of_ports rfl)
  · exact hit.trans (portsKept_bumpDrop ..)
  next o esc _ =>
    split
    next starts =>
      have up : (portAt s o).up = true := by
        simp only [mayStart, Bool.and_eq_true] at starts
        tauto
      have turned : PortsKept s (modPort (countHit s (chooseHop s p.dest p.via).2) o
          (fun x => turnTo x (vcOf (leaveBy s none p o esc) / 2) 8 (wireBytes (leaveBy s none p o esc)))) :=
        hit.trans (portsKept_modPort (portKept_turnTo ..))
      exact turned.trans (portsKept_sendBy ((turned.port o).up.trans up) ..)
    next => exact hit.trans (portsKept_of_ports rfl)

/-! ### Events, whose records may go to a carrier peer (R192, R281, R388) -/

theorem portsKept_emitSeq (tower : Nat) (d : SrcStream) (p : Packet) : PortsKept s (emitSeq s tower d p) :=
  (portsKept_inject _).after rfl

theorem portsKept_openStream (d c : Nat) : PortsKept s (openStream s d c) := by
  unfold openStream
  split
  · exact PortsKept.refl s
  · exact portsKept_of_ports rfl

theorem portsKept_sendSeq (tower : Nat) (p : Packet) : PortsKept s (sendSeq s tower p) := by
  unfold sendSeq
  dsimp only
  split
  · exact portsKept_openStream ..
  · split
    · exact (portsKept_openStream ..).trans (portsKept_emitSeq ..)
    · exact (portsKept_openStream ..).trans (portsKept_of_ports rfl)

theorem freeBytes_router : ∀ (n : Nat) (s : State), (freeBytes n s).2.router = s.router
  | 0, _ => rfl
  | n + 1, s => freeBytes_router n (drawFree s).2

theorem portsKept_peerWrite (tower mooring : Nat) (dom : Domain) (w a : Nat) (bs : List Byte) (who : PeerFor) :
    PortsKept s (peerWrite s tower mooring dom w a bs who).1 := by
  refine (portsKept_sendSeq ..).after ?_
  show (freeBytes _ (freeBytes _ s).2).2.router.ports = _
  rw [freeBytes_router, freeBytes_router]

theorem portsKept_peerWrites (tower mooring : Nat) (dom : Domain) (w base : Nat) (bs : List Byte) (who : Nat → PeerFor) :
    ∀ (ps : List (Nat × Nat)) (s : State), PortsKept s (peerWrites s tower mooring dom w base bs who ps).1
  | [], s => PortsKept.refl s
  | _ :: ps, _ => (portsKept_peerWrite ..).trans (portsKept_peerWrites tower mooring dom w base bs who ps _)

theorem writeLines_router (a : Nat) (bs : List Byte) : ∀ (ls : List Nat) (s : State), (writeLines s a bs ls).router = s.router
  | [], _ => rfl
  | l :: ls, s => by
    rw [writeLines, writeLines_router a bs ls]
    unfold writeLine
    dsimp only
    split <;> rfl

theorem writeMem_router (a : Nat) (bs : List Byte) : (writeMem s a bs).router = s.router := by
  unfold writeMem
  split
  · rfl
  · exact writeLines_router ..

theorem portsKept_keeperWrite {f addr : Nat} {bs : List Byte} (h : keeperWrite s f addr bs = .ok t) : PortsKept s t := by
  unfold keeperWrite at h
  split at h
  · cases h
  · cases h
    split
    · exact portsKept_of_ports rfl
    · exact portsKept_of_ports (congrArg Router.ports (writeMem_router ..))
  · cases h
    exact portsKept_peerWrites ..
  · split at h
    · cases h
    · split at h
      · cases h
        exact portsKept_of_ports rfl
      · cases h

theorem portsKept_of_work (h : SameWork s t) : PortsKept s t := by
  obtain ⟨-, -, -, -, -, -, -, router, -⟩ := h
  exact portsKept_of_ports (congrArg Router.ports router)

theorem portsKept_ringWrite {f q rec : Nat} (h : ringWrite s f q rec = some t) : PortsKept s t := by
  unfold ringWrite at h
  dsimp only at h
  split at h
  · cases h
  next v written =>
    refine (portsKept_keeperWrite written).trans ?_
    split at h <;> cases h
    · exact (portsKept_of_work (raiseVector_sameWork ..)).after rfl
    · exact portsKept_of_ports rfl

theorem portsKept_drainQueue : ∀ (n : Nat) (s : State) (f q : Nat), PortsKept s (drainQueue n s f q)
  | 0, s, _, _ => PortsKept.refl s
  | n + 1, s, f, q => by
    unfold drainQueue
    dsimp only
    split
    · exact PortsKept.refl s
    · split
      · split
        · exact PortsKept.refl s
        next written =>
          exact (portsKept_ringWrite written).trans ((portsKept_drainQueue n _ f q).after rfl)
      · split
        · exact PortsKept.refl s
        · split
          · exact PortsKept.refl s
          next written =>
            exact (portsKept_ringWrite written).trans ((portsKept_drainQueue n _ f q).after rfl)

theorem portsKept_flushQueue (f q : Nat) : PortsKept s (flushQueue s f q) := by
  unfold flushQueue
  dsimp only
  split
  · exact portsKept_drainQueue ..
  · exact PortsKept.refl s

theorem portsKept_postEventTo (f q : Nat) (e : Event) : PortsKept s (postEventTo s f q e) := by
  unfold postEventTo
  dsimp only
  split
  · exact portsKept_of_ports rfl
  · exact (portsKept_flushQueue ..).after rfl

theorem portsKept_postEvent (f : Nat) (e : Event) : PortsKept s (postEvent s f e) := by
  unfold postEvent
  split
  · exact portsKept_of_ports rfl
  · exact portsKept_foldl (fun _ _ => portsKept_postEventTo ..) _ _

/-- An event of scope P goes to the PF's queues alone. -/
theorem portsKept_raiseEventP (code unit detail : Nat) : PortsKept s (raiseEventP s code unit detail) :=
  (portsKept_postEvent ..).after rfl

/-! ### The time root (R284) -/

theorem portsKept_followRoot (root : Nat) : PortsKept s (followRoot s root) := by
  by_cases home : root = selfNode s
  · rw [followRoot_self home]
    exact portsKept_of_ports rfl
  cases best : bestParent (reporters s root) with
  | none =>
    rw [followRoot_lost home best]
    exact portsKept_of_ports rfl
  | some q =>
    rcases followRoot_found home best with plain | told
    · rw [plain]
      exact portsKept_of_ports rfl
    · rw [told]
      exact (portsKept_raiseEventP ..).after rfl

/-- Module time apart, choosing the root once more leaves the units, and of the ports their links. -/
theorem reconsider_keeps (s : State) :
    PortsKept s (reconsider s) ∧ SameUnits { s with time := (reconsider s).time } (reconsider s) := by
  have follows (root : Nat) : PortsKept s (followRoot s root) ∧
      SameUnits { s with time := (followRoot s root).time } (followRoot s root) :=
    ⟨portsKept_followRoot root, (followRoot_follows s root).2⟩
  unfold reconsider
  split
  · split
    · exact ⟨PortsKept.refl s, SameUnits.refl s⟩
    · exact follows _
  · split
    · exact ⟨portsKept_of_ports rfl, SameUnits.refl _⟩
    · exact follows _

/-! ### What waits and starts (R268 to R271, R274) -/

theorem portsKept_settlePort (p : Nat) : PortsKept s (settlePort s p) := portsKept_modPort ⟨rfl, fun _ => rfl⟩

theorem portsKept_sinkVc (p v : Nat) : PortsKept s (sinkVc s p v) := by
  unfold sinkVc
  dsimp only
  split
  · exact portsKept_settlePort p
  · refine PortsKept.trans (t := modPort _ p _) ?_ (portsKept_settlePort p)
    exact PortsKept.after (portsKept_modPort ⟨rfl, fun _ => rfl⟩) rfl

theorem portsKept_popVc (p v : Nat) : PortsKept s (popVc s p v) :=
  PortsKept.trans (portsKept_modPort ⟨rfl, fun _ => rfl⟩) (portsKept_sinkVc p v)

theorem portsKept_startCut (i out : Nat) (esc : Bool) (q : Packet) : PortsKept s (startCut s i out esc q) := by
  unfold startCut
  split
  · exact PortsKept.refl s
  · refine PortsKept.trans ?_ (portsKept_settlePort i)
    exact PortsKept.trans (portsKept_modPort ⟨rfl, fun _ => rfl⟩) (portsKept_modPort ⟨rfl, fun _ => rfl⟩)

theorem portsKept_startCand {out : Nat} (up : (portAt s out).up = true) (c : Cand) : PortsKept s (startCand s out c) := by
  unfold startCand
  split
  · exact PortsKept.after (portsKept_sendBy (by exact up) ..) rfl
  · split
    · exact portsKept_startCut ..
    · have left := portsKept_popVc (s := s) c.src c.place
      exact left.trans (portsKept_sendBy ((left.port out).up.trans up) ..)

theorem portsKept_serve (out : Nat) : PortsKept s (serve s out) := by
  unfold serve
  dsimp only
  split
  next free =>
    have up : (portAt s out).up = true := by
      simp only [Bool.and_eq_true] at free
      tauto
    split
    · exact PortsKept.refl s
    next g c d _ =>
      have taken : PortsKept s (modPort s out (fun y => { y with turn := g, deficit := d, lastIn := c.src })) :=
        portsKept_modPort ⟨rfl, fun _ => rfl⟩
      exact taken.trans (portsKept_startCand ((taken.port out).up.trans up) c)
  next => exact PortsKept.refl s

theorem portsKept_startAll : PortsKept s (startAll s) := portsKept_foldl (fun _ _ => portsKept_serve _) _ _

/-! ### Routes chosen once more (R274) -/

theorem portsKept_countAgain (port : Nat) (hs : List HeldPacket) : PortsKept s (countAgain s port hs) := by
  refine portsKept_foldl (fun u h => ?_) _ _
  split
  · split
    · exact portsKept_countHit _
    · exact PortsKept.refl u
  · exact PortsKept.refl u

theorem portsKept_rechooseAt (port i : Nat) : PortsKept s (rechooseAt s port i) := by
  unfold rechooseAt
  dsimp only
  split
  · exact PortsKept.refl s
  · exact ((portsKept_countAgain ..).trans (portsKept_modPort ⟨rfl, fun _ => rfl⟩)).trans
      (portsKept_foldl (fun _ _ => portsKept_sinkVc ..) _ _)

theorem portsKept_rechoose (port : Nat) : PortsKept s (rechoose s port) := by
  have inputs : PortsKept s ((List.range 8).foldl (fun s i => rechooseAt s port i) s) :=
    portsKept_foldl (fun _ _ => portsKept_rechooseAt ..) _ _
  unfold rechoose
  generalize (List.range 8).foldl (fun s i => rechooseAt s port i) s = v at inputs
  dsimp only
  split
  · exact inputs
  · have counted := portsKept_countAgain (s := v) port v.router.waiting
    generalize countAgain v port v.router.waiting = w at counted
    exact (inputs.trans counted).trans ((portsKept_countDrops ..).after rfl)

end Kept

end Sys2Proof.Machine
end

section
/-! PROOFS. A link that goes down, and the codewords that arrive by a link and leave by it (R256, R257, R260, R261, R274). -/

namespace Sys2Proof.Machine

section Down

variable {s t u : State} {p : Nat}

/-- A part of a port that a change leaves alone. -/
theorem portAt_modPort_keeps {α : Type} (π : Port → α) {f : Port → Port} (hf : ∀ x, π (f x) = π x) (k : Nat) :
    π (portAt (modPort s p f) k) = π (portAt s k) := by
  have changed : portAt (modPort s p f) k = if k = p ∧ k < s.router.ports.length then f (portAt s k) else portAt s k :=
    getD_modify_le ..
  rw [changed]
  split
  · exact hf _
  · rfl

theorem inv_port (hi : s.Inv) (hp : p < 8) : p < s.router.ports.length := by
  obtain ⟨⟨-, -, -, ports, -⟩, -⟩ := hi
  rwa [ports]

/-- But for port p and what the router delivers, the module is as it was. -/
def OtherParts (s t : State) (p : Nat) : Prop :=
  (∀ q, q ≠ p → portAt t q = portAt s q) ∧ t.lanterns = s.lanterns ∧ t.moorings = s.moorings ∧ t.mem = s.mem ∧
    t.keeper = s.keeper ∧ t.time = s.time

theorem OtherParts.refl (s : State) (p : Nat) : OtherParts s s p := ⟨fun _ _ => rfl, rfl, rfl, rfl, rfl, rfl⟩

theorem OtherParts.trans (h : OtherParts s t p) (k : OtherParts t u p) : OtherParts s u p := by
  obtain ⟨ports, lanterns, moorings, mem, keeper, time⟩ := h
  obtain ⟨ports', lanterns', moorings', mem', keeper', time'⟩ := k
  exact ⟨fun q hq => (ports' q hq).trans (ports q hq), lanterns'.trans lanterns, moorings'.trans moorings, mem'.trans mem,
    keeper'.trans keeper, time'.trans time⟩

theorem otherParts_modPort (f : Port → Port) : OtherParts s (modPort s p f) p :=
  ⟨fun _ hq => portAt_modPort_other _ _ hq, rfl, rfl, rfl, rfl, rfl⟩

/-! ### Going down (R260, R261) -/

/-- The state in which a port is down, before what waits for it is routed anew. -/
def takenDown (s : State) (p : Nat) : State :=
  modPort (loseSending (loseAssembly s p) p) p (fun x => { x with
    up := false
    training := true
    listDue := true
    burst := []
    peerOn := 0
    dist := 255
    cnt := bump x.cnt 7 1 })

theorem linkDown_up (h : (portAt s p).up = true) : linkDown s p = reconsider (rechoose (takenDown s p) p) := if_pos h

theorem linkDown_unlinked (h : (portAt s p).up = false) : linkDown s p = s := if_neg (by simp [h])

theorem loseSending_cnt (k : Nat) : (portAt (loseSending s p) k).cnt = (portAt s k).cnt := by
  refine (portAt_modPort_keeps Port.cnt ?_ k).trans ?_
  · exact fun _ => rfl
  · split
    · rfl
    · refine portAt_modPort_keeps Port.cnt ?_ k
      exact fun _ => rfl

theorem portAt_takenDown (hi : s.Inv) (hp : p < 8) : (portAt (takenDown s p) p).up = false ∧
    (portAt (takenDown s p) p).training = true ∧ (portAt (takenDown s p) p).burst = [] ∧ (portAt (takenDown s p) p).peerOn = 0 ∧
    (portAt (takenDown s p) p).cnt = bump (portAt (loseAssembly s p) p).cnt 7 1 := by
  rw [takenDown, portAt_modPort_same _ _ _ (inv_port (inv_loseSending (inv_loseAssembly hi)) hp)]
  exact ⟨rfl, rfl, rfl, rfl, by rw [loseSending_cnt]⟩

theorem takenDown_units (s : State) (p : Nat) : SameUnits s (takenDown s p) :=
  ((outward_loseAssembly p).trans ((outward_loseSending p).trans (outward_modPort p _))).1

/-- A running link that goes down trains again and counts it (R260); lanterns and moorings stay. -/
theorem linkDown_trains (hi : s.Inv) (hp : p < 8) (up : (portAt s p).up = true) : (portAt (linkDown s p) p).up = false ∧
    (portAt (linkDown s p) p).training = true ∧ (portAt (linkDown s p) p).burst = [] ∧ (portAt (linkDown s p) p).peerOn = 0 ∧
    (portAt (linkDown s p) p).cnt = bump (portAt (loseAssembly s p) p).cnt 7 1 ∧
    (linkDown s p).lanterns = s.lanterns ∧ (linkDown s p).moorings = s.moorings := by
  have taken := portAt_takenDown hi hp
  have units := (takenDown_units s p).trans (outward_rechoose p).1
  have kept : PortsKept (takenDown s p) (rechoose (takenDown s p) p) := portsKept_rechoose p
  rw [linkDown_up up]
  generalize takenDown s p = t at *
  generalize rechoose t p = u at *
  obtain ⟨kept', units'⟩ := reconsider_keeps u
  generalize reconsider u = v at *
  obtain ⟨down, training, burst, peerOn, cnt⟩ := taken
  obtain ⟨link, count⟩ := (kept.trans kept').port p
  obtain ⟨-, -, moorings, lanterns, -⟩ := units
  obtain ⟨-, -, moorings', lanterns', -⟩ := units'
  refine ⟨?_, ?_, ?_, ?_, (count down).trans cnt, lanterns'.trans lanterns, moorings'.trans moorings⟩ <;> rw [link]
  · exact down
  · exact training
  · exact burst
  · exact peerOn

/-! ### A link on which nothing is under way -/

/-- Nothing arrives by a port or leaves by it, and no packet waits for it. -/
def IdlePort (s : State) (p : Nat) : Prop :=
  (portAt s p).asm = none ∧ (portAt s p).owner = none ∧ (portAt s p).txFlits = [] ∧
    (∀ h ∈ s.router.waiting, ∀ e, h.hop ≠ .out p e) ∧
    ∀ q, (∀ h ∈ (portAt s q).vcs.flatten, ∀ e, h.hop ≠ .out p e) ∧
      ∀ a e, (portAt s q).asm = some a → a.fate ≠ .held (.out p e)

theorem routedBy_false {hop : Hop} (h : ∀ e, hop ≠ .out p e) : routedBy p hop = false := by
  cases hop with
  | out o e => exact decide_eq_false (fun same => h e (same ▸ rfl))
  | deliver => rfl
  | drop c => rfl

theorem waitsAt_false {x : Port} (vcs : ∀ h ∈ x.vcs.flatten, ∀ e, h.hop ≠ .out p e)
    (asm : ∀ a e, x.asm = some a → a.fate ≠ .held (.out p e)) : waitsAt x p = false := by
  have none_waits : x.vcs.flatten.any (fun h => routedBy p h.hop) = false :=
    List.any_eq_false.2 (fun h there => by simp [routedBy_false (vcs h there)])
  unfold waitsAt
  rw [none_waits, Bool.false_or]
  split
  next a ha =>
    split
    next hop hf => exact routedBy_false (fun e same => asm a e ha (hf.trans (same ▸ rfl)))
    next => rfl
  next => rfl

theorem rechooseAt_idle {i : Nat} (h : waitsAt (portAt s i) p = false) : rechooseAt s p i = s := by
  unfold rechooseAt
  dsimp only
  rw [h]
  rfl

/-- No route is chosen again where no packet waits for the port. -/
theorem rechoose_idle (ports : ∀ q, waitsAt (portAt s q) p = false) (made : ∀ h ∈ s.router.waiting, ∀ e, h.hop ≠ .out p e) :
    rechoose s p = s := by
  have inputs : (List.range 8).foldl (fun s i => rechooseAt s p i) s = s :=
    List.foldl_fixed' (fun i => rechooseAt_idle (ports i)) _
  have none_waits : s.router.waiting.any (fun h => routedBy p h.hop) = false :=
    List.any_eq_false.2 (fun h there => by simp [routedBy_false (made h there)])
  unfold rechoose
  dsimp only
  rw [inputs, none_waits]
  rfl

theorem loseAssembly_none (h : (portAt s p).asm = none) : loseAssembly s p = s := by
  unfold loseAssembly
  rw [h]

theorem bump_none (l : List Nat) (i : Nat) : bump l i 0 = l := List.modify_id i l

/-- A port taken down, its arrivals and departures apart. -/
def unlinked (x : Port) : Port :=
  { x with
    up := false
    training := true
    listDue := true
    burst := []
    peerOn := 0
    dist := 255
    cnt := bump x.cnt 7 1 }

theorem takenDown_idle (hi : s.Inv) (hp : p < 8) (idle : IdlePort s p) : portAt (takenDown s p) p = unlinked (portAt s p) ∧
    OtherParts s (takenDown s p) p ∧ (takenDown s p).router.waiting = s.router.waiting ∧ (takenDown s p).flash = s.flash ∧
    (takenDown s p).host = s.host := by
  obtain ⟨asm, owner, flits, -⟩ := idle
  have sending : loseSending s p = modPort s p (fun y => { y with txFlits := [], owner := none, drops := bump y.drops 7 0 }) := by
    unfold loseSending
    dsimp only
    rw [owner, flits]
    rfl
  have taken : takenDown s p =
      modPort (modPort s p (fun y => { y with txFlits := [], owner := none, drops := bump y.drops 7 0 })) p unlinked := by
    rw [takenDown, loseAssembly_none asm, sending]
    rfl
  refine ⟨?_, ?_, by rw [taken]; rfl, by rw [taken]; rfl, by rw [taken]; rfl⟩
  · rw [taken, portAt_modPort_same _ _ _ (inv_port (inv_modPort hi) hp), portAt_modPort_same _ _ _ (inv_port hi hp)]
    simp only [unlinked, bump_none, ← owner, ← flits]
  · rw [taken]
    exact (otherParts_modPort _).trans (otherParts_modPort _)

/-- An idle link that goes down leaves all but its port and the choice of the time root as it was. -/
theorem linkDown_idle (hi : s.Inv) (hp : p < 8) (up : (portAt s p).up = true) (idle : IdlePort s p) :
    ∃ u, linkDown s p = reconsider u ∧ portAt u p = unlinked (portAt s p) ∧ OtherParts s u p ∧ u.flash = s.flash ∧
      u.host = s.host := by
  obtain ⟨here, others, waiting, flash, host⟩ := takenDown_idle hi hp idle
  obtain ⟨-, -, -, made, inputs⟩ := idle
  have ports (q : Nat) : waitsAt (portAt (takenDown s p) q) p = false := by
    obtain ⟨vcs, asm⟩ := inputs q
    by_cases same : q = p
    · subst same
      rw [here]
      exact waitsAt_false vcs asm
    · rw [others.1 q same]
      exact waitsAt_false vcs asm
  exact ⟨takenDown s p, by rw [linkDown_up up, rechoose_idle ports (by rw [waiting]; exact made)], here, others, flash, host⟩

end Down

end Sys2Proof.Machine
end

section
/-! PROOFS. The codewords that arrive by a running link (R256, R257, R260, R263, R266, R274). -/

namespace Sys2Proof.Machine

section Take

variable {s : State} {p : Nat} {c : Codeword} {b : List Byte}

/-! ### The flits of a codeword -/

theorem takeFlit_idle (h : (portAt s p).asm = none) (f : List Byte) : takeFlit s p (false, f) = s := by
  unfold takeFlit
  simp only [h, Bool.false_eq_true, if_false]

theorem takeFlits_idle (h : (portAt s p).asm = none) {fs : List (Bool × List Byte)} (idle : ∀ f ∈ fs, f.1 = false) :
    fs.foldl (fun s f => takeFlit s p f) s = s := by
  induction fs with
  | nil => rfl
  | cons f fs ih =>
    obtain ⟨start, bytes⟩ := f
    obtain rfl : start = false := idle _ (List.mem_cons_self ..)
    rw [List.foldl_cons, takeFlit_idle h]
    exact ih (fun f hf => idle f (List.mem_cons_of_mem _ hf))

/-- A codeword in which no packet starts. -/
theorem packetFlits_idle (h : c.sop = 0) (m : Nat) : ∀ f ∈ packetFlits m c, f.1 = false := by
  intro f hf
  obtain ⟨g, -, rfl⟩ := List.mem_map.1 hf
  simp [h]

/-- A codeword in which one packet starts, with its first flit. -/
theorem packetFlits_first (h : c.sop = 1) (first : c.flits[0]? = some b) (m : Nat) :
    ∃ rest, packetFlits m c = (true, b) :: rest ∧ ∀ f ∈ rest, f.1 = false := by
  obtain ⟨fs, flits⟩ : ∃ fs, c.flits = b :: fs := by
    cases hc : c.flits with
    | nil => simp [hc] at first
    | cons a fs => exact ⟨fs, by simpa [hc] using first⟩
  refine ⟨(((fs.zipIdx 1).filter (fun f => !(decide (m = 4) && decide (f.2 = 9)))).map (fun f => (c.sop.getLsbD f.2, f.1))),
    by simp [packetFlits, flits, h], fun f hf => ?_⟩
  obtain ⟨g, hg, rfl⟩ := List.mem_map.1 hf
  have later : 1 ≤ g.2 := List.le_snd_of_mem_zipIdx (List.mem_of_mem_filter hg)
  simp only [h]
  show (1#10).getLsbD g.2 = false
  rw [BitVec.getLsbD_one]
  simp
  omega

/-! ### One packet in one flit, for this module -/

theorem headerDrop_payload {k : Packet} {bs : List Byte} {n : Nat} (h : bs.length = k.payload.length) :
    headerDrop { k with payload := bs, trailer := n } = headerDrop k := by
  unfold headerDrop headerCrc headerNat
  simp only [h]

/-- The length of a packet's payload that one flit holds whole. -/
theorem length_oneFlit (len : b.length = 64) (need : needOf b = 1) : (packetOfBytes b).payload.length = lenOf b := by
  have short : lenOf b ≤ 32 := by
    unfold needOf flitsOf at need
    omega
  show ((b.drop 32).take (lenOf b)).length = lenOf b
  rw [List.length_take, List.length_drop, len]
  omega

theorem headerDrop_headOf (len : b.length = 64) (need : needOf b = 1) : headerDrop (headOf b) = headerDrop (packetOfBytes b) :=
  headerDrop_payload (k := packetOfBytes b) (by rw [length_oneFlit len need, List.length_replicate])

theorem vcOf_packetOfBytes (b : List Byte) : vcOf (packetOfBytes b) < 8 := by
  have cls : (packetOfBytes b).cls < 4 := Nat.mod_lt _ (by decide)
  unfold vcOf b2n
  split <;> split <;> omega

theorem takeIn_passes {k : Packet} (passes : headerDrop k = none) (hops : 2 ≤ k.hops) :
    takeIn s p k = (bumpPort (bumpPort s p 0 1) p 1 k.payload.length, some (sealHeader { k with hops := k.hops - 1 })) := by
  unfold takeIn
  dsimp only
  rw [passes]
  exact if_neg (by omega)

theorem chooseHop_here {dest : Nat} (here : basePort s dest = none) (via : Option Nat) :
    chooseHop s dest via = (.deliver, none) := by
  unfold chooseHop
  rw [here]
  rfl

/-- An empty VC has room for a flit. -/
theorem roomFor_empty {x : Port} {v : Nat} (empty : x.vcs.getD v [] = []) (asm : x.asm = none) : ∃ k, roomFor x v 1 = some k := by
  have occ : vcFlits x v = 0 := by
    unfold vcFlits asmFlits
    rw [empty, asm]
    rfl
  unfold roomFor
  dsimp only
  rw [occ]
  exact ⟨_, if_pos (by omega)⟩

/-! ### Changes of one port, one after another -/

theorem modPort_modPort (f g : Port → Port) : modPort (modPort s p f) p g = modPort s p (g ∘ f) := by
  unfold modPort modRouter
  simp only [List.modify_modify_eq]

theorem length_modPort (f : Port → Port) : (modPort s p f).router.ports.length = s.router.ports.length := List.length_modify ..

/-- What the router delivers. -/
def delivered (s : State) (ks : List Packet) : State := modRouter s (fun r => { r with arrived := r.arrived ++ ks })

theorem modPort_delivered (f g : Port → Port) (ks : List Packet) :
    modPort (delivered (modPort s p f) ks) p g = modPort (delivered s ks) p (g ∘ f) :=
  modPort_modPort (s := delivered s ks) f g

/-- The head of a VC whose route ends here, and that is alone in it, is delivered. -/
theorem sinkVc_delivers {v : Nat} {h : HeldPacket} (alone : (portAt s p).vcs.getD v [] = [h]) (ends : h.hop = .deliver) :
    ∃ g : Port → Port, sinkVc s p v = modPort (delivered s [h.pkt]) p g ∧ ∀ x, (g x).asm = x.asm := by
  have sunk : sinkVc s p v = settlePort (modPort (delivered s [h.pkt]) p (fun x => { x with vcs := setAt x.vcs v [] })) p := by
    unfold sinkVc
    dsimp only
    rw [alone]
    simp [ends, delivered]
  refine ⟨_, sunk.trans (modPort_modPort ..), fun x => ?_⟩
  rfl

/-- The header of a packet for this module has been counted, and the packet takes room in its VC. -/
theorem openAssembly_held {t : State} {q : Packet} {k : Nat} (taken : takeIn s p (headOf b) = (t, some q))
    (here : basePort t q.dest = none) (room : roomFor (portAt t p) (vcOf q) 1 = some k) :
    openAssembly s p b =
      settlePort (modPort t p (fun x => { x with asm := some ⟨[b], needOf b, vcOf q, k, false, .held .deliver⟩ })) p := by
  unfold openAssembly
  dsimp only
  rw [taken]
  dsimp only
  rw [chooseHop_here here]
  dsimp only [countHit]
  rw [room]

/-- The packet in arrival whose first flit is b, on its way to this module. -/
def arriving (b : List Byte) (skid : Nat) : Assembly := ⟨[b], needOf b, vcOf (packetOfBytes b), skid, false, .held .deliver⟩

theorem openAssembly_delivers (inside : p < s.router.ports.length) (len : b.length = 64) (need : needOf b = 1)
    (passes : headerDrop (packetOfBytes b) = none) (hops : 2 ≤ (packetOfBytes b).hops)
    (here : basePort s (packetOfBytes b).dest = none) (asm : (portAt s p).asm = none)
    (empty : (portAt s p).vcs.getD (vcOf (packetOfBytes b)) [] = []) :
    ∃ (f : Port → Port) (k : Nat), openAssembly s p b = modPort s p f ∧
      ∀ x, (f x).asm = some (arriving b k) ∧ (f x).vcs = x.vcs := by
  have taken := takeIn_passes (s := s) (p := p) ((headerDrop_headOf len need).trans passes) hops
  rw [bumpPort, bumpPort, modPort_modPort] at taken
  obtain ⟨k, room⟩ := roomFor_empty (v := vcOf (packetOfBytes b)) (x := portAt (modPort s p
    ((fun x => { x with cnt := bump x.cnt 1 (headOf b).payload.length }) ∘ fun x => { x with cnt := bump x.cnt 0 1 })) p)
    (by rw [portAt_modPort_same _ _ _ inside]; exact empty) (by rw [portAt_modPort_same _ _ _ inside]; exact asm)
  refine ⟨_, k, (openAssembly_held taken here room).trans ((modPort_modPort ..).trans (modPort_modPort ..)), fun x => ⟨?_, ?_⟩⟩
  · rfl
  · rfl

/-- A packet for this module that comes into an empty VC is delivered at once. -/
theorem holdPacket_delivers {q : Packet} {skid : Nat} (inside : p < s.router.ports.length)
    (vc : vcOf q < (portAt s p).vcs.length) (empty : (portAt s p).vcs.getD (vcOf q) [] = []) :
    ∃ g : Port → Port, holdPacket s p q .deliver false skid = modPort (delivered s [q]) p g ∧ ∀ x, (g x).asm = x.asm := by
  let joined (x : Port) : Port := { x with
    vcs := x.vcs.modify (vcOf q) (fun l => l ++ [⟨q, .deliver, false, skid, x.seen⟩])
    seen := x.seen + 1 }
  have alone : (portAt (modPort s p joined) p).vcs.getD (vcOf q) [] = [⟨q, .deliver, false, skid, (portAt s p).seen⟩] := by
    rw [portAt_modPort_same _ _ _ inside]
    show ((portAt s p).vcs.modify (vcOf q) _).getD (vcOf q) [] = _
    rw [getD_modify_same _ _ _ _ vc, empty]
    rfl
  obtain ⟨g, sunk, keeps⟩ := sinkVc_delivers alone rfl
  exact ⟨g ∘ joined, sunk.trans (modPort_delivered ..), fun x => keeps (joined x)⟩

/-- The packet that one flit spells, as this module takes it: one hop older. -/
def hopped (b : List Byte) : Packet := sealHeader { packetOfBytes b with hops := (packetOfBytes b).hops - 1 }

theorem closeAssembly_delivers {k : Nat} (inside : p < s.router.ports.length) (len : (portAt s p).vcs.length = 8)
    (empty : (portAt s p).vcs.getD (vcOf (packetOfBytes b)) [] = []) :
    ∃ g : Port → Port, closeAssembly s p (arriving b k) = modPort (delivered s [hopped b]) p g ∧ ∀ x, (g x).asm = none := by
  let ended (x : Port) : Port := { x with asm := none }
  have closed : closeAssembly s p (arriving b k) = holdPacket (modPort s p ended) p (hopped b) .deliver false k := by
    unfold closeAssembly
    dsimp only [arriving]
    rw [show [b].flatten = b from List.append_nil b]
    rfl
  have here : portAt (modPort s p ended) p = ended (portAt s p) := portAt_modPort_same _ _ _ inside
  obtain ⟨g, held, keeps⟩ := holdPacket_delivers (s := modPort s p ended) (p := p) (q := hopped b) (skid := k)
    (by rw [length_modPort]; exact inside)
    (by rw [here]; exact len ▸ vcOf_packetOfBytes b) (by rw [here]; exact empty)
  exact ⟨g ∘ ended, closed.trans (held.trans (modPort_delivered ..)), fun x => keeps (ended x)⟩

/-- A packet in one flit that is for this module is delivered; it leaves nothing in arrival. -/
theorem takeFlit_delivers (inside : p < s.router.ports.length) (len : b.length = 64) (need : needOf b = 1)
    (passes : headerDrop (packetOfBytes b) = none) (hops : 2 ≤ (packetOfBytes b).hops)
    (here : basePort s (packetOfBytes b).dest = none) (asm : (portAt s p).asm = none) (vcs : (portAt s p).vcs.length = 8)
    (empty : (portAt s p).vcs.getD (vcOf (packetOfBytes b)) [] = []) :
    ∃ g : Port → Port, takeFlit s p (true, b) = modPort (delivered s [hopped b]) p g ∧ ∀ x, (g x).asm = none := by
  obtain ⟨f, k, opened, keeps⟩ := openAssembly_delivers inside len need passes hops here asm empty
  have port : portAt (modPort s p f) p = f (portAt s p) := portAt_modPort_same _ _ _ inside
  obtain ⟨inHand, sameVcs⟩ := keeps (portAt s p)
  obtain ⟨g, closed, ends⟩ := closeAssembly_delivers (s := modPort s p f) (p := p) (b := b) (k := k)
    (by rw [length_modPort]; exact inside) (by rw [port, sameVcs]; exact vcs)
    (by rw [port, sameVcs]; exact empty)
  have taken : takeFlit s p (true, b) = closeAssembly (modPort s p f) p (arriving b k) := by
    unfold takeFlit
    simp only [if_true, loseAssembly_none asm, opened, port, inHand]
    exact if_neg (by simp [arriving, need])
  exact ⟨g ∘ f, taken.trans (closed.trans (modPort_delivered ..)), fun x => ends (f x)⟩

/-! ### Codewords -/

/-- The port of a codeword whose turn it is goes on to the next. -/
def nextWord (s : State) (p : Nat) : State :=
  modPort s p (fun x => { x with cwseq := (x.cwseq + 1) % 16, cwmod := (x.cwmod + 1) % 5 })

/-- A codeword's corrections are counted. -/
def corrected (s : State) (p : Nat) (c : Codeword) : State :=
  modPort s p (fun x => { x with
    cnt := bump x.cnt 4 (b2n (decide (0 < sumNat c.corrected)))
    symbols := x.symbols.zipIdx.map (fun q => q.1 + c.corrected.getD q.2 0) })

/-- An uncorrectable codeword is counted, and its time kept. -/
def uncorrected (s : State) (p : Nat) : State :=
  modPort s p (fun x => { x with cnt := bump x.cnt 5 1, burst := (nowNs s :: (portAt s p).burst).take 8 })

theorem takeCodeword_outOfTurn (ok : c.ok = true) (turn : c.cwseq ≠ (portAt s p).cwseq) : takeCodeword s p c = linkDown s p := by
  unfold takeCodeword
  simp only [ok, if_true, if_pos turn]

theorem takeCodeword_inTurn (ok : c.ok = true) (turn : c.cwseq = (portAt s p).cwseq) : takeCodeword s p c =
    nextWord ((packetFlits (portAt s p).cwmod c).foldl (fun s f => takeFlit s p f) (corrected s p c)) p := by
  unfold takeCodeword
  simp only [ok, if_true, if_neg (not_not.2 turn)]
  rfl

theorem takeCodeword_uncorrectable (bad : c.ok = false) : takeCodeword s p c =
    if burstFull ((nowNs s :: (portAt s p).burst).take 8) then linkDown (nextWord (loseAssembly (uncorrected s p) p) p) p
    else nextWord (loseAssembly (uncorrected s p) p) p := by
  unfold takeCodeword
  simp only [bad, Bool.false_eq_true, if_false]
  rfl

end Take

end Sys2Proof.Machine
end

section
/-! PROOFS. What a codeword that has arrived, or that leaves, does to the module (R256, R257, R260, R282). -/

namespace Sys2Proof.Machine

section Words

variable {s : State} {p : Nat} {c : Codeword} {b : List Byte}

/-- A correction is counted when some lane has one. -/
theorem b2n_fixed (l : List Nat) (cnt : List Nat) :
    bump cnt 4 (b2n (decide (0 < sumNat l))) = if l.all (· == 0) then bump cnt 4 0 else bump cnt 4 1 := by
  by_cases none_fixed : l.all (· == 0) = true
  · have zero : sumNat l = 0 := by
      rw [sumNat_eq_sum, List.sum_eq_zero_iff]
      simpa using none_fixed
    rw [if_pos none_fixed, zero]
    rfl
  · have pos : 0 < sumNat l := by
      rw [sumNat_eq_sum, Nat.pos_iff_ne_zero, ne_eq, List.sum_eq_zero_iff]
      simpa using none_fixed
    rw [if_neg none_fixed, decide_eq_true pos]
    rfl

/-- A codeword in turn in which no packet starts, on a port at which none is in arrival. -/
theorem takeCodeword_noStart (inside : p < s.router.ports.length) (asm : (portAt s p).asm = none) (ok : c.ok = true)
    (turn : c.cwseq = (portAt s p).cwseq) (none_starts : c.sop = 0) :
    takeCodeword s p c = nextWord (corrected s p c) p := by
  have idle : (portAt (corrected s p c) p).asm = none := by
    rw [corrected, portAt_modPort_same _ _ _ inside]
    exact asm
  rw [takeCodeword_inTurn ok turn, takeFlits_idle idle (packetFlits_idle none_starts _)]

theorem portAt_nextWord {t : State} (inside : p < t.router.ports.length) : portAt (nextWord t p) p = { portAt t p with
    cwseq := ((portAt t p).cwseq + 1) % 16
    cwmod := ((portAt t p).cwmod + 1) % 5 } := portAt_modPort_same _ _ _ inside

/-- A codeword in turn that brings one packet, whole in its first flit and for this module. -/
theorem takeCodeword_delivers (inside : p < s.router.ports.length) (asm : (portAt s p).asm = none) (ok : c.ok = true)
    (turn : c.cwseq = (portAt s p).cwseq) (start : c.sop = 1) (first : c.flits[0]? = some b) (len : b.length = 64)
    (need : needOf b = 1) (passes : headerDrop (packetOfBytes b) = none) (hops : 2 ≤ (packetOfBytes b).hops)
    (here : basePort s (packetOfBytes b).dest = none) (vcs : (portAt s p).vcs.length = 8)
    (empty : (portAt s p).vcs.getD (vcOf (packetOfBytes b)) [] = []) :
    (takeCodeword s p c).router.arrived = s.router.arrived ++ [hopped b] ∧ OtherParts s (takeCodeword s p c) p ∧
      (portAt (takeCodeword s p c) p).asm = none := by
  obtain ⟨rest, flits, idle⟩ := packetFlits_first start first (portAt s p).cwmod
  have port : portAt (corrected s p c) p = { portAt s p with
      cnt := bump (portAt s p).cnt 4 (b2n (decide (0 < sumNat c.corrected)))
      symbols := (portAt s p).symbols.zipIdx.map (fun q => q.1 + c.corrected.getD q.2 0) } := portAt_modPort_same _ _ _ inside
  have inside' : p < (corrected s p c).router.ports.length := by rw [corrected, length_modPort]; exact inside
  obtain ⟨g, taken, ends⟩ := takeFlit_delivers inside' len need passes hops here (by rw [port]; exact asm)
    (by rw [port]; exact vcs) (by rw [port]; exact empty)
  have inside'' : p < (modPort (delivered (corrected s p c) [hopped b]) p g).router.ports.length := by
    rw [length_modPort]
    exact inside'
  have asm' : (portAt (modPort (delivered (corrected s p c) [hopped b]) p g) p).asm = none := by
    rw [portAt_modPort_same _ _ _ (show p < (delivered (corrected s p c) [hopped b]).router.ports.length from inside')]
    exact ends _
  rw [takeCodeword_inTurn ok turn, flits, List.foldl_cons, taken, takeFlits_idle asm' idle]
  refine ⟨rfl, ?_, by rw [portAt_nextWord inside'']; exact asm'⟩
  exact (otherParts_modPort _).trans ((show OtherParts _ _ p from ⟨fun _ _ => rfl, rfl, rfl, rfl, rfl, rfl⟩).trans
    ((otherParts_modPort g).trans (otherParts_modPort _)))

/-- The state after an uncorrectable codeword while no packet is in arrival. -/
theorem uncorrectable_next (inside : p < s.router.ports.length) (asm : (portAt s p).asm = none) :
    loseAssembly (uncorrected s p) p = uncorrected s p := by
  refine loseAssembly_none ?_
  rw [uncorrected, portAt_modPort_same _ _ _ inside]
  exact asm

theorem portAt_uncorrected (inside : p < s.router.ports.length) : portAt (nextWord (uncorrected s p) p) p = { portAt s p with
    cwseq := ((portAt s p).cwseq + 1) % 16
    cwmod := ((portAt s p).cwmod + 1) % 5
    cnt := bump (portAt s p).cnt 5 1
    burst := (nowNs s :: (portAt s p).burst).take 8 } := by
  rw [portAt_nextWord (by rw [uncorrected, length_modPort]; exact inside), uncorrected, portAt_modPort_same _ _ _ inside]

/-- An uncorrectable codeword that is not the eighth is dropped and counted (R260). -/
theorem takeCodeword_dropped (inside : p < s.router.ports.length) (asm : (portAt s p).asm = none) (bad : c.ok = false)
    (few : (portAt s p).burst.length < 7) : takeCodeword s p c = nextWord (uncorrected s p) p := by
  have short : burstFull ((nowNs s :: (portAt s p).burst).take 8) = false := by
    simp [burstFull]
    omega
  rw [takeCodeword_uncorrectable bad, uncorrectable_next inside asm, short]
  rfl

/-- The eighth uncorrectable codeword within 1 ms takes the link down (R260). -/
theorem takeCodeword_eighth (inside : p < s.router.ports.length) (asm : (portAt s p).asm = none) (bad : c.ok = false)
    (seven : 7 ≤ (portAt s p).burst.length) (soon : nowNs s < (portAt s p).burst.getD 6 0 + 1000000) :
    takeCodeword s p c = linkDown (nextWord (uncorrected s p) p) p := by
  have full : burstFull ((nowNs s :: (portAt s p).burst).take 8) = true := by
    simp [burstFull]
    exact ⟨by omega, by simpa using soon⟩
  rw [takeCodeword_uncorrectable bad, uncorrectable_next inside asm, full]
  rfl

/-- A codeword leaves with the flits that wait, every fifth with a control flit in its last place. -/
theorem sendCodeword_free (inside : p < s.router.ports.length) (owner : (portAt s p).owner = none) :
    let x := portAt s p
    let y := portAt (sendCodeword s p) p
    y.txWords = x.txWords + 1 ∧ y.txFlits = x.txFlits.drop (if x.txWords % 5 = 4 then 9 else 10) ∧
      y.txCseq = (if x.txWords % 5 = 4 then (x.txCseq + 1) % 2 ^ 32 else x.txCseq) ∧
      y.txTimes = (if x.txWords % 5 = 4 then ((x.txCseq, s.time.now) :: x.txTimes).take 64 else x.txTimes) ∧
      OtherParts s (sendCodeword s p) p := by
  unfold sendCodeword
  simp only [owner, Option.isSome_none, Bool.false_and, Bool.false_eq_true, if_false, portAt_modPort_same _ _ _ inside, decide_eq_true_eq]
  exact ⟨trivial, trivial, trivial, trivial, otherParts_modPort _⟩

end Words

end Sys2Proof.Machine
end

section
/-! PROOFS. Control flits and the training of links (R258, R259, R262, R282). -/

namespace Sys2Proof.Machine

section Control

/-! ### The bytes of a control flit (R262) -/

theorem leAt_skip (as bs : List Byte) {o : Nat} (n : Nat) (h : as.length ≤ o) : leAt (as ++ bs) o n = leAt bs (o - as.length) n := by
  unfold leAt
  rw [List.drop_append, List.drop_eq_nil_of_le h, List.nil_append]

theorem leAt_tail (b : Byte) (bs : List Byte) {o : Nat} (n : Nat) (h : 0 < o) : leAt (b :: bs) o n = leAt bs (o - 1) n :=
  leAt_skip [b] bs n h

theorem leAt_natLE (n v : Nat) (bs : List Byte) : leAt (natLE n v ++ bs) 0 n = v % 256 ^ n := by
  unfold leAt
  rw [List.drop_zero, List.take_left' (natLE_length n v), leNat_natLE]

theorem controlBytes_length (f : ControlFlit) : (controlBytes f).length = 64 := by
  simp [controlBytes]

/-- The fields of a control flit, as far as they fit, are the ones its bytes spell. -/
theorem controlOfBytes_controlBytes (f : ControlFlit) : controlOfBytes (controlBytes f) =
    { on := f.on
      cseq := f.cseq % 256 ^ 4
      tx := f.tx / 65536 % 256 ^ 8 * 65536 + f.tx % 65536 % 256 ^ 2
      ecseq := f.ecseq % 256 ^ 4
      erx := f.erx / 65536 % 256 ^ 8 * 65536 + f.erx % 65536 % 256 ^ 2
      dist := f.dist % 256 ^ 1
      root := f.root % 2 ^ 18 % 256 ^ 4 % 2 ^ 18 } := by
  unfold controlOfBytes controlBytes
  simp only [List.append_assoc]
  simp [leAt_skip, leAt_tail, leAt_natLE]

theorem controlOfBytes_self {f : ControlFlit} (cseq : f.cseq < 2 ^ 32) (tx : f.tx < 2 ^ 80) (ecseq : f.ecseq < 2 ^ 32)
    (erx : f.erx < 2 ^ 80) (dist : f.dist < 256) (root : f.root < 2 ^ 18) : controlOfBytes (controlBytes f) = f := by
  obtain ⟨on, cs, t, e, er, d, r⟩ := f
  rw [controlOfBytes_controlBytes]
  simp only [ControlFlit.mk.injEq, true_and] at *
  omega

/-! ### A control flit arrives (R262, R270, R282) -/

/-- The port that has taken a control flit. -/
def heardFlit (f : ControlFlit) (arrival : Nat) (x : Port) : Port :=
  let y := { x with
    peerOn := f.on
    rxCseq := f.cseq
    rxAt := arrival
    dist := f.dist
    root := f.root }
  match x.txTimes.find? (fun q => q.1 == f.ecseq) with
  | none => y
  | some q =>
    let e := exchange q.2 f.erx f.tx arrival
    let delays := (e.1 :: y.delays).take 64
    { y with
      delays := delays
      rtt := roundTrip delays
      offsets := (e.2 :: y.offsets).take 64 }

theorem heardFlit_fields (f : ControlFlit) (a : Nat) (x : Port) : (heardFlit f a x).peerOn = f.on ∧ (heardFlit f a x).rxCseq = f.cseq ∧
    (heardFlit f a x).rxAt = a ∧ (heardFlit f a x).dist = f.dist ∧ (heardFlit f a x).root = f.root := by
  unfold heardFlit
  dsimp only
  split <;> exact ⟨rfl, rfl, rfl, rfl, rfl⟩

/-- The exchange that a control flit answers joins the link delays and the offsets. -/
theorem heardFlit_exchange {f : ControlFlit} {x : Port} {q : Nat × Nat} (h : x.txTimes.find? (fun e => e.1 == f.ecseq) = some q)
    (a : Nat) : (heardFlit f a x).delays.head? = some ((((a : Int) - q.2) - (f.tx - f.erx)) / 2) ∧
    (heardFlit f a x).offsets.head? = some (((f.erx - (q.2 : Int)) + (f.tx - a)) / 2) := by
  unfold heardFlit
  dsimp only
  rw [h]
  exact ⟨rfl, rfl⟩

variable {s : State} {p : Nat}

theorem exec_controlFlit (up : (portAt s p).up = true) (f : ControlFlit) (a : Nat) :
    exec (.controlFlit p f a) s = .next (startAll (reconsider (modPort s p (heardFlit f a)))) := by
  show execControlFlit p f a s = _
  unfold execControlFlit
  rw [up]
  rfl

/-- What a control flit tells stays in the port; the choice of the root and the packets that start leave it. -/
theorem controlFlit_heard (inside : p < s.router.ports.length) (up : (portAt s p).up = true) (f : ControlFlit) (a : Nat) :
    ∃ t, exec (.controlFlit p f a) s = .next t ∧ PortKept (heardFlit f a (portAt s p)) (portAt t p) ∧ t.moorings = s.moorings ∧
      t.lanterns = s.lanterns := by
  obtain ⟨kept, -, -, moorings, lanterns, -⟩ := reconsider_keeps (modPort s p (heardFlit f a))
  obtain ⟨-, -, moorings', lanterns', -⟩ := (outward_startAll (s := reconsider (modPort s p (heardFlit f a)))).1
  refine ⟨_, exec_controlFlit up f a, ?_, moorings'.trans moorings, lanterns'.trans lanterns⟩
  have port := (kept.trans portsKept_startAll).port p
  rwa [portAt_modPort_same _ _ _ inside] at port

/-! ### Training (R259) -/

theorem exec_trainingDone_idle (h : (portAt s p).training = false) (e : LinkTrain) :
    exec (.linkTrainingDone p e) s = .next s := by
  show execLinkTrainingDone p e s = _
  unfold execLinkTrainingDone
  rw [h]
  rfl

theorem exec_trainingDone (h : (portAt s p).training = true) (e : LinkTrain) :
    exec (.linkTrainingDone p e) s = .next (trainPort s p e) := by
  show execLinkTrainingDone p e s = _
  unfold execLinkTrainingDone
  rw [h]
  rfl

/-- A training that finds no width and rate leaves the link down. -/
theorem trainPort_none {e : LinkTrain} (held : (portAt s p).heldBy = 0) (none_fits : trainResult e = none) :
    trainPort s p e = modPort s p (fun x => { x with up := false, training := false, cnt := bump x.cnt 6 1 }) := by
  unfold trainPort
  simp only [held, ne_eq, not_true_eq_false, if_false, none_fits]

/-- The port whose training has ended at a width and rate. -/
def trained (x : Port) (e : LinkTrain) (lanes first rate : Nat) : Port :=
  { x with
    up := true
    training := false
    lanes := lanes
    firstLane := first
    rate := rate
    rtt := rttNs e
    peerOn := 0xFF#8
    cwseq := 0
    cwmod := 0
    burst := []
    asm := none
    listDue := true
    marks := (List.range 8).map (vcFlits x)
    txTimes := []
    delays := trainDelays e
    offsets := []
    txFlits := []
    owner := none
    txWords := 0
    turn := 0
    deficit := List.replicate 4 0
    lastIn := 0
    cnt := bump x.cnt 6 1 }

theorem trainPort_some {e : LinkTrain} {lanes first rate : Nat} (held : (portAt s p).heldBy = 0)
    (fits : trainResult e = some (lanes, first, rate)) : trainPort s p e = startAll (
      if lanes < 16 ∨ rate < 224 then
        raiseEventP (modPort s p (fun x => trained x e lanes first rate)) evLink p (linkDetail 1 lanes rate)
      else modPort s p (fun x => trained x e lanes first rate)) := by
  unfold trainPort
  simp only [held, ne_eq, not_true_eq_false, if_false, fits]
  rfl

/-- A link that has trained keeps its width and rate while its event is raised and packets start; lanterns and moorings stay. -/
theorem trainPort_keeps {e : LinkTrain} {lanes first rate : Nat} (inside : p < s.router.ports.length) (held : (portAt s p).heldBy = 0)
    (fits : trainResult e = some (lanes, first, rate)) : PortKept (trained (portAt s p) e lanes first rate) (portAt (trainPort s p e) p) ∧
      (trainPort s p e).lanterns = s.lanterns ∧ (trainPort s p e).moorings = s.moorings := by
  have raised : PortsKept (modPort s p (fun x => trained x e lanes first rate)) (trainPort s p e) ∧
      SameUnits (modPort s p (fun x => trained x e lanes first rate)) (trainPort s p e) := by
    rw [trainPort_some held fits]
    split
    · exact ⟨(portsKept_raiseEventP ..).trans portsKept_startAll, (raiseEventP_units ..).trans outward_startAll.1⟩
    · exact ⟨portsKept_startAll, outward_startAll.1⟩
  obtain ⟨kept, -, -, moorings, lanterns, -⟩ := raised
  have port := kept.port p
  rw [portAt_modPort_same _ _ _ inside] at port
  exact ⟨port, lanterns, moorings⟩

/-- The training of a port ends with its link up or not, at a width and rate. -/
def TrainingEnds (s : State) (p : Nat) (e : LinkTrain) (up : Bool) (lanes rate : Nat) : Prop :=
  ∃ t, exec (.linkTrainingDone p e) s = .next t ∧ (portAt t p).training = false ∧ (portAt t p).up = up ∧
    (up = true → (portAt t p).lanes = lanes ∧ (portAt t p).rate = rate ∧ (portAt t p).cwseq = 0 ∧
      (portAt t p).rtt = rttNs e ∧ (portAt t p).peerOn = 0xFF) ∧ t.lanterns = s.lanterns ∧ t.moorings = s.moorings

theorem trainingEnds_up {e : LinkTrain} {lanes first rate : Nat} (inside : p < s.router.ports.length)
    (training : (portAt s p).training = true) (held : (portAt s p).heldBy = 0) (fits : trainResult e = some (lanes, first, rate)) :
    TrainingEnds s p e true lanes rate := by
  obtain ⟨⟨link, -⟩, lanterns, moorings⟩ := trainPort_keeps inside held fits
  refine ⟨_, exec_trainingDone training e, ?_, ?_, fun _ => ⟨?_, ?_, ?_, ?_, ?_⟩, lanterns, moorings⟩ <;> rw [link] <;> rfl

theorem trainingEnds_down {e : LinkTrain} (inside : p < s.router.ports.length) (training : (portAt s p).training = true)
    (held : (portAt s p).heldBy = 0) (none_fits : trainResult e = none) (lanes rate : Nat) : TrainingEnds s p e false lanes rate := by
  have down := trainPort_none held none_fits
  refine ⟨_, exec_trainingDone training e, ?_, ?_, fun up => Bool.noConfusion up, ?_, ?_⟩ <;> rw [down]
  · rw [portAt_modPort_same _ _ _ inside]
  · rw [portAt_modPort_same _ _ _ inside]
  · rfl
  · rfl

/-! ### The round trip and the lanes (R259) -/

theorem tripExceeds_iff (e : LinkTrain) (ns : Nat) : tripExceeds e ns = true ↔ (65536 * (ns * (e.exchanges.take 64).length : Nat) : Int) <
    (e.exchanges.take 64).foldl (fun n x => n + (((x.t4 : Int) - x.t1) - ((x.t3 : Int) - x.t2))) 0 := decide_eq_true_iff

/-- A round trip within one limit is within a wider one. -/
theorem tripExceeds_wider {e : LinkTrain} {near far : Nat} (wider : near ≤ far) (h : tripExceeds e near = false) :
    tripExceeds e far = false := by
  rw [Bool.eq_false_iff, ne_eq, tripExceeds_iff] at h ⊢
  have limits : (65536 * (near * (e.exchanges.take 64).length : Nat) : Int) ≤ (65536 * (far * (e.exchanges.take 64).length : Nat) : Int) := by
    have := Nat.mul_le_mul_right (e.exchanges.take 64).length wider
    omega
  omega

theorem trainResult_near {e : LinkTrain} (h : tripExceeds e 200 = false) : trainResult e = trainAt e 224 := by
  simp [trainResult, h, tripExceeds_wider (show 200 ≤ 400 by decide) h]

theorem trainResult_middle {e : LinkTrain} (h : tripExceeds e 200 = true) (k : tripExceeds e 400 = false) :
    trainResult e = trainAt e 112 := by
  simp [trainResult, h, k]

theorem trainResult_far {e : LinkTrain} (h : tripExceeds e 400 = true) : trainResult e = none := if_pos h

theorem lanesFor_full {pass : BitVec 16} (h : pass = 0xFFFF#16) : lanesFor pass = some (16, 0) := if_pos h

/-- Half the lanes, the lower ones or the upper ones, when not all pass. -/
theorem lanesFor_half {pass : BitVec 16} (some_fail : pass ≠ 0xFFFF#16)
    (half : pass &&& 0x00FF#16 = 0x00FF#16 ∨ pass &&& 0xFF00#16 = 0xFF00#16) : ∃ first, lanesFor pass = some (8, first) := by
  unfold lanesFor
  rw [if_neg some_fail]
  by_cases low : pass &&& 0x00FF#16 = 0x00FF#16
  · exact ⟨0, if_pos low⟩
  · exact ⟨8, (if_neg low).trans (if_pos (half.resolve_left low))⟩

theorem trainAt_fast {e : LinkTrain} {lanes first : Nat} (lock : e.lock224 = true) (fits : lanesFor e.pass224 = some (lanes, first)) :
    trainAt e 224 = some (lanes, first, 224) := by
  simp [trainAt, lock, fits]

theorem trainAt_slow {e : LinkTrain} {lanes first : Nat} (lock : e.lock112 = true) (fits : lanesFor e.pass112 = some (lanes, first)) :
    trainAt e 112 = some (lanes, first, 112) := by
  simp [trainAt, lock, fits]

theorem trainResult_unlocked {e : LinkTrain} (fast : e.lock224 = false) (slow : e.lock112 = false) (slowest : e.lock56 = false) :
    trainResult e = none := by
  have none_at (rate : Nat) : trainAt e rate = none := by simp [trainAt, fast, slow, slowest]
  unfold trainResult
  rw [none_at, none_at]
  split
  · rfl
  · split <;> rfl

/-- A link that stayed down is trained again, unless something holds it (R259). -/
theorem exec_retrainTimer : exec (.retrainTimer p) s = .next (modPort s p (fun y =>
    if y.up = true ∨ y.heldBy ≠ 0 ∨ s.boot.links = false then y else { y with training := true })) := by
  show execRetrainTimer p s = _
  unfold execRetrainTimer
  simp only [Bool.or_eq_true, decide_eq_true_eq, Bool.not_eq_true', or_assoc]

end Control

end Sys2Proof.Machine
end

section
/-! PROOFS. Links: what codewords, control flits, losses and training do, together (R256 to R262, R270, R282). -/

namespace Sys2Proof.Machine

section Parts

variable {s : State} {p : Nat}

/-! ### A port that is down (R260) -/

theorem exec_codewordReceive_down (down : (portAt s p).up = false) (ls : List (List Nat)) :
    exec (.codewordReceive p ls) s = .next s := by
  show execCodewordReceive p ls s = _
  unfold execCodewordReceive
  rw [down]
  rfl

theorem exec_controlFlit_down (down : (portAt s p).up = false) (f : ControlFlit) (a : Nat) :
    exec (.controlFlit p f a) s = .next s := by
  show execControlFlit p f a s = _
  unfold execControlFlit
  rw [down]
  rfl

theorem exec_lossOfLock_down (down : (portAt s p).up = false) : exec (.lossOfLock p) s = .next s :=
  congrArg _ (linkDown_unlinked down)

/-- A packet that neither arrives already nor waits at the head of its VC is one that a port that is down does not take. -/
theorem exec_packetHop_down {q : Packet} (down : (portAt s p).up = false) (asm : (portAt s p).asm = none)
    (empty : (portAt s p).vcs.getD (vcOf q) [] = []) : exec (.packetHop (some p) q) s = .next s := by
  show execPacketHop (some p) q s = _
  unfold execPacketHop arrivePacket
  simp only [asm, empty, down, List.head?_nil, Option.map_none, reduceCtorEq, decide_false, Bool.or_self, Bool.not_false, if_true, Bool.false_eq_true, if_false]

/-! ### A running link -/

theorem exec_codewordReceive_up (up : (portAt s p).up = true) (ls : List (List Nat)) : exec (.codewordReceive p ls) s = .next
    (startAll (if (portAt (takeCodeword s p (receivedCodeword (portAt s p).firstLane ls)) p).up = true
      then sendCodeword (takeCodeword s p (receivedCodeword (portAt s p).firstLane ls)) p
      else takeCodeword s p (receivedCodeword (portAt s p).firstLane ls))) := by
  show execCodewordReceive p ls s = _
  unfold execCodewordReceive
  rw [up]
  rfl

end Parts

/-- Settles O18: each clause is what one command does, and what it does to a port stays while the time root is chosen anew and
packets start. -/
theorem links : Obligations.Links := by
  intro s p hi hp
  have inside : p < s.router.ports.length := inv_port hi hp
  refine ⟨?_, ?_, ?_, ?_, ?_, ?_, ?_, ?_, ?_, ?_⟩
  case refine_1 =>
    exact fun down => ⟨exec_codewordReceive_down down, exec_controlFlit_down down, exec_lossOfLock_down down,
      fun _ asm empty => exec_packetHop_down down asm empty⟩
  case refine_2 => exact fun ls up => ⟨_, rfl, exec_codewordReceive_up up ls⟩
  case refine_3 =>
    intro c up asm
    refine ⟨fun ok turn idle => ?_, fun ok turn none_starts => ?_, fun ok turn start vcs packet => ?_, fun bad few => ?_,
      fun bad seven soon => ?_⟩
    · rw [takeCodeword_outOfTurn ok turn]
      exact linkDown_idle hi hp up idle
    · refine ⟨_, takeCodeword_noStart inside asm ok turn none_starts, (otherParts_modPort _).trans (otherParts_modPort _), ?_⟩
      rw [portAt_nextWord (by rw [corrected, length_modPort]; exact inside), corrected, portAt_modPort_same _ _ _ inside, b2n_fixed]
    · obtain ⟨b, first, len, need, k, rfl, passes, hops, here, empty⟩ := packet
      obtain ⟨arrived, others, ends⟩ := takeCodeword_delivers inside asm ok turn start first len need passes hops here vcs empty
      exact ⟨_, _, rfl, by rw [first]; rfl, arrived, others, ends⟩
    · refine ⟨_, takeCodeword_dropped inside asm bad few, (otherParts_modPort _).trans (otherParts_modPort _), ?_⟩
      rw [portAt_uncorrected inside, List.take_of_length_le (by simp only [List.length_cons]; omega)]
    · have port := portAt_uncorrected (s := s) inside
      have lost : loseAssembly (nextWord (uncorrected s p) p) p = nextWord (uncorrected s p) p :=
        loseAssembly_none (by rw [port]; exact asm)
      obtain ⟨down, training, burst, -, cnt, lanterns, moorings⟩ :=
        linkDown_trains (s := nextWord (uncorrected s p) p) (inv_modPort (inv_modPort hi)) hp (by rw [port]; exact up)
      rw [lost, port] at cnt
      exact ⟨_, takeCodeword_eighth inside asm bad seven soon, down, training, burst, cnt, lanterns, moorings⟩
  case refine_4 =>
    intro owner
    obtain ⟨words, flits, cseq, times, others⟩ := sendCodeword_free inside owner
    refine ⟨words, fun plain => ?_, fun control => ?_, others⟩
    · rw [flits, cseq, times, if_neg plain, if_neg plain, if_neg plain]
      exact ⟨rfl, rfl, rfl⟩
    · rw [flits, cseq, times, if_pos control, if_pos control, if_pos control]
      exact ⟨rfl, rfl, rfl⟩
  case refine_5 =>
    exact fun f cseq tx ecseq erx dist root => ⟨controlBytes_length f, controlOfBytes_self cseq tx ecseq erx dist root⟩
  case refine_6 =>
    intro f a up
    obtain ⟨t, heard, ⟨link, -⟩, moorings, lanterns⟩ := controlFlit_heard inside up f a
    obtain ⟨on, cseq, at_, dist, root⟩ := heardFlit_fields f a (portAt s p)
    refine ⟨t, heard, ?_, ?_, ?_, ?_, ?_, fun q sent => ?_, moorings, lanterns⟩ <;> rw [link]
    · exact on
    · exact cseq
    · exact at_
    · exact dist
    · exact root
    · exact heardFlit_exchange sent a
  case refine_7 =>
    intro up
    obtain ⟨down, training, -, peerOn, -, lanterns, moorings⟩ := linkDown_trains hi hp up
    exact ⟨fun idle => ⟨_, rfl, linkDown_idle hi hp up idle⟩, _, rfl, down, training, peerOn, lanterns, moorings⟩
  case refine_8 => exact exec_trainingDone_idle
  case refine_9 =>
    intro e training held
    refine ⟨fun near lock all => ?_, fun near lock some_fail half => ?_, fun middle within lock all => ?_, fun far => ?_,
      tripExceeds_iff e, fun fast slow slowest => ?_⟩
    · exact trainingEnds_up inside training held ((trainResult_near near).trans (trainAt_fast lock (lanesFor_full all)))
    · obtain ⟨first, fits⟩ := lanesFor_half some_fail half
      exact trainingEnds_up inside training held ((trainResult_near near).trans (trainAt_fast lock fits))
    · exact trainingEnds_up inside training held ((trainResult_middle middle within).trans (trainAt_slow lock (lanesFor_full all)))
    · exact trainingEnds_down inside training held (trainResult_far far) 0 0
    · exact trainingEnds_down inside training held (trainResult_unlocked fast slow slowest) 0 0
  case refine_10 => exact exec_retrainTimer

end Sys2Proof.Machine
end
